-- ==== Sys2Proof/Word.lean ====
section
/-! DEFINITION. The word types of the Virnaper Juette (spec/00_scope.md, section "Notation"): a byte, and the 16- and
32-bit words that registers, event CAUSE words and signal slots are made of. -/

namespace Sys2Proof

/-- One byte of a packet, a ring, a register window or flash. -/
abbrev Byte := BitVec 8

/-- A 16-bit word: QUALITY, PRODUCER and SEQNO of a signal slot (Table 1.7). -/
abbrev Half := BitVec 16

/-- A 32-bit word: VALUE and STAMP of a slot, an event CAUSE word, a 32-bit register. -/
abbrev Word := BitVec 32

end Sys2Proof
end

