-- ==== Sys2Proof/Syntax.lean ====
section
/-! DEFINITION. The commands of the block: one constructor of `Instr` for each row of spec/opcode_table.json.

A row that names a Phiveox opcode (spec/02_phiveox_commands.md, Table 2.9) carries `ctx tag`: it is the execution of the
command that COMMAND_FETCH has fetched on context `ctx` with that tag; its header and payload bytes are those held in
`State`.  A row of the host or management port carries the transaction's address, data and check bytes.  Every other
row is an event inside or around the module; it carries the resource concerned and, where the outside world decides
something (a conversion's codes, a measured current, a received frame), that quantity. -/

namespace Sys2Proof

/-- The two ports that reach the RTC block and a register window (R299, R301, R303). -/
inductive PortSide where
  | host
  | mgmt
  deriving DecidableEq, Repr

/-- The retry faults of R145, by the part they concern. -/
inductive RetryKind where
  | overload
  | shuntOpen
  | loopPwrLimit
  | voutLimit
  | odLimitA
  | odLimitB
  | supplyLimit
  deriving DecidableEq, Repr

/-- The content of an IDENT frame (R334); `refusesUs` says that the neighbour has refused this module's identity. -/
structure IdentBody where
  uid : Nat
  node : Option Nat
  bwPrio : Nat
  bwUid : Nat
  generation : Nat
  refusesUs : Bool
  deriving DecidableEq, Repr

/-- One UP link listed in a link-state advertisement: the neighbour's UID, the COST and the link version (R342), and
whether the link is an LVDS link, which the route bound of R353 needs. -/
structure LsaLink where
  peer : Nat
  cost : Nat
  version : Nat
  lvds : Bool
  deriving DecidableEq, Repr

/-- The content of a link-state advertisement (R342). -/
structure LsaBody where
  uid : Nat
  node : Option Nat
  bwPrio : Nat
  seq : Nat
  links : List LsaLink
  deriving DecidableEq, Repr

/-- The content of a TIME frame (R356); `origin` is ORIGIN in nanoseconds of fabric time. -/
structure TimeBody where
  bwUid : Nat
  generation : Nat
  steps : Nat
  seq : Nat
  dist : Nat
  unset : Bool
  holdover : Bool
  origin : Nat
  deriving DecidableEq, Repr

/-- The content of a SUBSCRIBE frame (R364) and the node that sent it. -/
structure SubscribeBody where
  src : Nat
  stream : Nat
  cls : Nat
  interval : Nat
  sids : List Nat
  rate : Nat
  deriving DecidableEq, Repr

/-- Why a Flock frame is discarded on arrival (R337, R340). -/
inductive CorruptKind where
  | hcrc
  | reservedType
  | fcs
  deriving DecidableEq, Repr

/-- A CAN frame as the bus carries it (R391, Table 12.7). -/
structure CanFrame where
  id : Nat
  ide : Bool
  fdf : Bool
  brs : Bool
  esi : Bool
  rtr : Bool
  dlc : Nat
  data : List Byte
  deriving DecidableEq, Repr

/-- The commands of the Virnaper Juette, one constructor for each row of spec/opcode_table.json. -/
inductive Instr where
  /-- SESSION_OPEN (R63). Opens or renegotiates a session on a context and negotiates the protocol version. -/
  | sessionOpen (ctx tag : Nat)
  /-- SESSION_CLOSE (R68). Aborts outstanding commands, discards the staged set and closes the session. -/
  | sessionClose (ctx tag : Nat)
  /-- HEARTBEAT (R455). Restarts the host heartbeat timer and the fan watchdog. -/
  | heartbeat (ctx tag : Nat)
  /-- ABORT (R86). Aborts a named command, or answers TOO_LATE past its point of no return. -/
  | abort (ctx tag : Nat)
  /-- ECHO (R89). Returns the payload unchanged. -/
  | echo (ctx tag : Nat)
  /-- OBJ_GET (R75). Reads a list of attributes of one object. -/
  | objGet (ctx tag : Nat)
  /-- OBJ_SET (R75). Stages and commits the attribute records of one object in one packet. -/
  | objSet (ctx tag : Nat)
  /-- OBJ_STAGE (R76). Stages attribute records in the session's staged set. -/
  | objStage (ctx tag : Nat)
  /-- OBJ_COMMIT (R78). Validates the whole staged set and makes it active in one step. -/
  | objCommit (ctx tag : Nat)
  /-- OBJ_DISCARD (R78). Discards the session's staged set. -/
  | objDiscard (ctx tag : Nat)
  /-- OBJ_CREATE (R556). Stages the creation of a LOOP, ZONE, SCHEDULE, ROUTE or STREAM instance. -/
  | objCreate (ctx tag : Nat)
  /-- OBJ_DELETE (R556). Stages the deletion of an instance. -/
  | objDelete (ctx tag : Nat)
  /-- OBJ_OWNER (R88). Reads or changes the owner of an object at once. -/
  | objOwner (ctx tag : Nat)
  /-- OBJ_LIST (R559). Lists the instances of one object type. -/
  | objList (ctx tag : Nat)
  /-- STREAM_OPEN (R363). Opens an import or host stream. -/
  | streamOpen (ctx tag : Nat)
  /-- STREAM_CLOSE (R363). Closes a stream, sending UNSUBSCRIBE for an import. -/
  | streamClose (ctx tag : Nat)
  /-- SIGNAL_READ (R368). Reads one 16-byte signal slot. -/
  | signalRead (ctx tag : Nat)
  /-- SIGNAL_FORCE (R368). Writes a FORCED value into a slot, overriding its producer. -/
  | signalForce (ctx tag : Nat)
  /-- SIGNAL_RELEASE (R368). Ends a FORCED override of a slot. -/
  | signalRelease (ctx tag : Nat)
  /-- SEQ_START (R163). Arms a sequence. -/
  | seqStart (ctx tag : Nat)
  /-- SEQ_STOP (R163). Disarms a sequence after its running pass ends. -/
  | seqStop (ctx tag : Nat)
  /-- SEQ_READ (R164). Reads result registers, optionally consuming FRESH. -/
  | seqRead (ctx tag : Nat)
  /-- CAL_ZERO (R180). Starts a zero-point capture on a port channel. -/
  | calZero (ctx tag : Nat)
  /-- CAL_SPAN (R181). Starts a full-scale capture and computes a new calibration record. -/
  | calSpan (ctx tag : Nat)
  /-- CAL_READ (R184). Reads bytes of the stored calibration set. -/
  | calRead (ctx tag : Nat)
  /-- CAL_WRITE (R185). Accumulates chunks of a saved set and writes the store on FINAL. -/
  | calWrite (ctx tag : Nat)
  /-- CAL_CAPTURE_DONE (R179). A calibration capture of 256 conversions ends and its result is judged. -/
  | calCaptureDone (chan : Nat) (codes : List Nat) (clipped : Bool)
  /-- CAL_CAPTURE_TIMEOUT (R179). A capture not finished within 1 s completes BUSY. -/
  | calCaptureTimeout (chan : Nat)
  /-- ZERO_CAPTURE_EXPIRY (R180). A held zero capture is discarded after 600 s. -/
  | zeroCaptureExpiry (chan range : Nat)
  /-- CAL_STORE_WRITE_DONE (R182). A calibration store write completes and the working copy is switched. -/
  | calStoreWriteDone (mismatches : Nat)
  /-- PWM_GROUP_ENABLE (R195). Starts a PWM group in FREE or FOLLOW. -/
  | pwmGroupEnable (ctx tag : Nat)
  /-- PWM_GROUP_DISABLE (R213). Drives a group to its idle state. -/
  | pwmGroupDisable (ctx tag : Nat)
  /-- GROUP_SAFE (R213). Drives a group to its safe state, taking ownership from management. -/
  | groupSafe (ctx tag : Nat)
  /-- TRIP_CLEAR (R210). Clears a bridge trip latch and WCOUNT. -/
  | tripClear (ctx tag : Nat)
  /-- DAMPER_MOVE (R230). Moves a damper to a target position. -/
  | damperMove (ctx tag : Nat)
  /-- DAMPER_REHOME (R231). Runs a damper to its end stops in FULL or NEAR mode. -/
  | damperRehome (ctx tag : Nat)
  /-- VALVE_SET (R236). Sets a valve command. -/
  | valveSet (ctx tag : Nat)
  /-- FAN_SET (R241). Sets a fan command. -/
  | fanSet (ctx tag : Nat)
  /-- ACT_FAULT_CLEAR (R247). Clears latched actuator faults and restarts a fan. -/
  | actFaultClear (ctx tag : Nat)
  /-- LOOP_ENABLE (R271). Clears loop state and starts accepting triggers. -/
  | loopEnable (ctx tag : Nat)
  /-- LOOP_DISABLE (R271). Drops a pending evaluation and stops accepting triggers. -/
  | loopDisable (ctx tag : Nat)
  /-- BANK_SWAP (R261). Requests a coefficient-bank swap at the next accepted trigger. -/
  | bankSwap (ctx tag : Nat)
  /-- LOOP_STATUS (R274). Reads loop state, saturation and latency counters. -/
  | loopStatus (ctx tag : Nat)
  /-- INTEGRATOR_PRESET (R273). Presets a PID integrator for the next evaluation. -/
  | integratorPreset (ctx tag : Nat)
  /-- SAT_CLEAR (R270). Clears a loop's saturation alarm. -/
  | satClear (ctx tag : Nat)
  /-- ZONE_STATUS (R293). Reads zone model state and residual. -/
  | zoneStatus (ctx tag : Nat)
  /-- FIT_ENABLE (R287). Starts on-line fitting of a zone. -/
  | fitEnable (ctx tag : Nat)
  /-- FIT_DISABLE (R287). Stops on-line fitting of a zone. -/
  | fitDisable (ctx tag : Nat)
  /-- SUSPECT_OVERRIDE (R286). Ends a substitution and suspends plausibility checking. -/
  | suspectOverride (ctx tag : Nat)
  /-- PRESENCE_READ (R293). Reads a zone's fused presence state. -/
  | presenceRead (ctx tag : Nat)
  /-- PREDICT_START (R295). Queues an optimal-start prediction for a zone. -/
  | predictStart (ctx tag : Nat)
  /-- TIME_CAPTURE (R302). Captures RTC, transit stamp and fabric time at the next prescaler tick. -/
  | timeCapture (ctx tag : Nat)
  /-- TIME_SET (R304). Sets the RTC from a count or calendar time. -/
  | timeSet (ctx tag : Nat)
  /-- CALENDAR_SET (R318). Writes the local offset and daylight-saving table. -/
  | calendarSet (ctx tag : Nat)
  /-- WAKE_SET (R311). Writes the periodic wake period and flags. -/
  | wakeSet (ctx tag : Nat)
  /-- ALARM_SET (R310). Writes the alarm and asserts or releases PWR_ON. -/
  | alarmSet (ctx tag : Nat)
  /-- EPHEMERIS_READ (R308). Reads the ephemeris table from backup RAM or flash. -/
  | ephemerisRead (ctx tag : Nat)
  /-- EPHEMERIS_WRITE (R308). Writes the ephemeris table to backup RAM and flash. -/
  | ephemerisWrite (ctx tag : Nat)
  /-- EPHEMERIS_FLASH_DONE (R308). The flash copy of the ephemeris table is programmed and read back. -/
  | ephemerisFlashDone (ok : Bool)
  /-- SCHEDULE_STATUS (R325). Reads the governing and next schedule entry of a zone. -/
  | scheduleStatus (ctx tag : Nat)
  /-- LINK_STATUS (R372). Reads link state and counters. -/
  | linkStatus (ctx tag : Nat)
  /-- LINK_RETRAIN (R373). Takes a link back to TRAINING and runs bring-up. -/
  | linkRetrain (ctx tag : Nat)
  /-- LINK_RETRAIN_DONE (R373). A retrain ends with the link UP or ISOLATED, or after 10 s. -/
  | linkRetrainDone (link : Nat)
  /-- TOPOLOGY_READ (R374). Reads the known nodes of the fabric. -/
  | topologyRead (ctx tag : Nat)
  /-- ROUTE_STATUS (R374). Reads route state, bound and path. -/
  | routeStatus (ctx tag : Nat)
  /-- BELLWETHER_STATUS (R375). Reads bellwether identity and fabric time. -/
  | bellwetherStatus (ctx tag : Nat)
  /-- POLICE_COUNTERS (R376). Reads and optionally clears class-0 policing counters. -/
  | policeCounters (ctx tag : Nat)
  /-- CAN_START (R386). Joins a controller to the bus. -/
  | canStart (ctx tag : Nat)
  /-- CAN_STOP (R386). Stops a controller after the frame in flight and ends pending sends. -/
  | canStop (ctx tag : Nat)
  /-- CAN_SEND (R389). Queues a frame for transmission. -/
  | canSend (ctx tag : Nat)
  /-- CAN_CANCEL (R390). Cancels a queued CAN frame. -/
  | canCancel (ctx tag : Nat)
  /-- CAN_STATUS (R405). Reads controller error state and counters. -/
  | canStatus (ctx tag : Nat)
  /-- CAN_TIME_MASTER (R406). Sets time-master priority at once. -/
  | canTimeMaster (ctx tag : Nat)
  /-- PANEL_POWER (R419). Sequences panel rails up or down. -/
  | panelPower (ctx tag : Nat)
  /-- REGION_UPDATE (R428). Updates a panel region from the framebuffer. -/
  | regionUpdate (ctx tag : Nat)
  /-- REGION_CLEAR (R428). Runs the clearing waveform on a region. -/
  | regionClear (ctx tag : Nat)
  /-- PANEL_STATUS (R414). Reads panel status and temperature. -/
  | panelStatus (ctx tag : Nat)
  /-- LEDGER_SWEEP (R426). Writes sweep rate, minimum and mode at once. -/
  | ledgerSweep (ctx tag : Nat)
  /-- FIELD_REFRESH (R435). Renders text fields at once. -/
  | fieldRefresh (ctx tag : Nat)
  /-- POWER_STATUS (R489). Reads supplies and VACT budget. -/
  | powerStatus (ctx tag : Nat)
  /-- THERMAL_STATUS (R503). Reads the thermal estimate, sites and step. -/
  | thermalStatus (ctx tag : Nat)
  /-- RESET (R472). Schedules a main-side reset after DELAY_MS. -/
  | reset (ctx tag : Nat)
  /-- RESET_DELAY_EXPIRY (R472). DELAY_MS elapses and the main side enters reset, cause COMMAND. -/
  | resetDelayExpiry
  /-- RESET_CAUSE_READ (R472). Reads RESET_CAUSE and clears its bits and COUNT. -/
  | resetCauseRead (ctx tag : Nat)
  /-- BUDGET_SET (R500). Sets the module power budget and floor step. -/
  | budgetSet (ctx tag : Nat)
  /-- FW_INFO (R522). Reads both firmware bank records. -/
  | fwInfo (ctx tag : Nat)
  /-- FW_WRITE (R519). Writes a chunk to the firmware staging buffer. -/
  | fwWrite (ctx tag : Nat)
  /-- FW_COMMIT (R520). Verifies, programs and activates a firmware bank. -/
  | fwCommit (ctx tag : Nat)
  /-- FW_COMMIT_DONE (R520). The bank is programmed, verified and the pointer written. -/
  | fwCommitDone (mismatches : Nat)
  /-- FW_SELECT (R521). Confirms a trial bank or activates a bank. -/
  | fwSelect (ctx tag : Nat)
  /-- YELIST_WRITE (R484). Writes a chunk of a new image to the inactive slot. -/
  | yelistWrite (ctx tag : Nat)
  /-- YELIST_LOAD (R485). Verifies and switches to a Yelist image. -/
  | yelistLoad (ctx tag : Nat)
  /-- YELIST_LOAD_DONE (R486). A load finishes validation, writes the pointer and applies the difference. -/
  | yelistLoadDone (panelsIdle : Bool) (flashError : Bool)
  /-- IDENTITY_READ (R488). Reads the device identity record. -/
  | identityRead (ctx tag : Nat)
  /-- EVENT_ROUTE (R94). Writes an event's route word. -/
  | eventRoute (ctx tag : Nat)
  /-- EVENT_MASK (R94). Writes an event's MASKED bit. -/
  | eventMask (ctx tag : Nat)
  /-- EVENT_READ (R91). Reads event state and optionally acknowledges it. -/
  | eventRead (ctx tag : Nat)
  /-- QUEUE_CONFIG (R104). Writes a queue descriptor and restarts the queue. -/
  | queueConfig (ctx tag : Nat)
  /-- QUEUE_STATUS (R111). Reads queue indices and counters, restarting HIGH. -/
  | queueStatus (ctx tag : Nat)
  /-- COALESCE_SET (R110). Sets notification coalescing of a queue. -/
  | coalesceSet (ctx tag : Nat)
  /-- LOG_READ (R514). Reads fault log entries. -/
  | logRead (ctx tag : Nat)
  /-- LOG_CLEAR (R514). Empties the fault log and its always-on copy. -/
  | logClear (ctx tag : Nat)
  /-- COUNTERS_READ (R515). Reads module counters. -/
  | countersRead (ctx tag : Nat)
  /-- SELFTEST (R516). Runs the selected self-tests. -/
  | selftest (ctx tag : Nat)
  /-- SELFTEST_DONE (R516). The selected self-tests finish and report. -/
  | selftestDone (pass fail stores : Nat)
  /-- SHEEPDOG_STATUS (R510). Reads the state of every sheepdog. -/
  | sheepdogStatus (ctx tag : Nat)
  /-- COMMAND_FETCH (R74). A command is fetched from a submission carrier once MAXOUT and a completion entry allow. -/
  | commandFetch (ctx : Nat)
  /-- DEADLINE_EXPIRY (R57). A fetched command's deadline passes before it starts and it completes TIMEOUT. -/
  | deadlineExpiry (ctx tag : Nat)
  /-- DELIVERY_RECORD_WRITE (R99). A pending event's delivery record is written once its queue has room. -/
  | deliveryRecordWrite (event : Nat)
  /-- COAL_TIME_EXPIRY (R110). The oldest un-notified record has waited COAL_TIME and the notification fires. -/
  | coalTimeExpiry (queue : Nat)
  /-- REG_READ (R439). Host-port read of the HIF_ window on IO0 and IO1. -/
  | regRead (addr len : Nat)
  /-- REG_WRITE (R440). Host-port checked write to the HIF_ window. -/
  | regWrite (addr : Nat) (data : List Byte) (crc : Nat)
  /-- REG_READ_Q (R439). Quad host-port read of the HIF_ window. -/
  | regReadQ (addr len : Nat)
  /-- REG_WRITE_Q (R440). Quad host-port checked write to the HIF_ window. -/
  | regWriteQ (addr : Nat) (data : List Byte) (crc : Nat)
  /-- RING_READ (R439). Host-port read of the queue-ring region. -/
  | ringRead (addr len : Nat)
  /-- RING_WRITE (R441). Host-port checked write into a host-produced ring. -/
  | ringWrite (addr : Nat) (data : List Byte) (crc : Nat)
  /-- RING_READ_Q (R439). Quad host-port read of the queue-ring region. -/
  | ringReadQ (addr len : Nat)
  /-- RING_WRITE_Q (R441). Quad host-port checked write into a host-produced ring. -/
  | ringWriteQ (addr : Nat) (data : List Byte) (crc : Nat)
  /-- HIF_WRITE_APPLY (R440). A held checked write is applied in CS# order. -/
  | hifWriteApply
  /-- HIF_EVT_ACK (R445). Write acknowledging an event, clearing PENDING and COUNT. -/
  | hifEvtAck (event : Nat)
  /-- DOORBELL (R107). Write of a new tail or head index to a queue doorbell. -/
  | doorbell (queue index : Nat)
  /-- HIF_BIND (R444). Write binding a host context to a serving node. -/
  | hifBind (hctx value : Nat)
  /-- HIF_ERRCNT_RESTART (R562). Write restarting a half of HIF_ERRCNT. -/
  | hifErrcntRestart (first : Nat) (data : List Byte)
  /-- RTC_TIME_READ (R301). Read of an RTC time byte that freezes or releases the port's shadows. -/
  | rtcTimeRead (port : PortSide) (index : Nat)
  /-- RTC_SHADOW_TIMEOUT (R301). Shadows release 1 s after a freeze and FRZ_TO sets. -/
  | rtcShadowTimeout (port : PortSide)
  /-- RTC_SEC_STAGE (R303). Write of RTC_SEC0–RTC_SEC3 into the port's staging bytes. -/
  | rtcSecStage (port : PortSide) (index : Nat) (value : Byte)
  /-- RTC_SEC4_COMMIT (R303). Write of RTC_SEC4 committing the staged count. -/
  | rtcSec4Commit (port : PortSide) (value : Byte)
  /-- PWR_ON_ASSERT (R312). Write of 1 to RTC_CTL.PWR_ON asserts PWR_ON. -/
  | pwrOnAssert (port : PortSide)
  /-- PWR_ON_RELEASE (R312). Write of 0 to RTC_CTL.PWR_ON releases PWR_ON. -/
  | pwrOnRelease (port : PortSide)
  /-- REGISTER_WRITE (R21). Write to a register that has no row of its own. -/
  | registerWrite (port : PortSide) (addr : Nat) (value : Byte)
  /-- ID (R448). Management identity read. -/
  | id
  /-- STATUS (R448). Management read of MGT_STAT. -/
  | status
  /-- RESET_MAIN (R453). Management action resetting the main side. -/
  | resetMain (pec : Option Byte)
  /-- HOLD_MAIN (R453). Management action holding the main side in reset. -/
  | holdMain (pec : Option Byte)
  /-- RELEASE_MAIN (R453). Management action releasing a held main side. -/
  | releaseMain (pec : Option Byte)
  /-- SAFE_ALL (R453). Management action holding every present group safe. -/
  | safeAll (pec : Option Byte)
  /-- MGT_REG_READ (R449). Management REG_READ of the management space. -/
  | mgtRegRead (addr n : Nat)
  /-- MGT_REG_WRITE (R449). Management REG_WRITE to the management space. -/
  | mgtRegWrite (addr : Nat) (data : List Byte) (pec : Option Byte)
  /-- MGT_SAFE_HOLD (R452). Write of 1 to MGT_SAFE.HELD holds a group safe. -/
  | mgtSafeHold (group : Nat)
  /-- MGT_SAFE_RELEASE (R452). Write of 0 to MGT_SAFE.HELD releases a group to the host. -/
  | mgtSafeRelease (group : Nat)
  /-- PKT_WRITE (R450). Writes a chunk of a management packet, placing it in Q60 on LAST. -/
  | pktWrite (flags : Byte) (data : List Byte) (pec : Option Byte)
  /-- PKT_READ (R450). Reads the next chunk of the oldest management record. -/
  | pktRead
  /-- PKT_REREAD (R450). Repeats the last PKT_READ chunk. -/
  | pktReread
  /-- ALERT_READ (R448). Reads MGT_ALERT0–3. -/
  | alertRead
  /-- ALERT_CLEAR (R448). Clears bits of MGT_ALERT0–3. -/
  | alertClear (data : List Byte) (pec : Option Byte)
  /-- ALERT_RESPONSE (R447). Alert Response Address read answered with the module address, releasing ALERT#. -/
  | alertResponse
  /-- SMBUS_TIMEOUT (R447). SCL held low for 25 ms resets the management interface. -/
  | smbusTimeout
  /-- ALWAYS_ON_POR_EXIT (R465). VSYS_R or VACT rises through 6.0 V and the always-on domain leaves power-on reset. -/
  | alwaysOnPorExit (vsysR vact : Nat) (ft : Bool)
  /-- ALWAYS_ON_POR_ENTRY (R458). VSYS_R and VACT fall below 5.0 V and the always-on domain enters power-on reset. -/
  | alwaysOnPorEntry (vsysR vact : Nat)
  /-- VSYS_LOW (R458). VSYS_R falls below 11.0 V and E120 fires. -/
  | vsysLow (vsysR : Nat)
  /-- POWER_FAIL (R466). VSYS_R falls through 10.0 V and the power-fail sequence runs. -/
  | powerFail (vsysR : Nat)
  /-- VACT_LOW (R458). VACT falls below 9.5 V and E121 fires. -/
  | vactLow (vact : Nat)
  /-- VACT_SHED (R459). VACT falls below 8.5 V and bridge and loop-powered ports are shed. -/
  | vactShed (vact : Nat)
  /-- VACT_RESTORE (R459). VACT stays above 9.8 V for 100 ms and shed ports are restored. -/
  | vactRestore (vact : Nat)
  /-- VACT_SWITCH_TRIP (R459). VACT current above 9 A opens the input switch. -/
  | vactSwitchTrip
  /-- VACT_SWITCH_RETRY (R459). The VACT input switch retries 1 s after a trip. -/
  | vactSwitchRetry
  /-- HOTSWAP_CHARGED (R461). Charging completes and the hot-swap switch closes. -/
  | hotswapCharged (vsysR : Nat) (ac : Option Bool)
  /-- HOTSWAP_FAULT (R461). Limiting lasts FAULT_MS and the switch opens. -/
  | hotswapFault (peak : Nat)
  /-- HOTSWAP_FAST_TRIP (R461). Input current of 4.0 A for 2 µs opens the switch. -/
  | hotswapFastTrip (peak : Nat)
  /-- HOTSWAP_RETRY (R463). The controller restarts charging 1 s after a fault. -/
  | hotswapRetry
  /-- BACKUP_DOMAIN_RESET (R316). VB dips below 1.6 V for 10 µs and the backup domain resets. -/
  | backupDomainReset
  /-- HRESET_ASSERT (R471). HRESET# held low asserts the main-side reset. -/
  | hresetAssert
  /-- HRESET_RELEASE (R471). HRESET# high for 100 µs lets the main side boot. -/
  | hresetRelease
  /-- DEBUG_RESET (R468). Debug-port reset request resets the main side. -/
  | debugReset
  /-- DEBUG_HALT (R211). Debug halt of the timed islands applies each group's halt behaviour. -/
  | debugHalt
  /-- DEBUG_HALT_RELEASE (R212). Release of the debug halt leaves halted groups DISABLED. -/
  | debugHaltRelease
  /-- BOOT (R475). Release of the main-side reset starts the boot sequence. -/
  | boot (vbat bootMs : Nat) (boot0 boot1 : Bool)
  /-- REF_STOP (R28). No transit-reference edge for 200 ns: the reference is declared stopped. -/
  | refStop
  /-- REF_RESTART (R28). The reference has run 10 ms without a gap and the timed islands may restart. -/
  | refRestart
  /-- SYNC_IN_PULSE (R194). A pulse on SYNC_IN adjusts G0's period in FOLLOW. -/
  | syncInPulse
  /-- PERIOD_BOUNDARY (R205). A group period boundary moves shadows to the active set and sends the sync pulse. -/
  | periodBoundary (group : Nat)
  /-- DELAY_LINE_CALIBRATION (R189). Background trim of the delay lines every 10 ms. -/
  | delayLineCalibration (failed : List Nat)
  /-- HALT_HOLD_EXPIRY (R211). FREEZE_THEN_SAFE hold ends and the group goes SAFE. -/
  | haltHoldExpiry (group : Nat)
  /-- OVERCURRENT_TRIP (R208). The raw comparator fires and the high side turns off for the period. -/
  | overcurrentTrip (port : Nat)
  /-- PROTECT_ENTRY (R143). A terminal outside its protect window for 10 µs switches parts off. -/
  | protectEntry (port : Nat) (high low : Bool)
  /-- PROTECT_EXIT (R143). Terminals inside the window for 100 ms return the port through SETTLING. -/
  | protectExit (port : Nat)
  /-- RETRY_FAULT (R145). A retry fault switches a part off and puts the port in RETRY or LATCHED. -/
  | retryFault (port : Nat) (kind : RetryKind)
  /-- OVERLOAD_AVERAGE_UPDATE (R145). The 1 s bridge-current mean is updated every 1 ms. -/
  | overloadAverageUpdate (port current : Nat)
  /-- RETRY_EXPIRY (R145). The 1 s RETRY ends and the port returns through SETTLING. -/
  | retryExpiry (port : Nat)
  /-- SETTLING_EXPIRY (R135). SETTLING ends after 2 ms and the port becomes ACTIVE. -/
  | settlingExpiry (port : Nat)
  /-- DIN_EDGE (R139). A raw edge on a DIN terminal is counted and captured. -/
  | dinEdge (port : Nat) (termB : Bool) (mv : Int)
  /-- DEBOUNCE_EXPIRY (R139). An input stable for DEBOUNCE ms writes its level slot and fires EDGE_A or EDGE_B. -/
  | debounceExpiry (port : Nat) (termB : Bool)
  /-- SBUS_POLL (R140). A sensor-bus poll pass starts at SBUS_PERIOD. -/
  | sbusPoll (port : Nat) (reads : List (Option (List Byte)))
  /-- SBUS_STUCK (R141). SDA held low for 25 ms: nine SCL pulses and a STOP; pass abandoned. -/
  | sbusStuck (port : Nat)
  /-- PYRO_SETTLE_EXPIRY (R130). 30 s after entering PYRO, MOTION suppression ends. -/
  | pyroSettleExpiry (port : Nat)
  /-- OUTPUT_SOURCE_CHECK (R138). VOUT or ODOUT source checked every 10 ms, applying OUT_FAIL when unusable. -/
  | outputSourceCheck (port : Nat)
  /-- SEQ_PASS_DUE (R159). A sequence pass falls due by its trigger. -/
  | seqPassDue (head : Nat)
  /-- SEQ_PASS_START (R160). A due pass takes its slices and starts. -/
  | seqPassStart (head : Nat)
  /-- CONVERSION_RESULT (R174). An entry's result reaches the synchroniser, is corrected and writes its slot; `ripple` is the
  band-passed sample and I_m of a motor's current (R222). -/
  | conversionResult (entry : Nat) (codes : List Nat) (high low : Bool) (ripple : Int × Int) (skew : List (Nat × Int))
  /-- SEQ_PASS_END (R163). A pass ends and SEQ_DONE may fire. -/
  | seqPassEnd (head : Nat)
  /-- EQUALISATION (R153). Slices convert CH77 and CH78 every 10 ms and trims are updated. -/
  | equalisation (slice ref zero : Nat)
  /-- HOUSEKEEPING (R155). ADC3 converts internal channels on their schedule. -/
  | housekeeping (chan code : Nat)
  /-- RIPPLE_LOST (R223). No count for the ripple timeout: motor braked, position UNKNOWN. -/
  | rippleLost (port : Nat)
  /-- ENDSTOP_TOUCH (R224). Current above ENDSTOP_I for ENDSTOP_MS without a count is a touch or jam. -/
  | endstopTouch (port : Nat)
  /-- DAMPER_MOVE_END (R228). Current below I_MIN for 20 ms ends a move. -/
  | damperMoveEnd (port : Nat)
  /-- DWELL_EXPIRY (R228). The brake dwell ends and the next leg or move starts. -/
  | dwellExpiry (port : Nat)
  /-- DAMPER_OPEN_LOAD (R232). No current for 500 ms while driven stops the move. -/
  | damperOpenLoad (port : Nat)
  /-- MAX_RUN_EXPIRY (R231). A re-home leg makes no touch within MAX_RUN. -/
  | maxRunExpiry (port : Nat)
  /-- REHOME_INT_EXPIRY (R231). REHOME_INT hours pass and a NEAR re-home is due. -/
  | rehomeIntExpiry (port : Nat)
  /-- DAMPER_TARGET_CHANGE (R228). A target slot write starts a move beyond DEADBAND. -/
  | damperTargetChange (port : Nat)
  /-- POSITION_WRITE (R226). The damper position is written to POS_SID every 100 ms or 1 s. -/
  | positionWrite (port : Nat)
  /-- BOOST_EXPIRY (R237). A thermal valve's boost ends. -/
  | boostExpiry (port : Nat)
  /-- VALVE_OPEN_LOAD (R237). Thermal valve current below 10 mA for 1 s flags open load. -/
  | valveOpenLoad (port : Nat)
  /-- FLOATING_VALVE_DRIVE_END (R239). A timed floating-valve drive or sync run ends. -/
  | floatingValveDriveEnd (port : Nat)
  /-- SPINUP_WINDOW_END (R243). A fan spin-up attempt ends in RUN, GAP or STALL. -/
  | spinupWindowEnd (port : Nat)
  /-- GAP_END (R243). The 5 s gap ends and a new attempt starts. -/
  | gapEnd (port : Nat)
  /-- TACH_EDGE (R242). A tach edge updates speed and SPEED_SID. -/
  | tachEdge (port : Nat)
  /-- TACH_LOST (R244). No tach edge within the timeout forces f = 1.0. -/
  | tachLost (port : Nat)
  /-- ACTUATOR_SOURCE_CHECK (R220). Actuator source slot checked every 10 ms. -/
  | actuatorSourceCheck (port : Nat)
  /-- FAN_WATCHDOG (R246). FAN_DOG s without a heartbeat force every fan to 1.0. -/
  | fanWatchdog
  /-- SLOT_SOURCE_CHECK (R199). PWM slot source checked every 10 ms, applying FAIL_DUTY. -/
  | slotSourceCheck (port : Nat)
  /-- LOOP_TRIGGER (R264). A loop trigger falls due and is accepted or skipped. -/
  | loopTrigger (loop : Nat)
  /-- LOOP_EVALUATION (R265). A lane takes a pending evaluation and runs the loop graph: `work` is the lane and how many node
  words it runs now. -/
  | loopEvaluation (work : Nat × Nat)
  /-- STARVED (R266). A class-2 or class-3 evaluation pending 4 × PERIOD is aged into class 1. -/
  | starved (loop : Nat)
  /-- SAT_ALARM (R270). SAT_RUN reaches SAT_LIMIT. -/
  | satAlarm (loop : Nat)
  /-- ZONE_UPDATE (R278). A zone model update falls due and runs. -/
  | zoneUpdate (zone : Nat)
  /-- REINIT_TIMEOUT (R282). y not usable within 2 × UPDATE_S: nodes take 20 °C, zone OPEN. -/
  | reinitTimeout (zone : Nat)
  /-- SUSPEND_EXPIRY (R286). SUSPEND_S ends and plausibility checking resumes. -/
  | suspendExpiry (zone : Nat)
  /-- PREDICTION (R296). A queued prediction runs its steps and replies. -/
  | prediction
  /-- PRESENCE_EVIDENCE (R292). Presence evidence arrives and the state machine acts. -/
  | presenceEvidence (zone source : Nat)
  /-- HOLD_EXPIRY (R292). The presence hold timer expires and the zone becomes VACANT. -/
  | holdExpiry (zone : Nat)
  /-- PRES_SID_REFRESH (R292). PRES_SID written every 10 s. -/
  | presSidRefresh (zone : Nat)
  /-- ALARM (R310). The count becomes equal to RTC_ALM and the alarm fires. -/
  | alarm
  /-- WAKE (R311). A periodic wake falls due. -/
  | wake
  /-- TRIM_INTERVAL (R307). Every 32 s the backup domain computes and spreads the rate trim. -/
  | trimInterval (temp : Int)
  /-- SCHEDULE_EVALUATION (R324). At each minute boundary every zone's governing entry is evaluated. -/
  | scheduleEvaluation
  /-- OPTIMAL_START_CHECK (R326). Every 5 min before a nominal start, a prediction is requested. -/
  | optimalStartCheck (zone : Nat)
  /-- EARLY_START (R326). A prediction reply makes the entry take effect early. -/
  | earlyStart (zone : Nat)
  /-- LINK_SIGNAL_DETECTED (R332). A neighbour signal starts link training. -/
  | linkSignalDetected (link : Nat)
  /-- PHY_LINK_ESTABLISHED (R332). The PHY link is established and VERSION exchange starts. -/
  | phyLinkEstablished (link level : Nat)
  /-- TRAINING_TIMEOUT (R332). A bring-up step is not reached in time and training restarts. -/
  | trainingTimeout (link : Nat)
  /-- VERSION (R333). A VERSION frame is received and the link version agreed or refused. -/
  | version (link minVer maxVer : Nat)
  /-- IDENT (R334). An IDENT frame is received and the identity accepted or refused. -/
  | ident (link : Nat) (body : IdentBody)
  /-- LINK_FRAME_RESEND (R332). VERSION and IDENT frames are resent every 10 ms until answered. -/
  | linkFrameResend (link : Nat)
  /-- ISOLATED_RENEGOTIATE (R334). An ISOLATED link repeats negotiation every 10 s. -/
  | isolatedRenegotiate (link : Nat)
  /-- HELLO (R335). A HELLO frame is received on an UP link. -/
  | hello (link : Nat)
  /-- HELLO_SEND (R335). An UP link sends HELLO every 10 ms. -/
  | helloSend (link : Nat)
  /-- HELLO_TIMEOUT (R335). 30 ms without HELLO takes the link DOWN. -/
  | helloTimeout (link : Nat)
  /-- PHY_LINK_LOSS (R335). PHY link status or LVDS alignment lost takes the link DOWN. -/
  | phyLinkLoss (link : Nat)
  /-- LSA (R342). A link-state advertisement is received, stored and flooded. -/
  | lsa (link : Nat) (ack : Bool) (body : LsaBody)
  /-- LSA_REFRESH (R342). A node floods its own LSA every 30 s. -/
  | lsaRefresh
  /-- LSA_RESEND (R342). An unacknowledged LSA is resent every 20 ms. -/
  | lsaResend (link uid : Nat)
  /-- LSA_AGEOUT (R342). An LSA not refreshed for 90 s is removed. -/
  | lsaAgeout (uid : Nat)
  /-- ADDR_REQ (R344). An address request reaches the bellwether, which grants an address. -/
  | addrReq (link uid : Nat) (requested persisted : Option Nat)
  /-- ADDR_GRANT (R344). An address grant is received for this module. -/
  | addrGrant (link uid addr : Nat)
  /-- ADDRESS_PERSIST_DONE (R346). The granted address is persisted in flash. -/
  | addressPersistDone
  /-- FRAME_FORWARD (R340). A transit frame is forwarded, cut-through for class 0. -/
  | frameForward (link : Nat) (frame : List Byte) (fcsOk : Bool)
  /-- TIME_SEND (R356). A TIME frame is sent on each UP link every 125 ms. -/
  | timeSend (link : Nat)
  /-- TIME (R357). A TIME frame from the upstream adjusts fabric time. -/
  | time (link : Nat) (body : TimeBody)
  /-- PDELAY (R356). A link measures its one-way delay every second. -/
  | pdelay (link delayNs : Nat)
  /-- UPSTREAM_TIMEOUT (R358). No TIME frame for 1 s: new upstream or HOLDOVER. -/
  | upstreamTimeout
  /-- BELLWETHER_STEER (R355). The bellwether steers fabric time to its RTC each second. -/
  | bellwetherSteer
  /-- FOLLOWER_RTC_CHECK (R359). A LOCKED follower sets its RTC from fabric time when needed. -/
  | followerRtcCheck
  /-- SIGNAL (R366). A SIGNAL frame arrives and its records are written to slots. -/
  | signal (link src cls : Nat) (payload : List Byte)
  /-- EXPORT_FRAME (R365). A source sends pending slot images when shaping allows. -/
  | exportFrame (node stream : Nat)
  /-- SUBSCRIBE (R364). A SUBSCRIBE reaches the source, which accepts or refuses. -/
  | subscribe (link : Nat) (body : SubscribeBody)
  /-- ACCEPT (R364). An ACCEPT makes the import stream ACTIVE. -/
  | accept (src stream : Nat)
  /-- REFUSE (R364). A REFUSE makes the import stream REFUSED. -/
  | refuse (src stream reason : Nat)
  /-- UNSUBSCRIBE (R363). An UNSUBSCRIBE removes a subscription at the source. -/
  | unsubscribe (src stream : Nat)
  /-- SUBSCRIBE_RETRY (R364). The importer resends, retries or renews its subscription on its timers. -/
  | subscribeRetry (stream : Nat)
  /-- SUBSCRIPTION_DROP (R364). A subscription not renewed for 3 s is dropped. -/
  | subscriptionDrop (node stream : Nat)
  /-- HOST_STREAM_RECORD (R367). A host stream writes a record of changed slot images. -/
  | hostStreamRecord (stream : Nat)
  /-- PHIVEOX (R369). A PHIVEOX frame carries a remote session's packet or reply. -/
  | phiveox (link src token cls : Nat) (packet : List Byte)
  /-- REMOTE_SESSION_TIMEOUT (R370). 30 s without a path to a session's source closes it. -/
  | remoteSessionTimeout (ctx : Nat)
  /-- CAN_ARBITRATION_START (R388). At bus idle the lowest-identifier pending frame is offered. -/
  | canArbitrationStart (ctl : Nat) (won : Bool)
  /-- TX_DONE (R389). A frame transmission completes. -/
  | txDone (ctl : Nat)
  /-- CAN_FRAME_RECEIVED (R391). A received frame is filtered, queued or mapped into slots. -/
  | canFrameReceived (ctl : Nat) (frame : CanFrame)
  /-- CAN_ERROR_FRAME (R393). An error frame or protocol exception writes an error record. -/
  | canErrorFrame (ctl errType : Nat) (dataPhase : Bool) (id : Nat) (tec recv : Nat)
  /-- BUS_OFF_RECOVERED (R387). 128 × 11 recessive bits end bus-off. -/
  | busOffRecovered (ctl : Nat)
  /-- DOM_TIMEOUT (R380). Dominant longer than 1.9 ms releases the transceiver. -/
  | domTimeout (ctl : Nat)
  /-- WUP (R381). The wake-up pattern is detected in low-power mode. -/
  | wup (ctl : Nat)
  /-- REFERENCE_MESSAGE (R398). A reference message resets cycle time and count. -/
  | referenceMessage (ctl prio cycle : Nat)
  /-- REFERENCE_DUE (R400). A potential master offers its reference at the expected cycle start. -/
  | referenceDue (ctl : Nat) (won : Bool)
  /-- WINDOW_START (R396). A schedule window opens in MODE TT. -/
  | windowStart (ctl : Nat) (busIdle : Bool)
  /-- S2_TIMEOUT (R399). No reference for 1.5 × REF_PERIOD raises level S2. -/
  | s2Timeout (ctl : Nat)
  /-- NO_WINDOW (R396). An exclusive send with no window ends after one matrix cycle. -/
  | noWindow (ctl ctx tag : Nat)
  /-- TXOBJ_PERIOD (R401). A MAP_EVENT object becomes pending every PERIOD ms. -/
  | txobjPeriod (ctl obj : Nat)
  /-- TXOBJ_SLOT_CHANGE (R401). A source slot change makes a MAP_EVENT frame pending after INTERVAL. -/
  | txobjSlotChange (ctl obj : Nat)
  /-- PANEL_FRAME_BOUNDARY (R424). At a frame boundary pixels start, end or advance their transitions. -/
  | panelFrameBoundary (panel : Nat) (late : Bool)
  /-- RAIL_STEP (R416). A rail sequence step is timed and the next rail enabled or switched off. -/
  | railStep (panel : Nat)
  /-- RAIL_FAULT (R417). Power-good lost or rise timeout powers the panel down to FAULT. -/
  | railFault (panel notGood : Nat) (riseTimeout : Bool)
  /-- RAIL_IDLE_EXPIRY (R419). RAIL_IDLE after the last transition powers rails down. -/
  | railIdleExpiry (panel : Nat)
  /-- REGION_SNAPSHOT (R429). The plate engine consumes image records and snapshots the region. -/
  | regionSnapshot (panel : Nat)
  /-- BAND_EVALUATION (R422). The panel temperature band is re-evaluated every 1 s. -/
  | bandEvaluation (panel : Nat)
  /-- SWEEP_TILE (R426). A sweep tile starts at the sweep rate. -/
  | sweepTile (panel : Nat)
  /-- COMPOSITOR_READ (R435). Every 1 s the compositor reads field slots and renders changed fields. -/
  | compositorRead
  /-- THERMAL_UPDATE (R491). The governor updates the die-temperature estimate and compares thresholds. -/
  | thermalUpdate (power sites : List Int)
  /-- THROTTLE_STEP_TAKEN (R497). The thermal step rises on a 120 °C crossing or after its 2 s count. -/
  | throttleStepTaken
  /-- THROTTLE_STEP_UNDONE (R497). 10 s below 115 °C undoes a thermal step. -/
  | throttleStepUndone
  /-- SHUTDOWN_RELEASE (R502). 10 s below 130 °C releases the full-shutdown hold. -/
  | shutdownRelease
  /-- CORE_DOG (R506). A core sheepdog bites and the core is reset. -/
  | coreDog (core : Nat) (rerun : Option (Nat × Nat))
  /-- ENGINE_DOG (R505). A Drover-lane or Orrery sheepdog bites. -/
  | engineDog (dog : Nat)
  /-- FOLD_DOG (R117). The fold arbiter's sheepdog bites a stuck grant. -/
  | foldDog (dram : Bool) (port : Nat) (hand : Option (Nat × Nat))
  /-- MAIN_DOG (R505). No Phiveox check-in from a core for 1 s resets the main side. -/
  | mainDog (core : Nat)
  /-- BOOT_DOG (R505). No BOOT_DONE within 15 s of release resets the main side. -/
  | bootDog
  /-- MEMORY_ECC (R509). An uncorrectable memory error is handled. -/
  | memoryEcc (mem addr : Nat) (single : Bool)
  /-- SHEPHERD_DOG (R508). The shepherd core is restarted by its hardware timer. -/
  | shepherdDog
  /-- HEARTBEAT_LOST (R455). PERIOD s without HEARTBEAT fires E115 and forces SAFE_MASK groups safe. -/
  | heartbeatLost
  /-- VSYS_RETURN (R458). VSYS_R rises through 11.5 V while the always-on domain already runs from VACT, so hot-swap charging and main-side power-up can proceed. -/
  | vsysReturn (vsysR : Nat)
  /-- HOTSWAP_UNLATCH (R463). VSYS_R stays below 6.0 V for 100 ms and the hot-swap latch clears. -/
  | hotswapUnlatch
  /-- LOG_CLEAR_DONE (R514). LOG_CLEAR finishes emptying the ring and its always-on copy and writes its final completion. -/
  | logClearDone
  /-- FOLLOW_PULSE_TIMEOUT (R195). A group enabled in FOLLOW sees no source pulse within 4 × PERIOD ticks, so it starts FREE and sets SYNC_LOST. -/
  | followPulseTimeout (group : Nat)
  /-- OPEN_LOOP (R144). The IIN loop current stays below 0.5 mA for 100 ms, so OPEN_LOOP sets and E(n) fires. -/
  | openLoop (port : Nat)
  /-- CORRUPT_FRAME (R337). A Flock frame with a bad HCRC or a reserved type arrives, and it is discarded and counted toward ERR_THRESH. -/
  | corruptFrame (link : Nat) (kind : CorruptKind)
  /-- PRESENCE_SOURCE_LOST (R292). A LATCH contact or LEVEL presence source becomes unusable through staleness, so a LATCHED zone returns to OCCUPIED or a hold timer starts running. -/
  | presenceSourceLost (zone source : Nat)
  /-- SPEED_ZERO (R242). No tach edge arrives for 1 s, so SPEED_SID is written as 0. -/
  | speedZero (port : Nat)
  /-- FIELD_RENDER_DUE (R435). MIN_S after a field's last render passes while its text differs, and the field is rendered. -/
  | fieldRenderDue (field : Nat)
  deriving DecidableEq, Repr

end Sys2Proof
end

