-- ==== Sys2Proof/Config.lean ====
section
/-! DEFINITION. What the specification leaves to the part or leaves open, as constants without a body: no proof can see
what they are, so a statement that holds holds for every value of them. -/

namespace Sys2Proof.Config

/-- A 32-bit value of no specified content; the argument is a counter of `State` (log entry 3). -/
opaque freeWord : Nat → BitVec 32

/-- The grants that a fold arbiter (SRAM, or store DRAM) gives in one period of 25 ns, and the longest wait, in 10 ns units, that
ends in that period: the grants that the module's own traffic takes are not stated (log entry 16). -/
opaque foldGrants : Bool → Nat → Nat
opaque foldWait : Bool → Nat → BitVec 32

/-- The Virnaper public key whose digest the boot ROM holds: P-256 X then Y, 64 bytes (R517). -/
opaque virnaperKey : List (BitVec 8)

/-- LENGTH of the factory image of firmware bank A (R522). -/
opaque factoryBankLength : BitVec 32

/-- MFG_DAY, LOT, NKEY less 1 modulo 4, and the key digests of the device identity record (R488). -/
opaque mfgDay : BitVec 16
opaque lot : BitVec 64
opaque keyCount : BitVec 2
opaque keyDigest : Nat → BitVec 256

/-- What a 16-byte line of store DRAM holds, by its number: the kind (modulo 4: nothing, pixels of a panel, a fault-log
entry, a bulk-queue record) and its place; Table 1.1 and R33 give the contents of the store DRAM but no layout (R509). -/
opaque dramLine : Nat → Nat × Nat

/-- Does the line hold a pixel, by its line number and the pixel's place (2048 · row + column) in the panel (R509)? -/
opaque dramPixel : Nat → Nat → Bool

/-- The time constants of the thermal model in seconds, by heat source, and its coefficients in °C per W: `thermalK i d` for
site `i` (0–3) and, with `i` 4, for the hot spot (R491: the factory writes them for each module). -/
opaque thermalTau : Nat → Rat
opaque thermalK : Nat → Nat → Rat

/-- The bytes on the line of a LINK, LSA, TIME or CTRL frame, whose payload has no layout in the spec, by its link and its place
among the frames of that link (log entry 84). -/
opaque frameLength : Nat → Nat → Nat

end Sys2Proof.Config
end

