-- ==== Sys2Proof/Machine/Table.lean ====
section
/-! DEFINITION. Sparse tables: the one shape in which `State` holds everything that comes in numbers (bytes of a memory,
signal slots, events, queues, ports, loops, object attributes).  A table lists its entries by strictly rising key and
lists no entry equal to what an unlisted key reads as, so equal contents are equal data. -/

namespace Sys2Proof.Machine

/-- A sparse table from keys to values. -/
abbrev Tbl (α : Type) := List (Nat × α)

/-- Read key `k`; an unlisted key reads as `d k`. -/
def Tbl.get {α : Type} (d : Nat → α) : Tbl α → Nat → α
  | [], k => d k
  | (k', v) :: t, k => if k' = k then v else Tbl.get d t k

/-- Put an entry at its place in the order, replacing an entry of the same key. -/
def Tbl.insert {α : Type} : Tbl α → Nat → α → Tbl α
  | [], k, v => [(k, v)]
  | (k', v') :: t, k, v =>
    if k < k' then (k, v) :: (k', v') :: t
    else if k = k' then (k, v) :: t
    else (k', v') :: Tbl.insert t k v

/-- Drop every entry of key `k`. -/
def Tbl.erase {α : Type} : Tbl α → Nat → Tbl α
  | [], _ => []
  | (k', v) :: t, k => if k' = k then Tbl.erase t k else (k', v) :: Tbl.erase t k

/-- Write key `k`: a value equal to what the unlisted key reads as removes the entry. -/
def Tbl.set {α : Type} [DecidableEq α] (d : Nat → α) (t : Tbl α) (k : Nat) (v : α) : Tbl α :=
  if v = d k then Tbl.erase t k else Tbl.insert t k v

/-- Apply `f` to the value at key `k`. -/
def Tbl.modify {α : Type} [DecidableEq α] (d : Nat → α) (t : Tbl α) (k : Nat) (f : α → α) : Tbl α :=
  Tbl.set d t k (f (Tbl.get d t k))

/-- Every key of the table is above `k`. -/
def Tbl.above {α : Type} (k : Nat) (t : Tbl α) : Bool :=
  t.all (fun e => decide (k < e.1))

/-- The canonical form: keys strictly rising, no entry equal to its default. -/
def Tbl.wf {α : Type} [DecidableEq α] (d : Nat → α) : Tbl α → Bool
  | [] => true
  | (k, v) :: t => Tbl.above k t && decide (v ≠ d k) && Tbl.wf d t

/-- Write a run of values at consecutive keys. -/
def Tbl.setRun {α : Type} [DecidableEq α] (d : Nat → α) : Tbl α → Nat → List α → Tbl α
  | t, _, [] => t
  | t, k, v :: vs => Tbl.setRun d (Tbl.set d t k v) (k + 1) vs

/-- Read `n` values at consecutive keys. -/
def Tbl.getRun {α : Type} (d : Nat → α) (t : Tbl α) (k : Nat) : Nat → List α
  | 0 => []
  | n + 1 => Tbl.get d t k :: Tbl.getRun d t (k + 1) n

/-- Drop every entry whose key lies in `[lo, hi)`. -/
def Tbl.dropRange {α : Type} (t : Tbl α) (lo hi : Nat) : Tbl α :=
  t.filter (fun e => !(decide (lo ≤ e.1) && decide (e.1 < hi)))

/-- Is the key listed? -/
def Tbl.has {α : Type} (t : Tbl α) (k : Nat) : Bool := t.any (fun e => e.1 == k)

end Sys2Proof.Machine
end

