-- ==== Sys2Proof/Machine/Bits.lean ====
section
/-! DEFINITION. Bit fields, byte order, check sums and the integer arithmetic of the specification: little-endian fields
(spec/00_scope.md, "Notation"), the CRC-16 of R54, the CRC-32 of R176, the CRC-8 of R336 and R448, and the rounding of
R254. -/

namespace Sys2Proof.Machine

/-- Field `[lo + w - 1 : lo]` of a number. -/
def bits (n lo w : Nat) : Nat := n / 2 ^ lo % 2 ^ w

/-- Bit `i` of a number. -/
def bit (n i : Nat) : Bool := n / 2 ^ i % 2 == 1

/-- A Boolean as a one-bit number. -/
def b2n (b : Bool) : Nat := if b then 1 else 0

/-- Replace field `[lo + w - 1 : lo]` of a number. -/
def setBits (n lo w v : Nat) : Nat :=
  n % 2 ^ lo + (v % 2 ^ w) * 2 ^ lo + n / 2 ^ (lo + w) * 2 ^ (lo + w)

/-- Read a `w`-bit two's-complement number. -/
def signed (w n : Nat) : Int :=
  let m := n % 2 ^ w
  if m < 2 ^ (w - 1) then (m : Int) else (m : Int) - (2 ^ w : Nat)

/-- Write an integer as a `w`-bit two's-complement number. -/
def unsigned (w : Nat) (i : Int) : Nat := (i % ((2 ^ w : Nat) : Int)).toNat

/-- The little-endian bytes of a number, `w` of them. -/
def leBytes : Nat → Nat → List Byte
  | 0, _ => []
  | w + 1, n => BitVec.ofNat 8 n :: leBytes w (n / 256)

/-- The number that little-endian bytes spell. -/
def leNat : List Byte → Nat
  | [] => 0
  | b :: bs => b.toNat + 256 * leNat bs

/-- The number that big-endian bytes spell. -/
def beNat (bs : List Byte) : Nat := leNat bs.reverse

/-- `n` bytes from offset `off`. -/
def slice (bs : List Byte) (off n : Nat) : List Byte := (bs.drop off).take n

/-- The `n`-byte little-endian field at offset `off`. -/
def fld (bs : List Byte) (off n : Nat) : Nat := leNat (slice bs off n)

/-- The signed 32-bit field at offset `off`. -/
def fldI32 (bs : List Byte) (off : Nat) : Int := signed 32 (fld bs off 4)

/-- Zero bytes. -/
def zeros (n : Nat) : List Byte := List.replicate n 0

/-- One bit of a CRC-16 step, polynomial 0x1021, most significant bit first. -/
def crc16Shift (c : Nat) : Nat :=
  if 32768 ≤ c then ((c * 2) ^^^ 0x11021) % 65536 else c * 2

/-- CRC-16/CCITT-FALSE over one byte. -/
def crc16Byte (c : Nat) (b : Byte) : Nat :=
  crc16Shift (crc16Shift (crc16Shift (crc16Shift
    (crc16Shift (crc16Shift (crc16Shift (crc16Shift (c ^^^ (b.toNat * 256)))))))))

/-- CRC-16/CCITT-FALSE of R54. -/
def crc16 (bs : List Byte) : Nat := bs.foldl crc16Byte 0xFFFF

/-- One bit of a CRC-8 step, polynomial 0x07. -/
def crc8Shift (c : Nat) : Nat :=
  if 128 ≤ c then ((c * 2) ^^^ 0x107) % 256 else c * 2

/-- CRC-8 over one byte. -/
def crc8Byte (c : Nat) (b : Byte) : Nat :=
  crc8Shift (crc8Shift (crc8Shift (crc8Shift
    (crc8Shift (crc8Shift (crc8Shift (crc8Shift (c ^^^ b.toNat))))))))

/-- CRC-8 of R336 and of the SMBus PEC (R448): polynomial 0x07, initial value 0. -/
def crc8 (bs : List Byte) : Nat := bs.foldl crc8Byte 0

/-- One bit of a CRC-32 step, reflected polynomial 0xEDB8_8320. -/
def crc32Shift (c : Nat) : Nat :=
  if c % 2 = 1 then (c / 2) ^^^ 0xEDB88320 else c / 2

/-- CRC-32 over one byte. -/
def crc32Byte (c : Nat) (b : Byte) : Nat :=
  crc32Shift (crc32Shift (crc32Shift (crc32Shift
    (crc32Shift (crc32Shift (crc32Shift (crc32Shift (c ^^^ b.toNat))))))))

/-- CRC-32 of R176. -/
def crc32 (bs : List Byte) : Nat := (bs.foldl crc32Byte 0xFFFFFFFF) ^^^ 0xFFFFFFFF

/-- `rsh` of R254: a right shift that rounds half away from zero. -/
def rsh (x : Int) (s : Nat) : Int :=
  if s = 0 then x
  else if 0 ≤ x then (x + (2 ^ (s - 1) : Nat)) / ((2 ^ s : Nat) : Int)
  else -((-x + (2 ^ (s - 1) : Nat)) / ((2 ^ s : Nat) : Int))

/-- `divr` of R254: a quotient rounded half away from zero (a zero divisor gives 0; no rule divides by zero). -/
def divr (n d : Int) : Int :=
  if d = 0 then 0
  else
    let q : Int := ((n.natAbs + d.natAbs / 2) / d.natAbs : Nat)
    if (decide (n < 0)) != (decide (d < 0)) then -q else q

/-- `sat32` of R254. -/
def sat32 (x : Int) : Int :=
  if x > 0x7FFFFFFF then 0x7FFFFFFF else if x < -0x80000000 then -0x80000000 else x

/-- Does `sat32` clamp? -/
def sat32Clips (x : Int) : Bool := decide (x > 0x7FFFFFFF) || decide (x < -0x80000000)

/-- Clamp to an interval; where the bounds cross, the upper one applies (Table 8.7, LIMIT). -/
def clampI (lo hi x : Int) : Int := min hi (max lo x)

/-- 1.0 in Q16.16. -/
def one16 : Int := 65536

/-- The 32-bit word of a signed value. -/
def word (i : Int) : Word := BitVec.ofInt 32 i

/-- Quotient rounded up. -/
def ceilDiv (a b : Nat) : Nat := if b = 0 then 0 else (a + b - 1) / b

/-- Saturate a count at a bound. -/
def satN (hi n : Nat) : Nat := min hi n

/-- Is `a` due: a running timer whose deadline has been reached? -/
def due (t : Option Nat) (now : Nat) : Bool :=
  match t with
  | some d => decide (d ≤ now)
  | none => false

/-- Milliseconds in transit-reference periods of 25 ns (R13). -/
def ms (n : Nat) : Nat := n * 40000

/-- Microseconds in transit-reference periods. -/
def us (n : Nat) : Nat := n * 40

/-- Seconds in transit-reference periods. -/
def sec (n : Nat) : Nat := n * 40000000

end Sys2Proof.Machine
end

