-- ==== Sys2Proof/Machine/Variant.lean ====
section
/-! DEFINITION. What a variant provides (spec/00_scope.md, R4–R11, Tables 0.1 and 0.3): the resources present, the object
types and instances of Table 2.4, and the dead-time method. The variant code is Table 0.3: base part in [3:0], grade in
bit 4. -/

namespace Sys2Proof.Machine

/-- Bits [3:0] of the variant code: 1 JU48-32FD, 2 -32F, 3 -24FD, 4 -24F, 5 -16FD, 6 -08D (Table 0.3). -/
def basePart (v : Nat) : Nat := bits v 0 4

/-- Bonded paddock ports (Table 0.1). -/
def portCount (v : Nat) : Nat :=
  match basePart v with
  | 1 | 2 => 32
  | 3 | 4 => 24
  | 5 => 16
  | _ => 8

/-- PWM groups (Table 0.1); group k holds ports 4k to 4k + 3 (Table 0.4). -/
def groupCount (v : Nat) : Nat := portCount v / 4

/-- The largest number of fans (Table 0.1). -/
def maxFans (v : Nat) : Nat := if basePart v == 6 then 8 else 16

/-- Is Flock link `n` present (Table 0.1)? -/
def linkPresent (v n : Nat) : Bool :=
  match basePart v with
  | 1 | 2 | 3 | 4 => decide (n < 6)
  | 5 => n == 0 || n == 1 || n == 4 || n == 5
  | _ => false

/-- Has the variant any Flock link? -/
def hasFlock (v : Nat) : Bool := linkPresent v 0

/-- Is a link a 10BASE-T1L link (FL0–FL3) rather than a local LVDS link (FL4–FL5, Table 0.4)? -/
def isT1L (n : Nat) : Bool := decide (n < 4)

/-- CAN controllers (Table 0.1). -/
def canCount (v : Nat) : Nat := if basePart v == 6 then 1 else 2

/-- Plate engines (Table 0.1). -/
def panelCount (v : Nat) : Nat :=
  match basePart v with
  | 1 | 3 => 2
  | 2 | 4 => 0
  | _ => 1

/-- Does the variant filter minimum pulses in place of separate rising and falling delays (Table 0.1)? -/
def filterVariant (v : Nat) : Bool := basePart v == 5 || basePart v == 6

/-- Object type codes of Table 2.4. -/
def tyDevice : Nat := 0x01
def tyPort : Nat := 0x02
def tySeq : Nat := 0x03
def tyGroup : Nat := 0x04
def tyBridge : Nat := 0x05
def tyDamper : Nat := 0x06
def tyFan : Nat := 0x07
def tyValve : Nat := 0x08
def tyLoop : Nat := 0x09
def tyZone : Nat := 0x0A
def tySchedule : Nat := 0x0B
def tyClock : Nat := 0x0C
def tyLink : Nat := 0x0D
def tyRoute : Nat := 0x0E
def tyCan : Nat := 0x0F
def tyPanel : Nat := 0x10
def tyThermal : Nat := 0x11
def tyCal : Nat := 0x12
def tyFirmware : Nat := 0x13
def tyEvent : Nat := 0x14
def tyQueue : Nat := 0x15
def tyStream : Nat := 0x16
def tySignal : Nat := 0x17

/-- A handle: type in [31:24], instance in [23:0] (Table 2.2). -/
def handle (ty inst : Nat) : Nat := ty * 0x1000000 + inst % 0x1000000

def handleTy (h : Nat) : Nat := h / 0x1000000
def handleInst (h : Nat) : Nat := h % 0x1000000

/-- How many instances Table 2.4 gives a type (ROUTE and STREAM: R352, R361; SIGNAL is judged apart). -/
def instCount (ty : Nat) : Nat :=
  match ty with
  | 0x01 => 1
  | 0x02 => 32
  | 0x03 => 128
  | 0x04 => 8
  | 0x05 => 32
  | 0x06 => 32
  | 0x07 => 32
  | 0x08 => 32
  | 0x09 => 512
  | 0x0A => 64
  | 0x0B => 1024
  | 0x0C => 1
  | 0x0D => 6
  | 0x0E => 256
  | 0x0F => 2
  | 0x10 => 2
  | 0x11 => 1
  | 0x12 => 1
  | 0x13 => 2
  | 0x14 => 128
  | 0x15 => 64
  | 0x16 => 256
  | _ => 0

/-- Types whose instances OBJ_CREATE makes (Table 2.9). -/
def isCreatable (ty : Nat) : Bool := ty == 9 || ty == 10 || ty == 11 || ty == 14 || ty == 22

/-- The queue belongs to a resource that is absent on the variant (R10, Table 0.5). -/
def queueAbsent (v q : Nat) : Bool :=
  if 16 ≤ q && q < 40 then !linkPresent v ((q - 16) / 4)
  else if 40 ≤ q && q < 48 then !decide ((q - 40) / 4 < canCount v)
  else if 56 ≤ q && q < 60 then !decide ((q - 56) / 2 < panelCount v)
  else false

/-- The event belongs to a resource that is absent on the variant, or is reserved (R10, Table 3.1). -/
def eventNever (v e : Nat) : Bool :=
  if e < 32 then !decide (e < portCount v)
  else if e == 39 || e == 71 then true
  else if 40 ≤ e && e < 56 then !decide ((e - 40) % 8 < groupCount v)
  else if 80 ≤ e && e < 92 then !linkPresent v ((e - 80) / 2)
  else if 92 ≤ e && e < 96 then !decide ((e - 92) / 2 < canCount v)
  else if 96 ≤ e && e < 100 then !decide ((e - 96) / 2 < panelCount v)
  else decide (128 ≤ e)

/-- Is the resource an object is bound to present on the variant (R8)?  A BRIDGE, DAMPER, FAN or VALVE is bound to its
port; the queues and events of an absent resource stay in place (R10), and OBJ_LIST leaves its queues out (DESIGN CHOICE, log
entry 78: R559 does not say). -/
def objPresent (v ty i : Nat) : Bool :=
  if ty == tyPort || ty == tyBridge || ty == tyDamper || ty == tyFan || ty == tyValve then decide (i < portCount v)
  else if ty == tyGroup then decide (i < groupCount v)
  else if ty == tyLink then linkPresent v i
  else if ty == tyCan then decide (i < canCount v)
  else if ty == tyPanel then decide (i < panelCount v)
  else if ty == tyRoute then hasFlock v
  else if ty == tyQueue then !queueAbsent v i
  else true

end Sys2Proof.Machine
end

