-- ==== Sys2Proof/Machine/Attrs.lean ====
section
/-! DEFINITION. The attribute tables of every object type (the "attributes" table of each block chapter, and the DEVICE
attributes that R122, R246, R262, R344, R433, R455 and R462 add): for each attribute its size range, its access and its
reset value.  `v` is the variant code and `i` the instance. -/

namespace Sys2Proof.Machine

/-- The access column of an attribute table (R22, Table 0.7). -/
inductive Access where
  | ro
  | rw
  | w1c
  deriving DecidableEq, Repr

/-- One row of an attribute table. -/
structure AttrDef where
  lo : Nat
  hi : Nat
  access : Access
  reset : List Byte
  deriving DecidableEq, Repr

/-- PORT attributes, Table 4.4. -/
def portAttr (a : Nat) : Option AttrDef :=
  if a == 1 then some ⟨4, 4, .rw, leBytes 4 0⟩ else  -- PORT_CFG
  if a == 2 then some ⟨2, 2, .rw, leBytes 2 0x32⟩ else  -- THRESH
  if a == 3 then some ⟨1, 1, .rw, leBytes 1 0⟩ else  -- DEBOUNCE
  if a == 4 then some ⟨1, 1, .rw, leBytes 1 0⟩ else  -- EDGE_CFG
  if a == 5 then some ⟨2, 2, .rw, leBytes 2 0⟩ else  -- I_RATED
  if a == 6 then some ⟨2, 2, .rw, leBytes 2 0x5dc⟩ else  -- OC_LIMIT
  if a == 7 then some ⟨4, 4, .rw, leBytes 4 0x2710⟩ else  -- NTC_R25
  if a == 8 then some ⟨2, 2, .rw, leBytes 2 0xf6e⟩ else  -- NTC_BETA
  if a == 9 then some ⟨4, 4, .rw, leBytes 4 0xb40000⟩ else  -- CAP_ZERO
  if a == 10 then some ⟨4, 4, .rw, leBytes 4 0x5333⟩ else  -- CAP_SLOPE
  if a == 11 then some ⟨4, 4, .rw, leBytes 4 0x4000⟩ else  -- PYRO_THRESH
  if a == 12 then some ⟨2, 2, .rw, leBytes 2 0x8000⟩ else  -- OUT_SRC_A
  if a == 13 then some ⟨2, 2, .rw, leBytes 2 0x8000⟩ else  -- OUT_SRC_B
  if a == 14 then some ⟨4, 4, .rw, leBytes 4 0⟩ else  -- OUT_FAIL
  if a == 15 then some ⟨4, 4, .rw, leBytes 4 0⟩ else  -- LEVEL_SID
  if a == 16 then some ⟨2, 2, .rw, leBytes 2 0x3e8⟩ else  -- SBUS_PERIOD
  if a == 17 then some ⟨0, 128, .rw, []⟩ else  -- SBUS_LIST
  if a == 18 then some ⟨4, 4, .ro, leBytes 4 0⟩ else  -- PORT_STATUS
  if a == 19 then some ⟨4, 4, .w1c, leBytes 4 0⟩ else  -- PORT_FAULT
  if a == 20 then some ⟨8, 8, .ro, leBytes 8 0⟩ else  -- EDGE_COUNT
  if a == 21 then some ⟨4, 4, .ro, leBytes 4 0⟩ else  -- PERIOD_A
  none

/-- SEQ attributes, Table 5.2. -/
def seqAttr (a : Nat) : Option AttrDef :=
  if a == 1 then some ⟨4, 4, .rw, leBytes 4 0x80⟩ else  -- SE_WORD
  if a == 2 then some ⟨4, 4, .rw, leBytes 4 0⟩ else  -- SEQ_CTL
  if a == 3 then some ⟨4, 4, .rw, leBytes 4 0x9c40⟩ else  -- SEQ_PERIOD
  if a == 4 then some ⟨4, 4, .rw, leBytes 4 0⟩ else  -- SEQ_TRIG_DELAY
  if a == 5 then some ⟨4, 4, .ro, leBytes 4 0⟩ else  -- RESULT
  if a == 6 then some ⟨4, 4, .ro, leBytes 4 0⟩ else  -- SEQ_STATUS
  if a == 7 then some ⟨4, 4, .ro, leBytes 4 0⟩ else  -- PASS_COUNT
  if a == 8 then some ⟨4, 4, .ro, leBytes 4 0⟩ else  -- LAST_PASS
  none

/-- PWMGROUP attributes, Table 6.1. -/
def pwmgroupAttr (a : Nat) : Option AttrDef :=
  if a == 1 then some ⟨4, 4, .rw, leBytes 4 0x2a⟩ else  -- GRP_CTL
  if a == 2 then some ⟨4, 4, .rw, leBytes 4 0x7d0⟩ else  -- PERIOD
  if a == 3 then some ⟨2, 2, .rw, leBytes 2 0⟩ else  -- BND_DIV
  if a == 4 then some ⟨2, 2, .rw, leBytes 2 0x10⟩ else  -- MINPULSE
  if a == 5 then some ⟨20, 20, .rw, leBytes 20 0⟩ else  -- PERIOD_DUTY
  if a == 6 then some ⟨4, 4, .w1c, leBytes 4 0⟩ else  -- GRP_STATUS
  if 16 ≤ a && a ≤ 19 then some ⟨4, 4, .rw, leBytes 4 (64 * (a - 0x10))⟩ else  -- CH_CFG0–3
  if 20 ≤ a && a ≤ 23 then some ⟨4, 4, .rw, leBytes 4 0⟩ else  -- DUTY0–3
  if 24 ≤ a && a ≤ 27 then some ⟨4, 4, .rw, leBytes 4 0⟩ else  -- FAIL_DUTY0–3
  none

/-- BRIDGE attributes, Table 6.6. -/
def bridgeAttr (v a : Nat) : Option AttrDef :=
  if a == 1 then some ⟨2, 2, .rw, leBytes 2 0x200⟩ else  -- DT_RISE
  if a == 2 then some ⟨2, 2, .rw, leBytes 2 (if filterVariant v then 0 else 512)⟩ else  -- DT_FALL
  if a == 3 then some ⟨2, 2, .rw, leBytes 2 0x1008⟩ else  -- TRIP_CFG
  if a == 4 then some ⟨4, 4, .ro, leBytes 4 0⟩ else  -- BR_STATUS
  if a == 5 then some ⟨4, 4, .ro, leBytes 4 0⟩ else  -- TRIP_TOTAL
  none

/-- DAMPER attributes, Table 7.4. -/
def damperAttr (a : Nat) : Option AttrDef :=
  if a == 1 then some ⟨4, 4, .rw, leBytes 4 0⟩ else  -- DMP_CFG
  if a == 2 then some ⟨4, 4, .rw, leBytes 4 0⟩ else  -- CPS_NOM
  if a == 3 then some ⟨4, 4, .rw, leBytes 4 0x7d00064⟩ else  -- RIP_BAND
  if a == 4 then some ⟨1, 1, .rw, leBytes 1 8⟩ else  -- RIP_THRESH
  if a == 5 then some ⟨2, 2, .rw, leBytes 2 0x28⟩ else  -- I_MIN
  if a == 6 then some ⟨2, 2, .rw, leBytes 2 0x1f4⟩ else  -- ENDSTOP_I
  if a == 7 then some ⟨1, 1, .rw, leBytes 1 0x28⟩ else  -- ENDSTOP_MS
  if a == 8 then some ⟨2, 2, .rw, leBytes 2 0x64⟩ else  -- ENDTOL
  if a == 9 then some ⟨2, 2, .rw, leBytes 2 0xa⟩ else  -- DEADBAND
  if a == 10 then some ⟨2, 2, .rw, leBytes 2 0xc8⟩ else  -- MAX_RUN
  if a == 11 then some ⟨2, 2, .rw, leBytes 2 0xc8⟩ else  -- DWELL
  if a == 12 then some ⟨2, 2, .rw, leBytes 2 0x8000⟩ else  -- TGT_SID
  if a == 13 then some ⟨2, 2, .rw, leBytes 2 0x8000⟩ else  -- POS_SID
  if a == 14 then some ⟨2, 2, .rw, leBytes 2 0⟩ else  -- REHOME_INT
  if a == 15 then some ⟨4, 4, .ro, leBytes 4 0⟩ else  -- DMP_STATUS
  if a == 16 then some ⟨4, 4, .ro, leBytes 4 0⟩ else  -- CPS
  if a == 17 then some ⟨4, 4, .ro, leBytes 4 0⟩ else  -- DMP_COUNT
  if a == 18 then some ⟨2, 2, .ro, leBytes 2 0⟩ else  -- DMP_LEAD
  if a == 19 then some ⟨4, 4, .ro, leBytes 4 0⟩ else  -- DMP_FILLED
  none

/-- FAN attributes, Table 7.7. -/
def fanAttr (a : Nat) : Option AttrDef :=
  if a == 1 then some ⟨4, 4, .rw, leBytes 4 2⟩ else  -- FAN_CFG
  if a == 2 then some ⟨2, 2, .rw, leBytes 2 0xbb8⟩ else  -- RATED_RPM
  if a == 3 then some ⟨2, 2, .rw, leBytes 2 0xbb8⟩ else  -- SPINUP
  if a == 4 then some ⟨1, 1, .rw, leBytes 1 8⟩ else  -- START_PULSES
  if a == 5 then some ⟨2, 2, .rw, leBytes 2 0x64⟩ else  -- MIN_RUN
  if a == 6 then some ⟨2, 2, .rw, leBytes 2 0x8000⟩ else  -- CMD_SID
  if a == 7 then some ⟨2, 2, .rw, leBytes 2 0x8000⟩ else  -- TEMP_SID
  if a == 8 then some ⟨4, 4, .rw, leBytes 4 0x190000⟩ else  -- T_LO
  if a == 9 then some ⟨4, 4, .rw, leBytes 4 0x280000⟩ else  -- T_HI
  if a == 10 then some ⟨2, 2, .rw, leBytes 2 0x12c⟩ else  -- MIN_SPEED
  if a == 11 then some ⟨2, 2, .rw, leBytes 2 0x8000⟩ else  -- SPEED_SID
  if a == 12 then some ⟨4, 4, .rw, leBytes 4 0x10000⟩ else  -- FAIL_CMD
  if a == 13 then some ⟨4, 4, .ro, leBytes 4 0⟩ else  -- FAN_STATUS
  none

/-- VALVE attributes, Table 7.6. -/
def valveAttr (a : Nat) : Option AttrDef :=
  if a == 1 then some ⟨4, 4, .rw, leBytes 4 0⟩ else  -- VLV_CFG
  if a == 2 then some ⟨2, 2, .rw, leBytes 2 0x8000⟩ else  -- CMD_SID
  if a == 3 then some ⟨4, 4, .rw, leBytes 4 0⟩ else  -- FAIL_CMD
  if a == 4 then some ⟨2, 2, .rw, leBytes 2 0xb4⟩ else  -- BOOST_TIME
  if a == 5 then some ⟨2, 2, .rw, leBytes 2 0x12c⟩ else  -- BOOST_REARM
  if a == 6 then some ⟨4, 4, .rw, leBytes 4 0x27100000⟩ else  -- V_RANGE
  if a == 7 then some ⟨2, 2, .rw, leBytes 2 0x78⟩ else  -- TRAVEL
  if a == 8 then some ⟨2, 2, .rw, leBytes 2 0x1f4⟩ else  -- MIN_ON
  if a == 9 then some ⟨2, 2, .rw, leBytes 2 0x14⟩ else  -- VLV_DEADBAND
  if a == 10 then some ⟨2, 2, .rw, leBytes 2 0x8000⟩ else  -- EST_SID
  if a == 11 then some ⟨4, 4, .ro, leBytes 4 0⟩ else  -- VLV_STATUS
  if a == 25 then some ⟨2, 2, .rw, leBytes 2 0xc8⟩ else  -- MAX_RUN
  if a == 26 then some ⟨2, 2, .rw, leBytes 2 0xc8⟩ else  -- DWELL
  if a == 27 then some ⟨2, 2, .rw, leBytes 2 0⟩ else  -- REHOME_INT
  if 18 ≤ a && a ≤ 24 then damperAttr (a - 16) else  -- as DAMPER 0x0002–0x0008
  if 28 ≤ a && a ≤ 31 then damperAttr (a - 12) else  -- as DAMPER 0x0010–0x0013
  none

/-- LOOP attributes, Table 8.1. -/
def loopAttr (a : Nat) : Option AttrDef :=
  if a == 1 then some ⟨4, 4, .rw, leBytes 4 1⟩ else  -- LOOP_CFG
  if a == 2 then some ⟨4, 4, .rw, leBytes 4 0x186a0⟩ else  -- PERIOD
  if a == 3 then some ⟨2, 2, .rw, leBytes 2 0x8000⟩ else  -- TRIG_SID
  if a == 4 then some ⟨2, 2, .rw, leBytes 2 0⟩ else  -- NODE_BASE
  if a == 5 then some ⟨2, 2, .rw, leBytes 2 1⟩ else  -- NODE_COUNT
  if a == 6 then some ⟨2, 2, .rw, leBytes 2 0⟩ else  -- COEF_BASE
  if a == 7 then some ⟨2, 2, .rw, leBytes 2 0⟩ else  -- COEF_COUNT
  if a == 8 then some ⟨2, 2, .rw, leBytes 2 0⟩ else  -- SAT_LIMIT
  if a == 9 then some ⟨4, 4, .ro, leBytes 4 0⟩ else  -- LOOP_STATE
  if a == 10 then some ⟨4, 4, .ro, leBytes 4 0⟩ else  -- STARVED
  if a == 11 then some ⟨4, 4, .ro, leBytes 4 0⟩ else  -- SAT_TIME
  if a == 12 then some ⟨4, 4, .ro, leBytes 4 0⟩ else  -- SAT_RUN
  if a == 13 then some ⟨4, 4, .ro, leBytes 4 0⟩ else  -- LAST_LAT
  if a == 14 then some ⟨4, 4, .rw, leBytes 4 0⟩ else  -- MAX_LAT
  if 256 ≤ a && a ≤ 259 then some ⟨8, 1024, .rw, leBytes 8 0⟩ else  -- NODES
  if 512 ≤ a && a ≤ 519 then some ⟨8, 1024, .rw, leBytes 8 0⟩ else  -- COEF_A
  if 528 ≤ a && a ≤ 535 then some ⟨8, 1024, .rw, leBytes 8 0⟩ else  -- COEF_B
  none

/-- ZONE attributes, Table 9.1. -/
def zoneAttr (a : Nat) : Option AttrDef :=
  if a == 1 then some ⟨4, 4, .rw, leBytes 4 0⟩ else  -- ZONE_CFG
  if a == 2 then some ⟨1, 1, .rw, leBytes 1 0x3c⟩ else  -- UPDATE_S
  if a == 3 then some ⟨2, 2, .rw, leBytes 2 0x8000⟩ else  -- SENSOR_SID
  if a == 4 then some ⟨2, 2, .rw, leBytes 2 0x8000⟩ else  -- EST_SID
  if a == 5 then some ⟨2, 2, .rw, leBytes 2 0x8000⟩ else  -- PRES_SID
  if a == 6 then some ⟨72, 72, .rw, leBytes 72 0⟩ else  -- INPUTS
  if a == 7 then some ⟨8, 512, .rw, leBytes 8 0⟩ else  -- MODEL_A
  if a == 8 then some ⟨48, 384, .rw, leBytes 48 0⟩ else  -- MODEL_B
  if a == 9 then some ⟨8, 64, .rw, leBytes 8 0⟩ else  -- OBS_L
  if a == 10 then some ⟨4, 4, .rw, leBytes 4 0x20000⟩ else  -- RES_THRESH
  if a == 11 then some ⟨2, 2, .rw, leBytes 2 0x258⟩ else  -- RES_PERSIST
  if a == 12 then some ⟨4, 4, .rw, leBytes 4 0x16803e8⟩ else  -- FIT_CFG
  if a == 13 then some ⟨32, 32, .rw, leBytes 32 0⟩ else  -- PRES_SRC
  if a == 14 then some ⟨4, 4, .rw, leBytes 4 0x3c10384⟩ else  -- PRES_CFG
  if a == 15 then some ⟨12, 12, .rw, [7, 7, 0, 0] ++ zeros 8⟩ else  -- BOOST
  if a == 16 then some ⟨4, 4, .ro, leBytes 4 0⟩ else  -- ZONE_STATE
  if a == 17 then some ⟨4, 4, .ro, leBytes 4 0⟩ else  -- RESIDUAL
  if a == 18 then some ⟨4, 32, .ro, leBytes 4 0⟩ else  -- STATE_X
  if a == 19 then some ⟨112, 112, .ro, leBytes 112 0⟩ else  -- FIT_ROW
  if a == 20 then some ⟨12, 12, .ro, leBytes 12 0⟩ else  -- FIT_STATS
  none

/-- CLOCK attributes, Table 10.12. -/
def clockAttr (a : Nat) : Option AttrDef :=
  if a == 1 then some ⟨4, 4, .rw, leBytes 4 0⟩ else  -- SCHED_CFG
  if a == 2 then some ⟨256, 256, .rw, leBytes 256 0⟩ else  -- SETPOINTS
  if a == 3 then some ⟨128, 128, .rw, (List.replicate 64 [0x00, 0x80]).flatten⟩ else  -- ZONE_OUT
  if a == 4 then some ⟨128, 128, .rw, leBytes 128 0⟩ else  -- ZGROUPS
  if a == 5 then some ⟨512, 512, .rw, leBytes 512 0⟩ else  -- EXCEPTIONS
  if a == 6 then some ⟨12, 12, .rw, leBytes 12 0⟩ else  -- BKP_USER
  none

/-- LINK attributes, Table 11.2. -/
def linkAttr (i a : Nat) : Option AttrDef :=
  if a == 1 then some ⟨4, 4, .rw, leBytes 4 (if i < 4 then 0x1141 else 0x1021)⟩ else  -- LINK_CFG
  if a == 2 then some ⟨2, 2, .rw, leBytes 2 (if i < 4 then 500 else 5000)⟩ else  -- C0_RATE
  if a == 3 then some ⟨8, 8, .rw, leBytes 8 0⟩ else  -- PEER_UID
  if a == 4 then some ⟨2, 2, .rw, leBytes 2 0x10⟩ else  -- ERR_THRESH
  if a == 5 then some ⟨4, 4, .ro, leBytes 4 1⟩ else  -- LINK_STAT
  if a == 6 then some ⟨8, 8, .ro, leBytes 8 0⟩ else  -- PEER_ID
  none

/-- ROUTE attributes, Table 11.9. -/
def routeAttr (a : Nat) : Option AttrDef :=
  if a == 1 then some ⟨4, 4, .rw, leBytes 4 0⟩ else  -- RT_CFG
  if a == 2 then some ⟨2, 2, .rw, leBytes 2 0x64⟩ else  -- RT_RATE
  if a == 3 then some ⟨4, 4, .ro, leBytes 4 0⟩ else  -- RT_STATUS
  if a == 4 then some ⟨4, 4, .ro, leBytes 4 0xffffffff⟩ else  -- RT_BOUND
  if a == 5 then some ⟨34, 34, .ro, leBytes 34 0⟩ else  -- RT_PATH
  none

/-- CANCTL attributes, Table 12.2. -/
def canctlAttr (a : Nat) : Option AttrDef :=
  if a == 1 then some ⟨4, 4, .rw, leBytes 4 0⟩ else  -- CAN_CFG
  if a == 2 then some ⟨4, 4, .rw, leBytes 4 0xf1e7c0⟩ else  -- NBT
  if a == 3 then some ⟨4, 4, .rw, leBytes 4 0x111a0⟩ else  -- DBT
  if a == 4 then some ⟨2, 2, .rw, leBytes 2 0x8f⟩ else  -- TDC_CFG
  if a == 5 then some ⟨4, 4, .rw, leBytes 4 0x1388⟩ else  -- TT_CFG
  if a == 6 then some ⟨4, 4, .rw, leBytes 4 0x80⟩ else  -- REF_CFG
  if a == 7 then some ⟨0, 1024, .rw, []⟩ else  -- WINDOWS
  if a == 8 then some ⟨0, 768, .rw, []⟩ else  -- TXOBJ
  if a == 9 then some ⟨0, 768, .rw, []⟩ else  -- FILTERS
  if 16 ≤ a && a ≤ 19 then some ⟨0, 1024, .rw, []⟩ else  -- FIELDS
  if a == 32 then some ⟨4, 4, .ro, leBytes 4 3⟩ else  -- CAN_STAT
  if a == 33 then some ⟨1, 1, .ro, leBytes 1 0⟩ else  -- TDC_MEAS
  none

/-- PANEL attributes, Table 13.3. -/
def panelAttr (a : Nat) : Option AttrDef :=
  if a == 1 then some ⟨4, 4, .rw, leBytes 4 0⟩ else  -- PANEL_CFG
  if a == 2 then some ⟨4, 4, .rw, leBytes 4 0x4b00640⟩ else  -- GEOMETRY
  if a == 3 then some ⟨4, 4, .rw, leBytes 4 0x8040185⟩ else  -- TIMING
  if a == 4 then some ⟨2, 2, .rw, leBytes 2 0xc8⟩ else  -- VCOM
  if a == 5 then some ⟨4, 4, .rw, leBytes 4 0x2020202⟩ else  -- RAIL_SEQ
  if a == 6 then some ⟨2, 2, .rw, leBytes 2 0x7d0⟩ else  -- RAIL_IDLE
  if a == 7 then some ⟨2, 2, .rw, leBytes 2 0x8000⟩ else  -- TEMP_SID
  if a == 8 then some ⟨4, 4, .rw, leBytes 4 0x190000⟩ else  -- TEMP_FAIL
  if a == 9 then some ⟨1, 1, .rw, leBytes 1 0x60⟩ else  -- LEDGER_LIM
  if a == 10 then some ⟨4, 4, .rw, leBytes 4 0x4000⟩ else  -- SWEEP
  if a == 11 then some ⟨4, 4, .ro, leBytes 4 0xf0⟩ else  -- PANEL_STAT
  none

/-- THERMAL attributes, Table 16.4. -/
def thermalAttr (a : Nat) : Option AttrDef :=
  if a == 1 then some ⟨4, 4, .ro, leBytes 4 0⟩ else  -- THM_STAT
  if a == 2 then some ⟨4, 4, .ro, leBytes 4 0⟩ else  -- THM_EST
  if a == 3 then some ⟨16, 16, .ro, leBytes 16 0⟩ else  -- THM_SITES
  if a == 4 then some ⟨4, 4, .ro, leBytes 4 0⟩ else  -- THM_BASE
  if a == 5 then some ⟨4, 4, .rw, leBytes 4 0⟩ else  -- THM_PEAK
  if a == 6 then some ⟨2, 2, .rw, leBytes 2 0xfa0⟩ else  -- THM_BUDGET
  if a == 7 then some ⟨4, 4, .ro, leBytes 4 0⟩ else  -- THM_STEPS
  none

/-- STREAM attributes, Table 11.10. -/
def streamAttr (a : Nat) : Option AttrDef :=
  if a == 1 then some ⟨4, 4, .rw, leBytes 4 0⟩ else  -- STR_CFG
  if a == 2 then some ⟨2, 2, .rw, leBytes 2 0x8000⟩ else  -- SRC_NODE
  if a == 3 then some ⟨4, 128, .rw, []⟩ else  -- MAP
  if a == 4 then some ⟨4, 4, .ro, leBytes 4 0⟩ else  -- STR_STATUS
  if a == 5 then some ⟨4, 4, .ro, leBytes 4 0⟩ else  -- STR_COUNT
  none

/-- DEVICE attributes: the fold arbiters (R122, Table 3.11), FAN_DOG and FAN_DOG_EN (R246), HB_CFG (R455), MSG_CFG
(R262), NODE_REQ and BW_PRIO (R344), the text fields (R433) and HSW_CFG (R462). -/
def deviceAttr (a : Nat) : Option AttrDef :=
  if a == 0x300 || a == 0x308 then some ⟨4, 4, .rw, leBytes 4 0x4008⟩ else
  if a == 0x301 || a == 0x309 then some ⟨4, 4, .rw, leBytes 4 0x7D0⟩ else
  if a == 0x302 || a == 0x30A then some ⟨4, 4, .w1c, leBytes 4 0⟩ else
  if a == 0x303 || a == 0x304 || a == 0x30B || a == 0x30C then some ⟨4, 4, .ro, leBytes 4 0⟩ else
  if a == 0x305 || a == 0x30D then some ⟨4, 4, .rw, leBytes 4 0⟩ else
  if a == 0x700 then some ⟨1, 1, .rw, [30]⟩ else
  if a == 0x701 then some ⟨1, 1, .rw, [1]⟩ else
  if a == 0x702 then some ⟨2, 2, .rw, [0, 0]⟩ else
  if 0x800 ≤ a && a ≤ 0x83F then some ⟨4, 4, .rw, leBytes 4 0⟩ else
  if a == 0x900 then some ⟨2, 2, .rw, leBytes 2 0x8000⟩ else
  if a == 0x901 then some ⟨1, 1, .rw, [128]⟩ else
  if 0xA00 ≤ a && a ≤ 0xA3F then some ⟨64, 64, .rw, zeros 64⟩ else
  if a == 0xB00 then some ⟨4, 4, .rw, leBytes 4 0x1640A⟩ else
  none

/-- EVENT attributes: EVT_ROUTE (R94, Table 3.2); MGT reads 1 on E112–E127 (R95). -/
def eventAttr (i a : Nat) : Option AttrDef :=
  if a == 1 then some ⟨4, 4, .rw, leBytes 4 (if 112 ≤ i then 0x100005 else 0x5)⟩ else none

/-- SCHEDULE attributes (R320): SCH_ENTRY, and SCH_STATE. -/
def scheduleAttr (a : Nat) : Option AttrDef :=
  if a == 1 then some ⟨16, 16, .rw, zeros 16⟩ else
  if a == 2 then some ⟨8, 8, .ro, zeros 8⟩ else
  none

/-- The row of attribute `a` of instance `i` of object type `ty`. -/
def attrDef (v ty i a : Nat) : Option AttrDef :=
  if ty == 1 then deviceAttr a else
  if ty == 2 then portAttr a else
  if ty == 3 then seqAttr a else
  if ty == 4 then pwmgroupAttr a else
  if ty == 5 then bridgeAttr v a else
  if ty == 6 then damperAttr a else
  if ty == 7 then fanAttr a else
  if ty == 8 then valveAttr a else
  if ty == 9 then loopAttr a else
  if ty == 10 then zoneAttr a else
  if ty == 12 then clockAttr a else
  if ty == 13 then linkAttr i a else
  if ty == 14 then routeAttr a else
  if ty == 15 then canctlAttr a else
  if ty == 16 then panelAttr a else
  if ty == 17 then thermalAttr a else
  if ty == 22 then streamAttr a else
  if ty == 11 then scheduleAttr a else
  if ty == 20 then eventAttr i a else
  none

end Sys2Proof.Machine
end

