-- ==== Sys2Proof/Machine/Opcodes.lean ====
section
/-! DEFINITION. The opcodes of Table 2.9 (R87): the handle types each accepts, whether it accepts class 0, whether it is a
long operation, whether it changes its object (check 9 of R69), the protocol version it needs (Table 2.7), and the longest
reply it can produce (R106), which the fetch reserves completion entries for. -/

namespace Sys2Proof.Machine

/-- Status codes of Table 2.10 (R90). -/
def stOK : Nat := 0x00
def stAccepted : Nat := 0x01
def stBadVersion : Nat := 0x10
def stBadOpcode : Nat := 0x11
def stBadLength : Nat := 0x12
def stBadObject : Nat := 0x13
def stBadParam : Nat := 0x14
def stImpossibleDate : Nat := 0x15
def stBadCrc : Nat := 0x16
def stBusy : Nat := 0x20
def stNoResource : Nat := 0x21
def stQueueFull : Nat := 0x22
def stAborted : Nat := 0x30
def stTimeout : Nat := 0x31
def stTooLate : Nat := 0x32
def stCalInvalid : Nat := 0x40
def stStoreWriteFail : Nat := 0x41
def stThermalLimit : Nat := 0x50
def stPowerLimit : Nat := 0x51
def stFusedOff : Nat := 0x60
def stNotOwner : Nat := 0x61
def stUpdateIncomplete : Nat := 0x70

/-- No error offset (Table 2.8). -/
def noOfs : Nat := 0xFFFF

/-- A protocol version as one number: major · 256 + minor, so that versions compare as R61 says. -/
def protoVer (maj min : Nat) : Nat := maj * 256 + min

/-- One row of Table 2.9: `types` empty means any object type; `reply` is the longest reply data after the status block
where the payload does not set it. -/
structure OpInfo where
  types : List Nat
  c0 : Bool
  long : Bool
  changes : Bool
  since : Nat
  reply : Nat
  deriving DecidableEq, Repr

/-- A row of Table 2.9 from its columns, available from protocol 2.0. -/
def opRow (types : List Nat) (c0 long changes : Bool) (reply : Nat) : Option OpInfo :=
  some ⟨types, c0, long, changes, protoVer 2 0, reply⟩

/-- The same row, available from a later protocol version (Table 2.7). -/
def OpInfo.from (ver : Nat) (o : Option OpInfo) : Option OpInfo :=
  o.map (fun i => { i with since := ver })

/-- Family 0x00 (sessions). -/
def opFam0 (op : Nat) : Option OpInfo :=
  match op with
  | 0 => opRow [tyDevice] false false false 20
  | 1 => opRow [tyDevice] false false false 0
  | 2 => opRow [tyDevice] true false false 0
  | 3 => opRow [tyDevice] true false false 0
  | 4 => opRow [tyDevice] true false false 4076
  | _ => none

/-- Family 0x01 (objects). -/
def opFam1 (op : Nat) : Option OpInfo :=
  match op with
  | 0 => opRow [] true false false 4076
  | 1 => opRow [] true false true 0
  | 2 => opRow [] false false true 0
  | 3 => opRow [tyDevice] false false false 6
  | 4 => opRow [tyDevice] false false false 0
  | 5 => opRow [tyLoop, tyZone, tySchedule, tyRoute, tyStream] false false true 0
  | 6 => opRow [tyLoop, tyZone, tySchedule, tyRoute, tyStream] false false true 0
  | 7 => opRow [] false false false 1
  | 8 => OpInfo.from (protoVer 3 0) (opRow [tyDevice] false false false 4076)
  | _ => none

/-- Family 0x02 (signals and streams). -/
def opFam2 (op : Nat) : Option OpInfo :=
  match op with
  | 0 => opRow [tyStream] false false true 0
  | 1 => opRow [tyStream] false false true 0
  | 2 => opRow [tySignal] true false false 16
  | 3 => OpInfo.from (protoVer 3 1) (opRow [tySignal] true false true 0)
  | 4 => OpInfo.from (protoVer 3 1) (opRow [tySignal] true false true 0)
  | _ => none

/-- Family 0x03 (sampler and calibration). -/
def opFam3 (op : Nat) : Option OpInfo :=
  match op with
  | 0 => opRow [tySeq] false false true 0
  | 1 => opRow [tySeq] false false true 0
  | 2 => opRow [tySeq] true false false 512
  | 3 => opRow [tyPort] false true true 8
  | 4 => opRow [tyPort] false true true 8
  | 5 => opRow [tyCal] false false false 4076
  | 6 => opRow [tyCal] false true true 0
  | _ => none

/-- Family 0x04 (PWM groups and actuators). -/
def opFam4 (op : Nat) : Option OpInfo :=
  match op with
  | 0 => opRow [tyGroup] false false true 0
  | 1 => opRow [tyGroup] true false true 0
  | 2 => opRow [tyGroup] true false true 0
  | 3 => opRow [tyBridge] false false true 0
  | 4 => opRow [tyDamper] false true true 8
  | 5 => opRow [tyDamper] false true true 8
  | 6 => opRow [tyValve] true false true 0
  | 7 => opRow [tyFan] true false true 0
  | 8 => opRow [tyDamper, tyFan, tyValve] false false true 0
  | _ => none

/-- Family 0x05 (Drover). -/
def opFam5 (op : Nat) : Option OpInfo :=
  match op with
  | 0 => opRow [tyLoop] false false true 0
  | 1 => opRow [tyLoop] true false true 0
  | 2 => opRow [tyLoop] true false true 0
  | 3 => opRow [tyLoop] true false false 24
  | 4 => opRow [tyLoop] false false true 0
  | 5 => opRow [tyLoop] false false true 0
  | _ => none

/-- Family 0x06 (Orrery). -/
def opFam6 (op : Nat) : Option OpInfo :=
  match op with
  | 0 => opRow [tyZone] true false false 20
  | 1 => opRow [tyZone] false false true 0
  | 2 => opRow [tyZone] false false true 0
  | 3 => opRow [tyZone] false false true 0
  | 4 => opRow [tyZone] true false false 12
  | 5 => opRow [tyZone] false false false 12
  | _ => none

/-- Family 0x07 (Almanac). -/
def opFam7 (op : Nat) : Option OpInfo :=
  match op with
  | 0 => opRow [tyClock] true false false 16
  | 1 => opRow [tyClock] false false true 8
  | 2 => opRow [tyClock] false false true 0
  | 3 => opRow [tyClock] false false true 0
  | 4 => opRow [tyClock] false false true 0
  | 5 => opRow [tyClock] false false false 52
  | 6 => opRow [tyClock] false true true 0
  | 7 => opRow [tySchedule] false false false 24
  | _ => none

/-- Family 0x08 (fabric).  POLICE_COUNTERS with CLEAR is no change for check 9 of R69, as the other reads that clear are not:
SEQ_READ with CONSUME, RESET_CAUSE_READ (DESIGN CHOICE, log entry 77). -/
def opFam8 (op : Nat) : Option OpInfo :=
  match op with
  | 0 => opRow [tyLink] true false false 44
  | 1 => opRow [tyLink] false true true 4
  | 2 => opRow [tyDevice] false false false 1028
  | 3 => opRow [tyRoute] true false false 42
  | 4 => opRow [tyDevice] false false false 36
  | 5 => opRow [tyLink] false false false 16
  | _ => none

/-- Family 0x09 (CAN). -/
def opFam9 (op : Nat) : Option OpInfo :=
  match op with
  | 0 => opRow [tyCan] false false true 0
  | 1 => opRow [tyCan] false false true 0
  | 2 => opRow [tyCan] false true true 8
  | 3 => opRow [tyCan] true false true 0
  | 4 => opRow [tyCan] true false false 40
  | 5 => OpInfo.from (protoVer 3 2) (opRow [tyCan] false false true 0)
  | _ => none

/-- Family 0x0A (Plate), from protocol 3.0 (Table 2.7). -/
def opFamA (op : Nat) : Option OpInfo :=
  OpInfo.from (protoVer 3 0) (match op with
  | 0 => opRow [tyPanel] false true true 0
  | 1 => opRow [tyPanel] false true true 28
  | 2 => opRow [tyPanel] false true true 28
  | 3 => opRow [tyPanel] false false false 8
  | 4 => opRow [tyPanel] false false true 0
  | 5 => opRow [tyPanel] false false true 0
  | _ => none)

/-- Family 0x0B (power and thermal). -/
def opFamB (op : Nat) : Option OpInfo :=
  match op with
  | 0 => opRow [tyDevice] true false false 24
  | 1 => opRow [tyThermal] true false false 28
  | 2 => opRow [tyDevice] false false true 0
  | 3 => opRow [tyDevice] false false false 4
  | 4 => opRow [tyDevice] false false false 4
  | _ => none

/-- Family 0x0C (firmware and image). -/
def opFamC (op : Nat) : Option OpInfo :=
  match op with
  | 0 => opRow [tyFirmware] false false false 28
  | 1 => opRow [tyFirmware] false false true 0
  | 2 => opRow [tyFirmware] false true true 0
  | 3 => opRow [tyFirmware] false false true 0
  | 4 => opRow [tyDevice] false false true 0
  | 5 => opRow [tyDevice] false true true 16
  | 6 => opRow [tyDevice] false false false 152
  | _ => none

/-- Family 0x0D (events and queues). -/
def opFamD (op : Nat) : Option OpInfo :=
  match op with
  | 0 => opRow [tyEvent] false false true 0
  | 1 => opRow [tyEvent] true false true 0
  | 2 => opRow [tyEvent] true false false 12
  | 3 => opRow [tyQueue] false false true 0
  | 4 => opRow [tyQueue] true false false 16
  | 5 => opRow [tyQueue] false false true 0
  | _ => none

/-- Family 0x0E (service). -/
def opFamE (op : Nat) : Option OpInfo :=
  match op with
  | 0 => opRow [tyDevice] false false false 1036
  | 1 => opRow [tyDevice] false true true 0
  | 2 => opRow [tyDevice] false false false 64
  | 3 => opRow [tyDevice] false true false 12
  | 4 => opRow [tyDevice] true false false 92
  | _ => none

/-- The row of Table 2.9 for a family and opcode; `none` where R87 answers BAD_OPCODE. -/
def opInfo (fam op : Nat) : Option OpInfo :=
  match fam with
  | 0 => opFam0 op
  | 1 => opFam1 op
  | 2 => opFam2 op
  | 3 => opFam3 op
  | 4 => opFam4 op
  | 5 => opFam5 op
  | 6 => opFam6 op
  | 7 => opFam7 op
  | 8 => opFam8 op
  | 9 => opFam9 op
  | 10 => opFamA op
  | 11 => opFamB op
  | 12 => opFamC op
  | 13 => opFamD op
  | 14 => opFamE op
  | _ => none

/-- The attribute numbers of an OBJ_GET request (Table 2.11). -/
def getList (payload : List Byte) : List Nat :=
  (List.range (fld payload 0 2 % 65)).map (fun i => fld payload (4 + 2 * i) 2)

/-- Padded length of an attribute record (Table 2.12). -/
def recordLen (vlen : Nat) : Nat := 4 + (vlen + 3) / 4 * 4

/-- Bytes of the records an OBJ_GET reply can hold, each at the largest size its attribute can have (R75). -/
def getReplyLen (v ty inst : Nat) (attrs : List Nat) : Nat :=
  (attrs.map (fun a => match attrDef v ty inst a with
    | some d => recordLen d.hi
    | none => 4)).sum

/-- A count that a payload sets, 0 where it is outside its range and so sets no reply. -/
def counted (lo hi n : Nat) : Nat := if lo ≤ n ∧ n ≤ hi then n else 0

/-- Longest reply data after the status block that a command, as fetched, can produce (R106): worked out from the opcode
and from the counts and lengths that its payload sets. -/
def longestReply (v fam op hnd : Nat) (payload : List Byte) : Nat :=
  match opInfo fam op with
  | none => 4
  | some i =>
    if fam == 0 && op == 4 then counted 0 4076 payload.length
    else if fam == 1 && op == 0 then
      if payload.length == 4 + 2 * fld payload 0 2 && decide (fld payload 0 2 ≤ 64) then
        counted 0 4076 (getReplyLen v (handleTy hnd) (handleInst hnd) (getList payload))
      else 0
    else if fam == 3 && op == 2 then 4 * counted 1 (128 - handleInst hnd) (fld payload 0 1)
    else if fam == 3 && op == 5 then
      if fld payload 0 2 + fld payload 2 2 ≤ 4932 then 4 + counted 1 4072 (fld payload 2 2) else 0
    else if fam == 14 && op == 0 then 12 + 32 * counted 1 32 (fld payload 4 1)
    else i.reply

end Sys2Proof.Machine
end

