-- ==== Sys2Proof/Machine/CoreTypes.lean ====
section
/-! DEFINITION. Plain-data types of the module's common services: fuses and time (spec/00, spec/01), sessions and commands
(spec/02), events, queues and fold arbiters (spec/03), the host and management ports (spec/14), supplies, reset and images
(spec/15), the fault log, sheepdogs and firmware banks (spec/17). -/

namespace Sys2Proof.Machine

/-- The fuses (R4, R11, R20): the variant code of Table 0.3 and the device unique ID.  No command writes them. -/
structure Fuses where
  variant : Nat
  uid : Nat
  deriving DecidableEq, Repr

/-- Time (R13, R27, R28, R31, R36).  `now` counts 25 ns periods since the always-on start; `transit` is the
transit-reference count; `fabUs` is fabric time in µs, `fabAcc` the part of a microsecond that has passed, in units of 10^-9
of a 25 ns period, and `fabRate` its rate adjustment in parts in 10^9 (R354). -/
structure Clocks where
  now : Nat
  transit : Nat
  refRun : Bool
  refSince : Nat
  fabUs : Nat
  fabAcc : Nat
  fabRate : Int
  deriving DecidableEq, Repr

/-- A signal slot (Table 1.7). -/
structure Slot where
  value : Word
  stamp : Word
  quality : Half
  producer : Half
  seqno : Half
  maxage : Half
  deriving DecidableEq, Repr

/-- What a slot's consumers with checks of their own need of its last write (R138, R199, R205): whether the slot was STALE at it,
and the values that writes of the last 100 ns replaced, with their instants. -/
structure SlotNote where
  stale : Bool
  was : List (Nat × Word)
  deriving DecidableEq, Repr

/-- Who writes over a slot's producer (R41): a FORCED value, a MODEL substitution, or both, of which FORCED takes precedence. -/
structure Override where
  forced : Bool
  model : Bool
  deriving DecidableEq, Repr

/-- How far a fetched command has come (R55, R57, R72, R86): fetched and not started; a long operation that has started;
a long operation past its point of no return. -/
inductive CmdPhase where
  | fetched
  | running
  | committed
  deriving DecidableEq, Repr

/-- An outstanding command (R55): its header fields (Table 2.2), its payload, when its
deadline passes (R56), whether it was demoted (R83), the completion entries reserved for it (R74, R106) and whether a core
bite has made it run again (R506). -/
structure Cmd where
  ctx : Nat
  tag : Nat
  ver : Nat
  family : Nat
  opcode : Nat
  hnd : Nat
  flags : Nat
  deadlineByte : Nat
  payload : List Byte
  phase : CmdPhase
  expiry : Option Nat
  demoted : Bool
  reserved : Nat
  rerun : Bool
  deriving DecidableEq, Repr

/-- A session (R62–R68): open or not, the negotiated version and the granted MAXOUT. -/
structure Session where
  opened : Bool
  ver : Nat
  maxout : Nat
  deriving DecidableEq, Repr

/-- A staged attribute record (R75–R77): object, attribute, value, and the object's generation when it was first staged. -/
structure Staged where
  hnd : Nat
  attr : Nat
  value : List Byte
  gen : Nat
  deriving DecidableEq, Repr

/-- A staged creation or deletion of an instance (R556) and the generation it was staged at. -/
structure StagedLife where
  hnd : Nat
  create : Bool
  gen : Nat
  deriving DecidableEq, Repr

/-- An event's state (R91), whether its delivery record waits to be written (R97, R99), and whether its HIRQ line waits for
that record (R97, R561). -/
structure EventSt where
  pending : Bool
  count : Half
  cause : Word
  stamp : Word
  recordDue : Bool
  lineWaits : Bool
  deriving DecidableEq, Repr

/-- A command packet that a submission queue holds and whose doorbell has been recognised (R55, R56, R83): the index after its
record, the instant of the doorbell, its TAG, whether it is of class 0, and what the commands outstanding at that instant make
of it: a duplicate TAG, a class-0 command beyond the limits of R83. -/
structure Rung where
  upTo : Nat
  since : Nat
  tag : Nat
  class0 : Bool
  dup : Bool
  demoted : Bool
  deriving DecidableEq, Repr

/-- A queue (R100–R111): descriptor, indices, RSEQ, HIGH, DROPS, DBERR, whether the next record carries LOSS, the records
not yet notified and the transit-reference count at which the oldest of them was written (R110), whether E118 has told that the
queue is full, the CAUSE word of the notification to come (Table 3.8), and the packets of a submission queue that wait to be
fetched (R55). -/
structure QueueSt where
  base : Nat
  depth : Nat
  eshift : Nat
  enable : Bool
  coalCount : Nat
  coalTime : Nat
  head : Nat
  tail : Nat
  rseq : Half
  high : Nat
  drops : Word
  dberr : Half
  loss : Bool
  unNotified : Nat
  coalSince : Option Nat
  fullTold : Bool
  note : Word
  rung : List Rung
  deriving DecidableEq, Repr

/-- A fold arbiter (R112–R123, Table 3.11): CTL, DOG, what STAT reads; the instant from which its grants count on, the grants
and every-Nth grants until then and those since the last every-Nth grant; and the instant from which MAXWAIT counts. -/
structure FoldSt where
  ctl : Word
  dog : Word
  lastPort : Nat
  bitten : Bool
  bites : Nat
  since : Nat
  grants : Nat
  forced : Nat
  rest : Nat
  waitFrom : Nat
  deriving DecidableEq, Repr

/-- A checked write that the host port holds until it is applied (R440): into the HIF_ window or into a ring. -/
structure HeldWrite where
  ring : Bool
  addr : Nat
  data : List Byte
  deriving DecidableEq, Repr

/-- The host port (R438–R446): error flags and counters, HIF_CFG, HIF_SCRATCH, HIF_BIND0–7, held writes, and the data of
the last read it drove (data then CRC, R439). -/
structure HostSt where
  crcErr : Bool
  ovrun : Bool
  wErr : Bool
  cfg : Word
  scratch : Word
  errCrc : Half
  errOvrun : Half
  bind : Tbl Word
  held : List HeldWrite
  driven : List Byte
  deriving DecidableEq, Repr

/-- The management port (R447–R453, Tables 14.6 and 14.7): MGT_STAT's own bits, MGT_BOOT, MGT_SAFE.HELD, MGT_ALERT0–3,
the ALERT# line, the packet under construction, the read position in Q61–Q63, the last PKT_READ answer, and the data of the
last read it drove (`none`: the transaction was NACKed). -/
structure MgtSt where
  pktDrop : Bool
  pecErr : Nat
  bootOvr : Bool
  bootBank : Bool
  bootOnce : Bool
  bootNoImage : Bool
  safeHeld : Nat
  alert : BitVec 128
  alertLine : Bool
  building : Option (List Byte)
  readQueue : Option Nat
  readOffset : Nat
  lastChunk : List Byte
  driven : Option (List Byte)
  deriving DecidableEq, Repr

/-- Main-side states of Table 14.7. -/
inductive MainSt where
  | off
  | reset
  | booting
  | running
  | recovery
  | shutdown
  deriving DecidableEq, Repr

/-- The code of MAIN (Table 14.7). -/
def MainSt.code : MainSt → Nat
  | .off => 0
  | .reset => 1
  | .booting => 2
  | .running => 3
  | .recovery => 4
  | .shutdown => 5

/-- Is the main side up, in RUNNING or RECOVERY (R454)? -/
def MainSt.up : MainSt → Bool
  | .running => true
  | .recovery => true
  | _ => false

/-- Hot-swap controller (R461–R463, Table 15.15 HSW). -/
inductive HotSwap where
  | off
  | charging
  | on
  | retry
  | latched
  deriving DecidableEq, Repr

def HotSwap.code : HotSwap → Nat
  | .off => 0
  | .charging => 1
  | .on => 2
  | .retry => 3
  | .latched => 4

/-- Supplies, reset and boot (R456–R477).  Voltages in mV as the supervisors last saw them (`vbat` at the last boot); the
shedding of VACT loads and the VACT input switch; the hot-swap controller, with AUTO_RETRY as it stood at the last charging start; the main side and what holds it in reset; the
instants at which RESET commands act; RESET_CAUSE with the instant at which a source last reset a main side that was not in
reset (R470); the straps sampled at the power-on reset, and STRAP_BOOT as last sampled at a boot; the bank booted; the two holds of the timed islands (R28, R211); the
events that wait for BOOT_DONE; and whether the supplies of the shared SRAM have failed (R557). -/
structure PowerSt where
  aoOn : Bool
  testHeld : Bool
  vsysR : Nat
  vact : Nat
  vbat : Nat
  input : Nat
  vactShed : Bool
  vactOpen : Bool
  vactRetry : Option Nat
  hsw : HotSwap
  hswRow : Nat
  hswRetry : Option Nat
  hswCfg : Word
  hswAuto : Bool
  main : MainSt
  hold : Bool
  hresetLow : Bool
  thermalHold : Bool
  resetAt : List Nat
  resetCause : Word
  lastReset : Option Nat
  bootCount : Half
  ma : Nat
  strapIlim : Nat
  boot0 : Bool
  boot1 : Bool
  bank : Bool
  debugHalt : Bool
  refHeld : Bool
  lateEvents : Tbl EventSt
  sramLost : Bool
  deriving DecidableEq, Repr

/-- A fault-log entry (Table 17.4) but for SEQ's place in the ring. -/
structure LogEntry where
  seq : Word
  fabric : Word
  sec : Nat
  rtcValid : Bool
  carried : Bool
  mainDown : Bool
  source : Nat
  code : Nat
  cause : Word
  detail : Word
  suppressed : Word
  boot : Half
  deriving DecidableEq, Repr

/-- The fault log (R512–R514): the ring in store DRAM, the always-on copy, the next SEQ, and for each event when it was
last logged and how many firings have been suppressed since. -/
structure LogSt where
  ring : List LogEntry
  copy : List LogEntry
  next : Word
  lastAt : Tbl (Option Nat)
  suppressed : Tbl Word
  clearing : Option (Nat × Nat)
  deriving DecidableEq, Repr

/-- The counters of R515 that other state does not give. -/
structure CounterSt where
  demoted : Word
  triggersLost : Word
  sramEcc : Word
  dramEcc : Word
  flashEcc : Word
  uncorrectable : Word
  overwritten : Word
  coreResets : Word
  reruns : Word
  abandoned : Word
  boots : Word
  deriving DecidableEq, Repr

/-- Sheepdogs (R505–R510): bites since the last main-side reset by number; the host heartbeat and the fan watchdog, with
the time of the last restart, whether they are armed and whether the loss or the forcing is in force; the release time that
BOOT times. -/
structure DogSt where
  bites : Tbl Half
  lastBeat : Nat
  hbArmed : Bool
  hbLost : Bool
  release : Option Nat
  fanBeat : Nat
  fanArmed : Bool
  fanForced : Bool
  deriving DecidableEq, Repr

/-- What a firmware bank holds (R517, R522): the factory image, nothing, or a programmed image. -/
inductive BankBody where
  | factory
  | erased
  | image (verified : Bool) (version : Nat) (length : Nat)
  deriving DecidableEq, Repr

/-- The active-bank pointer in force (R518). -/
structure BankPtr where
  seq : Nat
  bank : Bool
  trial : Bool
  tries : Nat
  incA : Bool
  incB : Bool
  deriving DecidableEq, Repr

/-- Firmware banks (R517–R522): contents, the pointer copy in force and the one before it (R518), the running bank, the last
fallback reason, the staging buffer with the session and bank that it is for, and a FW_COMMIT in progress (context, tag, bank,
trial). -/
structure FirmwareSt where
  bankA : BankBody
  bankB : BankBody
  ptr : BankPtr
  ptrOld : BankPtr
  running : Option Bool
  reason : Nat
  buffer : List Byte
  bufferOwner : Option (Nat × Bool)
  commit : Option (Nat × Nat × Bool × Bool)
  deriving DecidableEq, Repr

/-- The Yelist image area (R478–R487): the active-image pointer, whether an image is active in the main side, its SERIAL,
the write sequence open in the inactive slot (session and next offset), a YELIST_LOAD in progress (context, tag), the flash
addresses whose uncorrectable errors the boot or the load in progress has met (R509), and the panels that hold new transitions
for a load (Table 15.14). -/
structure ImageSt where
  slot : Bool
  active : Bool
  serial : Nat
  writer : Option (Nat × Nat)
  loading : Option (Nat × Nat)
  badFlash : List Nat
  holding : List Nat
  deriving DecidableEq, Repr

/-- One port's view of the time bytes (R301, R303): frozen shadows, FRZ_TO, when the freeze times out, and staging. -/
structure RtcView where
  frozen : Bool
  frzTo : Bool
  release : Nat
  shadow : List Byte
  staging : List Byte
  deriving DecidableEq, Repr

/-- The backup domain (R298–R316, Tables 10.1–10.5): the 40-bit count, the 15-bit prescaler, the part of a tick that has
passed (`osc`, in units where 40 000 000 is one tick), RTC_STAT and RTC_CTL bits, BTEMP and TRIM, the alarm, the wake word,
backup RAM, the trim residual, the ticks counted in the present trim interval, the ticks it has moved, the alarm match
(with its PWR) and the wakes whose events have not fired yet, whether PWR_ON has been asserted at this very instant (R312), the wakes since the last E78, whether the domain has been reset since the
last boot, and whether the count was last taken from a bellwether. -/
structure RtcSt where
  count : BitVec 40
  presc : Nat
  osc : Nat
  valid : Bool
  timeLost : Bool
  trimOn : Bool
  wrDenied : Bool
  alarmF : Bool
  wakeF : Bool
  pwrOn : Bool
  alarmEn : Bool
  alarmPwr : Bool
  wakeEn : Bool
  wakePwr : Bool
  btemp : Half
  trim : Half
  alm : BitVec 40
  wake : Word
  bkp : Tbl Byte
  residual : Int
  trimTicks : Nat
  trimMoved : Nat
  almMatch : Option Bool
  wakeDue : Nat
  wakesSince : Nat
  pwrNow : Bool
  minuteDue : Bool
  wasReset : Bool
  byFabric : Bool
  hostView : RtcView
  mgtView : RtcView
  deriving DecidableEq, Repr

/-- What governs a zone's schedule outputs (R323–R325): the entry (`none`: the default), the reason and since when. -/
structure Govern where
  entry : Option Nat
  reason : Nat
  since : Nat
  deriving DecidableEq, Repr

/-- The Almanac's firmware part (R317–R326): the calendar, each zone's governing entry, each zone's early starts (entry,
nominal start, instant), the last taking effect of each entry, each zone's last optimal-start check of each start (entry, nominal
start, instant),
and a persisted flash copy of the ephemeris table with its validity. -/
structure AlmanacSt where
  base : Int
  transitions : List (Nat × Int)
  govern : Tbl Govern
  early : Tbl (List (Nat × Nat × Nat))
  last : Tbl Nat
  lastCheck : Tbl (List (Nat × Nat × Nat))
  evalDue : Option Nat
  ephFlash : List Byte
  ephFlashValid : Bool
  ephWriting : Option (Nat × Nat)
  deriving DecidableEq, Repr

end Sys2Proof.Machine
end

