-- ==== Sys2Proof/Machine/Float.lean ====
section
/-! DEFINITION. IEEE 754 arithmetic with round-to-nearest-even, as zone fitting and prediction use it (R288, R294): binary32
and binary64 numbers as dyadic fractions. -/

namespace Sys2Proof.Machine

/-- A floating-point number: `m · 2^e`, an infinity, or not a number.  Zero is `num 0 0`; the sign of zero is not kept, since
no result here shows it. -/
inductive Flt where
  | num (m : Int) (e : Int)
  | inf (neg : Bool)
  | nan
  deriving DecidableEq, Repr

/-- A format: bits of precision and the exponent of the smallest and of the largest unit in the last place. -/
structure Fmt where
  prec : Nat
  emin : Int
  emax : Int
  deriving DecidableEq, Repr

def binary32 : Fmt := ⟨24, -149, 104⟩
def binary64 : Fmt := ⟨53, -1074, 971⟩

/-- Halve `n` by `2^s`, rounding to nearest, ties to even. -/
def rneShift (n s : Nat) : Nat :=
  let q := n / 2 ^ s
  let r := n % 2 ^ s
  if 2 * r > 2 ^ s || (2 * r == 2 ^ s && q % 2 == 1) then q + 1 else q

/-- Round `n · 2^e` (exact) to a format. -/
def Fmt.round (f : Fmt) (neg : Bool) (n : Nat) (e : Int) : Flt :=
  if n = 0 then .num 0 0
  else
    let target := max f.emin (e + (n.log2 + 1 : Nat) - f.prec)
    let q := if target ≤ e then n * 2 ^ (e - target).toNat else rneShift n (target - e).toNat
    let q2 := if q = 2 ^ f.prec then 2 ^ (f.prec - 1) else q
    let e2 := if q = 2 ^ f.prec then target + 1 else target
    if q2 = 0 then .num 0 0
    else if f.emax < e2 then .inf neg
    else .num (if neg then -(q2 : Int) else q2) e2

/-- Round an integer multiple of a power of two. -/
def Fmt.ofDyadic (f : Fmt) (m e : Int) : Flt := f.round (decide (m < 0)) m.natAbs e

/-- Round a rational number `a / b`. -/
def Fmt.ofRatio (f : Fmt) (a : Int) (b : Nat) : Flt :=
  if b = 0 then .nan
  else
    let s := f.prec + 2 + (b.log2 + 1)
    let n := a.natAbs * 2 ^ s
    let q := 2 * (n / b) + (if n % b = 0 then 0 else 1)
    f.round (decide (a < 0)) q (-(s : Int) - 1)

def Flt.isFinite : Flt → Bool
  | .num _ _ => true
  | _ => false

def Flt.neg : Flt → Flt
  | .num m e => .num (-m) e
  | .inf n => .inf (!n)
  | .nan => .nan

def Flt.abs : Flt → Flt
  | .num m e => .num m.natAbs e
  | .inf _ => .inf false
  | .nan => .nan

def Fmt.add (f : Fmt) : Flt → Flt → Flt
  | .num a ea, .num b eb =>
    let e := min ea eb
    f.ofDyadic (a * 2 ^ (ea - e).toNat + b * 2 ^ (eb - e).toNat) e
  | .nan, _ => .nan
  | _, .nan => .nan
  | .inf x, .inf y => if x == y then .inf x else .nan
  | .inf x, _ => .inf x
  | _, .inf y => .inf y

def Fmt.sub (f : Fmt) (x y : Flt) : Flt := f.add x y.neg

def Fmt.mul (f : Fmt) : Flt → Flt → Flt
  | .num a ea, .num b eb => f.ofDyadic (a * b) (ea + eb)
  | .nan, _ => .nan
  | _, .nan => .nan
  | .inf x, .inf y => .inf (x != y)
  | .inf x, .num b _ => if b = 0 then .nan else .inf (x != decide (b < 0))
  | .num a _, .inf y => if a = 0 then .nan else .inf (y != decide (a < 0))

def Fmt.div (f : Fmt) : Flt → Flt → Flt
  | .num a ea, .num b eb =>
    if b = 0 then (if a = 0 then .nan else .inf (decide (a < 0)))
    else
      let neg := decide (a < 0) != decide (b < 0)
      let s := f.prec + 2 + (b.natAbs.log2 + 1)
      let n := a.natAbs * 2 ^ s
      let q := 2 * (n / b.natAbs) + (if n % b.natAbs = 0 then 0 else 1)
      f.round neg q (ea - eb - s - 1)
  | .nan, _ => .nan
  | _, .nan => .nan
  | .inf _, .inf _ => .nan
  | .inf x, .num b _ => .inf (x != decide (b < 0))
  | .num _ _, .inf _ => .num 0 0

/-- Is `x < y`?  Not a number compares with nothing. -/
def Flt.lt : Flt → Flt → Bool
  | .num a ea, .num b eb =>
    let e := min ea eb
    decide (a * 2 ^ (ea - e).toNat < b * 2 ^ (eb - e).toNat)
  | .inf neg, .num _ _ => neg
  | .num _ _, .inf neg => !neg
  | .inf a, .inf b => a && !b
  | _, _ => false

/-- Multiply by `2^s` and round to an integer, half away from zero. -/
def Flt.toFixed (x : Flt) (s : Nat) : Int :=
  match x with
  | .num m e =>
    let k := e + s
    if 0 ≤ k then m * 2 ^ k.toNat else divr m (2 ^ (-k).toNat : Nat)
  | .inf n => if n then -(2 ^ 80) else 2 ^ 80
  | .nan => 0

/-- A Q16.16 number. -/
def Fmt.ofQ16 (f : Fmt) (v : Int) : Flt := f.ofDyadic v (-16)

/-- Dot product, products summed from the left. -/
def Fmt.dot (f : Fmt) (x y : List Flt) : Flt :=
  match (List.zipWith f.mul x y) with
  | [] => .num 0 0
  | p :: ps => ps.foldl f.add p

/-- Matrix (rows) times vector. -/
def Fmt.matVec (f : Fmt) (m : List (List Flt)) (v : List Flt) : List Flt := m.map (fun r => f.dot r v)

/-- Columns of a matrix of `n` columns. -/
def colsOf (n : Nat) (m : List (List Flt)) : List (List Flt) :=
  (List.range n).map (fun j => m.map (fun r => r.getD j (.num 0 0)))

/-- Matrix times matrix, the second of `n` columns. -/
def Fmt.matMul (f : Fmt) (a b : List (List Flt)) (n : Nat) : List (List Flt) :=
  a.map (fun r => (colsOf n b).map (fun c => f.dot r c))

/-- Integer square root of a number below `2^(2k)`, bit by bit from the top: `r` is the root so far. -/
def isqrtFrom (n : Nat) : Nat → Nat → Nat
  | 0, r => r
  | k + 1, r => let t := r + 2 ^ k; isqrtFrom n k (if t * t ≤ n then t else r)

/-- Integer square root, rounded to nearest. -/
def sqrtRound (n : Nat) : Nat :=
  let r := isqrtFrom n (n.log2 / 2 + 1) 0
  if r * r + r < n then r + 1 else r

end Sys2Proof.Machine
end

