-- ==== Sys2Proof/Machine/BlockTypes.lean ====
section
/-! DEFINITION. Plain-data types of the blocks: ports, sampler, PWM, actuators, Drover, Orrery, fabric, CAN, plate engines
and thermal governor (spec/04 to spec/13, spec/16). -/

namespace Sys2Proof.Machine

/-! ### Paddock ports (spec/04) -/

/-- One digital input (R139): the terminal's voltage in mV, the raw comparator level and since when, and the debounced level
(`none` until it is taken). -/
structure InputSt where
  mv : Int
  raw : Bool
  since : Nat
  level : Option Bool
  edges : Word
  deriving DecidableEq, Repr

/-- What a sensor-bus port puts on its lines (R140, R141): an address with the bytes written, a read of `len` bytes (after a
repeated START where `restart`), a STOP, or nine SCL pulses. -/
inductive SbusSignal where
  | write (addr : Nat) (data : List Byte)
  | read (addr len : Nat) (restart : Bool)
  | stop
  | ninePulses
  deriving DecidableEq, Repr

/-- One paddock port (Tables 4.4, 4.8, 4.9): the conditions of its states, the retry faults of the last 60 s, PORT_FAULT,
the inputs, the 1 s current mean, the sensor-bus timer, the entry at which a poll pass that has begun goes on, what the last
pass put on the bus, the output sources last found unusable, the end of MOTION suppression, and the instants at which the port
last became and last ceased to be OFF or ACTIVE (R132). -/
structure PortSt where
  settling : Option Nat
  retry : Option Nat
  outside : Bool
  shed : Bool
  latched : Bool
  faultTimes : List Nat
  fault : Word
  inA : InputSt
  inB : InputSt
  lastRise : Option Nat
  periodA : Word
  samples : List Nat
  meanOver : Bool
  sbusDue : Option Nat
  sbusAt : Option Nat
  sbusWire : List SbusSignal
  staleA : Option Nat
  staleB : Option Nat
  pyroUntil : Option Nat
  onAt : Nat
  offAt : Nat
  deriving DecidableEq, Repr

/-! ### PWM groups and bridges (spec/06) -/

/-- States of a group (Table 6.5). -/
inductive GroupState where
  | disabled
  | run
  | safe
  | frozen
  deriving DecidableEq, Repr

def GroupState.code : GroupState → Nat
  | .disabled => 0
  | .run => 1
  | .safe => 2
  | .frozen => 3

/-- One set of group and bridge settings (R205): the attributes of a group and of the bridges of its four ports, as
numbers. -/
structure GroupSet where
  ctl : Nat
  period : Nat
  bndDiv : Nat
  minpulse : Nat
  cfg : List Nat
  duty : List Nat
  fail : List Nat
  dtRise : List Nat
  dtFall : List Nat
  trip : List Nat
  deriving DecidableEq, Repr

/-- A channel period (R190, R202): its start in fine steps, the requested duty, the one that is placed (R204), the direction, the
delays, whether the low side of the pulsing half-bridge was on at its start, and whether its edges fall on coarse ticks
(R189). -/
structure ChanPeriod where
  start : Nat
  duty : Nat
  cut : Nat
  rev : Bool
  rise : Nat
  fall : Nat
  low : Bool
  coarse : Bool
  deriving DecidableEq, Repr

/-- One PWM group (Table 6.5, R191–R212): its state, flags and counts; the active set; commits that have reached the
synchroniser and not yet moved, with the channels whose DUTY they carry (R205, R206); the duties and directions of the last
boundary, the channel periods that it and the one before started, and whether each channel began with its low sides on; the
channels whose delay line cannot be trimmed and the next calibration (R189); the last and the next boundary; what following
needs; the end of a FREEZE_THEN_SAFE hold; and which of the flags are new since the last E(40+k). -/
structure GroupSt where
  state : GroupState
  cause : Nat
  syncLost : Bool
  dlyFail : Bool
  splitUpd : Bool
  dutyClamp : Bool
  clampCh : Nat
  boundaries : Nat
  active : GroupSet
  queued : List (Nat × GroupSet × List Nat)
  duty : List Nat
  rev : List Bool
  chans : List ChanPeriod
  before : List ChanPeriod
  startLow : List Bool
  badLines : Nat
  lineDue : Nat
  last : Option Nat
  next : Option Nat
  wait : Option Nat
  following : Bool
  syncNew : Bool
  adjust : Int
  pulseSeen : Bool
  missed : Nat
  holdDue : Option Nat
  haltKind : Nat
  haltAt : Nat
  safeAt : Option Nat
  staleCh : List (Option Nat)
  deriving DecidableEq, Repr

/-- One bridge (Table 6.7, R208–R210): latch, the channel periods that had a trip (newest first), and TRIP_TOTAL; the channel
period of the last trip and its instant; the channel period in which a TRIP_CLEAR left the bridge off; the instant of the last
trip at which WCOUNT stood at N; and the last TRIP_CLEAR with the trips that it cleared. -/
structure BridgeSt where
  latched : Bool
  trips : List Nat
  total : Word
  cutAt : Option (Nat × Nat)
  off : Option Nat
  latchAt : Option Nat
  cleared : Option (Nat × List Nat)
  deriving DecidableEq, Repr

/-! ### Dampers, valves and fans (spec/07) -/

/-- How a leg of a damper move is driven: run by count, or run to a stop. -/
inductive LegPhase where
  | dwell
  | drive
  | brake
  | paused
  deriving DecidableEq, Repr

/-- What a damper is doing (R228, R231). -/
inductive MoveKind where
  | move
  | fullClose
  | fullOpen
  | near
  deriving DecidableEq, Repr

/-- A move or re-home in progress (R228–R232). -/
structure Move where
  kind : MoveKind
  phase : LegPhase
  target : Nat
  opening : Bool
  corrections : Nat
  cmd : Option (Nat × Nat)
  ends : Option Nat
  legStart : Nat
  brakeAt : Option Int
  cpsReject : Bool
  rehome : Bool
  deriving DecidableEq, Repr

/-- A positioned motor: a damper, or a floating valve with RIPPLE (R222–R233, R239).  Of its ripple detector: I_m, the last
band-passed sample, whether it has fallen below −RIP_THRESH × |I_m| since the last count, and when |I_m| last crossed I_MIN and
ENDSTOP_I.  `faultAt` is the instant of the last latching fault (R247). -/
structure MotorSt where
  known : Bool
  count : Int
  cps : Nat
  measured : Bool
  lead : Nat
  filled : Nat
  lastOpening : Option Bool
  intervals : List Nat
  lastCount : Option Nat
  current : Int
  band : Int
  fell : Bool
  crossedAt : Nat
  stallAt : Nat
  move : Option Move
  command : Option Nat
  overriding : Bool
  jam : Bool
  openLoad : Bool
  outcome : Nat
  touchStop : Option Bool
  touchCount : Int
  cut : Bool
  touchTime : Nat
  intervalDue : Bool
  posWritten : Nat
  faultAt : Option Nat
  deriving DecidableEq, Repr

/-- The record of one damper that the always-on domain keeps (R233). -/
structure DamperRecord where
  position : Nat
  cps : Nat
  lead : Nat
  valid : Bool
  deriving DecidableEq, Repr

/-- A valve (R236–R239): its command, the boost of a thermal one, and the estimate and drive of a floating one positioned by
time (in 1/65 536 of stroke; `drive` is direction, start, end and whether it runs to an end). -/
structure ValveSt where
  command : Option Nat
  applied : Nat
  zeroSince : Option Nat
  boostEnd : Option Nat
  fault : Bool
  lastFault : Nat
  est : Option Nat
  lastOpening : Option Bool
  drive : Option (Bool × Nat × Nat × Bool)
  waitDrive : Option (Bool × Nat)
  faultAt : Option Nat
  deriving DecidableEq, Repr

/-- States of a fan (Table 7.7). -/
inductive FanState where
  | stopped
  | spinup
  | gap
  | run
  | stall
  | tachLost
  deriving DecidableEq, Repr

/-- A fan (R241–R246): state, attempt, the command in force, edges of the attempt, timers, the tach, and the sensor flag. -/
structure FanSt where
  state : FanState
  attempt : Nat
  command : Option Nat
  applied : Nat
  edges : Nat
  ends : Option Nat
  rpm : Nat
  runRpm : Nat
  lastEdge : Option Nat
  interval : Nat
  loweredAt : Option Nat
  sensor : Bool
  speedAt : Nat
  faultAt : Option Nat
  deriving DecidableEq, Repr

/-! ### Sampler and calibration (spec/05) -/

/-- The settings of a sequence (R156, R163): SEQ_CTL, SEQ_PERIOD and SEQ_TRIG_DELAY of its head, and its entries with their
entry words. -/
structure SeqSet where
  ctl : Nat
  period : Nat
  delay : Nat
  entries : List (Nat × Nat)
  deriving DecidableEq, Repr

/-- A sequence, by its head (R156–R163): STATE, the settings in force since its last pass start, those committed since with
their instants, counts, the passes that have fallen due by GROUP triggers, the next periodic due time, a pass that waits (its
due time), and the SEQ_STOP that waits for the running pass. -/
structure SeqSt where
  armed : Bool
  live : SeqSet
  changes : List (Nat × SeqSet)
  overruns : Half
  passes : Word
  lastPass : Word
  dues : List Nat
  waiting : Option Nat
  stopCmd : Option (Nat × Nat)
  deriving DecidableEq, Repr

/-- A running pass (R160, R165): head, SEQ_CTL, start, end and slices. -/
structure PassSt where
  head : Nat
  ctl : Nat
  start : Nat
  ends : Nat
  slices : List Nat
  deriving DecidableEq, Repr

/-- A result that a pass will bring: its entry and entry word, SEQ_CTL of the pass, the start of the entry, the instant of its
first conversion, when it reaches the synchroniser and its stamp instant (R165). -/
structure ResultDue where
  head : Nat
  ctl : Nat
  entry : Nat
  word : Nat
  start : Nat
  first : Nat
  arrive : Nat
  stamp : Nat
  deriving DecidableEq, Repr

/-- The sampler (R152–R175): sequences, running passes, results on their way, result registers, since when each slice has
been occupied without a gap and until when, when each slice equalises next (R153), the codes of CH77 and CH78 that ADC0 last
gave, the equalisation trims of ADC1–ADC3 (offset in 1/16 codes, gain in ppm), the skew trims by set of Table 5.13 and slice
in steps (R154), when each internal channel is converted next (R155) and its last code, and the die temperature that
correction uses. -/
structure SamplerSt where
  seqs : Tbl SeqSt
  passes : List PassSt
  dues : List ResultDue
  results : Tbl Word
  busySince : List Nat
  busyUntil : List Nat
  eqDue : Tbl Nat
  eqRef : Nat × Nat
  offsets : List Int
  gains : List Int
  skews : Tbl Int
  hkDue : Tbl Nat
  codes : Tbl Nat
  temp : Int
  tempAt : Nat
  deriving DecidableEq, Repr

/-- A zero capture that is held (R180): R_z, and the ideal code i_z as a fraction. -/
structure HeldZero where
  chan : Nat
  range : Nat
  code : Nat
  ideal : Int
  idealDen : Nat
  ends : Nat
  deriving DecidableEq, Repr

/-- A capture in progress (R179). -/
structure Capture where
  ctx : Nat
  tag : Nat
  chan : Nat
  range : Nat
  span : Bool
  value : Int
  started : Nat
  ends : Nat
  deriving DecidableEq, Repr

/-- A store write in progress (R182): the command, its opcode, the channel, the new set and the reply. -/
structure StoreWrite where
  ctx : Nat
  tag : Nat
  op : Nat
  chan : Nat
  set : Tbl Byte
  reply : List Byte
  deriving DecidableEq, Repr

/-- Calibration (R176–R185): the stored set, by differences from the factory's, and the validity marker's copy of its CRC (none:
MARK is absent); the working copy, whether it can be used, and whether the store is valid; held zeros, captures, the store
write in progress, and the chunks of each session. -/
structure CalSt where
  store : Tbl Byte
  marker : Option Word
  working : Tbl Byte
  loaded : Bool
  valid : Bool
  held : List HeldZero
  captures : List Capture
  write : Option StoreWrite
  chunks : Tbl (Tbl (Option Byte))
  deriving DecidableEq, Repr

/-! ### Orrery (spec/09) -/

/-- MSTATE (Table 9.1). -/
inductive ZoneModel where
  | disabled
  | tracking
  | suspect
  | open
  deriving DecidableEq, Repr

def ZoneModel.code : ZoneModel → Nat
  | .disabled => 0
  | .tracking => 1
  | .suspect => 2
  | .open => 3

/-- PRESENCE (Table 9.1). -/
inductive Presence where
  | vacant
  | occupied
  | latched
  deriving DecidableEq, Repr

def Presence.code : Presence → Nat
  | .vacant => 0
  | .occupied => 1
  | .latched => 2

/-- On-line fitting (R287–R290): the row θ, the matrix P, and the contributing updates and the sums of squared errors of the
fitted row and of the model in the present window. -/
structure FitSt where
  theta : List Flt
  p : List (List Flt)
  n : Nat
  sumE : Flt
  sumR : Flt
  deriving DecidableEq, Repr

/-- The 60 s transition of a zone, Φ and Γ, as it was formed last (R294). -/
structure Transition60 where
  phi : List (List Flt)
  gamma : List (List Flt)
  deriving DecidableEq, Repr

/-- A zone (Table 9.1, R277–R293). -/
structure ZoneSt where
  due : Option Nat
  model : ZoneModel
  initUntil : Option Nat
  x : List Int
  residual : Int
  inputs : List (Option (Int × Nat))
  inputHeld : Bool
  runStart : Option Nat
  runLen : Nat
  goodSince : Option Nat
  suspend : Option Nat
  fit : Option FitSt
  adopted : Option (List Int)
  fitUsed : Word
  fitAdopted : Word
  fitRms : Nat
  presence : Presence
  reason : Nat
  hold : Option Nat
  lastEvidence : Nat
  confirm : List Nat
  contacts : List (Option Bool)
  asserted : List Bool
  latchOn : Option Nat
  pirDue : List Nat
  presWritten : Nat
  leadReplies : List ((Nat × Nat × Nat) × Option Nat)
  trans : Transition60
  deriving DecidableEq, Repr

/-- A prediction that waits (R295, R296): the command to answer, or `none` for the Almanac's own request, with the check (entry,
nominal start, instant) that it is for. -/
structure Predict where
  zone : Nat
  target : Int
  heat : Bool
  horizon : Nat
  cmd : Option (Nat × Nat)
  check : Nat × Nat × Nat
  deriving DecidableEq, Repr

/-! ### Thermal governor (spec/16) -/

/-- A temperature site (R493): its latest reading in Q16.16 and the one that the last update saw, whether it is excluded, the
update at which it began to be out of range or to disagree, the update at which it last changed, and the least and the greatest
modelled rise since then. -/
structure SiteSt where
  reading : Int
  seen : Int
  bad : Bool
  outSince : Option Nat
  sameSince : Nat
  riseLo : Rat
  riseHi : Rat
  deriving DecidableEq, Repr

/-- The governor (R491–R503): when it started, the updates made, filtered powers in W, base, estimate in Q16.16, sites, WARN,
the 120 °C rise not yet re-armed, updates since the last rise of s_T without one below 115 °C, updates since the last one at
or above 115 °C, steps found and not yet taken or undone, s_T, BUDGET, the step in force, THM_STEPS, THM_PEAK, partial and full
shutdown, and the consecutive updates that meet the release conditions. -/
structure ThermalSt where
  start : Nat
  updates : Nat
  q : List Rat
  base : Rat
  est : Int
  sites : List SiteSt
  warn : Bool
  risen : Bool
  hot : Nat
  cool : Nat
  stepsUp : Nat
  stepsDown : Nat
  stepT : Nat
  budget : Nat
  step : Nat
  steps : Word
  peak : Int
  shutdown : Bool
  full : Bool
  okCount : Nat
  deriving DecidableEq, Repr

/-! ### Drover (spec/08) -/

/-- A trigger of a loop that has not been issued (R264, R269): when it fell due, and its sample reference. -/
structure Trig where
  due : Nat
  ref : Word
  deriving DecidableEq, Repr

/-- A pending evaluation (R261, R265, R266, R272): its trigger, deadline, sample reference and class, whether it is aged, and
the graph, coefficients and bank in force at its trigger. -/
structure Eval where
  due : Nat
  deadline : Nat
  ref : Word
  cls : Nat
  aged : Bool
  bank : Bool
  nodes : List Nat
  coefs : List Nat
  deriving DecidableEq, Repr

/-- A member's latest candidate in its min-select group (R263). -/
structure Candidate where
  value : Int
  stamp : Word
  quality : Half
  at_ : Nat
  deriving DecidableEq, Repr

/-- An input or a node result (R255–R257): NOVAL, value, quality, and SAT. -/
structure NodeVal where
  noval : Bool
  value : Int
  quality : Half
  sat : Bool
  deriving DecidableEq, Repr

/-- An evaluation in progress (R252, R265): its trigger's evaluation, the lane that runs it (`none`: preempted, it waits for a
free lane), the snapshot of its slots, the results so far, its state words, the PID nodes evaluated, the slot outside a SELQ
that read NOVAL, the value that its TRACK PID takes, the nodes whose first evaluation on a new bank is due, its presets, and
whether the loop has been enabled anew, so that its state words are no longer the loop's. -/
structure Running where
  eval : Eval
  lane : Option Nat
  snap : List (Nat × NodeVal)
  done : List NodeVal
  words : Tbl (List Int)
  used : List Nat
  noval : Option Nat
  track : Option Int
  bumps : List Nat
  presets : List (Nat × Int)
  orphan : Bool
  deriving DecidableEq, Repr

/-- A loop (Table 8.1, R261–R274): the next PERIODIC trigger by the transit reference, triggers, the pending evaluation and the
one in progress, the banks, the nodes whose first evaluation on a new bank is due, the graph that the state words belong to,
the state words by node, presets, counters, saturation (since when, the µs of SAT_TIME before, ALARM, whether this run has
fired E66 and when), latencies, whether the last evaluation met NOVAL, and the candidate. -/
structure LoopSt where
  enabled : Bool
  nextDue : Option Nat
  trigs : List Trig
  lastAccepted : Option Nat
  pending : Option Eval
  running : Option Running
  bank : Bool
  swap : Option Bool
  evalBank : Bool
  bumps : List Nat
  graph : List Nat
  words : Tbl (List Int)
  presets : List (Nat × Int)
  skipped : Half
  aged : Bool
  starved : Word
  satSince : Option Nat
  satBefore : Int
  alarm : Bool
  alarmTold : Bool
  alarmAt : Option Nat
  lastLat : Word
  maxLat : Word
  noval : Bool
  candidate : Option Candidate
  deriving DecidableEq, Repr

/-- A min-select group (R263): the last selected value and the member it came from. -/
structure GroupSel where
  value : Int
  winner : Option Nat
  deriving DecidableEq, Repr

/-! ### Flock fabric (spec/11) -/

/-- States of a link (Table 11.5). -/
inductive LinkPhase where
  | disabled
  | down
  | training
  | negotiating
  | identifying
  | isolated
  | up
  deriving DecidableEq, Repr

def LinkPhase.code : LinkPhase → Nat
  | .disabled => 0
  | .down => 1
  | .training => 2
  | .negotiating => 3
  | .identifying => 4
  | .isolated => 5
  | .up => 6

/-- What the module transmits on a link (Table 11.8): LINK, LSA, TIME and CTRL contents, which have no byte layout, and the
bytes of SIGNAL, PHIVEOX and transit frames, with whether the frame ends with an abort delimiter (R340). -/
inductive LinkMsg where
  | version (minVer maxVer : Nat)
  | ident (body : IdentBody)
  | hello
  | pdelay
  | lsa (ack : Bool) (body : LsaBody)
  | time (body : TimeBody)
  | addrReq (uid : Nat) (requested persisted : Option Nat)
  | addrGrant (uid addr : Nat)
  | subscribe (dst : Nat) (body : SubscribeBody)
  | accept (dst stream : Nat)
  | refuse (dst stream reason : Nat)
  | unsubscribe (dst stream : Nat)
  | frame (bytes : List Byte) (aborted : Bool)
  deriving DecidableEq, Repr

/-- A run of bytes on a link's line (R339): the instant of its first bit, its frame's place in `LinkSt.wire`, its first byte in
that frame, its bytes, and the frame's class. -/
structure LineUnit where
  start : Nat
  frame : Nat
  ofs : Nat
  len : Nat
  cls : Nat
  deriving DecidableEq, Repr

/-- A link (Tables 11.2–11.6, R372, R376): LINK_STAT's fields, whether a neighbour's signal is present, the timers of
bring-up and of an UP link, the neighbour's last TIME frame with its arrival, the one-way delay in ns, the class-0 bucket
(in 1/40 000 000 frame), the counters, the error times of the last second, a LINK_RETRAIN in progress, what has been given
to the egress, and how it goes over the line: the frames and fragments by rising instant, those that wait at the end. -/
structure LinkSt where
  phase : LinkPhase
  ver : Nat
  lvl : Nat
  iso : Nat
  signal : Bool
  peerUid : Nat
  peerNode : Option Nat
  peerPrio : Nat
  stepDue : Option Nat
  resendAt : Option Nat
  renegAt : Option Nat
  helloRx : Nat
  helloTx : Nat
  timeTx : Nat
  peerTime : Option (TimeBody × Nat)
  delay : Nat
  bucket : Nat
  bucketAt : Nat
  sent : Word
  received : Word
  hcrcErr : Word
  fcsErr : Word
  discarded : Word
  demoted : Word
  downs : Word
  upAt : Nat
  upBefore : Nat
  c0Sent : Word
  c0Demoted : Word
  c0Arrived : Word
  errors : List (Nat × Nat)
  retrain : Option (Nat × Nat × Nat)
  wire : List LinkMsg
  line : List LineUnit
  deriving DecidableEq, Repr

/-- A subscription held at this source (R364, R365): importer and stream, class, interval, rate, SRC list, the write counts
of the images last sent, the frame count, the last renewal, the shaping bucket (in 1/40 000 000 frame) and the last frame. -/
structure Subscription where
  node : Nat
  stream : Nat
  cls : Nat
  interval : Nat
  rate : Nat
  sids : List Nat
  seen : List (Option Nat)
  seq : Half
  renewed : Nat
  bucket : Nat
  bucketAt : Nat
  lastSent : Option Nat
  deriving DecidableEq, Repr

/-- A stream's running state (Tables 11.10 and 11.13, R361–R367): STATE and refusal reason, the context of a HOST stream,
LOST, COUNT, the records not written since the previous one, the record count, the write counts of the images last
delivered, the next retry or the earliest next record, the SEQ of the last frame, and the STREAM_CLOSE commands that wait. -/
structure StreamSt where
  state : Nat
  reason : Nat
  hostCtx : Option Nat
  lost : Nat
  count : Word
  missed : Nat
  seq : Half
  seen : List Nat
  timer : Option Nat
  lastSeq : Option Half
  closing : List (Nat × Nat)
  deriving DecidableEq, Repr

/-- A held LSA and when it ages out (R342). -/
structure HeldLsa where
  body : LsaBody
  ages : Nat
  deriving DecidableEq, Repr

/-- A path in the topology: total COST, egress positions, links and nodes, from its source on (R347). -/
structure FabPath where
  cost : Nat
  egress : List Nat
  links : List LsaLink
  nodes : List Nat
  deriving DecidableEq, Repr

/-- Fabric-wide state (R342–R360, R364, R369): the bellwether, the generation and the highest seen, the step count; the
module's address, whether it is confirmed, its persisted copy and the write of it that is due, with the copy before it and
the sequence number of the newer copy; held LSAs, the own sequence
number, the refresh time, unacknowledged LSAs by link and UID with the resend time; the bellwether's grants and the
requested addresses it knows; the path of each ROUTE when last computed; fabric-time synchronisation (upstream, DIST, last
frame, step count and generation last followed, LOCKED with its runs, HOLDOVER, UNSET, last offset in ns, own and counted
SEQ, first lock taken); remote sessions by context; nodes without a path, since when; PHIVEOX payloads that wait for a
path; and the subscriptions. -/
structure FabricSt where
  bwUid : Nat
  generation : Nat
  highest : Nat
  steps : Nat
  addr : Option Nat
  confirmed : Bool
  persisted : Option Nat
  persistDue : Bool
  persistedOld : Option Nat
  persistSeq : Nat
  lsas : Tbl HeldLsa
  ownSeq : Nat
  lsaDue : Nat
  acks : List (Nat × Nat × Nat)
  grants : Tbl (Option Nat)
  requests : Tbl (Option Nat)
  routePaths : Tbl (Option FabPath)
  upstream : Option Nat
  dist : Option Nat
  lastTime : Nat
  followed : Option (Nat × Nat)
  locked : Bool
  good : Nat
  bad : Nat
  holdover : Bool
  unset : Bool
  offset : Int
  timeSeq : Nat
  fanSeq : Option Nat
  firstLock : Bool
  remotes : Tbl (Option (Nat × Nat))
  noPath : Tbl (Option Nat)
  waiting : List (Nat × Nat × List Byte)
  subs : List Subscription
  deriving DecidableEq, Repr

/-! ### CAN (spec/12) -/

/-- A pending frame (R388, R389): its number in the order of becoming pending, the CAN_SEND that it belongs to (`none`: a
MAP_EVENT object, whose frame is built when it is offered), the transmit object, whether it waits for the object's exclusive
windows, the frame, its attempts, the last attempt's SOF stamp, when it was accepted, and whether the controller has
recognised the record (a record beyond the 32 pending frames stays in Q(40+4m)). -/
structure CanPend where
  num : Nat
  cmd : Option (Nat × Nat)
  obj : Nat
  excl : Bool
  frame : CanFrame
  attempts : Nat
  stamp : Word
  since : Nat
  deriving DecidableEq, Repr

/-- An attempt that has won arbitration: the frame, its object (`none`: a CAN_SEND without EXCL), whether it runs in an
exclusive window, and the cancels that wait for it (R390). -/
structure CanFlight where
  pend : CanPend
  window : Bool
  cancels : List (Nat × Nat)
  deriving DecidableEq, Repr

/-- A transmit object's running state: frames sent (SEQ), when it last became pending, when its PERIOD ends, and the write
counts of its sources last offered. -/
structure CanObjSt where
  seq : Nat
  lastPend : Option Nat
  periodDue : Option Nat
  seen : List Nat
  deriving DecidableEq, Repr

/-- A CAN controller (R382–R408): started, a CAN_STOP that waits, error state and counters, schedule level, master and
synchronisation, cycle count, the latest reference's SOF, the last aligned instant (µs) and the step count it was reckoned
with, the last window's TIME, the end of the present arbitrating window, the last S1 cause, pending frames, those that wait
in Q(40+4m), the attempt in flight, TDC_MEAS, counters, transmit objects, the last SEQ of each filter, and the frames
sent. -/
structure CanSt where
  started : Bool
  stopCmd : Option (Nat × Nat)
  err : Nat
  tec : Nat
  recv : Nat
  level : Nat
  master : Bool
  synced : Bool
  cycle : Nat
  refAt : Nat
  alignAt : Option Nat
  alignSteps : Nat
  winTime : Option Nat
  winEnd : Option Nat
  s1At : Nat
  nextNum : Nat
  pend : List CanPend
  queued : List CanPend
  flight : Option CanFlight
  tdcMeas : Nat
  sent : Word
  received : Word
  errors : Word
  busOffs : Word
  s1Causes : Word
  filtered : Word
  versionDrops : Word
  seqGaps : Word
  objs : Tbl CanObjSt
  rxSeq : Tbl (Option Nat)
  wire : List CanFrame
  deriving DecidableEq, Repr

/-! ### Plate engines (spec/13) -/

/-- A transition (R424): sequence, frames driven, target level, band, whether it belongs to a sweep, and when it was placed while it
waits for a frame boundary. -/
structure Transition where
  seq : Nat
  frame : Nat
  target : Nat
  band : Nat
  sweep : Bool
  fresh : Option Nat
  deriving DecidableEq, Repr

/-- A pending slot (R424): target level, CLEAR, FORCE, the update that placed it and its mode. -/
structure PendingTarget where
  target : Nat
  clear : Bool
  force : Bool
  mode : Nat
  update : Nat
  deriving DecidableEq, Repr

/-- A pixel but for its framebuffer target (R424): level (`none`: UNKNOWN), transition, pending slot, ledger. -/
structure Pixel where
  level : Option Nat
  trans : Option Transition
  pending : Option PendingTarget
  ledger : Int
  deriving DecidableEq, Repr

/-- Where an update comes from: a host command, a text field, or the boot clear (R430, R435, R437). -/
inductive UpdateSource where
  | host (ctx tag : Nat)
  | field (j : Nat)
  | boot
  deriving DecidableEq, Repr

/-- An update in progress (R428–R430): its number, source, region, mode, flags and clear level, the tail of Q(56+2d) when it
was fetched, whether and when the snapshot has been taken, the pixels that start at the next boundary, and the six counts. -/
structure PlateUpdate where
  num : Nat
  source : UpdateSource
  x : Nat
  y : Nat
  w : Nat
  h : Nat
  mode : Nat
  force : Bool
  clear : Option Nat
  tail : Nat
  taken : Bool
  takenAt : Nat
  todo : List (Nat × Nat)
  started : Nat
  deferred : Nat
  superseded : Nat
  unchanged : Nat
  refused : Nat
  cleared : Nat
  deriving DecidableEq, Repr

/-- What the rails do (R416). -/
inductive RailPhase where
  | off
  | rising
  | up
  | falling
  deriving DecidableEq, Repr

/-- A panel (R414–R437): rails, FAULT, the sequence step, the rails that are on in the order of Table 13.6, a PANEL_POWER in
progress (context, tag, up), a power-down that waits
for a frame boundary (with FORCE), the next frame boundary, when the rails became idle, VCOM in force, the band (`none`: OUT),
TEMP_FB, the next evaluation, pixels and framebuffer (by 2048 · row + column; unlisted framebuffer pixels hold `fill`),
updates, the next update number, discarded records, the next sweep tile and when it may start. -/
structure PanelSt where
  rails : RailPhase
  fault : Bool
  step : Nat
  on : Nat
  power : Option (Nat × Nat × Bool)
  down : Option Bool
  frameAt : Nat
  idleFrom : Nat
  vcom : Nat
  band : Option Nat
  tempFb : Bool
  bandAt : Nat
  pixels : Tbl Pixel
  fill : Nat
  frame : Tbl Nat
  updates : List PlateUpdate
  nextNum : Nat
  badRecords : Nat
  tile : Nat
  tileAt : Nat
  deriving DecidableEq, Repr

/-- A text field (R435): the text last drawn, its last render, and whether a render waits for MIN_S. -/
structure FieldSt where
  drawn : Option (List Byte)
  lastRender : Option Nat
  due : Bool
  deriving DecidableEq, Repr

/-- What the panels share: waveform tables and fonts of the image (R420, R433), the fields, and the next compositor read. -/
structure PlateSt where
  tables : Tbl (List Byte)
  fonts : Tbl (List Byte)
  fields : Tbl FieldSt
  readAt : Nat
  deriving DecidableEq, Repr

end Sys2Proof.Machine
end

