-- ==== Sys2Proof/Machine/State.lean ====
section
/-! DEFINITION. State: everything the specification gives the module, as plain data, and the state after reset.  -/

namespace Sys2Proof.Machine

/-- The module: every register, table, queue, counter, mode and pin (INVENTORY.md, "State"). -/
structure Chip where
  fuses : Fuses
  clk : Clocks
  slots : Tbl Slot
  overrides : Tbl Override
  produced : Tbl Slot
  slotWrites : Tbl Nat
  attrs : Tbl (List Byte)
  existing : Tbl Bool
  gens : Tbl Nat
  owners : Tbl Bool
  sessions : Tbl Session
  staged : Tbl (List Staged)
  lives : Tbl (List StagedLife)
  cmds : List Cmd
  remoteIn : Tbl (List (List Byte))
  events : Tbl EventSt
  queues : Tbl QueueSt
  ring : Tbl Byte
  foldS : FoldSt
  foldD : FoldSt
  host : HostSt
  mgt : MgtSt
  power : PowerSt
  log : LogSt
  counters : CounterSt
  dogs : DogSt
  firmware : FirmwareSt
  image : ImageSt
  flash : Tbl Byte
  rtc : RtcSt
  almanac : AlmanacSt
  links : Tbl LinkSt
  fabric : FabricSt
  ports : Tbl PortSt
  groups : Tbl GroupSt
  bridges : Tbl BridgeSt
  motors : Tbl MotorSt
  records : Tbl DamperRecord
  valves : Tbl ValveSt
  fans : Tbl FanSt
  sampler : SamplerSt
  cal : CalSt
  zones : Tbl ZoneSt
  predictions : List Predict
  thermal : ThermalSt
  staleWrites : Tbl SlotNote
  loops : Tbl LoopSt
  minSel : Tbl GroupSel
  streams : Tbl StreamSt
  can : Tbl CanSt
  panels : Tbl PanelSt
  plate : PlateSt
  selftest : Option (Nat × Nat × Nat)
  freeCount : Nat
  deriving DecidableEq, Repr

/-- The machine: the module, and the commands that wait for it, first in, first out. -/
structure State where
  chip : Chip
  pending : List Instr
  deriving DecidableEq, Repr

/-- Why a command stops the machine: nothing the specification describes. -/
inductive Fault where
  /-- An access outside the memories of Tables 1.1 and 1.5 (raised by MEMORY_ECC when its address lies in no memory; safe:
  the specification gives no such event). -/
  | noSuchAddress
  deriving DecidableEq, Repr

/-- Why a command is refused. -/
inductive Refusal where
  /-- No meaning yet for the command of this mnemonic (raised by Machine/Dispatch.lean only; safe). -/
  | notModelled (mnemonic : String)
  deriving DecidableEq, Repr

/-- Fuses after reset: the device of spec/02's worked exchange (DESIGN CHOICE, log entry 2). -/
def resetFuses : Fuses := ⟨0x11, 0x3F0A91C20B7E44D1⟩

/-- A fold arbiter after reset (Table 3.11). -/
def resetFold : FoldSt := ⟨0x4008, 0x7D0, 0, false, 0, 0, 0, 0, 0, 0⟩

/-- The host port after reset (Table 14.2). -/
def resetHost : HostSt := ⟨false, false, false, 0, 0, 0, 0, [], [], []⟩

/-- The management port after reset (Table 14.6). -/
def resetMgt : MgtSt := ⟨false, 0, false, false, false, false, 0, 0, false, none, none, 0, [], none⟩

/-- Supplies, reset and boot right after the always-on power-on reset (Table 15.5 step 2, Tables 15.3 and 15.8): VSYS_R at
the 6.0 V that ends it, charging begun, straps open. -/
def resetPower : PowerSt :=
  { aoOn := true, testHeld := false, vsysR := 6000, vact := 0, vbat := 0, input := 0, vactShed := true, vactOpen := false,
    vactRetry := none, hsw := .charging, hswRow := 0, hswRetry := none, hswCfg := 0x1640A, hswAuto := true, main := .reset, hold := false,
    hresetLow := false, thermalHold := false, resetAt := [], resetCause := 0x00100001, lastReset := none, bootCount := 1,
    ma := 2, strapIlim := 10, boot0 := false, boot1 := false, bank := false, debugHalt := false, refHeld := false, lateEvents := [], sramLost := true }

/-- The RTC block after a backup-domain reset (Table 10.1, R316). -/
def resetRtc : RtcSt :=
  { count := 0, presc := 0, osc := 0, valid := false, timeLost := true, trimOn := false, wrDenied := false, alarmF := false,
    wakeF := false, pwrOn := false, alarmEn := false, alarmPwr := false, wakeEn := false, wakePwr := false, btemp := 0,
    trim := 0, alm := 0, wake := 0, bkp := [], residual := 0, trimTicks := 1048576, trimMoved := 0, almMatch := none,
    wakeDue := 0, wakesSince := 0, pwrNow := false, minuteDue := false, wasReset := true, byFabric := false,
    hostView := ⟨false, false, 0, [0, 0, 0, 0, 0, 0, 0], [0, 0, 0, 0, 0]⟩,
    mgtView := ⟨false, false, 0, [0, 0, 0, 0, 0, 0, 0], [0, 0, 0, 0, 0]⟩ }

/-- The sampler after reset (R186). -/
def resetSampler : SamplerSt :=
  ⟨[], [], [], [], [0, 0, 0, 0], [0, 0, 0, 0], [], (0, 0), [0, 0, 0], [0, 0, 0], [], [], [], 25, 0⟩

/-- The calibration store and working copy: the factory's set (log entry 6). -/
def resetCal : CalSt := ⟨[], some 0xba23883e, [], true, true, [], [], none, []⟩

/-- The fabric after reset: a fabric of one without an address (R36, R343, R346). -/
def resetFabric : FabricSt :=
  { bwUid := resetFuses.uid, generation := 0, highest := 0, steps := 0, addr := none, confirmed := false, persisted := none,
    persistDue := false, persistedOld := none, persistSeq := 0, lsas := [], ownSeq := 0, lsaDue := 0, acks := [], grants := [], requests := [], routePaths := [],
    upstream := none, dist := none, lastTime := 0, followed := none, locked := false, good := 0, bad := 0, holdover := false,
    unset := false, offset := 0, timeSeq := 0, fanSeq := none, firstLock := false, remotes := [], noPath := [], waiting := [],
    subs := [] }

/-- The thermal governor after reset. -/
def resetThermal : ThermalSt :=
  { start := 0, updates := 0, q := [0, 0, 0, 0, 0], base := 0, est := 0, sites := List.replicate 4 ⟨0, 0, false, none, 0, 0, 0⟩,
    warn := false, risen := false, hot := 0, cool := 0, stepsUp := 0, stepsDown := 0, stepT := 0, budget := 4000, step := 0,
    steps := 0, peak := 0, shutdown := false, full := false, okCount := 0 }

/-- The counters of R515 after the always-on power-on reset; no boot has ended yet. -/
def resetCounters : CounterSt := ⟨0, 0, 0, 0, 0, 0, 0, 0, 0, 0, 0⟩

/-- The sheepdogs after reset: none has bitten, none armed by a heartbeat. -/
def resetDogs : DogSt := ⟨[], 0, false, false, none, 0, false, false⟩

/-- Every block of the module after the always-on power-on reset. -/
def resetChip : Chip :=
  { fuses := resetFuses, clk := ⟨0, 0, false, 0, 0, 0, 0⟩, slots := [], overrides := [], produced := [], slotWrites := [],
    attrs := [], existing := [], gens := [], owners := [], sessions := [], staged := [], lives := [], cmds := [],
    remoteIn := [], events := [], queues := [], ring := [], foldS := resetFold, foldD := resetFold,
    host := resetHost, mgt := resetMgt, power := resetPower, log := ⟨[], [], 0, [], [], none⟩,
    counters := resetCounters, dogs := resetDogs,
    firmware := ⟨.factory, .erased, ⟨0, false, false, 0, false, false⟩, ⟨0, false, false, 0, false, false⟩, none, 0, [], none, none⟩,
    image := ⟨false, false, 0, none, none, [], []⟩, flash := [], rtc := resetRtc,
    almanac := ⟨0, [], [], [], [], [], none, [], false, none⟩, links := [], fabric := resetFabric,
    ports := [], groups := [], bridges := [], motors := [], records := [], valves := [], fans := [],
    sampler := resetSampler, cal := resetCal, zones := [], predictions := [], thermal := resetThermal, staleWrites := [], loops := [], minSel := [], streams := [], can := [], panels := [], plate := ⟨[], [], [], 0⟩, selftest := none, freeCount := 0 }

/-- The machine right after reset: no command waits. -/
def State.reset : State := ⟨resetChip, []⟩

end Sys2Proof.Machine
end

