-- ==== Sys2Proof/Machine/Defaults.lean ====
section
/-! DEFINITION. What every entry of `State`'s tables reads as while nothing has written it: the reset contents that the
specification gives (Table 3.6 for queues, R557 for slots, R60 for owners, the Reset columns of the attribute tables). -/

namespace Sys2Proof.Machine

/-- A slot as R557 clears it; MAXAGE 0 until an image sets it (R481). -/
def dSlot (_ : Nat) : Slot := ⟨0, 0, 0, 0, 0, 0⟩

def dNote (_ : Nat) : SlotNote := ⟨false, []⟩

def dOverride (_ : Nat) : Override := ⟨false, false⟩

/-- Reset value of the attribute with key `handle · 2^16 + attribute number`. -/
def dAttr (v : Nat) (key : Nat) : List Byte :=
  match attrDef v (handleTy (key / 65536)) (handleInst (key / 65536)) (key % 65536) with
  | some d => d.reset
  | none => []

def dFalse (_ : Nat) : Bool := false
def dZero (_ : Nat) : Nat := 0
def dInt (_ : Nat) : Int := 0
def dByte0 (_ : Nat) : Byte := 0
def dByteFF (_ : Nat) : Byte := 0xFF
def dWord0 (_ : Nat) : Word := 0
def dHalf0 (_ : Nat) : Half := 0
def dNone {α : Type} (_ : Nat) : Option α := none
def dNil {α : Type} (_ : Nat) : List α := []
def dSession (_ : Nat) : Session := ⟨false, 0, 0⟩
def dEvent (_ : Nat) : EventSt := ⟨false, 0, 0, 0, false, false⟩
def dGovern (_ : Nat) : Govern := ⟨none, 3, 0⟩

def dInput : InputSt := ⟨0, false, 0, none, 0⟩
def dPort (_ : Nat) : PortSt :=
  ⟨none, none, false, false, false, [], 0, dInput, dInput, none, 0, [], false, none, none, [], none, none, none, 0, 0⟩

/-- The reset values of a group's and its bridges' attributes (Tables 6.1, 6.6). -/
def resetGroupSet : GroupSet :=
  ⟨0x2A, 2000, 0, 16, [0, 64, 128, 192], [0, 0, 0, 0], [0, 0, 0, 0], [512, 512, 512, 512], [512, 512, 512, 512],
    [0x1008, 0x1008, 0x1008, 0x1008]⟩

def dGroup (_ : Nat) : GroupSt :=
  { state := .disabled, cause := 0, syncLost := false, dlyFail := false, splitUpd := false, dutyClamp := false, clampCh := 0,
    boundaries := 0, active := resetGroupSet, queued := [], duty := [0, 0, 0, 0], rev := [false, false, false, false],
    chans := [], before := [], startLow := [false, false, false, false], badLines := 0, lineDue := 0, last := none, next := none, wait := none, following := false, syncNew := false, adjust := 0,
    pulseSeen := false, missed := 0, holdDue := none, haltKind := 0, haltAt := 0, safeAt := none,
    staleCh := [none, none, none, none] }

def dBridge (_ : Nat) : BridgeSt := ⟨false, [], 0, none, none, none, none⟩

def dMotor (_ : Nat) : MotorSt :=
  { known := false, count := 0, cps := 0, measured := false, lead := 0, filled := 0, lastOpening := none, intervals := [],
    lastCount := none, current := 0, band := 0, fell := false, crossedAt := 0, stallAt := 0, move := none, command := none, overriding := false, jam := false, openLoad := false,
    outcome := 0, touchStop := none, touchCount := 0, cut := false, touchTime := 0, intervalDue := false, posWritten := 0,
    faultAt := none }

def dRecord (_ : Nat) : DamperRecord := ⟨0, 0, 0, false⟩

def dValve (_ : Nat) : ValveSt := ⟨none, 0, none, none, false, 0, none, none, none, none, none⟩

def dFan (_ : Nat) : FanSt := ⟨.stopped, 0, none, 0, 0, none, 0, 0, none, 0, none, false, 0, none⟩

def dSeq (_ : Nat) : SeqSt := ⟨false, ⟨0, 0, 0, []⟩, [], 0, 0, 0, [], none, none⟩

def dZone (_ : Nat) : ZoneSt :=
  { due := none, model := .disabled, initUntil := none, x := [0], residual := 0, inputs := List.replicate 6 none,
    inputHeld := false, runStart := none, runLen := 0, goodSince := none, suspend := none, fit := none, adopted := none,
    fitUsed := 0, fitAdopted := 0, fitRms := 0, presence := .vacant, reason := 10, hold := none, lastEvidence := 0,
    confirm := [], contacts := List.replicate 8 none, asserted := List.replicate 8 false, latchOn := none, pirDue := [],
    presWritten := 0, leadReplies := [], trans := ⟨[], []⟩ }

def dLoop (_ : Nat) : LoopSt :=
  { enabled := false, nextDue := none, trigs := [], lastAccepted := none, pending := none, running := none, bank := false,
    swap := none, evalBank := false, bumps := [], graph := [], words := [], presets := [], skipped := 0, aged := false, starved := 0, satSince := none,
    satBefore := 0, alarm := false, alarmTold := false, alarmAt := none, lastLat := 0, maxLat := 0, noval := false, candidate := none }

def dGroupSel (_ : Nat) : GroupSel := ⟨0, none⟩

/-- A link after reset: DOWN (Table 11.4), with a full class-0 bucket. -/
def dLink (_ : Nat) : LinkSt :=
  { phase := .down, ver := 0, lvl := 0, iso := 0, signal := false, peerUid := 0, peerNode := none, peerPrio := 0,
    stepDue := none, resendAt := none, renegAt := none, helloRx := 0, helloTx := 0, timeTx := 0, peerTime := none,
    delay := 0, bucket := 120000000, bucketAt := 0, sent := 0, received := 0, hcrcErr := 0, fcsErr := 0, discarded := 0,
    demoted := 0, downs := 0, upAt := 0, upBefore := 0, c0Sent := 0, c0Demoted := 0, c0Arrived := 0, errors := [],
    retrain := none, wire := [], line := [] }

def dStream (_ : Nat) : StreamSt := ⟨0, 0, none, 0, 0, 0, 0, [], none, none, []⟩

/-- A CAN controller after reset: stopped (Table 12.14). -/
def dCan (_ : Nat) : CanSt :=
  { started := false, stopCmd := none, err := 0, tec := 0, recv := 0, level := 0, master := false, synced := false,
    cycle := 0, refAt := 0, alignAt := none, alignSteps := 0, winTime := none, winEnd := none, s1At := 0, nextNum := 0,
    pend := [], queued := [], flight := none, tdcMeas := 0, sent := 0, received := 0, errors := 0, busOffs := 0,
    s1Causes := 0, filtered := 0, versionDrops := 0, seqGaps := 0, objs := [], rxSeq := [], wire := [] }

def dCanObj (_ : Nat) : CanObjSt := ⟨0, none, none, []⟩

def dPixel (_ : Nat) : Pixel := ⟨none, none, none, 0⟩

/-- A panel after reset: rails OFF, band OUT, every pixel UNKNOWN (Table 13.5, R437). -/
def dPanel (_ : Nat) : PanelSt :=
  { rails := .off, fault := false, step := 0, on := 0, power := none, down := none, frameAt := 0, idleFrom := 0, vcom := 200,
    band := none, tempFb := false, bandAt := 0, pixels := [], fill := 0, frame := [], updates := [], nextNum := 0,
    badRecords := 0, tile := 0, tileAt := 0 }

/-- What a main-side reset leaves of a panel: the always-on domain takes its rails down (R416, Table 13.11). -/
def PanelSt.lost (s : PanelSt) (d : Nat) : PanelSt :=
  { dPanel d with
    rails := if s.rails == .off then .off else .falling
    on := if s.rails == .falling then s.on else min s.on 4
    step := if s.rails == .falling then s.step else 0 }

def dField (_ : Nat) : FieldSt := ⟨none, none, false⟩

/-- Entry size (as ESHIFT) and depth of queue `q` after reset (Table 3.6). -/
def resetQueueShape (q : Nat) : Nat × Nat :=
  if q < 8 then (8, 32)
  else if q < 16 then (6, 64)
  else if q < 40 then (8, 32)
  else if q < 48 then (7, 32)
  else if q < 56 then (4, 64)
  else if q < 60 then (8, 32)
  else (8, 16)

/-- Ring start of queue `q` after reset: the rings are packed in queue order from 0 (R105). -/
def resetQueueBase (q : Nat) : Nat :=
  if q < 8 then 0x2000 * q
  else if q < 16 then 0x10000 + 0x1000 * (q - 8)
  else if q < 40 then 0x18000 + 0x2000 * (q - 16)
  else if q < 48 then 0x48000 + 0x1000 * (q - 40)
  else if q < 56 then 0x50000 + 0x400 * (q - 48)
  else if q < 60 then 0x52000 + 0x2000 * (q - 56)
  else 0x5A000 + 0x1000 * (q - 60)

/-- A queue after reset (R105): enabled, empty, COAL_COUNT 1, COAL_TIME 0. -/
def dQueue (q : Nat) : QueueSt :=
  ⟨resetQueueBase q, (resetQueueShape q).2, (resetQueueShape q).1, true, 1, 0, 0, 0, 0, 0, 0, 0, false, 0, none, false, 0, []⟩

end Sys2Proof.Machine
end

