-- ==== Sys2Proof/Machine/Ops.lean ====
section
/-! DEFINITION. The named operations that every meaning shares: attributes, time, the signal table, queues, events, the
fault log, and replies. -/

namespace Sys2Proof.Machine

/-! ### Attributes -/

/-- Key of an attribute in the attribute table. -/
def attrKey (ty i a : Nat) : Nat := handle ty i * 65536 + a

/-- The active copy of an attribute (R75). -/
def Chip.attr (c : Chip) (ty i a : Nat) : List Byte := Tbl.get (dAttr c.fuses.variant) c.attrs (attrKey ty i a)

/-- The active copy of an attribute as a little-endian number. -/
def Chip.attrN (c : Chip) (ty i a : Nat) : Nat := leNat (c.attr ty i a)

/-- Make a value the active copy of an attribute. -/
def Chip.setAttr (ty i a : Nat) (v : List Byte) (c : Chip) : Chip :=
  { c with attrs := Tbl.set (dAttr c.fuses.variant) c.attrs (attrKey ty i a) v }

/-- The variant code of the fuses (R11). -/
def Chip.variant (c : Chip) : Nat := c.fuses.variant

/-- A slot field: bits [11:0] are an S-ID and bit 15 says none (R21). -/
def sidOf (n : Nat) : Option Nat := if bit n 15 then none else some (bits n 0 12)

/-! ### Time -/

/-- Ticks that trim has moved by raw tick `k` of the present interval (R307 step 4): one every floor(1 048 576 / |n|). -/
def trimMovedAt (n : Int) (k : Nat) : Nat :=
  if n = 0 then 0 else min n.natAbs (k / (1048576 / n.natAbs))

/-- Is a RTC_WAKE word one that Table 10.4 allows? -/
def wakeValid (w : Nat) : Bool :=
  bits w 17 11 == 0 &&
    (if bit w 31 then bits w 0 17 == 0 else bits w 28 3 == 0 && decide (1 ≤ bits w 0 17) && decide (bits w 0 17 ≤ 86400))

/-- Prescaler periods of the wake word, 0 where it sets none (Table 10.4). -/
def wakeTicks (w : Nat) : Nat :=
  if !wakeValid w then 0 else if bit w 31 then 32768 / 2 ^ (bits w 28 3 + 1) else bits w 0 17 * 32768

/-- The count with its fraction, in prescaler ticks (R298). -/
def RtcSt.total (r : RtcSt) : Nat := r.count.toNat * 32768 + r.presc

/-- The count with its fraction after `k` raw ticks of the 32.768 kHz resonator: less or plus the ticks that trim moves (R307). -/
def RtcSt.totalAfter (r : RtcSt) (k : Nat) : Nat :=
  let d := trimMovedAt r.trim.toInt (r.trimTicks + k) - r.trimMoved
  if 0 < r.trim.toInt then r.total + k - d else r.total + k + d

/-- Let `k` raw ticks pass (R298, R307, R310, R311): the count moves on; the armed alarm that the count reaches and each wake that falls
due take effect on flags and PWR_ON at once, and their events are left to fire; a minute boundary is noted. -/
def rtcTicks (k : Nat) (r : RtcSt) : RtcSt :=
  let old := r.total
  let prev := r.totalAfter (k - 1)
  let new := r.totalAfter k
  let p := wakeTicks r.wake.toNat
  let hit := r.alarmEn && decide (old / 32768 < r.alm.toNat) && decide (r.alm.toNat ≤ new / 32768)
  let wakes := if r.wakeEn && p != 0 then new / p - old / p else 0
  { r with
    count := BitVec.ofNat 40 (new / 32768)
    presc := new % 32768
    trimTicks := r.trimTicks + k
    trimMoved := trimMovedAt r.trim.toInt (r.trimTicks + k)
    alarmF := r.alarmF || hit
    alarmEn := r.alarmEn && !hit
    almMatch := if hit then some r.alarmPwr else r.almMatch
    wakeF := r.wakeF || wakes != 0
    wakeDue := r.wakeDue + wakes
    pwrOn := r.pwrOn || (hit && r.alarmPwr) || (wakes != 0 && r.wakePwr)
    pwrNow := (hit && r.alarmPwr && decide (prev / 32768 < r.alm.toNat)) || (wakes != 0 && r.wakePwr && decide (prev / p < new / p))
    minuteDue := r.minuteDue || decide (old / 32768 / 60 < new / 32768 / 60) }

/-- Let `dt` periods of 25 ns pass for the backup domain. -/
def rtcAdvance (dt : Nat) (r : RtcSt) : RtcSt :=
  let t := r.osc + 32768 * dt
  let r1 := rtcTicks (t / 40000000) { r with osc := t % 40000000 }
  { r1 with pwrNow := r1.pwrNow && t / 40000000 != 0 && decide (t % 40000000 < 32768) }

/-- Raw ticks, from `k` on, until the count with its fraction reaches `target` (R307): steps of half the distance. -/
def RtcSt.rawTicks (r : RtcSt) (target : Nat) : Nat → Nat → Nat
  | 0, k => k
  | fuel + 1, k =>
    if target ≤ r.totalAfter k then k else r.rawTicks target fuel (k + max 1 ((target - r.totalAfter k) / 2))

/-- One microsecond in the units of `fabAcc`. -/
def usUnits : Nat := 40000000000

/-- Units of `fabAcc` in one 25 ns period at a rate adjustment. -/
def rateUnits (k : Clocks) : Nat := (1000000000 + k.fabRate).toNat

/-- Let `dt` periods of 25 ns pass for the counts: the transit reference and fabric time run while the reference does
(R13, R28, R354). -/
def clkAdvance (dt : Nat) (k : Clocks) : Clocks :=
  let acc := k.fabAcc + dt * rateUnits k
  if k.refRun then
    { k with now := k.now + dt, transit := k.transit + dt, fabUs := k.fabUs + acc / usUnits, fabAcc := acc % usUnits }
  else { k with now := k.now + dt }

/-- Let `dt` periods of 25 ns pass. -/
def Chip.advance (dt : Nat) (c : Chip) : Chip :=
  { c with clk := clkAdvance dt c.clk, rtc := rtcAdvance dt c.rtc }

/-- Let time pass until instant `d`; nothing where it has passed. -/
def Chip.waitUntil (d : Nat) (c : Chip) : Chip := if c.clk.now < d then c.advance (d - c.clk.now) else c

/-- Is the timed island held, by a debug halt or a stopped reference (R211, R28)? -/
def Chip.islandHeld (c : Chip) : Bool := c.power.debugHalt || c.power.refHeld || !c.clk.refRun

/-- Fabric time as slots and events carry it: bits [31:0] (R354). -/
def Chip.stamp (c : Chip) : Word := BitVec.ofNat 32 c.clk.fabUs

/-- Fabric time, as a STAMP, of an instant not later than now, rounded down to 1 µs (R31, R175). -/
def Chip.stampAt (c : Chip) (t : Nat) : Word :=
  BitVec.ofNat 32 ((c.clk.fabUs * usUnits + c.clk.fabAcc - (c.clk.now - t) * rateUnits c.clk) / usUnits)

/-- How long, in 25 ns periods, fabric time takes to reach `t` µs. -/
def Chip.fabricWait (c : Chip) (t : Nat) : Nat :=
  ceilDiv (t * usUnits - (c.clk.fabUs * usUnits + c.clk.fabAcc)) (rateUnits c.clk)

/-- The transit-reference count at an instant not later than now. -/
def Chip.transitAt (c : Chip) (t : Nat) : Nat := c.clk.transit - (c.clk.now - t)

/-- Let time pass until the transit reference counts `d`; it never does while it is stopped (R28). -/
def Chip.waitTransit (d : Nat) (c : Chip) : Chip :=
  if c.clk.refRun then c.waitUntil (c.clk.now + (d - c.clk.transit)) else c

/-- Has the transit reference counted `d`, or does it run towards it? -/
def Chip.transitComes (d : Nat) (c : Chip) : Bool := c.clk.refRun || decide (d ≤ c.clk.transit)

/-- A value of no specified content (log entry 3): an argument for `Config`'s free values, new at each use. -/
def Chip.nextFree (c : Chip) : Chip := { c with freeCount := c.freeCount + 1 }

/-! ### Signal table (R35–R41) -/

def qVALID : Half := 0x0001
def qSTALE : Half := 0x0002
def qMODEL : Half := 0x0004
def qHELD : Half := 0x0008
def qREMOTE : Half := 0x0010
def qOVR : Half := 0x0020
def qUNR : Half := 0x0040
def qCALX : Half := 0x0080
def qSAT : Half := 0x0100
def qFORCED : Half := 0x0200

/-- Does a quality word carry a bit of `m`? -/
def hasQ (q m : Half) : Bool := q &&& m != 0

def Chip.slot (c : Chip) (sid : Nat) : Slot := Tbl.get dSlot c.slots sid

/-- The age of a slot, modulo 2^32 µs (R38). -/
def Chip.slotAge (c : Chip) (s : Slot) : Nat := (c.stamp - s.stamp).toNat

/-- STALE as R38 judges it on a read. -/
def Chip.isStale (c : Chip) (s : Slot) : Bool :=
  hasQ s.quality qVALID &&
    (decide (0x80000000 ≤ c.slotAge s) || (s.maxage != 0 && decide (s.maxage.toNat * 1000 < c.slotAge s)))

/-- The slot as a consumer reads it: STALE set under R38, never stored. -/
def Chip.readSlot (c : Chip) (sid : Nat) : Slot :=
  let s := c.slot sid
  if c.isStale s then { s with quality := s.quality ||| qSTALE } else s

/-- The 16 bytes of a slot (Table 1.7). -/
def slotBytes (s : Slot) : List Byte :=
  leBytes 4 s.value.toNat ++ leBytes 4 s.stamp.toNat ++ leBytes 2 s.quality.toNat ++ leBytes 2 s.producer.toNat
    ++ leBytes 2 s.seqno.toNat ++ leBytes 2 s.maxage.toNat

/-- VALID and not STALE: what every consumer needs at least (R38). -/
def Chip.slotUsable (c : Chip) (sid : Nat) : Bool :=
  let s := c.readSlot sid
  hasQ s.quality qVALID && !hasQ s.quality qSTALE

/-- A slot write triggers each enabled loop whose TRIG_SID names the slot (R264); the sample reference is the slot's STAMP, or
the present fabric time where the slot carries REMOTE (R269). -/
def Chip.slotTriggers (sid : Nat) (stamp : Word) (quality : Half) (c : Chip) : Chip :=
  { c with loops := c.loops.map (fun e =>
      if e.2.enabled && bits (c.attrN tyLoop e.1 1) 2 2 == 2 && sidOf (c.attrN tyLoop e.1 3) == some sid then
        (e.1, { e.2 with trigs := e.2.trigs ++ [⟨c.clk.now, if hasQ quality qREMOTE then c.stamp else stamp⟩] })
      else e) }

/-- Write a slot as one unit (R39): SEQNO moves on, and the write is noted for the slot's triggers and exports. -/
def Chip.writeSlot (sid : Nat) (value stamp : Word) (quality producer : Half) (c : Chip) : Chip :=
  { c with
    slots := Tbl.modify dSlot c.slots sid (fun s =>
      { s with value := value, stamp := stamp, quality := quality, producer := producer, seqno := s.seqno + 1 })
    slotWrites := Tbl.modify dZero c.slotWrites sid (· + 1)
    staleWrites := Tbl.modify dNote c.staleWrites sid (fun m =>
      { stale := c.isStale { c.slot sid with value := value, stamp := stamp, quality := quality }
        was := m.was.filter (fun (e : Nat × Word) => decide (c.clk.now < e.1 + 4)) ++ [(c.clk.now, (c.slot sid).value)] }) }.slotTriggers sid stamp quality

/-- A consumer that judges its source at every write and at checks of its own (R138, R199): usable where the slot is VALID,
was not STALE when it was written, and has not been found STALE since; `noted` is the write count at which a check last
found it STALE. -/
def Chip.sourceUsable (c : Chip) (sid : Nat) (noted : Option Nat) : Bool :=
  hasQ (c.slot sid).quality qVALID && !(Tbl.get dNote c.staleWrites sid).stale && noted != some (Tbl.get dZero c.slotWrites sid)

/-- VALUE of a slot as it stood at instant `t`, at most 100 ns ago (R205). -/
def Chip.valueAt (c : Chip) (sid t : Nat) : Word :=
  match (Tbl.get dNote c.staleWrites sid).was.find? (fun e => decide (t < e.1)) with
  | some e => e.2
  | none => (c.slot sid).value

/-- What a check of a source notes: the write count where the slot reads STALE. -/
def Chip.noteStale (c : Chip) (sid : Nat) : Option Nat :=
  if c.isStale (c.slot sid) then some (Tbl.get dZero c.slotWrites sid) else none

/-- PRODUCER of type `t`, instance `i` (R35). -/
def producerOf (t i : Nat) : Half := BitVec.ofNat 16 (t * 4096 + i % 4096)

def Chip.zone (c : Chip) (z : Nat) : ZoneSt := Tbl.get dZone c.zones z
def Chip.setZone (z : Nat) (s : ZoneSt) (c : Chip) : Chip := { c with zones := Tbl.set dZone c.zones z s }

/-- ZONE_CFG (Table 9.2). -/
def Chip.zoneCfg (c : Chip) (z : Nat) : Nat := c.attrN tyZone z 1

/-- Nodes of a zone, 1–8 (Table 9.2). -/
def Chip.zoneNodes (c : Chip) (z : Nat) : Nat := bits (c.zoneCfg z) 1 3 + 1

/-- The sensor copy y with the slot's MAXAGE (R281). -/
def Chip.zoneY (c : Chip) (z : Nat) : Slot :=
  match sidOf (c.attrN tyZone z 3) with
  | some sid => { Tbl.get dSlot c.produced sid with maxage := (c.slot sid).maxage }
  | none => dSlot 0

/-- The value of y where it is usable: VALID, without OVR and UNR, and younger than MAXAGE, which 0 turns off (R281). -/
def Chip.zoneYValue (c : Chip) (z : Nat) : Option Int :=
  let s := c.zoneY z
  if hasQ s.quality qVALID && !hasQ s.quality qOVR && !hasQ s.quality qUNR && !c.isStale s
      && (s.maxage == 0 || decide (c.slotAge s < s.maxage.toNat * 1000)) then some s.value.toInt
  else none

/-- A zone that re-initialises takes y once it is usable: every node, and MSTATE TRACKING (R282). -/
def Chip.takeY (c : Chip) (z : Nat) (s : ZoneSt) : ZoneSt :=
  match s.initUntil, c.zoneYValue z with
  | some d, some y =>
    if c.clk.now ≤ d then { s with model := .tracking, initUntil := none, x := List.replicate (c.zoneNodes z) y } else s
  | _, _ => s

/-- The zones that wait for SENSOR_SID `sid` see what its producer has written (R281, R282). -/
def Chip.zonesSee (sid : Nat) (c : Chip) : Chip :=
  { c with zones := c.zones.map (fun e =>
      if sidOf (c.attrN tyZone e.1 3) == some sid then (e.1, c.takeY e.1 e.2) else e) }

/-- The bound producer writes a slot (R41): held off while an override is in effect; the Orrery's sensor copy sees the
write either way (R281). -/
def Chip.produce (sid : Nat) (value stamp : Word) (quality producer : Half) (c : Chip) : Chip :=
  let c1 := Chip.zonesSee sid { c with produced := Tbl.modify dSlot c.produced sid (fun s =>
      { s with value := value, stamp := stamp, quality := quality, producer := producer, seqno := s.seqno + 1 }) }
  if (Tbl.get dOverride c.overrides sid).forced || (Tbl.get dOverride c.overrides sid).model then c1
  else c1.writeSlot sid value stamp quality producer

/-- The bound producer writes the present value at the present fabric time. -/
def Chip.produceNow (sid : Nat) (value : Int) (quality : Half) (t i : Nat) (c : Chip) : Chip :=
  c.produce sid (word value) c.stamp quality (producerOf t i)

/-- Write a slot that may be unconnected. -/
def Chip.produceOpt (sid : Option Nat) (value : Int) (quality : Half) (t i : Nat) (c : Chip) : Chip :=
  match sid with
  | some s => c.produceNow s value quality t i
  | none => c

/-! ### Fault log entries (R512–R514, Table 17.4) -/

/-- Table 17.4, bytes 0–29. -/
def logBody (e : LogEntry) : List Byte :=
  leBytes 4 e.seq.toNat ++ leBytes 4 e.fabric.toNat ++ leBytes 5 e.sec
    ++ [BitVec.ofNat 8 (b2n e.rtcValid + 2 * b2n e.carried + 4 * b2n e.mainDown), BitVec.ofNat 8 e.source,
        BitVec.ofNat 8 e.code]
    ++ leBytes 4 e.cause.toNat ++ leBytes 4 e.detail.toNat ++ leBytes 4 e.suppressed.toNat ++ leBytes 2 e.boot.toNat

/-- The 32 bytes of an entry. -/
def logBytes (e : LogEntry) : List Byte := logBody e ++ leBytes 2 (crc16 (logBody e))

/-! ### Queues (R100–R111) -/

def Chip.queue (c : Chip) (q : Nat) : QueueSt := Tbl.get dQueue c.queues q

def Chip.setQueue (q : Nat) (s : QueueSt) (c : Chip) : Chip := { c with queues := Tbl.set dQueue c.queues q s }

/-- Fill in entries (R101). -/
def QueueSt.fill (s : QueueSt) : Nat := (s.tail + 2 * s.depth - s.head) % (2 * s.depth)

/-- Entries that a record of `n` bytes after its record word occupies (R100). -/
def entriesFor (eshift n : Nat) : Nat := ceilDiv (4 + n) (2 ^ eshift)

/-- Bytes of a queue's ring. -/
def QueueSt.ringBytes (s : QueueSt) : Nat := s.depth * 2 ^ s.eshift

/-- Offset in the ring of entry index `i` (an index runs to 2·DEPTH − 1). -/
def QueueSt.offsetOf (s : QueueSt) (i : Nat) : Nat := i % s.depth * 2 ^ s.eshift

/-- Write bytes into a ring from entry `i` on, going on at entry 0 past its end (R100). -/
def ringWrite (s : QueueSt) (i : Nat) (bs : List Byte) (ring : Tbl Byte) : Tbl Byte :=
  let room := s.ringBytes - s.offsetOf i
  Tbl.setRun dByte0 (Tbl.setRun dByte0 ring (s.base + s.offsetOf i) (bs.take room)) s.base (bs.drop room)

/-- Read `n` bytes of a ring from entry `i` on. -/
def ringRead (s : QueueSt) (i n : Nat) (ring : Tbl Byte) : List Byte :=
  let room := s.ringBytes - s.offsetOf i
  Tbl.getRun dByte0 ring (s.base + s.offsetOf i) (min n room) ++ Tbl.getRun dByte0 ring s.base (n - room)

/-- The record word of the next record that the module writes (Table 3.4). -/
def recordWord (s : QueueSt) (len : Nat) : Nat :=
  len + (if s.loss then 0x4000 else 0) + (if s.tail < s.depth then 0x8000 else 0) + s.rseq.toNat * 65536

/-- Put one record at the tail of a queue that has room for it. -/
def QueueSt.push (s : QueueSt) (n : Nat) : QueueSt :=
  let t := (s.tail + n) % (2 * s.depth)
  let f := (t + 2 * s.depth - s.head) % (2 * s.depth)
  { s with tail := t, rseq := s.rseq + 1, loss := false, high := max s.high f }

/-- Has a queue room for `n` more entries?  A disabled queue behaves as a full one (R104). -/
def QueueSt.hasRoom (s : QueueSt) (n : Nat) : Bool := s.enable && decide (s.fill + n ≤ s.depth)

/-- Write one record of a class into a queue with room (R103), noting it for notification (R110). -/
def Chip.putRecord (q : Nat) (body : List Byte) (c : Chip) : Chip :=
  let s := c.queue q
  let c1 := { c with ring := ringWrite s s.tail (leBytes 4 (recordWord s body.length) ++ body) c.ring }
  let s1 := s.push (entriesFor s.eshift body.length)
  c1.setQueue q { s1 with
    unNotified := s1.unNotified + 1
    coalSince := match s1.coalSince with
      | some d => some d
      | none => some c.clk.transit }

/-- Count a record that a full queue could not take (Table 3.7): LOSS goes into the next record. -/
def Chip.dropRecord (q : Nat) (c : Chip) : Chip :=
  let s := c.queue q
  c.setQueue q { s with drops := s.drops + 1, loss := true }

/-- Does the notification of a queue fire (R110)? -/
def QueueSt.notifies (s : QueueSt) (cls : Nat) : Bool :=
  decide (0 < s.unNotified) && (cls == 0 || decide (s.coalCount ≤ s.unNotified))

/-- The notification has fired: nothing waits to be notified. -/
def QueueSt.notified (s : QueueSt) : QueueSt := { s with unNotified := 0, coalSince := none }

/-- Is a queue one of the management queues that notify by ALERT# (Table 3.8)? -/
def isMgtQueue (q : Nat) : Bool := decide (60 ≤ q) && decide (q < 64)

/-- Assert ALERT# (R447). -/
def Chip.assertAlert (c : Chip) : Chip := { c with mgt := { c.mgt with alertLine := true } }

/-- Write a record into Q61–Q63, or count its loss; ALERT# notifies (Tables 3.7, 3.8). -/
def Chip.mgtRecord (q cls : Nat) (body : List Byte) (c : Chip) : Chip :=
  if !c.power.main.up then c
  else if (c.queue q).hasRoom (entriesFor (c.queue q).eshift body.length) then
    let c1 := c.putRecord q body
    if (c1.queue q).notifies cls then (c1.setQueue q (c1.queue q).notified).assertAlert else c1
  else c.dropRecord q

/-! ### Events (R91–R99) -/

def Chip.event (c : Chip) (e : Nat) : EventSt := Tbl.get dEvent c.events e

def Chip.setEvent (e : Nat) (s : EventSt) (c : Chip) : Chip := { c with events := Tbl.set dEvent c.events e s }

/-- EVT_ROUTE of an event (Table 3.2). -/
def Chip.route (c : Chip) (e : Nat) : Nat := c.attrN tyEvent e 1

/-- MGT reads 1 for E112–E127 and cannot be cleared (R95). -/
def fixRoute (e r : Nat) : Nat := if 112 ≤ e && !bit r 20 then r + 0x100000 else r

def routeMasked (r : Nat) : Bool := bit r 2
def routeHirq (r : Nat) : Bool := bit r 3 && !bit r 2
def routeLine (r : Nat) : Nat := bits r 4 2
def routeQueue (r : Nat) : Bool := bit r 6 && !bit r 2
def routeDq (r : Nat) : Nat := 48 + bits r 7 3
def routeLoop (r : Nat) : Bool := bit r 10 && !bit r 2
def routeLoopNo (r : Nat) : Nat := bits r 11 9

/-- Does a firing reach the management alert status (R95)? -/
def routeMgt (e r : Nat) : Bool := decide (112 ≤ e) || (bit r 20 && !bit r 2)

/-- The delivery record's fields after its record word (Table 3.3). -/
def deliveryBody (e cls : Nat) (s : EventSt) : List Byte :=
  [BitVec.ofNat 8 e, BitVec.ofNat 8 cls] ++ leBytes 2 s.count.toNat ++ leBytes 4 s.cause.toNat ++ leBytes 4 s.stamp.toNat

/-- Set an event in the management alert status (R95) and put its record into Q62 (R450). -/
def Chip.alertEvent (e : Nat) (s : EventSt) (c : Chip) : Chip :=
  let c1 := { c with mgt := { c.mgt with alert := c.mgt.alert ||| ((1 : BitVec 128) <<< e), alertLine := true } }
  c1.mgtRecord 62 (bits (c1.route e) 0 2) (deliveryBody e (bits (c1.route e) 0 2) s)

/-- An event's state after one more firing (R91, R93).  A firing of a PENDING event counts and makes no further record due
(DEDUCED, log entry 68: R93 lets only COUNT rise); the newest firing's CAUSE stands where a chapter gives no other rule
(DESIGN CHOICE, log entry 68).  A line beside a delivery queue waits for the record (R97). -/
def EventSt.fire (s : EventSt) (cause stamp : Word) (queued : Bool) : EventSt :=
  if s.pending then { s with count := if s.count = 0xFFFF then s.count else s.count + 1, cause := cause }
  else { pending := true, count := 1, cause := cause, stamp := stamp, recordDue := queued, lineWaits := queued }

/-- An event routed to a loop triggers it where the loop is enabled and event-driven; otherwise the trigger is counted and
has no effect (R97). -/
def Chip.eventTrigger (l : Nat) (c : Chip) : Chip :=
  if (Tbl.get dLoop c.loops l).enabled && bits (c.attrN tyLoop l 1) 2 2 == 1 then
    { c with loops := Tbl.modify dLoop c.loops l (fun s => { s with trigs := s.trigs ++ [⟨c.clk.now, c.stamp⟩] }) }
  else { c with counters := { c.counters with triggersLost := c.counters.triggersLost + 1 } }

/-- CAUSE of E92 and E94 carries the occurrences since PENDING was cleared in [31:16] (Table 12.15). -/
def withOccurrences (e : Nat) (s : EventSt) : EventSt :=
  if e == 92 || e == 94 then { s with cause := (s.cause &&& 0xFFFF) ||| (BitVec.ofNat 32 s.count.toNat <<< 16) } else s

/-- One firing reaches the router while the main side is up: PENDING, COUNT, CAUSE and STAMP, the management alert status,
a delivery record to be written, a loop trigger. -/
def Chip.fireUp (e : Nat) (cause stamp : Word) (c : Chip) : Chip :=
  let r := c.route e
  let s := withOccurrences e ((c.event e).fire cause stamp (routeQueue r))
  let c1 := c.setEvent e s
  let c2 := if routeMgt e r then c1.alertEvent e s else c1
  if routeLoop r then c2.eventTrigger (routeLoopNo r) else c2

/-- One firing while the main side is down: the shepherd core sets the alert status at once and holds the event until
BOOT_DONE (R453, R463, R504). -/
def Chip.fireDown (e : Nat) (cause stamp : Word) (c : Chip) : Chip :=
  let s := (Tbl.get dEvent c.power.lateEvents e).fire cause stamp false
  let c1 := { c with power := { c.power with lateEvents := Tbl.set dEvent c.power.lateEvents e s } }
  c1.alertEvent e s

/-- An event fires, but for its fault-log entry: an event of an absent resource or a reserved one never does (R10, R92). -/
def Chip.fireBare (e : Nat) (cause : Word) (c : Chip) : Chip :=
  if eventNever c.fuses.variant e then c
  else if c.power.main.up then c.fireUp e cause c.stamp
  else c.fireDown e cause c.stamp

/-- Is every firing of the event logged (R513)? -/
def isLogged (e : Nat) : Bool :=
  e == 36 || (decide (48 ≤ e) && decide (e ≤ 57)) || e == 63 || e == 75 || e == 97 || e == 99
    || (decide (100 ≤ e) && decide (e ≤ 118)) || (decide (120 ≤ e) && decide (e ≤ 127))

/-- Write one entry: into the ring (the oldest goes when it is full), the always-on copy, Q63, and E119 (R512, R513).  While
the main side is down the shepherd core writes its copy alone. -/
def Chip.logEntry (source code : Nat) (cause detail suppressed : Word) (c : Chip) : Chip :=
  let e : LogEntry := ⟨c.log.next, c.stamp, c.rtc.count.toNat, c.rtc.valid, false, !c.power.main.up, source, code, cause,
    detail, suppressed, c.power.bootCount⟩
  let full := decide (1024 ≤ c.log.ring.length)
  let ring := if c.power.main.up then (if full then c.log.ring.drop 1 else c.log.ring) ++ [e] else c.log.ring
  let copy := (if 32 ≤ c.log.copy.length then c.log.copy.drop 1 else c.log.copy) ++ [e]
  let c1 := { c with
    log := { c.log with ring := ring, copy := copy, next := c.log.next + 1 }
    counters := if c.power.main.up && full then { c.counters with overwritten := c.counters.overwritten + 1 } else c.counters }
  (c1.mgtRecord 63 1 (logBytes e)).fireBare 119 e.seq

/-- Log a firing, at most one in any second for each event; a suppressed firing is counted for the next entry (R513). -/
def Chip.logEvent (e : Nat) (cause detail : Word) (c : Chip) : Chip :=
  let recent := match Tbl.get dNone c.log.lastAt e with
    | some t => decide (c.clk.now < t + sec 1)
    | none => false
  if recent then { c with log := { c.log with suppressed := Tbl.modify dWord0 c.log.suppressed e (· + 1) } }
  else
    let n := Tbl.get dWord0 c.log.suppressed e
    { c with log := { c.log with
      lastAt := Tbl.set dNone c.log.lastAt e (some c.clk.now)
      suppressed := Tbl.set dWord0 c.log.suppressed e 0 } }.logEntry e 0 cause detail n

/-- Fire an event and log it where R513 says so. -/
def Chip.fireLogged (e : Nat) (cause detail : Word) (c : Chip) : Chip :=
  if eventNever c.fuses.variant e then c
  else
    let c1 := c.fireBare e cause
    if isLogged e then c1.logEvent e cause detail else c1

/-- E118's CAUSE word: queue and kind (Table 17.3). -/
def queueFault (q kind : Nat) : Word := BitVec.ofNat 32 (q + 64 * kind)

/-- Records lost so far on the management queues. -/
def Chip.mgtDrops (c : Chip) (q : Nat) : Word := (c.queue q).drops

/-- E118 for queue `q` where a record was lost on it since `old` (R109); what E118's own record loses there raises no other
(DESIGN CHOICE, log entry 69). -/
def Chip.tellLost (old : Chip) (q : Nat) (c : Chip) : Chip :=
  if c.mgtDrops q != old.mgtDrops q then c.fireLogged 118 (queueFault q 2) 0 else c

/-- Fire an event: its state, routes and log entry, and E118 for each of Q62 and Q63 on which that lost a record (R109). -/
def Chip.fireWith (e : Nat) (cause detail : Word) (c : Chip) : Chip :=
  let c1 := c.fireLogged e cause detail
  let lost63 := c1.mgtDrops 63 != c.mgtDrops 63
  let c2 := Chip.tellLost c 62 c1
  if lost63 then c2.fireLogged 118 (queueFault 63 2) 0 else c2

/-- Fire an event with a CAUSE word. -/
def Chip.fire (e : Nat) (cause : Nat) (c : Chip) : Chip := c.fireWith e (BitVec.ofNat 32 cause) 0

/-- Fire an event whose CAUSE word no chapter gives (E120–E122): CAUSE is a free value (log entry 3). -/
def Chip.fireFree (e : Nat) (c : Chip) : Chip := c.nextFree.fireWith e (Config.freeWord c.freeCount) 0

/-- The floor step of a BUDGET in mW (R498): ceil((4000 − BUDGET) / 143.75). -/
def floorStep (budget : Nat) : Nat := ceilDiv (400000 - 100 * budget) 14375

/-- E123 POWER_LIMIT of a kind, with its upper half (Table 16.6). -/
def Chip.powerLimit (kind hi : Nat) (c : Chip) : Chip :=
  c.fire 123 (kind + 16 * c.thermal.step + 256 * floorStep c.thermal.budget + 65536 * (hi % 65536))

/-- One more bite of a sheepdog (R510). -/
def Chip.bite (dog : Nat) (c : Chip) : Chip :=
  { c with dogs := { c.dogs with
      bites := Tbl.modify (fun _ => (0 : Half)) c.dogs.bites dog (fun n => if n = 0xFFFF then n else n + 1) } }

/-- Clear PENDING and COUNT (R91, R96).  A record that still waits is written later all the same, with the COUNT of that moment
(DESIGN CHOICE, log entry 68: R99 loses no record). -/
def Chip.ackEvent (e : Nat) (c : Chip) : Chip :=
  c.setEvent e { c.event e with pending := false, count := 0 }

/-- Is an event's own line asserted by it (R96, R97)? -/
def Chip.assertsLine (c : Chip) (e n : Nat) : Bool :=
  let s := c.event e
  let r := c.route e
  s.pending && routeHirq r && routeLine r == n && !s.lineWaits

/-- HIRQ line `n` (R96): asserted while an unmasked event routed to it is PENDING; at high impedance while the main side
is down (R446). -/
def Chip.hirq (c : Chip) (n : Nat) : Bool :=
  c.power.main.up && (List.range 128).any (fun e => c.assertsLine e n)

/-- A pending event under a new route (R561): its record is due where it was, and where the route newly makes a queue effective;
its line waits for a record that is due where it waited, and where the route newly makes that line effective. -/
def EventSt.reroute (s : EventSt) (old new : Nat) : EventSt :=
  let due := routeQueue new && (s.recordDue || !routeQueue old || routeDq new != routeDq old)
  { s with
    recordDue := due
    lineWaits := due && (s.lineWaits || !routeHirq old || routeLine new != routeLine old) }

/-- A write of EVT_ROUTE (R94, R561): a pending firing acts on every target that the write newly makes effective, but for a
loop; E118 tells of a record that Q62 could not take (R109). -/
def Chip.writeRoute (e r : Nat) (c : Chip) : Chip :=
  let old := c.route e
  let new := fixRoute e r
  let c1 := c.setAttr tyEvent e 1 (leBytes 4 new)
  let s := c1.event e
  if s.pending then
    let s1 := s.reroute old new
    let c2 := c1.setEvent e s1
    if routeMgt e new && !routeMgt e old then Chip.tellLost c2 62 (c2.alertEvent e s1) else c2
  else c1

/-! ### Records that the module produces on other queues -/

/-- Fire a queue's notification (Table 3.8). -/
def Chip.notify (q : Nat) (c : Chip) : Chip :=
  let s := c.queue q
  let n := min s.unNotified 0xFFFF
  let c1 := c.setQueue q s.notified
  if 8 ≤ q && q < 16 then c1.fire (104 + (q - 8)) (q + n * 65536)
  else if 16 ≤ q && q < 40 then c1.fire (80 + 2 * ((q - 16) / 4)) s.note.toNat
  else if 40 ≤ q && q < 48 then c1.fire (92 + 2 * ((q - 40) / 4)) s.note.toNat
  else if isMgtQueue q then c1.assertAlert
  else c1

/-- Write a record and fire the queue's notification where R110 says so; `note` is the notification's CAUSE word. -/
def Chip.deliver (q cls : Nat) (body : List Byte) (note : Word) (c : Chip) : Chip :=
  let c0 := c.setQueue q { c.queue q with note := note }
  let c1 := c0.putRecord q body
  if (c1.queue q).notifies cls then c1.notify q else c1

/-- A record arrives on a queue of Table 3.7 of the "arriving frame is dropped" kind: written where there is room,
otherwise dropped and counted, with E118. -/
def Chip.arrive (q cls : Nat) (body : List Byte) (note : Word) (c : Chip) : Chip :=
  if (c.queue q).hasRoom (entriesFor (c.queue q).eshift body.length) then c.deliver q cls body note
  else (c.dropRecord q).fire 118 (queueFault q 2).toNat

/-! ### Commands and replies (R49–R74) -/

/-- Is a context on the management side (Table 2.1)? -/
def isMgtCtx (ctx : Nat) : Bool := ctx == 0x20

/-- Completion queue of a host or management context (R49, R450). -/
def completionQueue (ctx : Nat) : Nat := if isMgtCtx ctx then 61 else 8 + ctx

/-- Submission queue of a host or management context. -/
def submissionQueue (ctx : Nat) : Nat := if isMgtCtx ctx then 60 else ctx

def Chip.session (c : Chip) (ctx : Nat) : Session := Tbl.get dSession c.sessions ctx

/-- The commands outstanding on a context (R55). -/
def Chip.outstanding (c : Chip) (ctx : Nat) : List Cmd := c.cmds.filter (fun k => k.ctx == ctx)

def Chip.findCmd (c : Chip) (ctx tag : Nat) : Option Cmd := c.cmds.find? (fun k => k.ctx == ctx && k.tag == tag)

/-- Take a command off the outstanding list. -/
def Chip.dropCmd (ctx tag : Nat) (c : Chip) : Chip :=
  { c with cmds := c.cmds.filter (fun k => !(k.ctx == ctx && k.tag == tag)) }

/-- Change the entry of an outstanding command. -/
def Chip.setCmd (k : Cmd) (c : Chip) : Chip :=
  { c with cmds := c.cmds.map (fun x => if x.ctx == k.ctx && x.tag == k.tag then k else x) }

/-- A packet: the header of Table 2.2 with its HCRC (R54), then the payload. -/
def packet (verMaj verMin fam op tag hnd flags dl : Nat) (payload : List Byte) : List Byte :=
  let h := [BitVec.ofNat 8 verMaj, BitVec.ofNat 8 verMin, BitVec.ofNat 8 fam, BitVec.ofNat 8 op] ++ leBytes 2 tag
    ++ leBytes 2 payload.length ++ leBytes 4 hnd ++ [BitVec.ofNat 8 flags, BitVec.ofNat 8 dl]
  h ++ leBytes 2 (crc16 h) ++ payload

/-- The status block (Table 2.8). -/
def statusBlock (status errofs : Nat) : List Byte := [BitVec.ofNat 8 status, 0] ++ leBytes 2 errofs

/-- The reply packet to a command (R65, R71): REPLY set, FAMILY, OPCODE, TAG, HANDLE and CLASS echoed; a BAD_VERSION reply
carries version 2.0 and the supported range. -/
def replyPacket (k : Cmd) (status errofs : Nat) (data : List Byte) : List Byte :=
  let ver := if status == stBadVersion then protoVer 2 0 else k.ver
  let body := if status == stBadVersion then [2, 0, 3, 2] else data
  let dem := k.demoted || (k.rerun && k.flags % 4 == 0)
  packet (ver / 256) (ver % 256) k.family k.opcode k.tag k.hnd (k.flags % 4 + 0x10 + (if dem then 0x20 else 0)) k.deadlineByte
    (statusBlock status errofs ++ body)

/-- Traffic class of a command as it runs: a demoted class-0 command runs as class 1 (R83). -/
def Cmd.cls (k : Cmd) : Nat := if k.demoted then 1 else k.flags % 4

def Cmd.fence (k : Cmd) : Bool := bit k.flags 2
def Cmd.quiet (k : Cmd) : Bool := bit k.flags 3
def Cmd.ty (k : Cmd) : Nat := handleTy k.hnd
def Cmd.inst (k : Cmd) : Nat := handleInst k.hnd

end Sys2Proof.Machine
end

