-- ==== Sys2Proof/Machine/Fabric.lean ====
section
/-! DEFINITION. The Flock as every block uses it (spec/11_flock_fabric.md): the topology and its paths (R342, R347), frames and
the policing of class 0 (R336, R350), addresses (R344, R345), convergence (R343, R348), and the carriage of PHIVEOX frames
(R369, R370).  What is given to a link's egress is recorded in `LinkSt.wire`, and how it goes over the line, in fragments by
class (R339), in `LinkSt.line`. -/

namespace Sys2Proof.Machine

def Chip.link (c : Chip) (n : Nat) : LinkSt := Tbl.get dLink c.links n

def Chip.setLink (n : Nat) (s : LinkSt) (c : Chip) : Chip := { c with links := Tbl.set dLink c.links n s }

def Chip.setFabric (f : FabricSt → FabricSt) (c : Chip) : Chip := { c with fabric := f c.fabric }

def Chip.linkUp (c : Chip) (n : Nat) : Bool := linkPresent c.fuses.variant n && (c.link n).phase == LinkPhase.up

/-- The UP links, by rising number. -/
def Chip.upLinks (c : Chip) : List Nat := (List.range 6).filter c.linkUp

/-- LINK_CFG of a link. -/
def Chip.linkCfg (c : Chip) (n : Nat) : Nat := c.attrN tyLink n 1

/-- LINK_STAT (Table 11.4). -/
def Chip.linkStat (c : Chip) (n : Nat) : Nat :=
  let s := c.link n
  s.phase.code + 8 * s.ver + 32 * s.lvl + 256 * s.iso
    + (match s.peerNode with
      | some a => 65536 * a
      | none => if s.peerUid == 0 then 0 else 0x4000000)

/-! ### Frames (R336, R337) -/

/-- The header of a frame (Table 11.7). -/
def frameHeader (ty cls ttl dst src len : Nat) : List Byte :=
  let h := leBytes 7 (ty + 8 * cls + 32 * ttl + 0x400 * dst + 0x100000 * src + 0x40000000 * len)
  h ++ [BitVec.ofNat 8 (crc8 h)]

/-- A whole frame: header, payload and FCS. -/
def flockFrame (ty cls ttl dst src : Nat) (payload : List Byte) : List Byte :=
  let b := frameHeader ty cls ttl dst src payload.length ++ payload
  b ++ leBytes 4 (crc32 b)

def frameType (f : List Byte) : Nat := fld f 0 8 % 8
def frameCls (f : List Byte) : Nat := bits (fld f 0 8) 3 2
def frameTtl (f : List Byte) : Nat := bits (fld f 0 8) 5 5
def frameDst (f : List Byte) : Nat := bits (fld f 0 8) 10 10
def frameSrc (f : List Byte) : Nat := bits (fld f 0 8) 20 10

/-- The payload of a frame. -/
def framePayload (f : List Byte) : List Byte := (f.drop 8).take (bits (fld f 0 8) 30 13)

/-- The same frame with another class and TTL: HCRC and the FCS follow (R338, R350). -/
def reframe (f : List Byte) (cls ttl : Nat) : List Byte :=
  flockFrame (frameType f) cls ttl (frameDst f) (frameSrc f) (framePayload f)

/-- A bucket of 3 frames that refills at `rate` frames/s, in 1/40 000 000 frame, at instant `now`. -/
def bucketLevel (level at_ rate now : Nat) : Nat := min 120000000 (level + (now - at_) * rate)

/-- CAUSE of E(80+2n) (Table 11.15). -/
def Chip.linkCause (c : Chip) (n reason : Nat) : Nat :=
  (c.link n).phase.code + 16 * reason + 256 * ((c.link n).peerNode.getD 0)

/-- An error of a link of a kind of E(81+2n)'s bits joins those of the last second. -/
def Chip.noteError (n kind : Nat) (c : Chip) : Chip :=
  let s := c.link n
  c.setLink n { s with errors := (s.errors.filter (fun e => decide (c.clk.now < e.2 + sec 1))) ++ [(kind, c.clk.now)] }

def Chip.errorCount (c : Chip) (n kind : Nat) : Nat := ((c.link n).errors.filter (fun e => e.1 == kind)).length

/-- Fire E(81+2n) with one kind and its count in the last second. -/
def Chip.fireLinkError (n kind : Nat) (c : Chip) : Chip :=
  c.fire (81 + 2 * n) (2 ^ kind + 65536 * min 0xFFFF (c.errorCount n kind))

/-- A CRC or HCRC error counts toward ERR_THRESH; the threshold fires and the count starts again (R330, R337). -/
def Chip.crcError (n kind : Nat) (c : Chip) : Chip :=
  let c1 := c.noteError n kind
  if c.attrN tyLink n 4 ≤ c1.errorCount n kind then
    let c2 := c1.fireLinkError n kind
    c2.setLink n { c2.link n with errors := (c2.link n).errors.filter (fun e => e.1 != kind) }
  else c1

/-- A frame arrives and is discarded (R337). -/
def Chip.discard (n : Nat) (c : Chip) : Chip :=
  c.setLink n { c.link n with discarded := (c.link n).discarded + 1 }

/-! ### The line (R339) -/

/-- 25 ns periods of a byte on a link: 10 Mb/s, or 160 Mb/s (Table 11.1). -/
def byteTime (n : Nat) : Nat := if isT1L n then 32 else 2

/-- The class of a frame: LINK, LSA, TIME and CTRL frames have class 1 (Table 11.8). -/
def LinkMsg.cls : LinkMsg → Nat
  | .frame f _ => frameCls f
  | _ => 1

/-- The bytes of frame `k` of a link. -/
def LinkMsg.bytes (n k : Nat) : LinkMsg → Nat
  | .frame f _ => f.length
  | _ => Config.frameLength n k

/-- How a frame is sent: whole, or on a version-2 link, where it has more than 64 bytes and is not class 0, in fragments. -/
def lineUnits (ver k cls len : Nat) : List LineUnit :=
  if ver == 2 && cls != 0 && 64 < len then
    (List.range (ceilDiv len 64)).map (fun i => ⟨0, k, 64 * i, min 64 (len - 64 * i), cls⟩)
  else [⟨0, k, 0, len, cls⟩]

/-- Units one behind the other from an instant on. -/
def lineUp (bt : Nat) : Nat → List LineUnit → List LineUnit
  | _, [] => []
  | t, u :: us => { u with start := t } :: lineUp bt (t + u.len * bt) us

/-- A frame is given to the line: its units go before those that wait and are of a higher class number, and behind all others;
what has started is not taken back (R339). -/
def LinkSt.enqueue (n now : Nat) (m : LinkMsg) (s : LinkSt) : LinkSt :=
  let k := s.wire.length
  let started := s.line.filter (fun u => decide (u.start ≤ now))
  let waiting := s.line.filter (fun u => decide (now < u.start))
  let free := match started.getLast? with
    | some u => max now (u.start + u.len * byteTime n)
    | none => now
  let ahead := waiting.filter (fun u => decide (u.cls ≤ m.cls))
  let behind := waiting.filter (fun u => decide (m.cls < u.cls))
  { s with
    wire := s.wire ++ [m]
    line := started ++ lineUp (byteTime n) free (ahead ++ lineUnits s.ver k m.cls (m.bytes n k) ++ behind) }

/-- The frames of a line of which nothing has started at an instant. -/
def LinkSt.unsent (now : Nat) (s : LinkSt) : List LinkMsg :=
  (s.line.filter (fun u => decide (now < u.start) && u.ofs == 0)).filterMap (fun u => s.wire[u.frame]?)

/-- What has started on a line: the rest is dropped. -/
def LinkSt.cutLine (now : Nat) (s : LinkSt) : LinkSt := { s with line := s.line.filter (fun u => decide (u.start ≤ now)) }

/-- A LINK, LSA, TIME or CTRL frame leaves on a link. -/
def Chip.sendMsg (n : Nat) (m : LinkMsg) (c : Chip) : Chip :=
  let s := c.link n
  c.setLink n { s.enqueue n c.clk.now m with sent := s.sent + 1 }

/-- Send on every UP link but one. -/
def Chip.flood (except : Option Nat) (m : LinkMsg) (c : Chip) : Chip :=
  (c.upLinks.filter (fun n => some n != except)).foldl (fun c n => c.sendMsg n m) c

/-- A routed frame leaves on an egress: class 0 takes a token, or is demoted to class 1, counted and told (R350). -/
def Chip.egress (n : Nat) (f : List Byte) (aborted : Bool) (c : Chip) : Chip :=
  let s := c.link n
  if frameCls f != 0 then c.sendMsg n (.frame f aborted)
  else
    let level := bucketLevel s.bucket s.bucketAt (c.attrN tyLink n 2) c.clk.now
    if 40000000 ≤ level then
      (c.setLink n { s with bucket := level - 40000000, bucketAt := c.clk.now, c0Sent := s.c0Sent + 1 }).sendMsg n
        (.frame f aborted)
    else
      let s1 : LinkSt :=
        { s with bucket := level, bucketAt := c.clk.now, demoted := s.demoted + 1, c0Demoted := s.c0Demoted + 1 }
      (((c.setLink n s1).sendMsg n (.frame (reframe f 1 (frameTtl f)) aborted)).noteError n 2).fireLinkError n 2

/-! ### Topology and paths (R342, R343, R347) -/

/-- What the module's own LSA lists: its UP links. -/
def Chip.ownLinks (c : Chip) : List LsaLink :=
  c.upLinks.map (fun n => ⟨(c.link n).peerUid, bits (c.linkCfg n) 4 8, (c.link n).ver, !isT1L n⟩)

/-- The module's own LSA. -/
def Chip.ownLsa (c : Chip) : LsaBody :=
  ⟨c.fuses.uid, if c.fabric.confirmed then c.fabric.addr else none, c.attrN tyDevice 0 0x901, c.fabric.ownSeq, c.ownLinks⟩

/-- The LSAs of the topology by UID: the module's own and those held. -/
def Chip.topology (c : Chip) : Tbl LsaBody :=
  Tbl.insert (c.fabric.lsas.map (fun e => (e.1, e.2.body))) c.fuses.uid c.ownLsa

def lsaOf (t : Tbl LsaBody) (uid : Nat) : Option LsaBody := Tbl.get dNone (t.map (fun e => (e.1, some e.2))) uid

/-- Does node `u`'s LSA list node `v`? -/
def lsaLists (t : Tbl LsaBody) (u v : Nat) : Bool :=
  match lsaOf t u with
  | some b => b.links.any (fun l => l.peer == v)
  | none => false

/-- Lists compare position by position. -/
def listLt : List Nat → List Nat → Bool
  | [], [] => false
  | [], _ :: _ => true
  | _ :: _, [] => false
  | a :: as, b :: bs => if a == b then listLt as bs else decide (a < b)

/-- Is a path better: lower cost, then fewer hops, then the lower egress at each node (R347)? -/
def FabPath.better (a b : FabPath) : Bool :=
  if a.cost != b.cost then decide (a.cost < b.cost)
  else if a.links.length != b.links.length then decide (a.links.length < b.links.length)
  else listLt a.egress b.egress

/-- Keep the better path to a node. -/
def offerPath (t : Tbl FabPath) (uid : Nat) (p : FabPath) : Tbl FabPath :=
  match Tbl.get dNone (t.map (fun e => (e.1, some e.2))) uid with
  | some q => if p.better q then Tbl.insert t uid p else t
  | none => Tbl.insert t uid p

/-- The one-hop extensions of a path that ends at `uid`, over links that both ends list. -/
def extendPath (t : Tbl LsaBody) (uid : Nat) (p : FabPath) : List (Nat × FabPath) :=
  match lsaOf t uid with
  | none => []
  | some b =>
    let numbered := (List.range b.links.length).zip b.links
    (numbered.filter (fun e => lsaLists t e.2.peer uid)).map (fun e =>
      (e.2.peer, ⟨p.cost + e.2.cost, p.egress ++ [e.1], p.links ++ [e.2], p.nodes ++ [e.2.peer]⟩))

/-- One more hop from every node reached so far. -/
def pathRound (t : Tbl LsaBody) (ps : Tbl FabPath) : Tbl FabPath :=
  (ps.flatMap (fun e => extendPath t e.1 e.2)).foldl (fun acc e => offerPath acc e.1 e.2) ps

/-- Paths of at most `n` hops. -/
def pathRounds (t : Tbl LsaBody) : Nat → Tbl FabPath → Tbl FabPath
  | 0, ps => ps
  | n + 1, ps => pathRounds t n (pathRound t ps)

/-- The best paths from a node within 16 hops (R347). -/
def pathsFrom (t : Tbl LsaBody) (uid : Nat) : Tbl FabPath := pathRounds t 16 [(uid, ⟨0, [], [], [uid]⟩)]

def Chip.paths (c : Chip) : Tbl FabPath := pathsFrom c.topology c.fuses.uid

def pathTo (ps : Tbl FabPath) (uid : Nat) : Option FabPath := Tbl.get dNone (ps.map (fun e => (e.1, some e.2))) uid

/-- The UID that holds an address: the module itself, or the lowest UID whose LSA carries it. -/
def Chip.uidAt (c : Chip) (node : Nat) : Option Nat :=
  if c.fabric.addr == some node then some c.fuses.uid
  else (c.fabric.lsas.find? (fun e => e.2.body.node == some node)).map (·.1)

/-- Is a node address in the topology? -/
def Chip.inTopology (c : Chip) (node : Nat) : Bool := (c.uidAt node).isSome

/-- The egress link toward a node, where a path exists. -/
def Chip.nextHop (c : Chip) (node : Nat) : Option Nat :=
  match c.uidAt node with
  | none => none
  | some u =>
    match pathTo c.paths u with
    | some p => (p.egress.head?).bind (fun i => c.upLinks[i]?)
    | none => none

/-- The path from a ROUTE's PEER to this module. -/
def Chip.pathFrom (c : Chip) (peer : Nat) : Option FabPath :=
  match c.uidAt peer with
  | none => none
  | some u => pathTo (pathsFrom c.topology u) c.fuses.uid

/-- Does a path to a node exist? -/
def Chip.reaches (c : Chip) (node : Nat) : Bool := c.fabric.addr == some node || (c.nextHop node).isSome

/-! ### Addresses (R344–R346) -/

/-- The module's requested address (NODE_REQ). -/
def Chip.nodeReq (c : Chip) : Option Nat :=
  let r := c.attrN tyDevice 0 0x900
  if bit r 15 then none else some (bits r 0 10)

/-- Is an address free for a UID: no other holds it in the bellwether's table or claims it in a current LSA? -/
def Chip.addrFree (c : Chip) (uid a : Nat) : Bool :=
  !(c.fabric.grants.any (fun e => e.1 != uid && e.2 == some a))
    && !(c.fabric.lsas.any (fun e => e.1 != uid && e.2.body.node == some a))
    && (uid == c.fuses.uid || !(c.fabric.confirmed && c.fabric.addr == some a))

/-- The address to grant: requested, persisted, or the lowest free one (R344). -/
def Chip.chooseAddr (c : Chip) (uid : Nat) (requested persisted : Option Nat) : Option Nat :=
  let ok := fun (a : Option Nat) => a.filter (c.addrFree uid)
  match ok requested with
  | some a => some a
  | none => match ok persisted with
    | some a => some a
    | none => (List.range 1024).find? (c.addrFree uid)

/-- Send an LSA on a link, to be acknowledged (R342). -/
def Chip.sendLsa (b : LsaBody) (n : Nat) (c : Chip) : Chip :=
  (c.sendMsg n (.lsa false b)).setFabric (fun f => { f with
    acks := f.acks.filter (fun e => !(e.1 == n && e.2.1 == b.uid)) ++ [(n, b.uid, c.clk.now + ms 20)] })

/-- Flood the module's own LSA with the next sequence number (R342). -/
def Chip.floodOwn (c : Chip) : Chip :=
  let c1 := c.setFabric (fun f => { f with ownSeq := f.ownSeq + 1, lsaDue := c.clk.now + sec 30 })
  c1.upLinks.foldl (fun c n => c.sendLsa c.ownLsa n) c1

/-- Log a non-event fault (Table 17.5). -/
def Chip.logFault (code : Nat) (detail : Nat) (c : Chip) : Chip :=
  c.logEntry 0xFF code 0 (BitVec.ofNat 32 detail) 0

/-- The module takes a granted address (R345, R346): a confirmed address that changes was lost to a conflict. -/
def Chip.takeAddr (a : Nat) (c : Chip) : Chip :=
  let lost := c.fabric.confirmed && c.fabric.addr != some a
  let old := c.fabric.addr.getD 0
  let changed := !c.fabric.confirmed || c.fabric.addr != some a
  let c1 := c.setFabric (fun f => { f with
    addr := some a, confirmed := true, persistDue := f.persistDue || f.persisted != some a })
  let c2 := if lost then c1.logFault 2 old else c1
  if changed then c2.floodOwn else c2

/-! ### Carriage of PHIVEOX frames (R341, R369, R370) -/

/-- A record passes through a queue that the module fills and empties itself. -/
def Chip.passTx (q : Nat) (body : List Byte) (c : Chip) : Chip :=
  let c1 := c.putRecord q body
  c1.setQueue q { (c1.queue q).notified with head := (c1.queue q).tail }

/-- Send a PHIVEOX payload toward a node, or keep it until a path exists (R370).  A class-0 packet too long for a class-0
frame goes as class 1. -/
def Chip.sendPhiveox (node cls : Nat) (payload : List Byte) (c : Chip) : Chip :=
  let cls := if cls == 0 && 52 < payload.length then 1 else cls
  match c.nextHop node, c.fabric.addr with
  | some n, some a =>
    let f := flockFrame 1 cls 16 node a payload
    let q := 16 + 4 * n + (if cls == 0 then 0 else 1)
    if (c.queue q).hasRoom (entriesFor (c.queue q).eshift f.length) then (c.passTx q f).egress n f false
    else c.setFabric (fun s => { s with waiting := s.waiting ++ [(node, cls, payload)] })
  | _, _ => c.setFabric (fun s => { s with waiting := s.waiting ++ [(node, cls, payload)] })

/-- TOKEN and reserved bytes before a packet (R369). -/
def phiveoxPayload (token : Nat) (p : List Byte) : List Byte := leBytes 2 token ++ [0, 0] ++ p

/-- Carry a packet of a remote session back to its source (R369). -/
def Chip.sendRemote (ctx cls : Nat) (p : List Byte) (c : Chip) : Chip :=
  match Tbl.get dNone c.fabric.remotes ctx with
  | some (node, token) => c.sendPhiveox node cls (phiveoxPayload token p)
  | none => c

/-- Send the PHIVEOX payloads that wait and have a path now. -/
def Chip.flushWaiting (c : Chip) : Chip :=
  let w := c.fabric.waiting
  w.foldl (fun c e => c.sendPhiveox e.1 e.2.1 e.2.2) (c.setFabric (fun f => { f with waiting := [] }))

/-- The nodes whose reachability the module follows: those of bound contexts and of remote sessions (R370). -/
def Chip.followedNodes (c : Chip) : List Nat :=
  (c.host.bind.filterMap (fun e => if bit e.2.toNat 15 then some (bits e.2.toNat 0 10) else none))
    ++ (c.fabric.remotes.filterMap (fun e => e.2.map (·.1)))

/-- Note since when a node has had no path. -/
def Chip.notePath (node : Nat) (c : Chip) : Chip :=
  if c.reaches node then c.setFabric (fun f => { f with noPath := Tbl.set dNone f.noPath node none })
  else if (Tbl.get dNone c.fabric.noPath node).isSome then c
  else c.setFabric (fun f => { f with noPath := Tbl.set dNone f.noPath node (some c.clk.now) })

/-- Has a node been without a path for 30 s (R370)? -/
def Chip.lostLong (c : Chip) (node : Nat) : Bool :=
  match Tbl.get dNone c.fabric.noPath node with
  | some t => decide (t + sec 30 ≤ c.clk.now)
  | none => false

/-! ### Convergence (R343, R345, R348) -/

/-- Is node (priority, UID) `a` before `b` as bellwether? -/
def bwBefore (a b : Nat × Nat) : Bool := decide (b.1 < a.1) || (a.1 == b.1 && decide (a.2 < b.2))

/-- The bellwether of the partition: the highest BW_PRIO, then the lowest UID, among nodes within 16 hops (R343). -/
def Chip.electBw (c : Chip) : Nat :=
  let t := c.topology
  let cands := c.paths.filterMap (fun e => (lsaOf t e.1).map (fun b => (b.bwPrio, e.1)))
  (cands.foldl (fun b x => if bwBefore x b then x else b) (c.attrN tyDevice 0 0x901, c.fuses.uid)).2

/-- A module that becomes bellwether: the generation moves past every one it has seen, and its table is that of the LSAs. -/
def Chip.becomeBw (c : Chip) : Chip :=
  c.setFabric (fun f => { f with
    bwUid := c.fuses.uid, generation := f.highest + 1, highest := f.highest + 1, upstream := none, dist := some 0,
    holdover := false, unset := false,
    grants := (f.lsas.filter (fun e => e.2.body.node.isSome)).map (fun e => (e.1, e.2.body.node)) })

/-- Does `u` keep an address that `v` holds too (R345)? -/
def Chip.keepsAddr (c : Chip) (u v a : Nat) : Bool :=
  let wants := fun x => (if x == c.fuses.uid then c.nodeReq else Tbl.get dNone c.fabric.requests x) == some a
  if wants u != wants v then wants u else decide (u < v)

/-- Grant a UID its address: the module takes its own, others are told (R344). -/
def Chip.grantTo (uid : Nat) (requested persisted : Option Nat) (c : Chip) : Chip :=
  match c.chooseAddr uid requested persisted with
  | none => c
  | some a =>
    let c1 := c.setFabric (fun f => { f with grants := Tbl.set dNone f.grants uid (some a) })
    if uid == c.fuses.uid then c1.takeAddr a else c1.flood none (.addrGrant uid a)

/-- The pairs of an address conflict, as the UIDs that lose (R345). -/
def Chip.addrLosers (c : Chip) : List Nat :=
  let held := c.topology.filterMap (fun e => e.2.node.map (fun a => (e.1, a)))
  (held.filter (fun e => held.any (fun o => o.1 != e.1 && o.2 == e.2 && c.keepsAddr o.1 e.1 e.2))).map (·.1)

/-- The bellwether gives the losers of its partition's address conflicts new addresses. -/
def Chip.settleConflicts (c : Chip) : Chip :=
  if c.fabric.bwUid != c.fuses.uid then c
  else c.addrLosers.foldl (fun c u => c.grantTo u
    (if u == c.fuses.uid then c.nodeReq else Tbl.get dNone c.fabric.requests u) none) c

/-- A node without a confirmed address asks for one; the bellwether grants its own (R344). -/
def Chip.seekAddr (c : Chip) : Chip :=
  if c.fabric.confirmed then c
  else if c.fabric.bwUid == c.fuses.uid then c.grantTo c.fuses.uid c.nodeReq c.fabric.persisted
  else c.flood none (.addrReq c.fuses.uid c.nodeReq c.fabric.persisted)

/-- RT_CFG of an existing, enabled ROUTE. -/
def Chip.routeOn (c : Chip) (r : Nat) : Bool :=
  Tbl.get dFalse c.existing (handle tyRoute r) && bit (c.attrN tyRoute r 1) 0

/-- Recompute the path of every enabled ROUTE; a path through a link that has changed is told there (E(80+2n), reason 5). -/
def Chip.updateRoute (r : Nat) (c : Chip) : Chip :=
  if !c.routeOn r then c
  else
    let new := c.pathFrom (bits (c.attrN tyRoute r 1) 16 10)
    let old := Tbl.get dNone c.fabric.routePaths r
    if new == old then c
    else
      let last := fun (p : Option FabPath) => match p with
        | some p => (p.nodes.reverse.drop 1).head?
        | none => none
      let links := (List.range 6).filter (fun n => linkPresent c.fuses.variant n && (c.link n).peerUid != 0 &&
        (some (c.link n).peerUid == last new || some (c.link n).peerUid == last old))
      let c1 := c.setFabric (fun f => { f with routePaths := Tbl.set dNone f.routePaths r new })
      links.foldl (fun c n => c.fire (80 + 2 * n) (c.linkCause n 5)) c1

/-- The fabric converges after a change of a link or of the LSAs held: the bellwether, addresses, routes, and what waited for
a path. -/
def Chip.converge (c : Chip) : Chip :=
  let bw := c.electBw
  let c1 := if bw == c.fabric.bwUid && c.fabric.generation != 0 then c
    else if bw == c.fuses.uid then c.becomeBw
    else c.setFabric (fun f => { f with bwUid := bw, grants := [], dist := none })
  let c2 := c1.settleConflicts.seekAddr
  let c3 := (List.range 256).foldl (fun c r => c.updateRoute r) c2
  let c4 := c3.followedNodes.foldl (fun c n => c.notePath n) c3
  c4.flushWaiting

/-! ### Routes as attributes (R353) -/

/-- Is a link of this module in TRAINING, so that a path whose last hop it carries is not bounded? -/
def Chip.pathUnbounded (c : Chip) (p : FabPath) : Bool :=
  p.links.any (fun l => l.version != 2)
    || (match (p.nodes.reverse.drop 1).head? with
      | some u => !(c.upLinks.any (fun n => (c.link n).peerUid == u))
      | none => false)

/-- STATE of a route and its path. -/
def Chip.routeState (c : Chip) (r : Nat) : Nat × Option FabPath :=
  if !c.routeOn r then (0, none)
  else
    let cfg := c.attrN tyRoute r 1
    match c.pathFrom (bits cfg 16 10) with
    | none => (1, none)
    | some p =>
      if bits cfg 3 5 < p.links.length then (4, some p)
      else if bits cfg 1 2 == 0 && c.pathUnbounded p then (3, some p)
      else (2, some p)

/-- RT_STATUS (Table 11.9). -/
def Chip.rtStatus (c : Chip) (r : Nat) : Nat :=
  match c.routeState r with
  | (s, some p) => s + 8 * p.links.length
  | (s, none) => s

/-- The bound of R353 in units of 100 ns: 20 µs, each hop, the reception on the last link, 10 µs. -/
def pathBound (p : FabPath) : Nat :=
  let lastRx := match p.links.reverse.head? with
    | some l => if l.lvds then 32 else 512
    | none => 0
  200 + (p.links.map (fun l => if l.lvds then 200 else 2000)).sum + lastRx + 100

/-- RT_BOUND (Table 11.9). -/
def Chip.rtBound (c : Chip) (r : Nat) : Nat :=
  match c.routeState r with
  | (2, some p) => if bits (c.attrN tyRoute r 1) 1 2 == 0 then pathBound p else 0xFFFFFFFF
  | _ => 0xFFFFFFFF

/-- The address that a UID's LSA carries. -/
def Chip.addrOfUid (c : Chip) (u : Nat) : Nat :=
  if u == c.fuses.uid then c.fabric.addr.getD 0
  else match lsaOf c.topology u with
    | some b => b.node.getD 0
    | none => 0

/-- RT_PATH (Table 11.9): hop count, then up to 16 node addresses from PEER to this node. -/
def Chip.rtPath (c : Chip) (r : Nat) : List Byte :=
  match c.routeState r with
  | (_, some p) =>
    let ns := (p.nodes.take 16).map c.addrOfUid
    leBytes 2 p.links.length ++ (ns.map (leBytes 2)).flatten ++ zeros (32 - 2 * ns.length)
  | _ => zeros 34

/-! ### Streams as every block meets them (R361–R367) -/

def Chip.stream (c : Chip) (i : Nat) : StreamSt := Tbl.get dStream c.streams i

def Chip.setStream (i : Nat) (s : StreamSt) (c : Chip) : Chip := { c with streams := Tbl.set dStream c.streams i s }

/-- STR_STATUS (Table 11.10). -/
def Chip.strStatus (c : Chip) (i : Nat) : Nat :=
  let s := c.stream i
  s.state + 256 * s.reason + 65536 * min 0xFFFF s.lost

/-- The MAP entries of a stream: source and destination S-ID. -/
def Chip.streamMap (c : Chip) (i : Nat) : List (Nat × Nat) :=
  let b := c.attr tyStream i 3
  (List.range (b.length / 4)).map (fun k => (fld b (4 * k) 2 % 4096, fld b (4 * k + 2) 2 % 4096))

/-- A SIGNAL handle names a slot of this module (R59). -/
def Chip.signalLocal (c : Chip) (hnd : Nat) : Bool := bit hnd 22 || c.fabric.addr == some (bits hnd 12 10)

end Sys2Proof.Machine
end

