-- ==== Sys2Proof/Machine/Commands.lean ====
section
/-! DEFINITION. How a command runs (spec/02_phiveox_commands.md): sessions, the fetch with checks 1–8 of R69, the deadline,
the ownership check, and the writing of replies. -/

namespace Sys2Proof.Machine

/-- The silicon revision, HIF_ID.REV (R1, R2). -/
def silicon : Nat := 0x10

/-- The negotiated version that a sender's range gives (R63): the lower of its highest version and 3.2. -/
def negotiate (maxVer : Nat) : Nat := min maxVer (protoVer 3 2)

/-- Is an owner the side of a context (R60)? -/
def Chip.ownerIsMgt (c : Chip) (hnd : Nat) : Bool := Tbl.get dFalse c.owners hnd

/-- A SIGNAL handle that names a local slot names one object, whichever form it has (R59). -/
def localSignal (sid : Nat) : Nat := handle tySignal (0x400000 + sid)

/-- The same object under one handle. -/
def canonHandle (hnd : Nat) : Nat :=
  if handleTy hnd == tySignal then localSignal (bits hnd 0 12) else hnd

/-- Entries of a context's completion queue that the outstanding commands have reserved (R74). -/
def Chip.reservedOn (c : Chip) (ctx : Nat) : Nat := ((c.outstanding ctx).map (·.reserved)).sum

/-- Does a context's completion queue have `n` entries free beside those reserved? -/
def Chip.canReserve (c : Chip) (ctx n : Nat) : Bool :=
  let s := c.queue (completionQueue ctx)
  s.enable && decide (s.fill + c.reservedOn ctx + n ≤ s.depth)

/-- Is a context one of the sessions opened from other nodes (Table 2.1)? -/
def isRemoteCtx (ctx : Nat) : Bool := decide (0x10 ≤ ctx) && decide (ctx < 0x20)

/-- Write a reply to the carrier of the command's context (R49, R70).  A completion queue that has been disabled takes no
reply: it is dropped and counted, as on a full queue (R104). -/
def Chip.sendPacket (k : Cmd) (p : List Byte) (c : Chip) : Chip :=
  if isRemoteCtx k.ctx then c.sendRemote k.ctx k.cls p
  else c.arrive (completionQueue k.ctx) k.cls p 0

/-- Bank `b`: false is bank A, true bank B. -/
def FirmwareSt.body (f : FirmwareSt) (b : Bool) : BankBody := if b then f.bankB else f.bankA

/-- VERSION of a bank, as its three bytes. -/
def BankBody.version : BankBody → List Byte
  | .factory => [3, 2, 0]
  | .erased => [0, 0, 0]
  | .image _ v _ => leBytes 3 v

/-- The version of the running firmware, major, minor and patch (R63): the factory image's while the boot ROM serves. -/
def Chip.firmwareVersion (c : Chip) : List Byte :=
  match c.firmware.running with
  | some b => (c.firmware.body b).version
  | none => BankBody.factory.version

/-- Open the session that a SESSION_OPEN asks for, or answer BAD_VERSION (R62–R66).  A context opened from another node has no
submission queue whose entries could lessen MAXOUT: it is granted as requested (DESIGN CHOICE, log entry 70: R64 speaks of the
context's submission queue alone). -/
def Chip.openSession (k : Cmd) (c : Chip) : Chip × Nat × List Byte :=
  let minVer := protoVer (fld k.payload 0 1) (fld k.payload 1 1)
  let maxVer := protoVer (fld k.payload 2 1) (fld k.payload 3 1)
  let neg := negotiate maxVer
  if neg < minVer || neg < protoVer 2 0 then (c, stBadVersion, [])
  else
    let granted := if isRemoteCtx k.ctx then fld k.payload 4 2 else min (fld k.payload 4 2) (c.queue (submissionQueue k.ctx)).depth
    ({ c with sessions := Tbl.set dSession c.sessions k.ctx ⟨true, neg, granted⟩ }, stOK,
      [BitVec.ofNat 8 (neg / 256), BitVec.ofNat 8 (neg % 256)] ++ c.firmwareVersion ++
      [BitVec.ofNat 8 silicon, BitVec.ofNat 8 c.fuses.variant, BitVec.ofNat 8 k.ctx] ++ leBytes 2 granted ++ [0, 0] ++ leBytes 8 c.fuses.uid)

/-- A CAN_SEND that has not started leaves its frame in the TX queue without an owner: it is discarded there (R57, R86). -/
def CanPend.forget (ctx tag : Nat) (p : CanPend) : CanPend := if p.cmd == some (ctx, tag) then { p with cmd := none } else p

/-- A command's frames in the CAN TX queues lose it. -/
def Chip.forgetSends (ctx tag : Nat) (c : Chip) : Chip :=
  { c with can := c.can.map (fun e => (e.1, { e.2 with queued := e.2.queued.map (CanPend.forget ctx tag) })) }

/-- Write a command's final completion entry (R71, R72): QUIET suppresses a final OK alone. -/
def Chip.finalReply (k : Cmd) (status errofs : Nat) (data : List Byte) (c : Chip) : Chip :=
  let c1 := (c.dropCmd k.ctx k.tag).forgetSends k.ctx k.tag
  if k.quiet && status == stOK then c1 else c1.sendPacket k (replyPacket k status errofs data)

/-- SESSION_CLOSE closes the context's HOST streams (R367); a STREAM_CLOSE of another context that waits for one of them
completes. -/
def Chip.closeHostStreams (ctx : Nat) (c : Chip) : Chip :=
  let mine := c.streams.filter (fun e => e.2.hostCtx == some ctx)
  let c1 : Chip := { c with streams := c.streams.map (fun e =>
    if e.2.hostCtx == some ctx then (e.1, { e.2 with state := 0, hostCtx := none, timer := none, closing := [] }) else e) }
  (mine.flatMap (fun e => e.2.closing)).foldl (fun c t => match c.findCmd t.1 t.2 with
    | some k => if t.1 == ctx then c else c.finalReply k stOK noOfs []
    | none => c) c1

/-- End the session of a context: its staged set goes with it (R68), its HOST streams close (R367), and so do its calibration
chunks (R185), its firmware buffer (R519) and its image write sequence (R484). -/
def Chip.endSession (ctx : Nat) (c0 : Chip) : Chip :=
  let c := c0.closeHostStreams ctx
  let fw := c.firmware
  let img := c.image
  { c with
    sessions := Tbl.set dSession c.sessions ctx (dSession ctx)
    staged := Tbl.set dNil c.staged ctx []
    lives := Tbl.set dNil c.lives ctx []
    cal := { c.cal with chunks := Tbl.set dNil c.cal.chunks ctx [] }
    firmware := if (fw.bufferOwner.map (·.1)) == some ctx && fw.commit.isNone then { fw with buffer := [], bufferOwner := none } else fw
    image := if (img.writer.map (·.1)) == some ctx then { img with writer := none } else img }

/-- A SESSION_CLOSE, or a SESSION_OPEN on an open session, that waits for the last other command of its context (R68). -/
def Chip.closingCmd (c : Chip) (ctx : Nat) : Option Cmd :=
  match c.outstanding ctx with
  | [k] => if k.family == 0 && (k.opcode == 0 || k.opcode == 1) && k.phase == .running then some k else none
  | _ => none

/-- Complete a SESSION_CLOSE or SESSION_OPEN for which nothing is outstanding any more. -/
def Chip.completeClosing (ctx : Nat) (c : Chip) : Chip :=
  match c.closingCmd ctx with
  | none => c
  | some k =>
    let c1 := c.endSession ctx
    if k.opcode == 1 then c1.finalReply k stOK noOfs []
    else
      let r := c1.openSession k
      r.1.finalReply { k with ver := if r.2.1 == stOK then (r.1.session ctx).ver else k.ver } r.2.1
        (if r.2.1 == stOK then noOfs else 16) r.2.2

/-- A command ends with a status. -/
def Chip.finish (k : Cmd) (status errofs : Nat) (data : List Byte) (c : Chip) : Chip :=
  (c.finalReply k status errofs data).completeClosing k.ctx

/-- A long operation ends, if its command is still outstanding. -/
def Chip.finishTag (ctx tag status errofs : Nat) (data : List Byte) (c : Chip) : Chip :=
  match c.findCmd ctx tag with
  | some k => c.finish k status errofs data
  | none => c

/-- Write the interim ACCEPTED of a long operation (R72) and mark it running. -/
def Chip.accept (k : Cmd) (c : Chip) : Chip :=
  let s := c.queue (completionQueue k.ctx)
  let used := if isRemoteCtx k.ctx then 0 else entriesFor s.eshift 20
  (c.setCmd { k with phase := .running, reserved := k.reserved - used }).sendPacket k (replyPacket k stAccepted noOfs [])

/-- A long operation passes its point of no return (Table 2.14). -/
def Chip.commitCmd (ctx tag : Nat) (c : Chip) : Chip :=
  match c.findCmd ctx tag with
  | some k => c.setCmd { k with phase := .committed }
  | none => c

/-- What executing a command comes to: a final status with its data; a long operation that has started; one that has
started and ended; a command that waits for something else to complete it; or one that has not started yet. -/
inductive Res where
  | done (status errofs : Nat) (data : List Byte) (c : Chip)
  | accepted (c : Chip)
  | acceptedDone (status errofs : Nat) (data : List Byte) (c : Chip)
  | waiting (c : Chip)
  | held (c : Chip)

/-- Refused with a status at an offset: no effect. -/
def Res.err (status errofs : Nat) (c : Chip) : Res := .done status errofs [] c

/-- Completed as requested. -/
def Res.ok (c : Chip) : Res := .done stOK noOfs [] c

/-- Completed as requested, with reply data. -/
def Res.okWith (data : List Byte) (c : Chip) : Res := .done stOK noOfs data c

/-- BAD_LENGTH at the LEN field (R560). -/
def Res.badLength (c : Chip) : Res := .err stBadLength 6 c

/-- BAD_PARAM at payload offset `o`. -/
def Res.badParam (o : Nat) (c : Chip) : Res := .err stBadParam (16 + o) c

/-- Are the `n` payload bytes from `o` zero? -/
def zeroAt (p : List Byte) (o n : Nat) : Bool := (slice p o n).all (· == 0)

/-- Raise an object's generation (R77). -/
def Chip.bumpGen (hnd : Nat) (c : Chip) : Chip := { c with gens := Tbl.modify dZero c.gens hnd (· + 1) }

/-- Is a fetched command free of its FENCE: every earlier command of its context has completed (R73)? -/
def Chip.unfenced (c : Chip) (k : Cmd) : Bool :=
  !k.fence || (match c.outstanding k.ctx with
    | [] => false
    | f :: _ => f.tag == k.tag)

/-- Does a CAN_SEND wait in its TX queue for the controller to take it (R387)? -/
def Chip.sendWaits (c : Chip) (k : Cmd) : Bool :=
  c.can.any (fun e => e.2.queued.any (fun p => p.cmd == some (k.ctx, k.tag)))

/-- Does a command that could start wait in a more urgent class (R42, Table 1.9a: class 0 first, then 1, 2, 3)? -/
def Chip.classWaits (c : Chip) (k : Cmd) : Bool :=
  c.cmds.any (fun x => decide (x.cls < k.cls) && x.phase == .fetched && c.unfenced x && !c.sendWaits x)

/-- May a fetched command start: no FENCE holds it (R73) and no more urgent class waits (R42)? -/
def Chip.mayStart (c : Chip) (k : Cmd) : Bool := k.phase == .fetched && c.unfenced k && !c.classWaits k

/-- Has a command's deadline passed before it started (R57)? -/
def Chip.pastDeadline (c : Chip) (k : Cmd) : Bool :=
  match k.expiry with
  | some d => decide (d < c.clk.now)
  | none => false

/-- Management forces a group safe (R214) and resets the main side (R472) whatever the owner. -/
def mgtMayAlways (fam op : Nat) : Bool := (fam == 4 && op == 2) || (fam == 0xB && op == 2)

/-- Check 9 of R69: a command that changes its object comes from the owner's side. -/
def Chip.ownerRefuses (c : Chip) (k : Cmd) : Bool :=
  match opInfo k.family k.opcode with
  | some i => i.changes && !(isMgtCtx k.ctx && mgtMayAlways k.family k.opcode)
      && (handleTy k.hnd != tySignal || c.signalLocal k.hnd)
      && (c.ownerIsMgt (canonHandle k.hnd) != isMgtCtx k.ctx)
  | none => false

/-- Relay a command on a slot of another node (R59, R368): a packet with a TOKEN of the module's own; its reply completes it. -/
def Chip.relay (k : Cmd) (c : Chip) : Res :=
  let p := packet (k.ver / 256) (k.ver % 256) k.family k.opcode k.tag k.hnd (k.flags % 4) k.deadlineByte k.payload
  .waiting (c.sendPhiveox (bits k.hnd 12 10) k.cls (phiveoxPayload (0xFF00 + k.ctx) p))

/-- Does a command name a signal slot of another node (R59)? -/
def Chip.elsewhere (c : Chip) (k : Cmd) : Bool := handleTy k.hnd == tySignal && !c.signalLocal k.hnd

/-- Execute the fetched command `tag` of context `ctx`: nothing where there is none of this opcode that may start;
TIMEOUT where its deadline has passed; NOT_OWNER under check 9; a command on another node's slot is relayed (R59); otherwise
what `body` says. -/
def Chip.runCmd (fam op : Nat) (body : Cmd → Chip → Res) (ctx tag : Nat) (c : Chip) : Chip :=
  if !c.power.main.up then c
  else
    match c.findCmd ctx tag with
    | none => c
    | some k =>
      if !(k.family == fam && k.opcode == op && c.mayStart k) then c
      else if c.pastDeadline k then c.finish k stTimeout noOfs []
      else if c.ownerRefuses k then c.finish k stNotOwner 8 []
      else
        match if c.elsewhere k then c.relay k else body k c with
        | .done st o data c1 => c1.finish k st o data
        | .accepted c1 => c1.accept k
        | .acceptedDone st o data c1 => (c1.accept k).finishTag ctx tag st o data
        | .waiting c1 => c1.setCmd { k with phase := .running }
        | .held c1 => c1

/-! ### The fetch (COMMAND_FETCH) -/

/-- The commands that the boot ROM serves when both firmware banks fail (R477). -/
def romServes (fam op : Nat) : Bool :=
  fam == 0 || (fam == 0xC && (op == 0 || op == 1 || op == 2 || op == 6))

/-- Does the object a command names exist, as far as Table 2.4 and the existing instances go (check 7 of R69, R556)? -/
def Chip.objectKnown (c : Chip) (ctx fam op hnd : Nat) : Bool :=
  let ty := handleTy hnd
  let i := handleInst hnd
  if ty == tySignal then !bit hnd 23 && (c.signalLocal hnd || c.inTopology (bits hnd 12 10))
  else if fam == 7 && op == 7 then i == 0
  else if !decide (i < instCount ty) then false
  else if isCreatable ty then
    if fam == 1 && (op == 5 || op == 6) then true
    else
      let staged := (Tbl.get dNil c.lives ctx).any (fun l => l.hnd == hnd && l.create)
      if fam == 1 && op == 2 && staged then true
      else Tbl.get dFalse c.existing hnd && !(c.lives.any (fun e => e.2.any (fun l => l.hnd == hnd && l.create)))
  else true

/-- The packets of a context's submission queue that have been rung and not fetched (R55). -/
def Chip.rungOn (c : Chip) (ctx : Nat) : List Rung := (c.queue (submissionQueue ctx)).rung

/-- Class-0 commands outstanding on a context, from their doorbells on, but for demoted ones (R55, R83). -/
def Chip.class0On (c : Chip) (ctx : Nat) : Nat :=
  ((c.outstanding ctx).filter (fun k => k.flags % 4 == 0 && !k.demoted)).length
    + (if isRemoteCtx ctx then 0 else ((c.rungOn ctx).filter (fun r => r.class0 && !r.demoted)).length)

/-- Class-0 commands outstanding on the module. -/
def Chip.class0All (c : Chip) : Nat :=
  (c.cmds.filter (fun k => k.flags % 4 == 0 && !k.demoted)).length
    + ((0x20 :: List.range 8).map (fun ctx => ((c.rungOn ctx).filter (fun r => r.class0 && !r.demoted)).length)).sum

/-- Is a class-0 command that comes now beyond the limits of R83? -/
def Chip.overClass0 (c : Chip) (ctx : Nat) : Bool := decide (4 ≤ c.class0On ctx) || decide (8 ≤ c.class0All)

/-- What the doorbell made of the packet that is about to be fetched: its record ends at `upTo`. -/
def Chip.rungAt (c : Chip) (ctx upTo : Nat) : Option Rung := (c.rungOn ctx).find? (fun r => r.upTo == upTo)

/-- Is a HOST stream open on a context (R367)? -/
def Chip.hostStreamOn (c : Chip) (ctx : Nat) : Bool := c.streams.any (fun e => e.2.hostCtx == some ctx && e.2.state != 0)

/-- Checks 1 to 8 of R69 on a received packet: the failing status and ERROFS, or none.  They are judged when the packet is
fetched, whatever its FENCE (DESIGN CHOICE, log entry 71: R73 has a fenced command start later and does not say when it is
checked).  A TAG is in use (R55) where a fetched command carries it, or one that was outstanding at the doorbell. -/
def Chip.acceptance (c : Chip) (ctx rlen : Nat) (h : List Byte) (rung : Option Rung) : Option (Nat × Nat) :=
  let ver := protoVer (fld h 0 1) (fld h 1 1)
  let fam := fld h 2 1
  let op := fld h 3 1
  let tag := fld h 4 2
  let len := fld h 6 2
  let hnd := fld h 8 4
  let fl := fld h 12 1
  let dl := fld h 13 1
  let s := c.session ctx
  let isOpen := fam == 0 && op == 0
  let ruling := if s.opened && !isOpen then s.ver else ver
  if crc16 (h.take 14) != fld h 14 2 then some (stBadCrc, 14)
  else if ver < protoVer 2 0 || protoVer 3 2 < ver || (s.opened && !isOpen && ver != s.ver) then some (stBadVersion, 0)
  else if 4080 < len || rlen != 16 + len then some (stBadLength, 6)
  else if !s.opened && !isOpen then some (stBadOpcode, 2)
  else if c.firmware.running == none && !(romServes fam op && (ctx == 0 || isMgtCtx ctx)) then some (stBadOpcode, 2)
  else match opInfo fam op with
    | none => some (stBadOpcode, 2)
    | some i =>
      if ruling < i.since then some (stBadOpcode, 2)
      else if bits fl 4 4 != 0 || (bit fl 2 && ruling < protoVer 3 1) || (fl % 4 == 0 && !i.c0) then some (stBadParam, 12)
      else if protoVer 3 0 ≤ ruling && ((fl % 4 == 0 && dl != 0xFF) || (26 < dl && dl < 0xFF)) then some (stBadParam, 13)
      else if (c.findCmd ctx tag).isSome || (rung.map (·.dup)).getD false || (tag == 0xFFFF && c.hostStreamOn ctx) then some (stBadParam, 4)
      else if handleTy hnd == 0 || 0x17 < handleTy hnd || !(i.types == [] || i.types.contains (handleTy hnd))
          || !c.objectKnown ctx fam op hnd then some (stBadObject, 8)
      else if !objPresent c.fuses.variant (handleTy hnd) (handleInst hnd) then some (stFusedOff, 8)
      else none

/-- When a command's deadline passes (R56): 2^e µs after the doorbell, or the class default; byte ignored below 3.0. -/
def deadlineOf (ver cls dl now : Nat) : Option Nat :=
  if protoVer 3 0 ≤ ver && dl ≤ 26 then some (now + us (2 ^ dl))
  else match cls with
    | 1 => some (now + us 16384)
    | 2 => some (now + us 1048576)
    | _ => none

/-- The command that a packet spells: its deadline counts from its doorbell (R56), and what was outstanding then demotes it
(R83; DEDUCED, log entry 72); a demoted command runs as class 1, with that class's default deadline.  A packet from another
node has no doorbell: both are judged at its fetch. -/
def Chip.cmdOf (c : Chip) (ctx : Nat) (h payload : List Byte) (rung : Option Rung) : Cmd :=
  let fl := fld h 12 1
  let ver := protoVer (fld h 0 1) (fld h 1 1)
  let demote := fl % 4 == 0 && (match rung with
    | some r => r.demoted
    | none => c.overClass0 ctx)
  { ctx := ctx, tag := fld h 4 2, ver := ver, family := fld h 2 1, opcode := fld h 3 1, hnd := fld h 8 4, flags := fl,
    deadlineByte := fld h 13 1, payload := payload, phase := .fetched,
    expiry := deadlineOf ver (if demote then 1 else fl % 4) (fld h 13 1) ((rung.map (·.since)).getD c.clk.now),
    demoted := demote, reserved := 0, rerun := false }

/-- Completion entries that a command's longest reply needs (R106). -/
def Chip.replyEntries (c : Chip) (k : Cmd) : Nat :=
  entriesFor (c.queue (completionQueue k.ctx)).eshift
    (16 + 4 + max 4 (longestReply c.fuses.variant k.family k.opcode k.hnd k.payload))

/-- Completion entries to reserve for a command (R74, R106): its longest reply, and the interim ACCEPTED of a long one. -/
def Chip.reserveFor (c : Chip) (k : Cmd) : Nat :=
  let long := match opInfo k.family k.opcode with
    | some i => i.long
    | none => false
  c.replyEntries k + (if long then entriesFor (c.queue (completionQueue k.ctx)).eshift 20 else 0)

/-- A packet of a context is checked (R69, checks 1–8) and either answered or made an outstanding command; `none` where its
completion entries are not free, so that it is not fetched yet (R74).  A reply and an interim ACCEPTED that together exceed the
ring reserve all of it: R106 refuses where the reply alone does. -/
def Chip.takePacket (ctx rlen : Nat) (bs : List Byte) (rung : Option Rung) (c : Chip) : Option Chip :=
  let h := bs.take 16
  let k := c.cmdOf ctx h (bs.drop 16) rung
  match c.acceptance ctx rlen h rung with
  | some (st, o) =>
    if isRemoteCtx ctx || c.canReserve ctx (entriesFor (c.queue (completionQueue ctx)).eshift 24) then
      let k1 := { k with demoted := false }
      some (if st == stBadCrc then
          c.sendPacket k1 (packet (k.ver / 256) (k.ver % 256) k.family k.opcode k.tag k.hnd ((k.flags / 32) * 32 + k.flags % 16 + 16)
            k.deadlineByte (statusBlock st o))
        else c.sendPacket k1 (replyPacket k1 st o []))
    else none
  | none =>
    let depth := (c.queue (completionQueue ctx)).depth
    let n := min (c.reserveFor k) depth
    let c1 := if k.demoted then { c with counters := { c.counters with demoted := c.counters.demoted + 1 } } else c
    if isRemoteCtx ctx then some { c1 with cmds := c1.cmds ++ [k] }
    else if depth < c.replyEntries k then
      if c.canReserve ctx (entriesFor (c.queue (completionQueue ctx)).eshift 24) then
        some (c1.sendPacket k (replyPacket k stNoResource noOfs []))
      else none
    else if c.canReserve ctx n then some { c1 with cmds := c1.cmds ++ [{ k with reserved := n }] }
    else none

/-- How many commands a context may have outstanding (R64): MAXOUT, or one while no session is open. -/
def Chip.mayFetch (c : Chip) (ctx : Nat) : Bool :=
  let s := c.session ctx
  decide ((c.outstanding ctx).length < (if s.opened then s.maxout else 1))

/-- Is a host context bound to another node, so that its packets go there (R369, R444)? -/
def Chip.boundNode (c : Chip) (ctx : Nat) : Option Nat :=
  if ctx < 8 then
    let b := (Tbl.get dWord0 c.host.bind ctx).toNat
    if bit b 15 then some (bits b 0 10) else none
  else none

/-- Distance from one index to another round the ring of indices. -/
def idxDist (s : QueueSt) (a b : Nat) : Nat := (b + 2 * s.depth - a) % (2 * s.depth)

/-- Take the record at the head of a queue that the module consumes; what its doorbell noted goes with it. -/
def QueueSt.pop (s : QueueSt) (n : Nat) : QueueSt :=
  { s with head := (s.head + n) % (2 * s.depth), rung := s.rung.filter (fun r => decide (n < idxDist s s.head r.upTo)) }

/-- The packets that a doorbell announces, from entry `i` over `n` entries: each is outstanding from now on (R55, R56, R83). -/
def Chip.ringUp (ctx : Nat) : Nat → Nat → Nat → Chip → Chip
  | 0, _, _, c => c
  | fuel + 1, i, n, c =>
    let q := submissionQueue ctx
    let s := c.queue q
    let h := (ringRead s i 20 c.ring).drop 4
    let e := entriesFor s.eshift (leNat (ringRead s i 4 c.ring) % 8192)
    let upTo := (i + e) % (2 * s.depth)
    let class0 := fld h 12 1 % 4 == 0
    let r : Rung := ⟨upTo, c.clk.now, fld h 4 2, class0,
      (c.findCmd ctx (fld h 4 2)).isSome || s.rung.any (fun x => x.tag == fld h 4 2), class0 && c.overClass0 ctx⟩
    if n == 0 || n < e then c else Chip.ringUp ctx fuel upTo (n - e) (c.setQueue q { s with rung := s.rung ++ [r] })

/-- The tail of a submission queue moves to `idx`: packets that it no longer covers are forgotten, new ones are rung. -/
def Chip.rungTo (ctx idx : Nat) (c : Chip) : Chip :=
  let q := submissionQueue ctx
  let s := c.queue q
  let new := idxDist s s.head idx
  let c1 := c.setQueue q { s with
    tail := idx, high := max s.high new, rung := s.rung.filter (fun r => decide (idxDist s s.head r.upTo ≤ new)) }
  if new ≤ s.fill then c1 else c1.ringUp ctx s.depth s.tail (new - s.fill)

/-- SESSION_CLOSE on a bound context whose node has been unreachable for 30 s: every outstanding command ends ABORTED, and
the close completes (R370). -/
def Chip.closeUnreachable (k : Cmd) (c : Chip) : Chip :=
  let c1 := (c.outstanding k.ctx).foldl (fun c o => c.finalReply o stAborted noOfs []) c
  (c1.endSession k.ctx).finalReply k stOK noOfs []

/-- A packet of a bound context goes to its node (R369), once its completion entries are free (R104); the command stays
outstanding here until its reply returns, but for a QUIET one, which may have none. -/
def Chip.carry (k : Cmd) (node : Nat) (bs : List Byte) (c : Chip) : Option Chip :=
  let n := min (c.reserveFor k) (c.queue (completionQueue k.ctx)).depth
  if k.family == 0 && k.opcode == 1 && c.lostLong node then
    if c.canReserve k.ctx 1 then some (c.closeUnreachable k) else none
  else if !c.canReserve k.ctx n then none
  else if k.quiet then some (c.sendPhiveox node (k.flags % 4) (phiveoxPayload k.ctx bs))
  else some ({ c with cmds := c.cmds ++ [{ k with phase := .committed, reserved := n, demoted := false, expiry := none }] }.sendPhiveox
    node (k.flags % 4) (phiveoxPayload k.ctx bs))

/-- COMMAND_FETCH: take the next packet of a context (R64, R69, R73, R74, R83, R106); a packet of a bound context goes to its
node (R369). -/
def Chip.fetch (ctx : Nat) (c : Chip) : Chip :=
  if !c.power.main.up then c
  else if isRemoteCtx ctx then
    match Tbl.get dNil c.remoteIn ctx with
    | [] => c
    | p :: rest =>
      if !c.mayFetch ctx then c
      else match c.takePacket ctx p.length p none with
        | some c1 => { c1 with remoteIn := Tbl.set dNil c1.remoteIn ctx rest }
        | none => c
  else if !(decide (ctx < 8) || isMgtCtx ctx) then c
  else
    let q := submissionQueue ctx
    let s := c.queue q
    if !s.enable || s.fill == 0 || !c.mayFetch ctx then c
    else
      let rlen := leNat (ringRead s s.head 4 c.ring) % 8192
      let bs := (ringRead s s.head (4 + max 16 rlen) c.ring).drop 4
      let rung := c.rungAt ctx ((s.head + entriesFor s.eshift rlen) % (2 * s.depth))
      let taken := match c.boundNode ctx with
        | some node => c.carry (c.cmdOf ctx (bs.take 16) (bs.drop 16) rung) node bs
        | none => c.takePacket ctx rlen bs rung
      match taken with
      | some c1 => c1.setQueue q ((c1.queue q).pop (min s.fill (entriesFor s.eshift rlen)))
      | none => c

/-- DEADLINE_EXPIRY: the deadline of a command that has not started passes (R57). -/
def Chip.expire (ctx tag : Nat) (c : Chip) : Chip :=
  match c.findCmd ctx tag with
  | none => c
  | some k =>
    match k.phase, k.expiry with
    | .fetched, some d => (c.waitUntil d).finish k stTimeout noOfs []
    | _, _ => c

/-- COMMAND_FETCH (R69). -/
def execCommandFetch (ctx : Nat) (s : State) : Host.Outcome State Fault Refusal :=
  .next { s with chip := s.chip.fetch ctx }

/-- DEADLINE_EXPIRY (R57). -/
def execDeadlineExpiry (ctx tag : Nat) (s : State) : Host.Outcome State Fault Refusal :=
  .next { s with chip := s.chip.expire ctx tag }

end Sys2Proof.Machine
end

