-- ==== Sys2Proof/Machine/Ports.lean ====
section
/-! DEFINITION. Paddock ports (spec/04_paddock_ports.md): modes, port states, faults, outputs that follow a signal, digital
inputs, and the choice of ports to shed. -/

namespace Sys2Proof.Machine

/-! ### Modes and states (Tables 4.1, 4.5, 4.9) -/

def mOff : Nat := 0x00
def mVin : Nat := 0x01
def mVinBipolar : Nat := 0x02
def mIin : Nat := 0x03
def mRin : Nat := 0x04
def mCin : Nat := 0x05
def mPyro : Nat := 0x06
def mDin : Nat := 0x07
def mVout : Nat := 0x08
def mOdout : Nat := 0x09
def mHbridge : Nat := 0x0A
def mFan : Nat := 0x0B
def mSbus : Nat := 0x0C

def Chip.port (c : Chip) (n : Nat) : PortSt := Tbl.get dPort c.ports n

def Chip.setPort (n : Nat) (s : PortSt) (c : Chip) : Chip := { c with ports := Tbl.set dPort c.ports n s }

/-- PORT_CFG (Table 4.5). -/
def Chip.portCfg (c : Chip) (n : Nat) : Nat := c.attrN tyPort n 1

/-- MODE of a port. -/
def Chip.portMode (c : Chip) (n : Nat) : Nat := bits (c.portCfg n) 0 5

/-- VACT current that a port's settings declare, in mA (R149). -/
def Chip.vactDraw (c : Chip) (n : Nat) : Nat :=
  if c.portMode n == mHbridge then c.attrN tyPort n 5
  else if c.portMode n == mIin && bit (c.portCfg n) 6 then 30
  else 0

/-- Does a port draw VACT current: HBRIDGE, or IIN with LOOP_PWR (R149, R459)? -/
def Chip.usesVact (c : Chip) (n : Nat) : Bool :=
  c.portMode n == mHbridge || (c.portMode n == mIin && bit (c.portCfg n) 6)

/-- Is a port shed: from the VACT total (R150), or for want of VACT (R459)? -/
def Chip.portShed (c : Chip) (n : Nat) : Bool :=
  c.usesVact n && ((c.port n).shed || c.power.vactShed || c.power.vactOpen)

/-- STATE of a port: the highest state whose condition holds (R146, Table 4.9). -/
def Chip.portState (c : Chip) (n : Nat) : Nat :=
  let s := c.port n
  if s.latched then 5
  else if s.outside then 4
  else if c.portShed n then 3
  else if s.retry.isSome then 2
  else if s.settling.isSome then 1
  else if c.portMode n == mOff then 0
  else 6

/-- Is a port ACTIVE?  A port drives its outputs only then (R146); while the main side is down every port is OFF (R147). -/
def Chip.portActive (c : Chip) (n : Nat) : Bool := c.portState n == 6

/-- RETRIES: the retry faults of the current 60 s window (Table 4.4). -/
def Chip.portRetries (c : Chip) (n : Nat) : Nat :=
  ((c.port n).faultTimes.filter (fun t => decide (c.clk.now ≤ t + sec 60))).length

/-- PORT_STATUS (Table 4.4). -/
def Chip.portStatus (c : Chip) (n : Nat) : Nat := c.portState n + min 255 (c.portRetries n) * 256

/-- The bits of Table 4.8 that PORT_FAULT keeps: all but EDGE_A, EDGE_B and MOTION (R144). -/
def keptFaults : Word := 0xE3FFF

/-- Bits of Table 4.8 become set on port `n` (R144): PORT_FAULT keeps them, and E(n) fires with the OR of the bits since
PENDING was last cleared and the state. -/
def Chip.portCause (n bits : Nat) (c : Chip) : Chip :=
  let s := c.port n
  let c1 := c.setPort n { s with fault := s.fault ||| (BitVec.ofNat 32 bits &&& keptFaults) }
  let old := if (c1.event n).pending then (c1.event n).cause.toNat % 2 ^ 20 else 0
  c1.fire n ((old ||| bits) + c1.portState n * 2 ^ 24)

/-- Start SETTLING for `d` periods (R135, R143, R145, R150). -/
def Chip.settle (n d : Nat) (c : Chip) : Chip :=
  c.setPort n { c.port n with settling := some (c.clk.now + d) }

/-- The hysteresis of a comparator in mV at a THRESH in 0.1 V (R139): 5 % of it, and never less than 0.1 V. -/
def hysteresis (thresh : Nat) : Nat := max 100 (5 * thresh)

/-- The comparator's output at `mv` (R139): the band in which it keeps its output lies below THRESH. -/
def compare (thresh : Nat) (mv : Int) (old : Bool) : Bool :=
  if (100 * thresh : Int) < mv then true else if mv < 100 * thresh - hysteresis thresh then false else old

/-- THRESH of a port (Table 4.4). -/
def Chip.threshOf (c : Chip) (n : Nat) : Nat := c.attrN tyPort n 2

/-- An input whose level is to be taken anew (R139), as the comparator shows it now. -/
def InputSt.restart (s : InputSt) (thresh now : Nat) : InputSt :=
  { s with raw := compare thresh s.mv s.raw, level := none, since := now }

/-- Does nothing of a port's own keep it from being OFF or ACTIVE (Table 4.9)? -/
def PortSt.fit (s : PortSt) : Bool :=
  !s.latched && !s.outside && !s.shed && s.retry.isNone && s.settling.isNone

/-- A mode change takes effect at its commit step (R135, Table 4.6): SETTLING for 1 µs and 2 ms.  A latch and a running
retry stay. -/
def Chip.changeMode (n : Nat) (c : Chip) : Chip :=
  let s := c.port n
  let m := c.portMode n
  let window := m == mRin || m == mCin || m == mPyro || m == mVout || m == mHbridge || m == mSbus
    || (m == mFan && bit (c.portCfg n) 7)
  (c.setPort n { s with
    offAt := if s.fit then c.clk.now else s.offAt, outside := s.outside && window, shed := s.shed && c.usesVact n, inA := s.inA.restart (c.threshOf n) c.clk.now,
    inB := s.inB.restart (c.threshOf n) c.clk.now, lastRise := none, samples := [], meanOver := false, sbusDue := none
    sbusAt := none, staleA := none,
    staleB := none, pyroUntil := if m == mPyro then some (c.clk.now + sec 30) else none }).settle n (us 1 + ms 2)

/-- A port that becomes ACTIVE takes its inputs' levels anew and starts its sensor-bus periods (R139, R140). -/
def Chip.portOn (n : Nat) (c : Chip) : Chip :=
  let s := c.port n
  c.setPort n { s with
    inA := s.inA.restart (c.threshOf n) c.clk.now, inB := s.inB.restart (c.threshOf n) c.clk.now, lastRise := none
    sbusDue := if c.portMode n == mSbus then some c.clk.now else none, sbusAt := none }

/-- SETTLING_EXPIRY: SETTLING ends (R135, R146). -/
def Chip.settled (n : Nat) (c : Chip) : Chip :=
  match (c.port n).settling with
  | none => c
  | some d =>
    let c1 := c.waitUntil d
    let c2 := c1.setPort n { c1.port n with settling := none, onAt := c1.clk.now }
    if c2.portActive n then c2.portOn n else c2

/-- Write of PORT_FAULT (R144, R145): bits written as 1 clear; LATCHED releases a latched port through SETTLING. -/
def Chip.clearPortFault (n m : Nat) (c : Chip) : Chip :=
  let s := c.port n
  let s1 := { s with fault := s.fault &&& ~~~(BitVec.ofNat 32 m) }
  if bit m 19 && s.latched then (c.setPort n { s1 with latched := false }).settle n (ms 2) else c.setPort n s1

/-! ### Retry faults (R145) -/

/-- The bit of Table 4.8 of a retry fault. -/
def retryBit : RetryKind → Nat
  | .overload => 0x8
  | .shuntOpen => 0x40
  | .loopPwrLimit => 0x80
  | .voutLimit => 0x400
  | .odLimitA => 0x800
  | .odLimitB => 0x1000
  | .supplyLimit => 0x2000

/-- Can a retry fault happen in a port's mode (Table 4.8)? -/
def Chip.retryApplies (c : Chip) (n : Nat) (k : RetryKind) : Bool :=
  let m := c.portMode n
  match k with
  | .overload => m == mHbridge
  | .shuntOpen => m == mIin
  | .loopPwrLimit => m == mIin && bit (c.portCfg n) 6
  | .voutLimit => m == mVout || (m == mFan && bit (c.portCfg n) 7)
  | .odLimitA => m == mOdout
  | .odLimitB => m == mOdout
  | .supplyLimit => m == mPyro

/-- A retry fault (R145, R146): RETRY for 1 s, or LATCHED at the third within 60 s; in a LATCHED or PROTECT port it counts
and changes no state. -/
def Chip.retryFault (n bits : Nat) (c : Chip) : Chip :=
  let s := c.port n
  let times := (s.faultTimes.filter (fun t => decide (c.clk.now ≤ t + sec 60))) ++ [c.clk.now]
  let held := s.latched || s.outside
  let latch := !held && decide (3 ≤ times.length)
  let s1 := { s with
    offAt := if s.fit then c.clk.now else s.offAt, faultTimes := times, latched := s.latched || latch
    retry := if held then s.retry else if latch then none else some (c.clk.now + sec 1) }
  (c.setPort n s1).portCause n (if latch then bits + 2 ^ 19 else bits)

/-- RETRY_EXPIRY: the 1 s ends and the port returns through SETTLING (R145). -/
def Chip.retryOver (n : Nat) (c : Chip) : Chip :=
  match (c.port n).retry with
  | none => c
  | some d =>
    let c1 := c.waitUntil d
    (c1.setPort n { c1.port n with retry := none }).settle n (ms 2)

/-! ### Outputs that follow a signal (R137, R138) -/

/-- The value that an output source gives: the slot's VALUE, or OUT_FAIL where no slot is named or it is unusable. -/
def Chip.outValue (c : Chip) (n src : Nat) (noted : Option Nat) : Int :=
  match sidOf src with
  | none => (BitVec.ofNat 32 (c.attrN tyPort n 14)).toInt
  | some sid =>
    if c.sourceUsable sid noted then (c.slot sid).value.toInt else (BitVec.ofNat 32 (c.attrN tyPort n 14)).toInt

/-- The converter code of a voltage in Q16.16: round(V · 409.5), V clamped to 0–10.0 (R137). -/
def voutCodeOf (v : Int) : Nat := (divr (clampI 0 655360 v * 819) 131072).toNat

/-- Is an open-drain switch on (R137): VALUE at or above 0.5? -/
def odOnOf (v : Int) : Bool := decide (0x8000 ≤ v)

/-- Terminal A of an ODOUT port conducts. -/
def Chip.odoutA (c : Chip) (n : Nat) : Bool :=
  c.portActive n && c.portMode n == mOdout && odOnOf (c.outValue n (c.attrN tyPort n 12) (c.port n).staleA)

/-- Terminal B of an ODOUT port conducts. -/
def Chip.odoutB (c : Chip) (n : Nat) : Bool :=
  c.portActive n && c.portMode n == mOdout && odOnOf (c.outValue n (c.attrN tyPort n 13) (c.port n).staleB)

/-- OUTPUT_SOURCE_CHECK: every 10 ms a port looks whether its sources have gone STALE (R138). -/
def Chip.checkOutputs (n : Nat) (c : Chip) : Chip :=
  let note := fun src => match sidOf src with
    | some sid => c.noteStale sid
    | none => none
  if c.portMode n == mVout || c.portMode n == mOdout then
    c.setPort n { c.port n with staleA := note (c.attrN tyPort n 12), staleB := note (c.attrN tyPort n 13) }
  else c

/-! ### Digital inputs (R139) -/

/-- Is a terminal a digital input now: DIN, or terminal B of FAN, in an ACTIVE port? -/
def Chip.isInput (c : Chip) (n : Nat) (termB : Bool) : Bool :=
  c.portActive n && (c.portMode n == mDin || (termB && c.portMode n == mFan))

/-- The terminal's voltage moves to `mv` on an input: a raw edge where the comparator switches. -/
def InputSt.see (s : InputSt) (mv : Int) (raw counted : Bool) (now : Nat) : InputSt :=
  if s.raw == raw then { s with mv := mv }
  else { s with mv := mv, raw := raw, since := now, edges := if counted then s.edges + 1 else s.edges }

/-- DIN_EDGE: the voltage at a terminal moves; a raw edge is counted on an input, and A's rising-to-rising period captured
(R139).  A terminal that is no input now counts nothing. -/
def Chip.dinEdge (n : Nat) (termB : Bool) (mv : Int) (c : Chip) : Chip :=
  let s := c.port n
  let now := c.clk.now
  let raw := compare (c.threshOf n) mv (if termB then s.inB.raw else s.inA.raw)
  let counted := c.isInput n termB
  if termB then c.setPort n { s with inB := s.inB.see mv raw counted now }
  else
    let s1 := { s with inA := s.inA.see mv raw counted now }
    c.setPort n (if counted && raw && !s.inA.raw then
      { s1 with
        lastRise := some now
        periodA := match s.lastRise with
          | some t => BitVec.ofNat 32 (min 0xFFFFFFFF (now - t))
          | none => s.periodA }
    else s1)

/-- A new THRESH: the comparators judge the voltages that stand at the terminals (R139). -/
def Chip.judgeInputs (n : Nat) (c : Chip) : Chip :=
  (c.dinEdge n false (c.port n).inA.mv).dinEdge n true (c.port n).inB.mv

/-- Write a debounced level to the slot that LEVEL_SID names for its terminal (R139). -/
def Chip.writeLevel (n : Nat) (termB lvl : Bool) (c : Chip) : Chip :=
  let f := bits (c.attrN tyPort n 15) (if termB then 16 else 0) 16
  if bit f 15 then c.produceNow (bits f 0 12) (if lvl then one16 else 0) qVALID 8 (if termB then 32 + n else n) else c

/-- DEBOUNCE_EXPIRY: the input has been stable for DEBOUNCE ms: its level is taken, or follows with an event (R139). -/
def Chip.debounced (n : Nat) (termB : Bool) (c : Chip) : Chip :=
  if !c.isInput n termB then c
  else
    let i := if termB then (c.port n).inB else (c.port n).inA
    if i.level == some i.raw then c
    else
      let c1 := c.waitUntil (i.since + ms (c.attrN tyPort n 3))
      let s := c1.port n
      let c2 := c1.setPort n (if termB then { s with inB := { i with level := some i.raw } }
        else { s with inA := { i with level := some i.raw } })
      let c3 := c2.writeLevel n termB i.raw
      let sel := bit (c.attrN tyPort n 4) (2 * b2n termB + b2n (!i.raw))
      if i.level.isSome && sel then c3.portCause n (if termB then 0x8000 else 0x4000) else c3

/-! ### Sensor bus (R140, R141) -/

/-- What an entry of SBUS_LIST puts on the bus (R140, Table 4.7): RWIDTH bytes of REG, in the order in which the entry holds
them (DESIGN CHOICE, log entry 79), then the read, after a repeated START or, for TRIGGER_READ, after a STOP and WAIT. -/
def sbusSignals (e : List Byte) : List SbusSignal :=
  let op := fld e 1 1
  let addr := fld e 0 1
  let reg := slice e 2 (bits op 2 2)
  if op % 4 == 2 then [.write addr reg, .stop, .read addr (fld e 4 1) false, .stop]
  else [.write addr reg, .read addr (fld e 4 1) true, .stop]

/-- Put signals on a port's bus. -/
def Chip.sbusSend (n : Nat) (xs : List SbusSignal) (c : Chip) : Chip :=
  c.setPort n { c.port n with sbusWire := (c.port n).sbusWire ++ xs }

/-- One entry of SBUS_LIST (Table 4.7) with the bytes that its transaction read, or no acknowledgement. -/
def Chip.sbusEntry (n i : Nat) (e : List Byte) (rd : Option (List Byte)) (c : Chip) : Chip :=
  let op := fld e 1 1
  let c0 := c.sbusSend n (sbusSignals e)
  let c1 := if op % 4 == 2 then c0.advance (ms (fld e 5 1)) else c0
  match rd with
  | none => c1.portCause n 0x20000
  | some bs =>
    let len := fld e 4 1
    let raw := if bit op 4 then beNat (bs.take len) else leNat (bs.take len)
    let v : Int := if bit op 5 then signed (8 * len) raw else raw
    c1.produceNow (bits (fld e 6 2) 0 12) (sat32 (v * fldI32 e 8 + fldI32 e 12)) qVALID 8 (64 + 8 * n + i)

/-- The entries of a poll pass in order. -/
def Chip.sbusRun (n : Nat) : Nat → List Byte → List (Option (List Byte)) → Chip → Chip
  | _, _, [], c => c
  | i, l, rd :: rest, c => if l.length < 16 then c else Chip.sbusRun n (i + 1) (l.drop 16) rest (c.sbusEntry n i (l.take 16) rd)

/-- The next poll that falls due after `now` (R141: a period that finds the pass still running is skipped). -/
def nextPoll (d period now : Nat) : Nat :=
  if period = 0 then now else if d ≤ now then d + ((now - d) / period + 1) * period else d

/-- A poll pass ends: the next one comes at its period. -/
def Chip.sbusEnd (n : Nat) (c : Chip) : Chip :=
  let s := c.port n
  c.setPort n { s with
    sbusAt := none, sbusDue := s.sbusDue.map (fun d => nextPoll d (ms (c.attrN tyPort n 16)) c.clk.now) }

/-- SBUS_POLL: a poll pass begins at its period, or goes on; `reads` gives what each entry's transaction brought.  A pass whose
list is not done yet keeps running: SDA is held (R141). -/
def Chip.sbusPoll (n : Nat) (reads : List (Option (List Byte))) (c : Chip) : Chip :=
  match (c.port n).sbusDue with
  | none => c
  | some d =>
    if !(c.portActive n && c.portMode n == mSbus) then c
    else
      let list := c.attr tyPort n 17
      let c0 := match (c.port n).sbusAt with
        | some _ => c
        | none => let w := c.waitUntil d; w.setPort n { w.port n with sbusAt := some 0, sbusWire := [] }
      let i := ((c0.port n).sbusAt).getD 0
      let c1 := Chip.sbusRun n i (list.drop (16 * i)) reads c0
      let next := i + reads.length
      if list.length ≤ 16 * next then c1.sbusEnd n else c1.setPort n { c1.port n with sbusAt := some next }

/-- SBUS_STUCK: SDA held low for 25 ms; nine SCL pulses and a STOP, and the rest of the pass is abandoned (R141). -/
def Chip.sbusStuck (n : Nat) (c : Chip) : Chip :=
  if c.portActive n && c.portMode n == mSbus then
    let c1 := (c.sbusSend n [.ninePulses, .stop]).portCause n 0x40000
    if (c1.port n).sbusAt.isSome then c1.sbusEnd n else c1
  else c

/-- PYRO_SETTLE_EXPIRY: MOTION is no longer suppressed (R130). -/
def Chip.pyroSettled (n : Nat) (c : Chip) : Chip :=
  match (c.port n).pyroUntil with
  | none => c
  | some d => let c1 := c.waitUntil d; c1.setPort n { c1.port n with pyroUntil := none }

/-- OPEN_LOOP: the IIN loop current stays below 0.5 mA for 100 ms (R144). -/
def Chip.openLoop (n : Nat) (c : Chip) : Chip :=
  if c.portActive n && c.portMode n == mIin then c.portCause n 0x20 else c

/-! ### The VACT total (R149–R151, R498) -/

/-- Sum over the ports that are not in SHED (R149). -/
def Chip.vactTotal (c : Chip) : Nat :=
  ((List.range 32).map (fun n => if c.portShed n then 0 else c.vactDraw n)).sum

/-- The present limit at throttle step `s` (R149). -/
def vactLimit (s : Nat) : Nat := 6000 * (8 - s) / 8

/-- PRIO of a port (Table 4.5). -/
def Chip.portPrio (c : Chip) (n : Nat) : Nat := bits (c.portCfg n) 25 2

/-- The next port to shed: the lowest PRIO, within it the highest number (R150). -/
def Chip.nextShed (c : Chip) : Option Nat :=
  let ok := fun p n => !(c.port n).shed && decide (0 < c.vactDraw n) && c.portPrio n == p
  ([0, 1, 2, 3].filterMap (fun p => ((List.range 32).reverse.find? (ok p)))).head?

/-- The next port to restore: the highest PRIO, within it the lowest number (R150). -/
def Chip.nextRestore (c : Chip) : Option Nat :=
  let ok := fun p n => (c.port n).shed && c.portPrio n == p
  ([3, 2, 1, 0].filterMap (fun p => ((List.range 32).find? (ok p)))).head?

/-! ### Meanings -/

/-- DIN_EDGE (R139). -/
def execDinEdge (port : Nat) (termB : Bool) (mv : Int) (s : State) : Host.Outcome State Fault Refusal :=
  .next { s with chip := s.chip.dinEdge port termB mv }

/-- DEBOUNCE_EXPIRY (R139). -/
def execDebounceExpiry (port : Nat) (termB : Bool) (s : State) : Host.Outcome State Fault Refusal :=
  .next { s with chip := s.chip.debounced port termB }

/-- SBUS_POLL (R140). -/
def execSbusPoll (port : Nat) (reads : List (Option (List Byte))) (s : State) : Host.Outcome State Fault Refusal :=
  .next { s with chip := s.chip.sbusPoll port reads }

/-- SBUS_STUCK (R141). -/
def execSbusStuck (port : Nat) (s : State) : Host.Outcome State Fault Refusal :=
  .next { s with chip := s.chip.sbusStuck port }

/-- PYRO_SETTLE_EXPIRY (R130). -/
def execPyroSettleExpiry (port : Nat) (s : State) : Host.Outcome State Fault Refusal :=
  .next { s with chip := s.chip.pyroSettled port }

/-- OUTPUT_SOURCE_CHECK (R138). -/
def execOutputSourceCheck (port : Nat) (s : State) : Host.Outcome State Fault Refusal :=
  .next { s with chip := s.chip.checkOutputs port }

/-- OPEN_LOOP (R144). -/
def execOpenLoop (port : Nat) (s : State) : Host.Outcome State Fault Refusal :=
  .next { s with chip := s.chip.openLoop port }

end Sys2Proof.Machine
end

