-- ==== Sys2Proof/Machine/Actuators.lean ====
section
/-! DEFINITION. Dampers, valves and fans (spec/07_dampers_valves_fans.md). -/

namespace Sys2Proof.Machine

/-! ### Binding and settings -/

/-- The group that carries a port's channel (R15). -/
def groupOf (n : Nat) : Nat := n / 4

def Chip.group (c : Chip) (k : Nat) : GroupSt := Tbl.get dGroup c.groups k
def Chip.setGroup (k : Nat) (s : GroupSt) (c : Chip) : Chip := { c with groups := Tbl.set dGroup c.groups k s }

/-- Is the group of a port in RUN? -/
def Chip.groupRuns (c : Chip) (n : Nat) : Bool := (c.group (groupOf n)).state == .run

def Chip.bridge (c : Chip) (n : Nat) : BridgeSt := Tbl.get dBridge c.bridges n
def Chip.setBridge (n : Nat) (s : BridgeSt) (c : Chip) : Chip := { c with bridges := Tbl.set dBridge c.bridges n s }

def Chip.motor (c : Chip) (n : Nat) : MotorSt := Tbl.get dMotor c.motors n
def Chip.setMotor (n : Nat) (s : MotorSt) (c : Chip) : Chip := { c with motors := Tbl.set dMotor c.motors n s }
def Chip.valve (c : Chip) (n : Nat) : ValveSt := Tbl.get dValve c.valves n
def Chip.setValve (n : Nat) (s : ValveSt) (c : Chip) : Chip := { c with valves := Tbl.set dValve c.valves n s }
def Chip.fan (c : Chip) (n : Nat) : FanSt := Tbl.get dFan c.fans n
def Chip.setFan (n : Nat) (s : FanSt) (c : Chip) : Chip := { c with fans := Tbl.set dFan c.fans n s }

/-- Is the object bound (R218)? -/
def Chip.damperBound (c : Chip) (n : Nat) : Bool := bit (c.attrN tyDamper n 1) 0
def Chip.fanBound (c : Chip) (n : Nat) : Bool := bit (c.attrN tyFan n 1) 0
def Chip.valveBound (c : Chip) (n : Nat) : Bool := bit (c.attrN tyValve n 1) 0

/-- VLV_CFG.KIND (Table 7.6): 0 THERMAL, 1 MODULATING, 2 FLOATING. -/
def Chip.valveKind (c : Chip) (n : Nat) : Nat := bits (c.attrN tyValve n 1) 1 2

/-- A bound floating valve with RIPPLE, positioned as a damper (R239). -/
def Chip.rippleValve (c : Chip) (n : Nat) : Bool := c.valveBound n && c.valveKind n == 2 && bit (c.attrN tyValve n 1) 4

/-- Has the port a motor that is positioned by counting ripple? -/
def Chip.motorBound (c : Chip) (n : Nat) : Bool := c.damperBound n || c.rippleValve n

/-- The settings of a positioned motor (Table 7.4; R239 for a valve). -/
structure MotorCfg where
  dirOpen : Bool
  auto : Bool
  near : Bool
  fill : Bool
  cpsNom : Nat
  iMin : Nat
  endTol : Nat
  deadband : Nat
  maxRun : Nat
  dwell : Nat
  tgtSid : Nat
  posSid : Nat
  rehomeInt : Nat
  ripBand : Nat
  ripThresh : Nat
  stopI : Nat
  stopMs : Nat
  deriving DecidableEq, Repr

/-- The settings in force for the motor of port `n`. -/
def Chip.motorCfg (c : Chip) (n : Nat) : MotorCfg :=
  if c.damperBound n then
    let f := c.attrN tyDamper n 1
    ⟨bit f 1, bit f 2, bit f 3, bit f 4, c.attrN tyDamper n 2, c.attrN tyDamper n 5, c.attrN tyDamper n 8,
      c.attrN tyDamper n 9, c.attrN tyDamper n 10, c.attrN tyDamper n 11, c.attrN tyDamper n 12, c.attrN tyDamper n 13,
      c.attrN tyDamper n 14, c.attrN tyDamper n 3, c.attrN tyDamper n 4, c.attrN tyDamper n 6, c.attrN tyDamper n 7⟩
  else
    let f := c.attrN tyValve n 1
    ⟨bit f 5, bit f 8, bit f 9, bit f 7, c.attrN tyValve n 18, c.attrN tyValve n 21, c.attrN tyValve n 24,
      c.attrN tyValve n 9, c.attrN tyValve n 25, c.attrN tyValve n 26, c.attrN tyValve n 2, c.attrN tyValve n 10,
      c.attrN tyValve n 27, c.attrN tyValve n 19, c.attrN tyValve n 20, c.attrN tyValve n 22, c.attrN tyValve n 23⟩

/-- RIP_FMIN and RIP_FMAX (Table 7.4). -/
def MotorCfg.fMin (g : MotorCfg) : Nat := bits g.ripBand 0 16
def MotorCfg.fMax (g : MotorCfg) : Nat := bits g.ripBand 16 16

/-- Counts per stroke in use: CPS_NOM until CPS has been measured (R225). -/
def Chip.motorCps (c : Chip) (n : Nat) : Nat := if (c.motor n).measured then (c.motor n).cps else (c.motorCfg n).cpsNom

/-- The count of the position, clamped to the stroke (R226). -/
def Chip.motorCount (c : Chip) (n : Nat) : Int := clampI 0 (c.motorCps n) (c.motor n).count

/-- Position in 1/65 536 of stroke: c / CPS, clamped to 0–1.0 (R226). -/
def Chip.motorPos (c : Chip) (n : Nat) : Nat := (clampI 0 65536 (divr ((c.motor n).count * 65536) (c.motorCps n))).toNat

/-- The count of a target (R228). -/
def Chip.targetCount (c : Chip) (n t : Nat) : Int := divr (t * c.motorCps n : Nat) 65536

/-- PRODUCER type 0x3, the actuators (R221). -/
def actuatorType : Nat := 3

/-- Read a 32-bit command slot as a fraction clamped to 0–1.0. -/
def Chip.slotFraction (c : Chip) (sid : Nat) : Nat := (clampI 0 65536 (c.slot sid).value.toInt).toNat

/-! ### The source of a command (R220) -/

/-- What a source gives: a slot's value, nothing while the slot is unusable, or no slot. -/
inductive Source where
  | value (v : Int)
  | unusable
  | unset
  deriving DecidableEq, Repr

/-- Read a source field. -/
def Chip.source (c : Chip) (field : Nat) : Source :=
  match sidOf field with
  | none => .unset
  | some sid => if c.slotUsable sid then .value (c.slot sid).value.toInt else .unusable

/-- The target that a motor follows; `none`: it holds its position (R220, R228, R239). -/
def Chip.motorTarget (c : Chip) (n : Nat) : Option Nat :=
  if c.damperBound n then
    let m := c.motor n
    if m.overriding then m.command
    else match c.source (c.motorCfg n).tgtSid with
      | .value v => some (clampI 0 65536 v).toNat
      | .unusable => none
      | .unset => m.command
  else if c.rippleValve n then some (c.valve n).applied
  else none

/-! ### Damper records and reports -/

/-- Set the VALID byte of a damper record, with the position as it stands (R233). -/
def Chip.keepRecord (n : Nat) (valid : Bool) (c : Chip) : Chip :=
  let r := if valid then ⟨min 65535 (c.motorPos n), c.motorCps n, min 255 (c.motor n).lead, true⟩
    else { Tbl.get dRecord c.records n with valid := false }
  { c with records := Tbl.set dRecord c.records n r }

/-- Write POS_SID or EST_SID with the position (R226, R239): not while it is UNKNOWN. -/
def Chip.writePosition (n : Nat) (c : Chip) : Chip :=
  if c.motorBound n then
    if (c.motor n).known then
      (c.setMotor n { c.motor n with posWritten := c.clk.now }).produceOpt (sidOf (c.motorCfg n).posSid) (c.motorPos n)
        qVALID actuatorType n
    else c
  else c

/-- E63 (Table 7.13): a valve fault; a latching one sets FAULT (Table 7.8). -/
def Chip.valveFault (n code : Nat) (latch : Bool) (c : Chip) : Chip :=
  if !c.valveBound n then c
  else
    let v := c.valve n
    (c.setValve n { v with
      fault := v.fault || latch, lastFault := code, faultAt := if latch then some c.clk.now else v.faultAt }).fire 63 (n + c.valveKind n * 256 + code * 4096)

/-- The VALVE bit of E60–E62: the motor belongs to a valve. -/
def Chip.valveBit (c : Chip) (n : Nat) : Nat := b2n (!c.damperBound n)

/-- E60's position field, 0xFFFF when UNKNOWN. -/
def Chip.posField (c : Chip) (n : Nat) : Nat := if (c.motor n).known then min 65535 (c.motorPos n) else 0xFFFF

/-- The reply data of DAMPER_MOVE and DAMPER_REHOME (R230). -/
def Chip.moveReply (c : Chip) (n outcome : Nat) : List Byte :=
  [BitVec.ofNat 8 outcome, 0, 0, 0] ++ leBytes 4 (if (c.motor n).known then c.motorPos n else 0xFFFFFFFF)

/-! ### Starting and ending a move (R228–R233) -/

/-- Can a motor be driven now? -/
def Chip.drivable (c : Chip) (n : Nat) : Bool :=
  c.portActive n && c.groupRuns n && !(c.bridge n).latched && !c.thermal.shutdown

/-- Begin to drive a leg. -/
def Chip.driveLeg (n : Nat) (mv : Move) (c : Chip) : Chip :=
  c.setMotor n { c.motor n with
    lastOpening := some mv.opening, lastCount := none
    move := some { mv with phase := .drive, ends := none, legStart := c.clk.now, brakeAt := none } }

/-- Begin a leg: braked for DWELL first where it reverses the last direction or where `pause` asks for it (R228 step 1). -/
def Chip.startLeg (n : Nat) (mv : Move) (pause : Bool) (c : Chip) : Chip :=
  let m := c.motor n
  if pause || (match m.lastOpening with
      | some o => o != mv.opening
      | none => false) then
    c.setMotor n { m with
      move := some { mv with phase := .dwell, ends := some (c.clk.now + ms (c.motorCfg n).dwell), brakeAt := none } }
  else c.driveLeg n mv

/-- Which way does a move to a target go: an end is always driven into its stop (R228)? -/
def Chip.opensTo (c : Chip) (n t : Nat) : Bool :=
  if t == 0 then false else if t == 65536 then true else decide ((c.motor n).count < c.targetCount n t)

/-- Begin a move or a re-home (R228, R231, R233); on a shed port it waits (Table 7.2). -/
def Chip.beginMove (n : Nat) (kind : MoveKind) (target : Nat) (cmd : Option (Nat × Nat)) (pause : Bool) (c : Chip) : Chip :=
  let m := c.motor n
  let rehome := kind != .move
  let opening := match kind with
    | .move => c.opensTo n target
    | .fullClose => false
    | .fullOpen => true
    | .near => m.known && decide (32768 ≤ c.motorPos n)
  let mv : Move := ⟨kind, .drive, target, opening, 0, cmd, none, c.clk.now, none, false, rehome⟩
  let c1 := c.keepRecord n false
  if c1.portShed n || (rehome && cmd.isNone && !c1.drivable n) then
    c1.setMotor n { m with move := some { mv with phase := .paused } }
  else c1.startLeg n mv pause

/-- Is a position further than DEADBAND from a target (R228)? -/
def Chip.beyondDeadband (c : Chip) (n t : Nat) : Bool :=
  decide ((c.motorCfg n).deadband * c.motorCps n < 1000 * (c.motorCount n - c.targetCount n t).natAbs)

/-- Follow the target: an idle motor of known position starts a move when they differ by more than DEADBAND (R228). -/
def Chip.followTarget (n : Nat) (c : Chip) : Chip :=
  let m := c.motor n
  match m.move, c.motorTarget n with
  | none, some t => if m.known && c.beyondDeadband n t then c.beginMove n .move t none false else c
  | _, _ => c

/-- End the move in progress with an outcome (R230, R231): E60, the final reply, the record, and a NEAR re-home that
REHOME_INT has made due. -/
def Chip.endMove (n outcome : Nat) (c : Chip) : Chip :=
  let m := c.motor n
  match m.move with
  | none => c
  | some mv =>
    let c1 := (c.setMotor n { m with move := none, outcome := outcome, overriding := false }).keepRecord n m.known
    let c2 := (c1.writePosition n).fire 60 (n + 128 * c1.valveBit n + 256 * outcome + 65536 * c1.posField n)
    let c3 := match mv.cmd with
      | some (x, t) => c2.finishTag x t stOK noOfs (c2.moveReply n outcome)
      | none => c2
    if m.intervalDue && !mv.rehome then
      (c3.setMotor n { c3.motor n with intervalDue := false }).beginMove n .near mv.target none true
    else if outcome == 0 && c3.motorTarget n != some mv.target then c3.followTarget n
    else c3

/-- E62: the position becomes UNKNOWN, for a reason of Table 7.13. -/
def Chip.tellUnknown (n reason : Nat) (c : Chip) : Chip := c.fire 62 (n + 256 * reason + 4096 * c.valveBit n)

/-- The re-home that AUTO_REHOME starts (R231). -/
def Chip.autoRehome (n : Nat) (c : Chip) : Chip :=
  let g := c.motorCfg n
  if g.auto && (c.motor n).move.isNone then
    c.beginMove n (if g.near then .near else .fullClose) ((c.motorTarget n).getD 0) none true
  else c

/-- The position becomes UNKNOWN and the move ends with an outcome. -/
def Chip.losePosition (n outcome reason : Nat) (c : Chip) : Chip :=
  let was := (c.motor n).known
  let c1 := c.setMotor n { c.motor n with known := false }
  let c2 := (c1.endMove n outcome).tellUnknown n reason
  if was then c2.autoRehome n else c2

/-- Is a motor driven or braked in a move? -/
def Chip.underWay (c : Chip) (n : Nat) : Bool :=
  match (c.motor n).move with
  | some mv => mv.phase == .drive || mv.phase == .brake
  | none => false

/-- Does current flow in a motor: |I_m| ≥ I_MIN, so that a removal of drive leaves its coast uncounted (R232)? -/
def Chip.inMotion (c : Chip) (n : Nat) : Bool :=
  c.underWay n && decide ((c.motorCfg n).iMin ≤ (c.motor n).current.natAbs)

/-- Drive is removed with all switches open (Table 7.2): a motor in motion loses its position, and so does one under way whose
bridge latches (outcome 5) or which thermal shutdown meets (6); a stopped one keeps it. -/
def Chip.motorCut (n outcome : Nat) (c : Chip) : Chip :=
  if !c.motorBound n then c
  else if c.inMotion n || (c.underWay n && (outcome == 5 || outcome == 6)) then
    let c1 := (c.setMotor n { c.motor n with cut := true }).losePosition n outcome 1
    if outcome == 5 then c1 else c1.valveFault n 4 false
  else if (c.motor n).move.isSome then c.endMove n outcome
  else c

/-- Drive ends in BRAKE (Table 7.2): the position is kept and the move is LOST. -/
def Chip.motorBrake (n : Nat) (c : Chip) : Chip :=
  if c.motorBound n && (c.motor n).move.isSome then c.endMove n 2 else c

/-- The port is shed during a move (Table 7.2): the move pauses, the position becoming UNKNOWN where it was driven. -/
def Chip.motorPause (n : Nat) (c : Chip) : Chip :=
  match (c.motor n).move with
  | none => c
  | some mv =>
    let lost := c.inMotion n
    let rehome := lost && (c.motorCfg n).auto && !mv.rehome
    let kind := if rehome then (if (c.motorCfg n).near then MoveKind.near else .fullClose) else mv.kind
    let c1 := c.setMotor n { c.motor n with
      known := (c.motor n).known && !lost, cut := (c.motor n).cut || lost
      move := some { mv with
        kind := kind, phase := .paused, ends := none, brakeAt := none, rehome := mv.rehome || rehome
        opening := if rehome then false else mv.opening } }
    if lost then (c1.tellUnknown n 1).valveFault n 4 false else c1

/-- A paused move goes on once the motor can be driven (Table 7.2); a plain one whose position became UNKNOWN goes on by its
count. -/
def Chip.motorResume (n : Nat) (c : Chip) : Chip :=
  match (c.motor n).move with
  | none => c
  | some mv =>
    if mv.phase != .paused || !c.drivable n then c
    else c.startLeg n mv true

/-- ABORT: braked, the position kept (R230); the caller answers ABORTED. -/
def Chip.abortMove (n : Nat) (c : Chip) : Chip :=
  let m := c.motor n
  ((c.setMotor n { m with move := none, overriding := false }).keepRecord n m.known).writePosition n

/-! ### Counting, stopping and touching (R222–R229) -/

/-- Counts that FILL inserts for a gap (R223): round(gap / mean) − 1, at most 2, where the gap exceeds 1.8 times the mean of
the last 16 intervals. -/
def fillCounts (intervals : List Nat) (gap : Nat) : Nat :=
  let n := intervals.length
  let sum := intervals.sum
  if n < 16 || sum == 0 || 10 * n * gap ≤ 18 * sum then 0
  else min 2 ((divr (gap * n : Nat) sum).toNat - 1)

/-- I_m and the band-passed current of a sample (R222): when |I_m| crosses I_MIN or ENDSTOP_I is noted. -/
def MotorSt.sense (m : MotorSt) (g : MotorCfg) (band cur : Int) (now : Nat) : MotorSt :=
  let atLeast := fun (x : Int) (lim : Nat) => decide (lim ≤ x.natAbs)
  { m with
    current := cur, band := band, fell := m.fell || decide (100 * band < -(g.ripThresh * cur.natAbs : Nat))
    crossedAt := if atLeast cur g.iMin == atLeast m.current g.iMin then m.crossedAt else now
    stallAt := if atLeast cur g.stopI == atLeast m.current g.stopI then m.stallAt else now }

/-- Does a sample make a count (R222): the band-passed signal rises through +RIP_THRESH × |I_m| after having fallen below
−RIP_THRESH × |I_m| since the last count, at least 0.5/RIP_FMAX s after it, while |I_m| ≥ I_MIN? -/
def MotorSt.counts (m : MotorSt) (g : MotorCfg) (band cur : Int) (now : Nat) : Bool :=
  let th : Int := (g.ripThresh * cur.natAbs : Nat)
  m.fell && decide (100 * m.band < th) && decide (th ≤ 100 * band) && decide (g.iMin ≤ cur.natAbs)
    && (match m.lastCount with
      | some t => decide (sec 1 ≤ (now - t) * (2 * g.fMax))
      | none => true)

/-- One sample of the ripple detector (R222, R223): `band` is the band-passed current and `cur` I_m, in mA; the form of the filters
is the implementation's (log entry 13). -/
def Chip.countRipple (n : Nat) (band cur : Int) (c : Chip) : Chip :=
  let m := c.motor n
  let g := c.motorCfg n
  let now := c.clk.now
  let m1 := m.sense g band cur now
  match m.lastOpening with
  | none => c.setMotor n m1
  | some o =>
    if !m.counts g band cur now then c.setMotor n m1
    else
      let gap := match m.lastCount with
        | some t => now - t
        | none => 0
      let ins := if g.fill && m.lastCount.isSome then fillCounts m.intervals gap else 0
      let k : Int := (1 + ins : Nat)
      c.setMotor n { m1 with
        fell := false, count := if o then m.count + k else m.count - k, filled := m.filled + ins, lastCount := some now
        intervals := if m.lastCount.isSome then ((gap / (ins + 1)) :: m.intervals).take 16 else m.intervals }

/-- Brake a counted move when the remaining count has fallen to LEAD (R228 step 3). -/
def Chip.checkLead (n : Nat) (c : Chip) : Chip :=
  let m := c.motor n
  match m.move with
  | none => c
  | some mv =>
    let t := c.targetCount n mv.target
    let left := if mv.opening then t - m.count else m.count - t
    if mv.kind == .move && mv.phase == .drive && mv.target != 0 && mv.target != 65536 && left ≤ (m.lead : Int) then
      c.setMotor n { m with move := some { mv with phase := .brake, brakeAt := some m.count } }
    else c

/-- LEAD after a stop by count (R229), capped at 2 % of CPS. -/
def nextLead (lead cps : Nat) (run : Nat) : Nat := min (cps / 50) (divr (4 * lead + (run - lead : Int)) 4).toNat

/-- A stopped move is judged (R228 step 5): up to two corrections, then it ends.  What OUTCOME a move has whose error two
corrections did not remove is not stated: a free value of Table 7.3 (DESIGN CHOICE, log entry 3). -/
def Chip.judgeStop (n : Nat) (mv : Move) (c : Chip) : Chip :=
  let done := if mv.cpsReject then 7 else 0
  if !c.beyondDeadband n mv.target then c.endMove n done
  else if mv.corrections < 2 then
    (c.writePosition n).startLeg n { mv with kind := .move, opening := c.opensTo n mv.target, corrections := mv.corrections + 1 } false
  else c.nextFree.endMove n ((Config.freeWord c.freeCount).toNat % 9)

/-- DAMPER_MOVE_END: |I_m| has been below I_MIN for 20 ms after the brake (R228 step 4, R229). -/
def Chip.moveStops (n : Nat) (c : Chip) : Chip :=
  let m := c.motor n
  match m.move with
  | none => c
  | some mv =>
    match mv.phase, mv.brakeAt with
    | .brake, some b =>
      if (c.motorCfg n).iMin ≤ m.current.natAbs then c
      else
        let c1 := c.waitUntil (m.crossedAt + ms 20)
        (c1.setMotor n { m with lead := nextLead m.lead (c.motorCps n) (m.count - b).natAbs }).judgeStop n mv
    | _, _ => c

/-- Is a touch accepted as the end stop in the driven direction (R224)? -/
def Chip.touchAccepted (c : Chip) (n : Nat) (opening : Bool) : Bool :=
  let stop : Int := if opening then c.motorCps n else 0
  !(c.motor n).known || decide (1000 * (c.motorCount n - stop).natAbs ≤ (c.motorCfg n).endTol * c.motorCps n)

/-- An accepted touch (R224, R225): the position is set, CPS recalibrated or rejected, and E61 fires; answers whether CPS was
rejected. -/
def Chip.acceptTouch (n : Nat) (opening : Bool) (c : Chip) : Bool × Chip :=
  let m := c.motor n
  let g := c.motorCfg n
  let measures := m.touchStop == some (!opening) && !m.cut
  let net := (m.count - m.touchCount).natAbs
  let fits := decide (3 * g.cpsNom ≤ 4 * net) && decide (4 * net ≤ 5 * g.cpsNom)
  let cps := if measures && fits then net else c.motorCps n
  let stop : Int := if opening then cps else 0
  let corr := if m.known then unsigned 16 (clampI (-32767) 32767 (stop - m.count)) else 0x8000
  let c1 := c.setMotor n { m with
    known := true, count := stop, cps := cps, measured := m.measured || (measures && fits), filled := 0,
    touchStop := some opening, touchCount := stop, cut := false, touchTime := c.clk.now,
    intervalDue := false }
  (measures && !fits, c1.fire 61 (n + 32 * b2n opening + 64 * b2n (measures && fits) + 128 * b2n (measures && !fits)
    + 256 * c1.valveBit n + 65536 * corr))

/-- Go on after an accepted touch (R228, R231). -/
def Chip.afterTouch (n : Nat) (mv : Move) (reject : Bool) (c : Chip) : Chip :=
  let t := (c.motorTarget n).getD mv.target
  let mv1 := { mv with cpsReject := mv.cpsReject || (reject && mv.rehome) }
  let done := if mv1.cpsReject then 7 else 0
  match mv.kind with
  | .move => c.judgeStop n mv1
  | .fullClose => (c.writePosition n).startLeg n { mv1 with kind := .fullOpen, opening := true } true
  | _ =>
    if (c.motorTarget n).isNone || !c.beyondDeadband n t then c.endMove n done
    else (c.writePosition n).startLeg n { mv1 with kind := .move, target := t, opening := c.opensTo n t } true

/-- Since when a driven leg has made no count, while what began at `t` has lasted. -/
def Chip.quietSince (c : Chip) (n t : Nat) (mv : Move) : Nat := max (max t mv.legStart) ((c.motor n).lastCount.getD 0)

/-- A latching fault of a motor (R224, R247): JAM, or OPEN. -/
def Chip.latchMotor (n : Nat) (jam : Bool) (c : Chip) : Chip :=
  let m := c.motor n
  c.setMotor n { m with jam := m.jam || jam, openLoad := m.openLoad || !jam, faultAt := some c.clk.now }

/-- ENDSTOP_TOUCH: |I_m| ≥ ENDSTOP_I for ENDSTOP_MS with no count: a touch or a jam of a driven motor (R224). -/
def Chip.touch (n : Nat) (c : Chip) : Chip :=
  let m := c.motor n
  let g := c.motorCfg n
  match m.move with
  | none => c
  | some mv =>
    if mv.phase != .drive || decide (m.current.natAbs < g.stopI) then c
    else
      let c1 := c.waitUntil (c.quietSince n m.stallAt mv + ms g.stopMs)
      if c1.touchAccepted n mv.opening then
        let r := c1.acceptTouch n mv.opening
        r.2.afterTouch n mv r.1
      else ((c1.latchMotor n true).endMove n 1).valveFault n 3 true

/-- RIPPLE_LOST: no count for the longer of 100 ms and 10/RIP_FMIN s although |I_m| ≥ I_MIN (R223). -/
def Chip.rippleLost (n : Nat) (c : Chip) : Chip :=
  let g := c.motorCfg n
  match (c.motor n).move with
  | some mv =>
    if mv.phase == .drive && c.inMotion n then
      ((c.waitUntil (c.quietSince n (c.motor n).crossedAt mv + max (ms 100) (10 * sec 1 / g.fMin))).losePosition n 2
        2).valveFault n 4 false
    else c
  | none => c

/-- DAMPER_OPEN_LOAD: |I_m| < I_MIN for 500 ms while driven (Table 7.2). -/
def Chip.motorOpenLoad (n : Nat) (c : Chip) : Chip :=
  match (c.motor n).move with
  | some mv =>
    if mv.phase == .drive && !c.inMotion n then
      (((c.waitUntil (max (c.motor n).crossedAt mv.legStart + ms 500)).latchMotor n false).endMove n 4).valveFault n 0 true
    else c
  | none => c

/-- MAX_RUN_EXPIRY: a re-home leg makes no touch within MAX_RUN s (R231). -/
def Chip.legTimeout (n : Nat) (c : Chip) : Chip :=
  match (c.motor n).move with
  | some mv =>
    if mv.kind != .move && mv.phase == .drive then
      (c.waitUntil (mv.legStart + sec (c.motorCfg n).maxRun)).losePosition n 3 3
    else c
  | none => c

/-- REHOME_INT_EXPIRY: REHOME_INT hours have passed since the last accepted touch (R231). -/
def Chip.rehomeDue (n : Nat) (c : Chip) : Chip :=
  let h := (c.motorCfg n).rehomeInt
  if !c.motorBound n || h == 0 || (c.motor n).touchStop.isNone then c
  else
    let c1 := c.waitUntil ((c.motor n).touchTime + sec (3600 * h))
    c1.setMotor n { c1.motor n with intervalDue := true }

/-- POSITION_WRITE: every 100 ms while the motor moves, every 1 s while it is stopped (R226). -/
def Chip.positionRow (n : Nat) (c : Chip) : Chip :=
  if !c.motorBound n || !(c.motor n).known then c
  else
    let m := c.motor n
    (c.waitUntil (m.posWritten + (if m.move.isSome then ms 100 else sec 1))).writePosition n

/-- A motor becomes bound, at boot or by a commit: its record gives the position where it is VALID; otherwise the position is
UNKNOWN, with E62 (R233). -/
def Chip.bindMotor (n : Nat) (c : Chip) : Chip :=
  let r := Tbl.get dRecord c.records n
  if r.valid then
    c.setMotor n { dMotor n with
      known := true, count := divr (r.position * r.cps : Nat) 65536, cps := r.cps, measured := true, lead := r.lead }
  else ((c.setMotor n (dMotor n)).tellUnknown n 0).autoRehome n

/-! ### Valves (R235–R239) -/

/-- The command that a valve's source gives, before INVERT (R220, R236). -/
def Chip.valveCommand (c : Chip) (n : Nat) : Nat :=
  let fail := (clampI 0 65536 (BitVec.ofNat 32 (c.attrN tyValve n 3)).toInt).toNat
  match c.source (c.attrN tyValve n 2) with
  | .value v => (clampI 0 65536 v).toNat
  | .unusable => fail
  | .unset => (c.valve n).command.getD 0

/-- The applied command: INVERT gives 1.0 − command (R236). -/
def Chip.valveWants (c : Chip) (n : Nat) : Nat :=
  if bit (c.attrN tyValve n 1) 3 then 65536 - c.valveCommand n else c.valveCommand n

/-- Write EST_SID of a valve that is not positioned by ripple (R237, R239): the applied command of a thermal one, 1.0 with SAT
during a boost; the estimate of a floating one. -/
def Chip.writeEstimate (n : Nat) (c : Chip) : Chip :=
  let v := c.valve n
  let sid := sidOf (c.attrN tyValve n 10)
  if c.valveKind n == 0 then
    c.produceOpt sid (if v.boostEnd.isSome then 65536 else v.applied)
      (if v.boostEnd.isSome then qVALID ||| qSAT else qVALID) actuatorType n
  else if c.valveKind n == 2 && !c.rippleValve n then
    match v.est with
    | some e => c.produceOpt sid e qVALID actuatorType n
    | none => c
  else c

/-- Since when the command has been 0, where it becomes 0 now (R237). -/
def ValveSt.zeroFrom (s : ValveSt) (now : Nat) : Option Nat := if s.applied == 0 then s.zeroSince else some now

/-- Boost of a thermal valve whose command rises from 0 (R237), in periods of 25 ns. -/
def Chip.boostTime (c : Chip) (n : Nat) : Nat :=
  let rearm := sec (c.attrN tyValve n 5)
  let off := match (c.valve n).zeroSince with
    | some t => min rearm (c.clk.now - t)
    | none => rearm
  if rearm = 0 then 0 else sec (c.attrN tyValve n 4) * off / rearm

/-- A thermal valve takes a new applied command (R237). -/
def Chip.applyThermal (n v : Nat) (c : Chip) : Chip :=
  let s := c.valve n
  let s1 :=
    if v == 0 then { s with applied := 0, boostEnd := none, zeroSince := s.zeroFrom c.clk.now }
    else if s.applied == 0 then
      { s with applied := v, boostEnd := if c.boostTime n == 0 then none else some (c.clk.now + c.boostTime n) }
    else { s with applied := v }
  (c.setValve n s1).writeEstimate n

/-- Where a timed drive that began at estimate `e` stands now (R239), in 1/65 536 of stroke. -/
def driveEst (e travel : Nat) (opening : Bool) (dt : Nat) : Nat :=
  let d := if travel = 0 then 65536 else dt * 65536 / sec travel
  if opening then min 65536 (e + d) else e - d

/-- TRAVEL in s. -/
def Chip.travel (c : Chip) (n : Nat) : Nat := c.attrN tyValve n 7

/-- How long a floating valve is driven to a command (R239): to an end, 0.2 × TRAVEL more than what remains. -/
def Chip.floatTime (c : Chip) (n v : Nat) : Nat :=
  let whole := sec (c.travel n)
  let rest := match (c.valve n).est with
    | some e => (if e ≤ v then v - e else e - v) * whole / 65536
    | none => whole
  if v == 0 || v == 65536 then rest + whole / 5 else rest

/-- Begin a timed drive, after 200 ms of brake where it reverses (R239). -/
def Chip.startFloat (n : Nat) (opening : Bool) (dt : Nat) (toEnd : Bool) (c : Chip) : Chip :=
  let s := c.valve n
  match s.lastOpening with
  | some o =>
    if o != opening then c.setValve n { s with drive := none, waitDrive := some (opening, c.clk.now + ms 200) }
    else c.setValve n { s with waitDrive := none, drive := some (opening, c.clk.now, c.clk.now + dt, toEnd) }
  | none =>
    c.setValve n { s with
      lastOpening := some opening, waitDrive := none, drive := some (opening, c.clk.now, c.clk.now + dt, toEnd) }

/-- A floating valve positioned by time follows its command (R239). -/
def Chip.followFloat (n : Nat) (c : Chip) : Chip :=
  let s := c.valve n
  let v := s.applied
  if s.drive.isSome || s.waitDrive.isSome || !c.drivable n then c
  else match s.est with
    | none =>
      if bit (c.attrN tyValve n 1) 6 then c.startFloat n false (sec (c.travel n) * 6 / 5) true
      else if v == 0 || v == 65536 then c.startFloat n (v == 65536) (c.floatTime n v) true
      else c
    | some e =>
      let err := if e ≤ v then v - e else e - v
      if 1000 * err ≤ c.attrN tyValve n 9 * 65536 || c.floatTime n v < ms (c.attrN tyValve n 8) then c
      else c.startFloat n (decide (e < v)) (c.floatTime n v) (v == 0 || v == 65536)

/-- The timed drive stops, and the estimate, where it is known, is brought up to now (R239). -/
def Chip.stopFloat (n : Nat) (c : Chip) : Chip :=
  let s := c.valve n
  if s.drive.isNone && s.waitDrive.isNone then c
  else
    let est := match s.drive, s.est with
      | some (o, t0, _, _), some e => some (driveEst e (c.travel n) o (c.clk.now - t0))
      | _, e => e
    c.setValve n { s with est := est, drive := none, waitDrive := none }

/-- A floating valve takes a new applied command. -/
def Chip.applyFloat (n v : Nat) (c : Chip) : Chip :=
  if (c.valve n).applied == v then c.followFloat n
  else
    let c1 := c.stopFloat n
    (c1.setValve n { c1.valve n with applied := v }).followFloat n

/-- FLOATING_VALVE_DRIVE_END: the timed drive or sync run ends (R239). -/
def Chip.floatEnds (n : Nat) (c : Chip) : Chip :=
  match (c.valve n).drive with
  | none => c
  | some (o, t0, t1, toEnd) =>
    let c1 := c.waitUntil t1
    let s := c1.valve n
    let e := if toEnd then (if o then 65536 else 0)
      else match s.est with
        | some x => driveEst x (c1.travel n) o (t1 - t0)
        | none => if o then 65536 else 0
    ((c1.setValve n { s with est := some e, drive := none }).writeEstimate n).followFloat n

/-- A valve takes the command that its source gives now. -/
def Chip.checkValve (n : Nat) (c : Chip) : Chip :=
  if !c.valveBound n then c
  else
    let v := c.valveWants n
    if c.valveKind n == 0 then c.applyThermal n v
    else if c.valveKind n == 1 then c.setValve n { c.valve n with applied := v }
    else if c.rippleValve n then (c.setValve n { c.valve n with applied := v }).followTarget n
    else c.applyFloat n v

/-- BOOST_EXPIRY (R237). -/
def Chip.boostEnds (n : Nat) (c : Chip) : Chip :=
  match (c.valve n).boostEnd with
  | none => c
  | some d =>
    let c1 := c.waitUntil d
    (c1.setValve n { c1.valve n with boostEnd := none }).writeEstimate n

/-- VALVE_OPEN_LOAD: current below 10 mA for 1 s while f > 0 (R237). -/
def Chip.valveOpen (n : Nat) (c : Chip) : Chip :=
  if c.valveBound n && c.valveKind n == 0 && decide (0 < (c.valve n).applied) then c.valveFault n 0 true else c

/-- DWELL_EXPIRY: the brake ends and the leg, or the timed drive, starts (R228, R239). -/
def Chip.dwellEnds (n : Nat) (c : Chip) : Chip :=
  match (c.motor n).move with
  | some mv =>
    match mv.phase, mv.ends with
    | .dwell, some d => (c.waitUntil d).driveLeg n mv
    | _, _ => c
  | none =>
    match (c.valve n).waitDrive with
    | some (o, d) =>
      let c1 := c.waitUntil d
      let v := (c1.valve n).applied
      let sync := (c1.valve n).est.isNone && bit (c1.attrN tyValve n 1) 6
      (c1.setValve n { c1.valve n with lastOpening := some o }).startFloat n o
        (if sync then sec (c1.travel n) * 6 / 5 else c1.floatTime n v) (sync || v == 0 || v == 65536)
    | none => c

/-- The voltage of a modulating valve on terminal A, in mV (R238). -/
def Chip.valveMilliVolts (c : Chip) (n : Nat) : Int :=
  let r := c.attrN tyValve n 6
  let lo : Int := bits r 0 16
  let hi : Int := bits r 16 16
  divr (lo * 65536 + (c.valve n).applied * (hi - lo)) 65536

/-- The converter code of a VOUT port (R137, R238): 0 while the port drives nothing. -/
def Chip.voutCode (c : Chip) (n : Nat) : Nat :=
  if !(c.portActive n && c.portMode n == mVout) then 0
  else if c.valveBound n && c.valveKind n == 1 then
    let r := c.attrN tyValve n 6
    let lo : Int := bits r 0 16
    let hi : Int := bits r 16 16
    voutCodeOf (divr (lo * 65536 + (c.valve n).applied * (hi - lo)) 1000)
  else voutCodeOf (c.outValue n (c.attrN tyPort n 12) (c.port n).staleA)

/-! ### Fans (R240–R246) -/

/-- The bits of E59 for a control slot (Table 7.13). -/
def Chip.sensorBits (c : Chip) (sid : Nat) : Nat :=
  let s := c.readSlot sid
  256 * b2n (hasQ s.quality qOVR) + 512 * b2n (hasQ s.quality qUNR) + 1024 * b2n (!hasQ s.quality qVALID)
    + 2048 * b2n (hasQ s.quality qSTALE)

/-- The TEMP curve (R241). -/
def Chip.fanCurve (c : Chip) (n : Nat) (t : Int) : Nat :=
  let lo := (BitVec.ofNat 32 (c.attrN tyFan n 8)).toInt
  let hi := (BitVec.ofNat 32 (c.attrN tyFan n 9)).toInt
  let m : Int := c.attrN tyFan n 10
  let num := m * (hi - lo) + (t - lo) * (1000 - m)
  (clampI (divr (m * 65536) 1000) 65536 (divr (num * 65536) (1000 * (hi - lo)))).toNat

/-- The command that a fan's source gives, and whether its control sensor has failed (R220, R241, R245). -/
def Chip.fanCommand (c : Chip) (n : Nat) : Nat × Bool :=
  if bit (c.attrN tyFan n 1) 4 then
    match sidOf (c.attrN tyFan n 7) with
    | none => ((c.fan n).command.getD 65536, false)
    | some sid => if c.sensorBits sid != 0 then (c.fanCurve n (150 * 65536), true)
        else (c.fanCurve n (c.slot sid).value.toInt, false)
  else match c.source (c.attrN tyFan n 6) with
    | .value v => ((clampI 0 65536 v).toNat, false)
    | .unusable => ((clampI 0 65536 (BitVec.ofNat 32 (c.attrN tyFan n 12)).toInt).toNat, false)
    | .unset => ((c.fan n).command.getD 65536, false)

/-- Is a command below MIN_RUN? -/
def Chip.belowMinRun (c : Chip) (n cmd : Nat) : Bool := decide (1000 * cmd < c.attrN tyFan n 5 * 65536)

/-- The fraction f of a fan: the first entry of R242 that applies. -/
def Chip.fanF (c : Chip) (n : Nat) : Nat :=
  let s := c.fan n
  if s.state == .stall || s.state == .tachLost then 65536
  else if c.dogs.fanForced then 65536
  else if s.state == .spinup then 65536
  else if s.state == .gap then 0
  else if c.belowMinRun n s.applied then 0
  else s.applied

/-- Note a decrease of f (R244). -/
def Chip.noteLowered (n before : Nat) (c : Chip) : Chip :=
  if c.fanF n < before then c.setFan n { c.fan n with loweredAt := some c.clk.now } else c

/-- Begin a start, attempt 0 (R243). -/
def Chip.fanStart (n : Nat) (c : Chip) : Chip :=
  c.setFan n { c.fan n with
    state := .spinup, attempt := 0, edges := 0, ends := some (c.clk.now + ms (c.attrN tyFan n 3)) }

/-- A fan acts on the command in force (R243): a start, or a stop. -/
def Chip.fanActs (n : Nat) (c : Chip) : Chip :=
  let s := c.fan n
  if s.state == .stall || s.state == .tachLost || !c.groupRuns n then c
  else if c.belowMinRun n s.applied then c.setFan n { s with state := .stopped, attempt := 0, ends := none }
  else if s.state == .stopped then c.fanStart n
  else c

/-- A fan takes the command that its source gives now; a failed control sensor fires E59 once (R245). -/
def Chip.checkFan (n : Nat) (c : Chip) : Chip :=
  if !c.fanBound n then c
  else
    let r := c.fanCommand n
    let s := c.fan n
    let before := c.fanF n
    let c1 := (((c.setFan n { s with applied := r.1, sensor := r.2 }).fanActs n)).noteLowered n before
    if r.2 && !s.sensor then
      c1.fire 59 (n + (match sidOf (c.attrN tyFan n 7) with
        | some sid => c.sensorBits sid
        | none => 0))
    else c1

/-- The group of a fan enters RUN (R243): a fan with such a command starts. -/
def Chip.fanGroupRuns (n : Nat) (c : Chip) : Chip :=
  if !c.fanBound n then c
  else
    let s := c.fan n
    if s.state == .stall || s.state == .tachLost || c.belowMinRun n s.applied then c else c.fanStart n

/-- SPINUP_WINDOW_END: the attempt succeeds, is followed by a gap, or is the last (R243). -/
def Chip.spinupEnds (n : Nat) (c : Chip) : Chip :=
  let s := c.fan n
  match s.state, s.ends with
  | .spinup, some d =>
    if !c.groupRuns n then c
    else
      let c1 := c.waitUntil d
      if c.attrN tyFan n 4 ≤ s.edges then
        (c1.setFan n { s with
          state := .run, ends := none, attempt := 0, runRpm := s.rpm
          lastEdge := some (s.lastEdge.getD d) }).noteLowered n 65536
      else if s.attempt < 3 then
        (c1.setFan n { s with state := .gap, ends := some (d + sec 5) }).noteLowered n 65536
      else (c1.setFan n { s with state := .stall, ends := none, faultAt := some c1.clk.now }).fire 56 (n + 256 * min 255 s.edges)
  | _, _ => c

/-- GAP_END: a new attempt starts (R243). -/
def Chip.gapEnds (n : Nat) (c : Chip) : Chip :=
  let s := c.fan n
  match s.state, s.ends with
  | .gap, some d =>
    if !c.groupRuns n then c
    else (c.waitUntil d).setFan n { s with
      state := .spinup, attempt := s.attempt + 1, edges := 0, ends := some (d + ms (c.attrN tyFan n 3)) }
  | _, _ => c

/-- PPR of a fan (Table 7.7). -/
def Chip.fanPpr (c : Chip) (n : Nat) : Nat := bits (c.attrN tyFan n 1) 1 3 + 1

/-- Is a fan's output forced (R221, R242)? -/
def Chip.fanIsForced (c : Chip) (n : Nat) : Bool :=
  c.dogs.fanForced || (c.fan n).state == .stall || (c.fan n).state == .tachLost

/-- QUALITY of SPEED_SID (R221). -/
def Chip.fanQuality (c : Chip) (n : Nat) : Half := if c.fanIsForced n then qVALID ||| qSAT else qVALID

/-- TACH_EDGE: a rising tach edge gives the interval and the speed (R242, R243). -/
def Chip.tachEdge (n : Nat) (c : Chip) : Chip :=
  if !(c.fanBound n && c.portActive n) then c
  else
    let s := c.fan n
    let now := c.clk.now
    let s1 := { s with lastEdge := some now, edges := if s.state == .spinup then s.edges + 1 else s.edges }
    match s.lastEdge with
    | none => c.setFan n s1
    | some t =>
      let dt := now - t
      if dt == 0 then c
      else
        let ppr := c.fanPpr n
        let rpm := min 65535 (divr (60 * 40000000) (dt * ppr : Nat)).toNat
        let c1 := c.setFan n { s1 with interval := dt, rpm := rpm, runRpm := if s.state == .run then rpm else s.runRpm }
        if now < s.speedAt + ms 100 then c1
        else (c1.setFan n { c1.fan n with speedAt := now }).produceOpt (sidOf (c.attrN tyFan n 11))
          (sat32 (divr (60 * 40000000 * 65536) (dt * ppr * c.attrN tyFan n 2 : Nat))) (c.fanQuality n) actuatorType n

/-- The tach timeout in force (R244): the shorter of 1 s and four intervals; 1 s for 2 s after any decrease of f. -/
def Chip.tachTimeout (c : Chip) (n : Nat) : Nat :=
  let s := c.fan n
  let recent := match s.loweredAt with
    | some t => decide (c.clk.now < t + sec 2)
    | none => false
  if recent || s.interval == 0 then sec 1 else min (sec 1) (4 * s.interval)

/-- TACH_LOST: no tach edge within the timeout in RUN with f > 0 (R244). -/
def Chip.tachLost (n : Nat) (c : Chip) : Chip :=
  let s := c.fan n
  if s.state != .run || c.fanF n == 0 || !c.groupRuns n then c
  else
    let c1 := c.waitUntil (s.lastEdge.getD c.clk.now + c.tachTimeout n)
    (c1.setFan n { s with state := .tachLost, faultAt := some c1.clk.now }).fire 57 (n + 65536 * s.runRpm)

/-- SPEED_ZERO: no tach edge for 1 s, or none since the port became ACTIVE (R242). -/
def Chip.speedZero (n : Nat) (c : Chip) : Chip :=
  let s := c.fan n
  if !(c.fanBound n && c.portActive n) then c
  else
    let c1 := c.waitUntil (s.lastEdge.getD (c.port n).onAt + sec 1)
    (c1.setFan n { s with speedAt := c1.clk.now }).produceOpt (sidOf (c.attrN tyFan n 11)) 0 (c.fanQuality n) actuatorType n

/-- The ports whose fan is bound. -/
def Chip.boundFans (c : Chip) : List Nat := (List.range 32).filter c.fanBound

/-- FAN_WATCHDOG: FAN_DOG s without a heartbeat (R246). -/
def Chip.fanWatchdog (c : Chip) : Chip :=
  let p := c.attrN tyDevice 0 0x700
  if c.attrN tyDevice 0 0x701 != 1 || !c.dogs.fanArmed || c.dogs.fanForced then c
  else
    let c1 := c.waitUntil (c.dogs.fanBeat + sec p)
    ({ c1 with dogs := { c1.dogs with fanForced := true } }.bite 19).fire 58 (p + 256 * c1.boundFans.length)

/-- The fan watchdog is restarted (R246): it arms, and forcing ends. -/
def Chip.fanBeat (c : Chip) : Chip :=
  let was := c.dogs.fanForced
  let c1 := { c with dogs := { c.dogs with fanBeat := c.clk.now, fanArmed := true, fanForced := false } }
  if was then c1.boundFans.foldl (fun x n => x.noteLowered n 65536) c1 else c1

/-! ### The fraction f of a channel with SRC ACTUATOR (R199) -/

/-- f of a driven motor: ±1.0, the sign following DIR_OPEN (R228 step 2). -/
def drivenF (opening dirOpen : Bool) : Int := if opening != dirOpen then 65536 else -65536

/-- f of the actuator object bound to port `n`, in Q16.16. -/
def Chip.actuatorF (c : Chip) (n : Nat) : Int :=
  if c.motorBound n then
    match (c.motor n).move with
    | some mv => if mv.phase == .drive then drivenF mv.opening (c.motorCfg n).dirOpen else 0
    | none => 0
  else if c.fanBound n then c.fanF n
  else if c.valveBound n then
    let v := c.valve n
    if c.valveKind n == 0 then (if v.boostEnd.isSome then 65536 else v.applied)
    else if c.valveKind n == 2 then
      match v.drive with
      | some (o, _, _, _) => drivenF o (bit (c.attrN tyValve n 1) 5)
      | none => 0
    else 0
  else 0

/-! ### Commands -/

/-- A newer move or re-home ends the running one with SUPERSEDED (Table 7.2); says whether one was running. -/
def Chip.supersede (n : Nat) (c : Chip) : Bool × Chip :=
  if (c.motor n).move.isSome then
    (true, (c.setMotor n { c.motor n with intervalDue := false }).endMove n 8)
  else (false, c)

/-- DAMPER_MOVE (R228, R230). -/
def bodyDamperMove (k : Cmd) (c : Chip) : Res :=
  let n := k.inst
  let t := fld k.payload 0 4
  if k.payload.length != 8 then .badLength c
  else if 0x10000 < t then .badParam 0 c
  else if !zeroAt k.payload 4 4 then .badParam 4 c
  else if !(c.damperBound n && (c.motor n).known) then .err stBusy noOfs c
  else
    let r := c.supersede n
    let c1 := r.2.setMotor n { r.2.motor n with command := some t, overriding := true }
    if c1.beyondDeadband n t then .accepted (c1.beginMove n .move t (some (k.ctx, k.tag)) r.1)
    else
      let c2 := (c1.setMotor n { c1.motor n with overriding := false, outcome := 0 }).fire 60
        (n + 65536 * c1.posField n)
      .acceptedDone stOK noOfs (c2.moveReply n 0) c2

/-- DAMPER_REHOME (R230, R231). -/
def bodyDamperRehome (k : Cmd) (c : Chip) : Res :=
  let n := k.inst
  if k.payload.length != 4 then .badLength c
  else if 1 < fld k.payload 0 1 then .badParam 0 c
  else if !zeroAt k.payload 1 3 then .badParam 1 c
  else if !c.damperBound n then .err stBusy noOfs c
  else
    let r := c.supersede n
    .accepted (r.2.beginMove n (if fld k.payload 0 1 == 0 then .fullClose else .near) ((r.2.motorTarget n).getD 0)
      (some (k.ctx, k.tag)) r.1)

/-- VALVE_SET (R236). -/
def bodyValveSet (k : Cmd) (c : Chip) : Res :=
  let n := k.inst
  let v := fld k.payload 0 4
  if k.payload.length != 4 then .badLength c
  else if 0x10000 < v then .badParam 0 c
  else if (sidOf (c.attrN tyValve n 2)).isSome then .err stBusy noOfs c
  else .ok ((c.setValve n { c.valve n with command := some v }).checkValve n)

/-- FAN_SET (R241). -/
def bodyFanSet (k : Cmd) (c : Chip) : Res :=
  let n := k.inst
  let v := fld k.payload 0 4
  if k.payload.length != 4 then .badLength c
  else if 0x10000 < v then .badParam 0 c
  else if (sidOf (c.attrN tyFan n 6)).isSome || bit (c.attrN tyFan n 1) 4 then .err stBusy noOfs c
  else .ok ((c.setFan n { c.fan n with command := some v }).checkFan n)

/-- ACT_FAULT_CLEAR on a damper (R247): a latching fault of this moment wins. -/
def Chip.clearMotorFaults (n : Nat) (c : Chip) : Chip :=
  if (c.motor n).faultAt == some c.clk.now then c else c.setMotor n { c.motor n with jam := false, openLoad := false }

/-- ACT_FAULT_CLEAR on a fan: a latched one restarts, but for a latching fault of this moment (R243, R247). -/
def Chip.clearFanFaults (n : Nat) (c : Chip) : Chip :=
  let s := c.fan n
  if (s.state == .stall || s.state == .tachLost) && s.faultAt != some c.clk.now then
    ((c.setFan n { s with state := .stopped, attempt := 0, ends := none }).fanActs n).noteLowered n 65536
  else c

/-- ACT_FAULT_CLEAR on a valve (R247). -/
def Chip.clearValveFaults (n : Nat) (c : Chip) : Chip :=
  if (c.valve n).faultAt == some c.clk.now then c else c.setValve n { c.valve n with fault := false }

/-- ACT_FAULT_CLEAR (R247). -/
def bodyActFaultClear (k : Cmd) (c : Chip) : Res :=
  let n := k.inst
  if k.payload.length != 0 then .badLength c
  else if k.ty == tyDamper then .ok (if c.damperBound n then c.clearMotorFaults n else c)
  else if k.ty == tyFan then .ok (if c.fanBound n then c.clearFanFaults n else c)
  else
    let c1 := c.clearValveFaults n
    .ok (if c1.rippleValve n then c1.clearMotorFaults n else c1)

/-- ACTUATOR_SOURCE_CHECK: the bound object looks at its source (R220). -/
def Chip.checkActuator (n : Nat) (c : Chip) : Chip :=
  if c.damperBound n then c.followTarget n
  else if c.fanBound n then c.checkFan n
  else c.checkValve n

/-! ### Meanings -/

/-- DAMPER_MOVE (R230). -/
def execDamperMove (ctx tag : Nat) (s : State) : Host.Outcome State Fault Refusal :=
  .next { s with chip := s.chip.runCmd 4 4 bodyDamperMove ctx tag }

/-- DAMPER_REHOME (R231). -/
def execDamperRehome (ctx tag : Nat) (s : State) : Host.Outcome State Fault Refusal :=
  .next { s with chip := s.chip.runCmd 4 5 bodyDamperRehome ctx tag }

/-- VALVE_SET (R236). -/
def execValveSet (ctx tag : Nat) (s : State) : Host.Outcome State Fault Refusal :=
  .next { s with chip := s.chip.runCmd 4 6 bodyValveSet ctx tag }

/-- FAN_SET (R241). -/
def execFanSet (ctx tag : Nat) (s : State) : Host.Outcome State Fault Refusal :=
  .next { s with chip := s.chip.runCmd 4 7 bodyFanSet ctx tag }

/-- ACT_FAULT_CLEAR (R247). -/
def execActFaultClear (ctx tag : Nat) (s : State) : Host.Outcome State Fault Refusal :=
  .next { s with chip := s.chip.runCmd 4 8 bodyActFaultClear ctx tag }

/-- RIPPLE_LOST (R223). -/
def execRippleLost (port : Nat) (s : State) : Host.Outcome State Fault Refusal :=
  .next { s with chip := s.chip.rippleLost port }

/-- ENDSTOP_TOUCH (R224). -/
def execEndstopTouch (port : Nat) (s : State) : Host.Outcome State Fault Refusal :=
  .next { s with chip := s.chip.touch port }

/-- DAMPER_MOVE_END (R228). -/
def execDamperMoveEnd (port : Nat) (s : State) : Host.Outcome State Fault Refusal :=
  .next { s with chip := s.chip.moveStops port }

/-- DWELL_EXPIRY (R228). -/
def execDwellExpiry (port : Nat) (s : State) : Host.Outcome State Fault Refusal :=
  .next { s with chip := s.chip.dwellEnds port }

/-- DAMPER_OPEN_LOAD (R232). -/
def execDamperOpenLoad (port : Nat) (s : State) : Host.Outcome State Fault Refusal :=
  .next { s with chip := s.chip.motorOpenLoad port }

/-- MAX_RUN_EXPIRY (R231). -/
def execMaxRunExpiry (port : Nat) (s : State) : Host.Outcome State Fault Refusal :=
  .next { s with chip := s.chip.legTimeout port }

/-- REHOME_INT_EXPIRY (R231). -/
def execRehomeIntExpiry (port : Nat) (s : State) : Host.Outcome State Fault Refusal :=
  .next { s with chip := s.chip.rehomeDue port }

/-- DAMPER_TARGET_CHANGE (R228). -/
def execDamperTargetChange (port : Nat) (s : State) : Host.Outcome State Fault Refusal :=
  .next { s with chip := s.chip.followTarget port }

/-- POSITION_WRITE (R226). -/
def execPositionWrite (port : Nat) (s : State) : Host.Outcome State Fault Refusal :=
  .next { s with chip := s.chip.positionRow port }

/-- BOOST_EXPIRY (R237). -/
def execBoostExpiry (port : Nat) (s : State) : Host.Outcome State Fault Refusal :=
  .next { s with chip := s.chip.boostEnds port }

/-- VALVE_OPEN_LOAD (R237). -/
def execValveOpenLoad (port : Nat) (s : State) : Host.Outcome State Fault Refusal :=
  .next { s with chip := s.chip.valveOpen port }

/-- FLOATING_VALVE_DRIVE_END (R239). -/
def execFloatingValveDriveEnd (port : Nat) (s : State) : Host.Outcome State Fault Refusal :=
  .next { s with chip := s.chip.floatEnds port }

/-- SPINUP_WINDOW_END (R243). -/
def execSpinupWindowEnd (port : Nat) (s : State) : Host.Outcome State Fault Refusal :=
  .next { s with chip := s.chip.spinupEnds port }

/-- GAP_END (R243). -/
def execGapEnd (port : Nat) (s : State) : Host.Outcome State Fault Refusal :=
  .next { s with chip := s.chip.gapEnds port }

/-- TACH_EDGE (R242). -/
def execTachEdge (port : Nat) (s : State) : Host.Outcome State Fault Refusal :=
  .next { s with chip := s.chip.tachEdge port }

/-- TACH_LOST (R244). -/
def execTachLost (port : Nat) (s : State) : Host.Outcome State Fault Refusal :=
  .next { s with chip := s.chip.tachLost port }

/-- SPEED_ZERO (R242). -/
def execSpeedZero (port : Nat) (s : State) : Host.Outcome State Fault Refusal :=
  .next { s with chip := s.chip.speedZero port }

/-- ACTUATOR_SOURCE_CHECK (R220). -/
def execActuatorSourceCheck (port : Nat) (s : State) : Host.Outcome State Fault Refusal :=
  .next { s with chip := s.chip.checkActuator port }

/-- FAN_WATCHDOG (R246). -/
def execFanWatchdog (s : State) : Host.Outcome State Fault Refusal :=
  .next { s with chip := s.chip.fanWatchdog }

end Sys2Proof.Machine
end

