-- ==== Sys2Proof/Machine/Clock.lean ====
section
/-! DEFINITION. The Almanac's hardware part (spec/10_almanac_clock_and_schedules.md, R298–R319): the RTC registers as both
ports reach them, setting the time, rate trim, the alarm, the periodic wake and PWR_ON, and the calendar. -/

namespace Sys2Proof.Machine

/-- The largest count with a calendar meaning (R298). -/
def maxCount : Nat := 252455615999

/-- Does the module follow a bellwether: its partition's bellwether is another node (R359)? -/
def Chip.follower (c : Chip) : Bool := c.fabric.bwUid != c.fuses.uid

def Chip.setRtc (f : RtcSt → RtcSt) (c : Chip) : Chip := { c with rtc := f c.rtc }

/-- A port's own shadows and staging (R301, R303). -/
def RtcSt.view (r : RtcSt) : PortSide → RtcView
  | .host => r.hostView
  | .mgmt => r.mgtView

def RtcSt.setView (r : RtcSt) (p : PortSide) (v : RtcView) : RtcSt :=
  match p with
  | .host => { r with hostView := v }
  | .mgmt => { r with mgtView := v }

/-- The seven time bytes RTC_FRAC0–RTC_SEC4 (R298, Table 10.1). -/
def RtcSt.timeBytes (r : RtcSt) : List Byte := leBytes 2 (r.presc * 2) ++ leBytes 5 r.count.toNat

/-- RTC_STAT as a port reads it (Table 10.2). -/
def RtcSt.stat (r : RtcSt) (p : PortSide) : Nat :=
  b2n r.valid + 2 * b2n (r.view p).frozen + 4 * b2n (r.view p).frzTo + 8 * b2n r.timeLost + 16 * b2n r.trimOn
    + 32 * b2n r.wrDenied + 64 * b2n r.alarmF + 128 * b2n r.wakeF

/-- RTC_CTL (Table 10.3). -/
def RtcSt.ctl (r : RtcSt) : Nat :=
  b2n r.pwrOn + 2 * b2n r.alarmEn + 4 * b2n r.alarmPwr + 8 * b2n r.wakeEn + 16 * b2n r.wakePwr

/-! ### Register reads -/

/-- A read of a time byte (R301): it freezes the port's shadows where they are not frozen, answers from them, and a read
of RTC_SEC4 releases them. -/
def Chip.readTimeByte (p : PortSide) (i : Nat) (c : Chip) : Byte × Chip :=
  let v := c.rtc.view p
  let sh := if v.frozen then v.shadow else c.rtc.timeBytes
  let v1 := if v.frozen then v else { v with frozen := true, shadow := sh, release := c.clk.now + sec 1 }
  (sh.getD i 0, c.setRtc (fun r => r.setView p { v1 with frozen := i != 6 }))

/-- One byte of the RTC block as a port reads it. -/
def Chip.rtcReadByte (p : PortSide) (off : Nat) (c : Chip) : Byte × Chip :=
  let r := c.rtc
  if off ≤ 6 then c.readTimeByte p off
  else if off == 7 then (BitVec.ofNat 8 (r.stat p), c)
  else if off == 8 then (BitVec.ofNat 8 r.ctl, c)
  else if off == 10 || off == 11 then ((leBytes 2 r.btemp.toNat).getD (off - 10) 0, c)
  else if off == 12 || off == 13 then ((leBytes 2 r.trim.toNat).getD (off - 12) 0, c)
  else if 0x10 ≤ off && off ≤ 0x14 then ((leBytes 5 r.alm.toNat).getD (off - 0x10) 0, c)
  else if 0x18 ≤ off && off ≤ 0x1B then ((leBytes 4 r.wake.toNat).getD (off - 0x18) 0, c)
  else if 0x40 ≤ off && off ≤ 0x7F then (Tbl.get dByte0 r.bkp (off - 0x40), c)
  else (0, c)

/-! ### Alarm, wake and PWR_ON (R310–R313) -/

/-- PWR_ON is asserted (R312). -/
def RtcSt.assertPwr (r : RtcSt) : RtcSt := { r with pwrOn := true, pwrNow := true }

/-- PWR_ON is released; an assertion at the same instant wins (R312). -/
def RtcSt.releasePwr (r : RtcSt) : RtcSt := { r with pwrOn := r.pwrOn && r.pwrNow }

/-- E77 (R310, R313, Table 10.9). -/
def Chip.alarmFires (pwr bySet : Bool) (c : Chip) : Chip := c.fire 77 (b2n pwr + 2 * b2n (!c.power.main.up) + 4 * b2n bySet)

/-- The event of an alarm that the count has reached (R310). -/
def Chip.takeAlarm (c : Chip) : Chip :=
  match c.rtc.almMatch with
  | none => c
  | some pwr => (c.setRtc (fun r => { r with almMatch := none })).alarmFires pwr false

/-- E78 of a wake that has fallen due (R311, R313).  While the main side is down the wakes are counted for the one E78 of the
next boot. -/
def Chip.wakeFires (c : Chip) : Chip :=
  let n := c.rtc.wakesSince + 1
  let c1 := (c.setRtc (fun r => { r with
      wakeDue := r.wakeDue - 1, wakesSince := if c.power.main.up then 0 else n })).fire 78
    (b2n c.rtc.wakePwr + 2 * b2n (!c.power.main.up) + min n 0xFFFF * 65536)
  if c.power.main.up then c1
  else { c1 with power := { c1.power with
    lateEvents := Tbl.modify dEvent c1.power.lateEvents 78 (fun s => { s with count := 1 }) } }

/-- Let `k` raw resonator ticks pass. -/
def Chip.waitTicks (k : Nat) (c : Chip) : Chip :=
  c.advance (ceilDiv (40000000 * k - c.rtc.osc) 32768)

/-- Let time pass until the count with its fraction reaches `t` ticks, with what trim moves meanwhile (R307). -/
def Chip.waitTotal (t : Nat) (c : Chip) : Chip :=
  if c.rtc.total < t then c.waitTicks (c.rtc.rawTicks t 256 0) else c

/-- ALARM: the count becomes equal to RTC_ALM by increment (R310). -/
def Chip.alarmRow (c : Chip) : Chip :=
  (if c.rtc.almMatch.isNone && c.rtc.alarmEn && decide (c.rtc.count.toNat < c.rtc.alm.toNat) then
    c.waitTotal (c.rtc.alm.toNat * 32768) else c).takeAlarm

/-- WAKE: the count, with its fraction, is a whole multiple of the period (R311). -/
def Chip.wakeRow (c : Chip) : Chip :=
  let p := wakeTicks c.rtc.wake.toNat
  let c1 := if c.rtc.wakeDue == 0 && c.rtc.wakeEn && p != 0 then c.waitTotal ((c.rtc.total / p + 1) * p) else c
  if 0 < c1.rtc.wakeDue then c1.wakeFires else c1

/-! ### Setting the time (R303–R305) -/

/-- Fabric time of a count (R355). -/
def fabricOf (count : Nat) : Nat := count * 1000000

/-- Commit a count (R303, R305): the prescaler resets, RTC_VALID sets, a new trim interval starts with the residual kept, an
armed alarm that is stepped over fires, a count that is a whole multiple of the wake period is a wake (R311), the schedules are to be
evaluated, and on a module that follows no bellwether fabric time steps. -/
def Chip.commitTime (n : Nat) (c : Chip) : Chip :=
  let old := c.rtc.count.toNat
  let crossed := c.rtc.alarmEn && decide (old < c.rtc.alm.toNat) && decide (c.rtc.alm.toNat ≤ n)
  let p := wakeTicks c.rtc.wake.toNat
  let wake := c.rtc.wakeEn && p != 0 && n * 32768 % p == 0
  let pwr := (crossed && c.rtc.alarmPwr) || (wake && c.rtc.wakePwr)
  let c1 := c.setRtc (fun r => { r with
    count := BitVec.ofNat 40 n, presc := 0, osc := 0, valid := true, trimTicks := 1048576,
    trimMoved := r.trim.toInt.natAbs, byFabric := c.follower, alarmF := r.alarmF || crossed, alarmEn := r.alarmEn && !crossed,
    wakeF := r.wakeF || wake, wakeDue := r.wakeDue + b2n wake, pwrOn := r.pwrOn || pwr, pwrNow := r.pwrNow || pwr })
  let c2 := { c1 with
    almanac := { c1.almanac with evalDue := some 4 }
    clk := if c.follower then c1.clk else { c1.clk with fabUs := fabricOf n, fabAcc := 0 }
    fabric := if c.follower then c1.fabric else { c1.fabric with steps := c1.fabric.steps + 1 } }
  if crossed then c2.alarmFires c.rtc.alarmPwr true else c2

/-- Is a register write to the RTC block judged as the owner's (R300, R452)? -/
def Chip.rtcOwnerOk (p : PortSide) (c : Chip) : Bool :=
  match p with
  | .host => !c.ownerIsMgt (handle tyClock 0)
  | .mgmt => c.ownerIsMgt (handle tyClock 0) || !c.power.main.up

/-- Does a follower refuse a time write of this port (R300, R452)? -/
def Chip.rtcFollows (p : PortSide) (c : Chip) : Bool :=
  c.follower && !(p == .mgmt && !c.power.main.up)

def Chip.rtcDeny (c : Chip) : Chip := c.setRtc (fun r => { r with wrDenied := true })

/-- A write of RTC_SEC0–RTC_SEC3 (R303). -/
def Chip.stageSec (p : PortSide) (i : Nat) (v : Byte) (c : Chip) : Chip :=
  if !c.rtcOwnerOk p || c.rtcFollows p then c.rtcDeny
  else c.setRtc (fun r => r.setView p { r.view p with staging := (r.view p).staging.set i v })

/-- A write of RTC_SEC4 (R303): it commits the writing port's staged count. -/
def Chip.commitSec4 (p : PortSide) (v : Byte) (c : Chip) : Chip :=
  let st := (c.rtc.view p).staging.set 4 v
  if !c.rtcOwnerOk p || c.rtcFollows p || maxCount < leNat st then c.rtcDeny
  else (c.setRtc (fun r => r.setView p { r.view p with staging := st })).commitTime (leNat st)

/-- A write of RTC_CTL (Table 10.3, R312). -/
def Chip.writeCtl (p : PortSide) (v : Byte) (c : Chip) : Chip :=
  if !c.rtcOwnerOk p then c.rtcDeny
  else
    let n := v.toNat
    c.setRtc (fun r => { (if bit n 0 then r.assertPwr else r.releasePwr) with
      alarmEn := bit n 1, alarmPwr := bit n 2, wakeEn := bit n 3, wakePwr := bit n 4 })

/-- A write of RTC_STAT: W1C flags, FRZ_TO in the writing port's own copy (Table 10.2). -/
def Chip.writeStat (p : PortSide) (v : Byte) (c : Chip) : Chip :=
  if !c.rtcOwnerOk p then c.rtcDeny
  else
    let n := v.toNat
    c.setRtc (fun r => { r with
      timeLost := r.timeLost && !bit n 3, wrDenied := r.wrDenied && !bit n 5, alarmF := r.alarmF && !bit n 6,
      wakeF := r.wakeF && !bit n 7 }.setView p { r.view p with frzTo := (r.view p).frzTo && !bit n 2 })

/-- Is an offset of the RTC block a register that may be written (Table 10.1)? -/
def rtcWritable (off : Nat) : Bool :=
  decide (off ≤ 8) || (decide (0x10 ≤ off) && decide (off ≤ 0x14))
    || (decide (0x18 ≤ off) && decide (off ≤ 0x1B)) || (decide (0x40 ≤ off) && decide (off ≤ 0x7F))

/-- Is an offset of the RTC block a register, whose writes R300 judges: those, and RTC_BTEMP and RTC_TRIM (Table 10.1)? -/
def rtcJudged (off : Nat) : Bool := rtcWritable off || (decide (10 ≤ off) && decide (off ≤ 13))

/-- Replace byte `i` of a little-endian number of `w` bytes. -/
def setByte (w n i : Nat) (v : Byte) : Nat := leNat ((leBytes w n).set i v)

/-- A write of one byte of the RTC block (R299–R303, R306). -/
def Chip.rtcWriteByte (p : PortSide) (off : Nat) (v : Byte) (c : Chip) : Chip :=
  if off ≤ 1 then (if c.rtcOwnerOk p then c else c.rtcDeny)
  else if off ≤ 5 then c.stageSec p (off - 2) v
  else if off == 6 then c.commitSec4 p v
  else if off == 7 then c.writeStat p v
  else if off == 8 then c.writeCtl p v
  else if !rtcJudged off then c
  else if !c.rtcOwnerOk p || (decide (0x40 ≤ off) && decide (off < 0x74)) then c.rtcDeny
  else if off ≤ 13 then c
  else if off ≤ 0x14 then c.setRtc (fun r => { r with alm := BitVec.ofNat 40 (setByte 5 r.alm.toNat (off - 0x10) v) })
  else if off ≤ 0x1B then
    c.setRtc (fun r => { r with wake := BitVec.ofNat 32 (setByte 4 r.wake.toNat (off - 0x18) v &&& 0xF001FFFF) })
  else c.setRtc (fun r => { r with bkp := Tbl.set dByte0 r.bkp (off - 0x40) v })

/-! ### Rate trim and the ephemeris table (R306–R309) -/

/-- The 52 bytes POINTS, NPTS, reserved and ECRC (Table 10.5). -/
def Chip.ephBytes (c : Chip) : List Byte := Tbl.getRun dByte0 c.rtc.bkp 0 52

/-- ECRC matches and NPTS is in 2–16 (R307). -/
def ephValid (b : List Byte) : Bool :=
  b.length == 52 && crc16 (b.take 50) == fld b 50 2 && decide (2 ≤ fld b 48 1) && decide (fld b 48 1 ≤ 16)

/-- Temperature of point `i`, whole °C. -/
def ephT (b : List Byte) (i : Nat) : Int := signed 8 (fld b (3 * i) 1)

/-- Error of point `i`, 1/64 ppm. -/
def ephErr (b : List Byte) (i : Nat) : Int := signed 16 (fld b (3 * i + 1) 2)

/-- ERR between the points, from point `i` on (R307 step 2). -/
def ephFind (b : List Byte) (t : Int) (npts i : Nat) : Nat → Int
  | 0 => ephErr b (npts - 1)
  | n + 1 =>
    if t < 16 * ephT b (i + 1) then
      ephErr b i + divr ((t - 16 * ephT b i) * (ephErr b (i + 1) - ephErr b i)) (16 * (ephT b (i + 1) - ephT b i))
    else ephFind b t npts (i + 1) n

/-- ERR at temperature `t`, in 1/16 °C (R307 step 2). -/
def ephErrAt (b : List Byte) (t : Int) : Int :=
  let n := fld b 48 1
  if t ≤ 16 * ephT b 0 then ephErr b 0
  else if 16 * ephT b (n - 1) ≤ t then ephErr b (n - 1)
  else ephFind b t n 0 (n - 1)

/-- The tick arithmetic of R307 step 3: n and the new residual. -/
def trimStep (err residual : Int) : Int × Int :=
  let acc := err * 1048576 + residual
  let n := divr acc 64000000
  (n, acc - n * 64000000)

/-- TRIM_INTERVAL: a trim interval starts with a measured temperature (R307). -/
def Chip.trimInterval (temp : Int) (c : Chip) : Chip :=
  let c1 := if c.rtc.trimTicks < 1048576 then c.waitTicks (1048576 - c.rtc.trimTicks) else c
  let b := c1.ephBytes
  let on := ephValid b
  let nr := if on then trimStep (ephErrAt b temp) c1.rtc.residual else (0, c1.rtc.residual)
  c1.setRtc (fun r => { r with
    btemp := BitVec.ofInt 16 temp, trimOn := on, trim := BitVec.ofInt 16 nr.1, residual := nr.2, trimTicks := 0,
    trimMoved := 0 })

/-- Write the ephemeris part of backup RAM in one step (R308). -/
def Chip.writeEph (b : List Byte) (c : Chip) : Chip :=
  c.setRtc (fun r => { r with bkp := Tbl.setRun dByte0 r.bkp 0 b })

/-- The first offset at which an EPHEMERIS_WRITE payload breaks R308, if any. -/
def ephBad (p : List Byte) : Option Nat :=
  let n := fld p 0 1
  if n < 2 || 16 < n then some 0
  else if !zeroAt p 1 3 then some 1
  else
    let pts := slice p 4 48
    (List.range 16).findSome? (fun i =>
      if n ≤ i then (if zeroAt pts (3 * i) 3 then none else some (4 + 3 * i))
      else if ephErr pts i < -16000 || 16000 < ephErr pts i then some (5 + 3 * i)
      else if 0 < i && ephT pts i ≤ ephT pts (i - 1) then some (4 + 3 * i)
      else none)

/-- POINTS, NPTS and ECRC of a valid EPHEMERIS_WRITE payload (Table 10.5). -/
def ephImage (p : List Byte) : List Byte :=
  let b := slice p 4 48 ++ [BitVec.ofNat 8 (fld p 0 1), 0]
  b ++ leBytes 2 (crc16 b)

/-- EPHEMERIS_READ (R308). -/
def bodyEphemerisRead (k : Cmd) (c : Chip) : Res :=
  let p := k.payload
  if p.length != 4 then .badLength c
  else if 1 < fld p 0 1 then .badParam 0 c
  else if !zeroAt p 1 3 then .badParam 1 c
  else
    let b := if fld p 0 1 == 0 then c.ephBytes else c.almanac.ephFlash ++ zeros (52 - c.almanac.ephFlash.length)
    let ok := ephValid b && (fld p 0 1 == 0 || c.almanac.ephFlashValid)
    .okWith ([BitVec.ofNat 8 (b2n ok), b.getD 48 0, 0, 0] ++ b.take 48) c

/-- EPHEMERIS_WRITE (R308). -/
def bodyEphemerisWrite (k : Cmd) (c : Chip) : Res :=
  if k.payload.length != 52 then .badLength c
  else match ephBad k.payload with
    | some o => .badParam o c
    | none =>
      if c.almanac.ephWriting.isSome then .err stBusy noOfs c
      else .accepted { (c.writeEph (ephImage k.payload)) with
        almanac := { c.almanac with ephWriting := some (k.ctx, k.tag), ephFlashValid := false } }

/-- EPHEMERIS_FLASH_DONE: the flash copy has been programmed and read back (R308, R524). -/
def Chip.ephFlashDone (ok : Bool) (c : Chip) : Chip :=
  match c.almanac.ephWriting with
  | none => c
  | some (ctx, tag) =>
    let c1 := { c with almanac := { c.almanac with ephWriting := none } }
    if ok then
      { c1 with almanac := { c1.almanac with ephFlash := c1.ephBytes, ephFlashValid := true } }.finishTag ctx tag stOK noOfs []
    else (c1.logFault 6 1).finishTag ctx tag stStoreWriteFail noOfs []

/-! ### Calendar (R317–R319) -/

def isLeap (y : Nat) : Bool := y % 4 == 0 && (y % 100 != 0 || y % 400 == 0)

def monthDays (y m : Nat) : Nat :=
  if m == 2 then (if isLeap y then 29 else 28)
  else if m == 4 || m == 6 || m == 9 || m == 11 then 30
  else 31

/-- Leap years in 2000 to `y` − 1. -/
def leapsBefore (y : Nat) : Nat :=
  if y ≤ 2000 then 0
  else ((y - 1) / 4 - (y - 1) / 100 + (y - 1) / 400) - (1999 / 4 - 1999 / 100 + 1999 / 400)

/-- Days from the epoch to 1 January of year `y`. -/
def yearDays (y : Nat) : Nat := (y - 2000) * 365 + leapsBefore y

/-- Days from the epoch to a date. -/
def dateDays (y m d : Nat) : Nat :=
  yearDays y + ((List.range (m - 1)).map (fun i => monthDays y (i + 1))).sum + (d - 1)

/-- Weekday of day `d`, Monday 0 (R317). -/
def weekday (d : Nat) : Nat := (d + 5) % 7

/-- The offset in minutes at a UTC count (R318). -/
def offsetAt (base : Int) (tr : List (Nat × Int)) (n : Nat) : Int :=
  tr.foldl (fun o t => if t.1 ≤ n then t.2 else o) base

/-- The first field of a calendar time that cannot exist, as a payload offset of Table 10.7 (R319). -/
def dateBad (p : List Byte) : Option Nat :=
  let y := fld p 4 2
  let m := fld p 6 1
  let d := fld p 7 1
  if y < 2000 || 9999 < y then some 4
  else if m < 1 || 12 < m then some 6
  else if d < 1 || monthDays y m < d then some 7
  else if 23 < fld p 8 1 then some 8
  else if 59 < fld p 9 1 then some 9
  else if 59 < fld p 10 1 then some 10
  else none

/-- Seconds from the epoch of a calendar time read as UTC. -/
def dateSeconds (p : List Byte) : Nat :=
  dateDays (fld p 4 2) (fld p 6 1) (fld p 7 1) * 86400 + fld p 8 1 * 3600 + fld p 9 1 * 60 + fld p 10 1

/-- The UTC counts of a local time, the earliest first occurrence (R319): each candidate offset must be the one in force. -/
def localToUtc (base : Int) (tr : List (Nat × Int)) (l : Nat) : Option Nat :=
  let cands := (base :: tr.map (·.2)).filterMap (fun o =>
    let u : Int := (l : Int) - 60 * o
    if 0 ≤ u && offsetAt base tr u.toNat == o then some u.toNat else none)
  cands.foldl (fun best u => match best with
    | some b => some (min b u)
    | none => some u) none

/-- The count that a TIME_SET asks for, or the status and offset that refuse it (R304, R319, Table 10.7). -/
def timeSetCount (c : Chip) (p : List Byte) : Except (Nat × Nat) Nat :=
  let form := fld p 0 1
  if 2 < form then .error (stBadParam, 16)
  else if !zeroAt p 1 3 then .error (stBadParam, 17)
  else if form == 0 then
    if maxCount < fld p 4 8 then .error (stBadParam, 20) else .ok (fld p 4 8)
  else if !zeroAt p 11 1 then .error (stBadParam, 27)
  else match dateBad p with
    | some o => .error (stImpossibleDate, 16 + o)
    | none =>
      if form == 1 then
        if maxCount < dateSeconds p then .error (stImpossibleDate, 20) else .ok (dateSeconds p)
      else match localToUtc c.almanac.base c.almanac.transitions (dateSeconds p) with
        | some u => if maxCount < u then .error (stImpossibleDate, 20) else .ok u
        | none => .error (stImpossibleDate, 20)

/-- TIME_SET (R304). -/
def bodyTimeSet (k : Cmd) (c : Chip) : Res :=
  if k.payload.length != 12 then .badLength c
  else match timeSetCount c k.payload with
    | .error e => .err e.1 e.2 c
    | .ok n =>
      if c.follower then .err stBusy noOfs c
      else .okWith (leBytes 8 n) (c.commitTime n)

/-- TIME_CAPTURE: the values at the next prescaler tick edge (R302, Table 10.6). -/
def bodyTimeCapture (k : Cmd) (c : Chip) : Res :=
  if k.payload.length != 0 then .badLength c
  else
    let c1 := c.waitTicks 1
    let ts := decide (protoVer 3 2 ≤ k.ver) && c1.clk.refRun
    .okWith (leBytes 5 c1.rtc.count.toNat
      ++ [BitVec.ofNat 8 (b2n c1.rtc.valid + 2 * b2n c1.follower + 4 * b2n c1.rtc.timeLost + 8 * b2n ts)]
      ++ leBytes 2 (c1.rtc.presc * 2) ++ leBytes 4 (if ts then c1.clk.transit else 0) ++ leBytes 4 c1.stamp.toNat) c1

/-- A transition record of CALENDAR_SET (R318). -/
def transitionAt (p : List Byte) (i : Nat) : Nat × Int := (fld p (4 + 8 * i) 5, signed 16 (fld p (10 + 8 * i) 2))

/-- Is an offset in minutes in its range (R318)? -/
def offsetOk (o : Int) : Bool := decide (-720 ≤ o) && decide (o ≤ 840)

/-- The first offset at which a CALENDAR_SET payload breaks R318, if any. -/
def calendarBad (p : List Byte) : Option Nat :=
  if !offsetOk (signed 16 (fld p 0 2)) then some 0
  else if !zeroAt p 3 1 then some 3
  else (List.range (fld p 2 1)).findSome? (fun i =>
    if !zeroAt p (9 + 8 * i) 1 then some (9 + 8 * i)
    else if !offsetOk (transitionAt p i).2 then some (10 + 8 * i)
    else if 0 < i && (transitionAt p i).1 ≤ (transitionAt p (i - 1)).1 then some (4 + 8 * i)
    else none)

/-- Take a calendar (R318): at once, and the schedules are to be evaluated (R324). -/
def Chip.setCalendar (p : List Byte) (c : Chip) : Chip :=
  { c with almanac := { c.almanac with
    base := signed 16 (fld p 0 2)
    transitions := (List.range (fld p 2 1)).map (transitionAt p)
    evalDue := some 4 } }

/-- CALENDAR_SET (R318). -/
def bodyCalendarSet (k : Cmd) (c : Chip) : Res :=
  let p := k.payload
  if p.length < 4 then .badLength c
  else if 16 < fld p 2 1 then .badParam 2 c
  else if p.length != 4 + 8 * fld p 2 1 then .badLength c
  else match calendarBad p with
    | some o => .badParam o c
    | none => .ok (c.setCalendar p)

/-- WAKE_SET (R311). -/
def bodyWakeSet (k : Cmd) (c : Chip) : Res :=
  let p := k.payload
  if p.length != 8 then .badLength c
  else if !wakeValid (fld p 0 4) then .badParam 0 c
  else if 3 < fld p 4 1 then .badParam 4 c
  else if !zeroAt p 5 3 then .badParam 5 c
  else .ok (c.setRtc (fun r => { r with
    wake := BitVec.ofNat 32 (fld p 0 4), wakeEn := bit (fld p 4 1) 0, wakePwr := bit (fld p 4 1) 1 }))

/-- ALARM_SET (R310, R312). -/
def bodyAlarmSet (k : Cmd) (c : Chip) : Res :=
  let p := k.payload
  let f := fld p 5 1
  if p.length != 8 then .badLength c
  else if 15 < f || (bit f 2 && bit f 3) then .badParam 5 c
  else if !zeroAt p 6 2 then .badParam 6 c
  else if bit f 0 && decide (fld p 0 5 ≤ c.rtc.count.toNat) then .badParam 0 c
  else .ok (c.setRtc (fun r => { (if bit f 2 then r.assertPwr else if bit f 3 then r.releasePwr else r) with
    alm := BitVec.ofNat 40 (fld p 0 5), alarmEn := bit f 0, alarmPwr := bit f 1 }))

/-! ### Backup-domain reset (R314–R316) -/

/-- BACKUP_DOMAIN_RESET: every register of Table 10.1 takes its reset value and backup RAM reads 0 (R316). -/
def Chip.backupReset (c : Chip) : Chip := { c with rtc := resetRtc }

/-! ### Meanings -/

/-- TIME_CAPTURE (R302). -/
def execTimeCapture (ctx tag : Nat) (s : State) : Host.Outcome State Fault Refusal :=
  .next { s with chip := s.chip.runCmd 7 0 bodyTimeCapture ctx tag }

/-- TIME_SET (R304). -/
def execTimeSet (ctx tag : Nat) (s : State) : Host.Outcome State Fault Refusal :=
  .next { s with chip := s.chip.runCmd 7 1 bodyTimeSet ctx tag }

/-- CALENDAR_SET (R318). -/
def execCalendarSet (ctx tag : Nat) (s : State) : Host.Outcome State Fault Refusal :=
  .next { s with chip := s.chip.runCmd 7 2 bodyCalendarSet ctx tag }

/-- WAKE_SET (R311). -/
def execWakeSet (ctx tag : Nat) (s : State) : Host.Outcome State Fault Refusal :=
  .next { s with chip := s.chip.runCmd 7 3 bodyWakeSet ctx tag }

/-- ALARM_SET (R310). -/
def execAlarmSet (ctx tag : Nat) (s : State) : Host.Outcome State Fault Refusal :=
  .next { s with chip := s.chip.runCmd 7 4 bodyAlarmSet ctx tag }

/-- EPHEMERIS_READ (R308). -/
def execEphemerisRead (ctx tag : Nat) (s : State) : Host.Outcome State Fault Refusal :=
  .next { s with chip := s.chip.runCmd 7 5 bodyEphemerisRead ctx tag }

/-- EPHEMERIS_WRITE (R308). -/
def execEphemerisWrite (ctx tag : Nat) (s : State) : Host.Outcome State Fault Refusal :=
  .next { s with chip := s.chip.runCmd 7 6 bodyEphemerisWrite ctx tag }

/-- EPHEMERIS_FLASH_DONE (R308). -/
def execEphemerisFlashDone (ok : Bool) (s : State) : Host.Outcome State Fault Refusal :=
  .next { s with chip := s.chip.ephFlashDone ok }

/-- RTC_TIME_READ (R301): the byte read is what the port drives. -/
def execRtcTimeRead (port : PortSide) (index : Nat) (s : State) : Host.Outcome State Fault Refusal :=
  .next { s with chip :=
    if 6 < index || (port == .host && !s.chip.power.main.up) then s.chip
    else
      let r := s.chip.readTimeByte port index
      match port with
      | .host => { r.2 with host := { r.2.host with driven := [r.1] } }
      | .mgmt => { r.2 with mgt := { r.2.mgt with driven := some [r.1] } } }

/-- RTC_SHADOW_TIMEOUT (R301). -/
def execRtcShadowTimeout (port : PortSide) (s : State) : Host.Outcome State Fault Refusal :=
  .next { s with chip :=
    if (s.chip.rtc.view port).frozen then
      (s.chip.waitUntil (s.chip.rtc.view port).release).setRtc (fun r =>
        r.setView port { r.view port with frozen := false, frzTo := true })
    else s.chip }

/-- RTC_SEC_STAGE (R303). -/
def execRtcSecStage (port : PortSide) (index : Nat) (value : Byte) (s : State) : Host.Outcome State Fault Refusal :=
  .next { s with chip :=
    if 3 < index || (port == .host && !s.chip.power.main.up) then s.chip else s.chip.stageSec port index value }

/-- RTC_SEC4_COMMIT (R303). -/
def execRtcSec4Commit (port : PortSide) (value : Byte) (s : State) : Host.Outcome State Fault Refusal :=
  .next { s with chip := if port == .host && !s.chip.power.main.up then s.chip else s.chip.commitSec4 port value }

/-- PWR_ON_ASSERT (R312). -/
def execPwrOnAssert (port : PortSide) (s : State) : Host.Outcome State Fault Refusal :=
  .next { s with chip :=
    if port == .host && !s.chip.power.main.up then s.chip
    else if !s.chip.rtcOwnerOk port then s.chip.rtcDeny
    else s.chip.setRtc RtcSt.assertPwr }

/-- PWR_ON_RELEASE (R312). -/
def execPwrOnRelease (port : PortSide) (s : State) : Host.Outcome State Fault Refusal :=
  .next { s with chip :=
    if port == .host && !s.chip.power.main.up then s.chip
    else if !s.chip.rtcOwnerOk port then s.chip.rtcDeny
    else s.chip.setRtc RtcSt.releasePwr }

/-- ALARM (R310). -/
def execAlarm (s : State) : Host.Outcome State Fault Refusal := .next { s with chip := s.chip.alarmRow }

/-- WAKE (R311). -/
def execWake (s : State) : Host.Outcome State Fault Refusal := .next { s with chip := s.chip.wakeRow }

/-- TRIM_INTERVAL (R307). -/
def execTrimInterval (temp : Int) (s : State) : Host.Outcome State Fault Refusal :=
  .next { s with chip := s.chip.trimInterval temp }

/-- BACKUP_DOMAIN_RESET (R316). -/
def execBackupDomainReset (s : State) : Host.Outcome State Fault Refusal :=
  .next { s with chip := s.chip.backupReset }

end Sys2Proof.Machine
end

