-- ==== Sys2Proof/Machine/Curves.lean ====
section
/-! DEFINITION. The resistive sensor curves of Table 4.2, evaluated on a resistance `num/den` in kΩ to Q16.16 °C.  R174 asks
for an error below 0.001 °C; Machine/Sampler.lean adds the part that the specification leaves open. -/

namespace Sys2Proof.Machine

/-- Is the Pt1000 resistance at `n/65536` °C at most `num/den` kΩ?  IEC 60751: 1 + A t + B t² + C (t − 100) t³ (C below
0 °C only), scaled by 10^15 · 2^64 (coefficients: PRESUMED, the standard's; log entry 32). -/
def ptBelow (num den : Int) (n : Int) : Bool :=
  let c := if n < 0 then -4183 * (n - 6553600) * n ^ 3 else 0
  decide ((10 ^ 15 * 2 ^ 64 + 39083 * 10 ^ 8 * n * 2 ^ 48 - 5775 * 10 ^ 5 * n ^ 2 * 2 ^ 32 + c) * den ≤ num * (10 ^ 15 * 2 ^ 64))

/-- The same for Ni1000, DIN 43760: 1 + 5.485·10⁻³ t + 6.65·10⁻⁶ t² + 2.805·10⁻¹¹ t⁴ − 2·10⁻¹⁷ t⁶, scaled by
10^17 · 2^96 (coefficients: PRESUMED, the standard's; log entry 32). -/
def niBelow (num den : Int) (n : Int) : Bool :=
  decide ((10 ^ 17 * 2 ^ 96 + 5485 * 10 ^ 11 * n * 2 ^ 80 + 665 * 10 ^ 9 * n ^ 2 * 2 ^ 64 + 2805 * 10 ^ 3 * n ^ 4 * 2 ^ 32
    - 2 * n ^ 6) * den ≤ num * (10 ^ 17 * 2 ^ 96))

/-- The largest `n` in `[lo, lo + 2^k)` for which `below` holds, by bisection (`lo` where it holds nowhere). -/
def bisect (below : Int → Bool) : Nat → Int → Int
  | 0, lo => lo
  | k + 1, lo => if below (lo + 2 ^ k) then bisect below k (lo + 2 ^ k) else bisect below k lo

/-- `Σ z^(2i+1)/(2i+1)` in units of 2^-96, for `z = a/2^96`. -/
def atanhSum (a : Nat) : Nat → Nat → Nat → Nat
  | 0, _, _ => 0
  | f + 1, i, p => p / (2 * i + 1) + atanhSum a f (i + 1) (p * a / 2 ^ 96 * a / 2 ^ 96)

/-- ln(num/den) in units of 2^-96, for positive `num` and `den`. -/
def lnFixed (num den : Nat) : Int :=
  let k : Int := (num.log2 : Int) - den.log2
  let y := if 0 ≤ k then (num, den * 2 ^ k.toNat) else (num * 2 ^ (-k).toNat, den)
  let neg := decide (y.1 < y.2)
  let d := if neg then y.2 - y.1 else y.1 - y.2
  let z := d * 2 ^ 96 / (y.1 + y.2)
  let l : Int := 2 * atanhSum z 60 0 z
  k * 54916777467707473351141471128 + (if neg then -l else l)

/-- The NTC curve of R128: 1/T = 1/298.15 K + ln(R/R25)/β, R = num/den kΩ, R25 in Ω.  A resistance of 0 reads hot. -/
def ntcCurve (num den r25 beta : Nat) : Int :=
  if num = 0 ∨ den = 0 ∨ r25 = 0 then 1000 * 65536
  else
    let l := lnFixed (num * 1000) (den * r25)
    let d : Int := (beta : Int) * 20 * 2 ^ 96 + 5963 * l
    if d ≤ 0 then 1000 * 65536
    else divr ((beta : Int) * 5963 * 65536 * 2 ^ 96 * 20 - 5463 * 65536 * d) (20 * d)

/-- The curve of SENSOR (Table 4.2) in Q16.16 °C, before the clamp to the reported range. -/
def sensorCurve (sensor num den r25 beta : Nat) : Int :=
  if sensor == 0 then ntcCurve num den r25 beta
  else if sensor == 1 then bisect (ptBelow num den) 27 (-201 * 65536)
  else bisect (niBelow num den) 26 (-61 * 65536)

/-- The reported range of SENSOR (Table 4.2), in °C. -/
def sensorRange (sensor : Nat) : Int × Int :=
  if sensor == 0 then (-55, 150) else if sensor == 1 then (-200, 850) else (-60, 250)

end Sys2Proof.Machine
end

