-- ==== Sys2Proof/Machine/Orrery.lean ====
section
/-! DEFINITION. The Orrery (spec/09_orrery_zones_and_presence.md): zone models, plausibility and substitution, on-line
fitting, presence fusion and predictions. -/

namespace Sys2Proof.Machine

/-! ### A zone's settings (Tables 9.1–9.5) -/

def Chip.zoneEn (c : Chip) (z : Nat) : Bool := bit (c.zoneCfg z) 0

def Chip.zonePlaus (c : Chip) (z : Nat) : Bool := bit (c.zoneCfg z) 4
def Chip.zoneSubst (c : Chip) (z : Nat) : Bool := bit (c.zoneCfg z) 5
def Chip.zoneFitAuto (c : Chip) (z : Nat) : Bool := bit (c.zoneCfg z) 6

/-- Is presence fused for the zone? -/
def Chip.zonePres (c : Chip) (z : Nat) : Bool := c.zoneEn z && bit (c.zoneCfg z) 7

/-- UPDATE_S. -/
def Chip.zonePeriod (c : Chip) (z : Nat) : Nat := c.attrN tyZone z 2

/-- Entry `i` of a coefficient attribute: VALUE and SHIFT (Table 9.3). -/
def Chip.zoneCoef (c : Chip) (z a i : Nat) : Int × Nat :=
  let e := slice (c.attr tyZone z a) (8 * i) 8
  (fldI32 e 0, bits (fld e 4 1) 0 6)

/-- A[k][j] in use: row 0 is the adopted one where there is one (R289). -/
def Chip.zoneA (c : Chip) (z k j : Nat) : Int × Nat :=
  let e := c.zoneCoef z 7 (k * c.zoneNodes z + j)
  match (c.zone z).adopted, k with
  | some row, 0 => (row.getD j 0, e.2)
  | _, _ => e

/-- B[k][i] in use. -/
def Chip.zoneB (c : Chip) (z k i : Nat) : Int × Nat :=
  let e := c.zoneCoef z 8 (k * 6 + i)
  match (c.zone z).adopted, k with
  | some row, 0 => (row.getD (c.zoneNodes z + i) 0, e.2)
  | _, _ => e

def Chip.zoneL (c : Chip) (z k : Nat) : Int × Nat := c.zoneCoef z 9 k

/-- Input record `i` (Table 9.4). -/
def Chip.zoneInput (c : Chip) (z i : Nat) : List Byte := slice (c.attr tyZone z 6) (12 * i) 12

/-- Presence source record `i` (Table 9.5). -/
def Chip.presSource (c : Chip) (z i : Nat) : List Byte := slice (c.attr tyZone z 13) (4 * i) 4

/-! ### Inputs and the sensor copy (R277, R281) -/

/-- What an input record gives with node 0 at `x0`: its value where the slots it needs are usable, and whether one carries
REMOTE. -/
def Chip.readInput (c : Chip) (z : Nat) (rec : List Byte) (x0 : Int) : Option Int × Bool :=
  let kind := fld rec 0 1
  let a := fld rec 2 2
  let b := fld rec 4 2
  let slotOf := fun f => match sidOf f with
    | some sid => if c.slotUsable sid then some (c.slot sid) else none
    | none => none
  let rem := fun (s : Slot) => hasQ s.quality qREMOTE
  if kind == 1 then
    match slotOf a, slotOf b with
    | some s, _ => (some s.value.toInt, rem s)
    | none, some s => (some s.value.toInt, rem s)
    | none, none => (none, false)
  else if kind == 2 then
    match slotOf a, slotOf b with
    | some s, some t => (some (rsh (s.value.toInt * (t.value.toInt - x0)) 16), rem s || rem t)
    | _, _ => (none, false)
  else if kind == 3 then (some (if (c.zone z).presence == .vacant then 0 else one16), false)
  else (some 0, false)

/-- One input of an update: its value, whether it holds or defaults, whether it is REMOTE, and what is kept (R277). -/
def Chip.inputNow (c : Chip) (z i : Nat) (t : Nat) (x0 : Int) : Int × Bool × Bool × Option (Int × Nat) :=
  let rec_ := c.zoneInput z i
  let kept := (c.zone z).inputs.getD i none
  match c.readInput z rec_ x0 with
  | (some v, r) => (v, false, r, some (v, t))
  | (none, _) =>
    match kept with
    | some (v, t0) => if t - t0 ≤ sec (fld rec_ 6 2) then (v, true, false, kept) else (fldI32 rec_ 8, true, false, kept)
    | none => (fldI32 rec_ 8, true, false, none)

/-! ### Fitting (R287–R290) -/

/-- λ of R288. -/
def Chip.fitLambda (c : Chip) (z : Nat) : Flt := binary32.ofRatio (1000000 - bits (c.attrN tyZone z 12) 0 16 : Nat) 1000000

/-- Row 0 of the model as binary32 numbers. -/
def Chip.rowZero (c : Chip) (z : Nat) : List Flt :=
  (List.range (c.zoneNodes z)).map (fun j => binary32.ofDyadic (c.zoneA z 0 j).1 (-(c.zoneA z 0 j).2))
    ++ (List.range 6).map (fun i => binary32.ofDyadic (c.zoneB z 0 i).1 (-(c.zoneB z 0 i).2))

/-- P = 100 · I (R287). -/
def identity100 (n : Nat) : List (List Flt) :=
  (List.range n).map (fun i => (List.range n).map (fun j => if i == j then binary32.ofDyadic 100 0 else .num 0 0))

/-- Start fitting (R287). -/
def Chip.startFit (z : Nat) (c : Chip) : Chip :=
  c.setZone z { c.zone z with fit := some ⟨c.rowZero z, identity100 (c.zoneNodes z + 6), 0, .num 0 0, .num 0 0⟩ }

/-- One contributing update (R288), evaluated in the order written there. -/
def fitStep (lam : Flt) (phi : List Flt) (y r : Flt) (f : FitSt) : FitSt :=
  let b := binary32
  let e := b.sub y (b.dot f.theta phi)
  let v := b.matVec f.p phi
  let s := b.add lam (b.dot phi v)
  let k := v.map (fun x => b.div x s)
  let theta := List.zipWith (fun t x => b.add t (b.mul x e)) f.theta k
  let kphi := k.map (fun x => phi.map (fun q => b.mul x q))
  let prod := b.matMul kphi f.p phi.length
  let p := List.zipWith (fun row q => List.zipWith (fun x w => b.div (b.sub x w) lam) row q) f.p prod
  { theta := theta, p := p, n := f.n + 1, sumE := b.add f.sumE (b.mul e e), sumR := b.add f.sumR (b.mul r r) }

/-- trace(P). -/
def traceOf (p : List (List Flt)) : Flt :=
  ((List.range p.length).map (fun i => (p.getD i []).getD i (.num 0 0))).foldl binary32.add (.num 0 0)

/-- Why fitting diverges (R290, E75): 1 not finite, 0 covariance, 2 unstable row. -/
def fitDiverged (nn : Nat) (f : FitSt) : Option Nat :=
  if !(f.theta.all Flt.isFinite && f.p.all (fun r => r.all Flt.isFinite)) then some 1
  else if (Flt.num 1000000000 0).lt (traceOf f.p) then some 0
  else if !((((f.theta.take nn).map Flt.abs).foldl binary32.add (.num 0 0)).lt (.num 1 0)) then some 2
  else none

/-- The row that θ gives in the format of the model's row 0 (R289). -/
def Chip.fittedRow (c : Chip) (z : Nat) (theta : List Flt) : List Int :=
  let nn := c.zoneNodes z
  (List.range (nn + 6)).map (fun j =>
    sat32 ((theta.getD j (.num 0 0)).toFixed (if j < nn then (c.zoneA z 0 j).2 else (c.zoneB z 0 (j - nn)).2)))

/-- A coefficient as a binary64 number (exact). -/
def coef64 (e : Int × Nat) : Flt := binary64.ofDyadic e.1 (-e.2)

/-- Add two matrices. -/
def matAdd (a b : List (List Flt)) : List (List Flt) :=
  List.zipWith (fun x y => List.zipWith binary64.add x y) a b

/-- A^m and Σ A^j B for j < m, m at least 1 (R294). -/
def transition (a b : List (List Flt)) (n : Nat) : Nat → List (List Flt) × List (List Flt)
  | 0 => (a, b)
  | m + 1 =>
    let t := transition a b n m
    (binary64.matMul t.1 a n, matAdd t.2 (binary64.matMul t.1 b 6))

/-- Form the 60 s transition of a zone, at each re-initialisation and each adoption of a row (R294). -/
def Chip.formTransition (z : Nat) (c : Chip) : Chip :=
  let n := c.zoneNodes z
  let a := (List.range n).map (fun k => (List.range n).map (fun j => coef64 (c.zoneA z k j)))
  let b := (List.range n).map (fun k => (List.range 6).map (fun i => coef64 (c.zoneB z k i)))
  let t := transition a b n (60 / max 1 (c.zonePeriod z) - 1)
  c.setZone z { c.zone z with trans := ⟨t.1, t.2⟩ }

/-- The end of a window of ADOPT_N contributing updates (R289): θ is adopted where its RMS error is the lower. -/
def Chip.closeWindow (z : Nat) (f : FitSt) (c : Chip) : Chip :=
  let s := c.zone z
  let better := f.sumE.lt f.sumR
  let rms := sqrtRound ((f.sumE.toFixed 32).toNat / max 1 f.n)
  let c1 := c.setZone z { s with
    fit := some { f with n := 0, sumE := .num 0 0, sumR := .num 0 0 }, fitRms := rms
    adopted := if better then some (c.fittedRow z f.theta) else s.adopted
    fitAdopted := if better then s.fitAdopted + 1 else s.fitAdopted }
  if better then c1.formTransition z else c1

/-- A commit has written MODEL_A or MODEL_B of a zone: the adopted row is replaced, and fitting restarts where it runs (R289).
The transition is formed with the row now in use (DESIGN CHOICE, log entry 86). -/
def Chip.modelWritten (z : Nat) (c : Chip) : Chip :=
  let c1 := c.setZone z { c.zone z with adopted := none }
  (if (c1.zone z).fit.isSome then c1.startFit z else c1).formTransition z

/-- A contributing update's fitting, with E75 on divergence (R288–R290). -/
def Chip.fitUpdate (z : Nat) (x : List Int) (u : List Int) (y r : Int) (c : Chip) : Chip :=
  match (c.zone z).fit with
  | none => c
  | some f =>
    let phi := (x ++ u).map binary32.ofQ16
    let f1 := fitStep (c.fitLambda z) phi (binary32.ofQ16 y) (binary32.ofQ16 r) f
    let c1 := c.setZone z { c.zone z with fit := some f1, fitUsed := (c.zone z).fitUsed + 1 }
    match fitDiverged (c.zoneNodes z) f1 with
    | some why => (c1.setZone z { c1.zone z with fit := none }).fire 75 (z + 64 * why)
    | none => if bits (c.attrN tyZone z 12) 16 16 ≤ f1.n then c1.closeWindow z f1 else c1

/-! ### Substitution and re-initialisation (R282–R286) -/

/-- Put a MODEL override on SENSOR_SID, or take it away; a FORCED one stays beside it (R41, R284). -/
def Chip.substitute (z : Nat) (on : Bool) (c : Chip) : Chip :=
  match sidOf (c.attrN tyZone z 3) with
  | none => c
  | some sid => { c with overrides := Tbl.modify dOverride c.overrides sid (fun o => { o with model := on }) }

/-- A SUSPECT zone returns to TRACKING with E73 (R285); `takeY`: node 0 takes y where it is usable. -/
def Chip.endSuspect (z reason : Nat) (takeY : Bool) (c : Chip) : Chip :=
  let s := c.zone z
  if s.model != .suspect then c
  else
    let x := match c.zoneYValue z with
      | some y => if takeY then s.x.set 0 y else s.x
      | none => s.x
    ((c.setZone z { s with model := .tracking, x := x, goodSince := none, runStart := none, runLen := 0 }).substitute z
      false).fire 73 (z + 64 * reason)

/-- Re-initialise a zone (R282, R294): the nodes take y, at once or when it becomes usable (`takeY`); until then they keep
what they hold, a new node 0 (DESIGN CHOICE, log entry 86). -/
def Chip.reinit (z : Nat) (c : Chip) : Chip :=
  let c1 := (c.endSuspect z 2 false).formTransition z
  let s := c1.zone z
  let n := c1.zoneNodes z
  c1.setZone z (c1.takeY z { s with
    initUntil := some (c1.clk.now + sec (2 * c1.zonePeriod z)), x := s.x.take n ++ List.replicate (n - s.x.length) 0 })

/-- REINIT_TIMEOUT: y has not become usable within 2 × UPDATE_S (R282). -/
def Chip.reinitTimeout (z : Nat) (c : Chip) : Chip :=
  match (c.zone z).initUntil with
  | none => c
  | some d =>
    let c1 := c.waitUntil d
    let s := c1.takeY z (c1.zone z)
    c1.setZone z (if s.initUntil.isSome then
      { s with model := .open, initUntil := none, x := List.replicate (c1.zoneNodes z) (20 * 65536) } else s)

/-- SUSPEND_EXPIRY (R286). -/
def Chip.suspendOver (z : Nat) (c : Chip) : Chip :=
  match (c.zone z).suspend with
  | none => c
  | some d => let c1 := c.waitUntil d; c1.setZone z { c1.zone z with suspend := none }

/-! ### The update (R278–R285) -/

/-- The predicted node values (R278). -/
def Chip.predict (c : Chip) (z : Nat) (x u : List Int) : List Int :=
  (List.range (c.zoneNodes z)).map (fun k =>
    sat32 (((List.range (c.zoneNodes z)).map (fun j => rsh ((c.zoneA z k j).1 * x.getD j 0) (c.zoneA z k j).2)).sum
      + ((List.range 6).map (fun i => rsh ((c.zoneB z k i).1 * u.getD i 0) (c.zoneB z k i).2)).sum))

/-- The corrected node values (R278). -/
def Chip.correct (c : Chip) (z : Nat) (p : List Int) (r : Int) : List Int :=
  (List.range p.length).map (fun k => sat32 (p.getD k 0 + rsh ((c.zoneL z k).1 * r) (c.zoneL z k).2))

/-- The exceedance run after an update due at the transit count `t` (R283): its start and its length in s. -/
def nextRun (start : Option Nat) (exceeds : Bool) (t : Nat) : Option Nat × Nat :=
  if !exceeds then (none, 0)
  else match start with
    | some t0 => (some t0, (t - t0) / sec 1)
    | none => (some t, 0)

/-- |r| in 1/256 °C, saturating; 0xFFFF where y is unusable (Table 9.7). -/
def residualField (r : Option Int) : Nat :=
  match r with
  | some v => min 0xFFFF (v.natAbs / 256)
  | none => 0xFFFF

/-- Plausibility after the update due at the transit count `t` (R283–R285): the run, and SUSPECT or recovery. -/
def Chip.judge (z t : Nat) (r : Option Int) (c : Chip) : Chip :=
  let s := c.zone z
  let thr : Int := c.attrN tyZone z 10
  let persist := c.attrN tyZone z 11
  let exceeds := match r with
    | some v => decide (thr < v.natAbs)
    | none => true
  let run := if c.zonePlaus z && s.suspend.isNone then nextRun s.runStart exceeds t else (none, 0)
  let good := match r with
    | some v => decide (2 * (v.natAbs : Int) ≤ thr)
    | none => false
  let since := if good then some (s.goodSince.getD t) else none
  let c1 := c.setZone z { s with runStart := run.1, runLen := run.2, goodSince := since }
  if s.model == .suspect then
    match since with
    | some t0 => if sec persist ≤ t - t0 then c1.endSuspect z 0 true else c1
    | none => c1
  else if run.1.isSome && decide (persist ≤ run.2) && (s.model == .tracking || s.model == .open) then
    let c2 := c1.setZone z { c1.zone z with model := .suspect, goodSince := none }
    (if c.zoneSubst z then c2.substitute z true else c2).fire 72 (z + 64 * b2n r.isNone + 65536 * residualField r)
  else c1

/-- Write the outputs of an update (R280, R284). -/
def Chip.writeZone (z t : Nat) (remote : Bool) (c : Chip) : Chip :=
  let s := c.zone z
  let q := qVALID ||| (if remote then qREMOTE else 0) ||| (if s.inputHeld then qHELD else 0)
    ||| (if s.model == .suspect || s.model == .open then qMODEL else 0)
  let v := word (s.x.getD 0 0)
  let c1 := match sidOf (c.attrN tyZone z 4) with
    | some sid => c.produce sid v (c.stampAt t) q (producerOf 4 z)
    | none => c
  match sidOf (c.attrN tyZone z 3) with
  | some sid =>
    if s.model == .suspect && c.zoneSubst z then
      let c2 := c1.substitute z true
      if (Tbl.get dOverride c2.overrides sid).forced then c2 else c2.writeSlot sid v (c2.stampAt t) q (producerOf 4 z)
    else c1
  | none => c1

/-- The update of a zone that was due at the transit count `d`, the instant `t` (R278–R285, R288). -/
def Chip.updateZone (z d t : Nat) (c : Chip) : Chip :=
  let s0 := c.zone z
  let y := c.zoneYValue z
  let c0 := c.setZone z { s0 with due := some (d + sec (c.zonePeriod z)) }
  let ready : Option Chip := match s0.initUntil, y with
    | none, _ => some c0
    | some _, some v => some (c0.setZone z { c0.zone z with
        model := ZoneModel.tracking, initUntil := none, x := List.replicate (c.zoneNodes z) v })
    | some _, none => none
  match ready with
  | none => c0
  | some c1 =>
    let s := c1.zone z
    let ins := (List.range 6).map (fun i => c1.inputNow z i t (s.x.getD 0 0))
    let u := ins.map (·.1)
    let held := ins.any (fun i => i.2.1)
    let p := c1.predict z s.x u
    let r := y.map (fun v => v - p.getD 0 0)
    let x : List Int := match s.model, y, r with
      | ZoneModel.tracking, some _, some e => c1.correct z p e
      | ZoneModel.open, some v, _ => List.replicate (c1.zoneNodes z) v
      | _, _, _ => p
    let model := if s.model == .open && y.isSome then ZoneModel.tracking else s.model
    let c2 := c1.setZone z { s with
      x := x, model := model, residual := r.getD s.residual, inputs := ins.map (fun i => i.2.2.2), inputHeld := held }
    let c3 := match y, r with
      | some v, some e =>
        if s.model == ZoneModel.tracking && !held && s.suspend.isNone then c2.fitUpdate z s.x u v e else c2
      | _, _ => c2
    (c3.judge z d r).writeZone z t (ins.any (fun i => i.2.2.1))

/-- The zone whose update is due first, the lowest number on a tie (R279). -/
def Chip.nextZone (c : Chip) : Option Nat :=
  (c.zones.foldl (fun best e => match e.2.due, best with
    | some t, some (_, u) => if c.zoneEn e.1 && decide (t < u) then some (e.1, t) else best
    | some t, none => if c.zoneEn e.1 then some (e.1, t) else best
    | none, _ => best) (none : Option (Nat × Nat))).map (·.1)

/-- ZONE_UPDATE: the update that is due first (R278), by the transit reference (R279). -/
def Chip.zoneRow (z : Nat) (c : Chip) : Chip :=
  match (c.zone z).due with
  | none => c
  | some d =>
    if c.nextZone == some z && c.transitComes d then
      let c1 := c.waitTransit d
      c1.updateZone z d (c1.clk.now - (c1.clk.transit - d))
    else c

/-! ### Presence (R291–R293) -/

def Chip.holdTime (c : Chip) (z : Nat) : Nat := sec (bits (c.attrN tyZone z 14) 0 16)

/-- Write PRES_SID (R292). -/
def Chip.writePresence (z : Nat) (c : Chip) : Chip :=
  let s := c.zone z
  (c.setZone z { s with presWritten := c.clk.now }).produceOpt (sidOf (c.attrN tyZone z 5))
    (if s.presence == .vacant then 0 else one16) qVALID 4 z

/-- A change of PRESENCE: PRES_SID and E74 (R292). -/
def Chip.presenceTo (z : Nat) (p : Presence) (reason : Nat) (hold : Option Nat) (c : Chip) : Chip :=
  ((c.setZone z { c.zone z with presence := p, reason := reason, hold := hold, confirm := [] }).writePresence z).fire 74
    (z + 256 * p.code + 4096 * reason)

/-- The hold timer restarts, counted by the transit reference; it does not run while a LEVEL or ZONE source is asserted
(R292). -/
def Chip.holdFrom (c : Chip) (z : Nat) : Option Nat :=
  if (c.zone z).asserted.any id then none else some (c.clk.transit + c.holdTime z)

/-- Presence starts at enable and after reset: OCCUPIED with a full hold (R292). -/
def Chip.startPresence (z : Nat) (c : Chip) : Chip :=
  let c1 := c.setZone z { c.zone z with
    contacts := List.replicate 8 none, asserted := List.replicate 8 false, latchOn := none, pirDue := [],
    lastEvidence := c.clk.now }
  c1.presenceTo z .occupied 10 (c1.holdFrom z)

/-- One piece of evidence from source `i` of kind `kind` (R292). -/
def Chip.evidence (z i kind : Nat) (c : Chip) : Chip :=
  let c1 := c.setZone z { c.zone z with lastEvidence := c.clk.now }
  let s := c1.zone z
  let closed := (List.range 8).find? (fun j =>
    fld (c1.presSource z j) 0 1 == 2 && bit (fld (c1.presSource z j) 1 1) 0 && s.contacts.getD j none == some true)
  match s.presence with
  | .vacant =>
    let within := sec (bits (c.attrN tyZone z 14) 20 12)
    let ev := s.confirm.filter (fun t => decide (c.clk.now ≤ t + within)) ++ [c.clk.now]
    if kind == 3 || kind == 4 || bits (c.attrN tyZone z 14) 16 4 ≤ ev.length then
      c1.presenceTo z .occupied i (c1.holdFrom z)
    else c1.setZone z { s with confirm := ev }
  | .occupied =>
    match kind, closed with
    | 1, some j => (c1.setZone z { s with latchOn := some j }).presenceTo z .latched i none
    | _, _ => c1.setZone z { s with hold := c1.holdFrom z }
  | .latched => c1

/-- The contact of a LATCHED zone opens or is lost: OCCUPIED, the timer restarted (R292). -/
def Chip.unlatch (z : Nat) (c : Chip) : Chip :=
  (c.setZone z { c.zone z with latchOn := none }).presenceTo z .occupied 9 (c.holdFrom z)

/-- A LEVEL or ZONE source is asserted, or no longer (R292). -/
def Chip.setAsserted (z i kind : Nat) (on : Bool) (c : Chip) : Chip :=
  let s := c.zone z
  let was := s.asserted.getD i false
  let c1 := c.setZone z { s with asserted := s.asserted.set i on }
  if on && !was then c1.evidence z i kind
  else if !on && was && s.presence == .occupied then c1.setZone z { c1.zone z with hold := c1.holdFrom z }
  else c1

/-- A CONTACT source is found closed or open (R291, R292). -/
def Chip.setContact (z i : Nat) (closed : Bool) (c : Chip) : Chip :=
  let s := c.zone z
  let c1 := c.setZone z { s with contacts := s.contacts.set i (some closed) }
  if s.contacts.getD i none == some (!closed) then
    if s.presence == .latched && s.latchOn == some i && !closed then
      (c1.setZone z { c1.zone z with lastEvidence := c.clk.now }).unlatch z
    else c1.evidence z i 2
  else c1

/-- Is a CONTACT or LEVEL slot at or above 0.5 after INVERT, while usable (R291)? -/
def Chip.presHigh (c : Chip) (rec : List Byte) : Option Bool :=
  let sid := bits (fld rec 2 2) 0 12
  if c.slotUsable sid then
    let v := (c.slot sid).value.toInt
    some (decide (32768 ≤ (if bit (fld rec 1 1) 1 then 65536 - v else v)))
  else none

/-- PRESENCE_EVIDENCE: evidence from source `i` has arrived (R292). -/
def Chip.presenceRow (z i : Nat) (c : Chip) : Chip :=
  let src := c.presSource z i
  let s := c.zone z
  if !c.zonePres z || 8 ≤ i then c
  else if fld src 0 1 == 1 then
    if s.pirDue.contains i then (c.setZone z { s with pirDue := s.pirDue.erase i }).evidence z i 1 else c
  else if fld src 0 1 == 2 then
    match c.presHigh src with
    | some b => c.setContact z i b
    | none => c
  else if fld src 0 1 == 3 then c.setAsserted z i 3 (c.presHigh src == some true)
  else if fld src 0 1 == 4 then c.setAsserted z i 4 ((c.zone (fld src 2 2)).presence != .vacant)
  else c

/-- PRESENCE_SOURCE_LOST: a source has become unusable (R291, R292). -/
def Chip.sourceLost (z i : Nat) (c : Chip) : Chip :=
  let src := c.presSource z i
  let s := c.zone z
  if !c.zonePres z || 8 ≤ i || (c.presHigh src).isSome then c
  else if fld src 0 1 == 2 then
    let c1 := c.setZone z { s with contacts := s.contacts.set i none }
    if s.presence == .latched && s.latchOn == some i then c1.unlatch z else c1
  else if fld src 0 1 == 3 then c.setAsserted z i 3 false
  else c

/-- Has evidence of a zone arrived that PRESENCE_EVIDENCE has not taken (R292)? -/
def Chip.evidenceWaits (c : Chip) (z : Nat) : Bool :=
  let s := c.zone z
  !s.pirDue.isEmpty || (List.range 8).any (fun i =>
    let src := c.presSource z i
    if fld src 0 1 == 2 then (c.presHigh src).any (fun b => s.contacts.getD i none == some (!b))
    else if fld src 0 1 == 3 then !s.asserted.getD i false && c.presHigh src == some true
    else if fld src 0 1 == 4 then !s.asserted.getD i false && (c.zone (fld src 2 2)).presence != .vacant
    else false)

/-- HOLD_EXPIRY, by the transit reference; evidence that has arrived wins (R292). -/
def Chip.holdExpiry (z : Nat) (c : Chip) : Chip :=
  match (c.zone z).presence, (c.zone z).hold with
  | .occupied, some d =>
    if c.zonePres z && c.transitComes d then
      let c1 := c.waitTransit d
      if c1.evidenceWaits z then c1 else c1.presenceTo z .vacant 8 none
    else c
  | _, _ => c

/-- A commit changes sources of a zone (R291, R292; DESIGN CHOICE, log entry 86): a changed source has given no evidence yet; LATCHED ends
with its contact, and the hold restarts where no source is asserted any more. -/
def Chip.sourcesChanged (old : Chip) (z : Nat) (c : Chip) : Chip :=
  let s := c.zone z
  let kept := fun i => old.presSource z i == c.presSource z i
  let c1 := c.setZone z { s with
    contacts := s.contacts.zipIdx.map (fun e => if kept e.2 then e.1 else none)
    asserted := s.asserted.zipIdx.map (fun e => kept e.2 && e.1)
    pirDue := s.pirDue.filter kept }
  if s.presence == .latched && !s.latchOn.all kept then c1.unlatch z
  else if s.presence == .occupied && s.hold.isNone then c1.setZone z { c1.zone z with hold := c1.holdFrom z }
  else c1

/-- PRES_SID_REFRESH: every 10 s (R292). -/
def Chip.presRefresh (z : Nat) (c : Chip) : Chip :=
  if c.zonePres z then (c.waitUntil ((c.zone z).presWritten + sec 10)).writePresence z else c

/-- Each MOTION firing of a port reaches every zone that lists it (R130, R291). -/
def Chip.motion (port : Nat) (c : Chip) : Chip :=
  { c with zones := c.zones.map (fun e =>
      if c.zonePres e.1 then
        (e.1, { e.2 with pirDue := e.2.pirDue ++ (List.range 8).filter (fun i =>
          fld (c.presSource e.1 i) 0 1 == 1 && fld (c.presSource e.1 i) 2 2 == port) })
      else e) }

/-! ### Enabling and commits -/

/-- A zone becomes enabled (R279, R282, R287, R292): adopted row and fitting stand as they were left (R289). -/
def Chip.enableZone (z : Nat) (c : Chip) : Chip :=
  let c1 := c.setZone z { c.zone z with
    due := some (c.clk.transit + ms (z * c.zonePeriod z * 1000 / 64)), runStart := none, runLen := 0, goodSince := none }
  let c2 := c1.reinit z
  let c3 := if c.zoneFitAuto z && (c2.zone z).fit.isNone then c2.startFit z else c2
  if c.zonePres z then c3.startPresence z else c3

/-- A zone is no longer enabled (R285): nothing of it runs; the adopted row, its fitting and a suspension stay (R286, R289). -/
def Chip.disableZone (z : Nat) (c : Chip) : Chip :=
  let c1 := c.endSuspect z 2 false
  c1.setZone z { c1.zone z with
    due := none, model := .disabled, initUntil := none, runStart := none, runLen := 0, goodSince := none
    presence := .vacant, reason := 10, hold := none, confirm := [], contacts := List.replicate 8 none
    asserted := List.replicate 8 false, latchOn := none, pirDue := [] }

/-! ### Prediction (R294–R296) -/

/-- Input `i` of a prediction at predicted x_0 (R295): the boost value in place of SID_A, PRESENCE 0, a difference re-formed,
every other input as at the start. -/
def Chip.predictInput (c : Chip) (z i : Nat) (boost : Option Int) (x0 : Flt) : Flt :=
  let src := c.zoneInput z i
  let kind := fld src 0 1
  let val := fun f => match sidOf f with
    | some sid => if c.slotUsable sid then some (c.slot sid).value.toInt else none
    | none => none
  let now := (c.inputNow z i c.clk.now ((c.zone z).x.getD 0 0)).1
  if kind == 3 then .num 0 0
  else if kind == 1 then binary64.ofQ16 (boost.getD now)
  else if kind == 2 then
    match (match boost with
      | some b => some b
      | none => val (fld src 2 2)), val (fld src 4 2) with
    | some a, some b => binary64.mul (binary64.ofQ16 a) (binary64.sub (binary64.ofQ16 b) x0)
    | _, _ => binary64.ofQ16 now
  else .num 0 0

/-- Has x_0 reached the target in the mode's direction? -/
def reached (heat : Bool) (x0 : Flt) (target : Int) : Bool :=
  x0 != .nan && (if heat then !x0.lt (binary64.ofQ16 target) else !(binary64.ofQ16 target).lt x0)

/-- The lead of a step `k` in which x_0 went from `a` to `b`, interpolated linearly, rounded to seconds (R295); a step that
ends beyond every number reaches the target at its start. -/
def leadSeconds (k : Nat) (a b : Flt) (target : Int) : Nat :=
  match a, b with
  | .num m e, .num m2 e2 =>
    let lo := min (min e e2) (-16)
    let pa := m * 2 ^ (e - lo).toNat
    let pb := m2 * 2 ^ (e2 - lo).toNat
    let pt := target * 2 ^ (-16 - lo).toNat
    (divr (60 * ((k - 1 : Nat) * (pb - pa) + (pt - pa))) (pb - pa)).toNat
  | .num _ _, .inf _ => 60 * (k - 1)
  | _, _ => 60 * k

/-- Step a prediction until the target is reached or the horizon ends: lead, x_0 at the end, steps. -/
def Chip.predictSteps (c : Chip) (z : Nat) (run : Transition60) (boostIn : Nat) (boost : Int) (heat : Bool) (target : Int) :
    Nat → Nat → List Flt → Option Nat × Flt × Nat
  | 0, k, x => (none, x.getD 0 (.num 0 0), k)
  | fuel + 1, k, x =>
    let x0 := x.getD 0 (.num 0 0)
    let u := (List.range 6).map (fun i => c.predictInput z i (if i == boostIn then some boost else none) x0)
    let y := List.zipWith binary64.add (binary64.matVec run.phi x) (binary64.matVec run.gamma u)
    let y0 := y.getD 0 (.num 0 0)
    if reached heat y0 target then (some (leadSeconds (k + 1) x0 y0 target), y0, k + 1)
    else c.predictSteps z run boostIn boost heat target fuel (k + 1) y

/-- HEAT_IN or COOL_IN, and its value (Table 9.1, BOOST). -/
def Chip.boostOf (c : Chip) (z : Nat) (heat : Bool) : Nat × Int :=
  let b := c.attr tyZone z 15
  if heat then (fld b 0 1, fldI32 b 4) else (fld b 1 1, fldI32 b 8)

/-- Run a prediction (R295): lead (`none`: not within the horizon), END_T and STEPS. -/
def Chip.runPredict (c : Chip) (q : Predict) : Option Nat × Int × Nat :=
  let x := (c.zone q.zone).x.map binary64.ofQ16
  let b := c.boostOf q.zone q.heat
  if reached q.heat (x.getD 0 (.num 0 0)) q.target then (some 0, (c.zone q.zone).x.getD 0 0, 0)
  else
    let r := c.predictSteps q.zone (c.zone q.zone).trans b.1 b.2 q.heat q.target q.horizon 0 x
    (r.1, sat32 (r.2.1.toFixed 16), r.2.2)

/-- PREDICTION: the oldest request runs and is answered (R296). -/
def Chip.predictionRow (c : Chip) : Chip :=
  match c.predictions with
  | [] => c
  | q :: rest =>
    let c1 := { c with predictions := rest }
    let r := c.runPredict q
    match q.cmd with
    | none =>
      let s := c1.zone q.zone
      if c1.zoneEn q.zone then c1.setZone q.zone { s with leadReplies := s.leadReplies ++ [(q.check, r.1)] } else c1
    | some (x, t) =>
      if !c.zoneEn q.zone then c1.finishTag x t stBusy noOfs []
      else c1.finishTag x t stOK noOfs
        (leBytes 4 (r.1.getD 0xFFFFFFFF) ++ leBytes 4 (unsigned 32 r.2.1) ++ leBytes 2 r.2.2 ++ [0, 0])

/-! ### Commands -/

/-- ZONE_STATE (Table 9.1). -/
def Chip.zoneState (c : Chip) (z : Nat) : Nat :=
  let s := c.zone z
  s.model.code + 4 * s.presence.code + 16 * b2n s.fit.isSome + 32 * b2n s.inputHeld + 64 * b2n s.suspend.isSome
    + 65536 * min 0xFFFF s.runLen

/-- ZONE_STATUS (R293). -/
def bodyZoneStatus (k : Cmd) (c : Chip) : Res :=
  let s := c.zone k.inst
  let y := c.zoneY k.inst
  if k.payload.length != 0 then .badLength c
  else .okWith (leBytes 4 (c.zoneState k.inst) ++ leBytes 4 (unsigned 32 s.residual)
    ++ leBytes 4 (unsigned 32 (s.x.getD 0 0)) ++ leBytes 4 y.value.toNat
    ++ leBytes 4 (if c.isStale y then y.quality ||| qSTALE else y.quality).toNat) c

/-- FIT_ENABLE (R287). -/
def bodyFitEnable (k : Cmd) (c : Chip) : Res :=
  if k.payload.length != 0 then .badLength c
  else if (c.zone k.inst).fit.isSome then .ok c
  else .ok (c.startFit k.inst)

/-- FIT_DISABLE (R287). -/
def bodyFitDisable (k : Cmd) (c : Chip) : Res :=
  if k.payload.length != 0 then .badLength c
  else .ok (c.setZone k.inst { c.zone k.inst with fit := none })

/-- SUSPECT_OVERRIDE (R286). -/
def bodySuspectOverride (k : Cmd) (c : Chip) : Res :=
  let t := fld k.payload 0 2
  if k.payload.length != 4 then .badLength c
  else if !zeroAt k.payload 2 2 then .badParam 2 c
  else
    let c1 := c.endSuspect k.inst 1 true
    .ok (c1.setZone k.inst { c1.zone k.inst with suspend := if t == 0 then none else some (c.clk.now + sec t) })

/-- PRESENCE_READ (R293). -/
def bodyPresenceRead (k : Cmd) (c : Chip) : Res :=
  let s := c.zone k.inst
  let left := match s.hold with
    | some d => (d - c.clk.transit) / sec 1
    | none => 0
  if k.payload.length != 0 then .badLength c
  else .okWith ([BitVec.ofNat 8 s.presence.code, BitVec.ofNat 8 s.reason, 0, 0]
    ++ leBytes 4 ((c.clk.now - s.lastEvidence) / sec 1) ++ leBytes 4 left) c

/-- PREDICT_START (R295): the request is queued and answered when it has run. -/
def bodyPredictStart (k : Cmd) (c : Chip) : Res :=
  let mode := fld k.payload 4 1
  let h := fld k.payload 6 2
  if k.payload.length != 8 then .badLength c
  else if mode != 1 && mode != 2 then .badParam 4 c
  else if !zeroAt k.payload 5 1 then .badParam 5 c
  else if h == 0 || 720 < h then .badParam 6 c
  else if 5 < (c.boostOf k.inst (mode == 1)).1 then .badParam 4 c
  else if !c.zoneEn k.inst then .err stBusy noOfs c
  else .waiting { c with predictions := c.predictions ++ [⟨k.inst, fldI32 k.payload 0, mode == 1, h, some (k.ctx, k.tag), (0, 0, 0)⟩] }

/-! ### Meanings -/

/-- ZONE_STATUS (R293). -/
def execZoneStatus (ctx tag : Nat) (s : State) : Host.Outcome State Fault Refusal :=
  .next { s with chip := s.chip.runCmd 6 0 bodyZoneStatus ctx tag }

/-- FIT_ENABLE (R287). -/
def execFitEnable (ctx tag : Nat) (s : State) : Host.Outcome State Fault Refusal :=
  .next { s with chip := s.chip.runCmd 6 1 bodyFitEnable ctx tag }

/-- FIT_DISABLE (R287). -/
def execFitDisable (ctx tag : Nat) (s : State) : Host.Outcome State Fault Refusal :=
  .next { s with chip := s.chip.runCmd 6 2 bodyFitDisable ctx tag }

/-- SUSPECT_OVERRIDE (R286). -/
def execSuspectOverride (ctx tag : Nat) (s : State) : Host.Outcome State Fault Refusal :=
  .next { s with chip := s.chip.runCmd 6 3 bodySuspectOverride ctx tag }

/-- PRESENCE_READ (R293). -/
def execPresenceRead (ctx tag : Nat) (s : State) : Host.Outcome State Fault Refusal :=
  .next { s with chip := s.chip.runCmd 6 4 bodyPresenceRead ctx tag }

/-- PREDICT_START (R295). -/
def execPredictStart (ctx tag : Nat) (s : State) : Host.Outcome State Fault Refusal :=
  .next { s with chip := s.chip.runCmd 6 5 bodyPredictStart ctx tag }

/-- ZONE_UPDATE (R278). -/
def execZoneUpdate (zone : Nat) (s : State) : Host.Outcome State Fault Refusal :=
  .next { s with chip := s.chip.zoneRow zone }

/-- REINIT_TIMEOUT (R282). -/
def execReinitTimeout (zone : Nat) (s : State) : Host.Outcome State Fault Refusal :=
  .next { s with chip := s.chip.reinitTimeout zone }

/-- SUSPEND_EXPIRY (R286). -/
def execSuspendExpiry (zone : Nat) (s : State) : Host.Outcome State Fault Refusal :=
  .next { s with chip := s.chip.suspendOver zone }

/-- PREDICTION (R296). -/
def execPrediction (s : State) : Host.Outcome State Fault Refusal :=
  .next { s with chip := s.chip.predictionRow }

/-- PRESENCE_EVIDENCE (R292). -/
def execPresenceEvidence (zone source : Nat) (s : State) : Host.Outcome State Fault Refusal :=
  .next { s with chip := s.chip.presenceRow zone source }

/-- HOLD_EXPIRY (R292). -/
def execHoldExpiry (zone : Nat) (s : State) : Host.Outcome State Fault Refusal :=
  .next { s with chip := s.chip.holdExpiry zone }

/-- PRES_SID_REFRESH (R292). -/
def execPresSidRefresh (zone : Nat) (s : State) : Host.Outcome State Fault Refusal :=
  .next { s with chip := s.chip.presRefresh zone }

/-- PRESENCE_SOURCE_LOST (R292). -/
def execPresenceSourceLost (zone source : Nat) (s : State) : Host.Outcome State Fault Refusal :=
  .next { s with chip := s.chip.sourceLost zone source }

end Sys2Proof.Machine
end

