-- ==== Sys2Proof/Machine/Events.lean ====
section
/-! DEFINITION. Event and queue commands (spec/03_events_queues_fold_arbiter.md): EVENT_ROUTE, EVENT_MASK, EVENT_READ,
QUEUE_CONFIG, QUEUE_STATUS, COALESCE_SET, delivery records, coalescing and doorbells. -/

namespace Sys2Proof.Machine

/-- Events of class 0 under a route for event `e` (R98). -/
def Chip.class0Routes (c : Chip) (e r : Nat) : Nat :=
  ((List.range 128).filter (fun x => bits (if x == e then r else c.route x) 0 2 == 0)).length

/-- Would a route make a seventeenth class-0 event (R98)? -/
def Chip.routeRefused (c : Chip) (e r : Nat) : Bool :=
  bits r 0 2 == 0 && bits (c.route e) 0 2 != 0 && decide (16 < c.class0Routes e r)

/-- EVENT_ROUTE (R94, R95, R98, R561). -/
def bodyEventRoute (k : Cmd) (c : Chip) : Res :=
  let r := fld k.payload 0 4
  if k.payload.length != 4 then .badLength c
  else if bits r 21 11 != 0 then .badParam 0 c
  else if c.routeRefused k.inst r then .err stNoResource 16 c
  else .ok (c.writeRoute k.inst r)

/-- EVENT_MASK: MASKED alone (R94, R561). -/
def bodyEventMask (k : Cmd) (c : Chip) : Res :=
  if k.payload.length != 4 then .badLength c
  else if 1 < fld k.payload 0 1 then .badParam 0 c
  else if !zeroAt k.payload 1 3 then .badParam 1 c
  else .ok (c.writeRoute k.inst (setBits (c.route k.inst) 2 1 (fld k.payload 0 1)))

/-- EVENT_READ (R91). -/
def bodyEventRead (k : Cmd) (c : Chip) : Res :=
  if k.payload.length != 4 then .badLength c
  else if 1 < fld k.payload 0 1 then .badParam 0 c
  else if !zeroAt k.payload 1 3 then .badParam 1 c
  else
    let s := c.event k.inst
    .okWith ([BitVec.ofNat 8 (b2n s.pending), 0] ++ leBytes 2 s.count.toNat ++ leBytes 4 s.cause.toNat
        ++ leBytes 4 s.stamp.toNat)
      (if fld k.payload 0 1 == 1 then c.ackEvent k.inst else c)

/-- The first offset at which a QUEUE_CONFIG payload breaks Table 3.5 or R104, if any. -/
def Chip.queueConfigBad (c : Chip) (q : Nat) (p : List Byte) : Option Nat :=
  let base := fld p 0 4
  let depth := fld p 4 2
  let es := fld p 6 1
  let overlaps := (List.range 64).any (fun o =>
    let s := c.queue o
    o != q && decide (base < s.base + s.ringBytes) && decide (s.base < base + depth * 2 ^ es))
  if base % 64 != 0 then some 0
  else if depth < 2 || 1024 < depth || !((List.range 11).any (fun i => 2 ^ i == depth)) then some 4
  else if es < 4 || 12 < es || (48 ≤ q && q < 56 && es != 4) then some 6
  else if 1 < fld p 7 1 then some 7
  else if fld p 8 1 == 0 then some 8
  else if !zeroAt p 9 1 then some 9
  else if 0x80000 < base + depth * 2 ^ es || overlaps then some 0
  else none

/-- QUEUE_CONFIG restarts the queue (R104): indices and RSEQ read 0, the ring is zeroed when ENABLE is set, coalescing
counts and timers and HIGH restart. -/
def Chip.configQueue (q : Nat) (p : List Byte) (c : Chip) : Chip :=
  let s := c.queue q
  let s1 := { s with
    base := fld p 0 4, depth := fld p 4 2, eshift := fld p 6 1, enable := fld p 7 1 == 1, coalCount := fld p 8 1,
    coalTime := fld p 10 2, head := 0, tail := 0, rseq := 0, high := 0, loss := false, unNotified := 0, coalSince := none,
    fullTold := false, rung := [] }
  let c1 := c.setQueue q s1
  if s1.enable then { c1 with ring := Tbl.dropRange c1.ring s1.base (s1.base + s1.ringBytes) } else c1

/-- QUEUE_CONFIG (R104). -/
def bodyQueueConfig (k : Cmd) (c : Chip) : Res :=
  let q := k.inst
  let s := c.queue q
  if k.payload.length != 12 then .badLength c
  else match c.queueConfigBad q k.payload with
    | some o => .badParam o c
    | none =>
      if (s.enable && s.fill != 0) || (q < 16 && (c.session (q % 8)).opened) then .err stBusy noOfs c
      else .ok (c.configQueue q k.payload)

/-- QUEUE_STATUS (R111): the read restarts HIGH at the present fill. -/
def bodyQueueStatus (k : Cmd) (c : Chip) : Res :=
  let s := c.queue k.inst
  if k.payload.length != 0 then .badLength c
  else .okWith (leBytes 2 s.head ++ leBytes 2 s.tail ++ leBytes 2 s.fill ++ leBytes 2 s.high ++ leBytes 4 s.drops.toNat
      ++ leBytes 2 s.dberr.toNat ++ [0, 0])
    (c.setQueue k.inst { s with high := s.fill })

/-- COALESCE_SET (R110): a count already reached notifies at once.  COAL_COUNT (1 byte), 1 reserved byte, COAL_TIME (2 bytes); the layout is the model's (DESIGN CHOICE,
log entry 20: the specification gives this opcode no payload). -/
def bodyCoalesceSet (k : Cmd) (c : Chip) : Res :=
  let p := k.payload
  if p.length != 4 then .badLength c
  else if fld p 0 1 == 0 then .badParam 0 c
  else if !zeroAt p 1 1 then .badParam 1 c
  else
    let s := c.queue k.inst
    let c1 := c.setQueue k.inst { s with coalCount := fld p 0 1, coalTime := fld p 2 2 }
    .ok (if (c1.queue k.inst).notifies 3 then c1.notify k.inst else c1)

/-- DELIVERY_RECORD_WRITE: the record of an event is written to its delivery queue (R97, R99), or waits while the queue has
no free entry, with one E118. -/
def Chip.deliverEvent (e : Nat) (c : Chip) : Chip :=
  let s := c.event e
  let r := c.route e
  let q := routeDq r
  if !c.power.main.up || !s.recordDue || !routeQueue r then c
  else if (c.queue q).hasRoom 1 then
    let c1 := c.putRecord q (deliveryBody e (bits r 0 2) s)
    let c2 := c1.setQueue q { (c1.queue q).notified with fullTold := false }
    c2.setEvent e (if routeHirq r then { s with recordDue := false, lineWaits := false }
      else { s with recordDue := false, lineWaits := false, pending := false, count := 0 })
  else if (c.queue q).fullTold then c
  else (c.setQueue q { c.queue q with fullTold := true }).fire 118 (queueFault q 1).toNat

/-- COAL_TIME_EXPIRY: the oldest record not yet notified has waited COAL_TIME, counted from the transit reference (R110). -/
def Chip.coalExpire (q : Nat) (c : Chip) : Chip :=
  let s := c.queue q
  match s.coalSince with
  | none => c
  | some t =>
    let d := t + us s.coalTime
    if s.unNotified == 0 || s.coalTime == 0 || !c.transitComes d then c else (c.waitTransit d).notify q

/-! ### Doorbells (R107, R108, R444) -/

/-- Does stepping over whole records from entry `i` use exactly `n` entries? -/
def onBoundary (s : QueueSt) (ring : Tbl Byte) : Nat → Nat → Nat → Bool
  | _, _, 0 => true
  | 0, _, _ => false
  | fuel + 1, i, n =>
    let e := entriesFor s.eshift (leNat (ringRead s i 4 ring) % 8192)
    if n < e then false else onBoundary s ring fuel ((i + e) % (2 * s.depth)) (n - e)

/-- Is the index the host writes for this queue its tail (host-produced) or its head (host-consumed) (Table 14.4)? -/
def hostProduces (q : Nat) : Bool := decide (q < 8) || q == 56 || q == 58

def hostConsumes (q : Nat) : Bool := (decide (8 ≤ q) && decide (q < 16)) || (decide (48 ≤ q) && decide (q < 56))

/-- Is a doorbell write accepted (R108, R444, R10)? -/
def Chip.doorbellOk (c : Chip) (q idx : Nat) : Bool :=
  let s := c.queue q
  s.enable && !queueAbsent c.fuses.variant q && decide (idx < 2 * s.depth) &&
    (if hostProduces q then
      decide (idxDist s s.head idx ≤ s.depth) && onBoundary s c.ring s.depth s.head (idxDist s s.head idx)
    else if hostConsumes q then
      decide (idxDist s s.head idx ≤ s.fill) && onBoundary s c.ring s.depth s.head (idxDist s s.head idx)
    else false)

/-- A doorbell write (R107, R108): the new tail or head index, or E118 and DBERR with the old index kept. -/
def Chip.doorbell (q idx : Nat) (c : Chip) : Chip :=
  let s := c.queue q
  if c.doorbellOk q idx then
    if q < 8 then c.rungTo q idx
    else if hostProduces q then
      c.setQueue q { s with tail := idx, high := max s.high (idxDist s s.head idx) }
    else c.setQueue q { s with head := idx, fullTold := false }
  else
    (c.setQueue q { s with dberr := if s.dberr = 0xFFFF then s.dberr else s.dberr + 1 }).fire 118 (queueFault q 0).toNat

/-! ### Ownership (R60, R88, R558) -/

/-- Give an object to a side; a change that management makes fires E125 with the object's handle. -/
def Chip.setOwner (hnd : Nat) (toMgt byMgt : Bool) (c : Chip) : Chip :=
  if c.ownerIsMgt hnd == toMgt then c
  else
    let c1 := { c with owners := Tbl.set dFalse c.owners hnd toMgt }
    if byMgt then c1.fire 125 hnd else c1

/-! ### Meanings -/

/-- EVENT_ROUTE (R94). -/
def execEventRoute (ctx tag : Nat) (s : State) : Host.Outcome State Fault Refusal :=
  .next { s with chip := s.chip.runCmd 0xD 0 bodyEventRoute ctx tag }

/-- EVENT_MASK (R94). -/
def execEventMask (ctx tag : Nat) (s : State) : Host.Outcome State Fault Refusal :=
  .next { s with chip := s.chip.runCmd 0xD 1 bodyEventMask ctx tag }

/-- EVENT_READ (R91). -/
def execEventRead (ctx tag : Nat) (s : State) : Host.Outcome State Fault Refusal :=
  .next { s with chip := s.chip.runCmd 0xD 2 bodyEventRead ctx tag }

/-- QUEUE_CONFIG (R104). -/
def execQueueConfig (ctx tag : Nat) (s : State) : Host.Outcome State Fault Refusal :=
  .next { s with chip := s.chip.runCmd 0xD 3 bodyQueueConfig ctx tag }

/-- QUEUE_STATUS (R111). -/
def execQueueStatus (ctx tag : Nat) (s : State) : Host.Outcome State Fault Refusal :=
  .next { s with chip := s.chip.runCmd 0xD 4 bodyQueueStatus ctx tag }

/-- COALESCE_SET (R110). -/
def execCoalesceSet (ctx tag : Nat) (s : State) : Host.Outcome State Fault Refusal :=
  .next { s with chip := s.chip.runCmd 0xD 5 bodyCoalesceSet ctx tag }

/-- DELIVERY_RECORD_WRITE (R99). -/
def execDeliveryRecordWrite (event : Nat) (s : State) : Host.Outcome State Fault Refusal :=
  .next { s with chip := s.chip.deliverEvent event }

/-- COAL_TIME_EXPIRY (R110). -/
def execCoalTimeExpiry (queue : Nat) (s : State) : Host.Outcome State Fault Refusal :=
  .next { s with chip := s.chip.coalExpire queue }

end Sys2Proof.Machine
end

