-- ==== Sys2Proof/Machine/Pwm.lean ====
section
/-! DEFINITION. PWM groups and bridge drive (spec/06_pwm_and_bridges.md): shadows and boundaries, synchronisation, duties,
effective pulses, trips, halts, disable and safe. -/

namespace Sys2Proof.Machine

/-! ### Settings -/

/-- The four ports of a group (R15). -/
def groupPorts (k : Nat) : List Nat := [4 * k, 4 * k + 1, 4 * k + 2, 4 * k + 3]

/-- The shadows of a group: what its attributes and its bridges' attributes hold (R205). -/
def Chip.groupShadow (c : Chip) (k : Nat) : GroupSet :=
  { ctl := c.attrN tyGroup k 1, period := c.attrN tyGroup k 2, bndDiv := c.attrN tyGroup k 3, minpulse := c.attrN tyGroup k 4,
    cfg := [0, 1, 2, 3].map (fun i => c.attrN tyGroup k (16 + i)),
    duty := [0, 1, 2, 3].map (fun i => c.attrN tyGroup k (20 + i)),
    fail := [0, 1, 2, 3].map (fun i => c.attrN tyGroup k (24 + i)),
    dtRise := (groupPorts k).map (fun n => c.attrN tyBridge n 1),
    dtFall := (groupPorts k).map (fun n => c.attrN tyBridge n 2),
    trip := (groupPorts k).map (fun n => c.attrN tyBridge n 3) }

/-- A commit's changes reach a group's shadows (R205); `fresh` are the channels whose DUTY it carries. -/
def Chip.queueShadow (k : Nat) (fresh : List Nat) (c : Chip) : Chip :=
  let g := c.group k
  if g.state == .run then c.setGroup k { g with queued := g.queued ++ [(c.clk.now, c.groupShadow k, fresh)] } else c

/-- The set that governs a group now: the active one while it runs or is frozen, else its shadows. -/
def Chip.groupNow (c : Chip) (k : Nat) : GroupSet :=
  let g := c.group k
  if g.state == .run || g.state == .frozen then g.active else c.groupShadow k

def GroupSet.sync (g : GroupSet) : Bool := bit g.ctl 10
def GroupSet.halt (g : GroupSet) : Nat := bits g.ctl 0 2
def GroupSet.hold (g : GroupSet) : Nat := bits g.ctl 2 8

/-- The FOLLOW offset of R191, in ticks. -/
def GroupSet.offset (g : GroupSet) : Nat := bits g.ctl 12 8 * g.period / 256

def GroupSet.cfgOf (g : GroupSet) (i : Nat) : Nat := g.cfg.getD i 0

/-- CH_CFG.SRC: 0 DUTY, 1 SLOT, 2 ACTUATOR (Table 6.3). -/
def GroupSet.src (g : GroupSet) (i : Nat) : Nat := bits (g.cfgOf i) 8 2

/-- Is a channel used: its port in HBRIDGE or FAN (R196)? -/
def Chip.channelUsed (c : Chip) (n : Nat) : Bool := c.portMode n == mHbridge || c.portMode n == mFan

/-! ### Duties (R199) -/

/-- The duty of a fraction f against a period: round(|f| × PERIOD × 64). -/
def dutyOf (f : Int) (period : Nat) : Nat := (divr (f.natAbs * period * 64 : Nat) 65536).toNat

/-- The fraction that SLOT or ACTUATOR gives channel `i` of group `k` at a boundary at `t`: a slot write reaches it on the path of
a commit, 100 ns before (R205); an actuator's own fraction is taken as it stands (DESIGN CHOICE, log entry 82). -/
def Chip.channelF (c : Chip) (k i t : Nat) (g : GroupSet) : Int :=
  if g.src i == 2 then c.actuatorF (4 * k + i)
  else
    let sid := bits (g.cfgOf i) 16 12
    if c.sourceUsable sid ((c.group k).staleCh.getD i none) then (c.valueAt sid (t - 4)).toInt
    else (BitVec.ofNat 32 (g.fail.getD i 0)).toInt

/-- Duty and direction of channel `i` of group `k` under a set, at a boundary at `t` (R199, R200). -/
def Chip.channelDuty (c : Chip) (k i t : Nat) (g : GroupSet) : Nat × Bool :=
  let n := 4 * k + i
  if !c.channelUsed n then (0, false)
  else if g.src i == 0 then (bits (g.duty.getD i 0) 0 28, bit (g.duty.getD i 0) 31 && c.portMode n == mHbridge)
  else
    let f := c.channelF k i t g
    if f < 0 && c.portMode n == mFan then (0, false) else (dutyOf f g.period, decide (f < 0))

/-! ### Effective pulses (R202, R204) -/

/-- The filtered duty D′ of R204; `m` is MINPULSE × 64 fine steps. -/
def filterDuty (t m d : Nat) : Nat :=
  let p := if 2 * d < m then 0 else if d < m then m else d
  if t ≤ p then p
  else
    let g := t - p
    if 2 * g < m then t else if g < m then t - m else p

/-- High-side on-time in steady state (R202). -/
def effectivePulse (t rise fall d : Nat) : Nat :=
  if t ≤ d then t else if t ≤ d + fall then (if d ≤ rise then 0 else d) else d - rise

/-- Low-side on-time of the pulsing half-bridge in steady state (Tables 6.8 and 6.9). -/
def lowOnTime (t rise fall d : Nat) : Nat :=
  if t ≤ d then 0
  else if d ≤ rise then t
  else t - (d + fall)

/-! ### Channel periods (R190, R202) -/

/-- When the high side of the pulsing half-bridge turns on: DT_RISE after its low side, or at once where that was off. -/
def ChanPeriod.onset (p : ChanPeriod) : Nat := if p.low then p.rise else 0

/-- Is a high-side window made in a period of `t` fine steps? -/
def ChanPeriod.made (p : ChanPeriod) (t : Nat) : Bool := decide (p.onset < min p.cut t)

/-- The high-side on-time of a period of `t` fine steps. -/
def ChanPeriod.high (p : ChanPeriod) (t : Nat) : Nat := min p.cut t - p.onset

/-- Is the low side on at the end of a period of `t` fine steps? -/
def ChanPeriod.lowEnds (p : ChanPeriod) (t : Nat) : Bool := (!p.made t && p.low) || decide (p.cut + p.fall < t)

/-- Where an edge falls: on a coarse tick at or before its place where the delay line cannot be trimmed (R189). -/
def ChanPeriod.edge (p : ChanPeriod) (e : Nat) : Nat := if p.coarse then (p.start + e) / 64 * 64 else p.start + e

/-- The channel period of channel `i` that runs at `x` fine steps, its length and its number. -/
def GroupSt.running (g : GroupSt) (i x : Nat) : Option (ChanPeriod × Nat × Nat) :=
  match g.chans[i]?, g.before[i]? with
  | none, _ => none
  | some q, none => if q.start ≤ x then some (q, g.active.period * 64, g.boundaries) else none
  | some q, some p =>
    if q.start ≤ x then some (q, g.active.period * 64, g.boundaries) else some (p, q.start - p.start, g.boundaries - 1)

/-- The instant at which a group's switches stand: that of its halt while it is frozen (R211). -/
def Chip.groupInstant (c : Chip) (k : Nat) : Nat := if (c.group k).state == .frozen then (c.group k).haltAt else c.clk.now

/-- The start of a channel's period after a boundary at `t`: floor(PHASE × PERIOD / 4) fine steps after it (R190). -/
def GroupSet.startOf (g : GroupSet) (i t : Nat) : Nat := 64 * t + bits (g.cfgOf i) 0 8 * g.period / 4

/-! ### Trips (R208–R210) -/

/-- The number of the channel period that runs now. -/
def Chip.channelPeriod (c : Chip) (n : Nat) : Nat :=
  match (c.group (groupOf n)).running (n % 4) (64 * c.groupInstant (groupOf n)) with
  | some r => r.2.2
  | none => 0

def Chip.tripN (c : Chip) (n : Nat) : Nat := bits ((c.groupNow (groupOf n)).trip.getD (n % 4) 0) 0 8
def Chip.tripW (c : Chip) (n : Nat) : Nat := bits ((c.groupNow (groupOf n)).trip.getD (n % 4) 0) 8 8

/-- WCOUNT: the periods with a trip among the last W channel periods (R209). -/
def Chip.wcount (c : Chip) (n : Nat) : Nat :=
  ((c.bridge n).trips.filter (fun i => decide (c.channelPeriod n < i + c.tripW n))).length

/-- The instant of the trip in the present channel period, if there was one (R208). -/
def Chip.tripCut (c : Chip) (n : Nat) : Option Nat :=
  match (c.bridge n).cutAt with
  | some (i, t) => if i == c.channelPeriod n then some t else none
  | none => none

/-- E(48+k) for a bridge that has latched (Table 6.10). -/
def Chip.latchEvent (n : Nat) (c : Chip) : Chip :=
  let k := groupOf n
  let e := c.event (48 + k)
  let old := if e.pending then bits e.cause.toNat 0 4 else 0
  c.fire (48 + k) ((old ||| 2 ^ (n % 4)) + 256 * c.tripN n + 65536 * c.tripW n)

/-- The bridge latches (R209): E(48+k), and what its actuator makes of it (Tables 7.2 and 7.8). -/
def Chip.latchBridge (n : Nat) (c : Chip) : Chip :=
  ((((c.setBridge n { c.bridge n with latched := true }).latchEvent n).motorCut n 5).stopFloat n).valveFault n 2 true

/-- Latch where WCOUNT has reached N. -/
def Chip.checkLatch (n : Nat) (c : Chip) : Chip :=
  if !(c.bridge n).latched && decide (0 < c.wcount n) && decide (c.tripN n ≤ c.wcount n) then c.latchBridge n else c

/-- A comparator firing in channel period `i` (R208, R209): the high side is off for the rest of the period, and the period counts
once. -/
def BridgeSt.tripped (b : BridgeSt) (i now : Nat) : BridgeSt :=
  if b.trips.head? == some i then b
  else { b with trips := (i :: b.trips).take 255, total := b.total + 1, cutAt := some (i, now) }

/-- Note a trip at which WCOUNT stands at N. -/
def Chip.noteLatching (n : Nat) (c : Chip) : Chip :=
  if decide (0 < c.wcount n) && decide (c.tripN n ≤ c.wcount n) then
    c.setBridge n { c.bridge n with latchAt := some c.clk.now }
  else c

/-- The trips that a TRIP_CLEAR of this instant cleared count for a trip that latches with them (R210). -/
def Chip.meetClear (n i : Nat) (c : Chip) : Chip :=
  let b := c.bridge n
  match b.cleared with
  | none => c
  | some (t, old) =>
    let c1 := c.setBridge n { b with trips := old, total := if old.head? == some i then b.total - 1 else b.total }
    let c2 := c1.setBridge n ((c1.bridge n).tripped i c.clk.now)
    if t == c.clk.now && decide (c.tripN n ≤ c2.wcount n) then c1 else c

/-- OVERCURRENT_TRIP: the raw comparator fires in an ACTIVE HBRIDGE port, latched or not (R125, R208, R209). -/
def Chip.trip (n : Nat) (c : Chip) : Chip :=
  if !(c.portActive n && c.portMode n == mHbridge) then c
  else
    let st := (c.group (groupOf n)).state
    let i := c.channelPeriod n
    let c1 := if st == .run || st == .frozen then
        let c0 := c.meetClear n i
        (c0.setBridge n ((c0.bridge n).tripped i c.clk.now)).noteLatching n
      else c
    (c1.portCause n 0x4).checkLatch n

/-- TRIP_CLEAR (R210): the bridge is off until its next channel period.  A latching trip of the same moment wins. -/
def bodyTripClear (k : Cmd) (c : Chip) : Res :=
  let n := k.inst
  let b := c.bridge n
  if k.payload.length != 0 then .badLength c
  else if b.latched && b.latchAt == some c.clk.now then .ok (c.latchEvent n)
  else .ok ((c.setBridge n { b with
    latched := false, trips := [], off := if b.latched then some (c.channelPeriod n) else b.off
    cleared := some (c.clk.now, b.trips) }).motorResume n)

/-- BSTATE (Table 6.7). -/
def Chip.bstate (c : Chip) (n : Nat) : Nat :=
  if c.portMode n != mHbridge then 0
  else if (c.bridge n).latched then 3
  else if !c.portActive n || !c.groupRuns n || c.thermal.shutdown then 2
  else 1

/-- BR_STATUS (Table 6.7). -/
def Chip.bridgeStatus (c : Chip) (n : Nat) : Nat :=
  c.bstate n + 256 * c.wcount n + 65536 * b2n (match (c.group (groupOf n)).running (n % 4) (64 * c.groupInstant (groupOf n)) with
    | some r => r.1.rev
    | none => false)

/-! ### What a port's bridge and a fan's terminal do (R200, R209, R211, Table 6.4) -/

/-- The switches of a bridge: all off; both low sides on; the high side of half-bridge A (B in reverse) and the low side of the
other; or only the low side of the other. -/
inductive BridgeDrive where
  | coast
  | brake
  | drive (rev : Bool)
  | gap (rev : Bool)
  deriving DecidableEq, Repr

/-- The switches in a channel period of `t` fine steps at `x` fine steps (R202). -/
def ChanPeriod.drive (p : ChanPeriod) (t x : Nat) : BridgeDrive :=
  if p.made t then
    if x < p.edge p.onset then .gap p.rev
    else if t ≤ p.cut || decide (x < p.edge p.cut) then .drive p.rev
    else if x < p.edge (p.cut + p.fall) then .gap p.rev
    else .brake
  else if p.low || decide (p.edge (p.cut + p.fall) ≤ x) then .brake
  else .gap p.rev

/-- The switches after a trip at `tr` (R208): the low side of the pulsing half-bridge turns on after the dead time. -/
def ChanPeriod.cutDrive (p : ChanPeriod) (t tr x : Nat) : BridgeDrive :=
  if p.drive t (64 * tr) == .drive p.rev && decide (x < 64 * tr + p.fall) then .gap p.rev else .brake

/-- The switches of port `n`'s bridge now.  Before its first channel period they stay as they were when the group was enabled
(DESIGN CHOICE, log entry 83). -/
def Chip.bridgeDrive (c : Chip) (n : Nat) : BridgeDrive :=
  let k := groupOf n
  let g := c.group k
  let i := n % 4
  if c.portMode n != mHbridge || !c.portActive n || (c.bridge n).latched || c.thermal.shutdown then .coast
  else match g.state with
    | .disabled => if bit ((c.groupNow k).cfgOf i) 10 then .brake else .coast
    | .safe => if bit ((c.groupNow k).cfgOf i) 11 then .brake else .coast
    | _ =>
      match g.running i (64 * c.groupInstant k) with
      | none => if g.startLow.getD i false then .brake else .coast
      | some (p, t, num) =>
        if (c.bridge n).off == some num then .coast
        else match c.tripCut n with
          | some tr => p.cutDrive t tr (64 * c.clk.now)
          | none => p.drive t (64 * c.groupInstant k)

/-- What terminal A of a FAN port does: nothing; its 100 % level, released or 10 V; or low (Table 6.4, R200). -/
inductive FanOut where
  | off
  | full
  | low
  deriving DecidableEq, Repr

/-- Terminal A of a FAN port now. -/
def Chip.fanOut (c : Chip) (n : Nat) : FanOut :=
  let k := groupOf n
  let g := c.group k
  let i := n % 4
  let coded := fun b => if b then FanOut.low else .full
  if c.portMode n != mFan || !c.portActive n then .off
  else match g.state with
    | .disabled => coded (bit ((c.groupNow k).cfgOf i) 10)
    | .safe => coded (bit ((c.groupNow k).cfgOf i) 11)
    | _ =>
      match g.running i (64 * c.groupInstant k) with
      | none => coded (g.startLow.getD i false)
      | some (p, t, _) => if t ≤ p.cut || decide (64 * c.groupInstant k < p.edge p.cut) then .full else .low

/-! ### Boundaries (R190–R194, R205–R207, R217) -/

/-- The commits that move at a boundary at `t`: those that reached the synchroniser at least 100 ns before (R205); the channels
whose DUTY they carry; and what waits on. -/
def GroupSt.transfer (g : GroupSt) (t : Nat) : GroupSet × List Nat × List (Nat × GroupSet × List Nat) :=
  let ready := g.queued.filter (fun e => decide (e.1 + 4 ≤ t))
  (match ready.getLast? with
    | some e => e.2.1
    | none => g.active, ready.flatMap (fun e => e.2.2), g.queued.filter (fun e => !decide (e.1 + 4 ≤ t)))

/-- Is a channel in RUN: its bridge, or a FAN terminal that its group drives (R206)? -/
def Chip.channelRuns (c : Chip) (n : Nat) : Bool :=
  if c.portMode n == mFan then c.portActive n && c.groupRuns n else c.bstate n == 1

/-- Does a boundary that changes PERIOD leave a channel without a new DUTY (R206)? -/
def Chip.splits (c : Chip) (k : Nat) (old new : GroupSet) (fresh : List Nat) : Bool :=
  old.period != new.period && [0, 1, 2, 3].any (fun i =>
    c.channelUsed (4 * k + i) && c.channelRuns (4 * k + i) && new.src i == 0 && !fresh.contains i
      && (bits (new.duty.getD i 0) 0 28 != 0 || bits (old.duty.getD i 0) 0 28 != 0))

/-- The duty that R202 places: filtered first on the variants with minimum-pulse filtering (R204). -/
def Chip.placedDuty (c : Chip) (n d : Nat) (g : GroupSet) : Nat :=
  if c.portMode n == mHbridge && filterVariant c.fuses.variant then filterDuty (g.period * 64) (g.minpulse * 64) d else d

/-- Is the low side of the half-bridge that pulses next on at the start of a channel period (R202)? -/
def Chip.lowAtStart (c : Chip) (k i start : Nat) (rev : Bool) : Bool :=
  let g := c.group k
  let n := 4 * k + i
  match g.chans[i]? with
  | none => g.startLow.getD i false
  | some p =>
    if !c.portActive n || (c.bridge n).latched || c.thermal.shutdown then false
    else p.rev != rev || ((c.bridge n).cutAt.map (·.1)) == some g.boundaries || p.lowEnds (start - p.start)

/-- The period that channel `i` of group `k` starts after a boundary at `t` with the settings `set` (R190, R202). -/
def Chip.newPeriod (c : Chip) (k i t : Nat) (set : GroupSet) : ChanPeriod :=
  let d := c.channelDuty k i t set
  let fan := c.portMode (4 * k + i) == mFan
  let rise := if fan then 0 else set.dtRise.getD i 0
  { start := set.startOf i t, duty := d.1, cut := c.placedDuty (4 * k + i) d.1 set, rev := d.2, rise := rise
    fall := if fan then 0 else if filterVariant c.fuses.variant then rise else set.dtFall.getD i 0
    low := c.lowAtStart k i (set.startOf i t) d.2, coarse := bit (c.group k).badLines i }

/-- The channels whose duty is at or above the period (R207). -/
def Chip.clamps (c : Chip) (k : Nat) (g : GroupSet) (duty : List Nat) : Nat :=
  ([0, 1, 2, 3].map (fun i => if c.channelUsed (4 * k + i) && decide (g.period * 64 ≤ duty.getD i 0) then 2 ^ i else 0)).sum

/-- Does a pulse at `t` count for a group that waits for its first: does it come after the 100 ns that the command takes to its
counter (R195)? -/
def GroupSt.awake (g : GroupSt) (t : Nat) : Bool :=
  match g.wait with
  | some d => decide (d ≤ t + 4 * g.active.period)
  | none => true

/-- A synchronising pulse at `t` reaches a follower (R191, R192, R195), which takes each boundary once. -/
def Chip.pulseTo (k t : Nat) (c : Chip) : Chip :=
  let g := c.group k
  let b := t + g.active.offset
  if g.state == .run && g.following && g.awake t && decide (k < groupCount c.fuses.variant) then
    c.setGroup k { g with wait := none, next := some (if g.last == some b then b + g.active.period else b) }
  else c

/-- The sequences triggered by a group's boundary at `t` fall due SEQ_TRIG_DELAY later (R159). -/
def Chip.groupTrigger (k t : Nat) (c : Chip) : Chip :=
  { c with sampler := { c.sampler with seqs := c.sampler.seqs.map (fun e =>
      let ctl := e.2.live.ctl
      if e.2.armed && bits ctl 5 3 == 1 && bits ctl 8 3 == k then
        (e.1, { e.2 with dues := e.2.dues ++ [t + e.2.live.delay] })
      else e) } }

/-- When the boundary after `t` is due, and whether the group has lost its source (R194): only G0 follows SYNC_IN pulse by
pulse. -/
def GroupSt.advanceSync (g : GroupSt) (k : Nat) : GroupSt :=
  if k == 0 && g.following then
    let m := if g.pulseSeen then 0 else g.missed + 1
    if 4 ≤ m then { g with following := false, syncLost := true, syncNew := true, missed := 0, pulseSeen := false, adjust := 0 }
    else { g with missed := m, pulseSeen := false }
  else g

/-- GRP_CTL.SYNC of a set that becomes active decides how the next boundaries are placed (R191); a group that has lost its source
stays free until it is next enabled (R192, R194). -/
def GroupSt.placing (g : GroupSt) (set : GroupSet) : Bool :=
  if set.sync == g.active.sync then g.following else set.sync && !g.syncLost

/-- The notes of stale sources, without those of a channel whose SID changes (R199). -/
def GroupSt.staleAfter (g : GroupSt) (set : GroupSet) : List (Option Nat) :=
  [0, 1, 2, 3].map (fun i =>
    if bits (set.cfgOf i) 16 12 == bits (g.active.cfgOf i) 16 12 then g.staleCh.getD i none else none)

/-- The boundary of group `k` at `t` (R190, R205–R207, R217). -/
def Chip.boundaryAt (k t : Nat) (c : Chip) : Chip :=
  let g0 := (c.group k).advanceSync k
  let tr := g0.transfer t
  let set := tr.1
  let g := { g0 with following := g0.placing set, staleCh := g0.staleAfter set }
  let c0 := c.setGroup k g
  let chans := [0, 1, 2, 3].map (fun i => c0.newPeriod k i t set)
  let duty := chans.map (·.duty)
  let clamp := c.clamps k set duty
  let split := decide (0 < g.boundaries) && c.splits k g.active set tr.2.1
  let splitNew := split && !g.splitUpd
  let clampNew := clamp != 0 && !g.dutyClamp
  let n := g.boundaries + 1
  let next := ((t + set.period : Nat) + g.adjust).toNat
  let c1 := c.setGroup k { g with
    active := set, queued := tr.2.2, duty := duty, rev := chans.map (·.rev), chans := chans, before := g.chans
    splitUpd := g.splitUpd || split, dutyClamp := g.dutyClamp || clamp != 0, clampCh := g.clampCh ||| clamp, boundaries := n
    last := some t, next := some next, adjust := 0, syncNew := false }
  let told := (set.bndDiv != 0 && n % set.bndDiv == 0) || splitNew || clampNew || g.syncNew
  let c2 := if told then c1.fire (40 + k) (n % 65536 + 65536 * b2n splitNew + 131072 * b2n clampNew + 2 ^ 18 * clamp
      + 2 ^ 23 * b2n g.syncNew) else c1
  let c3 := (c2.pulseTo (k + 1) t).groupTrigger k t
  (groupPorts k).foldl (fun x p => x.checkLatch p) c3

/-- PERIOD_BOUNDARY: the next boundary of a running group; the counters of a group that has been stopped stop at it (R213). -/
def Chip.boundary (k : Nat) (c : Chip) : Chip :=
  match (c.group k).state, (c.group k).next with
  | .run, some t => (c.waitUntil t).boundaryAt k t
  | _, some t => (c.waitUntil t).setGroup k { c.group k with next := none }
  | _, none => c

/-- SYNC_OUT: high for 8 transit periods from each boundary of the highest present group in RUN (R193). -/
def Chip.syncOut (c : Chip) : Bool :=
  let g := c.group (groupCount c.fuses.variant - 1)
  g.state == .run && (match g.last with
    | some t => decide (c.clk.now < t + 8)
    | none => false)

/-- SYNC_IN_PULSE (R194, R195): the first boundary of a waiting G0, or an adjustment of its next period. -/
def Chip.syncIn (c : Chip) : Chip :=
  let g := c.group 0
  let off := g.active.offset
  let w : Int := (g.active.period / 256 : Nat)
  if !(g.state == .run && g.following) then c
  else if g.wait.isSome then
    (if g.awake c.clk.now then c.setGroup 0 { g with wait := none, next := some (c.clk.now + off), pulseSeen := true } else c)
  else
    let e1 : Int := (c.clk.now : Int) - ((g.next.getD 0 : Nat) - off : Int)
    let e2 : Int := (c.clk.now : Int) - ((g.last.getD 0 : Nat) - off : Int)
    if e1.natAbs ≤ w.natAbs then c.setGroup 0 { g with adjust := e1, pulseSeen := true }
    else if e2.natAbs ≤ w.natAbs then c.setGroup 0 { g with adjust := e2, pulseSeen := true }
    else c

/-- FOLLOW_PULSE_TIMEOUT: no source pulse within 4 × PERIOD; the group starts FREE and sets SYNC_LOST (R195). -/
def Chip.followTimeout (k : Nat) (c : Chip) : Chip :=
  let g := c.group k
  match g.state, g.wait with
  | .run, some d => (c.waitUntil d).setGroup k { g with
      wait := none, following := false, syncLost := true, syncNew := true, next := some d }
  | _, _ => c

/-- The channels of group `k` among some ports, as a mask. -/
def lineMask (k : Nat) (failed : List Nat) : Nat := ([0, 1, 2, 3].map (fun i => if failed.contains (4 * k + i) then 2 ^ i else 0)).sum

/-- DELAY_LINE_CALIBRATION, every 10 ms: a group sets DLY_FAIL and fires E(40+k) when a line of its channels cannot be trimmed, and
clears it at a success; a trim applies from the channel's next period start (R189). -/
def Chip.calibrateLines (failed : List Nat) (c : Chip) : Chip :=
  if c.islandHeld then c
  else
    let due := (c.group 0).lineDue
    (List.range (groupCount c.fuses.variant)).foldl (fun x k =>
      let g := x.group k
      let m := lineMask k failed
      let x1 := x.setGroup k { g with
        dlyFail := m != 0, badLines := m, lineDue := due + ms 10
        chans := g.chans.zipIdx.map (fun e => if 64 * x.clk.now < e.1.start then { e.1 with coarse := bit m e.2 } else e.1) }
      if m != 0 && !g.dlyFail then x1.fire (40 + k) (g.boundaries % 65536 + 2 ^ 22) else x1) (c.waitUntil due)

/-- SLOT_SOURCE_CHECK: a channel looks whether its source has gone STALE (R199). -/
def Chip.checkSlotSource (n : Nat) (c : Chip) : Chip :=
  let k := groupOf n
  let g := c.group k
  let s := c.groupNow k
  if s.src (n % 4) == 1 then
    c.setGroup k { g with staleCh := g.staleCh.set (n % 4) (c.noteStale (bits (s.cfgOf (n % 4)) 16 12)) }
  else c

/-! ### Enable, disable, safe and halt (R195, R211–R216) -/

/-- The follower of a group that stops running runs on alone (R192). -/
def Chip.orphan (k : Nat) (c : Chip) : Chip :=
  let g := c.group k
  if g.state == .run && g.following && g.wait.isNone then
    c.setGroup k { g with following := false, syncLost := true, syncNew := true }
  else c

/-- Are the low sides of port `n`'s bridge on, or its FAN terminal low? -/
def Chip.isLow (c : Chip) (n : Nat) : Bool := c.bridgeDrive n == .brake || c.fanOut n == .low

/-- PWM_GROUP_ENABLE of a group that is not in RUN (R195). -/
def Chip.enableGroup (k : Nat) (c : Chip) : Chip :=
  let g := c.group k
  let s := c.groupShadow k
  let c1 := c.setGroup k { dGroup k with
    state := .run, cause := g.cause, dlyFail := g.dlyFail, splitUpd := g.splitUpd, dutyClamp := g.dutyClamp,
    clampCh := g.clampCh, active := s, following := s.sync, badLines := g.badLines, lineDue := g.lineDue
    startLow := (groupPorts k).map c.isLow
    next := if s.sync then none else some (c.clk.now + 4)
    wait := if s.sync then some (c.clk.now + 4 + 4 * s.period) else none }
  let c2 := (groupPorts k).foldl (fun x n => x.setBridge n { x.bridge n with
    trips := [], cutAt := none, off := none, cleared := none }) c1
  (groupPorts k).foldl (fun x n => (x.fanGroupRuns n).motorResume n) c2

/-- PWM_GROUP_ENABLE (R195); BUSY while the group is halted or the island is held (DESIGN CHOICE, log entry 27).  A GROUP_SAFE of
the same moment wins (R213): the command is answered OK and the group is SAFE. -/
def bodyGroupEnable (k : Cmd) (c : Chip) : Res :=
  if k.payload.length != 0 then .badLength c
  else if (c.group k.inst).state == .run then .ok c
  else if c.islandHeld || (c.group k.inst).haltKind != 0 then .err stBusy noOfs c
  else if (c.group k.inst).safeAt == some c.clk.now then .ok c
  else .ok (c.enableGroup k.inst)

/-- What a group's end of drive does to the motors of its ports: COAST cuts, BRAKE brakes (Table 7.2). -/
def Chip.stopMotors (k codeBit : Nat) (s : GroupSet) (c : Chip) : Chip :=
  (groupPorts k).foldl (fun x n => if bit (s.cfgOf (n % 4)) codeBit then (x.motorBrake n).stopFloat n else (x.motorCut n 2).stopFloat n) c

/-- A group leaves RUN or FROZEN, or is put into another stopped state (R212, R213): `codeBit` names IDLE (10) or SAFE (11) of
CH_CFG.  The counters of a group in RUN stop at its next boundary. -/
def Chip.stopGroup (k codeBit : Nat) (st : GroupState) (c : Chip) : Chip :=
  let g := c.group k
  let s := c.groupNow k
  let driven := g.state == .run || g.state == .frozen
  let c1 := c.setGroup k { g with
    state := st, next := if g.state == .disabled || g.state == .safe || g.state == .run then g.next else none, wait := none, following := false, holdDue := none, queued := [], syncNew := false,
    haltKind := 0 }
  let c2 := if g.state == .run then c1.orphan (k + 1) else c1
  if driven then c2.stopMotors k codeBit s else c2

/-- PWM_GROUP_DISABLE (R213). -/
def bodyGroupDisable (k : Cmd) (c : Chip) : Res :=
  if k.payload.length != 0 then .badLength c else .ok (c.stopGroup k.inst 10 .disabled)

/-- Put a group SAFE with its CAUSE: 3 GROUP_SAFE from the host, 4 from management (Table 6.5, R213). -/
def Chip.forceSafe (k cause : Nat) (c : Chip) : Chip :=
  let c1 := c.stopGroup k 11 .safe
  c1.setGroup k { c1.group k with cause := cause, safeAt := some c.clk.now }

/-- One group applies its HALT setting (R211). -/
def Chip.haltGroup (k cause : Nat) (c : Chip) : Chip :=
  let g := c.group k
  if g.state != .run then c
  else if g.active.halt == 1 then
    let c1 := c.stopGroup k 11 .safe
    c1.setGroup k { c1.group k with cause := cause, haltKind := cause, next := none }
  else
    (c.setGroup k { g with
      state := .frozen, cause := cause, haltKind := cause, haltAt := c.clk.now, next := none, wait := none, following := false
      holdDue := if g.active.halt == 2 then some (c.clk.now + ms g.active.hold) else none }).orphan (k + 1)

/-- A halt of the timed island: every group in RUN applies its setting (R211). -/
def Chip.haltGroups (cause : Nat) (c : Chip) : Chip :=
  (List.range 8).foldl (fun x k => x.haltGroup k cause) c

/-- HALT_HOLD_EXPIRY: the hold of FREEZE_THEN_SAFE ends (R211). -/
def Chip.holdExpires (k : Nat) (c : Chip) : Chip :=
  let g := c.group k
  match g.state, g.holdDue with
  | .frozen, some d =>
    let c1 := (c.waitUntil d).stopGroup k 11 .safe
    c1.setGroup k { c1.group k with haltKind := g.haltKind }
  | _, _ => c

/-- Release of the debug halt: the groups that it halted become DISABLED (R212). -/
def Chip.releaseGroups (c : Chip) : Chip :=
  (List.range 8).foldl (fun x k => if (x.group k).haltKind == 1 then x.stopGroup k 10 .disabled else x) c

/-- GROUP_SAFE (R213, R214): from management it acts whatever the owner, takes the ownership, and fires E126. -/
def Chip.groupSafe (k : Nat) (byMgt : Bool) (c : Chip) : Chip :=
  if byMgt then ((c.forceSafe k 4).setOwner (handle tyGroup k) true true).fire 126 (0x10 + 256 * 2 ^ k)
  else c.forceSafe k 3

/-- GROUP_SAFE (R213). -/
def bodyGroupSafe (k : Cmd) (c : Chip) : Res :=
  if k.payload.length != 0 then .badLength c else .ok (c.groupSafe k.inst (isMgtCtx k.ctx))

/-- GRP_STATUS (Table 6.5). -/
def Chip.groupStatus (c : Chip) (k : Nat) : Nat :=
  let g := c.group k
  g.state.code + 4 * b2n g.syncLost + 8 * b2n g.dlyFail + 16 * g.cause + 256 * b2n g.splitUpd + 512 * b2n g.dutyClamp
    + 4096 * g.clampCh

/-- A write of GRP_STATUS: SPLIT_UPD and DUTY_CLAMP clear where written 1, CLAMP_CH with the latter. -/
def Chip.clearGroupStatus (k m : Nat) (c : Chip) : Chip :=
  let g := c.group k
  c.setGroup k { g with
    splitUpd := g.splitUpd && !bit m 8, dutyClamp := g.dutyClamp && !bit m 9, clampCh := if bit m 9 then 0 else g.clampCh }

/-! ### Meanings -/

/-- PWM_GROUP_ENABLE (R195). -/
def execPwmGroupEnable (ctx tag : Nat) (s : State) : Host.Outcome State Fault Refusal :=
  .next { s with chip := s.chip.runCmd 4 0 bodyGroupEnable ctx tag }

/-- PWM_GROUP_DISABLE (R213). -/
def execPwmGroupDisable (ctx tag : Nat) (s : State) : Host.Outcome State Fault Refusal :=
  .next { s with chip := s.chip.runCmd 4 1 bodyGroupDisable ctx tag }

/-- GROUP_SAFE (R213). -/
def execGroupSafe (ctx tag : Nat) (s : State) : Host.Outcome State Fault Refusal :=
  .next { s with chip := s.chip.runCmd 4 2 bodyGroupSafe ctx tag }

/-- TRIP_CLEAR (R210). -/
def execTripClear (ctx tag : Nat) (s : State) : Host.Outcome State Fault Refusal :=
  .next { s with chip := s.chip.runCmd 4 3 bodyTripClear ctx tag }

/-- SYNC_IN_PULSE (R194). -/
def execSyncInPulse (s : State) : Host.Outcome State Fault Refusal :=
  .next { s with chip := s.chip.syncIn }

/-- PERIOD_BOUNDARY (R205). -/
def execPeriodBoundary (group : Nat) (s : State) : Host.Outcome State Fault Refusal :=
  .next { s with chip := s.chip.boundary group }

/-- DELAY_LINE_CALIBRATION (R189). -/
def execDelayLineCalibration (failed : List Nat) (s : State) : Host.Outcome State Fault Refusal :=
  .next { s with chip := s.chip.calibrateLines failed }

/-- HALT_HOLD_EXPIRY (R211). -/
def execHaltHoldExpiry (group : Nat) (s : State) : Host.Outcome State Fault Refusal :=
  .next { s with chip := s.chip.holdExpires group }

/-- OVERCURRENT_TRIP (R208). -/
def execOvercurrentTrip (port : Nat) (s : State) : Host.Outcome State Fault Refusal :=
  .next { s with chip := s.chip.trip port }

/-- SLOT_SOURCE_CHECK (R199). -/
def execSlotSourceCheck (port : Nat) (s : State) : Host.Outcome State Fault Refusal :=
  .next { s with chip := s.chip.checkSlotSource port }

/-- FOLLOW_PULSE_TIMEOUT (R195). -/
def execFollowPulseTimeout (group : Nat) (s : State) : Host.Outcome State Fault Refusal :=
  .next { s with chip := s.chip.followTimeout group }

end Sys2Proof.Machine
end

