-- ==== Sys2Proof/Machine/Sampler.lean ====
section
/-! DEFINITION. The sampler (spec/05_sampler.md, R152–R175, R186): sequences, passes, results, correction and scaling, and the
housekeeping and equalisation slots. -/

namespace Sys2Proof.Machine

/-! ### Sequences (R156–R163) -/

def Chip.seq (c : Chip) (h : Nat) : SeqSt := Tbl.get dSeq c.sampler.seqs h

def Chip.setSeq (h : Nat) (s : SeqSt) (c : Chip) : Chip :=
  { c with sampler := { c.sampler with seqs := Tbl.set dSeq c.sampler.seqs h s } }

def Chip.setSampler (f : SamplerSt → SamplerSt) (c : Chip) : Chip := { c with sampler := f c.sampler }

/-- SE_WORD of an entry (Table 5.3). -/
def Chip.seWord (c : Chip) (e : Nat) : Nat := c.attrN tySeq e 1

/-- SEQ_CTL of an entry (Table 5.4). -/
def Chip.seqCtl (c : Chip) (e : Nat) : Nat := c.attrN tySeq e 2

def seHead (ctl : Nat) : Bool := bit ctl 0
def seMode (ctl : Nat) : Nat := bits ctl 1 2
def seTrig (ctl : Nat) : Nat := bits ctl 5 3
def seClass (ctl : Nat) : Nat := bits ctl 12 2
def seAutostart (ctl : Nat) : Bool := bit ctl 14
def seCh (w : Nat) : Nat := bits w 0 7
def seLast (w : Nat) : Bool := bit w 7
def seAvg (w : Nat) : Nat := bits w 11 3

/-- Extra acquisition slots of SETTLE (Table 5.3). -/
def seSettle (w : Nat) : Nat := if bits w 8 3 = 0 then 0 else 2 ^ (bits w 8 3 - 1)

/-- Conversion spacing of a slice mode in 25 ns periods (Table 5.1). -/
def seSpacing (ctl : Nat) : Nat := if seMode ctl == 0 then 40 else if seMode ctl == 1 then 20 else 10

/-- The slices that a sequence uses (R152, Table 5.4). -/
def seSlices (ctl : Nat) : List Nat :=
  if seMode ctl == 0 then [bits ctl 3 2]
  else if seMode ctl == 1 then (if bits ctl 3 2 == 0 then [0, 1] else [2, 3])
  else [0, 1, 2, 3]

/-- Duration D of an entry (R165). -/
def entryTime (ctl w : Nat) : Nat := 40 * seSettle w + (2 ^ seAvg w - 1) * seSpacing ctl + 40

/-- The entries of a sequence from entry `i`, to the first with LAST set; `fuel` bounds them (at most 128). -/
def Chip.seqFrom (c : Chip) : Nat → Nat → List Nat
  | 0, _ => []
  | fuel + 1, i => if 128 ≤ i then [] else if seLast (c.seWord i) then [i] else i :: c.seqFrom fuel (i + 1)

/-- The entries of the sequence headed by `h`. -/
def Chip.seqEntries (c : Chip) (h : Nat) : List Nat := c.seqFrom 128 h

/-- Duration of a pass (R165). -/
def Chip.passTime (c : Chip) (h : Nat) : Nat := ((c.seqEntries h).map (fun e => entryTime (c.seqCtl h) (c.seWord e))).sum

/-- Trigger interval in 25 ns periods: a group's committed period, or the pass itself for CONTINUOUS; 0 for SINGLE (R162). -/
def Chip.trigInterval (c : Chip) (h : Nat) : Nat :=
  let ctl := c.seqCtl h
  if seTrig ctl == 0 then c.attrN tySeq h 3
  else if seTrig ctl == 1 then c.attrN tyGroup (bits ctl 8 3) 2
  else if seTrig ctl == 3 then c.passTime h
  else 0

/-- The heads that are armed or have AUTOSTART (R162). -/
def Chip.activeHeads (c : Chip) : List Nat :=
  (List.range 128).filter (fun h => seHead (c.seqCtl h) && ((c.seq h).armed || seAutostart (c.seqCtl h)))

/-- Load of a slice as a fraction: pass duration over trigger interval, summed (R162). -/
def Chip.sliceLoad (c : Chip) (heads : List Nat) (slice : Nat) : Nat × Nat :=
  heads.foldl (fun a h =>
    if !(seSlices (c.seqCtl h)).contains slice then a
    else if c.trigInterval h == 0 then a
    else (a.1 * c.trigInterval h + c.passTime h * a.2, a.2 * c.trigInterval h)) (0, 1)

/-- Does some slice carry more than it may: 100 %, or 99 % on ADC3? -/
def Chip.overloaded (c : Chip) (heads : List Nat) : Bool :=
  [0, 1, 2, 3].any (fun s =>
    let l := c.sliceLoad heads s
    decide ((if s == 3 then 99 else 100) * l.2 < 100 * l.1))

/-- Conversions per second of a channel, as a fraction, over some sequences. -/
def Chip.channelRate (c : Chip) (heads : List Nat) (ch : Nat) : Nat × Nat :=
  heads.foldl (fun a h =>
    let n := ((c.seqEntries h).filter (fun e => seCh (c.seWord e) == ch)).length
    if n == 0 || c.trigInterval h == 0 then a
    else (a.1 * c.trigInterval h + n * 40000000 * a.2, a.2 * c.trigInterval h)) (0, 1)

/-- The rate that Table 4.3 asks for on a port's first channel: PYRO 100 S/s, HBRIDGE with a DAMPER bound 40 kS/s. -/
def Chip.minRate (c : Chip) (n : Nat) : Nat :=
  if c.portMode n == mPyro then 100
  else if c.portMode n == mHbridge && c.motorBound n then 40000
  else 0

/-- The lowest port whose minimum rate the sequences do not give, if any (R162). -/
def Chip.rateMissing (c : Chip) (heads : List Nat) : Option Nat :=
  (List.range 32).find? (fun n =>
    c.minRate n != 0 && (let r := c.channelRate heads (2 * n); decide (r.1 < c.minRate n * r.2)))

/-- May a class-0 sequence have these settings (R162)? -/
def Chip.class0Ok (c : Chip) (h : Nat) : Bool :=
  seClass (c.seqCtl h) != 0
    || ((seTrig (c.seqCtl h) == 0 || seTrig (c.seqCtl h) == 1) && (c.seqEntries h).all (fun e => seAvg (c.seWord e) == 0))

/-- The settings of the sequence headed by `h` as they are committed. -/
def Chip.seqSet (c : Chip) (h : Nat) : SeqSet :=
  ⟨c.seqCtl h, c.attrN tySeq h 3, c.attrN tySeq h 4, (c.seqEntries h).map (fun e => (e, c.seWord e))⟩

/-- The periods that a commit needs to reach the sampler (R30, Table 1.4). -/
def seqShare : Nat := 2

/-- The settings that a pass which starts at `t` takes (R30, R163). -/
def SeqSt.settings (s : SeqSt) (t : Nat) : SeqSet :=
  match (s.changes.filter (fun x => decide (x.1 + seqShare ≤ t))).getLast? with
  | some x => x.2
  | none => s.live

/-- The commits that a pass which starts at `t` does not take. -/
def SeqSt.later (s : SeqSt) (t : Nat) : List (Nat × SeqSet) := s.changes.filter (fun x => decide (t < x.1 + seqShare))

/-- A commit changed the sequence headed by `h` from the settings `was` (R163): an armed sequence takes it at a pass start. -/
def Chip.noteSeq (was : SeqSet) (h : Nat) (c : Chip) : Chip :=
  let s := c.seq h
  let t := c.clk.now
  let live := if s.armed then s.live else if (s.later t).isEmpty then was else s.settings t
  c.setSeq h { s with live := live, changes := (if s.armed then s.changes else s.later t) ++ [(t, c.seqSet h)] }

/-- Arm a sequence (R159, R163). -/
def Chip.armSeq (h : Nat) (c : Chip) : Chip :=
  let s := c.seq h
  let t := c.clk.now
  if s.armed then (if seTrig s.live.ctl == 2 then c.setSeq h { s with dues := s.dues ++ [t] } else c)
  else
    let live := if (s.later t).isEmpty then c.seqSet h else s.settings t
    c.setSeq h { s with
      armed := true, live := live, changes := s.later t, overruns := 0, passes := 0
      dues := if seTrig live.ctl == 1 then [] else [t] }

/-- Is a pass of the sequence running at instant `t`? -/
def Chip.passRuns (c : Chip) (h t : Nat) : Bool := c.sampler.passes.any (fun p => p.head == h && decide (t < p.ends))

/-- SEQ_PASS_DUE: the oldest due time has come: the pass waits for its slices, or is skipped with E33 (R159, R161). -/
def Chip.passDue (h : Nat) (c : Chip) : Chip :=
  let s := c.seq h
  match s.dues with
  | [] => c
  | d0 :: rest =>
    let d := rest.foldl min d0
    let c1 := c.waitUntil d
    let left := s.dues.erase d ++ (if seTrig s.live.ctl == 0 && s.armed then [d + s.live.period] else [])
    if c.passRuns h d || s.waiting.isSome then
      let n := if s.overruns = 0xFFFF then s.overruns else s.overruns + 1
      (c1.setSeq h { s with dues := left, overruns := n }).fire 33 (h + 256 * b2n s.waiting.isSome + 65536 * n.toNat)
    else c1.setSeq h { s with dues := left, waiting := some d }

/-- Results that a pass will bring, entry by entry from instant `t` (R165). -/
def resultsFrom (h ctl : Nat) : List (Nat × Nat) → Nat → List ResultDue
  | [], _ => []
  | (e, w) :: rest, t =>
    let d := seSpacing ctl
    let first := t + 40 * seSettle w + 10
    let last := first + (2 ^ seAvg w - 1) * d
    { head := h, ctl := ctl, entry := e, word := w, start := t, first := first, arrive := last + 40, stamp := first + (2 ^ seAvg w - 1) * d / 2 }
      :: resultsFrom h ctl rest (t + entryTime ctl w)

/-- Does a waiting pass of another sequence have an earlier rank on one of the slices `sl` (R160)? -/
def Chip.outranked (c : Chip) (h d : Nat) (sl : List Nat) : Bool :=
  c.sampler.seqs.any (fun e =>
    e.1 != h && (match e.2.waiting with
      | some d2 => (decide (d2 < d) || (d2 == d && decide (e.1 < h)))
          && sl.any (fun s => (seSlices (e.2.settings c.clk.now).ctl).contains s)
      | none => false))

/-- The first instant from `t` at which slices are free. -/
def Chip.slicesFree (c : Chip) (sl : List Nat) (t : Nat) : Nat := sl.foldl (fun t i => max t (c.sampler.busyUntil.getD i 0)) t

/-- What new settings do to the passes that are to fall due (R159): a new trigger starts anew from the pass that takes them, at
`d`. -/
def SeqSet.duesAfter (was new : SeqSet) (d : Nat) (dues : List Nat) : List Nat :=
  if seTrig was.ctl == seTrig new.ctl && was.period == new.period && bits was.ctl 8 3 == bits new.ctl 8 3 then dues
  else if seTrig new.ctl == 0 then [d + new.period]
  else []

/-- SEQ_PASS_START: the waiting pass takes its slices as soon as they are free, and the settings that have reached the sampler
by then (R30, R160, R163).  A sequence whose head has lost HEAD ends. -/
def Chip.passStart (h : Nat) (c : Chip) : Chip :=
  let s := c.seq h
  match s.waiting with
  | none => c
  | some d =>
    let first := c.slicesFree (seSlices (s.settings (max d c.clk.now)).ctl) (max d c.clk.now)
    let set := s.settings first
    let sl := seSlices set.ctl
    if c.outranked h d sl || c.islandHeld then c
    else if !seHead set.ctl then c.setSeq h { s with armed := false, dues := [], waiting := none, live := set, changes := [] }
    else
      let start := c.slicesFree sl first
      let ends := start + (set.entries.map (fun e => entryTime set.ctl e.2)).sum
      let c1 := (c.waitUntil start).setSeq h { s with
        waiting := none, armed := s.armed && seTrig set.ctl != 2, live := set, changes := s.later first
        dues := s.live.duesAfter set d s.dues }
      c1.setSampler (fun m => { m with
        passes := m.passes ++ [⟨h, set.ctl, start, ends, sl⟩]
        dues := m.dues ++ resultsFrom h set.ctl set.entries start
        busySince := (List.range 4).map (fun i =>
          if sl.contains i && m.busyUntil.getD i 0 + 40 ≤ start then start else m.busySince.getD i 0)
        busyUntil := (List.range 4).map (fun i => if sl.contains i then ends else m.busyUntil.getD i 0) })

/-- SEQ_PASS_END: counts, E32, the next CONTINUOUS pass, and the SEQ_STOP that waited (R159, R163, R186). -/
def Chip.passEnd (h : Nat) (c : Chip) : Chip :=
  match c.sampler.passes.find? (fun p => p.head == h) with
  | none => c
  | some p =>
    let c1 := c.waitUntil p.ends
    let s := c1.seq h
    let again := s.armed && seTrig s.live.ctl == 3
    let c2 := (c1.setSampler (fun m => { m with passes := m.passes.filter (fun q => q.head != h) })).setSeq h { s with
      passes := s.passes + 1, lastPass := BitVec.ofNat 32 (p.ends - p.start + 10)
      dues := if again then s.dues ++ [p.ends] else s.dues, stopCmd := none }
    let c3 := if bit p.ctl 11 then c2.fire 32 (h + 65536 * ((s.passes + 1).toNat % 65536)) else c2
    match s.stopCmd with
    | some (x, t) => c3.finishTag x t stOK noOfs []
    | none => c3

/-- Delay the rest of the passes that hold a slice by inserted slots, from their next entry on (R153, R155). -/
def Chip.insertSlots (slice periods : Nat) (c : Chip) : Chip :=
  let now := c.clk.now
  let hit := c.sampler.passes.filter (fun p => p.slices.contains slice && decide (now < p.ends))
  c.setSampler (fun m => { m with
    passes := m.passes.map (fun p => if hit.contains p then { p with ends := p.ends + periods } else p)
    dues := m.dues.map (fun r =>
      if hit.any (fun p => p.head == r.head) && decide (now < r.start) then
        { r with start := r.start + periods, first := r.first + periods, arrive := r.arrive + periods, stamp := r.stamp + periods } else r)
    busySince := m.busySince.set slice now
    busyUntil := (List.range 4).map (fun i =>
      if hit.any (fun p => p.slices.contains i) then m.busyUntil.getD i 0 + periods else m.busyUntil.getD i 0) })

/-- Is a slot of a slice idle now? -/
def Chip.sliceIdle (c : Chip) (slice : Nat) : Bool := decide (c.sampler.busyUntil.getD slice 0 ≤ c.clk.now)

/-- Has a slice had no idle slot for `t` periods, and has the pass that holds it a later entry before which slots can be
inserted? -/
def Chip.sliceStarved (c : Chip) (slice t : Nat) : Bool :=
  !c.sliceIdle slice && decide (c.sampler.busySince.getD slice 0 + t ≤ c.clk.now)
    && c.sampler.passes.any (fun p => p.slices.contains slice && decide (c.clk.now < p.ends)
        && c.sampler.dues.any (fun r => r.head == p.head && decide (c.clk.now < r.start)))

/-- The slots of a slice for housekeeping or equalisation: idle ones, or inserted ones where there have been none for `t`
periods (R153, R155).  Nothing where there is neither yet. -/
def Chip.takeSlots (slice t periods : Nat) (c : Chip) : Option Chip :=
  if c.sliceIdle slice then some c else if c.sliceStarved slice t then some (c.insertSlots slice periods) else none

/-! ### Ranges, records and correction (R171–R174, R176, R177) -/

/-- Excitation in µA (Table 4.5, EXC). -/
def excitation (n : Nat) : Nat := [10, 20, 50, 100, 200, 500, 1000].getD n 1000

/-- A measurable range: LO and LSB/16, both over a common denominator (Tables 5.7, 5.9). -/
structure Scale where
  lo : Int
  step : Int
  den : Nat
  deriving DecidableEq, Repr

/-- Ranges 0–8 (Table 5.7); `exc` is the excitation of RATIO in µA. -/
def portScale (r exc : Nat) : Scale :=
  if r == 0 then ⟨-512000, 17, 16000⟩
  else if r == 1 then ⟨-32000, 11, 64000⟩
  else if r == 2 then ⟨-360448, 11, 32000⟩
  else if r == 3 then ⟨-2000, 1, 2000⟩
  else if r == 4 then ⟨0, 4000, 65536 * exc⟩
  else if r == 5 then ⟨0, 3, 160⟩
  else if r == 6 then ⟨-32768, 1, 20000⟩
  else if r == 7 then ⟨-32768, 1, 16⟩
  else ⟨-294912, 9, 8000⟩

/-- Internal channels CH64–CH91 (Table 5.9). -/
def internalScale (ch : Nat) : Scale :=
  if ch ≤ 65 then ⟨0, 3, 4000⟩
  else if ch == 66 then ⟨0, 1, 16000⟩
  else if ch == 67 then ⟨0, 1, 8⟩
  else if ch == 68 then ⟨0, 1, 64000⟩
  else if ch == 69 then ⟨0, 1, 4000⟩
  else if ch == 70 then ⟨0, 1, 8000⟩
  else if ch == 71 then ⟨0, 1, 16000⟩
  else if ch ≤ 76 then ⟨-16384, 1, 256⟩
  else if ch == 77 then ⟨0, 1, 16000⟩
  else if ch == 78 then ⟨-32768, 1, 160000⟩
  else if ch == 79 then ⟨0, 1, 65536⟩
  else if ch ≤ 89 then ⟨-32000, 1, 1000⟩
  else if ch == 90 then ⟨0, 1, 16⟩
  else ⟨0, 1, 16000⟩

/-- The range of a port channel by mode (Table 5.8). -/
def Chip.channelRange (c : Chip) (ch : Nat) : Nat :=
  let n := ch / 2
  let m := c.portMode n
  let b := ch % 2 == 1
  if m == mVin then (if !b && bit (c.portCfg n) 5 then 2 else 1)
  else if m == mVinBipolar then 2
  else if m == mIin then (if b then 0 else 3)
  else if m == mRin then (if b then 1 else 4)
  else if m == mCin then (if b then 1 else 5)
  else if m == mPyro then (if b then 1 else 6)
  else if m == mVout || m == mSbus then 1
  else if m == mHbridge then (if b then 8 else 7)
  else 0

/-- The scale of a channel now. -/
def Chip.channelScale (c : Chip) (ch : Nat) : Scale :=
  if ch < 64 then portScale (c.channelRange ch) (excitation (bits (c.portCfg (ch / 2)) 8 3)) else internalScale ch

/-- Is a channel absent or reserved (R10, R172)? -/
def Chip.channelAbsent (c : Chip) (ch : Nat) : Bool :=
  if ch < 64 then decide (portCount c.fuses.variant ≤ ch / 2)
  else if 80 ≤ ch && ch < 90 then decide (panelCount c.fuses.variant ≤ (ch - 80) / 5)
  else decide (92 ≤ ch)

/-- Byte of the factory's calibration set (Tables 5.10, 5.11; log entry 6): identity records, CALIBRATED
and FACTORY set, TCAL 25 °C. -/
def factoryByte (uid off : Nat) : Byte :=
  if off < 64 then
    (leBytes 4 0x4C41434A ++ leBytes 2 1 ++ leBytes 2 4932 ++ leBytes 8 uid ++ zeros 48).getD off 0
  else if off < 4928 then ([3, 25, 0, 0, 0, 0x40] : List Byte).getD (off % 8 - 2) 0 * (if off % 8 < 2 then 0 else 1)
  else 0

/-- Byte of a set that unlisted offsets read as. -/
def Chip.dCal (c : Chip) (off : Nat) : Byte := factoryByte c.fuses.uid off

/-- Offset of a channel's record in a set (R176). -/
def recordOffset (ch range : Nat) : Nat := if ch < 64 then 64 + (ch * 9 + range) * 8 else 4672 + (ch - 64) * 8

/-- Bytes of the working copy. -/
def Chip.calBytes (c : Chip) (off n : Nat) : List Byte := Tbl.getRun c.dCal c.cal.working off n

/-- The record that applies to a channel: an invalid store applies the identity record (R177); a working copy that was loaded
before the store was lost goes on (R183). -/
def Chip.calRecord (c : Chip) (ch range : Nat) : List Byte :=
  if c.cal.loaded then c.calBytes (recordOffset ch range) 8 else [0, 0, 0, 0, 0, 0, 0, 0x40]

/-- GTC of a range (Table 5.10). -/
def Chip.calGtc (c : Chip) (r : Nat) : Int := if c.cal.loaded then signed 16 (leNat (c.calBytes (28 + 2 * r) 2)) else 0

/-- CALX (R177). -/
def Chip.calX (c : Chip) (ch range : Nat) : Bool := !c.cal.valid || !bit (fld (c.calRecord ch range) 2 1) 0

/-- Steps 2 and 3 of R174: the corrected code in Q12.4. -/
def Chip.corrected (c : Chip) (ch range : Nat) (r16 : Int) : Int :=
  let r := c.calRecord ch range
  let gain : Int := fld r 4 4
  let dT := c.sampler.temp - signed 8 (fld r 3 1)
  let gainT := gain + divr (gain * c.calGtc (if ch < 64 then range else 9) * dT) 10000000
  rsh ((r16 - signed 16 (fld r 0 2)) * gainT) 30

/-- Step 1 of R174 and CODE of Table 5.6: an average of codes in 1/`k`, rounded half up. -/
def averageOf (k sum n : Nat) : Nat := (2 * k * sum + n) / (2 * max 1 n)

/-! ### Results (R167–R175) -/

/-- The converted value of a channel (R174 steps 4–6) and whether it was clamped low or high: the RIN curve and the CIN
quotient carry the error that R174 allows, |e| ≤ 65/65536 (a free value). -/
def Chip.valueOf (c : Chip) (ch : Nat) (sc : Scale) (c16 : Int) : Int × Bool × Bool :=
  let num := sc.lo + c16 * sc.step
  let n := ch / 2
  let e : Int := ((Config.freeWord c.freeCount).toNat % 131 : Nat) - 65
  if ch < 64 && ch % 2 == 0 && c.portMode n == mRin then
    let sensor := bits (c.portCfg n) 11 2
    let v := sensorCurve sensor num.toNat sc.den (c.attrN tyPort n 7) (c.attrN tyPort n 8) + e
    let r := sensorRange sensor
    (clampI (r.1 * 65536) (r.2 * 65536) v, decide (v < r.1 * 65536), decide (r.2 * 65536 < v))
  else if ch < 64 && ch % 2 == 0 && c.portMode n == mCin then
    let zero := signed 32 (c.attrN tyPort n 9)
    let slope : Int := c.attrN tyPort n 10
    (sat32 (divr ((num * 65536 - zero * sc.den) * 65536) (sc.den * slope) + e), false, false)
  else (sat32 (divr (num * 65536) sc.den), false, false)

/-- The value at a limit of the reported range, for a result with exactly one of OVR and UNR (R170). -/
def Chip.limitOf (c : Chip) (ch : Nat) (sc : Scale) (high : Bool) : Int :=
  let n := ch / 2
  if ch < 64 && ch % 2 == 0 && c.portMode n == mRin then
    let r := sensorRange (bits (c.portCfg n) 11 2)
    (if high then r.2 else r.1) * 65536
  else if ch < 64 && ch % 2 == 0 && c.portMode n == mCin then
    let num := sc.lo + (if high then 65520 else 0) * sc.step
    sat32 (divr ((num * 65536 - signed 32 (c.attrN tyPort n 9) * sc.den) * 65536) (sc.den * (c.attrN tyPort n 10 : Int)))
  else sat32 (divr ((sc.lo + (if high then 65520 else 0) * sc.step) * 65536) sc.den)

/-- SENSOR_OPEN and SENSOR_SHORT of a result (Table 4.8): open, short, and the OVR and UNR that go with them. -/
def Chip.sensorFault (c : Chip) (ch : Nat) (sc : Scale) (c16 : Int) (high low : Bool) : Bool × Bool × Bool × Bool :=
  let num := sc.lo + c16 * sc.step
  if !(ch < 64 && ch % 2 == 0) then (false, false, false, false)
  else if c.portMode (ch / 2) == mRin then
    let short := low || decide (num * 20 < sc.den)
    (high, short, high, short)
  else if c.portMode (ch / 2) == mCin then
    let isOpen := low || (!high && decide (num < 40 * sc.den))
    let short := high || decide (1100 * sc.den < num)
    (isOpen, short, short, isOpen)
  else (false, false, false, false)

/-- Write a result register (Table 5.6, R168). -/
def Chip.putResult (entry code : Nat) (ovr unr calx fresh : Bool) (stamp : Nat) (c : Chip) : Chip :=
  c.setSampler (fun m => { m with results := Tbl.set dWord0 m.results entry (BitVec.ofNat 32
    (code % 4096 + 4096 * b2n ovr + 8192 * b2n unr + 16384 * b2n calx + 32768 * b2n fresh
      + 65536 * (c.transitAt stamp % 65536))) })

/-- E34 for a result with OVR or UNR (R169). -/
def Chip.rangeEvent (entry ch : Nat) (ovr unr : Bool) (c : Chip) : Chip :=
  if ovr || unr then c.fire 34 (entry + 256 * b2n ovr + 512 * b2n unr + 65536 * ch) else c

/-- CODE as the flags leave it (R169): the two fixed readings contradict each other where both are set, and CODE is free. -/
def Chip.codeOf (c : Chip) (avg : Nat) (ovr unr : Bool) : Nat :=
  if ovr && unr then (Config.freeWord c.freeCount).toNat % 4096
  else if ovr then 0xFFF
  else if unr then 0
  else min avg 0xFFF

/-- Causes that a result raises in its port: SENSOR_OPEN and SENSOR_SHORT where they are new, and MOTION (R130, R144). -/
def Chip.resultCauses (ch : Nat) (isOpen short : Bool) (v : Int) (c : Chip) : Chip :=
  let n := ch / 2
  let was := (c.port n).fault.toNat
  let newBits := (if isOpen && !bit was 8 then 256 else 0) + (if short && !bit was 9 then 512 else 0)
  let c1 := if newBits != 0 then c.portCause n newBits else c
  let settled := match (c1.port n).pyroUntil with
    | some d => decide (d ≤ c1.clk.now)
    | none => true
  if ch % 2 == 0 && c1.portMode n == mPyro && settled && decide (signed 32 (c1.attrN tyPort n 11) < v.natAbs) then
    (c1.portCause n 0x10000).motion n
  else c1

/-- Did all conversions of a result fall while its port was OFF or ACTIVE (R132, R168)? -/
def Chip.fellFit (c : Chip) (r : ResultDue) : Bool :=
  let n := seCh r.word / 2
  let s := c.port n
  decide (64 ≤ seCh r.word) || (decide (s.onAt ≤ r.first)
    && (c.portState n == 0 || c.portState n == 6 || decide (r.arrive ≤ s.offAt + 40)))

/-- A result of a present channel (R168–R175). -/
def Chip.goodResult (r : ResultDue) (codes : List Nat) (high low : Bool) (c : Chip) : Chip :=
  let ch := seCh r.word
  let sc := c.channelScale ch
  let range := if ch < 64 then c.channelRange ch else 0
  let sum := (codes.map (fun x => min x 4095)).sum
  let c16 := c.corrected ch range (averageOf 16 sum codes.length)
  let val := c.valueOf ch sc c16
  let f := c.sensorFault ch sc c16 high low
  let ok := c.fellFit r
  let ovr := high || val.2.2 || f.2.2.1
  let unr := low || val.2.1 || f.2.2.2
  let calx := c.calX ch range
  let c1 := (c.putResult r.entry (c.codeOf (averageOf 1 sum codes.length) ovr unr) ovr unr calx (ok && !(ovr && unr))
    r.stamp).nextFree
  let v := if ovr then c.limitOf ch sc true else if unr then c.limitOf ch sc false else val.1
  let q := qVALID ||| (if ovr then qOVR else 0) ||| (if unr then qUNR else 0) ||| (if calx then qCALX else 0)
  let c2 := if bit r.word 14 && ok && !(ovr && unr) then
      c1.produce (bits r.word 16 12) (word v) (c1.stampAt r.stamp) q (producerOf 1 r.entry)
    else c1
  let c3 := c2.rangeEvent r.entry ch ovr unr
  if ch < 64 && ok then c3.resultCauses ch f.1 f.2.1 v else c3

/-- A result of an absent or reserved channel (R10, R172, R173). -/
def Chip.absentResult (r : ResultDue) (c : Chip) : Chip :=
  ((c.putResult r.entry (c.codeOf 0 true true) true true true false r.stamp).nextFree).rangeEvent r.entry (seCh r.word) true
    true

/-- The set of Table 5.13 that a pass's mode makes. -/
def skewSet (ctl : Nat) : Nat := if seMode ctl == 2 then 2 else bits ctl 3 2 % 2

/-- The skew trims that the samples of a PAIR or QUAD result ask for (R154): each slice's trim moves there within ±16 steps of
390.625 ps, and E37 fires where it comes to its limit.  A slice that the samples give no estimate for keeps its trim. -/
def Chip.trimSkew (ctl : Nat) (skew : List (Nat × Int)) (c : Chip) : Chip :=
  if seMode ctl == 0 then c
  else skew.foldl (fun c e =>
    if !(seSlices ctl).contains e.1 then c
    else
      let old := Tbl.get dInt c.sampler.skews (4 * skewSet ctl + e.1)
      let c1 := c.setSampler (fun m => { m with skews := Tbl.set dInt m.skews (4 * skewSet ctl + e.1) (clampI (-16) 16 e.2) })
      if 16 ≤ e.2.natAbs && old != clampI (-16) 16 e.2 then c1.fire 37 (skewSet ctl + 32 + 256 * e.1) else c1) c

/-- CONVERSION_RESULT: the next result of an entry, from the equalised codes of its conversions; `band` and `cur` are the
band-passed and the mean current of the port's ripple detector in mA (R222), `skew` the skew trims that the samples ask for,
by slice (R154, R167–R175). -/
def Chip.conversion (entry : Nat) (codes : List Nat) (high low : Bool) (band cur : Int) (skew : List (Nat × Int))
    (c : Chip) : Chip :=
  match c.sampler.dues.find? (fun r => r.entry == entry) with
  | none => c
  | some r =>
    if codes.length != 2 ^ seAvg r.word then c
    else
      let ch := seCh r.word
      let c0 := (c.waitUntil r.arrive).setSampler (fun m => { m with dues := m.dues.erase r })
      let c1 := c0.trimSkew r.ctl skew
      if c1.channelAbsent ch then c1.absentResult r
      else
        let c2 := c1.goodResult r codes high low
        if ch < 64 && ch % 2 == 0 && c2.portMode (ch / 2) == mHbridge && c2.motorBound (ch / 2) then
          (c2.countRipple (ch / 2) band cur).checkLead (ch / 2)
        else c2

/-! ### Housekeeping and equalisation (R153–R155, R172) -/

/-- Is a reference-check channel out of tolerance (R172): low, high? -/
def refOutside (ch : Nat) (c16 : Int) : Bool × Bool :=
  if ch == 77 then (decide (c16 < 39800), decide (40200 < c16))
  else if ch == 78 then (decide (c16 < 32448), decide (33088 < c16))
  else (decide (1000 * c16 < 499 * 65536), decide (501 * 65536 < 1000 * c16))

/-- Site `i` has a new reading, Q16.16 °C (R492). -/
def Chip.setSite (i : Nat) (v : Int) (c : Chip) : Chip :=
  { c with thermal := { c.thermal with sites := c.thermal.sites.modify i (fun s => { s with reading := v }) } }

/-- One trim of a slice moves to `want` within ±`lim`; E37 where it comes to its limit (R153). -/
def Chip.trimTo (quantity slice : Nat) (lim : Nat) (old want : Int) (c : Chip) : Int × Chip :=
  let v := clampI (-lim) lim want
  (v, if lim ≤ want.natAbs && old != v then c.fire 37 (3 + 16 * quantity + 256 * slice) else c)

/-- Equalise ADC1–ADC3 to ADC0 (R153): with the codes z of CH78 and r of CH77, the gain trim makes r − z equal to ADC0's, in
ppm within ±2 %, and the offset trim makes z equal to it, in 1/16 codes within ±32 codes (DESIGN CHOICE, log entry 80: R153
gives the ranges and the aim, not the arithmetic). -/
def Chip.equaliseSlice (slice ref zero : Nat) (c : Chip) : Chip :=
  if slice == 0 then c.setSampler (fun m => { m with eqRef := (ref, zero) })
  else
    let i := slice - 1
    let aim : Int := (c.sampler.eqRef.1 : Int) - c.sampler.eqRef.2
    let span : Int := (ref : Int) - zero
    let gain := if span == 0 then 0 else divr ((aim - span) * 1000000) span
    let offset := 16 * ((c.sampler.eqRef.2 : Int) - zero)
    let o := c.trimTo 0 slice 512 (c.sampler.offsets.getD i 0) offset
    let g := o.2.trimTo 1 slice 20000 (c.sampler.gains.getD i 0) gain
    g.2.setSampler (fun m => { m with offsets := m.offsets.set i o.1, gains := m.gains.set i g.1 })

/-- EQUALISATION: a slice ADC0–ADC2 converts CH77 and CH78, every 10 ms, in slots of its own (R153); ADC3 uses its housekeeping
slots. -/
def Chip.equalise (slice ref zero : Nat) (c : Chip) : Chip :=
  if 3 ≤ slice || c.islandHeld then c
  else
    let due := Tbl.get dZero c.sampler.eqDue slice
    match (c.waitUntil due).takeSlots slice (ms 10) 80 with
    | none => c
    | some c1 =>
      (c1.setSampler (fun m => { m with eqDue := Tbl.set dZero m.eqDue slice (due + ms 10) })).equaliseSlice slice
        (min ref 4095) (min zero 4095)

/-- How often an internal channel is converted (R155). -/
def hkPeriod (ch : Nat) : Nat := if 72 ≤ ch && ch ≤ 75 then ms 1 else ms 10

/-- What the thermal governor, the power monitors and the reference checks read from a housekeeping conversion (R155, R172, R489,
R492). -/
def Chip.monitor (ch code : Nat) (c : Chip) : Chip :=
  let r := c.corrected ch 9 (16 * code : Nat)
  let o := refOutside ch r
  if 77 ≤ ch && ch ≤ 79 && (o.1 || o.2) then c.fire 38 (ch + 256 * b2n o.2)
  else if 72 ≤ ch && ch ≤ 75 && c.power.main.up then c.setSite (ch - 72) (c.valueOf ch (internalScale ch) r).1
  else if ch == 64 then { c with power := { c.power with vsysR := 12 * code } }
  else if ch == 65 then { c with power := { c.power with vact := 12 * code } }
  else if ch == 66 then { c with power := { c.power with vbat := code } }
  else c

/-- HOUSEKEEPING: a housekeeping conversion of an internal channel on ADC3, CH72–CH75 every 1 ms and the others every 10 ms
(R155, R172); those of CH77 and CH78 equalise ADC3 (R153). -/
def Chip.housekeeping (ch code : Nat) (c : Chip) : Chip :=
  if ch < 64 || c.channelAbsent ch || c.islandHeld then c
  else
    let due := Tbl.get dZero c.sampler.hkDue ch
    match (c.waitUntil due).takeSlots 3 (ms 1) 40 with
    | none => c
    | some c1 =>
      let c2 := c1.setSampler (fun m => { m with
        hkDue := Tbl.set dZero m.hkDue ch (due + hkPeriod ch), codes := Tbl.set dZero m.codes ch (min code 4095) })
      let c3 := c2.monitor ch (min code 4095)
      if ch == 78 then c3.equaliseSlice 3 (Tbl.get dZero c3.sampler.codes 77) (min code 4095) else c3

/-! ### Commands -/

/-- STATE of SEQ_STATUS (Table 5.2). -/
def Chip.seqStatus (c : Chip) (h : Nat) : Nat :=
  let s := c.seq h
  (if c.passRuns h c.clk.now then 2 else if s.armed || s.waiting.isSome then 1 else 0) + 4 * b2n s.waiting.isSome
    + 65536 * s.overruns.toNat

/-- OK, or CAL_INVALID while the store is invalid (R178). -/
def Chip.calStatus (c : Chip) : Nat := if c.cal.valid then stOK else stCalInvalid

/-- SEQ_START (R162, R163). -/
def bodySeqStart (k : Cmd) (c : Chip) : Res :=
  let h := k.inst
  let heads := if c.activeHeads.contains h then c.activeHeads else c.activeHeads ++ [h]
  if k.payload.length != 0 then .badLength c
  else if !seHead (c.seqCtl h) then .err stBadParam 8 c
  else if c.overloaded heads then .err stNoResource noOfs c
  else if (c.rateMissing heads).isSome || !c.class0Ok h then .err stBadParam 8 c
  else .done c.calStatus noOfs [] (c.armSeq h)

/-- Does a sequence supply a minimum rate, so that it may not stop (R162)? -/
def Chip.suppliesRate (c : Chip) (h : Nat) : Bool :=
  (c.seqEntries h).any (fun e => seCh (c.seWord e) < 64 && seCh (c.seWord e) % 2 == 0 && c.minRate (seCh (c.seWord e) / 2) != 0
    && (c.rateMissing (c.activeHeads.filter (· != h))).isSome)

/-- SEQ_STOP (R162, R163): it completes when the running pass has ended. -/
def bodySeqStop (k : Cmd) (c : Chip) : Res :=
  let h := k.inst
  let s := c.seq h
  if k.payload.length != 0 then .badLength c
  else if !seHead (c.seqCtl h) then .err stBadParam 8 c
  else if s.stopCmd.isSome || c.suppliesRate h then .err stBusy noOfs c
  else if c.sampler.passes.any (fun p => p.head == h) then
    .waiting (c.setSeq h { s with armed := false, dues := [], waiting := none, stopCmd := some (k.ctx, k.tag) })
  else .ok (c.setSeq h { s with armed := false, dues := [], waiting := none })

/-- SEQ_READ (R164, R168, R178). -/
def bodySeqRead (k : Cmd) (c : Chip) : Res :=
  let n := fld k.payload 0 1
  if k.payload.length != 4 then .badLength c
  else if n == 0 || 128 < n || 128 < k.inst + n then .badParam 0 c
  else if 1 < fld k.payload 1 1 then .badParam 1 c
  else if !zeroAt k.payload 2 2 then .badParam 2 c
  else
    let es := (List.range n).map (· + k.inst)
    let data := (es.map (fun e => leBytes 4 (Tbl.get dWord0 c.sampler.results e).toNat)).flatten
    .done c.calStatus noOfs data
      (if fld k.payload 1 1 == 1 then c.setSampler (fun m => { m with
          results := es.foldl (fun t e => Tbl.modify dWord0 t e (fun w => w &&& 0xFFFF7FFF)) m.results }) else c)

/-! ### Meanings -/

/-- SEQ_START (R163). -/
def execSeqStart (ctx tag : Nat) (s : State) : Host.Outcome State Fault Refusal :=
  .next { s with chip := s.chip.runCmd 3 0 bodySeqStart ctx tag }

/-- SEQ_STOP (R163). -/
def execSeqStop (ctx tag : Nat) (s : State) : Host.Outcome State Fault Refusal :=
  .next { s with chip := s.chip.runCmd 3 1 bodySeqStop ctx tag }

/-- SEQ_READ (R164). -/
def execSeqRead (ctx tag : Nat) (s : State) : Host.Outcome State Fault Refusal :=
  .next { s with chip := s.chip.runCmd 3 2 bodySeqRead ctx tag }

/-- SEQ_PASS_DUE (R159). -/
def execSeqPassDue (head : Nat) (s : State) : Host.Outcome State Fault Refusal :=
  .next { s with chip := s.chip.passDue head }

/-- SEQ_PASS_START (R160). -/
def execSeqPassStart (head : Nat) (s : State) : Host.Outcome State Fault Refusal :=
  .next { s with chip := s.chip.passStart head }

/-- CONVERSION_RESULT (R174). -/
def execConversionResult (entry : Nat) (codes : List Nat) (high low : Bool) (ripple : Int × Int)
    (skew : List (Nat × Int)) (s : State) : Host.Outcome State Fault Refusal :=
  .next { s with chip := s.chip.conversion entry codes high low ripple.1 ripple.2 skew }

/-- SEQ_PASS_END (R163). -/
def execSeqPassEnd (head : Nat) (s : State) : Host.Outcome State Fault Refusal :=
  .next { s with chip := s.chip.passEnd head }

/-- EQUALISATION (R153). -/
def execEqualisation (slice ref zero : Nat) (s : State) : Host.Outcome State Fault Refusal :=
  .next { s with chip := s.chip.equalise slice ref zero }

/-- HOUSEKEEPING (R155). -/
def execHousekeeping (chan code : Nat) (s : State) : Host.Outcome State Fault Refusal :=
  .next { s with chip := s.chip.housekeeping chan code }

end Sys2Proof.Machine
end

