-- ==== Sys2Proof/Machine/Calibration.lean ====
section
/-! DEFINITION. Calibration (spec/05_sampler.md, R176–R185): zero and span captures, the store write, and reading and writing
the set. -/

namespace Sys2Proof.Machine

def Chip.setCal (f : CalSt → CalSt) (c : Chip) : Chip := { c with cal := f c.cal }

/-- Bytes of a set (R176): bytes 0–4927, then their CRC-32. -/
def calImage (d : Nat → Byte) (s : Tbl Byte) : List Byte :=
  let b := Tbl.getRun d s 0 4928
  b ++ leBytes 4 (crc32 b)

/-- WRITES of the stored set. -/
def Chip.calWrites (c : Chip) : Nat := leNat (Tbl.getRun c.dCal c.cal.store 16 4)

/-- WTIME of a write made now (Table 5.10). -/
def Chip.calWtime (c : Chip) : Nat := if c.rtc.valid then c.rtc.count.toNat % 2 ^ 32 else 0

/-- Put bytes into a set. -/
def Chip.calPut (c : Chip) (off : Nat) (bs : List Byte) (s : Tbl Byte) : Tbl Byte := Tbl.setRun c.dCal s off bs

/-- The set that a span on an invalid store starts from: a fresh header and identity records, none calibrated (R181). -/
def Chip.identitySet (c : Chip) : Tbl Byte :=
  (List.range 608).foldl (fun s i => c.calPut (64 + 8 * i) [0, 0, 0, 0] s) []

/-- The new set of a CAL_SPAN (R181). -/
def Chip.spanSet (c : Chip) (ch range offset gain : Nat) : Tbl Byte :=
  let s0 := if c.cal.valid then c.cal.store else c.identitySet
  let w := if c.cal.valid then (c.calWrites + 1) % 2 ^ 32 else 1
  let s1 := c.calPut 16 (leBytes 4 w ++ leBytes 4 c.calWtime ++ [1]) s0
  c.calPut (recordOffset ch range)
    (leBytes 2 offset ++ [1, BitVec.ofInt 8 (clampI (-128) 127 c.sampler.temp)] ++ leBytes 4 gain) s1

/-- E35: CAL_ZERO, CAL_SPAN or CAL_WRITE finishes, whatever its status (Tables 3.1, 5.13). -/
def Chip.calDone (op ch status : Nat) (c : Chip) : Chip := c.fire 35 (status + 256 * ch + 65536 * op)

/-- Finish a calibration command: E35, then its final completion. -/
def Chip.calFinish (op ch ctx tag status : Nat) (data : List Byte) (c : Chip) : Chip :=
  (c.calDone op ch status).finishTag ctx tag status noOfs data

/-- A calibration command that has started and ends at once fires E35 too; one that its checks refuse has no effect (R70). -/
def calRes (op ch : Nat) : Res → Res
  | .acceptedDone st o d c => .acceptedDone st o d (c.calDone op ch st)
  | r => r

/-- The zeros that are held now: none is older than 600 s (R180). -/
def Chip.heldNow (c : Chip) : List HeldZero := c.cal.held.filter (fun h => decide (c.clk.now < h.ends))

/-- Is a zero held for a channel and range (R180)? -/
def Chip.heldZero (c : Chip) (ch range : Nat) : Option HeldZero := c.heldNow.find? (fun h => h.chan == ch && h.range == range)

/-- Would holding a zero on a channel and range need a ninth place (R180)? -/
def Chip.heldFull (c : Chip) (ch range : Nat) : Bool := decide (8 ≤ c.heldNow.length) && (c.heldZero ch range).isNone

/-- Start a capture (R179). -/
def Chip.startCapture (k : Cmd) (ch range : Nat) (span : Bool) (c : Chip) : Chip :=
  c.setCal (fun s => { s with captures := s.captures ++
    [⟨k.ctx, k.tag, ch, range, span, fldI32 k.payload 4, c.clk.now, c.clk.now + sec 1⟩] })

/-- CAL_ZERO and CAL_SPAN up to their capture (R179–R181). -/
def calCaptureBody (span : Bool) (k : Cmd) (c : Chip) : Res :=
  let ch := 2 * k.inst + fld k.payload 0 1
  let range := c.channelRange ch
  if k.payload.length != 8 then .badLength c
  else if 1 < fld k.payload 0 1 then .badParam 0 c
  else if !zeroAt k.payload 1 3 then .badParam 1 c
  else if span && c.cal.write.isSome then .err stBusy noOfs c
  else if !c.portActive k.inst then .err stBusy noOfs c
  else if span && (c.heldZero ch range).isNone then .err stBadParam noOfs c
  else if !span && c.heldFull ch range then .err stNoResource noOfs c
  else .accepted (c.startCapture k ch range span)

/-- CAL_ZERO (R179, R180). -/
def bodyCalZero (k : Cmd) (c : Chip) : Res :=
  calRes 3 (2 * k.inst + fld k.payload 0 1 % 2) (calCaptureBody false k c)

/-- CAL_SPAN (R179, R181). -/
def bodyCalSpan (k : Cmd) (c : Chip) : Res :=
  calRes 4 (2 * k.inst + fld k.payload 0 1 % 2) (calCaptureBody true k c)

/-- A span on a channel ends: the zeros held for it are discarded (R180). -/
def Chip.dropZeros (ch : Nat) (c : Chip) : Chip :=
  c.setCal (fun s => { s with held := s.held.filter (fun h => h.chan != ch) })

/-- End a capture's command. -/
def Chip.endCapture (q : Capture) (status : Nat) (data : List Byte) (c : Chip) : Chip :=
  let c1 := c.setCal (fun s => { s with captures := s.captures.erase q })
  (if q.span then c1.dropZeros q.chan else c1).calFinish (if q.span then 4 else 3) q.chan q.ctx q.tag status data

/-- The ideal code 16 · (VALUE − LO) / LSB as a fraction (R180). -/
def idealCode (sc : Scale) (value : Int) : Int × Nat := (value * sc.den - sc.lo * 65536, 65536 * sc.step.toNat)

/-- What a span's two points give (R181): GAIN and OFFSET, or nothing where R181 refuses them.  `zn/zd` and `sn/sd` are the
ideal codes, `rz` and `rs` the captures. -/
def spanRecord (zn : Int) (zd : Nat) (sn : Int) (sd : Nat) (rz rs : Int) : Option (Int × Nat) :=
  let an := sn * zd - zn * sd
  let ad : Int := (zd * sd : Nat)
  let b := rs - rz
  if an.natAbs < 26214 * (zd * sd) || b == 0 || an == 0 then none
  else
    -- gain = an / (ad · b)
    let num := if b < 0 then -an else an
    let den := ad * b.natAbs
    let offset := divr (rz * zd * an - zn * ad * b) (zd * an)
    if num * 1000 < 875 * den || 1125 * den < num * 1000 || 4096 < offset.natAbs then none
    else some (offset, (divr (num * 2 ^ 30) den).toNat)

/-- Hold a zero (R180). -/
def Chip.holdZero (q : Capture) (code : Nat) (c : Chip) : Chip :=
  let i := idealCode (c.channelScale q.chan) q.value
  let others := c.heldNow.filter (fun h => !(h.chan == q.chan && h.range == q.range))
  c.setCal (fun s => { s with held := others ++ [⟨q.chan, q.range, code, i.1, i.2, c.clk.now + sec 600⟩] })

/-- An erased store: 0xFF in every byte, by its differences from the factory's set. -/
def erasedSet (d : Nat → Byte) : Tbl Byte := ((List.range 4928).map (fun i => (i, (0xFF : Byte)))).filter (fun e => d e.1 != 0xFF)

/-- A store write begins: its point of no return (R182).  The store is erased: a reset from here on finds no marker. -/
def Chip.startWrite (w : StoreWrite) (c : Chip) : Chip :=
  (c.setCal (fun s => { s with write := some w, marker := none, store := erasedSet c.dCal })).commitCmd w.ctx w.tag

/-- A capture ends with a usable average (R180, R181). -/
def Chip.captureGood (q : Capture) (code : Nat) (c : Chip) : Chip :=
  if !q.span then
    if c.heldFull q.chan q.range then c.endCapture q stNoResource []
    else (c.holdZero q code).endCapture q c.calStatus (leBytes 4 code ++ [BitVec.ofNat 8 q.range, 0, 0, 0])
  else
    match c.heldZero q.chan q.range with
    | none => c.endCapture q stBadParam []
    | some z =>
      let i := idealCode (c.channelScale q.chan) q.value
      match spanRecord z.ideal z.idealDen i.1 i.2 z.code code with
      | none => c.endCapture q stBadParam []
      | some (off, gain) =>
        if c.cal.write.isSome then c.endCapture q stBusy []
        else
          (c.setCal (fun s => { s with captures := s.captures.erase q })).startWrite
            ⟨q.ctx, q.tag, 4, q.chan, c.spanSet q.chan q.range (unsigned 16 off) gain,
              leBytes 2 (unsigned 16 off) ++ [0, 0] ++ leBytes 4 gain⟩

/-- CAL_CAPTURE_DONE: the 256 conversions of a capture on a channel are there (R179). -/
def Chip.captureDone (ch : Nat) (codes : List Nat) (clipped : Bool) (c : Chip) : Chip :=
  match c.cal.captures.find? (fun q => q.chan == ch) with
  | none => c
  | some q =>
    if codes.length != 256 then c
    else if !c.portActive (ch / 2) then c.endCapture q stBusy []
    else
      let cs := codes.map (fun x => min x 4095)
      let c1 := c.waitUntil (q.started + us 272)
      if q.ends < c1.clk.now then c1.endCapture q stBusy []
      else if clipped || 32 < cs.foldl max 0 - cs.foldl min 4095 then c1.endCapture q stBadParam []
      else c1.captureGood q (averageOf 16 cs.sum 256)

/-- CAL_CAPTURE_TIMEOUT: 1 s has passed (R179). -/
def Chip.captureTimeout (ch : Nat) (c : Chip) : Chip :=
  match c.cal.captures.find? (fun q => q.chan == ch) with
  | none => c
  | some q => (c.waitUntil q.ends).endCapture q stBusy []

/-- Ports have changed state: a capture whose port is no longer ACTIVE ends at once (R179). -/
def Chip.checkCaptures (c : Chip) : Chip :=
  (c.cal.captures.filter (fun q => !c.portActive (q.chan / 2))).foldl (fun x q => x.endCapture q stBusy []) c

/-- ZERO_CAPTURE_EXPIRY: 600 s have passed (R180). -/
def Chip.zeroExpiry (ch range : Nat) (c : Chip) : Chip :=
  match c.cal.held.find? (fun h => h.chan == ch && h.range == range) with
  | none => c
  | some h => (c.waitUntil h.ends).setCal (fun s => { s with held := s.held.erase h })

/-- CAL_STORE_WRITE_DONE: the store write ends (R182, R183); `mismatches` counts its read-back mismatches: one is retried,
a second ends it. -/
def Chip.storeWritten (mismatches : Nat) (c : Chip) : Chip :=
  match c.cal.write with
  | none => c
  | some w =>
    let c0 := c.setCal (fun s => { s with write := none })
    let c1 := if w.op == 4 then c0.dropZeros w.chan else c0
    if mismatches < 2 then
      (c1.setCal (fun s => { s with
        store := w.set, marker := some (BitVec.ofNat 32 (crc32 (Tbl.getRun c1.dCal w.set 0 4928))), working := w.set
        loaded := true, valid := true })).calFinish w.op w.chan w.ctx w.tag stOK w.reply
    else (((c1.setCal (fun s => { s with valid := false })).logFault 6 0).fire 36 3).calFinish w.op w.chan w.ctx w.tag stStoreWriteFail []

/-- CAL_READ (R178, R182, R184). -/
def bodyCalRead (k : Cmd) (c : Chip) : Res :=
  let off := fld k.payload 0 2
  let n := fld k.payload 2 2
  if k.payload.length != 4 then .badLength c
  else if n == 0 || 4072 < n then .badParam 2 c
  else if 4932 < off + n then .badParam 0 c
  else if c.cal.write.isSome then .err stBusy noOfs c
  else if !c.cal.valid then .err stCalInvalid noOfs c
  else .okWith (leBytes 2 off ++ leBytes 2 n ++ slice (calImage c.dCal c.cal.store) off n) c

/-- What a staged set costs of R76's allowances: its value bytes, without record headers or padding, and nothing for a staged
creation or deletion (DESIGN CHOICE, log entry 74: R76 does not say how a record is counted). -/
def stagedBytes (s : List Staged) : Nat := (s.map (·.value.length)).sum

/-- Bytes of a session's calibration chunks, which share its staging allowance (R185). -/
def Chip.chunkBytes (c : Chip) (ctx : Nat) : Nat := (Tbl.get dNil c.cal.chunks ctx).length

/-- Does what a session has staged exceed its 64 KiB, or what all have staged 256 KiB (R76, R185)? -/
def Chip.stagingFull (c : Chip) (ctx : Nat) : Bool :=
  decide (65536 < stagedBytes (Tbl.get dNil c.staged ctx) + c.chunkBytes ctx)
    || decide (262144 < (c.staged.map (fun e => stagedBytes e.2)).sum + (c.cal.chunks.map (fun e => e.2.length)).sum)

/-- The chunks that a session has sent (R185). -/
def Chip.calChunks (c : Chip) (ctx : Nat) : Tbl (Option Byte) := Tbl.get dNil c.cal.chunks ctx

/-- The first reserved byte of a set that is not 0 (R21): header bytes 25–27 and 48–63, and bits 7:2 of a record's FLAGS. -/
def reservedSet (b : List Byte) : Option Nat :=
  (([25, 26, 27] ++ (List.range 16).map (· + 48)).find? (fun i => fld b i 1 != 0)).or
    (((List.range 608).map (fun r => 64 + 8 * r + 2)).find? (fun i => 3 < fld b i 1))

/-- The first offset of a set at which R185's checks of a FINAL chunk fail, if any. -/
def Chip.calSetBad (c : Chip) (t : Tbl (Option Byte)) : Option Nat :=
  let cells := Tbl.getRun dNone t 0 4932
  let b := cells.map (fun x => x.getD 0)
  match cells.findIdx? Option.isNone with
  | some i => some i
  | none =>
    if fld b 0 4 != 0x4C41434A then some 0
    else if fld b 4 2 != 1 then some 4
    else if fld b 6 2 != 4932 then some 6
    else if fld b 4928 4 != crc32 (b.take 4928) then some 4928
    else if fld b 8 8 != c.fuses.uid then some 8
    else reservedSet b

/-- The set that complete chunks make, with WRITES and SOURCE as R185 sets them. -/
def Chip.chunkSet (c : Chip) (t : Tbl (Option Byte)) : Tbl Byte :=
  let b := (Tbl.getRun dNone t 0 4928).map (fun x => x.getD 0)
  let w := if c.cal.valid then max (fld b 16 4) c.calWrites else fld b 16 4
  c.calPut 24 [2] (c.calPut 16 (leBytes 4 ((w + 1) % 2 ^ 32)) (c.calPut 0 b []))

/-- ERROFS of a failing set offset: at its byte where this chunk carries it, otherwise at OFFSET. -/
def chunkErr (p : List Byte) (o : Nat) : Nat :=
  let off := fld p 2 2
  if off ≤ o && o < off + (p.length - 4) then 4 + (o - off) else 2

/-- CAL_WRITE but for E35 (R182, R185). -/
def calWriteBody (k : Cmd) (c : Chip) : Res :=
  let p := k.payload
  let off := fld p 2 2
  if p.length < 5 || 4080 < p.length then .badLength c
  else if 1 < fld p 0 1 then .badParam 0 c
  else if !zeroAt p 1 1 then .badParam 1 c
  else if 4932 < off + (p.length - 4) then .badParam 2 c
  else if c.cal.write.isSome then .err stBusy noOfs c
  else
    let t := Tbl.setRun dNone (c.calChunks k.ctx) off ((p.drop 4).map some)
    let c1 := c.setCal (fun s => { s with chunks := Tbl.set dNil s.chunks k.ctx t })
    if c1.stagingFull k.ctx then .err stNoResource noOfs c
    else if fld p 0 1 == 0 then .acceptedDone stOK noOfs [] c1
    else match c.calSetBad t with
      | some o => .badParam (chunkErr p o) c
      | none => .accepted ((c1.setCal (fun s => { s with chunks := Tbl.set dNil s.chunks k.ctx [] })).startWrite
          ⟨k.ctx, k.tag, 6, 0, c.chunkSet t, []⟩)

/-- CAL_WRITE (R185). -/
def bodyCalWrite (k : Cmd) (c : Chip) : Res := calRes 6 0 (calWriteBody k c)

/-- Why the stored set is not valid, if it is not (R178, Table 5.13). -/
def Chip.storeFault (c : Chip) : Option Nat :=
  let b := Tbl.getRun c.dCal c.cal.store 0 4928
  match c.cal.marker with
  | none => some 0
  | some m =>
    if fld b 0 4 != 0x4C41434A || fld b 4 2 != 1 || fld b 6 2 != 4932 || m != BitVec.ofNat 32 (crc32 b) then some 1
    else if fld b 8 8 != c.fuses.uid then some 2
    else none

/-- The store is found invalid at boot: identity records, and E36 (R178). -/
def Chip.calLost (reason : Nat) (c : Chip) : Chip :=
  (c.setCal (fun s => { s with loaded := false, valid := false })).fire 36 reason

/-- Load the working copy at boot (R178). -/
def Chip.loadCal (c : Chip) : Chip :=
  match c.storeFault with
  | some r => c.calLost r
  | none => c.setCal (fun s => { s with working := s.store, loaded := true, valid := true })

/-! ### Meanings -/

/-- CAL_ZERO (R179). -/
def execCalZero (ctx tag : Nat) (s : State) : Host.Outcome State Fault Refusal :=
  .next { s with chip := s.chip.runCmd 3 3 bodyCalZero ctx tag }

/-- CAL_SPAN (R181). -/
def execCalSpan (ctx tag : Nat) (s : State) : Host.Outcome State Fault Refusal :=
  .next { s with chip := s.chip.runCmd 3 4 bodyCalSpan ctx tag }

/-- CAL_READ (R184). -/
def execCalRead (ctx tag : Nat) (s : State) : Host.Outcome State Fault Refusal :=
  .next { s with chip := s.chip.runCmd 3 5 bodyCalRead ctx tag }

/-- CAL_WRITE (R185). -/
def execCalWrite (ctx tag : Nat) (s : State) : Host.Outcome State Fault Refusal :=
  .next { s with chip := s.chip.runCmd 3 6 bodyCalWrite ctx tag }

/-- CAL_CAPTURE_DONE (R179). -/
def execCalCaptureDone (chan : Nat) (codes : List Nat) (clipped : Bool) (s : State) : Host.Outcome State Fault Refusal :=
  .next { s with chip := s.chip.captureDone chan codes clipped }

/-- CAL_CAPTURE_TIMEOUT (R179). -/
def execCalCaptureTimeout (chan : Nat) (s : State) : Host.Outcome State Fault Refusal :=
  .next { s with chip := s.chip.captureTimeout chan }

/-- ZERO_CAPTURE_EXPIRY (R180). -/
def execZeroCaptureExpiry (chan range : Nat) (s : State) : Host.Outcome State Fault Refusal :=
  .next { s with chip := s.chip.zeroExpiry chan range }

/-- CAL_STORE_WRITE_DONE (R182). -/
def execCalStoreWriteDone (mismatches : Nat) (s : State) : Host.Outcome State Fault Refusal :=
  .next { s with chip := s.chip.storeWritten mismatches }

end Sys2Proof.Machine
end

