-- ==== Sys2Proof/Machine/Can.lean ====
section
/-! DEFINITION. The CAN controllers (spec/12_can_buses.md, R378–R408).  Frames that win arbitration are recorded in
`CanSt.wire` when they have been sent. -/

namespace Sys2Proof.Machine

def Chip.canOf (c : Chip) (m : Nat) : CanSt := Tbl.get dCan c.can m

def Chip.setCan (m : Nat) (s : CanSt) (c : Chip) : Chip := { c with can := Tbl.set dCan c.can m s }

def Chip.modCan (m : Nat) (f : CanSt → CanSt) (c : Chip) : Chip := c.setCan m (f (c.canOf m))

def Chip.canCfg (c : Chip) (m : Nat) : Nat := c.attrN tyCan m 1
def Chip.ttCfg (c : Chip) (m : Nat) : Nat := c.attrN tyCan m 5

/-- MODE TT (Table 12.3). -/
def Chip.canTT (c : Chip) (m : Nat) : Bool := bit (c.canCfg m) 0
def Chip.canFd (c : Chip) (m : Nat) : Bool := bit (c.canCfg m) 1
def Chip.canSilent (c : Chip) (m : Nat) : Bool := bit (c.canCfg m) 3

/-! ### Bit timing (R383, R384) -/

/-- A nominal bit in 25 ns periods. -/
def nomBit (nbt : Nat) : Nat := (bits nbt 0 5 + 1) * (3 + bits nbt 5 8 + bits nbt 13 7)

/-- A data bit in 25 ns periods. -/
def dataBit (dbt : Nat) : Nat := (bits dbt 0 5 + 1) * (3 + bits dbt 5 5 + bits dbt 10 4)

def Chip.bitTime (c : Chip) (m : Nat) : Nat := nomBit (c.attrN tyCan m 2)

/-- REF_PERIOD in 25 ns periods. -/
def Chip.refPeriod (c : Chip) (m : Nat) : Nat := bits (c.ttCfg m) 0 16 * c.bitTime m

/-- Basic cycles in a matrix cycle. -/
def Chip.cycles (c : Chip) (m : Nat) : Nat := 2 ^ bits (c.ttCfg m) 16 3

/-! ### Frames -/

/-- Data length of a DLC code (R389). -/
def dlcLen (dlc : Nat) : Nat :=
  if dlc ≤ 8 then dlc else [12, 16, 20, 24, 32, 48, 64].getD (dlc - 9) 0

/-- An identifier as arbitration ranks it (R388). -/
def arbRank (f : CanFrame) : Nat := if f.ide then f.id else f.id * 262144 + 262143

/-- Bits of a frame's arbitration and control part, and of its data part, with full stuffing, before and after the rate
switch (R395); classic: 8n + 47 + floor((33 + 8n)/4), 20 more identifier bits and their stuffing in extended format. -/
def classicBits (n : Nat) (ide : Bool) : Nat :=
  if ide then 8 * n + 67 + (53 + 8 * n) / 4 else 8 * n + 47 + (33 + 8 * n) / 4

/-- Nominal-rate bits of an FD frame: SOF, identifier, control up to BRS with stuffing, then delimiter, ACK, EOF and
intermission (ISO 11898-1:2015; PRESUMED, log entry 52). -/
def fdNominalBits (ide : Bool) : Nat :=
  let head := if ide then 36 else 17
  head + head / 4 + 12

/-- Data-rate bits of an FD frame: ESI, DLC and data with stuffing, stuff count, CRC with fixed stuff bits, and the CRC
delimiter (ISO 11898-1:2015; PRESUMED, log entry 52). -/
def fdDataBits (n : Nat) : Nat :=
  let body := 5 + 8 * n
  let crc := if n ≤ 16 then 17 + 6 else 21 + 7
  body + body / 4 + 4 + crc + 1

/-- Worst-case length of a frame in nominal bit times (R395). -/
def Chip.frameBits (c : Chip) (m : Nat) (f : CanFrame) : Nat :=
  let n := dlcLen f.dlc
  if !f.fdf then classicBits (if f.rtr then 0 else n) f.ide
  else if f.brs then
    fdNominalBits f.ide + ceilDiv (fdDataBits n * dataBit (c.attrN tyCan m 3)) (c.bitTime m)
  else fdNominalBits f.ide + fdDataBits n

/-! ### Attribute records -/

/-- Transmit object `o` of a controller (Table 12.11). -/
def Chip.txObj (c : Chip) (m o : Nat) : List Byte := slice (c.attr tyCan m 8) (12 * o) 12

def Chip.txKind (c : Chip) (m o : Nat) : Nat := if (c.txObj m o).isEmpty then 0 else fld (c.txObj m o) 5 1

/-- Filter entries with their numbers (Table 12.6). -/
def Chip.filters (c : Chip) (m : Nat) : List (Nat × List Byte) :=
  let b := c.attr tyCan m 9
  (List.range (b.length / 12)).map (fun i => (i, slice b (12 * i) 12))

/-- All field entries (Table 12.12). -/
def Chip.canFields (c : Chip) (m : Nat) : List (List Byte) :=
  (List.range 4).flatMap (fun j =>
    let b := c.attr tyCan m (16 + j)
    (List.range (b.length / 16)).map (fun i => slice b (16 * i) 16))

/-- The fields of a transmit object (`dir` 0) or filter (`dir` 1). -/
def Chip.fieldsOf (c : Chip) (m obj dir : Nat) : List (List Byte) :=
  (c.canFields m).filter (fun f => fld f 0 1 == obj && fld f 1 1 == dir)

/-- Window entries (Table 12.9) that are used. -/
def Chip.windows (c : Chip) (m : Nat) : List (List Byte) :=
  let b := c.attr tyCan m 7
  ((List.range (b.length / 8)).map (fun i => slice b (8 * i) 8)).filter (fun w => fld w 2 1 != 0)

def winTime (w : List Byte) : Nat := fld w 0 2
def winType (w : List Byte) : Nat := fld w 2 1
def winTxo (w : List Byte) : Nat := fld w 3 1
def winTxen (w : List Byte) : Nat := fld w 6 1

/-- Does an entry apply in a basic cycle? -/
def winIn (w : List Byte) (cycle : Nat) : Bool := cycle % 2 ^ fld w 4 1 == fld w 5 1

/-! ### Fields and the tally header (R401–R404) -/

def fieldWidth (f : List Byte) : Nat := 2 ^ bits (fld f 3 1) 0 2
def fieldSigned (f : List Byte) : Bool := bit (fld f 3 1) 2
def fieldBE (f : List Byte) : Bool := bit (fld f 3 1) 3
def fieldNA (f : List Byte) : Bool := bit (fld f 3 1) 4
def fieldPos (f : List Byte) : Nat := fld f 2 1
def fieldSid (f : List Byte) : Nat := fld f 4 2 % 4096

/-- Raw counts that a field can carry: lowest and highest; NA keeps its pattern free. -/
def fieldRange (f : List Byte) : Int × Int :=
  let w := 8 * fieldWidth f
  if fieldSigned f then (-(2 ^ (w - 1) : Nat) + (if fieldNA f then 1 else 0), (2 ^ (w - 1) : Nat) - 1)
  else (0, (2 ^ w : Nat) - 1 - (if fieldNA f then 1 else 0))

/-- The not-available pattern. -/
def fieldPattern (f : List Byte) : Nat :=
  let w := 8 * fieldWidth f
  if fieldSigned f then 2 ^ (w - 1) else 2 ^ w - 1

/-- A field's bytes from its raw bits. -/
def fieldBytes (f : List Byte) (raw : Nat) : List Byte :=
  let b := leBytes (fieldWidth f) raw
  if fieldBE f then b.reverse else b

/-- The raw bits of a field in frame data. -/
def fieldRaw (f : List Byte) (data : List Byte) : Nat :=
  let b := slice data (fieldPos f) (fieldWidth f)
  if fieldBE f then beNat b else leNat b

/-- raw = divr(VALUE − OFFSET, SCALE), saturated (R402). -/
def fieldEncode (f : List Byte) (v : Int) : Nat :=
  let r := divr (v - fldI32 f 12) (fldI32 f 8)
  unsigned (8 * fieldWidth f) (clampI (fieldRange f).1 (fieldRange f).2 r)

/-- VALUE = sat32(raw · SCALE + OFFSET) (R402). -/
def fieldDecode (f : List Byte) (raw : Nat) : Int :=
  let r : Int := if fieldSigned f then signed (8 * fieldWidth f) raw else raw
  sat32 (r * fldI32 f 8 + fldI32 f 12)

/-- Does a field send its not-available pattern? -/
def Chip.fieldAbsent (c : Chip) (f : List Byte) : Bool := fieldNA f && !c.slotUsable (fieldSid f)

/-- A transmit field's bytes (R402). -/
def Chip.sendField (c : Chip) (f : List Byte) : List Byte :=
  if c.fieldAbsent f then fieldBytes f (fieldPattern f)
  else fieldBytes f (fieldEncode f (c.readSlot (fieldSid f)).value.toInt)

/-- Write bytes at a place of frame data. -/
def putAt (data : List Byte) (pos : Nat) (bs : List Byte) : List Byte :=
  data.take pos ++ bs ++ data.drop (pos + bs.length)

/-- Byte 0 of the tally header (Table 12.13): the OR over the frame's sources. -/
def Chip.tallyByte (c : Chip) (fs : List (List Byte)) : Byte :=
  let q := fs.foldl (fun a f => a ||| (c.readSlot (fieldSid f)).quality) 0
  BitVec.ofNat 8 (1 + 8 * b2n (fs.any c.fieldAbsent) + 16 * b2n (hasQ q qMODEL) + 32 * b2n (hasQ q qHELD)
    + 64 * b2n (hasQ q qSAT) + 128 * b2n (hasQ q qCALX))

def Chip.canObj (c : Chip) (m o : Nat) : CanObjSt := Tbl.get dCanObj (c.canOf m).objs o

def Chip.setCanObj (m o : Nat) (x : CanObjSt) (c : Chip) : Chip :=
  c.modCan m (fun s => { s with objs := Tbl.set dCanObj s.objs o x })

/-- The frame of a MAP object from the slots as they are (R401). -/
def Chip.buildFrame (c : Chip) (m o : Nat) : CanFrame :=
  let e := c.txObj m o
  let id := fld e 0 4
  let fs := c.fieldsOf m o 0
  let blank := zeros (dlcLen (fld e 4 1))
  let head := if bit (fld e 6 1) 0 then
      putAt blank 0 [c.tallyByte fs, BitVec.ofNat 8 (c.canObj m o).seq]
    else blank
  { id := bits id 0 29, ide := bit id 29, fdf := bit id 30, brs := bit id 31, esi := (c.canOf m).err == 1, rtr := false,
    dlc := fld e 4 1, data := fs.foldl (fun d f => putAt d (fieldPos f) (c.sendField f)) head }

/-- The write counts of an object's sources. -/
def Chip.objWrites (c : Chip) (m o : Nat) : List Nat :=
  (c.fieldsOf m o 0).map (fun f => Tbl.get dZero c.slotWrites (fieldSid f))

/-! ### Status and events (R399, R405, R407) -/

/-- CAN_STAT (Table 12.14). -/
def Chip.canStat (c : Chip) (m : Nat) : Nat :=
  let s := c.canOf m
  (if s.started then s.err else 3) + 4 * s.level + 16 * b2n s.master + 32 * b2n s.synced + 256 * min 255 s.tec
    + 65536 * min 255 s.recv + 16777216 * (s.cycle % 64)

/-- Fire E(93+2m) with a reason of Table 12.15. -/
def Chip.canErr (m reason : Nat) (c : Chip) : Chip :=
  let s := c.canOf m
  c.fire (93 + 2 * m) ((if s.started then s.err else 3) + 4 * s.level + 16 * reason + 256 * min 255 s.tec
    + 65536 * min 255 s.recv + 16777216 * (s.cycle % 64))

/-- CAUSE [15:0] of E(92+2m): kind and object or filter. -/
def canNote (kind obj : Nat) : Nat := kind + 4 * obj

def Chip.canMsg (m kind obj : Nat) (c : Chip) : Chip := c.fire (92 + 2 * m) (canNote kind obj)

/-- A change of schedule level fires E(93+2m) (R399): the reason is the higher of the two levels'. -/
def Chip.setLevel (m level : Nat) (c : Chip) : Chip :=
  let old := (c.canOf m).level
  if old == level then c
  else (c.modCan m (fun s => { s with level := level })).canErr m (1 + max old level)

/-- An error record on Q(43+4m) (R393). -/
def Chip.errorRecord (m ty phase id : Nat) (c : Chip) : Chip :=
  let s := c.canOf m
  c.arrive (43 + 4 * m) 1
    ([BitVec.ofNat 8 ty, BitVec.ofNat 8 phase, BitVec.ofNat 8 (min 255 s.tec), BitVec.ofNat 8 (min 255 s.recv)]
      ++ leBytes 4 id ++ leBytes 4 c.stamp.toNat ++ leBytes 4 c.clk.transit) (BitVec.ofNat 32 (canNote 3 0x3F))

/-- An S1 cause (R396, R399): a window MISSED or an exclusive attempt that failed. -/
def Chip.s1Cause (m : Nat) (c : Chip) : Chip :=
  let c1 := (c.modCan m (fun s => { s with s1Causes := s.s1Causes + 1, s1At := c.clk.now })).errorRecord m 6 0 0
  if (c1.canOf m).level == 0 then c1.setLevel m 1 else c1

/-- The error state that the counters give (R387). -/
def errStateOf (tec recv : Nat) : Nat := if 255 < tec then 2 else if 127 < tec || 127 < recv then 1 else 0

/-- The counters change; a change of error state fires, and bus-off in MODE TT is S3 (R387, R399). -/
def Chip.setCounts (m tec recv : Nat) (c : Chip) : Chip :=
  let s := c.canOf m
  let e := if s.err == 2 then 2 else errStateOf tec recv
  let c1 := c.setCan m { s with tec := tec, recv := recv, err := e, busOffs := if e == 2 && s.err != 2 then s.busOffs + 1 else
    s.busOffs }
  let c2 := if e != s.err then c1.canErr m 0 else c1
  if e == 2 && s.err != 2 && c2.canTT m then c2.setLevel m 3 else c2

/-! ### Pending frames (R388–R390) -/

/-- Arbitrating frames pending, with the one in flight. -/
def CanSt.pendCount (s : CanSt) : Nat :=
  (s.pend.filter (fun p => !p.excl)).length + (match s.flight with | some f => b2n (!f.window) | none => 0)

/-- Take records from Q(40+4m) while fewer than 32 frames are pending (R388); each starts its CAN_SEND (R389). -/
def Chip.takeQueued (m : Nat) : Nat → Chip → Chip
  | 0, c => c
  | n + 1, c =>
    let s := c.canOf m
    match s.queued with
    | [] => c
    | p :: rest =>
      if 32 ≤ s.pendCount then c
      else
        let q := 40 + 4 * m
        let len := leNat (ringRead (c.queue q) (c.queue q).head 4 c.ring) % 8192
        let c1 := (c.setCan m { s with queued := rest }).setQueue q ((c.queue q).pop (entriesFor (c.queue q).eshift len))
        let alive := match p.cmd with
          | some (ctx, tag) => c1.findCmd ctx tag
          | none => none
        match alive with
        | none => Chip.takeQueued m n c1
        | some k =>
          let c2 := c1.modCan m (fun s => { s with pend := s.pend ++ [{ p with since := c.clk.now }] })
          Chip.takeQueued m n (c2.accept k)

def Chip.refillCan (m : Nat) (c : Chip) : Chip := c.takeQueued m ((c.canOf m).queued.length)

/-- The reply data of a CAN_SEND (R389). -/
def sendReply (outcome : Nat) (p : CanPend) : List Byte :=
  [BitVec.ofNat 8 outcome, 0] ++ leBytes 2 p.attempts ++ leBytes 4 p.stamp.toNat

/-- End the CAN_SEND of a frame with an outcome. -/
def Chip.endSend (p : CanPend) (outcome : Nat) (c : Chip) : Chip :=
  match p.cmd with
  | some (ctx, tag) => c.finishTag ctx tag stOK noOfs (sendReply outcome p)
  | none => c

/-- A frame leaves the pending list. -/
def Chip.dropPend (m num : Nat) (c : Chip) : Chip :=
  c.modCan m (fun s => { s with pend := s.pend.filter (fun p => p.num != num) })

/-- The controller stops (R386): every pending CAN_SEND ends STOPPED, and the schedule level returns to S0 (R399). -/
def Chip.canHalt (m : Nat) (c : Chip) : Chip :=
  let s := c.canOf m
  let q := 40 + 4 * m
  let c1 := (s.pend ++ s.queued).foldl (fun c p => c.endSend p 3) c
  let c2 := (c1.setQueue q { c1.queue q with head := (c1.queue q).tail }).setLevel m 0
  c2.modCan m (fun s => { s with
    started := false, stopCmd := none, pend := [], queued := [], flight := none, master := false, synced := false, level := 0,
    winTime := none, winEnd := none, alignAt := none })

/-- After an attempt has ended: a CAN_STOP that waited for it takes effect, or records are taken up. -/
def Chip.afterFlight (m : Nat) (c : Chip) : Chip :=
  match (c.canOf m).stopCmd with
  | some (ctx, tag) => (c.canHalt m).finishTag ctx tag stOK noOfs []
  | none => c.refillCan m

/-- Answer the cancels that waited for an attempt. -/
def Chip.answerCancels (f : CanFlight) (status : Nat) (c : Chip) : Chip :=
  f.cancels.foldl (fun c k => c.finishTag k.1 k.2 status noOfs []) c

/-- May the controller drive the bus: started, not bus-off, not SILENT, island running? -/
def Chip.canDrives (c : Chip) (m : Nat) : Bool :=
  let s := c.canOf m
  c.power.main.up && s.started && s.err != 2 && !c.canSilent m && !c.islandHeld

/-- The frame that a pending entry offers. -/
def Chip.pendFrame (c : Chip) (m : Nat) (p : CanPend) : CanFrame := if p.cmd.isSome then p.frame else c.buildFrame m p.obj

/-- Has a pending frame crossed into the controller's buffer: 2 periods after it became pending (Table 1.4, R30)? -/
def Chip.crossed (c : Chip) (p : CanPend) : Bool := decide (p.since + 2 ≤ c.clk.now)

/-- The pending frame to offer: the lowest identifier, then the earliest, among those that have crossed and that fit an
arbitrating window. -/
def Chip.pickFrame (c : Chip) (m : Nat) : Option CanPend :=
  let s := c.canOf m
  let fits := fun (f : CanFrame) =>
    !c.canTT m || (match s.winEnd with
      | some e => decide (c.clk.now + c.frameBits m f * c.bitTime m ≤ e) && decide (s.level < 2)
      | none => false)
  s.pend.foldl (fun best p =>
    if p.excl || !c.crossed p || !fits (c.pendFrame m p) then best
    else match best with
      | some b => if arbRank (c.pendFrame m p) < arbRank (c.pendFrame m b) then some p else best
      | none => some p) none

/-- CAN_ARBITRATION_START (R388, R396): at bus idle the lowest pending identifier is offered; it wins or stays pending. -/
def Chip.arbitrate (m : Nat) (won : Bool) (c : Chip) : Chip :=
  if !c.canDrives m || (c.canOf m).flight.isSome then c
  else match c.pickFrame m with
    | none => c
    | some p =>
      let p1 : CanPend := { p with attempts := p.attempts + 1, stamp := c.stamp, frame := c.pendFrame m p }
      if won then (c.dropPend m p.num).modCan m (fun s => { s with flight := some ⟨p1, false, []⟩ })
      else c.modCan m (fun s => { s with pend := s.pend.map (fun x => if x.num == p.num then p1 else x) })

/-- What E(92+2m) and error handling name: the object, or 0x3F for CAN_SEND (Table 12.15). -/
def CanPend.tag (p : CanPend) : Nat := if p.cmd.isSome then 0x3F else p.obj

/-- TX_DONE: the frame in flight has been sent (R385, R389, R390). -/
def Chip.txDone (m : Nat) (c : Chip) : Chip :=
  let s := c.canOf m
  match s.flight with
  | none => c
  | some f =>
    if !c.power.main.up || c.islandHeld then c
    else
      let brs := f.pend.frame.fdf && f.pend.frame.brs && bit (c.attrN tyCan m 4) 7
      let meas := if brs then (Config.freeWord c.freeCount).toNat % 128 else s.tdcMeas
      let c0 := if brs then c.nextFree else c
      let c1 := c0.setCan m { s with flight := none, sent := s.sent + 1, tdcMeas := meas, wire := s.wire ++ [f.pend.frame] }
      let c2 := c1.setCounts m (s.tec - 1) s.recv
      let c3 := if f.pend.cmd.isSome then c2
        else c2.setCanObj m f.pend.obj { c2.canObj m f.pend.obj with seq := ((c2.canObj m f.pend.obj).seq + 1) % 256 }
      (((c3.canMsg m 0 f.pend.tag).endSend f.pend 0).answerCancels f stTooLate).afterFlight m

/-- The attempt in flight fails (R388, R390, R396). -/
def Chip.flightFails (m : Nat) (c : Chip) : Chip :=
  let s := c.canOf m
  match s.flight with
  | none => c
  | some f =>
    let c1 := c.setCan m { s with flight := none }
    if f.window then
      let c2 := (c1.canMsg m 2 f.pend.tag).s1Cause m
      if f.cancels.isEmpty then (c2.endSend f.pend 1).afterFlight m
      else
        let c3 := match f.pend.cmd with
          | some (ctx, tag) => c2.finishTag ctx tag stAborted noOfs []
          | none => c2
        (c3.answerCancels f stOK).afterFlight m
    else if !f.cancels.isEmpty then
      let c2 := match f.pend.cmd with
        | some (ctx, tag) => c1.finishTag ctx tag stAborted noOfs []
        | none => c1
      (c2.answerCancels f stOK).afterFlight m
    else
      let dup := f.pend.cmd.isNone && s.pend.any (fun p => p.cmd.isNone && p.obj == f.pend.obj)
      let pend := if dup then s.pend
        else s.pend.filter (fun p => p.num < f.pend.num) ++ [f.pend] ++ s.pend.filter (fun p => f.pend.num < p.num)
      (c1.modCan m (fun s => { s with pend := pend })).afterFlight m

/-- CAN_ERROR_FRAME (R387, R393). -/
def Chip.canErrorFrame (m ty : Nat) (dataPhase : Bool) (id tec recv : Nat) (c : Chip) : Chip :=
  let s := c.canOf m
  if !c.power.main.up || !s.started || s.err == 2 || c.islandHeld || 5 < ty then c
  else if ty == 5 then c.errorRecord m 5 (b2n dataPhase) id
  else
    let c1 := c.setCan m { s with errors := s.errors + 1 }
    ((c1.setCounts m tec recv).errorRecord m ty (b2n dataPhase) id).flightFails m

/-- BUS_OFF_RECOVERED (R387). -/
def Chip.busRecovered (m : Nat) (c : Chip) : Chip :=
  let s := c.canOf m
  if c.power.main.up && s.started && s.err == 2 && bit (c.canCfg m) 5 && !c.islandHeld then
    (c.setCan m { s with err := 0, tec := 0, recv := 0 }).canErr m 1
  else c

/-- DOM_TIMEOUT (R380). -/
def Chip.domTimeout (m : Nat) (c : Chip) : Chip :=
  if c.power.main.up && (c.canOf m).started && m < canCount c.fuses.variant then c.canErr m 8 else c

/-- WUP: in the low-power mode of a stopped controller (R381). -/
def Chip.wakeUp (m : Nat) (c : Chip) : Chip :=
  if c.power.main.up && !(c.canOf m).started && bit (c.canCfg m) 8 && m < canCount c.fuses.variant then c.canErr m 7 else c

/-! ### Reception (R391, R392, R403, R404) -/

/-- Does a filter entry match a frame? -/
def filterMatches (e : List Byte) (f : CanFrame) : Bool :=
  let id := fld e 0 4
  let mask := fld e 4 4
  fld e 8 1 != 0 && ((f.id ^^^ bits id 0 29) &&& bits mask 0 29) == 0 && f.ide == bit id 29
    && (!bit mask 30 || f.fdf == bit id 30)

/-- A receive record (Table 12.7). -/
def Chip.rxRecord (c : Chip) (m filter : Nat) (f : CanFrame) : List Byte :=
  leBytes 4 (f.id + (if f.ide then 0x20000000 else 0))
    ++ [BitVec.ofNat 8 (b2n f.fdf + 2 * b2n f.brs + 4 * b2n f.esi + 8 * b2n f.rtr), BitVec.ofNat 8 f.dlc,
        BitVec.ofNat 8 filter, BitVec.ofNat 8 (if c.canTT m then (c.canOf m).cycle else 0)]
    ++ leBytes 4 c.stamp.toNat ++ leBytes 4 c.clk.transit ++ f.data

/-- One receive field writes its slot (R402, R404). -/
def Chip.takeField (m filter : Nat) (q : Half) (data : List Byte) (f : List Byte) (c : Chip) : Chip :=
  let raw := fieldRaw f data
  if data.length < fieldPos f + fieldWidth f || (fieldNA f && raw == fieldPattern f) then c
  else c.produce (fieldSid f) (word (fieldDecode f raw)) c.stamp q (producerOf 7 (64 * m + filter))

/-- QUALITY of received fields: VALID and REMOTE, and what the header gives. -/
def rxQuality (hdr : Bool) (b : Nat) : Half :=
  let q := qVALID ||| qREMOTE
  if !hdr then q
  else q ||| (if bit b 4 then qMODEL else 0) ||| (if bit b 5 then qHELD else 0) ||| (if bit b 6 then qSAT else 0)
    ||| (if bit b 7 then qCALX else 0)

/-- A frame is mapped into slots by a filter. -/
def Chip.mapFrame (m filter : Nat) (hdr : Bool) (f : CanFrame) (c : Chip) : Chip :=
  let q := rxQuality hdr (fld f.data 0 1)
  if f.rtr then c else (c.fieldsOf m filter 1).foldl (fun c x => c.takeField m filter q f.data x) c

/-- SEQ of a header is followed, each gap counted (R403). -/
def Chip.followSeq (m filter seq : Nat) (c : Chip) : Chip :=
  c.modCan m (fun s =>
    let gap := match Tbl.get dNone s.rxSeq filter with
      | some l => (l + 1) % 256 != seq
      | none => false
    { s with seqGaps := if gap then s.seqGaps + 1 else s.seqGaps, rxSeq := Tbl.set dNone s.rxSeq filter (some seq) })

/-- What the matching filter does with a frame. -/
def Chip.filterFrame (m i : Nat) (e : List Byte) (f : CanFrame) (c : Chip) : Chip :=
  let action := fld e 8 1
  let hdr := bit (fld e 9 1) 0
  if action == 4 then c.modCan m (fun s => { s with filtered := s.filtered + 1 })
  else if hdr && (f.data.length < 2 || fld f.data 0 1 % 8 != 1) then
    (c.modCan m (fun s => { s with versionDrops := s.versionDrops + 1 })).canErr m 6
  else
    let c1 := if hdr then c.followSeq m i (fld f.data 1 1) else c
    let c2 := if action == 2 || action == 3 then c1.mapFrame m i hdr f else c1
    if action == 1 || action == 3 then
      c2.arrive (42 + 4 * m) 1 (c.rxRecord m i f) (BitVec.ofNat 32 (canNote 1 i))
    else c2

/-- The receive error counter after a frame received without error (ISO 11898-1:2015): one less, or a value from 119 to 127
where it was above 127. -/
def rxRelief (recv free : Nat) : Nat := if 127 < recv then 119 + free % 9 else recv - 1

/-- CAN_FRAME_RECEIVED (R391). -/
def Chip.canReceive (m : Nat) (f : CanFrame) (c : Chip) : Chip :=
  let s := c.canOf m
  if !c.power.main.up || !s.started || s.err == 2 || c.islandHeld || (f.fdf && !c.canFd m) then c
  else
    let free := 127 < s.recv
    let c0 := if free then c.nextFree else c
    let c1 := (c0.setCan m { s with received := s.received + 1 }).setCounts m s.tec
      (rxRelief s.recv (Config.freeWord c.freeCount).toNat)
    match (c1.filters m).find? (fun e => filterMatches e.2 f) with
    | some (i, e) => c1.filterFrame m i e f
    | none =>
      if bit (c1.canCfg m) 7 then
        c1.arrive (42 + 4 * m) 1 (c1.rxRecord m 0xFF f) (BitVec.ofNat 32 (canNote 1 0x3F))
      else c1.modCan m (fun s => { s with filtered := s.filtered + 1 })

/-! ### Time-triggered operation (R394–R400) -/

/-- The level returns to S0 after one matrix cycle without a further S1 cause (R399). -/
def Chip.s1Expire (m : Nat) (c : Chip) : Chip :=
  let s := c.canOf m
  if s.level == 1 && s.s1At + c.cycles m * c.refPeriod m ≤ c.clk.now then c.setLevel m 0 else c

/-- A reference SOF: cycle time restarts (R398), and S2 ends (R399). -/
def Chip.startCycle (m cycle : Nat) (master : Bool) (c : Chip) : Chip :=
  let c1 := c.modCan m (fun s => { s with
    refAt := c.clk.now, cycle := cycle % 64, synced := true, master := master, winTime := none, winEnd := none })
  let c2 := if (c1.canOf m).level == 2 then c1.setLevel m 0 else c1
  c2.s1Expire m

/-- Is the schedule in use: MODE TT, started, not bus-off, and below S3? -/
def Chip.ttRuns (c : Chip) (m : Nat) : Bool :=
  let s := c.canOf m
  c.power.main.up && s.started && c.canTT m && s.err != 2 && s.level != 3 && !c.islandHeld

/-- REFERENCE_MESSAGE: a reference from another node (R398). -/
def Chip.referenceRow (m prio cycle : Nat) (c : Chip) : Chip :=
  if !c.ttRuns m || 7 < prio then c
  else
    let c1 := c.modCan m (fun s => { s with received := s.received + 1, alignAt := none })
    c1.startCycle m cycle false

/-- P of R400, in µs. -/
def Chip.alignP (c : Chip) (m : Nat) : Nat := c.refPeriod m / 40

/-- The next aligned fabric time after `t` µs. -/
def Chip.alignNext (c : Chip) (m t : Nat) : Nat :=
  let p := max 1 (c.alignP m)
  let ofs := bits (c.attrN tyCan m 6) 16 16
  ((t + p - ofs % p) / p) * p + ofs % p

/-- Does ALIGN act: it is set, this is the current time master, and fabric time is set (R400)? -/
def Chip.aligned (c : Chip) (m : Nat) : Bool :=
  let set := if c.fabric.bwUid == c.fuses.uid then c.rtc.valid else !c.fabric.unset
  bit (c.ttCfg m) 23 && (c.canOf m).master && set

/-- The aligned instant of the next reference, in µs of fabric time, and whether fabric time has stepped (R400). -/
def Chip.alignTarget (c : Chip) (m : Nat) : Nat × Bool :=
  let s := c.canOf m
  let p := c.alignP m
  match s.alignAt with
  | some a => if s.alignSteps == c.fabric.steps then (a + p, false) else
      let t := c.alignNext m c.clk.fabUs
      (if 2 * ((t - c.clk.fabUs) * 40 + (c.clk.now - s.refAt)) < 40 * p then t + p else t, true)
  | none =>
    let t := c.alignNext m c.clk.fabUs
    (if 2 * ((t - c.clk.fabUs) * 40 + (c.clk.now - s.refAt)) < 40 * p then t + p else t, false)

/-- The reference that this node sends (R398). -/
def Chip.refFrame (c : Chip) (m cycle : Nat) : CanFrame :=
  { id := bits (c.attrN tyCan m 6) 0 11 + bits (c.ttCfg m) 19 3, ide := false, fdf := false, brs := false, esi := false,
    rtr := false, dlc := 1, data := [BitVec.ofNat 8 (cycle % 64)] }

/-- This node's reference has won arbitration and is sent. -/
def Chip.sendReference (m cycle : Nat) (c : Chip) : Chip :=
  let c1 := c.modCan m (fun s => { s with sent := s.sent + 1, wire := s.wire ++ [c.refFrame m cycle] })
  (c1.setCounts m ((c.canOf m).tec - 1) (c.canOf m).recv).startCycle m cycle true

/-- REFERENCE_DUE: a potential master offers its reference at the expected cycle start (R398, R400). -/
def Chip.referenceDue (m : Nat) (won : Bool) (c : Chip) : Chip :=
  let s := c.canOf m
  if !c.ttRuns m || !bit (c.ttCfg m) 22 || c.canSilent m then c
  else if c.aligned m then
    let (t, stepped) := c.alignTarget m
    let c1 := c.waitUntil (c.clk.now + c.fabricWait t)
    let c2 := if stepped then c1.canErr m 5 else c1
    let cycle := (t - bits (c.attrN tyCan m 6) 16 16) / max 1 (c.alignP m) % c.cycles m
    if won then
      (c2.modCan m (fun s => { s with alignAt := some t, alignSteps := c.fabric.steps })).sendReference m cycle
    else c2.modCan m (fun s => { s with master := false, alignAt := none })
  else
    let c1 := c.waitUntil (s.refAt + c.refPeriod m)
    if won then c1.sendReference m (if s.synced then (s.cycle + 1) % c.cycles m else 0)
    else c1.modCan m (fun s => { s with master := false })

/-- S2_TIMEOUT: no reference for 1.5 × REF_PERIOD (R399). -/
def Chip.s2Row (m : Nat) (c : Chip) : Chip :=
  if !c.ttRuns m || (c.canOf m).level == 2 then c
  else
    let c1 := c.waitUntil ((c.canOf m).refAt + c.refPeriod m * 3 / 2)
    ((c1.modCan m (fun s => { s with winTime := none, winEnd := none })).errorRecord m 6 0 0).setLevel m 2

/-- The next window position of the basic cycle (R394). -/
def Chip.nextWindow (c : Chip) (m : Nat) : Option Nat :=
  let after := (c.canOf m).winTime
  ((c.windows m).map winTime).foldl (fun best t =>
    if (match after with | some a => decide (t ≤ a) | none => false) then best
    else match best with
      | some b => some (min b t)
      | none => some t) none

/-- Where a window ends: the next higher TIME, or REF_PERIOD; MERGED entries after an arbitrating one extend it (R396). -/
def Chip.windowEnd (c : Chip) (m cycle : Nat) : Nat → Nat → Nat
  | 0, t => t
  | n + 1, t =>
    let later := ((c.windows m).map winTime).filter (fun x => decide (t < x))
    match later.foldl (fun (b : Option Nat) x => match b with | some y => some (min y x) | none => some x) none with
    | none => bits (c.ttCfg m) 0 16
    | some u =>
      if (c.windows m).any (fun w => winTime w == u && winIn w cycle && winType w == 3) then Chip.windowEnd c m cycle n u else u

/-- An exclusive window opens (R396). -/
def Chip.exclusiveWindow (m o : Nat) (idle : Bool) (c : Chip) : Chip :=
  let s := c.canOf m
  let kind := c.txKind m o
  let oldest := s.pend.find? (fun p => p.excl && p.obj == o && c.crossed p)
  let present := kind == 1 || kind == 2 || (kind == 3 && oldest.isSome)
  if !present || c.canSilent m then c
  else if !idle || s.flight.isSome then
    let c1 := c.s1Cause m
    match kind == 3, oldest with
    | true, some p => ((c1.dropPend m p.num).endSend p 2).refillCan m
    | _, _ => c1
  else match kind == 3, oldest with
    | true, some p =>
      let p1 : CanPend := { p with attempts := p.attempts + 1, stamp := c.stamp }
      (c.dropPend m p.num).modCan m (fun s => { s with flight := some ⟨p1, true, []⟩ })
    | _, _ =>
      let p : CanPend := ⟨s.nextNum, none, o, true, c.buildFrame m o, 1, c.stamp, c.clk.now⟩
      c.modCan m (fun s => { s with flight := some ⟨p, true, []⟩ })

/-- WINDOW_START: the next window of the cycle opens (R394, R396). -/
def Chip.windowRow (m : Nat) (idle : Bool) (c : Chip) : Chip :=
  let s := c.canOf m
  if !c.ttRuns m || !s.synced || s.level == 2 then c
  else match c.nextWindow m with
    | none => c
    | some t =>
      let c1 := c.waitUntil (s.refAt + t * c.bitTime m)
      match (c1.windows m).find? (fun w => winTime w == t && winIn w s.cycle) with
      | none => c1.modCan m (fun s => { s with winTime := some t, winEnd := none })
      | some w =>
        let ends := if winType w == 2 then some (s.refAt + c1.windowEnd m s.cycle 128 t * c1.bitTime m)
          else if winType w == 3 then s.winEnd
          else none
        let c2 := c1.modCan m (fun s => { s with winTime := some t, winEnd := ends })
        if winType w == 1 then c2.exclusiveWindow m (winTxo w) idle else c2

/-- NO_WINDOW: an exclusive send whose object has no window ends one matrix cycle after it starts (R396). -/
def Chip.noWindowRow (m ctx tag : Nat) (c : Chip) : Chip :=
  match (c.canOf m).pend.find? (fun p => p.excl && p.cmd == some (ctx, tag)) with
  | none => c
  | some p =>
    if (c.windows m).any (fun w => winType w == 1 && winTxo w == p.obj) then c
    else
      let c1 := c.waitUntil (p.since + c.cycles m * c.refPeriod m)
      ((c1.dropPend m p.num).endSend p 4).refillCan m

/-! ### MAP_EVENT objects (R401) -/

/-- Can a MAP_EVENT object's frame become pending: it is pending already, or fewer than 32 are (log entry 53)? -/
def Chip.objRoom (c : Chip) (m o : Nat) : Bool :=
  (c.canOf m).pend.any (fun p => p.cmd.isNone && p.obj == o) || decide ((c.canOf m).pendCount < 32)

/-- A MAP_EVENT object's frame becomes pending, once; while 32 frames are pending it waits for room. -/
def Chip.objPending (m o : Nat) (c : Chip) : Chip :=
  let s := c.canOf m
  let c1 := c.setCanObj m o { c.canObj m o with lastPend := some c.clk.now, seen := c.objWrites m o }
  if s.pend.any (fun p => p.cmd.isNone && p.obj == o) then c1
  else if !c.objRoom m o then c
  else c1.modCan m (fun s => { s with
    nextNum := s.nextNum + 1
    pend := s.pend ++ [⟨s.nextNum, none, o, false, c.buildFrame m o, 0, 0, c.clk.now⟩] })

/-- Does a controller run a MAP_EVENT object? -/
def Chip.eventObj (c : Chip) (m o : Nat) : Bool :=
  c.power.main.up && (c.canOf m).started && c.txKind m o == 1 && !c.islandHeld

/-- TXOBJ_PERIOD (R401): a period whose frame finds no room stays due. -/
def Chip.txPeriodRow (m o : Nat) (c : Chip) : Chip :=
  let p := fld (c.txObj m o) 10 2
  match (c.canObj m o).periodDue with
  | some d =>
    if !c.eventObj m o || p == 0 then c
    else
      let c1 := c.waitUntil d
      if !c1.objRoom m o then c1
      else
        let c2 := c1.objPending m o
        c2.setCanObj m o { c2.canObj m o with periodDue := some (d + ms p) }
  | none => c

/-- TXOBJ_SLOT_CHANGE (R401). -/
def Chip.txChangeRow (m o : Nat) (c : Chip) : Chip :=
  if !c.eventObj m o || c.objWrites m o == (c.canObj m o).seen then c
  else
    let c1 := match (c.canObj m o).lastPend with
      | some t => c.waitUntil (t + ms (fld (c.txObj m o) 8 2))
      | none => c
    c1.objPending m o

/-- Start the timers and change marks of a started controller's MAP_EVENT objects. -/
def Chip.startObjs (m : Nat) (c : Chip) : Chip :=
  (List.range 64).foldl (fun c o =>
    if c.txKind m o == 1 then
      let p := fld (c.txObj m o) 10 2
      c.setCanObj m o { c.canObj m o with
        lastPend := none, seen := c.objWrites m o, periodDue := if p == 0 then none else some (c.clk.now + ms p) }
    else c) c

/-! ### Commands -/

/-- Start a controller (R386). -/
def Chip.canStart (m : Nat) (c : Chip) : Chip :=
  if (c.canOf m).started then c
  else (c.modCan m (fun s => { s with
    started := true, err := 0, tec := 0, recv := 0, level := 0, master := false, synced := false, cycle := 0,
    refAt := c.clk.now, alignAt := none, winTime := none, winEnd := none })).startObjs m

/-- CAN_START (R386). -/
def bodyCanStart (k : Cmd) (c : Chip) : Res :=
  if k.payload.length != 0 then .badLength c
  else if (c.canOf k.inst).started then .ok c
  else if c.islandHeld then .err stBusy noOfs c
  else .ok (c.canStart k.inst)

/-- CAN_STOP (R386): the frame in flight ends first. -/
def bodyCanStop (k : Cmd) (c : Chip) : Res :=
  let s := c.canOf k.inst
  if k.payload.length != 0 then .badLength c
  else if s.started && s.flight.isSome then
    if s.stopCmd.isSome then .err stBusy noOfs c
    else .waiting (c.setCan k.inst { s with stopCmd := some (k.ctx, k.tag) })
  else .ok (if s.started then c.canHalt k.inst else c)

/-- The first offset at which a CAN_SEND payload is invalid (R389, R397), if any; data whose length is not its DLC's is invalid at
offset 8 (DESIGN CHOICE, log entry 53: R560 and R389 differ). -/
def Chip.sendBad (c : Chip) (m : Nat) (p : List Byte) : Option Nat :=
  let id := fld p 0 4
  let fl := fld p 4 1
  let dlc := fld p 5 1
  let fdf := bit fl 0
  if bits id 30 2 != 0 || (!bit id 29 && bits id 11 18 != 0) then some 0
  else if bits fl 4 4 != 0 || (bit fl 2 && fdf) || (bit fl 1 && !fdf) || (fdf && !c.canFd m) || (bit fl 3 && !c.canTT m) then some 4
  else if 15 < dlc || (8 < dlc && !fdf) then some 5
  else if (if bit fl 3 then 63 < fld p 6 1 || c.txKind m (fld p 6 1) != 3 else fld p 6 1 != 0) then some 6
  else if fld p 7 1 != 0 then some 7
  else if p.length != 8 + dlcLen dlc then some 8
  else none

/-- The frame of a CAN_SEND. -/
def sendFrame (p : List Byte) : CanFrame :=
  { id := bits (fld p 0 4) 0 29, ide := bit (fld p 0 4) 29, fdf := bit (fld p 4 1) 0, brs := bit (fld p 4 1) 1, esi := false,
    rtr := bit (fld p 4 1) 2, dlc := fld p 5 1, data := p.drop 8 }

/-- CAN_SEND (R388, R389): through Q(40+4m), or with EXCL through Q(41+4m) (Table 0.5), to the pending frames; it starts
when it is pending. -/
def bodyCanSend (k : Cmd) (c : Chip) : Res :=
  let m := k.inst
  let s := c.canOf m
  let excl := bit (fld k.payload 4 1) 3
  let q := 40 + 4 * m + b2n excl
  if k.payload.length < 8 || 72 < k.payload.length then .badLength c
  else match c.sendBad m k.payload with
    | some o => .badParam o c
    | none =>
      if s.queued.any (fun p => p.cmd == some (k.ctx, k.tag)) then .held c
      else if !s.started || s.stopCmd.isSome || c.canSilent m || c.islandHeld then .err stBusy noOfs c
      else if !(c.queue q).hasRoom (entriesFor (c.queue q).eshift k.payload.length) then .err stQueueFull noOfs c
      else
        let p : CanPend := ⟨s.nextNum, some (k.ctx, k.tag), if excl then fld k.payload 6 1 else 0x3F, excl, sendFrame k.payload, 0,
          0, c.clk.now⟩
        let c1 := c.setCan m { s with nextNum := s.nextNum + 1 }
        if excl || (s.queued.isEmpty && s.pendCount < 32) then
          .accepted ((c1.passTx q k.payload).modCan m (fun s => { s with pend := s.pend ++ [p] }))
        else
          let c2 := c1.putRecord q k.payload
          .held ((c2.setQueue q (c2.queue q).notified).modCan m (fun s => { s with queued := s.queued ++ [p] }))

/-- How a cancel meets its target (R86, R390). -/
inductive CancelRes where
  | tooLate
  | withdrawn (c : Chip)
  | waits (c : Chip)

/-- Cancel the CAN_SEND of a context and tag on a controller; `by_` is the cancel itself. -/
def Chip.cancelSend (m ctx tag : Nat) (by_ : Nat × Nat) (c : Chip) : CancelRes :=
  let s := c.canOf m
  let mine := fun (p : CanPend) => p.cmd == some (ctx, tag)
  if s.pend.any mine then
    let c1 := c.setCan m { s with pend := s.pend.filter (fun p => !mine p) }
    .withdrawn ((c1.finishTag ctx tag stAborted noOfs []).refillCan m)
  else if s.queued.any mine then .withdrawn (c.finishTag ctx tag stAborted noOfs [])
  else match s.flight with
    | some f =>
      if mine f.pend then .waits (c.setCan m { s with flight := some { f with cancels := f.cancels ++ [by_] } }) else .tooLate
    | none => .tooLate

/-- The context that a CONTEXT byte names, or NOT_OWNER (R85). -/
def namedCtx (k : Cmd) (b : Nat) : Option Nat := if b == 0xFF then some k.ctx else if isMgtCtx k.ctx then some b else none

/-- CAN_CANCEL (R390). -/
def bodyCanCancel (k : Cmd) (c : Chip) : Res :=
  let p := k.payload
  if p.length != 4 then .badLength c
  else if !zeroAt p 3 1 then .badParam 3 c
  else match namedCtx k (fld p 2 1) with
    | none => .err stNotOwner 18 c
    | some ctx =>
      match c.findCmd ctx (fld p 0 2) with
      | some t =>
        if !(t.family == 9 && t.opcode == 2 && t.inst == k.inst) then .err stTooLate noOfs c
        else if t.phase == .fetched && !((c.canOf k.inst).queued.any (fun x => x.cmd == some (ctx, t.tag))) then
          .ok (c.finish t stAborted noOfs [])
        else match c.cancelSend k.inst ctx t.tag (k.ctx, k.tag) with
          | .withdrawn c1 => .ok c1
          | .waits c1 => .waiting c1
          | .tooLate => .err stTooLate noOfs c
      | none => .err stTooLate noOfs c

/-- CAN_STATUS (R405). -/
def bodyCanStatus (k : Cmd) (c : Chip) : Res :=
  let s := c.canOf k.inst
  if k.payload.length != 0 then .badLength c
  else .okWith (leBytes 4 (c.canStat k.inst) ++ [BitVec.ofNat 8 s.tdcMeas, 0, 0, 0] ++ leBytes 4 s.sent.toNat
    ++ leBytes 4 s.received.toNat ++ leBytes 4 s.errors.toNat ++ leBytes 4 s.busOffs.toNat ++ leBytes 4 s.s1Causes.toNat
    ++ leBytes 4 s.filtered.toNat ++ leBytes 4 s.versionDrops.toNat ++ leBytes 4 s.seqGaps.toNat) c

/-- CAN_TIME_MASTER (R406). -/
def bodyCanTimeMaster (k : Cmd) (c : Chip) : Res :=
  let p := k.payload
  let prio := fld p 0 1
  let tt := c.ttCfg k.inst
  if p.length != 4 then .badLength c
  else if 7 < prio && prio != 0xFF then .badParam 0 c
  else if !zeroAt p 1 3 then .badParam 1 c
  else
    let new := if prio == 0xFF then setBits tt 22 1 0 else setBits (setBits tt 19 3 prio) 22 1 1
    .ok ((c.setAttr tyCan k.inst 5 (leBytes 4 new)).bumpGen k.hnd)

/-! ### Meanings -/

/-- CAN_ARBITRATION_START (R388). -/
def execCanArbitrationStart (ctl : Nat) (won : Bool) (s : State) : Host.Outcome State Fault Refusal :=
  .next { s with chip := s.chip.arbitrate ctl won }

/-- TX_DONE (R389). -/
def execTxDone (ctl : Nat) (s : State) : Host.Outcome State Fault Refusal :=
  .next { s with chip := s.chip.txDone ctl }

/-- CAN_FRAME_RECEIVED (R391). -/
def execCanFrameReceived (ctl : Nat) (frame : CanFrame) (s : State) : Host.Outcome State Fault Refusal :=
  .next { s with chip := s.chip.canReceive ctl frame }

/-- CAN_ERROR_FRAME (R393). -/
def execCanErrorFrame (ctl errType : Nat) (dataPhase : Bool) (id tec recv : Nat) (s : State) : Host.Outcome State Fault Refusal :=
  .next { s with chip := s.chip.canErrorFrame ctl errType dataPhase id tec recv }

/-- BUS_OFF_RECOVERED (R387). -/
def execBusOffRecovered (ctl : Nat) (s : State) : Host.Outcome State Fault Refusal :=
  .next { s with chip := s.chip.busRecovered ctl }

/-- DOM_TIMEOUT (R380). -/
def execDomTimeout (ctl : Nat) (s : State) : Host.Outcome State Fault Refusal :=
  .next { s with chip := s.chip.domTimeout ctl }

/-- WUP (R381). -/
def execWup (ctl : Nat) (s : State) : Host.Outcome State Fault Refusal :=
  .next { s with chip := s.chip.wakeUp ctl }

/-- REFERENCE_MESSAGE (R398). -/
def execReferenceMessage (ctl prio cycle : Nat) (s : State) : Host.Outcome State Fault Refusal :=
  .next { s with chip := s.chip.referenceRow ctl prio cycle }

/-- REFERENCE_DUE (R398, R400). -/
def execReferenceDue (ctl : Nat) (won : Bool) (s : State) : Host.Outcome State Fault Refusal :=
  .next { s with chip := s.chip.referenceDue ctl won }

/-- WINDOW_START (R396). -/
def execWindowStart (ctl : Nat) (busIdle : Bool) (s : State) : Host.Outcome State Fault Refusal :=
  .next { s with chip := s.chip.windowRow ctl busIdle }

/-- S2_TIMEOUT (R399). -/
def execS2Timeout (ctl : Nat) (s : State) : Host.Outcome State Fault Refusal :=
  .next { s with chip := s.chip.s2Row ctl }

/-- NO_WINDOW (R396). -/
def execNoWindow (ctl ctx tag : Nat) (s : State) : Host.Outcome State Fault Refusal :=
  .next { s with chip := s.chip.noWindowRow ctl ctx tag }

/-- TXOBJ_PERIOD (R401). -/
def execTxobjPeriod (ctl obj : Nat) (s : State) : Host.Outcome State Fault Refusal :=
  .next { s with chip := s.chip.txPeriodRow ctl obj }

/-- TXOBJ_SLOT_CHANGE (R401). -/
def execTxobjSlotChange (ctl obj : Nat) (s : State) : Host.Outcome State Fault Refusal :=
  .next { s with chip := s.chip.txChangeRow ctl obj }

/-- CAN_START (R386). -/
def execCanStart (ctx tag : Nat) (s : State) : Host.Outcome State Fault Refusal :=
  .next { s with chip := s.chip.runCmd 9 0 bodyCanStart ctx tag }

/-- CAN_STOP (R386). -/
def execCanStop (ctx tag : Nat) (s : State) : Host.Outcome State Fault Refusal :=
  .next { s with chip := s.chip.runCmd 9 1 bodyCanStop ctx tag }

/-- CAN_SEND (R389). -/
def execCanSend (ctx tag : Nat) (s : State) : Host.Outcome State Fault Refusal :=
  .next { s with chip := s.chip.runCmd 9 2 bodyCanSend ctx tag }

/-- CAN_CANCEL (R390). -/
def execCanCancel (ctx tag : Nat) (s : State) : Host.Outcome State Fault Refusal :=
  .next { s with chip := s.chip.runCmd 9 3 bodyCanCancel ctx tag }

/-- CAN_STATUS (R405). -/
def execCanStatus (ctx tag : Nat) (s : State) : Host.Outcome State Fault Refusal :=
  .next { s with chip := s.chip.runCmd 9 4 bodyCanStatus ctx tag }

/-- CAN_TIME_MASTER (R406). -/
def execCanTimeMaster (ctx tag : Nat) (s : State) : Host.Outcome State Fault Refusal :=
  .next { s with chip := s.chip.runCmd 9 5 bodyCanTimeMaster ctx tag }

end Sys2Proof.Machine
end

