-- ==== Sys2Proof/Machine/Drover.lean ====
section
/-! DEFINITION. The Drover (spec/08_drover_loop_engine.md): node evaluation, PID and SELQ, min-select groups, triggers, lanes,
saturation supervision and the loop commands. -/

namespace Sys2Proof.Machine

def Chip.loop (c : Chip) (l : Nat) : LoopSt := Tbl.get dLoop c.loops l

def Chip.setLoop (l : Nat) (s : LoopSt) (c : Chip) : Chip := { c with loops := Tbl.set dLoop c.loops l s }

/-! ### Settings (Tables 8.1, 8.2) -/

def Chip.loopCfg (c : Chip) (l : Nat) : Nat := c.attrN tyLoop l 1
def Chip.loopClass (c : Chip) (l : Nat) : Nat := bits (c.loopCfg l) 0 2

/-- PERIOD in 25 ns periods. -/
def Chip.loopPeriod (c : Chip) (l : Nat) : Nat := us (c.attrN tyLoop l 2)

/-- Words of 8 bytes from an attribute family: 128 to an attribute. -/
def Chip.loopWords (c : Chip) (l base n : Nat) : List Nat :=
  (List.range n).map (fun i => fld (c.attr tyLoop l (base + i / 128)) (8 * (i % 128)) 8)

/-- The loop's node words. -/
def Chip.loopNodes (c : Chip) (l : Nat) : List Nat := c.loopWords l 0x100 (c.attrN tyLoop l 5)

/-- A bank of the loop's coefficients. -/
def Chip.loopCoefs (c : Chip) (l : Nat) (bank : Bool) : List Nat :=
  c.loopWords l (if bank then 0x210 else 0x200) (c.attrN tyLoop l 7)

/-- The enabled min-select group that a loop is a member of (R262). -/
def Chip.loopGroup (c : Chip) (l : Nat) : Option Nat :=
  let g := bits (c.loopCfg l) 6 6
  if bit (c.loopCfg l) 5 && bit (c.attrN tyDevice 0 (0x800 + g)) 15 then some g else none

def Chip.groupSel (c : Chip) (g : Nat) : GroupSel := Tbl.get dGroupSel c.minSel g

/-- Is a loop a loser of its group (R263)? -/
def Chip.isLoser (c : Chip) (l : Nat) : Bool :=
  match c.loopGroup l with
  | some g => (c.loop l).enabled && (match (c.groupSel g).winner with
      | some w => w != l
      | none => false)
  | none => false

/-! ### Node words and coefficients (Tables 8.3–8.6) -/

def nodeOp (w : Nat) : Nat := bits w 0 5
def nodeMode (w : Nat) : Nat := bits w 5 3

/-- Source `i` (0 A, 1 B, 2 C) of a node word. -/
def nodeSrc (w i : Nat) : Nat := bits w (8 + 14 * i) 14
def nodeCix (w : Nat) : Nat := bits w 50 10
def srcKind (f : Nat) : Nat := bits f 12 2
def srcIndex (f : Nat) : Nat := bits f 0 12

/-- VALUE of a coefficient entry. -/
def coefVal (cs : List Nat) (i : Nat) : Int := signed 32 (cs.getD i 0)

/-- SHIFT of a coefficient entry. -/
def coefShift (cs : List Nat) (i : Nat) : Nat := bits (cs.getD i 0) 32 5

/-- A gain: the product in full, shifted right (R253). -/
def gainOf (cs : List Nat) (i : Nat) (x : Int) : Int := rsh (x * coefVal cs i) (coefShift cs i)

def NodeVal.none : NodeVal := ⟨true, 0, 0, false⟩

/-- Quality bits that pass through a node (R256). -/
def passMask : Half := 0x00FC

/-- How many of its sources A, B, C a primitive uses (Table 8.5); what stands in another source field counts for nothing. -/
def srcCount (op : Nat) : Nat :=
  if op == 0x01 || op == 0x04 || op == 0x09 || op == 0x0A || op == 0x0E then 3
  else if op == 0x02 || op == 0x03 then 2
  else 1

/-- The source fields that a node word uses. -/
def nodeSrcs (w : Nat) : List Nat := (List.range (srcCount (nodeOp w))).map (nodeSrc w)

/-- A slot as an evaluation's snapshot takes it (R252, R257). -/
def Chip.slotInput (c : Chip) (sid : Nat) : NodeVal :=
  ⟨!c.slotUsable sid, (c.slot sid).value.toInt, (c.slot sid).quality, false⟩

/-- The snapshot of the slots that a graph reads. -/
def Chip.snapshotOf (c : Chip) (nodes : List Nat) : List (Nat × NodeVal) :=
  ((nodes.flatMap nodeSrcs).filter (fun f => srcKind f == 2)).map (fun f => (srcIndex f, c.slotInput (srcIndex f)))

/-- What a source gives: absent, or its value with its full quality (R251, R252, R257). -/
def sourceVal (snap : List (Nat × NodeVal)) (cs : List Nat) (done : List NodeVal) (f : Nat) : Option NodeVal :=
  if srcKind f == 0 then Option.none
  else if srcKind f == 1 then some (done.getD (srcIndex f) NodeVal.none)
  else if srcKind f == 2 then some (((snap.find? (fun e => e.1 == srcIndex f)).map Prod.snd).getD NodeVal.none)
  else some ⟨false, coefVal cs (srcIndex f), 0, false⟩

/-! ### PID and SELQ (R258, R259) -/

/-- What the loop gives a PID: the selected value where it tracks, a bank swap, a preset of I. -/
structure PidEnv where
  track : Option Int
  swapped : Bool
  preset : Option Int
  deriving DecidableEq, Repr

/-- One PID evaluation: state words I, M, F, U, the result and SAT. -/
def pidStep (cs : List Nat) (x mode : Nat) (env : PidEnv) (a b : Int) (old : List Int) : List Int × Int × Bool :=
  let rev := bit mode 0
  let lo := coefVal cs (x + 4)
  let hi := coefVal cs (x + 5)
  let i0 := match env.preset with
    | some v => clampI lo hi v
    | Option.none => old.getD 0 0
  let m0 := if old.isEmpty then b else old.getD 1 0
  let f0 := if old.isEmpty then 0 else old.getD 2 0
  let u0 := old.getD 3 0
  let e := if rev then b - a else a - b
  let dm := if rev then b - m0 else m0 - b
  let p := gainOf cs x e
  let f := f0 + gainOf cs (x + 3) (gainOf cs (x + 2) dm - f0)
  let inc := gainOf cs (x + 1) e
  let i1 := match env.track with
    | some sel => sel
    | Option.none =>
      if env.swapped && bit mode 2 then u0 - p - f
      else if (p + i0 + f ≥ hi && inc > 0) || (p + i0 + f ≤ lo && inc < 0) then i0
      else i0 + inc
  let i2 := clampI lo hi i1
  let u := clampI lo hi (p + i2 + f)
  ([i2, b, f, u], u, u != p + i2 + f)

/-- Is a SELQ input usable (R259)? -/
def selqUsable (reject : Nat) (v : Option NodeVal) : Bool :=
  match v with
  | some n => !n.noval && n.quality.toNat &&& reject &&& 0x3FC == 0
  | Option.none => false

/-- SELQ's selection (0–2 an input, 3 the hold): `cur` the present one, `run` how long each input has been usable. -/
def selqPick (usable : List Bool) (run : List Int) (cur : Nat) (returnN : Int) : Nat :=
  let ok := fun j => usable.getD j false
  match [0, 1, 2].find? (fun j => ok j && (decide (cur ≤ j) || decide (returnN ≤ run.getD j 0))) with
  | some j => j
  | Option.none => ([0, 1, 2].find? ok).getD 3

/-- One SELQ evaluation: state words (selection, the three runs, the previous result), its result, and the selection. -/
def selqStep (cs : List Nat) (x : Nat) (ins : List (Option NodeVal)) (old : List Int) : List Int × NodeVal × Nat :=
  let usable := ins.map (selqUsable (coefVal cs x).toNat)
  let run := (List.range 3).map (fun j => if usable.getD j false then min 255 (old.getD (1 + j) 0 + 1) else 0)
  let sel := selqPick usable run (old.getD 0 0).toNat (coefVal cs (x + 1))
  match (ins.getD sel Option.none) with
  | some v => ((sel : Int) :: run ++ [v.value], ⟨false, v.value, v.quality &&& passMask, false⟩, sel)
  | Option.none =>
    if old.isEmpty then (old, NodeVal.none, 0)
    else (3 :: run ++ [old.getD 4 0], ⟨false, old.getD 4 0, qHELD, false⟩, 3)

/-! ### The other primitives (Table 8.7) -/

/-- A result saturated to 32 bits (R255). -/
def satVal (q : Half) (x : Int) : NodeVal := ⟨false, sat32 x, q, sat32Clips x⟩

/-- The segment of a LOOKUP that holds `a`, from point `i` on. -/
def lookupAt (cs : List Nat) (x : Nat) (a : Int) : Nat → Nat → Int
  | 0, i => coefVal cs (x + 2 + 2 * i)
  | n + 1, i =>
    let xi := coefVal cs (x + 1 + 2 * i)
    let yi := coefVal cs (x + 2 + 2 * i)
    let xj := coefVal cs (x + 3 + 2 * i)
    let yj := coefVal cs (x + 4 + 2 * i)
    if a < xj then yi + divr ((a - xi) * (yj - yi)) (xj - xi) else lookupAt cs x a n (i + 1)

/-- The result and new state words of a primitive other than PID, SELQ and OUT, from present inputs. -/
def primStep (cs : List Nat) (w : Nat) (a : Int) (b cc : Option Int) (old : List Int) : Int × Bool × List Int :=
  let x := nodeCix w
  let m := nodeMode w
  let y0 := old.getD 0 0
  let neg := fun (i : Nat) (v : Int) => if bit m i then -v else v
  match nodeOp w with
  | 0x01 => (neg 0 a + neg 1 (b.getD 0) + neg 2 (cc.getD 0), false, [])
  | 0x02 => (gainOf cs x a + b.getD 0, false, [])
  | 0x04 =>
    let r := clampI (b.getD (coefVal cs x)) (cc.getD (coefVal cs (x + 1))) a
    (r, r != a, [])
  | 0x05 =>
    let r := if old.isEmpty then a else y0 + clampI (-(coefVal cs (x + 1))) (coefVal cs x) (a - y0)
    (r, false, [sat32 r])
  | 0x06 =>
    let db := coefVal cs x
    (if (a.natAbs : Int) ≤ db then 0 else if !bit m 0 then a else if a < 0 then a + db else a - db, false, [])
  | 0x07 =>
    let r := if coefVal cs x ≤ a then (if bit m 0 then 0 else one16)
      else if a ≤ coefVal cs (x + 1) then (if bit m 0 then one16 else 0) else y0
    (r, false, [r])
  | 0x08 =>
    let n := (coefVal cs x).toNat
    (if a ≤ coefVal cs (x + 1) then coefVal cs (x + 2)
      else if coefVal cs (x + 2 * n - 1) ≤ a then coefVal cs (x + 2 * n) else lookupAt cs x a (n - 1) 0, false, [])
  | 0x0B => (clampI 0 one16 (divr ((a - coefVal cs x) * 65536) (coefVal cs (x + 1) - coefVal cs x)), false, [])
  | 0x0C =>
    let r := if old.isEmpty then a else y0 + gainOf cs x (a - y0)
    (r, false, [sat32 r])
  | 0x0D =>
    let d := (coefVal cs x).toNat
    ((old.take d).getLast?.getD a, false, (a :: old).take 64)
  | _ => (a, false, [])

/-- MINSEL and MAXSEL: the earliest of the least or greatest inputs. -/
def pickOf (least : Bool) : NodeVal → List NodeVal → NodeVal
  | best, [] => best
  | best, v :: rest =>
    pickOf least (if (if least then decide (v.value < best.value) else decide (best.value < v.value)) then v else best) rest

/-! ### Evaluation (R252, R255–R260, R263) -/

/-- The writing of an output ends or starts a saturation run (R270); ALARM stays until SAT_CLEAR. -/
def Chip.noteSat (l node : Nat) (sat : Bool) (c : Chip) : Chip :=
  let s := c.loop l
  match s.satSince, sat with
  | Option.none, true =>
    (c.setLoop l { s with satSince := some c.clk.fabUs, alarmTold := false }).fire 64 (l + 65536 * node)
  | some t, false => c.setLoop l { s with satSince := Option.none, satBefore := s.satBefore + (c.clk.fabUs - t) }
  | _, _ => c

/-- LAST_LAT, MAX_LAT and E69 after an output write (R269). -/
def Chip.noteLatency (l : Nat) (e : Eval) (c : Chip) : Chip :=
  let s := c.loop l
  let lat := c.stamp - e.ref
  let cls := c.loopClass l
  let limit := if cls == 0 then 1000 else if cls == 1 then 5000 else c.attrN tyLoop l 2
  let c1 := c.setLoop l { s with lastLat := lat, maxLat := if s.maxLat.toNat < lat.toNat then lat else s.maxLat }
  if limit < lat.toNat then c1.fire 69 (l + 512 * cls + 65536 * min 0xFFFF (lat.toNat / 1000)) else c1

/-- Is a member's candidate live (R263)? -/
def Chip.liveCandidate (c : Chip) (l : Nat) : Option Candidate :=
  match (c.loop l).candidate with
  | some k => if (c.loop l).enabled && c.clk.now < k.at_ + 4 * c.loopPeriod l then some k else Option.none
  | Option.none => Option.none

/-- The least live candidate of a group, the lower loop first (R263). -/
def Chip.leastCandidate (c : Chip) (g : Nat) : Option (Nat × Candidate) :=
  c.loops.foldl (fun best e =>
    if c.loopGroup e.1 == some g then
      match c.liveCandidate e.1, best with
      | some k, some (_, b) => if k.value < b.value then some (e.1, k) else best
      | some k, Option.none => some (e.1, k)
      | Option.none, _ => best
    else best) Option.none

/-- A candidate is written: the group selects at once and writes its output (R263). -/
def Chip.putCandidate (l g : Nat) (k : Candidate) (c : Chip) : Chip :=
  let c1 := c.setLoop l { c.loop l with candidate := some k }
  match c1.leastCandidate g with
  | some (w, b) =>
    ({ c1 with minSel := Tbl.set dGroupSel c1.minSel g ⟨b.value, some w⟩ }).produce (bits (c1.attrN tyDevice 0 (0x800 + g)) 0 12)
      (word b.value) b.stamp b.quality (producerOf 2 w)
  | Option.none => c1

/-- An OUT node (R257, R260): nothing where its input is NOVAL, or where GROUP is set and the loop's group is not enabled. -/
def Chip.outNode (l node w : Nat) (e : Eval) (v : NodeVal) (c : Chip) : Chip :=
  let q := qVALID ||| (v.quality &&& passMask) ||| (if v.sat then qSAT else 0)
  let g := c.loopGroup l
  if v.noval || (bit (nodeMode w) 0 && g.isNone) then c
  else
    let c1 := match bit (nodeMode w) 0, g with
      | true, some g => c.putCandidate l g ⟨v.value, c.stamp, q, c.clk.now⟩
      | _, _ => c.produce (srcIndex (nodeSrc w 1)) (word v.value) c.stamp q (producerOf 2 l)
    (c1.noteSat l node v.sat).noteLatency l e

/-- One node word of the evaluation in progress of loop `l`. -/
def nodeStep (l : Nat) (s : Running × Chip) (w : Nat) : Running × Chip :=
  let r := s.1
  let c := s.2
  let i := r.done.length
  let op := nodeOp w
  let cs := r.eval.coefs
  let srcs := nodeSrcs w
  let ins := srcs.map (sourceVal r.snap cs r.done)
  let old := Tbl.get dNil r.words i
  if op == 0x0E then
    let p := selqStep cs (nodeCix w) ins old
    let c1 := if p.2.2 != 0 && old.getD 0 0 == 0 then c.fire 65 (l + 65536 * i + 2 ^ 25 * p.2.2) else c
    ({ r with done := r.done ++ [p.2.1], words := Tbl.set dNil r.words i p.1 }, c1)
  else
    let present := ins.filterMap id
    let badSlot := (List.range 3).find? (fun j => srcKind (srcs.getD j 0) == 2 && (match ins.getD j Option.none with
      | some v => v.noval
      | Option.none => false))
    if present.any NodeVal.noval then
      ({ r with
        done := r.done ++ [NodeVal.none]
        noval := match r.noval, badSlot with
          | Option.none, some j => some (srcIndex (srcs.getD j 0))
          | x, _ => x }, c)
    else
      let q := (present.foldl (fun x v => x ||| v.quality) 0) &&& passMask
      let a := (ins.getD 0 Option.none).getD NodeVal.none
      let val := fun j => (ins.getD j Option.none).map NodeVal.value
      if op == 0x03 then
        let p := pidStep cs (nodeCix w) (nodeMode w)
          { track := if bit (nodeMode w) 1 then r.track else Option.none
            swapped := r.bumps.contains i
            preset := (r.presets.find? (fun x => x.1 == i)).map Prod.snd } a.value ((val 1).getD 0) old
        ({ r with
          done := r.done ++ [⟨false, p.2.1, q, p.2.2⟩], words := Tbl.set dNil r.words i p.1, used := i :: r.used
          bumps := r.bumps.filter (· != i) }, c)
      else if op == 0x09 || op == 0x0A then
        let v := pickOf (op == 0x09) a (present.drop 1)
        ({ r with done := r.done ++ [⟨false, v.value, v.quality &&& passMask, false⟩] }, c)
      else if op == 0x0F then
        ({ r with done := r.done ++ [⟨false, a.value, q, a.sat⟩] }, c.outNode l i w r.eval ⟨false, a.value, q, a.sat⟩)
      else
        let p := primStep cs w a.value (val 1) (val 2) old
        let v := satVal q p.1
        let flag := p.2.1 || ((op == 0x01 || op == 0x02 || op == 0x0C) && v.sat)
        ({ r with done := r.done ++ [{ v with sat := flag }], words := Tbl.set dNil r.words i p.2.2 }, c)

/-- OP, MODE and CIX of a node word (R272). -/
def nodeKey (w : Nat) : Nat × Nat × Nat := (nodeOp w, nodeMode w, nodeCix w)

/-- Has node `i` of a new graph the OP, MODE and CIX of the old graph's (R272)? -/
def sameNode (old new : List Nat) (i : Nat) : Bool :=
  decide (i < old.length) && decide (i < new.length) && nodeKey (old.getD i 0) == nodeKey (new.getD i 0)

/-- State words that a new graph keeps (R272). -/
def keepWords (old new : List Nat) (ws : Tbl (List Int)) : Tbl (List Int) := ws.filter (fun x => sameNode old new x.1)

/-- The nodes whose first evaluation on a new bank is due: all of them at a change of the bank (R261). -/
def LoopSt.bumpsFor (e : Eval) (s : LoopSt) : List Nat :=
  if s.evalBank != e.bank then List.range e.nodes.length else s.bumps.filter (sameNode s.graph e.nodes)

/-- A lane starts the evaluation of loop `l`: the snapshot, the selected value that a loser tracks, its presets (R252, R263,
R273). -/
def Chip.startEval (l lane : Nat) (e : Eval) (c : Chip) : Chip :=
  let s := c.loop l
  let r : Running := {
    eval := e, lane := some lane, snap := c.snapshotOf e.nodes, done := [], words := keepWords s.graph e.nodes s.words,
    used := [], noval := Option.none
    track := match c.loopGroup l with
      | some g => if c.isLoser l then some (c.groupSel g).value else Option.none
      | Option.none => Option.none
    bumps := s.bumpsFor e, presets := s.presets, orphan := false }
  c.setLoop l { s with pending := Option.none, running := some r, aged := e.aged }

/-- An evaluation of loop `l` is complete: its state words are the loop's, and a slot that read NOVAL is told (R257). -/
def Chip.endEval (l : Nat) (r : Running) (c : Chip) : Chip :=
  let t := c.loop l
  let c1 := c.setLoop l (if r.orphan then { t with running := Option.none } else { t with
    running := Option.none, words := r.words, graph := r.eval.nodes, evalBank := r.eval.bank, bumps := r.bumps
    noval := r.noval.isSome, presets := t.presets.filter (fun x => !(r.used.contains x.1 && r.presets.contains x)) })
  match r.noval with
  | some sid => if t.noval then c1 else c1.fire 70 (l + 65536 * sid)
  | Option.none => c1

/-- Evaluate the next `n` node words of loop `l` (R252–R263, R267). -/
def Chip.runWords (l n : Nat) (c : Chip) : Chip :=
  match (c.loop l).running with
  | Option.none => c
  | some r =>
    let s := ((r.eval.nodes.drop r.done.length).take n).foldl (nodeStep l) (r, c)
    if s.1.done.length < s.1.eval.nodes.length then s.2.setLoop l { s.2.loop l with running := some s.1 }
    else s.2.endEval l s.1

/-- Does an evaluation of one loop go before another's (R265)? -/
def evalBefore (l : Nat) (e : Eval) (m : Nat) (f : Eval) : Bool :=
  decide (e.cls < f.cls) || (e.cls == f.cls
    && (decide (e.deadline < f.deadline) || (e.deadline == f.deadline && decide (l < m))))

/-- The first of the evaluations that a list of loops offers (R265). -/
def firstEval (xs : List (Nat × Eval)) : Option (Nat × Eval) :=
  xs.foldl (fun best x => match best with
    | some (m, f) => if evalBefore x.1 x.2 m f then some x else best
    | Option.none => some x) Option.none

/-- Must a pending evaluation wait for its min-select group: while another member evaluates, or where a member of a lower
number was triggered together with it (R263)? -/
def Chip.groupWaits (c : Chip) (l : Nat) (e : Eval) : Bool :=
  match c.loopGroup l with
  | Option.none => false
  | some g => c.loops.any (fun x => x.1 != l && c.loopGroup x.1 == some g
      && (x.2.running.isSome || (decide (x.1 < l) && x.2.pending.any (fun f => f.due == e.due))))

/-- The pending evaluation that comes first: of a loop that runs none (R265). -/
def Chip.nextPending (c : Chip) : Option (Nat × Eval) :=
  firstEval (c.loops.filterMap (fun x => match x.2.running, x.2.pending with
    | Option.none, some e => if c.groupWaits x.1 e then Option.none else some (x.1, e)
    | _, _ => Option.none))

/-- The preempted evaluation that comes first. -/
def Chip.nextPreempted (c : Chip) : Option (Nat × Eval) :=
  firstEval (c.loops.filterMap (fun x => x.2.running.bind (fun r => if r.lane.isNone then some (x.1, r.eval) else Option.none)))

/-- The evaluation that a free lane takes: pending, or preempted (R265). -/
def Chip.nextEval (c : Chip) : Option (Nat × Eval) := firstEval (c.nextPending.toList ++ c.nextPreempted.toList)

/-- The loop whose evaluation a lane runs. -/
def Chip.runningOn (c : Chip) (lane : Nat) : Option Nat :=
  (c.loops.find? (fun x => x.2.running.any (fun r => r.lane == some lane))).map Prod.fst

/-- Put an evaluation in progress on a lane, or on none. -/
def Chip.moveLane (l : Nat) (lane : Option Nat) (c : Chip) : Chip :=
  c.setLoop l { c.loop l with running := (c.loop l).running.map (fun r => { r with lane := lane }) }

/-- A lane takes a loop's evaluation: one in progress, or the pending one. -/
def Chip.takeEval (l lane : Nat) (e : Eval) (c : Chip) : Chip :=
  if (c.loop l).running.isSome then c.moveLane l (some lane) else c.startEval l lane e

/-- Does a pending evaluation preempt the one of class `cls` on a lane: it is of a lower class, and no lane is free for it? -/
def Chip.preempts (c : Chip) (e : Eval) (cls : Nat) : Bool :=
  decide (e.cls < cls) && (List.range 4).all (fun n => (c.runningOn n).isSome)

/-- LOOP_EVALUATION: a lane evaluates `words` node words: of the evaluation that it runs, of the pending one that preempts it,
or, where it is free, of the first one that waits (R265, R267). -/
def Chip.laneRow (lane words : Nat) (c : Chip) : Chip :=
  if !c.power.main.up || 4 ≤ lane then c
  else match c.runningOn lane with
    | some l =>
      match c.nextPending, (c.loop l).running with
      | some (m, e), some r =>
        if c.preempts e r.eval.cls then ((c.moveLane l Option.none).takeEval m lane e).runWords m words else c.runWords l words
      | _, _ => c.runWords l words
    | Option.none =>
      match c.nextEval with
      | some (m, e) => (c.takeEval m lane e).runWords m words
      | Option.none => c

/-! ### Triggers (R261, R264–R266) -/

/-- A trigger is accepted: the sample boundary, where a bank swap and committed changes take effect (R261, R265, R272). -/
def Chip.acceptTrig (l : Nat) (t : Trig) (c : Chip) : Chip :=
  let s := c.loop l
  let bank := s.swap.getD s.bank
  let cls := c.loopClass l
  let p := c.loopPeriod l
  let e : Eval := {
    due := t.due, deadline := t.due + (if cls == 0 then ms 1 else if cls == 1 then min p (ms 5) else p)
    ref := t.ref, cls := cls, aged := false, bank := bank, nodes := c.loopNodes l, coefs := c.loopCoefs l bank }
  let c1 := c.setLoop l { s with lastAccepted := some t.due, pending := some e, bank := bank, swap := Option.none }
  if bank != s.bank then c1.fire 68 (l + 512 * b2n bank) else c1

/-- A trigger is issued: accepted, or skipped and counted (R264). -/
def Chip.issueTrig (l : Nat) (t : Trig) (c : Chip) : Chip :=
  let s := c.loop l
  let early := match s.lastAccepted with
    | some d => decide (t.due < d + c.loopPeriod l)
    | Option.none => false
  if early || s.pending.isSome then
    c.setLoop l { s with skipped := if s.skipped = 0xFFFF then s.skipped else s.skipped + 1 }
  else c.acceptTrig l t

/-- LOOP_TRIGGER: the next PERIODIC trigger, which falls due by the transit reference, or the oldest EVENT or SLOT trigger
(R264). -/
def Chip.triggerRow (l : Nat) (c : Chip) : Chip :=
  let s := c.loop l
  if !s.enabled then c
  else if bits (c.loopCfg l) 2 2 == 0 then
    match s.nextDue with
    | Option.none => c
    | some d =>
      if !c.transitComes d then c
      else
        let c1 := c.waitTransit d
        let due := c1.clk.now - (c1.clk.transit - d)
        (c1.setLoop l { s with nextDue := some (d + c.loopPeriod l) }).issueTrig l ⟨due, c1.stampAt due⟩
  else match s.trigs with
    | [] => c
    | t :: rest => ((c.waitUntil t.due).setLoop l { s with trigs := rest }).issueTrig l t

/-- STARVED: an evaluation still pending 4 × PERIOD after its trigger is aged into class 1 (R266). -/
def Chip.starvedRow (l : Nat) (c : Chip) : Chip :=
  let s := c.loop l
  match s.pending with
  | Option.none => c
  | some e =>
    if e.cls < 2 then c
    else
      let c1 := c.waitUntil (e.due + 4 * c.loopPeriod l)
      (c1.setLoop l { s with pending := some { e with cls := 1, aged := true }, aged := true, starved := s.starved + 1 }).fire 67
        (l + 512 * e.cls + 65536 * ((s.starved + 1).toNat % 65536))

/-! ### Saturation (R270) -/

/-- SAT_RUN in s. -/
def Chip.satRun (c : Chip) (l : Nat) : Nat :=
  match (c.loop l).satSince with
  | some t => (c.clk.fabUs - t) / 1000000
  | Option.none => 0

/-- SAT_TIME in s. -/
def Chip.satTime (c : Chip) (l : Nat) : Nat :=
  ((c.loop l).satBefore + ((match (c.loop l).satSince with
    | some t => c.clk.fabUs - t
    | Option.none => 0) : Nat)).toNat / 1000000

/-- SAT_ALARM: SAT_RUN reaches SAT_LIMIT (R270). -/
def Chip.satAlarm (l : Nat) (c : Chip) : Chip :=
  let s := c.loop l
  let lim := c.attrN tyLoop l 8
  match s.satSince with
  | Option.none => c
  | some t =>
    if lim == 0 || s.alarmTold || !c.clk.refRun then c
    else
      let c1 := c.advance (c.fabricWait (t + lim * 1000000))
      (c1.setLoop l { s with alarm := true, alarmTold := true, alarmAt := some c1.clk.now }).fire 66 (l + 65536 * lim)

/-! ### Commands (R261, R270–R274) -/

/-- Enable a loop (R271): every state word clears, and triggers are accepted.  A saturation run goes on, and SAT_TIME counts
from here (R270). -/
def Chip.enableLoop (l : Nat) (c : Chip) : Chip :=
  let s := c.loop l
  if s.enabled then c
  else c.setLoop l { s with
    enabled := true, trigs := [], lastAccepted := Option.none, pending := Option.none, evalBank := s.bank, bumps := []
    running := s.running.map (fun r => { r with orphan := true }), words := [], graph := [], skipped := 0, aged := false
    starved := 0, noval := false, candidate := Option.none, nextDue := some c.clk.transit
    satBefore := match s.satSince with
      | some t => -((c.clk.fabUs - t : Nat) : Int)
      | Option.none => 0 }

/-- Disable a loop (R263, R271): a pending evaluation is dropped, and a member leaves its group at once. -/
def Chip.disableLoop (l : Nat) (c : Chip) : Chip :=
  let c1 := c.setLoop l { c.loop l with
    enabled := false, trigs := [], nextDue := Option.none, pending := Option.none, candidate := Option.none }
  { c1 with minSel := c1.minSel.map (fun e => if e.2.winner == some l then (e.1, { e.2 with winner := Option.none }) else e) }

/-- LOOP_STATE (Table 8.1). -/
def Chip.loopState (c : Chip) (l : Nat) : Nat :=
  let s := c.loop l
  (if !s.enabled then 0 else if s.running.isSome then 3 else if s.pending.isSome then 2 else 1) + 4 * b2n s.bank + 8 * b2n s.satSince.isSome
    + 16 * b2n s.alarm + 32 * b2n (c.isLoser l) + 64 * b2n s.aged + 65536 * s.skipped.toNat

/-- LOOP_ENABLE (R271). -/
def bodyLoopEnable (k : Cmd) (c : Chip) : Res :=
  if k.payload.length != 0 then .badLength c else .ok (c.enableLoop k.inst)

/-- LOOP_DISABLE (R271). -/
def bodyLoopDisable (k : Cmd) (c : Chip) : Res :=
  if k.payload.length != 0 then .badLength c else .ok (c.disableLoop k.inst)

/-- BANK_SWAP (R261). -/
def bodyBankSwap (k : Cmd) (c : Chip) : Res :=
  let s := c.loop k.inst
  let b := fld k.payload 0 1
  if k.payload.length != 4 then .badLength c
  else if 2 < b then .badParam 0 c
  else if !zeroAt k.payload 1 3 then .badParam 1 c
  else .ok (c.setLoop k.inst { s with swap := some (if b == 2 then !(s.swap.getD s.bank) else b == 1) })

/-- LOOP_STATUS (R274). -/
def bodyLoopStatus (k : Cmd) (c : Chip) : Res :=
  let l := k.inst
  if k.payload.length != 0 then .badLength c
  else .okWith (leBytes 4 (c.loopState l) ++ leBytes 4 (c.satTime l) ++ leBytes 4 (c.satRun l)
    ++ leBytes 4 (c.loop l).starved.toNat ++ leBytes 4 (c.loop l).lastLat.toNat ++ leBytes 4 (c.loop l).maxLat.toNat) c

/-- INTEGRATOR_PRESET (R273). -/
def bodyIntegratorPreset (k : Cmd) (c : Chip) : Res :=
  let n := fld k.payload 0 2
  let s := c.loop k.inst
  if k.payload.length != 8 then .badLength c
  else if !decide (n < (c.loopNodes k.inst).length) || nodeOp ((c.loopNodes k.inst).getD n 0) != 3 then .badParam 0 c
  else if !zeroAt k.payload 2 2 then .badParam 2 c
  else .ok (c.setLoop k.inst { s with presets := s.presets.filter (fun x => x.1 != n) ++ [(n, fldI32 k.payload 4)] })

/-- SAT_CLEAR (R270); a firing of E66 at the same moment wins. -/
def bodySatClear (k : Cmd) (c : Chip) : Res :=
  if k.payload.length != 0 then .badLength c
  else if (c.loop k.inst).alarmAt == some c.clk.now then .ok c
  else .ok (c.setLoop k.inst { c.loop k.inst with alarm := false })

/-! ### Meanings -/

/-- LOOP_ENABLE (R271). -/
def execLoopEnable (ctx tag : Nat) (s : State) : Host.Outcome State Fault Refusal :=
  .next { s with chip := s.chip.runCmd 5 0 bodyLoopEnable ctx tag }

/-- LOOP_DISABLE (R271). -/
def execLoopDisable (ctx tag : Nat) (s : State) : Host.Outcome State Fault Refusal :=
  .next { s with chip := s.chip.runCmd 5 1 bodyLoopDisable ctx tag }

/-- BANK_SWAP (R261). -/
def execBankSwap (ctx tag : Nat) (s : State) : Host.Outcome State Fault Refusal :=
  .next { s with chip := s.chip.runCmd 5 2 bodyBankSwap ctx tag }

/-- LOOP_STATUS (R274). -/
def execLoopStatus (ctx tag : Nat) (s : State) : Host.Outcome State Fault Refusal :=
  .next { s with chip := s.chip.runCmd 5 3 bodyLoopStatus ctx tag }

/-- INTEGRATOR_PRESET (R273). -/
def execIntegratorPreset (ctx tag : Nat) (s : State) : Host.Outcome State Fault Refusal :=
  .next { s with chip := s.chip.runCmd 5 4 bodyIntegratorPreset ctx tag }

/-- SAT_CLEAR (R270). -/
def execSatClear (ctx tag : Nat) (s : State) : Host.Outcome State Fault Refusal :=
  .next { s with chip := s.chip.runCmd 5 5 bodySatClear ctx tag }

/-- LOOP_TRIGGER (R264). -/
def execLoopTrigger (loop : Nat) (s : State) : Host.Outcome State Fault Refusal :=
  .next { s with chip := s.chip.triggerRow loop }

/-- LOOP_EVALUATION (R265). -/
def execLoopEvaluation (work : Nat × Nat) (s : State) : Host.Outcome State Fault Refusal :=
  .next { s with chip := s.chip.laneRow work.1 work.2 }

/-- STARVED (R266). -/
def execStarved (loop : Nat) (s : State) : Host.Outcome State Fault Refusal :=
  .next { s with chip := s.chip.starvedRow loop }

/-- SAT_ALARM (R270). -/
def execSatAlarm (loop : Nat) (s : State) : Host.Outcome State Fault Refusal :=
  .next { s with chip := s.chip.satAlarm loop }

end Sys2Proof.Machine
end

