-- ==== Sys2Proof/Machine/Crypto.lean ====
section
/-! DEFINITION. The signature check of images and firmware banks (R483, R517): SHA-256 and ECDSA over NIST P-256, as
FIPS 180-4 and FIPS 186-4 define them. -/

namespace Sys2Proof.Machine

/-! ### SHA-256 -/

/-- Is a number a prime? -/
def isPrime (n : Nat) : Bool := decide (2 ≤ n) && ((List.range n).drop 2).all (fun d => n % d != 0)

/-- The first 64 primes, of which 311 is the last. -/
def shaPrimes : List Nat := (List.range 312).filter isPrime

/-- The whole part of the `k`-th root of `x`, found from bit `n` − 1 down. -/
def wholeRoot (k x n : Nat) : Nat :=
  (List.range n).foldr (fun b r => if (r + 2 ^ b) ^ k ≤ x then r + 2 ^ b else r) 0

/-- The first 32 fractional bits of the `k`-th root of a number below 512. -/
def rootFraction (k p : Nat) : Word := BitVec.ofNat 32 (wholeRoot k (p * 2 ^ (32 * k)) 41)

/-- The 64 round constants: from the cube roots of the primes. -/
def shaK : List Word := shaPrimes.map (rootFraction 3)

/-- The initial hash value: from the square roots of the first eight primes. -/
def shaInit : List Word := (shaPrimes.take 8).map (rootFraction 2)

/-- The exclusive or of a word turned right by several counts. -/
def turned (w : Word) (by_ : List Nat) : Word := by_.foldl (fun x n => x ^^^ w.rotateRight n) 0

/-- The word that the message schedule adds to those before it, newest first. -/
def nextWord (w : List Word) : Word :=
  let back := fun (i : Nat) => w.getD (i - 1) 0
  back 16 + (turned (back 15) [7, 18] ^^^ back 15 >>> 3) + back 7 + (turned (back 2) [17, 19] ^^^ back 2 >>> 10)

/-- The working variables of the compression, `a` to `h`, as a list: one round with the sum of its constant and its word. -/
def shaRound (v : List Word) (kw : Word) : List Word :=
  let x := fun (i : Nat) => v.getD i 0
  let pick := (x 4 &&& x 5) ||| (~~~(x 4) &&& x 6)
  let most := (x 0 &&& (x 1 ||| x 2)) ||| (x 1 &&& x 2)
  let t := x 7 + turned (x 4) [6, 11, 25] + pick + kw
  [t + turned (x 0) [2, 13, 22] + most, x 0, x 1, x 2, x 3 + t, x 4, x 5, x 6]

/-- Compress one 64-byte block into the hash value. -/
def shaBlock (h : List Word) (blk : List Byte) : List Word :=
  let first := (List.range 16).foldl (fun w i => BitVec.ofNat 32 (beNat (slice blk (4 * i) 4)) :: w) []
  let words := ((List.range 48).foldl (fun w _ => nextWord w :: w) first).reverse
  let v := ((List.range 64).map (fun i => shaK.getD i 0 + words.getD i 0)).foldl shaRound h
  (List.range 8).map (fun i => h.getD i 0 + v.getD i 0)

/-- Compress `n` blocks. -/
def shaBlocks (n : Nat) (h : List Word) (m : List Byte) : List Word :=
  (List.range n).foldl (fun h i => shaBlock h (slice m (64 * i) 64)) h

/-- The message with its padding. -/
def shaPad (m : List Byte) : List Byte :=
  m ++ [0x80] ++ zeros ((119 - m.length % 64) % 64) ++ (leBytes 8 (8 * m.length)).reverse

/-- The SHA-256 digest of a message, 32 bytes. -/
def sha256 (m : List Byte) : List Byte :=
  let p := shaPad m
  (shaBlocks (p.length / 64) shaInit p).flatMap (fun w => (leBytes 4 w.toNat).reverse)

/-! ### NIST P-256 -/

def pField : Nat := 0xffffffff00000001000000000000000000000000ffffffffffffffffffffffff
def pOrder : Nat := 0xffffffff00000000ffffffffffffffffbce6faada7179e84f3b9cac2fc632551
def pB : Nat := 0x5ac635d8aa3a93e7b3ebbd55769886bc651d06b0cc53b0f63bce3c3e27d2604b
def pGx : Nat := 0x6b17d1f2e12c4247f8bce6e563a440f277037d812deb33a0f4a13945d898c296
def pGy : Nat := 0x4fe342e2fe1a7f9b8ee7eb4a7c0f9e162bce33576b315ececbb6406837bf51f5

/-- `b ^ e` modulo `m`, by the bits of `e`. -/
def powMod (m : Nat) : Nat → Nat → Nat → Nat → Nat
  | 0, _, _, acc => acc
  | fuel + 1, b, e, acc => powMod m fuel (b * b % m) (e / 2) (if e % 2 = 1 then acc * b % m else acc)

/-- The inverse modulo a prime below 2^256. -/
def invMod (m a : Nat) : Nat := powMod m 256 (a % m) (m - 2) 1

/-- A point of the curve; `none` is the point at infinity. -/
abbrev CurvePoint := Option (Nat × Nat)

/-- Subtraction modulo the field prime. -/
def subF (a b : Nat) : Nat := (a % pField + (pField - b % pField)) % pField

/-- Point addition. -/
def addPoint (p q : CurvePoint) : CurvePoint :=
  match p, q with
  | none, q => q
  | p, none => p
  | some (x1, y1), some (x2, y2) =>
    if x1 == x2 && (y1 + y2) % pField == 0 then none
    else
      let l := if x1 == x2 then (3 * x1 * x1 + (pField - 3)) * invMod pField (2 * y1) % pField
        else subF y2 y1 * invMod pField (subF x2 x1) % pField
      let x3 := subF (subF (l * l) x1) x2
      some (x3, subF (l * subF x1 x3) y1)

/-- Scalar multiplication, by the bits of the scalar. -/
def mulPoint : Nat → Nat → CurvePoint → CurvePoint → CurvePoint
  | 0, _, _, acc => acc
  | fuel + 1, k, p, acc => mulPoint fuel (k / 2) (addPoint p p) (if k % 2 = 1 then addPoint acc p else acc)

/-- Is a public key a point of the curve? -/
def onCurve (x y : Nat) : Bool :=
  decide (x < pField) && decide (y < pField) && y * y % pField == (x * x * x + (pField - 3) * x + pB) % pField

/-- ECDSA verification of a digest: key X then Y, signature r then s, each 32 bytes big-endian (R483). -/
def ecdsaVerify (key digest sig : List Byte) : Bool :=
  let x := beNat (key.take 32)
  let y := beNat (key.drop 32)
  let r := beNat (sig.take 32)
  let s := beNat (sig.drop 32)
  if key.length != 64 || sig.length != 64 || !onCurve x y || r == 0 || s == 0 || pOrder ≤ r || pOrder ≤ s then false
  else
    let w := invMod pOrder s
    let u1 := beNat digest * w % pOrder
    let u2 := r * w % pOrder
    match addPoint (mulPoint 256 u1 (some (pGx, pGy)) none) (mulPoint 256 u2 (some (x, y)) none) with
    | none => false
    | some (px, _) => px % pOrder == r

end Sys2Proof.Machine
end

