-- ==== Sys2Proof/Machine/Firmware.lean ====
section
/-! DEFINITION. Firmware banks and the identity record (spec/17, R517–R524; spec/15, R488). -/

namespace Sys2Proof.Machine

def Chip.setFw (f : FirmwareSt → FirmwareSt) (c : Chip) : Chip := { c with firmware := f c.firmware }

def FirmwareSt.setBody (f : FirmwareSt) (b : Bool) (x : BankBody) : FirmwareSt :=
  if b then { f with bankB := x } else { f with bankA := x }

/-- INCOMPLETE of a bank in the pointer (R518). -/
def BankPtr.incomplete (p : BankPtr) (b : Bool) : Bool := if b then p.incB else p.incA

def BankPtr.setIncomplete (p : BankPtr) (b v : Bool) : BankPtr := if b then { p with incB := v } else { p with incA := v }

/-- Does a bank's content verify, the pointer's mark apart (R517)? -/
def BankBody.sound : BankBody → Bool
  | .factory => true
  | .erased => false
  | .image v _ _ => v

/-- Does a bank verify (R517)? -/
def FirmwareSt.verifies (f : FirmwareSt) (b : Bool) : Bool := (f.body b).sound && !f.ptr.incomplete b

def BankBody.length : BankBody → Nat
  | .factory => Config.factoryBankLength.toNat
  | .erased => 0
  | .image _ _ n => n

/-- STATE of a bank (R522). -/
def FirmwareSt.bankState (f : FirmwareSt) (b : Bool) : Nat :=
  if f.ptr.incomplete b then 2
  else match f.body b with
    | .erased => 0
    | x => if x.sound then 1 else 3

/-- The 12-byte record of a bank (R522). -/
def FirmwareSt.bankRecord (f : FirmwareSt) (b : Bool) : List Byte :=
  let active := f.ptr.bank == b
  [BitVec.ofNat 8 (f.bankState b),
   BitVec.ofNat 8 (b2n active + 2 * b2n (f.running == some b) + 4 * b2n (active && f.ptr.trial)),
   BitVec.ofNat 8 (if active && f.ptr.trial then f.ptr.tries else 0), 0]
    ++ (f.body b).version ++ [0] ++ leBytes 4 (f.body b).length

/-- FW_INFO (R522). -/
def bodyFwInfo (k : Cmd) (c : Chip) : Res :=
  let f := c.firmware
  if k.payload.length != 0 then .badLength c
  else
    let st := if f.bankState false == 2 || f.bankState true == 2 then stUpdateIncomplete else stOK
    .done st noOfs (f.bankRecord false ++ f.bankRecord true ++ [BitVec.ofNat 8 f.reason, 0, 0, 0]) c

/-- The image of 4 096 bytes or more that a buffer holds verifies (R517, Table 17.6). -/
def firmwareImageOk (b : List Byte) : Bool :=
  let len := fld b 8 4
  fld b 0 4 == 0x5746554A && decide (4096 ≤ len) && decide (len ≤ 4194304) && len % 4 == 0 && decide (len ≤ b.length)
    && slice b 32 32 == sha256 (slice b 64 (len - 128))
    && ecdsaVerify Config.virnaperKey (sha256 (b.take (len - 64))) (slice b (len - 64) 64)

/-- FW_WRITE (R519). -/
def bodyFwWrite (k : Cmd) (c : Chip) : Res :=
  let p := k.payload
  let f := c.firmware
  let bank := k.inst == 1
  let ofs := fld p 0 4
  let data := p.drop 4
  let mine := f.bufferOwner == some (k.ctx, bank)
  let other := match f.bufferOwner with
    | some o => o.1 != k.ctx
    | none => false
  if p.length < 5 then .badLength c
  else if 4194304 < ofs + data.length || (ofs != 0 && !other && !(mine && ofs == f.buffer.length)) then .badParam 0 c
  else if f.running == some bank || other || f.commit.isSome then .err stBusy noOfs c
  else .ok (c.setFw (fun f => { f with
    buffer := (if ofs == 0 then [] else f.buffer) ++ data, bufferOwner := some (k.ctx, bank) }))

/-- Write the pointer (R518): a pointer that changes goes into the older of its two copies, under the next sequence number. -/
def FirmwareSt.writePtr (p : BankPtr) (f : FirmwareSt) : FirmwareSt :=
  if p == f.ptr then f else { f with ptrOld := f.ptr, ptr := { p with seq := f.ptr.seq + 1 } }

/-- Flash offset of a bank (Table 1.6). -/
def bankBase (b : Bool) : Nat := if b then 0x400000 else 0

/-- FW_COMMIT: interim ACCEPTED, the buffered image verified, the bank marked INCOMPLETE and erased (R520, steps 1–3). -/
def bodyFwCommit (k : Cmd) (c : Chip) : Res :=
  let p := k.payload
  let f := c.firmware
  let bank := k.inst == 1
  if p.length != 4 then .badLength c
  else if 1 < fld p 0 1 then .badParam 0 c
  else if !zeroAt p 1 3 then .badParam 1 c
  else if f.running == some bank || f.commit.isSome then .err stBusy noOfs c
  else match f.bufferOwner with
    | some (_, b) =>
      if b == bank && firmwareImageOk f.buffer then
        .accepted { c with
          flash := Tbl.dropRange c.flash (bankBase bank) (bankBase bank + 0x400000)
          firmware := ({ f with
            commit := some (k.ctx, k.tag, bank, bit (fld p 0 1) 0 && f.running.isSome) }.writePtr
              (f.ptr.setIncomplete bank true)).setBody bank .erased }
      else .acceptedDone stBadParam noOfs [] c
    | none => .acceptedDone stBadParam noOfs [] c

/-- FW_COMMIT_DONE: the bank has been programmed and read back, with so many mismatches: one repeats, two fail (R520,
steps 4–7). -/
def Chip.fwCommitDone (mismatches : Nat) (c : Chip) : Chip :=
  match c.firmware.commit with
  | none => c
  | some (ctx, tag, bank, trial) =>
    let f := c.firmware
    if mismatches < 2 then
      let len := fld f.buffer 8 4
      let c1 := { c with
        flash := Tbl.setRun dByteFF c.flash (bankBase bank) (f.buffer.take len)
        firmware := ({ f with commit := none, buffer := [], bufferOwner := none }.writePtr
          { f.ptr.setIncomplete bank false with bank := bank, trial := trial, tries := if trial then 3 else 0 }).setBody bank
            (.image true (fld f.buffer 4 3) len) }
      c1.finishTag ctx tag stOK noOfs []
    else
      ((c.setFw (fun f => { f with commit := none })).logFault 6 2).finishTag ctx tag stStoreWriteFail noOfs []

/-- FW_SELECT (R521). -/
def bodyFwSelect (k : Cmd) (c : Chip) : Res :=
  let p := k.payload
  let f := c.firmware
  let bank := k.inst == 1
  if p.length != 4 then .badLength c
  else if 1 < fld p 0 1 then .badParam 0 c
  else if !zeroAt p 1 3 then .badParam 1 c
  else if fld p 0 1 == 0 then
    if f.ptr.bank == bank && f.running == some bank then
      .ok (c.setFw (fun f => f.writePtr { f.ptr with trial := false, tries := 0 }))
    else .badParam 0 c
  else if f.ptr.incomplete bank then .err stUpdateIncomplete noOfs c
  else if !(f.body bank).sound then .badParam 0 c
  else .ok (c.setFw (fun f => f.writePtr { f.ptr with bank := bank, trial := false, tries := 0 }))

/-- NKEY of the identity record (R488). -/
def nKey : Nat := Config.keyCount.toNat + 1

/-- The key digests of the identity record, 32 bytes each. -/
def keyDigests : List (List Byte) := (List.range nKey).map (fun i => (leBytes 32 (Config.keyDigest i).toNat).reverse)

/-- IDENTITY_READ (R488). -/
def bodyIdentityRead (k : Cmd) (c : Chip) : Res :=
  if k.payload.length != 0 then .badLength c
  else .okWith (leBytes 8 c.fuses.uid ++ [BitVec.ofNat 8 c.fuses.variant, BitVec.ofNat 8 silicon]
    ++ leBytes 2 Config.mfgDay.toNat ++ leBytes 8 Config.lot.toNat ++ [BitVec.ofNat 8 nKey, 0, 0, 0]
    ++ keyDigests.flatten) c

/-! ### Meanings -/

/-- FW_INFO (R522). -/
def execFwInfo (ctx tag : Nat) (s : State) : Host.Outcome State Fault Refusal :=
  .next { s with chip := s.chip.runCmd 0xC 0 bodyFwInfo ctx tag }

/-- FW_WRITE (R519). -/
def execFwWrite (ctx tag : Nat) (s : State) : Host.Outcome State Fault Refusal :=
  .next { s with chip := s.chip.runCmd 0xC 1 bodyFwWrite ctx tag }

/-- FW_COMMIT (R520). -/
def execFwCommit (ctx tag : Nat) (s : State) : Host.Outcome State Fault Refusal :=
  .next { s with chip := s.chip.runCmd 0xC 2 bodyFwCommit ctx tag }

/-- FW_COMMIT_DONE (R520). -/
def execFwCommitDone (mismatches : Nat) (s : State) : Host.Outcome State Fault Refusal :=
  .next { s with chip := s.chip.fwCommitDone mismatches }

/-- FW_SELECT (R521). -/
def execFwSelect (ctx tag : Nat) (s : State) : Host.Outcome State Fault Refusal :=
  .next { s with chip := s.chip.runCmd 0xC 3 bodyFwSelect ctx tag }

/-- IDENTITY_READ (R488). -/
def execIdentityRead (ctx tag : Nat) (s : State) : Host.Outcome State Fault Refusal :=
  .next { s with chip := s.chip.runCmd 0xC 6 bodyIdentityRead ctx tag }

end Sys2Proof.Machine
end

