-- ==== Sys2Proof/Machine/Flock.lean ====
section
/-! DEFINITION. The Flock's links, fabric time, streams and remote sessions (spec/11_flock_fabric.md, R327–R377). -/

namespace Sys2Proof.Machine

/-! ### Link states (R331–R335) -/

/-- Does the module run its links: main side up, reference running, link present? -/
def Chip.linkRuns (c : Chip) (n : Nat) : Bool := c.power.main.up && c.clk.refRun && linkPresent c.fuses.variant n

/-- A frame arrives on a link. -/
def Chip.rxCount (n : Nat) (c : Chip) : Chip := c.setLink n { c.link n with received := (c.link n).received + 1 }

/-- This module's identity as IDENT carries it (R334). -/
def Chip.ownIdent (c : Chip) (refuses : Bool) : IdentBody :=
  ⟨c.fuses.uid, c.fabric.addr, c.attrN tyDevice 0 0x901, c.fabric.bwUid, c.fabric.generation, refuses⟩

/-- The least version this end accepts (R333). -/
def Chip.minVer (c : Chip) (n : Nat) : Nat := if bit (c.linkCfg n) 12 then 1 else 2

def Chip.sendVersion (n : Nat) (c : Chip) : Chip := c.sendMsg n (.version (c.minVer n) 2)

/-- A link leaves its state for one of Table 11.5, telling a reason of Table 11.15. -/
def Chip.linkMove (n : Nat) (p : LinkPhase) (reason : Option Nat) (c : Chip) : Chip :=
  let s := c.link n
  let wasUp := s.phase == LinkPhase.up
  let up := if wasUp then s.upBefore + (c.clk.now - s.upAt) else s.upBefore
  let downs := if p == LinkPhase.down && s.phase != LinkPhase.down then s.downs + 1 else s.downs
  let s1 : LinkSt := { s with phase := p, upBefore := up, downs := downs, stepDue := none, resendAt := none,
                              renegAt := none, peerTime := none }
  let c1 := (c.setLink n s1).setFabric (fun f => { f with
    acks := if wasUp then f.acks.filter (fun e => e.1 != n) else f.acks })
  match reason with
  | some r => c1.fire (80 + 2 * n) (c1.linkCause n r)
  | none => c1

/-- What a link knows of its neighbour goes. -/
def Chip.forgetPeer (n : Nat) (c : Chip) : Chip :=
  c.setLink n { c.link n with ver := 0, lvl := 0, iso := 0, peerUid := 0, peerNode := none, peerPrio := 0 }

/-- After a change of the UP links: the module's LSA is flooded and the fabric converges (R342, R348). -/
def Chip.linksChanged (c : Chip) : Chip := c.floodOwn.converge

/-- Where a CTRL frame is routed to. -/
def LinkMsg.dst : LinkMsg → Option Nat
  | .subscribe d _ => some d
  | .accept d _ => some d
  | .refuse d _ _ => some d
  | .unsubscribe d _ => some d
  | _ => none

/-- A frame that waited for an egress whose link has gone (Table 11.14): class 0 is discarded and counted; the routed frames of
the other classes go to their new next hop, or are discarded where no path exists; link-local and flooded ones end. -/
def Chip.rerouteMsg (n : Nat) (m : LinkMsg) (c : Chip) : Chip :=
  match m with
  | .frame f aborted =>
    if frameCls f == 0 then c.discard n
    else match c.nextHop (frameDst f) with
      | some h => c.egress h f aborted
      | none => c.discard n
  | m => match m.dst with
    | none => c
    | some d => match c.nextHop d with
      | some h => c.sendMsg h m
      | none => c.discard n

/-- A link that was UP is UP no more: what is on its line is lost, the fabric converges, and what waited goes elsewhere. -/
def Chip.leftUp (n : Nat) (c : Chip) : Chip :=
  let s := c.link n
  (s.unsent c.clk.now).foldl (fun c m => c.rerouteMsg n m) (c.setLink n (s.cutLine c.clk.now)).linksChanged

/-- A link leaves for a state in which it has no neighbour. -/
def Chip.linkLeave (n : Nat) (p : LinkPhase) (reason : Option Nat) (c : Chip) : Chip :=
  let wasUp := (c.link n).phase == LinkPhase.up
  let c1 := (c.linkMove n p reason).forgetPeer n
  if wasUp then c1.leftUp n else c1.setLink n ((c1.link n).cutLine c.clk.now)

/-- Step 1 of Table 11.6: TRAINING, with its time limit (R332). -/
def Chip.train (n : Nat) (c : Chip) : Chip :=
  let c1 := (c.linkMove n .training none).forgetPeer n
  c1.setLink n { c1.link n with stepDue := some (c.clk.now + (if isT1L n then sec 4 else ms 10)) }

/-- TRAINING where a neighbour's signal is present. -/
def Chip.trainIfSignal (n : Nat) (c : Chip) : Chip := if (c.link n).signal then c.train n else c

/-- LINK_SIGNAL_DETECTED (R332 step 1). -/
def Chip.signalDetected (n : Nat) (c : Chip) : Chip :=
  if !c.linkRuns n then c
  else
    let c1 := c.setLink n { c.link n with signal := true }
    if (c1.link n).phase == LinkPhase.down then c1.train n else c1

/-- PHY_LINK_ESTABLISHED (R332 step 2): NEGOTIATING, at a level that this end allows. -/
def Chip.phyUp (n level : Nat) (c : Chip) : Chip :=
  let want := bits (c.linkCfg n) 1 2
  let ok := !isT1L n || ((level == 1 || level == 2) && (want == 0 || want == level))
  if !c.linkRuns n || (c.link n).phase != LinkPhase.training || !ok then c
  else
    let c1 := c.linkMove n .negotiating none
    (c1.setLink n { c1.link n with
      lvl := if isT1L n then level else 3, stepDue := some (c.clk.now + ms 100), resendAt := some (c.clk.now + ms 10) }).sendVersion n

/-- TRAINING_TIMEOUT: a step is not reached in time (R332). -/
def Chip.trainingTimeout (n : Nat) (c : Chip) : Chip :=
  match (c.link n).stepDue with
  | some d => if c.linkRuns n then (c.waitUntil d).train n else c
  | none => c

/-- A link is ISOLATED (R333, R334). -/
def Chip.isolate (n iso : Nat) (c : Chip) : Chip :=
  let was := (c.link n).phase
  let again := was == LinkPhase.isolated && (c.link n).iso == iso
  let s := c.link n
  let c1 := (c.setLink n { s with iso := iso }).linkMove n .isolated (if again then none else some 3)
  let c2 := c1.setLink n { c1.link n with renegAt := some (c.clk.now + sec 10) }
  if was == LinkPhase.up then c2.leftUp n else c2

/-- VERSION (R333). -/
def Chip.versionRow (n minV maxV : Nat) (c : Chip) : Chip :=
  let p := (c.link n).phase
  if !c.linkRuns n || !(p == .negotiating || p == .isolated) then c
  else
    let c1 := c.rxCount n
    let agreed := min maxV 2
    if max minV (c.minVer n) ≤ agreed then
      let c2 := if p == .isolated then c1.sendVersion n else c1
      let c3 := c2.linkMove n .identifying none
      (c3.setLink n { c3.link n with
        ver := agreed, iso := 0, stepDue := some (c.clk.now + ms 100), resendAt := some (c.clk.now + ms 10) }).sendMsg n
        (.ident (c3.ownIdent false))
    else c1.isolate n (if agreed == 1 && c.minVer n == 2 then 2 else 1)

/-- Why an identity is refused, if it is (R334). -/
def Chip.identRefused (c : Chip) (n : Nat) (b : IdentBody) : Option Nat :=
  if b.uid == c.fuses.uid then some 4
  else if bit (c.linkCfg n) 3 && b.uid != c.attrN tyLink n 3 then some 3
  else none

/-- Keep what an IDENT says of the neighbour. -/
def Chip.notePeer (n : Nat) (b : IdentBody) (c : Chip) : Chip :=
  (c.setLink n { c.link n with peerUid := b.uid, peerNode := b.node, peerPrio := b.bwPrio }).setFabric (fun f =>
    { f with highest := max f.highest b.generation })

/-- Both identities are accepted: the link is UP (R332 step 4). -/
def Chip.linkComesUp (n : Nat) (c : Chip) : Chip :=
  let c1 := c.linkMove n .up none
  let s : LinkSt := { c1.link n with iso := 0, upAt := c.clk.now, helloRx := c.clk.now, helloTx := c.clk.now,
                                     timeTx := c.clk.now }
  let c2 := c1.setLink n s
  let c3 := c2.fire (80 + 2 * n) (c2.linkCause n 0)
  (c3.fabric.lsas.foldl (fun c e => c.sendLsa e.2.body n) c3).linksChanged

/-- IDENT (R334, R335). -/
def Chip.identRow (n : Nat) (b : IdentBody) (c : Chip) : Chip :=
  let s := c.link n
  if !c.linkRuns n then c
  else match s.phase with
    | .identifying =>
      let c1 := (c.rxCount n).notePeer n b
      match c.identRefused n b with
      | some r => (c1.sendMsg n (.ident (c1.ownIdent true))).isolate n r
      | none => if b.refusesUs then c1.isolate n 5 else c1.linkComesUp n
    | .up =>
      let c1 := c.rxCount n
      if b.uid != s.peerUid then (c1.linkLeave n .down (some 6)).train n
      else if b.refusesUs then c1.isolate n 5
      else c1.notePeer n b
    | _ => c

/-- LINK_FRAME_RESEND: VERSION or IDENT every 10 ms until answered (R332). -/
def Chip.resendLink (n : Nat) (c : Chip) : Chip :=
  match (c.link n).resendAt with
  | none => c
  | some d =>
    if !c.linkRuns n then c
    else
      let c1 := c.waitUntil d
      let c2 := c1.setLink n { c1.link n with resendAt := some (c1.clk.now + ms 10) }
      if (c2.link n).phase == LinkPhase.identifying then c2.sendMsg n (.ident (c2.ownIdent false)) else c2.sendVersion n

/-- An ISOLATED link repeats its negotiation (R334). -/
def Chip.renegotiate (n : Nat) (c : Chip) : Chip :=
  if (c.link n).phase == LinkPhase.isolated then
    (c.setLink n { c.link n with renegAt := some (c.clk.now + sec 10) }).sendVersion n
  else c

/-- ISOLATED_RENEGOTIATE (R334). -/
def Chip.isolatedRow (n : Nat) (c : Chip) : Chip :=
  match (c.link n).renegAt with
  | some d => if c.linkRuns n then (c.waitUntil d).renegotiate n else c
  | none => c

/-- HELLO (R335). -/
def Chip.helloRow (n : Nat) (c : Chip) : Chip :=
  if c.linkRuns n && c.linkUp n then
    let c1 := c.rxCount n
    c1.setLink n { c1.link n with helloRx := c.clk.now }
  else c

/-- HELLO_SEND: every 10 ms on an UP link (R335). -/
def Chip.helloSendRow (n : Nat) (c : Chip) : Chip :=
  if c.linkRuns n && c.linkUp n then
    let c1 := c.waitUntil (c.link n).helloTx
    (c1.setLink n { c1.link n with helloTx := c1.clk.now + ms 10 }).sendMsg n .hello
  else c

/-- HELLO_TIMEOUT: 30 ms after the last HELLO (R335). -/
def Chip.helloTimeoutRow (n : Nat) (c : Chip) : Chip :=
  if c.linkRuns n && c.linkUp n then (c.waitUntil ((c.link n).helloRx + ms 30)).linkLeave n .down (some 2) else c

/-- PHY_LINK_LOSS: link status or alignment lost (R335). -/
def Chip.phyLoss (n : Nat) (c : Chip) : Chip :=
  if !c.linkRuns n then c
  else
    let p := (c.link n).phase
    let c1 := c.setLink n { c.link n with signal := false }
    if p == LinkPhase.disabled || p == LinkPhase.down then c1 else c1.linkLeave n .down (some 1)

/-- A commit of a LINK object takes effect (R330, R334, R371): `old` and `oldPeer` are LINK_CFG and PEER_UID before it. -/
def Chip.linkCommitted (n old oldPeer : Nat) (c : Chip) : Chip :=
  let cfg := c.linkCfg n
  let p := (c.link n).phase
  if !bit cfg 0 then (if p == LinkPhase.disabled then c else c.linkLeave n .disabled (some 4))
  else if p == LinkPhase.disabled then (c.linkMove n .down none).trainIfSignal n
  else if p == LinkPhase.isolated then c.renegotiate n
  else if p == LinkPhase.up then
    if bits old 1 2 != bits cfg 1 2 then (c.linkLeave n .training none).train n
    else if bit old 3 != bit cfg 3 || oldPeer != c.attrN tyLink n 3 then
      let c1 := c.linkMove n .identifying none
      let c2 := c1.setLink n { c1.link n with stepDue := some (c.clk.now + ms 100), resendAt := some (c.clk.now + ms 10) }
      (c2.leftUp n).sendMsg n (.ident (c2.ownIdent false))
    else if bits old 4 8 != bits cfg 4 8 then c.linksChanged
    else c
  else c

/-- Every link goes DOWN: the reference has stopped (R28, R371). -/
def Chip.linksDown (c : Chip) : Chip :=
  (List.range 6).foldl (fun c n =>
    if linkPresent c.fuses.variant n && (c.link n).phase != LinkPhase.disabled && (c.link n).phase != LinkPhase.down then
      c.linkLeave n .down (some 1)
    else c) c

/-- The fabric at boot (R343, R346): the persisted address is used at once, and the module is the bellwether of a fabric of
one until a link is UP. -/
def Chip.startFabric (c : Chip) : Chip :=
  (c.setFabric (fun f => { f with addr := f.persisted, confirmed := false, lsaDue := c.clk.now + sec 30 })).converge

/-! ### RX queues (R341) -/

/-- A frame for this module passes through the arrival link's RX queue, or is dropped where that is full (Tables 3.7,
11.15): says whether it was taken. -/
def Chip.rxPass (n cls : Nat) (body : List Byte) (c : Chip) : Bool × Chip :=
  let q := 18 + 4 * n + (if cls == 0 then 0 else 1)
  if (c.queue q).hasRoom (entriesFor (c.queue q).eshift body.length) then
    let c1 := c.deliver q cls body (BitVec.ofNat 32 (c.linkCause n 7))
    (true, c1.setQueue q { c1.queue q with head := (c1.queue q).tail })
  else (false, (((c.arrive q cls body 0).discard n).noteError n 3).fireLinkError n 3)

/-- Run `f` on a frame for this module that arrives on an UP link and finds room in its RX queue. -/
def Chip.onFrame (n cls : Nat) (body : List Byte) (f : Chip → Chip) (c : Chip) : Chip :=
  if c.linkRuns n && c.linkUp n then
    let r := (c.rxCount n).rxPass n cls body
    if r.1 then f r.2 else r.2
  else c

/-! ### LSAs and addresses (R342–R346) -/

/-- Take a newer LSA, and flood it on (R342). -/
def Chip.takeLsa (n : Nat) (b : LsaBody) (c : Chip) : Chip :=
  let held := Tbl.get dNone (c.fabric.lsas.map (fun e => (e.1, some e.2.body.seq))) b.uid
  if b.uid == c.fuses.uid then
    if c.fabric.ownSeq < b.seq then (c.setFabric (fun f => { f with ownSeq := b.seq })).floodOwn else c
  else if (match held with | some s => decide (b.seq ≤ s) | none => false) then c
  else if held.isNone && 1023 ≤ c.fabric.lsas.length then c.logFault 1 (b.uid % 4294967296)
  else
    let c1 := c.setFabric (fun f => { f with lsas := Tbl.insert f.lsas b.uid ⟨b, c.clk.now + sec 90⟩ })
    ((c1.upLinks.filter (· != n)).foldl (fun c m => c.sendLsa b m) c1).converge

/-- LSA (R342): an acknowledgement, or an advertisement, which is acknowledged. -/
def Chip.lsaRow (n : Nat) (ack : Bool) (b : LsaBody) (c : Chip) : Chip :=
  c.onFrame n 1 [] (fun c =>
    if ack then c.setFabric (fun f => { f with acks := f.acks.filter (fun e => !(e.1 == n && e.2.1 == b.uid)) })
    else (c.sendMsg n (.lsa true b)).takeLsa n b)

/-- LSA_REFRESH: every 30 s (R342). -/
def Chip.lsaRefreshRow (c : Chip) : Chip :=
  if c.power.main.up && c.clk.refRun && hasFlock c.fuses.variant then (c.waitUntil c.fabric.lsaDue).floodOwn else c

/-- LSA_RESEND: every 20 ms until acknowledged (R342). -/
def Chip.lsaResendRow (n uid : Nat) (c : Chip) : Chip :=
  match c.fabric.acks.find? (fun e => e.1 == n && e.2.1 == uid) with
  | none => c
  | some (_, _, d) =>
    if !(c.linkRuns n && c.linkUp n) then c
    else
      let c1 := c.waitUntil d
      match lsaOf c1.topology uid with
      | some b => c1.sendLsa b n
      | none => c1.setFabric (fun f => { f with acks := f.acks.filter (fun e => !(e.1 == n && e.2.1 == uid)) })

/-- LSA_AGEOUT: 90 s without a refresh (R342). -/
def Chip.lsaAgeoutRow (uid : Nat) (c : Chip) : Chip :=
  match c.fabric.lsas.find? (fun e => e.1 == uid) with
  | none => c
  | some (_, h) =>
    if !c.power.main.up then c
    else ((c.waitUntil h.ages).setFabric (fun f => { f with lsas := Tbl.erase f.lsas uid })).converge

/-- ADDR_REQ (R344): the bellwether grants; another node floods the request on. -/
def Chip.addrReqRow (n uid : Nat) (requested persisted : Option Nat) (c : Chip) : Chip :=
  c.onFrame n 1 [] (fun c =>
    if c.fabric.bwUid == c.fuses.uid then
      (c.setFabric (fun f => { f with requests := Tbl.set dNone f.requests uid requested })).grantTo uid requested persisted
    else c.flood (some n) (.addrReq uid requested persisted))

/-- ADDR_GRANT (R344–R346). -/
def Chip.addrGrantRow (n uid a : Nat) (c : Chip) : Chip :=
  c.onFrame n 1 [] (fun c =>
    if uid == c.fuses.uid then (c.takeAddr a).converge else c.flood (some n) (.addrGrant uid a))

/-- ADDRESS_PERSIST_DONE (R346). -/
def Chip.persistRow (c : Chip) : Chip :=
  if c.fabric.persistDue && c.power.main.up then
    c.setFabric (fun f => { f with
      persisted := f.addr, persistDue := false, persistedOld := f.persisted, persistSeq := f.persistSeq + 1 })
  else c

/-! ### Transit frames (R338–R340, R349, R350) and corrupt ones (R337) -/

/-- Is a frame's header whole: HCRC, and a type that is not reserved (R337)? -/
def headerOk (f : List Byte) : Bool := crc8 (f.take 7) == fld f 7 1 && frameType f != 6 && frameType f != 7

/-- CORRUPT_FRAME (R337, R340): discarded and counted; FCS and HCRC errors count toward ERR_THRESH. -/
def Chip.corruptRow (n : Nat) (k : CorruptKind) (c : Chip) : Chip :=
  let p := (c.link n).phase
  if !c.linkRuns n || p == .disabled || p == .down || p == .training then c
  else
    let s := (c.discard n).link n
    match k with
    | .hcrc => (c.setLink n { s with hcrcErr := s.hcrcErr + 1 }).crcError n 1
    | .reservedType => c.setLink n s
    | .fcs => (c.setLink n { s with fcsErr := s.fcsErr + 1 }).crcError n 0

/-- An FCS error on an arriving frame. -/
def Chip.fcsError (n : Nat) (c : Chip) : Chip :=
  (c.setLink n { c.link n with fcsErr := (c.link n).fcsErr + 1 }).crcError n 0

/-- Is a class-0 frame forwarded cut-through from link `n` to link `m`: are both of version 2 (R333, R340; log entry 85)? -/
def Chip.cutThrough (c : Chip) (n m : Nat) : Bool := (c.link n).ver == 2 && (c.link m).ver == 2

/-- A frame whose FCS fails counts so wherever it goes. -/
def Chip.checkFcs (n : Nat) (fcsOk : Bool) (c : Chip) : Chip := if fcsOk then c else c.fcsError n

/-- A transit frame goes out toward its next hop, or is discarded: for want of a path, or stored whole with a bad FCS (R340). -/
def Chip.forwardTo (n : Nat) (f : List Byte) (fcsOk : Bool) (hop : Option Nat) (c : Chip) : Chip :=
  match hop with
  | none => c.discard n
  | some m =>
    if fcsOk || (frameCls f == 0 && c.cutThrough n m) then c.egress m (reframe f (frameCls f) (frameTtl f - 1)) (!fcsOk)
    else c.discard n

/-- Where a transit frame goes: nowhere from TTL 0, or where its type is link-local (R337, R338). -/
def Chip.transitHop (c : Chip) (f : List Byte) : Option Nat :=
  if frameType f == 2 || frameType f == 4 || frameTtl f == 0 then none else c.nextHop (frameDst f)

/-- FRAME_FORWARD: a frame for another node (R338–R340). -/
def Chip.forwardRow (n : Nat) (f : List Byte) (fcsOk : Bool) (c : Chip) : Chip :=
  if !(c.linkRuns n && c.linkUp n) || f.length < 12 then c
  else if !headerOk f then
    c.corruptRow n (if crc8 (f.take 7) == fld f 7 1 then .reservedType else .hcrc)
  else if c.fabric.addr == some (frameDst f) || bit (fld f 0 8) 43 then c
  else
    let c1 := c.rxCount n
    (c1.forwardTo n f fcsOk (c1.transitHop f)).checkFcs n fcsOk

/-! ### Fabric time (R354–R360) -/

/-- Fabric time in ns. -/
def Chip.fabricNs (c : Chip) : Int := (c.clk.fabUs * 1000 + c.clk.fabAcc / 40000000 : Nat)

/-- Step fabric time. -/
def Chip.stepFabric (ns : Int) (c : Chip) : Chip :=
  let t := ((c.clk.fabUs * usUnits + c.clk.fabAcc : Nat) + ns * 40000000 : Int).toNat
  { c with clk := { c.clk with fabUs := t / usUnits, fabAcc := t % usUnits } }

def Chip.setRate (ppb : Int) (c : Chip) : Chip := { c with clk := { c.clk with fabRate := ppb } }

/-- BELLWETHER_STEER: at an RTC second (R355). -/
def Chip.steerRow (c : Chip) : Chip :=
  if !c.power.main.up || c.follower then c
  else
    let c1 := if c.rtc.presc == 0 then c else c.waitTotal ((c.rtc.count.toNat + 1) * 32768)
    let err : Int := ((c1.rtc.count.toNat * 1000000000 + c1.rtc.presc * 1000000000 / 32768 : Nat) : Int) - c1.fabricNs
    if err.natAbs ≤ 1000000 then c1.setRate (clampI (-100000) 100000 err)
    else (c1.stepFabric err).setFabric (fun f => { f with steps := f.steps + 1 })

/-- TIME_SEND: every 125 ms on an UP link (R356). -/
def Chip.timeSendRow (n : Nat) (c : Chip) : Chip :=
  if !(c.linkRuns n && c.linkUp n) then c
  else
    let c1 := c.waitUntil (c.link n).timeTx
    let f := c1.fabric
    let self := !c1.follower
    let b : TimeBody :=
      ⟨f.bwUid, f.generation, f.steps, f.timeSeq, if self then 0 else f.dist.getD 17, if self then !c1.rtc.valid else f.unset,
        f.holdover, c1.fabricNs.toNat⟩
    let c2 := ((c1.setLink n { c1.link n with timeTx := c1.clk.now + ms 125 }).sendMsg n (.time b)).setFabric (fun f =>
      { f with timeSeq := f.timeSeq + 1 })
    if self then c2.fanBeat else c2

/-- The neighbour that qualifies as upstream: the lowest DIST heard in the last second, then the lower link (R356, R358). -/
def Chip.pickUpstream (c : Chip) : Option (Nat × Nat) :=
  c.upLinks.foldl (fun best n => match (c.link n).peerTime with
    | some (b, t) =>
      if 15 < b.dist || t + sec 1 ≤ c.clk.now then best
      else match best with
        | some (_, d) => if b.dist < d then some (n, b.dist) else best
        | none => some (n, b.dist)
    | none => best) none

/-- Runs of small and large offsets, and LOCKED (R357). -/
def lockRuns (f : FabricSt) (offset : Int) : FabricSt :=
  let small := decide (offset.natAbs ≤ 2000)
  let good := if small then f.good + 1 else 0
  let bad := if small then 0 else f.bad + 1
  { f with good := good, bad := bad, locked := if 8 ≤ good then true else if 4 ≤ bad then false else f.locked, offset := offset }

/-- A TIME frame from the upstream (R357). -/
def Chip.followTime (n : Nat) (b : TimeBody) (c : Chip) : Chip :=
  let offset : Int := (b.origin : Int) + (c.link n).delay - c.fabricNs
  let key := (b.steps, b.generation)
  let step := decide (1000000 < offset.natAbs) || c.fabric.followed != some key
  let c1 := if step then c.stepFabric offset else c.setRate (clampI (-200000) 200000 (offset * 8))
  c1.setFabric (fun f => lockRuns { f with
    upstream := some n, dist := some (b.dist + 1), lastTime := c.clk.now, followed := some key, steps := b.steps,
    generation := b.generation, unset := b.unset, holdover := false,
    fanSeq := if f.generation == b.generation then f.fanSeq else none } offset)

/-- A bellwether's message restarts the fan watchdog (R246, R360). -/
def Chip.countFan (b : TimeBody) (c : Chip) : Chip :=
  let newer := match c.fabric.fanSeq with
    | some s => decide (s < b.seq)
    | none => true
  if b.generation == c.fabric.generation && newer then
    (c.setFabric (fun f => { f with fanSeq := some b.seq })).fanBeat
  else c

/-- TIME (R356–R358, R360). -/
def Chip.timeRow (n : Nat) (b : TimeBody) (c : Chip) : Chip :=
  if !(c.linkRuns n && c.linkUp n) then c
  else
    let c1 := c.rxCount n
    let c2 := (c1.setLink n { c1.link n with peerTime := some (b, c.clk.now) }).setFabric (fun f =>
      { f with highest := max f.highest b.generation })
    let c3 := if c2.follower && (c2.pickUpstream).map (·.1) == some n then c2.followTime n b else c2
    c3.countFan b

/-- PDELAY (R356): the exchange that each link makes every second, one frame sent and one received, has given the delay. -/
def Chip.pdelayRow (n ns : Nat) (c : Chip) : Chip :=
  if c.linkRuns n && c.linkUp n then
    let c1 := (c.rxCount n).sendMsg n .pdelay
    c1.setLink n { c1.link n with delay := ns }
  else c

/-- UPSTREAM_TIMEOUT: 1 s without a TIME frame from the upstream (R358). -/
def Chip.upstreamRow (c : Chip) : Chip :=
  if !c.power.main.up || !c.follower || c.fabric.upstream.isNone then c
  else
    let c1 := c.waitUntil (c.fabric.lastTime + sec 1)
    match c1.pickUpstream with
    | some (n, d) => c1.setFabric (fun f => { f with upstream := some n, dist := some (d + 1), lastTime := c1.clk.now })
    | none => c1.setFabric (fun f => { f with upstream := none, holdover := true })

/-- FOLLOWER_RTC_CHECK (R359). -/
def Chip.followerRow (c : Chip) : Chip :=
  if !c.power.main.up || !c.follower || !c.fabric.locked || c.fabric.unset then c
  else
    let err : Int := ((c.rtc.count.toNat * 1000000000 + c.rtc.presc * 1000000000 / 32768 : Nat) : Int) - c.fabricNs
    if !c.fabric.firstLock || 2000000 < err.natAbs then
      let s := (c.clk.fabUs + 999999) / 1000000
      let c1 := c.waitUntil (c.clk.now + c.fabricWait (s * 1000000))
      (c1.commitTime s).setFabric (fun f => { f with firstLock := true })
    else c

/-! ### Streams (R361–R367) -/

/-- Send a CTRL frame toward a node, where a path exists. -/
def Chip.sendCtrl (node : Nat) (m : LinkMsg) (c : Chip) : Chip :=
  match c.nextHop node with
  | some n => c.sendMsg n m
  | none => c

/-- STR_CFG and its fields (Table 11.11). -/
def Chip.strCfg (c : Chip) (i : Nat) : Nat := c.attrN tyStream i 1

def Chip.isHostStream (c : Chip) (i : Nat) : Bool := bits (c.strCfg i) 0 2 == 1

def Chip.srcNode (c : Chip) (i : Nat) : Nat := bits (c.attrN tyStream i 2) 0 10

/-- The write counts of a stream's mapped slots. -/
def Chip.mapWrites (c : Chip) (i : Nat) : List Nat := (c.streamMap i).map (fun e => Tbl.get dZero c.slotWrites e.1)

/-- Send SUBSCRIBE, or read UNREACHABLE (R364). -/
def Chip.subscribeTry (i : Nat) (c : Chip) : Chip :=
  let s := c.stream i
  let cfg := c.strCfg i
  if c.reaches (c.srcNode i) then
    let rate := if bits cfg 2 2 == 0 then c.attrN tyRoute (bits cfg 8 8) 2 else 0
    let b : SubscribeBody := ⟨c.fabric.addr.getD 0, i, bits cfg 2 2, bits cfg 16 16, (c.streamMap i).map (·.1), rate⟩
    (c.setStream i { s with
      state := if s.state == 2 then 2 else 1, timer := some (c.clk.now + sec 1) }).sendCtrl (c.srcNode i) (.subscribe (c.srcNode i) b)
  else c.setStream i { s with state := 4, timer := some (c.clk.now + sec 1) }

/-- Open a stream from a context (R363, R364, R367). -/
def Chip.openStream (i : Nat) (ctx : Option Nat) (c : Chip) : Chip :=
  let s : StreamSt := { c.stream i with reason := 0, lastSeq := none, closing := [], hostCtx := none }
  if c.isHostStream i then
    c.setStream i { s with state := 2, hostCtx := ctx, seq := 0, missed := 0, seen := c.mapWrites i, timer := none }
  else (c.setStream i { s with state := 0 }).subscribeTry i

/-- Complete the STREAM_CLOSE commands that wait for a stream. -/
def Chip.endCloses (ks : List (Nat × Nat)) (c : Chip) : Chip := ks.foldl (fun c k => c.finishTag k.1 k.2 stOK noOfs []) c

/-- Close an open stream of a kind: an IMPORT sends UNSUBSCRIBE to its source (R363). -/
def Chip.shutStream (i : Nat) (host : Bool) (src : Nat) (c : Chip) : Chip :=
  let s := c.stream i
  let c1 := c.setStream i { s with state := 0, reason := 0, timer := none, hostCtx := none, closing := [] }
  (if host then c1 else c1.sendCtrl src (.unsubscribe src i)).endCloses s.closing

/-- Close a stream (R363). -/
def Chip.closeStream (i : Nat) (c : Chip) : Chip :=
  if (c.stream i).state == 0 then c else c.shutStream i (c.isHostStream i) (c.srcNode i)

/-- STREAM_OPEN (R363). -/
def bodyStreamOpen (k : Cmd) (c : Chip) : Res :=
  if k.payload.length != 0 then .badLength c
  else if (c.stream k.inst).state != 0 then .ok c
  else .ok (c.openStream k.inst (some k.ctx))

/-- The mapped slots written since the last record, with their places. -/
def Chip.changedImages (c : Chip) (i : Nat) : List Nat :=
  let s := c.stream i
  let m := c.streamMap i
  (List.range m.length).filter (fun j => Tbl.get dZero c.slotWrites (m.getD j (0, 0)).1 != s.seen.getD j 0)

/-- The packet of a HOST stream record (R367, Table 11.13). -/
def Chip.hostRecord (c : Chip) (i : Nat) : List Byte :=
  let s := c.stream i
  let ver := (c.session (s.hostCtx.getD 0)).ver
  let m := c.streamMap i
  let imgs := (c.changedImages i).map (fun j => slotBytes (c.readSlot (m.getD j (0, 0)).1))
  packet (ver / 256) (ver % 256) 2 0 0xFFFF (handle tyStream i) (bits (c.strCfg i) 2 2 + 0x10) 0xFF
    (statusBlock stOK noOfs ++ leBytes 2 i ++ leBytes 2 s.seq.toNat ++ leBytes 2 (min 0xFFFF s.missed)
      ++ leBytes 2 imgs.length ++ imgs.flatten)

/-- Write a record to the stream's context, or count it LOST (R367). -/
def Chip.writeHostRecord (i : Nat) (c : Chip) : Chip :=
  let s := c.stream i
  let ctx := s.hostCtx.getD 0
  let p := c.hostRecord i
  let n := (c.changedImages i).length
  let next := some (c.clk.now + ms (bits (c.strCfg i) 16 16))
  if isRemoteCtx ctx || c.canReserve ctx (entriesFor (c.queue (completionQueue ctx)).eshift p.length) then
    let s1 : StreamSt := { s with seq := s.seq + 1, missed := 0, count := s.count + BitVec.ofNat 32 n, seen := c.mapWrites i,
                                  timer := next }
    let c1 := c.setStream i s1
    if isRemoteCtx ctx then c1.sendRemote ctx (bits (c.strCfg i) 2 2) p
    else c1.deliver (completionQueue ctx) (bits (c.strCfg i) 2 2) p 0
  else
    let c1 := c.setStream i { s with lost := s.lost + 1, missed := s.missed + 1, timer := next }
    c1.setQueue (completionQueue ctx) { c1.queue (completionQueue ctx) with loss := true }

/-- HOST_STREAM_RECORD (R367), and the STREAM_CLOSE that waits for the last record (R363). -/
def Chip.hostStreamRow (i : Nat) (c : Chip) : Chip :=
  let s := c.stream i
  if !c.power.main.up || !c.isHostStream i || s.state != 2 || (c.changedImages i).isEmpty then c
  else
    let c1 := match s.timer with
      | some d => c.waitUntil d
      | none => c
    let c2 := c1.writeHostRecord i
    if !s.closing.isEmpty && (c2.changedImages i).isEmpty then c2.closeStream i else c2

/-- STREAM_CLOSE (R363). -/
def bodyStreamClose (k : Cmd) (c : Chip) : Res :=
  let i := k.inst
  if k.payload.length != 0 then .badLength c
  else if c.isHostStream i && (c.stream i).state == 2 && !(c.changedImages i).isEmpty then
    .waiting (c.setStream i { c.stream i with closing := (c.stream i).closing ++ [(k.ctx, k.tag)] })
  else .ok (c.closeStream i)

/-- A commit that changes an open stream closes it and opens it again (R363): `c0` is the module before the commit.  A stream
that becomes a HOST stream has no context to be opened from, and stays closed. -/
def Chip.streamCommitted (i : Nat) (c0 c : Chip) : Chip :=
  let s := c0.stream i
  if s.state == 0 then c
  else
    let c1 := c.shutStream i (c0.isHostStream i) (c0.srcNode i)
    if c.isHostStream i && s.hostCtx.isNone then c1 else c1.openStream i s.hostCtx

/-- SUBSCRIBE_RETRY: an unanswered SUBSCRIBE, an unreachable source, a refusal, or a renewal (R364). -/
def Chip.subscribeRetryRow (i : Nat) (c : Chip) : Chip :=
  let s := c.stream i
  match s.timer with
  | none => c
  | some d => if !c.power.main.up || c.isHostStream i || s.state == 0 then c else (c.waitUntil d).subscribeTry i

/-- ACCEPT (R364). -/
def Chip.acceptRow (src i : Nat) (c : Chip) : Chip :=
  let s := c.stream i
  if !c.power.main.up || c.isHostStream i || s.state == 0 || c.srcNode i != src then c
  else c.setStream i { s with state := 2, reason := 0, timer := some (c.clk.now + sec 1) }

/-- REFUSE (R364). -/
def Chip.refuseRow (src i reason : Nat) (c : Chip) : Chip :=
  let s := c.stream i
  if !c.power.main.up || c.isHostStream i || s.state == 0 || c.srcNode i != src then c
  else c.setStream i { s with state := 3, reason := reason, timer := some (c.clk.now + sec 10) }

/-- The subscription of an importer's stream. -/
def Chip.findSub (c : Chip) (node stream : Nat) : Option Subscription :=
  c.fabric.subs.find? (fun s => s.node == node && s.stream == stream)

def Chip.dropSub (node stream : Nat) (c : Chip) : Chip :=
  c.setFabric (fun f => { f with subs := f.subs.filter (fun s => !(s.node == node && s.stream == stream)) })

def Chip.setSub (s : Subscription) (c : Chip) : Chip :=
  c.setFabric (fun f => { f with subs := f.subs.map (fun x => if x.node == s.node && x.stream == s.stream then s else x) })

/-- Why the source refuses a subscription, if it does (R364). -/
def Chip.subRefused (c : Chip) (b : SubscribeBody) : Option Nat :=
  let others := c.fabric.subs.filter (fun s => !(s.node == b.src && s.stream == b.stream))
  let hop := c.nextHop b.src
  let rates := ((others.filter (fun s => s.cls == 0 && c.nextHop s.node == hop)).map (·.rate)).sum
  if 1024 < (others.map (fun s => s.sids.length)).sum + b.sids.length then some 1
  else if b.cls == 0 && (match hop with
      | some n => decide (c.attrN tyLink n 2 < rates + b.rate)
      | none => false) then some 2
  else none

/-- What a new subscription has yet to send of a slot: the image of a VALID one; of another, what is written from now on. -/
def Chip.exportedAlready (c : Chip) (sid : Nat) : Option Nat :=
  if hasQ (c.slot sid).quality qVALID then none else some (Tbl.get dZero c.slotWrites sid)

/-- SUBSCRIBE: a renewal, or a subscription that is accepted or refused (R364). -/
def Chip.subscribeRow (n : Nat) (b : SubscribeBody) (c : Chip) : Chip :=
  c.onFrame n 1 [] (fun c =>
    let same := match c.findSub b.src b.stream with
      | some s => s.cls == b.cls && s.interval == b.interval && s.sids == b.sids && s.rate == b.rate
      | none => false
    if same then
      match c.findSub b.src b.stream with
      | some s => (c.setSub { s with renewed := c.clk.now }).sendCtrl b.src (.accept b.src b.stream)
      | none => c
    else match c.subRefused b with
      | some r => (c.dropSub b.src b.stream).sendCtrl b.src (.refuse b.src b.stream r)
      | none =>
        let s : Subscription :=
          { node := b.src, stream := b.stream, cls := b.cls, interval := b.interval, rate := b.rate, sids := b.sids,
            seen := b.sids.map c.exportedAlready, seq := 0, renewed := c.clk.now, bucket := 120000000, bucketAt := c.clk.now,
            lastSent := none }
        ((c.dropSub b.src b.stream).setFabric (fun f => { f with subs := f.subs ++ [s] })).sendCtrl b.src
          (.accept b.src b.stream))

/-- UNSUBSCRIBE (R363). -/
def Chip.unsubscribeRow (src i : Nat) (c : Chip) : Chip := if c.power.main.up then c.dropSub src i else c

/-- SUBSCRIPTION_DROP: not renewed for 3 s (R364). -/
def Chip.subDropRow (node i : Nat) (c : Chip) : Chip :=
  match c.findSub node i with
  | some s => if c.power.main.up then (c.waitUntil (s.renewed + sec 3)).dropSub node i else c
  | none => c

/-- The places in a subscription of the slots whose newest image has not been sent. -/
def Chip.pendingImages (c : Chip) (s : Subscription) : List Nat :=
  (List.range s.sids.length).filter (fun j => s.seen.getD j none != some (Tbl.get dZero c.slotWrites (s.sids.getD j 0)))

/-- One record of a SIGNAL frame (Table 11.12). -/
def Chip.signalRecord (c : Chip) (sid : Nat) : List Byte :=
  let s := c.slot sid
  leBytes 2 sid ++ leBytes 2 s.quality.toNat ++ leBytes 4 s.value.toNat ++ leBytes 4 s.stamp.toNat

/-- When a subscription's next frame may leave: a token of its bucket, or INTERVAL after the last frame (R365). -/
def Chip.exportAt (c : Chip) (s : Subscription) : Nat :=
  if s.cls == 0 then
    let level := bucketLevel s.bucket s.bucketAt s.rate c.clk.now
    if 40000000 ≤ level then c.clk.now else c.clk.now + ceilDiv (40000000 - level) s.rate
  else match s.lastSent with
    | some t => t + ms s.interval
    | none => c.clk.now

/-- EXPORT_FRAME (R365). -/
def Chip.exportRow (node i : Nat) (c : Chip) : Chip :=
  match c.findSub node i with
  | none => c
  | some s =>
    if !c.power.main.up || (c.pendingImages s).isEmpty || !c.reaches node then c
    else
      let c1 := c.waitUntil (c.exportAt s)
      match c1.nextHop node, c1.fabric.addr with
      | some n, some a =>
        let js := (c1.pendingImages s).take (if s.cls == 0 then 4 else 32)
        let payload := leBytes 2 i ++ leBytes 2 s.seq.toNat ++ (js.map (fun j => c1.signalRecord (s.sids.getD j 0))).flatten
        let level := bucketLevel s.bucket s.bucketAt s.rate c1.clk.now
        let seen := (List.range s.sids.length).map (fun j =>
          if js.contains j then some (Tbl.get dZero c1.slotWrites (s.sids.getD j 0)) else s.seen.getD j none)
        let s1 : Subscription :=
          { s with seq := s.seq + 1, lastSent := some c1.clk.now, bucket := if s.cls == 0 then level - 40000000 else level,
                   bucketAt := c1.clk.now, seen := seen }
        (c1.setSub s1).egress n (flockFrame 0 s.cls 16 node a payload) false
      | _, _ => c1

/-- Is a STAMP older than a VALID slot's present one, within 2^31 µs (R366)? -/
def olderThan (s : Slot) (stamp : Word) : Bool :=
  hasQ s.quality qVALID && stamp != s.stamp && decide (0x80000000 ≤ (stamp - s.stamp).toNat)

/-- Write one record of a SIGNAL frame, or discard it: one whose SID is not in the MAP is counted (R366). -/
def Chip.takeRecord (n i : Nat) (r : List Byte) (c : Chip) : Chip :=
  match (c.streamMap i).find? (fun e => e.1 == fld r 0 2 % 4096) with
  | none => c.discard n
  | some (_, dst) =>
    let stamp := BitVec.ofNat 32 (fld r 8 4)
    if olderThan (c.slot dst) stamp then c
    else
      let q := (BitVec.ofNat 16 (fld r 2 2) &&& 0x3FD) ||| qREMOTE
      let c1 := c.produce dst (BitVec.ofNat 32 (fld r 4 4)) stamp q (producerOf 6 i)
      c1.setStream i { c1.stream i with count := (c1.stream i).count + 1 }

/-- Frames missed since the last one of a stream, by SEQ. -/
def missedFrames (last : Option Half) (seq : Half) : Nat :=
  match last with
  | some l => let d := (seq - l).toNat; if 0 < d && d < 0x8000 then d - 1 else 0
  | none => 0

/-- SIGNAL (R366): a frame for this module. -/
def Chip.signalRow (n src cls : Nat) (p : List Byte) (c : Chip) : Chip :=
  if !(c.linkRuns n && c.linkUp n) then c
  else
    let i := fld p 0 2
    let c1 := c.rxCount n
    let s := c1.stream i
    let recs := (List.range ((p.length - 4) / 12)).map (fun k => slice p (4 + 12 * k) 12)
    if !decide (i < 256) || s.state == 0 || c1.isHostStream i || c1.srcNode i != src then
      recs.foldl (fun c _ => c.discard n) c1
    else
      let late := bits (c1.strCfg i) 2 2 == 0 && cls != 0
      let c2 := if late then c1.setLink n { c1.link n with c0Arrived := (c1.link n).c0Arrived + 1 } else c1
      let seq := BitVec.ofNat 16 (fld p 2 2)
      let c3 := c2.setStream i { s with lost := s.lost + missedFrames s.lastSeq seq, lastSeq := some seq }
      recs.foldl (fun c r => c.takeRecord n i r) c3

/-! ### SIGNAL commands (R368) -/

/-- SIGNAL_READ. -/
def bodySignalRead (k : Cmd) (c : Chip) : Res :=
  if k.payload.length != 0 then .badLength c
  else .okWith (slotBytes (c.readSlot (bits k.hnd 0 12))) c

/-- SIGNAL_FORCE: the slot's PRODUCER stays. -/
def Chip.forceSlot (sid : Nat) (v : Word) (c : Chip) : Chip :=
  ({ c with overrides := Tbl.modify dOverride c.overrides sid (fun o => { o with forced := true }) }).writeSlot sid v c.stamp (qVALID ||| qFORCED)
    (c.slot sid).producer

def bodySignalForce (k : Cmd) (c : Chip) : Res :=
  if k.payload.length != 8 then .badLength c
  else if !zeroAt k.payload 4 4 then .badParam 4 c
  else .ok (c.forceSlot (bits k.hnd 0 12) (BitVec.ofNat 32 (fld k.payload 0 4)))

/-- SIGNAL_RELEASE: the forced contents stay until the producer's next write. -/
def bodySignalRelease (k : Cmd) (c : Chip) : Res :=
  let sid := bits k.hnd 0 12
  if k.payload.length != 0 then .badLength c
  else .ok { c with overrides := Tbl.modify dOverride c.overrides sid (fun o => { o with forced := false }) }

/-! ### Remote sessions (R369, R370) -/

/-- A reply packet comes back to the context that a TOKEN names: a bound context's completion queue, or a relayed command. -/
def Chip.replyArrives (src token : Nat) (p : List Byte) (c : Chip) : Chip :=
  let tag := fld p 4 2
  let st := fld p 16 1
  if 0xFF00 ≤ token then c.finishTag (token - 0xFF00) tag st (fld p 18 2) (p.drop 20)
  else if c.boundNode token != some src then c
  else
    let q := completionQueue token
    match c.findCmd token tag with
    | some k =>
      let c1 := if st == stAccepted then c.setCmd { k with reserved := k.reserved - entriesFor (c.queue q).eshift 20 }
        else c.dropCmd token tag
      let c2 := c1.deliver q (fld p 12 1 % 4) p 0
      if k.family == 0 && k.opcode == 0 && st == stOK then
        let ss : Session := ⟨true, protoVer (fld p 20 1) (fld p 21 1), min (fld p 28 2) (c2.queue token).depth⟩
        { c2 with sessions := Tbl.set dSession c2.sessions token ss }
      else if k.family == 0 && k.opcode ≤ 1 && st != stAccepted then c2.endSession token
      else c2
    | none =>
      if c.canReserve token (entriesFor (c.queue q).eshift p.length) then c.deliver q (fld p 12 1 % 4) p 0
      else c.setQueue q { c.queue q with loss := true }

/-- The context of a source node and TOKEN. -/
def Chip.remoteCtx (c : Chip) (src token : Nat) : Option Nat :=
  (c.fabric.remotes.find? (fun e => e.2 == some (src, token))).map (·.1)

/-- A context 0x10–0x1F that no open session, command or waiting packet uses. -/
def Chip.freeRemote (c : Chip) : Option Nat :=
  ((List.range 16).map (· + 16)).find? (fun x =>
    (Tbl.get dNone c.fabric.remotes x).isNone
      || (!(c.session x).opened && (c.outstanding x).isEmpty && (Tbl.get dNil c.remoteIn x).isEmpty))

/-- A command packet joins those that wait on a remote context. -/
def Chip.pushRemote (ctx : Nat) (p : List Byte) (c : Chip) : Chip :=
  { c with remoteIn := Tbl.modify dNil c.remoteIn ctx (· ++ [p]) }

/-- Give a source node and TOKEN a context; a relayed command is served as from a host-side context, with no session of its
own to open (R368). -/
def Chip.mapRemote (ctx src token ver : Nat) (c : Chip) : Chip :=
  let c1 := (c.setFabric (fun f => { f with remotes := Tbl.set dNone f.remotes ctx (some (src, token)) })).notePath src
  if 0xFF00 ≤ token then { c1 with sessions := Tbl.set dSession c1.sessions ctx ⟨true, ver, 0xFFFF⟩ } else c1

/-- A reply to a packet that no context takes. -/
def refusalPacket (p : List Byte) (st errofs : Nat) : List Byte :=
  packet (fld p 0 1) (fld p 1 1) (fld p 2 1) (fld p 3 1) (fld p 4 2) (fld p 8 4) (fld p 12 1 % 4 + 0x10) (fld p 13 1)
    (statusBlock st errofs)

/-- A command packet of a remote session arrives. -/
def Chip.commandArrives (src token : Nat) (p : List Byte) (c : Chip) : Chip :=
  match c.remoteCtx src token with
  | some ctx => c.pushRemote ctx p
  | none =>
    match c.freeRemote with
    | some ctx => (c.mapRemote ctx src token (protoVer (fld p 0 1) (fld p 1 1))).pushRemote ctx p
    | none =>
      let isOpen := fld p 2 2 == 0
      c.sendPhiveox src (fld p 12 1 % 4) (phiveoxPayload token
        (refusalPacket p (if isOpen then stNoResource else stBadOpcode) (if isOpen then noOfs else 2)))

/-- PHIVEOX (R369, R370). -/
def Chip.phiveoxRow (n src token cls : Nat) (p : List Byte) (c : Chip) : Chip :=
  c.onFrame n cls (phiveoxPayload token p) (fun c =>
    if bit (fld p 12 1) 4 then c.replyArrives src token p else c.commandArrives src token p)

/-! ### Flock commands (R372–R376) -/

/-- Whole seconds that a link has been UP since reset. -/
def Chip.secondsUp (c : Chip) (n : Nat) : Nat :=
  let s := c.link n
  (s.upBefore + (if s.phase == LinkPhase.up then c.clk.now - s.upAt else 0)) / sec 1

/-- LINK_STATUS (R372). -/
def bodyLinkStatus (k : Cmd) (c : Chip) : Res :=
  let s := c.link k.inst
  if k.payload.length != 0 then .badLength c
  else .okWith (leBytes 4 (c.linkStat k.inst) ++ leBytes 8 s.peerUid ++ leBytes 4 s.sent.toNat ++ leBytes 4 s.received.toNat
    ++ leBytes 4 s.hcrcErr.toNat ++ leBytes 4 s.fcsErr.toNat ++ leBytes 4 s.discarded.toNat ++ leBytes 4 s.demoted.toNat
    ++ leBytes 4 s.downs.toNat ++ leBytes 4 (c.secondsUp k.inst)) c

/-- LINK_RETRAIN (R373): TRAINING, and Table 11.6 from there. -/
def bodyLinkRetrain (k : Cmd) (c : Chip) : Res :=
  let n := k.inst
  if k.payload.length != 0 then .badLength c
  else if (c.link n).retrain.isSome then .err stBusy noOfs c
  else
    let p := (c.link n).phase
    let c1 := if p == LinkPhase.disabled || !c.clk.refRun then c
      else (c.linkLeave n .training (if p == LinkPhase.up then some 1 else none)).train n
    .accepted (c1.setLink n { c1.link n with retrain := some (k.ctx, k.tag, c.clk.now + sec 10) })

/-- LINK_RETRAIN_DONE: the link is UP or ISOLATED, or 10 s have passed (R373). -/
def Chip.retrainDone (n : Nat) (c : Chip) : Chip :=
  match (c.link n).retrain with
  | none => c
  | some (ctx, tag, d) =>
    let p := (c.link n).phase
    let c1 := if p == LinkPhase.up || p == LinkPhase.isolated then c else c.waitUntil d
    (c1.setLink n { c1.link n with retrain := none }).finishTag ctx tag stOK noOfs (leBytes 4 (c1.linkStat n))

/-- An ABORT of LINK_RETRAIN: link down, bring-up restarted (Table 2.14). -/
def Chip.retrainAbort (n : Nat) (c : Chip) : Chip :=
  let c1 := c.setLink n { c.link n with retrain := none }
  let p := (c1.link n).phase
  if p == LinkPhase.disabled || p == LinkPhase.down then c1 else (c1.linkLeave n .down (some 1)).trainIfSignal n

/-- One entry of TOPOLOGY_READ (R374). -/
def Chip.topologyEntry (c : Chip) (ps : Tbl FabPath) (b : LsaBody) : List Byte :=
  let self := b.uid == c.fuses.uid
  let hops := match pathTo ps b.uid with
    | some p => p.links.length
    | none => 0xFF
  leBytes 8 b.uid ++ leBytes 2 (b.node.getD 0xFFFF) ++ [BitVec.ofNat 8 hops, BitVec.ofNat 8 b.bwPrio,
    BitVec.ofNat 8 b.links.length, BitVec.ofNat 8 (b2n (b.uid == c.fabric.bwUid) + 2 * b2n self), 0, 0]

/-- TOPOLOGY_READ (R374). -/
def bodyTopologyRead (k : Cmd) (c : Chip) : Res :=
  if k.payload.length != 4 then .badLength c
  else if !zeroAt k.payload 2 2 then .badParam 2 c
  else
    let ps := c.paths
    let all := c.topology.map (·.2)
    let part := (all.drop (fld k.payload 0 2)).take 64
    .okWith (leBytes 2 all.length ++ leBytes 2 part.length ++ (part.map (c.topologyEntry ps)).flatten) c

/-- ROUTE_STATUS (R374). -/
def bodyRouteStatus (k : Cmd) (c : Chip) : Res :=
  if k.payload.length != 0 then .badLength c
  else .okWith (leBytes 4 (c.rtStatus k.inst) ++ leBytes 4 (c.rtBound k.inst) ++ c.rtPath k.inst) c

/-- BELLWETHER_STATUS (R375). -/
def bodyBellwetherStatus (k : Cmd) (c : Chip) : Res :=
  let f := c.fabric
  let self := !c.follower
  let lsa := lsaOf c.topology f.bwUid
  let node := if self then (if f.confirmed then f.addr else none) else lsa.bind (·.node)
  let unset := if self then !c.rtc.valid else f.unset
  if k.payload.length != 0 then .badLength c
  else .okWith (leBytes 8 f.bwUid ++ leBytes 2 (node.getD 0xFFFF)
    ++ [BitVec.ofNat 8 ((lsa.map (·.bwPrio)).getD 0),
        BitVec.ofNat 8 (b2n self + 2 * b2n unset + 4 * b2n (!self && f.locked) + 8 * b2n f.holdover),
        BitVec.ofNat 8 (if self then 0 else f.dist.getD 0xFF), 0, 0, 0]
    ++ leBytes 4 f.generation ++ leBytes 8 c.clk.fabUs ++ leBytes 4 (unsigned 32 f.offset)
    ++ leBytes 2 (if f.confirmed then f.addr.getD 0xFFFF else 0xFFFF) ++ [0, 0]) c

/-- POLICE_COUNTERS (R376). -/
def bodyPoliceCounters (k : Cmd) (c : Chip) : Res :=
  let s := c.link k.inst
  if k.payload.length != 4 then .badLength c
  else if 1 < fld k.payload 0 1 then .badParam 0 c
  else if !zeroAt k.payload 1 3 then .badParam 1 c
  else .okWith (leBytes 2 (c.attrN tyLink k.inst 2) ++ [0, 0] ++ leBytes 4 s.c0Sent.toNat ++ leBytes 4 s.c0Demoted.toNat
      ++ leBytes 4 s.c0Arrived.toNat)
    (if fld k.payload 0 1 == 1 then c.setLink k.inst { s with c0Sent := 0, c0Demoted := 0, c0Arrived := 0 } else c)

/-! ### Meanings -/

/-- LINK_SIGNAL_DETECTED (R332). -/
def execLinkSignalDetected (link : Nat) (s : State) : Host.Outcome State Fault Refusal :=
  .next { s with chip := s.chip.signalDetected link }

/-- PHY_LINK_ESTABLISHED (R332). -/
def execPhyLinkEstablished (link level : Nat) (s : State) : Host.Outcome State Fault Refusal :=
  .next { s with chip := s.chip.phyUp link level }

/-- TRAINING_TIMEOUT (R332). -/
def execTrainingTimeout (link : Nat) (s : State) : Host.Outcome State Fault Refusal :=
  .next { s with chip := s.chip.trainingTimeout link }

/-- VERSION (R333). -/
def execVersion (link minVer maxVer : Nat) (s : State) : Host.Outcome State Fault Refusal :=
  .next { s with chip := s.chip.versionRow link minVer maxVer }

/-- IDENT (R334, R335). -/
def execIdent (link : Nat) (body : IdentBody) (s : State) : Host.Outcome State Fault Refusal :=
  .next { s with chip := s.chip.identRow link body }

/-- LINK_FRAME_RESEND (R332). -/
def execLinkFrameResend (link : Nat) (s : State) : Host.Outcome State Fault Refusal :=
  .next { s with chip := s.chip.resendLink link }

/-- ISOLATED_RENEGOTIATE (R334). -/
def execIsolatedRenegotiate (link : Nat) (s : State) : Host.Outcome State Fault Refusal :=
  .next { s with chip := s.chip.isolatedRow link }

/-- HELLO (R335). -/
def execHello (link : Nat) (s : State) : Host.Outcome State Fault Refusal :=
  .next { s with chip := s.chip.helloRow link }

/-- HELLO_SEND (R335). -/
def execHelloSend (link : Nat) (s : State) : Host.Outcome State Fault Refusal :=
  .next { s with chip := s.chip.helloSendRow link }

/-- HELLO_TIMEOUT (R335). -/
def execHelloTimeout (link : Nat) (s : State) : Host.Outcome State Fault Refusal :=
  .next { s with chip := s.chip.helloTimeoutRow link }

/-- PHY_LINK_LOSS (R335). -/
def execPhyLinkLoss (link : Nat) (s : State) : Host.Outcome State Fault Refusal :=
  .next { s with chip := s.chip.phyLoss link }

/-- LSA (R342). -/
def execLsa (link : Nat) (ack : Bool) (body : LsaBody) (s : State) : Host.Outcome State Fault Refusal :=
  .next { s with chip := s.chip.lsaRow link ack body }

/-- LSA_REFRESH (R342). -/
def execLsaRefresh (s : State) : Host.Outcome State Fault Refusal :=
  .next { s with chip := s.chip.lsaRefreshRow }

/-- LSA_RESEND (R342). -/
def execLsaResend (link uid : Nat) (s : State) : Host.Outcome State Fault Refusal :=
  .next { s with chip := s.chip.lsaResendRow link uid }

/-- LSA_AGEOUT (R342). -/
def execLsaAgeout (uid : Nat) (s : State) : Host.Outcome State Fault Refusal :=
  .next { s with chip := s.chip.lsaAgeoutRow uid }

/-- ADDR_REQ (R344). -/
def execAddrReq (link uid : Nat) (requested persisted : Option Nat) (s : State) : Host.Outcome State Fault Refusal :=
  .next { s with chip := s.chip.addrReqRow link uid requested persisted }

/-- ADDR_GRANT (R344–R346). -/
def execAddrGrant (link uid addr : Nat) (s : State) : Host.Outcome State Fault Refusal :=
  .next { s with chip := s.chip.addrGrantRow link uid addr }

/-- ADDRESS_PERSIST_DONE (R346). -/
def execAddressPersistDone (s : State) : Host.Outcome State Fault Refusal :=
  .next { s with chip := s.chip.persistRow }

/-- FRAME_FORWARD (R338–R340). -/
def execFrameForward (link : Nat) (frame : List Byte) (fcsOk : Bool) (s : State) : Host.Outcome State Fault Refusal :=
  .next { s with chip := s.chip.forwardRow link frame fcsOk }

/-- TIME_SEND (R356). -/
def execTimeSend (link : Nat) (s : State) : Host.Outcome State Fault Refusal :=
  .next { s with chip := s.chip.timeSendRow link }

/-- TIME (R357). -/
def execTime (link : Nat) (body : TimeBody) (s : State) : Host.Outcome State Fault Refusal :=
  .next { s with chip := s.chip.timeRow link body }

/-- PDELAY (R356). -/
def execPdelay (link delayNs : Nat) (s : State) : Host.Outcome State Fault Refusal :=
  .next { s with chip := s.chip.pdelayRow link delayNs }

/-- UPSTREAM_TIMEOUT (R358). -/
def execUpstreamTimeout (s : State) : Host.Outcome State Fault Refusal :=
  .next { s with chip := s.chip.upstreamRow }

/-- BELLWETHER_STEER (R355). -/
def execBellwetherSteer (s : State) : Host.Outcome State Fault Refusal :=
  .next { s with chip := s.chip.steerRow }

/-- FOLLOWER_RTC_CHECK (R359). -/
def execFollowerRtcCheck (s : State) : Host.Outcome State Fault Refusal :=
  .next { s with chip := s.chip.followerRow }

/-- SIGNAL (R366). -/
def execSignal (link src cls : Nat) (payload : List Byte) (s : State) : Host.Outcome State Fault Refusal :=
  .next { s with chip := s.chip.signalRow link src cls payload }

/-- EXPORT_FRAME (R365). -/
def execExportFrame (node stream : Nat) (s : State) : Host.Outcome State Fault Refusal :=
  .next { s with chip := s.chip.exportRow node stream }

/-- SUBSCRIBE (R364). -/
def execSubscribe (link : Nat) (body : SubscribeBody) (s : State) : Host.Outcome State Fault Refusal :=
  .next { s with chip := s.chip.subscribeRow link body }

/-- ACCEPT (R364). -/
def execAccept (src stream : Nat) (s : State) : Host.Outcome State Fault Refusal :=
  .next { s with chip := s.chip.acceptRow src stream }

/-- REFUSE (R364). -/
def execRefuse (src stream reason : Nat) (s : State) : Host.Outcome State Fault Refusal :=
  .next { s with chip := s.chip.refuseRow src stream reason }

/-- UNSUBSCRIBE (R363). -/
def execUnsubscribe (src stream : Nat) (s : State) : Host.Outcome State Fault Refusal :=
  .next { s with chip := s.chip.unsubscribeRow src stream }

/-- SUBSCRIBE_RETRY (R364). -/
def execSubscribeRetry (stream : Nat) (s : State) : Host.Outcome State Fault Refusal :=
  .next { s with chip := s.chip.subscribeRetryRow stream }

/-- SUBSCRIPTION_DROP (R364). -/
def execSubscriptionDrop (node stream : Nat) (s : State) : Host.Outcome State Fault Refusal :=
  .next { s with chip := s.chip.subDropRow node stream }

/-- HOST_STREAM_RECORD (R367). -/
def execHostStreamRecord (stream : Nat) (s : State) : Host.Outcome State Fault Refusal :=
  .next { s with chip := s.chip.hostStreamRow stream }

/-- PHIVEOX (R369). -/
def execPhiveox (link src token cls : Nat) (packet : List Byte) (s : State) : Host.Outcome State Fault Refusal :=
  .next { s with chip := s.chip.phiveoxRow link src token cls packet }

/-- CORRUPT_FRAME (R337). -/
def execCorruptFrame (link : Nat) (kind : CorruptKind) (s : State) : Host.Outcome State Fault Refusal :=
  .next { s with chip := s.chip.corruptRow link kind }

/-- LINK_RETRAIN_DONE (R373). -/
def execLinkRetrainDone (link : Nat) (s : State) : Host.Outcome State Fault Refusal :=
  .next { s with chip := s.chip.retrainDone link }

/-- STREAM_OPEN (R363). -/
def execStreamOpen (ctx tag : Nat) (s : State) : Host.Outcome State Fault Refusal :=
  .next { s with chip := s.chip.runCmd 2 0 bodyStreamOpen ctx tag }

/-- STREAM_CLOSE (R363). -/
def execStreamClose (ctx tag : Nat) (s : State) : Host.Outcome State Fault Refusal :=
  .next { s with chip := s.chip.runCmd 2 1 bodyStreamClose ctx tag }

/-- SIGNAL_READ (R368). -/
def execSignalRead (ctx tag : Nat) (s : State) : Host.Outcome State Fault Refusal :=
  .next { s with chip := s.chip.runCmd 2 2 bodySignalRead ctx tag }

/-- SIGNAL_FORCE (R368). -/
def execSignalForce (ctx tag : Nat) (s : State) : Host.Outcome State Fault Refusal :=
  .next { s with chip := s.chip.runCmd 2 3 bodySignalForce ctx tag }

/-- SIGNAL_RELEASE (R368). -/
def execSignalRelease (ctx tag : Nat) (s : State) : Host.Outcome State Fault Refusal :=
  .next { s with chip := s.chip.runCmd 2 4 bodySignalRelease ctx tag }

/-- LINK_STATUS (R372). -/
def execLinkStatus (ctx tag : Nat) (s : State) : Host.Outcome State Fault Refusal :=
  .next { s with chip := s.chip.runCmd 8 0 bodyLinkStatus ctx tag }

/-- LINK_RETRAIN (R373). -/
def execLinkRetrain (ctx tag : Nat) (s : State) : Host.Outcome State Fault Refusal :=
  .next { s with chip := s.chip.runCmd 8 1 bodyLinkRetrain ctx tag }

/-- TOPOLOGY_READ (R374). -/
def execTopologyRead (ctx tag : Nat) (s : State) : Host.Outcome State Fault Refusal :=
  .next { s with chip := s.chip.runCmd 8 2 bodyTopologyRead ctx tag }

/-- ROUTE_STATUS (R374). -/
def execRouteStatus (ctx tag : Nat) (s : State) : Host.Outcome State Fault Refusal :=
  .next { s with chip := s.chip.runCmd 8 3 bodyRouteStatus ctx tag }

/-- BELLWETHER_STATUS (R375). -/
def execBellwetherStatus (ctx tag : Nat) (s : State) : Host.Outcome State Fault Refusal :=
  .next { s with chip := s.chip.runCmd 8 4 bodyBellwetherStatus ctx tag }

/-- POLICE_COUNTERS (R376). -/
def execPoliceCounters (ctx tag : Nat) (s : State) : Host.Outcome State Fault Refusal :=
  .next { s with chip := s.chip.runCmd 8 5 bodyPoliceCounters ctx tag }

end Sys2Proof.Machine
end

