-- ==== Sys2Proof/Machine/FieldChecks.lean ====
section
/-! DEFINITION. What OBJ_COMMIT, OBJ_SET and an image check in the field-side objects (R78, R133–R136, R148–R151, R156–R162,
R192–R203, R218–R219, R235, R240): ports, sequences, PWM groups, bridges and actuator objects.  `t` is the module as it would
stand with every change made. -/

namespace Sys2Proof.Machine

/-- What a check answers: nothing wrong, or a status and the object that FIRST_BAD names (R77, R78). -/
abbrev Verdict := Option (Nat × Nat)

/-- A failed check where `bad` holds. -/
def verdictIf (bad : Bool) (status hnd : Nat) : Verdict := if bad then some (status, hnd) else none

/-- The first check of a list that fails. -/
def firstBad (vs : List Verdict) : Verdict := vs.findSome? id

/-- Does a value lie in a range? -/
def within (lo hi x : Nat) : Bool := decide (lo ≤ x) && decide (x ≤ hi)

/-- Are the reserved bits [14:12] of a slot field 0 (R21)? -/
def slotFieldOk (x : Nat) : Bool := bits x 12 3 == 0

/-- Does a value keep to the bits of a mask? -/
def keeps (mask x : Nat) : Bool := x &&& mask == x

/-- Does an attribute hold its reset value? -/
def Chip.atReset (t : Chip) (ty i a : Nat) : Bool := t.attr ty i a == dAttr t.fuses.variant (attrKey ty i a)

/-- The records of `n` bytes in a value. -/
def chunksOf (n : Nat) (b : List Byte) : List (List Byte) :=
  (List.range (b.length / n)).map (fun i => slice b (n * i) n)

/-- Running sum over a list of keyed amounts: the first key at which it exceeds a limit. -/
def firstAbove (limit : Nat) : Nat → List (Nat × Nat) → Option Nat
  | _, [] => none
  | s, (k, x) :: rest => if limit < s + x then some k else firstAbove limit (s + x) rest

/-! ### Ports -/

/-- The option bits of PORT_CFG that a mode uses (R134, Table 4.5). -/
def modeMask (m cfg : Nat) : Nat :=
  if m == mVin || m == mVinBipolar then 0x20
  else if m == mIin then (if bit cfg 6 then 0x6000040 else 0x40)
  else if m == mRin then 0x1F00
  else if m == mPyro then 0x3E000
  else if m == mDin then 0x3C0000
  else if m == mHbridge then 0x6000000
  else if m == mFan then 0x300080
  else if m == mSbus then 0x1C00000
  else 0

/-- PORT_CFG is valid (R126, R134). -/
def portCfgOk (cfg : Nat) : Bool :=
  let m := bits cfg 0 5
  decide (m ≤ mSbus) && keeps (0x1F + modeMask m cfg) cfg && bits cfg 8 3 != 7 && bits cfg 11 2 != 3
    && decide (bits cfg 13 5 ≤ 16) && bits cfg 18 2 != 3 && bits cfg 20 2 != 3 && bits cfg 23 2 != 3

/-- Does a mode use an attribute (the Modes column of Table 4.4)? -/
def modeUses (m a : Nat) : Bool :=
  if a == 2 || a == 3 then m == mDin || m == mFan
  else if a == 4 || a == 15 then m == mDin
  else if a == 5 || a == 6 then m == mHbridge
  else if a == 7 || a == 8 then m == mRin
  else if a == 9 || a == 10 then m == mCin
  else if a == 11 then m == mPyro
  else if a == 12 || a == 14 then m == mVout || m == mOdout
  else if a == 13 then m == mOdout
  else if a == 16 || a == 17 then m == mSbus
  else true

/-- One entry of SBUS_LIST is valid (Table 4.7). -/
def sbusEntryOk (e : List Byte) : Bool :=
  let op := fld e 1 1
  !bit (fld e 0 1) 7 && within 1 2 (op % 4) && decide (bits op 2 2 ≤ 2) && bits op 6 2 == 0 && within 1 4 (fld e 4 1)
    && bits (fld e 6 2) 12 4 == 0

/-- Ranges of Table 4.4. -/
def portRangeOk (a : Nat) (b : List Byte) : Bool :=
  let x := leNat b
  if a == 2 then within 10 120 x
  else if a == 4 then decide (x ≤ 15)
  else if a == 5 then within 50 750 x
  else if a == 6 then within 250 2000 x && x % 125 == 0
  else if a == 7 then within 1000 100000 x
  else if a == 8 then within 2000 5000 x
  else if a == 10 then within 656 655360 x
  else if a == 12 || a == 13 then slotFieldOk x
  else if a == 15 then bits x 12 3 == 0 && bits x 28 3 == 0
  else if a == 16 then within 10 60000 x
  else if a == 17 then b.length % 16 == 0 && (chunksOf 16 b).all sbusEntryOk
  else true

/-- A port's own attributes are valid (R126, R133, R134). -/
def Chip.portOk (t : Chip) (n : Nat) : Bool :=
  portCfgOk (t.portCfg n) && ((List.range 16).map (· + 2)).all (fun a =>
    if modeUses (t.portMode n) a then portRangeOk a (t.attr tyPort n a) else t.atReset tyPort n a)

/-- The ports in a mode. -/
def Chip.portsIn (t : Chip) (m : Nat) : List Nat := (List.range 32).filter (fun n => t.portMode n == m)

/-- At most one port of each pair is in CIN (Table 4.10). -/
def Chip.cinCheck (t : Chip) : Verdict :=
  match (List.range 16).find? (fun k => t.portMode (2 * k) == mCin && t.portMode (2 * k + 1) == mCin) with
  | some k => some (stNoResource, handle tyPort (2 * k))
  | none => none

/-- PYRO and HBRIDGE share no group (Table 4.10). -/
def Chip.pyroCheck (t : Chip) : Verdict :=
  let bad := fun k => [0, 1, 2, 3].any (fun i => t.portMode (4 * k + i) == mPyro)
    && [0, 1, 2, 3].any (fun i => t.portMode (4 * k + i) == mHbridge)
  match (List.range 8).find? bad with
  | some k =>
    let first := ([0, 1, 2, 3].find? (fun i => t.portMode (4 * k + i) == mPyro || t.portMode (4 * k + i) == mHbridge)).getD 0
    some (stBadParam, handle tyPort (4 * k + first))
  | none => none

/-- At most 8 ports are in SBUS (Table 4.10). -/
def Chip.sbusCheck (t : Chip) : Verdict :=
  (firstAbove 8 0 ((t.portsIn mSbus).map (fun n => (n, 1)))).map (fun n => (stNoResource, handle tyPort n))

/-- The auxiliary rail carries at most 160 mA (Table 4.10). -/
def Chip.auxCheck (t : Chip) : Verdict :=
  (firstAbove 160 0 ((List.range 32).map (fun n => (n,
    if t.portMode n == mVout then 5 else if t.portMode n == mFan && bit (t.portCfg n) 7 then 10 else 0)))).map
    (fun n => (stPowerLimit, handle tyPort n))

/-- A commit does not raise the VACT total above the present limit (R151). -/
def Chip.vactCheck (c t : Chip) : Verdict :=
  if t.vactTotal ≤ c.vactTotal then none
  else (firstAbove (vactLimit c.thermal.step) 0 ((List.range 32).map (fun n =>
    (n, if t.portShed n then 0 else t.vactDraw n)))).map (fun n => (stPowerLimit, handle tyPort n))

/-- The combination rules of Table 4.10 that concern ports alone. -/
def Chip.portCombos (c t : Chip) : Verdict :=
  firstBad [t.cinCheck, t.pyroCheck, t.sbusCheck, t.auxCheck, c.vactCheck t]

/-! ### Sequences (R156, R157, R162) -/

/-- An entry's own fields are valid: Tables 5.3 and 5.4, and the reset values that a non-head entry keeps. -/
def Chip.seqFieldsOk (t : Chip) (e : Nat) : Bool :=
  let w := t.seWord e
  let ctl := t.seqCtl e
  let slice := bits ctl 3 2
  decide (seCh w ≤ 95) && !bit w 15 && bits w 28 4 == 0
    && (if seHead ctl then
      decide (seMode ctl ≤ 2) && (if seMode ctl == 1 then decide (slice ≤ 1) else if seMode ctl == 2 then slice == 0 else true)
        && decide (seTrig ctl ≤ 3) && bits ctl 15 17 == 0 && decide (40 ≤ t.attrN tySeq e 3)
        && decide (t.attrN tySeq e 4 ≤ 4194303)
    else t.atReset tySeq e 2 && t.atReset tySeq e 3 && t.atReset tySeq e 4)

/-- The heads. -/
def Chip.heads (t : Chip) : List Nat := (List.range 128).filter (fun h => seHead (t.seqCtl h))

/-- The object that FIRST_BAD names for an entry: its head, or itself where it belongs to no sequence. -/
def Chip.headOf (t : Chip) (e : Nat) : Nat := (t.heads.find? (fun h => (t.seqEntries h).contains e)).getD e

/-- A sequence ends by SE127, and no head lies inside it (R157). -/
def Chip.sequenceOk (t : Chip) (h : Nat) : Bool :=
  let es := t.seqEntries h
  (match es.getLast? with
    | some e => seLast (t.seWord e)
    | none => false) && (es.drop 1).all (fun e => !seHead (t.seqCtl e))

/-- Shape of every sequence. -/
def Chip.seqShapeCheck (t : Chip) : Verdict :=
  (t.heads.find? (fun h => !t.sequenceOk h)).map (fun h => (stBadParam, handle tySeq h))

/-- Slice load, minimum rates and class-0 settings over the armed and AUTOSTART sequences (R162). -/
def Chip.seqLoadCheck (t : Chip) : Verdict :=
  let hs := t.activeHeads
  let prefixes := (List.range hs.length).map (fun k => hs.take (k + 1))
  firstBad [
    (prefixes.find? (fun p => t.overloaded p)).map (fun p => (stNoResource, handle tySeq (p.getLast?.getD 0))),
    (t.rateMissing hs).map (fun n => (stBadParam, handle tyPort n)),
    (t.heads.find? (fun h => !t.class0Ok h)).map (fun h => (stBadParam, handle tySeq h))]

/-! ### PWM groups and bridges (R192, R196, R198, R201, R203) -/

/-- A group's own fields are valid (Tables 6.1–6.3). -/
def Chip.groupOk (t : Chip) (k : Nat) : Bool :=
  let ctl := t.attrN tyGroup k 1
  bits ctl 0 2 != 3 && bits ctl 2 8 != 0 && bits ctl 20 12 == 0 && within 40 4194303 (t.attrN tyGroup k 2)
    && (if filterVariant t.fuses.variant then within 16 256 (t.attrN tyGroup k 4)
        && decide (4 * t.attrN tyGroup k 4 ≤ t.attrN tyGroup k 2) else t.attrN tyGroup k 4 == 16)
    && [0, 1, 2, 3].all (fun i =>
      let cfg := t.attrN tyGroup k (16 + i)
      bits cfg 8 2 != 3 && bits cfg 12 4 == 0 && bits cfg 28 4 == 0 && bits (t.attrN tyGroup k (20 + i)) 28 3 == 0)

/-- A bridge's own fields are valid (Table 6.6, R201, R203). -/
def Chip.bridgeOk (t : Chip) (n : Nat) : Bool :=
  let trip := t.attrN tyBridge n 3
  within 1 255 (bits trip 0 8) && within 1 255 (bits trip 8 8) && decide (t.attrN tyBridge n 1 ≤ 64000)
    && (if filterVariant t.fuses.variant then t.attrN tyBridge n 2 == 0 else decide (t.attrN tyBridge n 2 ≤ 64000))

/-- An unused channel's settings hold their reset values (R196): the object whose attribute does not. -/
def Chip.unusedCheck (t : Chip) (n : Nat) : Verdict :=
  let k := groupOf n
  let i := n % 4
  if t.channelUsed n then none
  else firstBad [
    verdictIf (!(t.atReset tyGroup k (16 + i) && t.atReset tyGroup k (20 + i) && t.atReset tyGroup k (24 + i))) stBadParam
      (handle tyGroup k),
    verdictIf (!(t.atReset tyBridge n 1 && t.atReset tyBridge n 2 && t.atReset tyBridge n 3)) stBadParam (handle tyBridge n)]

/-- Is an actuator object bound to a port's channel: any but a modulating valve (R198, R218)? -/
def Chip.channelBound (t : Chip) (n : Nat) : Bool :=
  t.damperBound n || t.fanBound n || (t.valveBound n && t.valveKind n != 1)

/-- The carrier range of a port's bound object (R219, Table 7.1). -/
def Chip.carrierRange (t : Chip) (n : Nat) : Nat × Nat :=
  if t.motorBound n then (400, 4000)
  else if t.fanBound n then (400, 40000)
  else if t.valveBound n && t.valveKind n == 0 then (40000, 4194303)
  else if t.valveBound n && t.valveKind n == 2 then (400, 4194303)
  else (0, 4194303)

/-- A used channel agrees with its group (R198), but for R192. -/
def Chip.agrees (t : Chip) (n : Nat) : Bool :=
  let k := groupOf n
  let period := t.attrN tyGroup k 2
  let trip := t.attrN tyBridge n 3
  within (t.carrierRange n).1 (t.carrierRange n).2 period
    && ((bits (t.attrN tyGroup k (16 + n % 4)) 8 2 == 2) == t.channelBound n)
    && decide (bits trip 0 8 ≤ bits trip 8 8)
    && (if filterVariant t.fuses.variant then
        decide (t.attrN tyBridge n 1 < t.attrN tyGroup k 4 * 64) && decide (4 * t.attrN tyGroup k 4 ≤ period)
      else decide (t.attrN tyBridge n 1 + t.attrN tyBridge n 2 ≤ period * 32))

/-- The lowest port that disagrees with its group (R148, R198). -/
def Chip.agreeCheck (t : Chip) : Verdict :=
  ((List.range 32).find? (fun n => t.channelUsed n && !t.agrees n)).map (fun n => (stBadParam, handle tyPort n))

/-- A group that follows another has its PERIOD (R192). -/
def Chip.followCheck (t : Chip) : Verdict :=
  ((List.range (groupCount t.fuses.variant)).find? (fun k =>
    k != 0 && bit (t.attrN tyGroup k 1) 10 && t.attrN tyGroup k 2 != t.attrN tyGroup (k - 1) 2)).map
    (fun k => (stBadParam, handle tyGroup k))

/-- The checks over groups, bridges and ports together. -/
def Chip.pwmCombos (t : Chip) : Verdict :=
  firstBad ((List.range 32).map t.unusedCheck ++ [t.agreeCheck, t.followCheck])

/-! ### Actuator objects (R218, R234, R235, R240) -/

/-- The ripple-detector settings of a bound motor: attributes `base` to `base + 6` from CPS_NOM on. -/
def Chip.detectorOk (t : Chip) (ty n base : Nat) (bound : Bool) : Bool :=
  let x := fun i => t.attrN ty n (base + i)
  let fmin := bits (x 1) 0 16
  let fmax := bits (x 1) 16 16
  (!bound || within 1000 10000000 (x 0)) && within 20 5000 fmin && within 20 5000 fmax && decide (fmin < fmax)
    && within 1 50 (x 2) && within 10 500 (x 3) && within 100 1875 (x 4)
    && (!bound || decide (x 4 + 125 ≤ t.attrN tyPort n 6)) && within 10 80 (x 5) && within 10 250 (x 6)

/-- A DAMPER's own fields are valid (Tables 7.4, 7.5). -/
def Chip.damperOk (t : Chip) (n : Nat) : Bool :=
  let x := fun a => t.attrN tyDamper n a
  keeps 0x1F (x 1) && t.detectorOk tyDamper n 2 (t.damperBound n) && within 2 100 (x 9) && within 10 600 (x 10)
    && within 50 2000 (x 11) && slotFieldOk (x 12) && slotFieldOk (x 13) && decide (x 14 ≤ 8760)

/-- A FAN's own fields are valid (Table 7.7). -/
def Chip.fanOk (t : Chip) (n : Nat) : Bool :=
  let x := fun a => t.attrN tyFan n a
  keeps 0x1F (x 1) && within 300 30000 (x 2) && within 500 10000 (x 3) && decide (1 ≤ x 4) && slotFieldOk (x 6)
    && slotFieldOk (x 7) && decide (signed 32 (x 8) < signed 32 (x 9)) && slotFieldOk (x 11)

/-- A VALVE's own fields are valid (Table 7.6). -/
def Chip.valveOk (t : Chip) (n : Nat) : Bool :=
  let x := fun a => t.attrN tyValve n a
  let lo := bits (x 6) 0 16
  let hi := bits (x 6) 16 16
  keeps 0x3FF (x 1) && t.valveKind n != 3 && slotFieldOk (x 2) && decide (x 3 ≤ 0x10000) && decide (x 4 ≤ 600)
    && within 10 3600 (x 5) && decide (lo ≤ 10000) && decide (hi ≤ 10000) && lo != hi && within 5 600 (x 7)
    && within 100 5000 (x 8) && within 5 100 (x 9) && slotFieldOk (x 10) && t.detectorOk tyValve n 18 (t.rippleValve n)
    && within 10 600 (x 25) && within 50 2000 (x 26) && decide (x 27 ≤ 8760)

/-- Binding rules at one port (R136, R218): one object at most, the mode it needs, SRC ACTUATOR. -/
def Chip.bindingCheck (t : Chip) (n : Nat) : Verdict :=
  let d := t.damperBound n
  let f := t.fanBound n
  let v := t.valveBound n
  let m := t.portMode n
  let src := bits (t.attrN tyGroup (groupOf n) (16 + n % 4)) 8 2
  let hd := handle tyDamper n
  let hf := handle tyFan n
  let hv := handle tyValve n
  firstBad [
    verdictIf (d && (f || v)) stBadParam hd,
    verdictIf (f && v) stBadParam hf,
    verdictIf (d && (m != mHbridge || src != 2)) stBadParam hd,
    verdictIf (f && (m != mFan || src != 2)) stBadParam hf,
    verdictIf (v && (if t.valveKind n == 1 then m != mVout || t.attrN tyPort n 12 != 0x8000 else m != mHbridge || src != 2)) stBadParam hv]

/-- Binding rules over all ports; at most 16 bound fans (R218). -/
def Chip.actuatorCombos (t : Chip) : Verdict :=
  firstBad ((List.range 32).map t.bindingCheck ++ [
    (firstAbove 16 0 ((List.range 32).map (fun n => (n, b2n (t.fanBound n))))).map (fun n => (stNoResource, handle tyFan n))])

end Sys2Proof.Machine
end

