-- ==== Sys2Proof/Machine/Schedules.lean ====
section
/-! DEFINITION. The Almanac's schedules (spec/10_almanac_clock_and_schedules.md, R320–R326): entries, day types, the governing
entry of a zone, and optimal start. -/

namespace Sys2Proof.Machine

/-! ### Tables (R320, R321) -/

/-- SCH_ENTRY of an entry (Table 10.11). -/
def Chip.schedEntry (c : Chip) (e : Nat) : List Byte := c.attr tySchedule e 1

/-- The entries that exist. -/
def Chip.schedEntries (c : Chip) : List Nat :=
  c.existing.filterMap (fun x => if handleTy x.1 == tySchedule && x.2 then some (handleInst x.1) else none)

def Chip.schedCfg (c : Chip) : Nat := c.attrN tyClock 0 1

def schedPrio (b : List Byte) : Nat := fld b 14 1

/-- Does an entry's zone set contain the zone (Table 10.11)? -/
def Chip.schedCovers (c : Chip) (b : List Byte) (z : Nat) : Bool :=
  if bit (fld b 9 1) 1 then bit (fld (c.attr tyClock 0 4) (8 * (fld b 0 8 % 16)) 8) z else bit (fld b 0 8) z

/-- The exception record that covers day `d`, the lowest-numbered (R322): its KIND. -/
def Chip.exceptionKind (c : Chip) (d : Int) : Option Nat :=
  let t := c.attr tyClock 0 5
  (List.range 64).findSome? (fun i =>
    let r := slice t (8 * i) 8
    let y := fld r 0 2
    let d0 : Int := dateDays y (fld r 2 1) (fld r 3 1)
    if y != 0 && decide (d0 ≤ d) && decide (d < d0 + fld r 4 1) then some (fld r 5 1) else none)

/-- The bit of DAYS that a local day needs (R322). -/
def Chip.dayBit (c : Chip) (d : Int) : Nat :=
  match c.exceptionKind d with
  | some 0 => 7
  | some k => k - 1
  | none => ((d + 5) % 7).toNat

/-! ### Local time -/

/-- The UTC count of a local time in seconds from the epoch (R322): its first occurrence, or the offset change that skips
it. -/
def startUtc (base : Int) (tr : List (Nat × Int)) (l : Int) : Option Nat :=
  let ok := (base :: tr.map Prod.snd).filterMap (fun o =>
    let u := l - 60 * o
    if 0 ≤ u && offsetAt base tr u.toNat == o then some u.toNat else none)
  match ok with
  | u :: us => some (us.foldl min u)
  | [] =>
    let gaps := tr.filter (fun t =>
      decide ((t.1 : Int) + 60 * offsetAt base tr (t.1 - 1) ≤ l) && decide (l < (t.1 : Int) + 60 * t.2))
    gaps.head?.map Prod.fst

/-- The local day of a UTC count. -/
def Chip.localDay (c : Chip) (n : Nat) : Int :=
  ((n : Int) + 60 * offsetAt c.almanac.base c.almanac.transitions n) / 86400

/-- A start of an entry for a zone: nominal start, effective start, entry, PRIO, and whether its day is an exception day. -/
structure Start where
  nominal : Nat
  effective : Nat
  entry : Nat
  prio : Nat
  exception : Bool
  deriving DecidableEq, Repr

/-- The starts of zone `z` on local day `d` (R322, R323). -/
def Chip.startsOn (c : Chip) (z : Nat) (d : Int) : List Start :=
  let db := c.dayBit d
  let ex := (c.exceptionKind d).isSome
  c.schedEntries.filterMap (fun e =>
    let b := c.schedEntry e
    if bit (fld b 9 1) 0 && c.schedCovers b z && bit (fld b 8 1) db then
      (startUtc c.almanac.base c.almanac.transitions (d * 86400 + 60 * fld b 10 2)).map (fun s =>
        let eff := ((Tbl.get dNil c.almanac.early z).find? (fun x => x.1 == e && x.2.1 == s)).elim s (fun x => x.2.2)
        ⟨s, eff, e, schedPrio b, ex⟩)
    else none)

/-- Does a start govern over another: the later, then the higher PRIO, then the lower entry (R323)? -/
def Start.over (a b : Start) : Bool :=
  decide (b.effective < a.effective) || (a.effective == b.effective
    && (decide (b.prio < a.prio) || (a.prio == b.prio && decide (a.entry < b.entry))))

/-- The start that governs over all others of a list. -/
def topStart (l : List Start) : Option Start :=
  l.foldl (fun best s => match best with
    | some b => if s.over b then some s else best
    | none => some s) none

/-- The governing start of a zone at count `n`: the present local date and the seven before it (R323). -/
def Chip.governing (c : Chip) (z n : Nat) : Option Start :=
  if !bit c.schedCfg 0 || !c.rtc.valid then none
  else
    let day := c.localDay n
    topStart (((List.range 8).flatMap (fun i => c.startsOn z (day - (i : Int)))).filter (fun s => decide (s.effective ≤ n)))

/-- The start due next after count `n`, within seven days (R325). -/
def Chip.nextStart (c : Chip) (z n : Nat) : Option Start :=
  if !bit c.schedCfg 0 || !c.rtc.valid then none
  else
    let day := c.localDay n
    let all := ((List.range 9).map (fun i => c.startsOn z (day + (i : Int)))).flatten
    (all.filter (fun s => decide (n < s.nominal) && decide (s.nominal ≤ n + 7 * 86400))).foldl (fun best s =>
      match best with
      | some b =>
        if s.nominal < b.nominal || (s.nominal == b.nominal
          && (b.prio < s.prio || (s.prio == b.prio && s.entry < b.entry))) then some s else best
      | none => some s) none

/-! ### Evaluation (R324) -/

/-- SET and MODE of a zone: its entry's, or the default's. -/
def Chip.setMode (c : Chip) (e : Option Nat) : Nat × Nat :=
  match e with
  | some i => (fld (c.schedEntry i) 12 1, fld (c.schedEntry i) 13 1)
  | none => (bits c.schedCfg 4 4, bits c.schedCfg 8 2)

/-- Field `i` of a setpoint set: 0 HEAT_SP, 1 COOL_SP, 2 FLOW_LIM. -/
def Chip.setpoint (c : Chip) (set i : Nat) : Int := fldI32 (c.attr tyClock 0 2) (16 * set + 4 * i)

/-- The four values of a zone's slots. -/
def Chip.zoneValues (c : Chip) (e : Option Nat) : List Int :=
  let sm := c.setMode e
  [c.setpoint sm.1 0, c.setpoint sm.1 1, c.setpoint sm.1 2, (sm.2 : Int) * 65536]

/-- Base S-ID of a zone's slots (Table 10.12). -/
def Chip.zoneOut (c : Chip) (z : Nat) : Option Nat := sidOf (fld (c.attr tyClock 0 3) (2 * z) 2)

/-- Write a zone's four slots (R324). -/
def Chip.writeZoneOut (z : Nat) (vs : List Int) (c : Chip) : Chip :=
  match c.zoneOut z with
  | none => c
  | some b =>
    let q := if c.rtc.valid then qVALID else qVALID ||| qHELD
    (List.range 4).foldl (fun x i => x.produceNow (b + i) (vs.getD i 0) q 5 z) c

/-- Do a zone's slots lack the values that govern it? -/
def Chip.zoneOutStale (c : Chip) (z : Nat) (vs : List Int) : Bool :=
  match c.zoneOut z with
  | none => false
  | some b => (List.range 4).any (fun i => (Tbl.get dSlot c.produced (b + i)).value != word (vs.getD i 0)
      || !hasQ (Tbl.get dSlot c.produced (b + i)).quality qVALID)

/-- E76's CAUSE word (Table 10.14). -/
def e76 (z : Nat) (e : Option Nat) (reason : Nat) : Nat :=
  z + (match e with
    | some i => 256 * i
    | none => 64) + 2 ^ 18 * reason

/-- Evaluate one zone at count `n`; `why` is 4 or 5 where a change caused the evaluation (R323, R324). -/
def Chip.evaluateZone (n : Nat) (why : Option Nat) (c : Chip) (z : Nat) : Chip :=
  let s := c.governing z n
  let e := s.map Start.entry
  let old := Tbl.get dGovern c.almanac.govern z
  let reason := match s with
    | none => 3
    | some g => why.getD (if g.effective != g.nominal then 1 else if g.exception then 2 else 0)
  let changed := e != old.entry
  let c1 := if changed then
      ({ c with almanac := { c.almanac with
        govern := Tbl.set dGovern c.almanac.govern z ⟨e, reason, n⟩
        last := match e with
          | some i => Tbl.set dZero c.almanac.last i n
          | none => c.almanac.last } }).fire 76 (e76 z e reason)
    else c
  let vs := c1.zoneValues e
  if changed || why.isNone || c1.zoneOutStale z vs then c1.writeZoneOut z vs else c1

/-- Evaluate every zone. -/
def Chip.evaluateZones (n : Nat) (why : Option Nat) (c : Chip) : Chip :=
  (List.range 64).foldl (Chip.evaluateZone n why) c

/-- Let time pass until the count reaches `n`. -/
def Chip.waitCount (n : Nat) (c : Chip) : Chip :=
  c.waitTotal (n * 32768)

/-- SCHEDULE_EVALUATION: the evaluation that a change has made due, or that of the minute boundary (R324). -/
def Chip.scheduleRow (c : Chip) : Chip :=
  if !c.power.main.up then c
  else match c.almanac.evalDue with
    | some why => ({ c with almanac := { c.almanac with evalDue := none } }).evaluateZones c.rtc.count.toNat (some why)
    | none =>
      let c1 := if c.rtc.minuteDue then c else c.waitCount ((c.rtc.count.toNat / 60 + 1) * 60)
      let n := c1.rtc.count.toNat
      (c1.setRtc (fun r => { r with minuteDue := false })).evaluateZones (n - n % 60) none

/-! ### Optimal start (R326) -/

/-- MAXLEAD of an entry, in s. -/
def Chip.maxLead (c : Chip) (e : Nat) : Nat := 300 * fld (c.schedEntry e) 15 1

/-- The first check of a start at or after count `n`, later than `last`: S − MAXLEAD and every 5 min after, up to S. -/
def checkTime (s lead n last : Nat) : Option Nat :=
  let from_ := max (s - lead) (max n (last + 1))
  let t := s - (s - from_) / 300 * 300
  if from_ ≤ s then some t else none

/-- The starts of a zone that optimal start watches at count `n` (R326): entries with MAXLEAD that are due to govern at their
nominal start and have not started early. -/
def Chip.leadStarts (c : Chip) (z n : Nat) : List Start :=
  if !bit c.schedCfg 0 || !c.rtc.valid then []
  else ((List.range 4).flatMap (fun i => c.startsOn z (c.localDay n - 1 + (i : Int)))).filter (fun s =>
    decide (0 < c.maxLead s.entry) && s.effective == s.nominal && decide (n ≤ s.nominal)
      && (c.governing z s.nominal).any (fun g => g.entry == s.entry && g.nominal == s.nominal))

/-- The next check of a zone: the instant and the start it is for, the earliest of those of its starts (R326). -/
def Chip.nextCheck (c : Chip) (z n : Nat) : Option (Nat × Start) :=
  ((c.leadStarts z n).filterMap (fun s =>
    let last := ((Tbl.get dNil c.almanac.lastCheck z).find? (fun x => x.1 == s.entry && x.2.1 == s.nominal)).elim 0 (fun x => x.2.2)
    (checkTime s.nominal (c.maxLead s.entry) n last).map (fun t => (t, s)))).foldl (fun best x => match best with
      | some b => if x.1 < b.1 then some x else best
      | none => some x) none

/-- OPTIMAL_START_CHECK: the next check of a zone (R326). -/
def Chip.optimalCheck (z : Nat) (c : Chip) : Chip :=
  if !c.power.main.up || !c.zoneEn z then c
  else match c.nextCheck z c.rtc.count.toNat with
    | none => c
    | some (t, s) =>
      let c1 := c.waitCount t
      let set := fld (c1.schedEntry s.entry) 12 1
      let x0 := (c1.zone z).x.getD 0 0
      let kept := (Tbl.get dNil c1.almanac.lastCheck z).filter (fun x => decide (t ≤ x.2.1) && !(x.1 == s.entry && x.2.1 == s.nominal))
      let c2 : Chip := { c1 with almanac := { c1.almanac with
        lastCheck := Tbl.set dNil c1.almanac.lastCheck z (kept ++ [(s.entry, s.nominal, t)]) } }
      let heat := decide (x0 < c1.setpoint set 0)
      let cool := !heat && decide (c1.setpoint set 1 < x0)
      if !heat && !cool then c2
      else if 5 < (c2.boostOf z heat).1 then c2
      else { c2 with predictions := c2.predictions ++
        [⟨z, c1.setpoint set (if heat then 0 else 1), heat, c1.maxLead s.entry / 60, none, (s.entry, s.nominal, t)⟩] }

/-- EARLY_START: the lead that the zone's oldest reply gave is at least the time left, or not within the horizon (R326). -/
def Chip.earlyStart (z : Nat) (c : Chip) : Chip :=
  let n := c.rtc.count.toNat
  match (c.zone z).leadReplies with
  | [] => c
  | ((e, s, t), lead) :: rest =>
    let c1 := c.setZone z { c.zone z with leadReplies := rest }
    if lead.all (fun k => decide (s - t ≤ k)) && decide (n < s)
        && (c1.leadStarts z n).any (fun x => x.entry == e && x.nominal == s) then
      let kept := (Tbl.get dNil c1.almanac.early z).filter (fun x => decide (n ≤ x.2.1 + 8 * 86400))
      let c2 : Chip := { c1 with almanac := { c1.almanac with early := Tbl.set dNil c1.almanac.early z (kept ++ [(e, s, n)]) } }
      (List.range 64).foldl (fun x y => if y == z || (x.governing y n).map Start.entry != (Tbl.get dGovern x.almanac.govern y).entry
        then x.evaluateZone n none y else x) c2
    else c1

/-! ### Commands -/

/-- SCHEDULE_STATUS (R325). -/
def bodyScheduleStatus (k : Cmd) (c : Chip) : Res :=
  let z := fld k.payload 0 1
  let g := Tbl.get dGovern c.almanac.govern z
  let next := c.nextStart z c.rtc.count.toNat
  if k.payload.length != 4 then .badLength c
  else if 63 < z then .badParam 0 c
  else if !zeroAt k.payload 1 3 then .badParam 1 c
  else .okWith (leBytes 2 (g.entry.getD 0xFFFF) ++ ([BitVec.ofNat 8 g.reason, 0] : List Byte) ++ leBytes 8 g.since
    ++ leBytes 2 (match next with
      | some s => s.entry
      | none => 0xFFFF) ++ zeros 2
    ++ leBytes 8 (match next with
      | some s => s.nominal
      | none => 0)) c

/-! ### Meanings -/

/-- SCHEDULE_STATUS (R325). -/
def execScheduleStatus (ctx tag : Nat) (s : State) : Host.Outcome State Fault Refusal :=
  .next { s with chip := s.chip.runCmd 7 7 bodyScheduleStatus ctx tag }

/-- SCHEDULE_EVALUATION (R324). -/
def execScheduleEvaluation (s : State) : Host.Outcome State Fault Refusal :=
  .next { s with chip := s.chip.scheduleRow }

/-- OPTIMAL_START_CHECK (R326). -/
def execOptimalStartCheck (zone : Nat) (s : State) : Host.Outcome State Fault Refusal :=
  .next { s with chip := s.chip.optimalCheck zone }

/-- EARLY_START (R326). -/
def execEarlyStart (zone : Nat) (s : State) : Host.Outcome State Fault Refusal :=
  .next { s with chip := s.chip.earlyStart zone }

end Sys2Proof.Machine
end

