-- ==== Sys2Proof/Machine/LogicChecks.lean ====
section
/-! DEFINITION. What OBJ_COMMIT, OBJ_SET and an image check in loops, zones, schedule entries and the CLOCK object (R250–R253,
R262, R268, R276, R279, R320, R321). -/

namespace Sys2Proof.Machine

/-- The instances of a creatable type that exist in the active set (R556). -/
def Chip.existingOf (t : Chip) (ty : Nat) : List Nat :=
  (List.range (instCount ty)).filter (fun i => Tbl.get dFalse t.existing (handle ty i))

/-! ### Loops: nodes and coefficients (R250–R253, Tables 8.3–8.7) -/

/-- Which of a primitive's sources are required (Table 8.5). -/
def srcRequired (op i : Nat) : Bool :=
  i == 0 || (i == 1 && (op == 3 || op == 9 || op == 10))

/-- How many coefficients a node uses, N of a LOOKUP at its CIX. -/
def coefCount (op n : Nat) : Nat :=
  if op == 2 || op == 6 || op == 12 || op == 13 then 1
  else if op == 3 then 6
  else if op == 4 || op == 5 || op == 7 || op == 11 || op == 14 then 2
  else if op == 8 then 1 + 2 * n
  else 0

/-- State words of a node (Table 8.5). -/
def stateWords (op d : Nat) : Nat :=
  if op == 3 then 5
  else if op == 5 || op == 7 || op == 12 then 1
  else if op == 13 then d + 1
  else if op == 14 then 2
  else 0

/-- A source field is valid on node `k`: a NODE below it, a COEF inside the range (R251). -/
def sourceOk (k coefs f : Nat) : Bool :=
  if srcKind f == 1 then decide (srcIndex f < k)
  else if srcKind f == 3 then decide (srcIndex f < coefs)
  else true

/-- Is x strictly increasing over the points of a LOOKUP? -/
def rising (cs : List Nat) (x n : Nat) : Bool :=
  (List.range (n - 1)).all (fun i => decide (coefVal cs (x + 1 + 2 * i) < coefVal cs (x + 3 + 2 * i)))

/-- The constraints of Table 8.7 and the SHIFTs of R253 on a node's coefficients at index `x`. -/
def coefsOk (op : Nat) (cs : List Nat) (x : Nat) : Bool :=
  let v := coefVal cs
  let plain := fun i => coefShift cs (x + i) == 0
  let n := (v x).toNat
  if op == 3 then plain 4 && plain 5 && decide (v (x + 4) < v (x + 5))
  else if op == 4 || op == 5 then plain 0 && plain 1
  else if op == 6 then plain 0
  else if op == 7 then plain 0 && plain 1 && decide (v (x + 1) < v x)
  else if op == 8 then
    decide (2 ≤ v x) && decide (v x ≤ 32) && (List.range (1 + 2 * n)).all plain && rising cs x n
  else if op == 11 then plain 0 && plain 1 && v x != v (x + 1)
  else if op == 12 then decide (0 < v x) && decide (v x ≤ (2 ^ coefShift cs x : Nat))
  else if op == 13 then plain 0 && decide (1 ≤ v x) && decide (v x ≤ 64)
  else if op == 14 then
    plain 0 && plain 1 && keeps 0x3FC (cs.getD x 0 % 2 ^ 32) && decide (1 ≤ v (x + 1)) && decide (v (x + 1) ≤ 255)
  else true

/-- N of a LOOKUP as the coefficient range holds it, at most 33. -/
def lookupN (cs : List Nat) (x : Nat) : Nat := min 33 (coefVal cs x).toNat

/-- An OUT node's destination: a slot, or with GROUP none (R260). -/
def outOk (w : Nat) : Bool := srcKind (nodeSrc w 1) == (if bit (nodeMode w) 0 then 0 else 2)

/-- Node `k` of a loop is valid against one bank (R251, R253). -/
def nodeOk (cs : List Nat) (k w : Nat) : Bool :=
  let op := nodeOp w
  let x := nodeCix w
  within 1 15 op && bits w 60 4 == 0
    && [0, 1, 2].all (fun i => sourceOk k cs.length (nodeSrc w i) && (!srcRequired op i || srcKind (nodeSrc w i) != 0)
      && (srcKind (nodeSrc w i) != 3 || coefShift cs (srcIndex (nodeSrc w i)) == 0))
    && decide (coefCount op (lookupN cs x) = 0 ∨ x + coefCount op (lookupN cs x) ≤ cs.length) && coefsOk op cs x
    && (op != 15 || outOk w)

/-- The distinct slots that a loop reads. -/
def loopSlots (ws : List Nat) : List Nat :=
  (((ws.flatMap nodeSrcs).filter (fun f => srcKind f == 2)).map srcIndex).eraseDups

/-- Each node of a graph is valid against a bank. -/
def graphOk (cs : List Nat) : Nat → List Nat → Bool
  | _, [] => true
  | k, w :: ws => nodeOk cs k w && graphOk cs (k + 1) ws

/-- The bank that a loop's next evaluation reads (R261). -/
def Chip.nextBank (t : Chip) (l : Nat) : Bool := (t.loop l).swap.getD (t.loop l).bank

/-- The banks that a commit checks: the one in force, and the other once anything has been written to it. -/
def Chip.checkedBanks (t : Chip) (l : Nat) : List Bool :=
  let b := t.nextBank l
  if (t.loopCoefs l (!b)).all (· == 0) then [b] else [b, !b]

/-- A loop's own fields, nodes and coefficients are valid (Tables 8.1–8.7). -/
def Chip.loopOk (t : Chip) (l : Nat) : Bool :=
  let x := fun a => t.attrN tyLoop l a
  let ws := t.loopNodes l
  keeps 0xFFF (x 1) && bits (x 1) 2 2 != 3 && within 1000 60000000 (x 2) && slotFieldOk (x 3) && within 1 512 (x 5)
    && decide (x 4 + x 5 ≤ 8192) && decide (x 6 ≤ 8191) && decide (x 7 ≤ 1024) && decide (x 6 + x 7 ≤ 8192)
    && decide ((loopSlots ws).length ≤ 32)
    && [false, true].all (fun b => (t.loopCoefs l b).all (fun e => bits e 37 27 == 0))
    && (t.checkedBanks l).all (fun b => graphOk (t.loopCoefs l b) 0 ws)

/-- Do two ranges overlap? -/
def overlap (a n b m : Nat) : Bool := decide (0 < n) && decide (0 < m) && decide (a < b + m) && decide (b < a + n)

/-- The first loop whose node or coefficient range overlaps a lower one's (R250). -/
def Chip.loopRangeCheck (t : Chip) : Verdict :=
  let ls := t.existingOf tyLoop
  let x := fun l a => t.attrN tyLoop l a
  (ls.find? (fun l => ls.any (fun m => decide (m < l)
    && (overlap (x l 4) (x l 5) (x m 4) (x m 5) || overlap (x l 6) (x l 7) (x m 6) (x m 7))))).map
    (fun l => (stBadParam, handle tyLoop l))

/-- State words of a loop, its coefficients taken from the bank in force. -/
def Chip.loopStateWords (t : Chip) (l : Nat) : Nat :=
  let cs := t.loopCoefs l (t.nextBank l)
  ((t.loopNodes l).map (fun w => stateWords (nodeOp w) (coefVal cs (nodeCix w)).toNat)).sum

/-- The state pool of 16 384 words holds every loop (R250). -/
def Chip.poolCheck (t : Chip) : Verdict :=
  (firstAbove 16384 0 ((t.existingOf tyLoop).map (fun l => (l, t.loopStateWords l)))).map
    (fun l => (stNoResource, handle tyLoop l))

/-! ### Admission (R268) -/

/-- Running sum of NODE_COUNT · (1 + 5 000 / PERIOD) over class-0 and class-1 loops: the first loop above 9 488. -/
def Chip.admission (t : Chip) : Rat → List Nat → Option Nat
  | _, [] => none
  | s, l :: ls =>
    let n := t.attrN tyLoop l 5
    let p := t.attrN tyLoop l 2
    let s1 := if t.loopClass l ≤ 1 then s + (n : Rat) * (1 + 5000 / (p : Rat)) else s
    if 9488 < s1 then some l else t.admission s1 ls

/-- The admission rules. -/
def Chip.admissionCheck (t : Chip) : Verdict :=
  let ls := t.existingOf tyLoop
  let zero := ls.filter (fun l => t.loopClass l == 0)
  firstBad [
    (zero.find? (fun l => decide (64 < t.attrN tyLoop l 5) || bits (t.loopCfg l) 2 2 != 2 || decide (t.attrN tyLoop l 2 < 1000))).map
      (fun l => (stBadParam, handle tyLoop l)),
    (firstAbove 1600 0 (zero.map (fun l => (l, t.attrN tyLoop l 5)))).map (fun l => (stNoResource, handle tyLoop l)),
    (t.admission 0 ls).map (fun l => (stNoResource, handle tyLoop l))]

/-! ### Min-select groups (R262) -/

/-- The member loops of group `g`. -/
def Chip.members (t : Chip) (g : Nat) : List Nat :=
  (t.existingOf tyLoop).filter (fun l => bit (t.loopCfg l) 5 && bits (t.loopCfg l) 6 6 == g)

/-- Follow input A from node `k` through LIMIT nodes. -/
def feedOf (ws : List Nat) : Nat → Nat → Option Nat
  | 0, _ => none
  | fuel + 1, k =>
    let f := nodeSrc (ws.getD k 0) 0
    if srcKind f != 1 then none
    else if nodeOp (ws.getD (srcIndex f) 0) == 4 then feedOf ws fuel (srcIndex f)
    else some (srcIndex f)

/-- A member's graph: one OUT with GROUP, one PID with TRACK, and the PID feeds the OUT. -/
def memberOk (ws : List Nat) : Bool :=
  let outs := (List.range ws.length).filter (fun k => nodeOp (ws.getD k 0) == 15 && bit (nodeMode (ws.getD k 0)) 0)
  let pids := (List.range ws.length).filter (fun k => nodeOp (ws.getD k 0) == 3 && bit (nodeMode (ws.getD k 0)) 1)
  match outs, pids with
  | [o], [p] => feedOf ws ws.length o == some p
  | _, _ => false

/-- An enabled group is valid. -/
def Chip.groupCheck (t : Chip) (g : Nat) : Verdict :=
  let ms := t.members g
  if !bit (t.attrN tyDevice 0 (0x800 + g)) 15 then none
  else firstBad [
    verdictIf (!within 2 8 ms.length) stBadParam (handle tyDevice 0),
    (ms.find? (fun l => t.loopClass l != t.loopClass (ms.headD 0) || !memberOk (t.loopNodes l))).map
      (fun l => (stBadParam, handle tyLoop l))]

/-- The checks over loops together. -/
def Chip.loopCombos (t : Chip) : Verdict :=
  firstBad ([t.loopRangeCheck, t.admissionCheck, t.poolCheck] ++ (List.range 64).map t.groupCheck)

/-! ### Zones (R276, R279, R291) -/

/-- A coefficient entry of a zone (Table 9.3). -/
def zoneEntryOk (e : List Byte) : Bool := decide (bits (leNat e) 32 6 ≤ 47) && bits (leNat e) 38 26 == 0

/-- A table of zone coefficients has its length and valid entries. -/
def zoneTableOk (b : List Byte) (n : Nat) : Bool := b.length == 8 * n && (chunksOf 8 b).all zoneEntryOk

/-- An input record (Table 9.4). -/
def zoneInputOk (r : List Byte) : Bool :=
  let k := fld r 0 1
  decide (k ≤ 3) && fld r 1 1 == 0 && slotFieldOk (fld r 2 2) && slotFieldOk (fld r 4 2)
    && (!(k == 1 || k == 2) || !bit (fld r 2 2) 15) && (k != 2 || !bit (fld r 4 2) 15)

/-- A presence source record (Table 9.5) of zone `z`. -/
def presSourceOk (z : Nat) (r : List Byte) : Bool :=
  let k := fld r 0 1
  let f := fld r 1 1
  let ref := fld r 2 2
  decide (k ≤ 4) && keeps 3 f && (!bit f 0 || k == 2) && (!bit f 1 || k == 2 || k == 3)
    && (if k == 1 then decide (ref < 32) else if k == 2 || k == 3 then decide (ref < 4096)
      else if k == 4 then decide (ref < 64) && ref != z else true)

/-- A zone's own fields are valid. -/
def Chip.zoneOk (t : Chip) (z : Nat) : Bool :=
  let x := fun a => t.attrN tyZone z a
  let n := t.zoneNodes z
  let boost := t.attr tyZone z 15
  keeps 0xFF (x 1) && decide (1 ≤ x 2) && 60 % x 2 == 0 && slotFieldOk (x 3) && slotFieldOk (x 4) && slotFieldOk (x 5)
    && (chunksOf 12 (t.attr tyZone z 6)).all zoneInputOk && zoneTableOk (t.attr tyZone z 7) (n * n)
    && zoneTableOk (t.attr tyZone z 8) (n * 6) && zoneTableOk (t.attr tyZone z 9) n && within 16384 1310720 (x 10)
    && decide (10 ≤ x 11) && within 1 10000 (bits (x 12) 0 16) && decide (16 ≤ bits (x 12) 16 16)
    && (chunksOf 4 (t.attr tyZone z 13)).all (presSourceOk z) && decide (60 ≤ bits (x 14) 0 16)
    && within 1 8 (bits (x 14) 16 4) && decide (1 ≤ bits (x 14) 20 12)
    && (decide (fld boost 0 1 ≤ 5) || fld boost 0 1 == 7) && (decide (fld boost 1 1 ≤ 5) || fld boost 1 1 == 7)
    && fld boost 2 2 == 0
    && (!t.zoneSubst z || (match sidOf (x 3) with
      | some sid => (t.slot sid).maxage != 0 && decide ((x 2 + 2) * 1000 ≤ (t.slot sid).maxage.toNat)
      | none => true))

/-- Does every PIR source of a zone have its port in PYRO (R291)? -/
def Chip.pirOk (t : Chip) (z : Nat) : Bool :=
  (chunksOf 4 (t.attr tyZone z 13)).all (fun r => fld r 0 1 != 1 || t.portMode (fld r 2 2) == mPyro)

/-- The checks over zones together: PIR ports, shared sensors, and 56 updates per second (R276, R279). -/
def Chip.zoneCombos (t : Chip) : Verdict :=
  let zs := t.existingOf tyZone
  let sensor := fun z => sidOf (t.attrN tyZone z 3)
  firstBad [
    (zs.find? (fun z => !t.pirOk z)).map (fun z => (stBadParam, handle tyZone z)),
    (zs.find? (fun z => (sensor z).isSome && zs.any (fun y => decide (y < z) && sensor y == sensor z))).map
      (fun z => (stBadParam, handle tyZone z)),
    (firstAbove (56 * 60) 0 (zs.map (fun z => (z, if t.zoneEn z then 60 / t.attrN tyZone z 2 else 0)))).map
      (fun z => (stNoResource, handle tyZone z))]

/-! ### Schedules (R320, R321) -/

/-- An entry is valid (Table 10.11). -/
def schedEntryOk (b : List Byte) : Bool :=
  keeps 3 (fld b 9 1) && decide (fld b 10 2 ≤ 1439) && decide (fld b 12 1 ≤ 15) && decide (fld b 13 1 ≤ 3)
    && decide (fld b 14 1 ≤ 7) && decide (fld b 15 1 ≤ 144) && (fld b 15 1 == 0 || fld b 13 1 == 1)
    && (!bit (fld b 9 1) 1 || decide (fld b 0 8 < 16))

/-- An exception record is valid (Table 10.13). -/
def exceptionOk (b : List Byte) : Bool :=
  let y := fld b 0 2
  let m := fld b 2 1
  fld b 6 2 == 0 && (y == 0 || (within 2000 9999 y && within 1 12 m && within 1 (monthDays y m) (fld b 3 1)
    && decide (1 ≤ fld b 4 1) && decide (fld b 5 1 ≤ 7)))

/-- The CLOCK object's own fields are valid; four slots from each base lie in the signal table (Table 10.12). -/
def Chip.clockOk (t : Chip) : Bool :=
  keeps 0x3F1 (t.attrN tyClock 0 1)
    && (chunksOf 2 (t.attr tyClock 0 3)).all (fun r => slotFieldOk (leNat r) && (bit (leNat r) 15 || decide (bits (leNat r) 0 12 ≤ 4092)))
    && (chunksOf 8 (t.attr tyClock 0 5)).all exceptionOk

end Sys2Proof.Machine
end

