-- ==== Sys2Proof/Machine/Plate.lean ====
section
/-! DEFINITION. The plate engines and the compositor (spec/13_plate_display.md, R409–R437). -/

namespace Sys2Proof.Machine

def Chip.panel (c : Chip) (d : Nat) : PanelSt := Tbl.get dPanel c.panels d

def Chip.setPanel (d : Nat) (s : PanelSt) (c : Chip) : Chip := { c with panels := Tbl.set dPanel c.panels d s }

def Chip.modPanel (d : Nat) (f : PanelSt → PanelSt) (c : Chip) : Chip := c.setPanel d (f (c.panel d))

def Chip.panelCfg (c : Chip) (d : Nat) : Nat := c.attrN tyPanel d 1
def Chip.hActive (c : Chip) (d : Nat) : Nat := bits (c.attrN tyPanel d 2) 0 16
def Chip.vActive (c : Chip) (d : Nat) : Nat := bits (c.attrN tyPanel d 2) 16 16

/-- Frame period in ticks of 25 ns (R412). -/
def framePeriod (geometry timing : Nat) : Nat :=
  (bits timing 16 8 + bits geometry 16 16 + bits timing 24 8) * bits timing 0 16

def Chip.framePeriod (c : Chip) (d : Nat) : Nat :=
  Sys2Proof.Machine.framePeriod (c.attrN tyPanel d 2) (c.attrN tyPanel d 3)

/-! ### Waveform tables (R420, R421) -/

/-- The waveform table that a panel uses. -/
def Chip.wave (c : Chip) (d : Nat) : List Byte := Tbl.get dNil c.plate.tables (bits (c.panelCfg d) 2 2)

def waveBands (t : List Byte) : Nat := fld t 12 1
def waveMode (t : List Byte) (m : Nat) : Bool := decide (m < 4) && bit (fld t 13 1) m
def waveBound (t : List Byte) (i : Nat) : Int := signed 8 (fld t (16 + i) 1)

/-- CLEAR entry for (band, next level). -/
def waveClear (t : List Byte) (band next : Nat) : Nat := fld t (64 + 2 * (band * 16 + next)) 2 % 4096

/-- INDEX entry for (mode, band, previous, next): NORMAL and BALANCE. -/
def waveIndex (t : List Byte) (mode band prev next : Nat) : Nat × Nat :=
  let e := fld t (448 + 4 * (((mode * 12 + band) * 16 + prev) * 16 + next)) 4
  (bits e 0 12, bits e 12 12)

/-- Offset of a sequence in the table. -/
def seqOffset (q : Nat) : Nat := 49600 + 20 * q

def seqLen (t : List Byte) (q : Nat) : Nat := fld t (seqOffset q) 1
def seqNet (t : List Byte) (q : Nat) : Int := signed 8 (fld t (seqOffset q + 1) 1)

/-- Drive code of frame `k` of a sequence. -/
def seqCode (t : List Byte) (q k : Nat) : Nat := bits (fld t (seqOffset q + 4 + k / 4) 1) (2 * (k % 4)) 2

/-! ### Status, temperature and events (R414, R422, R436) -/

def Pixel.busy (p : Pixel) : Bool := p.trans.isSome

def Chip.anyTransition (c : Chip) (d : Nat) : Bool := (c.panel d).pixels.any (fun e => e.2.trans.isSome)
def Chip.anyPending (c : Chip) (d : Nat) : Bool := (c.panel d).pixels.any (fun e => e.2.pending.isSome)

/-- Host REGION_UPDATE and REGION_CLEAR outstanding on a panel. -/
def Chip.hostUpdates (c : Chip) (d : Nat) : Nat :=
  ((c.panel d).updates.filter (fun u => match u.source with | .host _ _ => true | _ => false)).length

/-- RAILS (Table 13.5). -/
def PanelSt.railCode (s : PanelSt) : Nat :=
  if s.fault then 4
  else match s.rails with
    | .off => 0
    | .rising => 1
    | .up => 2
    | .falling => 3

/-- PANEL_STAT (Table 13.5). -/
def Chip.panelStat (c : Chip) (d : Nat) : Nat :=
  let s := c.panel d
  let sweeping := s.pixels.any (fun e => match e.2.trans with | some t => t.sweep | none => false)
  s.railCode + 16 * s.band.getD 15 + 256 * b2n (c.anyTransition d) + 512 * b2n (c.anyPending d) + 1024 * b2n sweeping
    + 2048 * b2n s.tempFb + 65536 * c.hostUpdates d

/-- Panel temperature in use, Q16.16, and whether TEMP_FAIL stands in (R422). -/
def Chip.panelTemp (c : Chip) (d : Nat) : Int × Bool :=
  let fail := (fldI32 (c.attr tyPanel d 8) 0, true)
  match sidOf (c.attrN tyPanel d 7) with
  | none => fail
  | some sid =>
    let s := c.readSlot sid
    if c.slotUsable sid && !hasQ s.quality qOVR && !hasQ s.quality qUNR then (s.value.toInt, false) else fail

/-- The band that a temperature lies in, the present one kept within 1 °C of it (R422). -/
def bandOf (t : List Byte) (temp : Int) (now : Option Nat) : Option Nat :=
  let nb := waveBands t
  let inside := fun (b : Nat) (slack : Int) =>
    decide ((waveBound t b - slack) * 65536 ≤ temp) && decide (temp < (waveBound t (b + 1) + slack) * 65536)
  match now with
  | some b => if b < nb && inside b 1 then some b else (List.range nb).find? (fun b => inside b 0)
  | none => (List.range nb).find? (fun b => inside b 0)

/-- Fire E(97+2d) (Table 13.13). -/
def Chip.panelFault (d reason rails : Nat) (c : Chip) : Chip := c.fire (97 + 2 * d) (rails + 256 * reason)

/-- Evaluate the band (R422): E(97+2d) fires once on entry to OUT. -/
def Chip.evalBand (d : Nat) (c : Chip) : Chip :=
  let s := c.panel d
  let (t, fb) := c.panelTemp d
  let b := bandOf (c.wave d) t s.band
  let c1 := c.setPanel d { s with band := b, tempFb := fb }
  if s.band.isSome && b.isNone then c1.panelFault d 4 0 else c1

/-- BAND_EVALUATION: every 1 s (R422). -/
def Chip.bandRow (d : Nat) (c : Chip) : Chip :=
  if !c.power.main.up || !decide (d < panelCount c.fuses.variant) then c
  else
    let c1 := c.waitUntil (c.panel d).bandAt
    (c1.modPanel d (fun s => { s with bandAt := c1.clk.now + sec 1 })).evalBand d

/-! ### Rails (R415–R419) -/

def Chip.railDelay (c : Chip) (d i : Nat) : Nat := ms (bits (c.attrN tyPanel d 5) (8 * i) 8)

/-- Begin power-up (Table 13.7 step 1): VGL is on.  `on` counts the rails that are on, in the order of Table 13.6. -/
def Chip.railsRise (d : Nat) (c : Chip) : Chip :=
  let s := c.panel d
  if s.rails == .up || s.rails == .rising then c.setPanel d { s with down := none }
  else c.setPanel d { s with rails := .rising, step := 0, on := max s.on 1, down := none }

/-- Begin power-down (Table 13.7 step 7): VCOM is off. -/
def Chip.railsFall (d : Nat) (c : Chip) : Chip :=
  let s := c.panel d
  if s.rails == .off then c.setPanel d { s with down := none }
  else c.setPanel d { s with
    rails := .falling, step := if s.rails == .falling then s.step else 0, on := min s.on 4, down := none }

/-- The PANEL_POWER in progress ends, where it is of direction `up`. -/
def Chip.endPower (d : Nat) (up : Bool) (status : Nat) (c : Chip) : Chip :=
  match (c.panel d).power with
  | some (ctx, tag, u) =>
    if u == up then (c.modPanel d (fun s => { s with power := none })).finishTag ctx tag status noOfs [] else c
  | none => c

/-- TAG that E(96+2d) carries for rails: of the PANEL_POWER, 0 for automatic power. -/
def Chip.powerTag (c : Chip) (d : Nat) : Nat := match (c.panel d).power with | some (_, tag, _) => tag | none => 0

/-- RAIL_STEP (R416): the next rail of the sequence is enabled or switched off; the last step of each sequence gives UP or
OFF. -/
def Chip.railStep (d : Nat) (c : Chip) : Chip :=
  let s := c.panel d
  match s.rails with
  | .rising =>
    if s.step < 4 then
      (c.advance (c.railDelay d s.step)).modPanel d (fun s => { s with step := s.step + 1, on := max s.on (s.step + 2) })
    else
      let c1 := c.setPanel d { s with rails := .up, fault := false, step := 0, frameAt := c.clk.now, idleFrom := c.clk.now }
      (c1.fire (96 + 2 * d) (2 + 65536 * c.powerTag d)).endPower d true stOK
  | .falling =>
    if s.step < 4 then
      (c.advance (c.railDelay d s.step)).modPanel d (fun s => { s with step := s.step + 1, on := min s.on (3 - s.step) })
    else
      let c1 := c.setPanel d { s with rails := .off, step := 0, on := 0 }
      (if s.fault || !c.power.main.up then c1 else c1.fire (96 + 2 * d) (3 + 65536 * c.powerTag d)).endPower d false stOK
  | _ => c

/-! ### Updates (R427–R432) -/

/-- The place of a pixel in a panel's tables. -/
def pixelKey (x y : Nat) : Nat := 2048 * y + x

def PanelSt.target (s : PanelSt) (k : Nat) : Nat := Tbl.get (fun _ => s.fill) s.frame k

def PanelSt.setTarget (k v : Nat) (s : PanelSt) : PanelSt := { s with frame := Tbl.set (fun _ => s.fill) s.frame k v }

def PanelSt.pixel (s : PanelSt) (k : Nat) : Pixel := Tbl.get dPixel s.pixels k

def PanelSt.setPixel (k : Nat) (p : Pixel) (s : PanelSt) : PanelSt := { s with pixels := Tbl.set dPixel s.pixels k p }

def PanelSt.modUpdate (num : Nat) (f : PlateUpdate → PlateUpdate) (s : PanelSt) : PanelSt :=
  { s with updates := s.updates.map (fun u => if u.num == num then f u else u) }

/-- The pixels of a rectangle, row by row. -/
def rectKeys (x y w h : Nat) : List Nat :=
  (List.range h).flatMap (fun j => (List.range w).map (fun i => pixelKey (x + i) (y + j)))

/-- Does an image record hold (R427)? -/
def Chip.imageOk (c : Chip) (d : Nat) (b : List Byte) : Bool :=
  decide (12 ≤ b.length) && decide (fld b 0 2 + fld b 4 2 ≤ c.hActive d) && decide (fld b 2 2 + fld b 6 2 ≤ c.vActive d)
    && fld b 8 1 == 0 && b.length == 12 + (fld b 4 2 + 1) / 2 * fld b 6 2

/-- Level of a pixel in an image record's data. -/
def imageLevel (b : List Byte) (w i j : Nat) : Nat :=
  let v := fld b (12 + (w + 1) / 2 * j + i / 2) 1
  if i % 2 == 0 then v % 16 else v / 16

/-- An image record writes the framebuffer, or is discarded, counted and told (R427). -/
def Chip.takeImage (d : Nat) (b : List Byte) (c : Chip) : Chip :=
  if c.imageOk d b then
    let w := fld b 4 2
    let cells := (List.range (fld b 6 2)).flatMap (fun j => (List.range w).map (fun i =>
      (pixelKey (fld b 0 2 + i) (fld b 2 2 + j), imageLevel b w i j)))
    c.modPanel d (fun s => cells.foldl (fun s e => s.setTarget e.1 e.2) s)
  else (c.modPanel d (fun s => { s with badRecords := s.badRecords + 1 })).panelFault d 6 0

/-- Consume the records of Q(56+2d) up to an index (R429). -/
def Chip.takeImages (d tail : Nat) : Nat → Chip → Chip
  | 0, c => c
  | n + 1, c =>
    let q := 56 + 2 * d
    let s := c.queue q
    if s.head == tail || s.fill == 0 then c
    else
      let rlen := leNat (ringRead s s.head 4 c.ring) % 8192
      let b := (ringRead s s.head (4 + rlen) c.ring).drop 4
      ((c.setQueue q (s.pop (min s.fill (entriesFor s.eshift rlen)))).takeImage d b).takeImages d tail n

/-- What a pixel that is not in transition does for a target (R425, R429): it stays, is refused, waits for a band, or starts a
sequence, which may be a clearing one. -/
inductive PixelFate where
  | unchanged
  | refused
  | hold
  | start (seq : Nat) (clearing : Bool)
  deriving DecidableEq, Repr

/-- The sequence of an INDEX entry that the ledger asks for (R425). -/
def ledgerPick (t : List Byte) (ledger : Int) (lim : Nat) (e : Nat × Nat) : Nat :=
  if (ledger + seqNet t e.1).natAbs ≤ lim || e.2 == 0 then e.1 else e.2

def Chip.pixelFate (c : Chip) (d : Nat) (p : Pixel) (target mode : Nat) (clear force : Bool) : PixelFate :=
  let t := c.wave d
  if p.level == some target && !clear && !force then .unchanged
  else match (c.panel d).band with
    | none => .hold
    | some b =>
      match p.level, clear with
      | some l, false =>
        let e := waveIndex t mode b l target
        let q := ledgerPick t p.ledger (c.attrN tyPanel d 9) e
        if e.1 == 0 && l != target then .refused else if q == 0 then .unchanged else .start q false
      | _, _ => .start (waveClear t b target) true

/-- Start a transition; a sequence without frames ends at once. -/
def Chip.startPixel (d k seq target : Nat) (sweep : Bool) (fresh : Option Nat) (c : Chip) : Chip :=
  c.modPanel d (fun s =>
    let p := s.pixel k
    if seqLen (c.wave d) seq == 0 then s.setPixel k { p with level := some target }
    else s.setPixel k { p with trans := some ⟨seq, 0, target, s.band.getD 0, sweep, fresh⟩ })

/-- Empty a pixel's pending slot; the update that placed it counts the pixel SUPERSEDED where it is replaced (R429). -/
def Chip.replacePending (d k : Nat) (new : Option PendingTarget) (c : Chip) : Chip :=
  c.modPanel d (fun s =>
    let p := s.pixel k
    let s1 := match p.pending with
      | some q => s.modUpdate q.update (fun u => { u with superseded := u.superseded + 1 })
      | none => s
    s1.setPixel k { p with pending := new })

/-- Judge a pixel that is not in transition for an update (R429, R430). -/
def Chip.judgePixel (d k : Nat) (q : PendingTarget) (deferred : Bool) (c : Chip) : Chip :=
  let p := (c.panel d).pixel k
  match c.pixelFate d p q.target q.mode q.clear q.force with
  | .unchanged => c.modPanel d (fun s => s.modUpdate q.update (fun u => { u with unchanged := u.unchanged + 1 }))
  | .refused => c.modPanel d (fun s => s.modUpdate q.update (fun u => { u with refused := u.refused + 1 }))
  | .hold => c.replacePending d k (some q)
  | .start seq clearing =>
    (c.modPanel d (fun s => s.modUpdate q.update (fun u => { u with
      started := if deferred then u.started else u.started + 1
      deferred := if deferred then u.deferred + 1 else u.deferred
      cleared := if clearing then u.cleared + 1 else u.cleared }))).startPixel d k seq q.target false none

/-- Take one pixel of an update's snapshot at its first frame boundary (R429); a target that waits for a band is replaced too
(R423). -/
def Chip.startEntry (d : Nat) (u : PlateUpdate) (e : Nat × Nat) (c : Chip) : Chip :=
  let q : PendingTarget := ⟨e.2, u.clear.isSome, u.force, u.mode, u.num⟩
  if ((c.panel d).pixel e.1).busy || ((c.panel d).pixel e.1).pending.isSome then c.replacePending d e.1 (some q) else c.judgePixel d e.1 q false

/-- The pixels of an update's region. -/
def PlateUpdate.area (u : PlateUpdate) : Nat := u.w * u.h

def PlateUpdate.counted (u : PlateUpdate) : Nat := u.started + u.deferred + u.superseded + u.unchanged + u.refused

/-- The final reply data of a REGION_UPDATE or REGION_CLEAR (R430). -/
def updateReply (outcome : Nat) (u : PlateUpdate) : List Byte :=
  [BitVec.ofNat 8 outcome, 0, 0, 0] ++ leBytes 4 u.started ++ leBytes 4 u.deferred ++ leBytes 4 u.superseded
    ++ leBytes 4 u.unchanged ++ leBytes 4 u.refused ++ leBytes 4 u.cleared

/-- CAUSE of E(96+2d) for an update (Table 13.13). -/
def updateCause (outcome : Nat) (u : PlateUpdate) : Nat :=
  (if u.clear.isSome then 1 else 0) + 4 * outcome + (match u.source with
    | .field j => 256 + 512 * j
    | .host _ tag => 65536 * tag
    | .boot => 0)

/-- An update completes (R430). -/
def Chip.endUpdate (d outcome : Nat) (u : PlateUpdate) (c : Chip) : Chip :=
  let c1 := (c.modPanel d (fun s => { s with updates := s.updates.filter (fun x => x.num != u.num) })).fire (96 + 2 * d)
    (updateCause outcome u)
  match u.source with
  | .host ctx tag => c1.finishTag ctx tag stOK noOfs (updateReply outcome u)
  | _ => c1

/-- Complete the updates whose every pixel has been counted. -/
def Chip.endUpdates (d : Nat) (c : Chip) : Chip :=
  ((c.panel d).updates.filter (fun u => u.taken && u.todo.isEmpty && u.area ≤ u.counted)).foldl (fun c u => c.endUpdate d 0 u) c

/-- An interruption (Table 13.11): transitions leave UNKNOWN, pending slots are emptied, updates complete with an outcome. -/
def Chip.interrupt (d outcome : Nat) (c : Chip) : Chip :=
  let c1 := c.modPanel d (fun s => { s with
    pixels := (s.pixels.map (fun e => (e.1, if e.2.trans.isSome then { e.2 with level := none, trans := none, pending := none }
      else { e.2 with pending := none }))).filter (fun e => e.2 != dPixel e.1) })
  (c1.panel d).updates.foldl (fun c u => c.endUpdate d outcome u) c1

/-- RAIL_FAULT: power-good lost while UP, or a rise timeout (R417, Table 13.11). -/
def Chip.railFault (d notGood : Nat) (riseTimeout : Bool) (c : Chip) : Chip :=
  let s := c.panel d
  if !((s.rails == .up && !riseTimeout) || (s.rails == .rising && riseTimeout)) then c
  else
    let c1 := (c.setPanel d { s with fault := true }).railsFall d
    ((c1.interrupt d 1).panelFault d (if riseTimeout then 1 else 0) (notGood % 32)).endPower d true stPowerLimit

/-- A panel that stops driving for a reason outside it: thermal shutdown, a reference stop or a debug halt (Table 13.11).  A
PANEL_POWER up in progress ends with THERMAL_LIMIT or BUSY (DESIGN CHOICE, log entry 54). -/
def Chip.panelHalt (d outcome : Nat) (reason : Option Nat) (c : Chip) : Chip :=
  let c1 := ((c.railsFall d).interrupt d outcome).endPower d true (if outcome == 2 then stThermalLimit else stBusy)
  match reason with
  | some r => c1.panelFault d r 0
  | none => c1

/-- RAIL_IDLE_EXPIRY (R419). -/
def Chip.railIdle (d : Nat) (c : Chip) : Chip :=
  let s := c.panel d
  let t := c.attrN tyPanel d 6
  if !c.power.main.up || s.rails != .up || !bit (c.panelCfg d) 1 || t == 0 || c.anyTransition d || !s.updates.isEmpty
      || s.down.isSome then c
  else (c.waitUntil (s.idleFrom + ms t)).modPanel d (fun s => { s with down := some false })

/-! ### Frame boundaries (R424, R425, R430) -/

/-- A frame of a transition has been driven up to the boundary at `now`: ledger, and the end of the transition.  Says whether the
ledger saturates.  A transition placed during the frame starts at the boundary, if it was placed 2 periods before (R30). -/
def advancePixel (now : Nat) (t : List Byte) (p : Pixel) : Pixel × Bool :=
  match p.trans with
  | none => (p, false)
  | some x =>
    match x.fresh with
    | some at_ => ({ p with trans := some { x with fresh := if at_ + 2 ≤ now then none else x.fresh } }, false)
    | none =>
      let code := seqCode t x.seq x.frame
      let l := p.ledger + (if code == 1 then 1 else if code == 2 then -1 else 0)
      let p1 : Pixel := { p with ledger := clampI (-127) 127 l }
      (if seqLen t x.seq ≤ x.frame + 1 then { p1 with level := some x.target, trans := none }
        else { p1 with trans := some { x with frame := x.frame + 1 } }, decide (127 < l.natAbs))

/-- Drive one frame on every pixel in transition. -/
def Chip.driveFrame (d : Nat) (c : Chip) : Chip :=
  let s := c.panel d
  let t := c.wave d
  let done := s.pixels.map (fun e => (e.1, advancePixel c.clk.now t e.2))
  let ended := (s.pixels.any (fun e => e.2.trans.isSome)) && !(done.any (fun e => e.2.1.trans.isSome))
  let c1 := c.setPanel d { s with
    pixels := (done.map (fun e => (e.1, e.2.1))).filter (fun e => e.2 != dPixel e.1)
    idleFrom := if ended then c.clk.now else s.idleFrom }
  (done.filter (fun e => e.2.2)).foldl (fun c _ => c.panelFault d 5 0) c1

/-- Does a YELIST_LOAD hold the panel's new transitions (Table 15.14, step 3; DESIGN CHOICE, log entry 88)? -/
def Chip.loadHolds (c : Chip) (d : Nat) : Bool := c.image.loading.isSome && c.image.holding.contains d

/-- Judge the pending targets of pixels whose transition has ended, once a band is in force (R423, R430). -/
def Chip.judgePending (d : Nat) (c : Chip) : Chip :=
  if (c.panel d).band.isNone then c
  else (c.panel d).pixels.foldl (fun c e =>
    match e.2.trans, e.2.pending with
    | none, some q => (c.modPanel d (fun s => s.setPixel e.1 { s.pixel e.1 with pending := none })).judgePixel d e.1 q true
    | _, _ => c) c

/-- Start the updates whose snapshot was taken at least 2 periods before (R30, R429), with the band evaluated at the start (R422). -/
def Chip.startUpdates (d : Nat) (c : Chip) : Chip :=
  let ready := fun (u : PlateUpdate) => u.taken && decide (u.takenAt + 2 ≤ c.clk.now)
  let c0 := if (c.panel d).updates.any (fun u => ready u && !u.todo.isEmpty) then c.evalBand d else c
  (c0.panel d).updates.foldl (fun c u =>
    if ready u then
      let c1 := u.todo.foldl (fun c e => c.startEntry d u e) c
      c1.modPanel d (fun s => s.modUpdate u.num (fun x => { x with todo := [] }))
    else c) c0

/-- PANEL_FRAME_BOUNDARY (R424): the frame before it was driven, or driven as none where its data was late (R432). -/
def Chip.frameBoundary (d : Nat) (late : Bool) (c : Chip) : Chip :=
  let s := c.panel d
  if !c.power.main.up || s.rails != .up || c.islandHeld then c
  else
    let c1 := c.waitUntil s.frameAt
    let c2 := c1.modPanel d (fun s => { s with frameAt := c1.clk.now + c.framePeriod d })
    let c3 := if late then c2.panelFault d 7 0 else c2.driveFrame d
    match s.down with
    | some force => if force then (c3.interrupt d 4).railsFall d else c3.railsFall d
    | none =>
      let c4 := if c3.anyTransition d then c3 else c3.modPanel d (fun s => { s with vcom := c3.attrN tyPanel d 4 })
      if c4.loadHolds d then c4 else ((c4.judgePending d).startUpdates d).endUpdates d

/-! ### Placing updates -/

/-- Place an update (R429): the rails rise for it under AUTO_PWR, or where `rise` says so. -/
def Chip.placeUpdate (d : Nat) (src : UpdateSource) (x y w h mode : Nat) (force : Bool) (clear : Option Nat) (rise : Bool)
    (c : Chip) : Chip :=
  let s := c.panel d
  let u : PlateUpdate :=
    { num := s.nextNum, source := src, x := x, y := y, w := w, h := h, mode := mode, force := force, clear := clear,
      tail := (c.queue (56 + 2 * d)).tail, taken := false, takenAt := 0, todo := [], started := 0, deferred := 0, superseded := 0,
      unchanged := 0, refused := 0, cleared := 0 }
  let c1 := c.setPanel d { s with updates := s.updates ++ [u], nextNum := s.nextNum + 1 }
  if rise || bit (c.panelCfg d) 1 then c1.railsRise d else c1

/-- REGION_SNAPSHOT (R429): the oldest update without a snapshot takes it; with none, the records that wait are consumed. -/
def Chip.snapshot (d : Nat) (c : Chip) : Chip :=
  if !c.power.main.up || !decide (d < panelCount c.fuses.variant) then c
  else match (c.panel d).updates.find? (fun u => !u.taken) with
    | none => c.takeImages d (c.queue (56 + 2 * d)).tail (c.queue (56 + 2 * d)).depth
    | some u =>
      let c1 := c.takeImages d u.tail (c.queue (56 + 2 * d)).depth
      let keys := rectKeys u.x u.y u.w u.h
      let c2 := match u.clear with
        | some l => c1.modPanel d (fun s => keys.foldl (fun s k => s.setTarget k l) s)
        | none => c1
      let s := c2.panel d
      let c3 := c2.setPanel d (s.modUpdate u.num (fun x => { x with taken := true, takenAt := c2.clk.now, todo := keys.map (fun k => (k, s.target k)) }))
      match u.source with
      | .host ctx tag => match c3.findCmd ctx tag with
        | some k => c3.accept k
        | none => c3
      | _ => c3

/-- An ABORT of a region update (R431): pixels in transition finish, no other starts, its pending slots are emptied. -/
def Chip.regionAbort (d ctx tag : Nat) (c : Chip) : Chip :=
  match (c.panel d).updates.find? (fun u => u.source == UpdateSource.host ctx tag) with
  | none => c
  | some u => c.modPanel d (fun s => { s with
      updates := s.updates.filter (fun x => x.num != u.num)
      pixels := (s.pixels.map (fun e => (e.1, match e.2.pending with
        | some q => if q.update == u.num then { e.2 with pending := none } else e.2
        | none => e.2))).filter (fun e => e.2 != dPixel e.1) })

/-- The first offset at which a region payload is invalid (R428), if any. -/
def Chip.regionBad (c : Chip) (d : Nat) (clear : Bool) (p : List Byte) : Option Nat :=
  let all := bit (fld p 9 1) 1
  if !all && c.hActive d < fld p 0 2 + fld p 4 2 then some 0
  else if !all && c.vActive d < fld p 2 2 + fld p 6 2 then some 2
  else if !all && fld p 4 2 == 0 then some 4
  else if !all && fld p 6 2 == 0 then some 6
  else if (if clear then 15 < fld p 8 1 else !waveMode (c.wave d) (fld p 8 1)) then some 8
  else if bits (fld p 9 1) 2 6 != 0 || (clear && bit (fld p 9 1) 0) then some 9
  else if !zeroAt p 10 2 then some 10
  else none

/-- Is a panel in no state to take a host update (R417, R428)? -/
def Chip.regionBusy (c : Chip) (d : Nat) : Bool :=
  let s := c.panel d
  s.fault || c.islandHeld || ((s.rails == .off || s.rails == .falling) && !bit (c.panelCfg d) 1) || 8 ≤ c.hostUpdates d

/-- Pixels of every present panel (R499). -/
def Chip.plateTotal (c : Chip) : Nat := ((List.range (panelCount c.fuses.variant)).map (fun d => c.hActive d * c.vActive d)).sum

/-- Pixels in transition or pending, over every present panel (R499). -/
def Chip.plateBusy (c : Chip) : Nat :=
  ((List.range (panelCount c.fuses.variant)).map (fun d =>
    ((c.panel d).pixels.filter (fun e => e.2.trans.isSome || e.2.pending.isSome)).length)).sum

/-- Does the limit of R499 admit a region: the pixels in transition or pending, together with the region's, stay at or below
(8 − s)/8 of the panels' pixels? -/
def Chip.admits (c : Chip) (d x y w h : Nat) : Bool :=
  c.thermal.step == 0 ||
    decide (8 * (c.plateBusy + ((rectKeys x y w h).filter (fun k =>
      let p := (c.panel d).pixel k
      !(p.busy || p.pending.isSome))).length) ≤ (8 - c.thermal.step) * c.plateTotal)

/-- The status of a refusal under the limit of R499: the cause is f where f is above s_T. -/
def Chip.limitStatus (c : Chip) : Nat :=
  if c.thermal.stepT < floorStep c.thermal.budget then stPowerLimit else stThermalLimit

/-- REGION_UPDATE and REGION_CLEAR (R428). -/
def Chip.region (clear : Bool) (k : Cmd) (c : Chip) : Res :=
  let p := k.payload
  let d := k.inst
  let all := bit (fld p 9 1) 1
  if p.length != 12 then .badLength c
  else match c.regionBad d clear p with
    | some o => .badParam o c
    | none =>
      if c.regionBusy d then .err stBusy noOfs c
      else if c.thermal.shutdown then .err stThermalLimit noOfs c
      else
        let x := if all then 0 else fld p 0 2
        let y := if all then 0 else fld p 2 2
        let w := if all then c.hActive d else fld p 4 2
        let h := if all then c.vActive d else fld p 6 2
        if !c.admits d x y w h then
          let st := c.limitStatus
          .err st noOfs (if st == stPowerLimit then c.powerLimit 2 (k.family + 256 * k.opcode) else c)
        else .waiting (c.placeUpdate d (.host k.ctx k.tag) x y w h (if clear then 0 else fld p 8 1) (!clear && bit (fld p 9 1) 0)
          (if clear then some (fld p 8 1) else none) false)

/-- REGION_UPDATE (R428). -/
def bodyRegionUpdate (k : Cmd) (c : Chip) : Res := c.region false k

/-- REGION_CLEAR (R428). -/
def bodyRegionClear (k : Cmd) (c : Chip) : Res := c.region true k

/-- PANEL_POWER (R419). -/
def bodyPanelPower (k : Cmd) (c : Chip) : Res :=
  let p := k.payload
  let d := k.inst
  let s := c.panel d
  let force := bit (fld p 1 1) 0
  if p.length != 4 then .badLength c
  else if 1 < fld p 0 1 then .badParam 0 c
  else if 1 < fld p 1 1 then .badParam 1 c
  else if !zeroAt p 2 2 then .badParam 2 c
  else if s.power.isSome || (fld p 0 1 == 1 && c.islandHeld) then .err stBusy noOfs c
  else if fld p 0 1 == 1 then
    if s.rails == .up then .acceptedDone stOK noOfs [] (c.railsRise d)
    else if c.thermal.shutdown then .err stThermalLimit noOfs c
    else .accepted ((c.modPanel d (fun s => { s with power := some (k.ctx, k.tag, true) })).railsRise d)
  else if s.rails == .off then .acceptedDone stOK noOfs [] c
  else if (c.anyTransition d || c.anyPending d) && !force then .err stBusy noOfs c
  else
    let c1 := c.modPanel d (fun s => { s with power := some (k.ctx, k.tag, false) })
    .accepted (if s.rails == .up then c1.modPanel d (fun s => { s with down := some force })
      else (if force then c1.interrupt d 4 else c1).railsFall d)

/-- PANEL_STATUS (R414). -/
def bodyPanelStatus (k : Cmd) (c : Chip) : Res :=
  if k.payload.length != 0 then .badLength c
  else .okWith (leBytes 4 (c.panelStat k.inst) ++ leBytes 4 (unsigned 32 (c.panelTemp k.inst).1)) c

/-! ### The sweep (R426) -/

/-- LEDGER_SWEEP (R426). -/
def bodyLedgerSweep (k : Cmd) (c : Chip) : Res :=
  let p := k.payload
  if p.length != 4 then .badLength c
  else if fld p 1 1 == 0 || 127 < fld p 1 1 then .badParam 1 c
  else if !waveMode (c.wave k.inst) (fld p 2 1) then .badParam 2 c
  else if !zeroAt p 3 1 then .badParam 3 c
  else .ok ((c.setAttr tyPanel k.inst 10 (leBytes 4 (fld p 0 1 + 256 * fld p 1 1 + 65536 * fld p 2 1))).bumpGen k.hnd)

/-- A pixel of a sweep tile: the sequence that brings its ledger nearer to zero (R426). -/
def sweepPick (t : List Byte) (mode band : Nat) (p : Pixel) : Option (Nat × Nat) :=
  match p.level with
  | none => none
  | some l =>
    let e := waveIndex t mode band l l
    let a := if e.1 == 0 then p.ledger.natAbs else (p.ledger + seqNet t e.1).natAbs
    let b := if e.2 == 0 then p.ledger.natAbs else (p.ledger + seqNet t e.2).natAbs
    if a ≤ b then (if a < p.ledger.natAbs then some (e.1, l) else none)
    else if b < p.ledger.natAbs then some (e.2, l)
    else none

/-- SWEEP_TILE (R426). -/
def Chip.sweepTile (d : Nat) (c : Chip) : Chip :=
  let s := c.panel d
  let sw := c.attrN tyPanel d 10
  let rate := bits sw 0 8
  if !c.power.main.up || s.rails != .up || rate == 0 || c.hostUpdates d != 0 || c.islandHeld || c.loadHolds d then c
  else match s.band with
    | none => c
    | some band =>
      let c1 := c.waitUntil s.tileAt
      let across := (c.hActive d + 15) / 16
      let down := (c.vActive d + 15) / 16
      let x := 16 * (s.tile % across)
      let y := 16 * (s.tile / across % down)
      let keys := rectKeys x y (min 16 (c.hActive d - x)) (min 16 (c.vActive d - y))
      let c2 := c1.setPanel d { s with tile := (s.tile + 1) % (across * down), tileAt := c1.clk.now + sec 60 / rate }
      if !c2.admits d x y (min 16 (c.hActive d - x)) (min 16 (c.vActive d - y)) then c2
      else keys.foldl (fun c k =>
        let p := (c.panel d).pixel k
        if p.busy || p.pending.isSome || p.ledger.natAbs < bits sw 8 7 then c
        else match sweepPick (c.wave d) (bits sw 16 2) band p with
          | some (seq, l) => c.startPixel d k seq l true (some c.clk.now)
          | none => c) c2

/-! ### The compositor (R433–R435) -/

def Chip.field (c : Chip) (j : Nat) : FieldSt := Tbl.get dField c.plate.fields j

def Chip.setField (j : Nat) (f : FieldSt) (c : Chip) : Chip :=
  { c with plate := { c.plate with fields := Tbl.set dField c.plate.fields j f } }

/-- FIELD_j (Table 13.12). -/
def Chip.fieldRec (c : Chip) (j : Nat) : List Byte := c.attr tyDevice 0 (0xA00 + j)

def fieldPanel (r : List Byte) : Nat := b2n (bit (fld r 0 1) 1)

/-- Is a field enabled on a present panel in use? -/
def Chip.fieldOn (c : Chip) (j : Nat) : Bool :=
  let r := c.fieldRec j
  bit (fld r 0 1) 0 && decide (fieldPanel r < panelCount c.fuses.variant) && bit (c.panelCfg (fieldPanel r)) 0

/-- A NUL-padded string. -/
def nulText (bs : List Byte) : List Byte := bs.takeWhile (· != 0)

/-- Decimal digits of a number, at least one. -/
def digits : Nat → Nat → List Byte
  | 0, n => [BitVec.ofNat 8 (48 + n % 10)]
  | fuel + 1, n => if n < 10 then [BitVec.ofNat 8 (48 + n)] else digits fuel (n / 10) ++ [BitVec.ofNat 8 (48 + n % 10)]

/-- The last `w` decimal digits of a number. -/
def lastDigits : Nat → Nat → List Byte
  | 0, _ => []
  | w + 1, n => lastDigits w (n / 10) ++ [BitVec.ofNat 8 (48 + n % 10)]

/-- The value part of a field's text (R434). -/
def valueText (r : List Byte) (v : Int) : List Byte :=
  if fld r 1 1 == 0 then
    let dec := fld r 14 1
    let n := divr (v * (10 ^ dec : Nat)) 65536
    (if n < 0 then [0x2D] else []) ++ digits 20 (n.natAbs / 10 ^ dec)
      ++ (if dec == 0 then [] else [0x2E] ++ lastDigits dec n.natAbs)
  else
    let k := divr v 65536
    if 0 ≤ k && k ≤ 3 then nulText (slice r (32 + 8 * k.toNat) 8) else [0x2D, 0x2D]

/-- A field's text (R434). -/
def Chip.fieldText (c : Chip) (j : Nat) : List Byte :=
  let r := c.fieldRec j
  let sid := fld r 2 2 % 4096
  let s := c.readSlot sid
  let mark := bit (fld r 0 1) 2 && (hasQ s.quality qMODEL || hasQ s.quality qHELD)
  nulText (slice r 20 8) ++ (if c.slotUsable sid then valueText r s.value.toInt else [0x2D, 0x2D])
    ++ (if mark then [0x2A] else []) ++ nulText (slice r 28 8)

/-- CELL_H of a font section (R482). -/
def fontHeight (f : List Byte) : Nat := fld f 0 1

/-- WIDTH of a character. -/
def fontWidth (f : List Byte) (ch : Byte) : Nat := fld f (4 + (ch.toNat - 32)) 1

/-- Bytes of a glyph. -/
def glyphBytes (f : List Byte) (i : Nat) : Nat := fontHeight f * ((fld f (4 + i) 1 + 7) / 8)

/-- Is a glyph's pixel set? -/
def glyphBit (f : List Byte) (ch : Byte) (col row : Nat) : Bool :=
  let i := ch.toNat - 32
  let start := 100 + ((List.range i).map (glyphBytes f)).sum
  bit (fld f (start + row * ((fontWidth f ch + 7) / 8) + col / 8) 1) (7 - col % 8)

def textWidth (f : List Byte) (t : List Byte) : Nat := (t.map (fontWidth f)).sum

/-- The pixel of a text at a column, within its width. -/
def textBit (f : List Byte) : List Byte → Nat → Nat → Bool
  | [], _, _ => false
  | ch :: t, col, row => if col < fontWidth f ch then glyphBit f ch col row else textBit f t (col - fontWidth f ch) row

/-- A text as it is drawn in a width: too wide a text gives as many '#' as fit (R434). -/
def fitText (f : List Byte) (w : Nat) (t : List Byte) : List Byte :=
  if w < textWidth f t then List.replicate (w / max 1 (fontWidth f 0x23)) 0x23 else t

/-- Level of a box's pixel (R434). -/
def boxLevel (r f t : List Byte) (col row : Nat) : Nat :=
  let w := fld r 8 2
  let shown := fitText f w t
  let ofs := if bit (fld r 0 1) 3 then w - textWidth f shown else 0
  if row < fontHeight f && ofs ≤ col && textBit f shown (col - ofs) row then fld r 13 1 % 16 else fld r 13 1 / 16

/-- Render a field (R435): its box into the framebuffer, and an update of the box through Q(57+2d). -/
def Chip.render (j : Nat) (c : Chip) : Chip :=
  let r := c.fieldRec j
  let d := fieldPanel r
  let text := c.fieldText j
  let font := Tbl.get dNil c.plate.fonts (fld r 12 1)
  let w := fld r 8 2
  let h := fld r 10 2
  let cells := (List.range h).flatMap (fun row => (List.range w).map (fun col =>
    (pixelKey (fld r 4 2 + col) (fld r 6 2 + row), boxLevel r font text col row)))
  let c1 := c.modPanel d (fun s => cells.foldl (fun s e => s.setTarget e.1 e.2) s)
  let c2 := c1.setField j ⟨some text, some c.clk.now, false⟩
  (if (c2.queue (57 + 2 * d)).hasRoom 1 then c2.passTx (57 + 2 * d) [] else c2).placeUpdate d (.field j) (fld r 4 2) (fld r 6 2)
    w h (fld r 15 1) false none false

/-- Render a field, or hold the render to the next 1 s read where the limit of R499 does not admit it. -/
def Chip.renderOrHold (j : Nat) (c : Chip) : Chip :=
  let r := c.fieldRec j
  if c.admits (fieldPanel r) (fld r 4 2) (fld r 6 2) (fld r 8 2) (fld r 10 2) then c.render j
  else c.setField j { c.field j with drawn := none, due := false }

/-- When a field may be rendered again. -/
def Chip.renderFrom (c : Chip) (j : Nat) : Nat :=
  match (c.field j).lastRender with
  | some t => t + sec (fld (c.fieldRec j) 16 2)
  | none => 0

/-- Read one field: render it, or note that it waits for MIN_S (R435). -/
def Chip.readField (c : Chip) (j : Nat) : Chip :=
  if !c.fieldOn j || (c.panel (fieldPanel (c.fieldRec j))).fault || (c.field j).drawn == some (c.fieldText j) then c
  else if c.renderFrom j ≤ c.clk.now then c.renderOrHold j
  else c.setField j { c.field j with due := true }

/-- COMPOSITOR_READ: every 1 s (R435). -/
def Chip.compositorRow (c : Chip) : Chip :=
  if !c.power.main.up || panelCount c.fuses.variant == 0 then c
  else
    let c1 := c.waitUntil c.plate.readAt
    let c2 := { c1 with plate := { c1.plate with readAt := c1.clk.now + sec 1 } }
    (List.range 64).foldl (fun c j => c.readField j) c2

/-- FIELD_RENDER_DUE: MIN_S after the last render (R435). -/
def Chip.renderDueRow (j : Nat) (c : Chip) : Chip :=
  if !c.power.main.up || !(c.field j).due || !c.fieldOn j || (c.panel (fieldPanel (c.fieldRec j))).fault then c
  else
    let c1 := c.waitUntil (c.renderFrom j)
    if (c1.field j).drawn == some (c1.fieldText j) then c1.setField j { c1.field j with due := false } else c1.renderOrHold j

/-- FIELD_REFRESH (R435); BUSY while the compositor holds its renders (R417). -/
def bodyFieldRefresh (k : Cmd) (c : Chip) : Res :=
  let p := k.payload
  let j := fld p 0 1
  let mine := (List.range 64).filter (fun i => c.fieldOn i && fieldPanel (c.fieldRec i) == k.inst && (j == 0xFF || i == j))
  if p.length != 4 then .badLength c
  else if 63 < j && j != 0xFF then .badParam 0 c
  else if !zeroAt p 1 3 then .badParam 1 c
  else if (c.panel k.inst).fault then .err stBusy noOfs c
  else .ok (mine.foldl (fun c i => c.renderOrHold i) c)

/-! ### Start-up (R437) -/

/-- A panel at boot, once the image has loaded (R437): the framebuffer is filled, and with EN it clears and its fields are
rendered. -/
def Chip.startPanel (d : Nat) (c : Chip) : Chip :=
  let cfg := c.panelCfg d
  let c1 := c.setPanel d { dPanel d with
    fill := bits cfg 5 4, bandAt := c.clk.now, tileAt := c.clk.now, vcom := c.attrN tyPanel d 4 }
  if !bit cfg 0 then c1
  else
    let c2 := if bit cfg 4 then
        c1.placeUpdate d .boot 0 0 (c.hActive d) (c.vActive d) 0 false (some (bits cfg 5 4)) true
      else c1
    ((List.range 64).filter (fun j => c2.fieldOn j && fieldPanel (c2.fieldRec j) == d)).foldl (fun c j => c.renderOrHold j) c2

/-! ### Outputs (R411, R412, R415) -/

/-- The panel signals of Table 13.1, the rails in mV. -/
structure PanelPins where
  sd : Nat
  sdck : Bool
  sdsp : Bool
  sdle : Bool
  sdoe : Bool
  gdck : Bool
  gdsp : Bool
  gdoe : Bool
  vpos : Int
  vneg : Int
  vgh : Int
  vgl : Int
  vcom : Int
  deriving DecidableEq, Repr

/-- The drive code of a pixel in the frame that runs (R424): of its transition's frame, or none. -/
def Chip.pixelCode (c : Chip) (d k : Nat) : Nat :=
  match ((c.panel d).pixel k).trans with
  | some x => if x.fresh.isSome then 0 else seqCode (c.wave d) x.seq x.frame
  | none => 0

/-- Dd_SD as group `g` of 8 pixels of a row: pixel 0 in bits [1:0] (Table 13.1). -/
def Chip.sourceWord (c : Chip) (d row g : Nat) : Nat :=
  ((List.range 8).map (fun i => c.pixelCode d (pixelKey (8 * g + i) row) * 4 ^ i)).sum

/-- Ticks since the frame that runs began (R412). -/
def Chip.frameTick (c : Chip) (d : Nat) : Nat :=
  let s := c.panel d
  if c.clk.now < s.frameAt then c.clk.now - (s.frameAt - c.framePeriod d) else c.clk.now - s.frameAt

/-- The signals of a panel at this instant (R411, R412, Tables 13.1, 13.2, 13.6): the timing runs while the rails are UP and the
timed islands run, and is held low otherwise (R432).  Data that is not ready is told at the next boundary only
(PANEL_FRAME_BOUNDARY, `late`). -/
def Chip.panelPins (c : Chip) (d : Nat) : PanelPins :=
  let s := c.panel d
  let timing := c.attrN tyPanel d 3
  let line := bits timing 0 16
  let vbp := bits timing 16 8
  let h := c.hActive d
  let k := c.frameTick d / line
  let t := c.frameTick d % line
  let runs := c.power.main.up && s.rails == .up && !c.islandHeld
  let load := decide (8 ≤ t) && decide (t < 8 + h / 8)
  let row := k + 1 - vbp
  let rail := fun (n : Nat) (mv : Int) => if n < s.on then mv else 0
  { sd := if runs && load && decide (vbp ≤ k + 1) && decide (row < c.vActive d) then c.sourceWord d row (t - 8) else 0
    sdck := runs && load && t % 2 == 0
    sdsp := runs && !load
    sdle := runs && decide (t < 2)
    sdoe := runs && decide (4 ≤ t) && decide (t + 4 < line)
    gdck := runs && decide (2 ≤ t) && decide (t + 4 < line)
    gdsp := runs && k == 0
    gdoe := runs && decide (vbp ≤ k) && decide (k < vbp + c.vActive d)
    vgl := rail 0 (-20000)
    vneg := rail 1 (-15000)
    vgh := rail 2 22000
    vpos := rail 3 15000
    vcom := rail 4 (-10 * (s.vcom : Int)) }

/-! ### Meanings -/

/-- PANEL_FRAME_BOUNDARY (R424). -/
def execPanelFrameBoundary (panel : Nat) (late : Bool) (s : State) : Host.Outcome State Fault Refusal :=
  .next { s with chip := s.chip.frameBoundary panel late }

/-- RAIL_STEP (R416). -/
def execRailStep (panel : Nat) (s : State) : Host.Outcome State Fault Refusal :=
  .next { s with chip := s.chip.railStep panel }

/-- RAIL_FAULT (R417). -/
def execRailFault (panel notGood : Nat) (riseTimeout : Bool) (s : State) : Host.Outcome State Fault Refusal :=
  .next { s with chip := s.chip.railFault panel notGood riseTimeout }

/-- RAIL_IDLE_EXPIRY (R419). -/
def execRailIdleExpiry (panel : Nat) (s : State) : Host.Outcome State Fault Refusal :=
  .next { s with chip := s.chip.railIdle panel }

/-- REGION_SNAPSHOT (R429). -/
def execRegionSnapshot (panel : Nat) (s : State) : Host.Outcome State Fault Refusal :=
  .next { s with chip := s.chip.snapshot panel }

/-- BAND_EVALUATION (R422). -/
def execBandEvaluation (panel : Nat) (s : State) : Host.Outcome State Fault Refusal :=
  .next { s with chip := s.chip.bandRow panel }

/-- SWEEP_TILE (R426). -/
def execSweepTile (panel : Nat) (s : State) : Host.Outcome State Fault Refusal :=
  .next { s with chip := s.chip.sweepTile panel }

/-- COMPOSITOR_READ (R435). -/
def execCompositorRead (s : State) : Host.Outcome State Fault Refusal :=
  .next { s with chip := s.chip.compositorRow }

/-- FIELD_RENDER_DUE (R435). -/
def execFieldRenderDue (field : Nat) (s : State) : Host.Outcome State Fault Refusal :=
  .next { s with chip := s.chip.renderDueRow field }

/-- PANEL_POWER (R419). -/
def execPanelPower (ctx tag : Nat) (s : State) : Host.Outcome State Fault Refusal :=
  .next { s with chip := s.chip.runCmd 10 0 bodyPanelPower ctx tag }

/-- REGION_UPDATE (R428). -/
def execRegionUpdate (ctx tag : Nat) (s : State) : Host.Outcome State Fault Refusal :=
  .next { s with chip := s.chip.runCmd 10 1 bodyRegionUpdate ctx tag }

/-- REGION_CLEAR (R428). -/
def execRegionClear (ctx tag : Nat) (s : State) : Host.Outcome State Fault Refusal :=
  .next { s with chip := s.chip.runCmd 10 2 bodyRegionClear ctx tag }

/-- PANEL_STATUS (R414). -/
def execPanelStatus (ctx tag : Nat) (s : State) : Host.Outcome State Fault Refusal :=
  .next { s with chip := s.chip.runCmd 10 3 bodyPanelStatus ctx tag }

/-- LEDGER_SWEEP (R426). -/
def execLedgerSweep (ctx tag : Nat) (s : State) : Host.Outcome State Fault Refusal :=
  .next { s with chip := s.chip.runCmd 10 4 bodyLedgerSweep ctx tag }

/-- FIELD_REFRESH (R435). -/
def execFieldRefresh (ctx tag : Nat) (s : State) : Host.Outcome State Fault Refusal :=
  .next { s with chip := s.chip.runCmd 10 5 bodyFieldRefresh ctx tag }

end Sys2Proof.Machine
end

