-- ==== Sys2Proof/Machine/PortEvents.lean ====
section
/-! DEFINITION. What happens to a port and to all that uses it (spec/04_paddock_ports.md, R143–R151): protect windows, retry
faults, the running mean of the bridge current, shedding and restoring. -/

namespace Sys2Proof.Machine

/-! ### A port's parts switch off, or come back -/

/-- What a port carries ends or stops when its parts switch off (Table 7.2, R179, R239). -/
def Chip.portCut (n : Nat) (c : Chip) : Chip := ((c.motorCut n 2).stopFloat n).checkCaptures

/-- A motor whose move was paused goes on when the port drives again (Table 7.2). -/
def Chip.portBack (n : Nat) (c : Chip) : Chip := if c.portActive n then c.motorResume n else c

/-! ### Protect windows (R143, Table 4.8a) -/

/-- Has a mode a window that leads to PROTECT? -/
def Chip.hasWindow (c : Chip) (n : Nat) : Bool :=
  let m := c.portMode n
  m == mRin || m == mCin || m == mPyro || m == mVout || m == mHbridge || m == mSbus || (m == mFan && bit (c.portCfg n) 7)

/-- A retry fault with what it does to the part concerned (R145, R238, Table 7.2). -/
def Chip.retryWith (n bits : Nat) (c : Chip) : Chip :=
  let c1 := (c.retryFault n bits).portCut n
  if c1.valveBound n then c1.valveFault n 1 false else c1

/-- PROTECT_ENTRY: a terminal has been outside its window for 10 µs; in IIN that is SHUNT_OPEN (Table 4.8a). -/
def Chip.protectEntry (n : Nat) (high low : Bool) (c : Chip) : Chip :=
  if !c.power.main.up || !objPresent c.fuses.variant tyPort n || !(high || low) then c
  else if c.portMode n == mIin then
    if high then c.retryWith n (retryBit .shuntOpen) else c
  else if !c.hasWindow n then c
  else ((c.setPort n { c.port n with
    outside := true, offAt := if (c.port n).fit then c.clk.now else (c.port n).offAt }).portCause n (b2n high + 2 * b2n low)).portCut n

/-- PROTECT_EXIT: every terminal has been inside for 100 ms; the port returns through SETTLING. -/
def Chip.protectExit (n : Nat) (c : Chip) : Chip :=
  if (c.port n).outside then (c.setPort n { c.port n with outside := false }).settle n (ms 2) else c

/-! ### Retry faults (R145) -/

/-- RETRY_FAULT: a fault of the port's mode; ports drive, and so meet one, only while ACTIVE, but for a fault that meets a
LATCHED or PROTECT port (R146). -/
def Chip.retryRow (n : Nat) (k : RetryKind) (c : Chip) : Chip :=
  if !c.power.main.up || !objPresent c.fuses.variant tyPort n || !c.retryApplies n k then c
  else if c.portActive n || (c.port n).latched || (c.port n).outside then c.retryWith n (retryBit k)
  else c

/-- OVERLOAD_AVERAGE_UPDATE: the mean of the last 1 s, one sample in each 1 ms; OVERLOAD at the first update at which it
exceeds I_RATED + 10 %. -/
def Chip.overloadMean (n current : Nat) (c : Chip) : Chip :=
  if !c.power.main.up || c.portMode n != mHbridge then c
  else
    let s := c.port n
    let all := s.samples ++ [if c.portActive n then current else 0]
    let kept := all.drop (all.length - 1000)
    let over_ := decide (11 * c.attrN tyPort n 5 * 1000 < 10 * kept.sum)
    let c1 := c.setPort n { s with samples := kept, meanOver := over_ }
    if over_ && !s.meanOver then c1.retryWith n (retryBit .overload) else c1

/-- SETTLING_EXPIRY: the port drives again (R135, R146). -/
def Chip.settledRow (n : Nat) (c : Chip) : Chip := (c.settled n).portBack n

/-! ### Shedding and restoring (R149, R150, R459) -/

/-- Shed one port: SHED, its motor pauses. -/
def Chip.shedPort (n : Nat) (c : Chip) : Chip :=
  (((c.setPort n { c.port n with
    shed := true, offAt := if (c.port n).fit then c.clk.now else (c.port n).offAt }).portCause n 0x10).motorPause n).stopFloat n

/-- Restore one port through SETTLING. -/
def Chip.restorePort (n : Nat) (c : Chip) : Chip :=
  (c.setPort n { c.port n with shed := false }).settle n (ms 2)

/-- Shed ports in order until the total fits; the ports shed so far. -/
def Chip.shedLoop : Nat → Nat → Chip → Nat × Chip
  | 0, k, c => (k, c)
  | fuel + 1, k, c =>
    if c.vactTotal ≤ vactLimit c.thermal.step then (k, c)
    else match c.nextShed with
      | some n => Chip.shedLoop fuel (k + 1) (c.shedPort n)
      | none => (k, c)

/-- Restore ports in order, up to the first that does not fit. -/
def Chip.restoreLoop : Nat → Chip → Chip
  | 0, c => c
  | fuel + 1, c =>
    match c.nextRestore with
    | none => c
    | some n =>
      if c.vactTotal + c.vactDraw n ≤ vactLimit c.thermal.step then Chip.restoreLoop fuel (c.restorePort n) else c

/-- The limit has changed (R150): ports are shed where the total does not fit, and restored where the limit has risen; nothing
is restored while VACT is low or its switch open (R459). -/
def Chip.fitVact (rose : Bool) (c : Chip) : Chip :=
  let r := Chip.shedLoop 32 0 c
  if 0 < r.1 then (r.2.powerLimit 0 r.1).checkCaptures
  else if !rose || c.power.vactShed || c.power.vactOpen then c
  else Chip.restoreLoop 32 c

/-- Every port that draws VACT current is shed for want of VACT (R459). -/
def Chip.shedAll (c : Chip) : Chip :=
  ((List.range 32).foldl (fun c n => if c.usesVact n && !(c.port n).shed then c.shedPort n else c) c).checkCaptures

/-- VACT is back: the ports that want of VACT kept shed are restored in the order of R150 (R459). -/
def Chip.vactBack (c : Chip) : Chip :=
  let c1 : Chip := { c with ports := (List.range 32).foldl (fun t n =>
    if c.usesVact n then Tbl.modify dPort t n (fun s => { s with shed := true }) else t) c.ports }
  Chip.restoreLoop 32 { c1 with power := { c1.power with vactShed := false, vactOpen := false, vactRetry := none } }

/-! ### Meanings -/

/-- PROTECT_ENTRY (R143). -/
def execProtectEntry (port : Nat) (high low : Bool) (s : State) : Host.Outcome State Fault Refusal :=
  .next { s with chip := s.chip.protectEntry port high low }

/-- PROTECT_EXIT (R143). -/
def execProtectExit (port : Nat) (s : State) : Host.Outcome State Fault Refusal :=
  .next { s with chip := s.chip.protectExit port }

/-- RETRY_FAULT (R145). -/
def execRetryFault (port : Nat) (kind : RetryKind) (s : State) : Host.Outcome State Fault Refusal :=
  .next { s with chip := s.chip.retryRow port kind }

/-- OVERLOAD_AVERAGE_UPDATE (R145). -/
def execOverloadAverageUpdate (port current : Nat) (s : State) : Host.Outcome State Fault Refusal :=
  .next { s with chip := s.chip.overloadMean port current }

/-- SETTLING_EXPIRY (R135). -/
def execSettlingExpiry (port : Nat) (s : State) : Host.Outcome State Fault Refusal :=
  .next { s with chip := s.chip.settledRow port }

/-- RETRY_EXPIRY (R145). -/
def execRetryExpiry (port : Nat) (s : State) : Host.Outcome State Fault Refusal :=
  .next { s with chip := s.chip.retryOver port }

end Sys2Proof.Machine
end

