-- ==== Sys2Proof/Machine/Reset.lean ====
section
/-! DEFINITION. The main-side reset (spec/15, R468–R471; spec/17, R523): what each block keeps and loses, RESET_CAUSE, and the
release. -/

namespace Sys2Proof.Machine

def Chip.setPower (f : PowerSt → PowerSt) (c : Chip) : Chip := { c with power := f c.power }

/-- MAIN as MGT_STAT shows it (Table 14.7): OFF while VSYS is absent. -/
def Chip.mainState (c : Chip) : MainSt :=
  if c.power.main == .reset && decide (c.power.vsysR < 6000) then .off else c.power.main

/-- A long operation of the stores that a reset cuts short (Table 17.8): a firmware commit leaves its bank INCOMPLETE with
REASON 3, and an ephemeris write leaves the flash copy to be repaired. -/
def Chip.cutStores (c : Chip) : Chip :=
  { c with
    firmware := { c.firmware with
      buffer := [], bufferOwner := none, commit := none
      reason := if c.firmware.commit.isSome then 3 else c.firmware.reason }
    cal := { c.cal with held := [], captures := [], write := none, chunks := [] }
    image := { c.image with active := false, serial := 0, writer := none, loading := none, badFlash := [], holding := [] }
    almanac :=
      { c.almanac with
        base := 0, transitions := [], govern := [], early := [], last := [], lastCheck := [], evalDue := none
        ephFlashValid := c.almanac.ephFlashValid && c.almanac.ephWriting.isNone, ephWriting := none } }

/-- The fabric state that a reset leaves: a fabric of one, with the persisted copies of the address (R346, Table 11.14). -/
def Chip.lostFabric (c : Chip) : FabricSt :=
  { resetFabric with
    bwUid := c.fuses.uid, persisted := c.fabric.persisted, persistedOld := c.fabric.persistedOld,
    persistSeq := c.fabric.persistSeq }

/-- What stays of a port through a main-side reset (R147): the voltages at its terminals. -/
def PortSt.lost (n : Nat) (p : PortSt) : PortSt :=
  { dPort n with inA := { dInput with mv := p.inA.mv }, inB := { dInput with mv := p.inB.mv } }

/-- Everything that a main-side reset clears (R33, R60, R81, R88, R105, R147, R183, R186, R216, R248, R275, R297, R408, R432,
R446, R512, R515, R523, R557).  The always-on domain, the backup domain, the flash and the calibration store stay, as do the
slots themselves. -/
def Chip.mainClear (c0 : Chip) : Chip :=
  let c := c0.cutStores
  { c with
    overrides := [], produced := [], attrs := [], existing := [], gens := []
    owners := c.owners.filter (fun e => handleTy e.1 == tyGroup && bit c.mgt.safeHeld (handleInst e.1))
    sessions := [], staged := [], lives := [], cmds := [], remoteIn := [], events := [], queues := [], ring := []
    foldS := { resetFold with since := c.clk.now, waitFrom := c.clk.now }
    foldD := { resetFold with since := c.clk.now, waitFrom := c.clk.now }, host := resetHost
    mgt := { c.mgt with building := none, readQueue := none, readOffset := 0, lastChunk := [] }
    power := { c.power with debugHalt := false }
    log := { c.log with ring := [], clearing := none }
    counters := { resetCounters with boots := c.counters.boots }
    dogs := resetDogs
    links := [], fabric := c.lostFabric, ports := c.ports.map (fun e => (e.1, e.2.lost e.1)), groups := [], bridges := [], motors := []
    valves := c.valves.map (fun e => (e.1, { dValve e.1 with zeroSince := e.2.zeroFrom c.clk.now }))
    fans := []
    sampler := { resetSampler with temp := c.sampler.temp, tempAt := c.sampler.tempAt }
    zones := [], predictions := [], loops := [], minSel := [], streams := [], can := []
    panels := c.panels.map (fun e => (e.1, e.2.lost e.1))
    plate := ⟨[], [], [], 0⟩
    thermal := { c.thermal with peak := 0 }
    selftest := none }

/-- RESET_CAUSE after a source acts (R469, R470): `again` says that another source reset the main side at this very instant. -/
def causeAfter (w bit dog : Nat) (again : Bool) : Nat :=
  let w1 := w ||| 2 ^ bit
  let w2 := setBits w1 8 4 (if again then min (bits w 8 4) bit else bit)
  let w3 := if bit == 4 then setBits w2 12 8 dog else w2
  if again then w3 else setBits w3 20 8 (min 255 (bits w 20 8 + 1))

/-- Note a reset source in RESET_CAUSE. -/
def Chip.noteCause (bit dog : Nat) (again : Bool) (c : Chip) : Chip :=
  c.setPower (fun p => { p with resetCause := BitVec.ofNat 32 (causeAfter p.resetCause.toNat bit dog again) })

/-- Does the main side run or boot: is it out of reset? -/
def Chip.mainRuns (c : Chip) : Bool := c.power.main.up || c.power.main == .booting

/-- A reset source acts (Table 15.7, R469, R470).  A source that meets a main side already in reset is no new reset; at the
same instant as the source that reset it, it sets its bit. -/
def Chip.mainReset (bit dog : Nat) (c : Chip) : Chip :=
  if c.mainRuns then
    let c1 := c.mainClear.noteCause bit dog false
    c1.setPower (fun p => { p with main := .reset, lastReset := some c.clk.now, bootCount := p.bootCount + 1 })
  else if c.power.aoOn && c.power.lastReset == some c.clk.now then c.noteCause bit dog true
  else c

/-- VSYS is lost, or the hot-swap switch opens while running: the power-fail sequence (Table 15.6, R557). -/
def Chip.vsysLoss (c : Chip) : Chip :=
  let c1 := c.mainReset 1 0
  { c1 with clk := { c1.clk with refRun := false }, power := { c1.power with sramLost := true } }

/-- The hot-swap controller starts charging where VSYS_R is there; its settings take effect (R461, R462). -/
def Chip.startCharging (c : Chip) : Chip :=
  c.setPower (fun p => { p with
    hsw := if 6000 ≤ p.vsysR then .charging else .off, hswRetry := none, hswAuto := bit p.hswCfg.toNat 16 })

/-- Does nothing hold the main side in reset (R453, R463, R465, R470, R471, R502, R534)? -/
def Chip.mayRelease (c : Chip) : Bool :=
  c.power.aoOn && !c.power.testHeld && !c.power.hold && !c.power.hresetLow && !c.power.thermalHold && c.power.hsw == .on
    && c.clk.refRun && c.power.main == .reset

/-- The earliest release: the reference has run for 10 ms without a gap (R28, R465). -/
def Chip.releaseFrom (c : Chip) : Nat := c.clk.refSince + ms 10

/-- The main-side reset is released: MAIN reads BOOTING (Table 15.10, step 1). -/
def Chip.release (c : Chip) : Chip :=
  { c with power := { c.power with main := .booting }, dogs := { c.dogs with release := some c.clk.now } }

/-- One period of 25 ns passes; a main side that nothing holds leaves reset (R505: within 1 ms of the reset). -/
def Chip.tick (c : Chip) : Chip :=
  let c1 := c.advance 1
  if c1.mayRelease && decide (c1.releaseFrom ≤ c1.clk.now) then c1.release else c1

end Sys2Proof.Machine
end

