-- ==== Sys2Proof/Machine/Thermal.lean ====
section
/-! DEFINITION. The thermal governor (spec/16_thermal_governor.md, R491–R504). -/

namespace Sys2Proof.Machine

def Chip.setThermal (f : ThermalSt → ThermalSt) (c : Chip) : Chip := { c with thermal := f c.thermal }

/-- A temperature in °C as Q16.16. -/
def degC (n : Int) : Int := n * 65536

/-- A rational in Q16.16, rounded half away from zero. -/
def q16 (x : Rat) : Int := divr (x.num * 65536) x.den

/-- An estimate or reading in 1/16 °C, saturating, as a 16-bit field of a CAUSE word (Table 16.6). -/
def sixteenths (t : Int) : Nat := unsigned 16 (clampI (-32768) 32767 (divr t 4096))

/-! ### The model (R491–R494) -/

/-- Update `k` falls due floor(k · 8192 / 25) ticks after the governor starts (R491). -/
def Chip.thermalDue (c : Chip) : Nat :=
  c.thermal.start + ceilDiv (c.thermal.updates * 8192 / 25 * 40000000) 32768

/-- q[d] after one update with dt 10 ms. -/
def filterPowers (p : List Rat) (q : List Rat) : List Rat :=
  (List.range 5).map (fun d => q.getD d 0 + (p.getD d 0 - q.getD d 0) * (1 / 100) / Config.thermalTau d)

/-- The modelled rise at site `i`, or at the hot spot with `i` 4. -/
def modelledRise (q : List Rat) (i : Nat) : Rat := ((List.range 5).map (fun d => Config.thermalK i d * q.getD d 0)).sum

/-- A reading as a rational number of °C. -/
def SiteSt.celsius (s : SiteSt) : Rat := (s.reading : Rat) / 65536

/-- Is a reading out of range? -/
def SiteSt.outOfRange (s : SiteSt) : Bool := decide (s.reading < degC (-50)) || decide (degC 160 < s.reading)

/-- Follow a site at update `k`: `base` and `rise` as the model has them (R493). -/
def SiteSt.follow (k : Nat) (base rise : Rat) (s : SiteSt) : SiteSt :=
  let away := s.celsius - base - rise
  let out := s.outOfRange || decide (15 < away) || decide (away < -15)
  let moved := s.reading != s.seen || k == 0
  { s with
    seen := s.reading
    outSince := if out then (match s.outSince with | some u => some u | none => some k) else none
    sameSince := if moved then k else s.sameSince
    riseLo := if moved then rise else min s.riseLo rise
    riseHi := if moved then rise else max s.riseHi rise }

/-- Why a site is found broken at update `k` (R493, Table 16.6): 0 out of range, 1 disagrees with the model, 2 stuck. -/
def SiteSt.broken (k : Nat) (s : SiteSt) : Option Nat :=
  let out := match s.outSince with
    | some u => decide (u + 100 ≤ k)
    | none => false
  if s.bad then none
  else if out then some (if s.outOfRange then 0 else 1)
  else if s.sameSince + 6000 ≤ k && decide (2 ≤ s.riseHi - s.riseLo) then some 2
  else none

/-- The indices of the valid sites. -/
def validSites (ss : List SiteSt) : List Nat := (List.range 4).filter (fun i => !(ss.getD i ⟨0, 0, true, none, 0, 0, 0⟩).bad)

/-- NO_SITE (R494). -/
def ThermalSt.noSite (t : ThermalSt) : Bool := (validSites t.sites).isEmpty

/-- Site `i` is excluded, with E103; the last one to go sets ALL (R493, R494). -/
def Chip.excludeSite (i reason : Nat) (c : Chip) : Chip :=
  let c1 := c.setThermal (fun t => { t with sites := t.sites.modify i (fun s => { s with bad := true }) })
  let reading := (c.thermal.sites.getD i ⟨0, 0, true, none, 0, 0, 0⟩).reading
  c1.fire 103 (i + 4 * reason + 16 * b2n c1.thermal.noSite + 65536 * sixteenths reading)

/-- Judge each site at update `k` (R493). -/
def Chip.judgeSites (k : Nat) (c : Chip) : Chip :=
  (List.range 4).foldl (fun c i =>
    match (c.thermal.sites.getD i ⟨0, 0, true, none, 0, 0, 0⟩).broken k with
    | some r => c.excludeSite i r
    | none => c) c

/-- tb after an update: a sixteenth of the way to the mean of the valid sites, or frozen (R491, R494). -/
def nextBase (q : List Rat) (base : Rat) (ss : List SiteSt) : Rat :=
  let v := validSites ss
  if v.isEmpty then base
  else
    let mean := (v.map (fun i => (ss.getD i ⟨0, 0, true, none, 0, 0, 0⟩).celsius - modelledRise q i)).sum / (v.length : Nat)
    base + (mean - base) / 16

/-- One update of the estimate (R491–R495): `power` in mW by heat source; `readings` in Q16.16 from the always-on converter,
which are taken while the main side does not run.  While it is in reset, p[0] to p[3] count as 0. -/
def Chip.estimate (power readings : List Int) (c : Chip) : Chip :=
  let k := c.thermal.updates
  let p : List Rat := (List.range 5).map (fun d => if d < 4 && !c.power.main.up then 0 else (power.getD d 0 : Rat) / 1000)
  let q := filterPowers p c.thermal.q
  let c1 := if c.power.main.up then c
    else (List.range 4).foldl (fun c i => match readings[i]? with
      | some r => c.setSite i r
      | none => c) c
  let c2 := c1.setThermal (fun t => { t with
    q := q, sites := t.sites.mapIdx (fun i s => s.follow k t.base (modelledRise q i)) })
  let c3 := c2.judgeSites k
  c3.setThermal (fun t =>
    let base := nextBase q t.base t.sites
    let est := q16 (base + modelledRise q 4 + (if t.noSite then 10 else 0))
    { t with base := base, est := est, peak := max t.peak est, updates := t.updates + 1 })

/-! ### Thresholds and shutdown (R496, R501, R502) -/

/-- E100–E102 carry the estimate in 1/16 °C. -/
def Chip.thermalCause (c : Chip) (low : Nat) : Nat := low + 65536 * sixteenths c.thermal.est

/-- The warning threshold (Table 16.2). -/
def Chip.judgeWarn (c : Chip) : Chip :=
  if degC 110 ≤ c.thermal.est && !c.thermal.warn then
    (c.setThermal (fun t => { t with warn := true })).fire 100 (c.thermalCause 0)
  else if c.thermal.est < degC 105 then c.setThermal (fun t => { t with warn := false })
  else c

/-- Partial shutdown begins: every bridge is gated COAST, dampers and panels as Tables 7.2 and 13.11 say (R501). -/
def Chip.partialShutdown (c : Chip) : Chip :=
  let c1 := c.setThermal (fun t => { t with shutdown := true })
  let c2 := (List.range 32).foldl (fun c n => if c.portMode n == mHbridge then (c.motorCut n 6).stopFloat n else c) c1
  (List.range (panelCount c.fuses.variant)).foldl (fun c d =>
    if (c.panel d).rails == .off && (c.panel d).updates.isEmpty then c else c.panelHalt d 2 (some 2)) c2

/-- Full shutdown begins: partial shutdown, then the main side is held with cause THERMAL (R502). -/
def Chip.fullShutdown (c : Chip) : Chip :=
  let c1 := if c.thermal.shutdown then c else c.partialShutdown
  let c2 := c1.mainReset 5 0
  (c2.setPower (fun p => { p with main := .shutdown, thermalHold := true })).setThermal
    (fun t => { t with full := true, okCount := 0 })

/-- The release conditions of full shutdown at one update (R502). -/
def Chip.coolEnough (c : Chip) : Bool :=
  decide (c.thermal.est < degC 130) &&
    (validSites c.thermal.sites).all (fun i => decide ((c.thermal.sites.getD i ⟨0, 0, true, none, 0, 0, 0⟩).reading < degC 130))

/-- A bridge drives again from its next channel period on (R501). -/
def Chip.resumeBridge (n : Nat) (c : Chip) : Chip :=
  if c.portMode n == mHbridge && ((c.group (groupOf n)).running (n % 4) (64 * c.groupInstant (groupOf n))).isSome then
    c.setBridge n { c.bridge n with off := some (c.channelPeriod n) }
  else c

/-- Partial shutdown ends: bridges and held dampers resume (R501, Table 7.2). -/
def Chip.endShutdown (c : Chip) : Chip :=
  (List.range 32).foldl (fun c n => (c.resumeBridge n).motorResume n) (c.setThermal (fun t => { t with shutdown := false }))

/-- The shutdown thresholds at one update, and whether one of them was crossed (R501, R502). -/
def Chip.judgeShutdown (c : Chip) : Bool × Chip :=
  let t := c.thermal
  if t.full then (false, c.setThermal (fun t => { t with okCount := if c.coolEnough then t.okCount + 1 else 0 }))
  else if degC 140 ≤ t.est then (true, c.fullShutdown.fire 102 (c.thermalCause 1))
  else if degC 135 ≤ t.est && !t.shutdown then (true, c.partialShutdown.fire 102 (c.thermalCause 0))
  else if t.est < degC 130 && t.shutdown then
    (false, c.endShutdown)
  else (false, c)

/-- The step timers at one update (R497): what they find is taken or undone by THROTTLE_STEP_TAKEN and
THROTTLE_STEP_UNDONE. -/
def ThermalSt.judgeStep (t : ThermalSt) : ThermalSt :=
  if degC 115 ≤ t.est then
    if degC 120 ≤ t.est && (!t.risen || 200 ≤ t.hot + 1) then
      { t with
        stepsUp := if t.stepT + t.stepsUp < 8 + t.stepsDown then t.stepsUp + 1 else t.stepsUp
        risen := true, hot := 0, cool := 0 }
    else { t with hot := t.hot + 1, cool := 0 }
  else if 1000 ≤ t.cool + 1 then
    { t with
      stepsDown := if t.stepsDown < t.stepT + t.stepsUp then t.stepsDown + 1 else t.stepsDown
      risen := false, hot := 0, cool := 0 }
  else { t with risen := false, hot := 0, cool := t.cool + 1 }

/-- THERMAL_UPDATE: the estimate, its thresholds, and every 100 ms the die temperature of R174 (R491, R495, R496). -/
def Chip.thermalUpdate (power readings : List Int) (c : Chip) : Chip :=
  if !c.power.aoOn then c
  else
    let c1 := (c.waitUntil c.thermalDue).estimate power readings
    let c2 := if c1.thermal.updates % 10 == 0 then
        c1.setSampler (fun m => { m with temp := divr c1.thermal.est 65536, tempAt := c1.clk.now })
      else c1
    let c3 := c2.judgeWarn
    let r := c3.judgeShutdown
    if r.1 then r.2 else r.2.setThermal ThermalSt.judgeStep

/-! ### Steps (R497–R500) -/

/-- f, from BUDGET (R498). -/
def Chip.floorNow (c : Chip) : Nat := floorStep c.thermal.budget

/-- The step in force follows s_T and f (R498): E101 where it changes, E123 where the change comes from f, and the VACT limit
follows it (R499). -/
def Chip.applyStep (fromFloor : Bool) (c : Chip) : Chip :=
  let new := max c.thermal.stepT c.floorNow
  if new == c.thermal.step then c
  else
    let up := decide (c.thermal.step < new)
    let c1 := c.setThermal (fun t => { t with step := new, steps := if up then t.steps + 1 else t.steps })
    let c2 := c1.fire 101 (c.thermalCause (new + 16 * b2n up + 32 * b2n fromFloor))
    (if fromFloor then c2.powerLimit 1 c.thermal.budget else c2).fitVact !up

/-- THROTTLE_STEP_TAKEN: s_T rises by one, to at most 8. -/
def Chip.takeStep (c : Chip) : Chip :=
  if c.thermal.stepsUp == 0 then c
  else (c.setThermal (fun t => { t with stepsUp := t.stepsUp - 1, stepT := min 8 (t.stepT + 1) })).applyStep false

/-- THROTTLE_STEP_UNDONE: s_T falls by one, to at least 0. -/
def Chip.undoStep (c : Chip) : Chip :=
  if c.thermal.stepsDown == 0 then c
  else (c.setThermal (fun t => { t with stepsDown := t.stepsDown - 1, stepT := t.stepT - 1 })).applyStep false

/-- A new BUDGET (R498). -/
def Chip.setBudget (mw : Nat) (c : Chip) : Chip := (c.setThermal (fun t => { t with budget := mw })).applyStep true

/-- SHUTDOWN_RELEASE: the update that completes 1 000 cool ones releases the hold of full shutdown (R502). -/
def Chip.shutdownRelease (c : Chip) : Chip :=
  if c.thermal.full && 1000 ≤ c.thermal.okCount then
    (c.setThermal (fun t => { t with full := false, shutdown := false, okCount := 0 })).setPower
      (fun p => { p with thermalHold := false, main := if p.main == .shutdown then .reset else p.main })
  else c

/-! ### The THERMAL object (R503, Tables 16.4 and 16.5) -/

/-- THM_STAT. -/
def Chip.thmStat (c : Chip) : Nat :=
  let t := c.thermal
  b2n t.warn + 2 * b2n (decide (degC 120 ≤ t.est)) + 4 * b2n t.shutdown + 8 * b2n t.noSite + 16 * t.step + 256 * t.stepT
    + 4096 * c.floorNow + 65536 * (((List.range 4).filter (fun i => !(validSites t.sites).contains i)).map (2 ^ ·)).sum

/-- THM_SITES. -/
def Chip.thmSites (c : Chip) : List Byte := c.thermal.sites.flatMap (fun s => leBytes 4 (unsigned 32 s.reading))

/-- THERMAL_STATUS (R503). -/
def bodyThermalStatus (k : Cmd) (c : Chip) : Res :=
  if k.payload.length != 0 then .badLength c
  else .okWith (leBytes 4 c.thmStat ++ leBytes 4 (unsigned 32 c.thermal.est) ++ c.thmSites
    ++ leBytes 4 (unsigned 32 (q16 c.thermal.base))) c

/-- BUDGET_SET (R500): the object that changes is THERMAL, whose owner judges it. -/
def bodyBudgetSet (k : Cmd) (c : Chip) : Res :=
  let p := k.payload
  let mw := fld p 0 2
  if c.ownerIsMgt (handle tyThermal 0) != isMgtCtx k.ctx then .err stNotOwner 8 c
  else if p.length != 4 then .badLength c
  else if mw < 2850 || 4000 < mw then .badParam 0 c
  else if !zeroAt p 2 2 then .badParam 2 c
  else .okWith [BitVec.ofNat 8 (floorStep mw), 0, 0, 0] (c.setBudget mw)

/-! ### Meanings -/

/-- THERMAL_UPDATE (R491). -/
def execThermalUpdate (power sites : List Int) (s : State) : Host.Outcome State Fault Refusal :=
  .next { s with chip := s.chip.thermalUpdate power sites }

/-- THROTTLE_STEP_TAKEN (R497). -/
def execThrottleStepTaken (s : State) : Host.Outcome State Fault Refusal := .next { s with chip := s.chip.takeStep }

/-- THROTTLE_STEP_UNDONE (R497). -/
def execThrottleStepUndone (s : State) : Host.Outcome State Fault Refusal := .next { s with chip := s.chip.undoStep }

/-- SHUTDOWN_RELEASE (R502). -/
def execShutdownRelease (s : State) : Host.Outcome State Fault Refusal := .next { s with chip := s.chip.shutdownRelease }

/-- THERMAL_STATUS (R503). -/
def execThermalStatus (ctx tag : Nat) (s : State) : Host.Outcome State Fault Refusal :=
  .next { s with chip := s.chip.runCmd 0xB 1 bodyThermalStatus ctx tag }

/-- BUDGET_SET (R500). -/
def execBudgetSet (ctx tag : Nat) (s : State) : Host.Outcome State Fault Refusal :=
  .next { s with chip := s.chip.runCmd 0xB 4 bodyBudgetSet ctx tag }

end Sys2Proof.Machine
end

