-- ==== Sys2Proof/Machine/NetChecks.lean ====
section
/-! DEFINITION. What OBJ_COMMIT, OBJ_SET and an image check in links, routes, streams, CAN controllers, panels, text fields, the
DEVICE object, events and the thermal governor (R98, R121, R330, R352, R361, R362, R382–R384, R394, R395, R401, R402, R413, R414,
R433), and the signal bindings of R40.  `c` is the module as it stands, `t` as it would stand. -/

namespace Sys2Proof.Machine

/-! ### Links, routes and streams -/

/-- A LINK's own fields are valid (Tables 11.2, 11.3). -/
def Chip.linkOk (t : Chip) (n : Nat) : Bool :=
  let cfg := t.linkCfg n
  bits cfg 13 19 == 0 && bits cfg 1 2 != 3 && (isT1L n || bits cfg 1 2 == 0) && decide (1 ≤ bits cfg 4 8)
    && within 1 (if isT1L n then 2000 else 20000) (t.attrN tyLink n 2) && decide (1 ≤ t.attrN tyLink n 4)

/-- A ROUTE's own fields are valid (Table 11.9); MAXHOPS is judged on an enabled route. -/
def Chip.routeOk (t : Chip) (r : Nat) : Bool :=
  let cfg := t.attrN tyRoute r 1
  bits cfg 8 8 == 0 && bits cfg 26 6 == 0 && (!bit cfg 0 || within 1 16 (bits cfg 3 5)) && within 1 2000 (t.attrN tyRoute r 2)

/-- Is there an enabled class-0 route from a node under this number (R362)? -/
def Chip.class0Route (t : Chip) (r node : Nat) : Bool :=
  let cfg := t.attrN tyRoute r 1
  Tbl.get dFalse t.existing (handle tyRoute r) && bit cfg 0 && bits cfg 1 2 == 0 && bits cfg 16 10 == node

/-- The 2-byte halves of MAP keep their bits. -/
def mapFieldsOk (b : List Byte) : Bool :=
  b.length % 4 == 0 && (chunksOf 2 b).all (fun e => bits (leNat e) 12 4 == 0)

/-- An IMPORT is valid (R362). -/
def Chip.importOk (t : Chip) (i : Nat) : Bool :=
  let cfg := t.strCfg i
  let src := t.attrN tyStream i 2
  let dsts := (t.streamMap i).map (·.2)
  let zero := bits cfg 2 2 == 0
  !bit src 15 && t.fabric.addr != some (bits src 0 10) && decide (dsts.eraseDups.length = dsts.length)
    && (if zero then decide (dsts.length ≤ 4) && bits cfg 16 16 == 0 && t.class0Route (bits cfg 8 8) (bits src 0 10)
      else bits cfg 8 8 == 0)

/-- A HOST stream is valid (R362, Table 11.11). -/
def Chip.hostStreamOk (t : Chip) (i : Nat) : Bool :=
  let cfg := t.strCfg i
  bits cfg 2 2 != 0 && !bit cfg 4 && bits cfg 8 8 == 0 && (t.streamMap i).all (fun e => e.2 == 0)

/-- A STREAM's own fields are valid (Tables 11.10, 11.11). -/
def Chip.streamOk (t : Chip) (i : Nat) : Bool :=
  let cfg := t.strCfg i
  bits cfg 5 3 == 0 && decide (bits cfg 0 2 ≤ 1) && bits (t.attrN tyStream i 2) 10 5 == 0 && mapFieldsOk (t.attr tyStream i 3)

/-- The stream checks of R362, stream by stream. -/
def Chip.streamCheck (t : Chip) (i : Nat) : Verdict :=
  let h := handle tyStream i
  if t.isHostStream i then verdictIf (!t.hostStreamOk i) stBadParam h
  else firstBad [verdictIf (!hasFlock t.fuses.variant) stFusedOff h, verdictIf (!t.importOk i) stBadParam h]

/-! ### CAN controllers -/

/-- Bit timing is valid (R383, R384). -/
def Chip.canTimingOk (t : Chip) (m : Nat) : Bool :=
  let n := t.attrN tyCan m 2
  let d := t.attrN tyCan m 3
  let fd := t.canFd m
  let nq := 3 + bits n 5 8 + bits n 13 7
  let dq := 3 + bits d 5 5 + bits d 10 4
  decide (1 ≤ bits n 5 8) && decide (1 ≤ bits n 13 7) && within 40 4000 (nomBit n) && decide (8 ≤ nq)
    && decide (bits n 20 7 ≤ bits n 13 7) && decide (bits d 14 4 ≤ bits d 10 4)
    && (!fd || (decide (8 ≤ dataBit d) && decide (dataBit d ≤ nomBit n) && decide (5 ≤ dq)))
    && (bit (t.attrN tyCan m 4) 7 || !fd || decide (40 ≤ dataBit d))

/-- A window entry keeps to Table 12.9. -/
def windowOk (cycExp : Nat) (w : List Byte) : Bool :=
  let excl := winType w == 1
  decide (winType w ≤ 4) && fld w 7 1 == 0 && (if excl then decide (winTxo w ≤ 63) else winTxo w == 0)
    && decide (fld w 4 1 ≤ cycExp) && decide (fld w 5 1 < 2 ^ min 6 (fld w 4 1))
    && (if excl then within 1 16 (winTxen w) else winTxen w == 0)

/-- Do two entries at one TIME share a basic cycle? -/
def windowsClash (a b : List Byte) : Bool :=
  let r := 2 ^ min (fld a 4 1) (fld b 4 1)
  winTime a == winTime b && fld a 5 1 % r == fld b 5 1 % r

/-- Does any entry clash with one that follows it in the list? -/
def anyClash : List (List Byte) → Bool
  | [] => false
  | w :: ws => ws.any (windowsClash w) || anyClash ws

/-- The frame that a transmit object sends, as long as it can be (R395). -/
def Chip.objFrame (t : Chip) (m o : Nat) : CanFrame := t.buildFrame m o

/-- End of the window that opens at TIME: the next higher TIME, or REF_PERIOD (R394). -/
def Chip.windowStop (t : Chip) (m time : Nat) : Nat :=
  ((t.windows m).map winTime).foldl (fun e x => if time < x && x < e then x else e) (bits (t.ttCfg m) 0 16)

/-- The schedule of a controller is valid (R394, R395). -/
def Chip.canScheduleOk (t : Chip) (m : Nat) : Bool :=
  let b := t.attr tyCan m 7
  let tt := t.ttCfg m
  let ws := t.windows m
  let times := (ws.map winTime).eraseDups
  let p := bits tt 0 16 * t.bitTime m
  b.length % 8 == 0 && (chunksOf 8 b).all (fun w => winType w == 0 || windowOk (bits tt 16 3) w)
    && decide (times.length ≤ 32) && times.all (fun x => within 80 (bits tt 0 16 - 1) x) && !anyClash ws
    && ws.all (fun w => winType w != 1
      || (t.txKind m (winTxo w) != 0
        && decide (winTxen w + t.frameBits m (t.objFrame m (winTxo w)) ≤ t.windowStop m (winTime w) - winTime w)))
    && (!bit tt 23 || (p % 40 == 0 && decide (bits (t.attrN tyCan m 6) 16 16 < p / 40)))

/-- A transmit object entry keeps to Table 12.11. -/
def txObjOk (o : List Byte) : Bool :=
  decide (fld o 4 1 ≤ 15) && decide (fld o 5 1 ≤ 3) && keeps 1 (fld o 6 1) && fld o 7 1 == 0
    && (fld o 10 2 == 0 || decide (10 ≤ fld o 10 2)) && !bit (fld o 0 4 ) 31

/-- A filter entry keeps to Table 12.6. -/
def filterOk (f : List Byte) : Bool :=
  !bit (fld f 0 4) 31 && !bit (fld f 4 4) 29 && !bit (fld f 4 4) 31 && decide (fld f 8 1 ≤ 4) && keeps 1 (fld f 9 1)
    && fld f 10 2 == 0

/-- A field entry keeps to Table 12.12. -/
def fieldEntryOk (f : List Byte) : Bool :=
  decide (fld f 0 1 ≤ 63) && decide (fld f 1 1 ≤ 1) && decide (fld f 2 1 ≤ 63) && bits (fld f 3 1) 0 2 != 3
    && bits (fld f 3 1) 5 3 == 0 && bits (fld f 4 2) 12 4 == 0 && fld f 6 2 == 0 && fld f 8 4 != 0

/-- Bytes of frame data that a field may lie in (R402): its transmit object's data, or a frame's 64. -/
def Chip.fieldRoom (t : Chip) (m : Nat) (f : List Byte) : Nat :=
  if fld f 1 1 == 0 then (if t.txKind m (fld f 0 1) == 0 then 0 else dlcLen (fld (t.txObj m (fld f 0 1)) 4 1)) else 64

/-- First byte that a field may take: 2 under the tally header (R403). -/
def Chip.fieldFloor (t : Chip) (m : Nat) (f : List Byte) : Nat :=
  let hdr := if fld f 1 1 == 0 then bit (fld (t.txObj m (fld f 0 1)) 6 1) 0
    else bit (fld (slice (t.attr tyCan m 9) (12 * fld f 0 1) 12) 9 1) 0
  if hdr then 2 else 0

/-- Two fields of one frame overlap. -/
def fieldsClash (a b : List Byte) : Bool :=
  fld a 0 2 == fld b 0 2 && overlap (fieldPos a) (fieldWidth a) (fieldPos b) (fieldWidth b)

def anyFieldClash : List (List Byte) → Bool
  | [] => false
  | f :: fs => fs.any (fieldsClash f) || anyFieldClash fs

/-- The map of a controller is valid, but for the bindings (R402). -/
def Chip.canMapOk (t : Chip) (m : Nat) : Bool :=
  (t.attr tyCan m 8).length % 12 == 0 && (chunksOf 12 (t.attr tyCan m 8)).all txObjOk
    && (t.attr tyCan m 9).length % 12 == 0 && (chunksOf 12 (t.attr tyCan m 9)).all filterOk
    && [16, 17, 18, 19].all (fun a => (t.attr tyCan m a).length % 16 == 0)
    && (t.canFields m).all (fun f => fieldEntryOk f && decide (fieldPos f + fieldWidth f ≤ t.fieldRoom m f)
      && decide (t.fieldFloor m f ≤ fieldPos f))
    && !anyFieldClash (t.canFields m)

/-- A CANCTL's own fields are valid (Tables 12.2–12.4, 12.8). -/
def Chip.canOk (t : Chip) (m : Nat) : Bool :=
  let tt := t.ttCfg m
  let ref := t.attrN tyCan m 6
  bits (t.canCfg m) 9 23 == 0 && bits (t.attrN tyCan m 2) 27 5 == 0 && bits (t.attrN tyCan m 3) 18 14 == 0
    && bits (t.attrN tyCan m 4) 8 8 == 0 && bits tt 24 8 == 0 && within 200 65535 (bits tt 0 16) && decide (bits tt 16 3 ≤ 6)
    && bits ref 0 3 == 0 && bits ref 11 5 == 0 && t.canTimingOk m && t.canScheduleOk m && t.canMapOk m

/-- A commit changes CAN_CFG, bit timing, TT_CFG, REF_CFG or WINDOWS of a controller that is not stopped (R382). -/
def Chip.canBusy (c t : Chip) (m : Nat) : Bool :=
  [1, 2, 3, 4, 5, 6, 7].any (fun a => c.attr tyCan m a != t.attr tyCan m a) && bits (c.canStat m) 0 2 != 3

/-! ### Panels and text fields -/

/-- A PANEL's own fields are valid (R413, Tables 13.3, 13.4). -/
def Chip.panelOk (t : Chip) (d : Nat) : Bool :=
  let x := fun a => t.attrN tyPanel d a
  let h := t.hActive d
  let line := bits (x 3) 0 16
  bits (x 1) 9 23 == 0 && h % 16 == 0 && within 16 1600 h && within 1 1200 (t.vActive d) && decide (1 ≤ bits (x 3) 16 8)
    && decide (1 ≤ bits (x 3) 24 8) && decide (h / 8 + 16 ≤ line)
    && within 470589 800000 ((bits (x 3) 16 8 + t.vActive d + bits (x 3) 24 8) * line)
    && within 20 500 (x 4) && [0, 1, 2, 3].all (fun i => within 1 50 (bits (x 5) (8 * i) 8))
    && (x 6 == 0 || decide (100 ≤ x 6)) && slotFieldOk (x 7) && within 1 127 (x 9) && within 1 127 (bits (x 10) 8 7)
    && !bit (x 10) 15 && bits (x 10) 18 14 == 0

/-- A commit changes GEOMETRY or TIMING with the rails up, or WFT under a transition (R413, R414). -/
def Chip.panelBusy (c t : Chip) (d : Nat) : Bool :=
  ((c.attr tyPanel d 2 != t.attr tyPanel d 2 || c.attr tyPanel d 3 != t.attr tyPanel d 3) && (c.panel d).railCode != 0)
    || (bits (c.panelCfg d) 2 2 != bits (t.panelCfg d) 2 2 && (c.anyTransition d || c.anyPending d))

/-- Text of a record is ASCII 0x20–0x7F, then NULs (Table 13.12). -/
def textOk (bs : List Byte) : Bool :=
  (nulText bs).all (fun b => within 0x20 0x7F b.toNat) && (bs.drop (nulText bs).length).all (· == 0)

/-- A field record keeps to Table 13.12; the ranges are judged on an enabled field. -/
def textFieldOk (r : List Byte) : Bool :=
  bits (fld r 0 1) 4 4 == 0 && bits (fld r 2 2) 12 4 == 0 && fld r 18 2 == 0
    && (!bit (fld r 0 1) 0 || (decide (fld r 1 1 ≤ 1) && decide (fld r 12 1 ≤ 7) && decide (fld r 14 1 ≤ 3)
      && decide (fld r 15 1 ≤ 3) && within 1 3600 (fld r 16 2) && textOk (slice r 20 8) && textOk (slice r 28 8)
      && [0, 1, 2, 3].all (fun i => textOk (slice r (32 + 8 * i) 8))))

/-- Does a record enable its field? -/
def fieldEnabled (r : List Byte) : Bool := bit (fld r 0 1) 0

/-- The boxes of two enabled fields on one panel overlap. -/
def boxesClash (a b : List Byte) : Bool :=
  fieldEnabled a && fieldEnabled b && fieldPanel a == fieldPanel b
    && overlap (fld a 4 2) (fld a 8 2) (fld b 4 2) (fld b 8 2) && overlap (fld a 6 2) (fld a 10 2) (fld b 6 2) (fld b 10 2)

def anyBoxClash : List (List Byte) → Bool
  | [] => false
  | r :: rs => rs.any (boxesClash r) || anyBoxClash rs

/-- An enabled field fits its panel, and its font and mode exist (R433). -/
def Chip.fieldFits (t : Chip) (r : List Byte) : Bool :=
  let d := fieldPanel r
  let font := Tbl.get dNil t.plate.fonts (fld r 12 1)
  !fieldEnabled r || (decide (fld r 4 2 + fld r 8 2 ≤ t.hActive d) && decide (fld r 6 2 + fld r 10 2 ≤ t.vActive d)
    && !font.isEmpty && decide (fontHeight font ≤ fld r 10 2) && waveMode (t.wave d) (fld r 15 1))

/-- The field checks of R433; FIRST_BAD names DEVICE 0. -/
def Chip.fieldsCheck (t : Chip) : Verdict :=
  let rs := (List.range 64).map t.fieldRec
  let h := handle tyDevice 0
  firstBad [
    verdictIf (rs.any (fun r => fieldEnabled r && decide (panelCount t.fuses.variant ≤ fieldPanel r))) stFusedOff h,
    verdictIf (!rs.all t.fieldFits || anyBoxClash rs) stBadParam h]

/-! ### DEVICE, EVENT and THERMAL -/

/-- The DEVICE object's own fields are valid (R122, R246, R262, R344, R433, R462). -/
def Chip.deviceOk (t : Chip) : Bool :=
  let x := fun a => t.attrN tyDevice 0 a
  [0x300, 0x308].all (fun a => within 4 32 (bits (x a) 0 6) && bits (x a) 6 2 == 0 && within 16 256 (bits (x a) 8 9)
      && bits (x a) 17 15 == 0 && within 100 20000 (bits (x (a + 1)) 0 15) && bits (x (a + 1)) 15 17 == 0)
    && decide (1 ≤ x 0x700) && decide (x 0x701 ≤ 1)
    && (List.range 64).all (fun g => bits (x (0x800 + g)) 12 3 == 0 && bits (x (0x800 + g)) 16 16 == 0)
    && bits (x 0x900) 10 5 == 0 && within 10 40 (bits (x 0xB00) 0 6) && bits (x 0xB00) 6 2 == 0
    && within 20 250 (bits (x 0xB00) 8 8) && bits (x 0xB00) 17 15 == 0
    && (List.range 64).all (fun j => textFieldOk (t.fieldRec j))

/-- Is any class-0 loop, route or event route in place (R121)? -/
def Chip.class0InPlace (t : Chip) : Bool :=
  (t.existingOf tyLoop).any (fun l => t.loopClass l == 0) || (t.existingOf tyRoute).any (fun r => bits (t.attrN tyRoute r 1) 1 2 == 0)
    || (List.range 128).any (fun e => bits (t.route e) 0 2 == 0)

/-- A change of FOLD_S_CTL that R121 forbids. -/
def Chip.foldBusy (c t : Chip) : Bool :=
  let w := t.attrN tyDevice 0 0x300
  w != c.attrN tyDevice 0 0x300 && (decide (64 < bits w 8 9) || decide (bits w 0 6 < 8)) && t.class0InPlace

/-- At most 16 events have class 0 (R98). -/
def Chip.eventCheck (t : Chip) : Verdict :=
  (firstAbove 16 0 ((List.range 128).map (fun e => (e, b2n (bits (t.route e) 0 2 == 0))))).map
    (fun e => (stNoResource, handle tyEvent e))

/-! ### Own values of any object -/

/-- A changed object's own attribute values: its status where they fail. -/
def Chip.ownCheck (c t : Chip) (hnd : Nat) : Verdict :=
  let ty := handleTy hnd
  let i := handleInst hnd
  let bad := fun ok => verdictIf (!ok) stBadParam hnd
  if ty == tyDevice then firstBad [bad t.deviceOk, verdictIf (c.foldBusy t) stBusy hnd]
  else if ty == tyPort then bad (t.portOk i)
  else if ty == tySeq then verdictIf (!t.seqFieldsOk i) stBadParam (handle tySeq (t.headOf i))
  else if ty == tyGroup then bad (t.groupOk i)
  else if ty == tyBridge then bad (t.bridgeOk i)
  else if ty == tyDamper then bad (t.damperOk i)
  else if ty == tyFan then bad (t.fanOk i)
  else if ty == tyValve then bad (t.valveOk i)
  else if ty == tyLoop then bad (!Tbl.get dFalse t.existing hnd || t.loopOk i)
  else if ty == tyZone then bad (!Tbl.get dFalse t.existing hnd || t.zoneOk i)
  else if ty == tySchedule then bad (!Tbl.get dFalse t.existing hnd || schedEntryOk (t.schedEntry i))
  else if ty == tyClock then bad t.clockOk
  else if ty == tyLink then bad (t.linkOk i)
  else if ty == tyRoute then bad (!Tbl.get dFalse t.existing hnd || t.routeOk i)
  else if ty == tyStream then
    if !Tbl.get dFalse t.existing hnd then none else firstBad [bad (t.streamOk i), t.streamCheck i]
  else if ty == tyCan then firstBad [verdictIf (c.canBusy t i) stBusy hnd, bad (t.canOk i)]
  else if ty == tyPanel then firstBad [verdictIf (c.panelBusy t i) stBusy hnd, bad (t.panelOk i)]
  else if ty == tyThermal then bad (within 2850 4000 (t.attrN tyThermal 0 6))
  else if ty == tyEvent then bad (bits (t.route i) 21 11 == 0)
  else none

/-! ### Bindings (R40) -/

/-- One binding: the slot, and what binds it. -/
structure Binding where
  sid : Nat
  hnd : Nat
  sub : Nat
  deriving DecidableEq, Repr

/-- A binding for a slot field that names a slot. -/
def bindField (x hnd sub : Nat) : List Binding :=
  match sidOf x with
  | some s => [⟨s, hnd, sub⟩]
  | none => []

/-- Bindings of a port: its level slots and SBUS entries. -/
def Chip.portBindings (t : Chip) (n : Nat) : List Binding :=
  let h := handle tyPort n
  let lv := t.attrN tyPort n 15
  if t.portMode n == mSbus then
    (chunksOf 16 (t.attr tyPort n 17)).zipIdx.flatMap (fun e => bindField (fld e.1 6 2) h e.2)
  else if t.portMode n == mDin then
    (if bit lv 15 then [⟨bits lv 0 12, h, 0⟩] else []) ++ (if bit lv 31 then [⟨bits lv 16 12, h, 1⟩] else [])
  else []

/-- Bindings of a CAN controller's receive fields. -/
def Chip.canBindings (t : Chip) (m : Nat) : List Binding :=
  ((t.canFields m).filter (fun f => fld f 1 1 == 1)).map (fun f => ⟨fieldSid f, handle tyCan m, fld f 0 1⟩)

/-- Bindings of a loop's OUT nodes. -/
def Chip.loopBindings (t : Chip) (l : Nat) : List Binding :=
  ((t.loopNodes l).filter (fun w => nodeOp w == 15 && srcKind (nodeSrc w 1) == 2)).map
    (fun w => ⟨srcIndex (nodeSrc w 1), handle tyLoop l, 0⟩)

/-- Every binding of the active set. -/
def Chip.bindings (t : Chip) : List Binding :=
  (List.range 32).flatMap t.portBindings
    ++ (List.range 128).flatMap (fun e => if bit (t.seWord e) 14 then [⟨bits (t.seWord e) 16 12, handle tySeq e, 0⟩] else [])
    ++ (List.range 32).flatMap (fun n => if t.damperBound n then bindField (t.attrN tyDamper n 13) (handle tyDamper n) 0 else [])
    ++ (List.range 32).flatMap (fun n => if t.fanBound n then bindField (t.attrN tyFan n 11) (handle tyFan n) 0 else [])
    ++ (List.range 32).flatMap (fun n => if t.valveBound n then bindField (t.attrN tyValve n 10) (handle tyValve n) 0 else [])
    ++ (t.existingOf tyLoop).flatMap t.loopBindings
    ++ (List.range 64).flatMap (fun g =>
      let w := t.attrN tyDevice 0 (0x800 + g)
      if bit w 15 then [⟨bits w 0 12, handle tyDevice 0, g⟩] else [])
    ++ (t.existingOf tyZone).flatMap (fun z =>
      bindField (t.attrN tyZone z 4) (handle tyZone z) 0 ++ bindField (t.attrN tyZone z 5) (handle tyZone z) 1)
    ++ (chunksOf 2 (t.attr tyClock 0 3)).zipIdx.flatMap (fun e =>
      if bit (leNat e.1) 15 then [] else [0, 1, 2, 3].map (fun i => ⟨bits (leNat e.1) 0 12 + i, handle tyClock 0, e.2⟩))
    ++ (t.existingOf tyStream).flatMap (fun i =>
      if t.isHostStream i then [] else (t.streamMap i).zipIdx.map (fun e => ⟨e.1.2, handle tyStream i, e.2⟩))
    ++ (List.range 2).flatMap t.canBindings

/-- The other bindings of a slot. -/
def anyRebound : List Binding → List (Binding × Binding)
  | [] => []
  | b :: bs => (bs.filter (fun x => x.sid == b.sid)).map (fun x => (b, x)) ++ anyRebound bs

/-- A slot has two bound producers (R40): a zone of the pair is named (R276), else a stream, else the later of the two in handle
order; between ports and sequences the earlier (R134's order). -/
def Chip.bindingCheck2 (t : Chip) : Verdict :=
  let field := fun b : Binding => handleTy b.hnd == tyPort || handleTy b.hnd == tySeq
  match anyRebound t.bindings with
  | [] => none
  | (a, b) :: _ =>
    some (stBadParam,
      if field a && field b then min a.hnd b.hnd
      else if handleTy b.hnd == tyZone then b.hnd
      else if handleTy a.hnd == tyZone then a.hnd
      else if handleTy b.hnd == tyStream then b.hnd
      else if handleTy a.hnd == tyStream then a.hnd
      else max a.hnd b.hnd)

/-- A transmit source is bound to no producer (R402). -/
def Chip.canSourceCheck (t : Chip) : Verdict :=
  let sids := t.bindings.map (·.sid)
  let unbound := fun m => (t.canFields m).any (fun f => fld f 1 1 == 0 && !sids.contains (fieldSid f))
  ((List.range (canCount t.fuses.variant)).find? unbound).map (fun m => (stBadParam, handle tyCan m))

/-- The checks over the whole set, each status with FIRST_BAD, in the order that the model takes them. -/
def Chip.setChecks (c t : Chip) : Verdict :=
  firstBad [c.portCombos t, t.seqShapeCheck, t.actuatorCombos, t.pwmCombos, t.seqLoadCheck, t.loopCombos, t.zoneCombos,
    t.bindingCheck2, t.canSourceCheck, t.fieldsCheck, t.eventCheck]

end Sys2Proof.Machine
end

