-- ==== Sys2Proof/Machine/Objects.lean ====
section
/-! DEFINITION. Objects and their attributes (spec/02, R75–R81, R88, R556, R559, R562): OBJ_GET, OBJ_SET, OBJ_STAGE, OBJ_COMMIT,
OBJ_DISCARD, OBJ_CREATE, OBJ_DELETE, OBJ_OWNER and OBJ_LIST, and what a commit does in each block. -/

namespace Sys2Proof.Machine

/-! ### Reading attributes -/

/-- DMP_STATUS (Table 7.4). -/
def Chip.dmpStatus (c : Chip) (n : Nat) : Nat :=
  let m := c.motor n
  let st := if !c.damperBound n then 0
    else match m.move with
      | some mv => if mv.phase == .paused then 5 else if mv.rehome then 3 else 2
      | none => if m.known then 1 else 4
  st + 8 * b2n m.jam + 16 * b2n m.openLoad + 256 * m.outcome

/-- VLV_STATUS (Table 7.6). -/
def Chip.vlvStatus (c : Chip) (n : Nat) : Nat :=
  let v := c.valve n
  let lost := c.valveKind n == 2 && (if c.rippleValve n then !(c.motor n).known else v.est.isNone)
  (if !c.valveBound n then 0 else if v.boostEnd.isSome then 2 else if lost then 3 else 1) + 4 * b2n v.fault + 8 * v.lastFault

/-- The code of a fan's STATE (Table 7.7). -/
def fanCode : FanState → Nat
  | .stopped => 1
  | .spinup => 2
  | .gap => 3
  | .run => 4
  | .stall => 5
  | .tachLost => 6

/-- FAN_STATUS (Table 7.7). -/
def Chip.fanStatus (c : Chip) (n : Nat) : Nat :=
  let f := c.fan n
  if !c.fanBound n then 0
  else fanCode f.state + 8 * f.attempt + 32 * b2n c.dogs.fanForced + 64 * b2n f.sensor + 65536 * min 0xFFFF f.rpm

/-- The read-only part of a positioned motor: CPS, count, LEAD and FILLED, from attribute `a` of DAMPER on. -/
def Chip.motorAttr (c : Chip) (n a : Nat) : List Byte :=
  let m := c.motor n
  if a == 16 then leBytes 4 (c.motorCps n)
  else if a == 17 then leBytes 4 (unsigned 32 m.count)
  else if a == 18 then leBytes 2 m.lead
  else leBytes 4 m.filled

/-- FIT_ROW (Table 9.1): the fitted row in the model's format, unused entries 0. -/
def Chip.fitRow (c : Chip) (z : Nat) : List Byte :=
  let nn := c.zoneNodes z
  match (c.zone z).fit.map (fun f => c.fittedRow z f.theta), (c.zone z).adopted with
  | none, none => zeros 112
  | some row, _ | none, some row =>
    let es := row.zipIdx.flatMap (fun e =>
      let sh := if e.2 < nn then (c.zoneA z 0 e.2).2 else (c.zoneB z 0 (e.2 - nn)).2
      leBytes 4 (unsigned 32 e.1) ++ leBytes 4 sh)
    es ++ zeros (112 - es.length)

/-- FOLD_x_STAT (Table 3.13). -/
def FoldSt.stat (f : FoldSt) : Nat := f.lastPort % 32 + 128 * b2n f.bitten + 256 * min 255 f.bites

/-- Grants that an arbiter has given in the `n` periods before instant `t` (log entry 16: how many grants the module's own
traffic takes is not stated, and free). -/
def grantsOver (dram : Bool) (t : Nat) : Nat → Nat
  | 0 => 0
  | n + 1 => Config.foldGrants dram (t - (n + 1)) + grantsOver dram t n

/-- The longest wait that ended in the `n` periods before instant `t` (log entry 16). -/
def waitOver (dram : Bool) (t : Nat) : Nat → Nat
  | 0 => 0
  | n + 1 => max (Config.foldWait dram (t - (n + 1))).toNat (waitOver dram t n)

/-- Grants since reset at instant `t`. -/
def FoldSt.grantsAt (f : FoldSt) (dram : Bool) (t : Nat) : Nat := f.grants + grantsOver dram t (t - f.since)

/-- Grants since the last every-Nth grant that CTL's last write found, with those since. -/
def FoldSt.runAt (f : FoldSt) (dram : Bool) (t : Nat) : Nat := f.rest + grantsOver dram t (t - f.since)

/-- NTH of CTL (Table 3.12). -/
def FoldSt.nth (f : FoldSt) : Nat := bits f.ctl.toNat 0 6

/-- Every-Nth grants since reset at instant `t` (R115). -/
def FoldSt.forcedAt (f : FoldSt) (dram : Bool) (t : Nat) : Nat := f.forced + f.runAt dram t / f.nth

/-- A register of a fold arbiter by its place in Table 3.11, at instant `t`. -/
def FoldSt.reg (f : FoldSt) (dram : Bool) (t k : Nat) : List Byte :=
  if k == 0 then leBytes 4 f.ctl.toNat
  else if k == 1 then leBytes 4 f.dog.toNat
  else if k == 2 then leBytes 4 f.stat
  else if k == 3 then leBytes 4 (f.grantsAt dram t)
  else if k == 4 then leBytes 4 (f.forcedAt dram t)
  else leBytes 4 (waitOver dram t (t - f.waitFrom))

/-- PERIOD_DUTY: PERIOD and the four DUTY words; its reset value 0 until one of them is committed (Table 6.1; DESIGN CHOICE, log
entry 81). -/
def Chip.periodDuty (c : Chip) (k : Nat) : List Byte :=
  if (2 :: [20, 21, 22, 23]).all (fun a => c.atReset tyGroup k a) then zeros 20
  else c.attr tyGroup k 2 ++ [20, 21, 22, 23].flatMap (fun x => c.attr tyGroup k x)

/-- Attributes whose value the block itself holds: `none` where the attribute table holds it. -/
def Chip.liveAttr (c : Chip) (ty i a : Nat) : Option (List Byte) :=
  let w := fun n => some (leBytes 4 n)
  if ty == tyDevice then
    if within 0x300 0x305 a then some (c.foldS.reg false c.clk.now (a - 0x300))
    else if within 0x308 0x30D a then some (c.foldD.reg true c.clk.now (a - 0x308))
    else if a == 0xB00 then w c.power.hswCfg.toNat
    else none
  else if ty == tyPort then
    if a == 18 then w (c.portStatus i)
    else if a == 19 then w (c.port i).fault.toNat
    else if a == 20 then some (leBytes 4 (c.port i).inA.edges.toNat ++ leBytes 4 (c.port i).inB.edges.toNat)
    else if a == 21 then w (c.port i).periodA.toNat
    else none
  else if ty == tySeq then
    if a == 5 then w (Tbl.get dWord0 c.sampler.results i).toNat
    else if a == 6 then w (c.seqStatus i)
    else if a == 7 then w (c.seq i).passes.toNat
    else if a == 8 then w (c.seq i).lastPass.toNat
    else none
  else if ty == tyGroup then
    if a == 5 then some (c.periodDuty i)
    else if a == 6 then w (c.groupStatus i)
    else none
  else if ty == tyBridge then
    if a == 4 then w (c.bridgeStatus i) else if a == 5 then w (c.bridge i).total.toNat else none
  else if ty == tyDamper then
    if a == 15 then w (c.dmpStatus i) else if within 16 19 a then some (c.motorAttr i a) else none
  else if ty == tyFan then (if a == 13 then w (c.fanStatus i) else none)
  else if ty == tyValve then
    if a == 11 then w (c.vlvStatus i) else if within 28 31 a then some (c.motorAttr i (a - 12)) else none
  else if ty == tyLoop then
    if a == 9 then w (c.loopState i)
    else if a == 10 then w (c.loop i).starved.toNat
    else if a == 11 then w (c.satTime i)
    else if a == 12 then w (c.satRun i)
    else if a == 13 then w (c.loop i).lastLat.toNat
    else if a == 14 then w (c.loop i).maxLat.toNat
    else none
  else if ty == tyZone then
    if a == 16 then w (c.zoneState i)
    else if a == 17 then w (unsigned 32 (c.zone i).residual)
    else if a == 18 then
      some ((List.range (c.zoneNodes i)).flatMap (fun k => leBytes 4 (unsigned 32 ((c.zone i).x.getD k 0))))
    else if a == 19 then some (c.fitRow i)
    else if a == 20 then some (leBytes 4 (c.zone i).fitUsed.toNat ++ leBytes 4 (c.zone i).fitAdopted.toNat ++ leBytes 4 (c.zone i).fitRms)
    else none
  else if ty == tySchedule then (if a == 2 then some (leBytes 8 (Tbl.get dZero c.almanac.last i)) else none)
  else if ty == tyClock then (if a == 6 then some (Tbl.getRun dByte0 c.rtc.bkp 0x34 12) else none)
  else if ty == tyLink then
    if a == 5 then w (c.linkStat i) else if a == 6 then some (leBytes 8 (c.link i).peerUid) else none
  else if ty == tyRoute then
    if a == 3 then w (c.rtStatus i) else if a == 4 then w (c.rtBound i) else if a == 5 then some (c.rtPath i) else none
  else if ty == tyStream then
    if a == 4 then w (c.strStatus i) else if a == 5 then w (c.stream i).count.toNat else none
  else if ty == tyCan then
    if a == 32 then w (c.canStat i) else if a == 33 then some (leBytes 1 (c.canOf i).tdcMeas) else none
  else if ty == tyPanel then (if a == 11 then w (c.panelStat i) else none)
  else if ty == tyThermal then
    if a == 1 then w c.thmStat
    else if a == 2 then w (unsigned 32 c.thermal.est)
    else if a == 3 then some c.thmSites
    else if a == 4 then w (unsigned 32 (q16 c.thermal.base))
    else if a == 5 then w (unsigned 32 c.thermal.peak)
    else if a == 6 then some (leBytes 2 c.thermal.budget)
    else if a == 7 then w c.thermal.steps.toNat
    else none
  else none

/-- The value of an attribute, as OBJ_GET returns it. -/
def Chip.readAttr (c : Chip) (ty i a : Nat) : List Byte := (c.liveAttr ty i a).getD (c.attr ty i a)

/-- An attribute record (Table 2.12). -/
def attrRecord (a : Nat) (v : List Byte) : List Byte :=
  leBytes 2 a ++ leBytes 2 v.length ++ v ++ zeros (recordLen v.length - 4 - v.length)

/-- The first of the requested attributes that the type does not define, or whose record would not fit a reply (R75). -/
def getBad (v ty i : Nat) : Nat → Nat → List Nat → Option (Nat × Nat)
  | _, _, [] => none
  | k, used, a :: rest =>
    match attrDef v ty i a with
    | none => some (stBadParam, 20 + 2 * k)
    | some _ => getBad v ty i (k + 1) used rest

/-- The first attribute whose largest record would not fit a reply payload of 4 080 bytes. -/
def getLong (v ty i : Nat) : Nat → Nat → List Nat → Option (Nat × Nat)
  | _, _, [] => none
  | k, used, a :: rest =>
    let used1 := used + getReplyLen v ty i [a]
    if 4080 < used1 then some (stBadLength, 20 + 2 * k) else getLong v ty i (k + 1) used1 rest

/-- OBJ_GET (R75). -/
def bodyObjGet (k : Cmd) (c : Chip) : Res :=
  let v := c.fuses.variant
  let n := fld k.payload 0 2
  let attrs := getList k.payload
  if k.payload.length < 4 || !within 1 64 n || k.payload.length != 4 + 2 * n then .badLength c
  else if !zeroAt k.payload 2 2 then .badParam 2 c
  else match getBad v k.ty k.inst 0 4 attrs, getLong v k.ty k.inst 0 4 attrs with
    | some (st, o), _ => .err st o c
    | none, some (st, o) => .err st o c
    | none, none => .okWith (attrs.flatMap (fun a => attrRecord a (c.readAttr k.ty k.inst a))) c

/-! ### Attribute records -/

/-- Attributes that a write of 0 restarts, and that take no other value (R562). -/
def restartOnly (ty a : Nat) : Bool :=
  (ty == tyDevice && (a == 0x305 || a == 0x30D)) || (ty == tyLoop && a == 14) || (ty == tyThermal && a == 5)

/-- One record at offset `pos` of a payload: its attribute and value, or the failing status and ERROFS (R75, R562).  PAD bytes
are not looked at (DESIGN CHOICE, log entry 73: Table 2.12 has them zero and no rule refuses others). -/
def takeRecord (v ty i pos : Nat) (p : List Byte) : Sum (Nat × Nat) (Nat × List Byte) :=
  let a := fld p pos 2
  let n := fld p (pos + 2) 2
  let val := slice p (pos + 4) n
  if p.length < pos + 4 then .inl (stBadLength, 18 + pos)
  else match attrDef v ty i a with
    | none => .inl (stBadParam, 16 + pos)
    | some d =>
      if d.access == .ro then .inl (stBadParam, 16 + pos)
      else if 1024 < n || !within d.lo d.hi n || p.length < pos + recordLen n then .inl (stBadLength, 18 + pos)
      else if restartOnly ty a && leNat val != 0 then .inl (stBadParam, 20 + pos)
      else .inr (a, val)

/-- All records of a payload from offset `pos` on. -/
def takeRecords (v ty i : Nat) (p : List Byte) : Nat → Nat → Sum (Nat × Nat) (List (Nat × List Byte))
  | 0, _ => .inr []
  | fuel + 1, pos =>
    if p.length ≤ pos then .inr []
    else match takeRecord v ty i pos p with
      | .inl e => .inl e
      | .inr (a, val) =>
        match takeRecords v ty i p fuel (pos + recordLen val.length) with
        | .inl e => .inl e
        | .inr rest => .inr ((a, val) :: rest)

/-- PERIOD_DUTY stands for PERIOD and the four DUTY words (R206). -/
def splitRecord (ty : Nat) (r : Nat × List Byte) : List (Nat × List Byte) :=
  if ty == tyGroup && r.1 == 5 then
    (2, slice r.2 0 4) :: [0, 1, 2, 3].map (fun i => (20 + i, slice r.2 (4 + 4 * i) 4))
  else [r]

/-- Is an attribute one whose shorter record writes entries from the start of its chunk (R250)? -/
def isChunk (ty a : Nat) : Bool := ty == tyLoop && (within 0x100 0x103 a || within 0x200 0x207 a || within 0x210 0x217 a)

/-- One change of an attribute. -/
structure Change where
  hnd : Nat
  attr : Nat
  value : List Byte
  deriving DecidableEq, Repr

def Change.ty (x : Change) : Nat := handleTy x.hnd
def Change.inst (x : Change) : Nat := handleInst x.hnd

/-- A creation or deletion of an instance. -/
structure Life where
  hnd : Nat
  create : Bool
  deriving DecidableEq, Repr

/-- The value that an attribute has after a record: a chunk keeps the entries that the record does not reach. -/
def recordValue (ty a : Nat) (old new : List Byte) : List Byte :=
  if isChunk ty a then new ++ old.drop new.length else new

/-- Forget the attributes of an instance. -/
def Chip.dropAttrs (hnd : Nat) (c : Chip) : Chip :=
  { c with attrs := Tbl.dropRange c.attrs (hnd * 65536) (hnd * 65536 + 65536) }

/-- Make an instance exist, or no longer exist, its attributes at their reset values (R556). -/
def Chip.applyLife (l : Life) (c : Chip) : Chip :=
  { c.dropAttrs l.hnd with existing := Tbl.set dFalse c.existing l.hnd l.create }

/-- Write a change into the attribute table. -/
def Chip.applyChange (x : Change) (c : Chip) : Chip :=
  c.setAttr x.ty x.inst x.attr (recordValue x.ty x.attr (c.attr x.ty x.inst x.attr) x.value)

/-- Is an attribute write-1-to-clear? -/
def Chip.isW1C (c : Chip) (x : Change) : Bool :=
  match attrDef c.fuses.variant x.ty x.inst x.attr with
  | some d => d.access == .w1c
  | none => false

/-- The module as it would stand with a set of changes made. -/
def Chip.tentative (lives : List Life) (xs : List Change) (c : Chip) : Chip :=
  let c1 := lives.foldl (fun c l => c.applyLife l) c
  xs.foldl (fun c x => if c.isW1C x || restartOnly x.ty x.attr then c else c.applyChange x) c1

/-- A record's own rules: reserved bits of a W1C attribute (R21), and whole words within NODE_COUNT or COEF_COUNT (R250). -/
def Chip.recordOk (t : Chip) (x : Change) : Bool :=
  let w := leNat x.value
  let words := fun base count => x.value.length % 8 == 0 && decide ((x.attr - base) * 128 + x.value.length / 8 ≤ count)
  if x.ty == tyPort && x.attr == 19 then bits w 20 12 == 0
  else if x.ty == tyGroup && x.attr == 6 then bits w 7 1 == 0 && bits w 10 2 == 0 && bits w 16 16 == 0
  else if x.ty == tyDevice && (x.attr == 0x302 || x.attr == 0x30A) then bits w 5 2 == 0 && bits w 16 16 == 0
  else if x.ty == tyLoop && within 0x100 0x103 x.attr then words 0x100 (t.attrN tyLoop x.inst 5)
  else if x.ty == tyLoop && within 0x200 0x207 x.attr then words 0x200 (t.attrN tyLoop x.inst 7)
  else if x.ty == tyLoop && within 0x210 0x217 x.attr then words 0x210 (t.attrN tyLoop x.inst 7)
  else true

/-- Insert a number into an ascending list without repeats. -/
def insertAsc (x : Nat) : List Nat → List Nat
  | [] => [x]
  | y :: ys => if x < y then x :: y :: ys else if x == y then y :: ys else y :: insertAsc x ys

/-- The objects that a set of changes touches, in ascending handle order. -/
def touched (lives : List Life) (xs : List Change) : List Nat :=
  (lives.map (·.hnd) ++ xs.map (·.hnd)).foldl (fun s h => insertAsc h s) []

/-- The checks of a set of changes: records, own values, then the set as a whole (R78, R148). -/
def Chip.changeChecks (c : Chip) (lives : List Life) (xs : List Change) : Verdict :=
  let t := c.tentative lives xs
  firstBad [
    (xs.find? (fun x => !t.recordOk x)).map (fun x => (stBadParam, x.hnd)),
    (touched lives xs).findSome? (fun h => c.ownCheck t h),
    c.setChecks t]

/-! ### What a commit does in the blocks (R79) -/

/-- The groups forced safe on the loss of the host heartbeat. -/
def Chip.safeMask (c : Chip) : List Nat :=
  (List.range (groupCount c.fuses.variant)).filter (fun g => bit (c.attrN tyDevice 0 0x702) (8 + g))

/-- The host heartbeat is lost (R455). -/
def Chip.loseHeartbeat (c : Chip) : Chip :=
  let p := bits (c.attrN tyDevice 0 0x702) 0 8
  let gs := c.safeMask
  let c1 : Chip := { c with dogs := { c.dogs with hbLost := true } }
  ((gs.foldl (fun c g => c.forceSafe g 3) c1).bite 20).fire 115 (p + 256 * (gs.map (2 ^ ·)).sum)

/-- A committed HB_CFG (R455): counted from the last HEARTBEAT. -/
def Chip.heartbeatCommitted (oldPeriod : Nat) (c : Chip) : Chip :=
  let p := bits (c.attrN tyDevice 0 0x702) 0 8
  if p == 0 then { c with dogs := { c.dogs with hbArmed := false, hbLost := false } }
  else if oldPeriod == 0 then c
  else if c.dogs.hbArmed && !c.dogs.hbLost && decide (c.dogs.lastBeat + sec p ≤ c.clk.now) then c.loseHeartbeat
  else c

/-- A write of a fold arbiter's register `k` at instant `t`: a new NTH goes on from the grants counted since the last every-Nth
grant (R115), and a write of MAXWAIT restarts it (R562). -/
def FoldSt.write (f : FoldSt) (dram : Bool) (t k : Nat) (v : List Byte) : FoldSt :=
  if k == 0 then
    { f with
      ctl := BitVec.ofNat 32 (leNat v), since := t, grants := f.grantsAt dram t, forced := f.forcedAt dram t
      rest := f.runAt dram t % f.nth }
  else if k == 1 then { f with dog := BitVec.ofNat 32 (leNat v) }
  else if k == 2 then { f with bitten := f.bitten && !bit (leNat v) 7 }
  else { f with waitFrom := t }

/-- Changes that the block itself holds, and those that a write clears or restarts; `none` where the attribute table takes the
change. -/
def Chip.liveChange (x : Change) (c : Chip) : Option Chip :=
  let w := leNat x.value
  if x.ty == tyDevice then
    if within 0x300 0x305 x.attr then some { c with foldS := c.foldS.write false c.clk.now (x.attr - 0x300) x.value }
    else if within 0x308 0x30D x.attr then some { c with foldD := c.foldD.write true c.clk.now (x.attr - 0x308) x.value }
    else if x.attr == 0xB00 then some (c.setPower (fun p => { p with hswCfg := BitVec.ofNat 32 w }))
    else none
  else if x.ty == tyPort then (if x.attr == 19 then some (c.clearPortFault x.inst w) else none)
  else if x.ty == tyGroup then (if x.attr == 6 then some (c.clearGroupStatus x.inst w) else none)
  else if x.ty == tyLoop then (if x.attr == 14 then some (c.setLoop x.inst { c.loop x.inst with maxLat := 0 }) else none)
  else if x.ty == tyClock then
    if x.attr == 6 then some (c.setRtc (fun r => { r with bkp := Tbl.setRun dByte0 r.bkp 0x34 x.value })) else none
  else if x.ty == tyThermal then
    if x.attr == 5 then some (c.setThermal (fun t => { t with peak := 0 }))
    else if x.attr == 6 then some (c.setBudget w)
    else none
  else if x.ty == tyEvent then some (c.writeRoute x.inst w)
  else none

/-- The module with the attributes and instances of another. -/
def Chip.withAttrs (old c : Chip) : Chip := { c with attrs := old.attrs, existing := old.existing }

/-- Run an operation under the old attributes (what a commit ends, it ends as it was). -/
def Chip.underOld (old : Chip) (f : Chip → Chip) (c : Chip) : Chip := c.withAttrs (f (old.withAttrs c))

/-- A port after a commit: a MODE change goes through SETTLING; new output sources are judged anew (R135), and so are the inputs
under a new THRESH; a shed port that draws no VACT current any more leaves SHED (R146, R149). -/
def Chip.portCommitted (old : Chip) (n : Nat) (c : Chip) : Chip :=
  let c1 := if old.attr tyPort n 12 == c.attr tyPort n 12 && old.attr tyPort n 13 == c.attr tyPort n 13 then c
    else c.setPort n { c.port n with staleA := none, staleB := none }
  if old.portMode n != c1.portMode n then (((c1.changeMode n).dropZeros (2 * n)).dropZeros (2 * n + 1)).checkCaptures
  else
    let c2 := if old.attr tyPort n 2 == c1.attr tyPort n 2 then c1 else c1.judgeInputs n
    if old.portShed n && !c2.usesVact n then (c2.setPort n { c2.port n with shed := false }).settle n (ms 2)
    else if !old.portShed n && c2.portShed n then
      c2.setPort n { c2.port n with offAt := if (c2.port n).fit then c2.clk.now else (c2.port n).offAt }
    else c2

/-- A commit changed a sequence: its settings wait for the next pass start; AUTOSTART arms it (R158, R163). -/
def Chip.seqChanged (old : Chip) (h : Nat) (c : Chip) : Chip :=
  if old.seqSet h == c.seqSet h then c
  else
    let c1 := c.noteSeq (old.seqSet h) h
    if seHead (c.seqCtl h) && seAutostart (c.seqCtl h) && !(c.seq h).armed then c1.armSeq h else c1

/-- A commit changed a sequence entry: the sequences that it belonged to or belongs to change. -/
def Chip.seqCommitted (old : Chip) (e : Nat) (c : Chip) : Chip :=
  let holds := fun (x : Chip) h => seHead (x.seqCtl h) && (x.seqEntries h).contains e
  ((List.range 128).filter (fun h => holds old h || holds c h)).foldl (fun x h => old.seqChanged h x) c

/-- A positioned motor after a commit, `was` and `is_` saying whether the damper or valve drives it: what becomes bound starts
anew (R233), what is no longer bound stops. -/
def Chip.motorCommitted (old : Chip) (n : Nat) (was is_ : Bool) (c : Chip) : Chip :=
  if was == is_ then c
  else
    let ended := old.underOld (fun c => (c.setMotor n { c.motor n with intervalDue := false }).endMove n 2) c
    if is_ then ended.bindMotor n
    else if c.motorBound n then c
    else ended.setMotor n (dMotor n)

def Chip.damperCommitted (old : Chip) (n : Nat) (c : Chip) : Chip :=
  old.motorCommitted n (old.damperBound n) (c.damperBound n) c

def Chip.valveCommitted (old : Chip) (n : Nat) (c : Chip) : Chip :=
  let c1 := if old.valveBound n == c.valveBound n && old.valveKind n == c.valveKind n then c
    else c.setValve n { dValve n with zeroSince := (c.valve n).zeroFrom c.clk.now }
  old.motorCommitted n (old.rippleValve n) (c1.rippleValve n) c1

def Chip.fanCommitted (old : Chip) (n : Nat) (c : Chip) : Chip :=
  if old.fanBound n == c.fanBound n then c else c.setFan n (dFan n)

/-- A zone after a commit (R279, R282, R285, R289, R292). -/
def Chip.zoneCommitted (old : Chip) (z : Nat) (c : Chip) : Chip :=
  let same := fun a => old.attr tyZone z a == c.attr tyZone z a
  let model := !(same 7 && same 8)
  let nn := old.zoneNodes z != c.zoneNodes z
  let cleared := (old.zonePlaus z && !c.zonePlaus z) || (old.zoneSubst z && !c.zoneSubst z)
  if !c.zoneEn z then (if old.zoneEn z then old.underOld (fun c => c.disableZone z) c else c)
  else if !old.zoneEn z then c.enableZone z
  else
    let reinits := model || nn || !(same 9 && same 6 && same 3)
    let c1 := if reinits || cleared then old.underOld (fun c => c.endSuspect z 2 false) c else c
    let c2 := if nn then
        let a := c1.setZone z { c1.zone z with adopted := none }
        if (a.zone z).fit.isSome then a.startFit z else a
      else c1
    let c3 := if reinits then c2.reinit z else c2
    if !c3.zonePres z then c3 else if !old.zonePres z then c3.startPresence z
    else if same 13 then c3 else old.sourcesChanged z c3

/-- A change of the schedules' tables asks for an evaluation with reason 5 (R324). -/
def Chip.schedCommitted (c : Chip) : Chip := { c with almanac := { c.almanac with evalDue := some 5 } }

/-- The DEVICE object after a commit: a new heartbeat setting, and a new LSA where NODE_REQ or BW_PRIO changed. -/
def Chip.deviceCommitted (old : Chip) (c : Chip) : Chip :=
  let same := fun a => old.attr tyDevice 0 a == c.attr tyDevice 0 a
  let c1 := if same 0x702 then c else c.heartbeatCommitted (bits (old.attrN tyDevice 0 0x702) 0 8)
  if same 0x900 && same 0x901 then c1 else c1.floodOwn.converge

/-- One object after a commit that changed it; `old` is the module before. -/
def Chip.objCommitted (old : Chip) (hnd : Nat) (c : Chip) : Chip :=
  let ty := handleTy hnd
  let i := handleInst hnd
  if ty == tyDevice then old.deviceCommitted c
  else if ty == tyPort then old.portCommitted i c
  else if ty == tySeq then old.seqCommitted i c
  else if ty == tyDamper then old.damperCommitted i c
  else if ty == tyFan then old.fanCommitted i c
  else if ty == tyValve then old.valveCommitted i c
  else if ty == tyZone then old.zoneCommitted i c
  else if ty == tySchedule || ty == tyClock then c.schedCommitted
  else if ty == tyLink then c.linkCommitted i (old.linkCfg i) (old.attrN tyLink i 3)
  else if ty == tyRoute then c.updateRoute i
  else if ty == tyStream then
    if Tbl.get dFalse c.existing hnd then (old.withAttrs c).streamCommitted i c else c
  else if ty == tyCan then
    if (c.canOf i).started && (old.attr tyCan i 8 != c.attr tyCan i 8 || [16, 17, 18, 19].any (fun a =>
      old.attr tyCan i a != c.attr tyCan i a)) then c.startObjs i else c
  else c

/-- What the deletion of an instance ends, under its old attributes (R556). -/
def Chip.endInstance (hnd : Nat) (c : Chip) : Chip :=
  let ty := handleTy hnd
  let i := handleInst hnd
  if ty == tyLoop then
    let c1 := c.disableLoop i
    { c1 with loops := Tbl.erase c1.loops i }
  else if ty == tyZone then
    let c1 := c.disableZone i
    { c1 with zones := Tbl.erase c1.zones i }
  else if ty == tySchedule then
    { c with almanac := { c.almanac with
      last := Tbl.erase c.almanac.last i, evalDue := some 5
      early := c.almanac.early.map (fun x => (x.1, x.2.filter (fun y => y.1 != i))) } }
  else if ty == tyRoute then c.setFabric (fun f => { f with routePaths := Tbl.erase f.routePaths i })
  else if ty == tyStream then
    let c1 := c.closeStream i
    { c1 with streams := Tbl.erase c1.streams i }
  else c

/-- The groups whose shadows a set of changes writes (R205). -/
def shadowGroups (xs : List Change) : List Nat :=
  (List.range 8).filter (fun k => xs.any (fun x =>
    (x.ty == tyGroup && x.inst == k && x.attr != 6) || (x.ty == tyBridge && groupOf x.inst == k)))

/-- The channels of group `k` whose DUTY a set of changes carries (R206). -/
def freshDuties (k : Nat) (xs : List Change) : List Nat :=
  [0, 1, 2, 3].filter (fun i => xs.any (fun x => x.ty == tyGroup && x.inst == k && x.attr == 20 + i))

/-- The zones whose MODEL_A or MODEL_B a set of changes writes (R289). -/
def modelZones (xs : List Change) : List Nat :=
  (List.range 64).filter (fun z => xs.any (fun x => x.ty == tyZone && x.inst == z && (x.attr == 7 || x.attr == 8)))

/-- Make a checked set of changes in one step (R79): instances, attributes, generations, then each block's part. -/
def Chip.makeChanges (lives : List Life) (xs : List Change) (old : Chip) : Chip :=
  let c1 := lives.foldl (fun c l => (if l.create then c else c.endInstance l.hnd).applyLife l) old
  let c2 := xs.foldl (fun c x => match c.liveChange x with
    | some d => d
    | none => c.applyChange x) c1
  let hs := touched lives xs
  let c3 := hs.foldl (fun c h => c.bumpGen h) c2
  let c4 := hs.foldl (fun c h => old.objCommitted h c) ((modelZones xs).foldl (fun c z => c.modelWritten z) c3)
  (shadowGroups xs).foldl (fun c k => c.queueShadow k (freshDuties k xs)) c4

/-- A refusal with POWER_LIMIT fires E123 (R504). -/
def Chip.refusedWith (k : Cmd) (status : Nat) (c : Chip) : Chip :=
  if status == stPowerLimit then c.powerLimit 2 (k.family + 256 * k.opcode) else c

/-- Is an image load verifying or switching (R80)? -/
def Chip.imageBusy (c : Chip) : Bool := c.image.loading.isSome

/-- Is a status one of checks 11 and 12 of R69, which follow the checks of the values? -/
def lateStatus (status : Nat) : Bool :=
  status == stBusy || status == stNoResource || status == stQueueFull || status == stThermalLimit || status == stPowerLimit

/-! ### Commands -/

/-- OBJ_SET: a stage and commit of one object (R75, R80). -/
def bodyObjSet (k : Cmd) (c : Chip) : Res :=
  match takeRecords c.fuses.variant k.ty k.inst k.payload (k.payload.length + 1) 0 with
  | .inl (st, o) => .err st o c
  | .inr rs =>
    let xs := (rs.flatMap (splitRecord k.ty)).map (fun r => (⟨k.hnd, r.1, r.2⟩ : Change))
    if k.payload.isEmpty then .badLength c
    else match c.changeChecks [] xs with
      | some (st, _) =>
        if lateStatus st && c.imageBusy then .err stBusy noOfs c else .err st noOfs (c.refusedWith k st)
      | none => if c.imageBusy then .err stBusy noOfs c else .ok (c.makeChanges [] xs)

def Chip.stagedOf (c : Chip) (ctx : Nat) : List Staged := Tbl.get dNil c.staged ctx
def Chip.livesOf (c : Chip) (ctx : Nat) : List StagedLife := Tbl.get dNil c.lives ctx

/-- Stage one record: it replaces the record of the same attribute; the object keeps the generation
first recorded (R77; DESIGN CHOICE, log entry 75: R77 does not say which stands when one session stages an object twice). -/
def stageOne (gen hnd : Nat) (s : List Staged) (r : Nat × List Byte) : List Staged :=
  let g := match s.find? (fun x => x.hnd == hnd) with
    | some x => x.gen
    | none => gen
  let old := match s.find? (fun x => x.hnd == hnd && x.attr == r.1) with
    | some x => x.value
    | none => []
  s.filter (fun x => !(x.hnd == hnd && x.attr == r.1)) ++ [⟨hnd, r.1, recordValue (handleTy hnd) r.1 old r.2, g⟩]

/-- OBJ_STAGE (R75–R77). -/
def bodyObjStage (k : Cmd) (c : Chip) : Res :=
  match takeRecords c.fuses.variant k.ty k.inst k.payload (k.payload.length + 1) 0 with
  | .inl (st, o) => .err st o c
  | .inr rs =>
    let s := (rs.flatMap (splitRecord k.ty)).foldl (stageOne (Tbl.get dZero c.gens k.hnd) k.hnd) (c.stagedOf k.ctx)
    let c1 := { c with staged := Tbl.set dNil c.staged k.ctx s }
    if k.payload.isEmpty then .badLength c
    else if c1.stagingFull k.ctx then .err stNoResource noOfs c
    else .ok c1

/-- The commit conflict of a staged set (R77, R78, R556): the first object whose generation has moved, or whose creation or
deletion no longer fits. -/
def Chip.conflict (c : Chip) (ctx : Nat) : Verdict :=
  let gone := fun l : StagedLife => Tbl.get dZero c.gens l.hnd != l.gen || Tbl.get dFalse c.existing l.hnd == l.create
  let moved := (c.stagedOf ctx).filter (fun x => Tbl.get dZero c.gens x.hnd != x.gen)
  let hs := ((c.livesOf ctx).filter gone).map (·.hnd) ++ moved.map (·.hnd)
  match hs with
  | [] => none
  | h :: rest => some (stBusy, rest.foldl min h)

/-- The first object of a set that belongs to the other side (R60). -/
def Chip.notOwned (c : Chip) (ctx : Nat) (hs : List Nat) : Verdict :=
  (hs.find? (fun h => c.ownerIsMgt h != isMgtCtx ctx)).map (fun h => (stNotOwner, h))

/-- OBJ_COMMIT (R77–R80). -/
def bodyObjCommit (k : Cmd) (c : Chip) : Res :=
  let lives := (c.livesOf k.ctx).map (fun l => (⟨l.hnd, l.create⟩ : Life))
  let xs := ((c.stagedOf k.ctx).filter (fun x => !lives.any (fun l => l.hnd == x.hnd && !l.create))).map
    (fun x => (⟨x.hnd, x.attr, x.value⟩ : Change))
  let hs := touched lives xs
  let reply := fun n h => leBytes 2 n ++ leBytes 4 h
  if k.payload.length != 4 then .badLength c
  else if 1 < fld k.payload 0 1 then .badParam 0 c
  else if !zeroAt k.payload 1 3 then .badParam 1 c
  else if c.imageBusy then .done stBusy noOfs (reply 0 0) c
  else match firstBad [c.conflict k.ctx, c.notOwned k.ctx hs, c.changeChecks lives xs] with
    | some (st, h) => .done st noOfs (reply 0 h) (c.refusedWith k st)
    | none =>
      if fld k.payload 0 1 == 1 then .okWith (reply 0 0) c
      else .okWith (reply hs.length 0) { c.makeChanges lives xs with
        staged := Tbl.set dNil c.staged k.ctx [], lives := Tbl.set dNil c.lives k.ctx [] }

/-- OBJ_DISCARD (R78). -/
def bodyObjDiscard (k : Cmd) (c : Chip) : Res :=
  if k.payload.length != 0 then .badLength c
  else .ok { c with staged := Tbl.set dNil c.staged k.ctx [], lives := Tbl.set dNil c.lives k.ctx [] }

/-- OBJ_CREATE (R556). -/
def bodyObjCreate (k : Cmd) (c : Chip) : Res :=
  let s := c.livesOf k.ctx
  if k.payload.length != 0 then .badLength c
  else if Tbl.get dFalse c.existing k.hnd || s.any (fun l => l.hnd == k.hnd && l.create) then .err stBadObject 8 c
  else .ok { c with lives := Tbl.set dNil c.lives k.ctx (s ++ [⟨k.hnd, true, Tbl.get dZero c.gens k.hnd⟩]) }

/-- OBJ_DELETE (R556): of an instance staged for creation, it takes that creation and what is staged for it away. -/
def bodyObjDelete (k : Cmd) (c : Chip) : Res :=
  let s := c.livesOf k.ctx
  if k.payload.length != 0 then .badLength c
  else if s.any (fun l => l.hnd == k.hnd && l.create) then
    .ok { c with
      lives := Tbl.set dNil c.lives k.ctx (s.filter (fun l => l.hnd != k.hnd))
      staged := Tbl.set dNil c.staged k.ctx ((c.stagedOf k.ctx).filter (fun x => x.hnd != k.hnd)) }
  else if !Tbl.get dFalse c.existing k.hnd || s.any (fun l => l.hnd == k.hnd) then .err stBadObject 8 c
  else .ok { c with lives := Tbl.set dNil c.lives k.ctx (s ++ [⟨k.hnd, false, Tbl.get dZero c.gens k.hnd⟩]) }

/-- OBJ_OWNER (R60, R88). -/
def bodyObjOwner (k : Cmd) (c : Chip) : Res :=
  let a := fld k.payload 0 1
  let h := canonHandle k.hnd
  let mgt := isMgtCtx k.ctx
  let reply := fun c : Chip => ([BitVec.ofNat 8 (b2n (c.ownerIsMgt h))] : List Byte)
  if k.payload.length != 1 then .badLength c
  else if 2 < a then .badParam 0 c
  else if a == 0 then .okWith (reply c) c
  else if !mgt && (a == 2 || c.ownerIsMgt h) then .err stNotOwner 8 c
  else
    let c1 := c.setOwner h (a == 2) mgt
    .okWith (reply c1) c1

/-- Handles of a type that OBJ_LIST gives (R559), in ascending instance order. -/
def Chip.listed (c : Chip) (ty : Nat) : List Nat :=
  if ty == tySignal then
    let sids := c.bindings.map (·.sid)
    ((List.range 4096).filter (fun s => sids.contains s)).map (fun s => handle tySignal (0x400000 + s))
  else ((List.range (instCount ty)).filter (fun i =>
    if isCreatable ty then Tbl.get dFalse c.existing (handle ty i) else objPresent c.fuses.variant ty i)).map (handle ty)

/-- The instance number by which OBJ_LIST counts a handle: a local slot's S-ID, else the instance. -/
def listIndex (h : Nat) : Nat := if handleTy h == tySignal then bits h 0 12 else handleInst h

/-- OBJ_LIST (R559). -/
def bodyObjList (k : Cmd) (c : Chip) : Res :=
  let ty := fld k.payload 0 1
  let all := c.listed ty
  let some_ := (all.filter (fun h => decide (fld k.payload 2 2 ≤ listIndex h))).take 1018
  if k.payload.length != 4 then .badLength c
  else if ty == 0 || 0x17 < ty then .badParam 0 c
  else if !zeroAt k.payload 1 1 then .badParam 1 c
  else .okWith (leBytes 2 all.length ++ leBytes 2 some_.length ++ some_.flatMap (leBytes 4)) c

/-! ### Meanings -/

/-- OBJ_GET (R75). -/
def execObjGet (ctx tag : Nat) (s : State) : Host.Outcome State Fault Refusal :=
  .next { s with chip := s.chip.runCmd 1 0 bodyObjGet ctx tag }

/-- OBJ_SET (R75). -/
def execObjSet (ctx tag : Nat) (s : State) : Host.Outcome State Fault Refusal :=
  .next { s with chip := s.chip.runCmd 1 1 bodyObjSet ctx tag }

/-- OBJ_STAGE (R76). -/
def execObjStage (ctx tag : Nat) (s : State) : Host.Outcome State Fault Refusal :=
  .next { s with chip := s.chip.runCmd 1 2 bodyObjStage ctx tag }

/-- OBJ_COMMIT (R78). -/
def execObjCommit (ctx tag : Nat) (s : State) : Host.Outcome State Fault Refusal :=
  .next { s with chip := s.chip.runCmd 1 3 bodyObjCommit ctx tag }

/-- OBJ_DISCARD (R78). -/
def execObjDiscard (ctx tag : Nat) (s : State) : Host.Outcome State Fault Refusal :=
  .next { s with chip := s.chip.runCmd 1 4 bodyObjDiscard ctx tag }

/-- OBJ_CREATE (R556). -/
def execObjCreate (ctx tag : Nat) (s : State) : Host.Outcome State Fault Refusal :=
  .next { s with chip := s.chip.runCmd 1 5 bodyObjCreate ctx tag }

/-- OBJ_DELETE (R556). -/
def execObjDelete (ctx tag : Nat) (s : State) : Host.Outcome State Fault Refusal :=
  .next { s with chip := s.chip.runCmd 1 6 bodyObjDelete ctx tag }

/-- OBJ_OWNER (R88). -/
def execObjOwner (ctx tag : Nat) (s : State) : Host.Outcome State Fault Refusal :=
  .next { s with chip := s.chip.runCmd 1 7 bodyObjOwner ctx tag }

/-- OBJ_LIST (R559). -/
def execObjList (ctx tag : Nat) (s : State) : Host.Outcome State Fault Refusal :=
  .next { s with chip := s.chip.runCmd 1 8 bodyObjList ctx tag }

end Sys2Proof.Machine
end

