-- ==== Sys2Proof/Machine/Image.lean ====
section
/-! DEFINITION. The Yelist image (spec/15, R478–R487; spec/13, R420–R421; R482): its form, its verification, how it is written and
loaded, and how it is applied. -/

namespace Sys2Proof.Machine

/-! ### The slots -/

/-- Flash offset of an image slot (R478). -/
def slotBase (s : Bool) : Nat := if s then 0xB00000 else 0x800000

/-- The most bytes of an image. -/
def slotSize : Nat := 3145728

/-- Bytes of an image slot. -/
def Chip.slotBytes (c : Chip) (s : Bool) (off n : Nat) : List Byte := Tbl.getRun dByteFF c.flash (slotBase s + off) n

/-- The image that a slot holds, by the LENGTH of its header; a LENGTH out of range gives the header alone. -/
def Chip.slotImage (c : Chip) (s : Bool) : List Byte :=
  let n := leNat (c.slotBytes s 8 4)
  c.slotBytes s 0 (if n ≤ slotSize then max 256 n else 256)

/-- Has the flash from `lo` to `hi` met an uncorrectable error in this boot or this load (R509)? -/
def Chip.flashBad (c : Chip) (lo hi : Nat) : Bool := c.image.badFlash.any (fun a => decide (lo ≤ a) && decide (a < hi))

/-! ### Verification -/

/-- Why an image fails: REASON, SECT, the status, and FIRST_BAD (R487). -/
structure ImageFail where
  reason : Nat
  sect : Nat
  status : Nat
  firstBad : Nat
  deriving DecidableEq, Repr

/-- A failure that concerns no object. -/
def failAt (reason sect : Nat) : ImageFail := ⟨reason, sect, if reason == 10 then stBusy else stBadParam, 0⟩

/-- The header is valid (Table 15.12). -/
def imageHeaderOk (b : List Byte) : Bool :=
  fld b 0 4 == 0x54534C59 && fld b 4 2 == 1 && within 1 64 (fld b 6 2) && within 256 slotSize (fld b 8 4) && fld b 8 4 % 4 == 0
    && decide (1 ≤ fld b 12 4) && bits (fld b 19 1) 6 2 == 0 && zeroAt b 28 4 && zeroAt b 112 16
    && decide (128 + 16 * fld b 6 2 ≤ fld b 8 4 - 64)

/-- A directory entry (Table 15.13). -/
structure Section where
  type : Nat
  inst : Nat
  offset : Nat
  len : Nat
  crc : Nat
  deriving DecidableEq, Repr

/-- The directory of an image. -/
def directory (b : List Byte) : List Section :=
  (List.range (fld b 6 2)).map (fun i =>
    let e := slice b (128 + 16 * i) 16
    ⟨fld e 0 2, fld e 2 2, fld e 4 4, fld e 8 4, fld e 12 4⟩)

/-- Bytes of a section. -/
def Section.data (s : Section) (b : List Byte) : List Byte := slice b s.offset s.len

/-- A section has a known TYPE and INST, and lies clear of the header, the directory and the signature (R479, R480). -/
def Section.placed (s : Section) (b : List Byte) : Bool :=
  within 1 5 s.type && (if s.type == 3 then decide (s.inst ≤ 3) else if s.type == 4 then decide (s.inst ≤ 7) else s.inst == 0)
    && s.offset % 4 == 0 && decide (128 + 16 * fld b 6 2 ≤ s.offset) && decide (s.offset + s.len ≤ fld b 8 4 - 64)

/-- Two sections share TYPE and INST, or overlap. -/
def sectionsClash (a b : Section) : Bool :=
  (a.type == b.type && a.inst == b.inst) || overlap a.offset a.len b.offset b.len

/-- A calendar section is a CALENDAR_SET payload (R318, R480). -/
def calendarOk (p : List Byte) : Bool :=
  decide (4 ≤ p.length) && decide (fld p 2 1 ≤ 16) && p.length == 4 + 8 * fld p 2 1 && (calendarBad p).isNone

/-- Sum of the frames of a sequence: + less −. -/
def seqSum (t : List Byte) (q : Nat) : Int :=
  ((List.range (min 64 (seqLen t q))).map (fun k =>
    if seqCode t q k == 1 then (1 : Int) else if seqCode t q k == 2 then -1 else 0)).sum

/-- A sequence of a waveform table is valid (Table 13.10, R421). -/
def waveSeqOk (t : List Byte) (q : Nat) : Bool :=
  decide (seqLen t q ≤ 64) && seqNet t q == seqSum t q && zeroAt t (seqOffset q + 2) 2
    && ((List.range 64).drop (seqLen t q)).all (fun k => seqCode t q k == 0)

/-- An index entry of a waveform table is valid (R421). -/
def waveIndexOk (t : List Byte) (mode band prev next : Nat) : Bool :=
  let e := fld t (448 + 4 * (((mode * 12 + band) * 16 + prev) * 16 + next)) 4
  if waveMode t mode && decide (band < waveBands t) then
    decide (bits e 0 12 < fld t 6 2) && decide (bits e 12 12 < fld t 6 2) && bits e 24 8 == 0
  else e == 0

/-- A clearing entry is valid (R421). -/
def waveClearOk (t : List Byte) (band next : Nat) : Bool :=
  let e := fld t (64 + 2 * (band * 16 + next)) 2
  decide (e < fld t 6 2) && (decide (waveBands t ≤ band) || e != 0)

/-- Are the band bounds in order, and the rest 0? -/
def waveBoundsOk (t : List Byte) : Bool :=
  (List.range 13).all (fun i =>
    if i < waveBands t then decide (waveBound t i < waveBound t (i + 1)) else i == waveBands t || waveBound t i == 0)

/-- A waveform table verifies (R421, Table 13.8). -/
def waveOk (t : List Byte) : Bool :=
  let n := fld t 6 2
  fld t 0 4 == 0x5446574A && fld t 4 2 == 1 && within 1 4096 n && fld t 8 4 == 49600 + 20 * n && t.length == fld t 8 4
    && fld t 60 4 == crc32 (t.take 60 ++ zeros 4 ++ t.drop 64) && within 1 12 (waveBands t) && bits (fld t 13 1) 4 4 == 0
    && zeroAt t 14 2 && zeroAt t 29 3 && zeroAt t 48 12 && waveBoundsOk t && seqLen t 0 == 0
    && (List.range n).all (waveSeqOk t)
    && (List.range 12).all (fun b => (List.range 16).all (waveClearOk t b))
    && (List.range 4).all (fun m => (List.range 12).all (fun b => (List.range 16).all (fun p =>
      (List.range 16).all (waveIndexOk t m b p))))

/-- A font verifies (R482). -/
def fontOk (f : List Byte) : Bool :=
  within 8 64 (fontHeight f) && zeroAt f 1 3 && (List.range 96).all (fun i => within 1 64 (fld f (4 + i) 1))
    && f.length == 100 + ((List.range 96).map (glyphBytes f)).sum && decide (f.length ≤ 16384)

/-- The content of a section is valid, but for what the object set itself must pass (R480). -/
def Section.contentOk (s : Section) (b : List Byte) : Bool :=
  if s.type == 2 then calendarOk (s.data b)
  else if s.type == 3 then waveOk (s.data b)
  else if s.type == 4 then fontOk (s.data b)
  else true

/-- Index of the first section that fails a test. -/
def badSection (p : Section → Bool) (ss : List Section) : Option Nat :=
  (ss.zipIdx.find? (fun e => !p e.1)).map (·.2)

/-- The first section that clashes with one before it. -/
def clashing (ss : List Section) : Option Nat :=
  (ss.zipIdx.find? (fun e => (ss.take e.2).any (sectionsClash e.1))).map (·.2)

/-- Header, key, signature, directory and CRCs (Table 15.14, step 2). -/
def imageForm (b : List Byte) : Option ImageFail :=
  let n := fld b 8 4
  let ss := directory b
  if !imageHeaderOk b then some (failAt 1 0xFF)
  else if !keyDigests.contains (sha256 (slice b 32 64)) then some (failAt 2 0xFF)
  else if !ecdsaVerify (slice b 32 64) (sha256 (b.take (n - 64))) (slice b (n - 64) 64) then some (failAt 3 0xFF)
  else match badSection (fun s => s.placed b) ss, clashing ss, badSection (fun s => crc32 (s.data b) == s.crc) ss,
      badSection (fun s => s.contentOk b) ss with
    | some i, _, _, _ => some (failAt 5 i)
    | none, some i, _, _ => some (failAt 5 i)
    | none, none, some i, _ => some (failAt 4 i)
    | none, none, none, some i => some (failAt 5 i)
    | none, none, none, none => none

/-- FWMIN, VARMASK and UID (R483). -/
def Chip.imageFits (c : Chip) (b : List Byte) : Bool :=
  let v := match c.firmware.running with
    | some r => beNat (c.firmware.body r).version
    | none => 0
  decide (beNat (slice b 16 3) ≤ v) && bit (fld b 19 1) (basePart c.fuses.variant - 1)
    && (fld b 20 8 == 0 || fld b 20 8 == c.fuses.uid)

/-! ### The object set (R481) -/

/-- What an image's OBJECTS section asks for: instances, attribute records in order, and MAXAGE by slot. -/
structure ImageSet where
  lives : List Life
  changes : List Change
  ages : List (Nat × Nat)
  deriving DecidableEq, Repr

/-- Add one block to a set. -/
def addBlock (v hnd : Nat) (recs : List Byte) (s : ImageSet) : Sum (Nat × Nat) ImageSet :=
  let ty := handleTy hnd
  let i := handleInst hnd
  if ty == tySignal then
    if !bit hnd 22 || bit hnd 23 then .inl (stBadObject, hnd)
    else if recs.length != 8 || fld recs 0 2 != 1 || fld recs 2 2 != 2 then .inl (stBadParam, hnd)
    else .inr { s with ages := s.ages.filter (fun e => e.1 != bits hnd 0 12) ++ [(bits hnd 0 12, fld recs 4 2)] }
  else if ty == 0 || tySignal < ty || !decide (i < instCount ty) then .inl (stBadObject, hnd)
  else if !objPresent v ty i then .inl (stFusedOff, hnd)
  else match takeRecords v ty i recs (recs.length + 1) 0 with
    | .inl (st, _) => .inl (st, hnd)
    | .inr rs =>
      .inr { s with
        lives := if isCreatable ty && !s.lives.any (fun l => l.hnd == hnd) then s.lives ++ [⟨hnd, true⟩] else s.lives
        changes := s.changes ++ (rs.flatMap (splitRecord ty)).map (fun r => ⟨hnd, r.1, r.2⟩) }

/-- Read the blocks of an OBJECTS section: the set, or the failing status and object (0: a block that does not fit). -/
def readBlocks (v : Nat) (p : List Byte) : Nat → Nat → ImageSet → Sum (Nat × Nat) ImageSet
  | 0, _, s => .inr s
  | fuel + 1, pos, s =>
    let n := fld p (pos + 4) 4
    if p.length ≤ pos then .inr s
    else if p.length < pos + 8 || p.length < pos + 8 + n then .inl (stBadParam, 0)
    else match addBlock v (fld p pos 4) (slice p (pos + 8) n) s with
      | .inl e => .inl e
      | .inr s1 => readBlocks v p fuel (pos + 8 + n) s1

/-- The object set of an image; its section's index comes with a failure. -/
def imageSet (v : Nat) (b : List Byte) : Sum ImageFail ImageSet :=
  match (directory b).zipIdx.find? (fun e => e.1.type == 1) with
  | none => .inr ⟨[], [], []⟩
  | some (s, i) =>
    let p := s.data b
    match readBlocks v p (p.length + 1) 0 ⟨[], [], []⟩ with
    | .inl (st, h) => .inl (if h == 0 then failAt 5 i else ⟨8, 0xFF, st, h⟩)
    | .inr set => .inr set

/-- The sections of a type, by INST. -/
def sectionsOf (b : List Byte) (type : Nat) : Tbl (List Byte) :=
  ((directory b).filter (fun s => s.type == type)).foldl (fun t s => Tbl.set dNil t s.inst (s.data b)) []

/-- MAXAGE of every slot as an image gives it: 0 where it names none. -/
def Chip.setAges (ages : List (Nat × Nat)) (c : Chip) : Chip :=
  let plain := c.slots.foldl (fun t e => Tbl.set dSlot t e.1 { e.2 with maxage := 0 }) c.slots
  { c with slots := ages.foldl (fun t e => Tbl.modify dSlot t e.1 (fun s => { s with maxage := BitVec.ofNat _ e.2 })) plain }

/-- Attributes that keep their values when an image does not carry them: those of the always-on and backup domains. -/
def keptLive (ty a : Nat) : Bool := (ty == tyDevice && a == 0xB00) || (ty == tyThermal && a == 6) || (ty == tyClock && a == 6)

/-- Every loop has bank A active, and no swap waits: a load of an image leaves them so (R261). -/
def Chip.banksToA (c : Chip) : Chip :=
  { c with loops := c.loops.map (fun e => (e.1, { e.2 with bank := false, evalBank := false, swap := none, bumps := [] })) }

/-- The module as an image asks for: the image over reset values (R485). -/
def Chip.imageTarget (set : ImageSet) (b : List Byte) (c : Chip) : Chip :=
  let c1 : Chip :=
    { c with
      attrs := [], existing := []
      plate := { c.plate with tables := sectionsOf b 3, fonts := sectionsOf b 4 } }
  (c1.banksToA.tentative set.lives (set.changes.map (fun x => if x.ty == tyEvent then
    { x with value := leBytes 4 (fixRoute x.inst (leNat x.value)) } else x))).setAges set.ages

/-- The arbiter registers that return to their reset values where an image does not carry them. -/
def foldKeys : List Nat := [0x300, 0x301, 0x308, 0x309].map (fun a => attrKey tyDevice 0 a)

/-- A change that brings an attribute to its value in the target. -/
def Chip.changeTo (t : Chip) (key : Nat) : Change :=
  ⟨key / 65536, key % 65536, Tbl.get (dAttr t.fuses.variant) t.attrs key⟩

/-- The attribute records that a load writes: those whose value differs from the present one, and the records of an image that
clear or restart (R485). -/
def Chip.imageChanges (c t : Chip) (set : ImageSet) : List Change :=
  let keys := (c.attrs.map (·.1) ++ t.attrs.map (·.1) ++ foldKeys).foldl (fun s k => insertAsc k s) []
  let gone := fun x : Change => isCreatable x.ty && !Tbl.get dFalse t.existing x.hnd
  let named := fun x : Change => set.changes.any (fun y => y.hnd == x.hnd && y.attr == x.attr)
  (keys.map t.changeTo).filter (fun x => !gone x && (!keptLive x.ty x.attr || named x) && c.readAttr x.ty x.inst x.attr != x.value)
    ++ set.changes.filter (fun x => c.isW1C x || restartOnly x.ty x.attr)

/-- The kept attributes that an image names at their reset value, where they now hold another. -/
def Chip.keptChanges (c t : Chip) (set : ImageSet) : List Change :=
  (set.changes.filter (fun x => keptLive x.ty x.attr && !Tbl.has t.attrs (attrKey x.ty x.inst x.attr)
    && c.readAttr x.ty x.inst x.attr != x.value)).map (fun x => t.changeTo (attrKey x.ty x.inst x.attr))

/-- Instances that a load creates and deletes. -/
def Chip.imageLives (c t : Chip) : List Life :=
  ((c.existing.filter (fun e => e.2 && !Tbl.get dFalse t.existing e.1)).map (fun e => ⟨e.1, false⟩))
    ++ ((t.existing.filter (fun e => e.2 && !Tbl.get dFalse c.existing e.1)).map (fun e => ⟨e.1, true⟩))

/-- The slots whose MAXAGE a load changes. -/
def Chip.imageAges (c t : Chip) : List Nat :=
  ((c.slots.map (·.1) ++ t.slots.map (·.1)).foldl (fun s k => insertAsc k s) []).filter (fun sid =>
    (c.slot sid).maxage != (t.slot sid).maxage)

/-- Does a panel's waveform table or a font change (Table 15.14, step 3)? -/
def Chip.panelChanges (c t : Chip) (d : Nat) : Bool := c.wave d != t.wave d || c.plate.fonts != t.plate.fonts

/-- A panel that keeps the load waiting: its table or a font changes, and a transition runs. -/
def Chip.panelHolds (c t : Chip) (panelsIdle : Bool) : Bool :=
  (List.range (panelCount c.fuses.variant)).any (fun d => c.panelChanges t d && (!panelsIdle || c.anyTransition d))

/-- The first object that names an absent group or port (R9): a sequence's trigger group, SAFE_MASK, a zone's PIR source. -/
def Chip.absentRefs (t : Chip) : Verdict :=
  let v := t.fuses.variant
  firstBad [
    verdictIf ((List.range 8).any (fun g => decide (groupCount v ≤ g) && bit (t.attrN tyDevice 0 0x702) (8 + g))) stFusedOff
      (handle tyDevice 0),
    (t.heads.find? (fun h => seTrig (t.seqCtl h) == 1 && decide (groupCount v ≤ bits (t.seqCtl h) 8 3))).map
      (fun h => (stFusedOff, handle tySeq h)),
    ((t.existingOf tyZone).find? (fun z => (chunksOf 4 (t.attr tyZone z 13)).any (fun r =>
      fld r 0 1 == 1 && decide (portCount v ≤ fld r 2 2) && decide (fld r 2 2 < 32)))).map
      (fun z => (stFusedOff, handle tyZone z))]

/-- The checks of OBJ_COMMIT over an image's object set (R481). -/
def Chip.imageChecks (c t : Chip) (set : ImageSet) (lives : List Life) (xs : List Change) : Verdict :=
  let still : Chip := { c with panels := c.panels.map (fun e => (e.1, { e.2 with pixels := [] })) }
  firstBad [
    (set.changes.find? (fun x => !t.recordOk x)).map (fun x => (stBadParam, x.hnd)),
    t.absentRefs,
    (touched (lives ++ set.lives) (xs ++ set.changes)).findSome? (fun h => still.ownCheck t h),
    c.setChecks t]

/-- What a verified image does: its target, its set, its instances and its changes. -/
structure ImagePlan where
  target : Chip
  lives : List Life
  changes : List Change
  ages : List Nat
  serial : Nat
  calendar : Option (List Byte)
  deriving DecidableEq, Repr

/-- Verify an image in full: a failure, or the plan (R483, R485, Table 15.14). -/
def Chip.verifyImage (c : Chip) (b : List Byte) (older panelsIdle : Bool) : Sum ImageFail ImagePlan :=
  match imageForm b with
  | some e => .inl e
  | none =>
    if !c.imageFits b then .inl (failAt 6 0xFF)
    else if c.image.active && !older && decide (fld b 12 4 < c.image.serial) then .inl (failAt 7 0xFF)
    else match imageSet c.fuses.variant b with
      | .inl e => .inl e
      | .inr set =>
        let t := c.imageTarget set b
        let lives := c.imageLives t
        let xs := c.imageChanges t set ++ c.keptChanges t set
        match c.imageChecks t set lives xs with
        | some (st, h) => .inl ⟨8, 0xFF, st, h⟩
        | none =>
          if c.panelHolds t panelsIdle then .inl (failAt 10 0xFF)
          else .inr ⟨t, lives, xs, c.imageAges t, fld b 12 4, ((directory b).find? (fun s => s.type == 2)).map (fun s => s.data b)⟩

/-! ### Applying an image -/

/-- Make an image's changes in one step; the attributes take exactly the values that it gives (R485). -/
def Chip.applyPlan (p : ImagePlan) (old : Chip) : Chip :=
  let c0 : Chip :=
    { old with
      plate := { old.plate with tables := p.target.plate.tables, fonts := p.target.plate.fonts }
      slots := p.ages.foldl (fun t sid => Tbl.modify dSlot t sid (fun s => { s with maxage := (p.target.slot sid).maxage })) old.slots
      loops := old.banksToA.loops }
  let c1 := p.lives.foldl (fun c l => (if l.create then c else c.endInstance l.hnd).applyLife l) c0
  let c2 := p.changes.foldl (fun c x => match c.liveChange x with
    | some d => d
    | none => c.setAttr x.ty x.inst x.attr x.value) c1
  let hs := touched p.lives p.changes
  let c3 := (hs ++ p.ages.map localSignal).foldl (fun c h => c.bumpGen h) c2
  let c4 := hs.foldl (fun c h => old.objCommitted h c) ((modelZones p.changes).foldl (fun c z => c.modelWritten z) c3)
  let c5 := (shadowGroups p.changes).foldl (fun c k => c.queueShadow k (freshDuties k p.changes)) c4
  match p.calendar with
  | some q => c5.setCalendar q
  | none => if c5.almanac.base == 0 && c5.almanac.transitions.isEmpty then c5 else c5.setCalendar [0, 0, 0, 0]

/-- Objects changed by a plan. -/
def ImagePlan.applied (p : ImagePlan) : Nat := (touched p.lives p.changes).length + p.ages.length

/-- What AUTOSTART starts after every image load: loops (Table 8.2), CAN controllers (Table 12.3) and IMPORT streams (Table
11.11). -/
def Chip.autostart (c : Chip) : Chip :=
  let c1 := (c.existingOf tyLoop).foldl (fun c l => if bit (c.loopCfg l) 4 then c.enableLoop l else c) c
  let c2 := (List.range (canCount c.fuses.variant)).foldl (fun c m =>
    if bit (c.canCfg m) 6 && !c.islandHeld then c.canStart m else c) c1
  (c2.existingOf tyStream).foldl (fun c i =>
    if bit (c.strCfg i) 4 && !c.isHostStream i && (c.stream i).state == 0 then c.openStream i none else c) c2

/-- An image becomes the active one. -/
def Chip.imageActive (slot : Bool) (serial : Nat) (c : Chip) : Chip :=
  { c with image := { c.image with slot := slot, active := true, serial := serial } }

/-! ### Commands -/

/-- YELIST_WRITE (R484). -/
def bodyYelistWrite (k : Cmd) (c : Chip) : Res :=
  let p := k.payload
  let off := fld p 0 4
  let data := p.drop 4
  let base := slotBase (!c.image.slot)
  let mine := match c.image.writer with
    | some (x, next) => x == k.ctx && off == next
    | none => false
  let other := match c.image.writer with
    | some (x, _) => x != k.ctx
    | none => false
  if p.length < 5 then .badLength c
  else if other || c.imageBusy then .err stBusy noOfs c
  else if slotSize < off + data.length || (off != 0 && !mine) then .badParam 0 c
  else
    let sectors := (List.range (slotSize / 65536)).filter (fun s => decide (off ≤ 65536 * s) && decide (65536 * s < off + data.length))
    let erased := sectors.foldl (fun f s => Tbl.dropRange f (base + 65536 * s) (base + 65536 * s + 65536)) c.flash
    .ok { c with
      flash := Tbl.setRun dByteFF erased (base + off) data
      image := { c.image with writer := some (k.ctx, off + data.length) } }

/-- The slot that a load with these FLAGS reads (R485). -/
def Chip.loadSlot (c : Chip) (flags : Nat) : Bool := if bit flags 2 then c.image.slot else !c.image.slot

/-- The panels whose waveform table or a font a load would change: they hold new transitions while it runs (Table 15.14,
step 3). -/
def Chip.holdPanels (c : Chip) (flags : Nat) : List Nat :=
  match c.verifyImage (c.slotImage (c.loadSlot flags)) (bit flags 1) true with
  | .inl e => if e.reason == 10 then List.range (panelCount c.fuses.variant) else []
  | .inr p => (List.range (panelCount c.fuses.variant)).filter (c.panelChanges p.target)

/-- YELIST_LOAD: interim ACCEPTED, and the load runs (R485, R486). -/
def bodyYelistLoad (k : Cmd) (c : Chip) : Res :=
  let p := k.payload
  if p.length != 4 then .badLength c
  else if 7 < fld p 0 1 then .badParam 0 c
  else if !zeroAt p 1 3 then .badParam 1 c
  else if bit (fld p 0 1) 1 && !isMgtCtx k.ctx then .err stNotOwner 16 c
  else if c.imageBusy then .err stBusy noOfs c
  else .accepted { c with image := { c.image with
    loading := some (k.ctx, k.tag), writer := none, badFlash := [], holding := c.holdPanels (fld p 0 1) } }

/-- The final reply of a load (R487). -/
def loadReply (reason sect firstBad serial applied : Nat) : List Byte :=
  [BitVec.ofNat 8 reason, BitVec.ofNat 8 sect, 0, 0] ++ leBytes 4 firstBad ++ leBytes 4 serial ++ leBytes 4 applied

/-- A load refused with POWER_LIMIT fires E123 (R504). -/
def Chip.refusedLoad (status : Nat) (c : Chip) : Chip := if status == stPowerLimit then c.powerLimit 2 (0x0C + 256 * 5) else c

/-- YELIST_LOAD_DONE: the load verifies, applies and answers (Table 15.14, steps 2–6); `panelsIdle` says that the panels
concerned came to rest within 10 s, `flashError` that the flash could not be read. -/
def Chip.loadDone (panelsIdle flashError : Bool) (c : Chip) : Chip :=
  match c.image.loading with
  | none => c
  | some (ctx, tag) =>
    let flags := match c.findCmd ctx tag with
      | some k => fld k.payload 0 1
      | none => 0
    let slot := c.loadSlot flags
    let b := c.slotImage slot
    let c1 : Chip := { c with image := { c.image with loading := none, badFlash := [] } }
    if flashError || c.flashBad (slotBase slot) (slotBase slot + slotSize) then c1.finishTag ctx tag stBadParam noOfs (loadReply 9 0xFF 0 (fld b 12 4) 0)
    else match c1.verifyImage b (bit flags 1) panelsIdle with
      | .inl e => (c1.refusedLoad e.status).finishTag ctx tag e.status noOfs (loadReply e.reason e.sect e.firstBad (fld b 12 4) 0)
      | .inr p =>
        let reply := fun n => loadReply 0 0xFF 0 p.serial n
        if bit flags 0 then c1.finishTag ctx tag stOK noOfs (reply 0)
        else
          let c2 := ((c1.applyPlan p).imageActive slot p.serial).autostart
          let c3 := c2.setPower (fun w => { w with main := .running })
          c3.finishTag ctx tag stOK noOfs (reply p.applied)
/-! ### Meanings -/

/-- YELIST_WRITE (R484). -/
def execYelistWrite (ctx tag : Nat) (s : State) : Host.Outcome State Fault Refusal :=
  .next { s with chip := s.chip.runCmd 0xC 4 bodyYelistWrite ctx tag }

/-- YELIST_LOAD (R485). -/
def execYelistLoad (ctx tag : Nat) (s : State) : Host.Outcome State Fault Refusal :=
  .next { s with chip := s.chip.runCmd 0xC 5 bodyYelistLoad ctx tag }

/-- YELIST_LOAD_DONE (R486). -/
def execYelistLoadDone (panelsIdle flashError : Bool) (s : State) : Host.Outcome State Fault Refusal :=
  .next { s with chip := s.chip.loadDone panelsIdle flashError }

end Sys2Proof.Machine
end

