-- ==== Sys2Proof/Machine/Power.lean ====
section
/-! DEFINITION. Supplies, hot-swap, reset sources, the reference monitor and boot (spec/15, R456–R477, R489; spec/01, R28;
spec/06, R211, R212). -/

namespace Sys2Proof.Machine

/-! ### The always-on domain (R458, R465) -/

/-- ALWAYS_ON_POR_EXIT: VSYS_R or VACT rises through 6.0 V; straps are sampled and charging starts (Table 15.5).  A test input
held high keeps the main side in reset (R534). -/
def Chip.porExit (vsysR vact : Nat) (ft : Bool) (c : Chip) : Chip :=
  if c.power.aoOn || (vsysR < 6000 && vact < 6000) then c
  else
    let c1 := c.mainClear
    let p := c.power
    { c1 with
      owners := [], records := [], panels := [], mgt := resetMgt, log := ⟨[], [], 0, [], [], none⟩, counters := resetCounters
      thermal := { resetThermal with start := c.clk.now }
      clk := { c1.clk with refRun := false }
      power :=
        { resetPower with
          testHeld := ft, vsysR := vsysR, vact := vact, vbat := p.vbat, ma := p.ma, strapIlim := p.strapIlim
          hswCfg := BitVec.ofNat 32 (p.strapIlim + 256 * 100 + 65536)
          hsw := if 6000 ≤ vsysR then .charging else .off
          lastReset := some c.clk.now } }

/-- ALWAYS_ON_POR_ENTRY: VSYS_R and VACT have both fallen below 5.0 V; the shared SRAM has lost its supplies (R557). -/
def Chip.porEntry (vsysR vact : Nat) (c : Chip) : Chip :=
  if !c.power.aoOn || 5000 ≤ vsysR || 5000 ≤ vact then c
  else
    let c1 := c.mainClear
    { c1 with
      panels := []
      clk := { c1.clk with refRun := false }
      power :=
        { c1.power with
          aoOn := false, vsysR := vsysR, vact := vact, hsw := .off, main := .reset, sramLost := true } }

/-! ### VSYS and the hot-swap controller (R458, R461–R463, R466) -/

/-- VSYS_LOW (Table 15.2): E120. -/
def Chip.vsysLow (vsysR : Nat) (c : Chip) : Chip :=
  if !c.power.aoOn || 11000 ≤ vsysR then c else (c.setPower (fun p => { p with vsysR := vsysR })).fireFree 120

/-- POWER_FAIL (Table 15.6): the switch and the main converters end with VSYS; a latch stays. -/
def Chip.powerFail (vsysR : Nat) (c : Chip) : Chip :=
  if !c.power.aoOn || 10000 ≤ vsysR then c
  else
    (c.setPower (fun p => { p with
      vsysR := vsysR, input := 0, hswRetry := none, hsw := if p.hsw == .latched then .latched else .off })).vsysLoss

/-- VSYS_RETURN: VSYS_R rises through 11.5 V while the always-on domain runs: charging starts. -/
def Chip.vsysReturn (vsysR : Nat) (c : Chip) : Chip :=
  if !c.power.aoOn || vsysR < 11500 then c
  else
    let c1 := c.setPower (fun p => { p with vsysR := vsysR })
    if c.power.hsw == .off then c1.startCharging else c1

/-- HOTSWAP_CHARGED: the switch closes at 11.5 V or more, the row of faults ends, and the transit reference starts (R461,
R463, R465); `ac` says what the input is: direct, or alternating in the 50 Hz (false) or the 60 Hz band (true). -/
def Chip.charged (vsysR : Nat) (ac : Option Bool) (c : Chip) : Chip :=
  if !c.power.aoOn || c.power.hsw != .charging || vsysR < 11500 then c
  else
    let input := match ac with
      | none => 1
      | some hz60 => 2 + b2n hz60
    let c1 := c.setPower (fun p => { p with vsysR := vsysR, input := input, hsw := .on, hswRow := 0 })
    { c1 with clk := { c1.clk with refRun := true, refSince := c1.clk.now } }

/-- A fault or trip of the controller opens the switch; it retries after 1 s, up to three times in a row, or latches (R463);
E127 (Table 15.4).  While running, the power-fail sequence follows (R461). -/
def Chip.hswFault (kind peak : Nat) (c : Chip) : Chip :=
  let p := c.power
  let latch := !p.hswAuto || decide (3 ≤ p.hswRow)
  let row := min 4 (p.hswRow + 1)
  let c1 := c.setPower (fun p => { p with
    hsw := if latch then .latched else .retry, hswRow := row
    hswRetry := if latch then none else some (c.clk.now + sec 1) })
  (if p.hsw == .on then c1.vsysLoss else c1).fire 127
    ((if latch then 3 else kind) + 4 * min 3 row + 65536 * min 65535 peak)

/-- HOTSWAP_FAULT: limiting has lasted FAULT_MS, in charging or while running. -/
def Chip.hswLimit (peak : Nat) (c : Chip) : Chip :=
  if !c.power.aoOn then c
  else if c.power.hsw == .charging then c.hswFault 0 peak
  else if c.power.hsw == .on then c.hswFault 1 peak
  else c

/-- HOTSWAP_FAST_TRIP: an input current of 4.0 A for 2 µs. -/
def Chip.hswFast (peak : Nat) (c : Chip) : Chip :=
  if c.power.aoOn && (c.power.hsw == .charging || c.power.hsw == .on) then c.hswFault 2 peak else c

/-- HOTSWAP_RETRY: charging starts again 1 s after a fault (R463). -/
def Chip.hswAgain (c : Chip) : Chip :=
  match c.power.hsw, c.power.hswRetry with
  | .retry, some d => if c.power.aoOn then (c.waitUntil d).startCharging else c
  | _, _ => c

/-- HOTSWAP_UNLATCH: VSYS_R has been below 6.0 V for 100 ms (R463). -/
def Chip.hswUnlatch (c : Chip) : Chip :=
  if c.power.aoOn && c.power.hsw == .latched then
    c.setPower (fun p => { p with hsw := .off, hswRow := 0, vsysR := min p.vsysR 5999 })
  else c

/-! ### VACT (R458, R459) -/

/-- VACT_LOW (Table 15.2): E121. -/
def Chip.vactLow (vact : Nat) (c : Chip) : Chip :=
  if !c.power.aoOn || 9500 ≤ vact then c else (c.setPower (fun p => { p with vact := vact })).fireFree 121

/-- VACT_SHED: every port that draws VACT current is shed. -/
def Chip.vactGone (vact : Nat) (c : Chip) : Chip :=
  if !c.power.aoOn || 8500 ≤ vact then c
  else (c.setPower (fun p => { p with vact := vact, vactShed := true })).shedAll

/-- VACT_RESTORE: VACT has been above 9.8 V for 100 ms. -/
def Chip.vactRestored (vact : Nat) (c : Chip) : Chip :=
  if !c.power.aoOn || vact ≤ 9800 then c
  else
    let c1 := c.setPower (fun p => { p with vact := vact })
    if !c.power.vactShed then c1
    else if c.power.vactOpen then c1.setPower (fun p => { p with vactShed := false })
    else c1.vactBack

/-- VACT_SWITCH_TRIP: the input switch opens, E121 fires, and the ports are shed. -/
def Chip.vactTrip (c : Chip) : Chip :=
  if !c.power.aoOn || c.power.vactOpen then c
  else ((c.setPower (fun p => { p with vactOpen := true, vactRetry := some (c.clk.now + sec 1) })).fireFree 121).shedAll

/-- VACT_SWITCH_RETRY: the switch closes 1 s after its trip. -/
def Chip.vactAgain (c : Chip) : Chip :=
  match c.power.vactRetry with
  | none => c
  | some d =>
    if !c.power.aoOn then c
    else
      let c1 := c.waitUntil d
      if c1.power.vactShed then c1.setPower (fun p => { p with vactOpen := false, vactRetry := none }) else c1.vactBack

/-! ### Reset sources (R468–R472) -/

/-- HRESET_ASSERT: the ball is low for 1 µs or longer. -/
def Chip.hresetFalls (c : Chip) : Chip :=
  if !c.power.aoOn then c else (c.setPower (fun p => { p with hresetLow := true })).mainReset 2 0

/-- HRESET_RELEASE: the ball has been high for 100 µs. -/
def Chip.hresetRises (c : Chip) : Chip :=
  if !c.power.aoOn then c else c.setPower (fun p => { p with hresetLow := false })

/-- RESET (R472). -/
def bodyReset (k : Cmd) (c : Chip) : Res :=
  let p := k.payload
  let d := fld p 0 2
  if p.length != 4 then .badLength c
  else if d < 10 || 5000 < d then .badParam 0 c
  else if !zeroAt p 2 2 then .badParam 2 c
  else .ok (c.setPower (fun w => { w with resetAt := w.resetAt ++ [c.clk.now + ms d] }))

/-- RESET_DELAY_EXPIRY: the earliest DELAY_MS has passed. -/
def Chip.resetRow (c : Chip) : Chip :=
  match c.power.resetAt.min? with
  | none => c
  | some d =>
    if !c.power.aoOn then c
    else ((c.waitUntil d).setPower (fun p => { p with resetAt := p.resetAt.erase d })).mainReset 6 0

/-- RESET_CAUSE_READ (R472): the reply, then bits [7:0] and COUNT clear. -/
def bodyResetCauseRead (k : Cmd) (c : Chip) : Res :=
  let w := c.power.resetCause.toNat
  if k.payload.length != 0 then .badLength c
  else .okWith (leBytes 4 w) (c.setPower (fun p => { p with resetCause := BitVec.ofNat 32 (setBits (setBits w 0 8 0) 20 8 0) }))

/-! ### The timed islands (R28, R211, R212) -/

/-- DEBUG_HALT: the groups in RUN apply their settings, and panels interrupt their transitions. -/
def Chip.haltIslands (c : Chip) : Chip :=
  if !c.power.main.up || c.power.debugHalt then c
  else
    let c1 := (c.setPower (fun p => { p with debugHalt := true })).haltGroups 1
    (List.range (panelCount c.fuses.variant)).foldl (fun c d => c.panelHalt d 3 none) c1

/-- DEBUG_HALT_RELEASE: the groups that it halted become DISABLED. -/
def Chip.unhaltIslands (c : Chip) : Chip :=
  if c.power.debugHalt then (c.setPower (fun p => { p with debugHalt := false })).releaseGroups else c

/-- The groups in RUN, as a mask. -/
def Chip.runningGroups (c : Chip) : Nat :=
  (((List.range 8).filter (fun k => (c.group k).state == .run)).map (2 ^ ·)).sum

/-- REF_STOP: the reference monitor declares the transit reference stopped (R28); E116 (Table 17.3), and REFMON counts a bite. -/
def Chip.refStop (c : Chip) : Chip :=
  if !c.power.aoOn || !c.clk.refRun then c
  else
    let c0 : Chip := { c with clk := { c.clk with refRun := false }, power := { c.power with refHeld := true } }
    let c1 := c0.haltGroups 2
    let c2 := (List.range (canCount c.fuses.variant)).foldl (fun c m => if (c.canOf m).started then c.modCan m (fun s =>
      { s with flight := none }) else c) c1
    let c3 := c2.linksDown
    let c4 := (List.range (panelCount c.fuses.variant)).foldl (fun c d =>
      if (c.panel d).rails == .off && (c.panel d).updates.isEmpty then c else c.panelHalt d 3 (some 3)) c3
    (c4.bite 21).fire 116 c.runningGroups

/-- REF_RESTART: the reference has run for 10 ms without a gap; the islands wait for a main-side reset (R28). -/
def Chip.refAgain (c : Chip) : Chip :=
  if !c.power.aoOn || c.clk.refRun || c.power.hsw != .on then c
  else { c with clk := { c.clk with refRun := true, refSince := c.clk.now - ms 10 } }

/-! ### Boot (R474–R477, Table 15.10) -/

/-- What the bank choice comes to: the bank booted (`none`: neither verifies), the pointer, whether the bank chosen gave way,
the reason, and the log code with its detail. -/
structure BankChoice where
  bank : Option Bool
  ptr : BankPtr
  fallback : Bool
  reason : Option Nat
  logs : List (Nat × Nat)
  deriving DecidableEq, Repr

/-- Does a bank verify at this boot (R517, R509)? -/
def Chip.bankOk (c : Chip) (b : Bool) : Bool :=
  c.firmware.verifies b && !c.flashBad (bankBase b) (bankBase b + 0x400000)

/-- Choose the bank (R474, R517, R521): MGT_BOOT.OVR or the straps name it without a change of the pointer. -/
def Chip.chooseBank (c : Chip) : BankChoice :=
  let f := c.firmware
  let forced := if c.mgt.bootOvr then some c.mgt.bootBank else if c.power.boot1 then some c.power.boot0 else none
  let rolled := forced.isNone && f.ptr.trial && f.ptr.tries == 0
  let ptr := if rolled then { f.ptr with bank := !f.ptr.bank, trial := false, tries := 0 } else f.ptr
  let want := forced.getD ptr.bank
  let rollLog := if rolled then [(5, b2n f.ptr.bank)] else []
  if c.bankOk want then
    ⟨some want, if forced.isNone && ptr.trial then { ptr with tries := ptr.tries - 1 } else ptr, rolled,
      if rolled then some 2 else none, rollLog⟩
  else if c.bankOk (!want) then
    ⟨some (!want), ptr, true, some (if f.ptr.incomplete want then 3 else 1), rollLog ++ [(4, b2n (!want))]⟩
  else ⟨none, ptr, false, none, rollLog⟩

/-- Step "Bank verified" of Table 15.10: the pointer, the bank that runs and REASON follow the choice. -/
def Chip.bankVerified (b : BankChoice) (c : Chip) : Chip :=
  { c with
    firmware := { c.firmware.writePtr b.ptr with running := b.bank, reason := b.reason.getD c.firmware.reason }
    power := { c.power with bank := b.bank.getD b.ptr.bank } }

/-- The codes that the choice logs (Table 17.5). -/
def Chip.logBanks (b : BankChoice) (c : Chip) : Chip := b.logs.foldl (fun c e => c.logFault e.1 e.2) c

/-- The release that a boot starts with, where it has not come yet. -/
def Chip.released (c : Chip) : Chip := if c.power.main == .booting then c else (c.waitUntil c.releaseFrom).release

/-- The ephemeris copies at boot (Table 10.8), and E79 after a backup-domain reset (R316, Table 10.9). -/
def Chip.loadEphemeris (c : Chip) : Chip :=
  let b := c.ephBytes
  let flashOk := c.almanac.ephFlashValid && !c.flashBad 0xE11000 0x1000000
  let c1 :=
    if ephValid b then
      if flashOk && c.almanac.ephFlash == b then c
      else { c with almanac := { c.almanac with ephFlash := b, ephFlashValid := true } }
    else if flashOk then (c.writeEph c.almanac.ephFlash).setRtc (fun r => { r with trimOn := true })
    else if c.rtc.wasReset then c
    else c.logFault 3 0
  if c.rtc.wasReset then
    (c1.setRtc (fun r => { r with wasReset := false })).fire 79
      (b2n (!ephValid b && flashOk) + 2 * b2n (!ephValid b && !flashOk) + 4 * b2n c.rtc.byFabric)
  else c1

/-- The calibration set at boot (R178), where its sector can be read (R509). -/
def Chip.bootCal (c : Chip) : Chip :=
  if c.flashBad 0xE00000 0xE10000 then c.calLost 1 else c.loadCal

/-- Step "Stores loaded" (Table 15.10; R33, R36, R309, R346, R512, R557): fabric time starts from the RTC, and shared SRAM that
has lost its supplies is cleared. -/
def Chip.loadStores (c : Chip) : Chip :=
  let c1 : Chip :=
    { c with
      slots := if c.power.sramLost then [] else c.slots
      power := { c.power with sramLost := false, refHeld := false }
      clk := { c.clk with
               fabUs := c.rtc.count.toNat * 1000000 + c.rtc.presc * 1000000 / 32768, fabAcc := 0, fabRate := 0 } }
  c1.bootCal.loadEphemeris.startFabric

/-- The held copies of the log go back into the ring, marked CARRIED, and into Q63 (R512, R525). -/
def Chip.restoreLog (c : Chip) : Chip :=
  let es := c.log.copy.map (fun e => { e with carried := true })
  es.foldl (fun c e => c.mgtRecord 63 1 (logBytes e)) { c with log := { c.log with ring := es } }

/-- Load an image at boot: the active slot's, or else the other's (R485); the outcome is false where neither is valid. -/
def Chip.bootImage (c : Chip) : Bool × Bool × Chip :=
  let try_ := fun (s : Bool) =>
    if c.flashBad (slotBase s) (slotBase s + slotSize) then none
    else match c.verifyImage (c.slotImage s) true true with
      | .inr p => some p
      | .inl _ => none
  match try_ c.image.slot with
  | some p => (true, false, (c.applyPlan p).imageActive c.image.slot p.serial)
  | none =>
    match try_ (!c.image.slot) with
    | some p => (true, true, { c.applyPlan p with image := { c.image with active := true, serial := p.serial } })
    | none => (false, false, c)

/-- Groups held by MGT_SAFE are made SAFE, with management their owner (R452). -/
def Chip.safeHeldGroups (c : Chip) : Chip :=
  (List.range (groupCount c.fuses.variant)).foldl (fun c k =>
    if bit c.mgt.safeHeld k then (c.forceSafe k 4).setOwner (handle tyGroup k) true false else c) c

/-- Step "Autostart" of Table 15.10: groups, sequences, loops, CAN controllers, streams, panels; damper re-homes have begun
with the motors that became bound (R231, R233). -/
def Chip.bootAutostart (c : Chip) : Chip :=
  let c1 := (List.range (groupCount c.fuses.variant)).foldl (fun c k =>
    if bit (c.attrN tyGroup k 1) 11 && !bit c.mgt.safeHeld k then c.enableGroup k else c) c
  let c2 := c1.activeHeads.foldl (fun c h => if (c.seq h).armed then c else c.armSeq h) c1
  (List.range (panelCount c.fuses.variant)).foldl (fun c d => c.startPanel d) c2.autostart

/-- An event that was held while the main side was down is delivered (R453, R463, R475): its state, its record for Q62, its
host routes and its loop trigger. -/
def Chip.deliverLate (c : Chip) (e : Nat × EventSt) : Chip :=
  let r := c.route e.1
  let now := c.event e.1
  let s := { e.2 with recordDue := routeQueue r, lineWaits := routeQueue r }
  let merged := if now.pending then { s with count := BitVec.ofNat 16 (min 65535 (s.count.toNat + now.count.toNat)) } else s
  let c1 := c.setEvent e.1 merged
  let c2 := if routeMgt e.1 r then
      Chip.tellLost c1 62 (c1.mgtRecord 62 (bits r 0 2) (deliveryBody e.1 (bits r 0 2) merged)) else c1
  if routeLoop r then c2.eventTrigger (routeLoopNo r) else c2

/-- Deliver every held event (Table 15.10, step 7); E78's count of missed wakes starts anew (R313). -/
def Chip.deliverAllLate (c : Chip) : Chip :=
  (c.power.lateEvents.foldl Chip.deliverLate (c.setPower (fun p => { p with lateEvents := [] }))).setRtc
    (fun r => { r with wakesSince := 0 })

/-- E124 BOOT_DONE (Table 15.11). -/
def Chip.bootDone (b : BankChoice) (noImage imageFail imageFallback : Bool) (bootMs : Nat) (c : Chip) : Chip :=
  let c1 := if 500 ≤ c.power.vbat && c.power.vbat < 2200 then c.fireFree 122 else c
  c1.fire 124
    (b2n (b.bank.getD b.ptr.bank) + 2 * b2n (c.firmware.ptr.incA || c.firmware.ptr.incB) + 4 * b2n b.fallback + 8 * b2n noImage
      + 16 * b2n imageFail + 32 * b2n imageFallback + 64 * b2n (b.bank.isSome && !c.cal.valid) + 128 * b2n c.rtc.timeLost
      + 256 * bits c.power.resetCause.toNat 8 4 + 65536 * min 65535 bootMs)

/-- The boot, from the release to BOOT_DONE (Table 15.10): `boot0` and `boot1` are the straps, `bootMs` the time that it takes.
MAIN reads RUNNING or RECOVERY from the stores' loading on, so that what the boot itself fires is routed as it fires
(log entry 40). -/
def Chip.boot (vbat bootMs : Nat) (boot0 boot1 : Bool) (c : Chip) : Chip :=
  let rel := c.released
  let c0 := (rel.waitUntil (rel.dogs.release.getD 0 + ms bootMs)).setPower (fun p => { p with boot0 := boot0, boot1 := boot1 })
  let noImage := c0.mgt.bootNoImage || (boot0 && !boot1)
  let b := c0.chooseBank
  let cb := c0.bankVerified b
  let c1 : Chip :=
    { cb with
      power := { cb.power with main := .recovery, vbat := vbat }
      mgt := if c0.mgt.bootOnce then { c0.mgt with bootOvr := false, bootOnce := false, bootNoImage := false } else c0.mgt
      dogs := { c0.dogs with release := none }
      counters := { c0.counters with boots := c0.counters.boots + 1 } }
  let c2 := c1.restoreLog.logBanks b
  let done := fun (imageFail imageFallback : Bool) (c : Chip) =>
    { c with image := { c.image with badFlash := [] } }.deliverAllLate.bootDone b noImage imageFail imageFallback bootMs
  if b.bank.isNone then done false false c2.safeHeldGroups
  else
    let c3 := c2.loadStores
    if noImage then done false false c3.safeHeldGroups
    else
      let r := c3.bootImage
      let c4 := r.2.2.safeHeldGroups
      if r.1 then done false r.2.1 (c4.setPower (fun p => { p with main := .running })).bootAutostart
      else done true false c4

/-- BOOT: nothing where the main side is up, held or in shutdown. -/
def Chip.bootRow (vbat bootMs : Nat) (boot0 boot1 : Bool) (c : Chip) : Chip :=
  if c.power.main == .booting || c.mayRelease then c.boot vbat bootMs boot0 boot1 else c

/-! ### Status (R489) -/

/-- POWER_STATUS (Table 15.15); PMOD is an estimate that no rule computes (log entry 3). -/
def bodyPowerStatus (k : Cmd) (c : Chip) : Res :=
  let p := c.power
  let flags := b2n (decide (p.vsysR < 11000)) + 2 * b2n (decide (p.vact < 9500)) + 4 * b2n (decide (500 ≤ p.vbat ∧ p.vbat < 2200))
    + 8 * b2n (decide (p.vbat < 500))
  if k.payload.length != 0 then .badLength c
  else .okWith
    (leBytes 2 p.vsysR ++ leBytes 2 p.vact ++ leBytes 2 p.vbat ++ [BitVec.ofNat 8 p.input, BitVec.ofNat 8 p.hsw.code]
      ++ leBytes 2 c.vactTotal ++ leBytes 2 (vactLimit c.thermal.step) ++ leBytes 2 (2 * Tbl.get dZero c.sampler.codes 67)
      ++ [BitVec.ofNat 8 c.thermal.step, BitVec.ofNat 8 flags] ++ leBytes 4 (Config.freeWord c.freeCount).toNat
      ++ leBytes 2 (Tbl.get dZero c.sampler.codes 91) ++ [0, 0]) c.nextFree

/-! ### Meanings -/

/-- ALWAYS_ON_POR_EXIT (R465). -/
def execAlwaysOnPorExit (vsysR vact : Nat) (ft : Bool) (s : State) : Host.Outcome State Fault Refusal :=
  .next { s with chip := s.chip.porExit vsysR vact ft }

/-- ALWAYS_ON_POR_ENTRY (R458). -/
def execAlwaysOnPorEntry (vsysR vact : Nat) (s : State) : Host.Outcome State Fault Refusal :=
  .next { s with chip := s.chip.porEntry vsysR vact }

/-- VSYS_LOW (R458). -/
def execVsysLow (vsysR : Nat) (s : State) : Host.Outcome State Fault Refusal := .next { s with chip := s.chip.vsysLow vsysR }

/-- POWER_FAIL (R466). -/
def execPowerFail (vsysR : Nat) (s : State) : Host.Outcome State Fault Refusal :=
  .next { s with chip := s.chip.powerFail vsysR }

/-- VSYS_RETURN (R458). -/
def execVsysReturn (vsysR : Nat) (s : State) : Host.Outcome State Fault Refusal :=
  .next { s with chip := s.chip.vsysReturn vsysR }

/-- HOTSWAP_CHARGED (R461). -/
def execHotswapCharged (vsysR : Nat) (ac : Option Bool) (s : State) : Host.Outcome State Fault Refusal :=
  .next { s with chip := s.chip.charged vsysR ac }

/-- HOTSWAP_FAULT (R461). -/
def execHotswapFault (peak : Nat) (s : State) : Host.Outcome State Fault Refusal :=
  .next { s with chip := s.chip.hswLimit peak }

/-- HOTSWAP_FAST_TRIP (R461). -/
def execHotswapFastTrip (peak : Nat) (s : State) : Host.Outcome State Fault Refusal :=
  .next { s with chip := s.chip.hswFast peak }

/-- HOTSWAP_RETRY (R463). -/
def execHotswapRetry (s : State) : Host.Outcome State Fault Refusal := .next { s with chip := s.chip.hswAgain }

/-- HOTSWAP_UNLATCH (R463). -/
def execHotswapUnlatch (s : State) : Host.Outcome State Fault Refusal := .next { s with chip := s.chip.hswUnlatch }

/-- VACT_LOW (R458). -/
def execVactLow (vact : Nat) (s : State) : Host.Outcome State Fault Refusal := .next { s with chip := s.chip.vactLow vact }

/-- VACT_SHED (R459). -/
def execVactShed (vact : Nat) (s : State) : Host.Outcome State Fault Refusal := .next { s with chip := s.chip.vactGone vact }

/-- VACT_RESTORE (R459). -/
def execVactRestore (vact : Nat) (s : State) : Host.Outcome State Fault Refusal :=
  .next { s with chip := s.chip.vactRestored vact }

/-- VACT_SWITCH_TRIP (R459). -/
def execVactSwitchTrip (s : State) : Host.Outcome State Fault Refusal := .next { s with chip := s.chip.vactTrip }

/-- VACT_SWITCH_RETRY (R459). -/
def execVactSwitchRetry (s : State) : Host.Outcome State Fault Refusal := .next { s with chip := s.chip.vactAgain }

/-- HRESET_ASSERT (R471). -/
def execHresetAssert (s : State) : Host.Outcome State Fault Refusal := .next { s with chip := s.chip.hresetFalls }

/-- HRESET_RELEASE (R471). -/
def execHresetRelease (s : State) : Host.Outcome State Fault Refusal := .next { s with chip := s.chip.hresetRises }

/-- RESET (R472). -/
def execReset (ctx tag : Nat) (s : State) : Host.Outcome State Fault Refusal :=
  .next { s with chip := s.chip.runCmd 0xB 2 bodyReset ctx tag }

/-- RESET_DELAY_EXPIRY (R472). -/
def execResetDelayExpiry (s : State) : Host.Outcome State Fault Refusal := .next { s with chip := s.chip.resetRow }

/-- RESET_CAUSE_READ (R472). -/
def execResetCauseRead (ctx tag : Nat) (s : State) : Host.Outcome State Fault Refusal :=
  .next { s with chip := s.chip.runCmd 0xB 3 bodyResetCauseRead ctx tag }

/-- DEBUG_RESET (R468). -/
def execDebugReset (s : State) : Host.Outcome State Fault Refusal := .next { s with chip := s.chip.mainReset 7 0 }

/-- DEBUG_HALT (R211). -/
def execDebugHalt (s : State) : Host.Outcome State Fault Refusal := .next { s with chip := s.chip.haltIslands }

/-- DEBUG_HALT_RELEASE (R212). -/
def execDebugHaltRelease (s : State) : Host.Outcome State Fault Refusal := .next { s with chip := s.chip.unhaltIslands }

/-- REF_STOP (R28). -/
def execRefStop (s : State) : Host.Outcome State Fault Refusal := .next { s with chip := s.chip.refStop }

/-- REF_RESTART (R28). -/
def execRefRestart (s : State) : Host.Outcome State Fault Refusal := .next { s with chip := s.chip.refAgain }

/-- BOOT (R475). -/
def execBoot (vbat bootMs : Nat) (boot0 boot1 : Bool) (s : State) : Host.Outcome State Fault Refusal :=
  .next { s with chip := s.chip.bootRow vbat bootMs boot0 boot1 }

/-- POWER_STATUS (R489). -/
def execPowerStatus (ctx tag : Nat) (s : State) : Host.Outcome State Fault Refusal :=
  .next { s with chip := s.chip.runCmd 0xB 0 bodyPowerStatus ctx tag }

end Sys2Proof.Machine
end

