-- ==== Sys2Proof/Machine/Faults.lean ====
section
/-! DEFINITION. Sheepdogs, memory errors, the fault log, counters and self-test (spec/17, R505–R516; spec/03, R117; spec/14,
R455). -/

namespace Sys2Proof.Machine

/-! ### Bites (R505–R508, Tables 17.1–17.3) -/

/-- E112 of a sheepdog that reruns no command. -/
def dogCause (dog : Nat) : Nat := dog + 0xFFFF0000

/-- A sheepdog resets the main side; E112 follows, held until BOOT_DONE. -/
def Chip.dogReset (dog : Nat) (c : Chip) : Chip := ((c.bite dog).mainReset 4 dog).fire 112 (dogCause dog)

/-- A bitten core, 0–7: the command that it was executing runs again, or, where it is a rerun already, the main side resets
(R506); E112 then carries that command's TAG (DEDUCED, log entry 89). -/
def Chip.coreBite (core : Nat) (cmd : Option (Nat × Nat)) (c : Chip) : Chip :=
  let dog := core + 1
  let bitten := c.bite dog
  let c1 : Chip := { bitten with counters := { bitten.counters with coreResets := bitten.counters.coreResets + 1 } }
  match cmd.bind (fun k => c.findCmd k.1 k.2) with
  | none => c1.fire 112 (dogCause dog)
  | some k =>
    if k.rerun then ((c1.mainReset 4 dog).fire 112 (dog + 256 + 65536 * k.tag)).logFault 7 core
    else
      let c2 : Chip := { c1 with counters := { c1.counters with reruns := c1.counters.reruns + 1 } }
      (c2.setCmd { k with rerun := true }).fire 112 (dog + 65536 * k.tag)

/-- CORE_DOG (R506). -/
def Chip.coreDog (core : Nat) (cmd : Option (Nat × Nat)) (c : Chip) : Chip :=
  if !c.power.main.up || 8 ≤ core then c else c.coreBite core cmd

/-- A bitten lane: the evaluation that it runs, or, where it runs none, the one that a free lane takes, is abandoned, and the
loop waits for its next trigger; outputs already written stay written (R267). -/
def Chip.laneBite (dog : Nat) (c : Chip) : Chip :=
  let lost := match c.runningOn (dog - 9) with
    | some l => some l
    | none => c.nextEval.map Prod.fst
  match lost with
  | none => c
  | some l =>
    let s := c.loop l
    let c1 := (c.setLoop l (if s.running.isSome then { s with running := none } else { s with pending := none })).bite dog
    ({ c1 with counters := { c1.counters with abandoned := c1.counters.abandoned + 1 } }).fire 113 (dog + 65536 * l)

/-- The zone whose update is in progress: the first one due (R279). -/
def Chip.dueZone (c : Chip) : Option Nat :=
  c.nextZone.filter (fun z => (c.zone z).due.any (fun d => decide (d ≤ c.clk.transit)))

/-- What the Orrery loses (Table 17.2): the zone update in progress, with fitting restarted, or the prediction in progress. -/
def Chip.orreryLoses (c : Chip) : Option Nat × Chip :=
  match c.dueZone with
  | some z =>
    let s := c.zone z
    let c1 := c.setZone z { s with due := s.due.map (· + sec (c.zonePeriod z)) }
    (some z, if s.fit.isSome then c1.startFit z else c1)
  | none =>
    match c.predictions with
    | [] => (none, c)
    | p :: rest =>
      let c1 : Chip := { c with predictions := rest }
      (some p.zone, match p.cmd with
        | some (ctx, tag) => c1.finishTag ctx tag stBusy noOfs []
        | none => c1)

/-- ENGINE_DOG: a Drover lane (9–12) or the Orrery (13). -/
def Chip.engineDog (dog : Nat) (c : Chip) : Chip :=
  if !c.power.main.up then c
  else if 9 ≤ dog && dog ≤ 12 then c.laneBite dog
  else if dog == 13 then
    match c.orreryLoses with
    | (some z, c1) => (c1.bite 13).fire 113 (13 + 65536 * z)
    | (none, _) => c
  else c

/-- SHEPHERD_DOG: the shepherd core restarts, and everything that the always-on domain holds stays (R508). -/
def Chip.shepherdDog (c : Chip) : Chip := if c.power.aoOn then (c.bite 22).fire 112 (dogCause 22) else c

/-- A bite in a fold arbiter's own registers (Table 3.13). -/
def FoldSt.bite (f : FoldSt) (port : Nat) : FoldSt := { f with lastPort := port, bitten := true, bites := min 255 (f.bites + 1) }

/-- A record of a queue is lost: LOSS on the next one, and E118 (Tables 17.2, 17.3, R509). -/
def Chip.loseRecord (q : Nat) (c : Chip) : Chip :=
  (c.setQueue q { c.queue q with loss := true }).fire 118 (queueFault q 2).toNat

/-- What the reset of the engine of a requester port does to its work (Table 17.2).  `hand` is what the engine had in hand: on
ports 0–7 the context and tag of the core's command; on port 20 a link and how many frames of classes 1–3 were in transfer
on it; on port 21 a CAN controller with a receive record in transfer.  The router makes its deliveries again (port 14),
records in progress write no slot (port 15), and a panel frame without line data is a late PANEL_FRAME_BOUNDARY (ports 18, 19),
so that those bites change nothing here (log entry 55). -/
def Chip.portBitten (port : Nat) (hand : Option (Nat × Nat)) (c : Chip) : Chip :=
  if port < 8 then c.coreBite port hand
  else if port < 12 then c.laneBite (port + 1)
  else if port == 12 then c.orreryLoses.2
  else if port == 13 then { c with host := { c.host with held := [], wErr := true } }
  else if port == 16 then c.shepherdDog
  else if port == 17 then
    c.setSampler (fun m => { m with dues := m.dues.map (fun r => { r with word := setBits r.word 14 1 0 }) })
  else match port, hand with
    | 20, some (n, k) => c.setLink n { c.link n with discarded := (c.link n).discarded + BitVec.ofNat 32 k }
    | 21, some (m, _) => if m < canCount c.fuses.variant then c.loseRecord (42 + 4 * m) else c
    | _, _ => c

/-- May a port hold a grant on a memory (Table 3.9)? -/
def foldPort (dram : Bool) (port : Nat) : Bool :=
  decide (port < 22) && (!dram || decide (port < 8) || port == 16 || port == 18 || port == 19 || port == 20)

/-- FOLD_DOG (R117, R507): the engine is reset, and E114 follows, whose entry in the fault log names the port. -/
def Chip.foldDog (dram : Bool) (port : Nat) (hand : Option (Nat × Nat)) (c : Chip) : Chip :=
  if !c.power.main.up || !foldPort dram port then c
  else
    let c1 : Chip := if dram then { c with foldD := c.foldD.bite port } else { c with foldS := c.foldS.bite port }
    ((c1.bite (if dram then 15 else 14)).portBitten port hand).fireWith 114 (BitVec.ofNat 32 (port + 256 * b2n dram))
      (BitVec.ofNat 32 port)

/-- The sheepdog that bites a main side in its boot finds the step "Bank verified" done (Table 15.10): TRIES has counted
(R521). -/
def Chip.bootBitten (dog : Nat) (after : Nat) (c : Chip) : Chip :=
  let rel := c.released
  let c1 := rel.waitUntil (rel.dogs.release.getD 0 + after)
  let b := c1.chooseBank
  if b.bank.isNone && dog == 16 then c1 else ((c1.bankVerified b).logBanks b).dogReset dog

/-- MAIN_DOG: no check-in from a core for 1 s; armed from the step "Bank verified" on, in the boot of a bank or up (R505). -/
def Chip.mainDog (core : Nat) (c : Chip) : Chip :=
  if 8 ≤ core then c
  else if c.power.main.up then (if c.firmware.running.isSome then c.dogReset 16 else c)
  else if c.power.main == .booting || c.mayRelease then c.bootBitten 16 (sec 1)
  else c

/-- BOOT_DOG: no BOOT_DONE within 15 s of the release (R505). -/
def Chip.bootDog (c : Chip) : Chip :=
  if c.power.main == .booting || c.mayRelease then c.bootBitten 17 (sec 15) else c

/-! ### Memory errors (R509) -/

/-- Bytes of shared SRAM, store DRAM and flash (spec/00). -/
def memSize (mem : Nat) : Nat := if mem == 0 then 0x400000 else if mem == 1 then 0x2000000 else if mem == 2 then 0x1000000 else 0

/-- A store-DRAM line is lost: pixels become UNKNOWN, a log entry is discarded, a queue's record is lost with LOSS set. -/
def Chip.lineLost (line : Nat) (c : Chip) : Chip :=
  let what := Config.dramLine line
  let kind := what.1 % 4
  if kind == 1 then
    let d := what.2 % 2
    if panelCount c.fuses.variant ≤ d then c
    else
      let keys := (rectKeys 0 0 (c.hActive d) (c.vActive d)).filter (Config.dramPixel line)
      c.modPanel d (fun s => keys.foldl (fun s k => s.setPixel k { s.pixel k with level := none, trans := none }) s)
  else if kind == 2 then { c with log := { c.log with ring := c.log.ring.eraseIdx what.2 } }
  else if kind == 3 then
    c.loseRecord (what.2 % 64)
  else c

/-- MEMORY_ECC: a single-bit error is corrected and counted; an uncorrectable one fires E117 and acts by its memory. -/
def Chip.memoryError (mem addr : Nat) (single : Bool) (c : Chip) : Chip :=
  if !c.mainRuns then c
  else if single then
    let k := c.counters
    { c with counters :=
      if mem == 0 then { k with sramEcc := k.sramEcc + 1 }
      else if mem == 1 then { k with dramEcc := k.dramEcc + 1 }
      else { k with flashEcc := k.flashEcc + 1 } }
  else
    let cause := mem + 256 * (addr / 256)
    let c1 : Chip := { c with counters := { c.counters with uncorrectable := c.counters.uncorrectable + 1 } }
    if mem == 0 then ((c1.bite 18).mainReset 4 18).fire 117 cause
    else if mem == 1 then (c1.fire 117 cause).lineLost (addr / 16)
    else
      let c2 := c1.fire 117 cause
      if c.power.main == .booting || c.image.loading.isSome then { c2 with image := { c2.image with badFlash := c2.image.badFlash ++ [addr] } } else c2

/-! ### Heartbeat (R246, R455) -/

/-- HEARTBEAT: from a host-side context it restarts the host heartbeat and the fan watchdog. -/
def bodyHeartbeat (k : Cmd) (c : Chip) : Res :=
  if k.payload.length != 0 then .badLength c
  else if isMgtCtx k.ctx then .ok c
  else
    let armed := bits (c.attrN tyDevice 0 0x702) 0 8 != 0
    .ok ({ c with dogs := { c.dogs with lastBeat := c.clk.now, hbArmed := armed, hbLost := false } }.fanBeat)

/-- HEARTBEAT_LOST: PERIOD s after the last HEARTBEAT. -/
def Chip.heartbeatRow (c : Chip) : Chip :=
  let p := bits (c.attrN tyDevice 0 0x702) 0 8
  if !c.power.main.up || p == 0 || !c.dogs.hbArmed || c.dogs.hbLost then c
  else (c.waitUntil (c.dogs.lastBeat + sec p)).loseHeartbeat

/-! ### Fault log, counters, self-test and status (R510, R514–R516) -/

/-- LOG_READ (R514). -/
def bodyLogRead (k : Cmd) (c : Chip) : Res :=
  let p := k.payload
  let n := fld p 4 1
  let start := if fld p 0 4 == 0xFFFFFFFF then 0 else fld p 0 4
  let es := (c.log.ring.filter (fun e => decide (start ≤ e.seq.toNat))).take n
  let first := match es with
    | [] => c.log.next.toNat
    | e :: _ => e.seq.toNat
  if p.length != 8 then .badLength c
  else if n < 1 || 32 < n then .badParam 4 c
  else if !zeroAt p 5 3 then .badParam 5 c
  else .okWith (leBytes 4 first ++ leBytes 4 c.log.ring.length ++ leBytes 4 c.log.next.toNat ++ es.flatMap logBytes) c

/-- LOG_CLEAR (R514); BUSY while one runs (DESIGN CHOICE, log entry 58). -/
def bodyLogClear (k : Cmd) (c : Chip) : Res :=
  if k.payload.length != 0 then .badLength c
  else if c.log.clearing.isSome then .err stBusy noOfs c
  else .accepted { c with log := { c.log with clearing := some (k.ctx, k.tag) } }

/-- LOG_CLEAR_DONE: the ring and the always-on copy are empty; SEQ goes on. -/
def Chip.logCleared (c : Chip) : Chip :=
  match c.log.clearing with
  | none => c
  | some (ctx, tag) => { c with log := { c.log with ring := [], copy := [], clearing := none } }.finishTag ctx tag stOK noOfs []

/-- The sixteen counters (R515). -/
def Chip.counterList (c : Chip) : List Nat :=
  let k := c.counters
  [k.demoted, k.triggersLost, k.sramEcc, k.dramEcc, k.flashEcc, k.uncorrectable, k.overwritten, k.coreResets, k.reruns,
   k.abandoned, k.boots].map (·.toNat) ++ List.replicate 5 0

/-- COUNTERS_READ (R515). -/
def bodyCountersRead (k : Cmd) (c : Chip) : Res :=
  if k.payload.length != 0 then .badLength c else .okWith (c.counterList.flatMap (leBytes 4)) c

/-- SELFTEST (R516); BUSY while one runs (DESIGN CHOICE, log entry 58). -/
def bodySelftest (k : Cmd) (c : Chip) : Res :=
  let p := k.payload
  if p.length != 4 then .badLength c
  else if 32 ≤ fld p 0 4 then .badParam 0 c
  else if c.selftest.isSome then .err stBusy noOfs c
  else .accepted { c with selftest := some (k.ctx, k.tag, fld p 0 4) }

/-- The stores that verify (R516): banks A and B, slots 0 and 1, the calibration store, the ephemeris copy. -/
def Chip.storesOk (c : Chip) : List Bool :=
  let slotOk := fun s => let b := c.slotImage s; (imageForm b).isNone && c.imageFits b
  [c.firmware.verifies false, c.firmware.verifies true, slotOk false, slotOk true, c.storeFault.isNone, c.almanac.ephFlashValid]

/-- SELFTEST_DONE: `pass` and `fail` are the tests' outcomes, `stores` the stores whose flash could be read. -/
def Chip.selftestDone (pass fail stores : Nat) (c : Chip) : Chip :=
  match c.selftest with
  | none => c
  | some (ctx, tag, mask) =>
    let pick := fun n => ((List.range 5).map (fun i => if bit mask i && bit n i then 2 ^ i else 0)).sum
    let ok := ((List.range 6).map (fun i => if bit mask 2 && bit stores i && c.storesOk.getD i false then 2 ^ i else 0)).sum
    { c with selftest := none }.finishTag ctx tag stOK noOfs
      (leBytes 4 (pick pass) ++ leBytes 4 (pick fail) ++ [BitVec.ofNat 8 ok, 0, 0, 0])

/-- State of a sheepdog while commands run: 0 off, 1 armed, 2 acting (R510). -/
def Chip.dogState (c : Chip) (dog : Nat) : Nat :=
  if dog == 17 then 0
  else if dog == 16 then b2n c.firmware.running.isSome
  else if dog == 19 then
    (if c.attrN tyDevice 0 0x701 != 1 then 0 else if c.dogs.fanForced then 2 else b2n c.dogs.fanArmed)
  else if dog == 20 then (if c.dogs.hbLost then 2 else b2n c.dogs.hbArmed)
  else if dog == 21 then (if c.clk.refRun then 1 else 2)
  else 1

/-- SHEEPDOG_STATUS (R510). -/
def bodySheepdogStatus (k : Cmd) (c : Chip) : Res :=
  if k.payload.length != 0 then .badLength c
  else .okWith ([22, 0, 0, 0] ++ ((List.range 22).map (· + 1)).flatMap (fun dog =>
    leBytes 4 ((Tbl.get (fun _ => (0 : Half)) c.dogs.bites dog).toNat + 65536 * c.dogState dog))) c

/-! ### Meanings -/

/-- CORE_DOG (R506). -/
def execCoreDog (core : Nat) (rerun : Option (Nat × Nat)) (s : State) : Host.Outcome State Fault Refusal :=
  .next { s with chip := s.chip.coreDog core rerun }

/-- ENGINE_DOG (R505). -/
def execEngineDog (dog : Nat) (s : State) : Host.Outcome State Fault Refusal := .next { s with chip := s.chip.engineDog dog }

/-- FOLD_DOG (R117). -/
def execFoldDog (dram : Bool) (port : Nat) (rerun : Option (Nat × Nat)) (s : State) : Host.Outcome State Fault Refusal :=
  .next { s with chip := s.chip.foldDog dram port rerun }

/-- MAIN_DOG (R505). -/
def execMainDog (core : Nat) (s : State) : Host.Outcome State Fault Refusal := .next { s with chip := s.chip.mainDog core }

/-- BOOT_DOG (R505). -/
def execBootDog (s : State) : Host.Outcome State Fault Refusal := .next { s with chip := s.chip.bootDog }

/-- MEMORY_ECC (R509): an address outside the memory faults. -/
def execMemoryEcc (mem addr : Nat) (single : Bool) (s : State) : Host.Outcome State Fault Refusal :=
  if addr < memSize mem then .next { s with chip := s.chip.memoryError mem addr single } else .fault .noSuchAddress

/-- SHEPHERD_DOG (R508). -/
def execShepherdDog (s : State) : Host.Outcome State Fault Refusal := .next { s with chip := s.chip.shepherdDog }

/-- HEARTBEAT (R455). -/
def execHeartbeat (ctx tag : Nat) (s : State) : Host.Outcome State Fault Refusal :=
  .next { s with chip := s.chip.runCmd 0 2 bodyHeartbeat ctx tag }

/-- HEARTBEAT_LOST (R455). -/
def execHeartbeatLost (s : State) : Host.Outcome State Fault Refusal := .next { s with chip := s.chip.heartbeatRow }

/-- LOG_READ (R514). -/
def execLogRead (ctx tag : Nat) (s : State) : Host.Outcome State Fault Refusal :=
  .next { s with chip := s.chip.runCmd 0xE 0 bodyLogRead ctx tag }

/-- LOG_CLEAR (R514). -/
def execLogClear (ctx tag : Nat) (s : State) : Host.Outcome State Fault Refusal :=
  .next { s with chip := s.chip.runCmd 0xE 1 bodyLogClear ctx tag }

/-- LOG_CLEAR_DONE (R514). -/
def execLogClearDone (s : State) : Host.Outcome State Fault Refusal := .next { s with chip := s.chip.logCleared }

/-- COUNTERS_READ (R515). -/
def execCountersRead (ctx tag : Nat) (s : State) : Host.Outcome State Fault Refusal :=
  .next { s with chip := s.chip.runCmd 0xE 2 bodyCountersRead ctx tag }

/-- SELFTEST (R516). -/
def execSelftest (ctx tag : Nat) (s : State) : Host.Outcome State Fault Refusal :=
  .next { s with chip := s.chip.runCmd 0xE 3 bodySelftest ctx tag }

/-- SELFTEST_DONE (R516). -/
def execSelftestDone (pass fail stores : Nat) (s : State) : Host.Outcome State Fault Refusal :=
  .next { s with chip := s.chip.selftestDone pass fail stores }

/-- SHEEPDOG_STATUS (R510). -/
def execSheepdogStatus (ctx tag : Nat) (s : State) : Host.Outcome State Fault Refusal :=
  .next { s with chip := s.chip.runCmd 0xE 4 bodySheepdogStatus ctx tag }

end Sys2Proof.Machine
end

