-- ==== Sys2Proof/Machine/HostPort.lean ====
section
/-! DEFINITION. The host port (spec/14_host_and_management_ports.md, R438–R446): checked transactions, the HIF_ window, held
writes, doorbells and host interrupt lines. -/

namespace Sys2Proof.Machine

/-- Does the host port answer (R442, R454)?  It is silent while the main side is in reset, and answers in part while it is
booting. -/
def Chip.hostPortOn (c : Chip) : Bool := c.power.main.up || c.power.main == .booting

/-- HIF_ID (Table 14.3). -/
def Chip.hifId (c : Chip) : Nat := silicon + c.fuses.variant * 256 + 0x4A55 * 65536

/-- HIF_STAT (Table 14.3). -/
def Chip.hifStat (c : Chip) : Nat :=
  c.power.main.code + 8 * b2n c.image.active + 16 * b2n (!c.host.held.isEmpty) + 32 * b2n c.host.crcErr
    + 64 * b2n c.host.ovrun + 128 * b2n c.host.wErr

/-- HIF_IRQ_STAT (Table 14.3). -/
def Chip.hifIrq (c : Chip) : Nat :=
  b2n (c.hirq 0) + 2 * b2n (c.hirq 1) + 4 * b2n (c.hirq 2) + 8 * b2n (c.hirq 3)

/-- Level of ball HIRQi (R445, R446, Table 14.3): `none` at high impedance, as it is while the host port is silent and, in mode 0,
while the line is not asserted. -/
def Chip.hirqPin (c : Chip) (i : Nat) : Option Bool :=
  let mode := bits c.host.cfg.toNat (2 * i) 2
  if !c.hostPortOn then none
  else if mode == 0 then (if c.hirq i then some false else none)
  else if mode == 1 then some (!c.hirq i)
  else some (c.hirq i)

/-- HIF_EVT_PENDn: PENDING of 32 events. -/
def Chip.hifPend (c : Chip) (n : Nat) : Nat :=
  ((List.range 32).map (fun b => b2n (c.event (32 * n + b)).pending * 2 ^ b)).sum

/-- The 32-bit register at an aligned offset of the HIF_ window (Table 14.2), but for the RTC block; unmapped reads 0. -/
def Chip.hifReg (c : Chip) (off : Nat) : Nat :=
  if off == 0 then c.hifId
  else if off == 4 then c.hifStat
  else if c.power.main == .booting then 0
  else if off == 8 then c.host.cfg.toNat
  else if off == 0xC then c.host.scratch.toNat
  else if off == 0x10 then c.hifIrq
  else if 0x18 ≤ off && off < 0x28 then c.hifPend ((off - 0x18) / 4)
  else if off == 0x28 then c.host.errCrc.toNat + c.host.errOvrun.toNat * 65536
  else if 0x30 ≤ off && off < 0x50 then (Tbl.get dWord0 c.host.bind ((off - 0x30) / 4)).toNat
  else if 0x200 ≤ off && off < 0x300 then
    (c.queue ((off - 0x200) / 4)).head + (c.queue ((off - 0x200) / 4)).tail * 65536
  else 0

/-- Is an address in the RTC block of the window? -/
def inRtc (a : Nat) : Bool := decide (0x100 ≤ a) && decide (a < 0x180)

/-- Read one byte of the HIF_ window: a read of an RTC time byte acts on the host's shadows (R301). -/
def Chip.hifReadByte (a : Nat) (c : Chip) : Byte × Chip :=
  if inRtc a && c.power.main.up then c.rtcReadByte .host (a - 0x100)
  else ((leBytes 4 (c.hifReg (a / 4 * 4))).getD (a % 4) 0, c)

/-- Read bytes in ascending order. -/
def Chip.hifRead : Nat → Nat → Chip → List Byte × Chip
  | _, 0, c => ([], c)
  | a, n + 1, c =>
    let r := c.hifReadByte a
    let t := Chip.hifRead (a + 1) n r.2
    (r.1 :: t.1, t.2)

/-- The two CRC bytes that follow data, most significant byte first (R439, R440). -/
def crcTail (bs : List Byte) : List Byte := (leBytes 2 (crc16 bs)).reverse

/-- What a read drives after its address (R439): the marker 0xA5, the data bytes, and their CRC. -/
def readFrame (bs : List Byte) : List Byte := 0xA5 :: bs ++ crcTail bs

/-- A read that ends before its marker, at an RTC time byte, freezes the host's shadows and no more (R301, R439). -/
def Chip.brokenRead (addr : Nat) (c : Chip) : Chip :=
  if 0x100 ≤ addr && addr ≤ 0x106 && c.power.main.up then (c.rtcReadByte .host 0).2 else c

/-- REG_READ and REG_READ_Q (R439); a read of no byte is one that ends before its marker (DESIGN
CHOICE, log entry 87). -/
def Chip.regRead (addr len : Nat) (c : Chip) : Chip :=
  if !c.hostPortOn || 256 < len then c
  else if len == 0 then c.brokenRead addr
  else
    let r := Chip.hifRead addr len c
    { r.2 with host := { r.2.host with driven := readFrame r.1 } }

/-- RING_READ and RING_READ_Q (R438, R439): unmapped addresses read 0x00. -/
def Chip.ringReadCmd (addr len : Nat) (c : Chip) : Chip :=
  if !c.hostPortOn || len == 0 || 256 < len then c
  else
    let bs := if 0x80000 ≤ addr || c.power.main == .booting then zeros len
      else Tbl.getRun dByte0 c.ring addr (min len (0x80000 - addr)) ++ zeros (len - (0x80000 - addr))
    { c with host := { c.host with driven := readFrame bs } }

/-- Saturating increment of a 16-bit counter. -/
def satInc (h : Half) : Half := if h = 0xFFFF then h else h + 1

/-- A write transaction ends (R440): the CRC over command byte, address and data is checked, and the write is held, at most
four at once. -/
def Chip.checkedWrite (cmd addrBytes : Nat) (w : HeldWrite) (crc : Nat) (c : Chip) : Chip :=
  if !c.hostPortOn then c
  else if crc16 ([BitVec.ofNat 8 cmd] ++ (leBytes addrBytes w.addr).reverse ++ w.data) != crc then
    { c with host := { c.host with crcErr := true, errCrc := satInc c.host.errCrc } }
  else if 4 ≤ c.host.held.length then
    { c with host := { c.host with ovrun := true, errOvrun := satInc c.host.errOvrun } }
  else { c with host := { c.host with held := c.host.held ++ [w] } }

/-- A refused write sets HIF_STAT.WERR (R443). -/
def Chip.hifWErr (c : Chip) : Chip := { c with host := { c.host with wErr := true } }

/-- May a ring write at `addr` of `n` bytes be made: entirely inside the ring of Q0–Q7, Q56 or Q58 (R441)? -/
def Chip.ringWriteOk (c : Chip) (addr n : Nat) : Bool :=
  [0, 1, 2, 3, 4, 5, 6, 7, 56, 58].any (fun q =>
    let s := c.queue q
    decide (s.base ≤ addr) && decide (addr + n ≤ s.base + s.ringBytes))

/-- A write of HIF_BINDh (R444, Table 14.3). -/
def Chip.hifBind (h v : Nat) (c : Chip) : Chip :=
  if (c.session h).opened || (basePart c.fuses.variant == 6 && bit v 15) then c.hifWErr
  else
    let c1 := { c with host := { c.host with bind := Tbl.set dWord0 c.host.bind h (BitVec.ofNat 32 (v &&& 0x83FF)) } }
    if bit v 15 then c1.notePath (bits v 0 10) else c1

/-- A write that touches HIF_ERRCNT (R562): a half restarts when both its bytes are written 0; anything else written to a
half leaves it unchanged and sets WERR.  `bs` holds the written bytes of the register, by position. -/
def Chip.hifErrcnt (bs : List (Option Byte)) (c : Chip) : Chip :=
  let half := fun i => ((bs.getD i none), (bs.getD (i + 1) none))
  let touched := fun (p : Option Byte × Option Byte) => p.1.isSome || p.2.isSome
  let zero := fun (p : Option Byte × Option Byte) => p.1 == some 0 && p.2 == some 0
  let lo := half 0
  let hi := half 2
  let c1 := { c with host := { c.host with
    errCrc := if zero lo then 0 else c.host.errCrc
    errOvrun := if zero hi then 0 else c.host.errOvrun } }
  if (touched lo && !zero lo) || (touched hi && !zero hi) then c1.hifWErr else c1

/-- The bytes written to one 32-bit register, by position, merged into a value. -/
def mergeBytes (old : Nat) (bs : List (Option Byte)) : Nat :=
  leNat ((List.range 4).map (fun i => (bs.getD i none).getD ((leBytes 4 old).getD i 0)))

/-- HIF_CFG: a mode of 3 is refused (Table 14.3). -/
def hifCfgOk (v : Nat) : Bool := (List.range 4).all (fun i => bits v (2 * i) 2 != 3)

/-- Apply the bytes that one write puts into the 32-bit register at `off` of the HIF_ window (Tables 14.2, 14.3). -/
def Chip.hifWriteReg (off : Nat) (bs : List (Option Byte)) (c : Chip) : Chip :=
  let v0 := mergeBytes 0 bs
  if off == 4 then { c with host := { c.host with
      crcErr := c.host.crcErr && !bit v0 5, ovrun := c.host.ovrun && !bit v0 6, wErr := c.host.wErr && !bit v0 7 } }
  else if off == 8 then
    let v := mergeBytes c.host.cfg.toNat bs &&& 0xFF
    if hifCfgOk v then { c with host := { c.host with cfg := BitVec.ofNat 32 v } } else c.hifWErr
  else if off == 0xC then { c with host := { c.host with scratch := BitVec.ofNat 32 (mergeBytes c.host.scratch.toNat bs) } }
  else if off == 0x14 then (if (bs.getD 0 none).isSome then c.ackEvent (v0 % 128) else c)
  else if off == 0x28 then c.hifErrcnt bs
  else if 0x30 ≤ off && off < 0x50 then
    let h := (off - 0x30) / 4
    c.hifBind h (mergeBytes (Tbl.get dWord0 c.host.bind h).toNat bs)
  else if 0x200 ≤ off && off < 0x300 then
    (if (bs.getD 0 none).isSome || (bs.getD 1 none).isSome then c.doorbell ((off - 0x200) / 4) (bits v0 0 11) else c.hifWErr)
  else c.hifWErr

/-- Split a run of bytes at `addr` into the registers it touches, and apply each in ascending order. -/
def Chip.hifWriteRegs : Nat → Nat → List Byte → Chip → Chip
  | 0, _, _, c => c
  | _, _, [], c => c
  | fuel + 1, a, b :: bs, c =>
    if inRtc a then
      let off := a - 0x100
      let c1 := c.rtcWriteByte .host off b
      let c2 := if rtcWritable off then c1 else c1.hifWErr
      Chip.hifWriteRegs fuel (a + 1) bs c2
    else
      let n := 4 - a % 4
      let cells := List.replicate (a % 4) none ++ ((b :: bs).take n).map some
      Chip.hifWriteRegs fuel (a + n) ((b :: bs).drop n) (c.hifWriteReg (a / 4 * 4) cells)

/-- A write of bytes to the HIF_ window (R443). -/
def Chip.hifWrite (a : Nat) (bs : List Byte) (c : Chip) : Chip := Chip.hifWriteRegs bs.length a bs c

/-- HIF_WRITE_APPLY: the oldest held write is applied, while the main side is up (R440, R441, R442). -/
def Chip.applyHeld (c : Chip) : Chip :=
  if !c.power.main.up then c
  else match c.host.held with
    | [] => c
    | w :: rest =>
      let c1 := { c with host := { c.host with held := rest } }
      if !w.ring then c1.hifWrite w.addr w.data
      else if c1.ringWriteOk w.addr w.data.length then { c1 with ring := Tbl.setRun dByte0 c1.ring w.addr w.data }
      else c1.hifWErr

/-! ### Meanings -/

/-- REG_READ (R439). -/
def execRegRead (addr len : Nat) (s : State) : Host.Outcome State Fault Refusal :=
  .next { s with chip := s.chip.regRead addr len }

/-- REG_READ_Q (R439). -/
def execRegReadQ (addr len : Nat) (s : State) : Host.Outcome State Fault Refusal :=
  .next { s with chip := s.chip.regRead addr len }

/-- REG_WRITE (R440): command byte 0x02, two address bytes, 1–256 data bytes. -/
def execRegWrite (addr : Nat) (data : List Byte) (crc : Nat) (s : State) : Host.Outcome State Fault Refusal :=
  .next { s with chip := if data.length == 0 || 256 < data.length then s.chip
    else s.chip.checkedWrite 0x02 2 ⟨false, addr, data⟩ crc }

/-- REG_WRITE_Q (R440): command byte 0x12. -/
def execRegWriteQ (addr : Nat) (data : List Byte) (crc : Nat) (s : State) : Host.Outcome State Fault Refusal :=
  .next { s with chip := if data.length == 0 || 256 < data.length then s.chip
    else s.chip.checkedWrite 0x12 2 ⟨false, addr, data⟩ crc }

/-- RING_READ (R439). -/
def execRingRead (addr len : Nat) (s : State) : Host.Outcome State Fault Refusal :=
  .next { s with chip := s.chip.ringReadCmd addr len }

/-- RING_READ_Q (R439). -/
def execRingReadQ (addr len : Nat) (s : State) : Host.Outcome State Fault Refusal :=
  .next { s with chip := s.chip.ringReadCmd addr len }

/-- RING_WRITE (R440, R441): command byte 0x0A, three address bytes, 1–4112 data bytes. -/
def execRingWrite (addr : Nat) (data : List Byte) (crc : Nat) (s : State) : Host.Outcome State Fault Refusal :=
  .next { s with chip := if data.length == 0 || 4112 < data.length then s.chip
    else s.chip.checkedWrite 0x0A 3 ⟨true, addr, data⟩ crc }

/-- RING_WRITE_Q (R440, R441): command byte 0x6A. -/
def execRingWriteQ (addr : Nat) (data : List Byte) (crc : Nat) (s : State) : Host.Outcome State Fault Refusal :=
  .next { s with chip := if data.length == 0 || 4112 < data.length then s.chip
    else s.chip.checkedWrite 0x6A 3 ⟨true, addr, data⟩ crc }

/-- HIF_WRITE_APPLY (R440). -/
def execHifWriteApply (s : State) : Host.Outcome State Fault Refusal := .next { s with chip := s.chip.applyHeld }

/-- HIF_EVT_ACK (R445). -/
def execHifEvtAck (event : Nat) (s : State) : Host.Outcome State Fault Refusal :=
  .next { s with chip := if s.chip.power.main.up && event < 128 then s.chip.ackEvent event else s.chip }

/-- DOORBELL (R107, R108). -/
def execDoorbell (queue index : Nat) (s : State) : Host.Outcome State Fault Refusal :=
  .next { s with chip := if s.chip.power.main.up && queue < 64 then s.chip.doorbell queue index else s.chip }

/-- HIF_BIND (R444). -/
def execHifBind (hctx value : Nat) (s : State) : Host.Outcome State Fault Refusal :=
  .next { s with chip := if s.chip.power.main.up && hctx < 8 then s.chip.hifBind hctx value else s.chip }

/-- HIF_ERRCNT_RESTART (R562): a write of the register's bytes from byte `first` on. -/
def execHifErrcntRestart (first : Nat) (data : List Byte) (s : State) : Host.Outcome State Fault Refusal :=
  .next { s with chip :=
    if s.chip.power.main.up && first + data.length ≤ 4 then
      s.chip.hifErrcnt (List.replicate first none ++ data.map some)
    else s.chip }

end Sys2Proof.Machine
end

