-- ==== Sys2Proof/Machine/Mgt.lean ====
section
/-! DEFINITION. The management port (spec/14_host_and_management_ports.md, R447–R454): PEC, the management space, actions,
group holds, packets and alerts. -/

namespace Sys2Proof.Machine

def Chip.setMgt (f : MgtSt → MgtSt) (c : Chip) : Chip := { c with mgt := f c.mgt }

/-- The port's 7-bit address (R447, R473). -/
def Chip.mgtAddress (c : Chip) : Nat := 0x58 + c.power.ma

/-- Does the management port answer anything but ID and STATUS: not while a test input holds the main side (R534)? -/
def Chip.mgtOn (c : Chip) : Bool := c.power.aoOn && !c.power.testHeld

/-- A transaction that is NACKed. -/
def Chip.nack (c : Chip) : Chip := c.setMgt (fun m => { m with driven := none })

/-- Bytes that the port drives. -/
def Chip.drive (bs : List Byte) (c : Chip) : Chip := c.setMgt (fun m => { m with driven := some bs })

/-- A read is answered (R448): its bytes, then the PEC over the whole transaction, whose bytes before the repeated start `sent`
holds after the address byte. -/
def Chip.answerRead (sent bs : List Byte) (c : Chip) : Chip :=
  let a := 2 * c.mgtAddress
  c.drive (bs ++ [BitVec.ofNat 8 (crc8 (BitVec.ofNat 8 a :: sent ++ [BitVec.ofNat 8 (a + 1)] ++ bs))])

/-- A Block Read, or the read of a process call, is answered: the byte count goes ahead of the data (Table 14.5). -/
def Chip.answerBlock (sent bs : List Byte) (c : Chip) : Chip := c.answerRead sent (BitVec.ofNat 8 bs.length :: bs)

/-- A write transaction: it acts only with a PEC that matches the bytes after the address byte; otherwise it is NACKed and
counted (R448). -/
def Chip.withPec (bytes : List Byte) (pec : Option Byte) (act : Chip → Chip) (c : Chip) : Chip :=
  if !c.mgtOn then c.nack
  else if pec.map BitVec.toNat == some (crc8 ([BitVec.ofNat 8 (2 * c.mgtAddress)] ++ bytes)) then act c
  else c.nack.setMgt (fun m => { m with pecErr := min 255 (m.pecErr + 1) })

/-- MGT_STAT (Table 14.7); a supply counts as present from the 6.0 V of R458. -/
def Chip.mgtStat (c : Chip) : Nat :=
  c.mainState.code + 8 * b2n c.power.hold + 16 * b2n c.power.bank + 32 * b2n (decide (6000 ≤ c.power.vsysR))
    + 64 * b2n (decide (6000 ≤ c.power.vact)) + 128 * b2n c.mgt.pktDrop + 256 * c.mgt.pecErr

/-- MGT_BOOT (Table 14.7). -/
def Chip.mgtBoot (c : Chip) : Nat :=
  b2n c.mgt.bootOvr + 2 * b2n c.mgt.bootBank + 4 * b2n c.mgt.bootOnce + 8 * b2n c.mgt.bootNoImage

/-- The 32-bit register at an aligned offset of the management space (Table 14.6), but for the RTC block. -/
def Chip.mgtReg (c : Chip) (off : Nat) : Nat :=
  if off == 0 then c.hifId
  else if off == 4 then c.mgtStat
  else if off == 8 then c.power.resetCause.toNat
  else if off == 0xC then c.mgtBoot
  else if off == 0x10 then c.mgt.safeHeld
  else if 0x20 ≤ off && off < 0x30 then c.mgt.alert.toNat / 2 ^ (8 * (off - 0x20)) % 2 ^ 32
  else 0

/-- Read one byte of the management space: RTC time bytes act on management's own shadows (R301). -/
def Chip.mgtReadByte (a : Nat) (c : Chip) : Byte × Chip :=
  if inRtc a then c.rtcReadByte .mgmt (a - 0x100)
  else ((leBytes 4 (c.mgtReg (a / 4 * 4))).getD (a % 4) 0, c)

def Chip.mgtRead : Nat → Nat → Chip → List Byte × Chip
  | _, 0, c => ([], c)
  | a, n + 1, c =>
    let r := c.mgtReadByte a
    let t := Chip.mgtRead (a + 1) n r.2
    (r.1 :: t.1, t.2)

/-! ### Group holds (R452, R558) -/

/-- The present groups of a mask. -/
def Chip.presentGroups (c : Chip) (mask : Nat) : List Nat :=
  (List.range (groupCount c.fuses.variant)).filter (fun g => bit mask g)

/-- A mask of groups. -/
def groupMask (gs : List Nat) : Nat := (gs.map (fun g => 2 ^ g)).sum

/-- Hold one group safe (R452): as GROUP_SAFE from the management context (R214), the owner becoming management. -/
def Chip.holdGroup (g : Nat) (c : Chip) : Chip :=
  let c1 := (c.forceSafe g 4).setOwner (handle tyGroup g) true true
  c1.setMgt (fun m => { m with safeHeld := m.safeHeld ||| 2 ^ g })

/-- Hold groups safe and fire E126 with the action's code (R558). -/
def Chip.holdGroups (code : Nat) (gs : List Nat) (c : Chip) : Chip :=
  (gs.foldl (fun c g => c.holdGroup g) c).fire 126 (code + 256 * groupMask gs)

/-- Release a held group: ownership returns to the host; the group stays SAFE (R452). -/
def Chip.releaseGroup (g : Nat) (c : Chip) : Chip :=
  if bit c.mgt.safeHeld g then
    (c.setMgt (fun m => { m with safeHeld := m.safeHeld - 2 ^ g })).setOwner (handle tyGroup g) false true
  else c

/-- A write of MGT_SAFE.HELD (Table 14.7). -/
def Chip.writeSafe (v : Nat) (c : Chip) : Chip :=
  let all := List.range (groupCount c.fuses.variant)
  let on := all.filter (fun g => bit v g)
  let c1 := (all.filter (fun g => !bit v g)).foldl (fun c g => c.releaseGroup g) c
  if on.isEmpty then c1 else c1.holdGroups 0x11 on

/-- Apply the bytes that one write puts into the 32-bit register at `off` of the management space. -/
def Chip.mgtWriteReg (off : Nat) (bs : List (Option Byte)) (c : Chip) : Chip :=
  let v0 := mergeBytes 0 bs
  if off == 4 then c.setMgt (fun m => { m with pktDrop := m.pktDrop && !bit v0 7 })
  else if off == 0xC then
    (match bs.getD 0 none with
     | some b => c.setMgt (fun m => { m with
         bootOvr := bit b.toNat 0, bootBank := bit b.toNat 1, bootOnce := bit b.toNat 2, bootNoImage := bit b.toNat 3 })
     | none => c)
  else if off == 0x10 then
    (match bs.getD 0 none with
     | some b => c.writeSafe b.toNat
     | none => c)
  else if 0x20 ≤ off && off < 0x30 then
    c.setMgt (fun m => { m with alert := m.alert &&& ~~~ (BitVec.ofNat 128 (v0 * 2 ^ (8 * (off - 0x20)))) })
  else c

def Chip.mgtWriteRegs : Nat → Nat → List Byte → Chip → Chip
  | 0, _, _, c => c
  | _, _, [], c => c
  | fuel + 1, a, b :: bs, c =>
    if inRtc a then Chip.mgtWriteRegs fuel (a + 1) bs (c.rtcWriteByte .mgmt (a - 0x100) b)
    else
      let n := 4 - a % 4
      let cells := List.replicate (a % 4) none ++ ((b :: bs).take n).map some
      Chip.mgtWriteRegs fuel (a + n) ((b :: bs).drop n) (c.mgtWriteReg (a / 4 * 4) cells)

/-- A write of bytes to the management space (R449). -/
def Chip.mgtWrite (a : Nat) (bs : List Byte) (c : Chip) : Chip := Chip.mgtWriteRegs bs.length a bs c

/-! ### Management packets (R450) -/

/-- Discard a packet (R450). -/
def Chip.dropPacket (c : Chip) : Chip := c.setMgt (fun m => { m with building := none, pktDrop := true })

/-- The packet has its LAST chunk: placed in Q60 as one record, or discarded (R450). -/
def Chip.submitPacket (p : List Byte) (c : Chip) : Chip :=
  let s := c.queue 60
  if p.length < 16 || p.length != 16 + fld p 6 2 || 4092 < p.length || !s.hasRoom (entriesFor s.eshift p.length) then
    c.dropPacket
  else
    let c1 := (c.putRecord 60 p).ringUp 0x20 1 s.tail s.depth
    (c1.setQueue 60 (c1.queue 60).notified).setMgt (fun m => { m with building := none })

/-- PKT_WRITE (R450). -/
def Chip.pktWrite (flags : Nat) (data : List Byte) (c : Chip) : Chip :=
  let started := bit flags 0 || c.mgt.building.isSome
  let all := (if bit flags 0 then [] else c.mgt.building.getD []) ++ data
  if !started then c.dropPacket
  else if bit flags 1 then c.submitPacket all
  else c.setMgt (fun m => { m with building := some all })

/-- The management queue that PKT_READ takes its next chunk from (R450). -/
def Chip.readFrom (c : Chip) : Option Nat :=
  match c.mgt.readQueue with
  | some q => some q
  | none => [61, 62, 63].find? (fun q => (c.queue q).fill != 0)

/-- PKT_READ: the next chunk of the oldest record, its entries released after the LAST chunk (R450). -/
def Chip.pktRead (c : Chip) : Chip :=
  match c.readFrom with
  | none => (c.setMgt (fun m => { m with lastChunk := [4] })).answerBlock [0x11] [4]
  | some q =>
    let s := c.queue q
    let w := leNat (ringRead s s.head 4 c.ring)
    let rlen := w % 8192
    let ofs := if c.mgt.readQueue.isSome then c.mgt.readOffset else 0
    let n := min 240 (rlen - ofs)
    let last := decide (rlen ≤ ofs + n)
    let chunk := (BitVec.ofNat 8 (b2n (ofs == 0) + 2 * b2n last + 8 * b2n (bit w 14)) : Byte)
      :: ((ringRead s s.head (4 + ofs + n) c.ring).drop (4 + ofs))
    let c1 := if last then c.setQueue q (s.pop (min s.fill (entriesFor s.eshift rlen))) else c
    (c1.setMgt (fun m => { m with
      readQueue := if last then none else some q, readOffset := if last then 0 else ofs + n, lastChunk := chunk })).answerBlock [0x11] chunk

/-! ### Actions (R453) -/

/-- A hot-swap latch clears and charging starts again (R463). -/
def Chip.clearLatch (c : Chip) : Chip :=
  if c.power.hsw == .latched then
    (c.setPower (fun p => { p with hswRow := 0 })).startCharging
  else c

/-- RESET_MAIN, HOLD_MAIN and RELEASE_MAIN (R453, R463, R470). -/
def Chip.actionReset (c : Chip) : Chip := ((c.mainReset 3 0).clearLatch).fire 126 1

def Chip.actionHold (c : Chip) : Chip :=
  ((c.mainReset 3 0).setPower (fun p => { p with hold := true })).fire 126 2

def Chip.actionRelease (c : Chip) : Chip :=
  ({ c with power := { c.power with hold := false } }.clearLatch).fire 126 3

/-- SAFE_ALL (R453). -/
def Chip.actionSafeAll (c : Chip) : Chip := c.holdGroups 4 (List.range (groupCount c.fuses.variant))

/-! ### Meanings -/

/-- ID (Table 14.5): answered in every main-side state. -/
def execId (s : State) : Host.Outcome State Fault Refusal :=
  .next { s with chip := if s.chip.power.aoOn then
      s.chip.answerBlock [1] ([BitVec.ofNat 8 silicon, BitVec.ofNat 8 s.chip.fuses.variant] ++ leBytes 8 s.chip.fuses.uid
        ++ s.chip.firmware.bankA.version ++ s.chip.firmware.bankB.version)
    else s.chip.nack }

/-- STATUS (Table 14.5). -/
def execStatus (s : State) : Host.Outcome State Fault Refusal :=
  .next { s with chip := if s.chip.power.aoOn then s.chip.answerRead [2] (leBytes 2 s.chip.mgtStat) else s.chip.nack }

/-- RESET_MAIN (R453). -/
def execResetMain (pec : Option Byte) (s : State) : Host.Outcome State Fault Refusal :=
  .next { s with chip := s.chip.withPec [3, 1] pec Chip.actionReset }

/-- HOLD_MAIN (R453). -/
def execHoldMain (pec : Option Byte) (s : State) : Host.Outcome State Fault Refusal :=
  .next { s with chip := s.chip.withPec [3, 2] pec Chip.actionHold }

/-- RELEASE_MAIN (R453). -/
def execReleaseMain (pec : Option Byte) (s : State) : Host.Outcome State Fault Refusal :=
  .next { s with chip := s.chip.withPec [3, 3] pec Chip.actionRelease }

/-- SAFE_ALL (R453). -/
def execSafeAll (pec : Option Byte) (s : State) : Host.Outcome State Fault Refusal :=
  .next { s with chip := s.chip.withPec [3, 4] pec Chip.actionSafeAll }

/-- MGT_REG_READ: the REG_READ of Table 14.5, 1–32 bytes. -/
def execMgtRegRead (addr n : Nat) (s : State) : Host.Outcome State Fault Refusal :=
  let r := Chip.mgtRead addr n s.chip
  .next { s with chip := if !s.chip.mgtOn || n == 0 || 32 < n then s.chip.nack
    else r.2.answerBlock ([8, 3] ++ leBytes 2 addr ++ [BitVec.ofNat 8 n]) r.1 }

/-- MGT_REG_WRITE: the REG_WRITE of Table 14.5, 1–32 bytes. -/
def execMgtRegWrite (addr : Nat) (data : List Byte) (pec : Option Byte) (s : State) : Host.Outcome State Fault Refusal :=
  .next { s with chip :=
    if data.length == 0 || 32 < data.length then s.chip.nack
    else s.chip.withPec ([9, BitVec.ofNat 8 (2 + data.length)] ++ leBytes 2 addr ++ data) pec (Chip.mgtWrite addr data) }

/-- MGT_SAFE_HOLD (R452): a write of 1 to one bit; a bit for an absent group is ignored. -/
def execMgtSafeHold (group : Nat) (s : State) : Host.Outcome State Fault Refusal :=
  .next { s with chip := if s.chip.mgtOn && group < groupCount s.chip.fuses.variant then s.chip.holdGroups 0x11 [group]
    else s.chip }

/-- MGT_SAFE_RELEASE (R452): a write of 0 to one bit. -/
def execMgtSafeRelease (group : Nat) (s : State) : Host.Outcome State Fault Refusal :=
  .next { s with chip := if s.chip.mgtOn then s.chip.releaseGroup group else s.chip }

/-- PKT_WRITE (R450): NACKed while the main side is down. -/
def execPktWrite (flags : Byte) (data : List Byte) (pec : Option Byte) (s : State) : Host.Outcome State Fault Refusal :=
  .next { s with chip :=
    if !s.chip.power.main.up || data.length == 0 || 240 < data.length || 3 < flags.toNat then s.chip.nack
    else s.chip.withPec ([0x10, BitVec.ofNat 8 (1 + data.length), flags] ++ data) pec (Chip.pktWrite flags.toNat data) }

/-- PKT_READ (R450). -/
def execPktRead (s : State) : Host.Outcome State Fault Refusal :=
  .next { s with chip := if s.chip.mgtOn && s.chip.power.main.up then s.chip.pktRead else s.chip.nack }

/-- PKT_REREAD (R450). -/
def execPktReread (s : State) : Host.Outcome State Fault Refusal :=
  .next { s with chip := if s.chip.mgtOn && s.chip.power.main.up then s.chip.answerBlock [0x12] s.chip.mgt.lastChunk else s.chip.nack }

/-- ALERT_READ (Table 14.5). -/
def execAlertRead (s : State) : Host.Outcome State Fault Refusal :=
  .next { s with chip := if s.chip.mgtOn then s.chip.answerBlock [0x18] (leBytes 16 s.chip.mgt.alert.toNat) else s.chip.nack }

/-- ALERT_CLEAR (Table 14.5): W1C on MGT_ALERT0–3. -/
def execAlertClear (data : List Byte) (pec : Option Byte) (s : State) : Host.Outcome State Fault Refusal :=
  .next { s with chip :=
    if data.length != 16 then s.chip.nack
    else s.chip.withPec ([0x19, 16] ++ data) pec (fun c =>
      c.setMgt (fun m => { m with alert := m.alert &&& ~~~ (BitVec.ofNat 128 (leNat data)) })) }

/-- ALERT_RESPONSE: answered with the own address while ALERT# is asserted, which releases it (R447). -/
def execAlertResponse (s : State) : Host.Outcome State Fault Refusal :=
  .next { s with chip :=
    if s.chip.mgtOn && s.chip.mgt.alertLine then
      let a : Byte := BitVec.ofNat 8 (2 * s.chip.mgtAddress)
      (s.chip.drive [a, BitVec.ofNat 8 (crc8 [0x19, a])]).setMgt (fun m => { m with alertLine := false })
    else s.chip.nack }

/-- SMBUS_TIMEOUT: SCL held low for 25 ms resets the interface (R447): the transaction in progress is gone. -/
def execSmbusTimeout (s : State) : Host.Outcome State Fault Refusal := .next { s with chip := s.chip.nack }

/-- REGISTER_WRITE: one byte into a register of the port's window that has no row of its own (R21, R443, R449). -/
def execRegisterWrite (port : PortSide) (addr : Nat) (value : Byte) (s : State) : Host.Outcome State Fault Refusal :=
  .next { s with chip :=
    match port with
    | .host => if s.chip.power.main.up then s.chip.hifWrite addr [value] else s.chip
    | .mgmt => if s.chip.mgtOn then s.chip.mgtWrite addr [value] else s.chip }

end Sys2Proof.Machine
end

