-- ==== Sys2Proof/Machine/Sessions.lean ====
section
/-! DEFINITION. Sessions and ABORT (spec/02, R62–R68, R85–R89, Table 2.14; spec/11, R370). -/

namespace Sys2Proof.Machine

/-! ### ABORT (R85, R86) -/

/-- Does a CAN_SEND stand in its controller, pending, queued or in flight? -/
def Chip.canHolds (c : Chip) (t : Cmd) : Bool :=
  let s := c.canOf t.inst
  let mine := fun (p : CanPend) => p.cmd == some (t.ctx, t.tag)
  t.family == 9 && t.opcode == 2 && (s.pend.any mine || s.queued.any mine || (match s.flight with
    | some f => mine f.pend
    | none => false))

/-- A capture that is aborted (R183): it is discarded, and held zeros stay. -/
def Chip.abortCapture (t : Cmd) (c : Chip) : Chip :=
  match c.cal.captures.find? (fun q => q.ctx == t.ctx && q.tag == t.tag) with
  | none => c
  | some q =>
    (c.setCal (fun s => { s with captures := s.captures.erase q })).calFinish (if q.span then 4 else 3) q.chan t.ctx t.tag
      stAborted []

/-- Stop a long operation that has started and not passed its point of no return, leaving what Table 2.14 gives; `none` where
it has passed it. -/
def Chip.stopLong (t : Cmd) (c : Chip) : Option Chip :=
  let abortedAs := fun (c : Chip) => some (c.finishTag t.ctx t.tag stAborted noOfs [])
  if t.family == 3 && t.opcode == 4 then
    if c.cal.captures.any (fun q => q.ctx == t.ctx && q.tag == t.tag) then some (c.abortCapture t) else none
  else if t.family == 4 && (t.opcode == 4 || t.opcode == 5) then abortedAs (c.abortMove t.inst)
  else if t.family == 8 && t.opcode == 1 then abortedAs (c.retrainAbort t.inst)
  else if t.family == 0xA && (t.opcode == 1 || t.opcode == 2) then abortedAs (c.regionAbort t.inst t.ctx t.tag)
  else if t.family == 0xC && t.opcode == 2 then abortedAs (c.setFw (fun f => { f with commit := none }))
  else if t.family == 0xC && t.opcode == 5 then abortedAs { c with image := { c.image with loading := none } }
  else if t.family == 0xE && t.opcode == 3 then abortedAs { c with selftest := none }
  else none

/-- Abort command `tag` of context `ctx`; `by_` is the command that asks (R86).  A packet rung and not yet fetched is past
aborting: TOO_LATE (DESIGN CHOICE, log entry 72: R86 speaks of targets that have been fetched, and of those not outstanding). -/
def Chip.abortOne (ctx tag : Nat) (by_ : Nat × Nat) (c : Chip) : CancelRes :=
  match c.findCmd ctx tag with
  | none => .tooLate
  | some t =>
    if (ctx, tag) == by_ then .tooLate
    else if c.canHolds t then c.cancelSend t.inst ctx tag by_
    else match t.phase with
      | .fetched => .withdrawn (c.finish t stAborted noOfs [])
      | .committed => .tooLate
      | .running => match c.stopLong t with
        | some c1 => .withdrawn c1
        | none => .tooLate

/-- ABORT (R85). -/
def bodyAbort (k : Cmd) (c : Chip) : Res :=
  let p := k.payload
  if p.length != 4 then .badLength c
  else if !zeroAt p 3 1 then .badParam 3 c
  else match namedCtx k (fld p 2 1) with
    | none => .err stNotOwner 18 c
    | some ctx => match c.abortOne ctx (fld p 0 2) (k.ctx, k.tag) with
      | .tooLate => .err stTooLate noOfs c
      | .withdrawn c1 => .ok c1
      | .waits c1 => .waiting c1

/-! ### Sessions (R62–R68) -/

/-- ABORT to every other command of a context (R68); a CAN frame in flight ends with its attempt. -/
def Chip.abortOthers (ctx tag : Nat) (c : Chip) : Chip :=
  ((c.outstanding ctx).filter (fun t => t.tag != tag)).foldl (fun c t =>
    match c.abortOne ctx t.tag (ctx, 0x10000) with
    | .tooLate => c
    | .withdrawn c1 => c1
    | .waits c1 => c1) c

/-- SESSION_OPEN (R62, R66): it completes once nothing else is outstanding on the context. -/
def bodySessionOpen (k : Cmd) (c : Chip) : Res :=
  let p := k.payload
  if p.length != 8 then .badLength c
  else if fld p 4 2 < 1 || 64 < fld p 4 2 then .badParam 4 c
  else if !zeroAt p 6 2 then .badParam 6 c
  else .waiting (c.abortOthers k.ctx k.tag)

/-- SESSION_CLOSE (R68). -/
def bodySessionClose (k : Cmd) (c : Chip) : Res :=
  if k.payload.length != 0 then .badLength c else .waiting (c.abortOthers k.ctx k.tag)

/-- ECHO (R89). -/
def bodyEcho (k : Cmd) (c : Chip) : Res := if 4076 < k.payload.length then .badLength c else .okWith k.payload c

/-- REMOTE_SESSION_TIMEOUT: the source of a session has had no path for 30 s; the session closes under R68 (R370). -/
def Chip.remoteTimeout (ctx : Nat) (c : Chip) : Chip :=
  match Tbl.get dNone c.fabric.remotes ctx with
  | none => c
  | some (node, _) =>
    match Tbl.get dNone c.fabric.noPath node with
    | none => c
    | some t =>
      if !(isRemoteCtx ctx && (c.session ctx).opened) then c
      else ((c.waitUntil (t + sec 30)).abortOthers ctx 0x10000).endSession ctx

/-! ### Meanings -/

/-- SESSION_OPEN (R62). -/
def execSessionOpen (ctx tag : Nat) (s : State) : Host.Outcome State Fault Refusal :=
  .next { s with chip := (s.chip.runCmd 0 0 bodySessionOpen ctx tag).completeClosing ctx }

/-- SESSION_CLOSE (R68). -/
def execSessionClose (ctx tag : Nat) (s : State) : Host.Outcome State Fault Refusal :=
  .next { s with chip := (s.chip.runCmd 0 1 bodySessionClose ctx tag).completeClosing ctx }

/-- ABORT (R85). -/
def execAbort (ctx tag : Nat) (s : State) : Host.Outcome State Fault Refusal :=
  .next { s with chip := s.chip.runCmd 0 3 bodyAbort ctx tag }

/-- ECHO (R89). -/
def execEcho (ctx tag : Nat) (s : State) : Host.Outcome State Fault Refusal :=
  .next { s with chip := s.chip.runCmd 0 4 bodyEcho ctx tag }

/-- REMOTE_SESSION_TIMEOUT (R370). -/
def execRemoteSessionTimeout (ctx : Nat) (s : State) : Host.Outcome State Fault Refusal :=
  .next { s with chip := s.chip.remoteTimeout ctx }

end Sys2Proof.Machine
end

