-- ==== Sys2Proof/Machine/Dispatch.lean ====
section
/-! DEFINITION. One arm for each command of Sys2Proof/Syntax.lean: a direct call of its meaning. -/

namespace Sys2Proof.Machine

def exec (i : Instr) (s : State) : Host.Outcome State Fault Refusal :=
  match i with
  | .sessionOpen ctx tag => Sys2Proof.Machine.execSessionOpen ctx tag s
  | .sessionClose ctx tag => Sys2Proof.Machine.execSessionClose ctx tag s
  | .heartbeat ctx tag => Sys2Proof.Machine.execHeartbeat ctx tag s
  | .abort ctx tag => Sys2Proof.Machine.execAbort ctx tag s
  | .echo ctx tag => Sys2Proof.Machine.execEcho ctx tag s
  | .objGet ctx tag => Sys2Proof.Machine.execObjGet ctx tag s
  | .objSet ctx tag => Sys2Proof.Machine.execObjSet ctx tag s
  | .objStage ctx tag => Sys2Proof.Machine.execObjStage ctx tag s
  | .objCommit ctx tag => Sys2Proof.Machine.execObjCommit ctx tag s
  | .objDiscard ctx tag => Sys2Proof.Machine.execObjDiscard ctx tag s
  | .objCreate ctx tag => Sys2Proof.Machine.execObjCreate ctx tag s
  | .objDelete ctx tag => Sys2Proof.Machine.execObjDelete ctx tag s
  | .objOwner ctx tag => Sys2Proof.Machine.execObjOwner ctx tag s
  | .objList ctx tag => Sys2Proof.Machine.execObjList ctx tag s
  | .streamOpen ctx tag => Sys2Proof.Machine.execStreamOpen ctx tag s
  | .streamClose ctx tag => Sys2Proof.Machine.execStreamClose ctx tag s
  | .signalRead ctx tag => Sys2Proof.Machine.execSignalRead ctx tag s
  | .signalForce ctx tag => Sys2Proof.Machine.execSignalForce ctx tag s
  | .signalRelease ctx tag => Sys2Proof.Machine.execSignalRelease ctx tag s
  | .seqStart ctx tag => Sys2Proof.Machine.execSeqStart ctx tag s
  | .seqStop ctx tag => Sys2Proof.Machine.execSeqStop ctx tag s
  | .seqRead ctx tag => Sys2Proof.Machine.execSeqRead ctx tag s
  | .calZero ctx tag => Sys2Proof.Machine.execCalZero ctx tag s
  | .calSpan ctx tag => Sys2Proof.Machine.execCalSpan ctx tag s
  | .calRead ctx tag => Sys2Proof.Machine.execCalRead ctx tag s
  | .calWrite ctx tag => Sys2Proof.Machine.execCalWrite ctx tag s
  | .calCaptureDone chan codes clipped => Sys2Proof.Machine.execCalCaptureDone chan codes clipped s
  | .calCaptureTimeout chan => Sys2Proof.Machine.execCalCaptureTimeout chan s
  | .zeroCaptureExpiry chan range => Sys2Proof.Machine.execZeroCaptureExpiry chan range s
  | .calStoreWriteDone mismatches => Sys2Proof.Machine.execCalStoreWriteDone mismatches s
  | .pwmGroupEnable ctx tag => Sys2Proof.Machine.execPwmGroupEnable ctx tag s
  | .pwmGroupDisable ctx tag => Sys2Proof.Machine.execPwmGroupDisable ctx tag s
  | .groupSafe ctx tag => Sys2Proof.Machine.execGroupSafe ctx tag s
  | .tripClear ctx tag => Sys2Proof.Machine.execTripClear ctx tag s
  | .damperMove ctx tag => Sys2Proof.Machine.execDamperMove ctx tag s
  | .damperRehome ctx tag => Sys2Proof.Machine.execDamperRehome ctx tag s
  | .valveSet ctx tag => Sys2Proof.Machine.execValveSet ctx tag s
  | .fanSet ctx tag => Sys2Proof.Machine.execFanSet ctx tag s
  | .actFaultClear ctx tag => Sys2Proof.Machine.execActFaultClear ctx tag s
  | .loopEnable ctx tag => Sys2Proof.Machine.execLoopEnable ctx tag s
  | .loopDisable ctx tag => Sys2Proof.Machine.execLoopDisable ctx tag s
  | .bankSwap ctx tag => Sys2Proof.Machine.execBankSwap ctx tag s
  | .loopStatus ctx tag => Sys2Proof.Machine.execLoopStatus ctx tag s
  | .integratorPreset ctx tag => Sys2Proof.Machine.execIntegratorPreset ctx tag s
  | .satClear ctx tag => Sys2Proof.Machine.execSatClear ctx tag s
  | .zoneStatus ctx tag => Sys2Proof.Machine.execZoneStatus ctx tag s
  | .fitEnable ctx tag => Sys2Proof.Machine.execFitEnable ctx tag s
  | .fitDisable ctx tag => Sys2Proof.Machine.execFitDisable ctx tag s
  | .suspectOverride ctx tag => Sys2Proof.Machine.execSuspectOverride ctx tag s
  | .presenceRead ctx tag => Sys2Proof.Machine.execPresenceRead ctx tag s
  | .predictStart ctx tag => Sys2Proof.Machine.execPredictStart ctx tag s
  | .timeCapture ctx tag => Sys2Proof.Machine.execTimeCapture ctx tag s
  | .timeSet ctx tag => Sys2Proof.Machine.execTimeSet ctx tag s
  | .calendarSet ctx tag => Sys2Proof.Machine.execCalendarSet ctx tag s
  | .wakeSet ctx tag => Sys2Proof.Machine.execWakeSet ctx tag s
  | .alarmSet ctx tag => Sys2Proof.Machine.execAlarmSet ctx tag s
  | .ephemerisRead ctx tag => Sys2Proof.Machine.execEphemerisRead ctx tag s
  | .ephemerisWrite ctx tag => Sys2Proof.Machine.execEphemerisWrite ctx tag s
  | .ephemerisFlashDone ok => Sys2Proof.Machine.execEphemerisFlashDone ok s
  | .scheduleStatus ctx tag => Sys2Proof.Machine.execScheduleStatus ctx tag s
  | .linkStatus ctx tag => Sys2Proof.Machine.execLinkStatus ctx tag s
  | .linkRetrain ctx tag => Sys2Proof.Machine.execLinkRetrain ctx tag s
  | .linkRetrainDone link => Sys2Proof.Machine.execLinkRetrainDone link s
  | .topologyRead ctx tag => Sys2Proof.Machine.execTopologyRead ctx tag s
  | .routeStatus ctx tag => Sys2Proof.Machine.execRouteStatus ctx tag s
  | .bellwetherStatus ctx tag => Sys2Proof.Machine.execBellwetherStatus ctx tag s
  | .policeCounters ctx tag => Sys2Proof.Machine.execPoliceCounters ctx tag s
  | .canStart ctx tag => Sys2Proof.Machine.execCanStart ctx tag s
  | .canStop ctx tag => Sys2Proof.Machine.execCanStop ctx tag s
  | .canSend ctx tag => Sys2Proof.Machine.execCanSend ctx tag s
  | .canCancel ctx tag => Sys2Proof.Machine.execCanCancel ctx tag s
  | .canStatus ctx tag => Sys2Proof.Machine.execCanStatus ctx tag s
  | .canTimeMaster ctx tag => Sys2Proof.Machine.execCanTimeMaster ctx tag s
  | .panelPower ctx tag => Sys2Proof.Machine.execPanelPower ctx tag s
  | .regionUpdate ctx tag => Sys2Proof.Machine.execRegionUpdate ctx tag s
  | .regionClear ctx tag => Sys2Proof.Machine.execRegionClear ctx tag s
  | .panelStatus ctx tag => Sys2Proof.Machine.execPanelStatus ctx tag s
  | .ledgerSweep ctx tag => Sys2Proof.Machine.execLedgerSweep ctx tag s
  | .fieldRefresh ctx tag => Sys2Proof.Machine.execFieldRefresh ctx tag s
  | .powerStatus ctx tag => Sys2Proof.Machine.execPowerStatus ctx tag s
  | .thermalStatus ctx tag => Sys2Proof.Machine.execThermalStatus ctx tag s
  | .reset ctx tag => Sys2Proof.Machine.execReset ctx tag s
  | .resetDelayExpiry => Sys2Proof.Machine.execResetDelayExpiry s
  | .resetCauseRead ctx tag => Sys2Proof.Machine.execResetCauseRead ctx tag s
  | .budgetSet ctx tag => Sys2Proof.Machine.execBudgetSet ctx tag s
  | .fwInfo ctx tag => Sys2Proof.Machine.execFwInfo ctx tag s
  | .fwWrite ctx tag => Sys2Proof.Machine.execFwWrite ctx tag s
  | .fwCommit ctx tag => Sys2Proof.Machine.execFwCommit ctx tag s
  | .fwCommitDone mismatches => Sys2Proof.Machine.execFwCommitDone mismatches s
  | .fwSelect ctx tag => Sys2Proof.Machine.execFwSelect ctx tag s
  | .yelistWrite ctx tag => Sys2Proof.Machine.execYelistWrite ctx tag s
  | .yelistLoad ctx tag => Sys2Proof.Machine.execYelistLoad ctx tag s
  | .yelistLoadDone panelsIdle flashError => Sys2Proof.Machine.execYelistLoadDone panelsIdle flashError s
  | .identityRead ctx tag => Sys2Proof.Machine.execIdentityRead ctx tag s
  | .eventRoute ctx tag => Sys2Proof.Machine.execEventRoute ctx tag s
  | .eventMask ctx tag => Sys2Proof.Machine.execEventMask ctx tag s
  | .eventRead ctx tag => Sys2Proof.Machine.execEventRead ctx tag s
  | .queueConfig ctx tag => Sys2Proof.Machine.execQueueConfig ctx tag s
  | .queueStatus ctx tag => Sys2Proof.Machine.execQueueStatus ctx tag s
  | .coalesceSet ctx tag => Sys2Proof.Machine.execCoalesceSet ctx tag s
  | .logRead ctx tag => Sys2Proof.Machine.execLogRead ctx tag s
  | .logClear ctx tag => Sys2Proof.Machine.execLogClear ctx tag s
  | .countersRead ctx tag => Sys2Proof.Machine.execCountersRead ctx tag s
  | .selftest ctx tag => Sys2Proof.Machine.execSelftest ctx tag s
  | .selftestDone pass fail stores => Sys2Proof.Machine.execSelftestDone pass fail stores s
  | .sheepdogStatus ctx tag => Sys2Proof.Machine.execSheepdogStatus ctx tag s
  | .commandFetch ctx => Sys2Proof.Machine.execCommandFetch ctx s
  | .deadlineExpiry ctx tag => Sys2Proof.Machine.execDeadlineExpiry ctx tag s
  | .deliveryRecordWrite event => Sys2Proof.Machine.execDeliveryRecordWrite event s
  | .coalTimeExpiry queue => Sys2Proof.Machine.execCoalTimeExpiry queue s
  | .regRead addr len => Sys2Proof.Machine.execRegRead addr len s
  | .regWrite addr data crc => Sys2Proof.Machine.execRegWrite addr data crc s
  | .regReadQ addr len => Sys2Proof.Machine.execRegReadQ addr len s
  | .regWriteQ addr data crc => Sys2Proof.Machine.execRegWriteQ addr data crc s
  | .ringRead addr len => Sys2Proof.Machine.execRingRead addr len s
  | .ringWrite addr data crc => Sys2Proof.Machine.execRingWrite addr data crc s
  | .ringReadQ addr len => Sys2Proof.Machine.execRingReadQ addr len s
  | .ringWriteQ addr data crc => Sys2Proof.Machine.execRingWriteQ addr data crc s
  | .hifWriteApply => Sys2Proof.Machine.execHifWriteApply s
  | .hifEvtAck event => Sys2Proof.Machine.execHifEvtAck event s
  | .doorbell queue index => Sys2Proof.Machine.execDoorbell queue index s
  | .hifBind hctx value => Sys2Proof.Machine.execHifBind hctx value s
  | .hifErrcntRestart first data => Sys2Proof.Machine.execHifErrcntRestart first data s
  | .rtcTimeRead port index => Sys2Proof.Machine.execRtcTimeRead port index s
  | .rtcShadowTimeout port => Sys2Proof.Machine.execRtcShadowTimeout port s
  | .rtcSecStage port index value => Sys2Proof.Machine.execRtcSecStage port index value s
  | .rtcSec4Commit port value => Sys2Proof.Machine.execRtcSec4Commit port value s
  | .pwrOnAssert port => Sys2Proof.Machine.execPwrOnAssert port s
  | .pwrOnRelease port => Sys2Proof.Machine.execPwrOnRelease port s
  | .registerWrite port addr value => Sys2Proof.Machine.execRegisterWrite port addr value s
  | .id => Sys2Proof.Machine.execId s
  | .status => Sys2Proof.Machine.execStatus s
  | .resetMain pec => Sys2Proof.Machine.execResetMain pec s
  | .holdMain pec => Sys2Proof.Machine.execHoldMain pec s
  | .releaseMain pec => Sys2Proof.Machine.execReleaseMain pec s
  | .safeAll pec => Sys2Proof.Machine.execSafeAll pec s
  | .mgtRegRead addr n => Sys2Proof.Machine.execMgtRegRead addr n s
  | .mgtRegWrite addr data pec => Sys2Proof.Machine.execMgtRegWrite addr data pec s
  | .mgtSafeHold group => Sys2Proof.Machine.execMgtSafeHold group s
  | .mgtSafeRelease group => Sys2Proof.Machine.execMgtSafeRelease group s
  | .pktWrite flags data pec => Sys2Proof.Machine.execPktWrite flags data pec s
  | .pktRead => Sys2Proof.Machine.execPktRead s
  | .pktReread => Sys2Proof.Machine.execPktReread s
  | .alertRead => Sys2Proof.Machine.execAlertRead s
  | .alertClear data pec => Sys2Proof.Machine.execAlertClear data pec s
  | .alertResponse => Sys2Proof.Machine.execAlertResponse s
  | .smbusTimeout => Sys2Proof.Machine.execSmbusTimeout s
  | .alwaysOnPorExit vsysR vact ft => Sys2Proof.Machine.execAlwaysOnPorExit vsysR vact ft s
  | .alwaysOnPorEntry vsysR vact => Sys2Proof.Machine.execAlwaysOnPorEntry vsysR vact s
  | .vsysLow vsysR => Sys2Proof.Machine.execVsysLow vsysR s
  | .powerFail vsysR => Sys2Proof.Machine.execPowerFail vsysR s
  | .vactLow vact => Sys2Proof.Machine.execVactLow vact s
  | .vactShed vact => Sys2Proof.Machine.execVactShed vact s
  | .vactRestore vact => Sys2Proof.Machine.execVactRestore vact s
  | .vactSwitchTrip => Sys2Proof.Machine.execVactSwitchTrip s
  | .vactSwitchRetry => Sys2Proof.Machine.execVactSwitchRetry s
  | .hotswapCharged vsysR ac => Sys2Proof.Machine.execHotswapCharged vsysR ac s
  | .hotswapFault peak => Sys2Proof.Machine.execHotswapFault peak s
  | .hotswapFastTrip peak => Sys2Proof.Machine.execHotswapFastTrip peak s
  | .hotswapRetry => Sys2Proof.Machine.execHotswapRetry s
  | .backupDomainReset => Sys2Proof.Machine.execBackupDomainReset s
  | .hresetAssert => Sys2Proof.Machine.execHresetAssert s
  | .hresetRelease => Sys2Proof.Machine.execHresetRelease s
  | .debugReset => Sys2Proof.Machine.execDebugReset s
  | .debugHalt => Sys2Proof.Machine.execDebugHalt s
  | .debugHaltRelease => Sys2Proof.Machine.execDebugHaltRelease s
  | .boot vbat bootMs boot0 boot1 => Sys2Proof.Machine.execBoot vbat bootMs boot0 boot1 s
  | .refStop => Sys2Proof.Machine.execRefStop s
  | .refRestart => Sys2Proof.Machine.execRefRestart s
  | .syncInPulse => Sys2Proof.Machine.execSyncInPulse s
  | .periodBoundary group => Sys2Proof.Machine.execPeriodBoundary group s
  | .delayLineCalibration failed => Sys2Proof.Machine.execDelayLineCalibration failed s
  | .haltHoldExpiry group => Sys2Proof.Machine.execHaltHoldExpiry group s
  | .overcurrentTrip port => Sys2Proof.Machine.execOvercurrentTrip port s
  | .protectEntry port high low => Sys2Proof.Machine.execProtectEntry port high low s
  | .protectExit port => Sys2Proof.Machine.execProtectExit port s
  | .retryFault port kind => Sys2Proof.Machine.execRetryFault port kind s
  | .overloadAverageUpdate port current => Sys2Proof.Machine.execOverloadAverageUpdate port current s
  | .retryExpiry port => Sys2Proof.Machine.execRetryExpiry port s
  | .settlingExpiry port => Sys2Proof.Machine.execSettlingExpiry port s
  | .dinEdge port termB mv => Sys2Proof.Machine.execDinEdge port termB mv s
  | .debounceExpiry port termB => Sys2Proof.Machine.execDebounceExpiry port termB s
  | .sbusPoll port reads => Sys2Proof.Machine.execSbusPoll port reads s
  | .sbusStuck port => Sys2Proof.Machine.execSbusStuck port s
  | .pyroSettleExpiry port => Sys2Proof.Machine.execPyroSettleExpiry port s
  | .outputSourceCheck port => Sys2Proof.Machine.execOutputSourceCheck port s
  | .seqPassDue head => Sys2Proof.Machine.execSeqPassDue head s
  | .seqPassStart head => Sys2Proof.Machine.execSeqPassStart head s
  | .conversionResult entry codes high low ripple skew => Sys2Proof.Machine.execConversionResult entry codes high low ripple skew s
  | .seqPassEnd head => Sys2Proof.Machine.execSeqPassEnd head s
  | .equalisation slice ref zero => Sys2Proof.Machine.execEqualisation slice ref zero s
  | .housekeeping chan code => Sys2Proof.Machine.execHousekeeping chan code s
  | .rippleLost port => Sys2Proof.Machine.execRippleLost port s
  | .endstopTouch port => Sys2Proof.Machine.execEndstopTouch port s
  | .damperMoveEnd port => Sys2Proof.Machine.execDamperMoveEnd port s
  | .dwellExpiry port => Sys2Proof.Machine.execDwellExpiry port s
  | .damperOpenLoad port => Sys2Proof.Machine.execDamperOpenLoad port s
  | .maxRunExpiry port => Sys2Proof.Machine.execMaxRunExpiry port s
  | .rehomeIntExpiry port => Sys2Proof.Machine.execRehomeIntExpiry port s
  | .damperTargetChange port => Sys2Proof.Machine.execDamperTargetChange port s
  | .positionWrite port => Sys2Proof.Machine.execPositionWrite port s
  | .boostExpiry port => Sys2Proof.Machine.execBoostExpiry port s
  | .valveOpenLoad port => Sys2Proof.Machine.execValveOpenLoad port s
  | .floatingValveDriveEnd port => Sys2Proof.Machine.execFloatingValveDriveEnd port s
  | .spinupWindowEnd port => Sys2Proof.Machine.execSpinupWindowEnd port s
  | .gapEnd port => Sys2Proof.Machine.execGapEnd port s
  | .tachEdge port => Sys2Proof.Machine.execTachEdge port s
  | .tachLost port => Sys2Proof.Machine.execTachLost port s
  | .actuatorSourceCheck port => Sys2Proof.Machine.execActuatorSourceCheck port s
  | .fanWatchdog => Sys2Proof.Machine.execFanWatchdog s
  | .slotSourceCheck port => Sys2Proof.Machine.execSlotSourceCheck port s
  | .loopTrigger loop => Sys2Proof.Machine.execLoopTrigger loop s
  | .loopEvaluation work => Sys2Proof.Machine.execLoopEvaluation work s
  | .starved loop => Sys2Proof.Machine.execStarved loop s
  | .satAlarm loop => Sys2Proof.Machine.execSatAlarm loop s
  | .zoneUpdate zone => Sys2Proof.Machine.execZoneUpdate zone s
  | .reinitTimeout zone => Sys2Proof.Machine.execReinitTimeout zone s
  | .suspendExpiry zone => Sys2Proof.Machine.execSuspendExpiry zone s
  | .prediction => Sys2Proof.Machine.execPrediction s
  | .presenceEvidence zone source => Sys2Proof.Machine.execPresenceEvidence zone source s
  | .holdExpiry zone => Sys2Proof.Machine.execHoldExpiry zone s
  | .presSidRefresh zone => Sys2Proof.Machine.execPresSidRefresh zone s
  | .alarm => Sys2Proof.Machine.execAlarm s
  | .wake => Sys2Proof.Machine.execWake s
  | .trimInterval temp => Sys2Proof.Machine.execTrimInterval temp s
  | .scheduleEvaluation => Sys2Proof.Machine.execScheduleEvaluation s
  | .optimalStartCheck zone => Sys2Proof.Machine.execOptimalStartCheck zone s
  | .earlyStart zone => Sys2Proof.Machine.execEarlyStart zone s
  | .linkSignalDetected link => Sys2Proof.Machine.execLinkSignalDetected link s
  | .phyLinkEstablished link level => Sys2Proof.Machine.execPhyLinkEstablished link level s
  | .trainingTimeout link => Sys2Proof.Machine.execTrainingTimeout link s
  | .version link minVer maxVer => Sys2Proof.Machine.execVersion link minVer maxVer s
  | .ident link body => Sys2Proof.Machine.execIdent link body s
  | .linkFrameResend link => Sys2Proof.Machine.execLinkFrameResend link s
  | .isolatedRenegotiate link => Sys2Proof.Machine.execIsolatedRenegotiate link s
  | .hello link => Sys2Proof.Machine.execHello link s
  | .helloSend link => Sys2Proof.Machine.execHelloSend link s
  | .helloTimeout link => Sys2Proof.Machine.execHelloTimeout link s
  | .phyLinkLoss link => Sys2Proof.Machine.execPhyLinkLoss link s
  | .lsa link ack body => Sys2Proof.Machine.execLsa link ack body s
  | .lsaRefresh => Sys2Proof.Machine.execLsaRefresh s
  | .lsaResend link uid => Sys2Proof.Machine.execLsaResend link uid s
  | .lsaAgeout uid => Sys2Proof.Machine.execLsaAgeout uid s
  | .addrReq link uid requested persisted => Sys2Proof.Machine.execAddrReq link uid requested persisted s
  | .addrGrant link uid addr => Sys2Proof.Machine.execAddrGrant link uid addr s
  | .addressPersistDone => Sys2Proof.Machine.execAddressPersistDone s
  | .frameForward link frame fcsOk => Sys2Proof.Machine.execFrameForward link frame fcsOk s
  | .timeSend link => Sys2Proof.Machine.execTimeSend link s
  | .time link body => Sys2Proof.Machine.execTime link body s
  | .pdelay link delayNs => Sys2Proof.Machine.execPdelay link delayNs s
  | .upstreamTimeout => Sys2Proof.Machine.execUpstreamTimeout s
  | .bellwetherSteer => Sys2Proof.Machine.execBellwetherSteer s
  | .followerRtcCheck => Sys2Proof.Machine.execFollowerRtcCheck s
  | .signal link src cls payload => Sys2Proof.Machine.execSignal link src cls payload s
  | .exportFrame node stream => Sys2Proof.Machine.execExportFrame node stream s
  | .subscribe link body => Sys2Proof.Machine.execSubscribe link body s
  | .accept src stream => Sys2Proof.Machine.execAccept src stream s
  | .refuse src stream reason => Sys2Proof.Machine.execRefuse src stream reason s
  | .unsubscribe src stream => Sys2Proof.Machine.execUnsubscribe src stream s
  | .subscribeRetry stream => Sys2Proof.Machine.execSubscribeRetry stream s
  | .subscriptionDrop node stream => Sys2Proof.Machine.execSubscriptionDrop node stream s
  | .hostStreamRecord stream => Sys2Proof.Machine.execHostStreamRecord stream s
  | .phiveox link src token cls packet => Sys2Proof.Machine.execPhiveox link src token cls packet s
  | .remoteSessionTimeout ctx => Sys2Proof.Machine.execRemoteSessionTimeout ctx s
  | .canArbitrationStart ctl won => Sys2Proof.Machine.execCanArbitrationStart ctl won s
  | .txDone ctl => Sys2Proof.Machine.execTxDone ctl s
  | .canFrameReceived ctl frame => Sys2Proof.Machine.execCanFrameReceived ctl frame s
  | .canErrorFrame ctl errType dataPhase id tec recv => Sys2Proof.Machine.execCanErrorFrame ctl errType dataPhase id tec recv s
  | .busOffRecovered ctl => Sys2Proof.Machine.execBusOffRecovered ctl s
  | .domTimeout ctl => Sys2Proof.Machine.execDomTimeout ctl s
  | .wup ctl => Sys2Proof.Machine.execWup ctl s
  | .referenceMessage ctl prio cycle => Sys2Proof.Machine.execReferenceMessage ctl prio cycle s
  | .referenceDue ctl won => Sys2Proof.Machine.execReferenceDue ctl won s
  | .windowStart ctl busIdle => Sys2Proof.Machine.execWindowStart ctl busIdle s
  | .s2Timeout ctl => Sys2Proof.Machine.execS2Timeout ctl s
  | .noWindow ctl ctx tag => Sys2Proof.Machine.execNoWindow ctl ctx tag s
  | .txobjPeriod ctl obj => Sys2Proof.Machine.execTxobjPeriod ctl obj s
  | .txobjSlotChange ctl obj => Sys2Proof.Machine.execTxobjSlotChange ctl obj s
  | .panelFrameBoundary panel late => Sys2Proof.Machine.execPanelFrameBoundary panel late s
  | .railStep panel => Sys2Proof.Machine.execRailStep panel s
  | .railFault panel notGood riseTimeout => Sys2Proof.Machine.execRailFault panel notGood riseTimeout s
  | .railIdleExpiry panel => Sys2Proof.Machine.execRailIdleExpiry panel s
  | .regionSnapshot panel => Sys2Proof.Machine.execRegionSnapshot panel s
  | .bandEvaluation panel => Sys2Proof.Machine.execBandEvaluation panel s
  | .sweepTile panel => Sys2Proof.Machine.execSweepTile panel s
  | .compositorRead => Sys2Proof.Machine.execCompositorRead s
  | .thermalUpdate power sites => Sys2Proof.Machine.execThermalUpdate power sites s
  | .throttleStepTaken => Sys2Proof.Machine.execThrottleStepTaken s
  | .throttleStepUndone => Sys2Proof.Machine.execThrottleStepUndone s
  | .shutdownRelease => Sys2Proof.Machine.execShutdownRelease s
  | .coreDog core rerun => Sys2Proof.Machine.execCoreDog core rerun s
  | .engineDog dog => Sys2Proof.Machine.execEngineDog dog s
  | .foldDog dram port hand => Sys2Proof.Machine.execFoldDog dram port hand s
  | .mainDog core => Sys2Proof.Machine.execMainDog core s
  | .bootDog => Sys2Proof.Machine.execBootDog s
  | .memoryEcc mem addr single => Sys2Proof.Machine.execMemoryEcc mem addr single s
  | .shepherdDog => Sys2Proof.Machine.execShepherdDog s
  | .heartbeatLost => Sys2Proof.Machine.execHeartbeatLost s
  | .vsysReturn vsysR => Sys2Proof.Machine.execVsysReturn vsysR s
  | .hotswapUnlatch => Sys2Proof.Machine.execHotswapUnlatch s
  | .logClearDone => Sys2Proof.Machine.execLogClearDone s
  | .followPulseTimeout group => Sys2Proof.Machine.execFollowPulseTimeout group s
  | .openLoop port => Sys2Proof.Machine.execOpenLoop port s
  | .corruptFrame link kind => Sys2Proof.Machine.execCorruptFrame link kind s
  | .presenceSourceLost zone source => Sys2Proof.Machine.execPresenceSourceLost zone source s
  | .speedZero port => Sys2Proof.Machine.execSpeedZero port s
  | .fieldRenderDue field => Sys2Proof.Machine.execFieldRenderDue field s

end Sys2Proof.Machine
end

