-- ==== Sys2Proof/Safety.lean ====
section
/-! DEFINITION. What counts as a safe run, and the conditions in which the statements are written. -/

namespace Sys2Proof

/-- One step answers a next state: the machine neither faults nor refuses. -/
def StepSafe (s : Machine.State) : Prop := ∃ t, Machine.step s = .next t

/-- The outstanding command `k` may run now as opcode `op` of family `fam` (R42, R55, R57, R59, R69 check 9, R73): the main side is
up, the command has been fetched and not started, nothing it must wait for is outstanding, its deadline has not passed, it comes
from its object's owner, and the object is this module's. -/
structure Ready (fam op : Nat) (k : Machine.Cmd) (s : Machine.State) : Prop where
  up : s.chip.power.main.up = true
  found : s.chip.findCmd k.ctx k.tag = some k
  family : k.family = fam
  opcode : k.opcode = op
  startable : s.chip.mayStart k = true
  inTime : s.chip.pastDeadline k = false
  owned : s.chip.ownerRefuses k = false
  here : s.chip.elsewhere k = false

/-- As `Ready`, but the command names a slot of another node (R59). -/
structure Relayed (fam op : Nat) (k : Machine.Cmd) (s : Machine.State) : Prop where
  up : s.chip.power.main.up = true
  found : s.chip.findCmd k.ctx k.tag = some k
  family : k.family = fam
  opcode : k.opcode = op
  startable : s.chip.mayStart k = true
  inTime : s.chip.pastDeadline k = false
  owned : s.chip.ownerRefuses k = false
  there : s.chip.elsewhere k = true

/-- The command `i` leaves the module at `c`, and the queue as it was. -/
def Leads (i : Instr) (s : Machine.State) (c : Machine.Chip) : Prop := Machine.exec i s = .next { s with chip := c }

/-- The command `i`, which runs the outstanding command `k`, has the effect that leaves the module at `c`, and ends it with
the status OK and reply data. -/
def Answers (i : Instr) (k : Machine.Cmd) (s : Machine.State) (data : List Byte) (c : Machine.Chip) : Prop :=
  Leads i s (c.finish k Machine.stOK Machine.noOfs data)

/-- The command `i` starts the long operation `k`, leaving the module at `c` but for the interim ACCEPTED (R72). -/
def Starts (i : Instr) (k : Machine.Cmd) (s : Machine.State) (c : Machine.Chip) : Prop := Leads i s (c.accept k)

/-- Event `e` has fired with a CAUSE word and is PENDING. -/
def Fired (c : Machine.Chip) (e : Nat) (cause : Nat) : Prop :=
  (c.event e).pending = true ∧ (c.event e).cause = BitVec.ofNat 32 cause

/-- The main side is up and the event's resource is there, so that a firing reaches the router (R10, R92, R504). -/
def Fires (c : Machine.Chip) (e : Nat) : Prop :=
  c.power.main.up = true ∧ Machine.eventNever c.fuses.variant e = false

/-- A memory of the module (a ring, the flash, backup RAM) is in canonical form: addresses strictly rising, and no entry equal
to what an unlisted address reads as. -/
def Machine.Memory.wf (unlisted : Nat → Byte) (t : Machine.Tbl Byte) : Bool := Machine.Tbl.wf unlisted t

/-- The memories of the module are in canonical form: queue rings, flash, and backup RAM. -/
def Machine.Chip.memoriesWf (c : Machine.Chip) : Bool :=
  Machine.Memory.wf Machine.dByte0 c.ring && Machine.Memory.wf Machine.dByteFF c.flash && Machine.Memory.wf Machine.dByte0 c.rtc.bkp

/-- The actuators and sensors of the module hold still: what no communication changes. -/
def SamePlant (c d : Machine.Chip) : Prop :=
  d.slots = c.slots ∧ d.attrs = c.attrs ∧ d.ports = c.ports ∧ d.groups = c.groups ∧ d.bridges = c.bridges ∧ d.motors = c.motors ∧
    d.valves = c.valves ∧ d.fans = c.fans ∧ d.zones = c.zones ∧ d.panels = c.panels ∧ d.flash = c.flash

/-- What a command row runs (Table 2.9): family, opcode, context and tag; none for a row that runs no opcode. -/
def opcodeRow : Instr → Option (Nat × Nat × Nat × Nat)
  | .sessionOpen c t => some (0, 0, c, t)
  | .sessionClose c t => some (0, 1, c, t)
  | .heartbeat c t => some (0, 2, c, t)
  | .abort c t => some (0, 3, c, t)
  | .echo c t => some (0, 4, c, t)
  | .objGet c t => some (1, 0, c, t)
  | .objSet c t => some (1, 1, c, t)
  | .objStage c t => some (1, 2, c, t)
  | .objCommit c t => some (1, 3, c, t)
  | .objDiscard c t => some (1, 4, c, t)
  | .objCreate c t => some (1, 5, c, t)
  | .objDelete c t => some (1, 6, c, t)
  | .objOwner c t => some (1, 7, c, t)
  | .objList c t => some (1, 8, c, t)
  | .streamOpen c t => some (2, 0, c, t)
  | .streamClose c t => some (2, 1, c, t)
  | .signalRead c t => some (2, 2, c, t)
  | .signalForce c t => some (2, 3, c, t)
  | .signalRelease c t => some (2, 4, c, t)
  | .seqStart c t => some (3, 0, c, t)
  | .seqStop c t => some (3, 1, c, t)
  | .seqRead c t => some (3, 2, c, t)
  | .calZero c t => some (3, 3, c, t)
  | .calSpan c t => some (3, 4, c, t)
  | .calRead c t => some (3, 5, c, t)
  | .calWrite c t => some (3, 6, c, t)
  | .pwmGroupEnable c t => some (4, 0, c, t)
  | .pwmGroupDisable c t => some (4, 1, c, t)
  | .groupSafe c t => some (4, 2, c, t)
  | .tripClear c t => some (4, 3, c, t)
  | .damperMove c t => some (4, 4, c, t)
  | .damperRehome c t => some (4, 5, c, t)
  | .valveSet c t => some (4, 6, c, t)
  | .fanSet c t => some (4, 7, c, t)
  | .actFaultClear c t => some (4, 8, c, t)
  | .loopEnable c t => some (5, 0, c, t)
  | .loopDisable c t => some (5, 1, c, t)
  | .bankSwap c t => some (5, 2, c, t)
  | .loopStatus c t => some (5, 3, c, t)
  | .integratorPreset c t => some (5, 4, c, t)
  | .satClear c t => some (5, 5, c, t)
  | .zoneStatus c t => some (6, 0, c, t)
  | .fitEnable c t => some (6, 1, c, t)
  | .fitDisable c t => some (6, 2, c, t)
  | .suspectOverride c t => some (6, 3, c, t)
  | .presenceRead c t => some (6, 4, c, t)
  | .predictStart c t => some (6, 5, c, t)
  | .timeCapture c t => some (7, 0, c, t)
  | .timeSet c t => some (7, 1, c, t)
  | .calendarSet c t => some (7, 2, c, t)
  | .wakeSet c t => some (7, 3, c, t)
  | .alarmSet c t => some (7, 4, c, t)
  | .ephemerisRead c t => some (7, 5, c, t)
  | .ephemerisWrite c t => some (7, 6, c, t)
  | .scheduleStatus c t => some (7, 7, c, t)
  | .linkStatus c t => some (8, 0, c, t)
  | .linkRetrain c t => some (8, 1, c, t)
  | .topologyRead c t => some (8, 2, c, t)
  | .routeStatus c t => some (8, 3, c, t)
  | .bellwetherStatus c t => some (8, 4, c, t)
  | .policeCounters c t => some (8, 5, c, t)
  | .canStart c t => some (9, 0, c, t)
  | .canStop c t => some (9, 1, c, t)
  | .canSend c t => some (9, 2, c, t)
  | .canCancel c t => some (9, 3, c, t)
  | .canStatus c t => some (9, 4, c, t)
  | .canTimeMaster c t => some (9, 5, c, t)
  | .panelPower c t => some (10, 0, c, t)
  | .regionUpdate c t => some (10, 1, c, t)
  | .regionClear c t => some (10, 2, c, t)
  | .panelStatus c t => some (10, 3, c, t)
  | .ledgerSweep c t => some (10, 4, c, t)
  | .fieldRefresh c t => some (10, 5, c, t)
  | .powerStatus c t => some (11, 0, c, t)
  | .thermalStatus c t => some (11, 1, c, t)
  | .reset c t => some (11, 2, c, t)
  | .resetCauseRead c t => some (11, 3, c, t)
  | .budgetSet c t => some (11, 4, c, t)
  | .fwInfo c t => some (12, 0, c, t)
  | .fwWrite c t => some (12, 1, c, t)
  | .fwCommit c t => some (12, 2, c, t)
  | .fwSelect c t => some (12, 3, c, t)
  | .yelistWrite c t => some (12, 4, c, t)
  | .yelistLoad c t => some (12, 5, c, t)
  | .identityRead c t => some (12, 6, c, t)
  | .eventRoute c t => some (13, 0, c, t)
  | .eventMask c t => some (13, 1, c, t)
  | .eventRead c t => some (13, 2, c, t)
  | .queueConfig c t => some (13, 3, c, t)
  | .queueStatus c t => some (13, 4, c, t)
  | .coalesceSet c t => some (13, 5, c, t)
  | .logRead c t => some (14, 0, c, t)
  | .logClear c t => some (14, 1, c, t)
  | .countersRead c t => some (14, 2, c, t)
  | .selftest c t => some (14, 3, c, t)
  | .sheepdogStatus c t => some (14, 4, c, t)
  | _ => none

/-- The payload length of an opcode whose layout fixes it, and which judges its payload before anything else (R560). None for the
opcodes whose own counts give their length (ECHO, OBJ_GET, OBJ_SET, OBJ_STAGE, CAL_WRITE, CALENDAR_SET, CAN_SEND, REGION_UPDATE,
REGION_CLEAR, FW_WRITE, YELIST_WRITE), for those of a session, which also complete a close that waits, and for BUDGET_SET, which
judges its own owner first. -/
def fixedLength : Instr → Option Nat
  | .heartbeat _ _ => some 0
  | .abort _ _ => some 4
  | .objCommit _ _ => some 4
  | .objDiscard _ _ => some 0
  | .objCreate _ _ => some 0
  | .objDelete _ _ => some 0
  | .objOwner _ _ => some 1
  | .objList _ _ => some 4
  | .streamOpen _ _ => some 0
  | .streamClose _ _ => some 0
  | .seqStart _ _ => some 0
  | .seqStop _ _ => some 0
  | .signalRead _ _ => some 0
  | .signalForce _ _ => some 8
  | .signalRelease _ _ => some 0
  | .seqRead _ _ => some 4
  | .calZero _ _ => some 8
  | .calSpan _ _ => some 8
  | .calRead _ _ => some 4
  | .pwmGroupEnable _ _ => some 0
  | .pwmGroupDisable _ _ => some 0
  | .groupSafe _ _ => some 0
  | .tripClear _ _ => some 0
  | .damperMove _ _ => some 8
  | .damperRehome _ _ => some 4
  | .valveSet _ _ => some 4
  | .fanSet _ _ => some 4
  | .actFaultClear _ _ => some 0
  | .loopEnable _ _ => some 0
  | .loopDisable _ _ => some 0
  | .bankSwap _ _ => some 4
  | .loopStatus _ _ => some 0
  | .integratorPreset _ _ => some 8
  | .satClear _ _ => some 0
  | .zoneStatus _ _ => some 0
  | .fitEnable _ _ => some 0
  | .fitDisable _ _ => some 0
  | .suspectOverride _ _ => some 4
  | .presenceRead _ _ => some 0
  | .predictStart _ _ => some 8
  | .timeCapture _ _ => some 0
  | .timeSet _ _ => some 12
  | .wakeSet _ _ => some 8
  | .alarmSet _ _ => some 8
  | .ephemerisRead _ _ => some 4
  | .ephemerisWrite _ _ => some 52
  | .scheduleStatus _ _ => some 4
  | .linkStatus _ _ => some 0
  | .linkRetrain _ _ => some 0
  | .topologyRead _ _ => some 4
  | .routeStatus _ _ => some 0
  | .bellwetherStatus _ _ => some 0
  | .policeCounters _ _ => some 4
  | .canStart _ _ => some 0
  | .canStop _ _ => some 0
  | .canCancel _ _ => some 4
  | .canStatus _ _ => some 0
  | .canTimeMaster _ _ => some 4
  | .panelPower _ _ => some 4
  | .panelStatus _ _ => some 0
  | .ledgerSweep _ _ => some 4
  | .fieldRefresh _ _ => some 4
  | .powerStatus _ _ => some 0
  | .thermalStatus _ _ => some 0
  | .reset _ _ => some 4
  | .resetCauseRead _ _ => some 0
  | .fwInfo _ _ => some 0
  | .fwCommit _ _ => some 4
  | .fwSelect _ _ => some 4
  | .yelistLoad _ _ => some 4
  | .identityRead _ _ => some 0
  | .eventRoute _ _ => some 4
  | .eventMask _ _ => some 4
  | .eventRead _ _ => some 4
  | .queueConfig _ _ => some 12
  | .queueStatus _ _ => some 0
  | .coalesceSet _ _ => some 4
  | .logRead _ _ => some 8
  | .logClear _ _ => some 0
  | .countersRead _ _ => some 0
  | .selftest _ _ => some 4
  | .sheepdogStatus _ _ => some 0
  | _ => none

end Sys2Proof
end

