-- ==== Sys2Proof/WellFormed.lean ====
section
/-! DEFINITION. Which commands are well formed: every number that names a resource lies inside the range in which the
specification numbers that resource (Tables 0.1, 2.1, 2.4, 3.9). -/

namespace Sys2Proof

/-- The contexts of Table 2.1: host 0x00–0x07, sessions of other nodes 0x10–0x1F, management 0x20. -/
def isContext (ctx : Nat) : Bool := decide (ctx < 8) || (decide (16 ≤ ctx) && decide (ctx ≤ 32))

/-- A command is well formed. -/
def Instr.wf (i : Instr) : Bool :=
  match i with
  | .sessionOpen ctx tag => isContext ctx && decide (tag < 65536)
  | .sessionClose ctx tag => isContext ctx && decide (tag < 65536)
  | .heartbeat ctx tag => isContext ctx && decide (tag < 65536)
  | .abort ctx tag => isContext ctx && decide (tag < 65536)
  | .echo ctx tag => isContext ctx && decide (tag < 65536)
  | .objGet ctx tag => isContext ctx && decide (tag < 65536)
  | .objSet ctx tag => isContext ctx && decide (tag < 65536)
  | .objStage ctx tag => isContext ctx && decide (tag < 65536)
  | .objCommit ctx tag => isContext ctx && decide (tag < 65536)
  | .objDiscard ctx tag => isContext ctx && decide (tag < 65536)
  | .objCreate ctx tag => isContext ctx && decide (tag < 65536)
  | .objDelete ctx tag => isContext ctx && decide (tag < 65536)
  | .objOwner ctx tag => isContext ctx && decide (tag < 65536)
  | .objList ctx tag => isContext ctx && decide (tag < 65536)
  | .streamOpen ctx tag => isContext ctx && decide (tag < 65536)
  | .streamClose ctx tag => isContext ctx && decide (tag < 65536)
  | .signalRead ctx tag => isContext ctx && decide (tag < 65536)
  | .signalForce ctx tag => isContext ctx && decide (tag < 65536)
  | .signalRelease ctx tag => isContext ctx && decide (tag < 65536)
  | .seqStart ctx tag => isContext ctx && decide (tag < 65536)
  | .seqStop ctx tag => isContext ctx && decide (tag < 65536)
  | .seqRead ctx tag => isContext ctx && decide (tag < 65536)
  | .calZero ctx tag => isContext ctx && decide (tag < 65536)
  | .calSpan ctx tag => isContext ctx && decide (tag < 65536)
  | .calRead ctx tag => isContext ctx && decide (tag < 65536)
  | .calWrite ctx tag => isContext ctx && decide (tag < 65536)
  | .calCaptureDone chan _ _ => decide (chan < 96)
  | .calCaptureTimeout chan => decide (chan < 96)
  | .zeroCaptureExpiry chan range => decide (chan < 96) && decide (range < 9)
  | .calStoreWriteDone _ => true
  | .pwmGroupEnable ctx tag => isContext ctx && decide (tag < 65536)
  | .pwmGroupDisable ctx tag => isContext ctx && decide (tag < 65536)
  | .groupSafe ctx tag => isContext ctx && decide (tag < 65536)
  | .tripClear ctx tag => isContext ctx && decide (tag < 65536)
  | .damperMove ctx tag => isContext ctx && decide (tag < 65536)
  | .damperRehome ctx tag => isContext ctx && decide (tag < 65536)
  | .valveSet ctx tag => isContext ctx && decide (tag < 65536)
  | .fanSet ctx tag => isContext ctx && decide (tag < 65536)
  | .actFaultClear ctx tag => isContext ctx && decide (tag < 65536)
  | .loopEnable ctx tag => isContext ctx && decide (tag < 65536)
  | .loopDisable ctx tag => isContext ctx && decide (tag < 65536)
  | .bankSwap ctx tag => isContext ctx && decide (tag < 65536)
  | .loopStatus ctx tag => isContext ctx && decide (tag < 65536)
  | .integratorPreset ctx tag => isContext ctx && decide (tag < 65536)
  | .satClear ctx tag => isContext ctx && decide (tag < 65536)
  | .zoneStatus ctx tag => isContext ctx && decide (tag < 65536)
  | .fitEnable ctx tag => isContext ctx && decide (tag < 65536)
  | .fitDisable ctx tag => isContext ctx && decide (tag < 65536)
  | .suspectOverride ctx tag => isContext ctx && decide (tag < 65536)
  | .presenceRead ctx tag => isContext ctx && decide (tag < 65536)
  | .predictStart ctx tag => isContext ctx && decide (tag < 65536)
  | .timeCapture ctx tag => isContext ctx && decide (tag < 65536)
  | .timeSet ctx tag => isContext ctx && decide (tag < 65536)
  | .calendarSet ctx tag => isContext ctx && decide (tag < 65536)
  | .wakeSet ctx tag => isContext ctx && decide (tag < 65536)
  | .alarmSet ctx tag => isContext ctx && decide (tag < 65536)
  | .ephemerisRead ctx tag => isContext ctx && decide (tag < 65536)
  | .ephemerisWrite ctx tag => isContext ctx && decide (tag < 65536)
  | .ephemerisFlashDone _ => true
  | .scheduleStatus ctx tag => isContext ctx && decide (tag < 65536)
  | .linkStatus ctx tag => isContext ctx && decide (tag < 65536)
  | .linkRetrain ctx tag => isContext ctx && decide (tag < 65536)
  | .linkRetrainDone link => decide (link < 6)
  | .topologyRead ctx tag => isContext ctx && decide (tag < 65536)
  | .routeStatus ctx tag => isContext ctx && decide (tag < 65536)
  | .bellwetherStatus ctx tag => isContext ctx && decide (tag < 65536)
  | .policeCounters ctx tag => isContext ctx && decide (tag < 65536)
  | .canStart ctx tag => isContext ctx && decide (tag < 65536)
  | .canStop ctx tag => isContext ctx && decide (tag < 65536)
  | .canSend ctx tag => isContext ctx && decide (tag < 65536)
  | .canCancel ctx tag => isContext ctx && decide (tag < 65536)
  | .canStatus ctx tag => isContext ctx && decide (tag < 65536)
  | .canTimeMaster ctx tag => isContext ctx && decide (tag < 65536)
  | .panelPower ctx tag => isContext ctx && decide (tag < 65536)
  | .regionUpdate ctx tag => isContext ctx && decide (tag < 65536)
  | .regionClear ctx tag => isContext ctx && decide (tag < 65536)
  | .panelStatus ctx tag => isContext ctx && decide (tag < 65536)
  | .ledgerSweep ctx tag => isContext ctx && decide (tag < 65536)
  | .fieldRefresh ctx tag => isContext ctx && decide (tag < 65536)
  | .powerStatus ctx tag => isContext ctx && decide (tag < 65536)
  | .thermalStatus ctx tag => isContext ctx && decide (tag < 65536)
  | .reset ctx tag => isContext ctx && decide (tag < 65536)
  | .resetDelayExpiry => true
  | .resetCauseRead ctx tag => isContext ctx && decide (tag < 65536)
  | .budgetSet ctx tag => isContext ctx && decide (tag < 65536)
  | .fwInfo ctx tag => isContext ctx && decide (tag < 65536)
  | .fwWrite ctx tag => isContext ctx && decide (tag < 65536)
  | .fwCommit ctx tag => isContext ctx && decide (tag < 65536)
  | .fwCommitDone _ => true
  | .fwSelect ctx tag => isContext ctx && decide (tag < 65536)
  | .yelistWrite ctx tag => isContext ctx && decide (tag < 65536)
  | .yelistLoad ctx tag => isContext ctx && decide (tag < 65536)
  | .yelistLoadDone _ _ => true
  | .identityRead ctx tag => isContext ctx && decide (tag < 65536)
  | .eventRoute ctx tag => isContext ctx && decide (tag < 65536)
  | .eventMask ctx tag => isContext ctx && decide (tag < 65536)
  | .eventRead ctx tag => isContext ctx && decide (tag < 65536)
  | .queueConfig ctx tag => isContext ctx && decide (tag < 65536)
  | .queueStatus ctx tag => isContext ctx && decide (tag < 65536)
  | .coalesceSet ctx tag => isContext ctx && decide (tag < 65536)
  | .logRead ctx tag => isContext ctx && decide (tag < 65536)
  | .logClear ctx tag => isContext ctx && decide (tag < 65536)
  | .countersRead ctx tag => isContext ctx && decide (tag < 65536)
  | .selftest ctx tag => isContext ctx && decide (tag < 65536)
  | .selftestDone _ _ _ => true
  | .sheepdogStatus ctx tag => isContext ctx && decide (tag < 65536)
  | .commandFetch ctx => isContext ctx
  | .deadlineExpiry ctx tag => isContext ctx && decide (tag < 65536)
  | .deliveryRecordWrite event => decide (event < 128)
  | .coalTimeExpiry queue => decide (queue < 64)
  | .regRead addr _ => decide (addr < 65536)
  | .regWrite addr _ _ => decide (addr < 65536)
  | .regReadQ addr _ => decide (addr < 65536)
  | .regWriteQ addr _ _ => decide (addr < 65536)
  | .ringRead addr _ => decide (addr < 16777216)
  | .ringWrite addr _ _ => decide (addr < 16777216)
  | .ringReadQ addr _ => decide (addr < 16777216)
  | .ringWriteQ addr _ _ => decide (addr < 16777216)
  | .hifWriteApply => true
  | .hifEvtAck event => decide (event < 128)
  | .doorbell queue index => decide (queue < 64) && decide (index < 2048)
  | .hifBind hctx value => decide (hctx < 8) && decide (value < 4294967296)
  | .hifErrcntRestart _ _ => true
  | .rtcTimeRead _ index => decide (index < 7)
  | .rtcShadowTimeout _ => true
  | .rtcSecStage _ index _ => decide (index < 4)
  | .rtcSec4Commit _ _ => true
  | .pwrOnAssert _ => true
  | .pwrOnRelease _ => true
  | .registerWrite _ addr _ => decide (addr < 65536)
  | .id => true
  | .status => true
  | .resetMain _ => true
  | .holdMain _ => true
  | .releaseMain _ => true
  | .safeAll _ => true
  | .mgtRegRead addr _ => decide (addr < 65536)
  | .mgtRegWrite addr _ _ => decide (addr < 65536)
  | .mgtSafeHold group => decide (group < 8)
  | .mgtSafeRelease group => decide (group < 8)
  | .pktWrite _ _ _ => true
  | .pktRead => true
  | .pktReread => true
  | .alertRead => true
  | .alertClear _ _ => true
  | .alertResponse => true
  | .smbusTimeout => true
  | .alwaysOnPorExit _ _ _ => true
  | .alwaysOnPorEntry _ _ => true
  | .vsysLow _ => true
  | .powerFail _ => true
  | .vactLow _ => true
  | .vactShed _ => true
  | .vactRestore _ => true
  | .vactSwitchTrip => true
  | .vactSwitchRetry => true
  | .hotswapCharged _ _ => true
  | .hotswapFault _ => true
  | .hotswapFastTrip _ => true
  | .hotswapRetry => true
  | .backupDomainReset => true
  | .hresetAssert => true
  | .hresetRelease => true
  | .debugReset => true
  | .debugHalt => true
  | .debugHaltRelease => true
  | .boot _ _ _ _ => true
  | .refStop => true
  | .refRestart => true
  | .syncInPulse => true
  | .periodBoundary group => decide (group < 8)
  | .delayLineCalibration _ => true
  | .haltHoldExpiry group => decide (group < 8)
  | .overcurrentTrip port => decide (port < 32)
  | .protectEntry port _ _ => decide (port < 32)
  | .protectExit port => decide (port < 32)
  | .retryFault port _ => decide (port < 32)
  | .overloadAverageUpdate port _ => decide (port < 32)
  | .retryExpiry port => decide (port < 32)
  | .settlingExpiry port => decide (port < 32)
  | .dinEdge port _ _ => decide (port < 32)
  | .debounceExpiry port _ => decide (port < 32)
  | .sbusPoll port _ => decide (port < 32)
  | .sbusStuck port => decide (port < 32)
  | .pyroSettleExpiry port => decide (port < 32)
  | .outputSourceCheck port => decide (port < 32)
  | .seqPassDue head => decide (head < 128)
  | .seqPassStart head => decide (head < 128)
  | .conversionResult entry _ _ _ _ _ => decide (entry < 128)
  | .seqPassEnd head => decide (head < 128)
  | .equalisation slice _ _ => decide (slice < 4)
  | .housekeeping chan code => decide (chan < 96) && decide (code < 4096)
  | .rippleLost port => decide (port < 32)
  | .endstopTouch port => decide (port < 32)
  | .damperMoveEnd port => decide (port < 32)
  | .dwellExpiry port => decide (port < 32)
  | .damperOpenLoad port => decide (port < 32)
  | .maxRunExpiry port => decide (port < 32)
  | .rehomeIntExpiry port => decide (port < 32)
  | .damperTargetChange port => decide (port < 32)
  | .positionWrite port => decide (port < 32)
  | .boostExpiry port => decide (port < 32)
  | .valveOpenLoad port => decide (port < 32)
  | .floatingValveDriveEnd port => decide (port < 32)
  | .spinupWindowEnd port => decide (port < 32)
  | .gapEnd port => decide (port < 32)
  | .tachEdge port => decide (port < 32)
  | .tachLost port => decide (port < 32)
  | .actuatorSourceCheck port => decide (port < 32)
  | .fanWatchdog => true
  | .slotSourceCheck port => decide (port < 32)
  | .loopTrigger loop => decide (loop < 512)
  | .loopEvaluation work => decide (work.1 < 4) && decide (work.2 < 513)
  | .starved loop => decide (loop < 512)
  | .satAlarm loop => decide (loop < 512)
  | .zoneUpdate zone => decide (zone < 64)
  | .reinitTimeout zone => decide (zone < 64)
  | .suspendExpiry zone => decide (zone < 64)
  | .prediction => true
  | .presenceEvidence zone source => decide (zone < 64) && decide (source < 8)
  | .holdExpiry zone => decide (zone < 64)
  | .presSidRefresh zone => decide (zone < 64)
  | .alarm => true
  | .wake => true
  | .trimInterval _ => true
  | .scheduleEvaluation => true
  | .optimalStartCheck zone => decide (zone < 64)
  | .earlyStart zone => decide (zone < 64)
  | .linkSignalDetected link => decide (link < 6)
  | .phyLinkEstablished link level => decide (link < 6) && decide (level < 4)
  | .trainingTimeout link => decide (link < 6)
  | .version link minVer maxVer => decide (link < 6) && decide (minVer < 256) && decide (maxVer < 256)
  | .ident link _ => decide (link < 6)
  | .linkFrameResend link => decide (link < 6)
  | .isolatedRenegotiate link => decide (link < 6)
  | .hello link => decide (link < 6)
  | .helloSend link => decide (link < 6)
  | .helloTimeout link => decide (link < 6)
  | .phyLinkLoss link => decide (link < 6)
  | .lsa link _ _ => decide (link < 6)
  | .lsaRefresh => true
  | .lsaResend link _ => decide (link < 6)
  | .lsaAgeout _ => true
  | .addrReq link _ _ _ => decide (link < 6)
  | .addrGrant link _ addr => decide (link < 6) && decide (addr < 1024)
  | .addressPersistDone => true
  | .frameForward link _ _ => decide (link < 6)
  | .timeSend link => decide (link < 6)
  | .time link _ => decide (link < 6)
  | .pdelay link _ => decide (link < 6)
  | .upstreamTimeout => true
  | .bellwetherSteer => true
  | .followerRtcCheck => true
  | .signal link src cls _ => decide (link < 6) && decide (src < 1024) && decide (cls < 4)
  | .exportFrame node stream => decide (node < 1024) && decide (stream < 256)
  | .subscribe link _ => decide (link < 6)
  | .accept src stream => decide (src < 1024) && decide (stream < 256)
  | .refuse src stream reason => decide (src < 1024) && decide (stream < 256) && decide (reason < 256)
  | .unsubscribe src stream => decide (src < 1024) && decide (stream < 256)
  | .subscribeRetry stream => decide (stream < 256)
  | .subscriptionDrop node stream => decide (node < 1024) && decide (stream < 256)
  | .hostStreamRecord stream => decide (stream < 256)
  | .phiveox link src token cls _ => decide (link < 6) && decide (src < 1024) && decide (token < 65536) && decide (cls < 4)
  | .remoteSessionTimeout ctx => isContext ctx
  | .canArbitrationStart ctl _ => decide (ctl < 2)
  | .txDone ctl => decide (ctl < 2)
  | .canFrameReceived ctl _ => decide (ctl < 2)
  | .canErrorFrame ctl errType _ _ tec recv => decide (ctl < 2) && decide (errType < 8) && decide (tec < 256) && decide (recv < 256)
  | .busOffRecovered ctl => decide (ctl < 2)
  | .domTimeout ctl => decide (ctl < 2)
  | .wup ctl => decide (ctl < 2)
  | .referenceMessage ctl prio cycle => decide (ctl < 2) && decide (prio < 8) && decide (cycle < 64)
  | .referenceDue ctl _ => decide (ctl < 2)
  | .windowStart ctl _ => decide (ctl < 2)
  | .s2Timeout ctl => decide (ctl < 2)
  | .noWindow ctl ctx tag => decide (ctl < 2) && isContext ctx && decide (tag < 65536)
  | .txobjPeriod ctl obj => decide (ctl < 2) && decide (obj < 64)
  | .txobjSlotChange ctl obj => decide (ctl < 2) && decide (obj < 64)
  | .panelFrameBoundary panel _ => decide (panel < 2)
  | .railStep panel => decide (panel < 2)
  | .railFault panel notGood _ => decide (panel < 2) && decide (notGood < 32)
  | .railIdleExpiry panel => decide (panel < 2)
  | .regionSnapshot panel => decide (panel < 2)
  | .bandEvaluation panel => decide (panel < 2)
  | .sweepTile panel => decide (panel < 2)
  | .compositorRead => true
  | .thermalUpdate _ _ => true
  | .throttleStepTaken => true
  | .throttleStepUndone => true
  | .shutdownRelease => true
  | .coreDog core _ => decide (core < 8)
  | .engineDog dog => decide (9 ≤ dog) && decide (dog ≤ 13)
  | .foldDog _ port _ => decide (port < 22)
  | .mainDog core => decide (core < 8)
  | .bootDog => true
  | .memoryEcc mem addr _ => decide (mem < 3) && decide (addr < 33554432)
  | .shepherdDog => true
  | .heartbeatLost => true
  | .vsysReturn _ => true
  | .hotswapUnlatch => true
  | .logClearDone => true
  | .followPulseTimeout group => decide (group < 8)
  | .openLoop port => decide (port < 32)
  | .corruptFrame link _ => decide (link < 6)
  | .presenceSourceLost zone source => decide (zone < 64) && decide (source < 8)
  | .speedZero port => decide (port < 32)
  | .fieldRenderDue field => decide (field < 64)

end Sys2Proof
end

