-- ==== Sys2Proof/Certificates/Slice0/Obligations.lean ====
section
/-! DEFINITION. The statements for the provers, drawn from the rules of spec/. -/

section
open Sys2Proof Sys2Proof.Machine

/-! ### The queue of commands, time, and reset -/

/-- A step takes the command at the front of the queue and runs it with the queue's rest. -/
def Obligations.StepTakesFront : Prop :=
  ∀ (i : Instr) (rest : List Instr) (s : State), step { s with pending := i :: rest } = exec i { s with pending := rest }

/-- Running a command leaves the commands behind it waiting, in their order. The commands that wait stay well formed: no step
makes an ill-formed one. -/
def Obligations.QueueKeepsItsOrder : Prop :=
  (∀ (i : Instr) (s t : State), exec i s = .next t → t.pending = s.pending) ∧
  (∀ s t : State, s.pending.all Instr.wf = true → step s = .next t → t.pending.all Instr.wf = true)

/-- With no command waiting, one period of 25 ns passes for the clock and the backup domain, and nothing else changes but that a
main side in reset, which nothing holds any longer, may leave it (DESIGN CHOICE, log entry 1). The transit reference counts each
period of 25 ns while it runs and none while it is stopped, and fabric time stops with it (R28, R354). -/
def Obligations.TimePassesInPeriods : Prop :=
  (∀ s : State, s.pending = [] → ∃ c, step s = .next { s with chip := c } ∧
    (c = { s.chip with clk := clkAdvance 1 s.chip.clk, rtc := rtcAdvance 1 s.chip.rtc } ∨
      s.chip.power.main = .reset ∧
        c = { s.chip with
          clk := clkAdvance 1 s.chip.clk
          rtc := rtcAdvance 1 s.chip.rtc
          power := { s.chip.power with main := .booting }
          dogs := { s.chip.dogs with release := some (clkAdvance 1 s.chip.clk).now } })) ∧
  (∀ (c : Chip) (n : Nat), (c.advance n).clk.now = c.clk.now + n ∧
    (c.clk.refRun = true → (c.advance n).clk.transit = c.clk.transit + n ∧
      (c.advance n).clk.fabUs * usUnits + (c.advance n).clk.fabAcc = c.clk.fabUs * usUnits + c.clk.fabAcc + n * rateUnits c.clk) ∧
    (c.clk.refRun = false → (c.advance n).clk.transit = c.clk.transit ∧ (c.advance n).clk.fabUs = c.clk.fabUs))

/-- The variant and the device unique ID are fused: no command, and no time that passes, changes them. -/
def Obligations.DeviceFixed : Prop :=
  ∀ s t : State, step s = .next t → t.chip.fuses = s.chip.fuses

/-- No step breaks the canonical form of the module's memories: queue rings, flash and backup RAM. -/
def Obligations.MemoriesKeepForm : Prop :=
  ∀ s t : State, s.chip.memoriesWf = true → step s = .next t → t.chip.memoriesWf = true

/-- Time never runs back: no command, and no time that passes, lowers the count of 25 ns periods since the module was made. -/
def Obligations.TimeNeverRunsBack : Prop :=
  ∀ s t : State, step s = .next t → s.chip.clk.now ≤ t.chip.clk.now

/-- Reset leaves these values of the specification: FOLD_CTL and FOLD_DOG (Table 3.11), HIF_CFG and the CRC error count (Table
14.2), the management alert status (Table 14.6), RESET_CAUSE (Table 15.8), the count, VALID and TIME_LOST of the backup domain
(Table 10.1), every object owned by the host (R60), no event pending and each COUNT 0, no session and no command outstanding;
the main side is in reset, and the memories are in canonical form. -/
def Obligations.ResetState : Prop :=
  State.reset.pending = [] ∧ State.reset.chip.power.main = .reset ∧ State.reset.chip.power.resetCause = 0x00100001 ∧
    State.reset.chip.foldS.ctl = 0x4008 ∧ State.reset.chip.foldS.dog = 0x7D0 ∧ State.reset.chip.foldD.ctl = 0x4008 ∧
    State.reset.chip.foldD.dog = 0x7D0 ∧ State.reset.chip.host.cfg = 0 ∧ State.reset.chip.host.errCrc = 0 ∧
    State.reset.chip.mgt.alert = 0 ∧ State.reset.chip.rtc.count = 0 ∧ State.reset.chip.rtc.valid = false ∧
    State.reset.chip.rtc.timeLost = true ∧ (∀ hnd, State.reset.chip.ownerIsMgt hnd = false) ∧
    (∀ e, (State.reset.chip.event e).pending = false ∧ (State.reset.chip.event e).count = 0) ∧
    (∀ x, (State.reset.chip.session x).opened = false ∧ State.reset.chip.outstanding x = []) ∧
    State.reset.chip.memoriesWf = true

/-! ### How a command runs -/

/-- While the main side is down an opcode has no effect (those of a session, which also complete a close that waits, are not
spoken of here). A command whose deadline has passed before it starts ends TIMEOUT with no effect (R57; the opcodes of a session
are not spoken of here). A command that would change an object of the other side ends NOT_OWNER with no effect (R60, check 9 of
R69; the opcodes of a session are not spoken of here). A payload of another length than the one that a fixed layout gives ends
BAD_LENGTH with ERROFS 6, with no effect (R560). -/
def Obligations.CommandsAreChecked : Prop :=
  (∀ (i : Instr) (s : State) (fam op x t : Nat), opcodeRow i = some (fam, op, x, t) → ¬(fam = 0 ∧ op ≤ 1) → s.chip.power.main.up = false →
    Leads i s s.chip) ∧
  (∀ (i : Instr) (s : State) (k : Cmd) (fam op : Nat), opcodeRow i = some (fam, op, k.ctx, k.tag) → ¬(fam = 0 ∧ op ≤ 1) →
    s.chip.power.main.up = true → s.chip.findCmd k.ctx k.tag = some k → k.family = fam → k.opcode = op →
    s.chip.mayStart k = true → s.chip.pastDeadline k = true → Leads i s (s.chip.finish k stTimeout noOfs [])) ∧
  (∀ (i : Instr) (s : State) (k : Cmd) (fam op : Nat), opcodeRow i = some (fam, op, k.ctx, k.tag) → ¬(fam = 0 ∧ op ≤ 1) →
    s.chip.power.main.up = true → s.chip.findCmd k.ctx k.tag = some k → k.family = fam → k.opcode = op →
    s.chip.mayStart k = true → s.chip.pastDeadline k = false → s.chip.ownerRefuses k = true →
    Leads i s (s.chip.finish k stNotOwner 8 [])) ∧
  (∀ (i : Instr) (s : State) (k : Cmd) (fam op n : Nat), opcodeRow i = some (fam, op, k.ctx, k.tag) → fixedLength i = some n →
    Ready fam op k s → k.payload.length ≠ n → Leads i s (s.chip.finish k stBadLength 6 []))

/-! ### Replies, events, queues and slots -/

/-- A reply is a packet with REPLY set. It echoes FAMILY, OPCODE, TAG, HANDLE and CLASS of the command. Its payload begins with
the status block, and the result data follow: those of a BAD_VERSION reply are the supported range (R65). -/
def Obligations.ReplyEchoes : Prop :=
  ∀ (k : Cmd) (st o : Nat) (data : List Byte), k.family < 256 → k.opcode < 256 → k.tag < 65536 → k.hnd < 4294967296 →
    let p := replyPacket k st o data
    bit (fld p 12 1) 4 = true ∧ fld p 2 1 = k.family ∧ fld p 3 1 = k.opcode ∧ fld p 4 2 = k.tag ∧ fld p 8 4 = k.hnd ∧
      fld p 12 1 % 4 = k.flags % 4 ∧
      p.drop 16 = [BitVec.ofNat 8 st, 0] ++ leBytes 2 o ++ (if st = stBadVersion then [2, 0, 3, 2] else data)

/-- A command of a host or management context ends: it is outstanding no more, and its reply goes to the completion queue of its
context, unless it carries QUIET and its status is OK (R71, R72). Said where no other command of its context is running. -/
def Obligations.CommandEnds : Prop :=
  ∀ (c : Chip) (k : Cmd) (st o : Nat) (data : List Byte), isRemoteCtx k.ctx = false →
    (∀ m ∈ c.cmds, m.ctx = k.ctx → m.phase ≠ .running) →
    c.finish k st o data = (if k.quiet && st == stOK then (c.dropCmd k.ctx k.tag).forgetSends k.ctx k.tag
      else ((c.dropCmd k.ctx k.tag).forgetSends k.ctx k.tag).arrive (completionQueue k.ctx) k.cls (replyPacket k st o data) 0) ∧
    (c.finish k st o data).findCmd k.ctx k.tag = none

/-- Firing an event sets PENDING, COUNT 1, CAUSE and STAMP; while it is PENDING a further firing increments COUNT, which stops
at 0xFFFF, and gives a new CAUSE (DEDUCED, log entry 68) but no new STAMP (R91, R93). E92 and E94, which carry their count in
CAUSE, and E118 and E119, which tell of the firing itself, are not spoken of here. A firing changes no register of the plant, no
command and no session; of the events only its own and those that report the router's own doings, E118 and E119. -/
def Obligations.FiringSetsEvent : Prop :=
  (∀ (c : Chip) (e x : Nat), Fires c e → e ≠ 92 → e ≠ 94 → e ≠ 118 → e ≠ 119 →
    Fired (c.fire e x) e x ∧
      ((c.event e).pending = false → ((c.fire e x).event e).count = 1 ∧ ((c.fire e x).event e).stamp = c.stamp) ∧
      ((c.event e).pending = true → ((c.fire e x).event e).stamp = (c.event e).stamp ∧
        ((c.fire e x).event e).count = if (c.event e).count = 0xFFFF then 0xFFFF else (c.event e).count + 1)) ∧
  (∀ (c : Chip) (e x : Nat), SamePlant c (c.fire e x) ∧ (c.fire e x).cmds = c.cmds ∧ (c.fire e x).sessions = c.sessions ∧
    (c.fire e x).clk = c.clk ∧ (c.fire e x).rtc = c.rtc ∧ (c.fire e x).power.main = c.power.main ∧
    (c.fire e x).power.resetCause = c.power.resetCause ∧
    ∀ j, j ≠ e → j ≠ 118 → j ≠ 119 → (c.fire e x).event j = c.event j)

/-- For E112–E127, MGT reads 1 and cannot be cleared, and the management alert status ignores MASKED. No route written by the
host keeps these events from the management controller. -/
def Obligations.ManagementHearsFaults : Prop :=
  ∀ (c : Chip) (e r : Nat), 112 ≤ e → e < 128 → r < 4294967296 →
    bit (State.reset.chip.route e) 20 = true ∧ bit ((c.writeRoute e r).route e) 20 = true ∧
      bit (leNat ((c.writeRoute e r).readAttr tyEvent e 1)) 20 = true ∧ (∀ route, routeMgt e route = true) ∧
      (∀ x : Nat, eventNever c.fuses.variant e = false →
        ((c.writeRoute e r).fire e x).mgt.alert.getLsbD e = true ∧ ((c.writeRoute e r).fire e x).mgt.alertLine = true)

/-- The age of a slot is the current fabric time in µs minus STAMP, modulo 2^32. A slot that is VALID and whose age reaches 2^31
µs reads STALE whatever its MAXAGE; a slot that is not VALID is not judged; one not written since the table was cleared reads
neither VALID nor STALE; and no consumer takes one that is not VALID or reads STALE (R38). -/
def Obligations.SlotAge : Prop :=
  ∀ (c : Chip) (sid : Nat),
    c.slotAge (c.slot sid) = (BitVec.ofNat 32 c.clk.fabUs - (c.slot sid).stamp).toNat ∧
    (hasQ (c.slot sid).quality qVALID = true → 2 ^ 31 ≤ c.slotAge (c.slot sid) → hasQ (c.readSlot sid).quality qSTALE = true) ∧
    (hasQ (c.slot sid).quality qVALID = false → (c.readSlot sid).quality = (c.slot sid).quality) ∧
    (Tbl.has c.slots sid = false → hasQ (c.readSlot sid).quality qVALID = false ∧ hasQ (c.readSlot sid).quality qSTALE = false) ∧
    (hasQ (c.slot sid).quality qVALID = false → c.slotUsable sid = false) ∧
    (hasQ (c.readSlot sid).quality qSTALE = true → c.slotUsable sid = false)

/-- A producer's write reaches its slot while no override is in effect, moves SEQNO on, and leaves MAXAGE and every other slot
as they were; while FORCED or MODEL is in effect it leaves every slot as it was, and the values it brought stand beside the slot
(R41). -/
def Obligations.OverrideHoldsProducer : Prop :=
  ∀ (c : Chip) (sid : Nat) (v st : Word) (q p : Half),
    (Tbl.get dOverride c.overrides sid = ⟨false, false⟩ →
      ((c.produce sid v st q p).slot sid).value = v ∧ ((c.produce sid v st q p).slot sid).stamp = st ∧
        ((c.produce sid v st q p).slot sid).quality = q ∧ ((c.produce sid v st q p).slot sid).producer = p ∧
        ((c.produce sid v st q p).slot sid).seqno = (c.slot sid).seqno + 1 ∧
        ((c.produce sid v st q p).slot sid).maxage = (c.slot sid).maxage ∧
        (∀ j, j ≠ sid → (c.produce sid v st q p).slot j = c.slot j)) ∧
    (Tbl.get dOverride c.overrides sid ≠ ⟨false, false⟩ → (c.produce sid v st q p).slots = c.slots ∧
      (Tbl.get dSlot (c.produce sid v st q p).produced sid).value = v ∧
      (Tbl.get dSlot (c.produce sid v st q p).produced sid).stamp = st ∧
      (Tbl.get dSlot (c.produce sid v st q p).produced sid).quality = q)

/-- A record that the module writes stands in the ring at the tail: its record word, with PHASE by the pass and LOSS where one
was lost, then its bytes; the tail moves on by the entries it takes and RSEQ by one (R100–R103). Writing records and firing
events keeps the memories in canonical form. -/
def Obligations.RecordsAreWritten : Prop :=
  (∀ (c : Chip) (q : Nat) (body : List Byte), let s := c.queue q
    4 + body.length ≤ s.ringBytes → s.tail < 2 * s.depth →
    ringRead s s.tail (4 + body.length) (c.putRecord q body).ring = leBytes 4 (recordWord s body.length) ++ body ∧
      ((c.putRecord q body).queue q).tail = (s.tail + entriesFor s.eshift body.length) % (2 * s.depth) ∧
      ((c.putRecord q body).queue q).head = s.head ∧ ((c.putRecord q body).queue q).rseq = s.rseq + 1 ∧
      ((c.putRecord q body).queue q).loss = false ∧
      (∀ j, j ≠ q → (c.putRecord q body).queue j = c.queue j) ∧
      (∀ a, (a < s.base ∨ s.base + s.ringBytes ≤ a) → Tbl.get dByte0 (c.putRecord q body).ring a = Tbl.get dByte0 c.ring a)) ∧
  (∀ (c : Chip), c.memoriesWf = true →
    (∀ q cls body note, (c.deliver q cls body note).memoriesWf = true ∧ (c.arrive q cls body note).memoriesWf = true) ∧
      (∀ e x, (c.fire e x).memoriesWf = true) ∧
      (∀ k st o data, isRemoteCtx k.ctx = false → (c.finalReply k st o data).memoriesWf = true))

/-! ### Family 0x00: sessions -/

/-- SESSION_OPEN, with nothing else outstanding on its context, opens the session at the lower of the sender's highest version
and 3.2, with the granted MAXOUT: what it asks for, on a host or management context no more than its submission queue holds, on
a remote one no less (DESIGN CHOICE, log entry 70). Said where the versions meet (R63, R64). The staged set of an earlier
session is gone, and the plant is untouched. -/
def Obligations.SessionOpens : Prop :=
  ∀ (k : Cmd) (s : State), Ready 0 0 k s → k.payload.length = 8 → 1 ≤ fld k.payload 4 2 → fld k.payload 4 2 ≤ 64 →
    zeroAt k.payload 6 2 = true → s.chip.outstanding k.ctx = [k] →
    protoVer (fld k.payload 0 1) (fld k.payload 1 1) ≤ negotiate (protoVer (fld k.payload 2 1) (fld k.payload 3 1)) →
    protoVer 2 0 ≤ negotiate (protoVer (fld k.payload 2 1) (fld k.payload 3 1)) →
    ∃ c, Leads (.sessionOpen k.ctx k.tag) s c ∧ (c.session k.ctx).opened = true ∧
      (c.session k.ctx).ver = min (protoVer (fld k.payload 2 1) (fld k.payload 3 1)) (protoVer 3 2) ∧
      (c.session k.ctx).maxout = (if isRemoteCtx k.ctx then fld k.payload 4 2
        else min (fld k.payload 4 2) (s.chip.queue (submissionQueue k.ctx)).depth) ∧
      c.outstanding k.ctx = [] ∧ Tbl.get dNil c.staged k.ctx = [] ∧ Tbl.get dNil c.lives k.ctx = [] ∧
      (∀ x, x ≠ k.ctx → c.session x = s.chip.session x) ∧ SamePlant s.chip c

/-- SESSION_CLOSE, with nothing else outstanding on its context, closes the session: its staged set is discarded, nothing is
outstanding on it any more, and the plant is untouched (R68). REMOTE_SESSION_TIMEOUT, 30 s after the last path to the source of
a session went, with nothing outstanding on it, closes the session (R370). -/
def Obligations.SessionsClose : Prop :=
  (∀ (k : Cmd) (s : State), Ready 0 1 k s → k.payload = [] → s.chip.outstanding k.ctx = [k] →
    ∃ c, Leads (.sessionClose k.ctx k.tag) s c ∧ c.session k.ctx = dSession k.ctx ∧ c.outstanding k.ctx = [] ∧
      Tbl.get dNil c.staged k.ctx = [] ∧ Tbl.get dNil c.lives k.ctx = [] ∧
      (∀ x, x ≠ k.ctx → c.session x = s.chip.session x) ∧ SamePlant s.chip c) ∧
  (∀ (s : State) (x node token t : Nat), isRemoteCtx x = true → (s.chip.session x).opened = true → s.chip.outstanding x = [] →
    Tbl.get dNone s.chip.fabric.remotes x = some (node, token) → Tbl.get dNone s.chip.fabric.noPath node = some t →
    ∃ c, Leads (.remoteSessionTimeout x) s c ∧ c.session x = dSession x ∧ t + sec 30 ≤ c.clk.now ∧
      Tbl.get dNil c.staged x = [] ∧ SamePlant s.chip c)

/-- ECHO returns up to 4076 bytes of payload after the status block. A longer ECHO payload is answered BAD_LENGTH. -/
def Obligations.EchoReturnsPayload : Prop :=
  ∀ (k : Cmd) (s : State), Ready 0 4 k s →
    (k.payload.length ≤ 4076 → Answers (.echo k.ctx k.tag) k s k.payload s.chip ∧
      (k.ver ≠ 0 → (replyPacket k stOK noOfs k.payload).drop 20 = k.payload)) ∧
    (4076 < k.payload.length → Leads (.echo k.ctx k.tag) s (s.chip.finish k stBadLength 6 []))

/-- HEARTBEAT from a host context restarts the heartbeat timer and the fan watchdog; from the management context it changes
nothing (R455). ABORT of a command that has been fetched and has not started ends that command ABORTED with no effect of its
own, and itself OK; ABORT of a command that is not outstanding ends TOO_LATE (R85, R86). -/
def Obligations.HeartbeatAndAbort : Prop :=
  (∀ (k : Cmd) (s : State), Ready 0 2 k s → k.payload = [] →
    (isMgtCtx k.ctx = true → Answers (.heartbeat k.ctx k.tag) k s [] s.chip) ∧
    (isMgtCtx k.ctx = false → ∃ c, Answers (.heartbeat k.ctx k.tag) k s [] c ∧ c.dogs.lastBeat = s.chip.clk.now ∧
      c.dogs.hbLost = false ∧ c.dogs.fanBeat = s.chip.clk.now ∧ c.dogs.fanArmed = true ∧ c.dogs.fanForced = false ∧
      c.dogs.bites = s.chip.dogs.bites ∧ c.clk = s.chip.clk)) ∧
  (∀ (k t : Cmd) (s : State) (x : Nat), Ready 0 3 k s → k.payload.length = 4 → zeroAt k.payload 3 1 = true →
    namedCtx k (fld k.payload 2 1) = some x →
    (s.chip.findCmd x (fld k.payload 0 2) = some t → (x, fld k.payload 0 2) ≠ (k.ctx, k.tag) → s.chip.canHolds t = false →
      t.phase = .fetched → Answers (.abort k.ctx k.tag) k s [] (s.chip.finish t stAborted noOfs [])) ∧
    (s.chip.findCmd x (fld k.payload 0 2) = none →
      Leads (.abort k.ctx k.tag) s (s.chip.finish k stTooLate noOfs [])))

/-! ### Families 0x01 and 0x02: objects, streams and signals -/

/-- OBJ_GET answers one record for each attribute it names, in their order, and changes nothing; where one of them is none of
its type's, is of an absent resource, or would not fit the reply, it ends with that status and its offset. OBJ_OWNER: from the
management side it takes (2) or returns (1) its object; from the host side it takes nothing, and to return (1) what is already
the host's changes nothing, while what is the management's ends NOT_OWNER; read (0) changes nothing; each answers the owner
(R60, R88). OBJ_LIST answers the number of the type's instances and those from START on, and changes nothing. -/
def Obligations.ObjectsAreReadAndOwned : Prop :=
  (∀ (k : Cmd) (s : State), Ready 1 0 k s → 4 ≤ k.payload.length → 1 ≤ fld k.payload 0 2 → fld k.payload 0 2 ≤ 64 →
    k.payload.length = 4 + 2 * fld k.payload 0 2 → zeroAt k.payload 2 2 = true →
    (getBad s.chip.fuses.variant k.ty k.inst 0 4 (getList k.payload) = none →
      getLong s.chip.fuses.variant k.ty k.inst 0 4 (getList k.payload) = none →
      Answers (.objGet k.ctx k.tag) k s
        ((getList k.payload).flatMap (fun a => attrRecord a (s.chip.readAttr k.ty k.inst a))) s.chip) ∧
    (∀ st o, getBad s.chip.fuses.variant k.ty k.inst 0 4 (getList k.payload) = some (st, o) →
      Leads (.objGet k.ctx k.tag) s (s.chip.finish k st o [])) ∧
    (∀ st o, getBad s.chip.fuses.variant k.ty k.inst 0 4 (getList k.payload) = none →
      getLong s.chip.fuses.variant k.ty k.inst 0 4 (getList k.payload) = some (st, o) →
      Leads (.objGet k.ctx k.tag) s (s.chip.finish k st o []))) ∧
  (∀ (k : Cmd) (s : State),
    (Ready 1 7 k s → k.payload.length = 1 → fld k.payload 0 1 = 0 →
      Answers (.objOwner k.ctx k.tag) k s [BitVec.ofNat 8 (b2n (s.chip.ownerIsMgt (canonHandle k.hnd)))] s.chip) ∧
    (Ready 1 7 k s → k.payload.length = 1 → (fld k.payload 0 1 = 1 ∨ fld k.payload 0 1 = 2) → isMgtCtx k.ctx = true →
      ∃ c, Answers (.objOwner k.ctx k.tag) k s [BitVec.ofNat 8 (b2n (decide (fld k.payload 0 1 = 2)))] c ∧
        c.ownerIsMgt (canonHandle k.hnd) = decide (fld k.payload 0 1 = 2) ∧
        (∀ h, h ≠ canonHandle k.hnd → c.ownerIsMgt h = s.chip.ownerIsMgt h) ∧ SamePlant s.chip c) ∧
    (Ready 1 7 k s → k.payload.length = 1 → fld k.payload 0 1 = 2 → isMgtCtx k.ctx = false →
      Leads (.objOwner k.ctx k.tag) s (s.chip.finish k stNotOwner 8 [])) ∧
    (Ready 1 7 k s → k.payload.length = 1 → fld k.payload 0 1 = 1 → isMgtCtx k.ctx = false →
      (s.chip.ownerIsMgt (canonHandle k.hnd) = false → Answers (.objOwner k.ctx k.tag) k s [0] s.chip) ∧
      (s.chip.ownerIsMgt (canonHandle k.hnd) = true →
        Leads (.objOwner k.ctx k.tag) s (s.chip.finish k stNotOwner 8 []))) ∧
    (Ready 1 8 k s → k.payload.length = 4 → 1 ≤ fld k.payload 0 1 → fld k.payload 0 1 ≤ 0x17 → zeroAt k.payload 1 1 = true →
      let all := s.chip.listed (fld k.payload 0 1)
      let some_ := (all.filter (fun h => decide (fld k.payload 2 2 ≤ listIndex h))).take 1018
      Answers (.objList k.ctx k.tag) k s (leBytes 2 all.length ++ leBytes 2 some_.length ++ some_.flatMap (leBytes 4)) s.chip))

/-- OBJ_STAGE adds its records to its session's staged set and changes nothing else, where they fit the 64 KiB of the session
and the 256 KiB of all sessions (what counts: log entry 74); OBJ_DISCARD empties the staged set. OBJ_CREATE and OBJ_DELETE stage
the life of an instance: nothing exists or goes before the commit, and deleting what was only staged takes the staged creation
back; BAD_OBJECT where the instance exists, or does not, already. -/
def Obligations.ChangesAreStaged : Prop :=
  (∀ (k : Cmd) (s : State),
    (∀ rs, Ready 1 2 k s → k.payload ≠ [] →
      takeRecords s.chip.fuses.variant k.ty k.inst k.payload (k.payload.length + 1) 0 = .inr rs →
      let st := (rs.flatMap (splitRecord k.ty)).foldl (stageOne (Tbl.get dZero s.chip.gens k.hnd) k.hnd) (s.chip.stagedOf k.ctx)
      let c : Chip := { s.chip with staged := Tbl.set dNil s.chip.staged k.ctx st }
      stagedBytes st + c.chunkBytes k.ctx ≤ 65536 →
      (c.staged.map (fun e => stagedBytes e.2)).sum + (c.cal.chunks.map (fun e => e.2.length)).sum ≤ 262144 →
      Answers (.objStage k.ctx k.tag) k s [] c) ∧
    (Ready 1 4 k s → k.payload = [] → Answers (.objDiscard k.ctx k.tag) k s []
      { s.chip with staged := Tbl.set dNil s.chip.staged k.ctx [], lives := Tbl.set dNil s.chip.lives k.ctx [] })) ∧
  (∀ (k : Cmd) (s : State), k.payload = [] →
    let l := s.chip.livesOf k.ctx
    (Ready 1 5 k s → Tbl.get dFalse s.chip.existing k.hnd = false → l.any (fun x => x.hnd == k.hnd && x.create) = false →
      Answers (.objCreate k.ctx k.tag) k s []
        { s.chip with lives := Tbl.set dNil s.chip.lives k.ctx (l ++ [⟨k.hnd, true, Tbl.get dZero s.chip.gens k.hnd⟩]) }) ∧
    (Ready 1 5 k s → Tbl.get dFalse s.chip.existing k.hnd = true ∨ l.any (fun x => x.hnd == k.hnd && x.create) = true →
      Leads (.objCreate k.ctx k.tag) s (s.chip.finish k stBadObject 8 [])) ∧
    (Ready 1 6 k s → Tbl.get dFalse s.chip.existing k.hnd = false → l.any (fun x => x.hnd == k.hnd && x.create) = false →
      Leads (.objDelete k.ctx k.tag) s (s.chip.finish k stBadObject 8 [])) ∧
    (Ready 1 6 k s → Tbl.get dFalse s.chip.existing k.hnd = true → l.any (fun x => x.hnd == k.hnd) = false →
      Answers (.objDelete k.ctx k.tag) k s []
        { s.chip with lives := Tbl.set dNil s.chip.lives k.ctx (l ++ [⟨k.hnd, false, Tbl.get dZero s.chip.gens k.hnd⟩]) }) ∧
    (Ready 1 6 k s → l.any (fun x => x.hnd == k.hnd && x.create) = true →
      Answers (.objDelete k.ctx k.tag) k s []
        { s.chip with
          lives := Tbl.set dNil s.chip.lives k.ctx (l.filter (fun x => x.hnd != k.hnd))
          staged := Tbl.set dNil s.chip.staged k.ctx ((s.chip.stagedOf k.ctx).filter (fun x => x.hnd != k.hnd)) }))

/-- OBJ_SET makes its changes at once where every check of a commit lets them pass, ends BUSY with no effect where they pass
while an image is being loaded, and changes nothing of the plant where a check does not let them pass. OBJ_COMMIT makes every
change of its session's staged set or none: where the set conflicts with nothing, is owned and passes every check, all are made
and the set is empty; asked only to validate, it changes nothing; where a check fails, no change is made and the set stays; and
it ends BUSY while an image is being loaded. -/
def Obligations.CommitsAreAllOrNothing : Prop :=
  (∀ (k : Cmd) (s : State) (rs : List (Nat × List Byte)), Ready 1 1 k s → k.payload ≠ [] →
    takeRecords s.chip.fuses.variant k.ty k.inst k.payload (k.payload.length + 1) 0 = .inr rs →
    let xs := (rs.flatMap (splitRecord k.ty)).map (fun r => (⟨k.hnd, r.1, r.2⟩ : Change))
    (s.chip.changeChecks [] xs = none → s.chip.imageBusy = false →
      Answers (.objSet k.ctx k.tag) k s [] (s.chip.makeChanges [] xs)) ∧
    (s.chip.changeChecks [] xs = none → s.chip.imageBusy = true →
      Leads (.objSet k.ctx k.tag) s (s.chip.finish k stBusy noOfs [])) ∧
    (∀ st h, s.chip.changeChecks [] xs = some (st, h) → ∃ c st1, Leads (.objSet k.ctx k.tag) s (c.finish k st1 noOfs []) ∧
      (st1 = st ∨ st1 = stBusy) ∧ SamePlant s.chip c)) ∧
  (∀ (k : Cmd) (s : State), Ready 1 3 k s → k.payload.length = 4 → fld k.payload 0 1 ≤ 1 → zeroAt k.payload 1 3 = true →
    (s.chip.imageBusy = true → Leads (.objCommit k.ctx k.tag) s (s.chip.finish k stBusy noOfs (leBytes 2 0 ++ leBytes 4 0))) ∧
    (s.chip.imageBusy = false →
    let lives := (s.chip.livesOf k.ctx).map (fun l => (⟨l.hnd, l.create⟩ : Life))
    let xs := ((s.chip.stagedOf k.ctx).filter (fun x => !lives.any (fun l => l.hnd == x.hnd && !l.create))).map
      (fun x => (⟨x.hnd, x.attr, x.value⟩ : Change))
    let bad := firstBad [s.chip.conflict k.ctx, s.chip.notOwned k.ctx (touched lives xs), s.chip.changeChecks lives xs]
    (bad = none → fld k.payload 0 1 = 0 → Answers (.objCommit k.ctx k.tag) k s (leBytes 2 (touched lives xs).length ++ leBytes 4 0)
      { s.chip.makeChanges lives xs with staged := Tbl.set dNil s.chip.staged k.ctx [], lives := Tbl.set dNil s.chip.lives k.ctx [] }) ∧
    (bad = none → fld k.payload 0 1 = 1 → Answers (.objCommit k.ctx k.tag) k s (leBytes 2 0 ++ leBytes 4 0) s.chip) ∧
    (∀ st h, bad = some (st, h) → ∃ c, Leads (.objCommit k.ctx k.tag) s (c.finish k st noOfs (leBytes 2 0 ++ leBytes 4 h)) ∧
      SamePlant s.chip c ∧ c.staged = s.chip.staged)))

/-- STREAM_OPEN opens a HOST stream that is closed, begins to subscribe for another, where a path leads to its source, and
leaves one that is open; STREAM_CLOSE closes a stream, and is kept, the stream still open, for a HOST stream whose changes have
not gone out. -/
def Obligations.StreamsOpenAndClose : Prop :=
  ∀ (k : Cmd) (s : State), k.payload = [] →
    (Ready 2 0 k s → (s.chip.stream k.inst).state ≠ 0 → Answers (.streamOpen k.ctx k.tag) k s [] s.chip) ∧
    (Ready 2 0 k s → (s.chip.stream k.inst).state = 0 → s.chip.isHostStream k.inst = true →
      ∃ c, Answers (.streamOpen k.ctx k.tag) k s [] c ∧ (c.stream k.inst).state = 2 ∧ (c.stream k.inst).hostCtx = some k.ctx ∧
        (∀ j, j ≠ k.inst → c.stream j = s.chip.stream j) ∧ SamePlant s.chip c) ∧
    (Ready 2 0 k s → (s.chip.stream k.inst).state = 0 → s.chip.isHostStream k.inst = false →
      ∃ c, Answers (.streamOpen k.ctx k.tag) k s [] c ∧
        (c.stream k.inst).state = (if s.chip.reaches (s.chip.srcNode k.inst) then 1 else 4) ∧
        (∀ j, j ≠ k.inst → c.stream j = s.chip.stream j) ∧ SamePlant s.chip c) ∧
    (Ready 2 1 k s → (s.chip.isHostStream k.inst = false ∨ s.chip.changedImages k.inst = [] ∨ (s.chip.stream k.inst).state ≠ 2) →
      ∃ c, Answers (.streamClose k.ctx k.tag) k s [] c ∧
        ((s.chip.stream k.inst).closing = [] → (c.stream k.inst).state = 0) ∧ SamePlant s.chip c) ∧
    (Ready 2 1 k s → s.chip.isHostStream k.inst = true → (s.chip.stream k.inst).state = 2 → s.chip.changedImages k.inst ≠ [] →
      ∃ c, Leads (.streamClose k.ctx k.tag) s c ∧
        (c.stream k.inst).closing = (s.chip.stream k.inst).closing ++ [(k.ctx, k.tag)] ∧ (c.stream k.inst).state = 2)

/-- SIGNAL_READ answers the slot's 16 bytes; SIGNAL_FORCE makes the slot VALID and FORCED with its value and the present fabric
time and keeps its PRODUCER; SIGNAL_RELEASE ends the forcing, leaves every slot as it was, and a zone's substitution in effect
(R41, R87). They act here on a slot of this module. A signal command, or OBJ_OWNER, that names a slot of another node is carried
there as a PHIVEOX frame, and waits for that node's reply (R59, R369). -/
def Obligations.SignalsAreReadAndForced : Prop :=
  (∀ (k : Cmd) (s : State), let sid := bits k.hnd 0 12
    (Ready 2 2 k s → k.payload = [] → Answers (.signalRead k.ctx k.tag) k s (slotBytes (s.chip.readSlot sid)) s.chip) ∧
    (Ready 2 3 k s → k.payload.length = 8 → zeroAt k.payload 4 4 = true →
      ∃ c, Answers (.signalForce k.ctx k.tag) k s [] c ∧ (c.slot sid).value = BitVec.ofNat 32 (fld k.payload 0 4) ∧
        (c.slot sid).quality = qVALID ||| qFORCED ∧ (c.slot sid).stamp = s.chip.stamp ∧
        (c.slot sid).producer = (s.chip.slot sid).producer ∧
        Tbl.get dOverride c.overrides sid = ⟨true, (Tbl.get dOverride s.chip.overrides sid).model⟩ ∧
        (∀ j, j ≠ sid → c.slot j = s.chip.slot j ∧ Tbl.get dOverride c.overrides j = Tbl.get dOverride s.chip.overrides j)) ∧
    (Ready 2 4 k s → k.payload = [] → ∃ c, Answers (.signalRelease k.ctx k.tag) k s [] c ∧
      Tbl.get dOverride c.overrides sid = ⟨false, (Tbl.get dOverride s.chip.overrides sid).model⟩ ∧ c.slots = s.chip.slots ∧
      (∀ j, j ≠ sid → Tbl.get dOverride c.overrides j = Tbl.get dOverride s.chip.overrides j))) ∧
  (∀ (k : Cmd) (s : State),
    let p := packet (k.ver / 256) (k.ver % 256) k.family k.opcode k.tag k.hnd (k.flags % 4) k.deadlineByte k.payload
    let c := (s.chip.sendPhiveox (bits k.hnd 12 10) k.cls (phiveoxPayload (0xFF00 + k.ctx) p)).setCmd { k with phase := .running }
    (Relayed 1 7 k s → Leads (.objOwner k.ctx k.tag) s c) ∧ (Relayed 2 2 k s → Leads (.signalRead k.ctx k.tag) s c) ∧
      (Relayed 2 3 k s → Leads (.signalForce k.ctx k.tag) s c) ∧ (Relayed 2 4 k s → Leads (.signalRelease k.ctx k.tag) s c))

/-! ### Families 0x03 and 0x04: sampler, PWM groups, actuators -/

/-- The sequencer commands. SEQ_START arms a head whose table can run, and SEQ_STOP of a head disarms it and, with no pass of it
running, ends at once, while with a pass running it is kept for that pass; neither touches another head. SEQ_READ answers the
result words of its entries, clears their FRESH bits where it is asked to, and changes nothing else. SEQ_START and SEQ_READ
answer CAL_INVALID in place of OK while the store is not valid. The calibration commands. CAL_ZERO and CAL_SPAN on an active
port start a capture on their channel, a span only with a zero held; CAL_READ answers a part of a valid store; CAL_WRITE keeps a
chunk for its session where the session has room for it and ends NO_RESOURCE where it has not, and its last chunk starts the
write of the store, whose marker is gone and whose sector is erased, where the set is good, and ends BAD_PARAM with no effect
where it is not. -/
def Obligations.SamplerTakesCommands : Prop :=
  (∀ (k : Cmd) (s : State),
    (Ready 3 0 k s → k.payload = [] → seHead (s.chip.seqCtl k.inst) = true → s.chip.overloaded (if s.chip.activeHeads.contains k.inst then s.chip.activeHeads else s.chip.activeHeads ++ [k.inst]) = false →
      s.chip.rateMissing (if s.chip.activeHeads.contains k.inst then s.chip.activeHeads else s.chip.activeHeads ++ [k.inst]) = none → s.chip.class0Ok k.inst = true →
      ∃ c, Leads (.seqStart k.ctx k.tag) s (c.finish k (if s.chip.cal.valid then stOK else stCalInvalid) noOfs []) ∧
        (c.seq k.inst).armed = true ∧ (∀ j, j ≠ k.inst → c.seq j = s.chip.seq j) ∧ SamePlant s.chip c ∧
        ((s.chip.seq k.inst).armed = false → (c.seq k.inst).passes = 0 ∧ (c.seq k.inst).overruns = 0)) ∧
    (Ready 3 1 k s → k.payload = [] → seHead (s.chip.seqCtl k.inst) = true → (s.chip.seq k.inst).stopCmd = none →
      s.chip.suppliesRate k.inst = false → s.chip.sampler.passes.any (fun p => p.head == k.inst) = false →
      ∃ c, Answers (.seqStop k.ctx k.tag) k s [] c ∧ (c.seq k.inst).armed = false ∧ (c.seq k.inst).dues = [] ∧
        (∀ j, j ≠ k.inst → c.seq j = s.chip.seq j) ∧ SamePlant s.chip c) ∧
    (Ready 3 1 k s → k.payload = [] → seHead (s.chip.seqCtl k.inst) = true → (s.chip.seq k.inst).stopCmd = none →
      s.chip.suppliesRate k.inst = false → s.chip.sampler.passes.any (fun p => p.head == k.inst) = true →
      ∃ c, Leads (.seqStop k.ctx k.tag) s c ∧ (c.seq k.inst).armed = false ∧ (c.seq k.inst).stopCmd = some (k.ctx, k.tag) ∧
        (∀ j, j ≠ k.inst → c.seq j = s.chip.seq j) ∧ c.sampler.passes = s.chip.sampler.passes) ∧
    (Ready 3 2 k s → k.payload.length = 4 → 1 ≤ fld k.payload 0 1 → fld k.payload 0 1 ≤ 128 → k.inst + fld k.payload 0 1 ≤ 128 →
      fld k.payload 1 1 ≤ 1 → zeroAt k.payload 2 2 = true →
      let es := (List.range (fld k.payload 0 1)).map (· + k.inst)
      ∃ c, Leads (.seqRead k.ctx k.tag) s (c.finish k (if s.chip.cal.valid then stOK else stCalInvalid) noOfs
          (es.map (fun e => leBytes 4 (Tbl.get dWord0 s.chip.sampler.results e).toNat)).flatten) ∧
        (fld k.payload 1 1 = 0 → c = s.chip) ∧
        (fld k.payload 1 1 = 1 → ∃ t, c = { s.chip with sampler := { s.chip.sampler with results := t } } ∧
          ∀ e, Tbl.get dWord0 t e = if e ∈ es then Tbl.get dWord0 s.chip.sampler.results e &&& 0xFFFF7FFF
            else Tbl.get dWord0 s.chip.sampler.results e))) ∧
  (∀ (k : Cmd) (s : State), let ch := 2 * k.inst + fld k.payload 0 1; let range := s.chip.channelRange ch
    (Ready 3 3 k s → k.payload.length = 8 → fld k.payload 0 1 ≤ 1 → zeroAt k.payload 1 3 = true →
      s.chip.portActive k.inst = true → s.chip.heldFull ch range = false →
      ∃ c, Starts (.calZero k.ctx k.tag) k s c ∧ c.cal.captures = s.chip.cal.captures ++
        [⟨k.ctx, k.tag, ch, range, false, fldI32 k.payload 4, s.chip.clk.now, s.chip.clk.now + sec 1⟩] ∧
        c.cal.working = s.chip.cal.working ∧ SamePlant s.chip c) ∧
    (Ready 3 4 k s → k.payload.length = 8 → fld k.payload 0 1 ≤ 1 → zeroAt k.payload 1 3 = true → s.chip.cal.write = none →
      s.chip.portActive k.inst = true → (s.chip.heldZero ch range).isSome = true →
      ∃ c, Starts (.calSpan k.ctx k.tag) k s c ∧ c.cal.captures = s.chip.cal.captures ++
        [⟨k.ctx, k.tag, ch, range, true, fldI32 k.payload 4, s.chip.clk.now, s.chip.clk.now + sec 1⟩] ∧
        c.cal.working = s.chip.cal.working ∧ SamePlant s.chip c) ∧
    (Ready 3 5 k s → k.payload.length = 4 → 1 ≤ fld k.payload 2 2 → fld k.payload 2 2 ≤ 4072 →
      fld k.payload 0 2 + fld k.payload 2 2 ≤ 4932 → s.chip.cal.write = none → s.chip.cal.valid = true →
      Answers (.calRead k.ctx k.tag) k s (leBytes 2 (fld k.payload 0 2) ++ leBytes 2 (fld k.payload 2 2) ++
        slice (calImage s.chip.dCal s.chip.cal.store) (fld k.payload 0 2) (fld k.payload 2 2)) s.chip) ∧
    (Ready 3 6 k s → 5 ≤ k.payload.length → k.payload.length ≤ 4080 → zeroAt k.payload 1 1 = true →
      fld k.payload 2 2 + (k.payload.length - 4) ≤ 4932 → s.chip.cal.write = none →
      let t := Tbl.setRun dNone (s.chip.calChunks k.ctx) (fld k.payload 2 2) ((k.payload.drop 4).map some)
      let c1 := s.chip.setCal (fun m => { m with chunks := Tbl.set dNil m.chunks k.ctx t })
      (fld k.payload 0 1 ≤ 1 → c1.stagingFull k.ctx = true → Leads (.calWrite k.ctx k.tag) s (s.chip.finish k stNoResource noOfs [])) ∧
      (fld k.payload 0 1 = 0 → c1.stagingFull k.ctx = false → Leads (.calWrite k.ctx k.tag) s
        (((c1.calDone 6 0 stOK).accept k).finishTag k.ctx k.tag stOK noOfs [])) ∧
      (∀ o, fld k.payload 0 1 = 1 → c1.stagingFull k.ctx = false → s.chip.calSetBad t = some o →
        Leads (.calWrite k.ctx k.tag) s (s.chip.finish k stBadParam (16 + chunkErr k.payload o) [])) ∧
      (fld k.payload 0 1 = 1 → c1.stagingFull k.ctx = false → s.chip.calSetBad t = none →
        ∃ c, Starts (.calWrite k.ctx k.tag) k s c ∧ c.cal.marker = none ∧
        c.cal.write = some ⟨k.ctx, k.tag, 6, 0, s.chip.chunkSet t, []⟩ ∧ c.cal.working = s.chip.cal.working ∧
        c.cal.store = erasedSet s.chip.dCal ∧ SamePlant s.chip c)))

/-- The group commands. PWM_GROUP_ENABLE of a stopped group that nothing holds sets it running and clears the trips of its
bridges; one held or halted answers BUSY, and one that runs already, or that GROUP_SAFE stopped in this same period of 25 ns,
stays as it is (R213). PWM_GROUP_DISABLE leaves its group DISABLED; GROUP_SAFE leaves it SAFE with the cause of the sender, and
from the management side takes the group for that side; TRIP_CLEAR clears the latch and the trips of its bridge, but a latch
made in this same period (R210). The actuator commands. DAMPER_MOVE of a bound damper whose position is known starts a move to
its target, in place of the one under way, or ends at once inside the deadband (R228); DAMPER_REHOME of a bound damper starts a
rehoming move; VALVE_SET and FAN_SET without a source SID give the command value; each answers BUSY where its condition fails.
ACT_FAULT_CLEAR clears the faults of its actuator but one made in this same period of 25 ns (R247). -/
def Obligations.DrivesTakeCommands : Prop :=
  (∀ (k : Cmd) (s : State), k.payload = [] →
    (Ready 4 0 k s → (s.chip.group k.inst).state ≠ .run → s.chip.islandHeld = false → (s.chip.group k.inst).haltKind = 0 →
      (s.chip.group k.inst).safeAt ≠ some s.chip.clk.now →
      ∃ c, Answers (.pwmGroupEnable k.ctx k.tag) k s [] c ∧ (c.group k.inst).state = .run ∧
        (∀ j, j ≠ k.inst → c.group j = s.chip.group j) ∧ (∀ n, n ∈ groupPorts k.inst → (c.bridge n).trips = []) ∧
        c.attrs = s.chip.attrs ∧ c.ports = s.chip.ports) ∧
    (Ready 4 0 k s → (s.chip.group k.inst).state = .run ∨ s.chip.islandHeld = false ∧ (s.chip.group k.inst).haltKind = 0 ∧
      (s.chip.group k.inst).safeAt = some s.chip.clk.now → Answers (.pwmGroupEnable k.ctx k.tag) k s [] s.chip) ∧
    (Ready 4 0 k s → (s.chip.islandHeld = true ∨ (s.chip.group k.inst).haltKind ≠ 0) → (s.chip.group k.inst).state ≠ .run →
      Leads (.pwmGroupEnable k.ctx k.tag) s (s.chip.finish k stBusy noOfs [])) ∧
    (Ready 4 1 k s → ∃ c, Answers (.pwmGroupDisable k.ctx k.tag) k s [] c ∧ (c.group k.inst).state = .disabled ∧
      (c.group k.inst).queued = [] ∧ (c.group k.inst).haltKind = 0 ∧ c.attrs = s.chip.attrs) ∧
    (Ready 4 2 k s → ∃ c, Answers (.groupSafe k.ctx k.tag) k s [] c ∧ (c.group k.inst).state = .safe ∧
      (c.group k.inst).cause = (if isMgtCtx k.ctx then 4 else 3) ∧
      (isMgtCtx k.ctx = true → c.ownerIsMgt (handle tyGroup k.inst) = true)) ∧
    (Ready 4 3 k s → ((s.chip.bridge k.inst).latched = false ∨ (s.chip.bridge k.inst).latchAt ≠ some s.chip.clk.now) →
      ∃ c, Answers (.tripClear k.ctx k.tag) k s [] c ∧ (c.bridge k.inst).latched = false ∧
        (c.bridge k.inst).trips = [] ∧ (∀ j, j ≠ k.inst → c.bridge j = s.chip.bridge j) ∧ c.groups = s.chip.groups) ∧
    (Ready 4 3 k s → (s.chip.bridge k.inst).latched = true → (s.chip.bridge k.inst).latchAt = some s.chip.clk.now →
      ∃ c, Answers (.tripClear k.ctx k.tag) k s [] c ∧ c.bridges = s.chip.bridges ∧ c.groups = s.chip.groups)) ∧
  (∀ (k : Cmd) (s : State),
    (Ready 4 4 k s → k.payload.length = 8 → fld k.payload 0 4 ≤ 0x10000 → zeroAt k.payload 4 4 = true →
      s.chip.damperBound k.inst = true → (s.chip.motor k.inst).known = true →
      (s.chip.beyondDeadband k.inst (fld k.payload 0 4) = true → ∃ (c : Chip) (mv : Move), Starts (.damperMove k.ctx k.tag) k s c ∧
        (c.motor k.inst).move = some mv ∧ mv.kind = .move ∧ mv.target = fld k.payload 0 4 ∧ mv.cmd = some (k.ctx, k.tag) ∧
        (c.motor k.inst).command = some (fld k.payload 0 4) ∧ (∀ j, j ≠ k.inst → c.motor j = s.chip.motor j)) ∧
      (s.chip.beyondDeadband k.inst (fld k.payload 0 4) = false → ∃ c : Chip, Leads (.damperMove k.ctx k.tag) s
          ((c.accept k).finishTag k.ctx k.tag stOK noOfs (c.moveReply k.inst 0)) ∧ (c.motor k.inst).move = none ∧
        (c.motor k.inst).command = some (fld k.payload 0 4) ∧ (∀ j, j ≠ k.inst → c.motor j = s.chip.motor j))) ∧
    (Ready 4 4 k s → k.payload.length = 8 → fld k.payload 0 4 ≤ 0x10000 → zeroAt k.payload 4 4 = true →
      (s.chip.damperBound k.inst = false ∨ (s.chip.motor k.inst).known = false) →
      Leads (.damperMove k.ctx k.tag) s (s.chip.finish k stBusy noOfs [])) ∧
    (Ready 4 5 k s → k.payload.length = 4 → fld k.payload 0 1 ≤ 1 → zeroAt k.payload 1 3 = true →
      s.chip.damperBound k.inst = true →
      ∃ (c : Chip) (mv : Move), Starts (.damperRehome k.ctx k.tag) k s c ∧ (c.motor k.inst).move = some mv ∧
        mv.kind = (if fld k.payload 0 1 = 0 then .fullClose else .near) ∧ mv.rehome = true ∧
        (∀ j, j ≠ k.inst → c.motor j = s.chip.motor j)) ∧
    (Ready 4 5 k s → k.payload.length = 4 → fld k.payload 0 1 ≤ 1 → zeroAt k.payload 1 3 = true →
      s.chip.damperBound k.inst = false → Leads (.damperRehome k.ctx k.tag) s (s.chip.finish k stBusy noOfs [])) ∧
    (Ready 4 6 k s → k.payload.length = 4 → fld k.payload 0 4 ≤ 0x10000 → sidOf (s.chip.attrN tyValve k.inst 2) = none →
      ∃ c, Answers (.valveSet k.ctx k.tag) k s [] c ∧ (c.valve k.inst).command = some (fld k.payload 0 4) ∧
        (∀ j, j ≠ k.inst → c.valve j = s.chip.valve j) ∧ c.fans = s.chip.fans ∧ c.groups = s.chip.groups) ∧
    (Ready 4 6 k s → k.payload.length = 4 → fld k.payload 0 4 ≤ 0x10000 → (sidOf (s.chip.attrN tyValve k.inst 2)).isSome = true →
      Leads (.valveSet k.ctx k.tag) s (s.chip.finish k stBusy noOfs [])) ∧
    (Ready 4 7 k s → k.payload.length = 4 → fld k.payload 0 4 ≤ 0x10000 → sidOf (s.chip.attrN tyFan k.inst 6) = none →
      bit (s.chip.attrN tyFan k.inst 1) 4 = false →
      ∃ c, Answers (.fanSet k.ctx k.tag) k s [] c ∧ (c.fan k.inst).command = some (fld k.payload 0 4) ∧
        (∀ j, j ≠ k.inst → c.fan j = s.chip.fan j) ∧ c.valves = s.chip.valves ∧ c.groups = s.chip.groups) ∧
    (Ready 4 7 k s → k.payload.length = 4 → fld k.payload 0 4 ≤ 0x10000 →
      ((sidOf (s.chip.attrN tyFan k.inst 6)).isSome = true ∨ bit (s.chip.attrN tyFan k.inst 1) 4 = true) →
      Leads (.fanSet k.ctx k.tag) s (s.chip.finish k stBusy noOfs [])) ∧
    (Ready 4 8 k s → k.payload = [] → ∃ c, Answers (.actFaultClear k.ctx k.tag) k s [] c ∧
      (k.ty = tyDamper → s.chip.damperBound k.inst = true → (s.chip.motor k.inst).faultAt ≠ some s.chip.clk.now →
        (c.motor k.inst).jam = false ∧ (c.motor k.inst).openLoad = false ∧ c.valves = s.chip.valves ∧ c.fans = s.chip.fans) ∧
      (k.ty = tyDamper → (s.chip.damperBound k.inst = false ∨ (s.chip.motor k.inst).faultAt = some s.chip.clk.now) → c = s.chip) ∧
      (k.ty = tyFan → s.chip.fanBound k.inst = true → (s.chip.fan k.inst).faultAt ≠ some s.chip.clk.now →
        (c.fan k.inst).state ≠ .stall ∧ (c.fan k.inst).state ≠ .tachLost ∧ c.valves = s.chip.valves ∧ c.motors = s.chip.motors) ∧
      (k.ty = tyFan → (s.chip.fanBound k.inst = false ∨ (s.chip.fan k.inst).faultAt = some s.chip.clk.now) → c = s.chip) ∧
      (k.ty ≠ tyDamper → k.ty ≠ tyFan → (s.chip.valve k.inst).faultAt ≠ some s.chip.clk.now →
        (c.valve k.inst).fault = false ∧ c.fans = s.chip.fans) ∧
      (k.ty ≠ tyDamper → k.ty ≠ tyFan → (s.chip.valve k.inst).faultAt = some s.chip.clk.now → c.valves = s.chip.valves)))

/-! ### Families 0x05 to 0x0A -/

/-- The loop commands. LOOP_ENABLE of a stopped loop sets it running with no state of an earlier run, and of a running one
changes nothing; LOOP_DISABLE stops it; BANK_SWAP names the bank to come, 2 the other than that named last; INTEGRATOR_PRESET
keeps a preset for a PID node; SAT_CLEAR clears the alarm, but one raised in this same period of 25 ns; LOOP_STATUS answers the
loop's state and changes nothing. No other loop changes, and nothing of the plant. The zone commands. ZONE_STATUS and
PRESENCE_READ answer and change nothing; FIT_ENABLE starts the fitting of a zone that is not fitted, and leaves one that is;
FIT_DISABLE ends it; SUSPECT_OVERRIDE ends a suspicion, leaves the run of exceedances of a zone that is not suspected, and
suspends plausibility for its time; PREDICT_START of an enabled zone puts a prediction behind those that wait. -/
def Obligations.LoopsAndZonesTakeCommands : Prop :=
  (∀ (k : Cmd) (s : State),
    (Ready 5 0 k s → k.payload = [] → ∃ c, Answers (.loopEnable k.ctx k.tag) k s [] c ∧ (c.loop k.inst).enabled = true ∧
      ((s.chip.loop k.inst).enabled = true → c = s.chip) ∧ ((s.chip.loop k.inst).enabled = false → (c.loop k.inst).words = [] ∧
        (c.loop k.inst).starved = 0 ∧ (c.loop k.inst).skipped = 0 ∧ (c.loop k.inst).alarm = (s.chip.loop k.inst).alarm ∧
        (c.loop k.inst).nextDue = some s.chip.clk.transit) ∧
      (∀ j, j ≠ k.inst → c.loop j = s.chip.loop j) ∧ SamePlant s.chip c) ∧
    (Ready 5 1 k s → k.payload = [] → ∃ c, Answers (.loopDisable k.ctx k.tag) k s [] c ∧ (c.loop k.inst).enabled = false ∧
      (c.loop k.inst).trigs = [] ∧ (c.loop k.inst).bank = (s.chip.loop k.inst).bank ∧ (∀ j, j ≠ k.inst → c.loop j = s.chip.loop j) ∧
      SamePlant s.chip c) ∧
    (Ready 5 2 k s → k.payload.length = 4 → fld k.payload 0 1 ≤ 2 → zeroAt k.payload 1 3 = true →
      ∃ c, Answers (.bankSwap k.ctx k.tag) k s [] c ∧ (c.loop k.inst).bank = (s.chip.loop k.inst).bank ∧
        (fld k.payload 0 1 = 0 → (c.loop k.inst).swap = some false) ∧ (fld k.payload 0 1 = 1 → (c.loop k.inst).swap = some true) ∧
        (fld k.payload 0 1 = 2 →
          (c.loop k.inst).swap = some (!((s.chip.loop k.inst).swap.getD (s.chip.loop k.inst).bank))) ∧
        (∀ j, j ≠ k.inst → c.loop j = s.chip.loop j) ∧ SamePlant s.chip c) ∧
    (Ready 5 3 k s → k.payload = [] → Answers (.loopStatus k.ctx k.tag) k s
      (leBytes 4 (s.chip.loopState k.inst) ++ leBytes 4 (s.chip.satTime k.inst) ++ leBytes 4 (s.chip.satRun k.inst)
        ++ leBytes 4 (s.chip.loop k.inst).starved.toNat ++ leBytes 4 (s.chip.loop k.inst).lastLat.toNat
        ++ leBytes 4 (s.chip.loop k.inst).maxLat.toNat) s.chip) ∧
    (Ready 5 4 k s → k.payload.length = 8 → fld k.payload 0 2 < (s.chip.loopNodes k.inst).length →
      nodeOp ((s.chip.loopNodes k.inst).getD (fld k.payload 0 2) 0) = 3 → zeroAt k.payload 2 2 = true →
      ∃ c, Answers (.integratorPreset k.ctx k.tag) k s [] c ∧
        (c.loop k.inst).presets.find? (fun x => x.1 == fld k.payload 0 2) = some (fld k.payload 0 2, fldI32 k.payload 4) ∧
        (∀ j, j ≠ k.inst → c.loop j = s.chip.loop j) ∧ SamePlant s.chip c) ∧
    (Ready 5 5 k s → k.payload = [] → (s.chip.loop k.inst).alarmAt = some s.chip.clk.now →
      Answers (.satClear k.ctx k.tag) k s [] s.chip) ∧
    (Ready 5 5 k s → k.payload = [] → (s.chip.loop k.inst).alarmAt ≠ some s.chip.clk.now → ∃ c, Answers (.satClear k.ctx k.tag) k s [] c ∧ (c.loop k.inst).alarm = false ∧
      (c.loop k.inst).words = (s.chip.loop k.inst).words ∧ (∀ j, j ≠ k.inst → c.loop j = s.chip.loop j) ∧ SamePlant s.chip c)) ∧
  (∀ (k : Cmd) (s : State),
    (Ready 6 0 k s → k.payload = [] → Answers (.zoneStatus k.ctx k.tag) k s
      (leBytes 4 (s.chip.zoneState k.inst) ++ leBytes 4 (unsigned 32 (s.chip.zone k.inst).residual) ++ leBytes 4 (unsigned 32
        ((s.chip.zone k.inst).x.getD 0 0))
        ++ leBytes 4 (s.chip.zoneY k.inst).value.toNat ++ leBytes 4 (if s.chip.isStale (s.chip.zoneY k.inst) then (s.chip.zoneY
          k.inst).quality ||| qSTALE else (s.chip.zoneY k.inst).quality).toNat) s.chip) ∧
    (Ready 6 1 k s → k.payload = [] → ∃ c, Answers (.fitEnable k.ctx k.tag) k s [] c ∧ (c.zone k.inst).fit.isSome = true ∧
      ((s.chip.zone k.inst).fit.isSome = true → c = s.chip) ∧ (∀ j, j ≠ k.inst → c.zone j = s.chip.zone j) ∧ c.slots = s.chip.slots) ∧
    (Ready 6 2 k s → k.payload = [] → ∃ c, Answers (.fitDisable k.ctx k.tag) k s [] c ∧ (c.zone k.inst).fit = none ∧
      (c.zone k.inst).x = (s.chip.zone k.inst).x ∧ (∀ j, j ≠ k.inst → c.zone j = s.chip.zone j) ∧ c.slots = s.chip.slots) ∧
    (Ready 6 3 k s → k.payload.length = 4 → zeroAt k.payload 2 2 = true → ∃ c, Answers (.suspectOverride k.ctx k.tag) k s [] c ∧
      (c.zone k.inst).model ≠ .suspect ∧ ((s.chip.zone k.inst).model = .suspect → (c.zone k.inst).runStart = none) ∧
      ((s.chip.zone k.inst).model ≠ .suspect → (c.zone k.inst).runStart = (s.chip.zone k.inst).runStart ∧
        (c.zone k.inst).model = (s.chip.zone k.inst).model) ∧ (c.zone k.inst).suspend =
        (if fld k.payload 0 2 = 0 then none else some (s.chip.clk.now + sec (fld k.payload 0 2))) ∧
      (∀ j, j ≠ k.inst → c.zone j = s.chip.zone j) ∧ c.slots = s.chip.slots) ∧
    (Ready 6 4 k s → k.payload = [] → Answers (.presenceRead k.ctx k.tag) k s
      ([BitVec.ofNat 8 (s.chip.zone k.inst).presence.code, BitVec.ofNat 8 (s.chip.zone k.inst).reason, 0, 0] ++ leBytes 4
        ((s.chip.clk.now - (s.chip.zone k.inst).lastEvidence) / sec 1)
        ++ leBytes 4 (match (s.chip.zone k.inst).hold with
          | some d => (d - s.chip.clk.transit) / sec 1
          | none => 0)) s.chip) ∧
    (Ready 6 5 k s → k.payload.length = 8 → (fld k.payload 4 1 = 1 ∨ fld k.payload 4 1 = 2) → zeroAt k.payload 5 1 = true →
      1 ≤ fld k.payload 6 2 → fld k.payload 6 2 ≤ 720 → (s.chip.boostOf k.inst (decide (fld k.payload 4 1 = 1))).1 ≤ 5 →
      s.chip.zoneEn k.inst = true → Leads (.predictStart k.ctx k.tag) s
        (Chip.setCmd { k with phase := .running } { s.chip with predictions := s.chip.predictions ++
          [⟨k.inst, fldI32 k.payload 0, decide (fld k.payload 4 1 = 1), fld k.payload 6 2, some (k.ctx, k.tag), (0, 0, 0)⟩] })) ∧
    (Ready 6 5 k s → k.payload.length = 8 → (fld k.payload 4 1 = 1 ∨ fld k.payload 4 1 = 2) → zeroAt k.payload 5 1 = true →
      1 ≤ fld k.payload 6 2 → fld k.payload 6 2 ≤ 720 → (s.chip.boostOf k.inst (decide (fld k.payload 4 1 = 1))).1 ≤ 5 →
      s.chip.zoneEn k.inst = false → Leads (.predictStart k.ctx k.tag) s (s.chip.finish k stBusy noOfs [])))

/-- The clock commands. TIME_CAPTURE answers the time at the next RTC tick; TIME_SET sets the RTC and fabric time, and answers
BUSY on a module that follows another; CALENDAR_SET takes its base and transitions; WAKE_SET and ALARM_SET set their registers,
ALARM_SET leaving PWR_ON as it is where it neither asserts nor releases it; EPHEMERIS_READ and SCHEDULE_STATUS answer and change
nothing; EPHEMERIS_WRITE puts the table into backup RAM at once, and EPHEMERIS_FLASH_DONE ends it OK once the flash holds it
too, or STORE_WRITE_FAIL. -/
def Obligations.ClockTakesCommands : Prop :=
  ∀ (k : Cmd) (s : State),
    (Ready 7 0 k s → k.payload = [] → let c := s.chip.waitTicks 1; let ts := decide (protoVer 3 2 ≤ k.ver) && c.clk.refRun
      Answers (.timeCapture k.ctx k.tag) k s (leBytes 5 c.rtc.count.toNat
        ++ [BitVec.ofNat 8 (b2n c.rtc.valid + 2 * b2n c.follower + 4 * b2n c.rtc.timeLost + 8 * b2n ts)]
        ++ leBytes 2 (c.rtc.presc * 2) ++ leBytes 4 (if ts then c.clk.transit else 0) ++ leBytes 4 c.stamp.toNat) c) ∧
    (∀ n, Ready 7 1 k s → k.payload.length = 12 → timeSetCount s.chip k.payload = .ok n → s.chip.follower = false →
      ∃ c, Answers (.timeSet k.ctx k.tag) k s (leBytes 8 n) c ∧ c.rtc.count = BitVec.ofNat 40 n ∧ c.rtc.presc = 0 ∧
        c.rtc.valid = true ∧ c.clk.fabUs = fabricOf n ∧ c.rtc.alm = s.chip.rtc.alm ∧ c.rtc.bkp = s.chip.rtc.bkp) ∧
    (∀ n, Ready 7 1 k s → k.payload.length = 12 → timeSetCount s.chip k.payload = .ok n → s.chip.follower = true →
      Leads (.timeSet k.ctx k.tag) s (s.chip.finish k stBusy noOfs [])) ∧
    (Ready 7 2 k s → k.payload.length = 4 + 8 * fld k.payload 2 1 → fld k.payload 2 1 ≤ 16 → calendarBad k.payload = none →
      ∃ c, Answers (.calendarSet k.ctx k.tag) k s [] c ∧ c.almanac.base = signed 16 (fld k.payload 0 2) ∧
        c.almanac.transitions = (List.range (fld k.payload 2 1)).map (transitionAt k.payload) ∧ c.rtc = s.chip.rtc ∧ SamePlant s.chip c) ∧
    (Ready 7 3 k s → k.payload.length = 8 → wakeValid (fld k.payload 0 4) = true → fld k.payload 4 1 ≤ 3 → zeroAt k.payload 5 3 = true →
      ∃ c, Answers (.wakeSet k.ctx k.tag) k s [] c ∧ c.rtc.wake = BitVec.ofNat 32 (fld k.payload 0 4) ∧ c.rtc.wakeEn = bit (fld
        k.payload 4 1) 0 ∧
        c.rtc.wakePwr = bit (fld k.payload 4 1) 1 ∧ c.rtc.count = s.chip.rtc.count ∧ c.rtc.alm = s.chip.rtc.alm ∧ SamePlant s.chip c) ∧
    (Ready 7 4 k s → k.payload.length = 8 → fld k.payload 5 1 ≤ 15 → (bit (fld k.payload 5 1) 2 && bit (fld k.payload 5 1) 3) = false →
      zeroAt k.payload 6 2 = true →
      (bit (fld k.payload 5 1) 0 = true → s.chip.rtc.count.toNat < fld k.payload 0 5) →
      ∃ c, Answers (.alarmSet k.ctx k.tag) k s [] c ∧ c.rtc.alm = BitVec.ofNat 40 (fld k.payload 0 5) ∧ c.rtc.alarmEn = bit (fld
        k.payload 5 1) 0 ∧
        c.rtc.alarmPwr = bit (fld k.payload 5 1) 1 ∧ (bit (fld k.payload 5 1) 2 = true → c.rtc.pwrOn = true) ∧
        (bit (fld k.payload 5 1) 3 = true → c.rtc.pwrOn = (s.chip.rtc.pwrOn && s.chip.rtc.pwrNow)) ∧
        (bit (fld k.payload 5 1) 2 = false → bit (fld k.payload 5 1) 3 = false → c.rtc.pwrOn = s.chip.rtc.pwrOn) ∧
        c.rtc.count = s.chip.rtc.count ∧ c.rtc.wake = s.chip.rtc.wake ∧ SamePlant s.chip c) ∧
    (Ready 7 5 k s → k.payload.length = 4 → fld k.payload 0 1 ≤ 1 → zeroAt k.payload 1 3 = true →
      let b := if fld k.payload 0 1 = 0 then s.chip.ephBytes
        else s.chip.almanac.ephFlash ++ zeros (52 - s.chip.almanac.ephFlash.length)
      Answers (.ephemerisRead k.ctx k.tag) k s
        ([BitVec.ofNat 8 (b2n (ephValid b && (decide (fld k.payload 0 1 = 0) || s.chip.almanac.ephFlashValid))), b.getD 48 0, 0, 0]
          ++ b.take 48) s.chip) ∧
    (Ready 7 6 k s → k.payload.length = 52 → ephBad k.payload = none → s.chip.almanac.ephWriting = none →
      ∃ c, Starts (.ephemerisWrite k.ctx k.tag) k s c ∧ c.ephBytes = ephImage k.payload ∧ c.almanac.ephWriting = some (k.ctx, k.tag) ∧
        c.almanac.ephFlash = s.chip.almanac.ephFlash ∧ c.flash = s.chip.flash ∧ c.rtc.count = s.chip.rtc.count) ∧
    (∀ x t, s.chip.almanac.ephWriting = some (x, t) →
      (∃ c : Chip, Leads (.ephemerisFlashDone true) s (c.finishTag x t stOK noOfs []) ∧ c.almanac.ephFlash = s.chip.ephBytes ∧
        c.almanac.ephFlashValid = true ∧ c.almanac.ephWriting = none ∧ c.rtc = s.chip.rtc) ∧
      (∃ c : Chip, Leads (.ephemerisFlashDone false) s (c.finishTag x t stStoreWriteFail noOfs []) ∧
        c.almanac.ephFlash = s.chip.almanac.ephFlash ∧ c.almanac.ephWriting = none ∧ c.rtc = s.chip.rtc)) ∧
    (Ready 7 7 k s → k.payload.length = 4 → fld k.payload 0 1 ≤ 63 → zeroAt k.payload 1 3 = true →
      s.chip.nextStart (fld k.payload 0 1) s.chip.rtc.count.toNat = none →
      Answers (.scheduleStatus k.ctx k.tag) k s (leBytes 2 ((Tbl.get dGovern s.chip.almanac.govern (fld k.payload 0 1)).entry.getD
        0xFFFF) ++ ([BitVec.ofNat 8 (Tbl.get dGovern s.chip.almanac.govern (fld k.payload 0 1)).reason, 0] : List Byte)
        ++ leBytes 8 (Tbl.get dGovern s.chip.almanac.govern (fld k.payload 0 1)).since ++ leBytes 2 0xFFFF ++ zeros 2 ++ leBytes 8 0)
          s.chip) ∧
    (∀ n, Ready 7 7 k s → k.payload.length = 4 → fld k.payload 0 1 ≤ 63 → zeroAt k.payload 1 3 = true →
      s.chip.nextStart (fld k.payload 0 1) s.chip.rtc.count.toNat = some n →
      Answers (.scheduleStatus k.ctx k.tag) k s (leBytes 2 ((Tbl.get dGovern s.chip.almanac.govern (fld k.payload 0 1)).entry.getD
        0xFFFF) ++ ([BitVec.ofNat 8 (Tbl.get dGovern s.chip.almanac.govern (fld k.payload 0 1)).reason, 0] : List Byte)
        ++ leBytes 8 (Tbl.get dGovern s.chip.almanac.govern (fld k.payload 0 1)).since ++ leBytes 2 n.entry ++ zeros 2 ++ leBytes 8
          n.nominal) s.chip)

/-- The link commands. LINK_STATUS, TOPOLOGY_READ, ROUTE_STATUS and BELLWETHER_STATUS answer and change nothing; POLICE_COUNTERS
answers and, where it asks, restarts the counts; LINK_RETRAIN takes an enabled link back to training, or answers BUSY where one
is under way, and ends by LINK_RETRAIN_DONE once the link is UP or ISOLATED, or 10 s later. -/
def Obligations.LinksTakeCommands : Prop :=
  ∀ (k : Cmd) (s : State),
    (Ready 8 0 k s → k.payload = [] → Answers (.linkStatus k.ctx k.tag) k s (leBytes 4 (s.chip.linkStat k.inst)
      ++ leBytes 8 (s.chip.link k.inst).peerUid ++ leBytes 4 (s.chip.link k.inst).sent.toNat
      ++ leBytes 4 (s.chip.link k.inst).received.toNat ++ leBytes 4 (s.chip.link k.inst).hcrcErr.toNat
      ++ leBytes 4 (s.chip.link k.inst).fcsErr.toNat ++ leBytes 4 (s.chip.link k.inst).discarded.toNat
      ++ leBytes 4 (s.chip.link k.inst).demoted.toNat ++ leBytes 4 (s.chip.link k.inst).downs.toNat
      ++ leBytes 4 (s.chip.secondsUp k.inst)) s.chip) ∧
    (Ready 8 1 k s → k.payload = [] → (s.chip.link k.inst).retrain = none → ∃ c, Starts (.linkRetrain k.ctx k.tag) k s c ∧
      (c.link k.inst).retrain = some (k.ctx, k.tag, s.chip.clk.now + sec 10) ∧ SamePlant s.chip c ∧
      ((s.chip.link k.inst).phase = .disabled → (c.link k.inst).phase = .disabled) ∧
      ((s.chip.link k.inst).phase ≠ .disabled → s.chip.clk.refRun = true → (c.link k.inst).phase = .training)) ∧
    (Ready 8 1 k s → k.payload = [] → (s.chip.link k.inst).retrain ≠ none →
      Leads (.linkRetrain k.ctx k.tag) s (s.chip.finish k stBusy noOfs [])) ∧
    (∀ n x t d, (s.chip.link n).retrain = some (x, t, d) →
      ((s.chip.link n).phase = .up ∨ (s.chip.link n).phase = .isolated → ∃ c : Chip, Leads (.linkRetrainDone n) s
        (c.finishTag x t stOK noOfs (leBytes 4 (s.chip.linkStat n))) ∧ (c.link n).retrain = none ∧ c.clk = s.chip.clk ∧
        SamePlant s.chip c) ∧
      ((s.chip.link n).phase ≠ .up → (s.chip.link n).phase ≠ .isolated → ∃ c : Chip, Leads (.linkRetrainDone n) s
        (c.finishTag x t stOK noOfs (leBytes 4 (s.chip.linkStat n))) ∧ (c.link n).retrain = none ∧ d ≤ c.clk.now ∧
        SamePlant s.chip c)) ∧
    (Ready 8 2 k s → k.payload.length = 4 → zeroAt k.payload 2 2 = true → Answers (.topologyRead k.ctx k.tag) k s
      (leBytes 2 (s.chip.topology.map (·.2)).length
        ++ leBytes 2 (((s.chip.topology.map (·.2)).drop (fld k.payload 0 2)).take 64).length
        ++ ((((s.chip.topology.map (·.2)).drop (fld k.payload 0 2)).take 64).map (s.chip.topologyEntry s.chip.paths)).flatten) s.chip) ∧
    (Ready 8 3 k s → k.payload = [] → Answers (.routeStatus k.ctx k.tag) k s
      (leBytes 4 (s.chip.rtStatus k.inst) ++ leBytes 4 (s.chip.rtBound k.inst) ++ s.chip.rtPath k.inst) s.chip) ∧
    (Ready 8 4 k s → k.payload = [] → ∃ data, Answers (.bellwetherStatus k.ctx k.tag) k s data s.chip ∧
      data.take 8 = leBytes 8 s.chip.fabric.bwUid ∧ (data.drop 16).take 4 = leBytes 4 s.chip.fabric.generation ∧
      (data.drop 20).take 8 = leBytes 8 s.chip.clk.fabUs ∧ (data.drop 28).take 4 = leBytes 4 (unsigned 32 s.chip.fabric.offset)) ∧
    (Ready 8 5 k s → k.payload.length = 4 → fld k.payload 0 1 ≤ 1 → zeroAt k.payload 1 3 = true →
      ∃ c, Answers (.policeCounters k.ctx k.tag) k s (leBytes 2 (s.chip.attrN tyLink k.inst 2) ++ [0, 0]
        ++ leBytes 4 (s.chip.link k.inst).c0Sent.toNat ++ leBytes 4 (s.chip.link k.inst).c0Demoted.toNat
        ++ leBytes 4 (s.chip.link k.inst).c0Arrived.toNat) c ∧ (fld k.payload 0 1 = 0 → c = s.chip) ∧
        (fld k.payload 0 1 = 1 → (c.link k.inst).c0Sent = 0 ∧ (c.link k.inst).c0Demoted = 0 ∧ (c.link k.inst).c0Arrived = 0) ∧
        (c.link k.inst).phase = (s.chip.link k.inst).phase ∧ (∀ j, j ≠ k.inst → c.link j = s.chip.link j) ∧ SamePlant s.chip c)

/-- The CAN commands. CAN_START starts a stopped controller error active; CAN_STOP stops one, with a frame in flight once that
frame has ended; CAN_SEND makes its frame pending, or keeps it in the queue of its controller while 32 are pending, answers BUSY
on a controller that does not send and QUEUE_FULL where the queue has no room; CAN_CANCEL withdraws a frame that is pending or
has not started with ABORTED, waits for one that is on the bus, and answers TOO_LATE for a tag that is not outstanding;
CAN_STATUS answers; CAN_TIME_MASTER sets the priority of a time master. The panel commands. PANEL_POWER on raises the rails of a
panel that is off, and ends at once on one that is up; off lowers the rails of a panel at rest, or of one that is forced, and
ends at once on one that is off, and BUSY while a transition is under way or waits; REGION_UPDATE and REGION_CLEAR place an
update that its limits admit, and answer BUSY where their panel takes none; PANEL_STATUS answers; LEDGER_SWEEP sets the sweep;
FIELD_REFRESH draws the fields of its panel again, or the one it names. -/
def Obligations.BusesAndPanelsTakeCommands : Prop :=
  (∀ (k : Cmd) (s : State),
    (Ready 9 0 k s → k.payload = [] → (s.chip.canOf k.inst).started = true → Answers (.canStart k.ctx k.tag) k s [] s.chip) ∧
    (Ready 9 0 k s → k.payload = [] → (s.chip.canOf k.inst).started = false → s.chip.islandHeld = false →
      ∃ c, Answers (.canStart k.ctx k.tag) k s [] c ∧ (c.canOf k.inst).started = true ∧ (c.canOf k.inst).tec = 0 ∧
        (c.canOf k.inst).recv = 0 ∧ (c.canOf k.inst).master = false ∧ (∀ j, j ≠ k.inst → c.canOf j = s.chip.canOf j) ∧
        SamePlant s.chip c) ∧
    (Ready 9 0 k s → k.payload = [] → (s.chip.canOf k.inst).started = false → s.chip.islandHeld = true →
      Leads (.canStart k.ctx k.tag) s (s.chip.finish k stBusy noOfs [])) ∧
    (Ready 9 1 k s → k.payload = [] → (s.chip.canOf k.inst).started = true → (s.chip.canOf k.inst).flight = none →
      ∃ c, Answers (.canStop k.ctx k.tag) k s [] c ∧ (c.canOf k.inst).started = false ∧ (c.canOf k.inst).pend = [] ∧
        (c.canOf k.inst).queued = []) ∧
    (Ready 9 1 k s → k.payload = [] → (s.chip.canOf k.inst).started = true → (s.chip.canOf k.inst).flight.isSome = true →
      (s.chip.canOf k.inst).stopCmd = none → ∃ c, Leads (.canStop k.ctx k.tag) s (Chip.setCmd { k with phase := .running } c) ∧
        (c.canOf k.inst).stopCmd = some (k.ctx, k.tag) ∧ (c.canOf k.inst).started = true ∧ SamePlant s.chip c) ∧
    (Ready 9 1 k s → k.payload = [] → (s.chip.canOf k.inst).started = false → Answers (.canStop k.ctx k.tag) k s [] s.chip) ∧
    (Ready 9 2 k s → 8 ≤ k.payload.length → k.payload.length ≤ 72 → s.chip.sendBad k.inst k.payload = none →
      (s.chip.canOf k.inst).queued.any (fun p => p.cmd == some (k.ctx, k.tag)) = false →
      let excl := bit (fld k.payload 4 1) 3
      let q := 40 + 4 * k.inst + b2n excl
      let p : CanPend := ⟨(s.chip.canOf k.inst).nextNum, some (k.ctx, k.tag), if excl then fld k.payload 6 1 else 0x3F, excl,
        sendFrame k.payload, 0, 0, s.chip.clk.now⟩
      let runs := (s.chip.canOf k.inst).started = true ∧ (s.chip.canOf k.inst).stopCmd = none ∧ s.chip.canSilent k.inst = false ∧
        s.chip.islandHeld = false
      let room := (s.chip.queue q).hasRoom (entriesFor (s.chip.queue q).eshift k.payload.length) = true
      let free := (s.chip.canOf k.inst).queued = [] ∧ (s.chip.canOf k.inst).pendCount < 32
      (runs → room → excl = true ∨ free → ∃ c, Starts (.canSend k.ctx k.tag) k s c ∧
        (c.canOf k.inst).pend = (s.chip.canOf k.inst).pend ++ [p] ∧ (∀ j, j ≠ k.inst → c.canOf j = s.chip.canOf j) ∧
        SamePlant s.chip c) ∧
      (runs → room → excl = false → ¬free → ∃ c, Leads (.canSend k.ctx k.tag) s c ∧
        (c.canOf k.inst).queued = (s.chip.canOf k.inst).queued ++ [p] ∧ (c.canOf k.inst).pend = (s.chip.canOf k.inst).pend ∧
        (∀ j, j ≠ k.inst → c.canOf j = s.chip.canOf j) ∧ SamePlant s.chip c) ∧
      (¬runs → Leads (.canSend k.ctx k.tag) s (s.chip.finish k stBusy noOfs [])) ∧
      (runs → ¬room → Leads (.canSend k.ctx k.tag) s (s.chip.finish k stQueueFull noOfs []))) ∧
    (∀ (t : Cmd) (x : Nat), Ready 9 3 k s → k.payload.length = 4 → zeroAt k.payload 3 1 = true →
      namedCtx k (fld k.payload 2 1) = some x → s.chip.findCmd x (fld k.payload 0 2) = some t → t.family = 9 → t.opcode = 2 →
      t.inst = k.inst → t.tag = fld k.payload 0 2 → t.phase = .running →
      (s.chip.canOf k.inst).pend.any (fun p => p.cmd == some (x, t.tag)) = true →
      Answers (.canCancel k.ctx k.tag) k s [] (Chip.refillCan k.inst (Chip.finishTag x t.tag stAborted noOfs []
        (s.chip.setCan k.inst { s.chip.canOf k.inst with
          pend := (s.chip.canOf k.inst).pend.filter (fun p => !(p.cmd == some (x, t.tag))) })))) ∧
    (∀ (t : Cmd) (x : Nat), Ready 9 3 k s → k.payload.length = 4 → zeroAt k.payload 3 1 = true →
      namedCtx k (fld k.payload 2 1) = some x → s.chip.findCmd x (fld k.payload 0 2) = some t → t.family = 9 → t.opcode = 2 →
      t.inst = k.inst → t.tag = fld k.payload 0 2 →
      (s.chip.canOf k.inst).queued.any (fun p => p.cmd == some (x, t.tag)) = false →
      (t.phase = .fetched → Answers (.canCancel k.ctx k.tag) k s [] (s.chip.finish t stAborted noOfs [])) ∧
      (∀ f : CanFlight, t.phase = .running → (s.chip.canOf k.inst).pend.any (fun p => p.cmd == some (x, t.tag)) = false →
        (s.chip.canOf k.inst).flight = some f → f.pend.cmd = some (x, t.tag) →
        Leads (.canCancel k.ctx k.tag) s (Chip.setCmd { k with phase := .running } (s.chip.setCan k.inst { s.chip.canOf k.inst with
          flight := some { f with cancels := f.cancels ++ [(k.ctx, k.tag)] } })))) ∧
    (∀ x, Ready 9 3 k s → k.payload.length = 4 → zeroAt k.payload 3 1 = true → namedCtx k (fld k.payload 2 1) = some x →
      s.chip.findCmd x (fld k.payload 0 2) = none → Leads (.canCancel k.ctx k.tag) s (s.chip.finish k stTooLate noOfs [])) ∧
    (Ready 9 4 k s → k.payload = [] → Answers (.canStatus k.ctx k.tag) k s (leBytes 4 (s.chip.canStat k.inst)
      ++ [BitVec.ofNat 8 (s.chip.canOf k.inst).tdcMeas, 0, 0, 0] ++ leBytes 4 (s.chip.canOf k.inst).sent.toNat
      ++ leBytes 4 (s.chip.canOf k.inst).received.toNat ++ leBytes 4 (s.chip.canOf k.inst).errors.toNat
      ++ leBytes 4 (s.chip.canOf k.inst).busOffs.toNat ++ leBytes 4 (s.chip.canOf k.inst).s1Causes.toNat
      ++ leBytes 4 (s.chip.canOf k.inst).filtered.toNat ++ leBytes 4 (s.chip.canOf k.inst).versionDrops.toNat
      ++ leBytes 4 (s.chip.canOf k.inst).seqGaps.toNat) s.chip) ∧
    (Ready 9 5 k s → k.payload.length = 4 → (fld k.payload 0 1 ≤ 7 ∨ fld k.payload 0 1 = 0xFF) → zeroAt k.payload 1 3 = true →
      ∃ c, Answers (.canTimeMaster k.ctx k.tag) k s [] c ∧ c.can = s.chip.can ∧
        bit (c.ttCfg k.inst) 22 = decide (fld k.payload 0 1 ≠ 0xFF) ∧
        (fld k.payload 0 1 ≤ 7 → bits (c.ttCfg k.inst) 19 3 = fld k.payload 0 1) ∧
        (fld k.payload 0 1 = 0xFF → bits (c.ttCfg k.inst) 19 3 = bits (s.chip.ttCfg k.inst) 19 3))) ∧
  (∀ (k : Cmd) (s : State),
    (Ready 0xA 0 k s → k.payload.length = 4 → fld k.payload 0 1 = 1 → fld k.payload 1 1 ≤ 1 → zeroAt k.payload 2 2 = true →
      (s.chip.panel k.inst).power = none → s.chip.islandHeld = false →
      ((s.chip.panel k.inst).rails = .off → s.chip.thermal.shutdown = false → ∃ c, Starts (.panelPower k.ctx k.tag) k s c ∧
        (c.panel k.inst).rails = .rising ∧ (c.panel k.inst).step = 0 ∧ (c.panel k.inst).power = some (k.ctx, k.tag, true) ∧
        (∀ j, j ≠ k.inst → c.panel j = s.chip.panel j) ∧ c.slots = s.chip.slots) ∧
      ((s.chip.panel k.inst).rails = .up →
        Leads (.panelPower k.ctx k.tag) s (((s.chip.railsRise k.inst).accept k).finishTag k.ctx k.tag stOK noOfs [])) ∧
      ((s.chip.panel k.inst).rails ≠ .up → s.chip.thermal.shutdown = true →
        Leads (.panelPower k.ctx k.tag) s (s.chip.finish k stThermalLimit noOfs []))) ∧
    (Ready 0xA 0 k s → k.payload.length = 4 → fld k.payload 0 1 = 0 → fld k.payload 1 1 ≤ 1 → zeroAt k.payload 2 2 = true →
      (s.chip.panel k.inst).power = none →
      let force := bit (fld k.payload 1 1) 0
      let rest := s.chip.anyTransition k.inst = false ∧ s.chip.anyPending k.inst = false
      ((s.chip.panel k.inst).rails = .up → rest ∨ force = true → ∃ c, Starts (.panelPower k.ctx k.tag) k s c ∧
        (c.panel k.inst).down = some force ∧ (c.panel k.inst).power = some (k.ctx, k.tag, false) ∧
        (∀ j, j ≠ k.inst → c.panel j = s.chip.panel j)) ∧
      ((s.chip.panel k.inst).rails = .off →
        Leads (.panelPower k.ctx k.tag) s ((s.chip.accept k).finishTag k.ctx k.tag stOK noOfs [])) ∧
      ((s.chip.panel k.inst).rails ≠ .off → ¬rest → force = false →
        Leads (.panelPower k.ctx k.tag) s (s.chip.finish k stBusy noOfs []))) ∧
    (let all := bit (fld k.payload 9 1) 1
      let x := if all then 0 else fld k.payload 0 2
      let y := if all then 0 else fld k.payload 2 2
      let w := if all then s.chip.hActive k.inst else fld k.payload 4 2
      let h := if all then s.chip.vActive k.inst else fld k.payload 6 2
      (Ready 0xA 1 k s → k.payload.length = 12 → s.chip.regionBad k.inst false k.payload = none →
        (s.chip.regionBusy k.inst = false → s.chip.thermal.shutdown = false → s.chip.admits k.inst x y w h = true →
          ∃ c u, Leads (.regionUpdate k.ctx k.tag) s (Chip.setCmd { k with phase := .running } c) ∧
            (c.panel k.inst).updates = (s.chip.panel k.inst).updates ++ [u] ∧ u.source = .host k.ctx k.tag ∧ u.x = x ∧ u.y = y ∧
            u.w = w ∧ u.h = h ∧ u.mode = fld k.payload 8 1 ∧ u.clear = none ∧ u.taken = false ∧
            (∀ j, j ≠ k.inst → c.panel j = s.chip.panel j) ∧ c.ring = s.chip.ring) ∧
        (s.chip.regionBusy k.inst = true → Leads (.regionUpdate k.ctx k.tag) s (s.chip.finish k stBusy noOfs []))) ∧
      (Ready 0xA 2 k s → k.payload.length = 12 → s.chip.regionBad k.inst true k.payload = none →
        (s.chip.regionBusy k.inst = false → s.chip.thermal.shutdown = false → s.chip.admits k.inst x y w h = true →
          ∃ c u, Leads (.regionClear k.ctx k.tag) s (Chip.setCmd { k with phase := .running } c) ∧
            (c.panel k.inst).updates = (s.chip.panel k.inst).updates ++ [u] ∧ u.source = .host k.ctx k.tag ∧ u.x = x ∧ u.y = y ∧
            u.w = w ∧ u.h = h ∧ u.clear = some (fld k.payload 8 1) ∧ u.taken = false ∧
            (∀ j, j ≠ k.inst → c.panel j = s.chip.panel j) ∧ c.ring = s.chip.ring) ∧
        (s.chip.regionBusy k.inst = true → Leads (.regionClear k.ctx k.tag) s (s.chip.finish k stBusy noOfs [])))) ∧
    (Ready 0xA 3 k s → k.payload = [] → Answers (.panelStatus k.ctx k.tag) k s
      (leBytes 4 (s.chip.panelStat k.inst) ++ leBytes 4 (unsigned 32 (s.chip.panelTemp k.inst).1)) s.chip) ∧
    (Ready 0xA 4 k s → k.payload.length = 4 → 1 ≤ fld k.payload 1 1 → fld k.payload 1 1 ≤ 127 →
      waveMode (s.chip.wave k.inst) (fld k.payload 2 1) = true → zeroAt k.payload 3 1 = true →
      ∃ c, Answers (.ledgerSweep k.ctx k.tag) k s [] c ∧ c.attr tyPanel k.inst 10 =
        leBytes 4 (fld k.payload 0 1 + 256 * fld k.payload 1 1 + 65536 * fld k.payload 2 1) ∧ c.panels = s.chip.panels) ∧
    (Ready 0xA 5 k s → k.payload.length = 4 → (fld k.payload 0 1 ≤ 63 ∨ fld k.payload 0 1 = 0xFF) → zeroAt k.payload 1 3 = true →
      ((s.chip.panel k.inst).fault = false → Answers (.fieldRefresh k.ctx k.tag) k s []
        (((List.range 64).filter (fun i => s.chip.fieldOn i && fieldPanel (s.chip.fieldRec i) == k.inst
          && (fld k.payload 0 1 == 0xFF || i == fld k.payload 0 1))).foldl (fun c i => c.renderOrHold i) s.chip)) ∧
      ((s.chip.panel k.inst).fault = true → Leads (.fieldRefresh k.ctx k.tag) s (s.chip.finish k stBusy noOfs []))))

/-! ### Families 0x0B to 0x0E: power, firmware, events, diagnostics -/

/-- The power and thermal commands. POWER_STATUS answers from the supervisors (PMOD, which no rule computes, is free: log entry
3); THERMAL_STATUS answers the governor; RESET sets a delay, and RESET_DELAY_EXPIRY resets the main side when it is over, with
cause 6; RESET_CAUSE_READ answers RESET_CAUSE and clears its flags and bite number; BUDGET_SET sets the budget and answers the
step it allows at least, and answers NOT_OWNER to the side that does not own the governor. -/
def Obligations.PowerTakesCommands : Prop :=
  ∀ (k : Cmd) (s : State),
    (Ready 0xB 0 k s → k.payload = [] → ∃ data, Answers (.powerStatus k.ctx k.tag) k s data s.chip.nextFree ∧
      data.take 6 = leBytes 2 s.chip.power.vsysR ++ leBytes 2 s.chip.power.vact ++ leBytes 2 s.chip.power.vbat ∧ data.length = 24) ∧
    (Ready 0xB 1 k s → k.payload = [] → Answers (.thermalStatus k.ctx k.tag) k s (leBytes 4 s.chip.thmStat
      ++ leBytes 4 (unsigned 32 s.chip.thermal.est) ++ s.chip.thmSites ++ leBytes 4 (unsigned 32 (q16 s.chip.thermal.base))) s.chip) ∧
    (Ready 0xB 2 k s → k.payload.length = 4 → 10 ≤ fld k.payload 0 2 → fld k.payload 0 2 ≤ 5000 → zeroAt k.payload 2 2 = true →
      Answers (.reset k.ctx k.tag) k s [] (s.chip.setPower (fun w => { w with
        resetAt := w.resetAt ++ [s.chip.clk.now + ms (fld k.payload 0 2)] }))) ∧
    (∀ d, s.chip.power.resetAt.min? = some d → s.chip.power.aoOn = true → s.chip.power.main.up = true → ∃ c : Chip,
      Leads .resetDelayExpiry s c ∧ c.power.main = .reset ∧ bit c.power.resetCause.toNat 6 = true ∧
        bits c.power.resetCause.toNat 8 4 = 6 ∧ c.power.resetAt = s.chip.power.resetAt.erase d ∧ d ≤ c.clk.now ∧ c.cmds = [] ∧
        c.ring = [] ∧ c.slots = s.chip.slots ∧ c.flash = s.chip.flash) ∧
    (Ready 0xB 3 k s → k.payload = [] → ∃ c : Chip, Answers (.resetCauseRead k.ctx k.tag) k s (leBytes 4 s.chip.power.resetCause.toNat) c ∧
      bits c.power.resetCause.toNat 0 8 = 0 ∧ bits c.power.resetCause.toNat 20 8 = 0 ∧
      bits c.power.resetCause.toNat 8 12 = bits s.chip.power.resetCause.toNat 8 12 ∧
      c.power.main = s.chip.power.main ∧ SamePlant s.chip c) ∧
    (Ready 0xB 4 k s → s.chip.ownerIsMgt (handle tyThermal 0) = isMgtCtx k.ctx → k.payload.length = 4 → 2850 ≤ fld k.payload 0 2 →
      fld k.payload 0 2 ≤ 4000 → zeroAt k.payload 2 2 = true →
      Answers (.budgetSet k.ctx k.tag) k s [BitVec.ofNat 8 (floorStep (fld k.payload 0 2)), 0, 0, 0]
        (s.chip.setBudget (fld k.payload 0 2))) ∧
    (Ready 0xB 4 k s → s.chip.ownerIsMgt (handle tyThermal 0) ≠ isMgtCtx k.ctx →
      Leads (.budgetSet k.ctx k.tag) s (s.chip.finish k stNotOwner 8 []))

/-- The firmware commands. FW_INFO answers the banks, with UPDATE_INCOMPLETE where one is incomplete; FW_WRITE collects an image
for a bank that is not running, from offset 0 or after the bytes it has; FW_COMMIT erases the bank and marks it INCOMPLETE, ends
with BAD_PARAM where no sound image waits for that bank, and answers BUSY for the running bank or during a commit;
FW_COMMIT_DONE writes the bank and points to it, or leaves it INCOMPLETE when verification failed twice; FW_SELECT 1 points to a
bank that holds a sound image, and answers UPDATE_INCOMPLETE or BAD_PARAM for one that does not; FW_SELECT 0 ends the trial of
the bank that runs; IDENTITY_READ answers the fuses. The image commands. YELIST_WRITE writes its bytes to the image slot that is
not in use, from offset 0 or after the bytes it has written, and erases the sectors that they begin; it answers BUSY during a
load and to a context that does not write it. YELIST_LOAD starts the load that the image row ends, keeps the running image
meanwhile, and answers BUSY during a load. -/
def Obligations.FirmwareAndImagesAreWritten : Prop :=
  (∀ (k : Cmd) (s : State),
    let f := s.chip.firmware
    let bank := k.inst == 1
    (Ready 0xC 0 k s → k.payload = [] →
      let data := f.bankRecord false ++ f.bankRecord true ++ [BitVec.ofNat 8 f.reason, 0, 0, 0]
      (f.bankState false ≠ 2 → f.bankState true ≠ 2 → Answers (.fwInfo k.ctx k.tag) k s data s.chip) ∧
      (f.bankState false = 2 ∨ f.bankState true = 2 →
        Leads (.fwInfo k.ctx k.tag) s (s.chip.finish k stUpdateIncomplete noOfs data))) ∧
    (Ready 0xC 1 k s → 5 ≤ k.payload.length → fld k.payload 0 4 + k.payload.length ≤ 4194308 →
      (fld k.payload 0 4 = 0 ∧ (f.bufferOwner = none ∨ ∃ b, f.bufferOwner = some (k.ctx, b)) ∨
        f.bufferOwner = some (k.ctx, bank) ∧ fld k.payload 0 4 = f.buffer.length) →
      (f.running ≠ some bank → f.commit = none →
        ∃ c : Chip, Answers (.fwWrite k.ctx k.tag) k s [] c ∧
          c.firmware.buffer = f.buffer.take (fld k.payload 0 4) ++ k.payload.drop 4 ∧
          c.firmware.bufferOwner = some (k.ctx, bank) ∧ c.firmware.ptr = f.ptr ∧ SamePlant s.chip c) ∧
      (f.running = some bank ∨ f.commit ≠ none → Leads (.fwWrite k.ctx k.tag) s (s.chip.finish k stBusy noOfs []))) ∧
    (Ready 0xC 2 k s → k.payload.length = 4 → fld k.payload 0 1 ≤ 1 → zeroAt k.payload 1 3 = true →
      (∀ x, f.running ≠ some bank → f.commit = none → f.bufferOwner = some (x, bank) → firmwareImageOk f.buffer = true →
        ∃ c : Chip, Starts (.fwCommit k.ctx k.tag) k s c ∧ c.firmware.ptr.incomplete bank = true ∧
          c.firmware.ptr.bank = f.ptr.bank ∧ c.firmware.body bank = .erased ∧
          c.firmware.commit = some (k.ctx, k.tag, bank, bit (fld k.payload 0 1) 0 && f.running.isSome) ∧
          (∀ a, bankBase bank ≤ a → a < bankBase bank + 0x400000 → Tbl.get dByteFF c.flash a = 0xFF) ∧
          (∀ a, a < bankBase bank ∨ bankBase bank + 0x400000 ≤ a → Tbl.get dByteFF c.flash a = Tbl.get dByteFF s.chip.flash a)) ∧
      (f.running ≠ some bank → f.commit = none →
        (∀ x, f.bufferOwner = some (x, bank) → firmwareImageOk f.buffer = false) →
        Leads (.fwCommit k.ctx k.tag) s ((s.chip.accept k).finishTag k.ctx k.tag stBadParam noOfs [])) ∧
      (f.running = some bank ∨ f.commit ≠ none → Leads (.fwCommit k.ctx k.tag) s (s.chip.finish k stBusy noOfs []))) ∧
    (∀ x t b tr n, f.commit = some (x, t, b, tr) →
      (n < 2 → ∃ c : Chip, Leads (.fwCommitDone n) s (c.finishTag x t stOK noOfs []) ∧ c.firmware.ptr.bank = b ∧
        c.firmware.ptr.incomplete b = false ∧ c.firmware.ptr.trial = tr ∧ (tr = true → c.firmware.ptr.tries = 3) ∧
        c.firmware.commit = none ∧ c.firmware.running = f.running ∧
        (∀ i, i < (f.buffer.take (fld f.buffer 8 4)).length → Tbl.get dByteFF c.flash (bankBase b + i) = f.buffer.getD i 0) ∧
        (∀ a, a < bankBase b ∨ bankBase b + (f.buffer.take (fld f.buffer 8 4)).length ≤ a →
          Tbl.get dByteFF c.flash a = Tbl.get dByteFF s.chip.flash a)) ∧
      (2 ≤ n → ∃ c : Chip, Leads (.fwCommitDone n) s (c.finishTag x t stStoreWriteFail noOfs []) ∧
        c.firmware.ptr = f.ptr ∧ c.firmware.commit = none ∧ c.flash = s.chip.flash)) ∧
    (Ready 0xC 3 k s → k.payload.length = 4 → zeroAt k.payload 1 3 = true →
      (fld k.payload 0 1 = 1 → f.ptr.incomplete bank = false → (f.body bank).sound = true →
        ∃ c : Chip, Answers (.fwSelect k.ctx k.tag) k s [] c ∧ c.firmware.ptr.bank = bank ∧ c.firmware.ptr.trial = false ∧
          c.firmware.running = f.running ∧ c.flash = s.chip.flash) ∧
      (fld k.payload 0 1 = 1 → f.ptr.incomplete bank = true →
        Leads (.fwSelect k.ctx k.tag) s (s.chip.finish k stUpdateIncomplete noOfs [])) ∧
      (fld k.payload 0 1 = 1 → f.ptr.incomplete bank = false → (f.body bank).sound = false →
        Leads (.fwSelect k.ctx k.tag) s (s.chip.finish k stBadParam 16 [])) ∧
      (fld k.payload 0 1 = 0 → f.ptr.bank = bank → f.running = some bank →
        ∃ c : Chip, Answers (.fwSelect k.ctx k.tag) k s [] c ∧ c.firmware.ptr.bank = bank ∧ c.firmware.ptr.trial = false ∧
          c.firmware.running = f.running ∧ c.flash = s.chip.flash) ∧
      (fld k.payload 0 1 = 0 → ¬(f.ptr.bank = bank ∧ f.running = some bank) →
        Leads (.fwSelect k.ctx k.tag) s (s.chip.finish k stBadParam 16 []))) ∧
    (Ready 0xC 6 k s → k.payload = [] → Answers (.identityRead k.ctx k.tag) k s (leBytes 8 s.chip.fuses.uid
      ++ [BitVec.ofNat 8 s.chip.fuses.variant, BitVec.ofNat 8 silicon] ++ leBytes 2 Config.mfgDay.toNat
      ++ leBytes 8 Config.lot.toNat ++ [BitVec.ofNat 8 nKey, 0, 0, 0] ++ keyDigests.flatten) s.chip)) ∧
  (∀ (k : Cmd) (s : State),
    (Ready 0xC 4 k s → 5 ≤ k.payload.length →
      (s.chip.imageBusy = false → fld k.payload 0 4 + k.payload.length ≤ slotSize + 4 →
        (s.chip.image.writer = none ∧ fld k.payload 0 4 = 0 ∨ s.chip.image.writer = some (k.ctx, fld k.payload 0 4)) →
        ∃ c : Chip, Answers (.yelistWrite k.ctx k.tag) k s [] c ∧
          c.image.writer = some (k.ctx, fld k.payload 0 4 + (k.payload.length - 4)) ∧ c.image.slot = s.chip.image.slot ∧
          (∀ i, i < k.payload.length - 4 →
            Tbl.get dByteFF c.flash (slotBase (!s.chip.image.slot) + fld k.payload 0 4 + i) = k.payload.getD (4 + i) 0) ∧
          (∀ a, a < slotBase (!s.chip.image.slot) ∨ slotBase (!s.chip.image.slot) + slotSize ≤ a →
            Tbl.get dByteFF c.flash a = Tbl.get dByteFF s.chip.flash a)) ∧
      (s.chip.imageBusy = true ∨ (∃ x n, s.chip.image.writer = some (x, n) ∧ x ≠ k.ctx) →
        Leads (.yelistWrite k.ctx k.tag) s (s.chip.finish k stBusy noOfs []))) ∧
    (Ready 0xC 5 k s → k.payload.length = 4 → fld k.payload 0 1 ≤ 7 → (bit (fld k.payload 0 1) 1 = true → isMgtCtx k.ctx = true) →
      zeroAt k.payload 1 3 = true →
      (s.chip.imageBusy = false → ∃ c : Chip, Starts (.yelistLoad k.ctx k.tag) k s c ∧
        c.image.loading = some (k.ctx, k.tag) ∧ c.image.writer = none ∧ c.image.slot = s.chip.image.slot ∧ SamePlant s.chip c) ∧
      (s.chip.imageBusy = true → Leads (.yelistLoad k.ctx k.tag) s (s.chip.finish k stBusy noOfs []))))

/-- The event and queue commands. EVENT_ROUTE writes an event's route (the fixed parts kept), or answers NO_RESOURCE where its
queue cannot take it; EVENT_MASK writes its mask bit; the events but E118 and E119, which a lost record may fire, stay as they
are. EVENT_READ answers the event and, where asked, acknowledges it. QUEUE_CONFIG writes a stopped queue's registers and empties
it, and answers BUSY for an enabled queue that is not empty or one of an open session; QUEUE_STATUS answers the queue and
restarts its high-water mark; COALESCE_SET writes the coalescing registers (its payload layout: log entry 20), and notifies at
once where the records that wait reach the new count. -/
def Obligations.EventsAndQueuesTakeCommands : Prop :=
  ∀ (k : Cmd) (s : State),
    (Ready 0xD 0 k s → k.payload.length = 4 → bits (fld k.payload 0 4) 21 11 = 0 → s.chip.routeRefused k.inst (fld k.payload 0 4) = false →
      ∃ c : Chip, Answers (.eventRoute k.ctx k.tag) k s [] c ∧ c.attr tyEvent k.inst 1 = leBytes 4 (fixRoute k.inst (fld k.payload 0 4)) ∧
        (k.inst ≠ 118 → k.inst ≠ 119 → ((c.event k.inst).pending = (s.chip.event k.inst).pending ∧ (c.event k.inst).count = (s.chip.event k.inst).count)) ∧
        (∀ j, j ≠ k.inst → j ≠ 118 → j ≠ 119 → c.event j = s.chip.event j) ∧ c.slots = s.chip.slots) ∧
    (Ready 0xD 0 k s → k.payload.length = 4 → bits (fld k.payload 0 4) 21 11 = 0 → s.chip.routeRefused k.inst (fld k.payload 0 4) = true →
      Leads (.eventRoute k.ctx k.tag) s (s.chip.finish k stNoResource 16 [])) ∧
    (Ready 0xD 1 k s → k.payload.length = 4 → fld k.payload 0 1 ≤ 1 → zeroAt k.payload 1 3 = true →
      ∃ c : Chip, Answers (.eventMask k.ctx k.tag) k s [] c ∧
        c.attr tyEvent k.inst 1 = leBytes 4 (fixRoute k.inst (setBits (s.chip.route k.inst) 2 1 (fld k.payload 0 1))) ∧
        (k.inst ≠ 118 → k.inst ≠ 119 → (c.event k.inst).pending = (s.chip.event k.inst).pending) ∧
        (∀ j, j ≠ k.inst → j ≠ 118 → j ≠ 119 → c.event j = s.chip.event j) ∧ c.slots = s.chip.slots) ∧
    (Ready 0xD 2 k s → k.payload.length = 4 → fld k.payload 0 1 ≤ 1 → zeroAt k.payload 1 3 = true →
      Answers (.eventRead k.ctx k.tag) k s ([BitVec.ofNat 8 (b2n (s.chip.event k.inst).pending), 0]
        ++ leBytes 2 (s.chip.event k.inst).count.toNat ++ leBytes 4 (s.chip.event k.inst).cause.toNat
        ++ leBytes 4 (s.chip.event k.inst).stamp.toNat)
        (if fld k.payload 0 1 = 1 then s.chip.setEvent k.inst { s.chip.event k.inst with pending := false, count := 0 }
          else s.chip)) ∧
    (Ready 0xD 3 k s → k.payload.length = 12 → s.chip.queueConfigBad k.inst k.payload = none →
      ((s.chip.queue k.inst).enable = true → (s.chip.queue k.inst).fill = 0) →
      (k.inst < 16 → (s.chip.session (k.inst % 8)).opened = false) →
      ∃ c : Chip, Answers (.queueConfig k.ctx k.tag) k s [] c ∧ (c.queue k.inst).base = fld k.payload 0 4 ∧
        (c.queue k.inst).depth = fld k.payload 4 2 ∧ (c.queue k.inst).eshift = fld k.payload 6 1 ∧
        (c.queue k.inst).enable = decide (fld k.payload 7 1 = 1) ∧ (c.queue k.inst).coalCount = fld k.payload 8 1 ∧
        (c.queue k.inst).coalTime = fld k.payload 10 2 ∧ (c.queue k.inst).head = 0 ∧ (c.queue k.inst).tail = 0 ∧
        (∀ j, j ≠ k.inst → c.queue j = s.chip.queue j) ∧ SamePlant s.chip c) ∧
    (Ready 0xD 3 k s → k.payload.length = 12 → s.chip.queueConfigBad k.inst k.payload = none →
      (s.chip.queue k.inst).enable = true ∧ (s.chip.queue k.inst).fill ≠ 0 ∨
        k.inst < 16 ∧ (s.chip.session (k.inst % 8)).opened = true →
      Leads (.queueConfig k.ctx k.tag) s (s.chip.finish k stBusy noOfs [])) ∧
    (Ready 0xD 4 k s → k.payload = [] → Answers (.queueStatus k.ctx k.tag) k s (leBytes 2 (s.chip.queue k.inst).head
      ++ leBytes 2 (s.chip.queue k.inst).tail ++ leBytes 2 (s.chip.queue k.inst).fill ++ leBytes 2 (s.chip.queue k.inst).high
      ++ leBytes 4 (s.chip.queue k.inst).drops.toNat ++ leBytes 2 (s.chip.queue k.inst).dberr.toNat ++ [0, 0])
      (s.chip.setQueue k.inst { s.chip.queue k.inst with high := (s.chip.queue k.inst).fill })) ∧
    (Ready 0xD 5 k s → k.payload.length = 4 → fld k.payload 0 1 ≠ 0 → zeroAt k.payload 1 1 = true →
      let c1 := s.chip.setQueue k.inst { s.chip.queue k.inst with coalCount := fld k.payload 0 1, coalTime := fld k.payload 2 2 }
      let waits := (s.chip.queue k.inst).unNotified
      ∃ c : Chip, Answers (.coalesceSet k.ctx k.tag) k s [] c ∧ SamePlant s.chip c ∧
        (waits = 0 ∨ waits < fld k.payload 0 1 → (c.queue k.inst).coalCount = fld k.payload 0 1 ∧
          (c.queue k.inst).coalTime = fld k.payload 2 2 ∧ (c.queue k.inst).head = (s.chip.queue k.inst).head ∧
          (c.queue k.inst).unNotified = waits ∧ (∀ j, j ≠ k.inst → c.queue j = s.chip.queue j) ∧ c.ring = s.chip.ring) ∧
        (waits ≠ 0 → fld k.payload 0 1 ≤ waits → c = c1.notify k.inst))

/-- The diagnostic commands. LOG_READ answers the entries from a sequence number on; LOG_CLEAR clears the log, which
LOG_CLEAR_DONE ends, and answers BUSY during a clear; COUNTERS_READ answers the counters; SELFTEST runs the tests of its mask,
which SELFTEST_DONE answers, and answers BUSY during a test; SHEEPDOG_STATUS answers every dog. A calibration capture ends 272
us after its start. CAL_CAPTURE_DONE, with 256 codes of an active port, answers BUSY where its time is over by then and
BAD_PARAM where a code was clipped or the codes lie more than 32 apart; it holds the averaged zero of CAL_ZERO and answers it,
or answers NO_RESOURCE where 8 zeros are held; the average of CAL_SPAN with the zero that is held makes the record that the
store write takes, and BAD_PARAM where there is none. CAL_CAPTURE_TIMEOUT ends a capture with BUSY; ZERO_CAPTURE_EXPIRY drops a
zero whose time is over; CAL_STORE_WRITE_DONE puts the new set in force, or fails after two mismatches with the set in force
unchanged and the store without a valid set. An image load ends. YELIST_LOAD_DONE on a flash error answers BAD_PARAM with reason
9; where verification refuses the image it answers the status and the reason of the refusal; where only a check was asked, or
not, a verified image is answered with its serial number, and where a load was asked it is put in force: its slot and serial
number become the running ones and the module is RUNNING. -/
def Obligations.DiagnosticsAndLongEnds : Prop :=
  (∀ (k : Cmd) (s : State),
    (Ready 0xE 0 k s → k.payload.length = 8 → 1 ≤ fld k.payload 4 1 → fld k.payload 4 1 ≤ 32 → zeroAt k.payload 5 3 = true →
      ∃ data, Answers (.logRead k.ctx k.tag) k s data s.chip ∧
        data.drop 12 = ((s.chip.log.ring.filter (fun e => decide ((if fld k.payload 0 4 = 0xFFFFFFFF then 0 else fld k.payload 0 4)
          ≤ e.seq.toNat))).take (fld k.payload 4 1)).flatMap logBytes ∧
        (data.drop 4).take 8 = leBytes 4 s.chip.log.ring.length ++ leBytes 4 s.chip.log.next.toNat) ∧
    (Ready 0xE 1 k s → k.payload = [] → s.chip.log.clearing = none → ∃ c : Chip, Starts (.logClear k.ctx k.tag) k s c ∧
      c.log.clearing = some (k.ctx, k.tag) ∧ c.log.ring = s.chip.log.ring ∧ SamePlant s.chip c) ∧
    (Ready 0xE 1 k s → k.payload = [] → s.chip.log.clearing ≠ none →
      Leads (.logClear k.ctx k.tag) s (s.chip.finish k stBusy noOfs [])) ∧
    (∀ x t, s.chip.log.clearing = some (x, t) → ∃ c : Chip, Leads .logClearDone s (c.finishTag x t stOK noOfs []) ∧
      c.log.ring = [] ∧ c.log.copy = [] ∧ c.log.clearing = none ∧ c.log.next = s.chip.log.next ∧ SamePlant s.chip c) ∧
    (Ready 0xE 2 k s → k.payload = [] →
      Answers (.countersRead k.ctx k.tag) k s (s.chip.counterList.flatMap (leBytes 4)) s.chip) ∧
    (Ready 0xE 3 k s → k.payload.length = 4 → fld k.payload 0 4 < 32 → s.chip.selftest = none →
      Starts (.selftest k.ctx k.tag) k s { s.chip with selftest := some (k.ctx, k.tag, fld k.payload 0 4) }) ∧
    (Ready 0xE 3 k s → k.payload.length = 4 → fld k.payload 0 4 < 32 → s.chip.selftest ≠ none →
      Leads (.selftest k.ctx k.tag) s (s.chip.finish k stBusy noOfs [])) ∧
    (∀ x t m pass fail stores, s.chip.selftest = some (x, t, m) → ∃ data,
      Leads (.selftestDone pass fail stores) s (Chip.finishTag x t stOK noOfs data { s.chip with selftest := none }) ∧
      data.length = 12 ∧ (∀ i, i < 5 → bit (fld data 0 4) i = (bit m i && bit pass i)) ∧
      (∀ i, i < 5 → bit (fld data 4 4) i = (bit m i && bit fail i)) ∧
      (∀ i, i < 6 → bit (fld data 8 1) i = (bit m 2 && bit stores i && s.chip.storesOk.getD i false))) ∧
    (Ready 0xE 4 k s → k.payload = [] → ∃ data, Answers (.sheepdogStatus k.ctx k.tag) k s data s.chip ∧ data.take 4 = [22, 0, 0, 0] ∧
      data.length = 92)) ∧
  (∀ (s : State),
    (∀ ch codes clipped q, s.chip.cal.captures.find? (fun q => q.chan == ch) = some q → codes.length = 256 →
      s.chip.portActive (ch / 2) = true →
      let w := s.chip.waitUntil (q.started + us 272)
      let cs := codes.map (fun x => min x 4095)
      let poor := clipped = true ∨ 32 < cs.foldl max 0 - cs.foldl min 4095
      let code := averageOf 16 cs.sum 256
      let ends := fun (st : Nat) (data : List Byte) => ∃ c : Chip,
        Leads (.calCaptureDone ch codes clipped) s (c.finishTag q.ctx q.tag st noOfs data) ∧ q.started + us 272 ≤ c.clk.now ∧
        c.cal.captures = s.chip.cal.captures.erase q ∧ c.cal.working = s.chip.cal.working ∧ SamePlant s.chip c ∧
        (q.span = false → st = s.chip.calStatus → data ≠ [] → ∃ h ∈ c.cal.held, h.chan = q.chan ∧ h.range = q.range ∧ h.code = code ∧
          h.ends = w.clk.now + sec 600)
      (q.ends < w.clk.now → ends stBusy []) ∧
      (w.clk.now ≤ q.ends → poor → ends stBadParam []) ∧
      (w.clk.now ≤ q.ends → ¬poor → q.span = false →
        (w.heldFull q.chan q.range = true → ends stNoResource []) ∧
        (w.heldFull q.chan q.range = false →
          ends s.chip.calStatus (leBytes 4 code ++ [BitVec.ofNat 8 q.range, 0, 0, 0]))) ∧
      (w.clk.now ≤ q.ends → ¬poor → q.span = true →
        let rec' := (w.heldZero q.chan q.range).bind (fun z =>
          spanRecord z.ideal z.idealDen (idealCode (w.channelScale q.chan) q.value).1 (idealCode (w.channelScale q.chan) q.value).2 z.code code)
        (rec' = none → ends stBadParam []) ∧
        (∀ off gain, rec' = some (off, gain) →
          (s.chip.cal.write ≠ none → ends stBusy []) ∧
          (s.chip.cal.write = none → ∃ c : Chip, Leads (.calCaptureDone ch codes clipped) s c ∧
            c.cal.captures = s.chip.cal.captures.erase q ∧ c.cal.working = s.chip.cal.working ∧ SamePlant s.chip c ∧
            c.cal.write = some ⟨q.ctx, q.tag, 4, q.chan, w.spanSet q.chan q.range (unsigned 16 off) gain,
              leBytes 2 (unsigned 16 off) ++ [0, 0] ++ leBytes 4 gain⟩)))) ∧
    (∀ ch q, s.chip.cal.captures.find? (fun q => q.chan == ch) = some q → ∃ c : Chip,
      Leads (.calCaptureTimeout ch) s (c.finishTag q.ctx q.tag stBusy noOfs []) ∧ q.ends ≤ c.clk.now ∧
      c.cal.captures = s.chip.cal.captures.erase q ∧ c.cal.working = s.chip.cal.working ∧ SamePlant s.chip c) ∧
    (∀ ch r h, s.chip.cal.held.find? (fun h => h.chan == ch && h.range == r) = some h → ∃ c : Chip,
      Leads (.zeroCaptureExpiry ch r) s c ∧ h.ends ≤ c.clk.now ∧
      c.cal.held = s.chip.cal.held.erase h ∧ c.cal.working = s.chip.cal.working ∧ SamePlant s.chip c) ∧
    (∀ w n, s.chip.cal.write = some w →
      (n < 2 → ∃ c : Chip, Leads (.calStoreWriteDone n) s (c.finishTag w.ctx w.tag stOK noOfs w.reply) ∧ c.cal.store = w.set ∧
        c.cal.working = w.set ∧ c.cal.valid = true ∧ c.cal.marker.isSome = true ∧ c.cal.write = none ∧ SamePlant s.chip c) ∧
      (2 ≤ n → ∃ c : Chip, Leads (.calStoreWriteDone n) s (c.finishTag w.ctx w.tag stStoreWriteFail noOfs []) ∧
        c.cal.working = s.chip.cal.working ∧ c.cal.store = s.chip.cal.store ∧ c.cal.valid = false ∧
        c.cal.marker = s.chip.cal.marker ∧ c.cal.write = none ∧ SamePlant s.chip c))) ∧
  (∀ (k : Cmd) (s : State) idle bad, s.chip.image.loading = some (k.ctx, k.tag) → s.chip.findCmd k.ctx k.tag = some k →
    let slot := s.chip.loadSlot (fld k.payload 0 1)
    let b := s.chip.slotImage slot
    let c1 : Chip := { s.chip with image := { s.chip.image with loading := none, badFlash := [] } }
    let flash := bad || s.chip.flashBad (slotBase slot) (slotBase slot + slotSize)
    let check := c1.verifyImage b (bit (fld k.payload 0 1) 1) idle
    (flash = true → Leads (.yelistLoadDone idle bad) s
      (c1.finishTag k.ctx k.tag stBadParam noOfs (loadReply 9 0xFF 0 (fld b 12 4) 0))) ∧
    (∀ e, flash = false → check = .inl e → ∃ c : Chip, Leads (.yelistLoadDone idle bad) s
      (c.finishTag k.ctx k.tag e.status noOfs (loadReply e.reason e.sect e.firstBad (fld b 12 4) 0)) ∧
      c.image = c1.image ∧ SamePlant s.chip c) ∧
    (∀ p, flash = false → check = .inr p →
      (bit (fld k.payload 0 1) 0 = true → Leads (.yelistLoadDone idle bad) s
        (c1.finishTag k.ctx k.tag stOK noOfs (loadReply 0 0xFF 0 p.serial 0))) ∧
      (bit (fld k.payload 0 1) 0 = false → ∃ c : Chip,
        Leads (.yelistLoadDone idle bad) s (c.finishTag k.ctx k.tag stOK noOfs (loadReply 0 0xFF 0 p.serial p.applied)) ∧
        c.image.slot = slot ∧ c.image.active = true ∧ c.image.serial = p.serial ∧ c.power.main = .running ∧
        c.flash = s.chip.flash)))

/-! ### The ports of the module -/

/-- COMMAND_FETCH takes the record at the head of an enabled submission queue, or the oldest packet of a remote context, and
frees its entries: a packet that passes the checks enters the outstanding commands with its reply reserved, one that fails a
check other than the CRC is answered with its status, one of a bound context is carried to its node; a context that may not
fetch, or whose queue is empty, keeps its state. DEADLINE_EXPIRY ends a command that has not started with TIMEOUT. A valid
DOORBELL moves the tail of a queue the host produces and the head of one it consumes, a bad one counts DBERR and fires E118.
DELIVERY_RECORD_WRITE writes the record that an event owes its queue; COAL_TIME_EXPIRY notifies when the coalescing time has
passed on the transit reference. HIF_BIND binds a closed host context, HIF_ERRCNT_RESTART restarts the halves of the error
counter that it writes with 0 (a half written otherwise sets W_ERR), HIF_WRITE_APPLY applies the oldest held write, HIF_EVT_ACK
acknowledges an event. -/
def Obligations.CommandsEnterAndRecordsLeave : Prop :=
  ∀ (s : State),
    (∀ ctx, s.chip.power.main.up = true → isRemoteCtx ctx = false → (ctx < 8 ∨ isMgtCtx ctx = true) →
      let q := submissionQueue ctx
      let s0 := s.chip.queue q
      let rlen := leNat (ringRead s0 s0.head 4 s.chip.ring) % 8192
      let bs := (ringRead s0 s0.head (4 + max 16 rlen) s.chip.ring).drop 4
      let rung := s.chip.rungAt ctx ((s0.head + entriesFor s0.eshift rlen) % (2 * s0.depth))
      let k := s.chip.cmdOf ctx (bs.take 16) (bs.drop 16) rung
      let n := min s0.fill (entriesFor s0.eshift rlen)
      let r := min (s.chip.reserveFor k) (s.chip.queue (completionQueue ctx)).depth
      (s0.enable = false ∨ s0.fill = 0 ∨ s.chip.mayFetch ctx = false → Leads (.commandFetch ctx) s s.chip) ∧
      (s0.enable = true → s0.fill ≠ 0 → s.chip.mayFetch ctx = true → s.chip.boundNode ctx = none →
        (s.chip.acceptance ctx rlen (bs.take 16) rung = none → s.chip.replyEntries k ≤ (s.chip.queue (completionQueue ctx)).depth →
          s.chip.canReserve ctx r = true → ∃ c : Chip, Leads (.commandFetch ctx) s c ∧
          c.cmds = s.chip.cmds ++ [{ k with reserved := r }] ∧ c.queue q = s0.pop n ∧
          (∀ j, j ≠ q → c.queue j = s.chip.queue j) ∧ c.ring = s.chip.ring ∧ SamePlant s.chip c) ∧
        (∀ st o, s.chip.acceptance ctx rlen (bs.take 16) rung = some (st, o) → st ≠ stBadCrc →
          s.chip.canReserve ctx (entriesFor (s.chip.queue (completionQueue ctx)).eshift 24) = true →
          let c1 := s.chip.sendPacket { k with demoted := false } (replyPacket { k with demoted := false } st o [])
          Leads (.commandFetch ctx) s (c1.setQueue q ((c1.queue q).pop n)))) ∧
      (∀ node c1, s0.enable = true → s0.fill ≠ 0 → s.chip.mayFetch ctx = true → s.chip.boundNode ctx = some node →
        s.chip.carry k node bs = some c1 → Leads (.commandFetch ctx) s (c1.setQueue q ((c1.queue q).pop n)))) ∧
    (∀ ctx p rest, s.chip.power.main.up = true → isRemoteCtx ctx = true → Tbl.get dNil s.chip.remoteIn ctx = p :: rest →
      s.chip.mayFetch ctx = true → s.chip.acceptance ctx p.length (p.take 16) none = none → ∃ c : Chip,
      Leads (.commandFetch ctx) s c ∧ c.cmds = s.chip.cmds ++ [s.chip.cmdOf ctx (p.take 16) (p.drop 16) none] ∧
      Tbl.get dNil c.remoteIn ctx = rest ∧ c.queues = s.chip.queues ∧ c.ring = s.chip.ring ∧ SamePlant s.chip c) ∧
    (∀ ctx tag k d, s.chip.findCmd ctx tag = some k → k.phase = .fetched → k.expiry = some d →
      ∃ c : Chip, Leads (.deadlineExpiry ctx tag) s (c.finish k stTimeout noOfs []) ∧ d ≤ c.clk.now ∧ c.cmds = s.chip.cmds ∧
        c.queues = s.chip.queues ∧ SamePlant s.chip c) ∧
    (∀ q i, s.chip.power.main.up = true → q < 64 → s.chip.doorbellOk q i = true →
      (hostProduces q = true → ∃ c : Chip, Leads (.doorbell q i) s c ∧ (c.queue q).tail = i ∧
        (c.queue q).head = (s.chip.queue q).head ∧ (∀ j, j ≠ q → c.queue j = s.chip.queue j) ∧ c.ring = s.chip.ring ∧
        c.events = s.chip.events ∧ SamePlant s.chip c) ∧
      (hostProduces q = false → ∃ c : Chip, Leads (.doorbell q i) s c ∧ (c.queue q).head = i ∧
        (c.queue q).tail = (s.chip.queue q).tail ∧ (∀ j, j ≠ q → c.queue j = s.chip.queue j) ∧ c.ring = s.chip.ring ∧
        c.events = s.chip.events ∧ SamePlant s.chip c)) ∧
    (∀ q i, s.chip.power.main.up = true → q < 64 → s.chip.doorbellOk q i = false → ∃ c : Chip,
      Leads (.doorbell q i) s (c.fire 118 (queueFault q 0).toNat) ∧
        (c.queue q).dberr = (if (s.chip.queue q).dberr = 0xFFFF then 0xFFFF else (s.chip.queue q).dberr + 1) ∧
        (c.queue q).head = (s.chip.queue q).head ∧ (c.queue q).tail = (s.chip.queue q).tail ∧
        (∀ j, j ≠ q → c.queue j = s.chip.queue j) ∧ c.ring = s.chip.ring ∧ SamePlant s.chip c) ∧
    (∀ e, s.chip.power.main.up = true → (s.chip.event e).recordDue = true → routeQueue (s.chip.route e) = true →
      (s.chip.queue (routeDq (s.chip.route e))).hasRoom 1 = false → (s.chip.queue (routeDq (s.chip.route e))).fullTold = true →
      Leads (.deliveryRecordWrite e) s s.chip) ∧
    (∀ e, s.chip.power.main.up = true → (s.chip.event e).recordDue = true → routeQueue (s.chip.route e) = true →
      (s.chip.queue (routeDq (s.chip.route e))).hasRoom 1 = true → ∃ c : Chip, Leads (.deliveryRecordWrite e) s c ∧
        (c.event e).recordDue = false ∧ (c.event e).pending = ((s.chip.event e).pending && routeHirq (s.chip.route e)) ∧
        (∀ j, j ≠ e → c.event j = s.chip.event j) ∧ c.ring = (s.chip.putRecord (routeDq (s.chip.route e))
          (deliveryBody e (bits (s.chip.route e) 0 2) (s.chip.event e))).ring ∧ SamePlant s.chip c) ∧
    (∀ q t, (s.chip.queue q).coalSince = some t → (s.chip.queue q).unNotified ≠ 0 → (s.chip.queue q).coalTime ≠ 0 →
      s.chip.clk.refRun = true → ∃ c : Chip, Leads (.coalTimeExpiry q) s c ∧ t + us (s.chip.queue q).coalTime ≤ c.clk.transit ∧
      (q < 8 → (c.queue q).unNotified = 0 ∧ (c.queue q).coalSince = none) ∧ SamePlant s.chip c) ∧
    (∀ h v, s.chip.power.main.up = true → h < 8 → (s.chip.session h).opened = false → bit v 15 = false → ∃ c : Chip,
      Leads (.hifBind h v) s c ∧ Tbl.get dWord0 c.host.bind h = BitVec.ofNat 32 (v &&& 0x83FF) ∧
        (∀ j, j ≠ h → Tbl.get dWord0 c.host.bind j = Tbl.get dWord0 s.chip.host.bind j) ∧ c.queues = s.chip.queues ∧
        c.cmds = s.chip.cmds ∧ SamePlant s.chip c) ∧
    (∀ h v, s.chip.power.main.up = true → h < 8 → (s.chip.session h).opened = true → ∃ c : Chip,
      Leads (.hifBind h v) s c ∧ c.host.bind = s.chip.host.bind ∧ c.host.wErr = true ∧ c.queues = s.chip.queues ∧
      SamePlant s.chip c) ∧
    (∀ first data, s.chip.power.main.up = true → first + data.length ≤ 4 →
      let written := List.replicate first none ++ data.map some
      let zero := fun i => written.getD i none = some 0 ∧ written.getD (i + 1) none = some 0
      let touched := fun i => (written.getD i none).isSome = true ∨ (written.getD (i + 1) none).isSome = true
      ∃ c : Chip, Leads (.hifErrcntRestart first data) s c ∧ (zero 0 → c.host.errCrc = 0) ∧ (zero 2 → c.host.errOvrun = 0) ∧
        (¬zero 0 → c.host.errCrc = s.chip.host.errCrc) ∧ (¬zero 2 → c.host.errOvrun = s.chip.host.errOvrun) ∧
        ((touched 0 → zero 0) → (touched 2 → zero 2) → c.host.wErr = s.chip.host.wErr) ∧
        (touched 0 ∧ ¬zero 0 ∨ touched 2 ∧ ¬zero 2 → c.host.wErr = true) ∧ c.queues = s.chip.queues ∧ SamePlant s.chip c) ∧
    (∀ w rest, s.chip.power.main.up = true → s.chip.host.held = w :: rest → w.ring = false →
      Leads .hifWriteApply s (Chip.hifWrite w.addr w.data { s.chip with host := { s.chip.host with held := rest } })) ∧
    (∀ w rest, s.chip.power.main.up = true → s.chip.host.held = w :: rest → w.ring = true →
      s.chip.ringWriteOk w.addr w.data.length = false → ∃ c : Chip, Leads .hifWriteApply s c ∧ c.host.held = rest ∧
        c.host.wErr = true ∧ c.ring = s.chip.ring ∧ SamePlant s.chip c) ∧
    (∀ w rest, s.chip.power.main.up = true → s.chip.host.held = w :: rest → w.ring = true →
      s.chip.ringWriteOk w.addr w.data.length = true → ∃ c : Chip, Leads .hifWriteApply s c ∧ c.host.held = rest ∧
        c.ring = Tbl.setRun dByte0 s.chip.ring w.addr w.data ∧ c.queues = s.chip.queues ∧ SamePlant s.chip c) ∧
    (∀ e, s.chip.power.main.up = true → e < 128 → ∃ c : Chip, Leads (.hifEvtAck e) s c ∧ (c.event e).pending = false ∧
      (c.event e).count = 0 ∧ (c.event e).cause = (s.chip.event e).cause ∧ (∀ j, j ≠ e → c.event j = s.chip.event j) ∧
      c.queues = s.chip.queues ∧ SamePlant s.chip c)

/-- The writes of the host port. A write whose CRC is right waits behind those held, at most four; one whose CRC is wrong is
dropped with CRCERR and counted; one that finds four waiting is dropped with OVRUN and counted. Nothing else changes. A write
without data or with more than its limit changes nothing, and so does every write while the port is off. The reads of the host
port. A register read drives the marker, the bytes of the registers at its address and on, and their CRC; it changes nothing
else outside the clock's window, and in it what the clock's read changes. A ring read drives the bytes of the ring region, zeros
beyond it and while the main side boots, in the same frame. A read of more than 256 bytes, and every read while the port is off,
drives nothing; a register read of no byte ends before its marker and drives nothing (log entry 87). -/
def Obligations.HostPortReadsAndWrites : Prop :=
  (∀ (s : State) (i : Instr) (addr crc opc w lim : Nat) (ring : Bool) (data : List Byte),
    (i, opc, w, lim, ring) ∈ [(Instr.regWrite addr data crc, 0x02, 2, 256, false), (.regWriteQ addr data crc, 0x12, 2, 256, false),
      (.ringWrite addr data crc, 0x0A, 3, 4112, true), (.ringWriteQ addr data crc, 0x6A, 3, 4112, true)] →
    (data.length = 0 ∨ lim < data.length ∨ s.chip.hostPortOn = false → Leads i s s.chip) ∧
    (s.chip.hostPortOn = true → 1 ≤ data.length → data.length ≤ lim →
    (crc16 ([BitVec.ofNat 8 opc] ++ (leBytes w addr).reverse ++ data) = crc → s.chip.host.held.length < 4 →
      Leads i s { s.chip with host := { s.chip.host with held := s.chip.host.held ++ [⟨ring, addr, data⟩] } }) ∧
    (crc16 ([BitVec.ofNat 8 opc] ++ (leBytes w addr).reverse ++ data) = crc → 4 ≤ s.chip.host.held.length →
      Leads i s { s.chip with host := { s.chip.host with ovrun := true, errOvrun := satInc s.chip.host.errOvrun } }) ∧
    (crc16 ([BitVec.ofNat 8 opc] ++ (leBytes w addr).reverse ++ data) ≠ crc →
      Leads i s { s.chip with host := { s.chip.host with crcErr := true, errCrc := satInc s.chip.host.errCrc } }))) ∧
  (∀ (s : State) (i : Instr) (addr n : Nat),
    ((i = .regRead addr n ∨ i = .regReadQ addr n) →
      (s.chip.hostPortOn = true → 1 ≤ n → n ≤ 256 →
        Leads i s { (Chip.hifRead addr n s.chip).2 with host := { (Chip.hifRead addr n s.chip).2.host with
          driven := readFrame (Chip.hifRead addr n s.chip).1 } } ∧
        ((∀ j, j < n → inRtc (addr + j) = false) → (Chip.hifRead addr n s.chip).2 = s.chip ∧
          (Chip.hifRead addr n s.chip).1.length = n ∧
          (∀ j, j < n → (Chip.hifRead addr n s.chip).1[j]? =
            some ((leBytes 4 (s.chip.hifReg ((addr + j) / 4 * 4))).getD ((addr + j) % 4) 0)))) ∧
      (256 < n ∨ s.chip.hostPortOn = false → Leads i s s.chip) ∧
      (n = 0 → ∃ c : Chip, Leads i s c ∧ c.host.driven = s.chip.host.driven ∧ c.ring = s.chip.ring ∧ SamePlant s.chip c)) ∧
    ((i = .ringRead addr n ∨ i = .ringReadQ addr n) →
      (s.chip.hostPortOn = true → 1 ≤ n → n ≤ 256 → ∃ bs : List Byte,
        Leads i s { s.chip with host := { s.chip.host with driven := readFrame bs } } ∧ bs.length = n ∧
        (∀ j, j < n → bs[j]? = some (if addr + j < 0x80000 ∧ s.chip.power.main ≠ .booting
          then Tbl.get dByte0 s.chip.ring (addr + j) else 0))) ∧
      (n = 0 ∨ 256 < n ∨ s.chip.hostPortOn = false → Leads i s s.chip)))

/-- A port's accesses to the clock. The first TIME byte freezes the port's shadow for up to 1 s and drives the byte; the SEC
bytes are staged and SEC[4] sets the clock, for the port that owns it while the clock does not follow the fabric; the owner
asserts PWR_ON and releases it, unless an assertion arrived at the same moment; a write of another port, of a clock that
follows, or of a time past the last count is denied. The shadow's timeout ends the freeze and sets FRZ_TO. What the clock does
in time. ALARM and WAKE note a crossing that has happened by firing E77 and E78, and otherwise wait for the next one, which sets
their flag and asserts PWR_ON where it is told to; TRIM_INTERVAL ends the interval of 2^20 ticks and corrects the count from the
crystal's table and the measured temperature; SCHEDULE_EVALUATION evaluates every zone when an evaluation is owed or at the
minute; OPTIMAL_START_CHECK waits for the next check of a zone and asks for a prediction where the zone is not at its setpoint;
EARLY_START makes a start early when the lead says so. -/
def Obligations.ClockRegistersAndSchedules : Prop :=
  (∀ (s : State) (p : PortSide), (p = .mgmt ∨ s.chip.power.main.up = true) →
    (∀ i, i ≤ 6 → ∃ c : Chip, Leads (.rtcTimeRead p i) s c ∧
      (p = .host → c.host.driven = [(if (s.chip.rtc.view p).frozen then (s.chip.rtc.view p).shadow else s.chip.rtc.timeBytes).getD i 0]) ∧
      (p = .mgmt → c.mgt.driven = some [(if (s.chip.rtc.view p).frozen then (s.chip.rtc.view p).shadow else
        s.chip.rtc.timeBytes).getD i 0]) ∧
      (c.rtc.view p).frozen = (i != 6) ∧ ((s.chip.rtc.view p).frozen = false → (c.rtc.view p).shadow = s.chip.rtc.timeBytes) ∧
      ((s.chip.rtc.view p).frozen = true → (c.rtc.view p).shadow = (s.chip.rtc.view p).shadow) ∧ c.rtc.count = s.chip.rtc.count ∧
      SamePlant s.chip c) ∧
    ((s.chip.rtc.view p).frozen = true → ∃ c : Chip, Leads (.rtcShadowTimeout p) s c ∧ (c.rtc.view p).frozen = false ∧
      (c.rtc.view p).frzTo = true ∧ (s.chip.rtc.view p).release ≤ c.clk.now ∧ SamePlant s.chip c) ∧
    ((s.chip.rtc.view p).frozen = false → Leads (.rtcShadowTimeout p) s s.chip) ∧
    (s.chip.rtcOwnerOk p = true → s.chip.rtcFollows p = false →
      (∀ i v, i ≤ 3 → ∃ c : Chip, Leads (.rtcSecStage p i v) s c ∧ (c.rtc.view p).staging = (s.chip.rtc.view p).staging.set i v ∧
        c.rtc.count = s.chip.rtc.count ∧ SamePlant s.chip c) ∧
      (∀ v, leNat ((s.chip.rtc.view p).staging.set 4 v) ≤ maxCount → ∃ c : Chip,
        Leads (.rtcSec4Commit p v) s c ∧ c.rtc.count = BitVec.ofNat 40 (leNat ((s.chip.rtc.view p).staging.set 4 v)) ∧
        c.rtc.presc = 0 ∧ c.rtc.valid = true ∧ SamePlant s.chip c)) ∧
    (s.chip.rtcOwnerOk p = true →
      Leads (.pwrOnAssert p) s (s.chip.setRtc (fun r => { r with pwrOn := true, pwrNow := true })) ∧
      Leads (.pwrOnRelease p) s (s.chip.setRtc (fun r => { r with pwrOn := r.pwrOn && r.pwrNow }))) ∧
    (s.chip.rtcOwnerOk p = false →
      Leads (.pwrOnAssert p) s (s.chip.setRtc (fun r => { r with wrDenied := true })) ∧
      Leads (.pwrOnRelease p) s (s.chip.setRtc (fun r => { r with wrDenied := true }))) ∧
    (∀ i v, i ≤ 3 →
      (s.chip.rtcOwnerOk p = false ∨ s.chip.rtcFollows p = true →
        Leads (.rtcSecStage p i v) s (s.chip.setRtc (fun r => { r with wrDenied := true }))) ∧
      (s.chip.rtcOwnerOk p = false ∨ s.chip.rtcFollows p = true ∨ maxCount < leNat ((s.chip.rtc.view p).staging.set 4 v) →
        Leads (.rtcSec4Commit p v) s (s.chip.setRtc (fun r => { r with wrDenied := true }))))) ∧
  (∀ (s : State),
    (∀ pwr, s.chip.rtc.almMatch = some pwr → ∃ c : Chip, Leads .alarm s c ∧ c.rtc.almMatch = none ∧ c.rtc.alarmF = s.chip.rtc.alarmF ∧
      c.rtc.count = s.chip.rtc.count ∧ SamePlant s.chip c ∧ (Fires s.chip 77 → Fired c 77 (b2n pwr))) ∧
    (s.chip.rtc.almMatch = none → s.chip.rtc.alarmEn = true → s.chip.rtc.count.toNat < s.chip.rtc.alm.toNat →
      s.chip.rtc.presc < 32768 → let w := s.chip.waitTotal (s.chip.rtc.alm.toNat * 32768)
      s.chip.rtc.alm.toNat ≤ w.rtc.count.toNat → ∃ c : Chip, Leads .alarm s c ∧ c.rtc.alarmF = true ∧ c.rtc.alarmEn = false ∧
        c.rtc.almMatch = none ∧ (s.chip.rtc.alarmPwr = true → c.rtc.pwrOn = true) ∧ c.rtc.count = w.rtc.count ∧ SamePlant s.chip c) ∧
    (s.chip.rtc.almMatch = none → s.chip.rtc.alarmEn = false ∨ s.chip.rtc.alm.toNat ≤ s.chip.rtc.count.toNat →
      Leads .alarm s s.chip) ∧
    (0 < s.chip.rtc.wakeDue → ∃ c : Chip, Leads .wake s c ∧ c.rtc.wakeF = s.chip.rtc.wakeF ∧ c.rtc.wakeDue = s.chip.rtc.wakeDue - 1 ∧
      c.rtc.count = s.chip.rtc.count ∧ SamePlant s.chip c) ∧
    (s.chip.rtc.wakeDue = 0 → s.chip.rtc.wakeEn = true → wakeTicks s.chip.rtc.wake.toNat ≠ 0 →
      let p := wakeTicks s.chip.rtc.wake.toNat
      let w := s.chip.waitTotal ((s.chip.rtc.total / p + 1) * p)
      0 < w.rtc.wakeDue → ∃ c : Chip, Leads .wake s c ∧ c.rtc.wakeF = true ∧ c.rtc.wakeDue = w.rtc.wakeDue - 1 ∧
        (s.chip.rtc.wakePwr = true → c.rtc.pwrOn = true) ∧ c.rtc.count = w.rtc.count ∧ SamePlant s.chip c) ∧
    (s.chip.rtc.wakeDue = 0 → s.chip.rtc.wakeEn = false ∨ wakeTicks s.chip.rtc.wake.toNat = 0 → Leads .wake s s.chip) ∧
    (∀ temp, let w := if s.chip.rtc.trimTicks < 1048576 then s.chip.waitTicks (1048576 - s.chip.rtc.trimTicks) else s.chip
      ∃ c : Chip, Leads (.trimInterval temp) s c ∧ c.rtc.btemp = BitVec.ofInt 16 temp ∧
      c.rtc.trimOn = ephValid w.ephBytes ∧ c.rtc.trimTicks = 0 ∧
      (ephValid w.ephBytes = true → c.rtc.trim = BitVec.ofInt 16 (trimStep (ephErrAt w.ephBytes temp) w.rtc.residual).1 ∧
        c.rtc.residual = (trimStep (ephErrAt w.ephBytes temp) w.rtc.residual).2) ∧
      (ephValid w.ephBytes = false → c.rtc.trim = 0 ∧ c.rtc.residual = w.rtc.residual) ∧
      c.rtc.count = w.rtc.count ∧ c.clk = w.clk ∧ SamePlant s.chip c) ∧
    (∀ why, s.chip.power.main.up = true → s.chip.almanac.evalDue = some why → Leads .scheduleEvaluation s
      (Chip.evaluateZones s.chip.rtc.count.toNat (some why) { s.chip with almanac := { s.chip.almanac with evalDue := none } })) ∧
    (s.chip.power.main.up = true → s.chip.almanac.evalDue = none →
      let w := if s.chip.rtc.minuteDue then s.chip else s.chip.waitCount ((s.chip.rtc.count.toNat / 60 + 1) * 60)
      Leads .scheduleEvaluation s (Chip.evaluateZones (w.rtc.count.toNat - w.rtc.count.toNat % 60) none
        (w.setRtc (fun r => { r with minuteDue := false })))) ∧
    (∀ z x t, s.chip.power.main.up = true → s.chip.zoneEn z = true → s.chip.nextCheck z s.chip.rtc.count.toNat = some (t, x) →
      let w := s.chip.waitCount t
      let set := fld (w.schedEntry x.entry) 12 1
      let x0 := (w.zone z).x.getD 0 0
      let ask := fun (heat : Bool) => ∃ c : Chip, Leads (.optimalStartCheck z) s c ∧
        (x.entry, x.nominal, t) ∈ Tbl.get dNil c.almanac.lastCheck z ∧
        c.predictions = s.chip.predictions ++ [⟨z, w.setpoint set (if heat then 0 else 1), heat, w.maxLead x.entry / 60, none,
          (x.entry, x.nominal, t)⟩] ∧ c.slots = s.chip.slots
      (x0 < w.setpoint set 0 → (w.boostOf z true).1 ≤ 5 → ask true) ∧
      (w.setpoint set 0 ≤ x0 → w.setpoint set 1 < x0 → (w.boostOf z false).1 ≤ 5 → ask false) ∧
      (w.setpoint set 0 ≤ x0 → x0 ≤ w.setpoint set 1 → ∃ c : Chip, Leads (.optimalStartCheck z) s c ∧
        (x.entry, x.nominal, t) ∈ Tbl.get dNil c.almanac.lastCheck z ∧ c.predictions = s.chip.predictions ∧ c.slots = s.chip.slots)) ∧
    (∀ z, s.chip.zoneEn z = false ∨ s.chip.nextCheck z s.chip.rtc.count.toNat = none → Leads (.optimalStartCheck z) s s.chip) ∧
    (∀ z, (s.chip.zone z).leadReplies = [] → Leads (.earlyStart z) s s.chip) ∧
    (∀ z e x t lead rest, (s.chip.zone z).leadReplies = ((e, x, t), lead) :: rest →
      let c1 := s.chip.setZone z { s.chip.zone z with leadReplies := rest }
      let n := s.chip.rtc.count.toNat
      let starts := (∀ k, lead = some k → x - t ≤ k) ∧ n < x ∧ ∃ y ∈ c1.leadStarts z n, y.entry = e ∧ y.nominal = x
      (¬starts → Leads (.earlyStart z) s c1) ∧
      (starts → ∃ c : Chip, Leads (.earlyStart z) s c ∧ (e, x, n) ∈ Tbl.get dNil c.almanac.early z ∧
        (c.zone z).leadReplies = rest)))

/-- The management commands that write carry a PEC over the address and their bytes: with the right PEC they act, with another
they are not acknowledged and PEC_ERR counts, up to 255. RESET_MAIN, HOLD_MAIN, RELEASE_MAIN and SAFE_ALL do their actions,
MGT_REG_WRITE writes its registers, PKT_WRITE takes its chunk of a packet, ALERT_CLEAR clears the bits it names. With the
management side off, with a wrong length, or a PKT_WRITE while the main side is down, they are not acknowledged and change
nothing else. What the management commands do. A reset or a hold resets the main side with cause 3, a hold keeps it and a
release lets it go; SAFE_ALL and a bit of SAFE_HOLD take their groups for the management side, a release gives one back;
REGISTER_WRITE writes a byte of either port's window; the reads answer a block with its byte count and PEC (STATUS the word with
its PEC); PKT_WRITE begins, continues and submits a packet, and drops one that was not begun; PKT_READ answers up to 240 bytes
of the oldest record of Q61, Q62 or Q63 with its flags and frees it with its last chunk, PKT_REREAD answers that chunk again;
ALERT_RESPONSE answers the own address once while the line is asserted; a read that is not served, and the timeout of SMBus,
drive nothing. -/
def Obligations.ManagementPortActs : Prop :=
  ((∀ (s : State) (i : Instr) (bytes : List Byte) (act : Chip → Chip) (pec : Option Byte), s.chip.mgtOn = true →
    ((i, bytes, act) ∈ [(Instr.resetMain pec, [3, 1], Chip.actionReset), (.holdMain pec, [3, 2], Chip.actionHold),
      (.releaseMain pec, [3, 3], Chip.actionRelease), (.safeAll pec, [3, 4], Chip.actionSafeAll)] ∨
    (∃ addr data, i = .mgtRegWrite addr data pec ∧ 1 ≤ data.length ∧ data.length ≤ 32 ∧
      bytes = [9, BitVec.ofNat 8 (2 + data.length)] ++ leBytes 2 addr ++ data ∧ act = Chip.mgtWrite addr data) ∨
    (∃ flags data, i = .pktWrite flags data pec ∧ s.chip.power.main.up = true ∧ 1 ≤ data.length ∧ data.length ≤ 240 ∧
      flags.toNat ≤ 3 ∧ bytes = [0x10, BitVec.ofNat 8 (1 + data.length), flags] ++ data ∧ act = Chip.pktWrite flags.toNat data) ∨
    (∃ data, i = .alertClear data pec ∧ data.length = 16 ∧ bytes = [0x19, 16] ++ data ∧
      act = (fun c => c.setMgt (fun m => { m with alert := m.alert &&& ~~~ (BitVec.ofNat 128 (leNat data)) })))) →
    (pec.map BitVec.toNat = some (crc8 ([BitVec.ofNat 8 (2 * s.chip.mgtAddress)] ++ bytes)) → Leads i s (act s.chip)) ∧
    (pec.map BitVec.toNat ≠ some (crc8 ([BitVec.ofNat 8 (2 * s.chip.mgtAddress)] ++ bytes)) →
      Leads i s (s.chip.nack.setMgt (fun m => { m with pecErr := min 255 (m.pecErr + 1) })))) ∧
  (∀ (s : State) (i : Instr) (pec : Option Byte),
    (s.chip.mgtOn = false ∧ (i = .resetMain pec ∨ i = .holdMain pec ∨ i = .releaseMain pec ∨ i = .safeAll pec) ∨
    (∃ addr data, i = .mgtRegWrite addr data pec ∧ (s.chip.mgtOn = false ∨ data.length = 0 ∨ 32 < data.length)) ∨
    (∃ flags data, i = .pktWrite flags data pec ∧ (s.chip.mgtOn = false ∨ s.chip.power.main.up = false ∨ data.length = 0 ∨
      240 < data.length ∨ 3 < flags.toNat)) ∨
    (∃ data, i = .alertClear data pec ∧ (s.chip.mgtOn = false ∨ data.length ≠ 16))) → Leads i s s.chip.nack)) ∧
  (∀ (s : State),
    (s.chip.mainRuns = true → ∃ c : Chip, s.chip.actionReset = c.fire 126 1 ∧ c.power.main = .reset ∧
      bit c.power.resetCause.toNat 3 = true ∧ c.cmds = [] ∧ c.power.hold = s.chip.power.hold ∧ c.slots = s.chip.slots ∧
      c.flash = s.chip.flash) ∧
    (s.chip.mainRuns = true → ∃ c : Chip, s.chip.actionHold = c.fire 126 2 ∧ c.power.main = .reset ∧ c.power.hold = true ∧
      c.slots = s.chip.slots ∧ c.flash = s.chip.flash) ∧
    (∃ c : Chip, s.chip.actionRelease = c.fire 126 3 ∧ c.power.hold = false ∧ c.power.main = s.chip.power.main ∧ SamePlant s.chip c) ∧
    (∃ c : Chip, s.chip.actionSafeAll = c.fire 126 (4 + 256 * groupMask (List.range (groupCount s.chip.fuses.variant))) ∧
      ∀ g, g < groupCount s.chip.fuses.variant → c.ownerIsMgt (handle tyGroup g) = true) ∧
    (∀ g, s.chip.mgtOn = true → g < groupCount s.chip.fuses.variant → ∃ c : Chip, Leads (.mgtSafeHold g) s (c.fire 126 (0x11 + 256 * 2 ^ g)) ∧
      bit c.mgt.safeHeld g = true ∧ c.ownerIsMgt (handle tyGroup g) = true) ∧
    (∀ g, s.chip.mgtOn = true → bit s.chip.mgt.safeHeld g = true → ∃ c : Chip, Leads (.mgtSafeRelease g) s c ∧
      c.ownerIsMgt (handle tyGroup g) = false ∧ SamePlant s.chip c) ∧
    (∀ g, s.chip.mgtOn = false ∨ groupCount s.chip.fuses.variant ≤ g → Leads (.mgtSafeHold g) s s.chip) ∧
    (∀ g, s.chip.mgtOn = false ∨ bit s.chip.mgt.safeHeld g = false → Leads (.mgtSafeRelease g) s s.chip) ∧
    (∀ addr v, (s.chip.power.main.up = true → Leads (.registerWrite .host addr v) s (s.chip.hifWrite addr [v])) ∧
      (s.chip.power.main.up = false → Leads (.registerWrite .host addr v) s s.chip) ∧
      (s.chip.mgtOn = true → Leads (.registerWrite .mgmt addr v) s (s.chip.mgtWrite addr [v])) ∧
      (s.chip.mgtOn = false → Leads (.registerWrite .mgmt addr v) s s.chip)) ∧
    (∀ v, s.chip.hifWrite 0xC [v] = { s.chip with host := { s.chip.host with
      scratch := BitVec.ofNat 32 (mergeBytes s.chip.host.scratch.toNat [some v]) } }) ∧
    (∀ v, s.chip.mgtWrite 0xC [v] = s.chip.setMgt (fun m => { m with
      bootOvr := bit v.toNat 0, bootBank := bit v.toNat 1, bootOnce := bit v.toNat 2, bootNoImage := bit v.toNat 3 })) ∧
    (let own := 2 * s.chip.mgtAddress
     let read := fun (sent bs : List Byte) => s.chip.setMgt (fun m => { m with driven := some (bs ++ [BitVec.ofNat 8
      (crc8 (BitVec.ofNat 8 own :: sent ++ [BitVec.ofNat 8 (own + 1)] ++ bs))]) })
     let block := fun (sent bs : List Byte) => read sent (BitVec.ofNat 8 bs.length :: bs)
     (s.chip.power.aoOn = true →
      Leads .id s (block [1] ([BitVec.ofNat 8 silicon, BitVec.ofNat 8 s.chip.fuses.variant] ++ leBytes 8 s.chip.fuses.uid
        ++ s.chip.firmware.bankA.version ++ s.chip.firmware.bankB.version)) ∧
      Leads .status s (read [2] (leBytes 2 s.chip.mgtStat))) ∧
     (∀ addr n, s.chip.mgtOn = true → 1 ≤ n → n ≤ 32 → (∀ j, j < n → inRtc (addr + j) = false) → ∃ bs : List Byte,
      Leads (.mgtRegRead addr n) s (block ([8, 3] ++ leBytes 2 addr ++ [BitVec.ofNat 8 n]) bs) ∧ bs.length = n ∧
      (∀ j, j < n → bs[j]? = some ((leBytes 4 (s.chip.mgtReg ((addr + j) / 4 * 4))).getD ((addr + j) % 4) 0))) ∧
     (s.chip.mgtOn = true → s.chip.power.main.up = true → Leads .pktReread s (block [0x12] s.chip.mgt.lastChunk)) ∧
     (s.chip.mgtOn = true → Leads .alertRead s (block [0x18] (leBytes 16 s.chip.mgt.alert.toNat))) ∧
     (s.chip.mgtOn = true → s.chip.mgt.alertLine = true → Leads .alertResponse s (s.chip.setMgt (fun m => { m with
      driven := some [BitVec.ofNat 8 own, BitVec.ofNat 8 (crc8 [0x19, BitVec.ofNat 8 own])], alertLine := false })))) ∧
    (∀ addr n, s.chip.mgtOn = true → 1 ≤ n → n ≤ 32 → Leads (.mgtRegRead addr n) s
      ((Chip.mgtRead addr n s.chip).2.answerBlock ([8, 3] ++ leBytes 2 addr ++ [BitVec.ofNat 8 n]) (Chip.mgtRead addr n s.chip).1)) ∧
    (∀ data, s.chip.mgt.building = none → Chip.pktWrite 0 data s.chip =
        s.chip.setMgt (fun m => { m with building := none, pktDrop := true }) ∧
      Chip.pktWrite 2 data s.chip = s.chip.setMgt (fun m => { m with building := none, pktDrop := true })) ∧
    (∀ data, Chip.pktWrite 1 data s.chip = s.chip.setMgt (fun m => { m with building := some data }) ∧
      Chip.pktWrite 3 data s.chip = s.chip.submitPacket data) ∧
    (∀ data got, s.chip.mgt.building = some got →
      Chip.pktWrite 0 data s.chip = s.chip.setMgt (fun m => { m with building := some (got ++ data) }) ∧
      Chip.pktWrite 2 data s.chip = s.chip.submitPacket (got ++ data)) ∧
    (s.chip.mgtOn = true → s.chip.power.main.up = true → s.chip.readFrom = none →
      Leads .pktRead s ((s.chip.setMgt (fun m => { m with lastChunk := [4] })).answerBlock [0x11] [4])) ∧
    (∀ q, s.chip.mgtOn = true → s.chip.power.main.up = true → s.chip.readFrom = some q →
      let s0 := s.chip.queue q
      let word := leNat (ringRead s0 s0.head 4 s.chip.ring)
      let rlen := word % 8192
      let ofs := if s.chip.mgt.readQueue.isSome then s.chip.mgt.readOffset else 0
      let n := min 240 (rlen - ofs)
      let last := rlen ≤ ofs + n
      let chunk := BitVec.ofNat 8 (b2n (ofs == 0) + 2 * b2n (decide last) + 8 * b2n (bit word 14)) ::
        (ringRead s0 s0.head (4 + ofs + n) s.chip.ring).drop (4 + ofs)
      ∃ c : Chip, Leads .pktRead s (c.answerBlock [0x11] chunk) ∧ c.mgt.lastChunk = chunk ∧
        (last → c.mgt.readQueue = none ∧ c.queue q = s0.pop (min s0.fill (entriesFor s0.eshift rlen))) ∧
        (¬last → c.mgt.readQueue = some q ∧ c.mgt.readOffset = ofs + n ∧ c.queue q = s0) ∧
        (∀ j, j ≠ q → c.queue j = s.chip.queue j) ∧ c.ring = s.chip.ring ∧ SamePlant s.chip c) ∧
    (s.chip.power.aoOn = false → Leads .id s s.chip.nack ∧ Leads .status s s.chip.nack) ∧
    (∀ addr n, s.chip.mgtOn = false ∨ n = 0 ∨ 32 < n → Leads (.mgtRegRead addr n) s s.chip.nack) ∧
    (s.chip.mgtOn = false ∨ s.chip.power.main.up = false → Leads .pktRead s s.chip.nack ∧ Leads .pktReread s s.chip.nack) ∧
    (s.chip.mgtOn = false → Leads .alertRead s s.chip.nack) ∧
    (s.chip.mgtOn = false ∨ s.chip.mgt.alertLine = false → Leads .alertResponse s s.chip.nack) ∧
    Leads .smbusTimeout s (s.chip.setMgt (fun m => { m with driven := none })))

/-! ### Power, resets and boot -/

/-- The supplies and the hot-swap switch: where a supply appears the always-on domain starts with everything it holds at reset
and charging begins, where it goes the main side goes with it; the switch closes, trips, retries, latches and unlatches; VACT's
loss sheds the ports that draw from it, and its return restores them. Out of its condition (its voltage past its threshold, its
supply or its switch in another state) each row changes nothing, but that a return of a supply that was not lost is measured.
Shedding sheds every port that draws VACT current, and its return ends the low-VACT state; the slots, the attributes and the
groups stay as they are; a restore goes on until the next port no longer fits the limit. -/
def Obligations.SuppliesAndShedding : Prop :=
  (∀ (s : State) (v a peak : Nat) (ft : Bool) (ac : Option Bool),
    (s.chip.power.aoOn = false → 6000 ≤ v ∨ 6000 ≤ a → ∃ c : Chip, Leads (.alwaysOnPorExit v a ft) s c ∧ c.power.aoOn = true ∧
      c.power.testHeld = ft ∧ c.power.vsysR = v ∧ c.power.vact = a ∧ c.power.main = .reset ∧ (6000 ≤ v → c.power.hsw = .charging) ∧
      (v < 6000 → c.power.hsw = .off) ∧ c.power.resetCause = resetPower.resetCause ∧ c.mgt = resetMgt ∧ c.cmds = [] ∧ c.rtc = s.chip.rtc ∧
      c.flash = s.chip.flash) ∧
    (s.chip.power.aoOn = true → v < 5000 → a < 5000 → ∃ c : Chip, Leads (.alwaysOnPorEntry v a) s c ∧ c.power.aoOn = false ∧
      c.power.vsysR = v ∧ c.power.vact = a ∧ c.power.main = .reset ∧ c.power.hsw = .off ∧ c.power.sramLost = true ∧
      c.clk.refRun = false ∧ c.cmds = [] ∧ c.rtc = s.chip.rtc ∧ c.flash = s.chip.flash) ∧
    (s.chip.power.aoOn = true → v < 11000 → Leads (.vsysLow v) s ((s.chip.setPower (fun p => { p with vsysR := v })).fireFree 120)) ∧
    (s.chip.power.aoOn = true → v < 10000 → ∃ c : Chip, Leads (.powerFail v) s c ∧ c.power.vsysR = v ∧ c.power.input = 0 ∧
      c.power.sramLost = true ∧ c.clk.refRun = false ∧ (s.chip.power.hsw ≠ .latched → c.power.hsw = .off) ∧
      (s.chip.power.hsw = .latched → c.power.hsw = .latched) ∧
      (s.chip.mainRuns = true → c.power.main = .reset ∧ bit c.power.resetCause.toNat 1 = true ∧ c.cmds = []) ∧ c.flash = s.chip.flash) ∧
    (s.chip.power.aoOn = true → 11500 ≤ v → s.chip.power.hsw = .off → ∃ c : Chip, Leads (.vsysReturn v) s c ∧ c.power.vsysR = v ∧
      c.power.hsw = .charging ∧ c.power.main = s.chip.power.main ∧ SamePlant s.chip c) ∧
    (s.chip.power.aoOn = true → s.chip.power.hsw = .charging → 11500 ≤ v → ∃ c : Chip, Leads (.hotswapCharged v ac) s c ∧ c.power.vsysR = v ∧
      c.power.hsw = .on ∧ c.power.hswRow = 0 ∧ c.power.input = (if ac = none then 1 else if ac = some true then 3 else 2) ∧
      c.clk.refRun = true ∧ c.clk.refSince = s.chip.clk.now ∧ c.power.main = s.chip.power.main ∧ SamePlant s.chip c) ∧
    (∀ i kind, s.chip.power.aoOn = true →
      (i, kind, s.chip.power.hsw) ∈ [(Instr.hotswapFault peak, 0, HotSwap.charging), (.hotswapFault peak, 1, .on), (.hotswapFastTrip peak, 2, .charging),
        (.hotswapFastTrip peak, 2, .on)] →
      ∃ (latch : Bool) (c : Chip), latch = (!s.chip.power.hswAuto || decide (3 ≤ s.chip.power.hswRow)) ∧
        Leads i s (c.fire 127 ((if latch then 3 else kind) + 4 * min 3 (s.chip.power.hswRow + 1) + 65536 * min 65535 peak)) ∧
        c.power.hsw = (if latch then .latched else .retry) ∧ c.power.hswRetry = (if latch then none else some (s.chip.clk.now + sec 1)) ∧
        c.power.hswRow = min 4 (s.chip.power.hswRow + 1) ∧
        (s.chip.power.hsw = .on → c.clk.refRun = false ∧ (s.chip.mainRuns = true → c.power.main = .reset ∧ bit c.power.resetCause.toNat 1 = true)) ∧
        (s.chip.power.hsw = .charging → c.power.main = s.chip.power.main ∧ SamePlant s.chip c) ∧ c.flash = s.chip.flash) ∧
    (∀ d, s.chip.power.aoOn = true → s.chip.power.hsw = .retry → s.chip.power.hswRetry = some d → ∃ c : Chip, Leads .hotswapRetry s c ∧
      d ≤ c.clk.now ∧ (6000 ≤ s.chip.power.vsysR → c.power.hsw = .charging) ∧ c.power.hswRetry = none ∧ c.power.hswRow = s.chip.power.hswRow ∧
      SamePlant s.chip c) ∧
    (s.chip.power.aoOn = true → s.chip.power.hsw = .latched → ∃ c : Chip, Leads .hotswapUnlatch s c ∧ c.power.hsw = .off ∧ c.power.hswRow = 0 ∧
      c.power.vsysR < 6000 ∧ SamePlant s.chip c) ∧
    (s.chip.power.aoOn = true → a < 9500 → Leads (.vactLow a) s ((s.chip.setPower (fun p => { p with vact := a })).fireFree 121)) ∧
    (s.chip.power.aoOn = true → a < 8500 → Leads (.vactShed a) s (s.chip.setPower (fun p => { p with vact := a, vactShed := true })).shedAll) ∧
    (s.chip.power.aoOn = true → 9800 < a → s.chip.power.vactShed = true → s.chip.power.vactOpen = false →
      Leads (.vactRestore a) s (s.chip.setPower (fun p => { p with vact := a })).vactBack) ∧
    (s.chip.power.aoOn = true → 9800 < a → s.chip.power.vactShed = true → s.chip.power.vactOpen = true →
      Leads (.vactRestore a) s (s.chip.setPower (fun p => { p with vact := a, vactShed := false }))) ∧
    (s.chip.power.aoOn = true → s.chip.power.vactOpen = false → Leads .vactSwitchTrip s ((s.chip.setPower (fun p =>
      { p with vactOpen := true, vactRetry := some (s.chip.clk.now + sec 1) })).fireFree 121).shedAll) ∧
    (∀ d, s.chip.power.aoOn = true → s.chip.power.vactRetry = some d →
      (s.chip.power.vactShed = true → Leads .vactSwitchRetry s
        ((s.chip.waitUntil d).setPower (fun p => { p with vactOpen := false, vactRetry := none }))) ∧
      (s.chip.power.vactShed = false → Leads .vactSwitchRetry s (s.chip.waitUntil d).vactBack)) ∧
    (s.chip.power.aoOn = true → 11500 ≤ v → s.chip.power.hsw ≠ .off →
      Leads (.vsysReturn v) s (s.chip.setPower (fun p => { p with vsysR := v }))) ∧
    (s.chip.power.aoOn = true → 9800 < a → s.chip.power.vactShed = false →
      Leads (.vactRestore a) s (s.chip.setPower (fun p => { p with vact := a }))) ∧
    (∀ i, (i = .alwaysOnPorExit v a ft ∧ (s.chip.power.aoOn = true ∨ v < 6000 ∧ a < 6000) ∨
      s.chip.power.aoOn = false ∧ i ∈ [.alwaysOnPorEntry v a, .vsysLow v, .powerFail v, .vsysReturn v, .hotswapCharged v ac,
        .hotswapFault peak, .hotswapFastTrip peak, .hotswapRetry, .hotswapUnlatch, .vactLow a, .vactShed a, .vactRestore a,
        .vactSwitchTrip, .vactSwitchRetry] ∨
      i = .alwaysOnPorEntry v a ∧ (5000 ≤ v ∨ 5000 ≤ a) ∨ i = .vsysLow v ∧ 11000 ≤ v ∨ i = .powerFail v ∧ 10000 ≤ v ∨
      i = .vsysReturn v ∧ v < 11500 ∨ i = .hotswapCharged v ac ∧ (s.chip.power.hsw ≠ .charging ∨ v < 11500) ∨
      (i = .hotswapFault peak ∨ i = .hotswapFastTrip peak) ∧ s.chip.power.hsw ≠ .charging ∧ s.chip.power.hsw ≠ .on ∨
      i = .hotswapRetry ∧ (s.chip.power.hsw ≠ .retry ∨ s.chip.power.hswRetry = none) ∨
      i = .hotswapUnlatch ∧ s.chip.power.hsw ≠ .latched ∨ i = .vactLow a ∧ 9500 ≤ a ∨ i = .vactShed a ∧ 8500 ≤ a ∨
      i = .vactRestore a ∧ a ≤ 9800 ∨ i = .vactSwitchTrip ∧ s.chip.power.vactOpen = true ∨
      i = .vactSwitchRetry ∧ s.chip.power.vactRetry = none) → Leads i s s.chip)) ∧
  (∀ (c : Chip),
    (∀ n, n < 32 → c.usesVact n = true → (c.shedAll.port n).shed = true) ∧
    c.shedAll.slots = c.slots ∧ c.shedAll.attrs = c.attrs ∧ c.shedAll.groups = c.groups ∧ c.shedAll.flash = c.flash ∧
    c.vactBack.power.vactShed = false ∧ c.vactBack.power.vactOpen = false ∧ c.vactBack.power.vactRetry = none ∧
    c.vactBack.slots = c.slots ∧ c.vactBack.attrs = c.attrs ∧ c.vactBack.motors = c.motors ∧ c.vactBack.groups = c.groups ∧
    (∀ n, c.vactBack.nextRestore = some n → vactLimit c.thermal.step < c.vactBack.vactTotal + c.vactBack.vactDraw n))

/-- The reset sources, the halts of the timed islands, and the reference monitor. HRESET# and the debugger reset a main side
that runs with causes 2 and 7, where the commands and the fault log's ring are dropped and flash and slots stay; with the main
side not running the debugger changes at most the cause. A debug halt and a stopped reference halt every group in RUN, its
outputs frozen or safe as its HALT says (a stopped reference ends every CAN frame in flight too), no other group changes its
state under the debug halt, and its end makes the groups that it halted DISABLED. The backup domain's reset resets the RTC. Each
row out of its condition (the always-on side off, nothing to halt, release, stop or restart) changes nothing. -/
def Obligations.ResetsAndHaltsAct : Prop :=
  ∀ (s : State),
    Leads .backupDomainReset s { s.chip with rtc := resetRtc } ∧
    (s.chip.power.aoOn = true → ∃ c : Chip, Leads .hresetAssert s c ∧ c.power.hresetLow = true ∧ c.flash = s.chip.flash ∧
      c.slots = s.chip.slots ∧ (s.chip.mainRuns = true → c.power.main = .reset ∧ bit c.power.resetCause.toNat 2 = true ∧ c.cmds = [] ∧
        c.ring = [] ∧ c.power.lastReset = some s.chip.clk.now)) ∧
    (s.chip.power.aoOn = true → Leads .hresetRelease s (s.chip.setPower (fun p => { p with hresetLow := false }))) ∧
    (s.chip.power.aoOn = false → Leads .hresetAssert s s.chip ∧ Leads .hresetRelease s s.chip ∧ Leads .refStop s s.chip ∧ Leads .refRestart s s.chip) ∧
    (s.chip.mainRuns = true → ∃ c : Chip, Leads .debugReset s c ∧ c.power.main = .reset ∧ bit c.power.resetCause.toNat 7 = true ∧ c.cmds = [] ∧
      c.ring = [] ∧ c.power.hold = s.chip.power.hold ∧ c.slots = s.chip.slots ∧ c.flash = s.chip.flash) ∧
    (s.chip.mainRuns = false → ∃ x, Leads .debugReset s (s.chip.setPower (fun p => { p with resetCause := x }))) ∧
    (s.chip.power.main.up = false ∨ s.chip.power.debugHalt = true → Leads .debugHalt s s.chip) ∧
    (s.chip.power.debugHalt = false → Leads .debugHaltRelease s s.chip) ∧
    (s.chip.clk.refRun = false → Leads .refStop s s.chip) ∧
    (s.chip.clk.refRun = true ∨ s.chip.power.hsw ≠ .on → Leads .refRestart s s.chip) ∧
    (s.chip.power.main.up = true → s.chip.power.debugHalt = false → ∃ c : Chip, Leads .debugHalt s c ∧
      (∀ k, k < 8 → (s.chip.group k).state = .run → (c.group k).haltKind = 1 ∧
        (c.group k).state = (if (s.chip.group k).active.halt = 1 then .safe else .frozen)) ∧
      (∀ k, (s.chip.group k).state ≠ .run → (c.group k).state = (s.chip.group k).state) ∧ c.attrs = s.chip.attrs ∧ c.flash = s.chip.flash) ∧
    (s.chip.power.debugHalt = true → ∃ c : Chip, Leads .debugHaltRelease s c ∧
      (∀ k, k < 8 → (s.chip.group k).haltKind = 1 → (c.group k).state = .disabled) ∧
      (∀ k, (s.chip.group k).haltKind ≠ 1 → (c.group k).state = (s.chip.group k).state) ∧ c.attrs = s.chip.attrs) ∧
    (s.chip.power.aoOn = true → s.chip.clk.refRun = true → ∃ c : Chip, Leads .refStop s (c.fire 116 s.chip.runningGroups) ∧
      c.clk.refRun = false ∧ (∀ k, k < 8 → (s.chip.group k).state = .run → (c.group k).haltKind = 2 ∧
        (c.group k).state = (if (s.chip.group k).active.halt = 1 then .safe else .frozen)) ∧
      (∀ m, m < canCount s.chip.fuses.variant → (c.canOf m).started = true → (c.canOf m).flight = none) ∧ c.attrs = s.chip.attrs) ∧
    (s.chip.power.aoOn = true → s.chip.clk.refRun = false → s.chip.power.hsw = .on → Leads .refRestart s
      { s.chip with clk := { s.chip.clk with refRun := true, refSince := s.chip.clk.now - ms 10 } })

/-- The boot: a bank that MGT_BOOT or the straps name boots where it verifies, without a change of the pointer, and the other
where it does not; else the pointer's bank boots where it verifies; a trial bank takes one of its tries, and one without tries
gives way to the other bank, the pointer becoming that bank's, no longer on trial; with neither bank verifying, none boots. The
boot ends with E124, whose CAUSE says which bank booted, whether another had been wanted, whether no image was asked for, and
how long it took. A BOOT row while the main side is neither booting nor free to be released changes nothing. -/
def Obligations.BootChoosesABank : Prop :=
  ∀ (s : State) (vbat time : Nat) (boot0 boot1 : Bool),
    (s.chip.power.main = .booting ∨ s.chip.mayRelease = true → ∃ (b : BankChoice) (c : Chip) (x : Nat),
      b = (s.chip.setPower (fun p => { p with boot0 := boot0, boot1 := boot1 })).chooseBank ∧
      Leads (.boot vbat time boot0 boot1) s (c.fire 124 x) ∧ bit x 0 = b.bank.getD b.ptr.bank ∧ bit x 2 = b.fallback ∧
      bit x 3 = (s.chip.mgt.bootNoImage || (boot0 && !boot1)) ∧ x / 65536 = min 65535 time) ∧
    (s.chip.power.main ≠ .booting → s.chip.mayRelease = false → Leads (.boot vbat time boot0 boot1) s s.chip) ∧
    (∀ (c : Chip) (w : Bool), ((c.mgt.bootOvr = true ∧ w = c.mgt.bootBank) ∨ (c.mgt.bootOvr = false ∧ c.power.boot1 = true ∧ w = c.power.boot0)) →
      (c.bankOk w = true → c.chooseBank = ⟨some w, c.firmware.ptr, false, none, []⟩) ∧
      (c.bankOk w = false → c.bankOk (!w) = true → c.chooseBank.bank = some (!w) ∧ c.chooseBank.fallback = true ∧
        c.chooseBank.ptr = c.firmware.ptr)) ∧
    (∀ (c : Chip), c.mgt.bootOvr = false → c.power.boot1 = false →
      (c.firmware.ptr.trial = false → c.bankOk c.firmware.ptr.bank = true → c.chooseBank = ⟨some c.firmware.ptr.bank, c.firmware.ptr, false, none, []⟩) ∧
      (c.firmware.ptr.trial = true → 0 < c.firmware.ptr.tries → c.bankOk c.firmware.ptr.bank = true →
        c.chooseBank = ⟨some c.firmware.ptr.bank, { c.firmware.ptr with tries := c.firmware.ptr.tries - 1 }, false, none, []⟩) ∧
      (c.firmware.ptr.trial = true → c.firmware.ptr.tries = 0 → c.bankOk (!c.firmware.ptr.bank) = true →
        c.chooseBank.bank = some (!c.firmware.ptr.bank) ∧ c.chooseBank.ptr.bank = (!c.firmware.ptr.bank) ∧
        c.chooseBank.ptr.trial = false ∧ c.chooseBank.reason = some 2)) ∧
    (∀ (c : Chip), c.bankOk false = false → c.bankOk true = false → c.chooseBank.bank = none)

/-! ### The islands in time -/

/-- The rows of time of group `k` and of port `n`. A boundary of a group in RUN takes the settings that reached the synchroniser
100 ns before it, computes each duty from them, counts, and sets the next boundary a period later, adjusted towards the
synchronising pulse; how the boundaries are placed follows the new settings' SYNC, and a changed source loses its stale mark; a
boundary row of a group not in RUN only takes the boundary that was still due. A SYNC_IN pulse starts a waiting G0 (unless it
comes within the 100 ns of the enable), else moves its next boundary where it lies within PERIOD/256 of the boundary expected or
just taken, else does nothing. A group that waited too long starts free with SYNC_LOST. A delay line that cannot be trimmed sets
DLY_FAIL until the next calibration, 10 ms later, that finds it good. The hold of a frozen group ends in SAFE. A channel on a
slot looks at its source. An over-current trip of an active HBRIDGE port counts once a channel period while its group is in RUN
or FROZEN, and latches the bridge at the port's count; on a bridge that is latched it counts too. Each row out of its condition
changes nothing. -/
def Obligations.PulsesBoundariesAndTrips : Prop :=
  ∀ (s : State) (k n : Nat),
    (∀ t, (s.chip.group k).state = .run → (s.chip.group k).next = some t →
      ∃ (a g : GroupSt) (tr : GroupSet × List Nat × List (Nat × GroupSet × List Nat)) (c0 c : Chip),
      Leads (.periodBoundary k) s c ∧ a = (s.chip.group k).advanceSync k ∧ tr = a.transfer t ∧
      g = { a with following := a.placing tr.1, staleCh := a.staleAfter tr.1 } ∧ c0 = (s.chip.waitUntil t).setGroup k g ∧ t ≤ c.clk.now ∧
      (c.group k).active = tr.1 ∧ (c.group k).queued = tr.2.2 ∧
      (c.group k).duty = [0, 1, 2, 3].map (fun i => (c0.channelDuty k i t tr.1).1) ∧ (c.group k).boundaries = a.boundaries + 1 ∧
      (c.group k).last = some t ∧ (c.group k).next = some ((t + tr.1.period : Nat) + a.adjust).toNat ∧ (c.group k).state = .run ∧
      (c.group k).following = a.placing tr.1 ∧
      (∀ j, j ≠ k → j ≠ k + 1 → c.group j = s.chip.group j) ∧ c.attrs = s.chip.attrs ∧ c.ports = s.chip.ports) ∧
    (∀ t, (s.chip.group k).state ≠ .run → (s.chip.group k).next = some t → Leads (.periodBoundary k) s
      ((s.chip.waitUntil t).setGroup k { s.chip.group k with next := none })) ∧
    ((s.chip.group k).next = none → Leads (.periodBoundary k) s s.chip) ∧
    ((s.chip.group 0).state = .run → (s.chip.group 0).following = true → ∀ d, (s.chip.group 0).wait = some d →
      (d ≤ s.chip.clk.now + 4 * (s.chip.group 0).active.period → Leads .syncInPulse s (s.chip.setGroup 0 { s.chip.group 0 with
        wait := none, next := some (s.chip.clk.now + (s.chip.group 0).active.offset), pulseSeen := true })) ∧
      (s.chip.clk.now + 4 * (s.chip.group 0).active.period < d → Leads .syncInPulse s s.chip)) ∧
    ((s.chip.group 0).state = .run → (s.chip.group 0).following = true → (s.chip.group 0).wait = none → ∀ e f : Int,
      e = (s.chip.clk.now : Int) - (((s.chip.group 0).next.getD 0 : Nat) - (s.chip.group 0).active.offset : Int) →
      f = (s.chip.clk.now : Int) - (((s.chip.group 0).last.getD 0 : Nat) - (s.chip.group 0).active.offset : Int) →
      (e.natAbs ≤ (s.chip.group 0).active.period / 256 →
        Leads .syncInPulse s (s.chip.setGroup 0 { s.chip.group 0 with adjust := e, pulseSeen := true })) ∧
      ((s.chip.group 0).active.period / 256 < e.natAbs → f.natAbs ≤ (s.chip.group 0).active.period / 256 →
        Leads .syncInPulse s (s.chip.setGroup 0 { s.chip.group 0 with adjust := f, pulseSeen := true })) ∧
      ((s.chip.group 0).active.period / 256 < e.natAbs → (s.chip.group 0).active.period / 256 < f.natAbs → Leads .syncInPulse s s.chip)) ∧
    ((s.chip.group 0).state ≠ .run ∨ (s.chip.group 0).following = false → Leads .syncInPulse s s.chip) ∧
    (∀ d, (s.chip.group k).state = .run → (s.chip.group k).wait = some d → ∃ c : Chip, Leads (.followPulseTimeout k) s c ∧ d ≤ c.clk.now ∧
      (c.group k).syncLost = true ∧ (c.group k).following = false ∧ (c.group k).wait = none ∧ (c.group k).next = some d ∧
      (c.group k).state = .run ∧ (∀ j, j ≠ k → c.group j = s.chip.group j) ∧ c.slots = s.chip.slots ∧ c.attrs = s.chip.attrs) ∧
    ((s.chip.group k).state ≠ .run ∨ (s.chip.group k).wait = none → Leads (.followPulseTimeout k) s s.chip) ∧
    (∀ failed, (s.chip.islandHeld = true → Leads (.delayLineCalibration failed) s s.chip) ∧ (s.chip.islandHeld = false → ∃ c : Chip,
      Leads (.delayLineCalibration failed) s c ∧ (s.chip.group 0).lineDue ≤ c.clk.now ∧
      (∀ j, j < groupCount s.chip.fuses.variant → (c.group j).badLines = lineMask j failed ∧ (c.group j).dlyFail = (lineMask j failed != 0) ∧
        (c.group j).lineDue = (s.chip.group 0).lineDue + ms 10) ∧
      (∀ j, (c.group j).state = (s.chip.group j).state ∧ (c.group j).duty = (s.chip.group j).duty ∧ (c.group j).next = (s.chip.group j).next) ∧
      c.slots = s.chip.slots ∧ c.attrs = s.chip.attrs ∧ c.ports = s.chip.ports)) ∧
    (∀ d, (s.chip.group k).state = .frozen → (s.chip.group k).holdDue = some d → ∃ c : Chip, Leads (.haltHoldExpiry k) s c ∧ d ≤ c.clk.now ∧
      (c.group k).state = .safe ∧ (c.group k).haltKind = (s.chip.group k).haltKind ∧
      (∀ j, j ≠ k → (c.group j).state = (s.chip.group j).state) ∧ c.attrs = s.chip.attrs ∧ c.ports = s.chip.ports) ∧
    ((s.chip.group k).state ≠ .frozen ∨ (s.chip.group k).holdDue = none → Leads (.haltHoldExpiry k) s s.chip) ∧
    ((s.chip.groupNow (groupOf n)).src (n % 4) = 1 → Leads (.slotSourceCheck n) s (s.chip.setGroup (groupOf n) { s.chip.group (groupOf n) with
      staleCh := (s.chip.group (groupOf n)).staleCh.set (n % 4) (s.chip.noteStale (bits ((s.chip.groupNow (groupOf n)).cfgOf (n % 4)) 16 12)) })) ∧
    ((s.chip.groupNow (groupOf n)).src (n % 4) ≠ 1 → Leads (.slotSourceCheck n) s s.chip) ∧
    (s.chip.portActive n = false ∨ s.chip.portMode n ≠ mHbridge → Leads (.overcurrentTrip n) s s.chip) ∧
    (s.chip.portActive n = true → s.chip.portMode n = mHbridge → ∃ (b : BridgeSt) (c : Chip),
      Leads (.overcurrentTrip n) s (c.checkLatch n) ∧ b = (s.chip.meetClear n (s.chip.channelPeriod n)).bridge n ∧
      ((s.chip.bridge n).cleared = none → b = s.chip.bridge n) ∧
      ((s.chip.group (groupOf n)).state = .run ∨ (s.chip.group (groupOf n)).state = .frozen →
        (b.trips.head? ≠ some (s.chip.channelPeriod n) →
          (c.bridge n).trips = (s.chip.channelPeriod n :: b.trips).take 255 ∧ (c.bridge n).total = b.total + 1) ∧
        (b.trips.head? = some (s.chip.channelPeriod n) → (c.bridge n).trips = b.trips ∧ (c.bridge n).total = b.total)) ∧
      ((s.chip.group (groupOf n)).state ≠ .run → (s.chip.group (groupOf n)).state ≠ .frozen → c.bridge n = s.chip.bridge n) ∧
      ((c.bridge n).latched = false → 0 < c.wcount n → c.tripN n ≤ c.wcount n → c.checkLatch n = c.latchBridge n) ∧
      (c.wcount n < c.tripN n ∨ (c.bridge n).latched = true → c.checkLatch n = c) ∧ (∀ j, j ≠ n → c.bridge j = s.chip.bridge j) ∧
      c.groups = s.chip.groups ∧ c.slots = s.chip.slots ∧ c.attrs = s.chip.attrs ∧ c.motors = s.chip.motors)

/-- The rows of time of a port. A terminal outside its window takes the port out of service and cuts what it drives, an IIN
port's high terminal is a retry fault, and so is each fault that the port's mode retries; the HBRIDGE mean current over 1000
samples is such a fault where it first exceeds the port's limit by a tenth. The end of PROTECT and of RETRY starts settling, 2
ms, and the end of settling drives the port again. A comparator's edge on a digital input is counted and A's rising-to-rising
period captured, and a level that stays is taken over after DEBOUNCE and written to its slot, with its event where that is
selected. A sensor bus polls its list from its due time, a pass that is broken off ends with nine pulses and STOP, and the next
is due at the next period. VOUT and ODOUT look at their sources; an open current loop is reported. Each row out of its condition
changes nothing (SETTLING_EXPIRY at a port that is not settling only resumes what an active port drives); a voltage that moves
the comparator's output at no input changes only what the comparator shows. What a port's cause and its retry fault do:
PORT_FAULT keeps the bits, the other ports stay as they are; a retry fault counts in the 60 s, leads to RETRY for 1 s and at the
third to LATCHED, but in a port LATCHED or in PROTECT only counts. -/
def Obligations.PortsInTime : Prop :=
  (∀ (s : State) (n : Nat),
    (∀ high low, s.chip.power.main.up = true → objPresent s.chip.fuses.variant tyPort n = true → (high || low) = true →
      (s.chip.portMode n ≠ mIin → s.chip.hasWindow n = true → Leads (.protectEntry n high low) s
        (((s.chip.setPort n { s.chip.port n with outside := true, offAt := if (s.chip.port n).fit then s.chip.clk.now else (s.chip.port n).offAt }).portCause n
          (b2n high + 2 * b2n low)).portCut n)) ∧
      (s.chip.portMode n = mIin → high = true → Leads (.protectEntry n high low) s (s.chip.retryWith n 0x40))) ∧
    (∀ high low, s.chip.power.main.up = false ∨ objPresent s.chip.fuses.variant tyPort n = false ∨ (high || low) = false ∨
      (s.chip.portMode n = mIin ∧ high = false) ∨ (s.chip.portMode n ≠ mIin ∧ s.chip.hasWindow n = false) →
      Leads (.protectEntry n high low) s s.chip) ∧
    ((s.chip.port n).outside = false → Leads (.protectExit n) s s.chip) ∧
    ((s.chip.port n).outside = true → ∃ c : Chip, Leads (.protectExit n) s c ∧ (c.port n).outside = false ∧
      (c.port n).settling = some (s.chip.clk.now + ms 2) ∧ (c.port n).retry = (s.chip.port n).retry ∧
      (∀ j, j ≠ n → c.port j = s.chip.port j) ∧ c.slots = s.chip.slots ∧ c.attrs = s.chip.attrs) ∧
    (∀ k, s.chip.power.main.up = true → objPresent s.chip.fuses.variant tyPort n = true → s.chip.retryApplies n k = true →
      (s.chip.portActive n = true ∨ (s.chip.port n).latched = true ∨ (s.chip.port n).outside = true) →
      Leads (.retryFault n k) s (s.chip.retryWith n (retryBit k))) ∧
    (∀ k, s.chip.power.main.up = false ∨ objPresent s.chip.fuses.variant tyPort n = false ∨ s.chip.retryApplies n k = false ∨
      (s.chip.portActive n = false ∧ (s.chip.port n).latched = false ∧ (s.chip.port n).outside = false) → Leads (.retryFault n k) s s.chip) ∧
    (∀ current, s.chip.power.main.up = false ∨ s.chip.portMode n ≠ mHbridge → Leads (.overloadAverageUpdate n current) s s.chip) ∧
    ((s.chip.port n).retry = none → Leads (.retryExpiry n) s s.chip) ∧
    ((s.chip.port n).settling = none → Leads (.settlingExpiry n) s (s.chip.portBack n)) ∧
    (∀ current all wide, s.chip.power.main.up = true → s.chip.portMode n = mHbridge →
      all = (s.chip.port n).samples ++ [if s.chip.portActive n then current else 0] →
      wide = decide (11 * s.chip.attrN tyPort n 5 * 1000 < 10 * (all.drop (all.length - 1000)).sum) →
      ((wide && !(s.chip.port n).meanOver) = false → Leads (.overloadAverageUpdate n current) s (s.chip.setPort n { s.chip.port n with
        samples := all.drop (all.length - 1000), meanOver := wide })) ∧
      ((wide && !(s.chip.port n).meanOver) = true → Leads (.overloadAverageUpdate n current) s ((s.chip.setPort n { s.chip.port n with
        samples := all.drop (all.length - 1000), meanOver := wide }).retryWith n 0x8))) ∧
    (∀ d, (s.chip.port n).retry = some d → ∃ c : Chip, Leads (.retryExpiry n) s c ∧ d ≤ c.clk.now ∧ (c.port n).retry = none ∧
      (c.port n).settling = some (c.clk.now + ms 2) ∧ (∀ j, j ≠ n → c.port j = s.chip.port j) ∧ c.slots = s.chip.slots ∧
      c.attrs = s.chip.attrs ∧ c.groups = s.chip.groups) ∧
    (∀ d, (s.chip.port n).settling = some d → ∃ c : Chip, Leads (.settlingExpiry n) s (c.portBack n) ∧ d ≤ c.clk.now ∧
      (c.port n).settling = none ∧ (c.portActive n = true → c.portMode n = mSbus → (c.port n).sbusDue = some c.clk.now) ∧
      (∀ j, j ≠ n → c.port j = s.chip.port j) ∧ c.slots = s.chip.slots ∧ c.attrs = s.chip.attrs ∧ c.groups = s.chip.groups) ∧
    (∀ termB mv i raw, i = (if termB then (s.chip.port n).inB else (s.chip.port n).inA) → raw = compare (s.chip.threshOf n) mv i.raw → ∃ c : Chip,
      Leads (.dinEdge n termB mv) s c ∧
      (raw = i.raw → (if termB then (c.port n).inB else (c.port n).inA) = { i with mv := mv }) ∧
      (raw ≠ i.raw → (if termB then (c.port n).inB else (c.port n).inA) = { i with
        mv := mv, raw := raw, since := s.chip.clk.now, edges := if s.chip.isInput n termB then i.edges + 1 else i.edges }) ∧
      (∀ t, termB = false → s.chip.isInput n termB = true → raw = true → i.raw = false → (s.chip.port n).lastRise = some t →
        (c.port n).periodA = BitVec.ofNat 32 (min 0xFFFFFFFF (s.chip.clk.now - t))) ∧
      (termB = false → s.chip.isInput n termB = true → raw = true → i.raw = false → (c.port n).lastRise = some s.chip.clk.now) ∧
      (termB = true ∨ s.chip.isInput n termB = false ∨ raw = false ∨ i.raw = true → (c.port n).periodA = (s.chip.port n).periodA ∧
        (c.port n).lastRise = (s.chip.port n).lastRise) ∧
      (∀ j, j ≠ n → c.port j = s.chip.port j) ∧ c.slots = s.chip.slots ∧ c.events = s.chip.events) ∧
    (∀ termB i, i = (if termB then (s.chip.port n).inB else (s.chip.port n).inA) → s.chip.isInput n termB = false ∨ i.level = some i.raw →
      Leads (.debounceExpiry n termB) s s.chip) ∧
    (∀ termB i, s.chip.isInput n termB = true → i = (if termB then (s.chip.port n).inB else (s.chip.port n).inA) → i.level ≠ some i.raw → ∃ c : Chip,
      i.since + ms (s.chip.attrN tyPort n 3) ≤ c.clk.now ∧ (if termB then (c.port n).inB else (c.port n).inA).level = some i.raw ∧
      (∀ j, j ≠ n → c.port j = s.chip.port j) ∧ c.slots = s.chip.slots ∧
      (i.level.isSome = true → bit (s.chip.attrN tyPort n 4) (2 * b2n termB + b2n (!i.raw)) = true → Leads (.debounceExpiry n termB) s
        ((c.writeLevel n termB i.raw).portCause n (if termB then 0x8000 else 0x4000))) ∧
      (i.level = none ∨ bit (s.chip.attrN tyPort n 4) (2 * b2n termB + b2n (!i.raw)) = false → Leads (.debounceExpiry n termB) s
        (c.writeLevel n termB i.raw))) ∧
    (∀ d reads, (s.chip.port n).sbusDue = some d → s.chip.portActive n = true → s.chip.portMode n = mSbus → ∃ (i : Nat) (c0 c : Chip),
      ((s.chip.port n).sbusAt = none → i = 0 ∧ d ≤ c0.clk.now ∧ c0 = (s.chip.waitUntil d).setPort n { (s.chip.waitUntil d).port n with
        sbusAt := some 0, sbusWire := [] }) ∧
      (∀ m, (s.chip.port n).sbusAt = some m → i = m ∧ c0 = s.chip) ∧
      c = Chip.sbusRun n i ((s.chip.attr tyPort n 17).drop (16 * i)) reads c0 ∧ c.attrs = s.chip.attrs ∧ c.groups = s.chip.groups ∧
      ((s.chip.attr tyPort n 17).length ≤ 16 * (i + reads.length) → Leads (.sbusPoll n reads) s (c.sbusEnd n)) ∧
      (16 * (i + reads.length) < (s.chip.attr tyPort n 17).length → Leads (.sbusPoll n reads) s (c.setPort n { c.port n with
        sbusAt := some (i + reads.length) }))) ∧
    (∀ reads, (s.chip.port n).sbusDue = none ∨ s.chip.portActive n = false ∨ s.chip.portMode n ≠ mSbus → Leads (.sbusPoll n reads) s s.chip) ∧
    (s.chip.portActive n = true → s.chip.portMode n = mSbus → ∃ c : Chip,
      c = (s.chip.sbusSend n [.ninePulses, .stop]).portCause n 0x40000 ∧ (c.port n).sbusAt = (s.chip.port n).sbusAt ∧
      ((s.chip.port n).sbusAt.isSome = true → Leads (.sbusStuck n) s (c.sbusEnd n)) ∧
      ((s.chip.port n).sbusAt = none → Leads (.sbusStuck n) s c)) ∧
    (s.chip.portActive n = false ∨ s.chip.portMode n ≠ mSbus → Leads (.sbusStuck n) s s.chip) ∧
    (∀ c : Chip, ((c.sbusEnd n).port n).sbusAt = none ∧
      ((c.sbusEnd n).port n).sbusDue = (c.port n).sbusDue.map (fun d => nextPoll d (ms (c.attrN tyPort n 16)) c.clk.now)) ∧
    (∀ d, (s.chip.port n).pyroUntil = some d → ∃ c : Chip, Leads (.pyroSettleExpiry n) s c ∧ d ≤ c.clk.now ∧ (c.port n).pyroUntil = none ∧
      (∀ j, j ≠ n → c.port j = s.chip.port j) ∧ c.slots = s.chip.slots ∧ c.attrs = s.chip.attrs) ∧
    ((s.chip.port n).pyroUntil = none → Leads (.pyroSettleExpiry n) s s.chip) ∧
    (s.chip.portMode n ≠ mVout → s.chip.portMode n ≠ mOdout → Leads (.outputSourceCheck n) s s.chip) ∧
    (s.chip.portActive n = false ∨ s.chip.portMode n ≠ mIin → Leads (.openLoop n) s s.chip) ∧
    (s.chip.portMode n = mVout ∨ s.chip.portMode n = mOdout → Leads (.outputSourceCheck n) s (s.chip.setPort n { s.chip.port n with
      staleA := (sidOf (s.chip.attrN tyPort n 12)).bind s.chip.noteStale, staleB := (sidOf (s.chip.attrN tyPort n 13)).bind s.chip.noteStale })) ∧
    (s.chip.portActive n = true → s.chip.portMode n = mIin → Leads (.openLoop n) s (s.chip.portCause n 0x20))) ∧
  (∀ (c : Chip) (n b : Nat),
    (((c.portCause n b).port n).fault = (c.port n).fault ||| (BitVec.ofNat 32 b &&& keptFaults) ∧
      (∀ j, j ≠ n → (c.portCause n b).port j = c.port j) ∧ (c.portCause n b).slots = c.slots ∧ (c.portCause n b).attrs = c.attrs ∧
      (c.portCause n b).groups = c.groups ∧ (c.portCause n b).motors = c.motors) ∧
    (∀ times, times = ((c.port n).faultTimes.filter (fun t => decide (c.clk.now ≤ t + sec 60))) ++ [c.clk.now] →
      ((c.retryFault n b).port n).faultTimes = times ∧
      (((c.port n).latched || (c.port n).outside) = true → ((c.retryFault n b).port n).retry = (c.port n).retry ∧
        ((c.retryFault n b).port n).latched = (c.port n).latched) ∧
      (((c.port n).latched || (c.port n).outside) = false → times.length < 3 → ((c.retryFault n b).port n).retry = some (c.clk.now + sec 1) ∧
        ((c.retryFault n b).port n).latched = false) ∧
      (((c.port n).latched || (c.port n).outside) = false → 3 ≤ times.length → ((c.retryFault n b).port n).retry = none ∧
        ((c.retryFault n b).port n).latched = true) ∧
      (∀ j, j ≠ n → (c.retryFault n b).port j = c.port j)))

/-- The rows of the sampler. A sequence's earliest due pass waits, or counts an overrun with E33 where a pass of it runs or
waits already; a PERIODIC sequence is next due a period later. The waiting pass, unless another of its slices ranks before it or
the island is held, takes the settings that have reached the sampler and starts when its slices are free; its results fall due
entry by entry; a head without HEAD in those settings ends the sequence. A result that arrives takes its channel's value: an
absent channel has none, any other its code, the average of the codes, 0xFFF with OVR and 0 with UNR, and an HBRIDGE current
feeds its motor. A pass ends with its count, with E32 where its settings ask, and with the reply to a SEQ_STOP that waited.
Equalisation of a slice, and a housekeeping conversion on ADC3, wait for their due time and take an idle slot or one inserted
into a starved pass, and are next due 10 ms later (1 ms for the site channels); slice 0's equalisation is the reference, and the
trims of the others stay within ±512 and ±20000 (their formulas are the model's: log entry 80). A motor in motion without a
count loses its position. Each row out of its condition changes nothing. -/
def Obligations.PassesRunAndConvert : Prop :=
  ∀ (s : State) (h : Nat),
    (∀ d left n, (s.chip.seq h).dues ≠ [] → some d = (s.chip.seq h).dues.min? →
      left = (s.chip.seq h).dues.erase d ++
        (if seTrig (s.chip.seq h).live.ctl = 0 ∧ (s.chip.seq h).armed = true then [d + (s.chip.seq h).live.period] else []) →
      n = (if (s.chip.seq h).overruns = 0xFFFF then (s.chip.seq h).overruns else (s.chip.seq h).overruns + 1) →
      ((s.chip.passRuns h d || (s.chip.seq h).waiting.isSome) = false → Leads (.seqPassDue h) s
        ((s.chip.waitUntil d).setSeq h { s.chip.seq h with dues := left, waiting := some d })) ∧
      ((s.chip.passRuns h d || (s.chip.seq h).waiting.isSome) = true → Leads (.seqPassDue h) s
        (((s.chip.waitUntil d).setSeq h { s.chip.seq h with dues := left, overruns := n }).fire 33
          (h + 256 * b2n (s.chip.seq h).waiting.isSome + 65536 * n.toNat)))) ∧
    ((s.chip.seq h).dues = [] → Leads (.seqPassDue h) s s.chip) ∧
    (∀ d first set, (s.chip.seq h).waiting = some d →
      first = s.chip.slicesFree (seSlices ((s.chip.seq h).settings (max d s.chip.clk.now)).ctl) (max d s.chip.clk.now) →
      set = (s.chip.seq h).settings first →
      (s.chip.outranked h d (seSlices set.ctl) = true ∨ s.chip.islandHeld = true → Leads (.seqPassStart h) s s.chip) ∧
      (s.chip.outranked h d (seSlices set.ctl) = false → s.chip.islandHeld = false → seHead set.ctl = false → Leads (.seqPassStart h) s
        (s.chip.setSeq h { s.chip.seq h with armed := false, dues := [], waiting := none, live := set, changes := [] })) ∧
      (∀ start, s.chip.outranked h d (seSlices set.ctl) = false → s.chip.islandHeld = false → seHead set.ctl = true →
        start = s.chip.slicesFree (seSlices set.ctl) first → ∃ c : Chip,
        Leads (.seqPassStart h) s c ∧ start ≤ c.clk.now ∧ (c.seq h).waiting = none ∧ (c.seq h).live = set ∧
        (c.seq h).armed = ((s.chip.seq h).armed && seTrig set.ctl != 2) ∧
        c.sampler.passes = s.chip.sampler.passes ++
          [⟨h, set.ctl, start, start + (set.entries.map (fun e => entryTime set.ctl e.2)).sum, seSlices set.ctl⟩] ∧
        c.sampler.dues = s.chip.sampler.dues ++ resultsFrom h set.ctl set.entries start ∧
        c.sampler.results = s.chip.sampler.results ∧ SamePlant s.chip c)) ∧
    ((s.chip.seq h).waiting = none → Leads (.seqPassStart h) s s.chip) ∧
    (∀ e codes high low band cur skew r, s.chip.sampler.dues.find? (fun r => r.entry == e) = some r →
      (codes.length ≠ 2 ^ seAvg r.word → Leads (.conversionResult e codes high low (band, cur) skew) s s.chip) ∧
      (codes.length = 2 ^ seAvg r.word → ∃ c : Chip,
        c = ((s.chip.waitUntil r.arrive).setSampler (fun m => { m with dues := m.dues.erase r })).trimSkew r.ctl skew ∧
        r.arrive ≤ c.clk.now ∧ SamePlant s.chip c ∧
        (s.chip.channelAbsent (seCh r.word) = true → Leads (.conversionResult e codes high low (band, cur) skew) s (c.absentResult r)) ∧
        (s.chip.channelAbsent (seCh r.word) = false → ¬ (seCh r.word < 64 ∧ seCh r.word % 2 = 0 ∧ s.chip.portMode (seCh r.word / 2) = mHbridge ∧
            (c.goodResult r codes high low).motorBound (seCh r.word / 2) = true) →
          Leads (.conversionResult e codes high low (band, cur) skew) s (c.goodResult r codes high low)) ∧
        (s.chip.channelAbsent (seCh r.word) = false → seCh r.word < 64 → seCh r.word % 2 = 0 → s.chip.portMode (seCh r.word / 2) = mHbridge →
          (c.goodResult r codes high low).motorBound (seCh r.word / 2) = true →
          Leads (.conversionResult e codes high low (band, cur) skew) s
            (((c.goodResult r codes high low).countRipple (seCh r.word / 2) band cur).checkLead (seCh r.word / 2))))) ∧
    (∀ e codes high low band cur skew, s.chip.sampler.dues.find? (fun r => r.entry == e) = none →
      Leads (.conversionResult e codes high low (band, cur) skew) s s.chip) ∧
    (∀ (c : Chip) r codes high low, ∃ ovr unr calx fresh : Bool, (high = true → ovr = true) ∧ (low = true → unr = true) ∧
      (c.goodResult r codes high low).sampler = (c.putResult r.entry
        (c.codeOf (averageOf 1 (codes.map (fun x => min x 4095)).sum codes.length) ovr unr) ovr unr calx fresh r.stamp).sampler ∧
      (ovr = true → unr = false → c.codeOf (averageOf 1 (codes.map (fun x => min x 4095)).sum codes.length) ovr unr = 0xFFF) ∧
      (ovr = false → unr = true → c.codeOf (averageOf 1 (codes.map (fun x => min x 4095)).sum codes.length) ovr unr = 0)) ∧
    (∀ p, s.chip.sampler.passes.find? (fun p => p.head == h) = some p → ∃ c d : Chip, p.ends ≤ c.clk.now ∧
      (c.seq h).passes = (s.chip.seq h).passes + 1 ∧ (c.seq h).lastPass = BitVec.ofNat 32 (p.ends - p.start + 10) ∧ (c.seq h).stopCmd = none ∧
      c.sampler.passes = s.chip.sampler.passes.filter (fun q => q.head != h) ∧ c.sampler.results = s.chip.sampler.results ∧ SamePlant s.chip c ∧
      (bit p.ctl 11 = true → d = c.fire 32 (h + 65536 * (((s.chip.seq h).passes + 1).toNat % 65536))) ∧ (bit p.ctl 11 = false → d = c) ∧
      ((s.chip.seq h).stopCmd = none → Leads (.seqPassEnd h) s d) ∧
      (∀ x t, (s.chip.seq h).stopCmd = some (x, t) → Leads (.seqPassEnd h) s (d.finishTag x t stOK noOfs []))) ∧
    (s.chip.sampler.passes.find? (fun p => p.head == h) = none → Leads (.seqPassEnd h) s s.chip) ∧
    (∀ slice ref zero, 3 ≤ slice ∨ s.chip.islandHeld = true ∨
        (s.chip.waitUntil (Tbl.get dZero s.chip.sampler.eqDue slice)).takeSlots slice (ms 10) 80 = none →
      Leads (.equalisation slice ref zero) s s.chip) ∧
    (∀ slice ref zero c, slice < 3 → s.chip.islandHeld = false →
      (s.chip.waitUntil (Tbl.get dZero s.chip.sampler.eqDue slice)).takeSlots slice (ms 10) 80 = some c → ∃ d : Chip,
      Leads (.equalisation slice ref zero) s d ∧ SamePlant s.chip d ∧ d.sampler.results = s.chip.sampler.results ∧
      Tbl.get dZero d.sampler.eqDue slice = Tbl.get dZero s.chip.sampler.eqDue slice + ms 10 ∧
      (slice = 0 → d.sampler.eqRef = (min ref 4095, min zero 4095) ∧ d.sampler.offsets = c.sampler.offsets ∧ d.sampler.gains = c.sampler.gains) ∧
      (∀ gain : Int, slice ≠ 0 → gain = (if min ref 4095 = min zero 4095 then 0 else
          divr ((((c.sampler.eqRef.1 : Int) - c.sampler.eqRef.2) - (((min ref 4095 : Nat) : Int) - (min zero 4095 : Nat))) * 1000000)
            (((min ref 4095 : Nat) : Int) - (min zero 4095 : Nat))) → d.sampler.offsets = c.sampler.offsets.set (slice - 1)
          (clampI (-512) 512 (16 * ((c.sampler.eqRef.2 : Int) - (min zero 4095 : Nat)))) ∧
        d.sampler.gains = c.sampler.gains.set (slice - 1) (clampI (-20000) 20000 gain) ∧ d.sampler.eqRef = c.sampler.eqRef)) ∧
    (∀ ch code, ch < 64 ∨ s.chip.channelAbsent ch = true ∨ s.chip.islandHeld = true ∨
        (s.chip.waitUntil (Tbl.get dZero s.chip.sampler.hkDue ch)).takeSlots 3 (ms 1) 40 = none → Leads (.housekeeping ch code) s s.chip) ∧
    (∀ ch code c, 64 ≤ ch → s.chip.channelAbsent ch = false → s.chip.islandHeld = false →
      (s.chip.waitUntil (Tbl.get dZero s.chip.sampler.hkDue ch)).takeSlots 3 (ms 1) 40 = some c → ∃ d : Chip, Leads (.housekeeping ch code) s d ∧
      Tbl.get dZero d.sampler.codes ch = min code 4095 ∧ (∀ j, j ≠ ch → Tbl.get dZero d.sampler.codes j = Tbl.get dZero s.chip.sampler.codes j) ∧
      Tbl.get dZero d.sampler.hkDue ch = Tbl.get dZero s.chip.sampler.hkDue ch + (if 72 ≤ ch ∧ ch ≤ 75 then ms 1 else ms 10) ∧
      d.sampler.results = s.chip.sampler.results ∧ SamePlant s.chip d) ∧
    (∀ mv, (s.chip.motor h).move = some mv → mv.phase = .drive → s.chip.inMotion h = true → Leads (.rippleLost h) s
      (((s.chip.waitUntil (s.chip.quietSince h (s.chip.motor h).crossedAt mv + max (ms 100) (10 * sec 1 / (s.chip.motorCfg h).fMin))).losePosition
        h 2 2).valveFault h 4 false)) ∧
    ((∀ mv, (s.chip.motor h).move = some mv → mv.phase ≠ .drive) ∨ s.chip.inMotion h = false → Leads (.rippleLost h) s s.chip)

/-- The rows of dampers and valves. While a leg drives: the current that has stood at the stop's level for ENDSTOP_MS without a
count is a touch, which sets the count at that end, or, beyond the end tolerance of a position that is known, a jam; a current
below the running level for 500 ms is an open load, and a homing leg's run has its longest time. A brake that has come to rest
learns the lead and is judged: beyond the deadband it corrects, twice at most (after that the outcome is an open value), else
the move ends. The dwell's end drives the leg, or the floating valve that waited. The interval for re-homing is noted when it is
over; a changed target beyond the deadband starts a move of a damper at rest with a known position; the position is written at
its time. A thermal valve's boost ends, an applied coil that is open is a fault, and a floating valve's drive ends at its
estimate and follows on. Each row out of its condition changes nothing. -/
def Obligations.DampersAndValvesMove : Prop :=
  ∀ (s : State) (n : Nat),
    (∀ mv, (s.chip.motor n).move = some mv → mv.phase = .drive →
      ((s.chip.motor n).current.natAbs < (s.chip.motorCfg n).stopI → Leads (.endstopTouch n) s s.chip) ∧
      (∀ c, (s.chip.motorCfg n).stopI ≤ (s.chip.motor n).current.natAbs →
        c = s.chip.waitUntil (s.chip.quietSince n (s.chip.motor n).stallAt mv + ms (s.chip.motorCfg n).stopMs) →
        (c.touchAccepted n mv.opening = true → ∃ (reject : Bool) (d : Chip), (reject, d) = c.acceptTouch n mv.opening ∧
          Leads (.endstopTouch n) s (d.afterTouch n mv reject) ∧ (d.motor n).known = true ∧
          (d.motor n).count = (if mv.opening then ((d.motor n).cps : Int) else 0)) ∧
        (c.touchAccepted n mv.opening = false → ∃ d : Chip, Leads (.endstopTouch n) s ((d.endMove n 1).valveFault n 3 true) ∧
          d.motor n = { c.motor n with jam := true, faultAt := some c.clk.now })) ∧
      (s.chip.inMotion n = true → Leads (.damperOpenLoad n) s s.chip) ∧
      (∀ c, s.chip.inMotion n = false → c = s.chip.waitUntil (max (s.chip.motor n).crossedAt mv.legStart + ms 500) → ∃ d : Chip,
        Leads (.damperOpenLoad n) s ((d.endMove n 4).valveFault n 0 true) ∧
        d.motor n = { c.motor n with openLoad := true, faultAt := some c.clk.now }) ∧
      (mv.kind = .move → Leads (.maxRunExpiry n) s s.chip) ∧
      (mv.kind ≠ .move → Leads (.maxRunExpiry n) s
        ((s.chip.waitUntil (mv.legStart + sec (s.chip.motorCfg n).maxRun)).losePosition n 3 3))) ∧
    ((∀ mv, (s.chip.motor n).move = some mv → mv.phase ≠ .drive) → Leads (.endstopTouch n) s s.chip ∧ Leads (.damperOpenLoad n) s s.chip ∧
      Leads (.maxRunExpiry n) s s.chip) ∧
    (∀ mv b, (s.chip.motor n).move = some mv → mv.phase = .brake → mv.brakeAt = some b →
      ((s.chip.motor n).current.natAbs < (s.chip.motorCfg n).iMin → Leads (.damperMoveEnd n) s
        (((s.chip.waitUntil ((s.chip.motor n).crossedAt + ms 20)).setMotor n { s.chip.motor n with
          lead := nextLead (s.chip.motor n).lead (s.chip.motorCps n) ((s.chip.motor n).count - b).natAbs }).judgeStop n mv)) ∧
      ((s.chip.motorCfg n).iMin ≤ (s.chip.motor n).current.natAbs → Leads (.damperMoveEnd n) s s.chip)) ∧
    ((∀ mv, (s.chip.motor n).move = some mv → mv.phase ≠ .brake ∨ mv.brakeAt = none) → Leads (.damperMoveEnd n) s s.chip) ∧
    (∀ (c : Chip) (mv : Move), c.beyondDeadband n mv.target = true → mv.corrections < 2 → c.judgeStop n mv =
      (c.writePosition n).startLeg n { mv with kind := .move, opening := c.opensTo n mv.target, corrections := mv.corrections + 1 } false) ∧
    (∀ (c : Chip) (mv : Move), c.beyondDeadband n mv.target = true → 2 ≤ mv.corrections → ∃ o, o < 9 ∧ c.judgeStop n mv = c.nextFree.endMove n o) ∧
    (∀ (c : Chip) (mv : Move), c.beyondDeadband n mv.target = false → c.judgeStop n mv = c.endMove n (if mv.cpsReject then 7 else 0)) ∧
    (∀ mv d, (s.chip.motor n).move = some mv → mv.phase = .dwell → mv.ends = some d → ∃ c : Chip, Leads (.dwellExpiry n) s c ∧ d ≤ c.clk.now ∧
      (c.motor n).move = some { mv with phase := .drive, ends := none, legStart := c.clk.now, brakeAt := none } ∧
      (c.motor n).lastOpening = some mv.opening ∧ (∀ j, j ≠ n → c.motor j = s.chip.motor j) ∧ c.slots = s.chip.slots ∧
      c.attrs = s.chip.attrs ∧ c.valves = s.chip.valves) ∧
    (∀ mv, (s.chip.motor n).move = some mv → mv.phase ≠ .dwell ∨ mv.ends = none → Leads (.dwellExpiry n) s s.chip) ∧
    (∀ o d sync, (s.chip.motor n).move = none → (s.chip.valve n).waitDrive = some (o, d) →
      sync = ((s.chip.valve n).est.isNone && bit (s.chip.attrN tyValve n 1) 6) → ∃ c : Chip, Leads (.dwellExpiry n) s c ∧ d ≤ c.clk.now ∧
      (c.valve n).lastOpening = some o ∧ (c.valve n).waitDrive = none ∧ (c.valve n).drive = some (o, c.clk.now,
        c.clk.now + (if sync then sec (s.chip.travel n) * 6 / 5 else s.chip.floatTime n (s.chip.valve n).applied),
        sync || (s.chip.valve n).applied == 0 || (s.chip.valve n).applied == 65536) ∧
      (∀ j, j ≠ n → c.valve j = s.chip.valve j) ∧ c.motors = s.chip.motors ∧ c.slots = s.chip.slots) ∧
    ((s.chip.motor n).move = none → (s.chip.valve n).waitDrive = none → Leads (.dwellExpiry n) s s.chip) ∧
    (s.chip.motorBound n = true → (s.chip.motorCfg n).rehomeInt ≠ 0 → (s.chip.motor n).touchStop.isSome = true → ∃ c : Chip,
      Leads (.rehomeIntExpiry n) s c ∧ (s.chip.motor n).touchTime + sec (3600 * (s.chip.motorCfg n).rehomeInt) ≤ c.clk.now ∧
      c.motor n = { s.chip.motor n with intervalDue := true } ∧ (∀ j, j ≠ n → c.motor j = s.chip.motor j) ∧ c.slots = s.chip.slots) ∧
    (s.chip.motorBound n = false ∨ (s.chip.motorCfg n).rehomeInt = 0 ∨ (s.chip.motor n).touchStop = none → Leads (.rehomeIntExpiry n) s s.chip) ∧
    (∀ t, (s.chip.motor n).move = none → s.chip.motorTarget n = some t → (s.chip.motor n).known = true → s.chip.beyondDeadband n t = true →
      Leads (.damperTargetChange n) s (s.chip.beginMove n .move t none false) ∧
      (s.chip.damperBound n = true → Leads (.actuatorSourceCheck n) s (s.chip.beginMove n .move t none false))) ∧
    ((s.chip.motor n).move.isSome = true ∨ (s.chip.motor n).known = false ∨ (∀ t, s.chip.motorTarget n = some t → s.chip.beyondDeadband n t = false) →
      Leads (.damperTargetChange n) s s.chip ∧ (s.chip.damperBound n = true → Leads (.actuatorSourceCheck n) s s.chip)) ∧
    (s.chip.motorBound n = true → (s.chip.motor n).known = true → ∃ c : Chip, Leads (.positionWrite n) s (c.writePosition n) ∧
      (s.chip.motor n).posWritten + (if (s.chip.motor n).move.isSome then ms 100 else sec 1) ≤ c.clk.now ∧ c.motors = s.chip.motors ∧
      c.slots = s.chip.slots ∧ ((c.writePosition n).motor n).posWritten = c.clk.now) ∧
    (s.chip.motorBound n = false ∨ (s.chip.motor n).known = false → Leads (.positionWrite n) s s.chip) ∧
    (∀ d, (s.chip.valve n).boostEnd = some d → ∃ c : Chip, Leads (.boostExpiry n) s (c.writeEstimate n) ∧ d ≤ c.clk.now ∧
      c.valve n = { s.chip.valve n with boostEnd := none } ∧ (∀ j, j ≠ n → c.valve j = s.chip.valve j) ∧ c.slots = s.chip.slots) ∧
    ((s.chip.valve n).boostEnd = none → Leads (.boostExpiry n) s s.chip) ∧
    (s.chip.valveBound n = true → s.chip.valveKind n = 0 → 0 < (s.chip.valve n).applied → ∃ c : Chip,
      Leads (.valveOpenLoad n) s (c.fire 63 n) ∧ (c.valve n).fault = true ∧ (c.valve n).lastFault = 0 ∧
      (∀ j, j ≠ n → c.valve j = s.chip.valve j) ∧ c.slots = s.chip.slots ∧ c.motors = s.chip.motors) ∧
    (s.chip.valveBound n = false ∨ s.chip.valveKind n ≠ 0 ∨ (s.chip.valve n).applied = 0 → Leads (.valveOpenLoad n) s s.chip) ∧
    (∀ o t0 t1 toEnd, (s.chip.valve n).drive = some (o, t0, t1, toEnd) → toEnd = true ∨ (s.chip.valve n).est = none → ∃ c : Chip,
      Leads (.floatingValveDriveEnd n) s ((c.writeEstimate n).followFloat n) ∧
      t1 ≤ c.clk.now ∧ (c.valve n).est = some (if o then 65536 else 0) ∧ (c.valve n).drive = none ∧
      (∀ j, j ≠ n → c.valve j = s.chip.valve j) ∧ c.slots = s.chip.slots) ∧
    (∀ o t0 t1 e, (s.chip.valve n).drive = some (o, t0, t1, false) → (s.chip.valve n).est = some e → ∃ c : Chip,
      Leads (.floatingValveDriveEnd n) s ((c.writeEstimate n).followFloat n) ∧ t1 ≤ c.clk.now ∧
      (c.valve n).est = some (driveEst e (s.chip.travel n) o (t1 - t0)) ∧ (c.valve n).drive = none) ∧
    ((s.chip.valve n).drive = none → Leads (.floatingValveDriveEnd n) s s.chip)

/-- The rows of fans. A spin-up whose edges suffice runs, one that fails is tried again after 5 s, at most three times, and then
stalls with E56; the gap's end starts the next attempt. An edge of the tachometer counts and, after another, measures the speed;
a fan that should turn and gives no edge in time has lost its tachometer, with E57; a second without an edge writes a speed of
0. The host's watchdog, armed and enabled, forces every fan, with E58. The row that checks a port's source judges its fan where
one is bound and no damper, and else its valve. Each row out of its condition changes nothing. -/
def Obligations.FansSpinUpAndAreWatched : Prop :=
  ∀ (s : State) (n : Nat),
    (∀ d, (s.chip.fan n).state = .spinup → (s.chip.fan n).ends = some d → s.chip.groupRuns n = true → ∃ c : Chip, d ≤ c.clk.now ∧
      (∀ j, j ≠ n → c.fan j = s.chip.fan j) ∧ c.slots = s.chip.slots ∧
      (s.chip.attrN tyFan n 4 ≤ (s.chip.fan n).edges → Leads (.spinupWindowEnd n) s (c.noteLowered n 65536) ∧ (c.fan n).state = .run ∧
        (c.fan n).attempt = 0) ∧
      ((s.chip.fan n).edges < s.chip.attrN tyFan n 4 → (s.chip.fan n).attempt < 3 → Leads (.spinupWindowEnd n) s (c.noteLowered n 65536) ∧
        (c.fan n).state = .gap ∧ (c.fan n).ends = some (d + sec 5)) ∧
      ((s.chip.fan n).edges < s.chip.attrN tyFan n 4 → 3 ≤ (s.chip.fan n).attempt → Leads (.spinupWindowEnd n) s
        (c.fire 56 (n + 256 * min 255 (s.chip.fan n).edges)) ∧ (c.fan n).state = .stall)) ∧
    ((s.chip.fan n).state ≠ .spinup ∨ (s.chip.fan n).ends = none ∨ s.chip.groupRuns n = false → Leads (.spinupWindowEnd n) s s.chip) ∧
    ((s.chip.fan n).state ≠ .gap ∨ (s.chip.fan n).ends = none ∨ s.chip.groupRuns n = false → Leads (.gapEnd n) s s.chip) ∧
    (s.chip.fanBound n = false ∨ s.chip.portActive n = false ∨ (s.chip.fan n).lastEdge = some s.chip.clk.now → Leads (.tachEdge n) s s.chip) ∧
    ((s.chip.fan n).state ≠ .run ∨ s.chip.fanF n = 0 ∨ s.chip.groupRuns n = false → Leads (.tachLost n) s s.chip) ∧
    (s.chip.fanBound n = false ∨ s.chip.portActive n = false → Leads (.speedZero n) s s.chip) ∧
    (s.chip.attrN tyDevice 0 0x701 ≠ 1 ∨ s.chip.dogs.fanArmed = false ∨ s.chip.dogs.fanForced = true → Leads .fanWatchdog s s.chip) ∧
    (∀ d, (s.chip.fan n).state = .gap → (s.chip.fan n).ends = some d → s.chip.groupRuns n = true → ∃ c : Chip, Leads (.gapEnd n) s c ∧
      d ≤ c.clk.now ∧ (c.fan n).state = .spinup ∧ (c.fan n).attempt = (s.chip.fan n).attempt + 1 ∧ (c.fan n).edges = 0 ∧
      (c.fan n).ends = some (d + ms (s.chip.attrN tyFan n 3)) ∧ (∀ j, j ≠ n → c.fan j = s.chip.fan j) ∧ c.slots = s.chip.slots) ∧
    (s.chip.fanBound n = true → s.chip.portActive n = true → (s.chip.fan n).lastEdge = none → ∃ c : Chip, Leads (.tachEdge n) s c ∧
      (c.fan n).lastEdge = some s.chip.clk.now ∧ (c.fan n).edges = (if (s.chip.fan n).state = .spinup then (s.chip.fan n).edges + 1
        else (s.chip.fan n).edges) ∧ (∀ j, j ≠ n → c.fan j = s.chip.fan j) ∧ c.slots = s.chip.slots) ∧
    (∀ t dt, s.chip.fanBound n = true → s.chip.portActive n = true → (s.chip.fan n).lastEdge = some t → dt = s.chip.clk.now - t → dt ≠ 0 → ∃ c : Chip,
      Leads (.tachEdge n) s c ∧ (c.fan n).lastEdge = some s.chip.clk.now ∧ (c.fan n).interval = dt ∧
      (c.fan n).rpm = min 65535 (divr (60 * 40000000) (dt * s.chip.fanPpr n : Nat)).toNat ∧
      (∀ j, j ≠ n → c.fan j = s.chip.fan j) ∧ c.attrs = s.chip.attrs) ∧
    ((s.chip.fan n).state = .run → s.chip.fanF n ≠ 0 → s.chip.groupRuns n = true → ∃ c : Chip,
      Leads (.tachLost n) s (c.fire 57 (n + 65536 * (s.chip.fan n).runRpm)) ∧ (c.fan n).state = .tachLost ∧
      (s.chip.fan n).lastEdge.getD s.chip.clk.now + s.chip.tachTimeout n ≤ c.clk.now ∧ (∀ j, j ≠ n → c.fan j = s.chip.fan j) ∧
      c.slots = s.chip.slots) ∧
    (s.chip.fanBound n = true → s.chip.portActive n = true → ∃ c : Chip,
      (s.chip.fan n).lastEdge.getD (s.chip.port n).onAt + sec 1 ≤ c.clk.now ∧ (c.fan n).speedAt = c.clk.now ∧
      c.slots = s.chip.slots ∧ c.attrs = s.chip.attrs ∧ Leads (.speedZero n) s
        (c.produceOpt (sidOf (s.chip.attrN tyFan n 11)) 0 (s.chip.fanQuality n) actuatorType n)) ∧
    (s.chip.attrN tyDevice 0 0x701 = 1 → s.chip.dogs.fanArmed = true → s.chip.dogs.fanForced = false → ∃ c : Chip,
      Leads .fanWatchdog s (c.fire 58 (s.chip.attrN tyDevice 0 0x700 + 256 * s.chip.boundFans.length)) ∧ c.dogs.fanForced = true ∧
      s.chip.dogs.fanBeat + sec (s.chip.attrN tyDevice 0 0x700) ≤ c.clk.now ∧ c.fans = s.chip.fans ∧ c.slots = s.chip.slots) ∧
    (s.chip.damperBound n = false → s.chip.fanBound n = true → Leads (.actuatorSourceCheck n) s (s.chip.checkFan n)) ∧
    (s.chip.damperBound n = false → s.chip.fanBound n = false → Leads (.actuatorSourceCheck n) s (s.chip.checkValve n))

/-- The rows of the loop engine. A trigger of an enabled loop, PERIODIC by the transit reference or the oldest that an event or
a slot left, is accepted where it comes no sooner than a period after the last and no evaluation waits, with its bank and its
class's deadline (a swap of the bank fires E68), and else is skipped and counted. A lane of the running main side goes on with
the evaluation it holds, unless one of a higher class preempts it while all lanes are busy, or takes the next one; it runs as
many node words as the row says, an evaluation that starts is no longer waiting, and one whose last word has run ends. A class 2
or 3 evaluation that waits over four periods becomes class 1 with E67; a saturation that lasts as long as the alarm says raises
it, with E66. Each row out of its condition changes nothing. -/
def Obligations.LoopsAreTriggeredAndRun : Prop :=
  ∀ (s : State) (l : Nat),
    (∀ d, (s.chip.loop l).enabled = true → bits (s.chip.loopCfg l) 2 2 = 0 → (s.chip.loop l).nextDue = some d → s.chip.transitComes d = true →
      ∃ (c : Chip) (due : Nat), c = (s.chip.waitTransit d).setLoop l { s.chip.loop l with nextDue := some (d + s.chip.loopPeriod l) } ∧
      due = c.clk.now - (c.clk.transit - d) ∧ d ≤ c.clk.transit ∧ Leads (.loopTrigger l) s (c.issueTrig l ⟨due, c.stampAt due⟩)) ∧
    (∀ t rest, (s.chip.loop l).enabled = true → bits (s.chip.loopCfg l) 2 2 ≠ 0 → (s.chip.loop l).trigs = t :: rest → ∃ c : Chip,
      c = (s.chip.waitUntil t.due).setLoop l { s.chip.loop l with trigs := rest } ∧ t.due ≤ c.clk.now ∧
      Leads (.loopTrigger l) s (c.issueTrig l t)) ∧
    ((s.chip.loop l).enabled = false ∨ (bits (s.chip.loopCfg l) 2 2 = 0 ∧ ∀ d, (s.chip.loop l).nextDue = some d → s.chip.transitComes d = false) ∨
      (bits (s.chip.loopCfg l) 2 2 ≠ 0 ∧ (s.chip.loop l).trigs = []) → Leads (.loopTrigger l) s s.chip) ∧
    (∀ (c : Chip) t, (∃ d, (c.loop l).lastAccepted = some d ∧ t.due < d + c.loopPeriod l) ∨ (c.loop l).pending.isSome = true →
      c.issueTrig l t = c.setLoop l { c.loop l with
        skipped := if (c.loop l).skipped = 0xFFFF then (c.loop l).skipped else (c.loop l).skipped + 1 }) ∧
    (∀ (c : Chip) t, (∀ d, (c.loop l).lastAccepted = some d → d + c.loopPeriod l ≤ t.due) → (c.loop l).pending = none → ∃ (d : Chip) (e : Eval),
      (d.loop l).pending = some e ∧ (d.loop l).lastAccepted = some t.due ∧ e.due = t.due ∧ e.ref = t.ref ∧
      e.cls = c.loopClass l ∧ e.bank = (c.loop l).swap.getD (c.loop l).bank ∧ (d.loop l).bank = e.bank ∧
      (d.loop l).swap = none ∧ e.deadline = t.due + (if e.cls = 0 then ms 1 else if e.cls = 1 then min (c.loopPeriod l) (ms 5)
        else c.loopPeriod l) ∧ (∀ j, j ≠ l → d.loop j = c.loop j) ∧ SamePlant c d ∧
      (e.bank = (c.loop l).bank → c.issueTrig l t = d) ∧
      (e.bank ≠ (c.loop l).bank → c.issueTrig l t = d.fire 68 (l + 512 * b2n e.bank))) ∧
    (∀ lane words, s.chip.power.main.up = false ∨ 4 ≤ lane → Leads (.loopEvaluation (lane, words)) s s.chip) ∧
    (∀ lane words, s.chip.power.main.up = true → lane < 4 → s.chip.runningOn lane = none → s.chip.nextEval = none →
      Leads (.loopEvaluation (lane, words)) s s.chip) ∧
    (∀ lane words m e, s.chip.power.main.up = true → lane < 4 → s.chip.runningOn lane = none → s.chip.nextEval = some (m, e) →
      Leads (.loopEvaluation (lane, words)) s ((s.chip.takeEval m lane e).runWords m words)) ∧
    (∀ lane words k, s.chip.power.main.up = true → lane < 4 → s.chip.runningOn lane = some k →
      ((∀ m e r, s.chip.nextPending = some (m, e) → (s.chip.loop k).running = some r → s.chip.preempts e r.eval.cls = false) →
        Leads (.loopEvaluation (lane, words)) s (s.chip.runWords k words)) ∧
      (∀ m e r, s.chip.nextPending = some (m, e) → (s.chip.loop k).running = some r → s.chip.preempts e r.eval.cls = true →
        Leads (.loopEvaluation (lane, words)) s (((s.chip.moveLane k none).takeEval m lane e).runWords m words))) ∧
    (∀ (c : Chip) lane e, (c.loop l).running = none → ∃ r, ((c.takeEval l lane e).loop l).running = some r ∧ r.eval = e ∧ r.lane = some lane ∧
      r.done = [] ∧ r.orphan = false ∧ ((c.takeEval l lane e).loop l).pending = none ∧ (∀ j, j ≠ l → (c.takeEval l lane e).loop j = c.loop j) ∧
      SamePlant c (c.takeEval l lane e)) ∧
    (∀ (c : Chip) n r, (c.loop l).running = some r →
      (r.eval.nodes.length ≤ r.done.length + n → ((c.runWords l n).loop l).running = none ∧
        (r.orphan = false → ((c.runWords l n).loop l).evalBank = r.eval.bank)) ∧
      (r.done.length + n < r.eval.nodes.length → ∃ q, ((c.runWords l n).loop l).running = some q ∧ q.done.length = r.done.length + n ∧
        q.eval = r.eval) ∧
      (∀ j, ((c.runWords l n).loop j).pending = (c.loop j).pending) ∧ (c.runWords l n).attrs = c.attrs ∧ (c.runWords l n).groups = c.groups) ∧
    (∀ e, (s.chip.loop l).pending = some e → 2 ≤ e.cls → ∃ c : Chip,
      Leads (.starved l) s (c.fire 67 (l + 512 * e.cls + 65536 * (((s.chip.loop l).starved + 1).toNat % 65536))) ∧
      e.due + 4 * s.chip.loopPeriod l ≤ c.clk.now ∧ (c.loop l).pending = some { e with cls := 1, aged := true } ∧
      (c.loop l).starved = (s.chip.loop l).starved + 1 ∧ (∀ j, j ≠ l → c.loop j = s.chip.loop j) ∧ SamePlant s.chip c) ∧
    ((∀ e, (s.chip.loop l).pending = some e → e.cls < 2) → Leads (.starved l) s s.chip) ∧
    (∀ t, (s.chip.loop l).satSince = some t → s.chip.attrN tyLoop l 8 ≠ 0 → (s.chip.loop l).alarmTold = false → s.chip.clk.refRun = true → ∃ c : Chip,
      Leads (.satAlarm l) s (c.fire 66 (l + 65536 * s.chip.attrN tyLoop l 8)) ∧ (c.loop l).alarm = true ∧ (c.loop l).alarmTold = true ∧
      (∀ j, j ≠ l → c.loop j = s.chip.loop j) ∧ SamePlant s.chip c) ∧
    ((s.chip.loop l).satSince = none ∨ s.chip.attrN tyLoop l 8 = 0 ∨ (s.chip.loop l).alarmTold = true ∨ s.chip.clk.refRun = false →
      Leads (.satAlarm l) s s.chip)

/-- A PID stays within its limits and does not wind up: with LO at most HI, I and the result lie between them, and where the sum
is at the upper limit or beyond and I would grow, I stays as it was and the result is the limit. SELQ keeps its first input
while it is selected and usable, and holds its last result, with no input selected, where none is usable. -/
def Obligations.NodesComputeWithinLimits : Prop :=
  (∀ (cs : List Nat) (x mode : Nat) (env : PidEnv) (a b : Int) (old : List Int), coefVal cs (x + 4) ≤ coefVal cs (x + 5) →
    ∃ i m f u : Int, (pidStep cs x mode env a b old).1 = [i, m, f, u] ∧ m = b ∧ (pidStep cs x mode env a b old).2.1 = u ∧
      coefVal cs (x + 4) ≤ i ∧ i ≤ coefVal cs (x + 5) ∧ coefVal cs (x + 4) ≤ u ∧ u ≤ coefVal cs (x + 5)) ∧
  (∀ (cs : List Nat) (x mode : Nat) (a b i m f u : Int) (e dm p g inc : Int),
    e = (if bit mode 0 then b - a else a - b) → dm = (if bit mode 0 then b - m else m - b) → p = gainOf cs x e →
    g = f + gainOf cs (x + 3) (gainOf cs (x + 2) dm - f) → inc = gainOf cs (x + 1) e →
    coefVal cs (x + 4) ≤ i → i ≤ coefVal cs (x + 5) → coefVal cs (x + 5) ≤ p + i + g → 0 < inc →
    (pidStep cs x mode ⟨none, false, none⟩ a b [i, m, f, u]).1 = [i, b, g, clampI (coefVal cs (x + 4)) (coefVal cs (x + 5)) (p + i + g)]) ∧
  (∀ (cs : List Nat) (x : Nat) (ins : List (Option NodeVal)) (old : List Int) (v : NodeVal), ins.length = 3 → ins.getD 0 none = some v →
    selqUsable (coefVal cs x).toNat (some v) = true → old.getD 0 0 = 0 → (selqStep cs x ins old).2.2 = 0 ∧
      (selqStep cs x ins old).2.1.value = v.value) ∧
  (∀ (cs : List Nat) (x : Nat) (ins : List (Option NodeVal)) (old : List Int), ins.length = 3 → old ≠ [] →
    (∀ v, v ∈ ins → selqUsable (coefVal cs x).toNat v = false) → (selqStep cs x ins old).2.2 = 3 ∧
      (selqStep cs x ins old).2.1.value = old.getD 4 0)

/-- The rows of the zones. The zone whose update is next updates at its due time, which sets the next a period later; before its
first measurement it does nothing else, and no other zone changes but for one that takes its first measurement from a slot the
update wrote. A zone without a measurement for too long starts open, at 20 °C, unless one has come. A suspension ends. The first
prediction asked for is answered: to its command, with BUSY where the zone has been disabled, or to the schedule that asked.
Presence follows its sources: each kind of source, and the loss of a source, acts as written; evidence makes a vacant zone
OCCUPIED where it is a LEVEL's or a ZONE's, or the CONFIRM_N-th within its time, holds an occupied one or latches it by a closed
contact, and never ends LATCHED. A hold that ends makes the zone VACANT, unless evidence waits. PRES_SID is written again every
10 s. Each row out of its condition changes nothing. -/
def Obligations.ZonesEvolve : Prop :=
  ∀ (s : State) (z : Nat),
    (∀ d, (s.chip.zone z).due = some d → s.chip.nextZone = some z → s.chip.transitComes d = true → ∃ (c : Chip) (t : Nat),
      c = s.chip.waitTransit d ∧ t = c.clk.now - (c.clk.transit - d) ∧ d ≤ c.clk.transit ∧ Leads (.zoneUpdate z) s (c.updateZone z d t) ∧
      c.zones = s.chip.zones ∧ c.slots = s.chip.slots ∧
      ((c.zone z).initUntil.isSome = true → c.zoneYValue z = none →
        c.updateZone z d t = c.setZone z { c.zone z with due := some (d + sec (c.zonePeriod z)) }) ∧
      (∀ j, j ≠ z → (c.updateZone z d t).zone j = { s.chip.zone j with
        model := ((c.updateZone z d t).zone j).model, initUntil := ((c.updateZone z d t).zone j).initUntil, x := ((c.updateZone z d t).zone j).x }) ∧
      ((c.updateZone z d t).zone z).due = some (d + sec (c.zonePeriod z))) ∧
    ((s.chip.zone z).due = none ∨ s.chip.nextZone ≠ some z ∨ (∀ d, (s.chip.zone z).due = some d → s.chip.transitComes d = false) →
      Leads (.zoneUpdate z) s s.chip) ∧
    (∀ d, (s.chip.zone z).initUntil = some d → ∃ c : Chip, Leads (.reinitTimeout z) s c ∧ d ≤ c.clk.now ∧ (c.zone z).initUntil = none ∧
      (c.zoneYValue z = none ∨ d < c.clk.now → (c.zone z).model = .open ∧ (c.zone z).x = List.replicate (s.chip.zoneNodes z) (20 * 65536)) ∧
      (∀ y, c.zoneYValue z = some y → c.clk.now ≤ d → (c.zone z).model = .tracking ∧ (c.zone z).x = List.replicate (s.chip.zoneNodes z) y) ∧
      (∀ j, j ≠ z → c.zone j = s.chip.zone j) ∧ c.slots = s.chip.slots ∧ c.attrs = s.chip.attrs) ∧
    ((s.chip.zone z).initUntil = none → Leads (.reinitTimeout z) s s.chip) ∧
    (∀ d, (s.chip.zone z).suspend = some d → ∃ c : Chip, Leads (.suspendExpiry z) s c ∧ d ≤ c.clk.now ∧
      c.zone z = { s.chip.zone z with suspend := none } ∧ (∀ j, j ≠ z → c.zone j = s.chip.zone j) ∧ c.slots = s.chip.slots) ∧
    ((s.chip.zone z).suspend = none → Leads (.suspendExpiry z) s s.chip) ∧
    (∀ q rest x t, s.chip.predictions = q :: rest → q.cmd = some (x, t) →
      (s.chip.zoneEn q.zone = true → Leads .prediction s ({ s.chip with predictions := rest }.finishTag x t stOK noOfs
        (leBytes 4 ((s.chip.runPredict q).1.getD 0xFFFFFFFF) ++ leBytes 4 (unsigned 32 (s.chip.runPredict q).2.1)
          ++ leBytes 2 (s.chip.runPredict q).2.2 ++ [0, 0]))) ∧
      (s.chip.zoneEn q.zone = false → Leads .prediction s ({ s.chip with predictions := rest }.finishTag x t stBusy noOfs []))) ∧
    (∀ q rest, s.chip.predictions = q :: rest → q.cmd = none → ∃ c : Chip, Leads .prediction s c ∧ c.predictions = rest ∧
      (s.chip.zoneEn q.zone = true → (c.zone q.zone).leadReplies = (s.chip.zone q.zone).leadReplies ++ [(q.check, (s.chip.runPredict q).1)]) ∧
      (s.chip.zoneEn q.zone = false → c.zones = s.chip.zones) ∧ (∀ j, j ≠ q.zone → c.zone j = s.chip.zone j)) ∧
    (s.chip.predictions = [] → Leads .prediction s s.chip) ∧
    (∀ i src, src = s.chip.presSource z i →
      (s.chip.zonePres z = false ∨ 8 ≤ i → Leads (.presenceEvidence z i) s s.chip ∧ Leads (.presenceSourceLost z i) s s.chip) ∧
      (fld src 0 1 = 1 → (s.chip.zone z).pirDue.contains i = false → Leads (.presenceEvidence z i) s s.chip) ∧
      (fld src 0 1 = 2 → s.chip.presHigh src = none → Leads (.presenceEvidence z i) s s.chip) ∧
      (fld src 0 1 = 0 ∨ 4 < fld src 0 1 → Leads (.presenceEvidence z i) s s.chip) ∧
      ((s.chip.presHigh src).isSome = true ∨ (fld src 0 1 ≠ 2 ∧ fld src 0 1 ≠ 3) → Leads (.presenceSourceLost z i) s s.chip)) ∧
    (∀ i src, s.chip.zonePres z = true → i < 8 → src = s.chip.presSource z i →
      (fld src 0 1 = 1 → (s.chip.zone z).pirDue.contains i = true → Leads (.presenceEvidence z i) s
        ((s.chip.setZone z { s.chip.zone z with pirDue := (s.chip.zone z).pirDue.erase i }).evidence z i 1)) ∧
      (fld src 0 1 = 2 → ∀ b, s.chip.presHigh src = some b → Leads (.presenceEvidence z i) s (s.chip.setContact z i b)) ∧
      (fld src 0 1 = 3 → Leads (.presenceEvidence z i) s (s.chip.setAsserted z i 3 (s.chip.presHigh src == some true))) ∧
      (fld src 0 1 = 4 → Leads (.presenceEvidence z i) s (s.chip.setAsserted z i 4 ((s.chip.zone (fld src 2 2)).presence != .vacant))) ∧
      (fld src 0 1 = 3 → s.chip.presHigh src = none → Leads (.presenceSourceLost z i) s (s.chip.setAsserted z i 3 false)) ∧
      (fld src 0 1 = 2 → s.chip.presHigh src = none → (s.chip.zone z).presence ≠ .latched → Leads (.presenceSourceLost z i) s
        (s.chip.setZone z { s.chip.zone z with contacts := (s.chip.zone z).contacts.set i none })) ∧
      (fld src 0 1 = 2 → s.chip.presHigh src = none → (s.chip.zone z).presence = .latched → (s.chip.zone z).latchOn = some i →
        Leads (.presenceSourceLost z i) s
          ((s.chip.setZone z { s.chip.zone z with contacts := (s.chip.zone z).contacts.set i none }).unlatch z))) ∧
    (∀ i src, s.chip.zonePres z = true → i < 8 → src = s.chip.presSource z i → fld src 0 1 = 2 → s.chip.presHigh src = none →
      (s.chip.zone z).presence = .latched → (s.chip.zone z).latchOn ≠ some i → Leads (.presenceSourceLost z i) s
        (s.chip.setZone z { s.chip.zone z with contacts := (s.chip.zone z).contacts.set i none })) ∧
    (∀ (c : Chip) i kind ev, (c.zone z).presence = .vacant → ev = (c.zone z).confirm.filter (fun t =>
        decide (c.clk.now ≤ t + sec (bits (c.attrN tyZone z 14) 20 12))) ++ [c.clk.now] →
      (kind = 3 ∨ kind = 4 ∨ bits (c.attrN tyZone z 14) 16 4 ≤ ev.length → ∃ d : Chip,
        c.evidence z i kind = d.fire 74 (z + 256 * Presence.occupied.code + 4096 * i) ∧
        (d.zone z).presence = .occupied ∧ (d.zone z).reason = i ∧ (d.zone z).lastEvidence = c.clk.now ∧
        (∀ j, j ≠ z → d.zone j = { c.zone j with model := (d.zone j).model, initUntil := (d.zone j).initUntil, x := (d.zone j).x })) ∧
      (kind ≠ 3 → kind ≠ 4 → ev.length < bits (c.attrN tyZone z 14) 16 4 →
        (c.evidence z i kind).zone z = { c.zone z with lastEvidence := c.clk.now, confirm := ev } ∧
        (∀ j, j ≠ z → (c.evidence z i kind).zone j = c.zone j) ∧ (c.evidence z i kind).slots = c.slots)) ∧
    (∀ (c : Chip) i kind, (c.zone z).presence = .occupied → kind ≠ 1 → (c.evidence z i kind).zone z = { c.zone z with
      lastEvidence := c.clk.now, hold := c.holdFrom z } ∧ (∀ j, j ≠ z → (c.evidence z i kind).zone j = c.zone j) ∧
      (c.evidence z i kind).slots = c.slots) ∧
    (∀ (c : Chip) i kind, (c.zone z).presence = .latched → c.evidence z i kind = c.setZone z { c.zone z with lastEvidence := c.clk.now }) ∧
    (∀ d c, (s.chip.zone z).presence = .occupied → (s.chip.zone z).hold = some d → s.chip.zonePres z = true → s.chip.transitComes d = true →
      c = s.chip.waitTransit d → d ≤ c.clk.transit ∧
      (c.evidenceWaits z = true → Leads (.holdExpiry z) s c) ∧
      (c.evidenceWaits z = false → ∃ e : Chip, Leads (.holdExpiry z) s (e.fire 74 (z + 256 * Presence.vacant.code + 4096 * 8)) ∧
        (e.zone z).presence = .vacant ∧ (e.zone z).reason = 8 ∧ (e.zone z).hold = none ∧
        (∀ j, j ≠ z → e.zone j = { s.chip.zone j with model := (e.zone j).model, initUntil := (e.zone j).initUntil, x := (e.zone j).x }))) ∧
    ((s.chip.zone z).presence ≠ .occupied ∨ s.chip.zonePres z = false ∨ (∀ d, (s.chip.zone z).hold = some d → s.chip.transitComes d = false) →
      Leads (.holdExpiry z) s s.chip) ∧
    (s.chip.zonePres z = true → ∃ c : Chip, Leads (.presSidRefresh z) s (c.writePresence z) ∧
      (s.chip.zone z).presWritten + sec 10 ≤ c.clk.now ∧ c.zones = s.chip.zones ∧ c.slots = s.chip.slots ∧
      ((c.writePresence z).zone z).presWritten = c.clk.now) ∧
    (s.chip.zonePres z = false → Leads (.presSidRefresh z) s s.chip)

/-! ### The fabric, the buses and the panels in time -/

/-- A link comes up: a neighbour's signal begins its training, an established line begins the version exchange, a version in
common the exchange of identities, and an identity that neither side refuses brings it UP with an end to ISOLATED; a pair
without a common version, and an identity refused by either side, leave it ISOLATED with the reason; an UP neighbour of another
identity takes it down with reason 6, and one of the same identity is noted. Each row out of its condition changes nothing. -/
def Obligations.LinksComeUp : Prop :=
  (∀ (s : State) (n : Nat),
    (s.chip.linkRuns n = false → Leads (.linkSignalDetected n) s s.chip ∧ (∀ level, Leads (.phyLinkEstablished n level) s s.chip) ∧
      Leads (.trainingTimeout n) s s.chip ∧ (∀ minV maxV, Leads (.version n minV maxV) s s.chip) ∧ (∀ b, Leads (.ident n b) s s.chip) ∧
      Leads (.linkFrameResend n) s s.chip ∧ Leads (.isolatedRenegotiate n) s s.chip) ∧
    ((s.chip.link n).phase ≠ .training → ∀ level, Leads (.phyLinkEstablished n level) s s.chip) ∧
    (∀ level, isT1L n = true → ¬((level = 1 ∨ level = 2) ∧ (bits (s.chip.linkCfg n) 1 2 = 0 ∨ bits (s.chip.linkCfg n) 1 2 = level)) →
      Leads (.phyLinkEstablished n level) s s.chip) ∧
    ((s.chip.link n).stepDue = none → Leads (.trainingTimeout n) s s.chip) ∧
    ((s.chip.link n).phase ≠ .negotiating → (s.chip.link n).phase ≠ .isolated → ∀ minV maxV, Leads (.version n minV maxV) s s.chip) ∧
    ((s.chip.link n).phase ≠ .identifying → (s.chip.link n).phase ≠ .up → ∀ b, Leads (.ident n b) s s.chip) ∧
    ((s.chip.link n).resendAt = none → Leads (.linkFrameResend n) s s.chip) ∧
    ((s.chip.link n).renegAt = none → Leads (.isolatedRenegotiate n) s s.chip)) ∧
  ∀ (s : State) (n : Nat), s.chip.linkRuns n = true →
    ((s.chip.link n).phase ≠ .down → Leads (.linkSignalDetected n) s (s.chip.setLink n { s.chip.link n with signal := true })) ∧
    (∀ d, (s.chip.link n).renegAt = some d → (s.chip.link n).phase ≠ .isolated → ∃ c : Chip, Leads (.isolatedRenegotiate n) s c ∧
      d ≤ c.clk.now ∧ (∀ j, c.link j = s.chip.link j) ∧ SamePlant s.chip c) ∧
    (∀ b : IdentBody, (s.chip.link n).phase = .up → b.uid = (s.chip.link n).peerUid →
      (b.refusesUs = false → ∃ c : Chip, Leads (.ident n b) s c ∧
        c.link n = { s.chip.link n with received := (s.chip.link n).received + 1, peerUid := b.uid, peerNode := b.node, peerPrio := b.bwPrio } ∧
        (∀ j, j ≠ n → c.link j = s.chip.link j) ∧ SamePlant s.chip c) ∧
      (b.refusesUs = true → ∃ c : Chip, Leads (.ident n b) s c ∧ (c.link n).phase = .isolated ∧ (c.link n).iso = 5 ∧
        (∀ j, j ≠ n → (c.link j).phase = (s.chip.link j).phase) ∧ SamePlant s.chip c)) ∧
    ((s.chip.link n).phase = .down → ∃ c : Chip, Leads (.linkSignalDetected n) s c ∧ (c.link n).phase = .training ∧ (c.link n).signal = true ∧
      (c.link n).stepDue = some (s.chip.clk.now + (if isT1L n then sec 4 else ms 10)) ∧ (c.link n).peerUid = 0 ∧
      (∀ j, j ≠ n → c.link j = s.chip.link j) ∧ SamePlant s.chip c) ∧
    (∀ level, (s.chip.link n).phase = .training → (isT1L n = true → (level = 1 ∨ level = 2) ∧
        (bits (s.chip.linkCfg n) 1 2 = 0 ∨ bits (s.chip.linkCfg n) 1 2 = level)) → ∃ c : Chip,
      Leads (.phyLinkEstablished n level) s c ∧ (c.link n).phase = .negotiating ∧ (c.link n).lvl = (if isT1L n then level else 3) ∧
      (c.link n).stepDue = some (s.chip.clk.now + ms 100) ∧ (c.link n).resendAt = some (s.chip.clk.now + ms 10) ∧
      (c.link n).wire = (s.chip.link n).wire ++ [.version (s.chip.minVer n) 2] ∧
      (∀ j, j ≠ n → c.link j = s.chip.link j) ∧ SamePlant s.chip c) ∧
    (∀ d, (s.chip.link n).stepDue = some d → ∃ c : Chip, Leads (.trainingTimeout n) s c ∧ d ≤ c.clk.now ∧ (c.link n).phase = .training ∧
      (c.link n).stepDue = some (c.clk.now + (if isT1L n then sec 4 else ms 10)) ∧ (∀ j, j ≠ n → c.link j = s.chip.link j) ∧
      SamePlant s.chip c) ∧
    (∀ minV maxV, (s.chip.link n).phase = .negotiating ∨ (s.chip.link n).phase = .isolated →
      (max minV (s.chip.minVer n) ≤ min maxV 2 → ∃ c : Chip, Leads (.version n minV maxV) s c ∧ (c.link n).phase = .identifying ∧
        (c.link n).ver = min maxV 2 ∧ (c.link n).iso = 0 ∧ (c.link n).stepDue = some (s.chip.clk.now + ms 100) ∧
        (c.link n).wire = (s.chip.link n).wire
          ++ (if (s.chip.link n).phase = .isolated then [.version (s.chip.minVer n) 2] else []) ++ [.ident (s.chip.ownIdent false)] ∧
        (∀ j, j ≠ n → c.link j = s.chip.link j) ∧ SamePlant s.chip c) ∧
      (min maxV 2 < max minV (s.chip.minVer n) → ∃ c : Chip, Leads (.version n minV maxV) s c ∧ (c.link n).phase = .isolated ∧
        (c.link n).iso = (if min maxV 2 = 1 ∧ s.chip.minVer n = 2 then 2 else 1) ∧
        (c.link n).renegAt = some (s.chip.clk.now + sec 10) ∧ (∀ j, j ≠ n → c.link j = s.chip.link j) ∧ SamePlant s.chip c)) ∧
    (∀ b : IdentBody, (s.chip.link n).phase = .identifying →
      (s.chip.identRefused n b = none → b.refusesUs = false → ∃ c : Chip, Leads (.ident n b) s c ∧ (c.link n).phase = .up ∧
        (c.link n).iso = 0 ∧ (c.link n).peerUid = b.uid ∧ (c.link n).upAt = s.chip.clk.now ∧ (c.link n).helloRx = s.chip.clk.now ∧
        (∀ j, j ≠ n → (c.link j).phase = (s.chip.link j).phase) ∧ SamePlant s.chip c) ∧
      (∀ r, s.chip.identRefused n b = some r → ∃ c : Chip, Leads (.ident n b) s c ∧ (c.link n).phase = .isolated ∧ (c.link n).iso = r ∧
        (c.link n).wire = (s.chip.link n).wire ++ [.ident (s.chip.ownIdent true)] ∧ (∀ j, j ≠ n → c.link j = s.chip.link j) ∧
        SamePlant s.chip c) ∧
      (s.chip.identRefused n b = none → b.refusesUs = true → ∃ c : Chip, Leads (.ident n b) s c ∧ (c.link n).phase = .isolated ∧
        (c.link n).iso = 5 ∧ (∀ j, j ≠ n → c.link j = s.chip.link j) ∧ SamePlant s.chip c)) ∧
    (∀ b : IdentBody, (s.chip.link n).phase = .up → b.uid ≠ (s.chip.link n).peerUid → ∃ c d : Chip, Leads (.ident n b) s c ∧
      (c.link n).phase = .training ∧ (c.link n).peerUid = 0 ∧ (∀ j, j ≠ n → (c.link j).phase = (s.chip.link j).phase) ∧ SamePlant s.chip c ∧
      c = Chip.train n (d.linkLeave n .down (some 6)) ∧ d.link n = { s.chip.link n with received := (s.chip.link n).received + 1 }) ∧
    (∀ d, (s.chip.link n).resendAt = some d → ∃ c : Chip, Leads (.linkFrameResend n) s c ∧ d ≤ c.clk.now ∧
      (c.link n).resendAt = some (c.clk.now + ms 10) ∧ (c.link n).phase = (s.chip.link n).phase ∧
      ((s.chip.link n).phase = .identifying → (c.link n).wire = (s.chip.link n).wire ++ [.ident (s.chip.ownIdent false)]) ∧
      ((s.chip.link n).phase ≠ .identifying → (c.link n).wire = (s.chip.link n).wire ++ [.version (s.chip.minVer n) 2]) ∧
      (∀ j, j ≠ n → c.link j = s.chip.link j) ∧ SamePlant s.chip c) ∧
    (∀ d, (s.chip.link n).renegAt = some d → (s.chip.link n).phase = .isolated → ∃ c : Chip, Leads (.isolatedRenegotiate n) s c ∧
      d ≤ c.clk.now ∧ (c.link n).renegAt = some (c.clk.now + sec 10) ∧ (c.link n).phase = .isolated ∧
      (c.link n).wire = (s.chip.link n).wire ++ [.version (s.chip.minVer n) 2] ∧ (∀ j, j ≠ n → c.link j = s.chip.link j) ∧
      SamePlant s.chip c)

/-- An UP link lives by its HELLO frames, one sent every 10 ms and none missed for 30 ms; it leaves UP to DOWN with the reason
that its event tells, and forgets the neighbour; a corrupt frame is discarded and counted, and the error threshold fires its
event. Each row out of its condition changes nothing, but that a lost signal is noted on a link that is DOWN or DISABLED. -/
def Obligations.LinksStayUpAndGoDown : Prop :=
  (∀ (c : Chip) (n : Nat) (p : LinkPhase) (r : Nat),
    c.linkMove n p (some r) = (c.linkMove n p none).fire (80 + 2 * n) ((c.linkMove n p none).linkCause n r)) ∧
  (∀ (s : State) (n : Nat),
    (s.chip.linkRuns n = false ∨ s.chip.linkUp n = false → Leads (.hello n) s s.chip ∧ Leads (.helloSend n) s s.chip ∧
      Leads (.helloTimeout n) s s.chip) ∧
    (s.chip.linkRuns n = false → Leads (.phyLinkLoss n) s s.chip ∧ ∀ kind, Leads (.corruptFrame n kind) s s.chip) ∧
    (s.chip.linkRuns n = true → (s.chip.link n).phase = .disabled ∨ (s.chip.link n).phase = .down →
      Leads (.phyLinkLoss n) s (s.chip.setLink n { s.chip.link n with signal := false })) ∧
    ((s.chip.link n).phase = .disabled ∨ (s.chip.link n).phase = .down ∨ (s.chip.link n).phase = .training →
      ∀ kind, Leads (.corruptFrame n kind) s s.chip)) ∧
  ∀ (s : State) (n : Nat), s.chip.linkRuns n = true →
    (s.chip.linkUp n = true →
      (∃ c : Chip, Leads (.hello n) s c ∧ c.link n = { s.chip.link n with received := (s.chip.link n).received + 1, helloRx := s.chip.clk.now } ∧
        (∀ j, j ≠ n → c.link j = s.chip.link j) ∧ SamePlant s.chip c) ∧
      (∃ c : Chip, Leads (.helloSend n) s c ∧ (s.chip.link n).helloTx ≤ c.clk.now ∧ (c.link n).helloTx = c.clk.now + ms 10 ∧
        (c.link n).wire = (s.chip.link n).wire ++ [.hello] ∧ (c.link n).sent = (s.chip.link n).sent + 1 ∧
        (∀ j, j ≠ n → c.link j = s.chip.link j) ∧ SamePlant s.chip c) ∧
      (∃ c d : Chip, Leads (.helloTimeout n) s c ∧ c = d.linkLeave n .down (some 2) ∧ d.link n = s.chip.link n ∧
        (s.chip.link n).helloRx + ms 30 ≤ d.clk.now ∧ (c.link n).phase = .down ∧ (c.link n).peerUid = 0 ∧
        (c.link n).downs = (s.chip.link n).downs + 1 ∧ (∀ j, j ≠ n → (c.link j).phase = (s.chip.link j).phase) ∧ SamePlant s.chip c)) ∧
    ((s.chip.link n).phase ≠ .disabled → (s.chip.link n).phase ≠ .down → ∃ c d : Chip, Leads (.phyLinkLoss n) s c ∧
      c = d.linkLeave n .down (some 1) ∧ d.link n = { s.chip.link n with signal := false } ∧ (c.link n).phase = .down ∧
      (c.link n).signal = false ∧ (c.link n).peerUid = 0 ∧ (∀ j, j ≠ n → (c.link j).phase = (s.chip.link j).phase) ∧ SamePlant s.chip c) ∧
    (∀ kind, (s.chip.link n).phase ≠ .disabled → (s.chip.link n).phase ≠ .down → (s.chip.link n).phase ≠ .training → ∃ c : Chip,
      Leads (.corruptFrame n kind) s c ∧ (c.link n).discarded = (s.chip.link n).discarded + 1 ∧
      (c.link n).phase = (s.chip.link n).phase ∧ (c.link n).received = (s.chip.link n).received ∧
      (c.link n).hcrcErr = (s.chip.link n).hcrcErr + (if kind = .hcrc then 1 else 0) ∧
      (c.link n).fcsErr = (s.chip.link n).fcsErr + (if kind = .fcs then 1 else 0) ∧ (c.link n).wire = (s.chip.link n).wire ∧
      (∀ j, j ≠ n → c.link j = s.chip.link j) ∧ SamePlant s.chip c) ∧
    (∀ (c : Chip) (kind : Nat), c.attrN tyLink n 4 ≤ (c.noteError n kind).errorCount n kind → ∃ d : Chip, d = (c.noteError n kind).fire
        (81 + 2 * n) (2 ^ kind + 65536 * min 0xFFFF ((c.noteError n kind).errorCount n kind)) ∧
      c.crcError n kind = d.setLink n { d.link n with errors := (d.link n).errors.filter (fun e => e.1 != kind) })

/-- The fabric's topology and addresses: an LSA is acknowledged and taken where it is newer and there is room, and its
acknowledgement ends the resending; the own LSA is refreshed with the next sequence number; one that is not refreshed ages out
and the fabric converges; the bellwether grants what is asked, a grant is taken, a persisted address is written to the other
copy; a frame that finds its RX queue full is dropped; a frame for another node goes on with TTL one less toward it, cut through
with an abort where its check sum fails on links of version 2 in class 0 (log entry 85), and is discarded at TTL 0, without a
path, of a link-local type, or with a bad check sum, which counts. Each row out of its condition changes nothing. -/
def Obligations.FabricKeepsItsTopology : Prop :=
  ∀ (s : State),
    (∀ n, s.chip.linkRuns n = false ∨ s.chip.linkUp n = false → (∀ ack b, Leads (.lsa n ack b) s s.chip) ∧
      (∀ uid rq ps, Leads (.addrReq n uid rq ps) s s.chip) ∧ (∀ uid a, Leads (.addrGrant n uid a) s s.chip) ∧
      (∀ uid, Leads (.lsaResend n uid) s s.chip) ∧ (∀ f ok, Leads (.frameForward n f ok) s s.chip)) ∧
    (∀ n (d : Chip), s.chip.linkRuns n = true → s.chip.linkUp n = true → (s.chip.rxCount n).rxPass n 1 [] = (false, d) →
      (∀ ack b, Leads (.lsa n ack b) s d) ∧ (∀ uid rq ps, Leads (.addrReq n uid rq ps) s d) ∧
      (∀ uid a, Leads (.addrGrant n uid a) s d) ∧ SamePlant s.chip d) ∧
    (∀ n (d : Chip), s.chip.linkRuns n = true → s.chip.linkUp n = true → (s.chip.rxCount n).rxPass n 1 [] = (true, d) →
      (∀ b : LsaBody, Leads (.lsa n true b) s (d.setFabric (fun f => { f with acks := f.acks.filter (fun e => !(e.1 == n && e.2.1 == b.uid)) })) ∧
        Leads (.lsa n false b) s ((d.sendMsg n (.lsa true b)).takeLsa n b)) ∧
      (∀ uid rq ps, (d.fabric.bwUid = d.fuses.uid → Leads (.addrReq n uid rq ps) s
          ((d.setFabric (fun f => { f with requests := Tbl.set dNone f.requests uid rq })).grantTo uid rq ps)) ∧
        (d.fabric.bwUid ≠ d.fuses.uid → Leads (.addrReq n uid rq ps) s (d.flood (some n) (.addrReq uid rq ps)))) ∧
      (∀ uid a, (uid = d.fuses.uid → Leads (.addrGrant n uid a) s (d.takeAddr a).converge) ∧
        (uid ≠ d.fuses.uid → Leads (.addrGrant n uid a) s (d.flood (some n) (.addrGrant uid a)))) ∧ SamePlant s.chip d) ∧
    (∀ (c : Chip) n (b : LsaBody),
      (b.uid = c.fuses.uid → c.fabric.ownSeq < b.seq → c.takeLsa n b = (c.setFabric (fun f => { f with ownSeq := b.seq })).floodOwn) ∧
      (b.uid = c.fuses.uid → b.seq ≤ c.fabric.ownSeq → c.takeLsa n b = c) ∧
      (∀ h : Nat, b.uid ≠ c.fuses.uid → Tbl.get dNone (c.fabric.lsas.map (fun e => (e.1, some e.2.body.seq))) b.uid = some h →
        b.seq ≤ h → c.takeLsa n b = c) ∧
      (b.uid ≠ c.fuses.uid → Tbl.get dNone (c.fabric.lsas.map (fun e => (e.1, some e.2.body.seq))) b.uid = none →
        1023 ≤ c.fabric.lsas.length → c.takeLsa n b = c.logFault 1 (b.uid % 4294967296)) ∧
      (b.uid ≠ c.fuses.uid →
        (Tbl.get dNone (c.fabric.lsas.map (fun e => (e.1, some e.2.body.seq))) b.uid = none ∧ c.fabric.lsas.length < 1023) ∨
        (∃ h : Nat, Tbl.get dNone (c.fabric.lsas.map (fun e => (e.1, some e.2.body.seq))) b.uid = some h ∧ h < b.seq) → ∃ d e : Chip, d = c.setFabric (fun f => { f with lsas := Tbl.insert f.lsas b.uid ⟨b, c.clk.now + sec 90⟩ }) ∧
          e = (d.upLinks.filter (· != n)).foldl (fun x m => x.sendLsa b m) d ∧ c.takeLsa n b = e.converge)) ∧
    (∀ (c : Chip) a, (c.takeAddr a).fabric.addr = some a ∧ (c.takeAddr a).fabric.confirmed = true ∧
      (c.fabric.persisted ≠ some a → (c.takeAddr a).fabric.persistDue = true)) ∧
    (s.chip.power.main.up = true → s.chip.clk.refRun = true → hasFlock s.chip.fuses.variant = true → ∃ c : Chip, Leads .lsaRefresh s c ∧
      s.chip.fabric.lsaDue ≤ c.clk.now ∧ c.fabric.ownSeq = s.chip.fabric.ownSeq + 1 ∧ c.fabric.lsaDue = c.clk.now + sec 30 ∧
      SamePlant s.chip c) ∧
    (s.chip.power.main.up = false ∨ s.chip.clk.refRun = false ∨ hasFlock s.chip.fuses.variant = false → Leads .lsaRefresh s s.chip) ∧
    (∀ n uid, s.chip.fabric.acks.find? (fun e => e.1 == n && e.2.1 == uid) = none → Leads (.lsaResend n uid) s s.chip) ∧
    (∀ n uid d, s.chip.linkRuns n = true → s.chip.linkUp n = true →
      s.chip.fabric.acks.find? (fun e => e.1 == n && e.2.1 == uid) = some (n, uid, d) → lsaOf s.chip.topology uid = none → ∃ c : Chip,
      Leads (.lsaResend n uid) s c ∧ d ≤ c.clk.now ∧
      c.fabric = { s.chip.fabric with acks := s.chip.fabric.acks.filter (fun e => !(e.1 == n && e.2.1 == uid)) } ∧ SamePlant s.chip c) ∧
    (∀ uid, s.chip.power.main.up = false ∨ s.chip.fabric.lsas.find? (fun e => e.1 == uid) = none → Leads (.lsaAgeout uid) s s.chip) ∧
    (s.chip.fabric.persistDue = false ∨ s.chip.power.main.up = false → Leads .addressPersistDone s s.chip) ∧
    (∀ n uid d b, s.chip.linkRuns n = true → s.chip.linkUp n = true →
      s.chip.fabric.acks.find? (fun e => e.1 == n && e.2.1 == uid) = some (n, uid, d) → lsaOf s.chip.topology uid = some b → ∃ c : Chip,
      Leads (.lsaResend n uid) s c ∧ d ≤ c.clk.now ∧ (c.link n).wire = (s.chip.link n).wire ++ [.lsa false b] ∧
      c.fabric.acks = s.chip.fabric.acks.filter (fun e => !(e.1 == n && e.2.1 == b.uid)) ++ [(n, b.uid, c.clk.now + ms 20)] ∧
      SamePlant s.chip c) ∧
    (∀ uid h, s.chip.power.main.up = true → s.chip.fabric.lsas.find? (fun e => e.1 == uid) = some (uid, h) → ∃ c : Chip,
      Leads (.lsaAgeout uid) s c.converge ∧ h.ages ≤ c.clk.now ∧
      c.fabric = { s.chip.fabric with lsas := Tbl.erase s.chip.fabric.lsas uid } ∧ SamePlant s.chip c.converge) ∧
    (s.chip.fabric.persistDue = true → s.chip.power.main.up = true → Leads .addressPersistDone s
      { s.chip with fabric := { s.chip.fabric with persisted := s.chip.fabric.addr, persistDue := false,
                                                   persistedOld := s.chip.fabric.persisted, persistSeq := s.chip.fabric.persistSeq + 1 } }) ∧
    (∀ n f ok, s.chip.linkRuns n = true → s.chip.linkUp n = true →
      (f.length < 12 → Leads (.frameForward n f ok) s s.chip) ∧
      (12 ≤ f.length → headerOk f = false → Leads (.frameForward n f ok) s
        (s.chip.corruptRow n (if crc8 (f.take 7) == fld f 7 1 then .reservedType else .hcrc))) ∧
      (12 ≤ f.length → headerOk f = true → s.chip.fabric.addr = some (frameDst f) ∨ bit (fld f 0 8) 43 = true →
        Leads (.frameForward n f ok) s s.chip)) ∧
    (∀ n f, s.chip.linkRuns n = true → s.chip.linkUp n = true → 12 ≤ f.length → headerOk f = true →
      s.chip.fabric.addr ≠ some (frameDst f) → bit (fld f 0 8) 43 = false →
      (frameTtl f = 0 ∨ frameType f = 2 ∨ frameType f = 4 ∨ s.chip.nextHop (frameDst f) = none →
        Leads (.frameForward n f true) s ((s.chip.rxCount n).discard n) ∧
        Leads (.frameForward n f false) s (((s.chip.rxCount n).discard n).fcsError n)) ∧
      (∀ m, frameTtl f ≠ 0 → frameType f ≠ 2 → frameType f ≠ 4 → s.chip.nextHop (frameDst f) = some m →
        Leads (.frameForward n f true) s ((s.chip.rxCount n).egress m (reframe f (frameCls f) (frameTtl f - 1)) false) ∧
        (frameCls f = 0 → (s.chip.link n).ver = 2 → (s.chip.link m).ver = 2 → Leads (.frameForward n f false) s
          (((s.chip.rxCount n).egress m (reframe f (frameCls f) (frameTtl f - 1)) true).fcsError n)) ∧
        (frameCls f ≠ 0 ∨ (s.chip.link n).ver ≠ 2 ∨ (s.chip.link m).ver ≠ 2 → Leads (.frameForward n f false) s
          (((s.chip.rxCount n).discard n).fcsError n))))

/-- Fabric time: an UP link carries a TIME frame every 125 ms with the sender's time and distance; one from the chosen upstream
steers the follower, by a step where it is off by more than 1 ms or follows it anew and else by a rate within 200 ppm; one that
stays away for 1 s leads to another upstream or to holdover; the bellwether steers its own time to its calendar within 100 ppm,
and a follower's calendar is set from fabric time at its first lock and where it is off by more than 2 ms; the exchange of
delays has given a link's delay (log entry 85). Each row out of its condition changes nothing. -/
def Obligations.FabricKeepsTime : Prop :=
  (∀ (c : Chip) n (b : TimeBody) (e : Int), e = (b.origin : Int) + (c.link n).delay - c.fabricNs →
    (e.natAbs ≤ 1000000 → c.fabric.followed = some (b.steps, b.generation) →
      (c.followTime n b).clk = { c.clk with fabRate := clampI (-200000) 200000 (e * 8) }) ∧
    (1000000 < e.natAbs ∨ c.fabric.followed ≠ some (b.steps, b.generation) → (c.followTime n b).clk = (c.stepFabric e).clk) ∧
    (c.followTime n b).fabric.upstream = some n ∧ (c.followTime n b).fabric.dist = some (b.dist + 1) ∧
    (c.followTime n b).fabric.lastTime = c.clk.now ∧ (c.followTime n b).fabric.holdover = false) ∧
  ∀ (s : State),
    (∀ n, s.chip.linkRuns n = false ∨ s.chip.linkUp n = false → Leads (.timeSend n) s s.chip ∧ (∀ b, Leads (.time n b) s s.chip) ∧
      ∀ ns, Leads (.pdelay n ns) s s.chip) ∧
    (s.chip.power.main.up = false ∨ s.chip.follower = false ∨ s.chip.fabric.upstream = none → Leads .upstreamTimeout s s.chip) ∧
    (s.chip.power.main.up = false ∨ s.chip.follower = true → Leads .bellwetherSteer s s.chip) ∧
    (s.chip.power.main.up = false ∨ s.chip.follower = false ∨ s.chip.fabric.locked = false ∨ s.chip.fabric.unset = true →
      Leads .followerRtcCheck s s.chip) ∧
    (∀ n, s.chip.linkRuns n = true → s.chip.linkUp n = true →
      (∃ (c d : Chip) (b : TimeBody), Leads (.timeSend n) s (if s.chip.follower = true then d else d.fanBeat) ∧ c = s.chip.waitUntil (s.chip.link n).timeTx ∧
        (s.chip.link n).timeTx ≤ d.clk.now ∧ (d.link n).wire = (s.chip.link n).wire ++ [.time b] ∧ (d.link n).timeTx = d.clk.now + ms 125 ∧
        d.fabric.timeSeq = s.chip.fabric.timeSeq + 1 ∧ b.seq = s.chip.fabric.timeSeq ∧ b.bwUid = s.chip.fabric.bwUid ∧
        b.generation = s.chip.fabric.generation ∧ b.origin = c.fabricNs.toNat ∧
        (s.chip.follower = false → b.dist = 0) ∧ (s.chip.follower = true → b.dist = s.chip.fabric.dist.getD 17) ∧
        (∀ j, j ≠ n → d.link j = s.chip.link j) ∧ SamePlant s.chip d) ∧
      (∀ b : TimeBody, ∃ c : Chip, (c.link n).peerTime = some (b, s.chip.clk.now) ∧ c.fabric.highest = max s.chip.fabric.highest b.generation ∧
        (c.follower = true → (c.pickUpstream).map (·.1) = some n → Leads (.time n b) s ((c.followTime n b).countFan b)) ∧
        ((c.follower = true → (c.pickUpstream).map (·.1) ≠ some n) → Leads (.time n b) s (c.countFan b)) ∧
        (∀ j, j ≠ n → c.link j = s.chip.link j) ∧ SamePlant s.chip c) ∧
      (∀ ns, ∃ c : Chip, Leads (.pdelay n ns) s c ∧ (c.link n).delay = ns ∧ (c.link n).received = (s.chip.link n).received + 1 ∧
        (c.link n).sent = (s.chip.link n).sent + 1 ∧ (c.link n).wire = (s.chip.link n).wire ++ [.pdelay] ∧
        (c.link n).phase = (s.chip.link n).phase ∧
        (∀ j, j ≠ n → c.link j = s.chip.link j) ∧ SamePlant s.chip c)) ∧
    (s.chip.power.main.up = true → s.chip.follower = true → s.chip.fabric.upstream.isSome = true → ∃ c : Chip, s.chip.fabric.lastTime + sec 1 ≤ c.clk.now ∧
      c.fabric = s.chip.fabric ∧ SamePlant s.chip c ∧
      (∀ n d, c.pickUpstream = some (n, d) → Leads .upstreamTimeout s
        (c.setFabric (fun f => { f with upstream := some n, dist := some (d + 1), lastTime := c.clk.now }))) ∧
      (c.pickUpstream = none → Leads .upstreamTimeout s (c.setFabric (fun f => { f with upstream := none, holdover := true })))) ∧
    (s.chip.power.main.up = true → s.chip.follower = false → ∃ (c : Chip) (e : Int),
      c = (if s.chip.rtc.presc = 0 then s.chip else s.chip.waitTotal ((s.chip.rtc.count.toNat + 1) * 32768)) ∧
      e = ((c.rtc.count.toNat * 1000000000 + c.rtc.presc * 1000000000 / 32768 : Nat) : Int) - c.fabricNs ∧
      (e.natAbs ≤ 1000000 → Leads .bellwetherSteer s (c.setRate (clampI (-100000) 100000 e))) ∧
      (1000000 < e.natAbs → Leads .bellwetherSteer s ((c.stepFabric e).setFabric (fun f => { f with steps := f.steps + 1 })))) ∧
    (s.chip.power.main.up = true → s.chip.follower = true → s.chip.fabric.locked = true → s.chip.fabric.unset = false → ∃ e : Int,
      e = ((s.chip.rtc.count.toNat * 1000000000 + s.chip.rtc.presc * 1000000000 / 32768 : Nat) : Int) - s.chip.fabricNs ∧
      (s.chip.fabric.firstLock = false ∨ 2000000 < e.natAbs → ∃ c : Chip, s.chip.clk.now ≤ c.clk.now ∧ SamePlant s.chip c ∧
        Leads .followerRtcCheck s ((c.commitTime ((s.chip.clk.fabUs + 999999) / 1000000)).setFabric (fun f => { f with firstLock := true }))) ∧
      (s.chip.fabric.firstLock = true → e.natAbs ≤ 2000000 → Leads .followerRtcCheck s s.chip))

/-- Streams: a SIGNAL frame of a stream's own source counts the frames missed and writes each record to the slot that MAP gives,
its quality marked REMOTE, unless the slot holds a newer sample; others are discarded; ACCEPT and REFUSE move the stream's
STATE; a subscription is granted, renewed, refused, sent again every second and dropped; a source sends its changed images when
its class allows; a HOST stream gives the host a record, and its last one ends the commands that wait for it to close. Each row
out of its condition changes nothing. Remote sessions: a PHIVEOX packet that is a reply goes to the context whose token it
carries, and ends its command unless it is an interim reply; one of a relayed command ends that command; one from another node
than the context's is ignored. A command goes to the remote session of its source and token, which opens where a context is free
and is refused where none is. A packet whose RX queue is full is dropped, and on a link that is not UP the row changes nothing.
-/
def Obligations.StreamsAndPhiveoxAreCarried : Prop :=
  ((∀ (s : State) (i : Nat),
    (∀ n, s.chip.linkRuns n = false ∨ s.chip.linkUp n = false → (∀ src cls p, Leads (.signal n src cls p) s s.chip) ∧
      ∀ b, Leads (.subscribe n b) s s.chip) ∧
    (∀ src, s.chip.power.main.up = false ∨ s.chip.isHostStream i = true ∨ (s.chip.stream i).state = 0 ∨ s.chip.srcNode i ≠ src →
      Leads (.accept src i) s s.chip ∧ ∀ reason, Leads (.refuse src i reason) s s.chip) ∧
    (s.chip.power.main.up = false → ∀ src, Leads (.unsubscribe src i) s s.chip) ∧
    (s.chip.power.main.up = false ∨ (s.chip.stream i).timer = none ∨ s.chip.isHostStream i = true ∨ (s.chip.stream i).state = 0 →
      Leads (.subscribeRetry i) s s.chip) ∧
    (∀ node, s.chip.power.main.up = false ∨ s.chip.findSub node i = none →
      Leads (.subscriptionDrop node i) s s.chip ∧ Leads (.exportFrame node i) s s.chip) ∧
    (∀ node x, s.chip.findSub node i = some x → (s.chip.pendingImages x).isEmpty = true ∨ s.chip.reaches node = false →
      Leads (.exportFrame node i) s s.chip) ∧
    (s.chip.power.main.up = false ∨ s.chip.isHostStream i = false ∨ (s.chip.stream i).state ≠ 2 ∨ (s.chip.changedImages i).isEmpty = true →
      Leads (.hostStreamRecord i) s s.chip)) ∧
  ∀ (s : State) (i : Nat), s.chip.power.main.up = true →
    (∀ n src cls p, s.chip.linkRuns n = true → s.chip.linkUp n = true → 256 ≤ fld p 0 2 → Leads (.signal n src cls p) s
      (((List.range ((p.length - 4) / 12)).map (fun k => slice p (4 + 12 * k) 12)).foldl (fun x _ => x.discard n) (s.chip.rxCount n))) ∧
    (∀ n src cls p, s.chip.linkRuns n = true → s.chip.linkUp n = true → fld p 0 2 = i → i < 256 →
      ((s.chip.stream i).state ≠ 0 → s.chip.isHostStream i = false → s.chip.srcNode i = src → ∃ c : Chip, Leads (.signal n src cls p) s
          (((List.range ((p.length - 4) / 12)).map (fun k => slice p (4 + 12 * k) 12)).foldl (fun x r => x.takeRecord n i r) c) ∧
        c.stream i = { s.chip.stream i with
          lost := (s.chip.stream i).lost + missedFrames (s.chip.stream i).lastSeq (BitVec.ofNat 16 (fld p 2 2)), lastSeq := some (BitVec.ofNat 16 (fld p 2 2)) } ∧
        (c.link n).received = (s.chip.link n).received + 1 ∧
        (c.link n).c0Arrived = (s.chip.link n).c0Arrived + (if bits (s.chip.strCfg i) 2 2 = 0 ∧ cls ≠ 0 then 1 else 0) ∧
        (∀ j, j ≠ i → c.stream j = s.chip.stream j) ∧ SamePlant s.chip c) ∧
      ((s.chip.stream i).state = 0 ∨ s.chip.isHostStream i = true ∨ s.chip.srcNode i ≠ src → Leads (.signal n src cls p) s
        (((List.range ((p.length - 4) / 12)).map (fun k => slice p (4 + 12 * k) 12)).foldl (fun x _ => x.discard n) (s.chip.rxCount n)))) ∧
    (∀ (c : Chip) n r, ((c.streamMap i).find? (fun e => e.1 == fld r 0 2 % 4096) = none → c.takeRecord n i r = c.discard n) ∧
      (∀ a dst, (c.streamMap i).find? (fun e => e.1 == fld r 0 2 % 4096) = some (a, dst) →
        (olderThan (c.slot dst) (BitVec.ofNat 32 (fld r 8 4)) = true → c.takeRecord n i r = c) ∧
        (olderThan (c.slot dst) (BitVec.ofNat 32 (fld r 8 4)) = false → ∃ d : Chip,
          d = c.produce dst (BitVec.ofNat 32 (fld r 4 4)) (BitVec.ofNat 32 (fld r 8 4)) ((BitVec.ofNat 16 (fld r 2 2) &&& 0x3FD) ||| qREMOTE) (producerOf 6 i) ∧
          c.takeRecord n i r = d.setStream i { c.stream i with count := (c.stream i).count + 1 }))) ∧
    (∀ src, s.chip.isHostStream i = false → (s.chip.stream i).state ≠ 0 → s.chip.srcNode i = src →
      Leads (.accept src i) s (s.chip.setStream i { s.chip.stream i with state := 2, reason := 0, timer := some (s.chip.clk.now + sec 1) }) ∧
      ∀ reason, Leads (.refuse src i reason) s
        (s.chip.setStream i { s.chip.stream i with state := 3, reason := reason, timer := some (s.chip.clk.now + sec 10) })) ∧
    (∀ src, Leads (.unsubscribe src i) s (s.chip.dropSub src i)) ∧
    (∀ n (d : Chip) (b : SubscribeBody), s.chip.linkRuns n = true → s.chip.linkUp n = true → (s.chip.rxCount n).rxPass n 1 [] = (false, d) →
      Leads (.subscribe n b) s d ∧ SamePlant s.chip d) ∧
    (∀ n (d : Chip) (b : SubscribeBody), s.chip.linkRuns n = true → s.chip.linkUp n = true → (s.chip.rxCount n).rxPass n 1 [] = (true, d) →
      (∀ x : Subscription, d.findSub b.src b.stream = some x → x.cls = b.cls → x.interval = b.interval → x.sids = b.sids → x.rate = b.rate →
        Leads (.subscribe n b) s ((d.setSub { x with renewed := d.clk.now }).sendCtrl b.src (.accept b.src b.stream))) ∧
      ((∀ x : Subscription, d.findSub b.src b.stream = some x →
          ¬(x.cls = b.cls ∧ x.interval = b.interval ∧ x.sids = b.sids ∧ x.rate = b.rate)) → (∀ r, d.subRefused b = some r →
          Leads (.subscribe n b) s ((d.dropSub b.src b.stream).sendCtrl b.src (.refuse b.src b.stream r))) ∧
        (d.subRefused b = none → ∃ (x : Subscription) (e : Chip), Leads (.subscribe n b) s (e.sendCtrl b.src (.accept b.src b.stream)) ∧
          e.fabric.subs = (d.dropSub b.src b.stream).fabric.subs ++ [x] ∧ x.node = b.src ∧ x.stream = b.stream ∧ x.cls = b.cls ∧ x.sids = b.sids ∧
          x.rate = b.rate ∧ x.interval = b.interval ∧ x.seq = 0 ∧ x.renewed = d.clk.now ∧ x.bucket = 120000000 ∧ SamePlant s.chip e))) ∧
    (∀ d, (s.chip.stream i).timer = some d → s.chip.isHostStream i = false → (s.chip.stream i).state ≠ 0 → ∃ c : Chip, d ≤ c.clk.now ∧
      c.streams = s.chip.streams ∧ SamePlant s.chip c ∧ Leads (.subscribeRetry i) s (c.subscribeTry i) ∧
      (c.reaches (c.srcNode i) = false → c.subscribeTry i =
        c.setStream i { c.stream i with state := 4, timer := some (c.clk.now + sec 1) }) ∧
      (c.reaches (c.srcNode i) = true → ((c.subscribeTry i).stream i).state = (if (s.chip.stream i).state = 2 then 2 else 1) ∧
        ((c.subscribeTry i).stream i).timer = some (c.clk.now + sec 1) ∧ ∀ j, j ≠ i → (c.subscribeTry i).stream j = s.chip.stream j)) ∧
    (∀ node x, s.chip.findSub node i = some x → ∃ c : Chip, Leads (.subscriptionDrop node i) s (c.dropSub node i) ∧
      x.renewed + sec 3 ≤ c.clk.now ∧ c.fabric = s.chip.fabric ∧ SamePlant s.chip c) ∧
    (∀ node x, s.chip.findSub node i = some x → (s.chip.pendingImages x).isEmpty = false → s.chip.reaches node = true → ∃ c : Chip,
      c = s.chip.waitUntil (s.chip.exportAt x) ∧
      (c.nextHop node = none ∨ c.fabric.addr = none → Leads (.exportFrame node i) s c) ∧ ∀ n a, c.nextHop node = some n → c.fabric.addr = some a →
        ∃ (js : List Nat) (y : Subscription), js = (c.pendingImages x).take (if x.cls = 0 then 4 else 32) ∧
          Leads (.exportFrame node i) s ((c.setSub y).egress n (flockFrame 0 x.cls 16 node a
            (leBytes 2 i ++ leBytes 2 x.seq.toNat ++ (js.map (fun j => c.signalRecord (x.sids.getD j 0))).flatten)) false) ∧
          y.seq = x.seq + 1 ∧ y.lastSent = some c.clk.now ∧ y.node = x.node ∧ y.stream = x.stream ∧ y.sids = x.sids ∧ y.rate = x.rate ∧
          ∀ j, j ∈ js → j < x.sids.length → y.seen.getD j none = some (Tbl.get dZero c.slotWrites (x.sids.getD j 0))) ∧
    (s.chip.isHostStream i = true → (s.chip.stream i).state = 2 → (s.chip.changedImages i).isEmpty = false → ∃ c d : Chip,
      c.streams = s.chip.streams ∧ SamePlant s.chip c ∧ (∀ t, (s.chip.stream i).timer = some t → t ≤ c.clk.now) ∧ d = c.writeHostRecord i ∧
      ((s.chip.stream i).closing = [] ∨ (d.changedImages i).isEmpty = false → Leads (.hostStreamRecord i) s d) ∧
      ((s.chip.stream i).closing ≠ [] → (d.changedImages i).isEmpty = true → Leads (.hostStreamRecord i) s (d.closeStream i)))) ∧
  ((∀ (s : State) n src token cls p, s.chip.linkRuns n = false ∨ s.chip.linkUp n = false → Leads (.phiveox n src token cls p) s s.chip) ∧
  (∀ (s : State) n src token cls p (d : Chip), s.chip.linkRuns n = true → s.chip.linkUp n = true →
    (s.chip.rxCount n).rxPass n cls (phiveoxPayload token p) = (false, d) → SamePlant s.chip d ∧ Leads (.phiveox n src token cls p) s d) ∧
  (∀ (s : State) n src token cls p (d : Chip), s.chip.linkRuns n = true → s.chip.linkUp n = true →
    (s.chip.rxCount n).rxPass n cls (phiveoxPayload token p) = (true, d) → SamePlant s.chip d ∧
    (bit (fld p 12 1) 4 = true → Leads (.phiveox n src token cls p) s (d.replyArrives src token p)) ∧
    (bit (fld p 12 1) 4 = false → Leads (.phiveox n src token cls p) s (d.commandArrives src token p))) ∧
  (∀ (c : Chip) src token p,
    (∀ ctx, c.remoteCtx src token = some ctx → c.commandArrives src token p = c.pushRemote ctx p) ∧
    (∀ ctx, c.remoteCtx src token = none → c.freeRemote = some ctx → c.commandArrives src token p =
      (c.mapRemote ctx src token (protoVer (fld p 0 1) (fld p 1 1))).pushRemote ctx p) ∧
    (c.remoteCtx src token = none → c.freeRemote = none → c.commandArrives src token p =
      c.sendPhiveox src (fld p 12 1 % 4) (phiveoxPayload token
        (refusalPacket p (if fld p 2 2 = 0 then stNoResource else stBadOpcode) (if fld p 2 2 = 0 then noOfs else 2)))) ∧
    (0xFF00 ≤ token → c.replyArrives src token p = c.finishTag (token - 0xFF00) (fld p 4 2) (fld p 16 1) (fld p 18 2) (p.drop 20)) ∧
    (token < 0xFF00 → c.boundNode token ≠ some src → c.replyArrives src token p = c) ∧
    (token < 0xFF00 → c.boundNode token = some src →
      (∀ k, c.findCmd token (fld p 4 2) = some k →
        (fld p 16 1 = stAccepted → c.replyArrives src token p =
          (c.setCmd { k with reserved := k.reserved - entriesFor (c.queue (completionQueue token)).eshift 20 }).deliver
            (completionQueue token) (fld p 12 1 % 4) p 0) ∧
        (fld p 16 1 ≠ stAccepted → ∃ d : Chip, d = (c.dropCmd token (fld p 4 2)).deliver (completionQueue token) (fld p 12 1 % 4) p 0 ∧
          (k.family ≠ 0 ∨ 1 < k.opcode → c.replyArrives src token p = d) ∧
          (k.family = 0 → k.opcode = 0 → fld p 16 1 = stOK → c.replyArrives src token p = { d with
            sessions := Tbl.set dSession d.sessions token ⟨true, protoVer (fld p 20 1) (fld p 21 1), min (fld p 28 2) (d.queue token).depth⟩ }) ∧
          (k.family = 0 → k.opcode ≤ 1 → k.opcode = 1 ∨ fld p 16 1 ≠ stOK → c.replyArrives src token p = d.endSession token))) ∧
      (c.findCmd token (fld p 4 2) = none →
        (c.canReserve token (entriesFor (c.queue (completionQueue token)).eshift p.length) = true →
          c.replyArrives src token p = c.deliver (completionQueue token) (fld p 12 1 % 4) p 0) ∧
        (c.canReserve token (entriesFor (c.queue (completionQueue token)).eshift p.length) = false →
          c.replyArrives src token p = c.setQueue (completionQueue token) { c.queue (completionQueue token) with loss := true })))))

/-- A CAN controller sends and receives: of the frames that wait and have crossed into it, the one it offers in MODE CAN is the
one of the least rank; it is in flight when it wins and waits on when it loses; a frame sent is counted and answered; one
received is counted and goes to the first filter that matches; an error frame is counted and recorded, and the counters move the
error state; a controller with automatic recovery leaves bus-off with both counters 0; a dominant time-out and a wake-up are
told. Each row out of its condition changes nothing. -/
def Obligations.CanSendsAndReceives : Prop :=
  (∀ (s : State) (m : Nat),
    (s.chip.canDrives m = false ∨ (s.chip.canOf m).flight ≠ none ∨ s.chip.pickFrame m = none →
      ∀ won, Leads (.canArbitrationStart m won) s s.chip) ∧
    ((s.chip.canOf m).flight = none ∨ s.chip.power.main.up = false ∨ s.chip.islandHeld = true → Leads (.txDone m) s s.chip) ∧
    (∀ f : CanFrame, s.chip.power.main.up = false ∨ (s.chip.canOf m).started = false ∨ (s.chip.canOf m).err = 2 ∨ s.chip.islandHeld = true ∨
      (f.fdf = true ∧ s.chip.canFd m = false) → Leads (.canFrameReceived m f) s s.chip) ∧
    (∀ ty phase id tec recv, s.chip.power.main.up = false ∨ (s.chip.canOf m).started = false ∨ (s.chip.canOf m).err = 2 ∨
      s.chip.islandHeld = true ∨ 5 < ty → Leads (.canErrorFrame m ty phase id tec recv) s s.chip) ∧
    (s.chip.power.main.up = false ∨ (s.chip.canOf m).started = false ∨ canCount s.chip.fuses.variant ≤ m → Leads (.domTimeout m) s s.chip) ∧
    (s.chip.power.main.up = false ∨ (s.chip.canOf m).started = false ∨ s.chip.islandHeld = true ∨ (s.chip.canOf m).err ≠ 2 ∨
      bit (s.chip.canCfg m) 5 = false → Leads (.busOffRecovered m) s s.chip) ∧
    (s.chip.power.main.up = false ∨ (s.chip.canOf m).started = true ∨ canCount s.chip.fuses.variant ≤ m ∨ bit (s.chip.canCfg m) 8 = false →
      Leads (.wup m) s s.chip)) ∧
  (∀ (c : Chip) m p, c.canTT m = false → c.pickFrame m = some p → p ∈ (c.canOf m).pend ∧ p.excl = false ∧ p.since + 2 ≤ c.clk.now ∧
    ∀ q, q ∈ (c.canOf m).pend → q.excl = false → q.since + 2 ≤ c.clk.now → arbRank (c.pendFrame m p) ≤ arbRank (c.pendFrame m q)) ∧
  (∀ (c : Chip) m tec recv, ((c.setCounts m tec recv).canOf m).tec = tec ∧ ((c.setCounts m tec recv).canOf m).recv = recv ∧
    ((c.setCounts m tec recv).canOf m).err = (if (c.canOf m).err = 2 then 2 else errStateOf tec recv) ∧
    (∀ j, j ≠ m → (c.setCounts m tec recv).canOf j = c.canOf j)) ∧
  ∀ (s : State) (m : Nat),
    (∀ p, s.chip.canDrives m = true → (s.chip.canOf m).flight = none → s.chip.pickFrame m = some p → ∃ x : CanPend, x.num = p.num ∧
      x.attempts = p.attempts + 1 ∧ x.stamp = s.chip.stamp ∧ x.frame = s.chip.pendFrame m p ∧ x.obj = p.obj ∧ x.cmd = p.cmd ∧
      (∃ c : Chip, Leads (.canArbitrationStart m true) s c ∧ c.canOf m = { s.chip.canOf m with
        flight := some ⟨x, false, []⟩, pend := (s.chip.canOf m).pend.filter (fun q => q.num != p.num) } ∧
        (∀ j, j ≠ m → c.canOf j = s.chip.canOf j) ∧ SamePlant s.chip c) ∧
      (∃ c : Chip, Leads (.canArbitrationStart m false) s c ∧ c.canOf m = { s.chip.canOf m with
        pend := (s.chip.canOf m).pend.map (fun q => if q.num == p.num then x else q) } ∧
        (∀ j, j ≠ m → c.canOf j = s.chip.canOf j) ∧ SamePlant s.chip c)) ∧
    (∀ f, (s.chip.canOf m).flight = some f → s.chip.power.main.up = true → s.chip.islandHeld = false → ∃ c : Chip,
      Leads (.txDone m) s ((((c.canMsg m 0 f.pend.tag).endSend f.pend 0).answerCancels f stTooLate).afterFlight m) ∧
      (c.canOf m).flight = none ∧ (c.canOf m).sent = (s.chip.canOf m).sent + 1 ∧ (c.canOf m).tec = (s.chip.canOf m).tec - 1 ∧
      (c.canOf m).wire = (s.chip.canOf m).wire ++ [f.pend.frame] ∧
      (f.pend.cmd = none → (c.canObj m f.pend.obj).seq = ((s.chip.canObj m f.pend.obj).seq + 1) % 256) ∧
      (∀ j, j ≠ m → c.canOf j = s.chip.canOf j) ∧ SamePlant s.chip c) ∧
    (s.chip.power.main.up = true → (s.chip.canOf m).started = true → s.chip.islandHeld = false → (s.chip.canOf m).err ≠ 2 →
      (∀ f : CanFrame, (f.fdf = true → s.chip.canFd m = true) → ∃ c : Chip, (c.canOf m).received = (s.chip.canOf m).received + 1 ∧
        ((s.chip.canOf m).recv ≤ 127 → (c.canOf m).recv = (s.chip.canOf m).recv - 1) ∧
        (127 < (s.chip.canOf m).recv → 119 ≤ (c.canOf m).recv ∧ (c.canOf m).recv ≤ 127) ∧
        (∀ i e, (c.filters m).find? (fun e => filterMatches e.2 f) = some (i, e) → Leads (.canFrameReceived m f) s (c.filterFrame m i e f)) ∧
        ((c.filters m).find? (fun e => filterMatches e.2 f) = none →
          (bit (c.canCfg m) 7 = true → Leads (.canFrameReceived m f) s
            (c.arrive (42 + 4 * m) 1 (c.rxRecord m 0xFF f) (BitVec.ofNat 32 (canNote 1 0x3F)))) ∧
          (bit (c.canCfg m) 7 = false → Leads (.canFrameReceived m f) s (c.modCan m (fun x => { x with filtered := x.filtered + 1 })))) ∧
        (∀ j, j ≠ m → c.canOf j = s.chip.canOf j) ∧ SamePlant s.chip c) ∧
      (∀ ty phase id tec recv, ty < 5 → ∃ c : Chip, (c.canOf m).errors = (s.chip.canOf m).errors + 1 ∧ (c.canOf m).tec = tec ∧ (c.canOf m).recv = recv ∧
        (c.canOf m).flight = (s.chip.canOf m).flight ∧
        Leads (.canErrorFrame m ty phase id tec recv) s ((c.errorRecord m ty (b2n phase) id).flightFails m) ∧ SamePlant s.chip c) ∧
      (∀ phase id tec recv, Leads (.canErrorFrame m 5 phase id tec recv) s (s.chip.errorRecord m 5 (b2n phase) id)) ∧
      (m < canCount s.chip.fuses.variant → Leads (.domTimeout m) s (s.chip.canErr m 8))) ∧
    (s.chip.power.main.up = true → (s.chip.canOf m).started = true → s.chip.islandHeld = false → (s.chip.canOf m).err = 2 →
      bit (s.chip.canCfg m) 5 = true → ∃ c : Chip, Leads (.busOffRecovered m) s (c.canErr m 1) ∧
      c.canOf m = { s.chip.canOf m with err := 0, tec := 0, recv := 0 } ∧ SamePlant s.chip c) ∧
    (s.chip.power.main.up = true → (s.chip.canOf m).started = false → m < canCount s.chip.fuses.variant → bit (s.chip.canCfg m) 8 = true →
      Leads (.wup m) s (s.chip.canErr m 7))

/-- A time-triggered controller keeps its schedule: a reference message begins a cycle; a master sends the next one a reference
period later or at its aligned instant; a window's start opens it, and an exclusive window on an idle bus sends its object, or
its oldest frame, once; a reference that stays away for half as long again ends sending with S2; a frame whose window does not
exist ends with outcome 4; transmit objects become pending by period and by change where there is room, and wait where there is
none (log entry 53). Each row out of its condition changes nothing. -/
def Obligations.CanKeepsItsSchedule : Prop :=
  (∀ (s : State) (m : Nat),
    (s.chip.ttRuns m = false → (∀ prio cycle, Leads (.referenceMessage m prio cycle) s s.chip) ∧ (∀ won, Leads (.referenceDue m won) s s.chip) ∧
      Leads (.s2Timeout m) s s.chip ∧ ∀ idle, Leads (.windowStart m idle) s s.chip) ∧
    (∀ prio cycle, 7 < prio → Leads (.referenceMessage m prio cycle) s s.chip) ∧
    (bit (s.chip.ttCfg m) 22 = false ∨ s.chip.canSilent m = true → ∀ won, Leads (.referenceDue m won) s s.chip) ∧
    ((s.chip.canOf m).level = 2 → Leads (.s2Timeout m) s s.chip) ∧
    ((s.chip.canOf m).synced = false ∨ (s.chip.canOf m).level = 2 ∨ s.chip.nextWindow m = none → ∀ idle, Leads (.windowStart m idle) s s.chip) ∧
    (∀ ctx tag, (s.chip.canOf m).pend.find? (fun p => p.excl && p.cmd == some (ctx, tag)) = none → Leads (.noWindow m ctx tag) s s.chip) ∧
    (∀ ctx tag p, (s.chip.canOf m).pend.find? (fun p => p.excl && p.cmd == some (ctx, tag)) = some p →
      (s.chip.windows m).any (fun w => winType w == 1 && winTxo w == p.obj) = true → Leads (.noWindow m ctx tag) s s.chip) ∧
    (∀ o, s.chip.eventObj m o = false ∨ (s.chip.canObj m o).periodDue = none ∨ fld (s.chip.txObj m o) 10 2 = 0 →
      Leads (.txobjPeriod m o) s s.chip) ∧
    (∀ o, s.chip.eventObj m o = false ∨ s.chip.objWrites m o = (s.chip.canObj m o).seen → Leads (.txobjSlotChange m o) s s.chip)) ∧
  (∀ (c : Chip) m o, c.canSilent m = false →
    ((c.canOf m).flight = none → c.txKind m o = 1 ∨ c.txKind m o = 2 → c.exclusiveWindow m o true = c.modCan m (fun s => { s with
      flight := some ⟨⟨s.nextNum, none, o, true, c.buildFrame m o, 1, c.stamp, c.clk.now⟩, true, []⟩ })) ∧
    (∀ p, (c.canOf m).flight = none → c.txKind m o = 3 → (c.canOf m).pend.find? (fun p => p.excl && p.obj == o && c.crossed p) = some p →
      c.exclusiveWindow m o true = (c.dropPend m p.num).modCan m (fun s => { s with
        flight := some ⟨{ p with attempts := p.attempts + 1, stamp := c.stamp }, true, []⟩ })) ∧
    (∀ idle, idle = false ∨ (c.canOf m).flight ≠ none → c.txKind m o = 1 ∨ c.txKind m o = 2 → c.exclusiveWindow m o idle = c.s1Cause m) ∧
    (∀ idle p, idle = false ∨ (c.canOf m).flight ≠ none → c.txKind m o = 3 →
      (c.canOf m).pend.find? (fun p => p.excl && p.obj == o && c.crossed p) = some p →
      c.exclusiveWindow m o idle = (((c.s1Cause m).dropPend m p.num).endSend p 2).refillCan m)) ∧
  ∀ (s : State) (m : Nat),
    (s.chip.ttRuns m = true →
      (∀ prio cycle, prio ≤ 7 → ∃ c : Chip, Leads (.referenceMessage m prio cycle) s (c.s1Expire m) ∧ (c.canOf m).refAt = s.chip.clk.now ∧
        (c.canOf m).cycle = cycle % 64 ∧ (c.canOf m).synced = true ∧ (c.canOf m).master = false ∧ (c.canOf m).winTime = none ∧
        (c.canOf m).received = (s.chip.canOf m).received + 1 ∧ ((s.chip.canOf m).level = 2 → (c.canOf m).level = 0) ∧
        ((s.chip.canOf m).level ≠ 2 → (c.canOf m).level = (s.chip.canOf m).level) ∧ (∀ j, j ≠ m → c.canOf j = s.chip.canOf j) ∧ SamePlant s.chip c) ∧
      (bit (s.chip.ttCfg m) 22 = true → s.chip.canSilent m = false → s.chip.aligned m = false → ∃ c : Chip,
        (s.chip.canOf m).refAt + s.chip.refPeriod m ≤ c.clk.now ∧ c.can = s.chip.can ∧ SamePlant s.chip c ∧
        Leads (.referenceDue m true) s (c.sendReference m (if (s.chip.canOf m).synced = true then ((s.chip.canOf m).cycle + 1) % s.chip.cycles m else 0)) ∧
        Leads (.referenceDue m false) s (c.modCan m (fun x => { x with master := false }))) ∧
      (bit (s.chip.ttCfg m) 22 = true → s.chip.canSilent m = false → s.chip.aligned m = true → ∃ (c : Chip) (t : Nat), t = (s.chip.alignTarget m).1 ∧
        SamePlant s.chip c ∧ s.chip.clk.now ≤ c.clk.now ∧ c.canOf m = s.chip.canOf m ∧
        Leads (.referenceDue m true) s ((c.modCan m (fun x => { x with alignAt := some t, alignSteps := s.chip.fabric.steps })).sendReference m
          ((t - bits (s.chip.attrN tyCan m 6) 16 16) / max 1 (s.chip.alignP m) % s.chip.cycles m)) ∧
        Leads (.referenceDue m false) s (c.modCan m (fun x => { x with master := false, alignAt := none }))) ∧
      ((s.chip.canOf m).level ≠ 2 → ∃ c : Chip, (s.chip.canOf m).refAt + s.chip.refPeriod m * 3 / 2 ≤ c.clk.now ∧ c.can = s.chip.can ∧
        Leads (.s2Timeout m) s (((c.modCan m (fun x => { x with winTime := none, winEnd := none })).errorRecord m 6 0 0).setLevel m 2) ∧
        SamePlant s.chip c) ∧
      (∀ t idle, (s.chip.canOf m).synced = true → (s.chip.canOf m).level ≠ 2 → s.chip.nextWindow m = some t → ∃ c : Chip,
        (s.chip.canOf m).refAt + t * s.chip.bitTime m ≤ c.clk.now ∧ c.can = s.chip.can ∧ SamePlant s.chip c ∧
        ((s.chip.windows m).find? (fun w => winTime w == t && winIn w (s.chip.canOf m).cycle) = none →
          Leads (.windowStart m idle) s (c.modCan m (fun x => { x with winTime := some t, winEnd := none }))) ∧
        (∀ w, (s.chip.windows m).find? (fun w => winTime w == t && winIn w (s.chip.canOf m).cycle) = some w →
          (winType w = 1 → Leads (.windowStart m idle) s
            ((c.modCan m (fun x => { x with winTime := some t, winEnd := none })).exclusiveWindow m (winTxo w) idle)) ∧
          (winType w = 2 → Leads (.windowStart m idle) s (c.modCan m (fun x => { x with
            winTime := some t, winEnd := some ((s.chip.canOf m).refAt + c.windowEnd m (s.chip.canOf m).cycle 128 t * c.bitTime m) }))) ∧
          (3 < winType w → Leads (.windowStart m idle) s (c.modCan m (fun x => { x with winTime := some t, winEnd := none }))) ∧
          (winType w = 3 → Leads (.windowStart m idle) s (c.modCan m (fun x => { x with winTime := some t, winEnd := (s.chip.canOf m).winEnd })))))) ∧
    (∀ ctx tag p, (s.chip.canOf m).pend.find? (fun p => p.excl && p.cmd == some (ctx, tag)) = some p →
      (s.chip.windows m).any (fun w => winType w == 1 && winTxo w == p.obj) = false → ∃ c : Chip,
      Leads (.noWindow m ctx tag) s (((c.dropPend m p.num).endSend p 4).refillCan m) ∧
      p.since + s.chip.cycles m * s.chip.refPeriod m ≤ c.clk.now ∧ c.can = s.chip.can ∧ SamePlant s.chip c) ∧
    (∀ o, s.chip.eventObj m o = true →
      (∀ d, (s.chip.canObj m o).periodDue = some d → fld (s.chip.txObj m o) 10 2 ≠ 0 →
        (s.chip.objRoom m o = true → ∃ c : Chip, Leads (.txobjPeriod m o) s c ∧ d ≤ c.clk.now ∧
          (c.canObj m o).periodDue = some (d + ms (fld (s.chip.txObj m o) 10 2)) ∧ (c.canObj m o).lastPend = some c.clk.now ∧ SamePlant s.chip c) ∧
        (s.chip.objRoom m o = false → ∃ c : Chip, Leads (.txobjPeriod m o) s c ∧ d ≤ c.clk.now ∧ c.can = s.chip.can ∧ SamePlant s.chip c)) ∧
      (s.chip.objWrites m o ≠ (s.chip.canObj m o).seen → ∃ c : Chip, Leads (.txobjSlotChange m o) s (c.objPending m o) ∧ c.can = s.chip.can ∧
        SamePlant s.chip c ∧ ∀ t, (s.chip.canObj m o).lastPend = some t → t + ms (fld (s.chip.txObj m o) 8 2) ≤ c.clk.now) ∧
      (∀ c : Chip, ((c.canOf m).pend.any (fun p => p.cmd.isNone && p.obj == o) = false → (c.canOf m).pendCount < 32 →
          ((c.objPending m o).canOf m).pend = (c.canOf m).pend ++ [⟨(c.canOf m).nextNum, none, o, false,
            c.buildFrame m o, 0, 0, c.clk.now⟩]) ∧
        ((c.canOf m).pend.any (fun p => p.cmd.isNone && p.obj == o) = false → 32 ≤ (c.canOf m).pendCount → c.objPending m o = c)))

/-- Panels in time: a frame boundary comes a frame period after the last, drives every transition that has begun by a frame
unless it is late, begins those placed two periods before, puts VCOM in force where nothing is in transition, starts what waits
unless a YELIST_LOAD holds it (log entry 88), and does a power-down that waits for it; the rails go up and down step by step,
each after its delay, and tell when they are up or down; a rail that is not good, or late in rising, takes them down with the
fault told; the idle time takes them down at the next boundary. Each row out of its condition changes nothing. -/
def Obligations.PanelsDriveAndPower : Prop :=
  (∀ (c : Chip) d, ((c.driveFrame d).panel d).pixels =
    ((c.panel d).pixels.map (fun e => (e.1, (advancePixel c.clk.now (c.wave d) e.2).1))).filter (fun e => e.2 != dPixel e.1)) ∧
  (∀ now t (p : Pixel) (x : Transition) at_, p.trans = some x → x.fresh = some at_ → advancePixel now t p =
    ({ p with trans := some { x with fresh := if at_ + 2 ≤ now then none else some at_ } }, false)) ∧
  (∀ (s : State) (d : Nat),
    (∀ late, s.chip.power.main.up = false ∨ (s.chip.panel d).rails ≠ .up ∨ s.chip.islandHeld = true →
      Leads (.panelFrameBoundary d late) s s.chip) ∧
    ((s.chip.panel d).rails = .off ∨ (s.chip.panel d).rails = .up → Leads (.railStep d) s s.chip) ∧
    (∀ notGood, (s.chip.panel d).rails ≠ .up → Leads (.railFault d notGood false) s s.chip) ∧
    (∀ notGood, (s.chip.panel d).rails ≠ .rising → Leads (.railFault d notGood true) s s.chip) ∧
    (s.chip.power.main.up = false ∨ (s.chip.panel d).rails ≠ .up ∨ bit (s.chip.panelCfg d) 1 = false ∨ s.chip.attrN tyPanel d 6 = 0 ∨
      s.chip.anyTransition d = true ∨ (s.chip.panel d).updates ≠ [] ∨ (s.chip.panel d).down ≠ none → Leads (.railIdleExpiry d) s s.chip)) ∧
  ∀ (s : State) (d : Nat),
    (∀ late, s.chip.power.main.up = true → (s.chip.panel d).rails = .up → s.chip.islandHeld = false → ∃ (b c : Chip),
      (s.chip.panel d).frameAt ≤ b.clk.now ∧ b.panel d = { s.chip.panel d with frameAt := b.clk.now + s.chip.framePeriod d } ∧
      (∀ j, j ≠ d → b.panel j = s.chip.panel j) ∧ b.slots = s.chip.slots ∧
      c = (if late = true then b.panelFault d 7 0 else b.driveFrame d) ∧
      ((s.chip.panel d).down = some false → Leads (.panelFrameBoundary d late) s (c.railsFall d)) ∧
      ((s.chip.panel d).down = some true → Leads (.panelFrameBoundary d late) s ((c.interrupt d 4).railsFall d)) ∧
      ((s.chip.panel d).down = none → ∃ e : Chip,
        e = (if c.anyTransition d = true then c else c.modPanel d (fun x => { x with vcom := c.attrN tyPanel d 4 })) ∧
        (e.loadHolds d = true → Leads (.panelFrameBoundary d late) s e) ∧
        (e.loadHolds d = false → Leads (.panelFrameBoundary d late) s (((e.judgePending d).startUpdates d).endUpdates d)))) ∧
    ((s.chip.panel d).step < 4 → (s.chip.panel d).rails = .rising ∨ (s.chip.panel d).rails = .falling → ∃ c : Chip, Leads (.railStep d) s c ∧
      c.clk.now = s.chip.clk.now + s.chip.railDelay d (s.chip.panel d).step ∧
      c.panel d = { s.chip.panel d with
        step := (s.chip.panel d).step + 1
        on := if (s.chip.panel d).rails = .rising then max (s.chip.panel d).on ((s.chip.panel d).step + 2)
          else min (s.chip.panel d).on (3 - (s.chip.panel d).step) } ∧
      (∀ j, j ≠ d → c.panel j = s.chip.panel j) ∧ c.slots = s.chip.slots) ∧
    (4 ≤ (s.chip.panel d).step →
      ((s.chip.panel d).rails = .rising → ∃ c : Chip,
        Leads (.railStep d) s ((c.fire (96 + 2 * d) (2 + 65536 * s.chip.powerTag d)).endPower d true stOK) ∧
        (c.panel d).rails = .up ∧ (c.panel d).fault = false ∧ (c.panel d).frameAt = s.chip.clk.now ∧ (∀ j, j ≠ d → c.panel j = s.chip.panel j)) ∧
      ((s.chip.panel d).rails = .falling → ∃ c : Chip, (c.panel d).rails = .off ∧ (c.panel d).on = 0 ∧ (∀ j, j ≠ d → c.panel j = s.chip.panel j) ∧
        ((s.chip.panel d).fault = true ∨ s.chip.power.main.up = false → Leads (.railStep d) s (c.endPower d false stOK)) ∧
        ((s.chip.panel d).fault = false → s.chip.power.main.up = true →
          Leads (.railStep d) s ((c.fire (96 + 2 * d) (3 + 65536 * s.chip.powerTag d)).endPower d false stOK)))) ∧
    (∀ notGood, ∃ c : Chip, (c.panel d).rails = .falling ∧ (c.panel d).fault = true ∧ (c.panel d).step = 0 ∧ (c.panel d).down = none ∧
      (c.panel d).on ≤ 4 ∧ (∀ j, j ≠ d → c.panel j = s.chip.panel j) ∧
      ((s.chip.panel d).rails = .up → Leads (.railFault d notGood false) s
        (((c.interrupt d 1).panelFault d 0 (notGood % 32)).endPower d true stPowerLimit)) ∧
      ((s.chip.panel d).rails = .rising → Leads (.railFault d notGood true) s
        (((c.interrupt d 1).panelFault d 1 (notGood % 32)).endPower d true stPowerLimit))) ∧
    (s.chip.power.main.up = true → (s.chip.panel d).rails = .up → bit (s.chip.panelCfg d) 1 = true → s.chip.attrN tyPanel d 6 ≠ 0 →
      s.chip.anyTransition d = false → (s.chip.panel d).updates = [] → (s.chip.panel d).down = none → ∃ c : Chip, Leads (.railIdleExpiry d) s c ∧
      (s.chip.panel d).idleFrom + ms (s.chip.attrN tyPanel d 6) ≤ c.clk.now ∧ c.panel d = { s.chip.panel d with down := some false } ∧
      (∀ j, j ≠ d → c.panel j = s.chip.panel j) ∧ c.slots = s.chip.slots)

/-- What a panel shows: an update takes the images that are there and its pixels' targets at its snapshot, and a long one is
accepted then; the band follows the temperature every second and its loss is told; the sweep takes a tile in turn when no host
update is there and no YELIST_LOAD holds the panel; the compositor reads its fields every second and renders one whose text
changed, later where its shortest interval is not over. Each row out of its condition changes nothing. -/
def Obligations.PanelsShowTheirUpdates : Prop :=
  (∀ (c : Chip) d, ((c.evalBand d).panel d).band = bandOf (c.wave d) (c.panelTemp d).1 (c.panel d).band ∧
    ((c.evalBand d).panel d).tempFb = (c.panelTemp d).2 ∧
    ((c.panel d).band.isSome = true → bandOf (c.wave d) (c.panelTemp d).1 (c.panel d).band = none → ∃ e : Chip,
      c.evalBand d = e.panelFault d 4 0 ∧ e.events = c.events) ∧
    ((c.panel d).band = none ∨ (bandOf (c.wave d) (c.panelTemp d).1 (c.panel d).band).isSome = true → (c.evalBand d).events = c.events)) ∧
  (∀ (s : State) d,
    (s.chip.power.main.up = false ∨ panelCount s.chip.fuses.variant ≤ d → Leads (.regionSnapshot d) s s.chip ∧ Leads (.bandEvaluation d) s s.chip) ∧
    (s.chip.power.main.up = false ∨ (s.chip.panel d).rails ≠ .up ∨ bits (s.chip.attrN tyPanel d 10) 0 8 = 0 ∨ s.chip.hostUpdates d ≠ 0 ∨
      s.chip.islandHeld = true ∨ s.chip.loadHolds d = true ∨ (s.chip.panel d).band = none → Leads (.sweepTile d) s s.chip) ∧
    (s.chip.power.main.up = false ∨ panelCount s.chip.fuses.variant = 0 → Leads .compositorRead s s.chip) ∧
    (∀ j, s.chip.power.main.up = false ∨ (s.chip.field j).due = false ∨ s.chip.fieldOn j = false ∨
      (s.chip.panel (fieldPanel (s.chip.fieldRec j))).fault = true → Leads (.fieldRenderDue j) s s.chip)) ∧
  ∀ (s : State), s.chip.power.main.up = true →
    (∀ d, d < panelCount s.chip.fuses.variant →
      ((s.chip.panel d).updates.find? (fun u => !u.taken) = none → Leads (.regionSnapshot d) s
        (s.chip.takeImages d (s.chip.queue (56 + 2 * d)).tail (s.chip.queue (56 + 2 * d)).depth)) ∧
      (∀ u, (s.chip.panel d).updates.find? (fun u => !u.taken) = some u → ∃ (b c e : Chip),
        b = s.chip.takeImages d u.tail (s.chip.queue (56 + 2 * d)).depth ∧ (u.clear = none → c = b) ∧
        (∀ l, u.clear = some l → c = b.modPanel d (fun x => (rectKeys u.x u.y u.w u.h).foldl (fun x k => x.setTarget k l) x)) ∧
        e = c.setPanel d ((c.panel d).modUpdate u.num (fun x =>
          { x with taken := true, takenAt := c.clk.now, todo := (rectKeys u.x u.y u.w u.h).map (fun k => (k, (c.panel d).target k)) })) ∧
        (∀ ctx tag k, u.source = .host ctx tag → e.findCmd ctx tag = some k → Leads (.regionSnapshot d) s (e.accept k)) ∧
        ((∀ ctx tag, u.source ≠ .host ctx tag) → Leads (.regionSnapshot d) s e)) ∧
      (∃ c : Chip, Leads (.bandEvaluation d) s (c.evalBand d) ∧ (s.chip.panel d).bandAt ≤ c.clk.now ∧
        c.panel d = { s.chip.panel d with bandAt := c.clk.now + sec 1 } ∧ (∀ j, j ≠ d → c.panel j = s.chip.panel j) ∧ c.slots = s.chip.slots)) ∧
    (∀ d band, (s.chip.panel d).rails = .up → bits (s.chip.attrN tyPanel d 10) 0 8 ≠ 0 → s.chip.hostUpdates d = 0 → s.chip.islandHeld = false →
      s.chip.loadHolds d = false →
      (s.chip.panel d).band = some band → ∃ (c : Chip) (x y w h across down : Nat), across = (s.chip.hActive d + 15) / 16 ∧
      down = (s.chip.vActive d + 15) / 16 ∧ x = 16 * ((s.chip.panel d).tile % across) ∧ y = 16 * ((s.chip.panel d).tile / across % down) ∧
      w = min 16 (s.chip.hActive d - x) ∧ h = min 16 (s.chip.vActive d - y) ∧ (s.chip.panel d).tileAt ≤ c.clk.now ∧
      c.panel d = { s.chip.panel d with
        tile := ((s.chip.panel d).tile + 1) % (across * down), tileAt := c.clk.now + sec 60 / bits (s.chip.attrN tyPanel d 10) 0 8 } ∧
      (∀ j, j ≠ d → c.panel j = s.chip.panel j) ∧ c.slots = s.chip.slots ∧
      (c.admits d x y w h = false → Leads (.sweepTile d) s c) ∧
      (c.admits d x y w h = true → ∃ f : Chip → Nat → Chip, Leads (.sweepTile d) s ((rectKeys x y w h).foldl f c) ∧
        (∀ (e : Chip) k, ((e.panel d).pixel k).busy = true ∨ ((e.panel d).pixel k).pending.isSome = true → f e k = e) ∧
        (∀ (e : Chip) k, ((e.panel d).pixel k).ledger.natAbs < bits (s.chip.attrN tyPanel d 10) 8 7 → f e k = e) ∧
        (∀ (e : Chip) k seq l, ((e.panel d).pixel k).busy = false → ((e.panel d).pixel k).pending = none →
          bits (s.chip.attrN tyPanel d 10) 8 7 ≤ ((e.panel d).pixel k).ledger.natAbs →
          sweepPick (e.wave d) (bits (s.chip.attrN tyPanel d 10) 16 2) band ((e.panel d).pixel k) = some (seq, l) →
          f e k = e.startPixel d k seq l true (some e.clk.now)) ∧
        (∀ (e : Chip) k, sweepPick (e.wave d) (bits (s.chip.attrN tyPanel d 10) 16 2) band ((e.panel d).pixel k) = none → f e k = e))) ∧
    (panelCount s.chip.fuses.variant ≠ 0 → ∃ c : Chip, Leads .compositorRead s ((List.range 64).foldl (fun x j => x.readField j) c) ∧
      s.chip.plate.readAt ≤ c.clk.now ∧ c.plate = { s.chip.plate with readAt := c.clk.now + sec 1 } ∧ c.panels = s.chip.panels ∧
      c.slots = s.chip.slots) ∧
    (∀ j, (s.chip.field j).due = true → s.chip.fieldOn j = true → (s.chip.panel (fieldPanel (s.chip.fieldRec j))).fault = false → ∃ c : Chip,
      s.chip.renderFrom j ≤ c.clk.now ∧ c.plate = s.chip.plate ∧ c.panels = s.chip.panels ∧ c.slots = s.chip.slots ∧
      ((c.field j).drawn = some (c.fieldText j) → Leads (.fieldRenderDue j) s (c.setField j { c.field j with due := false })) ∧
      ((c.field j).drawn ≠ some (c.fieldText j) → Leads (.fieldRenderDue j) s (c.renderOrHold j)))

/-! ### The governor and the dogs -/

/-- The thermal governor. While the always-on domain runs, THERMAL_UPDATE waits for its due time and filters the power of each
source, follows the sites, estimates the die and keeps the peak; from the estimate it warns at 110 °C and ends the warning below
105 °C, shuts down in part at 135 °C and fully at 140 °C and ends the partial shutdown below 130 °C, and counts the cool updates
of a full one. Where no shutdown begins, the step timers run: a step up at 120 °C, and again each 200 updates from 115 °C on; a
step down each 1000 updates below. Each step found is taken or undone by its own row, within 0 to 8; the greater of s_T and the
floor is in force, with E101, E123 where the floor moved it, and the VACT limit follows. A full shutdown ends after 1000 cool
updates. A row with nothing to do changes nothing. -/
def Obligations.ThermalGovernorActs : Prop :=
  (∀ (c : Chip) power sites, ∃ ss : List SiteSt,
    let q := filterPowers ((List.range 5).map (fun d => if d < 4 && !c.power.main.up then 0 else (power.getD d 0 : Rat) / 1000)) c.thermal.q
    let t := (c.estimate power sites).thermal
    t.q = q ∧ t.sites = ss ∧ t.base = nextBase q c.thermal.base ss ∧
    t.est = q16 (t.base + modelledRise q 4 + (if t.noSite then 10 else 0)) ∧
    t.updates = c.thermal.updates + 1 ∧ t.peak = max c.thermal.peak t.est ∧ t.step = c.thermal.step) ∧
  (∀ (c : Chip), (degC 110 ≤ c.thermal.est → c.thermal.warn = false → ∃ d : Chip, c.judgeWarn = d.fire 100 (c.thermalCause 0) ∧
      d.thermal = { c.thermal with warn := true }) ∧
    (c.thermal.est < degC 105 → c.judgeWarn = c.setThermal (fun t => { t with warn := false })) ∧
    (degC 105 ≤ c.thermal.est → c.thermal.est < degC 110 ∨ c.thermal.warn = true → c.judgeWarn = c) ∧
    (c.thermal.full = true → c.judgeShutdown =
      (false, c.setThermal (fun t => { t with okCount := if c.coolEnough then t.okCount + 1 else 0 }))) ∧
    (c.thermal.full = false → degC 140 ≤ c.thermal.est → c.judgeShutdown = (true, c.fullShutdown.fire 102 (c.thermalCause 1))) ∧
    (c.thermal.full = false → c.thermal.shutdown = false → degC 135 ≤ c.thermal.est → c.thermal.est < degC 140 →
      c.judgeShutdown = (true, c.partialShutdown.fire 102 (c.thermalCause 0))) ∧
    (c.thermal.full = false → c.thermal.shutdown = true → c.thermal.est < degC 130 → c.judgeShutdown = (false, c.endShutdown)) ∧
    (c.thermal.full = false → c.thermal.est < degC 135 → c.thermal.shutdown = false ∨ degC 130 ≤ c.thermal.est →
      c.judgeShutdown = (false, c)) ∧
    (max c.thermal.stepT c.floorNow = c.thermal.step → ∀ b, c.applyStep b = c) ∧
    (max c.thermal.stepT c.floorNow ≠ c.thermal.step → ∃ d : Chip,
      d.thermal.step = max c.thermal.stepT c.floorNow ∧ SamePlant c d ∧
      ∀ b, c.applyStep b =
        (let e := d.fire 101 (c.thermalCause (max c.thermal.stepT c.floorNow +
            16 * b2n (decide (c.thermal.step < max c.thermal.stepT c.floorNow)) + 32 * b2n b))
         (if b then e.powerLimit 1 c.thermal.budget else e).fitVact !(decide (c.thermal.step < max c.thermal.stepT c.floorNow))))) ∧
  (∀ (t : ThermalSt), (degC 120 ≤ t.est → t.risen = false ∨ 199 ≤ t.hot →
      t.judgeStep = { t with stepsUp := t.stepsUp + b2n (decide (t.stepT + t.stepsUp < 8 + t.stepsDown)), risen := true, hot := 0, cool := 0 }) ∧
    (degC 115 ≤ t.est → t.est < degC 120 ∨ (t.risen = true ∧ t.hot < 199) → t.judgeStep = { t with hot := t.hot + 1, cool := 0 }) ∧
    (t.est < degC 115 → t.cool < 999 → t.judgeStep = { t with risen := false, hot := 0, cool := t.cool + 1 }) ∧
    (t.est < degC 115 → 999 ≤ t.cool →
      t.judgeStep = { t with stepsDown := t.stepsDown + b2n (decide (t.stepsDown < t.stepT + t.stepsUp)), risen := false, hot := 0, cool := 0 })) ∧
  ∀ (s : State),
    (∀ power sites, s.chip.power.aoOn = true → ∃ b c : Chip, s.chip.thermalDue ≤ b.clk.now ∧ b.thermal = s.chip.thermal ∧ SamePlant s.chip b ∧
      c.thermal = (b.estimate power sites).thermal ∧ c.clk = b.clk ∧
      (c.judgeWarn.judgeShutdown.1 = true → Leads (.thermalUpdate power sites) s c.judgeWarn.judgeShutdown.2) ∧
      (c.judgeWarn.judgeShutdown.1 = false → Leads (.thermalUpdate power sites) s (c.judgeWarn.judgeShutdown.2.setThermal ThermalSt.judgeStep))) ∧
    (s.chip.thermal.stepsUp ≠ 0 → Leads .throttleStepTaken s
      ((s.chip.setThermal (fun t => { t with stepsUp := t.stepsUp - 1, stepT := min 8 (t.stepT + 1) })).applyStep false)) ∧
    (s.chip.thermal.stepsDown ≠ 0 → Leads .throttleStepUndone s
      ((s.chip.setThermal (fun t => { t with stepsDown := t.stepsDown - 1, stepT := t.stepT - 1 })).applyStep false)) ∧
    (s.chip.thermal.full = true → 1000 ≤ s.chip.thermal.okCount → ∃ c : Chip, Leads .shutdownRelease s c ∧
      c.thermal = { s.chip.thermal with full := false, shutdown := false, okCount := 0 } ∧ c.power.thermalHold = false ∧
      c.power.main = (if s.chip.power.main = .shutdown then .reset else s.chip.power.main) ∧ SamePlant s.chip c) ∧
    (s.chip.power.aoOn = false → ∀ power sites, Leads (.thermalUpdate power sites) s s.chip) ∧
    (s.chip.thermal.stepsUp = 0 → Leads .throttleStepTaken s s.chip) ∧ (s.chip.thermal.stepsDown = 0 → Leads .throttleStepUndone s s.chip) ∧
    (s.chip.thermal.full = false ∨ s.chip.thermal.okCount < 1000 → Leads .shutdownRelease s s.chip)

/-- The sheepdogs, memory errors and the lost heartbeat. Each bite is counted, saturating. While the main side is up: a core's
bite runs the command it names once more, and resets the main side where that command is a rerun already; a lane's abandons the
evaluation running there, or the one it would take; the Orrery's ends the zone update due, else the first prediction, with BUSY;
a fold port's resets the requester's engine, then fires E114; the main dog of a running bank resets the main side; a host silent
for its period is lost. In its boot the main and boot dogs wait, find the bank verified and reset; the shepherd's restarts its
core. A memory error: single, corrected and counted; else E117, with a reset (SRAM), the line's contents lost (DRAM), or the
address noted while booting or loading an image (flash). Any row out of its condition changes nothing; an address outside the
memory faults. What an engine has in hand is the row's operand (log entry 55); the TAG of a second bite is that of the bitten
command (log entry 89). -/
def Obligations.DogsBite : Prop :=
  (∀ (c : Chip) dog, Tbl.get (fun _ => (0 : Half)) (c.bite dog).dogs.bites dog =
    (if Tbl.get (fun _ => (0 : Half)) c.dogs.bites dog = 0xFFFF then 0xFFFF else Tbl.get (fun _ => (0 : Half)) c.dogs.bites dog + 1) ∧
    SamePlant c (c.bite dog)) ∧
  (∀ (c : Chip), ∃ d : Chip, c.loseHeartbeat = (d.bite 20).fire 115 (bits (c.attrN tyDevice 0 0x702) 0 8 + 256 * (c.safeMask.map (2 ^ ·)).sum) ∧
    d.dogs.hbLost = true ∧ d.attrs = c.attrs ∧ d.flash = c.flash) ∧
  (∀ (c : Chip), (∀ z, c.dueZone = some z → c.orreryLoses.1 = some z ∧
      ((c.zone z).fit.isSome = false → c.orreryLoses.2 = c.setZone z { c.zone z with due := (c.zone z).due.map (· + sec (c.zonePeriod z)) }) ∧
      ((c.zone z).fit.isSome = true →
        c.orreryLoses.2 = (c.setZone z { c.zone z with due := (c.zone z).due.map (· + sec (c.zonePeriod z)) }).startFit z)) ∧
    (c.dueZone = none → c.predictions = [] → c.orreryLoses = (none, c)) ∧
    (∀ p rest, c.dueZone = none → c.predictions = p :: rest → c.orreryLoses.1 = some p.zone ∧
      (∀ x t, p.cmd = some (x, t) → c.orreryLoses.2 = ({ c with predictions := rest } : Chip).finishTag x t stBusy noOfs []) ∧
      (p.cmd = none → c.orreryLoses.2 = { c with predictions := rest }))) ∧
  (∀ (c : Chip) hand, (∀ port, port < 8 → c.portBitten port hand = c.coreBite port hand) ∧
    (∀ port, 8 ≤ port → port < 12 → c.portBitten port hand = c.laneBite (port + 1)) ∧
    c.portBitten 12 hand = c.orreryLoses.2 ∧ c.portBitten 13 hand = { c with host := { c.host with held := [], wErr := true } } ∧
    c.portBitten 14 hand = c ∧ c.portBitten 15 hand = c ∧ c.portBitten 16 hand = c.shepherdDog ∧
    c.portBitten 17 hand = c.setSampler (fun m => { m with dues := m.dues.map (fun r => { r with word := setBits r.word 14 1 0 }) }) ∧
    c.portBitten 18 hand = c ∧ c.portBitten 19 hand = c ∧
    (∀ n k, hand = some (n, k) → c.portBitten 20 hand =
        c.setLink n { c.link n with discarded := (c.link n).discarded + BitVec.ofNat 32 k } ∧
      (n < canCount c.fuses.variant → c.portBitten 21 hand = c.loseRecord (42 + 4 * n))) ∧
    (hand = none → c.portBitten 20 hand = c ∧ c.portBitten 21 hand = c)) ∧
  (∀ (c : Chip) line, ((Config.dramLine line).1 % 4 = 0 → c.lineLost line = c) ∧
    (∀ d, (Config.dramLine line).1 % 4 = 1 → (Config.dramLine line).2 % 2 = d → c.lineLost line =
      (if panelCount c.fuses.variant ≤ d then c else c.modPanel d (fun s =>
        ((rectKeys 0 0 (c.hActive d) (c.vActive d)).filter (Config.dramPixel line)).foldl
          (fun s k => s.setPixel k { s.pixel k with level := none, trans := none }) s))) ∧
    ((Config.dramLine line).1 % 4 = 2 → c.lineLost line = { c with log := { c.log with ring := c.log.ring.eraseIdx (Config.dramLine line).2 } }) ∧
    ((Config.dramLine line).1 % 4 = 3 → c.lineLost line = c.loseRecord ((Config.dramLine line).2 % 64))) ∧
  (∀ (s : State) mem addr single, memSize mem ≤ addr → exec (.memoryEcc mem addr single) s = .fault .noSuchAddress) ∧
  ∀ (s : State),
    (s.chip.power.main.up = true →
      (∀ core, core < 8 → ∃ c : Chip, c.counters.coreResets = s.chip.counters.coreResets + 1 ∧ c.dogs = (s.chip.bite (core + 1)).dogs ∧ SamePlant s.chip c ∧
        (∀ cmd, cmd.bind (fun k => s.chip.findCmd k.1 k.2) = none → Leads (.coreDog core cmd) s (c.fire 112 (dogCause (core + 1)))) ∧
        (∀ x t k, s.chip.findCmd x t = some k → k.rerun = false → ∃ d : Chip, d.counters.reruns = s.chip.counters.reruns + 1 ∧ d.cmds = s.chip.cmds ∧
          Leads (.coreDog core (some (x, t))) s ((d.setCmd { k with rerun := true }).fire 112 (core + 1 + 65536 * k.tag))) ∧
        (∀ x t k, s.chip.findCmd x t = some k → k.rerun = true → Leads (.coreDog core (some (x, t))) s
          (((c.mainReset 4 (core + 1)).fire 112 (core + 1 + 256 + 65536 * k.tag)).logFault 7 core))) ∧
      (∀ dog l, 9 ≤ dog → dog ≤ 12 → (s.chip.runningOn (dog - 9)).or (s.chip.nextEval.map Prod.fst) = some l → ∃ c : Chip,
        Leads (.engineDog dog) s (c.fire 113 (dog + 65536 * l)) ∧
        ((s.chip.loop l).running.isSome = true → c.loop l = { s.chip.loop l with running := none }) ∧
        ((s.chip.loop l).running.isSome = false → c.loop l = { s.chip.loop l with pending := none }) ∧
        (∀ j, j ≠ l → c.loop j = s.chip.loop j) ∧ c.counters.abandoned = s.chip.counters.abandoned + 1 ∧ SamePlant s.chip c) ∧
      (∀ dog, 9 ≤ dog → dog ≤ 12 → s.chip.runningOn (dog - 9) = none → s.chip.nextEval = none → Leads (.engineDog dog) s s.chip) ∧
      (∀ z (d : Chip), s.chip.orreryLoses = (some z, d) → Leads (.engineDog 13) s ((d.bite 13).fire 113 (13 + 65536 * z))) ∧
      (s.chip.orreryLoses.1 = none → Leads (.engineDog 13) s s.chip) ∧
      (∀ dram port hand, foldPort dram port = true → ∃ c : Chip, (dram = true → c.foldD = s.chip.foldD.bite port ∧ c.foldS = s.chip.foldS) ∧
        (dram = false → c.foldS = s.chip.foldS.bite port ∧ c.foldD = s.chip.foldD) ∧ c.dogs = (s.chip.bite (if dram then 15 else 14)).dogs ∧
        SamePlant s.chip c ∧
        Leads (.foldDog dram port hand) s ((c.portBitten port hand).fireWith 114 (BitVec.ofNat 32 (port + 256 * b2n dram)) (BitVec.ofNat 32 port))) ∧
      (∀ core, core < 8 → s.chip.firmware.running.isSome = true → ∃ c : Chip, Leads (.mainDog core) s (c.fire 112 (dogCause 16)) ∧
        c.power.main = .reset ∧ c.cmds = [] ∧ c.ring = [] ∧
        c.power.lastReset = some s.chip.clk.now ∧ c.slots = s.chip.slots ∧ c.flash = s.chip.flash) ∧
      (∀ core, core < 8 → s.chip.firmware.running.isSome = false → Leads (.mainDog core) s s.chip) ∧
      (bits (s.chip.attrN tyDevice 0 0x702) 0 8 ≠ 0 → s.chip.dogs.hbArmed = true → s.chip.dogs.hbLost = false → ∃ c : Chip,
        Leads .heartbeatLost s c.loseHeartbeat ∧ s.chip.dogs.lastBeat + sec (bits (s.chip.attrN tyDevice 0 0x702) 0 8) ≤ c.clk.now ∧
        c.dogs = s.chip.dogs ∧ SamePlant s.chip c)) ∧
    (s.chip.power.main = .booting ∨ s.chip.mayRelease = true →
      (∃ w : Chip, s.chip.released.dogs.release.getD 0 + sec 15 ≤ w.clk.now ∧
        Leads .bootDog s (((w.bankVerified w.chooseBank).logBanks w.chooseBank).dogReset 17)) ∧
      (s.chip.power.main.up = false → ∀ core, core < 8 → ∃ w : Chip, s.chip.released.dogs.release.getD 0 + sec 1 ≤ w.clk.now ∧
        (w.chooseBank.bank.isSome = true → Leads (.mainDog core) s (((w.bankVerified w.chooseBank).logBanks w.chooseBank).dogReset 16)) ∧
        (w.chooseBank.bank.isSome = false → Leads (.mainDog core) s w))) ∧
    (s.chip.power.aoOn = true → Leads .shepherdDog s ((s.chip.bite 22).fire 112 (dogCause 22))) ∧
    (∀ mem addr, s.chip.mainRuns = true → addr < memSize mem →
      (∃ c : Chip, Leads (.memoryEcc mem addr true) s c ∧ SamePlant s.chip c ∧ c.power = s.chip.power ∧
        (mem = 0 → c.counters = { s.chip.counters with sramEcc := s.chip.counters.sramEcc + 1 }) ∧
        (mem = 1 → c.counters = { s.chip.counters with dramEcc := s.chip.counters.dramEcc + 1 }) ∧
        (mem = 2 → c.counters = { s.chip.counters with flashEcc := s.chip.counters.flashEcc + 1 })) ∧
      (∃ c : Chip, c.counters = { s.chip.counters with uncorrectable := s.chip.counters.uncorrectable + 1 } ∧ SamePlant s.chip c ∧
        (mem = 0 → Leads (.memoryEcc mem addr false) s (((c.bite 18).mainReset 4 18).fire 117 (256 * (addr / 256)))) ∧
        (mem = 1 → Leads (.memoryEcc mem addr false) s ((c.fire 117 (1 + 256 * (addr / 256))).lineLost (addr / 16))) ∧
        (mem = 2 → ∃ d : Chip, d = c.fire 117 (2 + 256 * (addr / 256)) ∧
          (s.chip.power.main = .booting ∨ s.chip.image.loading.isSome = true → Leads (.memoryEcc mem addr false) s
            { d with image := { d.image with badFlash := d.image.badFlash ++ [addr] } }) ∧
          (s.chip.power.main ≠ .booting → s.chip.image.loading.isSome = false → Leads (.memoryEcc mem addr false) s d)))) ∧
    (s.chip.power.main.up = false → (∀ core cmd, Leads (.coreDog core cmd) s s.chip) ∧ (∀ dog, Leads (.engineDog dog) s s.chip) ∧
      (∀ dram port hand, Leads (.foldDog dram port hand) s s.chip) ∧ Leads .heartbeatLost s s.chip) ∧
    (∀ core, 8 ≤ core → (∀ cmd, Leads (.coreDog core cmd) s s.chip) ∧ Leads (.mainDog core) s s.chip) ∧
    (∀ dog, dog < 9 ∨ 13 < dog → Leads (.engineDog dog) s s.chip) ∧
    (∀ dram port hand, foldPort dram port = false → Leads (.foldDog dram port hand) s s.chip) ∧
    (s.chip.power.main ≠ .booting → s.chip.mayRelease = false → Leads .bootDog s s.chip ∧
      (s.chip.power.main.up = false → ∀ core, Leads (.mainDog core) s s.chip)) ∧
    (bits (s.chip.attrN tyDevice 0 0x702) 0 8 = 0 ∨ s.chip.dogs.hbArmed = false ∨ s.chip.dogs.hbLost = true → Leads .heartbeatLost s s.chip) ∧
    (s.chip.power.aoOn = false → Leads .shepherdDog s s.chip) ∧
    (s.chip.mainRuns = false → ∀ mem addr single, addr < memSize mem → Leads (.memoryEcc mem addr single) s s.chip)

end
end

