-- ==== Sys2Proof/Laws/Table.lean ====
section
/-! SUPPORT. What reading and writing a sparse table does, and that every write keeps the canonical form. -/

namespace Sys2Proof.Machine

variable {α : Type}

@[simp] theorem Tbl.get_nil (d : Nat → α) (k : Nat) : Tbl.get d [] k = d k := rfl

theorem Tbl.get_insert_same (d : Nat → α) (t : Tbl α) (k : Nat) (v : α) : Tbl.get d (Tbl.insert t k v) k = v := by
  induction t with
  | nil => simp [Tbl.insert, Tbl.get]
  | cons e t ih =>
    obtain ⟨k', v'⟩ := e
    simp only [Tbl.insert]
    split
    · simp [Tbl.get]
    · split
      · simp [Tbl.get]
      · rename_i h1 h2
        have : k' ≠ k := fun h => h2 h.symm
        simp [Tbl.get, this, ih]

theorem Tbl.get_insert_other (d : Nat → α) (t : Tbl α) (k j : Nat) (v : α) (h : j ≠ k) :
    Tbl.get d (Tbl.insert t k v) j = Tbl.get d t j := by
  have h' : k ≠ j := fun e => h e.symm
  induction t with
  | nil => simp [Tbl.insert, Tbl.get, h']
  | cons e t ih =>
    obtain ⟨k', v'⟩ := e
    simp only [Tbl.insert]
    split
    · simp [Tbl.get, h']
    · split
      · rename_i h1 h2
        subst h2
        simp [Tbl.get, h']
      · simp only [Tbl.get, ih]

theorem Tbl.get_erase_same (d : Nat → α) (t : Tbl α) (k : Nat) : Tbl.get d (Tbl.erase t k) k = d k := by
  induction t with
  | nil => rfl
  | cons e t ih =>
    obtain ⟨k', v'⟩ := e
    simp only [Tbl.erase]
    split
    · exact ih
    · rename_i h
      simp [Tbl.get, h, ih]

theorem Tbl.get_erase_other (d : Nat → α) (t : Tbl α) (k j : Nat) (h : j ≠ k) :
    Tbl.get d (Tbl.erase t k) j = Tbl.get d t j := by
  induction t with
  | nil => rfl
  | cons e t ih =>
    obtain ⟨k', v'⟩ := e
    simp only [Tbl.erase]
    split
    · rename_i h1
      have : k' ≠ j := fun e => h (e ▸ h1)
      simp [Tbl.get, this, ih]
    · simp only [Tbl.get, ih]

variable [DecidableEq α]

/-- Read after write, at the same key. -/
@[simp] theorem Tbl.get_set_same (d : Nat → α) (t : Tbl α) (k : Nat) (v : α) : Tbl.get d (Tbl.set d t k v) k = v := by
  unfold Tbl.set
  split
  · rename_i h
    rw [Tbl.get_erase_same, h]
  · exact Tbl.get_insert_same d t k v

/-- Read after write, at another key. -/
theorem Tbl.get_set_other (d : Nat → α) (t : Tbl α) (k j : Nat) (v : α) (h : j ≠ k) :
    Tbl.get d (Tbl.set d t k v) j = Tbl.get d t j := by
  unfold Tbl.set
  split
  · exact Tbl.get_erase_other d t k j h
  · exact Tbl.get_insert_other d t k j v h

/-- Both at once. -/
theorem Tbl.get_set (d : Nat → α) (t : Tbl α) (k j : Nat) (v : α) :
    Tbl.get d (Tbl.set d t k v) j = if j = k then v else Tbl.get d t j := by
  split
  · rename_i h
    subst h
    exact Tbl.get_set_same d t j v
  · rename_i h
    exact Tbl.get_set_other d t k j v h

@[simp] theorem Tbl.get_modify_same (d : Nat → α) (t : Tbl α) (k : Nat) (f : α → α) :
    Tbl.get d (Tbl.modify d t k f) k = f (Tbl.get d t k) := Tbl.get_set_same d t k _

theorem Tbl.get_modify_other (d : Nat → α) (t : Tbl α) (k j : Nat) (f : α → α) (h : j ≠ k) :
    Tbl.get d (Tbl.modify d t k f) j = Tbl.get d t j := Tbl.get_set_other d t k j _ h

/-! ### The canonical form -/

omit [DecidableEq α] in
theorem Tbl.above_mono {j k : Nat} (t : Tbl α) (h : j ≤ k) (ha : Tbl.above k t = true) : Tbl.above j t = true := by
  simp only [Tbl.above, List.all_eq_true, decide_eq_true_eq] at *
  intro e he
  exact Nat.lt_of_le_of_lt h (ha e he)

omit [DecidableEq α] in
theorem Tbl.above_insert {j : Nat} (t : Tbl α) (k : Nat) (v : α) (hj : j < k) (ha : Tbl.above j t = true) :
    Tbl.above j (Tbl.insert t k v) = true := by
  induction t with
  | nil => simp [Tbl.insert, Tbl.above, hj]
  | cons e t ih =>
    obtain ⟨k', v'⟩ := e
    simp only [Tbl.above, List.all_cons, Bool.and_eq_true, decide_eq_true_eq] at ha
    simp only [Tbl.insert]
    split
    · simp [Tbl.above, hj, ha.1]
      simpa using ha.2
    · split
      · simp [Tbl.above, hj]
        simpa using ha.2
      · have := ih (by simpa [Tbl.above] using ha.2)
        simp only [Tbl.above, List.all_cons, Bool.and_eq_true, decide_eq_true_eq]
        exact ⟨ha.1, by simpa [Tbl.above] using this⟩

omit [DecidableEq α] in
theorem Tbl.above_erase {j : Nat} (t : Tbl α) (k : Nat) (ha : Tbl.above j t = true) : Tbl.above j (Tbl.erase t k) = true := by
  induction t with
  | nil => rfl
  | cons e t ih =>
    obtain ⟨k', v'⟩ := e
    simp only [Tbl.above, List.all_cons, Bool.and_eq_true] at ha
    simp only [Tbl.erase]
    split
    · exact ih ha.2
    · simp only [Tbl.above, List.all_cons, Bool.and_eq_true]
      exact ⟨ha.1, ih ha.2⟩

theorem Tbl.wf_insert (d : Nat → α) (t : Tbl α) (k : Nat) (v : α) (hv : v ≠ d k) (h : Tbl.wf d t = true) :
    Tbl.wf d (Tbl.insert t k v) = true := by
  induction t with
  | nil => simp [Tbl.insert, Tbl.wf, Tbl.above, hv]
  | cons e t ih =>
    obtain ⟨k', v'⟩ := e
    simp only [Tbl.wf, Bool.and_eq_true, decide_eq_true_eq] at h
    simp only [Tbl.insert]
    split
    · rename_i hk
      simp only [Tbl.wf, Bool.and_eq_true, decide_eq_true_eq]
      refine ⟨⟨?_, hv⟩, h⟩
      have := Tbl.above_mono t (Nat.le_of_lt hk) h.1.1
      simp only [Tbl.above, List.all_cons, Bool.and_eq_true, decide_eq_true_eq]
      exact ⟨hk, this⟩
    · split
      · rename_i hk
        subst hk
        simp only [Tbl.wf, Bool.and_eq_true, decide_eq_true_eq]
        exact ⟨⟨h.1.1, hv⟩, h.2⟩
      · simp only [Tbl.wf, Bool.and_eq_true, decide_eq_true_eq]
        exact ⟨⟨Tbl.above_insert t k v (by omega) h.1.1, h.1.2⟩, ih h.2⟩

theorem Tbl.wf_erase (d : Nat → α) (t : Tbl α) (k : Nat) (h : Tbl.wf d t = true) : Tbl.wf d (Tbl.erase t k) = true := by
  induction t with
  | nil => rfl
  | cons e t ih =>
    obtain ⟨k', v'⟩ := e
    simp only [Tbl.wf, Bool.and_eq_true, decide_eq_true_eq] at h
    simp only [Tbl.erase]
    split
    · exact ih h.2
    · simp only [Tbl.wf, Bool.and_eq_true, decide_eq_true_eq]
      exact ⟨⟨Tbl.above_erase t k h.1.1, h.1.2⟩, ih h.2⟩

/-- A write keeps the canonical form. -/
theorem Tbl.wf_set (d : Nat → α) (t : Tbl α) (k : Nat) (v : α) (h : Tbl.wf d t = true) : Tbl.wf d (Tbl.set d t k v) = true := by
  unfold Tbl.set
  split
  · exact Tbl.wf_erase d t k h
  · rename_i hv
    exact Tbl.wf_insert d t k v hv h

theorem Tbl.wf_modify (d : Nat → α) (t : Tbl α) (k : Nat) (f : α → α) (h : Tbl.wf d t = true) :
    Tbl.wf d (Tbl.modify d t k f) = true := Tbl.wf_set d t k _ h

theorem Tbl.wf_setRun (d : Nat → α) (vs : List α) (t : Tbl α) (k : Nat) (h : Tbl.wf d t = true) :
    Tbl.wf d (Tbl.setRun d t k vs) = true := by
  induction vs generalizing t k with
  | nil => exact h
  | cons v vs ih => exact ih _ _ (Tbl.wf_set d t k v h)

theorem Tbl.wf_filter (d : Nat → α) (t : Tbl α) (p : Nat × α → Bool) (h : Tbl.wf d t = true) :
    Tbl.wf d (t.filter p) = true := by
  induction t with
  | nil => rfl
  | cons e t ih =>
    obtain ⟨k', v'⟩ := e
    simp only [Tbl.wf, Bool.and_eq_true, decide_eq_true_eq] at h
    simp only [List.filter_cons]
    split
    · simp only [Tbl.wf, Bool.and_eq_true, decide_eq_true_eq]
      refine ⟨⟨?_, h.1.2⟩, ih h.2⟩
      simp only [Tbl.above, List.all_eq_true, decide_eq_true_eq] at *
      intro e he
      exact h.1.1 e (List.mem_filter.mp he).1
    · exact ih h.2

theorem Tbl.wf_dropRange (d : Nat → α) (t : Tbl α) (lo hi : Nat) (h : Tbl.wf d t = true) :
    Tbl.wf d (Tbl.dropRange t lo hi) = true := Tbl.wf_filter d t _ h

/-- A key in a dropped range reads as an unlisted one. -/
theorem Tbl.get_dropRange_in (d : Nat → α) (t : Tbl α) (lo hi k : Nat) (h1 : lo ≤ k) (h2 : k < hi) :
    Tbl.get d (Tbl.dropRange t lo hi) k = d k := by
  unfold Tbl.dropRange
  induction t with
  | nil => rfl
  | cons e t ih =>
    rw [List.filter_cons]
    split
    · rename_i he
      have hne : e.1 ≠ k := by intro h; subst h; simp [h1, h2] at he
      obtain ⟨a, v⟩ := e
      show (if a = k then v else Tbl.get d _ k) = _
      rw [if_neg hne]; exact ih
    · exact ih

/-- A key outside a dropped range reads as before. -/
theorem Tbl.get_dropRange_out (d : Nat → α) (t : Tbl α) (lo hi k : Nat) (h : k < lo ∨ hi ≤ k) :
    Tbl.get d (Tbl.dropRange t lo hi) k = Tbl.get d t k := by
  unfold Tbl.dropRange
  induction t with
  | nil => rfl
  | cons e t ih =>
    obtain ⟨a, v⟩ := e
    rw [List.filter_cons]
    split
    · show (if a = k then v else Tbl.get d _ k) = (if a = k then v else Tbl.get d t k)
      rw [ih]
    · rename_i he
      have hne : a ≠ k := by rintro rfl; simp at he; omega
      show _ = (if a = k then v else Tbl.get d t k)
      rw [if_neg hne]; exact ih

end Sys2Proof.Machine
end

