-- ==== Sys2Proof/Laws/Bits.lean ====
section
/-! SUPPORT. Byte order, bit fields and runs of bytes in a sparse memory. -/

namespace Sys2Proof.Machine

@[simp] theorem leBytes_length (w n : Nat) : (leBytes w n).length = w := by
  induction w generalizing n with
  | zero => rfl
  | succ w ih => simp [leBytes, ih]

/-- Little-endian bytes spell their number, modulo what they hold. -/
theorem leNat_leBytes (w n : Nat) : leNat (leBytes w n) = n % 256 ^ w := by
  induction w generalizing n with
  | zero => simp [leBytes, leNat, Nat.mod_one]
  | succ w ih =>
    simp only [leBytes, leNat, ih, BitVec.toNat_ofNat]
    rw [show (2 : Nat) ^ 8 = 256 from rfl, Nat.pow_succ', Nat.mod_mul]

@[simp] theorem zeros_length (n : Nat) : (zeros n).length = n := by simp [zeros]

/-- A field that lies in the first part of a packet. -/
theorem fld_append_left (a b : List Byte) (o n : Nat) (h : o + n ≤ a.length) : fld (a ++ b) o n = fld a o n := by
  have h1 : o ≤ a.length := by omega
  have h2 : n ≤ (a.drop o).length := by simp; omega
  unfold fld slice
  rw [List.drop_append_of_le_length h1, List.take_append_of_le_length h2]

/-- A field that lies in the second part of a packet. -/
theorem fld_append_right (a b : List Byte) (o n : Nat) (h : a.length ≤ o) : fld (a ++ b) o n = fld b (o - a.length) n := by
  unfold fld slice
  rw [List.drop_append, List.drop_eq_nil_of_le h, List.nil_append]

/-- A whole packet as one field. -/
theorem fld_all (a : List Byte) (n : Nat) (h : a.length = n) : fld a 0 n = leNat a := by
  unfold fld slice
  rw [List.drop_zero, List.take_of_length_le (by omega)]

variable {α : Type} [DecidableEq α]

/-- Writing a run leaves what lies outside it. -/
theorem Tbl.get_setRun_other (d : Nat → α) (vs : List α) (t : Tbl α) (k j : Nat) (h : j < k ∨ k + vs.length ≤ j) :
    Tbl.get d (Tbl.setRun d t k vs) j = Tbl.get d t j := by
  induction vs generalizing t k with
  | nil => rfl
  | cons v vs ih =>
    simp only [Tbl.setRun]
    rw [ih]
    · exact Tbl.get_set_other _ _ _ _ _ (by simp at h; omega)
    · simp at h ⊢; omega

/-- Writing a run puts each value in its place. -/
theorem Tbl.get_setRun_at (d : Nat → α) (vs : List α) (t : Tbl α) (k i : Nat) (h : i < vs.length) :
    Tbl.get d (Tbl.setRun d t k vs) (k + i) = vs[i] := by
  induction vs generalizing t k i with
  | nil => simp at h
  | cons v vs ih =>
    simp only [Tbl.setRun]
    cases i with
    | zero =>
      rw [Tbl.get_setRun_other _ _ _ _ _ (Or.inl (by omega))]
      simp
    | succ i =>
      have := ih (Tbl.set d t k v) (k + 1) i (by simpa using h)
      rw [show k + (i + 1) = k + 1 + i by omega, this]
      simp

omit [DecidableEq α] in
@[simp] theorem Tbl.getRun_length (d : Nat → α) (t : Tbl α) (k n : Nat) : (Tbl.getRun d t k n).length = n := by
  induction n generalizing k with
  | zero => rfl
  | succ n ih => simp [Tbl.getRun, ih]

omit [DecidableEq α] in
theorem Tbl.getRun_getElem (d : Nat → α) (t : Tbl α) (k n i : Nat) (h : i < (Tbl.getRun d t k n).length) :
    (Tbl.getRun d t k n)[i] = Tbl.get d t (k + i) := by
  induction n generalizing k i with
  | zero => simp at h
  | succ n ih =>
    cases i with
    | zero => rfl
    | succ i =>
      have := ih (k + 1) i (by simpa using h)
      simp only [Tbl.getRun, List.getElem_cons_succ, this]
      congr 1
      omega

omit [DecidableEq α] in
/-- Two memories that agree on a run read the same there. -/
theorem Tbl.getRun_congr (d : Nat → α) (t u : Tbl α) (k n : Nat) (h : ∀ i, i < n → Tbl.get d t (k + i) = Tbl.get d u (k + i)) :
    Tbl.getRun d t k n = Tbl.getRun d u k n := by
  apply List.ext_getElem (by simp)
  intro i h1 h2
  rw [Tbl.getRun_getElem, Tbl.getRun_getElem]
  exact h i (by simpa using h1)

/-- A run reads back as it was written. -/
theorem Tbl.getRun_setRun (d : Nat → α) (vs : List α) (t : Tbl α) (k : Nat) :
    Tbl.getRun d (Tbl.setRun d t k vs) k vs.length = vs := by
  apply List.ext_getElem (by simp)
  intro i h1 h2
  rw [Tbl.getRun_getElem, Tbl.get_setRun_at _ _ _ _ _ h2]

end Sys2Proof.Machine
end

