-- ==== Sys2Proof/Laws/State.lean ====
section
/-! SUPPORT. One lemma per field per update of the module, true by `rfl`: what each setter writes, and that it leaves every
other field as it was. -/

namespace Sys2Proof.Machine

variable (c : Chip)

@[simp] theorem Chip.setGroup_fuses (k : Nat) (s : GroupSt) : (c.setGroup k s).fuses = c.fuses := rfl
@[simp] theorem Chip.setGroup_clk (k : Nat) (s : GroupSt) : (c.setGroup k s).clk = c.clk := rfl
@[simp] theorem Chip.setGroup_slots (k : Nat) (s : GroupSt) : (c.setGroup k s).slots = c.slots := rfl
@[simp] theorem Chip.setGroup_overrides (k : Nat) (s : GroupSt) : (c.setGroup k s).overrides = c.overrides := rfl
@[simp] theorem Chip.setGroup_produced (k : Nat) (s : GroupSt) : (c.setGroup k s).produced = c.produced := rfl
@[simp] theorem Chip.setGroup_slotWrites (k : Nat) (s : GroupSt) : (c.setGroup k s).slotWrites = c.slotWrites := rfl
@[simp] theorem Chip.setGroup_attrs (k : Nat) (s : GroupSt) : (c.setGroup k s).attrs = c.attrs := rfl
@[simp] theorem Chip.setGroup_existing (k : Nat) (s : GroupSt) : (c.setGroup k s).existing = c.existing := rfl
@[simp] theorem Chip.setGroup_gens (k : Nat) (s : GroupSt) : (c.setGroup k s).gens = c.gens := rfl
@[simp] theorem Chip.setGroup_owners (k : Nat) (s : GroupSt) : (c.setGroup k s).owners = c.owners := rfl
@[simp] theorem Chip.setGroup_sessions (k : Nat) (s : GroupSt) : (c.setGroup k s).sessions = c.sessions := rfl
@[simp] theorem Chip.setGroup_staged (k : Nat) (s : GroupSt) : (c.setGroup k s).staged = c.staged := rfl
@[simp] theorem Chip.setGroup_lives (k : Nat) (s : GroupSt) : (c.setGroup k s).lives = c.lives := rfl
@[simp] theorem Chip.setGroup_cmds (k : Nat) (s : GroupSt) : (c.setGroup k s).cmds = c.cmds := rfl
@[simp] theorem Chip.setGroup_remoteIn (k : Nat) (s : GroupSt) : (c.setGroup k s).remoteIn = c.remoteIn := rfl
@[simp] theorem Chip.setGroup_events (k : Nat) (s : GroupSt) : (c.setGroup k s).events = c.events := rfl
@[simp] theorem Chip.setGroup_queues (k : Nat) (s : GroupSt) : (c.setGroup k s).queues = c.queues := rfl
@[simp] theorem Chip.setGroup_ring (k : Nat) (s : GroupSt) : (c.setGroup k s).ring = c.ring := rfl
@[simp] theorem Chip.setGroup_foldS (k : Nat) (s : GroupSt) : (c.setGroup k s).foldS = c.foldS := rfl
@[simp] theorem Chip.setGroup_foldD (k : Nat) (s : GroupSt) : (c.setGroup k s).foldD = c.foldD := rfl
@[simp] theorem Chip.setGroup_host (k : Nat) (s : GroupSt) : (c.setGroup k s).host = c.host := rfl
@[simp] theorem Chip.setGroup_mgt (k : Nat) (s : GroupSt) : (c.setGroup k s).mgt = c.mgt := rfl
@[simp] theorem Chip.setGroup_power (k : Nat) (s : GroupSt) : (c.setGroup k s).power = c.power := rfl
@[simp] theorem Chip.setGroup_log (k : Nat) (s : GroupSt) : (c.setGroup k s).log = c.log := rfl
@[simp] theorem Chip.setGroup_counters (k : Nat) (s : GroupSt) : (c.setGroup k s).counters = c.counters := rfl
@[simp] theorem Chip.setGroup_dogs (k : Nat) (s : GroupSt) : (c.setGroup k s).dogs = c.dogs := rfl
@[simp] theorem Chip.setGroup_firmware (k : Nat) (s : GroupSt) : (c.setGroup k s).firmware = c.firmware := rfl
@[simp] theorem Chip.setGroup_image (k : Nat) (s : GroupSt) : (c.setGroup k s).image = c.image := rfl
@[simp] theorem Chip.setGroup_flash (k : Nat) (s : GroupSt) : (c.setGroup k s).flash = c.flash := rfl
@[simp] theorem Chip.setGroup_rtc (k : Nat) (s : GroupSt) : (c.setGroup k s).rtc = c.rtc := rfl
@[simp] theorem Chip.setGroup_almanac (k : Nat) (s : GroupSt) : (c.setGroup k s).almanac = c.almanac := rfl
@[simp] theorem Chip.setGroup_links (k : Nat) (s : GroupSt) : (c.setGroup k s).links = c.links := rfl
@[simp] theorem Chip.setGroup_fabric (k : Nat) (s : GroupSt) : (c.setGroup k s).fabric = c.fabric := rfl
@[simp] theorem Chip.setGroup_ports (k : Nat) (s : GroupSt) : (c.setGroup k s).ports = c.ports := rfl
@[simp] theorem Chip.setGroup_groups (k : Nat) (s : GroupSt) : (c.setGroup k s).groups = Tbl.set dGroup c.groups k s := rfl
@[simp] theorem Chip.setGroup_bridges (k : Nat) (s : GroupSt) : (c.setGroup k s).bridges = c.bridges := rfl
@[simp] theorem Chip.setGroup_motors (k : Nat) (s : GroupSt) : (c.setGroup k s).motors = c.motors := rfl
@[simp] theorem Chip.setGroup_records (k : Nat) (s : GroupSt) : (c.setGroup k s).records = c.records := rfl
@[simp] theorem Chip.setGroup_valves (k : Nat) (s : GroupSt) : (c.setGroup k s).valves = c.valves := rfl
@[simp] theorem Chip.setGroup_fans (k : Nat) (s : GroupSt) : (c.setGroup k s).fans = c.fans := rfl
@[simp] theorem Chip.setGroup_sampler (k : Nat) (s : GroupSt) : (c.setGroup k s).sampler = c.sampler := rfl
@[simp] theorem Chip.setGroup_cal (k : Nat) (s : GroupSt) : (c.setGroup k s).cal = c.cal := rfl
@[simp] theorem Chip.setGroup_zones (k : Nat) (s : GroupSt) : (c.setGroup k s).zones = c.zones := rfl
@[simp] theorem Chip.setGroup_predictions (k : Nat) (s : GroupSt) : (c.setGroup k s).predictions = c.predictions := rfl
@[simp] theorem Chip.setGroup_thermal (k : Nat) (s : GroupSt) : (c.setGroup k s).thermal = c.thermal := rfl
@[simp] theorem Chip.setGroup_staleWrites (k : Nat) (s : GroupSt) : (c.setGroup k s).staleWrites = c.staleWrites := rfl
@[simp] theorem Chip.setGroup_loops (k : Nat) (s : GroupSt) : (c.setGroup k s).loops = c.loops := rfl
@[simp] theorem Chip.setGroup_minSel (k : Nat) (s : GroupSt) : (c.setGroup k s).minSel = c.minSel := rfl
@[simp] theorem Chip.setGroup_streams (k : Nat) (s : GroupSt) : (c.setGroup k s).streams = c.streams := rfl
@[simp] theorem Chip.setGroup_can (k : Nat) (s : GroupSt) : (c.setGroup k s).can = c.can := rfl
@[simp] theorem Chip.setGroup_panels (k : Nat) (s : GroupSt) : (c.setGroup k s).panels = c.panels := rfl
@[simp] theorem Chip.setGroup_plate (k : Nat) (s : GroupSt) : (c.setGroup k s).plate = c.plate := rfl
@[simp] theorem Chip.setGroup_selftest (k : Nat) (s : GroupSt) : (c.setGroup k s).selftest = c.selftest := rfl
@[simp] theorem Chip.setGroup_freeCount (k : Nat) (s : GroupSt) : (c.setGroup k s).freeCount = c.freeCount := rfl
@[simp] theorem Chip.setBridge_fuses (n : Nat) (s : BridgeSt) : (c.setBridge n s).fuses = c.fuses := rfl
@[simp] theorem Chip.setBridge_clk (n : Nat) (s : BridgeSt) : (c.setBridge n s).clk = c.clk := rfl
@[simp] theorem Chip.setBridge_slots (n : Nat) (s : BridgeSt) : (c.setBridge n s).slots = c.slots := rfl
@[simp] theorem Chip.setBridge_overrides (n : Nat) (s : BridgeSt) : (c.setBridge n s).overrides = c.overrides := rfl
@[simp] theorem Chip.setBridge_produced (n : Nat) (s : BridgeSt) : (c.setBridge n s).produced = c.produced := rfl
@[simp] theorem Chip.setBridge_slotWrites (n : Nat) (s : BridgeSt) : (c.setBridge n s).slotWrites = c.slotWrites := rfl
@[simp] theorem Chip.setBridge_attrs (n : Nat) (s : BridgeSt) : (c.setBridge n s).attrs = c.attrs := rfl
@[simp] theorem Chip.setBridge_existing (n : Nat) (s : BridgeSt) : (c.setBridge n s).existing = c.existing := rfl
@[simp] theorem Chip.setBridge_gens (n : Nat) (s : BridgeSt) : (c.setBridge n s).gens = c.gens := rfl
@[simp] theorem Chip.setBridge_owners (n : Nat) (s : BridgeSt) : (c.setBridge n s).owners = c.owners := rfl
@[simp] theorem Chip.setBridge_sessions (n : Nat) (s : BridgeSt) : (c.setBridge n s).sessions = c.sessions := rfl
@[simp] theorem Chip.setBridge_staged (n : Nat) (s : BridgeSt) : (c.setBridge n s).staged = c.staged := rfl
@[simp] theorem Chip.setBridge_lives (n : Nat) (s : BridgeSt) : (c.setBridge n s).lives = c.lives := rfl
@[simp] theorem Chip.setBridge_cmds (n : Nat) (s : BridgeSt) : (c.setBridge n s).cmds = c.cmds := rfl
@[simp] theorem Chip.setBridge_remoteIn (n : Nat) (s : BridgeSt) : (c.setBridge n s).remoteIn = c.remoteIn := rfl
@[simp] theorem Chip.setBridge_events (n : Nat) (s : BridgeSt) : (c.setBridge n s).events = c.events := rfl
@[simp] theorem Chip.setBridge_queues (n : Nat) (s : BridgeSt) : (c.setBridge n s).queues = c.queues := rfl
@[simp] theorem Chip.setBridge_ring (n : Nat) (s : BridgeSt) : (c.setBridge n s).ring = c.ring := rfl
@[simp] theorem Chip.setBridge_foldS (n : Nat) (s : BridgeSt) : (c.setBridge n s).foldS = c.foldS := rfl
@[simp] theorem Chip.setBridge_foldD (n : Nat) (s : BridgeSt) : (c.setBridge n s).foldD = c.foldD := rfl
@[simp] theorem Chip.setBridge_host (n : Nat) (s : BridgeSt) : (c.setBridge n s).host = c.host := rfl
@[simp] theorem Chip.setBridge_mgt (n : Nat) (s : BridgeSt) : (c.setBridge n s).mgt = c.mgt := rfl
@[simp] theorem Chip.setBridge_power (n : Nat) (s : BridgeSt) : (c.setBridge n s).power = c.power := rfl
@[simp] theorem Chip.setBridge_log (n : Nat) (s : BridgeSt) : (c.setBridge n s).log = c.log := rfl
@[simp] theorem Chip.setBridge_counters (n : Nat) (s : BridgeSt) : (c.setBridge n s).counters = c.counters := rfl
@[simp] theorem Chip.setBridge_dogs (n : Nat) (s : BridgeSt) : (c.setBridge n s).dogs = c.dogs := rfl
@[simp] theorem Chip.setBridge_firmware (n : Nat) (s : BridgeSt) : (c.setBridge n s).firmware = c.firmware := rfl
@[simp] theorem Chip.setBridge_image (n : Nat) (s : BridgeSt) : (c.setBridge n s).image = c.image := rfl
@[simp] theorem Chip.setBridge_flash (n : Nat) (s : BridgeSt) : (c.setBridge n s).flash = c.flash := rfl
@[simp] theorem Chip.setBridge_rtc (n : Nat) (s : BridgeSt) : (c.setBridge n s).rtc = c.rtc := rfl
@[simp] theorem Chip.setBridge_almanac (n : Nat) (s : BridgeSt) : (c.setBridge n s).almanac = c.almanac := rfl
@[simp] theorem Chip.setBridge_links (n : Nat) (s : BridgeSt) : (c.setBridge n s).links = c.links := rfl
@[simp] theorem Chip.setBridge_fabric (n : Nat) (s : BridgeSt) : (c.setBridge n s).fabric = c.fabric := rfl
@[simp] theorem Chip.setBridge_ports (n : Nat) (s : BridgeSt) : (c.setBridge n s).ports = c.ports := rfl
@[simp] theorem Chip.setBridge_groups (n : Nat) (s : BridgeSt) : (c.setBridge n s).groups = c.groups := rfl
@[simp] theorem Chip.setBridge_bridges (n : Nat) (s : BridgeSt) : (c.setBridge n s).bridges = Tbl.set dBridge c.bridges n s := rfl
@[simp] theorem Chip.setBridge_motors (n : Nat) (s : BridgeSt) : (c.setBridge n s).motors = c.motors := rfl
@[simp] theorem Chip.setBridge_records (n : Nat) (s : BridgeSt) : (c.setBridge n s).records = c.records := rfl
@[simp] theorem Chip.setBridge_valves (n : Nat) (s : BridgeSt) : (c.setBridge n s).valves = c.valves := rfl
@[simp] theorem Chip.setBridge_fans (n : Nat) (s : BridgeSt) : (c.setBridge n s).fans = c.fans := rfl
@[simp] theorem Chip.setBridge_sampler (n : Nat) (s : BridgeSt) : (c.setBridge n s).sampler = c.sampler := rfl
@[simp] theorem Chip.setBridge_cal (n : Nat) (s : BridgeSt) : (c.setBridge n s).cal = c.cal := rfl
@[simp] theorem Chip.setBridge_zones (n : Nat) (s : BridgeSt) : (c.setBridge n s).zones = c.zones := rfl
@[simp] theorem Chip.setBridge_predictions (n : Nat) (s : BridgeSt) : (c.setBridge n s).predictions = c.predictions := rfl
@[simp] theorem Chip.setBridge_thermal (n : Nat) (s : BridgeSt) : (c.setBridge n s).thermal = c.thermal := rfl
@[simp] theorem Chip.setBridge_staleWrites (n : Nat) (s : BridgeSt) : (c.setBridge n s).staleWrites = c.staleWrites := rfl
@[simp] theorem Chip.setBridge_loops (n : Nat) (s : BridgeSt) : (c.setBridge n s).loops = c.loops := rfl
@[simp] theorem Chip.setBridge_minSel (n : Nat) (s : BridgeSt) : (c.setBridge n s).minSel = c.minSel := rfl
@[simp] theorem Chip.setBridge_streams (n : Nat) (s : BridgeSt) : (c.setBridge n s).streams = c.streams := rfl
@[simp] theorem Chip.setBridge_can (n : Nat) (s : BridgeSt) : (c.setBridge n s).can = c.can := rfl
@[simp] theorem Chip.setBridge_panels (n : Nat) (s : BridgeSt) : (c.setBridge n s).panels = c.panels := rfl
@[simp] theorem Chip.setBridge_plate (n : Nat) (s : BridgeSt) : (c.setBridge n s).plate = c.plate := rfl
@[simp] theorem Chip.setBridge_selftest (n : Nat) (s : BridgeSt) : (c.setBridge n s).selftest = c.selftest := rfl
@[simp] theorem Chip.setBridge_freeCount (n : Nat) (s : BridgeSt) : (c.setBridge n s).freeCount = c.freeCount := rfl
@[simp] theorem Chip.setMotor_fuses (n : Nat) (s : MotorSt) : (c.setMotor n s).fuses = c.fuses := rfl
@[simp] theorem Chip.setMotor_clk (n : Nat) (s : MotorSt) : (c.setMotor n s).clk = c.clk := rfl
@[simp] theorem Chip.setMotor_slots (n : Nat) (s : MotorSt) : (c.setMotor n s).slots = c.slots := rfl
@[simp] theorem Chip.setMotor_overrides (n : Nat) (s : MotorSt) : (c.setMotor n s).overrides = c.overrides := rfl
@[simp] theorem Chip.setMotor_produced (n : Nat) (s : MotorSt) : (c.setMotor n s).produced = c.produced := rfl
@[simp] theorem Chip.setMotor_slotWrites (n : Nat) (s : MotorSt) : (c.setMotor n s).slotWrites = c.slotWrites := rfl
@[simp] theorem Chip.setMotor_attrs (n : Nat) (s : MotorSt) : (c.setMotor n s).attrs = c.attrs := rfl
@[simp] theorem Chip.setMotor_existing (n : Nat) (s : MotorSt) : (c.setMotor n s).existing = c.existing := rfl
@[simp] theorem Chip.setMotor_gens (n : Nat) (s : MotorSt) : (c.setMotor n s).gens = c.gens := rfl
@[simp] theorem Chip.setMotor_owners (n : Nat) (s : MotorSt) : (c.setMotor n s).owners = c.owners := rfl
@[simp] theorem Chip.setMotor_sessions (n : Nat) (s : MotorSt) : (c.setMotor n s).sessions = c.sessions := rfl
@[simp] theorem Chip.setMotor_staged (n : Nat) (s : MotorSt) : (c.setMotor n s).staged = c.staged := rfl
@[simp] theorem Chip.setMotor_lives (n : Nat) (s : MotorSt) : (c.setMotor n s).lives = c.lives := rfl
@[simp] theorem Chip.setMotor_cmds (n : Nat) (s : MotorSt) : (c.setMotor n s).cmds = c.cmds := rfl
@[simp] theorem Chip.setMotor_remoteIn (n : Nat) (s : MotorSt) : (c.setMotor n s).remoteIn = c.remoteIn := rfl
@[simp] theorem Chip.setMotor_events (n : Nat) (s : MotorSt) : (c.setMotor n s).events = c.events := rfl
@[simp] theorem Chip.setMotor_queues (n : Nat) (s : MotorSt) : (c.setMotor n s).queues = c.queues := rfl
@[simp] theorem Chip.setMotor_ring (n : Nat) (s : MotorSt) : (c.setMotor n s).ring = c.ring := rfl
@[simp] theorem Chip.setMotor_foldS (n : Nat) (s : MotorSt) : (c.setMotor n s).foldS = c.foldS := rfl
@[simp] theorem Chip.setMotor_foldD (n : Nat) (s : MotorSt) : (c.setMotor n s).foldD = c.foldD := rfl
@[simp] theorem Chip.setMotor_host (n : Nat) (s : MotorSt) : (c.setMotor n s).host = c.host := rfl
@[simp] theorem Chip.setMotor_mgt (n : Nat) (s : MotorSt) : (c.setMotor n s).mgt = c.mgt := rfl
@[simp] theorem Chip.setMotor_power (n : Nat) (s : MotorSt) : (c.setMotor n s).power = c.power := rfl
@[simp] theorem Chip.setMotor_log (n : Nat) (s : MotorSt) : (c.setMotor n s).log = c.log := rfl
@[simp] theorem Chip.setMotor_counters (n : Nat) (s : MotorSt) : (c.setMotor n s).counters = c.counters := rfl
@[simp] theorem Chip.setMotor_dogs (n : Nat) (s : MotorSt) : (c.setMotor n s).dogs = c.dogs := rfl
@[simp] theorem Chip.setMotor_firmware (n : Nat) (s : MotorSt) : (c.setMotor n s).firmware = c.firmware := rfl
@[simp] theorem Chip.setMotor_image (n : Nat) (s : MotorSt) : (c.setMotor n s).image = c.image := rfl
@[simp] theorem Chip.setMotor_flash (n : Nat) (s : MotorSt) : (c.setMotor n s).flash = c.flash := rfl
@[simp] theorem Chip.setMotor_rtc (n : Nat) (s : MotorSt) : (c.setMotor n s).rtc = c.rtc := rfl
@[simp] theorem Chip.setMotor_almanac (n : Nat) (s : MotorSt) : (c.setMotor n s).almanac = c.almanac := rfl
@[simp] theorem Chip.setMotor_links (n : Nat) (s : MotorSt) : (c.setMotor n s).links = c.links := rfl
@[simp] theorem Chip.setMotor_fabric (n : Nat) (s : MotorSt) : (c.setMotor n s).fabric = c.fabric := rfl
@[simp] theorem Chip.setMotor_ports (n : Nat) (s : MotorSt) : (c.setMotor n s).ports = c.ports := rfl
@[simp] theorem Chip.setMotor_groups (n : Nat) (s : MotorSt) : (c.setMotor n s).groups = c.groups := rfl
@[simp] theorem Chip.setMotor_bridges (n : Nat) (s : MotorSt) : (c.setMotor n s).bridges = c.bridges := rfl
@[simp] theorem Chip.setMotor_motors (n : Nat) (s : MotorSt) : (c.setMotor n s).motors = Tbl.set dMotor c.motors n s := rfl
@[simp] theorem Chip.setMotor_records (n : Nat) (s : MotorSt) : (c.setMotor n s).records = c.records := rfl
@[simp] theorem Chip.setMotor_valves (n : Nat) (s : MotorSt) : (c.setMotor n s).valves = c.valves := rfl
@[simp] theorem Chip.setMotor_fans (n : Nat) (s : MotorSt) : (c.setMotor n s).fans = c.fans := rfl
@[simp] theorem Chip.setMotor_sampler (n : Nat) (s : MotorSt) : (c.setMotor n s).sampler = c.sampler := rfl
@[simp] theorem Chip.setMotor_cal (n : Nat) (s : MotorSt) : (c.setMotor n s).cal = c.cal := rfl
@[simp] theorem Chip.setMotor_zones (n : Nat) (s : MotorSt) : (c.setMotor n s).zones = c.zones := rfl
@[simp] theorem Chip.setMotor_predictions (n : Nat) (s : MotorSt) : (c.setMotor n s).predictions = c.predictions := rfl
@[simp] theorem Chip.setMotor_thermal (n : Nat) (s : MotorSt) : (c.setMotor n s).thermal = c.thermal := rfl
@[simp] theorem Chip.setMotor_staleWrites (n : Nat) (s : MotorSt) : (c.setMotor n s).staleWrites = c.staleWrites := rfl
@[simp] theorem Chip.setMotor_loops (n : Nat) (s : MotorSt) : (c.setMotor n s).loops = c.loops := rfl
@[simp] theorem Chip.setMotor_minSel (n : Nat) (s : MotorSt) : (c.setMotor n s).minSel = c.minSel := rfl
@[simp] theorem Chip.setMotor_streams (n : Nat) (s : MotorSt) : (c.setMotor n s).streams = c.streams := rfl
@[simp] theorem Chip.setMotor_can (n : Nat) (s : MotorSt) : (c.setMotor n s).can = c.can := rfl
@[simp] theorem Chip.setMotor_panels (n : Nat) (s : MotorSt) : (c.setMotor n s).panels = c.panels := rfl
@[simp] theorem Chip.setMotor_plate (n : Nat) (s : MotorSt) : (c.setMotor n s).plate = c.plate := rfl
@[simp] theorem Chip.setMotor_selftest (n : Nat) (s : MotorSt) : (c.setMotor n s).selftest = c.selftest := rfl
@[simp] theorem Chip.setMotor_freeCount (n : Nat) (s : MotorSt) : (c.setMotor n s).freeCount = c.freeCount := rfl
@[simp] theorem Chip.setValve_fuses (n : Nat) (s : ValveSt) : (c.setValve n s).fuses = c.fuses := rfl
@[simp] theorem Chip.setValve_clk (n : Nat) (s : ValveSt) : (c.setValve n s).clk = c.clk := rfl
@[simp] theorem Chip.setValve_slots (n : Nat) (s : ValveSt) : (c.setValve n s).slots = c.slots := rfl
@[simp] theorem Chip.setValve_overrides (n : Nat) (s : ValveSt) : (c.setValve n s).overrides = c.overrides := rfl
@[simp] theorem Chip.setValve_produced (n : Nat) (s : ValveSt) : (c.setValve n s).produced = c.produced := rfl
@[simp] theorem Chip.setValve_slotWrites (n : Nat) (s : ValveSt) : (c.setValve n s).slotWrites = c.slotWrites := rfl
@[simp] theorem Chip.setValve_attrs (n : Nat) (s : ValveSt) : (c.setValve n s).attrs = c.attrs := rfl
@[simp] theorem Chip.setValve_existing (n : Nat) (s : ValveSt) : (c.setValve n s).existing = c.existing := rfl
@[simp] theorem Chip.setValve_gens (n : Nat) (s : ValveSt) : (c.setValve n s).gens = c.gens := rfl
@[simp] theorem Chip.setValve_owners (n : Nat) (s : ValveSt) : (c.setValve n s).owners = c.owners := rfl
@[simp] theorem Chip.setValve_sessions (n : Nat) (s : ValveSt) : (c.setValve n s).sessions = c.sessions := rfl
@[simp] theorem Chip.setValve_staged (n : Nat) (s : ValveSt) : (c.setValve n s).staged = c.staged := rfl
@[simp] theorem Chip.setValve_lives (n : Nat) (s : ValveSt) : (c.setValve n s).lives = c.lives := rfl
@[simp] theorem Chip.setValve_cmds (n : Nat) (s : ValveSt) : (c.setValve n s).cmds = c.cmds := rfl
@[simp] theorem Chip.setValve_remoteIn (n : Nat) (s : ValveSt) : (c.setValve n s).remoteIn = c.remoteIn := rfl
@[simp] theorem Chip.setValve_events (n : Nat) (s : ValveSt) : (c.setValve n s).events = c.events := rfl
@[simp] theorem Chip.setValve_queues (n : Nat) (s : ValveSt) : (c.setValve n s).queues = c.queues := rfl
@[simp] theorem Chip.setValve_ring (n : Nat) (s : ValveSt) : (c.setValve n s).ring = c.ring := rfl
@[simp] theorem Chip.setValve_foldS (n : Nat) (s : ValveSt) : (c.setValve n s).foldS = c.foldS := rfl
@[simp] theorem Chip.setValve_foldD (n : Nat) (s : ValveSt) : (c.setValve n s).foldD = c.foldD := rfl
@[simp] theorem Chip.setValve_host (n : Nat) (s : ValveSt) : (c.setValve n s).host = c.host := rfl
@[simp] theorem Chip.setValve_mgt (n : Nat) (s : ValveSt) : (c.setValve n s).mgt = c.mgt := rfl
@[simp] theorem Chip.setValve_power (n : Nat) (s : ValveSt) : (c.setValve n s).power = c.power := rfl
@[simp] theorem Chip.setValve_log (n : Nat) (s : ValveSt) : (c.setValve n s).log = c.log := rfl
@[simp] theorem Chip.setValve_counters (n : Nat) (s : ValveSt) : (c.setValve n s).counters = c.counters := rfl
@[simp] theorem Chip.setValve_dogs (n : Nat) (s : ValveSt) : (c.setValve n s).dogs = c.dogs := rfl
@[simp] theorem Chip.setValve_firmware (n : Nat) (s : ValveSt) : (c.setValve n s).firmware = c.firmware := rfl
@[simp] theorem Chip.setValve_image (n : Nat) (s : ValveSt) : (c.setValve n s).image = c.image := rfl
@[simp] theorem Chip.setValve_flash (n : Nat) (s : ValveSt) : (c.setValve n s).flash = c.flash := rfl
@[simp] theorem Chip.setValve_rtc (n : Nat) (s : ValveSt) : (c.setValve n s).rtc = c.rtc := rfl
@[simp] theorem Chip.setValve_almanac (n : Nat) (s : ValveSt) : (c.setValve n s).almanac = c.almanac := rfl
@[simp] theorem Chip.setValve_links (n : Nat) (s : ValveSt) : (c.setValve n s).links = c.links := rfl
@[simp] theorem Chip.setValve_fabric (n : Nat) (s : ValveSt) : (c.setValve n s).fabric = c.fabric := rfl
@[simp] theorem Chip.setValve_ports (n : Nat) (s : ValveSt) : (c.setValve n s).ports = c.ports := rfl
@[simp] theorem Chip.setValve_groups (n : Nat) (s : ValveSt) : (c.setValve n s).groups = c.groups := rfl
@[simp] theorem Chip.setValve_bridges (n : Nat) (s : ValveSt) : (c.setValve n s).bridges = c.bridges := rfl
@[simp] theorem Chip.setValve_motors (n : Nat) (s : ValveSt) : (c.setValve n s).motors = c.motors := rfl
@[simp] theorem Chip.setValve_records (n : Nat) (s : ValveSt) : (c.setValve n s).records = c.records := rfl
@[simp] theorem Chip.setValve_valves (n : Nat) (s : ValveSt) : (c.setValve n s).valves = Tbl.set dValve c.valves n s := rfl
@[simp] theorem Chip.setValve_fans (n : Nat) (s : ValveSt) : (c.setValve n s).fans = c.fans := rfl
@[simp] theorem Chip.setValve_sampler (n : Nat) (s : ValveSt) : (c.setValve n s).sampler = c.sampler := rfl
@[simp] theorem Chip.setValve_cal (n : Nat) (s : ValveSt) : (c.setValve n s).cal = c.cal := rfl
@[simp] theorem Chip.setValve_zones (n : Nat) (s : ValveSt) : (c.setValve n s).zones = c.zones := rfl
@[simp] theorem Chip.setValve_predictions (n : Nat) (s : ValveSt) : (c.setValve n s).predictions = c.predictions := rfl
@[simp] theorem Chip.setValve_thermal (n : Nat) (s : ValveSt) : (c.setValve n s).thermal = c.thermal := rfl
@[simp] theorem Chip.setValve_staleWrites (n : Nat) (s : ValveSt) : (c.setValve n s).staleWrites = c.staleWrites := rfl
@[simp] theorem Chip.setValve_loops (n : Nat) (s : ValveSt) : (c.setValve n s).loops = c.loops := rfl
@[simp] theorem Chip.setValve_minSel (n : Nat) (s : ValveSt) : (c.setValve n s).minSel = c.minSel := rfl
@[simp] theorem Chip.setValve_streams (n : Nat) (s : ValveSt) : (c.setValve n s).streams = c.streams := rfl
@[simp] theorem Chip.setValve_can (n : Nat) (s : ValveSt) : (c.setValve n s).can = c.can := rfl
@[simp] theorem Chip.setValve_panels (n : Nat) (s : ValveSt) : (c.setValve n s).panels = c.panels := rfl
@[simp] theorem Chip.setValve_plate (n : Nat) (s : ValveSt) : (c.setValve n s).plate = c.plate := rfl
@[simp] theorem Chip.setValve_selftest (n : Nat) (s : ValveSt) : (c.setValve n s).selftest = c.selftest := rfl
@[simp] theorem Chip.setValve_freeCount (n : Nat) (s : ValveSt) : (c.setValve n s).freeCount = c.freeCount := rfl
@[simp] theorem Chip.setFan_fuses (n : Nat) (s : FanSt) : (c.setFan n s).fuses = c.fuses := rfl
@[simp] theorem Chip.setFan_clk (n : Nat) (s : FanSt) : (c.setFan n s).clk = c.clk := rfl
@[simp] theorem Chip.setFan_slots (n : Nat) (s : FanSt) : (c.setFan n s).slots = c.slots := rfl
@[simp] theorem Chip.setFan_overrides (n : Nat) (s : FanSt) : (c.setFan n s).overrides = c.overrides := rfl
@[simp] theorem Chip.setFan_produced (n : Nat) (s : FanSt) : (c.setFan n s).produced = c.produced := rfl
@[simp] theorem Chip.setFan_slotWrites (n : Nat) (s : FanSt) : (c.setFan n s).slotWrites = c.slotWrites := rfl
@[simp] theorem Chip.setFan_attrs (n : Nat) (s : FanSt) : (c.setFan n s).attrs = c.attrs := rfl
@[simp] theorem Chip.setFan_existing (n : Nat) (s : FanSt) : (c.setFan n s).existing = c.existing := rfl
@[simp] theorem Chip.setFan_gens (n : Nat) (s : FanSt) : (c.setFan n s).gens = c.gens := rfl
@[simp] theorem Chip.setFan_owners (n : Nat) (s : FanSt) : (c.setFan n s).owners = c.owners := rfl
@[simp] theorem Chip.setFan_sessions (n : Nat) (s : FanSt) : (c.setFan n s).sessions = c.sessions := rfl
@[simp] theorem Chip.setFan_staged (n : Nat) (s : FanSt) : (c.setFan n s).staged = c.staged := rfl
@[simp] theorem Chip.setFan_lives (n : Nat) (s : FanSt) : (c.setFan n s).lives = c.lives := rfl
@[simp] theorem Chip.setFan_cmds (n : Nat) (s : FanSt) : (c.setFan n s).cmds = c.cmds := rfl
@[simp] theorem Chip.setFan_remoteIn (n : Nat) (s : FanSt) : (c.setFan n s).remoteIn = c.remoteIn := rfl
@[simp] theorem Chip.setFan_events (n : Nat) (s : FanSt) : (c.setFan n s).events = c.events := rfl
@[simp] theorem Chip.setFan_queues (n : Nat) (s : FanSt) : (c.setFan n s).queues = c.queues := rfl
@[simp] theorem Chip.setFan_ring (n : Nat) (s : FanSt) : (c.setFan n s).ring = c.ring := rfl
@[simp] theorem Chip.setFan_foldS (n : Nat) (s : FanSt) : (c.setFan n s).foldS = c.foldS := rfl
@[simp] theorem Chip.setFan_foldD (n : Nat) (s : FanSt) : (c.setFan n s).foldD = c.foldD := rfl
@[simp] theorem Chip.setFan_host (n : Nat) (s : FanSt) : (c.setFan n s).host = c.host := rfl
@[simp] theorem Chip.setFan_mgt (n : Nat) (s : FanSt) : (c.setFan n s).mgt = c.mgt := rfl
@[simp] theorem Chip.setFan_power (n : Nat) (s : FanSt) : (c.setFan n s).power = c.power := rfl
@[simp] theorem Chip.setFan_log (n : Nat) (s : FanSt) : (c.setFan n s).log = c.log := rfl
@[simp] theorem Chip.setFan_counters (n : Nat) (s : FanSt) : (c.setFan n s).counters = c.counters := rfl
@[simp] theorem Chip.setFan_dogs (n : Nat) (s : FanSt) : (c.setFan n s).dogs = c.dogs := rfl
@[simp] theorem Chip.setFan_firmware (n : Nat) (s : FanSt) : (c.setFan n s).firmware = c.firmware := rfl
@[simp] theorem Chip.setFan_image (n : Nat) (s : FanSt) : (c.setFan n s).image = c.image := rfl
@[simp] theorem Chip.setFan_flash (n : Nat) (s : FanSt) : (c.setFan n s).flash = c.flash := rfl
@[simp] theorem Chip.setFan_rtc (n : Nat) (s : FanSt) : (c.setFan n s).rtc = c.rtc := rfl
@[simp] theorem Chip.setFan_almanac (n : Nat) (s : FanSt) : (c.setFan n s).almanac = c.almanac := rfl
@[simp] theorem Chip.setFan_links (n : Nat) (s : FanSt) : (c.setFan n s).links = c.links := rfl
@[simp] theorem Chip.setFan_fabric (n : Nat) (s : FanSt) : (c.setFan n s).fabric = c.fabric := rfl
@[simp] theorem Chip.setFan_ports (n : Nat) (s : FanSt) : (c.setFan n s).ports = c.ports := rfl
@[simp] theorem Chip.setFan_groups (n : Nat) (s : FanSt) : (c.setFan n s).groups = c.groups := rfl
@[simp] theorem Chip.setFan_bridges (n : Nat) (s : FanSt) : (c.setFan n s).bridges = c.bridges := rfl
@[simp] theorem Chip.setFan_motors (n : Nat) (s : FanSt) : (c.setFan n s).motors = c.motors := rfl
@[simp] theorem Chip.setFan_records (n : Nat) (s : FanSt) : (c.setFan n s).records = c.records := rfl
@[simp] theorem Chip.setFan_valves (n : Nat) (s : FanSt) : (c.setFan n s).valves = c.valves := rfl
@[simp] theorem Chip.setFan_fans (n : Nat) (s : FanSt) : (c.setFan n s).fans = Tbl.set dFan c.fans n s := rfl
@[simp] theorem Chip.setFan_sampler (n : Nat) (s : FanSt) : (c.setFan n s).sampler = c.sampler := rfl
@[simp] theorem Chip.setFan_cal (n : Nat) (s : FanSt) : (c.setFan n s).cal = c.cal := rfl
@[simp] theorem Chip.setFan_zones (n : Nat) (s : FanSt) : (c.setFan n s).zones = c.zones := rfl
@[simp] theorem Chip.setFan_predictions (n : Nat) (s : FanSt) : (c.setFan n s).predictions = c.predictions := rfl
@[simp] theorem Chip.setFan_thermal (n : Nat) (s : FanSt) : (c.setFan n s).thermal = c.thermal := rfl
@[simp] theorem Chip.setFan_staleWrites (n : Nat) (s : FanSt) : (c.setFan n s).staleWrites = c.staleWrites := rfl
@[simp] theorem Chip.setFan_loops (n : Nat) (s : FanSt) : (c.setFan n s).loops = c.loops := rfl
@[simp] theorem Chip.setFan_minSel (n : Nat) (s : FanSt) : (c.setFan n s).minSel = c.minSel := rfl
@[simp] theorem Chip.setFan_streams (n : Nat) (s : FanSt) : (c.setFan n s).streams = c.streams := rfl
@[simp] theorem Chip.setFan_can (n : Nat) (s : FanSt) : (c.setFan n s).can = c.can := rfl
@[simp] theorem Chip.setFan_panels (n : Nat) (s : FanSt) : (c.setFan n s).panels = c.panels := rfl
@[simp] theorem Chip.setFan_plate (n : Nat) (s : FanSt) : (c.setFan n s).plate = c.plate := rfl
@[simp] theorem Chip.setFan_selftest (n : Nat) (s : FanSt) : (c.setFan n s).selftest = c.selftest := rfl
@[simp] theorem Chip.setFan_freeCount (n : Nat) (s : FanSt) : (c.setFan n s).freeCount = c.freeCount := rfl
@[simp] theorem Chip.setCal_fuses (f : CalSt → CalSt) : (c.setCal f).fuses = c.fuses := rfl
@[simp] theorem Chip.setCal_clk (f : CalSt → CalSt) : (c.setCal f).clk = c.clk := rfl
@[simp] theorem Chip.setCal_slots (f : CalSt → CalSt) : (c.setCal f).slots = c.slots := rfl
@[simp] theorem Chip.setCal_overrides (f : CalSt → CalSt) : (c.setCal f).overrides = c.overrides := rfl
@[simp] theorem Chip.setCal_produced (f : CalSt → CalSt) : (c.setCal f).produced = c.produced := rfl
@[simp] theorem Chip.setCal_slotWrites (f : CalSt → CalSt) : (c.setCal f).slotWrites = c.slotWrites := rfl
@[simp] theorem Chip.setCal_attrs (f : CalSt → CalSt) : (c.setCal f).attrs = c.attrs := rfl
@[simp] theorem Chip.setCal_existing (f : CalSt → CalSt) : (c.setCal f).existing = c.existing := rfl
@[simp] theorem Chip.setCal_gens (f : CalSt → CalSt) : (c.setCal f).gens = c.gens := rfl
@[simp] theorem Chip.setCal_owners (f : CalSt → CalSt) : (c.setCal f).owners = c.owners := rfl
@[simp] theorem Chip.setCal_sessions (f : CalSt → CalSt) : (c.setCal f).sessions = c.sessions := rfl
@[simp] theorem Chip.setCal_staged (f : CalSt → CalSt) : (c.setCal f).staged = c.staged := rfl
@[simp] theorem Chip.setCal_lives (f : CalSt → CalSt) : (c.setCal f).lives = c.lives := rfl
@[simp] theorem Chip.setCal_cmds (f : CalSt → CalSt) : (c.setCal f).cmds = c.cmds := rfl
@[simp] theorem Chip.setCal_remoteIn (f : CalSt → CalSt) : (c.setCal f).remoteIn = c.remoteIn := rfl
@[simp] theorem Chip.setCal_events (f : CalSt → CalSt) : (c.setCal f).events = c.events := rfl
@[simp] theorem Chip.setCal_queues (f : CalSt → CalSt) : (c.setCal f).queues = c.queues := rfl
@[simp] theorem Chip.setCal_ring (f : CalSt → CalSt) : (c.setCal f).ring = c.ring := rfl
@[simp] theorem Chip.setCal_foldS (f : CalSt → CalSt) : (c.setCal f).foldS = c.foldS := rfl
@[simp] theorem Chip.setCal_foldD (f : CalSt → CalSt) : (c.setCal f).foldD = c.foldD := rfl
@[simp] theorem Chip.setCal_host (f : CalSt → CalSt) : (c.setCal f).host = c.host := rfl
@[simp] theorem Chip.setCal_mgt (f : CalSt → CalSt) : (c.setCal f).mgt = c.mgt := rfl
@[simp] theorem Chip.setCal_power (f : CalSt → CalSt) : (c.setCal f).power = c.power := rfl
@[simp] theorem Chip.setCal_log (f : CalSt → CalSt) : (c.setCal f).log = c.log := rfl
@[simp] theorem Chip.setCal_counters (f : CalSt → CalSt) : (c.setCal f).counters = c.counters := rfl
@[simp] theorem Chip.setCal_dogs (f : CalSt → CalSt) : (c.setCal f).dogs = c.dogs := rfl
@[simp] theorem Chip.setCal_firmware (f : CalSt → CalSt) : (c.setCal f).firmware = c.firmware := rfl
@[simp] theorem Chip.setCal_image (f : CalSt → CalSt) : (c.setCal f).image = c.image := rfl
@[simp] theorem Chip.setCal_flash (f : CalSt → CalSt) : (c.setCal f).flash = c.flash := rfl
@[simp] theorem Chip.setCal_rtc (f : CalSt → CalSt) : (c.setCal f).rtc = c.rtc := rfl
@[simp] theorem Chip.setCal_almanac (f : CalSt → CalSt) : (c.setCal f).almanac = c.almanac := rfl
@[simp] theorem Chip.setCal_links (f : CalSt → CalSt) : (c.setCal f).links = c.links := rfl
@[simp] theorem Chip.setCal_fabric (f : CalSt → CalSt) : (c.setCal f).fabric = c.fabric := rfl
@[simp] theorem Chip.setCal_ports (f : CalSt → CalSt) : (c.setCal f).ports = c.ports := rfl
@[simp] theorem Chip.setCal_groups (f : CalSt → CalSt) : (c.setCal f).groups = c.groups := rfl
@[simp] theorem Chip.setCal_bridges (f : CalSt → CalSt) : (c.setCal f).bridges = c.bridges := rfl
@[simp] theorem Chip.setCal_motors (f : CalSt → CalSt) : (c.setCal f).motors = c.motors := rfl
@[simp] theorem Chip.setCal_records (f : CalSt → CalSt) : (c.setCal f).records = c.records := rfl
@[simp] theorem Chip.setCal_valves (f : CalSt → CalSt) : (c.setCal f).valves = c.valves := rfl
@[simp] theorem Chip.setCal_fans (f : CalSt → CalSt) : (c.setCal f).fans = c.fans := rfl
@[simp] theorem Chip.setCal_sampler (f : CalSt → CalSt) : (c.setCal f).sampler = c.sampler := rfl
@[simp] theorem Chip.setCal_cal (f : CalSt → CalSt) : (c.setCal f).cal = f c.cal := rfl
@[simp] theorem Chip.setCal_zones (f : CalSt → CalSt) : (c.setCal f).zones = c.zones := rfl
@[simp] theorem Chip.setCal_predictions (f : CalSt → CalSt) : (c.setCal f).predictions = c.predictions := rfl
@[simp] theorem Chip.setCal_thermal (f : CalSt → CalSt) : (c.setCal f).thermal = c.thermal := rfl
@[simp] theorem Chip.setCal_staleWrites (f : CalSt → CalSt) : (c.setCal f).staleWrites = c.staleWrites := rfl
@[simp] theorem Chip.setCal_loops (f : CalSt → CalSt) : (c.setCal f).loops = c.loops := rfl
@[simp] theorem Chip.setCal_minSel (f : CalSt → CalSt) : (c.setCal f).minSel = c.minSel := rfl
@[simp] theorem Chip.setCal_streams (f : CalSt → CalSt) : (c.setCal f).streams = c.streams := rfl
@[simp] theorem Chip.setCal_can (f : CalSt → CalSt) : (c.setCal f).can = c.can := rfl
@[simp] theorem Chip.setCal_panels (f : CalSt → CalSt) : (c.setCal f).panels = c.panels := rfl
@[simp] theorem Chip.setCal_plate (f : CalSt → CalSt) : (c.setCal f).plate = c.plate := rfl
@[simp] theorem Chip.setCal_selftest (f : CalSt → CalSt) : (c.setCal f).selftest = c.selftest := rfl
@[simp] theorem Chip.setCal_freeCount (f : CalSt → CalSt) : (c.setCal f).freeCount = c.freeCount := rfl
@[simp] theorem Chip.setCan_fuses (m : Nat) (s : CanSt) : (c.setCan m s).fuses = c.fuses := rfl
@[simp] theorem Chip.setCan_clk (m : Nat) (s : CanSt) : (c.setCan m s).clk = c.clk := rfl
@[simp] theorem Chip.setCan_slots (m : Nat) (s : CanSt) : (c.setCan m s).slots = c.slots := rfl
@[simp] theorem Chip.setCan_overrides (m : Nat) (s : CanSt) : (c.setCan m s).overrides = c.overrides := rfl
@[simp] theorem Chip.setCan_produced (m : Nat) (s : CanSt) : (c.setCan m s).produced = c.produced := rfl
@[simp] theorem Chip.setCan_slotWrites (m : Nat) (s : CanSt) : (c.setCan m s).slotWrites = c.slotWrites := rfl
@[simp] theorem Chip.setCan_attrs (m : Nat) (s : CanSt) : (c.setCan m s).attrs = c.attrs := rfl
@[simp] theorem Chip.setCan_existing (m : Nat) (s : CanSt) : (c.setCan m s).existing = c.existing := rfl
@[simp] theorem Chip.setCan_gens (m : Nat) (s : CanSt) : (c.setCan m s).gens = c.gens := rfl
@[simp] theorem Chip.setCan_owners (m : Nat) (s : CanSt) : (c.setCan m s).owners = c.owners := rfl
@[simp] theorem Chip.setCan_sessions (m : Nat) (s : CanSt) : (c.setCan m s).sessions = c.sessions := rfl
@[simp] theorem Chip.setCan_staged (m : Nat) (s : CanSt) : (c.setCan m s).staged = c.staged := rfl
@[simp] theorem Chip.setCan_lives (m : Nat) (s : CanSt) : (c.setCan m s).lives = c.lives := rfl
@[simp] theorem Chip.setCan_cmds (m : Nat) (s : CanSt) : (c.setCan m s).cmds = c.cmds := rfl
@[simp] theorem Chip.setCan_remoteIn (m : Nat) (s : CanSt) : (c.setCan m s).remoteIn = c.remoteIn := rfl
@[simp] theorem Chip.setCan_events (m : Nat) (s : CanSt) : (c.setCan m s).events = c.events := rfl
@[simp] theorem Chip.setCan_queues (m : Nat) (s : CanSt) : (c.setCan m s).queues = c.queues := rfl
@[simp] theorem Chip.setCan_ring (m : Nat) (s : CanSt) : (c.setCan m s).ring = c.ring := rfl
@[simp] theorem Chip.setCan_foldS (m : Nat) (s : CanSt) : (c.setCan m s).foldS = c.foldS := rfl
@[simp] theorem Chip.setCan_foldD (m : Nat) (s : CanSt) : (c.setCan m s).foldD = c.foldD := rfl
@[simp] theorem Chip.setCan_host (m : Nat) (s : CanSt) : (c.setCan m s).host = c.host := rfl
@[simp] theorem Chip.setCan_mgt (m : Nat) (s : CanSt) : (c.setCan m s).mgt = c.mgt := rfl
@[simp] theorem Chip.setCan_power (m : Nat) (s : CanSt) : (c.setCan m s).power = c.power := rfl
@[simp] theorem Chip.setCan_log (m : Nat) (s : CanSt) : (c.setCan m s).log = c.log := rfl
@[simp] theorem Chip.setCan_counters (m : Nat) (s : CanSt) : (c.setCan m s).counters = c.counters := rfl
@[simp] theorem Chip.setCan_dogs (m : Nat) (s : CanSt) : (c.setCan m s).dogs = c.dogs := rfl
@[simp] theorem Chip.setCan_firmware (m : Nat) (s : CanSt) : (c.setCan m s).firmware = c.firmware := rfl
@[simp] theorem Chip.setCan_image (m : Nat) (s : CanSt) : (c.setCan m s).image = c.image := rfl
@[simp] theorem Chip.setCan_flash (m : Nat) (s : CanSt) : (c.setCan m s).flash = c.flash := rfl
@[simp] theorem Chip.setCan_rtc (m : Nat) (s : CanSt) : (c.setCan m s).rtc = c.rtc := rfl
@[simp] theorem Chip.setCan_almanac (m : Nat) (s : CanSt) : (c.setCan m s).almanac = c.almanac := rfl
@[simp] theorem Chip.setCan_links (m : Nat) (s : CanSt) : (c.setCan m s).links = c.links := rfl
@[simp] theorem Chip.setCan_fabric (m : Nat) (s : CanSt) : (c.setCan m s).fabric = c.fabric := rfl
@[simp] theorem Chip.setCan_ports (m : Nat) (s : CanSt) : (c.setCan m s).ports = c.ports := rfl
@[simp] theorem Chip.setCan_groups (m : Nat) (s : CanSt) : (c.setCan m s).groups = c.groups := rfl
@[simp] theorem Chip.setCan_bridges (m : Nat) (s : CanSt) : (c.setCan m s).bridges = c.bridges := rfl
@[simp] theorem Chip.setCan_motors (m : Nat) (s : CanSt) : (c.setCan m s).motors = c.motors := rfl
@[simp] theorem Chip.setCan_records (m : Nat) (s : CanSt) : (c.setCan m s).records = c.records := rfl
@[simp] theorem Chip.setCan_valves (m : Nat) (s : CanSt) : (c.setCan m s).valves = c.valves := rfl
@[simp] theorem Chip.setCan_fans (m : Nat) (s : CanSt) : (c.setCan m s).fans = c.fans := rfl
@[simp] theorem Chip.setCan_sampler (m : Nat) (s : CanSt) : (c.setCan m s).sampler = c.sampler := rfl
@[simp] theorem Chip.setCan_cal (m : Nat) (s : CanSt) : (c.setCan m s).cal = c.cal := rfl
@[simp] theorem Chip.setCan_zones (m : Nat) (s : CanSt) : (c.setCan m s).zones = c.zones := rfl
@[simp] theorem Chip.setCan_predictions (m : Nat) (s : CanSt) : (c.setCan m s).predictions = c.predictions := rfl
@[simp] theorem Chip.setCan_thermal (m : Nat) (s : CanSt) : (c.setCan m s).thermal = c.thermal := rfl
@[simp] theorem Chip.setCan_staleWrites (m : Nat) (s : CanSt) : (c.setCan m s).staleWrites = c.staleWrites := rfl
@[simp] theorem Chip.setCan_loops (m : Nat) (s : CanSt) : (c.setCan m s).loops = c.loops := rfl
@[simp] theorem Chip.setCan_minSel (m : Nat) (s : CanSt) : (c.setCan m s).minSel = c.minSel := rfl
@[simp] theorem Chip.setCan_streams (m : Nat) (s : CanSt) : (c.setCan m s).streams = c.streams := rfl
@[simp] theorem Chip.setCan_can (m : Nat) (s : CanSt) : (c.setCan m s).can = Tbl.set dCan c.can m s := rfl
@[simp] theorem Chip.setCan_panels (m : Nat) (s : CanSt) : (c.setCan m s).panels = c.panels := rfl
@[simp] theorem Chip.setCan_plate (m : Nat) (s : CanSt) : (c.setCan m s).plate = c.plate := rfl
@[simp] theorem Chip.setCan_selftest (m : Nat) (s : CanSt) : (c.setCan m s).selftest = c.selftest := rfl
@[simp] theorem Chip.setCan_freeCount (m : Nat) (s : CanSt) : (c.setCan m s).freeCount = c.freeCount := rfl
@[simp] theorem Chip.modCan_fuses (m : Nat) (f : CanSt → CanSt) : (c.modCan m f).fuses = c.fuses := rfl
@[simp] theorem Chip.modCan_clk (m : Nat) (f : CanSt → CanSt) : (c.modCan m f).clk = c.clk := rfl
@[simp] theorem Chip.modCan_slots (m : Nat) (f : CanSt → CanSt) : (c.modCan m f).slots = c.slots := rfl
@[simp] theorem Chip.modCan_overrides (m : Nat) (f : CanSt → CanSt) : (c.modCan m f).overrides = c.overrides := rfl
@[simp] theorem Chip.modCan_produced (m : Nat) (f : CanSt → CanSt) : (c.modCan m f).produced = c.produced := rfl
@[simp] theorem Chip.modCan_slotWrites (m : Nat) (f : CanSt → CanSt) : (c.modCan m f).slotWrites = c.slotWrites := rfl
@[simp] theorem Chip.modCan_attrs (m : Nat) (f : CanSt → CanSt) : (c.modCan m f).attrs = c.attrs := rfl
@[simp] theorem Chip.modCan_existing (m : Nat) (f : CanSt → CanSt) : (c.modCan m f).existing = c.existing := rfl
@[simp] theorem Chip.modCan_gens (m : Nat) (f : CanSt → CanSt) : (c.modCan m f).gens = c.gens := rfl
@[simp] theorem Chip.modCan_owners (m : Nat) (f : CanSt → CanSt) : (c.modCan m f).owners = c.owners := rfl
@[simp] theorem Chip.modCan_sessions (m : Nat) (f : CanSt → CanSt) : (c.modCan m f).sessions = c.sessions := rfl
@[simp] theorem Chip.modCan_staged (m : Nat) (f : CanSt → CanSt) : (c.modCan m f).staged = c.staged := rfl
@[simp] theorem Chip.modCan_lives (m : Nat) (f : CanSt → CanSt) : (c.modCan m f).lives = c.lives := rfl
@[simp] theorem Chip.modCan_cmds (m : Nat) (f : CanSt → CanSt) : (c.modCan m f).cmds = c.cmds := rfl
@[simp] theorem Chip.modCan_remoteIn (m : Nat) (f : CanSt → CanSt) : (c.modCan m f).remoteIn = c.remoteIn := rfl
@[simp] theorem Chip.modCan_events (m : Nat) (f : CanSt → CanSt) : (c.modCan m f).events = c.events := rfl
@[simp] theorem Chip.modCan_queues (m : Nat) (f : CanSt → CanSt) : (c.modCan m f).queues = c.queues := rfl
@[simp] theorem Chip.modCan_ring (m : Nat) (f : CanSt → CanSt) : (c.modCan m f).ring = c.ring := rfl
@[simp] theorem Chip.modCan_foldS (m : Nat) (f : CanSt → CanSt) : (c.modCan m f).foldS = c.foldS := rfl
@[simp] theorem Chip.modCan_foldD (m : Nat) (f : CanSt → CanSt) : (c.modCan m f).foldD = c.foldD := rfl
@[simp] theorem Chip.modCan_host (m : Nat) (f : CanSt → CanSt) : (c.modCan m f).host = c.host := rfl
@[simp] theorem Chip.modCan_mgt (m : Nat) (f : CanSt → CanSt) : (c.modCan m f).mgt = c.mgt := rfl
@[simp] theorem Chip.modCan_power (m : Nat) (f : CanSt → CanSt) : (c.modCan m f).power = c.power := rfl
@[simp] theorem Chip.modCan_log (m : Nat) (f : CanSt → CanSt) : (c.modCan m f).log = c.log := rfl
@[simp] theorem Chip.modCan_counters (m : Nat) (f : CanSt → CanSt) : (c.modCan m f).counters = c.counters := rfl
@[simp] theorem Chip.modCan_dogs (m : Nat) (f : CanSt → CanSt) : (c.modCan m f).dogs = c.dogs := rfl
@[simp] theorem Chip.modCan_firmware (m : Nat) (f : CanSt → CanSt) : (c.modCan m f).firmware = c.firmware := rfl
@[simp] theorem Chip.modCan_image (m : Nat) (f : CanSt → CanSt) : (c.modCan m f).image = c.image := rfl
@[simp] theorem Chip.modCan_flash (m : Nat) (f : CanSt → CanSt) : (c.modCan m f).flash = c.flash := rfl
@[simp] theorem Chip.modCan_rtc (m : Nat) (f : CanSt → CanSt) : (c.modCan m f).rtc = c.rtc := rfl
@[simp] theorem Chip.modCan_almanac (m : Nat) (f : CanSt → CanSt) : (c.modCan m f).almanac = c.almanac := rfl
@[simp] theorem Chip.modCan_links (m : Nat) (f : CanSt → CanSt) : (c.modCan m f).links = c.links := rfl
@[simp] theorem Chip.modCan_fabric (m : Nat) (f : CanSt → CanSt) : (c.modCan m f).fabric = c.fabric := rfl
@[simp] theorem Chip.modCan_ports (m : Nat) (f : CanSt → CanSt) : (c.modCan m f).ports = c.ports := rfl
@[simp] theorem Chip.modCan_groups (m : Nat) (f : CanSt → CanSt) : (c.modCan m f).groups = c.groups := rfl
@[simp] theorem Chip.modCan_bridges (m : Nat) (f : CanSt → CanSt) : (c.modCan m f).bridges = c.bridges := rfl
@[simp] theorem Chip.modCan_motors (m : Nat) (f : CanSt → CanSt) : (c.modCan m f).motors = c.motors := rfl
@[simp] theorem Chip.modCan_records (m : Nat) (f : CanSt → CanSt) : (c.modCan m f).records = c.records := rfl
@[simp] theorem Chip.modCan_valves (m : Nat) (f : CanSt → CanSt) : (c.modCan m f).valves = c.valves := rfl
@[simp] theorem Chip.modCan_fans (m : Nat) (f : CanSt → CanSt) : (c.modCan m f).fans = c.fans := rfl
@[simp] theorem Chip.modCan_sampler (m : Nat) (f : CanSt → CanSt) : (c.modCan m f).sampler = c.sampler := rfl
@[simp] theorem Chip.modCan_cal (m : Nat) (f : CanSt → CanSt) : (c.modCan m f).cal = c.cal := rfl
@[simp] theorem Chip.modCan_zones (m : Nat) (f : CanSt → CanSt) : (c.modCan m f).zones = c.zones := rfl
@[simp] theorem Chip.modCan_predictions (m : Nat) (f : CanSt → CanSt) : (c.modCan m f).predictions = c.predictions := rfl
@[simp] theorem Chip.modCan_thermal (m : Nat) (f : CanSt → CanSt) : (c.modCan m f).thermal = c.thermal := rfl
@[simp] theorem Chip.modCan_staleWrites (m : Nat) (f : CanSt → CanSt) : (c.modCan m f).staleWrites = c.staleWrites := rfl
@[simp] theorem Chip.modCan_loops (m : Nat) (f : CanSt → CanSt) : (c.modCan m f).loops = c.loops := rfl
@[simp] theorem Chip.modCan_minSel (m : Nat) (f : CanSt → CanSt) : (c.modCan m f).minSel = c.minSel := rfl
@[simp] theorem Chip.modCan_streams (m : Nat) (f : CanSt → CanSt) : (c.modCan m f).streams = c.streams := rfl
@[simp] theorem Chip.modCan_can (m : Nat) (f : CanSt → CanSt) : (c.modCan m f).can = Tbl.set dCan c.can m (f (c.canOf m)) := rfl
@[simp] theorem Chip.modCan_panels (m : Nat) (f : CanSt → CanSt) : (c.modCan m f).panels = c.panels := rfl
@[simp] theorem Chip.modCan_plate (m : Nat) (f : CanSt → CanSt) : (c.modCan m f).plate = c.plate := rfl
@[simp] theorem Chip.modCan_selftest (m : Nat) (f : CanSt → CanSt) : (c.modCan m f).selftest = c.selftest := rfl
@[simp] theorem Chip.modCan_freeCount (m : Nat) (f : CanSt → CanSt) : (c.modCan m f).freeCount = c.freeCount := rfl
@[simp] theorem Chip.setRtc_fuses (f : RtcSt → RtcSt) : (c.setRtc f).fuses = c.fuses := rfl
@[simp] theorem Chip.setRtc_clk (f : RtcSt → RtcSt) : (c.setRtc f).clk = c.clk := rfl
@[simp] theorem Chip.setRtc_slots (f : RtcSt → RtcSt) : (c.setRtc f).slots = c.slots := rfl
@[simp] theorem Chip.setRtc_overrides (f : RtcSt → RtcSt) : (c.setRtc f).overrides = c.overrides := rfl
@[simp] theorem Chip.setRtc_produced (f : RtcSt → RtcSt) : (c.setRtc f).produced = c.produced := rfl
@[simp] theorem Chip.setRtc_slotWrites (f : RtcSt → RtcSt) : (c.setRtc f).slotWrites = c.slotWrites := rfl
@[simp] theorem Chip.setRtc_attrs (f : RtcSt → RtcSt) : (c.setRtc f).attrs = c.attrs := rfl
@[simp] theorem Chip.setRtc_existing (f : RtcSt → RtcSt) : (c.setRtc f).existing = c.existing := rfl
@[simp] theorem Chip.setRtc_gens (f : RtcSt → RtcSt) : (c.setRtc f).gens = c.gens := rfl
@[simp] theorem Chip.setRtc_owners (f : RtcSt → RtcSt) : (c.setRtc f).owners = c.owners := rfl
@[simp] theorem Chip.setRtc_sessions (f : RtcSt → RtcSt) : (c.setRtc f).sessions = c.sessions := rfl
@[simp] theorem Chip.setRtc_staged (f : RtcSt → RtcSt) : (c.setRtc f).staged = c.staged := rfl
@[simp] theorem Chip.setRtc_lives (f : RtcSt → RtcSt) : (c.setRtc f).lives = c.lives := rfl
@[simp] theorem Chip.setRtc_cmds (f : RtcSt → RtcSt) : (c.setRtc f).cmds = c.cmds := rfl
@[simp] theorem Chip.setRtc_remoteIn (f : RtcSt → RtcSt) : (c.setRtc f).remoteIn = c.remoteIn := rfl
@[simp] theorem Chip.setRtc_events (f : RtcSt → RtcSt) : (c.setRtc f).events = c.events := rfl
@[simp] theorem Chip.setRtc_queues (f : RtcSt → RtcSt) : (c.setRtc f).queues = c.queues := rfl
@[simp] theorem Chip.setRtc_ring (f : RtcSt → RtcSt) : (c.setRtc f).ring = c.ring := rfl
@[simp] theorem Chip.setRtc_foldS (f : RtcSt → RtcSt) : (c.setRtc f).foldS = c.foldS := rfl
@[simp] theorem Chip.setRtc_foldD (f : RtcSt → RtcSt) : (c.setRtc f).foldD = c.foldD := rfl
@[simp] theorem Chip.setRtc_host (f : RtcSt → RtcSt) : (c.setRtc f).host = c.host := rfl
@[simp] theorem Chip.setRtc_mgt (f : RtcSt → RtcSt) : (c.setRtc f).mgt = c.mgt := rfl
@[simp] theorem Chip.setRtc_power (f : RtcSt → RtcSt) : (c.setRtc f).power = c.power := rfl
@[simp] theorem Chip.setRtc_log (f : RtcSt → RtcSt) : (c.setRtc f).log = c.log := rfl
@[simp] theorem Chip.setRtc_counters (f : RtcSt → RtcSt) : (c.setRtc f).counters = c.counters := rfl
@[simp] theorem Chip.setRtc_dogs (f : RtcSt → RtcSt) : (c.setRtc f).dogs = c.dogs := rfl
@[simp] theorem Chip.setRtc_firmware (f : RtcSt → RtcSt) : (c.setRtc f).firmware = c.firmware := rfl
@[simp] theorem Chip.setRtc_image (f : RtcSt → RtcSt) : (c.setRtc f).image = c.image := rfl
@[simp] theorem Chip.setRtc_flash (f : RtcSt → RtcSt) : (c.setRtc f).flash = c.flash := rfl
@[simp] theorem Chip.setRtc_rtc (f : RtcSt → RtcSt) : (c.setRtc f).rtc = f c.rtc := rfl
@[simp] theorem Chip.setRtc_almanac (f : RtcSt → RtcSt) : (c.setRtc f).almanac = c.almanac := rfl
@[simp] theorem Chip.setRtc_links (f : RtcSt → RtcSt) : (c.setRtc f).links = c.links := rfl
@[simp] theorem Chip.setRtc_fabric (f : RtcSt → RtcSt) : (c.setRtc f).fabric = c.fabric := rfl
@[simp] theorem Chip.setRtc_ports (f : RtcSt → RtcSt) : (c.setRtc f).ports = c.ports := rfl
@[simp] theorem Chip.setRtc_groups (f : RtcSt → RtcSt) : (c.setRtc f).groups = c.groups := rfl
@[simp] theorem Chip.setRtc_bridges (f : RtcSt → RtcSt) : (c.setRtc f).bridges = c.bridges := rfl
@[simp] theorem Chip.setRtc_motors (f : RtcSt → RtcSt) : (c.setRtc f).motors = c.motors := rfl
@[simp] theorem Chip.setRtc_records (f : RtcSt → RtcSt) : (c.setRtc f).records = c.records := rfl
@[simp] theorem Chip.setRtc_valves (f : RtcSt → RtcSt) : (c.setRtc f).valves = c.valves := rfl
@[simp] theorem Chip.setRtc_fans (f : RtcSt → RtcSt) : (c.setRtc f).fans = c.fans := rfl
@[simp] theorem Chip.setRtc_sampler (f : RtcSt → RtcSt) : (c.setRtc f).sampler = c.sampler := rfl
@[simp] theorem Chip.setRtc_cal (f : RtcSt → RtcSt) : (c.setRtc f).cal = c.cal := rfl
@[simp] theorem Chip.setRtc_zones (f : RtcSt → RtcSt) : (c.setRtc f).zones = c.zones := rfl
@[simp] theorem Chip.setRtc_predictions (f : RtcSt → RtcSt) : (c.setRtc f).predictions = c.predictions := rfl
@[simp] theorem Chip.setRtc_thermal (f : RtcSt → RtcSt) : (c.setRtc f).thermal = c.thermal := rfl
@[simp] theorem Chip.setRtc_staleWrites (f : RtcSt → RtcSt) : (c.setRtc f).staleWrites = c.staleWrites := rfl
@[simp] theorem Chip.setRtc_loops (f : RtcSt → RtcSt) : (c.setRtc f).loops = c.loops := rfl
@[simp] theorem Chip.setRtc_minSel (f : RtcSt → RtcSt) : (c.setRtc f).minSel = c.minSel := rfl
@[simp] theorem Chip.setRtc_streams (f : RtcSt → RtcSt) : (c.setRtc f).streams = c.streams := rfl
@[simp] theorem Chip.setRtc_can (f : RtcSt → RtcSt) : (c.setRtc f).can = c.can := rfl
@[simp] theorem Chip.setRtc_panels (f : RtcSt → RtcSt) : (c.setRtc f).panels = c.panels := rfl
@[simp] theorem Chip.setRtc_plate (f : RtcSt → RtcSt) : (c.setRtc f).plate = c.plate := rfl
@[simp] theorem Chip.setRtc_selftest (f : RtcSt → RtcSt) : (c.setRtc f).selftest = c.selftest := rfl
@[simp] theorem Chip.setRtc_freeCount (f : RtcSt → RtcSt) : (c.setRtc f).freeCount = c.freeCount := rfl
@[simp] theorem Chip.setLoop_fuses (l : Nat) (s : LoopSt) : (c.setLoop l s).fuses = c.fuses := rfl
@[simp] theorem Chip.setLoop_clk (l : Nat) (s : LoopSt) : (c.setLoop l s).clk = c.clk := rfl
@[simp] theorem Chip.setLoop_slots (l : Nat) (s : LoopSt) : (c.setLoop l s).slots = c.slots := rfl
@[simp] theorem Chip.setLoop_overrides (l : Nat) (s : LoopSt) : (c.setLoop l s).overrides = c.overrides := rfl
@[simp] theorem Chip.setLoop_produced (l : Nat) (s : LoopSt) : (c.setLoop l s).produced = c.produced := rfl
@[simp] theorem Chip.setLoop_slotWrites (l : Nat) (s : LoopSt) : (c.setLoop l s).slotWrites = c.slotWrites := rfl
@[simp] theorem Chip.setLoop_attrs (l : Nat) (s : LoopSt) : (c.setLoop l s).attrs = c.attrs := rfl
@[simp] theorem Chip.setLoop_existing (l : Nat) (s : LoopSt) : (c.setLoop l s).existing = c.existing := rfl
@[simp] theorem Chip.setLoop_gens (l : Nat) (s : LoopSt) : (c.setLoop l s).gens = c.gens := rfl
@[simp] theorem Chip.setLoop_owners (l : Nat) (s : LoopSt) : (c.setLoop l s).owners = c.owners := rfl
@[simp] theorem Chip.setLoop_sessions (l : Nat) (s : LoopSt) : (c.setLoop l s).sessions = c.sessions := rfl
@[simp] theorem Chip.setLoop_staged (l : Nat) (s : LoopSt) : (c.setLoop l s).staged = c.staged := rfl
@[simp] theorem Chip.setLoop_lives (l : Nat) (s : LoopSt) : (c.setLoop l s).lives = c.lives := rfl
@[simp] theorem Chip.setLoop_cmds (l : Nat) (s : LoopSt) : (c.setLoop l s).cmds = c.cmds := rfl
@[simp] theorem Chip.setLoop_remoteIn (l : Nat) (s : LoopSt) : (c.setLoop l s).remoteIn = c.remoteIn := rfl
@[simp] theorem Chip.setLoop_events (l : Nat) (s : LoopSt) : (c.setLoop l s).events = c.events := rfl
@[simp] theorem Chip.setLoop_queues (l : Nat) (s : LoopSt) : (c.setLoop l s).queues = c.queues := rfl
@[simp] theorem Chip.setLoop_ring (l : Nat) (s : LoopSt) : (c.setLoop l s).ring = c.ring := rfl
@[simp] theorem Chip.setLoop_foldS (l : Nat) (s : LoopSt) : (c.setLoop l s).foldS = c.foldS := rfl
@[simp] theorem Chip.setLoop_foldD (l : Nat) (s : LoopSt) : (c.setLoop l s).foldD = c.foldD := rfl
@[simp] theorem Chip.setLoop_host (l : Nat) (s : LoopSt) : (c.setLoop l s).host = c.host := rfl
@[simp] theorem Chip.setLoop_mgt (l : Nat) (s : LoopSt) : (c.setLoop l s).mgt = c.mgt := rfl
@[simp] theorem Chip.setLoop_power (l : Nat) (s : LoopSt) : (c.setLoop l s).power = c.power := rfl
@[simp] theorem Chip.setLoop_log (l : Nat) (s : LoopSt) : (c.setLoop l s).log = c.log := rfl
@[simp] theorem Chip.setLoop_counters (l : Nat) (s : LoopSt) : (c.setLoop l s).counters = c.counters := rfl
@[simp] theorem Chip.setLoop_dogs (l : Nat) (s : LoopSt) : (c.setLoop l s).dogs = c.dogs := rfl
@[simp] theorem Chip.setLoop_firmware (l : Nat) (s : LoopSt) : (c.setLoop l s).firmware = c.firmware := rfl
@[simp] theorem Chip.setLoop_image (l : Nat) (s : LoopSt) : (c.setLoop l s).image = c.image := rfl
@[simp] theorem Chip.setLoop_flash (l : Nat) (s : LoopSt) : (c.setLoop l s).flash = c.flash := rfl
@[simp] theorem Chip.setLoop_rtc (l : Nat) (s : LoopSt) : (c.setLoop l s).rtc = c.rtc := rfl
@[simp] theorem Chip.setLoop_almanac (l : Nat) (s : LoopSt) : (c.setLoop l s).almanac = c.almanac := rfl
@[simp] theorem Chip.setLoop_links (l : Nat) (s : LoopSt) : (c.setLoop l s).links = c.links := rfl
@[simp] theorem Chip.setLoop_fabric (l : Nat) (s : LoopSt) : (c.setLoop l s).fabric = c.fabric := rfl
@[simp] theorem Chip.setLoop_ports (l : Nat) (s : LoopSt) : (c.setLoop l s).ports = c.ports := rfl
@[simp] theorem Chip.setLoop_groups (l : Nat) (s : LoopSt) : (c.setLoop l s).groups = c.groups := rfl
@[simp] theorem Chip.setLoop_bridges (l : Nat) (s : LoopSt) : (c.setLoop l s).bridges = c.bridges := rfl
@[simp] theorem Chip.setLoop_motors (l : Nat) (s : LoopSt) : (c.setLoop l s).motors = c.motors := rfl
@[simp] theorem Chip.setLoop_records (l : Nat) (s : LoopSt) : (c.setLoop l s).records = c.records := rfl
@[simp] theorem Chip.setLoop_valves (l : Nat) (s : LoopSt) : (c.setLoop l s).valves = c.valves := rfl
@[simp] theorem Chip.setLoop_fans (l : Nat) (s : LoopSt) : (c.setLoop l s).fans = c.fans := rfl
@[simp] theorem Chip.setLoop_sampler (l : Nat) (s : LoopSt) : (c.setLoop l s).sampler = c.sampler := rfl
@[simp] theorem Chip.setLoop_cal (l : Nat) (s : LoopSt) : (c.setLoop l s).cal = c.cal := rfl
@[simp] theorem Chip.setLoop_zones (l : Nat) (s : LoopSt) : (c.setLoop l s).zones = c.zones := rfl
@[simp] theorem Chip.setLoop_predictions (l : Nat) (s : LoopSt) : (c.setLoop l s).predictions = c.predictions := rfl
@[simp] theorem Chip.setLoop_thermal (l : Nat) (s : LoopSt) : (c.setLoop l s).thermal = c.thermal := rfl
@[simp] theorem Chip.setLoop_staleWrites (l : Nat) (s : LoopSt) : (c.setLoop l s).staleWrites = c.staleWrites := rfl
@[simp] theorem Chip.setLoop_loops (l : Nat) (s : LoopSt) : (c.setLoop l s).loops = Tbl.set dLoop c.loops l s := rfl
@[simp] theorem Chip.setLoop_minSel (l : Nat) (s : LoopSt) : (c.setLoop l s).minSel = c.minSel := rfl
@[simp] theorem Chip.setLoop_streams (l : Nat) (s : LoopSt) : (c.setLoop l s).streams = c.streams := rfl
@[simp] theorem Chip.setLoop_can (l : Nat) (s : LoopSt) : (c.setLoop l s).can = c.can := rfl
@[simp] theorem Chip.setLoop_panels (l : Nat) (s : LoopSt) : (c.setLoop l s).panels = c.panels := rfl
@[simp] theorem Chip.setLoop_plate (l : Nat) (s : LoopSt) : (c.setLoop l s).plate = c.plate := rfl
@[simp] theorem Chip.setLoop_selftest (l : Nat) (s : LoopSt) : (c.setLoop l s).selftest = c.selftest := rfl
@[simp] theorem Chip.setLoop_freeCount (l : Nat) (s : LoopSt) : (c.setLoop l s).freeCount = c.freeCount := rfl
@[simp] theorem Chip.setLink_fuses (n : Nat) (s : LinkSt) : (c.setLink n s).fuses = c.fuses := rfl
@[simp] theorem Chip.setLink_clk (n : Nat) (s : LinkSt) : (c.setLink n s).clk = c.clk := rfl
@[simp] theorem Chip.setLink_slots (n : Nat) (s : LinkSt) : (c.setLink n s).slots = c.slots := rfl
@[simp] theorem Chip.setLink_overrides (n : Nat) (s : LinkSt) : (c.setLink n s).overrides = c.overrides := rfl
@[simp] theorem Chip.setLink_produced (n : Nat) (s : LinkSt) : (c.setLink n s).produced = c.produced := rfl
@[simp] theorem Chip.setLink_slotWrites (n : Nat) (s : LinkSt) : (c.setLink n s).slotWrites = c.slotWrites := rfl
@[simp] theorem Chip.setLink_attrs (n : Nat) (s : LinkSt) : (c.setLink n s).attrs = c.attrs := rfl
@[simp] theorem Chip.setLink_existing (n : Nat) (s : LinkSt) : (c.setLink n s).existing = c.existing := rfl
@[simp] theorem Chip.setLink_gens (n : Nat) (s : LinkSt) : (c.setLink n s).gens = c.gens := rfl
@[simp] theorem Chip.setLink_owners (n : Nat) (s : LinkSt) : (c.setLink n s).owners = c.owners := rfl
@[simp] theorem Chip.setLink_sessions (n : Nat) (s : LinkSt) : (c.setLink n s).sessions = c.sessions := rfl
@[simp] theorem Chip.setLink_staged (n : Nat) (s : LinkSt) : (c.setLink n s).staged = c.staged := rfl
@[simp] theorem Chip.setLink_lives (n : Nat) (s : LinkSt) : (c.setLink n s).lives = c.lives := rfl
@[simp] theorem Chip.setLink_cmds (n : Nat) (s : LinkSt) : (c.setLink n s).cmds = c.cmds := rfl
@[simp] theorem Chip.setLink_remoteIn (n : Nat) (s : LinkSt) : (c.setLink n s).remoteIn = c.remoteIn := rfl
@[simp] theorem Chip.setLink_events (n : Nat) (s : LinkSt) : (c.setLink n s).events = c.events := rfl
@[simp] theorem Chip.setLink_queues (n : Nat) (s : LinkSt) : (c.setLink n s).queues = c.queues := rfl
@[simp] theorem Chip.setLink_ring (n : Nat) (s : LinkSt) : (c.setLink n s).ring = c.ring := rfl
@[simp] theorem Chip.setLink_foldS (n : Nat) (s : LinkSt) : (c.setLink n s).foldS = c.foldS := rfl
@[simp] theorem Chip.setLink_foldD (n : Nat) (s : LinkSt) : (c.setLink n s).foldD = c.foldD := rfl
@[simp] theorem Chip.setLink_host (n : Nat) (s : LinkSt) : (c.setLink n s).host = c.host := rfl
@[simp] theorem Chip.setLink_mgt (n : Nat) (s : LinkSt) : (c.setLink n s).mgt = c.mgt := rfl
@[simp] theorem Chip.setLink_power (n : Nat) (s : LinkSt) : (c.setLink n s).power = c.power := rfl
@[simp] theorem Chip.setLink_log (n : Nat) (s : LinkSt) : (c.setLink n s).log = c.log := rfl
@[simp] theorem Chip.setLink_counters (n : Nat) (s : LinkSt) : (c.setLink n s).counters = c.counters := rfl
@[simp] theorem Chip.setLink_dogs (n : Nat) (s : LinkSt) : (c.setLink n s).dogs = c.dogs := rfl
@[simp] theorem Chip.setLink_firmware (n : Nat) (s : LinkSt) : (c.setLink n s).firmware = c.firmware := rfl
@[simp] theorem Chip.setLink_image (n : Nat) (s : LinkSt) : (c.setLink n s).image = c.image := rfl
@[simp] theorem Chip.setLink_flash (n : Nat) (s : LinkSt) : (c.setLink n s).flash = c.flash := rfl
@[simp] theorem Chip.setLink_rtc (n : Nat) (s : LinkSt) : (c.setLink n s).rtc = c.rtc := rfl
@[simp] theorem Chip.setLink_almanac (n : Nat) (s : LinkSt) : (c.setLink n s).almanac = c.almanac := rfl
@[simp] theorem Chip.setLink_links (n : Nat) (s : LinkSt) : (c.setLink n s).links = Tbl.set dLink c.links n s := rfl
@[simp] theorem Chip.setLink_fabric (n : Nat) (s : LinkSt) : (c.setLink n s).fabric = c.fabric := rfl
@[simp] theorem Chip.setLink_ports (n : Nat) (s : LinkSt) : (c.setLink n s).ports = c.ports := rfl
@[simp] theorem Chip.setLink_groups (n : Nat) (s : LinkSt) : (c.setLink n s).groups = c.groups := rfl
@[simp] theorem Chip.setLink_bridges (n : Nat) (s : LinkSt) : (c.setLink n s).bridges = c.bridges := rfl
@[simp] theorem Chip.setLink_motors (n : Nat) (s : LinkSt) : (c.setLink n s).motors = c.motors := rfl
@[simp] theorem Chip.setLink_records (n : Nat) (s : LinkSt) : (c.setLink n s).records = c.records := rfl
@[simp] theorem Chip.setLink_valves (n : Nat) (s : LinkSt) : (c.setLink n s).valves = c.valves := rfl
@[simp] theorem Chip.setLink_fans (n : Nat) (s : LinkSt) : (c.setLink n s).fans = c.fans := rfl
@[simp] theorem Chip.setLink_sampler (n : Nat) (s : LinkSt) : (c.setLink n s).sampler = c.sampler := rfl
@[simp] theorem Chip.setLink_cal (n : Nat) (s : LinkSt) : (c.setLink n s).cal = c.cal := rfl
@[simp] theorem Chip.setLink_zones (n : Nat) (s : LinkSt) : (c.setLink n s).zones = c.zones := rfl
@[simp] theorem Chip.setLink_predictions (n : Nat) (s : LinkSt) : (c.setLink n s).predictions = c.predictions := rfl
@[simp] theorem Chip.setLink_thermal (n : Nat) (s : LinkSt) : (c.setLink n s).thermal = c.thermal := rfl
@[simp] theorem Chip.setLink_staleWrites (n : Nat) (s : LinkSt) : (c.setLink n s).staleWrites = c.staleWrites := rfl
@[simp] theorem Chip.setLink_loops (n : Nat) (s : LinkSt) : (c.setLink n s).loops = c.loops := rfl
@[simp] theorem Chip.setLink_minSel (n : Nat) (s : LinkSt) : (c.setLink n s).minSel = c.minSel := rfl
@[simp] theorem Chip.setLink_streams (n : Nat) (s : LinkSt) : (c.setLink n s).streams = c.streams := rfl
@[simp] theorem Chip.setLink_can (n : Nat) (s : LinkSt) : (c.setLink n s).can = c.can := rfl
@[simp] theorem Chip.setLink_panels (n : Nat) (s : LinkSt) : (c.setLink n s).panels = c.panels := rfl
@[simp] theorem Chip.setLink_plate (n : Nat) (s : LinkSt) : (c.setLink n s).plate = c.plate := rfl
@[simp] theorem Chip.setLink_selftest (n : Nat) (s : LinkSt) : (c.setLink n s).selftest = c.selftest := rfl
@[simp] theorem Chip.setLink_freeCount (n : Nat) (s : LinkSt) : (c.setLink n s).freeCount = c.freeCount := rfl
@[simp] theorem Chip.setFabric_fuses (f : FabricSt → FabricSt) : (c.setFabric f).fuses = c.fuses := rfl
@[simp] theorem Chip.setFabric_clk (f : FabricSt → FabricSt) : (c.setFabric f).clk = c.clk := rfl
@[simp] theorem Chip.setFabric_slots (f : FabricSt → FabricSt) : (c.setFabric f).slots = c.slots := rfl
@[simp] theorem Chip.setFabric_overrides (f : FabricSt → FabricSt) : (c.setFabric f).overrides = c.overrides := rfl
@[simp] theorem Chip.setFabric_produced (f : FabricSt → FabricSt) : (c.setFabric f).produced = c.produced := rfl
@[simp] theorem Chip.setFabric_slotWrites (f : FabricSt → FabricSt) : (c.setFabric f).slotWrites = c.slotWrites := rfl
@[simp] theorem Chip.setFabric_attrs (f : FabricSt → FabricSt) : (c.setFabric f).attrs = c.attrs := rfl
@[simp] theorem Chip.setFabric_existing (f : FabricSt → FabricSt) : (c.setFabric f).existing = c.existing := rfl
@[simp] theorem Chip.setFabric_gens (f : FabricSt → FabricSt) : (c.setFabric f).gens = c.gens := rfl
@[simp] theorem Chip.setFabric_owners (f : FabricSt → FabricSt) : (c.setFabric f).owners = c.owners := rfl
@[simp] theorem Chip.setFabric_sessions (f : FabricSt → FabricSt) : (c.setFabric f).sessions = c.sessions := rfl
@[simp] theorem Chip.setFabric_staged (f : FabricSt → FabricSt) : (c.setFabric f).staged = c.staged := rfl
@[simp] theorem Chip.setFabric_lives (f : FabricSt → FabricSt) : (c.setFabric f).lives = c.lives := rfl
@[simp] theorem Chip.setFabric_cmds (f : FabricSt → FabricSt) : (c.setFabric f).cmds = c.cmds := rfl
@[simp] theorem Chip.setFabric_remoteIn (f : FabricSt → FabricSt) : (c.setFabric f).remoteIn = c.remoteIn := rfl
@[simp] theorem Chip.setFabric_events (f : FabricSt → FabricSt) : (c.setFabric f).events = c.events := rfl
@[simp] theorem Chip.setFabric_queues (f : FabricSt → FabricSt) : (c.setFabric f).queues = c.queues := rfl
@[simp] theorem Chip.setFabric_ring (f : FabricSt → FabricSt) : (c.setFabric f).ring = c.ring := rfl
@[simp] theorem Chip.setFabric_foldS (f : FabricSt → FabricSt) : (c.setFabric f).foldS = c.foldS := rfl
@[simp] theorem Chip.setFabric_foldD (f : FabricSt → FabricSt) : (c.setFabric f).foldD = c.foldD := rfl
@[simp] theorem Chip.setFabric_host (f : FabricSt → FabricSt) : (c.setFabric f).host = c.host := rfl
@[simp] theorem Chip.setFabric_mgt (f : FabricSt → FabricSt) : (c.setFabric f).mgt = c.mgt := rfl
@[simp] theorem Chip.setFabric_power (f : FabricSt → FabricSt) : (c.setFabric f).power = c.power := rfl
@[simp] theorem Chip.setFabric_log (f : FabricSt → FabricSt) : (c.setFabric f).log = c.log := rfl
@[simp] theorem Chip.setFabric_counters (f : FabricSt → FabricSt) : (c.setFabric f).counters = c.counters := rfl
@[simp] theorem Chip.setFabric_dogs (f : FabricSt → FabricSt) : (c.setFabric f).dogs = c.dogs := rfl
@[simp] theorem Chip.setFabric_firmware (f : FabricSt → FabricSt) : (c.setFabric f).firmware = c.firmware := rfl
@[simp] theorem Chip.setFabric_image (f : FabricSt → FabricSt) : (c.setFabric f).image = c.image := rfl
@[simp] theorem Chip.setFabric_flash (f : FabricSt → FabricSt) : (c.setFabric f).flash = c.flash := rfl
@[simp] theorem Chip.setFabric_rtc (f : FabricSt → FabricSt) : (c.setFabric f).rtc = c.rtc := rfl
@[simp] theorem Chip.setFabric_almanac (f : FabricSt → FabricSt) : (c.setFabric f).almanac = c.almanac := rfl
@[simp] theorem Chip.setFabric_links (f : FabricSt → FabricSt) : (c.setFabric f).links = c.links := rfl
@[simp] theorem Chip.setFabric_fabric (f : FabricSt → FabricSt) : (c.setFabric f).fabric = f c.fabric := rfl
@[simp] theorem Chip.setFabric_ports (f : FabricSt → FabricSt) : (c.setFabric f).ports = c.ports := rfl
@[simp] theorem Chip.setFabric_groups (f : FabricSt → FabricSt) : (c.setFabric f).groups = c.groups := rfl
@[simp] theorem Chip.setFabric_bridges (f : FabricSt → FabricSt) : (c.setFabric f).bridges = c.bridges := rfl
@[simp] theorem Chip.setFabric_motors (f : FabricSt → FabricSt) : (c.setFabric f).motors = c.motors := rfl
@[simp] theorem Chip.setFabric_records (f : FabricSt → FabricSt) : (c.setFabric f).records = c.records := rfl
@[simp] theorem Chip.setFabric_valves (f : FabricSt → FabricSt) : (c.setFabric f).valves = c.valves := rfl
@[simp] theorem Chip.setFabric_fans (f : FabricSt → FabricSt) : (c.setFabric f).fans = c.fans := rfl
@[simp] theorem Chip.setFabric_sampler (f : FabricSt → FabricSt) : (c.setFabric f).sampler = c.sampler := rfl
@[simp] theorem Chip.setFabric_cal (f : FabricSt → FabricSt) : (c.setFabric f).cal = c.cal := rfl
@[simp] theorem Chip.setFabric_zones (f : FabricSt → FabricSt) : (c.setFabric f).zones = c.zones := rfl
@[simp] theorem Chip.setFabric_predictions (f : FabricSt → FabricSt) : (c.setFabric f).predictions = c.predictions := rfl
@[simp] theorem Chip.setFabric_thermal (f : FabricSt → FabricSt) : (c.setFabric f).thermal = c.thermal := rfl
@[simp] theorem Chip.setFabric_staleWrites (f : FabricSt → FabricSt) : (c.setFabric f).staleWrites = c.staleWrites := rfl
@[simp] theorem Chip.setFabric_loops (f : FabricSt → FabricSt) : (c.setFabric f).loops = c.loops := rfl
@[simp] theorem Chip.setFabric_minSel (f : FabricSt → FabricSt) : (c.setFabric f).minSel = c.minSel := rfl
@[simp] theorem Chip.setFabric_streams (f : FabricSt → FabricSt) : (c.setFabric f).streams = c.streams := rfl
@[simp] theorem Chip.setFabric_can (f : FabricSt → FabricSt) : (c.setFabric f).can = c.can := rfl
@[simp] theorem Chip.setFabric_panels (f : FabricSt → FabricSt) : (c.setFabric f).panels = c.panels := rfl
@[simp] theorem Chip.setFabric_plate (f : FabricSt → FabricSt) : (c.setFabric f).plate = c.plate := rfl
@[simp] theorem Chip.setFabric_selftest (f : FabricSt → FabricSt) : (c.setFabric f).selftest = c.selftest := rfl
@[simp] theorem Chip.setFabric_freeCount (f : FabricSt → FabricSt) : (c.setFabric f).freeCount = c.freeCount := rfl
@[simp] theorem Chip.setStream_fuses (i : Nat) (s : StreamSt) : (c.setStream i s).fuses = c.fuses := rfl
@[simp] theorem Chip.setStream_clk (i : Nat) (s : StreamSt) : (c.setStream i s).clk = c.clk := rfl
@[simp] theorem Chip.setStream_slots (i : Nat) (s : StreamSt) : (c.setStream i s).slots = c.slots := rfl
@[simp] theorem Chip.setStream_overrides (i : Nat) (s : StreamSt) : (c.setStream i s).overrides = c.overrides := rfl
@[simp] theorem Chip.setStream_produced (i : Nat) (s : StreamSt) : (c.setStream i s).produced = c.produced := rfl
@[simp] theorem Chip.setStream_slotWrites (i : Nat) (s : StreamSt) : (c.setStream i s).slotWrites = c.slotWrites := rfl
@[simp] theorem Chip.setStream_attrs (i : Nat) (s : StreamSt) : (c.setStream i s).attrs = c.attrs := rfl
@[simp] theorem Chip.setStream_existing (i : Nat) (s : StreamSt) : (c.setStream i s).existing = c.existing := rfl
@[simp] theorem Chip.setStream_gens (i : Nat) (s : StreamSt) : (c.setStream i s).gens = c.gens := rfl
@[simp] theorem Chip.setStream_owners (i : Nat) (s : StreamSt) : (c.setStream i s).owners = c.owners := rfl
@[simp] theorem Chip.setStream_sessions (i : Nat) (s : StreamSt) : (c.setStream i s).sessions = c.sessions := rfl
@[simp] theorem Chip.setStream_staged (i : Nat) (s : StreamSt) : (c.setStream i s).staged = c.staged := rfl
@[simp] theorem Chip.setStream_lives (i : Nat) (s : StreamSt) : (c.setStream i s).lives = c.lives := rfl
@[simp] theorem Chip.setStream_cmds (i : Nat) (s : StreamSt) : (c.setStream i s).cmds = c.cmds := rfl
@[simp] theorem Chip.setStream_remoteIn (i : Nat) (s : StreamSt) : (c.setStream i s).remoteIn = c.remoteIn := rfl
@[simp] theorem Chip.setStream_events (i : Nat) (s : StreamSt) : (c.setStream i s).events = c.events := rfl
@[simp] theorem Chip.setStream_queues (i : Nat) (s : StreamSt) : (c.setStream i s).queues = c.queues := rfl
@[simp] theorem Chip.setStream_ring (i : Nat) (s : StreamSt) : (c.setStream i s).ring = c.ring := rfl
@[simp] theorem Chip.setStream_foldS (i : Nat) (s : StreamSt) : (c.setStream i s).foldS = c.foldS := rfl
@[simp] theorem Chip.setStream_foldD (i : Nat) (s : StreamSt) : (c.setStream i s).foldD = c.foldD := rfl
@[simp] theorem Chip.setStream_host (i : Nat) (s : StreamSt) : (c.setStream i s).host = c.host := rfl
@[simp] theorem Chip.setStream_mgt (i : Nat) (s : StreamSt) : (c.setStream i s).mgt = c.mgt := rfl
@[simp] theorem Chip.setStream_power (i : Nat) (s : StreamSt) : (c.setStream i s).power = c.power := rfl
@[simp] theorem Chip.setStream_log (i : Nat) (s : StreamSt) : (c.setStream i s).log = c.log := rfl
@[simp] theorem Chip.setStream_counters (i : Nat) (s : StreamSt) : (c.setStream i s).counters = c.counters := rfl
@[simp] theorem Chip.setStream_dogs (i : Nat) (s : StreamSt) : (c.setStream i s).dogs = c.dogs := rfl
@[simp] theorem Chip.setStream_firmware (i : Nat) (s : StreamSt) : (c.setStream i s).firmware = c.firmware := rfl
@[simp] theorem Chip.setStream_image (i : Nat) (s : StreamSt) : (c.setStream i s).image = c.image := rfl
@[simp] theorem Chip.setStream_flash (i : Nat) (s : StreamSt) : (c.setStream i s).flash = c.flash := rfl
@[simp] theorem Chip.setStream_rtc (i : Nat) (s : StreamSt) : (c.setStream i s).rtc = c.rtc := rfl
@[simp] theorem Chip.setStream_almanac (i : Nat) (s : StreamSt) : (c.setStream i s).almanac = c.almanac := rfl
@[simp] theorem Chip.setStream_links (i : Nat) (s : StreamSt) : (c.setStream i s).links = c.links := rfl
@[simp] theorem Chip.setStream_fabric (i : Nat) (s : StreamSt) : (c.setStream i s).fabric = c.fabric := rfl
@[simp] theorem Chip.setStream_ports (i : Nat) (s : StreamSt) : (c.setStream i s).ports = c.ports := rfl
@[simp] theorem Chip.setStream_groups (i : Nat) (s : StreamSt) : (c.setStream i s).groups = c.groups := rfl
@[simp] theorem Chip.setStream_bridges (i : Nat) (s : StreamSt) : (c.setStream i s).bridges = c.bridges := rfl
@[simp] theorem Chip.setStream_motors (i : Nat) (s : StreamSt) : (c.setStream i s).motors = c.motors := rfl
@[simp] theorem Chip.setStream_records (i : Nat) (s : StreamSt) : (c.setStream i s).records = c.records := rfl
@[simp] theorem Chip.setStream_valves (i : Nat) (s : StreamSt) : (c.setStream i s).valves = c.valves := rfl
@[simp] theorem Chip.setStream_fans (i : Nat) (s : StreamSt) : (c.setStream i s).fans = c.fans := rfl
@[simp] theorem Chip.setStream_sampler (i : Nat) (s : StreamSt) : (c.setStream i s).sampler = c.sampler := rfl
@[simp] theorem Chip.setStream_cal (i : Nat) (s : StreamSt) : (c.setStream i s).cal = c.cal := rfl
@[simp] theorem Chip.setStream_zones (i : Nat) (s : StreamSt) : (c.setStream i s).zones = c.zones := rfl
@[simp] theorem Chip.setStream_predictions (i : Nat) (s : StreamSt) : (c.setStream i s).predictions = c.predictions := rfl
@[simp] theorem Chip.setStream_thermal (i : Nat) (s : StreamSt) : (c.setStream i s).thermal = c.thermal := rfl
@[simp] theorem Chip.setStream_staleWrites (i : Nat) (s : StreamSt) : (c.setStream i s).staleWrites = c.staleWrites := rfl
@[simp] theorem Chip.setStream_loops (i : Nat) (s : StreamSt) : (c.setStream i s).loops = c.loops := rfl
@[simp] theorem Chip.setStream_minSel (i : Nat) (s : StreamSt) : (c.setStream i s).minSel = c.minSel := rfl
@[simp] theorem Chip.setStream_streams (i : Nat) (s : StreamSt) : (c.setStream i s).streams = Tbl.set dStream c.streams i s := rfl
@[simp] theorem Chip.setStream_can (i : Nat) (s : StreamSt) : (c.setStream i s).can = c.can := rfl
@[simp] theorem Chip.setStream_panels (i : Nat) (s : StreamSt) : (c.setStream i s).panels = c.panels := rfl
@[simp] theorem Chip.setStream_plate (i : Nat) (s : StreamSt) : (c.setStream i s).plate = c.plate := rfl
@[simp] theorem Chip.setStream_selftest (i : Nat) (s : StreamSt) : (c.setStream i s).selftest = c.selftest := rfl
@[simp] theorem Chip.setStream_freeCount (i : Nat) (s : StreamSt) : (c.setStream i s).freeCount = c.freeCount := rfl
@[simp] theorem Chip.setFw_fuses (f : FirmwareSt → FirmwareSt) : (c.setFw f).fuses = c.fuses := rfl
@[simp] theorem Chip.setFw_clk (f : FirmwareSt → FirmwareSt) : (c.setFw f).clk = c.clk := rfl
@[simp] theorem Chip.setFw_slots (f : FirmwareSt → FirmwareSt) : (c.setFw f).slots = c.slots := rfl
@[simp] theorem Chip.setFw_overrides (f : FirmwareSt → FirmwareSt) : (c.setFw f).overrides = c.overrides := rfl
@[simp] theorem Chip.setFw_produced (f : FirmwareSt → FirmwareSt) : (c.setFw f).produced = c.produced := rfl
@[simp] theorem Chip.setFw_slotWrites (f : FirmwareSt → FirmwareSt) : (c.setFw f).slotWrites = c.slotWrites := rfl
@[simp] theorem Chip.setFw_attrs (f : FirmwareSt → FirmwareSt) : (c.setFw f).attrs = c.attrs := rfl
@[simp] theorem Chip.setFw_existing (f : FirmwareSt → FirmwareSt) : (c.setFw f).existing = c.existing := rfl
@[simp] theorem Chip.setFw_gens (f : FirmwareSt → FirmwareSt) : (c.setFw f).gens = c.gens := rfl
@[simp] theorem Chip.setFw_owners (f : FirmwareSt → FirmwareSt) : (c.setFw f).owners = c.owners := rfl
@[simp] theorem Chip.setFw_sessions (f : FirmwareSt → FirmwareSt) : (c.setFw f).sessions = c.sessions := rfl
@[simp] theorem Chip.setFw_staged (f : FirmwareSt → FirmwareSt) : (c.setFw f).staged = c.staged := rfl
@[simp] theorem Chip.setFw_lives (f : FirmwareSt → FirmwareSt) : (c.setFw f).lives = c.lives := rfl
@[simp] theorem Chip.setFw_cmds (f : FirmwareSt → FirmwareSt) : (c.setFw f).cmds = c.cmds := rfl
@[simp] theorem Chip.setFw_remoteIn (f : FirmwareSt → FirmwareSt) : (c.setFw f).remoteIn = c.remoteIn := rfl
@[simp] theorem Chip.setFw_events (f : FirmwareSt → FirmwareSt) : (c.setFw f).events = c.events := rfl
@[simp] theorem Chip.setFw_queues (f : FirmwareSt → FirmwareSt) : (c.setFw f).queues = c.queues := rfl
@[simp] theorem Chip.setFw_ring (f : FirmwareSt → FirmwareSt) : (c.setFw f).ring = c.ring := rfl
@[simp] theorem Chip.setFw_foldS (f : FirmwareSt → FirmwareSt) : (c.setFw f).foldS = c.foldS := rfl
@[simp] theorem Chip.setFw_foldD (f : FirmwareSt → FirmwareSt) : (c.setFw f).foldD = c.foldD := rfl
@[simp] theorem Chip.setFw_host (f : FirmwareSt → FirmwareSt) : (c.setFw f).host = c.host := rfl
@[simp] theorem Chip.setFw_mgt (f : FirmwareSt → FirmwareSt) : (c.setFw f).mgt = c.mgt := rfl
@[simp] theorem Chip.setFw_power (f : FirmwareSt → FirmwareSt) : (c.setFw f).power = c.power := rfl
@[simp] theorem Chip.setFw_log (f : FirmwareSt → FirmwareSt) : (c.setFw f).log = c.log := rfl
@[simp] theorem Chip.setFw_counters (f : FirmwareSt → FirmwareSt) : (c.setFw f).counters = c.counters := rfl
@[simp] theorem Chip.setFw_dogs (f : FirmwareSt → FirmwareSt) : (c.setFw f).dogs = c.dogs := rfl
@[simp] theorem Chip.setFw_firmware (f : FirmwareSt → FirmwareSt) : (c.setFw f).firmware = f c.firmware := rfl
@[simp] theorem Chip.setFw_image (f : FirmwareSt → FirmwareSt) : (c.setFw f).image = c.image := rfl
@[simp] theorem Chip.setFw_flash (f : FirmwareSt → FirmwareSt) : (c.setFw f).flash = c.flash := rfl
@[simp] theorem Chip.setFw_rtc (f : FirmwareSt → FirmwareSt) : (c.setFw f).rtc = c.rtc := rfl
@[simp] theorem Chip.setFw_almanac (f : FirmwareSt → FirmwareSt) : (c.setFw f).almanac = c.almanac := rfl
@[simp] theorem Chip.setFw_links (f : FirmwareSt → FirmwareSt) : (c.setFw f).links = c.links := rfl
@[simp] theorem Chip.setFw_fabric (f : FirmwareSt → FirmwareSt) : (c.setFw f).fabric = c.fabric := rfl
@[simp] theorem Chip.setFw_ports (f : FirmwareSt → FirmwareSt) : (c.setFw f).ports = c.ports := rfl
@[simp] theorem Chip.setFw_groups (f : FirmwareSt → FirmwareSt) : (c.setFw f).groups = c.groups := rfl
@[simp] theorem Chip.setFw_bridges (f : FirmwareSt → FirmwareSt) : (c.setFw f).bridges = c.bridges := rfl
@[simp] theorem Chip.setFw_motors (f : FirmwareSt → FirmwareSt) : (c.setFw f).motors = c.motors := rfl
@[simp] theorem Chip.setFw_records (f : FirmwareSt → FirmwareSt) : (c.setFw f).records = c.records := rfl
@[simp] theorem Chip.setFw_valves (f : FirmwareSt → FirmwareSt) : (c.setFw f).valves = c.valves := rfl
@[simp] theorem Chip.setFw_fans (f : FirmwareSt → FirmwareSt) : (c.setFw f).fans = c.fans := rfl
@[simp] theorem Chip.setFw_sampler (f : FirmwareSt → FirmwareSt) : (c.setFw f).sampler = c.sampler := rfl
@[simp] theorem Chip.setFw_cal (f : FirmwareSt → FirmwareSt) : (c.setFw f).cal = c.cal := rfl
@[simp] theorem Chip.setFw_zones (f : FirmwareSt → FirmwareSt) : (c.setFw f).zones = c.zones := rfl
@[simp] theorem Chip.setFw_predictions (f : FirmwareSt → FirmwareSt) : (c.setFw f).predictions = c.predictions := rfl
@[simp] theorem Chip.setFw_thermal (f : FirmwareSt → FirmwareSt) : (c.setFw f).thermal = c.thermal := rfl
@[simp] theorem Chip.setFw_staleWrites (f : FirmwareSt → FirmwareSt) : (c.setFw f).staleWrites = c.staleWrites := rfl
@[simp] theorem Chip.setFw_loops (f : FirmwareSt → FirmwareSt) : (c.setFw f).loops = c.loops := rfl
@[simp] theorem Chip.setFw_minSel (f : FirmwareSt → FirmwareSt) : (c.setFw f).minSel = c.minSel := rfl
@[simp] theorem Chip.setFw_streams (f : FirmwareSt → FirmwareSt) : (c.setFw f).streams = c.streams := rfl
@[simp] theorem Chip.setFw_can (f : FirmwareSt → FirmwareSt) : (c.setFw f).can = c.can := rfl
@[simp] theorem Chip.setFw_panels (f : FirmwareSt → FirmwareSt) : (c.setFw f).panels = c.panels := rfl
@[simp] theorem Chip.setFw_plate (f : FirmwareSt → FirmwareSt) : (c.setFw f).plate = c.plate := rfl
@[simp] theorem Chip.setFw_selftest (f : FirmwareSt → FirmwareSt) : (c.setFw f).selftest = c.selftest := rfl
@[simp] theorem Chip.setFw_freeCount (f : FirmwareSt → FirmwareSt) : (c.setFw f).freeCount = c.freeCount := rfl
@[simp] theorem Chip.setMgt_fuses (f : MgtSt → MgtSt) : (c.setMgt f).fuses = c.fuses := rfl
@[simp] theorem Chip.setMgt_clk (f : MgtSt → MgtSt) : (c.setMgt f).clk = c.clk := rfl
@[simp] theorem Chip.setMgt_slots (f : MgtSt → MgtSt) : (c.setMgt f).slots = c.slots := rfl
@[simp] theorem Chip.setMgt_overrides (f : MgtSt → MgtSt) : (c.setMgt f).overrides = c.overrides := rfl
@[simp] theorem Chip.setMgt_produced (f : MgtSt → MgtSt) : (c.setMgt f).produced = c.produced := rfl
@[simp] theorem Chip.setMgt_slotWrites (f : MgtSt → MgtSt) : (c.setMgt f).slotWrites = c.slotWrites := rfl
@[simp] theorem Chip.setMgt_attrs (f : MgtSt → MgtSt) : (c.setMgt f).attrs = c.attrs := rfl
@[simp] theorem Chip.setMgt_existing (f : MgtSt → MgtSt) : (c.setMgt f).existing = c.existing := rfl
@[simp] theorem Chip.setMgt_gens (f : MgtSt → MgtSt) : (c.setMgt f).gens = c.gens := rfl
@[simp] theorem Chip.setMgt_owners (f : MgtSt → MgtSt) : (c.setMgt f).owners = c.owners := rfl
@[simp] theorem Chip.setMgt_sessions (f : MgtSt → MgtSt) : (c.setMgt f).sessions = c.sessions := rfl
@[simp] theorem Chip.setMgt_staged (f : MgtSt → MgtSt) : (c.setMgt f).staged = c.staged := rfl
@[simp] theorem Chip.setMgt_lives (f : MgtSt → MgtSt) : (c.setMgt f).lives = c.lives := rfl
@[simp] theorem Chip.setMgt_cmds (f : MgtSt → MgtSt) : (c.setMgt f).cmds = c.cmds := rfl
@[simp] theorem Chip.setMgt_remoteIn (f : MgtSt → MgtSt) : (c.setMgt f).remoteIn = c.remoteIn := rfl
@[simp] theorem Chip.setMgt_events (f : MgtSt → MgtSt) : (c.setMgt f).events = c.events := rfl
@[simp] theorem Chip.setMgt_queues (f : MgtSt → MgtSt) : (c.setMgt f).queues = c.queues := rfl
@[simp] theorem Chip.setMgt_ring (f : MgtSt → MgtSt) : (c.setMgt f).ring = c.ring := rfl
@[simp] theorem Chip.setMgt_foldS (f : MgtSt → MgtSt) : (c.setMgt f).foldS = c.foldS := rfl
@[simp] theorem Chip.setMgt_foldD (f : MgtSt → MgtSt) : (c.setMgt f).foldD = c.foldD := rfl
@[simp] theorem Chip.setMgt_host (f : MgtSt → MgtSt) : (c.setMgt f).host = c.host := rfl
@[simp] theorem Chip.setMgt_mgt (f : MgtSt → MgtSt) : (c.setMgt f).mgt = f c.mgt := rfl
@[simp] theorem Chip.setMgt_power (f : MgtSt → MgtSt) : (c.setMgt f).power = c.power := rfl
@[simp] theorem Chip.setMgt_log (f : MgtSt → MgtSt) : (c.setMgt f).log = c.log := rfl
@[simp] theorem Chip.setMgt_counters (f : MgtSt → MgtSt) : (c.setMgt f).counters = c.counters := rfl
@[simp] theorem Chip.setMgt_dogs (f : MgtSt → MgtSt) : (c.setMgt f).dogs = c.dogs := rfl
@[simp] theorem Chip.setMgt_firmware (f : MgtSt → MgtSt) : (c.setMgt f).firmware = c.firmware := rfl
@[simp] theorem Chip.setMgt_image (f : MgtSt → MgtSt) : (c.setMgt f).image = c.image := rfl
@[simp] theorem Chip.setMgt_flash (f : MgtSt → MgtSt) : (c.setMgt f).flash = c.flash := rfl
@[simp] theorem Chip.setMgt_rtc (f : MgtSt → MgtSt) : (c.setMgt f).rtc = c.rtc := rfl
@[simp] theorem Chip.setMgt_almanac (f : MgtSt → MgtSt) : (c.setMgt f).almanac = c.almanac := rfl
@[simp] theorem Chip.setMgt_links (f : MgtSt → MgtSt) : (c.setMgt f).links = c.links := rfl
@[simp] theorem Chip.setMgt_fabric (f : MgtSt → MgtSt) : (c.setMgt f).fabric = c.fabric := rfl
@[simp] theorem Chip.setMgt_ports (f : MgtSt → MgtSt) : (c.setMgt f).ports = c.ports := rfl
@[simp] theorem Chip.setMgt_groups (f : MgtSt → MgtSt) : (c.setMgt f).groups = c.groups := rfl
@[simp] theorem Chip.setMgt_bridges (f : MgtSt → MgtSt) : (c.setMgt f).bridges = c.bridges := rfl
@[simp] theorem Chip.setMgt_motors (f : MgtSt → MgtSt) : (c.setMgt f).motors = c.motors := rfl
@[simp] theorem Chip.setMgt_records (f : MgtSt → MgtSt) : (c.setMgt f).records = c.records := rfl
@[simp] theorem Chip.setMgt_valves (f : MgtSt → MgtSt) : (c.setMgt f).valves = c.valves := rfl
@[simp] theorem Chip.setMgt_fans (f : MgtSt → MgtSt) : (c.setMgt f).fans = c.fans := rfl
@[simp] theorem Chip.setMgt_sampler (f : MgtSt → MgtSt) : (c.setMgt f).sampler = c.sampler := rfl
@[simp] theorem Chip.setMgt_cal (f : MgtSt → MgtSt) : (c.setMgt f).cal = c.cal := rfl
@[simp] theorem Chip.setMgt_zones (f : MgtSt → MgtSt) : (c.setMgt f).zones = c.zones := rfl
@[simp] theorem Chip.setMgt_predictions (f : MgtSt → MgtSt) : (c.setMgt f).predictions = c.predictions := rfl
@[simp] theorem Chip.setMgt_thermal (f : MgtSt → MgtSt) : (c.setMgt f).thermal = c.thermal := rfl
@[simp] theorem Chip.setMgt_staleWrites (f : MgtSt → MgtSt) : (c.setMgt f).staleWrites = c.staleWrites := rfl
@[simp] theorem Chip.setMgt_loops (f : MgtSt → MgtSt) : (c.setMgt f).loops = c.loops := rfl
@[simp] theorem Chip.setMgt_minSel (f : MgtSt → MgtSt) : (c.setMgt f).minSel = c.minSel := rfl
@[simp] theorem Chip.setMgt_streams (f : MgtSt → MgtSt) : (c.setMgt f).streams = c.streams := rfl
@[simp] theorem Chip.setMgt_can (f : MgtSt → MgtSt) : (c.setMgt f).can = c.can := rfl
@[simp] theorem Chip.setMgt_panels (f : MgtSt → MgtSt) : (c.setMgt f).panels = c.panels := rfl
@[simp] theorem Chip.setMgt_plate (f : MgtSt → MgtSt) : (c.setMgt f).plate = c.plate := rfl
@[simp] theorem Chip.setMgt_selftest (f : MgtSt → MgtSt) : (c.setMgt f).selftest = c.selftest := rfl
@[simp] theorem Chip.setMgt_freeCount (f : MgtSt → MgtSt) : (c.setMgt f).freeCount = c.freeCount := rfl
@[simp] theorem Chip.setAttr_fuses (ty i a : Nat) (v : List Byte) : (c.setAttr ty i a v).fuses = c.fuses := rfl
@[simp] theorem Chip.setAttr_clk (ty i a : Nat) (v : List Byte) : (c.setAttr ty i a v).clk = c.clk := rfl
@[simp] theorem Chip.setAttr_slots (ty i a : Nat) (v : List Byte) : (c.setAttr ty i a v).slots = c.slots := rfl
@[simp] theorem Chip.setAttr_overrides (ty i a : Nat) (v : List Byte) : (c.setAttr ty i a v).overrides = c.overrides := rfl
@[simp] theorem Chip.setAttr_produced (ty i a : Nat) (v : List Byte) : (c.setAttr ty i a v).produced = c.produced := rfl
@[simp] theorem Chip.setAttr_slotWrites (ty i a : Nat) (v : List Byte) : (c.setAttr ty i a v).slotWrites = c.slotWrites := rfl
@[simp] theorem Chip.setAttr_attrs (ty i a : Nat) (v : List Byte) : (c.setAttr ty i a v).attrs = Tbl.set (dAttr c.fuses.variant) c.attrs (attrKey ty i a) v := rfl
@[simp] theorem Chip.setAttr_existing (ty i a : Nat) (v : List Byte) : (c.setAttr ty i a v).existing = c.existing := rfl
@[simp] theorem Chip.setAttr_gens (ty i a : Nat) (v : List Byte) : (c.setAttr ty i a v).gens = c.gens := rfl
@[simp] theorem Chip.setAttr_owners (ty i a : Nat) (v : List Byte) : (c.setAttr ty i a v).owners = c.owners := rfl
@[simp] theorem Chip.setAttr_sessions (ty i a : Nat) (v : List Byte) : (c.setAttr ty i a v).sessions = c.sessions := rfl
@[simp] theorem Chip.setAttr_staged (ty i a : Nat) (v : List Byte) : (c.setAttr ty i a v).staged = c.staged := rfl
@[simp] theorem Chip.setAttr_lives (ty i a : Nat) (v : List Byte) : (c.setAttr ty i a v).lives = c.lives := rfl
@[simp] theorem Chip.setAttr_cmds (ty i a : Nat) (v : List Byte) : (c.setAttr ty i a v).cmds = c.cmds := rfl
@[simp] theorem Chip.setAttr_remoteIn (ty i a : Nat) (v : List Byte) : (c.setAttr ty i a v).remoteIn = c.remoteIn := rfl
@[simp] theorem Chip.setAttr_events (ty i a : Nat) (v : List Byte) : (c.setAttr ty i a v).events = c.events := rfl
@[simp] theorem Chip.setAttr_queues (ty i a : Nat) (v : List Byte) : (c.setAttr ty i a v).queues = c.queues := rfl
@[simp] theorem Chip.setAttr_ring (ty i a : Nat) (v : List Byte) : (c.setAttr ty i a v).ring = c.ring := rfl
@[simp] theorem Chip.setAttr_foldS (ty i a : Nat) (v : List Byte) : (c.setAttr ty i a v).foldS = c.foldS := rfl
@[simp] theorem Chip.setAttr_foldD (ty i a : Nat) (v : List Byte) : (c.setAttr ty i a v).foldD = c.foldD := rfl
@[simp] theorem Chip.setAttr_host (ty i a : Nat) (v : List Byte) : (c.setAttr ty i a v).host = c.host := rfl
@[simp] theorem Chip.setAttr_mgt (ty i a : Nat) (v : List Byte) : (c.setAttr ty i a v).mgt = c.mgt := rfl
@[simp] theorem Chip.setAttr_power (ty i a : Nat) (v : List Byte) : (c.setAttr ty i a v).power = c.power := rfl
@[simp] theorem Chip.setAttr_log (ty i a : Nat) (v : List Byte) : (c.setAttr ty i a v).log = c.log := rfl
@[simp] theorem Chip.setAttr_counters (ty i a : Nat) (v : List Byte) : (c.setAttr ty i a v).counters = c.counters := rfl
@[simp] theorem Chip.setAttr_dogs (ty i a : Nat) (v : List Byte) : (c.setAttr ty i a v).dogs = c.dogs := rfl
@[simp] theorem Chip.setAttr_firmware (ty i a : Nat) (v : List Byte) : (c.setAttr ty i a v).firmware = c.firmware := rfl
@[simp] theorem Chip.setAttr_image (ty i a : Nat) (v : List Byte) : (c.setAttr ty i a v).image = c.image := rfl
@[simp] theorem Chip.setAttr_flash (ty i a : Nat) (v : List Byte) : (c.setAttr ty i a v).flash = c.flash := rfl
@[simp] theorem Chip.setAttr_rtc (ty i a : Nat) (v : List Byte) : (c.setAttr ty i a v).rtc = c.rtc := rfl
@[simp] theorem Chip.setAttr_almanac (ty i a : Nat) (v : List Byte) : (c.setAttr ty i a v).almanac = c.almanac := rfl
@[simp] theorem Chip.setAttr_links (ty i a : Nat) (v : List Byte) : (c.setAttr ty i a v).links = c.links := rfl
@[simp] theorem Chip.setAttr_fabric (ty i a : Nat) (v : List Byte) : (c.setAttr ty i a v).fabric = c.fabric := rfl
@[simp] theorem Chip.setAttr_ports (ty i a : Nat) (v : List Byte) : (c.setAttr ty i a v).ports = c.ports := rfl
@[simp] theorem Chip.setAttr_groups (ty i a : Nat) (v : List Byte) : (c.setAttr ty i a v).groups = c.groups := rfl
@[simp] theorem Chip.setAttr_bridges (ty i a : Nat) (v : List Byte) : (c.setAttr ty i a v).bridges = c.bridges := rfl
@[simp] theorem Chip.setAttr_motors (ty i a : Nat) (v : List Byte) : (c.setAttr ty i a v).motors = c.motors := rfl
@[simp] theorem Chip.setAttr_records (ty i a : Nat) (v : List Byte) : (c.setAttr ty i a v).records = c.records := rfl
@[simp] theorem Chip.setAttr_valves (ty i a : Nat) (v : List Byte) : (c.setAttr ty i a v).valves = c.valves := rfl
@[simp] theorem Chip.setAttr_fans (ty i a : Nat) (v : List Byte) : (c.setAttr ty i a v).fans = c.fans := rfl
@[simp] theorem Chip.setAttr_sampler (ty i a : Nat) (v : List Byte) : (c.setAttr ty i a v).sampler = c.sampler := rfl
@[simp] theorem Chip.setAttr_cal (ty i a : Nat) (v : List Byte) : (c.setAttr ty i a v).cal = c.cal := rfl
@[simp] theorem Chip.setAttr_zones (ty i a : Nat) (v : List Byte) : (c.setAttr ty i a v).zones = c.zones := rfl
@[simp] theorem Chip.setAttr_predictions (ty i a : Nat) (v : List Byte) : (c.setAttr ty i a v).predictions = c.predictions := rfl
@[simp] theorem Chip.setAttr_thermal (ty i a : Nat) (v : List Byte) : (c.setAttr ty i a v).thermal = c.thermal := rfl
@[simp] theorem Chip.setAttr_staleWrites (ty i a : Nat) (v : List Byte) : (c.setAttr ty i a v).staleWrites = c.staleWrites := rfl
@[simp] theorem Chip.setAttr_loops (ty i a : Nat) (v : List Byte) : (c.setAttr ty i a v).loops = c.loops := rfl
@[simp] theorem Chip.setAttr_minSel (ty i a : Nat) (v : List Byte) : (c.setAttr ty i a v).minSel = c.minSel := rfl
@[simp] theorem Chip.setAttr_streams (ty i a : Nat) (v : List Byte) : (c.setAttr ty i a v).streams = c.streams := rfl
@[simp] theorem Chip.setAttr_can (ty i a : Nat) (v : List Byte) : (c.setAttr ty i a v).can = c.can := rfl
@[simp] theorem Chip.setAttr_panels (ty i a : Nat) (v : List Byte) : (c.setAttr ty i a v).panels = c.panels := rfl
@[simp] theorem Chip.setAttr_plate (ty i a : Nat) (v : List Byte) : (c.setAttr ty i a v).plate = c.plate := rfl
@[simp] theorem Chip.setAttr_selftest (ty i a : Nat) (v : List Byte) : (c.setAttr ty i a v).selftest = c.selftest := rfl
@[simp] theorem Chip.setAttr_freeCount (ty i a : Nat) (v : List Byte) : (c.setAttr ty i a v).freeCount = c.freeCount := rfl
@[simp] theorem Chip.setQueue_fuses (q : Nat) (s : QueueSt) : (c.setQueue q s).fuses = c.fuses := rfl
@[simp] theorem Chip.setQueue_clk (q : Nat) (s : QueueSt) : (c.setQueue q s).clk = c.clk := rfl
@[simp] theorem Chip.setQueue_slots (q : Nat) (s : QueueSt) : (c.setQueue q s).slots = c.slots := rfl
@[simp] theorem Chip.setQueue_overrides (q : Nat) (s : QueueSt) : (c.setQueue q s).overrides = c.overrides := rfl
@[simp] theorem Chip.setQueue_produced (q : Nat) (s : QueueSt) : (c.setQueue q s).produced = c.produced := rfl
@[simp] theorem Chip.setQueue_slotWrites (q : Nat) (s : QueueSt) : (c.setQueue q s).slotWrites = c.slotWrites := rfl
@[simp] theorem Chip.setQueue_attrs (q : Nat) (s : QueueSt) : (c.setQueue q s).attrs = c.attrs := rfl
@[simp] theorem Chip.setQueue_existing (q : Nat) (s : QueueSt) : (c.setQueue q s).existing = c.existing := rfl
@[simp] theorem Chip.setQueue_gens (q : Nat) (s : QueueSt) : (c.setQueue q s).gens = c.gens := rfl
@[simp] theorem Chip.setQueue_owners (q : Nat) (s : QueueSt) : (c.setQueue q s).owners = c.owners := rfl
@[simp] theorem Chip.setQueue_sessions (q : Nat) (s : QueueSt) : (c.setQueue q s).sessions = c.sessions := rfl
@[simp] theorem Chip.setQueue_staged (q : Nat) (s : QueueSt) : (c.setQueue q s).staged = c.staged := rfl
@[simp] theorem Chip.setQueue_lives (q : Nat) (s : QueueSt) : (c.setQueue q s).lives = c.lives := rfl
@[simp] theorem Chip.setQueue_cmds (q : Nat) (s : QueueSt) : (c.setQueue q s).cmds = c.cmds := rfl
@[simp] theorem Chip.setQueue_remoteIn (q : Nat) (s : QueueSt) : (c.setQueue q s).remoteIn = c.remoteIn := rfl
@[simp] theorem Chip.setQueue_events (q : Nat) (s : QueueSt) : (c.setQueue q s).events = c.events := rfl
@[simp] theorem Chip.setQueue_queues (q : Nat) (s : QueueSt) : (c.setQueue q s).queues = Tbl.set dQueue c.queues q s := rfl
@[simp] theorem Chip.setQueue_ring (q : Nat) (s : QueueSt) : (c.setQueue q s).ring = c.ring := rfl
@[simp] theorem Chip.setQueue_foldS (q : Nat) (s : QueueSt) : (c.setQueue q s).foldS = c.foldS := rfl
@[simp] theorem Chip.setQueue_foldD (q : Nat) (s : QueueSt) : (c.setQueue q s).foldD = c.foldD := rfl
@[simp] theorem Chip.setQueue_host (q : Nat) (s : QueueSt) : (c.setQueue q s).host = c.host := rfl
@[simp] theorem Chip.setQueue_mgt (q : Nat) (s : QueueSt) : (c.setQueue q s).mgt = c.mgt := rfl
@[simp] theorem Chip.setQueue_power (q : Nat) (s : QueueSt) : (c.setQueue q s).power = c.power := rfl
@[simp] theorem Chip.setQueue_log (q : Nat) (s : QueueSt) : (c.setQueue q s).log = c.log := rfl
@[simp] theorem Chip.setQueue_counters (q : Nat) (s : QueueSt) : (c.setQueue q s).counters = c.counters := rfl
@[simp] theorem Chip.setQueue_dogs (q : Nat) (s : QueueSt) : (c.setQueue q s).dogs = c.dogs := rfl
@[simp] theorem Chip.setQueue_firmware (q : Nat) (s : QueueSt) : (c.setQueue q s).firmware = c.firmware := rfl
@[simp] theorem Chip.setQueue_image (q : Nat) (s : QueueSt) : (c.setQueue q s).image = c.image := rfl
@[simp] theorem Chip.setQueue_flash (q : Nat) (s : QueueSt) : (c.setQueue q s).flash = c.flash := rfl
@[simp] theorem Chip.setQueue_rtc (q : Nat) (s : QueueSt) : (c.setQueue q s).rtc = c.rtc := rfl
@[simp] theorem Chip.setQueue_almanac (q : Nat) (s : QueueSt) : (c.setQueue q s).almanac = c.almanac := rfl
@[simp] theorem Chip.setQueue_links (q : Nat) (s : QueueSt) : (c.setQueue q s).links = c.links := rfl
@[simp] theorem Chip.setQueue_fabric (q : Nat) (s : QueueSt) : (c.setQueue q s).fabric = c.fabric := rfl
@[simp] theorem Chip.setQueue_ports (q : Nat) (s : QueueSt) : (c.setQueue q s).ports = c.ports := rfl
@[simp] theorem Chip.setQueue_groups (q : Nat) (s : QueueSt) : (c.setQueue q s).groups = c.groups := rfl
@[simp] theorem Chip.setQueue_bridges (q : Nat) (s : QueueSt) : (c.setQueue q s).bridges = c.bridges := rfl
@[simp] theorem Chip.setQueue_motors (q : Nat) (s : QueueSt) : (c.setQueue q s).motors = c.motors := rfl
@[simp] theorem Chip.setQueue_records (q : Nat) (s : QueueSt) : (c.setQueue q s).records = c.records := rfl
@[simp] theorem Chip.setQueue_valves (q : Nat) (s : QueueSt) : (c.setQueue q s).valves = c.valves := rfl
@[simp] theorem Chip.setQueue_fans (q : Nat) (s : QueueSt) : (c.setQueue q s).fans = c.fans := rfl
@[simp] theorem Chip.setQueue_sampler (q : Nat) (s : QueueSt) : (c.setQueue q s).sampler = c.sampler := rfl
@[simp] theorem Chip.setQueue_cal (q : Nat) (s : QueueSt) : (c.setQueue q s).cal = c.cal := rfl
@[simp] theorem Chip.setQueue_zones (q : Nat) (s : QueueSt) : (c.setQueue q s).zones = c.zones := rfl
@[simp] theorem Chip.setQueue_predictions (q : Nat) (s : QueueSt) : (c.setQueue q s).predictions = c.predictions := rfl
@[simp] theorem Chip.setQueue_thermal (q : Nat) (s : QueueSt) : (c.setQueue q s).thermal = c.thermal := rfl
@[simp] theorem Chip.setQueue_staleWrites (q : Nat) (s : QueueSt) : (c.setQueue q s).staleWrites = c.staleWrites := rfl
@[simp] theorem Chip.setQueue_loops (q : Nat) (s : QueueSt) : (c.setQueue q s).loops = c.loops := rfl
@[simp] theorem Chip.setQueue_minSel (q : Nat) (s : QueueSt) : (c.setQueue q s).minSel = c.minSel := rfl
@[simp] theorem Chip.setQueue_streams (q : Nat) (s : QueueSt) : (c.setQueue q s).streams = c.streams := rfl
@[simp] theorem Chip.setQueue_can (q : Nat) (s : QueueSt) : (c.setQueue q s).can = c.can := rfl
@[simp] theorem Chip.setQueue_panels (q : Nat) (s : QueueSt) : (c.setQueue q s).panels = c.panels := rfl
@[simp] theorem Chip.setQueue_plate (q : Nat) (s : QueueSt) : (c.setQueue q s).plate = c.plate := rfl
@[simp] theorem Chip.setQueue_selftest (q : Nat) (s : QueueSt) : (c.setQueue q s).selftest = c.selftest := rfl
@[simp] theorem Chip.setQueue_freeCount (q : Nat) (s : QueueSt) : (c.setQueue q s).freeCount = c.freeCount := rfl
@[simp] theorem Chip.setEvent_fuses (e : Nat) (s : EventSt) : (c.setEvent e s).fuses = c.fuses := rfl
@[simp] theorem Chip.setEvent_clk (e : Nat) (s : EventSt) : (c.setEvent e s).clk = c.clk := rfl
@[simp] theorem Chip.setEvent_slots (e : Nat) (s : EventSt) : (c.setEvent e s).slots = c.slots := rfl
@[simp] theorem Chip.setEvent_overrides (e : Nat) (s : EventSt) : (c.setEvent e s).overrides = c.overrides := rfl
@[simp] theorem Chip.setEvent_produced (e : Nat) (s : EventSt) : (c.setEvent e s).produced = c.produced := rfl
@[simp] theorem Chip.setEvent_slotWrites (e : Nat) (s : EventSt) : (c.setEvent e s).slotWrites = c.slotWrites := rfl
@[simp] theorem Chip.setEvent_attrs (e : Nat) (s : EventSt) : (c.setEvent e s).attrs = c.attrs := rfl
@[simp] theorem Chip.setEvent_existing (e : Nat) (s : EventSt) : (c.setEvent e s).existing = c.existing := rfl
@[simp] theorem Chip.setEvent_gens (e : Nat) (s : EventSt) : (c.setEvent e s).gens = c.gens := rfl
@[simp] theorem Chip.setEvent_owners (e : Nat) (s : EventSt) : (c.setEvent e s).owners = c.owners := rfl
@[simp] theorem Chip.setEvent_sessions (e : Nat) (s : EventSt) : (c.setEvent e s).sessions = c.sessions := rfl
@[simp] theorem Chip.setEvent_staged (e : Nat) (s : EventSt) : (c.setEvent e s).staged = c.staged := rfl
@[simp] theorem Chip.setEvent_lives (e : Nat) (s : EventSt) : (c.setEvent e s).lives = c.lives := rfl
@[simp] theorem Chip.setEvent_cmds (e : Nat) (s : EventSt) : (c.setEvent e s).cmds = c.cmds := rfl
@[simp] theorem Chip.setEvent_remoteIn (e : Nat) (s : EventSt) : (c.setEvent e s).remoteIn = c.remoteIn := rfl
@[simp] theorem Chip.setEvent_events (e : Nat) (s : EventSt) : (c.setEvent e s).events = Tbl.set dEvent c.events e s := rfl
@[simp] theorem Chip.setEvent_queues (e : Nat) (s : EventSt) : (c.setEvent e s).queues = c.queues := rfl
@[simp] theorem Chip.setEvent_ring (e : Nat) (s : EventSt) : (c.setEvent e s).ring = c.ring := rfl
@[simp] theorem Chip.setEvent_foldS (e : Nat) (s : EventSt) : (c.setEvent e s).foldS = c.foldS := rfl
@[simp] theorem Chip.setEvent_foldD (e : Nat) (s : EventSt) : (c.setEvent e s).foldD = c.foldD := rfl
@[simp] theorem Chip.setEvent_host (e : Nat) (s : EventSt) : (c.setEvent e s).host = c.host := rfl
@[simp] theorem Chip.setEvent_mgt (e : Nat) (s : EventSt) : (c.setEvent e s).mgt = c.mgt := rfl
@[simp] theorem Chip.setEvent_power (e : Nat) (s : EventSt) : (c.setEvent e s).power = c.power := rfl
@[simp] theorem Chip.setEvent_log (e : Nat) (s : EventSt) : (c.setEvent e s).log = c.log := rfl
@[simp] theorem Chip.setEvent_counters (e : Nat) (s : EventSt) : (c.setEvent e s).counters = c.counters := rfl
@[simp] theorem Chip.setEvent_dogs (e : Nat) (s : EventSt) : (c.setEvent e s).dogs = c.dogs := rfl
@[simp] theorem Chip.setEvent_firmware (e : Nat) (s : EventSt) : (c.setEvent e s).firmware = c.firmware := rfl
@[simp] theorem Chip.setEvent_image (e : Nat) (s : EventSt) : (c.setEvent e s).image = c.image := rfl
@[simp] theorem Chip.setEvent_flash (e : Nat) (s : EventSt) : (c.setEvent e s).flash = c.flash := rfl
@[simp] theorem Chip.setEvent_rtc (e : Nat) (s : EventSt) : (c.setEvent e s).rtc = c.rtc := rfl
@[simp] theorem Chip.setEvent_almanac (e : Nat) (s : EventSt) : (c.setEvent e s).almanac = c.almanac := rfl
@[simp] theorem Chip.setEvent_links (e : Nat) (s : EventSt) : (c.setEvent e s).links = c.links := rfl
@[simp] theorem Chip.setEvent_fabric (e : Nat) (s : EventSt) : (c.setEvent e s).fabric = c.fabric := rfl
@[simp] theorem Chip.setEvent_ports (e : Nat) (s : EventSt) : (c.setEvent e s).ports = c.ports := rfl
@[simp] theorem Chip.setEvent_groups (e : Nat) (s : EventSt) : (c.setEvent e s).groups = c.groups := rfl
@[simp] theorem Chip.setEvent_bridges (e : Nat) (s : EventSt) : (c.setEvent e s).bridges = c.bridges := rfl
@[simp] theorem Chip.setEvent_motors (e : Nat) (s : EventSt) : (c.setEvent e s).motors = c.motors := rfl
@[simp] theorem Chip.setEvent_records (e : Nat) (s : EventSt) : (c.setEvent e s).records = c.records := rfl
@[simp] theorem Chip.setEvent_valves (e : Nat) (s : EventSt) : (c.setEvent e s).valves = c.valves := rfl
@[simp] theorem Chip.setEvent_fans (e : Nat) (s : EventSt) : (c.setEvent e s).fans = c.fans := rfl
@[simp] theorem Chip.setEvent_sampler (e : Nat) (s : EventSt) : (c.setEvent e s).sampler = c.sampler := rfl
@[simp] theorem Chip.setEvent_cal (e : Nat) (s : EventSt) : (c.setEvent e s).cal = c.cal := rfl
@[simp] theorem Chip.setEvent_zones (e : Nat) (s : EventSt) : (c.setEvent e s).zones = c.zones := rfl
@[simp] theorem Chip.setEvent_predictions (e : Nat) (s : EventSt) : (c.setEvent e s).predictions = c.predictions := rfl
@[simp] theorem Chip.setEvent_thermal (e : Nat) (s : EventSt) : (c.setEvent e s).thermal = c.thermal := rfl
@[simp] theorem Chip.setEvent_staleWrites (e : Nat) (s : EventSt) : (c.setEvent e s).staleWrites = c.staleWrites := rfl
@[simp] theorem Chip.setEvent_loops (e : Nat) (s : EventSt) : (c.setEvent e s).loops = c.loops := rfl
@[simp] theorem Chip.setEvent_minSel (e : Nat) (s : EventSt) : (c.setEvent e s).minSel = c.minSel := rfl
@[simp] theorem Chip.setEvent_streams (e : Nat) (s : EventSt) : (c.setEvent e s).streams = c.streams := rfl
@[simp] theorem Chip.setEvent_can (e : Nat) (s : EventSt) : (c.setEvent e s).can = c.can := rfl
@[simp] theorem Chip.setEvent_panels (e : Nat) (s : EventSt) : (c.setEvent e s).panels = c.panels := rfl
@[simp] theorem Chip.setEvent_plate (e : Nat) (s : EventSt) : (c.setEvent e s).plate = c.plate := rfl
@[simp] theorem Chip.setEvent_selftest (e : Nat) (s : EventSt) : (c.setEvent e s).selftest = c.selftest := rfl
@[simp] theorem Chip.setEvent_freeCount (e : Nat) (s : EventSt) : (c.setEvent e s).freeCount = c.freeCount := rfl
@[simp] theorem Chip.setCmd_fuses (k : Cmd) : (c.setCmd k).fuses = c.fuses := rfl
@[simp] theorem Chip.setCmd_clk (k : Cmd) : (c.setCmd k).clk = c.clk := rfl
@[simp] theorem Chip.setCmd_slots (k : Cmd) : (c.setCmd k).slots = c.slots := rfl
@[simp] theorem Chip.setCmd_overrides (k : Cmd) : (c.setCmd k).overrides = c.overrides := rfl
@[simp] theorem Chip.setCmd_produced (k : Cmd) : (c.setCmd k).produced = c.produced := rfl
@[simp] theorem Chip.setCmd_slotWrites (k : Cmd) : (c.setCmd k).slotWrites = c.slotWrites := rfl
@[simp] theorem Chip.setCmd_attrs (k : Cmd) : (c.setCmd k).attrs = c.attrs := rfl
@[simp] theorem Chip.setCmd_existing (k : Cmd) : (c.setCmd k).existing = c.existing := rfl
@[simp] theorem Chip.setCmd_gens (k : Cmd) : (c.setCmd k).gens = c.gens := rfl
@[simp] theorem Chip.setCmd_owners (k : Cmd) : (c.setCmd k).owners = c.owners := rfl
@[simp] theorem Chip.setCmd_sessions (k : Cmd) : (c.setCmd k).sessions = c.sessions := rfl
@[simp] theorem Chip.setCmd_staged (k : Cmd) : (c.setCmd k).staged = c.staged := rfl
@[simp] theorem Chip.setCmd_lives (k : Cmd) : (c.setCmd k).lives = c.lives := rfl
@[simp] theorem Chip.setCmd_cmds (k : Cmd) : (c.setCmd k).cmds = c.cmds.map (fun x => if x.ctx == k.ctx && x.tag == k.tag then k else x) := rfl
@[simp] theorem Chip.setCmd_remoteIn (k : Cmd) : (c.setCmd k).remoteIn = c.remoteIn := rfl
@[simp] theorem Chip.setCmd_events (k : Cmd) : (c.setCmd k).events = c.events := rfl
@[simp] theorem Chip.setCmd_queues (k : Cmd) : (c.setCmd k).queues = c.queues := rfl
@[simp] theorem Chip.setCmd_ring (k : Cmd) : (c.setCmd k).ring = c.ring := rfl
@[simp] theorem Chip.setCmd_foldS (k : Cmd) : (c.setCmd k).foldS = c.foldS := rfl
@[simp] theorem Chip.setCmd_foldD (k : Cmd) : (c.setCmd k).foldD = c.foldD := rfl
@[simp] theorem Chip.setCmd_host (k : Cmd) : (c.setCmd k).host = c.host := rfl
@[simp] theorem Chip.setCmd_mgt (k : Cmd) : (c.setCmd k).mgt = c.mgt := rfl
@[simp] theorem Chip.setCmd_power (k : Cmd) : (c.setCmd k).power = c.power := rfl
@[simp] theorem Chip.setCmd_log (k : Cmd) : (c.setCmd k).log = c.log := rfl
@[simp] theorem Chip.setCmd_counters (k : Cmd) : (c.setCmd k).counters = c.counters := rfl
@[simp] theorem Chip.setCmd_dogs (k : Cmd) : (c.setCmd k).dogs = c.dogs := rfl
@[simp] theorem Chip.setCmd_firmware (k : Cmd) : (c.setCmd k).firmware = c.firmware := rfl
@[simp] theorem Chip.setCmd_image (k : Cmd) : (c.setCmd k).image = c.image := rfl
@[simp] theorem Chip.setCmd_flash (k : Cmd) : (c.setCmd k).flash = c.flash := rfl
@[simp] theorem Chip.setCmd_rtc (k : Cmd) : (c.setCmd k).rtc = c.rtc := rfl
@[simp] theorem Chip.setCmd_almanac (k : Cmd) : (c.setCmd k).almanac = c.almanac := rfl
@[simp] theorem Chip.setCmd_links (k : Cmd) : (c.setCmd k).links = c.links := rfl
@[simp] theorem Chip.setCmd_fabric (k : Cmd) : (c.setCmd k).fabric = c.fabric := rfl
@[simp] theorem Chip.setCmd_ports (k : Cmd) : (c.setCmd k).ports = c.ports := rfl
@[simp] theorem Chip.setCmd_groups (k : Cmd) : (c.setCmd k).groups = c.groups := rfl
@[simp] theorem Chip.setCmd_bridges (k : Cmd) : (c.setCmd k).bridges = c.bridges := rfl
@[simp] theorem Chip.setCmd_motors (k : Cmd) : (c.setCmd k).motors = c.motors := rfl
@[simp] theorem Chip.setCmd_records (k : Cmd) : (c.setCmd k).records = c.records := rfl
@[simp] theorem Chip.setCmd_valves (k : Cmd) : (c.setCmd k).valves = c.valves := rfl
@[simp] theorem Chip.setCmd_fans (k : Cmd) : (c.setCmd k).fans = c.fans := rfl
@[simp] theorem Chip.setCmd_sampler (k : Cmd) : (c.setCmd k).sampler = c.sampler := rfl
@[simp] theorem Chip.setCmd_cal (k : Cmd) : (c.setCmd k).cal = c.cal := rfl
@[simp] theorem Chip.setCmd_zones (k : Cmd) : (c.setCmd k).zones = c.zones := rfl
@[simp] theorem Chip.setCmd_predictions (k : Cmd) : (c.setCmd k).predictions = c.predictions := rfl
@[simp] theorem Chip.setCmd_thermal (k : Cmd) : (c.setCmd k).thermal = c.thermal := rfl
@[simp] theorem Chip.setCmd_staleWrites (k : Cmd) : (c.setCmd k).staleWrites = c.staleWrites := rfl
@[simp] theorem Chip.setCmd_loops (k : Cmd) : (c.setCmd k).loops = c.loops := rfl
@[simp] theorem Chip.setCmd_minSel (k : Cmd) : (c.setCmd k).minSel = c.minSel := rfl
@[simp] theorem Chip.setCmd_streams (k : Cmd) : (c.setCmd k).streams = c.streams := rfl
@[simp] theorem Chip.setCmd_can (k : Cmd) : (c.setCmd k).can = c.can := rfl
@[simp] theorem Chip.setCmd_panels (k : Cmd) : (c.setCmd k).panels = c.panels := rfl
@[simp] theorem Chip.setCmd_plate (k : Cmd) : (c.setCmd k).plate = c.plate := rfl
@[simp] theorem Chip.setCmd_selftest (k : Cmd) : (c.setCmd k).selftest = c.selftest := rfl
@[simp] theorem Chip.setCmd_freeCount (k : Cmd) : (c.setCmd k).freeCount = c.freeCount := rfl
@[simp] theorem Chip.dropCmd_fuses (x t : Nat) : (c.dropCmd x t).fuses = c.fuses := rfl
@[simp] theorem Chip.dropCmd_clk (x t : Nat) : (c.dropCmd x t).clk = c.clk := rfl
@[simp] theorem Chip.dropCmd_slots (x t : Nat) : (c.dropCmd x t).slots = c.slots := rfl
@[simp] theorem Chip.dropCmd_overrides (x t : Nat) : (c.dropCmd x t).overrides = c.overrides := rfl
@[simp] theorem Chip.dropCmd_produced (x t : Nat) : (c.dropCmd x t).produced = c.produced := rfl
@[simp] theorem Chip.dropCmd_slotWrites (x t : Nat) : (c.dropCmd x t).slotWrites = c.slotWrites := rfl
@[simp] theorem Chip.dropCmd_attrs (x t : Nat) : (c.dropCmd x t).attrs = c.attrs := rfl
@[simp] theorem Chip.dropCmd_existing (x t : Nat) : (c.dropCmd x t).existing = c.existing := rfl
@[simp] theorem Chip.dropCmd_gens (x t : Nat) : (c.dropCmd x t).gens = c.gens := rfl
@[simp] theorem Chip.dropCmd_owners (x t : Nat) : (c.dropCmd x t).owners = c.owners := rfl
@[simp] theorem Chip.dropCmd_sessions (x t : Nat) : (c.dropCmd x t).sessions = c.sessions := rfl
@[simp] theorem Chip.dropCmd_staged (x t : Nat) : (c.dropCmd x t).staged = c.staged := rfl
@[simp] theorem Chip.dropCmd_lives (x t : Nat) : (c.dropCmd x t).lives = c.lives := rfl
@[simp] theorem Chip.dropCmd_cmds (x t : Nat) : (c.dropCmd x t).cmds = c.cmds.filter (fun k => !(k.ctx == x && k.tag == t)) := rfl
@[simp] theorem Chip.dropCmd_remoteIn (x t : Nat) : (c.dropCmd x t).remoteIn = c.remoteIn := rfl
@[simp] theorem Chip.dropCmd_events (x t : Nat) : (c.dropCmd x t).events = c.events := rfl
@[simp] theorem Chip.dropCmd_queues (x t : Nat) : (c.dropCmd x t).queues = c.queues := rfl
@[simp] theorem Chip.dropCmd_ring (x t : Nat) : (c.dropCmd x t).ring = c.ring := rfl
@[simp] theorem Chip.dropCmd_foldS (x t : Nat) : (c.dropCmd x t).foldS = c.foldS := rfl
@[simp] theorem Chip.dropCmd_foldD (x t : Nat) : (c.dropCmd x t).foldD = c.foldD := rfl
@[simp] theorem Chip.dropCmd_host (x t : Nat) : (c.dropCmd x t).host = c.host := rfl
@[simp] theorem Chip.dropCmd_mgt (x t : Nat) : (c.dropCmd x t).mgt = c.mgt := rfl
@[simp] theorem Chip.dropCmd_power (x t : Nat) : (c.dropCmd x t).power = c.power := rfl
@[simp] theorem Chip.dropCmd_log (x t : Nat) : (c.dropCmd x t).log = c.log := rfl
@[simp] theorem Chip.dropCmd_counters (x t : Nat) : (c.dropCmd x t).counters = c.counters := rfl
@[simp] theorem Chip.dropCmd_dogs (x t : Nat) : (c.dropCmd x t).dogs = c.dogs := rfl
@[simp] theorem Chip.dropCmd_firmware (x t : Nat) : (c.dropCmd x t).firmware = c.firmware := rfl
@[simp] theorem Chip.dropCmd_image (x t : Nat) : (c.dropCmd x t).image = c.image := rfl
@[simp] theorem Chip.dropCmd_flash (x t : Nat) : (c.dropCmd x t).flash = c.flash := rfl
@[simp] theorem Chip.dropCmd_rtc (x t : Nat) : (c.dropCmd x t).rtc = c.rtc := rfl
@[simp] theorem Chip.dropCmd_almanac (x t : Nat) : (c.dropCmd x t).almanac = c.almanac := rfl
@[simp] theorem Chip.dropCmd_links (x t : Nat) : (c.dropCmd x t).links = c.links := rfl
@[simp] theorem Chip.dropCmd_fabric (x t : Nat) : (c.dropCmd x t).fabric = c.fabric := rfl
@[simp] theorem Chip.dropCmd_ports (x t : Nat) : (c.dropCmd x t).ports = c.ports := rfl
@[simp] theorem Chip.dropCmd_groups (x t : Nat) : (c.dropCmd x t).groups = c.groups := rfl
@[simp] theorem Chip.dropCmd_bridges (x t : Nat) : (c.dropCmd x t).bridges = c.bridges := rfl
@[simp] theorem Chip.dropCmd_motors (x t : Nat) : (c.dropCmd x t).motors = c.motors := rfl
@[simp] theorem Chip.dropCmd_records (x t : Nat) : (c.dropCmd x t).records = c.records := rfl
@[simp] theorem Chip.dropCmd_valves (x t : Nat) : (c.dropCmd x t).valves = c.valves := rfl
@[simp] theorem Chip.dropCmd_fans (x t : Nat) : (c.dropCmd x t).fans = c.fans := rfl
@[simp] theorem Chip.dropCmd_sampler (x t : Nat) : (c.dropCmd x t).sampler = c.sampler := rfl
@[simp] theorem Chip.dropCmd_cal (x t : Nat) : (c.dropCmd x t).cal = c.cal := rfl
@[simp] theorem Chip.dropCmd_zones (x t : Nat) : (c.dropCmd x t).zones = c.zones := rfl
@[simp] theorem Chip.dropCmd_predictions (x t : Nat) : (c.dropCmd x t).predictions = c.predictions := rfl
@[simp] theorem Chip.dropCmd_thermal (x t : Nat) : (c.dropCmd x t).thermal = c.thermal := rfl
@[simp] theorem Chip.dropCmd_staleWrites (x t : Nat) : (c.dropCmd x t).staleWrites = c.staleWrites := rfl
@[simp] theorem Chip.dropCmd_loops (x t : Nat) : (c.dropCmd x t).loops = c.loops := rfl
@[simp] theorem Chip.dropCmd_minSel (x t : Nat) : (c.dropCmd x t).minSel = c.minSel := rfl
@[simp] theorem Chip.dropCmd_streams (x t : Nat) : (c.dropCmd x t).streams = c.streams := rfl
@[simp] theorem Chip.dropCmd_can (x t : Nat) : (c.dropCmd x t).can = c.can := rfl
@[simp] theorem Chip.dropCmd_panels (x t : Nat) : (c.dropCmd x t).panels = c.panels := rfl
@[simp] theorem Chip.dropCmd_plate (x t : Nat) : (c.dropCmd x t).plate = c.plate := rfl
@[simp] theorem Chip.dropCmd_selftest (x t : Nat) : (c.dropCmd x t).selftest = c.selftest := rfl
@[simp] theorem Chip.dropCmd_freeCount (x t : Nat) : (c.dropCmd x t).freeCount = c.freeCount := rfl
@[simp] theorem Chip.setZone_fuses (z : Nat) (s : ZoneSt) : (c.setZone z s).fuses = c.fuses := rfl
@[simp] theorem Chip.setZone_clk (z : Nat) (s : ZoneSt) : (c.setZone z s).clk = c.clk := rfl
@[simp] theorem Chip.setZone_slots (z : Nat) (s : ZoneSt) : (c.setZone z s).slots = c.slots := rfl
@[simp] theorem Chip.setZone_overrides (z : Nat) (s : ZoneSt) : (c.setZone z s).overrides = c.overrides := rfl
@[simp] theorem Chip.setZone_produced (z : Nat) (s : ZoneSt) : (c.setZone z s).produced = c.produced := rfl
@[simp] theorem Chip.setZone_slotWrites (z : Nat) (s : ZoneSt) : (c.setZone z s).slotWrites = c.slotWrites := rfl
@[simp] theorem Chip.setZone_attrs (z : Nat) (s : ZoneSt) : (c.setZone z s).attrs = c.attrs := rfl
@[simp] theorem Chip.setZone_existing (z : Nat) (s : ZoneSt) : (c.setZone z s).existing = c.existing := rfl
@[simp] theorem Chip.setZone_gens (z : Nat) (s : ZoneSt) : (c.setZone z s).gens = c.gens := rfl
@[simp] theorem Chip.setZone_owners (z : Nat) (s : ZoneSt) : (c.setZone z s).owners = c.owners := rfl
@[simp] theorem Chip.setZone_sessions (z : Nat) (s : ZoneSt) : (c.setZone z s).sessions = c.sessions := rfl
@[simp] theorem Chip.setZone_staged (z : Nat) (s : ZoneSt) : (c.setZone z s).staged = c.staged := rfl
@[simp] theorem Chip.setZone_lives (z : Nat) (s : ZoneSt) : (c.setZone z s).lives = c.lives := rfl
@[simp] theorem Chip.setZone_cmds (z : Nat) (s : ZoneSt) : (c.setZone z s).cmds = c.cmds := rfl
@[simp] theorem Chip.setZone_remoteIn (z : Nat) (s : ZoneSt) : (c.setZone z s).remoteIn = c.remoteIn := rfl
@[simp] theorem Chip.setZone_events (z : Nat) (s : ZoneSt) : (c.setZone z s).events = c.events := rfl
@[simp] theorem Chip.setZone_queues (z : Nat) (s : ZoneSt) : (c.setZone z s).queues = c.queues := rfl
@[simp] theorem Chip.setZone_ring (z : Nat) (s : ZoneSt) : (c.setZone z s).ring = c.ring := rfl
@[simp] theorem Chip.setZone_foldS (z : Nat) (s : ZoneSt) : (c.setZone z s).foldS = c.foldS := rfl
@[simp] theorem Chip.setZone_foldD (z : Nat) (s : ZoneSt) : (c.setZone z s).foldD = c.foldD := rfl
@[simp] theorem Chip.setZone_host (z : Nat) (s : ZoneSt) : (c.setZone z s).host = c.host := rfl
@[simp] theorem Chip.setZone_mgt (z : Nat) (s : ZoneSt) : (c.setZone z s).mgt = c.mgt := rfl
@[simp] theorem Chip.setZone_power (z : Nat) (s : ZoneSt) : (c.setZone z s).power = c.power := rfl
@[simp] theorem Chip.setZone_log (z : Nat) (s : ZoneSt) : (c.setZone z s).log = c.log := rfl
@[simp] theorem Chip.setZone_counters (z : Nat) (s : ZoneSt) : (c.setZone z s).counters = c.counters := rfl
@[simp] theorem Chip.setZone_dogs (z : Nat) (s : ZoneSt) : (c.setZone z s).dogs = c.dogs := rfl
@[simp] theorem Chip.setZone_firmware (z : Nat) (s : ZoneSt) : (c.setZone z s).firmware = c.firmware := rfl
@[simp] theorem Chip.setZone_image (z : Nat) (s : ZoneSt) : (c.setZone z s).image = c.image := rfl
@[simp] theorem Chip.setZone_flash (z : Nat) (s : ZoneSt) : (c.setZone z s).flash = c.flash := rfl
@[simp] theorem Chip.setZone_rtc (z : Nat) (s : ZoneSt) : (c.setZone z s).rtc = c.rtc := rfl
@[simp] theorem Chip.setZone_almanac (z : Nat) (s : ZoneSt) : (c.setZone z s).almanac = c.almanac := rfl
@[simp] theorem Chip.setZone_links (z : Nat) (s : ZoneSt) : (c.setZone z s).links = c.links := rfl
@[simp] theorem Chip.setZone_fabric (z : Nat) (s : ZoneSt) : (c.setZone z s).fabric = c.fabric := rfl
@[simp] theorem Chip.setZone_ports (z : Nat) (s : ZoneSt) : (c.setZone z s).ports = c.ports := rfl
@[simp] theorem Chip.setZone_groups (z : Nat) (s : ZoneSt) : (c.setZone z s).groups = c.groups := rfl
@[simp] theorem Chip.setZone_bridges (z : Nat) (s : ZoneSt) : (c.setZone z s).bridges = c.bridges := rfl
@[simp] theorem Chip.setZone_motors (z : Nat) (s : ZoneSt) : (c.setZone z s).motors = c.motors := rfl
@[simp] theorem Chip.setZone_records (z : Nat) (s : ZoneSt) : (c.setZone z s).records = c.records := rfl
@[simp] theorem Chip.setZone_valves (z : Nat) (s : ZoneSt) : (c.setZone z s).valves = c.valves := rfl
@[simp] theorem Chip.setZone_fans (z : Nat) (s : ZoneSt) : (c.setZone z s).fans = c.fans := rfl
@[simp] theorem Chip.setZone_sampler (z : Nat) (s : ZoneSt) : (c.setZone z s).sampler = c.sampler := rfl
@[simp] theorem Chip.setZone_cal (z : Nat) (s : ZoneSt) : (c.setZone z s).cal = c.cal := rfl
@[simp] theorem Chip.setZone_zones (z : Nat) (s : ZoneSt) : (c.setZone z s).zones = Tbl.set dZone c.zones z s := rfl
@[simp] theorem Chip.setZone_predictions (z : Nat) (s : ZoneSt) : (c.setZone z s).predictions = c.predictions := rfl
@[simp] theorem Chip.setZone_thermal (z : Nat) (s : ZoneSt) : (c.setZone z s).thermal = c.thermal := rfl
@[simp] theorem Chip.setZone_staleWrites (z : Nat) (s : ZoneSt) : (c.setZone z s).staleWrites = c.staleWrites := rfl
@[simp] theorem Chip.setZone_loops (z : Nat) (s : ZoneSt) : (c.setZone z s).loops = c.loops := rfl
@[simp] theorem Chip.setZone_minSel (z : Nat) (s : ZoneSt) : (c.setZone z s).minSel = c.minSel := rfl
@[simp] theorem Chip.setZone_streams (z : Nat) (s : ZoneSt) : (c.setZone z s).streams = c.streams := rfl
@[simp] theorem Chip.setZone_can (z : Nat) (s : ZoneSt) : (c.setZone z s).can = c.can := rfl
@[simp] theorem Chip.setZone_panels (z : Nat) (s : ZoneSt) : (c.setZone z s).panels = c.panels := rfl
@[simp] theorem Chip.setZone_plate (z : Nat) (s : ZoneSt) : (c.setZone z s).plate = c.plate := rfl
@[simp] theorem Chip.setZone_selftest (z : Nat) (s : ZoneSt) : (c.setZone z s).selftest = c.selftest := rfl
@[simp] theorem Chip.setZone_freeCount (z : Nat) (s : ZoneSt) : (c.setZone z s).freeCount = c.freeCount := rfl
@[simp] theorem Chip.setPanel_fuses (d : Nat) (s : PanelSt) : (c.setPanel d s).fuses = c.fuses := rfl
@[simp] theorem Chip.setPanel_clk (d : Nat) (s : PanelSt) : (c.setPanel d s).clk = c.clk := rfl
@[simp] theorem Chip.setPanel_slots (d : Nat) (s : PanelSt) : (c.setPanel d s).slots = c.slots := rfl
@[simp] theorem Chip.setPanel_overrides (d : Nat) (s : PanelSt) : (c.setPanel d s).overrides = c.overrides := rfl
@[simp] theorem Chip.setPanel_produced (d : Nat) (s : PanelSt) : (c.setPanel d s).produced = c.produced := rfl
@[simp] theorem Chip.setPanel_slotWrites (d : Nat) (s : PanelSt) : (c.setPanel d s).slotWrites = c.slotWrites := rfl
@[simp] theorem Chip.setPanel_attrs (d : Nat) (s : PanelSt) : (c.setPanel d s).attrs = c.attrs := rfl
@[simp] theorem Chip.setPanel_existing (d : Nat) (s : PanelSt) : (c.setPanel d s).existing = c.existing := rfl
@[simp] theorem Chip.setPanel_gens (d : Nat) (s : PanelSt) : (c.setPanel d s).gens = c.gens := rfl
@[simp] theorem Chip.setPanel_owners (d : Nat) (s : PanelSt) : (c.setPanel d s).owners = c.owners := rfl
@[simp] theorem Chip.setPanel_sessions (d : Nat) (s : PanelSt) : (c.setPanel d s).sessions = c.sessions := rfl
@[simp] theorem Chip.setPanel_staged (d : Nat) (s : PanelSt) : (c.setPanel d s).staged = c.staged := rfl
@[simp] theorem Chip.setPanel_lives (d : Nat) (s : PanelSt) : (c.setPanel d s).lives = c.lives := rfl
@[simp] theorem Chip.setPanel_cmds (d : Nat) (s : PanelSt) : (c.setPanel d s).cmds = c.cmds := rfl
@[simp] theorem Chip.setPanel_remoteIn (d : Nat) (s : PanelSt) : (c.setPanel d s).remoteIn = c.remoteIn := rfl
@[simp] theorem Chip.setPanel_events (d : Nat) (s : PanelSt) : (c.setPanel d s).events = c.events := rfl
@[simp] theorem Chip.setPanel_queues (d : Nat) (s : PanelSt) : (c.setPanel d s).queues = c.queues := rfl
@[simp] theorem Chip.setPanel_ring (d : Nat) (s : PanelSt) : (c.setPanel d s).ring = c.ring := rfl
@[simp] theorem Chip.setPanel_foldS (d : Nat) (s : PanelSt) : (c.setPanel d s).foldS = c.foldS := rfl
@[simp] theorem Chip.setPanel_foldD (d : Nat) (s : PanelSt) : (c.setPanel d s).foldD = c.foldD := rfl
@[simp] theorem Chip.setPanel_host (d : Nat) (s : PanelSt) : (c.setPanel d s).host = c.host := rfl
@[simp] theorem Chip.setPanel_mgt (d : Nat) (s : PanelSt) : (c.setPanel d s).mgt = c.mgt := rfl
@[simp] theorem Chip.setPanel_power (d : Nat) (s : PanelSt) : (c.setPanel d s).power = c.power := rfl
@[simp] theorem Chip.setPanel_log (d : Nat) (s : PanelSt) : (c.setPanel d s).log = c.log := rfl
@[simp] theorem Chip.setPanel_counters (d : Nat) (s : PanelSt) : (c.setPanel d s).counters = c.counters := rfl
@[simp] theorem Chip.setPanel_dogs (d : Nat) (s : PanelSt) : (c.setPanel d s).dogs = c.dogs := rfl
@[simp] theorem Chip.setPanel_firmware (d : Nat) (s : PanelSt) : (c.setPanel d s).firmware = c.firmware := rfl
@[simp] theorem Chip.setPanel_image (d : Nat) (s : PanelSt) : (c.setPanel d s).image = c.image := rfl
@[simp] theorem Chip.setPanel_flash (d : Nat) (s : PanelSt) : (c.setPanel d s).flash = c.flash := rfl
@[simp] theorem Chip.setPanel_rtc (d : Nat) (s : PanelSt) : (c.setPanel d s).rtc = c.rtc := rfl
@[simp] theorem Chip.setPanel_almanac (d : Nat) (s : PanelSt) : (c.setPanel d s).almanac = c.almanac := rfl
@[simp] theorem Chip.setPanel_links (d : Nat) (s : PanelSt) : (c.setPanel d s).links = c.links := rfl
@[simp] theorem Chip.setPanel_fabric (d : Nat) (s : PanelSt) : (c.setPanel d s).fabric = c.fabric := rfl
@[simp] theorem Chip.setPanel_ports (d : Nat) (s : PanelSt) : (c.setPanel d s).ports = c.ports := rfl
@[simp] theorem Chip.setPanel_groups (d : Nat) (s : PanelSt) : (c.setPanel d s).groups = c.groups := rfl
@[simp] theorem Chip.setPanel_bridges (d : Nat) (s : PanelSt) : (c.setPanel d s).bridges = c.bridges := rfl
@[simp] theorem Chip.setPanel_motors (d : Nat) (s : PanelSt) : (c.setPanel d s).motors = c.motors := rfl
@[simp] theorem Chip.setPanel_records (d : Nat) (s : PanelSt) : (c.setPanel d s).records = c.records := rfl
@[simp] theorem Chip.setPanel_valves (d : Nat) (s : PanelSt) : (c.setPanel d s).valves = c.valves := rfl
@[simp] theorem Chip.setPanel_fans (d : Nat) (s : PanelSt) : (c.setPanel d s).fans = c.fans := rfl
@[simp] theorem Chip.setPanel_sampler (d : Nat) (s : PanelSt) : (c.setPanel d s).sampler = c.sampler := rfl
@[simp] theorem Chip.setPanel_cal (d : Nat) (s : PanelSt) : (c.setPanel d s).cal = c.cal := rfl
@[simp] theorem Chip.setPanel_zones (d : Nat) (s : PanelSt) : (c.setPanel d s).zones = c.zones := rfl
@[simp] theorem Chip.setPanel_predictions (d : Nat) (s : PanelSt) : (c.setPanel d s).predictions = c.predictions := rfl
@[simp] theorem Chip.setPanel_thermal (d : Nat) (s : PanelSt) : (c.setPanel d s).thermal = c.thermal := rfl
@[simp] theorem Chip.setPanel_staleWrites (d : Nat) (s : PanelSt) : (c.setPanel d s).staleWrites = c.staleWrites := rfl
@[simp] theorem Chip.setPanel_loops (d : Nat) (s : PanelSt) : (c.setPanel d s).loops = c.loops := rfl
@[simp] theorem Chip.setPanel_minSel (d : Nat) (s : PanelSt) : (c.setPanel d s).minSel = c.minSel := rfl
@[simp] theorem Chip.setPanel_streams (d : Nat) (s : PanelSt) : (c.setPanel d s).streams = c.streams := rfl
@[simp] theorem Chip.setPanel_can (d : Nat) (s : PanelSt) : (c.setPanel d s).can = c.can := rfl
@[simp] theorem Chip.setPanel_panels (d : Nat) (s : PanelSt) : (c.setPanel d s).panels = Tbl.set dPanel c.panels d s := rfl
@[simp] theorem Chip.setPanel_plate (d : Nat) (s : PanelSt) : (c.setPanel d s).plate = c.plate := rfl
@[simp] theorem Chip.setPanel_selftest (d : Nat) (s : PanelSt) : (c.setPanel d s).selftest = c.selftest := rfl
@[simp] theorem Chip.setPanel_freeCount (d : Nat) (s : PanelSt) : (c.setPanel d s).freeCount = c.freeCount := rfl
@[simp] theorem Chip.modPanel_fuses (d : Nat) (f : PanelSt → PanelSt) : (c.modPanel d f).fuses = c.fuses := rfl
@[simp] theorem Chip.modPanel_clk (d : Nat) (f : PanelSt → PanelSt) : (c.modPanel d f).clk = c.clk := rfl
@[simp] theorem Chip.modPanel_slots (d : Nat) (f : PanelSt → PanelSt) : (c.modPanel d f).slots = c.slots := rfl
@[simp] theorem Chip.modPanel_overrides (d : Nat) (f : PanelSt → PanelSt) : (c.modPanel d f).overrides = c.overrides := rfl
@[simp] theorem Chip.modPanel_produced (d : Nat) (f : PanelSt → PanelSt) : (c.modPanel d f).produced = c.produced := rfl
@[simp] theorem Chip.modPanel_slotWrites (d : Nat) (f : PanelSt → PanelSt) : (c.modPanel d f).slotWrites = c.slotWrites := rfl
@[simp] theorem Chip.modPanel_attrs (d : Nat) (f : PanelSt → PanelSt) : (c.modPanel d f).attrs = c.attrs := rfl
@[simp] theorem Chip.modPanel_existing (d : Nat) (f : PanelSt → PanelSt) : (c.modPanel d f).existing = c.existing := rfl
@[simp] theorem Chip.modPanel_gens (d : Nat) (f : PanelSt → PanelSt) : (c.modPanel d f).gens = c.gens := rfl
@[simp] theorem Chip.modPanel_owners (d : Nat) (f : PanelSt → PanelSt) : (c.modPanel d f).owners = c.owners := rfl
@[simp] theorem Chip.modPanel_sessions (d : Nat) (f : PanelSt → PanelSt) : (c.modPanel d f).sessions = c.sessions := rfl
@[simp] theorem Chip.modPanel_staged (d : Nat) (f : PanelSt → PanelSt) : (c.modPanel d f).staged = c.staged := rfl
@[simp] theorem Chip.modPanel_lives (d : Nat) (f : PanelSt → PanelSt) : (c.modPanel d f).lives = c.lives := rfl
@[simp] theorem Chip.modPanel_cmds (d : Nat) (f : PanelSt → PanelSt) : (c.modPanel d f).cmds = c.cmds := rfl
@[simp] theorem Chip.modPanel_remoteIn (d : Nat) (f : PanelSt → PanelSt) : (c.modPanel d f).remoteIn = c.remoteIn := rfl
@[simp] theorem Chip.modPanel_events (d : Nat) (f : PanelSt → PanelSt) : (c.modPanel d f).events = c.events := rfl
@[simp] theorem Chip.modPanel_queues (d : Nat) (f : PanelSt → PanelSt) : (c.modPanel d f).queues = c.queues := rfl
@[simp] theorem Chip.modPanel_ring (d : Nat) (f : PanelSt → PanelSt) : (c.modPanel d f).ring = c.ring := rfl
@[simp] theorem Chip.modPanel_foldS (d : Nat) (f : PanelSt → PanelSt) : (c.modPanel d f).foldS = c.foldS := rfl
@[simp] theorem Chip.modPanel_foldD (d : Nat) (f : PanelSt → PanelSt) : (c.modPanel d f).foldD = c.foldD := rfl
@[simp] theorem Chip.modPanel_host (d : Nat) (f : PanelSt → PanelSt) : (c.modPanel d f).host = c.host := rfl
@[simp] theorem Chip.modPanel_mgt (d : Nat) (f : PanelSt → PanelSt) : (c.modPanel d f).mgt = c.mgt := rfl
@[simp] theorem Chip.modPanel_power (d : Nat) (f : PanelSt → PanelSt) : (c.modPanel d f).power = c.power := rfl
@[simp] theorem Chip.modPanel_log (d : Nat) (f : PanelSt → PanelSt) : (c.modPanel d f).log = c.log := rfl
@[simp] theorem Chip.modPanel_counters (d : Nat) (f : PanelSt → PanelSt) : (c.modPanel d f).counters = c.counters := rfl
@[simp] theorem Chip.modPanel_dogs (d : Nat) (f : PanelSt → PanelSt) : (c.modPanel d f).dogs = c.dogs := rfl
@[simp] theorem Chip.modPanel_firmware (d : Nat) (f : PanelSt → PanelSt) : (c.modPanel d f).firmware = c.firmware := rfl
@[simp] theorem Chip.modPanel_image (d : Nat) (f : PanelSt → PanelSt) : (c.modPanel d f).image = c.image := rfl
@[simp] theorem Chip.modPanel_flash (d : Nat) (f : PanelSt → PanelSt) : (c.modPanel d f).flash = c.flash := rfl
@[simp] theorem Chip.modPanel_rtc (d : Nat) (f : PanelSt → PanelSt) : (c.modPanel d f).rtc = c.rtc := rfl
@[simp] theorem Chip.modPanel_almanac (d : Nat) (f : PanelSt → PanelSt) : (c.modPanel d f).almanac = c.almanac := rfl
@[simp] theorem Chip.modPanel_links (d : Nat) (f : PanelSt → PanelSt) : (c.modPanel d f).links = c.links := rfl
@[simp] theorem Chip.modPanel_fabric (d : Nat) (f : PanelSt → PanelSt) : (c.modPanel d f).fabric = c.fabric := rfl
@[simp] theorem Chip.modPanel_ports (d : Nat) (f : PanelSt → PanelSt) : (c.modPanel d f).ports = c.ports := rfl
@[simp] theorem Chip.modPanel_groups (d : Nat) (f : PanelSt → PanelSt) : (c.modPanel d f).groups = c.groups := rfl
@[simp] theorem Chip.modPanel_bridges (d : Nat) (f : PanelSt → PanelSt) : (c.modPanel d f).bridges = c.bridges := rfl
@[simp] theorem Chip.modPanel_motors (d : Nat) (f : PanelSt → PanelSt) : (c.modPanel d f).motors = c.motors := rfl
@[simp] theorem Chip.modPanel_records (d : Nat) (f : PanelSt → PanelSt) : (c.modPanel d f).records = c.records := rfl
@[simp] theorem Chip.modPanel_valves (d : Nat) (f : PanelSt → PanelSt) : (c.modPanel d f).valves = c.valves := rfl
@[simp] theorem Chip.modPanel_fans (d : Nat) (f : PanelSt → PanelSt) : (c.modPanel d f).fans = c.fans := rfl
@[simp] theorem Chip.modPanel_sampler (d : Nat) (f : PanelSt → PanelSt) : (c.modPanel d f).sampler = c.sampler := rfl
@[simp] theorem Chip.modPanel_cal (d : Nat) (f : PanelSt → PanelSt) : (c.modPanel d f).cal = c.cal := rfl
@[simp] theorem Chip.modPanel_zones (d : Nat) (f : PanelSt → PanelSt) : (c.modPanel d f).zones = c.zones := rfl
@[simp] theorem Chip.modPanel_predictions (d : Nat) (f : PanelSt → PanelSt) : (c.modPanel d f).predictions = c.predictions := rfl
@[simp] theorem Chip.modPanel_thermal (d : Nat) (f : PanelSt → PanelSt) : (c.modPanel d f).thermal = c.thermal := rfl
@[simp] theorem Chip.modPanel_staleWrites (d : Nat) (f : PanelSt → PanelSt) : (c.modPanel d f).staleWrites = c.staleWrites := rfl
@[simp] theorem Chip.modPanel_loops (d : Nat) (f : PanelSt → PanelSt) : (c.modPanel d f).loops = c.loops := rfl
@[simp] theorem Chip.modPanel_minSel (d : Nat) (f : PanelSt → PanelSt) : (c.modPanel d f).minSel = c.minSel := rfl
@[simp] theorem Chip.modPanel_streams (d : Nat) (f : PanelSt → PanelSt) : (c.modPanel d f).streams = c.streams := rfl
@[simp] theorem Chip.modPanel_can (d : Nat) (f : PanelSt → PanelSt) : (c.modPanel d f).can = c.can := rfl
@[simp] theorem Chip.modPanel_panels (d : Nat) (f : PanelSt → PanelSt) : (c.modPanel d f).panels = Tbl.set dPanel c.panels d (f (c.panel d)) := rfl
@[simp] theorem Chip.modPanel_plate (d : Nat) (f : PanelSt → PanelSt) : (c.modPanel d f).plate = c.plate := rfl
@[simp] theorem Chip.modPanel_selftest (d : Nat) (f : PanelSt → PanelSt) : (c.modPanel d f).selftest = c.selftest := rfl
@[simp] theorem Chip.modPanel_freeCount (d : Nat) (f : PanelSt → PanelSt) : (c.modPanel d f).freeCount = c.freeCount := rfl
@[simp] theorem Chip.setPort_fuses (n : Nat) (s : PortSt) : (c.setPort n s).fuses = c.fuses := rfl
@[simp] theorem Chip.setPort_clk (n : Nat) (s : PortSt) : (c.setPort n s).clk = c.clk := rfl
@[simp] theorem Chip.setPort_slots (n : Nat) (s : PortSt) : (c.setPort n s).slots = c.slots := rfl
@[simp] theorem Chip.setPort_overrides (n : Nat) (s : PortSt) : (c.setPort n s).overrides = c.overrides := rfl
@[simp] theorem Chip.setPort_produced (n : Nat) (s : PortSt) : (c.setPort n s).produced = c.produced := rfl
@[simp] theorem Chip.setPort_slotWrites (n : Nat) (s : PortSt) : (c.setPort n s).slotWrites = c.slotWrites := rfl
@[simp] theorem Chip.setPort_attrs (n : Nat) (s : PortSt) : (c.setPort n s).attrs = c.attrs := rfl
@[simp] theorem Chip.setPort_existing (n : Nat) (s : PortSt) : (c.setPort n s).existing = c.existing := rfl
@[simp] theorem Chip.setPort_gens (n : Nat) (s : PortSt) : (c.setPort n s).gens = c.gens := rfl
@[simp] theorem Chip.setPort_owners (n : Nat) (s : PortSt) : (c.setPort n s).owners = c.owners := rfl
@[simp] theorem Chip.setPort_sessions (n : Nat) (s : PortSt) : (c.setPort n s).sessions = c.sessions := rfl
@[simp] theorem Chip.setPort_staged (n : Nat) (s : PortSt) : (c.setPort n s).staged = c.staged := rfl
@[simp] theorem Chip.setPort_lives (n : Nat) (s : PortSt) : (c.setPort n s).lives = c.lives := rfl
@[simp] theorem Chip.setPort_cmds (n : Nat) (s : PortSt) : (c.setPort n s).cmds = c.cmds := rfl
@[simp] theorem Chip.setPort_remoteIn (n : Nat) (s : PortSt) : (c.setPort n s).remoteIn = c.remoteIn := rfl
@[simp] theorem Chip.setPort_events (n : Nat) (s : PortSt) : (c.setPort n s).events = c.events := rfl
@[simp] theorem Chip.setPort_queues (n : Nat) (s : PortSt) : (c.setPort n s).queues = c.queues := rfl
@[simp] theorem Chip.setPort_ring (n : Nat) (s : PortSt) : (c.setPort n s).ring = c.ring := rfl
@[simp] theorem Chip.setPort_foldS (n : Nat) (s : PortSt) : (c.setPort n s).foldS = c.foldS := rfl
@[simp] theorem Chip.setPort_foldD (n : Nat) (s : PortSt) : (c.setPort n s).foldD = c.foldD := rfl
@[simp] theorem Chip.setPort_host (n : Nat) (s : PortSt) : (c.setPort n s).host = c.host := rfl
@[simp] theorem Chip.setPort_mgt (n : Nat) (s : PortSt) : (c.setPort n s).mgt = c.mgt := rfl
@[simp] theorem Chip.setPort_power (n : Nat) (s : PortSt) : (c.setPort n s).power = c.power := rfl
@[simp] theorem Chip.setPort_log (n : Nat) (s : PortSt) : (c.setPort n s).log = c.log := rfl
@[simp] theorem Chip.setPort_counters (n : Nat) (s : PortSt) : (c.setPort n s).counters = c.counters := rfl
@[simp] theorem Chip.setPort_dogs (n : Nat) (s : PortSt) : (c.setPort n s).dogs = c.dogs := rfl
@[simp] theorem Chip.setPort_firmware (n : Nat) (s : PortSt) : (c.setPort n s).firmware = c.firmware := rfl
@[simp] theorem Chip.setPort_image (n : Nat) (s : PortSt) : (c.setPort n s).image = c.image := rfl
@[simp] theorem Chip.setPort_flash (n : Nat) (s : PortSt) : (c.setPort n s).flash = c.flash := rfl
@[simp] theorem Chip.setPort_rtc (n : Nat) (s : PortSt) : (c.setPort n s).rtc = c.rtc := rfl
@[simp] theorem Chip.setPort_almanac (n : Nat) (s : PortSt) : (c.setPort n s).almanac = c.almanac := rfl
@[simp] theorem Chip.setPort_links (n : Nat) (s : PortSt) : (c.setPort n s).links = c.links := rfl
@[simp] theorem Chip.setPort_fabric (n : Nat) (s : PortSt) : (c.setPort n s).fabric = c.fabric := rfl
@[simp] theorem Chip.setPort_ports (n : Nat) (s : PortSt) : (c.setPort n s).ports = Tbl.set dPort c.ports n s := rfl
@[simp] theorem Chip.setPort_groups (n : Nat) (s : PortSt) : (c.setPort n s).groups = c.groups := rfl
@[simp] theorem Chip.setPort_bridges (n : Nat) (s : PortSt) : (c.setPort n s).bridges = c.bridges := rfl
@[simp] theorem Chip.setPort_motors (n : Nat) (s : PortSt) : (c.setPort n s).motors = c.motors := rfl
@[simp] theorem Chip.setPort_records (n : Nat) (s : PortSt) : (c.setPort n s).records = c.records := rfl
@[simp] theorem Chip.setPort_valves (n : Nat) (s : PortSt) : (c.setPort n s).valves = c.valves := rfl
@[simp] theorem Chip.setPort_fans (n : Nat) (s : PortSt) : (c.setPort n s).fans = c.fans := rfl
@[simp] theorem Chip.setPort_sampler (n : Nat) (s : PortSt) : (c.setPort n s).sampler = c.sampler := rfl
@[simp] theorem Chip.setPort_cal (n : Nat) (s : PortSt) : (c.setPort n s).cal = c.cal := rfl
@[simp] theorem Chip.setPort_zones (n : Nat) (s : PortSt) : (c.setPort n s).zones = c.zones := rfl
@[simp] theorem Chip.setPort_predictions (n : Nat) (s : PortSt) : (c.setPort n s).predictions = c.predictions := rfl
@[simp] theorem Chip.setPort_thermal (n : Nat) (s : PortSt) : (c.setPort n s).thermal = c.thermal := rfl
@[simp] theorem Chip.setPort_staleWrites (n : Nat) (s : PortSt) : (c.setPort n s).staleWrites = c.staleWrites := rfl
@[simp] theorem Chip.setPort_loops (n : Nat) (s : PortSt) : (c.setPort n s).loops = c.loops := rfl
@[simp] theorem Chip.setPort_minSel (n : Nat) (s : PortSt) : (c.setPort n s).minSel = c.minSel := rfl
@[simp] theorem Chip.setPort_streams (n : Nat) (s : PortSt) : (c.setPort n s).streams = c.streams := rfl
@[simp] theorem Chip.setPort_can (n : Nat) (s : PortSt) : (c.setPort n s).can = c.can := rfl
@[simp] theorem Chip.setPort_panels (n : Nat) (s : PortSt) : (c.setPort n s).panels = c.panels := rfl
@[simp] theorem Chip.setPort_plate (n : Nat) (s : PortSt) : (c.setPort n s).plate = c.plate := rfl
@[simp] theorem Chip.setPort_selftest (n : Nat) (s : PortSt) : (c.setPort n s).selftest = c.selftest := rfl
@[simp] theorem Chip.setPort_freeCount (n : Nat) (s : PortSt) : (c.setPort n s).freeCount = c.freeCount := rfl
@[simp] theorem Chip.setPower_fuses (f : PowerSt → PowerSt) : (c.setPower f).fuses = c.fuses := rfl
@[simp] theorem Chip.setPower_clk (f : PowerSt → PowerSt) : (c.setPower f).clk = c.clk := rfl
@[simp] theorem Chip.setPower_slots (f : PowerSt → PowerSt) : (c.setPower f).slots = c.slots := rfl
@[simp] theorem Chip.setPower_overrides (f : PowerSt → PowerSt) : (c.setPower f).overrides = c.overrides := rfl
@[simp] theorem Chip.setPower_produced (f : PowerSt → PowerSt) : (c.setPower f).produced = c.produced := rfl
@[simp] theorem Chip.setPower_slotWrites (f : PowerSt → PowerSt) : (c.setPower f).slotWrites = c.slotWrites := rfl
@[simp] theorem Chip.setPower_attrs (f : PowerSt → PowerSt) : (c.setPower f).attrs = c.attrs := rfl
@[simp] theorem Chip.setPower_existing (f : PowerSt → PowerSt) : (c.setPower f).existing = c.existing := rfl
@[simp] theorem Chip.setPower_gens (f : PowerSt → PowerSt) : (c.setPower f).gens = c.gens := rfl
@[simp] theorem Chip.setPower_owners (f : PowerSt → PowerSt) : (c.setPower f).owners = c.owners := rfl
@[simp] theorem Chip.setPower_sessions (f : PowerSt → PowerSt) : (c.setPower f).sessions = c.sessions := rfl
@[simp] theorem Chip.setPower_staged (f : PowerSt → PowerSt) : (c.setPower f).staged = c.staged := rfl
@[simp] theorem Chip.setPower_lives (f : PowerSt → PowerSt) : (c.setPower f).lives = c.lives := rfl
@[simp] theorem Chip.setPower_cmds (f : PowerSt → PowerSt) : (c.setPower f).cmds = c.cmds := rfl
@[simp] theorem Chip.setPower_remoteIn (f : PowerSt → PowerSt) : (c.setPower f).remoteIn = c.remoteIn := rfl
@[simp] theorem Chip.setPower_events (f : PowerSt → PowerSt) : (c.setPower f).events = c.events := rfl
@[simp] theorem Chip.setPower_queues (f : PowerSt → PowerSt) : (c.setPower f).queues = c.queues := rfl
@[simp] theorem Chip.setPower_ring (f : PowerSt → PowerSt) : (c.setPower f).ring = c.ring := rfl
@[simp] theorem Chip.setPower_foldS (f : PowerSt → PowerSt) : (c.setPower f).foldS = c.foldS := rfl
@[simp] theorem Chip.setPower_foldD (f : PowerSt → PowerSt) : (c.setPower f).foldD = c.foldD := rfl
@[simp] theorem Chip.setPower_host (f : PowerSt → PowerSt) : (c.setPower f).host = c.host := rfl
@[simp] theorem Chip.setPower_mgt (f : PowerSt → PowerSt) : (c.setPower f).mgt = c.mgt := rfl
@[simp] theorem Chip.setPower_power (f : PowerSt → PowerSt) : (c.setPower f).power = f c.power := rfl
@[simp] theorem Chip.setPower_log (f : PowerSt → PowerSt) : (c.setPower f).log = c.log := rfl
@[simp] theorem Chip.setPower_counters (f : PowerSt → PowerSt) : (c.setPower f).counters = c.counters := rfl
@[simp] theorem Chip.setPower_dogs (f : PowerSt → PowerSt) : (c.setPower f).dogs = c.dogs := rfl
@[simp] theorem Chip.setPower_firmware (f : PowerSt → PowerSt) : (c.setPower f).firmware = c.firmware := rfl
@[simp] theorem Chip.setPower_image (f : PowerSt → PowerSt) : (c.setPower f).image = c.image := rfl
@[simp] theorem Chip.setPower_flash (f : PowerSt → PowerSt) : (c.setPower f).flash = c.flash := rfl
@[simp] theorem Chip.setPower_rtc (f : PowerSt → PowerSt) : (c.setPower f).rtc = c.rtc := rfl
@[simp] theorem Chip.setPower_almanac (f : PowerSt → PowerSt) : (c.setPower f).almanac = c.almanac := rfl
@[simp] theorem Chip.setPower_links (f : PowerSt → PowerSt) : (c.setPower f).links = c.links := rfl
@[simp] theorem Chip.setPower_fabric (f : PowerSt → PowerSt) : (c.setPower f).fabric = c.fabric := rfl
@[simp] theorem Chip.setPower_ports (f : PowerSt → PowerSt) : (c.setPower f).ports = c.ports := rfl
@[simp] theorem Chip.setPower_groups (f : PowerSt → PowerSt) : (c.setPower f).groups = c.groups := rfl
@[simp] theorem Chip.setPower_bridges (f : PowerSt → PowerSt) : (c.setPower f).bridges = c.bridges := rfl
@[simp] theorem Chip.setPower_motors (f : PowerSt → PowerSt) : (c.setPower f).motors = c.motors := rfl
@[simp] theorem Chip.setPower_records (f : PowerSt → PowerSt) : (c.setPower f).records = c.records := rfl
@[simp] theorem Chip.setPower_valves (f : PowerSt → PowerSt) : (c.setPower f).valves = c.valves := rfl
@[simp] theorem Chip.setPower_fans (f : PowerSt → PowerSt) : (c.setPower f).fans = c.fans := rfl
@[simp] theorem Chip.setPower_sampler (f : PowerSt → PowerSt) : (c.setPower f).sampler = c.sampler := rfl
@[simp] theorem Chip.setPower_cal (f : PowerSt → PowerSt) : (c.setPower f).cal = c.cal := rfl
@[simp] theorem Chip.setPower_zones (f : PowerSt → PowerSt) : (c.setPower f).zones = c.zones := rfl
@[simp] theorem Chip.setPower_predictions (f : PowerSt → PowerSt) : (c.setPower f).predictions = c.predictions := rfl
@[simp] theorem Chip.setPower_thermal (f : PowerSt → PowerSt) : (c.setPower f).thermal = c.thermal := rfl
@[simp] theorem Chip.setPower_staleWrites (f : PowerSt → PowerSt) : (c.setPower f).staleWrites = c.staleWrites := rfl
@[simp] theorem Chip.setPower_loops (f : PowerSt → PowerSt) : (c.setPower f).loops = c.loops := rfl
@[simp] theorem Chip.setPower_minSel (f : PowerSt → PowerSt) : (c.setPower f).minSel = c.minSel := rfl
@[simp] theorem Chip.setPower_streams (f : PowerSt → PowerSt) : (c.setPower f).streams = c.streams := rfl
@[simp] theorem Chip.setPower_can (f : PowerSt → PowerSt) : (c.setPower f).can = c.can := rfl
@[simp] theorem Chip.setPower_panels (f : PowerSt → PowerSt) : (c.setPower f).panels = c.panels := rfl
@[simp] theorem Chip.setPower_plate (f : PowerSt → PowerSt) : (c.setPower f).plate = c.plate := rfl
@[simp] theorem Chip.setPower_selftest (f : PowerSt → PowerSt) : (c.setPower f).selftest = c.selftest := rfl
@[simp] theorem Chip.setPower_freeCount (f : PowerSt → PowerSt) : (c.setPower f).freeCount = c.freeCount := rfl
@[simp] theorem Chip.setSampler_fuses (f : SamplerSt → SamplerSt) : (c.setSampler f).fuses = c.fuses := rfl
@[simp] theorem Chip.setSampler_clk (f : SamplerSt → SamplerSt) : (c.setSampler f).clk = c.clk := rfl
@[simp] theorem Chip.setSampler_slots (f : SamplerSt → SamplerSt) : (c.setSampler f).slots = c.slots := rfl
@[simp] theorem Chip.setSampler_overrides (f : SamplerSt → SamplerSt) : (c.setSampler f).overrides = c.overrides := rfl
@[simp] theorem Chip.setSampler_produced (f : SamplerSt → SamplerSt) : (c.setSampler f).produced = c.produced := rfl
@[simp] theorem Chip.setSampler_slotWrites (f : SamplerSt → SamplerSt) : (c.setSampler f).slotWrites = c.slotWrites := rfl
@[simp] theorem Chip.setSampler_attrs (f : SamplerSt → SamplerSt) : (c.setSampler f).attrs = c.attrs := rfl
@[simp] theorem Chip.setSampler_existing (f : SamplerSt → SamplerSt) : (c.setSampler f).existing = c.existing := rfl
@[simp] theorem Chip.setSampler_gens (f : SamplerSt → SamplerSt) : (c.setSampler f).gens = c.gens := rfl
@[simp] theorem Chip.setSampler_owners (f : SamplerSt → SamplerSt) : (c.setSampler f).owners = c.owners := rfl
@[simp] theorem Chip.setSampler_sessions (f : SamplerSt → SamplerSt) : (c.setSampler f).sessions = c.sessions := rfl
@[simp] theorem Chip.setSampler_staged (f : SamplerSt → SamplerSt) : (c.setSampler f).staged = c.staged := rfl
@[simp] theorem Chip.setSampler_lives (f : SamplerSt → SamplerSt) : (c.setSampler f).lives = c.lives := rfl
@[simp] theorem Chip.setSampler_cmds (f : SamplerSt → SamplerSt) : (c.setSampler f).cmds = c.cmds := rfl
@[simp] theorem Chip.setSampler_remoteIn (f : SamplerSt → SamplerSt) : (c.setSampler f).remoteIn = c.remoteIn := rfl
@[simp] theorem Chip.setSampler_events (f : SamplerSt → SamplerSt) : (c.setSampler f).events = c.events := rfl
@[simp] theorem Chip.setSampler_queues (f : SamplerSt → SamplerSt) : (c.setSampler f).queues = c.queues := rfl
@[simp] theorem Chip.setSampler_ring (f : SamplerSt → SamplerSt) : (c.setSampler f).ring = c.ring := rfl
@[simp] theorem Chip.setSampler_foldS (f : SamplerSt → SamplerSt) : (c.setSampler f).foldS = c.foldS := rfl
@[simp] theorem Chip.setSampler_foldD (f : SamplerSt → SamplerSt) : (c.setSampler f).foldD = c.foldD := rfl
@[simp] theorem Chip.setSampler_host (f : SamplerSt → SamplerSt) : (c.setSampler f).host = c.host := rfl
@[simp] theorem Chip.setSampler_mgt (f : SamplerSt → SamplerSt) : (c.setSampler f).mgt = c.mgt := rfl
@[simp] theorem Chip.setSampler_power (f : SamplerSt → SamplerSt) : (c.setSampler f).power = c.power := rfl
@[simp] theorem Chip.setSampler_log (f : SamplerSt → SamplerSt) : (c.setSampler f).log = c.log := rfl
@[simp] theorem Chip.setSampler_counters (f : SamplerSt → SamplerSt) : (c.setSampler f).counters = c.counters := rfl
@[simp] theorem Chip.setSampler_dogs (f : SamplerSt → SamplerSt) : (c.setSampler f).dogs = c.dogs := rfl
@[simp] theorem Chip.setSampler_firmware (f : SamplerSt → SamplerSt) : (c.setSampler f).firmware = c.firmware := rfl
@[simp] theorem Chip.setSampler_image (f : SamplerSt → SamplerSt) : (c.setSampler f).image = c.image := rfl
@[simp] theorem Chip.setSampler_flash (f : SamplerSt → SamplerSt) : (c.setSampler f).flash = c.flash := rfl
@[simp] theorem Chip.setSampler_rtc (f : SamplerSt → SamplerSt) : (c.setSampler f).rtc = c.rtc := rfl
@[simp] theorem Chip.setSampler_almanac (f : SamplerSt → SamplerSt) : (c.setSampler f).almanac = c.almanac := rfl
@[simp] theorem Chip.setSampler_links (f : SamplerSt → SamplerSt) : (c.setSampler f).links = c.links := rfl
@[simp] theorem Chip.setSampler_fabric (f : SamplerSt → SamplerSt) : (c.setSampler f).fabric = c.fabric := rfl
@[simp] theorem Chip.setSampler_ports (f : SamplerSt → SamplerSt) : (c.setSampler f).ports = c.ports := rfl
@[simp] theorem Chip.setSampler_groups (f : SamplerSt → SamplerSt) : (c.setSampler f).groups = c.groups := rfl
@[simp] theorem Chip.setSampler_bridges (f : SamplerSt → SamplerSt) : (c.setSampler f).bridges = c.bridges := rfl
@[simp] theorem Chip.setSampler_motors (f : SamplerSt → SamplerSt) : (c.setSampler f).motors = c.motors := rfl
@[simp] theorem Chip.setSampler_records (f : SamplerSt → SamplerSt) : (c.setSampler f).records = c.records := rfl
@[simp] theorem Chip.setSampler_valves (f : SamplerSt → SamplerSt) : (c.setSampler f).valves = c.valves := rfl
@[simp] theorem Chip.setSampler_fans (f : SamplerSt → SamplerSt) : (c.setSampler f).fans = c.fans := rfl
@[simp] theorem Chip.setSampler_sampler (f : SamplerSt → SamplerSt) : (c.setSampler f).sampler = f c.sampler := rfl
@[simp] theorem Chip.setSampler_cal (f : SamplerSt → SamplerSt) : (c.setSampler f).cal = c.cal := rfl
@[simp] theorem Chip.setSampler_zones (f : SamplerSt → SamplerSt) : (c.setSampler f).zones = c.zones := rfl
@[simp] theorem Chip.setSampler_predictions (f : SamplerSt → SamplerSt) : (c.setSampler f).predictions = c.predictions := rfl
@[simp] theorem Chip.setSampler_thermal (f : SamplerSt → SamplerSt) : (c.setSampler f).thermal = c.thermal := rfl
@[simp] theorem Chip.setSampler_staleWrites (f : SamplerSt → SamplerSt) : (c.setSampler f).staleWrites = c.staleWrites := rfl
@[simp] theorem Chip.setSampler_loops (f : SamplerSt → SamplerSt) : (c.setSampler f).loops = c.loops := rfl
@[simp] theorem Chip.setSampler_minSel (f : SamplerSt → SamplerSt) : (c.setSampler f).minSel = c.minSel := rfl
@[simp] theorem Chip.setSampler_streams (f : SamplerSt → SamplerSt) : (c.setSampler f).streams = c.streams := rfl
@[simp] theorem Chip.setSampler_can (f : SamplerSt → SamplerSt) : (c.setSampler f).can = c.can := rfl
@[simp] theorem Chip.setSampler_panels (f : SamplerSt → SamplerSt) : (c.setSampler f).panels = c.panels := rfl
@[simp] theorem Chip.setSampler_plate (f : SamplerSt → SamplerSt) : (c.setSampler f).plate = c.plate := rfl
@[simp] theorem Chip.setSampler_selftest (f : SamplerSt → SamplerSt) : (c.setSampler f).selftest = c.selftest := rfl
@[simp] theorem Chip.setSampler_freeCount (f : SamplerSt → SamplerSt) : (c.setSampler f).freeCount = c.freeCount := rfl
@[simp] theorem Chip.setThermal_fuses (f : ThermalSt → ThermalSt) : (c.setThermal f).fuses = c.fuses := rfl
@[simp] theorem Chip.setThermal_clk (f : ThermalSt → ThermalSt) : (c.setThermal f).clk = c.clk := rfl
@[simp] theorem Chip.setThermal_slots (f : ThermalSt → ThermalSt) : (c.setThermal f).slots = c.slots := rfl
@[simp] theorem Chip.setThermal_overrides (f : ThermalSt → ThermalSt) : (c.setThermal f).overrides = c.overrides := rfl
@[simp] theorem Chip.setThermal_produced (f : ThermalSt → ThermalSt) : (c.setThermal f).produced = c.produced := rfl
@[simp] theorem Chip.setThermal_slotWrites (f : ThermalSt → ThermalSt) : (c.setThermal f).slotWrites = c.slotWrites := rfl
@[simp] theorem Chip.setThermal_attrs (f : ThermalSt → ThermalSt) : (c.setThermal f).attrs = c.attrs := rfl
@[simp] theorem Chip.setThermal_existing (f : ThermalSt → ThermalSt) : (c.setThermal f).existing = c.existing := rfl
@[simp] theorem Chip.setThermal_gens (f : ThermalSt → ThermalSt) : (c.setThermal f).gens = c.gens := rfl
@[simp] theorem Chip.setThermal_owners (f : ThermalSt → ThermalSt) : (c.setThermal f).owners = c.owners := rfl
@[simp] theorem Chip.setThermal_sessions (f : ThermalSt → ThermalSt) : (c.setThermal f).sessions = c.sessions := rfl
@[simp] theorem Chip.setThermal_staged (f : ThermalSt → ThermalSt) : (c.setThermal f).staged = c.staged := rfl
@[simp] theorem Chip.setThermal_lives (f : ThermalSt → ThermalSt) : (c.setThermal f).lives = c.lives := rfl
@[simp] theorem Chip.setThermal_cmds (f : ThermalSt → ThermalSt) : (c.setThermal f).cmds = c.cmds := rfl
@[simp] theorem Chip.setThermal_remoteIn (f : ThermalSt → ThermalSt) : (c.setThermal f).remoteIn = c.remoteIn := rfl
@[simp] theorem Chip.setThermal_events (f : ThermalSt → ThermalSt) : (c.setThermal f).events = c.events := rfl
@[simp] theorem Chip.setThermal_queues (f : ThermalSt → ThermalSt) : (c.setThermal f).queues = c.queues := rfl
@[simp] theorem Chip.setThermal_ring (f : ThermalSt → ThermalSt) : (c.setThermal f).ring = c.ring := rfl
@[simp] theorem Chip.setThermal_foldS (f : ThermalSt → ThermalSt) : (c.setThermal f).foldS = c.foldS := rfl
@[simp] theorem Chip.setThermal_foldD (f : ThermalSt → ThermalSt) : (c.setThermal f).foldD = c.foldD := rfl
@[simp] theorem Chip.setThermal_host (f : ThermalSt → ThermalSt) : (c.setThermal f).host = c.host := rfl
@[simp] theorem Chip.setThermal_mgt (f : ThermalSt → ThermalSt) : (c.setThermal f).mgt = c.mgt := rfl
@[simp] theorem Chip.setThermal_power (f : ThermalSt → ThermalSt) : (c.setThermal f).power = c.power := rfl
@[simp] theorem Chip.setThermal_log (f : ThermalSt → ThermalSt) : (c.setThermal f).log = c.log := rfl
@[simp] theorem Chip.setThermal_counters (f : ThermalSt → ThermalSt) : (c.setThermal f).counters = c.counters := rfl
@[simp] theorem Chip.setThermal_dogs (f : ThermalSt → ThermalSt) : (c.setThermal f).dogs = c.dogs := rfl
@[simp] theorem Chip.setThermal_firmware (f : ThermalSt → ThermalSt) : (c.setThermal f).firmware = c.firmware := rfl
@[simp] theorem Chip.setThermal_image (f : ThermalSt → ThermalSt) : (c.setThermal f).image = c.image := rfl
@[simp] theorem Chip.setThermal_flash (f : ThermalSt → ThermalSt) : (c.setThermal f).flash = c.flash := rfl
@[simp] theorem Chip.setThermal_rtc (f : ThermalSt → ThermalSt) : (c.setThermal f).rtc = c.rtc := rfl
@[simp] theorem Chip.setThermal_almanac (f : ThermalSt → ThermalSt) : (c.setThermal f).almanac = c.almanac := rfl
@[simp] theorem Chip.setThermal_links (f : ThermalSt → ThermalSt) : (c.setThermal f).links = c.links := rfl
@[simp] theorem Chip.setThermal_fabric (f : ThermalSt → ThermalSt) : (c.setThermal f).fabric = c.fabric := rfl
@[simp] theorem Chip.setThermal_ports (f : ThermalSt → ThermalSt) : (c.setThermal f).ports = c.ports := rfl
@[simp] theorem Chip.setThermal_groups (f : ThermalSt → ThermalSt) : (c.setThermal f).groups = c.groups := rfl
@[simp] theorem Chip.setThermal_bridges (f : ThermalSt → ThermalSt) : (c.setThermal f).bridges = c.bridges := rfl
@[simp] theorem Chip.setThermal_motors (f : ThermalSt → ThermalSt) : (c.setThermal f).motors = c.motors := rfl
@[simp] theorem Chip.setThermal_records (f : ThermalSt → ThermalSt) : (c.setThermal f).records = c.records := rfl
@[simp] theorem Chip.setThermal_valves (f : ThermalSt → ThermalSt) : (c.setThermal f).valves = c.valves := rfl
@[simp] theorem Chip.setThermal_fans (f : ThermalSt → ThermalSt) : (c.setThermal f).fans = c.fans := rfl
@[simp] theorem Chip.setThermal_sampler (f : ThermalSt → ThermalSt) : (c.setThermal f).sampler = c.sampler := rfl
@[simp] theorem Chip.setThermal_cal (f : ThermalSt → ThermalSt) : (c.setThermal f).cal = c.cal := rfl
@[simp] theorem Chip.setThermal_zones (f : ThermalSt → ThermalSt) : (c.setThermal f).zones = c.zones := rfl
@[simp] theorem Chip.setThermal_predictions (f : ThermalSt → ThermalSt) : (c.setThermal f).predictions = c.predictions := rfl
@[simp] theorem Chip.setThermal_thermal (f : ThermalSt → ThermalSt) : (c.setThermal f).thermal = f c.thermal := rfl
@[simp] theorem Chip.setThermal_staleWrites (f : ThermalSt → ThermalSt) : (c.setThermal f).staleWrites = c.staleWrites := rfl
@[simp] theorem Chip.setThermal_loops (f : ThermalSt → ThermalSt) : (c.setThermal f).loops = c.loops := rfl
@[simp] theorem Chip.setThermal_minSel (f : ThermalSt → ThermalSt) : (c.setThermal f).minSel = c.minSel := rfl
@[simp] theorem Chip.setThermal_streams (f : ThermalSt → ThermalSt) : (c.setThermal f).streams = c.streams := rfl
@[simp] theorem Chip.setThermal_can (f : ThermalSt → ThermalSt) : (c.setThermal f).can = c.can := rfl
@[simp] theorem Chip.setThermal_panels (f : ThermalSt → ThermalSt) : (c.setThermal f).panels = c.panels := rfl
@[simp] theorem Chip.setThermal_plate (f : ThermalSt → ThermalSt) : (c.setThermal f).plate = c.plate := rfl
@[simp] theorem Chip.setThermal_selftest (f : ThermalSt → ThermalSt) : (c.setThermal f).selftest = c.selftest := rfl
@[simp] theorem Chip.setThermal_freeCount (f : ThermalSt → ThermalSt) : (c.setThermal f).freeCount = c.freeCount := rfl
@[simp] theorem Chip.nextFree_fuses  : c.nextFree.fuses = c.fuses := rfl
@[simp] theorem Chip.nextFree_clk  : c.nextFree.clk = c.clk := rfl
@[simp] theorem Chip.nextFree_slots  : c.nextFree.slots = c.slots := rfl
@[simp] theorem Chip.nextFree_overrides  : c.nextFree.overrides = c.overrides := rfl
@[simp] theorem Chip.nextFree_produced  : c.nextFree.produced = c.produced := rfl
@[simp] theorem Chip.nextFree_slotWrites  : c.nextFree.slotWrites = c.slotWrites := rfl
@[simp] theorem Chip.nextFree_attrs  : c.nextFree.attrs = c.attrs := rfl
@[simp] theorem Chip.nextFree_existing  : c.nextFree.existing = c.existing := rfl
@[simp] theorem Chip.nextFree_gens  : c.nextFree.gens = c.gens := rfl
@[simp] theorem Chip.nextFree_owners  : c.nextFree.owners = c.owners := rfl
@[simp] theorem Chip.nextFree_sessions  : c.nextFree.sessions = c.sessions := rfl
@[simp] theorem Chip.nextFree_staged  : c.nextFree.staged = c.staged := rfl
@[simp] theorem Chip.nextFree_lives  : c.nextFree.lives = c.lives := rfl
@[simp] theorem Chip.nextFree_cmds  : c.nextFree.cmds = c.cmds := rfl
@[simp] theorem Chip.nextFree_remoteIn  : c.nextFree.remoteIn = c.remoteIn := rfl
@[simp] theorem Chip.nextFree_events  : c.nextFree.events = c.events := rfl
@[simp] theorem Chip.nextFree_queues  : c.nextFree.queues = c.queues := rfl
@[simp] theorem Chip.nextFree_ring  : c.nextFree.ring = c.ring := rfl
@[simp] theorem Chip.nextFree_foldS  : c.nextFree.foldS = c.foldS := rfl
@[simp] theorem Chip.nextFree_foldD  : c.nextFree.foldD = c.foldD := rfl
@[simp] theorem Chip.nextFree_host  : c.nextFree.host = c.host := rfl
@[simp] theorem Chip.nextFree_mgt  : c.nextFree.mgt = c.mgt := rfl
@[simp] theorem Chip.nextFree_power  : c.nextFree.power = c.power := rfl
@[simp] theorem Chip.nextFree_log  : c.nextFree.log = c.log := rfl
@[simp] theorem Chip.nextFree_counters  : c.nextFree.counters = c.counters := rfl
@[simp] theorem Chip.nextFree_dogs  : c.nextFree.dogs = c.dogs := rfl
@[simp] theorem Chip.nextFree_firmware  : c.nextFree.firmware = c.firmware := rfl
@[simp] theorem Chip.nextFree_image  : c.nextFree.image = c.image := rfl
@[simp] theorem Chip.nextFree_flash  : c.nextFree.flash = c.flash := rfl
@[simp] theorem Chip.nextFree_rtc  : c.nextFree.rtc = c.rtc := rfl
@[simp] theorem Chip.nextFree_almanac  : c.nextFree.almanac = c.almanac := rfl
@[simp] theorem Chip.nextFree_links  : c.nextFree.links = c.links := rfl
@[simp] theorem Chip.nextFree_fabric  : c.nextFree.fabric = c.fabric := rfl
@[simp] theorem Chip.nextFree_ports  : c.nextFree.ports = c.ports := rfl
@[simp] theorem Chip.nextFree_groups  : c.nextFree.groups = c.groups := rfl
@[simp] theorem Chip.nextFree_bridges  : c.nextFree.bridges = c.bridges := rfl
@[simp] theorem Chip.nextFree_motors  : c.nextFree.motors = c.motors := rfl
@[simp] theorem Chip.nextFree_records  : c.nextFree.records = c.records := rfl
@[simp] theorem Chip.nextFree_valves  : c.nextFree.valves = c.valves := rfl
@[simp] theorem Chip.nextFree_fans  : c.nextFree.fans = c.fans := rfl
@[simp] theorem Chip.nextFree_sampler  : c.nextFree.sampler = c.sampler := rfl
@[simp] theorem Chip.nextFree_cal  : c.nextFree.cal = c.cal := rfl
@[simp] theorem Chip.nextFree_zones  : c.nextFree.zones = c.zones := rfl
@[simp] theorem Chip.nextFree_predictions  : c.nextFree.predictions = c.predictions := rfl
@[simp] theorem Chip.nextFree_thermal  : c.nextFree.thermal = c.thermal := rfl
@[simp] theorem Chip.nextFree_staleWrites  : c.nextFree.staleWrites = c.staleWrites := rfl
@[simp] theorem Chip.nextFree_loops  : c.nextFree.loops = c.loops := rfl
@[simp] theorem Chip.nextFree_minSel  : c.nextFree.minSel = c.minSel := rfl
@[simp] theorem Chip.nextFree_streams  : c.nextFree.streams = c.streams := rfl
@[simp] theorem Chip.nextFree_can  : c.nextFree.can = c.can := rfl
@[simp] theorem Chip.nextFree_panels  : c.nextFree.panels = c.panels := rfl
@[simp] theorem Chip.nextFree_plate  : c.nextFree.plate = c.plate := rfl
@[simp] theorem Chip.nextFree_selftest  : c.nextFree.selftest = c.selftest := rfl
@[simp] theorem Chip.nextFree_freeCount  : c.nextFree.freeCount = c.freeCount + 1 := rfl
@[simp] theorem Chip.bumpGen_fuses (h : Nat) : (c.bumpGen h).fuses = c.fuses := rfl
@[simp] theorem Chip.bumpGen_clk (h : Nat) : (c.bumpGen h).clk = c.clk := rfl
@[simp] theorem Chip.bumpGen_slots (h : Nat) : (c.bumpGen h).slots = c.slots := rfl
@[simp] theorem Chip.bumpGen_overrides (h : Nat) : (c.bumpGen h).overrides = c.overrides := rfl
@[simp] theorem Chip.bumpGen_produced (h : Nat) : (c.bumpGen h).produced = c.produced := rfl
@[simp] theorem Chip.bumpGen_slotWrites (h : Nat) : (c.bumpGen h).slotWrites = c.slotWrites := rfl
@[simp] theorem Chip.bumpGen_attrs (h : Nat) : (c.bumpGen h).attrs = c.attrs := rfl
@[simp] theorem Chip.bumpGen_existing (h : Nat) : (c.bumpGen h).existing = c.existing := rfl
@[simp] theorem Chip.bumpGen_gens (h : Nat) : (c.bumpGen h).gens = Tbl.modify dZero c.gens h (· + 1) := rfl
@[simp] theorem Chip.bumpGen_owners (h : Nat) : (c.bumpGen h).owners = c.owners := rfl
@[simp] theorem Chip.bumpGen_sessions (h : Nat) : (c.bumpGen h).sessions = c.sessions := rfl
@[simp] theorem Chip.bumpGen_staged (h : Nat) : (c.bumpGen h).staged = c.staged := rfl
@[simp] theorem Chip.bumpGen_lives (h : Nat) : (c.bumpGen h).lives = c.lives := rfl
@[simp] theorem Chip.bumpGen_cmds (h : Nat) : (c.bumpGen h).cmds = c.cmds := rfl
@[simp] theorem Chip.bumpGen_remoteIn (h : Nat) : (c.bumpGen h).remoteIn = c.remoteIn := rfl
@[simp] theorem Chip.bumpGen_events (h : Nat) : (c.bumpGen h).events = c.events := rfl
@[simp] theorem Chip.bumpGen_queues (h : Nat) : (c.bumpGen h).queues = c.queues := rfl
@[simp] theorem Chip.bumpGen_ring (h : Nat) : (c.bumpGen h).ring = c.ring := rfl
@[simp] theorem Chip.bumpGen_foldS (h : Nat) : (c.bumpGen h).foldS = c.foldS := rfl
@[simp] theorem Chip.bumpGen_foldD (h : Nat) : (c.bumpGen h).foldD = c.foldD := rfl
@[simp] theorem Chip.bumpGen_host (h : Nat) : (c.bumpGen h).host = c.host := rfl
@[simp] theorem Chip.bumpGen_mgt (h : Nat) : (c.bumpGen h).mgt = c.mgt := rfl
@[simp] theorem Chip.bumpGen_power (h : Nat) : (c.bumpGen h).power = c.power := rfl
@[simp] theorem Chip.bumpGen_log (h : Nat) : (c.bumpGen h).log = c.log := rfl
@[simp] theorem Chip.bumpGen_counters (h : Nat) : (c.bumpGen h).counters = c.counters := rfl
@[simp] theorem Chip.bumpGen_dogs (h : Nat) : (c.bumpGen h).dogs = c.dogs := rfl
@[simp] theorem Chip.bumpGen_firmware (h : Nat) : (c.bumpGen h).firmware = c.firmware := rfl
@[simp] theorem Chip.bumpGen_image (h : Nat) : (c.bumpGen h).image = c.image := rfl
@[simp] theorem Chip.bumpGen_flash (h : Nat) : (c.bumpGen h).flash = c.flash := rfl
@[simp] theorem Chip.bumpGen_rtc (h : Nat) : (c.bumpGen h).rtc = c.rtc := rfl
@[simp] theorem Chip.bumpGen_almanac (h : Nat) : (c.bumpGen h).almanac = c.almanac := rfl
@[simp] theorem Chip.bumpGen_links (h : Nat) : (c.bumpGen h).links = c.links := rfl
@[simp] theorem Chip.bumpGen_fabric (h : Nat) : (c.bumpGen h).fabric = c.fabric := rfl
@[simp] theorem Chip.bumpGen_ports (h : Nat) : (c.bumpGen h).ports = c.ports := rfl
@[simp] theorem Chip.bumpGen_groups (h : Nat) : (c.bumpGen h).groups = c.groups := rfl
@[simp] theorem Chip.bumpGen_bridges (h : Nat) : (c.bumpGen h).bridges = c.bridges := rfl
@[simp] theorem Chip.bumpGen_motors (h : Nat) : (c.bumpGen h).motors = c.motors := rfl
@[simp] theorem Chip.bumpGen_records (h : Nat) : (c.bumpGen h).records = c.records := rfl
@[simp] theorem Chip.bumpGen_valves (h : Nat) : (c.bumpGen h).valves = c.valves := rfl
@[simp] theorem Chip.bumpGen_fans (h : Nat) : (c.bumpGen h).fans = c.fans := rfl
@[simp] theorem Chip.bumpGen_sampler (h : Nat) : (c.bumpGen h).sampler = c.sampler := rfl
@[simp] theorem Chip.bumpGen_cal (h : Nat) : (c.bumpGen h).cal = c.cal := rfl
@[simp] theorem Chip.bumpGen_zones (h : Nat) : (c.bumpGen h).zones = c.zones := rfl
@[simp] theorem Chip.bumpGen_predictions (h : Nat) : (c.bumpGen h).predictions = c.predictions := rfl
@[simp] theorem Chip.bumpGen_thermal (h : Nat) : (c.bumpGen h).thermal = c.thermal := rfl
@[simp] theorem Chip.bumpGen_staleWrites (h : Nat) : (c.bumpGen h).staleWrites = c.staleWrites := rfl
@[simp] theorem Chip.bumpGen_loops (h : Nat) : (c.bumpGen h).loops = c.loops := rfl
@[simp] theorem Chip.bumpGen_minSel (h : Nat) : (c.bumpGen h).minSel = c.minSel := rfl
@[simp] theorem Chip.bumpGen_streams (h : Nat) : (c.bumpGen h).streams = c.streams := rfl
@[simp] theorem Chip.bumpGen_can (h : Nat) : (c.bumpGen h).can = c.can := rfl
@[simp] theorem Chip.bumpGen_panels (h : Nat) : (c.bumpGen h).panels = c.panels := rfl
@[simp] theorem Chip.bumpGen_plate (h : Nat) : (c.bumpGen h).plate = c.plate := rfl
@[simp] theorem Chip.bumpGen_selftest (h : Nat) : (c.bumpGen h).selftest = c.selftest := rfl
@[simp] theorem Chip.bumpGen_freeCount (h : Nat) : (c.bumpGen h).freeCount = c.freeCount := rfl
@[simp] theorem Chip.bite_fuses (n : Nat) : (c.bite n).fuses = c.fuses := rfl
@[simp] theorem Chip.bite_clk (n : Nat) : (c.bite n).clk = c.clk := rfl
@[simp] theorem Chip.bite_slots (n : Nat) : (c.bite n).slots = c.slots := rfl
@[simp] theorem Chip.bite_overrides (n : Nat) : (c.bite n).overrides = c.overrides := rfl
@[simp] theorem Chip.bite_produced (n : Nat) : (c.bite n).produced = c.produced := rfl
@[simp] theorem Chip.bite_slotWrites (n : Nat) : (c.bite n).slotWrites = c.slotWrites := rfl
@[simp] theorem Chip.bite_attrs (n : Nat) : (c.bite n).attrs = c.attrs := rfl
@[simp] theorem Chip.bite_existing (n : Nat) : (c.bite n).existing = c.existing := rfl
@[simp] theorem Chip.bite_gens (n : Nat) : (c.bite n).gens = c.gens := rfl
@[simp] theorem Chip.bite_owners (n : Nat) : (c.bite n).owners = c.owners := rfl
@[simp] theorem Chip.bite_sessions (n : Nat) : (c.bite n).sessions = c.sessions := rfl
@[simp] theorem Chip.bite_staged (n : Nat) : (c.bite n).staged = c.staged := rfl
@[simp] theorem Chip.bite_lives (n : Nat) : (c.bite n).lives = c.lives := rfl
@[simp] theorem Chip.bite_cmds (n : Nat) : (c.bite n).cmds = c.cmds := rfl
@[simp] theorem Chip.bite_remoteIn (n : Nat) : (c.bite n).remoteIn = c.remoteIn := rfl
@[simp] theorem Chip.bite_events (n : Nat) : (c.bite n).events = c.events := rfl
@[simp] theorem Chip.bite_queues (n : Nat) : (c.bite n).queues = c.queues := rfl
@[simp] theorem Chip.bite_ring (n : Nat) : (c.bite n).ring = c.ring := rfl
@[simp] theorem Chip.bite_foldS (n : Nat) : (c.bite n).foldS = c.foldS := rfl
@[simp] theorem Chip.bite_foldD (n : Nat) : (c.bite n).foldD = c.foldD := rfl
@[simp] theorem Chip.bite_host (n : Nat) : (c.bite n).host = c.host := rfl
@[simp] theorem Chip.bite_mgt (n : Nat) : (c.bite n).mgt = c.mgt := rfl
@[simp] theorem Chip.bite_power (n : Nat) : (c.bite n).power = c.power := rfl
@[simp] theorem Chip.bite_log (n : Nat) : (c.bite n).log = c.log := rfl
@[simp] theorem Chip.bite_counters (n : Nat) : (c.bite n).counters = c.counters := rfl
@[simp] theorem Chip.bite_firmware (n : Nat) : (c.bite n).firmware = c.firmware := rfl
@[simp] theorem Chip.bite_image (n : Nat) : (c.bite n).image = c.image := rfl
@[simp] theorem Chip.bite_flash (n : Nat) : (c.bite n).flash = c.flash := rfl
@[simp] theorem Chip.bite_rtc (n : Nat) : (c.bite n).rtc = c.rtc := rfl
@[simp] theorem Chip.bite_almanac (n : Nat) : (c.bite n).almanac = c.almanac := rfl
@[simp] theorem Chip.bite_links (n : Nat) : (c.bite n).links = c.links := rfl
@[simp] theorem Chip.bite_fabric (n : Nat) : (c.bite n).fabric = c.fabric := rfl
@[simp] theorem Chip.bite_ports (n : Nat) : (c.bite n).ports = c.ports := rfl
@[simp] theorem Chip.bite_groups (n : Nat) : (c.bite n).groups = c.groups := rfl
@[simp] theorem Chip.bite_bridges (n : Nat) : (c.bite n).bridges = c.bridges := rfl
@[simp] theorem Chip.bite_motors (n : Nat) : (c.bite n).motors = c.motors := rfl
@[simp] theorem Chip.bite_records (n : Nat) : (c.bite n).records = c.records := rfl
@[simp] theorem Chip.bite_valves (n : Nat) : (c.bite n).valves = c.valves := rfl
@[simp] theorem Chip.bite_fans (n : Nat) : (c.bite n).fans = c.fans := rfl
@[simp] theorem Chip.bite_sampler (n : Nat) : (c.bite n).sampler = c.sampler := rfl
@[simp] theorem Chip.bite_cal (n : Nat) : (c.bite n).cal = c.cal := rfl
@[simp] theorem Chip.bite_zones (n : Nat) : (c.bite n).zones = c.zones := rfl
@[simp] theorem Chip.bite_predictions (n : Nat) : (c.bite n).predictions = c.predictions := rfl
@[simp] theorem Chip.bite_thermal (n : Nat) : (c.bite n).thermal = c.thermal := rfl
@[simp] theorem Chip.bite_staleWrites (n : Nat) : (c.bite n).staleWrites = c.staleWrites := rfl
@[simp] theorem Chip.bite_loops (n : Nat) : (c.bite n).loops = c.loops := rfl
@[simp] theorem Chip.bite_minSel (n : Nat) : (c.bite n).minSel = c.minSel := rfl
@[simp] theorem Chip.bite_streams (n : Nat) : (c.bite n).streams = c.streams := rfl
@[simp] theorem Chip.bite_can (n : Nat) : (c.bite n).can = c.can := rfl
@[simp] theorem Chip.bite_panels (n : Nat) : (c.bite n).panels = c.panels := rfl
@[simp] theorem Chip.bite_plate (n : Nat) : (c.bite n).plate = c.plate := rfl
@[simp] theorem Chip.bite_selftest (n : Nat) : (c.bite n).selftest = c.selftest := rfl
@[simp] theorem Chip.bite_freeCount (n : Nat) : (c.bite n).freeCount = c.freeCount := rfl

@[simp] theorem Chip.advance_fuses (t : Nat) : (c.advance t).fuses = c.fuses := rfl
@[simp] theorem Chip.advance_clk (t : Nat) : (c.advance t).clk = clkAdvance t c.clk := rfl
@[simp] theorem Chip.advance_slots (t : Nat) : (c.advance t).slots = c.slots := rfl
@[simp] theorem Chip.advance_overrides (t : Nat) : (c.advance t).overrides = c.overrides := rfl
@[simp] theorem Chip.advance_produced (t : Nat) : (c.advance t).produced = c.produced := rfl
@[simp] theorem Chip.advance_slotWrites (t : Nat) : (c.advance t).slotWrites = c.slotWrites := rfl
@[simp] theorem Chip.advance_attrs (t : Nat) : (c.advance t).attrs = c.attrs := rfl
@[simp] theorem Chip.advance_existing (t : Nat) : (c.advance t).existing = c.existing := rfl
@[simp] theorem Chip.advance_gens (t : Nat) : (c.advance t).gens = c.gens := rfl
@[simp] theorem Chip.advance_owners (t : Nat) : (c.advance t).owners = c.owners := rfl
@[simp] theorem Chip.advance_sessions (t : Nat) : (c.advance t).sessions = c.sessions := rfl
@[simp] theorem Chip.advance_staged (t : Nat) : (c.advance t).staged = c.staged := rfl
@[simp] theorem Chip.advance_lives (t : Nat) : (c.advance t).lives = c.lives := rfl
@[simp] theorem Chip.advance_cmds (t : Nat) : (c.advance t).cmds = c.cmds := rfl
@[simp] theorem Chip.advance_remoteIn (t : Nat) : (c.advance t).remoteIn = c.remoteIn := rfl
@[simp] theorem Chip.advance_events (t : Nat) : (c.advance t).events = c.events := rfl
@[simp] theorem Chip.advance_queues (t : Nat) : (c.advance t).queues = c.queues := rfl
@[simp] theorem Chip.advance_ring (t : Nat) : (c.advance t).ring = c.ring := rfl
@[simp] theorem Chip.advance_foldS (t : Nat) : (c.advance t).foldS = c.foldS := rfl
@[simp] theorem Chip.advance_foldD (t : Nat) : (c.advance t).foldD = c.foldD := rfl
@[simp] theorem Chip.advance_host (t : Nat) : (c.advance t).host = c.host := rfl
@[simp] theorem Chip.advance_mgt (t : Nat) : (c.advance t).mgt = c.mgt := rfl
@[simp] theorem Chip.advance_power (t : Nat) : (c.advance t).power = c.power := rfl
@[simp] theorem Chip.advance_log (t : Nat) : (c.advance t).log = c.log := rfl
@[simp] theorem Chip.advance_counters (t : Nat) : (c.advance t).counters = c.counters := rfl
@[simp] theorem Chip.advance_dogs (t : Nat) : (c.advance t).dogs = c.dogs := rfl
@[simp] theorem Chip.advance_firmware (t : Nat) : (c.advance t).firmware = c.firmware := rfl
@[simp] theorem Chip.advance_image (t : Nat) : (c.advance t).image = c.image := rfl
@[simp] theorem Chip.advance_flash (t : Nat) : (c.advance t).flash = c.flash := rfl
@[simp] theorem Chip.advance_rtc (t : Nat) : (c.advance t).rtc = rtcAdvance t c.rtc := rfl
@[simp] theorem Chip.advance_almanac (t : Nat) : (c.advance t).almanac = c.almanac := rfl
@[simp] theorem Chip.advance_links (t : Nat) : (c.advance t).links = c.links := rfl
@[simp] theorem Chip.advance_fabric (t : Nat) : (c.advance t).fabric = c.fabric := rfl
@[simp] theorem Chip.advance_ports (t : Nat) : (c.advance t).ports = c.ports := rfl
@[simp] theorem Chip.advance_groups (t : Nat) : (c.advance t).groups = c.groups := rfl
@[simp] theorem Chip.advance_bridges (t : Nat) : (c.advance t).bridges = c.bridges := rfl
@[simp] theorem Chip.advance_motors (t : Nat) : (c.advance t).motors = c.motors := rfl
@[simp] theorem Chip.advance_records (t : Nat) : (c.advance t).records = c.records := rfl
@[simp] theorem Chip.advance_valves (t : Nat) : (c.advance t).valves = c.valves := rfl
@[simp] theorem Chip.advance_fans (t : Nat) : (c.advance t).fans = c.fans := rfl
@[simp] theorem Chip.advance_sampler (t : Nat) : (c.advance t).sampler = c.sampler := rfl
@[simp] theorem Chip.advance_cal (t : Nat) : (c.advance t).cal = c.cal := rfl
@[simp] theorem Chip.advance_zones (t : Nat) : (c.advance t).zones = c.zones := rfl
@[simp] theorem Chip.advance_predictions (t : Nat) : (c.advance t).predictions = c.predictions := rfl
@[simp] theorem Chip.advance_thermal (t : Nat) : (c.advance t).thermal = c.thermal := rfl
@[simp] theorem Chip.advance_staleWrites (t : Nat) : (c.advance t).staleWrites = c.staleWrites := rfl
@[simp] theorem Chip.advance_loops (t : Nat) : (c.advance t).loops = c.loops := rfl
@[simp] theorem Chip.advance_minSel (t : Nat) : (c.advance t).minSel = c.minSel := rfl
@[simp] theorem Chip.advance_streams (t : Nat) : (c.advance t).streams = c.streams := rfl
@[simp] theorem Chip.advance_can (t : Nat) : (c.advance t).can = c.can := rfl
@[simp] theorem Chip.advance_panels (t : Nat) : (c.advance t).panels = c.panels := rfl
@[simp] theorem Chip.advance_plate (t : Nat) : (c.advance t).plate = c.plate := rfl
@[simp] theorem Chip.advance_selftest (t : Nat) : (c.advance t).selftest = c.selftest := rfl
@[simp] theorem Chip.advance_freeCount (t : Nat) : (c.advance t).freeCount = c.freeCount := rfl
@[simp] theorem Chip.waitUntil_fuses (t : Nat) : (c.waitUntil t).fuses = c.fuses := by unfold Chip.waitUntil; split <;> rfl
@[simp] theorem Chip.waitUntil_slots (t : Nat) : (c.waitUntil t).slots = c.slots := by unfold Chip.waitUntil; split <;> rfl
@[simp] theorem Chip.waitUntil_overrides (t : Nat) : (c.waitUntil t).overrides = c.overrides := by unfold Chip.waitUntil; split <;> rfl
@[simp] theorem Chip.waitUntil_produced (t : Nat) : (c.waitUntil t).produced = c.produced := by unfold Chip.waitUntil; split <;> rfl
@[simp] theorem Chip.waitUntil_slotWrites (t : Nat) : (c.waitUntil t).slotWrites = c.slotWrites := by unfold Chip.waitUntil; split <;> rfl
@[simp] theorem Chip.waitUntil_attrs (t : Nat) : (c.waitUntil t).attrs = c.attrs := by unfold Chip.waitUntil; split <;> rfl
@[simp] theorem Chip.waitUntil_existing (t : Nat) : (c.waitUntil t).existing = c.existing := by unfold Chip.waitUntil; split <;> rfl
@[simp] theorem Chip.waitUntil_gens (t : Nat) : (c.waitUntil t).gens = c.gens := by unfold Chip.waitUntil; split <;> rfl
@[simp] theorem Chip.waitUntil_owners (t : Nat) : (c.waitUntil t).owners = c.owners := by unfold Chip.waitUntil; split <;> rfl
@[simp] theorem Chip.waitUntil_sessions (t : Nat) : (c.waitUntil t).sessions = c.sessions := by unfold Chip.waitUntil; split <;> rfl
@[simp] theorem Chip.waitUntil_staged (t : Nat) : (c.waitUntil t).staged = c.staged := by unfold Chip.waitUntil; split <;> rfl
@[simp] theorem Chip.waitUntil_lives (t : Nat) : (c.waitUntil t).lives = c.lives := by unfold Chip.waitUntil; split <;> rfl
@[simp] theorem Chip.waitUntil_cmds (t : Nat) : (c.waitUntil t).cmds = c.cmds := by unfold Chip.waitUntil; split <;> rfl
@[simp] theorem Chip.waitUntil_remoteIn (t : Nat) : (c.waitUntil t).remoteIn = c.remoteIn := by unfold Chip.waitUntil; split <;> rfl
@[simp] theorem Chip.waitUntil_events (t : Nat) : (c.waitUntil t).events = c.events := by unfold Chip.waitUntil; split <;> rfl
@[simp] theorem Chip.waitUntil_queues (t : Nat) : (c.waitUntil t).queues = c.queues := by unfold Chip.waitUntil; split <;> rfl
@[simp] theorem Chip.waitUntil_ring (t : Nat) : (c.waitUntil t).ring = c.ring := by unfold Chip.waitUntil; split <;> rfl
@[simp] theorem Chip.waitUntil_foldS (t : Nat) : (c.waitUntil t).foldS = c.foldS := by unfold Chip.waitUntil; split <;> rfl
@[simp] theorem Chip.waitUntil_foldD (t : Nat) : (c.waitUntil t).foldD = c.foldD := by unfold Chip.waitUntil; split <;> rfl
@[simp] theorem Chip.waitUntil_host (t : Nat) : (c.waitUntil t).host = c.host := by unfold Chip.waitUntil; split <;> rfl
@[simp] theorem Chip.waitUntil_mgt (t : Nat) : (c.waitUntil t).mgt = c.mgt := by unfold Chip.waitUntil; split <;> rfl
@[simp] theorem Chip.waitUntil_power (t : Nat) : (c.waitUntil t).power = c.power := by unfold Chip.waitUntil; split <;> rfl
@[simp] theorem Chip.waitUntil_log (t : Nat) : (c.waitUntil t).log = c.log := by unfold Chip.waitUntil; split <;> rfl
@[simp] theorem Chip.waitUntil_counters (t : Nat) : (c.waitUntil t).counters = c.counters := by unfold Chip.waitUntil; split <;> rfl
@[simp] theorem Chip.waitUntil_dogs (t : Nat) : (c.waitUntil t).dogs = c.dogs := by unfold Chip.waitUntil; split <;> rfl
@[simp] theorem Chip.waitUntil_firmware (t : Nat) : (c.waitUntil t).firmware = c.firmware := by unfold Chip.waitUntil; split <;> rfl
@[simp] theorem Chip.waitUntil_image (t : Nat) : (c.waitUntil t).image = c.image := by unfold Chip.waitUntil; split <;> rfl
@[simp] theorem Chip.waitUntil_flash (t : Nat) : (c.waitUntil t).flash = c.flash := by unfold Chip.waitUntil; split <;> rfl
@[simp] theorem Chip.waitUntil_almanac (t : Nat) : (c.waitUntil t).almanac = c.almanac := by unfold Chip.waitUntil; split <;> rfl
@[simp] theorem Chip.waitUntil_links (t : Nat) : (c.waitUntil t).links = c.links := by unfold Chip.waitUntil; split <;> rfl
@[simp] theorem Chip.waitUntil_fabric (t : Nat) : (c.waitUntil t).fabric = c.fabric := by unfold Chip.waitUntil; split <;> rfl
@[simp] theorem Chip.waitUntil_ports (t : Nat) : (c.waitUntil t).ports = c.ports := by unfold Chip.waitUntil; split <;> rfl
@[simp] theorem Chip.waitUntil_groups (t : Nat) : (c.waitUntil t).groups = c.groups := by unfold Chip.waitUntil; split <;> rfl
@[simp] theorem Chip.waitUntil_bridges (t : Nat) : (c.waitUntil t).bridges = c.bridges := by unfold Chip.waitUntil; split <;> rfl
@[simp] theorem Chip.waitUntil_motors (t : Nat) : (c.waitUntil t).motors = c.motors := by unfold Chip.waitUntil; split <;> rfl
@[simp] theorem Chip.waitUntil_records (t : Nat) : (c.waitUntil t).records = c.records := by unfold Chip.waitUntil; split <;> rfl
@[simp] theorem Chip.waitUntil_valves (t : Nat) : (c.waitUntil t).valves = c.valves := by unfold Chip.waitUntil; split <;> rfl
@[simp] theorem Chip.waitUntil_fans (t : Nat) : (c.waitUntil t).fans = c.fans := by unfold Chip.waitUntil; split <;> rfl
@[simp] theorem Chip.waitUntil_sampler (t : Nat) : (c.waitUntil t).sampler = c.sampler := by unfold Chip.waitUntil; split <;> rfl
@[simp] theorem Chip.waitUntil_cal (t : Nat) : (c.waitUntil t).cal = c.cal := by unfold Chip.waitUntil; split <;> rfl
@[simp] theorem Chip.waitUntil_zones (t : Nat) : (c.waitUntil t).zones = c.zones := by unfold Chip.waitUntil; split <;> rfl
@[simp] theorem Chip.waitUntil_predictions (t : Nat) : (c.waitUntil t).predictions = c.predictions := by unfold Chip.waitUntil; split <;> rfl
@[simp] theorem Chip.waitUntil_thermal (t : Nat) : (c.waitUntil t).thermal = c.thermal := by unfold Chip.waitUntil; split <;> rfl
@[simp] theorem Chip.waitUntil_staleWrites (t : Nat) : (c.waitUntil t).staleWrites = c.staleWrites := by unfold Chip.waitUntil; split <;> rfl
@[simp] theorem Chip.waitUntil_loops (t : Nat) : (c.waitUntil t).loops = c.loops := by unfold Chip.waitUntil; split <;> rfl
@[simp] theorem Chip.waitUntil_minSel (t : Nat) : (c.waitUntil t).minSel = c.minSel := by unfold Chip.waitUntil; split <;> rfl
@[simp] theorem Chip.waitUntil_streams (t : Nat) : (c.waitUntil t).streams = c.streams := by unfold Chip.waitUntil; split <;> rfl
@[simp] theorem Chip.waitUntil_can (t : Nat) : (c.waitUntil t).can = c.can := by unfold Chip.waitUntil; split <;> rfl
@[simp] theorem Chip.waitUntil_panels (t : Nat) : (c.waitUntil t).panels = c.panels := by unfold Chip.waitUntil; split <;> rfl
@[simp] theorem Chip.waitUntil_plate (t : Nat) : (c.waitUntil t).plate = c.plate := by unfold Chip.waitUntil; split <;> rfl
@[simp] theorem Chip.waitUntil_selftest (t : Nat) : (c.waitUntil t).selftest = c.selftest := by unfold Chip.waitUntil; split <;> rfl
@[simp] theorem Chip.waitUntil_freeCount (t : Nat) : (c.waitUntil t).freeCount = c.freeCount := by unfold Chip.waitUntil; split <;> rfl

/-- A wait ends no earlier than its instant. -/
theorem Chip.le_waitUntil (t : Nat) : t ≤ (c.waitUntil t).clk.now := by
  unfold Chip.waitUntil
  split
  · simp only [Chip.advance_clk, clkAdvance]
    split <;> (dsimp only; omega)
  · omega

/-- A wait for an instant that has passed is none. -/
theorem Chip.waitUntil_of_le (t : Nat) (h : t ≤ c.clk.now) : c.waitUntil t = c := by
  unfold Chip.waitUntil
  rw [if_neg (by omega)]

/-- A wait ends at its instant, where that lies ahead. -/
theorem Chip.waitUntil_now (t : Nat) : (c.waitUntil t).clk.now = max c.clk.now t := by
  unfold Chip.waitUntil
  split
  · simp only [Chip.advance_clk, clkAdvance]
    split <;> (dsimp only; omega)
  · omega

@[simp] theorem Chip.setGroup_same (k : Nat) (s : GroupSt) : (c.setGroup k s).group k = s := Tbl.get_set_same _ _ _ _
theorem Chip.setGroup_other (k j : Nat) (s : GroupSt) (h : j ≠ k) : (c.setGroup k s).group j = c.group j :=
  Tbl.get_set_other _ _ _ _ _ h
@[simp] theorem Chip.setBridge_same (k : Nat) (s : BridgeSt) : (c.setBridge k s).bridge k = s := Tbl.get_set_same _ _ _ _
theorem Chip.setBridge_other (k j : Nat) (s : BridgeSt) (h : j ≠ k) : (c.setBridge k s).bridge j = c.bridge j :=
  Tbl.get_set_other _ _ _ _ _ h
@[simp] theorem Chip.setMotor_same (k : Nat) (s : MotorSt) : (c.setMotor k s).motor k = s := Tbl.get_set_same _ _ _ _
theorem Chip.setMotor_other (k j : Nat) (s : MotorSt) (h : j ≠ k) : (c.setMotor k s).motor j = c.motor j :=
  Tbl.get_set_other _ _ _ _ _ h
@[simp] theorem Chip.setValve_same (k : Nat) (s : ValveSt) : (c.setValve k s).valve k = s := Tbl.get_set_same _ _ _ _
theorem Chip.setValve_other (k j : Nat) (s : ValveSt) (h : j ≠ k) : (c.setValve k s).valve j = c.valve j :=
  Tbl.get_set_other _ _ _ _ _ h
@[simp] theorem Chip.setFan_same (k : Nat) (s : FanSt) : (c.setFan k s).fan k = s := Tbl.get_set_same _ _ _ _
theorem Chip.setFan_other (k j : Nat) (s : FanSt) (h : j ≠ k) : (c.setFan k s).fan j = c.fan j :=
  Tbl.get_set_other _ _ _ _ _ h
@[simp] theorem Chip.setCan_same (k : Nat) (s : CanSt) : (c.setCan k s).canOf k = s := Tbl.get_set_same _ _ _ _
theorem Chip.setCan_other (k j : Nat) (s : CanSt) (h : j ≠ k) : (c.setCan k s).canOf j = c.canOf j :=
  Tbl.get_set_other _ _ _ _ _ h
@[simp] theorem Chip.setLoop_same (k : Nat) (s : LoopSt) : (c.setLoop k s).loop k = s := Tbl.get_set_same _ _ _ _
theorem Chip.setLoop_other (k j : Nat) (s : LoopSt) (h : j ≠ k) : (c.setLoop k s).loop j = c.loop j :=
  Tbl.get_set_other _ _ _ _ _ h
@[simp] theorem Chip.setLink_same (k : Nat) (s : LinkSt) : (c.setLink k s).link k = s := Tbl.get_set_same _ _ _ _
theorem Chip.setLink_other (k j : Nat) (s : LinkSt) (h : j ≠ k) : (c.setLink k s).link j = c.link j :=
  Tbl.get_set_other _ _ _ _ _ h
@[simp] theorem Chip.setStream_same (k : Nat) (s : StreamSt) : (c.setStream k s).stream k = s := Tbl.get_set_same _ _ _ _
theorem Chip.setStream_other (k j : Nat) (s : StreamSt) (h : j ≠ k) : (c.setStream k s).stream j = c.stream j :=
  Tbl.get_set_other _ _ _ _ _ h
@[simp] theorem Chip.setQueue_same (k : Nat) (s : QueueSt) : (c.setQueue k s).queue k = s := Tbl.get_set_same _ _ _ _
theorem Chip.setQueue_other (k j : Nat) (s : QueueSt) (h : j ≠ k) : (c.setQueue k s).queue j = c.queue j :=
  Tbl.get_set_other _ _ _ _ _ h
@[simp] theorem Chip.setEvent_same (k : Nat) (s : EventSt) : (c.setEvent k s).event k = s := Tbl.get_set_same _ _ _ _
theorem Chip.setEvent_other (k j : Nat) (s : EventSt) (h : j ≠ k) : (c.setEvent k s).event j = c.event j :=
  Tbl.get_set_other _ _ _ _ _ h
@[simp] theorem Chip.setZone_same (k : Nat) (s : ZoneSt) : (c.setZone k s).zone k = s := Tbl.get_set_same _ _ _ _
theorem Chip.setZone_other (k j : Nat) (s : ZoneSt) (h : j ≠ k) : (c.setZone k s).zone j = c.zone j :=
  Tbl.get_set_other _ _ _ _ _ h
@[simp] theorem Chip.setPanel_same (k : Nat) (s : PanelSt) : (c.setPanel k s).panel k = s := Tbl.get_set_same _ _ _ _
theorem Chip.setPanel_other (k j : Nat) (s : PanelSt) (h : j ≠ k) : (c.setPanel k s).panel j = c.panel j :=
  Tbl.get_set_other _ _ _ _ _ h
@[simp] theorem Chip.setPort_same (k : Nat) (s : PortSt) : (c.setPort k s).port k = s := Tbl.get_set_same _ _ _ _
theorem Chip.setPort_other (k j : Nat) (s : PortSt) (h : j ≠ k) : (c.setPort k s).port j = c.port j :=
  Tbl.get_set_other _ _ _ _ _ h

end Sys2Proof.Machine
end

