-- ==== Sys2Proof/Laws/Ops.lean ====
section
/-! SUPPORT. What the shared operations can do: events and their routes, the fault log, records on queues, replies. -/

namespace Sys2Proof.Machine

/-- `d` is `c` but for what events, records and the fault log write: event states, queues and rings, the management port,
loop triggers, the counters, the fault log and the events that wait for BOOT_DONE. -/
def Routed (c d : Chip) : Prop :=
  ∃ ev q r m lp cn lg le,
    d = { c with events := ev, queues := q, ring := r, mgt := m, loops := lp, counters := cn, log := lg, power := { c.power with lateEvents := le } }

theorem Routed.refl (c : Chip) : Routed c c := ⟨_, _, _, _, _, _, _, _, rfl⟩

theorem Routed.trans {a b c : Chip} (h : Routed a b) (h' : Routed b c) : Routed a c := by
  obtain ⟨_, _, _, _, _, _, _, _, rfl⟩ := h
  obtain ⟨_, _, _, _, _, _, _, _, rfl⟩ := h'
  exact ⟨_, _, _, _, _, _, _, _, rfl⟩

theorem setQueue_routed (q : Nat) (s : QueueSt) (c : Chip) : Routed c (c.setQueue q s) := ⟨_, _, _, _, _, _, _, _, rfl⟩
theorem setEvent_routed (e : Nat) (s : EventSt) (c : Chip) : Routed c (c.setEvent e s) := ⟨_, _, _, _, _, _, _, _, rfl⟩
theorem assertAlert_routed (c : Chip) : Routed c c.assertAlert := ⟨_, _, _, _, _, _, _, _, rfl⟩
theorem putRecord_routed (q : Nat) (b : List Byte) (c : Chip) : Routed c (c.putRecord q b) := ⟨_, _, _, _, _, _, _, _, rfl⟩
theorem dropRecord_routed (q : Nat) (c : Chip) : Routed c (c.dropRecord q) := ⟨_, _, _, _, _, _, _, _, rfl⟩

theorem mgtRecord_routed (q cls : Nat) (b : List Byte) (c : Chip) : Routed c (c.mgtRecord q cls b) := by
  unfold Chip.mgtRecord
  split
  · exact Routed.refl _
  split
  · dsimp only
    split
    · refine Routed.trans ?_ (assertAlert_routed _)
      refine Routed.trans ?_ (setQueue_routed _ _ _)
      exact putRecord_routed _ _ _
    · exact putRecord_routed _ _ _
  · exact dropRecord_routed _ _

theorem alertEvent_routed (e : Nat) (s : EventSt) (c : Chip) : Routed c (c.alertEvent e s) := by
  simp only [Chip.alertEvent]
  refine Routed.trans ?_ (mgtRecord_routed _ _ _ _)
  exact ⟨_, _, _, _, _, _, _, _, rfl⟩

theorem eventTrigger_routed (l : Nat) (c : Chip) : Routed c (c.eventTrigger l) := by
  unfold Chip.eventTrigger; split <;> exact ⟨_, _, _, _, _, _, _, _, rfl⟩

theorem fireUp_routed (e : Nat) (x st : Word) (c : Chip) : Routed c (c.fireUp e x st) := by
  unfold Chip.fireUp
  dsimp only
  have h := setEvent_routed e (withOccurrences e ((c.event e).fire x st (routeQueue (c.route e)))) c
  split <;> split
  · exact (h.trans (alertEvent_routed _ _ _)).trans (eventTrigger_routed _ _)
  · exact h.trans (eventTrigger_routed _ _)
  · exact h.trans (alertEvent_routed _ _ _)
  · exact h

theorem fireDown_routed (e : Nat) (x st : Word) (c : Chip) : Routed c (c.fireDown e x st) := by
  simp only [Chip.fireDown]
  refine Routed.trans ?_ (alertEvent_routed _ _ _)
  exact ⟨_, _, _, _, _, _, _, _, rfl⟩

theorem fireBare_routed (e : Nat) (x : Word) (c : Chip) : Routed c (c.fireBare e x) := by
  unfold Chip.fireBare
  (repeat' split) <;> first | exact Routed.refl _ | exact fireUp_routed _ _ _ _ | exact fireDown_routed _ _ _ _

theorem logEntry_routed (so co : Nat) (x d p : Word) (c : Chip) : Routed c (c.logEntry so co x d p) := by
  simp only [Chip.logEntry]
  refine Routed.trans ?_ (fireBare_routed _ _ _)
  refine Routed.trans ?_ (mgtRecord_routed _ _ _ _)
  exact ⟨_, _, _, _, _, _, _, _, rfl⟩

theorem logEvent_routed (e : Nat) (x d : Word) (c : Chip) : Routed c (c.logEvent e x d) := by
  simp only [Chip.logEvent]
  refine iteInduction (motive := fun d => Routed c d) (fun _ => ?_) (fun _ => ?_)
  · exact ⟨_, _, _, _, _, _, _, _, rfl⟩
  · refine Routed.trans ?_ (logEntry_routed _ _ _ _ _ _)
    exact ⟨_, _, _, _, _, _, _, _, rfl⟩

theorem fireLogged_routed (e : Nat) (x d : Word) (c : Chip) : Routed c (c.fireLogged e x d) := by
  unfold Chip.fireLogged
  split
  · exact Routed.refl _
  dsimp only
  split
  · exact (fireBare_routed _ _ _).trans (logEvent_routed _ _ _ _)
  · exact fireBare_routed _ _ _

theorem tellLost_routed (old : Chip) (q : Nat) (c : Chip) : Routed c (Chip.tellLost old q c) := by
  unfold Chip.tellLost
  split
  · exact fireLogged_routed _ _ _ _
  · exact Routed.refl _

theorem fireWith_routed (e : Nat) (x d : Word) (c : Chip) : Routed c (c.fireWith e x d) := by
  have h := (fireLogged_routed e x d c).trans (tellLost_routed c 62 _)
  unfold Chip.fireWith
  dsimp only
  split
  · exact h.trans (fireLogged_routed _ _ _ _)
  · exact h

/-- Firing an event changes nothing but what `Routed` names. -/
theorem fire_routed (e x : Nat) (c : Chip) : Routed c (c.fire e x) := fireWith_routed _ _ _ _

theorem powerLimit_routed (k h : Nat) (c : Chip) : Routed c (c.powerLimit k h) := fire_routed _ _ _

theorem notify_routed (q : Nat) (c : Chip) : Routed c (c.notify q) := by
  have h := setQueue_routed q (c.queue q).notified c
  unfold Chip.notify
  dsimp only
  split
  · exact h.trans (fire_routed _ _ _)
  split
  · exact h.trans (fire_routed _ _ _)
  split
  · exact h.trans (fire_routed _ _ _)
  split
  · exact h.trans (assertAlert_routed _)
  · exact h

theorem deliver_routed (q cls : Nat) (b : List Byte) (n : Word) (c : Chip) : Routed c (c.deliver q cls b n) := by
  simp only [Chip.deliver]
  split
  · exact ((setQueue_routed _ _ _).trans (putRecord_routed _ _ _)).trans (notify_routed _ _)
  · exact (setQueue_routed _ _ _).trans (putRecord_routed _ _ _)

theorem arrive_routed (q cls : Nat) (b : List Byte) (n : Word) (c : Chip) : Routed c (c.arrive q cls b n) := by
  simp only [Chip.arrive]
  split
  · exact deliver_routed _ _ _ _ _
  · exact (dropRecord_routed _ _).trans (fire_routed _ _ _)

theorem writeRoute_frame (e r : Nat) (c : Chip) :
    Routed (c.setAttr tyEvent e 1 (leBytes 4 (fixRoute e r))) (c.writeRoute e r) := by
  unfold Chip.writeRoute
  dsimp only
  split
  · split
    · exact ((setEvent_routed _ _ _).trans (alertEvent_routed _ _ _)).trans (tellLost_routed _ _ _)
    · exact setEvent_routed _ _ _
  · exact Routed.refl _

/-! ### What a firing leaves in the event table -/

theorem mgtRecord_events (q cls : Nat) (b : List Byte) (c : Chip) : (c.mgtRecord q cls b).events = c.events := by
  unfold Chip.mgtRecord
  split
  · rfl
  split
  · dsimp only
    split <;> rfl
  · rfl

theorem alertEvent_events (e : Nat) (s : EventSt) (c : Chip) : (c.alertEvent e s).events = c.events := by
  simp only [Chip.alertEvent, mgtRecord_events]

theorem eventTrigger_events (l : Nat) (c : Chip) : (c.eventTrigger l).events = c.events := by
  unfold Chip.eventTrigger; split <;> rfl

theorem fireUp_events (e : Nat) (x st : Word) (c : Chip) : (c.fireUp e x st).events =
    Tbl.set dEvent c.events e (withOccurrences e ((c.event e).fire x st (routeQueue (c.route e)))) := by
  simp only [Chip.fireUp]
  (repeat' split) <;> simp only [eventTrigger_events, alertEvent_events, Chip.setEvent_events]

theorem fireDown_events (e : Nat) (x st : Word) (c : Chip) : (c.fireDown e x st).events = c.events := by
  simp only [Chip.fireDown, alertEvent_events]

theorem fireBare_event_other (e j : Nat) (x : Word) (c : Chip) (h : j ≠ e) : (c.fireBare e x).event j = c.event j := by
  unfold Chip.fireBare Chip.event
  (repeat' split) <;> simp only [fireUp_events, fireDown_events, Tbl.get_set_other _ _ _ _ _ h]

theorem logEntry_event_other (so co j : Nat) (x d p : Word) (c : Chip) (h : j ≠ 119) :
    (c.logEntry so co x d p).event j = c.event j := by
  simp only [Chip.logEntry]
  rw [fireBare_event_other _ _ _ _ h]
  simp only [Chip.event, mgtRecord_events]

theorem logEvent_event_other (e j : Nat) (x d : Word) (c : Chip) (h : j ≠ 119) : (c.logEvent e x d).event j = c.event j := by
  simp only [Chip.logEvent]
  refine iteInduction (motive := fun d => Chip.event d j = c.event j) (fun _ => ?_) (fun _ => ?_)
  · rfl
  · rw [logEntry_event_other _ _ _ _ _ _ _ h]
    rfl

theorem fireLogged_event_other (e j : Nat) (x d : Word) (c : Chip) (h : j ≠ e) (h' : j ≠ 119) :
    (c.fireLogged e x d).event j = c.event j := by
  simp only [Chip.fireLogged]
  (repeat' split) <;> simp only [logEvent_event_other _ _ _ _ _ h', fireBare_event_other _ _ _ _ h]

theorem tellLost_event_other (old : Chip) (q j : Nat) (c : Chip) (h8 : j ≠ 118) (h9 : j ≠ 119) :
    (Chip.tellLost old q c).event j = c.event j := by
  unfold Chip.tellLost
  split <;> simp only [fireLogged_event_other _ _ _ _ _ h8 h9]

/-- A firing changes no event but its own, E118 and E119 (R97, R109, R513). -/
theorem fireWith_event_other (e j : Nat) (x d : Word) (c : Chip) (h : j ≠ e) (h8 : j ≠ 118) (h9 : j ≠ 119) :
    (c.fireWith e x d).event j = c.event j := by
  simp only [Chip.fireWith]
  split <;> simp only [fireLogged_event_other _ _ _ _ _ h8 h9, tellLost_event_other _ _ _ _ h8 h9, fireLogged_event_other _ _ _ _ _ h h9]

theorem fire_event_other (e j x : Nat) (c : Chip) (h : j ≠ e) (h8 : j ≠ 118) (h9 : j ≠ 119) :
    (c.fire e x).event j = c.event j := fireWith_event_other _ _ _ _ _ h h8 h9

theorem fireLogged_event (e : Nat) (x d : Word) (c : Chip) (hu : c.power.main.up = true) (hn : eventNever c.fuses.variant e = false)
    (h9 : e ≠ 119) : (c.fireLogged e x d).event e = withOccurrences e ((c.event e).fire x c.stamp (routeQueue (c.route e))) := by
  have hb : (c.fireBare e x).event e = withOccurrences e ((c.event e).fire x c.stamp (routeQueue (c.route e))) := by
    simp only [Chip.fireBare, hn, hu]
    simp only [Chip.event, Bool.false_eq_true, if_false, if_true, fireUp_events, Tbl.get_set_same]
  simp only [Chip.fireLogged, hn, Bool.false_eq_true, if_false]
  split
  · rw [logEvent_event_other _ _ _ _ _ h9, hb]
  · exact hb

/-- What a firing leaves in its event while the main side is up (R91, R93). -/
theorem fireWith_event (e : Nat) (x d : Word) (c : Chip) (hu : c.power.main.up = true) (hn : eventNever c.fuses.variant e = false)
    (h8 : e ≠ 118) (h9 : e ≠ 119) :
    (c.fireWith e x d).event e = withOccurrences e ((c.event e).fire x c.stamp (routeQueue (c.route e))) := by
  simp only [Chip.fireWith]
  split <;> simp only [fireLogged_event_other _ _ _ _ _ h8 h9, tellLost_event_other _ _ _ _ h8 h9, fireLogged_event _ _ _ _ hu hn h9]

theorem fire_event (e x : Nat) (c : Chip) (hu : c.power.main.up = true) (hn : eventNever c.fuses.variant e = false)
    (h8 : e ≠ 118) (h9 : e ≠ 119) :
    (c.fire e x).event e = withOccurrences e ((c.event e).fire (BitVec.ofNat 32 x) c.stamp (routeQueue (c.route e))) :=
  fireWith_event _ _ _ _ hu hn h8 h9

theorem eventFire_pending (s : EventSt) (x st : Word) (q : Bool) : (s.fire x st q).pending = true := by
  unfold EventSt.fire; split <;> simp_all

theorem eventFire_cause (s : EventSt) (x st : Word) (q : Bool) : (s.fire x st q).cause = x := by
  unfold EventSt.fire; split <;> rfl

/-- A firing leaves its event PENDING with its CAUSE word. -/
theorem fireWith_pending (e : Nat) (x d : Word) (c : Chip) (hu : c.power.main.up = true) (hn : eventNever c.fuses.variant e = false)
    (h8 : e ≠ 118) (h9 : e ≠ 119) : ((c.fireWith e x d).event e).pending = true := by
  rw [fireWith_event _ _ _ _ hu hn h8 h9]
  unfold withOccurrences
  split <;> simp [eventFire_pending]

theorem fireWith_cause (e : Nat) (x d : Word) (c : Chip) (hu : c.power.main.up = true) (hn : eventNever c.fuses.variant e = false)
    (h8 : e ≠ 118) (h9 : e ≠ 119) (h2 : e ≠ 92) (h4 : e ≠ 94) : ((c.fireWith e x d).event e).cause = x := by
  rw [fireWith_event _ _ _ _ hu hn h8 h9]
  simp [withOccurrences, h2, h4, eventFire_cause]

/-! ### The management alert status -/

/-- No bit of the management alert status goes, and ALERT# stays asserted. -/
def AlertGrows (c d : Chip) : Prop :=
  (∀ j, c.mgt.alert.getLsbD j = true → d.mgt.alert.getLsbD j = true) ∧ (c.mgt.alertLine = true → d.mgt.alertLine = true)

theorem AlertGrows.refl (c : Chip) : AlertGrows c c := ⟨fun _ => id, id⟩
theorem AlertGrows.trans {a b c : Chip} (h : AlertGrows a b) (h' : AlertGrows b c) : AlertGrows a c :=
  ⟨fun j x => h'.1 j (h.1 j x), fun x => h'.2 (h.2 x)⟩
theorem AlertGrows.same {c d : Chip} (h : d.mgt = c.mgt) : AlertGrows c d := by
  unfold AlertGrows; rw [h]; exact ⟨fun _ => id, id⟩

theorem mgtRecord_alert (q cls : Nat) (b : List Byte) (c : Chip) : AlertGrows c (c.mgtRecord q cls b) := by
  unfold Chip.mgtRecord
  split
  · exact AlertGrows.refl _
  split
  · dsimp only
    split
    · exact ⟨fun _ => id, fun _ => rfl⟩
    · exact AlertGrows.same rfl
  · exact AlertGrows.same rfl

theorem alertEvent_grows (e : Nat) (s : EventSt) (c : Chip) : AlertGrows c (c.alertEvent e s) := by
  unfold Chip.alertEvent
  dsimp only
  refine AlertGrows.trans ?_ (mgtRecord_alert _ _ _ _)
  exact ⟨fun j h => by simp [h], fun _ => rfl⟩

theorem alertEvent_sets (e : Nat) (s : EventSt) (c : Chip) (he : e < 128) :
    (c.alertEvent e s).mgt.alert.getLsbD e = true ∧ (c.alertEvent e s).mgt.alertLine = true := by
  unfold Chip.alertEvent
  dsimp only
  have h := mgtRecord_alert 62 (bits (c.route e) 0 2) (deliveryBody e (bits (c.route e) 0 2) s)
    { c with mgt := { c.mgt with alert := c.mgt.alert ||| ((1 : BitVec 128) <<< e), alertLine := true } }
  exact ⟨h.1 e (by simp [he]), h.2 rfl⟩

theorem eventTrigger_mgt (l : Nat) (c : Chip) : (c.eventTrigger l).mgt = c.mgt := by
  unfold Chip.eventTrigger; split <;> rfl

theorem fireUp_alert (e : Nat) (x st : Word) (c : Chip) : AlertGrows c (c.fireUp e x st) ∧
    (e < 128 → routeMgt e (c.route e) = true → (c.fireUp e x st).mgt.alert.getLsbD e = true ∧ (c.fireUp e x st).mgt.alertLine = true) := by
  unfold Chip.fireUp
  dsimp only
  generalize withOccurrences e ((c.event e).fire x st (routeQueue (c.route e))) = s
  have h : AlertGrows c (c.setEvent e s) := AlertGrows.same rfl
  have h1 := h.trans (alertEvent_grows e s (c.setEvent e s))
  have h2 := alertEvent_sets e s (c.setEvent e s)
  split <;> split
  · exact ⟨h1.trans (AlertGrows.same (eventTrigger_mgt _ _)), fun he _ => by rw [eventTrigger_mgt]; exact h2 he⟩
  · rename_i _ hr; exact ⟨h.trans (AlertGrows.same (eventTrigger_mgt _ _)), fun _ hm => absurd hm hr⟩
  · exact ⟨h1, fun he _ => h2 he⟩
  · rename_i _ hr; exact ⟨h, fun _ hm => absurd hm hr⟩

theorem fireBare_alert (e : Nat) (x : Word) (c : Chip) : AlertGrows c (c.fireBare e x) := by
  unfold Chip.fireBare
  split
  · exact AlertGrows.refl _
  split
  · exact (fireUp_alert _ _ _ _).1
  · unfold Chip.fireDown
    dsimp only
    refine AlertGrows.trans ?_ (alertEvent_grows _ _ _)
    exact AlertGrows.same rfl

theorem logEvent_alert (e : Nat) (x d : Word) (c : Chip) : AlertGrows c (c.logEvent e x d) := by
  simp only [Chip.logEvent]
  refine iteInduction (motive := fun d => AlertGrows c d) (fun _ => ?_) (fun _ => ?_)
  · exact AlertGrows.same rfl
  · simp only [Chip.logEntry]
    refine AlertGrows.trans ?_ (fireBare_alert _ _ _)
    refine AlertGrows.trans ?_ (mgtRecord_alert _ _ _ _)
    exact AlertGrows.same rfl

theorem fireLogged_alert (e : Nat) (x d : Word) (c : Chip) : AlertGrows c (c.fireLogged e x d) := by
  unfold Chip.fireLogged
  split
  · exact AlertGrows.refl _
  dsimp only
  split
  · exact (fireBare_alert _ _ _).trans (logEvent_alert _ _ _ _)
  · exact fireBare_alert _ _ _

theorem tellLost_alert (old : Chip) (q : Nat) (c : Chip) : AlertGrows c (Chip.tellLost old q c) := by
  unfold Chip.tellLost
  split
  · exact fireLogged_alert _ _ _ _
  · exact AlertGrows.refl _

theorem fireWith_alert (e : Nat) (x d : Word) (c : Chip) : AlertGrows c (c.fireWith e x d) := by
  have h := (fireLogged_alert e x d c).trans (tellLost_alert c 62 _)
  unfold Chip.fireWith
  dsimp only
  split
  · exact h.trans (fireLogged_alert _ _ _ _)
  · exact h

/-- A firing that the management controller hears sets its bit of the alert status and asserts ALERT#, whether the main side is
up or down (R95, R504). -/
theorem fireWith_sets_alert (e : Nat) (x d : Word) (c : Chip) (hn : eventNever c.fuses.variant e = false) (he : e < 128)
    (hr : routeMgt e (c.route e) = true) :
    (c.fireWith e x d).mgt.alert.getLsbD e = true ∧ (c.fireWith e x d).mgt.alertLine = true := by
  have hb : (c.fireBare e x).mgt.alert.getLsbD e = true ∧ (c.fireBare e x).mgt.alertLine = true := by
    unfold Chip.fireBare
    rw [if_neg (by simp [hn])]
    split
    · exact (fireUp_alert _ _ _ _).2 he hr
    · exact alertEvent_sets _ _ _ he
  have hl : (c.fireLogged e x d).mgt.alert.getLsbD e = true ∧ (c.fireLogged e x d).mgt.alertLine = true := by
    unfold Chip.fireLogged
    rw [if_neg (by simp [hn])]
    dsimp only
    split
    · exact ⟨(logEvent_alert _ _ _ _).1 _ hb.1, (logEvent_alert _ _ _ _).2 hb.2⟩
    · exact hb
  have ht := tellLost_alert c 62 (c.fireLogged e x d)
  unfold Chip.fireWith
  dsimp only
  split
  · exact ⟨(fireLogged_alert _ _ _ _).1 _ (ht.1 _ hl.1), (fireLogged_alert _ _ _ _).2 (ht.2 hl.2)⟩
  · exact ⟨ht.1 _ hl.1, ht.2 hl.2⟩

/-! ### The fields that a firing leaves as they were -/


variable (c : Chip)

theorem Routed.fuses {c d : Chip} (h : Routed c d) : d.fuses = c.fuses := by obtain ⟨_, _, _, _, _, _, _, _, rfl⟩ := h; rfl
theorem Routed.clk {c d : Chip} (h : Routed c d) : d.clk = c.clk := by obtain ⟨_, _, _, _, _, _, _, _, rfl⟩ := h; rfl
theorem Routed.slots {c d : Chip} (h : Routed c d) : d.slots = c.slots := by obtain ⟨_, _, _, _, _, _, _, _, rfl⟩ := h; rfl
theorem Routed.overrides {c d : Chip} (h : Routed c d) : d.overrides = c.overrides := by obtain ⟨_, _, _, _, _, _, _, _, rfl⟩ := h; rfl
theorem Routed.produced {c d : Chip} (h : Routed c d) : d.produced = c.produced := by obtain ⟨_, _, _, _, _, _, _, _, rfl⟩ := h; rfl
theorem Routed.slotWrites {c d : Chip} (h : Routed c d) : d.slotWrites = c.slotWrites := by obtain ⟨_, _, _, _, _, _, _, _, rfl⟩ := h; rfl
theorem Routed.attrs {c d : Chip} (h : Routed c d) : d.attrs = c.attrs := by obtain ⟨_, _, _, _, _, _, _, _, rfl⟩ := h; rfl
theorem Routed.existing {c d : Chip} (h : Routed c d) : d.existing = c.existing := by obtain ⟨_, _, _, _, _, _, _, _, rfl⟩ := h; rfl
theorem Routed.gens {c d : Chip} (h : Routed c d) : d.gens = c.gens := by obtain ⟨_, _, _, _, _, _, _, _, rfl⟩ := h; rfl
theorem Routed.owners {c d : Chip} (h : Routed c d) : d.owners = c.owners := by obtain ⟨_, _, _, _, _, _, _, _, rfl⟩ := h; rfl
theorem Routed.sessions {c d : Chip} (h : Routed c d) : d.sessions = c.sessions := by obtain ⟨_, _, _, _, _, _, _, _, rfl⟩ := h; rfl
theorem Routed.staged {c d : Chip} (h : Routed c d) : d.staged = c.staged := by obtain ⟨_, _, _, _, _, _, _, _, rfl⟩ := h; rfl
theorem Routed.lives {c d : Chip} (h : Routed c d) : d.lives = c.lives := by obtain ⟨_, _, _, _, _, _, _, _, rfl⟩ := h; rfl
theorem Routed.cmds {c d : Chip} (h : Routed c d) : d.cmds = c.cmds := by obtain ⟨_, _, _, _, _, _, _, _, rfl⟩ := h; rfl
theorem Routed.remoteIn {c d : Chip} (h : Routed c d) : d.remoteIn = c.remoteIn := by obtain ⟨_, _, _, _, _, _, _, _, rfl⟩ := h; rfl
theorem Routed.foldS {c d : Chip} (h : Routed c d) : d.foldS = c.foldS := by obtain ⟨_, _, _, _, _, _, _, _, rfl⟩ := h; rfl
theorem Routed.foldD {c d : Chip} (h : Routed c d) : d.foldD = c.foldD := by obtain ⟨_, _, _, _, _, _, _, _, rfl⟩ := h; rfl
theorem Routed.host {c d : Chip} (h : Routed c d) : d.host = c.host := by obtain ⟨_, _, _, _, _, _, _, _, rfl⟩ := h; rfl
theorem Routed.dogs {c d : Chip} (h : Routed c d) : d.dogs = c.dogs := by obtain ⟨_, _, _, _, _, _, _, _, rfl⟩ := h; rfl
theorem Routed.firmware {c d : Chip} (h : Routed c d) : d.firmware = c.firmware := by obtain ⟨_, _, _, _, _, _, _, _, rfl⟩ := h; rfl
theorem Routed.image {c d : Chip} (h : Routed c d) : d.image = c.image := by obtain ⟨_, _, _, _, _, _, _, _, rfl⟩ := h; rfl
theorem Routed.flash {c d : Chip} (h : Routed c d) : d.flash = c.flash := by obtain ⟨_, _, _, _, _, _, _, _, rfl⟩ := h; rfl
theorem Routed.rtc {c d : Chip} (h : Routed c d) : d.rtc = c.rtc := by obtain ⟨_, _, _, _, _, _, _, _, rfl⟩ := h; rfl
theorem Routed.almanac {c d : Chip} (h : Routed c d) : d.almanac = c.almanac := by obtain ⟨_, _, _, _, _, _, _, _, rfl⟩ := h; rfl
theorem Routed.links {c d : Chip} (h : Routed c d) : d.links = c.links := by obtain ⟨_, _, _, _, _, _, _, _, rfl⟩ := h; rfl
theorem Routed.fabric {c d : Chip} (h : Routed c d) : d.fabric = c.fabric := by obtain ⟨_, _, _, _, _, _, _, _, rfl⟩ := h; rfl
theorem Routed.ports {c d : Chip} (h : Routed c d) : d.ports = c.ports := by obtain ⟨_, _, _, _, _, _, _, _, rfl⟩ := h; rfl
theorem Routed.groups {c d : Chip} (h : Routed c d) : d.groups = c.groups := by obtain ⟨_, _, _, _, _, _, _, _, rfl⟩ := h; rfl
theorem Routed.bridges {c d : Chip} (h : Routed c d) : d.bridges = c.bridges := by obtain ⟨_, _, _, _, _, _, _, _, rfl⟩ := h; rfl
theorem Routed.motors {c d : Chip} (h : Routed c d) : d.motors = c.motors := by obtain ⟨_, _, _, _, _, _, _, _, rfl⟩ := h; rfl
theorem Routed.records {c d : Chip} (h : Routed c d) : d.records = c.records := by obtain ⟨_, _, _, _, _, _, _, _, rfl⟩ := h; rfl
theorem Routed.valves {c d : Chip} (h : Routed c d) : d.valves = c.valves := by obtain ⟨_, _, _, _, _, _, _, _, rfl⟩ := h; rfl
theorem Routed.fans {c d : Chip} (h : Routed c d) : d.fans = c.fans := by obtain ⟨_, _, _, _, _, _, _, _, rfl⟩ := h; rfl
theorem Routed.sampler {c d : Chip} (h : Routed c d) : d.sampler = c.sampler := by obtain ⟨_, _, _, _, _, _, _, _, rfl⟩ := h; rfl
theorem Routed.cal {c d : Chip} (h : Routed c d) : d.cal = c.cal := by obtain ⟨_, _, _, _, _, _, _, _, rfl⟩ := h; rfl
theorem Routed.zones {c d : Chip} (h : Routed c d) : d.zones = c.zones := by obtain ⟨_, _, _, _, _, _, _, _, rfl⟩ := h; rfl
theorem Routed.predictions {c d : Chip} (h : Routed c d) : d.predictions = c.predictions := by obtain ⟨_, _, _, _, _, _, _, _, rfl⟩ := h; rfl
theorem Routed.thermal {c d : Chip} (h : Routed c d) : d.thermal = c.thermal := by obtain ⟨_, _, _, _, _, _, _, _, rfl⟩ := h; rfl
theorem Routed.staleWrites {c d : Chip} (h : Routed c d) : d.staleWrites = c.staleWrites := by obtain ⟨_, _, _, _, _, _, _, _, rfl⟩ := h; rfl
theorem Routed.minSel {c d : Chip} (h : Routed c d) : d.minSel = c.minSel := by obtain ⟨_, _, _, _, _, _, _, _, rfl⟩ := h; rfl
theorem Routed.streams {c d : Chip} (h : Routed c d) : d.streams = c.streams := by obtain ⟨_, _, _, _, _, _, _, _, rfl⟩ := h; rfl
theorem Routed.can {c d : Chip} (h : Routed c d) : d.can = c.can := by obtain ⟨_, _, _, _, _, _, _, _, rfl⟩ := h; rfl
theorem Routed.panels {c d : Chip} (h : Routed c d) : d.panels = c.panels := by obtain ⟨_, _, _, _, _, _, _, _, rfl⟩ := h; rfl
theorem Routed.plate {c d : Chip} (h : Routed c d) : d.plate = c.plate := by obtain ⟨_, _, _, _, _, _, _, _, rfl⟩ := h; rfl
theorem Routed.selftest {c d : Chip} (h : Routed c d) : d.selftest = c.selftest := by obtain ⟨_, _, _, _, _, _, _, _, rfl⟩ := h; rfl
theorem Routed.freeCount {c d : Chip} (h : Routed c d) : d.freeCount = c.freeCount := by obtain ⟨_, _, _, _, _, _, _, _, rfl⟩ := h; rfl
theorem Routed.power_eq {c d : Chip} (h : Routed c d) : ∃ le, d.power = { c.power with lateEvents := le } := by
  obtain ⟨_, _, _, _, _, _, _, _, rfl⟩ := h; exact ⟨_, rfl⟩
theorem Routed.power_of {α : Type} {c d : Chip} (h : Routed c d) (f : PowerSt → α)
    (hf : ∀ p le, f { p with lateEvents := le } = f p) : f d.power = f c.power := by
  obtain ⟨_, _, _, _, _, _, _, _, rfl⟩ := h; exact hf _ _
theorem Routed.up {c d : Chip} (h : Routed c d) : d.power.main.up = c.power.main.up := h.power_of (·.main.up) (fun _ _ => rfl)
@[simp] theorem Chip.fire_fuses (e x : Nat) : (c.fire e x).fuses = c.fuses := (fire_routed _ _ _).fuses
@[simp] theorem Chip.fire_clk (e x : Nat) : (c.fire e x).clk = c.clk := (fire_routed _ _ _).clk
@[simp] theorem Chip.fire_slots (e x : Nat) : (c.fire e x).slots = c.slots := (fire_routed _ _ _).slots
@[simp] theorem Chip.fire_overrides (e x : Nat) : (c.fire e x).overrides = c.overrides := (fire_routed _ _ _).overrides
@[simp] theorem Chip.fire_produced (e x : Nat) : (c.fire e x).produced = c.produced := (fire_routed _ _ _).produced
@[simp] theorem Chip.fire_slotWrites (e x : Nat) : (c.fire e x).slotWrites = c.slotWrites := (fire_routed _ _ _).slotWrites
@[simp] theorem Chip.fire_attrs (e x : Nat) : (c.fire e x).attrs = c.attrs := (fire_routed _ _ _).attrs
@[simp] theorem Chip.fire_existing (e x : Nat) : (c.fire e x).existing = c.existing := (fire_routed _ _ _).existing
@[simp] theorem Chip.fire_gens (e x : Nat) : (c.fire e x).gens = c.gens := (fire_routed _ _ _).gens
@[simp] theorem Chip.fire_owners (e x : Nat) : (c.fire e x).owners = c.owners := (fire_routed _ _ _).owners
@[simp] theorem Chip.fire_sessions (e x : Nat) : (c.fire e x).sessions = c.sessions := (fire_routed _ _ _).sessions
@[simp] theorem Chip.fire_staged (e x : Nat) : (c.fire e x).staged = c.staged := (fire_routed _ _ _).staged
@[simp] theorem Chip.fire_lives (e x : Nat) : (c.fire e x).lives = c.lives := (fire_routed _ _ _).lives
@[simp] theorem Chip.fire_cmds (e x : Nat) : (c.fire e x).cmds = c.cmds := (fire_routed _ _ _).cmds
@[simp] theorem Chip.fire_remoteIn (e x : Nat) : (c.fire e x).remoteIn = c.remoteIn := (fire_routed _ _ _).remoteIn
@[simp] theorem Chip.fire_foldS (e x : Nat) : (c.fire e x).foldS = c.foldS := (fire_routed _ _ _).foldS
@[simp] theorem Chip.fire_foldD (e x : Nat) : (c.fire e x).foldD = c.foldD := (fire_routed _ _ _).foldD
@[simp] theorem Chip.fire_host (e x : Nat) : (c.fire e x).host = c.host := (fire_routed _ _ _).host
@[simp] theorem Chip.fire_dogs (e x : Nat) : (c.fire e x).dogs = c.dogs := (fire_routed _ _ _).dogs
@[simp] theorem Chip.fire_firmware (e x : Nat) : (c.fire e x).firmware = c.firmware := (fire_routed _ _ _).firmware
@[simp] theorem Chip.fire_image (e x : Nat) : (c.fire e x).image = c.image := (fire_routed _ _ _).image
@[simp] theorem Chip.fire_flash (e x : Nat) : (c.fire e x).flash = c.flash := (fire_routed _ _ _).flash
@[simp] theorem Chip.fire_rtc (e x : Nat) : (c.fire e x).rtc = c.rtc := (fire_routed _ _ _).rtc
@[simp] theorem Chip.fire_almanac (e x : Nat) : (c.fire e x).almanac = c.almanac := (fire_routed _ _ _).almanac
@[simp] theorem Chip.fire_links (e x : Nat) : (c.fire e x).links = c.links := (fire_routed _ _ _).links
@[simp] theorem Chip.fire_fabric (e x : Nat) : (c.fire e x).fabric = c.fabric := (fire_routed _ _ _).fabric
@[simp] theorem Chip.fire_ports (e x : Nat) : (c.fire e x).ports = c.ports := (fire_routed _ _ _).ports
@[simp] theorem Chip.fire_groups (e x : Nat) : (c.fire e x).groups = c.groups := (fire_routed _ _ _).groups
@[simp] theorem Chip.fire_bridges (e x : Nat) : (c.fire e x).bridges = c.bridges := (fire_routed _ _ _).bridges
@[simp] theorem Chip.fire_motors (e x : Nat) : (c.fire e x).motors = c.motors := (fire_routed _ _ _).motors
@[simp] theorem Chip.fire_records (e x : Nat) : (c.fire e x).records = c.records := (fire_routed _ _ _).records
@[simp] theorem Chip.fire_valves (e x : Nat) : (c.fire e x).valves = c.valves := (fire_routed _ _ _).valves
@[simp] theorem Chip.fire_fans (e x : Nat) : (c.fire e x).fans = c.fans := (fire_routed _ _ _).fans
@[simp] theorem Chip.fire_sampler (e x : Nat) : (c.fire e x).sampler = c.sampler := (fire_routed _ _ _).sampler
@[simp] theorem Chip.fire_cal (e x : Nat) : (c.fire e x).cal = c.cal := (fire_routed _ _ _).cal
@[simp] theorem Chip.fire_zones (e x : Nat) : (c.fire e x).zones = c.zones := (fire_routed _ _ _).zones
@[simp] theorem Chip.fire_predictions (e x : Nat) : (c.fire e x).predictions = c.predictions := (fire_routed _ _ _).predictions
@[simp] theorem Chip.fire_thermal (e x : Nat) : (c.fire e x).thermal = c.thermal := (fire_routed _ _ _).thermal
@[simp] theorem Chip.fire_staleWrites (e x : Nat) : (c.fire e x).staleWrites = c.staleWrites := (fire_routed _ _ _).staleWrites
@[simp] theorem Chip.fire_minSel (e x : Nat) : (c.fire e x).minSel = c.minSel := (fire_routed _ _ _).minSel
@[simp] theorem Chip.fire_streams (e x : Nat) : (c.fire e x).streams = c.streams := (fire_routed _ _ _).streams
@[simp] theorem Chip.fire_can (e x : Nat) : (c.fire e x).can = c.can := (fire_routed _ _ _).can
@[simp] theorem Chip.fire_panels (e x : Nat) : (c.fire e x).panels = c.panels := (fire_routed _ _ _).panels
@[simp] theorem Chip.fire_plate (e x : Nat) : (c.fire e x).plate = c.plate := (fire_routed _ _ _).plate
@[simp] theorem Chip.fire_selftest (e x : Nat) : (c.fire e x).selftest = c.selftest := (fire_routed _ _ _).selftest
@[simp] theorem Chip.fire_freeCount (e x : Nat) : (c.fire e x).freeCount = c.freeCount := (fire_routed _ _ _).freeCount
@[simp] theorem Chip.fire_main (e x : Nat) : (c.fire e x).power.main = c.power.main := (fire_routed _ _ _).power_of (·.main) (fun _ _ => rfl)
@[simp] theorem Chip.fireWith_fuses (e : Nat) (x y : Word) : (c.fireWith e x y).fuses = c.fuses := (fireWith_routed _ _ _ _).fuses
@[simp] theorem Chip.fireWith_clk (e : Nat) (x y : Word) : (c.fireWith e x y).clk = c.clk := (fireWith_routed _ _ _ _).clk
@[simp] theorem Chip.fireWith_slots (e : Nat) (x y : Word) : (c.fireWith e x y).slots = c.slots := (fireWith_routed _ _ _ _).slots
@[simp] theorem Chip.fireWith_overrides (e : Nat) (x y : Word) : (c.fireWith e x y).overrides = c.overrides := (fireWith_routed _ _ _ _).overrides
@[simp] theorem Chip.fireWith_produced (e : Nat) (x y : Word) : (c.fireWith e x y).produced = c.produced := (fireWith_routed _ _ _ _).produced
@[simp] theorem Chip.fireWith_slotWrites (e : Nat) (x y : Word) : (c.fireWith e x y).slotWrites = c.slotWrites := (fireWith_routed _ _ _ _).slotWrites
@[simp] theorem Chip.fireWith_attrs (e : Nat) (x y : Word) : (c.fireWith e x y).attrs = c.attrs := (fireWith_routed _ _ _ _).attrs
@[simp] theorem Chip.fireWith_existing (e : Nat) (x y : Word) : (c.fireWith e x y).existing = c.existing := (fireWith_routed _ _ _ _).existing
@[simp] theorem Chip.fireWith_gens (e : Nat) (x y : Word) : (c.fireWith e x y).gens = c.gens := (fireWith_routed _ _ _ _).gens
@[simp] theorem Chip.fireWith_owners (e : Nat) (x y : Word) : (c.fireWith e x y).owners = c.owners := (fireWith_routed _ _ _ _).owners
@[simp] theorem Chip.fireWith_sessions (e : Nat) (x y : Word) : (c.fireWith e x y).sessions = c.sessions := (fireWith_routed _ _ _ _).sessions
@[simp] theorem Chip.fireWith_staged (e : Nat) (x y : Word) : (c.fireWith e x y).staged = c.staged := (fireWith_routed _ _ _ _).staged
@[simp] theorem Chip.fireWith_lives (e : Nat) (x y : Word) : (c.fireWith e x y).lives = c.lives := (fireWith_routed _ _ _ _).lives
@[simp] theorem Chip.fireWith_cmds (e : Nat) (x y : Word) : (c.fireWith e x y).cmds = c.cmds := (fireWith_routed _ _ _ _).cmds
@[simp] theorem Chip.fireWith_remoteIn (e : Nat) (x y : Word) : (c.fireWith e x y).remoteIn = c.remoteIn := (fireWith_routed _ _ _ _).remoteIn
@[simp] theorem Chip.fireWith_foldS (e : Nat) (x y : Word) : (c.fireWith e x y).foldS = c.foldS := (fireWith_routed _ _ _ _).foldS
@[simp] theorem Chip.fireWith_foldD (e : Nat) (x y : Word) : (c.fireWith e x y).foldD = c.foldD := (fireWith_routed _ _ _ _).foldD
@[simp] theorem Chip.fireWith_host (e : Nat) (x y : Word) : (c.fireWith e x y).host = c.host := (fireWith_routed _ _ _ _).host
@[simp] theorem Chip.fireWith_dogs (e : Nat) (x y : Word) : (c.fireWith e x y).dogs = c.dogs := (fireWith_routed _ _ _ _).dogs
@[simp] theorem Chip.fireWith_firmware (e : Nat) (x y : Word) : (c.fireWith e x y).firmware = c.firmware := (fireWith_routed _ _ _ _).firmware
@[simp] theorem Chip.fireWith_image (e : Nat) (x y : Word) : (c.fireWith e x y).image = c.image := (fireWith_routed _ _ _ _).image
@[simp] theorem Chip.fireWith_flash (e : Nat) (x y : Word) : (c.fireWith e x y).flash = c.flash := (fireWith_routed _ _ _ _).flash
@[simp] theorem Chip.fireWith_rtc (e : Nat) (x y : Word) : (c.fireWith e x y).rtc = c.rtc := (fireWith_routed _ _ _ _).rtc
@[simp] theorem Chip.fireWith_almanac (e : Nat) (x y : Word) : (c.fireWith e x y).almanac = c.almanac := (fireWith_routed _ _ _ _).almanac
@[simp] theorem Chip.fireWith_links (e : Nat) (x y : Word) : (c.fireWith e x y).links = c.links := (fireWith_routed _ _ _ _).links
@[simp] theorem Chip.fireWith_fabric (e : Nat) (x y : Word) : (c.fireWith e x y).fabric = c.fabric := (fireWith_routed _ _ _ _).fabric
@[simp] theorem Chip.fireWith_ports (e : Nat) (x y : Word) : (c.fireWith e x y).ports = c.ports := (fireWith_routed _ _ _ _).ports
@[simp] theorem Chip.fireWith_groups (e : Nat) (x y : Word) : (c.fireWith e x y).groups = c.groups := (fireWith_routed _ _ _ _).groups
@[simp] theorem Chip.fireWith_bridges (e : Nat) (x y : Word) : (c.fireWith e x y).bridges = c.bridges := (fireWith_routed _ _ _ _).bridges
@[simp] theorem Chip.fireWith_motors (e : Nat) (x y : Word) : (c.fireWith e x y).motors = c.motors := (fireWith_routed _ _ _ _).motors
@[simp] theorem Chip.fireWith_records (e : Nat) (x y : Word) : (c.fireWith e x y).records = c.records := (fireWith_routed _ _ _ _).records
@[simp] theorem Chip.fireWith_valves (e : Nat) (x y : Word) : (c.fireWith e x y).valves = c.valves := (fireWith_routed _ _ _ _).valves
@[simp] theorem Chip.fireWith_fans (e : Nat) (x y : Word) : (c.fireWith e x y).fans = c.fans := (fireWith_routed _ _ _ _).fans
@[simp] theorem Chip.fireWith_sampler (e : Nat) (x y : Word) : (c.fireWith e x y).sampler = c.sampler := (fireWith_routed _ _ _ _).sampler
@[simp] theorem Chip.fireWith_cal (e : Nat) (x y : Word) : (c.fireWith e x y).cal = c.cal := (fireWith_routed _ _ _ _).cal
@[simp] theorem Chip.fireWith_zones (e : Nat) (x y : Word) : (c.fireWith e x y).zones = c.zones := (fireWith_routed _ _ _ _).zones
@[simp] theorem Chip.fireWith_predictions (e : Nat) (x y : Word) : (c.fireWith e x y).predictions = c.predictions := (fireWith_routed _ _ _ _).predictions
@[simp] theorem Chip.fireWith_thermal (e : Nat) (x y : Word) : (c.fireWith e x y).thermal = c.thermal := (fireWith_routed _ _ _ _).thermal
@[simp] theorem Chip.fireWith_staleWrites (e : Nat) (x y : Word) : (c.fireWith e x y).staleWrites = c.staleWrites := (fireWith_routed _ _ _ _).staleWrites
@[simp] theorem Chip.fireWith_minSel (e : Nat) (x y : Word) : (c.fireWith e x y).minSel = c.minSel := (fireWith_routed _ _ _ _).minSel
@[simp] theorem Chip.fireWith_streams (e : Nat) (x y : Word) : (c.fireWith e x y).streams = c.streams := (fireWith_routed _ _ _ _).streams
@[simp] theorem Chip.fireWith_can (e : Nat) (x y : Word) : (c.fireWith e x y).can = c.can := (fireWith_routed _ _ _ _).can
@[simp] theorem Chip.fireWith_panels (e : Nat) (x y : Word) : (c.fireWith e x y).panels = c.panels := (fireWith_routed _ _ _ _).panels
@[simp] theorem Chip.fireWith_plate (e : Nat) (x y : Word) : (c.fireWith e x y).plate = c.plate := (fireWith_routed _ _ _ _).plate
@[simp] theorem Chip.fireWith_selftest (e : Nat) (x y : Word) : (c.fireWith e x y).selftest = c.selftest := (fireWith_routed _ _ _ _).selftest
@[simp] theorem Chip.fireWith_freeCount (e : Nat) (x y : Word) : (c.fireWith e x y).freeCount = c.freeCount := (fireWith_routed _ _ _ _).freeCount
@[simp] theorem Chip.fireWith_main (e : Nat) (x y : Word) : (c.fireWith e x y).power.main = c.power.main := (fireWith_routed _ _ _ _).power_of (·.main) (fun _ _ => rfl)
@[simp] theorem Chip.powerLimit_fuses (k h : Nat) : (c.powerLimit k h).fuses = c.fuses := (powerLimit_routed _ _ _).fuses
@[simp] theorem Chip.powerLimit_clk (k h : Nat) : (c.powerLimit k h).clk = c.clk := (powerLimit_routed _ _ _).clk
@[simp] theorem Chip.powerLimit_slots (k h : Nat) : (c.powerLimit k h).slots = c.slots := (powerLimit_routed _ _ _).slots
@[simp] theorem Chip.powerLimit_overrides (k h : Nat) : (c.powerLimit k h).overrides = c.overrides := (powerLimit_routed _ _ _).overrides
@[simp] theorem Chip.powerLimit_produced (k h : Nat) : (c.powerLimit k h).produced = c.produced := (powerLimit_routed _ _ _).produced
@[simp] theorem Chip.powerLimit_slotWrites (k h : Nat) : (c.powerLimit k h).slotWrites = c.slotWrites := (powerLimit_routed _ _ _).slotWrites
@[simp] theorem Chip.powerLimit_attrs (k h : Nat) : (c.powerLimit k h).attrs = c.attrs := (powerLimit_routed _ _ _).attrs
@[simp] theorem Chip.powerLimit_existing (k h : Nat) : (c.powerLimit k h).existing = c.existing := (powerLimit_routed _ _ _).existing
@[simp] theorem Chip.powerLimit_gens (k h : Nat) : (c.powerLimit k h).gens = c.gens := (powerLimit_routed _ _ _).gens
@[simp] theorem Chip.powerLimit_owners (k h : Nat) : (c.powerLimit k h).owners = c.owners := (powerLimit_routed _ _ _).owners
@[simp] theorem Chip.powerLimit_sessions (k h : Nat) : (c.powerLimit k h).sessions = c.sessions := (powerLimit_routed _ _ _).sessions
@[simp] theorem Chip.powerLimit_staged (k h : Nat) : (c.powerLimit k h).staged = c.staged := (powerLimit_routed _ _ _).staged
@[simp] theorem Chip.powerLimit_lives (k h : Nat) : (c.powerLimit k h).lives = c.lives := (powerLimit_routed _ _ _).lives
@[simp] theorem Chip.powerLimit_cmds (k h : Nat) : (c.powerLimit k h).cmds = c.cmds := (powerLimit_routed _ _ _).cmds
@[simp] theorem Chip.powerLimit_remoteIn (k h : Nat) : (c.powerLimit k h).remoteIn = c.remoteIn := (powerLimit_routed _ _ _).remoteIn
@[simp] theorem Chip.powerLimit_foldS (k h : Nat) : (c.powerLimit k h).foldS = c.foldS := (powerLimit_routed _ _ _).foldS
@[simp] theorem Chip.powerLimit_foldD (k h : Nat) : (c.powerLimit k h).foldD = c.foldD := (powerLimit_routed _ _ _).foldD
@[simp] theorem Chip.powerLimit_host (k h : Nat) : (c.powerLimit k h).host = c.host := (powerLimit_routed _ _ _).host
@[simp] theorem Chip.powerLimit_dogs (k h : Nat) : (c.powerLimit k h).dogs = c.dogs := (powerLimit_routed _ _ _).dogs
@[simp] theorem Chip.powerLimit_firmware (k h : Nat) : (c.powerLimit k h).firmware = c.firmware := (powerLimit_routed _ _ _).firmware
@[simp] theorem Chip.powerLimit_image (k h : Nat) : (c.powerLimit k h).image = c.image := (powerLimit_routed _ _ _).image
@[simp] theorem Chip.powerLimit_flash (k h : Nat) : (c.powerLimit k h).flash = c.flash := (powerLimit_routed _ _ _).flash
@[simp] theorem Chip.powerLimit_rtc (k h : Nat) : (c.powerLimit k h).rtc = c.rtc := (powerLimit_routed _ _ _).rtc
@[simp] theorem Chip.powerLimit_almanac (k h : Nat) : (c.powerLimit k h).almanac = c.almanac := (powerLimit_routed _ _ _).almanac
@[simp] theorem Chip.powerLimit_links (k h : Nat) : (c.powerLimit k h).links = c.links := (powerLimit_routed _ _ _).links
@[simp] theorem Chip.powerLimit_fabric (k h : Nat) : (c.powerLimit k h).fabric = c.fabric := (powerLimit_routed _ _ _).fabric
@[simp] theorem Chip.powerLimit_ports (k h : Nat) : (c.powerLimit k h).ports = c.ports := (powerLimit_routed _ _ _).ports
@[simp] theorem Chip.powerLimit_groups (k h : Nat) : (c.powerLimit k h).groups = c.groups := (powerLimit_routed _ _ _).groups
@[simp] theorem Chip.powerLimit_bridges (k h : Nat) : (c.powerLimit k h).bridges = c.bridges := (powerLimit_routed _ _ _).bridges
@[simp] theorem Chip.powerLimit_motors (k h : Nat) : (c.powerLimit k h).motors = c.motors := (powerLimit_routed _ _ _).motors
@[simp] theorem Chip.powerLimit_records (k h : Nat) : (c.powerLimit k h).records = c.records := (powerLimit_routed _ _ _).records
@[simp] theorem Chip.powerLimit_valves (k h : Nat) : (c.powerLimit k h).valves = c.valves := (powerLimit_routed _ _ _).valves
@[simp] theorem Chip.powerLimit_fans (k h : Nat) : (c.powerLimit k h).fans = c.fans := (powerLimit_routed _ _ _).fans
@[simp] theorem Chip.powerLimit_sampler (k h : Nat) : (c.powerLimit k h).sampler = c.sampler := (powerLimit_routed _ _ _).sampler
@[simp] theorem Chip.powerLimit_cal (k h : Nat) : (c.powerLimit k h).cal = c.cal := (powerLimit_routed _ _ _).cal
@[simp] theorem Chip.powerLimit_zones (k h : Nat) : (c.powerLimit k h).zones = c.zones := (powerLimit_routed _ _ _).zones
@[simp] theorem Chip.powerLimit_predictions (k h : Nat) : (c.powerLimit k h).predictions = c.predictions := (powerLimit_routed _ _ _).predictions
@[simp] theorem Chip.powerLimit_thermal (k h : Nat) : (c.powerLimit k h).thermal = c.thermal := (powerLimit_routed _ _ _).thermal
@[simp] theorem Chip.powerLimit_staleWrites (k h : Nat) : (c.powerLimit k h).staleWrites = c.staleWrites := (powerLimit_routed _ _ _).staleWrites
@[simp] theorem Chip.powerLimit_minSel (k h : Nat) : (c.powerLimit k h).minSel = c.minSel := (powerLimit_routed _ _ _).minSel
@[simp] theorem Chip.powerLimit_streams (k h : Nat) : (c.powerLimit k h).streams = c.streams := (powerLimit_routed _ _ _).streams
@[simp] theorem Chip.powerLimit_can (k h : Nat) : (c.powerLimit k h).can = c.can := (powerLimit_routed _ _ _).can
@[simp] theorem Chip.powerLimit_panels (k h : Nat) : (c.powerLimit k h).panels = c.panels := (powerLimit_routed _ _ _).panels
@[simp] theorem Chip.powerLimit_plate (k h : Nat) : (c.powerLimit k h).plate = c.plate := (powerLimit_routed _ _ _).plate
@[simp] theorem Chip.powerLimit_selftest (k h : Nat) : (c.powerLimit k h).selftest = c.selftest := (powerLimit_routed _ _ _).selftest
@[simp] theorem Chip.powerLimit_freeCount (k h : Nat) : (c.powerLimit k h).freeCount = c.freeCount := (powerLimit_routed _ _ _).freeCount
@[simp] theorem Chip.powerLimit_main (k h : Nat) : (c.powerLimit k h).power.main = c.power.main := (powerLimit_routed _ _ _).power_of (·.main) (fun _ _ => rfl)
@[simp] theorem Chip.notify_fuses (q : Nat) : (c.notify q).fuses = c.fuses := (notify_routed _ _).fuses
@[simp] theorem Chip.notify_clk (q : Nat) : (c.notify q).clk = c.clk := (notify_routed _ _).clk
@[simp] theorem Chip.notify_slots (q : Nat) : (c.notify q).slots = c.slots := (notify_routed _ _).slots
@[simp] theorem Chip.notify_overrides (q : Nat) : (c.notify q).overrides = c.overrides := (notify_routed _ _).overrides
@[simp] theorem Chip.notify_produced (q : Nat) : (c.notify q).produced = c.produced := (notify_routed _ _).produced
@[simp] theorem Chip.notify_slotWrites (q : Nat) : (c.notify q).slotWrites = c.slotWrites := (notify_routed _ _).slotWrites
@[simp] theorem Chip.notify_attrs (q : Nat) : (c.notify q).attrs = c.attrs := (notify_routed _ _).attrs
@[simp] theorem Chip.notify_existing (q : Nat) : (c.notify q).existing = c.existing := (notify_routed _ _).existing
@[simp] theorem Chip.notify_gens (q : Nat) : (c.notify q).gens = c.gens := (notify_routed _ _).gens
@[simp] theorem Chip.notify_owners (q : Nat) : (c.notify q).owners = c.owners := (notify_routed _ _).owners
@[simp] theorem Chip.notify_sessions (q : Nat) : (c.notify q).sessions = c.sessions := (notify_routed _ _).sessions
@[simp] theorem Chip.notify_staged (q : Nat) : (c.notify q).staged = c.staged := (notify_routed _ _).staged
@[simp] theorem Chip.notify_lives (q : Nat) : (c.notify q).lives = c.lives := (notify_routed _ _).lives
@[simp] theorem Chip.notify_cmds (q : Nat) : (c.notify q).cmds = c.cmds := (notify_routed _ _).cmds
@[simp] theorem Chip.notify_remoteIn (q : Nat) : (c.notify q).remoteIn = c.remoteIn := (notify_routed _ _).remoteIn
@[simp] theorem Chip.notify_foldS (q : Nat) : (c.notify q).foldS = c.foldS := (notify_routed _ _).foldS
@[simp] theorem Chip.notify_foldD (q : Nat) : (c.notify q).foldD = c.foldD := (notify_routed _ _).foldD
@[simp] theorem Chip.notify_host (q : Nat) : (c.notify q).host = c.host := (notify_routed _ _).host
@[simp] theorem Chip.notify_dogs (q : Nat) : (c.notify q).dogs = c.dogs := (notify_routed _ _).dogs
@[simp] theorem Chip.notify_firmware (q : Nat) : (c.notify q).firmware = c.firmware := (notify_routed _ _).firmware
@[simp] theorem Chip.notify_image (q : Nat) : (c.notify q).image = c.image := (notify_routed _ _).image
@[simp] theorem Chip.notify_flash (q : Nat) : (c.notify q).flash = c.flash := (notify_routed _ _).flash
@[simp] theorem Chip.notify_rtc (q : Nat) : (c.notify q).rtc = c.rtc := (notify_routed _ _).rtc
@[simp] theorem Chip.notify_almanac (q : Nat) : (c.notify q).almanac = c.almanac := (notify_routed _ _).almanac
@[simp] theorem Chip.notify_links (q : Nat) : (c.notify q).links = c.links := (notify_routed _ _).links
@[simp] theorem Chip.notify_fabric (q : Nat) : (c.notify q).fabric = c.fabric := (notify_routed _ _).fabric
@[simp] theorem Chip.notify_ports (q : Nat) : (c.notify q).ports = c.ports := (notify_routed _ _).ports
@[simp] theorem Chip.notify_groups (q : Nat) : (c.notify q).groups = c.groups := (notify_routed _ _).groups
@[simp] theorem Chip.notify_bridges (q : Nat) : (c.notify q).bridges = c.bridges := (notify_routed _ _).bridges
@[simp] theorem Chip.notify_motors (q : Nat) : (c.notify q).motors = c.motors := (notify_routed _ _).motors
@[simp] theorem Chip.notify_records (q : Nat) : (c.notify q).records = c.records := (notify_routed _ _).records
@[simp] theorem Chip.notify_valves (q : Nat) : (c.notify q).valves = c.valves := (notify_routed _ _).valves
@[simp] theorem Chip.notify_fans (q : Nat) : (c.notify q).fans = c.fans := (notify_routed _ _).fans
@[simp] theorem Chip.notify_sampler (q : Nat) : (c.notify q).sampler = c.sampler := (notify_routed _ _).sampler
@[simp] theorem Chip.notify_cal (q : Nat) : (c.notify q).cal = c.cal := (notify_routed _ _).cal
@[simp] theorem Chip.notify_zones (q : Nat) : (c.notify q).zones = c.zones := (notify_routed _ _).zones
@[simp] theorem Chip.notify_predictions (q : Nat) : (c.notify q).predictions = c.predictions := (notify_routed _ _).predictions
@[simp] theorem Chip.notify_thermal (q : Nat) : (c.notify q).thermal = c.thermal := (notify_routed _ _).thermal
@[simp] theorem Chip.notify_staleWrites (q : Nat) : (c.notify q).staleWrites = c.staleWrites := (notify_routed _ _).staleWrites
@[simp] theorem Chip.notify_minSel (q : Nat) : (c.notify q).minSel = c.minSel := (notify_routed _ _).minSel
@[simp] theorem Chip.notify_streams (q : Nat) : (c.notify q).streams = c.streams := (notify_routed _ _).streams
@[simp] theorem Chip.notify_can (q : Nat) : (c.notify q).can = c.can := (notify_routed _ _).can
@[simp] theorem Chip.notify_panels (q : Nat) : (c.notify q).panels = c.panels := (notify_routed _ _).panels
@[simp] theorem Chip.notify_plate (q : Nat) : (c.notify q).plate = c.plate := (notify_routed _ _).plate
@[simp] theorem Chip.notify_selftest (q : Nat) : (c.notify q).selftest = c.selftest := (notify_routed _ _).selftest
@[simp] theorem Chip.notify_freeCount (q : Nat) : (c.notify q).freeCount = c.freeCount := (notify_routed _ _).freeCount
@[simp] theorem Chip.notify_main (q : Nat) : (c.notify q).power.main = c.power.main := (notify_routed _ _).power_of (·.main) (fun _ _ => rfl)
@[simp] theorem Chip.deliver_fuses (q cls : Nat) (b : List Byte) (n : Word) : (c.deliver q cls b n).fuses = c.fuses := (deliver_routed _ _ _ _ _).fuses
@[simp] theorem Chip.deliver_clk (q cls : Nat) (b : List Byte) (n : Word) : (c.deliver q cls b n).clk = c.clk := (deliver_routed _ _ _ _ _).clk
@[simp] theorem Chip.deliver_slots (q cls : Nat) (b : List Byte) (n : Word) : (c.deliver q cls b n).slots = c.slots := (deliver_routed _ _ _ _ _).slots
@[simp] theorem Chip.deliver_overrides (q cls : Nat) (b : List Byte) (n : Word) : (c.deliver q cls b n).overrides = c.overrides := (deliver_routed _ _ _ _ _).overrides
@[simp] theorem Chip.deliver_produced (q cls : Nat) (b : List Byte) (n : Word) : (c.deliver q cls b n).produced = c.produced := (deliver_routed _ _ _ _ _).produced
@[simp] theorem Chip.deliver_slotWrites (q cls : Nat) (b : List Byte) (n : Word) : (c.deliver q cls b n).slotWrites = c.slotWrites := (deliver_routed _ _ _ _ _).slotWrites
@[simp] theorem Chip.deliver_attrs (q cls : Nat) (b : List Byte) (n : Word) : (c.deliver q cls b n).attrs = c.attrs := (deliver_routed _ _ _ _ _).attrs
@[simp] theorem Chip.deliver_existing (q cls : Nat) (b : List Byte) (n : Word) : (c.deliver q cls b n).existing = c.existing := (deliver_routed _ _ _ _ _).existing
@[simp] theorem Chip.deliver_gens (q cls : Nat) (b : List Byte) (n : Word) : (c.deliver q cls b n).gens = c.gens := (deliver_routed _ _ _ _ _).gens
@[simp] theorem Chip.deliver_owners (q cls : Nat) (b : List Byte) (n : Word) : (c.deliver q cls b n).owners = c.owners := (deliver_routed _ _ _ _ _).owners
@[simp] theorem Chip.deliver_sessions (q cls : Nat) (b : List Byte) (n : Word) : (c.deliver q cls b n).sessions = c.sessions := (deliver_routed _ _ _ _ _).sessions
@[simp] theorem Chip.deliver_staged (q cls : Nat) (b : List Byte) (n : Word) : (c.deliver q cls b n).staged = c.staged := (deliver_routed _ _ _ _ _).staged
@[simp] theorem Chip.deliver_lives (q cls : Nat) (b : List Byte) (n : Word) : (c.deliver q cls b n).lives = c.lives := (deliver_routed _ _ _ _ _).lives
@[simp] theorem Chip.deliver_cmds (q cls : Nat) (b : List Byte) (n : Word) : (c.deliver q cls b n).cmds = c.cmds := (deliver_routed _ _ _ _ _).cmds
@[simp] theorem Chip.deliver_remoteIn (q cls : Nat) (b : List Byte) (n : Word) : (c.deliver q cls b n).remoteIn = c.remoteIn := (deliver_routed _ _ _ _ _).remoteIn
@[simp] theorem Chip.deliver_foldS (q cls : Nat) (b : List Byte) (n : Word) : (c.deliver q cls b n).foldS = c.foldS := (deliver_routed _ _ _ _ _).foldS
@[simp] theorem Chip.deliver_foldD (q cls : Nat) (b : List Byte) (n : Word) : (c.deliver q cls b n).foldD = c.foldD := (deliver_routed _ _ _ _ _).foldD
@[simp] theorem Chip.deliver_host (q cls : Nat) (b : List Byte) (n : Word) : (c.deliver q cls b n).host = c.host := (deliver_routed _ _ _ _ _).host
@[simp] theorem Chip.deliver_dogs (q cls : Nat) (b : List Byte) (n : Word) : (c.deliver q cls b n).dogs = c.dogs := (deliver_routed _ _ _ _ _).dogs
@[simp] theorem Chip.deliver_firmware (q cls : Nat) (b : List Byte) (n : Word) : (c.deliver q cls b n).firmware = c.firmware := (deliver_routed _ _ _ _ _).firmware
@[simp] theorem Chip.deliver_image (q cls : Nat) (b : List Byte) (n : Word) : (c.deliver q cls b n).image = c.image := (deliver_routed _ _ _ _ _).image
@[simp] theorem Chip.deliver_flash (q cls : Nat) (b : List Byte) (n : Word) : (c.deliver q cls b n).flash = c.flash := (deliver_routed _ _ _ _ _).flash
@[simp] theorem Chip.deliver_rtc (q cls : Nat) (b : List Byte) (n : Word) : (c.deliver q cls b n).rtc = c.rtc := (deliver_routed _ _ _ _ _).rtc
@[simp] theorem Chip.deliver_almanac (q cls : Nat) (b : List Byte) (n : Word) : (c.deliver q cls b n).almanac = c.almanac := (deliver_routed _ _ _ _ _).almanac
@[simp] theorem Chip.deliver_links (q cls : Nat) (b : List Byte) (n : Word) : (c.deliver q cls b n).links = c.links := (deliver_routed _ _ _ _ _).links
@[simp] theorem Chip.deliver_fabric (q cls : Nat) (b : List Byte) (n : Word) : (c.deliver q cls b n).fabric = c.fabric := (deliver_routed _ _ _ _ _).fabric
@[simp] theorem Chip.deliver_ports (q cls : Nat) (b : List Byte) (n : Word) : (c.deliver q cls b n).ports = c.ports := (deliver_routed _ _ _ _ _).ports
@[simp] theorem Chip.deliver_groups (q cls : Nat) (b : List Byte) (n : Word) : (c.deliver q cls b n).groups = c.groups := (deliver_routed _ _ _ _ _).groups
@[simp] theorem Chip.deliver_bridges (q cls : Nat) (b : List Byte) (n : Word) : (c.deliver q cls b n).bridges = c.bridges := (deliver_routed _ _ _ _ _).bridges
@[simp] theorem Chip.deliver_motors (q cls : Nat) (b : List Byte) (n : Word) : (c.deliver q cls b n).motors = c.motors := (deliver_routed _ _ _ _ _).motors
@[simp] theorem Chip.deliver_records (q cls : Nat) (b : List Byte) (n : Word) : (c.deliver q cls b n).records = c.records := (deliver_routed _ _ _ _ _).records
@[simp] theorem Chip.deliver_valves (q cls : Nat) (b : List Byte) (n : Word) : (c.deliver q cls b n).valves = c.valves := (deliver_routed _ _ _ _ _).valves
@[simp] theorem Chip.deliver_fans (q cls : Nat) (b : List Byte) (n : Word) : (c.deliver q cls b n).fans = c.fans := (deliver_routed _ _ _ _ _).fans
@[simp] theorem Chip.deliver_sampler (q cls : Nat) (b : List Byte) (n : Word) : (c.deliver q cls b n).sampler = c.sampler := (deliver_routed _ _ _ _ _).sampler
@[simp] theorem Chip.deliver_cal (q cls : Nat) (b : List Byte) (n : Word) : (c.deliver q cls b n).cal = c.cal := (deliver_routed _ _ _ _ _).cal
@[simp] theorem Chip.deliver_zones (q cls : Nat) (b : List Byte) (n : Word) : (c.deliver q cls b n).zones = c.zones := (deliver_routed _ _ _ _ _).zones
@[simp] theorem Chip.deliver_predictions (q cls : Nat) (b : List Byte) (n : Word) : (c.deliver q cls b n).predictions = c.predictions := (deliver_routed _ _ _ _ _).predictions
@[simp] theorem Chip.deliver_thermal (q cls : Nat) (b : List Byte) (n : Word) : (c.deliver q cls b n).thermal = c.thermal := (deliver_routed _ _ _ _ _).thermal
@[simp] theorem Chip.deliver_staleWrites (q cls : Nat) (b : List Byte) (n : Word) : (c.deliver q cls b n).staleWrites = c.staleWrites := (deliver_routed _ _ _ _ _).staleWrites
@[simp] theorem Chip.deliver_minSel (q cls : Nat) (b : List Byte) (n : Word) : (c.deliver q cls b n).minSel = c.minSel := (deliver_routed _ _ _ _ _).minSel
@[simp] theorem Chip.deliver_streams (q cls : Nat) (b : List Byte) (n : Word) : (c.deliver q cls b n).streams = c.streams := (deliver_routed _ _ _ _ _).streams
@[simp] theorem Chip.deliver_can (q cls : Nat) (b : List Byte) (n : Word) : (c.deliver q cls b n).can = c.can := (deliver_routed _ _ _ _ _).can
@[simp] theorem Chip.deliver_panels (q cls : Nat) (b : List Byte) (n : Word) : (c.deliver q cls b n).panels = c.panels := (deliver_routed _ _ _ _ _).panels
@[simp] theorem Chip.deliver_plate (q cls : Nat) (b : List Byte) (n : Word) : (c.deliver q cls b n).plate = c.plate := (deliver_routed _ _ _ _ _).plate
@[simp] theorem Chip.deliver_selftest (q cls : Nat) (b : List Byte) (n : Word) : (c.deliver q cls b n).selftest = c.selftest := (deliver_routed _ _ _ _ _).selftest
@[simp] theorem Chip.deliver_freeCount (q cls : Nat) (b : List Byte) (n : Word) : (c.deliver q cls b n).freeCount = c.freeCount := (deliver_routed _ _ _ _ _).freeCount
@[simp] theorem Chip.deliver_main (q cls : Nat) (b : List Byte) (n : Word) : (c.deliver q cls b n).power.main = c.power.main := (deliver_routed _ _ _ _ _).power_of (·.main) (fun _ _ => rfl)
@[simp] theorem Chip.arrive_fuses (q cls : Nat) (b : List Byte) (n : Word) : (c.arrive q cls b n).fuses = c.fuses := (arrive_routed _ _ _ _ _).fuses
@[simp] theorem Chip.arrive_clk (q cls : Nat) (b : List Byte) (n : Word) : (c.arrive q cls b n).clk = c.clk := (arrive_routed _ _ _ _ _).clk
@[simp] theorem Chip.arrive_slots (q cls : Nat) (b : List Byte) (n : Word) : (c.arrive q cls b n).slots = c.slots := (arrive_routed _ _ _ _ _).slots
@[simp] theorem Chip.arrive_overrides (q cls : Nat) (b : List Byte) (n : Word) : (c.arrive q cls b n).overrides = c.overrides := (arrive_routed _ _ _ _ _).overrides
@[simp] theorem Chip.arrive_produced (q cls : Nat) (b : List Byte) (n : Word) : (c.arrive q cls b n).produced = c.produced := (arrive_routed _ _ _ _ _).produced
@[simp] theorem Chip.arrive_slotWrites (q cls : Nat) (b : List Byte) (n : Word) : (c.arrive q cls b n).slotWrites = c.slotWrites := (arrive_routed _ _ _ _ _).slotWrites
@[simp] theorem Chip.arrive_attrs (q cls : Nat) (b : List Byte) (n : Word) : (c.arrive q cls b n).attrs = c.attrs := (arrive_routed _ _ _ _ _).attrs
@[simp] theorem Chip.arrive_existing (q cls : Nat) (b : List Byte) (n : Word) : (c.arrive q cls b n).existing = c.existing := (arrive_routed _ _ _ _ _).existing
@[simp] theorem Chip.arrive_gens (q cls : Nat) (b : List Byte) (n : Word) : (c.arrive q cls b n).gens = c.gens := (arrive_routed _ _ _ _ _).gens
@[simp] theorem Chip.arrive_owners (q cls : Nat) (b : List Byte) (n : Word) : (c.arrive q cls b n).owners = c.owners := (arrive_routed _ _ _ _ _).owners
@[simp] theorem Chip.arrive_sessions (q cls : Nat) (b : List Byte) (n : Word) : (c.arrive q cls b n).sessions = c.sessions := (arrive_routed _ _ _ _ _).sessions
@[simp] theorem Chip.arrive_staged (q cls : Nat) (b : List Byte) (n : Word) : (c.arrive q cls b n).staged = c.staged := (arrive_routed _ _ _ _ _).staged
@[simp] theorem Chip.arrive_lives (q cls : Nat) (b : List Byte) (n : Word) : (c.arrive q cls b n).lives = c.lives := (arrive_routed _ _ _ _ _).lives
@[simp] theorem Chip.arrive_cmds (q cls : Nat) (b : List Byte) (n : Word) : (c.arrive q cls b n).cmds = c.cmds := (arrive_routed _ _ _ _ _).cmds
@[simp] theorem Chip.arrive_remoteIn (q cls : Nat) (b : List Byte) (n : Word) : (c.arrive q cls b n).remoteIn = c.remoteIn := (arrive_routed _ _ _ _ _).remoteIn
@[simp] theorem Chip.arrive_foldS (q cls : Nat) (b : List Byte) (n : Word) : (c.arrive q cls b n).foldS = c.foldS := (arrive_routed _ _ _ _ _).foldS
@[simp] theorem Chip.arrive_foldD (q cls : Nat) (b : List Byte) (n : Word) : (c.arrive q cls b n).foldD = c.foldD := (arrive_routed _ _ _ _ _).foldD
@[simp] theorem Chip.arrive_host (q cls : Nat) (b : List Byte) (n : Word) : (c.arrive q cls b n).host = c.host := (arrive_routed _ _ _ _ _).host
@[simp] theorem Chip.arrive_dogs (q cls : Nat) (b : List Byte) (n : Word) : (c.arrive q cls b n).dogs = c.dogs := (arrive_routed _ _ _ _ _).dogs
@[simp] theorem Chip.arrive_firmware (q cls : Nat) (b : List Byte) (n : Word) : (c.arrive q cls b n).firmware = c.firmware := (arrive_routed _ _ _ _ _).firmware
@[simp] theorem Chip.arrive_image (q cls : Nat) (b : List Byte) (n : Word) : (c.arrive q cls b n).image = c.image := (arrive_routed _ _ _ _ _).image
@[simp] theorem Chip.arrive_flash (q cls : Nat) (b : List Byte) (n : Word) : (c.arrive q cls b n).flash = c.flash := (arrive_routed _ _ _ _ _).flash
@[simp] theorem Chip.arrive_rtc (q cls : Nat) (b : List Byte) (n : Word) : (c.arrive q cls b n).rtc = c.rtc := (arrive_routed _ _ _ _ _).rtc
@[simp] theorem Chip.arrive_almanac (q cls : Nat) (b : List Byte) (n : Word) : (c.arrive q cls b n).almanac = c.almanac := (arrive_routed _ _ _ _ _).almanac
@[simp] theorem Chip.arrive_links (q cls : Nat) (b : List Byte) (n : Word) : (c.arrive q cls b n).links = c.links := (arrive_routed _ _ _ _ _).links
@[simp] theorem Chip.arrive_fabric (q cls : Nat) (b : List Byte) (n : Word) : (c.arrive q cls b n).fabric = c.fabric := (arrive_routed _ _ _ _ _).fabric
@[simp] theorem Chip.arrive_ports (q cls : Nat) (b : List Byte) (n : Word) : (c.arrive q cls b n).ports = c.ports := (arrive_routed _ _ _ _ _).ports
@[simp] theorem Chip.arrive_groups (q cls : Nat) (b : List Byte) (n : Word) : (c.arrive q cls b n).groups = c.groups := (arrive_routed _ _ _ _ _).groups
@[simp] theorem Chip.arrive_bridges (q cls : Nat) (b : List Byte) (n : Word) : (c.arrive q cls b n).bridges = c.bridges := (arrive_routed _ _ _ _ _).bridges
@[simp] theorem Chip.arrive_motors (q cls : Nat) (b : List Byte) (n : Word) : (c.arrive q cls b n).motors = c.motors := (arrive_routed _ _ _ _ _).motors
@[simp] theorem Chip.arrive_records (q cls : Nat) (b : List Byte) (n : Word) : (c.arrive q cls b n).records = c.records := (arrive_routed _ _ _ _ _).records
@[simp] theorem Chip.arrive_valves (q cls : Nat) (b : List Byte) (n : Word) : (c.arrive q cls b n).valves = c.valves := (arrive_routed _ _ _ _ _).valves
@[simp] theorem Chip.arrive_fans (q cls : Nat) (b : List Byte) (n : Word) : (c.arrive q cls b n).fans = c.fans := (arrive_routed _ _ _ _ _).fans
@[simp] theorem Chip.arrive_sampler (q cls : Nat) (b : List Byte) (n : Word) : (c.arrive q cls b n).sampler = c.sampler := (arrive_routed _ _ _ _ _).sampler
@[simp] theorem Chip.arrive_cal (q cls : Nat) (b : List Byte) (n : Word) : (c.arrive q cls b n).cal = c.cal := (arrive_routed _ _ _ _ _).cal
@[simp] theorem Chip.arrive_zones (q cls : Nat) (b : List Byte) (n : Word) : (c.arrive q cls b n).zones = c.zones := (arrive_routed _ _ _ _ _).zones
@[simp] theorem Chip.arrive_predictions (q cls : Nat) (b : List Byte) (n : Word) : (c.arrive q cls b n).predictions = c.predictions := (arrive_routed _ _ _ _ _).predictions
@[simp] theorem Chip.arrive_thermal (q cls : Nat) (b : List Byte) (n : Word) : (c.arrive q cls b n).thermal = c.thermal := (arrive_routed _ _ _ _ _).thermal
@[simp] theorem Chip.arrive_staleWrites (q cls : Nat) (b : List Byte) (n : Word) : (c.arrive q cls b n).staleWrites = c.staleWrites := (arrive_routed _ _ _ _ _).staleWrites
@[simp] theorem Chip.arrive_minSel (q cls : Nat) (b : List Byte) (n : Word) : (c.arrive q cls b n).minSel = c.minSel := (arrive_routed _ _ _ _ _).minSel
@[simp] theorem Chip.arrive_streams (q cls : Nat) (b : List Byte) (n : Word) : (c.arrive q cls b n).streams = c.streams := (arrive_routed _ _ _ _ _).streams
@[simp] theorem Chip.arrive_can (q cls : Nat) (b : List Byte) (n : Word) : (c.arrive q cls b n).can = c.can := (arrive_routed _ _ _ _ _).can
@[simp] theorem Chip.arrive_panels (q cls : Nat) (b : List Byte) (n : Word) : (c.arrive q cls b n).panels = c.panels := (arrive_routed _ _ _ _ _).panels
@[simp] theorem Chip.arrive_plate (q cls : Nat) (b : List Byte) (n : Word) : (c.arrive q cls b n).plate = c.plate := (arrive_routed _ _ _ _ _).plate
@[simp] theorem Chip.arrive_selftest (q cls : Nat) (b : List Byte) (n : Word) : (c.arrive q cls b n).selftest = c.selftest := (arrive_routed _ _ _ _ _).selftest
@[simp] theorem Chip.arrive_freeCount (q cls : Nat) (b : List Byte) (n : Word) : (c.arrive q cls b n).freeCount = c.freeCount := (arrive_routed _ _ _ _ _).freeCount
@[simp] theorem Chip.arrive_main (q cls : Nat) (b : List Byte) (n : Word) : (c.arrive q cls b n).power.main = c.power.main := (arrive_routed _ _ _ _ _).power_of (·.main) (fun _ _ => rfl)

end Sys2Proof.Machine
end

