-- ==== Sys2Proof/Laws/Memory.lean ====
section
/-! SUPPORT. The module's memories: every operation on queue rings, flash and backup RAM keeps their canonical form, and a
ring reads back what was written into it. -/

namespace Sys2Proof.Machine

/-! ### Rings -/

/-- A run written into a ring and past its end reads back as it was written, and lies in the ring. -/
theorem ringRead_ringWrite (s : QueueSt) (i : Nat) (bs : List Byte) (ring : Tbl Byte) (h : bs.length ≤ s.ringBytes)
    (ho : s.offsetOf i ≤ s.ringBytes) : ringRead s i bs.length (ringWrite s i bs ring) = bs := by
  simp only [ringRead, ringWrite]
  generalize hr : s.ringBytes - s.offsetOf i = room
  by_cases hb : bs.length ≤ room
  · have hd : bs.drop room = [] := List.drop_eq_nil_of_le hb
    have ht : bs.take room = bs := List.take_of_length_le hb
    rw [hd, ht, Nat.min_eq_left hb, Nat.sub_eq_zero_of_le hb]
    simp [Tbl.getRun, Tbl.setRun, Tbl.getRun_setRun]
  · have hb' : room < bs.length := by omega
    have hl : (bs.take room).length = room := by simp; omega
    have hd : (bs.drop room).length = bs.length - room := by simp
    rw [Nat.min_eq_right (by omega)]
    have h2 : Tbl.getRun dByte0 (Tbl.setRun dByte0 (Tbl.setRun dByte0 ring (s.base + s.offsetOf i) (bs.take room)) s.base
        (bs.drop room)) s.base (bs.length - room) = bs.drop room := by
      rw [← hd]; exact Tbl.getRun_setRun _ _ _ _
    have h1 : Tbl.getRun dByte0 (Tbl.setRun dByte0 (Tbl.setRun dByte0 ring (s.base + s.offsetOf i) (bs.take room)) s.base
        (bs.drop room)) (s.base + s.offsetOf i) room = bs.take room := by
      rw [Tbl.getRun_congr _ _ (Tbl.setRun dByte0 ring (s.base + s.offsetOf i) (bs.take room))]
      · have := Tbl.getRun_setRun dByte0 (bs.take room) ring (s.base + s.offsetOf i)
        rwa [hl] at this
      · intro j hj
        exact Tbl.get_setRun_other _ _ _ _ _ (Or.inr (by omega))
    rw [h1, h2, List.take_append_drop]

/-- What lies outside a ring stays as it was. -/
theorem ringWrite_outside (s : QueueSt) (i a : Nat) (bs : List Byte) (ring : Tbl Byte) (h : bs.length ≤ s.ringBytes)
    (ha : a < s.base ∨ s.base + s.ringBytes ≤ a) (ho : s.offsetOf i ≤ s.ringBytes) :
    Tbl.get dByte0 (ringWrite s i bs ring) a = Tbl.get dByte0 ring a := by
  simp only [ringWrite]
  rw [Tbl.get_setRun_other, Tbl.get_setRun_other]
  · simp only [List.length_take]; omega
  · simp only [List.length_drop]; omega

theorem ringWrite_wf (s : QueueSt) (i : Nat) (bs : List Byte) (ring : Tbl Byte) (h : Tbl.wf dByte0 ring = true) :
    Tbl.wf dByte0 (ringWrite s i bs ring) = true :=
  Tbl.wf_setRun _ _ _ _ (Tbl.wf_setRun _ _ _ _ h)

/-- The rings stay in canonical form. -/
def RingKept (c d : Chip) : Prop := Tbl.wf dByte0 c.ring = true → Tbl.wf dByte0 d.ring = true

theorem RingKept.refl (c : Chip) : RingKept c c := id
theorem RingKept.trans {a b c : Chip} (h : RingKept a b) (h' : RingKept b c) : RingKept a c := fun x => h' (h x)
theorem RingKept.same {c d : Chip} (h : d.ring = c.ring) : RingKept c d := fun x => by rw [h]; exact x

theorem putRecord_ringKept (q : Nat) (b : List Byte) (c : Chip) : RingKept c (c.putRecord q b) := fun h =>
  ringWrite_wf _ _ _ _ h

theorem mgtRecord_ringKept (q cls : Nat) (b : List Byte) (c : Chip) : RingKept c (c.mgtRecord q cls b) := by
  unfold Chip.mgtRecord
  split
  · exact RingKept.refl _
  split
  · dsimp only
    split
    · exact (putRecord_ringKept q b c).trans (RingKept.same rfl)
    · exact putRecord_ringKept q b c
  · exact RingKept.same rfl

theorem alertEvent_ringKept (e : Nat) (s : EventSt) (c : Chip) : RingKept c (c.alertEvent e s) := by
  unfold Chip.alertEvent
  dsimp only
  refine RingKept.trans ?_ (mgtRecord_ringKept _ _ _ _)
  exact RingKept.same rfl

theorem eventTrigger_ringKept (l : Nat) (c : Chip) : RingKept c (c.eventTrigger l) := by
  unfold Chip.eventTrigger; split <;> exact RingKept.same rfl

theorem fireBare_ringKept (e : Nat) (x : Word) (c : Chip) : RingKept c (c.fireBare e x) := by
  unfold Chip.fireBare
  split
  · exact RingKept.refl _
  split
  · unfold Chip.fireUp
    dsimp only
    have h : RingKept c (c.setEvent e (withOccurrences e ((c.event e).fire x c.stamp (routeQueue (c.route e))))) := RingKept.same rfl
    split <;> split
    · exact (h.trans (alertEvent_ringKept _ _ _)).trans (eventTrigger_ringKept _ _)
    · exact h.trans (eventTrigger_ringKept _ _)
    · exact h.trans (alertEvent_ringKept _ _ _)
    · exact h
  · unfold Chip.fireDown
    dsimp only
    refine RingKept.trans ?_ (alertEvent_ringKept _ _ _)
    exact RingKept.same rfl

theorem logEvent_ringKept (e : Nat) (x d : Word) (c : Chip) : RingKept c (c.logEvent e x d) := by
  simp only [Chip.logEvent]
  refine iteInduction (motive := fun d => RingKept c d) (fun _ => ?_) (fun _ => ?_)
  · exact RingKept.same rfl
  · simp only [Chip.logEntry]
    refine RingKept.trans ?_ (fireBare_ringKept _ _ _)
    refine RingKept.trans ?_ (mgtRecord_ringKept _ _ _ _)
    exact RingKept.same rfl

theorem fireLogged_ringKept (e : Nat) (x d : Word) (c : Chip) : RingKept c (c.fireLogged e x d) := by
  unfold Chip.fireLogged
  split
  · exact RingKept.refl _
  dsimp only
  split
  · exact (fireBare_ringKept _ _ _).trans (logEvent_ringKept _ _ _ _)
  · exact fireBare_ringKept _ _ _

theorem tellLost_ringKept (old : Chip) (q : Nat) (c : Chip) : RingKept c (Chip.tellLost old q c) := by
  unfold Chip.tellLost
  split
  · exact fireLogged_ringKept _ _ _ _
  · exact RingKept.refl _

theorem fireWith_ringKept (e : Nat) (x d : Word) (c : Chip) : RingKept c (c.fireWith e x d) := by
  have h := (fireLogged_ringKept e x d c).trans (tellLost_ringKept c 62 _)
  unfold Chip.fireWith
  dsimp only
  split
  · exact h.trans (fireLogged_ringKept _ _ _ _)
  · exact h

theorem notify_ringKept (q : Nat) (c : Chip) : RingKept c (c.notify q) := by
  have h : RingKept c (c.setQueue q (c.queue q).notified) := RingKept.same rfl
  unfold Chip.notify
  dsimp only
  split
  · exact h.trans (fireWith_ringKept _ _ _ _)
  split
  · exact h.trans (fireWith_ringKept _ _ _ _)
  split
  · exact h.trans (fireWith_ringKept _ _ _ _)
  split
  · exact h.trans (RingKept.same rfl)
  · exact h

theorem deliver_ringKept (q cls : Nat) (b : List Byte) (n : Word) (c : Chip) : RingKept c (c.deliver q cls b n) := by
  have h : RingKept c (c.setQueue q { c.queue q with note := n }) := RingKept.same rfl
  unfold Chip.deliver
  dsimp only
  split
  · exact (h.trans (putRecord_ringKept _ _ _)).trans (notify_ringKept _ _)
  · exact h.trans (putRecord_ringKept _ _ _)

theorem arrive_ringKept (q cls : Nat) (b : List Byte) (n : Word) (c : Chip) : RingKept c (c.arrive q cls b n) := by
  unfold Chip.arrive
  split
  · exact deliver_ringKept _ _ _ _ _
  · refine RingKept.trans ?_ (fireWith_ringKept _ _ _ _)
    exact RingKept.same rfl

/-- What changes nothing but the router's state and keeps the rings keeps every memory of the module. -/
theorem memoriesWf_of_routed {c d : Chip} (h : Routed c d) (hr : RingKept c d) (hw : c.memoriesWf = true) : d.memoriesWf = true := by
  simp only [Chip.memoriesWf, Memory.wf, Bool.and_eq_true] at hw ⊢
  rw [h.flash, h.rtc]
  exact ⟨⟨hr hw.1.1, hw.1.2⟩, hw.2⟩

/-! ### The depth of the queues -/

/-- Every queue keeps its depth: only QUEUE_CONFIG and a reset of the main side set one. -/
def DepthKept (c d : Chip) : Prop := ∀ j, (d.queue j).depth = (c.queue j).depth

theorem DepthKept.refl (c : Chip) : DepthKept c c := fun _ => rfl
theorem DepthKept.trans {a b c : Chip} (h : DepthKept a b) (h' : DepthKept b c) : DepthKept a c := fun j => (h' j).trans (h j)
theorem DepthKept.same {c d : Chip} (h : d.queues = c.queues) : DepthKept c d := fun j => by unfold Chip.queue; rw [h]
theorem DepthKept.setQueue {c : Chip} {q : Nat} {s : QueueSt} (h : s.depth = (c.queue q).depth) : DepthKept c (c.setQueue q s) := fun j => by
  by_cases hj : j = q
  · subst hj; rw [Chip.setQueue_same]; exact h
  · rw [Chip.setQueue_other _ _ _ _ hj]

theorem putRecord_depthKept (q : Nat) (b : List Byte) (c : Chip) : DepthKept c (c.putRecord q b) := (DepthKept.same rfl).trans (DepthKept.setQueue rfl)

theorem mgtRecord_depthKept (q cls : Nat) (b : List Byte) (c : Chip) : DepthKept c (c.mgtRecord q cls b) := by
  unfold Chip.mgtRecord
  split
  · exact DepthKept.refl _
  split
  · dsimp only
    split
    · exact ((putRecord_depthKept q b c).trans (DepthKept.setQueue (q := q) (s := ((c.putRecord q b).queue q).notified) rfl)).trans (DepthKept.same rfl)
    · exact putRecord_depthKept q b c
  · exact DepthKept.setQueue rfl

theorem alertEvent_depthKept (e : Nat) (s : EventSt) (c : Chip) : DepthKept c (c.alertEvent e s) := by
  unfold Chip.alertEvent
  dsimp only
  refine DepthKept.trans ?_ (mgtRecord_depthKept _ _ _ _)
  exact DepthKept.same rfl

theorem eventTrigger_depthKept (l : Nat) (c : Chip) : DepthKept c (c.eventTrigger l) := by
  unfold Chip.eventTrigger; split <;> exact DepthKept.same rfl

theorem fireBare_depthKept (e : Nat) (x : Word) (c : Chip) : DepthKept c (c.fireBare e x) := by
  unfold Chip.fireBare
  split
  · exact DepthKept.refl _
  split
  · unfold Chip.fireUp
    dsimp only
    have h : DepthKept c (c.setEvent e (withOccurrences e ((c.event e).fire x c.stamp (routeQueue (c.route e))))) := DepthKept.same rfl
    split <;> split
    · exact (h.trans (alertEvent_depthKept _ _ _)).trans (eventTrigger_depthKept _ _)
    · exact h.trans (eventTrigger_depthKept _ _)
    · exact h.trans (alertEvent_depthKept _ _ _)
    · exact h
  · unfold Chip.fireDown
    dsimp only
    refine DepthKept.trans ?_ (alertEvent_depthKept _ _ _)
    exact DepthKept.same rfl

theorem logEvent_depthKept (e : Nat) (x d : Word) (c : Chip) : DepthKept c (c.logEvent e x d) := by
  simp only [Chip.logEvent]
  refine iteInduction (motive := fun d => DepthKept c d) (fun _ => ?_) (fun _ => ?_)
  · exact DepthKept.same rfl
  · simp only [Chip.logEntry]
    refine DepthKept.trans ?_ (fireBare_depthKept _ _ _)
    refine DepthKept.trans ?_ (mgtRecord_depthKept _ _ _ _)
    exact DepthKept.same rfl

theorem fireLogged_depthKept (e : Nat) (x d : Word) (c : Chip) : DepthKept c (c.fireLogged e x d) := by
  unfold Chip.fireLogged
  split
  · exact DepthKept.refl _
  dsimp only
  split
  · exact (fireBare_depthKept _ _ _).trans (logEvent_depthKept _ _ _ _)
  · exact fireBare_depthKept _ _ _

theorem tellLost_depthKept (old : Chip) (q : Nat) (c : Chip) : DepthKept c (Chip.tellLost old q c) := by
  unfold Chip.tellLost
  split
  · exact fireLogged_depthKept _ _ _ _
  · exact DepthKept.refl _

theorem fireWith_depthKept (e : Nat) (x d : Word) (c : Chip) : DepthKept c (c.fireWith e x d) := by
  have h := (fireLogged_depthKept e x d c).trans (tellLost_depthKept c 62 _)
  unfold Chip.fireWith
  dsimp only
  split
  · exact h.trans (fireLogged_depthKept _ _ _ _)
  · exact h

theorem notify_depthKept (q : Nat) (c : Chip) : DepthKept c (c.notify q) := by
  have h : DepthKept c (c.setQueue q (c.queue q).notified) := DepthKept.setQueue rfl
  unfold Chip.notify
  dsimp only
  split
  · exact h.trans (fireWith_depthKept _ _ _ _)
  split
  · exact h.trans (fireWith_depthKept _ _ _ _)
  split
  · exact h.trans (fireWith_depthKept _ _ _ _)
  split
  · exact h.trans (DepthKept.same rfl)
  · exact h

theorem deliver_depthKept (q cls : Nat) (b : List Byte) (n : Word) (c : Chip) : DepthKept c (c.deliver q cls b n) := by
  have h : DepthKept c (c.setQueue q { c.queue q with note := n }) := DepthKept.setQueue rfl
  unfold Chip.deliver
  dsimp only
  split
  · exact (h.trans (putRecord_depthKept _ _ _)).trans (notify_depthKept _ _)
  · exact h.trans (putRecord_depthKept _ _ _)

theorem arrive_depthKept (q cls : Nat) (b : List Byte) (n : Word) (c : Chip) : DepthKept c (c.arrive q cls b n) := by
  unfold Chip.arrive
  split
  · exact deliver_depthKept _ _ _ _ _
  · refine DepthKept.trans ?_ (fireWith_depthKept _ _ _ _)
    exact DepthKept.setQueue rfl

/-! ### Flash and backup RAM -/

/-- Programming flash keeps its canonical form. -/
theorem flash_setRun_wf (t : Tbl Byte) (a : Nat) (bs : List Byte) (h : Memory.wf dByteFF t = true) :
    Memory.wf dByteFF (Tbl.setRun dByteFF t a bs) = true := Tbl.wf_setRun _ _ _ _ h

/-- Erasing flash keeps its canonical form. -/
theorem flash_erase_wf (t : Tbl Byte) (lo hi : Nat) (h : Memory.wf dByteFF t = true) :
    Memory.wf dByteFF (Tbl.dropRange t lo hi) = true := Tbl.wf_dropRange _ _ _ _ h

/-- Erasing sectors one by one keeps the canonical form. -/
theorem flash_erases_wf (f : Nat → Nat × Nat) (l : List Nat) (t : Tbl Byte) (h : Memory.wf dByteFF t = true) :
    Memory.wf dByteFF (l.foldl (fun t s => Tbl.dropRange t (f s).1 (f s).2) t) = true := by
  induction l generalizing t with
  | nil => exact h
  | cons s l ih => exact ih _ (flash_erase_wf _ _ _ h)

/-- A write of backup RAM keeps its canonical form. -/
theorem bkp_set_wf (t : Tbl Byte) (a : Nat) (v : Byte) (h : Memory.wf dByte0 t = true) :
    Memory.wf dByte0 (Tbl.set dByte0 t a v) = true := Tbl.wf_set _ _ _ _ h

/-- Reset leaves every memory in canonical form: nothing is listed. -/
theorem reset_memoriesWf : State.reset.chip.memoriesWf = true := rfl

end Sys2Proof.Machine
end

