-- ==== Sys2Proof/Laws/Commands.lean ====
section
/-! SUPPORT. What running a command comes to (spec/02_phiveox_commands.md). -/

namespace Sys2Proof.Machine

/-- What the result of a command's body comes to. -/
def Res.settle (ctx tag : Nat) (k : Cmd) : Res → Chip
  | .done st o data c1 => c1.finish k st o data
  | .accepted c1 => c1.accept k
  | .acceptedDone st o data c1 => (c1.accept k).finishTag ctx tag st o data
  | .waiting c1 => c1.setCmd { k with phase := .running }
  | .held c1 => c1

theorem runCmd_down (fam op : Nat) (body : Cmd → Chip → Res) (ctx tag : Nat) (c : Chip) (h : c.power.main.up = false) :
    c.runCmd fam op body ctx tag = c := by
  simp [Chip.runCmd, h]

theorem runCmd_other (fam op : Nat) (body : Cmd → Chip → Res) (ctx tag : Nat) (c : Chip) (k : Cmd)
    (hf : c.findCmd ctx tag = some k) (h : (k.family == fam && k.opcode == op && c.mayStart k) = false) :
    c.runCmd fam op body ctx tag = c := by
  unfold Chip.runCmd
  simp only [hf, h]
  split <;> simp

theorem runCmd_absent (fam op : Nat) (body : Cmd → Chip → Res) (ctx tag : Nat) (c : Chip) (hf : c.findCmd ctx tag = none) :
    c.runCmd fam op body ctx tag = c := by
  unfold Chip.runCmd
  simp only [hf]
  split <;> rfl

/-- A command whose deadline has passed before it starts ends TIMEOUT (R57). -/
theorem runCmd_late (fam op : Nat) (body : Cmd → Chip → Res) (c : Chip) (k : Cmd) (hu : c.power.main.up = true)
    (hf : c.findCmd k.ctx k.tag = some k) (h1 : k.family = fam) (h2 : k.opcode = op) (hs : c.mayStart k = true)
    (hd : c.pastDeadline k = true) : c.runCmd fam op body k.ctx k.tag = c.finish k stTimeout noOfs [] := by
  unfold Chip.runCmd
  simp [hu, hf, h1, h2, hs, hd]

/-- A command that would change an object of the other side ends NOT_OWNER (R60, R69 check 9). -/
theorem runCmd_notOwner (fam op : Nat) (body : Cmd → Chip → Res) (c : Chip) (k : Cmd) (hu : c.power.main.up = true)
    (hf : c.findCmd k.ctx k.tag = some k) (h1 : k.family = fam) (h2 : k.opcode = op) (hs : c.mayStart k = true)
    (hd : c.pastDeadline k = false) (ho : c.ownerRefuses k = true) :
    c.runCmd fam op body k.ctx k.tag = c.finish k stNotOwner 8 [] := by
  unfold Chip.runCmd
  simp [hu, hf, h1, h2, hs, hd, ho]

/-- A command that may run does what its opcode's body says. -/
theorem runCmd_ready {fam op : Nat} {k : Cmd} {s : State} (h : Ready fam op k s) (body : Cmd → Chip → Res) :
    s.chip.runCmd fam op body k.ctx k.tag = (body k s.chip).settle k.ctx k.tag k := by
  obtain ⟨hu, hf, rfl, rfl, hs, hd, ho, he⟩ := h
  unfold Chip.runCmd
  simp only [hu, hf, hs, hd, ho, he, beq_self_eq_true, Bool.and_self, Bool.not_true, Bool.false_eq_true, if_false]
  cases body k s.chip <;> rfl

/-- A command that names a slot of another node is sent on to it and waits for its reply (R59). -/
theorem runCmd_relayed {fam op : Nat} {k : Cmd} {s : State} (h : Relayed fam op k s) (body : Cmd → Chip → Res) :
    s.chip.runCmd fam op body k.ctx k.tag = (s.chip.relay k).settle k.ctx k.tag k := by
  obtain ⟨hu, hf, rfl, rfl, hs, hd, ho, he⟩ := h
  unfold Chip.runCmd
  simp only [hu, hf, hs, hd, ho, he, beq_self_eq_true, Bool.and_self, Bool.not_true, Bool.false_eq_true, if_false, if_true]
  cases s.chip.relay k <;> rfl

/-- A command's final completion entry, for a host or management context with no close waiting: the entry comes off the
outstanding list, a CAN frame that it still had waiting is forgotten, and the reply arrives on the completion queue, unless QUIET
suppresses an OK (R71, R72). -/
theorem finish_local (k : Cmd) (st o : Nat) (data : List Byte) (c : Chip) (hr : isRemoteCtx k.ctx = false)
    (hc : (c.finalReply k st o data).closingCmd k.ctx = none) :
    c.finish k st o data = if k.quiet && st == stOK then (c.dropCmd k.ctx k.tag).forgetSends k.ctx k.tag
      else ((c.dropCmd k.ctx k.tag).forgetSends k.ctx k.tag).arrive (completionQueue k.ctx) k.cls (replyPacket k st o data) 0 := by
  unfold Chip.finish Chip.completeClosing
  rw [hc]
  simp only [Chip.finalReply, Chip.sendPacket, hr]
  split <;> simp

/-! ### What a reply changes -/

/-- `d` is `c` but for what a reply or a frame that is sent changes: what events and records change, the outstanding commands,
the links, the fabric's waiting frames, and the CAN sends that no longer have a command. -/
def Carried (c d : Chip) : Prop :=
  ∃ ev q r m lp cn lg le li fa cm ca,
    d = { c with events := ev, queues := q, ring := r, mgt := m, loops := lp, counters := cn, log := lg, links := li, fabric := fa, cmds := cm, can := ca, power := { c.power with lateEvents := le } }

theorem Carried.refl (c : Chip) : Carried c c := ⟨_, _, _, _, _, _, _, _, _, _, _, _, rfl⟩

theorem Carried.trans {a b c : Chip} (h : Carried a b) (h' : Carried b c) : Carried a c := by
  obtain ⟨_, _, _, _, _, _, _, _, _, _, _, _, rfl⟩ := h
  obtain ⟨_, _, _, _, _, _, _, _, _, _, _, _, rfl⟩ := h'
  exact ⟨_, _, _, _, _, _, _, _, _, _, _, _, rfl⟩

theorem Routed.carried {c d : Chip} (h : Routed c d) : Carried c d := by
  obtain ⟨_, _, _, _, _, _, _, _, rfl⟩ := h
  exact ⟨_, _, _, _, _, _, _, _, _, _, _, _, rfl⟩

theorem setLink_carried (n : Nat) (s : LinkSt) (c : Chip) : Carried c (c.setLink n s) := ⟨_, _, _, _, _, _, _, _, _, _, _, _, rfl⟩
theorem setFabric_carried (f : FabricSt → FabricSt) (c : Chip) : Carried c (c.setFabric f) := ⟨_, _, _, _, _, _, _, _, _, _, _, _, rfl⟩
theorem setCmd_carried (k : Cmd) (c : Chip) : Carried c (c.setCmd k) := ⟨_, _, _, _, _, _, _, _, _, _, _, _, rfl⟩
theorem dropCmd_carried (x t : Nat) (c : Chip) : Carried c (c.dropCmd x t) := ⟨_, _, _, _, _, _, _, _, _, _, _, _, rfl⟩
theorem forgetSends_carried (x t : Nat) (c : Chip) : Carried c (c.forgetSends x t) := ⟨_, _, _, _, _, _, _, _, _, _, _, _, rfl⟩
theorem sendMsg_carried (n : Nat) (m : LinkMsg) (c : Chip) : Carried c (c.sendMsg n m) := setLink_carried _ _ _
theorem noteError_carried (n k : Nat) (c : Chip) : Carried c (c.noteError n k) := setLink_carried _ _ _
theorem passTx_carried (q : Nat) (b : List Byte) (c : Chip) : Carried c (c.passTx q b) :=
  ((putRecord_routed _ _ _).trans (setQueue_routed _ _ _)).carried

theorem egress_carried (n : Nat) (f : List Byte) (a : Bool) (c : Chip) : Carried c (c.egress n f a) := by
  unfold Chip.egress
  dsimp only
  split
  · exact sendMsg_carried _ _ _
  split
  · exact (setLink_carried _ _ _).trans (sendMsg_carried _ _ _)
  · unfold Chip.fireLinkError
    refine Carried.trans ?_ (fire_routed _ _ _).carried
    refine Carried.trans ?_ (noteError_carried _ _ _)
    exact (setLink_carried _ _ _).trans (sendMsg_carried _ _ _)

theorem sendPhiveox_carried (node cls : Nat) (p : List Byte) (c : Chip) : Carried c (c.sendPhiveox node cls p) := by
  unfold Chip.sendPhiveox
  dsimp only
  generalize (if (cls == 0 && decide (52 < p.length)) = true then 1 else cls) = cl
  split
  · refine iteInduction (motive := fun d => Carried c d) (fun _ => ?_) (fun _ => ?_)
    · exact (passTx_carried _ _ _).trans (egress_carried _ _ _ _)
    · exact setFabric_carried _ _
  · exact setFabric_carried _ _

/-- Writing a reply changes nothing but what `Carried` names. -/
theorem sendPacket_carried (k : Cmd) (p : List Byte) (c : Chip) : Carried c (c.sendPacket k p) := by
  unfold Chip.sendPacket
  split
  · unfold Chip.sendRemote
    split
    · exact sendPhiveox_carried _ _ _ _
    · exact Carried.refl _
  · exact (arrive_routed _ _ _ _ _).carried

theorem finalReply_carried (k : Cmd) (st o : Nat) (data : List Byte) (c : Chip) : Carried c (c.finalReply k st o data) := by
  unfold Chip.finalReply
  dsimp only
  split
  · exact (dropCmd_carried _ _ _).trans (forgetSends_carried _ _ _)
  · exact ((dropCmd_carried _ _ _).trans (forgetSends_carried _ _ _)).trans (sendPacket_carried _ _ _)

theorem accept_carried (k : Cmd) (c : Chip) : Carried c (c.accept k) := (setCmd_carried _ _).trans (sendPacket_carried _ _ _)

theorem sendMsg_cmds (n : Nat) (m : LinkMsg) (c : Chip) : (c.sendMsg n m).cmds = c.cmds := rfl

theorem egress_cmds (n : Nat) (f : List Byte) (a : Bool) (c : Chip) : (c.egress n f a).cmds = c.cmds := by
  unfold Chip.egress
  dsimp only
  split
  · rfl
  split
  · rfl
  · unfold Chip.fireLinkError
    rw [Chip.fire_cmds]
    rfl

theorem sendPhiveox_cmds (node cls : Nat) (p : List Byte) (c : Chip) : (c.sendPhiveox node cls p).cmds = c.cmds := by
  unfold Chip.sendPhiveox
  dsimp only
  generalize (if (cls == 0 && decide (52 < p.length)) = true then 1 else cls) = cl
  split
  · refine iteInduction (motive := fun d => Chip.cmds d = c.cmds) (fun _ => ?_) (fun _ => ?_)
    · rw [egress_cmds]; rfl
    · rfl
  · rfl

theorem sendPacket_cmds (k : Cmd) (p : List Byte) (c : Chip) : (c.sendPacket k p).cmds = c.cmds := by
  unfold Chip.sendPacket
  split
  · unfold Chip.sendRemote
    split
    · exact sendPhiveox_cmds _ _ _ _
    · rfl
  · exact (arrive_routed _ _ _ _ _).cmds

theorem finalReply_cmds (k : Cmd) (st o : Nat) (data : List Byte) (c : Chip) :
    (c.finalReply k st o data).cmds = (c.dropCmd k.ctx k.tag).cmds := by
  unfold Chip.finalReply
  dsimp only
  split
  · rfl
  · exact sendPacket_cmds _ _ _

theorem accept_cmds (k : Cmd) (c : Chip) : ∃ r, (c.accept k).cmds = (c.setCmd { k with phase := .running, reserved := r }).cmds :=
  ⟨_, sendPacket_cmds _ _ _⟩

theorem findCmd_dropCmd (c : Chip) (x t : Nat) : (c.dropCmd x t).findCmd x t = none := by
  unfold Chip.findCmd Chip.dropCmd
  simp only [List.find?_eq_none, List.mem_filter]
  rintro a ⟨_, ha⟩
  revert ha
  cases (a.ctx == x && a.tag == t) <;> simp

/-- An opcode's row answers what its body ends with. -/
theorem answers_of {fam op : Nat} {i : Instr} {k : Cmd} {s : State} {data : List Byte} {c : Chip} (body : Cmd → Chip → Res)
    (h : Ready fam op k s) (hi : exec i s = .next { s with chip := s.chip.runCmd fam op body k.ctx k.tag })
    (hb : body k s.chip = .done stOK noOfs data c) : Answers i k s data c := by
  unfold Answers Leads
  rw [hi, runCmd_ready h, hb]
  rfl

/-- An opcode's row starts the long operation that its body accepts. -/
theorem starts_of {fam op : Nat} {i : Instr} {k : Cmd} {s : State} {c : Chip} (body : Cmd → Chip → Res)
    (h : Ready fam op k s) (hi : exec i s = .next { s with chip := s.chip.runCmd fam op body k.ctx k.tag })
    (hb : body k s.chip = .accepted c) : Starts i k s c := by
  unfold Starts Leads
  rw [hi, runCmd_ready h, hb]
  rfl

variable {c d : Chip}

theorem Carried.fuses (h : Carried c d) : d.fuses = c.fuses := by obtain ⟨_, _, _, _, _, _, _, _, _, _, _, _, rfl⟩ := h; rfl
theorem Carried.clk (h : Carried c d) : d.clk = c.clk := by obtain ⟨_, _, _, _, _, _, _, _, _, _, _, _, rfl⟩ := h; rfl
theorem Carried.slots (h : Carried c d) : d.slots = c.slots := by obtain ⟨_, _, _, _, _, _, _, _, _, _, _, _, rfl⟩ := h; rfl
theorem Carried.overrides (h : Carried c d) : d.overrides = c.overrides := by obtain ⟨_, _, _, _, _, _, _, _, _, _, _, _, rfl⟩ := h; rfl
theorem Carried.produced (h : Carried c d) : d.produced = c.produced := by obtain ⟨_, _, _, _, _, _, _, _, _, _, _, _, rfl⟩ := h; rfl
theorem Carried.slotWrites (h : Carried c d) : d.slotWrites = c.slotWrites := by obtain ⟨_, _, _, _, _, _, _, _, _, _, _, _, rfl⟩ := h; rfl
theorem Carried.attrs (h : Carried c d) : d.attrs = c.attrs := by obtain ⟨_, _, _, _, _, _, _, _, _, _, _, _, rfl⟩ := h; rfl
theorem Carried.existing (h : Carried c d) : d.existing = c.existing := by obtain ⟨_, _, _, _, _, _, _, _, _, _, _, _, rfl⟩ := h; rfl
theorem Carried.gens (h : Carried c d) : d.gens = c.gens := by obtain ⟨_, _, _, _, _, _, _, _, _, _, _, _, rfl⟩ := h; rfl
theorem Carried.owners (h : Carried c d) : d.owners = c.owners := by obtain ⟨_, _, _, _, _, _, _, _, _, _, _, _, rfl⟩ := h; rfl
theorem Carried.sessions (h : Carried c d) : d.sessions = c.sessions := by obtain ⟨_, _, _, _, _, _, _, _, _, _, _, _, rfl⟩ := h; rfl
theorem Carried.staged (h : Carried c d) : d.staged = c.staged := by obtain ⟨_, _, _, _, _, _, _, _, _, _, _, _, rfl⟩ := h; rfl
theorem Carried.lives (h : Carried c d) : d.lives = c.lives := by obtain ⟨_, _, _, _, _, _, _, _, _, _, _, _, rfl⟩ := h; rfl
theorem Carried.remoteIn (h : Carried c d) : d.remoteIn = c.remoteIn := by obtain ⟨_, _, _, _, _, _, _, _, _, _, _, _, rfl⟩ := h; rfl
theorem Carried.foldS (h : Carried c d) : d.foldS = c.foldS := by obtain ⟨_, _, _, _, _, _, _, _, _, _, _, _, rfl⟩ := h; rfl
theorem Carried.foldD (h : Carried c d) : d.foldD = c.foldD := by obtain ⟨_, _, _, _, _, _, _, _, _, _, _, _, rfl⟩ := h; rfl
theorem Carried.host (h : Carried c d) : d.host = c.host := by obtain ⟨_, _, _, _, _, _, _, _, _, _, _, _, rfl⟩ := h; rfl
theorem Carried.dogs (h : Carried c d) : d.dogs = c.dogs := by obtain ⟨_, _, _, _, _, _, _, _, _, _, _, _, rfl⟩ := h; rfl
theorem Carried.firmware (h : Carried c d) : d.firmware = c.firmware := by obtain ⟨_, _, _, _, _, _, _, _, _, _, _, _, rfl⟩ := h; rfl
theorem Carried.image (h : Carried c d) : d.image = c.image := by obtain ⟨_, _, _, _, _, _, _, _, _, _, _, _, rfl⟩ := h; rfl
theorem Carried.flash (h : Carried c d) : d.flash = c.flash := by obtain ⟨_, _, _, _, _, _, _, _, _, _, _, _, rfl⟩ := h; rfl
theorem Carried.rtc (h : Carried c d) : d.rtc = c.rtc := by obtain ⟨_, _, _, _, _, _, _, _, _, _, _, _, rfl⟩ := h; rfl
theorem Carried.almanac (h : Carried c d) : d.almanac = c.almanac := by obtain ⟨_, _, _, _, _, _, _, _, _, _, _, _, rfl⟩ := h; rfl
theorem Carried.ports (h : Carried c d) : d.ports = c.ports := by obtain ⟨_, _, _, _, _, _, _, _, _, _, _, _, rfl⟩ := h; rfl
theorem Carried.groups (h : Carried c d) : d.groups = c.groups := by obtain ⟨_, _, _, _, _, _, _, _, _, _, _, _, rfl⟩ := h; rfl
theorem Carried.bridges (h : Carried c d) : d.bridges = c.bridges := by obtain ⟨_, _, _, _, _, _, _, _, _, _, _, _, rfl⟩ := h; rfl
theorem Carried.motors (h : Carried c d) : d.motors = c.motors := by obtain ⟨_, _, _, _, _, _, _, _, _, _, _, _, rfl⟩ := h; rfl
theorem Carried.records (h : Carried c d) : d.records = c.records := by obtain ⟨_, _, _, _, _, _, _, _, _, _, _, _, rfl⟩ := h; rfl
theorem Carried.valves (h : Carried c d) : d.valves = c.valves := by obtain ⟨_, _, _, _, _, _, _, _, _, _, _, _, rfl⟩ := h; rfl
theorem Carried.fans (h : Carried c d) : d.fans = c.fans := by obtain ⟨_, _, _, _, _, _, _, _, _, _, _, _, rfl⟩ := h; rfl
theorem Carried.sampler (h : Carried c d) : d.sampler = c.sampler := by obtain ⟨_, _, _, _, _, _, _, _, _, _, _, _, rfl⟩ := h; rfl
theorem Carried.cal (h : Carried c d) : d.cal = c.cal := by obtain ⟨_, _, _, _, _, _, _, _, _, _, _, _, rfl⟩ := h; rfl
theorem Carried.zones (h : Carried c d) : d.zones = c.zones := by obtain ⟨_, _, _, _, _, _, _, _, _, _, _, _, rfl⟩ := h; rfl
theorem Carried.predictions (h : Carried c d) : d.predictions = c.predictions := by obtain ⟨_, _, _, _, _, _, _, _, _, _, _, _, rfl⟩ := h; rfl
theorem Carried.thermal (h : Carried c d) : d.thermal = c.thermal := by obtain ⟨_, _, _, _, _, _, _, _, _, _, _, _, rfl⟩ := h; rfl
theorem Carried.staleWrites (h : Carried c d) : d.staleWrites = c.staleWrites := by obtain ⟨_, _, _, _, _, _, _, _, _, _, _, _, rfl⟩ := h; rfl
theorem Carried.minSel (h : Carried c d) : d.minSel = c.minSel := by obtain ⟨_, _, _, _, _, _, _, _, _, _, _, _, rfl⟩ := h; rfl
theorem Carried.streams (h : Carried c d) : d.streams = c.streams := by obtain ⟨_, _, _, _, _, _, _, _, _, _, _, _, rfl⟩ := h; rfl
theorem Carried.panels (h : Carried c d) : d.panels = c.panels := by obtain ⟨_, _, _, _, _, _, _, _, _, _, _, _, rfl⟩ := h; rfl
theorem Carried.plate (h : Carried c d) : d.plate = c.plate := by obtain ⟨_, _, _, _, _, _, _, _, _, _, _, _, rfl⟩ := h; rfl
theorem Carried.selftest (h : Carried c d) : d.selftest = c.selftest := by obtain ⟨_, _, _, _, _, _, _, _, _, _, _, _, rfl⟩ := h; rfl
theorem Carried.freeCount (h : Carried c d) : d.freeCount = c.freeCount := by obtain ⟨_, _, _, _, _, _, _, _, _, _, _, _, rfl⟩ := h; rfl
theorem Carried.power_of {α : Type} (h : Carried c d) (f : PowerSt → α)
    (hf : ∀ p le, f { p with lateEvents := le } = f p) : f d.power = f c.power := by
  obtain ⟨_, _, _, _, _, _, _, _, _, _, _, _, rfl⟩ := h; exact hf _ _
theorem Carried.samePlant (h : Carried c d) : SamePlant c d :=
  ⟨h.slots, h.attrs, h.ports, h.groups, h.bridges, h.motors, h.valves, h.fans, h.zones, h.panels, h.flash⟩
theorem samePlant_trans {a b c : Chip} (h : SamePlant a b) (h' : SamePlant b c) : SamePlant a c := by
  obtain ⟨a1, a2, a3, a4, a5, a6, a7, a8, a9, a10, a11⟩ := h
  obtain ⟨b1, b2, b3, b4, b5, b6, b7, b8, b9, b10, b11⟩ := h'
  exact ⟨b1.trans a1, b2.trans a2, b3.trans a3, b4.trans a4, b5.trans a5, b6.trans a6, b7.trans a7, b8.trans a8, b9.trans a9,
    b10.trans a10, b11.trans a11⟩

theorem Carried.foldl {α : Type} {f : Chip → α → Chip} (hf : ∀ c x, Carried c (f c x)) (l : List α) (c : Chip) :
    Carried c (l.foldl f c) := by
  induction l generalizing c with
  | nil => exact Carried.refl _
  | cons x l ih => exact (hf c x).trans (ih _)

/-! A reply leaves the depth of every queue as it was. -/

theorem setLink_depthKept (n : Nat) (s : LinkSt) (c : Chip) : DepthKept c (c.setLink n s) :=
  DepthKept.same (Chip.setLink_queues _ _ _)

theorem sendMsg_depthKept (n : Nat) (m : LinkMsg) (c : Chip) : DepthKept c (c.sendMsg n m) := setLink_depthKept _ _ _

theorem noteError_depthKept (n kind : Nat) (c : Chip) : DepthKept c (c.noteError n kind) := setLink_depthKept _ _ _

theorem egress_depthKept (n : Nat) (f : List Byte) (a : Bool) (c : Chip) : DepthKept c (c.egress n f a) := by
  unfold Chip.egress
  dsimp only
  split
  · exact sendMsg_depthKept _ _ _
  split
  · exact (setLink_depthKept _ _ _).trans (sendMsg_depthKept _ _ _)
  · unfold Chip.fireLinkError
    exact (((setLink_depthKept _ _ _).trans (sendMsg_depthKept _ _ _)).trans (noteError_depthKept _ _ _)).trans
      (fireWith_depthKept _ _ _ _)

theorem sendPhiveox_depthKept (node cls : Nat) (p : List Byte) (c : Chip) : DepthKept c (c.sendPhiveox node cls p) := by
  unfold Chip.sendPhiveox
  dsimp only
  generalize (if (cls == 0 && decide (52 < p.length)) = true then 1 else cls) = cl
  split
  · refine iteInduction (motive := fun d => DepthKept c d) (fun _ => ?_) (fun _ => DepthKept.same rfl)
    refine DepthKept.trans ?_ (egress_depthKept _ _ _ _)
    exact (putRecord_depthKept _ _ _).trans (DepthKept.setQueue rfl)
  · exact DepthKept.same rfl

theorem finalReply_depthKept (k : Cmd) (st o : Nat) (data : List Byte) (c : Chip) : DepthKept c (c.finalReply k st o data) := by
  have h : DepthKept c ((c.dropCmd k.ctx k.tag).forgetSends k.ctx k.tag) := DepthKept.same rfl
  unfold Chip.finalReply
  dsimp only
  split
  · exact h
  refine h.trans ?_
  generalize (c.dropCmd k.ctx k.tag).forgetSends k.ctx k.tag = d
  unfold Chip.sendPacket
  split
  · unfold Chip.sendRemote
    split
    · exact sendPhiveox_depthKept _ _ _ _
    · exact DepthKept.refl _
  · exact arrive_depthKept _ _ _ _ _

/-- The end of a session closes its streams toward the host, and changes nothing else but what replies change (R61). -/
theorem closeHostStreams_carried (x : Nat) (c : Chip) : Carried { c with streams := c.streams.map (fun e =>
    if e.2.hostCtx == some x then (e.1, { e.2 with state := 0, hostCtx := none, timer := none, closing := [] }) else e) }
    (c.closeHostStreams x) := by
  refine Carried.foldl (fun d t => ?_) _ _
  cases d.findCmd t.1 t.2 with
  | none => exact Carried.refl _
  | some k => exact iteInduction (motive := fun z => Carried d z) (fun _ => Carried.refl _) (fun _ => finalReply_carried _ _ _ _ _)

/-- A session that no stream toward the host belongs to ends without closing one. -/
theorem closeHostStreams_none (x : Nat) (c : Chip) (h : ∀ e ∈ c.streams, (e.2.hostCtx == some x) = false) :
    c.closeHostStreams x = c := by
  unfold Chip.closeHostStreams
  have h1 : c.streams.filter (fun e => e.2.hostCtx == some x) = [] := by
    rw [List.filter_eq_nil_iff]; intro e he; simp [h e he]
  have h2 : c.streams.map (fun e =>
      if e.2.hostCtx == some x then (e.1, { e.2 with state := 0, hostCtx := none, timer := none, closing := [] }) else e) = c.streams := by
    conv_rhs => rw [← List.map_id c.streams]
    refine List.map_congr_left (fun e he => ?_)
    rw [if_neg (by simp [h e he])]; rfl
  dsimp only
  rw [h1, h2]
  rfl

@[simp] theorem endSession_clk (x : Nat) (c : Chip) : (c.endSession x).clk = c.clk := (closeHostStreams_carried x c).clk
theorem endSession_sessions (x : Nat) (c : Chip) : (c.endSession x).sessions = Tbl.set dSession c.sessions x (dSession x) := by
  rw [← show (c.closeHostStreams x).sessions = c.sessions from (closeHostStreams_carried x c).sessions]; rfl
theorem endSession_staged (x : Nat) (c : Chip) : (c.endSession x).staged = Tbl.set dNil c.staged x [] := by
  rw [← show (c.closeHostStreams x).staged = c.staged from (closeHostStreams_carried x c).staged]; rfl
theorem endSession_lives (x : Nat) (c : Chip) : (c.endSession x).lives = Tbl.set dNil c.lives x [] := by
  rw [← show (c.closeHostStreams x).lives = c.lives from (closeHostStreams_carried x c).lives]; rfl
theorem endSession_samePlant (x : Nat) (c : Chip) : SamePlant c (c.endSession x) :=
  have h := (closeHostStreams_carried x c).samePlant
  ⟨h.1, h.2.1, h.2.2.1, h.2.2.2.1, h.2.2.2.2.1, h.2.2.2.2.2.1, h.2.2.2.2.2.2.1, h.2.2.2.2.2.2.2.1, h.2.2.2.2.2.2.2.2.1,
    h.2.2.2.2.2.2.2.2.2.1, h.2.2.2.2.2.2.2.2.2.2⟩

theorem endSession_depthKept (x : Nat) (c : Chip) : DepthKept c (c.endSession x) := by
  refine DepthKept.trans (b := c.closeHostStreams x) ?_ (DepthKept.same rfl)
  unfold Chip.closeHostStreams
  extract_lets mine d
  have h : DepthKept c d := DepthKept.same rfl
  refine h.trans ?_
  clear_value d
  clear h
  generalize mine.flatMap (fun e => e.2.closing) = l
  induction l generalizing d with
  | nil => exact DepthKept.refl _
  | cons t l ih =>
    refine DepthKept.trans ?_ (ih _)
    dsimp only
    split
    · split
      · exact DepthKept.refl _
      · exact finalReply_depthKept _ _ _ _ _
    · exact DepthKept.refl _

end Sys2Proof.Machine
end

