-- ==== Sys2Proof/Laws/Keeps.lean ====
section
/-! SUPPORT. What commands change: which fields of the module an operation may touch, and what none changes: the fuses, time that
has passed, and the canonical form of the memories.  The files Laws/Keeps<File>.lean say both of every operation of
Machine/<File>.lean: `Keeps fs c (op c)` for every set `fs` of fields that holds those the operation may touch. -/

namespace Sys2Proof.Machine

/-- The field `clk` of the module, in a set of fields. -/
abbrev Field.clk : Nat := 0x1
/-- The field `slots` of the module, in a set of fields. -/
abbrev Field.slots : Nat := 0x2
/-- The field `overrides` of the module, in a set of fields. -/
abbrev Field.overrides : Nat := 0x4
/-- The field `produced` of the module, in a set of fields. -/
abbrev Field.produced : Nat := 0x8
/-- The field `slotWrites` of the module, in a set of fields. -/
abbrev Field.slotWrites : Nat := 0x10
/-- The field `attrs` of the module, in a set of fields. -/
abbrev Field.attrs : Nat := 0x20
/-- The field `existing` of the module, in a set of fields. -/
abbrev Field.existing : Nat := 0x40
/-- The field `gens` of the module, in a set of fields. -/
abbrev Field.gens : Nat := 0x80
/-- The field `owners` of the module, in a set of fields. -/
abbrev Field.owners : Nat := 0x100
/-- The field `sessions` of the module, in a set of fields. -/
abbrev Field.sessions : Nat := 0x200
/-- The field `staged` of the module, in a set of fields. -/
abbrev Field.staged : Nat := 0x400
/-- The field `lives` of the module, in a set of fields. -/
abbrev Field.lives : Nat := 0x800
/-- The field `cmds` of the module, in a set of fields. -/
abbrev Field.cmds : Nat := 0x1000
/-- The field `remoteIn` of the module, in a set of fields. -/
abbrev Field.remoteIn : Nat := 0x2000
/-- The field `events` of the module, in a set of fields. -/
abbrev Field.events : Nat := 0x4000
/-- The field `queues` of the module, in a set of fields. -/
abbrev Field.queues : Nat := 0x8000
/-- The field `ring` of the module, in a set of fields. -/
abbrev Field.ring : Nat := 0x10000
/-- The field `foldS` of the module, in a set of fields. -/
abbrev Field.foldS : Nat := 0x20000
/-- The field `foldD` of the module, in a set of fields. -/
abbrev Field.foldD : Nat := 0x40000
/-- The field `host` of the module, in a set of fields. -/
abbrev Field.host : Nat := 0x80000
/-- The field `mgt` of the module, in a set of fields. -/
abbrev Field.mgt : Nat := 0x100000
/-- The field `power` of the module, in a set of fields. -/
abbrev Field.power : Nat := 0x200000
/-- The field `log` of the module, in a set of fields. -/
abbrev Field.log : Nat := 0x400000
/-- The field `counters` of the module, in a set of fields. -/
abbrev Field.counters : Nat := 0x800000
/-- The field `dogs` of the module, in a set of fields. -/
abbrev Field.dogs : Nat := 0x1000000
/-- The field `firmware` of the module, in a set of fields. -/
abbrev Field.firmware : Nat := 0x2000000
/-- The field `image` of the module, in a set of fields. -/
abbrev Field.image : Nat := 0x4000000
/-- The field `flash` of the module, in a set of fields. -/
abbrev Field.flash : Nat := 0x8000000
/-- The field `rtc` of the module, in a set of fields. -/
abbrev Field.rtc : Nat := 0x10000000
/-- The field `almanac` of the module, in a set of fields. -/
abbrev Field.almanac : Nat := 0x20000000
/-- The field `links` of the module, in a set of fields. -/
abbrev Field.links : Nat := 0x40000000
/-- The field `fabric` of the module, in a set of fields. -/
abbrev Field.fabric : Nat := 0x80000000
/-- The field `ports` of the module, in a set of fields. -/
abbrev Field.ports : Nat := 0x100000000
/-- The field `groups` of the module, in a set of fields. -/
abbrev Field.groups : Nat := 0x200000000
/-- The field `bridges` of the module, in a set of fields. -/
abbrev Field.bridges : Nat := 0x400000000
/-- The field `motors` of the module, in a set of fields. -/
abbrev Field.motors : Nat := 0x800000000
/-- The field `records` of the module, in a set of fields. -/
abbrev Field.records : Nat := 0x1000000000
/-- The field `valves` of the module, in a set of fields. -/
abbrev Field.valves : Nat := 0x2000000000
/-- The field `fans` of the module, in a set of fields. -/
abbrev Field.fans : Nat := 0x4000000000
/-- The field `sampler` of the module, in a set of fields. -/
abbrev Field.sampler : Nat := 0x8000000000
/-- The field `cal` of the module, in a set of fields. -/
abbrev Field.cal : Nat := 0x10000000000
/-- The field `zones` of the module, in a set of fields. -/
abbrev Field.zones : Nat := 0x20000000000
/-- The field `predictions` of the module, in a set of fields. -/
abbrev Field.predictions : Nat := 0x40000000000
/-- The field `thermal` of the module, in a set of fields. -/
abbrev Field.thermal : Nat := 0x80000000000
/-- The field `staleWrites` of the module, in a set of fields. -/
abbrev Field.staleWrites : Nat := 0x100000000000
/-- The field `loops` of the module, in a set of fields. -/
abbrev Field.loops : Nat := 0x200000000000
/-- The field `minSel` of the module, in a set of fields. -/
abbrev Field.minSel : Nat := 0x400000000000
/-- The field `streams` of the module, in a set of fields. -/
abbrev Field.streams : Nat := 0x800000000000
/-- The field `can` of the module, in a set of fields. -/
abbrev Field.can : Nat := 0x1000000000000
/-- The field `panels` of the module, in a set of fields. -/
abbrev Field.panels : Nat := 0x2000000000000
/-- The field `plate` of the module, in a set of fields. -/
abbrev Field.plate : Nat := 0x4000000000000
/-- The field `selftest` of the module, in a set of fields. -/
abbrev Field.selftest : Nat := 0x8000000000000
/-- The field `freeCount` of the module, in a set of fields. -/
abbrev Field.freeCount : Nat := 0x10000000000000
/-- Every field but the fuses. -/
abbrev Field.all : Nat := 0x1FFFFFFFFFFFFF
/-- The fields that firing an event may touch: events, queues, ring, mgt, power, log, counters, loops. -/
abbrev Field.routed : Nat := 0x200000F1C000

/-- Every field of the set `a` is in the set `b`. -/
def Within (a b : Nat) : Prop := ∀ i, a.testBit i = true → b.testBit i = true

theorem Within.refl (a : Nat) : Within a a := fun _ h => h

theorem Within.sub {a b c : Nat} (h : Within b c) (hab : a ||| b = b) : Within a c := by
  intro i ha
  apply h i
  rw [← hab, Nat.testBit_or, ha, Bool.true_or]

theorem Within.of {a b : Nat} (hab : a ||| b = b) : Within a b := (Within.refl b).sub hab

/-- A field outside the larger set is outside the smaller one. -/
theorem Within.out {a b i : Nat} {p : Prop} (h : Within a b) (hb : b.testBit i = false) (ha : a.testBit i = true) : p := by
  rw [h i ha] at hb; cases hb

/-- From `c` to `d` no field outside the set `fs` has changed. -/
structure Touches (fs : Nat) (c d : Chip) : Prop where
  clk : fs.testBit 0 = false → d.clk = c.clk
  slots : fs.testBit 1 = false → d.slots = c.slots
  overrides : fs.testBit 2 = false → d.overrides = c.overrides
  produced : fs.testBit 3 = false → d.produced = c.produced
  slotWrites : fs.testBit 4 = false → d.slotWrites = c.slotWrites
  attrs : fs.testBit 5 = false → d.attrs = c.attrs
  existing : fs.testBit 6 = false → d.existing = c.existing
  gens : fs.testBit 7 = false → d.gens = c.gens
  owners : fs.testBit 8 = false → d.owners = c.owners
  sessions : fs.testBit 9 = false → d.sessions = c.sessions
  staged : fs.testBit 10 = false → d.staged = c.staged
  lives : fs.testBit 11 = false → d.lives = c.lives
  cmds : fs.testBit 12 = false → d.cmds = c.cmds
  remoteIn : fs.testBit 13 = false → d.remoteIn = c.remoteIn
  events : fs.testBit 14 = false → d.events = c.events
  queues : fs.testBit 15 = false → d.queues = c.queues
  ring : fs.testBit 16 = false → d.ring = c.ring
  foldS : fs.testBit 17 = false → d.foldS = c.foldS
  foldD : fs.testBit 18 = false → d.foldD = c.foldD
  host : fs.testBit 19 = false → d.host = c.host
  mgt : fs.testBit 20 = false → d.mgt = c.mgt
  power : fs.testBit 21 = false → d.power = c.power
  log : fs.testBit 22 = false → d.log = c.log
  counters : fs.testBit 23 = false → d.counters = c.counters
  dogs : fs.testBit 24 = false → d.dogs = c.dogs
  firmware : fs.testBit 25 = false → d.firmware = c.firmware
  image : fs.testBit 26 = false → d.image = c.image
  flash : fs.testBit 27 = false → d.flash = c.flash
  rtc : fs.testBit 28 = false → d.rtc = c.rtc
  almanac : fs.testBit 29 = false → d.almanac = c.almanac
  links : fs.testBit 30 = false → d.links = c.links
  fabric : fs.testBit 31 = false → d.fabric = c.fabric
  ports : fs.testBit 32 = false → d.ports = c.ports
  groups : fs.testBit 33 = false → d.groups = c.groups
  bridges : fs.testBit 34 = false → d.bridges = c.bridges
  motors : fs.testBit 35 = false → d.motors = c.motors
  records : fs.testBit 36 = false → d.records = c.records
  valves : fs.testBit 37 = false → d.valves = c.valves
  fans : fs.testBit 38 = false → d.fans = c.fans
  sampler : fs.testBit 39 = false → d.sampler = c.sampler
  cal : fs.testBit 40 = false → d.cal = c.cal
  zones : fs.testBit 41 = false → d.zones = c.zones
  predictions : fs.testBit 42 = false → d.predictions = c.predictions
  thermal : fs.testBit 43 = false → d.thermal = c.thermal
  staleWrites : fs.testBit 44 = false → d.staleWrites = c.staleWrites
  loops : fs.testBit 45 = false → d.loops = c.loops
  minSel : fs.testBit 46 = false → d.minSel = c.minSel
  streams : fs.testBit 47 = false → d.streams = c.streams
  can : fs.testBit 48 = false → d.can = c.can
  panels : fs.testBit 49 = false → d.panels = c.panels
  plate : fs.testBit 50 = false → d.plate = c.plate
  selftest : fs.testBit 51 = false → d.selftest = c.selftest
  freeCount : fs.testBit 52 = false → d.freeCount = c.freeCount

theorem Touches.refl (fs : Nat) (c : Chip) : Touches fs c c :=
  ⟨fun _ => rfl, fun _ => rfl, fun _ => rfl, fun _ => rfl, fun _ => rfl, fun _ => rfl, fun _ => rfl, fun _ => rfl, fun _ => rfl, fun _ => rfl, fun _ => rfl, fun _ => rfl, fun _ => rfl, fun _ => rfl, fun _ => rfl, fun _ => rfl, fun _ => rfl, fun _ => rfl, fun _ => rfl, fun _ => rfl, fun _ => rfl, fun _ => rfl, fun _ => rfl, fun _ => rfl, fun _ => rfl, fun _ => rfl, fun _ => rfl, fun _ => rfl, fun _ => rfl, fun _ => rfl, fun _ => rfl, fun _ => rfl, fun _ => rfl, fun _ => rfl, fun _ => rfl, fun _ => rfl, fun _ => rfl, fun _ => rfl, fun _ => rfl, fun _ => rfl, fun _ => rfl, fun _ => rfl, fun _ => rfl, fun _ => rfl, fun _ => rfl, fun _ => rfl, fun _ => rfl, fun _ => rfl, fun _ => rfl, fun _ => rfl, fun _ => rfl, fun _ => rfl, fun _ => rfl⟩

theorem Touches.trans {fs : Nat} {a b c : Chip} (h : Touches fs a b) (h' : Touches fs b c) : Touches fs a c :=
  ⟨fun x => (h'.clk x).trans (h.clk x),
    fun x => (h'.slots x).trans (h.slots x),
    fun x => (h'.overrides x).trans (h.overrides x),
    fun x => (h'.produced x).trans (h.produced x),
    fun x => (h'.slotWrites x).trans (h.slotWrites x),
    fun x => (h'.attrs x).trans (h.attrs x),
    fun x => (h'.existing x).trans (h.existing x),
    fun x => (h'.gens x).trans (h.gens x),
    fun x => (h'.owners x).trans (h.owners x),
    fun x => (h'.sessions x).trans (h.sessions x),
    fun x => (h'.staged x).trans (h.staged x),
    fun x => (h'.lives x).trans (h.lives x),
    fun x => (h'.cmds x).trans (h.cmds x),
    fun x => (h'.remoteIn x).trans (h.remoteIn x),
    fun x => (h'.events x).trans (h.events x),
    fun x => (h'.queues x).trans (h.queues x),
    fun x => (h'.ring x).trans (h.ring x),
    fun x => (h'.foldS x).trans (h.foldS x),
    fun x => (h'.foldD x).trans (h.foldD x),
    fun x => (h'.host x).trans (h.host x),
    fun x => (h'.mgt x).trans (h.mgt x),
    fun x => (h'.power x).trans (h.power x),
    fun x => (h'.log x).trans (h.log x),
    fun x => (h'.counters x).trans (h.counters x),
    fun x => (h'.dogs x).trans (h.dogs x),
    fun x => (h'.firmware x).trans (h.firmware x),
    fun x => (h'.image x).trans (h.image x),
    fun x => (h'.flash x).trans (h.flash x),
    fun x => (h'.rtc x).trans (h.rtc x),
    fun x => (h'.almanac x).trans (h.almanac x),
    fun x => (h'.links x).trans (h.links x),
    fun x => (h'.fabric x).trans (h.fabric x),
    fun x => (h'.ports x).trans (h.ports x),
    fun x => (h'.groups x).trans (h.groups x),
    fun x => (h'.bridges x).trans (h.bridges x),
    fun x => (h'.motors x).trans (h.motors x),
    fun x => (h'.records x).trans (h.records x),
    fun x => (h'.valves x).trans (h.valves x),
    fun x => (h'.fans x).trans (h.fans x),
    fun x => (h'.sampler x).trans (h.sampler x),
    fun x => (h'.cal x).trans (h.cal x),
    fun x => (h'.zones x).trans (h.zones x),
    fun x => (h'.predictions x).trans (h.predictions x),
    fun x => (h'.thermal x).trans (h.thermal x),
    fun x => (h'.staleWrites x).trans (h.staleWrites x),
    fun x => (h'.loops x).trans (h.loops x),
    fun x => (h'.minSel x).trans (h.minSel x),
    fun x => (h'.streams x).trans (h.streams x),
    fun x => (h'.can x).trans (h.can x),
    fun x => (h'.panels x).trans (h.panels x),
    fun x => (h'.plate x).trans (h.plate x),
    fun x => (h'.selftest x).trans (h.selftest x),
    fun x => (h'.freeCount x).trans (h.freeCount x)⟩

/-- From `c` to `d` no field outside the set `fs` has changed, the fuses are unchanged, time has not run back, and the memories
keep their canonical form. -/
structure Keeps (fs : Nat) (c d : Chip) : Prop where
  fuses : d.fuses = c.fuses
  now : c.clk.now ≤ d.clk.now
  memories : c.memoriesWf = true → d.memoriesWf = true
  touches : Touches fs c d

variable {fs : Nat}

theorem Keeps.refl (c : Chip) : Keeps fs c c := ⟨rfl, Nat.le_refl _, id, Touches.refl _ _⟩

theorem Keeps.trans {a b c : Chip} (h : Keeps fs a b) (h' : Keeps fs b c) : Keeps fs a c :=
  ⟨h'.1.trans h.1, Nat.le_trans h.2 h'.2, fun x => h'.3 (h.3 x), h.4.trans h'.4⟩

/-- A change of anything but fuses, clocks, rings, flash and the backup domain. -/
theorem Keeps.update {a b : Chip} {slots : Tbl Slot} {overrides : Tbl Override} {produced : Tbl Slot} {slotWrites : Tbl Nat} {attrs : Tbl (List Byte)} {existing : Tbl Bool} {gens : Tbl Nat} {owners : Tbl Bool} {sessions : Tbl Session} {staged : Tbl (List Staged)} {lives : Tbl (List StagedLife)} {cmds : List Cmd} {remoteIn : Tbl (List (List Byte))} {events : Tbl EventSt} {queues : Tbl QueueSt} {foldS : FoldSt} {foldD : FoldSt} {host : HostSt} {mgt : MgtSt} {power : PowerSt} {log : LogSt} {counters : CounterSt} {dogs : DogSt} {firmware : FirmwareSt} {image : ImageSt} {almanac : AlmanacSt} {links : Tbl LinkSt} {fabric : FabricSt} {ports : Tbl PortSt} {groups : Tbl GroupSt} {bridges : Tbl BridgeSt} {motors : Tbl MotorSt} {records : Tbl DamperRecord} {valves : Tbl ValveSt} {fans : Tbl FanSt} {sampler : SamplerSt} {cal : CalSt} {zones : Tbl ZoneSt} {predictions : List Predict} {thermal : ThermalSt} {staleWrites : Tbl SlotNote} {loops : Tbl LoopSt} {minSel : Tbl GroupSel} {streams : Tbl StreamSt} {can : Tbl CanSt} {panels : Tbl PanelSt} {plate : PlateSt} {selftest : Option (Nat × Nat × Nat)} {freeCount : Nat} (h : Keeps fs a b)
    (ht : Touches fs b ⟨b.fuses, b.clk, slots, overrides, produced, slotWrites, attrs, existing, gens, owners, sessions, staged, lives, cmds, remoteIn, events, queues, b.ring, foldS, foldD, host, mgt, power, log, counters, dogs, firmware, image, b.flash, b.rtc, almanac, links, fabric, ports, groups, bridges, motors, records, valves, fans, sampler, cal, zones, predictions, thermal, staleWrites, loops, minSel, streams, can, panels, plate, selftest, freeCount⟩) :
    Keeps fs a ⟨b.fuses, b.clk, slots, overrides, produced, slotWrites, attrs, existing, gens, owners, sessions, staged, lives, cmds, remoteIn, events, queues, b.ring, foldS, foldD, host, mgt, power, log, counters, dogs, firmware, image, b.flash, b.rtc, almanac, links, fabric, ports, groups, bridges, motors, records, valves, fans, sampler, cal, zones, predictions, thermal, staleWrites, loops, minSel, streams, can, panels, plate, selftest, freeCount⟩ :=
  h.trans ⟨rfl, Nat.le_refl _, id, ht⟩

/-- A change of anything but the fuses: time does not run back, and what is written to a memory keeps its form. -/
theorem Keeps.change {a b : Chip} {clk : Clocks} {slots : Tbl Slot} {overrides : Tbl Override} {produced : Tbl Slot} {slotWrites : Tbl Nat} {attrs : Tbl (List Byte)} {existing : Tbl Bool} {gens : Tbl Nat} {owners : Tbl Bool} {sessions : Tbl Session} {staged : Tbl (List Staged)} {lives : Tbl (List StagedLife)} {cmds : List Cmd} {remoteIn : Tbl (List (List Byte))} {events : Tbl EventSt} {queues : Tbl QueueSt} {ring : Tbl Byte} {foldS : FoldSt} {foldD : FoldSt} {host : HostSt} {mgt : MgtSt} {power : PowerSt} {log : LogSt} {counters : CounterSt} {dogs : DogSt} {firmware : FirmwareSt} {image : ImageSt} {flash : Tbl Byte} {rtc : RtcSt} {almanac : AlmanacSt} {links : Tbl LinkSt} {fabric : FabricSt} {ports : Tbl PortSt} {groups : Tbl GroupSt} {bridges : Tbl BridgeSt} {motors : Tbl MotorSt} {records : Tbl DamperRecord} {valves : Tbl ValveSt} {fans : Tbl FanSt} {sampler : SamplerSt} {cal : CalSt} {zones : Tbl ZoneSt} {predictions : List Predict} {thermal : ThermalSt} {staleWrites : Tbl SlotNote} {loops : Tbl LoopSt} {minSel : Tbl GroupSel} {streams : Tbl StreamSt} {can : Tbl CanSt} {panels : Tbl PanelSt} {plate : PlateSt} {selftest : Option (Nat × Nat × Nat)} {freeCount : Nat} (h : Keeps fs a b)
    (ht : Touches fs b ⟨b.fuses, clk, slots, overrides, produced, slotWrites, attrs, existing, gens, owners, sessions, staged, lives, cmds, remoteIn, events, queues, ring, foldS, foldD, host, mgt, power, log, counters, dogs, firmware, image, flash, rtc, almanac, links, fabric, ports, groups, bridges, motors, records, valves, fans, sampler, cal, zones, predictions, thermal, staleWrites, loops, minSel, streams, can, panels, plate, selftest, freeCount⟩)
    (hc : b.clk.now ≤ clk.now) (hr : Tbl.wf dByte0 b.ring = true → Tbl.wf dByte0 ring = true)
    (hf : Tbl.wf dByteFF b.flash = true → Tbl.wf dByteFF flash = true)
    (hb : Tbl.wf dByte0 b.rtc.bkp = true → Tbl.wf dByte0 rtc.bkp = true) :
    Keeps fs a ⟨b.fuses, clk, slots, overrides, produced, slotWrites, attrs, existing, gens, owners, sessions, staged, lives, cmds, remoteIn, events, queues, ring, foldS, foldD, host, mgt, power, log, counters, dogs, firmware, image, flash, rtc, almanac, links, fabric, ports, groups, bridges, motors, records, valves, fans, sampler, cal, zones, predictions, thermal, staleWrites, loops, minSel, streams, can, panels, plate, selftest, freeCount⟩ :=
  h.trans ⟨rfl, hc, by
    simp only [Chip.memoriesWf, Memory.wf, Bool.and_eq_true]
    exact fun x => ⟨⟨hr x.1.1, hf x.1.2⟩, hb x.2⟩, ht⟩

theorem Keeps.routed {c d : Chip} (hm : Within Field.routed fs) (h : Routed c d) (hr : RingKept c d) : Keeps fs c d :=
  ⟨h.fuses, by rw [h.clk], memoriesWf_of_routed h hr, by
    refine ⟨fun _ => h.clk,
      fun _ => h.slots,
      fun _ => h.overrides,
      fun _ => h.produced,
      fun _ => h.slotWrites,
      fun _ => h.attrs,
      fun _ => h.existing,
      fun _ => h.gens,
      fun _ => h.owners,
      fun _ => h.sessions,
      fun _ => h.staged,
      fun _ => h.lives,
      fun _ => h.cmds,
      fun _ => h.remoteIn,
      fun x => hm.out x rfl,
      fun x => hm.out x rfl,
      fun x => hm.out x rfl,
      fun _ => h.foldS,
      fun _ => h.foldD,
      fun _ => h.host,
      fun x => hm.out x rfl,
      fun x => hm.out x rfl,
      fun x => hm.out x rfl,
      fun x => hm.out x rfl,
      fun _ => h.dogs,
      fun _ => h.firmware,
      fun _ => h.image,
      fun _ => h.flash,
      fun _ => h.rtc,
      fun _ => h.almanac,
      fun _ => h.links,
      fun _ => h.fabric,
      fun _ => h.ports,
      fun _ => h.groups,
      fun _ => h.bridges,
      fun _ => h.motors,
      fun _ => h.records,
      fun _ => h.valves,
      fun _ => h.fans,
      fun _ => h.sampler,
      fun _ => h.cal,
      fun _ => h.zones,
      fun _ => h.predictions,
      fun _ => h.thermal,
      fun _ => h.staleWrites,
      fun x => hm.out x rfl,
      fun _ => h.minSel,
      fun _ => h.streams,
      fun _ => h.can,
      fun _ => h.panels,
      fun _ => h.plate,
      fun _ => h.selftest,
      fun _ => h.freeCount⟩⟩

theorem Keeps.clk {c d : Chip} (h : Keeps fs c d) (hn : fs.testBit 0 = false := by rfl) : d.clk = c.clk := h.touches.clk hn
theorem Keeps.slots {c d : Chip} (h : Keeps fs c d) (hn : fs.testBit 1 = false := by rfl) : d.slots = c.slots := h.touches.slots hn
theorem Keeps.overrides {c d : Chip} (h : Keeps fs c d) (hn : fs.testBit 2 = false := by rfl) : d.overrides = c.overrides := h.touches.overrides hn
theorem Keeps.produced {c d : Chip} (h : Keeps fs c d) (hn : fs.testBit 3 = false := by rfl) : d.produced = c.produced := h.touches.produced hn
theorem Keeps.slotWrites {c d : Chip} (h : Keeps fs c d) (hn : fs.testBit 4 = false := by rfl) : d.slotWrites = c.slotWrites := h.touches.slotWrites hn
theorem Keeps.attrs {c d : Chip} (h : Keeps fs c d) (hn : fs.testBit 5 = false := by rfl) : d.attrs = c.attrs := h.touches.attrs hn
theorem Keeps.existing {c d : Chip} (h : Keeps fs c d) (hn : fs.testBit 6 = false := by rfl) : d.existing = c.existing := h.touches.existing hn
theorem Keeps.gens {c d : Chip} (h : Keeps fs c d) (hn : fs.testBit 7 = false := by rfl) : d.gens = c.gens := h.touches.gens hn
theorem Keeps.owners {c d : Chip} (h : Keeps fs c d) (hn : fs.testBit 8 = false := by rfl) : d.owners = c.owners := h.touches.owners hn
theorem Keeps.sessions {c d : Chip} (h : Keeps fs c d) (hn : fs.testBit 9 = false := by rfl) : d.sessions = c.sessions := h.touches.sessions hn
theorem Keeps.staged {c d : Chip} (h : Keeps fs c d) (hn : fs.testBit 10 = false := by rfl) : d.staged = c.staged := h.touches.staged hn
theorem Keeps.lives {c d : Chip} (h : Keeps fs c d) (hn : fs.testBit 11 = false := by rfl) : d.lives = c.lives := h.touches.lives hn
theorem Keeps.cmds {c d : Chip} (h : Keeps fs c d) (hn : fs.testBit 12 = false := by rfl) : d.cmds = c.cmds := h.touches.cmds hn
theorem Keeps.remoteIn {c d : Chip} (h : Keeps fs c d) (hn : fs.testBit 13 = false := by rfl) : d.remoteIn = c.remoteIn := h.touches.remoteIn hn
theorem Keeps.events {c d : Chip} (h : Keeps fs c d) (hn : fs.testBit 14 = false := by rfl) : d.events = c.events := h.touches.events hn
theorem Keeps.queues {c d : Chip} (h : Keeps fs c d) (hn : fs.testBit 15 = false := by rfl) : d.queues = c.queues := h.touches.queues hn
theorem Keeps.ring {c d : Chip} (h : Keeps fs c d) (hn : fs.testBit 16 = false := by rfl) : d.ring = c.ring := h.touches.ring hn
theorem Keeps.foldS {c d : Chip} (h : Keeps fs c d) (hn : fs.testBit 17 = false := by rfl) : d.foldS = c.foldS := h.touches.foldS hn
theorem Keeps.foldD {c d : Chip} (h : Keeps fs c d) (hn : fs.testBit 18 = false := by rfl) : d.foldD = c.foldD := h.touches.foldD hn
theorem Keeps.host {c d : Chip} (h : Keeps fs c d) (hn : fs.testBit 19 = false := by rfl) : d.host = c.host := h.touches.host hn
theorem Keeps.mgt {c d : Chip} (h : Keeps fs c d) (hn : fs.testBit 20 = false := by rfl) : d.mgt = c.mgt := h.touches.mgt hn
theorem Keeps.power {c d : Chip} (h : Keeps fs c d) (hn : fs.testBit 21 = false := by rfl) : d.power = c.power := h.touches.power hn
theorem Keeps.log {c d : Chip} (h : Keeps fs c d) (hn : fs.testBit 22 = false := by rfl) : d.log = c.log := h.touches.log hn
theorem Keeps.counters {c d : Chip} (h : Keeps fs c d) (hn : fs.testBit 23 = false := by rfl) : d.counters = c.counters := h.touches.counters hn
theorem Keeps.dogs {c d : Chip} (h : Keeps fs c d) (hn : fs.testBit 24 = false := by rfl) : d.dogs = c.dogs := h.touches.dogs hn
theorem Keeps.firmware {c d : Chip} (h : Keeps fs c d) (hn : fs.testBit 25 = false := by rfl) : d.firmware = c.firmware := h.touches.firmware hn
theorem Keeps.image {c d : Chip} (h : Keeps fs c d) (hn : fs.testBit 26 = false := by rfl) : d.image = c.image := h.touches.image hn
theorem Keeps.flash {c d : Chip} (h : Keeps fs c d) (hn : fs.testBit 27 = false := by rfl) : d.flash = c.flash := h.touches.flash hn
theorem Keeps.rtc {c d : Chip} (h : Keeps fs c d) (hn : fs.testBit 28 = false := by rfl) : d.rtc = c.rtc := h.touches.rtc hn
theorem Keeps.almanac {c d : Chip} (h : Keeps fs c d) (hn : fs.testBit 29 = false := by rfl) : d.almanac = c.almanac := h.touches.almanac hn
theorem Keeps.links {c d : Chip} (h : Keeps fs c d) (hn : fs.testBit 30 = false := by rfl) : d.links = c.links := h.touches.links hn
theorem Keeps.fabric {c d : Chip} (h : Keeps fs c d) (hn : fs.testBit 31 = false := by rfl) : d.fabric = c.fabric := h.touches.fabric hn
theorem Keeps.ports {c d : Chip} (h : Keeps fs c d) (hn : fs.testBit 32 = false := by rfl) : d.ports = c.ports := h.touches.ports hn
theorem Keeps.groups {c d : Chip} (h : Keeps fs c d) (hn : fs.testBit 33 = false := by rfl) : d.groups = c.groups := h.touches.groups hn
theorem Keeps.bridges {c d : Chip} (h : Keeps fs c d) (hn : fs.testBit 34 = false := by rfl) : d.bridges = c.bridges := h.touches.bridges hn
theorem Keeps.motors {c d : Chip} (h : Keeps fs c d) (hn : fs.testBit 35 = false := by rfl) : d.motors = c.motors := h.touches.motors hn
theorem Keeps.records {c d : Chip} (h : Keeps fs c d) (hn : fs.testBit 36 = false := by rfl) : d.records = c.records := h.touches.records hn
theorem Keeps.valves {c d : Chip} (h : Keeps fs c d) (hn : fs.testBit 37 = false := by rfl) : d.valves = c.valves := h.touches.valves hn
theorem Keeps.fans {c d : Chip} (h : Keeps fs c d) (hn : fs.testBit 38 = false := by rfl) : d.fans = c.fans := h.touches.fans hn
theorem Keeps.sampler {c d : Chip} (h : Keeps fs c d) (hn : fs.testBit 39 = false := by rfl) : d.sampler = c.sampler := h.touches.sampler hn
theorem Keeps.cal {c d : Chip} (h : Keeps fs c d) (hn : fs.testBit 40 = false := by rfl) : d.cal = c.cal := h.touches.cal hn
theorem Keeps.zones {c d : Chip} (h : Keeps fs c d) (hn : fs.testBit 41 = false := by rfl) : d.zones = c.zones := h.touches.zones hn
theorem Keeps.predictions {c d : Chip} (h : Keeps fs c d) (hn : fs.testBit 42 = false := by rfl) : d.predictions = c.predictions := h.touches.predictions hn
theorem Keeps.thermal {c d : Chip} (h : Keeps fs c d) (hn : fs.testBit 43 = false := by rfl) : d.thermal = c.thermal := h.touches.thermal hn
theorem Keeps.staleWrites {c d : Chip} (h : Keeps fs c d) (hn : fs.testBit 44 = false := by rfl) : d.staleWrites = c.staleWrites := h.touches.staleWrites hn
theorem Keeps.loops {c d : Chip} (h : Keeps fs c d) (hn : fs.testBit 45 = false := by rfl) : d.loops = c.loops := h.touches.loops hn
theorem Keeps.minSel {c d : Chip} (h : Keeps fs c d) (hn : fs.testBit 46 = false := by rfl) : d.minSel = c.minSel := h.touches.minSel hn
theorem Keeps.streams {c d : Chip} (h : Keeps fs c d) (hn : fs.testBit 47 = false := by rfl) : d.streams = c.streams := h.touches.streams hn
theorem Keeps.can {c d : Chip} (h : Keeps fs c d) (hn : fs.testBit 48 = false := by rfl) : d.can = c.can := h.touches.can hn
theorem Keeps.panels {c d : Chip} (h : Keeps fs c d) (hn : fs.testBit 49 = false := by rfl) : d.panels = c.panels := h.touches.panels hn
theorem Keeps.plate {c d : Chip} (h : Keeps fs c d) (hn : fs.testBit 50 = false := by rfl) : d.plate = c.plate := h.touches.plate hn
theorem Keeps.selftest {c d : Chip} (h : Keeps fs c d) (hn : fs.testBit 51 = false := by rfl) : d.selftest = c.selftest := h.touches.selftest hn
theorem Keeps.freeCount {c d : Chip} (h : Keeps fs c d) (hn : fs.testBit 52 = false := by rfl) : d.freeCount = c.freeCount := h.touches.freeCount hn

theorem foldl_keeps {α : Type} {f : Chip → α → Chip} {l : List α} {b c : Chip} (h : ∀ c a, Keeps fs c (f c a)) (h0 : Keeps fs b c) :
    Keeps fs b (l.foldl f c) := by
  induction l generalizing c with
  | nil => exact h0
  | cons a l ih => exact ih (h0.trans (h c a))

theorem Keeps.ite {c a b : Chip} {p : Prop} [Decidable p] (h : Keeps fs c a) (h' : Keeps fs c b) : Keeps fs c (if p then a else b) := by
  split
  · exact h
  · exact h'

/-- What a command's result keeps. -/
def ResKeeps (fs : Nat) (c : Chip) : Res → Prop
  | .done _ _ _ d => Keeps fs c d
  | .accepted d => Keeps fs c d
  | .acceptedDone _ _ _ d => Keeps fs c d
  | .waiting d => Keeps fs c d
  | .held d => Keeps fs c d

variable {c d : Chip}

theorem ResKeeps.done {st o : Nat} {x : List Byte} (h : Keeps fs c d) : ResKeeps fs c (.done st o x d) := h
theorem ResKeeps.accepted (h : Keeps fs c d) : ResKeeps fs c (.accepted d) := h
theorem ResKeeps.acceptedDone {st o : Nat} {x : List Byte} (h : Keeps fs c d) : ResKeeps fs c (.acceptedDone st o x d) := h
theorem ResKeeps.waiting (h : Keeps fs c d) : ResKeeps fs c (.waiting d) := h
theorem ResKeeps.held (h : Keeps fs c d) : ResKeeps fs c (.held d) := h
theorem ResKeeps.ok (h : Keeps fs c d) : ResKeeps fs c (.ok d) := h
theorem ResKeeps.okWith {x : List Byte} (h : Keeps fs c d) : ResKeeps fs c (.okWith x d) := h
theorem ResKeeps.err {st o : Nat} (h : Keeps fs c d) : ResKeeps fs c (.err st o d) := h
theorem ResKeeps.badParam {o : Nat} (h : Keeps fs c d) : ResKeeps fs c (.badParam o d) := h
theorem ResKeeps.badLength (h : Keeps fs c d) : ResKeeps fs c (.badLength d) := h

theorem ResKeeps.ite {a b : Res} {p : Prop} [Decidable p] (h : ResKeeps fs c a) (h' : ResKeeps fs c b) : ResKeeps fs c (if p then a else b) := by
  split
  · exact h
  · exact h'

/-- What an answer that may be absent keeps. -/
def OptKeeps (fs : Nat) (c : Chip) : Option Chip → Prop
  | none => True
  | some d => Keeps fs c d

theorem OptKeeps.none : OptKeeps fs c none := trivial
theorem OptKeeps.some (h : Keeps fs c d) : OptKeeps fs c (some d) := h
theorem OptKeeps.ite {a b : Option Chip} {p : Prop} [Decidable p] (h : OptKeeps fs c a) (h' : OptKeeps fs c b) :
    OptKeeps fs c (if p then a else b) := by
  split
  · exact h
  · exact h'
theorem OptKeeps.of_eq {r : Option Chip} (h : OptKeeps fs c r) (he : r = Option.some d) : Keeps fs c d := by subst he; exact h

/-- What a cancel keeps. -/
def CancelKeeps (fs : Nat) (c : Chip) : CancelRes → Prop
  | .tooLate => True
  | .withdrawn d => Keeps fs c d
  | .waits d => Keeps fs c d

theorem CancelKeeps.tooLate : CancelKeeps fs c .tooLate := trivial
theorem CancelKeeps.withdrawn (h : Keeps fs c d) : CancelKeeps fs c (.withdrawn d) := h
theorem CancelKeeps.waits (h : Keeps fs c d) : CancelKeeps fs c (.waits d) := h
theorem CancelKeeps.ite {a b : CancelRes} {p : Prop} [Decidable p] (h : CancelKeeps fs c a) (h' : CancelKeeps fs c b) :
    CancelKeeps fs c (if p then a else b) := by
  split
  · exact h
  · exact h'

end Sys2Proof.Machine
end

