-- ==== Sys2Proof/Laws/KeepsOps.lean ====
section
/-! SUPPORT. What Machine/Ops.lean keeps. -/

namespace Sys2Proof.Machine

theorem setAttr_keeps {fs : Nat} (hm : Within (Field.attrs) fs) {a0 : Chip} (ty : Nat) (i : Nat) (a : Nat) (v : List Byte) (c : Chip) (h0 : Keeps fs a0 c) : Keeps fs a0 (Chip.setAttr ty i a v c) := by
  unfold Chip.setAttr
  repeat' first
    | (clear_value *; apply Touches.mk <;> intro hn <;> first | with_reducible rfl | exact hm.out hn rfl)
    | (apply Touches.mk <;> intro hn <;> first | with_reducible rfl | exact hm.out hn rfl)
    | extract_lets
    | with_reducible exact h0
    | with_reducible exact Keeps.refl _
    | with_reducible refine Keeps.update ?_ ?_

theorem advance_keeps {fs : Nat} (hm : Within (Field.clk ||| Field.rtc) fs) {a0 : Chip} (dt : Nat) (c : Chip) (h0 : Keeps fs a0 c) : Keeps fs a0 (Chip.advance dt c) := by
  refine h0.trans ⟨rfl, ?_, ?_, by apply Touches.mk <;> intro hn <;> first | rfl | exact hm.out hn rfl⟩
  · simp only [Chip.advance_clk, clkAdvance]
    split <;> exact Nat.le_add_right _ _
  · simp only [Chip.memoriesWf, Memory.wf, Bool.and_eq_true, Chip.advance_ring, Chip.advance_flash, Chip.advance_rtc, show ∀ r, (rtcAdvance dt r).bkp = r.bkp from fun r => rfl]
    exact id

theorem waitUntil_keeps {fs : Nat} (hm : Within (Field.clk ||| Field.rtc) fs) {a0 : Chip} (d : Nat) (c : Chip) (h0 : Keeps fs a0 c) : Keeps fs a0 (Chip.waitUntil d c) := by
  unfold Chip.waitUntil
  repeat' first
    | extract_lets
    | with_reducible refine Keeps.ite ?_ ?_
    | with_reducible exact h0
    | with_reducible exact Keeps.refl _
    | with_reducible apply advance_keeps (hm.sub (by decide))

theorem waitTransit_keeps {fs : Nat} (hm : Within (Field.clk ||| Field.rtc) fs) {a0 : Chip} (d : Nat) (c : Chip) (h0 : Keeps fs a0 c) : Keeps fs a0 (Chip.waitTransit d c) := by
  unfold Chip.waitTransit
  repeat' first
    | extract_lets
    | with_reducible refine Keeps.ite ?_ ?_
    | with_reducible exact h0
    | with_reducible exact Keeps.refl _
    | with_reducible apply waitUntil_keeps (hm.sub (by decide))

theorem nextFree_keeps {fs : Nat} (hm : Within (Field.freeCount) fs) {a0 : Chip} (c : Chip) (h0 : Keeps fs a0 c) : Keeps fs a0 (Chip.nextFree c) := by
  unfold Chip.nextFree
  repeat' first
    | (clear_value *; apply Touches.mk <;> intro hn <;> first | with_reducible rfl | exact hm.out hn rfl)
    | (apply Touches.mk <;> intro hn <;> first | with_reducible rfl | exact hm.out hn rfl)
    | extract_lets
    | with_reducible exact h0
    | with_reducible exact Keeps.refl _
    | with_reducible refine Keeps.update ?_ ?_

theorem slotTriggers_keeps {fs : Nat} (hm : Within (Field.loops) fs) {a0 : Chip} (sid : Nat) (stamp : Word) (quality : Half) (c : Chip) (h0 : Keeps fs a0 c) : Keeps fs a0 (Chip.slotTriggers sid stamp quality c) := by
  unfold Chip.slotTriggers
  repeat' first
    | (clear_value *; apply Touches.mk <;> intro hn <;> first | with_reducible rfl | exact hm.out hn rfl)
    | (apply Touches.mk <;> intro hn <;> first | with_reducible rfl | exact hm.out hn rfl)
    | extract_lets
    | with_reducible refine Keeps.ite ?_ ?_
    | with_reducible exact h0
    | with_reducible exact Keeps.refl _
    | with_reducible refine Keeps.update ?_ ?_

theorem writeSlot_keeps {fs : Nat} (hm : Within (Field.slots ||| Field.slotWrites ||| Field.staleWrites ||| Field.loops) fs) {a0 : Chip} (sid : Nat) (value : Word) (stamp : Word) (quality : Half) (producer : Half) (c : Chip) (h0 : Keeps fs a0 c) : Keeps fs a0 (Chip.writeSlot sid value stamp quality producer c) := by
  unfold Chip.writeSlot
  repeat' first
    | (clear_value *; apply Touches.mk <;> intro hn <;> first | with_reducible rfl | exact hm.out hn rfl)
    | extract_lets
    | with_reducible exact h0
    | with_reducible exact Keeps.refl _
    | with_reducible apply slotTriggers_keeps (hm.sub (by decide))
    | with_reducible refine Keeps.update ?_ ?_

theorem setZone_keeps {fs : Nat} (hm : Within (Field.zones) fs) {a0 : Chip} (z : Nat) (s : ZoneSt) (c : Chip) (h0 : Keeps fs a0 c) : Keeps fs a0 (Chip.setZone z s c) := by
  unfold Chip.setZone
  repeat' first
    | (clear_value *; apply Touches.mk <;> intro hn <;> first | with_reducible rfl | exact hm.out hn rfl)
    | (apply Touches.mk <;> intro hn <;> first | with_reducible rfl | exact hm.out hn rfl)
    | extract_lets
    | with_reducible exact h0
    | with_reducible exact Keeps.refl _
    | with_reducible refine Keeps.update ?_ ?_

theorem zonesSee_keeps {fs : Nat} (hm : Within (Field.zones) fs) {a0 : Chip} (sid : Nat) (c : Chip) (h0 : Keeps fs a0 c) : Keeps fs a0 (Chip.zonesSee sid c) := by
  unfold Chip.zonesSee
  repeat' first
    | (clear_value *; apply Touches.mk <;> intro hn <;> first | with_reducible rfl | exact hm.out hn rfl)
    | (apply Touches.mk <;> intro hn <;> first | with_reducible rfl | exact hm.out hn rfl)
    | extract_lets
    | with_reducible refine Keeps.ite ?_ ?_
    | with_reducible exact h0
    | with_reducible exact Keeps.refl _
    | with_reducible refine Keeps.update ?_ ?_

theorem produce_keeps {fs : Nat} (hm : Within (Field.slots ||| Field.produced ||| Field.slotWrites ||| Field.zones ||| Field.staleWrites ||| Field.loops) fs) {a0 : Chip} (sid : Nat) (value : Word) (stamp : Word) (quality : Half) (producer : Half) (c : Chip) (h0 : Keeps fs a0 c) : Keeps fs a0 (Chip.produce sid value stamp quality producer c) := by
  unfold Chip.produce
  repeat' first
    | (clear_value *; apply Touches.mk <;> intro hn <;> first | with_reducible rfl | exact hm.out hn rfl)
    | extract_lets
    | with_reducible refine Keeps.ite ?_ ?_
    | with_reducible exact h0
    | with_reducible exact Keeps.refl _
    | with_reducible apply writeSlot_keeps (hm.sub (by decide))
    | with_reducible apply zonesSee_keeps (hm.sub (by decide))
    | with_reducible refine Keeps.update ?_ ?_

theorem produceNow_keeps {fs : Nat} (hm : Within (Field.slots ||| Field.produced ||| Field.slotWrites ||| Field.zones ||| Field.staleWrites ||| Field.loops) fs) {a0 : Chip} (sid : Nat) (value : Int) (quality : Half) (t : Nat) (i : Nat) (c : Chip) (h0 : Keeps fs a0 c) : Keeps fs a0 (Chip.produceNow sid value quality t i c) := by
  unfold Chip.produceNow
  repeat' first
    | extract_lets
    | with_reducible exact h0
    | with_reducible exact Keeps.refl _
    | with_reducible apply produce_keeps (hm.sub (by decide))

theorem produceOpt_keeps {fs : Nat} (hm : Within (Field.slots ||| Field.produced ||| Field.slotWrites ||| Field.zones ||| Field.staleWrites ||| Field.loops) fs) {a0 : Chip} (sid : Option Nat) (value : Int) (quality : Half) (t : Nat) (i : Nat) (c : Chip) (h0 : Keeps fs a0 c) : Keeps fs a0 (Chip.produceOpt sid value quality t i c) := by
  unfold Chip.produceOpt
  repeat' first
    | (clear_value *; apply Touches.mk <;> intro hn <;> first | with_reducible rfl | exact hm.out hn rfl)
    | extract_lets
    | with_reducible exact h0
    | with_reducible exact Keeps.refl _
    | with_reducible apply produceNow_keeps (hm.sub (by decide))
    | split

theorem setQueue_keeps {fs : Nat} (hm : Within (Field.queues) fs) {a0 : Chip} (q : Nat) (s : QueueSt) (c : Chip) (h0 : Keeps fs a0 c) : Keeps fs a0 (Chip.setQueue q s c) := by
  unfold Chip.setQueue
  repeat' first
    | (clear_value *; apply Touches.mk <;> intro hn <;> first | with_reducible rfl | exact hm.out hn rfl)
    | (apply Touches.mk <;> intro hn <;> first | with_reducible rfl | exact hm.out hn rfl)
    | extract_lets
    | with_reducible exact h0
    | with_reducible exact Keeps.refl _
    | with_reducible refine Keeps.update ?_ ?_

theorem putRecord_keeps {fs : Nat} (hm : Within (Field.routed) fs) {a0 : Chip} (q : Nat) (body : List Byte) (c : Chip) (h0 : Keeps fs a0 c) : Keeps fs a0 (Chip.putRecord q body c) := by
  exact h0.trans <| Keeps.routed (hm.sub (by decide)) (putRecord_routed _ _ _) (putRecord_ringKept _ _ _)

theorem dropRecord_keeps {fs : Nat} (hm : Within (Field.queues) fs) {a0 : Chip} (q : Nat) (c : Chip) (h0 : Keeps fs a0 c) : Keeps fs a0 (Chip.dropRecord q c) := by
  unfold Chip.dropRecord
  repeat' first
    | (clear_value *; apply Touches.mk <;> intro hn <;> first | with_reducible rfl | exact hm.out hn rfl)
    | extract_lets
    | with_reducible exact h0
    | with_reducible exact Keeps.refl _
    | with_reducible apply setQueue_keeps (hm.sub (by decide))

theorem assertAlert_keeps {fs : Nat} (hm : Within (Field.mgt) fs) {a0 : Chip} (c : Chip) (h0 : Keeps fs a0 c) : Keeps fs a0 (Chip.assertAlert c) := by
  unfold Chip.assertAlert
  repeat' first
    | (clear_value *; apply Touches.mk <;> intro hn <;> first | with_reducible rfl | exact hm.out hn rfl)
    | extract_lets
    | with_reducible exact h0
    | with_reducible exact Keeps.refl _
    | with_reducible refine Keeps.update ?_ ?_

theorem mgtRecord_keeps {fs : Nat} (hm : Within (Field.routed) fs) {a0 : Chip} (q : Nat) (cls : Nat) (body : List Byte) (c : Chip) (h0 : Keeps fs a0 c) : Keeps fs a0 (Chip.mgtRecord q cls body c) := by
  exact h0.trans <| Keeps.routed (hm.sub (by decide)) (mgtRecord_routed _ _ _ _) (mgtRecord_ringKept _ _ _ _)

theorem setEvent_keeps {fs : Nat} (hm : Within (Field.events) fs) {a0 : Chip} (e : Nat) (s : EventSt) (c : Chip) (h0 : Keeps fs a0 c) : Keeps fs a0 (Chip.setEvent e s c) := by
  unfold Chip.setEvent
  repeat' first
    | (clear_value *; apply Touches.mk <;> intro hn <;> first | with_reducible rfl | exact hm.out hn rfl)
    | (apply Touches.mk <;> intro hn <;> first | with_reducible rfl | exact hm.out hn rfl)
    | extract_lets
    | with_reducible exact h0
    | with_reducible exact Keeps.refl _
    | with_reducible refine Keeps.update ?_ ?_

theorem alertEvent_keeps {fs : Nat} (hm : Within (Field.routed) fs) {a0 : Chip} (e : Nat) (s : EventSt) (c : Chip) (h0 : Keeps fs a0 c) : Keeps fs a0 (Chip.alertEvent e s c) := by
  exact h0.trans <| Keeps.routed (hm.sub (by decide)) (alertEvent_routed _ _ _) (alertEvent_ringKept _ _ _)

theorem eventTrigger_keeps {fs : Nat} (hm : Within (Field.routed) fs) {a0 : Chip} (l : Nat) (c : Chip) (h0 : Keeps fs a0 c) : Keeps fs a0 (Chip.eventTrigger l c) := by
  exact h0.trans <| Keeps.routed (hm.sub (by decide)) (eventTrigger_routed _ _) (eventTrigger_ringKept _ _)

theorem fireUp_keeps {fs : Nat} (hm : Within (Field.routed) fs) {a0 : Chip} (e : Nat) (cause : Word) (stamp : Word) (c : Chip) (h0 : Keeps fs a0 c) : Keeps fs a0 (Chip.fireUp e cause stamp c) := by
  unfold Chip.fireUp
  repeat' first
    | (clear_value *; apply Touches.mk <;> intro hn <;> first | with_reducible rfl | exact hm.out hn rfl)
    | extract_lets
    | with_reducible refine Keeps.ite ?_ ?_
    | with_reducible exact h0
    | with_reducible exact Keeps.refl _
    | with_reducible apply eventTrigger_keeps (hm.sub (by decide))
    | with_reducible apply alertEvent_keeps (hm.sub (by decide))
    | with_reducible apply setEvent_keeps (hm.sub (by decide))

theorem fireDown_keeps {fs : Nat} (hm : Within (Field.routed) fs) {a0 : Chip} (e : Nat) (cause : Word) (stamp : Word) (c : Chip) (h0 : Keeps fs a0 c) : Keeps fs a0 (Chip.fireDown e cause stamp c) := by
  unfold Chip.fireDown
  repeat' first
    | (clear_value *; apply Touches.mk <;> intro hn <;> first | with_reducible rfl | exact hm.out hn rfl)
    | extract_lets
    | with_reducible exact h0
    | with_reducible exact Keeps.refl _
    | with_reducible apply alertEvent_keeps (hm.sub (by decide))
    | with_reducible refine Keeps.update ?_ ?_

theorem fireBare_keeps {fs : Nat} (hm : Within (Field.routed) fs) {a0 : Chip} (e : Nat) (cause : Word) (c : Chip) (h0 : Keeps fs a0 c) : Keeps fs a0 (Chip.fireBare e cause c) := by
  exact h0.trans <| Keeps.routed (hm.sub (by decide)) (fireBare_routed _ _ _) (fireBare_ringKept _ _ _)

theorem logEntry_keeps {fs : Nat} (hm : Within (Field.routed) fs) {a0 : Chip} (source : Nat) (code : Nat) (cause : Word) (detail : Word) (suppressed : Word) (c : Chip) (h0 : Keeps fs a0 c) : Keeps fs a0 (Chip.logEntry source code cause detail suppressed c) := by
  unfold Chip.logEntry
  repeat' first
    | (clear_value *; apply Touches.mk <;> intro hn <;> first | with_reducible rfl | exact hm.out hn rfl)
    | extract_lets
    | with_reducible refine Keeps.ite ?_ ?_
    | with_reducible exact h0
    | with_reducible exact Keeps.refl _
    | with_reducible apply fireBare_keeps (hm.sub (by decide))
    | with_reducible apply mgtRecord_keeps (hm.sub (by decide))
    | with_reducible refine Keeps.update ?_ ?_

theorem logEvent_keeps {fs : Nat} (hm : Within (Field.routed) fs) {a0 : Chip} (e : Nat) (cause : Word) (detail : Word) (c : Chip) (h0 : Keeps fs a0 c) : Keeps fs a0 (Chip.logEvent e cause detail c) := by
  exact h0.trans <| Keeps.routed (hm.sub (by decide)) (logEvent_routed _ _ _ _) (logEvent_ringKept _ _ _ _)

theorem fireLogged_keeps {fs : Nat} (hm : Within (Field.routed) fs) {a0 : Chip} (e : Nat) (cause : Word) (detail : Word) (c : Chip) (h0 : Keeps fs a0 c) : Keeps fs a0 (Chip.fireLogged e cause detail c) := by
  exact h0.trans <| Keeps.routed (hm.sub (by decide)) (fireLogged_routed _ _ _ _) (fireLogged_ringKept _ _ _ _)

theorem tellLost_keeps {fs : Nat} (hm : Within (Field.routed) fs) {a0 : Chip} (old : Chip) (q : Nat) (c : Chip) (h0 : Keeps fs a0 c) : Keeps fs a0 (Chip.tellLost old q c) := by
  unfold Chip.tellLost
  repeat' first
    | extract_lets
    | with_reducible refine Keeps.ite ?_ ?_
    | with_reducible exact h0
    | with_reducible exact Keeps.refl _
    | with_reducible apply fireLogged_keeps (hm.sub (by decide))

theorem fireWith_keeps {fs : Nat} (hm : Within (Field.routed) fs) {a0 : Chip} (e : Nat) (cause : Word) (detail : Word) (c : Chip) (h0 : Keeps fs a0 c) : Keeps fs a0 (Chip.fireWith e cause detail c) := by
  exact h0.trans <| Keeps.routed (hm.sub (by decide)) (fireWith_routed _ _ _ _) (fireWith_ringKept _ _ _ _)

theorem fire_keeps {fs : Nat} (hm : Within (Field.routed) fs) {a0 : Chip} (e : Nat) (cause : Nat) (c : Chip) (h0 : Keeps fs a0 c) : Keeps fs a0 (Chip.fire e cause c) := by
  unfold Chip.fire
  repeat' first
    | extract_lets
    | with_reducible exact h0
    | with_reducible exact Keeps.refl _
    | with_reducible apply fireWith_keeps (hm.sub (by decide))

theorem fireFree_keeps {fs : Nat} (hm : Within (Field.routed ||| Field.freeCount) fs) {a0 : Chip} (e : Nat) (c : Chip) (h0 : Keeps fs a0 c) : Keeps fs a0 (Chip.fireFree e c) := by
  unfold Chip.fireFree
  repeat' first
    | extract_lets
    | with_reducible exact h0
    | with_reducible exact Keeps.refl _
    | with_reducible apply fireWith_keeps (hm.sub (by decide))
    | with_reducible apply nextFree_keeps (hm.sub (by decide))

theorem powerLimit_keeps {fs : Nat} (hm : Within (Field.routed) fs) {a0 : Chip} (kind : Nat) (hi : Nat) (c : Chip) (h0 : Keeps fs a0 c) : Keeps fs a0 (Chip.powerLimit kind hi c) := by
  unfold Chip.powerLimit
  repeat' first
    | extract_lets
    | with_reducible exact h0
    | with_reducible exact Keeps.refl _
    | with_reducible apply fire_keeps (hm.sub (by decide))

theorem bite_keeps {fs : Nat} (hm : Within (Field.dogs) fs) {a0 : Chip} (dog : Nat) (c : Chip) (h0 : Keeps fs a0 c) : Keeps fs a0 (Chip.bite dog c) := by
  unfold Chip.bite
  repeat' first
    | (clear_value *; apply Touches.mk <;> intro hn <;> first | with_reducible rfl | exact hm.out hn rfl)
    | extract_lets
    | with_reducible refine Keeps.ite ?_ ?_
    | with_reducible exact h0
    | with_reducible exact Keeps.refl _
    | with_reducible refine Keeps.update ?_ ?_

theorem ackEvent_keeps {fs : Nat} (hm : Within (Field.events) fs) {a0 : Chip} (e : Nat) (c : Chip) (h0 : Keeps fs a0 c) : Keeps fs a0 (Chip.ackEvent e c) := by
  unfold Chip.ackEvent
  repeat' first
    | (clear_value *; apply Touches.mk <;> intro hn <;> first | with_reducible rfl | exact hm.out hn rfl)
    | extract_lets
    | with_reducible exact h0
    | with_reducible exact Keeps.refl _
    | with_reducible apply setEvent_keeps (hm.sub (by decide))

theorem writeRoute_keeps {fs : Nat} (hm : Within (Field.routed ||| Field.attrs) fs) {a0 : Chip} (e : Nat) (r : Nat) (c : Chip) (h0 : Keeps fs a0 c) : Keeps fs a0 (Chip.writeRoute e r c) := by
  unfold Chip.writeRoute
  repeat' first
    | extract_lets
    | with_reducible refine Keeps.ite ?_ ?_
    | with_reducible exact h0
    | with_reducible exact Keeps.refl _
    | with_reducible apply alertEvent_keeps (hm.sub (by decide))
    | with_reducible apply tellLost_keeps (hm.sub (by decide))
    | with_reducible apply setEvent_keeps (hm.sub (by decide))
    | with_reducible apply setAttr_keeps (hm.sub (by decide))

theorem notify_keeps {fs : Nat} (hm : Within (Field.routed) fs) {a0 : Chip} (q : Nat) (c : Chip) (h0 : Keeps fs a0 c) : Keeps fs a0 (Chip.notify q c) := by
  exact h0.trans <| Keeps.routed (hm.sub (by decide)) (notify_routed _ _) (notify_ringKept _ _)

theorem deliver_keeps {fs : Nat} (hm : Within (Field.routed) fs) {a0 : Chip} (q : Nat) (cls : Nat) (body : List Byte) (note : Word) (c : Chip) (h0 : Keeps fs a0 c) : Keeps fs a0 (Chip.deliver q cls body note c) := by
  exact h0.trans <| Keeps.routed (hm.sub (by decide)) (deliver_routed _ _ _ _ _) (deliver_ringKept _ _ _ _ _)

theorem arrive_keeps {fs : Nat} (hm : Within (Field.routed) fs) {a0 : Chip} (q : Nat) (cls : Nat) (body : List Byte) (note : Word) (c : Chip) (h0 : Keeps fs a0 c) : Keeps fs a0 (Chip.arrive q cls body note c) := by
  exact h0.trans <| Keeps.routed (hm.sub (by decide)) (arrive_routed _ _ _ _ _) (arrive_ringKept _ _ _ _ _)

theorem dropCmd_keeps {fs : Nat} (hm : Within (Field.cmds) fs) {a0 : Chip} (ctx : Nat) (tag : Nat) (c : Chip) (h0 : Keeps fs a0 c) : Keeps fs a0 (Chip.dropCmd ctx tag c) := by
  unfold Chip.dropCmd
  repeat' first
    | (clear_value *; apply Touches.mk <;> intro hn <;> first | with_reducible rfl | exact hm.out hn rfl)
    | (apply Touches.mk <;> intro hn <;> first | with_reducible rfl | exact hm.out hn rfl)
    | extract_lets
    | with_reducible exact h0
    | with_reducible exact Keeps.refl _
    | with_reducible refine Keeps.update ?_ ?_

theorem setCmd_keeps {fs : Nat} (hm : Within (Field.cmds) fs) {a0 : Chip} (k : Cmd) (c : Chip) (h0 : Keeps fs a0 c) : Keeps fs a0 (Chip.setCmd k c) := by
  unfold Chip.setCmd
  repeat' first
    | (clear_value *; apply Touches.mk <;> intro hn <;> first | with_reducible rfl | exact hm.out hn rfl)
    | (apply Touches.mk <;> intro hn <;> first | with_reducible rfl | exact hm.out hn rfl)
    | extract_lets
    | with_reducible refine Keeps.ite ?_ ?_
    | with_reducible exact h0
    | with_reducible exact Keeps.refl _
    | with_reducible refine Keeps.update ?_ ?_

end Sys2Proof.Machine
end

