-- ==== Sys2Proof/Laws/KeepsFabric.lean ====
section
/-! SUPPORT. What Machine/Fabric.lean keeps. -/

namespace Sys2Proof.Machine

theorem setLink_keeps {fs : Nat} (hm : Within (Field.links) fs) {a0 : Chip} (n : Nat) (s : LinkSt) (c : Chip) (h0 : Keeps fs a0 c) : Keeps fs a0 (Chip.setLink n s c) := by
  unfold Chip.setLink
  repeat' first
    | (clear_value *; apply Touches.mk <;> intro hn <;> first | with_reducible rfl | exact hm.out hn rfl)
    | (apply Touches.mk <;> intro hn <;> first | with_reducible rfl | exact hm.out hn rfl)
    | extract_lets
    | with_reducible exact h0
    | with_reducible exact Keeps.refl _
    | with_reducible refine Keeps.update ?_ ?_

theorem setFabric_keeps {fs : Nat} (hm : Within (Field.fabric) fs) {a0 : Chip} (f : FabricSt → FabricSt) (c : Chip) (h0 : Keeps fs a0 c) : Keeps fs a0 (Chip.setFabric f c) := by
  unfold Chip.setFabric
  repeat' first
    | (clear_value *; apply Touches.mk <;> intro hn <;> first | with_reducible rfl | exact hm.out hn rfl)
    | (apply Touches.mk <;> intro hn <;> first | with_reducible rfl | exact hm.out hn rfl)
    | extract_lets
    | with_reducible exact h0
    | with_reducible exact Keeps.refl _
    | with_reducible refine Keeps.update ?_ ?_

theorem noteError_keeps {fs : Nat} (hm : Within (Field.links) fs) {a0 : Chip} (n : Nat) (kind : Nat) (c : Chip) (h0 : Keeps fs a0 c) : Keeps fs a0 (Chip.noteError n kind c) := by
  unfold Chip.noteError
  repeat' first
    | (clear_value *; apply Touches.mk <;> intro hn <;> first | with_reducible rfl | exact hm.out hn rfl)
    | extract_lets
    | with_reducible exact h0
    | with_reducible exact Keeps.refl _
    | with_reducible apply setLink_keeps (hm.sub (by decide))

theorem fireLinkError_keeps {fs : Nat} (hm : Within (Field.routed) fs) {a0 : Chip} (n : Nat) (kind : Nat) (c : Chip) (h0 : Keeps fs a0 c) : Keeps fs a0 (Chip.fireLinkError n kind c) := by
  unfold Chip.fireLinkError
  repeat' first
    | extract_lets
    | with_reducible exact h0
    | with_reducible exact Keeps.refl _
    | with_reducible apply fire_keeps (hm.sub (by decide))

theorem crcError_keeps {fs : Nat} (hm : Within (Field.routed ||| Field.links) fs) {a0 : Chip} (n : Nat) (kind : Nat) (c : Chip) (h0 : Keeps fs a0 c) : Keeps fs a0 (Chip.crcError n kind c) := by
  unfold Chip.crcError
  repeat' first
    | (clear_value *; apply Touches.mk <;> intro hn <;> first | with_reducible rfl | exact hm.out hn rfl)
    | extract_lets
    | with_reducible refine Keeps.ite ?_ ?_
    | with_reducible exact h0
    | with_reducible exact Keeps.refl _
    | with_reducible apply setLink_keeps (hm.sub (by decide))
    | with_reducible apply fireLinkError_keeps (hm.sub (by decide))
    | with_reducible apply noteError_keeps (hm.sub (by decide))

theorem discard_keeps {fs : Nat} (hm : Within (Field.links) fs) {a0 : Chip} (n : Nat) (c : Chip) (h0 : Keeps fs a0 c) : Keeps fs a0 (Chip.discard n c) := by
  unfold Chip.discard
  repeat' first
    | (clear_value *; apply Touches.mk <;> intro hn <;> first | with_reducible rfl | exact hm.out hn rfl)
    | extract_lets
    | with_reducible exact h0
    | with_reducible exact Keeps.refl _
    | with_reducible apply setLink_keeps (hm.sub (by decide))

theorem sendMsg_keeps {fs : Nat} (hm : Within (Field.links) fs) {a0 : Chip} (n : Nat) (m : LinkMsg) (c : Chip) (h0 : Keeps fs a0 c) : Keeps fs a0 (Chip.sendMsg n m c) := by
  unfold Chip.sendMsg
  repeat' first
    | (clear_value *; apply Touches.mk <;> intro hn <;> first | with_reducible rfl | exact hm.out hn rfl)
    | extract_lets
    | with_reducible exact h0
    | with_reducible exact Keeps.refl _
    | with_reducible apply setLink_keeps (hm.sub (by decide))

theorem flood_keeps {fs : Nat} (hm : Within (Field.links) fs) {a0 : Chip} (except : Option Nat) (m : LinkMsg) (c : Chip) (h0 : Keeps fs a0 c) : Keeps fs a0 (Chip.flood except m c) := by
  unfold Chip.flood
  repeat' first
    | extract_lets
    | with_reducible refine foldl_keeps (fun _ _ => ?_) ?_
    | with_reducible exact h0
    | with_reducible exact Keeps.refl _
    | with_reducible apply sendMsg_keeps (hm.sub (by decide))

theorem egress_keeps {fs : Nat} (hm : Within (Field.routed ||| Field.links) fs) {a0 : Chip} (n : Nat) (f : List Byte) (aborted : Bool) (c : Chip) (h0 : Keeps fs a0 c) : Keeps fs a0 (Chip.egress n f aborted c) := by
  unfold Chip.egress
  repeat' first
    | (clear_value *; apply Touches.mk <;> intro hn <;> first | with_reducible rfl | exact hm.out hn rfl)
    | extract_lets
    | with_reducible refine Keeps.ite ?_ ?_
    | with_reducible exact h0
    | with_reducible exact Keeps.refl _
    | with_reducible apply fireLinkError_keeps (hm.sub (by decide))
    | with_reducible apply noteError_keeps (hm.sub (by decide))
    | with_reducible apply setLink_keeps (hm.sub (by decide))
    | with_reducible apply sendMsg_keeps (hm.sub (by decide))

theorem sendLsa_keeps {fs : Nat} (hm : Within (Field.links ||| Field.fabric) fs) {a0 : Chip} (b : LsaBody) (n : Nat) (c : Chip) (h0 : Keeps fs a0 c) : Keeps fs a0 (Chip.sendLsa b n c) := by
  unfold Chip.sendLsa
  repeat' first
    | (clear_value *; apply Touches.mk <;> intro hn <;> first | with_reducible rfl | exact hm.out hn rfl)
    | extract_lets
    | with_reducible exact h0
    | with_reducible exact Keeps.refl _
    | with_reducible apply setFabric_keeps (hm.sub (by decide))
    | with_reducible apply sendMsg_keeps (hm.sub (by decide))

theorem floodOwn_keeps {fs : Nat} (hm : Within (Field.links ||| Field.fabric) fs) {a0 : Chip} (c : Chip) (h0 : Keeps fs a0 c) : Keeps fs a0 (Chip.floodOwn c) := by
  unfold Chip.floodOwn
  repeat' first
    | (clear_value *; apply Touches.mk <;> intro hn <;> first | with_reducible rfl | exact hm.out hn rfl)
    | extract_lets
    | with_reducible refine foldl_keeps (fun _ _ => ?_) ?_
    | with_reducible exact h0
    | with_reducible exact Keeps.refl _
    | with_reducible apply sendLsa_keeps (hm.sub (by decide))
    | with_reducible apply setFabric_keeps (hm.sub (by decide))

theorem logFault_keeps {fs : Nat} (hm : Within (Field.routed) fs) {a0 : Chip} (code : Nat) (detail : Nat) (c : Chip) (h0 : Keeps fs a0 c) : Keeps fs a0 (Chip.logFault code detail c) := by
  unfold Chip.logFault
  repeat' first
    | extract_lets
    | with_reducible exact h0
    | with_reducible exact Keeps.refl _
    | with_reducible apply logEntry_keeps (hm.sub (by decide))

theorem takeAddr_keeps {fs : Nat} (hm : Within (Field.routed ||| Field.links ||| Field.fabric) fs) {a0 : Chip} (a : Nat) (c : Chip) (h0 : Keeps fs a0 c) : Keeps fs a0 (Chip.takeAddr a c) := by
  unfold Chip.takeAddr
  repeat' first
    | (clear_value *; apply Touches.mk <;> intro hn <;> first | with_reducible rfl | exact hm.out hn rfl)
    | extract_lets
    | with_reducible refine Keeps.ite ?_ ?_
    | with_reducible exact h0
    | with_reducible exact Keeps.refl _
    | with_reducible apply floodOwn_keeps (hm.sub (by decide))
    | with_reducible apply logFault_keeps (hm.sub (by decide))
    | with_reducible apply setFabric_keeps (hm.sub (by decide))

theorem passTx_keeps {fs : Nat} (hm : Within (Field.routed) fs) {a0 : Chip} (q : Nat) (body : List Byte) (c : Chip) (h0 : Keeps fs a0 c) : Keeps fs a0 (Chip.passTx q body c) := by
  unfold Chip.passTx
  repeat' first
    | (clear_value *; apply Touches.mk <;> intro hn <;> first | with_reducible rfl | exact hm.out hn rfl)
    | extract_lets
    | with_reducible exact h0
    | with_reducible exact Keeps.refl _
    | with_reducible apply setQueue_keeps (hm.sub (by decide))
    | with_reducible apply putRecord_keeps (hm.sub (by decide))

theorem sendPhiveox_keeps {fs : Nat} (hm : Within (Field.routed ||| Field.links ||| Field.fabric) fs) {a0 : Chip} (node : Nat) (cls : Nat) (payload : List Byte) (c : Chip) (h0 : Keeps fs a0 c) : Keeps fs a0 (Chip.sendPhiveox node cls payload c) := by
  unfold Chip.sendPhiveox
  repeat' first
    | (clear_value *; apply Touches.mk <;> intro hn <;> first | with_reducible rfl | exact hm.out hn rfl)
    | extract_lets
    | with_reducible refine Keeps.ite ?_ ?_
    | with_reducible exact h0
    | with_reducible exact Keeps.refl _
    | with_reducible apply setFabric_keeps (hm.sub (by decide))
    | with_reducible apply egress_keeps (hm.sub (by decide))
    | with_reducible apply passTx_keeps (hm.sub (by decide))
    | split

theorem sendRemote_keeps {fs : Nat} (hm : Within (Field.routed ||| Field.links ||| Field.fabric) fs) {a0 : Chip} (ctx : Nat) (cls : Nat) (p : List Byte) (c : Chip) (h0 : Keeps fs a0 c) : Keeps fs a0 (Chip.sendRemote ctx cls p c) := by
  unfold Chip.sendRemote
  repeat' first
    | (clear_value *; apply Touches.mk <;> intro hn <;> first | with_reducible rfl | exact hm.out hn rfl)
    | extract_lets
    | with_reducible exact h0
    | with_reducible exact Keeps.refl _
    | with_reducible apply sendPhiveox_keeps (hm.sub (by decide))
    | split

theorem flushWaiting_keeps {fs : Nat} (hm : Within (Field.routed ||| Field.links ||| Field.fabric) fs) {a0 : Chip} (c : Chip) (h0 : Keeps fs a0 c) : Keeps fs a0 (Chip.flushWaiting c) := by
  unfold Chip.flushWaiting
  repeat' first
    | (clear_value *; apply Touches.mk <;> intro hn <;> first | with_reducible rfl | exact hm.out hn rfl)
    | extract_lets
    | with_reducible refine foldl_keeps (fun _ _ => ?_) ?_
    | with_reducible exact h0
    | with_reducible exact Keeps.refl _
    | with_reducible apply setFabric_keeps (hm.sub (by decide))
    | with_reducible apply sendPhiveox_keeps (hm.sub (by decide))

theorem notePath_keeps {fs : Nat} (hm : Within (Field.fabric) fs) {a0 : Chip} (node : Nat) (c : Chip) (h0 : Keeps fs a0 c) : Keeps fs a0 (Chip.notePath node c) := by
  unfold Chip.notePath
  repeat' first
    | (clear_value *; apply Touches.mk <;> intro hn <;> first | with_reducible rfl | exact hm.out hn rfl)
    | extract_lets
    | with_reducible refine Keeps.ite ?_ ?_
    | with_reducible exact h0
    | with_reducible exact Keeps.refl _
    | with_reducible apply setFabric_keeps (hm.sub (by decide))

theorem becomeBw_keeps {fs : Nat} (hm : Within (Field.fabric) fs) {a0 : Chip} (c : Chip) (h0 : Keeps fs a0 c) : Keeps fs a0 (Chip.becomeBw c) := by
  unfold Chip.becomeBw
  repeat' first
    | (clear_value *; apply Touches.mk <;> intro hn <;> first | with_reducible rfl | exact hm.out hn rfl)
    | extract_lets
    | with_reducible exact h0
    | with_reducible exact Keeps.refl _
    | with_reducible apply setFabric_keeps (hm.sub (by decide))

theorem grantTo_keeps {fs : Nat} (hm : Within (Field.routed ||| Field.links ||| Field.fabric) fs) {a0 : Chip} (uid : Nat) (requested : Option Nat) (persisted : Option Nat) (c : Chip) (h0 : Keeps fs a0 c) : Keeps fs a0 (Chip.grantTo uid requested persisted c) := by
  unfold Chip.grantTo
  repeat' first
    | (clear_value *; apply Touches.mk <;> intro hn <;> first | with_reducible rfl | exact hm.out hn rfl)
    | extract_lets
    | with_reducible refine Keeps.ite ?_ ?_
    | with_reducible exact h0
    | with_reducible exact Keeps.refl _
    | with_reducible apply flood_keeps (hm.sub (by decide))
    | with_reducible apply takeAddr_keeps (hm.sub (by decide))
    | with_reducible apply setFabric_keeps (hm.sub (by decide))
    | split

theorem settleConflicts_keeps {fs : Nat} (hm : Within (Field.routed ||| Field.links ||| Field.fabric) fs) {a0 : Chip} (c : Chip) (h0 : Keeps fs a0 c) : Keeps fs a0 (Chip.settleConflicts c) := by
  unfold Chip.settleConflicts
  repeat' first
    | extract_lets
    | with_reducible refine foldl_keeps (fun _ _ => ?_) ?_
    | with_reducible refine Keeps.ite ?_ ?_
    | with_reducible exact h0
    | with_reducible exact Keeps.refl _
    | with_reducible apply grantTo_keeps (hm.sub (by decide))

theorem seekAddr_keeps {fs : Nat} (hm : Within (Field.routed ||| Field.links ||| Field.fabric) fs) {a0 : Chip} (c : Chip) (h0 : Keeps fs a0 c) : Keeps fs a0 (Chip.seekAddr c) := by
  unfold Chip.seekAddr
  repeat' first
    | extract_lets
    | with_reducible refine Keeps.ite ?_ ?_
    | with_reducible exact h0
    | with_reducible exact Keeps.refl _
    | with_reducible apply flood_keeps (hm.sub (by decide))
    | with_reducible apply grantTo_keeps (hm.sub (by decide))

theorem updateRoute_keeps {fs : Nat} (hm : Within (Field.routed ||| Field.fabric) fs) {a0 : Chip} (r : Nat) (c : Chip) (h0 : Keeps fs a0 c) : Keeps fs a0 (Chip.updateRoute r c) := by
  unfold Chip.updateRoute
  repeat' first
    | (clear_value *; apply Touches.mk <;> intro hn <;> first | with_reducible rfl | exact hm.out hn rfl)
    | extract_lets
    | with_reducible refine foldl_keeps (fun _ _ => ?_) ?_
    | with_reducible refine Keeps.ite ?_ ?_
    | with_reducible exact h0
    | with_reducible exact Keeps.refl _
    | with_reducible apply fire_keeps (hm.sub (by decide))
    | with_reducible apply setFabric_keeps (hm.sub (by decide))

theorem converge_keeps {fs : Nat} (hm : Within (Field.routed ||| Field.links ||| Field.fabric) fs) {a0 : Chip} (c : Chip) (h0 : Keeps fs a0 c) : Keeps fs a0 (Chip.converge c) := by
  unfold Chip.converge
  repeat' first
    | (clear_value *; apply Touches.mk <;> intro hn <;> first | with_reducible rfl | exact hm.out hn rfl)
    | extract_lets
    | with_reducible refine foldl_keeps (fun _ _ => ?_) ?_
    | with_reducible refine Keeps.ite ?_ ?_
    | with_reducible exact h0
    | with_reducible exact Keeps.refl _
    | with_reducible apply flushWaiting_keeps (hm.sub (by decide))
    | with_reducible apply notePath_keeps (hm.sub (by decide))
    | with_reducible apply updateRoute_keeps (hm.sub (by decide))
    | with_reducible apply seekAddr_keeps (hm.sub (by decide))
    | with_reducible apply settleConflicts_keeps (hm.sub (by decide))
    | with_reducible apply setFabric_keeps (hm.sub (by decide))
    | with_reducible apply becomeBw_keeps (hm.sub (by decide))

theorem setStream_keeps {fs : Nat} (hm : Within (Field.streams) fs) {a0 : Chip} (i : Nat) (s : StreamSt) (c : Chip) (h0 : Keeps fs a0 c) : Keeps fs a0 (Chip.setStream i s c) := by
  unfold Chip.setStream
  repeat' first
    | (clear_value *; apply Touches.mk <;> intro hn <;> first | with_reducible rfl | exact hm.out hn rfl)
    | (apply Touches.mk <;> intro hn <;> first | with_reducible rfl | exact hm.out hn rfl)
    | extract_lets
    | with_reducible exact h0
    | with_reducible exact Keeps.refl _
    | with_reducible refine Keeps.update ?_ ?_

end Sys2Proof.Machine
end

