-- ==== Sys2Proof/Laws/KeepsCommands.lean ====
section
/-! SUPPORT. What Machine/Commands.lean keeps. -/

namespace Sys2Proof.Machine

theorem sendPacket_keeps {fs : Nat} (hm : Within (Field.routed ||| Field.links ||| Field.fabric) fs) {a0 : Chip} (k : Cmd) (p : List Byte) (c : Chip) (h0 : Keeps fs a0 c) : Keeps fs a0 (Chip.sendPacket k p c) := by
  unfold Chip.sendPacket
  repeat' first
    | extract_lets
    | with_reducible refine Keeps.ite ?_ ?_
    | with_reducible exact h0
    | with_reducible exact Keeps.refl _
    | with_reducible apply arrive_keeps (hm.sub (by decide))
    | with_reducible apply sendRemote_keeps (hm.sub (by decide))

theorem openSession_keeps {fs : Nat} (hm : Within (Field.sessions) fs) {a0 : Chip} (k : Cmd) (c : Chip) (h0 : Keeps fs a0 c) : Keeps fs a0 (Chip.openSession k c).1 := by
  unfold Chip.openSession
  repeat' first
    | (clear_value *; apply Touches.mk <;> intro hn <;> first | with_reducible rfl | exact hm.out hn rfl)
    | extract_lets
    | with_reducible refine Keeps.ite ?_ ?_
    | with_reducible refine Keeps.ite ?_ ?_
    | with_reducible exact h0
    | with_reducible exact Keeps.refl _
    | split
    | with_reducible refine Keeps.update ?_ ?_

theorem forgetSends_keeps {fs : Nat} (hm : Within (Field.can) fs) {a0 : Chip} (ctx : Nat) (tag : Nat) (c : Chip) (h0 : Keeps fs a0 c) : Keeps fs a0 (Chip.forgetSends ctx tag c) := by
  unfold Chip.forgetSends
  repeat' first
    | (clear_value *; apply Touches.mk <;> intro hn <;> first | with_reducible rfl | exact hm.out hn rfl)
    | (apply Touches.mk <;> intro hn <;> first | with_reducible rfl | exact hm.out hn rfl)
    | extract_lets
    | with_reducible exact h0
    | with_reducible exact Keeps.refl _
    | with_reducible refine Keeps.update ?_ ?_

theorem finalReply_keeps {fs : Nat} (hm : Within (Field.routed ||| Field.cmds ||| Field.links ||| Field.fabric ||| Field.can) fs) {a0 : Chip} (k : Cmd) (status : Nat) (errofs : Nat) (data : List Byte) (c : Chip) (h0 : Keeps fs a0 c) : Keeps fs a0 (Chip.finalReply k status errofs data c) := by
  unfold Chip.finalReply
  repeat' first
    | extract_lets
    | with_reducible refine Keeps.ite ?_ ?_
    | with_reducible exact h0
    | with_reducible exact Keeps.refl _
    | with_reducible apply sendPacket_keeps (hm.sub (by decide))
    | with_reducible apply forgetSends_keeps (hm.sub (by decide))
    | with_reducible apply dropCmd_keeps (hm.sub (by decide))

theorem closeHostStreams_keeps {fs : Nat} (hm : Within (Field.routed ||| Field.cmds ||| Field.links ||| Field.fabric ||| Field.streams ||| Field.can) fs) {a0 : Chip} (ctx : Nat) (c : Chip) (h0 : Keeps fs a0 c) : Keeps fs a0 (Chip.closeHostStreams ctx c) := by
  unfold Chip.closeHostStreams
  repeat' first
    | (clear_value *; apply Touches.mk <;> intro hn <;> first | with_reducible rfl | exact hm.out hn rfl)
    | extract_lets
    | with_reducible refine foldl_keeps (fun _ _ => ?_) ?_
    | with_reducible refine Keeps.ite ?_ ?_
    | with_reducible exact h0
    | with_reducible exact Keeps.refl _
    | with_reducible apply finalReply_keeps (hm.sub (by decide))
    | split
    | with_reducible refine Keeps.update ?_ ?_

theorem endSession_keeps {fs : Nat} (hm : Within (Field.routed ||| Field.sessions ||| Field.staged ||| Field.lives ||| Field.cmds ||| Field.firmware ||| Field.image ||| Field.links ||| Field.fabric ||| Field.cal ||| Field.streams ||| Field.can) fs) {a0 : Chip} (ctx : Nat) (c0 : Chip) (h0 : Keeps fs a0 c0) : Keeps fs a0 (Chip.endSession ctx c0) := by
  unfold Chip.endSession
  repeat' first
    | (clear_value *; apply Touches.mk <;> intro hn <;> first | with_reducible rfl | exact hm.out hn rfl)
    | extract_lets
    | with_reducible refine Keeps.ite ?_ ?_
    | with_reducible exact h0
    | with_reducible exact Keeps.refl _
    | with_reducible apply closeHostStreams_keeps (hm.sub (by decide))
    | with_reducible refine Keeps.update ?_ ?_

theorem completeClosing_keeps {fs : Nat} (hm : Within (Field.routed ||| Field.sessions ||| Field.staged ||| Field.lives ||| Field.cmds ||| Field.firmware ||| Field.image ||| Field.links ||| Field.fabric ||| Field.cal ||| Field.streams ||| Field.can) fs) {a0 : Chip} (ctx : Nat) (c : Chip) (h0 : Keeps fs a0 c) : Keeps fs a0 (Chip.completeClosing ctx c) := by
  unfold Chip.completeClosing
  repeat' first
    | (clear_value *; apply Touches.mk <;> intro hn <;> first | with_reducible rfl | exact hm.out hn rfl)
    | extract_lets
    | with_reducible refine Keeps.ite ?_ ?_
    | with_reducible exact h0
    | with_reducible exact Keeps.refl _
    | with_reducible apply openSession_keeps (hm.sub (by decide))
    | with_reducible apply finalReply_keeps (hm.sub (by decide))
    | with_reducible apply endSession_keeps (hm.sub (by decide))
    | split

theorem finish_keeps {fs : Nat} (hm : Within (Field.routed ||| Field.sessions ||| Field.staged ||| Field.lives ||| Field.cmds ||| Field.firmware ||| Field.image ||| Field.links ||| Field.fabric ||| Field.cal ||| Field.streams ||| Field.can) fs) {a0 : Chip} (k : Cmd) (status : Nat) (errofs : Nat) (data : List Byte) (c : Chip) (h0 : Keeps fs a0 c) : Keeps fs a0 (Chip.finish k status errofs data c) := by
  unfold Chip.finish
  repeat' first
    | extract_lets
    | with_reducible exact h0
    | with_reducible exact Keeps.refl _
    | with_reducible apply completeClosing_keeps (hm.sub (by decide))
    | with_reducible apply finalReply_keeps (hm.sub (by decide))

theorem finishTag_keeps {fs : Nat} (hm : Within (Field.routed ||| Field.sessions ||| Field.staged ||| Field.lives ||| Field.cmds ||| Field.firmware ||| Field.image ||| Field.links ||| Field.fabric ||| Field.cal ||| Field.streams ||| Field.can) fs) {a0 : Chip} (ctx : Nat) (tag : Nat) (status : Nat) (errofs : Nat) (data : List Byte) (c : Chip) (h0 : Keeps fs a0 c) : Keeps fs a0 (Chip.finishTag ctx tag status errofs data c) := by
  unfold Chip.finishTag
  repeat' first
    | (clear_value *; apply Touches.mk <;> intro hn <;> first | with_reducible rfl | exact hm.out hn rfl)
    | extract_lets
    | with_reducible exact h0
    | with_reducible exact Keeps.refl _
    | with_reducible apply finish_keeps (hm.sub (by decide))
    | split

theorem accept_keeps {fs : Nat} (hm : Within (Field.routed ||| Field.cmds ||| Field.links ||| Field.fabric) fs) {a0 : Chip} (k : Cmd) (c : Chip) (h0 : Keeps fs a0 c) : Keeps fs a0 (Chip.accept k c) := by
  unfold Chip.accept
  repeat' first
    | (clear_value *; apply Touches.mk <;> intro hn <;> first | with_reducible rfl | exact hm.out hn rfl)
    | extract_lets
    | with_reducible refine Keeps.ite ?_ ?_
    | with_reducible exact h0
    | with_reducible exact Keeps.refl _
    | with_reducible apply sendPacket_keeps (hm.sub (by decide))
    | with_reducible apply setCmd_keeps (hm.sub (by decide))

theorem commitCmd_keeps {fs : Nat} (hm : Within (Field.cmds) fs) {a0 : Chip} (ctx : Nat) (tag : Nat) (c : Chip) (h0 : Keeps fs a0 c) : Keeps fs a0 (Chip.commitCmd ctx tag c) := by
  unfold Chip.commitCmd
  repeat' first
    | (clear_value *; apply Touches.mk <;> intro hn <;> first | with_reducible rfl | exact hm.out hn rfl)
    | extract_lets
    | with_reducible exact h0
    | with_reducible exact Keeps.refl _
    | with_reducible apply setCmd_keeps (hm.sub (by decide))
    | split

theorem Res_err_keeps {a0 : Chip} (status : Nat) (errofs : Nat) (c : Chip) (h0 : Keeps fs a0 c) : ResKeeps fs a0 (Res.err status errofs c) := by
  unfold Res.err
  repeat' first
    | extract_lets
    | with_reducible exact h0
    | with_reducible exact Keeps.refl _
    | with_reducible apply ResKeeps.done

theorem Res_ok_keeps {a0 : Chip} (c : Chip) (h0 : Keeps fs a0 c) : ResKeeps fs a0 (Res.ok c) := by
  unfold Res.ok
  repeat' first
    | extract_lets
    | with_reducible exact h0
    | with_reducible exact Keeps.refl _
    | with_reducible apply ResKeeps.done

theorem Res_okWith_keeps {a0 : Chip} (data : List Byte) (c : Chip) (h0 : Keeps fs a0 c) : ResKeeps fs a0 (Res.okWith data c) := by
  unfold Res.okWith
  repeat' first
    | extract_lets
    | with_reducible exact h0
    | with_reducible exact Keeps.refl _
    | with_reducible apply ResKeeps.done

theorem Res_badLength_keeps {a0 : Chip} (c : Chip) (h0 : Keeps fs a0 c) : ResKeeps fs a0 (Res.badLength c) := by
  unfold Res.badLength
  repeat' first
    | extract_lets
    | with_reducible exact h0
    | with_reducible exact Keeps.refl _
    | with_reducible apply ResKeeps.done
    | with_reducible apply ResKeeps.accepted
    | with_reducible apply ResKeeps.acceptedDone
    | with_reducible apply ResKeeps.waiting
    | with_reducible apply ResKeeps.held
    | with_reducible apply ResKeeps.ok
    | with_reducible apply ResKeeps.okWith
    | with_reducible apply ResKeeps.err

theorem Res_badParam_keeps {a0 : Chip} (o : Nat) (c : Chip) (h0 : Keeps fs a0 c) : ResKeeps fs a0 (Res.badParam o c) := by
  unfold Res.badParam
  repeat' first
    | extract_lets
    | with_reducible exact h0
    | with_reducible exact Keeps.refl _
    | with_reducible apply ResKeeps.done
    | with_reducible apply ResKeeps.accepted
    | with_reducible apply ResKeeps.acceptedDone
    | with_reducible apply ResKeeps.waiting
    | with_reducible apply ResKeeps.held
    | with_reducible apply ResKeeps.ok
    | with_reducible apply ResKeeps.okWith
    | with_reducible apply ResKeeps.err

theorem bumpGen_keeps {fs : Nat} (hm : Within (Field.gens) fs) {a0 : Chip} (hnd : Nat) (c : Chip) (h0 : Keeps fs a0 c) : Keeps fs a0 (Chip.bumpGen hnd c) := by
  unfold Chip.bumpGen
  repeat' first
    | (clear_value *; apply Touches.mk <;> intro hn <;> first | with_reducible rfl | exact hm.out hn rfl)
    | (apply Touches.mk <;> intro hn <;> first | with_reducible rfl | exact hm.out hn rfl)
    | extract_lets
    | with_reducible exact h0
    | with_reducible exact Keeps.refl _
    | with_reducible refine Keeps.update ?_ ?_

theorem relay_keeps {fs : Nat} (hm : Within (Field.routed ||| Field.links ||| Field.fabric) fs) {a0 : Chip} (k : Cmd) (c : Chip) (h0 : Keeps fs a0 c) : ResKeeps fs a0 (Chip.relay k c) := by
  unfold Chip.relay
  repeat' first
    | extract_lets
    | with_reducible exact h0
    | with_reducible exact Keeps.refl _
    | with_reducible apply sendPhiveox_keeps (hm.sub (by decide))
    | with_reducible apply ResKeeps.done
    | with_reducible apply ResKeeps.accepted
    | with_reducible apply ResKeeps.acceptedDone
    | with_reducible apply ResKeeps.waiting

theorem runCmd_keeps {fs : Nat} (hm : Within (Field.routed ||| Field.sessions ||| Field.staged ||| Field.lives ||| Field.cmds ||| Field.firmware ||| Field.image ||| Field.links ||| Field.fabric ||| Field.cal ||| Field.streams ||| Field.can) fs) {a0 : Chip} (fam : Nat) (op : Nat) (body : Cmd → Chip → Res) (ctx : Nat) (tag : Nat) (c : Chip) (hbody : ∀ k x, ResKeeps fs x (body k x)) (h0 : Keeps fs a0 c) : Keeps fs a0 (Chip.runCmd fam op body ctx tag c) := by
  unfold Chip.runCmd
  refine Keeps.ite h0 ?_
  generalize c.findCmd ctx tag = f
  cases f with
  | none => exact h0
  | some k =>
    refine Keeps.ite h0 (Keeps.ite (finish_keeps (hm.sub (by decide)) _ _ _ _ _ h0) (Keeps.ite (finish_keeps (hm.sub (by decide)) _ _ _ _ _ h0) ?_))
    have hb : ResKeeps fs c (if c.elsewhere k then c.relay k else body k c) := ResKeeps.ite (relay_keeps (hm.sub (by decide)) _ _ (Keeps.refl c)) (hbody k c)
    generalize (if c.elsewhere k then c.relay k else body k c) = r at hb
    cases r with
    | done st o data d => exact finish_keeps (hm.sub (by decide)) _ _ _ _ _ (h0.trans hb)
    | accepted d => exact accept_keeps (hm.sub (by decide)) _ _ (h0.trans hb)
    | acceptedDone st o data d => exact finishTag_keeps (hm.sub (by decide)) _ _ _ _ _ _ (accept_keeps (hm.sub (by decide)) _ _ (h0.trans hb))
    | waiting d => exact setCmd_keeps (hm.sub (by decide)) _ _ (h0.trans hb)
    | held d => exact h0.trans hb

theorem takePacket_keeps {fs : Nat} (hm : Within (Field.routed ||| Field.cmds ||| Field.links ||| Field.fabric) fs) {a0 : Chip} (ctx : Nat) (rlen : Nat) (bs : List Byte) (rung : Option Rung) (c : Chip) (h0 : Keeps fs a0 c) : OptKeeps fs a0 (Chip.takePacket ctx rlen bs rung c) := by
  unfold Chip.takePacket
  repeat' first
    | (clear_value *; apply Touches.mk <;> intro hn <;> first | with_reducible rfl | exact hm.out hn rfl)
    | extract_lets
    | with_reducible exact OptKeeps.none
    | with_reducible refine OptKeeps.ite ?_ ?_
    | with_reducible refine Keeps.ite ?_ ?_
    | with_reducible exact h0
    | with_reducible exact Keeps.refl _
    | with_reducible apply sendPacket_keeps (hm.sub (by decide))
    | with_reducible apply OptKeeps.some
    | split
    | with_reducible refine Keeps.update ?_ ?_

theorem ringUp_keeps {fs : Nat} (hm : Within (Field.queues) fs) {a0 : Chip} (ctx fuel i n : Nat) (c : Chip) (h0 : Keeps fs a0 c) : Keeps fs a0 (Chip.ringUp ctx fuel i n c) := by
  induction fuel generalizing i n c with
  | zero => exact h0
  | succ m ih =>
    unfold Chip.ringUp
    exact Keeps.ite h0 (ih _ _ _ (setQueue_keeps (hm.sub (by decide)) _ _ _ h0))

theorem rungTo_keeps {fs : Nat} (hm : Within (Field.queues) fs) {a0 : Chip} (ctx : Nat) (idx : Nat) (c : Chip) (h0 : Keeps fs a0 c) : Keeps fs a0 (Chip.rungTo ctx idx c) := by
  unfold Chip.rungTo
  repeat' first
    | (clear_value *; apply Touches.mk <;> intro hn <;> first | with_reducible rfl | exact hm.out hn rfl)
    | extract_lets
    | with_reducible refine Keeps.ite ?_ ?_
    | with_reducible exact h0
    | with_reducible exact Keeps.refl _
    | with_reducible apply ringUp_keeps (hm.sub (by decide))
    | with_reducible apply setQueue_keeps (hm.sub (by decide))

theorem closeUnreachable_keeps {fs : Nat} (hm : Within (Field.routed ||| Field.sessions ||| Field.staged ||| Field.lives ||| Field.cmds ||| Field.firmware ||| Field.image ||| Field.links ||| Field.fabric ||| Field.cal ||| Field.streams ||| Field.can) fs) {a0 : Chip} (k : Cmd) (c : Chip) (h0 : Keeps fs a0 c) : Keeps fs a0 (Chip.closeUnreachable k c) := by
  unfold Chip.closeUnreachable
  repeat' first
    | extract_lets
    | with_reducible refine foldl_keeps (fun _ _ => ?_) ?_
    | with_reducible exact h0
    | with_reducible exact Keeps.refl _
    | with_reducible apply endSession_keeps (hm.sub (by decide))
    | with_reducible apply finalReply_keeps (hm.sub (by decide))

theorem carry_keeps {fs : Nat} (hm : Within (Field.routed ||| Field.sessions ||| Field.staged ||| Field.lives ||| Field.cmds ||| Field.firmware ||| Field.image ||| Field.links ||| Field.fabric ||| Field.cal ||| Field.streams ||| Field.can) fs) {a0 : Chip} (k : Cmd) (node : Nat) (bs : List Byte) (c : Chip) (h0 : Keeps fs a0 c) : OptKeeps fs a0 (Chip.carry k node bs c) := by
  unfold Chip.carry
  repeat' first
    | (clear_value *; apply Touches.mk <;> intro hn <;> first | with_reducible rfl | exact hm.out hn rfl)
    | extract_lets
    | with_reducible exact OptKeeps.none
    | with_reducible refine OptKeeps.ite ?_ ?_
    | with_reducible refine Keeps.ite ?_ ?_
    | with_reducible exact h0
    | with_reducible exact Keeps.refl _
    | with_reducible apply sendPhiveox_keeps (hm.sub (by decide))
    | with_reducible apply closeUnreachable_keeps (hm.sub (by decide))
    | with_reducible apply OptKeeps.some
    | with_reducible refine Keeps.update ?_ ?_

theorem fetch_keeps {fs : Nat} (hm : Within (Field.routed ||| Field.sessions ||| Field.staged ||| Field.lives ||| Field.cmds ||| Field.remoteIn ||| Field.firmware ||| Field.image ||| Field.links ||| Field.fabric ||| Field.cal ||| Field.streams ||| Field.can) fs) {a0 : Chip} (ctx : Nat) (c : Chip) (h0 : Keeps fs a0 c) : Keeps fs a0 (Chip.fetch ctx c) := by
  unfold Chip.fetch
  refine Keeps.ite h0 (Keeps.ite ?_ (Keeps.ite h0 ?_))
  · split
    · exact h0
    · rename_i p rest _
      refine Keeps.ite h0 ?_
      have hk := takePacket_keeps (hm.sub (by decide)) ctx p.length p none c h0
      generalize c.takePacket ctx p.length p none = r at hk
      cases r with
      | none => exact h0
      | some d => exact Keeps.update hk (by apply Touches.mk <;> intro hn <;> first | rfl | exact hm.out hn rfl)
  · extract_lets q s rlen bs rung taken
    refine Keeps.ite h0 ?_
    clear_value s rlen bs rung
    have hk : OptKeeps fs a0 taken := by
      with_reducible dsimp only [taken]
      split
      · exact carry_keeps (hm.sub (by decide)) _ _ _ _ h0
      · exact takePacket_keeps (hm.sub (by decide)) _ _ _ _ _ h0
    clear_value taken
    cases taken with
    | none => exact h0
    | some d => exact setQueue_keeps (hm.sub (by decide)) _ _ _ hk

theorem expire_keeps {fs : Nat} (hm : Within (Field.routed ||| Field.clk ||| Field.sessions ||| Field.staged ||| Field.lives ||| Field.cmds ||| Field.firmware ||| Field.image ||| Field.rtc ||| Field.links ||| Field.fabric ||| Field.cal ||| Field.streams ||| Field.can) fs) {a0 : Chip} (ctx : Nat) (tag : Nat) (c : Chip) (h0 : Keeps fs a0 c) : Keeps fs a0 (Chip.expire ctx tag c) := by
  unfold Chip.expire
  repeat' first
    | (clear_value *; apply Touches.mk <;> intro hn <;> first | with_reducible rfl | exact hm.out hn rfl)
    | extract_lets
    | with_reducible exact h0
    | with_reducible exact Keeps.refl _
    | with_reducible apply finish_keeps (hm.sub (by decide))
    | with_reducible apply waitUntil_keeps (hm.sub (by decide))
    | split

end Sys2Proof.Machine
end

