-- ==== Sys2Proof/Laws/KeepsClock.lean ====
section
/-! SUPPORT. What Machine/Clock.lean keeps. -/

namespace Sys2Proof.Machine

theorem setView_bkp (r : RtcSt) (p : PortSide) (v : RtcView) : (r.setView p v).bkp = r.bkp := by
  cases p <;> rfl

theorem setRtc_keeps {fs : Nat} (hm : Within (Field.rtc) fs) {a0 : Chip} (f : RtcSt → RtcSt) (c : Chip) (h0 : Keeps fs a0 c)
    (hf : ∀ r, Tbl.wf dByte0 r.bkp = true → Tbl.wf dByte0 (f r).bkp = true) : Keeps fs a0 (Chip.setRtc f c) :=
  Keeps.change h0 (by apply Touches.mk <;> intro hn <;> first | rfl | exact hm.out hn rfl) (Nat.le_refl _) id id (hf _)

theorem readTimeByte_keeps {fs : Nat} (hm : Within (Field.power ||| Field.dogs ||| Field.rtc) fs) {a0 : Chip} (p : PortSide) (i : Nat) (c : Chip) (h0 : Keeps fs a0 c) : Keeps fs a0 (Chip.readTimeByte p i c).2 := by
  unfold Chip.readTimeByte
  repeat' first
    | (clear_value *; apply Touches.mk <;> intro hn <;> first | with_reducible rfl | exact hm.out hn rfl)
    | extract_lets
    | with_reducible refine Keeps.ite ?_ ?_
    | with_reducible refine Keeps.ite ?_ ?_
    | with_reducible exact h0
    | with_reducible exact Keeps.refl _
    | with_reducible refine setRtc_keeps (hm.sub (by decide)) _ _ ?_ ?_
    | split
    | with_reducible refine Keeps.update ?_ ?_
    | exact Nat.le_refl _
    | exact id
    | exact fun _ h => h
    | exact fun h => Tbl.wf_set _ _ _ _ h
    | exact fun h => Tbl.wf_setRun _ _ _ _ h
    | exact fun h => Tbl.wf_dropRange _ _ _ _ h
    | exact fun _ => rfl
    | exact fun _ h => Tbl.wf_set _ _ _ _ h
    | exact fun _ h => Tbl.wf_setRun _ _ _ _ h
    | exact fun _ h => (setView_bkp _ _ _).symm ▸ h

theorem rtcReadByte_keeps {fs : Nat} (hm : Within (Field.power ||| Field.dogs ||| Field.rtc) fs) {a0 : Chip} (p : PortSide) (off : Nat) (c : Chip) (h0 : Keeps fs a0 c) : Keeps fs a0 (Chip.rtcReadByte p off c).2 := by
  unfold Chip.rtcReadByte
  repeat' first
    | extract_lets
    | with_reducible refine Keeps.ite ?_ ?_
    | with_reducible refine Keeps.ite ?_ ?_
    | with_reducible exact h0
    | with_reducible exact Keeps.refl _
    | with_reducible apply readTimeByte_keeps (hm.sub (by decide))
    | split

theorem alarmFires_keeps {fs : Nat} (hm : Within (Field.routed) fs) {a0 : Chip} (pwr : Bool) (bySet : Bool) (c : Chip) (h0 : Keeps fs a0 c) : Keeps fs a0 (Chip.alarmFires pwr bySet c) := by
  unfold Chip.alarmFires
  repeat' first
    | extract_lets
    | with_reducible exact h0
    | with_reducible exact Keeps.refl _
    | with_reducible apply fire_keeps (hm.sub (by decide))

theorem takeAlarm_keeps {fs : Nat} (hm : Within (Field.routed ||| Field.rtc) fs) {a0 : Chip} (c : Chip) (h0 : Keeps fs a0 c) : Keeps fs a0 (Chip.takeAlarm c) := by
  unfold Chip.takeAlarm
  repeat' first
    | (clear_value *; apply Touches.mk <;> intro hn <;> first | with_reducible rfl | exact hm.out hn rfl)
    | extract_lets
    | with_reducible exact h0
    | with_reducible exact Keeps.refl _
    | with_reducible apply alarmFires_keeps (hm.sub (by decide))
    | with_reducible refine setRtc_keeps (hm.sub (by decide)) _ _ ?_ ?_
    | split
    | with_reducible refine Keeps.update ?_ ?_
    | exact Nat.le_refl _
    | exact id
    | exact fun _ h => h

theorem wakeFires_keeps {fs : Nat} (hm : Within (Field.routed ||| Field.rtc) fs) {a0 : Chip} (c : Chip) (h0 : Keeps fs a0 c) : Keeps fs a0 (Chip.wakeFires c) := by
  unfold Chip.wakeFires
  repeat' first
    | (clear_value *; apply Touches.mk <;> intro hn <;> first | with_reducible rfl | exact hm.out hn rfl)
    | extract_lets
    | with_reducible refine Keeps.ite ?_ ?_
    | with_reducible exact h0
    | with_reducible exact Keeps.refl _
    | with_reducible apply fire_keeps (hm.sub (by decide))
    | with_reducible refine setRtc_keeps (hm.sub (by decide)) _ _ ?_ ?_
    | with_reducible refine Keeps.update ?_ ?_
    | exact Nat.le_refl _
    | exact id
    | exact fun _ h => h

theorem waitTicks_keeps {fs : Nat} (hm : Within (Field.clk ||| Field.rtc) fs) {a0 : Chip} (k : Nat) (c : Chip) (h0 : Keeps fs a0 c) : Keeps fs a0 (Chip.waitTicks k c) := by
  unfold Chip.waitTicks
  repeat' first
    | extract_lets
    | with_reducible exact h0
    | with_reducible exact Keeps.refl _
    | with_reducible apply advance_keeps (hm.sub (by decide))

theorem waitTotal_keeps {fs : Nat} (hm : Within (Field.clk ||| Field.rtc) fs) {a0 : Chip} (t : Nat) (c : Chip) (h0 : Keeps fs a0 c) : Keeps fs a0 (Chip.waitTotal t c) := by
  unfold Chip.waitTotal
  repeat' first
    | extract_lets
    | with_reducible refine Keeps.ite ?_ ?_
    | with_reducible exact h0
    | with_reducible exact Keeps.refl _
    | with_reducible apply waitTicks_keeps (hm.sub (by decide))

theorem alarmRow_keeps {fs : Nat} (hm : Within (Field.routed ||| Field.clk ||| Field.rtc) fs) {a0 : Chip} (c : Chip) (h0 : Keeps fs a0 c) : Keeps fs a0 (Chip.alarmRow c) := by
  unfold Chip.alarmRow
  repeat' first
    | extract_lets
    | with_reducible refine Keeps.ite ?_ ?_
    | with_reducible exact h0
    | with_reducible exact Keeps.refl _
    | with_reducible apply takeAlarm_keeps (hm.sub (by decide))
    | with_reducible apply waitTotal_keeps (hm.sub (by decide))

theorem wakeRow_keeps {fs : Nat} (hm : Within (Field.routed ||| Field.clk ||| Field.rtc) fs) {a0 : Chip} (c : Chip) (h0 : Keeps fs a0 c) : Keeps fs a0 (Chip.wakeRow c) := by
  unfold Chip.wakeRow
  repeat' first
    | extract_lets
    | with_reducible refine Keeps.ite ?_ ?_
    | with_reducible exact h0
    | with_reducible exact Keeps.refl _
    | with_reducible apply wakeFires_keeps (hm.sub (by decide))
    | with_reducible apply waitTotal_keeps (hm.sub (by decide))

theorem commitTime_keeps {fs : Nat} (hm : Within (Field.routed ||| Field.clk ||| Field.rtc ||| Field.almanac ||| Field.fabric) fs) {a0 : Chip} (n : Nat) (c : Chip) (h0 : Keeps fs a0 c) : Keeps fs a0 (Chip.commitTime n c) := by
  unfold Chip.commitTime
  repeat' first
    | (clear_value *; apply Touches.mk <;> intro hn <;> first | with_reducible rfl | exact hm.out hn rfl)
    | extract_lets
    | with_reducible refine Keeps.ite ?_ ?_
    | with_reducible exact h0
    | with_reducible exact Keeps.refl _
    | with_reducible apply alarmFires_keeps (hm.sub (by decide))
    | with_reducible refine setRtc_keeps (hm.sub (by decide)) _ _ ?_ ?_
    | with_reducible refine Keeps.update ?_ ?_
    | with_reducible refine Keeps.change ?_ ?_ ?_ ?_ ?_ ?_
    | exact Nat.le_refl _
    | exact id
    | exact fun _ h => h
    | exact fun h => Tbl.wf_set _ _ _ _ h
    | exact fun h => Tbl.wf_setRun _ _ _ _ h
    | exact fun h => Tbl.wf_dropRange _ _ _ _ h
    | exact fun _ => rfl
    | exact fun _ h => Tbl.wf_set _ _ _ _ h
    | exact fun _ h => Tbl.wf_setRun _ _ _ _ h
    | exact fun _ h => (setView_bkp _ _ _).symm ▸ h
    | exact fun _ h => by dsimp only; (repeat' split) <;> exact h
    | exact fun _ h => by extract_lets; dsimp only; (repeat' split) <;> exact h
    | (split <;> exact Nat.le_refl _)

theorem rtcDeny_keeps {fs : Nat} (hm : Within (Field.rtc) fs) {a0 : Chip} (c : Chip) (h0 : Keeps fs a0 c) : Keeps fs a0 (Chip.rtcDeny c) := by
  unfold Chip.rtcDeny
  repeat' first
    | (clear_value *; apply Touches.mk <;> intro hn <;> first | with_reducible rfl | exact hm.out hn rfl)
    | extract_lets
    | with_reducible exact h0
    | with_reducible exact Keeps.refl _
    | with_reducible refine setRtc_keeps (hm.sub (by decide)) _ _ ?_ ?_
    | with_reducible refine Keeps.update ?_ ?_
    | exact Nat.le_refl _
    | exact id
    | exact fun _ h => h

theorem stageSec_keeps {fs : Nat} (hm : Within (Field.rtc) fs) {a0 : Chip} (p : PortSide) (i : Nat) (v : Byte) (c : Chip) (h0 : Keeps fs a0 c) : Keeps fs a0 (Chip.stageSec p i v c) := by
  unfold Chip.stageSec
  repeat' first
    | (clear_value *; apply Touches.mk <;> intro hn <;> first | with_reducible rfl | exact hm.out hn rfl)
    | extract_lets
    | with_reducible refine Keeps.ite ?_ ?_
    | with_reducible exact h0
    | with_reducible exact Keeps.refl _
    | with_reducible refine setRtc_keeps (hm.sub (by decide)) _ _ ?_ ?_
    | with_reducible apply rtcDeny_keeps (hm.sub (by decide))
    | with_reducible refine Keeps.update ?_ ?_
    | exact Nat.le_refl _
    | exact id
    | exact fun _ h => h
    | exact fun h => Tbl.wf_set _ _ _ _ h
    | exact fun h => Tbl.wf_setRun _ _ _ _ h
    | exact fun h => Tbl.wf_dropRange _ _ _ _ h
    | exact fun _ => rfl
    | exact fun _ h => Tbl.wf_set _ _ _ _ h
    | exact fun _ h => Tbl.wf_setRun _ _ _ _ h
    | exact fun _ h => (setView_bkp _ _ _).symm ▸ h

theorem commitSec4_keeps {fs : Nat} (hm : Within (Field.routed ||| Field.clk ||| Field.rtc ||| Field.almanac ||| Field.fabric) fs) {a0 : Chip} (p : PortSide) (v : Byte) (c : Chip) (h0 : Keeps fs a0 c) : Keeps fs a0 (Chip.commitSec4 p v c) := by
  unfold Chip.commitSec4
  repeat' first
    | (clear_value *; apply Touches.mk <;> intro hn <;> first | with_reducible rfl | exact hm.out hn rfl)
    | extract_lets
    | with_reducible refine Keeps.ite ?_ ?_
    | with_reducible exact h0
    | with_reducible exact Keeps.refl _
    | with_reducible apply commitTime_keeps (hm.sub (by decide))
    | with_reducible refine setRtc_keeps (hm.sub (by decide)) _ _ ?_ ?_
    | with_reducible apply rtcDeny_keeps (hm.sub (by decide))
    | with_reducible refine Keeps.update ?_ ?_
    | exact Nat.le_refl _
    | exact id
    | exact fun _ h => h
    | exact fun h => Tbl.wf_set _ _ _ _ h
    | exact fun h => Tbl.wf_setRun _ _ _ _ h
    | exact fun h => Tbl.wf_dropRange _ _ _ _ h
    | exact fun _ => rfl
    | exact fun _ h => Tbl.wf_set _ _ _ _ h
    | exact fun _ h => Tbl.wf_setRun _ _ _ _ h
    | exact fun _ h => (setView_bkp _ _ _).symm ▸ h

theorem writeCtl_keeps {fs : Nat} (hm : Within (Field.rtc) fs) {a0 : Chip} (p : PortSide) (v : Byte) (c : Chip) (h0 : Keeps fs a0 c) : Keeps fs a0 (Chip.writeCtl p v c) := by
  unfold Chip.writeCtl
  repeat' first
    | (clear_value *; apply Touches.mk <;> intro hn <;> first | with_reducible rfl | exact hm.out hn rfl)
    | extract_lets
    | with_reducible refine Keeps.ite ?_ ?_
    | with_reducible exact h0
    | with_reducible exact Keeps.refl _
    | with_reducible refine setRtc_keeps (hm.sub (by decide)) _ _ ?_ ?_
    | with_reducible apply rtcDeny_keeps (hm.sub (by decide))
    | with_reducible refine Keeps.update ?_ ?_
    | exact Nat.le_refl _
    | exact id
    | exact fun _ h => h
    | exact fun h => Tbl.wf_set _ _ _ _ h
    | exact fun h => Tbl.wf_setRun _ _ _ _ h
    | exact fun h => Tbl.wf_dropRange _ _ _ _ h
    | exact fun _ => rfl
    | exact fun _ h => Tbl.wf_set _ _ _ _ h
    | exact fun _ h => Tbl.wf_setRun _ _ _ _ h
    | exact fun _ h => (setView_bkp _ _ _).symm ▸ h
    | exact fun _ h => by dsimp only; (repeat' split) <;> exact h

theorem writeStat_keeps {fs : Nat} (hm : Within (Field.rtc) fs) {a0 : Chip} (p : PortSide) (v : Byte) (c : Chip) (h0 : Keeps fs a0 c) : Keeps fs a0 (Chip.writeStat p v c) := by
  unfold Chip.writeStat
  repeat' first
    | (clear_value *; apply Touches.mk <;> intro hn <;> first | with_reducible rfl | exact hm.out hn rfl)
    | extract_lets
    | with_reducible refine Keeps.ite ?_ ?_
    | with_reducible exact h0
    | with_reducible exact Keeps.refl _
    | with_reducible refine setRtc_keeps (hm.sub (by decide)) _ _ ?_ ?_
    | with_reducible apply rtcDeny_keeps (hm.sub (by decide))
    | with_reducible refine Keeps.update ?_ ?_
    | exact Nat.le_refl _
    | exact id
    | exact fun _ h => h
    | exact fun h => Tbl.wf_set _ _ _ _ h
    | exact fun h => Tbl.wf_setRun _ _ _ _ h
    | exact fun h => Tbl.wf_dropRange _ _ _ _ h
    | exact fun _ => rfl
    | exact fun _ h => Tbl.wf_set _ _ _ _ h
    | exact fun _ h => Tbl.wf_setRun _ _ _ _ h
    | exact fun _ h => (setView_bkp _ _ _).symm ▸ h

theorem rtcWriteByte_keeps {fs : Nat} (hm : Within (Field.routed ||| Field.clk ||| Field.rtc ||| Field.almanac ||| Field.fabric) fs) {a0 : Chip} (p : PortSide) (off : Nat) (v : Byte) (c : Chip) (h0 : Keeps fs a0 c) : Keeps fs a0 (Chip.rtcWriteByte p off v c) := by
  unfold Chip.rtcWriteByte
  repeat' first
    | (clear_value *; apply Touches.mk <;> intro hn <;> first | with_reducible rfl | exact hm.out hn rfl)
    | extract_lets
    | with_reducible refine Keeps.ite ?_ ?_
    | with_reducible exact h0
    | with_reducible exact Keeps.refl _
    | with_reducible refine setRtc_keeps (hm.sub (by decide)) _ _ ?_ ?_
    | with_reducible apply writeCtl_keeps (hm.sub (by decide))
    | with_reducible apply writeStat_keeps (hm.sub (by decide))
    | with_reducible apply commitSec4_keeps (hm.sub (by decide))
    | with_reducible apply stageSec_keeps (hm.sub (by decide))
    | with_reducible apply rtcDeny_keeps (hm.sub (by decide))
    | with_reducible refine Keeps.update ?_ ?_
    | exact Nat.le_refl _
    | exact id
    | exact fun _ h => h
    | exact fun h => Tbl.wf_set _ _ _ _ h
    | exact fun h => Tbl.wf_setRun _ _ _ _ h
    | exact fun h => Tbl.wf_dropRange _ _ _ _ h
    | exact fun _ => rfl
    | exact fun _ h => Tbl.wf_set _ _ _ _ h

theorem trimInterval_keeps {fs : Nat} (hm : Within (Field.clk ||| Field.rtc) fs) {a0 : Chip} (temp : Int) (c : Chip) (h0 : Keeps fs a0 c) : Keeps fs a0 (Chip.trimInterval temp c) := by
  unfold Chip.trimInterval
  repeat' first
    | (clear_value *; apply Touches.mk <;> intro hn <;> first | with_reducible rfl | exact hm.out hn rfl)
    | extract_lets
    | with_reducible refine Keeps.ite ?_ ?_
    | with_reducible exact h0
    | with_reducible exact Keeps.refl _
    | with_reducible refine setRtc_keeps (hm.sub (by decide)) _ _ ?_ ?_
    | with_reducible apply waitTicks_keeps (hm.sub (by decide))
    | with_reducible refine Keeps.update ?_ ?_
    | exact Nat.le_refl _
    | exact id
    | exact fun _ h => h

theorem writeEph_keeps {fs : Nat} (hm : Within (Field.rtc) fs) {a0 : Chip} (b : List Byte) (c : Chip) (h0 : Keeps fs a0 c) : Keeps fs a0 (Chip.writeEph b c) := by
  unfold Chip.writeEph
  repeat' first
    | (clear_value *; apply Touches.mk <;> intro hn <;> first | with_reducible rfl | exact hm.out hn rfl)
    | extract_lets
    | with_reducible exact h0
    | with_reducible exact Keeps.refl _
    | with_reducible refine setRtc_keeps (hm.sub (by decide)) _ _ ?_ ?_
    | with_reducible refine Keeps.update ?_ ?_
    | exact Nat.le_refl _
    | exact id
    | exact fun _ h => h
    | exact fun h => Tbl.wf_set _ _ _ _ h
    | exact fun h => Tbl.wf_setRun _ _ _ _ h
    | exact fun h => Tbl.wf_dropRange _ _ _ _ h
    | exact fun _ => rfl
    | exact fun _ h => Tbl.wf_set _ _ _ _ h
    | exact fun _ h => Tbl.wf_setRun _ _ _ _ h

theorem bodyEphemerisRead_keeps {fs : Nat} (hm : Within 0 fs) {a0 : Chip} (k : Cmd) (c : Chip) (h0 : Keeps fs a0 c) : ResKeeps fs a0 (bodyEphemerisRead k c) := by
  unfold bodyEphemerisRead
  repeat' first
    | extract_lets
    | with_reducible refine ResKeeps.ite ?_ ?_
    | with_reducible refine Keeps.ite ?_ ?_
    | with_reducible exact h0
    | with_reducible exact Keeps.refl _
    | with_reducible apply ResKeeps.done
    | with_reducible apply ResKeeps.accepted
    | with_reducible apply ResKeeps.acceptedDone
    | with_reducible apply ResKeeps.waiting
    | with_reducible apply ResKeeps.held
    | with_reducible apply ResKeeps.ok
    | with_reducible apply ResKeeps.okWith
    | with_reducible apply ResKeeps.err
    | with_reducible apply ResKeeps.badParam
    | with_reducible apply ResKeeps.badLength

theorem bodyEphemerisWrite_keeps {fs : Nat} (hm : Within (Field.rtc ||| Field.almanac) fs) {a0 : Chip} (k : Cmd) (c : Chip) (h0 : Keeps fs a0 c) : ResKeeps fs a0 (bodyEphemerisWrite k c) := by
  unfold bodyEphemerisWrite
  repeat' first
    | (clear_value *; apply Touches.mk <;> intro hn <;> first | with_reducible rfl | exact hm.out hn rfl)
    | extract_lets
    | with_reducible refine ResKeeps.ite ?_ ?_
    | with_reducible refine Keeps.ite ?_ ?_
    | with_reducible exact h0
    | with_reducible exact Keeps.refl _
    | with_reducible apply writeEph_keeps (hm.sub (by decide))
    | with_reducible apply ResKeeps.done
    | with_reducible apply ResKeeps.accepted
    | with_reducible apply ResKeeps.acceptedDone
    | with_reducible apply ResKeeps.waiting
    | with_reducible apply ResKeeps.held
    | with_reducible apply ResKeeps.ok
    | with_reducible apply ResKeeps.okWith
    | with_reducible apply ResKeeps.err
    | with_reducible apply ResKeeps.badParam
    | with_reducible apply ResKeeps.badLength
    | split
    | with_reducible refine Keeps.update ?_ ?_

theorem ephFlashDone_keeps {fs : Nat} (hm : Within (Field.routed ||| Field.sessions ||| Field.staged ||| Field.lives ||| Field.cmds ||| Field.firmware ||| Field.image ||| Field.almanac ||| Field.links ||| Field.fabric ||| Field.cal ||| Field.streams ||| Field.can) fs) {a0 : Chip} (ok : Bool) (c : Chip) (h0 : Keeps fs a0 c) : Keeps fs a0 (Chip.ephFlashDone ok c) := by
  unfold Chip.ephFlashDone
  repeat' first
    | (clear_value *; apply Touches.mk <;> intro hn <;> first | with_reducible rfl | exact hm.out hn rfl)
    | extract_lets
    | with_reducible refine Keeps.ite ?_ ?_
    | with_reducible exact h0
    | with_reducible exact Keeps.refl _
    | with_reducible apply logFault_keeps (hm.sub (by decide))
    | with_reducible apply finishTag_keeps (hm.sub (by decide))
    | split
    | with_reducible refine Keeps.update ?_ ?_

theorem bodyTimeSet_keeps {fs : Nat} (hm : Within (Field.routed ||| Field.clk ||| Field.rtc ||| Field.almanac ||| Field.fabric) fs) {a0 : Chip} (k : Cmd) (c : Chip) (h0 : Keeps fs a0 c) : ResKeeps fs a0 (bodyTimeSet k c) := by
  unfold bodyTimeSet
  repeat' first
    | (clear_value *; apply Touches.mk <;> intro hn <;> first | with_reducible rfl | exact hm.out hn rfl)
    | extract_lets
    | with_reducible refine ResKeeps.ite ?_ ?_
    | with_reducible refine Keeps.ite ?_ ?_
    | with_reducible exact h0
    | with_reducible exact Keeps.refl _
    | with_reducible apply commitTime_keeps (hm.sub (by decide))
    | with_reducible apply ResKeeps.done
    | with_reducible apply ResKeeps.accepted
    | with_reducible apply ResKeeps.acceptedDone
    | with_reducible apply ResKeeps.waiting
    | with_reducible apply ResKeeps.held
    | with_reducible apply ResKeeps.ok
    | with_reducible apply ResKeeps.okWith
    | with_reducible apply ResKeeps.err
    | with_reducible apply ResKeeps.badParam
    | with_reducible apply ResKeeps.badLength
    | split

theorem bodyTimeCapture_keeps {fs : Nat} (hm : Within (Field.clk ||| Field.rtc) fs) {a0 : Chip} (k : Cmd) (c : Chip) (h0 : Keeps fs a0 c) : ResKeeps fs a0 (bodyTimeCapture k c) := by
  unfold bodyTimeCapture
  repeat' first
    | extract_lets
    | with_reducible refine ResKeeps.ite ?_ ?_
    | with_reducible refine Keeps.ite ?_ ?_
    | with_reducible exact h0
    | with_reducible exact Keeps.refl _
    | with_reducible apply waitTicks_keeps (hm.sub (by decide))
    | with_reducible apply ResKeeps.done
    | with_reducible apply ResKeeps.accepted
    | with_reducible apply ResKeeps.acceptedDone
    | with_reducible apply ResKeeps.waiting
    | with_reducible apply ResKeeps.held
    | with_reducible apply ResKeeps.ok
    | with_reducible apply ResKeeps.okWith
    | with_reducible apply ResKeeps.err
    | with_reducible apply ResKeeps.badParam
    | with_reducible apply ResKeeps.badLength

theorem setCalendar_keeps {fs : Nat} (hm : Within (Field.almanac) fs) {a0 : Chip} (p : List Byte) (c : Chip) (h0 : Keeps fs a0 c) : Keeps fs a0 (Chip.setCalendar p c) := by
  unfold Chip.setCalendar
  repeat' first
    | (clear_value *; apply Touches.mk <;> intro hn <;> first | with_reducible rfl | exact hm.out hn rfl)
    | extract_lets
    | with_reducible exact h0
    | with_reducible exact Keeps.refl _
    | with_reducible refine Keeps.update ?_ ?_

theorem bodyCalendarSet_keeps {fs : Nat} (hm : Within (Field.almanac) fs) {a0 : Chip} (k : Cmd) (c : Chip) (h0 : Keeps fs a0 c) : ResKeeps fs a0 (bodyCalendarSet k c) := by
  unfold bodyCalendarSet
  repeat' first
    | (clear_value *; apply Touches.mk <;> intro hn <;> first | with_reducible rfl | exact hm.out hn rfl)
    | extract_lets
    | with_reducible refine ResKeeps.ite ?_ ?_
    | with_reducible refine Keeps.ite ?_ ?_
    | with_reducible exact h0
    | with_reducible exact Keeps.refl _
    | with_reducible apply setCalendar_keeps (hm.sub (by decide))
    | with_reducible apply ResKeeps.done
    | with_reducible apply ResKeeps.accepted
    | with_reducible apply ResKeeps.acceptedDone
    | with_reducible apply ResKeeps.waiting
    | with_reducible apply ResKeeps.held
    | with_reducible apply ResKeeps.ok
    | with_reducible apply ResKeeps.okWith
    | with_reducible apply ResKeeps.err
    | with_reducible apply ResKeeps.badParam
    | with_reducible apply ResKeeps.badLength
    | split

theorem bodyWakeSet_keeps {fs : Nat} (hm : Within (Field.rtc) fs) {a0 : Chip} (k : Cmd) (c : Chip) (h0 : Keeps fs a0 c) : ResKeeps fs a0 (bodyWakeSet k c) := by
  unfold bodyWakeSet
  repeat' first
    | (clear_value *; apply Touches.mk <;> intro hn <;> first | with_reducible rfl | exact hm.out hn rfl)
    | extract_lets
    | with_reducible refine ResKeeps.ite ?_ ?_
    | with_reducible refine Keeps.ite ?_ ?_
    | with_reducible exact h0
    | with_reducible exact Keeps.refl _
    | with_reducible refine setRtc_keeps (hm.sub (by decide)) _ _ ?_ ?_
    | with_reducible apply ResKeeps.done
    | with_reducible apply ResKeeps.accepted
    | with_reducible apply ResKeeps.acceptedDone
    | with_reducible apply ResKeeps.waiting
    | with_reducible apply ResKeeps.held
    | with_reducible apply ResKeeps.ok
    | with_reducible apply ResKeeps.okWith
    | with_reducible apply ResKeeps.err
    | with_reducible apply ResKeeps.badParam
    | with_reducible apply ResKeeps.badLength
    | with_reducible refine Keeps.update ?_ ?_
    | exact Nat.le_refl _
    | exact id
    | exact fun _ h => h

theorem bodyAlarmSet_keeps {fs : Nat} (hm : Within (Field.rtc) fs) {a0 : Chip} (k : Cmd) (c : Chip) (h0 : Keeps fs a0 c) : ResKeeps fs a0 (bodyAlarmSet k c) := by
  unfold bodyAlarmSet
  repeat' first
    | (clear_value *; apply Touches.mk <;> intro hn <;> first | with_reducible rfl | exact hm.out hn rfl)
    | extract_lets
    | with_reducible refine ResKeeps.ite ?_ ?_
    | with_reducible refine Keeps.ite ?_ ?_
    | with_reducible exact h0
    | with_reducible exact Keeps.refl _
    | with_reducible refine setRtc_keeps (hm.sub (by decide)) _ _ ?_ ?_
    | with_reducible apply ResKeeps.done
    | with_reducible apply ResKeeps.accepted
    | with_reducible apply ResKeeps.acceptedDone
    | with_reducible apply ResKeeps.waiting
    | with_reducible apply ResKeeps.held
    | with_reducible apply ResKeeps.ok
    | with_reducible apply ResKeeps.okWith
    | with_reducible apply ResKeeps.err
    | with_reducible apply ResKeeps.badParam
    | with_reducible apply ResKeeps.badLength
    | with_reducible refine Keeps.update ?_ ?_
    | exact Nat.le_refl _
    | exact id
    | exact fun _ h => h
    | exact fun h => Tbl.wf_set _ _ _ _ h
    | exact fun h => Tbl.wf_setRun _ _ _ _ h
    | exact fun h => Tbl.wf_dropRange _ _ _ _ h
    | exact fun _ => rfl
    | exact fun _ h => Tbl.wf_set _ _ _ _ h
    | exact fun _ h => Tbl.wf_setRun _ _ _ _ h
    | exact fun _ h => (setView_bkp _ _ _).symm ▸ h
    | exact fun _ h => by dsimp only; (repeat' split) <;> exact h

theorem backupReset_keeps {fs : Nat} (hm : Within (Field.rtc) fs) {a0 : Chip} (c : Chip) (h0 : Keeps fs a0 c) : Keeps fs a0 (Chip.backupReset c) := by
  unfold Chip.backupReset
  repeat' first
    | (clear_value *; apply Touches.mk <;> intro hn <;> first | with_reducible rfl | exact hm.out hn rfl)
    | (apply Touches.mk <;> intro hn <;> first | with_reducible rfl | exact hm.out hn rfl)
    | extract_lets
    | with_reducible exact h0
    | with_reducible exact Keeps.refl _
    | with_reducible refine Keeps.update ?_ ?_
    | with_reducible refine Keeps.change ?_ ?_ ?_ ?_ ?_ ?_
    | exact Nat.le_refl _
    | exact id
    | exact fun _ h => h
    | exact fun h => Tbl.wf_set _ _ _ _ h
    | exact fun h => Tbl.wf_setRun _ _ _ _ h
    | exact fun h => Tbl.wf_dropRange _ _ _ _ h
    | exact fun _ => rfl

end Sys2Proof.Machine
end

