-- ==== Sys2Proof/Laws/KeepsEvents.lean ====
section
/-! SUPPORT. What Machine/Events.lean keeps. -/

namespace Sys2Proof.Machine

theorem bodyEventRoute_keeps {fs : Nat} (hm : Within (Field.routed ||| Field.attrs) fs) {a0 : Chip} (k : Cmd) (c : Chip) (h0 : Keeps fs a0 c) : ResKeeps fs a0 (bodyEventRoute k c) := by
  unfold bodyEventRoute
  repeat' first
    | extract_lets
    | with_reducible refine ResKeeps.ite ?_ ?_
    | with_reducible refine Keeps.ite ?_ ?_
    | with_reducible exact h0
    | with_reducible exact Keeps.refl _
    | with_reducible apply writeRoute_keeps (hm.sub (by decide))
    | with_reducible apply ResKeeps.done
    | with_reducible apply ResKeeps.accepted
    | with_reducible apply ResKeeps.acceptedDone
    | with_reducible apply ResKeeps.waiting
    | with_reducible apply ResKeeps.held
    | with_reducible apply ResKeeps.ok
    | with_reducible apply ResKeeps.okWith
    | with_reducible apply ResKeeps.err
    | with_reducible apply ResKeeps.badParam
    | with_reducible apply ResKeeps.badLength

theorem bodyEventMask_keeps {fs : Nat} (hm : Within (Field.routed ||| Field.attrs) fs) {a0 : Chip} (k : Cmd) (c : Chip) (h0 : Keeps fs a0 c) : ResKeeps fs a0 (bodyEventMask k c) := by
  unfold bodyEventMask
  repeat' first
    | extract_lets
    | with_reducible refine ResKeeps.ite ?_ ?_
    | with_reducible refine Keeps.ite ?_ ?_
    | with_reducible exact h0
    | with_reducible exact Keeps.refl _
    | with_reducible apply writeRoute_keeps (hm.sub (by decide))
    | with_reducible apply ResKeeps.done
    | with_reducible apply ResKeeps.accepted
    | with_reducible apply ResKeeps.acceptedDone
    | with_reducible apply ResKeeps.waiting
    | with_reducible apply ResKeeps.held
    | with_reducible apply ResKeeps.ok
    | with_reducible apply ResKeeps.okWith
    | with_reducible apply ResKeeps.err
    | with_reducible apply ResKeeps.badParam
    | with_reducible apply ResKeeps.badLength

theorem bodyEventRead_keeps {fs : Nat} (hm : Within (Field.events) fs) {a0 : Chip} (k : Cmd) (c : Chip) (h0 : Keeps fs a0 c) : ResKeeps fs a0 (bodyEventRead k c) := by
  unfold bodyEventRead
  repeat' first
    | extract_lets
    | with_reducible refine ResKeeps.ite ?_ ?_
    | with_reducible refine Keeps.ite ?_ ?_
    | with_reducible exact h0
    | with_reducible exact Keeps.refl _
    | with_reducible apply ackEvent_keeps (hm.sub (by decide))
    | with_reducible apply ResKeeps.done
    | with_reducible apply ResKeeps.accepted
    | with_reducible apply ResKeeps.acceptedDone
    | with_reducible apply ResKeeps.waiting
    | with_reducible apply ResKeeps.held
    | with_reducible apply ResKeeps.ok
    | with_reducible apply ResKeeps.okWith
    | with_reducible apply ResKeeps.err
    | with_reducible apply ResKeeps.badParam
    | with_reducible apply ResKeeps.badLength

theorem configQueue_keeps {fs : Nat} (hm : Within (Field.queues ||| Field.ring) fs) {a0 : Chip} (q : Nat) (p : List Byte) (c : Chip) (h0 : Keeps fs a0 c) : Keeps fs a0 (Chip.configQueue q p c) := by
  unfold Chip.configQueue
  repeat' first
    | (clear_value *; apply Touches.mk <;> intro hn <;> first | with_reducible rfl | exact hm.out hn rfl)
    | extract_lets
    | with_reducible refine Keeps.ite ?_ ?_
    | with_reducible exact h0
    | with_reducible exact Keeps.refl _
    | with_reducible apply setQueue_keeps (hm.sub (by decide))
    | with_reducible refine Keeps.update ?_ ?_
    | with_reducible refine Keeps.change ?_ ?_ ?_ ?_ ?_ ?_
    | exact Nat.le_refl _
    | exact id
    | exact fun _ h => h
    | exact fun h => Tbl.wf_set _ _ _ _ h
    | exact fun h => Tbl.wf_setRun _ _ _ _ h
    | exact fun h => Tbl.wf_dropRange _ _ _ _ h

theorem bodyQueueConfig_keeps {fs : Nat} (hm : Within (Field.queues ||| Field.ring) fs) {a0 : Chip} (k : Cmd) (c : Chip) (h0 : Keeps fs a0 c) : ResKeeps fs a0 (bodyQueueConfig k c) := by
  unfold bodyQueueConfig
  repeat' first
    | (clear_value *; apply Touches.mk <;> intro hn <;> first | with_reducible rfl | exact hm.out hn rfl)
    | extract_lets
    | with_reducible refine ResKeeps.ite ?_ ?_
    | with_reducible refine Keeps.ite ?_ ?_
    | with_reducible exact h0
    | with_reducible exact Keeps.refl _
    | with_reducible apply configQueue_keeps (hm.sub (by decide))
    | with_reducible apply ResKeeps.done
    | with_reducible apply ResKeeps.accepted
    | with_reducible apply ResKeeps.acceptedDone
    | with_reducible apply ResKeeps.waiting
    | with_reducible apply ResKeeps.held
    | with_reducible apply ResKeeps.ok
    | with_reducible apply ResKeeps.okWith
    | with_reducible apply ResKeeps.err
    | with_reducible apply ResKeeps.badParam
    | with_reducible apply ResKeeps.badLength
    | split

theorem bodyQueueStatus_keeps {fs : Nat} (hm : Within (Field.queues) fs) {a0 : Chip} (k : Cmd) (c : Chip) (h0 : Keeps fs a0 c) : ResKeeps fs a0 (bodyQueueStatus k c) := by
  unfold bodyQueueStatus
  repeat' first
    | (clear_value *; apply Touches.mk <;> intro hn <;> first | with_reducible rfl | exact hm.out hn rfl)
    | extract_lets
    | with_reducible refine ResKeeps.ite ?_ ?_
    | with_reducible refine Keeps.ite ?_ ?_
    | with_reducible exact h0
    | with_reducible exact Keeps.refl _
    | with_reducible apply setQueue_keeps (hm.sub (by decide))
    | with_reducible apply ResKeeps.done
    | with_reducible apply ResKeeps.accepted
    | with_reducible apply ResKeeps.acceptedDone
    | with_reducible apply ResKeeps.waiting
    | with_reducible apply ResKeeps.held
    | with_reducible apply ResKeeps.ok
    | with_reducible apply ResKeeps.okWith
    | with_reducible apply ResKeeps.err
    | with_reducible apply ResKeeps.badParam
    | with_reducible apply ResKeeps.badLength

theorem bodyCoalesceSet_keeps {fs : Nat} (hm : Within (Field.routed) fs) {a0 : Chip} (k : Cmd) (c : Chip) (h0 : Keeps fs a0 c) : ResKeeps fs a0 (bodyCoalesceSet k c) := by
  unfold bodyCoalesceSet
  repeat' first
    | (clear_value *; apply Touches.mk <;> intro hn <;> first | with_reducible rfl | exact hm.out hn rfl)
    | extract_lets
    | with_reducible refine ResKeeps.ite ?_ ?_
    | with_reducible refine Keeps.ite ?_ ?_
    | with_reducible exact h0
    | with_reducible exact Keeps.refl _
    | with_reducible apply notify_keeps (hm.sub (by decide))
    | with_reducible apply setQueue_keeps (hm.sub (by decide))
    | with_reducible apply ResKeeps.done
    | with_reducible apply ResKeeps.accepted
    | with_reducible apply ResKeeps.acceptedDone
    | with_reducible apply ResKeeps.waiting
    | with_reducible apply ResKeeps.held
    | with_reducible apply ResKeeps.ok
    | with_reducible apply ResKeeps.okWith
    | with_reducible apply ResKeeps.err
    | with_reducible apply ResKeeps.badParam
    | with_reducible apply ResKeeps.badLength

theorem deliverEvent_keeps {fs : Nat} (hm : Within (Field.routed) fs) {a0 : Chip} (e : Nat) (c : Chip) (h0 : Keeps fs a0 c) : Keeps fs a0 (Chip.deliverEvent e c) := by
  unfold Chip.deliverEvent
  repeat' first
    | (clear_value *; apply Touches.mk <;> intro hn <;> first | with_reducible rfl | exact hm.out hn rfl)
    | extract_lets
    | with_reducible refine Keeps.ite ?_ ?_
    | with_reducible exact h0
    | with_reducible exact Keeps.refl _
    | with_reducible apply fire_keeps (hm.sub (by decide))
    | with_reducible apply setEvent_keeps (hm.sub (by decide))
    | with_reducible apply setQueue_keeps (hm.sub (by decide))
    | with_reducible apply putRecord_keeps (hm.sub (by decide))

theorem coalExpire_keeps {fs : Nat} (hm : Within (Field.routed ||| Field.clk ||| Field.rtc) fs) {a0 : Chip} (q : Nat) (c : Chip) (h0 : Keeps fs a0 c) : Keeps fs a0 (Chip.coalExpire q c) := by
  unfold Chip.coalExpire
  repeat' first
    | (clear_value *; apply Touches.mk <;> intro hn <;> first | with_reducible rfl | exact hm.out hn rfl)
    | extract_lets
    | with_reducible refine Keeps.ite ?_ ?_
    | with_reducible exact h0
    | with_reducible exact Keeps.refl _
    | with_reducible apply notify_keeps (hm.sub (by decide))
    | with_reducible apply waitTransit_keeps (hm.sub (by decide))
    | split

theorem doorbell_keeps {fs : Nat} (hm : Within (Field.routed) fs) {a0 : Chip} (q : Nat) (idx : Nat) (c : Chip) (h0 : Keeps fs a0 c) : Keeps fs a0 (Chip.doorbell q idx c) := by
  unfold Chip.doorbell
  repeat' first
    | (clear_value *; apply Touches.mk <;> intro hn <;> first | with_reducible rfl | exact hm.out hn rfl)
    | extract_lets
    | with_reducible refine Keeps.ite ?_ ?_
    | with_reducible exact h0
    | with_reducible exact Keeps.refl _
    | with_reducible apply fire_keeps (hm.sub (by decide))
    | with_reducible apply setQueue_keeps (hm.sub (by decide))
    | with_reducible apply rungTo_keeps (hm.sub (by decide))

theorem setOwner_keeps {fs : Nat} (hm : Within (Field.routed ||| Field.owners) fs) {a0 : Chip} (hnd : Nat) (toMgt : Bool) (byMgt : Bool) (c : Chip) (h0 : Keeps fs a0 c) : Keeps fs a0 (Chip.setOwner hnd toMgt byMgt c) := by
  unfold Chip.setOwner
  repeat' first
    | (clear_value *; apply Touches.mk <;> intro hn <;> first | with_reducible rfl | exact hm.out hn rfl)
    | extract_lets
    | with_reducible refine Keeps.ite ?_ ?_
    | with_reducible exact h0
    | with_reducible exact Keeps.refl _
    | with_reducible apply fire_keeps (hm.sub (by decide))
    | with_reducible refine Keeps.update ?_ ?_

end Sys2Proof.Machine
end

