-- ==== Sys2Proof/Laws/KeepsHostPort.lean ====
section
/-! SUPPORT. What Machine/HostPort.lean keeps. -/

namespace Sys2Proof.Machine

theorem hifReadByte_keeps {fs : Nat} (hm : Within (Field.power ||| Field.dogs ||| Field.rtc) fs) {a0 : Chip} (a : Nat) (c : Chip) (h0 : Keeps fs a0 c) : Keeps fs a0 (Chip.hifReadByte a c).2 := by
  unfold Chip.hifReadByte
  repeat' first
    | extract_lets
    | with_reducible refine Keeps.ite ?_ ?_
    | with_reducible refine Keeps.ite ?_ ?_
    | with_reducible exact h0
    | with_reducible exact Keeps.refl _
    | with_reducible apply rtcReadByte_keeps (hm.sub (by decide))
    | split

theorem hifRead_keeps {fs : Nat} (hm : Within (Field.power ||| Field.dogs ||| Field.rtc) fs) {a0 : Chip} (a n : Nat) (c : Chip) (h0 : Keeps fs a0 c) : Keeps fs a0 (Chip.hifRead a n c).2 := by
  induction n generalizing a c with
  | zero => exact h0
  | succ n ih => exact ih _ _ (hifReadByte_keeps (hm.sub (by decide)) _ _ h0)

theorem brokenRead_keeps {fs : Nat} (hm : Within (Field.power ||| Field.dogs ||| Field.rtc) fs) {a0 : Chip} (addr : Nat) (c : Chip) (h0 : Keeps fs a0 c) : Keeps fs a0 (Chip.brokenRead addr c) := by
  unfold Chip.brokenRead
  repeat' first
    | extract_lets
    | with_reducible refine Keeps.ite ?_ ?_
    | with_reducible exact h0
    | with_reducible exact Keeps.refl _
    | with_reducible apply rtcReadByte_keeps (hm.sub (by decide))

theorem regRead_keeps {fs : Nat} (hm : Within (Field.host ||| Field.power ||| Field.dogs ||| Field.rtc) fs) {a0 : Chip} (addr : Nat) (len : Nat) (c : Chip) (h0 : Keeps fs a0 c) : Keeps fs a0 (Chip.regRead addr len c) := by
  unfold Chip.regRead
  repeat' first
    | (clear_value *; apply Touches.mk <;> intro hn <;> first | with_reducible rfl | exact hm.out hn rfl)
    | extract_lets
    | with_reducible refine Keeps.ite ?_ ?_
    | with_reducible exact h0
    | with_reducible exact Keeps.refl _
    | with_reducible apply hifRead_keeps (hm.sub (by decide))
    | with_reducible apply brokenRead_keeps (hm.sub (by decide))
    | with_reducible refine Keeps.update ?_ ?_

theorem ringReadCmd_keeps {fs : Nat} (hm : Within (Field.host) fs) {a0 : Chip} (addr : Nat) (len : Nat) (c : Chip) (h0 : Keeps fs a0 c) : Keeps fs a0 (Chip.ringReadCmd addr len c) := by
  unfold Chip.ringReadCmd
  repeat' first
    | (clear_value *; apply Touches.mk <;> intro hn <;> first | with_reducible rfl | exact hm.out hn rfl)
    | extract_lets
    | with_reducible refine Keeps.ite ?_ ?_
    | with_reducible exact h0
    | with_reducible exact Keeps.refl _
    | with_reducible refine Keeps.update ?_ ?_

theorem checkedWrite_keeps {fs : Nat} (hm : Within (Field.host) fs) {a0 : Chip} (cmd : Nat) (addrBytes : Nat) (w : HeldWrite) (crc : Nat) (c : Chip) (h0 : Keeps fs a0 c) : Keeps fs a0 (Chip.checkedWrite cmd addrBytes w crc c) := by
  unfold Chip.checkedWrite
  repeat' first
    | (clear_value *; apply Touches.mk <;> intro hn <;> first | with_reducible rfl | exact hm.out hn rfl)
    | extract_lets
    | with_reducible refine Keeps.ite ?_ ?_
    | with_reducible exact h0
    | with_reducible exact Keeps.refl _
    | with_reducible refine Keeps.update ?_ ?_

theorem hifWErr_keeps {fs : Nat} (hm : Within (Field.host) fs) {a0 : Chip} (c : Chip) (h0 : Keeps fs a0 c) : Keeps fs a0 (Chip.hifWErr c) := by
  unfold Chip.hifWErr
  repeat' first
    | (clear_value *; apply Touches.mk <;> intro hn <;> first | with_reducible rfl | exact hm.out hn rfl)
    | extract_lets
    | with_reducible exact h0
    | with_reducible exact Keeps.refl _
    | with_reducible refine Keeps.update ?_ ?_

theorem hifBind_keeps {fs : Nat} (hm : Within (Field.host ||| Field.fabric) fs) {a0 : Chip} (h : Nat) (v : Nat) (c : Chip) (h0 : Keeps fs a0 c) : Keeps fs a0 (Chip.hifBind h v c) := by
  unfold Chip.hifBind
  repeat' first
    | (clear_value *; apply Touches.mk <;> intro hn <;> first | with_reducible rfl | exact hm.out hn rfl)
    | extract_lets
    | with_reducible refine Keeps.ite ?_ ?_
    | with_reducible exact h0
    | with_reducible exact Keeps.refl _
    | with_reducible apply notePath_keeps (hm.sub (by decide))
    | with_reducible apply hifWErr_keeps (hm.sub (by decide))
    | with_reducible refine Keeps.update ?_ ?_

theorem hifErrcnt_keeps {fs : Nat} (hm : Within (Field.host) fs) {a0 : Chip} (bs : List (Option Byte)) (c : Chip) (h0 : Keeps fs a0 c) : Keeps fs a0 (Chip.hifErrcnt bs c) := by
  unfold Chip.hifErrcnt
  repeat' first
    | (clear_value *; apply Touches.mk <;> intro hn <;> first | with_reducible rfl | exact hm.out hn rfl)
    | extract_lets
    | with_reducible refine Keeps.ite ?_ ?_
    | with_reducible exact h0
    | with_reducible exact Keeps.refl _
    | with_reducible apply hifWErr_keeps (hm.sub (by decide))
    | with_reducible refine Keeps.update ?_ ?_

theorem hifWriteReg_keeps {fs : Nat} (hm : Within (Field.routed ||| Field.host ||| Field.fabric) fs) {a0 : Chip} (off : Nat) (bs : List (Option Byte)) (c : Chip) (h0 : Keeps fs a0 c) : Keeps fs a0 (Chip.hifWriteReg off bs c) := by
  unfold Chip.hifWriteReg
  repeat' first
    | (clear_value *; apply Touches.mk <;> intro hn <;> first | with_reducible rfl | exact hm.out hn rfl)
    | extract_lets
    | with_reducible refine Keeps.ite ?_ ?_
    | with_reducible exact h0
    | with_reducible exact Keeps.refl _
    | with_reducible apply doorbell_keeps (hm.sub (by decide))
    | with_reducible apply hifBind_keeps (hm.sub (by decide))
    | with_reducible apply hifErrcnt_keeps (hm.sub (by decide))
    | with_reducible apply ackEvent_keeps (hm.sub (by decide))
    | with_reducible apply hifWErr_keeps (hm.sub (by decide))
    | with_reducible refine Keeps.update ?_ ?_

theorem hifWriteRegs_keeps {fs : Nat} (hm : Within (Field.routed ||| Field.clk ||| Field.host ||| Field.rtc ||| Field.almanac ||| Field.fabric) fs) {a0 : Chip} (fuel a : Nat) (bs : List Byte) (c : Chip) (h0 : Keeps fs a0 c) : Keeps fs a0 (Chip.hifWriteRegs fuel a bs c) := by
  induction fuel generalizing a bs c with
  | zero => exact h0
  | succ n ih =>
    cases bs with
    | nil => exact h0
    | cons b bs =>
      unfold Chip.hifWriteRegs
      refine Keeps.ite (ih _ _ _ ?_) (ih _ _ _ (hifWriteReg_keeps (hm.sub (by decide)) _ _ _ h0))
      exact Keeps.ite (rtcWriteByte_keeps (hm.sub (by decide)) _ _ _ _ h0) (hifWErr_keeps (hm.sub (by decide)) _ (rtcWriteByte_keeps (hm.sub (by decide)) _ _ _ _ h0))

theorem hifWrite_keeps {fs : Nat} (hm : Within (Field.routed ||| Field.clk ||| Field.host ||| Field.rtc ||| Field.almanac ||| Field.fabric) fs) {a0 : Chip} (a : Nat) (bs : List Byte) (c : Chip) (h0 : Keeps fs a0 c) : Keeps fs a0 (Chip.hifWrite a bs c) := by
  unfold Chip.hifWrite
  repeat' first
    | extract_lets
    | with_reducible exact h0
    | with_reducible exact Keeps.refl _
    | with_reducible apply hifWriteRegs_keeps (hm.sub (by decide))

theorem applyHeld_keeps {fs : Nat} (hm : Within (Field.routed ||| Field.clk ||| Field.host ||| Field.rtc ||| Field.almanac ||| Field.fabric) fs) {a0 : Chip} (c : Chip) (h0 : Keeps fs a0 c) : Keeps fs a0 (Chip.applyHeld c) := by
  unfold Chip.applyHeld
  repeat' first
    | (clear_value *; apply Touches.mk <;> intro hn <;> first | with_reducible rfl | exact hm.out hn rfl)
    | extract_lets
    | with_reducible refine Keeps.ite ?_ ?_
    | with_reducible exact h0
    | with_reducible exact Keeps.refl _
    | with_reducible apply hifWErr_keeps (hm.sub (by decide))
    | with_reducible apply hifWrite_keeps (hm.sub (by decide))
    | split
    | with_reducible refine Keeps.update ?_ ?_
    | with_reducible refine Keeps.change ?_ ?_ ?_ ?_ ?_ ?_
    | exact Nat.le_refl _
    | exact id
    | exact fun _ h => h
    | exact fun h => Tbl.wf_set _ _ _ _ h
    | exact fun h => Tbl.wf_setRun _ _ _ _ h

end Sys2Proof.Machine
end

