-- ==== Sys2Proof/Laws/KeepsFirmware.lean ====
section
/-! SUPPORT. What Machine/Firmware.lean keeps. -/

namespace Sys2Proof.Machine

theorem setFw_keeps {fs : Nat} (hm : Within (Field.firmware) fs) {a0 : Chip} (f : FirmwareSt → FirmwareSt) (c : Chip) (h0 : Keeps fs a0 c) : Keeps fs a0 (Chip.setFw f c) := by
  unfold Chip.setFw
  repeat' first
    | (clear_value *; apply Touches.mk <;> intro hn <;> first | with_reducible rfl | exact hm.out hn rfl)
    | (apply Touches.mk <;> intro hn <;> first | with_reducible rfl | exact hm.out hn rfl)
    | extract_lets
    | with_reducible exact h0
    | with_reducible exact Keeps.refl _
    | with_reducible refine Keeps.update ?_ ?_

theorem bodyFwInfo_keeps {fs : Nat} (hm : Within 0 fs) {a0 : Chip} (k : Cmd) (c : Chip) (h0 : Keeps fs a0 c) : ResKeeps fs a0 (bodyFwInfo k c) := by
  unfold bodyFwInfo
  repeat' first
    | extract_lets
    | with_reducible refine ResKeeps.ite ?_ ?_
    | with_reducible refine Keeps.ite ?_ ?_
    | with_reducible exact h0
    | with_reducible exact Keeps.refl _
    | with_reducible apply ResKeeps.done
    | with_reducible apply ResKeeps.accepted
    | with_reducible apply ResKeeps.acceptedDone
    | with_reducible apply ResKeeps.waiting
    | with_reducible apply ResKeeps.held
    | with_reducible apply ResKeeps.ok
    | with_reducible apply ResKeeps.okWith
    | with_reducible apply ResKeeps.err
    | with_reducible apply ResKeeps.badParam
    | with_reducible apply ResKeeps.badLength

theorem bodyFwWrite_keeps {fs : Nat} (hm : Within (Field.firmware) fs) {a0 : Chip} (k : Cmd) (c : Chip) (h0 : Keeps fs a0 c) : ResKeeps fs a0 (bodyFwWrite k c) := by
  unfold bodyFwWrite
  repeat' first
    | (clear_value *; apply Touches.mk <;> intro hn <;> first | with_reducible rfl | exact hm.out hn rfl)
    | extract_lets
    | with_reducible refine ResKeeps.ite ?_ ?_
    | with_reducible refine Keeps.ite ?_ ?_
    | with_reducible exact h0
    | with_reducible exact Keeps.refl _
    | with_reducible apply setFw_keeps (hm.sub (by decide))
    | with_reducible apply ResKeeps.done
    | with_reducible apply ResKeeps.accepted
    | with_reducible apply ResKeeps.acceptedDone
    | with_reducible apply ResKeeps.waiting
    | with_reducible apply ResKeeps.held
    | with_reducible apply ResKeeps.ok
    | with_reducible apply ResKeeps.okWith
    | with_reducible apply ResKeeps.err
    | with_reducible apply ResKeeps.badParam
    | with_reducible apply ResKeeps.badLength

theorem bodyFwCommit_keeps {fs : Nat} (hm : Within (Field.firmware ||| Field.flash) fs) {a0 : Chip} (k : Cmd) (c : Chip) (h0 : Keeps fs a0 c) : ResKeeps fs a0 (bodyFwCommit k c) := by
  unfold bodyFwCommit
  repeat' first
    | (clear_value *; apply Touches.mk <;> intro hn <;> first | with_reducible rfl | exact hm.out hn rfl)
    | extract_lets
    | with_reducible refine ResKeeps.ite ?_ ?_
    | with_reducible refine Keeps.ite ?_ ?_
    | with_reducible exact h0
    | with_reducible exact Keeps.refl _
    | with_reducible apply ResKeeps.done
    | with_reducible apply ResKeeps.accepted
    | with_reducible apply ResKeeps.acceptedDone
    | with_reducible apply ResKeeps.waiting
    | with_reducible apply ResKeeps.held
    | with_reducible apply ResKeeps.ok
    | with_reducible apply ResKeeps.okWith
    | with_reducible apply ResKeeps.err
    | with_reducible apply ResKeeps.badParam
    | with_reducible apply ResKeeps.badLength
    | split
    | with_reducible refine Keeps.update ?_ ?_
    | with_reducible refine Keeps.change ?_ ?_ ?_ ?_ ?_ ?_
    | exact Nat.le_refl _
    | exact id
    | exact fun _ h => h
    | exact fun h => Tbl.wf_set _ _ _ _ h
    | exact fun h => Tbl.wf_setRun _ _ _ _ h
    | exact fun h => Tbl.wf_dropRange _ _ _ _ h

theorem fwCommitDone_keeps {fs : Nat} (hm : Within (Field.routed ||| Field.sessions ||| Field.staged ||| Field.lives ||| Field.cmds ||| Field.firmware ||| Field.image ||| Field.flash ||| Field.links ||| Field.fabric ||| Field.cal ||| Field.streams ||| Field.can) fs) {a0 : Chip} (mismatches : Nat) (c : Chip) (h0 : Keeps fs a0 c) : Keeps fs a0 (Chip.fwCommitDone mismatches c) := by
  unfold Chip.fwCommitDone
  repeat' first
    | (clear_value *; apply Touches.mk <;> intro hn <;> first | with_reducible rfl | exact hm.out hn rfl)
    | extract_lets
    | with_reducible refine Keeps.ite ?_ ?_
    | with_reducible exact h0
    | with_reducible exact Keeps.refl _
    | with_reducible apply logFault_keeps (hm.sub (by decide))
    | with_reducible apply setFw_keeps (hm.sub (by decide))
    | with_reducible apply finishTag_keeps (hm.sub (by decide))
    | split
    | with_reducible refine Keeps.update ?_ ?_
    | with_reducible refine Keeps.change ?_ ?_ ?_ ?_ ?_ ?_
    | exact Nat.le_refl _
    | exact id
    | exact fun _ h => h
    | exact fun h => Tbl.wf_set _ _ _ _ h
    | exact fun h => Tbl.wf_setRun _ _ _ _ h

theorem bodyFwSelect_keeps {fs : Nat} (hm : Within (Field.firmware) fs) {a0 : Chip} (k : Cmd) (c : Chip) (h0 : Keeps fs a0 c) : ResKeeps fs a0 (bodyFwSelect k c) := by
  unfold bodyFwSelect
  repeat' first
    | (clear_value *; apply Touches.mk <;> intro hn <;> first | with_reducible rfl | exact hm.out hn rfl)
    | extract_lets
    | with_reducible refine ResKeeps.ite ?_ ?_
    | with_reducible refine Keeps.ite ?_ ?_
    | with_reducible exact h0
    | with_reducible exact Keeps.refl _
    | with_reducible apply setFw_keeps (hm.sub (by decide))
    | with_reducible apply ResKeeps.done
    | with_reducible apply ResKeeps.accepted
    | with_reducible apply ResKeeps.acceptedDone
    | with_reducible apply ResKeeps.waiting
    | with_reducible apply ResKeeps.held
    | with_reducible apply ResKeeps.ok
    | with_reducible apply ResKeeps.okWith
    | with_reducible apply ResKeeps.err
    | with_reducible apply ResKeeps.badParam
    | with_reducible apply ResKeeps.badLength

theorem bodyIdentityRead_keeps {fs : Nat} (hm : Within 0 fs) {a0 : Chip} (k : Cmd) (c : Chip) (h0 : Keeps fs a0 c) : ResKeeps fs a0 (bodyIdentityRead k c) := by
  unfold bodyIdentityRead
  repeat' first
    | extract_lets
    | with_reducible refine ResKeeps.ite ?_ ?_
    | with_reducible refine Keeps.ite ?_ ?_
    | with_reducible exact h0
    | with_reducible exact Keeps.refl _
    | with_reducible apply ResKeeps.done
    | with_reducible apply ResKeeps.accepted
    | with_reducible apply ResKeeps.acceptedDone
    | with_reducible apply ResKeeps.waiting
    | with_reducible apply ResKeeps.held
    | with_reducible apply ResKeeps.ok
    | with_reducible apply ResKeeps.okWith
    | with_reducible apply ResKeeps.err
    | with_reducible apply ResKeeps.badParam
    | with_reducible apply ResKeeps.badLength

end Sys2Proof.Machine
end

