-- ==== Sys2Proof/Laws/KeepsPorts.lean ====
section
/-! SUPPORT. What Machine/Ports.lean keeps. -/

namespace Sys2Proof.Machine

theorem setPort_keeps {fs : Nat} (hm : Within (Field.ports) fs) {a0 : Chip} (n : Nat) (s : PortSt) (c : Chip) (h0 : Keeps fs a0 c) : Keeps fs a0 (Chip.setPort n s c) := by
  unfold Chip.setPort
  repeat' first
    | (clear_value *; apply Touches.mk <;> intro hn <;> first | with_reducible rfl | exact hm.out hn rfl)
    | (apply Touches.mk <;> intro hn <;> first | with_reducible rfl | exact hm.out hn rfl)
    | extract_lets
    | with_reducible exact h0
    | with_reducible exact Keeps.refl _
    | with_reducible refine Keeps.update ?_ ?_

theorem portCause_keeps {fs : Nat} (hm : Within (Field.routed ||| Field.ports) fs) {a0 : Chip} (n : Nat) (bits : Nat) (c : Chip) (h0 : Keeps fs a0 c) : Keeps fs a0 (Chip.portCause n bits c) := by
  unfold Chip.portCause
  repeat' first
    | (clear_value *; apply Touches.mk <;> intro hn <;> first | with_reducible rfl | exact hm.out hn rfl)
    | extract_lets
    | with_reducible refine Keeps.ite ?_ ?_
    | with_reducible exact h0
    | with_reducible exact Keeps.refl _
    | with_reducible apply fire_keeps (hm.sub (by decide))
    | with_reducible apply setPort_keeps (hm.sub (by decide))

theorem settle_keeps {fs : Nat} (hm : Within (Field.ports) fs) {a0 : Chip} (n : Nat) (d : Nat) (c : Chip) (h0 : Keeps fs a0 c) : Keeps fs a0 (Chip.settle n d c) := by
  unfold Chip.settle
  repeat' first
    | (clear_value *; apply Touches.mk <;> intro hn <;> first | with_reducible rfl | exact hm.out hn rfl)
    | extract_lets
    | with_reducible exact h0
    | with_reducible exact Keeps.refl _
    | with_reducible apply setPort_keeps (hm.sub (by decide))

theorem changeMode_keeps {fs : Nat} (hm : Within (Field.ports) fs) {a0 : Chip} (n : Nat) (c : Chip) (h0 : Keeps fs a0 c) : Keeps fs a0 (Chip.changeMode n c) := by
  unfold Chip.changeMode
  repeat' first
    | (clear_value *; apply Touches.mk <;> intro hn <;> first | with_reducible rfl | exact hm.out hn rfl)
    | extract_lets
    | with_reducible refine Keeps.ite ?_ ?_
    | with_reducible exact h0
    | with_reducible exact Keeps.refl _
    | with_reducible apply settle_keeps (hm.sub (by decide))
    | with_reducible apply setPort_keeps (hm.sub (by decide))

theorem portOn_keeps {fs : Nat} (hm : Within (Field.ports) fs) {a0 : Chip} (n : Nat) (c : Chip) (h0 : Keeps fs a0 c) : Keeps fs a0 (Chip.portOn n c) := by
  unfold Chip.portOn
  repeat' first
    | (clear_value *; apply Touches.mk <;> intro hn <;> first | with_reducible rfl | exact hm.out hn rfl)
    | extract_lets
    | with_reducible refine Keeps.ite ?_ ?_
    | with_reducible exact h0
    | with_reducible exact Keeps.refl _
    | with_reducible apply setPort_keeps (hm.sub (by decide))

theorem settled_keeps {fs : Nat} (hm : Within (Field.clk ||| Field.rtc ||| Field.ports) fs) {a0 : Chip} (n : Nat) (c : Chip) (h0 : Keeps fs a0 c) : Keeps fs a0 (Chip.settled n c) := by
  unfold Chip.settled
  repeat' first
    | (clear_value *; apply Touches.mk <;> intro hn <;> first | with_reducible rfl | exact hm.out hn rfl)
    | extract_lets
    | with_reducible refine Keeps.ite ?_ ?_
    | with_reducible exact h0
    | with_reducible exact Keeps.refl _
    | with_reducible apply portOn_keeps (hm.sub (by decide))
    | with_reducible apply setPort_keeps (hm.sub (by decide))
    | with_reducible apply waitUntil_keeps (hm.sub (by decide))
    | split

theorem clearPortFault_keeps {fs : Nat} (hm : Within (Field.ports) fs) {a0 : Chip} (n : Nat) (m : Nat) (c : Chip) (h0 : Keeps fs a0 c) : Keeps fs a0 (Chip.clearPortFault n m c) := by
  unfold Chip.clearPortFault
  repeat' first
    | (clear_value *; apply Touches.mk <;> intro hn <;> first | with_reducible rfl | exact hm.out hn rfl)
    | extract_lets
    | with_reducible refine Keeps.ite ?_ ?_
    | with_reducible exact h0
    | with_reducible exact Keeps.refl _
    | with_reducible apply settle_keeps (hm.sub (by decide))
    | with_reducible apply setPort_keeps (hm.sub (by decide))

theorem retryFault_keeps {fs : Nat} (hm : Within (Field.routed ||| Field.ports) fs) {a0 : Chip} (n : Nat) (bits : Nat) (c : Chip) (h0 : Keeps fs a0 c) : Keeps fs a0 (Chip.retryFault n bits c) := by
  unfold Chip.retryFault
  repeat' first
    | (clear_value *; apply Touches.mk <;> intro hn <;> first | with_reducible rfl | exact hm.out hn rfl)
    | extract_lets
    | with_reducible refine Keeps.ite ?_ ?_
    | with_reducible exact h0
    | with_reducible exact Keeps.refl _
    | with_reducible apply portCause_keeps (hm.sub (by decide))
    | with_reducible apply setPort_keeps (hm.sub (by decide))

theorem retryOver_keeps {fs : Nat} (hm : Within (Field.clk ||| Field.rtc ||| Field.ports) fs) {a0 : Chip} (n : Nat) (c : Chip) (h0 : Keeps fs a0 c) : Keeps fs a0 (Chip.retryOver n c) := by
  unfold Chip.retryOver
  repeat' first
    | (clear_value *; apply Touches.mk <;> intro hn <;> first | with_reducible rfl | exact hm.out hn rfl)
    | extract_lets
    | with_reducible exact h0
    | with_reducible exact Keeps.refl _
    | with_reducible apply settle_keeps (hm.sub (by decide))
    | with_reducible apply setPort_keeps (hm.sub (by decide))
    | with_reducible apply waitUntil_keeps (hm.sub (by decide))
    | split

theorem checkOutputs_keeps {fs : Nat} (hm : Within (Field.ports) fs) {a0 : Chip} (n : Nat) (c : Chip) (h0 : Keeps fs a0 c) : Keeps fs a0 (Chip.checkOutputs n c) := by
  unfold Chip.checkOutputs
  repeat' first
    | (clear_value *; apply Touches.mk <;> intro hn <;> first | with_reducible rfl | exact hm.out hn rfl)
    | extract_lets
    | with_reducible refine Keeps.ite ?_ ?_
    | with_reducible exact h0
    | with_reducible exact Keeps.refl _
    | with_reducible apply setPort_keeps (hm.sub (by decide))

theorem dinEdge_keeps {fs : Nat} (hm : Within (Field.ports) fs) {a0 : Chip} (n : Nat) (termB : Bool) (mv : Int) (c : Chip) (h0 : Keeps fs a0 c) : Keeps fs a0 (Chip.dinEdge n termB mv c) := by
  unfold Chip.dinEdge
  repeat' first
    | (clear_value *; apply Touches.mk <;> intro hn <;> first | with_reducible rfl | exact hm.out hn rfl)
    | extract_lets
    | with_reducible refine Keeps.ite ?_ ?_
    | with_reducible exact h0
    | with_reducible exact Keeps.refl _
    | with_reducible apply setPort_keeps (hm.sub (by decide))

theorem judgeInputs_keeps {fs : Nat} (hm : Within (Field.ports) fs) {a0 : Chip} (n : Nat) (c : Chip) (h0 : Keeps fs a0 c) : Keeps fs a0 (Chip.judgeInputs n c) := by
  unfold Chip.judgeInputs
  repeat' first
    | extract_lets
    | with_reducible exact h0
    | with_reducible exact Keeps.refl _
    | with_reducible apply dinEdge_keeps (hm.sub (by decide))

theorem writeLevel_keeps {fs : Nat} (hm : Within (Field.slots ||| Field.produced ||| Field.slotWrites ||| Field.zones ||| Field.staleWrites ||| Field.loops) fs) {a0 : Chip} (n : Nat) (termB : Bool) (lvl : Bool) (c : Chip) (h0 : Keeps fs a0 c) : Keeps fs a0 (Chip.writeLevel n termB lvl c) := by
  unfold Chip.writeLevel
  repeat' first
    | extract_lets
    | with_reducible refine Keeps.ite ?_ ?_
    | with_reducible exact h0
    | with_reducible exact Keeps.refl _
    | with_reducible apply produceNow_keeps (hm.sub (by decide))

theorem debounced_keeps {fs : Nat} (hm : Within (Field.routed ||| Field.clk ||| Field.slots ||| Field.produced ||| Field.slotWrites ||| Field.rtc ||| Field.ports ||| Field.zones ||| Field.staleWrites) fs) {a0 : Chip} (n : Nat) (termB : Bool) (c : Chip) (h0 : Keeps fs a0 c) : Keeps fs a0 (Chip.debounced n termB c) := by
  unfold Chip.debounced
  repeat' first
    | (clear_value *; apply Touches.mk <;> intro hn <;> first | with_reducible rfl | exact hm.out hn rfl)
    | extract_lets
    | with_reducible refine Keeps.ite ?_ ?_
    | with_reducible exact h0
    | with_reducible exact Keeps.refl _
    | with_reducible apply portCause_keeps (hm.sub (by decide))
    | with_reducible apply writeLevel_keeps (hm.sub (by decide))
    | with_reducible apply setPort_keeps (hm.sub (by decide))
    | with_reducible apply waitUntil_keeps (hm.sub (by decide))

theorem sbusSend_keeps {fs : Nat} (hm : Within (Field.ports) fs) {a0 : Chip} (n : Nat) (xs : List SbusSignal) (c : Chip) (h0 : Keeps fs a0 c) : Keeps fs a0 (Chip.sbusSend n xs c) := by
  unfold Chip.sbusSend
  repeat' first
    | (clear_value *; apply Touches.mk <;> intro hn <;> first | with_reducible rfl | exact hm.out hn rfl)
    | extract_lets
    | with_reducible exact h0
    | with_reducible exact Keeps.refl _
    | with_reducible apply setPort_keeps (hm.sub (by decide))

theorem sbusEntry_keeps {fs : Nat} (hm : Within (Field.routed ||| Field.clk ||| Field.slots ||| Field.produced ||| Field.slotWrites ||| Field.rtc ||| Field.ports ||| Field.zones ||| Field.staleWrites) fs) {a0 : Chip} (n : Nat) (i : Nat) (e : List Byte) (rd : Option (List Byte)) (c : Chip) (h0 : Keeps fs a0 c) : Keeps fs a0 (Chip.sbusEntry n i e rd c) := by
  unfold Chip.sbusEntry
  repeat' first
    | (clear_value *; apply Touches.mk <;> intro hn <;> first | with_reducible rfl | exact hm.out hn rfl)
    | extract_lets
    | with_reducible refine Keeps.ite ?_ ?_
    | with_reducible exact h0
    | with_reducible exact Keeps.refl _
    | with_reducible apply produceNow_keeps (hm.sub (by decide))
    | with_reducible apply portCause_keeps (hm.sub (by decide))
    | with_reducible apply advance_keeps (hm.sub (by decide))
    | with_reducible apply sbusSend_keeps (hm.sub (by decide))
    | split

theorem sbusRun_keeps {fs : Nat} (hm : Within (Field.routed ||| Field.clk ||| Field.slots ||| Field.produced ||| Field.slotWrites ||| Field.rtc ||| Field.ports ||| Field.zones ||| Field.staleWrites) fs) {a0 : Chip} (n i : Nat) (l : List Byte) (rs : List (Option (List Byte))) (c : Chip) (h0 : Keeps fs a0 c) : Keeps fs a0 (Chip.sbusRun n i l rs c) := by
  induction rs generalizing i l c with
  | nil => exact h0
  | cons r rs ih =>
    unfold Chip.sbusRun
    exact Keeps.ite h0 (ih _ _ _ (sbusEntry_keeps (hm.sub (by decide)) _ _ _ _ _ h0))

theorem sbusEnd_keeps {fs : Nat} (hm : Within (Field.ports) fs) {a0 : Chip} (n : Nat) (c : Chip) (h0 : Keeps fs a0 c) : Keeps fs a0 (Chip.sbusEnd n c) := by
  unfold Chip.sbusEnd
  repeat' first
    | (clear_value *; apply Touches.mk <;> intro hn <;> first | with_reducible rfl | exact hm.out hn rfl)
    | extract_lets
    | with_reducible exact h0
    | with_reducible exact Keeps.refl _
    | with_reducible apply setPort_keeps (hm.sub (by decide))

theorem sbusPoll_keeps {fs : Nat} (hm : Within (Field.routed ||| Field.clk ||| Field.slots ||| Field.produced ||| Field.slotWrites ||| Field.rtc ||| Field.ports ||| Field.zones ||| Field.staleWrites) fs) {a0 : Chip} (n : Nat) (reads : List (Option (List Byte))) (c : Chip) (h0 : Keeps fs a0 c) : Keeps fs a0 (Chip.sbusPoll n reads c) := by
  unfold Chip.sbusPoll
  repeat' first
    | (clear_value *; apply Touches.mk <;> intro hn <;> first | with_reducible rfl | exact hm.out hn rfl)
    | extract_lets
    | with_reducible refine Keeps.ite ?_ ?_
    | with_reducible exact h0
    | with_reducible exact Keeps.refl _
    | with_reducible apply sbusEnd_keeps (hm.sub (by decide))
    | with_reducible apply sbusRun_keeps (hm.sub (by decide))
    | with_reducible apply setPort_keeps (hm.sub (by decide))
    | with_reducible apply waitUntil_keeps (hm.sub (by decide))
    | split
    | with_reducible refine Keeps.update ?_ ?_

theorem sbusStuck_keeps {fs : Nat} (hm : Within (Field.routed ||| Field.ports) fs) {a0 : Chip} (n : Nat) (c : Chip) (h0 : Keeps fs a0 c) : Keeps fs a0 (Chip.sbusStuck n c) := by
  unfold Chip.sbusStuck
  repeat' first
    | extract_lets
    | with_reducible refine Keeps.ite ?_ ?_
    | with_reducible exact h0
    | with_reducible exact Keeps.refl _
    | with_reducible apply sbusEnd_keeps (hm.sub (by decide))
    | with_reducible apply portCause_keeps (hm.sub (by decide))
    | with_reducible apply sbusSend_keeps (hm.sub (by decide))

theorem pyroSettled_keeps {fs : Nat} (hm : Within (Field.clk ||| Field.rtc ||| Field.ports) fs) {a0 : Chip} (n : Nat) (c : Chip) (h0 : Keeps fs a0 c) : Keeps fs a0 (Chip.pyroSettled n c) := by
  unfold Chip.pyroSettled
  repeat' first
    | (clear_value *; apply Touches.mk <;> intro hn <;> first | with_reducible rfl | exact hm.out hn rfl)
    | extract_lets
    | with_reducible exact h0
    | with_reducible exact Keeps.refl _
    | with_reducible apply setPort_keeps (hm.sub (by decide))
    | with_reducible apply waitUntil_keeps (hm.sub (by decide))
    | split

theorem openLoop_keeps {fs : Nat} (hm : Within (Field.routed ||| Field.ports) fs) {a0 : Chip} (n : Nat) (c : Chip) (h0 : Keeps fs a0 c) : Keeps fs a0 (Chip.openLoop n c) := by
  unfold Chip.openLoop
  repeat' first
    | extract_lets
    | with_reducible refine Keeps.ite ?_ ?_
    | with_reducible exact h0
    | with_reducible exact Keeps.refl _
    | with_reducible apply portCause_keeps (hm.sub (by decide))

end Sys2Proof.Machine
end

