-- ==== Sys2Proof/Laws/KeepsActuators.lean ====
section
/-! SUPPORT. What Machine/Actuators.lean keeps. -/

namespace Sys2Proof.Machine

theorem setGroup_keeps {fs : Nat} (hm : Within (Field.groups) fs) {a0 : Chip} (k : Nat) (s : GroupSt) (c : Chip) (h0 : Keeps fs a0 c) : Keeps fs a0 (Chip.setGroup k s c) := by
  unfold Chip.setGroup
  repeat' first
    | (clear_value *; apply Touches.mk <;> intro hn <;> first | with_reducible rfl | exact hm.out hn rfl)
    | (apply Touches.mk <;> intro hn <;> first | with_reducible rfl | exact hm.out hn rfl)
    | extract_lets
    | with_reducible exact h0
    | with_reducible exact Keeps.refl _
    | with_reducible refine Keeps.update ?_ ?_

theorem setBridge_keeps {fs : Nat} (hm : Within (Field.bridges) fs) {a0 : Chip} (n : Nat) (s : BridgeSt) (c : Chip) (h0 : Keeps fs a0 c) : Keeps fs a0 (Chip.setBridge n s c) := by
  unfold Chip.setBridge
  repeat' first
    | (clear_value *; apply Touches.mk <;> intro hn <;> first | with_reducible rfl | exact hm.out hn rfl)
    | (apply Touches.mk <;> intro hn <;> first | with_reducible rfl | exact hm.out hn rfl)
    | extract_lets
    | with_reducible exact h0
    | with_reducible exact Keeps.refl _
    | with_reducible refine Keeps.update ?_ ?_

theorem setMotor_keeps {fs : Nat} (hm : Within (Field.motors) fs) {a0 : Chip} (n : Nat) (s : MotorSt) (c : Chip) (h0 : Keeps fs a0 c) : Keeps fs a0 (Chip.setMotor n s c) := by
  unfold Chip.setMotor
  repeat' first
    | (clear_value *; apply Touches.mk <;> intro hn <;> first | with_reducible rfl | exact hm.out hn rfl)
    | (apply Touches.mk <;> intro hn <;> first | with_reducible rfl | exact hm.out hn rfl)
    | extract_lets
    | with_reducible exact h0
    | with_reducible exact Keeps.refl _
    | with_reducible refine Keeps.update ?_ ?_

theorem setValve_keeps {fs : Nat} (hm : Within (Field.valves) fs) {a0 : Chip} (n : Nat) (s : ValveSt) (c : Chip) (h0 : Keeps fs a0 c) : Keeps fs a0 (Chip.setValve n s c) := by
  unfold Chip.setValve
  repeat' first
    | (clear_value *; apply Touches.mk <;> intro hn <;> first | with_reducible rfl | exact hm.out hn rfl)
    | (apply Touches.mk <;> intro hn <;> first | with_reducible rfl | exact hm.out hn rfl)
    | extract_lets
    | with_reducible exact h0
    | with_reducible exact Keeps.refl _
    | with_reducible refine Keeps.update ?_ ?_

theorem setFan_keeps {fs : Nat} (hm : Within (Field.fans) fs) {a0 : Chip} (n : Nat) (s : FanSt) (c : Chip) (h0 : Keeps fs a0 c) : Keeps fs a0 (Chip.setFan n s c) := by
  unfold Chip.setFan
  repeat' first
    | (clear_value *; apply Touches.mk <;> intro hn <;> first | with_reducible rfl | exact hm.out hn rfl)
    | (apply Touches.mk <;> intro hn <;> first | with_reducible rfl | exact hm.out hn rfl)
    | extract_lets
    | with_reducible exact h0
    | with_reducible exact Keeps.refl _
    | with_reducible refine Keeps.update ?_ ?_

theorem keepRecord_keeps {fs : Nat} (hm : Within (Field.records) fs) {a0 : Chip} (n : Nat) (valid : Bool) (c : Chip) (h0 : Keeps fs a0 c) : Keeps fs a0 (Chip.keepRecord n valid c) := by
  unfold Chip.keepRecord
  repeat' first
    | (clear_value *; apply Touches.mk <;> intro hn <;> first | with_reducible rfl | exact hm.out hn rfl)
    | extract_lets
    | with_reducible refine Keeps.ite ?_ ?_
    | with_reducible exact h0
    | with_reducible exact Keeps.refl _
    | with_reducible refine Keeps.update ?_ ?_

theorem writePosition_keeps {fs : Nat} (hm : Within (Field.slots ||| Field.produced ||| Field.slotWrites ||| Field.motors ||| Field.zones ||| Field.staleWrites ||| Field.loops) fs) {a0 : Chip} (n : Nat) (c : Chip) (h0 : Keeps fs a0 c) : Keeps fs a0 (Chip.writePosition n c) := by
  unfold Chip.writePosition
  repeat' first
    | (clear_value *; apply Touches.mk <;> intro hn <;> first | with_reducible rfl | exact hm.out hn rfl)
    | extract_lets
    | with_reducible refine Keeps.ite ?_ ?_
    | with_reducible exact h0
    | with_reducible exact Keeps.refl _
    | with_reducible apply produceOpt_keeps (hm.sub (by decide))
    | with_reducible apply setMotor_keeps (hm.sub (by decide))

theorem valveFault_keeps {fs : Nat} (hm : Within (Field.routed ||| Field.valves) fs) {a0 : Chip} (n : Nat) (code : Nat) (latch : Bool) (c : Chip) (h0 : Keeps fs a0 c) : Keeps fs a0 (Chip.valveFault n code latch c) := by
  unfold Chip.valveFault
  repeat' first
    | (clear_value *; apply Touches.mk <;> intro hn <;> first | with_reducible rfl | exact hm.out hn rfl)
    | extract_lets
    | with_reducible refine Keeps.ite ?_ ?_
    | with_reducible exact h0
    | with_reducible exact Keeps.refl _
    | with_reducible apply fire_keeps (hm.sub (by decide))
    | with_reducible apply setValve_keeps (hm.sub (by decide))

theorem driveLeg_keeps {fs : Nat} (hm : Within (Field.mgt ||| Field.motors) fs) {a0 : Chip} (n : Nat) (mv : Move) (c : Chip) (h0 : Keeps fs a0 c) : Keeps fs a0 (Chip.driveLeg n mv c) := by
  unfold Chip.driveLeg
  repeat' first
    | (clear_value *; apply Touches.mk <;> intro hn <;> first | with_reducible rfl | exact hm.out hn rfl)
    | extract_lets
    | with_reducible exact h0
    | with_reducible exact Keeps.refl _
    | with_reducible apply setMotor_keeps (hm.sub (by decide))

theorem startLeg_keeps {fs : Nat} (hm : Within (Field.mgt ||| Field.motors) fs) {a0 : Chip} (n : Nat) (mv : Move) (pause : Bool) (c : Chip) (h0 : Keeps fs a0 c) : Keeps fs a0 (Chip.startLeg n mv pause c) := by
  unfold Chip.startLeg
  repeat' first
    | (clear_value *; apply Touches.mk <;> intro hn <;> first | with_reducible rfl | exact hm.out hn rfl)
    | extract_lets
    | with_reducible refine Keeps.ite ?_ ?_
    | with_reducible exact h0
    | with_reducible exact Keeps.refl _
    | with_reducible apply driveLeg_keeps (hm.sub (by decide))
    | with_reducible apply setMotor_keeps (hm.sub (by decide))

theorem beginMove_keeps {fs : Nat} (hm : Within (Field.mgt ||| Field.motors ||| Field.records) fs) {a0 : Chip} (n : Nat) (kind : MoveKind) (target : Nat) (cmd : Option (Nat × Nat)) (pause : Bool) (c : Chip) (h0 : Keeps fs a0 c) : Keeps fs a0 (Chip.beginMove n kind target cmd pause c) := by
  unfold Chip.beginMove
  repeat' first
    | (clear_value *; apply Touches.mk <;> intro hn <;> first | with_reducible rfl | exact hm.out hn rfl)
    | extract_lets
    | with_reducible refine Keeps.ite ?_ ?_
    | with_reducible exact h0
    | with_reducible exact Keeps.refl _
    | with_reducible apply startLeg_keeps (hm.sub (by decide))
    | with_reducible apply setMotor_keeps (hm.sub (by decide))
    | with_reducible apply keepRecord_keeps (hm.sub (by decide))

theorem followTarget_keeps {fs : Nat} (hm : Within (Field.mgt ||| Field.motors ||| Field.records) fs) {a0 : Chip} (n : Nat) (c : Chip) (h0 : Keeps fs a0 c) : Keeps fs a0 (Chip.followTarget n c) := by
  unfold Chip.followTarget
  repeat' first
    | (clear_value *; apply Touches.mk <;> intro hn <;> first | with_reducible rfl | exact hm.out hn rfl)
    | extract_lets
    | with_reducible refine Keeps.ite ?_ ?_
    | with_reducible exact h0
    | with_reducible exact Keeps.refl _
    | with_reducible apply beginMove_keeps (hm.sub (by decide))
    | split

theorem endMove_keeps {fs : Nat} (hm : Within (Field.routed ||| Field.slots ||| Field.produced ||| Field.slotWrites ||| Field.sessions ||| Field.staged ||| Field.lives ||| Field.cmds ||| Field.firmware ||| Field.image ||| Field.links ||| Field.fabric ||| Field.motors ||| Field.records ||| Field.cal ||| Field.zones ||| Field.staleWrites ||| Field.streams ||| Field.can) fs) {a0 : Chip} (n : Nat) (outcome : Nat) (c : Chip) (h0 : Keeps fs a0 c) : Keeps fs a0 (Chip.endMove n outcome c) := by
  unfold Chip.endMove
  repeat' first
    | (clear_value *; apply Touches.mk <;> intro hn <;> first | with_reducible rfl | exact hm.out hn rfl)
    | extract_lets
    | with_reducible refine Keeps.ite ?_ ?_
    | with_reducible exact h0
    | with_reducible exact Keeps.refl _
    | with_reducible apply followTarget_keeps (hm.sub (by decide))
    | with_reducible apply beginMove_keeps (hm.sub (by decide))
    | with_reducible apply finishTag_keeps (hm.sub (by decide))
    | with_reducible apply fire_keeps (hm.sub (by decide))
    | with_reducible apply writePosition_keeps (hm.sub (by decide))
    | with_reducible apply keepRecord_keeps (hm.sub (by decide))
    | with_reducible apply setMotor_keeps (hm.sub (by decide))
    | split
    | with_reducible refine Keeps.update ?_ ?_

theorem tellUnknown_keeps {fs : Nat} (hm : Within (Field.routed) fs) {a0 : Chip} (n : Nat) (reason : Nat) (c : Chip) (h0 : Keeps fs a0 c) : Keeps fs a0 (Chip.tellUnknown n reason c) := by
  unfold Chip.tellUnknown
  repeat' first
    | extract_lets
    | with_reducible exact h0
    | with_reducible exact Keeps.refl _
    | with_reducible apply fire_keeps (hm.sub (by decide))

theorem autoRehome_keeps {fs : Nat} (hm : Within (Field.mgt ||| Field.motors ||| Field.records) fs) {a0 : Chip} (n : Nat) (c : Chip) (h0 : Keeps fs a0 c) : Keeps fs a0 (Chip.autoRehome n c) := by
  unfold Chip.autoRehome
  repeat' first
    | extract_lets
    | with_reducible refine Keeps.ite ?_ ?_
    | with_reducible exact h0
    | with_reducible exact Keeps.refl _
    | with_reducible apply beginMove_keeps (hm.sub (by decide))

theorem losePosition_keeps {fs : Nat} (hm : Within (Field.routed ||| Field.slots ||| Field.produced ||| Field.slotWrites ||| Field.sessions ||| Field.staged ||| Field.lives ||| Field.cmds ||| Field.firmware ||| Field.image ||| Field.links ||| Field.fabric ||| Field.motors ||| Field.records ||| Field.cal ||| Field.zones ||| Field.staleWrites ||| Field.streams ||| Field.can) fs) {a0 : Chip} (n : Nat) (outcome : Nat) (reason : Nat) (c : Chip) (h0 : Keeps fs a0 c) : Keeps fs a0 (Chip.losePosition n outcome reason c) := by
  unfold Chip.losePosition
  repeat' first
    | (clear_value *; apply Touches.mk <;> intro hn <;> first | with_reducible rfl | exact hm.out hn rfl)
    | extract_lets
    | with_reducible refine Keeps.ite ?_ ?_
    | with_reducible exact h0
    | with_reducible exact Keeps.refl _
    | with_reducible apply autoRehome_keeps (hm.sub (by decide))
    | with_reducible apply tellUnknown_keeps (hm.sub (by decide))
    | with_reducible apply endMove_keeps (hm.sub (by decide))
    | with_reducible apply setMotor_keeps (hm.sub (by decide))

theorem motorCut_keeps {fs : Nat} (hm : Within (Field.routed ||| Field.slots ||| Field.produced ||| Field.slotWrites ||| Field.sessions ||| Field.staged ||| Field.lives ||| Field.cmds ||| Field.firmware ||| Field.image ||| Field.links ||| Field.fabric ||| Field.motors ||| Field.records ||| Field.valves ||| Field.cal ||| Field.zones ||| Field.staleWrites ||| Field.streams ||| Field.can) fs) {a0 : Chip} (n : Nat) (outcome : Nat) (c : Chip) (h0 : Keeps fs a0 c) : Keeps fs a0 (Chip.motorCut n outcome c) := by
  unfold Chip.motorCut
  repeat' first
    | (clear_value *; apply Touches.mk <;> intro hn <;> first | with_reducible rfl | exact hm.out hn rfl)
    | extract_lets
    | with_reducible refine Keeps.ite ?_ ?_
    | with_reducible exact h0
    | with_reducible exact Keeps.refl _
    | with_reducible apply endMove_keeps (hm.sub (by decide))
    | with_reducible apply valveFault_keeps (hm.sub (by decide))
    | with_reducible apply losePosition_keeps (hm.sub (by decide))
    | with_reducible apply setMotor_keeps (hm.sub (by decide))

theorem motorBrake_keeps {fs : Nat} (hm : Within (Field.routed ||| Field.slots ||| Field.produced ||| Field.slotWrites ||| Field.sessions ||| Field.staged ||| Field.lives ||| Field.cmds ||| Field.firmware ||| Field.image ||| Field.links ||| Field.fabric ||| Field.motors ||| Field.records ||| Field.cal ||| Field.zones ||| Field.staleWrites ||| Field.streams ||| Field.can) fs) {a0 : Chip} (n : Nat) (c : Chip) (h0 : Keeps fs a0 c) : Keeps fs a0 (Chip.motorBrake n c) := by
  unfold Chip.motorBrake
  repeat' first
    | extract_lets
    | with_reducible refine Keeps.ite ?_ ?_
    | with_reducible exact h0
    | with_reducible exact Keeps.refl _
    | with_reducible apply endMove_keeps (hm.sub (by decide))

theorem motorPause_keeps {fs : Nat} (hm : Within (Field.routed ||| Field.motors ||| Field.valves) fs) {a0 : Chip} (n : Nat) (c : Chip) (h0 : Keeps fs a0 c) : Keeps fs a0 (Chip.motorPause n c) := by
  unfold Chip.motorPause
  repeat' first
    | (clear_value *; apply Touches.mk <;> intro hn <;> first | with_reducible rfl | exact hm.out hn rfl)
    | extract_lets
    | with_reducible refine Keeps.ite ?_ ?_
    | with_reducible exact h0
    | with_reducible exact Keeps.refl _
    | with_reducible apply valveFault_keeps (hm.sub (by decide))
    | with_reducible apply tellUnknown_keeps (hm.sub (by decide))
    | with_reducible apply setMotor_keeps (hm.sub (by decide))
    | split

theorem motorResume_keeps {fs : Nat} (hm : Within (Field.mgt ||| Field.motors) fs) {a0 : Chip} (n : Nat) (c : Chip) (h0 : Keeps fs a0 c) : Keeps fs a0 (Chip.motorResume n c) := by
  unfold Chip.motorResume
  repeat' first
    | (clear_value *; apply Touches.mk <;> intro hn <;> first | with_reducible rfl | exact hm.out hn rfl)
    | extract_lets
    | with_reducible refine Keeps.ite ?_ ?_
    | with_reducible exact h0
    | with_reducible exact Keeps.refl _
    | with_reducible apply startLeg_keeps (hm.sub (by decide))
    | split

theorem abortMove_keeps {fs : Nat} (hm : Within (Field.slots ||| Field.produced ||| Field.slotWrites ||| Field.motors ||| Field.records ||| Field.zones ||| Field.staleWrites ||| Field.loops) fs) {a0 : Chip} (n : Nat) (c : Chip) (h0 : Keeps fs a0 c) : Keeps fs a0 (Chip.abortMove n c) := by
  unfold Chip.abortMove
  repeat' first
    | (clear_value *; apply Touches.mk <;> intro hn <;> first | with_reducible rfl | exact hm.out hn rfl)
    | extract_lets
    | with_reducible exact h0
    | with_reducible exact Keeps.refl _
    | with_reducible apply writePosition_keeps (hm.sub (by decide))
    | with_reducible apply keepRecord_keeps (hm.sub (by decide))
    | with_reducible apply setMotor_keeps (hm.sub (by decide))

theorem countRipple_keeps {fs : Nat} (hm : Within (Field.motors) fs) {a0 : Chip} (n : Nat) (band : Int) (cur : Int) (c : Chip) (h0 : Keeps fs a0 c) : Keeps fs a0 (Chip.countRipple n band cur c) := by
  unfold Chip.countRipple
  repeat' first
    | (clear_value *; apply Touches.mk <;> intro hn <;> first | with_reducible rfl | exact hm.out hn rfl)
    | extract_lets
    | with_reducible refine Keeps.ite ?_ ?_
    | with_reducible exact h0
    | with_reducible exact Keeps.refl _
    | with_reducible apply setMotor_keeps (hm.sub (by decide))
    | split

theorem checkLead_keeps {fs : Nat} (hm : Within (Field.mgt ||| Field.motors) fs) {a0 : Chip} (n : Nat) (c : Chip) (h0 : Keeps fs a0 c) : Keeps fs a0 (Chip.checkLead n c) := by
  unfold Chip.checkLead
  repeat' first
    | (clear_value *; apply Touches.mk <;> intro hn <;> first | with_reducible rfl | exact hm.out hn rfl)
    | extract_lets
    | with_reducible refine Keeps.ite ?_ ?_
    | with_reducible exact h0
    | with_reducible exact Keeps.refl _
    | with_reducible apply setMotor_keeps (hm.sub (by decide))
    | split

theorem judgeStop_keeps {fs : Nat} (hm : Within (Field.routed ||| Field.slots ||| Field.produced ||| Field.slotWrites ||| Field.sessions ||| Field.staged ||| Field.lives ||| Field.cmds ||| Field.firmware ||| Field.image ||| Field.links ||| Field.fabric ||| Field.motors ||| Field.records ||| Field.cal ||| Field.zones ||| Field.staleWrites ||| Field.streams ||| Field.can ||| Field.freeCount) fs) {a0 : Chip} (n : Nat) (mv : Move) (c : Chip) (h0 : Keeps fs a0 c) : Keeps fs a0 (Chip.judgeStop n mv c) := by
  unfold Chip.judgeStop
  repeat' first
    | (clear_value *; apply Touches.mk <;> intro hn <;> first | with_reducible rfl | exact hm.out hn rfl)
    | extract_lets
    | with_reducible refine Keeps.ite ?_ ?_
    | with_reducible exact h0
    | with_reducible exact Keeps.refl _
    | with_reducible apply nextFree_keeps (hm.sub (by decide))
    | with_reducible apply startLeg_keeps (hm.sub (by decide))
    | with_reducible apply writePosition_keeps (hm.sub (by decide))
    | with_reducible apply endMove_keeps (hm.sub (by decide))

theorem moveStops_keeps {fs : Nat} (hm : Within (Field.routed ||| Field.clk ||| Field.slots ||| Field.produced ||| Field.slotWrites ||| Field.sessions ||| Field.staged ||| Field.lives ||| Field.cmds ||| Field.firmware ||| Field.image ||| Field.rtc ||| Field.links ||| Field.fabric ||| Field.motors ||| Field.records ||| Field.cal ||| Field.zones ||| Field.staleWrites ||| Field.streams ||| Field.can ||| Field.freeCount) fs) {a0 : Chip} (n : Nat) (c : Chip) (h0 : Keeps fs a0 c) : Keeps fs a0 (Chip.moveStops n c) := by
  unfold Chip.moveStops
  repeat' first
    | (clear_value *; apply Touches.mk <;> intro hn <;> first | with_reducible rfl | exact hm.out hn rfl)
    | extract_lets
    | with_reducible refine Keeps.ite ?_ ?_
    | with_reducible exact h0
    | with_reducible exact Keeps.refl _
    | with_reducible apply judgeStop_keeps (hm.sub (by decide))
    | with_reducible apply setMotor_keeps (hm.sub (by decide))
    | with_reducible apply waitUntil_keeps (hm.sub (by decide))
    | split

theorem acceptTouch_keeps {fs : Nat} (hm : Within (Field.routed ||| Field.motors) fs) {a0 : Chip} (n : Nat) (opening : Bool) (c : Chip) (h0 : Keeps fs a0 c) : Keeps fs a0 (Chip.acceptTouch n opening c).2 := by
  unfold Chip.acceptTouch
  repeat' first
    | (clear_value *; apply Touches.mk <;> intro hn <;> first | with_reducible rfl | exact hm.out hn rfl)
    | extract_lets
    | with_reducible refine Keeps.ite ?_ ?_
    | with_reducible refine Keeps.ite ?_ ?_
    | with_reducible exact h0
    | with_reducible exact Keeps.refl _
    | with_reducible apply fire_keeps (hm.sub (by decide))
    | with_reducible apply setMotor_keeps (hm.sub (by decide))

theorem afterTouch_keeps {fs : Nat} (hm : Within (Field.routed ||| Field.slots ||| Field.produced ||| Field.slotWrites ||| Field.sessions ||| Field.staged ||| Field.lives ||| Field.cmds ||| Field.firmware ||| Field.image ||| Field.links ||| Field.fabric ||| Field.motors ||| Field.records ||| Field.cal ||| Field.zones ||| Field.staleWrites ||| Field.streams ||| Field.can ||| Field.freeCount) fs) {a0 : Chip} (n : Nat) (mv : Move) (reject : Bool) (c : Chip) (h0 : Keeps fs a0 c) : Keeps fs a0 (Chip.afterTouch n mv reject c) := by
  unfold Chip.afterTouch
  repeat' first
    | (clear_value *; apply Touches.mk <;> intro hn <;> first | with_reducible rfl | exact hm.out hn rfl)
    | extract_lets
    | with_reducible refine Keeps.ite ?_ ?_
    | with_reducible exact h0
    | with_reducible exact Keeps.refl _
    | with_reducible apply endMove_keeps (hm.sub (by decide))
    | with_reducible apply startLeg_keeps (hm.sub (by decide))
    | with_reducible apply writePosition_keeps (hm.sub (by decide))
    | with_reducible apply judgeStop_keeps (hm.sub (by decide))
    | split

theorem latchMotor_keeps {fs : Nat} (hm : Within (Field.motors) fs) {a0 : Chip} (n : Nat) (jam : Bool) (c : Chip) (h0 : Keeps fs a0 c) : Keeps fs a0 (Chip.latchMotor n jam c) := by
  unfold Chip.latchMotor
  repeat' first
    | (clear_value *; apply Touches.mk <;> intro hn <;> first | with_reducible rfl | exact hm.out hn rfl)
    | extract_lets
    | with_reducible exact h0
    | with_reducible exact Keeps.refl _
    | with_reducible apply setMotor_keeps (hm.sub (by decide))

theorem touch_keeps {fs : Nat} (hm : Within (Field.routed ||| Field.clk ||| Field.slots ||| Field.produced ||| Field.slotWrites ||| Field.sessions ||| Field.staged ||| Field.lives ||| Field.cmds ||| Field.firmware ||| Field.image ||| Field.rtc ||| Field.links ||| Field.fabric ||| Field.motors ||| Field.records ||| Field.valves ||| Field.cal ||| Field.zones ||| Field.staleWrites ||| Field.streams ||| Field.can ||| Field.freeCount) fs) {a0 : Chip} (n : Nat) (c : Chip) (h0 : Keeps fs a0 c) : Keeps fs a0 (Chip.touch n c) := by
  unfold Chip.touch
  repeat' first
    | (clear_value *; apply Touches.mk <;> intro hn <;> first | with_reducible rfl | exact hm.out hn rfl)
    | extract_lets
    | with_reducible refine Keeps.ite ?_ ?_
    | with_reducible exact h0
    | with_reducible exact Keeps.refl _
    | with_reducible apply valveFault_keeps (hm.sub (by decide))
    | with_reducible apply endMove_keeps (hm.sub (by decide))
    | with_reducible apply latchMotor_keeps (hm.sub (by decide))
    | with_reducible apply afterTouch_keeps (hm.sub (by decide))
    | with_reducible apply acceptTouch_keeps (hm.sub (by decide))
    | with_reducible apply waitUntil_keeps (hm.sub (by decide))
    | split

theorem rippleLost_keeps {fs : Nat} (hm : Within (Field.routed ||| Field.clk ||| Field.slots ||| Field.produced ||| Field.slotWrites ||| Field.sessions ||| Field.staged ||| Field.lives ||| Field.cmds ||| Field.firmware ||| Field.image ||| Field.rtc ||| Field.links ||| Field.fabric ||| Field.motors ||| Field.records ||| Field.valves ||| Field.cal ||| Field.zones ||| Field.staleWrites ||| Field.streams ||| Field.can) fs) {a0 : Chip} (n : Nat) (c : Chip) (h0 : Keeps fs a0 c) : Keeps fs a0 (Chip.rippleLost n c) := by
  unfold Chip.rippleLost
  repeat' first
    | (clear_value *; apply Touches.mk <;> intro hn <;> first | with_reducible rfl | exact hm.out hn rfl)
    | extract_lets
    | with_reducible refine Keeps.ite ?_ ?_
    | with_reducible exact h0
    | with_reducible exact Keeps.refl _
    | with_reducible apply valveFault_keeps (hm.sub (by decide))
    | with_reducible apply losePosition_keeps (hm.sub (by decide))
    | with_reducible apply waitUntil_keeps (hm.sub (by decide))
    | split

theorem motorOpenLoad_keeps {fs : Nat} (hm : Within (Field.routed ||| Field.clk ||| Field.slots ||| Field.produced ||| Field.slotWrites ||| Field.sessions ||| Field.staged ||| Field.lives ||| Field.cmds ||| Field.firmware ||| Field.image ||| Field.rtc ||| Field.links ||| Field.fabric ||| Field.motors ||| Field.records ||| Field.valves ||| Field.cal ||| Field.zones ||| Field.staleWrites ||| Field.streams ||| Field.can) fs) {a0 : Chip} (n : Nat) (c : Chip) (h0 : Keeps fs a0 c) : Keeps fs a0 (Chip.motorOpenLoad n c) := by
  unfold Chip.motorOpenLoad
  repeat' first
    | (clear_value *; apply Touches.mk <;> intro hn <;> first | with_reducible rfl | exact hm.out hn rfl)
    | extract_lets
    | with_reducible refine Keeps.ite ?_ ?_
    | with_reducible exact h0
    | with_reducible exact Keeps.refl _
    | with_reducible apply valveFault_keeps (hm.sub (by decide))
    | with_reducible apply endMove_keeps (hm.sub (by decide))
    | with_reducible apply latchMotor_keeps (hm.sub (by decide))
    | with_reducible apply waitUntil_keeps (hm.sub (by decide))
    | split

theorem legTimeout_keeps {fs : Nat} (hm : Within (Field.routed ||| Field.clk ||| Field.slots ||| Field.produced ||| Field.slotWrites ||| Field.sessions ||| Field.staged ||| Field.lives ||| Field.cmds ||| Field.firmware ||| Field.image ||| Field.rtc ||| Field.links ||| Field.fabric ||| Field.motors ||| Field.records ||| Field.cal ||| Field.zones ||| Field.staleWrites ||| Field.streams ||| Field.can) fs) {a0 : Chip} (n : Nat) (c : Chip) (h0 : Keeps fs a0 c) : Keeps fs a0 (Chip.legTimeout n c) := by
  unfold Chip.legTimeout
  repeat' first
    | (clear_value *; apply Touches.mk <;> intro hn <;> first | with_reducible rfl | exact hm.out hn rfl)
    | extract_lets
    | with_reducible refine Keeps.ite ?_ ?_
    | with_reducible exact h0
    | with_reducible exact Keeps.refl _
    | with_reducible apply losePosition_keeps (hm.sub (by decide))
    | with_reducible apply waitUntil_keeps (hm.sub (by decide))
    | split

theorem rehomeDue_keeps {fs : Nat} (hm : Within (Field.clk ||| Field.rtc ||| Field.motors) fs) {a0 : Chip} (n : Nat) (c : Chip) (h0 : Keeps fs a0 c) : Keeps fs a0 (Chip.rehomeDue n c) := by
  unfold Chip.rehomeDue
  repeat' first
    | (clear_value *; apply Touches.mk <;> intro hn <;> first | with_reducible rfl | exact hm.out hn rfl)
    | extract_lets
    | with_reducible refine Keeps.ite ?_ ?_
    | with_reducible exact h0
    | with_reducible exact Keeps.refl _
    | with_reducible apply setMotor_keeps (hm.sub (by decide))
    | with_reducible apply waitUntil_keeps (hm.sub (by decide))

theorem positionRow_keeps {fs : Nat} (hm : Within (Field.clk ||| Field.slots ||| Field.produced ||| Field.slotWrites ||| Field.rtc ||| Field.motors ||| Field.zones ||| Field.staleWrites ||| Field.loops) fs) {a0 : Chip} (n : Nat) (c : Chip) (h0 : Keeps fs a0 c) : Keeps fs a0 (Chip.positionRow n c) := by
  unfold Chip.positionRow
  repeat' first
    | extract_lets
    | with_reducible refine Keeps.ite ?_ ?_
    | with_reducible exact h0
    | with_reducible exact Keeps.refl _
    | with_reducible apply writePosition_keeps (hm.sub (by decide))
    | with_reducible apply waitUntil_keeps (hm.sub (by decide))

theorem bindMotor_keeps {fs : Nat} (hm : Within (Field.routed ||| Field.motors ||| Field.records) fs) {a0 : Chip} (n : Nat) (c : Chip) (h0 : Keeps fs a0 c) : Keeps fs a0 (Chip.bindMotor n c) := by
  unfold Chip.bindMotor
  repeat' first
    | (clear_value *; apply Touches.mk <;> intro hn <;> first | with_reducible rfl | exact hm.out hn rfl)
    | extract_lets
    | with_reducible refine Keeps.ite ?_ ?_
    | with_reducible exact h0
    | with_reducible exact Keeps.refl _
    | with_reducible apply autoRehome_keeps (hm.sub (by decide))
    | with_reducible apply tellUnknown_keeps (hm.sub (by decide))
    | with_reducible apply setMotor_keeps (hm.sub (by decide))

theorem writeEstimate_keeps {fs : Nat} (hm : Within (Field.slots ||| Field.produced ||| Field.slotWrites ||| Field.zones ||| Field.staleWrites ||| Field.loops) fs) {a0 : Chip} (n : Nat) (c : Chip) (h0 : Keeps fs a0 c) : Keeps fs a0 (Chip.writeEstimate n c) := by
  unfold Chip.writeEstimate
  repeat' first
    | (clear_value *; apply Touches.mk <;> intro hn <;> first | with_reducible rfl | exact hm.out hn rfl)
    | extract_lets
    | with_reducible refine Keeps.ite ?_ ?_
    | with_reducible exact h0
    | with_reducible exact Keeps.refl _
    | with_reducible apply produceOpt_keeps (hm.sub (by decide))
    | split

theorem applyThermal_keeps {fs : Nat} (hm : Within (Field.slots ||| Field.produced ||| Field.slotWrites ||| Field.valves ||| Field.zones ||| Field.staleWrites ||| Field.loops) fs) {a0 : Chip} (n : Nat) (v : Nat) (c : Chip) (h0 : Keeps fs a0 c) : Keeps fs a0 (Chip.applyThermal n v c) := by
  unfold Chip.applyThermal
  repeat' first
    | (clear_value *; apply Touches.mk <;> intro hn <;> first | with_reducible rfl | exact hm.out hn rfl)
    | extract_lets
    | with_reducible refine Keeps.ite ?_ ?_
    | with_reducible exact h0
    | with_reducible exact Keeps.refl _
    | with_reducible apply writeEstimate_keeps (hm.sub (by decide))
    | with_reducible apply setValve_keeps (hm.sub (by decide))

theorem startFloat_keeps {fs : Nat} (hm : Within (Field.mgt ||| Field.valves) fs) {a0 : Chip} (n : Nat) (opening : Bool) (dt : Nat) (toEnd : Bool) (c : Chip) (h0 : Keeps fs a0 c) : Keeps fs a0 (Chip.startFloat n opening dt toEnd c) := by
  unfold Chip.startFloat
  repeat' first
    | (clear_value *; apply Touches.mk <;> intro hn <;> first | with_reducible rfl | exact hm.out hn rfl)
    | extract_lets
    | with_reducible refine Keeps.ite ?_ ?_
    | with_reducible exact h0
    | with_reducible exact Keeps.refl _
    | with_reducible apply setValve_keeps (hm.sub (by decide))
    | split

theorem followFloat_keeps {fs : Nat} (hm : Within (Field.mgt ||| Field.valves) fs) {a0 : Chip} (n : Nat) (c : Chip) (h0 : Keeps fs a0 c) : Keeps fs a0 (Chip.followFloat n c) := by
  unfold Chip.followFloat
  repeat' first
    | (clear_value *; apply Touches.mk <;> intro hn <;> first | with_reducible rfl | exact hm.out hn rfl)
    | extract_lets
    | with_reducible refine Keeps.ite ?_ ?_
    | with_reducible exact h0
    | with_reducible exact Keeps.refl _
    | with_reducible apply startFloat_keeps (hm.sub (by decide))
    | split

theorem stopFloat_keeps {fs : Nat} (hm : Within (Field.mgt ||| Field.valves) fs) {a0 : Chip} (n : Nat) (c : Chip) (h0 : Keeps fs a0 c) : Keeps fs a0 (Chip.stopFloat n c) := by
  unfold Chip.stopFloat
  repeat' first
    | (clear_value *; apply Touches.mk <;> intro hn <;> first | with_reducible rfl | exact hm.out hn rfl)
    | extract_lets
    | with_reducible refine Keeps.ite ?_ ?_
    | with_reducible exact h0
    | with_reducible exact Keeps.refl _
    | with_reducible apply setValve_keeps (hm.sub (by decide))

theorem applyFloat_keeps {fs : Nat} (hm : Within (Field.mgt ||| Field.valves) fs) {a0 : Chip} (n : Nat) (v : Nat) (c : Chip) (h0 : Keeps fs a0 c) : Keeps fs a0 (Chip.applyFloat n v c) := by
  unfold Chip.applyFloat
  repeat' first
    | (clear_value *; apply Touches.mk <;> intro hn <;> first | with_reducible rfl | exact hm.out hn rfl)
    | extract_lets
    | with_reducible refine Keeps.ite ?_ ?_
    | with_reducible exact h0
    | with_reducible exact Keeps.refl _
    | with_reducible apply setValve_keeps (hm.sub (by decide))
    | with_reducible apply stopFloat_keeps (hm.sub (by decide))
    | with_reducible apply followFloat_keeps (hm.sub (by decide))

theorem floatEnds_keeps {fs : Nat} (hm : Within (Field.clk ||| Field.slots ||| Field.produced ||| Field.slotWrites ||| Field.mgt ||| Field.rtc ||| Field.valves ||| Field.zones ||| Field.staleWrites ||| Field.loops) fs) {a0 : Chip} (n : Nat) (c : Chip) (h0 : Keeps fs a0 c) : Keeps fs a0 (Chip.floatEnds n c) := by
  unfold Chip.floatEnds
  repeat' first
    | (clear_value *; apply Touches.mk <;> intro hn <;> first | with_reducible rfl | exact hm.out hn rfl)
    | extract_lets
    | with_reducible refine Keeps.ite ?_ ?_
    | with_reducible exact h0
    | with_reducible exact Keeps.refl _
    | with_reducible apply followFloat_keeps (hm.sub (by decide))
    | with_reducible apply writeEstimate_keeps (hm.sub (by decide))
    | with_reducible apply setValve_keeps (hm.sub (by decide))
    | with_reducible apply waitUntil_keeps (hm.sub (by decide))
    | split

theorem checkValve_keeps {fs : Nat} (hm : Within (Field.slots ||| Field.produced ||| Field.slotWrites ||| Field.mgt ||| Field.motors ||| Field.records ||| Field.valves ||| Field.zones ||| Field.staleWrites ||| Field.loops) fs) {a0 : Chip} (n : Nat) (c : Chip) (h0 : Keeps fs a0 c) : Keeps fs a0 (Chip.checkValve n c) := by
  unfold Chip.checkValve
  repeat' first
    | (clear_value *; apply Touches.mk <;> intro hn <;> first | with_reducible rfl | exact hm.out hn rfl)
    | extract_lets
    | with_reducible refine Keeps.ite ?_ ?_
    | with_reducible exact h0
    | with_reducible exact Keeps.refl _
    | with_reducible apply applyFloat_keeps (hm.sub (by decide))
    | with_reducible apply followTarget_keeps (hm.sub (by decide))
    | with_reducible apply setValve_keeps (hm.sub (by decide))
    | with_reducible apply applyThermal_keeps (hm.sub (by decide))

theorem boostEnds_keeps {fs : Nat} (hm : Within (Field.clk ||| Field.slots ||| Field.produced ||| Field.slotWrites ||| Field.rtc ||| Field.valves ||| Field.zones ||| Field.staleWrites ||| Field.loops) fs) {a0 : Chip} (n : Nat) (c : Chip) (h0 : Keeps fs a0 c) : Keeps fs a0 (Chip.boostEnds n c) := by
  unfold Chip.boostEnds
  repeat' first
    | (clear_value *; apply Touches.mk <;> intro hn <;> first | with_reducible rfl | exact hm.out hn rfl)
    | extract_lets
    | with_reducible exact h0
    | with_reducible exact Keeps.refl _
    | with_reducible apply writeEstimate_keeps (hm.sub (by decide))
    | with_reducible apply setValve_keeps (hm.sub (by decide))
    | with_reducible apply waitUntil_keeps (hm.sub (by decide))
    | split

theorem valveOpen_keeps {fs : Nat} (hm : Within (Field.routed ||| Field.valves) fs) {a0 : Chip} (n : Nat) (c : Chip) (h0 : Keeps fs a0 c) : Keeps fs a0 (Chip.valveOpen n c) := by
  unfold Chip.valveOpen
  repeat' first
    | extract_lets
    | with_reducible refine Keeps.ite ?_ ?_
    | with_reducible exact h0
    | with_reducible exact Keeps.refl _
    | with_reducible apply valveFault_keeps (hm.sub (by decide))

theorem dwellEnds_keeps {fs : Nat} (hm : Within (Field.clk ||| Field.mgt ||| Field.rtc ||| Field.motors ||| Field.valves) fs) {a0 : Chip} (n : Nat) (c : Chip) (h0 : Keeps fs a0 c) : Keeps fs a0 (Chip.dwellEnds n c) := by
  unfold Chip.dwellEnds
  repeat' first
    | (clear_value *; apply Touches.mk <;> intro hn <;> first | with_reducible rfl | exact hm.out hn rfl)
    | extract_lets
    | with_reducible refine Keeps.ite ?_ ?_
    | with_reducible exact h0
    | with_reducible exact Keeps.refl _
    | with_reducible apply startFloat_keeps (hm.sub (by decide))
    | with_reducible apply setValve_keeps (hm.sub (by decide))
    | with_reducible apply driveLeg_keeps (hm.sub (by decide))
    | with_reducible apply waitUntil_keeps (hm.sub (by decide))
    | split

theorem noteLowered_keeps {fs : Nat} (hm : Within (Field.fans) fs) {a0 : Chip} (n : Nat) (before : Nat) (c : Chip) (h0 : Keeps fs a0 c) : Keeps fs a0 (Chip.noteLowered n before c) := by
  unfold Chip.noteLowered
  repeat' first
    | (clear_value *; apply Touches.mk <;> intro hn <;> first | with_reducible rfl | exact hm.out hn rfl)
    | extract_lets
    | with_reducible refine Keeps.ite ?_ ?_
    | with_reducible exact h0
    | with_reducible exact Keeps.refl _
    | with_reducible apply setFan_keeps (hm.sub (by decide))

theorem fanStart_keeps {fs : Nat} (hm : Within (Field.fans) fs) {a0 : Chip} (n : Nat) (c : Chip) (h0 : Keeps fs a0 c) : Keeps fs a0 (Chip.fanStart n c) := by
  unfold Chip.fanStart
  repeat' first
    | (clear_value *; apply Touches.mk <;> intro hn <;> first | with_reducible rfl | exact hm.out hn rfl)
    | extract_lets
    | with_reducible exact h0
    | with_reducible exact Keeps.refl _
    | with_reducible apply setFan_keeps (hm.sub (by decide))

theorem fanActs_keeps {fs : Nat} (hm : Within (Field.routed ||| Field.clk ||| Field.rtc ||| Field.fans) fs) {a0 : Chip} (n : Nat) (c : Chip) (h0 : Keeps fs a0 c) : Keeps fs a0 (Chip.fanActs n c) := by
  unfold Chip.fanActs
  repeat' first
    | (clear_value *; apply Touches.mk <;> intro hn <;> first | with_reducible rfl | exact hm.out hn rfl)
    | extract_lets
    | with_reducible refine Keeps.ite ?_ ?_
    | with_reducible exact h0
    | with_reducible exact Keeps.refl _
    | with_reducible apply fanStart_keeps (hm.sub (by decide))
    | with_reducible apply setFan_keeps (hm.sub (by decide))

theorem checkFan_keeps {fs : Nat} (hm : Within (Field.routed ||| Field.clk ||| Field.rtc ||| Field.fans) fs) {a0 : Chip} (n : Nat) (c : Chip) (h0 : Keeps fs a0 c) : Keeps fs a0 (Chip.checkFan n c) := by
  unfold Chip.checkFan
  repeat' first
    | (clear_value *; apply Touches.mk <;> intro hn <;> first | with_reducible rfl | exact hm.out hn rfl)
    | extract_lets
    | with_reducible refine Keeps.ite ?_ ?_
    | with_reducible exact h0
    | with_reducible exact Keeps.refl _
    | with_reducible apply fire_keeps (hm.sub (by decide))
    | with_reducible apply noteLowered_keeps (hm.sub (by decide))
    | with_reducible apply fanActs_keeps (hm.sub (by decide))
    | with_reducible apply setFan_keeps (hm.sub (by decide))

theorem fanGroupRuns_keeps {fs : Nat} (hm : Within (Field.routed ||| Field.clk ||| Field.rtc ||| Field.fans) fs) {a0 : Chip} (n : Nat) (c : Chip) (h0 : Keeps fs a0 c) : Keeps fs a0 (Chip.fanGroupRuns n c) := by
  unfold Chip.fanGroupRuns
  repeat' first
    | extract_lets
    | with_reducible refine Keeps.ite ?_ ?_
    | with_reducible exact h0
    | with_reducible exact Keeps.refl _
    | with_reducible apply fanStart_keeps (hm.sub (by decide))

theorem spinupEnds_keeps {fs : Nat} (hm : Within (Field.routed ||| Field.clk ||| Field.rtc ||| Field.fans) fs) {a0 : Chip} (n : Nat) (c : Chip) (h0 : Keeps fs a0 c) : Keeps fs a0 (Chip.spinupEnds n c) := by
  unfold Chip.spinupEnds
  repeat' first
    | (clear_value *; apply Touches.mk <;> intro hn <;> first | with_reducible rfl | exact hm.out hn rfl)
    | extract_lets
    | with_reducible refine Keeps.ite ?_ ?_
    | with_reducible exact h0
    | with_reducible exact Keeps.refl _
    | with_reducible apply fire_keeps (hm.sub (by decide))
    | with_reducible apply noteLowered_keeps (hm.sub (by decide))
    | with_reducible apply setFan_keeps (hm.sub (by decide))
    | with_reducible apply waitUntil_keeps (hm.sub (by decide))
    | split

theorem gapEnds_keeps {fs : Nat} (hm : Within (Field.clk ||| Field.rtc ||| Field.fans) fs) {a0 : Chip} (n : Nat) (c : Chip) (h0 : Keeps fs a0 c) : Keeps fs a0 (Chip.gapEnds n c) := by
  unfold Chip.gapEnds
  repeat' first
    | (clear_value *; apply Touches.mk <;> intro hn <;> first | with_reducible rfl | exact hm.out hn rfl)
    | extract_lets
    | with_reducible refine Keeps.ite ?_ ?_
    | with_reducible exact h0
    | with_reducible exact Keeps.refl _
    | with_reducible apply setFan_keeps (hm.sub (by decide))
    | with_reducible apply waitUntil_keeps (hm.sub (by decide))
    | split

theorem tachEdge_keeps {fs : Nat} (hm : Within (Field.slots ||| Field.produced ||| Field.slotWrites ||| Field.fans ||| Field.zones ||| Field.staleWrites ||| Field.loops) fs) {a0 : Chip} (n : Nat) (c : Chip) (h0 : Keeps fs a0 c) : Keeps fs a0 (Chip.tachEdge n c) := by
  unfold Chip.tachEdge
  repeat' first
    | (clear_value *; apply Touches.mk <;> intro hn <;> first | with_reducible rfl | exact hm.out hn rfl)
    | extract_lets
    | with_reducible refine Keeps.ite ?_ ?_
    | with_reducible exact h0
    | with_reducible exact Keeps.refl _
    | with_reducible apply produceOpt_keeps (hm.sub (by decide))
    | with_reducible apply setFan_keeps (hm.sub (by decide))
    | split

theorem tachLost_keeps {fs : Nat} (hm : Within (Field.routed ||| Field.clk ||| Field.rtc ||| Field.fans) fs) {a0 : Chip} (n : Nat) (c : Chip) (h0 : Keeps fs a0 c) : Keeps fs a0 (Chip.tachLost n c) := by
  unfold Chip.tachLost
  repeat' first
    | (clear_value *; apply Touches.mk <;> intro hn <;> first | with_reducible rfl | exact hm.out hn rfl)
    | extract_lets
    | with_reducible refine Keeps.ite ?_ ?_
    | with_reducible exact h0
    | with_reducible exact Keeps.refl _
    | with_reducible apply fire_keeps (hm.sub (by decide))
    | with_reducible apply setFan_keeps (hm.sub (by decide))
    | with_reducible apply waitUntil_keeps (hm.sub (by decide))

theorem speedZero_keeps {fs : Nat} (hm : Within (Field.clk ||| Field.slots ||| Field.produced ||| Field.slotWrites ||| Field.rtc ||| Field.fans ||| Field.zones ||| Field.staleWrites ||| Field.loops) fs) {a0 : Chip} (n : Nat) (c : Chip) (h0 : Keeps fs a0 c) : Keeps fs a0 (Chip.speedZero n c) := by
  unfold Chip.speedZero
  repeat' first
    | (clear_value *; apply Touches.mk <;> intro hn <;> first | with_reducible rfl | exact hm.out hn rfl)
    | extract_lets
    | with_reducible refine Keeps.ite ?_ ?_
    | with_reducible exact h0
    | with_reducible exact Keeps.refl _
    | with_reducible apply produceOpt_keeps (hm.sub (by decide))
    | with_reducible apply setFan_keeps (hm.sub (by decide))
    | with_reducible apply waitUntil_keeps (hm.sub (by decide))

theorem fanForced_keeps {fs : Nat} (hm : Within (Field.routed ||| Field.dogs) fs)
    {a0 : Chip} (p : Nat) (c : Chip) (h0 : Keeps fs a0 c) : Keeps fs a0
    (({ c with dogs := { c.dogs with fanForced := true } }.bite 19).fire 58 (p + 256 * c.boundFans.length)) :=
  fire_keeps (hm.sub (by decide)) _ _ _ (bite_keeps (hm.sub (by decide)) _ _ (Keeps.update h0 (by apply Touches.mk <;> intro hn <;> first | rfl | exact hm.out hn rfl)))

theorem fanWatchdog_keeps {fs : Nat} (hm : Within (Field.routed ||| Field.clk ||| Field.dogs ||| Field.rtc ||| Field.fans) fs)
    {a0 : Chip} (c : Chip) (h0 : Keeps fs a0 c) : Keeps fs a0 (Chip.fanWatchdog c) := by
  unfold Chip.fanWatchdog
  refine Keeps.ite h0 ?_
  exact fanForced_keeps (hm.sub (by decide)) _ _ (waitUntil_keeps (hm.sub (by decide)) _ _ h0)

theorem fanBeat_keeps {fs : Nat} (hm : Within (Field.dogs ||| Field.fans) fs) {a0 : Chip} (c : Chip) (h0 : Keeps fs a0 c) : Keeps fs a0 (Chip.fanBeat c) := by
  unfold Chip.fanBeat
  repeat' first
    | (clear_value *; apply Touches.mk <;> intro hn <;> first | with_reducible rfl | exact hm.out hn rfl)
    | extract_lets
    | with_reducible refine foldl_keeps (fun _ _ => ?_) ?_
    | with_reducible refine Keeps.ite ?_ ?_
    | with_reducible exact h0
    | with_reducible exact Keeps.refl _
    | with_reducible apply noteLowered_keeps (hm.sub (by decide))
    | with_reducible refine Keeps.update ?_ ?_

theorem supersede_keeps {fs : Nat} (hm : Within (Field.routed ||| Field.slots ||| Field.produced ||| Field.slotWrites ||| Field.sessions ||| Field.staged ||| Field.lives ||| Field.cmds ||| Field.firmware ||| Field.image ||| Field.links ||| Field.fabric ||| Field.motors ||| Field.records ||| Field.cal ||| Field.zones ||| Field.staleWrites ||| Field.streams ||| Field.can) fs) {a0 : Chip} (n : Nat) (c : Chip) (h0 : Keeps fs a0 c) : Keeps fs a0 (Chip.supersede n c).2 := by
  unfold Chip.supersede
  repeat' first
    | (clear_value *; apply Touches.mk <;> intro hn <;> first | with_reducible rfl | exact hm.out hn rfl)
    | extract_lets
    | with_reducible refine Keeps.ite ?_ ?_
    | with_reducible refine Keeps.ite ?_ ?_
    | with_reducible exact h0
    | with_reducible exact Keeps.refl _
    | with_reducible apply endMove_keeps (hm.sub (by decide))
    | with_reducible apply setMotor_keeps (hm.sub (by decide))
    | split

theorem bodyDamperMove_keeps {fs : Nat} (hm : Within (Field.routed ||| Field.slots ||| Field.produced ||| Field.slotWrites ||| Field.sessions ||| Field.staged ||| Field.lives ||| Field.cmds ||| Field.firmware ||| Field.image ||| Field.links ||| Field.fabric ||| Field.motors ||| Field.records ||| Field.cal ||| Field.zones ||| Field.staleWrites ||| Field.streams ||| Field.can) fs) {a0 : Chip} (k : Cmd) (c : Chip) (h0 : Keeps fs a0 c) : ResKeeps fs a0 (bodyDamperMove k c) := by
  unfold bodyDamperMove
  repeat' first
    | (clear_value *; apply Touches.mk <;> intro hn <;> first | with_reducible rfl | exact hm.out hn rfl)
    | extract_lets
    | with_reducible refine ResKeeps.ite ?_ ?_
    | with_reducible refine Keeps.ite ?_ ?_
    | with_reducible exact h0
    | with_reducible exact Keeps.refl _
    | with_reducible apply fire_keeps (hm.sub (by decide))
    | with_reducible apply beginMove_keeps (hm.sub (by decide))
    | with_reducible apply setMotor_keeps (hm.sub (by decide))
    | with_reducible apply supersede_keeps (hm.sub (by decide))
    | with_reducible apply ResKeeps.done
    | with_reducible apply ResKeeps.accepted
    | with_reducible apply ResKeeps.acceptedDone
    | with_reducible apply ResKeeps.waiting
    | with_reducible apply ResKeeps.held
    | with_reducible apply ResKeeps.ok
    | with_reducible apply ResKeeps.okWith
    | with_reducible apply ResKeeps.err
    | with_reducible apply ResKeeps.badParam
    | with_reducible apply ResKeeps.badLength

theorem bodyDamperRehome_keeps {fs : Nat} (hm : Within (Field.routed ||| Field.slots ||| Field.produced ||| Field.slotWrites ||| Field.sessions ||| Field.staged ||| Field.lives ||| Field.cmds ||| Field.firmware ||| Field.image ||| Field.links ||| Field.fabric ||| Field.motors ||| Field.records ||| Field.cal ||| Field.zones ||| Field.staleWrites ||| Field.streams ||| Field.can) fs) {a0 : Chip} (k : Cmd) (c : Chip) (h0 : Keeps fs a0 c) : ResKeeps fs a0 (bodyDamperRehome k c) := by
  unfold bodyDamperRehome
  repeat' first
    | extract_lets
    | with_reducible refine ResKeeps.ite ?_ ?_
    | with_reducible refine Keeps.ite ?_ ?_
    | with_reducible exact h0
    | with_reducible exact Keeps.refl _
    | with_reducible apply beginMove_keeps (hm.sub (by decide))
    | with_reducible apply supersede_keeps (hm.sub (by decide))
    | with_reducible apply ResKeeps.done
    | with_reducible apply ResKeeps.accepted
    | with_reducible apply ResKeeps.acceptedDone
    | with_reducible apply ResKeeps.waiting
    | with_reducible apply ResKeeps.held
    | with_reducible apply ResKeeps.ok
    | with_reducible apply ResKeeps.okWith
    | with_reducible apply ResKeeps.err
    | with_reducible apply ResKeeps.badParam
    | with_reducible apply ResKeeps.badLength

theorem bodyValveSet_keeps {fs : Nat} (hm : Within (Field.slots ||| Field.produced ||| Field.slotWrites ||| Field.mgt ||| Field.motors ||| Field.records ||| Field.valves ||| Field.zones ||| Field.staleWrites ||| Field.loops) fs) {a0 : Chip} (k : Cmd) (c : Chip) (h0 : Keeps fs a0 c) : ResKeeps fs a0 (bodyValveSet k c) := by
  unfold bodyValveSet
  repeat' first
    | (clear_value *; apply Touches.mk <;> intro hn <;> first | with_reducible rfl | exact hm.out hn rfl)
    | extract_lets
    | with_reducible refine ResKeeps.ite ?_ ?_
    | with_reducible refine Keeps.ite ?_ ?_
    | with_reducible exact h0
    | with_reducible exact Keeps.refl _
    | with_reducible apply checkValve_keeps (hm.sub (by decide))
    | with_reducible apply setValve_keeps (hm.sub (by decide))
    | with_reducible apply ResKeeps.done
    | with_reducible apply ResKeeps.accepted
    | with_reducible apply ResKeeps.acceptedDone
    | with_reducible apply ResKeeps.waiting
    | with_reducible apply ResKeeps.held
    | with_reducible apply ResKeeps.ok
    | with_reducible apply ResKeeps.okWith
    | with_reducible apply ResKeeps.err
    | with_reducible apply ResKeeps.badParam
    | with_reducible apply ResKeeps.badLength

theorem bodyFanSet_keeps {fs : Nat} (hm : Within (Field.routed ||| Field.clk ||| Field.rtc ||| Field.fans) fs) {a0 : Chip} (k : Cmd) (c : Chip) (h0 : Keeps fs a0 c) : ResKeeps fs a0 (bodyFanSet k c) := by
  unfold bodyFanSet
  repeat' first
    | (clear_value *; apply Touches.mk <;> intro hn <;> first | with_reducible rfl | exact hm.out hn rfl)
    | extract_lets
    | with_reducible refine ResKeeps.ite ?_ ?_
    | with_reducible refine Keeps.ite ?_ ?_
    | with_reducible exact h0
    | with_reducible exact Keeps.refl _
    | with_reducible apply checkFan_keeps (hm.sub (by decide))
    | with_reducible apply setFan_keeps (hm.sub (by decide))
    | with_reducible apply ResKeeps.done
    | with_reducible apply ResKeeps.accepted
    | with_reducible apply ResKeeps.acceptedDone
    | with_reducible apply ResKeeps.waiting
    | with_reducible apply ResKeeps.held
    | with_reducible apply ResKeeps.ok
    | with_reducible apply ResKeeps.okWith
    | with_reducible apply ResKeeps.err
    | with_reducible apply ResKeeps.badParam
    | with_reducible apply ResKeeps.badLength

theorem clearMotorFaults_keeps {fs : Nat} (hm : Within (Field.motors) fs) {a0 : Chip} (n : Nat) (c : Chip) (h0 : Keeps fs a0 c) : Keeps fs a0 (Chip.clearMotorFaults n c) := by
  unfold Chip.clearMotorFaults
  repeat' first
    | (clear_value *; apply Touches.mk <;> intro hn <;> first | with_reducible rfl | exact hm.out hn rfl)
    | extract_lets
    | with_reducible refine Keeps.ite ?_ ?_
    | with_reducible exact h0
    | with_reducible exact Keeps.refl _
    | with_reducible apply setMotor_keeps (hm.sub (by decide))

theorem clearFanFaults_keeps {fs : Nat} (hm : Within (Field.routed ||| Field.clk ||| Field.rtc ||| Field.fans) fs) {a0 : Chip} (n : Nat) (c : Chip) (h0 : Keeps fs a0 c) : Keeps fs a0 (Chip.clearFanFaults n c) := by
  unfold Chip.clearFanFaults
  repeat' first
    | (clear_value *; apply Touches.mk <;> intro hn <;> first | with_reducible rfl | exact hm.out hn rfl)
    | extract_lets
    | with_reducible refine Keeps.ite ?_ ?_
    | with_reducible exact h0
    | with_reducible exact Keeps.refl _
    | with_reducible apply noteLowered_keeps (hm.sub (by decide))
    | with_reducible apply fanActs_keeps (hm.sub (by decide))
    | with_reducible apply setFan_keeps (hm.sub (by decide))

theorem clearValveFaults_keeps {fs : Nat} (hm : Within (Field.valves) fs) {a0 : Chip} (n : Nat) (c : Chip) (h0 : Keeps fs a0 c) : Keeps fs a0 (Chip.clearValveFaults n c) := by
  unfold Chip.clearValveFaults
  repeat' first
    | (clear_value *; apply Touches.mk <;> intro hn <;> first | with_reducible rfl | exact hm.out hn rfl)
    | extract_lets
    | with_reducible refine Keeps.ite ?_ ?_
    | with_reducible exact h0
    | with_reducible exact Keeps.refl _
    | with_reducible apply setValve_keeps (hm.sub (by decide))

theorem bodyActFaultClear_keeps {fs : Nat} (hm : Within (Field.routed ||| Field.clk ||| Field.rtc ||| Field.motors ||| Field.valves ||| Field.fans) fs) {a0 : Chip} (k : Cmd) (c : Chip) (h0 : Keeps fs a0 c) : ResKeeps fs a0 (bodyActFaultClear k c) := by
  unfold bodyActFaultClear
  repeat' first
    | extract_lets
    | with_reducible refine ResKeeps.ite ?_ ?_
    | with_reducible refine Keeps.ite ?_ ?_
    | with_reducible exact h0
    | with_reducible exact Keeps.refl _
    | with_reducible apply clearValveFaults_keeps (hm.sub (by decide))
    | with_reducible apply clearFanFaults_keeps (hm.sub (by decide))
    | with_reducible apply clearMotorFaults_keeps (hm.sub (by decide))
    | with_reducible apply ResKeeps.done
    | with_reducible apply ResKeeps.accepted
    | with_reducible apply ResKeeps.acceptedDone
    | with_reducible apply ResKeeps.waiting
    | with_reducible apply ResKeeps.held
    | with_reducible apply ResKeeps.ok
    | with_reducible apply ResKeeps.okWith
    | with_reducible apply ResKeeps.err
    | with_reducible apply ResKeeps.badParam
    | with_reducible apply ResKeeps.badLength

theorem checkActuator_keeps {fs : Nat} (hm : Within (Field.routed ||| Field.clk ||| Field.slots ||| Field.produced ||| Field.slotWrites ||| Field.rtc ||| Field.motors ||| Field.records ||| Field.valves ||| Field.fans ||| Field.zones ||| Field.staleWrites) fs) {a0 : Chip} (n : Nat) (c : Chip) (h0 : Keeps fs a0 c) : Keeps fs a0 (Chip.checkActuator n c) := by
  unfold Chip.checkActuator
  repeat' first
    | extract_lets
    | with_reducible refine Keeps.ite ?_ ?_
    | with_reducible exact h0
    | with_reducible exact Keeps.refl _
    | with_reducible apply checkValve_keeps (hm.sub (by decide))
    | with_reducible apply checkFan_keeps (hm.sub (by decide))
    | with_reducible apply followTarget_keeps (hm.sub (by decide))

end Sys2Proof.Machine
end

