-- ==== Sys2Proof/Laws/KeepsFlock.lean ====
section
/-! SUPPORT. What Machine/Flock.lean keeps. -/

namespace Sys2Proof.Machine

theorem rxCount_keeps {fs : Nat} (hm : Within (Field.links) fs) {a0 : Chip} (n : Nat) (c : Chip) (h0 : Keeps fs a0 c) : Keeps fs a0 (Chip.rxCount n c) := by
  unfold Chip.rxCount
  repeat' first
    | (clear_value *; apply Touches.mk <;> intro hn <;> first | with_reducible rfl | exact hm.out hn rfl)
    | extract_lets
    | with_reducible exact h0
    | with_reducible exact Keeps.refl _
    | with_reducible apply setLink_keeps (hm.sub (by decide))

theorem sendVersion_keeps {fs : Nat} (hm : Within (Field.links) fs) {a0 : Chip} (n : Nat) (c : Chip) (h0 : Keeps fs a0 c) : Keeps fs a0 (Chip.sendVersion n c) := by
  unfold Chip.sendVersion
  repeat' first
    | extract_lets
    | with_reducible exact h0
    | with_reducible exact Keeps.refl _
    | with_reducible apply sendMsg_keeps (hm.sub (by decide))

theorem linkMove_keeps {fs : Nat} (hm : Within (Field.routed ||| Field.links ||| Field.fabric) fs) {a0 : Chip} (n : Nat) (p : LinkPhase) (reason : Option Nat) (c : Chip) (h0 : Keeps fs a0 c) : Keeps fs a0 (Chip.linkMove n p reason c) := by
  unfold Chip.linkMove
  repeat' first
    | (clear_value *; apply Touches.mk <;> intro hn <;> first | with_reducible rfl | exact hm.out hn rfl)
    | extract_lets
    | with_reducible refine Keeps.ite ?_ ?_
    | with_reducible exact h0
    | with_reducible exact Keeps.refl _
    | with_reducible apply fire_keeps (hm.sub (by decide))
    | with_reducible apply setFabric_keeps (hm.sub (by decide))
    | with_reducible apply setLink_keeps (hm.sub (by decide))
    | with_reducible refine OptKeeps.of_eq ?_ (by assumption)
    | split

theorem forgetPeer_keeps {fs : Nat} (hm : Within (Field.links) fs) {a0 : Chip} (n : Nat) (c : Chip) (h0 : Keeps fs a0 c) : Keeps fs a0 (Chip.forgetPeer n c) := by
  unfold Chip.forgetPeer
  repeat' first
    | (clear_value *; apply Touches.mk <;> intro hn <;> first | with_reducible rfl | exact hm.out hn rfl)
    | extract_lets
    | with_reducible exact h0
    | with_reducible exact Keeps.refl _
    | with_reducible apply setLink_keeps (hm.sub (by decide))

theorem linksChanged_keeps {fs : Nat} (hm : Within (Field.routed ||| Field.links ||| Field.fabric) fs) {a0 : Chip} (c : Chip) (h0 : Keeps fs a0 c) : Keeps fs a0 (Chip.linksChanged c) := by
  unfold Chip.linksChanged
  repeat' first
    | extract_lets
    | with_reducible exact h0
    | with_reducible exact Keeps.refl _
    | with_reducible apply converge_keeps (hm.sub (by decide))
    | with_reducible apply floodOwn_keeps (hm.sub (by decide))

theorem rerouteMsg_keeps {fs : Nat} (hm : Within (Field.routed ||| Field.links) fs) {a0 : Chip} (n : Nat) (m : LinkMsg) (c : Chip) (h0 : Keeps fs a0 c) : Keeps fs a0 (Chip.rerouteMsg n m c) := by
  unfold Chip.rerouteMsg
  repeat' first
    | (clear_value *; apply Touches.mk <;> intro hn <;> first | with_reducible rfl | exact hm.out hn rfl)
    | extract_lets
    | with_reducible refine Keeps.ite ?_ ?_
    | with_reducible exact h0
    | with_reducible exact Keeps.refl _
    | with_reducible apply sendMsg_keeps (hm.sub (by decide))
    | with_reducible apply egress_keeps (hm.sub (by decide))
    | with_reducible apply discard_keeps (hm.sub (by decide))
    | with_reducible refine OptKeeps.of_eq ?_ (by assumption)
    | split

theorem leftUp_keeps {fs : Nat} (hm : Within (Field.routed ||| Field.links ||| Field.fabric) fs) {a0 : Chip} (n : Nat) (c : Chip) (h0 : Keeps fs a0 c) : Keeps fs a0 (Chip.leftUp n c) := by
  unfold Chip.leftUp
  repeat' first
    | extract_lets
    | with_reducible refine foldl_keeps (fun _ _ => ?_) ?_
    | with_reducible exact h0
    | with_reducible exact Keeps.refl _
    | with_reducible apply linksChanged_keeps (hm.sub (by decide))
    | with_reducible apply setLink_keeps (hm.sub (by decide))
    | with_reducible apply rerouteMsg_keeps (hm.sub (by decide))

theorem linkLeave_keeps {fs : Nat} (hm : Within (Field.routed ||| Field.links ||| Field.fabric) fs) {a0 : Chip} (n : Nat) (p : LinkPhase) (reason : Option Nat) (c : Chip) (h0 : Keeps fs a0 c) : Keeps fs a0 (Chip.linkLeave n p reason c) := by
  unfold Chip.linkLeave
  repeat' first
    | extract_lets
    | with_reducible refine Keeps.ite ?_ ?_
    | with_reducible exact h0
    | with_reducible exact Keeps.refl _
    | with_reducible apply setLink_keeps (hm.sub (by decide))
    | with_reducible apply leftUp_keeps (hm.sub (by decide))
    | with_reducible apply forgetPeer_keeps (hm.sub (by decide))
    | with_reducible apply linkMove_keeps (hm.sub (by decide))

theorem train_keeps {fs : Nat} (hm : Within (Field.routed ||| Field.links ||| Field.fabric) fs) {a0 : Chip} (n : Nat) (c : Chip) (h0 : Keeps fs a0 c) : Keeps fs a0 (Chip.train n c) := by
  unfold Chip.train
  repeat' first
    | (clear_value *; apply Touches.mk <;> intro hn <;> first | with_reducible rfl | exact hm.out hn rfl)
    | extract_lets
    | with_reducible refine Keeps.ite ?_ ?_
    | with_reducible exact h0
    | with_reducible exact Keeps.refl _
    | with_reducible apply setLink_keeps (hm.sub (by decide))
    | with_reducible apply forgetPeer_keeps (hm.sub (by decide))
    | with_reducible apply linkMove_keeps (hm.sub (by decide))

theorem trainIfSignal_keeps {fs : Nat} (hm : Within (Field.routed ||| Field.links ||| Field.fabric) fs) {a0 : Chip} (n : Nat) (c : Chip) (h0 : Keeps fs a0 c) : Keeps fs a0 (Chip.trainIfSignal n c) := by
  unfold Chip.trainIfSignal
  repeat' first
    | extract_lets
    | with_reducible refine Keeps.ite ?_ ?_
    | with_reducible exact h0
    | with_reducible exact Keeps.refl _
    | with_reducible apply train_keeps (hm.sub (by decide))

theorem signalDetected_keeps {fs : Nat} (hm : Within (Field.routed ||| Field.links ||| Field.fabric) fs) {a0 : Chip} (n : Nat) (c : Chip) (h0 : Keeps fs a0 c) : Keeps fs a0 (Chip.signalDetected n c) := by
  unfold Chip.signalDetected
  repeat' first
    | (clear_value *; apply Touches.mk <;> intro hn <;> first | with_reducible rfl | exact hm.out hn rfl)
    | extract_lets
    | with_reducible refine Keeps.ite ?_ ?_
    | with_reducible exact h0
    | with_reducible exact Keeps.refl _
    | with_reducible apply train_keeps (hm.sub (by decide))
    | with_reducible apply setLink_keeps (hm.sub (by decide))

theorem phyUp_keeps {fs : Nat} (hm : Within (Field.routed ||| Field.links ||| Field.fabric) fs) {a0 : Chip} (n : Nat) (level : Nat) (c : Chip) (h0 : Keeps fs a0 c) : Keeps fs a0 (Chip.phyUp n level c) := by
  unfold Chip.phyUp
  repeat' first
    | (clear_value *; apply Touches.mk <;> intro hn <;> first | with_reducible rfl | exact hm.out hn rfl)
    | extract_lets
    | with_reducible refine Keeps.ite ?_ ?_
    | with_reducible exact h0
    | with_reducible exact Keeps.refl _
    | with_reducible apply sendVersion_keeps (hm.sub (by decide))
    | with_reducible apply setLink_keeps (hm.sub (by decide))
    | with_reducible apply linkMove_keeps (hm.sub (by decide))

theorem trainingTimeout_keeps {fs : Nat} (hm : Within (Field.routed ||| Field.clk ||| Field.rtc ||| Field.links ||| Field.fabric) fs) {a0 : Chip} (n : Nat) (c : Chip) (h0 : Keeps fs a0 c) : Keeps fs a0 (Chip.trainingTimeout n c) := by
  unfold Chip.trainingTimeout
  repeat' first
    | (clear_value *; apply Touches.mk <;> intro hn <;> first | with_reducible rfl | exact hm.out hn rfl)
    | extract_lets
    | with_reducible refine Keeps.ite ?_ ?_
    | with_reducible exact h0
    | with_reducible exact Keeps.refl _
    | with_reducible apply train_keeps (hm.sub (by decide))
    | with_reducible apply waitUntil_keeps (hm.sub (by decide))
    | with_reducible refine OptKeeps.of_eq ?_ (by assumption)
    | split

theorem isolate_keeps {fs : Nat} (hm : Within (Field.routed ||| Field.links ||| Field.fabric) fs) {a0 : Chip} (n : Nat) (iso : Nat) (c : Chip) (h0 : Keeps fs a0 c) : Keeps fs a0 (Chip.isolate n iso c) := by
  unfold Chip.isolate
  repeat' first
    | (clear_value *; apply Touches.mk <;> intro hn <;> first | with_reducible rfl | exact hm.out hn rfl)
    | extract_lets
    | with_reducible refine Keeps.ite ?_ ?_
    | with_reducible exact h0
    | with_reducible exact Keeps.refl _
    | with_reducible apply leftUp_keeps (hm.sub (by decide))
    | with_reducible apply linkMove_keeps (hm.sub (by decide))
    | with_reducible apply setLink_keeps (hm.sub (by decide))

theorem versionRow_keeps {fs : Nat} (hm : Within (Field.routed ||| Field.links ||| Field.fabric) fs) {a0 : Chip} (n : Nat) (minV : Nat) (maxV : Nat) (c : Chip) (h0 : Keeps fs a0 c) : Keeps fs a0 (Chip.versionRow n minV maxV c) := by
  unfold Chip.versionRow
  repeat' first
    | (clear_value *; apply Touches.mk <;> intro hn <;> first | with_reducible rfl | exact hm.out hn rfl)
    | extract_lets
    | with_reducible refine Keeps.ite ?_ ?_
    | with_reducible exact h0
    | with_reducible exact Keeps.refl _
    | with_reducible apply sendMsg_keeps (hm.sub (by decide))
    | with_reducible apply setLink_keeps (hm.sub (by decide))
    | with_reducible apply linkMove_keeps (hm.sub (by decide))
    | with_reducible apply sendVersion_keeps (hm.sub (by decide))
    | with_reducible apply rxCount_keeps (hm.sub (by decide))
    | with_reducible apply isolate_keeps (hm.sub (by decide))

theorem notePeer_keeps {fs : Nat} (hm : Within (Field.links ||| Field.fabric) fs) {a0 : Chip} (n : Nat) (b : IdentBody) (c : Chip) (h0 : Keeps fs a0 c) : Keeps fs a0 (Chip.notePeer n b c) := by
  unfold Chip.notePeer
  repeat' first
    | (clear_value *; apply Touches.mk <;> intro hn <;> first | with_reducible rfl | exact hm.out hn rfl)
    | extract_lets
    | with_reducible exact h0
    | with_reducible exact Keeps.refl _
    | with_reducible apply setFabric_keeps (hm.sub (by decide))
    | with_reducible apply setLink_keeps (hm.sub (by decide))

theorem linkComesUp_keeps {fs : Nat} (hm : Within (Field.routed ||| Field.links ||| Field.fabric) fs) {a0 : Chip} (n : Nat) (c : Chip) (h0 : Keeps fs a0 c) : Keeps fs a0 (Chip.linkComesUp n c) := by
  unfold Chip.linkComesUp
  repeat' first
    | (clear_value *; apply Touches.mk <;> intro hn <;> first | with_reducible rfl | exact hm.out hn rfl)
    | extract_lets
    | with_reducible refine foldl_keeps (fun _ _ => ?_) ?_
    | with_reducible exact h0
    | with_reducible exact Keeps.refl _
    | with_reducible apply linksChanged_keeps (hm.sub (by decide))
    | with_reducible apply sendLsa_keeps (hm.sub (by decide))
    | with_reducible apply fire_keeps (hm.sub (by decide))
    | with_reducible apply setLink_keeps (hm.sub (by decide))
    | with_reducible apply linkMove_keeps (hm.sub (by decide))

theorem identRow_keeps {fs : Nat} (hm : Within (Field.routed ||| Field.links ||| Field.fabric) fs) {a0 : Chip} (n : Nat) (b : IdentBody) (c : Chip) (h0 : Keeps fs a0 c) : Keeps fs a0 (Chip.identRow n b c) := by
  unfold Chip.identRow
  repeat' first
    | (clear_value *; apply Touches.mk <;> intro hn <;> first | with_reducible rfl | exact hm.out hn rfl)
    | extract_lets
    | with_reducible refine Keeps.ite ?_ ?_
    | with_reducible exact h0
    | with_reducible exact Keeps.refl _
    | with_reducible apply train_keeps (hm.sub (by decide))
    | with_reducible apply linkLeave_keeps (hm.sub (by decide))
    | with_reducible apply linkComesUp_keeps (hm.sub (by decide))
    | with_reducible apply isolate_keeps (hm.sub (by decide))
    | with_reducible apply sendMsg_keeps (hm.sub (by decide))
    | with_reducible apply notePeer_keeps (hm.sub (by decide))
    | with_reducible apply rxCount_keeps (hm.sub (by decide))
    | with_reducible refine OptKeeps.of_eq ?_ (by assumption)
    | split

theorem resendLink_keeps {fs : Nat} (hm : Within (Field.clk ||| Field.rtc ||| Field.links) fs) {a0 : Chip} (n : Nat) (c : Chip) (h0 : Keeps fs a0 c) : Keeps fs a0 (Chip.resendLink n c) := by
  unfold Chip.resendLink
  repeat' first
    | (clear_value *; apply Touches.mk <;> intro hn <;> first | with_reducible rfl | exact hm.out hn rfl)
    | extract_lets
    | with_reducible refine Keeps.ite ?_ ?_
    | with_reducible exact h0
    | with_reducible exact Keeps.refl _
    | with_reducible apply sendVersion_keeps (hm.sub (by decide))
    | with_reducible apply sendMsg_keeps (hm.sub (by decide))
    | with_reducible apply setLink_keeps (hm.sub (by decide))
    | with_reducible apply waitUntil_keeps (hm.sub (by decide))
    | with_reducible refine OptKeeps.of_eq ?_ (by assumption)
    | split

theorem renegotiate_keeps {fs : Nat} (hm : Within (Field.links) fs) {a0 : Chip} (n : Nat) (c : Chip) (h0 : Keeps fs a0 c) : Keeps fs a0 (Chip.renegotiate n c) := by
  unfold Chip.renegotiate
  repeat' first
    | (clear_value *; apply Touches.mk <;> intro hn <;> first | with_reducible rfl | exact hm.out hn rfl)
    | extract_lets
    | with_reducible refine Keeps.ite ?_ ?_
    | with_reducible exact h0
    | with_reducible exact Keeps.refl _
    | with_reducible apply sendVersion_keeps (hm.sub (by decide))
    | with_reducible apply setLink_keeps (hm.sub (by decide))

theorem isolatedRow_keeps {fs : Nat} (hm : Within (Field.clk ||| Field.rtc ||| Field.links) fs) {a0 : Chip} (n : Nat) (c : Chip) (h0 : Keeps fs a0 c) : Keeps fs a0 (Chip.isolatedRow n c) := by
  unfold Chip.isolatedRow
  repeat' first
    | (clear_value *; apply Touches.mk <;> intro hn <;> first | with_reducible rfl | exact hm.out hn rfl)
    | extract_lets
    | with_reducible refine Keeps.ite ?_ ?_
    | with_reducible exact h0
    | with_reducible exact Keeps.refl _
    | with_reducible apply renegotiate_keeps (hm.sub (by decide))
    | with_reducible apply waitUntil_keeps (hm.sub (by decide))
    | with_reducible refine OptKeeps.of_eq ?_ (by assumption)
    | split

theorem helloRow_keeps {fs : Nat} (hm : Within (Field.links) fs) {a0 : Chip} (n : Nat) (c : Chip) (h0 : Keeps fs a0 c) : Keeps fs a0 (Chip.helloRow n c) := by
  unfold Chip.helloRow
  repeat' first
    | (clear_value *; apply Touches.mk <;> intro hn <;> first | with_reducible rfl | exact hm.out hn rfl)
    | extract_lets
    | with_reducible refine Keeps.ite ?_ ?_
    | with_reducible exact h0
    | with_reducible exact Keeps.refl _
    | with_reducible apply setLink_keeps (hm.sub (by decide))
    | with_reducible apply rxCount_keeps (hm.sub (by decide))

theorem helloSendRow_keeps {fs : Nat} (hm : Within (Field.clk ||| Field.rtc ||| Field.links) fs) {a0 : Chip} (n : Nat) (c : Chip) (h0 : Keeps fs a0 c) : Keeps fs a0 (Chip.helloSendRow n c) := by
  unfold Chip.helloSendRow
  repeat' first
    | (clear_value *; apply Touches.mk <;> intro hn <;> first | with_reducible rfl | exact hm.out hn rfl)
    | extract_lets
    | with_reducible refine Keeps.ite ?_ ?_
    | with_reducible exact h0
    | with_reducible exact Keeps.refl _
    | with_reducible apply sendMsg_keeps (hm.sub (by decide))
    | with_reducible apply setLink_keeps (hm.sub (by decide))
    | with_reducible apply waitUntil_keeps (hm.sub (by decide))

theorem helloTimeoutRow_keeps {fs : Nat} (hm : Within (Field.routed ||| Field.clk ||| Field.rtc ||| Field.links ||| Field.fabric) fs) {a0 : Chip} (n : Nat) (c : Chip) (h0 : Keeps fs a0 c) : Keeps fs a0 (Chip.helloTimeoutRow n c) := by
  unfold Chip.helloTimeoutRow
  repeat' first
    | extract_lets
    | with_reducible refine Keeps.ite ?_ ?_
    | with_reducible exact h0
    | with_reducible exact Keeps.refl _
    | with_reducible apply linkLeave_keeps (hm.sub (by decide))
    | with_reducible apply waitUntil_keeps (hm.sub (by decide))

theorem phyLoss_keeps {fs : Nat} (hm : Within (Field.routed ||| Field.links ||| Field.fabric) fs) {a0 : Chip} (n : Nat) (c : Chip) (h0 : Keeps fs a0 c) : Keeps fs a0 (Chip.phyLoss n c) := by
  unfold Chip.phyLoss
  repeat' first
    | (clear_value *; apply Touches.mk <;> intro hn <;> first | with_reducible rfl | exact hm.out hn rfl)
    | extract_lets
    | with_reducible refine Keeps.ite ?_ ?_
    | with_reducible exact h0
    | with_reducible exact Keeps.refl _
    | with_reducible apply linkLeave_keeps (hm.sub (by decide))
    | with_reducible apply setLink_keeps (hm.sub (by decide))

theorem linkCommitted_keeps {fs : Nat} (hm : Within (Field.routed ||| Field.links ||| Field.fabric) fs) {a0 : Chip} (n : Nat) (old : Nat) (oldPeer : Nat) (c : Chip) (h0 : Keeps fs a0 c) : Keeps fs a0 (Chip.linkCommitted n old oldPeer c) := by
  unfold Chip.linkCommitted
  repeat' first
    | (clear_value *; apply Touches.mk <;> intro hn <;> first | with_reducible rfl | exact hm.out hn rfl)
    | extract_lets
    | with_reducible refine Keeps.ite ?_ ?_
    | with_reducible exact h0
    | with_reducible exact Keeps.refl _
    | with_reducible apply linksChanged_keeps (hm.sub (by decide))
    | with_reducible apply sendMsg_keeps (hm.sub (by decide))
    | with_reducible apply leftUp_keeps (hm.sub (by decide))
    | with_reducible apply setLink_keeps (hm.sub (by decide))
    | with_reducible apply renegotiate_keeps (hm.sub (by decide))
    | with_reducible apply train_keeps (hm.sub (by decide))
    | with_reducible apply trainIfSignal_keeps (hm.sub (by decide))
    | with_reducible apply linkMove_keeps (hm.sub (by decide))
    | with_reducible apply linkLeave_keeps (hm.sub (by decide))

theorem linksDown_keeps {fs : Nat} (hm : Within (Field.routed ||| Field.links ||| Field.fabric) fs) {a0 : Chip} (c : Chip) (h0 : Keeps fs a0 c) : Keeps fs a0 (Chip.linksDown c) := by
  unfold Chip.linksDown
  repeat' first
    | extract_lets
    | with_reducible refine foldl_keeps (fun _ _ => ?_) ?_
    | with_reducible refine Keeps.ite ?_ ?_
    | with_reducible exact h0
    | with_reducible exact Keeps.refl _
    | with_reducible apply linkLeave_keeps (hm.sub (by decide))

theorem startFabric_keeps {fs : Nat} (hm : Within (Field.routed ||| Field.links ||| Field.fabric) fs) {a0 : Chip} (c : Chip) (h0 : Keeps fs a0 c) : Keeps fs a0 (Chip.startFabric c) := by
  unfold Chip.startFabric
  repeat' first
    | (clear_value *; apply Touches.mk <;> intro hn <;> first | with_reducible rfl | exact hm.out hn rfl)
    | extract_lets
    | with_reducible exact h0
    | with_reducible exact Keeps.refl _
    | with_reducible apply converge_keeps (hm.sub (by decide))
    | with_reducible apply setFabric_keeps (hm.sub (by decide))

theorem rxPass_keeps {fs : Nat} (hm : Within (Field.routed ||| Field.links) fs) {a0 : Chip} (n : Nat) (cls : Nat) (body : List Byte) (c : Chip) (h0 : Keeps fs a0 c) : Keeps fs a0 (Chip.rxPass n cls body c).2 := by
  unfold Chip.rxPass
  repeat' first
    | (clear_value *; apply Touches.mk <;> intro hn <;> first | with_reducible rfl | exact hm.out hn rfl)
    | extract_lets
    | with_reducible refine Keeps.ite ?_ ?_
    | with_reducible refine Keeps.ite ?_ ?_
    | with_reducible exact h0
    | with_reducible exact Keeps.refl _
    | with_reducible apply fireLinkError_keeps (hm.sub (by decide))
    | with_reducible apply noteError_keeps (hm.sub (by decide))
    | with_reducible apply discard_keeps (hm.sub (by decide))
    | with_reducible apply arrive_keeps (hm.sub (by decide))
    | with_reducible apply setQueue_keeps (hm.sub (by decide))
    | with_reducible apply deliver_keeps (hm.sub (by decide))
    | split

theorem onFrame_keeps {fs : Nat} (hm : Within (Field.routed ||| Field.links) fs) {a0 : Chip} (n : Nat) (cls : Nat) (body : List Byte) (f : Chip → Chip) (c : Chip) (hf : ∀ x, Keeps fs x (f x)) (h0 : Keeps fs a0 c) : Keeps fs a0 (Chip.onFrame n cls body f c) := by
  unfold Chip.onFrame
  repeat' first
    | extract_lets
    | with_reducible refine Keeps.ite ?_ ?_
    | with_reducible exact h0
    | with_reducible exact Keeps.refl _
    | (with_reducible refine Keeps.trans ?_ (hf _))
    | with_reducible apply rxPass_keeps (hm.sub (by decide))
    | with_reducible apply rxCount_keeps (hm.sub (by decide))

theorem takeLsa_keeps {fs : Nat} (hm : Within (Field.routed ||| Field.links ||| Field.fabric) fs) {a0 : Chip} (n : Nat) (b : LsaBody) (c : Chip) (h0 : Keeps fs a0 c) : Keeps fs a0 (Chip.takeLsa n b c) := by
  unfold Chip.takeLsa
  repeat' first
    | (clear_value *; apply Touches.mk <;> intro hn <;> first | with_reducible rfl | exact hm.out hn rfl)
    | extract_lets
    | with_reducible refine foldl_keeps (fun _ _ => ?_) ?_
    | with_reducible refine Keeps.ite ?_ ?_
    | with_reducible exact h0
    | with_reducible exact Keeps.refl _
    | with_reducible apply converge_keeps (hm.sub (by decide))
    | with_reducible apply sendLsa_keeps (hm.sub (by decide))
    | with_reducible apply logFault_keeps (hm.sub (by decide))
    | with_reducible apply floodOwn_keeps (hm.sub (by decide))
    | with_reducible apply setFabric_keeps (hm.sub (by decide))

theorem lsaRow_keeps {fs : Nat} (hm : Within (Field.routed ||| Field.links ||| Field.fabric) fs) {a0 : Chip} (n : Nat) (ack : Bool) (b : LsaBody) (c : Chip) (h0 : Keeps fs a0 c) : Keeps fs a0 (Chip.lsaRow n ack b c) := by
  unfold Chip.lsaRow
  repeat' first
    | (clear_value *; apply Touches.mk <;> intro hn <;> first | with_reducible rfl | exact hm.out hn rfl)
    | extract_lets
    | with_reducible refine Keeps.ite ?_ ?_
    | with_reducible exact h0
    | with_reducible exact Keeps.refl _
    | with_reducible apply takeLsa_keeps (hm.sub (by decide))
    | with_reducible apply sendMsg_keeps (hm.sub (by decide))
    | with_reducible apply setFabric_keeps (hm.sub (by decide))
    | with_reducible apply onFrame_keeps (hm.sub (by decide))
    | with_reducible refine Keeps.update ?_ ?_
    | (with_reducible intro _)

theorem lsaRefreshRow_keeps {fs : Nat} (hm : Within (Field.clk ||| Field.rtc ||| Field.links ||| Field.fabric) fs) {a0 : Chip} (c : Chip) (h0 : Keeps fs a0 c) : Keeps fs a0 (Chip.lsaRefreshRow c) := by
  unfold Chip.lsaRefreshRow
  repeat' first
    | extract_lets
    | with_reducible refine Keeps.ite ?_ ?_
    | with_reducible exact h0
    | with_reducible exact Keeps.refl _
    | with_reducible apply floodOwn_keeps (hm.sub (by decide))
    | with_reducible apply waitUntil_keeps (hm.sub (by decide))

theorem lsaResendRow_keeps {fs : Nat} (hm : Within (Field.clk ||| Field.rtc ||| Field.links ||| Field.fabric) fs) {a0 : Chip} (n : Nat) (uid : Nat) (c : Chip) (h0 : Keeps fs a0 c) : Keeps fs a0 (Chip.lsaResendRow n uid c) := by
  unfold Chip.lsaResendRow
  repeat' first
    | (clear_value *; apply Touches.mk <;> intro hn <;> first | with_reducible rfl | exact hm.out hn rfl)
    | extract_lets
    | with_reducible refine Keeps.ite ?_ ?_
    | with_reducible exact h0
    | with_reducible exact Keeps.refl _
    | with_reducible apply setFabric_keeps (hm.sub (by decide))
    | with_reducible apply sendLsa_keeps (hm.sub (by decide))
    | with_reducible apply waitUntil_keeps (hm.sub (by decide))
    | with_reducible refine OptKeeps.of_eq ?_ (by assumption)
    | split

theorem lsaAgeoutRow_keeps {fs : Nat} (hm : Within (Field.routed ||| Field.clk ||| Field.rtc ||| Field.links ||| Field.fabric) fs) {a0 : Chip} (uid : Nat) (c : Chip) (h0 : Keeps fs a0 c) : Keeps fs a0 (Chip.lsaAgeoutRow uid c) := by
  unfold Chip.lsaAgeoutRow
  repeat' first
    | (clear_value *; apply Touches.mk <;> intro hn <;> first | with_reducible rfl | exact hm.out hn rfl)
    | extract_lets
    | with_reducible refine Keeps.ite ?_ ?_
    | with_reducible exact h0
    | with_reducible exact Keeps.refl _
    | with_reducible apply converge_keeps (hm.sub (by decide))
    | with_reducible apply setFabric_keeps (hm.sub (by decide))
    | with_reducible apply waitUntil_keeps (hm.sub (by decide))
    | with_reducible refine OptKeeps.of_eq ?_ (by assumption)
    | split

theorem addrReqRow_keeps {fs : Nat} (hm : Within (Field.routed ||| Field.links ||| Field.fabric) fs) {a0 : Chip} (n : Nat) (uid : Nat) (requested : Option Nat) (persisted : Option Nat) (c : Chip) (h0 : Keeps fs a0 c) : Keeps fs a0 (Chip.addrReqRow n uid requested persisted c) := by
  unfold Chip.addrReqRow
  repeat' first
    | (clear_value *; apply Touches.mk <;> intro hn <;> first | with_reducible rfl | exact hm.out hn rfl)
    | extract_lets
    | with_reducible refine Keeps.ite ?_ ?_
    | with_reducible exact h0
    | with_reducible exact Keeps.refl _
    | with_reducible apply flood_keeps (hm.sub (by decide))
    | with_reducible apply grantTo_keeps (hm.sub (by decide))
    | with_reducible apply setFabric_keeps (hm.sub (by decide))
    | with_reducible apply onFrame_keeps (hm.sub (by decide))
    | with_reducible refine Keeps.update ?_ ?_
    | (with_reducible intro _)

theorem addrGrantRow_keeps {fs : Nat} (hm : Within (Field.routed ||| Field.links ||| Field.fabric) fs) {a0 : Chip} (n : Nat) (uid : Nat) (a : Nat) (c : Chip) (h0 : Keeps fs a0 c) : Keeps fs a0 (Chip.addrGrantRow n uid a c) := by
  unfold Chip.addrGrantRow
  repeat' first
    | extract_lets
    | with_reducible refine Keeps.ite ?_ ?_
    | with_reducible exact h0
    | with_reducible exact Keeps.refl _
    | with_reducible apply flood_keeps (hm.sub (by decide))
    | with_reducible apply converge_keeps (hm.sub (by decide))
    | with_reducible apply takeAddr_keeps (hm.sub (by decide))
    | with_reducible apply onFrame_keeps (hm.sub (by decide))
    | (with_reducible intro _)

theorem persistRow_keeps {fs : Nat} (hm : Within (Field.fabric) fs) {a0 : Chip} (c : Chip) (h0 : Keeps fs a0 c) : Keeps fs a0 (Chip.persistRow c) := by
  unfold Chip.persistRow
  repeat' first
    | (clear_value *; apply Touches.mk <;> intro hn <;> first | with_reducible rfl | exact hm.out hn rfl)
    | extract_lets
    | with_reducible refine Keeps.ite ?_ ?_
    | with_reducible exact h0
    | with_reducible exact Keeps.refl _
    | with_reducible apply setFabric_keeps (hm.sub (by decide))

theorem corruptRow_keeps {fs : Nat} (hm : Within (Field.routed ||| Field.links) fs) {a0 : Chip} (n : Nat) (k : CorruptKind) (c : Chip) (h0 : Keeps fs a0 c) : Keeps fs a0 (Chip.corruptRow n k c) := by
  unfold Chip.corruptRow
  repeat' first
    | (clear_value *; apply Touches.mk <;> intro hn <;> first | with_reducible rfl | exact hm.out hn rfl)
    | extract_lets
    | with_reducible refine Keeps.ite ?_ ?_
    | with_reducible exact h0
    | with_reducible exact Keeps.refl _
    | with_reducible apply crcError_keeps (hm.sub (by decide))
    | with_reducible apply setLink_keeps (hm.sub (by decide))
    | with_reducible apply discard_keeps (hm.sub (by decide))
    | with_reducible refine OptKeeps.of_eq ?_ (by assumption)
    | split

theorem fcsError_keeps {fs : Nat} (hm : Within (Field.routed ||| Field.links) fs) {a0 : Chip} (n : Nat) (c : Chip) (h0 : Keeps fs a0 c) : Keeps fs a0 (Chip.fcsError n c) := by
  unfold Chip.fcsError
  repeat' first
    | (clear_value *; apply Touches.mk <;> intro hn <;> first | with_reducible rfl | exact hm.out hn rfl)
    | extract_lets
    | with_reducible exact h0
    | with_reducible exact Keeps.refl _
    | with_reducible apply crcError_keeps (hm.sub (by decide))
    | with_reducible apply setLink_keeps (hm.sub (by decide))

theorem checkFcs_keeps {fs : Nat} (hm : Within (Field.routed ||| Field.links) fs) {a0 : Chip} (n : Nat) (fcsOk : Bool) (c : Chip) (h0 : Keeps fs a0 c) : Keeps fs a0 (Chip.checkFcs n fcsOk c) := by
  unfold Chip.checkFcs
  repeat' first
    | extract_lets
    | with_reducible refine Keeps.ite ?_ ?_
    | with_reducible exact h0
    | with_reducible exact Keeps.refl _
    | with_reducible apply fcsError_keeps (hm.sub (by decide))

theorem forwardTo_keeps {fs : Nat} (hm : Within (Field.routed ||| Field.links) fs) {a0 : Chip} (n : Nat) (f : List Byte) (fcsOk : Bool) (hop : Option Nat) (c : Chip) (h0 : Keeps fs a0 c) : Keeps fs a0 (Chip.forwardTo n f fcsOk hop c) := by
  unfold Chip.forwardTo
  repeat' first
    | (clear_value *; apply Touches.mk <;> intro hn <;> first | with_reducible rfl | exact hm.out hn rfl)
    | extract_lets
    | with_reducible refine Keeps.ite ?_ ?_
    | with_reducible exact h0
    | with_reducible exact Keeps.refl _
    | with_reducible apply egress_keeps (hm.sub (by decide))
    | with_reducible apply discard_keeps (hm.sub (by decide))
    | with_reducible refine OptKeeps.of_eq ?_ (by assumption)
    | split

theorem forwardRow_keeps {fs : Nat} (hm : Within (Field.routed ||| Field.links) fs) {a0 : Chip} (n : Nat) (f : List Byte) (fcsOk : Bool) (c : Chip) (h0 : Keeps fs a0 c) : Keeps fs a0 (Chip.forwardRow n f fcsOk c) := by
  unfold Chip.forwardRow
  repeat' first
    | extract_lets
    | with_reducible refine Keeps.ite ?_ ?_
    | with_reducible exact h0
    | with_reducible exact Keeps.refl _
    | with_reducible apply checkFcs_keeps (hm.sub (by decide))
    | with_reducible apply forwardTo_keeps (hm.sub (by decide))
    | with_reducible apply rxCount_keeps (hm.sub (by decide))
    | with_reducible apply corruptRow_keeps (hm.sub (by decide))

theorem stepFabric_keeps {fs : Nat} (hm : Within (Field.clk) fs) {a0 : Chip} (ns : Int) (c : Chip) (h0 : Keeps fs a0 c) : Keeps fs a0 (Chip.stepFabric ns c) := by
  unfold Chip.stepFabric
  repeat' first
    | (clear_value *; apply Touches.mk <;> intro hn <;> first | with_reducible rfl | exact hm.out hn rfl)
    | extract_lets
    | with_reducible exact h0
    | with_reducible exact Keeps.refl _
    | with_reducible refine Keeps.update ?_ ?_
    | with_reducible refine Keeps.change ?_ ?_ ?_ ?_ ?_ ?_
    | exact Nat.le_refl _
    | exact id

theorem setRate_keeps {fs : Nat} (hm : Within (Field.clk) fs) {a0 : Chip} (ppb : Int) (c : Chip) (h0 : Keeps fs a0 c) : Keeps fs a0 (Chip.setRate ppb c) := by
  unfold Chip.setRate
  repeat' first
    | (clear_value *; apply Touches.mk <;> intro hn <;> first | with_reducible rfl | exact hm.out hn rfl)
    | extract_lets
    | with_reducible exact h0
    | with_reducible exact Keeps.refl _
    | with_reducible refine Keeps.update ?_ ?_
    | with_reducible refine Keeps.change ?_ ?_ ?_ ?_ ?_ ?_
    | exact Nat.le_refl _
    | exact id

theorem steerRow_keeps {fs : Nat} (hm : Within (Field.clk ||| Field.rtc ||| Field.fabric) fs) {a0 : Chip} (c : Chip) (h0 : Keeps fs a0 c) : Keeps fs a0 (Chip.steerRow c) := by
  unfold Chip.steerRow
  repeat' first
    | (clear_value *; apply Touches.mk <;> intro hn <;> first | with_reducible rfl | exact hm.out hn rfl)
    | extract_lets
    | with_reducible refine Keeps.ite ?_ ?_
    | with_reducible exact h0
    | with_reducible exact Keeps.refl _
    | with_reducible apply setFabric_keeps (hm.sub (by decide))
    | with_reducible apply stepFabric_keeps (hm.sub (by decide))
    | with_reducible apply setRate_keeps (hm.sub (by decide))
    | with_reducible apply waitTotal_keeps (hm.sub (by decide))

theorem timeSendRow_keeps {fs : Nat} (hm : Within (Field.clk ||| Field.dogs ||| Field.rtc ||| Field.links ||| Field.fabric ||| Field.fans) fs) {a0 : Chip} (n : Nat) (c : Chip) (h0 : Keeps fs a0 c) : Keeps fs a0 (Chip.timeSendRow n c) := by
  unfold Chip.timeSendRow
  repeat' first
    | (clear_value *; apply Touches.mk <;> intro hn <;> first | with_reducible rfl | exact hm.out hn rfl)
    | extract_lets
    | with_reducible refine Keeps.ite ?_ ?_
    | with_reducible exact h0
    | with_reducible exact Keeps.refl _
    | with_reducible apply fanBeat_keeps (hm.sub (by decide))
    | with_reducible apply setFabric_keeps (hm.sub (by decide))
    | with_reducible apply sendMsg_keeps (hm.sub (by decide))
    | with_reducible apply setLink_keeps (hm.sub (by decide))
    | with_reducible apply waitUntil_keeps (hm.sub (by decide))

theorem followTime_keeps {fs : Nat} (hm : Within (Field.clk ||| Field.fabric) fs) {a0 : Chip} (n : Nat) (b : TimeBody) (c : Chip) (h0 : Keeps fs a0 c) : Keeps fs a0 (Chip.followTime n b c) := by
  unfold Chip.followTime
  repeat' first
    | (clear_value *; apply Touches.mk <;> intro hn <;> first | with_reducible rfl | exact hm.out hn rfl)
    | extract_lets
    | with_reducible refine Keeps.ite ?_ ?_
    | with_reducible exact h0
    | with_reducible exact Keeps.refl _
    | with_reducible apply setFabric_keeps (hm.sub (by decide))
    | with_reducible apply setRate_keeps (hm.sub (by decide))
    | with_reducible apply stepFabric_keeps (hm.sub (by decide))

theorem countFan_keeps {fs : Nat} (hm : Within (Field.dogs ||| Field.fabric ||| Field.fans) fs) {a0 : Chip} (b : TimeBody) (c : Chip) (h0 : Keeps fs a0 c) : Keeps fs a0 (Chip.countFan b c) := by
  unfold Chip.countFan
  repeat' first
    | (clear_value *; apply Touches.mk <;> intro hn <;> first | with_reducible rfl | exact hm.out hn rfl)
    | extract_lets
    | with_reducible refine Keeps.ite ?_ ?_
    | with_reducible exact h0
    | with_reducible exact Keeps.refl _
    | with_reducible apply fanBeat_keeps (hm.sub (by decide))
    | with_reducible apply setFabric_keeps (hm.sub (by decide))

theorem timeRow_keeps {fs : Nat} (hm : Within (Field.clk ||| Field.dogs ||| Field.links ||| Field.fabric ||| Field.fans) fs) {a0 : Chip} (n : Nat) (b : TimeBody) (c : Chip) (h0 : Keeps fs a0 c) : Keeps fs a0 (Chip.timeRow n b c) := by
  unfold Chip.timeRow
  repeat' first
    | (clear_value *; apply Touches.mk <;> intro hn <;> first | with_reducible rfl | exact hm.out hn rfl)
    | extract_lets
    | with_reducible refine Keeps.ite ?_ ?_
    | with_reducible exact h0
    | with_reducible exact Keeps.refl _
    | with_reducible apply countFan_keeps (hm.sub (by decide))
    | with_reducible apply followTime_keeps (hm.sub (by decide))
    | with_reducible apply setFabric_keeps (hm.sub (by decide))
    | with_reducible apply setLink_keeps (hm.sub (by decide))
    | with_reducible apply rxCount_keeps (hm.sub (by decide))

theorem pdelayRow_keeps {fs : Nat} (hm : Within (Field.links) fs) {a0 : Chip} (n : Nat) (ns : Nat) (c : Chip) (h0 : Keeps fs a0 c) : Keeps fs a0 (Chip.pdelayRow n ns c) := by
  unfold Chip.pdelayRow
  repeat' first
    | (clear_value *; apply Touches.mk <;> intro hn <;> first | with_reducible rfl | exact hm.out hn rfl)
    | extract_lets
    | with_reducible refine Keeps.ite ?_ ?_
    | with_reducible exact h0
    | with_reducible exact Keeps.refl _
    | with_reducible apply setLink_keeps (hm.sub (by decide))
    | with_reducible apply sendMsg_keeps (hm.sub (by decide))
    | with_reducible apply rxCount_keeps (hm.sub (by decide))

theorem upstreamRow_keeps {fs : Nat} (hm : Within (Field.clk ||| Field.rtc ||| Field.fabric) fs) {a0 : Chip} (c : Chip) (h0 : Keeps fs a0 c) : Keeps fs a0 (Chip.upstreamRow c) := by
  unfold Chip.upstreamRow
  repeat' first
    | (clear_value *; apply Touches.mk <;> intro hn <;> first | with_reducible rfl | exact hm.out hn rfl)
    | extract_lets
    | with_reducible refine Keeps.ite ?_ ?_
    | with_reducible exact h0
    | with_reducible exact Keeps.refl _
    | with_reducible apply setFabric_keeps (hm.sub (by decide))
    | with_reducible apply waitUntil_keeps (hm.sub (by decide))
    | with_reducible refine OptKeeps.of_eq ?_ (by assumption)
    | split

theorem followerRow_keeps {fs : Nat} (hm : Within (Field.routed ||| Field.clk ||| Field.rtc ||| Field.almanac ||| Field.fabric) fs) {a0 : Chip} (c : Chip) (h0 : Keeps fs a0 c) : Keeps fs a0 (Chip.followerRow c) := by
  unfold Chip.followerRow
  repeat' first
    | (clear_value *; apply Touches.mk <;> intro hn <;> first | with_reducible rfl | exact hm.out hn rfl)
    | extract_lets
    | with_reducible refine Keeps.ite ?_ ?_
    | with_reducible exact h0
    | with_reducible exact Keeps.refl _
    | with_reducible apply setFabric_keeps (hm.sub (by decide))
    | with_reducible apply commitTime_keeps (hm.sub (by decide))
    | with_reducible apply waitUntil_keeps (hm.sub (by decide))

theorem sendCtrl_keeps {fs : Nat} (hm : Within (Field.links) fs) {a0 : Chip} (node : Nat) (m : LinkMsg) (c : Chip) (h0 : Keeps fs a0 c) : Keeps fs a0 (Chip.sendCtrl node m c) := by
  unfold Chip.sendCtrl
  repeat' first
    | (clear_value *; apply Touches.mk <;> intro hn <;> first | with_reducible rfl | exact hm.out hn rfl)
    | extract_lets
    | with_reducible exact h0
    | with_reducible exact Keeps.refl _
    | with_reducible apply sendMsg_keeps (hm.sub (by decide))
    | with_reducible refine OptKeeps.of_eq ?_ (by assumption)
    | split

theorem subscribeTry_keeps {fs : Nat} (hm : Within (Field.links ||| Field.streams) fs) {a0 : Chip} (i : Nat) (c : Chip) (h0 : Keeps fs a0 c) : Keeps fs a0 (Chip.subscribeTry i c) := by
  unfold Chip.subscribeTry
  repeat' first
    | (clear_value *; apply Touches.mk <;> intro hn <;> first | with_reducible rfl | exact hm.out hn rfl)
    | extract_lets
    | with_reducible refine Keeps.ite ?_ ?_
    | with_reducible exact h0
    | with_reducible exact Keeps.refl _
    | with_reducible apply sendCtrl_keeps (hm.sub (by decide))
    | with_reducible apply setStream_keeps (hm.sub (by decide))

theorem openStream_keeps {fs : Nat} (hm : Within (Field.links ||| Field.streams) fs) {a0 : Chip} (i : Nat) (ctx : Option Nat) (c : Chip) (h0 : Keeps fs a0 c) : Keeps fs a0 (Chip.openStream i ctx c) := by
  unfold Chip.openStream
  repeat' first
    | (clear_value *; apply Touches.mk <;> intro hn <;> first | with_reducible rfl | exact hm.out hn rfl)
    | extract_lets
    | with_reducible refine Keeps.ite ?_ ?_
    | with_reducible exact h0
    | with_reducible exact Keeps.refl _
    | with_reducible apply subscribeTry_keeps (hm.sub (by decide))
    | with_reducible apply setStream_keeps (hm.sub (by decide))

theorem endCloses_keeps {fs : Nat} (hm : Within (Field.routed ||| Field.sessions ||| Field.staged ||| Field.lives ||| Field.cmds ||| Field.firmware ||| Field.image ||| Field.links ||| Field.fabric ||| Field.cal ||| Field.streams ||| Field.can) fs) {a0 : Chip} (ks : List (Nat × Nat)) (c : Chip) (h0 : Keeps fs a0 c) : Keeps fs a0 (Chip.endCloses ks c) := by
  unfold Chip.endCloses
  repeat' first
    | extract_lets
    | with_reducible refine foldl_keeps (fun _ _ => ?_) ?_
    | with_reducible exact h0
    | with_reducible exact Keeps.refl _
    | with_reducible apply finishTag_keeps (hm.sub (by decide))

theorem shutStream_keeps {fs : Nat} (hm : Within (Field.routed ||| Field.sessions ||| Field.staged ||| Field.lives ||| Field.cmds ||| Field.firmware ||| Field.image ||| Field.links ||| Field.fabric ||| Field.cal ||| Field.streams ||| Field.can) fs) {a0 : Chip} (i : Nat) (host : Bool) (src : Nat) (c : Chip) (h0 : Keeps fs a0 c) : Keeps fs a0 (Chip.shutStream i host src c) := by
  unfold Chip.shutStream
  repeat' first
    | (clear_value *; apply Touches.mk <;> intro hn <;> first | with_reducible rfl | exact hm.out hn rfl)
    | extract_lets
    | with_reducible refine Keeps.ite ?_ ?_
    | with_reducible exact h0
    | with_reducible exact Keeps.refl _
    | with_reducible apply endCloses_keeps (hm.sub (by decide))
    | with_reducible apply sendCtrl_keeps (hm.sub (by decide))
    | with_reducible apply setStream_keeps (hm.sub (by decide))

theorem closeStream_keeps {fs : Nat} (hm : Within (Field.routed ||| Field.sessions ||| Field.staged ||| Field.lives ||| Field.cmds ||| Field.firmware ||| Field.image ||| Field.links ||| Field.fabric ||| Field.cal ||| Field.streams ||| Field.can) fs) {a0 : Chip} (i : Nat) (c : Chip) (h0 : Keeps fs a0 c) : Keeps fs a0 (Chip.closeStream i c) := by
  unfold Chip.closeStream
  repeat' first
    | extract_lets
    | with_reducible refine Keeps.ite ?_ ?_
    | with_reducible exact h0
    | with_reducible exact Keeps.refl _
    | with_reducible apply shutStream_keeps (hm.sub (by decide))

theorem bodyStreamOpen_keeps {fs : Nat} (hm : Within (Field.links ||| Field.streams) fs) {a0 : Chip} (k : Cmd) (c : Chip) (h0 : Keeps fs a0 c) : ResKeeps fs a0 (bodyStreamOpen k c) := by
  unfold bodyStreamOpen
  repeat' first
    | extract_lets
    | with_reducible refine ResKeeps.ite ?_ ?_
    | with_reducible refine Keeps.ite ?_ ?_
    | with_reducible exact h0
    | with_reducible exact Keeps.refl _
    | with_reducible apply openStream_keeps (hm.sub (by decide))
    | with_reducible apply ResKeeps.done
    | with_reducible apply ResKeeps.accepted
    | with_reducible apply ResKeeps.acceptedDone
    | with_reducible apply ResKeeps.waiting
    | with_reducible apply ResKeeps.held
    | with_reducible apply ResKeeps.ok
    | with_reducible apply ResKeeps.okWith
    | with_reducible apply ResKeeps.err
    | with_reducible apply ResKeeps.badParam
    | with_reducible apply ResKeeps.badLength

theorem writeHostRecord_keeps {fs : Nat} (hm : Within (Field.routed ||| Field.links ||| Field.fabric ||| Field.streams) fs) {a0 : Chip} (i : Nat) (c : Chip) (h0 : Keeps fs a0 c) : Keeps fs a0 (Chip.writeHostRecord i c) := by
  unfold Chip.writeHostRecord
  repeat' first
    | (clear_value *; apply Touches.mk <;> intro hn <;> first | with_reducible rfl | exact hm.out hn rfl)
    | extract_lets
    | with_reducible refine Keeps.ite ?_ ?_
    | with_reducible exact h0
    | with_reducible exact Keeps.refl _
    | with_reducible apply setQueue_keeps (hm.sub (by decide))
    | with_reducible apply deliver_keeps (hm.sub (by decide))
    | with_reducible apply sendRemote_keeps (hm.sub (by decide))
    | with_reducible apply setStream_keeps (hm.sub (by decide))

theorem hostStreamRow_keeps {fs : Nat} (hm : Within (Field.routed ||| Field.clk ||| Field.sessions ||| Field.staged ||| Field.lives ||| Field.cmds ||| Field.firmware ||| Field.image ||| Field.rtc ||| Field.links ||| Field.fabric ||| Field.cal ||| Field.streams ||| Field.can) fs) {a0 : Chip} (i : Nat) (c : Chip) (h0 : Keeps fs a0 c) : Keeps fs a0 (Chip.hostStreamRow i c) := by
  unfold Chip.hostStreamRow
  repeat' first
    | (clear_value *; apply Touches.mk <;> intro hn <;> first | with_reducible rfl | exact hm.out hn rfl)
    | extract_lets
    | with_reducible refine Keeps.ite ?_ ?_
    | with_reducible exact h0
    | with_reducible exact Keeps.refl _
    | with_reducible apply closeStream_keeps (hm.sub (by decide))
    | with_reducible apply writeHostRecord_keeps (hm.sub (by decide))
    | with_reducible apply waitUntil_keeps (hm.sub (by decide))
    | with_reducible refine OptKeeps.of_eq ?_ (by assumption)
    | split
    | with_reducible refine Keeps.update ?_ ?_

theorem bodyStreamClose_keeps {fs : Nat} (hm : Within (Field.routed ||| Field.sessions ||| Field.staged ||| Field.lives ||| Field.cmds ||| Field.firmware ||| Field.image ||| Field.links ||| Field.fabric ||| Field.cal ||| Field.streams ||| Field.can) fs) {a0 : Chip} (k : Cmd) (c : Chip) (h0 : Keeps fs a0 c) : ResKeeps fs a0 (bodyStreamClose k c) := by
  unfold bodyStreamClose
  repeat' first
    | (clear_value *; apply Touches.mk <;> intro hn <;> first | with_reducible rfl | exact hm.out hn rfl)
    | extract_lets
    | with_reducible refine ResKeeps.ite ?_ ?_
    | with_reducible refine Keeps.ite ?_ ?_
    | with_reducible exact h0
    | with_reducible exact Keeps.refl _
    | with_reducible apply closeStream_keeps (hm.sub (by decide))
    | with_reducible apply setStream_keeps (hm.sub (by decide))
    | with_reducible apply ResKeeps.done
    | with_reducible apply ResKeeps.accepted
    | with_reducible apply ResKeeps.acceptedDone
    | with_reducible apply ResKeeps.waiting
    | with_reducible apply ResKeeps.held
    | with_reducible apply ResKeeps.ok
    | with_reducible apply ResKeeps.okWith
    | with_reducible apply ResKeeps.err
    | with_reducible apply ResKeeps.badParam
    | with_reducible apply ResKeeps.badLength

theorem streamCommitted_keeps {fs : Nat} (hm : Within (Field.routed ||| Field.sessions ||| Field.staged ||| Field.lives ||| Field.cmds ||| Field.firmware ||| Field.image ||| Field.links ||| Field.fabric ||| Field.cal ||| Field.streams ||| Field.can) fs) {a0 : Chip} (i : Nat) (c0 : Chip) (c : Chip) (h0 : Keeps fs a0 c) : Keeps fs a0 (Chip.streamCommitted i c0 c) := by
  unfold Chip.streamCommitted
  repeat' first
    | extract_lets
    | with_reducible refine Keeps.ite ?_ ?_
    | with_reducible exact h0
    | with_reducible exact Keeps.refl _
    | with_reducible apply openStream_keeps (hm.sub (by decide))
    | with_reducible apply shutStream_keeps (hm.sub (by decide))

theorem subscribeRetryRow_keeps {fs : Nat} (hm : Within (Field.clk ||| Field.rtc ||| Field.links ||| Field.streams) fs) {a0 : Chip} (i : Nat) (c : Chip) (h0 : Keeps fs a0 c) : Keeps fs a0 (Chip.subscribeRetryRow i c) := by
  unfold Chip.subscribeRetryRow
  repeat' first
    | (clear_value *; apply Touches.mk <;> intro hn <;> first | with_reducible rfl | exact hm.out hn rfl)
    | extract_lets
    | with_reducible refine Keeps.ite ?_ ?_
    | with_reducible exact h0
    | with_reducible exact Keeps.refl _
    | with_reducible apply subscribeTry_keeps (hm.sub (by decide))
    | with_reducible apply waitUntil_keeps (hm.sub (by decide))
    | with_reducible refine OptKeeps.of_eq ?_ (by assumption)
    | split

theorem acceptRow_keeps {fs : Nat} (hm : Within (Field.streams) fs) {a0 : Chip} (src : Nat) (i : Nat) (c : Chip) (h0 : Keeps fs a0 c) : Keeps fs a0 (Chip.acceptRow src i c) := by
  unfold Chip.acceptRow
  repeat' first
    | (clear_value *; apply Touches.mk <;> intro hn <;> first | with_reducible rfl | exact hm.out hn rfl)
    | extract_lets
    | with_reducible refine Keeps.ite ?_ ?_
    | with_reducible exact h0
    | with_reducible exact Keeps.refl _
    | with_reducible apply setStream_keeps (hm.sub (by decide))

theorem refuseRow_keeps {fs : Nat} (hm : Within (Field.streams) fs) {a0 : Chip} (src : Nat) (i : Nat) (reason : Nat) (c : Chip) (h0 : Keeps fs a0 c) : Keeps fs a0 (Chip.refuseRow src i reason c) := by
  unfold Chip.refuseRow
  repeat' first
    | (clear_value *; apply Touches.mk <;> intro hn <;> first | with_reducible rfl | exact hm.out hn rfl)
    | extract_lets
    | with_reducible refine Keeps.ite ?_ ?_
    | with_reducible exact h0
    | with_reducible exact Keeps.refl _
    | with_reducible apply setStream_keeps (hm.sub (by decide))

theorem dropSub_keeps {fs : Nat} (hm : Within (Field.fabric) fs) {a0 : Chip} (node : Nat) (stream : Nat) (c : Chip) (h0 : Keeps fs a0 c) : Keeps fs a0 (Chip.dropSub node stream c) := by
  unfold Chip.dropSub
  repeat' first
    | (clear_value *; apply Touches.mk <;> intro hn <;> first | with_reducible rfl | exact hm.out hn rfl)
    | extract_lets
    | with_reducible exact h0
    | with_reducible exact Keeps.refl _
    | with_reducible apply setFabric_keeps (hm.sub (by decide))

theorem setSub_keeps {fs : Nat} (hm : Within (Field.fabric) fs) {a0 : Chip} (s : Subscription) (c : Chip) (h0 : Keeps fs a0 c) : Keeps fs a0 (Chip.setSub s c) := by
  unfold Chip.setSub
  repeat' first
    | (clear_value *; apply Touches.mk <;> intro hn <;> first | with_reducible rfl | exact hm.out hn rfl)
    | extract_lets
    | with_reducible refine Keeps.ite ?_ ?_
    | with_reducible exact h0
    | with_reducible exact Keeps.refl _
    | with_reducible apply setFabric_keeps (hm.sub (by decide))

theorem subscribeRow_keeps {fs : Nat} (hm : Within (Field.routed ||| Field.cmds ||| Field.links ||| Field.fabric) fs) {a0 : Chip} (n : Nat) (b : SubscribeBody) (c : Chip) (h0 : Keeps fs a0 c) : Keeps fs a0 (Chip.subscribeRow n b c) := by
  unfold Chip.subscribeRow
  repeat' first
    | (clear_value *; apply Touches.mk <;> intro hn <;> first | with_reducible rfl | exact hm.out hn rfl)
    | extract_lets
    | with_reducible refine Keeps.ite ?_ ?_
    | with_reducible exact h0
    | with_reducible exact Keeps.refl _
    | with_reducible apply setFabric_keeps (hm.sub (by decide))
    | with_reducible apply dropSub_keeps (hm.sub (by decide))
    | with_reducible apply accept_keeps (hm.sub (by decide))
    | with_reducible apply sendCtrl_keeps (hm.sub (by decide))
    | with_reducible apply setSub_keeps (hm.sub (by decide))
    | with_reducible apply onFrame_keeps (hm.sub (by decide))
    | with_reducible refine OptKeeps.of_eq ?_ (by assumption)
    | split
    | with_reducible refine Keeps.update ?_ ?_
    | (with_reducible intro _)

theorem unsubscribeRow_keeps {fs : Nat} (hm : Within (Field.fabric) fs) {a0 : Chip} (src : Nat) (i : Nat) (c : Chip) (h0 : Keeps fs a0 c) : Keeps fs a0 (Chip.unsubscribeRow src i c) := by
  unfold Chip.unsubscribeRow
  repeat' first
    | extract_lets
    | with_reducible refine Keeps.ite ?_ ?_
    | with_reducible exact h0
    | with_reducible exact Keeps.refl _
    | with_reducible apply dropSub_keeps (hm.sub (by decide))

theorem subDropRow_keeps {fs : Nat} (hm : Within (Field.clk ||| Field.rtc ||| Field.fabric) fs) {a0 : Chip} (node : Nat) (i : Nat) (c : Chip) (h0 : Keeps fs a0 c) : Keeps fs a0 (Chip.subDropRow node i c) := by
  unfold Chip.subDropRow
  repeat' first
    | (clear_value *; apply Touches.mk <;> intro hn <;> first | with_reducible rfl | exact hm.out hn rfl)
    | extract_lets
    | with_reducible refine Keeps.ite ?_ ?_
    | with_reducible exact h0
    | with_reducible exact Keeps.refl _
    | with_reducible apply dropSub_keeps (hm.sub (by decide))
    | with_reducible apply waitUntil_keeps (hm.sub (by decide))
    | with_reducible refine OptKeeps.of_eq ?_ (by assumption)
    | split

theorem exportRow_keeps {fs : Nat} (hm : Within (Field.routed ||| Field.clk ||| Field.rtc ||| Field.links ||| Field.fabric) fs) {a0 : Chip} (node : Nat) (i : Nat) (c : Chip) (h0 : Keeps fs a0 c) : Keeps fs a0 (Chip.exportRow node i c) := by
  unfold Chip.exportRow
  repeat' first
    | (clear_value *; apply Touches.mk <;> intro hn <;> first | with_reducible rfl | exact hm.out hn rfl)
    | extract_lets
    | with_reducible refine Keeps.ite ?_ ?_
    | with_reducible exact h0
    | with_reducible exact Keeps.refl _
    | with_reducible apply egress_keeps (hm.sub (by decide))
    | with_reducible apply setSub_keeps (hm.sub (by decide))
    | with_reducible apply waitUntil_keeps (hm.sub (by decide))
    | with_reducible refine OptKeeps.of_eq ?_ (by assumption)
    | split

theorem takeRecord_keeps {fs : Nat} (hm : Within (Field.slots ||| Field.produced ||| Field.slotWrites ||| Field.links ||| Field.zones ||| Field.staleWrites ||| Field.loops ||| Field.streams) fs) {a0 : Chip} (n : Nat) (i : Nat) (r : List Byte) (c : Chip) (h0 : Keeps fs a0 c) : Keeps fs a0 (Chip.takeRecord n i r c) := by
  unfold Chip.takeRecord
  repeat' first
    | (clear_value *; apply Touches.mk <;> intro hn <;> first | with_reducible rfl | exact hm.out hn rfl)
    | extract_lets
    | with_reducible refine Keeps.ite ?_ ?_
    | with_reducible exact h0
    | with_reducible exact Keeps.refl _
    | with_reducible apply setStream_keeps (hm.sub (by decide))
    | with_reducible apply produce_keeps (hm.sub (by decide))
    | with_reducible apply discard_keeps (hm.sub (by decide))
    | with_reducible refine OptKeeps.of_eq ?_ (by assumption)
    | split

theorem signalRow_keeps {fs : Nat} (hm : Within (Field.slots ||| Field.produced ||| Field.slotWrites ||| Field.links ||| Field.zones ||| Field.staleWrites ||| Field.loops ||| Field.streams) fs) {a0 : Chip} (n : Nat) (src : Nat) (cls : Nat) (p : List Byte) (c : Chip) (h0 : Keeps fs a0 c) : Keeps fs a0 (Chip.signalRow n src cls p c) := by
  unfold Chip.signalRow
  repeat' first
    | (clear_value *; apply Touches.mk <;> intro hn <;> first | with_reducible rfl | exact hm.out hn rfl)
    | extract_lets
    | with_reducible refine foldl_keeps (fun _ _ => ?_) ?_
    | with_reducible refine Keeps.ite ?_ ?_
    | with_reducible exact h0
    | with_reducible exact Keeps.refl _
    | with_reducible apply takeRecord_keeps (hm.sub (by decide))
    | with_reducible apply setStream_keeps (hm.sub (by decide))
    | with_reducible apply setLink_keeps (hm.sub (by decide))
    | with_reducible apply discard_keeps (hm.sub (by decide))
    | with_reducible apply rxCount_keeps (hm.sub (by decide))

theorem bodySignalRead_keeps {fs : Nat} (hm : Within 0 fs) {a0 : Chip} (k : Cmd) (c : Chip) (h0 : Keeps fs a0 c) : ResKeeps fs a0 (bodySignalRead k c) := by
  unfold bodySignalRead
  repeat' first
    | extract_lets
    | with_reducible refine ResKeeps.ite ?_ ?_
    | with_reducible refine Keeps.ite ?_ ?_
    | with_reducible exact h0
    | with_reducible exact Keeps.refl _
    | with_reducible apply ResKeeps.done
    | with_reducible apply ResKeeps.accepted
    | with_reducible apply ResKeeps.acceptedDone
    | with_reducible apply ResKeeps.waiting
    | with_reducible apply ResKeeps.held
    | with_reducible apply ResKeeps.ok
    | with_reducible apply ResKeeps.okWith
    | with_reducible apply ResKeeps.err
    | with_reducible apply ResKeeps.badParam
    | with_reducible apply ResKeeps.badLength

theorem forceSlot_keeps {fs : Nat} (hm : Within (Field.slots ||| Field.overrides ||| Field.slotWrites ||| Field.staleWrites ||| Field.loops) fs) {a0 : Chip} (sid : Nat) (v : Word) (c : Chip) (h0 : Keeps fs a0 c) : Keeps fs a0 (Chip.forceSlot sid v c) := by
  unfold Chip.forceSlot
  repeat' first
    | (clear_value *; apply Touches.mk <;> intro hn <;> first | with_reducible rfl | exact hm.out hn rfl)
    | (apply Touches.mk <;> intro hn <;> first | with_reducible rfl | exact hm.out hn rfl)
    | extract_lets
    | with_reducible exact h0
    | with_reducible exact Keeps.refl _
    | with_reducible apply writeSlot_keeps (hm.sub (by decide))
    | with_reducible refine Keeps.update ?_ ?_

theorem bodySignalForce_keeps {fs : Nat} (hm : Within (Field.slots ||| Field.overrides ||| Field.slotWrites ||| Field.staleWrites ||| Field.loops) fs) {a0 : Chip} (k : Cmd) (c : Chip) (h0 : Keeps fs a0 c) : ResKeeps fs a0 (bodySignalForce k c) := by
  unfold bodySignalForce
  repeat' first
    | extract_lets
    | with_reducible refine ResKeeps.ite ?_ ?_
    | with_reducible refine Keeps.ite ?_ ?_
    | with_reducible exact h0
    | with_reducible exact Keeps.refl _
    | with_reducible apply forceSlot_keeps (hm.sub (by decide))
    | with_reducible apply ResKeeps.done
    | with_reducible apply ResKeeps.accepted
    | with_reducible apply ResKeeps.acceptedDone
    | with_reducible apply ResKeeps.waiting
    | with_reducible apply ResKeeps.held
    | with_reducible apply ResKeeps.ok
    | with_reducible apply ResKeeps.okWith
    | with_reducible apply ResKeeps.err
    | with_reducible apply ResKeeps.badParam
    | with_reducible apply ResKeeps.badLength

theorem bodySignalRelease_keeps {fs : Nat} (hm : Within (Field.overrides) fs) {a0 : Chip} (k : Cmd) (c : Chip) (h0 : Keeps fs a0 c) : ResKeeps fs a0 (bodySignalRelease k c) := by
  unfold bodySignalRelease
  repeat' first
    | (clear_value *; apply Touches.mk <;> intro hn <;> first | with_reducible rfl | exact hm.out hn rfl)
    | extract_lets
    | with_reducible refine ResKeeps.ite ?_ ?_
    | with_reducible refine Keeps.ite ?_ ?_
    | with_reducible exact h0
    | with_reducible exact Keeps.refl _
    | with_reducible apply ResKeeps.done
    | with_reducible apply ResKeeps.accepted
    | with_reducible apply ResKeeps.acceptedDone
    | with_reducible apply ResKeeps.waiting
    | with_reducible apply ResKeeps.held
    | with_reducible apply ResKeeps.ok
    | with_reducible apply ResKeeps.okWith
    | with_reducible apply ResKeeps.err
    | with_reducible apply ResKeeps.badParam
    | with_reducible apply ResKeeps.badLength
    | with_reducible refine Keeps.update ?_ ?_

theorem replyArrives_keeps {fs : Nat} (hm : Within (Field.routed ||| Field.sessions ||| Field.staged ||| Field.lives ||| Field.cmds ||| Field.firmware ||| Field.image ||| Field.links ||| Field.fabric ||| Field.cal ||| Field.streams ||| Field.can) fs) {a0 : Chip} (src : Nat) (token : Nat) (p : List Byte) (c : Chip) (h0 : Keeps fs a0 c) : Keeps fs a0 (Chip.replyArrives src token p c) := by
  unfold Chip.replyArrives
  repeat' first
    | (clear_value *; apply Touches.mk <;> intro hn <;> first | with_reducible rfl | exact hm.out hn rfl)
    | extract_lets
    | with_reducible refine Keeps.ite ?_ ?_
    | with_reducible exact h0
    | with_reducible exact Keeps.refl _
    | with_reducible apply setQueue_keeps (hm.sub (by decide))
    | with_reducible apply endSession_keeps (hm.sub (by decide))
    | with_reducible apply deliver_keeps (hm.sub (by decide))
    | with_reducible apply dropCmd_keeps (hm.sub (by decide))
    | with_reducible apply setCmd_keeps (hm.sub (by decide))
    | with_reducible apply finishTag_keeps (hm.sub (by decide))
    | with_reducible refine OptKeeps.of_eq ?_ (by assumption)
    | split
    | with_reducible refine Keeps.update ?_ ?_

theorem pushRemote_keeps {fs : Nat} (hm : Within (Field.remoteIn) fs) {a0 : Chip} (ctx : Nat) (p : List Byte) (c : Chip) (h0 : Keeps fs a0 c) : Keeps fs a0 (Chip.pushRemote ctx p c) := by
  unfold Chip.pushRemote
  repeat' first
    | (clear_value *; apply Touches.mk <;> intro hn <;> first | with_reducible rfl | exact hm.out hn rfl)
    | (apply Touches.mk <;> intro hn <;> first | with_reducible rfl | exact hm.out hn rfl)
    | extract_lets
    | with_reducible exact h0
    | with_reducible exact Keeps.refl _
    | with_reducible refine Keeps.update ?_ ?_

theorem mapRemote_keeps {fs : Nat} (hm : Within (Field.sessions ||| Field.fabric) fs) {a0 : Chip} (ctx : Nat) (src : Nat) (token : Nat) (ver : Nat) (c : Chip) (h0 : Keeps fs a0 c) : Keeps fs a0 (Chip.mapRemote ctx src token ver c) := by
  unfold Chip.mapRemote
  repeat' first
    | (clear_value *; apply Touches.mk <;> intro hn <;> first | with_reducible rfl | exact hm.out hn rfl)
    | extract_lets
    | with_reducible refine Keeps.ite ?_ ?_
    | with_reducible exact h0
    | with_reducible exact Keeps.refl _
    | with_reducible apply notePath_keeps (hm.sub (by decide))
    | with_reducible apply setFabric_keeps (hm.sub (by decide))
    | with_reducible refine Keeps.update ?_ ?_

theorem commandArrives_keeps {fs : Nat} (hm : Within (Field.routed ||| Field.sessions ||| Field.remoteIn ||| Field.links ||| Field.fabric) fs) {a0 : Chip} (src : Nat) (token : Nat) (p : List Byte) (c : Chip) (h0 : Keeps fs a0 c) : Keeps fs a0 (Chip.commandArrives src token p c) := by
  unfold Chip.commandArrives
  repeat' first
    | (clear_value *; apply Touches.mk <;> intro hn <;> first | with_reducible rfl | exact hm.out hn rfl)
    | extract_lets
    | with_reducible refine Keeps.ite ?_ ?_
    | with_reducible exact h0
    | with_reducible exact Keeps.refl _
    | with_reducible apply sendPhiveox_keeps (hm.sub (by decide))
    | with_reducible apply mapRemote_keeps (hm.sub (by decide))
    | with_reducible apply pushRemote_keeps (hm.sub (by decide))
    | with_reducible refine OptKeeps.of_eq ?_ (by assumption)
    | split

theorem phiveoxRow_keeps {fs : Nat} (hm : Within (Field.routed ||| Field.sessions ||| Field.staged ||| Field.lives ||| Field.cmds ||| Field.remoteIn ||| Field.firmware ||| Field.image ||| Field.links ||| Field.fabric ||| Field.cal ||| Field.streams ||| Field.can) fs) {a0 : Chip} (n : Nat) (src : Nat) (token : Nat) (cls : Nat) (p : List Byte) (c : Chip) (h0 : Keeps fs a0 c) : Keeps fs a0 (Chip.phiveoxRow n src token cls p c) := by
  unfold Chip.phiveoxRow
  repeat' first
    | extract_lets
    | with_reducible refine Keeps.ite ?_ ?_
    | with_reducible exact h0
    | with_reducible exact Keeps.refl _
    | with_reducible apply commandArrives_keeps (hm.sub (by decide))
    | with_reducible apply replyArrives_keeps (hm.sub (by decide))
    | with_reducible apply onFrame_keeps (hm.sub (by decide))
    | (with_reducible intro _)

theorem bodyLinkStatus_keeps {fs : Nat} (hm : Within 0 fs) {a0 : Chip} (k : Cmd) (c : Chip) (h0 : Keeps fs a0 c) : ResKeeps fs a0 (bodyLinkStatus k c) := by
  unfold bodyLinkStatus
  repeat' first
    | extract_lets
    | with_reducible refine ResKeeps.ite ?_ ?_
    | with_reducible refine Keeps.ite ?_ ?_
    | with_reducible exact h0
    | with_reducible exact Keeps.refl _
    | with_reducible apply ResKeeps.done
    | with_reducible apply ResKeeps.accepted
    | with_reducible apply ResKeeps.acceptedDone
    | with_reducible apply ResKeeps.waiting
    | with_reducible apply ResKeeps.held
    | with_reducible apply ResKeeps.ok
    | with_reducible apply ResKeeps.okWith
    | with_reducible apply ResKeeps.err
    | with_reducible apply ResKeeps.badParam
    | with_reducible apply ResKeeps.badLength

theorem bodyLinkRetrain_keeps {fs : Nat} (hm : Within (Field.routed ||| Field.links ||| Field.fabric) fs) {a0 : Chip} (k : Cmd) (c : Chip) (h0 : Keeps fs a0 c) : ResKeeps fs a0 (bodyLinkRetrain k c) := by
  unfold bodyLinkRetrain
  repeat' first
    | (clear_value *; apply Touches.mk <;> intro hn <;> first | with_reducible rfl | exact hm.out hn rfl)
    | extract_lets
    | with_reducible refine ResKeeps.ite ?_ ?_
    | with_reducible refine Keeps.ite ?_ ?_
    | with_reducible exact h0
    | with_reducible exact Keeps.refl _
    | with_reducible apply setLink_keeps (hm.sub (by decide))
    | with_reducible apply linkLeave_keeps (hm.sub (by decide))
    | with_reducible apply train_keeps (hm.sub (by decide))
    | with_reducible apply ResKeeps.done
    | with_reducible apply ResKeeps.accepted
    | with_reducible apply ResKeeps.acceptedDone
    | with_reducible apply ResKeeps.waiting
    | with_reducible apply ResKeeps.held
    | with_reducible apply ResKeeps.ok
    | with_reducible apply ResKeeps.okWith
    | with_reducible apply ResKeeps.err
    | with_reducible apply ResKeeps.badParam
    | with_reducible apply ResKeeps.badLength

theorem retrainDone_keeps {fs : Nat} (hm : Within (Field.routed ||| Field.clk ||| Field.sessions ||| Field.staged ||| Field.lives ||| Field.cmds ||| Field.firmware ||| Field.image ||| Field.rtc ||| Field.links ||| Field.fabric ||| Field.cal ||| Field.streams ||| Field.can) fs) {a0 : Chip} (n : Nat) (c : Chip) (h0 : Keeps fs a0 c) : Keeps fs a0 (Chip.retrainDone n c) := by
  unfold Chip.retrainDone
  repeat' first
    | (clear_value *; apply Touches.mk <;> intro hn <;> first | with_reducible rfl | exact hm.out hn rfl)
    | extract_lets
    | with_reducible refine Keeps.ite ?_ ?_
    | with_reducible exact h0
    | with_reducible exact Keeps.refl _
    | with_reducible apply finishTag_keeps (hm.sub (by decide))
    | with_reducible apply setLink_keeps (hm.sub (by decide))
    | with_reducible apply waitUntil_keeps (hm.sub (by decide))
    | with_reducible refine OptKeeps.of_eq ?_ (by assumption)
    | split

theorem retrainAbort_keeps {fs : Nat} (hm : Within (Field.routed ||| Field.links ||| Field.fabric) fs) {a0 : Chip} (n : Nat) (c : Chip) (h0 : Keeps fs a0 c) : Keeps fs a0 (Chip.retrainAbort n c) := by
  unfold Chip.retrainAbort
  repeat' first
    | (clear_value *; apply Touches.mk <;> intro hn <;> first | with_reducible rfl | exact hm.out hn rfl)
    | extract_lets
    | with_reducible refine Keeps.ite ?_ ?_
    | with_reducible exact h0
    | with_reducible exact Keeps.refl _
    | with_reducible apply trainIfSignal_keeps (hm.sub (by decide))
    | with_reducible apply linkLeave_keeps (hm.sub (by decide))
    | with_reducible apply setLink_keeps (hm.sub (by decide))

theorem bodyTopologyRead_keeps {fs : Nat} (hm : Within 0 fs) {a0 : Chip} (k : Cmd) (c : Chip) (h0 : Keeps fs a0 c) : ResKeeps fs a0 (bodyTopologyRead k c) := by
  unfold bodyTopologyRead
  repeat' first
    | extract_lets
    | with_reducible refine ResKeeps.ite ?_ ?_
    | with_reducible refine Keeps.ite ?_ ?_
    | with_reducible exact h0
    | with_reducible exact Keeps.refl _
    | with_reducible apply ResKeeps.done
    | with_reducible apply ResKeeps.accepted
    | with_reducible apply ResKeeps.acceptedDone
    | with_reducible apply ResKeeps.waiting
    | with_reducible apply ResKeeps.held
    | with_reducible apply ResKeeps.ok
    | with_reducible apply ResKeeps.okWith
    | with_reducible apply ResKeeps.err
    | with_reducible apply ResKeeps.badParam
    | with_reducible apply ResKeeps.badLength

theorem bodyRouteStatus_keeps {fs : Nat} (hm : Within 0 fs) {a0 : Chip} (k : Cmd) (c : Chip) (h0 : Keeps fs a0 c) : ResKeeps fs a0 (bodyRouteStatus k c) := by
  unfold bodyRouteStatus
  repeat' first
    | extract_lets
    | with_reducible refine ResKeeps.ite ?_ ?_
    | with_reducible refine Keeps.ite ?_ ?_
    | with_reducible exact h0
    | with_reducible exact Keeps.refl _
    | with_reducible apply ResKeeps.done
    | with_reducible apply ResKeeps.accepted
    | with_reducible apply ResKeeps.acceptedDone
    | with_reducible apply ResKeeps.waiting
    | with_reducible apply ResKeeps.held
    | with_reducible apply ResKeeps.ok
    | with_reducible apply ResKeeps.okWith
    | with_reducible apply ResKeeps.err
    | with_reducible apply ResKeeps.badParam
    | with_reducible apply ResKeeps.badLength

theorem bodyBellwetherStatus_keeps {fs : Nat} (hm : Within 0 fs) {a0 : Chip} (k : Cmd) (c : Chip) (h0 : Keeps fs a0 c) : ResKeeps fs a0 (bodyBellwetherStatus k c) := by
  unfold bodyBellwetherStatus
  repeat' first
    | extract_lets
    | with_reducible refine ResKeeps.ite ?_ ?_
    | with_reducible refine Keeps.ite ?_ ?_
    | with_reducible exact h0
    | with_reducible exact Keeps.refl _
    | with_reducible apply ResKeeps.done
    | with_reducible apply ResKeeps.accepted
    | with_reducible apply ResKeeps.acceptedDone
    | with_reducible apply ResKeeps.waiting
    | with_reducible apply ResKeeps.held
    | with_reducible apply ResKeeps.ok
    | with_reducible apply ResKeeps.okWith
    | with_reducible apply ResKeeps.err
    | with_reducible apply ResKeeps.badParam
    | with_reducible apply ResKeeps.badLength

theorem bodyPoliceCounters_keeps {fs : Nat} (hm : Within (Field.links) fs) {a0 : Chip} (k : Cmd) (c : Chip) (h0 : Keeps fs a0 c) : ResKeeps fs a0 (bodyPoliceCounters k c) := by
  unfold bodyPoliceCounters
  repeat' first
    | (clear_value *; apply Touches.mk <;> intro hn <;> first | with_reducible rfl | exact hm.out hn rfl)
    | extract_lets
    | with_reducible refine ResKeeps.ite ?_ ?_
    | with_reducible refine Keeps.ite ?_ ?_
    | with_reducible exact h0
    | with_reducible exact Keeps.refl _
    | with_reducible apply setLink_keeps (hm.sub (by decide))
    | with_reducible apply ResKeeps.done
    | with_reducible apply ResKeeps.accepted
    | with_reducible apply ResKeeps.acceptedDone
    | with_reducible apply ResKeeps.waiting
    | with_reducible apply ResKeeps.held
    | with_reducible apply ResKeeps.ok
    | with_reducible apply ResKeeps.okWith
    | with_reducible apply ResKeeps.err
    | with_reducible apply ResKeeps.badParam
    | with_reducible apply ResKeeps.badLength

end Sys2Proof.Machine
end

