-- ==== Sys2Proof/Laws/KeepsPwm.lean ====
section
/-! SUPPORT. What Machine/Pwm.lean keeps. -/

namespace Sys2Proof.Machine

theorem queueShadow_keeps {fs : Nat} (hm : Within (Field.groups) fs) {a0 : Chip} (k : Nat) (fresh : List Nat) (c : Chip) (h0 : Keeps fs a0 c) : Keeps fs a0 (Chip.queueShadow k fresh c) := by
  unfold Chip.queueShadow
  repeat' first
    | (clear_value *; apply Touches.mk <;> intro hn <;> first | with_reducible rfl | exact hm.out hn rfl)
    | extract_lets
    | with_reducible refine Keeps.ite ?_ ?_
    | with_reducible exact h0
    | with_reducible exact Keeps.refl _
    | with_reducible apply setGroup_keeps (hm.sub (by decide))

theorem latchEvent_keeps {fs : Nat} (hm : Within (Field.routed) fs) {a0 : Chip} (n : Nat) (c : Chip) (h0 : Keeps fs a0 c) : Keeps fs a0 (Chip.latchEvent n c) := by
  unfold Chip.latchEvent
  repeat' first
    | extract_lets
    | with_reducible refine Keeps.ite ?_ ?_
    | with_reducible exact h0
    | with_reducible exact Keeps.refl _
    | with_reducible apply fire_keeps (hm.sub (by decide))

theorem latchBridge_keeps {fs : Nat} (hm : Within (Field.routed ||| Field.slots ||| Field.produced ||| Field.slotWrites ||| Field.sessions ||| Field.staged ||| Field.lives ||| Field.cmds ||| Field.firmware ||| Field.image ||| Field.links ||| Field.fabric ||| Field.bridges ||| Field.motors ||| Field.records ||| Field.valves ||| Field.cal ||| Field.zones ||| Field.staleWrites ||| Field.streams ||| Field.can) fs) {a0 : Chip} (n : Nat) (c : Chip) (h0 : Keeps fs a0 c) : Keeps fs a0 (Chip.latchBridge n c) := by
  unfold Chip.latchBridge
  repeat' first
    | (clear_value *; apply Touches.mk <;> intro hn <;> first | with_reducible rfl | exact hm.out hn rfl)
    | extract_lets
    | with_reducible exact h0
    | with_reducible exact Keeps.refl _
    | with_reducible apply valveFault_keeps (hm.sub (by decide))
    | with_reducible apply stopFloat_keeps (hm.sub (by decide))
    | with_reducible apply motorCut_keeps (hm.sub (by decide))
    | with_reducible apply latchEvent_keeps (hm.sub (by decide))
    | with_reducible apply setBridge_keeps (hm.sub (by decide))

theorem checkLatch_keeps {fs : Nat} (hm : Within (Field.routed ||| Field.slots ||| Field.produced ||| Field.slotWrites ||| Field.sessions ||| Field.staged ||| Field.lives ||| Field.cmds ||| Field.firmware ||| Field.image ||| Field.links ||| Field.fabric ||| Field.bridges ||| Field.motors ||| Field.records ||| Field.valves ||| Field.cal ||| Field.zones ||| Field.staleWrites ||| Field.streams ||| Field.can) fs) {a0 : Chip} (n : Nat) (c : Chip) (h0 : Keeps fs a0 c) : Keeps fs a0 (Chip.checkLatch n c) := by
  unfold Chip.checkLatch
  repeat' first
    | extract_lets
    | with_reducible refine Keeps.ite ?_ ?_
    | with_reducible exact h0
    | with_reducible exact Keeps.refl _
    | with_reducible apply latchBridge_keeps (hm.sub (by decide))

theorem noteLatching_keeps {fs : Nat} (hm : Within (Field.bridges) fs) {a0 : Chip} (n : Nat) (c : Chip) (h0 : Keeps fs a0 c) : Keeps fs a0 (Chip.noteLatching n c) := by
  unfold Chip.noteLatching
  repeat' first
    | (clear_value *; apply Touches.mk <;> intro hn <;> first | with_reducible rfl | exact hm.out hn rfl)
    | extract_lets
    | with_reducible refine Keeps.ite ?_ ?_
    | with_reducible exact h0
    | with_reducible exact Keeps.refl _
    | with_reducible apply setBridge_keeps (hm.sub (by decide))

theorem meetClear_keeps {fs : Nat} (hm : Within (Field.bridges) fs) {a0 : Chip} (n : Nat) (i : Nat) (c : Chip) (h0 : Keeps fs a0 c) : Keeps fs a0 (Chip.meetClear n i c) := by
  unfold Chip.meetClear
  repeat' first
    | (clear_value *; apply Touches.mk <;> intro hn <;> first | with_reducible rfl | exact hm.out hn rfl)
    | extract_lets
    | with_reducible refine Keeps.ite ?_ ?_
    | with_reducible exact h0
    | with_reducible exact Keeps.refl _
    | with_reducible apply setBridge_keeps (hm.sub (by decide))
    | with_reducible refine OptKeeps.of_eq ?_ (by assumption)
    | split

theorem trip_keeps {fs : Nat} (hm : Within (Field.routed ||| Field.slots ||| Field.produced ||| Field.slotWrites ||| Field.sessions ||| Field.staged ||| Field.lives ||| Field.cmds ||| Field.firmware ||| Field.image ||| Field.links ||| Field.fabric ||| Field.ports ||| Field.bridges ||| Field.motors ||| Field.records ||| Field.valves ||| Field.cal ||| Field.zones ||| Field.staleWrites ||| Field.streams ||| Field.can) fs) {a0 : Chip} (n : Nat) (c : Chip) (h0 : Keeps fs a0 c) : Keeps fs a0 (Chip.trip n c) := by
  unfold Chip.trip
  repeat' first
    | extract_lets
    | with_reducible refine Keeps.ite ?_ ?_
    | with_reducible exact h0
    | with_reducible exact Keeps.refl _
    | with_reducible apply checkLatch_keeps (hm.sub (by decide))
    | with_reducible apply portCause_keeps (hm.sub (by decide))
    | with_reducible apply noteLatching_keeps (hm.sub (by decide))
    | with_reducible apply setBridge_keeps (hm.sub (by decide))
    | with_reducible apply meetClear_keeps (hm.sub (by decide))

theorem bodyTripClear_keeps {fs : Nat} (hm : Within (Field.routed ||| Field.bridges ||| Field.motors) fs) {a0 : Chip} (k : Cmd) (c : Chip) (h0 : Keeps fs a0 c) : ResKeeps fs a0 (bodyTripClear k c) := by
  unfold bodyTripClear
  repeat' first
    | (clear_value *; apply Touches.mk <;> intro hn <;> first | with_reducible rfl | exact hm.out hn rfl)
    | extract_lets
    | with_reducible refine ResKeeps.ite ?_ ?_
    | with_reducible refine Keeps.ite ?_ ?_
    | with_reducible exact h0
    | with_reducible exact Keeps.refl _
    | with_reducible apply motorResume_keeps (hm.sub (by decide))
    | with_reducible apply setBridge_keeps (hm.sub (by decide))
    | with_reducible apply latchEvent_keeps (hm.sub (by decide))
    | with_reducible apply ResKeeps.done
    | with_reducible apply ResKeeps.accepted
    | with_reducible apply ResKeeps.acceptedDone
    | with_reducible apply ResKeeps.waiting
    | with_reducible apply ResKeeps.held
    | with_reducible apply ResKeeps.ok
    | with_reducible apply ResKeeps.okWith
    | with_reducible apply ResKeeps.err
    | with_reducible apply ResKeeps.badParam
    | with_reducible apply ResKeeps.badLength

theorem pulseTo_keeps {fs : Nat} (hm : Within (Field.groups) fs) {a0 : Chip} (k : Nat) (t : Nat) (c : Chip) (h0 : Keeps fs a0 c) : Keeps fs a0 (Chip.pulseTo k t c) := by
  unfold Chip.pulseTo
  repeat' first
    | (clear_value *; apply Touches.mk <;> intro hn <;> first | with_reducible rfl | exact hm.out hn rfl)
    | extract_lets
    | with_reducible refine Keeps.ite ?_ ?_
    | with_reducible exact h0
    | with_reducible exact Keeps.refl _
    | with_reducible apply setGroup_keeps (hm.sub (by decide))

theorem groupTrigger_keeps {fs : Nat} (hm : Within (Field.sampler) fs) {a0 : Chip} (k : Nat) (t : Nat) (c : Chip) (h0 : Keeps fs a0 c) : Keeps fs a0 (Chip.groupTrigger k t c) := by
  unfold Chip.groupTrigger
  repeat' first
    | (clear_value *; apply Touches.mk <;> intro hn <;> first | with_reducible rfl | exact hm.out hn rfl)
    | extract_lets
    | with_reducible refine Keeps.ite ?_ ?_
    | with_reducible exact h0
    | with_reducible exact Keeps.refl _
    | with_reducible refine Keeps.update ?_ ?_

theorem boundaryAt_keeps {fs : Nat} (hm : Within (Field.routed ||| Field.slots ||| Field.produced ||| Field.slotWrites ||| Field.sessions ||| Field.staged ||| Field.lives ||| Field.cmds ||| Field.firmware ||| Field.image ||| Field.links ||| Field.fabric ||| Field.groups ||| Field.bridges ||| Field.motors ||| Field.records ||| Field.valves ||| Field.sampler ||| Field.cal ||| Field.zones ||| Field.staleWrites ||| Field.streams ||| Field.can) fs) {a0 : Chip} (k : Nat) (t : Nat) (c : Chip) (h0 : Keeps fs a0 c) : Keeps fs a0 (Chip.boundaryAt k t c) := by
  unfold Chip.boundaryAt
  repeat' first
    | (clear_value *; apply Touches.mk <;> intro hn <;> first | with_reducible rfl | exact hm.out hn rfl)
    | extract_lets
    | with_reducible refine foldl_keeps (fun _ _ => ?_) ?_
    | with_reducible refine Keeps.ite ?_ ?_
    | with_reducible exact h0
    | with_reducible exact Keeps.refl _
    | with_reducible apply checkLatch_keeps (hm.sub (by decide))
    | with_reducible apply groupTrigger_keeps (hm.sub (by decide))
    | with_reducible apply pulseTo_keeps (hm.sub (by decide))
    | with_reducible apply fire_keeps (hm.sub (by decide))
    | with_reducible apply setGroup_keeps (hm.sub (by decide))

theorem boundary_keeps {fs : Nat} (hm : Within (Field.routed ||| Field.clk ||| Field.slots ||| Field.produced ||| Field.slotWrites ||| Field.sessions ||| Field.staged ||| Field.lives ||| Field.cmds ||| Field.firmware ||| Field.image ||| Field.rtc ||| Field.links ||| Field.fabric ||| Field.groups ||| Field.bridges ||| Field.motors ||| Field.records ||| Field.valves ||| Field.sampler ||| Field.cal ||| Field.zones ||| Field.staleWrites ||| Field.streams ||| Field.can) fs) {a0 : Chip} (k : Nat) (c : Chip) (h0 : Keeps fs a0 c) : Keeps fs a0 (Chip.boundary k c) := by
  unfold Chip.boundary
  repeat' first
    | (clear_value *; apply Touches.mk <;> intro hn <;> first | with_reducible rfl | exact hm.out hn rfl)
    | extract_lets
    | with_reducible exact h0
    | with_reducible exact Keeps.refl _
    | with_reducible apply setGroup_keeps (hm.sub (by decide))
    | with_reducible apply boundaryAt_keeps (hm.sub (by decide))
    | with_reducible apply waitUntil_keeps (hm.sub (by decide))
    | with_reducible refine OptKeeps.of_eq ?_ (by assumption)
    | split

theorem syncIn_keeps {fs : Nat} (hm : Within (Field.groups) fs) {a0 : Chip} (c : Chip) (h0 : Keeps fs a0 c) : Keeps fs a0 (Chip.syncIn c) := by
  unfold Chip.syncIn
  repeat' first
    | (clear_value *; apply Touches.mk <;> intro hn <;> first | with_reducible rfl | exact hm.out hn rfl)
    | extract_lets
    | with_reducible refine Keeps.ite ?_ ?_
    | with_reducible exact h0
    | with_reducible exact Keeps.refl _
    | with_reducible apply setGroup_keeps (hm.sub (by decide))

theorem followTimeout_keeps {fs : Nat} (hm : Within (Field.clk ||| Field.rtc ||| Field.groups) fs) {a0 : Chip} (k : Nat) (c : Chip) (h0 : Keeps fs a0 c) : Keeps fs a0 (Chip.followTimeout k c) := by
  unfold Chip.followTimeout
  repeat' first
    | (clear_value *; apply Touches.mk <;> intro hn <;> first | with_reducible rfl | exact hm.out hn rfl)
    | extract_lets
    | with_reducible exact h0
    | with_reducible exact Keeps.refl _
    | with_reducible apply setGroup_keeps (hm.sub (by decide))
    | with_reducible apply waitUntil_keeps (hm.sub (by decide))
    | with_reducible refine OptKeeps.of_eq ?_ (by assumption)
    | split

theorem calibrateLines_keeps {fs : Nat} (hm : Within (Field.routed ||| Field.clk ||| Field.rtc ||| Field.groups) fs) {a0 : Chip} (failed : List Nat) (c : Chip) (h0 : Keeps fs a0 c) : Keeps fs a0 (Chip.calibrateLines failed c) := by
  unfold Chip.calibrateLines
  repeat' first
    | (clear_value *; apply Touches.mk <;> intro hn <;> first | with_reducible rfl | exact hm.out hn rfl)
    | extract_lets
    | with_reducible refine foldl_keeps (fun _ _ => ?_) ?_
    | with_reducible refine Keeps.ite ?_ ?_
    | with_reducible exact h0
    | with_reducible exact Keeps.refl _
    | with_reducible apply waitUntil_keeps (hm.sub (by decide))
    | with_reducible apply fire_keeps (hm.sub (by decide))
    | with_reducible apply setGroup_keeps (hm.sub (by decide))

theorem checkSlotSource_keeps {fs : Nat} (hm : Within (Field.groups) fs) {a0 : Chip} (n : Nat) (c : Chip) (h0 : Keeps fs a0 c) : Keeps fs a0 (Chip.checkSlotSource n c) := by
  unfold Chip.checkSlotSource
  repeat' first
    | (clear_value *; apply Touches.mk <;> intro hn <;> first | with_reducible rfl | exact hm.out hn rfl)
    | extract_lets
    | with_reducible refine Keeps.ite ?_ ?_
    | with_reducible exact h0
    | with_reducible exact Keeps.refl _
    | with_reducible apply setGroup_keeps (hm.sub (by decide))

theorem orphan_keeps {fs : Nat} (hm : Within (Field.groups) fs) {a0 : Chip} (k : Nat) (c : Chip) (h0 : Keeps fs a0 c) : Keeps fs a0 (Chip.orphan k c) := by
  unfold Chip.orphan
  repeat' first
    | (clear_value *; apply Touches.mk <;> intro hn <;> first | with_reducible rfl | exact hm.out hn rfl)
    | extract_lets
    | with_reducible refine Keeps.ite ?_ ?_
    | with_reducible exact h0
    | with_reducible exact Keeps.refl _
    | with_reducible apply setGroup_keeps (hm.sub (by decide))

theorem enableGroup_keeps {fs : Nat} (hm : Within (Field.routed ||| Field.clk ||| Field.rtc ||| Field.groups ||| Field.bridges ||| Field.motors ||| Field.fans) fs) {a0 : Chip} (k : Nat) (c : Chip) (h0 : Keeps fs a0 c) : Keeps fs a0 (Chip.enableGroup k c) := by
  unfold Chip.enableGroup
  repeat' first
    | (clear_value *; apply Touches.mk <;> intro hn <;> first | with_reducible rfl | exact hm.out hn rfl)
    | extract_lets
    | with_reducible refine foldl_keeps (fun _ _ => ?_) ?_
    | with_reducible refine Keeps.ite ?_ ?_
    | with_reducible exact h0
    | with_reducible exact Keeps.refl _
    | with_reducible apply motorResume_keeps (hm.sub (by decide))
    | with_reducible apply fanGroupRuns_keeps (hm.sub (by decide))
    | with_reducible apply setBridge_keeps (hm.sub (by decide))
    | with_reducible apply setGroup_keeps (hm.sub (by decide))

theorem bodyGroupEnable_keeps {fs : Nat} (hm : Within (Field.routed ||| Field.clk ||| Field.rtc ||| Field.groups ||| Field.bridges ||| Field.motors ||| Field.fans) fs) {a0 : Chip} (k : Cmd) (c : Chip) (h0 : Keeps fs a0 c) : ResKeeps fs a0 (bodyGroupEnable k c) := by
  unfold bodyGroupEnable
  repeat' first
    | extract_lets
    | with_reducible refine ResKeeps.ite ?_ ?_
    | with_reducible refine Keeps.ite ?_ ?_
    | with_reducible exact h0
    | with_reducible exact Keeps.refl _
    | with_reducible apply enableGroup_keeps (hm.sub (by decide))
    | with_reducible apply ResKeeps.done
    | with_reducible apply ResKeeps.accepted
    | with_reducible apply ResKeeps.acceptedDone
    | with_reducible apply ResKeeps.waiting
    | with_reducible apply ResKeeps.held
    | with_reducible apply ResKeeps.ok
    | with_reducible apply ResKeeps.okWith
    | with_reducible apply ResKeeps.err
    | with_reducible apply ResKeeps.badParam
    | with_reducible apply ResKeeps.badLength

theorem stopMotors_keeps {fs : Nat} (hm : Within (Field.routed ||| Field.slots ||| Field.produced ||| Field.slotWrites ||| Field.sessions ||| Field.staged ||| Field.lives ||| Field.cmds ||| Field.firmware ||| Field.image ||| Field.links ||| Field.fabric ||| Field.motors ||| Field.records ||| Field.valves ||| Field.cal ||| Field.zones ||| Field.staleWrites ||| Field.streams ||| Field.can) fs) {a0 : Chip} (k : Nat) (codeBit : Nat) (s : GroupSet) (c : Chip) (h0 : Keeps fs a0 c) : Keeps fs a0 (Chip.stopMotors k codeBit s c) := by
  unfold Chip.stopMotors
  repeat' first
    | extract_lets
    | with_reducible refine foldl_keeps (fun _ _ => ?_) ?_
    | with_reducible refine Keeps.ite ?_ ?_
    | with_reducible exact h0
    | with_reducible exact Keeps.refl _
    | with_reducible apply motorCut_keeps (hm.sub (by decide))
    | with_reducible apply stopFloat_keeps (hm.sub (by decide))
    | with_reducible apply motorBrake_keeps (hm.sub (by decide))

theorem stopGroup_keeps {fs : Nat} (hm : Within (Field.routed ||| Field.slots ||| Field.produced ||| Field.slotWrites ||| Field.sessions ||| Field.staged ||| Field.lives ||| Field.cmds ||| Field.firmware ||| Field.image ||| Field.links ||| Field.fabric ||| Field.groups ||| Field.motors ||| Field.records ||| Field.valves ||| Field.cal ||| Field.zones ||| Field.staleWrites ||| Field.streams ||| Field.can) fs) {a0 : Chip} (k : Nat) (codeBit : Nat) (st : GroupState) (c : Chip) (h0 : Keeps fs a0 c) : Keeps fs a0 (Chip.stopGroup k codeBit st c) := by
  unfold Chip.stopGroup
  repeat' first
    | (clear_value *; apply Touches.mk <;> intro hn <;> first | with_reducible rfl | exact hm.out hn rfl)
    | extract_lets
    | with_reducible refine Keeps.ite ?_ ?_
    | with_reducible exact h0
    | with_reducible exact Keeps.refl _
    | with_reducible apply stopMotors_keeps (hm.sub (by decide))
    | with_reducible apply orphan_keeps (hm.sub (by decide))
    | with_reducible apply setGroup_keeps (hm.sub (by decide))

theorem bodyGroupDisable_keeps {fs : Nat} (hm : Within (Field.routed ||| Field.slots ||| Field.produced ||| Field.slotWrites ||| Field.sessions ||| Field.staged ||| Field.lives ||| Field.cmds ||| Field.firmware ||| Field.image ||| Field.links ||| Field.fabric ||| Field.groups ||| Field.motors ||| Field.records ||| Field.valves ||| Field.cal ||| Field.zones ||| Field.staleWrites ||| Field.streams ||| Field.can) fs) {a0 : Chip} (k : Cmd) (c : Chip) (h0 : Keeps fs a0 c) : ResKeeps fs a0 (bodyGroupDisable k c) := by
  unfold bodyGroupDisable
  repeat' first
    | extract_lets
    | with_reducible refine ResKeeps.ite ?_ ?_
    | with_reducible refine Keeps.ite ?_ ?_
    | with_reducible exact h0
    | with_reducible exact Keeps.refl _
    | with_reducible apply stopGroup_keeps (hm.sub (by decide))
    | with_reducible apply ResKeeps.done
    | with_reducible apply ResKeeps.accepted
    | with_reducible apply ResKeeps.acceptedDone
    | with_reducible apply ResKeeps.waiting
    | with_reducible apply ResKeeps.held
    | with_reducible apply ResKeeps.ok
    | with_reducible apply ResKeeps.okWith
    | with_reducible apply ResKeeps.err
    | with_reducible apply ResKeeps.badParam
    | with_reducible apply ResKeeps.badLength

theorem forceSafe_keeps {fs : Nat} (hm : Within (Field.routed ||| Field.slots ||| Field.produced ||| Field.slotWrites ||| Field.sessions ||| Field.staged ||| Field.lives ||| Field.cmds ||| Field.firmware ||| Field.image ||| Field.links ||| Field.fabric ||| Field.groups ||| Field.motors ||| Field.records ||| Field.valves ||| Field.cal ||| Field.zones ||| Field.staleWrites ||| Field.streams ||| Field.can) fs) {a0 : Chip} (k : Nat) (cause : Nat) (c : Chip) (h0 : Keeps fs a0 c) : Keeps fs a0 (Chip.forceSafe k cause c) := by
  unfold Chip.forceSafe
  repeat' first
    | (clear_value *; apply Touches.mk <;> intro hn <;> first | with_reducible rfl | exact hm.out hn rfl)
    | extract_lets
    | with_reducible exact h0
    | with_reducible exact Keeps.refl _
    | with_reducible apply setGroup_keeps (hm.sub (by decide))
    | with_reducible apply stopGroup_keeps (hm.sub (by decide))

theorem haltGroup_keeps {fs : Nat} (hm : Within (Field.routed ||| Field.slots ||| Field.produced ||| Field.slotWrites ||| Field.sessions ||| Field.staged ||| Field.lives ||| Field.cmds ||| Field.firmware ||| Field.image ||| Field.links ||| Field.fabric ||| Field.groups ||| Field.motors ||| Field.records ||| Field.valves ||| Field.cal ||| Field.zones ||| Field.staleWrites ||| Field.streams ||| Field.can) fs) {a0 : Chip} (k : Nat) (cause : Nat) (c : Chip) (h0 : Keeps fs a0 c) : Keeps fs a0 (Chip.haltGroup k cause c) := by
  unfold Chip.haltGroup
  repeat' first
    | (clear_value *; apply Touches.mk <;> intro hn <;> first | with_reducible rfl | exact hm.out hn rfl)
    | extract_lets
    | with_reducible refine Keeps.ite ?_ ?_
    | with_reducible exact h0
    | with_reducible exact Keeps.refl _
    | with_reducible apply orphan_keeps (hm.sub (by decide))
    | with_reducible apply setGroup_keeps (hm.sub (by decide))
    | with_reducible apply stopGroup_keeps (hm.sub (by decide))

theorem haltGroups_keeps {fs : Nat} (hm : Within (Field.routed ||| Field.slots ||| Field.produced ||| Field.slotWrites ||| Field.sessions ||| Field.staged ||| Field.lives ||| Field.cmds ||| Field.firmware ||| Field.image ||| Field.links ||| Field.fabric ||| Field.groups ||| Field.motors ||| Field.records ||| Field.valves ||| Field.cal ||| Field.zones ||| Field.staleWrites ||| Field.streams ||| Field.can) fs) {a0 : Chip} (cause : Nat) (c : Chip) (h0 : Keeps fs a0 c) : Keeps fs a0 (Chip.haltGroups cause c) := by
  unfold Chip.haltGroups
  repeat' first
    | extract_lets
    | with_reducible refine foldl_keeps (fun _ _ => ?_) ?_
    | with_reducible exact h0
    | with_reducible exact Keeps.refl _
    | with_reducible apply haltGroup_keeps (hm.sub (by decide))

theorem holdExpires_keeps {fs : Nat} (hm : Within (Field.routed ||| Field.clk ||| Field.slots ||| Field.produced ||| Field.slotWrites ||| Field.sessions ||| Field.staged ||| Field.lives ||| Field.cmds ||| Field.firmware ||| Field.image ||| Field.rtc ||| Field.links ||| Field.fabric ||| Field.groups ||| Field.motors ||| Field.records ||| Field.valves ||| Field.cal ||| Field.zones ||| Field.staleWrites ||| Field.streams ||| Field.can) fs) {a0 : Chip} (k : Nat) (c : Chip) (h0 : Keeps fs a0 c) : Keeps fs a0 (Chip.holdExpires k c) := by
  unfold Chip.holdExpires
  repeat' first
    | (clear_value *; apply Touches.mk <;> intro hn <;> first | with_reducible rfl | exact hm.out hn rfl)
    | extract_lets
    | with_reducible exact h0
    | with_reducible exact Keeps.refl _
    | with_reducible apply setGroup_keeps (hm.sub (by decide))
    | with_reducible apply stopGroup_keeps (hm.sub (by decide))
    | with_reducible apply waitUntil_keeps (hm.sub (by decide))
    | with_reducible refine OptKeeps.of_eq ?_ (by assumption)
    | split

theorem releaseGroups_keeps {fs : Nat} (hm : Within (Field.routed ||| Field.slots ||| Field.produced ||| Field.slotWrites ||| Field.sessions ||| Field.staged ||| Field.lives ||| Field.cmds ||| Field.firmware ||| Field.image ||| Field.links ||| Field.fabric ||| Field.groups ||| Field.motors ||| Field.records ||| Field.valves ||| Field.cal ||| Field.zones ||| Field.staleWrites ||| Field.streams ||| Field.can) fs) {a0 : Chip} (c : Chip) (h0 : Keeps fs a0 c) : Keeps fs a0 (Chip.releaseGroups c) := by
  unfold Chip.releaseGroups
  repeat' first
    | extract_lets
    | with_reducible refine foldl_keeps (fun _ _ => ?_) ?_
    | with_reducible refine Keeps.ite ?_ ?_
    | with_reducible exact h0
    | with_reducible exact Keeps.refl _
    | with_reducible apply stopGroup_keeps (hm.sub (by decide))

theorem groupSafe_keeps {fs : Nat} (hm : Within (Field.routed ||| Field.slots ||| Field.produced ||| Field.slotWrites ||| Field.owners ||| Field.sessions ||| Field.staged ||| Field.lives ||| Field.cmds ||| Field.firmware ||| Field.image ||| Field.links ||| Field.fabric ||| Field.groups ||| Field.motors ||| Field.records ||| Field.valves ||| Field.cal ||| Field.zones ||| Field.staleWrites ||| Field.streams ||| Field.can) fs) {a0 : Chip} (k : Nat) (byMgt : Bool) (c : Chip) (h0 : Keeps fs a0 c) : Keeps fs a0 (Chip.groupSafe k byMgt c) := by
  unfold Chip.groupSafe
  repeat' first
    | extract_lets
    | with_reducible refine Keeps.ite ?_ ?_
    | with_reducible exact h0
    | with_reducible exact Keeps.refl _
    | with_reducible apply fire_keeps (hm.sub (by decide))
    | with_reducible apply setOwner_keeps (hm.sub (by decide))
    | with_reducible apply forceSafe_keeps (hm.sub (by decide))

theorem bodyGroupSafe_keeps {fs : Nat} (hm : Within (Field.routed ||| Field.slots ||| Field.produced ||| Field.slotWrites ||| Field.owners ||| Field.sessions ||| Field.staged ||| Field.lives ||| Field.cmds ||| Field.firmware ||| Field.image ||| Field.links ||| Field.fabric ||| Field.groups ||| Field.motors ||| Field.records ||| Field.valves ||| Field.cal ||| Field.zones ||| Field.staleWrites ||| Field.streams ||| Field.can) fs) {a0 : Chip} (k : Cmd) (c : Chip) (h0 : Keeps fs a0 c) : ResKeeps fs a0 (bodyGroupSafe k c) := by
  unfold bodyGroupSafe
  repeat' first
    | extract_lets
    | with_reducible refine ResKeeps.ite ?_ ?_
    | with_reducible refine Keeps.ite ?_ ?_
    | with_reducible exact h0
    | with_reducible exact Keeps.refl _
    | with_reducible apply groupSafe_keeps (hm.sub (by decide))
    | with_reducible apply ResKeeps.done
    | with_reducible apply ResKeeps.accepted
    | with_reducible apply ResKeeps.acceptedDone
    | with_reducible apply ResKeeps.waiting
    | with_reducible apply ResKeeps.held
    | with_reducible apply ResKeeps.ok
    | with_reducible apply ResKeeps.okWith
    | with_reducible apply ResKeeps.err
    | with_reducible apply ResKeeps.badParam
    | with_reducible apply ResKeeps.badLength

theorem clearGroupStatus_keeps {fs : Nat} (hm : Within (Field.groups) fs) {a0 : Chip} (k : Nat) (m : Nat) (c : Chip) (h0 : Keeps fs a0 c) : Keeps fs a0 (Chip.clearGroupStatus k m c) := by
  unfold Chip.clearGroupStatus
  repeat' first
    | (clear_value *; apply Touches.mk <;> intro hn <;> first | with_reducible rfl | exact hm.out hn rfl)
    | extract_lets
    | with_reducible refine Keeps.ite ?_ ?_
    | with_reducible exact h0
    | with_reducible exact Keeps.refl _
    | with_reducible apply setGroup_keeps (hm.sub (by decide))

end Sys2Proof.Machine
end

