-- ==== Sys2Proof/Laws/KeepsOrrery.lean ====
section
/-! SUPPORT. What Machine/Orrery.lean keeps. -/

namespace Sys2Proof.Machine

theorem startFit_keeps {fs : Nat} (hm : Within (Field.zones) fs) {a0 : Chip} (z : Nat) (c : Chip) (h0 : Keeps fs a0 c) : Keeps fs a0 (Chip.startFit z c) := by
  unfold Chip.startFit
  repeat' first
    | (clear_value *; apply Touches.mk <;> intro hn <;> first | with_reducible rfl | exact hm.out hn rfl)
    | extract_lets
    | with_reducible exact h0
    | with_reducible exact Keeps.refl _
    | with_reducible apply setZone_keeps (hm.sub (by decide))

theorem formTransition_keeps {fs : Nat} (hm : Within (Field.zones) fs) {a0 : Chip} (z : Nat) (c : Chip) (h0 : Keeps fs a0 c) : Keeps fs a0 (Chip.formTransition z c) := by
  unfold Chip.formTransition
  repeat' first
    | (clear_value *; apply Touches.mk <;> intro hn <;> first | with_reducible rfl | exact hm.out hn rfl)
    | extract_lets
    | with_reducible exact h0
    | with_reducible exact Keeps.refl _
    | with_reducible apply setZone_keeps (hm.sub (by decide))

theorem closeWindow_keeps {fs : Nat} (hm : Within (Field.zones) fs) {a0 : Chip} (z : Nat) (f : FitSt) (c : Chip) (h0 : Keeps fs a0 c) : Keeps fs a0 (Chip.closeWindow z f c) := by
  unfold Chip.closeWindow
  repeat' first
    | (clear_value *; apply Touches.mk <;> intro hn <;> first | with_reducible rfl | exact hm.out hn rfl)
    | extract_lets
    | with_reducible refine Keeps.ite ?_ ?_
    | with_reducible exact h0
    | with_reducible exact Keeps.refl _
    | with_reducible apply formTransition_keeps (hm.sub (by decide))
    | with_reducible apply setZone_keeps (hm.sub (by decide))

theorem modelWritten_keeps {fs : Nat} (hm : Within (Field.zones) fs) {a0 : Chip} (z : Nat) (c : Chip) (h0 : Keeps fs a0 c) : Keeps fs a0 (Chip.modelWritten z c) := by
  unfold Chip.modelWritten
  repeat' first
    | (clear_value *; apply Touches.mk <;> intro hn <;> first | with_reducible rfl | exact hm.out hn rfl)
    | extract_lets
    | with_reducible refine Keeps.ite ?_ ?_
    | with_reducible exact h0
    | with_reducible exact Keeps.refl _
    | with_reducible apply formTransition_keeps (hm.sub (by decide))
    | with_reducible apply startFit_keeps (hm.sub (by decide))
    | with_reducible apply setZone_keeps (hm.sub (by decide))

theorem fitUpdate_keeps {fs : Nat} (hm : Within (Field.routed ||| Field.zones) fs) {a0 : Chip} (z : Nat) (x : List Int) (u : List Int) (y : Int) (r : Int) (c : Chip) (h0 : Keeps fs a0 c) : Keeps fs a0 (Chip.fitUpdate z x u y r c) := by
  unfold Chip.fitUpdate
  repeat' first
    | (clear_value *; apply Touches.mk <;> intro hn <;> first | with_reducible rfl | exact hm.out hn rfl)
    | extract_lets
    | with_reducible refine Keeps.ite ?_ ?_
    | with_reducible exact h0
    | with_reducible exact Keeps.refl _
    | with_reducible apply closeWindow_keeps (hm.sub (by decide))
    | with_reducible apply fire_keeps (hm.sub (by decide))
    | with_reducible apply setZone_keeps (hm.sub (by decide))
    | with_reducible refine OptKeeps.of_eq ?_ (by assumption)
    | split

theorem substitute_keeps {fs : Nat} (hm : Within (Field.overrides) fs) {a0 : Chip} (z : Nat) (on : Bool) (c : Chip) (h0 : Keeps fs a0 c) : Keeps fs a0 (Chip.substitute z on c) := by
  unfold Chip.substitute
  repeat' first
    | (clear_value *; apply Touches.mk <;> intro hn <;> first | with_reducible rfl | exact hm.out hn rfl)
    | (apply Touches.mk <;> intro hn <;> first | with_reducible rfl | exact hm.out hn rfl)
    | extract_lets
    | with_reducible exact h0
    | with_reducible exact Keeps.refl _
    | with_reducible refine OptKeeps.of_eq ?_ (by assumption)
    | split
    | with_reducible refine Keeps.update ?_ ?_

theorem endSuspect_keeps {fs : Nat} (hm : Within (Field.routed ||| Field.overrides ||| Field.zones) fs) {a0 : Chip} (z : Nat) (reason : Nat) (takeY : Bool) (c : Chip) (h0 : Keeps fs a0 c) : Keeps fs a0 (Chip.endSuspect z reason takeY c) := by
  unfold Chip.endSuspect
  repeat' first
    | (clear_value *; apply Touches.mk <;> intro hn <;> first | with_reducible rfl | exact hm.out hn rfl)
    | extract_lets
    | with_reducible refine Keeps.ite ?_ ?_
    | with_reducible exact h0
    | with_reducible exact Keeps.refl _
    | with_reducible apply fire_keeps (hm.sub (by decide))
    | with_reducible apply substitute_keeps (hm.sub (by decide))
    | with_reducible apply setZone_keeps (hm.sub (by decide))

theorem reinit_keeps {fs : Nat} (hm : Within (Field.routed ||| Field.overrides ||| Field.zones) fs) {a0 : Chip} (z : Nat) (c : Chip) (h0 : Keeps fs a0 c) : Keeps fs a0 (Chip.reinit z c) := by
  unfold Chip.reinit
  repeat' first
    | (clear_value *; apply Touches.mk <;> intro hn <;> first | with_reducible rfl | exact hm.out hn rfl)
    | extract_lets
    | with_reducible exact h0
    | with_reducible exact Keeps.refl _
    | with_reducible apply setZone_keeps (hm.sub (by decide))
    | with_reducible apply formTransition_keeps (hm.sub (by decide))
    | with_reducible apply endSuspect_keeps (hm.sub (by decide))

theorem reinitTimeout_keeps {fs : Nat} (hm : Within (Field.clk ||| Field.rtc ||| Field.zones) fs) {a0 : Chip} (z : Nat) (c : Chip) (h0 : Keeps fs a0 c) : Keeps fs a0 (Chip.reinitTimeout z c) := by
  unfold Chip.reinitTimeout
  repeat' first
    | (clear_value *; apply Touches.mk <;> intro hn <;> first | with_reducible rfl | exact hm.out hn rfl)
    | extract_lets
    | with_reducible refine Keeps.ite ?_ ?_
    | with_reducible exact h0
    | with_reducible exact Keeps.refl _
    | with_reducible apply setZone_keeps (hm.sub (by decide))
    | with_reducible apply waitUntil_keeps (hm.sub (by decide))
    | with_reducible refine OptKeeps.of_eq ?_ (by assumption)
    | split

theorem suspendOver_keeps {fs : Nat} (hm : Within (Field.clk ||| Field.rtc ||| Field.zones) fs) {a0 : Chip} (z : Nat) (c : Chip) (h0 : Keeps fs a0 c) : Keeps fs a0 (Chip.suspendOver z c) := by
  unfold Chip.suspendOver
  repeat' first
    | (clear_value *; apply Touches.mk <;> intro hn <;> first | with_reducible rfl | exact hm.out hn rfl)
    | extract_lets
    | with_reducible exact h0
    | with_reducible exact Keeps.refl _
    | with_reducible apply setZone_keeps (hm.sub (by decide))
    | with_reducible apply waitUntil_keeps (hm.sub (by decide))
    | with_reducible refine OptKeeps.of_eq ?_ (by assumption)
    | split

theorem judge_keeps {fs : Nat} (hm : Within (Field.routed ||| Field.overrides ||| Field.zones) fs) {a0 : Chip} (z : Nat) (t : Nat) (r : Option Int) (c : Chip) (h0 : Keeps fs a0 c) : Keeps fs a0 (Chip.judge z t r c) := by
  unfold Chip.judge
  extract_lets s thr persist exceeds run good since c1 s2 c2
  have h1 : Keeps fs a0 c1 := setZone_keeps (hm.sub (by decide)) _ _ _ h0
  have h2 : Keeps fs a0 c2 := setZone_keeps (hm.sub (by decide)) _ _ _ h1
  clear_value c2 s2 c1 since good run exceeds
  refine Keeps.ite ?_ (Keeps.ite (fire_keeps (hm.sub (by decide)) _ _ _ (Keeps.ite (substitute_keeps (hm.sub (by decide)) _ _ _ h2) h2)) h1)
  cases since with
  | none => exact h1
  | some t0 => exact Keeps.ite (endSuspect_keeps (hm.sub (by decide)) _ _ _ _ h1) h1

theorem writeZone_keeps {fs : Nat} (hm : Within (Field.slots ||| Field.overrides ||| Field.produced ||| Field.slotWrites ||| Field.zones ||| Field.staleWrites ||| Field.loops) fs) {a0 : Chip} (z : Nat) (t : Nat) (remote : Bool) (c : Chip) (h0 : Keeps fs a0 c) : Keeps fs a0 (Chip.writeZone z t remote c) := by
  unfold Chip.writeZone
  repeat' first
    | (clear_value *; apply Touches.mk <;> intro hn <;> first | with_reducible rfl | exact hm.out hn rfl)
    | extract_lets
    | with_reducible refine Keeps.ite ?_ ?_
    | with_reducible exact h0
    | with_reducible exact Keeps.refl _
    | with_reducible apply writeSlot_keeps (hm.sub (by decide))
    | with_reducible apply substitute_keeps (hm.sub (by decide))
    | with_reducible apply produce_keeps (hm.sub (by decide))
    | with_reducible refine OptKeeps.of_eq ?_ (by assumption)
    | split
    | with_reducible refine Keeps.update ?_ ?_

theorem updateZone_keeps {fs : Nat} (hm : Within (Field.routed ||| Field.slots ||| Field.overrides ||| Field.produced ||| Field.slotWrites ||| Field.zones ||| Field.staleWrites) fs) {a0 : Chip} (z : Nat) (d : Nat) (t : Nat) (c : Chip) (h0 : Keeps fs a0 c) : Keeps fs a0 (Chip.updateZone z d t c) := by
  unfold Chip.updateZone
  extract_lets s0 y c0 s2 ready
  have h1 : Keeps fs a0 c0 := setZone_keeps (hm.sub (by decide)) _ _ _ h0
  have hr : OptKeeps fs a0 ready := by
    with_reducible dsimp only [ready]
    cases s0.initUntil with
    | none => exact h1
    | some t0 =>
      cases y with
      | none => exact OptKeeps.none
      | some v => exact setZone_keeps (hm.sub (by decide)) _ _ _ h1
  clear_value ready c0
  cases ready with
  | none => exact h1
  | some c1 =>
    have h2 : Keeps fs a0 c1 := hr
    dsimp only
    refine writeZone_keeps (hm.sub (by decide)) _ _ _ _ (judge_keeps (hm.sub (by decide)) _ _ _ _ ?_)
    cases y with
    | none => exact setZone_keeps (hm.sub (by decide)) _ _ _ h2
    | some v => exact Keeps.ite (fitUpdate_keeps (hm.sub (by decide)) _ _ _ _ _ _ (setZone_keeps (hm.sub (by decide)) _ _ _ h2)) (setZone_keeps (hm.sub (by decide)) _ _ _ h2)

theorem zoneRow_keeps {fs : Nat} (hm : Within (Field.routed ||| Field.clk ||| Field.slots ||| Field.overrides ||| Field.produced ||| Field.slotWrites ||| Field.rtc ||| Field.zones ||| Field.staleWrites) fs) {a0 : Chip} (z : Nat) (c : Chip) (h0 : Keeps fs a0 c) : Keeps fs a0 (Chip.zoneRow z c) := by
  unfold Chip.zoneRow
  repeat' first
    | (clear_value *; apply Touches.mk <;> intro hn <;> first | with_reducible rfl | exact hm.out hn rfl)
    | extract_lets
    | with_reducible refine Keeps.ite ?_ ?_
    | with_reducible exact h0
    | with_reducible exact Keeps.refl _
    | with_reducible apply updateZone_keeps (hm.sub (by decide))
    | with_reducible apply waitTransit_keeps (hm.sub (by decide))
    | with_reducible refine OptKeeps.of_eq ?_ (by assumption)
    | split

theorem writePresence_keeps {fs : Nat} (hm : Within (Field.slots ||| Field.produced ||| Field.slotWrites ||| Field.zones ||| Field.staleWrites ||| Field.loops) fs) {a0 : Chip} (z : Nat) (c : Chip) (h0 : Keeps fs a0 c) : Keeps fs a0 (Chip.writePresence z c) := by
  unfold Chip.writePresence
  repeat' first
    | (clear_value *; apply Touches.mk <;> intro hn <;> first | with_reducible rfl | exact hm.out hn rfl)
    | extract_lets
    | with_reducible refine Keeps.ite ?_ ?_
    | with_reducible exact h0
    | with_reducible exact Keeps.refl _
    | with_reducible apply produceOpt_keeps (hm.sub (by decide))
    | with_reducible apply setZone_keeps (hm.sub (by decide))

theorem presenceTo_keeps {fs : Nat} (hm : Within (Field.routed ||| Field.slots ||| Field.produced ||| Field.slotWrites ||| Field.zones ||| Field.staleWrites) fs) {a0 : Chip} (z : Nat) (p : Presence) (reason : Nat) (hold : Option Nat) (c : Chip) (h0 : Keeps fs a0 c) : Keeps fs a0 (Chip.presenceTo z p reason hold c) := by
  unfold Chip.presenceTo
  repeat' first
    | (clear_value *; apply Touches.mk <;> intro hn <;> first | with_reducible rfl | exact hm.out hn rfl)
    | extract_lets
    | with_reducible exact h0
    | with_reducible exact Keeps.refl _
    | with_reducible apply fire_keeps (hm.sub (by decide))
    | with_reducible apply writePresence_keeps (hm.sub (by decide))
    | with_reducible apply setZone_keeps (hm.sub (by decide))

theorem startPresence_keeps {fs : Nat} (hm : Within (Field.routed ||| Field.slots ||| Field.produced ||| Field.slotWrites ||| Field.zones ||| Field.staleWrites) fs) {a0 : Chip} (z : Nat) (c : Chip) (h0 : Keeps fs a0 c) : Keeps fs a0 (Chip.startPresence z c) := by
  unfold Chip.startPresence
  repeat' first
    | (clear_value *; apply Touches.mk <;> intro hn <;> first | with_reducible rfl | exact hm.out hn rfl)
    | extract_lets
    | with_reducible exact h0
    | with_reducible exact Keeps.refl _
    | with_reducible apply presenceTo_keeps (hm.sub (by decide))
    | with_reducible apply setZone_keeps (hm.sub (by decide))

theorem evidence_keeps {fs : Nat} (hm : Within (Field.routed ||| Field.slots ||| Field.produced ||| Field.slotWrites ||| Field.zones ||| Field.staleWrites) fs) {a0 : Chip} (z : Nat) (i : Nat) (kind : Nat) (c : Chip) (h0 : Keeps fs a0 c) : Keeps fs a0 (Chip.evidence z i kind c) := by
  unfold Chip.evidence
  extract_lets s1 c1 s closed within ev
  have h1 : Keeps fs a0 c1 := setZone_keeps (hm.sub (by decide)) _ _ _ h0
  clear_value closed within ev s c1
  cases s.presence with
  | vacant => exact Keeps.ite (presenceTo_keeps (hm.sub (by decide)) _ _ _ _ _ h1) (setZone_keeps (hm.sub (by decide)) _ _ _ h1)
  | latched => exact h1
  | occupied =>
    dsimp only
    split
    · exact presenceTo_keeps (hm.sub (by decide)) _ _ _ _ _ (setZone_keeps (hm.sub (by decide)) _ _ _ h1)
    · exact setZone_keeps (hm.sub (by decide)) _ _ _ h1

theorem unlatch_keeps {fs : Nat} (hm : Within (Field.routed ||| Field.slots ||| Field.produced ||| Field.slotWrites ||| Field.zones ||| Field.staleWrites) fs) {a0 : Chip} (z : Nat) (c : Chip) (h0 : Keeps fs a0 c) : Keeps fs a0 (Chip.unlatch z c) := by
  unfold Chip.unlatch
  repeat' first
    | (clear_value *; apply Touches.mk <;> intro hn <;> first | with_reducible rfl | exact hm.out hn rfl)
    | extract_lets
    | with_reducible exact h0
    | with_reducible exact Keeps.refl _
    | with_reducible apply presenceTo_keeps (hm.sub (by decide))
    | with_reducible apply setZone_keeps (hm.sub (by decide))

theorem setAsserted_keeps {fs : Nat} (hm : Within (Field.routed ||| Field.slots ||| Field.produced ||| Field.slotWrites ||| Field.zones ||| Field.staleWrites) fs) {a0 : Chip} (z : Nat) (i : Nat) (kind : Nat) (on : Bool) (c : Chip) (h0 : Keeps fs a0 c) : Keeps fs a0 (Chip.setAsserted z i kind on c) := by
  unfold Chip.setAsserted
  repeat' first
    | (clear_value *; apply Touches.mk <;> intro hn <;> first | with_reducible rfl | exact hm.out hn rfl)
    | extract_lets
    | with_reducible refine Keeps.ite ?_ ?_
    | with_reducible exact h0
    | with_reducible exact Keeps.refl _
    | with_reducible apply evidence_keeps (hm.sub (by decide))
    | with_reducible apply setZone_keeps (hm.sub (by decide))

theorem setContact_keeps {fs : Nat} (hm : Within (Field.routed ||| Field.slots ||| Field.produced ||| Field.slotWrites ||| Field.zones ||| Field.staleWrites) fs) {a0 : Chip} (z : Nat) (i : Nat) (closed : Bool) (c : Chip) (h0 : Keeps fs a0 c) : Keeps fs a0 (Chip.setContact z i closed c) := by
  unfold Chip.setContact
  repeat' first
    | (clear_value *; apply Touches.mk <;> intro hn <;> first | with_reducible rfl | exact hm.out hn rfl)
    | extract_lets
    | with_reducible refine Keeps.ite ?_ ?_
    | with_reducible exact h0
    | with_reducible exact Keeps.refl _
    | with_reducible apply evidence_keeps (hm.sub (by decide))
    | with_reducible apply unlatch_keeps (hm.sub (by decide))
    | with_reducible apply setZone_keeps (hm.sub (by decide))

theorem presenceRow_keeps {fs : Nat} (hm : Within (Field.routed ||| Field.slots ||| Field.produced ||| Field.slotWrites ||| Field.zones ||| Field.staleWrites) fs) {a0 : Chip} (z : Nat) (i : Nat) (c : Chip) (h0 : Keeps fs a0 c) : Keeps fs a0 (Chip.presenceRow z i c) := by
  unfold Chip.presenceRow
  repeat' first
    | (clear_value *; apply Touches.mk <;> intro hn <;> first | with_reducible rfl | exact hm.out hn rfl)
    | extract_lets
    | with_reducible refine Keeps.ite ?_ ?_
    | with_reducible exact h0
    | with_reducible exact Keeps.refl _
    | with_reducible apply setAsserted_keeps (hm.sub (by decide))
    | with_reducible apply setContact_keeps (hm.sub (by decide))
    | with_reducible apply evidence_keeps (hm.sub (by decide))
    | with_reducible apply setZone_keeps (hm.sub (by decide))
    | with_reducible refine OptKeeps.of_eq ?_ (by assumption)
    | split

theorem sourceLost_keeps {fs : Nat} (hm : Within (Field.routed ||| Field.slots ||| Field.produced ||| Field.slotWrites ||| Field.zones ||| Field.staleWrites) fs) {a0 : Chip} (z : Nat) (i : Nat) (c : Chip) (h0 : Keeps fs a0 c) : Keeps fs a0 (Chip.sourceLost z i c) := by
  unfold Chip.sourceLost
  repeat' first
    | (clear_value *; apply Touches.mk <;> intro hn <;> first | with_reducible rfl | exact hm.out hn rfl)
    | extract_lets
    | with_reducible refine Keeps.ite ?_ ?_
    | with_reducible exact h0
    | with_reducible exact Keeps.refl _
    | with_reducible apply setAsserted_keeps (hm.sub (by decide))
    | with_reducible apply unlatch_keeps (hm.sub (by decide))
    | with_reducible apply setZone_keeps (hm.sub (by decide))

theorem holdExpiry_keeps {fs : Nat} (hm : Within (Field.routed ||| Field.clk ||| Field.slots ||| Field.produced ||| Field.slotWrites ||| Field.rtc ||| Field.zones ||| Field.staleWrites) fs) {a0 : Chip} (z : Nat) (c : Chip) (h0 : Keeps fs a0 c) : Keeps fs a0 (Chip.holdExpiry z c) := by
  unfold Chip.holdExpiry
  repeat' first
    | (clear_value *; apply Touches.mk <;> intro hn <;> first | with_reducible rfl | exact hm.out hn rfl)
    | extract_lets
    | with_reducible refine Keeps.ite ?_ ?_
    | with_reducible exact h0
    | with_reducible exact Keeps.refl _
    | with_reducible apply presenceTo_keeps (hm.sub (by decide))
    | with_reducible apply waitTransit_keeps (hm.sub (by decide))
    | with_reducible refine OptKeeps.of_eq ?_ (by assumption)
    | split

theorem sourcesChanged_keeps {fs : Nat} (hm : Within (Field.routed ||| Field.slots ||| Field.produced ||| Field.slotWrites ||| Field.zones ||| Field.staleWrites) fs) {a0 : Chip} (old : Chip) (z : Nat) (c : Chip) (h0 : Keeps fs a0 c) : Keeps fs a0 (Chip.sourcesChanged old z c) := by
  unfold Chip.sourcesChanged
  repeat' first
    | (clear_value *; apply Touches.mk <;> intro hn <;> first | with_reducible rfl | exact hm.out hn rfl)
    | extract_lets
    | with_reducible refine Keeps.ite ?_ ?_
    | with_reducible exact h0
    | with_reducible exact Keeps.refl _
    | with_reducible apply unlatch_keeps (hm.sub (by decide))
    | with_reducible apply setZone_keeps (hm.sub (by decide))

theorem presRefresh_keeps {fs : Nat} (hm : Within (Field.clk ||| Field.slots ||| Field.produced ||| Field.slotWrites ||| Field.rtc ||| Field.zones ||| Field.staleWrites ||| Field.loops) fs) {a0 : Chip} (z : Nat) (c : Chip) (h0 : Keeps fs a0 c) : Keeps fs a0 (Chip.presRefresh z c) := by
  unfold Chip.presRefresh
  repeat' first
    | extract_lets
    | with_reducible refine Keeps.ite ?_ ?_
    | with_reducible exact h0
    | with_reducible exact Keeps.refl _
    | with_reducible apply writePresence_keeps (hm.sub (by decide))
    | with_reducible apply waitUntil_keeps (hm.sub (by decide))

theorem motion_keeps {fs : Nat} (hm : Within (Field.zones) fs) {a0 : Chip} (port : Nat) (c : Chip) (h0 : Keeps fs a0 c) : Keeps fs a0 (Chip.motion port c) := by
  unfold Chip.motion
  repeat' first
    | (clear_value *; apply Touches.mk <;> intro hn <;> first | with_reducible rfl | exact hm.out hn rfl)
    | (apply Touches.mk <;> intro hn <;> first | with_reducible rfl | exact hm.out hn rfl)
    | extract_lets
    | with_reducible refine Keeps.ite ?_ ?_
    | with_reducible exact h0
    | with_reducible exact Keeps.refl _
    | with_reducible refine Keeps.update ?_ ?_

theorem enableZone_keeps {fs : Nat} (hm : Within (Field.routed ||| Field.slots ||| Field.overrides ||| Field.produced ||| Field.slotWrites ||| Field.zones ||| Field.staleWrites) fs) {a0 : Chip} (z : Nat) (c : Chip) (h0 : Keeps fs a0 c) : Keeps fs a0 (Chip.enableZone z c) := by
  unfold Chip.enableZone
  repeat' first
    | (clear_value *; apply Touches.mk <;> intro hn <;> first | with_reducible rfl | exact hm.out hn rfl)
    | extract_lets
    | with_reducible refine Keeps.ite ?_ ?_
    | with_reducible exact h0
    | with_reducible exact Keeps.refl _
    | with_reducible apply startPresence_keeps (hm.sub (by decide))
    | with_reducible apply startFit_keeps (hm.sub (by decide))
    | with_reducible apply reinit_keeps (hm.sub (by decide))
    | with_reducible apply setZone_keeps (hm.sub (by decide))

theorem disableZone_keeps {fs : Nat} (hm : Within (Field.routed ||| Field.overrides ||| Field.zones) fs) {a0 : Chip} (z : Nat) (c : Chip) (h0 : Keeps fs a0 c) : Keeps fs a0 (Chip.disableZone z c) := by
  unfold Chip.disableZone
  repeat' first
    | (clear_value *; apply Touches.mk <;> intro hn <;> first | with_reducible rfl | exact hm.out hn rfl)
    | extract_lets
    | with_reducible exact h0
    | with_reducible exact Keeps.refl _
    | with_reducible apply setZone_keeps (hm.sub (by decide))
    | with_reducible apply endSuspect_keeps (hm.sub (by decide))

theorem predictionRow_keeps {fs : Nat} (hm : Within (Field.routed ||| Field.sessions ||| Field.staged ||| Field.lives ||| Field.cmds ||| Field.firmware ||| Field.image ||| Field.links ||| Field.fabric ||| Field.cal ||| Field.zones ||| Field.predictions ||| Field.streams ||| Field.can) fs) {a0 : Chip} (c : Chip) (h0 : Keeps fs a0 c) : Keeps fs a0 (Chip.predictionRow c) := by
  unfold Chip.predictionRow
  repeat' first
    | (clear_value *; apply Touches.mk <;> intro hn <;> first | with_reducible rfl | exact hm.out hn rfl)
    | extract_lets
    | with_reducible refine Keeps.ite ?_ ?_
    | with_reducible exact h0
    | with_reducible exact Keeps.refl _
    | with_reducible apply finishTag_keeps (hm.sub (by decide))
    | with_reducible apply setZone_keeps (hm.sub (by decide))
    | with_reducible refine OptKeeps.of_eq ?_ (by assumption)
    | split
    | with_reducible refine Keeps.update ?_ ?_

theorem bodyZoneStatus_keeps {fs : Nat} (hm : Within 0 fs) {a0 : Chip} (k : Cmd) (c : Chip) (h0 : Keeps fs a0 c) : ResKeeps fs a0 (bodyZoneStatus k c) := by
  unfold bodyZoneStatus
  repeat' first
    | extract_lets
    | with_reducible refine ResKeeps.ite ?_ ?_
    | with_reducible refine Keeps.ite ?_ ?_
    | with_reducible exact h0
    | with_reducible exact Keeps.refl _
    | with_reducible apply ResKeeps.done
    | with_reducible apply ResKeeps.accepted
    | with_reducible apply ResKeeps.acceptedDone
    | with_reducible apply ResKeeps.waiting
    | with_reducible apply ResKeeps.held
    | with_reducible apply ResKeeps.ok
    | with_reducible apply ResKeeps.okWith
    | with_reducible apply ResKeeps.err
    | with_reducible apply ResKeeps.badParam
    | with_reducible apply ResKeeps.badLength

theorem bodyFitEnable_keeps {fs : Nat} (hm : Within (Field.zones) fs) {a0 : Chip} (k : Cmd) (c : Chip) (h0 : Keeps fs a0 c) : ResKeeps fs a0 (bodyFitEnable k c) := by
  unfold bodyFitEnable
  repeat' first
    | extract_lets
    | with_reducible refine ResKeeps.ite ?_ ?_
    | with_reducible refine Keeps.ite ?_ ?_
    | with_reducible exact h0
    | with_reducible exact Keeps.refl _
    | with_reducible apply startFit_keeps (hm.sub (by decide))
    | with_reducible apply ResKeeps.done
    | with_reducible apply ResKeeps.accepted
    | with_reducible apply ResKeeps.acceptedDone
    | with_reducible apply ResKeeps.waiting
    | with_reducible apply ResKeeps.held
    | with_reducible apply ResKeeps.ok
    | with_reducible apply ResKeeps.okWith
    | with_reducible apply ResKeeps.err
    | with_reducible apply ResKeeps.badParam
    | with_reducible apply ResKeeps.badLength

theorem bodyFitDisable_keeps {fs : Nat} (hm : Within (Field.zones) fs) {a0 : Chip} (k : Cmd) (c : Chip) (h0 : Keeps fs a0 c) : ResKeeps fs a0 (bodyFitDisable k c) := by
  unfold bodyFitDisable
  repeat' first
    | (clear_value *; apply Touches.mk <;> intro hn <;> first | with_reducible rfl | exact hm.out hn rfl)
    | extract_lets
    | with_reducible refine ResKeeps.ite ?_ ?_
    | with_reducible refine Keeps.ite ?_ ?_
    | with_reducible exact h0
    | with_reducible exact Keeps.refl _
    | with_reducible apply setZone_keeps (hm.sub (by decide))
    | with_reducible apply ResKeeps.done
    | with_reducible apply ResKeeps.accepted
    | with_reducible apply ResKeeps.acceptedDone
    | with_reducible apply ResKeeps.waiting
    | with_reducible apply ResKeeps.held
    | with_reducible apply ResKeeps.ok
    | with_reducible apply ResKeeps.okWith
    | with_reducible apply ResKeeps.err
    | with_reducible apply ResKeeps.badParam
    | with_reducible apply ResKeeps.badLength

theorem bodySuspectOverride_keeps {fs : Nat} (hm : Within (Field.routed ||| Field.overrides ||| Field.zones) fs) {a0 : Chip} (k : Cmd) (c : Chip) (h0 : Keeps fs a0 c) : ResKeeps fs a0 (bodySuspectOverride k c) := by
  unfold bodySuspectOverride
  repeat' first
    | (clear_value *; apply Touches.mk <;> intro hn <;> first | with_reducible rfl | exact hm.out hn rfl)
    | extract_lets
    | with_reducible refine ResKeeps.ite ?_ ?_
    | with_reducible refine Keeps.ite ?_ ?_
    | with_reducible exact h0
    | with_reducible exact Keeps.refl _
    | with_reducible apply setZone_keeps (hm.sub (by decide))
    | with_reducible apply endSuspect_keeps (hm.sub (by decide))
    | with_reducible apply ResKeeps.done
    | with_reducible apply ResKeeps.accepted
    | with_reducible apply ResKeeps.acceptedDone
    | with_reducible apply ResKeeps.waiting
    | with_reducible apply ResKeeps.held
    | with_reducible apply ResKeeps.ok
    | with_reducible apply ResKeeps.okWith
    | with_reducible apply ResKeeps.err
    | with_reducible apply ResKeeps.badParam
    | with_reducible apply ResKeeps.badLength

theorem bodyPresenceRead_keeps {fs : Nat} (hm : Within 0 fs) {a0 : Chip} (k : Cmd) (c : Chip) (h0 : Keeps fs a0 c) : ResKeeps fs a0 (bodyPresenceRead k c) := by
  unfold bodyPresenceRead
  repeat' first
    | (clear_value *; apply Touches.mk <;> intro hn <;> first | with_reducible rfl | exact hm.out hn rfl)
    | extract_lets
    | with_reducible refine ResKeeps.ite ?_ ?_
    | with_reducible refine Keeps.ite ?_ ?_
    | with_reducible exact h0
    | with_reducible exact Keeps.refl _
    | with_reducible apply ResKeeps.done
    | with_reducible apply ResKeeps.accepted
    | with_reducible apply ResKeeps.acceptedDone
    | with_reducible apply ResKeeps.waiting
    | with_reducible apply ResKeeps.held
    | with_reducible apply ResKeeps.ok
    | with_reducible apply ResKeeps.okWith
    | with_reducible apply ResKeeps.err
    | with_reducible apply ResKeeps.badParam
    | with_reducible apply ResKeeps.badLength

theorem bodyPredictStart_keeps {fs : Nat} (hm : Within (Field.predictions) fs) {a0 : Chip} (k : Cmd) (c : Chip) (h0 : Keeps fs a0 c) : ResKeeps fs a0 (bodyPredictStart k c) := by
  unfold bodyPredictStart
  repeat' first
    | (clear_value *; apply Touches.mk <;> intro hn <;> first | with_reducible rfl | exact hm.out hn rfl)
    | extract_lets
    | with_reducible refine ResKeeps.ite ?_ ?_
    | with_reducible refine Keeps.ite ?_ ?_
    | with_reducible exact h0
    | with_reducible exact Keeps.refl _
    | with_reducible apply ResKeeps.done
    | with_reducible apply ResKeeps.accepted
    | with_reducible apply ResKeeps.acceptedDone
    | with_reducible apply ResKeeps.waiting
    | with_reducible apply ResKeeps.held
    | with_reducible apply ResKeeps.ok
    | with_reducible apply ResKeeps.okWith
    | with_reducible apply ResKeeps.err
    | with_reducible apply ResKeeps.badParam
    | with_reducible apply ResKeeps.badLength
    | with_reducible refine Keeps.update ?_ ?_

end Sys2Proof.Machine
end

