-- ==== Sys2Proof/Laws/KeepsSampler.lean ====
section
/-! SUPPORT. What Machine/Sampler.lean keeps. -/

namespace Sys2Proof.Machine

theorem setSeq_keeps {fs : Nat} (hm : Within (Field.sampler) fs) {a0 : Chip} (h : Nat) (s : SeqSt) (c : Chip) (h0 : Keeps fs a0 c) : Keeps fs a0 (Chip.setSeq h s c) := by
  unfold Chip.setSeq
  repeat' first
    | (clear_value *; apply Touches.mk <;> intro hn <;> first | with_reducible rfl | exact hm.out hn rfl)
    | extract_lets
    | with_reducible exact h0
    | with_reducible exact Keeps.refl _
    | with_reducible refine Keeps.update ?_ ?_

theorem setSampler_keeps {fs : Nat} (hm : Within (Field.sampler) fs) {a0 : Chip} (f : SamplerSt → SamplerSt) (c : Chip) (h0 : Keeps fs a0 c) : Keeps fs a0 (Chip.setSampler f c) := by
  unfold Chip.setSampler
  repeat' first
    | (clear_value *; apply Touches.mk <;> intro hn <;> first | with_reducible rfl | exact hm.out hn rfl)
    | (apply Touches.mk <;> intro hn <;> first | with_reducible rfl | exact hm.out hn rfl)
    | extract_lets
    | with_reducible exact h0
    | with_reducible exact Keeps.refl _
    | with_reducible refine Keeps.update ?_ ?_

theorem noteSeq_keeps {fs : Nat} (hm : Within (Field.sampler) fs) {a0 : Chip} (was : SeqSet) (h : Nat) (c : Chip) (h0 : Keeps fs a0 c) : Keeps fs a0 (Chip.noteSeq was h c) := by
  unfold Chip.noteSeq
  repeat' first
    | (clear_value *; apply Touches.mk <;> intro hn <;> first | with_reducible rfl | exact hm.out hn rfl)
    | extract_lets
    | with_reducible refine Keeps.ite ?_ ?_
    | with_reducible exact h0
    | with_reducible exact Keeps.refl _
    | with_reducible apply setSeq_keeps (hm.sub (by decide))

theorem armSeq_keeps {fs : Nat} (hm : Within (Field.sampler) fs) {a0 : Chip} (h : Nat) (c : Chip) (h0 : Keeps fs a0 c) : Keeps fs a0 (Chip.armSeq h c) := by
  unfold Chip.armSeq
  repeat' first
    | (clear_value *; apply Touches.mk <;> intro hn <;> first | with_reducible rfl | exact hm.out hn rfl)
    | extract_lets
    | with_reducible refine Keeps.ite ?_ ?_
    | with_reducible exact h0
    | with_reducible exact Keeps.refl _
    | with_reducible apply setSeq_keeps (hm.sub (by decide))

theorem passDue_keeps {fs : Nat} (hm : Within (Field.routed ||| Field.clk ||| Field.rtc ||| Field.sampler) fs) {a0 : Chip} (h : Nat) (c : Chip) (h0 : Keeps fs a0 c) : Keeps fs a0 (Chip.passDue h c) := by
  unfold Chip.passDue
  repeat' first
    | (clear_value *; apply Touches.mk <;> intro hn <;> first | with_reducible rfl | exact hm.out hn rfl)
    | extract_lets
    | with_reducible refine foldl_keeps (fun _ _ => ?_) ?_
    | with_reducible refine Keeps.ite ?_ ?_
    | with_reducible exact h0
    | with_reducible exact Keeps.refl _
    | with_reducible apply fire_keeps (hm.sub (by decide))
    | with_reducible apply setSeq_keeps (hm.sub (by decide))
    | with_reducible apply waitUntil_keeps (hm.sub (by decide))
    | with_reducible refine OptKeeps.of_eq ?_ (by assumption)
    | split

theorem passStart_keeps {fs : Nat} (hm : Within (Field.clk ||| Field.rtc ||| Field.sampler) fs) {a0 : Chip} (h : Nat) (c : Chip) (h0 : Keeps fs a0 c) : Keeps fs a0 (Chip.passStart h c) := by
  unfold Chip.passStart
  repeat' first
    | (clear_value *; apply Touches.mk <;> intro hn <;> first | with_reducible rfl | exact hm.out hn rfl)
    | extract_lets
    | with_reducible refine Keeps.ite ?_ ?_
    | with_reducible exact h0
    | with_reducible exact Keeps.refl _
    | with_reducible apply setSampler_keeps (hm.sub (by decide))
    | with_reducible apply waitUntil_keeps (hm.sub (by decide))
    | with_reducible apply setSeq_keeps (hm.sub (by decide))
    | with_reducible refine OptKeeps.of_eq ?_ (by assumption)
    | split

theorem passEnd_keeps {fs : Nat} (hm : Within (Field.routed ||| Field.clk ||| Field.sessions ||| Field.staged ||| Field.lives ||| Field.cmds ||| Field.firmware ||| Field.image ||| Field.rtc ||| Field.links ||| Field.fabric ||| Field.sampler ||| Field.cal ||| Field.streams ||| Field.can) fs) {a0 : Chip} (h : Nat) (c : Chip) (h0 : Keeps fs a0 c) : Keeps fs a0 (Chip.passEnd h c) := by
  unfold Chip.passEnd
  repeat' first
    | (clear_value *; apply Touches.mk <;> intro hn <;> first | with_reducible rfl | exact hm.out hn rfl)
    | extract_lets
    | with_reducible refine Keeps.ite ?_ ?_
    | with_reducible exact h0
    | with_reducible exact Keeps.refl _
    | with_reducible apply finishTag_keeps (hm.sub (by decide))
    | with_reducible apply fire_keeps (hm.sub (by decide))
    | with_reducible apply setSeq_keeps (hm.sub (by decide))
    | with_reducible apply setSampler_keeps (hm.sub (by decide))
    | with_reducible apply waitUntil_keeps (hm.sub (by decide))
    | with_reducible refine OptKeeps.of_eq ?_ (by assumption)
    | split

theorem insertSlots_keeps {fs : Nat} (hm : Within (Field.routed ||| Field.sampler) fs) {a0 : Chip} (slice : Nat) (periods : Nat) (c : Chip) (h0 : Keeps fs a0 c) : Keeps fs a0 (Chip.insertSlots slice periods c) := by
  unfold Chip.insertSlots
  repeat' first
    | (clear_value *; apply Touches.mk <;> intro hn <;> first | with_reducible rfl | exact hm.out hn rfl)
    | extract_lets
    | with_reducible refine Keeps.ite ?_ ?_
    | with_reducible exact h0
    | with_reducible exact Keeps.refl _
    | with_reducible apply arrive_keeps (hm.sub (by decide))
    | with_reducible apply setSampler_keeps (hm.sub (by decide))

theorem takeSlots_keeps {fs : Nat} (hm : Within (Field.routed ||| Field.sampler) fs) {a0 : Chip} (slice : Nat) (t : Nat) (periods : Nat) (c : Chip) (h0 : Keeps fs a0 c) : OptKeeps fs a0 (Chip.takeSlots slice t periods c) := by
  unfold Chip.takeSlots
  repeat' first
    | extract_lets
    | with_reducible exact OptKeeps.none
    | with_reducible refine OptKeeps.ite ?_ ?_
    | with_reducible refine Keeps.ite ?_ ?_
    | with_reducible exact h0
    | with_reducible exact Keeps.refl _
    | with_reducible apply insertSlots_keeps (hm.sub (by decide))
    | with_reducible apply OptKeeps.some

theorem putResult_keeps {fs : Nat} (hm : Within (Field.sampler) fs) {a0 : Chip} (entry : Nat) (code : Nat) (ovr : Bool) (unr : Bool) (calx : Bool) (fresh : Bool) (stamp : Nat) (c : Chip) (h0 : Keeps fs a0 c) : Keeps fs a0 (Chip.putResult entry code ovr unr calx fresh stamp c) := by
  unfold Chip.putResult
  repeat' first
    | (clear_value *; apply Touches.mk <;> intro hn <;> first | with_reducible rfl | exact hm.out hn rfl)
    | extract_lets
    | with_reducible exact h0
    | with_reducible exact Keeps.refl _
    | with_reducible apply setSampler_keeps (hm.sub (by decide))

theorem rangeEvent_keeps {fs : Nat} (hm : Within (Field.routed) fs) {a0 : Chip} (entry : Nat) (ch : Nat) (ovr : Bool) (unr : Bool) (c : Chip) (h0 : Keeps fs a0 c) : Keeps fs a0 (Chip.rangeEvent entry ch ovr unr c) := by
  unfold Chip.rangeEvent
  repeat' first
    | extract_lets
    | with_reducible refine Keeps.ite ?_ ?_
    | with_reducible exact h0
    | with_reducible exact Keeps.refl _
    | with_reducible apply fire_keeps (hm.sub (by decide))

theorem resultCauses_keeps {fs : Nat} (hm : Within (Field.routed ||| Field.clk ||| Field.rtc ||| Field.ports ||| Field.zones) fs) {a0 : Chip} (ch : Nat) (isOpen : Bool) (short : Bool) (v : Int) (c : Chip) (h0 : Keeps fs a0 c) : Keeps fs a0 (Chip.resultCauses ch isOpen short v c) := by
  unfold Chip.resultCauses
  repeat' first
    | (clear_value *; apply Touches.mk <;> intro hn <;> first | with_reducible rfl | exact hm.out hn rfl)
    | extract_lets
    | with_reducible refine Keeps.ite ?_ ?_
    | with_reducible exact h0
    | with_reducible exact Keeps.refl _
    | with_reducible apply motion_keeps (hm.sub (by decide))
    | with_reducible apply settled_keeps (hm.sub (by decide))
    | with_reducible apply portCause_keeps (hm.sub (by decide))

theorem goodResult_keeps {fs : Nat} (hm : Within (Field.routed ||| Field.clk ||| Field.slots ||| Field.produced ||| Field.slotWrites ||| Field.rtc ||| Field.ports ||| Field.sampler ||| Field.zones ||| Field.staleWrites ||| Field.freeCount) fs) {a0 : Chip} (r : ResultDue) (codes : List Nat) (high : Bool) (low : Bool) (c : Chip) (h0 : Keeps fs a0 c) : Keeps fs a0 (Chip.goodResult r codes high low c) := by
  unfold Chip.goodResult
  repeat' first
    | extract_lets
    | with_reducible refine Keeps.ite ?_ ?_
    | with_reducible exact h0
    | with_reducible exact Keeps.refl _
    | with_reducible apply resultCauses_keeps (hm.sub (by decide))
    | with_reducible apply rangeEvent_keeps (hm.sub (by decide))
    | with_reducible apply produce_keeps (hm.sub (by decide))
    | with_reducible apply nextFree_keeps (hm.sub (by decide))
    | with_reducible apply putResult_keeps (hm.sub (by decide))

theorem absentResult_keeps {fs : Nat} (hm : Within (Field.routed ||| Field.sampler ||| Field.freeCount) fs) {a0 : Chip} (r : ResultDue) (c : Chip) (h0 : Keeps fs a0 c) : Keeps fs a0 (Chip.absentResult r c) := by
  unfold Chip.absentResult
  repeat' first
    | extract_lets
    | with_reducible exact h0
    | with_reducible exact Keeps.refl _
    | with_reducible apply rangeEvent_keeps (hm.sub (by decide))
    | with_reducible apply nextFree_keeps (hm.sub (by decide))
    | with_reducible apply putResult_keeps (hm.sub (by decide))

theorem trimSkew_keeps {fs : Nat} (hm : Within (Field.routed ||| Field.sampler) fs) {a0 : Chip} (ctl : Nat) (skew : List (Nat × Int)) (c : Chip) (h0 : Keeps fs a0 c) : Keeps fs a0 (Chip.trimSkew ctl skew c) := by
  unfold Chip.trimSkew
  repeat' first
    | (clear_value *; apply Touches.mk <;> intro hn <;> first | with_reducible rfl | exact hm.out hn rfl)
    | extract_lets
    | with_reducible refine foldl_keeps (fun _ _ => ?_) ?_
    | with_reducible refine Keeps.ite ?_ ?_
    | with_reducible exact h0
    | with_reducible exact Keeps.refl _
    | with_reducible apply fire_keeps (hm.sub (by decide))
    | with_reducible apply setSampler_keeps (hm.sub (by decide))

theorem conversion_keeps {fs : Nat} (hm : Within (Field.routed ||| Field.clk ||| Field.slots ||| Field.produced ||| Field.slotWrites ||| Field.rtc ||| Field.ports ||| Field.motors ||| Field.sampler ||| Field.zones ||| Field.staleWrites ||| Field.freeCount) fs) {a0 : Chip} (entry : Nat) (codes : List Nat) (high : Bool) (low : Bool) (band : Int) (cur : Int) (skew : List (Nat × Int)) (c : Chip) (h0 : Keeps fs a0 c) : Keeps fs a0 (Chip.conversion entry codes high low band cur skew c) := by
  unfold Chip.conversion
  repeat' first
    | (clear_value *; apply Touches.mk <;> intro hn <;> first | with_reducible rfl | exact hm.out hn rfl)
    | extract_lets
    | with_reducible refine Keeps.ite ?_ ?_
    | with_reducible exact h0
    | with_reducible exact Keeps.refl _
    | with_reducible apply checkLead_keeps (hm.sub (by decide))
    | with_reducible apply countRipple_keeps (hm.sub (by decide))
    | with_reducible apply goodResult_keeps (hm.sub (by decide))
    | with_reducible apply absentResult_keeps (hm.sub (by decide))
    | with_reducible apply trimSkew_keeps (hm.sub (by decide))
    | with_reducible apply setSampler_keeps (hm.sub (by decide))
    | with_reducible apply arrive_keeps (hm.sub (by decide))
    | with_reducible apply waitUntil_keeps (hm.sub (by decide))
    | with_reducible refine OptKeeps.of_eq ?_ (by assumption)
    | split

theorem setSite_keeps {fs : Nat} (hm : Within (Field.thermal) fs) {a0 : Chip} (i : Nat) (v : Int) (c : Chip) (h0 : Keeps fs a0 c) : Keeps fs a0 (Chip.setSite i v c) := by
  unfold Chip.setSite
  repeat' first
    | (clear_value *; apply Touches.mk <;> intro hn <;> first | with_reducible rfl | exact hm.out hn rfl)
    | extract_lets
    | with_reducible exact h0
    | with_reducible exact Keeps.refl _
    | with_reducible refine Keeps.update ?_ ?_

theorem trimTo_keeps {fs : Nat} (hm : Within (Field.routed) fs) {a0 : Chip} (quantity : Nat) (slice : Nat) (lim : Nat) (old : Int) (want : Int) (c : Chip) (h0 : Keeps fs a0 c) : Keeps fs a0 (Chip.trimTo quantity slice lim old want c).2 := by
  unfold Chip.trimTo
  repeat' first
    | extract_lets
    | with_reducible refine Keeps.ite ?_ ?_
    | with_reducible refine Keeps.ite ?_ ?_
    | with_reducible exact h0
    | with_reducible exact Keeps.refl _
    | with_reducible apply fire_keeps (hm.sub (by decide))

theorem equaliseSlice_keeps {fs : Nat} (hm : Within (Field.routed ||| Field.sampler) fs) {a0 : Chip} (slice : Nat) (ref : Nat) (zero : Nat) (c : Chip) (h0 : Keeps fs a0 c) : Keeps fs a0 (Chip.equaliseSlice slice ref zero c) := by
  unfold Chip.equaliseSlice
  repeat' first
    | (clear_value *; apply Touches.mk <;> intro hn <;> first | with_reducible rfl | exact hm.out hn rfl)
    | extract_lets
    | with_reducible refine Keeps.ite ?_ ?_
    | with_reducible exact h0
    | with_reducible exact Keeps.refl _
    | with_reducible apply trimTo_keeps (hm.sub (by decide))
    | with_reducible apply setSampler_keeps (hm.sub (by decide))

theorem equalise_keeps {fs : Nat} (hm : Within (Field.routed ||| Field.clk ||| Field.rtc ||| Field.sampler) fs) {a0 : Chip} (slice : Nat) (ref : Nat) (zero : Nat) (c : Chip) (h0 : Keeps fs a0 c) : Keeps fs a0 (Chip.equalise slice ref zero c) := by
  unfold Chip.equalise
  repeat' first
    | (clear_value *; apply Touches.mk <;> intro hn <;> first | with_reducible rfl | exact hm.out hn rfl)
    | extract_lets
    | with_reducible refine Keeps.ite ?_ ?_
    | with_reducible exact h0
    | with_reducible exact Keeps.refl _
    | with_reducible apply equaliseSlice_keeps (hm.sub (by decide))
    | with_reducible apply setSampler_keeps (hm.sub (by decide))
    | with_reducible apply takeSlots_keeps (hm.sub (by decide))
    | with_reducible apply waitUntil_keeps (hm.sub (by decide))
    | with_reducible refine OptKeeps.of_eq ?_ (by assumption)
    | split

theorem monitor_keeps {fs : Nat} (hm : Within (Field.routed ||| Field.thermal) fs) {a0 : Chip} (ch : Nat) (code : Nat) (c : Chip) (h0 : Keeps fs a0 c) : Keeps fs a0 (Chip.monitor ch code c) := by
  unfold Chip.monitor
  repeat' first
    | (clear_value *; apply Touches.mk <;> intro hn <;> first | with_reducible rfl | exact hm.out hn rfl)
    | extract_lets
    | with_reducible refine Keeps.ite ?_ ?_
    | with_reducible exact h0
    | with_reducible exact Keeps.refl _
    | with_reducible apply setSite_keeps (hm.sub (by decide))
    | with_reducible apply fire_keeps (hm.sub (by decide))
    | with_reducible refine Keeps.update ?_ ?_

theorem housekeeping_keeps {fs : Nat} (hm : Within (Field.routed ||| Field.clk ||| Field.rtc ||| Field.sampler ||| Field.thermal) fs) {a0 : Chip} (ch : Nat) (code : Nat) (c : Chip) (h0 : Keeps fs a0 c) : Keeps fs a0 (Chip.housekeeping ch code c) := by
  unfold Chip.housekeeping
  repeat' first
    | (clear_value *; apply Touches.mk <;> intro hn <;> first | with_reducible rfl | exact hm.out hn rfl)
    | extract_lets
    | with_reducible refine Keeps.ite ?_ ?_
    | with_reducible exact h0
    | with_reducible exact Keeps.refl _
    | with_reducible apply equaliseSlice_keeps (hm.sub (by decide))
    | with_reducible apply monitor_keeps (hm.sub (by decide))
    | with_reducible apply setSampler_keeps (hm.sub (by decide))
    | with_reducible apply takeSlots_keeps (hm.sub (by decide))
    | with_reducible apply waitUntil_keeps (hm.sub (by decide))
    | with_reducible refine OptKeeps.of_eq ?_ (by assumption)
    | split

theorem bodySeqStart_keeps {fs : Nat} (hm : Within (Field.sampler) fs) {a0 : Chip} (k : Cmd) (c : Chip) (h0 : Keeps fs a0 c) : ResKeeps fs a0 (bodySeqStart k c) := by
  unfold bodySeqStart
  repeat' first
    | extract_lets
    | with_reducible refine ResKeeps.ite ?_ ?_
    | with_reducible refine Keeps.ite ?_ ?_
    | with_reducible exact h0
    | with_reducible exact Keeps.refl _
    | with_reducible apply armSeq_keeps (hm.sub (by decide))
    | with_reducible apply ResKeeps.done
    | with_reducible apply ResKeeps.accepted
    | with_reducible apply ResKeeps.acceptedDone
    | with_reducible apply ResKeeps.waiting
    | with_reducible apply ResKeeps.held
    | with_reducible apply ResKeeps.ok
    | with_reducible apply ResKeeps.okWith
    | with_reducible apply ResKeeps.err
    | with_reducible apply ResKeeps.badParam
    | with_reducible apply ResKeeps.badLength

theorem bodySeqStop_keeps {fs : Nat} (hm : Within (Field.sampler) fs) {a0 : Chip} (k : Cmd) (c : Chip) (h0 : Keeps fs a0 c) : ResKeeps fs a0 (bodySeqStop k c) := by
  unfold bodySeqStop
  repeat' first
    | (clear_value *; apply Touches.mk <;> intro hn <;> first | with_reducible rfl | exact hm.out hn rfl)
    | extract_lets
    | with_reducible refine ResKeeps.ite ?_ ?_
    | with_reducible refine Keeps.ite ?_ ?_
    | with_reducible exact h0
    | with_reducible exact Keeps.refl _
    | with_reducible apply setSeq_keeps (hm.sub (by decide))
    | with_reducible apply ResKeeps.done
    | with_reducible apply ResKeeps.accepted
    | with_reducible apply ResKeeps.acceptedDone
    | with_reducible apply ResKeeps.waiting
    | with_reducible apply ResKeeps.held
    | with_reducible apply ResKeeps.ok
    | with_reducible apply ResKeeps.okWith
    | with_reducible apply ResKeeps.err
    | with_reducible apply ResKeeps.badParam
    | with_reducible apply ResKeeps.badLength

theorem bodySeqRead_keeps {fs : Nat} (hm : Within (Field.sampler) fs) {a0 : Chip} (k : Cmd) (c : Chip) (h0 : Keeps fs a0 c) : ResKeeps fs a0 (bodySeqRead k c) := by
  unfold bodySeqRead
  repeat' first
    | (clear_value *; apply Touches.mk <;> intro hn <;> first | with_reducible rfl | exact hm.out hn rfl)
    | extract_lets
    | with_reducible refine foldl_keeps (fun _ _ => ?_) ?_
    | with_reducible refine ResKeeps.ite ?_ ?_
    | with_reducible refine Keeps.ite ?_ ?_
    | with_reducible exact h0
    | with_reducible exact Keeps.refl _
    | with_reducible apply setSampler_keeps (hm.sub (by decide))
    | with_reducible apply ResKeeps.done
    | with_reducible apply ResKeeps.accepted
    | with_reducible apply ResKeeps.acceptedDone
    | with_reducible apply ResKeeps.waiting
    | with_reducible apply ResKeeps.held
    | with_reducible apply ResKeeps.ok
    | with_reducible apply ResKeeps.okWith
    | with_reducible apply ResKeeps.err
    | with_reducible apply ResKeeps.badParam
    | with_reducible apply ResKeeps.badLength

end Sys2Proof.Machine
end

