-- ==== Sys2Proof/Laws/KeepsCalibration.lean ====
section
/-! SUPPORT. What Machine/Calibration.lean keeps. -/

namespace Sys2Proof.Machine

theorem setCal_keeps {fs : Nat} (hm : Within (Field.cal) fs) {a0 : Chip} (f : CalSt → CalSt) (c : Chip) (h0 : Keeps fs a0 c) : Keeps fs a0 (Chip.setCal f c) := by
  unfold Chip.setCal
  repeat' first
    | (clear_value *; apply Touches.mk <;> intro hn <;> first | with_reducible rfl | exact hm.out hn rfl)
    | (apply Touches.mk <;> intro hn <;> first | with_reducible rfl | exact hm.out hn rfl)
    | extract_lets
    | with_reducible exact h0
    | with_reducible exact Keeps.refl _
    | with_reducible refine Keeps.update ?_ ?_

theorem calDone_keeps {fs : Nat} (hm : Within (Field.routed) fs) {a0 : Chip} (op : Nat) (ch : Nat) (status : Nat) (c : Chip) (h0 : Keeps fs a0 c) : Keeps fs a0 (Chip.calDone op ch status c) := by
  unfold Chip.calDone
  repeat' first
    | extract_lets
    | with_reducible exact h0
    | with_reducible exact Keeps.refl _
    | with_reducible apply fire_keeps (hm.sub (by decide))

theorem calFinish_keeps {fs : Nat} (hm : Within (Field.routed ||| Field.sessions ||| Field.staged ||| Field.lives ||| Field.cmds ||| Field.firmware ||| Field.image ||| Field.links ||| Field.fabric ||| Field.cal ||| Field.streams ||| Field.can) fs) {a0 : Chip} (op : Nat) (ch : Nat) (ctx : Nat) (tag : Nat) (status : Nat) (data : List Byte) (c : Chip) (h0 : Keeps fs a0 c) : Keeps fs a0 (Chip.calFinish op ch ctx tag status data c) := by
  unfold Chip.calFinish
  repeat' first
    | extract_lets
    | with_reducible exact h0
    | with_reducible exact Keeps.refl _
    | with_reducible apply finishTag_keeps (hm.sub (by decide))
    | with_reducible apply calDone_keeps (hm.sub (by decide))

theorem startCapture_keeps {fs : Nat} (hm : Within (Field.cal) fs) {a0 : Chip} (k : Cmd) (ch : Nat) (range : Nat) (span : Bool) (c : Chip) (h0 : Keeps fs a0 c) : Keeps fs a0 (Chip.startCapture k ch range span c) := by
  unfold Chip.startCapture
  repeat' first
    | (clear_value *; apply Touches.mk <;> intro hn <;> first | with_reducible rfl | exact hm.out hn rfl)
    | extract_lets
    | with_reducible exact h0
    | with_reducible exact Keeps.refl _
    | with_reducible apply setCal_keeps (hm.sub (by decide))

theorem calCaptureBody_keeps {fs : Nat} (hm : Within (Field.cal) fs) {a0 : Chip} (span : Bool) (k : Cmd) (c : Chip) (h0 : Keeps fs a0 c) : ResKeeps fs a0 (calCaptureBody span k c) := by
  unfold calCaptureBody
  repeat' first
    | extract_lets
    | with_reducible refine ResKeeps.ite ?_ ?_
    | with_reducible refine Keeps.ite ?_ ?_
    | with_reducible exact h0
    | with_reducible exact Keeps.refl _
    | with_reducible apply startCapture_keeps (hm.sub (by decide))
    | with_reducible apply ResKeeps.done
    | with_reducible apply ResKeeps.accepted
    | with_reducible apply ResKeeps.acceptedDone
    | with_reducible apply ResKeeps.waiting
    | with_reducible apply ResKeeps.held
    | with_reducible apply ResKeeps.ok
    | with_reducible apply ResKeeps.okWith
    | with_reducible apply ResKeeps.err
    | with_reducible apply ResKeeps.badParam
    | with_reducible apply ResKeeps.badLength

theorem calRes_keeps {fs : Nat} (hm : Within (Field.routed) fs) {a0 : Chip} (o n : Nat) (r : Res) (h0 : ResKeeps fs a0 r) : ResKeeps fs a0 (calRes o n r) := by
  unfold calRes
  split
  · exact calDone_keeps (hm.sub (by decide)) _ _ _ _ h0
  · exact h0

theorem bodyCalZero_keeps {fs : Nat} (hm : Within (Field.routed ||| Field.cal) fs) {a0 : Chip} (k : Cmd) (c : Chip) (h0 : Keeps fs a0 c) : ResKeeps fs a0 (bodyCalZero k c) :=
  calRes_keeps (hm.sub (by decide)) _ _ _ (calCaptureBody_keeps (hm.sub (by decide)) _ _ _ h0)

theorem bodyCalSpan_keeps {fs : Nat} (hm : Within (Field.routed ||| Field.cal) fs) {a0 : Chip} (k : Cmd) (c : Chip) (h0 : Keeps fs a0 c) : ResKeeps fs a0 (bodyCalSpan k c) := by
  exact calRes_keeps (hm.sub (by decide)) _ _ _ (calCaptureBody_keeps (hm.sub (by decide)) _ _ _ h0)

theorem dropZeros_keeps {fs : Nat} (hm : Within (Field.cal) fs) {a0 : Chip} (ch : Nat) (c : Chip) (h0 : Keeps fs a0 c) : Keeps fs a0 (Chip.dropZeros ch c) := by
  unfold Chip.dropZeros
  repeat' first
    | (clear_value *; apply Touches.mk <;> intro hn <;> first | with_reducible rfl | exact hm.out hn rfl)
    | extract_lets
    | with_reducible exact h0
    | with_reducible exact Keeps.refl _
    | with_reducible apply setCal_keeps (hm.sub (by decide))

theorem endCapture_keeps {fs : Nat} (hm : Within (Field.routed ||| Field.sessions ||| Field.staged ||| Field.lives ||| Field.cmds ||| Field.firmware ||| Field.image ||| Field.links ||| Field.fabric ||| Field.cal ||| Field.streams ||| Field.can) fs) {a0 : Chip} (q : Capture) (status : Nat) (data : List Byte) (c : Chip) (h0 : Keeps fs a0 c) : Keeps fs a0 (Chip.endCapture q status data c) := by
  unfold Chip.endCapture
  repeat' first
    | (clear_value *; apply Touches.mk <;> intro hn <;> first | with_reducible rfl | exact hm.out hn rfl)
    | extract_lets
    | with_reducible refine Keeps.ite ?_ ?_
    | with_reducible exact h0
    | with_reducible exact Keeps.refl _
    | with_reducible apply calFinish_keeps (hm.sub (by decide))
    | with_reducible apply dropZeros_keeps (hm.sub (by decide))
    | with_reducible apply setCal_keeps (hm.sub (by decide))

theorem holdZero_keeps {fs : Nat} (hm : Within (Field.cal) fs) {a0 : Chip} (q : Capture) (code : Nat) (c : Chip) (h0 : Keeps fs a0 c) : Keeps fs a0 (Chip.holdZero q code c) := by
  unfold Chip.holdZero
  repeat' first
    | (clear_value *; apply Touches.mk <;> intro hn <;> first | with_reducible rfl | exact hm.out hn rfl)
    | extract_lets
    | with_reducible exact h0
    | with_reducible exact Keeps.refl _
    | with_reducible apply setCal_keeps (hm.sub (by decide))

theorem startWrite_keeps {fs : Nat} (hm : Within (Field.cmds ||| Field.cal) fs) {a0 : Chip} (w : StoreWrite) (c : Chip) (h0 : Keeps fs a0 c) : Keeps fs a0 (Chip.startWrite w c) := by
  unfold Chip.startWrite
  repeat' first
    | (clear_value *; apply Touches.mk <;> intro hn <;> first | with_reducible rfl | exact hm.out hn rfl)
    | extract_lets
    | with_reducible exact h0
    | with_reducible exact Keeps.refl _
    | with_reducible apply commitCmd_keeps (hm.sub (by decide))
    | with_reducible apply setCal_keeps (hm.sub (by decide))

theorem captureGood_keeps {fs : Nat} (hm : Within (Field.routed ||| Field.sessions ||| Field.staged ||| Field.lives ||| Field.cmds ||| Field.firmware ||| Field.image ||| Field.links ||| Field.fabric ||| Field.cal ||| Field.streams ||| Field.can) fs) {a0 : Chip} (q : Capture) (code : Nat) (c : Chip) (h0 : Keeps fs a0 c) : Keeps fs a0 (Chip.captureGood q code c) := by
  unfold Chip.captureGood
  repeat' first
    | (clear_value *; apply Touches.mk <;> intro hn <;> first | with_reducible rfl | exact hm.out hn rfl)
    | extract_lets
    | with_reducible refine Keeps.ite ?_ ?_
    | with_reducible exact h0
    | with_reducible exact Keeps.refl _
    | with_reducible apply startWrite_keeps (hm.sub (by decide))
    | with_reducible apply setCal_keeps (hm.sub (by decide))
    | with_reducible apply holdZero_keeps (hm.sub (by decide))
    | with_reducible apply endCapture_keeps (hm.sub (by decide))
    | with_reducible refine OptKeeps.of_eq ?_ (by assumption)
    | split

theorem captureDone_keeps {fs : Nat} (hm : Within (Field.routed ||| Field.clk ||| Field.sessions ||| Field.staged ||| Field.lives ||| Field.cmds ||| Field.firmware ||| Field.image ||| Field.rtc ||| Field.links ||| Field.fabric ||| Field.cal ||| Field.streams ||| Field.can) fs) {a0 : Chip} (ch : Nat) (codes : List Nat) (clipped : Bool) (c : Chip) (h0 : Keeps fs a0 c) : Keeps fs a0 (Chip.captureDone ch codes clipped c) := by
  unfold Chip.captureDone
  repeat' first
    | (clear_value *; apply Touches.mk <;> intro hn <;> first | with_reducible rfl | exact hm.out hn rfl)
    | extract_lets
    | with_reducible refine foldl_keeps (fun _ _ => ?_) ?_
    | with_reducible refine Keeps.ite ?_ ?_
    | with_reducible exact h0
    | with_reducible exact Keeps.refl _
    | with_reducible apply captureGood_keeps (hm.sub (by decide))
    | with_reducible apply waitUntil_keeps (hm.sub (by decide))
    | with_reducible apply endCapture_keeps (hm.sub (by decide))
    | with_reducible refine OptKeeps.of_eq ?_ (by assumption)
    | split

theorem captureTimeout_keeps {fs : Nat} (hm : Within (Field.routed ||| Field.clk ||| Field.sessions ||| Field.staged ||| Field.lives ||| Field.cmds ||| Field.firmware ||| Field.image ||| Field.rtc ||| Field.links ||| Field.fabric ||| Field.cal ||| Field.streams ||| Field.can) fs) {a0 : Chip} (ch : Nat) (c : Chip) (h0 : Keeps fs a0 c) : Keeps fs a0 (Chip.captureTimeout ch c) := by
  unfold Chip.captureTimeout
  repeat' first
    | (clear_value *; apply Touches.mk <;> intro hn <;> first | with_reducible rfl | exact hm.out hn rfl)
    | extract_lets
    | with_reducible exact h0
    | with_reducible exact Keeps.refl _
    | with_reducible apply endCapture_keeps (hm.sub (by decide))
    | with_reducible apply waitUntil_keeps (hm.sub (by decide))
    | with_reducible refine OptKeeps.of_eq ?_ (by assumption)
    | split

theorem checkCaptures_keeps {fs : Nat} (hm : Within (Field.routed ||| Field.sessions ||| Field.staged ||| Field.lives ||| Field.cmds ||| Field.firmware ||| Field.image ||| Field.links ||| Field.fabric ||| Field.cal ||| Field.streams ||| Field.can) fs) {a0 : Chip} (c : Chip) (h0 : Keeps fs a0 c) : Keeps fs a0 (Chip.checkCaptures c) := by
  unfold Chip.checkCaptures
  repeat' first
    | extract_lets
    | with_reducible refine foldl_keeps (fun _ _ => ?_) ?_
    | with_reducible exact h0
    | with_reducible exact Keeps.refl _
    | with_reducible apply endCapture_keeps (hm.sub (by decide))

theorem zeroExpiry_keeps {fs : Nat} (hm : Within (Field.clk ||| Field.rtc ||| Field.cal) fs) {a0 : Chip} (ch : Nat) (range : Nat) (c : Chip) (h0 : Keeps fs a0 c) : Keeps fs a0 (Chip.zeroExpiry ch range c) := by
  unfold Chip.zeroExpiry
  repeat' first
    | (clear_value *; apply Touches.mk <;> intro hn <;> first | with_reducible rfl | exact hm.out hn rfl)
    | extract_lets
    | with_reducible exact h0
    | with_reducible exact Keeps.refl _
    | with_reducible apply setCal_keeps (hm.sub (by decide))
    | with_reducible apply waitUntil_keeps (hm.sub (by decide))
    | with_reducible refine OptKeeps.of_eq ?_ (by assumption)
    | split

theorem storeWritten_keeps {fs : Nat} (hm : Within (Field.routed ||| Field.sessions ||| Field.staged ||| Field.lives ||| Field.cmds ||| Field.firmware ||| Field.image ||| Field.links ||| Field.fabric ||| Field.cal ||| Field.streams ||| Field.can) fs) {a0 : Chip} (mismatches : Nat) (c : Chip) (h0 : Keeps fs a0 c) : Keeps fs a0 (Chip.storeWritten mismatches c) := by
  unfold Chip.storeWritten
  repeat' first
    | (clear_value *; apply Touches.mk <;> intro hn <;> first | with_reducible rfl | exact hm.out hn rfl)
    | extract_lets
    | with_reducible refine Keeps.ite ?_ ?_
    | with_reducible exact h0
    | with_reducible exact Keeps.refl _
    | with_reducible apply fire_keeps (hm.sub (by decide))
    | with_reducible apply logFault_keeps (hm.sub (by decide))
    | with_reducible apply calFinish_keeps (hm.sub (by decide))
    | with_reducible apply dropZeros_keeps (hm.sub (by decide))
    | with_reducible apply setCal_keeps (hm.sub (by decide))
    | with_reducible refine OptKeeps.of_eq ?_ (by assumption)
    | split

theorem bodyCalRead_keeps {fs : Nat} (hm : Within 0 fs) {a0 : Chip} (k : Cmd) (c : Chip) (h0 : Keeps fs a0 c) : ResKeeps fs a0 (bodyCalRead k c) := by
  unfold bodyCalRead
  repeat' first
    | extract_lets
    | with_reducible refine ResKeeps.ite ?_ ?_
    | with_reducible refine Keeps.ite ?_ ?_
    | with_reducible exact h0
    | with_reducible exact Keeps.refl _
    | with_reducible apply ResKeeps.done
    | with_reducible apply ResKeeps.accepted
    | with_reducible apply ResKeeps.acceptedDone
    | with_reducible apply ResKeeps.waiting
    | with_reducible apply ResKeeps.held
    | with_reducible apply ResKeeps.ok
    | with_reducible apply ResKeeps.okWith
    | with_reducible apply ResKeeps.err
    | with_reducible apply ResKeeps.badParam
    | with_reducible apply ResKeeps.badLength

theorem calWriteBody_keeps {fs : Nat} (hm : Within (Field.cmds ||| Field.cal) fs) {a0 : Chip} (k : Cmd) (c : Chip) (h0 : Keeps fs a0 c) : ResKeeps fs a0 (calWriteBody k c) := by
  unfold calWriteBody
  repeat' first
    | (clear_value *; apply Touches.mk <;> intro hn <;> first | with_reducible rfl | exact hm.out hn rfl)
    | extract_lets
    | with_reducible refine ResKeeps.ite ?_ ?_
    | with_reducible refine Keeps.ite ?_ ?_
    | with_reducible exact h0
    | with_reducible exact Keeps.refl _
    | with_reducible apply startWrite_keeps (hm.sub (by decide))
    | with_reducible apply setCal_keeps (hm.sub (by decide))
    | with_reducible apply ResKeeps.done
    | with_reducible apply ResKeeps.accepted
    | with_reducible apply ResKeeps.acceptedDone
    | with_reducible apply ResKeeps.waiting
    | with_reducible apply ResKeeps.held
    | with_reducible apply ResKeeps.ok
    | with_reducible apply ResKeeps.okWith
    | with_reducible apply ResKeeps.err
    | with_reducible apply ResKeeps.badParam
    | with_reducible apply ResKeeps.badLength
    | with_reducible refine OptKeeps.of_eq ?_ (by assumption)
    | split

theorem bodyCalWrite_keeps {fs : Nat} (hm : Within (Field.routed ||| Field.cmds ||| Field.cal) fs) {a0 : Chip} (k : Cmd) (c : Chip) (h0 : Keeps fs a0 c) : ResKeeps fs a0 (bodyCalWrite k c) := by
  exact calRes_keeps (hm.sub (by decide)) _ _ _ (calWriteBody_keeps (hm.sub (by decide)) _ _ h0)

theorem calLost_keeps {fs : Nat} (hm : Within (Field.routed ||| Field.cal) fs) {a0 : Chip} (reason : Nat) (c : Chip) (h0 : Keeps fs a0 c) : Keeps fs a0 (Chip.calLost reason c) := by
  unfold Chip.calLost
  repeat' first
    | (clear_value *; apply Touches.mk <;> intro hn <;> first | with_reducible rfl | exact hm.out hn rfl)
    | extract_lets
    | with_reducible exact h0
    | with_reducible exact Keeps.refl _
    | with_reducible apply fire_keeps (hm.sub (by decide))
    | with_reducible apply setCal_keeps (hm.sub (by decide))

theorem loadCal_keeps {fs : Nat} (hm : Within (Field.routed ||| Field.cal) fs) {a0 : Chip} (c : Chip) (h0 : Keeps fs a0 c) : Keeps fs a0 (Chip.loadCal c) := by
  unfold Chip.loadCal
  repeat' first
    | (clear_value *; apply Touches.mk <;> intro hn <;> first | with_reducible rfl | exact hm.out hn rfl)
    | extract_lets
    | with_reducible exact h0
    | with_reducible exact Keeps.refl _
    | with_reducible apply setCal_keeps (hm.sub (by decide))
    | with_reducible apply calLost_keeps (hm.sub (by decide))
    | with_reducible refine OptKeeps.of_eq ?_ (by assumption)
    | split

end Sys2Proof.Machine
end

