-- ==== Sys2Proof/Laws/KeepsDrover.lean ====
section
/-! SUPPORT. What Machine/Drover.lean keeps. -/

namespace Sys2Proof.Machine

theorem setLoop_keeps {fs : Nat} (hm : Within (Field.loops) fs) {a0 : Chip} (l : Nat) (s : LoopSt) (c : Chip) (h0 : Keeps fs a0 c) : Keeps fs a0 (Chip.setLoop l s c) := by
  unfold Chip.setLoop
  repeat' first
    | (clear_value *; apply Touches.mk <;> intro hn <;> first | with_reducible rfl | exact hm.out hn rfl)
    | (apply Touches.mk <;> intro hn <;> first | with_reducible rfl | exact hm.out hn rfl)
    | extract_lets
    | with_reducible exact h0
    | with_reducible exact Keeps.refl _
    | with_reducible refine Keeps.update ?_ ?_

theorem noteSat_keeps {fs : Nat} (hm : Within (Field.routed) fs) {a0 : Chip} (l : Nat) (node : Nat) (sat : Bool) (c : Chip) (h0 : Keeps fs a0 c) : Keeps fs a0 (Chip.noteSat l node sat c) := by
  unfold Chip.noteSat
  repeat' first
    | (clear_value *; apply Touches.mk <;> intro hn <;> first | with_reducible rfl | exact hm.out hn rfl)
    | extract_lets
    | with_reducible exact h0
    | with_reducible exact Keeps.refl _
    | with_reducible apply fire_keeps (hm.sub (by decide))
    | with_reducible apply setLoop_keeps (hm.sub (by decide))
    | with_reducible refine OptKeeps.of_eq ?_ (by assumption)
    | split

theorem noteLatency_keeps {fs : Nat} (hm : Within (Field.routed) fs) {a0 : Chip} (l : Nat) (e : Eval) (c : Chip) (h0 : Keeps fs a0 c) : Keeps fs a0 (Chip.noteLatency l e c) := by
  unfold Chip.noteLatency
  repeat' first
    | (clear_value *; apply Touches.mk <;> intro hn <;> first | with_reducible rfl | exact hm.out hn rfl)
    | extract_lets
    | with_reducible refine Keeps.ite ?_ ?_
    | with_reducible exact h0
    | with_reducible exact Keeps.refl _
    | with_reducible apply fire_keeps (hm.sub (by decide))
    | with_reducible apply setLoop_keeps (hm.sub (by decide))

theorem putCandidate_keeps {fs : Nat} (hm : Within (Field.slots ||| Field.produced ||| Field.slotWrites ||| Field.zones ||| Field.staleWrites ||| Field.loops ||| Field.minSel) fs) {a0 : Chip} (l : Nat) (g : Nat) (k : Candidate) (c : Chip) (h0 : Keeps fs a0 c) : Keeps fs a0 (Chip.putCandidate l g k c) := by
  unfold Chip.putCandidate
  repeat' first
    | (clear_value *; apply Touches.mk <;> intro hn <;> first | with_reducible rfl | exact hm.out hn rfl)
    | extract_lets
    | with_reducible exact h0
    | with_reducible exact Keeps.refl _
    | with_reducible apply produce_keeps (hm.sub (by decide))
    | with_reducible apply setLoop_keeps (hm.sub (by decide))
    | with_reducible refine OptKeeps.of_eq ?_ (by assumption)
    | split
    | with_reducible refine Keeps.update ?_ ?_

theorem outNode_keeps {fs : Nat} (hm : Within (Field.routed ||| Field.slots ||| Field.produced ||| Field.slotWrites ||| Field.zones ||| Field.staleWrites ||| Field.minSel) fs) {a0 : Chip} (l : Nat) (node : Nat) (w : Nat) (e : Eval) (v : NodeVal) (c : Chip) (h0 : Keeps fs a0 c) : Keeps fs a0 (Chip.outNode l node w e v c) := by
  unfold Chip.outNode
  repeat' first
    | (clear_value *; apply Touches.mk <;> intro hn <;> first | with_reducible rfl | exact hm.out hn rfl)
    | extract_lets
    | with_reducible refine Keeps.ite ?_ ?_
    | with_reducible exact h0
    | with_reducible exact Keeps.refl _
    | with_reducible apply noteLatency_keeps (hm.sub (by decide))
    | with_reducible apply noteSat_keeps (hm.sub (by decide))
    | with_reducible apply produce_keeps (hm.sub (by decide))
    | with_reducible apply putCandidate_keeps (hm.sub (by decide))
    | with_reducible refine OptKeeps.of_eq ?_ (by assumption)
    | split
    | with_reducible refine Keeps.update ?_ ?_

theorem run_ite {fs : Nat} {a0 : Chip} {p : Prop} [Decidable p] {x y : Running × Chip} (hx : Keeps fs a0 x.2) (hy : Keeps fs a0 y.2) :
    Keeps fs a0 (if p then x else y).2 := by
  split
  · exact hx
  · exact hy

theorem nodeStep_keeps {fs : Nat} (hm : Within (Field.routed ||| Field.slots ||| Field.produced ||| Field.slotWrites ||| Field.zones ||| Field.staleWrites ||| Field.minSel) fs) {a0 : Chip} (l : Nat) (s : Running × Chip) (w : Nat) (h0 : Keeps fs a0 s.2) :
    Keeps fs a0 (nodeStep l s w).2 := by
  unfold nodeStep
  extract_lets r c i op cs srcs ins old p c1 present badSlot q a val
  refine run_ite ?_ (run_ite h0 (run_ite h0 (run_ite h0 (run_ite ?_ h0))))
  · exact Keeps.ite (fire_keeps (hm.sub (by decide)) _ _ _ h0) h0
  · exact outNode_keeps (hm.sub (by decide)) _ _ _ _ _ _ h0

theorem nodeSteps_keeps {fs : Nat} (hm : Within (Field.routed ||| Field.slots ||| Field.produced ||| Field.slotWrites ||| Field.zones ||| Field.staleWrites ||| Field.minSel) fs) {a0 : Chip} (l : Nat) (ws : List Nat) (s : Running × Chip) (h0 : Keeps fs a0 s.2) :
    Keeps fs a0 (ws.foldl (nodeStep l) s).2 := by
  induction ws generalizing s with
  | nil => exact h0
  | cons w ws ih => exact ih _ (nodeStep_keeps (hm.sub (by decide)) _ _ _ h0)

theorem startEval_keeps {fs : Nat} (hm : Within (Field.groups ||| Field.loops) fs) {a0 : Chip} (l : Nat) (lane : Nat) (e : Eval) (c : Chip) (h0 : Keeps fs a0 c) : Keeps fs a0 (Chip.startEval l lane e c) := by
  unfold Chip.startEval
  repeat' first
    | (clear_value *; apply Touches.mk <;> intro hn <;> first | with_reducible rfl | exact hm.out hn rfl)
    | extract_lets
    | with_reducible refine Keeps.ite ?_ ?_
    | with_reducible exact h0
    | with_reducible exact Keeps.refl _
    | with_reducible apply setLoop_keeps (hm.sub (by decide))

theorem endEval_keeps {fs : Nat} (hm : Within (Field.routed ||| Field.groups) fs) {a0 : Chip} (l : Nat) (r : Running) (c : Chip) (h0 : Keeps fs a0 c) : Keeps fs a0 (Chip.endEval l r c) := by
  unfold Chip.endEval
  repeat' first
    | (clear_value *; apply Touches.mk <;> intro hn <;> first | with_reducible rfl | exact hm.out hn rfl)
    | extract_lets
    | with_reducible refine Keeps.ite ?_ ?_
    | with_reducible exact h0
    | with_reducible exact Keeps.refl _
    | with_reducible apply fire_keeps (hm.sub (by decide))
    | with_reducible apply orphan_keeps (hm.sub (by decide))
    | with_reducible apply setLoop_keeps (hm.sub (by decide))
    | with_reducible refine OptKeeps.of_eq ?_ (by assumption)
    | split

theorem runWords_keeps {fs : Nat} (hm : Within (Field.routed ||| Field.slots ||| Field.produced ||| Field.slotWrites ||| Field.groups ||| Field.zones ||| Field.staleWrites ||| Field.minSel) fs) {a0 : Chip} (l : Nat) (n : Nat) (c : Chip) (h0 : Keeps fs a0 c) : Keeps fs a0 (Chip.runWords l n c) := by
  unfold Chip.runWords
  split
  · exact h0
  · rename_i r _
    extract_lets s
    have h1 : Keeps fs a0 s.2 := nodeSteps_keeps (hm.sub (by decide)) _ _ (r, c) h0
    clear_value s
    exact Keeps.ite (setLoop_keeps (hm.sub (by decide)) _ _ _ h1) (endEval_keeps (hm.sub (by decide)) _ _ _ h1)

theorem moveLane_keeps {fs : Nat} (hm : Within (Field.loops) fs) {a0 : Chip} (l : Nat) (lane : Option Nat) (c : Chip) (h0 : Keeps fs a0 c) : Keeps fs a0 (Chip.moveLane l lane c) := by
  unfold Chip.moveLane
  repeat' first
    | (clear_value *; apply Touches.mk <;> intro hn <;> first | with_reducible rfl | exact hm.out hn rfl)
    | extract_lets
    | with_reducible exact h0
    | with_reducible exact Keeps.refl _
    | with_reducible apply setLoop_keeps (hm.sub (by decide))

theorem takeEval_keeps {fs : Nat} (hm : Within (Field.groups ||| Field.loops) fs) {a0 : Chip} (l : Nat) (lane : Nat) (e : Eval) (c : Chip) (h0 : Keeps fs a0 c) : Keeps fs a0 (Chip.takeEval l lane e c) := by
  unfold Chip.takeEval
  repeat' first
    | extract_lets
    | with_reducible refine Keeps.ite ?_ ?_
    | with_reducible exact h0
    | with_reducible exact Keeps.refl _
    | with_reducible apply startEval_keeps (hm.sub (by decide))
    | with_reducible apply moveLane_keeps (hm.sub (by decide))

theorem laneRow_keeps {fs : Nat} (hm : Within (Field.routed ||| Field.slots ||| Field.produced ||| Field.slotWrites ||| Field.groups ||| Field.zones ||| Field.staleWrites ||| Field.minSel) fs) {a0 : Chip} (lane : Nat) (words : Nat) (c : Chip) (h0 : Keeps fs a0 c) : Keeps fs a0 (Chip.laneRow lane words c) := by
  unfold Chip.laneRow
  repeat' first
    | (clear_value *; apply Touches.mk <;> intro hn <;> first | with_reducible rfl | exact hm.out hn rfl)
    | extract_lets
    | with_reducible refine Keeps.ite ?_ ?_
    | with_reducible exact h0
    | with_reducible exact Keeps.refl _
    | with_reducible apply runWords_keeps (hm.sub (by decide))
    | with_reducible apply takeEval_keeps (hm.sub (by decide))
    | with_reducible apply moveLane_keeps (hm.sub (by decide))
    | with_reducible refine OptKeeps.of_eq ?_ (by assumption)
    | split

theorem acceptTrig_keeps {fs : Nat} (hm : Within (Field.routed) fs) {a0 : Chip} (l : Nat) (t : Trig) (c : Chip) (h0 : Keeps fs a0 c) : Keeps fs a0 (Chip.acceptTrig l t c) := by
  unfold Chip.acceptTrig
  repeat' first
    | (clear_value *; apply Touches.mk <;> intro hn <;> first | with_reducible rfl | exact hm.out hn rfl)
    | extract_lets
    | with_reducible refine Keeps.ite ?_ ?_
    | with_reducible exact h0
    | with_reducible exact Keeps.refl _
    | with_reducible apply fire_keeps (hm.sub (by decide))
    | with_reducible apply setLoop_keeps (hm.sub (by decide))

theorem issueTrig_keeps {fs : Nat} (hm : Within (Field.routed) fs) {a0 : Chip} (l : Nat) (t : Trig) (c : Chip) (h0 : Keeps fs a0 c) : Keeps fs a0 (Chip.issueTrig l t c) := by
  unfold Chip.issueTrig
  repeat' first
    | (clear_value *; apply Touches.mk <;> intro hn <;> first | with_reducible rfl | exact hm.out hn rfl)
    | extract_lets
    | with_reducible refine Keeps.ite ?_ ?_
    | with_reducible exact h0
    | with_reducible exact Keeps.refl _
    | with_reducible apply acceptTrig_keeps (hm.sub (by decide))
    | with_reducible apply setLoop_keeps (hm.sub (by decide))

theorem triggerRow_keeps {fs : Nat} (hm : Within (Field.routed ||| Field.clk ||| Field.rtc) fs) {a0 : Chip} (l : Nat) (c : Chip) (h0 : Keeps fs a0 c) : Keeps fs a0 (Chip.triggerRow l c) := by
  unfold Chip.triggerRow
  repeat' first
    | (clear_value *; apply Touches.mk <;> intro hn <;> first | with_reducible rfl | exact hm.out hn rfl)
    | extract_lets
    | with_reducible refine Keeps.ite ?_ ?_
    | with_reducible exact h0
    | with_reducible exact Keeps.refl _
    | with_reducible apply waitUntil_keeps (hm.sub (by decide))
    | with_reducible apply issueTrig_keeps (hm.sub (by decide))
    | with_reducible apply setLoop_keeps (hm.sub (by decide))
    | with_reducible apply waitTransit_keeps (hm.sub (by decide))
    | with_reducible refine OptKeeps.of_eq ?_ (by assumption)
    | split

theorem starvedRow_keeps {fs : Nat} (hm : Within (Field.routed ||| Field.clk ||| Field.rtc) fs) {a0 : Chip} (l : Nat) (c : Chip) (h0 : Keeps fs a0 c) : Keeps fs a0 (Chip.starvedRow l c) := by
  unfold Chip.starvedRow
  repeat' first
    | (clear_value *; apply Touches.mk <;> intro hn <;> first | with_reducible rfl | exact hm.out hn rfl)
    | extract_lets
    | with_reducible refine Keeps.ite ?_ ?_
    | with_reducible exact h0
    | with_reducible exact Keeps.refl _
    | with_reducible apply fire_keeps (hm.sub (by decide))
    | with_reducible apply setLoop_keeps (hm.sub (by decide))
    | with_reducible apply waitUntil_keeps (hm.sub (by decide))
    | with_reducible refine OptKeeps.of_eq ?_ (by assumption)
    | split

theorem satAlarm_keeps {fs : Nat} (hm : Within (Field.routed ||| Field.clk ||| Field.rtc) fs) {a0 : Chip} (l : Nat) (c : Chip) (h0 : Keeps fs a0 c) : Keeps fs a0 (Chip.satAlarm l c) := by
  unfold Chip.satAlarm
  repeat' first
    | (clear_value *; apply Touches.mk <;> intro hn <;> first | with_reducible rfl | exact hm.out hn rfl)
    | extract_lets
    | with_reducible refine Keeps.ite ?_ ?_
    | with_reducible exact h0
    | with_reducible exact Keeps.refl _
    | with_reducible apply fire_keeps (hm.sub (by decide))
    | with_reducible apply setLoop_keeps (hm.sub (by decide))
    | with_reducible apply advance_keeps (hm.sub (by decide))
    | with_reducible refine OptKeeps.of_eq ?_ (by assumption)
    | split

theorem enableLoop_keeps {fs : Nat} (hm : Within (Field.groups ||| Field.loops) fs) {a0 : Chip} (l : Nat) (c : Chip) (h0 : Keeps fs a0 c) : Keeps fs a0 (Chip.enableLoop l c) := by
  unfold Chip.enableLoop
  repeat' first
    | (clear_value *; apply Touches.mk <;> intro hn <;> first | with_reducible rfl | exact hm.out hn rfl)
    | extract_lets
    | with_reducible refine Keeps.ite ?_ ?_
    | with_reducible exact h0
    | with_reducible exact Keeps.refl _
    | with_reducible apply orphan_keeps (hm.sub (by decide))
    | with_reducible apply setLoop_keeps (hm.sub (by decide))

theorem disableLoop_keeps {fs : Nat} (hm : Within (Field.loops ||| Field.minSel) fs) {a0 : Chip} (l : Nat) (c : Chip) (h0 : Keeps fs a0 c) : Keeps fs a0 (Chip.disableLoop l c) := by
  unfold Chip.disableLoop
  repeat' first
    | (clear_value *; apply Touches.mk <;> intro hn <;> first | with_reducible rfl | exact hm.out hn rfl)
    | extract_lets
    | with_reducible refine Keeps.ite ?_ ?_
    | with_reducible exact h0
    | with_reducible exact Keeps.refl _
    | with_reducible apply setLoop_keeps (hm.sub (by decide))
    | with_reducible refine Keeps.update ?_ ?_

theorem bodyLoopEnable_keeps {fs : Nat} (hm : Within (Field.groups ||| Field.loops) fs) {a0 : Chip} (k : Cmd) (c : Chip) (h0 : Keeps fs a0 c) : ResKeeps fs a0 (bodyLoopEnable k c) := by
  unfold bodyLoopEnable
  repeat' first
    | extract_lets
    | with_reducible refine ResKeeps.ite ?_ ?_
    | with_reducible refine Keeps.ite ?_ ?_
    | with_reducible exact h0
    | with_reducible exact Keeps.refl _
    | with_reducible apply enableLoop_keeps (hm.sub (by decide))
    | with_reducible apply ResKeeps.done
    | with_reducible apply ResKeeps.accepted
    | with_reducible apply ResKeeps.acceptedDone
    | with_reducible apply ResKeeps.waiting
    | with_reducible apply ResKeeps.held
    | with_reducible apply ResKeeps.ok
    | with_reducible apply ResKeeps.okWith
    | with_reducible apply ResKeeps.err
    | with_reducible apply ResKeeps.badParam
    | with_reducible apply ResKeeps.badLength

theorem bodyLoopDisable_keeps {fs : Nat} (hm : Within (Field.loops ||| Field.minSel) fs) {a0 : Chip} (k : Cmd) (c : Chip) (h0 : Keeps fs a0 c) : ResKeeps fs a0 (bodyLoopDisable k c) := by
  unfold bodyLoopDisable
  repeat' first
    | extract_lets
    | with_reducible refine ResKeeps.ite ?_ ?_
    | with_reducible refine Keeps.ite ?_ ?_
    | with_reducible exact h0
    | with_reducible exact Keeps.refl _
    | with_reducible apply disableLoop_keeps (hm.sub (by decide))
    | with_reducible apply ResKeeps.done
    | with_reducible apply ResKeeps.accepted
    | with_reducible apply ResKeeps.acceptedDone
    | with_reducible apply ResKeeps.waiting
    | with_reducible apply ResKeeps.held
    | with_reducible apply ResKeeps.ok
    | with_reducible apply ResKeeps.okWith
    | with_reducible apply ResKeeps.err
    | with_reducible apply ResKeeps.badParam
    | with_reducible apply ResKeeps.badLength

theorem bodyBankSwap_keeps {fs : Nat} (hm : Within (Field.loops) fs) {a0 : Chip} (k : Cmd) (c : Chip) (h0 : Keeps fs a0 c) : ResKeeps fs a0 (bodyBankSwap k c) := by
  unfold bodyBankSwap
  repeat' first
    | (clear_value *; apply Touches.mk <;> intro hn <;> first | with_reducible rfl | exact hm.out hn rfl)
    | extract_lets
    | with_reducible refine ResKeeps.ite ?_ ?_
    | with_reducible refine Keeps.ite ?_ ?_
    | with_reducible exact h0
    | with_reducible exact Keeps.refl _
    | with_reducible apply setLoop_keeps (hm.sub (by decide))
    | with_reducible apply ResKeeps.done
    | with_reducible apply ResKeeps.accepted
    | with_reducible apply ResKeeps.acceptedDone
    | with_reducible apply ResKeeps.waiting
    | with_reducible apply ResKeeps.held
    | with_reducible apply ResKeeps.ok
    | with_reducible apply ResKeeps.okWith
    | with_reducible apply ResKeeps.err
    | with_reducible apply ResKeeps.badParam
    | with_reducible apply ResKeeps.badLength

theorem bodyLoopStatus_keeps {fs : Nat} (hm : Within 0 fs) {a0 : Chip} (k : Cmd) (c : Chip) (h0 : Keeps fs a0 c) : ResKeeps fs a0 (bodyLoopStatus k c) := by
  unfold bodyLoopStatus
  repeat' first
    | extract_lets
    | with_reducible refine ResKeeps.ite ?_ ?_
    | with_reducible refine Keeps.ite ?_ ?_
    | with_reducible exact h0
    | with_reducible exact Keeps.refl _
    | with_reducible apply ResKeeps.done
    | with_reducible apply ResKeeps.accepted
    | with_reducible apply ResKeeps.acceptedDone
    | with_reducible apply ResKeeps.waiting
    | with_reducible apply ResKeeps.held
    | with_reducible apply ResKeeps.ok
    | with_reducible apply ResKeeps.okWith
    | with_reducible apply ResKeeps.err
    | with_reducible apply ResKeeps.badParam
    | with_reducible apply ResKeeps.badLength

theorem bodyIntegratorPreset_keeps {fs : Nat} (hm : Within (Field.loops) fs) {a0 : Chip} (k : Cmd) (c : Chip) (h0 : Keeps fs a0 c) : ResKeeps fs a0 (bodyIntegratorPreset k c) := by
  unfold bodyIntegratorPreset
  repeat' first
    | (clear_value *; apply Touches.mk <;> intro hn <;> first | with_reducible rfl | exact hm.out hn rfl)
    | extract_lets
    | with_reducible refine ResKeeps.ite ?_ ?_
    | with_reducible refine Keeps.ite ?_ ?_
    | with_reducible exact h0
    | with_reducible exact Keeps.refl _
    | with_reducible apply setLoop_keeps (hm.sub (by decide))
    | with_reducible apply ResKeeps.done
    | with_reducible apply ResKeeps.accepted
    | with_reducible apply ResKeeps.acceptedDone
    | with_reducible apply ResKeeps.waiting
    | with_reducible apply ResKeeps.held
    | with_reducible apply ResKeeps.ok
    | with_reducible apply ResKeeps.okWith
    | with_reducible apply ResKeeps.err
    | with_reducible apply ResKeeps.badParam
    | with_reducible apply ResKeeps.badLength

theorem bodySatClear_keeps {fs : Nat} (hm : Within (Field.loops) fs) {a0 : Chip} (k : Cmd) (c : Chip) (h0 : Keeps fs a0 c) : ResKeeps fs a0 (bodySatClear k c) := by
  unfold bodySatClear
  repeat' first
    | (clear_value *; apply Touches.mk <;> intro hn <;> first | with_reducible rfl | exact hm.out hn rfl)
    | extract_lets
    | with_reducible refine ResKeeps.ite ?_ ?_
    | with_reducible refine Keeps.ite ?_ ?_
    | with_reducible exact h0
    | with_reducible exact Keeps.refl _
    | with_reducible apply setLoop_keeps (hm.sub (by decide))
    | with_reducible apply ResKeeps.done
    | with_reducible apply ResKeeps.accepted
    | with_reducible apply ResKeeps.acceptedDone
    | with_reducible apply ResKeeps.waiting
    | with_reducible apply ResKeeps.held
    | with_reducible apply ResKeeps.ok
    | with_reducible apply ResKeeps.okWith
    | with_reducible apply ResKeeps.err
    | with_reducible apply ResKeeps.badParam
    | with_reducible apply ResKeeps.badLength

end Sys2Proof.Machine
end

