-- ==== Sys2Proof/Laws/KeepsSchedules.lean ====
section
/-! SUPPORT. What Machine/Schedules.lean keeps. -/

namespace Sys2Proof.Machine

theorem writeZoneOut_keeps {fs : Nat} (hm : Within (Field.slots ||| Field.produced ||| Field.slotWrites ||| Field.zones ||| Field.staleWrites ||| Field.loops) fs) {a0 : Chip} (z : Nat) (vs : List Int) (c : Chip) (h0 : Keeps fs a0 c) : Keeps fs a0 (Chip.writeZoneOut z vs c) := by
  unfold Chip.writeZoneOut
  repeat' first
    | (clear_value *; apply Touches.mk <;> intro hn <;> first | with_reducible rfl | exact hm.out hn rfl)
    | extract_lets
    | with_reducible refine foldl_keeps (fun _ _ => ?_) ?_
    | with_reducible refine Keeps.ite ?_ ?_
    | with_reducible exact h0
    | with_reducible exact Keeps.refl _
    | with_reducible apply produceNow_keeps (hm.sub (by decide))
    | with_reducible refine OptKeeps.of_eq ?_ (by assumption)
    | split

theorem evaluateZone_keeps {fs : Nat} (hm : Within (Field.routed ||| Field.slots ||| Field.produced ||| Field.slotWrites ||| Field.almanac ||| Field.zones ||| Field.staleWrites) fs) {a0 : Chip} (n : Nat) (why : Option Nat) (c : Chip) (z : Nat) (h0 : Keeps fs a0 c) : Keeps fs a0 (Chip.evaluateZone n why c z) := by
  unfold Chip.evaluateZone
  repeat' first
    | (clear_value *; apply Touches.mk <;> intro hn <;> first | with_reducible rfl | exact hm.out hn rfl)
    | extract_lets
    | with_reducible refine Keeps.ite ?_ ?_
    | with_reducible exact h0
    | with_reducible exact Keeps.refl _
    | with_reducible apply writeZoneOut_keeps (hm.sub (by decide))
    | with_reducible apply fire_keeps (hm.sub (by decide))
    | with_reducible refine OptKeeps.of_eq ?_ (by assumption)
    | split
    | with_reducible refine Keeps.update ?_ ?_

theorem evaluateZones_keeps {fs : Nat} (hm : Within (Field.routed ||| Field.slots ||| Field.produced ||| Field.slotWrites ||| Field.almanac ||| Field.zones ||| Field.staleWrites) fs) {a0 : Chip} (n : Nat) (why : Option Nat) (c : Chip) (h0 : Keeps fs a0 c) : Keeps fs a0 (Chip.evaluateZones n why c) := by
  unfold Chip.evaluateZones
  repeat' first
    | extract_lets
    | with_reducible refine foldl_keeps (fun _ _ => ?_) ?_
    | with_reducible exact h0
    | with_reducible exact Keeps.refl _
    | with_reducible apply evaluateZone_keeps (hm.sub (by decide))

theorem waitCount_keeps {fs : Nat} (hm : Within (Field.clk ||| Field.rtc) fs) {a0 : Chip} (n : Nat) (c : Chip) (h0 : Keeps fs a0 c) : Keeps fs a0 (Chip.waitCount n c) := by
  unfold Chip.waitCount
  repeat' first
    | extract_lets
    | with_reducible exact h0
    | with_reducible exact Keeps.refl _
    | with_reducible apply waitTotal_keeps (hm.sub (by decide))

theorem scheduleRow_keeps {fs : Nat} (hm : Within (Field.routed ||| Field.clk ||| Field.slots ||| Field.produced ||| Field.slotWrites ||| Field.rtc ||| Field.almanac ||| Field.zones ||| Field.staleWrites) fs) {a0 : Chip} (c : Chip) (h0 : Keeps fs a0 c) : Keeps fs a0 (Chip.scheduleRow c) := by
  unfold Chip.scheduleRow
  repeat' first
    | (clear_value *; apply Touches.mk <;> intro hn <;> first | with_reducible rfl | exact hm.out hn rfl)
    | extract_lets
    | with_reducible refine Keeps.ite ?_ ?_
    | with_reducible exact h0
    | with_reducible exact Keeps.refl _
    | with_reducible refine setRtc_keeps (hm.sub (by decide)) _ _ ?_ ?_
    | with_reducible apply waitCount_keeps (hm.sub (by decide))
    | with_reducible apply evaluateZones_keeps (hm.sub (by decide))
    | with_reducible refine OptKeeps.of_eq ?_ (by assumption)
    | split
    | with_reducible refine Keeps.update ?_ ?_
    | exact Nat.le_refl _
    | exact id
    | exact fun _ h => h

theorem optimalCheck_keeps {fs : Nat} (hm : Within (Field.clk ||| Field.rtc ||| Field.almanac ||| Field.predictions) fs) {a0 : Chip} (z : Nat) (c : Chip) (h0 : Keeps fs a0 c) : Keeps fs a0 (Chip.optimalCheck z c) := by
  unfold Chip.optimalCheck
  repeat' first
    | (clear_value *; apply Touches.mk <;> intro hn <;> first | with_reducible rfl | exact hm.out hn rfl)
    | extract_lets
    | with_reducible refine Keeps.ite ?_ ?_
    | with_reducible exact h0
    | with_reducible exact Keeps.refl _
    | with_reducible apply waitCount_keeps (hm.sub (by decide))
    | with_reducible refine OptKeeps.of_eq ?_ (by assumption)
    | split
    | with_reducible refine Keeps.update ?_ ?_

theorem earlyStart_keeps {fs : Nat} (hm : Within (Field.routed ||| Field.slots ||| Field.produced ||| Field.slotWrites ||| Field.almanac ||| Field.zones ||| Field.staleWrites) fs) {a0 : Chip} (z : Nat) (c : Chip) (h0 : Keeps fs a0 c) : Keeps fs a0 (Chip.earlyStart z c) := by
  unfold Chip.earlyStart
  repeat' first
    | (clear_value *; apply Touches.mk <;> intro hn <;> first | with_reducible rfl | exact hm.out hn rfl)
    | extract_lets
    | with_reducible refine foldl_keeps (fun _ _ => ?_) ?_
    | with_reducible refine Keeps.ite ?_ ?_
    | with_reducible exact h0
    | with_reducible exact Keeps.refl _
    | with_reducible apply evaluateZone_keeps (hm.sub (by decide))
    | with_reducible apply setZone_keeps (hm.sub (by decide))
    | with_reducible refine OptKeeps.of_eq ?_ (by assumption)
    | split
    | with_reducible refine Keeps.update ?_ ?_

theorem bodyScheduleStatus_keeps {fs : Nat} (hm : Within 0 fs) {a0 : Chip} (k : Cmd) (c : Chip) (h0 : Keeps fs a0 c) : ResKeeps fs a0 (bodyScheduleStatus k c) := by
  unfold bodyScheduleStatus
  repeat' first
    | (clear_value *; apply Touches.mk <;> intro hn <;> first | with_reducible rfl | exact hm.out hn rfl)
    | extract_lets
    | with_reducible refine ResKeeps.ite ?_ ?_
    | with_reducible refine Keeps.ite ?_ ?_
    | with_reducible exact h0
    | with_reducible exact Keeps.refl _
    | with_reducible apply ResKeeps.done
    | with_reducible apply ResKeeps.accepted
    | with_reducible apply ResKeeps.acceptedDone
    | with_reducible apply ResKeeps.waiting
    | with_reducible apply ResKeeps.held
    | with_reducible apply ResKeeps.ok
    | with_reducible apply ResKeeps.okWith
    | with_reducible apply ResKeeps.err
    | with_reducible apply ResKeeps.badParam
    | with_reducible apply ResKeeps.badLength

end Sys2Proof.Machine
end

