-- ==== Sys2Proof/Laws/KeepsCan.lean ====
section
/-! SUPPORT. What Machine/Can.lean keeps. -/

namespace Sys2Proof.Machine

theorem setCan_keeps {fs : Nat} (hm : Within (Field.can) fs) {a0 : Chip} (m : Nat) (s : CanSt) (c : Chip) (h0 : Keeps fs a0 c) : Keeps fs a0 (Chip.setCan m s c) := by
  unfold Chip.setCan
  repeat' first
    | (clear_value *; apply Touches.mk <;> intro hn <;> first | with_reducible rfl | exact hm.out hn rfl)
    | (apply Touches.mk <;> intro hn <;> first | with_reducible rfl | exact hm.out hn rfl)
    | extract_lets
    | with_reducible exact h0
    | with_reducible exact Keeps.refl _
    | with_reducible refine Keeps.update ?_ ?_

theorem modCan_keeps {fs : Nat} (hm : Within (Field.can) fs) {a0 : Chip} (m : Nat) (f : CanSt → CanSt) (c : Chip) (h0 : Keeps fs a0 c) : Keeps fs a0 (Chip.modCan m f c) := by
  unfold Chip.modCan
  repeat' first
    | extract_lets
    | with_reducible exact h0
    | with_reducible exact Keeps.refl _
    | with_reducible apply setCan_keeps (hm.sub (by decide))

theorem setCanObj_keeps {fs : Nat} (hm : Within (Field.can) fs) {a0 : Chip} (m : Nat) (o : Nat) (x : CanObjSt) (c : Chip) (h0 : Keeps fs a0 c) : Keeps fs a0 (Chip.setCanObj m o x c) := by
  unfold Chip.setCanObj
  repeat' first
    | (clear_value *; apply Touches.mk <;> intro hn <;> first | with_reducible rfl | exact hm.out hn rfl)
    | extract_lets
    | with_reducible exact h0
    | with_reducible exact Keeps.refl _
    | with_reducible apply modCan_keeps (hm.sub (by decide))

theorem canErr_keeps {fs : Nat} (hm : Within (Field.routed) fs) {a0 : Chip} (m : Nat) (reason : Nat) (c : Chip) (h0 : Keeps fs a0 c) : Keeps fs a0 (Chip.canErr m reason c) := by
  unfold Chip.canErr
  repeat' first
    | extract_lets
    | with_reducible refine Keeps.ite ?_ ?_
    | with_reducible exact h0
    | with_reducible exact Keeps.refl _
    | with_reducible apply fire_keeps (hm.sub (by decide))

theorem canMsg_keeps {fs : Nat} (hm : Within (Field.routed) fs) {a0 : Chip} (m : Nat) (kind : Nat) (obj : Nat) (c : Chip) (h0 : Keeps fs a0 c) : Keeps fs a0 (Chip.canMsg m kind obj c) := by
  unfold Chip.canMsg
  repeat' first
    | extract_lets
    | with_reducible exact h0
    | with_reducible exact Keeps.refl _
    | with_reducible apply fire_keeps (hm.sub (by decide))

theorem setLevel_keeps {fs : Nat} (hm : Within (Field.routed ||| Field.can) fs) {a0 : Chip} (m : Nat) (level : Nat) (c : Chip) (h0 : Keeps fs a0 c) : Keeps fs a0 (Chip.setLevel m level c) := by
  unfold Chip.setLevel
  repeat' first
    | (clear_value *; apply Touches.mk <;> intro hn <;> first | with_reducible rfl | exact hm.out hn rfl)
    | extract_lets
    | with_reducible refine Keeps.ite ?_ ?_
    | with_reducible exact h0
    | with_reducible exact Keeps.refl _
    | with_reducible apply canErr_keeps (hm.sub (by decide))
    | with_reducible apply modCan_keeps (hm.sub (by decide))

theorem errorRecord_keeps {fs : Nat} (hm : Within (Field.routed) fs) {a0 : Chip} (m : Nat) (ty : Nat) (phase : Nat) (id : Nat) (c : Chip) (h0 : Keeps fs a0 c) : Keeps fs a0 (Chip.errorRecord m ty phase id c) := by
  unfold Chip.errorRecord
  repeat' first
    | extract_lets
    | with_reducible exact h0
    | with_reducible exact Keeps.refl _
    | with_reducible apply arrive_keeps (hm.sub (by decide))

theorem s1Cause_keeps {fs : Nat} (hm : Within (Field.routed ||| Field.can) fs) {a0 : Chip} (m : Nat) (c : Chip) (h0 : Keeps fs a0 c) : Keeps fs a0 (Chip.s1Cause m c) := by
  unfold Chip.s1Cause
  repeat' first
    | (clear_value *; apply Touches.mk <;> intro hn <;> first | with_reducible rfl | exact hm.out hn rfl)
    | extract_lets
    | with_reducible refine Keeps.ite ?_ ?_
    | with_reducible exact h0
    | with_reducible exact Keeps.refl _
    | with_reducible apply setLevel_keeps (hm.sub (by decide))
    | with_reducible apply errorRecord_keeps (hm.sub (by decide))
    | with_reducible apply modCan_keeps (hm.sub (by decide))

theorem setCounts_keeps {fs : Nat} (hm : Within (Field.routed ||| Field.can) fs) {a0 : Chip} (m : Nat) (tec : Nat) (recv : Nat) (c : Chip) (h0 : Keeps fs a0 c) : Keeps fs a0 (Chip.setCounts m tec recv c) := by
  unfold Chip.setCounts
  repeat' first
    | (clear_value *; apply Touches.mk <;> intro hn <;> first | with_reducible rfl | exact hm.out hn rfl)
    | extract_lets
    | with_reducible refine Keeps.ite ?_ ?_
    | with_reducible exact h0
    | with_reducible exact Keeps.refl _
    | with_reducible apply setLevel_keeps (hm.sub (by decide))
    | with_reducible apply canErr_keeps (hm.sub (by decide))
    | with_reducible apply setCan_keeps (hm.sub (by decide))

theorem takeQueued_keeps {fs : Nat} (hm : Within (Field.routed ||| Field.cmds ||| Field.links ||| Field.fabric ||| Field.can) fs) {a0 : Chip} (m n : Nat) (c : Chip) (h0 : Keeps fs a0 c) : Keeps fs a0 (Chip.takeQueued m n c) := by
  induction n generalizing c with
  | zero => exact h0
  | succ n ih =>
    unfold Chip.takeQueued
    extract_lets s q len
    cases s.queued with
    | nil => exact h0
    | cons p rest =>
      refine Keeps.ite h0 ?_
      extract_lets c1 alive c2
      have h1 : Keeps fs a0 c1 := setQueue_keeps (hm.sub (by decide)) _ _ _ (setCan_keeps (hm.sub (by decide)) _ _ _ h0)
      cases alive with
      | none => exact ih _ h1
      | some k => exact ih _ (accept_keeps (hm.sub (by decide)) _ _ (modCan_keeps (hm.sub (by decide)) _ _ _ h1))

theorem refillCan_keeps {fs : Nat} (hm : Within (Field.routed ||| Field.cmds ||| Field.links ||| Field.fabric ||| Field.can) fs) {a0 : Chip} (m : Nat) (c : Chip) (h0 : Keeps fs a0 c) : Keeps fs a0 (Chip.refillCan m c) := by
  unfold Chip.refillCan
  repeat' first
    | extract_lets
    | with_reducible exact h0
    | with_reducible exact Keeps.refl _
    | with_reducible apply takeQueued_keeps (hm.sub (by decide))

theorem endSend_keeps {fs : Nat} (hm : Within (Field.routed ||| Field.sessions ||| Field.staged ||| Field.lives ||| Field.cmds ||| Field.firmware ||| Field.image ||| Field.links ||| Field.fabric ||| Field.cal ||| Field.streams ||| Field.can) fs) {a0 : Chip} (p : CanPend) (outcome : Nat) (c : Chip) (h0 : Keeps fs a0 c) : Keeps fs a0 (Chip.endSend p outcome c) := by
  unfold Chip.endSend
  repeat' first
    | (clear_value *; apply Touches.mk <;> intro hn <;> first | with_reducible rfl | exact hm.out hn rfl)
    | extract_lets
    | with_reducible exact h0
    | with_reducible exact Keeps.refl _
    | with_reducible apply finishTag_keeps (hm.sub (by decide))
    | with_reducible refine OptKeeps.of_eq ?_ (by assumption)
    | split

theorem dropPend_keeps {fs : Nat} (hm : Within (Field.can) fs) {a0 : Chip} (m : Nat) (num : Nat) (c : Chip) (h0 : Keeps fs a0 c) : Keeps fs a0 (Chip.dropPend m num c) := by
  unfold Chip.dropPend
  repeat' first
    | (clear_value *; apply Touches.mk <;> intro hn <;> first | with_reducible rfl | exact hm.out hn rfl)
    | extract_lets
    | with_reducible exact h0
    | with_reducible exact Keeps.refl _
    | with_reducible apply modCan_keeps (hm.sub (by decide))

theorem canHalt_keeps {fs : Nat} (hm : Within (Field.routed ||| Field.sessions ||| Field.staged ||| Field.lives ||| Field.cmds ||| Field.firmware ||| Field.image ||| Field.links ||| Field.fabric ||| Field.cal ||| Field.streams ||| Field.can) fs) {a0 : Chip} (m : Nat) (c : Chip) (h0 : Keeps fs a0 c) : Keeps fs a0 (Chip.canHalt m c) := by
  unfold Chip.canHalt
  repeat' first
    | (clear_value *; apply Touches.mk <;> intro hn <;> first | with_reducible rfl | exact hm.out hn rfl)
    | extract_lets
    | with_reducible refine foldl_keeps (fun _ _ => ?_) ?_
    | with_reducible exact h0
    | with_reducible exact Keeps.refl _
    | with_reducible apply modCan_keeps (hm.sub (by decide))
    | with_reducible apply setLevel_keeps (hm.sub (by decide))
    | with_reducible apply setQueue_keeps (hm.sub (by decide))
    | with_reducible apply endSend_keeps (hm.sub (by decide))

theorem afterFlight_keeps {fs : Nat} (hm : Within (Field.routed ||| Field.sessions ||| Field.staged ||| Field.lives ||| Field.cmds ||| Field.firmware ||| Field.image ||| Field.links ||| Field.fabric ||| Field.cal ||| Field.streams ||| Field.can) fs) {a0 : Chip} (m : Nat) (c : Chip) (h0 : Keeps fs a0 c) : Keeps fs a0 (Chip.afterFlight m c) := by
  unfold Chip.afterFlight
  repeat' first
    | (clear_value *; apply Touches.mk <;> intro hn <;> first | with_reducible rfl | exact hm.out hn rfl)
    | extract_lets
    | with_reducible exact h0
    | with_reducible exact Keeps.refl _
    | with_reducible apply refillCan_keeps (hm.sub (by decide))
    | with_reducible apply finishTag_keeps (hm.sub (by decide))
    | with_reducible apply canHalt_keeps (hm.sub (by decide))
    | with_reducible refine OptKeeps.of_eq ?_ (by assumption)
    | split

theorem answerCancels_keeps {fs : Nat} (hm : Within (Field.routed ||| Field.sessions ||| Field.staged ||| Field.lives ||| Field.cmds ||| Field.firmware ||| Field.image ||| Field.links ||| Field.fabric ||| Field.cal ||| Field.streams ||| Field.can) fs) {a0 : Chip} (f : CanFlight) (status : Nat) (c : Chip) (h0 : Keeps fs a0 c) : Keeps fs a0 (Chip.answerCancels f status c) := by
  unfold Chip.answerCancels
  repeat' first
    | extract_lets
    | with_reducible refine foldl_keeps (fun _ _ => ?_) ?_
    | with_reducible exact h0
    | with_reducible exact Keeps.refl _
    | with_reducible apply finishTag_keeps (hm.sub (by decide))

theorem arbitrate_keeps {fs : Nat} (hm : Within (Field.can) fs) {a0 : Chip} (m : Nat) (won : Bool) (c : Chip) (h0 : Keeps fs a0 c) : Keeps fs a0 (Chip.arbitrate m won c) := by
  unfold Chip.arbitrate
  repeat' first
    | (clear_value *; apply Touches.mk <;> intro hn <;> first | with_reducible rfl | exact hm.out hn rfl)
    | extract_lets
    | with_reducible refine Keeps.ite ?_ ?_
    | with_reducible exact h0
    | with_reducible exact Keeps.refl _
    | with_reducible apply modCan_keeps (hm.sub (by decide))
    | with_reducible apply dropPend_keeps (hm.sub (by decide))
    | with_reducible refine OptKeeps.of_eq ?_ (by assumption)
    | split

theorem txDone_keeps {fs : Nat} (hm : Within (Field.routed ||| Field.sessions ||| Field.staged ||| Field.lives ||| Field.cmds ||| Field.firmware ||| Field.image ||| Field.links ||| Field.fabric ||| Field.cal ||| Field.streams ||| Field.can ||| Field.freeCount) fs) {a0 : Chip} (m : Nat) (c : Chip) (h0 : Keeps fs a0 c) : Keeps fs a0 (Chip.txDone m c) := by
  unfold Chip.txDone
  repeat' first
    | (clear_value *; apply Touches.mk <;> intro hn <;> first | with_reducible rfl | exact hm.out hn rfl)
    | extract_lets
    | with_reducible refine Keeps.ite ?_ ?_
    | with_reducible exact h0
    | with_reducible exact Keeps.refl _
    | with_reducible apply afterFlight_keeps (hm.sub (by decide))
    | with_reducible apply answerCancels_keeps (hm.sub (by decide))
    | with_reducible apply endSend_keeps (hm.sub (by decide))
    | with_reducible apply canMsg_keeps (hm.sub (by decide))
    | with_reducible apply setCanObj_keeps (hm.sub (by decide))
    | with_reducible apply setCounts_keeps (hm.sub (by decide))
    | with_reducible apply setCan_keeps (hm.sub (by decide))
    | with_reducible apply nextFree_keeps (hm.sub (by decide))
    | with_reducible refine OptKeeps.of_eq ?_ (by assumption)
    | split

theorem flightFails_keeps {fs : Nat} (hm : Within (Field.routed ||| Field.sessions ||| Field.staged ||| Field.lives ||| Field.cmds ||| Field.firmware ||| Field.image ||| Field.links ||| Field.fabric ||| Field.cal ||| Field.streams ||| Field.can) fs) {a0 : Chip} (m : Nat) (c : Chip) (h0 : Keeps fs a0 c) : Keeps fs a0 (Chip.flightFails m c) := by
  unfold Chip.flightFails
  repeat' first
    | (clear_value *; apply Touches.mk <;> intro hn <;> first | with_reducible rfl | exact hm.out hn rfl)
    | extract_lets
    | with_reducible refine Keeps.ite ?_ ?_
    | with_reducible exact h0
    | with_reducible exact Keeps.refl _
    | with_reducible apply modCan_keeps (hm.sub (by decide))
    | with_reducible apply answerCancels_keeps (hm.sub (by decide))
    | with_reducible apply finishTag_keeps (hm.sub (by decide))
    | with_reducible apply afterFlight_keeps (hm.sub (by decide))
    | with_reducible apply endSend_keeps (hm.sub (by decide))
    | with_reducible apply s1Cause_keeps (hm.sub (by decide))
    | with_reducible apply canMsg_keeps (hm.sub (by decide))
    | with_reducible apply setCan_keeps (hm.sub (by decide))
    | with_reducible refine OptKeeps.of_eq ?_ (by assumption)
    | split
    | with_reducible refine Keeps.update ?_ ?_

theorem canErrorFrame_keeps {fs : Nat} (hm : Within (Field.routed ||| Field.sessions ||| Field.staged ||| Field.lives ||| Field.cmds ||| Field.firmware ||| Field.image ||| Field.links ||| Field.fabric ||| Field.cal ||| Field.streams ||| Field.can) fs) {a0 : Chip} (m : Nat) (ty : Nat) (dataPhase : Bool) (id : Nat) (tec : Nat) (recv : Nat) (c : Chip) (h0 : Keeps fs a0 c) : Keeps fs a0 (Chip.canErrorFrame m ty dataPhase id tec recv c) := by
  unfold Chip.canErrorFrame
  repeat' first
    | (clear_value *; apply Touches.mk <;> intro hn <;> first | with_reducible rfl | exact hm.out hn rfl)
    | extract_lets
    | with_reducible refine Keeps.ite ?_ ?_
    | with_reducible exact h0
    | with_reducible exact Keeps.refl _
    | with_reducible apply flightFails_keeps (hm.sub (by decide))
    | with_reducible apply setCounts_keeps (hm.sub (by decide))
    | with_reducible apply setCan_keeps (hm.sub (by decide))
    | with_reducible apply errorRecord_keeps (hm.sub (by decide))

theorem busRecovered_keeps {fs : Nat} (hm : Within (Field.routed ||| Field.can) fs) {a0 : Chip} (m : Nat) (c : Chip) (h0 : Keeps fs a0 c) : Keeps fs a0 (Chip.busRecovered m c) := by
  unfold Chip.busRecovered
  repeat' first
    | (clear_value *; apply Touches.mk <;> intro hn <;> first | with_reducible rfl | exact hm.out hn rfl)
    | extract_lets
    | with_reducible refine Keeps.ite ?_ ?_
    | with_reducible exact h0
    | with_reducible exact Keeps.refl _
    | with_reducible apply canErr_keeps (hm.sub (by decide))
    | with_reducible apply setCan_keeps (hm.sub (by decide))

theorem domTimeout_keeps {fs : Nat} (hm : Within (Field.routed) fs) {a0 : Chip} (m : Nat) (c : Chip) (h0 : Keeps fs a0 c) : Keeps fs a0 (Chip.domTimeout m c) := by
  unfold Chip.domTimeout
  repeat' first
    | extract_lets
    | with_reducible refine Keeps.ite ?_ ?_
    | with_reducible exact h0
    | with_reducible exact Keeps.refl _
    | with_reducible apply canErr_keeps (hm.sub (by decide))

theorem wakeUp_keeps {fs : Nat} (hm : Within (Field.routed) fs) {a0 : Chip} (m : Nat) (c : Chip) (h0 : Keeps fs a0 c) : Keeps fs a0 (Chip.wakeUp m c) := by
  unfold Chip.wakeUp
  repeat' first
    | extract_lets
    | with_reducible refine Keeps.ite ?_ ?_
    | with_reducible exact h0
    | with_reducible exact Keeps.refl _
    | with_reducible apply canErr_keeps (hm.sub (by decide))

theorem takeField_keeps {fs : Nat} (hm : Within (Field.slots ||| Field.produced ||| Field.slotWrites ||| Field.zones ||| Field.staleWrites ||| Field.loops) fs) {a0 : Chip} (m : Nat) (filter : Nat) (q : Half) (data : List Byte) (f : List Byte) (c : Chip) (h0 : Keeps fs a0 c) : Keeps fs a0 (Chip.takeField m filter q data f c) := by
  unfold Chip.takeField
  repeat' first
    | extract_lets
    | with_reducible refine Keeps.ite ?_ ?_
    | with_reducible exact h0
    | with_reducible exact Keeps.refl _
    | with_reducible apply produce_keeps (hm.sub (by decide))

theorem mapFrame_keeps {fs : Nat} (hm : Within (Field.slots ||| Field.produced ||| Field.slotWrites ||| Field.zones ||| Field.staleWrites ||| Field.loops) fs) {a0 : Chip} (m : Nat) (filter : Nat) (hdr : Bool) (f : CanFrame) (c : Chip) (h0 : Keeps fs a0 c) : Keeps fs a0 (Chip.mapFrame m filter hdr f c) := by
  unfold Chip.mapFrame
  repeat' first
    | extract_lets
    | with_reducible refine foldl_keeps (fun _ _ => ?_) ?_
    | with_reducible refine Keeps.ite ?_ ?_
    | with_reducible exact h0
    | with_reducible exact Keeps.refl _
    | with_reducible apply takeField_keeps (hm.sub (by decide))

theorem followSeq_keeps {fs : Nat} (hm : Within (Field.can) fs) {a0 : Chip} (m : Nat) (filter : Nat) (seq : Nat) (c : Chip) (h0 : Keeps fs a0 c) : Keeps fs a0 (Chip.followSeq m filter seq c) := by
  unfold Chip.followSeq
  repeat' first
    | (clear_value *; apply Touches.mk <;> intro hn <;> first | with_reducible rfl | exact hm.out hn rfl)
    | extract_lets
    | with_reducible refine Keeps.ite ?_ ?_
    | with_reducible exact h0
    | with_reducible exact Keeps.refl _
    | with_reducible apply modCan_keeps (hm.sub (by decide))

theorem filterFrame_keeps {fs : Nat} (hm : Within (Field.routed ||| Field.slots ||| Field.produced ||| Field.slotWrites ||| Field.zones ||| Field.staleWrites ||| Field.can) fs) {a0 : Chip} (m : Nat) (i : Nat) (e : List Byte) (f : CanFrame) (c : Chip) (h0 : Keeps fs a0 c) : Keeps fs a0 (Chip.filterFrame m i e f c) := by
  unfold Chip.filterFrame
  repeat' first
    | (clear_value *; apply Touches.mk <;> intro hn <;> first | with_reducible rfl | exact hm.out hn rfl)
    | extract_lets
    | with_reducible refine Keeps.ite ?_ ?_
    | with_reducible exact h0
    | with_reducible exact Keeps.refl _
    | with_reducible apply arrive_keeps (hm.sub (by decide))
    | with_reducible apply mapFrame_keeps (hm.sub (by decide))
    | with_reducible apply followSeq_keeps (hm.sub (by decide))
    | with_reducible apply canErr_keeps (hm.sub (by decide))
    | with_reducible apply modCan_keeps (hm.sub (by decide))

theorem canReceive_keeps {fs : Nat} (hm : Within (Field.routed ||| Field.slots ||| Field.produced ||| Field.slotWrites ||| Field.zones ||| Field.staleWrites ||| Field.can ||| Field.freeCount) fs) {a0 : Chip} (m : Nat) (f : CanFrame) (c : Chip) (h0 : Keeps fs a0 c) : Keeps fs a0 (Chip.canReceive m f c) := by
  unfold Chip.canReceive
  repeat' first
    | (clear_value *; apply Touches.mk <;> intro hn <;> first | with_reducible rfl | exact hm.out hn rfl)
    | extract_lets
    | with_reducible refine Keeps.ite ?_ ?_
    | with_reducible exact h0
    | with_reducible exact Keeps.refl _
    | with_reducible apply modCan_keeps (hm.sub (by decide))
    | with_reducible apply arrive_keeps (hm.sub (by decide))
    | with_reducible apply filterFrame_keeps (hm.sub (by decide))
    | with_reducible apply setCounts_keeps (hm.sub (by decide))
    | with_reducible apply setCan_keeps (hm.sub (by decide))
    | with_reducible apply nextFree_keeps (hm.sub (by decide))
    | with_reducible refine OptKeeps.of_eq ?_ (by assumption)
    | split

theorem s1Expire_keeps {fs : Nat} (hm : Within (Field.routed ||| Field.can) fs) {a0 : Chip} (m : Nat) (c : Chip) (h0 : Keeps fs a0 c) : Keeps fs a0 (Chip.s1Expire m c) := by
  unfold Chip.s1Expire
  repeat' first
    | extract_lets
    | with_reducible refine Keeps.ite ?_ ?_
    | with_reducible exact h0
    | with_reducible exact Keeps.refl _
    | with_reducible apply setLevel_keeps (hm.sub (by decide))

theorem startCycle_keeps {fs : Nat} (hm : Within (Field.routed ||| Field.can) fs) {a0 : Chip} (m : Nat) (cycle : Nat) (master : Bool) (c : Chip) (h0 : Keeps fs a0 c) : Keeps fs a0 (Chip.startCycle m cycle master c) := by
  unfold Chip.startCycle
  repeat' first
    | (clear_value *; apply Touches.mk <;> intro hn <;> first | with_reducible rfl | exact hm.out hn rfl)
    | extract_lets
    | with_reducible refine Keeps.ite ?_ ?_
    | with_reducible exact h0
    | with_reducible exact Keeps.refl _
    | with_reducible apply s1Expire_keeps (hm.sub (by decide))
    | with_reducible apply setLevel_keeps (hm.sub (by decide))
    | with_reducible apply modCan_keeps (hm.sub (by decide))

theorem referenceRow_keeps {fs : Nat} (hm : Within (Field.routed ||| Field.can) fs) {a0 : Chip} (m : Nat) (prio : Nat) (cycle : Nat) (c : Chip) (h0 : Keeps fs a0 c) : Keeps fs a0 (Chip.referenceRow m prio cycle c) := by
  unfold Chip.referenceRow
  repeat' first
    | (clear_value *; apply Touches.mk <;> intro hn <;> first | with_reducible rfl | exact hm.out hn rfl)
    | extract_lets
    | with_reducible refine Keeps.ite ?_ ?_
    | with_reducible exact h0
    | with_reducible exact Keeps.refl _
    | with_reducible apply startCycle_keeps (hm.sub (by decide))
    | with_reducible apply modCan_keeps (hm.sub (by decide))

theorem sendReference_keeps {fs : Nat} (hm : Within (Field.routed ||| Field.can) fs) {a0 : Chip} (m : Nat) (cycle : Nat) (c : Chip) (h0 : Keeps fs a0 c) : Keeps fs a0 (Chip.sendReference m cycle c) := by
  unfold Chip.sendReference
  repeat' first
    | (clear_value *; apply Touches.mk <;> intro hn <;> first | with_reducible rfl | exact hm.out hn rfl)
    | extract_lets
    | with_reducible exact h0
    | with_reducible exact Keeps.refl _
    | with_reducible apply startCycle_keeps (hm.sub (by decide))
    | with_reducible apply setCounts_keeps (hm.sub (by decide))
    | with_reducible apply modCan_keeps (hm.sub (by decide))

theorem referenceDue_keeps {fs : Nat} (hm : Within (Field.routed ||| Field.clk ||| Field.rtc ||| Field.can) fs) {a0 : Chip} (m : Nat) (won : Bool) (c : Chip) (h0 : Keeps fs a0 c) : Keeps fs a0 (Chip.referenceDue m won c) := by
  unfold Chip.referenceDue
  repeat' first
    | (clear_value *; apply Touches.mk <;> intro hn <;> first | with_reducible rfl | exact hm.out hn rfl)
    | extract_lets
    | with_reducible refine Keeps.ite ?_ ?_
    | with_reducible exact h0
    | with_reducible exact Keeps.refl _
    | with_reducible apply sendReference_keeps (hm.sub (by decide))
    | with_reducible apply modCan_keeps (hm.sub (by decide))
    | with_reducible apply canErr_keeps (hm.sub (by decide))
    | with_reducible apply waitUntil_keeps (hm.sub (by decide))

theorem s2Row_keeps {fs : Nat} (hm : Within (Field.routed ||| Field.clk ||| Field.rtc ||| Field.can) fs) {a0 : Chip} (m : Nat) (c : Chip) (h0 : Keeps fs a0 c) : Keeps fs a0 (Chip.s2Row m c) := by
  unfold Chip.s2Row
  repeat' first
    | (clear_value *; apply Touches.mk <;> intro hn <;> first | with_reducible rfl | exact hm.out hn rfl)
    | extract_lets
    | with_reducible refine Keeps.ite ?_ ?_
    | with_reducible exact h0
    | with_reducible exact Keeps.refl _
    | with_reducible apply setLevel_keeps (hm.sub (by decide))
    | with_reducible apply errorRecord_keeps (hm.sub (by decide))
    | with_reducible apply modCan_keeps (hm.sub (by decide))
    | with_reducible apply waitUntil_keeps (hm.sub (by decide))

theorem exclusiveWindow_keeps {fs : Nat} (hm : Within (Field.routed ||| Field.sessions ||| Field.staged ||| Field.lives ||| Field.cmds ||| Field.firmware ||| Field.image ||| Field.links ||| Field.fabric ||| Field.cal ||| Field.streams ||| Field.can) fs) {a0 : Chip} (m : Nat) (o : Nat) (idle : Bool) (c : Chip) (h0 : Keeps fs a0 c) : Keeps fs a0 (Chip.exclusiveWindow m o idle c) := by
  unfold Chip.exclusiveWindow
  repeat' first
    | (clear_value *; apply Touches.mk <;> intro hn <;> first | with_reducible rfl | exact hm.out hn rfl)
    | extract_lets
    | with_reducible refine Keeps.ite ?_ ?_
    | with_reducible exact h0
    | with_reducible exact Keeps.refl _
    | with_reducible apply modCan_keeps (hm.sub (by decide))
    | with_reducible apply refillCan_keeps (hm.sub (by decide))
    | with_reducible apply endSend_keeps (hm.sub (by decide))
    | with_reducible apply dropPend_keeps (hm.sub (by decide))
    | with_reducible apply s1Cause_keeps (hm.sub (by decide))
    | with_reducible refine OptKeeps.of_eq ?_ (by assumption)
    | split

theorem windowRow_keeps {fs : Nat} (hm : Within (Field.routed ||| Field.clk ||| Field.sessions ||| Field.staged ||| Field.lives ||| Field.cmds ||| Field.firmware ||| Field.image ||| Field.rtc ||| Field.links ||| Field.fabric ||| Field.cal ||| Field.streams ||| Field.can) fs) {a0 : Chip} (m : Nat) (idle : Bool) (c : Chip) (h0 : Keeps fs a0 c) : Keeps fs a0 (Chip.windowRow m idle c) := by
  unfold Chip.windowRow
  repeat' first
    | (clear_value *; apply Touches.mk <;> intro hn <;> first | with_reducible rfl | exact hm.out hn rfl)
    | extract_lets
    | with_reducible refine Keeps.ite ?_ ?_
    | with_reducible exact h0
    | with_reducible exact Keeps.refl _
    | with_reducible apply exclusiveWindow_keeps (hm.sub (by decide))
    | with_reducible apply modCan_keeps (hm.sub (by decide))
    | with_reducible apply waitUntil_keeps (hm.sub (by decide))
    | with_reducible refine OptKeeps.of_eq ?_ (by assumption)
    | split

theorem noWindowRow_keeps {fs : Nat} (hm : Within (Field.routed ||| Field.clk ||| Field.sessions ||| Field.staged ||| Field.lives ||| Field.cmds ||| Field.firmware ||| Field.image ||| Field.rtc ||| Field.links ||| Field.fabric ||| Field.cal ||| Field.streams ||| Field.can) fs) {a0 : Chip} (m : Nat) (ctx : Nat) (tag : Nat) (c : Chip) (h0 : Keeps fs a0 c) : Keeps fs a0 (Chip.noWindowRow m ctx tag c) := by
  unfold Chip.noWindowRow
  repeat' first
    | (clear_value *; apply Touches.mk <;> intro hn <;> first | with_reducible rfl | exact hm.out hn rfl)
    | extract_lets
    | with_reducible refine Keeps.ite ?_ ?_
    | with_reducible exact h0
    | with_reducible exact Keeps.refl _
    | with_reducible apply refillCan_keeps (hm.sub (by decide))
    | with_reducible apply endSend_keeps (hm.sub (by decide))
    | with_reducible apply dropPend_keeps (hm.sub (by decide))
    | with_reducible apply waitUntil_keeps (hm.sub (by decide))
    | with_reducible refine OptKeeps.of_eq ?_ (by assumption)
    | split

theorem objPending_keeps {fs : Nat} (hm : Within (Field.can) fs) {a0 : Chip} (m : Nat) (o : Nat) (c : Chip) (h0 : Keeps fs a0 c) : Keeps fs a0 (Chip.objPending m o c) := by
  unfold Chip.objPending
  repeat' first
    | (clear_value *; apply Touches.mk <;> intro hn <;> first | with_reducible rfl | exact hm.out hn rfl)
    | extract_lets
    | with_reducible refine Keeps.ite ?_ ?_
    | with_reducible exact h0
    | with_reducible exact Keeps.refl _
    | with_reducible apply modCan_keeps (hm.sub (by decide))
    | with_reducible apply setCanObj_keeps (hm.sub (by decide))

theorem txPeriodRow_keeps {fs : Nat} (hm : Within (Field.clk ||| Field.rtc ||| Field.can) fs) {a0 : Chip} (m : Nat) (o : Nat) (c : Chip) (h0 : Keeps fs a0 c) : Keeps fs a0 (Chip.txPeriodRow m o c) := by
  unfold Chip.txPeriodRow
  repeat' first
    | (clear_value *; apply Touches.mk <;> intro hn <;> first | with_reducible rfl | exact hm.out hn rfl)
    | extract_lets
    | with_reducible refine Keeps.ite ?_ ?_
    | with_reducible exact h0
    | with_reducible exact Keeps.refl _
    | with_reducible apply setCanObj_keeps (hm.sub (by decide))
    | with_reducible apply objPending_keeps (hm.sub (by decide))
    | with_reducible apply waitUntil_keeps (hm.sub (by decide))
    | with_reducible refine OptKeeps.of_eq ?_ (by assumption)
    | split

theorem txChangeRow_keeps {fs : Nat} (hm : Within (Field.clk ||| Field.rtc ||| Field.can) fs) {a0 : Chip} (m : Nat) (o : Nat) (c : Chip) (h0 : Keeps fs a0 c) : Keeps fs a0 (Chip.txChangeRow m o c) := by
  unfold Chip.txChangeRow
  repeat' first
    | (clear_value *; apply Touches.mk <;> intro hn <;> first | with_reducible rfl | exact hm.out hn rfl)
    | extract_lets
    | with_reducible refine Keeps.ite ?_ ?_
    | with_reducible exact h0
    | with_reducible exact Keeps.refl _
    | with_reducible apply objPending_keeps (hm.sub (by decide))
    | with_reducible apply waitUntil_keeps (hm.sub (by decide))
    | with_reducible refine OptKeeps.of_eq ?_ (by assumption)
    | split
    | with_reducible refine Keeps.update ?_ ?_

theorem startObjs_keeps {fs : Nat} (hm : Within (Field.can) fs) {a0 : Chip} (m : Nat) (c : Chip) (h0 : Keeps fs a0 c) : Keeps fs a0 (Chip.startObjs m c) := by
  unfold Chip.startObjs
  repeat' first
    | (clear_value *; apply Touches.mk <;> intro hn <;> first | with_reducible rfl | exact hm.out hn rfl)
    | extract_lets
    | with_reducible refine foldl_keeps (fun _ _ => ?_) ?_
    | with_reducible refine Keeps.ite ?_ ?_
    | with_reducible exact h0
    | with_reducible exact Keeps.refl _
    | with_reducible apply setCanObj_keeps (hm.sub (by decide))

theorem canStart_keeps {fs : Nat} (hm : Within (Field.can) fs) {a0 : Chip} (m : Nat) (c : Chip) (h0 : Keeps fs a0 c) : Keeps fs a0 (Chip.canStart m c) := by
  unfold Chip.canStart
  repeat' first
    | (clear_value *; apply Touches.mk <;> intro hn <;> first | with_reducible rfl | exact hm.out hn rfl)
    | extract_lets
    | with_reducible refine Keeps.ite ?_ ?_
    | with_reducible exact h0
    | with_reducible exact Keeps.refl _
    | with_reducible apply startObjs_keeps (hm.sub (by decide))
    | with_reducible apply modCan_keeps (hm.sub (by decide))

theorem bodyCanStart_keeps {fs : Nat} (hm : Within (Field.can) fs) {a0 : Chip} (k : Cmd) (c : Chip) (h0 : Keeps fs a0 c) : ResKeeps fs a0 (bodyCanStart k c) := by
  unfold bodyCanStart
  repeat' first
    | extract_lets
    | with_reducible refine ResKeeps.ite ?_ ?_
    | with_reducible refine Keeps.ite ?_ ?_
    | with_reducible exact h0
    | with_reducible exact Keeps.refl _
    | with_reducible apply canStart_keeps (hm.sub (by decide))
    | with_reducible apply ResKeeps.done
    | with_reducible apply ResKeeps.accepted
    | with_reducible apply ResKeeps.acceptedDone
    | with_reducible apply ResKeeps.waiting
    | with_reducible apply ResKeeps.held
    | with_reducible apply ResKeeps.ok
    | with_reducible apply ResKeeps.okWith
    | with_reducible apply ResKeeps.err
    | with_reducible apply ResKeeps.badParam
    | with_reducible apply ResKeeps.badLength

theorem bodyCanStop_keeps {fs : Nat} (hm : Within (Field.routed ||| Field.sessions ||| Field.staged ||| Field.lives ||| Field.cmds ||| Field.firmware ||| Field.image ||| Field.links ||| Field.fabric ||| Field.cal ||| Field.streams ||| Field.can) fs) {a0 : Chip} (k : Cmd) (c : Chip) (h0 : Keeps fs a0 c) : ResKeeps fs a0 (bodyCanStop k c) := by
  unfold bodyCanStop
  repeat' first
    | (clear_value *; apply Touches.mk <;> intro hn <;> first | with_reducible rfl | exact hm.out hn rfl)
    | extract_lets
    | with_reducible refine ResKeeps.ite ?_ ?_
    | with_reducible refine Keeps.ite ?_ ?_
    | with_reducible exact h0
    | with_reducible exact Keeps.refl _
    | with_reducible apply canHalt_keeps (hm.sub (by decide))
    | with_reducible apply setCan_keeps (hm.sub (by decide))
    | with_reducible apply ResKeeps.done
    | with_reducible apply ResKeeps.accepted
    | with_reducible apply ResKeeps.acceptedDone
    | with_reducible apply ResKeeps.waiting
    | with_reducible apply ResKeeps.held
    | with_reducible apply ResKeeps.ok
    | with_reducible apply ResKeeps.okWith
    | with_reducible apply ResKeeps.err
    | with_reducible apply ResKeeps.badParam
    | with_reducible apply ResKeeps.badLength

theorem bodyCanSend_keeps {fs : Nat} (hm : Within (Field.routed ||| Field.can) fs) {a0 : Chip} (k : Cmd) (c : Chip) (h0 : Keeps fs a0 c) : ResKeeps fs a0 (bodyCanSend k c) := by
  unfold bodyCanSend
  repeat' first
    | (clear_value *; apply Touches.mk <;> intro hn <;> first | with_reducible rfl | exact hm.out hn rfl)
    | extract_lets
    | with_reducible refine ResKeeps.ite ?_ ?_
    | with_reducible refine Keeps.ite ?_ ?_
    | with_reducible exact h0
    | with_reducible exact Keeps.refl _
    | with_reducible apply setQueue_keeps (hm.sub (by decide))
    | with_reducible apply putRecord_keeps (hm.sub (by decide))
    | with_reducible apply modCan_keeps (hm.sub (by decide))
    | with_reducible apply passTx_keeps (hm.sub (by decide))
    | with_reducible apply setCan_keeps (hm.sub (by decide))
    | with_reducible apply ResKeeps.done
    | with_reducible apply ResKeeps.accepted
    | with_reducible apply ResKeeps.acceptedDone
    | with_reducible apply ResKeeps.waiting
    | with_reducible apply ResKeeps.held
    | with_reducible apply ResKeeps.ok
    | with_reducible apply ResKeeps.okWith
    | with_reducible apply ResKeeps.err
    | with_reducible apply ResKeeps.badParam
    | with_reducible apply ResKeeps.badLength
    | with_reducible refine OptKeeps.of_eq ?_ (by assumption)
    | split

theorem cancelSend_keeps {fs : Nat} (hm : Within (Field.routed ||| Field.sessions ||| Field.staged ||| Field.lives ||| Field.cmds ||| Field.firmware ||| Field.image ||| Field.links ||| Field.fabric ||| Field.cal ||| Field.streams ||| Field.can) fs) {a0 : Chip} (m : Nat) (ctx : Nat) (tag : Nat) (by_ : Nat × Nat) (c : Chip) (h0 : Keeps fs a0 c) : CancelKeeps fs a0 (Chip.cancelSend m ctx tag by_ c) := by
  unfold Chip.cancelSend
  repeat' first
    | (clear_value *; apply Touches.mk <;> intro hn <;> first | with_reducible rfl | exact hm.out hn rfl)
    | extract_lets
    | with_reducible refine CancelKeeps.ite ?_ ?_
    | with_reducible refine Keeps.ite ?_ ?_
    | with_reducible exact h0
    | with_reducible exact Keeps.refl _
    | with_reducible apply refillCan_keeps (hm.sub (by decide))
    | with_reducible apply finishTag_keeps (hm.sub (by decide))
    | with_reducible apply setCan_keeps (hm.sub (by decide))
    | with_reducible exact CancelKeeps.tooLate
    | with_reducible apply CancelKeeps.withdrawn
    | with_reducible apply CancelKeeps.waits
    | with_reducible refine OptKeeps.of_eq ?_ (by assumption)
    | split

theorem bodyCanCancel_keeps {fs : Nat} (hm : Within (Field.routed ||| Field.sessions ||| Field.staged ||| Field.lives ||| Field.cmds ||| Field.firmware ||| Field.image ||| Field.links ||| Field.fabric ||| Field.cal ||| Field.streams ||| Field.can) fs) {a0 : Chip} (k : Cmd) (c : Chip) (h0 : Keeps fs a0 c) : ResKeeps fs a0 (bodyCanCancel k c) := by
  unfold bodyCanCancel
  extract_lets p
  refine ResKeeps.ite h0 (ResKeeps.ite h0 ?_)
  cases namedCtx k (fld p 2 1) with
  | none => exact h0
  | some x =>
    dsimp only
    cases c.findCmd x (fld p 0 2) with
    | none => exact h0
    | some t =>
      dsimp only
      refine ResKeeps.ite h0 (ResKeeps.ite (finish_keeps (hm.sub (by decide)) _ _ _ _ _ h0) ?_)
      have hk := cancelSend_keeps (hm.sub (by decide)) k.inst x t.tag (k.ctx, k.tag) c h0
      generalize c.cancelSend k.inst x t.tag (k.ctx, k.tag) = r at hk
      cases r with
      | tooLate => exact h0
      | withdrawn e => exact hk
      | waits e => exact hk

theorem bodyCanStatus_keeps {fs : Nat} (hm : Within 0 fs) {a0 : Chip} (k : Cmd) (c : Chip) (h0 : Keeps fs a0 c) : ResKeeps fs a0 (bodyCanStatus k c) := by
  unfold bodyCanStatus
  repeat' first
    | extract_lets
    | with_reducible refine ResKeeps.ite ?_ ?_
    | with_reducible refine Keeps.ite ?_ ?_
    | with_reducible exact h0
    | with_reducible exact Keeps.refl _
    | with_reducible apply ResKeeps.done
    | with_reducible apply ResKeeps.accepted
    | with_reducible apply ResKeeps.acceptedDone
    | with_reducible apply ResKeeps.waiting
    | with_reducible apply ResKeeps.held
    | with_reducible apply ResKeeps.ok
    | with_reducible apply ResKeeps.okWith
    | with_reducible apply ResKeeps.err
    | with_reducible apply ResKeeps.badParam
    | with_reducible apply ResKeeps.badLength

theorem bodyCanTimeMaster_keeps {fs : Nat} (hm : Within (Field.attrs ||| Field.gens) fs) {a0 : Chip} (k : Cmd) (c : Chip) (h0 : Keeps fs a0 c) : ResKeeps fs a0 (bodyCanTimeMaster k c) := by
  unfold bodyCanTimeMaster
  repeat' first
    | extract_lets
    | with_reducible refine ResKeeps.ite ?_ ?_
    | with_reducible refine Keeps.ite ?_ ?_
    | with_reducible exact h0
    | with_reducible exact Keeps.refl _
    | with_reducible apply bumpGen_keeps (hm.sub (by decide))
    | with_reducible apply setAttr_keeps (hm.sub (by decide))
    | with_reducible apply ResKeeps.done
    | with_reducible apply ResKeeps.accepted
    | with_reducible apply ResKeeps.acceptedDone
    | with_reducible apply ResKeeps.waiting
    | with_reducible apply ResKeeps.held
    | with_reducible apply ResKeeps.ok
    | with_reducible apply ResKeeps.okWith
    | with_reducible apply ResKeeps.err
    | with_reducible apply ResKeeps.badParam
    | with_reducible apply ResKeeps.badLength

end Sys2Proof.Machine
end

