-- ==== Sys2Proof/Laws/KeepsPlate.lean ====
section
/-! SUPPORT. What Machine/Plate.lean keeps. -/

namespace Sys2Proof.Machine

theorem setPanel_keeps {fs : Nat} (hm : Within (Field.panels) fs) {a0 : Chip} (d : Nat) (s : PanelSt) (c : Chip) (h0 : Keeps fs a0 c) : Keeps fs a0 (Chip.setPanel d s c) := by
  unfold Chip.setPanel
  repeat' first
    | (clear_value *; apply Touches.mk <;> intro hn <;> first | with_reducible rfl | exact hm.out hn rfl)
    | (apply Touches.mk <;> intro hn <;> first | with_reducible rfl | exact hm.out hn rfl)
    | extract_lets
    | with_reducible exact h0
    | with_reducible exact Keeps.refl _
    | with_reducible refine Keeps.update ?_ ?_

theorem modPanel_keeps {fs : Nat} (hm : Within (Field.panels) fs) {a0 : Chip} (d : Nat) (f : PanelSt → PanelSt) (c : Chip) (h0 : Keeps fs a0 c) : Keeps fs a0 (Chip.modPanel d f c) := by
  unfold Chip.modPanel
  repeat' first
    | extract_lets
    | with_reducible exact h0
    | with_reducible exact Keeps.refl _
    | with_reducible apply setPanel_keeps (hm.sub (by decide))

theorem panelFault_keeps {fs : Nat} (hm : Within (Field.routed) fs) {a0 : Chip} (d : Nat) (reason : Nat) (rails : Nat) (c : Chip) (h0 : Keeps fs a0 c) : Keeps fs a0 (Chip.panelFault d reason rails c) := by
  unfold Chip.panelFault
  repeat' first
    | extract_lets
    | with_reducible exact h0
    | with_reducible exact Keeps.refl _
    | with_reducible apply fire_keeps (hm.sub (by decide))

theorem evalBand_keeps {fs : Nat} (hm : Within (Field.routed ||| Field.panels) fs) {a0 : Chip} (d : Nat) (c : Chip) (h0 : Keeps fs a0 c) : Keeps fs a0 (Chip.evalBand d c) := by
  unfold Chip.evalBand
  repeat' first
    | (clear_value *; apply Touches.mk <;> intro hn <;> first | with_reducible rfl | exact hm.out hn rfl)
    | extract_lets
    | with_reducible refine Keeps.ite ?_ ?_
    | with_reducible exact h0
    | with_reducible exact Keeps.refl _
    | with_reducible apply panelFault_keeps (hm.sub (by decide))
    | with_reducible apply setPanel_keeps (hm.sub (by decide))

theorem bandRow_keeps {fs : Nat} (hm : Within (Field.routed ||| Field.clk ||| Field.rtc ||| Field.panels) fs) {a0 : Chip} (d : Nat) (c : Chip) (h0 : Keeps fs a0 c) : Keeps fs a0 (Chip.bandRow d c) := by
  unfold Chip.bandRow
  repeat' first
    | (clear_value *; apply Touches.mk <;> intro hn <;> first | with_reducible rfl | exact hm.out hn rfl)
    | extract_lets
    | with_reducible refine Keeps.ite ?_ ?_
    | with_reducible exact h0
    | with_reducible exact Keeps.refl _
    | with_reducible apply evalBand_keeps (hm.sub (by decide))
    | with_reducible apply modPanel_keeps (hm.sub (by decide))
    | with_reducible apply waitUntil_keeps (hm.sub (by decide))

theorem railsRise_keeps {fs : Nat} (hm : Within (Field.panels) fs) {a0 : Chip} (d : Nat) (c : Chip) (h0 : Keeps fs a0 c) : Keeps fs a0 (Chip.railsRise d c) := by
  unfold Chip.railsRise
  repeat' first
    | (clear_value *; apply Touches.mk <;> intro hn <;> first | with_reducible rfl | exact hm.out hn rfl)
    | extract_lets
    | with_reducible refine Keeps.ite ?_ ?_
    | with_reducible exact h0
    | with_reducible exact Keeps.refl _
    | with_reducible apply setPanel_keeps (hm.sub (by decide))

theorem railsFall_keeps {fs : Nat} (hm : Within (Field.panels) fs) {a0 : Chip} (d : Nat) (c : Chip) (h0 : Keeps fs a0 c) : Keeps fs a0 (Chip.railsFall d c) := by
  unfold Chip.railsFall
  repeat' first
    | (clear_value *; apply Touches.mk <;> intro hn <;> first | with_reducible rfl | exact hm.out hn rfl)
    | extract_lets
    | with_reducible refine Keeps.ite ?_ ?_
    | with_reducible exact h0
    | with_reducible exact Keeps.refl _
    | with_reducible apply setPanel_keeps (hm.sub (by decide))

theorem endPower_keeps {fs : Nat} (hm : Within (Field.routed ||| Field.sessions ||| Field.staged ||| Field.lives ||| Field.cmds ||| Field.firmware ||| Field.image ||| Field.links ||| Field.fabric ||| Field.cal ||| Field.streams ||| Field.can ||| Field.panels) fs) {a0 : Chip} (d : Nat) (up : Bool) (status : Nat) (c : Chip) (h0 : Keeps fs a0 c) : Keeps fs a0 (Chip.endPower d up status c) := by
  unfold Chip.endPower
  repeat' first
    | (clear_value *; apply Touches.mk <;> intro hn <;> first | with_reducible rfl | exact hm.out hn rfl)
    | extract_lets
    | with_reducible refine Keeps.ite ?_ ?_
    | with_reducible exact h0
    | with_reducible exact Keeps.refl _
    | with_reducible apply finishTag_keeps (hm.sub (by decide))
    | with_reducible apply modPanel_keeps (hm.sub (by decide))
    | with_reducible refine OptKeeps.of_eq ?_ (by assumption)
    | split

theorem railStep_keeps {fs : Nat} (hm : Within (Field.routed ||| Field.clk ||| Field.sessions ||| Field.staged ||| Field.lives ||| Field.cmds ||| Field.firmware ||| Field.image ||| Field.rtc ||| Field.links ||| Field.fabric ||| Field.cal ||| Field.streams ||| Field.can ||| Field.panels) fs) {a0 : Chip} (d : Nat) (c : Chip) (h0 : Keeps fs a0 c) : Keeps fs a0 (Chip.railStep d c) := by
  unfold Chip.railStep
  repeat' first
    | (clear_value *; apply Touches.mk <;> intro hn <;> first | with_reducible rfl | exact hm.out hn rfl)
    | extract_lets
    | with_reducible refine Keeps.ite ?_ ?_
    | with_reducible exact h0
    | with_reducible exact Keeps.refl _
    | with_reducible apply endPower_keeps (hm.sub (by decide))
    | with_reducible apply fire_keeps (hm.sub (by decide))
    | with_reducible apply setPanel_keeps (hm.sub (by decide))
    | with_reducible apply modPanel_keeps (hm.sub (by decide))
    | with_reducible apply advance_keeps (hm.sub (by decide))
    | with_reducible refine OptKeeps.of_eq ?_ (by assumption)
    | split

theorem takeImage_keeps {fs : Nat} (hm : Within (Field.routed ||| Field.panels) fs) {a0 : Chip} (d : Nat) (b : List Byte) (c : Chip) (h0 : Keeps fs a0 c) : Keeps fs a0 (Chip.takeImage d b c) := by
  unfold Chip.takeImage
  repeat' first
    | (clear_value *; apply Touches.mk <;> intro hn <;> first | with_reducible rfl | exact hm.out hn rfl)
    | extract_lets
    | with_reducible refine foldl_keeps (fun _ _ => ?_) ?_
    | with_reducible refine Keeps.ite ?_ ?_
    | with_reducible exact h0
    | with_reducible exact Keeps.refl _
    | with_reducible apply panelFault_keeps (hm.sub (by decide))
    | with_reducible apply modPanel_keeps (hm.sub (by decide))

theorem takeImages_keeps {fs : Nat} (hm : Within (Field.routed ||| Field.panels) fs) {a0 : Chip} (d tail n : Nat) (c : Chip) (h0 : Keeps fs a0 c) : Keeps fs a0 (Chip.takeImages d tail n c) := by
  induction n generalizing c with
  | zero => exact h0
  | succ n ih =>
    unfold Chip.takeImages
    exact Keeps.ite h0 (ih _ (takeImage_keeps (hm.sub (by decide)) _ _ _ (setQueue_keeps (hm.sub (by decide)) _ _ _ h0)))

theorem startPixel_keeps {fs : Nat} (hm : Within (Field.panels) fs) {a0 : Chip} (d : Nat) (k : Nat) (seq : Nat) (target : Nat) (sweep : Bool) (fresh : Option Nat) (c : Chip) (h0 : Keeps fs a0 c) : Keeps fs a0 (Chip.startPixel d k seq target sweep fresh c) := by
  unfold Chip.startPixel
  repeat' first
    | (clear_value *; apply Touches.mk <;> intro hn <;> first | with_reducible rfl | exact hm.out hn rfl)
    | extract_lets
    | with_reducible refine Keeps.ite ?_ ?_
    | with_reducible exact h0
    | with_reducible exact Keeps.refl _
    | with_reducible apply modPanel_keeps (hm.sub (by decide))

theorem replacePending_keeps {fs : Nat} (hm : Within (Field.panels) fs) {a0 : Chip} (d : Nat) (k : Nat) (new : Option PendingTarget) (c : Chip) (h0 : Keeps fs a0 c) : Keeps fs a0 (Chip.replacePending d k new c) := by
  unfold Chip.replacePending
  repeat' first
    | (clear_value *; apply Touches.mk <;> intro hn <;> first | with_reducible rfl | exact hm.out hn rfl)
    | extract_lets
    | with_reducible exact h0
    | with_reducible exact Keeps.refl _
    | with_reducible apply modPanel_keeps (hm.sub (by decide))

theorem judgePixel_keeps {fs : Nat} (hm : Within (Field.panels) fs) {a0 : Chip} (d : Nat) (k : Nat) (q : PendingTarget) (deferred : Bool) (c : Chip) (h0 : Keeps fs a0 c) : Keeps fs a0 (Chip.judgePixel d k q deferred c) := by
  unfold Chip.judgePixel
  repeat' first
    | (clear_value *; apply Touches.mk <;> intro hn <;> first | with_reducible rfl | exact hm.out hn rfl)
    | extract_lets
    | with_reducible refine Keeps.ite ?_ ?_
    | with_reducible exact h0
    | with_reducible exact Keeps.refl _
    | with_reducible apply startPixel_keeps (hm.sub (by decide))
    | with_reducible apply replacePending_keeps (hm.sub (by decide))
    | with_reducible apply modPanel_keeps (hm.sub (by decide))
    | with_reducible refine OptKeeps.of_eq ?_ (by assumption)
    | split

theorem startEntry_keeps {fs : Nat} (hm : Within (Field.panels) fs) {a0 : Chip} (d : Nat) (u : PlateUpdate) (e : Nat × Nat) (c : Chip) (h0 : Keeps fs a0 c) : Keeps fs a0 (Chip.startEntry d u e c) := by
  unfold Chip.startEntry
  repeat' first
    | extract_lets
    | with_reducible refine Keeps.ite ?_ ?_
    | with_reducible exact h0
    | with_reducible exact Keeps.refl _
    | with_reducible apply judgePixel_keeps (hm.sub (by decide))
    | with_reducible apply replacePending_keeps (hm.sub (by decide))

theorem endUpdate_keeps {fs : Nat} (hm : Within (Field.routed ||| Field.sessions ||| Field.staged ||| Field.lives ||| Field.cmds ||| Field.firmware ||| Field.image ||| Field.links ||| Field.fabric ||| Field.cal ||| Field.streams ||| Field.can ||| Field.panels) fs) {a0 : Chip} (d : Nat) (outcome : Nat) (u : PlateUpdate) (c : Chip) (h0 : Keeps fs a0 c) : Keeps fs a0 (Chip.endUpdate d outcome u c) := by
  unfold Chip.endUpdate
  repeat' first
    | (clear_value *; apply Touches.mk <;> intro hn <;> first | with_reducible rfl | exact hm.out hn rfl)
    | extract_lets
    | with_reducible exact h0
    | with_reducible exact Keeps.refl _
    | with_reducible apply finishTag_keeps (hm.sub (by decide))
    | with_reducible apply fire_keeps (hm.sub (by decide))
    | with_reducible apply modPanel_keeps (hm.sub (by decide))
    | with_reducible refine OptKeeps.of_eq ?_ (by assumption)
    | split

theorem endUpdates_keeps {fs : Nat} (hm : Within (Field.routed ||| Field.sessions ||| Field.staged ||| Field.lives ||| Field.cmds ||| Field.firmware ||| Field.image ||| Field.links ||| Field.fabric ||| Field.cal ||| Field.streams ||| Field.can ||| Field.panels) fs) {a0 : Chip} (d : Nat) (c : Chip) (h0 : Keeps fs a0 c) : Keeps fs a0 (Chip.endUpdates d c) := by
  unfold Chip.endUpdates
  repeat' first
    | extract_lets
    | with_reducible refine foldl_keeps (fun _ _ => ?_) ?_
    | with_reducible exact h0
    | with_reducible exact Keeps.refl _
    | with_reducible apply endUpdate_keeps (hm.sub (by decide))

theorem interrupt_keeps {fs : Nat} (hm : Within (Field.routed ||| Field.sessions ||| Field.staged ||| Field.lives ||| Field.cmds ||| Field.firmware ||| Field.image ||| Field.links ||| Field.fabric ||| Field.cal ||| Field.streams ||| Field.can ||| Field.panels) fs) {a0 : Chip} (d : Nat) (outcome : Nat) (c : Chip) (h0 : Keeps fs a0 c) : Keeps fs a0 (Chip.interrupt d outcome c) := by
  unfold Chip.interrupt
  repeat' first
    | (clear_value *; apply Touches.mk <;> intro hn <;> first | with_reducible rfl | exact hm.out hn rfl)
    | extract_lets
    | with_reducible refine foldl_keeps (fun _ _ => ?_) ?_
    | with_reducible refine Keeps.ite ?_ ?_
    | with_reducible exact h0
    | with_reducible exact Keeps.refl _
    | with_reducible apply endUpdate_keeps (hm.sub (by decide))
    | with_reducible apply modPanel_keeps (hm.sub (by decide))

theorem railFault_keeps {fs : Nat} (hm : Within (Field.routed ||| Field.sessions ||| Field.staged ||| Field.lives ||| Field.cmds ||| Field.firmware ||| Field.image ||| Field.links ||| Field.fabric ||| Field.cal ||| Field.streams ||| Field.can ||| Field.panels) fs) {a0 : Chip} (d : Nat) (notGood : Nat) (riseTimeout : Bool) (c : Chip) (h0 : Keeps fs a0 c) : Keeps fs a0 (Chip.railFault d notGood riseTimeout c) := by
  unfold Chip.railFault
  repeat' first
    | (clear_value *; apply Touches.mk <;> intro hn <;> first | with_reducible rfl | exact hm.out hn rfl)
    | extract_lets
    | with_reducible refine Keeps.ite ?_ ?_
    | with_reducible exact h0
    | with_reducible exact Keeps.refl _
    | with_reducible apply endPower_keeps (hm.sub (by decide))
    | with_reducible apply panelFault_keeps (hm.sub (by decide))
    | with_reducible apply interrupt_keeps (hm.sub (by decide))
    | with_reducible apply railsFall_keeps (hm.sub (by decide))
    | with_reducible apply setPanel_keeps (hm.sub (by decide))

theorem panelHalt_keeps {fs : Nat} (hm : Within (Field.routed ||| Field.sessions ||| Field.staged ||| Field.lives ||| Field.cmds ||| Field.firmware ||| Field.image ||| Field.links ||| Field.fabric ||| Field.cal ||| Field.streams ||| Field.can ||| Field.panels) fs) {a0 : Chip} (d : Nat) (outcome : Nat) (reason : Option Nat) (c : Chip) (h0 : Keeps fs a0 c) : Keeps fs a0 (Chip.panelHalt d outcome reason c) := by
  unfold Chip.panelHalt
  repeat' first
    | (clear_value *; apply Touches.mk <;> intro hn <;> first | with_reducible rfl | exact hm.out hn rfl)
    | extract_lets
    | with_reducible refine Keeps.ite ?_ ?_
    | with_reducible exact h0
    | with_reducible exact Keeps.refl _
    | with_reducible apply panelFault_keeps (hm.sub (by decide))
    | with_reducible apply endPower_keeps (hm.sub (by decide))
    | with_reducible apply interrupt_keeps (hm.sub (by decide))
    | with_reducible apply railsFall_keeps (hm.sub (by decide))
    | with_reducible refine OptKeeps.of_eq ?_ (by assumption)
    | split

theorem railIdle_keeps {fs : Nat} (hm : Within (Field.clk ||| Field.rtc ||| Field.panels) fs) {a0 : Chip} (d : Nat) (c : Chip) (h0 : Keeps fs a0 c) : Keeps fs a0 (Chip.railIdle d c) := by
  unfold Chip.railIdle
  repeat' first
    | (clear_value *; apply Touches.mk <;> intro hn <;> first | with_reducible rfl | exact hm.out hn rfl)
    | extract_lets
    | with_reducible refine Keeps.ite ?_ ?_
    | with_reducible exact h0
    | with_reducible exact Keeps.refl _
    | with_reducible apply modPanel_keeps (hm.sub (by decide))
    | with_reducible apply waitUntil_keeps (hm.sub (by decide))

theorem driveFrame_keeps {fs : Nat} (hm : Within (Field.routed ||| Field.panels) fs) {a0 : Chip} (d : Nat) (c : Chip) (h0 : Keeps fs a0 c) : Keeps fs a0 (Chip.driveFrame d c) := by
  unfold Chip.driveFrame
  repeat' first
    | (clear_value *; apply Touches.mk <;> intro hn <;> first | with_reducible rfl | exact hm.out hn rfl)
    | extract_lets
    | with_reducible refine foldl_keeps (fun _ _ => ?_) ?_
    | with_reducible refine Keeps.ite ?_ ?_
    | with_reducible exact h0
    | with_reducible exact Keeps.refl _
    | with_reducible apply panelFault_keeps (hm.sub (by decide))
    | with_reducible apply setPanel_keeps (hm.sub (by decide))

theorem judgePending_keeps {fs : Nat} (hm : Within (Field.panels) fs) {a0 : Chip} (d : Nat) (c : Chip) (h0 : Keeps fs a0 c) : Keeps fs a0 (Chip.judgePending d c) := by
  unfold Chip.judgePending
  repeat' first
    | (clear_value *; apply Touches.mk <;> intro hn <;> first | with_reducible rfl | exact hm.out hn rfl)
    | extract_lets
    | with_reducible refine foldl_keeps (fun _ _ => ?_) ?_
    | with_reducible refine Keeps.ite ?_ ?_
    | with_reducible exact h0
    | with_reducible exact Keeps.refl _
    | with_reducible apply judgePixel_keeps (hm.sub (by decide))
    | with_reducible apply modPanel_keeps (hm.sub (by decide))
    | with_reducible refine OptKeeps.of_eq ?_ (by assumption)
    | split

theorem startUpdates_keeps {fs : Nat} (hm : Within (Field.routed ||| Field.panels) fs) {a0 : Chip} (d : Nat) (c : Chip) (h0 : Keeps fs a0 c) : Keeps fs a0 (Chip.startUpdates d c) := by
  unfold Chip.startUpdates
  repeat' first
    | (clear_value *; apply Touches.mk <;> intro hn <;> first | with_reducible rfl | exact hm.out hn rfl)
    | extract_lets
    | with_reducible refine foldl_keeps (fun _ _ => ?_) ?_
    | with_reducible refine Keeps.ite ?_ ?_
    | with_reducible exact h0
    | with_reducible exact Keeps.refl _
    | with_reducible apply modPanel_keeps (hm.sub (by decide))
    | with_reducible apply startEntry_keeps (hm.sub (by decide))
    | with_reducible apply evalBand_keeps (hm.sub (by decide))

theorem frameBoundary_keeps {fs : Nat} (hm : Within (Field.routed ||| Field.clk ||| Field.sessions ||| Field.staged ||| Field.lives ||| Field.cmds ||| Field.firmware ||| Field.image ||| Field.rtc ||| Field.links ||| Field.fabric ||| Field.cal ||| Field.streams ||| Field.can ||| Field.panels) fs) {a0 : Chip} (d : Nat) (late : Bool) (c : Chip) (h0 : Keeps fs a0 c) : Keeps fs a0 (Chip.frameBoundary d late c) := by
  unfold Chip.frameBoundary
  repeat' first
    | (clear_value *; apply Touches.mk <;> intro hn <;> first | with_reducible rfl | exact hm.out hn rfl)
    | extract_lets
    | with_reducible refine Keeps.ite ?_ ?_
    | with_reducible exact h0
    | with_reducible exact Keeps.refl _
    | with_reducible apply endUpdates_keeps (hm.sub (by decide))
    | with_reducible apply startUpdates_keeps (hm.sub (by decide))
    | with_reducible apply judgePending_keeps (hm.sub (by decide))
    | with_reducible apply railsFall_keeps (hm.sub (by decide))
    | with_reducible apply interrupt_keeps (hm.sub (by decide))
    | with_reducible apply driveFrame_keeps (hm.sub (by decide))
    | with_reducible apply panelFault_keeps (hm.sub (by decide))
    | with_reducible apply modPanel_keeps (hm.sub (by decide))
    | with_reducible apply waitUntil_keeps (hm.sub (by decide))
    | with_reducible refine OptKeeps.of_eq ?_ (by assumption)
    | split

theorem placeUpdate_keeps {fs : Nat} (hm : Within (Field.panels) fs) {a0 : Chip} (d : Nat) (src : UpdateSource) (x : Nat) (y : Nat) (w : Nat) (h : Nat) (mode : Nat) (force : Bool) (clear : Option Nat) (rise : Bool) (c : Chip) (h0 : Keeps fs a0 c) : Keeps fs a0 (Chip.placeUpdate d src x y w h mode force clear rise c) := by
  unfold Chip.placeUpdate
  repeat' first
    | (clear_value *; apply Touches.mk <;> intro hn <;> first | with_reducible rfl | exact hm.out hn rfl)
    | extract_lets
    | with_reducible refine Keeps.ite ?_ ?_
    | with_reducible exact h0
    | with_reducible exact Keeps.refl _
    | with_reducible apply railsRise_keeps (hm.sub (by decide))
    | with_reducible apply setPanel_keeps (hm.sub (by decide))

theorem snapshot_keeps {fs : Nat} (hm : Within (Field.routed ||| Field.cmds ||| Field.links ||| Field.fabric ||| Field.panels) fs) {a0 : Chip} (d : Nat) (c : Chip) (h0 : Keeps fs a0 c) : Keeps fs a0 (Chip.snapshot d c) := by
  unfold Chip.snapshot
  repeat' first
    | (clear_value *; apply Touches.mk <;> intro hn <;> first | with_reducible rfl | exact hm.out hn rfl)
    | extract_lets
    | with_reducible refine foldl_keeps (fun _ _ => ?_) ?_
    | with_reducible refine Keeps.ite ?_ ?_
    | with_reducible exact h0
    | with_reducible exact Keeps.refl _
    | with_reducible apply accept_keeps (hm.sub (by decide))
    | with_reducible apply setPanel_keeps (hm.sub (by decide))
    | with_reducible apply modPanel_keeps (hm.sub (by decide))
    | with_reducible apply takeImages_keeps (hm.sub (by decide))
    | with_reducible refine OptKeeps.of_eq ?_ (by assumption)
    | split
    | with_reducible refine Keeps.update ?_ ?_

theorem regionAbort_keeps {fs : Nat} (hm : Within (Field.panels) fs) {a0 : Chip} (d : Nat) (ctx : Nat) (tag : Nat) (c : Chip) (h0 : Keeps fs a0 c) : Keeps fs a0 (Chip.regionAbort d ctx tag c) := by
  unfold Chip.regionAbort
  repeat' first
    | (clear_value *; apply Touches.mk <;> intro hn <;> first | with_reducible rfl | exact hm.out hn rfl)
    | extract_lets
    | with_reducible refine Keeps.ite ?_ ?_
    | with_reducible exact h0
    | with_reducible exact Keeps.refl _
    | with_reducible apply modPanel_keeps (hm.sub (by decide))
    | with_reducible refine OptKeeps.of_eq ?_ (by assumption)
    | split

theorem region_keeps {fs : Nat} (hm : Within (Field.routed ||| Field.panels) fs) {a0 : Chip} (clear : Bool) (k : Cmd) (c : Chip) (h0 : Keeps fs a0 c) : ResKeeps fs a0 (Chip.region clear k c) := by
  unfold Chip.region
  repeat' first
    | (clear_value *; apply Touches.mk <;> intro hn <;> first | with_reducible rfl | exact hm.out hn rfl)
    | extract_lets
    | with_reducible refine ResKeeps.ite ?_ ?_
    | with_reducible refine Keeps.ite ?_ ?_
    | with_reducible exact h0
    | with_reducible exact Keeps.refl _
    | with_reducible apply placeUpdate_keeps (hm.sub (by decide))
    | with_reducible apply powerLimit_keeps (hm.sub (by decide))
    | with_reducible apply ResKeeps.done
    | with_reducible apply ResKeeps.accepted
    | with_reducible apply ResKeeps.acceptedDone
    | with_reducible apply ResKeeps.waiting
    | with_reducible apply ResKeeps.held
    | with_reducible apply ResKeeps.ok
    | with_reducible apply ResKeeps.okWith
    | with_reducible apply ResKeeps.err
    | with_reducible apply ResKeeps.badParam
    | with_reducible apply ResKeeps.badLength
    | with_reducible refine OptKeeps.of_eq ?_ (by assumption)
    | split

theorem bodyRegionUpdate_keeps {fs : Nat} (hm : Within (Field.routed ||| Field.panels) fs) {a0 : Chip} (k : Cmd) (c : Chip) (h0 : Keeps fs a0 c) : ResKeeps fs a0 (bodyRegionUpdate k c) := by
  unfold bodyRegionUpdate
  repeat' first
    | extract_lets
    | with_reducible exact h0
    | with_reducible exact Keeps.refl _
    | with_reducible apply region_keeps (hm.sub (by decide))

theorem bodyRegionClear_keeps {fs : Nat} (hm : Within (Field.routed ||| Field.panels) fs) {a0 : Chip} (k : Cmd) (c : Chip) (h0 : Keeps fs a0 c) : ResKeeps fs a0 (bodyRegionClear k c) := by
  unfold bodyRegionClear
  repeat' first
    | extract_lets
    | with_reducible exact h0
    | with_reducible exact Keeps.refl _
    | with_reducible apply region_keeps (hm.sub (by decide))

theorem bodyPanelPower_keeps {fs : Nat} (hm : Within (Field.routed ||| Field.sessions ||| Field.staged ||| Field.lives ||| Field.cmds ||| Field.firmware ||| Field.image ||| Field.links ||| Field.fabric ||| Field.cal ||| Field.streams ||| Field.can ||| Field.panels) fs) {a0 : Chip} (k : Cmd) (c : Chip) (h0 : Keeps fs a0 c) : ResKeeps fs a0 (bodyPanelPower k c) := by
  unfold bodyPanelPower
  repeat' first
    | (clear_value *; apply Touches.mk <;> intro hn <;> first | with_reducible rfl | exact hm.out hn rfl)
    | extract_lets
    | with_reducible refine ResKeeps.ite ?_ ?_
    | with_reducible refine Keeps.ite ?_ ?_
    | with_reducible exact h0
    | with_reducible exact Keeps.refl _
    | with_reducible apply railsFall_keeps (hm.sub (by decide))
    | with_reducible apply interrupt_keeps (hm.sub (by decide))
    | with_reducible apply modPanel_keeps (hm.sub (by decide))
    | with_reducible apply railsRise_keeps (hm.sub (by decide))
    | with_reducible apply ResKeeps.done
    | with_reducible apply ResKeeps.accepted
    | with_reducible apply ResKeeps.acceptedDone
    | with_reducible apply ResKeeps.waiting
    | with_reducible apply ResKeeps.held
    | with_reducible apply ResKeeps.ok
    | with_reducible apply ResKeeps.okWith
    | with_reducible apply ResKeeps.err
    | with_reducible apply ResKeeps.badParam
    | with_reducible apply ResKeeps.badLength

theorem bodyPanelStatus_keeps {fs : Nat} (hm : Within 0 fs) {a0 : Chip} (k : Cmd) (c : Chip) (h0 : Keeps fs a0 c) : ResKeeps fs a0 (bodyPanelStatus k c) := by
  unfold bodyPanelStatus
  repeat' first
    | extract_lets
    | with_reducible refine ResKeeps.ite ?_ ?_
    | with_reducible refine Keeps.ite ?_ ?_
    | with_reducible exact h0
    | with_reducible exact Keeps.refl _
    | with_reducible apply ResKeeps.done
    | with_reducible apply ResKeeps.accepted
    | with_reducible apply ResKeeps.acceptedDone
    | with_reducible apply ResKeeps.waiting
    | with_reducible apply ResKeeps.held
    | with_reducible apply ResKeeps.ok
    | with_reducible apply ResKeeps.okWith
    | with_reducible apply ResKeeps.err
    | with_reducible apply ResKeeps.badParam
    | with_reducible apply ResKeeps.badLength

theorem bodyLedgerSweep_keeps {fs : Nat} (hm : Within (Field.attrs ||| Field.gens) fs) {a0 : Chip} (k : Cmd) (c : Chip) (h0 : Keeps fs a0 c) : ResKeeps fs a0 (bodyLedgerSweep k c) := by
  unfold bodyLedgerSweep
  repeat' first
    | extract_lets
    | with_reducible refine ResKeeps.ite ?_ ?_
    | with_reducible refine Keeps.ite ?_ ?_
    | with_reducible exact h0
    | with_reducible exact Keeps.refl _
    | with_reducible apply bumpGen_keeps (hm.sub (by decide))
    | with_reducible apply setAttr_keeps (hm.sub (by decide))
    | with_reducible apply ResKeeps.done
    | with_reducible apply ResKeeps.accepted
    | with_reducible apply ResKeeps.acceptedDone
    | with_reducible apply ResKeeps.waiting
    | with_reducible apply ResKeeps.held
    | with_reducible apply ResKeeps.ok
    | with_reducible apply ResKeeps.okWith
    | with_reducible apply ResKeeps.err
    | with_reducible apply ResKeeps.badParam
    | with_reducible apply ResKeeps.badLength

theorem sweepTile_keeps {fs : Nat} (hm : Within (Field.clk ||| Field.rtc ||| Field.panels) fs) {a0 : Chip} (d : Nat) (c : Chip) (h0 : Keeps fs a0 c) : Keeps fs a0 (Chip.sweepTile d c) := by
  unfold Chip.sweepTile
  repeat' first
    | (clear_value *; apply Touches.mk <;> intro hn <;> first | with_reducible rfl | exact hm.out hn rfl)
    | extract_lets
    | with_reducible refine foldl_keeps (fun _ _ => ?_) ?_
    | with_reducible refine Keeps.ite ?_ ?_
    | with_reducible exact h0
    | with_reducible exact Keeps.refl _
    | with_reducible apply startPixel_keeps (hm.sub (by decide))
    | with_reducible apply setPanel_keeps (hm.sub (by decide))
    | with_reducible apply waitUntil_keeps (hm.sub (by decide))
    | with_reducible refine OptKeeps.of_eq ?_ (by assumption)
    | split

theorem setField_keeps {fs : Nat} (hm : Within (Field.plate) fs) {a0 : Chip} (j : Nat) (f : FieldSt) (c : Chip) (h0 : Keeps fs a0 c) : Keeps fs a0 (Chip.setField j f c) := by
  unfold Chip.setField
  repeat' first
    | (clear_value *; apply Touches.mk <;> intro hn <;> first | with_reducible rfl | exact hm.out hn rfl)
    | extract_lets
    | with_reducible exact h0
    | with_reducible exact Keeps.refl _
    | with_reducible refine Keeps.update ?_ ?_

theorem render_keeps {fs : Nat} (hm : Within (Field.routed ||| Field.panels ||| Field.plate) fs) {a0 : Chip} (j : Nat) (c : Chip) (h0 : Keeps fs a0 c) : Keeps fs a0 (Chip.render j c) := by
  unfold Chip.render
  repeat' first
    | extract_lets
    | with_reducible refine foldl_keeps (fun _ _ => ?_) ?_
    | with_reducible refine Keeps.ite ?_ ?_
    | with_reducible exact h0
    | with_reducible exact Keeps.refl _
    | with_reducible apply placeUpdate_keeps (hm.sub (by decide))
    | with_reducible apply passTx_keeps (hm.sub (by decide))
    | with_reducible apply setField_keeps (hm.sub (by decide))
    | with_reducible apply modPanel_keeps (hm.sub (by decide))

theorem renderOrHold_keeps {fs : Nat} (hm : Within (Field.routed ||| Field.panels ||| Field.plate) fs) {a0 : Chip} (j : Nat) (c : Chip) (h0 : Keeps fs a0 c) : Keeps fs a0 (Chip.renderOrHold j c) := by
  unfold Chip.renderOrHold
  repeat' first
    | (clear_value *; apply Touches.mk <;> intro hn <;> first | with_reducible rfl | exact hm.out hn rfl)
    | extract_lets
    | with_reducible refine Keeps.ite ?_ ?_
    | with_reducible exact h0
    | with_reducible exact Keeps.refl _
    | with_reducible apply setField_keeps (hm.sub (by decide))
    | with_reducible apply render_keeps (hm.sub (by decide))

theorem readField_keeps {fs : Nat} (hm : Within (Field.routed ||| Field.panels ||| Field.plate) fs) {a0 : Chip} (c : Chip) (j : Nat) (h0 : Keeps fs a0 c) : Keeps fs a0 (Chip.readField c j) := by
  unfold Chip.readField
  repeat' first
    | (clear_value *; apply Touches.mk <;> intro hn <;> first | with_reducible rfl | exact hm.out hn rfl)
    | extract_lets
    | with_reducible refine Keeps.ite ?_ ?_
    | with_reducible exact h0
    | with_reducible exact Keeps.refl _
    | with_reducible apply setField_keeps (hm.sub (by decide))
    | with_reducible apply renderOrHold_keeps (hm.sub (by decide))

theorem compositorRow_keeps {fs : Nat} (hm : Within (Field.routed ||| Field.clk ||| Field.rtc ||| Field.panels ||| Field.plate) fs) {a0 : Chip} (c : Chip) (h0 : Keeps fs a0 c) : Keeps fs a0 (Chip.compositorRow c) := by
  unfold Chip.compositorRow
  repeat' first
    | (clear_value *; apply Touches.mk <;> intro hn <;> first | with_reducible rfl | exact hm.out hn rfl)
    | extract_lets
    | with_reducible refine foldl_keeps (fun _ _ => ?_) ?_
    | with_reducible refine Keeps.ite ?_ ?_
    | with_reducible exact h0
    | with_reducible exact Keeps.refl _
    | with_reducible apply readField_keeps (hm.sub (by decide))
    | with_reducible apply waitUntil_keeps (hm.sub (by decide))
    | with_reducible refine Keeps.update ?_ ?_

theorem renderDueRow_keeps {fs : Nat} (hm : Within (Field.routed ||| Field.clk ||| Field.rtc ||| Field.panels ||| Field.plate) fs) {a0 : Chip} (j : Nat) (c : Chip) (h0 : Keeps fs a0 c) : Keeps fs a0 (Chip.renderDueRow j c) := by
  unfold Chip.renderDueRow
  repeat' first
    | (clear_value *; apply Touches.mk <;> intro hn <;> first | with_reducible rfl | exact hm.out hn rfl)
    | extract_lets
    | with_reducible refine Keeps.ite ?_ ?_
    | with_reducible exact h0
    | with_reducible exact Keeps.refl _
    | with_reducible apply renderOrHold_keeps (hm.sub (by decide))
    | with_reducible apply setField_keeps (hm.sub (by decide))
    | with_reducible apply waitUntil_keeps (hm.sub (by decide))

theorem bodyFieldRefresh_keeps {fs : Nat} (hm : Within (Field.routed ||| Field.panels ||| Field.plate) fs) {a0 : Chip} (k : Cmd) (c : Chip) (h0 : Keeps fs a0 c) : ResKeeps fs a0 (bodyFieldRefresh k c) := by
  unfold bodyFieldRefresh
  repeat' first
    | extract_lets
    | with_reducible refine foldl_keeps (fun _ _ => ?_) ?_
    | with_reducible refine ResKeeps.ite ?_ ?_
    | with_reducible refine Keeps.ite ?_ ?_
    | with_reducible exact h0
    | with_reducible exact Keeps.refl _
    | with_reducible apply renderOrHold_keeps (hm.sub (by decide))
    | with_reducible apply ResKeeps.done
    | with_reducible apply ResKeeps.accepted
    | with_reducible apply ResKeeps.acceptedDone
    | with_reducible apply ResKeeps.waiting
    | with_reducible apply ResKeeps.held
    | with_reducible apply ResKeeps.ok
    | with_reducible apply ResKeeps.okWith
    | with_reducible apply ResKeeps.err
    | with_reducible apply ResKeeps.badParam
    | with_reducible apply ResKeeps.badLength

theorem startPanel_keeps {fs : Nat} (hm : Within (Field.routed ||| Field.clk ||| Field.slots ||| Field.overrides ||| Field.produced ||| Field.slotWrites ||| Field.attrs ||| Field.existing ||| Field.gens ||| Field.owners ||| Field.sessions ||| Field.staged ||| Field.lives ||| Field.cmds ||| Field.foldS ||| Field.foldD ||| Field.dogs ||| Field.firmware ||| Field.image ||| Field.rtc ||| Field.almanac ||| Field.links ||| Field.fabric ||| Field.ports ||| Field.groups ||| Field.bridges ||| Field.motors ||| Field.records ||| Field.valves ||| Field.fans ||| Field.sampler ||| Field.cal ||| Field.zones ||| Field.thermal ||| Field.staleWrites ||| Field.minSel ||| Field.streams ||| Field.can ||| Field.panels ||| Field.plate ||| Field.freeCount) fs) {a0 : Chip} (d : Nat) (c : Chip) (h0 : Keeps fs a0 c) : Keeps fs a0 (Chip.startPanel d c) := by
  unfold Chip.startPanel
  repeat' first
    | (clear_value *; apply Touches.mk <;> intro hn <;> first | with_reducible rfl | exact hm.out hn rfl)
    | extract_lets
    | with_reducible refine foldl_keeps (fun _ _ => ?_) ?_
    | with_reducible refine Keeps.ite ?_ ?_
    | with_reducible exact h0
    | with_reducible exact Keeps.refl _
    | with_reducible apply renderOrHold_keeps (hm.sub (by decide))
    | with_reducible apply placeUpdate_keeps (hm.sub (by decide))
    | with_reducible apply setPanel_keeps (hm.sub (by decide))

end Sys2Proof.Machine
end

