-- ==== Sys2Proof/Laws/KeepsPortEvents.lean ====
section
/-! SUPPORT. What Machine/PortEvents.lean keeps. -/

namespace Sys2Proof.Machine

theorem portCut_keeps {fs : Nat} (hm : Within (Field.routed ||| Field.slots ||| Field.produced ||| Field.slotWrites ||| Field.sessions ||| Field.staged ||| Field.lives ||| Field.cmds ||| Field.firmware ||| Field.image ||| Field.links ||| Field.fabric ||| Field.motors ||| Field.records ||| Field.valves ||| Field.cal ||| Field.zones ||| Field.staleWrites ||| Field.streams ||| Field.can) fs) {a0 : Chip} (n : Nat) (c : Chip) (h0 : Keeps fs a0 c) : Keeps fs a0 (Chip.portCut n c) := by
  unfold Chip.portCut
  repeat' first
    | extract_lets
    | with_reducible exact h0
    | with_reducible exact Keeps.refl _
    | with_reducible apply checkCaptures_keeps (hm.sub (by decide))
    | with_reducible apply stopFloat_keeps (hm.sub (by decide))
    | with_reducible apply motorCut_keeps (hm.sub (by decide))

theorem portBack_keeps {fs : Nat} (hm : Within (Field.mgt ||| Field.motors) fs) {a0 : Chip} (n : Nat) (c : Chip) (h0 : Keeps fs a0 c) : Keeps fs a0 (Chip.portBack n c) := by
  unfold Chip.portBack
  repeat' first
    | extract_lets
    | with_reducible refine Keeps.ite ?_ ?_
    | with_reducible exact h0
    | with_reducible exact Keeps.refl _
    | with_reducible apply motorResume_keeps (hm.sub (by decide))

theorem retryWith_keeps {fs : Nat} (hm : Within (Field.routed ||| Field.slots ||| Field.produced ||| Field.slotWrites ||| Field.sessions ||| Field.staged ||| Field.lives ||| Field.cmds ||| Field.firmware ||| Field.image ||| Field.links ||| Field.fabric ||| Field.ports ||| Field.motors ||| Field.records ||| Field.valves ||| Field.cal ||| Field.zones ||| Field.staleWrites ||| Field.streams ||| Field.can) fs) {a0 : Chip} (n : Nat) (bits : Nat) (c : Chip) (h0 : Keeps fs a0 c) : Keeps fs a0 (Chip.retryWith n bits c) := by
  unfold Chip.retryWith
  repeat' first
    | extract_lets
    | with_reducible refine Keeps.ite ?_ ?_
    | with_reducible exact h0
    | with_reducible exact Keeps.refl _
    | with_reducible apply valveFault_keeps (hm.sub (by decide))
    | with_reducible apply portCut_keeps (hm.sub (by decide))
    | with_reducible apply retryFault_keeps (hm.sub (by decide))

theorem protectEntry_keeps {fs : Nat} (hm : Within (Field.routed ||| Field.slots ||| Field.produced ||| Field.slotWrites ||| Field.sessions ||| Field.staged ||| Field.lives ||| Field.cmds ||| Field.firmware ||| Field.image ||| Field.links ||| Field.fabric ||| Field.ports ||| Field.motors ||| Field.records ||| Field.valves ||| Field.cal ||| Field.zones ||| Field.staleWrites ||| Field.streams ||| Field.can) fs) {a0 : Chip} (n : Nat) (high : Bool) (low : Bool) (c : Chip) (h0 : Keeps fs a0 c) : Keeps fs a0 (Chip.protectEntry n high low c) := by
  unfold Chip.protectEntry
  repeat' first
    | (clear_value *; apply Touches.mk <;> intro hn <;> first | with_reducible rfl | exact hm.out hn rfl)
    | extract_lets
    | with_reducible refine Keeps.ite ?_ ?_
    | with_reducible exact h0
    | with_reducible exact Keeps.refl _
    | with_reducible apply portCut_keeps (hm.sub (by decide))
    | with_reducible apply portCause_keeps (hm.sub (by decide))
    | with_reducible apply setPort_keeps (hm.sub (by decide))
    | with_reducible apply retryWith_keeps (hm.sub (by decide))

theorem protectExit_keeps {fs : Nat} (hm : Within (Field.ports) fs) {a0 : Chip} (n : Nat) (c : Chip) (h0 : Keeps fs a0 c) : Keeps fs a0 (Chip.protectExit n c) := by
  unfold Chip.protectExit
  repeat' first
    | (clear_value *; apply Touches.mk <;> intro hn <;> first | with_reducible rfl | exact hm.out hn rfl)
    | extract_lets
    | with_reducible refine Keeps.ite ?_ ?_
    | with_reducible exact h0
    | with_reducible exact Keeps.refl _
    | with_reducible apply settle_keeps (hm.sub (by decide))
    | with_reducible apply setPort_keeps (hm.sub (by decide))

theorem retryRow_keeps {fs : Nat} (hm : Within (Field.routed ||| Field.slots ||| Field.produced ||| Field.slotWrites ||| Field.sessions ||| Field.staged ||| Field.lives ||| Field.cmds ||| Field.firmware ||| Field.image ||| Field.links ||| Field.fabric ||| Field.ports ||| Field.motors ||| Field.records ||| Field.valves ||| Field.cal ||| Field.zones ||| Field.staleWrites ||| Field.streams ||| Field.can) fs) {a0 : Chip} (n : Nat) (k : RetryKind) (c : Chip) (h0 : Keeps fs a0 c) : Keeps fs a0 (Chip.retryRow n k c) := by
  unfold Chip.retryRow
  repeat' first
    | extract_lets
    | with_reducible refine Keeps.ite ?_ ?_
    | with_reducible exact h0
    | with_reducible exact Keeps.refl _
    | with_reducible apply retryWith_keeps (hm.sub (by decide))

theorem overloadMean_keeps {fs : Nat} (hm : Within (Field.routed ||| Field.slots ||| Field.produced ||| Field.slotWrites ||| Field.sessions ||| Field.staged ||| Field.lives ||| Field.cmds ||| Field.firmware ||| Field.image ||| Field.links ||| Field.fabric ||| Field.ports ||| Field.motors ||| Field.records ||| Field.valves ||| Field.cal ||| Field.zones ||| Field.staleWrites ||| Field.streams ||| Field.can) fs) {a0 : Chip} (n : Nat) (current : Nat) (c : Chip) (h0 : Keeps fs a0 c) : Keeps fs a0 (Chip.overloadMean n current c) := by
  unfold Chip.overloadMean
  repeat' first
    | (clear_value *; apply Touches.mk <;> intro hn <;> first | with_reducible rfl | exact hm.out hn rfl)
    | extract_lets
    | with_reducible refine Keeps.ite ?_ ?_
    | with_reducible exact h0
    | with_reducible exact Keeps.refl _
    | with_reducible apply retryWith_keeps (hm.sub (by decide))
    | with_reducible apply setPort_keeps (hm.sub (by decide))

theorem settledRow_keeps {fs : Nat} (hm : Within (Field.clk ||| Field.mgt ||| Field.rtc ||| Field.ports ||| Field.motors) fs) {a0 : Chip} (n : Nat) (c : Chip) (h0 : Keeps fs a0 c) : Keeps fs a0 (Chip.settledRow n c) := by
  unfold Chip.settledRow
  repeat' first
    | extract_lets
    | with_reducible exact h0
    | with_reducible exact Keeps.refl _
    | with_reducible apply portBack_keeps (hm.sub (by decide))
    | with_reducible apply settled_keeps (hm.sub (by decide))

theorem shedPort_keeps {fs : Nat} (hm : Within (Field.routed ||| Field.ports ||| Field.motors ||| Field.valves) fs) {a0 : Chip} (n : Nat) (c : Chip) (h0 : Keeps fs a0 c) : Keeps fs a0 (Chip.shedPort n c) := by
  unfold Chip.shedPort
  repeat' first
    | (clear_value *; apply Touches.mk <;> intro hn <;> first | with_reducible rfl | exact hm.out hn rfl)
    | extract_lets
    | with_reducible refine Keeps.ite ?_ ?_
    | with_reducible exact h0
    | with_reducible exact Keeps.refl _
    | with_reducible apply stopFloat_keeps (hm.sub (by decide))
    | with_reducible apply motorPause_keeps (hm.sub (by decide))
    | with_reducible apply portCause_keeps (hm.sub (by decide))
    | with_reducible apply setPort_keeps (hm.sub (by decide))

theorem restorePort_keeps {fs : Nat} (hm : Within (Field.ports) fs) {a0 : Chip} (n : Nat) (c : Chip) (h0 : Keeps fs a0 c) : Keeps fs a0 (Chip.restorePort n c) := by
  unfold Chip.restorePort
  repeat' first
    | (clear_value *; apply Touches.mk <;> intro hn <;> first | with_reducible rfl | exact hm.out hn rfl)
    | extract_lets
    | with_reducible exact h0
    | with_reducible exact Keeps.refl _
    | with_reducible apply settle_keeps (hm.sub (by decide))
    | with_reducible apply setPort_keeps (hm.sub (by decide))

theorem shedLoop_keeps {fs : Nat} (hm : Within (Field.routed ||| Field.ports ||| Field.motors ||| Field.valves) fs) {a0 : Chip} (fuel k : Nat) (c : Chip) (h0 : Keeps fs a0 c) : Keeps fs a0 (Chip.shedLoop fuel k c).2 := by
  induction fuel generalizing k c with
  | zero => exact h0
  | succ n ih =>
    unfold Chip.shedLoop
    split
    · exact h0
    · split
      · exact ih _ _ (shedPort_keeps (hm.sub (by decide)) _ _ h0)
      · exact h0

theorem restoreLoop_keeps {fs : Nat} (hm : Within (Field.ports) fs) {a0 : Chip} (fuel : Nat) (c : Chip) (h0 : Keeps fs a0 c) : Keeps fs a0 (Chip.restoreLoop fuel c) := by
  induction fuel generalizing c with
  | zero => exact h0
  | succ n ih =>
    unfold Chip.restoreLoop
    split
    · exact h0
    · exact Keeps.ite (ih _ (restorePort_keeps (hm.sub (by decide)) _ _ h0)) h0

theorem fitVact_keeps {fs : Nat} (hm : Within (Field.routed ||| Field.sessions ||| Field.staged ||| Field.lives ||| Field.cmds ||| Field.firmware ||| Field.image ||| Field.links ||| Field.fabric ||| Field.ports ||| Field.motors ||| Field.valves ||| Field.cal ||| Field.streams ||| Field.can) fs) {a0 : Chip} (rose : Bool) (c : Chip) (h0 : Keeps fs a0 c) : Keeps fs a0 (Chip.fitVact rose c) := by
  unfold Chip.fitVact
  repeat' first
    | extract_lets
    | with_reducible refine Keeps.ite ?_ ?_
    | with_reducible exact h0
    | with_reducible exact Keeps.refl _
    | with_reducible apply restoreLoop_keeps (hm.sub (by decide))
    | with_reducible apply checkCaptures_keeps (hm.sub (by decide))
    | with_reducible apply powerLimit_keeps (hm.sub (by decide))
    | with_reducible apply shedLoop_keeps (hm.sub (by decide))

theorem shedAll_keeps {fs : Nat} (hm : Within (Field.routed ||| Field.sessions ||| Field.staged ||| Field.lives ||| Field.cmds ||| Field.firmware ||| Field.image ||| Field.links ||| Field.fabric ||| Field.ports ||| Field.motors ||| Field.valves ||| Field.cal ||| Field.streams ||| Field.can) fs) {a0 : Chip} (c : Chip) (h0 : Keeps fs a0 c) : Keeps fs a0 (Chip.shedAll c) := by
  unfold Chip.shedAll
  repeat' first
    | extract_lets
    | with_reducible refine foldl_keeps (fun _ _ => ?_) ?_
    | with_reducible refine Keeps.ite ?_ ?_
    | with_reducible exact h0
    | with_reducible exact Keeps.refl _
    | with_reducible apply checkCaptures_keeps (hm.sub (by decide))
    | with_reducible apply shedPort_keeps (hm.sub (by decide))

theorem vactBack_keeps {fs : Nat} (hm : Within (Field.power ||| Field.ports) fs) {a0 : Chip} (c : Chip) (h0 : Keeps fs a0 c) : Keeps fs a0 (Chip.vactBack c) := by
  unfold Chip.vactBack
  repeat' first
    | (clear_value *; apply Touches.mk <;> intro hn <;> first | with_reducible rfl | exact hm.out hn rfl)
    | extract_lets
    | with_reducible refine foldl_keeps (fun _ _ => ?_) ?_
    | with_reducible refine Keeps.ite ?_ ?_
    | with_reducible exact h0
    | with_reducible exact Keeps.refl _
    | with_reducible apply restoreLoop_keeps (hm.sub (by decide))
    | with_reducible refine Keeps.update ?_ ?_

end Sys2Proof.Machine
end

