-- ==== Sys2Proof/Laws/KeepsReset.lean ====
section
/-! SUPPORT. What Machine/Reset.lean keeps. -/

namespace Sys2Proof.Machine

theorem setPower_keeps {fs : Nat} (hm : Within (Field.power) fs) {a0 : Chip} (f : PowerSt → PowerSt) (c : Chip) (h0 : Keeps fs a0 c) : Keeps fs a0 (Chip.setPower f c) := by
  unfold Chip.setPower
  repeat' first
    | (clear_value *; apply Touches.mk <;> intro hn <;> first | with_reducible rfl | exact hm.out hn rfl)
    | (apply Touches.mk <;> intro hn <;> first | with_reducible rfl | exact hm.out hn rfl)
    | extract_lets
    | with_reducible exact h0
    | with_reducible exact Keeps.refl _
    | with_reducible refine Keeps.update ?_ ?_

theorem cutStores_keeps {fs : Nat} (hm : Within (Field.firmware ||| Field.image ||| Field.almanac ||| Field.cal) fs) {a0 : Chip} (c : Chip) (h0 : Keeps fs a0 c) : Keeps fs a0 (Chip.cutStores c) := by
  unfold Chip.cutStores
  repeat' first
    | (clear_value *; apply Touches.mk <;> intro hn <;> first | with_reducible rfl | exact hm.out hn rfl)
    | extract_lets
    | with_reducible refine Keeps.ite ?_ ?_
    | with_reducible exact h0
    | with_reducible exact Keeps.refl _
    | with_reducible refine Keeps.update ?_ ?_

theorem mainClear_keeps {fs : Nat} (hm : Within (Field.routed ||| Field.overrides ||| Field.produced ||| Field.attrs ||| Field.existing ||| Field.gens ||| Field.owners ||| Field.sessions ||| Field.staged ||| Field.lives ||| Field.cmds ||| Field.remoteIn ||| Field.foldS ||| Field.foldD ||| Field.host ||| Field.dogs ||| Field.firmware ||| Field.image ||| Field.almanac ||| Field.links ||| Field.fabric ||| Field.ports ||| Field.groups ||| Field.bridges ||| Field.motors ||| Field.valves ||| Field.fans ||| Field.sampler ||| Field.cal ||| Field.zones ||| Field.predictions ||| Field.thermal ||| Field.minSel ||| Field.streams ||| Field.can ||| Field.panels ||| Field.plate ||| Field.selftest) fs) {a0 : Chip} (c0 : Chip) (h0 : Keeps fs a0 c0) : Keeps fs a0 (Chip.mainClear c0) := by
  unfold Chip.mainClear
  repeat' first
    | (clear_value *; apply Touches.mk <;> intro hn <;> first | with_reducible rfl | exact hm.out hn rfl)
    | extract_lets
    | with_reducible exact h0
    | with_reducible exact Keeps.refl _
    | with_reducible apply cutStores_keeps (hm.sub (by decide))
    | with_reducible refine Keeps.update ?_ ?_
    | with_reducible refine Keeps.change ?_ ?_ ?_ ?_ ?_ ?_
    | exact Nat.le_refl _
    | exact id
    | exact fun _ h => h
    | exact fun h => Tbl.wf_set _ _ _ _ h
    | exact fun h => Tbl.wf_setRun _ _ _ _ h
    | exact fun h => Tbl.wf_dropRange _ _ _ _ h
    | exact fun _ => rfl

theorem noteCause_keeps {fs : Nat} (hm : Within (Field.power) fs) {a0 : Chip} (bit : Nat) (dog : Nat) (again : Bool) (c : Chip) (h0 : Keeps fs a0 c) : Keeps fs a0 (Chip.noteCause bit dog again c) := by
  unfold Chip.noteCause
  repeat' first
    | (clear_value *; apply Touches.mk <;> intro hn <;> first | with_reducible rfl | exact hm.out hn rfl)
    | extract_lets
    | with_reducible exact h0
    | with_reducible exact Keeps.refl _
    | with_reducible apply setPower_keeps (hm.sub (by decide))

theorem mainReset_keeps {fs : Nat} (hm : Within (Field.routed ||| Field.overrides ||| Field.produced ||| Field.attrs ||| Field.existing ||| Field.gens ||| Field.owners ||| Field.sessions ||| Field.staged ||| Field.lives ||| Field.cmds ||| Field.remoteIn ||| Field.foldS ||| Field.foldD ||| Field.host ||| Field.dogs ||| Field.firmware ||| Field.image ||| Field.almanac ||| Field.links ||| Field.fabric ||| Field.ports ||| Field.groups ||| Field.bridges ||| Field.motors ||| Field.valves ||| Field.fans ||| Field.sampler ||| Field.cal ||| Field.zones ||| Field.predictions ||| Field.thermal ||| Field.minSel ||| Field.streams ||| Field.can ||| Field.panels ||| Field.plate ||| Field.selftest) fs) {a0 : Chip} (bit : Nat) (dog : Nat) (c : Chip) (h0 : Keeps fs a0 c) : Keeps fs a0 (Chip.mainReset bit dog c) := by
  unfold Chip.mainReset
  repeat' first
    | (clear_value *; apply Touches.mk <;> intro hn <;> first | with_reducible rfl | exact hm.out hn rfl)
    | extract_lets
    | with_reducible refine Keeps.ite ?_ ?_
    | with_reducible exact h0
    | with_reducible exact Keeps.refl _
    | with_reducible apply setPower_keeps (hm.sub (by decide))
    | with_reducible apply noteCause_keeps (hm.sub (by decide))
    | with_reducible apply mainClear_keeps (hm.sub (by decide))

theorem vsysLoss_keeps {fs : Nat} (hm : Within (Field.routed ||| Field.clk ||| Field.overrides ||| Field.produced ||| Field.attrs ||| Field.existing ||| Field.gens ||| Field.owners ||| Field.sessions ||| Field.staged ||| Field.lives ||| Field.cmds ||| Field.remoteIn ||| Field.foldS ||| Field.foldD ||| Field.host ||| Field.dogs ||| Field.firmware ||| Field.image ||| Field.almanac ||| Field.links ||| Field.fabric ||| Field.ports ||| Field.groups ||| Field.bridges ||| Field.motors ||| Field.valves ||| Field.fans ||| Field.sampler ||| Field.cal ||| Field.zones ||| Field.predictions ||| Field.thermal ||| Field.minSel ||| Field.streams ||| Field.can ||| Field.panels ||| Field.plate ||| Field.selftest) fs) {a0 : Chip} (c : Chip) (h0 : Keeps fs a0 c) : Keeps fs a0 (Chip.vsysLoss c) := by
  unfold Chip.vsysLoss
  repeat' first
    | (clear_value *; apply Touches.mk <;> intro hn <;> first | with_reducible rfl | exact hm.out hn rfl)
    | extract_lets
    | with_reducible exact h0
    | with_reducible exact Keeps.refl _
    | with_reducible apply mainReset_keeps (hm.sub (by decide))
    | with_reducible refine Keeps.update ?_ ?_
    | with_reducible refine Keeps.change ?_ ?_ ?_ ?_ ?_ ?_
    | exact Nat.le_refl _
    | exact id

theorem startCharging_keeps {fs : Nat} (hm : Within (Field.power) fs) {a0 : Chip} (c : Chip) (h0 : Keeps fs a0 c) : Keeps fs a0 (Chip.startCharging c) := by
  unfold Chip.startCharging
  repeat' first
    | (clear_value *; apply Touches.mk <;> intro hn <;> first | with_reducible rfl | exact hm.out hn rfl)
    | extract_lets
    | with_reducible refine Keeps.ite ?_ ?_
    | with_reducible exact h0
    | with_reducible exact Keeps.refl _
    | with_reducible apply setPower_keeps (hm.sub (by decide))

theorem release_keeps {fs : Nat} (hm : Within (Field.power ||| Field.dogs) fs) {a0 : Chip} (c : Chip) (h0 : Keeps fs a0 c) : Keeps fs a0 (Chip.release c) := by
  unfold Chip.release
  repeat' first
    | (clear_value *; apply Touches.mk <;> intro hn <;> first | with_reducible rfl | exact hm.out hn rfl)
    | extract_lets
    | with_reducible exact h0
    | with_reducible exact Keeps.refl _
    | with_reducible refine Keeps.update ?_ ?_

theorem tick_keeps {fs : Nat} (hm : Within (Field.clk ||| Field.power ||| Field.dogs ||| Field.rtc) fs) {a0 : Chip} (c : Chip) (h0 : Keeps fs a0 c) : Keeps fs a0 (Chip.tick c) := by
  unfold Chip.tick
  repeat' first
    | extract_lets
    | with_reducible refine Keeps.ite ?_ ?_
    | with_reducible exact h0
    | with_reducible exact Keeps.refl _
    | with_reducible apply release_keeps (hm.sub (by decide))
    | with_reducible apply advance_keeps (hm.sub (by decide))

end Sys2Proof.Machine
end

