-- ==== Sys2Proof/Laws/KeepsThermal.lean ====
section
/-! SUPPORT. What Machine/Thermal.lean keeps. -/

namespace Sys2Proof.Machine

theorem setThermal_keeps {fs : Nat} (hm : Within (Field.thermal) fs) {a0 : Chip} (f : ThermalSt → ThermalSt) (c : Chip) (h0 : Keeps fs a0 c) : Keeps fs a0 (Chip.setThermal f c) := by
  unfold Chip.setThermal
  repeat' first
    | (clear_value *; apply Touches.mk <;> intro hn <;> first | with_reducible rfl | exact hm.out hn rfl)
    | (apply Touches.mk <;> intro hn <;> first | with_reducible rfl | exact hm.out hn rfl)
    | extract_lets
    | with_reducible exact h0
    | with_reducible exact Keeps.refl _
    | with_reducible refine Keeps.update ?_ ?_

theorem excludeSite_keeps {fs : Nat} (hm : Within (Field.routed ||| Field.thermal) fs) {a0 : Chip} (i : Nat) (reason : Nat) (c : Chip) (h0 : Keeps fs a0 c) : Keeps fs a0 (Chip.excludeSite i reason c) := by
  unfold Chip.excludeSite
  repeat' first
    | (clear_value *; apply Touches.mk <;> intro hn <;> first | with_reducible rfl | exact hm.out hn rfl)
    | extract_lets
    | with_reducible exact h0
    | with_reducible exact Keeps.refl _
    | with_reducible apply fire_keeps (hm.sub (by decide))
    | with_reducible apply setThermal_keeps (hm.sub (by decide))

theorem judgeSites_keeps {fs : Nat} (hm : Within (Field.routed ||| Field.thermal) fs) {a0 : Chip} (k : Nat) (c : Chip) (h0 : Keeps fs a0 c) : Keeps fs a0 (Chip.judgeSites k c) := by
  unfold Chip.judgeSites
  repeat' first
    | (clear_value *; apply Touches.mk <;> intro hn <;> first | with_reducible rfl | exact hm.out hn rfl)
    | extract_lets
    | with_reducible refine foldl_keeps (fun _ _ => ?_) ?_
    | with_reducible exact h0
    | with_reducible exact Keeps.refl _
    | with_reducible apply excludeSite_keeps (hm.sub (by decide))
    | with_reducible refine OptKeeps.of_eq ?_ (by assumption)
    | split

theorem estimate_keeps {fs : Nat} (hm : Within (Field.routed ||| Field.thermal) fs) {a0 : Chip} (power : List Int) (readings : List Int) (c : Chip) (h0 : Keeps fs a0 c) : Keeps fs a0 (Chip.estimate power readings c) := by
  unfold Chip.estimate
  repeat' first
    | (clear_value *; apply Touches.mk <;> intro hn <;> first | with_reducible rfl | exact hm.out hn rfl)
    | extract_lets
    | with_reducible refine foldl_keeps (fun _ _ => ?_) ?_
    | with_reducible refine Keeps.ite ?_ ?_
    | with_reducible exact h0
    | with_reducible exact Keeps.refl _
    | with_reducible apply judgeSites_keeps (hm.sub (by decide))
    | with_reducible apply setThermal_keeps (hm.sub (by decide))
    | with_reducible apply setSite_keeps (hm.sub (by decide))
    | with_reducible refine OptKeeps.of_eq ?_ (by assumption)
    | split

theorem judgeWarn_keeps {fs : Nat} (hm : Within (Field.routed ||| Field.thermal) fs) {a0 : Chip} (c : Chip) (h0 : Keeps fs a0 c) : Keeps fs a0 (Chip.judgeWarn c) := by
  unfold Chip.judgeWarn
  repeat' first
    | (clear_value *; apply Touches.mk <;> intro hn <;> first | with_reducible rfl | exact hm.out hn rfl)
    | extract_lets
    | with_reducible refine Keeps.ite ?_ ?_
    | with_reducible exact h0
    | with_reducible exact Keeps.refl _
    | with_reducible apply fire_keeps (hm.sub (by decide))
    | with_reducible apply setThermal_keeps (hm.sub (by decide))

theorem partialShutdown_keeps {fs : Nat} (hm : Within (Field.routed ||| Field.slots ||| Field.produced ||| Field.slotWrites ||| Field.sessions ||| Field.staged ||| Field.lives ||| Field.cmds ||| Field.firmware ||| Field.image ||| Field.links ||| Field.fabric ||| Field.motors ||| Field.records ||| Field.valves ||| Field.cal ||| Field.zones ||| Field.thermal ||| Field.staleWrites ||| Field.streams ||| Field.can ||| Field.panels) fs) {a0 : Chip} (c : Chip) (h0 : Keeps fs a0 c) : Keeps fs a0 (Chip.partialShutdown c) := by
  unfold Chip.partialShutdown
  repeat' first
    | (clear_value *; apply Touches.mk <;> intro hn <;> first | with_reducible rfl | exact hm.out hn rfl)
    | extract_lets
    | with_reducible refine foldl_keeps (fun _ _ => ?_) ?_
    | with_reducible refine Keeps.ite ?_ ?_
    | with_reducible exact h0
    | with_reducible exact Keeps.refl _
    | with_reducible apply panelHalt_keeps (hm.sub (by decide))
    | with_reducible apply stopFloat_keeps (hm.sub (by decide))
    | with_reducible apply motorCut_keeps (hm.sub (by decide))
    | with_reducible apply setThermal_keeps (hm.sub (by decide))

theorem fullShutdown_keeps {fs : Nat} (hm : Within (Field.routed ||| Field.slots ||| Field.overrides ||| Field.produced ||| Field.slotWrites ||| Field.attrs ||| Field.existing ||| Field.gens ||| Field.owners ||| Field.sessions ||| Field.staged ||| Field.lives ||| Field.cmds ||| Field.remoteIn ||| Field.foldS ||| Field.foldD ||| Field.host ||| Field.dogs ||| Field.firmware ||| Field.image ||| Field.almanac ||| Field.links ||| Field.fabric ||| Field.ports ||| Field.groups ||| Field.bridges ||| Field.motors ||| Field.records ||| Field.valves ||| Field.fans ||| Field.sampler ||| Field.cal ||| Field.zones ||| Field.predictions ||| Field.thermal ||| Field.staleWrites ||| Field.minSel ||| Field.streams ||| Field.can ||| Field.panels ||| Field.plate ||| Field.selftest) fs) {a0 : Chip} (c : Chip) (h0 : Keeps fs a0 c) : Keeps fs a0 (Chip.fullShutdown c) := by
  unfold Chip.fullShutdown
  repeat' first
    | (clear_value *; apply Touches.mk <;> intro hn <;> first | with_reducible rfl | exact hm.out hn rfl)
    | extract_lets
    | with_reducible refine Keeps.ite ?_ ?_
    | with_reducible exact h0
    | with_reducible exact Keeps.refl _
    | with_reducible apply setThermal_keeps (hm.sub (by decide))
    | with_reducible apply setPower_keeps (hm.sub (by decide))
    | with_reducible apply mainReset_keeps (hm.sub (by decide))
    | with_reducible apply partialShutdown_keeps (hm.sub (by decide))

theorem resumeBridge_keeps {fs : Nat} (hm : Within (Field.bridges) fs) {a0 : Chip} (n : Nat) (c : Chip) (h0 : Keeps fs a0 c) : Keeps fs a0 (Chip.resumeBridge n c) := by
  unfold Chip.resumeBridge
  repeat' first
    | (clear_value *; apply Touches.mk <;> intro hn <;> first | with_reducible rfl | exact hm.out hn rfl)
    | extract_lets
    | with_reducible refine Keeps.ite ?_ ?_
    | with_reducible exact h0
    | with_reducible exact Keeps.refl _
    | with_reducible apply setBridge_keeps (hm.sub (by decide))

theorem endShutdown_keeps {fs : Nat} (hm : Within (Field.mgt ||| Field.bridges ||| Field.motors ||| Field.thermal) fs) {a0 : Chip} (c : Chip) (h0 : Keeps fs a0 c) : Keeps fs a0 (Chip.endShutdown c) := by
  unfold Chip.endShutdown
  repeat' first
    | (clear_value *; apply Touches.mk <;> intro hn <;> first | with_reducible rfl | exact hm.out hn rfl)
    | extract_lets
    | with_reducible refine foldl_keeps (fun _ _ => ?_) ?_
    | with_reducible exact h0
    | with_reducible exact Keeps.refl _
    | with_reducible apply setThermal_keeps (hm.sub (by decide))
    | with_reducible apply motorResume_keeps (hm.sub (by decide))
    | with_reducible apply resumeBridge_keeps (hm.sub (by decide))

theorem judgeShutdown_keeps {fs : Nat} (hm : Within (Field.routed ||| Field.slots ||| Field.overrides ||| Field.produced ||| Field.slotWrites ||| Field.attrs ||| Field.existing ||| Field.gens ||| Field.owners ||| Field.sessions ||| Field.staged ||| Field.lives ||| Field.cmds ||| Field.remoteIn ||| Field.foldS ||| Field.foldD ||| Field.host ||| Field.dogs ||| Field.firmware ||| Field.image ||| Field.almanac ||| Field.links ||| Field.fabric ||| Field.ports ||| Field.groups ||| Field.bridges ||| Field.motors ||| Field.records ||| Field.valves ||| Field.fans ||| Field.sampler ||| Field.cal ||| Field.zones ||| Field.predictions ||| Field.thermal ||| Field.staleWrites ||| Field.minSel ||| Field.streams ||| Field.can ||| Field.panels ||| Field.plate ||| Field.selftest) fs) {a0 : Chip} (c : Chip) (h0 : Keeps fs a0 c) : Keeps fs a0 (Chip.judgeShutdown c).2 := by
  unfold Chip.judgeShutdown
  repeat' first
    | (clear_value *; apply Touches.mk <;> intro hn <;> first | with_reducible rfl | exact hm.out hn rfl)
    | extract_lets
    | with_reducible refine Keeps.ite ?_ ?_
    | with_reducible refine Keeps.ite ?_ ?_
    | with_reducible exact h0
    | with_reducible exact Keeps.refl _
    | with_reducible apply endShutdown_keeps (hm.sub (by decide))
    | with_reducible apply partialShutdown_keeps (hm.sub (by decide))
    | with_reducible apply fire_keeps (hm.sub (by decide))
    | with_reducible apply fullShutdown_keeps (hm.sub (by decide))
    | with_reducible apply setThermal_keeps (hm.sub (by decide))
    | split

theorem thermalTail_keeps {fs : Nat} (hm : Within (Field.routed ||| Field.slots ||| Field.overrides ||| Field.produced ||| Field.slotWrites ||| Field.attrs ||| Field.existing ||| Field.gens ||| Field.owners ||| Field.sessions ||| Field.staged ||| Field.lives ||| Field.cmds ||| Field.remoteIn ||| Field.foldS ||| Field.foldD ||| Field.host ||| Field.dogs ||| Field.firmware ||| Field.image ||| Field.almanac ||| Field.links ||| Field.fabric ||| Field.ports ||| Field.groups ||| Field.bridges ||| Field.motors ||| Field.records ||| Field.valves ||| Field.fans ||| Field.sampler ||| Field.cal ||| Field.zones ||| Field.predictions ||| Field.thermal ||| Field.staleWrites ||| Field.minSel ||| Field.streams ||| Field.can ||| Field.panels ||| Field.plate ||| Field.selftest) fs) {a0 c1 c2 : Chip} (h1 : Keeps fs a0 c1) (h : c2 = c1 ∨ ∃ f, c2 = c1.setSampler f) :
    Keeps fs a0 (if c2.judgeWarn.judgeShutdown.1 then c2.judgeWarn.judgeShutdown.2 else c2.judgeWarn.judgeShutdown.2.setThermal ThermalSt.judgeStep) := by
  have h2 : Keeps fs a0 c2 := by
    rcases h with rfl | ⟨f, rfl⟩
    · exact h1
    · exact setSampler_keeps (hm.sub (by decide)) _ _ h1
  have h3 := judgeShutdown_keeps (hm.sub (by decide)) _ (judgeWarn_keeps (hm.sub (by decide)) _ h2)
  exact Keeps.ite h3 (setThermal_keeps (hm.sub (by decide)) _ _ h3)

theorem thermalUpdate_keeps {fs : Nat} (hm : Within (Field.routed ||| Field.clk ||| Field.slots ||| Field.overrides ||| Field.produced ||| Field.slotWrites ||| Field.attrs ||| Field.existing ||| Field.gens ||| Field.owners ||| Field.sessions ||| Field.staged ||| Field.lives ||| Field.cmds ||| Field.remoteIn ||| Field.foldS ||| Field.foldD ||| Field.host ||| Field.dogs ||| Field.firmware ||| Field.image ||| Field.rtc ||| Field.almanac ||| Field.links ||| Field.fabric ||| Field.ports ||| Field.groups ||| Field.bridges ||| Field.motors ||| Field.records ||| Field.valves ||| Field.fans ||| Field.sampler ||| Field.cal ||| Field.zones ||| Field.predictions ||| Field.thermal ||| Field.staleWrites ||| Field.minSel ||| Field.streams ||| Field.can ||| Field.panels ||| Field.plate ||| Field.selftest) fs) {a0 : Chip} (power : List Int) (readings : List Int) (c : Chip) (h0 : Keeps fs a0 c) :
    Keeps fs a0 (Chip.thermalUpdate power readings c) := by
  unfold Chip.thermalUpdate
  refine Keeps.ite h0 ?_
  have h1 := estimate_keeps (hm.sub (by decide)) power readings _ (waitUntil_keeps (hm.sub (by decide)) c.thermalDue c h0)
  generalize Chip.estimate power readings (c.waitUntil c.thermalDue) = c1 at h1
  refine thermalTail_keeps (hm.sub (by decide)) h1 ?_
  by_cases h : (c1.thermal.updates % 10 == 0) = true
  · exact .inr ⟨_, if_pos h⟩
  · exact .inl (if_neg h)

theorem applyStep_keeps {fs : Nat} (hm : Within (Field.routed ||| Field.sessions ||| Field.staged ||| Field.lives ||| Field.cmds ||| Field.firmware ||| Field.image ||| Field.links ||| Field.fabric ||| Field.ports ||| Field.motors ||| Field.valves ||| Field.cal ||| Field.thermal ||| Field.streams ||| Field.can) fs) {a0 : Chip} (fromFloor : Bool) (c : Chip) (h0 : Keeps fs a0 c) : Keeps fs a0 (Chip.applyStep fromFloor c) := by
  unfold Chip.applyStep
  repeat' first
    | (clear_value *; apply Touches.mk <;> intro hn <;> first | with_reducible rfl | exact hm.out hn rfl)
    | extract_lets
    | with_reducible refine Keeps.ite ?_ ?_
    | with_reducible exact h0
    | with_reducible exact Keeps.refl _
    | with_reducible apply fitVact_keeps (hm.sub (by decide))
    | with_reducible apply powerLimit_keeps (hm.sub (by decide))
    | with_reducible apply fire_keeps (hm.sub (by decide))
    | with_reducible apply setThermal_keeps (hm.sub (by decide))

theorem takeStep_keeps {fs : Nat} (hm : Within (Field.routed ||| Field.sessions ||| Field.staged ||| Field.lives ||| Field.cmds ||| Field.firmware ||| Field.image ||| Field.links ||| Field.fabric ||| Field.ports ||| Field.motors ||| Field.valves ||| Field.cal ||| Field.thermal ||| Field.streams ||| Field.can) fs) {a0 : Chip} (c : Chip) (h0 : Keeps fs a0 c) : Keeps fs a0 (Chip.takeStep c) := by
  unfold Chip.takeStep
  repeat' first
    | (clear_value *; apply Touches.mk <;> intro hn <;> first | with_reducible rfl | exact hm.out hn rfl)
    | extract_lets
    | with_reducible refine Keeps.ite ?_ ?_
    | with_reducible exact h0
    | with_reducible exact Keeps.refl _
    | with_reducible apply applyStep_keeps (hm.sub (by decide))
    | with_reducible apply setThermal_keeps (hm.sub (by decide))

theorem undoStep_keeps {fs : Nat} (hm : Within (Field.routed ||| Field.sessions ||| Field.staged ||| Field.lives ||| Field.cmds ||| Field.firmware ||| Field.image ||| Field.links ||| Field.fabric ||| Field.ports ||| Field.motors ||| Field.valves ||| Field.cal ||| Field.thermal ||| Field.streams ||| Field.can) fs) {a0 : Chip} (c : Chip) (h0 : Keeps fs a0 c) : Keeps fs a0 (Chip.undoStep c) := by
  unfold Chip.undoStep
  repeat' first
    | (clear_value *; apply Touches.mk <;> intro hn <;> first | with_reducible rfl | exact hm.out hn rfl)
    | extract_lets
    | with_reducible refine Keeps.ite ?_ ?_
    | with_reducible exact h0
    | with_reducible exact Keeps.refl _
    | with_reducible apply applyStep_keeps (hm.sub (by decide))
    | with_reducible apply setThermal_keeps (hm.sub (by decide))

theorem setBudget_keeps {fs : Nat} (hm : Within (Field.routed ||| Field.sessions ||| Field.staged ||| Field.lives ||| Field.cmds ||| Field.firmware ||| Field.image ||| Field.links ||| Field.fabric ||| Field.ports ||| Field.motors ||| Field.valves ||| Field.cal ||| Field.thermal ||| Field.streams ||| Field.can) fs) {a0 : Chip} (mw : Nat) (c : Chip) (h0 : Keeps fs a0 c) : Keeps fs a0 (Chip.setBudget mw c) := by
  unfold Chip.setBudget
  repeat' first
    | (clear_value *; apply Touches.mk <;> intro hn <;> first | with_reducible rfl | exact hm.out hn rfl)
    | extract_lets
    | with_reducible exact h0
    | with_reducible exact Keeps.refl _
    | with_reducible apply applyStep_keeps (hm.sub (by decide))
    | with_reducible apply setThermal_keeps (hm.sub (by decide))

theorem shutdownRelease_keeps {fs : Nat} (hm : Within (Field.power ||| Field.thermal) fs) {a0 : Chip} (c : Chip) (h0 : Keeps fs a0 c) : Keeps fs a0 (Chip.shutdownRelease c) := by
  unfold Chip.shutdownRelease
  repeat' first
    | (clear_value *; apply Touches.mk <;> intro hn <;> first | with_reducible rfl | exact hm.out hn rfl)
    | extract_lets
    | with_reducible refine Keeps.ite ?_ ?_
    | with_reducible exact h0
    | with_reducible exact Keeps.refl _
    | with_reducible apply setPower_keeps (hm.sub (by decide))
    | with_reducible apply setThermal_keeps (hm.sub (by decide))

theorem bodyThermalStatus_keeps {fs : Nat} (hm : Within 0 fs) {a0 : Chip} (k : Cmd) (c : Chip) (h0 : Keeps fs a0 c) : ResKeeps fs a0 (bodyThermalStatus k c) := by
  unfold bodyThermalStatus
  repeat' first
    | extract_lets
    | with_reducible refine ResKeeps.ite ?_ ?_
    | with_reducible refine Keeps.ite ?_ ?_
    | with_reducible exact h0
    | with_reducible exact Keeps.refl _
    | with_reducible apply ResKeeps.done
    | with_reducible apply ResKeeps.accepted
    | with_reducible apply ResKeeps.acceptedDone
    | with_reducible apply ResKeeps.waiting
    | with_reducible apply ResKeeps.held
    | with_reducible apply ResKeeps.ok
    | with_reducible apply ResKeeps.okWith
    | with_reducible apply ResKeeps.err
    | with_reducible apply ResKeeps.badParam
    | with_reducible apply ResKeeps.badLength

theorem bodyBudgetSet_keeps {fs : Nat} (hm : Within (Field.routed ||| Field.sessions ||| Field.staged ||| Field.lives ||| Field.cmds ||| Field.firmware ||| Field.image ||| Field.links ||| Field.fabric ||| Field.ports ||| Field.motors ||| Field.valves ||| Field.cal ||| Field.thermal ||| Field.streams ||| Field.can) fs) {a0 : Chip} (k : Cmd) (c : Chip) (h0 : Keeps fs a0 c) : ResKeeps fs a0 (bodyBudgetSet k c) := by
  unfold bodyBudgetSet
  repeat' first
    | extract_lets
    | with_reducible refine ResKeeps.ite ?_ ?_
    | with_reducible refine Keeps.ite ?_ ?_
    | with_reducible exact h0
    | with_reducible exact Keeps.refl _
    | with_reducible apply setBudget_keeps (hm.sub (by decide))
    | with_reducible apply ResKeeps.done
    | with_reducible apply ResKeeps.accepted
    | with_reducible apply ResKeeps.acceptedDone
    | with_reducible apply ResKeeps.waiting
    | with_reducible apply ResKeeps.held
    | with_reducible apply ResKeeps.ok
    | with_reducible apply ResKeeps.okWith
    | with_reducible apply ResKeeps.err
    | with_reducible apply ResKeeps.badParam
    | with_reducible apply ResKeeps.badLength

end Sys2Proof.Machine
end

