-- ==== Sys2Proof/Laws/KeepsObjects.lean ====
section
/-! SUPPORT. What Machine/Objects.lean keeps. -/

namespace Sys2Proof.Machine

theorem bodyObjGet_keeps {fs : Nat} (hm : Within 0 fs) {a0 : Chip} (k : Cmd) (c : Chip) (h0 : Keeps fs a0 c) : ResKeeps fs a0 (bodyObjGet k c) := by
  unfold bodyObjGet
  repeat' first
    | (clear_value *; apply Touches.mk <;> intro hn <;> first | with_reducible rfl | exact hm.out hn rfl)
    | extract_lets
    | with_reducible refine ResKeeps.ite ?_ ?_
    | with_reducible refine Keeps.ite ?_ ?_
    | with_reducible exact h0
    | with_reducible exact Keeps.refl _
    | with_reducible apply ResKeeps.done
    | with_reducible apply ResKeeps.accepted
    | with_reducible apply ResKeeps.acceptedDone
    | with_reducible apply ResKeeps.waiting
    | with_reducible apply ResKeeps.held
    | with_reducible apply ResKeeps.ok
    | with_reducible apply ResKeeps.okWith
    | with_reducible apply ResKeeps.err
    | with_reducible apply ResKeeps.badParam
    | with_reducible apply ResKeeps.badLength
    | with_reducible refine OptKeeps.of_eq ?_ (by assumption)
    | split

theorem dropAttrs_keeps {fs : Nat} (hm : Within (Field.attrs) fs) {a0 : Chip} (hnd : Nat) (c : Chip) (h0 : Keeps fs a0 c) : Keeps fs a0 (Chip.dropAttrs hnd c) := by
  unfold Chip.dropAttrs
  repeat' first
    | (clear_value *; apply Touches.mk <;> intro hn <;> first | with_reducible rfl | exact hm.out hn rfl)
    | (apply Touches.mk <;> intro hn <;> first | with_reducible rfl | exact hm.out hn rfl)
    | extract_lets
    | with_reducible exact h0
    | with_reducible exact Keeps.refl _
    | with_reducible refine Keeps.update ?_ ?_

theorem applyLife_keeps {fs : Nat} (hm : Within (Field.attrs ||| Field.existing) fs) {a0 : Chip} (l : Life) (c : Chip) (h0 : Keeps fs a0 c) : Keeps fs a0 (Chip.applyLife l c) := by
  unfold Chip.applyLife
  repeat' first
    | (clear_value *; apply Touches.mk <;> intro hn <;> first | with_reducible rfl | exact hm.out hn rfl)
    | extract_lets
    | with_reducible exact h0
    | with_reducible exact Keeps.refl _
    | with_reducible apply dropAttrs_keeps (hm.sub (by decide))
    | with_reducible refine Keeps.update ?_ ?_

theorem applyChange_keeps {fs : Nat} (hm : Within (Field.attrs) fs) {a0 : Chip} (x : Change) (c : Chip) (h0 : Keeps fs a0 c) : Keeps fs a0 (Chip.applyChange x c) := by
  unfold Chip.applyChange
  repeat' first
    | extract_lets
    | with_reducible exact h0
    | with_reducible exact Keeps.refl _
    | with_reducible apply setAttr_keeps (hm.sub (by decide))

theorem tentative_keeps {fs : Nat} (hm : Within (Field.attrs ||| Field.existing) fs) {a0 : Chip} (lives : List Life) (xs : List Change) (c : Chip) (h0 : Keeps fs a0 c) : Keeps fs a0 (Chip.tentative lives xs c) := by
  unfold Chip.tentative
  repeat' first
    | extract_lets
    | with_reducible refine foldl_keeps (fun _ _ => ?_) ?_
    | with_reducible refine Keeps.ite ?_ ?_
    | with_reducible exact h0
    | with_reducible exact Keeps.refl _
    | with_reducible apply applyChange_keeps (hm.sub (by decide))
    | with_reducible apply applyLife_keeps (hm.sub (by decide))

theorem loseHeartbeat_keeps {fs : Nat} (hm : Within (Field.routed ||| Field.slots ||| Field.produced ||| Field.slotWrites ||| Field.sessions ||| Field.staged ||| Field.lives ||| Field.cmds ||| Field.dogs ||| Field.firmware ||| Field.image ||| Field.links ||| Field.fabric ||| Field.groups ||| Field.motors ||| Field.records ||| Field.valves ||| Field.cal ||| Field.zones ||| Field.staleWrites ||| Field.streams ||| Field.can) fs) {a0 : Chip} (c : Chip) (h0 : Keeps fs a0 c) : Keeps fs a0 (Chip.loseHeartbeat c) := by
  unfold Chip.loseHeartbeat
  repeat' first
    | (clear_value *; apply Touches.mk <;> intro hn <;> first | with_reducible rfl | exact hm.out hn rfl)
    | extract_lets
    | with_reducible refine foldl_keeps (fun _ _ => ?_) ?_
    | with_reducible exact h0
    | with_reducible exact Keeps.refl _
    | with_reducible apply fire_keeps (hm.sub (by decide))
    | with_reducible apply bite_keeps (hm.sub (by decide))
    | with_reducible apply forceSafe_keeps (hm.sub (by decide))
    | with_reducible refine Keeps.update ?_ ?_

theorem heartbeatCommitted_keeps {fs : Nat} (hm : Within (Field.routed ||| Field.slots ||| Field.produced ||| Field.slotWrites ||| Field.sessions ||| Field.staged ||| Field.lives ||| Field.cmds ||| Field.dogs ||| Field.firmware ||| Field.image ||| Field.links ||| Field.fabric ||| Field.groups ||| Field.motors ||| Field.records ||| Field.valves ||| Field.cal ||| Field.zones ||| Field.staleWrites ||| Field.streams ||| Field.can) fs) {a0 : Chip} (oldPeriod : Nat) (c : Chip) (h0 : Keeps fs a0 c) : Keeps fs a0 (Chip.heartbeatCommitted oldPeriod c) := by
  unfold Chip.heartbeatCommitted
  repeat' first
    | (clear_value *; apply Touches.mk <;> intro hn <;> first | with_reducible rfl | exact hm.out hn rfl)
    | extract_lets
    | with_reducible refine Keeps.ite ?_ ?_
    | with_reducible exact h0
    | with_reducible exact Keeps.refl _
    | with_reducible apply loseHeartbeat_keeps (hm.sub (by decide))
    | with_reducible refine Keeps.update ?_ ?_

theorem liveChange_keeps {fs : Nat} (hm : Within (Field.routed ||| Field.attrs ||| Field.sessions ||| Field.staged ||| Field.lives ||| Field.cmds ||| Field.foldS ||| Field.foldD ||| Field.firmware ||| Field.image ||| Field.rtc ||| Field.links ||| Field.fabric ||| Field.ports ||| Field.groups ||| Field.motors ||| Field.valves ||| Field.cal ||| Field.thermal ||| Field.streams ||| Field.can) fs) {a0 : Chip} (x : Change) (c : Chip) (h0 : Keeps fs a0 c) : OptKeeps fs a0 (Chip.liveChange x c) := by
  unfold Chip.liveChange
  repeat' first
    | (clear_value *; apply Touches.mk <;> intro hn <;> first | with_reducible rfl | exact hm.out hn rfl)
    | extract_lets
    | with_reducible exact OptKeeps.none
    | with_reducible refine OptKeeps.ite ?_ ?_
    | with_reducible refine Keeps.ite ?_ ?_
    | with_reducible exact h0
    | with_reducible exact Keeps.refl _
    | with_reducible apply writeRoute_keeps (hm.sub (by decide))
    | with_reducible apply setBudget_keeps (hm.sub (by decide))
    | with_reducible apply setThermal_keeps (hm.sub (by decide))
    | with_reducible refine setRtc_keeps (hm.sub (by decide)) _ _ ?_ ?_
    | with_reducible apply setLoop_keeps (hm.sub (by decide))
    | with_reducible apply clearGroupStatus_keeps (hm.sub (by decide))
    | with_reducible apply clearPortFault_keeps (hm.sub (by decide))
    | with_reducible apply setPower_keeps (hm.sub (by decide))
    | with_reducible apply OptKeeps.some
    | with_reducible refine Keeps.update ?_ ?_
    | exact Nat.le_refl _
    | exact id
    | exact fun _ h => h
    | exact fun h => Tbl.wf_set _ _ _ _ h
    | exact fun h => Tbl.wf_setRun _ _ _ _ h
    | exact fun h => Tbl.wf_dropRange _ _ _ _ h
    | exact fun _ => rfl
    | exact fun _ h => Tbl.wf_set _ _ _ _ h
    | exact fun _ h => Tbl.wf_setRun _ _ _ _ h

theorem withAttrs_keeps {fs : Nat} (hm : Within (Field.attrs ||| Field.existing) fs) {a0 : Chip} (old : Chip) (c : Chip) (h0 : Keeps fs a0 c) : Keeps fs a0 (Chip.withAttrs old c) := by
  unfold Chip.withAttrs
  repeat' first
    | (clear_value *; apply Touches.mk <;> intro hn <;> first | with_reducible rfl | exact hm.out hn rfl)
    | (apply Touches.mk <;> intro hn <;> first | with_reducible rfl | exact hm.out hn rfl)
    | extract_lets
    | with_reducible exact h0
    | with_reducible exact Keeps.refl _
    | with_reducible refine Keeps.update ?_ ?_

theorem underOld_keeps {fs : Nat} (hm : Within (Field.attrs ||| Field.existing) fs) {a0 : Chip} (old : Chip) (f : Chip → Chip) (c : Chip) (hf : ∀ x, Keeps fs x (f x)) (h0 : Keeps fs a0 c) : Keeps fs a0 (Chip.underOld old f c) := by
  unfold Chip.underOld
  repeat' first
    | (clear_value *; apply Touches.mk <;> intro hn <;> first | with_reducible rfl | exact hm.out hn rfl)
    | extract_lets
    | with_reducible exact h0
    | with_reducible exact Keeps.refl _
    | (with_reducible refine Keeps.trans ?_ (hf _))
    | with_reducible apply withAttrs_keeps (hm.sub (by decide))

theorem portCommitted_keeps {fs : Nat} (hm : Within (Field.routed ||| Field.sessions ||| Field.staged ||| Field.lives ||| Field.cmds ||| Field.firmware ||| Field.image ||| Field.links ||| Field.fabric ||| Field.ports ||| Field.cal ||| Field.streams ||| Field.can) fs) {a0 : Chip} (old : Chip) (n : Nat) (c : Chip) (h0 : Keeps fs a0 c) : Keeps fs a0 (Chip.portCommitted old n c) := by
  unfold Chip.portCommitted
  repeat' first
    | (clear_value *; apply Touches.mk <;> intro hn <;> first | with_reducible rfl | exact hm.out hn rfl)
    | extract_lets
    | with_reducible refine Keeps.ite ?_ ?_
    | with_reducible exact h0
    | with_reducible exact Keeps.refl _
    | with_reducible apply settle_keeps (hm.sub (by decide))
    | with_reducible apply judgeInputs_keeps (hm.sub (by decide))
    | with_reducible apply checkCaptures_keeps (hm.sub (by decide))
    | with_reducible apply dropZeros_keeps (hm.sub (by decide))
    | with_reducible apply changeMode_keeps (hm.sub (by decide))
    | with_reducible apply setPort_keeps (hm.sub (by decide))

theorem seqChanged_keeps {fs : Nat} (hm : Within (Field.sampler) fs) {a0 : Chip} (old : Chip) (h : Nat) (c : Chip) (h0 : Keeps fs a0 c) : Keeps fs a0 (Chip.seqChanged old h c) := by
  unfold Chip.seqChanged
  repeat' first
    | extract_lets
    | with_reducible refine Keeps.ite ?_ ?_
    | with_reducible exact h0
    | with_reducible exact Keeps.refl _
    | with_reducible apply armSeq_keeps (hm.sub (by decide))
    | with_reducible apply noteSeq_keeps (hm.sub (by decide))

theorem seqCommitted_keeps {fs : Nat} (hm : Within (Field.sampler) fs) {a0 : Chip} (old : Chip) (e : Nat) (c : Chip) (h0 : Keeps fs a0 c) : Keeps fs a0 (Chip.seqCommitted old e c) := by
  unfold Chip.seqCommitted
  repeat' first
    | extract_lets
    | with_reducible refine foldl_keeps (fun _ _ => ?_) ?_
    | with_reducible exact h0
    | with_reducible exact Keeps.refl _
    | with_reducible apply seqChanged_keeps (hm.sub (by decide))

theorem motorCommitted_keeps {fs : Nat} (hm : Within (Field.routed ||| Field.slots ||| Field.produced ||| Field.slotWrites ||| Field.attrs ||| Field.existing ||| Field.sessions ||| Field.staged ||| Field.lives ||| Field.cmds ||| Field.firmware ||| Field.image ||| Field.links ||| Field.fabric ||| Field.motors ||| Field.records ||| Field.cal ||| Field.zones ||| Field.staleWrites ||| Field.streams ||| Field.can) fs) {a0 : Chip} (old : Chip) (n : Nat) (was : Bool) (is_ : Bool) (c : Chip) (h0 : Keeps fs a0 c) : Keeps fs a0 (Chip.motorCommitted old n was is_ c) := by
  unfold Chip.motorCommitted
  repeat' first
    | (clear_value *; apply Touches.mk <;> intro hn <;> first | with_reducible rfl | exact hm.out hn rfl)
    | extract_lets
    | with_reducible refine Keeps.ite ?_ ?_
    | with_reducible exact h0
    | with_reducible exact Keeps.refl _
    | with_reducible apply bindMotor_keeps (hm.sub (by decide))
    | with_reducible apply endMove_keeps (hm.sub (by decide))
    | with_reducible apply setMotor_keeps (hm.sub (by decide))
    | with_reducible apply underOld_keeps (hm.sub (by decide))
    | with_reducible refine Keeps.update ?_ ?_
    | (with_reducible intro _)

theorem damperCommitted_keeps {fs : Nat} (hm : Within (Field.routed ||| Field.slots ||| Field.produced ||| Field.slotWrites ||| Field.attrs ||| Field.existing ||| Field.sessions ||| Field.staged ||| Field.lives ||| Field.cmds ||| Field.firmware ||| Field.image ||| Field.links ||| Field.fabric ||| Field.motors ||| Field.records ||| Field.cal ||| Field.zones ||| Field.staleWrites ||| Field.streams ||| Field.can) fs) {a0 : Chip} (old : Chip) (n : Nat) (c : Chip) (h0 : Keeps fs a0 c) : Keeps fs a0 (Chip.damperCommitted old n c) := by
  unfold Chip.damperCommitted
  repeat' first
    | extract_lets
    | with_reducible exact h0
    | with_reducible exact Keeps.refl _
    | with_reducible apply motorCommitted_keeps (hm.sub (by decide))

theorem valveCommitted_keeps {fs : Nat} (hm : Within (Field.routed ||| Field.slots ||| Field.produced ||| Field.slotWrites ||| Field.attrs ||| Field.existing ||| Field.sessions ||| Field.staged ||| Field.lives ||| Field.cmds ||| Field.firmware ||| Field.image ||| Field.links ||| Field.fabric ||| Field.motors ||| Field.records ||| Field.valves ||| Field.cal ||| Field.zones ||| Field.staleWrites ||| Field.streams ||| Field.can) fs) {a0 : Chip} (old : Chip) (n : Nat) (c : Chip) (h0 : Keeps fs a0 c) : Keeps fs a0 (Chip.valveCommitted old n c) := by
  unfold Chip.valveCommitted
  repeat' first
    | (clear_value *; apply Touches.mk <;> intro hn <;> first | with_reducible rfl | exact hm.out hn rfl)
    | extract_lets
    | with_reducible refine Keeps.ite ?_ ?_
    | with_reducible exact h0
    | with_reducible exact Keeps.refl _
    | with_reducible apply motorCommitted_keeps (hm.sub (by decide))
    | with_reducible apply setValve_keeps (hm.sub (by decide))

theorem fanCommitted_keeps {fs : Nat} (hm : Within (Field.fans) fs) {a0 : Chip} (old : Chip) (n : Nat) (c : Chip) (h0 : Keeps fs a0 c) : Keeps fs a0 (Chip.fanCommitted old n c) := by
  unfold Chip.fanCommitted
  repeat' first
    | extract_lets
    | with_reducible refine Keeps.ite ?_ ?_
    | with_reducible exact h0
    | with_reducible exact Keeps.refl _
    | with_reducible apply setFan_keeps (hm.sub (by decide))

theorem zoneCommitted_keeps {fs : Nat} (hm : Within (Field.routed ||| Field.slots ||| Field.overrides ||| Field.produced ||| Field.slotWrites ||| Field.attrs ||| Field.existing ||| Field.zones ||| Field.staleWrites) fs) {a0 : Chip} (old : Chip) (z : Nat) (c : Chip) (h0 : Keeps fs a0 c) : Keeps fs a0 (Chip.zoneCommitted old z c) := by
  unfold Chip.zoneCommitted
  repeat' first
    | (clear_value *; apply Touches.mk <;> intro hn <;> first | with_reducible rfl | exact hm.out hn rfl)
    | extract_lets
    | with_reducible refine Keeps.ite ?_ ?_
    | with_reducible exact h0
    | with_reducible exact Keeps.refl _
    | with_reducible apply sourcesChanged_keeps (hm.sub (by decide))
    | with_reducible apply startPresence_keeps (hm.sub (by decide))
    | with_reducible apply startFit_keeps (hm.sub (by decide))
    | with_reducible apply setZone_keeps (hm.sub (by decide))
    | with_reducible apply endSuspect_keeps (hm.sub (by decide))
    | with_reducible apply reinit_keeps (hm.sub (by decide))
    | with_reducible apply enableZone_keeps (hm.sub (by decide))
    | with_reducible apply disableZone_keeps (hm.sub (by decide))
    | with_reducible apply underOld_keeps (hm.sub (by decide))
    | with_reducible refine Keeps.update ?_ ?_
    | (with_reducible intro _)

theorem schedCommitted_keeps {fs : Nat} (hm : Within (Field.almanac) fs) {a0 : Chip} (c : Chip) (h0 : Keeps fs a0 c) : Keeps fs a0 (Chip.schedCommitted c) := by
  unfold Chip.schedCommitted
  repeat' first
    | (clear_value *; apply Touches.mk <;> intro hn <;> first | with_reducible rfl | exact hm.out hn rfl)
    | extract_lets
    | with_reducible exact h0
    | with_reducible exact Keeps.refl _
    | with_reducible refine Keeps.update ?_ ?_

theorem deviceCommitted_keeps {fs : Nat} (hm : Within (Field.routed ||| Field.slots ||| Field.produced ||| Field.slotWrites ||| Field.sessions ||| Field.staged ||| Field.lives ||| Field.cmds ||| Field.dogs ||| Field.firmware ||| Field.image ||| Field.links ||| Field.fabric ||| Field.groups ||| Field.motors ||| Field.records ||| Field.valves ||| Field.cal ||| Field.zones ||| Field.staleWrites ||| Field.streams ||| Field.can) fs) {a0 : Chip} (old : Chip) (c : Chip) (h0 : Keeps fs a0 c) : Keeps fs a0 (Chip.deviceCommitted old c) := by
  unfold Chip.deviceCommitted
  repeat' first
    | extract_lets
    | with_reducible refine Keeps.ite ?_ ?_
    | with_reducible exact h0
    | with_reducible exact Keeps.refl _
    | with_reducible apply converge_keeps (hm.sub (by decide))
    | with_reducible apply floodOwn_keeps (hm.sub (by decide))
    | with_reducible apply heartbeatCommitted_keeps (hm.sub (by decide))

theorem objCommitted_keeps {fs : Nat} (hm : Within (Field.routed ||| Field.slots ||| Field.overrides ||| Field.produced ||| Field.slotWrites ||| Field.attrs ||| Field.existing ||| Field.sessions ||| Field.staged ||| Field.lives ||| Field.cmds ||| Field.dogs ||| Field.firmware ||| Field.image ||| Field.almanac ||| Field.links ||| Field.fabric ||| Field.ports ||| Field.groups ||| Field.motors ||| Field.records ||| Field.valves ||| Field.fans ||| Field.sampler ||| Field.cal ||| Field.zones ||| Field.staleWrites ||| Field.streams ||| Field.can) fs) {a0 : Chip} (old : Chip) (hnd : Nat) (c : Chip) (h0 : Keeps fs a0 c) : Keeps fs a0 (Chip.objCommitted old hnd c) := by
  unfold Chip.objCommitted
  repeat' first
    | (clear_value *; apply Touches.mk <;> intro hn <;> first | with_reducible rfl | exact hm.out hn rfl)
    | extract_lets
    | with_reducible refine Keeps.ite ?_ ?_
    | with_reducible exact h0
    | with_reducible exact Keeps.refl _
    | with_reducible apply startObjs_keeps (hm.sub (by decide))
    | with_reducible apply streamCommitted_keeps (hm.sub (by decide))
    | with_reducible apply withAttrs_keeps (hm.sub (by decide))
    | with_reducible apply updateRoute_keeps (hm.sub (by decide))
    | with_reducible apply linkCommitted_keeps (hm.sub (by decide))
    | with_reducible apply schedCommitted_keeps (hm.sub (by decide))
    | with_reducible apply zoneCommitted_keeps (hm.sub (by decide))
    | with_reducible apply valveCommitted_keeps (hm.sub (by decide))
    | with_reducible apply fanCommitted_keeps (hm.sub (by decide))
    | with_reducible apply damperCommitted_keeps (hm.sub (by decide))
    | with_reducible apply seqCommitted_keeps (hm.sub (by decide))
    | with_reducible apply portCommitted_keeps (hm.sub (by decide))
    | with_reducible apply deviceCommitted_keeps (hm.sub (by decide))

theorem endInstance_keeps {fs : Nat} (hm : Within (Field.routed ||| Field.overrides ||| Field.sessions ||| Field.staged ||| Field.lives ||| Field.cmds ||| Field.firmware ||| Field.image ||| Field.almanac ||| Field.links ||| Field.fabric ||| Field.cal ||| Field.zones ||| Field.minSel ||| Field.streams ||| Field.can) fs) {a0 : Chip} (hnd : Nat) (c : Chip) (h0 : Keeps fs a0 c) : Keeps fs a0 (Chip.endInstance hnd c) := by
  unfold Chip.endInstance
  repeat' first
    | (clear_value *; apply Touches.mk <;> intro hn <;> first | with_reducible rfl | exact hm.out hn rfl)
    | extract_lets
    | with_reducible refine Keeps.ite ?_ ?_
    | with_reducible exact h0
    | with_reducible exact Keeps.refl _
    | with_reducible apply closeStream_keeps (hm.sub (by decide))
    | with_reducible apply setFabric_keeps (hm.sub (by decide))
    | with_reducible apply disableZone_keeps (hm.sub (by decide))
    | with_reducible apply disableLoop_keeps (hm.sub (by decide))
    | with_reducible refine Keeps.update ?_ ?_

theorem changes_keeps {fs : Nat} (hm : Within (Field.routed ||| Field.attrs ||| Field.sessions ||| Field.staged ||| Field.lives ||| Field.cmds ||| Field.foldS ||| Field.foldD ||| Field.firmware ||| Field.image ||| Field.rtc ||| Field.links ||| Field.fabric ||| Field.ports ||| Field.groups ||| Field.motors ||| Field.valves ||| Field.cal ||| Field.thermal ||| Field.streams ||| Field.can) fs) {a0 : Chip} (xs : List Change) (c : Chip) (h0 : Keeps fs a0 c) :
    Keeps fs a0 (xs.foldl (fun c x => match c.liveChange x with
      | some d => d
      | none => c.applyChange x) c) := by
  refine foldl_keeps (fun d x => ?_) h0
  have hk := liveChange_keeps (hm.sub (by decide)) x d (Keeps.refl d)
  generalize d.liveChange x = r at hk
  cases r with
  | none => exact applyChange_keeps (hm.sub (by decide)) _ _ (Keeps.refl d)
  | some e => exact hk

theorem makeChanges_keeps {fs : Nat} (hm : Within (Field.routed ||| Field.slots ||| Field.overrides ||| Field.produced ||| Field.slotWrites ||| Field.attrs ||| Field.existing ||| Field.gens ||| Field.sessions ||| Field.staged ||| Field.lives ||| Field.cmds ||| Field.foldS ||| Field.foldD ||| Field.dogs ||| Field.firmware ||| Field.image ||| Field.rtc ||| Field.almanac ||| Field.links ||| Field.fabric ||| Field.ports ||| Field.groups ||| Field.motors ||| Field.records ||| Field.valves ||| Field.fans ||| Field.sampler ||| Field.cal ||| Field.zones ||| Field.thermal ||| Field.staleWrites ||| Field.minSel ||| Field.streams ||| Field.can) fs) {a0 : Chip} (lives : List Life) (xs : List Change) (old : Chip) (h0 : Keeps fs a0 old) :
    Keeps fs a0 (Chip.makeChanges lives xs old) := by
  unfold Chip.makeChanges
  extract_lets c1 c2 hs c3 c4
  have h1 : Keeps fs a0 c1 :=
    foldl_keeps (fun _ _ => applyLife_keeps (hm.sub (by decide)) _ _ (Keeps.ite (Keeps.refl _) (endInstance_keeps (hm.sub (by decide)) _ _ (Keeps.refl _)))) h0
  have h2 : Keeps fs a0 c2 := changes_keeps (hm.sub (by decide)) _ _ h1
  have h3 : Keeps fs a0 c3 := foldl_keeps (fun _ _ => bumpGen_keeps (hm.sub (by decide)) _ _ (Keeps.refl _)) h2
  have h4 : Keeps fs a0 c4 := foldl_keeps (fun _ _ => objCommitted_keeps (hm.sub (by decide)) _ _ _ (Keeps.refl _))
    (foldl_keeps (fun _ _ => modelWritten_keeps (hm.sub (by decide)) _ _ (Keeps.refl _)) h3)
  exact foldl_keeps (fun _ _ => queueShadow_keeps (hm.sub (by decide)) _ _ _ (Keeps.refl _)) h4

theorem refusedWith_keeps {fs : Nat} (hm : Within (Field.routed) fs) {a0 : Chip} (k : Cmd) (status : Nat) (c : Chip) (h0 : Keeps fs a0 c) : Keeps fs a0 (Chip.refusedWith k status c) := by
  unfold Chip.refusedWith
  repeat' first
    | extract_lets
    | with_reducible refine Keeps.ite ?_ ?_
    | with_reducible exact h0
    | with_reducible exact Keeps.refl _
    | with_reducible apply powerLimit_keeps (hm.sub (by decide))

theorem bodyObjSet_keeps {fs : Nat} (hm : Within (Field.routed ||| Field.slots ||| Field.overrides ||| Field.produced ||| Field.slotWrites ||| Field.attrs ||| Field.existing ||| Field.gens ||| Field.sessions ||| Field.staged ||| Field.lives ||| Field.cmds ||| Field.foldS ||| Field.foldD ||| Field.dogs ||| Field.firmware ||| Field.image ||| Field.rtc ||| Field.almanac ||| Field.links ||| Field.fabric ||| Field.ports ||| Field.groups ||| Field.motors ||| Field.records ||| Field.valves ||| Field.fans ||| Field.sampler ||| Field.cal ||| Field.zones ||| Field.thermal ||| Field.staleWrites ||| Field.minSel ||| Field.streams ||| Field.can) fs) {a0 : Chip} (k : Cmd) (c : Chip) (h0 : Keeps fs a0 c) : ResKeeps fs a0 (bodyObjSet k c) := by
  unfold bodyObjSet
  repeat' first
    | (clear_value *; apply Touches.mk <;> intro hn <;> first | with_reducible rfl | exact hm.out hn rfl)
    | extract_lets
    | with_reducible refine ResKeeps.ite ?_ ?_
    | with_reducible refine Keeps.ite ?_ ?_
    | with_reducible exact h0
    | with_reducible exact Keeps.refl _
    | with_reducible apply makeChanges_keeps (hm.sub (by decide))
    | with_reducible apply refusedWith_keeps (hm.sub (by decide))
    | with_reducible apply ResKeeps.done
    | with_reducible apply ResKeeps.accepted
    | with_reducible apply ResKeeps.acceptedDone
    | with_reducible apply ResKeeps.waiting
    | with_reducible apply ResKeeps.held
    | with_reducible apply ResKeeps.ok
    | with_reducible apply ResKeeps.okWith
    | with_reducible apply ResKeeps.err
    | with_reducible apply ResKeeps.badParam
    | with_reducible apply ResKeeps.badLength
    | with_reducible refine OptKeeps.of_eq ?_ (by assumption)
    | split

theorem bodyObjStage_keeps {fs : Nat} (hm : Within (Field.staged) fs) {a0 : Chip} (k : Cmd) (c : Chip) (h0 : Keeps fs a0 c) : ResKeeps fs a0 (bodyObjStage k c) := by
  unfold bodyObjStage
  repeat' first
    | (clear_value *; apply Touches.mk <;> intro hn <;> first | with_reducible rfl | exact hm.out hn rfl)
    | extract_lets
    | with_reducible refine foldl_keeps (fun _ _ => ?_) ?_
    | with_reducible refine ResKeeps.ite ?_ ?_
    | with_reducible refine Keeps.ite ?_ ?_
    | with_reducible exact h0
    | with_reducible exact Keeps.refl _
    | with_reducible apply ResKeeps.done
    | with_reducible apply ResKeeps.accepted
    | with_reducible apply ResKeeps.acceptedDone
    | with_reducible apply ResKeeps.waiting
    | with_reducible apply ResKeeps.held
    | with_reducible apply ResKeeps.ok
    | with_reducible apply ResKeeps.okWith
    | with_reducible apply ResKeeps.err
    | with_reducible apply ResKeeps.badParam
    | with_reducible apply ResKeeps.badLength
    | with_reducible refine OptKeeps.of_eq ?_ (by assumption)
    | split
    | with_reducible refine Keeps.update ?_ ?_

theorem bodyObjCommit_keeps {fs : Nat} (hm : Within (Field.routed ||| Field.slots ||| Field.overrides ||| Field.produced ||| Field.slotWrites ||| Field.attrs ||| Field.existing ||| Field.gens ||| Field.sessions ||| Field.staged ||| Field.lives ||| Field.cmds ||| Field.foldS ||| Field.foldD ||| Field.dogs ||| Field.firmware ||| Field.image ||| Field.rtc ||| Field.almanac ||| Field.links ||| Field.fabric ||| Field.ports ||| Field.groups ||| Field.motors ||| Field.records ||| Field.valves ||| Field.fans ||| Field.sampler ||| Field.cal ||| Field.zones ||| Field.thermal ||| Field.staleWrites ||| Field.minSel ||| Field.streams ||| Field.can) fs) {a0 : Chip} (k : Cmd) (c : Chip) (h0 : Keeps fs a0 c) : ResKeeps fs a0 (bodyObjCommit k c) := by
  unfold bodyObjCommit
  repeat' first
    | (clear_value *; apply Touches.mk <;> intro hn <;> first | with_reducible rfl | exact hm.out hn rfl)
    | extract_lets
    | with_reducible refine ResKeeps.ite ?_ ?_
    | with_reducible refine Keeps.ite ?_ ?_
    | with_reducible exact h0
    | with_reducible exact Keeps.refl _
    | with_reducible apply makeChanges_keeps (hm.sub (by decide))
    | with_reducible apply refusedWith_keeps (hm.sub (by decide))
    | with_reducible apply ResKeeps.done
    | with_reducible apply ResKeeps.accepted
    | with_reducible apply ResKeeps.acceptedDone
    | with_reducible apply ResKeeps.waiting
    | with_reducible apply ResKeeps.held
    | with_reducible apply ResKeeps.ok
    | with_reducible apply ResKeeps.okWith
    | with_reducible apply ResKeeps.err
    | with_reducible apply ResKeeps.badParam
    | with_reducible apply ResKeeps.badLength
    | with_reducible refine OptKeeps.of_eq ?_ (by assumption)
    | split
    | with_reducible refine Keeps.update ?_ ?_

theorem bodyObjDiscard_keeps {fs : Nat} (hm : Within (Field.staged ||| Field.lives) fs) {a0 : Chip} (k : Cmd) (c : Chip) (h0 : Keeps fs a0 c) : ResKeeps fs a0 (bodyObjDiscard k c) := by
  unfold bodyObjDiscard
  repeat' first
    | (clear_value *; apply Touches.mk <;> intro hn <;> first | with_reducible rfl | exact hm.out hn rfl)
    | (apply Touches.mk <;> intro hn <;> first | with_reducible rfl | exact hm.out hn rfl)
    | extract_lets
    | with_reducible refine ResKeeps.ite ?_ ?_
    | with_reducible refine Keeps.ite ?_ ?_
    | with_reducible exact h0
    | with_reducible exact Keeps.refl _
    | with_reducible apply ResKeeps.done
    | with_reducible apply ResKeeps.accepted
    | with_reducible apply ResKeeps.acceptedDone
    | with_reducible apply ResKeeps.waiting
    | with_reducible apply ResKeeps.held
    | with_reducible apply ResKeeps.ok
    | with_reducible apply ResKeeps.okWith
    | with_reducible apply ResKeeps.err
    | with_reducible apply ResKeeps.badParam
    | with_reducible apply ResKeeps.badLength
    | with_reducible refine Keeps.update ?_ ?_

theorem bodyObjCreate_keeps {fs : Nat} (hm : Within (Field.lives) fs) {a0 : Chip} (k : Cmd) (c : Chip) (h0 : Keeps fs a0 c) : ResKeeps fs a0 (bodyObjCreate k c) := by
  unfold bodyObjCreate
  repeat' first
    | (clear_value *; apply Touches.mk <;> intro hn <;> first | with_reducible rfl | exact hm.out hn rfl)
    | extract_lets
    | with_reducible refine ResKeeps.ite ?_ ?_
    | with_reducible refine Keeps.ite ?_ ?_
    | with_reducible exact h0
    | with_reducible exact Keeps.refl _
    | with_reducible apply ResKeeps.done
    | with_reducible apply ResKeeps.accepted
    | with_reducible apply ResKeeps.acceptedDone
    | with_reducible apply ResKeeps.waiting
    | with_reducible apply ResKeeps.held
    | with_reducible apply ResKeeps.ok
    | with_reducible apply ResKeeps.okWith
    | with_reducible apply ResKeeps.err
    | with_reducible apply ResKeeps.badParam
    | with_reducible apply ResKeeps.badLength
    | with_reducible refine Keeps.update ?_ ?_

theorem bodyObjDelete_keeps {fs : Nat} (hm : Within (Field.staged ||| Field.lives) fs) {a0 : Chip} (k : Cmd) (c : Chip) (h0 : Keeps fs a0 c) : ResKeeps fs a0 (bodyObjDelete k c) := by
  unfold bodyObjDelete
  repeat' first
    | (clear_value *; apply Touches.mk <;> intro hn <;> first | with_reducible rfl | exact hm.out hn rfl)
    | extract_lets
    | with_reducible refine ResKeeps.ite ?_ ?_
    | with_reducible refine Keeps.ite ?_ ?_
    | with_reducible exact h0
    | with_reducible exact Keeps.refl _
    | with_reducible apply ResKeeps.done
    | with_reducible apply ResKeeps.accepted
    | with_reducible apply ResKeeps.acceptedDone
    | with_reducible apply ResKeeps.waiting
    | with_reducible apply ResKeeps.held
    | with_reducible apply ResKeeps.ok
    | with_reducible apply ResKeeps.okWith
    | with_reducible apply ResKeeps.err
    | with_reducible apply ResKeeps.badParam
    | with_reducible apply ResKeeps.badLength
    | with_reducible refine Keeps.update ?_ ?_

theorem bodyObjOwner_keeps {fs : Nat} (hm : Within (Field.routed ||| Field.owners) fs) {a0 : Chip} (k : Cmd) (c : Chip) (h0 : Keeps fs a0 c) : ResKeeps fs a0 (bodyObjOwner k c) := by
  unfold bodyObjOwner
  repeat' first
    | extract_lets
    | with_reducible refine ResKeeps.ite ?_ ?_
    | with_reducible refine Keeps.ite ?_ ?_
    | with_reducible exact h0
    | with_reducible exact Keeps.refl _
    | with_reducible apply setOwner_keeps (hm.sub (by decide))
    | with_reducible apply ResKeeps.done
    | with_reducible apply ResKeeps.accepted
    | with_reducible apply ResKeeps.acceptedDone
    | with_reducible apply ResKeeps.waiting
    | with_reducible apply ResKeeps.held
    | with_reducible apply ResKeeps.ok
    | with_reducible apply ResKeeps.okWith
    | with_reducible apply ResKeeps.err
    | with_reducible apply ResKeeps.badParam
    | with_reducible apply ResKeeps.badLength

theorem bodyObjList_keeps {fs : Nat} (hm : Within 0 fs) {a0 : Chip} (k : Cmd) (c : Chip) (h0 : Keeps fs a0 c) : ResKeeps fs a0 (bodyObjList k c) := by
  unfold bodyObjList
  repeat' first
    | extract_lets
    | with_reducible refine ResKeeps.ite ?_ ?_
    | with_reducible refine Keeps.ite ?_ ?_
    | with_reducible exact h0
    | with_reducible exact Keeps.refl _
    | with_reducible apply ResKeeps.done
    | with_reducible apply ResKeeps.accepted
    | with_reducible apply ResKeeps.acceptedDone
    | with_reducible apply ResKeeps.waiting
    | with_reducible apply ResKeeps.held
    | with_reducible apply ResKeeps.ok
    | with_reducible apply ResKeeps.okWith
    | with_reducible apply ResKeeps.err
    | with_reducible apply ResKeeps.badParam
    | with_reducible apply ResKeeps.badLength

end Sys2Proof.Machine
end

