-- ==== Sys2Proof/Laws/KeepsImage.lean ====
section
/-! SUPPORT. What Machine/Image.lean keeps. -/

namespace Sys2Proof.Machine

theorem setAges_keeps {fs : Nat} (hm : Within (Field.slots) fs) {a0 : Chip} (ages : List (Nat × Nat)) (c : Chip) (h0 : Keeps fs a0 c) : Keeps fs a0 (Chip.setAges ages c) := by
  unfold Chip.setAges
  repeat' first
    | (clear_value *; apply Touches.mk <;> intro hn <;> first | with_reducible rfl | exact hm.out hn rfl)
    | extract_lets
    | with_reducible refine foldl_keeps (fun _ _ => ?_) ?_
    | with_reducible exact h0
    | with_reducible exact Keeps.refl _
    | with_reducible refine Keeps.update ?_ ?_

theorem banksToA_keeps {fs : Nat} (hm : Within (Field.loops) fs) {a0 : Chip} (c : Chip) (h0 : Keeps fs a0 c) : Keeps fs a0 (Chip.banksToA c) := by
  unfold Chip.banksToA
  repeat' first
    | (clear_value *; apply Touches.mk <;> intro hn <;> first | with_reducible rfl | exact hm.out hn rfl)
    | (apply Touches.mk <;> intro hn <;> first | with_reducible rfl | exact hm.out hn rfl)
    | extract_lets
    | with_reducible exact h0
    | with_reducible exact Keeps.refl _
    | with_reducible refine Keeps.update ?_ ?_

theorem imageTarget_keeps {fs : Nat} (hm : Within (Field.slots ||| Field.attrs ||| Field.existing ||| Field.loops ||| Field.plate) fs) {a0 : Chip} (set : ImageSet) (b : List Byte) (c : Chip) (h0 : Keeps fs a0 c) : Keeps fs a0 (Chip.imageTarget set b c) := by
  unfold Chip.imageTarget
  repeat' first
    | (clear_value *; apply Touches.mk <;> intro hn <;> first | with_reducible rfl | exact hm.out hn rfl)
    | extract_lets
    | with_reducible refine Keeps.ite ?_ ?_
    | with_reducible exact h0
    | with_reducible exact Keeps.refl _
    | with_reducible apply setAges_keeps (hm.sub (by decide))
    | with_reducible apply tentative_keeps (hm.sub (by decide))
    | with_reducible apply banksToA_keeps (hm.sub (by decide))
    | with_reducible refine Keeps.update ?_ ?_

theorem applyPlan_keeps {fs : Nat} (hm : Within (Field.routed ||| Field.slots ||| Field.overrides ||| Field.produced ||| Field.slotWrites ||| Field.attrs ||| Field.existing ||| Field.gens ||| Field.sessions ||| Field.staged ||| Field.lives ||| Field.cmds ||| Field.foldS ||| Field.foldD ||| Field.dogs ||| Field.firmware ||| Field.image ||| Field.rtc ||| Field.almanac ||| Field.links ||| Field.fabric ||| Field.ports ||| Field.groups ||| Field.motors ||| Field.records ||| Field.valves ||| Field.fans ||| Field.sampler ||| Field.cal ||| Field.zones ||| Field.thermal ||| Field.staleWrites ||| Field.minSel ||| Field.streams ||| Field.can ||| Field.plate) fs) {a0 : Chip} (p : ImagePlan) (old : Chip) (h0 : Keeps fs a0 old) : Keeps fs a0 (Chip.applyPlan p old) := by
  unfold Chip.applyPlan
  extract_lets s1 c0 c1 c2 hs c3 c4 c5
  have h1 : Keeps fs a0 c0 := Keeps.update h0 (by apply Touches.mk <;> intro hn <;> first | rfl | exact hm.out hn rfl)
  have h2 : Keeps fs a0 c1 :=
    foldl_keeps (fun _ _ => applyLife_keeps (hm.sub (by decide)) _ _ (Keeps.ite (Keeps.refl _) (endInstance_keeps (hm.sub (by decide)) _ _ (Keeps.refl _)))) h1
  have h3 : Keeps fs a0 c2 := by
    refine foldl_keeps (fun d x => ?_) h2
    have hk := liveChange_keeps (hm.sub (by decide)) x d (Keeps.refl d)
    generalize d.liveChange x = r at hk
    cases r with
    | none => exact setAttr_keeps (hm.sub (by decide)) _ _ _ _ _ (Keeps.refl d)
    | some e => exact hk
  have h4 : Keeps fs a0 c3 := foldl_keeps (fun _ _ => bumpGen_keeps (hm.sub (by decide)) _ _ (Keeps.refl _)) h3
  have h5 : Keeps fs a0 c4 := foldl_keeps (fun _ _ => objCommitted_keeps (hm.sub (by decide)) _ _ _ (Keeps.refl _))
    (foldl_keeps (fun _ _ => modelWritten_keeps (hm.sub (by decide)) _ _ (Keeps.refl _)) h4)
  have h6 : Keeps fs a0 c5 := foldl_keeps (fun _ _ => queueShadow_keeps (hm.sub (by decide)) _ _ _ (Keeps.refl _)) h5
  clear_value c5
  cases p.calendar with
  | some q => exact setCalendar_keeps (hm.sub (by decide)) _ _ h6
  | none => exact Keeps.ite h6 (setCalendar_keeps (hm.sub (by decide)) _ _ h6)

theorem autostart_keeps {fs : Nat} (hm : Within (Field.links ||| Field.groups ||| Field.loops ||| Field.streams ||| Field.can) fs) {a0 : Chip} (c : Chip) (h0 : Keeps fs a0 c) : Keeps fs a0 (Chip.autostart c) := by
  unfold Chip.autostart
  repeat' first
    | extract_lets
    | with_reducible refine foldl_keeps (fun _ _ => ?_) ?_
    | with_reducible refine Keeps.ite ?_ ?_
    | with_reducible exact h0
    | with_reducible exact Keeps.refl _
    | with_reducible apply openStream_keeps (hm.sub (by decide))
    | with_reducible apply canStart_keeps (hm.sub (by decide))
    | with_reducible apply enableLoop_keeps (hm.sub (by decide))

theorem imageActive_keeps {fs : Nat} (hm : Within (Field.image) fs) {a0 : Chip} (slot : Bool) (serial : Nat) (c : Chip) (h0 : Keeps fs a0 c) : Keeps fs a0 (Chip.imageActive slot serial c) := by
  unfold Chip.imageActive
  repeat' first
    | (clear_value *; apply Touches.mk <;> intro hn <;> first | with_reducible rfl | exact hm.out hn rfl)
    | extract_lets
    | with_reducible exact h0
    | with_reducible exact Keeps.refl _
    | with_reducible refine Keeps.update ?_ ?_

theorem bodyYelistWrite_keeps {fs : Nat} (hm : Within (Field.image ||| Field.flash) fs) {a0 : Chip} (k : Cmd) (c : Chip) (h0 : Keeps fs a0 c) : ResKeeps fs a0 (bodyYelistWrite k c) := by
  unfold bodyYelistWrite
  extract_lets p off data base mine other sectors erased
  refine ResKeeps.ite h0 (ResKeeps.ite h0 (ResKeeps.ite h0 ?_))
  refine Keeps.change h0 (by apply Touches.mk <;> intro hn <;> first | rfl | exact hm.out hn rfl) (Nat.le_refl _) id (fun h => Tbl.wf_setRun _ _ _ _ ?_) id
  exact flash_erases_wf (fun s => (base + 65536 * s, base + 65536 * s + 65536)) sectors _ h

theorem bodyYelistLoad_keeps {fs : Nat} (hm : Within (Field.image) fs) {a0 : Chip} (k : Cmd) (c : Chip) (h0 : Keeps fs a0 c) : ResKeeps fs a0 (bodyYelistLoad k c) := by
  unfold bodyYelistLoad
  repeat' first
    | (clear_value *; apply Touches.mk <;> intro hn <;> first | with_reducible rfl | exact hm.out hn rfl)
    | extract_lets
    | with_reducible refine ResKeeps.ite ?_ ?_
    | with_reducible refine Keeps.ite ?_ ?_
    | with_reducible exact h0
    | with_reducible exact Keeps.refl _
    | with_reducible apply ResKeeps.done
    | with_reducible apply ResKeeps.accepted
    | with_reducible apply ResKeeps.acceptedDone
    | with_reducible apply ResKeeps.waiting
    | with_reducible apply ResKeeps.held
    | with_reducible apply ResKeeps.ok
    | with_reducible apply ResKeeps.okWith
    | with_reducible apply ResKeeps.err
    | with_reducible apply ResKeeps.badParam
    | with_reducible apply ResKeeps.badLength
    | with_reducible refine Keeps.update ?_ ?_

theorem refusedLoad_keeps {fs : Nat} (hm : Within (Field.routed) fs) {a0 : Chip} (status : Nat) (c : Chip) (h0 : Keeps fs a0 c) : Keeps fs a0 (Chip.refusedLoad status c) := by
  unfold Chip.refusedLoad
  repeat' first
    | extract_lets
    | with_reducible refine Keeps.ite ?_ ?_
    | with_reducible exact h0
    | with_reducible exact Keeps.refl _
    | with_reducible apply powerLimit_keeps (hm.sub (by decide))

theorem loadDone_keeps {fs : Nat} (hm : Within (Field.routed ||| Field.slots ||| Field.overrides ||| Field.produced ||| Field.slotWrites ||| Field.attrs ||| Field.existing ||| Field.gens ||| Field.sessions ||| Field.staged ||| Field.lives ||| Field.cmds ||| Field.foldS ||| Field.foldD ||| Field.dogs ||| Field.firmware ||| Field.image ||| Field.rtc ||| Field.almanac ||| Field.links ||| Field.fabric ||| Field.ports ||| Field.groups ||| Field.motors ||| Field.records ||| Field.valves ||| Field.fans ||| Field.sampler ||| Field.cal ||| Field.zones ||| Field.thermal ||| Field.staleWrites ||| Field.minSel ||| Field.streams ||| Field.can ||| Field.plate) fs) {a0 : Chip} (panelsIdle : Bool) (flashError : Bool) (c : Chip) (h0 : Keeps fs a0 c) : Keeps fs a0 (Chip.loadDone panelsIdle flashError c) := by
  unfold Chip.loadDone
  repeat' first
    | (clear_value *; apply Touches.mk <;> intro hn <;> first | with_reducible rfl | exact hm.out hn rfl)
    | extract_lets
    | with_reducible refine Keeps.ite ?_ ?_
    | with_reducible exact h0
    | with_reducible exact Keeps.refl _
    | with_reducible apply setPower_keeps (hm.sub (by decide))
    | with_reducible apply autostart_keeps (hm.sub (by decide))
    | with_reducible apply imageActive_keeps (hm.sub (by decide))
    | with_reducible apply applyPlan_keeps (hm.sub (by decide))
    | with_reducible apply refusedLoad_keeps (hm.sub (by decide))
    | with_reducible apply finishTag_keeps (hm.sub (by decide))
    | with_reducible refine OptKeeps.of_eq ?_ (by assumption)
    | split
    | with_reducible refine Keeps.update ?_ ?_

end Sys2Proof.Machine
end

