-- ==== Sys2Proof/Laws/KeepsPower.lean ====
section
/-! SUPPORT. What Machine/Power.lean keeps. -/

namespace Sys2Proof.Machine

theorem porExit_keeps {fs : Nat} (hm : Within (Field.routed ||| Field.clk ||| Field.overrides ||| Field.produced ||| Field.attrs ||| Field.existing ||| Field.gens ||| Field.owners ||| Field.sessions ||| Field.staged ||| Field.lives ||| Field.cmds ||| Field.remoteIn ||| Field.foldS ||| Field.foldD ||| Field.host ||| Field.dogs ||| Field.firmware ||| Field.image ||| Field.almanac ||| Field.links ||| Field.fabric ||| Field.ports ||| Field.groups ||| Field.bridges ||| Field.motors ||| Field.records ||| Field.valves ||| Field.fans ||| Field.sampler ||| Field.cal ||| Field.zones ||| Field.predictions ||| Field.thermal ||| Field.minSel ||| Field.streams ||| Field.can ||| Field.panels ||| Field.plate ||| Field.selftest) fs) {a0 : Chip} (vsysR : Nat) (vact : Nat) (ft : Bool) (c : Chip) (h0 : Keeps fs a0 c) : Keeps fs a0 (Chip.porExit vsysR vact ft c) := by
  unfold Chip.porExit
  repeat' first
    | (clear_value *; apply Touches.mk <;> intro hn <;> first | with_reducible rfl | exact hm.out hn rfl)
    | extract_lets
    | with_reducible refine Keeps.ite ?_ ?_
    | with_reducible exact h0
    | with_reducible exact Keeps.refl _
    | with_reducible apply mainClear_keeps (hm.sub (by decide))
    | with_reducible refine Keeps.update ?_ ?_
    | with_reducible refine Keeps.change ?_ ?_ ?_ ?_ ?_ ?_
    | exact Nat.le_refl _
    | exact id

theorem porEntry_keeps {fs : Nat} (hm : Within (Field.routed ||| Field.clk ||| Field.overrides ||| Field.produced ||| Field.attrs ||| Field.existing ||| Field.gens ||| Field.owners ||| Field.sessions ||| Field.staged ||| Field.lives ||| Field.cmds ||| Field.remoteIn ||| Field.foldS ||| Field.foldD ||| Field.host ||| Field.dogs ||| Field.firmware ||| Field.image ||| Field.almanac ||| Field.links ||| Field.fabric ||| Field.ports ||| Field.groups ||| Field.bridges ||| Field.motors ||| Field.valves ||| Field.fans ||| Field.sampler ||| Field.cal ||| Field.zones ||| Field.predictions ||| Field.thermal ||| Field.minSel ||| Field.streams ||| Field.can ||| Field.panels ||| Field.plate ||| Field.selftest) fs) {a0 : Chip} (vsysR : Nat) (vact : Nat) (c : Chip) (h0 : Keeps fs a0 c) : Keeps fs a0 (Chip.porEntry vsysR vact c) := by
  unfold Chip.porEntry
  repeat' first
    | (clear_value *; apply Touches.mk <;> intro hn <;> first | with_reducible rfl | exact hm.out hn rfl)
    | extract_lets
    | with_reducible refine Keeps.ite ?_ ?_
    | with_reducible exact h0
    | with_reducible exact Keeps.refl _
    | with_reducible apply mainClear_keeps (hm.sub (by decide))
    | with_reducible refine Keeps.update ?_ ?_
    | with_reducible refine Keeps.change ?_ ?_ ?_ ?_ ?_ ?_
    | exact Nat.le_refl _
    | exact id

theorem vsysLow_keeps {fs : Nat} (hm : Within (Field.routed ||| Field.freeCount) fs) {a0 : Chip} (vsysR : Nat) (c : Chip) (h0 : Keeps fs a0 c) : Keeps fs a0 (Chip.vsysLow vsysR c) := by
  unfold Chip.vsysLow
  repeat' first
    | (clear_value *; apply Touches.mk <;> intro hn <;> first | with_reducible rfl | exact hm.out hn rfl)
    | extract_lets
    | with_reducible refine Keeps.ite ?_ ?_
    | with_reducible exact h0
    | with_reducible exact Keeps.refl _
    | with_reducible apply fireFree_keeps (hm.sub (by decide))
    | with_reducible apply setPower_keeps (hm.sub (by decide))

theorem powerFail_keeps {fs : Nat} (hm : Within (Field.routed ||| Field.clk ||| Field.overrides ||| Field.produced ||| Field.attrs ||| Field.existing ||| Field.gens ||| Field.owners ||| Field.sessions ||| Field.staged ||| Field.lives ||| Field.cmds ||| Field.remoteIn ||| Field.foldS ||| Field.foldD ||| Field.host ||| Field.dogs ||| Field.firmware ||| Field.image ||| Field.almanac ||| Field.links ||| Field.fabric ||| Field.ports ||| Field.groups ||| Field.bridges ||| Field.motors ||| Field.valves ||| Field.fans ||| Field.sampler ||| Field.cal ||| Field.zones ||| Field.predictions ||| Field.thermal ||| Field.minSel ||| Field.streams ||| Field.can ||| Field.panels ||| Field.plate ||| Field.selftest) fs) {a0 : Chip} (vsysR : Nat) (c : Chip) (h0 : Keeps fs a0 c) : Keeps fs a0 (Chip.powerFail vsysR c) := by
  unfold Chip.powerFail
  repeat' first
    | (clear_value *; apply Touches.mk <;> intro hn <;> first | with_reducible rfl | exact hm.out hn rfl)
    | extract_lets
    | with_reducible refine Keeps.ite ?_ ?_
    | with_reducible exact h0
    | with_reducible exact Keeps.refl _
    | with_reducible apply vsysLoss_keeps (hm.sub (by decide))
    | with_reducible apply setPower_keeps (hm.sub (by decide))

theorem vsysReturn_keeps {fs : Nat} (hm : Within (Field.power) fs) {a0 : Chip} (vsysR : Nat) (c : Chip) (h0 : Keeps fs a0 c) : Keeps fs a0 (Chip.vsysReturn vsysR c) := by
  unfold Chip.vsysReturn
  repeat' first
    | (clear_value *; apply Touches.mk <;> intro hn <;> first | with_reducible rfl | exact hm.out hn rfl)
    | extract_lets
    | with_reducible refine Keeps.ite ?_ ?_
    | with_reducible exact h0
    | with_reducible exact Keeps.refl _
    | with_reducible apply startCharging_keeps (hm.sub (by decide))
    | with_reducible apply setPower_keeps (hm.sub (by decide))

theorem charged_keeps {fs : Nat} (hm : Within (Field.clk ||| Field.power) fs) {a0 : Chip} (vsysR : Nat) (ac : Option Bool) (c : Chip) (h0 : Keeps fs a0 c) : Keeps fs a0 (Chip.charged vsysR ac c) := by
  unfold Chip.charged
  repeat' first
    | (clear_value *; apply Touches.mk <;> intro hn <;> first | with_reducible rfl | exact hm.out hn rfl)
    | extract_lets
    | with_reducible refine Keeps.ite ?_ ?_
    | with_reducible exact h0
    | with_reducible exact Keeps.refl _
    | with_reducible apply setPower_keeps (hm.sub (by decide))
    | with_reducible refine OptKeeps.of_eq ?_ (by assumption)
    | split
    | with_reducible refine Keeps.update ?_ ?_
    | with_reducible refine Keeps.change ?_ ?_ ?_ ?_ ?_ ?_
    | exact Nat.le_refl _
    | exact id

theorem hswFault_keeps {fs : Nat} (hm : Within (Field.routed ||| Field.clk ||| Field.overrides ||| Field.produced ||| Field.attrs ||| Field.existing ||| Field.gens ||| Field.owners ||| Field.sessions ||| Field.staged ||| Field.lives ||| Field.cmds ||| Field.remoteIn ||| Field.foldS ||| Field.foldD ||| Field.host ||| Field.dogs ||| Field.firmware ||| Field.image ||| Field.almanac ||| Field.links ||| Field.fabric ||| Field.ports ||| Field.groups ||| Field.bridges ||| Field.motors ||| Field.valves ||| Field.fans ||| Field.sampler ||| Field.cal ||| Field.zones ||| Field.predictions ||| Field.thermal ||| Field.minSel ||| Field.streams ||| Field.can ||| Field.panels ||| Field.plate ||| Field.selftest) fs) {a0 : Chip} (kind : Nat) (peak : Nat) (c : Chip) (h0 : Keeps fs a0 c) : Keeps fs a0 (Chip.hswFault kind peak c) := by
  unfold Chip.hswFault
  repeat' first
    | (clear_value *; apply Touches.mk <;> intro hn <;> first | with_reducible rfl | exact hm.out hn rfl)
    | extract_lets
    | with_reducible refine Keeps.ite ?_ ?_
    | with_reducible exact h0
    | with_reducible exact Keeps.refl _
    | with_reducible apply fire_keeps (hm.sub (by decide))
    | with_reducible apply vsysLoss_keeps (hm.sub (by decide))
    | with_reducible apply setPower_keeps (hm.sub (by decide))

theorem hswLimit_keeps {fs : Nat} (hm : Within (Field.routed ||| Field.clk ||| Field.overrides ||| Field.produced ||| Field.attrs ||| Field.existing ||| Field.gens ||| Field.owners ||| Field.sessions ||| Field.staged ||| Field.lives ||| Field.cmds ||| Field.remoteIn ||| Field.foldS ||| Field.foldD ||| Field.host ||| Field.dogs ||| Field.firmware ||| Field.image ||| Field.almanac ||| Field.links ||| Field.fabric ||| Field.ports ||| Field.groups ||| Field.bridges ||| Field.motors ||| Field.valves ||| Field.fans ||| Field.sampler ||| Field.cal ||| Field.zones ||| Field.predictions ||| Field.thermal ||| Field.minSel ||| Field.streams ||| Field.can ||| Field.panels ||| Field.plate ||| Field.selftest) fs) {a0 : Chip} (peak : Nat) (c : Chip) (h0 : Keeps fs a0 c) : Keeps fs a0 (Chip.hswLimit peak c) := by
  unfold Chip.hswLimit
  repeat' first
    | extract_lets
    | with_reducible refine Keeps.ite ?_ ?_
    | with_reducible exact h0
    | with_reducible exact Keeps.refl _
    | with_reducible apply hswFault_keeps (hm.sub (by decide))

theorem hswFast_keeps {fs : Nat} (hm : Within (Field.routed ||| Field.clk ||| Field.overrides ||| Field.produced ||| Field.attrs ||| Field.existing ||| Field.gens ||| Field.owners ||| Field.sessions ||| Field.staged ||| Field.lives ||| Field.cmds ||| Field.remoteIn ||| Field.foldS ||| Field.foldD ||| Field.host ||| Field.dogs ||| Field.firmware ||| Field.image ||| Field.almanac ||| Field.links ||| Field.fabric ||| Field.ports ||| Field.groups ||| Field.bridges ||| Field.motors ||| Field.valves ||| Field.fans ||| Field.sampler ||| Field.cal ||| Field.zones ||| Field.predictions ||| Field.thermal ||| Field.minSel ||| Field.streams ||| Field.can ||| Field.panels ||| Field.plate ||| Field.selftest) fs) {a0 : Chip} (peak : Nat) (c : Chip) (h0 : Keeps fs a0 c) : Keeps fs a0 (Chip.hswFast peak c) := by
  unfold Chip.hswFast
  repeat' first
    | extract_lets
    | with_reducible refine Keeps.ite ?_ ?_
    | with_reducible exact h0
    | with_reducible exact Keeps.refl _
    | with_reducible apply hswFault_keeps (hm.sub (by decide))

theorem hswAgain_keeps {fs : Nat} (hm : Within (Field.clk ||| Field.power ||| Field.rtc) fs) {a0 : Chip} (c : Chip) (h0 : Keeps fs a0 c) : Keeps fs a0 (Chip.hswAgain c) := by
  unfold Chip.hswAgain
  repeat' first
    | (clear_value *; apply Touches.mk <;> intro hn <;> first | with_reducible rfl | exact hm.out hn rfl)
    | extract_lets
    | with_reducible refine Keeps.ite ?_ ?_
    | with_reducible exact h0
    | with_reducible exact Keeps.refl _
    | with_reducible apply startCharging_keeps (hm.sub (by decide))
    | with_reducible apply waitUntil_keeps (hm.sub (by decide))
    | with_reducible refine OptKeeps.of_eq ?_ (by assumption)
    | split

theorem hswUnlatch_keeps {fs : Nat} (hm : Within (Field.power) fs) {a0 : Chip} (c : Chip) (h0 : Keeps fs a0 c) : Keeps fs a0 (Chip.hswUnlatch c) := by
  unfold Chip.hswUnlatch
  repeat' first
    | (clear_value *; apply Touches.mk <;> intro hn <;> first | with_reducible rfl | exact hm.out hn rfl)
    | extract_lets
    | with_reducible refine Keeps.ite ?_ ?_
    | with_reducible exact h0
    | with_reducible exact Keeps.refl _
    | with_reducible apply setPower_keeps (hm.sub (by decide))

theorem vactLow_keeps {fs : Nat} (hm : Within (Field.routed ||| Field.freeCount) fs) {a0 : Chip} (vact : Nat) (c : Chip) (h0 : Keeps fs a0 c) : Keeps fs a0 (Chip.vactLow vact c) := by
  unfold Chip.vactLow
  repeat' first
    | (clear_value *; apply Touches.mk <;> intro hn <;> first | with_reducible rfl | exact hm.out hn rfl)
    | extract_lets
    | with_reducible refine Keeps.ite ?_ ?_
    | with_reducible exact h0
    | with_reducible exact Keeps.refl _
    | with_reducible apply fireFree_keeps (hm.sub (by decide))
    | with_reducible apply setPower_keeps (hm.sub (by decide))

theorem vactGone_keeps {fs : Nat} (hm : Within (Field.routed ||| Field.sessions ||| Field.staged ||| Field.lives ||| Field.cmds ||| Field.firmware ||| Field.image ||| Field.links ||| Field.fabric ||| Field.ports ||| Field.motors ||| Field.valves ||| Field.cal ||| Field.streams ||| Field.can) fs) {a0 : Chip} (vact : Nat) (c : Chip) (h0 : Keeps fs a0 c) : Keeps fs a0 (Chip.vactGone vact c) := by
  unfold Chip.vactGone
  repeat' first
    | (clear_value *; apply Touches.mk <;> intro hn <;> first | with_reducible rfl | exact hm.out hn rfl)
    | extract_lets
    | with_reducible refine Keeps.ite ?_ ?_
    | with_reducible exact h0
    | with_reducible exact Keeps.refl _
    | with_reducible apply shedAll_keeps (hm.sub (by decide))
    | with_reducible apply setPower_keeps (hm.sub (by decide))

theorem vactRestored_keeps {fs : Nat} (hm : Within (Field.power ||| Field.ports) fs) {a0 : Chip} (vact : Nat) (c : Chip) (h0 : Keeps fs a0 c) : Keeps fs a0 (Chip.vactRestored vact c) := by
  unfold Chip.vactRestored
  repeat' first
    | (clear_value *; apply Touches.mk <;> intro hn <;> first | with_reducible rfl | exact hm.out hn rfl)
    | extract_lets
    | with_reducible refine Keeps.ite ?_ ?_
    | with_reducible exact h0
    | with_reducible exact Keeps.refl _
    | with_reducible apply vactBack_keeps (hm.sub (by decide))
    | with_reducible apply setPower_keeps (hm.sub (by decide))

theorem vactTrip_keeps {fs : Nat} (hm : Within (Field.routed ||| Field.sessions ||| Field.staged ||| Field.lives ||| Field.cmds ||| Field.firmware ||| Field.image ||| Field.links ||| Field.fabric ||| Field.ports ||| Field.motors ||| Field.valves ||| Field.cal ||| Field.streams ||| Field.can ||| Field.freeCount) fs) {a0 : Chip} (c : Chip) (h0 : Keeps fs a0 c) : Keeps fs a0 (Chip.vactTrip c) := by
  unfold Chip.vactTrip
  repeat' first
    | (clear_value *; apply Touches.mk <;> intro hn <;> first | with_reducible rfl | exact hm.out hn rfl)
    | extract_lets
    | with_reducible refine Keeps.ite ?_ ?_
    | with_reducible exact h0
    | with_reducible exact Keeps.refl _
    | with_reducible apply shedAll_keeps (hm.sub (by decide))
    | with_reducible apply fireFree_keeps (hm.sub (by decide))
    | with_reducible apply setPower_keeps (hm.sub (by decide))

theorem vactAgain_keeps {fs : Nat} (hm : Within (Field.clk ||| Field.power ||| Field.rtc ||| Field.ports) fs) {a0 : Chip} (c : Chip) (h0 : Keeps fs a0 c) : Keeps fs a0 (Chip.vactAgain c) := by
  unfold Chip.vactAgain
  repeat' first
    | (clear_value *; apply Touches.mk <;> intro hn <;> first | with_reducible rfl | exact hm.out hn rfl)
    | extract_lets
    | with_reducible refine Keeps.ite ?_ ?_
    | with_reducible exact h0
    | with_reducible exact Keeps.refl _
    | with_reducible apply vactBack_keeps (hm.sub (by decide))
    | with_reducible apply setPower_keeps (hm.sub (by decide))
    | with_reducible apply waitUntil_keeps (hm.sub (by decide))
    | with_reducible refine OptKeeps.of_eq ?_ (by assumption)
    | split

theorem hresetFalls_keeps {fs : Nat} (hm : Within (Field.routed ||| Field.overrides ||| Field.produced ||| Field.attrs ||| Field.existing ||| Field.gens ||| Field.owners ||| Field.sessions ||| Field.staged ||| Field.lives ||| Field.cmds ||| Field.remoteIn ||| Field.foldS ||| Field.foldD ||| Field.host ||| Field.dogs ||| Field.firmware ||| Field.image ||| Field.almanac ||| Field.links ||| Field.fabric ||| Field.ports ||| Field.groups ||| Field.bridges ||| Field.motors ||| Field.valves ||| Field.fans ||| Field.sampler ||| Field.cal ||| Field.zones ||| Field.predictions ||| Field.thermal ||| Field.minSel ||| Field.streams ||| Field.can ||| Field.panels ||| Field.plate ||| Field.selftest) fs) {a0 : Chip} (c : Chip) (h0 : Keeps fs a0 c) : Keeps fs a0 (Chip.hresetFalls c) := by
  unfold Chip.hresetFalls
  repeat' first
    | (clear_value *; apply Touches.mk <;> intro hn <;> first | with_reducible rfl | exact hm.out hn rfl)
    | extract_lets
    | with_reducible refine Keeps.ite ?_ ?_
    | with_reducible exact h0
    | with_reducible exact Keeps.refl _
    | with_reducible apply mainReset_keeps (hm.sub (by decide))
    | with_reducible apply setPower_keeps (hm.sub (by decide))

theorem hresetRises_keeps {fs : Nat} (hm : Within (Field.power) fs) {a0 : Chip} (c : Chip) (h0 : Keeps fs a0 c) : Keeps fs a0 (Chip.hresetRises c) := by
  unfold Chip.hresetRises
  repeat' first
    | (clear_value *; apply Touches.mk <;> intro hn <;> first | with_reducible rfl | exact hm.out hn rfl)
    | extract_lets
    | with_reducible refine Keeps.ite ?_ ?_
    | with_reducible exact h0
    | with_reducible exact Keeps.refl _
    | with_reducible apply setPower_keeps (hm.sub (by decide))

theorem bodyReset_keeps {fs : Nat} (hm : Within (Field.power) fs) {a0 : Chip} (k : Cmd) (c : Chip) (h0 : Keeps fs a0 c) : ResKeeps fs a0 (bodyReset k c) := by
  unfold bodyReset
  repeat' first
    | (clear_value *; apply Touches.mk <;> intro hn <;> first | with_reducible rfl | exact hm.out hn rfl)
    | extract_lets
    | with_reducible refine ResKeeps.ite ?_ ?_
    | with_reducible refine Keeps.ite ?_ ?_
    | with_reducible exact h0
    | with_reducible exact Keeps.refl _
    | with_reducible apply setPower_keeps (hm.sub (by decide))
    | with_reducible apply ResKeeps.done
    | with_reducible apply ResKeeps.accepted
    | with_reducible apply ResKeeps.acceptedDone
    | with_reducible apply ResKeeps.waiting
    | with_reducible apply ResKeeps.held
    | with_reducible apply ResKeeps.ok
    | with_reducible apply ResKeeps.okWith
    | with_reducible apply ResKeeps.err
    | with_reducible apply ResKeeps.badParam
    | with_reducible apply ResKeeps.badLength

theorem resetRow_keeps {fs : Nat} (hm : Within (Field.routed ||| Field.clk ||| Field.overrides ||| Field.produced ||| Field.attrs ||| Field.existing ||| Field.gens ||| Field.owners ||| Field.sessions ||| Field.staged ||| Field.lives ||| Field.cmds ||| Field.remoteIn ||| Field.foldS ||| Field.foldD ||| Field.host ||| Field.dogs ||| Field.firmware ||| Field.image ||| Field.rtc ||| Field.almanac ||| Field.links ||| Field.fabric ||| Field.ports ||| Field.groups ||| Field.bridges ||| Field.motors ||| Field.valves ||| Field.fans ||| Field.sampler ||| Field.cal ||| Field.zones ||| Field.predictions ||| Field.thermal ||| Field.minSel ||| Field.streams ||| Field.can ||| Field.panels ||| Field.plate ||| Field.selftest) fs) {a0 : Chip} (c : Chip) (h0 : Keeps fs a0 c) : Keeps fs a0 (Chip.resetRow c) := by
  unfold Chip.resetRow
  repeat' first
    | (clear_value *; apply Touches.mk <;> intro hn <;> first | with_reducible rfl | exact hm.out hn rfl)
    | extract_lets
    | with_reducible refine Keeps.ite ?_ ?_
    | with_reducible exact h0
    | with_reducible exact Keeps.refl _
    | with_reducible apply mainReset_keeps (hm.sub (by decide))
    | with_reducible apply setPower_keeps (hm.sub (by decide))
    | with_reducible apply waitUntil_keeps (hm.sub (by decide))
    | with_reducible refine OptKeeps.of_eq ?_ (by assumption)
    | split

theorem bodyResetCauseRead_keeps {fs : Nat} (hm : Within (Field.power) fs) {a0 : Chip} (k : Cmd) (c : Chip) (h0 : Keeps fs a0 c) : ResKeeps fs a0 (bodyResetCauseRead k c) := by
  unfold bodyResetCauseRead
  repeat' first
    | (clear_value *; apply Touches.mk <;> intro hn <;> first | with_reducible rfl | exact hm.out hn rfl)
    | extract_lets
    | with_reducible refine ResKeeps.ite ?_ ?_
    | with_reducible refine Keeps.ite ?_ ?_
    | with_reducible exact h0
    | with_reducible exact Keeps.refl _
    | with_reducible apply setPower_keeps (hm.sub (by decide))
    | with_reducible apply ResKeeps.done
    | with_reducible apply ResKeeps.accepted
    | with_reducible apply ResKeeps.acceptedDone
    | with_reducible apply ResKeeps.waiting
    | with_reducible apply ResKeeps.held
    | with_reducible apply ResKeeps.ok
    | with_reducible apply ResKeeps.okWith
    | with_reducible apply ResKeeps.err
    | with_reducible apply ResKeeps.badParam
    | with_reducible apply ResKeeps.badLength

theorem haltIslands_keeps {fs : Nat} (hm : Within (Field.routed ||| Field.slots ||| Field.produced ||| Field.slotWrites ||| Field.sessions ||| Field.staged ||| Field.lives ||| Field.cmds ||| Field.firmware ||| Field.image ||| Field.links ||| Field.fabric ||| Field.groups ||| Field.motors ||| Field.records ||| Field.valves ||| Field.cal ||| Field.zones ||| Field.staleWrites ||| Field.streams ||| Field.can ||| Field.panels) fs) {a0 : Chip} (c : Chip) (h0 : Keeps fs a0 c) : Keeps fs a0 (Chip.haltIslands c) := by
  unfold Chip.haltIslands
  repeat' first
    | (clear_value *; apply Touches.mk <;> intro hn <;> first | with_reducible rfl | exact hm.out hn rfl)
    | extract_lets
    | with_reducible refine foldl_keeps (fun _ _ => ?_) ?_
    | with_reducible refine Keeps.ite ?_ ?_
    | with_reducible exact h0
    | with_reducible exact Keeps.refl _
    | with_reducible apply panelHalt_keeps (hm.sub (by decide))
    | with_reducible apply haltGroups_keeps (hm.sub (by decide))
    | with_reducible apply setPower_keeps (hm.sub (by decide))

theorem unhaltIslands_keeps {fs : Nat} (hm : Within (Field.routed ||| Field.slots ||| Field.produced ||| Field.slotWrites ||| Field.sessions ||| Field.staged ||| Field.lives ||| Field.cmds ||| Field.firmware ||| Field.image ||| Field.links ||| Field.fabric ||| Field.groups ||| Field.motors ||| Field.records ||| Field.valves ||| Field.cal ||| Field.zones ||| Field.staleWrites ||| Field.streams ||| Field.can) fs) {a0 : Chip} (c : Chip) (h0 : Keeps fs a0 c) : Keeps fs a0 (Chip.unhaltIslands c) := by
  unfold Chip.unhaltIslands
  repeat' first
    | (clear_value *; apply Touches.mk <;> intro hn <;> first | with_reducible rfl | exact hm.out hn rfl)
    | extract_lets
    | with_reducible refine Keeps.ite ?_ ?_
    | with_reducible exact h0
    | with_reducible exact Keeps.refl _
    | with_reducible apply releaseGroups_keeps (hm.sub (by decide))
    | with_reducible apply setPower_keeps (hm.sub (by decide))

theorem refStop_keeps {fs : Nat} (hm : Within (Field.routed ||| Field.clk ||| Field.slots ||| Field.produced ||| Field.slotWrites ||| Field.sessions ||| Field.staged ||| Field.lives ||| Field.cmds ||| Field.dogs ||| Field.firmware ||| Field.image ||| Field.links ||| Field.fabric ||| Field.groups ||| Field.motors ||| Field.records ||| Field.valves ||| Field.cal ||| Field.zones ||| Field.staleWrites ||| Field.streams ||| Field.can ||| Field.panels) fs) {a0 : Chip} (c : Chip) (h0 : Keeps fs a0 c) : Keeps fs a0 (Chip.refStop c) := by
  unfold Chip.refStop
  repeat' first
    | (clear_value *; apply Touches.mk <;> intro hn <;> first | with_reducible rfl | exact hm.out hn rfl)
    | extract_lets
    | with_reducible refine foldl_keeps (fun _ _ => ?_) ?_
    | with_reducible refine Keeps.ite ?_ ?_
    | with_reducible exact h0
    | with_reducible exact Keeps.refl _
    | with_reducible apply fire_keeps (hm.sub (by decide))
    | with_reducible apply bite_keeps (hm.sub (by decide))
    | with_reducible apply panelHalt_keeps (hm.sub (by decide))
    | with_reducible apply linksDown_keeps (hm.sub (by decide))
    | with_reducible apply modCan_keeps (hm.sub (by decide))
    | with_reducible apply haltGroups_keeps (hm.sub (by decide))
    | with_reducible refine Keeps.update ?_ ?_
    | with_reducible refine Keeps.change ?_ ?_ ?_ ?_ ?_ ?_
    | exact Nat.le_refl _
    | exact id

theorem refAgain_keeps {fs : Nat} (hm : Within (Field.clk) fs) {a0 : Chip} (c : Chip) (h0 : Keeps fs a0 c) : Keeps fs a0 (Chip.refAgain c) := by
  unfold Chip.refAgain
  repeat' first
    | (clear_value *; apply Touches.mk <;> intro hn <;> first | with_reducible rfl | exact hm.out hn rfl)
    | extract_lets
    | with_reducible refine Keeps.ite ?_ ?_
    | with_reducible exact h0
    | with_reducible exact Keeps.refl _
    | with_reducible refine Keeps.update ?_ ?_
    | with_reducible refine Keeps.change ?_ ?_ ?_ ?_ ?_ ?_
    | exact Nat.le_refl _
    | exact id

theorem bankVerified_keeps {fs : Nat} (hm : Within (Field.power ||| Field.firmware) fs) {a0 : Chip} (b : BankChoice) (c : Chip) (h0 : Keeps fs a0 c) : Keeps fs a0 (Chip.bankVerified b c) := by
  unfold Chip.bankVerified
  repeat' first
    | (clear_value *; apply Touches.mk <;> intro hn <;> first | with_reducible rfl | exact hm.out hn rfl)
    | extract_lets
    | with_reducible exact h0
    | with_reducible exact Keeps.refl _
    | with_reducible refine Keeps.update ?_ ?_

theorem logBanks_keeps {fs : Nat} (hm : Within (Field.routed) fs) {a0 : Chip} (b : BankChoice) (c : Chip) (h0 : Keeps fs a0 c) : Keeps fs a0 (Chip.logBanks b c) := by
  unfold Chip.logBanks
  repeat' first
    | extract_lets
    | with_reducible refine foldl_keeps (fun _ _ => ?_) ?_
    | with_reducible exact h0
    | with_reducible exact Keeps.refl _
    | with_reducible apply logFault_keeps (hm.sub (by decide))

theorem released_keeps {fs : Nat} (hm : Within (Field.clk ||| Field.power ||| Field.dogs ||| Field.rtc) fs) {a0 : Chip} (c : Chip) (h0 : Keeps fs a0 c) : Keeps fs a0 (Chip.released c) := by
  unfold Chip.released
  repeat' first
    | extract_lets
    | with_reducible refine Keeps.ite ?_ ?_
    | with_reducible exact h0
    | with_reducible exact Keeps.refl _
    | with_reducible apply release_keeps (hm.sub (by decide))
    | with_reducible apply waitUntil_keeps (hm.sub (by decide))

theorem loadEphemeris_keeps {fs : Nat} (hm : Within (Field.routed ||| Field.rtc ||| Field.almanac) fs) {a0 : Chip} (c : Chip) (h0 : Keeps fs a0 c) : Keeps fs a0 (Chip.loadEphemeris c) := by
  unfold Chip.loadEphemeris
  repeat' first
    | (clear_value *; apply Touches.mk <;> intro hn <;> first | with_reducible rfl | exact hm.out hn rfl)
    | extract_lets
    | with_reducible refine Keeps.ite ?_ ?_
    | with_reducible exact h0
    | with_reducible exact Keeps.refl _
    | with_reducible apply fire_keeps (hm.sub (by decide))
    | with_reducible apply logFault_keeps (hm.sub (by decide))
    | with_reducible refine setRtc_keeps (hm.sub (by decide)) _ _ ?_ ?_
    | with_reducible apply writeEph_keeps (hm.sub (by decide))
    | with_reducible refine Keeps.update ?_ ?_
    | exact Nat.le_refl _
    | exact id
    | exact fun _ h => h

theorem bootCal_keeps {fs : Nat} (hm : Within (Field.routed ||| Field.cal) fs) {a0 : Chip} (c : Chip) (h0 : Keeps fs a0 c) : Keeps fs a0 (Chip.bootCal c) := by
  unfold Chip.bootCal
  repeat' first
    | extract_lets
    | with_reducible refine Keeps.ite ?_ ?_
    | with_reducible exact h0
    | with_reducible exact Keeps.refl _
    | with_reducible apply loadCal_keeps (hm.sub (by decide))
    | with_reducible apply calLost_keeps (hm.sub (by decide))

theorem loadStores_keeps {fs : Nat} (hm : Within (Field.routed ||| Field.clk ||| Field.slots ||| Field.rtc ||| Field.almanac ||| Field.links ||| Field.fabric ||| Field.cal) fs) {a0 : Chip} (c : Chip) (h0 : Keeps fs a0 c) : Keeps fs a0 (Chip.loadStores c) := by
  unfold Chip.loadStores
  repeat' first
    | (clear_value *; apply Touches.mk <;> intro hn <;> first | with_reducible rfl | exact hm.out hn rfl)
    | extract_lets
    | with_reducible refine Keeps.ite ?_ ?_
    | with_reducible exact h0
    | with_reducible exact Keeps.refl _
    | with_reducible apply startFabric_keeps (hm.sub (by decide))
    | with_reducible apply loadEphemeris_keeps (hm.sub (by decide))
    | with_reducible apply bootCal_keeps (hm.sub (by decide))
    | with_reducible refine Keeps.update ?_ ?_
    | with_reducible refine Keeps.change ?_ ?_ ?_ ?_ ?_ ?_
    | exact Nat.le_refl _
    | exact id

theorem restoreLog_keeps {fs : Nat} (hm : Within (Field.routed) fs) {a0 : Chip} (c : Chip) (h0 : Keeps fs a0 c) : Keeps fs a0 (Chip.restoreLog c) := by
  unfold Chip.restoreLog
  repeat' first
    | (clear_value *; apply Touches.mk <;> intro hn <;> first | with_reducible rfl | exact hm.out hn rfl)
    | extract_lets
    | with_reducible refine foldl_keeps (fun _ _ => ?_) ?_
    | with_reducible exact h0
    | with_reducible exact Keeps.refl _
    | with_reducible apply mgtRecord_keeps (hm.sub (by decide))
    | with_reducible refine Keeps.update ?_ ?_

theorem bootImage_keeps {fs : Nat} (hm : Within (Field.routed ||| Field.slots ||| Field.overrides ||| Field.produced ||| Field.slotWrites ||| Field.attrs ||| Field.existing ||| Field.gens ||| Field.sessions ||| Field.staged ||| Field.lives ||| Field.cmds ||| Field.foldS ||| Field.foldD ||| Field.dogs ||| Field.firmware ||| Field.image ||| Field.rtc ||| Field.almanac ||| Field.links ||| Field.fabric ||| Field.ports ||| Field.groups ||| Field.motors ||| Field.records ||| Field.valves ||| Field.fans ||| Field.sampler ||| Field.cal ||| Field.zones ||| Field.thermal ||| Field.staleWrites ||| Field.minSel ||| Field.streams ||| Field.can ||| Field.plate) fs) {a0 : Chip} (c : Chip) (h0 : Keeps fs a0 c) : Keeps fs a0 (Chip.bootImage c).2.2 := by
  unfold Chip.bootImage
  repeat' first
    | (clear_value *; apply Touches.mk <;> intro hn <;> first | with_reducible rfl | exact hm.out hn rfl)
    | extract_lets
    | with_reducible refine Keeps.ite ?_ ?_
    | with_reducible refine Keeps.ite ?_ ?_
    | with_reducible exact h0
    | with_reducible exact Keeps.refl _
    | with_reducible apply imageActive_keeps (hm.sub (by decide))
    | with_reducible apply applyPlan_keeps (hm.sub (by decide))
    | with_reducible refine OptKeeps.of_eq ?_ (by assumption)
    | split
    | with_reducible refine Keeps.update ?_ ?_

theorem safeHeldGroups_keeps {fs : Nat} (hm : Within (Field.routed ||| Field.slots ||| Field.produced ||| Field.slotWrites ||| Field.owners ||| Field.sessions ||| Field.staged ||| Field.lives ||| Field.cmds ||| Field.firmware ||| Field.image ||| Field.links ||| Field.fabric ||| Field.groups ||| Field.motors ||| Field.records ||| Field.valves ||| Field.cal ||| Field.zones ||| Field.staleWrites ||| Field.streams ||| Field.can) fs) {a0 : Chip} (c : Chip) (h0 : Keeps fs a0 c) : Keeps fs a0 (Chip.safeHeldGroups c) := by
  unfold Chip.safeHeldGroups
  repeat' first
    | extract_lets
    | with_reducible refine foldl_keeps (fun _ _ => ?_) ?_
    | with_reducible refine Keeps.ite ?_ ?_
    | with_reducible exact h0
    | with_reducible exact Keeps.refl _
    | with_reducible apply setOwner_keeps (hm.sub (by decide))
    | with_reducible apply forceSafe_keeps (hm.sub (by decide))

theorem bootAutostart_keeps {fs : Nat} (hm : Within (Field.routed ||| Field.clk ||| Field.slots ||| Field.overrides ||| Field.produced ||| Field.slotWrites ||| Field.attrs ||| Field.existing ||| Field.gens ||| Field.owners ||| Field.sessions ||| Field.staged ||| Field.lives ||| Field.cmds ||| Field.foldS ||| Field.foldD ||| Field.dogs ||| Field.firmware ||| Field.image ||| Field.rtc ||| Field.almanac ||| Field.links ||| Field.fabric ||| Field.ports ||| Field.groups ||| Field.bridges ||| Field.motors ||| Field.records ||| Field.valves ||| Field.fans ||| Field.sampler ||| Field.cal ||| Field.zones ||| Field.thermal ||| Field.staleWrites ||| Field.minSel ||| Field.streams ||| Field.can ||| Field.panels ||| Field.plate ||| Field.freeCount) fs) {a0 : Chip} (c : Chip) (h0 : Keeps fs a0 c) : Keeps fs a0 (Chip.bootAutostart c) := by
  unfold Chip.bootAutostart
  repeat' first
    | extract_lets
    | with_reducible refine foldl_keeps (fun _ _ => ?_) ?_
    | with_reducible refine Keeps.ite ?_ ?_
    | with_reducible exact h0
    | with_reducible exact Keeps.refl _
    | with_reducible apply autostart_keeps (hm.sub (by decide))
    | with_reducible apply startPanel_keeps (hm.sub (by decide))
    | with_reducible apply armSeq_keeps (hm.sub (by decide))
    | with_reducible apply enableGroup_keeps (hm.sub (by decide))

theorem deliverLate_keeps {fs : Nat} (hm : Within (Field.routed) fs) {a0 : Chip} (c : Chip) (e : Nat × EventSt) (h0 : Keeps fs a0 c) : Keeps fs a0 (Chip.deliverLate c e) := by
  unfold Chip.deliverLate
  repeat' first
    | (clear_value *; apply Touches.mk <;> intro hn <;> first | with_reducible rfl | exact hm.out hn rfl)
    | extract_lets
    | with_reducible refine Keeps.ite ?_ ?_
    | with_reducible exact h0
    | with_reducible exact Keeps.refl _
    | with_reducible apply eventTrigger_keeps (hm.sub (by decide))
    | with_reducible apply mgtRecord_keeps (hm.sub (by decide))
    | with_reducible apply tellLost_keeps (hm.sub (by decide))
    | with_reducible apply setEvent_keeps (hm.sub (by decide))

theorem deliverAllLate_keeps {fs : Nat} (hm : Within (Field.routed ||| Field.rtc) fs) {a0 : Chip} (c : Chip) (h0 : Keeps fs a0 c) : Keeps fs a0 (Chip.deliverAllLate c) := by
  unfold Chip.deliverAllLate
  repeat' first
    | (clear_value *; apply Touches.mk <;> intro hn <;> first | with_reducible rfl | exact hm.out hn rfl)
    | extract_lets
    | with_reducible refine foldl_keeps (fun _ _ => ?_) ?_
    | with_reducible exact h0
    | with_reducible exact Keeps.refl _
    | with_reducible refine setRtc_keeps (hm.sub (by decide)) _ _ ?_ ?_
    | with_reducible apply setPower_keeps (hm.sub (by decide))
    | with_reducible apply deliverLate_keeps (hm.sub (by decide))
    | with_reducible refine Keeps.update ?_ ?_
    | exact Nat.le_refl _
    | exact id
    | exact fun _ h => h

theorem bootDone_keeps {fs : Nat} (hm : Within (Field.routed ||| Field.freeCount) fs) {a0 : Chip} (b : BankChoice) (noImage : Bool) (imageFail : Bool) (imageFallback : Bool) (bootMs : Nat) (c : Chip) (h0 : Keeps fs a0 c) : Keeps fs a0 (Chip.bootDone b noImage imageFail imageFallback bootMs c) := by
  unfold Chip.bootDone
  repeat' first
    | extract_lets
    | with_reducible refine Keeps.ite ?_ ?_
    | with_reducible exact h0
    | with_reducible exact Keeps.refl _
    | with_reducible apply fire_keeps (hm.sub (by decide))
    | with_reducible apply fireFree_keeps (hm.sub (by decide))

theorem boot_keeps {fs : Nat} (hm : Within (Field.routed ||| Field.clk ||| Field.slots ||| Field.overrides ||| Field.produced ||| Field.slotWrites ||| Field.attrs ||| Field.existing ||| Field.gens ||| Field.owners ||| Field.sessions ||| Field.staged ||| Field.lives ||| Field.cmds ||| Field.foldS ||| Field.foldD ||| Field.dogs ||| Field.firmware ||| Field.image ||| Field.rtc ||| Field.almanac ||| Field.links ||| Field.fabric ||| Field.ports ||| Field.groups ||| Field.bridges ||| Field.motors ||| Field.records ||| Field.valves ||| Field.fans ||| Field.sampler ||| Field.cal ||| Field.zones ||| Field.thermal ||| Field.staleWrites ||| Field.minSel ||| Field.streams ||| Field.can ||| Field.panels ||| Field.plate ||| Field.freeCount) fs) {a0 : Chip} (vbat : Nat) (bootMs : Nat) (boot0 : Bool) (boot1 : Bool) (c : Chip) (h0 : Keeps fs a0 c) : Keeps fs a0 (Chip.boot vbat bootMs boot0 boot1 c) := by
  unfold Chip.boot
  repeat' first
    | (clear_value *; apply Touches.mk <;> intro hn <;> first | with_reducible rfl | exact hm.out hn rfl)
    | extract_lets
    | with_reducible refine Keeps.ite ?_ ?_
    | with_reducible exact h0
    | with_reducible exact Keeps.refl _
    | with_reducible apply bootAutostart_keeps (hm.sub (by decide))
    | with_reducible apply bootImage_keeps (hm.sub (by decide))
    | with_reducible apply loadStores_keeps (hm.sub (by decide))
    | with_reducible apply safeHeldGroups_keeps (hm.sub (by decide))
    | with_reducible apply bootDone_keeps (hm.sub (by decide))
    | with_reducible apply deliverAllLate_keeps (hm.sub (by decide))
    | with_reducible apply logBanks_keeps (hm.sub (by decide))
    | with_reducible apply restoreLog_keeps (hm.sub (by decide))
    | with_reducible apply bankVerified_keeps (hm.sub (by decide))
    | with_reducible apply setPower_keeps (hm.sub (by decide))
    | with_reducible apply waitUntil_keeps (hm.sub (by decide))
    | with_reducible apply released_keeps (hm.sub (by decide))
    | with_reducible apply release_keeps (hm.sub (by decide))
    | with_reducible refine Keeps.update ?_ ?_

theorem bootRow_keeps {fs : Nat} (hm : Within (Field.routed ||| Field.clk ||| Field.slots ||| Field.overrides ||| Field.produced ||| Field.slotWrites ||| Field.attrs ||| Field.existing ||| Field.gens ||| Field.owners ||| Field.sessions ||| Field.staged ||| Field.lives ||| Field.cmds ||| Field.foldS ||| Field.foldD ||| Field.dogs ||| Field.firmware ||| Field.image ||| Field.rtc ||| Field.almanac ||| Field.links ||| Field.fabric ||| Field.ports ||| Field.groups ||| Field.bridges ||| Field.motors ||| Field.records ||| Field.valves ||| Field.fans ||| Field.sampler ||| Field.cal ||| Field.zones ||| Field.thermal ||| Field.staleWrites ||| Field.minSel ||| Field.streams ||| Field.can ||| Field.panels ||| Field.plate ||| Field.freeCount) fs) {a0 : Chip} (vbat : Nat) (bootMs : Nat) (boot0 : Bool) (boot1 : Bool) (c : Chip) (h0 : Keeps fs a0 c) : Keeps fs a0 (Chip.bootRow vbat bootMs boot0 boot1 c) := by
  unfold Chip.bootRow
  repeat' first
    | extract_lets
    | with_reducible refine Keeps.ite ?_ ?_
    | with_reducible exact h0
    | with_reducible exact Keeps.refl _
    | with_reducible apply boot_keeps (hm.sub (by decide))

theorem bodyPowerStatus_keeps {fs : Nat} (hm : Within (Field.freeCount) fs) {a0 : Chip} (k : Cmd) (c : Chip) (h0 : Keeps fs a0 c) : ResKeeps fs a0 (bodyPowerStatus k c) := by
  unfold bodyPowerStatus
  repeat' first
    | extract_lets
    | with_reducible refine ResKeeps.ite ?_ ?_
    | with_reducible refine Keeps.ite ?_ ?_
    | with_reducible exact h0
    | with_reducible exact Keeps.refl _
    | with_reducible apply nextFree_keeps (hm.sub (by decide))
    | with_reducible apply ResKeeps.done
    | with_reducible apply ResKeeps.accepted
    | with_reducible apply ResKeeps.acceptedDone
    | with_reducible apply ResKeeps.waiting
    | with_reducible apply ResKeeps.held
    | with_reducible apply ResKeeps.ok
    | with_reducible apply ResKeeps.okWith
    | with_reducible apply ResKeeps.err
    | with_reducible apply ResKeeps.badParam
    | with_reducible apply ResKeeps.badLength

end Sys2Proof.Machine
end

