-- ==== Sys2Proof/Laws/KeepsMgt.lean ====
section
/-! SUPPORT. What Machine/Mgt.lean keeps. -/

namespace Sys2Proof.Machine

theorem setMgt_keeps {fs : Nat} (hm : Within (Field.mgt) fs) {a0 : Chip} (f : MgtSt → MgtSt) (c : Chip) (h0 : Keeps fs a0 c) : Keeps fs a0 (Chip.setMgt f c) := by
  unfold Chip.setMgt
  repeat' first
    | (clear_value *; apply Touches.mk <;> intro hn <;> first | with_reducible rfl | exact hm.out hn rfl)
    | (apply Touches.mk <;> intro hn <;> first | with_reducible rfl | exact hm.out hn rfl)
    | extract_lets
    | with_reducible exact h0
    | with_reducible exact Keeps.refl _
    | with_reducible refine Keeps.update ?_ ?_

theorem nack_keeps {fs : Nat} (hm : Within (Field.mgt) fs) {a0 : Chip} (c : Chip) (h0 : Keeps fs a0 c) : Keeps fs a0 (Chip.nack c) := by
  unfold Chip.nack
  repeat' first
    | (clear_value *; apply Touches.mk <;> intro hn <;> first | with_reducible rfl | exact hm.out hn rfl)
    | extract_lets
    | with_reducible exact h0
    | with_reducible exact Keeps.refl _
    | with_reducible apply setMgt_keeps (hm.sub (by decide))

theorem drive_keeps {fs : Nat} (hm : Within (Field.mgt) fs) {a0 : Chip} (bs : List Byte) (c : Chip) (h0 : Keeps fs a0 c) : Keeps fs a0 (Chip.drive bs c) := by
  unfold Chip.drive
  repeat' first
    | (clear_value *; apply Touches.mk <;> intro hn <;> first | with_reducible rfl | exact hm.out hn rfl)
    | extract_lets
    | with_reducible exact h0
    | with_reducible exact Keeps.refl _
    | with_reducible apply setMgt_keeps (hm.sub (by decide))

theorem answerRead_keeps {fs : Nat} (hm : Within (Field.mgt) fs) {a0 : Chip} (sent : List Byte) (bs : List Byte) (c : Chip) (h0 : Keeps fs a0 c) : Keeps fs a0 (Chip.answerRead sent bs c) := by
  unfold Chip.answerRead
  repeat' first
    | extract_lets
    | with_reducible exact h0
    | with_reducible exact Keeps.refl _
    | with_reducible apply drive_keeps (hm.sub (by decide))

theorem answerBlock_keeps {fs : Nat} (hm : Within (Field.mgt) fs) {a0 : Chip} (sent : List Byte) (bs : List Byte) (c : Chip) (h0 : Keeps fs a0 c) : Keeps fs a0 (Chip.answerBlock sent bs c) := by
  unfold Chip.answerBlock
  repeat' first
    | extract_lets
    | with_reducible exact h0
    | with_reducible exact Keeps.refl _
    | with_reducible apply answerRead_keeps (hm.sub (by decide))

theorem withPec_keeps {fs : Nat} (hm : Within (Field.mgt) fs) {a0 : Chip} (bytes : List Byte) (pec : Option Byte) (act : Chip → Chip) (c : Chip) (hact : ∀ x, Keeps fs x (act x)) (h0 : Keeps fs a0 c) : Keeps fs a0 (Chip.withPec bytes pec act c) := by
  unfold Chip.withPec
  repeat' first
    | (clear_value *; apply Touches.mk <;> intro hn <;> first | with_reducible rfl | exact hm.out hn rfl)
    | extract_lets
    | with_reducible refine Keeps.ite ?_ ?_
    | with_reducible exact h0
    | with_reducible exact Keeps.refl _
    | (with_reducible refine Keeps.trans ?_ (hact _))
    | with_reducible apply setMgt_keeps (hm.sub (by decide))
    | with_reducible apply nack_keeps (hm.sub (by decide))

theorem mgtReadByte_keeps {fs : Nat} (hm : Within (Field.power ||| Field.dogs ||| Field.rtc) fs) {a0 : Chip} (a : Nat) (c : Chip) (h0 : Keeps fs a0 c) : Keeps fs a0 (Chip.mgtReadByte a c).2 := by
  unfold Chip.mgtReadByte
  repeat' first
    | extract_lets
    | with_reducible refine Keeps.ite ?_ ?_
    | with_reducible refine Keeps.ite ?_ ?_
    | with_reducible exact h0
    | with_reducible exact Keeps.refl _
    | with_reducible apply rtcReadByte_keeps (hm.sub (by decide))
    | split

theorem mgtRead_keeps {fs : Nat} (hm : Within (Field.power ||| Field.dogs ||| Field.rtc) fs) {a0 : Chip} (a n : Nat) (c : Chip) (h0 : Keeps fs a0 c) : Keeps fs a0 (Chip.mgtRead a n c).2 := by
  induction n generalizing a c with
  | zero => exact h0
  | succ n ih => exact ih _ _ (mgtReadByte_keeps (hm.sub (by decide)) _ _ h0)

theorem holdGroup_keeps {fs : Nat} (hm : Within (Field.routed ||| Field.slots ||| Field.produced ||| Field.slotWrites ||| Field.owners ||| Field.sessions ||| Field.staged ||| Field.lives ||| Field.cmds ||| Field.firmware ||| Field.image ||| Field.links ||| Field.fabric ||| Field.groups ||| Field.motors ||| Field.records ||| Field.valves ||| Field.cal ||| Field.zones ||| Field.staleWrites ||| Field.streams ||| Field.can) fs) {a0 : Chip} (g : Nat) (c : Chip) (h0 : Keeps fs a0 c) : Keeps fs a0 (Chip.holdGroup g c) := by
  unfold Chip.holdGroup
  repeat' first
    | (clear_value *; apply Touches.mk <;> intro hn <;> first | with_reducible rfl | exact hm.out hn rfl)
    | extract_lets
    | with_reducible exact h0
    | with_reducible exact Keeps.refl _
    | with_reducible apply setMgt_keeps (hm.sub (by decide))
    | with_reducible apply setOwner_keeps (hm.sub (by decide))
    | with_reducible apply forceSafe_keeps (hm.sub (by decide))

theorem holdGroups_keeps {fs : Nat} (hm : Within (Field.routed ||| Field.slots ||| Field.produced ||| Field.slotWrites ||| Field.owners ||| Field.sessions ||| Field.staged ||| Field.lives ||| Field.cmds ||| Field.firmware ||| Field.image ||| Field.links ||| Field.fabric ||| Field.groups ||| Field.motors ||| Field.records ||| Field.valves ||| Field.cal ||| Field.zones ||| Field.staleWrites ||| Field.streams ||| Field.can) fs) {a0 : Chip} (code : Nat) (gs : List Nat) (c : Chip) (h0 : Keeps fs a0 c) : Keeps fs a0 (Chip.holdGroups code gs c) := by
  unfold Chip.holdGroups
  repeat' first
    | extract_lets
    | with_reducible refine foldl_keeps (fun _ _ => ?_) ?_
    | with_reducible exact h0
    | with_reducible exact Keeps.refl _
    | with_reducible apply fire_keeps (hm.sub (by decide))
    | with_reducible apply holdGroup_keeps (hm.sub (by decide))

theorem releaseGroup_keeps {fs : Nat} (hm : Within (Field.routed ||| Field.owners) fs) {a0 : Chip} (g : Nat) (c : Chip) (h0 : Keeps fs a0 c) : Keeps fs a0 (Chip.releaseGroup g c) := by
  unfold Chip.releaseGroup
  repeat' first
    | (clear_value *; apply Touches.mk <;> intro hn <;> first | with_reducible rfl | exact hm.out hn rfl)
    | extract_lets
    | with_reducible refine Keeps.ite ?_ ?_
    | with_reducible exact h0
    | with_reducible exact Keeps.refl _
    | with_reducible apply setOwner_keeps (hm.sub (by decide))
    | with_reducible apply setMgt_keeps (hm.sub (by decide))

theorem writeSafe_keeps {fs : Nat} (hm : Within (Field.routed ||| Field.slots ||| Field.produced ||| Field.slotWrites ||| Field.owners ||| Field.sessions ||| Field.staged ||| Field.lives ||| Field.cmds ||| Field.firmware ||| Field.image ||| Field.links ||| Field.fabric ||| Field.groups ||| Field.motors ||| Field.records ||| Field.valves ||| Field.cal ||| Field.zones ||| Field.staleWrites ||| Field.streams ||| Field.can) fs) {a0 : Chip} (v : Nat) (c : Chip) (h0 : Keeps fs a0 c) : Keeps fs a0 (Chip.writeSafe v c) := by
  unfold Chip.writeSafe
  repeat' first
    | extract_lets
    | with_reducible refine foldl_keeps (fun _ _ => ?_) ?_
    | with_reducible refine Keeps.ite ?_ ?_
    | with_reducible exact h0
    | with_reducible exact Keeps.refl _
    | with_reducible apply holdGroups_keeps (hm.sub (by decide))
    | with_reducible apply releaseGroup_keeps (hm.sub (by decide))

theorem mgtWriteReg_keeps {fs : Nat} (hm : Within (Field.routed ||| Field.slots ||| Field.produced ||| Field.slotWrites ||| Field.owners ||| Field.sessions ||| Field.staged ||| Field.lives ||| Field.cmds ||| Field.firmware ||| Field.image ||| Field.links ||| Field.fabric ||| Field.groups ||| Field.motors ||| Field.records ||| Field.valves ||| Field.cal ||| Field.zones ||| Field.staleWrites ||| Field.streams ||| Field.can) fs) {a0 : Chip} (off : Nat) (bs : List (Option Byte)) (c : Chip) (h0 : Keeps fs a0 c) : Keeps fs a0 (Chip.mgtWriteReg off bs c) := by
  unfold Chip.mgtWriteReg
  repeat' first
    | (clear_value *; apply Touches.mk <;> intro hn <;> first | with_reducible rfl | exact hm.out hn rfl)
    | extract_lets
    | with_reducible refine Keeps.ite ?_ ?_
    | with_reducible exact h0
    | with_reducible exact Keeps.refl _
    | with_reducible apply writeSafe_keeps (hm.sub (by decide))
    | with_reducible apply setMgt_keeps (hm.sub (by decide))
    | with_reducible refine OptKeeps.of_eq ?_ (by assumption)
    | split

theorem mgtWriteRegs_keeps {fs : Nat} (hm : Within (Field.routed ||| Field.clk ||| Field.slots ||| Field.produced ||| Field.slotWrites ||| Field.owners ||| Field.sessions ||| Field.staged ||| Field.lives ||| Field.cmds ||| Field.firmware ||| Field.image ||| Field.rtc ||| Field.almanac ||| Field.links ||| Field.fabric ||| Field.groups ||| Field.motors ||| Field.records ||| Field.valves ||| Field.cal ||| Field.zones ||| Field.staleWrites ||| Field.streams ||| Field.can) fs) {a0 : Chip} (fuel a : Nat) (bs : List Byte) (c : Chip) (h0 : Keeps fs a0 c) : Keeps fs a0 (Chip.mgtWriteRegs fuel a bs c) := by
  induction fuel generalizing a bs c with
  | zero => exact h0
  | succ n ih =>
    cases bs with
    | nil => exact h0
    | cons b bs =>
      unfold Chip.mgtWriteRegs
      exact Keeps.ite (ih _ _ _ (rtcWriteByte_keeps (hm.sub (by decide)) _ _ _ _ h0)) (ih _ _ _ (mgtWriteReg_keeps (hm.sub (by decide)) _ _ _ h0))

theorem mgtWrite_keeps {fs : Nat} (hm : Within (Field.routed ||| Field.clk ||| Field.slots ||| Field.produced ||| Field.slotWrites ||| Field.owners ||| Field.sessions ||| Field.staged ||| Field.lives ||| Field.cmds ||| Field.firmware ||| Field.image ||| Field.rtc ||| Field.almanac ||| Field.links ||| Field.fabric ||| Field.groups ||| Field.motors ||| Field.records ||| Field.valves ||| Field.cal ||| Field.zones ||| Field.staleWrites ||| Field.streams ||| Field.can) fs) {a0 : Chip} (a : Nat) (bs : List Byte) (c : Chip) (h0 : Keeps fs a0 c) : Keeps fs a0 (Chip.mgtWrite a bs c) := by
  unfold Chip.mgtWrite
  repeat' first
    | extract_lets
    | with_reducible exact h0
    | with_reducible exact Keeps.refl _
    | with_reducible apply mgtWriteRegs_keeps (hm.sub (by decide))

theorem dropPacket_keeps {fs : Nat} (hm : Within (Field.mgt) fs) {a0 : Chip} (c : Chip) (h0 : Keeps fs a0 c) : Keeps fs a0 (Chip.dropPacket c) := by
  unfold Chip.dropPacket
  repeat' first
    | (clear_value *; apply Touches.mk <;> intro hn <;> first | with_reducible rfl | exact hm.out hn rfl)
    | extract_lets
    | with_reducible exact h0
    | with_reducible exact Keeps.refl _
    | with_reducible apply setMgt_keeps (hm.sub (by decide))

theorem submitPacket_keeps {fs : Nat} (hm : Within (Field.routed) fs) {a0 : Chip} (p : List Byte) (c : Chip) (h0 : Keeps fs a0 c) : Keeps fs a0 (Chip.submitPacket p c) := by
  unfold Chip.submitPacket
  repeat' first
    | (clear_value *; apply Touches.mk <;> intro hn <;> first | with_reducible rfl | exact hm.out hn rfl)
    | extract_lets
    | with_reducible refine Keeps.ite ?_ ?_
    | with_reducible exact h0
    | with_reducible exact Keeps.refl _
    | with_reducible apply setMgt_keeps (hm.sub (by decide))
    | with_reducible apply setQueue_keeps (hm.sub (by decide))
    | with_reducible apply ringUp_keeps (hm.sub (by decide))
    | with_reducible apply putRecord_keeps (hm.sub (by decide))
    | with_reducible apply dropPacket_keeps (hm.sub (by decide))

theorem pktWrite_keeps {fs : Nat} (hm : Within (Field.routed) fs) {a0 : Chip} (flags : Nat) (data : List Byte) (c : Chip) (h0 : Keeps fs a0 c) : Keeps fs a0 (Chip.pktWrite flags data c) := by
  unfold Chip.pktWrite
  repeat' first
    | (clear_value *; apply Touches.mk <;> intro hn <;> first | with_reducible rfl | exact hm.out hn rfl)
    | extract_lets
    | with_reducible refine Keeps.ite ?_ ?_
    | with_reducible exact h0
    | with_reducible exact Keeps.refl _
    | with_reducible apply setMgt_keeps (hm.sub (by decide))
    | with_reducible apply submitPacket_keeps (hm.sub (by decide))
    | with_reducible apply dropPacket_keeps (hm.sub (by decide))

theorem pktRead_keeps {fs : Nat} (hm : Within (Field.queues ||| Field.mgt) fs) {a0 : Chip} (c : Chip) (h0 : Keeps fs a0 c) : Keeps fs a0 (Chip.pktRead c) := by
  unfold Chip.pktRead
  repeat' first
    | (clear_value *; apply Touches.mk <;> intro hn <;> first | with_reducible rfl | exact hm.out hn rfl)
    | extract_lets
    | with_reducible refine Keeps.ite ?_ ?_
    | with_reducible exact h0
    | with_reducible exact Keeps.refl _
    | with_reducible apply setQueue_keeps (hm.sub (by decide))
    | with_reducible apply answerBlock_keeps (hm.sub (by decide))
    | with_reducible apply setMgt_keeps (hm.sub (by decide))
    | with_reducible refine OptKeeps.of_eq ?_ (by assumption)
    | split

theorem clearLatch_keeps {fs : Nat} (hm : Within (Field.power) fs) {a0 : Chip} (c : Chip) (h0 : Keeps fs a0 c) : Keeps fs a0 (Chip.clearLatch c) := by
  unfold Chip.clearLatch
  repeat' first
    | (clear_value *; apply Touches.mk <;> intro hn <;> first | with_reducible rfl | exact hm.out hn rfl)
    | extract_lets
    | with_reducible refine Keeps.ite ?_ ?_
    | with_reducible exact h0
    | with_reducible exact Keeps.refl _
    | with_reducible apply startCharging_keeps (hm.sub (by decide))
    | with_reducible apply setPower_keeps (hm.sub (by decide))

theorem actionReset_keeps {fs : Nat} (hm : Within (Field.routed ||| Field.overrides ||| Field.produced ||| Field.attrs ||| Field.existing ||| Field.gens ||| Field.owners ||| Field.sessions ||| Field.staged ||| Field.lives ||| Field.cmds ||| Field.remoteIn ||| Field.foldS ||| Field.foldD ||| Field.host ||| Field.dogs ||| Field.firmware ||| Field.image ||| Field.almanac ||| Field.links ||| Field.fabric ||| Field.ports ||| Field.groups ||| Field.bridges ||| Field.motors ||| Field.valves ||| Field.fans ||| Field.sampler ||| Field.cal ||| Field.zones ||| Field.predictions ||| Field.thermal ||| Field.minSel ||| Field.streams ||| Field.can ||| Field.panels ||| Field.plate ||| Field.selftest) fs) {a0 : Chip} (c : Chip) (h0 : Keeps fs a0 c) : Keeps fs a0 (Chip.actionReset c) := by
  unfold Chip.actionReset
  repeat' first
    | extract_lets
    | with_reducible exact h0
    | with_reducible exact Keeps.refl _
    | with_reducible apply fire_keeps (hm.sub (by decide))
    | with_reducible apply clearLatch_keeps (hm.sub (by decide))
    | with_reducible apply mainReset_keeps (hm.sub (by decide))

theorem actionHold_keeps {fs : Nat} (hm : Within (Field.routed ||| Field.overrides ||| Field.produced ||| Field.attrs ||| Field.existing ||| Field.gens ||| Field.owners ||| Field.sessions ||| Field.staged ||| Field.lives ||| Field.cmds ||| Field.remoteIn ||| Field.foldS ||| Field.foldD ||| Field.host ||| Field.dogs ||| Field.firmware ||| Field.image ||| Field.almanac ||| Field.links ||| Field.fabric ||| Field.ports ||| Field.groups ||| Field.bridges ||| Field.motors ||| Field.valves ||| Field.fans ||| Field.sampler ||| Field.cal ||| Field.zones ||| Field.predictions ||| Field.thermal ||| Field.minSel ||| Field.streams ||| Field.can ||| Field.panels ||| Field.plate ||| Field.selftest) fs) {a0 : Chip} (c : Chip) (h0 : Keeps fs a0 c) : Keeps fs a0 (Chip.actionHold c) := by
  unfold Chip.actionHold
  repeat' first
    | (clear_value *; apply Touches.mk <;> intro hn <;> first | with_reducible rfl | exact hm.out hn rfl)
    | extract_lets
    | with_reducible exact h0
    | with_reducible exact Keeps.refl _
    | with_reducible apply fire_keeps (hm.sub (by decide))
    | with_reducible apply setPower_keeps (hm.sub (by decide))
    | with_reducible apply mainReset_keeps (hm.sub (by decide))

theorem actionRelease_keeps {fs : Nat} (hm : Within (Field.routed) fs) {a0 : Chip} (c : Chip) (h0 : Keeps fs a0 c) : Keeps fs a0 (Chip.actionRelease c) := by
  unfold Chip.actionRelease
  repeat' first
    | (clear_value *; apply Touches.mk <;> intro hn <;> first | with_reducible rfl | exact hm.out hn rfl)
    | extract_lets
    | with_reducible exact h0
    | with_reducible exact Keeps.refl _
    | with_reducible apply fire_keeps (hm.sub (by decide))
    | with_reducible apply clearLatch_keeps (hm.sub (by decide))
    | with_reducible refine Keeps.update ?_ ?_

theorem actionSafeAll_keeps {fs : Nat} (hm : Within (Field.routed ||| Field.slots ||| Field.produced ||| Field.slotWrites ||| Field.owners ||| Field.sessions ||| Field.staged ||| Field.lives ||| Field.cmds ||| Field.firmware ||| Field.image ||| Field.links ||| Field.fabric ||| Field.groups ||| Field.motors ||| Field.records ||| Field.valves ||| Field.cal ||| Field.zones ||| Field.staleWrites ||| Field.streams ||| Field.can) fs) {a0 : Chip} (c : Chip) (h0 : Keeps fs a0 c) : Keeps fs a0 (Chip.actionSafeAll c) := by
  unfold Chip.actionSafeAll
  repeat' first
    | extract_lets
    | with_reducible exact h0
    | with_reducible exact Keeps.refl _
    | with_reducible apply holdGroups_keeps (hm.sub (by decide))

end Sys2Proof.Machine
end

