-- ==== Sys2Proof/Laws/KeepsFaults.lean ====
section
/-! SUPPORT. What Machine/Faults.lean keeps. -/

namespace Sys2Proof.Machine

theorem dogReset_keeps {fs : Nat} (hm : Within (Field.routed ||| Field.overrides ||| Field.produced ||| Field.attrs ||| Field.existing ||| Field.gens ||| Field.owners ||| Field.sessions ||| Field.staged ||| Field.lives ||| Field.cmds ||| Field.remoteIn ||| Field.foldS ||| Field.foldD ||| Field.host ||| Field.dogs ||| Field.firmware ||| Field.image ||| Field.almanac ||| Field.links ||| Field.fabric ||| Field.ports ||| Field.groups ||| Field.bridges ||| Field.motors ||| Field.valves ||| Field.fans ||| Field.sampler ||| Field.cal ||| Field.zones ||| Field.predictions ||| Field.thermal ||| Field.minSel ||| Field.streams ||| Field.can ||| Field.panels ||| Field.plate ||| Field.selftest) fs) {a0 : Chip} (dog : Nat) (c : Chip) (h0 : Keeps fs a0 c) : Keeps fs a0 (Chip.dogReset dog c) := by
  unfold Chip.dogReset
  repeat' first
    | extract_lets
    | with_reducible exact h0
    | with_reducible exact Keeps.refl _
    | with_reducible apply fire_keeps (hm.sub (by decide))
    | with_reducible apply mainReset_keeps (hm.sub (by decide))
    | with_reducible apply bite_keeps (hm.sub (by decide))

theorem coreBite_keeps {fs : Nat} (hm : Within (Field.routed ||| Field.overrides ||| Field.produced ||| Field.attrs ||| Field.existing ||| Field.gens ||| Field.owners ||| Field.sessions ||| Field.staged ||| Field.lives ||| Field.cmds ||| Field.remoteIn ||| Field.foldS ||| Field.foldD ||| Field.host ||| Field.dogs ||| Field.firmware ||| Field.image ||| Field.almanac ||| Field.links ||| Field.fabric ||| Field.ports ||| Field.groups ||| Field.bridges ||| Field.motors ||| Field.valves ||| Field.fans ||| Field.sampler ||| Field.cal ||| Field.zones ||| Field.predictions ||| Field.thermal ||| Field.minSel ||| Field.streams ||| Field.can ||| Field.panels ||| Field.plate ||| Field.selftest) fs) {a0 : Chip} (core : Nat) (cmd : Option (Nat × Nat)) (c : Chip) (h0 : Keeps fs a0 c) : Keeps fs a0 (Chip.coreBite core cmd c) := by
  unfold Chip.coreBite
  repeat' first
    | (clear_value *; apply Touches.mk <;> intro hn <;> first | with_reducible rfl | exact hm.out hn rfl)
    | extract_lets
    | with_reducible refine Keeps.ite ?_ ?_
    | with_reducible exact h0
    | with_reducible exact Keeps.refl _
    | with_reducible apply setCmd_keeps (hm.sub (by decide))
    | with_reducible apply logFault_keeps (hm.sub (by decide))
    | with_reducible apply mainReset_keeps (hm.sub (by decide))
    | with_reducible apply fire_keeps (hm.sub (by decide))
    | with_reducible apply bite_keeps (hm.sub (by decide))
    | with_reducible refine OptKeeps.of_eq ?_ (by assumption)
    | split
    | with_reducible refine Keeps.update ?_ ?_

theorem coreDog_keeps {fs : Nat} (hm : Within (Field.routed ||| Field.overrides ||| Field.produced ||| Field.attrs ||| Field.existing ||| Field.gens ||| Field.owners ||| Field.sessions ||| Field.staged ||| Field.lives ||| Field.cmds ||| Field.remoteIn ||| Field.foldS ||| Field.foldD ||| Field.host ||| Field.dogs ||| Field.firmware ||| Field.image ||| Field.almanac ||| Field.links ||| Field.fabric ||| Field.ports ||| Field.groups ||| Field.bridges ||| Field.motors ||| Field.valves ||| Field.fans ||| Field.sampler ||| Field.cal ||| Field.zones ||| Field.predictions ||| Field.thermal ||| Field.minSel ||| Field.streams ||| Field.can ||| Field.panels ||| Field.plate ||| Field.selftest) fs) {a0 : Chip} (core : Nat) (cmd : Option (Nat × Nat)) (c : Chip) (h0 : Keeps fs a0 c) : Keeps fs a0 (Chip.coreDog core cmd c) := by
  unfold Chip.coreDog
  repeat' first
    | extract_lets
    | with_reducible refine Keeps.ite ?_ ?_
    | with_reducible exact h0
    | with_reducible exact Keeps.refl _
    | with_reducible apply coreBite_keeps (hm.sub (by decide))

theorem laneBite_keeps {fs : Nat} (hm : Within (Field.routed ||| Field.dogs) fs) {a0 : Chip} (dog : Nat) (c : Chip) (h0 : Keeps fs a0 c) : Keeps fs a0 (Chip.laneBite dog c) := by
  unfold Chip.laneBite
  extract_lets lost
  clear_value lost
  split
  · exact h0
  · extract_lets s c1
    have h1 : Keeps fs a0 c1 := bite_keeps (hm.sub (by decide)) _ _ (setLoop_keeps (hm.sub (by decide)) _ _ _ h0)
    clear_value c1
    exact fire_keeps (hm.sub (by decide)) _ _ _ (Keeps.update h1 (by apply Touches.mk <;> intro hn <;> first | rfl | exact hm.out hn rfl))

theorem orreryLoses_keeps {fs : Nat} (hm : Within (Field.routed ||| Field.sessions ||| Field.staged ||| Field.lives ||| Field.cmds ||| Field.firmware ||| Field.image ||| Field.links ||| Field.fabric ||| Field.cal ||| Field.zones ||| Field.predictions ||| Field.streams ||| Field.can) fs) {a0 : Chip} (c : Chip) (h0 : Keeps fs a0 c) : Keeps fs a0 (Chip.orreryLoses c).2 := by
  unfold Chip.orreryLoses
  repeat' first
    | (clear_value *; apply Touches.mk <;> intro hn <;> first | with_reducible rfl | exact hm.out hn rfl)
    | extract_lets
    | with_reducible refine Keeps.ite ?_ ?_
    | with_reducible refine Keeps.ite ?_ ?_
    | with_reducible exact h0
    | with_reducible exact Keeps.refl _
    | with_reducible apply finishTag_keeps (hm.sub (by decide))
    | with_reducible apply startFit_keeps (hm.sub (by decide))
    | with_reducible apply setZone_keeps (hm.sub (by decide))
    | with_reducible refine OptKeeps.of_eq ?_ (by assumption)
    | split
    | with_reducible refine Keeps.update ?_ ?_

theorem engineDog_keeps {fs : Nat} (hm : Within (Field.routed ||| Field.sessions ||| Field.staged ||| Field.lives ||| Field.cmds ||| Field.dogs ||| Field.firmware ||| Field.image ||| Field.links ||| Field.fabric ||| Field.cal ||| Field.zones ||| Field.predictions ||| Field.streams ||| Field.can) fs) {a0 : Chip} (dog : Nat) (c : Chip) (h0 : Keeps fs a0 c) : Keeps fs a0 (Chip.engineDog dog c) := by
  unfold Chip.engineDog
  refine Keeps.ite h0 (Keeps.ite (laneBite_keeps (hm.sub (by decide)) _ _ h0) (Keeps.ite ?_ h0))
  have hk := orreryLoses_keeps (hm.sub (by decide)) c h0
  generalize c.orreryLoses = r at hk
  obtain ⟨z, d⟩ := r
  cases z with
  | none => exact h0
  | some z => exact fire_keeps (hm.sub (by decide)) _ _ _ (bite_keeps (hm.sub (by decide)) _ _ hk)

theorem shepherdDog_keeps {fs : Nat} (hm : Within (Field.routed ||| Field.dogs) fs) {a0 : Chip} (c : Chip) (h0 : Keeps fs a0 c) : Keeps fs a0 (Chip.shepherdDog c) := by
  unfold Chip.shepherdDog
  repeat' first
    | extract_lets
    | with_reducible refine Keeps.ite ?_ ?_
    | with_reducible exact h0
    | with_reducible exact Keeps.refl _
    | with_reducible apply fire_keeps (hm.sub (by decide))
    | with_reducible apply bite_keeps (hm.sub (by decide))

theorem loseRecord_keeps {fs : Nat} (hm : Within (Field.routed) fs) {a0 : Chip} (q : Nat) (c : Chip) (h0 : Keeps fs a0 c) : Keeps fs a0 (Chip.loseRecord q c) := by
  unfold Chip.loseRecord
  repeat' first
    | (clear_value *; apply Touches.mk <;> intro hn <;> first | with_reducible rfl | exact hm.out hn rfl)
    | extract_lets
    | with_reducible exact h0
    | with_reducible exact Keeps.refl _
    | with_reducible apply fire_keeps (hm.sub (by decide))
    | with_reducible apply setQueue_keeps (hm.sub (by decide))

theorem portBitten_keeps {fs : Nat} (hm : Within (Field.routed ||| Field.overrides ||| Field.produced ||| Field.attrs ||| Field.existing ||| Field.gens ||| Field.owners ||| Field.sessions ||| Field.staged ||| Field.lives ||| Field.cmds ||| Field.remoteIn ||| Field.foldS ||| Field.foldD ||| Field.host ||| Field.dogs ||| Field.firmware ||| Field.image ||| Field.almanac ||| Field.links ||| Field.fabric ||| Field.ports ||| Field.groups ||| Field.bridges ||| Field.motors ||| Field.valves ||| Field.fans ||| Field.sampler ||| Field.cal ||| Field.zones ||| Field.predictions ||| Field.thermal ||| Field.minSel ||| Field.streams ||| Field.can ||| Field.panels ||| Field.plate ||| Field.selftest) fs) {a0 : Chip} (port : Nat) (hand : Option (Nat × Nat)) (c : Chip) (h0 : Keeps fs a0 c) : Keeps fs a0 (Chip.portBitten port hand c) := by
  unfold Chip.portBitten
  repeat' first
    | (clear_value *; apply Touches.mk <;> intro hn <;> first | with_reducible rfl | exact hm.out hn rfl)
    | extract_lets
    | with_reducible refine Keeps.ite ?_ ?_
    | with_reducible exact h0
    | with_reducible exact Keeps.refl _
    | with_reducible apply loseRecord_keeps (hm.sub (by decide))
    | with_reducible apply setLink_keeps (hm.sub (by decide))
    | with_reducible apply setSampler_keeps (hm.sub (by decide))
    | with_reducible apply shepherdDog_keeps (hm.sub (by decide))
    | with_reducible apply orreryLoses_keeps (hm.sub (by decide))
    | with_reducible apply laneBite_keeps (hm.sub (by decide))
    | with_reducible apply coreBite_keeps (hm.sub (by decide))
    | with_reducible refine OptKeeps.of_eq ?_ (by assumption)
    | split
    | with_reducible refine Keeps.update ?_ ?_

theorem foldDog_keeps {fs : Nat} (hm : Within (Field.routed ||| Field.overrides ||| Field.produced ||| Field.attrs ||| Field.existing ||| Field.gens ||| Field.owners ||| Field.sessions ||| Field.staged ||| Field.lives ||| Field.cmds ||| Field.remoteIn ||| Field.foldS ||| Field.foldD ||| Field.host ||| Field.dogs ||| Field.firmware ||| Field.image ||| Field.almanac ||| Field.links ||| Field.fabric ||| Field.ports ||| Field.groups ||| Field.bridges ||| Field.motors ||| Field.valves ||| Field.fans ||| Field.sampler ||| Field.cal ||| Field.zones ||| Field.predictions ||| Field.thermal ||| Field.minSel ||| Field.streams ||| Field.can ||| Field.panels ||| Field.plate ||| Field.selftest) fs) {a0 : Chip} (dram : Bool) (port : Nat) (hand : Option (Nat × Nat)) (c : Chip) (h0 : Keeps fs a0 c) : Keeps fs a0 (Chip.foldDog dram port hand c) := by
  unfold Chip.foldDog
  repeat' first
    | (clear_value *; apply Touches.mk <;> intro hn <;> first | with_reducible rfl | exact hm.out hn rfl)
    | extract_lets
    | with_reducible refine Keeps.ite ?_ ?_
    | with_reducible exact h0
    | with_reducible exact Keeps.refl _
    | with_reducible apply fireWith_keeps (hm.sub (by decide))
    | with_reducible apply portBitten_keeps (hm.sub (by decide))
    | with_reducible apply bite_keeps (hm.sub (by decide))
    | with_reducible refine Keeps.update ?_ ?_

theorem bootBitten_keeps {fs : Nat} (hm : Within (Field.routed ||| Field.clk ||| Field.overrides ||| Field.produced ||| Field.attrs ||| Field.existing ||| Field.gens ||| Field.owners ||| Field.sessions ||| Field.staged ||| Field.lives ||| Field.cmds ||| Field.remoteIn ||| Field.foldS ||| Field.foldD ||| Field.host ||| Field.dogs ||| Field.firmware ||| Field.image ||| Field.rtc ||| Field.almanac ||| Field.links ||| Field.fabric ||| Field.ports ||| Field.groups ||| Field.bridges ||| Field.motors ||| Field.valves ||| Field.fans ||| Field.sampler ||| Field.cal ||| Field.zones ||| Field.predictions ||| Field.thermal ||| Field.minSel ||| Field.streams ||| Field.can ||| Field.panels ||| Field.plate ||| Field.selftest) fs) {a0 : Chip} (dog : Nat) (after : Nat) (c : Chip) (h0 : Keeps fs a0 c) : Keeps fs a0 (Chip.bootBitten dog after c) := by
  unfold Chip.bootBitten
  repeat' first
    | extract_lets
    | with_reducible refine Keeps.ite ?_ ?_
    | with_reducible exact h0
    | with_reducible exact Keeps.refl _
    | with_reducible apply dogReset_keeps (hm.sub (by decide))
    | with_reducible apply logBanks_keeps (hm.sub (by decide))
    | with_reducible apply bankVerified_keeps (hm.sub (by decide))
    | with_reducible apply waitUntil_keeps (hm.sub (by decide))
    | with_reducible apply released_keeps (hm.sub (by decide))

theorem mainDog_keeps {fs : Nat} (hm : Within (Field.routed ||| Field.clk ||| Field.overrides ||| Field.produced ||| Field.attrs ||| Field.existing ||| Field.gens ||| Field.owners ||| Field.sessions ||| Field.staged ||| Field.lives ||| Field.cmds ||| Field.remoteIn ||| Field.foldS ||| Field.foldD ||| Field.host ||| Field.dogs ||| Field.firmware ||| Field.image ||| Field.rtc ||| Field.almanac ||| Field.links ||| Field.fabric ||| Field.ports ||| Field.groups ||| Field.bridges ||| Field.motors ||| Field.valves ||| Field.fans ||| Field.sampler ||| Field.cal ||| Field.zones ||| Field.predictions ||| Field.thermal ||| Field.minSel ||| Field.streams ||| Field.can ||| Field.panels ||| Field.plate ||| Field.selftest) fs) {a0 : Chip} (core : Nat) (c : Chip) (h0 : Keeps fs a0 c) : Keeps fs a0 (Chip.mainDog core c) := by
  unfold Chip.mainDog
  repeat' first
    | extract_lets
    | with_reducible refine Keeps.ite ?_ ?_
    | with_reducible exact h0
    | with_reducible exact Keeps.refl _
    | with_reducible apply bootBitten_keeps (hm.sub (by decide))
    | with_reducible apply dogReset_keeps (hm.sub (by decide))

theorem bootDog_keeps {fs : Nat} (hm : Within (Field.routed ||| Field.clk ||| Field.overrides ||| Field.produced ||| Field.attrs ||| Field.existing ||| Field.gens ||| Field.owners ||| Field.sessions ||| Field.staged ||| Field.lives ||| Field.cmds ||| Field.remoteIn ||| Field.foldS ||| Field.foldD ||| Field.host ||| Field.dogs ||| Field.firmware ||| Field.image ||| Field.rtc ||| Field.almanac ||| Field.links ||| Field.fabric ||| Field.ports ||| Field.groups ||| Field.bridges ||| Field.motors ||| Field.valves ||| Field.fans ||| Field.sampler ||| Field.cal ||| Field.zones ||| Field.predictions ||| Field.thermal ||| Field.minSel ||| Field.streams ||| Field.can ||| Field.panels ||| Field.plate ||| Field.selftest) fs) {a0 : Chip} (c : Chip) (h0 : Keeps fs a0 c) : Keeps fs a0 (Chip.bootDog c) := by
  unfold Chip.bootDog
  repeat' first
    | extract_lets
    | with_reducible refine Keeps.ite ?_ ?_
    | with_reducible exact h0
    | with_reducible exact Keeps.refl _
    | with_reducible apply bootBitten_keeps (hm.sub (by decide))

theorem lineLost_keeps {fs : Nat} (hm : Within (Field.routed ||| Field.panels) fs) {a0 : Chip} (line : Nat) (c : Chip) (h0 : Keeps fs a0 c) : Keeps fs a0 (Chip.lineLost line c) := by
  unfold Chip.lineLost
  repeat' first
    | (clear_value *; apply Touches.mk <;> intro hn <;> first | with_reducible rfl | exact hm.out hn rfl)
    | extract_lets
    | with_reducible refine foldl_keeps (fun _ _ => ?_) ?_
    | with_reducible refine Keeps.ite ?_ ?_
    | with_reducible exact h0
    | with_reducible exact Keeps.refl _
    | with_reducible apply loseRecord_keeps (hm.sub (by decide))
    | with_reducible apply modPanel_keeps (hm.sub (by decide))
    | with_reducible refine Keeps.update ?_ ?_

theorem memoryError_keeps {fs : Nat} (hm : Within (Field.routed ||| Field.overrides ||| Field.produced ||| Field.attrs ||| Field.existing ||| Field.gens ||| Field.owners ||| Field.sessions ||| Field.staged ||| Field.lives ||| Field.cmds ||| Field.remoteIn ||| Field.foldS ||| Field.foldD ||| Field.host ||| Field.dogs ||| Field.firmware ||| Field.image ||| Field.almanac ||| Field.links ||| Field.fabric ||| Field.ports ||| Field.groups ||| Field.bridges ||| Field.motors ||| Field.valves ||| Field.fans ||| Field.sampler ||| Field.cal ||| Field.zones ||| Field.predictions ||| Field.thermal ||| Field.minSel ||| Field.streams ||| Field.can ||| Field.panels ||| Field.plate ||| Field.selftest) fs) {a0 : Chip} (mem : Nat) (addr : Nat) (single : Bool) (c : Chip) (h0 : Keeps fs a0 c) : Keeps fs a0 (Chip.memoryError mem addr single c) := by
  unfold Chip.memoryError
  repeat' first
    | (clear_value *; apply Touches.mk <;> intro hn <;> first | with_reducible rfl | exact hm.out hn rfl)
    | extract_lets
    | with_reducible refine Keeps.ite ?_ ?_
    | with_reducible exact h0
    | with_reducible exact Keeps.refl _
    | with_reducible apply lineLost_keeps (hm.sub (by decide))
    | with_reducible apply fire_keeps (hm.sub (by decide))
    | with_reducible apply mainReset_keeps (hm.sub (by decide))
    | with_reducible apply bite_keeps (hm.sub (by decide))
    | with_reducible refine Keeps.update ?_ ?_

theorem bodyHeartbeat_keeps {fs : Nat} (hm : Within (Field.dogs ||| Field.fans) fs) {a0 : Chip} (k : Cmd) (c : Chip) (h0 : Keeps fs a0 c) : ResKeeps fs a0 (bodyHeartbeat k c) := by
  unfold bodyHeartbeat
  repeat' first
    | (clear_value *; apply Touches.mk <;> intro hn <;> first | with_reducible rfl | exact hm.out hn rfl)
    | extract_lets
    | with_reducible refine ResKeeps.ite ?_ ?_
    | with_reducible refine Keeps.ite ?_ ?_
    | with_reducible exact h0
    | with_reducible exact Keeps.refl _
    | with_reducible apply fanBeat_keeps (hm.sub (by decide))
    | with_reducible apply ResKeeps.done
    | with_reducible apply ResKeeps.accepted
    | with_reducible apply ResKeeps.acceptedDone
    | with_reducible apply ResKeeps.waiting
    | with_reducible apply ResKeeps.held
    | with_reducible apply ResKeeps.ok
    | with_reducible apply ResKeeps.okWith
    | with_reducible apply ResKeeps.err
    | with_reducible apply ResKeeps.badParam
    | with_reducible apply ResKeeps.badLength
    | with_reducible refine Keeps.update ?_ ?_

theorem heartbeatRow_keeps {fs : Nat} (hm : Within (Field.routed ||| Field.clk ||| Field.slots ||| Field.produced ||| Field.slotWrites ||| Field.sessions ||| Field.staged ||| Field.lives ||| Field.cmds ||| Field.dogs ||| Field.firmware ||| Field.image ||| Field.rtc ||| Field.links ||| Field.fabric ||| Field.groups ||| Field.motors ||| Field.records ||| Field.valves ||| Field.cal ||| Field.zones ||| Field.staleWrites ||| Field.streams ||| Field.can) fs) {a0 : Chip} (c : Chip) (h0 : Keeps fs a0 c) : Keeps fs a0 (Chip.heartbeatRow c) := by
  unfold Chip.heartbeatRow
  repeat' first
    | extract_lets
    | with_reducible refine Keeps.ite ?_ ?_
    | with_reducible exact h0
    | with_reducible exact Keeps.refl _
    | with_reducible apply loseHeartbeat_keeps (hm.sub (by decide))
    | with_reducible apply waitUntil_keeps (hm.sub (by decide))

theorem bodyLogRead_keeps {fs : Nat} (hm : Within 0 fs) {a0 : Chip} (k : Cmd) (c : Chip) (h0 : Keeps fs a0 c) : ResKeeps fs a0 (bodyLogRead k c) := by
  unfold bodyLogRead
  repeat' first
    | (clear_value *; apply Touches.mk <;> intro hn <;> first | with_reducible rfl | exact hm.out hn rfl)
    | extract_lets
    | with_reducible refine ResKeeps.ite ?_ ?_
    | with_reducible refine Keeps.ite ?_ ?_
    | with_reducible exact h0
    | with_reducible exact Keeps.refl _
    | with_reducible apply ResKeeps.done
    | with_reducible apply ResKeeps.accepted
    | with_reducible apply ResKeeps.acceptedDone
    | with_reducible apply ResKeeps.waiting
    | with_reducible apply ResKeeps.held
    | with_reducible apply ResKeeps.ok
    | with_reducible apply ResKeeps.okWith
    | with_reducible apply ResKeeps.err
    | with_reducible apply ResKeeps.badParam
    | with_reducible apply ResKeeps.badLength

theorem bodyLogClear_keeps {fs : Nat} (hm : Within (Field.log) fs) {a0 : Chip} (k : Cmd) (c : Chip) (h0 : Keeps fs a0 c) : ResKeeps fs a0 (bodyLogClear k c) := by
  unfold bodyLogClear
  repeat' first
    | (clear_value *; apply Touches.mk <;> intro hn <;> first | with_reducible rfl | exact hm.out hn rfl)
    | extract_lets
    | with_reducible refine ResKeeps.ite ?_ ?_
    | with_reducible refine Keeps.ite ?_ ?_
    | with_reducible exact h0
    | with_reducible exact Keeps.refl _
    | with_reducible apply ResKeeps.done
    | with_reducible apply ResKeeps.accepted
    | with_reducible apply ResKeeps.acceptedDone
    | with_reducible apply ResKeeps.waiting
    | with_reducible apply ResKeeps.held
    | with_reducible apply ResKeeps.ok
    | with_reducible apply ResKeeps.okWith
    | with_reducible apply ResKeeps.err
    | with_reducible apply ResKeeps.badParam
    | with_reducible apply ResKeeps.badLength
    | with_reducible refine Keeps.update ?_ ?_

theorem logCleared_keeps {fs : Nat} (hm : Within (Field.routed ||| Field.sessions ||| Field.staged ||| Field.lives ||| Field.cmds ||| Field.firmware ||| Field.image ||| Field.links ||| Field.fabric ||| Field.cal ||| Field.streams ||| Field.can) fs) {a0 : Chip} (c : Chip) (h0 : Keeps fs a0 c) : Keeps fs a0 (Chip.logCleared c) := by
  unfold Chip.logCleared
  repeat' first
    | (clear_value *; apply Touches.mk <;> intro hn <;> first | with_reducible rfl | exact hm.out hn rfl)
    | extract_lets
    | with_reducible exact h0
    | with_reducible exact Keeps.refl _
    | with_reducible apply finishTag_keeps (hm.sub (by decide))
    | with_reducible refine OptKeeps.of_eq ?_ (by assumption)
    | split
    | with_reducible refine Keeps.update ?_ ?_

theorem bodyCountersRead_keeps {fs : Nat} (hm : Within 0 fs) {a0 : Chip} (k : Cmd) (c : Chip) (h0 : Keeps fs a0 c) : ResKeeps fs a0 (bodyCountersRead k c) := by
  unfold bodyCountersRead
  repeat' first
    | extract_lets
    | with_reducible refine ResKeeps.ite ?_ ?_
    | with_reducible refine Keeps.ite ?_ ?_
    | with_reducible exact h0
    | with_reducible exact Keeps.refl _
    | with_reducible apply ResKeeps.done
    | with_reducible apply ResKeeps.accepted
    | with_reducible apply ResKeeps.acceptedDone
    | with_reducible apply ResKeeps.waiting
    | with_reducible apply ResKeeps.held
    | with_reducible apply ResKeeps.ok
    | with_reducible apply ResKeeps.okWith
    | with_reducible apply ResKeeps.err
    | with_reducible apply ResKeeps.badParam
    | with_reducible apply ResKeeps.badLength

theorem bodySelftest_keeps {fs : Nat} (hm : Within (Field.selftest) fs) {a0 : Chip} (k : Cmd) (c : Chip) (h0 : Keeps fs a0 c) : ResKeeps fs a0 (bodySelftest k c) := by
  unfold bodySelftest
  repeat' first
    | (clear_value *; apply Touches.mk <;> intro hn <;> first | with_reducible rfl | exact hm.out hn rfl)
    | extract_lets
    | with_reducible refine ResKeeps.ite ?_ ?_
    | with_reducible refine Keeps.ite ?_ ?_
    | with_reducible exact h0
    | with_reducible exact Keeps.refl _
    | with_reducible apply ResKeeps.done
    | with_reducible apply ResKeeps.accepted
    | with_reducible apply ResKeeps.acceptedDone
    | with_reducible apply ResKeeps.waiting
    | with_reducible apply ResKeeps.held
    | with_reducible apply ResKeeps.ok
    | with_reducible apply ResKeeps.okWith
    | with_reducible apply ResKeeps.err
    | with_reducible apply ResKeeps.badParam
    | with_reducible apply ResKeeps.badLength
    | with_reducible refine Keeps.update ?_ ?_

theorem selftestDone_keeps {fs : Nat} (hm : Within (Field.routed ||| Field.sessions ||| Field.staged ||| Field.lives ||| Field.cmds ||| Field.firmware ||| Field.image ||| Field.links ||| Field.fabric ||| Field.cal ||| Field.streams ||| Field.can ||| Field.selftest) fs) {a0 : Chip} (pass : Nat) (fail : Nat) (stores : Nat) (c : Chip) (h0 : Keeps fs a0 c) : Keeps fs a0 (Chip.selftestDone pass fail stores c) := by
  unfold Chip.selftestDone
  repeat' first
    | (clear_value *; apply Touches.mk <;> intro hn <;> first | with_reducible rfl | exact hm.out hn rfl)
    | extract_lets
    | with_reducible refine Keeps.ite ?_ ?_
    | with_reducible exact h0
    | with_reducible exact Keeps.refl _
    | with_reducible apply finishTag_keeps (hm.sub (by decide))
    | with_reducible refine OptKeeps.of_eq ?_ (by assumption)
    | split
    | with_reducible refine Keeps.update ?_ ?_

theorem bodySheepdogStatus_keeps {fs : Nat} (hm : Within 0 fs) {a0 : Chip} (k : Cmd) (c : Chip) (h0 : Keeps fs a0 c) : ResKeeps fs a0 (bodySheepdogStatus k c) := by
  unfold bodySheepdogStatus
  repeat' first
    | extract_lets
    | with_reducible refine ResKeeps.ite ?_ ?_
    | with_reducible refine Keeps.ite ?_ ?_
    | with_reducible exact h0
    | with_reducible exact Keeps.refl _
    | with_reducible apply ResKeeps.done
    | with_reducible apply ResKeeps.accepted
    | with_reducible apply ResKeeps.acceptedDone
    | with_reducible apply ResKeeps.waiting
    | with_reducible apply ResKeeps.held
    | with_reducible apply ResKeeps.ok
    | with_reducible apply ResKeeps.okWith
    | with_reducible apply ResKeeps.err
    | with_reducible apply ResKeeps.badParam
    | with_reducible apply ResKeeps.badLength

end Sys2Proof.Machine
end

