-- ==== Sys2Proof/Laws/KeepsSessions.lean ====
section
/-! SUPPORT. What Machine/Sessions.lean keeps. -/

namespace Sys2Proof.Machine

theorem abortCapture_keeps {fs : Nat} (hm : Within (Field.routed ||| Field.sessions ||| Field.staged ||| Field.lives ||| Field.cmds ||| Field.firmware ||| Field.image ||| Field.links ||| Field.fabric ||| Field.cal ||| Field.streams ||| Field.can) fs) {a0 : Chip} (t : Cmd) (c : Chip) (h0 : Keeps fs a0 c) : Keeps fs a0 (Chip.abortCapture t c) := by
  unfold Chip.abortCapture
  repeat' first
    | (clear_value *; apply Touches.mk <;> intro hn <;> first | with_reducible rfl | exact hm.out hn rfl)
    | extract_lets
    | with_reducible refine Keeps.ite ?_ ?_
    | with_reducible exact h0
    | with_reducible exact Keeps.refl _
    | with_reducible apply calFinish_keeps (hm.sub (by decide))
    | with_reducible apply setCal_keeps (hm.sub (by decide))
    | with_reducible refine OptKeeps.of_eq ?_ (by assumption)
    | split

theorem stopLong_keeps {fs : Nat} (hm : Within (Field.routed ||| Field.slots ||| Field.produced ||| Field.slotWrites ||| Field.sessions ||| Field.staged ||| Field.lives ||| Field.cmds ||| Field.firmware ||| Field.image ||| Field.links ||| Field.fabric ||| Field.motors ||| Field.records ||| Field.cal ||| Field.zones ||| Field.staleWrites ||| Field.streams ||| Field.can ||| Field.panels ||| Field.selftest) fs) {a0 : Chip} (t : Cmd) (c : Chip) (h0 : Keeps fs a0 c) : OptKeeps fs a0 (Chip.stopLong t c) := by
  unfold Chip.stopLong
  repeat' first
    | (clear_value *; apply Touches.mk <;> intro hn <;> first | with_reducible rfl | exact hm.out hn rfl)
    | extract_lets
    | with_reducible exact OptKeeps.none
    | with_reducible refine OptKeeps.ite ?_ ?_
    | with_reducible refine Keeps.ite ?_ ?_
    | with_reducible exact h0
    | with_reducible exact Keeps.refl _
    | with_reducible apply setFw_keeps (hm.sub (by decide))
    | with_reducible apply regionAbort_keeps (hm.sub (by decide))
    | with_reducible apply retrainAbort_keeps (hm.sub (by decide))
    | with_reducible apply abortMove_keeps (hm.sub (by decide))
    | with_reducible apply abortCapture_keeps (hm.sub (by decide))
    | with_reducible apply finishTag_keeps (hm.sub (by decide))
    | with_reducible apply OptKeeps.some
    | with_reducible refine Keeps.update ?_ ?_

theorem abortOne_keeps {fs : Nat} (hm : Within (Field.routed ||| Field.slots ||| Field.produced ||| Field.slotWrites ||| Field.sessions ||| Field.staged ||| Field.lives ||| Field.cmds ||| Field.firmware ||| Field.image ||| Field.links ||| Field.fabric ||| Field.motors ||| Field.records ||| Field.cal ||| Field.zones ||| Field.staleWrites ||| Field.streams ||| Field.can ||| Field.panels ||| Field.selftest) fs) {a0 : Chip} (ctx : Nat) (tag : Nat) (by_ : Nat × Nat) (c : Chip) (h0 : Keeps fs a0 c) : CancelKeeps fs a0 (Chip.abortOne ctx tag by_ c) := by
  unfold Chip.abortOne
  cases c.findCmd ctx tag with
  | none => exact CancelKeeps.tooLate
  | some t =>
    refine CancelKeeps.ite CancelKeeps.tooLate (CancelKeeps.ite (cancelSend_keeps (hm.sub (by decide)) _ _ _ _ _ h0) ?_)
    cases t.phase with
    | fetched => exact finish_keeps (hm.sub (by decide)) _ _ _ _ _ h0
    | committed => exact CancelKeeps.tooLate
    | running =>
      have hk := stopLong_keeps (hm.sub (by decide)) t c h0
      simp only
      generalize c.stopLong t = r at hk
      cases r with
      | none => exact CancelKeeps.tooLate
      | some d => exact hk

theorem bodyAbort_keeps {fs : Nat} (hm : Within (Field.routed ||| Field.slots ||| Field.produced ||| Field.slotWrites ||| Field.sessions ||| Field.staged ||| Field.lives ||| Field.cmds ||| Field.firmware ||| Field.image ||| Field.links ||| Field.fabric ||| Field.motors ||| Field.records ||| Field.cal ||| Field.zones ||| Field.staleWrites ||| Field.streams ||| Field.can ||| Field.panels ||| Field.selftest) fs) {a0 : Chip} (k : Cmd) (c : Chip) (h0 : Keeps fs a0 c) : ResKeeps fs a0 (bodyAbort k c) := by
  unfold bodyAbort
  extract_lets p
  refine ResKeeps.ite h0 (ResKeeps.ite h0 ?_)
  cases namedCtx k (fld p 2 1) with
  | none => exact h0
  | some x =>
    have hk := abortOne_keeps (hm.sub (by decide)) x (fld p 0 2) (k.ctx, k.tag) c h0
    simp only
    generalize c.abortOne x (fld p 0 2) (k.ctx, k.tag) = r at hk
    cases r with
    | tooLate => exact h0
    | withdrawn e => exact hk
    | waits e => exact hk

theorem abortOthers_keeps {fs : Nat} (hm : Within (Field.routed ||| Field.slots ||| Field.produced ||| Field.slotWrites ||| Field.sessions ||| Field.staged ||| Field.lives ||| Field.cmds ||| Field.firmware ||| Field.image ||| Field.links ||| Field.fabric ||| Field.motors ||| Field.records ||| Field.cal ||| Field.zones ||| Field.staleWrites ||| Field.streams ||| Field.can ||| Field.panels ||| Field.selftest) fs) {a0 : Chip} (ctx : Nat) (tag : Nat) (c : Chip) (h0 : Keeps fs a0 c) : Keeps fs a0 (Chip.abortOthers ctx tag c) := by
  unfold Chip.abortOthers
  refine foldl_keeps (fun d t => ?_) h0
  have hk := abortOne_keeps (hm.sub (by decide)) ctx t.tag (ctx, 0x10000) d (Keeps.refl d)
  generalize d.abortOne ctx t.tag (ctx, 0x10000) = r at hk
  cases r with
  | tooLate => exact Keeps.refl _
  | withdrawn e => exact hk
  | waits e => exact hk

theorem bodySessionOpen_keeps {fs : Nat} (hm : Within (Field.routed ||| Field.slots ||| Field.produced ||| Field.slotWrites ||| Field.sessions ||| Field.staged ||| Field.lives ||| Field.cmds ||| Field.firmware ||| Field.image ||| Field.links ||| Field.fabric ||| Field.motors ||| Field.records ||| Field.cal ||| Field.zones ||| Field.staleWrites ||| Field.streams ||| Field.can ||| Field.panels ||| Field.selftest) fs) {a0 : Chip} (k : Cmd) (c : Chip) (h0 : Keeps fs a0 c) : ResKeeps fs a0 (bodySessionOpen k c) := by
  unfold bodySessionOpen
  repeat' first
    | extract_lets
    | with_reducible refine ResKeeps.ite ?_ ?_
    | with_reducible refine Keeps.ite ?_ ?_
    | with_reducible exact h0
    | with_reducible exact Keeps.refl _
    | with_reducible apply abortOthers_keeps (hm.sub (by decide))
    | with_reducible apply ResKeeps.done
    | with_reducible apply ResKeeps.accepted
    | with_reducible apply ResKeeps.acceptedDone
    | with_reducible apply ResKeeps.waiting
    | with_reducible apply ResKeeps.held
    | with_reducible apply ResKeeps.ok
    | with_reducible apply ResKeeps.okWith
    | with_reducible apply ResKeeps.err
    | with_reducible apply ResKeeps.badParam
    | with_reducible apply ResKeeps.badLength

theorem bodySessionClose_keeps {fs : Nat} (hm : Within (Field.routed ||| Field.slots ||| Field.produced ||| Field.slotWrites ||| Field.sessions ||| Field.staged ||| Field.lives ||| Field.cmds ||| Field.firmware ||| Field.image ||| Field.links ||| Field.fabric ||| Field.motors ||| Field.records ||| Field.cal ||| Field.zones ||| Field.staleWrites ||| Field.streams ||| Field.can ||| Field.panels ||| Field.selftest) fs) {a0 : Chip} (k : Cmd) (c : Chip) (h0 : Keeps fs a0 c) : ResKeeps fs a0 (bodySessionClose k c) := by
  unfold bodySessionClose
  repeat' first
    | extract_lets
    | with_reducible refine ResKeeps.ite ?_ ?_
    | with_reducible refine Keeps.ite ?_ ?_
    | with_reducible exact h0
    | with_reducible exact Keeps.refl _
    | with_reducible apply abortOthers_keeps (hm.sub (by decide))
    | with_reducible apply ResKeeps.done
    | with_reducible apply ResKeeps.accepted
    | with_reducible apply ResKeeps.acceptedDone
    | with_reducible apply ResKeeps.waiting
    | with_reducible apply ResKeeps.held
    | with_reducible apply ResKeeps.ok
    | with_reducible apply ResKeeps.okWith
    | with_reducible apply ResKeeps.err
    | with_reducible apply ResKeeps.badParam
    | with_reducible apply ResKeeps.badLength

theorem bodyEcho_keeps {fs : Nat} (hm : Within 0 fs) {a0 : Chip} (k : Cmd) (c : Chip) (h0 : Keeps fs a0 c) : ResKeeps fs a0 (bodyEcho k c) := by
  unfold bodyEcho
  repeat' first
    | extract_lets
    | with_reducible refine ResKeeps.ite ?_ ?_
    | with_reducible refine Keeps.ite ?_ ?_
    | with_reducible exact h0
    | with_reducible exact Keeps.refl _
    | with_reducible apply ResKeeps.done
    | with_reducible apply ResKeeps.accepted
    | with_reducible apply ResKeeps.acceptedDone
    | with_reducible apply ResKeeps.waiting
    | with_reducible apply ResKeeps.held
    | with_reducible apply ResKeeps.ok
    | with_reducible apply ResKeeps.okWith
    | with_reducible apply ResKeeps.err
    | with_reducible apply ResKeeps.badParam
    | with_reducible apply ResKeeps.badLength

theorem remoteTimeout_keeps {fs : Nat} (hm : Within (Field.routed ||| Field.clk ||| Field.slots ||| Field.produced ||| Field.slotWrites ||| Field.sessions ||| Field.staged ||| Field.lives ||| Field.cmds ||| Field.firmware ||| Field.image ||| Field.rtc ||| Field.links ||| Field.fabric ||| Field.motors ||| Field.records ||| Field.cal ||| Field.zones ||| Field.staleWrites ||| Field.streams ||| Field.can ||| Field.panels ||| Field.selftest) fs) {a0 : Chip} (ctx : Nat) (c : Chip) (h0 : Keeps fs a0 c) : Keeps fs a0 (Chip.remoteTimeout ctx c) := by
  unfold Chip.remoteTimeout
  repeat' first
    | (clear_value *; apply Touches.mk <;> intro hn <;> first | with_reducible rfl | exact hm.out hn rfl)
    | extract_lets
    | with_reducible refine Keeps.ite ?_ ?_
    | with_reducible exact h0
    | with_reducible exact Keeps.refl _
    | with_reducible apply endSession_keeps (hm.sub (by decide))
    | with_reducible apply abortOthers_keeps (hm.sub (by decide))
    | with_reducible apply waitUntil_keeps (hm.sub (by decide))
    | with_reducible refine OptKeeps.of_eq ?_ (by assumption)
    | split

end Sys2Proof.Machine
end

