-- ==== Sys2Proof/Laws/Frames.lean ====
section
/-! SUPPORT. How the lemmas of Laws/Keeps*.lean are used: what a record reads after an operation that does not touch its table, the
plant after a communication, and a command row that is ready. -/

namespace Sys2Proof

namespace Machine

variable {fs : Nat} {c d : Chip}

theorem Keeps.slot_eq (h : Keeps fs c d) (hn : fs.testBit 1 = false := by rfl) (j : Nat) : d.slot j = c.slot j := by
  unfold Chip.slot; rw [h.slots hn]
theorem Keeps.group_eq (h : Keeps fs c d) (hn : fs.testBit 33 = false := by rfl) (j : Nat) : d.group j = c.group j := by
  unfold Chip.group; rw [h.groups hn]
theorem Keeps.bridge_eq (h : Keeps fs c d) (hn : fs.testBit 34 = false := by rfl) (j : Nat) : d.bridge j = c.bridge j := by
  unfold Chip.bridge; rw [h.bridges hn]
theorem Keeps.motor_eq (h : Keeps fs c d) (hn : fs.testBit 35 = false := by rfl) (j : Nat) : d.motor j = c.motor j := by
  unfold Chip.motor; rw [h.motors hn]
theorem Keeps.valve_eq (h : Keeps fs c d) (hn : fs.testBit 37 = false := by rfl) (j : Nat) : d.valve j = c.valve j := by
  unfold Chip.valve; rw [h.valves hn]
theorem Keeps.fan_eq (h : Keeps fs c d) (hn : fs.testBit 38 = false := by rfl) (j : Nat) : d.fan j = c.fan j := by
  unfold Chip.fan; rw [h.fans hn]
theorem Keeps.canOf_eq (h : Keeps fs c d) (hn : fs.testBit 48 = false := by rfl) (j : Nat) : d.canOf j = c.canOf j := by
  unfold Chip.canOf; rw [h.can hn]
theorem Keeps.loop_eq (h : Keeps fs c d) (hn : fs.testBit 45 = false := by rfl) (j : Nat) : d.loop j = c.loop j := by
  unfold Chip.loop; rw [h.loops hn]
theorem Keeps.link_eq (h : Keeps fs c d) (hn : fs.testBit 30 = false := by rfl) (j : Nat) : d.link j = c.link j := by
  unfold Chip.link; rw [h.links hn]
theorem Keeps.stream_eq (h : Keeps fs c d) (hn : fs.testBit 47 = false := by rfl) (j : Nat) : d.stream j = c.stream j := by
  unfold Chip.stream; rw [h.streams hn]
theorem Keeps.queue_eq (h : Keeps fs c d) (hn : fs.testBit 15 = false := by rfl) (j : Nat) : d.queue j = c.queue j := by
  unfold Chip.queue; rw [h.queues hn]
theorem Keeps.event_eq (h : Keeps fs c d) (hn : fs.testBit 14 = false := by rfl) (j : Nat) : d.event j = c.event j := by
  unfold Chip.event; rw [h.events hn]
theorem Keeps.zone_eq (h : Keeps fs c d) (hn : fs.testBit 41 = false := by rfl) (j : Nat) : d.zone j = c.zone j := by
  unfold Chip.zone; rw [h.zones hn]
theorem Keeps.panel_eq (h : Keeps fs c d) (hn : fs.testBit 49 = false := by rfl) (j : Nat) : d.panel j = c.panel j := by
  unfold Chip.panel; rw [h.panels hn]
theorem Keeps.port_eq (h : Keeps fs c d) (hn : fs.testBit 32 = false := by rfl) (j : Nat) : d.port j = c.port j := by
  unfold Chip.port; rw [h.ports hn]
theorem Keeps.session_eq (h : Keeps fs c d) (hn : fs.testBit 9 = false := by rfl) (j : Nat) : d.session j = c.session j := by
  unfold Chip.session; rw [h.sessions hn]
theorem Keeps.seq_eq (h : Keeps fs c d) (hn : fs.testBit 39 = false := by rfl) (j : Nat) : d.seq j = c.seq j := by
  unfold Chip.seq; rw [h.sampler hn]
theorem Keeps.attr_eq (h : Keeps fs c d) (hn : fs.testBit 5 = false := by rfl) (ty i a : Nat) : d.attr ty i a = c.attr ty i a := by
  unfold Chip.attr; rw [h.attrs hn, h.fuses]

theorem Chip.waitUntil_due (t : Nat) (c : Chip) : t ≤ (c.waitUntil t).clk.now := by
  unfold Chip.waitUntil
  split
  · rw [Chip.advance_clk]
    simp only [clkAdvance]
    split <;> simp <;> omega
  · omega

/-- Waiting touches the clocks and the calendar clock, nothing else. -/
theorem Chip.waitUntil_frame (t : Nat) (c : Chip) : Keeps (Field.clk ||| Field.rtc) c (c.waitUntil t) :=
  waitUntil_keeps (.refl _) t c (.refl _)

end Machine

open Machine

theorem SamePlant.refl (c : Chip) : SamePlant c c := ⟨rfl, rfl, rfl, rfl, rfl, rfl, rfl, rfl, rfl, rfl, rfl⟩

/-- The fields that SamePlant speaks of. -/
abbrev plantFields : Nat := Field.slots ||| Field.attrs ||| Field.ports ||| Field.groups ||| Field.bridges ||| Field.motors |||
  Field.valves ||| Field.fans ||| Field.zones ||| Field.panels ||| Field.flash

theorem SamePlant.of_keeps {fs : Nat} {c d : Chip} (h : Keeps fs c d) (hn : fs &&& plantFields = 0 := by decide) : SamePlant c d := by
  have hb : ∀ i, plantFields.testBit i = true → fs.testBit i = false := by
    intro i hi
    have := congrArg (fun x => x.testBit i) hn
    simpa [Nat.testBit_and, hi] using this
  exact ⟨h.slots (hb _ rfl), h.attrs (hb _ rfl), h.ports (hb _ rfl), h.groups (hb _ rfl), h.bridges (hb _ rfl), h.motors (hb _ rfl),
    h.valves (hb _ rfl), h.fans (hb _ rfl), h.zones (hb _ rfl), h.panels (hb _ rfl), h.flash (hb _ rfl)⟩

theorem SamePlant.trans {a b c : Chip} (h : SamePlant a b) (h' : SamePlant b c) : SamePlant a c := by
  obtain ⟨a1, a2, a3, a4, a5, a6, a7, a8, a9, a10, a11⟩ := h
  obtain ⟨b1, b2, b3, b4, b5, b6, b7, b8, b9, b10, b11⟩ := h'
  exact ⟨b1.trans a1, b2.trans a2, b3.trans a3, b4.trans a4, b5.trans a5, b6.trans a6, b7.trans a7, b8.trans a8, b9.trans a9,
    b10.trans a10, b11.trans a11⟩

/-- A command row whose outstanding command is ready runs the command's body and settles its result. -/
theorem Ready.leads {fam op : Nat} {i : Instr} {k : Cmd} {s : State} {r : Res} (body : Cmd → Chip → Res) (h : Ready fam op k s)
    (hi : exec i s = .next { s with chip := s.chip.runCmd fam op body k.ctx k.tag }) (hb : body k s.chip = r) :
    Leads i s (r.settle k.ctx k.tag k) := by
  unfold Leads; rw [hi, runCmd_ready h, hb]

/-- A row leads to `c` when the operation that it runs gives `c`. -/
theorem Leads.of_eq {i : Instr} {s : State} {c d : Chip} (hi : exec i s = .next { s with chip := d }) (e : d = c) : Leads i s c := by
  subst e; exact hi

/-- An event whose resource is there, fired while the main side is up, is PENDING with its CAUSE. -/
theorem fired_fire {c : Chip} {e x : Nat} (h : Fires c e) (h2 : e ≠ 92) (h4 : e ≠ 94) (h8 : e ≠ 118) (h9 : e ≠ 119) :
    Fired (c.fire e x) e x :=
  ⟨fireWith_pending _ _ _ _ h.1 h.2 h8 h9, fireWith_cause _ _ _ _ h.1 h.2 h8 h9 h2 h4⟩

/-- The payload of a command that takes none passes its length check. -/
theorem no_payload {p : List Byte} (h : p = []) : (p.length != 0) = false := by rw [h]; rfl

end Sys2Proof
end

