-- ==== Sys2Proof/Laws/PerInstr.lean ====
section
/-! SUPPORT. One lemma for each command: what a row that runs an opcode says of itself (Tables 2.1, 2.9; R69). -/

namespace Sys2Proof.Laws.WellFormed

/-- The row `i`, where it runs an opcode, names one of the fifteen families and an opcode that the family has, and, where it is
well formed, a context of Table 2.1 and a tag of 16 bits; a row whose opcode has a fixed length runs an opcode, and that length
leaves room for the header in a record. -/
def Statement (i : Instr) : Prop :=
  (∀ f o c t, opcodeRow i = some (f, o, c, t) → f < 15 ∧ o < 10 ∧ (i.wf = true → c ≤ 32 ∧ t < 65536)) ∧
    ∀ n, fixedLength i = some n → (opcodeRow i).isSome = true ∧ n ≤ 52

/-- A context of Table 2.1 is at most 0x20. -/
theorem context_bound (ctx tag : Nat) (h : (isContext ctx && decide (tag < 65536)) = true) : ctx ≤ 32 ∧ tag < 65536 := by
  simp [isContext] at h; omega

/-- The statement of a row that runs an opcode. -/
theorem opcode_row (i : Instr) (f o c t : Nat) (l : Option Nat) (hf : f < 15) (ho : o < 10) (hl : ∀ n, l = some n → n ≤ 52)
    (hr : opcodeRow i = some (f, o, c, t)) (hw : i.wf = (isContext c && decide (t < 65536))) (hn : fixedLength i = l) :
    Statement i := by
  refine ⟨fun f' o' c' t' h => ?_, fun n h => ⟨by rw [hr]; rfl, hl n (hn ▸ h)⟩⟩
  rw [hr] at h; cases h
  exact ⟨hf, ho, fun w => context_bound _ _ (hw ▸ w)⟩

/-- The statement of a row that runs no opcode. -/
theorem event_row (i : Instr) (hr : opcodeRow i = none) (hn : fixedLength i = none) : Statement i :=
  ⟨fun _ _ _ _ h => (by rw [hr] at h; cases h), fun _ h => (by rw [hn] at h; cases h)⟩

theorem sessionOpen (ctx tag : Nat) : Statement (.sessionOpen ctx tag) :=
  opcode_row _ 0 0 ctx tag none (by decide) (by decide) (fun _ h => by cases h) rfl rfl rfl

theorem sessionClose (ctx tag : Nat) : Statement (.sessionClose ctx tag) :=
  opcode_row _ 0 1 ctx tag none (by decide) (by decide) (fun _ h => by cases h) rfl rfl rfl

theorem heartbeat (ctx tag : Nat) : Statement (.heartbeat ctx tag) :=
  opcode_row _ 0 2 ctx tag (some 0) (by decide) (by decide) (fun _ h => by cases h; decide) rfl rfl rfl

theorem abort (ctx tag : Nat) : Statement (.abort ctx tag) :=
  opcode_row _ 0 3 ctx tag (some 4) (by decide) (by decide) (fun _ h => by cases h; decide) rfl rfl rfl

theorem echo (ctx tag : Nat) : Statement (.echo ctx tag) :=
  opcode_row _ 0 4 ctx tag none (by decide) (by decide) (fun _ h => by cases h) rfl rfl rfl

theorem objGet (ctx tag : Nat) : Statement (.objGet ctx tag) :=
  opcode_row _ 1 0 ctx tag none (by decide) (by decide) (fun _ h => by cases h) rfl rfl rfl

theorem objSet (ctx tag : Nat) : Statement (.objSet ctx tag) :=
  opcode_row _ 1 1 ctx tag none (by decide) (by decide) (fun _ h => by cases h) rfl rfl rfl

theorem objStage (ctx tag : Nat) : Statement (.objStage ctx tag) :=
  opcode_row _ 1 2 ctx tag none (by decide) (by decide) (fun _ h => by cases h) rfl rfl rfl

theorem objCommit (ctx tag : Nat) : Statement (.objCommit ctx tag) :=
  opcode_row _ 1 3 ctx tag (some 4) (by decide) (by decide) (fun _ h => by cases h; decide) rfl rfl rfl

theorem objDiscard (ctx tag : Nat) : Statement (.objDiscard ctx tag) :=
  opcode_row _ 1 4 ctx tag (some 0) (by decide) (by decide) (fun _ h => by cases h; decide) rfl rfl rfl

theorem objCreate (ctx tag : Nat) : Statement (.objCreate ctx tag) :=
  opcode_row _ 1 5 ctx tag (some 0) (by decide) (by decide) (fun _ h => by cases h; decide) rfl rfl rfl

theorem objDelete (ctx tag : Nat) : Statement (.objDelete ctx tag) :=
  opcode_row _ 1 6 ctx tag (some 0) (by decide) (by decide) (fun _ h => by cases h; decide) rfl rfl rfl

theorem objOwner (ctx tag : Nat) : Statement (.objOwner ctx tag) :=
  opcode_row _ 1 7 ctx tag (some 1) (by decide) (by decide) (fun _ h => by cases h; decide) rfl rfl rfl

theorem objList (ctx tag : Nat) : Statement (.objList ctx tag) :=
  opcode_row _ 1 8 ctx tag (some 4) (by decide) (by decide) (fun _ h => by cases h; decide) rfl rfl rfl

theorem streamOpen (ctx tag : Nat) : Statement (.streamOpen ctx tag) :=
  opcode_row _ 2 0 ctx tag (some 0) (by decide) (by decide) (fun _ h => by cases h; decide) rfl rfl rfl

theorem streamClose (ctx tag : Nat) : Statement (.streamClose ctx tag) :=
  opcode_row _ 2 1 ctx tag (some 0) (by decide) (by decide) (fun _ h => by cases h; decide) rfl rfl rfl

theorem signalRead (ctx tag : Nat) : Statement (.signalRead ctx tag) :=
  opcode_row _ 2 2 ctx tag (some 0) (by decide) (by decide) (fun _ h => by cases h; decide) rfl rfl rfl

theorem signalForce (ctx tag : Nat) : Statement (.signalForce ctx tag) :=
  opcode_row _ 2 3 ctx tag (some 8) (by decide) (by decide) (fun _ h => by cases h; decide) rfl rfl rfl

theorem signalRelease (ctx tag : Nat) : Statement (.signalRelease ctx tag) :=
  opcode_row _ 2 4 ctx tag (some 0) (by decide) (by decide) (fun _ h => by cases h; decide) rfl rfl rfl

theorem seqStart (ctx tag : Nat) : Statement (.seqStart ctx tag) :=
  opcode_row _ 3 0 ctx tag (some 0) (by decide) (by decide) (fun _ h => by cases h; decide) rfl rfl rfl

theorem seqStop (ctx tag : Nat) : Statement (.seqStop ctx tag) :=
  opcode_row _ 3 1 ctx tag (some 0) (by decide) (by decide) (fun _ h => by cases h; decide) rfl rfl rfl

theorem seqRead (ctx tag : Nat) : Statement (.seqRead ctx tag) :=
  opcode_row _ 3 2 ctx tag (some 4) (by decide) (by decide) (fun _ h => by cases h; decide) rfl rfl rfl

theorem calZero (ctx tag : Nat) : Statement (.calZero ctx tag) :=
  opcode_row _ 3 3 ctx tag (some 8) (by decide) (by decide) (fun _ h => by cases h; decide) rfl rfl rfl

theorem calSpan (ctx tag : Nat) : Statement (.calSpan ctx tag) :=
  opcode_row _ 3 4 ctx tag (some 8) (by decide) (by decide) (fun _ h => by cases h; decide) rfl rfl rfl

theorem calRead (ctx tag : Nat) : Statement (.calRead ctx tag) :=
  opcode_row _ 3 5 ctx tag (some 4) (by decide) (by decide) (fun _ h => by cases h; decide) rfl rfl rfl

theorem calWrite (ctx tag : Nat) : Statement (.calWrite ctx tag) :=
  opcode_row _ 3 6 ctx tag none (by decide) (by decide) (fun _ h => by cases h) rfl rfl rfl

theorem calCaptureDone (chan : Nat) (codes : List Nat) (clipped : Bool) : Statement (.calCaptureDone chan codes clipped) :=
  event_row _ rfl rfl

theorem calCaptureTimeout (chan : Nat) : Statement (.calCaptureTimeout chan) :=
  event_row _ rfl rfl

theorem zeroCaptureExpiry (chan range : Nat) : Statement (.zeroCaptureExpiry chan range) :=
  event_row _ rfl rfl

theorem calStoreWriteDone (mismatches : Nat) : Statement (.calStoreWriteDone mismatches) :=
  event_row _ rfl rfl

theorem pwmGroupEnable (ctx tag : Nat) : Statement (.pwmGroupEnable ctx tag) :=
  opcode_row _ 4 0 ctx tag (some 0) (by decide) (by decide) (fun _ h => by cases h; decide) rfl rfl rfl

theorem pwmGroupDisable (ctx tag : Nat) : Statement (.pwmGroupDisable ctx tag) :=
  opcode_row _ 4 1 ctx tag (some 0) (by decide) (by decide) (fun _ h => by cases h; decide) rfl rfl rfl

theorem groupSafe (ctx tag : Nat) : Statement (.groupSafe ctx tag) :=
  opcode_row _ 4 2 ctx tag (some 0) (by decide) (by decide) (fun _ h => by cases h; decide) rfl rfl rfl

theorem tripClear (ctx tag : Nat) : Statement (.tripClear ctx tag) :=
  opcode_row _ 4 3 ctx tag (some 0) (by decide) (by decide) (fun _ h => by cases h; decide) rfl rfl rfl

theorem damperMove (ctx tag : Nat) : Statement (.damperMove ctx tag) :=
  opcode_row _ 4 4 ctx tag (some 8) (by decide) (by decide) (fun _ h => by cases h; decide) rfl rfl rfl

theorem damperRehome (ctx tag : Nat) : Statement (.damperRehome ctx tag) :=
  opcode_row _ 4 5 ctx tag (some 4) (by decide) (by decide) (fun _ h => by cases h; decide) rfl rfl rfl

theorem valveSet (ctx tag : Nat) : Statement (.valveSet ctx tag) :=
  opcode_row _ 4 6 ctx tag (some 4) (by decide) (by decide) (fun _ h => by cases h; decide) rfl rfl rfl

theorem fanSet (ctx tag : Nat) : Statement (.fanSet ctx tag) :=
  opcode_row _ 4 7 ctx tag (some 4) (by decide) (by decide) (fun _ h => by cases h; decide) rfl rfl rfl

theorem actFaultClear (ctx tag : Nat) : Statement (.actFaultClear ctx tag) :=
  opcode_row _ 4 8 ctx tag (some 0) (by decide) (by decide) (fun _ h => by cases h; decide) rfl rfl rfl

theorem loopEnable (ctx tag : Nat) : Statement (.loopEnable ctx tag) :=
  opcode_row _ 5 0 ctx tag (some 0) (by decide) (by decide) (fun _ h => by cases h; decide) rfl rfl rfl

theorem loopDisable (ctx tag : Nat) : Statement (.loopDisable ctx tag) :=
  opcode_row _ 5 1 ctx tag (some 0) (by decide) (by decide) (fun _ h => by cases h; decide) rfl rfl rfl

theorem bankSwap (ctx tag : Nat) : Statement (.bankSwap ctx tag) :=
  opcode_row _ 5 2 ctx tag (some 4) (by decide) (by decide) (fun _ h => by cases h; decide) rfl rfl rfl

theorem loopStatus (ctx tag : Nat) : Statement (.loopStatus ctx tag) :=
  opcode_row _ 5 3 ctx tag (some 0) (by decide) (by decide) (fun _ h => by cases h; decide) rfl rfl rfl

theorem integratorPreset (ctx tag : Nat) : Statement (.integratorPreset ctx tag) :=
  opcode_row _ 5 4 ctx tag (some 8) (by decide) (by decide) (fun _ h => by cases h; decide) rfl rfl rfl

theorem satClear (ctx tag : Nat) : Statement (.satClear ctx tag) :=
  opcode_row _ 5 5 ctx tag (some 0) (by decide) (by decide) (fun _ h => by cases h; decide) rfl rfl rfl

theorem zoneStatus (ctx tag : Nat) : Statement (.zoneStatus ctx tag) :=
  opcode_row _ 6 0 ctx tag (some 0) (by decide) (by decide) (fun _ h => by cases h; decide) rfl rfl rfl

theorem fitEnable (ctx tag : Nat) : Statement (.fitEnable ctx tag) :=
  opcode_row _ 6 1 ctx tag (some 0) (by decide) (by decide) (fun _ h => by cases h; decide) rfl rfl rfl

theorem fitDisable (ctx tag : Nat) : Statement (.fitDisable ctx tag) :=
  opcode_row _ 6 2 ctx tag (some 0) (by decide) (by decide) (fun _ h => by cases h; decide) rfl rfl rfl

theorem suspectOverride (ctx tag : Nat) : Statement (.suspectOverride ctx tag) :=
  opcode_row _ 6 3 ctx tag (some 4) (by decide) (by decide) (fun _ h => by cases h; decide) rfl rfl rfl

theorem presenceRead (ctx tag : Nat) : Statement (.presenceRead ctx tag) :=
  opcode_row _ 6 4 ctx tag (some 0) (by decide) (by decide) (fun _ h => by cases h; decide) rfl rfl rfl

theorem predictStart (ctx tag : Nat) : Statement (.predictStart ctx tag) :=
  opcode_row _ 6 5 ctx tag (some 8) (by decide) (by decide) (fun _ h => by cases h; decide) rfl rfl rfl

theorem timeCapture (ctx tag : Nat) : Statement (.timeCapture ctx tag) :=
  opcode_row _ 7 0 ctx tag (some 0) (by decide) (by decide) (fun _ h => by cases h; decide) rfl rfl rfl

theorem timeSet (ctx tag : Nat) : Statement (.timeSet ctx tag) :=
  opcode_row _ 7 1 ctx tag (some 12) (by decide) (by decide) (fun _ h => by cases h; decide) rfl rfl rfl

theorem calendarSet (ctx tag : Nat) : Statement (.calendarSet ctx tag) :=
  opcode_row _ 7 2 ctx tag none (by decide) (by decide) (fun _ h => by cases h) rfl rfl rfl

theorem wakeSet (ctx tag : Nat) : Statement (.wakeSet ctx tag) :=
  opcode_row _ 7 3 ctx tag (some 8) (by decide) (by decide) (fun _ h => by cases h; decide) rfl rfl rfl

theorem alarmSet (ctx tag : Nat) : Statement (.alarmSet ctx tag) :=
  opcode_row _ 7 4 ctx tag (some 8) (by decide) (by decide) (fun _ h => by cases h; decide) rfl rfl rfl

theorem ephemerisRead (ctx tag : Nat) : Statement (.ephemerisRead ctx tag) :=
  opcode_row _ 7 5 ctx tag (some 4) (by decide) (by decide) (fun _ h => by cases h; decide) rfl rfl rfl

theorem ephemerisWrite (ctx tag : Nat) : Statement (.ephemerisWrite ctx tag) :=
  opcode_row _ 7 6 ctx tag (some 52) (by decide) (by decide) (fun _ h => by cases h; decide) rfl rfl rfl

theorem ephemerisFlashDone (ok : Bool) : Statement (.ephemerisFlashDone ok) :=
  event_row _ rfl rfl

theorem scheduleStatus (ctx tag : Nat) : Statement (.scheduleStatus ctx tag) :=
  opcode_row _ 7 7 ctx tag (some 4) (by decide) (by decide) (fun _ h => by cases h; decide) rfl rfl rfl

theorem linkStatus (ctx tag : Nat) : Statement (.linkStatus ctx tag) :=
  opcode_row _ 8 0 ctx tag (some 0) (by decide) (by decide) (fun _ h => by cases h; decide) rfl rfl rfl

theorem linkRetrain (ctx tag : Nat) : Statement (.linkRetrain ctx tag) :=
  opcode_row _ 8 1 ctx tag (some 0) (by decide) (by decide) (fun _ h => by cases h; decide) rfl rfl rfl

theorem linkRetrainDone (link : Nat) : Statement (.linkRetrainDone link) :=
  event_row _ rfl rfl

theorem topologyRead (ctx tag : Nat) : Statement (.topologyRead ctx tag) :=
  opcode_row _ 8 2 ctx tag (some 4) (by decide) (by decide) (fun _ h => by cases h; decide) rfl rfl rfl

theorem routeStatus (ctx tag : Nat) : Statement (.routeStatus ctx tag) :=
  opcode_row _ 8 3 ctx tag (some 0) (by decide) (by decide) (fun _ h => by cases h; decide) rfl rfl rfl

theorem bellwetherStatus (ctx tag : Nat) : Statement (.bellwetherStatus ctx tag) :=
  opcode_row _ 8 4 ctx tag (some 0) (by decide) (by decide) (fun _ h => by cases h; decide) rfl rfl rfl

theorem policeCounters (ctx tag : Nat) : Statement (.policeCounters ctx tag) :=
  opcode_row _ 8 5 ctx tag (some 4) (by decide) (by decide) (fun _ h => by cases h; decide) rfl rfl rfl

theorem canStart (ctx tag : Nat) : Statement (.canStart ctx tag) :=
  opcode_row _ 9 0 ctx tag (some 0) (by decide) (by decide) (fun _ h => by cases h; decide) rfl rfl rfl

theorem canStop (ctx tag : Nat) : Statement (.canStop ctx tag) :=
  opcode_row _ 9 1 ctx tag (some 0) (by decide) (by decide) (fun _ h => by cases h; decide) rfl rfl rfl

theorem canSend (ctx tag : Nat) : Statement (.canSend ctx tag) :=
  opcode_row _ 9 2 ctx tag none (by decide) (by decide) (fun _ h => by cases h) rfl rfl rfl

theorem canCancel (ctx tag : Nat) : Statement (.canCancel ctx tag) :=
  opcode_row _ 9 3 ctx tag (some 4) (by decide) (by decide) (fun _ h => by cases h; decide) rfl rfl rfl

theorem canStatus (ctx tag : Nat) : Statement (.canStatus ctx tag) :=
  opcode_row _ 9 4 ctx tag (some 0) (by decide) (by decide) (fun _ h => by cases h; decide) rfl rfl rfl

theorem canTimeMaster (ctx tag : Nat) : Statement (.canTimeMaster ctx tag) :=
  opcode_row _ 9 5 ctx tag (some 4) (by decide) (by decide) (fun _ h => by cases h; decide) rfl rfl rfl

theorem panelPower (ctx tag : Nat) : Statement (.panelPower ctx tag) :=
  opcode_row _ 10 0 ctx tag (some 4) (by decide) (by decide) (fun _ h => by cases h; decide) rfl rfl rfl

theorem regionUpdate (ctx tag : Nat) : Statement (.regionUpdate ctx tag) :=
  opcode_row _ 10 1 ctx tag none (by decide) (by decide) (fun _ h => by cases h) rfl rfl rfl

theorem regionClear (ctx tag : Nat) : Statement (.regionClear ctx tag) :=
  opcode_row _ 10 2 ctx tag none (by decide) (by decide) (fun _ h => by cases h) rfl rfl rfl

theorem panelStatus (ctx tag : Nat) : Statement (.panelStatus ctx tag) :=
  opcode_row _ 10 3 ctx tag (some 0) (by decide) (by decide) (fun _ h => by cases h; decide) rfl rfl rfl

theorem ledgerSweep (ctx tag : Nat) : Statement (.ledgerSweep ctx tag) :=
  opcode_row _ 10 4 ctx tag (some 4) (by decide) (by decide) (fun _ h => by cases h; decide) rfl rfl rfl

theorem fieldRefresh (ctx tag : Nat) : Statement (.fieldRefresh ctx tag) :=
  opcode_row _ 10 5 ctx tag (some 4) (by decide) (by decide) (fun _ h => by cases h; decide) rfl rfl rfl

theorem powerStatus (ctx tag : Nat) : Statement (.powerStatus ctx tag) :=
  opcode_row _ 11 0 ctx tag (some 0) (by decide) (by decide) (fun _ h => by cases h; decide) rfl rfl rfl

theorem thermalStatus (ctx tag : Nat) : Statement (.thermalStatus ctx tag) :=
  opcode_row _ 11 1 ctx tag (some 0) (by decide) (by decide) (fun _ h => by cases h; decide) rfl rfl rfl

theorem reset (ctx tag : Nat) : Statement (.reset ctx tag) :=
  opcode_row _ 11 2 ctx tag (some 4) (by decide) (by decide) (fun _ h => by cases h; decide) rfl rfl rfl

theorem resetDelayExpiry : Statement .resetDelayExpiry :=
  event_row _ rfl rfl

theorem resetCauseRead (ctx tag : Nat) : Statement (.resetCauseRead ctx tag) :=
  opcode_row _ 11 3 ctx tag (some 0) (by decide) (by decide) (fun _ h => by cases h; decide) rfl rfl rfl

theorem budgetSet (ctx tag : Nat) : Statement (.budgetSet ctx tag) :=
  opcode_row _ 11 4 ctx tag none (by decide) (by decide) (fun _ h => by cases h) rfl rfl rfl

theorem fwInfo (ctx tag : Nat) : Statement (.fwInfo ctx tag) :=
  opcode_row _ 12 0 ctx tag (some 0) (by decide) (by decide) (fun _ h => by cases h; decide) rfl rfl rfl

theorem fwWrite (ctx tag : Nat) : Statement (.fwWrite ctx tag) :=
  opcode_row _ 12 1 ctx tag none (by decide) (by decide) (fun _ h => by cases h) rfl rfl rfl

theorem fwCommit (ctx tag : Nat) : Statement (.fwCommit ctx tag) :=
  opcode_row _ 12 2 ctx tag (some 4) (by decide) (by decide) (fun _ h => by cases h; decide) rfl rfl rfl

theorem fwCommitDone (mismatches : Nat) : Statement (.fwCommitDone mismatches) :=
  event_row _ rfl rfl

theorem fwSelect (ctx tag : Nat) : Statement (.fwSelect ctx tag) :=
  opcode_row _ 12 3 ctx tag (some 4) (by decide) (by decide) (fun _ h => by cases h; decide) rfl rfl rfl

theorem yelistWrite (ctx tag : Nat) : Statement (.yelistWrite ctx tag) :=
  opcode_row _ 12 4 ctx tag none (by decide) (by decide) (fun _ h => by cases h) rfl rfl rfl

theorem yelistLoad (ctx tag : Nat) : Statement (.yelistLoad ctx tag) :=
  opcode_row _ 12 5 ctx tag (some 4) (by decide) (by decide) (fun _ h => by cases h; decide) rfl rfl rfl

theorem yelistLoadDone (panelsIdle : Bool) (flashError : Bool) : Statement (.yelistLoadDone panelsIdle flashError) :=
  event_row _ rfl rfl

theorem identityRead (ctx tag : Nat) : Statement (.identityRead ctx tag) :=
  opcode_row _ 12 6 ctx tag (some 0) (by decide) (by decide) (fun _ h => by cases h; decide) rfl rfl rfl

theorem eventRoute (ctx tag : Nat) : Statement (.eventRoute ctx tag) :=
  opcode_row _ 13 0 ctx tag (some 4) (by decide) (by decide) (fun _ h => by cases h; decide) rfl rfl rfl

theorem eventMask (ctx tag : Nat) : Statement (.eventMask ctx tag) :=
  opcode_row _ 13 1 ctx tag (some 4) (by decide) (by decide) (fun _ h => by cases h; decide) rfl rfl rfl

theorem eventRead (ctx tag : Nat) : Statement (.eventRead ctx tag) :=
  opcode_row _ 13 2 ctx tag (some 4) (by decide) (by decide) (fun _ h => by cases h; decide) rfl rfl rfl

theorem queueConfig (ctx tag : Nat) : Statement (.queueConfig ctx tag) :=
  opcode_row _ 13 3 ctx tag (some 12) (by decide) (by decide) (fun _ h => by cases h; decide) rfl rfl rfl

theorem queueStatus (ctx tag : Nat) : Statement (.queueStatus ctx tag) :=
  opcode_row _ 13 4 ctx tag (some 0) (by decide) (by decide) (fun _ h => by cases h; decide) rfl rfl rfl

theorem coalesceSet (ctx tag : Nat) : Statement (.coalesceSet ctx tag) :=
  opcode_row _ 13 5 ctx tag (some 4) (by decide) (by decide) (fun _ h => by cases h; decide) rfl rfl rfl

theorem logRead (ctx tag : Nat) : Statement (.logRead ctx tag) :=
  opcode_row _ 14 0 ctx tag (some 8) (by decide) (by decide) (fun _ h => by cases h; decide) rfl rfl rfl

theorem logClear (ctx tag : Nat) : Statement (.logClear ctx tag) :=
  opcode_row _ 14 1 ctx tag (some 0) (by decide) (by decide) (fun _ h => by cases h; decide) rfl rfl rfl

theorem countersRead (ctx tag : Nat) : Statement (.countersRead ctx tag) :=
  opcode_row _ 14 2 ctx tag (some 0) (by decide) (by decide) (fun _ h => by cases h; decide) rfl rfl rfl

theorem selftest (ctx tag : Nat) : Statement (.selftest ctx tag) :=
  opcode_row _ 14 3 ctx tag (some 4) (by decide) (by decide) (fun _ h => by cases h; decide) rfl rfl rfl

theorem selftestDone (pass fail stores : Nat) : Statement (.selftestDone pass fail stores) :=
  event_row _ rfl rfl

theorem sheepdogStatus (ctx tag : Nat) : Statement (.sheepdogStatus ctx tag) :=
  opcode_row _ 14 4 ctx tag (some 0) (by decide) (by decide) (fun _ h => by cases h; decide) rfl rfl rfl

theorem commandFetch (ctx : Nat) : Statement (.commandFetch ctx) :=
  event_row _ rfl rfl

theorem deadlineExpiry (ctx tag : Nat) : Statement (.deadlineExpiry ctx tag) :=
  event_row _ rfl rfl

theorem deliveryRecordWrite (event : Nat) : Statement (.deliveryRecordWrite event) :=
  event_row _ rfl rfl

theorem coalTimeExpiry (queue : Nat) : Statement (.coalTimeExpiry queue) :=
  event_row _ rfl rfl

theorem regRead (addr len : Nat) : Statement (.regRead addr len) :=
  event_row _ rfl rfl

theorem regWrite (addr : Nat) (data : List Byte) (crc : Nat) : Statement (.regWrite addr data crc) :=
  event_row _ rfl rfl

theorem regReadQ (addr len : Nat) : Statement (.regReadQ addr len) :=
  event_row _ rfl rfl

theorem regWriteQ (addr : Nat) (data : List Byte) (crc : Nat) : Statement (.regWriteQ addr data crc) :=
  event_row _ rfl rfl

theorem ringRead (addr len : Nat) : Statement (.ringRead addr len) :=
  event_row _ rfl rfl

theorem ringWrite (addr : Nat) (data : List Byte) (crc : Nat) : Statement (.ringWrite addr data crc) :=
  event_row _ rfl rfl

theorem ringReadQ (addr len : Nat) : Statement (.ringReadQ addr len) :=
  event_row _ rfl rfl

theorem ringWriteQ (addr : Nat) (data : List Byte) (crc : Nat) : Statement (.ringWriteQ addr data crc) :=
  event_row _ rfl rfl

theorem hifWriteApply : Statement .hifWriteApply :=
  event_row _ rfl rfl

theorem hifEvtAck (event : Nat) : Statement (.hifEvtAck event) :=
  event_row _ rfl rfl

theorem doorbell (queue index : Nat) : Statement (.doorbell queue index) :=
  event_row _ rfl rfl

theorem hifBind (hctx value : Nat) : Statement (.hifBind hctx value) :=
  event_row _ rfl rfl

theorem hifErrcntRestart (first : Nat) (data : List Byte) : Statement (.hifErrcntRestart first data) :=
  event_row _ rfl rfl

theorem rtcTimeRead (port : PortSide) (index : Nat) : Statement (.rtcTimeRead port index) :=
  event_row _ rfl rfl

theorem rtcShadowTimeout (port : PortSide) : Statement (.rtcShadowTimeout port) :=
  event_row _ rfl rfl

theorem rtcSecStage (port : PortSide) (index : Nat) (value : Byte) : Statement (.rtcSecStage port index value) :=
  event_row _ rfl rfl

theorem rtcSec4Commit (port : PortSide) (value : Byte) : Statement (.rtcSec4Commit port value) :=
  event_row _ rfl rfl

theorem pwrOnAssert (port : PortSide) : Statement (.pwrOnAssert port) :=
  event_row _ rfl rfl

theorem pwrOnRelease (port : PortSide) : Statement (.pwrOnRelease port) :=
  event_row _ rfl rfl

theorem registerWrite (port : PortSide) (addr : Nat) (value : Byte) : Statement (.registerWrite port addr value) :=
  event_row _ rfl rfl

theorem id : Statement .id :=
  event_row _ rfl rfl

theorem status : Statement .status :=
  event_row _ rfl rfl

theorem resetMain (pec : Option Byte) : Statement (.resetMain pec) :=
  event_row _ rfl rfl

theorem holdMain (pec : Option Byte) : Statement (.holdMain pec) :=
  event_row _ rfl rfl

theorem releaseMain (pec : Option Byte) : Statement (.releaseMain pec) :=
  event_row _ rfl rfl

theorem safeAll (pec : Option Byte) : Statement (.safeAll pec) :=
  event_row _ rfl rfl

theorem mgtRegRead (addr n : Nat) : Statement (.mgtRegRead addr n) :=
  event_row _ rfl rfl

theorem mgtRegWrite (addr : Nat) (data : List Byte) (pec : Option Byte) : Statement (.mgtRegWrite addr data pec) :=
  event_row _ rfl rfl

theorem mgtSafeHold (group : Nat) : Statement (.mgtSafeHold group) :=
  event_row _ rfl rfl

theorem mgtSafeRelease (group : Nat) : Statement (.mgtSafeRelease group) :=
  event_row _ rfl rfl

theorem pktWrite (flags : Byte) (data : List Byte) (pec : Option Byte) : Statement (.pktWrite flags data pec) :=
  event_row _ rfl rfl

theorem pktRead : Statement .pktRead :=
  event_row _ rfl rfl

theorem pktReread : Statement .pktReread :=
  event_row _ rfl rfl

theorem alertRead : Statement .alertRead :=
  event_row _ rfl rfl

theorem alertClear (data : List Byte) (pec : Option Byte) : Statement (.alertClear data pec) :=
  event_row _ rfl rfl

theorem alertResponse : Statement .alertResponse :=
  event_row _ rfl rfl

theorem smbusTimeout : Statement .smbusTimeout :=
  event_row _ rfl rfl

theorem alwaysOnPorExit (vsysR vact : Nat) (ft : Bool) : Statement (.alwaysOnPorExit vsysR vact ft) :=
  event_row _ rfl rfl

theorem alwaysOnPorEntry (vsysR vact : Nat) : Statement (.alwaysOnPorEntry vsysR vact) :=
  event_row _ rfl rfl

theorem vsysLow (vsysR : Nat) : Statement (.vsysLow vsysR) :=
  event_row _ rfl rfl

theorem powerFail (vsysR : Nat) : Statement (.powerFail vsysR) :=
  event_row _ rfl rfl

theorem vactLow (vact : Nat) : Statement (.vactLow vact) :=
  event_row _ rfl rfl

theorem vactShed (vact : Nat) : Statement (.vactShed vact) :=
  event_row _ rfl rfl

theorem vactRestore (vact : Nat) : Statement (.vactRestore vact) :=
  event_row _ rfl rfl

theorem vactSwitchTrip : Statement .vactSwitchTrip :=
  event_row _ rfl rfl

theorem vactSwitchRetry : Statement .vactSwitchRetry :=
  event_row _ rfl rfl

theorem hotswapCharged (vsysR : Nat) (ac : Option Bool) : Statement (.hotswapCharged vsysR ac) :=
  event_row _ rfl rfl

theorem hotswapFault (peak : Nat) : Statement (.hotswapFault peak) :=
  event_row _ rfl rfl

theorem hotswapFastTrip (peak : Nat) : Statement (.hotswapFastTrip peak) :=
  event_row _ rfl rfl

theorem hotswapRetry : Statement .hotswapRetry :=
  event_row _ rfl rfl

theorem backupDomainReset : Statement .backupDomainReset :=
  event_row _ rfl rfl

theorem hresetAssert : Statement .hresetAssert :=
  event_row _ rfl rfl

theorem hresetRelease : Statement .hresetRelease :=
  event_row _ rfl rfl

theorem debugReset : Statement .debugReset :=
  event_row _ rfl rfl

theorem debugHalt : Statement .debugHalt :=
  event_row _ rfl rfl

theorem debugHaltRelease : Statement .debugHaltRelease :=
  event_row _ rfl rfl

theorem boot (vbat bootMs : Nat) (boot0 boot1 : Bool) : Statement (.boot vbat bootMs boot0 boot1) :=
  event_row _ rfl rfl

theorem refStop : Statement .refStop :=
  event_row _ rfl rfl

theorem refRestart : Statement .refRestart :=
  event_row _ rfl rfl

theorem syncInPulse : Statement .syncInPulse :=
  event_row _ rfl rfl

theorem periodBoundary (group : Nat) : Statement (.periodBoundary group) :=
  event_row _ rfl rfl

theorem delayLineCalibration (failed : List Nat) : Statement (.delayLineCalibration failed) :=
  event_row _ rfl rfl

theorem haltHoldExpiry (group : Nat) : Statement (.haltHoldExpiry group) :=
  event_row _ rfl rfl

theorem overcurrentTrip (port : Nat) : Statement (.overcurrentTrip port) :=
  event_row _ rfl rfl

theorem protectEntry (port : Nat) (high low : Bool) : Statement (.protectEntry port high low) :=
  event_row _ rfl rfl

theorem protectExit (port : Nat) : Statement (.protectExit port) :=
  event_row _ rfl rfl

theorem retryFault (port : Nat) (kind : RetryKind) : Statement (.retryFault port kind) :=
  event_row _ rfl rfl

theorem overloadAverageUpdate (port current : Nat) : Statement (.overloadAverageUpdate port current) :=
  event_row _ rfl rfl

theorem retryExpiry (port : Nat) : Statement (.retryExpiry port) :=
  event_row _ rfl rfl

theorem settlingExpiry (port : Nat) : Statement (.settlingExpiry port) :=
  event_row _ rfl rfl

theorem dinEdge (port : Nat) (termB : Bool) (mv : Int) : Statement (.dinEdge port termB mv) :=
  event_row _ rfl rfl

theorem debounceExpiry (port : Nat) (termB : Bool) : Statement (.debounceExpiry port termB) :=
  event_row _ rfl rfl

theorem sbusPoll (port : Nat) (reads : List (Option (List Byte))) : Statement (.sbusPoll port reads) :=
  event_row _ rfl rfl

theorem sbusStuck (port : Nat) : Statement (.sbusStuck port) :=
  event_row _ rfl rfl

theorem pyroSettleExpiry (port : Nat) : Statement (.pyroSettleExpiry port) :=
  event_row _ rfl rfl

theorem outputSourceCheck (port : Nat) : Statement (.outputSourceCheck port) :=
  event_row _ rfl rfl

theorem seqPassDue (head : Nat) : Statement (.seqPassDue head) :=
  event_row _ rfl rfl

theorem seqPassStart (head : Nat) : Statement (.seqPassStart head) :=
  event_row _ rfl rfl

theorem conversionResult (entry : Nat) (codes : List Nat) (high low : Bool) (ripple : Int × Int) (skew : List (Nat × Int)) : Statement (.conversionResult entry codes high low ripple skew) :=
  event_row _ rfl rfl

theorem seqPassEnd (head : Nat) : Statement (.seqPassEnd head) :=
  event_row _ rfl rfl

theorem equalisation (slice ref zero : Nat) : Statement (.equalisation slice ref zero) :=
  event_row _ rfl rfl

theorem housekeeping (chan code : Nat) : Statement (.housekeeping chan code) :=
  event_row _ rfl rfl

theorem rippleLost (port : Nat) : Statement (.rippleLost port) :=
  event_row _ rfl rfl

theorem endstopTouch (port : Nat) : Statement (.endstopTouch port) :=
  event_row _ rfl rfl

theorem damperMoveEnd (port : Nat) : Statement (.damperMoveEnd port) :=
  event_row _ rfl rfl

theorem dwellExpiry (port : Nat) : Statement (.dwellExpiry port) :=
  event_row _ rfl rfl

theorem damperOpenLoad (port : Nat) : Statement (.damperOpenLoad port) :=
  event_row _ rfl rfl

theorem maxRunExpiry (port : Nat) : Statement (.maxRunExpiry port) :=
  event_row _ rfl rfl

theorem rehomeIntExpiry (port : Nat) : Statement (.rehomeIntExpiry port) :=
  event_row _ rfl rfl

theorem damperTargetChange (port : Nat) : Statement (.damperTargetChange port) :=
  event_row _ rfl rfl

theorem positionWrite (port : Nat) : Statement (.positionWrite port) :=
  event_row _ rfl rfl

theorem boostExpiry (port : Nat) : Statement (.boostExpiry port) :=
  event_row _ rfl rfl

theorem valveOpenLoad (port : Nat) : Statement (.valveOpenLoad port) :=
  event_row _ rfl rfl

theorem floatingValveDriveEnd (port : Nat) : Statement (.floatingValveDriveEnd port) :=
  event_row _ rfl rfl

theorem spinupWindowEnd (port : Nat) : Statement (.spinupWindowEnd port) :=
  event_row _ rfl rfl

theorem gapEnd (port : Nat) : Statement (.gapEnd port) :=
  event_row _ rfl rfl

theorem tachEdge (port : Nat) : Statement (.tachEdge port) :=
  event_row _ rfl rfl

theorem tachLost (port : Nat) : Statement (.tachLost port) :=
  event_row _ rfl rfl

theorem actuatorSourceCheck (port : Nat) : Statement (.actuatorSourceCheck port) :=
  event_row _ rfl rfl

theorem fanWatchdog : Statement .fanWatchdog :=
  event_row _ rfl rfl

theorem slotSourceCheck (port : Nat) : Statement (.slotSourceCheck port) :=
  event_row _ rfl rfl

theorem loopTrigger (loop : Nat) : Statement (.loopTrigger loop) :=
  event_row _ rfl rfl

theorem loopEvaluation (work : Nat × Nat) : Statement (.loopEvaluation work) :=
  event_row _ rfl rfl

theorem starved (loop : Nat) : Statement (.starved loop) :=
  event_row _ rfl rfl

theorem satAlarm (loop : Nat) : Statement (.satAlarm loop) :=
  event_row _ rfl rfl

theorem zoneUpdate (zone : Nat) : Statement (.zoneUpdate zone) :=
  event_row _ rfl rfl

theorem reinitTimeout (zone : Nat) : Statement (.reinitTimeout zone) :=
  event_row _ rfl rfl

theorem suspendExpiry (zone : Nat) : Statement (.suspendExpiry zone) :=
  event_row _ rfl rfl

theorem prediction : Statement .prediction :=
  event_row _ rfl rfl

theorem presenceEvidence (zone source : Nat) : Statement (.presenceEvidence zone source) :=
  event_row _ rfl rfl

theorem holdExpiry (zone : Nat) : Statement (.holdExpiry zone) :=
  event_row _ rfl rfl

theorem presSidRefresh (zone : Nat) : Statement (.presSidRefresh zone) :=
  event_row _ rfl rfl

theorem alarm : Statement .alarm :=
  event_row _ rfl rfl

theorem wake : Statement .wake :=
  event_row _ rfl rfl

theorem trimInterval (temp : Int) : Statement (.trimInterval temp) :=
  event_row _ rfl rfl

theorem scheduleEvaluation : Statement .scheduleEvaluation :=
  event_row _ rfl rfl

theorem optimalStartCheck (zone : Nat) : Statement (.optimalStartCheck zone) :=
  event_row _ rfl rfl

theorem earlyStart (zone : Nat) : Statement (.earlyStart zone) :=
  event_row _ rfl rfl

theorem linkSignalDetected (link : Nat) : Statement (.linkSignalDetected link) :=
  event_row _ rfl rfl

theorem phyLinkEstablished (link level : Nat) : Statement (.phyLinkEstablished link level) :=
  event_row _ rfl rfl

theorem trainingTimeout (link : Nat) : Statement (.trainingTimeout link) :=
  event_row _ rfl rfl

theorem version (link minVer maxVer : Nat) : Statement (.version link minVer maxVer) :=
  event_row _ rfl rfl

theorem ident (link : Nat) (body : IdentBody) : Statement (.ident link body) :=
  event_row _ rfl rfl

theorem linkFrameResend (link : Nat) : Statement (.linkFrameResend link) :=
  event_row _ rfl rfl

theorem isolatedRenegotiate (link : Nat) : Statement (.isolatedRenegotiate link) :=
  event_row _ rfl rfl

theorem hello (link : Nat) : Statement (.hello link) :=
  event_row _ rfl rfl

theorem helloSend (link : Nat) : Statement (.helloSend link) :=
  event_row _ rfl rfl

theorem helloTimeout (link : Nat) : Statement (.helloTimeout link) :=
  event_row _ rfl rfl

theorem phyLinkLoss (link : Nat) : Statement (.phyLinkLoss link) :=
  event_row _ rfl rfl

theorem lsa (link : Nat) (ack : Bool) (body : LsaBody) : Statement (.lsa link ack body) :=
  event_row _ rfl rfl

theorem lsaRefresh : Statement .lsaRefresh :=
  event_row _ rfl rfl

theorem lsaResend (link uid : Nat) : Statement (.lsaResend link uid) :=
  event_row _ rfl rfl

theorem lsaAgeout (uid : Nat) : Statement (.lsaAgeout uid) :=
  event_row _ rfl rfl

theorem addrReq (link uid : Nat) (requested persisted : Option Nat) : Statement (.addrReq link uid requested persisted) :=
  event_row _ rfl rfl

theorem addrGrant (link uid addr : Nat) : Statement (.addrGrant link uid addr) :=
  event_row _ rfl rfl

theorem addressPersistDone : Statement .addressPersistDone :=
  event_row _ rfl rfl

theorem frameForward (link : Nat) (frame : List Byte) (fcsOk : Bool) : Statement (.frameForward link frame fcsOk) :=
  event_row _ rfl rfl

theorem timeSend (link : Nat) : Statement (.timeSend link) :=
  event_row _ rfl rfl

theorem time (link : Nat) (body : TimeBody) : Statement (.time link body) :=
  event_row _ rfl rfl

theorem pdelay (link delayNs : Nat) : Statement (.pdelay link delayNs) :=
  event_row _ rfl rfl

theorem upstreamTimeout : Statement .upstreamTimeout :=
  event_row _ rfl rfl

theorem bellwetherSteer : Statement .bellwetherSteer :=
  event_row _ rfl rfl

theorem followerRtcCheck : Statement .followerRtcCheck :=
  event_row _ rfl rfl

theorem signal (link src cls : Nat) (payload : List Byte) : Statement (.signal link src cls payload) :=
  event_row _ rfl rfl

theorem exportFrame (node stream : Nat) : Statement (.exportFrame node stream) :=
  event_row _ rfl rfl

theorem subscribe (link : Nat) (body : SubscribeBody) : Statement (.subscribe link body) :=
  event_row _ rfl rfl

theorem accept (src stream : Nat) : Statement (.accept src stream) :=
  event_row _ rfl rfl

theorem refuse (src stream reason : Nat) : Statement (.refuse src stream reason) :=
  event_row _ rfl rfl

theorem unsubscribe (src stream : Nat) : Statement (.unsubscribe src stream) :=
  event_row _ rfl rfl

theorem subscribeRetry (stream : Nat) : Statement (.subscribeRetry stream) :=
  event_row _ rfl rfl

theorem subscriptionDrop (node stream : Nat) : Statement (.subscriptionDrop node stream) :=
  event_row _ rfl rfl

theorem hostStreamRecord (stream : Nat) : Statement (.hostStreamRecord stream) :=
  event_row _ rfl rfl

theorem phiveox (link src token cls : Nat) (packet : List Byte) : Statement (.phiveox link src token cls packet) :=
  event_row _ rfl rfl

theorem remoteSessionTimeout (ctx : Nat) : Statement (.remoteSessionTimeout ctx) :=
  event_row _ rfl rfl

theorem canArbitrationStart (ctl : Nat) (won : Bool) : Statement (.canArbitrationStart ctl won) :=
  event_row _ rfl rfl

theorem txDone (ctl : Nat) : Statement (.txDone ctl) :=
  event_row _ rfl rfl

theorem canFrameReceived (ctl : Nat) (frame : CanFrame) : Statement (.canFrameReceived ctl frame) :=
  event_row _ rfl rfl

theorem canErrorFrame (ctl errType : Nat) (dataPhase : Bool) (id : Nat) (tec recv : Nat) : Statement (.canErrorFrame ctl errType dataPhase id tec recv) :=
  event_row _ rfl rfl

theorem busOffRecovered (ctl : Nat) : Statement (.busOffRecovered ctl) :=
  event_row _ rfl rfl

theorem domTimeout (ctl : Nat) : Statement (.domTimeout ctl) :=
  event_row _ rfl rfl

theorem wup (ctl : Nat) : Statement (.wup ctl) :=
  event_row _ rfl rfl

theorem referenceMessage (ctl prio cycle : Nat) : Statement (.referenceMessage ctl prio cycle) :=
  event_row _ rfl rfl

theorem referenceDue (ctl : Nat) (won : Bool) : Statement (.referenceDue ctl won) :=
  event_row _ rfl rfl

theorem windowStart (ctl : Nat) (busIdle : Bool) : Statement (.windowStart ctl busIdle) :=
  event_row _ rfl rfl

theorem s2Timeout (ctl : Nat) : Statement (.s2Timeout ctl) :=
  event_row _ rfl rfl

theorem noWindow (ctl ctx tag : Nat) : Statement (.noWindow ctl ctx tag) :=
  event_row _ rfl rfl

theorem txobjPeriod (ctl obj : Nat) : Statement (.txobjPeriod ctl obj) :=
  event_row _ rfl rfl

theorem txobjSlotChange (ctl obj : Nat) : Statement (.txobjSlotChange ctl obj) :=
  event_row _ rfl rfl

theorem panelFrameBoundary (panel : Nat) (late : Bool) : Statement (.panelFrameBoundary panel late) :=
  event_row _ rfl rfl

theorem railStep (panel : Nat) : Statement (.railStep panel) :=
  event_row _ rfl rfl

theorem railFault (panel notGood : Nat) (riseTimeout : Bool) : Statement (.railFault panel notGood riseTimeout) :=
  event_row _ rfl rfl

theorem railIdleExpiry (panel : Nat) : Statement (.railIdleExpiry panel) :=
  event_row _ rfl rfl

theorem regionSnapshot (panel : Nat) : Statement (.regionSnapshot panel) :=
  event_row _ rfl rfl

theorem bandEvaluation (panel : Nat) : Statement (.bandEvaluation panel) :=
  event_row _ rfl rfl

theorem sweepTile (panel : Nat) : Statement (.sweepTile panel) :=
  event_row _ rfl rfl

theorem compositorRead : Statement .compositorRead :=
  event_row _ rfl rfl

theorem thermalUpdate (power sites : List Int) : Statement (.thermalUpdate power sites) :=
  event_row _ rfl rfl

theorem throttleStepTaken : Statement .throttleStepTaken :=
  event_row _ rfl rfl

theorem throttleStepUndone : Statement .throttleStepUndone :=
  event_row _ rfl rfl

theorem shutdownRelease : Statement .shutdownRelease :=
  event_row _ rfl rfl

theorem coreDog (core : Nat) (rerun : Option (Nat × Nat)) : Statement (.coreDog core rerun) :=
  event_row _ rfl rfl

theorem engineDog (dog : Nat) : Statement (.engineDog dog) :=
  event_row _ rfl rfl

theorem foldDog (dram : Bool) (port : Nat) (hand : Option (Nat × Nat)) : Statement (.foldDog dram port hand) :=
  event_row _ rfl rfl

theorem mainDog (core : Nat) : Statement (.mainDog core) :=
  event_row _ rfl rfl

theorem bootDog : Statement .bootDog :=
  event_row _ rfl rfl

theorem memoryEcc (mem addr : Nat) (single : Bool) : Statement (.memoryEcc mem addr single) :=
  event_row _ rfl rfl

theorem shepherdDog : Statement .shepherdDog :=
  event_row _ rfl rfl

theorem heartbeatLost : Statement .heartbeatLost :=
  event_row _ rfl rfl

theorem vsysReturn (vsysR : Nat) : Statement (.vsysReturn vsysR) :=
  event_row _ rfl rfl

theorem hotswapUnlatch : Statement .hotswapUnlatch :=
  event_row _ rfl rfl

theorem logClearDone : Statement .logClearDone :=
  event_row _ rfl rfl

theorem followPulseTimeout (group : Nat) : Statement (.followPulseTimeout group) :=
  event_row _ rfl rfl

theorem openLoop (port : Nat) : Statement (.openLoop port) :=
  event_row _ rfl rfl

theorem corruptFrame (link : Nat) (kind : CorruptKind) : Statement (.corruptFrame link kind) :=
  event_row _ rfl rfl

theorem presenceSourceLost (zone source : Nat) : Statement (.presenceSourceLost zone source) :=
  event_row _ rfl rfl

theorem speedZero (port : Nat) : Statement (.speedZero port) :=
  event_row _ rfl rfl

theorem fieldRenderDue (field : Nat) : Statement (.fieldRenderDue field) :=
  event_row _ rfl rfl

end Sys2Proof.Laws.WellFormed
end

