-- ==== Sys2Proof/Tests/Slice0.lean ====
section
/-! SUPPORT. The model's own tests: well-formedness checks, small steps whose results the specification prints, and for each
statement of Certificates/Slice0/Obligations.lean a state and operands that meet the hypotheses of its clauses. -/

namespace Sys2Proof.Tests
open Sys2Proof Machine

-- One test after another: the memory that one evaluation takes is free again before the next.
set_option Elab.async false

/-! ### Helpers -/

/-- A module of the worked exchange's kind that runs: supplies good, the reference running, the main side in RUNNING. -/
def up : Chip :=
  { resetChip with
    power := { resetChip.power with vsysR := 24000, vact := 24000, vactShed := false, hsw := .on, input := 1, main := .running, sramLost := false }
    clk := { resetChip.clk with now := 1000000000, transit := 1000000000, refRun := true } }

/-- A command of host context 0 that has been fetched. -/
def cmd (fam op hnd : Nat) (payload : List Byte) : Cmd :=
  { ctx := 0, tag := 7, ver := 0x302, family := fam, opcode := op, hnd := hnd, flags := 1, deadlineByte := 0, payload := payload,
    phase := .fetched, expiry := none, demoted := false, reserved := 1, rerun := false }

/-- The same command of the management context. -/
def mcmd (fam op hnd : Nat) (payload : List Byte) : Cmd := { cmd fam op hnd payload with ctx := 32 }

/-- A state in which only the command is outstanding. -/
def put (c : Chip) (k : Cmd) : State := ⟨{ c with cmds := [k] }, []⟩

/-- A state in which nothing waits. -/
def on (c : Chip) : State := ⟨c, []⟩

/-- `Ready`, evaluated. -/
def readyB (fam op : Nat) (k : Cmd) (s : State) : Bool :=
  s.chip.power.main.up && decide (s.chip.findCmd k.ctx k.tag = some k) && decide (k.family = fam) && decide (k.opcode = op) &&
    s.chip.mayStart k && !s.chip.pastDeadline k && !s.chip.ownerRefuses k && !s.chip.elsewhere k

theorem ready {fam op : Nat} {k : Cmd} {s : State} (h : readyB fam op k s = true) : Ready fam op k s := by
  simp only [readyB, Bool.and_eq_true, decide_eq_true_eq, Bool.not_eq_true'] at h
  obtain ⟨⟨⟨⟨⟨⟨⟨h1, h2⟩, h3⟩, h4⟩, h5⟩, h6⟩, h7⟩, h8⟩ := h
  exact ⟨h1, h2, h3, h4, h5, h6, h7, h8⟩

/-- `Relayed`, evaluated. -/
def relayedB (fam op : Nat) (k : Cmd) (s : State) : Bool :=
  s.chip.power.main.up && decide (s.chip.findCmd k.ctx k.tag = some k) && decide (k.family = fam) && decide (k.opcode = op) &&
    s.chip.mayStart k && !s.chip.pastDeadline k && !s.chip.ownerRefuses k && s.chip.elsewhere k

theorem relayed {fam op : Nat} {k : Cmd} {s : State} (h : relayedB fam op k s = true) : Relayed fam op k s := by
  simp only [relayedB, Bool.and_eq_true, decide_eq_true_eq, Bool.not_eq_true'] at h
  obtain ⟨⟨⟨⟨⟨⟨⟨h1, h2⟩, h3⟩, h4⟩, h5⟩, h6⟩, h7⟩, h8⟩ := h
  exact ⟨h1, h2, h3, h4, h5, h6, h7, h8⟩

theorem ra {fam op : Nat} {k : Cmd} {s : State} {P : Prop} [Decidable P] (h : (readyB fam op k s && decide P) = true) :
    Ready fam op k s ∧ P := by
  rw [Bool.and_eq_true] at h
  exact ⟨ready h.1, of_decide_eq_true h.2⟩

/-- A pair whose first part is known. -/
theorem fst_some {α β : Type} {x : α × β} {a : α} (h : x.1 = a) : ∃ b, x = (a, b) := ⟨x.2, Prod.ext h rfl⟩

/-- An option that holds something. -/
theorem some_of {α : Type} {x : Option α} (h : x.isSome = true) : ∃ a, x = some a := Option.isSome_iff_exists.mp h


/-! ### Well-formedness -/

theorem test_wf_ctx : (Instr.sessionOpen 0 0).wf = true ∧
    (Instr.sessionOpen 8 0).wf = false := by decide

theorem test_wf_tag : (Instr.sessionOpen 0 0).wf = true ∧
    (Instr.sessionOpen 0 65536).wf = false := by decide

theorem test_wf_chan : (Instr.calCaptureDone 0 [] false).wf = true ∧
    (Instr.calCaptureDone 96 [] false).wf = false := by decide

theorem test_wf_range : (Instr.zeroCaptureExpiry 0 0).wf = true ∧
    (Instr.zeroCaptureExpiry 0 9).wf = false := by decide

theorem test_wf_link : (Instr.linkRetrainDone 0).wf = true ∧
    (Instr.linkRetrainDone 6).wf = false := by decide

theorem test_wf_event : (Instr.deliveryRecordWrite 0).wf = true ∧
    (Instr.deliveryRecordWrite 128).wf = false := by decide

theorem test_wf_queue : (Instr.coalTimeExpiry 0).wf = true ∧
    (Instr.coalTimeExpiry 64).wf = false := by decide

theorem test_wf_addr : (Instr.regRead 0 0).wf = true ∧
    (Instr.ringRead 0 0).wf = true ∧
    (Instr.addrGrant 0 0 0).wf = true ∧
    (Instr.memoryEcc 0 0 false).wf = true ∧
    (Instr.regRead 65536 0).wf = false ∧
    (Instr.ringRead 16777216 0).wf = false ∧
    (Instr.addrGrant 0 0 1024).wf = false ∧
    (Instr.memoryEcc 0 33554432 false).wf = false := by decide

theorem test_wf_index : (Instr.doorbell 0 0).wf = true ∧
    (Instr.rtcTimeRead .host 0).wf = true ∧
    (Instr.rtcSecStage .host 0 0).wf = true ∧
    (Instr.doorbell 0 2048).wf = false ∧
    (Instr.rtcTimeRead .host 7).wf = false ∧
    (Instr.rtcSecStage .host 4 0).wf = false := by decide

theorem test_wf_hctx : (Instr.hifBind 0 0).wf = true ∧
    (Instr.hifBind 8 0).wf = false := by decide

theorem test_wf_value : (Instr.hifBind 0 0).wf = true ∧
    (Instr.hifBind 0 4294967296).wf = false := by decide

theorem test_wf_group : (Instr.mgtSafeHold 0).wf = true ∧
    (Instr.mgtSafeHold 8).wf = false := by decide

theorem test_wf_port : (Instr.overcurrentTrip 0).wf = true ∧
    (Instr.overcurrentTrip 32).wf = false := by decide

theorem test_wf_head : (Instr.seqPassDue 0).wf = true ∧
    (Instr.seqPassDue 128).wf = false := by decide

theorem test_wf_slice : (Instr.equalisation 0 0 0).wf = true ∧
    (Instr.equalisation 4 0 0).wf = false := by decide

theorem test_wf_code : (Instr.housekeeping 0 0).wf = true ∧
    (Instr.housekeeping 0 4096).wf = false := by decide

theorem test_wf_loop : (Instr.loopTrigger 0).wf = true ∧
    (Instr.loopTrigger 512).wf = false := by decide

theorem test_wf_lane : (Instr.loopEvaluation (0, 0)).wf = true ∧
    (Instr.loopEvaluation (4, 0)).wf = false := by decide

theorem test_wf_words : (Instr.loopEvaluation (0, 0)).wf = true ∧
    (Instr.loopEvaluation (0, 513)).wf = false := by decide

theorem test_wf_zone : (Instr.zoneUpdate 0).wf = true ∧
    (Instr.zoneUpdate 64).wf = false := by decide

theorem test_wf_source : (Instr.presenceEvidence 0 0).wf = true ∧
    (Instr.presenceEvidence 0 8).wf = false := by decide

theorem test_wf_level : (Instr.phyLinkEstablished 0 0).wf = true ∧
    (Instr.phyLinkEstablished 0 4).wf = false := by decide

theorem test_wf_minVer : (Instr.version 0 0 0).wf = true ∧
    (Instr.version 0 256 0).wf = false := by decide

theorem test_wf_maxVer : (Instr.version 0 0 0).wf = true ∧
    (Instr.version 0 0 256).wf = false := by decide

theorem test_wf_src : (Instr.signal 0 0 0 []).wf = true ∧
    (Instr.signal 0 1024 0 []).wf = false := by decide

theorem test_wf_cls : (Instr.signal 0 0 0 []).wf = true ∧
    (Instr.signal 0 0 4 []).wf = false := by decide

theorem test_wf_node : (Instr.exportFrame 0 0).wf = true ∧
    (Instr.exportFrame 1024 0).wf = false := by decide

theorem test_wf_stream : (Instr.exportFrame 0 0).wf = true ∧
    (Instr.exportFrame 0 256).wf = false := by decide

theorem test_wf_reason : (Instr.refuse 0 0 0).wf = true ∧
    (Instr.refuse 0 0 256).wf = false := by decide

theorem test_wf_token : (Instr.phiveox 0 0 0 0 []).wf = true ∧
    (Instr.phiveox 0 0 65536 0 []).wf = false := by decide

theorem test_wf_ctl : (Instr.canArbitrationStart 0 false).wf = true ∧
    (Instr.canArbitrationStart 2 false).wf = false := by decide

theorem test_wf_errType : (Instr.canErrorFrame 0 0 false 0 0 0).wf = true ∧
    (Instr.canErrorFrame 0 8 false 0 0 0).wf = false := by decide

theorem test_wf_tec : (Instr.canErrorFrame 0 0 false 0 0 0).wf = true ∧
    (Instr.canErrorFrame 0 0 false 0 256 0).wf = false := by decide

theorem test_wf_recv : (Instr.canErrorFrame 0 0 false 0 0 0).wf = true ∧
    (Instr.canErrorFrame 0 0 false 0 0 256).wf = false := by decide

theorem test_wf_prio : (Instr.referenceMessage 0 0 0).wf = true ∧
    (Instr.referenceMessage 0 8 0).wf = false := by decide

theorem test_wf_cycle : (Instr.referenceMessage 0 0 0).wf = true ∧
    (Instr.referenceMessage 0 0 64).wf = false := by decide

theorem test_wf_obj : (Instr.txobjPeriod 0 0).wf = true ∧
    (Instr.txobjPeriod 0 64).wf = false := by decide

theorem test_wf_panel : (Instr.panelFrameBoundary 0 false).wf = true ∧
    (Instr.panelFrameBoundary 2 false).wf = false := by decide

theorem test_wf_notGood : (Instr.railFault 0 0 false).wf = true ∧
    (Instr.railFault 0 32 false).wf = false := by decide

theorem test_wf_dog : (Instr.engineDog 9).wf = true ∧
    (Instr.engineDog 8).wf = false ∧
    (Instr.engineDog 14).wf = false := by decide

theorem test_wf_core : (Instr.mainDog 0).wf = true ∧
    (Instr.mainDog 8).wf = false := by decide

theorem test_wf_mem : (Instr.memoryEcc 0 0 false).wf = true ∧
    (Instr.memoryEcc 3 0 false).wf = false := by decide

theorem test_wf_field : (Instr.fieldRenderDue 0).wf = true ∧
    (Instr.fieldRenderDue 64).wf = false := by decide

/-! ### How commands run -/

theorem witness_CommandsAreChecked :
    (opcodeRow (.objGet 0 7) = some (1, 0, 0, 7) ∧ State.reset.chip.power.main.up = false) ∧
    (let k : Cmd := { cmd 1 0 (handle 2 0) [] with expiry := some 5 };
      up.power.main.up = true ∧ (put up k).chip.findCmd 0 7 = some k ∧ (put up k).chip.mayStart k = true ∧
        (put up k).chip.pastDeadline k = true) ∧
    (let k := cmd 4 1 (handle tyGroup 0) [];
      let s := put { up with owners := [(handle tyGroup 0, true)] } k;
      s.chip.mayStart k = true ∧ s.chip.pastDeadline k = false ∧ s.chip.ownerRefuses k = true) ∧
    (let k := cmd 4 1 (handle tyGroup 0) [0];
      Ready 4 1 k (put up k) ∧ fixedLength (.pwmGroupDisable 0 7) = some 0 ∧ k.payload.length ≠ 0) :=
  ⟨by decide, by decide, by decide, ready (by decide), by decide⟩

theorem witness_CommandEnds :
    let k := cmd 0 4 0x01000000 [];
    isRemoteCtx k.ctx = false ∧ ∀ m ∈ (put up k).chip.cmds, m.ctx = k.ctx → m.phase ≠ .running := by decide

theorem witness_FiringSetsEvent : Fires up 33 ∧ (up.event 33).pending = false ∧
    (let c := up.setEvent 33 ⟨true, 0xFFFF, 0, 0, false, false⟩;
      Fires c 33 ∧ (c.event 33).pending = true ∧ (c.event 33).count = 0xFFFF) := by
  refine ⟨⟨?_, ?_⟩, ?_, ⟨?_, ?_⟩, ?_, ?_⟩ <;> decide

theorem witness_ManagementHearsFaults : 112 ≤ 127 ∧ 127 < 128 ∧ 0xFFFFFFFF < 4294967296 ∧
    eventNever up.fuses.variant 112 = false ∧ eventNever up.fuses.variant 127 = false := by decide

theorem witness_SlotAge :
    (let c := { up with slots := [(0, ⟨0, 0x80000000, qVALID, 0x1000, 1, 0⟩)], clk := { up.clk with fabUs := 0x100000000 } };
      hasQ (c.slot 0).quality qVALID = true ∧ c.slotAge (c.slot 0) = 2 ^ 31 ∧ hasQ (c.readSlot 0).quality qSTALE = true) ∧
    hasQ (up.slot 0xFFF).quality qVALID = false ∧ Tbl.has up.slots 0xFFF = false := by decide

theorem witness_OverrideHoldsProducer : Tbl.get dOverride up.overrides 5 = ⟨false, false⟩ ∧
    Tbl.get dOverride ({ up with overrides := [(5, ⟨false, true⟩)] } : Chip).overrides 5 ≠ ⟨false, false⟩ := by decide

theorem witness_RecordsAreWritten : 4 + (zeros 60).length ≤ (up.queue 8).ringBytes ∧ (up.queue 8).tail < 2 * (up.queue 8).depth ∧
    up.memoriesWf = true ∧ isRemoteCtx 0 = false := by decide

theorem witness_QueueKeepsItsOrder : (⟨up, [.hello 0]⟩ : State).pending.all Instr.wf = true ∧
    ∃ t, exec (.hello 0) ⟨up, [.hello 1]⟩ = .next t := ⟨by decide, _, rfl⟩

theorem witness_TimePassesInPeriods : State.reset.pending = [] ∧ State.reset.chip.clk.refRun = false ∧ up.clk.refRun = true := by decide

theorem witness_MemoriesKeepForm : State.reset.chip.memoriesWf = true ∧ ∃ t, step State.reset = .next t := ⟨by decide, _, rfl⟩

theorem witness_ReplyEchoes : (cmd 0xE 4 0x01000000 []).family < 256 ∧ (cmd 0xE 4 0x01000000 []).opcode < 256 ∧
    (cmd 0xE 4 0x01000000 []).tag < 65536 ∧ (cmd 0xE 4 0x01000000 []).hnd < 4294967296 := by decide

theorem witness_SessionOpens :
    let k := cmd 0 0 0x01000000 [3, 0, 3, 9, 64, 0, 0, 0];
    let s := put up k;
    Ready 0 0 k s ∧ k.payload.length = 8 ∧ 1 ≤ fld k.payload 4 2 ∧ fld k.payload 4 2 ≤ 64 ∧ zeroAt k.payload 6 2 = true ∧
      s.chip.outstanding k.ctx = [k] ∧
      protoVer (fld k.payload 0 1) (fld k.payload 1 1) ≤ negotiate (protoVer (fld k.payload 2 1) (fld k.payload 3 1)) ∧
      protoVer 2 0 ≤ negotiate (protoVer (fld k.payload 2 1) (fld k.payload 3 1)) :=
  ⟨ready (by decide), by decide⟩

theorem witness_SessionsClose :
    (let k := cmd 0 1 0x01000000 [];
      Ready 0 1 k (put up k) ∧ k.payload = [] ∧ (put up k).chip.outstanding k.ctx = [k]) ∧
    (let c := { up with
        sessions := [(31, ⟨true, 0x302, 4⟩)]
        fabric := { up.fabric with remotes := [(31, some (9, 0x1234))], noPath := [(9, some 100)] } };
      isRemoteCtx 31 = true ∧ (c.session 31).opened = true ∧ c.outstanding 31 = [] ∧
        Tbl.get dNone c.fabric.remotes 31 = some (9, 0x1234) ∧ Tbl.get dNone c.fabric.noPath 9 = some 100) :=
  ⟨⟨ready (by decide), by decide⟩, by decide⟩

theorem witness_EchoReturnsPayload :
    (let k := cmd 0 4 0x01000000 [1, 2, 3]; Ready 0 4 k (put up k) ∧ k.payload.length ≤ 4076 ∧ k.ver ≠ 0) ∧
    (let k := cmd 0 4 0x01000000 (zeros 4076); Ready 0 4 k (put up k) ∧ k.payload.length ≤ 4076) ∧
    (let k := cmd 0 4 0x01000000 (zeros 4077); Ready 0 4 k (put up k) ∧ 4076 < k.payload.length) :=
  ⟨⟨ready (by decide), by decide⟩, ⟨ready (by decide +kernel), by decide +kernel⟩, ready (by decide +kernel), by decide +kernel⟩

theorem witness_HeartbeatAndAbort :
    (let k := cmd 0 2 0x01000000 []; Ready 0 2 k (put up k) ∧ k.payload = [] ∧ isMgtCtx k.ctx = false) ∧
    (let k := mcmd 0 2 0x01000000 []; Ready 0 2 k (put up k) ∧ k.payload = [] ∧ isMgtCtx k.ctx = true) ∧
    (let t := { cmd 0 4 0x01000000 [] with tag := 6 };
      let k := cmd 0 3 0x01000000 [6, 0, 0xFF, 0];
      let s : State := ⟨{ up with cmds := [t, k] }, []⟩;
      Ready 0 3 k s ∧ k.payload.length = 4 ∧ zeroAt k.payload 3 1 = true ∧ namedCtx k (fld k.payload 2 1) = some 0 ∧
        s.chip.findCmd 0 (fld k.payload 0 2) = some t ∧ ((0, fld k.payload 0 2) : Nat × Nat) ≠ (k.ctx, k.tag) ∧
        s.chip.canHolds t = false ∧ t.phase = .fetched) ∧
    (let k := cmd 0 3 0x01000000 [6, 0, 0xFF, 0];
      Ready 0 3 k (put up k) ∧ k.payload.length = 4 ∧ zeroAt k.payload 3 1 = true ∧ namedCtx k (fld k.payload 2 1) = some 0 ∧
        (put up k).chip.findCmd 0 (fld k.payload 0 2) = none) :=
  ⟨⟨ready (by decide), by decide⟩, ⟨ready (by decide), by decide⟩, ⟨ready (by decide), by decide⟩, ready (by decide), by decide⟩


/-! ### Objects, streams, signals -/

theorem witness_ObjectsAreReadAndOwned :
    (let k := cmd 1 0 (handle 2 0) [2, 0, 0, 0, 1, 0, 0x15, 0];
      let s := put up k;
      Ready 1 0 k s ∧ 4 ≤ k.payload.length ∧ 1 ≤ fld k.payload 0 2 ∧ fld k.payload 0 2 ≤ 64 ∧
        k.payload.length = 4 + 2 * fld k.payload 0 2 ∧ zeroAt k.payload 2 2 = true ∧
        getBad s.chip.fuses.variant k.ty k.inst 0 4 (getList k.payload) = none ∧
        getLong s.chip.fuses.variant k.ty k.inst 0 4 (getList k.payload) = none) ∧
    (let k := cmd 1 7 (handle 2 0) [0];
      Ready 1 7 k (put up k) ∧ k.payload.length = 1 ∧ fld k.payload 0 1 = 0) ∧
    (let k := mcmd 1 7 (handle 2 0) [1];
      Ready 1 7 k (put up k) ∧ k.payload.length = 1 ∧ fld k.payload 0 1 = 1 ∧ isMgtCtx k.ctx = true) ∧
    (let k := mcmd 1 7 (handle 2 0) [2];
      Ready 1 7 k (put up k) ∧ k.payload.length = 1 ∧ fld k.payload 0 1 = 2 ∧ isMgtCtx k.ctx = true) ∧
    (let k := cmd 1 7 (handle 2 0) [2];
      Ready 1 7 k (put up k) ∧ k.payload.length = 1 ∧ fld k.payload 0 1 = 2 ∧ isMgtCtx k.ctx = false) ∧
    (let k := cmd 1 8 (handle 1 0) [2, 0, 0, 0];
      Ready 1 8 k (put up k) ∧ k.payload.length = 4 ∧ 1 ≤ fld k.payload 0 1 ∧ fld k.payload 0 1 ≤ 0x17 ∧
        zeroAt k.payload 1 1 = true) ∧
    (let k := cmd 1 8 (handle 1 0) [0x17, 0, 0xFF, 0xFF];
      Ready 1 8 k (put up k) ∧ k.payload.length = 4 ∧ 1 ≤ fld k.payload 0 1 ∧ fld k.payload 0 1 ≤ 0x17 ∧
        zeroAt k.payload 1 1 = true) := by
  refine ⟨?_, ?_, ?_, ?_, ?_, ?_, ?_⟩ <;> exact ra (by decide +kernel)

/-- Two records for port 0: PORT_CFG in DIN and DEBOUNCE 5. -/
def portRecords : List Byte := [1, 0, 4, 0, 7, 0, 0, 0, 3, 0, 1, 0, 5, 0, 0, 0]

theorem witness_ChangesAreStaged :
    (let k := cmd 1 2 (handle 2 0) portRecords;
      let s := put up k;
      let rs : List (Nat × List Byte) := [(1, [7, 0, 0, 0]), (3, [5])];
      let st := (rs.flatMap (splitRecord k.ty)).foldl (stageOne (Tbl.get dZero s.chip.gens k.hnd) k.hnd) (s.chip.stagedOf k.ctx);
      Ready 1 2 k s ∧ k.payload ≠ [] ∧ takeRecords s.chip.fuses.variant k.ty k.inst k.payload (k.payload.length + 1) 0 = .inr rs ∧
        stagedBytes st + ({ s.chip with staged := Tbl.set dNil s.chip.staged k.ctx st } : Chip).chunkBytes k.ctx ≤ 65536 ∧
        ((Tbl.set dNil s.chip.staged k.ctx st).map (fun e => stagedBytes e.2)).sum
          + (s.chip.cal.chunks.map (fun e => e.2.length)).sum ≤ 262144) ∧
    (let k := cmd 1 4 (handle 1 0) [];
      Ready 1 4 k (put up k) ∧ k.payload = []) ∧
    (let k := cmd 1 5 (handle tyLoop 511) [];
      Ready 1 5 k (put up k) ∧ Tbl.get dFalse up.existing k.hnd = false ∧
        (up.livesOf k.ctx).any (fun x => x.hnd == k.hnd && x.create) = false) ∧
    (let k := cmd 1 6 (handle tyLoop 0) [];
      let c := { up with existing := [(handle tyLoop 0, true)] };
      Ready 1 6 k (put c k) ∧ Tbl.get dFalse c.existing k.hnd = true ∧ (c.livesOf k.ctx).any (fun x => x.hnd == k.hnd) = false) ∧
    (let k := cmd 1 6 (handle tyLoop 0) [];
      let c := { up with lives := [(0, [⟨handle tyLoop 0, true, 0⟩])] };
      Ready 1 6 k (put c k) ∧ (c.livesOf k.ctx).any (fun x => x.hnd == k.hnd && x.create) = true) := by
  refine ⟨?_, ?_, ?_, ?_, ?_⟩ <;> exact ra (by decide +kernel)

theorem witness_CommitsAreAllOrNothing :
    (let k := cmd 1 1 (handle 2 0) portRecords;
      let s := put up k;
      let rs : List (Nat × List Byte) := [(1, [7, 0, 0, 0]), (3, [5])];
      Ready 1 1 k s ∧ k.payload ≠ [] ∧ s.chip.imageBusy = false ∧
        takeRecords s.chip.fuses.variant k.ty k.inst k.payload (k.payload.length + 1) 0 = .inr rs ∧
        s.chip.changeChecks [] ((rs.flatMap (splitRecord k.ty)).map (fun r => (⟨k.hnd, r.1, r.2⟩ : Change))) = none) ∧
    (let k := cmd 1 1 (handle 2 0) [1, 0, 4, 0, 0x1F, 0, 0, 0];
      let s := put up k;
      let rs : List (Nat × List Byte) := [(1, [0x1F, 0, 0, 0])];
      Ready 1 1 k s ∧ k.payload ≠ [] ∧ s.chip.imageBusy = false ∧
        takeRecords s.chip.fuses.variant k.ty k.inst k.payload (k.payload.length + 1) 0 = .inr rs ∧
        (s.chip.changeChecks [] ((rs.flatMap (splitRecord k.ty)).map (fun r => (⟨k.hnd, r.1, r.2⟩ : Change)))).isSome = true) ∧
    (let k := cmd 1 3 (handle 1 0) [0, 0, 0, 0];
      let s := put { up with staged := [(0, [⟨handle 2 0, 1, [7, 0, 0, 0], 0⟩])] } k;
      Ready 1 3 k s ∧ k.payload.length = 4 ∧ fld k.payload 0 1 = 0 ∧ zeroAt k.payload 1 3 = true ∧ s.chip.imageBusy = false ∧
        firstBad [s.chip.conflict k.ctx, s.chip.notOwned k.ctx [handle 2 0], s.chip.changeChecks [] [⟨handle 2 0, 1, [7, 0, 0, 0]⟩]] = none) ∧
    (let k := cmd 1 3 (handle 1 0) [1, 0, 0, 0];
      let s := put { up with staged := [(0, [⟨handle 2 0, 1, [7, 0, 0, 0], 0⟩])] } k;
      Ready 1 3 k s ∧ fld k.payload 0 1 = 1 ∧ zeroAt k.payload 1 3 = true ∧
        firstBad [s.chip.conflict k.ctx, s.chip.notOwned k.ctx [handle 2 0], s.chip.changeChecks [] [⟨handle 2 0, 1, [7, 0, 0, 0]⟩]] = none) ∧
    (let k := cmd 1 3 (handle 1 0) [0, 0, 0, 0];
      let s := put { up with staged := [(0, [⟨handle 2 0, 1, [7, 0, 0, 0], 1⟩])] } k;
      Ready 1 3 k s ∧ s.chip.conflict k.ctx = some (stBusy, handle 2 0)) := by
  refine ⟨?_, ?_, ?_, ?_, ?_⟩ <;> exact ra (by decide +kernel)

theorem witness_StreamsOpenAndClose :
    (let k := cmd 2 0 (handle tyStream 0) [];
      let c := up.setStream 0 { dStream 0 with state := 2 };
      Ready 2 0 k (put c k) ∧ (c.stream k.inst).state ≠ 0) ∧
    (let k := cmd 2 0 (handle tyStream 255) [];
      let c := up.setAttr tyStream 255 1 [1, 0, 0, 0];
      Ready 2 0 k (put c k) ∧ (c.stream k.inst).state = 0 ∧ c.isHostStream k.inst = true) ∧
    (let k := cmd 2 0 (handle tyStream 0) [];
      Ready 2 0 k (put up k) ∧ (up.stream k.inst).state = 0 ∧ up.isHostStream k.inst = false) ∧
    (let k := cmd 2 1 (handle tyStream 0) [];
      Ready 2 1 k (put up k) ∧ (up.isHostStream k.inst = false ∨ up.changedImages k.inst = [])) ∧
    (let k := cmd 2 1 (handle tyStream 0) [];
      let c := ((up.setAttr tyStream 0 1 [1, 0, 0, 0]).setAttr tyStream 0 3 [5, 0, 0, 0]).setStream 0 { dStream 0 with state := 2 };
      let d := { c with slotWrites := [(5, 1)] };
      Ready 2 1 k (put d k) ∧ d.isHostStream k.inst = true ∧ (d.stream k.inst).state = 2 ∧ d.changedImages k.inst ≠ []) := by
  refine ⟨?_, ?_, ?_, ?_, ?_⟩ <;> exact ra (by decide +kernel)

theorem witness_SignalsAreReadAndForced :
    (let k := cmd 2 2 (localSignal 0xFFF) []; Ready 2 2 k (put up k) ∧ k.payload = []) ∧
    (let k := cmd 2 3 (localSignal 0) [0, 0, 1, 0, 0, 0, 0, 0];
      Ready 2 3 k (put up k) ∧ k.payload.length = 8 ∧ zeroAt k.payload 4 4 = true) ∧
    (let k := cmd 2 4 (localSignal 0) []; Ready 2 4 k (put up k) ∧ k.payload = []) := by
  refine ⟨?_, ?_, ?_⟩ <;> exact ra (by decide +kernel)

theorem witness_SignalsElsewhere :
    (let k := cmd 1 7 (handle tySignal 0x05003) [0]; Relayed 1 7 k (put up k)) ∧
    (let k := cmd 2 2 (handle tySignal 0x05003) []; Relayed 2 2 k (put up k)) ∧
    (let k := cmd 2 3 (handle tySignal 0x05003) []; Relayed 2 3 k (put up k)) ∧
    (let k := cmd 2 4 (handle tySignal 0x3FFFFF) []; Relayed 2 4 k (put up k)) := by
  refine ⟨?_, ?_, ?_, ?_⟩ <;> exact relayed (by decide +kernel)

/-- OBJ_GET, OBJ_OWNER, OBJ_LIST: the other cases. -/
theorem witness_ObjectsAreReadAndOwned_cases :
    (let k := cmd 1 0 (handle 2 0) [1, 0, 0, 0, 0xFF, 0xFF];
      Ready 1 0 k (put up k) ∧ k.payload.length = 4 + 2 * fld k.payload 0 2 ∧ zeroAt k.payload 2 2 = true ∧
        (getBad up.fuses.variant k.ty k.inst 0 4 (getList k.payload)).isSome = true) ∧
    (let k := cmd 1 0 (handle tyClock 0) ([64, 0, 0, 0] ++ (List.replicate 64 [(2 : Byte), 0]).flatten);
      Ready 1 0 k (put up k) ∧ fld k.payload 0 2 = 64 ∧ k.payload.length = 4 + 2 * fld k.payload 0 2 ∧ zeroAt k.payload 2 2 = true ∧
        getBad up.fuses.variant k.ty k.inst 0 4 (getList k.payload) = none ∧
        (getLong up.fuses.variant k.ty k.inst 0 4 (getList k.payload)).isSome = true) ∧
    (let k := cmd 1 7 (handle 2 0) [1];
      Ready 1 7 k (put up k) ∧ k.payload.length = 1 ∧ fld k.payload 0 1 = 1 ∧ isMgtCtx k.ctx = false ∧
        up.ownerIsMgt (canonHandle k.hnd) = false) ∧
    (let k := cmd 1 7 (handle 2 0) [1];
      let c := { up with owners := [(handle 2 0, true)] };
      Ready 1 7 k (put c k) ∧ k.payload.length = 1 ∧ fld k.payload 0 1 = 1 ∧ isMgtCtx k.ctx = false ∧
        c.ownerIsMgt (canonHandle k.hnd) = true) := by
  refine ⟨?_, ?_, ?_, ?_⟩ <;> exact ra (by decide +kernel)

/-- OBJ_CREATE of what exists or is staged, OBJ_DELETE of what does not exist. -/
theorem witness_LivesAreStaged_cases :
    (let k := cmd 1 5 (handle tyLoop 0) [];
      let c := { up with existing := [(handle tyLoop 0, true)] };
      Ready 1 5 k (put c k) ∧ Tbl.get dFalse c.existing k.hnd = true) ∧
    (let k := cmd 1 5 (handle tyLoop 0) [];
      let c := { up with lives := [(0, [⟨handle tyLoop 0, true, 0⟩])] };
      Ready 1 5 k (put c k) ∧ (c.livesOf k.ctx).any (fun x => x.hnd == k.hnd && x.create) = true) ∧
    (let k := cmd 1 6 (handle tyLoop 511) [];
      Ready 1 6 k (put up k) ∧ Tbl.get dFalse up.existing k.hnd = false ∧
        (up.livesOf k.ctx).any (fun x => x.hnd == k.hnd && x.create) = false) := by
  refine ⟨?_, ?_, ?_⟩ <;> exact ra (by decide +kernel)

/-- `up` while an image is being loaded. -/
def loading : Chip := { up with image := { up.image with loading := some (0, 9) } }

/-- OBJ_SET and OBJ_COMMIT while an image is being loaded. -/
theorem witness_CommitsAreAllOrNothing_busy :
    (let k := cmd 1 1 (handle 2 0) portRecords;
      let s := put loading k;
      let rs : List (Nat × List Byte) := [(1, [7, 0, 0, 0]), (3, [5])];
      Ready 1 1 k s ∧ k.payload ≠ [] ∧ s.chip.imageBusy = true ∧
        takeRecords s.chip.fuses.variant k.ty k.inst k.payload (k.payload.length + 1) 0 = .inr rs ∧
        s.chip.changeChecks [] ((rs.flatMap (splitRecord k.ty)).map (fun r => (⟨k.hnd, r.1, r.2⟩ : Change))) = none) ∧
    (let k := cmd 1 3 (handle 1 0) [1, 0, 0, 0];
      Ready 1 3 k (put loading k) ∧ k.payload.length = 4 ∧ fld k.payload 0 1 ≤ 1 ∧ zeroAt k.payload 1 3 = true ∧
        loading.imageBusy = true) := by
  refine ⟨?_, ?_⟩ <;> exact ra (by decide +kernel)

/-- STREAM_CLOSE of a HOST stream that is closed. -/
theorem witness_StreamsOpenAndClose_closed :
    let k := cmd 2 1 (handle tyStream 255) [];
    let c := up.setAttr tyStream 255 1 [1, 0, 0, 0];
    Ready 2 1 k (put c k) ∧ c.isHostStream k.inst = true ∧ (c.stream k.inst).state ≠ 2 ∧ (c.stream k.inst).closing = [] :=
  ra (by decide +kernel)


/-! ### Sampler, groups, actuators -/

/-- `up` with port 0 in the voltage input mode, active. -/
def vin : Chip := up.setAttr tyPort 0 1 [1, 0, 0, 0]

/-- `up` with a periodic sequence of one entry on CH0 at head 3. -/
def seq3 : Chip := (vin.setAttr tySeq 3 1 [0x80, 0, 0, 0]).setAttr tySeq 3 2 [1, 0, 0, 0]

theorem witness_SequencesRunAndStop :
    (let k := cmd 3 0 (handle tySeq 3) [];
      let hs := if seq3.activeHeads.contains k.inst then seq3.activeHeads else seq3.activeHeads ++ [k.inst];
      Ready 3 0 k (put seq3 k) ∧ k.payload = [] ∧ seHead (seq3.seqCtl k.inst) = true ∧ seq3.overloaded hs = false ∧ seq3.rateMissing hs = none ∧
        seq3.class0Ok k.inst = true) ∧
    (let k := cmd 3 1 (handle tySeq 3) [];
      Ready 3 1 k (put seq3 k) ∧ k.payload = [] ∧ seHead (seq3.seqCtl k.inst) = true ∧ (seq3.seq k.inst).stopCmd = none ∧
        seq3.suppliesRate k.inst = false ∧ seq3.sampler.passes.any (fun p => p.head == k.inst) = false) ∧
    (let k := cmd 3 1 (handle tySeq 3) [];
      let c := { seq3 with sampler := { seq3.sampler with passes := [⟨3, 1, 0, 100, [0]⟩] } };
      Ready 3 1 k (put c k) ∧ k.payload = [] ∧ seHead (c.seqCtl k.inst) = true ∧ (c.seq k.inst).stopCmd = none ∧ c.suppliesRate k.inst = false ∧
        c.sampler.passes.any (fun p => p.head == k.inst) = true) ∧
    (let k := cmd 3 2 (handle tySeq 0) [128, 0, 0, 0];
      Ready 3 2 k (put up k) ∧ k.payload.length = 4 ∧ 1 ≤ fld k.payload 0 1 ∧ k.inst + fld k.payload 0 1 ≤ 128 ∧ fld k.payload 1 1 = 0 ∧
        zeroAt k.payload 2 2 = true) ∧
    (let k := cmd 3 2 (handle tySeq 127) [1, 1, 0, 0];
      Ready 3 2 k (put up k) ∧ k.payload.length = 4 ∧ 1 ≤ fld k.payload 0 1 ∧ k.inst + fld k.payload 0 1 = 128 ∧ fld k.payload 1 1 = 1 ∧
        zeroAt k.payload 2 2 = true) := by
  refine ⟨?_, ?_, ?_, ?_, ?_⟩ <;> exact ra (by decide +kernel)

/-- The set of the factory, as CAL_READ gives it. -/
def factorySet : List Byte := calImage up.dCal up.cal.store

theorem witness_CalibrationStarts :
    (let k := cmd 3 3 (handle tyPort 0) [1, 0, 0, 0, 0, 0, 0, 0];
      Ready 3 3 k (put vin k) ∧ k.payload.length = 8 ∧ fld k.payload 0 1 ≤ 1 ∧ zeroAt k.payload 1 3 = true ∧
        vin.portActive k.inst = true ∧ vin.heldFull (2 * k.inst + fld k.payload 0 1) (vin.channelRange (2 * k.inst + fld k.payload 0 1)) = false) ∧
    (let k := cmd 3 4 (handle tyPort 0) [0, 0, 0, 0, 0, 0, 1, 0];
      let c := { vin with cal := { vin.cal with held := [⟨0, 1, 100, 100, 1, 5000000000⟩] } };
      Ready 3 4 k (put c k) ∧ k.payload.length = 8 ∧ fld k.payload 0 1 ≤ 1 ∧ zeroAt k.payload 1 3 = true ∧ c.cal.write = none ∧
        c.portActive k.inst = true ∧ (c.heldZero 0 (c.channelRange 0)).isSome = true) ∧
    (let k := cmd 3 5 (handle 1 0) [0x43, 0x13, 1, 0];
      Ready 3 5 k (put up k) ∧ k.payload.length = 4 ∧ 1 ≤ fld k.payload 2 2 ∧ fld k.payload 2 2 ≤ 4072 ∧
        fld k.payload 0 2 + fld k.payload 2 2 = 4932 ∧ up.cal.write = none ∧ up.cal.valid = true) ∧
    (let k := cmd 3 6 (handle 1 0) [0, 0, 0x43, 0x13, 9];
      Ready 3 6 k (put up k) ∧ 5 ≤ k.payload.length ∧ k.payload.length ≤ 4080 ∧ zeroAt k.payload 1 1 = true ∧
        fld k.payload 2 2 + (k.payload.length - 4) = 4932 ∧ up.cal.write = none ∧ fld k.payload 0 1 = 0 ∧
        (up.setCal (fun m => { m with chunks := Tbl.set dNil m.chunks k.ctx (Tbl.setRun dNone (up.calChunks k.ctx) (fld k.payload 2 2) ((k.payload.drop 4).map some)) })).stagingFull k.ctx = false) := by
  refine ⟨?_, ?_, ?_, ?_⟩ <;> exact ra (by decide +kernel)


theorem witness_GroupsRunAndStop :
    (let k := cmd 4 0 (handle tyGroup 7) [];
      Ready 4 0 k (put up k) ∧ (up.group k.inst).state ≠ .run ∧ up.islandHeld = false ∧ (up.group k.inst).haltKind = 0 ∧
        (up.group k.inst).safeAt ≠ some up.clk.now) ∧
    (let k := cmd 4 0 (handle tyGroup 0) [];
      let c := up.setPower (fun p => { p with debugHalt := true });
      Ready 4 0 k (put c k) ∧ c.islandHeld = true ∧ (c.group k.inst).state ≠ .run) ∧
    (let k := cmd 4 1 (handle tyGroup 0) [];
      Ready 4 1 k (put up k) ∧ k.payload = []) ∧
    (let k := mcmd 4 2 (handle tyGroup 0) [];
      Ready 4 2 k (put up k) ∧ k.payload = [] ∧ isMgtCtx k.ctx = true) ∧
    (let k := cmd 4 3 (handle tyBridge 31) [];
      Ready 4 3 k (put up k) ∧ k.payload = [] ∧ (up.bridge k.inst).latched = false) ∧
    (let k := cmd 4 3 (handle tyBridge 0) [];
      let c := up.setBridge 0 { up.bridge 0 with latched := true, latchAt := some 1000000000 };
      Ready 4 3 k (put c k) ∧ k.payload = [] ∧ (c.bridge k.inst).latched = true ∧ (c.bridge k.inst).latchAt = some c.clk.now) ∧
    (let k := cmd 4 0 (handle tyGroup 0) [];
      let c := up.setGroup 0 { up.group 0 with state := .run };
      Ready 4 0 k (put c k) ∧ k.payload = [] ∧ (c.group k.inst).state = .run) ∧
    (let k := cmd 4 0 (handle tyGroup 7) [];
      let c := up.setGroup 7 { up.group 7 with state := .safe, safeAt := some 1000000000 };
      Ready 4 0 k (put c k) ∧ k.payload = [] ∧ c.islandHeld = false ∧ (c.group k.inst).haltKind = 0 ∧
        (c.group k.inst).safeAt = some c.clk.now) := by
  refine ⟨?_, ?_, ?_, ?_, ?_, ?_, ?_, ?_⟩ <;> exact ra (by decide +kernel)

/-- `up` with a damper on port 0 whose position is known: 10 000 counts per stroke, standing at 0. -/
def damper : Chip :=
  (((up.setAttr tyPort 0 1 [0x0A, 0, 0, 0]).setAttr tyDamper 0 1 [1, 0, 0, 0]).setAttr tyDamper 0 2 [0x10, 0x27, 0, 0]).setMotor 0
    { dMotor 0 with known := true }

theorem witness_ActuatorsTakeCommands :
    (let k := cmd 4 4 (handle tyDamper 0) [0, 0, 1, 0, 0, 0, 0, 0];
      Ready 4 4 k (put damper k) ∧ k.payload.length = 8 ∧ fld k.payload 0 4 = 0x10000 ∧ zeroAt k.payload 4 4 = true ∧
        damper.damperBound k.inst = true ∧ (damper.motor k.inst).known = true ∧
        damper.beyondDeadband k.inst (fld k.payload 0 4) = true) ∧
    (let k := cmd 4 4 (handle tyDamper 0) [0, 0, 0, 0, 0, 0, 0, 0];
      Ready 4 4 k (put damper k) ∧ k.payload.length = 8 ∧ zeroAt k.payload 4 4 = true ∧ damper.damperBound k.inst = true ∧
        (damper.motor k.inst).known = true ∧ damper.beyondDeadband k.inst (fld k.payload 0 4) = false) ∧
    (let k := cmd 4 4 (handle tyDamper 1) [0, 0, 0, 0, 0, 0, 0, 0];
      Ready 4 4 k (put damper k) ∧ k.payload.length = 8 ∧ zeroAt k.payload 4 4 = true ∧ damper.damperBound k.inst = false) ∧
    (let k := cmd 4 5 (handle tyDamper 0) [0, 0, 0, 0];
      Ready 4 5 k (put damper k) ∧ k.payload.length = 4 ∧ fld k.payload 0 1 = 0 ∧ zeroAt k.payload 1 3 = true ∧
        damper.damperBound k.inst = true) ∧
    (let k := cmd 4 5 (handle tyDamper 0) [1, 0, 0, 0];
      Ready 4 5 k (put damper k) ∧ k.payload.length = 4 ∧ fld k.payload 0 1 = 1 ∧ zeroAt k.payload 1 3 = true ∧
        damper.damperBound k.inst = true) ∧
    (let k := cmd 4 5 (handle tyDamper 1) [1, 0, 0, 0];
      Ready 4 5 k (put damper k) ∧ k.payload.length = 4 ∧ fld k.payload 0 1 = 1 ∧ zeroAt k.payload 1 3 = true ∧
        damper.damperBound k.inst = false) ∧
    (let k := cmd 4 6 (handle tyValve 31) [0, 0, 1, 0];
      Ready 4 6 k (put up k) ∧ k.payload.length = 4 ∧ fld k.payload 0 4 = 0x10000 ∧ sidOf (up.attrN tyValve k.inst 2) = none) ∧
    (let k := cmd 4 6 (handle tyValve 31) [0, 0, 1, 0];
      let c := up.setAttr tyValve 31 2 [5, 0];
      Ready 4 6 k (put c k) ∧ k.payload.length = 4 ∧ fld k.payload 0 4 = 0x10000 ∧ (sidOf (c.attrN tyValve k.inst 2)).isSome = true) ∧
    (let k := cmd 4 7 (handle tyFan 31) [0, 0, 1, 0];
      Ready 4 7 k (put up k) ∧ k.payload.length = 4 ∧ fld k.payload 0 4 = 0x10000 ∧ sidOf (up.attrN tyFan k.inst 6) = none ∧
        bit (up.attrN tyFan k.inst 1) 4 = false) ∧
    (let k := cmd 4 7 (handle tyFan 31) [0, 0, 1, 0];
      let c := up.setAttr tyFan 31 1 [0x10, 0, 0, 0];
      Ready 4 7 k (put c k) ∧ k.payload.length = 4 ∧ fld k.payload 0 4 = 0x10000 ∧ bit (c.attrN tyFan k.inst 1) 4 = true) ∧
    (let k := cmd 4 8 (handle tyDamper 0) [];
      Ready 4 8 k (put damper k) ∧ k.payload = [] ∧ k.ty = tyDamper ∧ damper.damperBound k.inst = true ∧
        (damper.motor k.inst).faultAt ≠ some damper.clk.now) ∧
    (let k := cmd 4 8 (handle tyDamper 1) [];
      Ready 4 8 k (put damper k) ∧ k.payload = [] ∧ k.ty = tyDamper ∧ damper.damperBound k.inst = false) ∧
    (let k := cmd 4 8 (handle tyFan 0) [];
      let c := up.setAttr tyFan 0 1 [1, 0, 0, 0];
      Ready 4 8 k (put c k) ∧ k.payload = [] ∧ k.ty = tyFan ∧ c.fanBound k.inst = true ∧ (c.fan k.inst).faultAt ≠ some c.clk.now) ∧
    (let k := cmd 4 8 (handle tyFan 0) [];
      Ready 4 8 k (put up k) ∧ k.payload = [] ∧ k.ty = tyFan ∧ up.fanBound k.inst = false) ∧
    (let k := cmd 4 8 (handle tyValve 0) [];
      Ready 4 8 k (put up k) ∧ k.payload = [] ∧ k.ty ≠ tyDamper ∧ k.ty ≠ tyFan ∧ (up.valve k.inst).faultAt ≠ some up.clk.now) ∧
    (let k := cmd 4 8 (handle tyValve 0) [];
      let c := up.setValve 0 { up.valve 0 with fault := true, faultAt := some 1000000000 };
      Ready 4 8 k (put c k) ∧ k.payload = [] ∧ k.ty ≠ tyDamper ∧ k.ty ≠ tyFan ∧ (c.valve k.inst).faultAt = some c.clk.now) := by
  refine ⟨?_, ?_, ?_, ?_, ?_, ?_, ?_, ?_, ?_, ?_, ?_, ?_, ?_, ?_, ?_, ?_⟩ <;> exact ra (by decide +kernel)

/-- CAL_WRITE beyond its session's staging, and a last chunk of a set that is not whole. -/
theorem witness_CalibrationStarts_refused :
    (let k := cmd 3 6 (handle 1 0) [1, 0, 0, 0, 9];
      let c := { up with staged := [(0, List.replicate 300 ⟨handle 2 0, 1, zeros 256, 0⟩)] };
      Ready 3 6 k (put c k) ∧ 5 ≤ k.payload.length ∧ k.payload.length ≤ 4080 ∧ zeroAt k.payload 1 1 = true ∧
        fld k.payload 2 2 + (k.payload.length - 4) ≤ 4932 ∧ c.cal.write = none ∧ fld k.payload 0 1 ≤ 1 ∧
        (c.setCal (fun m => { m with chunks := Tbl.set dNil m.chunks k.ctx (Tbl.setRun dNone (c.calChunks k.ctx) (fld k.payload 2 2) ((k.payload.drop 4).map some)) })).stagingFull k.ctx = true) ∧
    (let k := cmd 3 6 (handle 1 0) [1, 0, 0, 0, 9];
      Ready 3 6 k (put up k) ∧ fld k.payload 0 1 = 1 ∧ up.cal.write = none ∧
        (up.setCal (fun m => { m with chunks := Tbl.set dNil m.chunks k.ctx (Tbl.setRun dNone (up.calChunks k.ctx) (fld k.payload 2 2) ((k.payload.drop 4).map some)) })).stagingFull k.ctx = false ∧
        (up.calSetBad (Tbl.setRun dNone (up.calChunks k.ctx) (fld k.payload 2 2) ((k.payload.drop 4).map some))).isSome = true) := by
  refine ⟨?_, ?_⟩ <;> exact ra (by decide +kernel)


theorem crc32Shift_lt (c : Nat) (h : c < 2 ^ 32) : crc32Shift c < 2 ^ 32 := by
  unfold crc32Shift
  split
  · exact Nat.xor_lt_two_pow (by omega) (by decide)
  · omega

theorem crc32Byte_lt (c : Nat) (b : Byte) (h : c < 2 ^ 32) : crc32Byte c b < 2 ^ 32 := by
  have hb : b.toNat < 2 ^ 32 := Nat.lt_trans b.isLt (by decide)
  unfold crc32Byte
  iterate 8 apply crc32Shift_lt
  exact Nat.xor_lt_two_pow h hb

/-- A CRC-32 has 32 bits. -/
theorem crc32_lt (b : List Byte) : crc32 b < 2 ^ 32 := by
  have : ∀ (l : List Byte) (c : Nat), c < 2 ^ 32 → l.foldl crc32Byte c < 2 ^ 32 := by
    intro l
    induction l with
    | nil => exact fun _ h => h
    | cons x l ih => exact fun c h => ih _ (crc32Byte_lt c x h)
  exact Nat.xor_lt_two_pow (this b _ (by decide)) (by decide)

/-- Byte `i` of the factory's set. -/
theorem factory_byte (i : Nat) (h : i < 4928) : fld factorySet i 1 = (factoryByte up.fuses.uid i).toNat := by
  have hl : (Tbl.getRun up.dCal up.cal.store 0 4928).length = 4928 := Tbl.getRun_length ..
  unfold factorySet calImage
  rw [fld_append_left _ _ _ _ (by omega)]
  have h1 : i < (Tbl.getRun up.dCal up.cal.store 0 4928).length := by omega
  unfold fld slice
  rw [List.drop_eq_getElem_cons h1, List.take_succ_cons, List.take_zero, Tbl.getRun_getElem, Nat.zero_add]
  rfl

/-- The reserved bytes of the factory's set are zero. -/
theorem factory_reserved : reservedSet factorySet = none := by
  have h1 : ∀ i ∈ [25, 26, 27] ++ (List.range 16).map (· + 48), i < 4928 ∧ factoryByte up.fuses.uid i = 0 := by decide +kernel
  have h2 : ∀ i ∈ (List.range 608).map (fun r => 64 + 8 * r + 2), i < 4928 ∧ (factoryByte up.fuses.uid i).toNat ≤ 3 := by
    decide +kernel
  unfold reservedSet
  rw [List.find?_eq_none.mpr, List.find?_eq_none.mpr, Option.or_none]
  · intro i hi
    rw [factory_byte i (h2 i hi).1]
    have := (h2 i hi).2
    simp; omega
  · intro i hi
    rw [factory_byte i (h1 i hi).1, (h1 i hi).2]
    simp

/-- What 4932 chunk bytes that spell the factory's set give. -/
theorem factory_set_ok (c : Chip) (t : Tbl (Option Byte)) (hu : c.fuses.uid = up.fuses.uid)
    (ht : Tbl.getRun dNone t 0 4932 = factorySet.map some) : c.calSetBad t = none := by
  have h1 : (factorySet.map some).findIdx? Option.isNone = none := by simp [List.findIdx?_eq_none_iff]
  have h2 : (factorySet.map some).map (fun x => x.getD (0 : Byte)) = factorySet := by simp [List.map_map, Function.comp_def]
  have hl : (Tbl.getRun up.dCal up.cal.store 0 4928).length = 4928 := Tbl.getRun_length ..
  have h3 : fld factorySet 4928 4 = crc32 (factorySet.take 4928) := by
    unfold factorySet calImage
    generalize Tbl.getRun up.dCal up.cal.store 0 4928 = b at hl
    have := crc32_lt b
    rw [List.take_left' hl, fld_append_right _ _ _ _ (by omega), hl, Nat.sub_self, fld_all _ 4 rfl, leNat_leBytes]
    omega
  unfold Chip.calSetBad
  simp only [ht, h1, h2]
  rw [if_neg (by decide +kernel), if_neg (by decide +kernel), if_neg (by decide +kernel), if_neg (by rw [h3]; simp),
    if_neg (by rw [hu]; decide +kernel)]
  exact factory_reserved

theorem insert_len {α : Type} (t : Tbl α) (k : Nat) (v : α) : (Tbl.insert t k v).length ≤ t.length + 1 := by
  induction t with
  | nil => simp [Tbl.insert]
  | cons x t ih => obtain ⟨a, b⟩ := x; unfold Tbl.insert; split <;> [simp; (split <;> simp [ih])]

theorem erase_len {α : Type} (t : Tbl α) (k : Nat) : (Tbl.erase t k).length ≤ t.length := by
  induction t with
  | nil => simp [Tbl.erase]
  | cons x t ih => obtain ⟨a, b⟩ := x; unfold Tbl.erase; split <;> simp <;> omega

theorem setRun_len {α : Type} [DecidableEq α] (d : Nat → α) (vs : List α) (t : Tbl α) (k : Nat) :
    (Tbl.setRun d t k vs).length ≤ t.length + vs.length := by
  induction vs generalizing t k with
  | nil => simp [Tbl.setRun]
  | cons v vs ih =>
    have h : (Tbl.set d t k v).length ≤ t.length + 1 := by
      unfold Tbl.set
      split
      · exact Nat.le_succ_of_le (erase_len t k)
      · exact insert_len t k v
    refine Nat.le_trans (ih (Tbl.set d t k v) (k + 1)) ?_
    simp only [List.length_cons]; omega

theorem chunks_of (t : Tbl (Option Byte)) :
    ({ up with cal := { up.cal with chunks := [(0, t)] } } : Chip).calChunks 0 = t := rfl

theorem staging_ok (u t : Tbl (Option Byte)) (ht : t ≠ []) (h : t.length ≤ 4933) :
    (Chip.setCal (fun m => { m with chunks := Tbl.set dNil m.chunks 0 t })
      ({ up with cal := { up.cal with chunks := [(0, u)] } } : Chip)).stagingFull 0 = false := by
  have e1 : Tbl.set dNil [(0, u)] 0 t = [(0, t)] := by
    unfold Tbl.set; rw [if_neg (show ¬t = dNil 0 from ht)]; rfl
  have e2 : (Chip.setCal (fun m => { m with chunks := Tbl.set dNil m.chunks 0 t })
      ({ up with cal := { up.cal with chunks := [(0, u)] } } : Chip)).cal.chunks = [(0, t)] := e1
  have e3 : (Chip.setCal (fun m => { m with chunks := Tbl.set dNil m.chunks 0 t })
      ({ up with cal := { up.cal with chunks := [(0, u)] } } : Chip)).staged = [] := rfl
  have e4 : Tbl.get dNil [(0, t)] 0 = t := rfl
  unfold Chip.stagingFull Chip.chunkBytes
  rw [e2, e3, e4]
  simp [stagedBytes, Tbl.get, dNil]; omega

theorem chunks_ne (u : Tbl (Option Byte)) : Tbl.setRun dNone u 0 [some 0x4A] ≠ [] := by
  intro h
  have := Tbl.get_setRun_at dNone [some 0x4A] u 0 0 (by decide)
  rw [h] at this
  exact absurd this (by decide)

theorem chunks_le (l : List (Option Byte)) (h : l.length = 4932) :
    (Tbl.setRun dNone (Tbl.setRun dNone [] 0 l) 0 [some 0x4A]).length ≤ 4933 := by
  have h1 := setRun_len dNone l [] 0
  have h2 := setRun_len dNone [some 0x4A] (Tbl.setRun dNone [] 0 l) 0
  simp only [List.length_cons, List.length_nil] at h1 h2
  omega

theorem witness_CalibrationStarts_last :
    let k := cmd 3 6 (handle 1 0) [1, 0, 0, 0, 0x4A];
    let c := { up with cal := { up.cal with chunks := [(0, Tbl.setRun dNone [] 0 (factorySet.map some))] } };
    Ready 3 6 k (put c k) ∧ 5 ≤ k.payload.length ∧ k.payload.length ≤ 4080 ∧ zeroAt k.payload 1 1 = true ∧
      fld k.payload 2 2 + (k.payload.length - 4) ≤ 4932 ∧ c.cal.write = none ∧ fld k.payload 0 1 = 1 ∧
      (let t := Tbl.setRun dNone (c.calChunks k.ctx) (fld k.payload 2 2) ((k.payload.drop 4).map some);
        (c.setCal (fun m => { m with chunks := Tbl.set dNil m.chunks k.ctx t })).stagingFull k.ctx = false ∧ c.calSetBad t = none) := by
  intro k c
  have hF : factorySet.length = 4932 := by simp [factorySet, calImage]
  have hk : Tbl.setRun dNone (c.calChunks k.ctx) (fld k.payload 2 2) ((k.payload.drop 4).map some)
      = Tbl.setRun dNone (Tbl.setRun dNone [] 0 (factorySet.map some)) 0 [some 0x4A] := by
    rw [show c.calChunks k.ctx = Tbl.setRun dNone [] 0 (factorySet.map some) from chunks_of _]
    rfl
  have hs := staging_ok (Tbl.setRun dNone [] 0 (factorySet.map some))
  refine ⟨ready (by decide +kernel), by decide, by decide, by decide, by decide, rfl, by decide, ?_, factory_set_ok _ _ rfl ?_⟩
  · rw [hk]; exact hs _ (chunks_ne _) (chunks_le _ (by simp [hF]))
  rw [hk]
  apply List.ext_getElem (by simp [hF])
  intro i h1 h2
  rw [Tbl.getRun_getElem, Nat.zero_add]
  have hi : i < (factorySet.map some).length := h2
  match i with
  | 0 =>
    rw [show Tbl.get dNone (Tbl.setRun dNone (Tbl.setRun dNone [] 0 (factorySet.map some)) 0 [some 0x4A]) 0 = some 0x4A from
      Tbl.get_setRun_at _ [some 0x4A] _ 0 0 (by decide)]
    have h0 : factorySet[0]'(by omega) = 0x4A := by
      have : factorySet[0]? = some 0x4A := by decide +kernel
      exact (List.getElem?_eq_some_iff.mp this).2
    simp [h0]
  | j + 1 =>
    have := Tbl.get_setRun_at dNone (factorySet.map some) [] 0 (j + 1) hi
    rw [Nat.zero_add] at this
    rw [Tbl.get_setRun_other _ _ _ _ _ (Or.inr (by simp)), this]


/-! ### Loops, zones, the clock, links -/

/-- `up` with loop 0 of one PID node. -/
def pid0 : Chip := (up.setAttr tyLoop 0 5 [1, 0]).setAttr tyLoop 0 0x100 [3, 0, 0, 0, 0, 0, 0, 0]

theorem witness_LoopsTakeCommands :
    (let k := cmd 5 0 (handle tyLoop 0) [];
      Ready 5 0 k (put pid0 k) ∧ k.payload = [] ∧ (pid0.loop k.inst).enabled = false) ∧
    (let k := cmd 5 0 (handle tyLoop 0) [];
      let c := pid0.setLoop 0 { dLoop 0 with enabled := true };
      Ready 5 0 k (put c k) ∧ k.payload = [] ∧ (c.loop k.inst).enabled = true) ∧
    (let k := cmd 5 1 (handle tyLoop 511) [];
      Ready 5 1 k (put up k) ∧ k.payload = []) ∧
    (let k := cmd 5 2 (handle tyLoop 0) [0, 0, 0, 0];
      Ready 5 2 k (put up k) ∧ k.payload.length = 4 ∧ fld k.payload 0 1 = 0 ∧ zeroAt k.payload 1 3 = true) ∧
    (let k := cmd 5 2 (handle tyLoop 0) [1, 0, 0, 0];
      Ready 5 2 k (put up k) ∧ k.payload.length = 4 ∧ fld k.payload 0 1 = 1 ∧ zeroAt k.payload 1 3 = true) ∧
    (let k := cmd 5 2 (handle tyLoop 0) [2, 0, 0, 0];
      Ready 5 2 k (put up k) ∧ k.payload.length = 4 ∧ fld k.payload 0 1 = 2 ∧ zeroAt k.payload 1 3 = true ∧
        (up.loop k.inst).swap = none) ∧
    (let k := cmd 5 3 (handle tyLoop 0) [];
      Ready 5 3 k (put up k) ∧ k.payload = []) ∧
    (let k := cmd 5 4 (handle tyLoop 0) [0, 0, 0, 0, 0, 0, 1, 0];
      Ready 5 4 k (put pid0 k) ∧ k.payload.length = 8 ∧ fld k.payload 0 2 < (pid0.loopNodes k.inst).length ∧
        nodeOp ((pid0.loopNodes k.inst).getD (fld k.payload 0 2) 0) = 3 ∧ zeroAt k.payload 2 2 = true) ∧
    (let k := cmd 5 5 (handle tyLoop 0) [];
      Ready 5 5 k (put up k) ∧ k.payload = [] ∧ (up.loop k.inst).alarmAt ≠ some up.clk.now) ∧
    (let k := cmd 5 5 (handle tyLoop 511) [];
      let c := up.setLoop 511 { dLoop 511 with alarm := true, alarmAt := some 1000000000 };
      Ready 5 5 k (put c k) ∧ k.payload = [] ∧ (c.loop k.inst).alarmAt = some c.clk.now) := by
  refine ⟨?_, ?_, ?_, ?_, ?_, ?_, ?_, ?_, ?_, ?_⟩ <;> exact ra (by decide +kernel)

/-- `up` with zone 0 enabled. -/
def zone0 : Chip := up.setAttr tyZone 0 1 [1, 0, 0, 0]

theorem witness_ZonesTakeCommands :
    (let k := cmd 6 0 (handle tyZone 63) [];
      Ready 6 0 k (put up k) ∧ k.payload = []) ∧
    (let k := cmd 6 1 (handle tyZone 0) [];
      Ready 6 1 k (put zone0 k) ∧ k.payload = [] ∧ (zone0.zone k.inst).fit.isSome = false) ∧
    (let k := cmd 6 2 (handle tyZone 0) [];
      Ready 6 2 k (put zone0 k) ∧ k.payload = []) ∧
    (let k := cmd 6 3 (handle tyZone 0) [0xFF, 0xFF, 0, 0];
      Ready 6 3 k (put zone0 k) ∧ k.payload.length = 4 ∧ zeroAt k.payload 2 2 = true) ∧
    (let k := cmd 6 3 (handle tyZone 0) [0, 0, 0, 0];
      Ready 6 3 k (put zone0 k) ∧ k.payload.length = 4 ∧ zeroAt k.payload 2 2 = true ∧ fld k.payload 0 2 = 0) ∧
    (let k := cmd 6 4 (handle tyZone 0) [];
      Ready 6 4 k (put zone0 k) ∧ k.payload = []) ∧
    (let k := cmd 6 5 (handle tyZone 0) [0, 0, 0x14, 0, 1, 0, 0xD0, 2];
      let c := zone0.setAttr tyZone 0 15 ([0, 1, 0, 0] ++ zeros 8);
      Ready 6 5 k (put c k) ∧ k.payload.length = 8 ∧ fld k.payload 4 1 = 1 ∧ zeroAt k.payload 5 1 = true ∧
        1 ≤ fld k.payload 6 2 ∧ fld k.payload 6 2 = 720 ∧ (c.boostOf k.inst (decide (fld k.payload 4 1 = 1))).1 ≤ 5 ∧
        c.zoneEn k.inst = true) ∧
    (let k := cmd 6 5 (handle tyZone 0) [0, 0, 0x14, 0, 2, 0, 1, 0];
      let c := zone0.setAttr tyZone 0 15 ([0, 5, 0, 0] ++ zeros 8);
      Ready 6 5 k (put c k) ∧ k.payload.length = 8 ∧ fld k.payload 4 1 = 2 ∧ zeroAt k.payload 5 1 = true ∧
        1 ≤ fld k.payload 6 2 ∧ fld k.payload 6 2 ≤ 720 ∧ (c.boostOf k.inst (decide (fld k.payload 4 1 = 1))).1 ≤ 5 ∧
        c.zoneEn k.inst = true) ∧
    (let k := cmd 6 5 (handle tyZone 0) [0, 0, 0x14, 0, 2, 0, 1, 0];
      let c := up.setAttr tyZone 0 15 ([0, 5, 0, 0] ++ zeros 8);
      Ready 6 5 k (put c k) ∧ k.payload.length = 8 ∧ fld k.payload 4 1 = 2 ∧ zeroAt k.payload 5 1 = true ∧
        1 ≤ fld k.payload 6 2 ∧ fld k.payload 6 2 ≤ 720 ∧ (c.boostOf k.inst (decide (fld k.payload 4 1 = 1))).1 ≤ 5 ∧
        c.zoneEn k.inst = false) ∧
    (let k := cmd 6 1 (handle tyZone 63) [];
      let c := up.startFit 63;
      Ready 6 1 k (put c k) ∧ k.payload = [] ∧ (c.zone k.inst).fit.isSome = true) ∧
    (let k := cmd 6 3 (handle tyZone 0) [0, 0, 0, 0];
      let c := zone0.setZone 0 { dZone 0 with model := .suspect };
      Ready 6 3 k (put c k) ∧ k.payload.length = 4 ∧ zeroAt k.payload 2 2 = true ∧ (c.zone k.inst).model = .suspect) := by
  refine ⟨?_, ?_, ?_, ?_, ?_, ?_, ?_, ?_, ?_, ?_, ?_⟩ <;> exact ra (by decide +kernel)

/-- `up` as a follower of another bellwether. -/
def following : Chip := up.setFabric (fun f => { f with bwUid := 0xFFFFFFFFFFFFFFFF })

/-- A calibration of the crystal at two temperatures. -/
def ephTable : List Byte := [2, 0, 0, 0] ++ [0xEC, 0, 0] ++ [0x28, 0, 0] ++ zeros 42

theorem witness_ClockTakesCommands :
    (let k := cmd 7 0 (handle tyClock 0) [];
      Ready 7 0 k (put up k) ∧ k.payload = []) ∧
    (let k := cmd 7 1 (handle tyClock 0) [0, 0, 0, 0, 0, 0, 0, 0x30, 0, 0, 0, 0];
      Ready 7 1 k (put up k) ∧ k.payload.length = 12 ∧ up.follower = false) ∧
    (let k := cmd 7 1 (handle tyClock 0) [0, 0, 0, 0, 0, 0, 0, 0x30, 0, 0, 0, 0];
      Ready 7 1 k (put following k) ∧ k.payload.length = 12 ∧ following.follower = true) ∧
    timeSetCount following [0, 0, 0, 0, 0, 0, 0, 0x30, 0, 0, 0, 0] = .ok 0x30000000 ∧
    timeSetCount up [0, 0, 0, 0, 0, 0, 0, 0x30, 0, 0, 0, 0] = .ok 0x30000000 ∧
    (let k := cmd 7 2 (handle tyClock 0) [60, 0, 1, 0, 0, 0, 0, 0x30, 0, 0, 120, 0];
      Ready 7 2 k (put up k) ∧ k.payload.length = 4 + 8 * fld k.payload 2 1 ∧ fld k.payload 2 1 ≤ 16 ∧ calendarBad k.payload = none) ∧
    (let k := cmd 7 3 (handle tyClock 0) [0x80, 0x51, 1, 0, 3, 0, 0, 0];
      Ready 7 3 k (put up k) ∧ k.payload.length = 8 ∧ wakeValid (fld k.payload 0 4) = true ∧ fld k.payload 4 1 = 3 ∧
        zeroAt k.payload 5 3 = true) ∧
    (let k := cmd 7 4 (handle tyClock 0) [1, 0, 0, 0, 0, 7, 0, 0];
      Ready 7 4 k (put up k) ∧ k.payload.length = 8 ∧ fld k.payload 5 1 ≤ 15 ∧
        (bit (fld k.payload 5 1) 2 && bit (fld k.payload 5 1) 3) = false ∧ zeroAt k.payload 6 2 = true ∧
        (bit (fld k.payload 5 1) 0 = true → up.rtc.count.toNat < fld k.payload 0 5)) ∧
    (let k := cmd 7 5 (handle tyClock 0) [0, 0, 0, 0];
      Ready 7 5 k (put up k) ∧ k.payload.length = 4 ∧ fld k.payload 0 1 = 0 ∧ zeroAt k.payload 1 3 = true) ∧
    (let k := cmd 7 6 (handle tyClock 0) ephTable;
      Ready 7 6 k (put up k) ∧ k.payload.length = 52 ∧ ephBad k.payload = none ∧ up.almanac.ephWriting = none) ∧
    (let k := cmd 7 7 (handle tyClock 0) [63, 0, 0, 0];
      Ready 7 7 k (put up k) ∧ k.payload.length = 4 ∧ fld k.payload 0 1 = 63 ∧ zeroAt k.payload 1 3 = true ∧
        up.nextStart (fld k.payload 0 1) up.rtc.count.toNat = none) ∧
    ({ up with almanac := { up.almanac with ephWriting := some (0, 7) } } : Chip).almanac.ephWriting = some (0, 7) := by
  refine ⟨?_, ?_, ?_, rfl, rfl, ?_, ?_, ?_, ?_, ?_, ?_, rfl⟩ <;> exact ra (by decide +kernel)


/-! ### Links, buses, panels, power, images, events -/

theorem witness_LinksTakeCommands :
    (let k := cmd 8 0 (handle tyLink 5) [];
      Ready 8 0 k (put up k) ∧ k.payload = []) ∧
    (let k := cmd 8 1 (handle tyLink 0) [];
      Ready 8 1 k (put up k) ∧ k.payload = [] ∧ (up.link k.inst).retrain = none ∧ (up.link k.inst).phase ≠ .disabled ∧
        up.clk.refRun = true) ∧
    (let k := cmd 8 1 (handle tyLink 5) [];
      let c := Chip.setLink 5 { dLink 5 with phase := .disabled } up;
      Ready 8 1 k (put c k) ∧ k.payload = [] ∧ (c.link k.inst).retrain = none ∧ (c.link k.inst).phase = .disabled) ∧
    (let k := cmd 8 1 (handle tyLink 5) [];
      let c := Chip.setLink 5 { dLink 5 with retrain := some (0, 9, 5000000000) } up;
      Ready 8 1 k (put c k) ∧ k.payload = [] ∧ (c.link k.inst).retrain ≠ none) ∧
    (let k := cmd 8 2 (handle 1 0) [0, 0, 0, 0];
      Ready 8 2 k (put up k) ∧ k.payload.length = 4 ∧ zeroAt k.payload 2 2 = true) ∧
    (let k := cmd 8 3 (handle tyRoute 0) [];
      Ready 8 3 k (put up k) ∧ k.payload = []) ∧
    (let k := cmd 8 4 (handle 1 0) [];
      Ready 8 4 k (put up k) ∧ k.payload = []) ∧
    (let k := cmd 8 5 (handle tyLink 0) [0, 0, 0, 0];
      Ready 8 5 k (put up k) ∧ k.payload.length = 4 ∧ fld k.payload 0 1 = 0 ∧ zeroAt k.payload 1 3 = true) ∧
    (let k := cmd 8 5 (handle tyLink 5) [1, 0, 0, 0];
      Ready 8 5 k (put up k) ∧ k.payload.length = 4 ∧ fld k.payload 0 1 = 1 ∧ zeroAt k.payload 1 3 = true) := by
  refine ⟨?_, ?_, ?_, ?_, ?_, ?_, ?_, ?_, ?_⟩ <;> exact ra (by decide +kernel)

/-- A link whose retraining a command waits for, in the phase given. -/
def retraining (p : LinkPhase) : Chip := Chip.setLink 5 { dLink 5 with phase := p, retrain := some (0, 7, 5000000000) } up

theorem witness_LinkRetrainDone :
    ((retraining .up).link 5).retrain = some (0, 7, 5000000000) ∧ ((retraining .up).link 5).phase = .up ∧
      ((retraining .isolated).link 5).retrain = some (0, 7, 5000000000) ∧ ((retraining .isolated).link 5).phase = .isolated ∧
      ((retraining .training).link 5).retrain = some (0, 7, 5000000000) ∧ ((retraining .training).link 5).phase ≠ .up ∧
      ((retraining .training).link 5).phase ≠ .isolated := by decide +kernel

/-- `up` with CAN controller `m` started. -/
def canOn (m : Nat) : Chip := Chip.setCan m { dCan m with started := true } up

/-- A classical frame of no data with identifier 0. -/
def frame0 : List Byte := [0, 0, 0, 0, 0, 0, 0, 0]

/-- A frame of CAN_SEND that has not started. -/
def pend0 : CanPend := ⟨0, some (0, 9), 0x3F, false, sendFrame frame0, 0, 0, 0⟩

theorem witness_BusesTakeCommands :
    (let k := cmd 9 0 (handle tyCan 1) [];
      Ready 9 0 k (put (canOn 1) k) ∧ k.payload = [] ∧ ((canOn 1).canOf k.inst).started = true) ∧
    (let k := cmd 9 0 (handle tyCan 0) [];
      Ready 9 0 k (put up k) ∧ k.payload = [] ∧ (up.canOf k.inst).started = false ∧ up.islandHeld = false) ∧
    (let k := cmd 9 1 (handle tyCan 0) [];
      Ready 9 1 k (put (canOn 0) k) ∧ k.payload = [] ∧ ((canOn 0).canOf k.inst).started = true ∧
        ((canOn 0).canOf k.inst).flight = none) ∧
    (let k := cmd 9 1 (handle tyCan 0) [];
      let c := Chip.setCan 0 { dCan 0 with started := true, flight := some ⟨pend0, false, []⟩ } up;
      Ready 9 1 k (put c k) ∧ k.payload = [] ∧ (c.canOf k.inst).started = true ∧ (c.canOf k.inst).flight.isSome = true ∧
        (c.canOf k.inst).stopCmd = none) ∧
    (let k := cmd 9 1 (handle tyCan 1) [];
      Ready 9 1 k (put up k) ∧ k.payload = [] ∧ (up.canOf k.inst).started = false) ∧
    (let k := cmd 9 2 (handle tyCan 0) frame0;
      let c := canOn 0;
      Ready 9 2 k (put c k) ∧ 8 ≤ k.payload.length ∧ k.payload.length ≤ 72 ∧ c.sendBad k.inst k.payload = none ∧
        (c.canOf k.inst).queued = [] ∧ (c.canOf k.inst).started = true ∧ (c.canOf k.inst).stopCmd = none ∧
        c.canSilent k.inst = false ∧ c.islandHeld = false ∧ bit (fld k.payload 4 1) 3 = false ∧ (c.canOf k.inst).pendCount < 32 ∧
        (c.queue (40 + 4 * k.inst)).hasRoom (entriesFor (c.queue (40 + 4 * k.inst)).eshift k.payload.length) = true) ∧
    (let k := cmd 9 3 (handle tyCan 0) [9, 0, 0xFF, 0];
      let t := { cmd 9 2 (handle tyCan 0) frame0 with tag := 9, phase := .running };
      let c := Chip.setCan 0 { dCan 0 with started := true, pend := [pend0] } up;
      let s : State := ⟨{ c with cmds := [t, k] }, []⟩;
      Ready 9 3 k s ∧ k.payload.length = 4 ∧ zeroAt k.payload 3 1 = true ∧ namedCtx k (fld k.payload 2 1) = some 0 ∧
        s.chip.findCmd 0 (fld k.payload 0 2) = some t ∧ t.family = 9 ∧ t.opcode = 2 ∧ t.inst = k.inst ∧ t.tag = fld k.payload 0 2 ∧
        t.phase = .running ∧ (s.chip.canOf k.inst).pend.any (fun p => p.cmd == some (0, t.tag)) = true) ∧
    (let k := cmd 9 3 (handle tyCan 0) [9, 0, 0xFF, 0];
      Ready 9 3 k (put up k) ∧ k.payload.length = 4 ∧ zeroAt k.payload 3 1 = true ∧ namedCtx k (fld k.payload 2 1) = some 0 ∧
        up.findCmd 0 (fld k.payload 0 2) = none) ∧
    (let k := cmd 9 4 (handle tyCan 1) [];
      Ready 9 4 k (put up k) ∧ k.payload = []) ∧
    (let k := cmd 9 5 (handle tyCan 0) [7, 0, 0, 0];
      Ready 9 5 k (put up k) ∧ k.payload.length = 4 ∧ fld k.payload 0 1 ≤ 7 ∧ zeroAt k.payload 1 3 = true) ∧
    (let k := cmd 9 5 (handle tyCan 0) [0xFF, 0, 0, 0];
      Ready 9 5 k (put up k) ∧ k.payload.length = 4 ∧ fld k.payload 0 1 = 0xFF ∧ zeroAt k.payload 1 3 = true) := by
  refine ⟨?_, ?_, ?_, ?_, ?_, ?_, ?_, ?_, ?_, ?_, ?_⟩ <;> exact ra (by decide +kernel)

/-- A CAN queue that is configured: `up` has the reset configuration of every queue. -/
theorem witness_CanTakesCommands_cases :
    (let k := cmd 9 0 (handle tyCan 0) [];
      let c := up.setPower (fun p => { p with debugHalt := true });
      Ready 9 0 k (put c k) ∧ k.payload = [] ∧ (c.canOf k.inst).started = false ∧ c.islandHeld = true) ∧
    (let k := cmd 9 2 (handle tyCan 1) frame0;
      Ready 9 2 k (put up k) ∧ 8 ≤ k.payload.length ∧ k.payload.length ≤ 72 ∧ up.sendBad k.inst k.payload = none ∧
        (up.canOf k.inst).queued = [] ∧ (up.canOf k.inst).started = false) ∧
    (let k := cmd 9 2 (handle tyCan 0) frame0;
      let c := Chip.setCan 0 { dCan 0 with started := true, pend := List.replicate 32 pend0 } up;
      Ready 9 2 k (put c k) ∧ 8 ≤ k.payload.length ∧ k.payload.length ≤ 72 ∧ c.sendBad k.inst k.payload = none ∧
        (c.canOf k.inst).queued = [] ∧ (c.canOf k.inst).started = true ∧ (c.canOf k.inst).stopCmd = none ∧ c.canSilent k.inst = false ∧
        c.islandHeld = false ∧ bit (fld k.payload 4 1) 3 = false ∧ (c.canOf k.inst).pendCount = 32 ∧
        (c.queue 40).hasRoom (entriesFor (c.queue 40).eshift k.payload.length) = true) ∧
    (let k := cmd 9 2 (handle tyCan 0) frame0;
      let c := { canOn 0 with queues := Tbl.set dQueue up.queues 40 { up.queue 40 with tail := (up.queue 40).depth } };
      Ready 9 2 k (put c k) ∧ 8 ≤ k.payload.length ∧ k.payload.length ≤ 72 ∧ c.sendBad k.inst k.payload = none ∧
        (c.canOf k.inst).queued = [] ∧ (c.canOf k.inst).started = true ∧ (c.canOf k.inst).stopCmd = none ∧ c.canSilent k.inst = false ∧
        c.islandHeld = false ∧ (c.queue 40).hasRoom (entriesFor (c.queue 40).eshift k.payload.length) = false) ∧
    (let k := cmd 9 2 (handle tyCan 0) [0, 0, 0, 0, 8, 0, 63, 0];
      let c := ((canOn 0).setAttr tyCan 0 1 [1, 0, 0, 0]).setAttr tyCan 0 8 (zeros 756 ++ [0, 0, 0, 0, 0, 3] ++ zeros 6);
      Ready 9 2 k (put c k) ∧ 8 ≤ k.payload.length ∧ k.payload.length ≤ 72 ∧ c.sendBad k.inst k.payload = none ∧
        (c.canOf k.inst).queued = [] ∧ (c.canOf k.inst).started = true ∧ (c.canOf k.inst).stopCmd = none ∧ c.canSilent k.inst = false ∧
        c.islandHeld = false ∧ bit (fld k.payload 4 1) 3 = true ∧
        (c.queue 41).hasRoom (entriesFor (c.queue 41).eshift k.payload.length) = true) ∧
    (let k := cmd 9 3 (handle tyCan 0) [9, 0, 0xFF, 0];
      let t := { cmd 9 2 (handle tyCan 0) frame0 with tag := 9 };
      let s : State := ⟨{ canOn 0 with cmds := [t, k] }, []⟩;
      Ready 9 3 k s ∧ k.payload.length = 4 ∧ zeroAt k.payload 3 1 = true ∧ namedCtx k (fld k.payload 2 1) = some 0 ∧
        s.chip.findCmd 0 (fld k.payload 0 2) = some t ∧ t.family = 9 ∧ t.opcode = 2 ∧ t.inst = k.inst ∧ t.tag = fld k.payload 0 2 ∧
        (s.chip.canOf k.inst).queued.any (fun p => p.cmd == some (0, t.tag)) = false ∧ t.phase = .fetched) ∧
    (let k := cmd 9 3 (handle tyCan 0) [9, 0, 0xFF, 0];
      let t := { cmd 9 2 (handle tyCan 0) frame0 with tag := 9, phase := .running };
      let c := Chip.setCan 0 { dCan 0 with started := true, flight := some ⟨pend0, false, []⟩ } up;
      let s : State := ⟨{ c with cmds := [t, k] }, []⟩;
      Ready 9 3 k s ∧ k.payload.length = 4 ∧ zeroAt k.payload 3 1 = true ∧ namedCtx k (fld k.payload 2 1) = some 0 ∧
        s.chip.findCmd 0 (fld k.payload 0 2) = some t ∧ t.family = 9 ∧ t.opcode = 2 ∧ t.inst = k.inst ∧ t.tag = fld k.payload 0 2 ∧
        (s.chip.canOf k.inst).queued.any (fun p => p.cmd == some (0, t.tag)) = false ∧ t.phase = .running ∧
        (s.chip.canOf k.inst).pend.any (fun p => p.cmd == some (0, t.tag)) = false ∧
        (s.chip.canOf k.inst).flight = some ⟨pend0, false, []⟩ ∧ pend0.cmd = some (0, t.tag)) := by
  refine ⟨?_, ?_, ?_, ?_, ?_, ?_, ?_⟩ <;> exact ra (by decide +kernel)


/-- `up` with panel 0 enabled and a waveform table that has all four modes. -/
def panelOn : Chip :=
  { up.setAttr tyPanel 0 1 [1, 0, 0, 0] with plate := { up.plate with tables := [(0, zeros 13 ++ [0x0F])] } }

/-- The same with its rails up. -/
def railsUp : Chip := Chip.setPanel 0 { dPanel 0 with rails := .up } panelOn

theorem witness_PanelsTakeCommands :
    (let k := cmd 0xA 0 (handle tyPanel 1) [1, 1, 0, 0];
      Ready 0xA 0 k (put up k) ∧ k.payload.length = 4 ∧ fld k.payload 0 1 = 1 ∧ fld k.payload 1 1 ≤ 1 ∧ zeroAt k.payload 2 2 = true ∧
        (up.panel k.inst).power = none ∧ up.islandHeld = false ∧ up.thermal.shutdown = false ∧ (up.panel k.inst).rails = .off) ∧
    (let k := cmd 0xA 0 (handle tyPanel 0) [0, 0, 0, 0];
      let c := railsUp;
      Ready 0xA 0 k (put c k) ∧ k.payload.length = 4 ∧ fld k.payload 0 1 = 0 ∧ fld k.payload 1 1 = 0 ∧ zeroAt k.payload 2 2 = true ∧
        (c.panel k.inst).power = none ∧ (c.panel k.inst).rails = .up ∧ c.anyTransition k.inst = false ∧
        c.anyPending k.inst = false) ∧
    (let k := cmd 0xA 1 (handle tyPanel 0) [0, 0, 0, 0, 8, 0, 1, 0, 3, 0, 0, 0];
      let c := railsUp;
      Ready 0xA 1 k (put c k) ∧ k.payload.length = 12 ∧ c.regionBad k.inst false k.payload = none ∧ c.regionBusy k.inst = false ∧
        c.thermal.shutdown = false ∧ bit (fld k.payload 9 1) 1 = false ∧
        c.admits k.inst (fld k.payload 0 2) (fld k.payload 2 2) (fld k.payload 4 2) (fld k.payload 6 2) = true) ∧
    (let k := cmd 0xA 2 (handle tyPanel 0) [0, 0, 0, 0, 0, 0, 0, 0, 15, 2, 0, 0];
      let c := railsUp;
      Ready 0xA 2 k (put c k) ∧ k.payload.length = 12 ∧ c.regionBad k.inst true k.payload = none ∧ c.regionBusy k.inst = false ∧
        c.thermal.shutdown = false ∧ bit (fld k.payload 9 1) 1 = true ∧
        c.admits k.inst 0 0 (c.hActive k.inst) (c.vActive k.inst) = true) ∧
    (let k := cmd 0xA 3 (handle tyPanel 1) [];
      Ready 0xA 3 k (put up k) ∧ k.payload = []) ∧
    (let k := cmd 0xA 4 (handle tyPanel 0) [0, 127, 3, 0];
      Ready 0xA 4 k (put panelOn k) ∧ k.payload.length = 4 ∧ 1 ≤ fld k.payload 1 1 ∧ fld k.payload 1 1 ≤ 127 ∧
        waveMode (panelOn.wave k.inst) (fld k.payload 2 1) = true ∧ zeroAt k.payload 3 1 = true) ∧
    (let k := cmd 0xA 5 (handle tyPanel 0) [63, 0, 0, 0];
      let c := railsUp.setAttr tyDevice 0 (0xA00 + 63) ([1] ++ zeros 31);
      Ready 0xA 5 k (put c k) ∧ k.payload.length = 4 ∧ fld k.payload 0 1 ≤ 63 ∧ zeroAt k.payload 1 3 = true ∧
        (c.panel k.inst).fault = false ∧ c.fieldOn (fld k.payload 0 1) = true ∧
        fieldPanel (c.fieldRec (fld k.payload 0 1)) = k.inst) := by
  refine ⟨?_, ?_, ?_, ?_, ?_, ?_, ?_⟩ <;> exact ra (by decide +kernel)

theorem witness_PowerTakesCommands :
    (let k := cmd 0xB 0 (handle 1 0) [];
      Ready 0xB 0 k (put up k) ∧ k.payload = []) ∧
    (let k := cmd 0xB 1 (handle tyThermal 0) [];
      Ready 0xB 1 k (put up k) ∧ k.payload = []) ∧
    (let k := cmd 0xB 2 (handle 1 0) [10, 0, 0, 0];
      Ready 0xB 2 k (put up k) ∧ k.payload.length = 4 ∧ 10 ≤ fld k.payload 0 2 ∧ fld k.payload 0 2 ≤ 5000 ∧
        zeroAt k.payload 2 2 = true) ∧
    (let k := cmd 0xB 2 (handle 1 0) [0x88, 0x13, 0, 0];
      Ready 0xB 2 k (put up k) ∧ k.payload.length = 4 ∧ 10 ≤ fld k.payload 0 2 ∧ fld k.payload 0 2 = 5000 ∧
        zeroAt k.payload 2 2 = true) ∧
    (let k := cmd 0xB 3 (handle 1 0) [];
      Ready 0xB 3 k (put up k) ∧ k.payload = []) ∧
    (let k := cmd 0xB 4 (handle tyThermal 0) [0xA0, 0x0F, 0, 0];
      Ready 0xB 4 k (put up k) ∧ up.ownerIsMgt (handle tyThermal 0) = isMgtCtx k.ctx ∧ k.payload.length = 4 ∧
        2850 ≤ fld k.payload 0 2 ∧ fld k.payload 0 2 = 4000 ∧ zeroAt k.payload 2 2 = true) := by
  refine ⟨?_, ?_, ?_, ?_, ?_, ?_⟩ <;> exact ra (by decide +kernel)

theorem witness_ResetDelay :
    let c := up.setPower (fun w => { w with resetAt := [5000000000, 2000000000] });
    c.power.resetAt.min? = some 2000000000 ∧ c.power.aoOn = true ∧ c.power.main.up = true := by decide +kernel

/-- `up` running from bank A, a firmware buffer for bank B held by context 0. -/
def fwUp (b : List Byte) : Chip :=
  { up with firmware := { up.firmware with running := some false, buffer := b, bufferOwner := some (0, true) } }

theorem witness_FirmwareIsWritten :
    (let k := cmd 0xC 0 (handle tyFirmware 0) [];
      Ready 0xC 0 k (put up k) ∧ k.payload = [] ∧ up.firmware.bankState false ≠ 2 ∧ up.firmware.bankState true ≠ 2) ∧
    (let k := cmd 0xC 1 (handle tyFirmware 1) [0, 0, 0, 0, 0x4A];
      let c := { fwUp [] with firmware := { (fwUp []).firmware with bufferOwner := none } };
      Ready 0xC 1 k (put c k) ∧ 5 ≤ k.payload.length ∧ fld k.payload 0 4 = 0 ∧ k.payload.length ≤ 4194308 ∧
        c.firmware.running ≠ some (k.inst == 1) ∧ c.firmware.bufferOwner = none ∧ c.firmware.commit = none) ∧
    (let k := cmd 0xC 3 (handle tyFirmware 1) [1, 0, 0, 0];
      let c := { fwUp [] with firmware := { (fwUp []).firmware with bankB := .image true 0x302 4096 } };
      Ready 0xC 3 k (put c k) ∧ k.payload.length = 4 ∧ fld k.payload 0 1 = 1 ∧ zeroAt k.payload 1 3 = true ∧
        c.firmware.ptr.incomplete (k.inst == 1) = false ∧ (c.firmware.body (k.inst == 1)).sound = true) ∧
    (let k := cmd 0xC 6 (handle 1 0) [];
      Ready 0xC 6 k (put up k) ∧ k.payload = []) ∧
    (let k := cmd 0xC 4 (handle 1 0) [0, 0, 0, 0, 0x59];
      Ready 0xC 4 k (put up k) ∧ 5 ≤ k.payload.length ∧ up.image.writer = none ∧ up.imageBusy = false ∧ fld k.payload 0 4 = 0 ∧
        k.payload.length ≤ slotSize + 4) ∧
    (let k := cmd 0xC 5 (handle 1 0) [5, 0, 0, 0];
      Ready 0xC 5 k (put up k) ∧ k.payload.length = 4 ∧ fld k.payload 0 1 ≤ 7 ∧
        (bit (fld k.payload 0 1) 1 = true → isMgtCtx k.ctx = true) ∧ zeroAt k.payload 1 3 = true ∧ up.imageBusy = false) ∧
    (let k := mcmd 0xC 5 (handle 1 0) [7, 0, 0, 0];
      let c := { up with owners := [(handle 1 0, true)] };
      Ready 0xC 5 k (put c k) ∧ k.payload.length = 4 ∧ fld k.payload 0 1 ≤ 7 ∧
        (bit (fld k.payload 0 1) 1 = true ∧ isMgtCtx k.ctx = true) ∧ zeroAt k.payload 1 3 = true ∧ c.imageBusy = false) := by
  refine ⟨?_, ?_, ?_, ?_, ?_, ?_, ?_⟩ <;> exact ra (by decide +kernel)

/-- Whether an image verifies depends on Virnaper's key, which is open: any buffer that verifies will do. -/
theorem witness_FirmwareCommits (b : List Byte) (h : firmwareImageOk b = true) :
    let k := cmd 0xC 2 (handle tyFirmware 1) [1, 0, 0, 0];
    Ready 0xC 2 k (put (fwUp b) k) ∧ (k.payload.length = 4 ∧ fld k.payload 0 1 ≤ 1 ∧ zeroAt k.payload 1 3 = true ∧
      (fwUp b).firmware.running ≠ some (k.inst == 1) ∧ (fwUp b).firmware.commit = none ∧
      (fwUp b).firmware.bufferOwner = some (0, k.inst == 1)) ∧ firmwareImageOk (fwUp b).firmware.buffer = true := by
  refine ⟨ready ?_, ?_, h⟩
  · rfl
  · exact ⟨by decide, by decide, by decide, by simp [fwUp]; decide, rfl, rfl⟩

theorem witness_FirmwareCommitDone :
    let c := { fwUp [] with firmware := { (fwUp []).firmware with commit := some (0, 7, true, true) } };
    c.firmware.commit = some (0, 7, true, true) ∧ 1 < 2 ∧ 2 ≤ 2 := by decide +kernel

theorem witness_EventsAndQueuesTakeCommands :
    (let k := cmd 0xD 0 (handle tyEvent 127) [6, 0, 0, 0];
      Ready 0xD 0 k (put up k) ∧ k.payload.length = 4 ∧ bits (fld k.payload 0 4) 21 11 = 0 ∧
        up.routeRefused k.inst (fld k.payload 0 4) = false) ∧
    (let k := cmd 0xD 1 (handle tyEvent 0) [1, 0, 0, 0];
      Ready 0xD 1 k (put up k) ∧ k.payload.length = 4 ∧ fld k.payload 0 1 ≤ 1 ∧ zeroAt k.payload 1 3 = true) ∧
    (let k := cmd 0xD 2 (handle tyEvent 124) [1, 0, 0, 0];
      Ready 0xD 2 k (put up k) ∧ k.payload.length = 4 ∧ fld k.payload 0 1 ≤ 1 ∧ zeroAt k.payload 1 3 = true) ∧
    (let k := cmd 0xD 3 (handle tyQueue 20) [0, 0, 7, 0, 16, 0, 4, 1, 1, 0, 10, 0];
      Ready 0xD 3 k (put up k) ∧ k.payload.length = 12 ∧ up.queueConfigBad k.inst k.payload = none ∧
        ((up.queue k.inst).enable = true → (up.queue k.inst).fill = 0) ∧
        (k.inst < 16 → (up.session (k.inst % 8)).opened = false)) ∧
    (let k := cmd 0xD 4 (handle tyQueue 63) [];
      Ready 0xD 4 k (put up k) ∧ k.payload = []) ∧
    (let k := cmd 0xD 5 (handle tyQueue 0) [255, 0, 0xFF, 0xFF];
      Ready 0xD 5 k (put up k) ∧ k.payload.length = 4 ∧ fld k.payload 0 1 ≠ 0 ∧ zeroAt k.payload 1 1 = true) := by
  refine ⟨?_, ?_, ?_, ?_, ?_, ?_⟩ <;> exact ra (by decide +kernel)

/-- A capture of channel 0 in range 1 whose port is active. -/
def capturing (p : Chip) : Chip := { p with cal := { p.cal with captures := [⟨0, 7, 0, 1, false, 0, 1000000000, 2000000000⟩] } }

theorem witness_DiagnosticsTakeCommands :
    (let k := cmd 0xE 0 (handle 1 0) [0xFF, 0xFF, 0xFF, 0xFF, 32, 0, 0, 0];
      Ready 0xE 0 k (put up k) ∧ k.payload.length = 8 ∧ 1 ≤ fld k.payload 4 1 ∧ fld k.payload 4 1 ≤ 32 ∧
        zeroAt k.payload 5 3 = true) ∧
    (let k := cmd 0xE 1 (handle 1 0) [];
      Ready 0xE 1 k (put up k) ∧ k.payload = [] ∧ up.log.clearing = none) ∧
    (let k := cmd 0xE 2 (handle 1 0) [];
      Ready 0xE 2 k (put up k) ∧ k.payload = []) ∧
    (let k := cmd 0xE 3 (handle 1 0) [31, 0, 0, 0];
      Ready 0xE 3 k (put up k) ∧ k.payload.length = 4 ∧ fld k.payload 0 4 < 32 ∧ up.selftest = none) ∧
    (let k := cmd 0xE 4 (handle 1 0) [];
      Ready 0xE 4 k (put up k) ∧ k.payload = []) := by
  refine ⟨?_, ?_, ?_, ?_, ?_⟩ <;> exact ra (by decide +kernel)

theorem witness_LongEnds :
    (let c := { up with log := { up.log with clearing := some (0, 7) } }; c.log.clearing = some (0, 7)) ∧
    (let c := { up with selftest := some (0, 7, 31) }; c.selftest = some (0, 7, 31)) ∧
    (let c := capturing (up.setAttr tyPort 0 1 [1, 0, 0, 0]);
      c.cal.captures.find? (fun q => q.chan == 0) = some ⟨0, 7, 0, 1, false, 0, 1000000000, 2000000000⟩ ∧
      (List.replicate 256 2048).length = 256 ∧ c.portActive (0 / 2) = true ∧
      (((List.replicate 256 2048).map (fun x => min x 4095)).foldl max 0
        - ((List.replicate 256 2048).map (fun x => min x 4095)).foldl min 4095 ≤ 32) ∧ c.heldFull 0 1 = false) ∧
    (let c := { up with cal := { up.cal with held := [⟨0, 1, 32768, 0, 1, 5000000000⟩] } };
      c.heldZero 0 1 = some ⟨0, 1, 32768, 0, 1, 5000000000⟩) ∧
    (let c := { up with cal := { up.cal with write := some ⟨0, 7, 1, 0, [], []⟩ } };
      c.cal.write = some ⟨0, 7, 1, 0, [], []⟩ ∧ 1 < 2 ∧ 2 ≤ 2) := by
  refine ⟨rfl, rfl, ?_, ?_, ?_⟩ <;> decide +kernel

/-- Whether an image of a slot verifies depends on the integrator's key, which is open: any state in which it does will do. -/
theorem witness_YelistLoads (c : Chip) (p : ImagePlan) (idle : Bool)
    (h : Chip.verifyImage { c with image := { c.image with loading := none, badFlash := [] } } (c.slotImage (!c.image.slot)) false idle = .inr p) :
    let k := { cmd 0xC 5 (handle 1 0) [0, 0, 0, 0] with phase := .running };
    let s : State := ⟨{ c with image := { c.image with loading := some (0, 7), badFlash := [] }, cmds := [k] }, []⟩;
    let b := s.chip.slotImage (s.chip.loadSlot (fld k.payload 0 1));
    s.chip.image.loading = some (k.ctx, k.tag) ∧ s.chip.findCmd k.ctx k.tag = some k ∧ bit (fld k.payload 0 1) 0 = false ∧
      (false || s.chip.flashBad (slotBase (s.chip.loadSlot (fld k.payload 0 1))) (slotBase (s.chip.loadSlot (fld k.payload 0 1)) + slotSize)) = false ∧
      Chip.verifyImage { c with image := { c.image with loading := none, badFlash := [] } } b (bit (fld k.payload 0 1) 1) idle = .inr p :=
  ⟨rfl, rfl, rfl, rfl, h⟩

/-- An erased slot holds no image. -/
theorem witness_YelistLoads_refused :
    let k := { cmd 0xC 5 (handle 1 0) [0, 0, 0, 0] with phase := .running };
    let c := put { up with image := { up.image with loading := some (0, 7) } } k;
    c.chip.image.loading = some (k.ctx, k.tag) ∧ c.chip.findCmd k.ctx k.tag = some k ∧
      c.chip.flashBad (slotBase true) (slotBase true + slotSize) = false ∧
      (match up.verifyImage (up.slotImage true) false true with | .inl _ => true | .inr _ => false) = true := by
  decide +kernel

/-- Eight host updates that wait. -/
def eightUpdates : List PlateUpdate :=
  List.replicate 8 ⟨0, .host 0 9, 0, 0, 8, 1, 3, false, none, 0, true, 0, [], 0, 0, 0, 0, 0, 0⟩

theorem witness_PanelsTakeCommands_cases :
    (let k := cmd 0xA 0 (handle tyPanel 0) [1, 0, 0, 0];
      Ready 0xA 0 k (put railsUp k) ∧ k.payload.length = 4 ∧ fld k.payload 0 1 = 1 ∧ fld k.payload 1 1 ≤ 1 ∧ zeroAt k.payload 2 2 = true ∧
        (railsUp.panel k.inst).power = none ∧ railsUp.islandHeld = false ∧ (railsUp.panel k.inst).rails = .up) ∧
    (let k := cmd 0xA 0 (handle tyPanel 1) [1, 0, 0, 0];
      let c := up.setThermal (fun t => { t with shutdown := true });
      Ready 0xA 0 k (put c k) ∧ k.payload.length = 4 ∧ fld k.payload 0 1 = 1 ∧ fld k.payload 1 1 ≤ 1 ∧ zeroAt k.payload 2 2 = true ∧
        (c.panel k.inst).power = none ∧ c.islandHeld = false ∧ (c.panel k.inst).rails ≠ .up ∧ c.thermal.shutdown = true) ∧
    (let k := cmd 0xA 0 (handle tyPanel 1) [0, 1, 0, 0];
      Ready 0xA 0 k (put up k) ∧ k.payload.length = 4 ∧ fld k.payload 0 1 = 0 ∧ fld k.payload 1 1 ≤ 1 ∧ zeroAt k.payload 2 2 = true ∧
        (up.panel k.inst).power = none ∧ (up.panel k.inst).rails = .off) ∧
    (let k := cmd 0xA 0 (handle tyPanel 0) [0, 0, 0, 0];
      let c := Chip.modPanel 0 (fun s => { s with pixels := [(5, { dPixel 5 with pending := some ⟨3, false, false, 0, 0⟩ })] }) railsUp;
      Ready 0xA 0 k (put c k) ∧ k.payload.length = 4 ∧ fld k.payload 0 1 = 0 ∧ fld k.payload 1 1 = 0 ∧ zeroAt k.payload 2 2 = true ∧
        (c.panel k.inst).power = none ∧ (c.panel k.inst).rails ≠ .off ∧ c.anyPending k.inst = true) ∧
    (let k := cmd 0xA 0 (handle tyPanel 0) [0, 1, 0, 0];
      let c := Chip.modPanel 0 (fun s => { s with pixels := [(5, { dPixel 5 with pending := some ⟨3, false, false, 0, 0⟩ })] }) railsUp;
      Ready 0xA 0 k (put c k) ∧ k.payload.length = 4 ∧ fld k.payload 0 1 = 0 ∧ fld k.payload 1 1 = 1 ∧ zeroAt k.payload 2 2 = true ∧
        (c.panel k.inst).power = none ∧ (c.panel k.inst).rails = .up ∧ bit (fld k.payload 1 1) 0 = true) ∧
    (let k := cmd 0xA 1 (handle tyPanel 0) [0, 0, 0, 0, 8, 0, 1, 0, 3, 0, 0, 0];
      let c := Chip.modPanel 0 (fun s => { s with updates := eightUpdates }) railsUp;
      Ready 0xA 1 k (put c k) ∧ k.payload.length = 12 ∧ c.regionBad k.inst false k.payload = none ∧ c.regionBusy k.inst = true) ∧
    (let k := cmd 0xA 2 (handle tyPanel 0) [0, 0, 0, 0, 8, 0, 1, 0, 15, 0, 0, 0];
      let c := Chip.modPanel 0 (fun s => { s with fault := true }) railsUp;
      Ready 0xA 2 k (put c k) ∧ k.payload.length = 12 ∧ c.regionBad k.inst true k.payload = none ∧ c.regionBusy k.inst = true) ∧
    (let k := cmd 0xA 5 (handle tyPanel 0) [0xFF, 0, 0, 0];
      let c := Chip.modPanel 0 (fun s => { s with fault := true }) railsUp;
      Ready 0xA 5 k (put c k) ∧ k.payload.length = 4 ∧ fld k.payload 0 1 = 0xFF ∧ zeroAt k.payload 1 3 = true ∧
        (c.panel k.inst).fault = true) := by
  refine ⟨?_, ?_, ?_, ?_, ?_, ?_, ?_, ?_⟩ <;> exact ra (by decide +kernel)

/-! ### The other cases of the families 0x0B to 0x0E -/

theorem witness_PowerTakesCommands_owner :
    let k := cmd 0xB 4 (handle tyThermal 0) [0xA0, 0x0F, 0, 0];
    let c := { up with owners := [(handle tyThermal 0, true)] };
    Ready 0xB 4 k (put c k) ∧ c.ownerIsMgt (handle tyThermal 0) ≠ isMgtCtx k.ctx := ra (by decide +kernel)

/-- `fwUp` with bank B marked INCOMPLETE. -/
def fwInc : Chip := { fwUp [] with firmware := { (fwUp []).firmware with ptr := { (fwUp []).firmware.ptr with incB := true } } }

theorem witness_FirmwareIsWritten_cases :
    (let k := cmd 0xC 0 (handle tyFirmware 0) [];
      Ready 0xC 0 k (put fwInc k) ∧ k.payload = [] ∧ (fwInc.firmware.bankState false = 2 ∨ fwInc.firmware.bankState true = 2)) ∧
    (let k := cmd 0xC 1 (handle tyFirmware 1) [2, 0, 0, 0, 0x4A];
      let c := fwUp [1, 2];
      Ready 0xC 1 k (put c k) ∧ 5 ≤ k.payload.length ∧ fld k.payload 0 4 + k.payload.length ≤ 4194308 ∧
        c.firmware.bufferOwner = some (k.ctx, k.inst == 1) ∧ fld k.payload 0 4 = c.firmware.buffer.length ∧
        c.firmware.running ≠ some (k.inst == 1) ∧ c.firmware.commit = none) ∧
    (let k := cmd 0xC 1 (handle tyFirmware 0) [0, 0, 0, 0, 0x4A];
      let c := { fwUp [] with firmware := { (fwUp []).firmware with bufferOwner := none } };
      Ready 0xC 1 k (put c k) ∧ 5 ≤ k.payload.length ∧ fld k.payload 0 4 + k.payload.length ≤ 4194308 ∧ fld k.payload 0 4 = 0 ∧
        c.firmware.bufferOwner = none ∧ c.firmware.running = some (k.inst == 1)) ∧
    (let k := cmd 0xC 2 (handle tyFirmware 1) [1, 0, 0, 0];
      Ready 0xC 2 k (put (fwUp []) k) ∧ k.payload.length = 4 ∧ fld k.payload 0 1 ≤ 1 ∧ zeroAt k.payload 1 3 = true ∧
        (fwUp []).firmware.running ≠ some (k.inst == 1) ∧ (fwUp []).firmware.commit = none ∧
        firmwareImageOk (fwUp []).firmware.buffer = false) ∧
    (let k := cmd 0xC 2 (handle tyFirmware 0) [0, 0, 0, 0];
      Ready 0xC 2 k (put (fwUp []) k) ∧ k.payload.length = 4 ∧ fld k.payload 0 1 ≤ 1 ∧ zeroAt k.payload 1 3 = true ∧
        (fwUp []).firmware.running = some (k.inst == 1)) ∧
    (let k := cmd 0xC 3 (handle tyFirmware 1) [1, 0, 0, 0];
      Ready 0xC 3 k (put fwInc k) ∧ k.payload.length = 4 ∧ fld k.payload 0 1 = 1 ∧ zeroAt k.payload 1 3 = true ∧
        fwInc.firmware.ptr.incomplete (k.inst == 1) = true) ∧
    (let k := cmd 0xC 3 (handle tyFirmware 1) [1, 0, 0, 0];
      let c := { fwUp [] with firmware := { (fwUp []).firmware with bankB := .erased } };
      Ready 0xC 3 k (put c k) ∧ k.payload.length = 4 ∧ fld k.payload 0 1 = 1 ∧ zeroAt k.payload 1 3 = true ∧
        c.firmware.ptr.incomplete (k.inst == 1) = false ∧ (c.firmware.body (k.inst == 1)).sound = false) ∧
    (let k := cmd 0xC 3 (handle tyFirmware 0) [0, 0, 0, 0];
      Ready 0xC 3 k (put (fwUp []) k) ∧ k.payload.length = 4 ∧ fld k.payload 0 1 = 0 ∧ zeroAt k.payload 1 3 = true ∧
        (fwUp []).firmware.ptr.bank = (k.inst == 1) ∧ (fwUp []).firmware.running = some (k.inst == 1)) ∧
    (let k := cmd 0xC 3 (handle tyFirmware 1) [0, 0, 0, 0];
      Ready 0xC 3 k (put (fwUp []) k) ∧ k.payload.length = 4 ∧ fld k.payload 0 1 = 0 ∧ zeroAt k.payload 1 3 = true ∧
        ¬((fwUp []).firmware.ptr.bank = (k.inst == 1) ∧ (fwUp []).firmware.running = some (k.inst == 1))) ∧
    (let k := cmd 0xC 4 (handle 1 0) [0, 1, 0, 0, 0x59];
      let c := { up with image := { up.image with writer := some (0, 256) } };
      Ready 0xC 4 k (put c k) ∧ 5 ≤ k.payload.length ∧ c.imageBusy = false ∧ fld k.payload 0 4 + k.payload.length ≤ slotSize + 4 ∧
        c.image.writer = some (k.ctx, fld k.payload 0 4)) ∧
    (let k := cmd 0xC 4 (handle 1 0) [0, 1, 0, 0, 0x59];
      let c := { up with image := { up.image with writer := some (3, 256) } };
      Ready 0xC 4 k (put c k) ∧ 5 ≤ k.payload.length ∧ c.image.writer = some (3, 256) ∧ 3 ≠ k.ctx) ∧
    (let k := cmd 0xC 5 (handle 1 0) [0, 0, 0, 0];
      let c := { up with image := { up.image with loading := some (0, 9) } };
      Ready 0xC 5 k (put c k) ∧ k.payload.length = 4 ∧ fld k.payload 0 1 = 0 ∧ zeroAt k.payload 1 3 = true ∧ c.imageBusy = true) := by
  refine ⟨?_, ?_, ?_, ?_, ?_, ?_, ?_, ?_, ?_, ?_, ?_, ?_⟩ <;> exact ra (by decide +kernel)

theorem witness_EventsAndQueues_cases :
    (let k := cmd 0xD 0 (handle tyEvent 5) [0x08, 16, 0, 0];
      let c := (List.range 16).foldl (fun c i => Chip.setAttr tyEvent (20 + i) 1 [0x08, 16, 0, 0] c) (up.setAttr tyEvent 5 1 [2, 0, 0, 0]);
      Ready 0xD 0 k (put c k) ∧ k.payload.length = 4 ∧ bits (fld k.payload 0 4) 21 11 = 0 ∧
        c.routeRefused k.inst (fld k.payload 0 4) = true) ∧
    (let k := cmd 0xD 3 (handle tyQueue 0) [0, 0, 0, 0, 64, 0, 4, 1, 1, 0, 0, 0];
      let c := up.setQueue 0 { up.queue 0 with tail := 1 };
      Ready 0xD 3 k (put c k) ∧ k.payload.length = 12 ∧ c.queueConfigBad k.inst k.payload = none ∧
        (c.queue k.inst).enable = true ∧ (c.queue k.inst).fill ≠ 0) ∧
    (let k := cmd 0xD 3 (handle tyQueue 15) [0, 0, 7, 0, 64, 0, 4, 0, 1, 0, 0, 0];
      let c := { up with sessions := [(7, ⟨true, 0x302, 4⟩)] };
      Ready 0xD 3 k (put c k) ∧ k.payload.length = 12 ∧ c.queueConfigBad k.inst k.payload = none ∧
        k.inst < 16 ∧ (c.session (k.inst % 8)).opened = true) ∧
    (let k := cmd 0xD 5 (handle tyQueue 8) [3, 0, 0, 0];
      let c := up.setQueue 8 { up.queue 8 with unNotified := 3, tail := 3 };
      Ready 0xD 5 k (put c k) ∧ k.payload.length = 4 ∧ fld k.payload 0 1 ≠ 0 ∧ zeroAt k.payload 1 1 = true ∧
        (c.queue k.inst).unNotified ≠ 0 ∧ fld k.payload 0 1 ≤ (c.queue k.inst).unNotified) ∧
    (let k := cmd 0xE 1 (handle 1 0) [];
      let c := { up with log := { up.log with clearing := some (0, 9) } };
      Ready 0xE 1 k (put c k) ∧ k.payload = [] ∧ c.log.clearing ≠ none) ∧
    (let k := cmd 0xE 3 (handle 1 0) [31, 0, 0, 0];
      let c := { up with selftest := some (0, 9, 31) };
      Ready 0xE 3 k (put c k) ∧ k.payload.length = 4 ∧ fld k.payload 0 4 < 32 ∧ c.selftest ≠ none) := by
  refine ⟨?_, ?_, ?_, ?_, ?_, ?_⟩ <;> exact ra (by decide +kernel)

/-- Captures that end otherwise: late, spread too wide, with 8 zeros held, and a span with its zero and without. -/
theorem witness_CapturesEnd :
    let p := up.setAttr tyPort 0 1 [1, 0, 0, 0];
    let zero : Capture := ⟨0, 7, 0, 1, false, 0, 1000000000, 2000000000⟩;
    let z : HeldZero := ⟨0, 1, 0x8000, 32768, 1, 5000000000⟩;
    let w := fun (c : Chip) => c.waitUntil (1000000000 + us 272);
    p.portActive 0 = true ∧ (capturing p).cal.captures.find? (fun q => q.chan == 0) = some zero ∧
    (let c := { p with cal := { p.cal with captures := [⟨0, 7, 0, 1, false, 0, 1000000000, 1000000001⟩] } };
      1000000001 < (w c).clk.now) ∧
    (w (capturing p)).clk.now ≤ 2000000000 ∧
    32 < ([0, 33] ++ List.replicate 254 0).foldl max 0 - ([0, 33] ++ List.replicate 254 0).foldl min 4095 ∧
    (w { p with cal := { p.cal with held := List.replicate 8 { z with chan := 5 } } }).heldFull 0 1 = true ∧
    ((w (capturing p)).heldZero 0 1).isSome = false ∧
    ((w { p with cal := { p.cal with held := [z] } }).heldZero 0 1 = some z) ∧
    (spanRecord 32768 1 61440 1 0x8000 0xF000).isSome = true ∧ p.cal.write = none := by decide +kernel

/-- What ends an image load: a flash error, and a slot that holds no image. -/
theorem witness_ImageLoadsEnd :
    let k := { cmd 0xC 5 (handle 1 0) [4, 0, 0, 0] with phase := .running };
    let c : Chip := { up with image := { up.image with loading := some (0, 7), badFlash := [slotBase true] } };
    let s : State := put c k;
    s.chip.image.loading = some (k.ctx, k.tag) ∧ s.chip.findCmd k.ctx k.tag = some k ∧
      (imageForm (List.replicate 64 0xFF)).isSome = true ∧ s.chip.flashBad (slotBase true) (slotBase true + slotSize) = true := by
  decide +kernel


/-! ### Commands that enter, the host port, the clock ports, the management port -/

/-- The SESSION_OPEN command of Table 2.15. -/
def openCmd : List Byte := [3, 2, 0, 0, 1, 0, 8, 0, 0, 0, 0, 1, 1, 0xFF, 0x61, 0xC5, 2, 0, 3, 2, 16, 0, 0, 0]

/-- A module that holds Table 2.15's command in Q0. -/
def worked : Chip := { up with
  ring := Tbl.setRun dByte0 up.ring 0 ([24, 0, 0, 0] ++ openCmd)
  queues := Tbl.set dQueue up.queues 0 { up.queue 0 with tail := 1 }
  firmware := { up.firmware with running := some false } }

/-- The chip that a row leads to. -/
def after (i : Instr) (c : Chip) : Chip :=
  match exec i ⟨c, []⟩ with
  | .next s => s.chip
  | _ => c

/-- The reply to SESSION_OPEN is that of Table 2.16, byte for byte. -/
theorem test_worked_exchange :
    (List.range 40).map (fun i => Tbl.get dByte0 (after (.sessionOpen 0 1) (after (.commandFetch 0) worked)).ring (0x10004 + i)) =
      [3, 2, 0, 0, 1, 0, 0x18, 0, 0, 0, 0, 1, 0x11, 0xFF, 0xA6, 0xFB, 0, 0, 0xFF, 0xFF, 3, 2, 3, 2, 0, 0x10, 0x11, 0, 0x10, 0,
        0, 0, 0xD1, 0x44, 0x7E, 0x0B, 0xC2, 0x91, 0x0A, 0x3F] := by decide +kernel

/-- The check values of the three cyclic codes. -/
theorem test_check_values :
    crc16 [0x31, 0x32, 0x33, 0x34, 0x35, 0x36, 0x37, 0x38, 0x39] = 0x29B1 ∧
      crc8 [0x31, 0x32, 0x33, 0x34, 0x35, 0x36, 0x37, 0x38, 0x39] = 0xF4 ∧
      crc16 (openCmd.take 14) = 0xC561 := by decide +kernel

theorem witness_CommandsEnter :
    let q := worked.queue (submissionQueue 0);
    let rlen := leNat (ringRead q q.head 4 worked.ring) % 8192;
    let bs := (ringRead q q.head (4 + max 16 rlen) worked.ring).drop 4;
    let rung := worked.rungAt 0 ((q.head + entriesFor q.eshift rlen) % (2 * q.depth));
    let k := worked.cmdOf 0 (bs.take 16) (bs.drop 16) rung;
    let r := min (worked.reserveFor k) (worked.queue (completionQueue 0)).depth;
    worked.power.main.up = true ∧ isRemoteCtx 0 = false ∧ q.enable = true ∧ q.fill ≠ 0 ∧ worked.mayFetch 0 = true ∧
      worked.boundNode 0 = none ∧ worked.acceptance 0 rlen (bs.take 16) rung = none ∧
      worked.replyEntries k ≤ (worked.queue (completionQueue 0)).depth ∧ worked.canReserve 0 r = true ∧
      up.mayFetch 0 = true ∧ (up.queue (submissionQueue 0)).fill = 0 ∧ (up.queue (submissionQueue 32)).fill = 0 ∧
      isMgtCtx 32 = true := by decide +kernel

/-- A packet of an unknown object is answered; one of a bound context is carried; one of a remote context enters. -/
theorem witness_CommandsEnter_cases :
    (let c := { worked with sessions := [(0, ⟨true, 0x302, 4⟩)] };
      let hdr := [3, 2, 1, 0, 5, 0, 0, 0, 0, 0, 0, 0x7F, 1, 0xFF];
      let bs := hdr ++ leBytes 2 (crc16 hdr);
      c.acceptance 0 16 bs none = some (stBadObject, 8) ∧ stBadObject ≠ stBadCrc ∧
        c.canReserve 0 (entriesFor (c.queue (completionQueue 0)).eshift 24) = true) ∧
    (let c := { worked with host := { worked.host with bind := [(0, 0x8005)] } };
      let q := c.queue (submissionQueue 0);
      let rlen := leNat (ringRead q q.head 4 c.ring) % 8192;
      let bs := (ringRead q q.head (4 + max 16 rlen) c.ring).drop 4;
      let rung := c.rungAt 0 ((q.head + entriesFor q.eshift rlen) % (2 * q.depth));
      c.boundNode 0 = some 5 ∧ c.mayFetch 0 = true ∧ (c.carry (c.cmdOf 0 (bs.take 16) (bs.drop 16) rung) 5 bs).isSome = true) ∧
    (let p := openCmd;
      let c := { worked with remoteIn := [(0x10, [p])] };
      isRemoteCtx 0x10 = true ∧ Tbl.get dNil c.remoteIn 0x10 = [p] ∧ c.mayFetch 0x10 = true ∧
        c.acceptance 0x10 p.length (p.take 16) none = none) := by
  refine ⟨?_, ?_, ?_⟩
  · decide +kernel
  · decide +kernel
  · decide +kernel

theorem witness_CommandsTimeOut :
    let k := { cmd 0 2 (handle 1 0) [] with expiry := some 1000000001 };
    let s := put up k;
    s.chip.findCmd 0 7 = some k ∧ k.phase = .fetched ∧ k.expiry = some 1000000001 := by decide +kernel

/-- An event whose record for Q16 is due. -/
def recordWaits : Chip :=
  { up.setAttr tyEvent 5 1 [0x40, 16, 0, 0] with events := Tbl.set dEvent up.events 5 { dEvent 5 with pending := true, recordDue := true } }

theorem witness_RecordsLeave :
    up.power.main.up = true ∧ up.doorbellOk 0 1 = true ∧ hostProduces 0 = true ∧ up.doorbellOk 0 0 = true ∧
      up.doorbellOk 0 64 = false ∧
      (let c := { up with queues := Tbl.set dQueue up.queues 8 { up.queue 8 with tail := 1 } };
        c.doorbellOk 8 1 = true ∧ hostProduces 8 = false ∧ c.doorbellOk 8 2 = false) ∧
      (let c := recordWaits;
        (c.event 5).recordDue = true ∧ routeQueue (c.route 5) = true ∧ (c.queue (routeDq (c.route 5))).hasRoom 1 = true) ∧
      (let q := routeDq (recordWaits.route 5);
        let c := recordWaits.setQueue q { recordWaits.queue q with tail := (recordWaits.queue q).depth, fullTold := true };
        (c.event 5).recordDue = true ∧ routeQueue (c.route 5) = true ∧ (c.queue q).hasRoom 1 = false ∧ (c.queue q).fullTold = true) ∧
      (let c := { up with queues := Tbl.set dQueue up.queues 7 { up.queue 7 with coalSince := some 5, unNotified := 1, coalTime := 1 } };
        (c.queue 7).coalSince = some 5 ∧ (c.queue 7).unNotified ≠ 0 ∧ (c.queue 7).coalTime ≠ 0 ∧ c.clk.refRun = true) ∧
      (up.session 7).opened = false ∧ bit 0x3FF 15 = false ∧
      (let c := { up with sessions := [(7, ⟨true, 0x302, 4⟩)] }; (c.session 7).opened = true) ∧
      (2 + [(0 : Byte), 0].length ≤ 4 ∧ 0 + [(0 : Byte), 0, 1, 0].length ≤ 4) ∧
      (let c := { up with host := { up.host with held := [⟨true, 0, [1, 2]⟩, ⟨false, 0xC, [1]⟩] } };
        c.host.held = ⟨true, 0, [1, 2]⟩ :: [⟨false, 0xC, [1]⟩] ∧ c.ringWriteOk 0 2 = true ∧ c.ringWriteOk 0x7FFFF 2 = false) := by
  decide +kernel

theorem witness_HostPortReadsAndWrites :
    up.hostPortOn = true ∧ (1 ≤ [(0x55 : Byte)].length ∧ [(0x55 : Byte)].length ≤ 256) ∧ up.host.held.length < 4 ∧
      crc16 ([BitVec.ofNat 8 0x02] ++ (leBytes 2 0xC).reverse ++ [0x55]) = crc16 [0x02, 0x00, 0x0C, 0x55] ∧
      crc16 ([BitVec.ofNat 8 0x02] ++ (leBytes 2 0xC).reverse ++ [0x55]) ≠ crc16 [0x02, 0x00, 0x0C, 0x54] ∧
      (let c := { up with host := { up.host with held := List.replicate 4 ⟨false, 0xC, [1]⟩ } };
        c.hostPortOn = true ∧ 4 ≤ c.host.held.length) ∧
      (List.range 4).all (fun j => !inRtc (0xC + j)) = true := by decide +kernel

/-- `up` with a clock that runs, zone 0 enabled and scheduled to be at 21 degrees from 06:00, one hour before. -/
def sched : Chip :=
  let c := (((((up.setAttr tyClock 0 1 [1, 0, 0, 0]).setAttr tyClock 0 2 ([0, 0, 21, 0] ++ zeros 252)).setAttr tySchedule 0 1
    ([1, 0, 0, 0, 0, 0, 0, 0, 0xFF, 1, 0x68, 1, 0, 1, 0, 12])).setAttr tyZone 0 1 [1, 0, 0, 0]).setAttr tyZone 0 15 (zeros 12));
  { c with existing := [(handle tySchedule 0, true)], rtc := { c.rtc with valid := true, count := BitVec.ofNat 40 777618000 } }

theorem witness_ClockRegisters :
    up.power.main.up = true ∧ up.rtcOwnerOk .host = true ∧ up.rtcFollows .host = false ∧ up.rtcOwnerOk .mgmt = false ∧
      leNat ((up.rtc.view .host).staging.set 4 0) ≤ maxCount ∧
      (let c := { up with rtc := { up.rtc with hostView := { up.rtc.hostView with frozen := true } } };
        (c.rtc.view .host).frozen = true) ∧ (up.rtc.view .host).frozen = false ∧
      (let c := { up with owners := [(handle tyClock 0, true)] };
        c.rtcOwnerOk .mgmt = true ∧ c.rtcFollows .mgmt = false ∧ c.rtcOwnerOk .host = false) ∧
      (up.setRtc (fun r => { r with almMatch := some true })).rtc.almMatch = some true ∧
      (let c := up.setRtc (fun r => { r with alarmEn := true, alm := 5 });
        c.rtc.almMatch = none ∧ c.rtc.alarmEn = true ∧ c.rtc.count.toNat < c.rtc.alm.toNat ∧ c.rtc.presc < 32768 ∧
          c.rtc.alm.toNat ≤ (c.waitTotal (c.rtc.alm.toNat * 32768)).rtc.count.toNat) ∧
      (up.rtc.almMatch = none ∧ up.rtc.alarmEn = false) ∧
      (let c := up.setRtc (fun r => { r with wakeEn := true, wakeDue := 1 }); 0 < c.rtc.wakeDue) ∧
      (let c := up.setRtc (fun r => { r with wakeEn := true, wake := 1 });
        let p := wakeTicks c.rtc.wake.toNat;
        c.rtc.wakeDue = 0 ∧ c.rtc.wakeEn = true ∧ p ≠ 0 ∧ 0 < (c.waitTotal ((c.rtc.total / p + 1) * p)).rtc.wakeDue) ∧
      (up.rtc.wakeDue = 0 ∧ up.rtc.wakeEn = false) := by decide +kernel

/-- A clock that follows, and a time past the last count. -/
theorem witness_ClockRegisters_denied :
    (up.setFabric (fun f => { f with bwUid := 0xFFFFFFFFFFFFFFFF })).rtcFollows .host = true ∧
      (let c := up.setRtc (fun r => { r with hostView := { r.hostView with staging := [0xFF, 0xFF, 0xFF, 0xFF, 0] } });
        maxCount < leNat ((c.rtc.view .host).staging.set 4 0xFF)) := by decide +kernel

theorem witness_Schedules :
    (let c := { up with almanac := { up.almanac with evalDue := some 1 } }; c.almanac.evalDue = some 1) ∧
    (let c := up.setRtc (fun r => { r with minuteDue := true }); c.almanac.evalDue = none ∧ c.rtc.minuteDue = true) ∧
    (let x : Start := ⟨777621600, 777621600, 0, 0, false⟩;
      sched.power.main.up = true ∧ sched.zoneEn 0 = true ∧ sched.nextCheck 0 sched.rtc.count.toNat = some (777618000, x)) ∧
    (let c := { sched with zones := [(0, { dZone 0 with leadReplies := [((0, 777621600, 777618000), some 3600)] })] };
      (c.zone 0).leadReplies = [((0, 777621600, 777618000), some 3600)] ∧
        (let c1 := c.setZone 0 { c.zone 0 with leadReplies := [] };
          c.rtc.count.toNat < 777621600 ∧ ∃ y ∈ c1.leadStarts 0 c.rtc.count.toNat, y.entry = 0 ∧ y.nominal = 777621600)) ∧
    (let c := { up with zones := [(0, { dZone 0 with leadReplies := [((0, 5, 5), some 0)] })] };
      (c.zone 0).leadReplies = [((0, 5, 5), some 0)] ∧ ¬ c.rtc.count.toNat < 0) ∧
    (up.zoneEn 1 = false ∧ (up.zone 1).leadReplies = []) := by
  refine ⟨?_, ?_, ?_, ?_, ?_, ?_⟩ <;> decide +kernel

/-- The check of `sched` finds its zone below, above and at the setpoint. -/
theorem witness_OptimalStart :
    (let w := sched.waitCount 777618000; let set := fld (w.schedEntry 0) 12 1;
      (w.zone 0).x.getD 0 0 < w.setpoint set 0 ∧ (w.boostOf 0 true).1 ≤ 5) ∧
    (let w := (Chip.setZone 0 { dZone 0 with x := [30 * 65536] } sched).waitCount 777618000; let set := fld (w.schedEntry 0) 12 1;
      w.setpoint set 0 ≤ (w.zone 0).x.getD 0 0 ∧ w.setpoint set 1 < (w.zone 0).x.getD 0 0 ∧ (w.boostOf 0 false).1 ≤ 5) ∧
    (let w := (sched.setAttr tyClock 0 2 ([0, 0, 21, 0, 0, 0, 25, 0] ++ zeros 248) |> Chip.setZone 0 { dZone 0 with x := [23 * 65536] }).waitCount
        777618000; let set := fld (w.schedEntry 0) 12 1;
      w.setpoint set 0 ≤ (w.zone 0).x.getD 0 0 ∧ (w.zone 0).x.getD 0 0 ≤ w.setpoint set 1) := by
  refine ⟨?_, ?_, ?_⟩ <;> decide +kernel

/-- The worked exchange of spec/14: the bytes B4 09 03 10 00 04 write HELD of G2. -/
theorem witness_ManagementPortActs :
    resetChip.mgtAddress = 0x5A ∧ up.mgtOn = true ∧
      [BitVec.ofNat 8 (2 * up.mgtAddress)] ++ ([9, BitVec.ofNat 8 (2 + [(4 : Byte)].length)] ++ leBytes 2 0x10 ++ [4]) =
        [0xB4, 0x09, 0x03, 0x10, 0x00, 0x04] ∧
      1 ≤ [(4 : Byte)].length ∧ [(4 : Byte)].length ≤ 32 ∧ crc8 ([BitVec.ofNat 8 (2 * up.mgtAddress)] ++ [3, 1]) ≠ 256 ∧
      up.mainRuns = true ∧ up.power.main.up = true ∧ (3 : Byte).toNat ≤ 3 ∧ groupCount up.fuses.variant = 8 ∧
      bit (up.setMgt (fun m => { m with safeHeld := 0x80 })).mgt.safeHeld 7 = true ∧ up.power.aoOn = true ∧
      (List.range 4).all (fun j => !inRtc (0x20 + j)) = true ∧ up.mgt.building = none ∧ up.readFrom = none ∧
      (up.setMgt (fun m => { m with alertLine := true })).mgt.alertLine = true := by decide +kernel

/-- A module whose Q61 holds a packet for management of `n` bytes. -/
def packetWaits (n : Nat) : Chip := { up with
  ring := Tbl.setRun dByte0 up.ring (up.queue 61).base (leBytes 2 (n + 0x4000))
  queues := Tbl.set dQueue up.queues 61 { up.queue 61 with tail := entriesFor (up.queue 61).eshift n } }

theorem witness_PacketsAreRead :
    (let c := packetWaits 1;
      c.mgtOn = true ∧ c.power.main.up = true ∧ c.readFrom = some 61 ∧ c.mgt.readQueue = none ∧
        leNat (ringRead (c.queue 61) (c.queue 61).head 4 c.ring) % 8192 = 1) ∧
    (let c := packetWaits 300;
      c.mgtOn = true ∧ c.power.main.up = true ∧ c.readFrom = some 61 ∧
        leNat (ringRead (c.queue 61) (c.queue 61).head 4 c.ring) % 8192 = 300) ∧
    (up.mgtOn = true ∧ up.readFrom = none) ∧
    (let c := up.setPower (fun p => { p with aoOn := false }); c.mgtOn = false ∧ c.power.aoOn = false) := by decide +kernel

/-! ### Supplies, shedding, resets, boot -/

/-- `up` with its power state changed. -/
def pw (f : PowerSt → PowerSt) : Chip := up.setPower f

/-- Supplies: each row in its condition, and each out of it. -/
theorem witness_SuppliesComeAndGo :
    ((pw (fun p => { p with aoOn := false })).power.aoOn = false ∧ 6000 ≤ 6000 ∧ 5999 < 6000) ∧
    (up.power.aoOn = true ∧ 4999 < 5000 ∧ 10999 < 11000 ∧ 9999 < 10000 ∧ 9499 < 9500 ∧ 8499 < 8500 ∧ 9800 < 9801 ∧ 11500 ≤ 11500) ∧
    up.power.hsw ≠ .off ∧ up.power.vactShed = false ∧ up.power.vactOpen = false ∧ up.mainRuns = true ∧ up.power.vactRetry = none ∧
    (pw (fun p => { p with hsw := .off })).power.hsw = .off ∧
    (pw (fun p => { p with hsw := .charging })).power.hsw = .charging ∧
    (Instr.hotswapFault 70000, 1, up.power.hsw) ∈ [(Instr.hotswapFault 70000, 0, HotSwap.charging), (.hotswapFault 70000, 1, .on),
      (.hotswapFastTrip 70000, 2, .charging), (.hotswapFastTrip 70000, 2, .on)] ∧
    (let c := pw (fun p => { p with hsw := .charging });
      (Instr.hotswapFault 5, 0, c.power.hsw) ∈ [(Instr.hotswapFault 5, 0, HotSwap.charging), (.hotswapFault 5, 1, .on),
        (.hotswapFastTrip 5, 2, .charging), (.hotswapFastTrip 5, 2, .on)]) ∧
    (let c := pw (fun p => { p with hsw := .retry, hswRetry := some 5000000000 });
      c.power.hsw = .retry ∧ c.power.hswRetry = some 5000000000) ∧
    (pw (fun p => { p with hsw := .latched })).power.hsw = .latched ∧
    (let c := pw (fun p => { p with vactShed := true }); c.power.vactShed = true ∧ c.power.vactOpen = false) ∧
    (let c := pw (fun p => { p with vactShed := true, vactOpen := true, vactRetry := some 5000000000 });
      c.power.vactShed = true ∧ c.power.vactOpen = true ∧ c.power.vactRetry = some 5000000000) ∧
    (let c := pw (fun p => { p with vactOpen := true, vactRetry := some 5000000000 });
      c.power.vactShed = false ∧ c.power.vactRetry = some 5000000000) ∧
    (pw (fun p => { p with hsw := .on, hswRow := 3 })).power.hswRow = 3 := by decide +kernel

/-- A port that draws VACT current: an analogue output of 10 V. -/
theorem witness_PortsAreShedAndRestored :
    (let c := up.setAttr tyPort 31 1 [0x0A, 0, 0, 0]; 31 < 32 ∧ c.usesVact 31 = true) ∧
    (let c := (((((up.setAttr tyPort 31 1 [0x0A, 0, 0, 0]).setAttr tyPort 30 1 [0x0A, 0, 0, 0]).setAttr tyPort 31 5 [0xA0, 0x0F]).setAttr tyPort 30 5
        [0xA0, 0x0F]).setPort 31 { up.port 31 with shed := true }).setPort 30 { up.port 30 with shed := true };
      (c.vactBack.nextRestore).isSome = true) := by decide +kernel

/-- `up` with group 7 in RUN, frozen on a halt. -/
def running7 : Chip := up.setGroup 7 { up.group 7 with state := .run }

theorem witness_ResetsAndHalts :
    up.power.aoOn = true ∧ up.mainRuns = true ∧ up.power.main.up = true ∧ up.power.debugHalt = false ∧ up.clk.refRun = true ∧
    up.power.hsw = .on ∧ (pw (fun p => { p with aoOn := false })).power.aoOn = false ∧
    State.reset.chip.mainRuns = false ∧ State.reset.chip.power.main.up = false ∧ State.reset.chip.clk.refRun = false ∧
    State.reset.chip.power.hsw ≠ .on ∧ (running7.group 7).state = .run ∧ (running7.group 0).state ≠ .run ∧
    (let c := (pw (fun p => { p with debugHalt := true })).setGroup 7 { up.group 7 with state := .frozen, haltKind := 1 };
      c.power.debugHalt = true ∧ (c.group 7).haltKind = 1 ∧ (c.group 0).haltKind ≠ 1) ∧
    (let c := { up with clk := { up.clk with refRun := false } }; c.clk.refRun = false ∧ c.power.hsw = .on) ∧
    (0 < canCount up.fuses.variant ∧ (({ up with can := [(0, { dCan 0 with started := true })] } : Chip).canOf 0).started = true) := by
  decide +kernel

theorem witness_BootChoosesABank :
    (pw (fun p => { p with main := .booting })).power.main = .booting ∧ (pw (fun p => { p with main := .reset })).mayRelease = true ∧
    (up.power.main ≠ .booting ∧ up.mayRelease = false) ∧
    (let c := up.setMgt (fun m => { m with bootOvr := true, bootBank := false }); c.mgt.bootOvr = true ∧ c.bankOk c.mgt.bootBank = true) ∧
    (let c := pw (fun p => { p with boot1 := true, boot0 := true }); c.mgt.bootOvr = false ∧ c.power.boot1 = true ∧
      c.bankOk c.power.boot0 = false ∧ c.bankOk (!c.power.boot0) = true) ∧
    (up.mgt.bootOvr = false ∧ up.power.boot1 = false ∧ up.firmware.ptr.trial = false ∧ up.bankOk up.firmware.ptr.bank = true) ∧
    (let c := { up with firmware := { up.firmware with ptr := { up.firmware.ptr with trial := true, tries := 1 } } };
      c.firmware.ptr.trial = true ∧ 0 < c.firmware.ptr.tries ∧ c.bankOk c.firmware.ptr.bank = true) ∧
    (let c := { up with firmware := { up.firmware with ptr := { up.firmware.ptr with bank := true, trial := true, tries := 0 } } };
      c.firmware.ptr.trial = true ∧ c.firmware.ptr.tries = 0 ∧ c.bankOk (!c.firmware.ptr.bank) = true) ∧
    (let c := { up with firmware := { up.firmware with bankA := .erased, bankB := .erased } };
      c.bankOk false = false ∧ c.bankOk true = false) := by decide +kernel

/-! ### Pulse-width modulators and ports in time -/

/-- `up` with port `n` in mode `m`. -/
def inMode (n m : Nat) : Chip := up.setAttr tyPort n 1 [BitVec.ofNat 8 m, 0, 0, 0]

/-- Port 31 an HBRIDGE in a running group 7. -/
def bridge31 : Chip := (inMode 31 mHbridge).setGroup 7 { up.group 7 with state := .run, last := some 990000000, next := some 1001000000 }

/-- Group 0 following SYNC_IN, its boundaries at `last` and `next`. -/
def synced0 (w last next : Option Nat) : Chip :=
  up.setGroup 0 { up.group 0 with state := .run, following := true, wait := w, last := last, next := next }

/-- The rows of time of groups and bridges: a state for each clause. -/
theorem witness_PulsesBoundariesAndTrips :
    ((bridge31.group 7).state = .run ∧ (bridge31.group 7).next = some 1001000000) ∧
    (let c := bridge31.setGroup 7 { bridge31.group 7 with state := .safe }; (c.group 7).state ≠ .run ∧ (c.group 7).next = some 1001000000) ∧
    ((up.group 0).next = none ∧ (up.group 7).next = none) ∧
    (let c := synced0 (some 1000008000) none none; (c.group 0).state = .run ∧ (c.group 0).following = true ∧
      (c.group 0).wait = some 1000008000 ∧ 1000008000 ≤ c.clk.now + 4 * (c.group 0).active.period) ∧
    (let c := synced0 (some 1000008001) none none; (c.group 0).wait = some 1000008001 ∧
      c.clk.now + 4 * (c.group 0).active.period < 1000008001) ∧
    (let c := synced0 none (some 999998007) (some 1000000007);
      let e : Int := (c.clk.now : Int) - (((c.group 0).next.getD 0 : Nat) - (c.group 0).active.offset : Int);
      (c.group 0).wait = none ∧ e.natAbs = (c.group 0).active.period / 256) ∧
    (let c := synced0 none (some 999999993) (some 1000001993);
      let e : Int := (c.clk.now : Int) - (((c.group 0).next.getD 0 : Nat) - (c.group 0).active.offset : Int);
      let f : Int := (c.clk.now : Int) - (((c.group 0).last.getD 0 : Nat) - (c.group 0).active.offset : Int);
      (c.group 0).active.period / 256 < e.natAbs ∧ f.natAbs = (c.group 0).active.period / 256) ∧
    (let c := synced0 none (some 999999992) (some 1000000008);
      let e : Int := (c.clk.now : Int) - (((c.group 0).next.getD 0 : Nat) - (c.group 0).active.offset : Int);
      let f : Int := (c.clk.now : Int) - (((c.group 0).last.getD 0 : Nat) - (c.group 0).active.offset : Int);
      (c.group 0).active.period / 256 < e.natAbs ∧ (c.group 0).active.period / 256 < f.natAbs) ∧
    ((up.group 0).state ≠ .run ∧ (bridge31.group 7).following = false) ∧
    (let c := up.setGroup 7 { up.group 7 with state := .run, wait := some 1000000001 };
      (c.group 7).state = .run ∧ (c.group 7).wait = some 1000000001) ∧
    ((bridge31.group 7).wait = none ∧ (up.group 7).state ≠ .run) ∧
    (State.reset.chip.islandHeld = true ∧ up.islandHeld = false ∧ 7 < groupCount up.fuses.variant) ∧
    (let c := up.setGroup 7 { up.group 7 with state := .frozen, holdDue := some 1500000000, haltKind := 1 };
      (c.group 7).state = .frozen ∧ (c.group 7).holdDue = some 1500000000) ∧
    ((up.group 7).state ≠ .frozen ∧ (up.group 7).holdDue = none) ∧
    (let c := up.setGroup 7 { up.group 7 with state := .run, active := { (up.group 7).active with cfg := [0, 0, 0, 0x100] } };
      (c.groupNow (groupOf 31)).src (31 % 4) = 1) ∧
    (up.groupNow (groupOf 31)).src (31 % 4) ≠ 1 ∧
    (State.reset.chip.portActive 31 = false ∧ up.portMode 31 ≠ mHbridge) ∧
    (bridge31.portActive 31 = true ∧ bridge31.portMode 31 = mHbridge ∧ (bridge31.bridge 31).cleared = none ∧
      (bridge31.group (groupOf 31)).state = .run ∧ (bridge31.bridge 31).trips.head? ≠ some (bridge31.channelPeriod 31)) ∧
    (let c := (bridge31.setGroup 7 { bridge31.group 7 with state := .frozen }).setBridge 31 { bridge31.bridge 31 with trips := [bridge31.channelPeriod 31] };
      c.portActive 31 = true ∧ c.portMode 31 = mHbridge ∧ (c.group (groupOf 31)).state = .frozen ∧
      ((c.meetClear 31 (c.channelPeriod 31)).bridge 31).trips.head? = some (c.channelPeriod 31)) ∧
    (let c := bridge31.setGroup 7 { bridge31.group 7 with state := .safe };
      c.portActive 31 = true ∧ c.portMode 31 = mHbridge ∧ (c.group (groupOf 31)).state ≠ .run ∧ (c.group (groupOf 31)).state ≠ .frozen) ∧
    (let c := (bridge31.setGroup 7 { bridge31.group 7 with active := { (up.group 7).active with trip := [0, 0, 0, 0x1001] } }).setBridge 31
        { bridge31.bridge 31 with trips := [bridge31.channelPeriod 31] };
      (c.bridge 31).latched = false ∧ 0 < c.wcount 31 ∧ c.tripN 31 ≤ c.wcount 31) ∧
    (bridge31.wcount 31 < bridge31.tripN 31) ∧
    ((bridge31.setBridge 31 { bridge31.bridge 31 with latched := true }).bridge 31).latched = true := by decide +kernel

/-- Port 31 with one field of its state changed. -/
def port31 (c : Chip) (f : PortSt → PortSt) : Chip := c.setPort 31 (f (c.port 31))

/-- A digital input whose terminal A (or B) shows `mv`, compared as `raw` and taken as `level`. -/
def digital (raw : Bool) (level : Option Bool) (rise : Option Nat) : Chip :=
  port31 (inMode 31 mDin) (fun p => { p with inA := ⟨0, raw, 999000000, level, 3⟩, inB := ⟨0, raw, 999000000, level, 3⟩, lastRise := rise })

/-- A sensor bus at `at` with two entries in its list. -/
def sbus31 (i : Option Nat) : Chip :=
  port31 ((inMode 31 mSbus).setAttr tyPort 31 17 (List.replicate 32 0)) (fun p => { p with sbusDue := some 1000000001, sbusAt := i })

/-- The rows of time of a port: a state for each clause. -/
theorem witness_PortsFollowTheirTerminals :
    up.power.main.up = true ∧ objPresent up.fuses.variant tyPort 31 = true ∧ (true || false) = true ∧ (false || true) = true ∧
    ((inMode 31 mVout).portMode 31 ≠ mIin ∧ (inMode 31 mVout).hasWindow 31 = true) ∧
    (inMode 31 mIin).portMode 31 = mIin ∧
    State.reset.chip.power.main.up = false ∧ objPresent up.fuses.variant tyPort 32 = false ∧ (false || false) = false ∧
    (up.portMode 31 ≠ mIin ∧ up.hasWindow 31 = false) ∧
    ((up.port 31).outside = false ∧ (up.port 31).retry = none ∧ (up.port 31).settling = none ∧ (up.port 31).pyroUntil = none) ∧
    ((port31 up (fun p => { p with outside := true })).port 31).outside = true ∧
    ((inMode 31 mHbridge).retryApplies 31 .overload = true ∧ (inMode 31 mHbridge).portActive 31 = true ∧
      (inMode 31 mIin).retryApplies 31 .shuntOpen = true ∧ (inMode 31 mVout).retryApplies 31 .voutLimit = true ∧
      (inMode 31 mOdout).retryApplies 31 .odLimitA = true ∧ (inMode 31 mOdout).retryApplies 31 .odLimitB = true ∧
      (inMode 31 mPyro).retryApplies 31 .supplyLimit = true) ∧
    (((port31 (inMode 31 mVout) (fun p => { p with latched := true })).port 31).latched = true ∧
      (port31 (inMode 31 mVout) (fun p => { p with outside := true })).retryApplies 31 .voutLimit = true) ∧
    (up.retryApplies 31 .overload = false ∧
      (let c := port31 (inMode 31 mVout) (fun p => { p with retry := some 2000000000 });
        c.portActive 31 = false ∧ (c.port 31).latched = false ∧ (c.port 31).outside = false)) ∧
    up.portMode 31 ≠ mHbridge ∧
    (let c := port31 (inMode 31 mHbridge) (fun p => { p with samples := List.replicate 999 0 });
      let all := (c.port 31).samples ++ [if c.portActive 31 then 5 else 0];
      c.power.main.up = true ∧ c.portMode 31 = mHbridge ∧
      (decide (11 * c.attrN tyPort 31 5 * 1000 < 10 * (all.drop (all.length - 1000)).sum) && !(c.port 31).meanOver) =
        decide (11 * c.attrN tyPort 31 5 * 1000 < 50)) ∧
    (let c := (inMode 31 mHbridge).setAttr tyPort 31 5 [0xE8, 3];
      let lo := (c.port 31).samples ++ [if c.portActive 31 then 1100000 else 0];
      let hi := (c.port 31).samples ++ [if c.portActive 31 then 1100001 else 0];
      (decide (11 * c.attrN tyPort 31 5 * 1000 < 10 * (lo.drop (lo.length - 1000)).sum) && !(c.port 31).meanOver) = false ∧
      (decide (11 * c.attrN tyPort 31 5 * 1000 < 10 * (hi.drop (hi.length - 1000)).sum) && !(c.port 31).meanOver) = true) ∧
    ((port31 up (fun p => { p with retry := some 2000000000 })).port 31).retry = some 2000000000 ∧
    ((port31 up (fun p => { p with settling := some 1000000001 })).port 31).settling = some 1000000001 ∧
    (let c := port31 (inMode 31 mSbus) (fun p => { p with sbusDue := none }); c.portActive 31 = true ∧ c.portMode 31 = mSbus) := by
  decide +kernel

theorem witness_PortsFollowTheirTerminals_inputs :
    (let c := digital false (some false) (some 999000000); c.isInput 31 false = true ∧
      compare (c.threshOf 31) 24000 (c.port 31).inA.raw = true ∧ (c.port 31).inA.raw = false ∧ (c.port 31).lastRise = some 999000000) ∧
    (let c := digital true (some false) none; compare (c.threshOf 31) 24000 (c.port 31).inB.raw = (c.port 31).inB.raw ∧
      compare (c.threshOf 31) 0 (c.port 31).inB.raw ≠ (c.port 31).inB.raw) ∧
    (up.isInput 31 false = false ∧ (digital true (some true) none).isInput 31 true = true ∧
      ((digital true (some true) none).port 31).inA.level = some ((digital true (some true) none).port 31).inA.raw) ∧
    (let c := (digital true (some false) none).setAttr tyPort 31 4 [0x01]; c.isInput 31 false = true ∧ (c.port 31).inA.level ≠ some (c.port 31).inA.raw ∧
      (c.port 31).inA.level.isSome = true ∧ bit (c.attrN tyPort 31 4) (2 * b2n false + b2n (!(c.port 31).inA.raw)) = true) ∧
    (let c := (digital false (some true) none).setAttr tyPort 31 4 [0x08]; c.isInput 31 true = true ∧ (c.port 31).inB.level ≠ some (c.port 31).inB.raw ∧
      (c.port 31).inB.level.isSome = true ∧ bit (c.attrN tyPort 31 4) (2 * b2n true + b2n (!(c.port 31).inB.raw)) = true) ∧
    (let c := digital true none none; (c.port 31).inA.level = none ∧ (c.port 31).inA.level ≠ some (c.port 31).inA.raw ∧
      bit (c.attrN tyPort 31 4) (2 * b2n false + b2n (!(c.port 31).inA.raw)) = false) ∧
    (let c := sbus31 none; (c.port 31).sbusDue = some 1000000001 ∧ c.portActive 31 = true ∧ c.portMode 31 = mSbus ∧ (c.port 31).sbusAt = none ∧
      (c.attr tyPort 31 17).length ≤ 16 * (0 + 2) ∧ 16 * (0 + 1) < (c.attr tyPort 31 17).length) ∧
    (let c := sbus31 (some 1); (c.port 31).sbusAt = some 1 ∧ (c.attr tyPort 31 17).length ≤ 16 * (1 + 1) ∧
      16 * (1 + 0) < (c.attr tyPort 31 17).length ∧ (c.port 31).sbusAt.isSome = true) ∧
    ((up.port 31).sbusDue = none ∧ State.reset.chip.portActive 31 = false ∧ up.portMode 31 ≠ mSbus) ∧
    ((port31 (inMode 31 mPyro) (fun p => { p with pyroUntil := some 31000000000 })).port 31).pyroUntil = some 31000000000 ∧
    (up.portMode 31 ≠ mVout ∧ up.portMode 31 ≠ mOdout ∧ up.portMode 31 ≠ mIin) ∧
    ((inMode 31 mVout).portMode 31 = mVout ∧ (inMode 31 mOdout).portMode 31 = mOdout) ∧
    ((inMode 31 mIin).portActive 31 = true ∧ (inMode 31 mIin).portMode 31 = mIin) := by decide +kernel

/-- The three ways of a retry fault: counted only, the first of a minute, the third of a minute (one 60 s ago counts). -/
theorem witness_PortFaultsCount :
    (let c := { port31 up (fun p => { p with latched := true }) with clk := { up.clk with now := 2400000000 } };
      ((c.port 31).latched || (c.port 31).outside) = true) ∧
    (((up.port 31).latched || (up.port 31).outside) = false ∧
      (((up.port 31).faultTimes.filter (fun t => decide (up.clk.now ≤ t + sec 60))) ++ [up.clk.now]).length < 3) ∧
    (let c := { port31 up (fun p => { p with faultTimes := [1, 2400000000] }) with clk := { up.clk with now := 2400000001 } };
      ((c.port 31).latched || (c.port 31).outside) = false ∧
      3 ≤ (((c.port 31).faultTimes.filter (fun t => decide (c.clk.now ≤ t + sec 60))) ++ [c.clk.now]).length) := by decide +kernel

/-! ### Sampler, actuators and fans in time -/

/-- `up` with sequence 63 changed and passes and results set. -/
def seq63 (f : SeqSt → SeqSt) (p : List PassSt) (r : List ResultDue) : Chip :=
  (up.setSeq 63 (f (up.seq 63))).setSampler (fun m => { m with passes := p, dues := r })

/-- A pass of sequence 63 on slice 3 that is running (or, with `e` 999999999, over). -/
def pass63 (ctl e : Nat) : PassSt := ⟨63, ctl, 999990000, e, [3]⟩

/-- A result of entry 63 from the channel of `w`, on its way. -/
def due63 (w start : Nat) : ResultDue := ⟨63, 1, 63, w, start, start + 10, 1000000100, 1000000090⟩

/-- Settings: a lone slice-3 sequence with or without HEAD, triggered once. -/
def lone (ctl : Nat) : SeqSet := ⟨ctl, 100000, 0, [(63, 0)]⟩

/-- Port 31 an HBRIDGE with a bound damper. -/
def damper31 : Chip :=
  (((up.setAttr tyPort 31 1 [BitVec.ofNat 8 mHbridge, 0, 0, 0]).setAttr tyDamper 31 1 [1, 0, 0, 0]).setAttr tyDamper 31 2 [0x10, 0x27, 0, 0]).setMotor 31
    { up.motor 31 with known := true, count := 5000, cps := 10000, measured := true }

/-- `damper31` with its motor changed. -/
def moving (f : MotorSt → MotorSt) : Chip := damper31.setMotor 31 (f (damper31.motor 31))

/-- A move of kind `k` in phase `p` towards `t`. -/
def moveOf (k : MoveKind) (p : LegPhase) (t corr : Nat) (ends : Option Nat) (b : Option Int) : Move :=
  ⟨k, p, t, true, corr, none, ends, 0, b, false, false⟩

/-- The rows of the sampler: a state for each clause. -/
theorem witness_PassesRunAndConvert :
    (let c := seq63 (fun q => { q with dues := [1000000005, 1000000001] }) [] []; (c.seq 63).dues ≠ [] ∧
      some 1000000001 = (c.seq 63).dues.min? ∧ (c.passRuns 63 1000000001 || (c.seq 63).waiting.isSome) = false) ∧
    (let c := seq63 (fun q => { q with dues := [1000000005], overruns := 0xFFFF }) [pass63 1 1000000006] [];
      some 1000000005 = (c.seq 63).dues.min? ∧ (c.passRuns 63 1000000005 || (c.seq 63).waiting.isSome) = true) ∧
    (let c := seq63 (fun q => { q with dues := [1000000005], waiting := some 1000000005 }) [] [];
      (c.passRuns 63 1000000005 || (c.seq 63).waiting.isSome) = true) ∧
    ((up.seq 63).dues = [] ∧ (up.seq 63).waiting = none) ∧
    (let c := (seq63 (fun q => { q with waiting := some 1000000005, live := lone 0x19 }) [] []).setSeq 62
        { up.seq 62 with waiting := some 1000000004, live := lone 0x19 };
      c.outranked 63 1000000005 (seSlices ((c.seq 63).settings (c.slicesFree [3] 1000000005)).ctl) = true) ∧
    (let c := seq63 (fun q => { q with waiting := some 1000000005, live := lone 0x18 }) [] [];
      (c.seq 63).waiting = some 1000000005 ∧ c.outranked 63 1000000005 [3] = false ∧ c.islandHeld = false ∧
      seHead ((c.seq 63).settings 1000000005).ctl = false ∧ seSlices (lone 0x18).ctl = [3] ∧ c.slicesFree [3] 1000000005 = 1000000005) ∧
    (let c := seq63 (fun q => { q with waiting := some 1000000005, live := lone 0x19 }) [] [];
      c.outranked 63 1000000005 [3] = false ∧ c.islandHeld = false ∧ seHead ((c.seq 63).settings 1000000005).ctl = true) ∧
    (let c := { (seq63 (fun q => { q with waiting := some 1000000005 }) [] []) with clk := { up.clk with refRun := false } };
      (c.seq 63).waiting = some 1000000005 ∧ c.islandHeld = true) ∧
    (let c := seq63 id [] [due63 0x800 999999000]; let r := due63 0x800 999999000;
      c.sampler.dues.find? (fun r => r.entry == 63) = some r ∧ [1, 2].length = 2 ^ seAvg r.word ∧ [1].length ≠ 2 ^ seAvg r.word) ∧
    (let r := due63 127 999999000; up.channelAbsent (seCh r.word) = true ∧ [0].length = 2 ^ seAvg r.word) ∧
    (let r := due63 62 999999000; let c := seq63 id [] [r]; c.channelAbsent (seCh r.word) = false ∧
      ¬ (seCh r.word < 64 ∧ seCh r.word % 2 = 0 ∧ c.portMode (seCh r.word / 2) = mHbridge)) ∧
    (let r := due63 62 999999000; let c := damper31.setSampler (fun m => { m with dues := [r] });
      c.channelAbsent (seCh r.word) = false ∧ seCh r.word < 64 ∧ seCh r.word % 2 = 0 ∧ c.portMode (seCh r.word / 2) = mHbridge ∧
      (c.goodResult r [4095] false false).motorBound (seCh r.word / 2) = true) ∧
    up.sampler.dues.find? (fun r => r.entry == 63) = none ∧
    (let c := seq63 id [pass63 0x819 1000000007] []; c.sampler.passes.find? (fun p => p.head == 63) = some (pass63 0x819 1000000007) ∧
      bit (pass63 0x819 1000000007).ctl 11 = true ∧ bit (pass63 0x19 1000000007).ctl 11 = false ∧ (c.seq 63).stopCmd = none) ∧
    (let c := seq63 (fun q => { q with stopCmd := some (0, 7) }) [pass63 0x19 1000000007] [];
      c.sampler.passes.find? (fun p => p.head == 63) = some (pass63 0x19 1000000007) ∧ (c.seq 63).stopCmd = some (0, 7)) ∧
    up.sampler.passes.find? (fun p => p.head == 63) = none ∧
    (State.reset.chip.islandHeld = true ∧ up.islandHeld = false ∧ up.channelAbsent 91 = false ∧ up.channelAbsent 92 = true) ∧
    ((up.waitUntil (Tbl.get dZero up.sampler.eqDue 2)).takeSlots 2 (ms 10) 80).isSome = true ∧
    ((up.waitUntil (Tbl.get dZero up.sampler.eqDue 0)).takeSlots 0 (ms 10) 80).isSome = true ∧
    ((up.waitUntil (Tbl.get dZero up.sampler.hkDue 91)).takeSlots 3 (ms 1) 40).isSome = true ∧
    (let c := up.setSampler (fun m => { m with busyUntil := [1000000001, 0, 0, 1000000001], busySince := [999999999, 0, 0, 999999999] });
      (c.waitUntil (Tbl.get dZero c.sampler.eqDue 0)).takeSlots 0 (ms 10) 80 = none ∧
      (c.waitUntil (Tbl.get dZero c.sampler.hkDue 91)).takeSlots 3 (ms 1) 40 = none) ∧
    (let c := (seq63 id [pass63 0x19 1000000007] [due63 0 1000000001]).setSampler (fun m => { m with
        busyUntil := [0, 0, 0, 1000000007], busySince := [0, 0, 0, 999960000] });
      (c.waitUntil (Tbl.get dZero c.sampler.hkDue 91)).takeSlots 3 (ms 1) 40).isSome = true ∧
    (let c := moving (fun m => { m with move := some (moveOf .move .drive 65536 0 none none), current := 4000 });
      (c.motor 31).move = some (moveOf .move .drive 65536 0 none none) ∧ c.inMotion 31 = true) ∧
    ((damper31.motor 31).move = none ∧ damper31.inMotion 31 = false) := by decide +kernel

/-- The rows of dampers: a state for each clause. -/
theorem witness_DampersAndValvesMove :
    (let c := moving (fun m => { m with move := some (moveOf .fullOpen .drive 65536 0 none none), current := 4000, count := 10000 });
      ((c.motorCfg 31).stopI ≤ (c.motor 31).current.natAbs ∧ c.touchAccepted 31 true = true ∧ c.inMotion 31 = true ∧
        (moveOf .fullOpen .drive 65536 0 none none).kind ≠ .move)) ∧
    (let c := moving (fun m => { m with move := some (moveOf .move .drive 65536 0 none none), current := -4000, count := 5000 });
      (c.motorCfg 31).stopI ≤ (c.motor 31).current.natAbs ∧ c.touchAccepted 31 true = false) ∧
    (let c := moving (fun m => { m with move := some (moveOf .move .drive 65536 0 none none), current := 0 });
      (c.motor 31).move = some (moveOf .move .drive 65536 0 none none) ∧ (c.motor 31).current.natAbs < (c.motorCfg 31).stopI ∧
      c.inMotion 31 = false) ∧
    (∀ mv, (damper31.motor 31).move = some mv → mv.phase ≠ .drive) ∧
    (let c := moving (fun m => { m with move := some (moveOf .move .brake 32768 0 none (some 4900)), current := 0 });
      (c.motor 31).move = some (moveOf .move .brake 32768 0 none (some 4900)) ∧ (c.motor 31).current.natAbs < (c.motorCfg 31).iMin) ∧
    (let c := moving (fun m => { m with move := some (moveOf .move .brake 32768 0 none (some 4900)), current := -4000 });
      (c.motorCfg 31).iMin ≤ (c.motor 31).current.natAbs) ∧
    (let c := moving (fun m => { m with move := some (moveOf .move .dwell 32768 0 (some 1000000002) none) });
      (c.motor 31).move = some (moveOf .move .dwell 32768 0 (some 1000000002) none) ∧
      (moveOf .move .dwell 32768 0 (some 1000000002) none).phase ≠ .brake ∧ (moveOf .move .drive 32768 0 none none).phase ≠ .dwell) ∧
    (damper31.beyondDeadband 31 65536 = true ∧ (moveOf .move .brake 65536 1 none none).corrections < 2 ∧
      2 ≤ (moveOf .move .brake 65536 2 none none).corrections ∧ damper31.beyondDeadband 31 32768 = false) ∧
    (let c := damper31.setAttr tyDamper 31 14 [1, 0]; let d := c.setMotor 31 { c.motor 31 with touchStop := some true };
      d.motorBound 31 = true ∧ (d.motorCfg 31).rehomeInt ≠ 0 ∧ (d.motor 31).touchStop.isSome = true) ∧
    (up.motorBound 31 = false ∧ (damper31.motor 31).touchStop = none) ∧
    (let c := moving (fun m => { m with overriding := true, command := some 65536 }); (c.motor 31).move = none ∧ c.motorTarget 31 = some 65536 ∧
      (c.motor 31).known = true ∧ c.beyondDeadband 31 65536 = true ∧ c.damperBound 31 = true) ∧
    (let c := moving (fun m => { m with overriding := true, command := some 32768 }); c.motorTarget 31 = some 32768 ∧
      c.beyondDeadband 31 32768 = false) ∧
    ((moving (fun m => { m with known := false })).motor 31).known = false ∧
    (damper31.motorBound 31 = true ∧ (damper31.motor 31).known = true) := by decide +kernel

/-- `up` with valve 31 bound as kind `k` and its state changed. -/
def valve31 (k : Nat) (f : ValveSt → ValveSt) : Chip :=
  (up.setAttr tyValve 31 1 [BitVec.ofNat 8 (1 + 2 * k), 0, 0, 0]).setValve 31 (f (up.valve 31))

/-- The rows of valves: a state for each clause. -/
theorem witness_DampersAndValvesMove_valves :
    (let c := valve31 2 (fun v => { v with waitDrive := some (true, 1000000003), applied := 65536, est := some 0 });
      (c.motor 31).move = none ∧ (c.valve 31).waitDrive = some (true, 1000000003)) ∧
    ((up.motor 31).move = none ∧ (up.valve 31).waitDrive = none ∧ (up.valve 31).boostEnd = none ∧ (up.valve 31).drive = none) ∧
    ((valve31 0 (fun v => { v with boostEnd := some 1000000003 })).valve 31).boostEnd = some 1000000003 ∧
    (let c := valve31 0 (fun v => { v with applied := 1 }); c.valveBound 31 = true ∧ c.valveKind 31 = 0 ∧ 0 < (c.valve 31).applied) ∧
    (up.valveBound 31 = false ∧ (valve31 2 id).valveKind 31 ≠ 0 ∧ ((valve31 0 id).valve 31).applied = 0) ∧
    (let c := valve31 2 (fun v => { v with drive := some (false, 5, 1000000003, true), est := some 3 });
      (c.valve 31).drive = some (false, 5, 1000000003, true)) ∧
    (let c := valve31 2 (fun v => { v with drive := some (true, 5, 1000000003, false), est := none });
      (c.valve 31).drive = some (true, 5, 1000000003, false) ∧ (c.valve 31).est = none) ∧
    (let c := valve31 2 (fun v => { v with drive := some (true, 5, 1000000003, false), est := some 3 });
      (c.valve 31).drive = some (true, 5, 1000000003, false) ∧ (c.valve 31).est = some 3) := by decide +kernel

/-- Port 31 a FAN with a bound fan in a running group. -/
def fan31 (f : FanSt → FanSt) : Chip :=
  (((up.setAttr tyPort 31 1 [BitVec.ofNat 8 mFan, 0, 0, 0]).setAttr tyFan 31 1 [1, 0, 0, 0]).setGroup 7 { up.group 7 with state := .run }).setFan 31
    (f (up.fan 31))

/-- The rows of fans: a state for each clause. -/
theorem witness_FansSpinUpAndAreWatched :
    (let c := fan31 (fun s => { s with state := .spinup, ends := some 1000000003, edges := 255 }); (c.fan 31).state = .spinup ∧
      (c.fan 31).ends = some 1000000003 ∧ c.groupRuns 31 = true ∧ c.attrN tyFan 31 4 ≤ (c.fan 31).edges) ∧
    (let c := fan31 (fun s => { s with state := .spinup, ends := some 1000000003, attempt := 2 });
      (c.fan 31).edges < c.attrN tyFan 31 4 ∧ (c.fan 31).attempt < 3) ∧
    (let c := fan31 (fun s => { s with state := .spinup, ends := some 1000000003, attempt := 3 });
      (c.fan 31).edges < c.attrN tyFan 31 4 ∧ 3 ≤ (c.fan 31).attempt) ∧
    ((up.fan 31).state ≠ .spinup ∧ (up.fan 31).state ≠ .gap ∧ (up.fan 31).state ≠ .run ∧ up.groupRuns 31 = false ∧ up.fanBound 31 = false) ∧
    (let c := fan31 (fun s => { s with lastEdge := some 1000000000 }); (c.fan 31).lastEdge = some c.clk.now) ∧
    (up.attrN tyDevice 0 0x701 ≠ 1 ∨ up.dogs.fanArmed = false) ∧
    (let c := fan31 (fun s => { s with state := .gap, ends := some 1000000003 }); (c.fan 31).state = .gap ∧
      (c.fan 31).ends = some 1000000003 ∧ c.groupRuns 31 = true) ∧
    (let c := fan31 id; c.fanBound 31 = true ∧ c.portActive 31 = true ∧ (c.fan 31).lastEdge = none) ∧
    (let c := fan31 (fun s => { s with lastEdge := some 999999999 }); c.fanBound 31 = true ∧ c.portActive 31 = true ∧
      (c.fan 31).lastEdge = some 999999999 ∧ c.clk.now - 999999999 ≠ 0) ∧
    (let c := fan31 (fun s => { s with state := .run, applied := 65536 }); (c.fan 31).state = .run ∧ c.fanF 31 ≠ 0 ∧ c.groupRuns 31 = true) ∧
    (let c := (fan31 id).setAttr tyDevice 0 0x701 [1]; let d := { c with dogs := { c.dogs with fanArmed := true } };
      d.attrN tyDevice 0 0x701 = 1 ∧ d.dogs.fanArmed = true ∧ d.dogs.fanForced = false) ∧
    ((fan31 id).damperBound 31 = false ∧ (fan31 id).fanBound 31 = true ∧ up.damperBound 31 = false ∧ up.fanBound 31 = false) := by decide +kernel

/-! ### Loops, zones and links in time -/

/-- Loop 255 enabled with the configuration given and its state changed. -/
def loop255 (cfg : List Byte) (f : LoopSt → LoopSt) : Chip :=
  (up.setAttr tyLoop 255 1 cfg).setLoop 255 (f { up.loop 255 with enabled := true })

/-- An evaluation of class `cls` over `n` node words. -/
def evalOf (cls n : Nat) : Eval := ⟨999000000, 1001000000, 0, cls, false, false, List.replicate n 0, []⟩

/-- The same, in progress on a lane. -/
def runningOf (cls n lane : Nat) : Running := ⟨evalOf cls n, some lane, [], [], [], [], none, none, [], [], false⟩

theorem witness_LoopsAreTriggeredAndRun :
    (let c := loop255 [1, 0, 0, 0] (fun q => { q with nextDue := some 1000000001 }); (c.loop 255).enabled = true ∧
      bits (c.loopCfg 255) 2 2 = 0 ∧ (c.loop 255).nextDue = some 1000000001 ∧ c.transitComes 1000000001 = true) ∧
    (let c := loop255 [5, 0, 0, 0] (fun q => { q with trigs := [⟨1000000001, 0⟩] }); (c.loop 255).enabled = true ∧
      bits (c.loopCfg 255) 2 2 ≠ 0 ∧ (c.loop 255).trigs = [⟨1000000001, 0⟩]) ∧
    ((up.loop 255).enabled = false ∧ (loop255 [5, 0, 0, 0] id).loop 255 = { up.loop 255 with enabled := true } ∧ (up.loop 255).trigs = []) ∧
    (let c := { loop255 [1, 0, 0, 0] (fun q => { q with nextDue := some 1000000001 }) with clk := { up.clk with refRun := false } };
      (c.loop 255).enabled = true ∧ bits (c.loopCfg 255) 2 2 = 0 ∧ c.transitComes 1000000001 = false ∧ c.transitComes 1000000000 = true) ∧
    (let c := (loop255 [1, 0, 0, 0] (fun q => { q with lastAccepted := some 999999000 })).setAttr tyLoop 255 2 [25, 0, 0, 0];
      (c.loop 255).lastAccepted = some 999999000 ∧ 999999999 < 999999000 + c.loopPeriod 255 ∧ 999999000 + c.loopPeriod 255 ≤ 1000000000 ∧
      (c.loop 255).pending = none) ∧
    (let c := loop255 [1, 0, 0, 0] (fun q => { q with pending := some (evalOf 1 3) }); (c.loop 255).pending.isSome = true) ∧
    (let c := loop255 [1, 0, 0, 0] (fun q => { q with swap := some true, bank := true });
      (c.loop 255).swap.getD (c.loop 255).bank = (c.loop 255).bank) ∧
    (let c := loop255 [1, 0, 0, 0] (fun q => { q with swap := some true }); (c.loop 255).swap.getD (c.loop 255).bank ≠ (c.loop 255).bank) ∧
    (State.reset.chip.power.main.up = false ∧ up.power.main.up = true ∧ up.runningOn 3 = none ∧ up.nextEval = none) ∧
    (let c := loop255 [1, 0, 0, 0] (fun q => { q with pending := some (evalOf 1 3) });
      c.runningOn 3 = none ∧ c.nextEval = some (255, evalOf 1 3) ∧ (c.loop 255).running = none) ∧
    (let c := loop255 [1, 0, 0, 0] (fun q => { q with running := some (runningOf 2 3 3) });
      c.runningOn 3 = some 255 ∧ (c.loop 255).running = some (runningOf 2 3 3) ∧ c.nextPending = none) ∧
    (let c := { up with loops := [(0, { dLoop 0 with enabled := true, pending := some (evalOf 0 1) }), (1, { dLoop 1 with running := some (runningOf 1 2 0) }),
        (2, { dLoop 2 with running := some (runningOf 1 2 1) }), (3, { dLoop 3 with running := some (runningOf 1 2 2) }),
        (4, { dLoop 4 with running := some (runningOf 1 2 3) })] };
      c.runningOn 3 = some 4 ∧ c.nextPending = some (0, evalOf 0 1) ∧ (c.loop 4).running = some (runningOf 1 2 3) ∧
      c.preempts (evalOf 0 1) (runningOf 1 2 3).eval.cls = true ∧ c.preempts (evalOf 1 1) (runningOf 1 2 3).eval.cls = false) ∧
    ((runningOf 2 3 3).eval.nodes.length ≤ (runningOf 2 3 3).done.length + 3 ∧ (runningOf 2 3 3).done.length + 2 < (runningOf 2 3 3).eval.nodes.length) ∧
    (let c := loop255 [2, 0, 0, 0] (fun q => { q with pending := some (evalOf 2 3) }); (c.loop 255).pending = some (evalOf 2 3) ∧ 2 ≤ (evalOf 2 3).cls) ∧
    (∀ e, (up.loop 255).pending = some e → e.cls < 2) ∧
    (let c := (loop255 [1, 0, 0, 0] (fun q => { q with satSince := some 5 })).setAttr tyLoop 255 8 [1, 0];
      (c.loop 255).satSince = some 5 ∧ c.attrN tyLoop 255 8 ≠ 0 ∧ (c.loop 255).alarmTold = false ∧ c.clk.refRun = true) ∧
    ((up.loop 255).satSince = none ∧ State.reset.chip.clk.refRun = false ∧
      ((loop255 [1, 0, 0, 0] (fun q => { q with satSince := some 5, alarmTold := true })).loop 255).alarmTold = true) := by decide +kernel

/-- Coefficients of a PID with KP 1, KI 1 and the limits 0 and 1. -/
def coefs1 : List Nat := [65536, 65536, 0, 0, 0, 65536]

theorem witness_NodesComputeWithinLimits :
    coefVal coefs1 4 ≤ coefVal coefs1 5 ∧
    (let p := gainOf coefs1 0 65536; let g := 0 + gainOf coefs1 3 (gainOf coefs1 2 0 - 0);
      coefVal coefs1 4 ≤ 65536 ∧ (65536 : Int) ≤ coefVal coefs1 5 ∧ coefVal coefs1 5 ≤ p + 65536 + g ∧ 0 < gainOf coefs1 1 65536 ∧
      coefVal coefs1 5 ≤ p + 0 + g) ∧
    ([some ⟨false, 7, 1, false⟩, none, none] : List (Option NodeVal)).length = 3 ∧
    selqUsable (coefVal [0x3FC, 0] 0).toNat (some ⟨false, 7, 1, false⟩) = true ∧ ([] : List Int).getD 0 0 = 0 ∧
    ([3, 0, 0, 0, 9] : List Int) ≠ [] ∧
    (∀ v, v ∈ [some (⟨true, 0, 0, false⟩ : NodeVal), none, some ⟨false, 7, 4, false⟩] → selqUsable (coefVal [0x3FC, 0] 0).toNat v = false) := by
  decide +kernel

/-- `up` with zone 15 configured and its state changed; its presence sources are of the four kinds, over slot 4095 and zone 0. -/
def zone15 (cfg : Byte) (f : ZoneSt → ZoneSt) : Chip :=
  ((up.setAttr tyZone 15 1 [cfg, 0, 0, 0]).setAttr tyZone 15 13 ([1, 0, 0, 0, 2, 0, 0xFF, 0x0F, 3, 0, 0xFF, 0x0F, 4, 0, 0, 0] ++ zeros 16)).setZone 15
    (f (up.zone 15))

/-- A chip with slot 4095 valid and 1. -/
def high4095 (c : Chip) : Chip := { c with slots := [(4095, ⟨0x10000, 0, qVALID, 0, 0, 0⟩)], produced := [(4095, ⟨0x10000, 0, qVALID, 0, 0, 0⟩)] }

theorem witness_ZonesEvolve :
    (let c := zone15 1 (fun q => { q with due := some 1000000003, initUntil := some 1100000000 }); (c.zone 15).due = some 1000000003 ∧
      c.nextZone = some 15 ∧ c.transitComes 1000000003 = true ∧ (c.zone 15).initUntil.isSome = true ∧ c.zoneYValue 15 = none) ∧
    ((up.zone 15).due = none ∧ up.nextZone ≠ some 15 ∧ (up.zone 15).initUntil = none ∧ (up.zone 15).suspend = none ∧ up.predictions = []) ∧
    (let c := { zone15 1 (fun q => { q with due := some 1000000003 }) with clk := { up.clk with refRun := false } };
      (c.zone 15).due = some 1000000003 ∧ c.transitComes 1000000003 = false) ∧
    (let c := (high4095 (zone15 1 (fun q => { q with initUntil := some 1000000003 }))).setAttr tyZone 15 3 [0xFF, 0x0F];
      (c.zone 15).initUntil = some 1000000003 ∧ c.zoneYValue 15 = some 0x10000) ∧
    ((zone15 1 (fun q => { q with suspend := some 1000000003 })).zone 15).suspend = some 1000000003 ∧
    (let q : Predict := ⟨15, 0, true, 1, some (0, 7), (0, 0, 0)⟩;
      ({ zone15 1 id with predictions := [q] } : Chip).predictions = q :: [] ∧ q.cmd = some (0, 7) ∧ (zone15 1 id).zoneEn 15 = true ∧
      up.zoneEn 15 = false) ∧
    (let q : Predict := ⟨15, 0, true, 1, none, (0, 5, 5)⟩; ({ zone15 1 id with predictions := [q] } : Chip).predictions = q :: [] ∧ q.cmd = none) ∧
    (up.zonePres 15 = false ∧ ¬ 7 ≥ 8 ∧ (zone15 0x81 id).zonePres 15 = true) ∧
    (let c := zone15 0x81 id; fld (c.presSource 15 0) 0 1 = 1 ∧ (c.zone 15).pirDue.contains 0 = false ∧ fld (c.presSource 15 1) 0 1 = 2 ∧
      c.presHigh (c.presSource 15 1) = none ∧ fld (c.presSource 15 2) 0 1 = 3 ∧ c.presHigh (c.presSource 15 2) = none ∧
      fld (c.presSource 15 3) 0 1 = 4 ∧ fld (c.presSource 15 7) 0 1 = 0 ∧ (c.zone 15).presence ≠ .latched) ∧
    (let c := zone15 0x81 (fun q => { q with pirDue := [0] }); (c.zone 15).pirDue.contains 0 = true ∧ c.evidenceWaits 15 = true) ∧
    (let c := high4095 (zone15 0x81 id); c.presHigh (c.presSource 15 1) = some true) ∧
    (let c := zone15 0x81 (fun q => { q with presence := .latched, latchOn := some 1 }); (c.zone 15).presence = .latched ∧
      (c.zone 15).latchOn = some 1 ∧ c.presHigh (c.presSource 15 1) = none) ∧
    (let c := zone15 0x81 (fun q => { q with presence := .latched, latchOn := some 6 }); (c.zone 15).presence = .latched ∧
      (c.zone 15).latchOn ≠ some 1) ∧
    (let c := (zone15 0x81 id).setAttr tyZone 15 14 [0, 0, 2, 1];
      let ev := (c.zone 15).confirm.filter (fun t => decide (c.clk.now ≤ t + sec (bits (c.attrN tyZone 15 14) 20 12))) ++ [c.clk.now];
      (c.zone 15).presence = .vacant ∧ ev.length < bits (c.attrN tyZone 15 14) 16 4) ∧
    (let c := (zone15 0x81 (fun q => { q with confirm := [999999999] })).setAttr tyZone 15 14 [0, 0, 0x12, 0];
      let ev := (c.zone 15).confirm.filter (fun t => decide (c.clk.now ≤ t + sec (bits (c.attrN tyZone 15 14) 20 12))) ++ [c.clk.now];
      (c.zone 15).presence = .vacant ∧ bits (c.attrN tyZone 15 14) 16 4 ≤ ev.length) ∧
    (let c := zone15 0x81 (fun q => { q with presence := .occupied, hold := some 1000000003 }); (c.zone 15).presence = .occupied ∧
      (c.zone 15).hold = some 1000000003 ∧ c.zonePres 15 = true ∧ c.transitComes 1000000003 = true ∧
      (c.waitTransit 1000000003).evidenceWaits 15 = false) ∧
    (let c := zone15 0x81 (fun q => { q with presence := .occupied, hold := some 1000000003, pirDue := [0] });
      (c.waitTransit 1000000003).evidenceWaits 15 = true) ∧
    (up.zone 15).presence ≠ .occupied := by decide +kernel

/-- `up` with link 5 (or T1L link 3) in phase `p`, a step due, a resend and a renegotiation due. -/
def linkIn (n : Nat) (p : LinkPhase) : Chip :=
  up.setLink n { up.link n with phase := p, stepDue := some 1000000003, resendAt := some 1000000003, renegAt := some 1000000003, peerUid := 77 }

/-- What a neighbour of identity `u` says. -/
def identOf (u : Nat) (refuses : Bool) : IdentBody := ⟨u, none, 0, u, 0, refuses⟩

theorem witness_LinksComeUp :
    (State.reset.chip.linkRuns 5 = false ∧ up.linkRuns 5 = true ∧ up.linkRuns 3 = true ∧ isT1L 3 = true ∧ isT1L 5 = false) ∧
    ((up.link 5).phase = .down ∧ (up.link 5).phase ≠ .training ∧ (up.link 5).stepDue = none ∧ (up.link 5).resendAt = none ∧
      (up.link 5).renegAt = none) ∧
    ¬ ((0 = 1 ∨ 0 = 2) ∧ (bits (up.linkCfg 3) 1 2 = 0 ∨ bits (up.linkCfg 3) 1 2 = 0)) ∧
    ((linkIn 5 .up).link 5).phase ≠ .down ∧
    (((linkIn 5 .up).link 5).renegAt = some 1000000003 ∧ ((linkIn 5 .up).link 5).phase ≠ .isolated ∧ ((linkIn 5 .up).link 5).phase = .up) ∧
    ((identOf 77 false).uid = ((linkIn 5 .up).link 5).peerUid ∧ (identOf 77 false).refusesUs = false ∧ (identOf 77 true).refusesUs = true ∧
      (identOf 78 false).uid ≠ ((linkIn 5 .up).link 5).peerUid) ∧
    (((linkIn 5 .training).link 5).phase = .training ∧ ((linkIn 3 .training).link 3).phase = .training ∧
      (bits ((linkIn 3 .training).linkCfg 3) 1 2 = 0 ∨ bits ((linkIn 3 .training).linkCfg 3) 1 2 = 2)) ∧
    ((linkIn 5 .training).link 5).stepDue = some 1000000003 ∧
    (((linkIn 5 .negotiating).link 5).phase = .negotiating ∧ max 2 ((linkIn 5 .negotiating).minVer 5) ≤ min 2 2) ∧
    (((linkIn 5 .isolated).link 5).phase = .isolated ∧ min 3 2 < max 3 ((linkIn 5 .isolated).minVer 5) ∧ min 1 2 < max 1 (((linkIn 5 .isolated).setAttr tyLink 5 1 [1, 0, 0, 0]).minVer 5) ∧
      ((linkIn 5 .isolated).link 5).renegAt = some 1000000003) ∧
    (((linkIn 5 .identifying).link 5).phase = .identifying ∧ (linkIn 5 .identifying).identRefused 5 (identOf 77 false) = none ∧
      (linkIn 5 .identifying).identRefused 5 (identOf up.fuses.uid false) = some 4 ∧ ((linkIn 5 .identifying).link 5).resendAt = some 1000000003) ∧
    (((linkIn 5 .negotiating).link 5).resendAt = some 1000000003 ∧ ((linkIn 5 .negotiating).link 5).phase ≠ .identifying) := by decide +kernel

theorem witness_LinksStayUpAndGoDown :
    (State.reset.chip.linkRuns 5 = false ∧ up.linkUp 5 = false ∧ (up.link 5).phase = .down ∧ up.linkRuns 5 = true) ∧
    (((linkIn 5 .disabled).link 5).phase = .disabled ∧ ((linkIn 5 .training).link 5).phase = .training) ∧
    ((linkIn 5 .up).linkRuns 5 = true ∧ (linkIn 5 .up).linkUp 5 = true ∧ ((linkIn 5 .up).link 5).phase ≠ .disabled ∧
      ((linkIn 5 .up).link 5).phase ≠ .down ∧ ((linkIn 5 .up).link 5).phase ≠ .training) ∧
    (let c := (up.setAttr tyLink 5 4 [2, 0]).setLink 5 { up.link 5 with errors := [(0, 999999999)] };
      c.attrN tyLink 5 4 ≤ (c.noteError 5 0).errorCount 5 0) := by decide +kernel

/-! ### The fabric in time -/

/-- `up` at address 3 with link 5 UP to the module 77 at address 9, whose LSA is held. -/
def net : Chip :=
  { up.setLink 5 { up.link 5 with phase := .up, ver := 2, lvl := 3, peerUid := 77, peerNode := some 9 } with
    fabric := { up.fabric with addr := some 3, confirmed := true, bwUid := up.fuses.uid, lsas := [(77, ⟨⟨77, some 9, 0, 5, [⟨up.fuses.uid, 1, 2, true⟩]⟩, 1100000000⟩)] } }

/-- A frame of type `ty` and class `cls` for address `dst` with TTL `ttl`. -/
def frameTo (ty cls ttl dst : Nat) : List Byte := flockFrame ty cls ttl dst 7 (zeros 16)

/-- `c` with no room in the RX queue of link 5 for class 1 (queue 39). -/
def full39 (c : Chip) : Chip := { c with queues := Tbl.set dQueue c.queues 39 { c.queue 39 with tail := (c.queue 39).depth } }

theorem witness_FabricKeepsItsTopology :
    (up.linkUp 5 = false ∧ net.linkRuns 5 = true ∧ net.linkUp 5 = true) ∧
    (((full39 net).rxCount 5).rxPass 5 1 []).1 = false ∧ ((net.rxCount 5).rxPass 5 1 []).1 = true ∧
    (net.fabric.bwUid = net.fuses.uid ∧
      (let c := { net with fabric := { net.fabric with bwUid := 77 } }; c.fabric.bwUid ≠ c.fuses.uid ∧ c.linkUp 5 = true)) ∧
    (net.fabric.ownSeq < net.fabric.ownSeq + 1 ∧ (77 : Nat) ≠ net.fuses.uid ∧
      Tbl.get dNone (net.fabric.lsas.map (fun e => (e.1, some e.2.body.seq))) 77 = some 5 ∧
      Tbl.get dNone (net.fabric.lsas.map (fun e => (e.1, some e.2.body.seq))) 78 = none ∧ net.fabric.lsas.length < 1023) ∧
    (let c := { net with fabric := { net.fabric with lsas := List.replicate 1023 (77, ⟨⟨77, some 9, 0, 5, []⟩, 1100000000⟩) } };
      Tbl.get dNone (c.fabric.lsas.map (fun e => (e.1, some e.2.body.seq))) 78 = none ∧ 1023 ≤ c.fabric.lsas.length) ∧
    net.fabric.persisted ≠ some 3 := by decide +kernel

theorem witness_FabricKeepsItsTopology_rest :
    (up.power.main.up = true ∧ up.clk.refRun = true ∧ hasFlock up.fuses.variant = true) ∧
    (State.reset.chip.power.main.up = false ∧ State.reset.chip.clk.refRun = false) ∧
    up.fabric.acks.find? (fun e => e.1 == 5 && e.2.1 == 77) = none ∧
    (let c := { net with fabric := { net.fabric with acks := [(5, 77, 1000000003), (5, 78, 1000000003)] } };
      c.linkRuns 5 = true ∧ c.linkUp 5 = true ∧
      c.fabric.acks.find? (fun e => e.1 == 5 && e.2.1 == 78) = some (5, 78, 1000000003) ∧ lsaOf c.topology 78 = none ∧
      c.fabric.acks.find? (fun e => e.1 == 5 && e.2.1 == 77) = some (5, 77, 1000000003) ∧ (lsaOf c.topology 77).isSome = true) ∧
    ((net.fabric.lsas.find? (fun e => e.1 == 78)) = none ∧ (net.fabric.lsas.find? (fun e => e.1 == 77)).isSome = true) ∧
    (up.fabric.persistDue = false ∧ ({ net with fabric := { net.fabric with persistDue := true } } : Chip).fabric.persistDue = true) ∧
    ((zeros 11).length < 12 ∧ 12 ≤ (frameTo 0 1 16 9).length ∧ headerOk (frameTo 0 1 16 9) = true ∧ headerOk (1 :: zeros 11) = false ∧
      headerOk (frameTo 6 1 16 9) = false ∧ (crc8 ((frameTo 6 1 16 9).take 7) == fld (frameTo 6 1 16 9) 7 1) = true) ∧
    net.fabric.addr = some (frameDst (frameTo 0 1 16 3)) ∧
    (net.fabric.addr ≠ some (frameDst (frameTo 0 1 16 9)) ∧ bit (fld (frameTo 0 1 16 9) 0 8) 43 = false) ∧
    (frameTtl (frameTo 0 1 0 9) = 0 ∧ frameType (frameTo 2 1 16 9) = 2 ∧ frameType (frameTo 4 1 16 9) = 4 ∧
      net.nextHop (frameDst (frameTo 0 1 16 10)) = none) ∧
    (frameTtl (frameTo 0 1 1 9) ≠ 0 ∧ frameType (frameTo 0 1 1 9) ≠ 2 ∧ frameType (frameTo 0 1 1 9) ≠ 4 ∧
      net.nextHop (frameDst (frameTo 0 1 1 9)) = some 5 ∧ frameCls (frameTo 0 1 1 9) ≠ 0) ∧
    (frameCls (frameTo 0 0 1 9) = 0 ∧ (net.link 5).ver = 2) := by decide +kernel

/-- A TIME frame's content: origin `t`, distance `d`. -/
def timeOf (t d : Nat) : TimeBody := ⟨77, 1, 0, 0, d, false, false, t⟩

/-- `net` following the module 77. -/
def followed9 (f : FabricSt → FabricSt) : Chip := { net with fabric := f { net.fabric with bwUid := 77 } }

theorem witness_FabricKeepsTime :
    (let e : Int := ((timeOf 1000000 0).origin : Int) + (up.link 5).delay - up.fabricNs;
      let c := { up with fabric := { up.fabric with followed := some (0, 1) } };
      e.natAbs = 1000000 ∧ c.fabric.followed = some ((timeOf 1000000 0).steps, (timeOf 1000000 0).generation)) ∧
    (let e : Int := ((timeOf 1000001 0).origin : Int) + (up.link 5).delay - up.fabricNs; 1000000 < e.natAbs) ∧
    up.fabric.followed ≠ some ((timeOf 0 0).steps, (timeOf 0 0).generation) ∧
    (up.linkUp 5 = false ∧ up.follower = false ∧ State.reset.chip.power.main.up = false ∧ up.fabric.locked = false) ∧
    ((followed9 id).follower = true ∧ (followed9 id).linkRuns 5 = true ∧ (followed9 id).linkUp 5 = true ∧ net.follower = false) ∧
    (let c := (followed9 id).setLink 5 { (followed9 id).link 5 with peerTime := some (timeOf 5 0, 1000000000) };
      c.follower = true ∧ (c.pickUpstream).map (·.1) = some 5) ∧
    (let c := (followed9 id).setLink 5 { (followed9 id).link 5 with peerTime := some (timeOf 5 16, 1000000000) };
      c.follower = true ∧ (c.pickUpstream).map (·.1) ≠ some 5) ∧
    (let c := followed9 (fun f => { f with upstream := some 5 }); c.follower = true ∧ c.fabric.upstream.isSome = true ∧ c.pickUpstream = none) ∧
    (let c := (followed9 (fun f => { f with upstream := some 5 })).setLink 5 { (followed9 id).link 5 with peerTime := some (timeOf 5 15, 1000000000) };
      (c.pickUpstream).isSome = true) ∧
    (up.power.main.up = true ∧ up.follower = false ∧ up.rtc.presc = 0) ∧
    (let e : Int := ((up.rtc.count.toNat * 1000000000 + up.rtc.presc * 1000000000 / 32768 : Nat) : Int) - up.fabricNs; e.natAbs ≤ 1000000) ∧
    (let c := { up with rtc := { up.rtc with count := 1 } };
      let e : Int := ((c.rtc.count.toNat * 1000000000 + c.rtc.presc * 1000000000 / 32768 : Nat) : Int) - c.fabricNs; 1000000 < e.natAbs) ∧
    (let c := followed9 (fun f => { f with locked := true, unset := false, firstLock := true });
      let e : Int := ((c.rtc.count.toNat * 1000000000 + c.rtc.presc * 1000000000 / 32768 : Nat) : Int) - c.fabricNs;
      c.follower = true ∧ c.fabric.locked = true ∧ c.fabric.unset = false ∧ c.fabric.firstLock = true ∧ e.natAbs ≤ 2000000) ∧
    (followed9 (fun f => { f with locked := true, unset := false })).fabric.firstLock = false ∧
    (followed9 (fun f => { f with locked := true, unset := true })).fabric.unset = true := by decide +kernel

/-- Stream 255 imported from node 9 (or, with `cfg` 1, to the host), its MAP taking slot 4095 there to slot 17 here. -/
def stream255 (cfg : Byte) (st : Nat) : Chip :=
  (((net.setAttr tyStream 255 1 [cfg, 0, 0, 0]).setAttr tyStream 255 2 [9, 0]).setAttr tyStream 255 3 [0xFF, 0x0F, 17, 0]).setStream 255
    { up.stream 255 with state := st, timer := some 1000000003, closing := [] }

/-- A subscription of node 9 to its stream 255 over slot 4095. -/
def sub9 (cls : Nat) : Subscription := ⟨9, 255, cls, 10, 5, [4095], [none], 0, 999000000, 120000000, 0, none⟩

/-- `net` with that subscription. -/
def subbed (cls : Nat) : Chip := { net with fabric := { net.fabric with subs := [sub9 cls] } }

theorem witness_StreamsCarrySignals :
    (State.reset.chip.power.main.up = false ∧ up.linkUp 5 = false ∧ (up.stream 255).state = 0 ∧ (up.stream 255).timer = none ∧
      (stream255 1 2).isHostStream 255 = true ∧ (stream255 0 2).srcNode 255 ≠ 8 ∧ up.isHostStream 255 = false) ∧
    (up.findSub 9 255 = none ∧ (up.changedImages 255).isEmpty = true) ∧
    ((subbed 0).findSub 9 255 = some (sub9 0) ∧ ((subbed 0).pendingImages (sub9 0)).isEmpty = false ∧ (subbed 0).reaches 9 = true ∧
      up.reaches 9 = false ∧ (up.pendingImages { sub9 0 with seen := [some 0] }).isEmpty = true) ∧
    (256 ≤ fld [0, 1, 0, 0] 0 2 ∧ fld [0xFF, 0, 0, 0] 0 2 = 255) ∧
    ((stream255 0 2).linkRuns 5 = true ∧ (stream255 0 2).linkUp 5 = true ∧ ((stream255 0 2).stream 255).state ≠ 0 ∧
      (stream255 0 2).isHostStream 255 = false ∧ (stream255 0 2).srcNode 255 = 9 ∧ ((stream255 0 0).stream 255).state = 0) ∧
    (((stream255 0 2).streamMap 255).find? (fun e => e.1 == 4094) = none ∧
      ((stream255 0 2).streamMap 255).find? (fun e => e.1 == 4095) = some (4095, 17)) ∧
    (let c := { stream255 0 2 with slots := [(17, ⟨0, 5, qVALID, 0, 0, 0⟩)] }; olderThan (c.slot 17) 4 = true ∧ olderThan (c.slot 17) 5 = false ∧
      olderThan (c.slot 17) 6 = false) ∧
    (((net.rxCount 5).rxPass 5 1 []).1 = true ∧ (((full39 net).rxCount 5).rxPass 5 1 []).1 = false) ∧
    (let b : SubscribeBody := ⟨9, 255, 0, 10, [4095], 5⟩; (subbed 0).findSub b.src b.stream = some (sub9 0) ∧ (sub9 0).cls = b.cls ∧
      (sub9 0).interval = b.interval ∧ (sub9 0).sids = b.sids ∧ (sub9 0).rate = b.rate) ∧
    (let b : SubscribeBody := ⟨9, 255, 0, 10, [4095], 6⟩; ¬((sub9 0).cls = b.cls ∧ (sub9 0).interval = b.interval ∧ (sub9 0).sids = b.sids ∧
      (sub9 0).rate = b.rate) ∧ (subbed 0).subRefused b = none) ∧
    (let b : SubscribeBody := ⟨9, 254, 1, 10, List.replicate 1024 0, 6⟩; (subbed 0).subRefused b = some 1) ∧
    (((stream255 0 1).stream 255).timer = some 1000000003 ∧ (stream255 0 1).reaches ((stream255 0 1).srcNode 255) = true ∧
      ((stream255 0 1).setAttr tyStream 255 2 [10, 0]).reaches 10 = false) ∧
    (net.nextHop 9 = some 5 ∧ net.fabric.addr = some 3 ∧ up.nextHop 9 = none) ∧
    (let c := { stream255 1 2 with slotWrites := [(4095, 1)] }; c.isHostStream 255 = true ∧ (c.stream 255).state = 2 ∧
      (c.changedImages 255).isEmpty = false ∧ (c.stream 255).closing = []) ∧
    (let c := ({ stream255 1 2 with slotWrites := [(4095, 1)] } : Chip).setStream 255 { (stream255 1 2).stream 255 with closing := [(0, 7)] };
      (c.stream 255).closing ≠ [] ∧ ((c.writeHostRecord 255).changedImages 255).isEmpty = true) := by decide +kernel

/-- A PHIVEOX packet of tag 7 with the flags and STATUS given. -/
def packet (flags status : Byte) : List Byte := [2, 3, 0, 0, 7, 0, 0, 0, 0, 0, 0, 0, flags, 0, 0, 0, status, 0, 0xFF, 0xFF]

/-- `net` with context 0 bound to node 9 and a command of it outstanding. -/
def bound0 : Chip := { net with host := { net.host with bind := [(0, 0x8009)] }, cmds := [cmd 8 5 0 []] }

theorem witness_PhiveoxPacketsAreCarried :
    (up.linkUp 5 = false ∧ net.linkRuns 5 = true ∧ net.linkUp 5 = true) ∧
    (((net.rxCount 5).rxPass 5 1 (phiveoxPayload 0 (packet 0x10 0))).1 = true ∧
      (((full39 net).rxCount 5).rxPass 5 1 (phiveoxPayload 0 (packet 0x10 0))).1 = false) ∧
    (bit (fld (packet 0x10 0) 12 1) 4 = true ∧ bit (fld (packet 0 0) 12 1) 4 = false) ∧
    ({ net with fabric := { net.fabric with remotes := [(31, some (9, 5))] } } : Chip).remoteCtx 9 5 = some 31 ∧
    (net.remoteCtx 9 5 = none ∧ net.freeRemote = some 16) ∧
    (let c := { net with fabric := { net.fabric with remotes := (List.range 16).map (fun i => (16 + i, some (8, i))) }, sessions := (List.range 16).map (fun i => (16 + i, ⟨true, 0x302, 1⟩)) };
      c.remoteCtx 9 5 = none ∧ c.freeRemote = none) ∧
    (0xFF00 ≤ 0xFF00 ∧ 0 < 0xFF00 ∧ up.boundNode 0 ≠ some 9 ∧ bound0.boundNode 0 = some 9) ∧
    (bound0.findCmd 0 (fld (packet 0x10 0) 4 2) = some (cmd 8 5 0 []) ∧ fld (packet 0x10 (BitVec.ofNat 8 stAccepted)) 16 1 = stAccepted ∧
      fld (packet 0x10 0) 16 1 ≠ stAccepted ∧ (cmd 8 5 0 []).family ≠ 0) ∧
    (let c := { bound0 with cmds := [cmd 0 0 0 []] }; c.findCmd 0 7 = some (cmd 0 0 0 []) ∧ fld (packet 0x10 0) 16 1 = stOK) ∧
    (let c := { bound0 with cmds := [cmd 0 1 0 []] }; c.findCmd 0 7 = some (cmd 0 1 0 []) ∧ (cmd 0 1 0 []).opcode = 1 ∧
      fld (packet 0x10 7) 16 1 ≠ stOK) ∧
    (let c := { bound0 with cmds := [] }; c.findCmd 0 7 = none ∧ c.canReserve 0 (entriesFor (c.queue (completionQueue 0)).eshift 20) = true) ∧
    (let c := { bound0 with cmds := [], queues := Tbl.set dQueue bound0.queues 8 { bound0.queue 8 with enable := false } };
      c.canReserve 0 (entriesFor (c.queue (completionQueue 0)).eshift 20) = false) := by decide +kernel

/-! ### CAN, panels, the thermal governor and the dogs in time -/

/-- Controller 1 started, with MODE bits `cfg` and its state changed. -/
def can1 (cfg : Nat) (f : CanSt → CanSt) : Chip :=
  (up.setAttr tyCan 1 1 (leBytes 4 cfg)).setCan 1 (f { dCan 1 with started := true })

/-- A frame with its number, identifier and instant. -/
def pendOf (num id since : Nat) : CanPend := { pend0 with num := num, since := since, frame := { pend0.frame with id := id } }

theorem witness_CanSendsAndReceives :
    (up.canDrives 1 = false ∧ (can1 0 id).pickFrame 1 = none ∧ (up.canOf 1).flight = none ∧ (up.canOf 1).started = false ∧
      State.reset.chip.power.main.up = false ∧ State.reset.chip.islandHeld = true ∧ canCount up.fuses.variant ≤ 2) ∧
    (let c := can1 0 (fun x => { x with err := 2 }); (c.canOf 1).err = 2 ∧ bit (c.canCfg 1) 5 = false ∧ c.canDrives 1 = false) ∧
    ({ pend0.frame with fdf := true }.fdf = true ∧ (can1 0 id).canFd 1 = false ∧ bit ((can1 0 id).canCfg 1) 8 = false) ∧
    (let c := can1 0 (fun x => { x with pend := [pendOf 1 5 999999998, pendOf 2 4 999999998, pendOf 3 3 999999999] }); c.canTT 1 = false ∧
      c.pickFrame 1 = some (pendOf 2 4 999999998) ∧ c.canDrives 1 = true ∧ (c.canOf 1).flight = none ∧
      (pendOf 1 5 999999998).since + 2 ≤ c.clk.now) ∧
    (let c := can1 0 (fun x => { x with flight := some ⟨pendOf 1 5 0, false, []⟩ }); (c.canOf 1).flight = some ⟨pendOf 1 5 0, false, []⟩ ∧
      c.power.main.up = true ∧ c.islandHeld = false ∧ (pendOf 1 5 0).cmd ≠ none ∧ ({ pendOf 1 5 0 with cmd := none } : CanPend).cmd = none) ∧
    (let c := (can1 0x80 (fun x => { x with recv := 127 })).setAttr tyCan 1 9 (zeros 8 ++ [1, 0, 0, 0]); (c.canOf 1).started = true ∧
      (c.canOf 1).err ≠ 2 ∧ (c.canOf 1).recv ≤ 127 ∧ ((c.filters 1).find? (fun e => filterMatches e.2 pend0.frame)).isSome = true) ∧
    (let c := can1 0x80 (fun x => { x with recv := 128 }); 127 < (c.canOf 1).recv ∧ bit (c.canCfg 1) 7 = true ∧
      (c.filters 1).find? (fun e => filterMatches e.2 pend0.frame) = none) ∧
    (bit ((can1 0 id).canCfg 1) 7 = false ∧ (can1 0 id).power.main.up = true ∧ (can1 0 id).islandHeld = false ∧ 1 < canCount up.fuses.variant) ∧
    (let c := can1 0x20 (fun x => { x with err := 2 }); (c.canOf 1).started = true ∧ (c.canOf 1).err = 2 ∧ bit (c.canCfg 1) 5 = true) ∧
    (let c := (can1 0x100 id).setCan 1 (dCan 1); (c.canOf 1).started = false ∧ bit (c.canCfg 1) 8 = true) := by decide +kernel

/-- Controller 1 time-triggered, able to be master, with one window of each type and transmit object 63 of each kind. -/
def tt1 (tt : Nat) (kind : Byte) (f : CanSt → CanSt) : Chip :=
  (((can1 1 f).setAttr tyCan 1 5 (leBytes 4 tt)).setAttr tyCan 1 7 ([10, 0, 1, 63, 0, 0, 0, 0] ++ [20, 0, 2, 0, 0, 0, 0, 0] ++ [30, 0, 3, 0, 0, 0, 0, 0]
    ++ [40, 0, 4, 0, 0, 0, 0, 0])).setAttr tyCan 1 8 (zeros 756 ++ [0, 0, 0, 0, 0, kind, 0, 0, 0, 0, 5, 0])

/-- A frame of CAN_SEND with EXCL for object `o`. -/
def exclOf (o since : Nat) : CanPend := { pend0 with excl := true, obj := o, since := since }

theorem witness_CanKeepsItsSchedule :
    (up.ttRuns 1 = false ∧ 7 < 8 ∧ bit ((tt1 0 0 id).ttCfg 1) 22 = false) ∧
    ((can1 9 id).canSilent 1 = true ∧ ((tt1 0 0 (fun x => { x with level := 2 })).canOf 1).level = 2) ∧
    (((tt1 0 0 id).canOf 1).synced = false ∧ (can1 1 (fun x => { x with synced := true })).nextWindow 1 = none) ∧
    (up.canOf 1).pend.find? (fun p => p.excl && p.cmd == some (0, 9)) = none ∧
    (let c := tt1 0 3 (fun x => { x with pend := [exclOf 63 0] }); (c.canOf 1).pend.find? (fun p => p.excl && p.cmd == some (0, 9)) = some (exclOf 63 0) ∧
      (c.windows 1).any (fun w => winType w == 1 && winTxo w == (exclOf 63 0).obj) = true) ∧
    (let c := tt1 0 3 (fun x => { x with pend := [exclOf 62 0] }); (c.canOf 1).pend.find? (fun p => p.excl && p.cmd == some (0, 9)) = some (exclOf 62 0) ∧
      (c.windows 1).any (fun w => winType w == 1 && winTxo w == (exclOf 62 0).obj) = false) ∧
    ((tt1 0 3 id).eventObj 1 63 = false ∧ ((tt1 0 1 id).canObj 1 63).periodDue = none ∧ (tt1 0 1 id).objWrites 1 63 = ((tt1 0 1 id).canObj 1 63).seen) ∧
    ((tt1 0 1 id).canSilent 1 = false ∧ ((tt1 0 1 id).canOf 1).flight = none ∧ (tt1 0 1 id).txKind 1 63 = 1 ∧ (tt1 0 2 id).txKind 1 63 = 2 ∧
      (tt1 0 3 id).txKind 1 63 = 3) ∧
    (let c := tt1 0 3 (fun x => { x with pend := [exclOf 63 999999998] });
      (c.canOf 1).pend.find? (fun p => p.excl && p.obj == 63 && c.crossed p) = some (exclOf 63 999999998)) ∧
    ((tt1 0 3 (fun x => { x with flight := some ⟨pend0, false, []⟩ })).canOf 1).flight ≠ none ∧
    ((tt1 0 0 id).ttRuns 1 = true ∧ 7 ≤ 7 ∧ ((tt1 0 0 id).canOf 1).level ≠ 2 ∧ ((tt1 0 0 (fun x => { x with level := 2 })).ttRuns 1) = true) ∧
    (let c := tt1 0x400000 0 (fun x => { x with synced := true }); bit (c.ttCfg 1) 22 = true ∧ c.canSilent 1 = false ∧ c.aligned 1 = false ∧
      (c.canOf 1).synced = true) := by decide +kernel

theorem witness_CanKeepsItsSchedule_rest :
    (let c := { tt1 0xC00000 0 (fun x => { x with master := true }) with rtc := { up.rtc with valid := true }, fabric := { up.fabric with bwUid := up.fuses.uid } };
      bit (c.ttCfg 1) 22 = true ∧ c.aligned 1 = true) ∧
    (let c := tt1 0 0 (fun x => { x with synced := true }); c.nextWindow 1 = some 10 ∧
      ((c.windows 1).find? (fun w => winTime w == 10 && winIn w (c.canOf 1).cycle)).map winType = some 1) ∧
    (let c := tt1 0 0 (fun x => { x with synced := true, winTime := some 10 }); c.nextWindow 1 = some 20 ∧
      ((c.windows 1).find? (fun w => winTime w == 20 && winIn w (c.canOf 1).cycle)).map winType = some 2) ∧
    (let c := tt1 0 0 (fun x => { x with synced := true, winTime := some 20 }); c.nextWindow 1 = some 30 ∧
      ((c.windows 1).find? (fun w => winTime w == 30 && winIn w (c.canOf 1).cycle)).map winType = some 3) ∧
    (let c := tt1 0 0 (fun x => { x with synced := true, winTime := some 30 }); c.nextWindow 1 = some 40 ∧
      ((c.windows 1).find? (fun w => winTime w == 40 && winIn w (c.canOf 1).cycle)).map winType = some 4) ∧
    (let c := (tt1 0 0 (fun x => { x with synced := true })).setAttr tyCan 1 7 [10, 0, 1, 63, 6, 63, 0, 0]; c.nextWindow 1 = some 10 ∧
      (c.windows 1).find? (fun w => winTime w == 10 && winIn w (c.canOf 1).cycle) = none) ∧
    (let c := tt1 0 1 (fun x => { x with objs := [(63, { dCanObj 63 with periodDue := some 1000000003, seen := [5] })] });
      c.eventObj 1 63 = true ∧ (c.canObj 1 63).periodDue = some 1000000003 ∧ fld (c.txObj 1 63) 10 2 ≠ 0 ∧ c.objRoom 1 63 = true ∧
      c.objWrites 1 63 ≠ (c.canObj 1 63).seen ∧ (c.canOf 1).pend.any (fun p => p.cmd.isNone && p.obj == 63) = false ∧ (c.canOf 1).pendCount < 32) ∧
    (let c := tt1 0 1 (fun x => { x with pend := List.replicate 32 pend0 }); c.objRoom 1 63 = false ∧ 32 ≤ (c.canOf 1).pendCount) := by
  decide +kernel

/-- `railsUp` with panel 0 changed. -/
def panel0 (f : PanelSt → PanelSt) : Chip := railsUp.setPanel 0 (f (railsUp.panel 0))

theorem witness_PanelsDriveAndPower :
    (let x : Transition := ⟨1, 0, 3, 0, false, some 999999998⟩; let p : Pixel := ⟨some 0, some x, none, 0⟩;
      p.trans = some x ∧ x.fresh = some 999999998 ∧ 999999998 + 2 ≤ railsUp.clk.now) ∧
    ((up.panel 0).rails ≠ .up ∧ (up.panel 0).rails ≠ .rising ∧ (up.panel 0).rails = .off ∧ (railsUp.panel 0).rails = .up ∧
      State.reset.chip.power.main.up = false ∧ State.reset.chip.islandHeld = true ∧ bit (railsUp.panelCfg 0) 1 = false) ∧
    (railsUp.power.main.up = true ∧ railsUp.islandHeld = false ∧ (railsUp.panel 0).down = none ∧ railsUp.loadHolds 0 = false) ∧
    (((panel0 (fun x => { x with down := some false })).panel 0).down = some false ∧
      ((panel0 (fun x => { x with down := some true })).panel 0).down = some true) ∧
    ({ railsUp with image := { railsUp.image with loading := some (0, 7), holding := [0] } } : Chip).loadHolds 0 = true ∧
    (let c := panel0 (fun x => { x with rails := .rising, step := 3 }); (c.panel 0).step < 4 ∧ (c.panel 0).rails = .rising) ∧
    (let c := panel0 (fun x => { x with rails := .falling, step := 3 }); (c.panel 0).step < 4 ∧ (c.panel 0).rails = .falling) ∧
    (let c := panel0 (fun x => { x with rails := .rising, step := 4 }); 4 ≤ (c.panel 0).step ∧ (c.panel 0).rails = .rising) ∧
    (let c := panel0 (fun x => { x with rails := .falling, step := 4 }); 4 ≤ (c.panel 0).step ∧ (c.panel 0).rails = .falling ∧
      (c.panel 0).fault = false ∧ c.power.main.up = true) ∧
    ((panel0 (fun x => { x with rails := .falling, step := 4, fault := true })).panel 0).fault = true ∧
    (let c := (railsUp.setAttr tyPanel 0 1 [3, 0, 0, 0]).setAttr tyPanel 0 6 [5, 0]; bit (c.panelCfg 0) 1 = true ∧ c.attrN tyPanel 0 6 ≠ 0 ∧
      c.anyTransition 0 = false ∧ (c.panel 0).updates = [] ∧ (c.panel 0).down = none ∧ (c.panel 0).rails = .up) := by decide +kernel

/-- A waveform table of one band, from −128 °C to 127 °C. -/
def table1 : List Byte := zeros 12 ++ [1, 0x0F, 0, 0, 0x80, 0x7F] ++ zeros 430

theorem witness_PanelsShowTheirUpdates :
    ((panel0 (fun x => { x with band := some 0 })).panel 0).band.isSome = true ∧
    bandOf ((panel0 id).wave 0) ((panel0 id).panelTemp 0).1 (some 0) = none ∧ (up.panel 0).band = none ∧
    (bandOf table1 (126 * 65536) none).isSome = true ∧
    (State.reset.chip.power.main.up = false ∧ panelCount up.fuses.variant ≤ 2 ∧ 0 < panelCount up.fuses.variant ∧ panelCount 2 = 0) ∧
    ((up.panel 0).rails ≠ .up ∧ bits (railsUp.attrN tyPanel 0 10) 0 8 = 0 ∧ (up.field 63).due = false ∧ up.fieldOn 63 = false) ∧
    (railsUp.panel 0).updates.find? (fun u => !u.taken) = none ∧
    (let c := panel0 (fun x => { x with updates := eightUpdates.map (fun u => { u with taken := false, num := 5, source := .host 0 7 }) });
      c.hostUpdates 0 ≠ 0 ∧ ((c.panel 0).updates.find? (fun u => !u.taken)).map (·.num) = some 5 ∧
      ((c.panel 0).updates.find? (fun u => !u.taken)).map (·.clear) = some none) ∧
    (({ put railsUp (cmd 0xA 1 (handle tyPanel 0) []) with pending := [] } : State).chip.findCmd 0 7).isSome = true ∧
    (let c := (panel0 (fun x => { x with band := some 0 })).setAttr tyPanel 0 10 [60, 5, 0, 0]; (c.panel 0).rails = .up ∧
      bits (c.attrN tyPanel 0 10) 0 8 ≠ 0 ∧ c.hostUpdates 0 = 0 ∧ c.islandHeld = false ∧ c.loadHolds 0 = false ∧ (c.panel 0).band = some 0 ∧
      c.admits 0 0 0 16 16 = true ∧ ((c.panel 0).pixel 0).busy = false ∧ ((c.panel 0).pixel 0).pending = none ∧
      ((c.panel 0).pixel 0).ledger.natAbs < bits (c.attrN tyPanel 0 10) 8 7 ∧
      sweepPick (c.wave 0) (bits (c.attrN tyPanel 0 10) 16 2) 0 ((c.panel 0).pixel 0) = none) ∧
    (let p : Pixel := ⟨some 0, none, none, 9⟩; 5 ≤ p.ledger.natAbs ∧ p.busy = false ∧
      ({ p with pending := some ⟨0, false, false, 0, 0⟩ } : Pixel).pending.isSome = true ∧
      ({ p with trans := some ⟨1, 0, 3, 0, false, none⟩ } : Pixel).busy = true) ∧
    (let c := (panel0 (fun x => { x with pixels := [(0, ⟨none, some ⟨1, 0, 3, 0, false, none⟩, none, 0⟩)] })).setThermal (fun t => { t with step := 8 });
      c.admits 0 0 0 16 16 = false) ∧
    (let c := railsUp.setAttr tyDevice 0 (0xA00 + 63) (1 :: zeros 35); let d := c.setField 63 { c.field 63 with due := true };
      (d.field 63).due = true ∧ d.fieldOn 63 = true ∧ (d.panel (fieldPanel (d.fieldRec 63))).fault = false ∧
      (d.field 63).drawn ≠ some (d.fieldText 63) ∧
      ((d.setField 63 { d.field 63 with drawn := some (d.fieldText 63) }).field 63).drawn = some (d.fieldText 63)) := by decide +kernel

/-- What a sweep asks of a waveform table: an entry that names sequence 1, and its net effect of −1. -/
theorem sweep_finds (t : List Byte) (h1 : fld t 448 4 = 1) (h2 : fld t 49621 1 = 255) :
    sweepPick t 0 0 ⟨some 0, none, none, 9⟩ = some (1, 0) := by
  simp [sweepPick, waveIndex, seqNet, seqOffset, h1, h2, bits, signed]

/-- A sweep finds a sequence that brings a ledger nearer to 0. -/
theorem witness_PanelsShowTheirUpdates_sweep :
    sweepPick (zeros 448 ++ ([1, 0, 0, 0] ++ (zeros 49169 ++ [0xFF]))) 0 0 ⟨some 0, none, none, 9⟩ = some (1, 0) := by
  refine sweep_finds _ ?_ ?_
  · rw [fld, slice, List.drop_left' (l₁ := zeros 448) (List.length_replicate ..)]; rfl
  · rw [fld, slice, ← List.append_assoc, ← List.append_assoc, List.drop_left' (by simp only [zeros, List.length_append, List.length_replicate, List.length_cons, List.length_nil])]
    rfl

/-! ### The thermal governor and the dogs -/

/-- `up` at an estimated temperature, with the governor changed. -/
def therm (est : Int) (f : ThermalSt → ThermalSt) : Chip := up.setThermal (fun t => f { t with est := est })

theorem witness_ThermalGovernorActs :
    (degC 110 ≤ (therm (degC 110) id).thermal.est ∧ (therm (degC 110) id).thermal.warn = false ∧
      (therm (degC 105 - 1) id).thermal.est < degC 105 ∧ degC 105 ≤ (therm (degC 105) id).thermal.est ∧
      (therm (degC 110 - 1) id).thermal.est < degC 110 ∧ (therm (degC 120) (fun t => { t with warn := true })).thermal.warn = true) ∧
    ((therm 0 (fun t => { t with full := true })).thermal.full = true ∧ (therm (degC 140) id).thermal.full = false ∧
      degC 140 ≤ (therm (degC 140) id).thermal.est) ∧
    ((therm (degC 135) id).thermal.shutdown = false ∧ degC 135 ≤ (therm (degC 135) id).thermal.est ∧
      (therm (degC 140 - 1) id).thermal.est < degC 140) ∧
    (let c := therm (degC 130 - 1) (fun t => { t with shutdown := true }); c.thermal.full = false ∧ c.thermal.shutdown = true ∧
      c.thermal.est < degC 130) ∧
    (let c := therm (degC 130) (fun t => { t with shutdown := true }); degC 130 ≤ c.thermal.est ∧ c.thermal.est < degC 135) ∧
    (max up.thermal.stepT up.floorNow = up.thermal.step ∧
      (let c := therm 0 (fun t => { t with stepT := 8 }); max c.thermal.stepT c.floorNow ≠ c.thermal.step)) ∧
    (let t := (therm (degC 120) id).thermal; degC 120 ≤ t.est ∧ t.risen = false) ∧
    (let t := (therm (degC 120) (fun t => { t with risen := true, hot := 199 })).thermal; 199 ≤ t.hot) ∧
    (let t := (therm (degC 120) (fun t => { t with risen := true, hot := 198 })).thermal; degC 115 ≤ t.est ∧ t.risen = true ∧ t.hot < 199) ∧
    (let t := (therm (degC 115) id).thermal; degC 115 ≤ t.est ∧ t.est < degC 120) ∧
    (let t := (therm (degC 115 - 1) (fun t => { t with cool := 998 })).thermal; t.est < degC 115 ∧ t.cool < 999) ∧
    (let t := (therm (degC 115 - 1) (fun t => { t with cool := 999 })).thermal; 999 ≤ t.cool) ∧
    up.power.aoOn = true ∧
    (let c := therm (degC 140) id; c.judgeWarn.judgeShutdown.1 = true) ∧ (let c := therm 0 id; c.judgeWarn.judgeShutdown.1 = false) ∧
    ((therm 0 (fun t => { t with stepsUp := 1 })).thermal.stepsUp ≠ 0 ∧ (therm 0 (fun t => { t with stepsDown := 1 })).thermal.stepsDown ≠ 0 ∧
      up.thermal.stepsUp = 0 ∧ up.thermal.stepsDown = 0) ∧
    (let c := therm 0 (fun t => { t with full := true, okCount := 1000 }); c.thermal.full = true ∧ 1000 ≤ c.thermal.okCount) ∧
    (up.thermal.full = false ∧ (therm 0 (fun t => { t with full := true, okCount := 999 })).thermal.okCount < 1000) ∧
    (pw (fun p => { p with aoOn := false })).power.aoOn = false := by decide +kernel

theorem witness_DogsBite :
    ((pw (fun p => p)).dueZone = none ∧ up.predictions = [] ∧ up.orreryLoses.1 = none) ∧
    (let c := (up.setAttr tyZone 15 1 [1, 0, 0, 0]).setZone 15 { dZone 15 with due := some 999999999 }; c.dueZone = some 15 ∧
      (c.zone 15).fit.isSome = false ∧ c.orreryLoses.1 = some 15) ∧
    (let c := (up.setAttr tyZone 15 1 [1, 0, 0, 0]).setZone 15 { dZone 15 with due := some 999999999, fit := some ⟨[], [], 0, .num 0 0, .num 0 0⟩ };
      c.dueZone = some 15 ∧ (c.zone 15).fit.isSome = true) ∧
    (let p : Predict := ⟨15, 0, true, 1, some (0, 7), (0, 0, 0)⟩; ({ up with predictions := [p] } : Chip).dueZone = none ∧
      ({ up with predictions := [p] } : Chip).predictions = p :: [] ∧ p.cmd = some (0, 7) ∧ ({ p with cmd := none } : Predict).cmd = none) ∧
    (7 < 8 ∧ 8 ≤ 11 ∧ 11 < 12 ∧ 1 < canCount up.fuses.variant ∧ memSize 0 ≤ memSize 0 ∧ 0 < memSize 0 ∧ 0 < memSize 1 ∧ 0 < memSize 2) ∧
    (up.power.main.up = true ∧ (none : Option (Nat × Nat)).bind (fun k => up.findCmd k.1 k.2) = none) ∧
    ((put up (cmd 3 0 0 [])).chip.findCmd 0 7 = some (cmd 3 0 0 []) ∧ (cmd 3 0 0 []).rerun = false ∧
      (put up { cmd 3 0 0 [] with rerun := true }).chip.findCmd 0 7 = some { cmd 3 0 0 [] with rerun := true }) ∧
    (let c := { up with loops := [(3, { dLoop 3 with running := some ⟨⟨0, 0, 0, 1, false, false, [], []⟩, some 3, [], [], [], [], none, none, [], [], false⟩ })] };
      (c.runningOn (12 - 9)).or (c.nextEval.map Prod.fst) = some 3 ∧ (c.loop 3).running.isSome = true) ∧
    (let c := { up with loops := [(3, { dLoop 3 with pending := some ⟨0, 0, 0, 1, false, false, [], []⟩ })] };
      (c.runningOn (9 - 9)).or (c.nextEval.map Prod.fst) = some 3 ∧ (c.loop 3).running.isSome = false) ∧
    (up.runningOn 0 = none ∧ up.nextEval = none) ∧
    (foldPort true 0 = true ∧ foldPort false 13 = true ∧ foldPort false 22 = false) ∧
    (({ up with firmware := { up.firmware with running := some false } } : Chip).firmware.running.isSome = true ∧
      up.firmware.running.isSome = false) := by decide +kernel

theorem witness_DogsBite_rest :
    (let c := up.setAttr tyDevice 0 0x702 [1, 0]; let d := { c with dogs := { c.dogs with hbArmed := true } };
      bits (d.attrN tyDevice 0 0x702) 0 8 ≠ 0 ∧ d.dogs.hbArmed = true ∧ d.dogs.hbLost = false) ∧
    ((pw (fun p => { p with main := .booting })).power.main = .booting ∧ (pw (fun p => { p with main := .reset })).mayRelease = true ∧
      (pw (fun p => { p with main := .booting })).power.main.up = false) ∧
    (let s := pw (fun p => { p with main := .booting });
      let w := s.released.waitUntil (s.released.dogs.release.getD 0 + sec 1);
      (let v := { w with firmware := { w.firmware with bankA := .erased, bankB := .erased } }; v.chooseBank.bank.isSome = false)) ∧
    (up.power.aoOn = true ∧ up.mainRuns = true ∧ State.reset.chip.mainRuns = false ∧ State.reset.chip.power.main.up = false ∧
      (pw (fun p => { p with aoOn := false })).power.aoOn = false) ∧
    (({ up with image := { up.image with loading := some (0, 7) } } : Chip).image.loading.isSome = true ∧ up.image.loading.isSome = false ∧
      up.power.main ≠ .booting ∧ up.mayRelease = false) ∧
    (8 ≤ 8 ∧ 8 < 9 ∧ 13 < 14) ∧ up.dogs.hbArmed = false := by decide +kernel

/-- What a DRAM line holds is open; one of the four cases is met by every line. -/
theorem witness_DogsBite_line (line : Nat) :
    (Config.dramLine line).1 % 4 = 0 ∨ (Config.dramLine line).1 % 4 = 1 ∨ (Config.dramLine line).1 % 4 = 2 ∨ (Config.dramLine line).1 % 4 = 3 := by
  omega

end Sys2Proof.Tests
end

section
/-! Signal table: the age of a slot and when it reads STALE (R38). -/

namespace Sys2Proof.Machine

/-- A key that a table does not list reads as its default. -/
theorem Tbl.get_of_not_has {α : Type} (d : Nat → α) (t : Tbl α) (k : Nat) (h : Tbl.has t k = false) : Tbl.get d t k = d k := by
  induction t with
  | nil => rfl
  | cons e t ih =>
    obtain ⟨hne, ht⟩ : ¬ e.1 = k ∧ Tbl.has t k = false := by simpa [Tbl.has] using h
    simp only [Tbl.get, if_neg hne]
    exact ih ht

/-- Setting a bit in a quality word carries it. -/
theorem hasQ_or_self (q : Half) {m : Half} (hm : m ≠ 0) : hasQ (q ||| m) m = true := by
  have habsorb : (q ||| m) &&& m = m := by ext i; simp +contextual
  simpa [hasQ, habsorb] using hm

/-- The QUALITY of a slot that was not written carries no bit. -/
theorem hasQ_dSlot (sid : Nat) (m : Half) : hasQ (dSlot sid).quality m = false := by
  simp [hasQ, dSlot]

variable (c : Chip) (sid : Nat)

/-- Fabric time less STAMP, in the 32 bits of a stamp. -/
theorem slotAge_eq (s : Slot) : c.slotAge s = (BitVec.ofNat 32 c.clk.fabUs - s.stamp).toNat := rfl

theorem isStale_of_not_valid (s : Slot) (h : hasQ s.quality qVALID = false) : c.isStale s = false := by
  simp [Chip.isStale, h]

theorem isStale_of_age (s : Slot) (hv : hasQ s.quality qVALID = true) (ha : 2 ^ 31 ≤ c.slotAge s) : c.isStale s = true := by
  have ha' : 0x80000000 ≤ c.slotAge s := ha
  simp [Chip.isStale, hv, ha']

theorem readSlot_of_fresh (h : c.isStale (c.slot sid) = false) : c.readSlot sid = c.slot sid := by
  simp [Chip.readSlot, h]

theorem readSlot_quality_of_stale (h : c.isStale (c.slot sid) = true) :
    (c.readSlot sid).quality = (c.slot sid).quality ||| qSTALE := by
  simp [Chip.readSlot, h]

/-- What is not VALID is not judged: it reads as it is held. -/
theorem readSlot_of_not_valid (h : hasQ (c.slot sid).quality qVALID = false) : c.readSlot sid = c.slot sid :=
  readSlot_of_fresh c sid (isStale_of_not_valid c _ h)

theorem readSlot_stale_of_age (hv : hasQ (c.slot sid).quality qVALID = true) (ha : 2 ^ 31 ≤ c.slotAge (c.slot sid)) :
    hasQ (c.readSlot sid).quality qSTALE = true := by
  rw [readSlot_quality_of_stale c sid (isStale_of_age c _ hv ha)]
  exact hasQ_or_self _ (by decide)

theorem slot_of_unwritten (h : Tbl.has c.slots sid = false) : c.slot sid = dSlot sid :=
  Tbl.get_of_not_has dSlot c.slots sid h

theorem readSlot_of_unwritten (h : Tbl.has c.slots sid = false) : c.readSlot sid = dSlot sid := by
  have hslot := slot_of_unwritten c sid h
  rw [← hslot]
  exact readSlot_of_not_valid c sid (by rw [hslot, hasQ_dSlot])

/-- A consumer takes exactly a slot that reads VALID and not STALE. -/
theorem slotUsable_iff : c.slotUsable sid = true ↔
    hasQ (c.readSlot sid).quality qVALID = true ∧ hasQ (c.readSlot sid).quality qSTALE = false := by
  simp [Chip.slotUsable]

theorem not_slotUsable_of_not_valid (h : hasQ (c.slot sid).quality qVALID = false) : c.slotUsable sid = false := by
  rw [← readSlot_of_not_valid c sid h] at h
  rw [Bool.eq_false_iff, Ne, slotUsable_iff]
  simp [h]

theorem not_slotUsable_of_stale (h : hasQ (c.readSlot sid).quality qSTALE = true) : c.slotUsable sid = false := by
  rw [Bool.eq_false_iff, Ne, slotUsable_iff]
  simp [h]

end Sys2Proof.Machine

namespace Sys2Proof
open Machine

/-- Settles O13: a slot is judged STALE only where it is VALID, and an unlisted slot reads as the default, whose QUALITY is 0. -/
theorem slotAge : Obligations.SlotAge := by
  intro c sid
  refine ⟨slotAge_eq c _, readSlot_stale_of_age c sid, ?notJudged, ?unwritten,
    not_slotUsable_of_not_valid c sid, not_slotUsable_of_stale c sid⟩
  case notJudged =>
    intro h
    rw [readSlot_of_not_valid c sid h]
  case unwritten =>
    intro h
    rw [readSlot_of_unwritten c sid h]
    exact ⟨hasQ_dSlot sid qVALID, hasQ_dSlot sid qSTALE⟩

end Sys2Proof
end

section
/-! Packets: what the fields of a packet read back (Table 2.2, R54), what a reply echoes (R71), and ECHO (R89). -/

namespace Sys2Proof.Machine

section Packet

variable (verMaj verMin fam op tag hnd flags dl : Nat) (payload : List Byte)

theorem packet_family : fld (packet verMaj verMin fam op tag hnd flags dl payload) 2 1 = fam % 256 := leNat_leBytes 1 fam

theorem packet_opcode : fld (packet verMaj verMin fam op tag hnd flags dl payload) 3 1 = op % 256 := leNat_leBytes 1 op

theorem packet_tag : fld (packet verMaj verMin fam op tag hnd flags dl payload) 4 2 = tag % 65536 := leNat_leBytes 2 tag

theorem packet_handle : fld (packet verMaj verMin fam op tag hnd flags dl payload) 8 4 = hnd % 4294967296 := leNat_leBytes 4 hnd

theorem packet_flags : fld (packet verMaj verMin fam op tag hnd flags dl payload) 12 1 = flags % 256 := leNat_leBytes 1 flags

/-- The payload follows the 16 bytes of the header. -/
theorem packet_payload : (packet verMaj verMin fam op tag hnd flags dl payload).drop 16 = payload := rfl

end Packet

/-- The FLAGS byte of a reply: CLASS of the command, REPLY, and bit 5 where the command ran demoted (R71, R83). -/
theorem reply_flags (k : Cmd) (st o : Nat) (data : List Byte) :
    fld (replyPacket k st o data) 12 1 = k.flags % 4 + 16 ∨ fld (replyPacket k st o data) 12 1 = k.flags % 4 + 48 := by
  unfold replyPacket
  simp only [packet_flags]
  split <;> omega

/-- A reply's payload: the status block, then the supported range (R65) or the result data. -/
theorem reply_payload (k : Cmd) (st o : Nat) (data : List Byte) :
    (replyPacket k st o data).drop 16 = statusBlock st o ++ (if st = stBadVersion then [2, 0, 3, 2] else data) := by
  unfold replyPacket
  simp only [packet_payload, beq_iff_eq]

/-- The result data follow the 4 bytes of the status block. -/
theorem reply_data (k : Cmd) (st o : Nat) (data : List Byte) (h : st ≠ stBadVersion) :
    (replyPacket k st o data).drop 20 = data := by
  rw [show (20 : Nat) = 16 + 4 from rfl, ← List.drop_drop, reply_payload, if_neg h]
  rfl

theorem bodyEcho_of_le (k : Cmd) (c : Chip) (h : k.payload.length ≤ 4076) : bodyEcho k c = .okWith k.payload c :=
  if_neg (Nat.not_lt.mpr h)

theorem bodyEcho_of_long (k : Cmd) (c : Chip) (h : 4076 < k.payload.length) : bodyEcho k c = .badLength c := if_pos h

/-- An ECHO that may run does what its body says. -/
theorem exec_echo_ready {k : Cmd} {s : State} (h : Ready 0 4 k s) :
    Leads (.echo k.ctx k.tag) s ((bodyEcho k s.chip).settle k.ctx k.tag k) := by
  rw [← runCmd_ready h bodyEcho]
  rfl

end Sys2Proof.Machine

namespace Sys2Proof
open Machine

/-- Settles O9: each header field of the reply reads back what was written in it, and FLAGS is CLASS with REPLY set and
perhaps the demotion bit. -/
theorem replyEchoes : Obligations.ReplyEchoes := by
  intro k st o data hfam hop htag hhnd p
  have hflags : fld p 12 1 = k.flags % 4 + 16 ∨ fld p 12 1 = k.flags % 4 + 48 := reply_flags k st o data
  refine ⟨?reply, ?family, ?opcode, ?tag, ?handle, ?cls, reply_payload k st o data⟩
  case reply =>
    simp only [bit, beq_iff_eq]
    omega
  case family => exact (packet_family ..).trans (Nat.mod_eq_of_lt hfam)
  case opcode => exact (packet_opcode ..).trans (Nat.mod_eq_of_lt hop)
  case tag => exact (packet_tag ..).trans (Nat.mod_eq_of_lt htag)
  case handle => exact (packet_handle ..).trans (Nat.mod_eq_of_lt hhnd)
  case cls => omega

/-- Settles O18: the body of ECHO either hands its payload back or refuses its length, and what it hands back stands after the
status block of the reply. -/
theorem echoReturnsPayload : Obligations.EchoReturnsPayload := by
  intro k s hready
  have hleads := exec_echo_ready hready
  refine ⟨fun hle => ⟨?answers, fun _ => reply_data k stOK noOfs k.payload (by decide)⟩, fun hlong => ?refused⟩
  case answers =>
    rw [bodyEcho_of_le k s.chip hle] at hleads
    exact hleads
  case refused =>
    rw [bodyEcho_of_long k s.chip hlong] at hleads
    exact hleads

end Sys2Proof
end

section
/-! Event routes: what a write of EVT_ROUTE leaves, and why the management controller hears E112–E127 (R94, R95). -/

namespace Sys2Proof.Machine

/-! ### Attributes and their reset values -/

@[simp] theorem Chip.attr_setAttr_same (c : Chip) (ty i a : Nat) (v : List Byte) : (c.setAttr ty i a v).attr ty i a = v :=
  Tbl.get_set_same _ _ _ _

theorem attrKey_handle (ty i : Nat) {a : Nat} (ha : a < 65536) : attrKey ty i a / 65536 = handle ty i := by
  unfold attrKey; omega

theorem attrKey_attr (ty i : Nat) {a : Nat} (ha : a < 65536) : attrKey ty i a % 65536 = a := by
  unfold attrKey; omega

theorem handleTy_handle (ty i : Nat) : handleTy (handle ty i) = ty := by
  unfold handleTy handle; omega

theorem handleInst_handle (ty : Nat) {i : Nat} (hi : i < 0x1000000) : handleInst (handle ty i) = i := by
  unfold handleInst handle; omega

/-- An attribute's default is the reset value of its row. -/
theorem dAttr_of_row (v key : Nat) {d : AttrDef}
    (hd : attrDef v (handleTy (key / 65536)) (handleInst (key / 65536)) (key % 65536) = some d) : dAttr v key = d.reset := by
  unfold dAttr
  rw [hd]

theorem dAttr_attrKey (v ty : Nat) {i a : Nat} (hi : i < 0x1000000) (ha : a < 65536) {d : AttrDef}
    (hd : attrDef v ty i a = some d) : dAttr v (attrKey ty i a) = d.reset :=
  dAttr_of_row v _ (by rw [attrKey_handle ty i ha, attrKey_attr ty i ha, handleTy_handle, handleInst_handle ty hi, hd])

/-- EVT_ROUTE right after reset (Table 3.2). -/
theorem route_reset {e : Nat} (he : e < 0x1000000) : State.reset.chip.route e = if 112 ≤ e then 0x100005 else 0x5 := by
  have hrow : attrDef State.reset.chip.fuses.variant tyEvent e 1 =
      some ⟨4, 4, .rw, leBytes 4 (if 112 ≤ e then 0x100005 else 0x5)⟩ := rfl
  have hattr : State.reset.chip.attr tyEvent e 1 = leBytes 4 (if 112 ≤ e then 0x100005 else 0x5) :=
    dAttr_attrKey _ tyEvent he (by decide) hrow
  rw [Chip.route, Chip.attrN, hattr, leNat_leBytes]
  split <;> rfl

/-! ### A write of EVT_ROUTE -/

/-- MGT of a route fixed for E112–E127 (R95). -/
theorem fixRoute_mgt {e : Nat} (he : 112 ≤ e) (r : Nat) : bit (fixRoute e r) 20 = true := by
  unfold fixRoute
  split
  case isTrue h =>
    obtain ⟨-, hclear⟩ : 112 ≤ e ∧ bit r 20 = false := by simpa using h
    simp only [bit, beq_eq_false_iff_ne, beq_iff_eq] at hclear ⊢
    omega
  case isFalse h => simpa [he] using h

/-- Setting the clear bit MGT carries into no higher bit. -/
theorem fixRoute_lt {r : Nat} (e : Nat) (hr : r < 4294967296) : fixRoute e r < 4294967296 := by
  unfold fixRoute
  split
  case isTrue h =>
    obtain ⟨-, hclear⟩ : 112 ≤ e ∧ bit r 20 = false := by simpa using h
    simp only [bit, beq_eq_false_iff_ne] at hclear
    omega
  case isFalse => exact hr

theorem Routed.attr_eq {c d : Chip} (h : Routed c d) (ty i a : Nat) : d.attr ty i a = c.attr ty i a := by
  obtain ⟨_, _, _, _, _, _, _, _, rfl⟩ := h
  rfl

theorem Routed.fuses_eq {c d : Chip} (h : Routed c d) : d.fuses = c.fuses := by
  obtain ⟨_, _, _, _, _, _, _, _, rfl⟩ := h
  rfl

theorem writeRoute_attr (c : Chip) (e r : Nat) : (c.writeRoute e r).attr tyEvent e 1 = leBytes 4 (fixRoute e r) :=
  ((writeRoute_frame e r c).attr_eq tyEvent e 1).trans (c.attr_setAttr_same tyEvent e 1 _)

theorem writeRoute_fuses (c : Chip) (e r : Nat) : (c.writeRoute e r).fuses = c.fuses :=
  (writeRoute_frame e r c).fuses_eq

/-- The route that a write leaves is the word written, with MGT fixed. -/
theorem writeRoute_route (c : Chip) (e : Nat) {r : Nat} (hr : r < 4294967296) : (c.writeRoute e r).route e = fixRoute e r := by
  rw [Chip.route, Chip.attrN, writeRoute_attr, leNat_leBytes]
  exact Nat.mod_eq_of_lt (fixRoute_lt e hr)

/-- OBJ_GET reads EVT_ROUTE from its active copy. -/
theorem readAttr_route (c : Chip) (e : Nat) : leNat (c.readAttr tyEvent e 1) = c.route e := rfl

/-! ### What the management controller hears -/

/-- The management alert status hears E112–E127 under every route, MASKED or not (R95). -/
theorem routeMgt_of_mgtEvent {e : Nat} (he : 112 ≤ e) (r : Nat) : routeMgt e r = true := by
  simp [routeMgt, he]

/-- A firing of one of E112–E127 sets its bit of the management alert status and asserts ALERT#, whatever its route. -/
theorem fire_mgtEvent_alerts (c : Chip) {e : Nat} (x : Nat) (h112 : 112 ≤ e) (h128 : e < 128)
    (hn : eventNever c.fuses.variant e = false) :
    (c.fire e x).mgt.alert.getLsbD e = true ∧ (c.fire e x).mgt.alertLine = true :=
  fireWith_sets_alert e _ _ c hn h128 (routeMgt_of_mgtEvent h112 _)

end Sys2Proof.Machine

namespace Sys2Proof
open Machine

/-- Settles O12: a write of EVT_ROUTE leaves MGT set, and a firing of E112–E127 reaches the alert status under every route. -/
theorem managementHearsFaults : Obligations.ManagementHearsFaults := by
  intro c e r h112 h128 hr
  have hwritten : bit ((c.writeRoute e r).route e) 20 = true := by
    rw [writeRoute_route c e hr]
    exact fixRoute_mgt h112 r
  refine ⟨?reset, hwritten, ?read, routeMgt_of_mgtEvent h112, ?heard⟩
  case reset =>
    rw [route_reset (by omega), if_pos h112]
    rfl
  case read =>
    rw [readAttr_route]
    exact hwritten
  case heard =>
    intro x hn
    exact fire_mgtEvent_alerts _ x h112 h128 (by rw [writeRoute_fuses]; exact hn)

end Sys2Proof
end

section
-- One proof after another: side by side, the stacks of their threads reach the check's limit of memory.
set_option Elab.async false
/-! What every row keeps: it leaves the commands that wait, the fuses, the canonical form of the memories, and does not run time
back. -/

namespace Sys2Proof.Machine

/-- Where the row answers a next state, the queue of commands is as it was, and the module keeps its fuses, its memories' form and
its time. -/
def RowKeeps (i : Instr) : Prop :=
  ∀ s t : State, exec i s = .next t → t.pending = s.pending ∧ Keeps Field.all s.chip t.chip

/-- A row that acts on the module alone. -/
theorem RowKeeps.row {i : Instr} (h : ∀ s, ∃ d, exec i s = .next { s with chip := d } ∧ Keeps Field.all s.chip d) : RowKeeps i := by
  intro s t ht
  obtain ⟨d, hd, hk⟩ := h s
  rw [hd] at ht
  cases ht
  exact ⟨rfl, hk⟩

/-- A row that runs one operation of the module. -/
theorem RowKeeps.chip {i : Instr} (f : Chip → Chip) (hi : ∀ s, exec i s = .next { s with chip := f s.chip })
    (hf : ∀ c, Keeps Field.all c (f c)) : RowKeeps i :=
  .row (fun s => ⟨_, hi s, hf s.chip⟩)

/-- A row that runs an opcode keeps what its body keeps. -/
theorem RowKeeps.command {i : Instr} (fam op : Nat) (body : Cmd → Chip → Res) (ctx tag : Nat)
    (hi : ∀ s, exec i s = .next { s with chip := s.chip.runCmd fam op body ctx tag })
    (hbody : ∀ k c, ResKeeps Field.all c (body k c)) : RowKeeps i :=
  .chip _ hi (fun c => runCmd_keeps (.of rfl) _ _ _ _ _ c hbody (.refl c))

theorem timeByteDriven_keeps (port : PortSide) (index : Nat) (c : Chip) :
    Keeps Field.all c (match port with
      | .host => { (c.readTimeByte port index).2 with
          host := { (c.readTimeByte port index).2.host with driven := [(c.readTimeByte port index).1] } }
      | .mgmt => { (c.readTimeByte port index).2 with
          mgt := { (c.readTimeByte port index).2.mgt with driven := some [(c.readTimeByte port index).1] } }) := by
  have hread : Keeps Field.all c (c.readTimeByte port index).2 := readTimeByte_keeps (.of rfl) port index c (.refl c)
  cases port with
  | host => exact .change hread (by apply Touches.mk <;> intro hn <;> cases hn) (Nat.le_refl _) id id id
  | mgmt => exact .change hread (by apply Touches.mk <;> intro hn <;> cases hn) (Nat.le_refl _) id id id

theorem registerWrite_rowKeeps (port : PortSide) (addr : Nat) (value : Byte) : RowKeeps (.registerWrite port addr value) := by
  cases port with
  | host => exact .row (fun s => ⟨_, rfl, .ite (hifWrite_keeps (.of rfl) _ _ s.chip (.refl _)) (.refl _)⟩)
  | mgmt => exact .row (fun s => ⟨_, rfl, .ite (mgtWrite_keeps (.of rfl) _ _ s.chip (.refl _)) (.refl _)⟩)

/-- MEMORY_ECC answers a next state only for an address of its memory (log entry 14). -/
theorem memoryEcc_rowKeeps (mem addr : Nat) (single : Bool) : RowKeeps (.memoryEcc mem addr single) := by
  intro s t h
  change execMemoryEcc mem addr single s = .next t at h
  unfold execMemoryEcc at h
  split at h
  · cases h
    exact ⟨rfl, memoryError_keeps (.of rfl) mem addr single s.chip (.refl _)⟩
  · cases h

/-- Every row of the opcode table. -/
theorem rowKeeps (i : Instr) : RowKeeps i := by
  cases i with
  | sessionOpen _ _ => exact .row (fun s => ⟨_, rfl, completeClosing_keeps (.of rfl) _ _ (runCmd_keeps (.of rfl) _ _ _ _ _ s.chip (fun k x => bodySessionOpen_keeps (.of rfl) k x (.refl x)) (.refl _))⟩)
  | sessionClose _ _ => exact .row (fun s => ⟨_, rfl, completeClosing_keeps (.of rfl) _ _ (runCmd_keeps (.of rfl) _ _ _ _ _ s.chip (fun k x => bodySessionClose_keeps (.of rfl) k x (.refl x)) (.refl _))⟩)
  | heartbeat ctx tag => exact .command _ _ _ _ _ (fun _ => rfl) (fun k c => bodyHeartbeat_keeps (.of rfl) k c (.refl c))
  | abort ctx tag => exact .command _ _ _ _ _ (fun _ => rfl) (fun k c => bodyAbort_keeps (.of rfl) k c (.refl c))
  | echo ctx tag => exact .command _ _ _ _ _ (fun _ => rfl) (fun k c => bodyEcho_keeps (.of rfl) k c (.refl c))
  | objGet ctx tag => exact .command _ _ _ _ _ (fun _ => rfl) (fun k c => bodyObjGet_keeps (.of rfl) k c (.refl c))
  | objSet ctx tag => exact .command _ _ _ _ _ (fun _ => rfl) (fun k c => bodyObjSet_keeps (.of rfl) k c (.refl c))
  | objStage ctx tag => exact .command _ _ _ _ _ (fun _ => rfl) (fun k c => bodyObjStage_keeps (.of rfl) k c (.refl c))
  | objCommit ctx tag => exact .command _ _ _ _ _ (fun _ => rfl) (fun k c => bodyObjCommit_keeps (.of rfl) k c (.refl c))
  | objDiscard ctx tag => exact .command _ _ _ _ _ (fun _ => rfl) (fun k c => bodyObjDiscard_keeps (.of rfl) k c (.refl c))
  | objCreate ctx tag => exact .command _ _ _ _ _ (fun _ => rfl) (fun k c => bodyObjCreate_keeps (.of rfl) k c (.refl c))
  | objDelete ctx tag => exact .command _ _ _ _ _ (fun _ => rfl) (fun k c => bodyObjDelete_keeps (.of rfl) k c (.refl c))
  | objOwner ctx tag => exact .command _ _ _ _ _ (fun _ => rfl) (fun k c => bodyObjOwner_keeps (.of rfl) k c (.refl c))
  | objList ctx tag => exact .command _ _ _ _ _ (fun _ => rfl) (fun k c => bodyObjList_keeps (.of rfl) k c (.refl c))
  | streamOpen ctx tag => exact .command _ _ _ _ _ (fun _ => rfl) (fun k c => bodyStreamOpen_keeps (.of rfl) k c (.refl c))
  | streamClose ctx tag => exact .command _ _ _ _ _ (fun _ => rfl) (fun k c => bodyStreamClose_keeps (.of rfl) k c (.refl c))
  | signalRead ctx tag => exact .command _ _ _ _ _ (fun _ => rfl) (fun k c => bodySignalRead_keeps (.of rfl) k c (.refl c))
  | signalForce ctx tag => exact .command _ _ _ _ _ (fun _ => rfl) (fun k c => bodySignalForce_keeps (.of rfl) k c (.refl c))
  | signalRelease ctx tag => exact .command _ _ _ _ _ (fun _ => rfl) (fun k c => bodySignalRelease_keeps (.of rfl) k c (.refl c))
  | seqStart ctx tag => exact .command _ _ _ _ _ (fun _ => rfl) (fun k c => bodySeqStart_keeps (.of rfl) k c (.refl c))
  | seqStop ctx tag => exact .command _ _ _ _ _ (fun _ => rfl) (fun k c => bodySeqStop_keeps (.of rfl) k c (.refl c))
  | seqRead ctx tag => exact .command _ _ _ _ _ (fun _ => rfl) (fun k c => bodySeqRead_keeps (.of rfl) k c (.refl c))
  | calZero ctx tag => exact .command _ _ _ _ _ (fun _ => rfl) (fun k c => bodyCalZero_keeps (.of rfl) k c (.refl c))
  | calSpan ctx tag => exact .command _ _ _ _ _ (fun _ => rfl) (fun k c => bodyCalSpan_keeps (.of rfl) k c (.refl c))
  | calRead ctx tag => exact .command _ _ _ _ _ (fun _ => rfl) (fun k c => bodyCalRead_keeps (.of rfl) k c (.refl c))
  | calWrite ctx tag => exact .command _ _ _ _ _ (fun _ => rfl) (fun k c => bodyCalWrite_keeps (.of rfl) k c (.refl c))
  | calCaptureDone _ _ _ => exact .chip _ (fun _ => rfl) (fun c => captureDone_keeps (.of rfl) _ _ _ c (.refl c))
  | calCaptureTimeout _ => exact .chip _ (fun _ => rfl) (fun c => captureTimeout_keeps (.of rfl) _ c (.refl c))
  | zeroCaptureExpiry _ _ => exact .chip _ (fun _ => rfl) (fun c => zeroExpiry_keeps (.of rfl) _ _ c (.refl c))
  | calStoreWriteDone _ => exact .chip _ (fun _ => rfl) (fun c => storeWritten_keeps (.of rfl) _ c (.refl c))
  | pwmGroupEnable ctx tag => exact .command _ _ _ _ _ (fun _ => rfl) (fun k c => bodyGroupEnable_keeps (.of rfl) k c (.refl c))
  | pwmGroupDisable ctx tag => exact .command _ _ _ _ _ (fun _ => rfl) (fun k c => bodyGroupDisable_keeps (.of rfl) k c (.refl c))
  | groupSafe ctx tag => exact .command _ _ _ _ _ (fun _ => rfl) (fun k c => bodyGroupSafe_keeps (.of rfl) k c (.refl c))
  | tripClear ctx tag => exact .command _ _ _ _ _ (fun _ => rfl) (fun k c => bodyTripClear_keeps (.of rfl) k c (.refl c))
  | damperMove ctx tag => exact .command _ _ _ _ _ (fun _ => rfl) (fun k c => bodyDamperMove_keeps (.of rfl) k c (.refl c))
  | damperRehome ctx tag => exact .command _ _ _ _ _ (fun _ => rfl) (fun k c => bodyDamperRehome_keeps (.of rfl) k c (.refl c))
  | valveSet ctx tag => exact .command _ _ _ _ _ (fun _ => rfl) (fun k c => bodyValveSet_keeps (.of rfl) k c (.refl c))
  | fanSet ctx tag => exact .command _ _ _ _ _ (fun _ => rfl) (fun k c => bodyFanSet_keeps (.of rfl) k c (.refl c))
  | actFaultClear ctx tag => exact .command _ _ _ _ _ (fun _ => rfl) (fun k c => bodyActFaultClear_keeps (.of rfl) k c (.refl c))
  | loopEnable ctx tag => exact .command _ _ _ _ _ (fun _ => rfl) (fun k c => bodyLoopEnable_keeps (.of rfl) k c (.refl c))
  | loopDisable ctx tag => exact .command _ _ _ _ _ (fun _ => rfl) (fun k c => bodyLoopDisable_keeps (.of rfl) k c (.refl c))
  | bankSwap ctx tag => exact .command _ _ _ _ _ (fun _ => rfl) (fun k c => bodyBankSwap_keeps (.of rfl) k c (.refl c))
  | loopStatus ctx tag => exact .command _ _ _ _ _ (fun _ => rfl) (fun k c => bodyLoopStatus_keeps (.of rfl) k c (.refl c))
  | integratorPreset ctx tag => exact .command _ _ _ _ _ (fun _ => rfl) (fun k c => bodyIntegratorPreset_keeps (.of rfl) k c (.refl c))
  | satClear ctx tag => exact .command _ _ _ _ _ (fun _ => rfl) (fun k c => bodySatClear_keeps (.of rfl) k c (.refl c))
  | zoneStatus ctx tag => exact .command _ _ _ _ _ (fun _ => rfl) (fun k c => bodyZoneStatus_keeps (.of rfl) k c (.refl c))
  | fitEnable ctx tag => exact .command _ _ _ _ _ (fun _ => rfl) (fun k c => bodyFitEnable_keeps (.of rfl) k c (.refl c))
  | fitDisable ctx tag => exact .command _ _ _ _ _ (fun _ => rfl) (fun k c => bodyFitDisable_keeps (.of rfl) k c (.refl c))
  | suspectOverride ctx tag => exact .command _ _ _ _ _ (fun _ => rfl) (fun k c => bodySuspectOverride_keeps (.of rfl) k c (.refl c))
  | presenceRead ctx tag => exact .command _ _ _ _ _ (fun _ => rfl) (fun k c => bodyPresenceRead_keeps (.of rfl) k c (.refl c))
  | predictStart ctx tag => exact .command _ _ _ _ _ (fun _ => rfl) (fun k c => bodyPredictStart_keeps (.of rfl) k c (.refl c))
  | timeCapture ctx tag => exact .command _ _ _ _ _ (fun _ => rfl) (fun k c => bodyTimeCapture_keeps (.of rfl) k c (.refl c))
  | timeSet ctx tag => exact .command _ _ _ _ _ (fun _ => rfl) (fun k c => bodyTimeSet_keeps (.of rfl) k c (.refl c))
  | calendarSet ctx tag => exact .command _ _ _ _ _ (fun _ => rfl) (fun k c => bodyCalendarSet_keeps (.of rfl) k c (.refl c))
  | wakeSet ctx tag => exact .command _ _ _ _ _ (fun _ => rfl) (fun k c => bodyWakeSet_keeps (.of rfl) k c (.refl c))
  | alarmSet ctx tag => exact .command _ _ _ _ _ (fun _ => rfl) (fun k c => bodyAlarmSet_keeps (.of rfl) k c (.refl c))
  | ephemerisRead ctx tag => exact .command _ _ _ _ _ (fun _ => rfl) (fun k c => bodyEphemerisRead_keeps (.of rfl) k c (.refl c))
  | ephemerisWrite ctx tag => exact .command _ _ _ _ _ (fun _ => rfl) (fun k c => bodyEphemerisWrite_keeps (.of rfl) k c (.refl c))
  | ephemerisFlashDone _ => exact .chip _ (fun _ => rfl) (fun c => ephFlashDone_keeps (.of rfl) _ c (.refl c))
  | scheduleStatus ctx tag => exact .command _ _ _ _ _ (fun _ => rfl) (fun k c => bodyScheduleStatus_keeps (.of rfl) k c (.refl c))
  | linkStatus ctx tag => exact .command _ _ _ _ _ (fun _ => rfl) (fun k c => bodyLinkStatus_keeps (.of rfl) k c (.refl c))
  | linkRetrain ctx tag => exact .command _ _ _ _ _ (fun _ => rfl) (fun k c => bodyLinkRetrain_keeps (.of rfl) k c (.refl c))
  | linkRetrainDone _ => exact .chip _ (fun _ => rfl) (fun c => retrainDone_keeps (.of rfl) _ c (.refl c))
  | topologyRead ctx tag => exact .command _ _ _ _ _ (fun _ => rfl) (fun k c => bodyTopologyRead_keeps (.of rfl) k c (.refl c))
  | routeStatus ctx tag => exact .command _ _ _ _ _ (fun _ => rfl) (fun k c => bodyRouteStatus_keeps (.of rfl) k c (.refl c))
  | bellwetherStatus ctx tag => exact .command _ _ _ _ _ (fun _ => rfl) (fun k c => bodyBellwetherStatus_keeps (.of rfl) k c (.refl c))
  | policeCounters ctx tag => exact .command _ _ _ _ _ (fun _ => rfl) (fun k c => bodyPoliceCounters_keeps (.of rfl) k c (.refl c))
  | canStart ctx tag => exact .command _ _ _ _ _ (fun _ => rfl) (fun k c => bodyCanStart_keeps (.of rfl) k c (.refl c))
  | canStop ctx tag => exact .command _ _ _ _ _ (fun _ => rfl) (fun k c => bodyCanStop_keeps (.of rfl) k c (.refl c))
  | canSend ctx tag => exact .command _ _ _ _ _ (fun _ => rfl) (fun k c => bodyCanSend_keeps (.of rfl) k c (.refl c))
  | canCancel ctx tag => exact .command _ _ _ _ _ (fun _ => rfl) (fun k c => bodyCanCancel_keeps (.of rfl) k c (.refl c))
  | canStatus ctx tag => exact .command _ _ _ _ _ (fun _ => rfl) (fun k c => bodyCanStatus_keeps (.of rfl) k c (.refl c))
  | canTimeMaster ctx tag => exact .command _ _ _ _ _ (fun _ => rfl) (fun k c => bodyCanTimeMaster_keeps (.of rfl) k c (.refl c))
  | panelPower ctx tag => exact .command _ _ _ _ _ (fun _ => rfl) (fun k c => bodyPanelPower_keeps (.of rfl) k c (.refl c))
  | regionUpdate ctx tag => exact .command _ _ _ _ _ (fun _ => rfl) (fun k c => bodyRegionUpdate_keeps (.of rfl) k c (.refl c))
  | regionClear ctx tag => exact .command _ _ _ _ _ (fun _ => rfl) (fun k c => bodyRegionClear_keeps (.of rfl) k c (.refl c))
  | panelStatus ctx tag => exact .command _ _ _ _ _ (fun _ => rfl) (fun k c => bodyPanelStatus_keeps (.of rfl) k c (.refl c))
  | ledgerSweep ctx tag => exact .command _ _ _ _ _ (fun _ => rfl) (fun k c => bodyLedgerSweep_keeps (.of rfl) k c (.refl c))
  | fieldRefresh ctx tag => exact .command _ _ _ _ _ (fun _ => rfl) (fun k c => bodyFieldRefresh_keeps (.of rfl) k c (.refl c))
  | powerStatus ctx tag => exact .command _ _ _ _ _ (fun _ => rfl) (fun k c => bodyPowerStatus_keeps (.of rfl) k c (.refl c))
  | thermalStatus ctx tag => exact .command _ _ _ _ _ (fun _ => rfl) (fun k c => bodyThermalStatus_keeps (.of rfl) k c (.refl c))
  | reset ctx tag => exact .command _ _ _ _ _ (fun _ => rfl) (fun k c => bodyReset_keeps (.of rfl) k c (.refl c))
  | resetDelayExpiry => exact .chip _ (fun _ => rfl) (fun c => resetRow_keeps (.of rfl) c (.refl c))
  | resetCauseRead ctx tag => exact .command _ _ _ _ _ (fun _ => rfl) (fun k c => bodyResetCauseRead_keeps (.of rfl) k c (.refl c))
  | budgetSet ctx tag => exact .command _ _ _ _ _ (fun _ => rfl) (fun k c => bodyBudgetSet_keeps (.of rfl) k c (.refl c))
  | fwInfo ctx tag => exact .command _ _ _ _ _ (fun _ => rfl) (fun k c => bodyFwInfo_keeps (.of rfl) k c (.refl c))
  | fwWrite ctx tag => exact .command _ _ _ _ _ (fun _ => rfl) (fun k c => bodyFwWrite_keeps (.of rfl) k c (.refl c))
  | fwCommit ctx tag => exact .command _ _ _ _ _ (fun _ => rfl) (fun k c => bodyFwCommit_keeps (.of rfl) k c (.refl c))
  | fwCommitDone _ => exact .chip _ (fun _ => rfl) (fun c => fwCommitDone_keeps (.of rfl) _ c (.refl c))
  | fwSelect ctx tag => exact .command _ _ _ _ _ (fun _ => rfl) (fun k c => bodyFwSelect_keeps (.of rfl) k c (.refl c))
  | yelistWrite ctx tag => exact .command _ _ _ _ _ (fun _ => rfl) (fun k c => bodyYelistWrite_keeps (.of rfl) k c (.refl c))
  | yelistLoad ctx tag => exact .command _ _ _ _ _ (fun _ => rfl) (fun k c => bodyYelistLoad_keeps (.of rfl) k c (.refl c))
  | yelistLoadDone _ _ => exact .chip _ (fun _ => rfl) (fun c => loadDone_keeps (.of rfl) _ _ c (.refl c))
  | identityRead ctx tag => exact .command _ _ _ _ _ (fun _ => rfl) (fun k c => bodyIdentityRead_keeps (.of rfl) k c (.refl c))
  | eventRoute ctx tag => exact .command _ _ _ _ _ (fun _ => rfl) (fun k c => bodyEventRoute_keeps (.of rfl) k c (.refl c))
  | eventMask ctx tag => exact .command _ _ _ _ _ (fun _ => rfl) (fun k c => bodyEventMask_keeps (.of rfl) k c (.refl c))
  | eventRead ctx tag => exact .command _ _ _ _ _ (fun _ => rfl) (fun k c => bodyEventRead_keeps (.of rfl) k c (.refl c))
  | queueConfig ctx tag => exact .command _ _ _ _ _ (fun _ => rfl) (fun k c => bodyQueueConfig_keeps (.of rfl) k c (.refl c))
  | queueStatus ctx tag => exact .command _ _ _ _ _ (fun _ => rfl) (fun k c => bodyQueueStatus_keeps (.of rfl) k c (.refl c))
  | coalesceSet ctx tag => exact .command _ _ _ _ _ (fun _ => rfl) (fun k c => bodyCoalesceSet_keeps (.of rfl) k c (.refl c))
  | logRead ctx tag => exact .command _ _ _ _ _ (fun _ => rfl) (fun k c => bodyLogRead_keeps (.of rfl) k c (.refl c))
  | logClear ctx tag => exact .command _ _ _ _ _ (fun _ => rfl) (fun k c => bodyLogClear_keeps (.of rfl) k c (.refl c))
  | countersRead ctx tag => exact .command _ _ _ _ _ (fun _ => rfl) (fun k c => bodyCountersRead_keeps (.of rfl) k c (.refl c))
  | selftest ctx tag => exact .command _ _ _ _ _ (fun _ => rfl) (fun k c => bodySelftest_keeps (.of rfl) k c (.refl c))
  | selftestDone _ _ _ => exact .chip _ (fun _ => rfl) (fun c => selftestDone_keeps (.of rfl) _ _ _ c (.refl c))
  | sheepdogStatus ctx tag => exact .command _ _ _ _ _ (fun _ => rfl) (fun k c => bodySheepdogStatus_keeps (.of rfl) k c (.refl c))
  | commandFetch _ => exact .chip _ (fun _ => rfl) (fun c => fetch_keeps (.of rfl) _ c (.refl c))
  | deadlineExpiry _ _ => exact .chip _ (fun _ => rfl) (fun c => expire_keeps (.of rfl) _ _ c (.refl c))
  | deliveryRecordWrite _ => exact .chip _ (fun _ => rfl) (fun c => deliverEvent_keeps (.of rfl) _ c (.refl c))
  | coalTimeExpiry _ => exact .chip _ (fun _ => rfl) (fun c => coalExpire_keeps (.of rfl) _ c (.refl c))
  | regRead _ _ => exact .chip _ (fun _ => rfl) (fun c => regRead_keeps (.of rfl) _ _ c (.refl c))
  | regWrite _ _ _ => exact .row (fun s => ⟨_, rfl, .ite (.refl _) (checkedWrite_keeps (.of rfl) _ _ _ _ s.chip (.refl _))⟩)
  | regReadQ _ _ => exact .chip _ (fun _ => rfl) (fun c => regRead_keeps (.of rfl) _ _ c (.refl c))
  | regWriteQ _ _ _ => exact .row (fun s => ⟨_, rfl, .ite (.refl _) (checkedWrite_keeps (.of rfl) _ _ _ _ s.chip (.refl _))⟩)
  | ringRead _ _ => exact .chip _ (fun _ => rfl) (fun c => ringReadCmd_keeps (.of rfl) _ _ c (.refl c))
  | ringWrite _ _ _ => exact .row (fun s => ⟨_, rfl, .ite (.refl _) (checkedWrite_keeps (.of rfl) _ _ _ _ s.chip (.refl _))⟩)
  | ringReadQ _ _ => exact .chip _ (fun _ => rfl) (fun c => ringReadCmd_keeps (.of rfl) _ _ c (.refl c))
  | ringWriteQ _ _ _ => exact .row (fun s => ⟨_, rfl, .ite (.refl _) (checkedWrite_keeps (.of rfl) _ _ _ _ s.chip (.refl _))⟩)
  | hifWriteApply => exact .chip _ (fun _ => rfl) (fun c => applyHeld_keeps (.of rfl) c (.refl c))
  | hifEvtAck _ => exact .row (fun s => ⟨_, rfl, .ite (ackEvent_keeps (.of rfl) _ s.chip (.refl _)) (.refl _)⟩)
  | doorbell _ _ => exact .row (fun s => ⟨_, rfl, .ite (doorbell_keeps (.of rfl) _ _ s.chip (.refl _)) (.refl _)⟩)
  | hifBind _ _ => exact .row (fun s => ⟨_, rfl, .ite (hifBind_keeps (.of rfl) _ _ s.chip (.refl _)) (.refl _)⟩)
  | hifErrcntRestart _ _ => exact .row (fun s => ⟨_, rfl, .ite (hifErrcnt_keeps (.of rfl) _ s.chip (.refl _)) (.refl _)⟩)
  | rtcTimeRead port index => exact .row (fun s => ⟨_, rfl, .ite (.refl _) (timeByteDriven_keeps port index s.chip)⟩)
  | rtcShadowTimeout _ => exact .row (fun s => ⟨_, rfl, .ite (setRtc_keeps (.of rfl) _ _ (waitUntil_keeps (.of rfl) _ s.chip (.refl _)) (fun _ h => (setView_bkp _ _ _).symm ▸ h)) (.refl _)⟩)
  | rtcSecStage _ _ _ => exact .row (fun s => ⟨_, rfl, .ite (.refl _) (stageSec_keeps (.of rfl) _ _ _ s.chip (.refl _))⟩)
  | rtcSec4Commit _ _ => exact .row (fun s => ⟨_, rfl, .ite (.refl _) (commitSec4_keeps (.of rfl) _ _ s.chip (.refl _))⟩)
  | pwrOnAssert _ => exact .row (fun s => ⟨_, rfl, .ite (.refl _) (.ite (rtcDeny_keeps (.of rfl) s.chip (.refl _)) (setRtc_keeps (.of rfl) _ s.chip (.refl _) (fun _ h => h)))⟩)
  | pwrOnRelease _ => exact .row (fun s => ⟨_, rfl, .ite (.refl _) (.ite (rtcDeny_keeps (.of rfl) s.chip (.refl _)) (setRtc_keeps (.of rfl) _ s.chip (.refl _) (fun _ h => h)))⟩)
  | registerWrite port addr value => exact registerWrite_rowKeeps port addr value
  | id => exact .row (fun s => ⟨_, rfl, .ite (answerBlock_keeps (.of rfl) _ _ s.chip (.refl _)) (nack_keeps (.of rfl) s.chip (.refl _))⟩)
  | status => exact .row (fun s => ⟨_, rfl, .ite (answerRead_keeps (.of rfl) _ _ s.chip (.refl _)) (nack_keeps (.of rfl) s.chip (.refl _))⟩)
  | resetMain _ => exact .row (fun s => ⟨_, rfl, withPec_keeps (.of rfl) _ _ _ s.chip (fun x => actionReset_keeps (.of rfl) x (.refl x)) (.refl _)⟩)
  | holdMain _ => exact .row (fun s => ⟨_, rfl, withPec_keeps (.of rfl) _ _ _ s.chip (fun x => actionHold_keeps (.of rfl) x (.refl x)) (.refl _)⟩)
  | releaseMain _ => exact .row (fun s => ⟨_, rfl, withPec_keeps (.of rfl) _ _ _ s.chip (fun x => actionRelease_keeps (.of rfl) x (.refl x)) (.refl _)⟩)
  | safeAll _ => exact .row (fun s => ⟨_, rfl, withPec_keeps (.of rfl) _ _ _ s.chip (fun x => actionSafeAll_keeps (.of rfl) x (.refl x)) (.refl _)⟩)
  | mgtRegRead _ _ => exact .row (fun s => ⟨_, rfl, .ite (nack_keeps (.of rfl) s.chip (.refl _)) (answerBlock_keeps (.of rfl) _ _ _ (mgtRead_keeps (.of rfl) _ _ s.chip (.refl _)))⟩)
  | mgtRegWrite _ _ _ => exact .row (fun s => ⟨_, rfl, .ite (nack_keeps (.of rfl) s.chip (.refl _)) (withPec_keeps (.of rfl) _ _ _ s.chip (fun x => mgtWrite_keeps (.of rfl) _ _ x (.refl x)) (.refl _))⟩)
  | mgtSafeHold _ => exact .row (fun s => ⟨_, rfl, .ite (holdGroups_keeps (.of rfl) _ _ s.chip (.refl _)) (.refl _)⟩)
  | mgtSafeRelease _ => exact .row (fun s => ⟨_, rfl, .ite (releaseGroup_keeps (.of rfl) _ s.chip (.refl _)) (.refl _)⟩)
  | pktWrite _ _ _ => exact .row (fun s => ⟨_, rfl, .ite (nack_keeps (.of rfl) s.chip (.refl _)) (withPec_keeps (.of rfl) _ _ _ s.chip (fun x => pktWrite_keeps (.of rfl) _ _ x (.refl x)) (.refl _))⟩)
  | pktRead => exact .row (fun s => ⟨_, rfl, .ite (pktRead_keeps (.of rfl) s.chip (.refl _)) (nack_keeps (.of rfl) s.chip (.refl _))⟩)
  | pktReread => exact .row (fun s => ⟨_, rfl, .ite (answerBlock_keeps (.of rfl) _ _ s.chip (.refl _)) (nack_keeps (.of rfl) s.chip (.refl _))⟩)
  | alertRead => exact .row (fun s => ⟨_, rfl, .ite (answerBlock_keeps (.of rfl) _ _ s.chip (.refl _)) (nack_keeps (.of rfl) s.chip (.refl _))⟩)
  | alertClear _ _ => exact .row (fun s => ⟨_, rfl, .ite (nack_keeps (.of rfl) s.chip (.refl _)) (withPec_keeps (.of rfl) _ _ _ s.chip (fun x => setMgt_keeps (.of rfl) _ x (.refl x)) (.refl _))⟩)
  | alertResponse => exact .row (fun s => ⟨_, rfl, .ite (setMgt_keeps (.of rfl) _ _ (drive_keeps (.of rfl) _ s.chip (.refl _))) (nack_keeps (.of rfl) s.chip (.refl _))⟩)
  | smbusTimeout => exact .chip _ (fun _ => rfl) (fun c => nack_keeps (.of rfl) c (.refl c))
  | alwaysOnPorExit _ _ _ => exact .chip _ (fun _ => rfl) (fun c => porExit_keeps (.of rfl) _ _ _ c (.refl c))
  | alwaysOnPorEntry _ _ => exact .chip _ (fun _ => rfl) (fun c => porEntry_keeps (.of rfl) _ _ c (.refl c))
  | vsysLow _ => exact .chip _ (fun _ => rfl) (fun c => vsysLow_keeps (.of rfl) _ c (.refl c))
  | powerFail _ => exact .chip _ (fun _ => rfl) (fun c => powerFail_keeps (.of rfl) _ c (.refl c))
  | vactLow _ => exact .chip _ (fun _ => rfl) (fun c => vactLow_keeps (.of rfl) _ c (.refl c))
  | vactShed _ => exact .chip _ (fun _ => rfl) (fun c => vactGone_keeps (.of rfl) _ c (.refl c))
  | vactRestore _ => exact .chip _ (fun _ => rfl) (fun c => vactRestored_keeps (.of rfl) _ c (.refl c))
  | vactSwitchTrip => exact .chip _ (fun _ => rfl) (fun c => vactTrip_keeps (.of rfl) c (.refl c))
  | vactSwitchRetry => exact .chip _ (fun _ => rfl) (fun c => vactAgain_keeps (.of rfl) c (.refl c))
  | hotswapCharged _ _ => exact .chip _ (fun _ => rfl) (fun c => charged_keeps (.of rfl) _ _ c (.refl c))
  | hotswapFault _ => exact .chip _ (fun _ => rfl) (fun c => hswLimit_keeps (.of rfl) _ c (.refl c))
  | hotswapFastTrip _ => exact .chip _ (fun _ => rfl) (fun c => hswFast_keeps (.of rfl) _ c (.refl c))
  | hotswapRetry => exact .chip _ (fun _ => rfl) (fun c => hswAgain_keeps (.of rfl) c (.refl c))
  | backupDomainReset => exact .chip _ (fun _ => rfl) (fun c => backupReset_keeps (.of rfl) c (.refl c))
  | hresetAssert => exact .chip _ (fun _ => rfl) (fun c => hresetFalls_keeps (.of rfl) c (.refl c))
  | hresetRelease => exact .chip _ (fun _ => rfl) (fun c => hresetRises_keeps (.of rfl) c (.refl c))
  | debugReset => exact .chip _ (fun _ => rfl) (fun c => mainReset_keeps (.of rfl) _ _ c (.refl c))
  | debugHalt => exact .chip _ (fun _ => rfl) (fun c => haltIslands_keeps (.of rfl) c (.refl c))
  | debugHaltRelease => exact .chip _ (fun _ => rfl) (fun c => unhaltIslands_keeps (.of rfl) c (.refl c))
  | boot _ _ _ _ => exact .chip _ (fun _ => rfl) (fun c => bootRow_keeps (.of rfl) _ _ _ _ c (.refl c))
  | refStop => exact .chip _ (fun _ => rfl) (fun c => refStop_keeps (.of rfl) c (.refl c))
  | refRestart => exact .chip _ (fun _ => rfl) (fun c => refAgain_keeps (.of rfl) c (.refl c))
  | syncInPulse => exact .chip _ (fun _ => rfl) (fun c => syncIn_keeps (.of rfl) c (.refl c))
  | periodBoundary _ => exact .chip _ (fun _ => rfl) (fun c => boundary_keeps (.of rfl) _ c (.refl c))
  | delayLineCalibration _ => exact .chip _ (fun _ => rfl) (fun c => calibrateLines_keeps (.of rfl) _ c (.refl c))
  | haltHoldExpiry _ => exact .chip _ (fun _ => rfl) (fun c => holdExpires_keeps (.of rfl) _ c (.refl c))
  | overcurrentTrip _ => exact .chip _ (fun _ => rfl) (fun c => trip_keeps (.of rfl) _ c (.refl c))
  | protectEntry _ _ _ => exact .chip _ (fun _ => rfl) (fun c => protectEntry_keeps (.of rfl) _ _ _ c (.refl c))
  | protectExit _ => exact .chip _ (fun _ => rfl) (fun c => protectExit_keeps (.of rfl) _ c (.refl c))
  | retryFault _ _ => exact .chip _ (fun _ => rfl) (fun c => retryRow_keeps (.of rfl) _ _ c (.refl c))
  | overloadAverageUpdate _ _ => exact .chip _ (fun _ => rfl) (fun c => overloadMean_keeps (.of rfl) _ _ c (.refl c))
  | retryExpiry _ => exact .chip _ (fun _ => rfl) (fun c => retryOver_keeps (.of rfl) _ c (.refl c))
  | settlingExpiry _ => exact .chip _ (fun _ => rfl) (fun c => settledRow_keeps (.of rfl) _ c (.refl c))
  | dinEdge _ _ _ => exact .chip _ (fun _ => rfl) (fun c => dinEdge_keeps (.of rfl) _ _ _ c (.refl c))
  | debounceExpiry _ _ => exact .chip _ (fun _ => rfl) (fun c => debounced_keeps (.of rfl) _ _ c (.refl c))
  | sbusPoll _ _ => exact .chip _ (fun _ => rfl) (fun c => sbusPoll_keeps (.of rfl) _ _ c (.refl c))
  | sbusStuck _ => exact .chip _ (fun _ => rfl) (fun c => sbusStuck_keeps (.of rfl) _ c (.refl c))
  | pyroSettleExpiry _ => exact .chip _ (fun _ => rfl) (fun c => pyroSettled_keeps (.of rfl) _ c (.refl c))
  | outputSourceCheck _ => exact .chip _ (fun _ => rfl) (fun c => checkOutputs_keeps (.of rfl) _ c (.refl c))
  | seqPassDue _ => exact .chip _ (fun _ => rfl) (fun c => passDue_keeps (.of rfl) _ c (.refl c))
  | seqPassStart _ => exact .chip _ (fun _ => rfl) (fun c => passStart_keeps (.of rfl) _ c (.refl c))
  | conversionResult _ _ _ _ _ _ => exact .row (fun s => ⟨_, rfl, conversion_keeps (.of rfl) _ _ _ _ _ _ _ s.chip (.refl _)⟩)
  | seqPassEnd _ => exact .chip _ (fun _ => rfl) (fun c => passEnd_keeps (.of rfl) _ c (.refl c))
  | equalisation _ _ _ => exact .chip _ (fun _ => rfl) (fun c => equalise_keeps (.of rfl) _ _ _ c (.refl c))
  | housekeeping _ _ => exact .chip _ (fun _ => rfl) (fun c => housekeeping_keeps (.of rfl) _ _ c (.refl c))
  | rippleLost _ => exact .chip _ (fun _ => rfl) (fun c => rippleLost_keeps (.of rfl) _ c (.refl c))
  | endstopTouch _ => exact .chip _ (fun _ => rfl) (fun c => touch_keeps (.of rfl) _ c (.refl c))
  | damperMoveEnd _ => exact .chip _ (fun _ => rfl) (fun c => moveStops_keeps (.of rfl) _ c (.refl c))
  | dwellExpiry _ => exact .chip _ (fun _ => rfl) (fun c => dwellEnds_keeps (.of rfl) _ c (.refl c))
  | damperOpenLoad _ => exact .chip _ (fun _ => rfl) (fun c => motorOpenLoad_keeps (.of rfl) _ c (.refl c))
  | maxRunExpiry _ => exact .chip _ (fun _ => rfl) (fun c => legTimeout_keeps (.of rfl) _ c (.refl c))
  | rehomeIntExpiry _ => exact .chip _ (fun _ => rfl) (fun c => rehomeDue_keeps (.of rfl) _ c (.refl c))
  | damperTargetChange _ => exact .chip _ (fun _ => rfl) (fun c => followTarget_keeps (.of rfl) _ c (.refl c))
  | positionWrite _ => exact .chip _ (fun _ => rfl) (fun c => positionRow_keeps (.of rfl) _ c (.refl c))
  | boostExpiry _ => exact .chip _ (fun _ => rfl) (fun c => boostEnds_keeps (.of rfl) _ c (.refl c))
  | valveOpenLoad _ => exact .chip _ (fun _ => rfl) (fun c => valveOpen_keeps (.of rfl) _ c (.refl c))
  | floatingValveDriveEnd _ => exact .chip _ (fun _ => rfl) (fun c => floatEnds_keeps (.of rfl) _ c (.refl c))
  | spinupWindowEnd _ => exact .chip _ (fun _ => rfl) (fun c => spinupEnds_keeps (.of rfl) _ c (.refl c))
  | gapEnd _ => exact .chip _ (fun _ => rfl) (fun c => gapEnds_keeps (.of rfl) _ c (.refl c))
  | tachEdge _ => exact .chip _ (fun _ => rfl) (fun c => tachEdge_keeps (.of rfl) _ c (.refl c))
  | tachLost _ => exact .chip _ (fun _ => rfl) (fun c => tachLost_keeps (.of rfl) _ c (.refl c))
  | actuatorSourceCheck _ => exact .chip _ (fun _ => rfl) (fun c => checkActuator_keeps (.of rfl) _ c (.refl c))
  | fanWatchdog => exact .chip _ (fun _ => rfl) (fun c => fanWatchdog_keeps (.of rfl) c (.refl c))
  | slotSourceCheck _ => exact .chip _ (fun _ => rfl) (fun c => checkSlotSource_keeps (.of rfl) _ c (.refl c))
  | loopTrigger _ => exact .chip _ (fun _ => rfl) (fun c => triggerRow_keeps (.of rfl) _ c (.refl c))
  | loopEvaluation _ => exact .chip _ (fun _ => rfl) (fun c => laneRow_keeps (.of rfl) _ _ c (.refl c))
  | starved _ => exact .chip _ (fun _ => rfl) (fun c => starvedRow_keeps (.of rfl) _ c (.refl c))
  | satAlarm _ => exact .chip _ (fun _ => rfl) (fun c => satAlarm_keeps (.of rfl) _ c (.refl c))
  | zoneUpdate _ => exact .chip _ (fun _ => rfl) (fun c => zoneRow_keeps (.of rfl) _ c (.refl c))
  | reinitTimeout _ => exact .chip _ (fun _ => rfl) (fun c => reinitTimeout_keeps (.of rfl) _ c (.refl c))
  | suspendExpiry _ => exact .chip _ (fun _ => rfl) (fun c => suspendOver_keeps (.of rfl) _ c (.refl c))
  | prediction => exact .chip _ (fun _ => rfl) (fun c => predictionRow_keeps (.of rfl) c (.refl c))
  | presenceEvidence _ _ => exact .chip _ (fun _ => rfl) (fun c => presenceRow_keeps (.of rfl) _ _ c (.refl c))
  | holdExpiry _ => exact .chip _ (fun _ => rfl) (fun c => holdExpiry_keeps (.of rfl) _ c (.refl c))
  | presSidRefresh _ => exact .chip _ (fun _ => rfl) (fun c => presRefresh_keeps (.of rfl) _ c (.refl c))
  | alarm => exact .chip _ (fun _ => rfl) (fun c => alarmRow_keeps (.of rfl) c (.refl c))
  | wake => exact .chip _ (fun _ => rfl) (fun c => wakeRow_keeps (.of rfl) c (.refl c))
  | trimInterval _ => exact .chip _ (fun _ => rfl) (fun c => trimInterval_keeps (.of rfl) _ c (.refl c))
  | scheduleEvaluation => exact .chip _ (fun _ => rfl) (fun c => scheduleRow_keeps (.of rfl) c (.refl c))
  | optimalStartCheck _ => exact .chip _ (fun _ => rfl) (fun c => optimalCheck_keeps (.of rfl) _ c (.refl c))
  | earlyStart _ => exact .chip _ (fun _ => rfl) (fun c => earlyStart_keeps (.of rfl) _ c (.refl c))
  | linkSignalDetected _ => exact .chip _ (fun _ => rfl) (fun c => signalDetected_keeps (.of rfl) _ c (.refl c))
  | phyLinkEstablished _ _ => exact .chip _ (fun _ => rfl) (fun c => phyUp_keeps (.of rfl) _ _ c (.refl c))
  | trainingTimeout _ => exact .chip _ (fun _ => rfl) (fun c => trainingTimeout_keeps (.of rfl) _ c (.refl c))
  | version _ _ _ => exact .chip _ (fun _ => rfl) (fun c => versionRow_keeps (.of rfl) _ _ _ c (.refl c))
  | ident _ _ => exact .chip _ (fun _ => rfl) (fun c => identRow_keeps (.of rfl) _ _ c (.refl c))
  | linkFrameResend _ => exact .chip _ (fun _ => rfl) (fun c => resendLink_keeps (.of rfl) _ c (.refl c))
  | isolatedRenegotiate _ => exact .chip _ (fun _ => rfl) (fun c => isolatedRow_keeps (.of rfl) _ c (.refl c))
  | hello _ => exact .chip _ (fun _ => rfl) (fun c => helloRow_keeps (.of rfl) _ c (.refl c))
  | helloSend _ => exact .chip _ (fun _ => rfl) (fun c => helloSendRow_keeps (.of rfl) _ c (.refl c))
  | helloTimeout _ => exact .chip _ (fun _ => rfl) (fun c => helloTimeoutRow_keeps (.of rfl) _ c (.refl c))
  | phyLinkLoss _ => exact .chip _ (fun _ => rfl) (fun c => phyLoss_keeps (.of rfl) _ c (.refl c))
  | lsa _ _ _ => exact .chip _ (fun _ => rfl) (fun c => lsaRow_keeps (.of rfl) _ _ _ c (.refl c))
  | lsaRefresh => exact .chip _ (fun _ => rfl) (fun c => lsaRefreshRow_keeps (.of rfl) c (.refl c))
  | lsaResend _ _ => exact .chip _ (fun _ => rfl) (fun c => lsaResendRow_keeps (.of rfl) _ _ c (.refl c))
  | lsaAgeout _ => exact .chip _ (fun _ => rfl) (fun c => lsaAgeoutRow_keeps (.of rfl) _ c (.refl c))
  | addrReq _ _ _ _ => exact .chip _ (fun _ => rfl) (fun c => addrReqRow_keeps (.of rfl) _ _ _ _ c (.refl c))
  | addrGrant _ _ _ => exact .chip _ (fun _ => rfl) (fun c => addrGrantRow_keeps (.of rfl) _ _ _ c (.refl c))
  | addressPersistDone => exact .chip _ (fun _ => rfl) (fun c => persistRow_keeps (.of rfl) c (.refl c))
  | frameForward _ _ _ => exact .chip _ (fun _ => rfl) (fun c => forwardRow_keeps (.of rfl) _ _ _ c (.refl c))
  | timeSend _ => exact .chip _ (fun _ => rfl) (fun c => timeSendRow_keeps (.of rfl) _ c (.refl c))
  | time _ _ => exact .chip _ (fun _ => rfl) (fun c => timeRow_keeps (.of rfl) _ _ c (.refl c))
  | pdelay _ _ => exact .chip _ (fun _ => rfl) (fun c => pdelayRow_keeps (.of rfl) _ _ c (.refl c))
  | upstreamTimeout => exact .chip _ (fun _ => rfl) (fun c => upstreamRow_keeps (.of rfl) c (.refl c))
  | bellwetherSteer => exact .chip _ (fun _ => rfl) (fun c => steerRow_keeps (.of rfl) c (.refl c))
  | followerRtcCheck => exact .chip _ (fun _ => rfl) (fun c => followerRow_keeps (.of rfl) c (.refl c))
  | signal _ _ _ _ => exact .chip _ (fun _ => rfl) (fun c => signalRow_keeps (.of rfl) _ _ _ _ c (.refl c))
  | exportFrame _ _ => exact .chip _ (fun _ => rfl) (fun c => exportRow_keeps (.of rfl) _ _ c (.refl c))
  | subscribe _ _ => exact .chip _ (fun _ => rfl) (fun c => subscribeRow_keeps (.of rfl) _ _ c (.refl c))
  | accept _ _ => exact .chip _ (fun _ => rfl) (fun c => acceptRow_keeps (.of rfl) _ _ c (.refl c))
  | refuse _ _ _ => exact .chip _ (fun _ => rfl) (fun c => refuseRow_keeps (.of rfl) _ _ _ c (.refl c))
  | unsubscribe _ _ => exact .chip _ (fun _ => rfl) (fun c => unsubscribeRow_keeps (.of rfl) _ _ c (.refl c))
  | subscribeRetry _ => exact .chip _ (fun _ => rfl) (fun c => subscribeRetryRow_keeps (.of rfl) _ c (.refl c))
  | subscriptionDrop _ _ => exact .chip _ (fun _ => rfl) (fun c => subDropRow_keeps (.of rfl) _ _ c (.refl c))
  | hostStreamRecord _ => exact .chip _ (fun _ => rfl) (fun c => hostStreamRow_keeps (.of rfl) _ c (.refl c))
  | phiveox _ _ _ _ _ => exact .chip _ (fun _ => rfl) (fun c => phiveoxRow_keeps (.of rfl) _ _ _ _ _ c (.refl c))
  | remoteSessionTimeout _ => exact .chip _ (fun _ => rfl) (fun c => remoteTimeout_keeps (.of rfl) _ c (.refl c))
  | canArbitrationStart _ _ => exact .chip _ (fun _ => rfl) (fun c => arbitrate_keeps (.of rfl) _ _ c (.refl c))
  | txDone _ => exact .chip _ (fun _ => rfl) (fun c => txDone_keeps (.of rfl) _ c (.refl c))
  | canFrameReceived _ _ => exact .chip _ (fun _ => rfl) (fun c => canReceive_keeps (.of rfl) _ _ c (.refl c))
  | canErrorFrame _ _ _ _ _ _ => exact .chip _ (fun _ => rfl) (fun c => canErrorFrame_keeps (.of rfl) _ _ _ _ _ _ c (.refl c))
  | busOffRecovered _ => exact .chip _ (fun _ => rfl) (fun c => busRecovered_keeps (.of rfl) _ c (.refl c))
  | domTimeout _ => exact .chip _ (fun _ => rfl) (fun c => domTimeout_keeps (.of rfl) _ c (.refl c))
  | wup _ => exact .chip _ (fun _ => rfl) (fun c => wakeUp_keeps (.of rfl) _ c (.refl c))
  | referenceMessage _ _ _ => exact .chip _ (fun _ => rfl) (fun c => referenceRow_keeps (.of rfl) _ _ _ c (.refl c))
  | referenceDue _ _ => exact .chip _ (fun _ => rfl) (fun c => referenceDue_keeps (.of rfl) _ _ c (.refl c))
  | windowStart _ _ => exact .chip _ (fun _ => rfl) (fun c => windowRow_keeps (.of rfl) _ _ c (.refl c))
  | s2Timeout _ => exact .chip _ (fun _ => rfl) (fun c => s2Row_keeps (.of rfl) _ c (.refl c))
  | noWindow _ _ _ => exact .chip _ (fun _ => rfl) (fun c => noWindowRow_keeps (.of rfl) _ _ _ c (.refl c))
  | txobjPeriod _ _ => exact .chip _ (fun _ => rfl) (fun c => txPeriodRow_keeps (.of rfl) _ _ c (.refl c))
  | txobjSlotChange _ _ => exact .chip _ (fun _ => rfl) (fun c => txChangeRow_keeps (.of rfl) _ _ c (.refl c))
  | panelFrameBoundary _ _ => exact .chip _ (fun _ => rfl) (fun c => frameBoundary_keeps (.of rfl) _ _ c (.refl c))
  | railStep _ => exact .chip _ (fun _ => rfl) (fun c => railStep_keeps (.of rfl) _ c (.refl c))
  | railFault _ _ _ => exact .chip _ (fun _ => rfl) (fun c => railFault_keeps (.of rfl) _ _ _ c (.refl c))
  | railIdleExpiry _ => exact .chip _ (fun _ => rfl) (fun c => railIdle_keeps (.of rfl) _ c (.refl c))
  | regionSnapshot _ => exact .chip _ (fun _ => rfl) (fun c => snapshot_keeps (.of rfl) _ c (.refl c))
  | bandEvaluation _ => exact .chip _ (fun _ => rfl) (fun c => bandRow_keeps (.of rfl) _ c (.refl c))
  | sweepTile _ => exact .chip _ (fun _ => rfl) (fun c => sweepTile_keeps (.of rfl) _ c (.refl c))
  | compositorRead => exact .chip _ (fun _ => rfl) (fun c => compositorRow_keeps (.of rfl) c (.refl c))
  | thermalUpdate _ _ => exact .chip _ (fun _ => rfl) (fun c => thermalUpdate_keeps (.of rfl) _ _ c (.refl c))
  | throttleStepTaken => exact .chip _ (fun _ => rfl) (fun c => takeStep_keeps (.of rfl) c (.refl c))
  | throttleStepUndone => exact .chip _ (fun _ => rfl) (fun c => undoStep_keeps (.of rfl) c (.refl c))
  | shutdownRelease => exact .chip _ (fun _ => rfl) (fun c => shutdownRelease_keeps (.of rfl) c (.refl c))
  | coreDog _ _ => exact .chip _ (fun _ => rfl) (fun c => coreDog_keeps (.of rfl) _ _ c (.refl c))
  | engineDog _ => exact .chip _ (fun _ => rfl) (fun c => engineDog_keeps (.of rfl) _ c (.refl c))
  | foldDog _ _ _ => exact .chip _ (fun _ => rfl) (fun c => foldDog_keeps (.of rfl) _ _ _ c (.refl c))
  | mainDog _ => exact .chip _ (fun _ => rfl) (fun c => mainDog_keeps (.of rfl) _ c (.refl c))
  | bootDog => exact .chip _ (fun _ => rfl) (fun c => bootDog_keeps (.of rfl) c (.refl c))
  | memoryEcc mem addr single => exact memoryEcc_rowKeeps mem addr single
  | shepherdDog => exact .chip _ (fun _ => rfl) (fun c => shepherdDog_keeps (.of rfl) c (.refl c))
  | heartbeatLost => exact .chip _ (fun _ => rfl) (fun c => heartbeatRow_keeps (.of rfl) c (.refl c))
  | vsysReturn _ => exact .chip _ (fun _ => rfl) (fun c => vsysReturn_keeps (.of rfl) _ c (.refl c))
  | hotswapUnlatch => exact .chip _ (fun _ => rfl) (fun c => hswUnlatch_keeps (.of rfl) c (.refl c))
  | logClearDone => exact .chip _ (fun _ => rfl) (fun c => logCleared_keeps (.of rfl) c (.refl c))
  | followPulseTimeout _ => exact .chip _ (fun _ => rfl) (fun c => followTimeout_keeps (.of rfl) _ c (.refl c))
  | openLoop _ => exact .chip _ (fun _ => rfl) (fun c => openLoop_keeps (.of rfl) _ c (.refl c))
  | corruptFrame _ _ => exact .chip _ (fun _ => rfl) (fun c => corruptRow_keeps (.of rfl) _ _ c (.refl c))
  | presenceSourceLost _ _ => exact .chip _ (fun _ => rfl) (fun c => sourceLost_keeps (.of rfl) _ _ c (.refl c))
  | speedZero _ => exact .chip _ (fun _ => rfl) (fun c => speedZero_keeps (.of rfl) _ c (.refl c))
  | fieldRenderDue _ => exact .chip _ (fun _ => rfl) (fun c => renderDueRow_keeps (.of rfl) _ c (.refl c))

/-- One period of 25 ns, and the main side's leaving of its reset. -/
theorem step_keeps {s t : State} (h : step s = .next t) : Keeps Field.all s.chip t.chip := by
  unfold step at h
  split at h
  · cases h
    exact tick_keeps (.of rfl) s.chip (.refl _)
  · exact (rowKeeps _ _ _ h).2

end Sys2Proof.Machine

namespace Sys2Proof
open Machine

/-- Settles O4: no row writes the fuses. -/
theorem deviceFixed : Obligations.DeviceFixed :=
  fun _ _ h => (step_keeps h).fuses

/-- Settles O5: every row keeps the canonical form of the rings, the flash and backup RAM. -/
theorem memoriesKeepForm : Obligations.MemoriesKeepForm :=
  fun _ _ hwf h => (step_keeps h).memories hwf

/-- Settles O6: every row leaves the count of periods, or moves it on. -/
theorem timeNeverRunsBack : Obligations.TimeNeverRunsBack :=
  fun _ _ h => (step_keeps h).now

end Sys2Proof
end

section
-- One proof after another: side by side, the stacks of their threads reach the check's limit of memory.
set_option Elab.async false
/-! The rows that run an opcode (Table 2.9): what stops one before its effect; the queue of commands; time; reset. -/

namespace Sys2Proof.Machine

/-- The row runs an opcode, whose body refuses a payload of another length than a fixed layout gives (R560). -/
def RunsOpcode (i : Instr) (fam op ctx tag : Nat) : Prop :=
  ∃ body, (∀ s, exec i s = .next { s with chip := s.chip.runCmd fam op body ctx tag }) ∧
    ∀ n, fixedLength i = some n → ∀ (k : Cmd) (c : Chip), k.payload.length ≠ n → body k c = .badLength c

theorem RunsOpcode.fixed {i : Instr} {fam op ctx tag : Nat} (body : Cmd → Chip → Res) (n : Nat)
    (hi : ∀ s, exec i s = .next { s with chip := s.chip.runCmd fam op body ctx tag }) (hn : fixedLength i = some n)
    (hbody : ∀ (k : Cmd) (c : Chip), k.payload.length ≠ n → body k c = .badLength c) : RunsOpcode i fam op ctx tag := by
  refine ⟨body, hi, fun m hm => ?_⟩
  cases hn.symm.trans hm
  exact hbody

theorem RunsOpcode.free {i : Instr} {fam op ctx tag : Nat} (body : Cmd → Chip → Res)
    (hi : ∀ s, exec i s = .next { s with chip := s.chip.runCmd fam op body ctx tag }) (hn : fixedLength i = none) :
    RunsOpcode i fam op ctx tag :=
  ⟨body, hi, fun _ hm => by cases hn.symm.trans hm⟩

theorem calCaptureBody_badLength (span : Bool) {k : Cmd} {c : Chip} (h : k.payload.length ≠ 8) :
    calCaptureBody span k c = .badLength c :=
  if_pos (bne_iff_ne.mpr h)

/-- Every row of Table 2.9 but those of a session, which also complete a close that waits. -/
theorem runsOpcode {i : Instr} {fam op ctx tag : Nat} (h : opcodeRow i = some (fam, op, ctx, tag)) (hs : ¬(fam = 0 ∧ op ≤ 1)) :
    RunsOpcode i fam op ctx tag := by
  cases i with
  | sessionOpen => cases h; exact absurd ⟨rfl, by decide⟩ hs
  | sessionClose => cases h; exact absurd ⟨rfl, by decide⟩ hs
  | heartbeat => cases h; exact .fixed bodyHeartbeat 0 (fun _ => rfl) rfl (fun _ _ h => if_pos (bne_iff_ne.mpr h))
  | abort => cases h; exact .fixed bodyAbort 4 (fun _ => rfl) rfl (fun _ _ h => if_pos (bne_iff_ne.mpr h))
  | echo => cases h; exact .free bodyEcho (fun _ => rfl) rfl
  | objGet => cases h; exact .free bodyObjGet (fun _ => rfl) rfl
  | objSet => cases h; exact .free bodyObjSet (fun _ => rfl) rfl
  | objStage => cases h; exact .free bodyObjStage (fun _ => rfl) rfl
  | objCommit => cases h; exact .fixed bodyObjCommit 4 (fun _ => rfl) rfl (fun _ _ h => if_pos (bne_iff_ne.mpr h))
  | objDiscard => cases h; exact .fixed bodyObjDiscard 0 (fun _ => rfl) rfl (fun _ _ h => if_pos (bne_iff_ne.mpr h))
  | objCreate => cases h; exact .fixed bodyObjCreate 0 (fun _ => rfl) rfl (fun _ _ h => if_pos (bne_iff_ne.mpr h))
  | objDelete => cases h; exact .fixed bodyObjDelete 0 (fun _ => rfl) rfl (fun _ _ h => if_pos (bne_iff_ne.mpr h))
  | objOwner => cases h; exact .fixed bodyObjOwner 1 (fun _ => rfl) rfl (fun _ _ h => if_pos (bne_iff_ne.mpr h))
  | objList => cases h; exact .fixed bodyObjList 4 (fun _ => rfl) rfl (fun _ _ h => if_pos (bne_iff_ne.mpr h))
  | streamOpen => cases h; exact .fixed bodyStreamOpen 0 (fun _ => rfl) rfl (fun _ _ h => if_pos (bne_iff_ne.mpr h))
  | streamClose => cases h; exact .fixed bodyStreamClose 0 (fun _ => rfl) rfl (fun _ _ h => if_pos (bne_iff_ne.mpr h))
  | signalRead => cases h; exact .fixed bodySignalRead 0 (fun _ => rfl) rfl (fun _ _ h => if_pos (bne_iff_ne.mpr h))
  | signalForce => cases h; exact .fixed bodySignalForce 8 (fun _ => rfl) rfl (fun _ _ h => if_pos (bne_iff_ne.mpr h))
  | signalRelease => cases h; exact .fixed bodySignalRelease 0 (fun _ => rfl) rfl (fun _ _ h => if_pos (bne_iff_ne.mpr h))
  | seqStart => cases h; exact .fixed bodySeqStart 0 (fun _ => rfl) rfl (fun _ _ h => if_pos (bne_iff_ne.mpr h))
  | seqStop => cases h; exact .fixed bodySeqStop 0 (fun _ => rfl) rfl (fun _ _ h => if_pos (bne_iff_ne.mpr h))
  | seqRead => cases h; exact .fixed bodySeqRead 4 (fun _ => rfl) rfl (fun _ _ h => if_pos (bne_iff_ne.mpr h))
  | calZero => cases h; exact .fixed bodyCalZero 8 (fun _ => rfl) rfl (fun k c h => by unfold bodyCalZero; rw [calCaptureBody_badLength _ h]; rfl)
  | calSpan => cases h; exact .fixed bodyCalSpan 8 (fun _ => rfl) rfl (fun k c h => by unfold bodyCalSpan; rw [calCaptureBody_badLength _ h]; rfl)
  | calRead => cases h; exact .fixed bodyCalRead 4 (fun _ => rfl) rfl (fun _ _ h => if_pos (bne_iff_ne.mpr h))
  | calWrite => cases h; exact .free bodyCalWrite (fun _ => rfl) rfl
  | pwmGroupEnable => cases h; exact .fixed bodyGroupEnable 0 (fun _ => rfl) rfl (fun _ _ h => if_pos (bne_iff_ne.mpr h))
  | pwmGroupDisable => cases h; exact .fixed bodyGroupDisable 0 (fun _ => rfl) rfl (fun _ _ h => if_pos (bne_iff_ne.mpr h))
  | groupSafe => cases h; exact .fixed bodyGroupSafe 0 (fun _ => rfl) rfl (fun _ _ h => if_pos (bne_iff_ne.mpr h))
  | tripClear => cases h; exact .fixed bodyTripClear 0 (fun _ => rfl) rfl (fun _ _ h => if_pos (bne_iff_ne.mpr h))
  | damperMove => cases h; exact .fixed bodyDamperMove 8 (fun _ => rfl) rfl (fun _ _ h => if_pos (bne_iff_ne.mpr h))
  | damperRehome => cases h; exact .fixed bodyDamperRehome 4 (fun _ => rfl) rfl (fun _ _ h => if_pos (bne_iff_ne.mpr h))
  | valveSet => cases h; exact .fixed bodyValveSet 4 (fun _ => rfl) rfl (fun _ _ h => if_pos (bne_iff_ne.mpr h))
  | fanSet => cases h; exact .fixed bodyFanSet 4 (fun _ => rfl) rfl (fun _ _ h => if_pos (bne_iff_ne.mpr h))
  | actFaultClear => cases h; exact .fixed bodyActFaultClear 0 (fun _ => rfl) rfl (fun _ _ h => if_pos (bne_iff_ne.mpr h))
  | loopEnable => cases h; exact .fixed bodyLoopEnable 0 (fun _ => rfl) rfl (fun _ _ h => if_pos (bne_iff_ne.mpr h))
  | loopDisable => cases h; exact .fixed bodyLoopDisable 0 (fun _ => rfl) rfl (fun _ _ h => if_pos (bne_iff_ne.mpr h))
  | bankSwap => cases h; exact .fixed bodyBankSwap 4 (fun _ => rfl) rfl (fun _ _ h => if_pos (bne_iff_ne.mpr h))
  | loopStatus => cases h; exact .fixed bodyLoopStatus 0 (fun _ => rfl) rfl (fun _ _ h => if_pos (bne_iff_ne.mpr h))
  | integratorPreset => cases h; exact .fixed bodyIntegratorPreset 8 (fun _ => rfl) rfl (fun _ _ h => if_pos (bne_iff_ne.mpr h))
  | satClear => cases h; exact .fixed bodySatClear 0 (fun _ => rfl) rfl (fun _ _ h => if_pos (bne_iff_ne.mpr h))
  | zoneStatus => cases h; exact .fixed bodyZoneStatus 0 (fun _ => rfl) rfl (fun _ _ h => if_pos (bne_iff_ne.mpr h))
  | fitEnable => cases h; exact .fixed bodyFitEnable 0 (fun _ => rfl) rfl (fun _ _ h => if_pos (bne_iff_ne.mpr h))
  | fitDisable => cases h; exact .fixed bodyFitDisable 0 (fun _ => rfl) rfl (fun _ _ h => if_pos (bne_iff_ne.mpr h))
  | suspectOverride => cases h; exact .fixed bodySuspectOverride 4 (fun _ => rfl) rfl (fun _ _ h => if_pos (bne_iff_ne.mpr h))
  | presenceRead => cases h; exact .fixed bodyPresenceRead 0 (fun _ => rfl) rfl (fun _ _ h => if_pos (bne_iff_ne.mpr h))
  | predictStart => cases h; exact .fixed bodyPredictStart 8 (fun _ => rfl) rfl (fun _ _ h => if_pos (bne_iff_ne.mpr h))
  | timeCapture => cases h; exact .fixed bodyTimeCapture 0 (fun _ => rfl) rfl (fun _ _ h => if_pos (bne_iff_ne.mpr h))
  | timeSet => cases h; exact .fixed bodyTimeSet 12 (fun _ => rfl) rfl (fun _ _ h => if_pos (bne_iff_ne.mpr h))
  | calendarSet => cases h; exact .free bodyCalendarSet (fun _ => rfl) rfl
  | wakeSet => cases h; exact .fixed bodyWakeSet 8 (fun _ => rfl) rfl (fun _ _ h => if_pos (bne_iff_ne.mpr h))
  | alarmSet => cases h; exact .fixed bodyAlarmSet 8 (fun _ => rfl) rfl (fun _ _ h => if_pos (bne_iff_ne.mpr h))
  | ephemerisRead => cases h; exact .fixed bodyEphemerisRead 4 (fun _ => rfl) rfl (fun _ _ h => if_pos (bne_iff_ne.mpr h))
  | ephemerisWrite => cases h; exact .fixed bodyEphemerisWrite 52 (fun _ => rfl) rfl (fun _ _ h => if_pos (bne_iff_ne.mpr h))
  | scheduleStatus => cases h; exact .fixed bodyScheduleStatus 4 (fun _ => rfl) rfl (fun _ _ h => if_pos (bne_iff_ne.mpr h))
  | linkStatus => cases h; exact .fixed bodyLinkStatus 0 (fun _ => rfl) rfl (fun _ _ h => if_pos (bne_iff_ne.mpr h))
  | linkRetrain => cases h; exact .fixed bodyLinkRetrain 0 (fun _ => rfl) rfl (fun _ _ h => if_pos (bne_iff_ne.mpr h))
  | topologyRead => cases h; exact .fixed bodyTopologyRead 4 (fun _ => rfl) rfl (fun _ _ h => if_pos (bne_iff_ne.mpr h))
  | routeStatus => cases h; exact .fixed bodyRouteStatus 0 (fun _ => rfl) rfl (fun _ _ h => if_pos (bne_iff_ne.mpr h))
  | bellwetherStatus => cases h; exact .fixed bodyBellwetherStatus 0 (fun _ => rfl) rfl (fun _ _ h => if_pos (bne_iff_ne.mpr h))
  | policeCounters => cases h; exact .fixed bodyPoliceCounters 4 (fun _ => rfl) rfl (fun _ _ h => if_pos (bne_iff_ne.mpr h))
  | canStart => cases h; exact .fixed bodyCanStart 0 (fun _ => rfl) rfl (fun _ _ h => if_pos (bne_iff_ne.mpr h))
  | canStop => cases h; exact .fixed bodyCanStop 0 (fun _ => rfl) rfl (fun _ _ h => if_pos (bne_iff_ne.mpr h))
  | canSend => cases h; exact .free bodyCanSend (fun _ => rfl) rfl
  | canCancel => cases h; exact .fixed bodyCanCancel 4 (fun _ => rfl) rfl (fun _ _ h => if_pos (bne_iff_ne.mpr h))
  | canStatus => cases h; exact .fixed bodyCanStatus 0 (fun _ => rfl) rfl (fun _ _ h => if_pos (bne_iff_ne.mpr h))
  | canTimeMaster => cases h; exact .fixed bodyCanTimeMaster 4 (fun _ => rfl) rfl (fun _ _ h => if_pos (bne_iff_ne.mpr h))
  | panelPower => cases h; exact .fixed bodyPanelPower 4 (fun _ => rfl) rfl (fun _ _ h => if_pos (bne_iff_ne.mpr h))
  | regionUpdate => cases h; exact .free bodyRegionUpdate (fun _ => rfl) rfl
  | regionClear => cases h; exact .free bodyRegionClear (fun _ => rfl) rfl
  | panelStatus => cases h; exact .fixed bodyPanelStatus 0 (fun _ => rfl) rfl (fun _ _ h => if_pos (bne_iff_ne.mpr h))
  | ledgerSweep => cases h; exact .fixed bodyLedgerSweep 4 (fun _ => rfl) rfl (fun _ _ h => if_pos (bne_iff_ne.mpr h))
  | fieldRefresh => cases h; exact .fixed bodyFieldRefresh 4 (fun _ => rfl) rfl (fun _ _ h => if_pos (bne_iff_ne.mpr h))
  | powerStatus => cases h; exact .fixed bodyPowerStatus 0 (fun _ => rfl) rfl (fun _ _ h => if_pos (bne_iff_ne.mpr h))
  | thermalStatus => cases h; exact .fixed bodyThermalStatus 0 (fun _ => rfl) rfl (fun _ _ h => if_pos (bne_iff_ne.mpr h))
  | reset => cases h; exact .fixed bodyReset 4 (fun _ => rfl) rfl (fun _ _ h => if_pos (bne_iff_ne.mpr h))
  | resetCauseRead => cases h; exact .fixed bodyResetCauseRead 0 (fun _ => rfl) rfl (fun _ _ h => if_pos (bne_iff_ne.mpr h))
  | budgetSet => cases h; exact .free bodyBudgetSet (fun _ => rfl) rfl
  | fwInfo => cases h; exact .fixed bodyFwInfo 0 (fun _ => rfl) rfl (fun _ _ h => if_pos (bne_iff_ne.mpr h))
  | fwWrite => cases h; exact .free bodyFwWrite (fun _ => rfl) rfl
  | fwCommit => cases h; exact .fixed bodyFwCommit 4 (fun _ => rfl) rfl (fun _ _ h => if_pos (bne_iff_ne.mpr h))
  | fwSelect => cases h; exact .fixed bodyFwSelect 4 (fun _ => rfl) rfl (fun _ _ h => if_pos (bne_iff_ne.mpr h))
  | yelistWrite => cases h; exact .free bodyYelistWrite (fun _ => rfl) rfl
  | yelistLoad => cases h; exact .fixed bodyYelistLoad 4 (fun _ => rfl) rfl (fun _ _ h => if_pos (bne_iff_ne.mpr h))
  | identityRead => cases h; exact .fixed bodyIdentityRead 0 (fun _ => rfl) rfl (fun _ _ h => if_pos (bne_iff_ne.mpr h))
  | eventRoute => cases h; exact .fixed bodyEventRoute 4 (fun _ => rfl) rfl (fun _ _ h => if_pos (bne_iff_ne.mpr h))
  | eventMask => cases h; exact .fixed bodyEventMask 4 (fun _ => rfl) rfl (fun _ _ h => if_pos (bne_iff_ne.mpr h))
  | eventRead => cases h; exact .fixed bodyEventRead 4 (fun _ => rfl) rfl (fun _ _ h => if_pos (bne_iff_ne.mpr h))
  | queueConfig => cases h; exact .fixed bodyQueueConfig 12 (fun _ => rfl) rfl (fun _ _ h => if_pos (bne_iff_ne.mpr h))
  | queueStatus => cases h; exact .fixed bodyQueueStatus 0 (fun _ => rfl) rfl (fun _ _ h => if_pos (bne_iff_ne.mpr h))
  | coalesceSet => cases h; exact .fixed bodyCoalesceSet 4 (fun _ => rfl) rfl (fun _ _ h => if_pos (bne_iff_ne.mpr h))
  | logRead => cases h; exact .fixed bodyLogRead 8 (fun _ => rfl) rfl (fun _ _ h => if_pos (bne_iff_ne.mpr h))
  | logClear => cases h; exact .fixed bodyLogClear 0 (fun _ => rfl) rfl (fun _ _ h => if_pos (bne_iff_ne.mpr h))
  | countersRead => cases h; exact .fixed bodyCountersRead 0 (fun _ => rfl) rfl (fun _ _ h => if_pos (bne_iff_ne.mpr h))
  | selftest => cases h; exact .fixed bodySelftest 4 (fun _ => rfl) rfl (fun _ _ h => if_pos (bne_iff_ne.mpr h))
  | sheepdogStatus => cases h; exact .fixed bodySheepdogStatus 0 (fun _ => rfl) rfl (fun _ _ h => if_pos (bne_iff_ne.mpr h))
  | _ => cases h

/-- A row of a session has no fixed length. -/
theorem not_session_of_fixedLength {i : Instr} {fam op ctx tag n : Nat} (h : opcodeRow i = some (fam, op, ctx, tag))
    (hn : fixedLength i = some n) : ¬(fam = 0 ∧ op ≤ 1) := by
  rintro ⟨rfl, hop⟩
  cases i with
  | sessionOpen => cases hn
  | sessionClose => cases hn
  | heartbeat => cases h; exact absurd hop (by decide)
  | abort => cases h; exact absurd hop (by decide)
  | echo => cases hn
  | _ => cases h

end Sys2Proof.Machine

namespace Sys2Proof
open Machine

/-- Settles O8: each check of `runCmd` comes before the body, and each body with a fixed layout judges its length first. -/
theorem commandsAreChecked : Obligations.CommandsAreChecked := by
  refine ⟨?down, ?late, ?owner, ?length⟩
  case down =>
    intro i s fam op x t hrow hs hdown
    obtain ⟨body, hexec, -⟩ := runsOpcode hrow hs
    exact .of_eq (hexec s) (runCmd_down fam op body x t s.chip hdown)
  case late =>
    intro i s k fam op hrow hs hup hfound hfam hop hstart hlate
    obtain ⟨body, hexec, -⟩ := runsOpcode hrow hs
    exact .of_eq (hexec s) (runCmd_late fam op body s.chip k hup hfound hfam hop hstart hlate)
  case owner =>
    intro i s k fam op hrow hs hup hfound hfam hop hstart htime howner
    obtain ⟨body, hexec, -⟩ := runsOpcode hrow hs
    exact .of_eq (hexec s) (runCmd_notOwner fam op body s.chip k hup hfound hfam hop hstart htime howner)
  case length =>
    intro i s k fam op n hrow hn hready hlen
    obtain ⟨body, hexec, hbad⟩ := runsOpcode hrow (not_session_of_fixedLength hrow hn)
    exact hready.leads body (hexec s) (hbad n hn k s.chip hlen)

/-- Settles O1. -/
theorem stepTakesFront : Obligations.StepTakesFront :=
  fun _ _ _ => rfl

/-- Settles O2: no row writes the queue, and a step takes its front. -/
theorem queueKeepsItsOrder : Obligations.QueueKeepsItsOrder := by
  refine ⟨fun i s t h => (rowKeeps i s t h).1, fun s t hwf h => ?_⟩
  unfold step at h
  split at h
  case h_1 =>
    cases h
    exact hwf
  case h_2 i rest hpending =>
    rw [(rowKeeps i _ t h).1]
    simp_all

end Sys2Proof

namespace Sys2Proof.Machine

/-- A release happens only in reset. -/
theorem main_of_mayRelease {c : Chip} (h : c.mayRelease = true) : c.power.main = .reset := by
  simp only [Chip.mayRelease, Bool.and_eq_true, beq_iff_eq] at h
  exact h.2

theorem clkAdvance_now (n : Nat) (k : Clocks) : (clkAdvance n k).now = k.now + n := by
  unfold clkAdvance
  split <;> rfl

theorem clkAdvance_transit_of_run (n : Nat) {k : Clocks} (h : k.refRun = true) : (clkAdvance n k).transit = k.transit + n := by
  simp [clkAdvance, h]

/-- The quotient and the remainder carry the whole of fabric time. -/
theorem clkAdvance_fab_of_run (n : Nat) {k : Clocks} (h : k.refRun = true) :
    (clkAdvance n k).fabUs * usUnits + (clkAdvance n k).fabAcc = k.fabUs * usUnits + k.fabAcc + n * rateUnits k := by
  simp only [clkAdvance, h, if_true]
  rw [Nat.add_mul, Nat.add_assoc, Nat.mul_comm (_ / _), Nat.div_add_mod, Nat.add_assoc]

theorem clkAdvance_stopped (n : Nat) {k : Clocks} (h : k.refRun = false) :
    (clkAdvance n k).transit = k.transit ∧ (clkAdvance n k).fabUs = k.fabUs := by
  simp [clkAdvance, h]

end Sys2Proof.Machine

namespace Sys2Proof
open Machine

/-- Settles O3: a step on an empty queue is a tick, which advances the clocks and may release the main side. -/
theorem timePassesInPeriods : Obligations.TimePassesInPeriods := by
  refine ⟨?tick, fun c n => ⟨clkAdvance_now n c.clk, fun h => ⟨clkAdvance_transit_of_run n h, clkAdvance_fab_of_run n h⟩,
    clkAdvance_stopped n⟩⟩
  case tick =>
    intro s hempty
    refine ⟨s.chip.tick, by simp only [step, hempty], ?_⟩
    unfold Chip.tick
    extract_lets c
    split
    case isTrue h =>
      obtain ⟨hrelease, -⟩ : c.mayRelease = true ∧ c.releaseFrom ≤ c.clk.now := by simpa using h
      exact .inr ⟨main_of_mayRelease (c := c) hrelease, rfl⟩
    case isFalse => exact .inl rfl

/-- Settles O7. -/
theorem resetState : Obligations.ResetState :=
  ⟨rfl, rfl, rfl, rfl, rfl, rfl, rfl, rfl, rfl, rfl, rfl, rfl, rfl, fun _ => rfl, fun _ => ⟨rfl, rfl⟩, fun _ => ⟨rfl, rfl⟩,
    reset_memoriesWf⟩

end Sys2Proof
end

section
-- One proof after another: side by side, the stacks of their threads reach the check's limit of memory.
set_option Elab.async false
/-! How a command ends (R71, R72), what a firing leaves (R91, R93), producers and overrides (R41), and records in rings
(R100–R103). -/

namespace Sys2Proof.Machine

/-! ### The end of a command -/

/-- A close that waits is itself running. -/
theorem closingCmd_eq_none {c : Chip} {x : Nat} (h : ∀ m ∈ c.cmds, m.ctx = x → m.phase ≠ .running) : c.closingCmd x = none := by
  unfold Chip.closingCmd
  split
  case h_1 k hk =>
    obtain ⟨hmem, hctx⟩ : k ∈ c.cmds ∧ k.ctx = x := by
      simpa [Chip.outstanding] using (hk ▸ List.mem_singleton.mpr rfl : k ∈ c.outstanding x)
    have hphase := h k hmem hctx
    simp [hphase]
  case h_2 => rfl

theorem finalReply_closingCmd {c : Chip} (k : Cmd) (st o : Nat) (data : List Byte)
    (h : ∀ m ∈ c.cmds, m.ctx = k.ctx → m.phase ≠ .running) : (c.finalReply k st o data).closingCmd k.ctx = none := by
  refine closingCmd_eq_none (fun m hm => h m ?_)
  rw [finalReply_cmds] at hm
  exact (List.mem_filter.mp hm).1

/-- Where nothing of its context waits to close, a command's end is its final reply. -/
theorem finish_eq_finalReply {c : Chip} {k : Cmd} {st o : Nat} {data : List Byte}
    (h : (c.finalReply k st o data).closingCmd k.ctx = none) : c.finish k st o data = c.finalReply k st o data := by
  unfold Chip.finish Chip.completeClosing
  rw [h]

theorem finalReply_findCmd (c : Chip) (k : Cmd) (st o : Nat) (data : List Byte) :
    (c.finalReply k st o data).findCmd k.ctx k.tag = none := by
  unfold Chip.findCmd
  rw [finalReply_cmds]
  exact findCmd_dropCmd c k.ctx k.tag

end Sys2Proof.Machine

namespace Sys2Proof
open Machine

/-- Settles O10: with nothing running on the context no close waits, so the end is the final reply. -/
theorem commandEnds : Obligations.CommandEnds := by
  intro c k st o data hlocal hidle
  have hclosing := finalReply_closingCmd k st o data hidle
  refine ⟨finish_local k st o data c hlocal hclosing, ?_⟩
  rw [finish_eq_finalReply hclosing]
  exact finalReply_findCmd c k st o data

end Sys2Proof

namespace Sys2Proof.Machine

/-! ### What a firing leaves -/

theorem withOccurrences_of_ne {e : Nat} (h2 : e ≠ 92) (h4 : e ≠ 94) (s : EventSt) : withOccurrences e s = s := by
  simp [withOccurrences, h2, h4]

theorem eventFire_of_not_pending {s : EventSt} (h : s.pending = false) (x st : Word) (q : Bool) :
    (s.fire x st q).count = 1 ∧ (s.fire x st q).stamp = st := by
  simp [EventSt.fire, h]

theorem eventFire_of_pending {s : EventSt} (h : s.pending = true) (x st : Word) (q : Bool) :
    (s.fire x st q).stamp = s.stamp ∧ (s.fire x st q).count = if s.count = 0xFFFF then 0xFFFF else s.count + 1 := by
  simp only [EventSt.fire, h, if_true, true_and]
  split
  case isTrue hfull => rw [hfull]
  case isFalse => rfl

/-- What a firing writes into an event that carries no count in its CAUSE. -/
theorem fire_event_plain {c : Chip} {e : Nat} (x : Nat) (h : Fires c e) (h2 : e ≠ 92) (h4 : e ≠ 94) (h8 : e ≠ 118) (h9 : e ≠ 119) :
    (c.fire e x).event e = (c.event e).fire (BitVec.ofNat 32 x) c.stamp (routeQueue (c.route e)) := by
  rw [fire_event e x c h.1 h.2 h8 h9, withOccurrences_of_ne h2 h4]

theorem fire_resetCause (c : Chip) (e x : Nat) : (c.fire e x).power.resetCause = c.power.resetCause :=
  (fire_routed e x c).power_of (·.resetCause) (fun _ _ => rfl)

/-- A firing touches what the router holds. -/
theorem fire_frame (c : Chip) (e x : Nat) : Keeps Field.routed c (c.fire e x) :=
  fire_keeps (.refl _) e x c (.refl c)

end Sys2Proof.Machine

namespace Sys2Proof
open Machine

/-- Settles O11: the event table gets the fired event alone, and the router's other writes are outside the plant. -/
theorem firingSetsEvent : Obligations.FiringSetsEvent := by
  refine ⟨?fires, fun c e x => ?frame⟩
  case fires =>
    intro c e x hfires h2 h4 h8 h9
    refine ⟨fired_fire hfires h2 h4 h8 h9, ?_⟩
    rw [fire_event_plain x hfires h2 h4 h8 h9]
    exact ⟨fun h => eventFire_of_not_pending h _ _ _, fun h => eventFire_of_pending h _ _ _⟩
  case frame =>
    have hkeeps := fire_frame c e x
    exact ⟨.of_keeps hkeeps, hkeeps.cmds, hkeeps.sessions, hkeeps.clk, hkeeps.rtc, Chip.fire_main c e x, fire_resetCause c e x,
      fun j h h8 h9 => fire_event_other e j x c h h8 h9⟩

end Sys2Proof

namespace Sys2Proof.Machine

/-! ### Producers and overrides -/

theorem produce_of_free {c : Chip} {sid : Nat} (h : Tbl.get dOverride c.overrides sid = ⟨false, false⟩) (v st : Word) (q p : Half) :
    (c.produce sid v st q p).slots = Tbl.modify dSlot c.slots sid
      (fun s => { s with value := v, stamp := st, quality := q, producer := p, seqno := s.seqno + 1 }) := by
  simp [Chip.produce, h, Chip.writeSlot, Chip.slotTriggers, Chip.zonesSee]

theorem produce_of_override {c : Chip} {sid : Nat} (h : Tbl.get dOverride c.overrides sid ≠ ⟨false, false⟩) (v st : Word)
    (q p : Half) : (c.produce sid v st q p).slots = c.slots := by
  have hon : ((Tbl.get dOverride c.overrides sid).forced || (Tbl.get dOverride c.overrides sid).model) = true := by
    generalize Tbl.get dOverride c.overrides sid = o at h
    obtain ⟨forced, model⟩ := o
    cases forced <;> cases model <;> simp_all
  simp only [Chip.produce, hon, if_true]
  rfl

/-- The producer's own copy takes the write under an override too. -/
theorem produce_produced (c : Chip) (sid : Nat) (v st : Word) (q p : Half) :
    (c.produce sid v st q p).produced = Tbl.modify dSlot c.produced sid
      (fun s => { s with value := v, stamp := st, quality := q, producer := p, seqno := s.seqno + 1 }) := by
  unfold Chip.produce
  dsimp only
  split <;> rfl

end Sys2Proof.Machine

namespace Sys2Proof
open Machine

/-- Settles O14: the override decides whether the write reaches the slot; the copy beside it takes it either way. -/
theorem overrideHoldsProducer : Obligations.OverrideHoldsProducer := by
  intro c sid v st q p
  refine ⟨fun hfree => ?free, fun hheld => ⟨produce_of_override hheld v st q p, ?held⟩⟩
  case free =>
    simp only [Chip.slot, produce_of_free hfree, Tbl.get_modify_same, true_and]
    exact fun j hj => Tbl.get_modify_other _ _ _ _ _ hj
  case held => simp only [produce_produced, Tbl.get_modify_same, and_self]

end Sys2Proof

namespace Sys2Proof.Machine

/-! ### Records in rings -/

theorem offsetOf_le_ringBytes (s : QueueSt) (i : Nat) (h : i < 2 * s.depth) : s.offsetOf i ≤ s.ringBytes := by
  have hdepth : 0 < s.depth := by omega
  exact Nat.mul_le_mul_right _ (Nat.mod_lt _ hdepth).le

theorem record_length (s : QueueSt) (body : List Byte) :
    (leBytes 4 (recordWord s body.length) ++ body).length = 4 + body.length := by
  rw [List.length_append, leBytes_length]

theorem putRecord_ring (c : Chip) (q : Nat) (body : List Byte) : (c.putRecord q body).ring =
    ringWrite (c.queue q) (c.queue q).tail (leBytes 4 (recordWord (c.queue q) body.length) ++ body) c.ring := rfl

theorem putRecord_queue_other (c : Chip) (q : Nat) (body : List Byte) {j : Nat} (h : j ≠ q) :
    (c.putRecord q body).queue j = c.queue j :=
  Tbl.get_set_other _ _ _ _ _ h

/-- The writer's fields of the queue after a record. -/
theorem putRecord_queue_same (c : Chip) (q : Nat) (body : List Byte) :
    ((c.putRecord q body).queue q).tail =
        ((c.queue q).tail + entriesFor (c.queue q).eshift body.length) % (2 * (c.queue q).depth) ∧
      ((c.putRecord q body).queue q).head = (c.queue q).head ∧ ((c.putRecord q body).queue q).rseq = (c.queue q).rseq + 1 ∧
      ((c.putRecord q body).queue q).loss = false := by
  simp only [Chip.putRecord, Chip.queue, Chip.setQueue, Tbl.get_set_same]
  exact ⟨rfl, rfl, rfl, rfl⟩

theorem deliver_memoriesWf {c : Chip} (h : c.memoriesWf = true) (q cls : Nat) (body : List Byte) (note : Word) :
    (c.deliver q cls body note).memoriesWf = true :=
  (deliver_keeps (fs := Field.routed) (.refl _) q cls body note c (.refl c)).memories h

theorem arrive_memoriesWf {c : Chip} (h : c.memoriesWf = true) (q cls : Nat) (body : List Byte) (note : Word) :
    (c.arrive q cls body note).memoriesWf = true :=
  (arrive_keeps (fs := Field.routed) (.refl _) q cls body note c (.refl c)).memories h

theorem finalReply_memoriesWf {c : Chip} (h : c.memoriesWf = true) (k : Cmd) (st o : Nat) (data : List Byte) :
    (c.finalReply k st o data).memoriesWf = true :=
  (finalReply_keeps (fs := Field.all) (.of rfl) k st o data c (.refl c)).memories h

end Sys2Proof.Machine

namespace Sys2Proof
open Machine

/-- Settles O15: a record is read back where it was written, and nothing else of the ring region is. -/
theorem recordsAreWritten : Obligations.RecordsAreWritten := by
  refine ⟨?record, fun c hwf => ⟨fun q cls body note => ⟨deliver_memoriesWf hwf .., arrive_memoriesWf hwf ..⟩,
    fun e x => (fire_frame c e x).memories hwf, fun k st o data _ => finalReply_memoriesWf hwf k st o data⟩⟩
  case record =>
    intro c q body s hroom htail
    have hoffset := offsetOf_le_ringBytes s s.tail htail
    have hlen := record_length s body
    obtain ⟨ht, hh, hr, hl⟩ := putRecord_queue_same c q body
    refine ⟨?read, ht, hh, hr, hl, fun j hj => putRecord_queue_other c q body hj, ?outside⟩
    case read =>
      rw [putRecord_ring, ← hlen]
      exact ringRead_ringWrite s s.tail _ c.ring (hlen.trans_le hroom) hoffset
    case outside =>
      intro a ha
      rw [putRecord_ring]
      exact ringWrite_outside s s.tail a _ c.ring (hlen.trans_le hroom) ha hoffset

end Sys2Proof
end

section
-- One proof after another: side by side, the stacks of their threads reach the check's limit of memory.
set_option Elab.async false
/-! Sessions, HEARTBEAT and ABORT (spec/02; R62–R68, R85, R86, R370, R455). -/

namespace Sys2Proof.Machine

/-! ### What is outstanding -/

theorem setCmd_outstanding (c : Chip) {k m : Cmd} (hm : m.ctx = k.ctx) (ht : m.tag = k.tag)
    (h : c.outstanding k.ctx = [k]) : (c.setCmd m).outstanding k.ctx = [m] := by
  have hmap : (c.setCmd m).outstanding k.ctx = (c.outstanding k.ctx).map (fun x => if x.ctx == m.ctx && x.tag == m.tag then m else x) := by
    simp only [Chip.outstanding, Chip.setCmd, List.filter_map]
    congr 1
    refine List.filter_congr (fun x _ => ?_)
    simp only [Function.comp]
    split
    case isTrue hx =>
      obtain ⟨hctx, -⟩ : x.ctx = m.ctx ∧ x.tag = m.tag := by simpa using hx
      simp [hctx]
    case isFalse => rfl
  rw [hmap, h]
  simp [hm, ht]

/-- The final replies that a close of HOST streams gives end commands, and begin none. -/
theorem closeHostStreams_cmds_subset (x : Nat) (c : Chip) : ∀ m ∈ (c.closeHostStreams x).cmds, m ∈ c.cmds := by
  unfold Chip.closeHostStreams
  extract_lets mine d
  have hd : ∀ m ∈ d.cmds, m ∈ c.cmds := fun _ h => h
  clear_value d
  generalize mine.flatMap (fun e => e.2.closing) = l
  induction l generalizing d with
  | nil => exact hd
  | cons t l ih =>
    refine ih _ (fun m hm => hd m ?_)
    dsimp only at hm
    split at hm
    case h_1 k _ =>
      split at hm
      · exact hm
      · rw [finalReply_cmds] at hm
        exact (List.mem_filter.mp hm).1
    case h_2 => exact hm

theorem endSession_cmds_subset (x : Nat) (c : Chip) : ∀ m ∈ (c.endSession x).cmds, m ∈ c.cmds :=
  closeHostStreams_cmds_subset x c

/-- The last reply of a context leaves nothing outstanding on it. -/
theorem finalReply_outstanding {c d : Chip} {k m : Cmd} (hm : m.ctx = k.ctx) (ht : m.tag = k.tag)
    (h : c.outstanding k.ctx = [k]) (hsub : ∀ x ∈ d.cmds, x ∈ c.cmds) (st o : Nat) (data : List Byte) :
    (d.finalReply m st o data).outstanding k.ctx = [] := by
  rw [Chip.outstanding, finalReply_cmds, List.filter_eq_nil_iff]
  intro x hx hctx
  obtain ⟨hxd, hne⟩ := List.mem_filter.mp hx
  have hxk : x ∈ c.outstanding k.ctx := List.mem_filter.mpr ⟨hsub x hxd, hctx⟩
  rw [h, List.mem_singleton] at hxk
  simp [hxk, hm, ht] at hne

/-- ABORT to the others where there is no other. -/
theorem abortOthers_none {c : Chip} {x tag : Nat} (h : ∀ t ∈ c.outstanding x, t.tag = tag) : c.abortOthers x tag = c := by
  have hnil : (c.outstanding x).filter (fun t => t.tag != tag) = [] := by
    rw [List.filter_eq_nil_iff]
    intro t ht
    simp [h t ht]
  unfold Chip.abortOthers
  rw [hnil]
  rfl

theorem closingCmd_of_only {c : Chip} {x : Nat} {k : Cmd} (h : c.outstanding x = [k]) (hfam : k.family = 0)
    (hop : k.opcode = 0 ∨ k.opcode = 1) (hphase : k.phase = .running) : c.closingCmd x = some k := by
  unfold Chip.closingCmd
  rw [h]
  obtain hop | hop := hop <;> simp [hfam, hop, hphase]

/-! ### SESSION_OPEN and SESSION_CLOSE -/

/-- What SESSION_OPEN leaves of its command while it waits to complete. -/
abbrev Cmd.running (k : Cmd) : Cmd := { k with phase := .running }

theorem bodySessionOpen_alone {k : Cmd} {c : Chip} (hlen : k.payload.length = 8) (h1 : 1 ≤ fld k.payload 4 2)
    (h64 : fld k.payload 4 2 ≤ 64) (hz : zeroAt k.payload 6 2 = true) (hout : c.outstanding k.ctx = [k]) :
    bodySessionOpen k c = .waiting c := by
  simp only [bodySessionOpen, abortOthers_none (c := c) (x := k.ctx) (tag := k.tag) (by simp [hout])]
  rw [if_neg (by simp [hlen]), if_neg (by simp; omega), if_neg (by simp [hz])]

theorem bodySessionClose_alone {k : Cmd} {c : Chip} (hp : k.payload = []) (hout : c.outstanding k.ctx = [k]) :
    bodySessionClose k c = .waiting c := by
  simp only [bodySessionClose, abortOthers_none (c := c) (x := k.ctx) (tag := k.tag) (by simp [hout])]
  rw [if_neg (by simp [hp])]

/-- The session that SESSION_OPEN grants (R63, R64). -/
def Chip.grantedSession (c : Chip) (k : Cmd) : Session :=
  ⟨true, negotiate (protoVer (fld k.payload 2 1) (fld k.payload 3 1)),
    if isRemoteCtx k.ctx then fld k.payload 4 2 else min (fld k.payload 4 2) (c.queue (submissionQueue k.ctx)).depth⟩

/-- The session is written, and nothing else. -/
def Chip.grant (k : Cmd) (c : Chip) : Chip := { c with sessions := Tbl.set dSession c.sessions k.ctx (c.grantedSession k) }

theorem Chip.grant_sessions (c : Chip) (k : Cmd) :
    (c.grant k).sessions = Tbl.set dSession c.sessions k.ctx (c.grantedSession k) := rfl
theorem Chip.grant_staged (c : Chip) (k : Cmd) : (c.grant k).staged = c.staged := rfl
theorem Chip.grant_lives (c : Chip) (k : Cmd) : (c.grant k).lives = c.lives := rfl
theorem Chip.grant_session (c : Chip) (k : Cmd) : (c.grant k).session k.ctx = c.grantedSession k := by
  simp [Chip.session, Chip.grant]

/-- Where the versions meet, the session is granted. -/
theorem openSession_of_meet (c : Chip) {k : Cmd}
    (hmin : protoVer (fld k.payload 0 1) (fld k.payload 1 1) ≤ negotiate (protoVer (fld k.payload 2 1) (fld k.payload 3 1)))
    (h2 : protoVer 2 0 ≤ negotiate (protoVer (fld k.payload 2 1) (fld k.payload 3 1))) :
    (c.openSession k).1 = c.grant k := by
  unfold Chip.openSession
  dsimp only
  rw [if_neg (by simp; omega)]
  rfl

/-- The row of a close that waits for nothing else: it completes at once. -/
theorem completeClosing_open {c : Chip} {k : Cmd} (h : c.closingCmd k.ctx = some k) (hop : k.opcode = 0) :
    ∃ m st o data, m.ctx = k.ctx ∧ m.tag = k.tag ∧
      c.completeClosing k.ctx = ((c.endSession k.ctx).openSession k).1.finalReply m st o data := by
  unfold Chip.completeClosing
  rw [h]
  dsimp only
  rw [if_neg (by simp [hop])]
  refine ⟨_, _, _, _, ?ctx, ?tag, rfl⟩ <;> rfl

theorem completeClosing_close {c : Chip} {k : Cmd} (h : c.closingCmd k.ctx = some k) (hop : k.opcode = 1) :
    c.completeClosing k.ctx = (c.endSession k.ctx).finalReply k stOK noOfs [] := by
  unfold Chip.completeClosing
  rw [h]
  dsimp only
  rw [if_pos (by simp [hop])]

/-- The plant is not touched where a chip differs in its sessions and commands alone. -/
theorem samePlant_setCmd (c : Chip) (k : Cmd) : SamePlant c (c.setCmd k) := (setCmd_carried k c).samePlant

theorem execSessionOpen_ready {k : Cmd} {s : State} (h : Ready 0 0 k s) {c : Chip} (hb : bodySessionOpen k s.chip = .waiting c) :
    Leads (.sessionOpen k.ctx k.tag) s ((c.setCmd k.running).completeClosing k.ctx) := by
  refine .of_eq rfl ?_
  rw [runCmd_ready h, hb]
  rfl

theorem execSessionClose_ready {k : Cmd} {s : State} (h : Ready 0 1 k s) {c : Chip} (hb : bodySessionClose k s.chip = .waiting c) :
    Leads (.sessionClose k.ctx k.tag) s ((c.setCmd k.running).completeClosing k.ctx) := by
  refine .of_eq rfl ?_
  rw [runCmd_ready h, hb]
  rfl

end Sys2Proof.Machine

namespace Sys2Proof
open Machine

/-- Settles O16: with nothing else outstanding the open completes in its own step: the old session ends, the new one is
written, and the reply goes out. -/
theorem sessionOpens : Obligations.SessionOpens := by
  intro k s hready hlen h1 h64 hz hout hmin h2
  have hleads := execSessionOpen_ready hready (bodySessionOpen_alone hlen h1 h64 hz hout)
  have honly := setCmd_outstanding s.chip (k := k) (m := k.running) rfl rfl hout
  obtain ⟨m, st, o, data, hctx, htag, hdone⟩ := completeClosing_open (k := k.running)
    (closingCmd_of_only honly hready.family (.inl hready.opcode) rfl) hready.opcode
  rw [show (k.running).ctx = k.ctx from rfl] at hdone hctx
  rw [hdone, openSession_of_meet (k := k.running) _ hmin h2] at hleads
  have hreply := finalReply_carried m st o data (((s.chip.setCmd k.running).endSession k.ctx).grant k.running)
  have hsession := (congrArg (Tbl.get dSession · k.ctx) hreply.sessions).trans (Chip.grant_session _ k.running)
  have hdepth : (((s.chip.setCmd k.running).endSession k.ctx).queue (submissionQueue k.ctx)).depth =
      (s.chip.queue (submissionQueue k.ctx)).depth := endSession_depthKept k.ctx (s.chip.setCmd k.running) _
  refine ⟨_, hleads, congrArg Session.opened hsession, congrArg Session.ver hsession,
    (congrArg Session.maxout hsession).trans ?maxout, ?outstanding, ?staged, ?lives, ?others, ?plant⟩
  case maxout => exact congrArg (fun d => if isRemoteCtx k.ctx then fld k.payload 4 2 else min (fld k.payload 4 2) d) hdepth
  case outstanding =>
    exact finalReply_outstanding (k := k.running) (c := s.chip.setCmd k.running)
      (d := ((s.chip.setCmd k.running).endSession k.ctx).grant k.running) hctx htag honly
      (endSession_cmds_subset k.ctx (s.chip.setCmd k.running)) st o data
  case staged => simp only [hreply.staged, Chip.grant_staged, endSession_staged, Tbl.get_set_same]
  case lives => simp only [hreply.lives, Chip.grant_lives, endSession_lives, Tbl.get_set_same]
  case others =>
    intro x hx
    simp only [Chip.session, hreply.sessions, Chip.grant_sessions, endSession_sessions, Tbl.get_set_other _ _ _ _ _ hx]
    rfl
  case plant =>
    exact ((samePlant_setCmd s.chip k.running).trans (endSession_samePlant k.ctx _)).trans hreply.samePlant

/-- Settles O17: the close ends the session in its own step; the timeout of a remote session waits 30 s and ends it. -/
theorem sessionsClose : Obligations.SessionsClose := by
  refine ⟨?close, ?timeout⟩
  case close =>
    intro k s hready hp hout
    have hleads := execSessionClose_ready hready (bodySessionClose_alone hp hout)
    have honly := setCmd_outstanding s.chip (k := k) (m := k.running) rfl rfl hout
    rw [completeClosing_close (k := k.running) (closingCmd_of_only honly hready.family (.inr hready.opcode) rfl) hready.opcode]
      at hleads
    have hreply := finalReply_carried k.running stOK noOfs [] ((s.chip.setCmd k.running).endSession k.ctx)
    refine ⟨_, hleads, ?session, ?outstanding, ?staged, ?lives, ?others, ?plant⟩
    case session => simp only [Chip.session, hreply.sessions, endSession_sessions, Tbl.get_set_same]
    case outstanding =>
      exact finalReply_outstanding (k := k.running) (c := s.chip.setCmd k.running) rfl rfl honly
        (endSession_cmds_subset k.ctx (s.chip.setCmd k.running)) _ _ _
    case staged => simp only [hreply.staged, endSession_staged, Tbl.get_set_same]
    case lives => simp only [hreply.lives, endSession_lives, Tbl.get_set_same]
    case others =>
      intro x hx
      simp only [Chip.session, hreply.sessions, endSession_sessions, Tbl.get_set_other _ _ _ _ _ hx]
      rfl
    case plant =>
      exact ((samePlant_setCmd s.chip k.running).trans (endSession_samePlant k.ctx _)).trans hreply.samePlant
  case timeout =>
    intro s x node token t hremote hopen hout hnode hpath
    have hwait := s.chip.waitUntil_frame (t + sec 30)
    have hnone : (s.chip.waitUntil (t + sec 30)).outstanding x = [] := by rw [Chip.outstanding, hwait.cmds]; exact hout
    have hrow : s.chip.remoteTimeout x = (s.chip.waitUntil (t + sec 30)).endSession x := by
      simp only [Chip.remoteTimeout, hnode, hpath, hremote, hopen]
      rw [abortOthers_none (by simp [hnone])]
      rfl
    refine ⟨_, .of_eq rfl hrow, ?session, ?due, ?staged, ?plant⟩
    case session => simp only [Chip.session, endSession_sessions, Tbl.get_set_same]
    case due =>
      rw [endSession_clk]
      exact s.chip.waitUntil_due _
    case staged => simp only [endSession_staged, Tbl.get_set_same]
    case plant => exact (SamePlant.of_keeps hwait).trans (endSession_samePlant x _)

end Sys2Proof

namespace Sys2Proof.Machine

/-! ### HEARTBEAT and ABORT -/

/-- What a HEARTBEAT writes before it restarts the fan watchdog. -/
def Chip.beaten (c : Chip) : Chip :=
  { c with dogs := { c.dogs with lastBeat := c.clk.now, hbArmed := bits (c.attrN tyDevice 0 0x702) 0 8 != 0, hbLost := false } }

theorem bodyHeartbeat_mgt {k : Cmd} (c : Chip) (hp : k.payload = []) (h : isMgtCtx k.ctx = true) : bodyHeartbeat k c = .ok c := by
  unfold bodyHeartbeat
  rw [if_neg (by simp [hp]), if_pos h]

theorem bodyHeartbeat_host {k : Cmd} (c : Chip) (hp : k.payload = []) (h : isMgtCtx k.ctx = false) :
    bodyHeartbeat k c = .ok c.beaten.fanBeat := by
  unfold bodyHeartbeat
  rw [if_neg (by simp [hp]), if_neg (by simp [h])]
  rfl

/-- The fan watchdog's fields of the dogs; what was lowered is noted at the fans. -/
theorem fanBeat_dogs (c : Chip) :
    c.fanBeat.dogs = { c.dogs with fanBeat := c.clk.now, fanArmed := true, fanForced := false } := by
  unfold Chip.fanBeat
  dsimp only
  split
  case isTrue =>
    have hfold : Keeps Field.fans { c with dogs := { c.dogs with fanBeat := c.clk.now, fanArmed := true, fanForced := false } }
        (c.boundFans.foldl (fun x n => x.noteLowered n 65536)
          { c with dogs := { c.dogs with fanBeat := c.clk.now, fanArmed := true, fanForced := false } }) :=
      foldl_keeps (fun d n => noteLowered_keeps (.refl _) n 65536 d (.refl d)) (.refl _)
    exact hfold.dogs
  case isFalse => rfl

theorem fanBeat_clk (c : Chip) : c.fanBeat.clk = c.clk :=
  (fanBeat_keeps (.refl _) c (.refl c)).clk

/-- ABORT of a command that has not started. -/
theorem abortOne_fetched {c : Chip} {x tag : Nat} {t : Cmd} {by_ : Nat × Nat} (hfound : c.findCmd x tag = some t)
    (hother : (x, tag) ≠ by_) (hcan : c.canHolds t = false) (hphase : t.phase = .fetched) :
    c.abortOne x tag by_ = .withdrawn (c.finish t stAborted noOfs []) := by
  simp [Chip.abortOne, hfound, hother, hcan, hphase]

theorem abortOne_absent {c : Chip} {x tag : Nat} (by_ : Nat × Nat) (h : c.findCmd x tag = none) : c.abortOne x tag by_ = .tooLate := by
  simp [Chip.abortOne, h]

/-- An ABORT whose target is withdrawn is done. -/
theorem bodyAbort_of_withdrawn {k : Cmd} {x : Nat} {c d : Chip} (hlen : k.payload.length = 4) (hz : zeroAt k.payload 3 1 = true)
    (hx : namedCtx k (fld k.payload 2 1) = some x) (h : c.abortOne x (fld k.payload 0 2) (k.ctx, k.tag) = .withdrawn d) :
    bodyAbort k c = .ok d := by
  simp [bodyAbort, hlen, hz, hx, h]

theorem bodyAbort_of_tooLate {k : Cmd} {x : Nat} {c : Chip} (hlen : k.payload.length = 4) (hz : zeroAt k.payload 3 1 = true)
    (hx : namedCtx k (fld k.payload 2 1) = some x) (h : c.abortOne x (fld k.payload 0 2) (k.ctx, k.tag) = .tooLate) :
    bodyAbort k c = .err stTooLate noOfs c := by
  simp [bodyAbort, hlen, hz, hx, h]

end Sys2Proof.Machine

namespace Sys2Proof
open Machine

/-- Settles O19: HEARTBEAT writes the two timers of the dogs; ABORT is what `abortOne` says of its target. -/
theorem heartbeatAndAbort : Obligations.HeartbeatAndAbort := by
  refine ⟨fun k s hready hp => ⟨?mgt, ?host⟩, fun k t s x hready hlen hz hx => ⟨?fetched, ?absent⟩⟩
  case mgt => exact fun h => answers_of bodyHeartbeat hready rfl (bodyHeartbeat_mgt s.chip hp h)
  case host =>
    intro h
    refine ⟨_, answers_of bodyHeartbeat hready rfl (bodyHeartbeat_host s.chip hp h), ?_⟩
    simp only [fanBeat_dogs, fanBeat_clk]
    exact ⟨rfl, rfl, rfl, trivial, trivial, rfl, rfl⟩
  case fetched =>
    intro hfound hother hcan hphase
    exact answers_of bodyAbort hready rfl (bodyAbort_of_withdrawn hlen hz hx (abortOne_fetched hfound hother hcan hphase))
  case absent =>
    intro hnone
    exact hready.leads bodyAbort rfl (bodyAbort_of_tooLate hlen hz hx (abortOne_absent _ hnone))

end Sys2Proof
end

section
-- One proof after another: side by side, the stacks of their threads reach the check's limit of memory.
set_option Elab.async false
/-! Objects, their ownership and their staged changes (R60, R75–R80, R88, R556, R559). -/

namespace Sys2Proof.Machine

/-- A command that is ready and whose body is done ends with the status that the body gives. -/
theorem ends_of {fam op : Nat} {i : Instr} {k : Cmd} {s : State} {st o : Nat} {data : List Byte} {c : Chip}
    (body : Cmd → Chip → Res) (h : Ready fam op k s)
    (hi : exec i s = .next { s with chip := s.chip.runCmd fam op body k.ctx k.tag })
    (hb : body k s.chip = .done st o data c) : Leads i s (c.finish k st o data) :=
  h.leads body hi hb

/-! ### OBJ_GET -/

/-- An OBJ_GET whose payload has its form does what its two checks over the list come to. -/
theorem bodyObjGet_of_form {k : Cmd} (c : Chip) (h1 : 1 ≤ fld k.payload 0 2)
    (h64 : fld k.payload 0 2 ≤ 64) (hlen : k.payload.length = 4 + 2 * fld k.payload 0 2) (hz : zeroAt k.payload 2 2 = true)
    (hbad : getBad c.fuses.variant k.ty k.inst 0 4 (getList k.payload) = none)
    (hlong : getLong c.fuses.variant k.ty k.inst 0 4 (getList k.payload) = none) :
    bodyObjGet k c = .okWith ((getList k.payload).flatMap (fun a => attrRecord a (c.readAttr k.ty k.inst a))) c := by
  unfold bodyObjGet
  dsimp only
  rw [if_neg (by simp [within, h1, h64, hlen]), if_neg (by simp [hz]), hbad, hlong]

theorem bodyObjGet_of_bad {k : Cmd} (c : Chip) (h1 : 1 ≤ fld k.payload 0 2)
    (h64 : fld k.payload 0 2 ≤ 64) (hlen : k.payload.length = 4 + 2 * fld k.payload 0 2) (hz : zeroAt k.payload 2 2 = true)
    {st o : Nat} (hbad : getBad c.fuses.variant k.ty k.inst 0 4 (getList k.payload) = some (st, o)) :
    bodyObjGet k c = .err st o c := by
  unfold bodyObjGet
  dsimp only
  rw [if_neg (by simp [within, h1, h64, hlen]), if_neg (by simp [hz]), hbad]

theorem bodyObjGet_of_long {k : Cmd} (c : Chip) (h1 : 1 ≤ fld k.payload 0 2)
    (h64 : fld k.payload 0 2 ≤ 64) (hlen : k.payload.length = 4 + 2 * fld k.payload 0 2) (hz : zeroAt k.payload 2 2 = true)
    (hbad : getBad c.fuses.variant k.ty k.inst 0 4 (getList k.payload) = none)
    {st o : Nat} (hlong : getLong c.fuses.variant k.ty k.inst 0 4 (getList k.payload) = some (st, o)) :
    bodyObjGet k c = .err st o c := by
  unfold bodyObjGet
  dsimp only
  rw [if_neg (by simp [within, h1, h64, hlen]), if_neg (by simp [hz]), hbad, hlong]

/-! ### OBJ_OWNER -/

/-- A change of ownership moves the object it names. -/
theorem setOwner_ownerIsMgt (c : Chip) (h : Nat) (toMgt byMgt : Bool) (j : Nat) :
    (c.setOwner h toMgt byMgt).ownerIsMgt j = if j = h then toMgt else c.ownerIsMgt j := by
  have hset : ∀ d : Chip, d.owners = Tbl.set dFalse c.owners h toMgt →
      d.ownerIsMgt j = if j = h then toMgt else c.ownerIsMgt j := by
    intro d hd
    rw [Chip.ownerIsMgt, hd, Tbl.get_set]
    rfl
  unfold Chip.setOwner
  split
  case isTrue hsame =>
    split
    case isTrue hj => rw [hj]; exact beq_iff_eq.mp hsame
    case isFalse => rfl
  case isFalse =>
    dsimp only
    split
    · exact hset _ (fire_frame _ 125 h).owners
    · exact hset _ rfl

theorem setOwner_samePlant (c : Chip) (h : Nat) (toMgt byMgt : Bool) : SamePlant c (c.setOwner h toMgt byMgt) :=
  .of_keeps (setOwner_keeps (.refl _) h toMgt byMgt c (.refl c))

theorem bodyObjOwner_read {k : Cmd} (c : Chip) (hlen : k.payload.length = 1) (ha : fld k.payload 0 1 = 0) :
    bodyObjOwner k c = .okWith [BitVec.ofNat 8 (b2n (c.ownerIsMgt (canonHandle k.hnd)))] c := by
  simp [bodyObjOwner, hlen, ha]

/-- From the management side OBJ_OWNER moves its object, 2 to that side and 1 to the host. -/
theorem bodyObjOwner_move {k : Cmd} (c : Chip) (hlen : k.payload.length = 1) (ha : fld k.payload 0 1 = 1 ∨ fld k.payload 0 1 = 2)
    (hm : isMgtCtx k.ctx = true) :
    bodyObjOwner k c = .okWith [BitVec.ofNat 8 (b2n (decide (fld k.payload 0 1 = 2)))]
      (c.setOwner (canonHandle k.hnd) (decide (fld k.payload 0 1 = 2)) true) := by
  obtain ha | ha := ha <;> simp [bodyObjOwner, hlen, ha, hm, setOwner_ownerIsMgt]

theorem bodyObjOwner_refused {k : Cmd} (c : Chip) (hlen : k.payload.length = 1) (hm : isMgtCtx k.ctx = false)
    (ha : fld k.payload 0 1 = 2 ∨ fld k.payload 0 1 = 1 ∧ c.ownerIsMgt (canonHandle k.hnd) = true) :
    bodyObjOwner k c = .err stNotOwner 8 c := by
  obtain ha | ⟨ha, howner⟩ := ha
  · simp [bodyObjOwner, hlen, ha, hm]
  · simp [bodyObjOwner, hlen, ha, hm, howner]

/-- The host gets back what it has. -/
theorem bodyObjOwner_kept {k : Cmd} (c : Chip) (hlen : k.payload.length = 1) (hm : isMgtCtx k.ctx = false)
    (ha : fld k.payload 0 1 = 1) (howner : c.ownerIsMgt (canonHandle k.hnd) = false) : bodyObjOwner k c = .okWith [0] c := by
  have hsame : c.setOwner (canonHandle k.hnd) false false = c := by simp [Chip.setOwner, howner]
  simp [bodyObjOwner, hlen, ha, hm, howner, hsame, b2n]

/-! ### OBJ_LIST -/

theorem bodyObjList_of_form {k : Cmd} (c : Chip) (hlen : k.payload.length = 4) (h1 : 1 ≤ fld k.payload 0 1)
    (h17 : fld k.payload 0 1 ≤ 0x17) (hz : zeroAt k.payload 1 1 = true) :
    bodyObjList k c = .okWith (leBytes 2 (c.listed (fld k.payload 0 1)).length
      ++ leBytes 2 (((c.listed (fld k.payload 0 1)).filter (fun h => decide (fld k.payload 2 2 ≤ listIndex h))).take 1018).length
      ++ (((c.listed (fld k.payload 0 1)).filter (fun h => decide (fld k.payload 2 2 ≤ listIndex h))).take 1018).flatMap
        (leBytes 4)) c := by
  unfold bodyObjList
  dsimp only
  rw [if_neg (by simp [hlen]), if_neg (by simp; omega), if_neg (by simp [hz])]

end Sys2Proof.Machine

namespace Sys2Proof
open Machine

/-- Settles O20. -/
theorem objectsAreReadAndOwned : Obligations.ObjectsAreReadAndOwned := by
  refine ⟨?get, fun k s => ⟨?read, ?move, ?take, ?back, ?list⟩⟩
  case get =>
    intro k s hready _ h1 h64 hlen hz
    exact ⟨fun hbad hlong => answers_of bodyObjGet hready rfl (bodyObjGet_of_form s.chip h1 h64 hlen hz hbad hlong),
      fun st o hbad => ends_of bodyObjGet hready rfl (bodyObjGet_of_bad s.chip h1 h64 hlen hz hbad),
      fun st o hbad hlong => ends_of bodyObjGet hready rfl (bodyObjGet_of_long s.chip h1 h64 hlen hz hbad hlong)⟩
  case read => exact fun hready hlen ha => answers_of bodyObjOwner hready rfl (bodyObjOwner_read s.chip hlen ha)
  case move =>
    intro hready hlen ha hm
    refine ⟨_, answers_of bodyObjOwner hready rfl (bodyObjOwner_move s.chip hlen ha hm), ?_, fun h hh => ?_,
      setOwner_samePlant ..⟩
    · rw [setOwner_ownerIsMgt, if_pos rfl]
    · rw [setOwner_ownerIsMgt, if_neg hh]
  case take => exact fun hready hlen ha hm => ends_of bodyObjOwner hready rfl (bodyObjOwner_refused s.chip hlen hm (.inl ha))
  case back =>
    intro hready hlen ha hm
    exact ⟨fun howner => answers_of bodyObjOwner hready rfl (bodyObjOwner_kept s.chip hlen hm ha howner),
      fun howner => ends_of bodyObjOwner hready rfl (bodyObjOwner_refused s.chip hlen hm (.inr ⟨ha, howner⟩))⟩
  case list =>
    exact fun hready hlen h1 h17 hz => answers_of bodyObjList hready rfl (bodyObjList_of_form s.chip hlen h1 h17 hz)

end Sys2Proof

namespace Sys2Proof.Machine

/-! ### Staging -/

theorem bodyObjStage_of_records {k : Cmd} {c : Chip} {rs : List (Nat × List Byte)} (hne : k.payload ≠ [])
    (hrs : takeRecords c.fuses.variant k.ty k.inst k.payload (k.payload.length + 1) 0 = .inr rs) :
    bodyObjStage k c =
      let st := (rs.flatMap (splitRecord k.ty)).foldl (stageOne (Tbl.get dZero c.gens k.hnd) k.hnd) (c.stagedOf k.ctx)
      let d : Chip := { c with staged := Tbl.set dNil c.staged k.ctx st }
      if d.stagingFull k.ctx then .err stNoResource noOfs c else .ok d := by
  unfold bodyObjStage
  rw [hrs]
  dsimp only
  rw [if_neg (by simpa using hne)]

theorem stagingFull_eq_false {c : Chip} {x : Nat} (h1 : stagedBytes (Tbl.get dNil c.staged x) + c.chunkBytes x ≤ 65536)
    (h2 : (c.staged.map (fun e => stagedBytes e.2)).sum + (c.cal.chunks.map (fun e => e.2.length)).sum ≤ 262144) :
    c.stagingFull x = false := by
  simp [Chip.stagingFull, h1, h2]

theorem bodyObjDiscard_done {k : Cmd} (c : Chip) (hp : k.payload = []) :
    bodyObjDiscard k c = .ok { c with staged := Tbl.set dNil c.staged k.ctx [], lives := Tbl.set dNil c.lives k.ctx [] } :=
  if_neg (by simp [hp])

theorem bodyObjCreate_staged {k : Cmd} (c : Chip) (hp : k.payload = []) (hexists : Tbl.get dFalse c.existing k.hnd = false)
    (hstaged : (c.livesOf k.ctx).any (fun x => x.hnd == k.hnd && x.create) = false) :
    bodyObjCreate k c = .ok { c with
      lives := Tbl.set dNil c.lives k.ctx (c.livesOf k.ctx ++ [⟨k.hnd, true, Tbl.get dZero c.gens k.hnd⟩]) } := by
  unfold bodyObjCreate
  dsimp only
  rw [if_neg (by simp [hp]), if_neg (by rw [hexists, hstaged]; decide)]

theorem bodyObjCreate_refused {k : Cmd} (c : Chip) (hp : k.payload = [])
    (h : Tbl.get dFalse c.existing k.hnd = true ∨ (c.livesOf k.ctx).any (fun x => x.hnd == k.hnd && x.create) = true) :
    bodyObjCreate k c = .err stBadObject 8 c := by
  unfold bodyObjCreate
  dsimp only
  rw [if_neg (by simp [hp]), if_pos (by rwa [Bool.or_eq_true])]

theorem bodyObjDelete_absent {k : Cmd} (c : Chip) (hp : k.payload = []) (hexists : Tbl.get dFalse c.existing k.hnd = false)
    (hstaged : (c.livesOf k.ctx).any (fun x => x.hnd == k.hnd && x.create) = false) :
    bodyObjDelete k c = .err stBadObject 8 c := by
  unfold bodyObjDelete
  dsimp only
  rw [if_neg (by simp [hp]), if_neg (by rw [hstaged]; decide), if_pos (by rw [hexists]; rfl)]

theorem bodyObjDelete_staged {k : Cmd} (c : Chip) (hp : k.payload = []) (hexists : Tbl.get dFalse c.existing k.hnd = true)
    (hnone : (c.livesOf k.ctx).any (fun x => x.hnd == k.hnd) = false) :
    bodyObjDelete k c = .ok { c with
      lives := Tbl.set dNil c.lives k.ctx (c.livesOf k.ctx ++ [⟨k.hnd, false, Tbl.get dZero c.gens k.hnd⟩]) } := by
  have hcreate : (c.livesOf k.ctx).any (fun x => x.hnd == k.hnd && x.create) = false := by
    rw [List.any_eq_false] at hnone ⊢
    intro x hx
    simp [hnone x hx]
  unfold bodyObjDelete
  dsimp only
  rw [if_neg (by simp [hp]), if_neg (by rw [hcreate]; decide), if_neg (by rw [hexists, hnone]; decide)]

theorem bodyObjDelete_takenBack {k : Cmd} (c : Chip) (hp : k.payload = [])
    (hstaged : (c.livesOf k.ctx).any (fun x => x.hnd == k.hnd && x.create) = true) :
    bodyObjDelete k c = .ok { c with
      lives := Tbl.set dNil c.lives k.ctx ((c.livesOf k.ctx).filter (fun x => x.hnd != k.hnd))
      staged := Tbl.set dNil c.staged k.ctx ((c.stagedOf k.ctx).filter (fun x => x.hnd != k.hnd)) } := by
  unfold bodyObjDelete
  dsimp only
  rw [if_neg (by simp [hp]), if_pos hstaged]

end Sys2Proof.Machine

namespace Sys2Proof
open Machine

/-- Settles O21. -/
theorem changesAreStaged : Obligations.ChangesAreStaged := by
  refine ⟨fun k s => ⟨?stage, ?discard⟩, fun k s hp => ⟨?create, ?exists_, ?absent, ?delete, ?takenBack⟩⟩
  case stage =>
    intro rs hready hne hrs st c hroom hall
    refine answers_of bodyObjStage hready rfl ((bodyObjStage_of_records hne hrs).trans ?_)
    exact if_neg (by rw [stagingFull_eq_false (c := c) (by rwa [Tbl.get_set_same]) hall]; decide)
  case discard => exact fun hready hp => answers_of bodyObjDiscard hready rfl (bodyObjDiscard_done s.chip hp)
  case create =>
    exact fun hready hexists hstaged => answers_of bodyObjCreate hready rfl (bodyObjCreate_staged s.chip hp hexists hstaged)
  case exists_ => exact fun hready h => ends_of bodyObjCreate hready rfl (bodyObjCreate_refused s.chip hp h)
  case absent =>
    exact fun hready hexists hstaged => ends_of bodyObjDelete hready rfl (bodyObjDelete_absent s.chip hp hexists hstaged)
  case delete =>
    exact fun hready hexists hnone => answers_of bodyObjDelete hready rfl (bodyObjDelete_staged s.chip hp hexists hnone)
  case takenBack => exact fun hready hstaged => answers_of bodyObjDelete hready rfl (bodyObjDelete_takenBack s.chip hp hstaged)

end Sys2Proof

namespace Sys2Proof.Machine

/-! ### Commits -/

theorem refusedWith_frame (c : Chip) (k : Cmd) (st : Nat) : Keeps Field.routed c (c.refusedWith k st) :=
  refusedWith_keeps (.refl _) k st c (.refl c)

/-- OBJ_SET with sound records does what the checks of a commit come to. -/
theorem bodyObjSet_of_records {k : Cmd} {c : Chip} {rs : List (Nat × List Byte)} (hne : k.payload ≠ [])
    (hrs : takeRecords c.fuses.variant k.ty k.inst k.payload (k.payload.length + 1) 0 = .inr rs) {xs : List Change}
    (hxs : xs = (rs.flatMap (splitRecord k.ty)).map (fun r => (⟨k.hnd, r.1, r.2⟩ : Change))) :
    (c.changeChecks [] xs = none → bodyObjSet k c = if c.imageBusy then .err stBusy noOfs c else .ok (c.makeChanges [] xs)) ∧
    (∀ st h, c.changeChecks [] xs = some (st, h) →
      bodyObjSet k c = if lateStatus st && c.imageBusy then .err stBusy noOfs c else .err st noOfs (c.refusedWith k st)) := by
  subst hxs
  constructor
  · intro h
    simp only [bodyObjSet, hrs, h]
    exact if_neg (by simpa using hne)
  · intro st o h
    simp only [bodyObjSet, hrs, h]
    exact if_neg (by simpa using hne)

theorem bodyObjCommit_of_form {k : Cmd} {c : Chip} (hlen : k.payload.length = 4) (h1 : fld k.payload 0 1 ≤ 1)
    (hz : zeroAt k.payload 1 3 = true) {lives : List Life} {xs : List Change}
    (hlives : lives = (c.livesOf k.ctx).map (fun l => (⟨l.hnd, l.create⟩ : Life)))
    (hxs : xs = ((c.stagedOf k.ctx).filter (fun x => !lives.any (fun l => l.hnd == x.hnd && !l.create))).map
      (fun x => (⟨x.hnd, x.attr, x.value⟩ : Change))) :
    (c.imageBusy = true → bodyObjCommit k c = .done stBusy noOfs (leBytes 2 0 ++ leBytes 4 0) c) ∧
    (c.imageBusy = false →
      let bad := firstBad [c.conflict k.ctx, c.notOwned k.ctx (touched lives xs), c.changeChecks lives xs]
      (bad = none → bodyObjCommit k c = if fld k.payload 0 1 == 1 then .okWith (leBytes 2 0 ++ leBytes 4 0) c
        else .okWith (leBytes 2 (touched lives xs).length ++ leBytes 4 0) { c.makeChanges lives xs with
          staged := Tbl.set dNil c.staged k.ctx [], lives := Tbl.set dNil c.lives k.ctx [] }) ∧
      (∀ st h, bad = some (st, h) →
        bodyObjCommit k c = .done st noOfs (leBytes 2 0 ++ leBytes 4 h) (c.refusedWith k st))) := by
  subst hlives hxs
  have h1' : ¬ 1 < fld k.payload 0 1 := by omega
  refine ⟨fun hbusy => ?_, fun hbusy => ⟨fun hbad => ?_, fun st h hbad => ?_⟩⟩
  · simp [bodyObjCommit, hlen, h1', hz, hbusy]
  · simp only [bodyObjCommit, hlen, h1', hz, hbusy, hbad]
    rfl
  · simp only [bodyObjCommit, hlen, h1', hz, hbusy, hbad]
    rfl

end Sys2Proof.Machine

namespace Sys2Proof
open Machine

/-- Settles O22: a refusal leaves the module but for the event that may tell of a power limit. -/
theorem commitsAreAllOrNothing : Obligations.CommitsAreAllOrNothing := by
  refine ⟨?set, ?commit⟩
  case set =>
    intro k s rs hready hne hrs xs
    obtain ⟨hpass, hfail⟩ := bodyObjSet_of_records (c := s.chip) hne hrs (xs := xs) rfl
    refine ⟨?made, ?busy, ?bad⟩
    case made =>
      intro hnone hbusy
      exact answers_of bodyObjSet hready rfl ((hpass hnone).trans (if_neg (by simp [hbusy])))
    case busy =>
      intro hnone hbusy
      exact ends_of bodyObjSet hready rfl ((hpass hnone).trans (if_pos hbusy))
    case bad =>
      intro st h hbad
      have hbody := hfail st h hbad
      by_cases hlate : (lateStatus st && s.chip.imageBusy) = true
      · rw [if_pos hlate] at hbody
        exact ⟨s.chip, stBusy, ends_of bodyObjSet hready rfl hbody, .inr rfl, .refl _⟩
      · rw [if_neg hlate] at hbody
        exact ⟨_, st, ends_of bodyObjSet hready rfl hbody, .inl rfl, .of_keeps (refusedWith_frame s.chip k st)⟩
  case commit =>
    intro k s hready hlen h1 hz
    obtain ⟨hwait, hrun⟩ := bodyObjCommit_of_form (c := s.chip) hlen h1 hz rfl rfl
    refine ⟨fun hbusy => ends_of bodyObjCommit hready rfl (hwait hbusy), fun hbusy => ?_⟩
    intro lives xs bad
    obtain ⟨hpass, hfail⟩ := hrun hbusy
    refine ⟨?made, ?validated, ?refused⟩
    case made =>
      intro hnone hmode
      exact answers_of bodyObjCommit hready rfl ((hpass hnone).trans (if_neg (by simp [hmode])))
    case validated =>
      intro hnone hmode
      exact answers_of bodyObjCommit hready rfl ((hpass hnone).trans (if_pos (by simp [hmode])))
    case refused =>
      intro st h hbad
      exact ⟨_, ends_of bodyObjCommit hready rfl (hfail st h hbad), .of_keeps (refusedWith_frame s.chip k st),
        (refusedWith_frame s.chip k st).staged⟩

end Sys2Proof
end

section
-- One proof after another: side by side, the stacks of their threads reach the check's limit of memory.
set_option Elab.async false
/-! Streams as commands open and close them (R363, R364, R367), and the signal commands (R41, R59, R87, R369). -/

namespace Sys2Proof.Machine

/-! ### The fabric's paths after an operation that leaves the fabric alone -/

section Paths

variable {fs : Nat} {c d : Chip} (h : Keeps fs c d) (hattrs : fs.testBit 5 = false) (hlinks : fs.testBit 30 = false)
  (hfabric : fs.testBit 31 = false)

include h hlinks in
theorem Keeps.upLinks_eq : d.upLinks = c.upLinks := by
  unfold Chip.upLinks
  congr 1
  funext n
  rw [Chip.linkUp, Chip.linkUp, h.link_eq hlinks, h.fuses]

include h hattrs hlinks hfabric in
theorem Keeps.topology_eq : d.topology = c.topology := by
  simp only [Chip.topology, Chip.ownLsa, Chip.ownLinks, Chip.linkCfg, Chip.attrN, h.attr_eq hattrs, h.upLinks_eq hlinks,
    h.link_eq hlinks, h.fabric hfabric, h.fuses]

include h hattrs hlinks hfabric in
theorem Keeps.nextHop_eq (node : Nat) : d.nextHop node = c.nextHop node := by
  simp only [Chip.nextHop, Chip.uidAt, Chip.paths, h.topology_eq hattrs hlinks hfabric, h.upLinks_eq hlinks, h.fabric hfabric, h.fuses]

include h hattrs hlinks hfabric in
theorem Keeps.reaches_eq (node : Nat) : d.reaches node = c.reaches node := by
  simp only [Chip.reaches, h.nextHop_eq hattrs hlinks hfabric, h.fabric hfabric]

end Paths

/-! ### Streams -/

theorem setStream_frame (c : Chip) (i : Nat) (s : StreamSt) : Keeps Field.streams c (c.setStream i s) :=
  setStream_keeps (.refl _) i s c (.refl c)

theorem sendCtrl_stream (c : Chip) (node : Nat) (m : LinkMsg) (j : Nat) : (c.sendCtrl node m).stream j = c.stream j :=
  (sendCtrl_keeps (.refl _) node m c (.refl c)).stream_eq rfl j

theorem subscribeTry_other (c : Chip) (i : Nat) {j : Nat} (h : j ≠ i) : (c.subscribeTry i).stream j = c.stream j := by
  unfold Chip.subscribeTry
  dsimp only
  split
  · rw [sendCtrl_stream, Chip.setStream_other _ _ _ _ h]
  · rw [Chip.setStream_other _ _ _ _ h]

/-- Subscribing begins where a path leads to the source; without one the stream waits in state 4. -/
theorem subscribeTry_state (c : Chip) (i : Nat) (h : (c.stream i).state = 0) :
    ((c.subscribeTry i).stream i).state = if c.reaches (c.srcNode i) then 1 else 4 := by
  unfold Chip.subscribeTry
  dsimp only
  split
  · rw [sendCtrl_stream, Chip.setStream_same]
    simp [h]
  · rw [Chip.setStream_same]

theorem openStream_samePlant (c : Chip) (i : Nat) (ctx : Option Nat) : SamePlant c (c.openStream i ctx) :=
  .of_keeps (openStream_keeps (.refl _) i ctx c (.refl c))

theorem openStream_other (c : Chip) (i : Nat) (ctx : Option Nat) {j : Nat} (h : j ≠ i) :
    (c.openStream i ctx).stream j = c.stream j := by
  unfold Chip.openStream
  dsimp only
  split
  · rw [Chip.setStream_other _ _ _ _ h]
  · rw [subscribeTry_other _ _ h, Chip.setStream_other _ _ _ _ h]

theorem openStream_host {c : Chip} {i : Nat} (ctx : Option Nat) (h : c.isHostStream i = true) :
    ((c.openStream i ctx).stream i).state = 2 ∧ ((c.openStream i ctx).stream i).hostCtx = ctx := by
  unfold Chip.openStream
  dsimp only
  rw [if_pos h, Chip.setStream_same]
  exact ⟨rfl, rfl⟩

theorem openStream_subscribes {c : Chip} {i : Nat} (ctx : Option Nat) (h : c.isHostStream i = false) :
    ((c.openStream i ctx).stream i).state = if c.reaches (c.srcNode i) then 1 else 4 := by
  unfold Chip.openStream
  dsimp only
  rw [if_neg (by simp [h]), subscribeTry_state _ _ (by rw [Chip.setStream_same]),
    (setStream_frame c i _).reaches_eq rfl rfl rfl]
  rfl

theorem closeStream_samePlant (c : Chip) (i : Nat) : SamePlant c (c.closeStream i) :=
  .of_keeps (closeStream_keeps (.refl _) i c (.refl c))

/-- A stream that no other command waits for closes at once. -/
theorem closeStream_state {c : Chip} {i : Nat} (h : (c.stream i).closing = []) : ((c.closeStream i).stream i).state = 0 := by
  unfold Chip.closeStream
  split
  case isTrue hshut => exact beq_iff_eq.mp hshut
  case isFalse =>
    unfold Chip.shutStream
    dsimp only
    rw [h, Chip.endCloses, List.foldl_nil]
    split
    · rw [Chip.setStream_same]
    · rw [sendCtrl_stream, Chip.setStream_same]

theorem bodyStreamOpen_open {k : Cmd} {c : Chip} (hp : k.payload = []) (h : (c.stream k.inst).state ≠ 0) :
    bodyStreamOpen k c = .ok c := by
  simp [bodyStreamOpen, hp, h]

theorem bodyStreamOpen_closed {k : Cmd} {c : Chip} (hp : k.payload = []) (h : (c.stream k.inst).state = 0) :
    bodyStreamOpen k c = .ok (c.openStream k.inst (some k.ctx)) := by
  simp [bodyStreamOpen, hp, h]

theorem bodyStreamClose_now {k : Cmd} {c : Chip} (hp : k.payload = [])
    (h : c.isHostStream k.inst = false ∨ c.changedImages k.inst = [] ∨ (c.stream k.inst).state ≠ 2) :
    bodyStreamClose k c = .ok (c.closeStream k.inst) := by
  obtain h | h | h := h <;> simp [bodyStreamClose, hp, h]

/-- The changes of an open HOST stream go out before it closes (R367). -/
theorem bodyStreamClose_kept {k : Cmd} {c : Chip} (hp : k.payload = []) (hhost : c.isHostStream k.inst = true)
    (hopen : (c.stream k.inst).state = 2) (hchanged : c.changedImages k.inst ≠ []) :
    bodyStreamClose k c = .waiting
      (c.setStream k.inst { c.stream k.inst with closing := (c.stream k.inst).closing ++ [(k.ctx, k.tag)] }) := by
  simp [bodyStreamClose, hp, hhost, hopen, hchanged]

theorem setCmd_stream (c : Chip) (k : Cmd) (j : Nat) : (c.setCmd k).stream j = c.stream j := rfl

end Sys2Proof.Machine

namespace Sys2Proof
open Machine

/-- Settles O23. -/
theorem streamsOpenAndClose : Obligations.StreamsOpenAndClose := by
  intro k s hp
  refine ⟨?isOpen, ?host, ?other, ?close, ?kept⟩
  case isOpen => exact fun hready h => answers_of bodyStreamOpen hready rfl (bodyStreamOpen_open hp h)
  case host =>
    intro hready hclosed hhost
    obtain ⟨hstate, hctx⟩ := openStream_host (some k.ctx) hhost
    exact ⟨_, answers_of bodyStreamOpen hready rfl (bodyStreamOpen_closed hp hclosed), hstate, hctx,
      fun j hj => openStream_other s.chip k.inst _ hj, openStream_samePlant ..⟩
  case other =>
    intro hready hclosed hhost
    exact ⟨_, answers_of bodyStreamOpen hready rfl (bodyStreamOpen_closed hp hclosed), openStream_subscribes _ hhost,
      fun j hj => openStream_other s.chip k.inst _ hj, openStream_samePlant ..⟩
  case close =>
    exact fun hready h => ⟨_, answers_of bodyStreamClose hready rfl (bodyStreamClose_now hp h), closeStream_state,
      closeStream_samePlant ..⟩
  case kept =>
    intro hready hhost hopen hchanged
    refine ⟨_, hready.leads bodyStreamClose rfl (bodyStreamClose_kept hp hhost hopen hchanged), ?_⟩
    simp only [Res.settle, setCmd_stream, Chip.setStream_same, hopen, and_self]

end Sys2Proof

namespace Sys2Proof.Machine

/-! ### Signals -/

theorem bodySignalRead_done {k : Cmd} (c : Chip) (hp : k.payload = []) :
    bodySignalRead k c = .okWith (slotBytes (c.readSlot (bits k.hnd 0 12))) c :=
  if_neg (by simp [hp])

theorem bodySignalForce_done {k : Cmd} (c : Chip) (hlen : k.payload.length = 8) (hz : zeroAt k.payload 4 4 = true) :
    bodySignalForce k c = .ok (c.forceSlot (bits k.hnd 0 12) (BitVec.ofNat 32 (fld k.payload 0 4))) := by
  simp [bodySignalForce, hlen, hz]

theorem bodySignalRelease_done {k : Cmd} (c : Chip) (hp : k.payload = []) :
    bodySignalRelease k c = .ok { c with
      overrides := Tbl.modify dOverride c.overrides (bits k.hnd 0 12) (fun o => { o with forced := false }) } :=
  if_neg (by simp [hp])

theorem forceSlot_slots (c : Chip) (sid : Nat) (v : Word) : (c.forceSlot sid v).slots = Tbl.modify dSlot c.slots sid
    (fun s => { s with
      value := v, stamp := c.stamp, quality := qVALID ||| qFORCED, producer := (c.slot sid).producer, seqno := s.seqno + 1 }) := rfl

theorem forceSlot_overrides (c : Chip) (sid : Nat) (v : Word) :
    (c.forceSlot sid v).overrides = Tbl.modify dOverride c.overrides sid (fun o => { o with forced := true }) := rfl

/-- A command on another node's slot is carried there and waits. -/
theorem relayed_leads {fam op : Nat} {i : Instr} {k : Cmd} {s : State} (body : Cmd → Chip → Res) (h : Relayed fam op k s)
    (hi : exec i s = .next { s with chip := s.chip.runCmd fam op body k.ctx k.tag }) :
    Leads i s ((s.chip.sendPhiveox (bits k.hnd 12 10) k.cls (phiveoxPayload (0xFF00 + k.ctx)
      (packet (k.ver / 256) (k.ver % 256) k.family k.opcode k.tag k.hnd (k.flags % 4) k.deadlineByte k.payload))).setCmd
        { k with phase := .running }) :=
  .of_eq hi (runCmd_relayed h body)

end Sys2Proof.Machine

namespace Sys2Proof
open Machine

/-- Settles O24: a forcing writes its slot and its override; a command for another node is what `relay` sends. -/
theorem signalsAreReadAndForced : Obligations.SignalsAreReadAndForced := by
  refine ⟨fun k s => ⟨?read, ?force, ?release⟩, fun k s => ⟨fun h => relayed_leads bodyObjOwner h rfl,
    fun h => relayed_leads bodySignalRead h rfl, fun h => relayed_leads bodySignalForce h rfl,
    fun h => relayed_leads bodySignalRelease h rfl⟩⟩
  case read => exact fun hready hp => answers_of bodySignalRead hready rfl (bodySignalRead_done s.chip hp)
  case force =>
    intro hready hlen hz
    refine ⟨_, answers_of bodySignalForce hready rfl (bodySignalForce_done s.chip hlen hz), ?_⟩
    simp only [Chip.slot, forceSlot_slots, forceSlot_overrides, Tbl.get_modify_same, true_and]
    exact fun j hj => ⟨Tbl.get_modify_other _ _ _ _ _ hj, Tbl.get_modify_other _ _ _ _ _ hj⟩
  case release =>
    intro hready hp
    refine ⟨_, answers_of bodySignalRelease hready rfl (bodySignalRelease_done s.chip hp), ?_⟩
    simp only [Tbl.get_modify_same, true_and]
    exact fun j hj => Tbl.get_modify_other _ _ _ _ _ hj

end Sys2Proof
end

section
-- One proof after another: side by side, the stacks of their threads reach the check's limit of memory.
set_option Elab.async false
/-! The sequencer and calibration commands (spec/05; R159, R163, R176–R185). -/

namespace Sys2Proof.Machine

/-! ### Sequences -/

@[simp] theorem Chip.setSeq_same (c : Chip) (h : Nat) (s : SeqSt) : (c.setSeq h s).seq h = s := Tbl.get_set_same _ _ _ _

theorem Chip.setSeq_other (c : Chip) {h j : Nat} (s : SeqSt) (hj : j ≠ h) : (c.setSeq h s).seq j = c.seq j :=
  Tbl.get_set_other _ _ _ _ _ hj

theorem setSeq_frame (c : Chip) (h : Nat) (s : SeqSt) : Keeps Field.sampler c (c.setSeq h s) :=
  setSeq_keeps (.refl _) h s c (.refl c)

theorem armSeq_frame (c : Chip) (h : Nat) : Keeps Field.sampler c (c.armSeq h) :=
  armSeq_keeps (.refl _) h c (.refl c)

theorem armSeq_armed (c : Chip) (h : Nat) : ((c.armSeq h).seq h).armed = true := by
  unfold Chip.armSeq
  dsimp only
  split
  case isTrue harmed =>
    split
    · rw [Chip.setSeq_same]; exact harmed
    · exact harmed
  case isFalse => rw [Chip.setSeq_same]

theorem armSeq_other (c : Chip) {h j : Nat} (hj : j ≠ h) : (c.armSeq h).seq j = c.seq j := by
  unfold Chip.armSeq
  dsimp only
  repeat' split
  · exact c.setSeq_other _ hj
  · rfl
  all_goals exact c.setSeq_other _ hj

/-- A head that begins counts its passes and overruns anew. -/
theorem armSeq_counts {c : Chip} {h : Nat} (hoff : (c.seq h).armed = false) :
    ((c.armSeq h).seq h).passes = 0 ∧ ((c.armSeq h).seq h).overruns = 0 := by
  unfold Chip.armSeq
  dsimp only
  rw [if_neg (by simp [hoff]), Chip.setSeq_same]
  exact ⟨rfl, rfl⟩

/-- The heads that would run with one more. -/
abbrev Chip.headsWith (c : Chip) (h : Nat) : List Nat := if c.activeHeads.contains h then c.activeHeads else c.activeHeads ++ [h]

theorem bodySeqStart_runs {k : Cmd} {c : Chip} (hp : k.payload = []) (hhead : seHead (c.seqCtl k.inst) = true)
    (hload : c.overloaded (c.headsWith k.inst) = false) (hrate : c.rateMissing (c.headsWith k.inst) = none)
    (h0 : c.class0Ok k.inst = true) : bodySeqStart k c = .done c.calStatus noOfs [] (c.armSeq k.inst) := by
  unfold bodySeqStart
  dsimp only
  rw [if_neg (by simp [hp]), if_neg (by simp [hhead]), if_neg (by rw [hload]; decide), if_neg (by rw [hrate, h0]; decide)]

theorem bodySeqStop_idle {k : Cmd} {c : Chip} (hp : k.payload = []) (hhead : seHead (c.seqCtl k.inst) = true)
    (hstop : (c.seq k.inst).stopCmd = none) (hrate : c.suppliesRate k.inst = false)
    (hpass : c.sampler.passes.any (fun p => p.head == k.inst) = false) :
    bodySeqStop k c = .ok (c.setSeq k.inst { c.seq k.inst with armed := false, dues := [], waiting := none }) := by
  unfold bodySeqStop
  dsimp only
  rw [if_neg (by simp [hp]), if_neg (by simp [hhead]), if_neg (by simp [hstop, hrate]), if_neg (by simp [hpass])]

theorem bodySeqStop_running {k : Cmd} {c : Chip} (hp : k.payload = []) (hhead : seHead (c.seqCtl k.inst) = true)
    (hstop : (c.seq k.inst).stopCmd = none) (hrate : c.suppliesRate k.inst = false)
    (hpass : c.sampler.passes.any (fun p => p.head == k.inst) = true) :
    bodySeqStop k c = .waiting (c.setSeq k.inst { c.seq k.inst with
      armed := false, dues := [], waiting := none, stopCmd := some (k.ctx, k.tag) }) := by
  unfold bodySeqStop
  dsimp only
  rw [if_neg (by simp [hp]), if_neg (by simp [hhead]), if_neg (by simp [hstop, hrate]), if_pos hpass]

/-- The results after the FRESH bits of the entries `es` are cleared. -/
def clearFresh (es : List Nat) (t : Tbl Word) : Tbl Word :=
  es.foldl (fun t e => Tbl.modify dWord0 t e (fun w => w &&& 0xFFFF7FFF)) t

theorem get_clearFresh (es : List Nat) (t : Tbl Word) (e : Nat) :
    Tbl.get dWord0 (clearFresh es t) e = if e ∈ es then Tbl.get dWord0 t e &&& 0xFFFF7FFF else Tbl.get dWord0 t e := by
  induction es generalizing t with
  | nil => simp [clearFresh]
  | cons x es ih =>
    rw [clearFresh, List.foldl_cons, ← clearFresh, ih]
    by_cases hx : e = x
    · subst hx
      simp only [Tbl.get_modify_same, List.mem_cons_self, if_true, BitVec.and_assoc, BitVec.and_self, ite_self]
    · rw [Tbl.get_modify_other _ _ _ _ _ hx]
      simp [hx]

theorem bodySeqRead_of_form {k : Cmd} (c : Chip) (hlen : k.payload.length = 4) (h1 : 1 ≤ fld k.payload 0 1)
    (h128 : fld k.payload 0 1 ≤ 128) (hend : k.inst + fld k.payload 0 1 ≤ 128) (hmode : fld k.payload 1 1 ≤ 1)
    (hz : zeroAt k.payload 2 2 = true) :
    bodySeqRead k c = .done c.calStatus noOfs
      (((List.range (fld k.payload 0 1)).map (· + k.inst)).map (fun e => leBytes 4 (Tbl.get dWord0 c.sampler.results e).toNat)).flatten
      (if fld k.payload 1 1 == 1 then c.setSampler (fun m => { m with
        results := clearFresh ((List.range (fld k.payload 0 1)).map (· + k.inst)) m.results }) else c) := by
  unfold bodySeqRead
  dsimp only
  rw [if_neg (by simp [hlen]), if_neg (by simp; omega), if_neg (by omega), if_neg (by simp [hz])]
  rfl

/-! ### Calibration -/

theorem calCaptureBody_starts (span : Bool) {k : Cmd} {c : Chip} (hlen : k.payload.length = 8) (h1 : fld k.payload 0 1 ≤ 1)
    (hz : zeroAt k.payload 1 3 = true) (hactive : c.portActive k.inst = true)
    (hzero : span = false → c.heldFull (2 * k.inst + fld k.payload 0 1) (c.channelRange (2 * k.inst + fld k.payload 0 1)) = false)
    (hspan : span = true → c.cal.write = none ∧
      (c.heldZero (2 * k.inst + fld k.payload 0 1) (c.channelRange (2 * k.inst + fld k.payload 0 1))).isSome = true) :
    calCaptureBody span k c = .accepted
      (c.startCapture k (2 * k.inst + fld k.payload 0 1) (c.channelRange (2 * k.inst + fld k.payload 0 1)) span) := by
  unfold calCaptureBody
  dsimp only
  rw [if_neg (by simp [hlen]), if_neg (by omega), if_neg (by simp [hz])]
  cases span with
  | false =>
    rw [if_neg (by simp), if_neg (by simp [hactive]), if_neg (by simp), if_neg (by simp [hzero rfl])]
  | true =>
    obtain ⟨hwrite, hheld⟩ := hspan rfl
    rw [if_neg (by simp [hwrite]), if_neg (by simp [hactive]), if_neg (by rw [Option.isSome_iff_ne_none] at hheld; simp [hheld]),
      if_neg (by simp)]

theorem startCapture_frame (c : Chip) (k : Cmd) (ch range : Nat) (span : Bool) :
    Keeps Field.cal c (c.startCapture k ch range span) :=
  startCapture_keeps (.refl _) k ch range span c (.refl c)

theorem bodyCalRead_of_valid {k : Cmd} {c : Chip} (hlen : k.payload.length = 4) (h1 : 1 ≤ fld k.payload 2 2)
    (h4072 : fld k.payload 2 2 ≤ 4072) (hend : fld k.payload 0 2 + fld k.payload 2 2 ≤ 4932) (hwrite : c.cal.write = none)
    (hvalid : c.cal.valid = true) :
    bodyCalRead k c = .okWith (leBytes 2 (fld k.payload 0 2) ++ leBytes 2 (fld k.payload 2 2) ++
      slice (calImage c.dCal c.cal.store) (fld k.payload 0 2) (fld k.payload 2 2)) c := by
  unfold bodyCalRead
  dsimp only
  rw [if_neg (by simp [hlen]), if_neg (by simp; omega), if_neg (by omega), if_neg (by simp [hwrite]), if_neg (by simp [hvalid])]

/-- The chunks of a session with the chunk that a CAL_WRITE brings. -/
abbrev Chip.withChunk (c : Chip) (k : Cmd) : Tbl (Option Byte) :=
  Tbl.setRun dNone (c.calChunks k.ctx) (fld k.payload 2 2) ((k.payload.drop 4).map some)

/-- The module with those chunks. -/
abbrev Chip.keepChunk (c : Chip) (k : Cmd) : Chip :=
  c.setCal (fun m => { m with chunks := Tbl.set dNil m.chunks k.ctx (c.withChunk k) })

section CalWrite

variable {k : Cmd} {c : Chip} (h5 : 5 ≤ k.payload.length) (h4080 : k.payload.length ≤ 4080)
  (hz : zeroAt k.payload 1 1 = true) (hend : fld k.payload 2 2 + (k.payload.length - 4) ≤ 4932) (hwrite : c.cal.write = none)

include h5 h4080 hz hend hwrite

theorem calWriteBody_full (hmode : fld k.payload 0 1 ≤ 1) (hfull : (c.keepChunk k).stagingFull k.ctx = true) : calWriteBody k c = .err stNoResource noOfs c := by
  unfold calWriteBody
  dsimp only
  rw [if_neg (by simp; omega), if_neg (by omega), if_neg (by simp [hz]), if_neg (by omega), if_neg (by simp [hwrite]),
    if_pos hfull]

theorem calWriteBody_part (hroom : (c.keepChunk k).stagingFull k.ctx = false) (hpart : fld k.payload 0 1 = 0) :
    calWriteBody k c = .acceptedDone stOK noOfs [] (c.keepChunk k) := by
  unfold calWriteBody
  dsimp only
  rw [if_neg (by simp; omega), if_neg (by omega), if_neg (by simp [hz]), if_neg (by omega), if_neg (by simp [hwrite]),
    if_neg (by rw [hroom]; decide), if_pos (by simp [hpart])]

theorem calWriteBody_bad (hroom : (c.keepChunk k).stagingFull k.ctx = false) (hlast : fld k.payload 0 1 = 1) {o : Nat}
    (hbad : c.calSetBad (c.withChunk k) = some o) : calWriteBody k c = .badParam (chunkErr k.payload o) c := by
  unfold calWriteBody
  dsimp only
  rw [if_neg (by simp; omega), if_neg (by omega), if_neg (by simp [hz]), if_neg (by omega), if_neg (by simp [hwrite]),
    if_neg (by rw [hroom]; decide), if_neg (by simp [hlast]), hbad]

theorem calWriteBody_last (hroom : (c.keepChunk k).stagingFull k.ctx = false) (hlast : fld k.payload 0 1 = 1)
    (hgood : c.calSetBad (c.withChunk k) = none) :
    calWriteBody k c = .accepted (((c.keepChunk k).setCal (fun s => { s with chunks := Tbl.set dNil s.chunks k.ctx [] })).startWrite
      ⟨k.ctx, k.tag, 6, 0, c.chunkSet (c.withChunk k), []⟩) := by
  unfold calWriteBody
  dsimp only
  rw [if_neg (by simp; omega), if_neg (by omega), if_neg (by simp [hz]), if_neg (by omega), if_neg (by simp [hwrite]),
    if_neg (by rw [hroom]; decide), if_neg (by simp [hlast]), hgood]

end CalWrite

/-- A store write that begins takes the store out of validity, erases it and keeps the set in force (R182). -/
theorem startWrite_cal (c : Chip) (w : StoreWrite) :
    (c.startWrite w).cal.marker = none ∧ (c.startWrite w).cal.write = some w ∧
      (c.startWrite w).cal.working = c.cal.working ∧ (c.startWrite w).cal.store = erasedSet c.dCal := by
  unfold Chip.startWrite Chip.commitCmd
  generalize erasedSet c.dCal = e
  split <;> exact ⟨rfl, rfl, rfl, rfl⟩

theorem startWrite_frame (c : Chip) (w : StoreWrite) : Keeps (Field.cmds ||| Field.cal) c (c.startWrite w) :=
  startWrite_keeps (.refl _) w c (.refl c)

end Sys2Proof.Machine

namespace Sys2Proof
open Machine

/-- Settles O25: per command the branch its conditions choose, and what that operation writes of the sequences and the store. -/
theorem samplerTakesCommands : Obligations.SamplerTakesCommands := by
  refine ⟨fun k s => ⟨?start, ?stop, ?kept, ?read⟩, fun k s => ⟨?zero, ?span, ?calRead, ?calWrite⟩⟩
  case start =>
    intro hready hp hhead hload hrate h0
    exact ⟨_, ends_of bodySeqStart hready rfl (bodySeqStart_runs hp hhead hload hrate h0), armSeq_armed s.chip k.inst,
      fun j hj => armSeq_other s.chip hj, .of_keeps (armSeq_frame s.chip k.inst), armSeq_counts⟩
  case stop =>
    intro hready hp hhead hstop hrate hpass
    refine ⟨_, answers_of bodySeqStop hready rfl (bodySeqStop_idle hp hhead hstop hrate hpass), ?_, ?_,
      fun j hj => s.chip.setSeq_other _ hj, .of_keeps (setSeq_frame ..)⟩
    · rw [Chip.setSeq_same]
    · rw [Chip.setSeq_same]
  case kept =>
    intro hready hp hhead hstop hrate hpass
    refine ⟨_, hready.leads bodySeqStop rfl (bodySeqStop_running hp hhead hstop hrate hpass), ?_, ?_,
      fun j hj => s.chip.setSeq_other _ hj, rfl⟩
    · exact congrArg SeqSt.armed (Chip.setSeq_same ..)
    · exact congrArg SeqSt.stopCmd (Chip.setSeq_same ..)
  case read =>
    intro hready hlen h1 h128 hend hmode hz es
    refine ⟨_, ends_of bodySeqRead hready rfl (bodySeqRead_of_form s.chip hlen h1 h128 hend hmode hz), fun hm => ?_, fun hm => ?_⟩
    · exact if_neg (by simp [hm])
    · exact ⟨clearFresh es s.chip.sampler.results, if_pos (by simp [hm]), get_clearFresh es s.chip.sampler.results⟩
  case zero =>
    intro hready hlen h1 hz hactive hfull
    have hbody : bodyCalZero k s.chip = _ := congrArg (calRes 3 (2 * k.inst + fld k.payload 0 1 % 2))
      (calCaptureBody_starts false hlen h1 hz hactive (fun _ => hfull) (fun h => by cases h))
    exact ⟨_, starts_of bodyCalZero hready rfl hbody, rfl, rfl, .of_keeps (startCapture_frame ..)⟩
  case span =>
    intro hready hlen h1 hz hwrite hactive hheld
    have hbody : bodyCalSpan k s.chip = _ := congrArg (calRes 4 (2 * k.inst + fld k.payload 0 1 % 2))
      (calCaptureBody_starts true hlen h1 hz hactive (fun h => by cases h) (fun _ => ⟨hwrite, hheld⟩))
    exact ⟨_, starts_of bodyCalSpan hready rfl hbody, rfl, rfl, .of_keeps (startCapture_frame ..)⟩
  case calRead =>
    exact fun hready hlen h1 h4072 hend hwrite hvalid =>
      answers_of bodyCalRead hready rfl (bodyCalRead_of_valid hlen h1 h4072 hend hwrite hvalid)
  case calWrite =>
    intro hready h5 h4080 hz hend hwrite t c1
    refine ⟨fun hmode hfull => ?full, fun hmode hroom => ?part, fun o hmode hroom hbad => ?bad, fun hmode hroom hgood => ?last⟩
    case full =>
      exact ends_of bodyCalWrite hready rfl (congrArg (calRes 6 0) (calWriteBody_full h5 h4080 hz hend hwrite hmode hfull))
    case part =>
      exact hready.leads bodyCalWrite rfl
        (congrArg (calRes 6 0) (calWriteBody_part h5 h4080 hz hend hwrite hroom hmode))
    case bad =>
      exact ends_of bodyCalWrite hready rfl
        (congrArg (calRes 6 0) (calWriteBody_bad h5 h4080 hz hend hwrite hroom hmode hbad))
    case last =>
      have hbody : bodyCalWrite k s.chip = _ :=
        congrArg (calRes 6 0) (calWriteBody_last h5 h4080 hz hend hwrite hroom hmode hgood)
      refine ⟨_, starts_of bodyCalWrite hready rfl hbody, ?_⟩
      obtain ⟨hmarker, hw, hworking, hstore⟩ := startWrite_cal
        ((s.chip.keepChunk k).setCal (fun m => { m with chunks := Tbl.set dNil m.chunks k.ctx [] }))
        ⟨k.ctx, k.tag, 6, 0, s.chip.chunkSet (s.chip.withChunk k), []⟩
      exact ⟨hmarker, hw, hworking, hstore, .of_keeps (fs := Field.cmds ||| Field.cal)
        (startWrite_keeps (.refl _) _ _ (setCal_keeps (.of rfl) _ _ (setCal_keeps (.of rfl) _ _ (.refl _))))⟩

end Sys2Proof
end

section
-- One proof after another: side by side, the stacks of their threads reach the check's limit of memory.
set_option Elab.async false
/-! The group, bridge, damper, valve and fan commands (spec/06, spec/07; R206–R213, R224–R249). -/

namespace Sys2Proof.Machine

/-! ### What the plant reads after an event has fired -/

section Fire

variable (c : Chip) (e x : Nat)

@[simp] theorem Chip.fire_slot (j : Nat) : (c.fire e x).slot j = c.slot j := (fire_frame c e x).slot_eq rfl j
@[simp] theorem Chip.fire_group (j : Nat) : (c.fire e x).group j = c.group j := (fire_frame c e x).group_eq rfl j
@[simp] theorem Chip.fire_bridge (j : Nat) : (c.fire e x).bridge j = c.bridge j := (fire_frame c e x).bridge_eq rfl j
@[simp] theorem Chip.fire_motor (j : Nat) : (c.fire e x).motor j = c.motor j := (fire_frame c e x).motor_eq rfl j
@[simp] theorem Chip.fire_valve (j : Nat) : (c.fire e x).valve j = c.valve j := (fire_frame c e x).valve_eq rfl j
@[simp] theorem Chip.fire_fan (j : Nat) : (c.fire e x).fan j = c.fan j := (fire_frame c e x).fan_eq rfl j
@[simp] theorem Chip.fire_port (j : Nat) : (c.fire e x).port j = c.port j := (fire_frame c e x).port_eq rfl j
@[simp] theorem Chip.fire_zone (j : Nat) : (c.fire e x).zone j = c.zone j := (fire_frame c e x).zone_eq rfl j
@[simp] theorem Chip.fire_panel (j : Nat) : (c.fire e x).panel j = c.panel j := (fire_frame c e x).panel_eq rfl j
@[simp] theorem Chip.fire_link (j : Nat) : (c.fire e x).link j = c.link j := (fire_frame c e x).link_eq rfl j
@[simp] theorem Chip.fire_stream (j : Nat) : (c.fire e x).stream j = c.stream j := (fire_frame c e x).stream_eq rfl j
@[simp] theorem Chip.fire_canOf (j : Nat) : (c.fire e x).canOf j = c.canOf j := (fire_frame c e x).canOf_eq rfl j
@[simp] theorem Chip.fire_seq (j : Nat) : (c.fire e x).seq j = c.seq j := (fire_frame c e x).seq_eq rfl j
@[simp] theorem Chip.fire_attr (ty i a : Nat) : (c.fire e x).attr ty i a = c.attr ty i a := (fire_frame c e x).attr_eq rfl ty i a

end Fire

/-! ### Groups and bridges -/

/-- A group that stops is in the state named, with no setting waiting and no halt. -/
theorem stopMotors_group (c : Chip) (k codeBit : Nat) (g : GroupSet) (j : Nat) : (c.stopMotors k codeBit g).group j = c.group j :=
  (stopMotors_keeps (.refl _) k codeBit g c (.refl c)).group_eq rfl j

theorem orphan_group_other (c : Chip) {k j : Nat} (hj : j ≠ k) : (c.orphan k).group j = c.group j := by
  unfold Chip.orphan
  dsimp only
  split
  · exact c.setGroup_other _ _ _ hj
  · rfl

theorem stopGroup_group (c : Chip) (k codeBit : Nat) (st : GroupState) :
    ((c.stopGroup k codeBit st).group k).state = st ∧ ((c.stopGroup k codeBit st).group k).queued = [] ∧
      ((c.stopGroup k codeBit st).group k).haltKind = 0 := by
  unfold Chip.stopGroup
  dsimp only
  repeat' split
  all_goals simp [stopMotors_group, orphan_group_other]

theorem forceSafe_group (c : Chip) (k cause : Nat) :
    ((c.forceSafe k cause).group k).state = .safe ∧ ((c.forceSafe k cause).group k).cause = cause := by
  unfold Chip.forceSafe
  simp only [Chip.setGroup_same]
  exact ⟨(stopGroup_group c k 11 .safe).1, trivial⟩

theorem motorResume_frame (c : Chip) (n : Nat) : Keeps (Field.mgt ||| Field.motors) c (c.motorResume n) :=
  motorResume_keeps (.refl _) n c (.refl c)

/-- What starts with a group: the fans and the motors on its ports. -/
abbrev Chip.resumePorts (l : List Nat) (c : Chip) : Chip := l.foldl (fun x n => (x.fanGroupRuns n).motorResume n) c

theorem resumePorts_frame (l : List Nat) (c : Chip) :
    Keeps (Field.routed ||| Field.clk ||| Field.rtc ||| Field.mgt ||| Field.motors ||| Field.fans) c (c.resumePorts l) :=
  foldl_keeps (fun d n => motorResume_keeps (.of rfl) n _ (fanGroupRuns_keeps (.of rfl) n d (.refl d))) (.refl _)

/-- The bridges of a group that starts, with no trip counted and no cut. -/
abbrev Chip.freshBridges (l : List Nat) (c : Chip) : Chip :=
  l.foldl (fun x n => x.setBridge n { x.bridge n with trips := [], cutAt := none, off := none, cleared := none }) c

theorem freshBridges_trips (l : List Nat) (c : Chip) {n : Nat} (h : n ∈ l ∨ (c.bridge n).trips = []) :
    ((c.freshBridges l).bridge n).trips = [] := by
  induction l generalizing c with
  | nil => simpa using h
  | cons m l ih =>
    refine ih _ ?_
    by_cases hn : n = m
    · subst hn
      exact .inr (by simp)
    · rw [Chip.setBridge_other _ _ _ _ hn]
      simpa [hn] using h

theorem freshBridges_frame (l : List Nat) (c : Chip) : Keeps Field.bridges c (c.freshBridges l) :=
  foldl_keeps (fun d n => setBridge_keeps (.refl _) n _ d (.refl d)) (.refl _)

theorem enableGroup_group (c : Chip) (k : Nat) : ((c.enableGroup k).group k).state = .run ∧
    ∀ j, j ≠ k → (c.enableGroup k).group j = c.group j := by
  refine ⟨?_, fun j hj => ?_⟩ <;> unfold Chip.enableGroup <;> dsimp only <;>
    rw [(resumePorts_frame (groupPorts k) _).group_eq rfl, (freshBridges_frame (groupPorts k) _).group_eq rfl]
  · rw [Chip.setGroup_same]
  · rw [Chip.setGroup_other _ _ _ _ hj]

theorem enableGroup_trips (c : Chip) {k n : Nat} (hn : n ∈ groupPorts k) : ((c.enableGroup k).bridge n).trips = [] := by
  unfold Chip.enableGroup
  dsimp only
  rw [(resumePorts_frame (groupPorts k) _).bridge_eq rfl]
  exact freshBridges_trips _ _ (.inl hn)

theorem enableGroup_frame (c : Chip) (k : Nat) :
    Keeps (Field.routed ||| Field.clk ||| Field.rtc ||| Field.groups ||| Field.bridges ||| Field.motors ||| Field.fans) c (c.enableGroup k) :=
  enableGroup_keeps (.refl _) k c (.refl c)

section GroupEnable

variable {k : Cmd} {c : Chip} (hp : k.payload = [])

include hp

theorem bodyGroupEnable_running (h : (c.group k.inst).state = .run) : bodyGroupEnable k c = .ok c := by
  simp [bodyGroupEnable, hp, h]

theorem bodyGroupEnable_busy (hrun : (c.group k.inst).state ≠ .run)
    (h : c.islandHeld = true ∨ (c.group k.inst).haltKind ≠ 0) : bodyGroupEnable k c = .err stBusy noOfs c := by
  simp [bodyGroupEnable, hp, hrun, h]

theorem bodyGroupEnable_justSafe (hheld : c.islandHeld = false) (hhalt : (c.group k.inst).haltKind = 0)
    (hsafe : (c.group k.inst).safeAt = some c.clk.now) : bodyGroupEnable k c = .ok c := by
  simp [bodyGroupEnable, hp, hheld, hhalt, hsafe]

theorem bodyGroupEnable_starts (hrun : (c.group k.inst).state ≠ .run) (hheld : c.islandHeld = false)
    (hhalt : (c.group k.inst).haltKind = 0) (hsafe : (c.group k.inst).safeAt ≠ some c.clk.now) :
    bodyGroupEnable k c = .ok (c.enableGroup k.inst) := by
  simp [bodyGroupEnable, hp, hrun, hheld, hhalt, hsafe]

theorem bodyTripClear_latchedNow (hl : (c.bridge k.inst).latched = true) (ha : (c.bridge k.inst).latchAt = some c.clk.now) :
    bodyTripClear k c = .ok (c.latchEvent k.inst) := by
  simp [bodyTripClear, hp, hl, ha]

theorem bodyTripClear_clears (h : (c.bridge k.inst).latched = false ∨ (c.bridge k.inst).latchAt ≠ some c.clk.now) :
    bodyTripClear k c = .ok ((c.setBridge k.inst { c.bridge k.inst with
      latched := false, trips := [], off := if (c.bridge k.inst).latched then some (c.channelPeriod k.inst) else (c.bridge k.inst).off
      cleared := some (c.clk.now, (c.bridge k.inst).trips) }).motorResume k.inst) := by
  unfold bodyTripClear
  dsimp only
  rw [if_neg (by simp [hp]), if_neg (by rcases h with h | h <;> simp [h])]

end GroupEnable

theorem latchEvent_frame (c : Chip) (n : Nat) : Keeps Field.routed c (c.latchEvent n) := latchEvent_keeps (.refl _) n c (.refl c)

/-! ### Moves of a motor -/

/-- A leg that starts is `mv`'s: its phase and times may differ, not what the move is for. -/
structure SameMove (mv nv : Move) : Prop where
  kind : nv.kind = mv.kind
  target : nv.target = mv.target
  cmd : nv.cmd = mv.cmd
  rehome : nv.rehome = mv.rehome

theorem driveLeg_motor (c : Chip) (n : Nat) (mv : Move) : ∃ nv, ((c.driveLeg n mv).motor n).move = some nv ∧ SameMove mv nv ∧
    ((c.driveLeg n mv).motor n).command = (c.motor n).command := by
  unfold Chip.driveLeg
  rw [Chip.setMotor_same]
  exact ⟨_, rfl, ⟨rfl, rfl, rfl, rfl⟩, rfl⟩

theorem startLeg_motor (c : Chip) (n : Nat) (mv : Move) (pause : Bool) : ∃ nv, ((c.startLeg n mv pause).motor n).move = some nv ∧
    SameMove mv nv ∧ ((c.startLeg n mv pause).motor n).command = (c.motor n).command := by
  unfold Chip.startLeg
  dsimp only
  generalize (pause || _) = dwell
  cases dwell with
  | true =>
    rw [if_pos rfl, Chip.setMotor_same]
    exact ⟨_, rfl, ⟨rfl, rfl, rfl, rfl⟩, rfl⟩
  | false => exact driveLeg_motor c n mv

theorem startLeg_motor_other (c : Chip) (n : Nat) (mv : Move) (pause : Bool) {j : Nat} (hj : j ≠ n) :
    (c.startLeg n mv pause).motor j = c.motor j := by
  unfold Chip.startLeg Chip.driveLeg
  dsimp only
  generalize (pause || _) = dwell
  cases dwell <;> exact c.setMotor_other _ _ _ hj

theorem keepRecord_motor (c : Chip) (n : Nat) (valid : Bool) (j : Nat) : (c.keepRecord n valid).motor j = c.motor j :=
  (keepRecord_keeps (.refl _) n valid c (.refl c)).motor_eq rfl j

theorem beginMove_motor (c : Chip) (n : Nat) (kind : MoveKind) (target : Nat) (cmd : Option (Nat × Nat)) (pause : Bool) :
    ∃ mv, ((c.beginMove n kind target cmd pause).motor n).move = some mv ∧ mv.kind = kind ∧ mv.target = target ∧ mv.cmd = cmd ∧
      mv.rehome = (kind != .move) ∧ ((c.beginMove n kind target cmd pause).motor n).command = (c.motor n).command := by
  unfold Chip.beginMove
  dsimp only
  split
  · rw [Chip.setMotor_same]
    exact ⟨_, rfl, rfl, rfl, rfl, rfl, rfl⟩
  · obtain ⟨nv, hmove, ⟨hkind, htarget, hcmd, hrehome⟩, hcommand⟩ := startLeg_motor (c.keepRecord n false) n _ pause
    exact ⟨nv, hmove, hkind, htarget, hcmd, hrehome, hcommand.trans (by rw [keepRecord_motor])⟩

theorem beginMove_motor_other (c : Chip) (n : Nat) (kind : MoveKind) (target : Nat) (cmd : Option (Nat × Nat)) (pause : Bool)
    {j : Nat} (hj : j ≠ n) : (c.beginMove n kind target cmd pause).motor j = c.motor j := by
  unfold Chip.beginMove
  dsimp only
  split
  · exact (Chip.setMotor_other _ _ _ _ hj).trans (keepRecord_motor c n false j)
  · exact (startLeg_motor_other _ n _ pause hj).trans (keepRecord_motor c n false j)

theorem followTarget_motor_other (c : Chip) (n : Nat) {j : Nat} (hj : j ≠ n) : (c.followTarget n).motor j = c.motor j := by
  unfold Chip.followTarget
  dsimp only
  split
  · split
    · exact beginMove_motor_other _ _ _ _ _ _ hj
    · rfl
  · rfl

theorem produceOpt_motor (c : Chip) (sid : Option Nat) (v : Int) (q : Half) (t i j : Nat) :
    (c.produceOpt sid v q t i).motor j = c.motor j :=
  (produceOpt_keeps (.refl _) sid v q t i c (.refl c)).motor_eq rfl j

theorem finishTag_motor (c : Chip) (x t st o : Nat) (data : List Byte) (j : Nat) : (c.finishTag x t st o data).motor j = c.motor j :=
  (finishTag_keeps (.refl _) x t st o data c (.refl c)).motor_eq rfl j

/-- Writing the position changes no motor but for the time of the write. -/
theorem writePosition_motor (c : Chip) (n : Nat) : ∃ t, (c.writePosition n).motor n = { c.motor n with posWritten := t } := by
  unfold Chip.writePosition
  repeat' split
  · rw [produceOpt_motor, Chip.setMotor_same]
    exact ⟨_, rfl⟩
  all_goals exact ⟨(c.motor n).posWritten, rfl⟩

theorem writePosition_motor_other (c : Chip) (n : Nat) {j : Nat} (hj : j ≠ n) : (c.writePosition n).motor j = c.motor j := by
  unfold Chip.writePosition
  repeat' split
  · rw [produceOpt_motor, Chip.setMotor_other _ _ _ _ hj]
  all_goals rfl

/-- The module when a move has ended and its command is answered, before a rehoming that is due or a target that has changed. -/
def Chip.moveEnded (n outcome : Nat) (mv : Move) (c : Chip) : Chip :=
  let c1 := (c.setMotor n { c.motor n with move := none, outcome := outcome, overriding := false }).keepRecord n (c.motor n).known
  let c2 := (c1.writePosition n).fire 60 (n + 128 * c1.valveBit n + 256 * outcome + 65536 * c1.posField n)
  match mv.cmd with
  | some (x, t) => c2.finishTag x t stOK noOfs (c2.moveReply n outcome)
  | none => c2

theorem endMove_of_move {c : Chip} {n : Nat} (outcome : Nat) {mv : Move} (h : (c.motor n).move = some mv) :
    c.endMove n outcome =
      if (c.motor n).intervalDue && !mv.rehome then
        ((c.moveEnded n outcome mv).setMotor n { (c.moveEnded n outcome mv).motor n with intervalDue := false }).beginMove n .near mv.target none true
      else if outcome == 0 && (c.moveEnded n outcome mv).motorTarget n != some mv.target then (c.moveEnded n outcome mv).followTarget n
      else c.moveEnded n outcome mv := by
  unfold Chip.endMove
  dsimp only
  rw [h]
  unfold Chip.moveEnded
  rfl

theorem moveEnded_motor (c : Chip) (n outcome : Nat) (mv : Move) : ∃ t, (c.moveEnded n outcome mv).motor n =
    { c.motor n with move := none, outcome := outcome, overriding := false, posWritten := t } := by
  obtain ⟨t, ht⟩ := writePosition_motor
    ((c.setMotor n { c.motor n with move := none, outcome := outcome, overriding := false }).keepRecord n (c.motor n).known) n
  rw [keepRecord_motor, Chip.setMotor_same] at ht
  refine ⟨t, ?_⟩
  unfold Chip.moveEnded
  dsimp only
  split
  · rw [finishTag_motor, Chip.fire_motor, ht]
  · rw [Chip.fire_motor, ht]

theorem moveEnded_motor_other (c : Chip) (n outcome : Nat) (mv : Move) {j : Nat} (hj : j ≠ n) :
    (c.moveEnded n outcome mv).motor j = c.motor j := by
  have h := writePosition_motor_other
    ((c.setMotor n { c.motor n with move := none, outcome := outcome, overriding := false }).keepRecord n (c.motor n).known) n hj
  rw [keepRecord_motor, Chip.setMotor_other _ _ _ _ hj] at h
  unfold Chip.moveEnded
  dsimp only
  split
  · rw [finishTag_motor, Chip.fire_motor, h]
  · rw [Chip.fire_motor, h]

theorem endMove_motor_other (c : Chip) (n outcome : Nat) {j : Nat} (hj : j ≠ n) : (c.endMove n outcome).motor j = c.motor j := by
  cases hmove : (c.motor n).move with
  | none => simp only [Chip.endMove, hmove]
  | some mv =>
    have hended := moveEnded_motor_other c n outcome mv hj
    rw [endMove_of_move outcome hmove]
    repeat' split
    · rw [beginMove_motor_other _ _ _ _ _ _ hj, Chip.setMotor_other _ _ _ _ hj, hended]
    · rw [followTarget_motor_other _ _ hj, hended]
    · exact hended

/-- A move is ended for another: the motor is at rest, where it stood, and no other motor has changed. -/
theorem supersede_motor (c : Chip) (n : Nat) : ((c.supersede n).2.motor n).move = none ∧
    ((c.supersede n).2.motor n).count = (c.motor n).count ∧ ((c.supersede n).2.motor n).cps = (c.motor n).cps ∧
    ((c.supersede n).2.motor n).measured = (c.motor n).measured ∧ ∀ j, j ≠ n → (c.supersede n).2.motor j = c.motor j := by
  unfold Chip.supersede
  cases hmove : (c.motor n).move with
  | none => exact ⟨by simpa using hmove, rfl, rfl, rfl, fun _ _ => rfl⟩
  | some mv =>
    simp only [Option.isSome_some, if_true]
    have hmv : ((c.setMotor n { c.motor n with intervalDue := false }).motor n).move = some mv := by
      rw [Chip.setMotor_same]; exact hmove
    obtain ⟨t, ht⟩ := moveEnded_motor (c.setMotor n { c.motor n with intervalDue := false }) n 8 mv
    have hend : (c.setMotor n { c.motor n with intervalDue := false }).endMove n 8 =
        (c.setMotor n { c.motor n with intervalDue := false }).moveEnded n 8 mv := by
      rw [endMove_of_move 8 hmv, Chip.setMotor_same]
      rfl
    refine ⟨?_, ?_, ?_, ?_, fun j hj => ?_⟩
    · rw [hend, ht]
    · rw [hend, ht, Chip.setMotor_same]
    · rw [hend, ht, Chip.setMotor_same]
    · rw [hend, ht, Chip.setMotor_same]
    · rw [endMove_motor_other _ _ _ hj, Chip.setMotor_other _ _ _ _ hj]

theorem supersede_attr (c : Chip) (n ty i a : Nat) : (c.supersede n).2.attr ty i a = c.attr ty i a :=
  (supersede_keeps (.refl _) n c (.refl c)).attr_eq rfl ty i a

/-- Whether a target is beyond the deadband turns on the attributes and the motor's count and stroke. -/
theorem beyondDeadband_congr {c d : Chip} {n : Nat} (hattr : ∀ ty i a, d.attr ty i a = c.attr ty i a)
    (hcount : (d.motor n).count = (c.motor n).count) (hcps : (d.motor n).cps = (c.motor n).cps)
    (hmeasured : (d.motor n).measured = (c.motor n).measured) (t : Nat) : d.beyondDeadband n t = c.beyondDeadband n t := by
  have hcfg : d.motorCfg n = c.motorCfg n := by
    unfold Chip.motorCfg Chip.damperBound Chip.attrN
    simp only [hattr]
  unfold Chip.beyondDeadband Chip.motorCount Chip.targetCount Chip.motorCps
  rw [hcfg, hcount, hcps, hmeasured]

/-- The module with the motor's move superseded and a new target commanded. -/
def Chip.commandMove (n t : Nat) (c : Chip) : Chip :=
  (c.supersede n).2.setMotor n { (c.supersede n).2.motor n with command := some t, overriding := true }

theorem commandMove_beyondDeadband (c : Chip) (n t : Nat) : (c.commandMove n t).beyondDeadband n t = c.beyondDeadband n t := by
  obtain ⟨-, hcount, hcps, hmeasured, -⟩ := supersede_motor c n
  refine beyondDeadband_congr (c := c) (d := c.commandMove n t) (fun ty i a => supersede_attr c n ty i a) ?_ ?_ ?_ t
  · rw [Chip.commandMove, Chip.setMotor_same]; exact hcount
  · rw [Chip.commandMove, Chip.setMotor_same]; exact hcps
  · rw [Chip.commandMove, Chip.setMotor_same]; exact hmeasured

theorem commandMove_motor_other (c : Chip) (n t : Nat) {j : Nat} (hj : j ≠ n) : (c.commandMove n t).motor j = c.motor j :=
  (Chip.setMotor_other _ _ _ _ hj).trans ((supersede_motor c n).2.2.2.2 j hj)

/-- The module after a DAMPER_MOVE to where the damper stands. -/
def Chip.commandRest (n t : Nat) (c : Chip) : Chip :=
  ((c.commandMove n t).setMotor n { (c.commandMove n t).motor n with overriding := false, outcome := 0 }).fire 60
    (n + 65536 * (c.commandMove n t).posField n)

section DamperMove

variable {k : Cmd} {c : Chip} (hlen : k.payload.length = 8) (ht : fld k.payload 0 4 ≤ 0x10000) (hz : zeroAt k.payload 4 4 = true)

include hlen ht hz

theorem bodyDamperMove_busy (h : c.damperBound k.inst = false ∨ (c.motor k.inst).known = false) :
    bodyDamperMove k c = .err stBusy noOfs c := by
  unfold bodyDamperMove
  dsimp only
  rw [if_neg (by simp [hlen]), if_neg (by omega), if_neg (by simp [hz]), if_pos (by rcases h with h | h <;> simp [h])]

variable (hbound : c.damperBound k.inst = true) (hknown : (c.motor k.inst).known = true)

include hbound hknown

theorem bodyDamperMove_of_known : bodyDamperMove k c =
    if (c.commandMove k.inst (fld k.payload 0 4)).beyondDeadband k.inst (fld k.payload 0 4) then
      .accepted ((c.commandMove k.inst (fld k.payload 0 4)).beginMove k.inst .move (fld k.payload 0 4)
        (some (k.ctx, k.tag)) (c.supersede k.inst).1)
    else .acceptedDone stOK noOfs ((c.commandRest k.inst (fld k.payload 0 4)).moveReply k.inst 0)
      (c.commandRest k.inst (fld k.payload 0 4)) := by
  unfold bodyDamperMove
  dsimp only
  rw [if_neg (by simp [hlen]), if_neg (by omega), if_neg (by simp [hz]), if_neg (by simp [hbound, hknown])]
  rfl

theorem bodyDamperMove_moves (h : c.beyondDeadband k.inst (fld k.payload 0 4) = true) :
    bodyDamperMove k c = .accepted ((c.commandMove k.inst (fld k.payload 0 4)).beginMove k.inst .move (fld k.payload 0 4)
      (some (k.ctx, k.tag)) (c.supersede k.inst).1) := by
  rw [bodyDamperMove_of_known hlen ht hz hbound hknown, commandMove_beyondDeadband, h, if_pos rfl]

theorem bodyDamperMove_rests (h : c.beyondDeadband k.inst (fld k.payload 0 4) = false) :
    bodyDamperMove k c = .acceptedDone stOK noOfs ((c.commandRest k.inst (fld k.payload 0 4)).moveReply k.inst 0)
      (c.commandRest k.inst (fld k.payload 0 4)) := by
  rw [bodyDamperMove_of_known hlen ht hz hbound hknown, commandMove_beyondDeadband, h, if_neg (by decide)]

end DamperMove

theorem commandRest_motor (c : Chip) (n t : Nat) : ((c.commandRest n t).motor n).move = none ∧
    ((c.commandRest n t).motor n).command = some t ∧ ∀ j, j ≠ n → (c.commandRest n t).motor j = c.motor j := by
  unfold Chip.commandRest
  refine ⟨?_, ?_, fun j hj => ?_⟩
  · rw [Chip.fire_motor, Chip.setMotor_same, Chip.commandMove, Chip.setMotor_same]
    exact (supersede_motor c n).1
  · rw [Chip.fire_motor, Chip.setMotor_same, Chip.commandMove, Chip.setMotor_same]
  · rw [Chip.fire_motor, Chip.setMotor_other _ _ _ _ hj, commandMove_motor_other c n t hj]

section DamperRehome

variable {k : Cmd} {c : Chip} (hlen : k.payload.length = 4) (hmode : fld k.payload 0 1 ≤ 1) (hz : zeroAt k.payload 1 3 = true)

include hlen hmode hz

theorem bodyDamperRehome_busy (h : c.damperBound k.inst = false) : bodyDamperRehome k c = .err stBusy noOfs c := by
  unfold bodyDamperRehome
  dsimp only
  rw [if_neg (by simp [hlen]), if_neg (by omega), if_neg (by simp [hz]), if_pos (by simp [h])]

theorem bodyDamperRehome_starts (h : c.damperBound k.inst = true) :
    bodyDamperRehome k c = .accepted ((c.supersede k.inst).2.beginMove k.inst (if fld k.payload 0 1 = 0 then .fullClose else .near)
      (((c.supersede k.inst).2.motorTarget k.inst).getD 0) (some (k.ctx, k.tag)) (c.supersede k.inst).1) := by
  unfold bodyDamperRehome
  dsimp only
  rw [if_neg (by simp [hlen]), if_neg (by omega), if_neg (by simp [hz]), if_neg (by simp [h])]
  simp only [beq_iff_eq]

end DamperRehome

/-! ### Valves and fans -/

/-- The command of valve `n` stands, and no other valve has changed. -/
structure ValveCommandKept (n : Nat) (c d : Chip) : Prop where
  command : (d.valve n).command = (c.valve n).command
  others : ∀ j, j ≠ n → d.valve j = c.valve j

theorem ValveCommandKept.refl (n : Nat) (c : Chip) : ValveCommandKept n c c := ⟨rfl, fun _ _ => rfl⟩

theorem ValveCommandKept.trans {n : Nat} {a b c : Chip} (h : ValveCommandKept n a b) (h' : ValveCommandKept n b c) :
    ValveCommandKept n a c :=
  ⟨h'.command.trans h.command, fun j hj => (h'.others j hj).trans (h.others j hj)⟩

theorem ValveCommandKept.of_keeps {fs n : Nat} {c d : Chip} (h : Keeps fs c d) (hn : fs.testBit 37 = false := by rfl) :
    ValveCommandKept n c d :=
  ⟨by rw [h.valve_eq hn], fun j _ => h.valve_eq hn j⟩

theorem ValveCommandKept.setValve (n : Nat) (c : Chip) (s : ValveSt) (h : s.command = (c.valve n).command) :
    ValveCommandKept n c (c.setValve n s) :=
  ⟨by rw [Chip.setValve_same, h], fun _ hj => c.setValve_other _ _ _ hj⟩

theorem startFloat_commandKept (c : Chip) (n : Nat) (opening : Bool) (dt : Nat) (toEnd : Bool) :
    ValveCommandKept n c (c.startFloat n opening dt toEnd) := by
  unfold Chip.startFloat
  dsimp only
  repeat' split
  all_goals exact .setValve n c _ rfl

theorem followFloat_commandKept (c : Chip) (n : Nat) : ValveCommandKept n c (c.followFloat n) := by
  unfold Chip.followFloat
  dsimp only
  split
  · exact .refl n c
  split
  · split
    · exact startFloat_commandKept ..
    split
    · exact startFloat_commandKept ..
    · exact .refl n c
  · exact iteInduction (motive := fun d => ValveCommandKept n c d) (fun _ => .refl n c) (fun _ => startFloat_commandKept ..)

theorem stopFloat_commandKept (c : Chip) (n : Nat) : ValveCommandKept n c (c.stopFloat n) := by
  unfold Chip.stopFloat
  dsimp only
  split
  · exact .refl n c
  · exact .setValve n c _ rfl

theorem applyFloat_commandKept (c : Chip) (n v : Nat) : ValveCommandKept n c (c.applyFloat n v) := by
  unfold Chip.applyFloat
  split
  · exact followFloat_commandKept c n
  · exact (stopFloat_commandKept c n).trans ((ValveCommandKept.setValve n _ _ (by rfl)).trans (followFloat_commandKept _ n))

theorem applyThermal_commandKept (c : Chip) (n v : Nat) : ValveCommandKept n c (c.applyThermal n v) := by
  unfold Chip.applyThermal
  refine (ValveCommandKept.setValve n c _ ?_).trans (.of_keeps (writeEstimate_keeps (.refl _) n _ (.refl _)))
  split
  · rfl
  · split <;> rfl

theorem checkValve_commandKept (c : Chip) (n : Nat) : ValveCommandKept n c (c.checkValve n) := by
  unfold Chip.checkValve
  dsimp only
  split
  · exact .refl n c
  split
  · exact applyThermal_commandKept c n _
  split
  · exact .setValve n c _ rfl
  split
  · exact (ValveCommandKept.setValve n c _ (by rfl)).trans (.of_keeps (followTarget_keeps (.refl _) n _ (.refl _)))
  · exact applyFloat_commandKept c n _

/-- The command of fan `n` stands, and no other fan has changed. -/
structure FanCommandKept (n : Nat) (c d : Chip) : Prop where
  command : (d.fan n).command = (c.fan n).command
  others : ∀ j, j ≠ n → d.fan j = c.fan j

theorem FanCommandKept.refl (n : Nat) (c : Chip) : FanCommandKept n c c := ⟨rfl, fun _ _ => rfl⟩

theorem FanCommandKept.trans {n : Nat} {a b c : Chip} (h : FanCommandKept n a b) (h' : FanCommandKept n b c) :
    FanCommandKept n a c :=
  ⟨h'.command.trans h.command, fun j hj => (h'.others j hj).trans (h.others j hj)⟩

theorem FanCommandKept.setFan (n : Nat) (c : Chip) (s : FanSt) (h : s.command = (c.fan n).command) :
    FanCommandKept n c (c.setFan n s) :=
  ⟨by rw [Chip.setFan_same, h], fun _ hj => c.setFan_other _ _ _ hj⟩

theorem fanActs_commandKept (c : Chip) (n : Nat) : FanCommandKept n c (c.fanActs n) := by
  unfold Chip.fanActs
  dsimp only
  split
  · exact .refl n c
  split
  · exact .setFan n c _ rfl
  split
  · exact .setFan n c _ rfl
  · exact .refl n c

theorem noteLowered_commandKept (c : Chip) (n before : Nat) : FanCommandKept n c (c.noteLowered n before) := by
  unfold Chip.noteLowered
  split
  · exact .setFan n c _ rfl
  · exact .refl n c

theorem checkFan_commandKept (c : Chip) (n : Nat) : FanCommandKept n c (c.checkFan n) := by
  have hacts : ∀ s : FanSt, s.command = (c.fan n).command →
      FanCommandKept n c (((c.setFan n s).fanActs n).noteLowered n (c.fanF n)) := fun s hs =>
    (FanCommandKept.setFan n c s hs).trans ((fanActs_commandKept _ n).trans (noteLowered_commandKept _ n _))
  unfold Chip.checkFan
  dsimp only
  split
  · exact .refl n c
  split
  · exact (hacts { c.fan n with applied := (c.fanCommand n).1, sensor := (c.fanCommand n).2 } rfl).trans
      ⟨by rw [Chip.fire_fan], fun j _ => Chip.fire_fan _ _ _ j⟩
  · exact hacts _ rfl

theorem bodyValveSet_busy {k : Cmd} {c : Chip} (hlen : k.payload.length = 4) (hv : fld k.payload 0 4 ≤ 0x10000)
    (h : (sidOf (c.attrN tyValve k.inst 2)).isSome = true) : bodyValveSet k c = .err stBusy noOfs c := by
  unfold bodyValveSet
  dsimp only
  rw [if_neg (by simp [hlen]), if_neg (by omega), if_pos h]

theorem bodyValveSet_sets {k : Cmd} {c : Chip} (hlen : k.payload.length = 4) (hv : fld k.payload 0 4 ≤ 0x10000)
    (h : sidOf (c.attrN tyValve k.inst 2) = none) : bodyValveSet k c =
      .ok ((c.setValve k.inst { c.valve k.inst with command := some (fld k.payload 0 4) }).checkValve k.inst) := by
  unfold bodyValveSet
  dsimp only
  rw [if_neg (by simp [hlen]), if_neg (by omega), if_neg (by simp [h])]

theorem bodyFanSet_busy {k : Cmd} {c : Chip} (hlen : k.payload.length = 4) (hv : fld k.payload 0 4 ≤ 0x10000)
    (h : (sidOf (c.attrN tyFan k.inst 6)).isSome = true ∨ bit (c.attrN tyFan k.inst 1) 4 = true) :
    bodyFanSet k c = .err stBusy noOfs c := by
  unfold bodyFanSet
  dsimp only
  rw [if_neg (by simp [hlen]), if_neg (by omega), if_pos (by simpa using h)]

theorem bodyFanSet_sets {k : Cmd} {c : Chip} (hlen : k.payload.length = 4) (hv : fld k.payload 0 4 ≤ 0x10000)
    (h : sidOf (c.attrN tyFan k.inst 6) = none) (hcurve : bit (c.attrN tyFan k.inst 1) 4 = false) : bodyFanSet k c =
      .ok ((c.setFan k.inst { c.fan k.inst with command := some (fld k.payload 0 4) }).checkFan k.inst) := by
  unfold bodyFanSet
  dsimp only
  rw [if_neg (by simp [hlen]), if_neg (by omega), if_neg (by simp [h, hcurve])]

/-! ### ACT_FAULT_CLEAR -/

/-- What ACT_FAULT_CLEAR does to the actuator it names. -/
def Chip.clearFaults (k : Cmd) (c : Chip) : Chip :=
  if k.ty = tyDamper then if c.damperBound k.inst then c.clearMotorFaults k.inst else c
  else if k.ty = tyFan then if c.fanBound k.inst then c.clearFanFaults k.inst else c
  else
    if (c.clearValveFaults k.inst).rippleValve k.inst then (c.clearValveFaults k.inst).clearMotorFaults k.inst
    else c.clearValveFaults k.inst

theorem bodyActFaultClear_clears {k : Cmd} (c : Chip) (hp : k.payload = []) : bodyActFaultClear k c = .ok (c.clearFaults k) := by
  unfold bodyActFaultClear Chip.clearFaults
  simp only [hp, List.length_nil, bne_self_eq_false, Bool.false_eq_true, if_false, beq_iff_eq]
  repeat' split
  all_goals rfl

theorem clearMotorFaults_frame (c : Chip) (n : Nat) : Keeps Field.motors c (c.clearMotorFaults n) :=
  clearMotorFaults_keeps (.refl _) n c (.refl c)

theorem clearMotorFaults_now {c : Chip} {n : Nat} (h : (c.motor n).faultAt = some c.clk.now) : c.clearMotorFaults n = c :=
  if_pos (by simp [h])

theorem clearMotorFaults_motor {c : Chip} {n : Nat} (h : (c.motor n).faultAt ≠ some c.clk.now) :
    ((c.clearMotorFaults n).motor n).jam = false ∧ ((c.clearMotorFaults n).motor n).openLoad = false := by
  rw [Chip.clearMotorFaults, if_neg (by simp [h]), Chip.setMotor_same]
  exact ⟨rfl, rfl⟩

theorem clearFanFaults_now {c : Chip} {n : Nat} (h : (c.fan n).faultAt = some c.clk.now) : c.clearFanFaults n = c := by
  simp [Chip.clearFanFaults, h]

/-- A fan out of its fault acts on its command: it does not fall back into the fault. -/
theorem fanActs_state {c : Chip} {n : Nat} (h : (c.fan n).state ≠ .stall ∧ (c.fan n).state ≠ .tachLost) :
    ((c.fanActs n).fan n).state ≠ .stall ∧ ((c.fanActs n).fan n).state ≠ .tachLost := by
  unfold Chip.fanActs Chip.fanStart
  dsimp only
  split
  · exact h
  split
  · simp
  split
  · simp
  · exact h

theorem noteLowered_state (c : Chip) (n before : Nat) : ((c.noteLowered n before).fan n).state = (c.fan n).state := by
  unfold Chip.noteLowered
  split
  · rw [Chip.setFan_same]
  · rfl

theorem clearFanFaults_state {c : Chip} {n : Nat} (h : (c.fan n).faultAt ≠ some c.clk.now) :
    ((c.clearFanFaults n).fan n).state ≠ .stall ∧ ((c.clearFanFaults n).fan n).state ≠ .tachLost := by
  unfold Chip.clearFanFaults
  dsimp only
  split
  case isTrue =>
    rw [noteLowered_state]
    exact fanActs_state (by simp)
  case isFalse hno => simpa [h] using hno

theorem clearValveFaults_frame (c : Chip) (n : Nat) : Keeps Field.valves c (c.clearValveFaults n) :=
  clearValveFaults_keeps (.refl _) n c (.refl c)

theorem clearValveFaults_now {c : Chip} {n : Nat} (h : (c.valve n).faultAt = some c.clk.now) : c.clearValveFaults n = c :=
  if_pos (by simp [h])

theorem clearValveFaults_valve {c : Chip} {n : Nat} (h : (c.valve n).faultAt ≠ some c.clk.now) :
    ((c.clearValveFaults n).valve n).fault = false := by
  rw [Chip.clearValveFaults, if_neg (by simp [h]), Chip.setValve_same]

theorem clearFaults_damper {c : Chip} {k : Cmd} (hty : k.ty = tyDamper) (hb : c.damperBound k.inst = true) :
    c.clearFaults k = c.clearMotorFaults k.inst := by
  simp [Chip.clearFaults, hty, hb]

theorem clearFaults_fan {c : Chip} {k : Cmd} (hty : k.ty = tyFan) (hb : c.fanBound k.inst = true) :
    c.clearFaults k = c.clearFanFaults k.inst := by
  rw [Chip.clearFaults, if_neg (by rw [hty]; decide), if_pos hty, if_pos hb]

/-- The valve's faults are cleared whether or not its motor's are too. -/
theorem clearFaults_valve {c : Chip} {k : Cmd} (hd : k.ty ≠ tyDamper) (hf : k.ty ≠ tyFan) :
    (c.clearFaults k).valves = (c.clearValveFaults k.inst).valves ∧ (c.clearFaults k).fans = (c.clearValveFaults k.inst).fans := by
  rw [Chip.clearFaults, if_neg hd, if_neg hf]
  split
  · exact ⟨(clearMotorFaults_frame _ k.inst).valves, (clearMotorFaults_frame _ k.inst).fans⟩
  · exact ⟨rfl, rfl⟩

end Sys2Proof.Machine

namespace Sys2Proof
open Machine

/-- Settles O26: per command the branch its conditions choose, and what that operation does to its own group, bridge, motor, valve
or fan and leaves of the others. -/
theorem drivesTakeCommands : Obligations.DrivesTakeCommands := by
  refine ⟨fun k s hp => ⟨?enable, ?enabled, ?held, ?disable, ?safe, ?clear, ?justLatched⟩,
    fun k s => ⟨?move, ?moveBusy, ?rehome, ?rehomeBusy, ?valve, ?valveBusy, ?fan, ?fanBusy, ?faults⟩⟩
  case enable =>
    intro hready hrun hheld hhalt hsafe
    have hgroup := enableGroup_group s.chip k.inst
    exact ⟨_, answers_of bodyGroupEnable hready rfl (bodyGroupEnable_starts hp hrun hheld hhalt hsafe), hgroup.1, hgroup.2,
      fun n hn => enableGroup_trips s.chip hn, (enableGroup_frame s.chip k.inst).attrs, (enableGroup_frame s.chip k.inst).ports⟩
  case enabled =>
    intro hready h
    refine answers_of bodyGroupEnable hready rfl ?_
    rcases h with hrun | ⟨hheld, hhalt, hsafe⟩
    · exact bodyGroupEnable_running hp hrun
    · exact bodyGroupEnable_justSafe hp hheld hhalt hsafe
  case held =>
    exact fun hready h hrun => ends_of bodyGroupEnable hready rfl (bodyGroupEnable_busy hp hrun h)
  case disable =>
    intro hready
    have hbody : bodyGroupDisable k s.chip = .ok (s.chip.stopGroup k.inst 10 .disabled) := if_neg (by simp [hp])
    obtain ⟨hstate, hqueued, hhalt⟩ := stopGroup_group s.chip k.inst 10 .disabled
    exact ⟨_, answers_of bodyGroupDisable hready rfl hbody, hstate, hqueued, hhalt,
      (stopGroup_keeps (.refl _) k.inst 10 .disabled s.chip (.refl _)).attrs⟩
  case safe =>
    intro hready
    have hbody : bodyGroupSafe k s.chip = .ok (s.chip.groupSafe k.inst (isMgtCtx k.ctx)) := if_neg (by simp [hp])
    refine ⟨_, answers_of bodyGroupSafe hready rfl hbody, ?_⟩
    cases isMgtCtx k.ctx with
    | true =>
      obtain ⟨hstate, hcause⟩ := forceSafe_group s.chip k.inst 4
      have howner := setOwner_ownerIsMgt (s.chip.forceSafe k.inst 4) (handle tyGroup k.inst) true true (handle tyGroup k.inst)
      have hgroup := (setOwner_keeps (.refl _) (handle tyGroup k.inst) true true _ (.refl (s.chip.forceSafe k.inst 4))).group_eq rfl k.inst
      simp only [Chip.groupSafe, if_true, Chip.fire_group, hgroup]
      refine ⟨hstate, hcause, fun _ => ?_⟩
      rw [Chip.ownerIsMgt, Chip.fire_owners]
      exact howner.trans (if_pos rfl)
    | false =>
      obtain ⟨hstate, hcause⟩ := forceSafe_group s.chip k.inst 3
      exact ⟨hstate, hcause, fun h => by cases h⟩
  case clear =>
    intro hready h
    refine ⟨_, answers_of bodyTripClear hready rfl (bodyTripClear_clears hp h), ?_, ?_, fun j hj => ?_, ?_⟩
    · rw [(motorResume_frame _ k.inst).bridge_eq rfl, Chip.setBridge_same]
    · rw [(motorResume_frame _ k.inst).bridge_eq rfl, Chip.setBridge_same]
    · rw [(motorResume_frame _ k.inst).bridge_eq rfl, Chip.setBridge_other _ _ _ _ hj]
    · rw [(motorResume_frame _ k.inst).groups]; rfl
  case justLatched =>
    intro hready hl ha
    exact ⟨_, answers_of bodyTripClear hready rfl (bodyTripClear_latchedNow hp hl ha), (latchEvent_frame s.chip k.inst).bridges,
      (latchEvent_frame s.chip k.inst).groups⟩
  case move =>
    intro hready hlen ht hz hbound hknown
    refine ⟨fun h => ?_, fun h => ?_⟩
    · obtain ⟨mv, hmove, hkind, htarget, hcmd, -, hcommand⟩ := beginMove_motor (s.chip.commandMove k.inst (fld k.payload 0 4)) k.inst
        .move (fld k.payload 0 4) (some (k.ctx, k.tag)) (s.chip.supersede k.inst).1
      refine ⟨_, mv, starts_of bodyDamperMove hready rfl (bodyDamperMove_moves hlen ht hz hbound hknown h), hmove, hkind, htarget, hcmd,
        hcommand.trans ?_, fun j hj => ?_⟩
      · rw [Chip.commandMove, Chip.setMotor_same]
      · rw [beginMove_motor_other _ _ _ _ _ _ hj, commandMove_motor_other _ _ _ hj]
    · exact ⟨_, hready.leads bodyDamperMove rfl (bodyDamperMove_rests hlen ht hz hbound hknown h), commandRest_motor s.chip k.inst _⟩
  case moveBusy =>
    exact fun hready hlen ht hz h => ends_of bodyDamperMove hready rfl (bodyDamperMove_busy hlen ht hz h)
  case rehome =>
    intro hready hlen hmode hz hbound
    obtain ⟨mv, hmove, hkind, -, -, hrehome, -⟩ := beginMove_motor (s.chip.supersede k.inst).2 k.inst
      (if fld k.payload 0 1 = 0 then .fullClose else .near) (((s.chip.supersede k.inst).2.motorTarget k.inst).getD 0)
      (some (k.ctx, k.tag)) (s.chip.supersede k.inst).1
    refine ⟨_, mv, starts_of bodyDamperRehome hready rfl (bodyDamperRehome_starts hlen hmode hz hbound), hmove, hkind, ?_, fun j hj => ?_⟩
    · rw [hrehome]
      split <;> rfl
    · rw [beginMove_motor_other _ _ _ _ _ _ hj, (supersede_motor s.chip k.inst).2.2.2.2 j hj]
  case rehomeBusy =>
    exact fun hready hlen hmode hz h => ends_of bodyDamperRehome hready rfl (bodyDamperRehome_busy hlen hmode hz h)
  case valve =>
    intro hready hlen hv h
    have hkept := checkValve_commandKept (s.chip.setValve k.inst { s.chip.valve k.inst with command := some (fld k.payload 0 4) }) k.inst
    have hframe := checkValve_keeps (.refl _) k.inst _
      (.refl (s.chip.setValve k.inst { s.chip.valve k.inst with command := some (fld k.payload 0 4) }))
    exact ⟨_, answers_of bodyValveSet hready rfl (bodyValveSet_sets hlen hv h), hkept.command.trans (by rw [Chip.setValve_same]),
      fun j hj => (hkept.others j hj).trans (Chip.setValve_other _ _ _ _ hj), hframe.fans, hframe.groups⟩
  case valveBusy =>
    exact fun hready hlen hv h => ends_of bodyValveSet hready rfl (bodyValveSet_busy hlen hv h)
  case fan =>
    intro hready hlen hv h hcurve
    have hkept := checkFan_commandKept (s.chip.setFan k.inst { s.chip.fan k.inst with command := some (fld k.payload 0 4) }) k.inst
    have hframe := checkFan_keeps (.refl _) k.inst _
      (.refl (s.chip.setFan k.inst { s.chip.fan k.inst with command := some (fld k.payload 0 4) }))
    exact ⟨_, answers_of bodyFanSet hready rfl (bodyFanSet_sets hlen hv h hcurve), hkept.command.trans (by rw [Chip.setFan_same]),
      fun j hj => (hkept.others j hj).trans (Chip.setFan_other _ _ _ _ hj), hframe.valves, hframe.groups⟩
  case fanBusy =>
    exact fun hready hlen hv h => ends_of bodyFanSet hready rfl (bodyFanSet_busy hlen hv h)
  case faults =>
    intro hready hp
    refine ⟨_, answers_of bodyActFaultClear hready rfl (bodyActFaultClear_clears s.chip hp), fun hty hb hnow => ?_, fun hty h => ?_,
      fun hty hb hnow => ?_, fun hty h => ?_, fun hd hf hnow => ?_, fun hd hf hnow => ?_⟩
    · rw [clearFaults_damper hty hb]
      exact ⟨(clearMotorFaults_motor hnow).1, (clearMotorFaults_motor hnow).2, (clearMotorFaults_frame s.chip k.inst).valves,
        (clearMotorFaults_frame s.chip k.inst).fans⟩
    · cases hb : s.chip.damperBound k.inst with
      | true => rw [clearFaults_damper hty hb, clearMotorFaults_now (by simpa [hb] using h)]
      | false => simp [Chip.clearFaults, hty, hb]
    · rw [clearFaults_fan hty hb]
      have hframe := clearFanFaults_keeps (.refl _) k.inst s.chip (.refl _)
      exact ⟨(clearFanFaults_state hnow).1, (clearFanFaults_state hnow).2, hframe.valves, hframe.motors⟩
    · cases hb : s.chip.fanBound k.inst with
      | true => rw [clearFaults_fan hty hb, clearFanFaults_now (by simpa [hb] using h)]
      | false => rw [Chip.clearFaults, if_neg (by rw [hty]; decide), if_pos hty, if_neg (by simp [hb])]
    · obtain ⟨hvalves, hfans⟩ := clearFaults_valve (c := s.chip) hd hf
      refine ⟨?_, hfans.trans (clearValveFaults_frame s.chip k.inst).fans⟩
      rw [Chip.valve, hvalves]
      exact clearValveFaults_valve hnow
    · exact (clearFaults_valve (c := s.chip) hd hf).1.trans (by rw [clearValveFaults_now hnow])

end Sys2Proof
end

section
-- One proof after another: side by side, the stacks of their threads reach the check's limit of memory.
set_option Elab.async false
/-! The loop and zone commands (spec/08, spec/09; R263–R266, R277, R283, R289, R292–R299). -/

namespace Sys2Proof.Machine

/-! ### Loops -/

theorem setLoop_samePlant (c : Chip) (l : Nat) (s : LoopSt) : SamePlant c (c.setLoop l s) :=
  .of_keeps (setLoop_keeps (.refl _) l s c (.refl c))

theorem enableLoop_enabled {c : Chip} {l : Nat} (h : (c.loop l).enabled = true) : c.enableLoop l = c := if_pos h

/-- A loop that starts has no state of an earlier run, and keeps its alarm. -/
theorem enableLoop_stopped {c : Chip} {l : Nat} (h : (c.loop l).enabled = false) :
    ((c.enableLoop l).loop l).enabled = true ∧ ((c.enableLoop l).loop l).words = [] ∧ ((c.enableLoop l).loop l).starved = 0 ∧
      ((c.enableLoop l).loop l).skipped = 0 ∧ ((c.enableLoop l).loop l).alarm = (c.loop l).alarm ∧
      ((c.enableLoop l).loop l).nextDue = some c.clk.transit ∧ (∀ j, j ≠ l → (c.enableLoop l).loop j = c.loop j) ∧
      SamePlant c (c.enableLoop l) := by
  unfold Chip.enableLoop
  dsimp only
  rw [if_neg (by simp [h]), Chip.setLoop_same]
  exact ⟨rfl, rfl, rfl, rfl, rfl, rfl, fun j hj => c.setLoop_other _ _ _ hj, setLoop_samePlant ..⟩

/-- A loop that stops keeps its bank. -/
theorem disableLoop_loop (c : Chip) (l : Nat) : ((c.disableLoop l).loop l).enabled = false ∧
    ((c.disableLoop l).loop l).trigs = [] ∧ ((c.disableLoop l).loop l).bank = (c.loop l).bank ∧
    ∀ j, j ≠ l → (c.disableLoop l).loop j = c.loop j := by
  have hset : ∀ j, (c.disableLoop l).loop j = (c.setLoop l { c.loop l with
      enabled := false, trigs := [], nextDue := Option.none, pending := Option.none, candidate := Option.none }).loop j := fun _ => rfl
  rw [hset, Chip.setLoop_same]
  exact ⟨rfl, rfl, rfl, fun j hj => (hset j).trans (c.setLoop_other _ _ _ hj)⟩

theorem disableLoop_samePlant (c : Chip) (l : Nat) : SamePlant c (c.disableLoop l) :=
  .of_keeps (disableLoop_keeps (.refl _) l c (.refl c))

theorem bodyBankSwap_swaps {k : Cmd} (c : Chip) (hlen : k.payload.length = 4) (hb : fld k.payload 0 1 ≤ 2)
    (hz : zeroAt k.payload 1 3 = true) : bodyBankSwap k c = .ok (c.setLoop k.inst { c.loop k.inst with
      swap := some (if fld k.payload 0 1 == 2 then !((c.loop k.inst).swap.getD (c.loop k.inst).bank) else fld k.payload 0 1 == 1) }) := by
  unfold bodyBankSwap
  dsimp only
  rw [if_neg (by simp [hlen]), if_neg (by omega), if_neg (by simp [hz])]

theorem bodyIntegratorPreset_presets {k : Cmd} {c : Chip} (hlen : k.payload.length = 8)
    (hn : fld k.payload 0 2 < (c.loopNodes k.inst).length) (hop : nodeOp ((c.loopNodes k.inst).getD (fld k.payload 0 2) 0) = 3)
    (hz : zeroAt k.payload 2 2 = true) : bodyIntegratorPreset k c = .ok (c.setLoop k.inst { c.loop k.inst with
      presets := (c.loop k.inst).presets.filter (fun x => x.1 != fld k.payload 0 2) ++ [(fld k.payload 0 2, fldI32 k.payload 4)] }) := by
  unfold bodyIntegratorPreset
  dsimp only
  rw [if_neg (by simp [hlen]), if_neg (by simp only [hn, hop, decide_true, Bool.not_true, bne_self_eq_false, Bool.or_self]; decide),
    if_neg (by simp [hz])]

/-- The newest entry of a key is the one that is found when the others of the key have gone. -/
theorem find?_filter_append_self {β : Type} (l : List (Nat × β)) (n : Nat) (v : β) :
    (l.filter (fun x => x.1 != n) ++ [(n, v)]).find? (fun x => x.1 == n) = some (n, v) := by
  have hnone : (l.filter (fun x => x.1 != n)).find? (fun x => x.1 == n) = none := by simp
  rw [List.find?_append, hnone]
  simp

/-! ### Zones -/

theorem startFit_zone (c : Chip) (z : Nat) : ((c.startFit z).zone z).fit.isSome = true ∧
    (∀ j, j ≠ z → (c.startFit z).zone j = c.zone j) ∧ (c.startFit z).slots = c.slots := by
  unfold Chip.startFit
  exact ⟨by rw [Chip.setZone_same]; rfl, fun j hj => c.setZone_other _ _ _ hj, rfl⟩

section PredictStart

variable {k : Cmd} {c : Chip} (hlen : k.payload.length = 8) (hmode : fld k.payload 4 1 = 1 ∨ fld k.payload 4 1 = 2)
  (hz : zeroAt k.payload 5 1 = true) (h1 : 1 ≤ fld k.payload 6 2) (h720 : fld k.payload 6 2 ≤ 720)
  (hboost : (c.boostOf k.inst (decide (fld k.payload 4 1 = 1))).1 ≤ 5)

include hlen hmode hz h1 h720 hboost

theorem bodyPredictStart_of_form : bodyPredictStart k c = if !c.zoneEn k.inst then .err stBusy noOfs c
    else .waiting { c with predictions := c.predictions ++
      [⟨k.inst, fldI32 k.payload 0, decide (fld k.payload 4 1 = 1), fld k.payload 6 2, some (k.ctx, k.tag), (0, 0, 0)⟩] } := by
  have hbeq : (fld k.payload 4 1 == 1) = decide (fld k.payload 4 1 = 1) := by
    rcases hmode with h | h <;> rw [h] <;> rfl
  unfold bodyPredictStart
  dsimp only
  rw [hbeq, if_neg (by simp [hlen]), if_neg (by rcases hmode with h | h <;> simp [h]), if_neg (by simp [hz]),
    if_neg (by simp; omega), if_neg (by omega)]

end PredictStart

/-- A zone that is suspected tracks again, its run of exceedances forgotten; another stays as it is. -/
theorem endSuspect_of_not {c : Chip} {z : Nat} (reason : Nat) (takeY : Bool) (h : (c.zone z).model ≠ .suspect) :
    c.endSuspect z reason takeY = c := by
  simp [Chip.endSuspect, h]

theorem endSuspect_suspect {c : Chip} {z : Nat} (reason : Nat) (takeY : Bool) (h : (c.zone z).model = .suspect) :
    ((c.endSuspect z reason takeY).zone z).model = .tracking ∧ ((c.endSuspect z reason takeY).zone z).runStart = none ∧
      ∀ j, j ≠ z → (c.endSuspect z reason takeY).zone j = c.zone j := by
  have hsub : ∀ (d : Chip) (j : Nat), (d.substitute z false).zone j = d.zone j := fun d j =>
    (substitute_keeps (.refl _) z false d (.refl d)).zone_eq rfl j
  unfold Chip.endSuspect
  dsimp only
  rw [if_neg (by simp [h])]
  simp only [Chip.fire_zone, hsub, Chip.setZone_same]
  exact ⟨trivial, trivial, fun j hj => c.setZone_other _ _ _ hj⟩

theorem endSuspect_model (c : Chip) (z reason : Nat) (takeY : Bool) : ((c.endSuspect z reason takeY).zone z).model ≠ .suspect := by
  by_cases h : (c.zone z).model = .suspect
  · rw [(endSuspect_suspect reason takeY h).1]; decide
  · rw [endSuspect_of_not reason takeY h]; exact h

theorem endSuspect_other (c : Chip) (z reason : Nat) (takeY : Bool) {j : Nat} (hj : j ≠ z) :
    (c.endSuspect z reason takeY).zone j = c.zone j := by
  by_cases h : (c.zone z).model = .suspect
  · exact (endSuspect_suspect reason takeY h).2.2 j hj
  · rw [endSuspect_of_not reason takeY h]

end Sys2Proof.Machine

namespace Sys2Proof
open Machine

/-- Settles O27: per command the loop or zone it writes, and the frame of that write. -/
theorem loopsAndZonesTakeCommands : Obligations.LoopsAndZonesTakeCommands := by
  refine ⟨fun k s => ⟨?enable, ?disable, ?swap, ?status, ?preset, ?alarmNow, ?alarm⟩,
    fun k s => ⟨?zstatus, ?fit, ?nofit, ?override, ?presence, ?predict, ?busy⟩⟩
  case enable =>
    intro hready hp
    refine ⟨_, answers_of (c := s.chip.enableLoop k.inst) bodyLoopEnable hready rfl (if_neg (by simp [hp])), ?_⟩
    by_cases h : (s.chip.loop k.inst).enabled = true
    · rw [enableLoop_enabled h]
      exact ⟨h, fun _ => rfl, fun h' => absurd (h.symm.trans h') (by decide), fun _ _ => rfl, SamePlant.refl _⟩
    · obtain ⟨hon, hwords, hstarved, hskipped, halarm, hdue, hothers, hplant⟩ := enableLoop_stopped (Bool.eq_false_iff.mpr h)
      exact ⟨hon, fun h' => absurd h' h, fun _ => ⟨hwords, hstarved, hskipped, halarm, hdue⟩, hothers, hplant⟩
  case disable =>
    intro hready hp
    obtain ⟨hoff, htrigs, hbank, hothers⟩ := disableLoop_loop s.chip k.inst
    exact ⟨_, answers_of bodyLoopDisable hready rfl (if_neg (by simp [hp])), hoff, htrigs, hbank, hothers, disableLoop_samePlant ..⟩
  case swap =>
    intro hready hlen hb hz
    refine ⟨_, answers_of bodyBankSwap hready rfl (bodyBankSwap_swaps s.chip hlen hb hz), ?_⟩
    rw [Chip.setLoop_same]
    exact ⟨rfl, fun h => by rw [h]; rfl, fun h => by rw [h]; rfl, fun h => by rw [h]; rfl,
      fun j hj => s.chip.setLoop_other _ _ _ hj, setLoop_samePlant ..⟩
  case status => exact fun hready hp => answers_of bodyLoopStatus hready rfl (if_neg (by simp [hp]))
  case preset =>
    intro hready hlen hn hop hz
    refine ⟨_, answers_of bodyIntegratorPreset hready rfl (bodyIntegratorPreset_presets hlen hn hop hz), ?_,
      fun j hj => s.chip.setLoop_other _ _ _ hj, setLoop_samePlant ..⟩
    rw [Chip.setLoop_same]
    exact find?_filter_append_self _ _ _
  case alarmNow =>
    exact fun hready hp h => answers_of bodySatClear hready rfl (by simp [bodySatClear, hp, h]; rfl)
  case alarm =>
    intro hready hp h
    have hbody : bodySatClear k s.chip = .ok (s.chip.setLoop k.inst { s.chip.loop k.inst with alarm := false }) := by
      simp [bodySatClear, hp, h]
    refine ⟨_, answers_of bodySatClear hready rfl hbody, ?_⟩
    rw [Chip.setLoop_same]
    exact ⟨rfl, rfl, fun j hj => s.chip.setLoop_other _ _ _ hj, setLoop_samePlant ..⟩
  case zstatus => exact fun hready hp => answers_of bodyZoneStatus hready rfl (if_neg (by simp [hp]))
  case fit =>
    intro hready hp
    by_cases h : (s.chip.zone k.inst).fit.isSome = true
    · exact ⟨s.chip, answers_of bodyFitEnable hready rfl (by simp [bodyFitEnable, hp, h]; rfl), h, fun _ => rfl, fun _ _ => rfl, rfl⟩
    · obtain ⟨hfit, hothers, hslots⟩ := startFit_zone s.chip k.inst
      exact ⟨_, answers_of bodyFitEnable hready rfl (by simp [bodyFitEnable, hp, h]; rfl), hfit, fun h' => absurd h' h, hothers, hslots⟩
  case nofit =>
    intro hready hp
    refine ⟨_, answers_of bodyFitDisable hready rfl (if_neg (by simp [hp])), ?_, ?_, fun j hj => s.chip.setZone_other _ _ _ hj, rfl⟩
    · rw [Chip.setZone_same]
    · rw [Chip.setZone_same]
  case override =>
    intro hready hlen hz
    have hbody : bodySuspectOverride k s.chip = .ok ((s.chip.endSuspect k.inst 1 true).setZone k.inst
        { (s.chip.endSuspect k.inst 1 true).zone k.inst with
          suspend := if fld k.payload 0 2 == 0 then none else some (s.chip.clk.now + sec (fld k.payload 0 2)) }) := by
      unfold bodySuspectOverride
      dsimp only
      rw [if_neg (by simp [hlen]), if_neg (by simp [hz])]
    refine ⟨_, answers_of bodySuspectOverride hready rfl hbody, ?_⟩
    rw [Chip.setZone_same]
    refine ⟨endSuspect_model s.chip k.inst 1 true, fun h => (endSuspect_suspect 1 true h).2.1, fun h => ?_, by simp only [beq_iff_eq], fun j hj => ?_, ?_⟩
    · rw [endSuspect_of_not 1 true h]
      exact ⟨rfl, rfl⟩
    · rw [Chip.setZone_other _ _ _ _ hj, endSuspect_other _ _ _ _ hj]
    · exact (endSuspect_keeps (.refl _) k.inst 1 true s.chip (.refl _)).slots
  case presence => exact fun hready hp => answers_of bodyPresenceRead hready rfl (if_neg (by simp [hp]))
  case predict =>
    intro hready hlen hmode hz h1 h720 hboost hen
    refine hready.leads bodyPredictStart rfl (r := .waiting _) ?_
    rw [bodyPredictStart_of_form hlen hmode hz h1 h720 hboost, hen]
    rfl
  case busy =>
    intro hready hlen hmode hz h1 h720 hboost hen
    refine ends_of bodyPredictStart hready rfl ?_
    rw [bodyPredictStart_of_form hlen hmode hz h1 h720 hboost, hen]
    rfl

end Sys2Proof
end

section
-- One proof after another: side by side, the stacks of their threads reach the check's limit of memory.
set_option Elab.async false
/-! The clock commands (spec/10; R302–R312, R315–R318, R325). -/

namespace Sys2Proof.Machine

/-! ### TIME_SET -/

theorem bodyTimeSet_of_count {k : Cmd} {c : Chip} {n : Nat} (hlen : k.payload.length = 12) (hn : timeSetCount c k.payload = .ok n) :
    bodyTimeSet k c = if c.follower then .err stBusy noOfs c else .okWith (leBytes 8 n) (c.commitTime n) := by
  unfold bodyTimeSet
  rw [if_neg (by simp [hlen]), hn]

/-- The time that is set stands in the clock, whether or not the alarm is crossed. -/
theorem commitTime_rtc (c : Chip) (n : Nat) : (c.commitTime n).rtc.count = BitVec.ofNat 40 n ∧ (c.commitTime n).rtc.presc = 0 ∧
    (c.commitTime n).rtc.valid = true ∧ (c.commitTime n).rtc.alm = c.rtc.alm ∧ (c.commitTime n).rtc.bkp = c.rtc.bkp := by
  unfold Chip.commitTime Chip.alarmFires
  dsimp only
  split
  · rw [Chip.fire_rtc]
    exact ⟨rfl, rfl, rfl, rfl, rfl⟩
  · exact ⟨rfl, rfl, rfl, rfl, rfl⟩

theorem commitTime_fabUs {c : Chip} (n : Nat) (h : c.follower = false) : (c.commitTime n).clk.fabUs = fabricOf n := by
  unfold Chip.commitTime Chip.alarmFires
  dsimp only
  rw [h]
  split
  · rw [Chip.fire_clk]; rfl
  · rfl

/-! ### The alarm and the wake register -/

theorem bodyCalendarSet_sets {k : Cmd} (c : Chip) (hlen : k.payload.length = 4 + 8 * fld k.payload 2 1) (h16 : fld k.payload 2 1 ≤ 16)
    (hgood : calendarBad k.payload = none) : bodyCalendarSet k c = .ok (c.setCalendar k.payload) := by
  unfold bodyCalendarSet
  dsimp only
  rw [if_neg (by omega), if_neg (by omega), if_neg (by simp [hlen]), hgood]

theorem bodyWakeSet_sets {k : Cmd} (c : Chip) (hlen : k.payload.length = 8) (hv : wakeValid (fld k.payload 0 4) = true)
    (h3 : fld k.payload 4 1 ≤ 3) (hz : zeroAt k.payload 5 3 = true) : bodyWakeSet k c = .ok (c.setRtc (fun r => { r with
      wake := BitVec.ofNat 32 (fld k.payload 0 4), wakeEn := bit (fld k.payload 4 1) 0, wakePwr := bit (fld k.payload 4 1) 1 })) := by
  unfold bodyWakeSet
  dsimp only
  rw [if_neg (by simp [hlen]), if_neg (by simp [hv]), if_neg (by omega), if_neg (by simp [hz])]

/-- PWR_ON as bits 2 and 3 of ALARM_SET's flags leave it: asserted, released, or as it is. -/
def alarmPwr (f : Nat) (r : RtcSt) : RtcSt := if bit f 2 then r.assertPwr else if bit f 3 then r.releasePwr else r

theorem bodyAlarmSet_sets {k : Cmd} {c : Chip} (hlen : k.payload.length = 8) (h15 : fld k.payload 5 1 ≤ 15)
    (hboth : (bit (fld k.payload 5 1) 2 && bit (fld k.payload 5 1) 3) = false) (hz : zeroAt k.payload 6 2 = true)
    (hfuture : bit (fld k.payload 5 1) 0 = true → c.rtc.count.toNat < fld k.payload 0 5) :
    bodyAlarmSet k c = .ok (c.setRtc (fun r => { alarmPwr (fld k.payload 5 1) r with
      alm := BitVec.ofNat 40 (fld k.payload 0 5), alarmEn := bit (fld k.payload 5 1) 0, alarmPwr := bit (fld k.payload 5 1) 1 })) := by
  unfold bodyAlarmSet
  dsimp only
  rw [if_neg (by simp [hlen]), if_neg (by simp only [hboth, Bool.or_false, decide_eq_true_eq]; omega), if_neg (by simp [hz]),
    if_neg (by simpa using hfuture)]
  rfl

theorem alarmPwr_count (f : Nat) (r : RtcSt) : (alarmPwr f r).count = r.count ∧ (alarmPwr f r).wake = r.wake := by
  unfold alarmPwr
  repeat' split
  all_goals exact ⟨rfl, rfl⟩

theorem alarmPwr_pwrOn (f : Nat) (r : RtcSt) (hboth : (bit f 2 && bit f 3) = false) :
    (bit f 2 = true → (alarmPwr f r).pwrOn = true) ∧ (bit f 3 = true → (alarmPwr f r).pwrOn = (r.pwrOn && r.pwrNow)) ∧
      (bit f 2 = false → bit f 3 = false → (alarmPwr f r).pwrOn = r.pwrOn) := by
  unfold alarmPwr
  cases h2 : bit f 2 <;> cases h3 : bit f 3
  case true.true => simp [h2, h3] at hboth
  case false.false => simp
  case false.true => simp [RtcSt.releasePwr]
  case true.false => simp [RtcSt.assertPwr]

/-! ### The ephemeris -/

/-- The image of a table: 48 bytes of points, the count, a zero and the CRC. -/
theorem ephImage_length (p : List Byte) (h : p.length = 52) : (ephImage p).length = 52 := by
  unfold ephImage
  simp [slice, h, leBytes]

theorem writeEph_ephBytes (c : Chip) (b : List Byte) (h : b.length = 52) : (c.writeEph b).ephBytes = b := by
  have hrun := Tbl.getRun_setRun dByte0 b c.rtc.bkp 0
  rw [h] at hrun
  exact hrun

theorem bodyEphemerisRead_of_form {k : Cmd} (c : Chip) (hlen : k.payload.length = 4) (h1 : fld k.payload 0 1 ≤ 1)
    (hz : zeroAt k.payload 1 3 = true) :
    let b := if fld k.payload 0 1 = 0 then c.ephBytes else c.almanac.ephFlash ++ zeros (52 - c.almanac.ephFlash.length)
    bodyEphemerisRead k c = .okWith
      ([BitVec.ofNat 8 (b2n (ephValid b && (decide (fld k.payload 0 1 = 0) || c.almanac.ephFlashValid))), b.getD 48 0, 0, 0] ++ b.take 48) c := by
  have hbeq : (fld k.payload 0 1 == 0) = decide (fld k.payload 0 1 = 0) := rfl
  unfold bodyEphemerisRead
  dsimp only
  rw [hbeq, if_neg (by simp [hlen]), if_neg (by omega), if_neg (by simp [hz])]
  simp only [decide_eq_true_eq]

theorem bodyEphemerisWrite_writes {k : Cmd} {c : Chip} (hlen : k.payload.length = 52) (hgood : ephBad k.payload = none)
    (hidle : c.almanac.ephWriting = none) : bodyEphemerisWrite k c = .accepted { (c.writeEph (ephImage k.payload)) with
      almanac := { c.almanac with ephWriting := some (k.ctx, k.tag), ephFlashValid := false } } := by
  unfold bodyEphemerisWrite
  rw [if_neg (by simp [hlen]), hgood]
  simp [hidle]

/-- The module after the write of the table to flash has ended, before its command is answered. -/
def Chip.ephWritten (ok : Bool) (c : Chip) : Chip :=
  let c1 := { c with almanac := { c.almanac with ephWriting := none } }
  if ok then { c1 with almanac := { c1.almanac with ephFlash := c1.ephBytes, ephFlashValid := true } } else c1.logFault 6 1

theorem ephFlashDone_of_writing {c : Chip} {x t : Nat} (ok : Bool) (h : c.almanac.ephWriting = some (x, t)) :
    c.ephFlashDone ok = (c.ephWritten ok).finishTag x t (if ok then stOK else stStoreWriteFail) noOfs [] := by
  unfold Chip.ephFlashDone Chip.ephWritten
  rw [h]
  cases ok <;> rfl

/-! ### SCHEDULE_STATUS -/

theorem bodyScheduleStatus_none {k : Cmd} {c : Chip} (hlen : k.payload.length = 4) (h63 : fld k.payload 0 1 ≤ 63)
    (hz : zeroAt k.payload 1 3 = true) (hnext : c.nextStart (fld k.payload 0 1) c.rtc.count.toNat = none) :
    bodyScheduleStatus k c = .okWith (leBytes 2 ((Tbl.get dGovern c.almanac.govern (fld k.payload 0 1)).entry.getD 0xFFFF)
      ++ ([BitVec.ofNat 8 (Tbl.get dGovern c.almanac.govern (fld k.payload 0 1)).reason, 0] : List Byte)
      ++ leBytes 8 (Tbl.get dGovern c.almanac.govern (fld k.payload 0 1)).since ++ leBytes 2 0xFFFF ++ zeros 2 ++ leBytes 8 0) c := by
  unfold bodyScheduleStatus
  dsimp only
  rw [if_neg (by simp [hlen]), if_neg (by omega), if_neg (by simp [hz]), hnext]

theorem bodyScheduleStatus_some {k : Cmd} {c : Chip} (hlen : k.payload.length = 4) (h63 : fld k.payload 0 1 ≤ 63)
    (hz : zeroAt k.payload 1 3 = true) {n : Start} (hnext : c.nextStart (fld k.payload 0 1) c.rtc.count.toNat = some n) :
    bodyScheduleStatus k c = .okWith (leBytes 2 ((Tbl.get dGovern c.almanac.govern (fld k.payload 0 1)).entry.getD 0xFFFF)
      ++ ([BitVec.ofNat 8 (Tbl.get dGovern c.almanac.govern (fld k.payload 0 1)).reason, 0] : List Byte)
      ++ leBytes 8 (Tbl.get dGovern c.almanac.govern (fld k.payload 0 1)).since ++ leBytes 2 n.entry ++ zeros 2 ++ leBytes 8 n.nominal) c := by
  unfold bodyScheduleStatus
  dsimp only
  rw [if_neg (by simp [hlen]), if_neg (by omega), if_neg (by simp [hz]), hnext]

end Sys2Proof.Machine

namespace Sys2Proof
open Machine

/-- Settles O28: per command the registers of the clock that it writes, and those it leaves. -/
theorem clockTakesCommands : Obligations.ClockTakesCommands := by
  refine fun k s => ⟨?capture, ?set, ?setBusy, ?calendar, ?wake, ?alarm, ?ephRead, ?ephWrite, ?ephDone, ?none, ?some⟩
  case capture => exact fun hready hp => answers_of bodyTimeCapture hready rfl (if_neg (by simp [hp]))
  case set =>
    intro n hready hlen hn hf
    obtain ⟨hcount, hpresc, hvalid, halm, hbkp⟩ := commitTime_rtc s.chip n
    refine ⟨_, answers_of bodyTimeSet hready rfl ?_, hcount, hpresc, hvalid, commitTime_fabUs n hf, halm, hbkp⟩
    rw [bodyTimeSet_of_count hlen hn, hf]
    rfl
  case setBusy =>
    intro n hready hlen hn hf
    refine ends_of bodyTimeSet hready rfl ?_
    rw [bodyTimeSet_of_count hlen hn, hf]
    rfl
  case calendar =>
    exact fun hready hlen h16 hgood => ⟨_, answers_of bodyCalendarSet hready rfl (bodyCalendarSet_sets s.chip hlen h16 hgood), rfl, rfl, rfl,
      .of_keeps (setCalendar_keeps (.refl _) k.payload s.chip (.refl _))⟩
  case wake =>
    exact fun hready hlen hv h3 hz => ⟨_, answers_of bodyWakeSet hready rfl (bodyWakeSet_sets s.chip hlen hv h3 hz), rfl, rfl, rfl, rfl, rfl,
      .refl _⟩
  case alarm =>
    intro hready hlen h15 hboth hz hfuture
    obtain ⟨hset, hrelease, hleave⟩ := alarmPwr_pwrOn (fld k.payload 5 1) s.chip.rtc hboth
    obtain ⟨hcount, hwake⟩ := alarmPwr_count (fld k.payload 5 1) s.chip.rtc
    exact ⟨_, answers_of bodyAlarmSet hready rfl (bodyAlarmSet_sets hlen h15 hboth hz hfuture), rfl, rfl, rfl, hset, hrelease, hleave,
      hcount, hwake, .refl _⟩
  case ephRead =>
    exact fun hready hlen h1 hz => answers_of bodyEphemerisRead hready rfl (bodyEphemerisRead_of_form s.chip hlen h1 hz)
  case ephWrite =>
    exact fun hready hlen hgood hidle => ⟨_, starts_of bodyEphemerisWrite hready rfl (bodyEphemerisWrite_writes hlen hgood hidle),
      writeEph_ephBytes s.chip _ (ephImage_length k.payload hlen), rfl, rfl, rfl, rfl⟩
  case ephDone =>
    refine fun x t h => ⟨⟨_, Leads.of_eq rfl (ephFlashDone_of_writing true h), rfl, rfl, rfl, rfl⟩,
      ⟨_, Leads.of_eq rfl (ephFlashDone_of_writing false h), ?_⟩⟩
    have hlog := logFault_keeps (.refl _) 6 1 _ (.refl { s.chip with almanac := { s.chip.almanac with ephWriting := none } })
    have hflash := congrArg AlmanacSt.ephFlash hlog.almanac
    have hwriting := congrArg AlmanacSt.ephWriting hlog.almanac
    exact ⟨hflash, hwriting, hlog.rtc⟩
  case none =>
    exact fun hready hlen h63 hz hnext => answers_of bodyScheduleStatus hready rfl (bodyScheduleStatus_none hlen h63 hz hnext)
  case some =>
    exact fun n hready hlen h63 hz hnext => answers_of bodyScheduleStatus hready rfl (bodyScheduleStatus_some hlen h63 hz hnext)

end Sys2Proof
end

section
-- One proof after another: side by side, the stacks of their threads reach the check's limit of memory.
set_option Elab.async false
/-! The link commands (spec/11; R357, R371–R377). -/

namespace Sys2Proof.Machine

theorem setLink_samePlant (c : Chip) (n : Nat) (s : LinkSt) : SamePlant c (c.setLink n s) :=
  .of_keeps (setLink_keeps (.refl _) n s c (.refl c))

/-! ### LINK_RETRAIN -/

theorem linkMove_phase (c : Chip) (n : Nat) (p : LinkPhase) (reason : Option Nat) : ((c.linkMove n p reason).link n).phase = p := by
  unfold Chip.linkMove
  cases reason with
  | none => exact congrArg LinkSt.phase (Chip.setLink_same ..)
  | some r =>
    dsimp only
    rw [Chip.fire_link]
    exact congrArg LinkSt.phase (Chip.setLink_same ..)

theorem train_phase (c : Chip) (n : Nat) : ((c.train n).link n).phase = .training := by
  unfold Chip.train Chip.forgetPeer
  simp only [Chip.setLink_same]
  exact linkMove_phase c n .training none

/-- The module with the link back in training, where it is enabled and the reference runs. -/
def Chip.retrained (n : Nat) (c : Chip) : Chip :=
  if (c.link n).phase == LinkPhase.disabled || !c.clk.refRun then c
  else (c.linkLeave n .training (if (c.link n).phase == LinkPhase.up then some 1 else none)).train n

theorem retrained_samePlant (c : Chip) (n : Nat) : SamePlant c (c.retrained n) := by
  unfold Chip.retrained
  split
  · exact SamePlant.refl c
  · exact .of_keeps (train_keeps (.refl _) n _ (linkLeave_keeps (.refl _) n .training _ c (.refl c)))

theorem bodyLinkRetrain_starts {k : Cmd} {c : Chip} (hp : k.payload = []) (h : (c.link k.inst).retrain = none) :
    bodyLinkRetrain k c = .accepted ((c.retrained k.inst).setLink k.inst
      { (c.retrained k.inst).link k.inst with retrain := some (k.ctx, k.tag, c.clk.now + sec 10) }) := by
  unfold bodyLinkRetrain
  dsimp only
  rw [if_neg (by simp [hp]), if_neg (by simp [h])]
  rfl

theorem bodyLinkRetrain_busy {k : Cmd} {c : Chip} (hp : k.payload = []) (h : (c.link k.inst).retrain ≠ none) :
    bodyLinkRetrain k c = .err stBusy noOfs c := by
  unfold bodyLinkRetrain
  dsimp only
  rw [if_neg (by simp [hp]), if_pos (Option.isSome_iff_ne_none.mpr h)]

/-- The module at the end of a retraining: at once where the link has come up or is isolated, else when its time is over. -/
def Chip.retrainEnd (n d : Nat) (c : Chip) : Chip :=
  if (c.link n).phase == LinkPhase.up || (c.link n).phase == LinkPhase.isolated then c else c.waitUntil d

theorem retrainEnd_link (c : Chip) (n d j : Nat) : (c.retrainEnd n d).link j = c.link j := by
  unfold Chip.retrainEnd
  split
  · rfl
  · exact (Chip.waitUntil_frame d c).link_eq rfl j

theorem retrainEnd_samePlant (c : Chip) (n d : Nat) : SamePlant c (c.retrainEnd n d) := by
  unfold Chip.retrainEnd
  split
  · exact SamePlant.refl c
  · exact .of_keeps (Chip.waitUntil_frame d c)

theorem linkStat_congr {c d : Chip} {n : Nat} (h : d.link n = c.link n) : d.linkStat n = c.linkStat n := by
  unfold Chip.linkStat
  rw [h]

theorem retrainDone_of_retrain {c : Chip} {n x t d : Nat} (h : (c.link n).retrain = some (x, t, d)) :
    c.retrainDone n = ((c.retrainEnd n d).setLink n { (c.retrainEnd n d).link n with retrain := none }).finishTag x t stOK noOfs
      (leBytes 4 (c.linkStat n)) := by
  rw [← linkStat_congr (retrainEnd_link c n d n)]
  unfold Chip.retrainDone
  rw [h]
  rfl

/-! ### The counters of a link -/

theorem bodyPoliceCounters_of_form {k : Cmd} (c : Chip) (hlen : k.payload.length = 4) (h1 : fld k.payload 0 1 ≤ 1)
    (hz : zeroAt k.payload 1 3 = true) : bodyPoliceCounters k c = .okWith (leBytes 2 (c.attrN tyLink k.inst 2) ++ [0, 0]
      ++ leBytes 4 (c.link k.inst).c0Sent.toNat ++ leBytes 4 (c.link k.inst).c0Demoted.toNat ++ leBytes 4 (c.link k.inst).c0Arrived.toNat)
      (if fld k.payload 0 1 == 1 then c.setLink k.inst { c.link k.inst with c0Sent := 0, c0Demoted := 0, c0Arrived := 0 } else c) := by
  unfold bodyPoliceCounters
  dsimp only
  rw [if_neg (by simp [hlen]), if_neg (by omega), if_neg (by simp [hz])]

theorem bodyTopologyRead_of_form {k : Cmd} (c : Chip) (hlen : k.payload.length = 4) (hz : zeroAt k.payload 2 2 = true) :
    bodyTopologyRead k c = .okWith (leBytes 2 (c.topology.map (·.2)).length
      ++ leBytes 2 (((c.topology.map (·.2)).drop (fld k.payload 0 2)).take 64).length
      ++ ((((c.topology.map (·.2)).drop (fld k.payload 0 2)).take 64).map (c.topologyEntry c.paths)).flatten) c := by
  unfold bodyTopologyRead
  dsimp only
  rw [if_neg (by simp [hlen]), if_neg (by simp [hz])]

end Sys2Proof.Machine

namespace Sys2Proof
open Machine

/-- Settles O29: the answers are the bodies' own; LINK_RETRAIN and its end by the phase of the link. -/
theorem linksTakeCommands : Obligations.LinksTakeCommands := by
  refine fun k s => ⟨?status, ?retrain, ?busy, ?done, ?topology, ?route, ?bellwether, ?police⟩
  case status => exact fun hready hp => answers_of bodyLinkStatus hready rfl (if_neg (by simp [hp]))
  case retrain =>
    intro hready hp h
    refine ⟨_, starts_of bodyLinkRetrain hready rfl (bodyLinkRetrain_starts hp h), ?_,
      (retrained_samePlant s.chip k.inst).trans (setLink_samePlant ..), fun hoff => ?_, fun hon href => ?_⟩
    · rw [Chip.setLink_same]
    · rw [Chip.setLink_same, Chip.retrained, if_pos (by simp [hoff])]
      exact hoff
    · rw [Chip.setLink_same, Chip.retrained, if_neg (by simp [hon, href])]
      exact train_phase _ k.inst
  case busy => exact fun hready hp h => ends_of bodyLinkRetrain hready rfl (bodyLinkRetrain_busy hp h)
  case done =>
    intro n x t d h
    have hplant : SamePlant s.chip ((s.chip.retrainEnd n d).setLink n { (s.chip.retrainEnd n d).link n with retrain := none }) :=
      (retrainEnd_samePlant s.chip n d).trans (setLink_samePlant ..)
    refine ⟨fun hup => ⟨_, Leads.of_eq rfl (retrainDone_of_retrain h), ?_, ?_, hplant⟩,
      fun hup hiso => ⟨_, Leads.of_eq rfl (retrainDone_of_retrain h), ?_, ?_, hplant⟩⟩
    · rw [Chip.setLink_same]
    · rw [Chip.setLink_clk, Chip.retrainEnd, if_pos (by simpa using hup)]
    · rw [Chip.setLink_same]
    · rw [Chip.setLink_clk, Chip.retrainEnd, if_neg (by simp [hup, hiso])]
      exact s.chip.le_waitUntil d
  case topology => exact fun hready hlen hz => answers_of bodyTopologyRead hready rfl (bodyTopologyRead_of_form s.chip hlen hz)
  case route => exact fun hready hp => answers_of bodyRouteStatus hready rfl (if_neg (by simp [hp]))
  case bellwether =>
    intro hready hp
    refine ⟨_, answers_of bodyBellwetherStatus hready rfl (if_neg (by simp [hp])), ?_⟩
    simp [List.drop_append, List.drop_of_length_le]
  case police =>
    intro hready hlen h1 hz
    refine ⟨_, answers_of bodyPoliceCounters hready rfl (bodyPoliceCounters_of_form s.chip hlen h1 hz), fun h => ?_, fun h => ?_, ?_⟩
    · rw [if_neg (by simp [h])]
    · rw [if_pos (by simp [h]), Chip.setLink_same]
      exact ⟨rfl, rfl, rfl⟩
    · split
      · rw [Chip.setLink_same]
        exact ⟨rfl, fun j hj => s.chip.setLink_other _ _ _ hj, setLink_samePlant ..⟩
      · exact ⟨rfl, fun _ _ => rfl, SamePlant.refl _⟩

end Sys2Proof
end

section
-- One proof after another: side by side, the stacks of their threads reach the check's limit of memory.
set_option Elab.async false
/-! The CAN and panel commands (spec/12, spec/13; R387–R400, R408, R421–R437). -/

namespace Sys2Proof.Machine

/-! ### Starting and stopping a controller -/

@[simp] theorem Chip.modCan_same (c : Chip) (m : Nat) (f : CanSt → CanSt) : (c.modCan m f).canOf m = f (c.canOf m) :=
  Chip.setCan_same ..

theorem Chip.modCan_other (c : Chip) {m j : Nat} (f : CanSt → CanSt) (hj : j ≠ m) : (c.modCan m f).canOf j = c.canOf j :=
  c.setCan_other _ _ _ hj

theorem setCan_samePlant (c : Chip) (m : Nat) (s : CanSt) : SamePlant c (c.setCan m s) :=
  .of_keeps (setCan_keeps (.refl _) m s c (.refl c))

/-- Of the controllers only `m`'s transmit objects have changed. -/
def ObjsOnly (m : Nat) (c d : Chip) : Prop :=
  (∃ objs, d.canOf m = { c.canOf m with objs := objs }) ∧ ∀ j, j ≠ m → d.canOf j = c.canOf j

theorem ObjsOnly.refl (m : Nat) (c : Chip) : ObjsOnly m c c := ⟨⟨_, rfl⟩, fun _ _ => rfl⟩

theorem ObjsOnly.trans {m : Nat} {a b c : Chip} (h : ObjsOnly m a b) (h' : ObjsOnly m b c) : ObjsOnly m a c := by
  obtain ⟨⟨x, hx⟩, ho⟩ := h
  obtain ⟨⟨y, hy⟩, ho'⟩ := h'
  exact ⟨⟨y, by rw [hy, hx]⟩, fun j hj => (ho' j hj).trans (ho j hj)⟩

theorem setCanObj_objsOnly (c : Chip) (m o : Nat) (x : CanObjSt) : ObjsOnly m c (c.setCanObj m o x) :=
  ⟨⟨_, Chip.modCan_same ..⟩, fun _ hj => c.modCan_other _ hj⟩

theorem startObjs_objsOnly (c : Chip) (m : Nat) : ObjsOnly m c (c.startObjs m) := by
  unfold Chip.startObjs
  induction List.range 64 generalizing c with
  | nil => exact .refl m c
  | cons o l ih =>
    refine ObjsOnly.trans ?_ (ih _)
    dsimp only
    split
    · exact setCanObj_objsOnly ..
    · exact .refl m c

theorem canStart_canOf {c : Chip} {m : Nat} (h : (c.canOf m).started = false) :
    ((c.canStart m).canOf m).started = true ∧ ((c.canStart m).canOf m).tec = 0 ∧ ((c.canStart m).canOf m).recv = 0 ∧
      ((c.canStart m).canOf m).master = false ∧ ∀ j, j ≠ m → (c.canStart m).canOf j = c.canOf j := by
  unfold Chip.canStart
  rw [if_neg (by simp [h])]
  obtain ⟨⟨objs, hobjs⟩, hothers⟩ := startObjs_objsOnly (c.modCan m (fun s => { s with
    started := true, err := 0, tec := 0, recv := 0, level := 0, master := false, synced := false, cycle := 0,
    refAt := c.clk.now, alignAt := none, winTime := none, winEnd := none })) m
  rw [Chip.modCan_same] at hobjs
  rw [hobjs]
  exact ⟨rfl, rfl, rfl, rfl, fun j hj => (hothers j hj).trans (c.modCan_other _ hj)⟩

theorem canHalt_canOf (c : Chip) (m : Nat) : ((c.canHalt m).canOf m).started = false ∧ ((c.canHalt m).canOf m).pend = [] ∧
    ((c.canHalt m).canOf m).queued = [] := by
  unfold Chip.canHalt
  dsimp only
  rw [Chip.modCan_same]
  exact ⟨rfl, rfl, rfl⟩

section CanStop

variable {k : Cmd} {c : Chip} (hp : k.payload = [])

include hp

theorem bodyCanStart_started (h : (c.canOf k.inst).started = true) : bodyCanStart k c = .ok c := by
  simp [bodyCanStart, hp, h]

theorem bodyCanStart_starts (h : (c.canOf k.inst).started = false) (hheld : c.islandHeld = false) :
    bodyCanStart k c = .ok (c.canStart k.inst) := by
  simp [bodyCanStart, hp, h, hheld]

theorem bodyCanStart_busy (h : (c.canOf k.inst).started = false) (hheld : c.islandHeld = true) :
    bodyCanStart k c = .err stBusy noOfs c := by
  simp [bodyCanStart, hp, h, hheld]

theorem bodyCanStop_idle (h : (c.canOf k.inst).started = true) (hf : (c.canOf k.inst).flight = none) :
    bodyCanStop k c = .ok (c.canHalt k.inst) := by
  simp [bodyCanStop, hp, h, hf]

theorem bodyCanStop_flying (h : (c.canOf k.inst).started = true) (hf : (c.canOf k.inst).flight.isSome = true)
    (hstop : (c.canOf k.inst).stopCmd = none) :
    bodyCanStop k c = .waiting (c.setCan k.inst { c.canOf k.inst with stopCmd := some (k.ctx, k.tag) }) := by
  simp [bodyCanStop, hp, h, hf, hstop]

theorem bodyCanStop_stopped (h : (c.canOf k.inst).started = false) : bodyCanStop k c = .ok c := by
  simp [bodyCanStop, hp, h]

end CanStop

/-! ### CAN_SEND -/

/-- The frame that a CAN_SEND brings, as it waits. -/
abbrev Chip.sendPend (c : Chip) (k : Cmd) : CanPend :=
  ⟨(c.canOf k.inst).nextNum, some (k.ctx, k.tag), if bit (fld k.payload 4 1) 3 then fld k.payload 6 1 else 0x3F, bit (fld k.payload 4 1) 3,
    sendFrame k.payload, 0, 0, c.clk.now⟩

/-- The queue of the controller that a CAN_SEND goes through. -/
abbrev sendQueue (k : Cmd) : Nat := 40 + 4 * k.inst + b2n (bit (fld k.payload 4 1) 3)

/-- The controller with the next frame's number taken. -/
abbrev Chip.numbered (c : Chip) (m : Nat) : Chip := c.setCan m { c.canOf m with nextNum := (c.canOf m).nextNum + 1 }

/-- The module with a frame made pending. -/
def Chip.sendNow (c : Chip) (k : Cmd) : Chip :=
  ((c.numbered k.inst).passTx (sendQueue k) k.payload).modCan k.inst (fun s => { s with pend := s.pend ++ [c.sendPend k] })

/-- The module with a frame kept in the queue of its controller. -/
def Chip.sendLater (c : Chip) (k : Cmd) : Chip :=
  let c2 := (c.numbered k.inst).putRecord (sendQueue k) k.payload
  (c2.setQueue (sendQueue k) (c2.queue (sendQueue k)).notified).modCan k.inst (fun s => { s with queued := s.queued ++ [c.sendPend k] })

/-- Routing a record leaves a controller as it is. -/
theorem sendNow_canOf (c : Chip) (k : Cmd) : ((c.sendNow k).canOf k.inst).pend = (c.canOf k.inst).pend ++ [c.sendPend k] ∧
    ∀ j, j ≠ k.inst → (c.sendNow k).canOf j = c.canOf j := by
  have hpass : ∀ j, ((c.numbered k.inst).passTx (sendQueue k) k.payload).canOf j = (c.numbered k.inst).canOf j := fun j =>
    (passTx_keeps (.refl _) (sendQueue k) k.payload _ (.refl (c.numbered k.inst))).canOf_eq rfl j
  unfold Chip.sendNow
  refine ⟨?_, fun j hj => ?_⟩
  · rw [Chip.modCan_same, hpass, Chip.setCan_same]
  · rw [Chip.modCan_other _ _ hj, hpass, Chip.setCan_other _ _ _ _ hj]

theorem sendNow_samePlant (c : Chip) (k : Cmd) : SamePlant c (c.sendNow k) :=
  (setCan_samePlant ..).trans ((SamePlant.of_keeps (passTx_keeps (.refl _) (sendQueue k) k.payload _ (.refl _))).trans (setCan_samePlant ..))

theorem sendLater_canOf (c : Chip) (k : Cmd) : ((c.sendLater k).canOf k.inst).queued = (c.canOf k.inst).queued ++ [c.sendPend k] ∧
    ((c.sendLater k).canOf k.inst).pend = (c.canOf k.inst).pend ∧ ∀ j, j ≠ k.inst → (c.sendLater k).canOf j = c.canOf j := by
  have hput : ∀ (s : QueueSt) (j : Nat), (((c.numbered k.inst).putRecord (sendQueue k) k.payload).setQueue (sendQueue k) s).canOf j =
      (c.numbered k.inst).canOf j := fun s j =>
    (putRecord_keeps (.refl _) (sendQueue k) k.payload _ (.refl (c.numbered k.inst))).canOf_eq rfl j
  unfold Chip.sendLater
  dsimp only
  refine ⟨?_, ?_, fun j hj => ?_⟩
  · rw [Chip.modCan_same, hput, Chip.setCan_same]
  · rw [Chip.modCan_same, hput, Chip.setCan_same]
  · rw [Chip.modCan_other _ _ hj, hput, Chip.setCan_other _ _ _ _ hj]

theorem sendLater_samePlant (c : Chip) (k : Cmd) : SamePlant c (c.sendLater k) := by
  unfold Chip.sendLater
  dsimp only
  exact (setCan_samePlant ..).trans ((SamePlant.of_keeps (putRecord_keeps (.refl _) (sendQueue k) k.payload _ (.refl _))).trans
    ((SamePlant.of_keeps (setQueue_keeps (.refl _) (sendQueue k) _ _ (.refl _))).trans (setCan_samePlant ..)))

/-- The controller sends: it is started, is not being stopped, is not silent, and the island is not held. -/
def Chip.canSends (c : Chip) (m : Nat) : Prop :=
  (c.canOf m).started = true ∧ (c.canOf m).stopCmd = none ∧ c.canSilent m = false ∧ c.islandHeld = false

/-- The queue of the controller has room for the frame. -/
def Chip.sendRoom (c : Chip) (k : Cmd) : Prop :=
  (c.queue (sendQueue k)).hasRoom (entriesFor (c.queue (sendQueue k)).eshift k.payload.length) = true

section CanSend

variable {k : Cmd} {c : Chip} (h8 : 8 ≤ k.payload.length) (h72 : k.payload.length ≤ 72) (hgood : c.sendBad k.inst k.payload = none)
  (hnew : (c.canOf k.inst).queued.any (fun p => p.cmd == some (k.ctx, k.tag)) = false)

include h8 h72 hgood hnew

theorem bodyCanSend_of_form : bodyCanSend k c =
    if !(c.canOf k.inst).started || (c.canOf k.inst).stopCmd.isSome || c.canSilent k.inst || c.islandHeld then .err stBusy noOfs c
    else if !(c.queue (sendQueue k)).hasRoom (entriesFor (c.queue (sendQueue k)).eshift k.payload.length) then .err stQueueFull noOfs c
    else if bit (fld k.payload 4 1) 3 || ((c.canOf k.inst).queued.isEmpty && decide ((c.canOf k.inst).pendCount < 32)) then
      .accepted (c.sendNow k)
    else .held (c.sendLater k) := by
  unfold bodyCanSend
  dsimp only
  rw [if_neg (by simp; omega), hgood]
  dsimp only
  rw [if_neg (by rw [hnew]; decide)]
  rfl

theorem bodyCanSend_busy (h : ¬c.canSends k.inst) : bodyCanSend k c = .err stBusy noOfs c := by
  rw [bodyCanSend_of_form h8 h72 hgood hnew, if_pos ?_]
  unfold Chip.canSends at h
  revert h
  cases (c.canOf k.inst).started <;> cases (c.canOf k.inst).stopCmd <;> cases c.canSilent k.inst <;> cases c.islandHeld <;> simp

theorem bodyCanSend_full (hruns : c.canSends k.inst) (h : ¬c.sendRoom k) : bodyCanSend k c = .err stQueueFull noOfs c := by
  obtain ⟨hstarted, hstop, hsilent, hheld⟩ := hruns
  rw [bodyCanSend_of_form h8 h72 hgood hnew, if_neg (by simp [hstarted, hstop, hsilent, hheld]),
    if_pos (by simpa [Chip.sendRoom] using h)]

theorem bodyCanSend_runs (hruns : c.canSends k.inst) (h : c.sendRoom k) : bodyCanSend k c =
    if bit (fld k.payload 4 1) 3 || ((c.canOf k.inst).queued.isEmpty && decide ((c.canOf k.inst).pendCount < 32)) then
      .accepted (c.sendNow k)
    else .held (c.sendLater k) := by
  obtain ⟨hstarted, hstop, hsilent, hheld⟩ := hruns
  rw [bodyCanSend_of_form h8 h72 hgood hnew, if_neg (by simp [hstarted, hstop, hsilent, hheld]),
    if_neg (by simpa [Chip.sendRoom] using h)]

end CanSend

/-! ### CAN_CANCEL -/

section CanCancel

variable {k t : Cmd} {c : Chip} {x : Nat} (hlen : k.payload.length = 4) (hz : zeroAt k.payload 3 1 = true)
  (hx : namedCtx k (fld k.payload 2 1) = some x)

include hlen hz hx

theorem bodyCanCancel_absent (h : c.findCmd x (fld k.payload 0 2) = none) : bodyCanCancel k c = .err stTooLate noOfs c := by
  unfold bodyCanCancel
  dsimp only
  rw [if_neg (by simp [hlen]), if_neg (by simp [hz]), hx]
  dsimp only
  rw [h]

variable (hfound : c.findCmd x (fld k.payload 0 2) = some t) (hfam : t.family = 9) (hop : t.opcode = 2) (hinst : t.inst = k.inst)

include hfound hfam hop hinst

theorem bodyCanCancel_fetched (hphase : t.phase = .fetched)
    (hq : (c.canOf k.inst).queued.any (fun p => p.cmd == some (x, t.tag)) = false) :
    bodyCanCancel k c = .ok (c.finish t stAborted noOfs []) := by
  unfold bodyCanCancel
  dsimp only
  rw [if_neg (by simp [hlen]), if_neg (by simp [hz]), hx]
  dsimp only
  rw [hfound]
  dsimp only
  rw [if_neg (by simp [hfam, hop, hinst]), if_pos (by rw [hphase, hq]; rfl)]

theorem bodyCanCancel_withdrawn (hphase : t.phase = .running) {d : Chip}
    (h : c.cancelSend k.inst x t.tag (k.ctx, k.tag) = .withdrawn d) : bodyCanCancel k c = .ok d := by
  unfold bodyCanCancel
  dsimp only
  rw [if_neg (by simp [hlen]), if_neg (by simp [hz]), hx]
  dsimp only
  rw [hfound]
  dsimp only
  rw [if_neg (by simp [hfam, hop, hinst]), if_neg (by simp [hphase]), h]

theorem bodyCanCancel_waits (hphase : t.phase = .running) {d : Chip}
    (h : c.cancelSend k.inst x t.tag (k.ctx, k.tag) = .waits d) : bodyCanCancel k c = .waiting d := by
  unfold bodyCanCancel
  dsimp only
  rw [if_neg (by simp [hlen]), if_neg (by simp [hz]), hx]
  dsimp only
  rw [hfound]
  dsimp only
  rw [if_neg (by simp [hfam, hop, hinst]), if_neg (by simp [hphase]), h]

end CanCancel

/-- A frame that is pending is withdrawn. -/
theorem cancelSend_pending {c : Chip} {m x tag : Nat} (by_ : Nat × Nat)
    (h : (c.canOf m).pend.any (fun p => p.cmd == some (x, tag)) = true) :
    c.cancelSend m x tag by_ = .withdrawn (((c.setCan m { c.canOf m with
      pend := (c.canOf m).pend.filter (fun p => !(p.cmd == some (x, tag))) }).finishTag x tag stAborted noOfs []).refillCan m) :=
  if_pos h

/-- For a frame on the bus the withdrawal waits. -/
theorem cancelSend_flying {c : Chip} {m x tag : Nat} {f : CanFlight} (by_ : Nat × Nat)
    (hp : (c.canOf m).pend.any (fun p => p.cmd == some (x, tag)) = false)
    (hq : (c.canOf m).queued.any (fun p => p.cmd == some (x, tag)) = false) (hf : (c.canOf m).flight = some f)
    (hmine : f.pend.cmd = some (x, tag)) :
    c.cancelSend m x tag by_ = .waits (c.setCan m { c.canOf m with flight := some { f with cancels := f.cancels ++ [by_] } }) := by
  unfold Chip.cancelSend
  dsimp only
  rw [if_neg (by rw [hp]; decide), if_neg (by rw [hq]; decide), hf]
  dsimp only
  rw [if_pos (by simp [hmine])]

/-! ### CAN_TIME_MASTER -/

/-- A bit field of `w` bits at `lo` that is written reads as written; one beside it, as it was. -/
theorem bits_mod_pow {n lo w m : Nat} (h : lo + w ≤ m) : bits (n % 2 ^ m) lo w = bits n lo w := by
  unfold bits
  apply Nat.eq_of_testBit_eq
  intro i
  simp only [Nat.testBit_mod_two_pow, Nat.testBit_div_two_pow]
  by_cases hi : i < w
  · simp [hi, show i + lo < m by omega]
  · simp [hi]

theorem bits_setBits_same (n lo w v : Nat) : bits (setBits n lo w v) lo w = v % 2 ^ w := by
  unfold bits setBits
  have hlo : n % 2 ^ lo < 2 ^ lo := Nat.mod_lt _ (by positivity)
  have hsplit : n % 2 ^ lo + v % 2 ^ w * 2 ^ lo + n / 2 ^ (lo + w) * 2 ^ (lo + w) =
      n % 2 ^ lo + 2 ^ lo * (v % 2 ^ w + 2 ^ w * (n / 2 ^ (lo + w))) := by rw [pow_add]; ring
  rw [hsplit, Nat.add_mul_div_left _ _ (by positivity), Nat.div_eq_of_lt hlo, Nat.zero_add, Nat.add_mul_mod_self_left, Nat.mod_mod]

theorem bits_setBits_below {n lo w v l u : Nat} (h : l + u ≤ lo) : bits (setBits n lo w v) l u = bits n l u := by
  unfold setBits
  obtain ⟨d, rfl⟩ := Nat.exists_eq_add_of_le h
  have hsplit : n % 2 ^ (l + u + d) + v % 2 ^ w * 2 ^ (l + u + d) + n / 2 ^ (l + u + d + w) * 2 ^ (l + u + d + w) =
      n % 2 ^ (l + u + d) + 2 ^ (l + u + d) * (v % 2 ^ w + 2 ^ w * (n / 2 ^ (l + u + d + w))) := by rw [pow_add _ _ w]; ring
  rw [hsplit, ← bits_mod_pow (m := l + u + d) (n := _ + _) (by omega), Nat.add_mul_mod_self_left, Nat.mod_mod, bits_mod_pow (by omega)]

theorem bit_eq_bits (n i : Nat) : bit n i = (bits n i 1 == 1) := rfl

/-- The time configuration that CAN_TIME_MASTER writes: bit 22 the master, bits 19 to 21 its priority. -/
def timeMaster (tt prio : Nat) : Nat := if prio == 0xFF then setBits tt 22 1 0 else setBits (setBits tt 19 3 prio) 22 1 1

theorem bodyCanTimeMaster_writes {k : Cmd} (c : Chip) (hlen : k.payload.length = 4)
    (hp : fld k.payload 0 1 ≤ 7 ∨ fld k.payload 0 1 = 0xFF) (hz : zeroAt k.payload 1 3 = true) :
    bodyCanTimeMaster k c =
      .ok ((c.setAttr tyCan k.inst 5 (leBytes 4 (timeMaster (c.ttCfg k.inst) (fld k.payload 0 1)))).bumpGen k.hnd) := by
  unfold bodyCanTimeMaster
  dsimp only
  rw [if_neg (by simp [hlen]), if_neg (by rcases hp with h | h <;> simp <;> omega), if_neg (by simp [hz])]
  rfl

theorem ttCfg_written (c : Chip) (m hnd v : Nat) : ((c.setAttr tyCan m 5 (leBytes 4 v)).bumpGen hnd).ttCfg m = v % 2 ^ 32 := by
  have hattr := (bumpGen_keeps (.refl _) hnd _ (.refl (c.setAttr tyCan m 5 (leBytes 4 v)))).attr_eq rfl tyCan m 5
  rw [Chip.ttCfg, Chip.attrN, hattr, Chip.attr_setAttr_same, leNat_leBytes]
  norm_num

theorem timeMaster_master (tt prio : Nat) : bit (timeMaster tt prio % 2 ^ 32) 22 = decide (prio ≠ 0xFF) := by
  rw [bit_eq_bits, bits_mod_pow (by decide), timeMaster]
  by_cases h : prio = 0xFF
  · rw [if_pos (by simp [h]), bits_setBits_same]
    simp [h]
  · rw [if_neg (by simp [h]), bits_setBits_same]
    simp [h]

theorem timeMaster_prio (tt prio : Nat) : bits (timeMaster tt prio % 2 ^ 32) 19 3 =
    if prio = 0xFF then bits tt 19 3 else prio % 2 ^ 3 := by
  rw [bits_mod_pow (by decide), timeMaster]
  by_cases h : prio = 0xFF
  · rw [if_pos (by simp [h]), if_pos h, bits_setBits_below (by decide)]
  · rw [if_neg (by simp [h]), if_neg h, bits_setBits_below (by decide), bits_setBits_same]

/-! ### Panels -/

@[simp] theorem Chip.modPanel_same (c : Chip) (d : Nat) (f : PanelSt → PanelSt) : (c.modPanel d f).panel d = f (c.panel d) :=
  Chip.setPanel_same ..

theorem Chip.modPanel_other (c : Chip) {d j : Nat} (f : PanelSt → PanelSt) (hj : j ≠ d) : (c.modPanel d f).panel j = c.panel j :=
  c.setPanel_other _ _ _ hj

theorem railsRise_other (c : Chip) {d j : Nat} (hj : j ≠ d) : (c.railsRise d).panel j = c.panel j := by
  unfold Chip.railsRise
  dsimp only
  split <;> exact c.setPanel_other _ _ _ hj

/-- The rails of a panel that is off begin to rise at their first step. -/
theorem railsRise_off {c : Chip} {d : Nat} (h : (c.panel d).rails = .off) :
    ((c.railsRise d).panel d).rails = .rising ∧ ((c.railsRise d).panel d).step = 0 ∧
      ((c.railsRise d).panel d).power = (c.panel d).power := by
  unfold Chip.railsRise
  dsimp only
  rw [if_neg (by simp [h]), Chip.setPanel_same]
  exact ⟨rfl, rfl, rfl⟩

theorem railsRise_updates (c : Chip) (d : Nat) : ((c.railsRise d).panel d).updates = (c.panel d).updates := by
  unfold Chip.railsRise
  dsimp only
  split <;> rw [Chip.setPanel_same]

/-- The update that a placing puts behind those of its panel. -/
def Chip.newUpdate (c : Chip) (d : Nat) (src : UpdateSource) (x y w h mode : Nat) (force : Bool) (clear : Option Nat) : PlateUpdate :=
  { num := (c.panel d).nextNum, source := src, x := x, y := y, w := w, h := h, mode := mode, force := force, clear := clear,
    tail := (c.queue (56 + 2 * d)).tail, taken := false, takenAt := 0, todo := [], started := 0, deferred := 0, superseded := 0,
    unchanged := 0, refused := 0, cleared := 0 }

theorem placeUpdate_panel (c : Chip) (d : Nat) (src : UpdateSource) (x y w h mode : Nat) (force : Bool) (clear : Option Nat)
    (rise : Bool) : ((c.placeUpdate d src x y w h mode force clear rise).panel d).updates =
      (c.panel d).updates ++ [c.newUpdate d src x y w h mode force clear] ∧
    ∀ j, j ≠ d → (c.placeUpdate d src x y w h mode force clear rise).panel j = c.panel j := by
  unfold Chip.placeUpdate
  dsimp only
  split
  · exact ⟨by rw [railsRise_updates, Chip.setPanel_same]; rfl, fun j hj => (railsRise_other _ hj).trans (c.setPanel_other _ _ _ hj)⟩
  · exact ⟨by rw [Chip.setPanel_same]; rfl, fun j hj => c.setPanel_other _ _ _ hj⟩

theorem placeUpdate_ring (c : Chip) (d : Nat) (src : UpdateSource) (x y w h mode : Nat) (force : Bool) (clear : Option Nat)
    (rise : Bool) : (c.placeUpdate d src x y w h mode force clear rise).ring = c.ring :=
  (placeUpdate_keeps (.refl _) d src x y w h mode force clear rise c (.refl c)).ring

section PanelPower

variable {k : Cmd} {c : Chip} (hlen : k.payload.length = 4) (hforce : fld k.payload 1 1 ≤ 1) (hz : zeroAt k.payload 2 2 = true)
  (hidle : (c.panel k.inst).power = none)

include hlen hforce hz hidle

theorem bodyPanelPower_on (hon : fld k.payload 0 1 = 1) (hheld : c.islandHeld = false) : bodyPanelPower k c =
    if (c.panel k.inst).rails == .up then .acceptedDone stOK noOfs [] (c.railsRise k.inst)
    else if c.thermal.shutdown then .err stThermalLimit noOfs c
    else .accepted ((c.modPanel k.inst (fun s => { s with power := some (k.ctx, k.tag, true) })).railsRise k.inst) := by
  unfold bodyPanelPower
  dsimp only
  rw [if_neg (by simp [hlen]), if_neg (by omega), if_neg (by omega), if_neg (by simp [hz]), if_neg (by simp [hidle, hheld]),
    if_pos (by simp [hon])]

theorem bodyPanelPower_off (hoff : fld k.payload 0 1 = 0) : bodyPanelPower k c =
    if (c.panel k.inst).rails == .off then .acceptedDone stOK noOfs [] c
    else if (c.anyTransition k.inst || c.anyPending k.inst) && !bit (fld k.payload 1 1) 0 then .err stBusy noOfs c
    else .accepted (if (c.panel k.inst).rails == .up
      then (c.modPanel k.inst (fun s => { s with power := some (k.ctx, k.tag, false) })).modPanel k.inst
        (fun s => { s with down := some (bit (fld k.payload 1 1) 0) })
      else (if bit (fld k.payload 1 1) 0
        then (c.modPanel k.inst (fun s => { s with power := some (k.ctx, k.tag, false) })).interrupt k.inst 4
        else c.modPanel k.inst (fun s => { s with power := some (k.ctx, k.tag, false) })).railsFall k.inst) := by
  unfold bodyPanelPower
  dsimp only
  rw [if_neg (by simp [hlen]), if_neg (by omega), if_neg (by omega), if_neg (by simp [hz]), if_neg (by simp [hidle, hoff]),
    if_neg (by simp [hoff])]

end PanelPower

section Region

variable {clear : Bool} {k : Cmd} {c : Chip} (hlen : k.payload.length = 12) (hgood : c.regionBad k.inst clear k.payload = none)

include hlen hgood

theorem region_busy (h : c.regionBusy k.inst = true) : c.region clear k = .err stBusy noOfs c := by
  unfold Chip.region
  dsimp only
  rw [if_neg (by simp [hlen]), hgood]
  dsimp only
  rw [if_pos h]

/-- A region that its panel takes and its limits allow is placed: the whole panel where ALL is set, else the rectangle named. -/
theorem region_places (hfree : c.regionBusy k.inst = false) (hcool : c.thermal.shutdown = false)
    (hadmit : c.admits k.inst (if bit (fld k.payload 9 1) 1 then 0 else fld k.payload 0 2)
      (if bit (fld k.payload 9 1) 1 then 0 else fld k.payload 2 2)
      (if bit (fld k.payload 9 1) 1 then c.hActive k.inst else fld k.payload 4 2)
      (if bit (fld k.payload 9 1) 1 then c.vActive k.inst else fld k.payload 6 2) = true) :
    c.region clear k = .waiting (c.placeUpdate k.inst (.host k.ctx k.tag)
      (if bit (fld k.payload 9 1) 1 then 0 else fld k.payload 0 2)
      (if bit (fld k.payload 9 1) 1 then 0 else fld k.payload 2 2)
      (if bit (fld k.payload 9 1) 1 then c.hActive k.inst else fld k.payload 4 2)
      (if bit (fld k.payload 9 1) 1 then c.vActive k.inst else fld k.payload 6 2)
      (if clear then 0 else fld k.payload 8 1) (!clear && bit (fld k.payload 9 1) 0) (if clear then some (fld k.payload 8 1) else none) false) := by
  unfold Chip.region
  dsimp only
  rw [if_neg (by simp [hlen]), hgood]
  dsimp only
  rw [if_neg (by rw [hfree]; decide), if_neg (by rw [hcool]; decide), if_neg (by rw [hadmit]; decide)]

end Region

theorem bodyLedgerSweep_writes {k : Cmd} {c : Chip} (hlen : k.payload.length = 4) (h1 : 1 ≤ fld k.payload 1 1)
    (h127 : fld k.payload 1 1 ≤ 127) (hmode : waveMode (c.wave k.inst) (fld k.payload 2 1) = true) (hz : zeroAt k.payload 3 1 = true) :
    bodyLedgerSweep k c = .ok ((c.setAttr tyPanel k.inst 10
      (leBytes 4 (fld k.payload 0 1 + 256 * fld k.payload 1 1 + 65536 * fld k.payload 2 1))).bumpGen k.hnd) := by
  unfold bodyLedgerSweep
  dsimp only
  rw [if_neg (by simp; omega), if_neg (by simp; omega), if_neg (by simp [hmode]), if_neg (by simp [hz])]

theorem bodyFieldRefresh_of_form {k : Cmd} (c : Chip) (hlen : k.payload.length = 4)
    (hj : fld k.payload 0 1 ≤ 63 ∨ fld k.payload 0 1 = 0xFF) (hz : zeroAt k.payload 1 3 = true) :
    bodyFieldRefresh k c = if (c.panel k.inst).fault then .err stBusy noOfs c
      else .ok (((List.range 64).filter (fun i => c.fieldOn i && fieldPanel (c.fieldRec i) == k.inst
          && (fld k.payload 0 1 == 0xFF || i == fld k.payload 0 1))).foldl (fun c i => c.renderOrHold i) c) := by
  unfold bodyFieldRefresh
  dsimp only
  rw [if_neg (by simp [hlen]), if_neg (by rcases hj with h | h <;> simp <;> omega), if_neg (by simp [hz])]

end Sys2Proof.Machine

namespace Sys2Proof
open Machine

/-- Settles O30: per command the branch its conditions choose, and what that operation does to its controller or panel. -/
theorem busesAndPanelsTakeCommands : Obligations.BusesAndPanelsTakeCommands := by
  refine ⟨fun k s => ⟨?started, ?start, ?startBusy, ?stop, ?stopWaits, ?stopped, ?send, ?withdraw, ?cancel, ?absent, ?status, ?master⟩,
    fun k s => ⟨?powerOn, ?powerOff, ⟨?update, ?clear⟩, ?panelStatus, ?sweep, ?refresh⟩⟩
  case started => exact fun hready hp h => answers_of bodyCanStart hready rfl (bodyCanStart_started hp h)
  case start =>
    intro hready hp h hheld
    obtain ⟨hstarted, htec, hrecv, hmaster, hothers⟩ := canStart_canOf h
    exact ⟨_, answers_of bodyCanStart hready rfl (bodyCanStart_starts hp h hheld), hstarted, htec, hrecv, hmaster, hothers,
      .of_keeps (canStart_keeps (.refl _) k.inst s.chip (.refl _))⟩
  case startBusy => exact fun hready hp h hheld => ends_of bodyCanStart hready rfl (bodyCanStart_busy hp h hheld)
  case stop =>
    exact fun hready hp h hf => ⟨_, answers_of bodyCanStop hready rfl (bodyCanStop_idle hp h hf), canHalt_canOf s.chip k.inst⟩
  case stopWaits =>
    intro hready hp h hf hstop
    refine ⟨_, hready.leads bodyCanStop rfl (bodyCanStop_flying hp h hf hstop), ?_, ?_, setCan_samePlant ..⟩
    · rw [Chip.setCan_same]
    · rw [Chip.setCan_same]; exact h
  case stopped => exact fun hready hp h => answers_of bodyCanStop hready rfl (bodyCanStop_stopped hp h)
  case send =>
    intro hready h8 h72 hgood hnew excl q p runs room free
    have hsends : s.chip.canSends k.inst ↔ runs := Iff.rfl
    refine ⟨fun hruns hroom hnow => ?_, fun hruns hroom hexcl hfree => ?_, fun hruns => ?_, fun hruns hroom => ?_⟩
    · refine ⟨_, starts_of bodyCanSend hready rfl ?_, (sendNow_canOf s.chip k).1, (sendNow_canOf s.chip k).2, sendNow_samePlant s.chip k⟩
      rw [bodyCanSend_runs h8 h72 hgood hnew hruns hroom, if_pos]
      rcases hnow with hexcl | ⟨hempty, hcount⟩
      · rw [show bit (fld k.payload 4 1) 3 = true from hexcl, Bool.true_or]
      · simp [hempty, hcount]
    · obtain ⟨hqueued, hpend, hothers⟩ := sendLater_canOf s.chip k
      refine ⟨_, hready.leads bodyCanSend rfl (r := .held (s.chip.sendLater k)) ?_, hqueued, hpend, hothers, sendLater_samePlant s.chip k⟩
      rw [bodyCanSend_runs h8 h72 hgood hnew hruns hroom, if_neg]
      rw [show bit (fld k.payload 4 1) 3 = false from hexcl]
      simpa [free] using hfree
    · exact ends_of bodyCanSend hready rfl (bodyCanSend_busy h8 h72 hgood hnew hruns)
    · exact ends_of bodyCanSend hready rfl (bodyCanSend_full h8 h72 hgood hnew hruns hroom)
  case withdraw =>
    exact fun t x hready hlen hz hx hfound hfam hop hinst _ hphase hpend => answers_of bodyCanCancel hready rfl
      (bodyCanCancel_withdrawn hlen hz hx hfound hfam hop hinst hphase (cancelSend_pending _ hpend))
  case cancel =>
    exact fun t x hready hlen hz hx hfound hfam hop hinst _ hq =>
      ⟨fun hphase => answers_of bodyCanCancel hready rfl (bodyCanCancel_fetched hlen hz hx hfound hfam hop hinst hphase hq),
        fun f hphase hpend hf hmine => hready.leads bodyCanCancel rfl
          (bodyCanCancel_waits hlen hz hx hfound hfam hop hinst hphase (cancelSend_flying _ hpend hq hf hmine))⟩
  case absent => exact fun x hready hlen hz hx h => ends_of bodyCanCancel hready rfl (bodyCanCancel_absent hlen hz hx h)
  case status => exact fun hready hp => answers_of bodyCanStatus hready rfl (if_neg (by simp [hp]))
  case master =>
    intro hready hlen hp hz
    refine ⟨_, answers_of bodyCanTimeMaster hready rfl (bodyCanTimeMaster_writes s.chip hlen hp hz), rfl, ?_, fun h7 => ?_, fun hff => ?_⟩
    · rw [ttCfg_written, timeMaster_master]
    · rw [ttCfg_written, timeMaster_prio, if_neg (by omega), Nat.mod_eq_of_lt (by omega)]
    · rw [ttCfg_written, timeMaster_prio, if_pos hff]
  case powerOn =>
    intro hready hlen hon hforce hz hidle hheld
    have hbody := bodyPanelPower_on hlen hforce hz hidle hon hheld
    refine ⟨fun hoff hcool => ?_, fun hup => ?_, fun hnot hhot => ?_⟩
    · obtain ⟨hrails, hstep, hpower⟩ := railsRise_off (d := k.inst)
        (c := s.chip.modPanel k.inst (fun s => { s with power := some (k.ctx, k.tag, true) })) (by rw [Chip.modPanel_same]; exact hoff)
      rw [if_neg (by simp [hoff]), if_neg (by simp [hcool])] at hbody
      refine ⟨_, starts_of bodyPanelPower hready rfl hbody, hrails, hstep, hpower.trans (by rw [Chip.modPanel_same]), fun j hj => ?_, ?_⟩
      · rw [railsRise_other _ hj, Chip.modPanel_other _ _ hj]
      · exact (railsRise_keeps (.refl _) k.inst _ (modPanel_keeps (.refl _) k.inst _ s.chip (.refl _))).slots
    · rw [if_pos (by simp [hup])] at hbody
      exact hready.leads bodyPanelPower rfl hbody
    · rw [if_neg (by simp [hnot]), if_pos hhot] at hbody
      exact ends_of bodyPanelPower hready rfl hbody
  case powerOff =>
    intro hready hlen hoff hforce hz hidle force rest
    have hbody := bodyPanelPower_off hlen hforce hz hidle hoff
    refine ⟨fun hup hrest => ?_, fun hrails => ?_, fun hrails hrest hf => ?_⟩
    · rw [if_neg (by simp [hup]), if_neg, if_pos (by simp [hup])] at hbody
      · refine ⟨_, starts_of bodyPanelPower hready rfl hbody, ?_, ?_, fun j hj => ?_⟩
        · rw [Chip.modPanel_same]
        · rw [Chip.modPanel_same, Chip.modPanel_same]
        · rw [Chip.modPanel_other _ _ hj, Chip.modPanel_other _ _ hj]
      · rcases hrest with ⟨htrans, hpend⟩ | hf
        · simp [htrans, hpend]
        · rw [show bit (fld k.payload 1 1) 0 = true from hf]
          simp
    · rw [if_pos (by simp [hrails])] at hbody
      exact hready.leads bodyPanelPower rfl hbody
    · rw [if_neg (by simp [hrails]), if_pos] at hbody
      · exact ends_of bodyPanelPower hready rfl hbody
      · rw [show bit (fld k.payload 1 1) 0 = false from hf]
        by_cases htrans : s.chip.anyTransition k.inst = true
        · simp [htrans]
        · simpa [rest, htrans] using hrest
  case update =>
    intro hready hlen hgood
    refine ⟨fun hfree hcool hadmit => ?_, fun h => ends_of bodyRegionUpdate hready rfl (region_busy hlen hgood h)⟩
    exact ⟨_, _, hready.leads bodyRegionUpdate rfl (region_places hlen hgood hfree hcool hadmit), (placeUpdate_panel ..).1, rfl, rfl, rfl,
      rfl, rfl, rfl, rfl, rfl, (placeUpdate_panel ..).2, placeUpdate_ring ..⟩
  case clear =>
    intro hready hlen hgood
    refine ⟨fun hfree hcool hadmit => ?_, fun h => ends_of bodyRegionClear hready rfl (region_busy hlen hgood h)⟩
    exact ⟨_, _, hready.leads bodyRegionClear rfl (region_places hlen hgood hfree hcool hadmit), (placeUpdate_panel ..).1, rfl, rfl, rfl,
      rfl, rfl, rfl, rfl, (placeUpdate_panel ..).2, placeUpdate_ring ..⟩
  case panelStatus => exact fun hready hp => answers_of bodyPanelStatus hready rfl (if_neg (by simp [hp]))
  case sweep =>
    intro hready hlen h1 h127 hmode hz
    refine ⟨_, answers_of bodyLedgerSweep hready rfl (bodyLedgerSweep_writes hlen h1 h127 hmode hz), ?_, rfl⟩
    rw [(bumpGen_keeps (.refl _) k.hnd _ (.refl _)).attr_eq rfl, Chip.attr_setAttr_same]
  case refresh =>
    intro hready hlen hj hz
    refine ⟨fun h => answers_of bodyFieldRefresh hready rfl ?_, fun h => ends_of bodyFieldRefresh hready rfl ?_⟩
    · rw [bodyFieldRefresh_of_form s.chip hlen hj hz, h]
      rfl
    · rw [bodyFieldRefresh_of_form s.chip hlen hj hz, h]
      rfl

end Sys2Proof
end

section
-- One proof after another: side by side, the stacks of their threads reach the check's limit of memory.
set_option Elab.async false
/-! The reset of the main side, and the power and thermal commands (spec/15, spec/16; R469–R472, R492–R500). -/

namespace Sys2Proof.Machine

/-! ### Bits of a register -/

theorem bits_setBits_above {n lo w v l u : Nat} (h : lo + w ≤ l) : bits (setBits n lo w v) l u = bits n l u := by
  unfold bits setBits
  obtain ⟨d, rfl⟩ := Nat.exists_eq_add_of_le h
  have hlo : n % 2 ^ lo < 2 ^ lo := Nat.mod_lt _ (by positivity)
  have hv : v % 2 ^ w < 2 ^ w := Nat.mod_lt _ (by positivity)
  have hlow : n % 2 ^ lo + v % 2 ^ w * 2 ^ lo < 2 ^ (lo + w) := by
    rw [pow_add]
    calc n % 2 ^ lo + v % 2 ^ w * 2 ^ lo < 2 ^ lo + v % 2 ^ w * 2 ^ lo := by omega
      _ = (v % 2 ^ w + 1) * 2 ^ lo := by ring
      _ ≤ 2 ^ w * 2 ^ lo := Nat.mul_le_mul_right _ hv
      _ = 2 ^ lo * 2 ^ w := Nat.mul_comm _ _
  rw [pow_add _ _ d, ← Nat.div_div_eq_div_mul, Nat.add_mul_div_right _ _ (by positivity), Nat.div_eq_of_lt hlow, Nat.zero_add,
    ← Nat.div_div_eq_div_mul]

theorem bit_eq_testBit (n i : Nat) : bit n i = n.testBit i := by
  rw [bit, Nat.testBit_eq_decide_div_mod_eq]
  rfl

theorem bit_or_pow (n i : Nat) : bit (n ||| 2 ^ i) i = true := by
  rw [bit_eq_testBit, Nat.testBit_or, Nat.testBit_two_pow_self, Bool.or_true]

/-- RESET_CAUSE after a source: its bit, and the source in FIRST. -/
theorem causeAfter_source (w dog : Nat) {b : Nat} (hb : b < 8) :
    bit (BitVec.ofNat 32 (causeAfter w b dog false)).toNat b = true ∧
      bits (BitVec.ofNat 32 (causeAfter w b dog false)).toNat 8 4 = b := by
  have hbelow : ∀ l u, l + u ≤ 12 → bits (causeAfter w b dog false) l u = bits (setBits (w ||| 2 ^ b) 8 4 b) l u := by
    intro l u h
    unfold causeAfter
    dsimp only
    rw [if_neg (by decide), bits_setBits_below (by omega)]
    split
    · rw [bits_setBits_below h]; rfl
    · rfl
  rw [BitVec.toNat_ofNat, bit_eq_bits, bits_mod_pow (by omega), bits_mod_pow (by decide), hbelow b 1 (by omega), hbelow 8 4 (by decide),
    bits_setBits_same, bits_setBits_below (by omega), ← bit_eq_bits]
  exact ⟨bit_or_pow w b, by omega⟩

/-! ### The reset of the main side -/

section MainReset

variable {c : Chip} (b dog : Nat)

/-- A source that meets a running main side resets it and is noted as the first. -/
theorem mainReset_power (h : c.mainRuns = true) : (c.mainReset b dog).power = { c.power with
    debugHalt := false, resetCause := BitVec.ofNat 32 (causeAfter c.power.resetCause.toNat b dog false), main := .reset
    lastReset := some c.clk.now, bootCount := c.power.bootCount + 1 } := by
  have hclear : c.mainClear.power = { c.power with debugHalt := false } := rfl
  have hnote : ∀ d : Chip, (d.noteCause b dog false).power =
      { d.power with resetCause := BitVec.ofNat 32 (causeAfter d.power.resetCause.toNat b dog false) } := fun _ => rfl
  rw [Chip.mainReset, if_pos h]
  dsimp only [Chip.setPower]
  rw [hnote, hclear]

theorem mainReset_cmds (h : c.mainRuns = true) : (c.mainReset b dog).cmds = [] := by
  rw [Chip.mainReset, if_pos h]
  rfl

theorem mainReset_ring (h : c.mainRuns = true) : (c.mainReset b dog).ring = [] := by
  rw [Chip.mainReset, if_pos h]
  rfl

theorem mainReset_slots : (c.mainReset b dog).slots = c.slots := (mainReset_keeps (.refl _) b dog c (.refl c)).slots
theorem mainReset_flash : (c.mainReset b dog).flash = c.flash := (mainReset_keeps (.refl _) b dog c (.refl c)).flash
theorem mainReset_clk : (c.mainReset b dog).clk = c.clk := (mainReset_keeps (.refl _) b dog c (.refl c)).clk

theorem mainReset_source (h : c.mainRuns = true) (hb : b < 8) : (c.mainReset b dog).power.main = .reset ∧
    bit (c.mainReset b dog).power.resetCause.toNat b = true ∧ bits (c.mainReset b dog).power.resetCause.toNat 8 4 = b := by
  rw [mainReset_power b dog h]
  exact ⟨rfl, causeAfter_source _ dog hb⟩

end MainReset

theorem mainRuns_of_up {c : Chip} (h : c.power.main.up = true) : c.mainRuns = true := by
  rw [Chip.mainRuns, h, Bool.true_or]

/-- The reset row: the earliest delay that is over resets the main side and is done with. -/
theorem resetRow_of_delay {c : Chip} {d : Nat} (hd : c.power.resetAt.min? = some d) (ho : c.power.aoOn = true) :
    c.resetRow = ((c.waitUntil d).setPower (fun p => { p with resetAt := p.resetAt.erase d })).mainReset 6 0 := by
  unfold Chip.resetRow
  rw [hd]
  dsimp only
  rw [if_neg (by simp [ho])]

/-! ### Power and thermal commands -/

theorem bodyReset_delays {k : Cmd} (c : Chip) (hlen : k.payload.length = 4) (h10 : 10 ≤ fld k.payload 0 2)
    (h5000 : fld k.payload 0 2 ≤ 5000) (hz : zeroAt k.payload 2 2 = true) :
    bodyReset k c = .ok (c.setPower (fun w => { w with resetAt := w.resetAt ++ [c.clk.now + ms (fld k.payload 0 2)] })) := by
  unfold bodyReset
  dsimp only
  rw [if_neg (by simp [hlen]), if_neg (by simp; omega), if_neg (by simp [hz])]

theorem bodyBudgetSet_sets {k : Cmd} {c : Chip} (ho : c.ownerIsMgt (handle tyThermal 0) = isMgtCtx k.ctx) (hlen : k.payload.length = 4)
    (h2850 : 2850 ≤ fld k.payload 0 2) (h4000 : fld k.payload 0 2 ≤ 4000) (hz : zeroAt k.payload 2 2 = true) :
    bodyBudgetSet k c = .okWith [BitVec.ofNat 8 (floorStep (fld k.payload 0 2)), 0, 0, 0] (c.setBudget (fld k.payload 0 2)) := by
  unfold bodyBudgetSet
  dsimp only
  rw [if_neg (by simp [ho]), if_neg (by simp [hlen]), if_neg (by simp; omega), if_neg (by simp [hz])]

/-- RESET_CAUSE as RESET_CAUSE_READ leaves it: its flags and its count clear. -/
theorem resetCause_cleared (w : Word) :
    bits (BitVec.ofNat 32 (setBits (setBits w.toNat 0 8 0) 20 8 0)).toNat 0 8 = 0 ∧
      bits (BitVec.ofNat 32 (setBits (setBits w.toNat 0 8 0) 20 8 0)).toNat 20 8 = 0 ∧
      bits (BitVec.ofNat 32 (setBits (setBits w.toNat 0 8 0) 20 8 0)).toNat 8 12 = bits w.toNat 8 12 := by
  rw [BitVec.toNat_ofNat, bits_mod_pow (by decide), bits_mod_pow (by decide), bits_mod_pow (by decide)]
  refine ⟨?_, ?_, ?_⟩
  · rw [bits_setBits_below (by decide), bits_setBits_same, Nat.zero_mod]
  · rw [bits_setBits_same, Nat.zero_mod]
  · rw [bits_setBits_below (by decide), bits_setBits_above (by decide)]

end Sys2Proof.Machine

namespace Sys2Proof
open Machine

/-- Settles O31: the answers are the bodies' own; the reset row resets a running main side; RESET_CAUSE_READ clears two fields of
RESET_CAUSE. -/
theorem powerTakesCommands : Obligations.PowerTakesCommands := by
  refine fun k s => ⟨?status, ?thermal, ?reset, ?expiry, ?cause, ?budget, ?notOwner⟩
  case status =>
    intro hready hp
    refine ⟨_, answers_of bodyPowerStatus hready rfl (if_neg (by simp [hp])), ?_, ?_⟩
    · simp [List.take_append, List.take_of_length_le]
    · simp
  case thermal => exact fun hready hp => answers_of bodyThermalStatus hready rfl (if_neg (by simp [hp]))
  case reset =>
    exact fun hready hlen h10 h5000 hz => answers_of bodyReset hready rfl (bodyReset_delays s.chip hlen h10 h5000 hz)
  case expiry =>
    intro d hd ho hup
    let c := (s.chip.waitUntil d).setPower (fun p => { p with resetAt := p.resetAt.erase d })
    have hframe : Keeps (Field.clk ||| Field.rtc ||| Field.power) s.chip c :=
      setPower_keeps (.of rfl) _ _ (waitUntil_keeps (.of rfl) d s.chip (.refl _))
    have hpower : c.power = { s.chip.power with resetAt := s.chip.power.resetAt.erase d } := by
      show _ = _
      rw [← Chip.waitUntil_power (c := s.chip) d]
      rfl
    have hruns : c.mainRuns = true := mainRuns_of_up (by rw [hpower]; exact hup)
    obtain ⟨hmain, hbit, hfirst⟩ := mainReset_source 6 0 hruns (by decide)
    refine ⟨_, Leads.of_eq rfl (resetRow_of_delay hd ho), hmain, hbit, hfirst, ?_, ?_, mainReset_cmds 6 0 hruns, mainReset_ring 6 0 hruns,
      (mainReset_slots 6 0).trans hframe.slots, (mainReset_flash 6 0).trans hframe.flash⟩
    · rw [mainReset_power 6 0 hruns]
      exact congrArg PowerSt.resetAt hpower
    · rw [mainReset_clk]
      exact s.chip.le_waitUntil d
  case cause =>
    intro hready hp
    refine ⟨_, answers_of bodyResetCauseRead hready rfl (if_neg (by simp [hp])), ?_⟩
    have hplant : ∀ f, SamePlant s.chip (s.chip.setPower f) := fun _ => .refl _
    obtain ⟨hflags, hcount, hrest⟩ := resetCause_cleared s.chip.power.resetCause
    rw [Chip.setPower_power]
    exact ⟨hflags, hcount, hrest, rfl, hplant _⟩
  case budget =>
    exact fun hready ho hlen h2850 h4000 hz => answers_of bodyBudgetSet hready rfl (bodyBudgetSet_sets ho hlen h2850 h4000 hz)
  case notOwner => exact fun hready ho => ends_of bodyBudgetSet hready rfl (if_pos (bne_iff_ne.mpr ho))

end Sys2Proof
end

section
-- One proof after another: side by side, the stacks of their threads reach the check's limit of memory.
set_option Elab.async false
/-! The firmware bank and Yelist image commands (spec/15, spec/17; R479–R485, R517–R522). -/

namespace Sys2Proof.Machine

/-! ### The bank pointer and the bodies of the banks -/

/-- A write of the pointer changes the pointer and the copy before it alone; its sequence number is its own. -/
theorem writePtr_eq (p : BankPtr) (f : FirmwareSt) : ∃ o n, f.writePtr p = { f with ptrOld := o, ptr := { p with seq := n } } := by
  unfold FirmwareSt.writePtr
  split
  case isTrue h => exact ⟨f.ptrOld, p.seq, by rw [beq_iff_eq.mp h]⟩
  case isFalse => exact ⟨_, _, rfl⟩

theorem writePtr_bank (p : BankPtr) (f : FirmwareSt) : (f.writePtr p).ptr.bank = p.bank ∧ (f.writePtr p).ptr.trial = p.trial ∧
    (f.writePtr p).ptr.tries = p.tries ∧ ∀ b, (f.writePtr p).ptr.incomplete b = p.incomplete b := by
  obtain ⟨o, n, h⟩ := writePtr_eq p f
  rw [h]
  exact ⟨rfl, rfl, rfl, fun _ => rfl⟩

theorem writePtr_rest (p : BankPtr) (f : FirmwareSt) : (f.writePtr p).commit = f.commit ∧ (f.writePtr p).running = f.running := by
  obtain ⟨o, n, h⟩ := writePtr_eq p f
  rw [h]
  exact ⟨rfl, rfl⟩

theorem setBody_rest (f : FirmwareSt) (b : Bool) (x : BankBody) : (f.setBody b x).ptr = f.ptr ∧ (f.setBody b x).commit = f.commit ∧
    (f.setBody b x).running = f.running ∧ (f.setBody b x).body b = x := by
  cases b <;> exact ⟨rfl, rfl, rfl, rfl⟩

theorem setIncomplete_same (p : BankPtr) (b v : Bool) : (p.setIncomplete b v).incomplete b = v := by
  cases b <;> rfl

theorem setIncomplete_bank (p : BankPtr) (b v : Bool) : (p.setIncomplete b v).bank = p.bank := by
  cases b <;> rfl

/-! ### FW_WRITE and FW_COMMIT -/

section FwWrite

variable {k : Cmd} {c : Chip} (hlen : 5 ≤ k.payload.length) (hend : fld k.payload 0 4 + k.payload.length ≤ 4194308)
  (hnext : fld k.payload 0 4 = 0 ∧ (c.firmware.bufferOwner = none ∨ ∃ b, c.firmware.bufferOwner = some (k.ctx, b)) ∨
    c.firmware.bufferOwner = some (k.ctx, k.inst == 1) ∧ fld k.payload 0 4 = c.firmware.buffer.length)

include hlen hend hnext

theorem bodyFwWrite_of_next : bodyFwWrite k c =
    if c.firmware.running == some (k.inst == 1) || c.firmware.commit.isSome then .err stBusy noOfs c
    else .ok (c.setFw (fun f => { f with
      buffer := (if fld k.payload 0 4 == 0 then [] else f.buffer) ++ k.payload.drop 4, bufferOwner := some (k.ctx, k.inst == 1) })) := by
  unfold bodyFwWrite
  dsimp only
  have hsize : decide (4194304 < fld k.payload 0 4 + (k.payload.drop 4).length) = false := by simp; omega
  rcases hnext with ⟨hzero, howner | ⟨b, howner⟩⟩ | ⟨howner, hofs⟩
  · rw [howner, if_neg (by omega), if_neg (by rw [hsize]; simp [hzero])]
    simp only [Bool.or_false]
  · rw [howner, if_neg (by omega), if_neg (by rw [hsize]; simp [hzero])]
    simp only [bne_self_eq_false, Bool.or_false]
  · rw [howner, if_neg (by omega), if_neg (by rw [hsize]; simp [hofs])]
    simp only [bne_self_eq_false, Bool.or_false]

end FwWrite

section FwCommit

variable {k : Cmd} {c : Chip} (hlen : k.payload.length = 4) (hmode : fld k.payload 0 1 ≤ 1) (hz : zeroAt k.payload 1 3 = true)

include hlen hmode hz

theorem bodyFwCommit_busy (h : c.firmware.running = some (k.inst == 1) ∨ c.firmware.commit ≠ none) :
    bodyFwCommit k c = .err stBusy noOfs c := by
  unfold bodyFwCommit
  dsimp only
  rw [if_neg (by simp [hlen]), if_neg (by omega), if_neg (by simp [hz]), if_pos]
  rw [Bool.or_eq_true, beq_iff_eq, Option.isSome_iff_ne_none]
  exact h

variable (hother : c.firmware.running ≠ some (k.inst == 1)) (hidle : c.firmware.commit = none)

include hother hidle

theorem bodyFwCommit_unsound (h : ∀ x, c.firmware.bufferOwner = some (x, k.inst == 1) → firmwareImageOk c.firmware.buffer = false) :
    bodyFwCommit k c = .acceptedDone stBadParam noOfs [] c := by
  unfold bodyFwCommit
  dsimp only
  rw [if_neg (by simp [hlen]), if_neg (by omega), if_neg (by simp [hz]), if_neg (by
    rw [hidle]
    simpa using hother)]
  cases howner : c.firmware.bufferOwner with
  | none => rfl
  | some o =>
    obtain ⟨x, b⟩ := o
    dsimp only
    rw [if_neg]
    intro hb
    rw [Bool.and_eq_true, beq_iff_eq] at hb
    rw [hb.1] at howner
    exact absurd hb.2 (by rw [h x howner]; decide)

theorem bodyFwCommit_commits {x : Nat} (howner : c.firmware.bufferOwner = some (x, k.inst == 1))
    (hok : firmwareImageOk c.firmware.buffer = true) :
    bodyFwCommit k c = .accepted { c with
      flash := Tbl.dropRange c.flash (bankBase (k.inst == 1)) (bankBase (k.inst == 1) + 0x400000)
      firmware := ({ c.firmware with
        commit := some (k.ctx, k.tag, k.inst == 1, bit (fld k.payload 0 1) 0 && c.firmware.running.isSome) }.writePtr
          (c.firmware.ptr.setIncomplete (k.inst == 1) true)).setBody (k.inst == 1) .erased } := by
  unfold bodyFwCommit
  dsimp only
  rw [if_neg (by simp [hlen]), if_neg (by omega), if_neg (by simp [hz]), if_neg (by
    rw [hidle]
    simpa using hother), howner]
  dsimp only
  rw [if_pos (by rw [hok, beq_self_eq_true]; rfl)]

end FwCommit

/-! ### FW_COMMIT_DONE -/

/-- The module with the image written to its bank and the pointer on it. -/
def Chip.fwWritten (b tr : Bool) (c : Chip) : Chip :=
  let f := c.firmware
  { c with
    flash := Tbl.setRun dByteFF c.flash (bankBase b) (f.buffer.take (fld f.buffer 8 4))
    firmware := ({ f with commit := none, buffer := [], bufferOwner := none }.writePtr
      { f.ptr.setIncomplete b false with bank := b, trial := tr, tries := if tr then 3 else 0 }).setBody b
        (.image true (fld f.buffer 4 3) (fld f.buffer 8 4)) }

/-- The module after a commit whose verification failed twice. -/
def Chip.fwFailed (c : Chip) : Chip := (c.setFw (fun f => { f with commit := none })).logFault 6 2

theorem fwCommitDone_of_commit {c : Chip} {x t : Nat} {b tr : Bool} (n : Nat) (h : c.firmware.commit = some (x, t, b, tr)) :
    c.fwCommitDone n = if n < 2 then (c.fwWritten b tr).finishTag x t stOK noOfs []
      else c.fwFailed.finishTag x t stStoreWriteFail noOfs [] := by
  unfold Chip.fwCommitDone
  rw [h]
  rfl

theorem fwWritten_firmware (c : Chip) (b tr : Bool) : (c.fwWritten b tr).firmware.ptr.bank = b ∧
    (c.fwWritten b tr).firmware.ptr.incomplete b = false ∧ (c.fwWritten b tr).firmware.ptr.trial = tr ∧
    (tr = true → (c.fwWritten b tr).firmware.ptr.tries = 3) ∧ (c.fwWritten b tr).firmware.commit = none ∧
    (c.fwWritten b tr).firmware.running = c.firmware.running := by
  unfold Chip.fwWritten
  dsimp only
  simp only [setBody_rest, writePtr_bank, writePtr_rest]
  refine ⟨trivial, ?_, trivial, fun h => by rw [h]; rfl, trivial, trivial⟩
  exact setIncomplete_same c.firmware.ptr b false

theorem fwFailed_firmware (c : Chip) : c.fwFailed.firmware = { c.firmware with commit := none } :=
  (logFault_keeps (.refl _) 6 2 _ (.refl (c.setFw (fun f => { f with commit := none })))).firmware

/-! ### FW_SELECT -/

section FwSelect

variable {k : Cmd} {c : Chip} (hlen : k.payload.length = 4) (hz : zeroAt k.payload 1 3 = true)

include hlen hz

theorem bodyFwSelect_choose (hmode : fld k.payload 0 1 = 1) : bodyFwSelect k c =
    if c.firmware.ptr.incomplete (k.inst == 1) then .err stUpdateIncomplete noOfs c
    else if !(c.firmware.body (k.inst == 1)).sound then .badParam 0 c
    else .ok (c.setFw (fun f => f.writePtr { f.ptr with bank := k.inst == 1, trial := false, tries := 0 })) := by
  unfold bodyFwSelect
  dsimp only
  rw [if_neg (by simp [hlen]), if_neg (by omega), if_neg (by simp [hz]), if_neg (by simp [hmode])]

theorem bodyFwSelect_confirm (hmode : fld k.payload 0 1 = 0) : bodyFwSelect k c =
    if c.firmware.ptr.bank == (k.inst == 1) && c.firmware.running == some (k.inst == 1) then
      .ok (c.setFw (fun f => f.writePtr { f.ptr with trial := false, tries := 0 }))
    else .badParam 0 c := by
  unfold bodyFwSelect
  dsimp only
  rw [if_neg (by simp [hlen]), if_neg (by omega), if_neg (by simp [hz]), if_pos (by simp [hmode])]

end FwSelect

/-! ### Images -/

/-- The sectors of an image slot at `base` that the `n` bytes from `off` on begin. -/
def imageSectors (off n : Nat) : List Nat :=
  (List.range (slotSize / 65536)).filter (fun s => decide (off ≤ 65536 * s) && decide (65536 * s < off + n))

/-- The flash with those sectors erased. -/
def eraseSectors (base : Nat) (l : List Nat) (f : Tbl Byte) : Tbl Byte :=
  l.foldl (fun f s => Tbl.dropRange f (base + 65536 * s) (base + 65536 * s + 65536)) f

theorem eraseSectors_outside (base : Nat) {l : List Nat} (hl : ∀ s ∈ l, s < 48) (f : Tbl Byte) {a : Nat}
    (ha : a < base ∨ base + slotSize ≤ a) : Tbl.get dByteFF (eraseSectors base l f) a = Tbl.get dByteFF f a := by
  induction l generalizing f with
  | nil => rfl
  | cons s l ih =>
    have hs : s < 48 := hl s List.mem_cons_self
    have hslot : slotSize = 3145728 := rfl
    rw [eraseSectors, List.foldl_cons, ← eraseSectors, ih (fun t ht => hl t (List.mem_cons_of_mem _ ht))]
    exact Tbl.get_dropRange_out _ _ _ _ _ (by omega)

theorem imageSectors_lt {off n s : Nat} (h : s ∈ imageSectors off n) : s < 48 :=
  List.mem_range.mp (List.mem_of_mem_filter h)

/-- The module with a chunk of an image written. -/
def Chip.imageWritten (c : Chip) (ctx off : Nat) (data : List Byte) : Chip :=
  { c with
    flash := Tbl.setRun dByteFF (eraseSectors (slotBase (!c.image.slot)) (imageSectors off data.length) c.flash)
      (slotBase (!c.image.slot) + off) data
    image := { c.image with writer := some (ctx, off + data.length) } }

theorem bodyYelistWrite_busy {k : Cmd} {c : Chip} (hlen : 5 ≤ k.payload.length)
    (h : c.imageBusy = true ∨ ∃ x n, c.image.writer = some (x, n) ∧ x ≠ k.ctx) : bodyYelistWrite k c = .err stBusy noOfs c := by
  unfold bodyYelistWrite
  dsimp only
  rw [if_neg (by omega), if_pos]
  rcases h with h | ⟨x, n, hw, hx⟩
  · rw [h, Bool.or_true]
  · rw [hw]
    simp [hx]

theorem bodyYelistWrite_writes {k : Cmd} {c : Chip} (hlen : 5 ≤ k.payload.length) (hidle : c.imageBusy = false)
    (hend : fld k.payload 0 4 + k.payload.length ≤ slotSize + 4)
    (hw : c.image.writer = none ∧ fld k.payload 0 4 = 0 ∨ c.image.writer = some (k.ctx, fld k.payload 0 4)) :
    bodyYelistWrite k c = .ok (c.imageWritten k.ctx (fld k.payload 0 4) (k.payload.drop 4)) := by
  unfold bodyYelistWrite
  dsimp only
  have hsize : decide (slotSize < fld k.payload 0 4 + (k.payload.drop 4).length) = false := by simp; omega
  rcases hw with ⟨hw, hofs⟩ | hw
  · rw [hw, if_neg (by omega), if_neg (by simp [hidle]), if_neg (by rw [hsize]; simp [hofs])]
    rfl
  · rw [hw, if_neg (by omega), if_neg (by simp [hidle]), if_neg (by rw [hsize]; simp)]
    rfl

section YelistLoad

variable {k : Cmd} {c : Chip} (hlen : k.payload.length = 4) (h7 : fld k.payload 0 1 ≤ 7)
  (hmgt : bit (fld k.payload 0 1) 1 = true → isMgtCtx k.ctx = true) (hz : zeroAt k.payload 1 3 = true)

include hlen h7 hmgt hz

theorem bodyYelistLoad_of_form : bodyYelistLoad k c = if c.imageBusy then .err stBusy noOfs c
    else .accepted { c with image := { c.image with
      loading := some (k.ctx, k.tag), writer := none, badFlash := [], holding := c.holdPanels (fld k.payload 0 1) } } := by
  unfold bodyYelistLoad
  dsimp only
  rw [if_neg (by simp [hlen]), if_neg (by omega), if_neg (by simp [hz]), if_neg (by simpa using hmgt)]

end YelistLoad

end Sys2Proof.Machine

namespace Sys2Proof
open Machine

/-- Settles O32: per command the branch its conditions choose; what it makes of the pointer, the banks and the flash. -/
theorem firmwareAndImagesAreWritten : Obligations.FirmwareAndImagesAreWritten := by
  refine ⟨fun k s => ⟨?info, ?write, ?commit, ?done, ?select, ?identity⟩, fun k s => ⟨?yelist, ?load⟩⟩
  case info =>
    intro hready hp data
    have hbody : bodyFwInfo k s.chip = .done (if s.chip.firmware.bankState false == 2 || s.chip.firmware.bankState true == 2
        then stUpdateIncomplete else stOK) noOfs data s.chip := if_neg (by simp [hp])
    refine ⟨fun hf ht => ?_, fun h => ?_⟩
    · rw [if_neg (by simp [hf, ht])] at hbody
      exact answers_of bodyFwInfo hready rfl hbody
    · rw [if_pos (by simpa using h)] at hbody
      exact ends_of bodyFwInfo hready rfl hbody
  case write =>
    intro hready hlen hend hnext
    have hbody := bodyFwWrite_of_next hlen hend hnext
    refine ⟨fun hrun hidle => ?_, fun h => ?_⟩
    · rw [if_neg (by rw [hidle]; simpa using hrun)] at hbody
      refine ⟨_, answers_of bodyFwWrite hready rfl hbody, ?_, rfl, rfl, .of_keeps (setFw_keeps (.refl _) _ s.chip (.refl _))⟩
      refine congrArg (· ++ k.payload.drop 4) ?_
      split
      case isTrue h => rw [beq_iff_eq.mp h]; rfl
      case isFalse h =>
        rcases hnext with ⟨hzero, -⟩ | ⟨-, hofs⟩
        · exact absurd (beq_iff_eq.mpr hzero) h
        · rw [hofs, List.take_length]
    · rw [if_pos (by
        rw [Bool.or_eq_true, beq_iff_eq, Option.isSome_iff_ne_none]
        exact h)] at hbody
      exact ends_of bodyFwWrite hready rfl hbody
  case commit =>
    intro hready hlen hmode hz
    refine ⟨fun x hrun hidle howner hok => ?_, fun hrun hidle h => ?_, fun h => ?_⟩
    · refine ⟨_, starts_of bodyFwCommit hready rfl (bodyFwCommit_commits hlen hmode hz hrun hidle howner hok), ?_, ?_, ?_, ?_,
        fun a h1 h2 => Tbl.get_dropRange_in _ _ _ _ _ h1 h2, fun a h => Tbl.get_dropRange_out _ _ _ _ _ h⟩
      · simp only [setBody_rest, writePtr_bank, setIncomplete_same]
      · simp only [setBody_rest, writePtr_bank, setIncomplete_bank]
      · simp only [setBody_rest]
      · simp only [setBody_rest, writePtr_rest]
    · exact hready.leads bodyFwCommit rfl (bodyFwCommit_unsound hlen hmode hz hrun hidle h)
    · exact ends_of bodyFwCommit hready rfl (bodyFwCommit_busy hlen hmode hz h)
  case done =>
    intro x t b tr n h
    have hdone := fwCommitDone_of_commit n h
    refine ⟨fun hn => ?_, fun hn => ?_⟩
    · rw [if_pos hn] at hdone
      obtain ⟨hbank, hinc, htrial, htries, hcommit, hrunning⟩ := fwWritten_firmware s.chip b tr
      refine ⟨_, Leads.of_eq rfl hdone, hbank, hinc, htrial, htries, hcommit, hrunning, fun i hi => ?_, fun a ha => ?_⟩
      · refine (Tbl.get_setRun_at _ _ _ _ i hi).trans ?_
        rw [List.getElem_take, List.getD_eq_getElem]
      · exact Tbl.get_setRun_other _ _ _ _ _ ha
    · rw [if_neg (by omega)] at hdone
      refine ⟨_, Leads.of_eq rfl hdone, ?_, ?_, (logFault_keeps (.refl _) 6 2 _ (.refl _)).flash⟩
      · rw [fwFailed_firmware]
      · rw [fwFailed_firmware]
  case select =>
    intro hready hlen hz
    refine ⟨fun hmode hinc hsound => ?_, fun hmode hinc => ?_, fun hmode hinc hsound => ?_, fun hmode hbank hrun => ?_, fun hmode h => ?_⟩
    · have hbody := bodyFwSelect_choose (c := s.chip) hlen hz hmode
      rw [hinc, hsound] at hbody
      refine ⟨_, answers_of bodyFwSelect hready rfl hbody, ?_, ?_, ?_, rfl⟩
      · exact (writePtr_bank _ _).1
      · exact (writePtr_bank _ _).2.1
      · exact (writePtr_rest _ _).2
    · have hbody := bodyFwSelect_choose (c := s.chip) hlen hz hmode
      rw [hinc] at hbody
      exact ends_of bodyFwSelect hready rfl hbody
    · have hbody := bodyFwSelect_choose (c := s.chip) hlen hz hmode
      rw [hinc, hsound] at hbody
      exact ends_of bodyFwSelect hready rfl hbody
    · have hbody := bodyFwSelect_confirm (c := s.chip) hlen hz hmode
      rw [if_pos (by rw [hbank, hrun, beq_self_eq_true, beq_self_eq_true]; rfl)] at hbody
      refine ⟨_, answers_of bodyFwSelect hready rfl hbody, ?_, ?_, ?_, rfl⟩
      · exact (writePtr_bank _ _).1.trans hbank
      · exact (writePtr_bank _ _).2.1
      · exact (writePtr_rest _ _).2
    · have hbody := bodyFwSelect_confirm (c := s.chip) hlen hz hmode
      rw [if_neg (by simpa only [Bool.and_eq_true, beq_iff_eq] using h)] at hbody
      exact ends_of bodyFwSelect hready rfl hbody
  case identity => exact fun hready hp => answers_of bodyIdentityRead hready rfl (if_neg (by simp [hp]))
  case yelist =>
    intro hready hlen
    refine ⟨fun hidle hend hw => ?_, fun h => ends_of bodyYelistWrite hready rfl (bodyYelistWrite_busy hlen h)⟩
    have hdata : (k.payload.drop 4).length = k.payload.length - 4 := List.length_drop
    refine ⟨_, answers_of bodyYelistWrite hready rfl (bodyYelistWrite_writes hlen hidle hend hw), ?_, rfl, fun i hi => ?_, fun a ha => ?_⟩
    · rw [← hdata]; rfl
    · refine (Tbl.get_setRun_at _ _ _ _ i (by omega)).trans ?_
      rw [List.getElem_drop, List.getD_eq_getElem]
    · refine (Tbl.get_setRun_other _ _ _ _ _ (by omega)).trans (eraseSectors_outside _ (fun _ => imageSectors_lt) _ ha)
  case load =>
    intro hready hlen h7 hmgt hz
    have hbody := bodyYelistLoad_of_form (c := s.chip) hlen h7 hmgt hz
    refine ⟨fun hidle => ?_, fun hbusy => ?_⟩
    · rw [hidle] at hbody
      exact ⟨_, starts_of bodyYelistLoad hready rfl hbody, rfl, rfl, rfl, .refl _⟩
    · rw [hbusy] at hbody
      exact ends_of bodyYelistLoad hready rfl hbody

end Sys2Proof
end

section
-- One proof after another: side by side, the stacks of their threads reach the check's limit of memory.
set_option Elab.async false
/-! The event and queue commands (spec/03; R94, R95, R104, R110, R111). -/

namespace Sys2Proof.Machine

/-! ### Events -/

/-- A write of a route leaves what its event has counted, and the other events but those of the router's own losses. -/
theorem writeRoute_event (c : Chip) (e r : Nat) :
    (e ≠ 118 → e ≠ 119 → ((c.writeRoute e r).event e).pending = (c.event e).pending ∧
      ((c.writeRoute e r).event e).count = (c.event e).count) ∧
    ∀ j, j ≠ e → j ≠ 118 → j ≠ 119 → (c.writeRoute e r).event j = c.event j := by
  have halert : ∀ (d : Chip) (s : EventSt) (j : Nat), (d.alertEvent e s).event j = d.event j := fun d s j => by
    rw [Chip.event, alertEvent_events]
    rfl
  unfold Chip.writeRoute
  dsimp only
  split
  · split
    · refine ⟨fun h8 h9 => ?_, fun j hj h8 h9 => ?_⟩
      · rw [tellLost_event_other _ _ _ _ h8 h9, halert, Chip.setEvent_same]
        exact ⟨rfl, rfl⟩
      · rw [tellLost_event_other _ _ _ _ h8 h9, halert, Chip.setEvent_other _ _ _ _ hj]
        rfl
    · exact ⟨fun _ _ => by rw [Chip.setEvent_same]; exact ⟨rfl, rfl⟩, fun j hj _ _ => Chip.setEvent_other _ _ _ _ hj⟩
  · exact ⟨fun _ _ => ⟨rfl, rfl⟩, fun _ _ _ _ => rfl⟩

theorem writeRoute_slots (c : Chip) (e r : Nat) : (c.writeRoute e r).slots = c.slots :=
  (writeRoute_keeps (.refl _) e r c (.refl c)).slots

theorem bodyEventRoute_of_form {k : Cmd} (c : Chip) (hlen : k.payload.length = 4) (hz : bits (fld k.payload 0 4) 21 11 = 0) :
    bodyEventRoute k c = if c.routeRefused k.inst (fld k.payload 0 4) then .err stNoResource 16 c
      else .ok (c.writeRoute k.inst (fld k.payload 0 4)) := by
  unfold bodyEventRoute
  dsimp only
  rw [if_neg (by simp [hlen]), if_neg (by simp [hz])]

theorem bodyEventMask_writes {k : Cmd} (c : Chip) (hlen : k.payload.length = 4) (h1 : fld k.payload 0 1 ≤ 1)
    (hz : zeroAt k.payload 1 3 = true) :
    bodyEventMask k c = .ok (c.writeRoute k.inst (setBits (c.route k.inst) 2 1 (fld k.payload 0 1))) := by
  unfold bodyEventMask
  rw [if_neg (by simp [hlen]), if_neg (by omega), if_neg (by simp [hz])]

theorem bodyEventRead_of_form {k : Cmd} (c : Chip) (hlen : k.payload.length = 4) (h1 : fld k.payload 0 1 ≤ 1)
    (hz : zeroAt k.payload 1 3 = true) :
    bodyEventRead k c = .okWith ([BitVec.ofNat 8 (b2n (c.event k.inst).pending), 0]
        ++ leBytes 2 (c.event k.inst).count.toNat ++ leBytes 4 (c.event k.inst).cause.toNat ++ leBytes 4 (c.event k.inst).stamp.toNat)
      (if fld k.payload 0 1 = 1 then c.setEvent k.inst { c.event k.inst with pending := false, count := 0 } else c) := by
  unfold bodyEventRead
  rw [if_neg (by simp [hlen]), if_neg (by omega), if_neg (by simp [hz])]
  simp only [beq_iff_eq]
  rfl

/-! ### Queues -/

theorem setQueue_samePlant (c : Chip) (q : Nat) (s : QueueSt) : SamePlant c (c.setQueue q s) :=
  .of_keeps (setQueue_keeps (.refl _) q s c (.refl c))

/-- A queue that is configured takes its registers and is empty; no other queue has changed. -/
theorem configQueue_queue (c : Chip) (q : Nat) (p : List Byte) : ((c.configQueue q p).queue q).base = fld p 0 4 ∧
    ((c.configQueue q p).queue q).depth = fld p 4 2 ∧ ((c.configQueue q p).queue q).eshift = fld p 6 1 ∧
    ((c.configQueue q p).queue q).enable = decide (fld p 7 1 = 1) ∧ ((c.configQueue q p).queue q).coalCount = fld p 8 1 ∧
    ((c.configQueue q p).queue q).coalTime = fld p 10 2 ∧ ((c.configQueue q p).queue q).head = 0 ∧
    ((c.configQueue q p).queue q).tail = 0 ∧ ∀ j, j ≠ q → (c.configQueue q p).queue j = c.queue j := by
  have hset : ∃ s : QueueSt, (∀ j, (c.configQueue q p).queue j = (c.setQueue q s).queue j) ∧ s.base = fld p 0 4 ∧ s.depth = fld p 4 2 ∧
      s.eshift = fld p 6 1 ∧ s.enable = decide (fld p 7 1 = 1) ∧ s.coalCount = fld p 8 1 ∧ s.coalTime = fld p 10 2 ∧ s.head = 0 ∧
      s.tail = 0 := by
    unfold Chip.configQueue
    dsimp only
    split <;> exact ⟨_, fun _ => rfl, rfl, rfl, rfl, rfl, rfl, rfl, rfl, rfl⟩
  obtain ⟨s, hq, hrest⟩ := hset
  simp only [hq, Chip.setQueue_same, hrest, true_and]
  exact fun j hj => c.setQueue_other _ _ _ hj

theorem configQueue_samePlant (c : Chip) (q : Nat) (p : List Byte) : SamePlant c (c.configQueue q p) := by
  unfold Chip.configQueue
  dsimp only
  split <;> exact SamePlant.refl c

theorem bodyQueueConfig_of_good {k : Cmd} {c : Chip} (hlen : k.payload.length = 12) (hgood : c.queueConfigBad k.inst k.payload = none) :
    bodyQueueConfig k c = if ((c.queue k.inst).enable && (c.queue k.inst).fill != 0)
        || (decide (k.inst < 16) && (c.session (k.inst % 8)).opened) then .err stBusy noOfs c
      else .ok (c.configQueue k.inst k.payload) := by
  unfold bodyQueueConfig
  dsimp only
  rw [if_neg (by simp [hlen]), hgood]

theorem bodyCoalesceSet_of_form {k : Cmd} (c : Chip) (hlen : k.payload.length = 4) (h0 : fld k.payload 0 1 ≠ 0)
    (hz : zeroAt k.payload 1 1 = true) :
    let c1 := c.setQueue k.inst { c.queue k.inst with coalCount := fld k.payload 0 1, coalTime := fld k.payload 2 2 }
    bodyCoalesceSet k c = .ok (if (c.queue k.inst).unNotified ≠ 0 ∧ fld k.payload 0 1 ≤ (c.queue k.inst).unNotified
      then c1.notify k.inst else c1) := by
  unfold bodyCoalesceSet
  dsimp only
  rw [if_neg (by simp [hlen]), if_neg (by simpa using h0), if_neg (by simp [hz]), Chip.setQueue_same]
  congr 1
  refine if_congr ?_ rfl rfl
  simp [QueueSt.notifies, Nat.pos_iff_ne_zero]

end Sys2Proof.Machine

namespace Sys2Proof
open Machine

/-- Settles O33: per command the branch its conditions choose, and what that write leaves of events and queues. -/
theorem eventsAndQueuesTakeCommands : Obligations.EventsAndQueuesTakeCommands := by
  refine fun k s => ⟨?route, ?refused, ?mask, ?read, ?config, ?busy, ?status, ?coalesce⟩
  case route =>
    intro hready hlen hz h
    have hbody := bodyEventRoute_of_form s.chip hlen hz
    rw [h] at hbody
    obtain ⟨hown, hothers⟩ := writeRoute_event s.chip k.inst (fld k.payload 0 4)
    exact ⟨_, answers_of bodyEventRoute hready rfl hbody, writeRoute_attr .., hown, hothers, writeRoute_slots ..⟩
  case refused =>
    intro hready hlen hz h
    have hbody := bodyEventRoute_of_form s.chip hlen hz
    rw [h] at hbody
    exact ends_of bodyEventRoute hready rfl hbody
  case mask =>
    intro hready hlen h1 hz
    obtain ⟨hown, hothers⟩ := writeRoute_event s.chip k.inst (setBits (s.chip.route k.inst) 2 1 (fld k.payload 0 1))
    exact ⟨_, answers_of bodyEventMask hready rfl (bodyEventMask_writes s.chip hlen h1 hz), writeRoute_attr ..,
      fun h8 h9 => (hown h8 h9).1, hothers, writeRoute_slots ..⟩
  case read =>
    exact fun hready hlen h1 hz => answers_of bodyEventRead hready rfl (bodyEventRead_of_form s.chip hlen h1 hz)
  case config =>
    intro hready hlen hgood hempty hclosed
    have hbody := bodyQueueConfig_of_good hlen hgood
    rw [if_neg] at hbody
    · obtain ⟨hbase, hdepth, heshift, henable, hcount, htime, hhead, htail, hothers⟩ := configQueue_queue s.chip k.inst k.payload
      exact ⟨_, answers_of bodyQueueConfig hready rfl hbody, hbase, hdepth, heshift, henable, hcount, htime, hhead, htail, hothers,
        configQueue_samePlant ..⟩
    · simpa [or_imp] using ⟨hempty, hclosed⟩
  case busy =>
    intro hready hlen hgood h
    have hbody := bodyQueueConfig_of_good hlen hgood
    rw [if_pos (by simpa using h)] at hbody
    exact ends_of bodyQueueConfig hready rfl hbody
  case status => exact fun hready hp => answers_of bodyQueueStatus hready rfl (if_neg (by simp [hp]))
  case coalesce =>
    intro hready hlen h0 hz c1 waits
    have hbody := bodyCoalesceSet_of_form s.chip hlen h0 hz
    refine ⟨_, answers_of bodyCoalesceSet hready rfl hbody, ?_, fun h => ?_, fun hw hle => if_pos ⟨hw, hle⟩⟩
    · split
      · exact (setQueue_samePlant ..).trans (.of_keeps (notify_keeps (.refl _) k.inst _ (.refl _)))
      · exact setQueue_samePlant ..
    · rw [if_neg (by rintro ⟨hw, hle⟩; rcases h with h | h <;> omega), Chip.setQueue_same]
      exact ⟨rfl, rfl, rfl, rfl, fun j hj => s.chip.setQueue_other _ _ _ hj, rfl⟩

end Sys2Proof
end

section
-- One proof after another: side by side, the stacks of their threads reach the check's limit of memory.
set_option Elab.async false
/-! The diagnostic commands, and how captures, store writes and image loads end (spec/05, spec/15, spec/17). -/

namespace Sys2Proof.Machine

/-! ### Masks of bits -/

/-- The word whose bit `i`, below `n`, is `f i`. -/
def maskOf (n : Nat) (f : Nat → Bool) : Nat := ((List.range n).map (fun i => if f i then 2 ^ i else 0)).sum

theorem maskOf_succ (n : Nat) (f : Nat → Bool) : maskOf (n + 1) f = 2 ^ n * (if f n then 1 else 0) + maskOf n f := by
  unfold maskOf
  rw [List.range_succ, List.map_append, List.sum_append, List.map_singleton, List.sum_singleton]
  split <;> omega

theorem maskOf_lt (n : Nat) (f : Nat → Bool) : maskOf n f < 2 ^ n := by
  induction n with
  | zero => exact Nat.one_pos
  | succ n ih =>
    rw [maskOf_succ, pow_succ]
    split <;> omega

theorem bit_maskOf (n : Nat) (f : Nat → Bool) {i : Nat} (hi : i < n) : bit (maskOf n f) i = f i := by
  rw [bit_eq_testBit]
  induction n with
  | zero => omega
  | succ n ih =>
    rw [maskOf_succ, Nat.testBit_two_pow_mul_add _ (maskOf_lt n f)]
    by_cases h : i < n
    · rw [if_pos h, ih h]
    · obtain rfl : i = n := by omega
      rw [if_neg h, Nat.sub_self]
      cases f i <;> rfl

/-- A mask of few bits reads back from the bytes it is put into. -/
theorem bit_fld_maskOf (w n : Nat) (f : Nat → Bool) {i : Nat} (hi : i < n) (hn : n ≤ 8 * w) (a b : List Byte) {o : Nat}
    (ho : a.length = o) : bit (fld (a ++ (leBytes w (maskOf n f) ++ b)) o w) i = f i := by
  have hlt : maskOf n f < 256 ^ w := calc
    maskOf n f < 2 ^ n := maskOf_lt n f
    _ ≤ 2 ^ (8 * w) := Nat.pow_le_pow_right (by decide) hn
    _ = 256 ^ w := by rw [pow_mul]; norm_num
  rw [fld_append_right _ _ _ _ (by omega), ho, Nat.sub_self, fld_append_left _ _ _ _ (by simp), fld_all _ _ (by simp), leNat_leBytes,
    Nat.mod_eq_of_lt hlt, bit_maskOf n f hi]

/-! ### The fault log and the self-test -/

theorem logCleared_of_clearing {c : Chip} {x t : Nat} (h : c.log.clearing = some (x, t)) :
    c.logCleared = ({ c with log := { c.log with ring := [], copy := [], clearing := none } } : Chip).finishTag x t stOK noOfs [] := by
  unfold Chip.logCleared
  rw [h]

/-- What a self-test answers: the tests that passed, those that failed, and the stores that are in order. -/
def selftestReply (c : Chip) (m pass fail stores : Nat) : List Byte :=
  leBytes 4 (maskOf 5 (fun i => bit m i && bit pass i)) ++ (leBytes 4 (maskOf 5 (fun i => bit m i && bit fail i)) ++
    (leBytes 1 (maskOf 6 (fun i => bit m 2 && bit stores i && c.storesOk.getD i false)) ++ [0, 0, 0]))

theorem selftestDone_of_test {c : Chip} {x t m : Nat} (pass fail stores : Nat) (h : c.selftest = some (x, t, m)) :
    c.selftestDone pass fail stores =
      ({ c with selftest := none } : Chip).finishTag x t stOK noOfs (selftestReply c m pass fail stores) := by
  unfold Chip.selftestDone selftestReply
  rw [h]
  dsimp only
  congr 1

theorem bodyLogRead_of_form {k : Cmd} (c : Chip) (hlen : k.payload.length = 8) (h1 : 1 ≤ fld k.payload 4 1)
    (h32 : fld k.payload 4 1 ≤ 32) (hz : zeroAt k.payload 5 3 = true) :
    ∃ first, bodyLogRead k c = .okWith (leBytes 4 first ++ leBytes 4 c.log.ring.length ++ leBytes 4 c.log.next.toNat ++
      ((c.log.ring.filter (fun e => decide ((if fld k.payload 0 4 = 0xFFFFFFFF then 0 else fld k.payload 0 4) ≤ e.seq.toNat))).take
        (fld k.payload 4 1)).flatMap logBytes) c := by
  unfold bodyLogRead
  dsimp only
  rw [if_neg (by simp [hlen]), if_neg (by simp; omega), if_neg (by simp [hz])]
  simp only [beq_iff_eq]
  exact ⟨_, rfl⟩

theorem bodyLogClear_of_form {k : Cmd} (c : Chip) (hp : k.payload = []) : bodyLogClear k c =
    if c.log.clearing.isSome then .err stBusy noOfs c else .accepted { c with log := { c.log with clearing := some (k.ctx, k.tag) } } :=
  if_neg (by simp [hp])

theorem bodySelftest_of_form {k : Cmd} (c : Chip) (hlen : k.payload.length = 4) (h32 : fld k.payload 0 4 < 32) :
    bodySelftest k c = if c.selftest.isSome then .err stBusy noOfs c
      else .accepted { c with selftest := some (k.ctx, k.tag, fld k.payload 0 4) } := by
  unfold bodySelftest
  dsimp only
  rw [if_neg (by simp [hlen]), if_neg (by omega)]

/-! ### Calibration captures -/

/-- The module with a capture ended, before its command is answered. -/
def Chip.captureEnded (q : Capture) (status : Nat) (c : Chip) : Chip :=
  let c1 := c.setCal (fun s => { s with captures := s.captures.erase q })
  (if q.span then c1.dropZeros q.chan else c1).calDone (if q.span then 4 else 3) q.chan status

theorem endCapture_eq (q : Capture) (status : Nat) (data : List Byte) (c : Chip) :
    c.endCapture q status data = (c.captureEnded q status).finishTag q.ctx q.tag status noOfs data := rfl

theorem captureEnded_cal (q : Capture) (status : Nat) (c : Chip) : (c.captureEnded q status).cal.captures = c.cal.captures.erase q ∧
    (c.captureEnded q status).cal.working = c.cal.working ∧ (q.span = false → (c.captureEnded q status).cal.held = c.cal.held) := by
  unfold Chip.captureEnded Chip.calDone
  dsimp only
  rw [Chip.fire_cal]
  split
  case isTrue h => exact ⟨rfl, rfl, fun hf => by rw [h] at hf; cases hf⟩
  case isFalse => exact ⟨rfl, rfl, fun _ => rfl⟩

theorem captureEnded_clk (q : Capture) (status : Nat) (c : Chip) : (c.captureEnded q status).clk = c.clk := by
  unfold Chip.captureEnded Chip.calDone
  dsimp only
  rw [Chip.fire_clk]
  split <;> rfl

theorem calDone_samePlant {c d : Chip} (op ch st : Nat) (h : SamePlant c d) : SamePlant c (d.calDone op ch st) :=
  h.trans (.of_keeps (fire_frame d _ _))

theorem setCal_samePlant (c : Chip) (f : CalSt → CalSt) : SamePlant c (c.setCal f) := SamePlant.refl c

theorem dropZerosIf_samePlant (c : Chip) (b : Bool) (ch : Nat) : SamePlant c (if b then c.dropZeros ch else c) := by
  cases b <;> exact SamePlant.refl c

theorem captureEnded_samePlant (q : Capture) (status : Nat) (c : Chip) : SamePlant c (c.captureEnded q status) :=
  calDone_samePlant _ _ _ ((setCal_samePlant c _).trans (dropZerosIf_samePlant _ q.span q.chan))

theorem waitUntil_samePlant (c : Chip) (d : Nat) : SamePlant c (c.waitUntil d) := .of_keeps (Chip.waitUntil_frame d c)

theorem calStatus_congr {c d : Chip} (h : d.cal = c.cal) : d.calStatus = c.calStatus := by
  unfold Chip.calStatus
  rw [h]

theorem holdZero_cal (c : Chip) (q : Capture) (code : Nat) : (c.holdZero q code).cal.captures = c.cal.captures ∧
    (c.holdZero q code).cal.working = c.cal.working ∧
    ∃ h ∈ (c.holdZero q code).cal.held, h.chan = q.chan ∧ h.range = q.range ∧ h.code = code ∧ h.ends = c.clk.now + sec 600 :=
  ⟨rfl, rfl, _, List.mem_append_right _ List.mem_cons_self, rfl, rfl, rfl, rfl⟩

theorem startWrite_captures (c : Chip) (w : StoreWrite) : (c.startWrite w).cal.captures = c.cal.captures := by
  unfold Chip.startWrite Chip.commitCmd
  generalize erasedSet c.dCal = e
  split <;> rfl

section CaptureDone

variable {c : Chip} {ch : Nat} {codes : List Nat} {clipped : Bool} {q : Capture}
  (hq : c.cal.captures.find? (fun q => q.chan == ch) = some q) (hlen : codes.length = 256) (hactive : c.portActive (ch / 2) = true)

include hq hlen hactive

theorem captureDone_of_capture : c.captureDone ch codes clipped =
    if q.ends < (c.waitUntil (q.started + us 272)).clk.now then (c.waitUntil (q.started + us 272)).endCapture q stBusy []
    else if clipped || 32 < (codes.map (fun x => min x 4095)).foldl max 0 - (codes.map (fun x => min x 4095)).foldl min 4095 then
      (c.waitUntil (q.started + us 272)).endCapture q stBadParam []
    else (c.waitUntil (q.started + us 272)).captureGood q (averageOf 16 (codes.map (fun x => min x 4095)).sum 256) := by
  unfold Chip.captureDone
  rw [hq]
  dsimp only
  rw [if_neg (by simp [hlen]), if_neg (by simp [hactive])]

end CaptureDone

theorem captureGood_zero {c : Chip} {q : Capture} (code : Nat) (h : q.span = false) : c.captureGood q code =
    if c.heldFull q.chan q.range then c.endCapture q stNoResource []
    else (c.holdZero q code).endCapture q c.calStatus (leBytes 4 code ++ [BitVec.ofNat 8 q.range, 0, 0, 0]) := by
  unfold Chip.captureGood
  rw [if_pos (by simp [h])]

/-- The record of a span and the zero held for it. -/
def Chip.spanOf (c : Chip) (q : Capture) (code : Nat) : Option (Int × Nat) :=
  (c.heldZero q.chan q.range).bind (fun z => spanRecord z.ideal z.idealDen (idealCode (c.channelScale q.chan) q.value).1
    (idealCode (c.channelScale q.chan) q.value).2 z.code code)

theorem captureGood_noRecord {c : Chip} {q : Capture} {code : Nat} (h : q.span = true) (hrec : c.spanOf q code = none) :
    c.captureGood q code = c.endCapture q stBadParam [] := by
  unfold Chip.spanOf at hrec
  unfold Chip.captureGood
  rw [if_neg (by simp [h])]
  cases hz : c.heldZero q.chan q.range with
  | none => rfl
  | some z =>
    rw [hz, Option.bind_some] at hrec
    dsimp only
    rw [hrec]

theorem captureGood_record {c : Chip} {q : Capture} {code : Nat} {off : Int} {gain : Nat} (h : q.span = true)
    (hrec : c.spanOf q code = some (off, gain)) : c.captureGood q code =
      if c.cal.write.isSome then c.endCapture q stBusy []
      else (c.setCal (fun s => { s with captures := s.captures.erase q })).startWrite
        ⟨q.ctx, q.tag, 4, q.chan, c.spanSet q.chan q.range (unsigned 16 off) gain, leBytes 2 (unsigned 16 off) ++ [0, 0] ++ leBytes 4 gain⟩ := by
  unfold Chip.spanOf at hrec
  unfold Chip.captureGood
  rw [if_neg (by simp [h])]
  cases hz : c.heldZero q.chan q.range with
  | none =>
    rw [hz, Option.bind_none] at hrec
    cases hrec
  | some z =>
    rw [hz, Option.bind_some] at hrec
    dsimp only
    rw [hrec]

/-! ### The store write -/

/-- The module with a store write that has been verified, before its command is answered. -/
def Chip.storeGood (w : StoreWrite) (c : Chip) : Chip :=
  let c0 := c.setCal (fun s => { s with write := none })
  let c1 := if w.op == 4 then c0.dropZeros w.chan else c0
  (c1.setCal (fun s => { s with
    store := w.set, marker := some (BitVec.ofNat 32 (crc32 (Tbl.getRun c1.dCal w.set 0 4928))), working := w.set
    loaded := true, valid := true })).calDone w.op w.chan stOK

/-- The module with a store write that has failed. -/
def Chip.storeBad (w : StoreWrite) (c : Chip) : Chip :=
  let c0 := c.setCal (fun s => { s with write := none })
  let c1 := if w.op == 4 then c0.dropZeros w.chan else c0
  (((c1.setCal (fun s => { s with valid := false })).logFault 6 0).fire 36 3).calDone w.op w.chan stStoreWriteFail

theorem storeWritten_of_write {c : Chip} {w : StoreWrite} (n : Nat) (h : c.cal.write = some w) : c.storeWritten n =
    if n < 2 then (c.storeGood w).finishTag w.ctx w.tag stOK noOfs w.reply
    else (c.storeBad w).finishTag w.ctx w.tag stStoreWriteFail noOfs [] := by
  unfold Chip.storeWritten
  rw [h]
  rfl

theorem storeGood_cal (c : Chip) (w : StoreWrite) : (c.storeGood w).cal.store = w.set ∧ (c.storeGood w).cal.working = w.set ∧
    (c.storeGood w).cal.valid = true ∧ (c.storeGood w).cal.marker.isSome = true ∧ (c.storeGood w).cal.write = none := by
  unfold Chip.storeGood Chip.calDone
  dsimp only
  rw [Chip.fire_cal]
  split <;> exact ⟨rfl, rfl, rfl, rfl, rfl⟩

theorem storeBad_cal (c : Chip) (w : StoreWrite) : (c.storeBad w).cal.working = c.cal.working ∧
    (c.storeBad w).cal.store = c.cal.store ∧ (c.storeBad w).cal.valid = false ∧ (c.storeBad w).cal.marker = c.cal.marker ∧
    (c.storeBad w).cal.write = none := by
  have hlog : ∀ d : Chip, (d.logFault 6 0).cal = d.cal := fun d => (logFault_keeps (.refl _) 6 0 d (.refl d)).cal
  unfold Chip.storeBad Chip.calDone
  dsimp only
  rw [Chip.fire_cal, Chip.fire_cal, hlog]
  split <;> exact ⟨rfl, rfl, rfl, rfl, rfl⟩

theorem storeGood_samePlant (c : Chip) (w : StoreWrite) : SamePlant c (c.storeGood w) :=
  calDone_samePlant _ _ _ ((setCal_samePlant c _).trans ((dropZerosIf_samePlant _ (w.op == 4) w.chan).trans (setCal_samePlant _ _)))

theorem storeBad_samePlant (c : Chip) (w : StoreWrite) : SamePlant c (c.storeBad w) :=
  calDone_samePlant _ _ _ ((setCal_samePlant c _).trans ((dropZerosIf_samePlant _ (w.op == 4) w.chan).trans ((setCal_samePlant _ _).trans
    ((SamePlant.of_keeps (logFault_keeps (.refl _) 6 0 _ (.refl _))).trans (.of_keeps (fire_frame _ 36 3))))))

/-! ### Image loads -/

/-- The module with a load that is over: no context loads, and the bad flash it met is forgotten. -/
abbrev Chip.loadOver (c : Chip) : Chip := { c with image := { c.image with loading := none, badFlash := [] } }

/-- The module with a verified image put in force. -/
def Chip.loadApplied (slot : Bool) (p : ImagePlan) (c : Chip) : Chip :=
  (((c.loadOver.applyPlan p).imageActive slot p.serial).autostart).setPower (fun w => { w with main := .running })

section LoadDone

variable {k : Cmd} {c : Chip} (hload : c.image.loading = some (k.ctx, k.tag)) (hfound : c.findCmd k.ctx k.tag = some k) (idle bad : Bool)

include hload hfound

theorem loadDone_flash (h : (bad || c.flashBad (slotBase (c.loadSlot (fld k.payload 0 1)))
      (slotBase (c.loadSlot (fld k.payload 0 1)) + slotSize)) = true) :
    c.loadDone idle bad = c.loadOver.finishTag k.ctx k.tag stBadParam noOfs
      (loadReply 9 0xFF 0 (fld (c.slotImage (c.loadSlot (fld k.payload 0 1))) 12 4) 0) := by
  unfold Chip.loadDone
  rw [hload]
  dsimp only
  rw [hfound]
  dsimp only
  rw [if_pos h]

variable (hflash : (bad || c.flashBad (slotBase (c.loadSlot (fld k.payload 0 1)))
    (slotBase (c.loadSlot (fld k.payload 0 1)) + slotSize)) = false)

include hflash

theorem loadDone_refused {e : ImageFail}
    (h : c.loadOver.verifyImage (c.slotImage (c.loadSlot (fld k.payload 0 1))) (bit (fld k.payload 0 1) 1) idle = .inl e) :
    c.loadDone idle bad = (c.loadOver.refusedLoad e.status).finishTag k.ctx k.tag e.status noOfs
      (loadReply e.reason e.sect e.firstBad (fld (c.slotImage (c.loadSlot (fld k.payload 0 1))) 12 4) 0) := by
  unfold Chip.loadDone
  rw [hload]
  dsimp only
  rw [hfound]
  dsimp only
  rw [if_neg (by rw [hflash]; decide), h]

theorem loadDone_verified {p : ImagePlan}
    (h : c.loadOver.verifyImage (c.slotImage (c.loadSlot (fld k.payload 0 1))) (bit (fld k.payload 0 1) 1) idle = .inr p) :
    c.loadDone idle bad = if bit (fld k.payload 0 1) 0 then c.loadOver.finishTag k.ctx k.tag stOK noOfs (loadReply 0 0xFF 0 p.serial 0)
      else (c.loadApplied (c.loadSlot (fld k.payload 0 1)) p).finishTag k.ctx k.tag stOK noOfs
        (loadReply 0 0xFF 0 p.serial p.applied) := by
  unfold Chip.loadDone
  rw [hload]
  dsimp only
  rw [hfound]
  dsimp only
  rw [if_neg (by rw [hflash]; decide), h]
  rfl

end LoadDone

theorem loadApplied_image (c : Chip) (slot : Bool) (p : ImagePlan) : (c.loadApplied slot p).image.slot = slot ∧
    (c.loadApplied slot p).image.active = true ∧ (c.loadApplied slot p).image.serial = p.serial ∧
    (c.loadApplied slot p).power.main = .running ∧ (c.loadApplied slot p).flash = c.flash := by
  have hstart := autostart_keeps (.refl _) _ (.refl ((c.loadOver.applyPlan p).imageActive slot p.serial))
  have himage : (c.loadApplied slot p).image = ((c.loadOver.applyPlan p).imageActive slot p.serial).image := hstart.image
  rw [himage]
  exact ⟨rfl, rfl, rfl, rfl, hstart.flash.trans (applyPlan_keeps (.refl _) p _ (.refl c.loadOver)).flash⟩

/-- How a capture ends: its command is answered, at its end time or later, and the capture goes. -/
theorem capture_ends {i : Instr} {s : State} {q : Capture} {d : Chip} {status : Nat} {data : List Byte}
    {e : Chip} (hrow : exec i s = .next { s with chip := e }) (he : e = d.endCapture q status data) {t : Nat} (ht : t ≤ d.clk.now)
    (hcaptures : d.cal.captures = s.chip.cal.captures) (hworking : d.cal.working = s.chip.cal.working) (hplant : SamePlant s.chip d) :
    ∃ c : Chip, Leads i s (c.finishTag q.ctx q.tag status noOfs data) ∧ t ≤ c.clk.now ∧
      c.cal.captures = s.chip.cal.captures.erase q ∧ c.cal.working = s.chip.cal.working ∧ SamePlant s.chip c ∧
      (q.span = false → c.cal.held = d.cal.held) := by
  obtain ⟨hc, hw, hheld⟩ := captureEnded_cal q status d
  exact ⟨d.captureEnded q status, Leads.of_eq hrow (he.trans (endCapture_eq ..)), by rw [captureEnded_clk]; exact ht, by rw [hc, hcaptures],
    by rw [hw, hworking], hplant.trans (captureEnded_samePlant ..), hheld⟩

end Sys2Proof.Machine

namespace Sys2Proof
open Machine

/-- Settles O34: the answers are the bodies' own; each long operation's last row by the branch its conditions choose. -/
theorem diagnosticsAndLongEnds : Obligations.DiagnosticsAndLongEnds := by
  refine ⟨fun k s => ⟨?logRead, ?logClear, ?logBusy, ?logDone, ?counters, ?test, ?testBusy, ?testDone, ?dogs⟩,
    fun s => ⟨?capture, ?timeout, ?zero, ?store⟩, fun k s idle bad hload hfound => ⟨?flash, ?refused, ?verified⟩⟩
  case logRead =>
    intro hready hlen h1 h32 hz
    obtain ⟨first, hbody⟩ := bodyLogRead_of_form s.chip hlen h1 h32 hz
    refine ⟨_, answers_of bodyLogRead hready rfl hbody, ?_, ?_⟩
    · exact List.drop_left' (by simp)
    · simp [List.take_append]
  case logClear =>
    intro hready hp h
    have hbody := bodyLogClear_of_form s.chip hp
    rw [h] at hbody
    exact ⟨_, starts_of bodyLogClear hready rfl hbody, rfl, rfl, .refl _⟩
  case logBusy =>
    exact fun hready hp h => ends_of bodyLogClear hready rfl
      (by rw [bodyLogClear_of_form s.chip hp, if_pos (Option.isSome_iff_ne_none.mpr h)]; rfl)
  case logDone =>
    exact fun x t h => ⟨_, Leads.of_eq rfl (logCleared_of_clearing h), rfl, rfl, rfl, rfl, .refl _⟩
  case counters => exact fun hready hp => answers_of bodyCountersRead hready rfl (if_neg (by simp [hp]))
  case test =>
    exact fun hready hlen h32 h => starts_of bodySelftest hready rfl (by rw [bodySelftest_of_form s.chip hlen h32, h]; rfl)
  case testBusy =>
    exact fun hready hlen h32 h => ends_of bodySelftest hready rfl
      (by rw [bodySelftest_of_form s.chip hlen h32, if_pos (Option.isSome_iff_ne_none.mpr h)]; rfl)
  case testDone =>
    intro x t m pass fail stores h
    refine ⟨_, Leads.of_eq rfl (selftestDone_of_test pass fail stores h), by simp [selftestReply], fun i hi => ?_, fun i hi => ?_,
      fun i hi => ?_⟩
    · exact bit_fld_maskOf 4 5 _ hi (by decide) [] _ rfl
    · exact bit_fld_maskOf 4 5 _ hi (by decide) _ _ (by simp)
    · unfold selftestReply
      rw [← List.append_assoc]
      exact bit_fld_maskOf 1 6 _ hi (by decide) _ _ (by simp)
  case dogs =>
    intro hready hp
    refine ⟨_, answers_of bodySheepdogStatus hready rfl (if_neg (by simp [hp])), rfl, ?_⟩
    rw [List.length_append, List.length_flatMap]
    simp only [leBytes_length]
    rfl
  case capture =>
    intro ch codes clipped q hq hlen hactive w cs poor code ends
    have hrow := captureDone_of_capture (clipped := clipped) hq hlen hactive
    have hcal : w.cal = s.chip.cal := Chip.waitUntil_cal ..
    have hplant : SamePlant s.chip w := waitUntil_samePlant ..
    have htime : q.started + us 272 ≤ w.clk.now := s.chip.le_waitUntil _
    have hends : ∀ (d : Chip) (st : Nat) (data : List Byte), s.chip.captureDone ch codes clipped = d.endCapture q st data →
        d.clk = w.clk → d.cal.captures = w.cal.captures → d.cal.working = w.cal.working → SamePlant w d →
        (q.span = false → st = s.chip.calStatus → data ≠ [] → ∃ h ∈ d.cal.held, h.chan = q.chan ∧ h.range = q.range ∧ h.code = code ∧
          h.ends = w.clk.now + sec 600) → ends st data := by
      intro d st data hd hclk hcaptures hworking hsame hheld
      obtain ⟨c, hleads, hnow, hcap, hwork, hsp, hkept⟩ := capture_ends (i := .calCaptureDone ch codes clipped) (s := s) rfl hd (t := q.started + us 272)
        (by rw [hclk]; exact htime) (by rw [hcaptures, hcal]) (by rw [hworking, hcal]) (hplant.trans hsame)
      refine ⟨c, hleads, hnow, hcap, hwork, hsp, fun hspan hst hdata => ?_⟩
      rw [hkept hspan]
      exact hheld hspan hst hdata
    have hempty : ∀ (st : Nat), s.chip.captureDone ch codes clipped = w.endCapture q st [] → ends st [] := fun st hd =>
      hends w st [] hd rfl rfl rfl (.refl _) (fun _ _ hdata => absurd rfl hdata)
    have hpoor : (clipped || decide (32 < cs.foldl max 0 - cs.foldl min 4095)) = true ↔ poor := by simp [poor]
    refine ⟨fun hlate => ?_, fun hin hp => ?_, fun hin hp hspan => ⟨fun hfull => ?_, fun hroom => ?_⟩,
      fun hin hp hspan => ⟨fun hrec => ?_, fun off gain hrec => ⟨fun hwrite => ?_, fun hwrite => ?_⟩⟩⟩
    · exact hempty stBusy (hrow.trans (if_pos hlate))
    · exact hempty stBadParam (hrow.trans ((if_neg (Nat.not_lt.mpr hin)).trans (if_pos (hpoor.mpr hp))))
    all_goals
      have hgood : s.chip.captureDone ch codes clipped = w.captureGood q code :=
        hrow.trans ((if_neg (Nat.not_lt.mpr hin)).trans (if_neg (fun h => hp (hpoor.mp h))))
    · rw [captureGood_zero code hspan, if_pos hfull] at hgood
      exact hempty stNoResource hgood
    · rw [captureGood_zero code hspan, if_neg (by rw [hroom]; decide), calStatus_congr hcal] at hgood
      obtain ⟨hcaptures, hworking, hheld⟩ := holdZero_cal w q code
      exact hends _ _ _ hgood rfl hcaptures hworking (setCal_samePlant ..) (fun _ _ _ => hheld)
    · rw [captureGood_noRecord hspan hrec] at hgood
      exact hempty stBadParam hgood
    · rw [captureGood_record hspan hrec, if_pos (by rw [hcal]; exact Option.isSome_iff_ne_none.mpr hwrite)] at hgood
      exact hempty stBusy hgood
    · rw [captureGood_record hspan hrec, if_neg (by rw [hcal, hwrite]; decide)] at hgood
      obtain ⟨-, hstored, hworking, -⟩ := startWrite_cal (w.setCal (fun m => { m with captures := m.captures.erase q }))
        ⟨q.ctx, q.tag, 4, q.chan, w.spanSet q.chan q.range (unsigned 16 off) gain, leBytes 2 (unsigned 16 off) ++ [0, 0] ++ leBytes 4 gain⟩
      refine ⟨_, Leads.of_eq rfl hgood, ?_, ?_, hplant.trans ((setCal_samePlant ..).trans (.of_keeps (startWrite_frame ..))), hstored⟩
      · rw [startWrite_captures]
        exact congrArg (fun m : CalSt => m.captures.erase q) hcal
      · have hsame := congrArg CalSt.working hcal
        exact hworking.trans hsame
  case timeout =>
    intro ch q hq
    have hrow : s.chip.captureTimeout ch = (s.chip.waitUntil q.ends).endCapture q stBusy [] := by
      unfold Chip.captureTimeout
      rw [hq]
    obtain ⟨c, hleads, hnow, hcap, hwork, hsp, -⟩ := capture_ends (i := .calCaptureTimeout ch) (s := s) rfl hrow
      (s.chip.le_waitUntil q.ends) (by rw [Chip.waitUntil_cal]) (by rw [Chip.waitUntil_cal]) (waitUntil_samePlant ..)
    exact ⟨c, hleads, hnow, hcap, hwork, hsp⟩
  case zero =>
    intro ch r h hh
    have hrow : s.chip.zeroExpiry ch r = (s.chip.waitUntil h.ends).setCal (fun m => { m with held := m.held.erase h }) := by
      unfold Chip.zeroExpiry
      rw [hh]
    have hcal : (s.chip.waitUntil h.ends).cal = s.chip.cal := Chip.waitUntil_cal ..
    have hheld := congrArg (fun m : CalSt => m.held.erase h) hcal
    have hworking := congrArg CalSt.working hcal
    exact ⟨_, Leads.of_eq rfl hrow, s.chip.le_waitUntil h.ends, hheld, hworking, (waitUntil_samePlant ..).trans (setCal_samePlant ..)⟩
  case store =>
    intro w n hw
    have hrow := storeWritten_of_write n hw
    refine ⟨fun hn => ?_, fun hn => ?_⟩
    · rw [if_pos hn] at hrow
      obtain ⟨hstore, hworking, hvalid, hmarker, hwrite⟩ := storeGood_cal s.chip w
      exact ⟨_, Leads.of_eq rfl hrow, hstore, hworking, hvalid, hmarker, hwrite, storeGood_samePlant ..⟩
    · rw [if_neg (by omega)] at hrow
      obtain ⟨hworking, hstore, hvalid, hmarker, hwrite⟩ := storeBad_cal s.chip w
      exact ⟨_, Leads.of_eq rfl hrow, hworking, hstore, hvalid, hmarker, hwrite, storeBad_samePlant ..⟩
  case flash =>
    exact fun h => Leads.of_eq rfl (loadDone_flash hload hfound idle bad h)
  case refused =>
    intro e hflash he
    have hframe := refusedLoad_keeps (.refl _) e.status _ (.refl s.chip.loadOver)
    exact ⟨_, Leads.of_eq rfl (loadDone_refused hload hfound idle bad hflash he), hframe.image, SamePlant.trans (b := s.chip.loadOver) (.refl _) (.of_keeps hframe)⟩
  case verified =>
    intro p hflash hp
    have hrow := loadDone_verified hload hfound idle bad hflash hp
    refine ⟨fun hcheck => ?_, fun hcheck => ?_⟩
    · rw [if_pos hcheck] at hrow
      exact Leads.of_eq rfl hrow
    · rw [if_neg (by rw [hcheck]; decide)] at hrow
      exact ⟨_, Leads.of_eq rfl hrow, loadApplied_image ..⟩

end Sys2Proof
end

section
-- One proof after another: side by side, the stacks of their threads reach the check's limit of memory.
set_option Elab.async false
/-! How commands enter and records leave: fetch, deadline, doorbells, delivery records, notifications and the held host writes
(spec/02, spec/03, spec/14). -/

namespace Sys2Proof.Machine

/-! ### Fetching a command -/

/-- The length word of the record at the head of a context's submission queue. -/
def Chip.fetchLen (c : Chip) (ctx : Nat) : Nat :=
  leNat (ringRead (c.queue (submissionQueue ctx)) (c.queue (submissionQueue ctx)).head 4 c.ring) % 8192

/-- The packet of that record. -/
def Chip.fetchBytes (c : Chip) (ctx : Nat) : List Byte :=
  (ringRead (c.queue (submissionQueue ctx)) (c.queue (submissionQueue ctx)).head (4 + max 16 (c.fetchLen ctx)) c.ring).drop 4

/-- What the doorbell noted of that record. -/
def Chip.fetchRung (c : Chip) (ctx : Nat) : Option Rung :=
  c.rungAt ctx (((c.queue (submissionQueue ctx)).head + entriesFor (c.queue (submissionQueue ctx)).eshift (c.fetchLen ctx)) %
    (2 * (c.queue (submissionQueue ctx)).depth))

/-- The entries that its fetch frees. -/
def Chip.fetchEntries (c : Chip) (ctx : Nat) : Nat :=
  min (c.queue (submissionQueue ctx)).fill (entriesFor (c.queue (submissionQueue ctx)).eshift (c.fetchLen ctx))

/-- The command of that record. -/
def Chip.fetchCmd (c : Chip) (ctx : Nat) : Cmd :=
  c.cmdOf ctx ((c.fetchBytes ctx).take 16) ((c.fetchBytes ctx).drop 16) (c.fetchRung ctx)

section
variable {c c1 : Chip} {ctx : Nat} (hup : c.power.main.up = true) (hlocal : isRemoteCtx ctx = false)
  (hctx : ctx < 8 ∨ isMgtCtx ctx = true)
include hup hlocal hctx

theorem fetch_idle (h : (c.queue (submissionQueue ctx)).enable = false ∨ (c.queue (submissionQueue ctx)).fill = 0 ∨
    c.mayFetch ctx = false) : c.fetch ctx = c := by
  unfold Chip.fetch
  rw [if_neg (by simp [hup]), if_neg (by simp [hlocal]), if_neg (by rcases hctx with h | h <;> simp [h])]
  dsimp only
  rw [if_pos (by simpa [or_assoc] using h)]

variable (hen : (c.queue (submissionQueue ctx)).enable = true) (hfill : (c.queue (submissionQueue ctx)).fill ≠ 0)
  (hmay : c.mayFetch ctx = true)
include hen hfill hmay

/-- The packet of an unbound context is taken here. -/
theorem fetch_of_takePacket (hbound : c.boundNode ctx = none)
    (ht : c.takePacket ctx (c.fetchLen ctx) (c.fetchBytes ctx) (c.fetchRung ctx) = some c1) :
    c.fetch ctx = c1.setQueue (submissionQueue ctx) ((c1.queue (submissionQueue ctx)).pop (c.fetchEntries ctx)) := by
  unfold Chip.fetch
  rw [if_neg (by simp [hup]), if_neg (by simp [hlocal]), if_neg (by rcases hctx with h | h <;> simp [h])]
  dsimp only
  rw [if_neg (by simp [hen, hfill, hmay]), hbound]
  simp only [Chip.fetchLen, Chip.fetchBytes, Chip.fetchRung, Chip.fetchEntries] at ht ⊢
  rw [ht]

/-- The packet of a bound context is carried to its node. -/
theorem fetch_of_carry {node : Nat} (hbound : c.boundNode ctx = some node)
    (ht : c.carry (c.fetchCmd ctx) node (c.fetchBytes ctx) = some c1) :
    c.fetch ctx = c1.setQueue (submissionQueue ctx) ((c1.queue (submissionQueue ctx)).pop (c.fetchEntries ctx)) := by
  unfold Chip.fetch
  rw [if_neg (by simp [hup]), if_neg (by simp [hlocal]), if_neg (by rcases hctx with h | h <;> simp [h])]
  dsimp only
  rw [if_neg (by simp [hen, hfill, hmay]), hbound]
  simp only [Chip.fetchLen, Chip.fetchBytes, Chip.fetchRung, Chip.fetchEntries, Chip.fetchCmd] at ht ⊢
  rw [ht]

end

/-- The oldest packet of a remote context is taken. -/
theorem fetch_of_remote {c c1 : Chip} {ctx : Nat} {p : List Byte} {rest : List (List Byte)} (hup : c.power.main.up = true)
    (hremote : isRemoteCtx ctx = true) (hp : Tbl.get dNil c.remoteIn ctx = p :: rest) (hmay : c.mayFetch ctx = true)
    (ht : c.takePacket ctx p.length p none = some c1) :
    c.fetch ctx = { c1 with remoteIn := Tbl.set dNil c1.remoteIn ctx rest } := by
  unfold Chip.fetch
  rw [if_neg (by simp [hup]), if_pos hremote, hp]
  simp [hmay, ht]

/-- A demoted command is counted. -/
def Chip.countDemoted (k : Cmd) (c : Chip) : Chip :=
  if k.demoted then { c with counters := { c.counters with demoted := c.counters.demoted + 1 } } else c

/-- Counting touches the counters alone. -/
theorem countDemoted_eq (k : Cmd) (c : Chip) : ∃ x, c.countDemoted k = { c with counters := x } := by
  unfold Chip.countDemoted
  split
  · exact ⟨_, rfl⟩
  · exact ⟨c.counters, rfl⟩

section
variable {c : Chip} {ctx rlen : Nat} {bs : List Byte} {rung : Option Rung}

theorem takePacket_remote (hremote : isRemoteCtx ctx = true) (hok : c.acceptance ctx rlen (bs.take 16) rung = none) :
    c.takePacket ctx rlen bs rung = some { c.countDemoted (c.cmdOf ctx (bs.take 16) (bs.drop 16) rung) with
      cmds := (c.countDemoted (c.cmdOf ctx (bs.take 16) (bs.drop 16) rung)).cmds ++
        [c.cmdOf ctx (bs.take 16) (bs.drop 16) rung] } := by
  unfold Chip.takePacket
  dsimp only
  rw [hok]
  simp only [hremote, if_true]
  rfl

theorem takePacket_refused {st o : Nat} (hbad : c.acceptance ctx rlen (bs.take 16) rung = some (st, o)) (hst : st ≠ stBadCrc)
    (hres : c.canReserve ctx (entriesFor (c.queue (completionQueue ctx)).eshift 24) = true) :
    c.takePacket ctx rlen bs rung = some (c.sendPacket { c.cmdOf ctx (bs.take 16) (bs.drop 16) rung with demoted := false }
      (replyPacket { c.cmdOf ctx (bs.take 16) (bs.drop 16) rung with demoted := false } st o [])) := by
  unfold Chip.takePacket
  dsimp only
  rw [hbad]
  dsimp only
  rw [if_pos (by simp [hres]), if_neg (by simpa using hst)]

variable (hlocal : isRemoteCtx ctx = false)
include hlocal

theorem takePacket_accepted (hok : c.acceptance ctx rlen (bs.take 16) rung = none)
    (hroom : c.replyEntries (c.cmdOf ctx (bs.take 16) (bs.drop 16) rung) ≤ (c.queue (completionQueue ctx)).depth)
    (hres : c.canReserve ctx (min (c.reserveFor (c.cmdOf ctx (bs.take 16) (bs.drop 16) rung))
      (c.queue (completionQueue ctx)).depth) = true) :
    c.takePacket ctx rlen bs rung = some { c.countDemoted (c.cmdOf ctx (bs.take 16) (bs.drop 16) rung) with
      cmds := (c.countDemoted (c.cmdOf ctx (bs.take 16) (bs.drop 16) rung)).cmds ++
        [{ c.cmdOf ctx (bs.take 16) (bs.drop 16) rung with
          reserved := min (c.reserveFor (c.cmdOf ctx (bs.take 16) (bs.drop 16) rung))
            (c.queue (completionQueue ctx)).depth }] } := by
  unfold Chip.takePacket
  dsimp only
  rw [hok]
  dsimp only
  rw [if_neg (by simp [hlocal]), if_neg (by omega), if_pos hres]
  rfl

end

/-! ### Doorbells -/

/-- Noting the packets that a doorbell announces moves no index of any queue, and touches one queue only. -/
theorem ringUp_queue (ctx fuel i n : Nat) (c : Chip) :
    ((c.ringUp ctx fuel i n).queue (submissionQueue ctx)).tail = (c.queue (submissionQueue ctx)).tail ∧
      ((c.ringUp ctx fuel i n).queue (submissionQueue ctx)).head = (c.queue (submissionQueue ctx)).head ∧
      ∀ j, j ≠ submissionQueue ctx → (c.ringUp ctx fuel i n).queue j = c.queue j := by
  induction fuel generalizing i n c with
  | zero => exact ⟨rfl, rfl, fun _ _ => rfl⟩
  | succ m ih =>
    unfold Chip.ringUp
    dsimp only
    split
    · exact ⟨rfl, rfl, fun _ _ => rfl⟩
    · obtain ⟨htail, hhead, hother⟩ := ih (((i + _) % _)) (n - _) (c.setQueue (submissionQueue ctx)
        { c.queue (submissionQueue ctx) with rung := (c.queue (submissionQueue ctx)).rung ++ [_] })
      refine ⟨htail.trans (by simp), hhead.trans (by simp), fun j hj => (hother j hj).trans (Chip.setQueue_other _ _ _ _ hj)⟩

theorem rungTo_queue (ctx idx : Nat) (c : Chip) :
    ((c.rungTo ctx idx).queue (submissionQueue ctx)).tail = idx ∧
      ((c.rungTo ctx idx).queue (submissionQueue ctx)).head = (c.queue (submissionQueue ctx)).head ∧
      ∀ j, j ≠ submissionQueue ctx → (c.rungTo ctx idx).queue j = c.queue j := by
  unfold Chip.rungTo
  dsimp only
  split
  · exact ⟨by simp, by simp, fun j hj => Chip.setQueue_other _ _ _ _ hj⟩
  · obtain ⟨htail, hhead, hother⟩ := ringUp_queue ctx (c.queue (submissionQueue ctx)).depth (c.queue (submissionQueue ctx)).tail
      (idxDist (c.queue (submissionQueue ctx)) (c.queue (submissionQueue ctx)).head idx - (c.queue (submissionQueue ctx)).fill)
      (c.setQueue (submissionQueue ctx) { c.queue (submissionQueue ctx) with
        tail := idx
        high := max (c.queue (submissionQueue ctx)).high
          (idxDist (c.queue (submissionQueue ctx)) (c.queue (submissionQueue ctx)).head idx)
        rung := _ })
    exact ⟨htail.trans (by simp), hhead.trans (by simp), fun j hj => (hother j hj).trans (Chip.setQueue_other _ _ _ _ hj)⟩

theorem submissionQueue_of_host {q : Nat} (h : q < 8) : submissionQueue q = q := by
  unfold submissionQueue
  rw [if_neg (by simp [isMgtCtx]; omega)]

/-- The index that a queue's producer or consumer moves. -/
theorem doorbell_frame (q i : Nat) (c : Chip) (h : c.doorbellOk q i = true) : Keeps Field.queues c (c.doorbell q i) := by
  unfold Chip.doorbell
  dsimp only
  rw [if_pos h]
  split
  · exact rungTo_keeps (.refl _) q i c (.refl c)
  · split
    · exact setQueue_keeps (.refl _) q _ c (.refl c)
    · exact setQueue_keeps (.refl _) q _ c (.refl c)

theorem doorbell_producer {q i : Nat} {c : Chip} (h : c.doorbellOk q i = true) (hp : hostProduces q = true) :
    ((c.doorbell q i).queue q).tail = i ∧ ((c.doorbell q i).queue q).head = (c.queue q).head ∧
      ∀ j, j ≠ q → (c.doorbell q i).queue j = c.queue j := by
  unfold Chip.doorbell
  dsimp only
  rw [if_pos h]
  by_cases hq : q < 8
  · rw [if_pos hq]
    simpa only [submissionQueue_of_host hq] using rungTo_queue q i c
  · rw [if_neg hq, if_pos hp]
    exact ⟨by simp, by simp, fun j hj => Chip.setQueue_other _ _ _ _ hj⟩

theorem doorbell_consumer {q i : Nat} {c : Chip} (h : c.doorbellOk q i = true) (hp : hostProduces q = false) :
    c.doorbell q i = c.setQueue q { c.queue q with head := i, fullTold := false } := by
  have hq : ¬q < 8 := by
    intro hlt
    simp [hostProduces, hlt] at hp
  unfold Chip.doorbell
  dsimp only
  rw [if_pos h, if_neg hq, if_neg (by simp [hp])]

theorem doorbell_bad {q i : Nat} {c : Chip} (h : c.doorbellOk q i = false) :
    c.doorbell q i = (c.setQueue q { c.queue q with
      dberr := if (c.queue q).dberr = 0xFFFF then (c.queue q).dberr else (c.queue q).dberr + 1 }).fire 118 (queueFault q 0).toNat := by
  unfold Chip.doorbell
  dsimp only
  rw [if_neg (by simp [h])]

/-! ### Delivery records and notifications -/

/-- What is left of an event whose record is delivered: it stays pending where its interrupt line still reports it. -/
def EventSt.delivered (s : EventSt) (line : Bool) : EventSt :=
  if line then { s with recordDue := false, lineWaits := false }
  else { s with recordDue := false, lineWaits := false, pending := false, count := 0 }

theorem EventSt.delivered_recordDue (s : EventSt) (line : Bool) : (s.delivered line).recordDue = false := by
  cases line <;> rfl

theorem EventSt.delivered_pending (s : EventSt) (line : Bool) : (s.delivered line).pending = (s.pending && line) := by
  cases line <;> simp [EventSt.delivered]

section
variable {c : Chip} {e : Nat} (hup : c.power.main.up = true) (hdue : (c.event e).recordDue = true)
  (hroute : routeQueue (c.route e) = true)
include hup hdue hroute

theorem deliverEvent_full (hfull : (c.queue (routeDq (c.route e))).hasRoom 1 = false)
    (htold : (c.queue (routeDq (c.route e))).fullTold = true) : c.deliverEvent e = c := by
  unfold Chip.deliverEvent
  dsimp only
  rw [if_neg (by simp [hup, hdue, hroute]), if_neg (by simp [hfull]), if_pos htold]

theorem deliverEvent_room (hroom : (c.queue (routeDq (c.route e))).hasRoom 1 = true) :
    c.deliverEvent e =
      let q := routeDq (c.route e)
      let c1 := c.putRecord q (deliveryBody e (bits (c.route e) 0 2) (c.event e))
      (c1.setQueue q { (c1.queue q).notified with fullTold := false }).setEvent e
        ((c.event e).delivered (routeHirq (c.route e))) := by
  unfold Chip.deliverEvent
  dsimp only
  rw [if_neg (by simp [hup, hdue, hroute]), if_pos hroom]
  rfl

end

theorem waitTransit_comes {d : Nat} {c : Chip} (hrun : c.clk.refRun = true) : d ≤ (c.waitTransit d).clk.transit := by
  unfold Chip.waitTransit
  rw [if_pos hrun]
  unfold Chip.waitUntil
  split
  · rw [Chip.advance_clk, clkAdvance_transit_of_run _ hrun]
    omega
  · omega

theorem coalExpire_of_due {c : Chip} {q t : Nat} (ht : (c.queue q).coalSince = some t) (hun : (c.queue q).unNotified ≠ 0)
    (htime : (c.queue q).coalTime ≠ 0) (hrun : c.clk.refRun = true) :
    c.coalExpire q = (c.waitTransit (t + us (c.queue q).coalTime)).notify q := by
  unfold Chip.coalExpire
  dsimp only
  rw [ht]
  simp [hun, htime, Chip.transitComes, hrun]

/-- A host completion queue notifies by its interrupt alone. -/
theorem notify_host {q : Nat} (h : q < 8) (c : Chip) : c.notify q = c.setQueue q (c.queue q).notified := by
  unfold Chip.notify
  dsimp only
  rw [if_neg (by simp; omega), if_neg (by simp; omega), if_neg (by simp; omega), if_neg (by simp [isMgtQueue]; omega)]

/-! ### The host's registers -/

theorem hifBind_clear {c : Chip} {h v : Nat} (hclosed : (c.session h).opened = false) (hen : bit v 15 = false) :
    c.hifBind h v = { c with host := { c.host with bind := Tbl.set dWord0 c.host.bind h (BitVec.ofNat 32 (v &&& 0x83FF)) } } := by
  unfold Chip.hifBind
  rw [if_neg (by simp [hclosed, hen])]
  dsimp only
  rw [if_neg (by simp [hen])]

theorem hifBind_opened {c : Chip} {h v : Nat} (hopen : (c.session h).opened = true) : c.hifBind h v = c.hifWErr := by
  unfold Chip.hifBind
  rw [if_pos (by simp [hopen])]

/-- A half of the error counter that is written, and one that is written with 0. -/
def halfTouched (bs : List (Option Byte)) (i : Nat) : Bool := (bs.getD i none).isSome || (bs.getD (i + 1) none).isSome

@[inherit_doc halfTouched] def halfZero (bs : List (Option Byte)) (i : Nat) : Bool :=
  bs.getD i none == some 0 && bs.getD (i + 1) none == some 0

theorem halfTouched_iff {bs : List (Option Byte)} {i : Nat} :
    halfTouched bs i = true ↔ (bs.getD i none).isSome = true ∨ (bs.getD (i + 1) none).isSome = true := by
  simp [halfTouched]

theorem halfZero_iff {bs : List (Option Byte)} {i : Nat} :
    halfZero bs i = true ↔ bs.getD i none = some 0 ∧ bs.getD (i + 1) none = some 0 := by
  simp [halfZero]

theorem hifErrcnt_host (bs : List (Option Byte)) (c : Chip) :
    (c.hifErrcnt bs).host.errCrc = (if halfZero bs 0 then 0 else c.host.errCrc) ∧
      (c.hifErrcnt bs).host.errOvrun = (if halfZero bs 2 then 0 else c.host.errOvrun) ∧
      (c.hifErrcnt bs).host.wErr =
        ((halfTouched bs 0 && !halfZero bs 0) || (halfTouched bs 2 && !halfZero bs 2) || c.host.wErr) := by
  unfold Chip.hifErrcnt
  dsimp only
  split
  case isTrue h =>
    have hbad : (halfTouched bs 0 && !halfZero bs 0 || halfTouched bs 2 && !halfZero bs 2) = true := h
    exact ⟨rfl, rfl, by rw [hbad]; rfl⟩
  case isFalse h =>
    have hgood : (halfTouched bs 0 && !halfZero bs 0 || halfTouched bs 2 && !halfZero bs 2) = false := Bool.eq_false_iff.mpr h
    exact ⟨rfl, rfl, by rw [hgood]; rfl⟩

/-! ### The writes that the host port holds -/

/-- The oldest held write leaves the port. -/
def Chip.dropHeld (rest : List HeldWrite) (c : Chip) : Chip := { c with host := { c.host with held := rest } }

section
variable {c : Chip} {w : HeldWrite} {rest : List HeldWrite} (hup : c.power.main.up = true) (hheld : c.host.held = w :: rest)
include hup hheld

theorem applyHeld_register (hw : w.ring = false) : c.applyHeld = Chip.hifWrite w.addr w.data (c.dropHeld rest) := by
  unfold Chip.applyHeld
  rw [if_neg (by simp [hup]), hheld]
  simp only [hw]
  rfl

theorem applyHeld_ring (hw : w.ring = true) (hok : c.ringWriteOk w.addr w.data.length = true) :
    c.applyHeld = { c.dropHeld rest with ring := Tbl.setRun dByte0 c.ring w.addr w.data } := by
  unfold Chip.applyHeld
  rw [if_neg (by simp [hup]), hheld]
  exact (if_neg (by simp [hw])).trans (if_pos hok)

theorem applyHeld_outside (hw : w.ring = true) (hok : c.ringWriteOk w.addr w.data.length = false) :
    c.applyHeld = (c.dropHeld rest).hifWErr := by
  unfold Chip.applyHeld
  rw [if_neg (by simp [hup]), hheld]
  exact (if_neg (by simp [hw])).trans (if_neg (Bool.eq_false_iff.mp hok))

end

/-! ### The clauses -/

/-- A record at the head of a submission queue, of a context that may fetch. -/
theorem fetch_accepts {c : Chip} {ctx : Nat} (hup : c.power.main.up = true) (hlocal : isRemoteCtx ctx = false)
    (hctx : ctx < 8 ∨ isMgtCtx ctx = true) (hen : (c.queue (submissionQueue ctx)).enable = true)
    (hfill : (c.queue (submissionQueue ctx)).fill ≠ 0) (hmay : c.mayFetch ctx = true) (hbound : c.boundNode ctx = none)
    (hok : c.acceptance ctx (c.fetchLen ctx) ((c.fetchBytes ctx).take 16) (c.fetchRung ctx) = none)
    (hroom : c.replyEntries (c.fetchCmd ctx) ≤ (c.queue (completionQueue ctx)).depth)
    (hres : c.canReserve ctx (min (c.reserveFor (c.fetchCmd ctx)) (c.queue (completionQueue ctx)).depth) = true) :
    (c.fetch ctx).cmds = c.cmds ++
        [{ c.fetchCmd ctx with reserved := min (c.reserveFor (c.fetchCmd ctx)) (c.queue (completionQueue ctx)).depth }] ∧
      (c.fetch ctx).queue (submissionQueue ctx) = (c.queue (submissionQueue ctx)).pop (c.fetchEntries ctx) ∧
      (∀ j, j ≠ submissionQueue ctx → (c.fetch ctx).queue j = c.queue j) ∧ (c.fetch ctx).ring = c.ring ∧
      SamePlant c (c.fetch ctx) := by
  obtain ⟨x, hx⟩ := countDemoted_eq (c.fetchCmd ctx) c
  have ht := takePacket_accepted hlocal hok hroom hres
  rw [show c.countDemoted (c.cmdOf ctx _ _ _) = _ from hx] at ht
  rw [fetch_of_takePacket hup hlocal hctx hen hfill hmay hbound ht]
  exact ⟨rfl, Chip.setQueue_same _ _ _, fun j hj => Chip.setQueue_other _ _ _ _ hj, rfl, SamePlant.refl c⟩

theorem fetch_accepts_remote {c : Chip} {ctx : Nat} {p : List Byte} {rest : List (List Byte)} (hup : c.power.main.up = true)
    (hremote : isRemoteCtx ctx = true) (hp : Tbl.get dNil c.remoteIn ctx = p :: rest) (hmay : c.mayFetch ctx = true)
    (hok : c.acceptance ctx p.length (p.take 16) none = none) :
    (c.fetch ctx).cmds = c.cmds ++ [c.cmdOf ctx (p.take 16) (p.drop 16) none] ∧
      Tbl.get dNil (c.fetch ctx).remoteIn ctx = rest ∧ (c.fetch ctx).queues = c.queues ∧ (c.fetch ctx).ring = c.ring ∧
      SamePlant c (c.fetch ctx) := by
  obtain ⟨x, hx⟩ := countDemoted_eq (c.cmdOf ctx (p.take 16) (p.drop 16) none) c
  have ht := takePacket_remote hremote hok
  rw [hx] at ht
  rw [fetch_of_remote hup hremote hp hmay ht]
  exact ⟨rfl, Tbl.get_set_same _ _ _ _, rfl, rfl, SamePlant.refl c⟩

theorem expire_of_fetched {c : Chip} {ctx tag d : Nat} {k : Cmd} (hk : c.findCmd ctx tag = some k) (hphase : k.phase = .fetched)
    (hd : k.expiry = some d) : c.expire ctx tag = (c.waitUntil d).finish k stTimeout noOfs [] := by
  unfold Chip.expire
  rw [hk]
  simp only [hphase, hd]

theorem deliverEvent_writes {c : Chip} {e : Nat} (hup : c.power.main.up = true) (hdue : (c.event e).recordDue = true)
    (hroute : routeQueue (c.route e) = true) (hroom : (c.queue (routeDq (c.route e))).hasRoom 1 = true) :
    ((c.deliverEvent e).event e).recordDue = false ∧
      ((c.deliverEvent e).event e).pending = ((c.event e).pending && routeHirq (c.route e)) ∧
      (∀ j, j ≠ e → (c.deliverEvent e).event j = c.event j) ∧
      (c.deliverEvent e).ring =
        (c.putRecord (routeDq (c.route e)) (deliveryBody e (bits (c.route e) 0 2) (c.event e))).ring := by
  rw [deliverEvent_room hup hdue hroute hroom]
  dsimp only
  exact ⟨by rw [Chip.setEvent_same, EventSt.delivered_recordDue], by rw [Chip.setEvent_same, EventSt.delivered_pending],
    fun j hj => Chip.setEvent_other _ _ _ _ hj, rfl⟩

end Sys2Proof.Machine

namespace Sys2Proof
open Machine

/-- Settles O35. -/
theorem commandsEnterAndRecordsLeave : Obligations.CommandsEnterAndRecordsLeave := by
  intro s
  refine ⟨?fetchLocal, ?fetchRemote, ?deadline, ?doorbell, ?badDoorbell, ?recordWaits, ?record, ?coalTime, ?bind, ?bindOpen,
    ?errCount, ?heldRegister, ?heldOutside, ?heldRing, ?ack⟩
  case fetchLocal =>
    intro ctx hup hlocal hctx
    refine ⟨fun h => Leads.of_eq rfl (fetch_idle hup hlocal hctx h), fun hen hfill hmay hbound => ⟨?_, ?_⟩, ?_⟩
    · intro hok hroom hres
      exact ⟨_, Leads.of_eq rfl rfl, fetch_accepts hup hlocal hctx hen hfill hmay hbound hok hroom hres⟩
    · intro st o hbad hst hres
      exact Leads.of_eq rfl (fetch_of_takePacket hup hlocal hctx hen hfill hmay hbound (takePacket_refused hbad hst hres))
    · intro node c1 hen hfill hmay hbound hcarry
      exact Leads.of_eq rfl (fetch_of_carry hup hlocal hctx hen hfill hmay hbound hcarry)
  case fetchRemote =>
    intro ctx p rest hup hremote hp hmay hok
    exact ⟨_, Leads.of_eq rfl rfl, fetch_accepts_remote hup hremote hp hmay hok⟩
  case deadline =>
    intro ctx tag k d hk hphase hd
    have hwait := Chip.waitUntil_frame d s.chip
    exact ⟨_, Leads.of_eq rfl (expire_of_fetched hk hphase hd), Chip.le_waitUntil _ d, hwait.cmds, hwait.queues,
      SamePlant.of_keeps hwait⟩
  case doorbell =>
    intro q i hup hq hok
    have hrow : (if s.chip.power.main.up && decide (q < 64) then s.chip.doorbell q i else s.chip) = s.chip.doorbell q i :=
      if_pos (by simp [hup, hq])
    have hframe := doorbell_frame q i s.chip hok
    refine ⟨fun hp => ?_, fun hp => ?_⟩
    · obtain ⟨htail, hhead, hother⟩ := doorbell_producer hok hp
      exact ⟨_, Leads.of_eq rfl hrow, htail, hhead, hother, hframe.ring, hframe.events, SamePlant.of_keeps hframe⟩
    · refine ⟨_, Leads.of_eq rfl hrow, ?_, ?_, fun j hj => ?_, hframe.ring, hframe.events, SamePlant.of_keeps hframe⟩
      · rw [doorbell_consumer hok hp, Chip.setQueue_same]
      · rw [doorbell_consumer hok hp, Chip.setQueue_same]
      · rw [doorbell_consumer hok hp, Chip.setQueue_other _ _ _ _ hj]
  case badDoorbell =>
    intro q i hup hq hbad
    have hrow : (if s.chip.power.main.up && decide (q < 64) then s.chip.doorbell q i else s.chip) = s.chip.doorbell q i :=
      if_pos (by simp [hup, hq])
    have hframe := fun x => setQueue_keeps (.refl _) q x s.chip (.refl s.chip)
    refine ⟨_, Leads.of_eq rfl (hrow.trans (doorbell_bad hbad)), ?_, by rw [Chip.setQueue_same],
      by rw [Chip.setQueue_same], fun j hj => Chip.setQueue_other _ _ _ _ hj, rfl, SamePlant.of_keeps (hframe _)⟩
    rw [Chip.setQueue_same]
    dsimp only
    split
    case isTrue h => exact h
    case isFalse => rfl
  case recordWaits =>
    intro e hup hdue hroute hfull htold
    exact Leads.of_eq rfl (deliverEvent_full hup hdue hroute hfull htold)
  case record =>
    intro e hup hdue hroute hroom
    obtain ⟨hrec, hpend, hother, hring⟩ := deliverEvent_writes hup hdue hroute hroom
    exact ⟨_, Leads.of_eq rfl rfl, hrec, hpend, hother, hring,
      SamePlant.of_keeps (deliverEvent_keeps (.refl _) e s.chip (.refl s.chip))⟩
  case coalTime =>
    intro q t ht hun htime hrun
    have hframe := notify_keeps (fs := Field.routed ||| Field.clk ||| Field.rtc) (.of rfl) q _
      (waitTransit_keeps (.of rfl) (t + us (s.chip.queue q).coalTime) s.chip (.refl s.chip))
    refine ⟨_, Leads.of_eq rfl (coalExpire_of_due ht hun htime hrun), ?_, fun hq => ?_, SamePlant.of_keeps hframe⟩
    · rw [Chip.notify_clk]
      exact waitTransit_comes hrun
    · rw [notify_host hq, Chip.setQueue_same]
      exact ⟨rfl, rfl⟩
  case bind =>
    intro h v hup hh hclosed hen
    have hrow : (if s.chip.power.main.up && decide (h < 8) then s.chip.hifBind h v else s.chip) = s.chip.hifBind h v :=
      if_pos (by simp [hup, hh])
    exact ⟨_, Leads.of_eq rfl (hrow.trans (hifBind_clear hclosed hen)), Tbl.get_set_same _ _ _ _,
      fun j hj => Tbl.get_set_other _ _ _ _ _ hj, rfl, rfl, SamePlant.refl _⟩
  case bindOpen =>
    intro h v hup hh hopen
    have hrow : (if s.chip.power.main.up && decide (h < 8) then s.chip.hifBind h v else s.chip) = s.chip.hifBind h v :=
      if_pos (by simp [hup, hh])
    exact ⟨_, Leads.of_eq rfl (hrow.trans (hifBind_opened hopen)), rfl, rfl, rfl, SamePlant.refl _⟩
  case errCount =>
    intro first data hup hlen written zero touched
    have hframe := hifErrcnt_keeps (.refl _) written s.chip (.refl s.chip)
    obtain ⟨hcrc, hovrun, hwErr⟩ := hifErrcnt_host written s.chip
    refine ⟨s.chip.hifErrcnt written, Leads.of_eq rfl (if_pos (by simp [hup, hlen])), fun h => ?_, fun h => ?_, fun h => ?_,
      fun h => ?_, fun h0 h2 => ?_, fun h => ?_, hframe.queues, SamePlant.of_keeps hframe⟩
    · rw [hcrc, if_pos (halfZero_iff.mpr h)]
    · rw [hovrun, if_pos (halfZero_iff.mpr h)]
    · rw [hcrc, if_neg (fun hz => h (halfZero_iff.mp hz))]
    · rw [hovrun, if_neg (fun hz => h (halfZero_iff.mp hz))]
    · have hgood : ∀ i, (touched i → zero i) → (halfTouched written i && !halfZero written i) = false := fun i hi => by
        by_cases ht : halfTouched written i = true
        · simp [halfZero_iff.mpr (hi (halfTouched_iff.mp ht))]
        · simp [ht]
      rw [hwErr, hgood 0 h0, hgood 2 h2, Bool.false_or, Bool.false_or]
    · have hbad : ∀ i, touched i ∧ ¬zero i → (halfTouched written i && !halfZero written i) = true := fun i hi => by
        simp [halfTouched_iff.mpr hi.1, Bool.eq_false_iff.mpr (fun hz => hi.2 (halfZero_iff.mp hz))]
      rcases h with h | h
      · rw [hwErr, hbad 0 h, Bool.true_or, Bool.true_or]
      · rw [hwErr, hbad 2 h, Bool.or_true, Bool.true_or]
  case heldRegister =>
    intro w rest hup hheld hw
    exact Leads.of_eq rfl (applyHeld_register hup hheld hw)
  case heldOutside =>
    intro w rest hup hheld hw hok
    exact ⟨_, Leads.of_eq rfl (applyHeld_outside hup hheld hw hok), rfl, rfl, rfl, SamePlant.refl _⟩
  case heldRing =>
    intro w rest hup hheld hw hok
    exact ⟨_, Leads.of_eq rfl (applyHeld_ring hup hheld hw hok), rfl, rfl, rfl, SamePlant.refl _⟩
  case ack =>
    intro e hup he
    have hframe := setEvent_keeps (.refl _) e { s.chip.event e with pending := false, count := 0 } s.chip (.refl s.chip)
    refine ⟨s.chip.ackEvent e, Leads.of_eq rfl (if_pos (by simp [hup, he])), ?_⟩
    unfold Chip.ackEvent
    exact ⟨by rw [Chip.setEvent_same], by rw [Chip.setEvent_same], by rw [Chip.setEvent_same],
      fun j hj => Chip.setEvent_other _ _ _ _ hj, rfl, SamePlant.of_keeps hframe⟩

end Sys2Proof
end

section
-- One proof after another: side by side, the stacks of their threads reach the check's limit of memory.
set_option Elab.async false
/-! The transactions of the host port (spec/14). -/

namespace Sys2Proof.Machine

/-! ### Writes -/

/-- What a write transaction of any of the four opcodes does: one of a wrong length is ignored, another is checked. -/
def Chip.portWrite (opc w lim : Nat) (held : HeldWrite) (crc : Nat) (c : Chip) : Chip :=
  if held.data.length == 0 || decide (lim < held.data.length) then c else c.checkedWrite opc w held crc

theorem exec_portWrite {i : Instr} {addr crc opc w lim : Nat} {ring : Bool} {data : List Byte} (s : State)
    (h : (i, opc, w, lim, ring) ∈ [(Instr.regWrite addr data crc, 0x02, 2, 256, false),
      (.regWriteQ addr data crc, 0x12, 2, 256, false),
      (.ringWrite addr data crc, 0x0A, 3, 4112, true), (.ringWriteQ addr data crc, 0x6A, 3, 4112, true)]) :
    exec i s = .next { s with chip := s.chip.portWrite opc w lim ⟨ring, addr, data⟩ crc } := by
  simp only [List.mem_cons, Prod.mk.injEq, List.not_mem_nil, or_false] at h
  obtain ⟨rfl, rfl, rfl, rfl, rfl⟩ | ⟨rfl, rfl, rfl, rfl, rfl⟩ | ⟨rfl, rfl, rfl, rfl, rfl⟩ | ⟨rfl, rfl, rfl, rfl, rfl⟩ := h
  · rfl
  · rfl
  · rfl
  · rfl

section
variable {c : Chip} {opc w lim crc : Nat} {held : HeldWrite}

theorem portWrite_ignored (h : held.data.length = 0 ∨ lim < held.data.length ∨ c.hostPortOn = false) :
    c.portWrite opc w lim held crc = c := by
  unfold Chip.portWrite Chip.checkedWrite
  split
  · rfl
  · next hlen =>
    rw [if_pos]
    simp only [Bool.or_eq_true, beq_iff_eq, decide_eq_true_eq, not_or] at hlen
    rcases h with h | h | h
    · exact absurd h hlen.1
    · exact absurd h hlen.2
    · simp [h]

variable (hon : c.hostPortOn = true) (hpos : 1 ≤ held.data.length) (hlim : held.data.length ≤ lim)
include hon hpos hlim

theorem portWrite_checked : c.portWrite opc w lim held crc =
    if crc16 ([BitVec.ofNat 8 opc] ++ (leBytes w held.addr).reverse ++ held.data) != crc then
      { c with host := { c.host with crcErr := true, errCrc := satInc c.host.errCrc } }
    else if 4 ≤ c.host.held.length then
      { c with host := { c.host with ovrun := true, errOvrun := satInc c.host.errOvrun } }
    else { c with host := { c.host with held := c.host.held ++ [held] } } := by
  have hlen : ¬(held.data.length == 0 || decide (lim < held.data.length)) = true := by
    simp only [Bool.or_eq_true, beq_iff_eq, decide_eq_true_eq]
    omega
  unfold Chip.portWrite Chip.checkedWrite
  rw [if_neg hlen, if_neg (by simp [hon])]

end

/-! ### Reads -/

theorem hifReadByte_of_outside {a : Nat} (c : Chip) (h : inRtc a = false) :
    c.hifReadByte a = ((leBytes 4 (c.hifReg (a / 4 * 4))).getD (a % 4) 0, c) := by
  unfold Chip.hifReadByte
  rw [if_neg (by simp [h])]

theorem hifRead_length (a n : Nat) (c : Chip) : (Chip.hifRead a n c).1.length = n := by
  induction n generalizing a c with
  | zero => rfl
  | succ n ih => simp [Chip.hifRead, ih]

/-- Outside the clock's window a read has no effect, and answers the bytes of the registers. -/
theorem hifRead_of_outside {a n : Nat} {c : Chip} (h : ∀ j, j < n → inRtc (a + j) = false) :
    (Chip.hifRead a n c).2 = c ∧ ∀ j, j < n →
      (Chip.hifRead a n c).1[j]? = some ((leBytes 4 (c.hifReg ((a + j) / 4 * 4))).getD ((a + j) % 4) 0) := by
  induction n generalizing a with
  | zero => exact ⟨rfl, fun j hj => absurd hj (Nat.not_lt_zero j)⟩
  | succ n ih =>
    obtain ⟨hstate, hbytes⟩ := ih (a := a + 1) (fun j hj => by simpa [Nat.add_assoc, Nat.add_comm 1] using h (j + 1) (by omega))
    simp only [Chip.hifRead, hifReadByte_of_outside (a := a) c (h 0 (Nat.succ_pos n))]
    refine ⟨hstate, fun j hj => ?_⟩
    cases j with
    | zero => rfl
    | succ j =>
      rw [List.getElem?_cons_succ, hbytes j (by omega), Nat.add_assoc, Nat.add_comm 1]

theorem brokenRead_frame (addr : Nat) (c : Chip) : Keeps (Field.power ||| Field.dogs ||| Field.rtc) c (c.brokenRead addr) :=
  brokenRead_keeps (.refl _) addr c (.refl c)

section
variable {c : Chip} {addr n : Nat}

theorem regRead_answers (hon : c.hostPortOn = true) (hpos : 1 ≤ n) (hlim : n ≤ 256) :
    c.regRead addr n = { (Chip.hifRead addr n c).2 with host := { (Chip.hifRead addr n c).2.host with
      driven := readFrame (Chip.hifRead addr n c).1 } } := by
  unfold Chip.regRead
  rw [if_neg (by simp [hon]; omega), if_neg (by simp; omega)]

theorem regRead_ignored (h : 256 < n ∨ c.hostPortOn = false) : c.regRead addr n = c := by
  unfold Chip.regRead
  rw [if_pos (by simp only [Bool.or_eq_true, Bool.not_eq_true', decide_eq_true_eq]; tauto)]

/-- A read of no byte drives nothing. -/
theorem regRead_empty : (c.regRead addr 0).host.driven = c.host.driven ∧ (c.regRead addr 0).ring = c.ring ∧
    SamePlant c (c.regRead addr 0) := by
  have hframe := brokenRead_frame addr c
  unfold Chip.regRead
  split
  · exact ⟨rfl, rfl, SamePlant.refl c⟩
  · exact ⟨congrArg HostSt.driven hframe.host, hframe.ring, SamePlant.of_keeps hframe⟩

/-- The bytes of the ring region, zeros beyond it and in a boot. -/
def Chip.ringBytesAt (c : Chip) (addr n : Nat) : List Byte :=
  if 0x80000 ≤ addr || c.power.main == .booting then zeros n
  else Tbl.getRun dByte0 c.ring addr (min n (0x80000 - addr)) ++ zeros (n - (0x80000 - addr))

theorem ringBytesAt_length (c : Chip) (addr n : Nat) : (c.ringBytesAt addr n).length = n := by
  unfold Chip.ringBytesAt
  split
  · simp [zeros]
  · simp only [List.length_append, Tbl.getRun_length, zeros, List.length_replicate]
    omega

theorem ringBytesAt_getElem (c : Chip) (addr n : Nat) {j : Nat} (hj : j < n) :
    (c.ringBytesAt addr n)[j]? =
      some (if addr + j < 0x80000 ∧ c.power.main ≠ .booting then Tbl.get dByte0 c.ring (addr + j) else 0) := by
  unfold Chip.ringBytesAt
  split
  · next h =>
    rw [if_neg]
    · simp [zeros, hj]
    · rintro ⟨hin, hrun⟩
      simp only [Bool.or_eq_true, decide_eq_true_eq, beq_iff_eq, hrun, or_false] at h
      omega
  · next h =>
    obtain ⟨haddr, hboot⟩ : addr < 0x80000 ∧ c.power.main ≠ .booting := by simpa using h
    by_cases hin : addr + j < 0x80000
    · rw [if_pos ⟨hin, hboot⟩, List.getElem?_append_left (by rw [Tbl.getRun_length]; omega),
        List.getElem?_eq_getElem (by rw [Tbl.getRun_length]; omega), Tbl.getRun_getElem]
    · rw [if_neg (fun h => hin h.1), List.getElem?_append_right (by rw [Tbl.getRun_length]; omega), Tbl.getRun_length, zeros,
        List.getElem?_replicate, if_pos (by omega)]

theorem ringReadCmd_answers (hon : c.hostPortOn = true) (hpos : 1 ≤ n) (hlim : n ≤ 256) :
    c.ringReadCmd addr n = { c with host := { c.host with driven := readFrame (c.ringBytesAt addr n) } } := by
  unfold Chip.ringReadCmd
  rw [if_neg (by simp [hon]; omega)]
  rfl

theorem ringReadCmd_ignored (h : n = 0 ∨ 256 < n ∨ c.hostPortOn = false) : c.ringReadCmd addr n = c := by
  unfold Chip.ringReadCmd
  rw [if_pos (by simp only [Bool.or_eq_true, Bool.not_eq_true', decide_eq_true_eq, beq_iff_eq]; tauto)]

end

theorem exec_regRead {i : Instr} {addr n : Nat} (s : State) (h : i = .regRead addr n ∨ i = .regReadQ addr n) :
    exec i s = .next { s with chip := s.chip.regRead addr n } := by
  rcases h with rfl | rfl
  · rfl
  · rfl

theorem exec_ringRead {i : Instr} {addr n : Nat} (s : State) (h : i = .ringRead addr n ∨ i = .ringReadQ addr n) :
    exec i s = .next { s with chip := s.chip.ringReadCmd addr n } := by
  rcases h with rfl | rfl
  · rfl
  · rfl

end Sys2Proof.Machine

namespace Sys2Proof
open Machine

/-- Settles O36. -/
theorem hostPortReadsAndWrites : Obligations.HostPortReadsAndWrites := by
  refine ⟨fun s i addr crc opc w lim ring data hi => ⟨fun h => ?ignored, fun hon hpos hlim => ⟨fun hcrc hroom => ?held,
    fun hcrc hfull => ?overrun, fun hcrc => ?badCrc⟩⟩, fun s i addr n => ⟨fun hi => ⟨fun hon hpos hlim => ⟨?regRead,
      fun hout => ?regReadOutside⟩, fun h => ?regReadIgnored, fun hn => ?regReadEmpty⟩,
    fun hi => ⟨fun hon hpos hlim => ?ringRead, fun h => ?ringReadIgnored⟩⟩⟩
  case ignored => exact Leads.of_eq (exec_portWrite s hi) (portWrite_ignored h)
  case held =>
    exact Leads.of_eq (exec_portWrite s hi)
      ((portWrite_checked hon hpos hlim).trans ((if_neg (by simpa using hcrc)).trans (if_neg (by omega))))
  case overrun =>
    exact Leads.of_eq (exec_portWrite s hi)
      ((portWrite_checked hon hpos hlim).trans ((if_neg (by simpa using hcrc)).trans (if_pos hfull)))
  case badCrc =>
    exact Leads.of_eq (exec_portWrite s hi) ((portWrite_checked hon hpos hlim).trans (if_pos (by simpa using hcrc)))
  case regRead => exact Leads.of_eq (exec_regRead s hi) (regRead_answers hon hpos hlim)
  case regReadOutside =>
    obtain ⟨hstate, hbytes⟩ := hifRead_of_outside (c := s.chip) hout
    exact ⟨hstate, hifRead_length addr n s.chip, hbytes⟩
  case regReadIgnored => exact Leads.of_eq (exec_regRead s hi) (regRead_ignored h)
  case regReadEmpty =>
    subst hn
    exact ⟨_, Leads.of_eq (exec_regRead s hi) rfl, regRead_empty⟩
  case ringRead =>
    exact ⟨_, Leads.of_eq (exec_ringRead s hi) (ringReadCmd_answers hon hpos hlim), ringBytesAt_length s.chip addr n,
      fun j hj => ringBytesAt_getElem s.chip addr n hj⟩
  case ringReadIgnored => exact Leads.of_eq (exec_ringRead s hi) (ringReadCmd_ignored h)

end Sys2Proof
end

section
-- One proof after another: side by side, the stacks of their threads reach the check's limit of memory.
set_option Elab.async false
/-! The clock at a port, its alarm, wake and trim, and the schedules in time (spec/10). -/

namespace Sys2Proof.Machine

/-! ### What a slot write leaves of the zones -/

/-- A change of every entry in its place relates each lookup as it relates the entries. -/
theorem Tbl.get_map {α : Type} (R : α → α → Prop) (d : Nat → α) (f : Nat × α → Nat × α) (hrefl : ∀ a, R a a)
    (hf : ∀ e, (f e).1 = e.1 ∧ R e.2 (f e).2) (t : Tbl α) (k : Nat) : R (Tbl.get d t k) (Tbl.get d (t.map f) k) := by
  induction t with
  | nil => exact hrefl _
  | cons e t ih =>
    obtain ⟨hkey, hval⟩ := hf e
    simp only [List.map_cons, Tbl.get, hkey]
    split
    · exact hval
    · exact ih

/-- A zone that may have taken its first measurement: nothing but its model's start differs. -/
def ZoneSt.Measured (s s' : ZoneSt) : Prop := s' = { s with model := s'.model, initUntil := s'.initUntil, x := s'.x }

theorem ZoneSt.Measured.refl (s : ZoneSt) : s.Measured s := rfl

theorem ZoneSt.Measured.of_eq {s s' : ZoneSt} (h : s' = s) : s.Measured s' := h ▸ rfl

theorem ZoneSt.Measured.trans {s s' s'' : ZoneSt} (h : s.Measured s') (h' : s'.Measured s'') : s.Measured s'' := by
  unfold ZoneSt.Measured at *
  rw [h', h]

theorem ZoneSt.Measured.leadReplies {s s' : ZoneSt} (h : s.Measured s') : s'.leadReplies = s.leadReplies := by
  rw [h]

theorem takeY_measured (c : Chip) (z : Nat) (s : ZoneSt) : s.Measured (c.takeY z s) := by
  unfold Chip.takeY
  split
  · split
    · rfl
    · rfl
  · rfl

/-- Every zone of `c` is in `d` as it was, or has taken its first measurement. -/
def ZonesMeasured (c d : Chip) : Prop := ∀ z, (c.zone z).Measured (d.zone z)

theorem ZonesMeasured.of_eq {c d : Chip} (h : d.zones = c.zones) : ZonesMeasured c d := fun z => by
  unfold Chip.zone
  rw [h]
  exact .refl _

theorem ZonesMeasured.refl (c : Chip) : ZonesMeasured c c := .of_eq rfl

theorem ZonesMeasured.trans {a b c : Chip} (h : ZonesMeasured a b) (h' : ZonesMeasured b c) : ZonesMeasured a c :=
  fun z => (h z).trans (h' z)

theorem ZonesMeasured.foldl {α : Type} {f : Chip → α → Chip} (hf : ∀ c a, ZonesMeasured c (f c a)) (l : List α) (c : Chip) :
    ZonesMeasured c (l.foldl f c) := by
  induction l generalizing c with
  | nil => exact .refl c
  | cons a l ih => exact (hf c a).trans (ih _)

theorem zonesSee_measured (sid : Nat) (c : Chip) : ZonesMeasured c (c.zonesSee sid) := fun z => by
  refine Tbl.get_map ZoneSt.Measured dZone _ ZoneSt.Measured.refl (fun e => ?_) c.zones z
  split
  · exact ⟨rfl, takeY_measured c e.1 e.2⟩
  · exact ⟨rfl, .refl _⟩

theorem produce_measured (sid : Nat) (v t : Word) (q p : Half) (c : Chip) : ZonesMeasured c (c.produce sid v t q p) := by
  unfold Chip.produce
  dsimp only
  have hsee : ∀ t, ZonesMeasured c (Chip.zonesSee sid { c with produced := t }) := fun t =>
    (ZonesMeasured.of_eq (d := { c with produced := t }) rfl).trans (zonesSee_measured sid _)
  split
  · exact hsee _
  · exact (hsee _).trans (.of_eq rfl)

theorem produceNow_measured (sid : Nat) (v : Int) (q : Half) (t i : Nat) (c : Chip) : ZonesMeasured c (c.produceNow sid v q t i) :=
  produce_measured _ _ _ _ _ _

theorem produceOpt_measured (sid : Option Nat) (v : Int) (q : Half) (t i : Nat) (c : Chip) :
    ZonesMeasured c (c.produceOpt sid v q t i) := by
  unfold Chip.produceOpt
  split
  · exact produceNow_measured _ _ _ _ _ _
  · exact .refl c

theorem writeZoneOut_measured (z : Nat) (vs : List Int) (c : Chip) : ZonesMeasured c (c.writeZoneOut z vs) := by
  unfold Chip.writeZoneOut
  split
  · exact .refl c
  · exact ZonesMeasured.foldl (fun _ _ => produceNow_measured _ _ _ _ _ _) _ _

/-! ### A zone's evaluation leaves its early starts -/

/-- What a schedule's evaluation leaves: the early starts, and of the zones all but a first measurement. -/
def Evaluated (c d : Chip) : Prop := d.almanac.early = c.almanac.early ∧ ZonesMeasured c d

theorem Evaluated.refl (c : Chip) : Evaluated c c := ⟨rfl, .refl c⟩

theorem Evaluated.trans {a b c : Chip} (h : Evaluated a b) (h' : Evaluated b c) : Evaluated a c :=
  ⟨h'.1.trans h.1, h.2.trans h'.2⟩

theorem writeZoneOut_evaluated (z : Nat) (vs : List Int) (c : Chip) : Evaluated c (c.writeZoneOut z vs) :=
  ⟨congrArg AlmanacSt.early (writeZoneOut_keeps (.refl _) z vs c (.refl c)).almanac, writeZoneOut_measured z vs c⟩

theorem evaluateZone_evaluated (n : Nat) (why : Option Nat) (c : Chip) (z : Nat) : Evaluated c (c.evaluateZone n why z) := by
  have hfire : ∀ (x : AlmanacSt) (cause : Nat), x.early = c.almanac.early →
      Evaluated c (({ c with almanac := x } : Chip).fire 76 cause) := fun x cause hx =>
    ⟨(congrArg AlmanacSt.early (Chip.fire_almanac _ _ _)).trans hx, .of_eq (Chip.fire_zones _ _ _)⟩
  unfold Chip.evaluateZone
  extract_lets start entry old reason changed almanac c1 vs
  have hc1 : Evaluated c c1 := by
    change Evaluated c (if changed then _ else _)
    split
    · exact hfire _ _ rfl
    · exact .refl c
  split
  · exact hc1.trans (writeZoneOut_evaluated z vs c1)
  · exact hc1

/-- Evaluating the zones one after another, each where a condition holds. -/
theorem foldl_evaluated {n : Nat} {why : Option Nat} {skip : Chip → Nat → Bool} (l : List Nat) (c : Chip) :
    Evaluated c (l.foldl (fun x y => if skip x y = true then x.evaluateZone n why y else x) c) := by
  induction l generalizing c with
  | nil => exact .refl c
  | cons y l ih =>
    refine Evaluated.trans ?_ (ih _)
    dsimp only
    split
    · exact evaluateZone_evaluated n why c y
    · exact .refl c

/-! ### A port's view of the clock -/

@[simp] theorem RtcSt.view_setView (r : RtcSt) (p : PortSide) (v : RtcView) : (r.setView p v).view p = v := by
  cases p <;> rfl

@[simp] theorem RtcSt.setView_count (r : RtcSt) (p : PortSide) (v : RtcView) : (r.setView p v).count = r.count := by
  cases p <;> rfl

theorem setRtc_frame (f : RtcSt → RtcSt) (c : Chip) : SamePlant c (c.setRtc f) := SamePlant.refl c

/-- The bytes that a port reads as the time: its frozen shadow, else the clock's. -/
def Chip.portTime (c : Chip) (p : PortSide) : List Byte :=
  if (c.rtc.view p).frozen then (c.rtc.view p).shadow else c.rtc.timeBytes

/-- A port's view after it read byte `i` of the time. -/
theorem readTimeByte_view (p : PortSide) (i : Nat) (c : Chip) :
    ((c.readTimeByte p i).2.rtc.view p).frozen = (i != 6) ∧
      ((c.rtc.view p).frozen = false → ((c.readTimeByte p i).2.rtc.view p).shadow = c.rtc.timeBytes) ∧
      ((c.rtc.view p).frozen = true → ((c.readTimeByte p i).2.rtc.view p).shadow = (c.rtc.view p).shadow) ∧
      (c.readTimeByte p i).2.rtc.count = c.rtc.count := by
  unfold Chip.readTimeByte Chip.setRtc
  dsimp only
  rw [RtcSt.view_setView, RtcSt.setView_count]
  refine ⟨rfl, fun h => ?_, fun h => ?_, rfl⟩
  · simp [h]
  · simp [h]

theorem stageSec_stages {p : PortSide} {i : Nat} {v : Byte} {c : Chip} (hown : c.rtcOwnerOk p = true) (hlead : c.rtcFollows p = false) :
    c.stageSec p i v = c.setRtc (fun r => r.setView p { r.view p with staging := (r.view p).staging.set i v }) := by
  unfold Chip.stageSec
  rw [if_neg (by simp [hown, hlead])]

theorem stageSec_denied {p : PortSide} {i : Nat} {v : Byte} {c : Chip} (h : c.rtcOwnerOk p = false ∨ c.rtcFollows p = true) :
    c.stageSec p i v = c.rtcDeny := by
  unfold Chip.stageSec
  rw [if_pos (by simpa using h)]

theorem commitSec4_commits {p : PortSide} {v : Byte} {c : Chip} (hown : c.rtcOwnerOk p = true) (hlead : c.rtcFollows p = false)
    (hmax : leNat ((c.rtc.view p).staging.set 4 v) ≤ maxCount) :
    c.commitSec4 p v = (c.setRtc (fun r => r.setView p { r.view p with staging := (c.rtc.view p).staging.set 4 v })).commitTime
      (leNat ((c.rtc.view p).staging.set 4 v)) := by
  unfold Chip.commitSec4
  dsimp only
  rw [if_neg (by simpa [hown, hlead] using hmax)]

theorem commitSec4_denied {p : PortSide} {v : Byte} {c : Chip}
    (h : c.rtcOwnerOk p = false ∨ c.rtcFollows p = true ∨ maxCount < leNat ((c.rtc.view p).staging.set 4 v)) :
    c.commitSec4 p v = c.rtcDeny := by
  unfold Chip.commitSec4
  dsimp only
  rw [if_pos (by simpa [or_assoc] using h)]

/-! ### Waiting for the count -/

theorem waitTotal_frame (t : Nat) (c : Chip) : Keeps (Field.clk ||| Field.rtc) c (c.waitTotal t) :=
  waitTotal_keeps (.refl _) t c (.refl c)

/-- The alarm that the count reaches: flags and PWR_ON act at once, and its event is left to fire. -/
theorem rtcTicks_alarm {k : Nat} {r : RtcSt} (hen : r.alarmEn = true) (hbefore : r.count.toNat < r.alm.toNat) (hpresc : r.presc < 32768)
    (hreach : r.alm.toNat ≤ (rtcTicks k r).count.toNat) :
    (rtcTicks k r).alarmF = true ∧ (rtcTicks k r).alarmEn = false ∧ (rtcTicks k r).almMatch = some r.alarmPwr ∧
      (r.alarmPwr = true → (rtcTicks k r).pwrOn = true) := by
  have hold : r.total / 32768 = r.count.toNat := by
    unfold RtcSt.total
    omega
  have hnew : r.alm.toNat ≤ r.totalAfter k / 32768 := by
    have hcount : (rtcTicks k r).count.toNat = r.totalAfter k / 32768 % 2 ^ 40 := BitVec.toNat_ofNat _ _
    have := Nat.mod_le (r.totalAfter k / 32768) (2 ^ 40)
    omega
  have hhit : (r.alarmEn && decide (r.total / 32768 < r.alm.toNat) && decide (r.alm.toNat ≤ r.totalAfter k / 32768)) = true := by
    simp only [hen, hold, hbefore, hnew, decide_true, Bool.and_self]
  simp only [rtcTicks, hhit]
  refine ⟨by simp, by simp, rfl, fun h => by simp [h]⟩

/-- A wake that falls due sets its flag, and PWR_ON where it is told to. -/
theorem rtcTicks_wake {k : Nat} {r : RtcSt} (hdue : r.wakeDue = 0) (h : 0 < (rtcTicks k r).wakeDue) :
    (rtcTicks k r).wakeF = true ∧ (r.wakePwr = true → (rtcTicks k r).pwrOn = true) := by
  simp only [rtcTicks, hdue, Nat.zero_add] at h ⊢
  have hwakes : ∀ n : Nat, 0 < n → (n != 0) = true := fun n hn => by simpa using Nat.pos_iff_ne_zero.mp hn
  rw [hwakes _ h]
  exact ⟨by simp, fun hp => by simp [hp]⟩

/-- Time that passes for the backup domain is some ticks and a flag of its last one. -/
theorem advance_rtc_ticks (dt : Nat) (c : Chip) : ∃ (k o : Nat) (b : Bool),
    (c.advance dt).rtc = { rtcTicks k { c.rtc with osc := o } with pwrNow := b } := ⟨_, _, _, rfl⟩

theorem waitTotal_alarm {c : Chip} (hen : c.rtc.alarmEn = true) (hbefore : c.rtc.count.toNat < c.rtc.alm.toNat)
    (hpresc : c.rtc.presc < 32768)
    (hreach : c.rtc.alm.toNat ≤ (c.waitTotal (c.rtc.alm.toNat * 32768)).rtc.count.toNat) :
    (c.waitTotal (c.rtc.alm.toNat * 32768)).rtc.alarmF = true ∧ (c.waitTotal (c.rtc.alm.toNat * 32768)).rtc.alarmEn = false ∧
      (c.waitTotal (c.rtc.alm.toNat * 32768)).rtc.almMatch = some c.rtc.alarmPwr ∧
      (c.rtc.alarmPwr = true → (c.waitTotal (c.rtc.alm.toNat * 32768)).rtc.pwrOn = true) := by
  have hwait : c.rtc.total < c.rtc.alm.toNat * 32768 := by
    unfold RtcSt.total
    omega
  unfold Chip.waitTotal Chip.waitTicks at hreach ⊢
  rw [if_pos hwait] at hreach ⊢
  generalize ceilDiv _ _ = dt at hreach ⊢
  obtain ⟨k, o, b, hrtc⟩ := advance_rtc_ticks dt c
  rw [hrtc] at hreach ⊢
  exact rtcTicks_alarm (r := { c.rtc with osc := o }) hen hbefore hpresc hreach

theorem waitTotal_wake {c : Chip} {t : Nat} (hdue : c.rtc.wakeDue = 0) (h : 0 < (c.waitTotal t).rtc.wakeDue) :
    (c.waitTotal t).rtc.wakeF = true ∧ (c.rtc.wakePwr = true → (c.waitTotal t).rtc.pwrOn = true) := by
  unfold Chip.waitTotal Chip.waitTicks at h ⊢
  split at h
  · next hwait =>
    rw [if_pos hwait]
    generalize ceilDiv _ _ = dt at h ⊢
    obtain ⟨k, o, b, hrtc⟩ := advance_rtc_ticks dt c
    rw [hrtc] at h ⊢
    exact rtcTicks_wake (r := { c.rtc with osc := o }) hdue h
  · omega

/-! ### Alarm and wake -/

theorem takeAlarm_none {c : Chip} (h : c.rtc.almMatch = none) : c.takeAlarm = c := by
  unfold Chip.takeAlarm
  rw [h]

theorem takeAlarm_some {c : Chip} {pwr : Bool} (h : c.rtc.almMatch = some pwr) :
    c.takeAlarm = (c.setRtc (fun r => { r with almMatch := none })).alarmFires pwr false := by
  unfold Chip.takeAlarm
  rw [h]

theorem alarmFires_frame (pwr bySet : Bool) (c : Chip) : Keeps Field.routed c (c.alarmFires pwr bySet) :=
  fire_keeps (.refl _) _ _ c (.refl c)

theorem alarmRow_of_match {c : Chip} {pwr : Bool} (h : c.rtc.almMatch = some pwr) : c.alarmRow = c.takeAlarm := by
  unfold Chip.alarmRow
  rw [if_neg (by simp [h])]

theorem alarmRow_waits {c : Chip} (h : c.rtc.almMatch = none) (hen : c.rtc.alarmEn = true)
    (hbefore : c.rtc.count.toNat < c.rtc.alm.toNat) : c.alarmRow = (c.waitTotal (c.rtc.alm.toNat * 32768)).takeAlarm := by
  unfold Chip.alarmRow
  rw [if_pos (by simp [h, hen, hbefore])]

theorem alarmRow_idle {c : Chip} (h : c.rtc.almMatch = none) (hoff : c.rtc.alarmEn = false ∨ c.rtc.alm.toNat ≤ c.rtc.count.toNat) :
    c.alarmRow = c := by
  unfold Chip.alarmRow
  rw [if_neg, takeAlarm_none h]
  simp only [Bool.and_eq_true, decide_eq_true_eq, not_and, not_lt]
  rcases hoff with hoff | hoff
  · simp [hoff]
  · exact fun _ => hoff

theorem wakeFires_rtc (c : Chip) : c.wakeFires.rtc.wakeF = c.rtc.wakeF ∧ c.wakeFires.rtc.wakeDue = c.rtc.wakeDue - 1 ∧
    c.wakeFires.rtc.count = c.rtc.count ∧ c.wakeFires.rtc.pwrOn = c.rtc.pwrOn := by
  unfold Chip.wakeFires
  dsimp only
  split
  · rw [Chip.fire_rtc]
    exact ⟨rfl, rfl, rfl, rfl⟩
  · dsimp only
    rw [Chip.fire_rtc]
    exact ⟨rfl, rfl, rfl, rfl⟩

theorem wakeRow_due {c : Chip} (h : 0 < c.rtc.wakeDue) : c.wakeRow = c.wakeFires := by
  unfold Chip.wakeRow
  dsimp only
  rw [if_neg (show ¬(c.rtc.wakeDue == 0 && c.rtc.wakeEn && wakeTicks c.rtc.wake.toNat != 0) = true by
    simp [Nat.pos_iff_ne_zero.mp h]), if_pos h]

theorem wakeRow_waits {c : Chip} (hdue : c.rtc.wakeDue = 0) (hen : c.rtc.wakeEn = true) (hp : wakeTicks c.rtc.wake.toNat ≠ 0)
    (h : 0 < (c.waitTotal ((c.rtc.total / wakeTicks c.rtc.wake.toNat + 1) * wakeTicks c.rtc.wake.toNat)).rtc.wakeDue) :
    c.wakeRow = (c.waitTotal ((c.rtc.total / wakeTicks c.rtc.wake.toNat + 1) * wakeTicks c.rtc.wake.toNat)).wakeFires := by
  unfold Chip.wakeRow
  dsimp only
  rw [if_pos (show (c.rtc.wakeDue == 0 && c.rtc.wakeEn && wakeTicks c.rtc.wake.toNat != 0) = true by simp [hdue, hen, hp]), if_pos h]

theorem wakeRow_idle {c : Chip} (hdue : c.rtc.wakeDue = 0) (h : c.rtc.wakeEn = false ∨ wakeTicks c.rtc.wake.toNat = 0) :
    c.wakeRow = c := by
  unfold Chip.wakeRow
  dsimp only
  rw [if_neg (show ¬(c.rtc.wakeDue == 0 && c.rtc.wakeEn && wakeTicks c.rtc.wake.toNat != 0) = true by
    rcases h with h | h <;> simp [h]), if_neg (by omega)]

/-! ### Trim -/

/-- The end of the interval of 2^20 ticks. -/
def Chip.toTrim (c : Chip) : Chip := if c.rtc.trimTicks < 1048576 then c.waitTicks (1048576 - c.rtc.trimTicks) else c

theorem trimInterval_rtc (temp : Int) (c : Chip) :
    ((c.trimInterval temp).rtc.btemp = BitVec.ofInt 16 temp ∧ (c.trimInterval temp).rtc.trimOn = ephValid c.toTrim.ephBytes ∧
      (c.trimInterval temp).rtc.trimTicks = 0 ∧ (c.trimInterval temp).rtc.count = c.toTrim.rtc.count ∧
      (c.trimInterval temp).clk = c.toTrim.clk) ∧
    (ephValid c.toTrim.ephBytes = true →
      (c.trimInterval temp).rtc.trim = BitVec.ofInt 16 (trimStep (ephErrAt c.toTrim.ephBytes temp) c.toTrim.rtc.residual).1 ∧
      (c.trimInterval temp).rtc.residual = (trimStep (ephErrAt c.toTrim.ephBytes temp) c.toTrim.rtc.residual).2) ∧
    (ephValid c.toTrim.ephBytes = false →
      (c.trimInterval temp).rtc.trim = 0 ∧ (c.trimInterval temp).rtc.residual = c.toTrim.rtc.residual) := by
  unfold Chip.trimInterval Chip.setRtc
  dsimp only
  rw [show (if c.rtc.trimTicks < 1048576 then c.waitTicks (1048576 - c.rtc.trimTicks) else c) = c.toTrim from rfl]
  generalize c.toTrim = w
  refine ⟨⟨rfl, rfl, rfl, rfl, rfl⟩, fun h => ?_, fun h => ?_⟩
  · rw [if_pos h]
    exact ⟨rfl, rfl⟩
  · rw [if_neg (by simp [h])]
    exact ⟨rfl, rfl⟩

/-! ### Schedules -/

theorem scheduleRow_owed {c : Chip} {why : Nat} (hup : c.power.main.up = true) (h : c.almanac.evalDue = some why) :
    c.scheduleRow = Chip.evaluateZones c.rtc.count.toNat (some why) { c with almanac := { c.almanac with evalDue := none } } := by
  unfold Chip.scheduleRow
  rw [if_neg (by simp [hup]), h]

/-- The minute at which a zone is evaluated where no evaluation is owed. -/
def Chip.toMinute (c : Chip) : Chip := if c.rtc.minuteDue then c else c.waitCount ((c.rtc.count.toNat / 60 + 1) * 60)

theorem scheduleRow_minute {c : Chip} (hup : c.power.main.up = true) (h : c.almanac.evalDue = none) :
    c.scheduleRow = Chip.evaluateZones (c.toMinute.rtc.count.toNat - c.toMinute.rtc.count.toNat % 60) none
      (c.toMinute.setRtc (fun r => { r with minuteDue := false })) := by
  unfold Chip.scheduleRow
  rw [if_neg (by simp [hup]), h]
  rfl

/-- The check of a start at `t` is noted. -/
def Chip.noteCheck (z t : Nat) (x : Start) (c : Chip) : Chip :=
  { c with almanac := { c.almanac with
    lastCheck := Tbl.set dNil c.almanac.lastCheck z
      ((Tbl.get dNil c.almanac.lastCheck z).filter (fun y => decide (t ≤ y.2.1) && !(y.1 == x.entry && y.2.1 == x.nominal))
        ++ [(x.entry, x.nominal, t)]) } }

theorem noteCheck_mem (z t : Nat) (x : Start) (c : Chip) :
    (x.entry, x.nominal, t) ∈ Tbl.get dNil (c.noteCheck z t x).almanac.lastCheck z := by
  unfold Chip.noteCheck
  dsimp only
  rw [Tbl.get_set_same]
  simp

section
variable {c : Chip} {z t : Nat} {x : Start} (hup : c.power.main.up = true) (hen : c.zoneEn z = true)
  (hnext : c.nextCheck z c.rtc.count.toNat = some (t, x))
include hup hen hnext

theorem optimalCheck_of_next : c.optimalCheck z =
    let w := c.waitCount t
    let set := fld (w.schedEntry x.entry) 12 1
    let x0 := (w.zone z).x.getD 0 0
    let heat := decide (x0 < w.setpoint set 0)
    let cool := !heat && decide (w.setpoint set 1 < x0)
    if !heat && !cool then w.noteCheck z t x
    else if 5 < (w.boostOf z heat).1 then w.noteCheck z t x
    else { w.noteCheck z t x with predictions := (w.noteCheck z t x).predictions ++
      [⟨z, w.setpoint set (if heat then 0 else 1), heat, w.maxLead x.entry / 60, none, (x.entry, x.nominal, t)⟩] } := by
  unfold Chip.optimalCheck
  rw [if_neg (by simp [hup, hen]), hnext]
  rfl

end

theorem optimalCheck_idle {c : Chip} {z : Nat} (h : c.zoneEn z = false ∨ c.nextCheck z c.rtc.count.toNat = none) :
    c.optimalCheck z = c := by
  unfold Chip.optimalCheck
  split
  · rfl
  · next hen =>
    rcases h with h | h
    · simp [h] at hen
    · rw [h]

/-- Does the answer of a prediction let the start come early? -/
def Chip.StartsEarly (c : Chip) (z e x t : Nat) (lead : Option Nat) : Prop :=
  (∀ k, lead = some k → x - t ≤ k) ∧ c.rtc.count.toNat < x ∧ ∃ y ∈ c.leadStarts z c.rtc.count.toNat, y.entry = e ∧ y.nominal = x

theorem startsEarly_iff (c : Chip) (z e x t : Nat) (lead : Option Nat) :
    (lead.all (fun k => decide (x - t ≤ k)) && decide (c.rtc.count.toNat < x)
      && (c.leadStarts z c.rtc.count.toNat).any (fun y => y.entry == e && y.nominal == x)) = true ↔ c.StartsEarly z e x t lead := by
  unfold Chip.StartsEarly
  cases lead <;> simp [and_assoc]

/-- The early start is noted, and the zones that it concerns are evaluated. -/
def Chip.noteEarly (z e x n : Nat) (c : Chip) : Chip :=
  { c with almanac := { c.almanac with
    early := Tbl.set dNil c.almanac.early z
      ((Tbl.get dNil c.almanac.early z).filter (fun y => decide (n ≤ y.2.1 + 8 * 86400)) ++ [(e, x, n)]) } }

theorem noteEarly_mem (z e x n : Nat) (c : Chip) : (e, x, n) ∈ Tbl.get dNil (c.noteEarly z e x n).almanac.early z := by
  unfold Chip.noteEarly
  dsimp only
  rw [Tbl.get_set_same]
  simp

/-- The zone itself and every zone whose governing entry is another now are evaluated. -/
def Chip.evaluateMoved (z n : Nat) (c : Chip) : Chip :=
  (List.range 64).foldl (fun x y => if y == z || (x.governing y n).map Start.entry != (Tbl.get dGovern x.almanac.govern y).entry
    then x.evaluateZone n none y else x) c

theorem evaluateMoved_evaluated (z n : Nat) (c : Chip) : Evaluated c (c.evaluateMoved z n) :=
  foldl_evaluated (skip := fun x y => y == z || (x.governing y n).map Start.entry != (Tbl.get dGovern x.almanac.govern y).entry) _ c

section
variable {c : Chip} {z e x t : Nat} {lead : Option Nat} {rest : List ((Nat × Nat × Nat) × Option Nat)}
  (h : (c.zone z).leadReplies = ((e, x, t), lead) :: rest)
include h

theorem earlyStart_of_late (hlate : ¬(c.setZone z { c.zone z with leadReplies := rest }).StartsEarly z e x t lead) :
    c.earlyStart z = c.setZone z { c.zone z with leadReplies := rest } := by
  unfold Chip.earlyStart
  rw [h]
  dsimp only
  rw [if_neg]
  exact fun hs => hlate ((startsEarly_iff _ z e x t lead).mp hs)

theorem earlyStart_of_early (hearly : (c.setZone z { c.zone z with leadReplies := rest }).StartsEarly z e x t lead) :
    c.earlyStart z = ((c.setZone z { c.zone z with leadReplies := rest }).noteEarly z e x c.rtc.count.toNat).evaluateMoved z
      c.rtc.count.toNat := by
  unfold Chip.earlyStart
  rw [h]
  exact if_pos ((startsEarly_iff _ z e x t lead).mpr hearly)

theorem earlyStart_notes (hearly : (c.setZone z { c.zone z with leadReplies := rest }).StartsEarly z e x t lead) :
    (e, x, c.rtc.count.toNat) ∈ Tbl.get dNil (c.earlyStart z).almanac.early z ∧ ((c.earlyStart z).zone z).leadReplies = rest := by
  rw [earlyStart_of_early h hearly]
  obtain ⟨hkept, hzones⟩ := evaluateMoved_evaluated z c.rtc.count.toNat
    ((c.setZone z { c.zone z with leadReplies := rest }).noteEarly z e x c.rtc.count.toNat)
  rw [hkept]
  exact ⟨noteEarly_mem z e x _ _, (hzones z).leadReplies.trans (congrArg ZoneSt.leadReplies (Chip.setZone_same _ _ _))⟩

end

theorem earlyStart_idle {c : Chip} {z : Nat} (h : (c.zone z).leadReplies = []) : c.earlyStart z = c := by
  unfold Chip.earlyStart
  rw [h]

/-! ### The clauses -/

/-- The row of a read of a time byte, by its port. -/
theorem rtcTimeRead_leads {s : State} {p : PortSide} {i : Nat} (hi : i ≤ 6) (hon : p = .mgmt ∨ s.chip.power.main.up = true) :
    ∃ c : Chip, Leads (.rtcTimeRead p i) s c ∧
      (p = .host → c.host.driven = [(s.chip.portTime p).getD i 0]) ∧
      (p = .mgmt → c.mgt.driven = some [(s.chip.portTime p).getD i 0]) ∧
      c.rtc = (s.chip.readTimeByte p i).2.rtc ∧ SamePlant s.chip c := by
  cases p with
  | host =>
    have hup : s.chip.power.main.up = true := by simpa using hon
    refine ⟨_, Leads.of_eq rfl (if_neg (by simp [hup]; omega)), fun _ => rfl, fun h => (PortSide.noConfusion h), rfl, ?_⟩
    exact SamePlant.refl _
  | mgmt =>
    refine ⟨_, Leads.of_eq rfl (if_neg (by simp; omega)), fun h => (PortSide.noConfusion h), fun _ => rfl, rfl, ?_⟩
    exact SamePlant.refl _

/-- A port that may use the clock: the management side always, the host while the main side is up. -/
theorem port_not_off {s : State} {p : PortSide} (hon : p = .mgmt ∨ s.chip.power.main.up = true) :
    ¬(p == .host && !s.chip.power.main.up) = true := by
  rcases hon with rfl | hup
  · simp
  · simp [hup]

theorem rtcSecStage_leads {s : State} {p : PortSide} {i : Nat} {v : Byte} {c : Chip} (hi : i ≤ 3)
    (hon : p = .mgmt ∨ s.chip.power.main.up = true) (h : s.chip.stageSec p i v = c) : Leads (.rtcSecStage p i v) s c := by
  refine Leads.of_eq rfl ((if_neg ?_).trans h)
  have := port_not_off hon
  simp only [Bool.or_eq_true, decide_eq_true_eq, not_or, not_lt]
  exact ⟨hi, this⟩

theorem rtcSec4Commit_leads {s : State} {p : PortSide} {v : Byte} {c : Chip}
    (hon : p = .mgmt ∨ s.chip.power.main.up = true) (h : s.chip.commitSec4 p v = c) : Leads (.rtcSec4Commit p v) s c :=
  Leads.of_eq rfl ((if_neg (port_not_off hon)).trans h)

theorem pwrOn_leads {s : State} {p : PortSide} (hon : p = .mgmt ∨ s.chip.power.main.up = true) (hown : s.chip.rtcOwnerOk p = true) :
    Leads (.pwrOnAssert p) s (s.chip.setRtc RtcSt.assertPwr) ∧ Leads (.pwrOnRelease p) s (s.chip.setRtc RtcSt.releasePwr) :=
  ⟨Leads.of_eq rfl ((if_neg (port_not_off hon)).trans (if_neg (by simp [hown]))),
    Leads.of_eq rfl ((if_neg (port_not_off hon)).trans (if_neg (by simp [hown])))⟩

theorem pwrOn_denied {s : State} {p : PortSide} (hon : p = .mgmt ∨ s.chip.power.main.up = true)
    (hown : s.chip.rtcOwnerOk p = false) :
    Leads (.pwrOnAssert p) s s.chip.rtcDeny ∧ Leads (.pwrOnRelease p) s s.chip.rtcDeny :=
  ⟨Leads.of_eq rfl ((if_neg (port_not_off hon)).trans (if_pos (by simp [hown]))),
    Leads.of_eq rfl ((if_neg (port_not_off hon)).trans (if_pos (by simp [hown])))⟩

/-- The clock's registers at a port. -/
theorem clock_at_port (s : State) (p : PortSide) (hon : p = .mgmt ∨ s.chip.power.main.up = true) :
    (∀ i, i ≤ 6 → ∃ c : Chip, Leads (.rtcTimeRead p i) s c ∧
      (p = .host → c.host.driven = [(s.chip.portTime p).getD i 0]) ∧
      (p = .mgmt → c.mgt.driven = some [(s.chip.portTime p).getD i 0]) ∧
      (c.rtc.view p).frozen = (i != 6) ∧ ((s.chip.rtc.view p).frozen = false → (c.rtc.view p).shadow = s.chip.rtc.timeBytes) ∧
      ((s.chip.rtc.view p).frozen = true → (c.rtc.view p).shadow = (s.chip.rtc.view p).shadow) ∧ c.rtc.count = s.chip.rtc.count ∧
      SamePlant s.chip c) ∧
    ((s.chip.rtc.view p).frozen = true → ∃ c : Chip, Leads (.rtcShadowTimeout p) s c ∧ (c.rtc.view p).frozen = false ∧
      (c.rtc.view p).frzTo = true ∧ (s.chip.rtc.view p).release ≤ c.clk.now ∧ SamePlant s.chip c) ∧
    ((s.chip.rtc.view p).frozen = false → Leads (.rtcShadowTimeout p) s s.chip) := by
  refine ⟨fun i hi => ?_, fun h => ?_, fun h => Leads.of_eq rfl (if_neg (by simp [h]))⟩
  · obtain ⟨c, hleads, hhost, hmgt, hrtc, hplant⟩ := rtcTimeRead_leads hi hon
    obtain ⟨hfrozen, hfresh, hshadow, hcount⟩ := readTimeByte_view p i s.chip
    rw [← hrtc] at hfrozen hfresh hshadow hcount
    exact ⟨c, hleads, hhost, hmgt, hfrozen, hfresh, hshadow, hcount, hplant⟩
  · refine ⟨_, Leads.of_eq rfl (if_pos h), ?_, ?_, Chip.le_waitUntil _ _,
      (SamePlant.of_keeps (Chip.waitUntil_frame _ s.chip)).trans (setRtc_frame _ _)⟩
    · exact congrArg RtcView.frozen (RtcSt.view_setView _ _ _)
    · exact congrArg RtcView.frzTo (RtcSt.view_setView _ _ _)

theorem commitSec4_sets {s : State} {p : PortSide} {v : Byte} (hon : p = .mgmt ∨ s.chip.power.main.up = true)
    (hown : s.chip.rtcOwnerOk p = true) (hlead : s.chip.rtcFollows p = false)
    (hmax : leNat ((s.chip.rtc.view p).staging.set 4 v) ≤ maxCount) : ∃ c : Chip,
      Leads (.rtcSec4Commit p v) s c ∧ c.rtc.count = BitVec.ofNat 40 (leNat ((s.chip.rtc.view p).staging.set 4 v)) ∧
        c.rtc.presc = 0 ∧ c.rtc.valid = true ∧ SamePlant s.chip c := by
  obtain ⟨hcount, hpresc, hvalid, -, -⟩ := commitTime_rtc
    (s.chip.setRtc (fun r => r.setView p { r.view p with staging := (s.chip.rtc.view p).staging.set 4 v }))
    (leNat ((s.chip.rtc.view p).staging.set 4 v))
  exact ⟨_, rtcSec4Commit_leads hon (commitSec4_commits hown hlead hmax), hcount, hpresc, hvalid,
    (setRtc_frame _ _).trans (SamePlant.of_keeps (commitTime_keeps (.refl _) _ _ (.refl _)))⟩

/-- The alarm that the count reaches by its next increments. -/
theorem alarm_reached {s : State} (hmatch : s.chip.rtc.almMatch = none) (hen : s.chip.rtc.alarmEn = true)
    (hbefore : s.chip.rtc.count.toNat < s.chip.rtc.alm.toNat) (hpresc : s.chip.rtc.presc < 32768)
    (hreach : s.chip.rtc.alm.toNat ≤ (s.chip.waitTotal (s.chip.rtc.alm.toNat * 32768)).rtc.count.toNat) : ∃ c : Chip,
      Leads .alarm s c ∧ c.rtc.alarmF = true ∧ c.rtc.alarmEn = false ∧ c.rtc.almMatch = none ∧
        (s.chip.rtc.alarmPwr = true → c.rtc.pwrOn = true) ∧
        c.rtc.count = (s.chip.waitTotal (s.chip.rtc.alm.toNat * 32768)).rtc.count ∧ SamePlant s.chip c := by
  obtain ⟨hflag, hoff, hmatched, hpwr⟩ := waitTotal_alarm hen hbefore hpresc hreach
  have hrow := (alarmRow_waits hmatch hen hbefore).trans (takeAlarm_some hmatched)
  have hrtc := (alarmFires_frame s.chip.rtc.alarmPwr false ((s.chip.waitTotal (s.chip.rtc.alm.toNat * 32768)).setRtc
    (fun r => { r with almMatch := none }))).rtc
  refine ⟨_, Leads.of_eq rfl hrow, ?_⟩
  rw [hrtc]
  exact ⟨hflag, hoff, rfl, hpwr, rfl, (SamePlant.of_keeps (waitTotal_frame _ s.chip)).trans
    ((setRtc_frame _ _).trans (SamePlant.of_keeps (alarmFires_frame _ _ _)))⟩

theorem wakeFires_samePlant (c : Chip) : SamePlant c c.wakeFires :=
  SamePlant.of_keeps (wakeFires_keeps (.refl _) c (.refl c))

/-- The optimal start's prediction that a check asks for. -/
theorem optimalCheck_asks {c : Chip} {z t : Nat} {x : Start} (hup : c.power.main.up = true) (hen : c.zoneEn z = true)
    (hnext : c.nextCheck z c.rtc.count.toNat = some (t, x)) (heat : Bool)
    (hside : if heat then ((c.waitCount t).zone z).x.getD 0 0 < (c.waitCount t).setpoint (fld ((c.waitCount t).schedEntry x.entry) 12 1) 0
      else (c.waitCount t).setpoint (fld ((c.waitCount t).schedEntry x.entry) 12 1) 0 ≤ ((c.waitCount t).zone z).x.getD 0 0 ∧
        (c.waitCount t).setpoint (fld ((c.waitCount t).schedEntry x.entry) 12 1) 1 < ((c.waitCount t).zone z).x.getD 0 0)
    (hboost : ((c.waitCount t).boostOf z heat).1 ≤ 5) :
    c.optimalCheck z = { (c.waitCount t).noteCheck z t x with predictions := c.predictions ++
      [⟨z, (c.waitCount t).setpoint (fld ((c.waitCount t).schedEntry x.entry) 12 1) (if heat then 0 else 1), heat,
        (c.waitCount t).maxLead x.entry / 60, none, (x.entry, x.nominal, t)⟩] } := by
  rw [optimalCheck_of_next hup hen hnext]
  dsimp only
  have hpred : ((c.waitCount t).noteCheck z t x).predictions = c.predictions := (waitTotal_frame _ c).predictions
  rw [hpred]
  generalize ((c.waitCount t).zone z).x.getD 0 0 = x0 at hside ⊢
  cases heat with
  | true =>
    have hcold := hside
    rw [if_pos rfl] at hcold
    rw [decide_eq_true hcold, if_neg (by simp), if_neg (by omega)]
  | false =>
    obtain ⟨hwarm, hhot⟩ : _ ∧ _ := by simpa using hside
    rw [decide_eq_false (not_lt.mpr hwarm), if_neg (by simpa using hhot), if_neg (by omega)]

theorem optimalCheck_satisfied {c : Chip} {z t : Nat} {x : Start} (hup : c.power.main.up = true) (hen : c.zoneEn z = true)
    (hnext : c.nextCheck z c.rtc.count.toNat = some (t, x))
    (hwarm : (c.waitCount t).setpoint (fld ((c.waitCount t).schedEntry x.entry) 12 1) 0 ≤ ((c.waitCount t).zone z).x.getD 0 0)
    (hcool : ((c.waitCount t).zone z).x.getD 0 0 ≤ (c.waitCount t).setpoint (fld ((c.waitCount t).schedEntry x.entry) 12 1) 1) :
    c.optimalCheck z = (c.waitCount t).noteCheck z t x := by
  rw [optimalCheck_of_next hup hen hnext]
  dsimp only
  generalize ((c.waitCount t).zone z).x.getD 0 0 = x0 at hwarm hcool ⊢
  rw [if_pos (by simp [hwarm, hcool])]

/-- Alarm and wake in time. -/
theorem alarm_and_wake (s : State) :
    (∀ pwr, s.chip.rtc.almMatch = some pwr → ∃ c : Chip, Leads .alarm s c ∧ c.rtc.almMatch = none ∧ c.rtc.alarmF = s.chip.rtc.alarmF ∧
      c.rtc.count = s.chip.rtc.count ∧ SamePlant s.chip c ∧ (Fires s.chip 77 → Fired c 77 (b2n pwr))) ∧
    (0 < s.chip.rtc.wakeDue → ∃ c : Chip, Leads .wake s c ∧ c.rtc.wakeF = s.chip.rtc.wakeF ∧ c.rtc.wakeDue = s.chip.rtc.wakeDue - 1 ∧
      c.rtc.count = s.chip.rtc.count ∧ SamePlant s.chip c) ∧
    (s.chip.rtc.wakeDue = 0 → s.chip.rtc.wakeEn = true → wakeTicks s.chip.rtc.wake.toNat ≠ 0 →
      let p := wakeTicks s.chip.rtc.wake.toNat
      let w := s.chip.waitTotal ((s.chip.rtc.total / p + 1) * p)
      0 < w.rtc.wakeDue → ∃ c : Chip, Leads .wake s c ∧ c.rtc.wakeF = true ∧ c.rtc.wakeDue = w.rtc.wakeDue - 1 ∧
        (s.chip.rtc.wakePwr = true → c.rtc.pwrOn = true) ∧ c.rtc.count = w.rtc.count ∧ SamePlant s.chip c) := by
  refine ⟨fun pwr h => ?_, fun h => ?_, ?_⟩
  · have hrow := (alarmRow_of_match h).trans (takeAlarm_some h)
    have hframe := alarmFires_frame pwr false (s.chip.setRtc (fun r => { r with almMatch := none }))
    have hrtc := hframe.rtc
    refine ⟨_, Leads.of_eq rfl hrow, by rw [hrtc]; rfl, by rw [hrtc]; rfl, by rw [hrtc]; rfl, (setRtc_frame _ _).trans (SamePlant.of_keeps hframe), fun hf => ?_⟩
    have hcause : b2n pwr + 2 * b2n (!s.chip.power.main.up) + 4 * b2n false = b2n pwr := by
      rw [hf.1]
      rfl
    exact hcause ▸ fired_fire (c := s.chip.setRtc _) hf (by decide) (by decide) (by decide) (by decide)
  · obtain ⟨hflag, hdue, hcount, -⟩ := wakeFires_rtc s.chip
    exact ⟨_, Leads.of_eq rfl (wakeRow_due h), hflag, hdue, hcount, wakeFires_samePlant _⟩
  · intro hdue hen hp p w h
    obtain ⟨hflag, hpwr⟩ := waitTotal_wake hdue h
    obtain ⟨hflag', hdue', hcount', hpwr'⟩ := wakeFires_rtc w
    exact ⟨_, Leads.of_eq rfl (wakeRow_waits hdue hen hp h), hflag'.trans hflag, hdue', fun hp => hpwr'.trans (hpwr hp), hcount',
      (SamePlant.of_keeps (waitTotal_frame _ s.chip)).trans (wakeFires_samePlant _)⟩

end Sys2Proof.Machine

namespace Sys2Proof
open Machine

/-- Settles O37. -/
theorem clockRegistersAndSchedules : Obligations.ClockRegistersAndSchedules := by
  refine ⟨fun s p hon => ?ports, fun s => ⟨?alarmMatched, ?alarmReached, ?alarmIdle, ?wakeDue, ?wakeReached, ?wakeIdle, ?trim,
    ?evaluationOwed, ?minute, ?check, ?checkIdle, ?earlyIdle, ?early⟩⟩
  case ports =>
    obtain ⟨hread, htimeout, hidle⟩ := clock_at_port s p hon
    refine ⟨hread, htimeout, hidle, fun hown hlead => ⟨fun i v hi => ?_, fun v hmax => commitSec4_sets hon hown hlead hmax⟩,
      fun hown => pwrOn_leads hon hown, fun hown => pwrOn_denied hon hown, fun i v hi => ⟨fun h => ?_, fun h => ?_⟩⟩
    · refine ⟨_, rtcSecStage_leads hi hon (stageSec_stages hown hlead), ?_, RtcSt.setView_count _ _ _, setRtc_frame _ _⟩
      exact congrArg RtcView.staging (RtcSt.view_setView _ _ _)
    · exact rtcSecStage_leads hi hon (stageSec_denied h)
    · exact rtcSec4Commit_leads hon (commitSec4_denied h)
  case alarmMatched => exact (alarm_and_wake s).1
  case alarmReached =>
    intro hmatch hen hbefore hpresc w hreach
    exact alarm_reached hmatch hen hbefore hpresc hreach
  case alarmIdle => exact fun hmatch h => Leads.of_eq rfl (alarmRow_idle hmatch h)
  case wakeDue => exact (alarm_and_wake s).2.1
  case wakeReached => exact (alarm_and_wake s).2.2
  case wakeIdle => exact fun hdue h => Leads.of_eq rfl (wakeRow_idle hdue h)
  case trim =>
    intro temp w
    obtain ⟨hrest, hon, hoff⟩ := trimInterval_rtc temp s.chip
    obtain ⟨htemp, htrimOn, hticks, hcount, hclk⟩ := hrest
    exact ⟨_, Leads.of_eq rfl rfl, htemp, htrimOn, hticks, hon, hoff, hcount, hclk,
      SamePlant.of_keeps (trimInterval_keeps (.refl _) temp s.chip (.refl _))⟩
  case evaluationOwed => exact fun why hup h => Leads.of_eq rfl (scheduleRow_owed hup h)
  case minute => exact fun hup h => Leads.of_eq rfl (scheduleRow_minute hup h)
  case check =>
    intro z x t hup hen hnext w set x0 ask
    have hslots : w.slots = s.chip.slots := (waitTotal_frame _ s.chip).slots
    have hpredictions : w.predictions = s.chip.predictions := (waitTotal_frame _ s.chip).predictions
    refine ⟨fun hcold hboost => ?_, fun hwarm hhot hboost => ?_, fun hwarm hcool => ?_⟩
    · exact ⟨_, Leads.of_eq rfl (optimalCheck_asks hup hen hnext true hcold hboost), noteCheck_mem z t x w, rfl, hslots⟩
    · exact ⟨_, Leads.of_eq rfl (optimalCheck_asks hup hen hnext false ⟨hwarm, hhot⟩ hboost), noteCheck_mem z t x w, rfl, hslots⟩
    · exact ⟨_, Leads.of_eq rfl (optimalCheck_satisfied hup hen hnext hwarm hcool), noteCheck_mem z t x w, hpredictions, hslots⟩
  case checkIdle => exact fun z h => Leads.of_eq rfl (optimalCheck_idle h)
  case earlyIdle => exact fun z h => Leads.of_eq rfl (earlyStart_idle h)
  case early =>
    intro z e x t lead rest h c1 n starts
    exact ⟨fun hlate => Leads.of_eq rfl (earlyStart_of_late h hlate), fun hearly => ⟨_, Leads.of_eq rfl rfl, earlyStart_notes h hearly⟩⟩

end Sys2Proof
end

section
-- One proof after another: side by side, the stacks of their threads reach the check's limit of memory.
set_option Elab.async false
/-! The management port: its commands, registers and packets (spec/14). -/

namespace Sys2Proof.Machine

/-! ### Commands with a PEC -/

section
variable {c : Chip} {bytes : List Byte} {pec : Option Byte} {act : Chip → Chip}

theorem withPec_off (h : c.mgtOn = false) : c.withPec bytes pec act = c.nack := by
  unfold Chip.withPec
  rw [if_pos (by simp [h])]

theorem withPec_right (hon : c.mgtOn = true)
    (h : pec.map BitVec.toNat = some (crc8 ([BitVec.ofNat 8 (2 * c.mgtAddress)] ++ bytes))) : c.withPec bytes pec act = act c := by
  unfold Chip.withPec
  rw [if_neg (by simp [hon]), if_pos (by simpa using h)]

theorem withPec_wrong (hon : c.mgtOn = true)
    (h : pec.map BitVec.toNat ≠ some (crc8 ([BitVec.ofNat 8 (2 * c.mgtAddress)] ++ bytes))) :
    c.withPec bytes pec act = c.nack.setMgt (fun m => { m with pecErr := min 255 (m.pecErr + 1) }) := by
  unfold Chip.withPec
  rw [if_neg (by simp [hon]), if_neg (by simpa using h)]

end

/-- The form of each management command that writes: its bytes under the PEC and its action. -/
def PecCommand (c : Chip) (i : Instr) (bytes : List Byte) (act : Chip → Chip) (pec : Option Byte) : Prop :=
  (i, bytes, act) ∈ [(Instr.resetMain pec, [3, 1], Chip.actionReset), (.holdMain pec, [3, 2], Chip.actionHold),
    (.releaseMain pec, [3, 3], Chip.actionRelease), (.safeAll pec, [3, 4], Chip.actionSafeAll)] ∨
  (∃ addr data, i = .mgtRegWrite addr data pec ∧ 1 ≤ data.length ∧ data.length ≤ 32 ∧
    bytes = [9, BitVec.ofNat 8 (2 + data.length)] ++ leBytes 2 addr ++ data ∧ act = Chip.mgtWrite addr data) ∨
  (∃ flags data, i = .pktWrite flags data pec ∧ c.power.main.up = true ∧ 1 ≤ data.length ∧ data.length ≤ 240 ∧
    flags.toNat ≤ 3 ∧ bytes = [0x10, BitVec.ofNat 8 (1 + data.length), flags] ++ data ∧ act = Chip.pktWrite flags.toNat data) ∨
  (∃ data, i = .alertClear data pec ∧ data.length = 16 ∧ bytes = [0x19, 16] ++ data ∧
    act = (fun c => c.setMgt (fun m => { m with alert := m.alert &&& ~~~ (BitVec.ofNat 128 (leNat data)) })))

theorem pecCommand_leads {s : State} {i : Instr} {bytes : List Byte} {act : Chip → Chip} {pec : Option Byte} {c : Chip}
    (h : PecCommand s.chip i bytes act pec) (hc : s.chip.withPec bytes pec act = c) : Leads i s c := by
  rcases h with h | ⟨addr, data, rfl, hpos, hlim, rfl, rfl⟩ | ⟨flags, data, rfl, hup, hpos, hlim, hflags, rfl, rfl⟩ |
    ⟨data, rfl, hlen, rfl, rfl⟩
  · simp only [List.mem_cons, Prod.mk.injEq, List.not_mem_nil, or_false] at h
    obtain ⟨rfl, rfl, rfl⟩ | ⟨rfl, rfl, rfl⟩ | ⟨rfl, rfl, rfl⟩ | ⟨rfl, rfl, rfl⟩ := h
    · exact Leads.of_eq rfl hc
    · exact Leads.of_eq rfl hc
    · exact Leads.of_eq rfl hc
    · exact Leads.of_eq rfl hc
  · exact Leads.of_eq rfl ((if_neg (by simp only [Bool.or_eq_true, beq_iff_eq, decide_eq_true_eq]; omega)).trans hc)
  · refine Leads.of_eq rfl ((if_neg ?_).trans hc)
    simp only [hup, Bool.not_true, Bool.false_or, Bool.or_eq_true, beq_iff_eq, decide_eq_true_eq]
    omega
  · exact Leads.of_eq rfl ((if_neg (by simp [hlen])).trans hc)

/-- A command that is not acknowledged: the side off, a wrong length, a packet while the main side is down. -/
theorem nack_leads {s : State} {i : Instr} {pec : Option Byte}
    (h : s.chip.mgtOn = false ∧ (i = .resetMain pec ∨ i = .holdMain pec ∨ i = .releaseMain pec ∨ i = .safeAll pec) ∨
      (∃ addr data, i = .mgtRegWrite addr data pec ∧ (s.chip.mgtOn = false ∨ data.length = 0 ∨ 32 < data.length)) ∨
      (∃ flags data, i = .pktWrite flags data pec ∧ (s.chip.mgtOn = false ∨ s.chip.power.main.up = false ∨ data.length = 0 ∨
        240 < data.length ∨ 3 < flags.toNat)) ∨
      (∃ data, i = .alertClear data pec ∧ (s.chip.mgtOn = false ∨ data.length ≠ 16))) : Leads i s s.chip.nack := by
  have hguard : ∀ (p : Prop) [Decidable p] (bytes : List Byte) (act : Chip → Chip), (s.chip.mgtOn = false ∨ p) →
      (if p then s.chip.nack else s.chip.withPec bytes pec act) = s.chip.nack := fun p _ bytes act hp => by
    split
    · rfl
    · next hn => exact withPec_off (hp.resolve_right hn)
  rcases h with ⟨hoff, rfl | rfl | rfl | rfl⟩ | ⟨addr, data, rfl, h⟩ | ⟨flags, data, rfl, h⟩ | ⟨data, rfl, h⟩
  · exact Leads.of_eq rfl (withPec_off hoff)
  · exact Leads.of_eq rfl (withPec_off hoff)
  · exact Leads.of_eq rfl (withPec_off hoff)
  · exact Leads.of_eq rfl (withPec_off hoff)
  · exact Leads.of_eq rfl (hguard _ _ _ (by simpa using h))
  · exact Leads.of_eq rfl (hguard _ _ _ (by simpa [or_assoc] using h))
  · exact Leads.of_eq rfl (hguard _ _ _ (by simpa using h))

/-! ### Reset, hold and release of the main side -/

theorem clearLatch_frame (c : Chip) : Keeps Field.power c c.clearLatch := clearLatch_keeps (.refl _) c (.refl c)

theorem clearLatch_power (c : Chip) : c.clearLatch.power.main = c.power.main ∧ c.clearLatch.power.hold = c.power.hold ∧
    c.clearLatch.power.resetCause = c.power.resetCause := by
  unfold Chip.clearLatch
  split
  · exact ⟨rfl, rfl, rfl⟩
  · exact ⟨rfl, rfl, rfl⟩

theorem mainReset_hold {c : Chip} (h : c.mainRuns = true) (b dog : Nat) : (c.mainReset b dog).power.hold = c.power.hold := by
  rw [mainReset_power b dog h]

/-! ### Groups that the management side holds safe -/

theorem holdGroup_owns (g : Nat) (c : Chip) : (c.holdGroup g).ownerIsMgt (handle tyGroup g) = true ∧
    (∀ h, c.ownerIsMgt h = true → (c.holdGroup g).ownerIsMgt h = true) ∧ bit (c.holdGroup g).mgt.safeHeld g = true := by
  have howners : (c.forceSafe g 4).owners = c.owners := (forceSafe_keeps (.refl _) g 4 c (.refl c)).owners
  have hown : ∀ h, (c.holdGroup g).ownerIsMgt h = ((c.forceSafe g 4).setOwner (handle tyGroup g) true true).ownerIsMgt h :=
    fun _ => rfl
  refine ⟨?_, fun h hh => ?_, bit_or_pow _ g⟩
  · rw [hown, setOwner_ownerIsMgt, if_pos rfl]
  · rw [hown, setOwner_ownerIsMgt]
    split
    · rfl
    · unfold Chip.ownerIsMgt
      rw [howners]
      exact hh

theorem foldl_holdGroup_owns (gs : List Nat) (c : Chip) :
    (∀ h, c.ownerIsMgt h = true → (gs.foldl (fun c g => c.holdGroup g) c).ownerIsMgt h = true) ∧
      ∀ g ∈ gs, (gs.foldl (fun c g => c.holdGroup g) c).ownerIsMgt (handle tyGroup g) = true := by
  induction gs generalizing c with
  | nil => exact ⟨fun _ h => h, fun g hg => absurd hg (List.not_mem_nil)⟩
  | cons a gs ih =>
    obtain ⟨hkeeps, howns⟩ := ih (c.holdGroup a)
    obtain ⟨hown, hkept, -⟩ := holdGroup_owns a c
    refine ⟨fun h hh => hkeeps h (hkept h hh), fun g hg => ?_⟩
    rcases List.mem_cons.mp hg with rfl | hg
    · exact hkeeps _ hown
    · exact howns g hg

theorem releaseGroup_of_held {c : Chip} {g : Nat} (h : bit c.mgt.safeHeld g = true) :
    (c.releaseGroup g).ownerIsMgt (handle tyGroup g) = false ∧ SamePlant c (c.releaseGroup g) := by
  unfold Chip.releaseGroup
  rw [if_pos h]
  refine ⟨?_, SamePlant.trans (SamePlant.refl c) (setOwner_samePlant _ _ _ _)⟩
  rw [setOwner_ownerIsMgt, if_pos rfl]

theorem releaseGroup_of_free {c : Chip} {g : Nat} (h : bit c.mgt.safeHeld g = false) : c.releaseGroup g = c := by
  unfold Chip.releaseGroup
  rw [if_neg (by simp [h])]

/-! ### Reads of the register window -/

theorem mgtRead_length (a n : Nat) (c : Chip) : (Chip.mgtRead a n c).1.length = n := by
  induction n generalizing a c with
  | zero => rfl
  | succ n ih => simp [Chip.mgtRead, ih]

/-- Outside the clock's window a read has no effect, and answers the bytes of the registers. -/
theorem mgtRead_of_outside {a n : Nat} {c : Chip} (h : ∀ j, j < n → inRtc (a + j) = false) :
    (Chip.mgtRead a n c).2 = c ∧ ∀ j, j < n →
      (Chip.mgtRead a n c).1[j]? = some ((leBytes 4 (c.mgtReg ((a + j) / 4 * 4))).getD ((a + j) % 4) 0) := by
  induction n generalizing a with
  | zero => exact ⟨rfl, fun j hj => absurd hj (Nat.not_lt_zero j)⟩
  | succ n ih =>
    obtain ⟨hstate, hbytes⟩ := ih (a := a + 1) (fun j hj => by simpa [Nat.add_assoc, Nat.add_comm 1] using h (j + 1) (by omega))
    have hfirst : c.mgtReadByte a = ((leBytes 4 (c.mgtReg (a / 4 * 4))).getD (a % 4) 0, c) :=
      if_neg (by simpa using h 0 (Nat.succ_pos n))
    simp only [Chip.mgtRead, hfirst]
    refine ⟨hstate, fun j hj => ?_⟩
    cases j with
    | zero => rfl
    | succ j =>
      rw [List.getElem?_cons_succ, hbytes j (by omega), Nat.add_assoc, Nat.add_comm 1]

/-! ### Packets -/

section
variable {c : Chip} {data : List Byte}

/-- A chunk that begins no packet, where none is under way, is dropped. -/
theorem pktWrite_dropped {flags : Nat} (hflag : bit flags 0 = false) (h : c.mgt.building = none) :
    c.pktWrite flags data = c.setMgt (fun m => { m with building := none, pktDrop := true }) := by
  unfold Chip.pktWrite
  dsimp only
  rw [if_pos (by simp [hflag, h])]
  rfl

/-- A chunk that is not the last is kept. -/
theorem pktWrite_kept {flags : Nat} (hstart : bit flags 0 = true ∨ c.mgt.building.isSome = true) (hlast : bit flags 1 = false) :
    c.pktWrite flags data = c.setMgt (fun m => { m with
      building := some ((if bit flags 0 then [] else c.mgt.building.getD []) ++ data) }) := by
  unfold Chip.pktWrite
  dsimp only
  rw [if_neg (by rcases hstart with h | h <;> simp [h]), if_neg (by simp [hlast])]

/-- The last chunk submits the packet. -/
theorem pktWrite_submitted {flags : Nat} (hstart : bit flags 0 = true ∨ c.mgt.building.isSome = true) (hlast : bit flags 1 = true) :
    c.pktWrite flags data = c.submitPacket ((if bit flags 0 then [] else c.mgt.building.getD []) ++ data) := by
  unfold Chip.pktWrite
  dsimp only
  rw [if_neg (by rcases hstart with h | h <;> simp [h]), if_pos hlast]

end

theorem pktRead_of_none {c : Chip} (h : c.readFrom = none) :
    c.pktRead = (c.setMgt (fun m => { m with lastChunk := [4] })).answerBlock [0x11] [4] := by
  unfold Chip.pktRead
  rw [h]

section
variable (c : Chip) (q : Nat)

/-- The record word at the head of the queue that is read. -/
def Chip.readWord : Nat := leNat (ringRead (c.queue q) (c.queue q).head 4 c.ring)

/-- The offset of the next chunk in that record. -/
def Chip.readOfs : Nat := if c.mgt.readQueue.isSome then c.mgt.readOffset else 0

/-- The length of that chunk. -/
def Chip.chunkLen : Nat := min 240 (c.readWord q % 8192 - c.readOfs)

/-- That chunk, with its flags. -/
def Chip.chunk : List Byte :=
  BitVec.ofNat 8 (b2n (c.readOfs == 0) + 2 * b2n (decide (c.readWord q % 8192 ≤ c.readOfs + c.chunkLen q)) +
      8 * b2n (bit (c.readWord q) 14)) ::
    (ringRead (c.queue q) (c.queue q).head (4 + c.readOfs + c.chunkLen q) c.ring).drop (4 + c.readOfs)

/-- The record is freed with its last chunk. -/
def Chip.afterChunk : Chip :=
  (if decide (c.readWord q % 8192 ≤ c.readOfs + c.chunkLen q) then
      c.setQueue q ((c.queue q).pop (min (c.queue q).fill (entriesFor (c.queue q).eshift (c.readWord q % 8192)))) else c).setMgt
    (fun m => { m with
      readQueue := if decide (c.readWord q % 8192 ≤ c.readOfs + c.chunkLen q) then none else some q
      readOffset := if decide (c.readWord q % 8192 ≤ c.readOfs + c.chunkLen q) then 0 else c.readOfs + c.chunkLen q
      lastChunk := c.chunk q })

variable {c} {q}

theorem pktRead_of_some (h : c.readFrom = some q) : c.pktRead = (c.afterChunk q).answerBlock [0x11] (c.chunk q) := by
  unfold Chip.pktRead
  rw [h]
  rfl

theorem afterChunk_last (h : c.readWord q % 8192 ≤ c.readOfs + c.chunkLen q) :
    c.afterChunk q = (c.setQueue q ((c.queue q).pop
      (min (c.queue q).fill (entriesFor (c.queue q).eshift (c.readWord q % 8192))))).setMgt
        (fun m => { m with readQueue := none, readOffset := 0, lastChunk := c.chunk q }) := by
  unfold Chip.afterChunk
  rw [decide_eq_true h]
  rfl

theorem afterChunk_more (h : ¬c.readWord q % 8192 ≤ c.readOfs + c.chunkLen q) :
    c.afterChunk q = c.setMgt (fun m => { m with
      readQueue := some q, readOffset := c.readOfs + c.chunkLen q, lastChunk := c.chunk q }) := by
  unfold Chip.afterChunk
  rw [decide_eq_false h]
  rfl

/-- What the reading of a chunk leaves. -/
theorem afterChunk_state : (c.afterChunk q).mgt.lastChunk = c.chunk q ∧
    (c.readWord q % 8192 ≤ c.readOfs + c.chunkLen q → (c.afterChunk q).mgt.readQueue = none ∧ (c.afterChunk q).queue q =
      (c.queue q).pop (min (c.queue q).fill (entriesFor (c.queue q).eshift (c.readWord q % 8192)))) ∧
    (¬c.readWord q % 8192 ≤ c.readOfs + c.chunkLen q → (c.afterChunk q).mgt.readQueue = some q ∧
      (c.afterChunk q).mgt.readOffset = c.readOfs + c.chunkLen q ∧ (c.afterChunk q).queue q = c.queue q) ∧
    (∀ j, j ≠ q → (c.afterChunk q).queue j = c.queue j) ∧ (c.afterChunk q).ring = c.ring ∧ SamePlant c (c.afterChunk q) := by
  by_cases h : c.readWord q % 8192 ≤ c.readOfs + c.chunkLen q
  · rw [afterChunk_last h]
    exact ⟨rfl, fun _ => ⟨rfl, Chip.setQueue_same _ _ _⟩, fun hn => absurd h hn, fun j hj => Chip.setQueue_other _ _ _ _ hj, rfl,
      SamePlant.refl c⟩
  · rw [afterChunk_more h]
    exact ⟨rfl, fun hl => absurd hl h, fun _ => ⟨rfl, rfl, rfl⟩, fun _ _ => rfl, rfl, SamePlant.refl c⟩

end

end Sys2Proof.Machine

namespace Sys2Proof
open Machine

/-- Settles O38. -/
theorem managementPortActs : Obligations.ManagementPortActs := by
  refine ⟨⟨fun s i bytes act pec hon hcmd => ⟨fun hpec => ?right, fun hpec => ?wrong⟩, fun s i pec h => nack_leads h⟩, fun s => ?_⟩
  case right => exact pecCommand_leads hcmd (withPec_right hon hpec)
  case wrong => exact pecCommand_leads hcmd (withPec_wrong hon hpec)
  refine ⟨?reset, ?hold, ?release, ?safeAll, ?safeHold, ?safeRelease, ?safeHoldIdle, ?safeReleaseIdle, ?registerWrite, fun v => rfl,
    fun v => rfl, ⟨?always, ?regReadOutside, ?reread, ?alertRead, ?alertResponse⟩, ?regRead, ?chunkDropped, ?chunkFirst, ?chunkNext,
    ?readNone, ?readChunk, ?alwaysOff, ?regReadNack, ?packetNack, ?alertNack, ?responseNack, Leads.of_eq rfl rfl⟩
  case reset =>
    intro hruns
    obtain ⟨hmain, hhold, hcause⟩ := clearLatch_power (s.chip.mainReset 3 0)
    obtain ⟨hreset, hbit, -⟩ := mainReset_source 3 0 hruns (by decide)
    have hframe := clearLatch_frame (s.chip.mainReset 3 0)
    exact ⟨_, rfl, hmain.trans hreset, by rw [hcause]; exact hbit, hframe.cmds.trans (mainReset_cmds 3 0 hruns),
      hhold.trans (mainReset_hold hruns 3 0), hframe.slots.trans (mainReset_slots 3 0), hframe.flash.trans (mainReset_flash 3 0)⟩
  case hold =>
    intro hruns
    obtain ⟨hreset, -, -⟩ := mainReset_source 3 0 hruns (by decide)
    exact ⟨_, rfl, hreset, rfl, mainReset_slots 3 0, mainReset_flash 3 0⟩
  case release =>
    obtain ⟨hmain, hhold, -⟩ := clearLatch_power { s.chip with power := { s.chip.power with hold := false } }
    have hplant := SamePlant.of_keeps (clearLatch_frame { s.chip with power := { s.chip.power with hold := false } })
    exact ⟨_, rfl, hhold, hmain, hplant⟩
  case safeAll => exact ⟨_, rfl, fun g hg => (foldl_holdGroup_owns _ s.chip).2 g (List.mem_range.mpr hg)⟩
  case safeHold =>
    intro g hon hg
    obtain ⟨hown, -, hheld⟩ := holdGroup_owns g s.chip
    refine ⟨s.chip.holdGroup g, Leads.of_eq rfl ((if_pos (by simp [hon, hg])).trans ?_), hheld, hown⟩
    simp [Chip.holdGroups, groupMask]
  case safeRelease =>
    intro g hon hheld
    exact ⟨_, Leads.of_eq rfl (if_pos hon), releaseGroup_of_held hheld⟩
  case safeHoldIdle => exact fun g h => Leads.of_eq rfl (if_neg (by rcases h with h | h <;> simp [h]))
  case safeReleaseIdle =>
    intro g h
    refine Leads.of_eq rfl ?_
    split
    · next hon => exact releaseGroup_of_free (h.resolve_left (by simp [hon]))
    · rfl
  case registerWrite =>
    exact fun addr v => ⟨fun h => Leads.of_eq rfl (if_pos h), fun h => Leads.of_eq rfl (if_neg (by simp [h])),
      fun h => Leads.of_eq rfl (if_pos h), fun h => Leads.of_eq rfl (if_neg (by simp [h]))⟩
  case always => exact fun hao => ⟨Leads.of_eq rfl (if_pos hao), Leads.of_eq rfl (if_pos hao)⟩
  case regReadOutside =>
    intro addr n hon hpos hlim hout
    obtain ⟨hstate, hbytes⟩ := mgtRead_of_outside (c := s.chip) hout
    refine ⟨_, Leads.of_eq rfl ((if_neg (by simp [hon]; omega)).trans ?_), mgtRead_length addr n s.chip, hbytes⟩
    rw [hstate]
    rfl
  case reread => exact fun hon hup => Leads.of_eq rfl (if_pos (by simp [hon, hup]))
  case alertRead => exact fun hon => Leads.of_eq rfl (if_pos hon)
  case alertResponse => exact fun hon hline => Leads.of_eq rfl (if_pos (by simp [hon, hline]))
  case regRead => exact fun addr n hon hpos hlim => Leads.of_eq rfl (if_neg (by simp [hon]; omega))
  case chunkDropped => exact fun data h => ⟨pktWrite_dropped rfl h, pktWrite_dropped rfl h⟩
  case chunkFirst => exact fun data => ⟨pktWrite_kept (.inl rfl) rfl, pktWrite_submitted (.inl rfl) rfl⟩
  case chunkNext =>
    intro data got h
    have hsome : s.chip.mgt.building.isSome = true := by rw [h]; rfl
    have hall : (if bit 0 0 then [] else s.chip.mgt.building.getD []) = got := by rw [h]; rfl
    refine ⟨(pktWrite_kept (.inr hsome) rfl).trans ?_, (pktWrite_submitted (.inr hsome) rfl).trans ?_⟩
    · rw [hall]
    · rw [← hall]
      rfl
  case readNone => exact fun hon hup h => Leads.of_eq rfl ((if_pos (by simp [hon, hup])).trans (pktRead_of_none h))
  case readChunk =>
    intro q hon hup h
    exact ⟨_, Leads.of_eq rfl ((if_pos (by simp [hon, hup])).trans (pktRead_of_some h)), afterChunk_state⟩
  case alwaysOff => exact fun h => ⟨Leads.of_eq rfl (if_neg (by simp [h])), Leads.of_eq rfl (if_neg (by simp [h]))⟩
  case regReadNack => exact fun addr n h => Leads.of_eq rfl (if_pos (by simpa [or_assoc] using h))
  case packetNack =>
    have hneg : s.chip.mgtOn = false ∨ s.chip.power.main.up = false → ¬(s.chip.mgtOn && s.chip.power.main.up) = true :=
      fun h => by rcases h with h | h <;> simp [h]
    exact fun h => ⟨Leads.of_eq rfl (if_neg (hneg h)), Leads.of_eq rfl (if_neg (hneg h))⟩
  case alertNack => exact fun h => Leads.of_eq rfl (if_neg (by simp [h]))
  case responseNack => exact fun h => Leads.of_eq rfl (if_neg (by rcases h with h | h <;> simp [h]))

end Sys2Proof
end

section
-- One proof after another: side by side, the stacks of their threads reach the check's limit of memory.
set_option Elab.async false
/-! The supplies, the hot-swap switch and the shedding of ports (spec/04, spec/15). -/

namespace Sys2Proof.Machine

/-! ### Rows out of their condition -/

section
variable {c : Chip} {v a peak : Nat} {ft : Bool} {ac : Option Bool}

theorem porExit_idle (h : c.power.aoOn = true ∨ v < 6000 ∧ a < 6000) : c.porExit v a ft = c :=
  if_pos (by simpa using h)

theorem porEntry_idle (h : c.power.aoOn = false ∨ 5000 ≤ v ∨ 5000 ≤ a) : c.porEntry v a = c :=
  if_pos (by simpa [or_assoc] using h)

theorem vsysLow_idle (h : c.power.aoOn = false ∨ 11000 ≤ v) : c.vsysLow v = c := if_pos (by simpa using h)

theorem powerFail_idle (h : c.power.aoOn = false ∨ 10000 ≤ v) : c.powerFail v = c := if_pos (by simpa using h)

theorem vsysReturn_idle (h : c.power.aoOn = false ∨ v < 11500) : c.vsysReturn v = c := if_pos (by simpa using h)

theorem charged_idle (h : c.power.aoOn = false ∨ c.power.hsw ≠ .charging ∨ v < 11500) : c.charged v ac = c :=
  if_pos (by simpa [or_assoc] using h)

/-- A supply switch that carries nothing cannot fault. -/
theorem hswLimit_idle (h : c.power.aoOn = false ∨ c.power.hsw ≠ .charging ∧ c.power.hsw ≠ .on) : c.hswLimit peak = c := by
  unfold Chip.hswLimit
  split
  · rfl
  · next hao =>
    obtain ⟨hcharging, hon⟩ := h.resolve_left (by simpa using hao)
    rw [if_neg (by simpa using hcharging), if_neg (by simpa using hon)]

theorem hswFast_idle (h : c.power.aoOn = false ∨ c.power.hsw ≠ .charging ∧ c.power.hsw ≠ .on) : c.hswFast peak = c :=
  if_neg (by rcases h with h | ⟨hcharging, hon⟩ <;> simp [*])

theorem hswAgain_idle (h : c.power.aoOn = false ∨ c.power.hsw ≠ .retry ∨ c.power.hswRetry = none) : c.hswAgain = c := by
  unfold Chip.hswAgain
  split
  · next d hretry hd =>
    rw [if_neg]
    rcases h with h | h | h
    · simp [h]
    · exact absurd hretry h
    · simp [h] at hd
  · rfl

theorem hswUnlatch_idle (h : c.power.aoOn = false ∨ c.power.hsw ≠ .latched) : c.hswUnlatch = c :=
  if_neg (by rcases h with h | h <;> simp [h])

theorem vactLow_idle (h : c.power.aoOn = false ∨ 9500 ≤ a) : c.vactLow a = c := if_pos (by simpa using h)

theorem vactGone_idle (h : c.power.aoOn = false ∨ 8500 ≤ a) : c.vactGone a = c := if_pos (by simpa using h)

theorem vactRestored_idle (h : c.power.aoOn = false ∨ a ≤ 9800) : c.vactRestored a = c := if_pos (by simpa using h)

theorem vactTrip_idle (h : c.power.aoOn = false ∨ c.power.vactOpen = true) : c.vactTrip = c := if_pos (by simpa using h)

theorem vactAgain_idle (h : c.power.aoOn = false ∨ c.power.vactRetry = none) : c.vactAgain = c := by
  unfold Chip.vactAgain
  split
  · rfl
  · next d hd =>
    rw [if_pos]
    simpa using h.resolve_right (by simp [hd])

end

/-! ### The always-on domain -/

theorem porExit_starts {c : Chip} {v a : Nat} (ft : Bool) (hoff : c.power.aoOn = false) (h : 6000 ≤ v ∨ 6000 ≤ a) :
    (c.porExit v a ft).power = { resetPower with
        testHeld := ft, vsysR := v, vact := a, vbat := c.power.vbat, ma := c.power.ma, strapIlim := c.power.strapIlim
        hswCfg := BitVec.ofNat 32 (c.power.strapIlim + 256 * 100 + 65536)
        hsw := if 6000 ≤ v then .charging else .off
        lastReset := some c.clk.now } ∧
      (c.porExit v a ft).mgt = resetMgt ∧ (c.porExit v a ft).cmds = [] := by
  unfold Chip.porExit
  rw [if_neg (by simp [hoff]; omega)]
  exact ⟨rfl, rfl, rfl⟩

theorem porEntry_ends {c : Chip} {v a : Nat} (hon : c.power.aoOn = true) (hv : v < 5000) (ha : a < 5000) :
    (c.porEntry v a).power = { c.power with
        debugHalt := false, aoOn := false, vsysR := v, vact := a, hsw := .off, main := .reset, sramLost := true } ∧
      (c.porEntry v a).clk.refRun = false ∧ (c.porEntry v a).cmds = [] := by
  unfold Chip.porEntry
  rw [if_neg (by simp [hon]; omega)]
  exact ⟨rfl, rfl, rfl⟩

/-! ### Loss of the supply -/

/-- What a reset source leaves of the supplies. -/
theorem mainReset_supply (b dog : Nat) (c : Chip) : (c.mainReset b dog).power.vsysR = c.power.vsysR ∧
    (c.mainReset b dog).power.input = c.power.input ∧ (c.mainReset b dog).power.hsw = c.power.hsw ∧
    (c.mainReset b dog).power.hswRetry = c.power.hswRetry ∧ (c.mainReset b dog).power.hswRow = c.power.hswRow := by
  by_cases hruns : c.mainRuns = true
  · rw [mainReset_power b dog hruns]
    exact ⟨rfl, rfl, rfl, rfl, rfl⟩
  · rw [Chip.mainReset, if_neg hruns]
    split
    · dsimp only [Chip.noteCause, Chip.setPower]
      exact ⟨rfl, rfl, rfl, rfl, rfl⟩
    · exact ⟨rfl, rfl, rfl, rfl, rfl⟩

theorem vsysLoss_supply (c : Chip) : c.vsysLoss.power.vsysR = c.power.vsysR ∧ c.vsysLoss.power.input = c.power.input ∧
    c.vsysLoss.power.hsw = c.power.hsw ∧ c.vsysLoss.power.hswRetry = c.power.hswRetry ∧ c.vsysLoss.power.hswRow = c.power.hswRow :=
  mainReset_supply 1 0 c

theorem vsysLoss_flash (c : Chip) : c.vsysLoss.flash = c.flash := mainReset_flash (c := c) 1 0

theorem vsysLoss_resets {c : Chip} (h : c.mainRuns = true) : c.vsysLoss.power.main = .reset ∧
    bit c.vsysLoss.power.resetCause.toNat 1 = true ∧ c.vsysLoss.cmds = [] := by
  obtain ⟨hmain, hcause, -⟩ := mainReset_source (c := c) 1 0 h (by decide)
  exact ⟨hmain, hcause, mainReset_cmds (c := c) 1 0 h⟩

theorem powerFail_loses {c : Chip} {v : Nat} (hon : c.power.aoOn = true) (hv : v < 10000) :
    c.powerFail v = (c.setPower (fun p => { p with
      vsysR := v, input := 0, hswRetry := none, hsw := if p.hsw == .latched then .latched else .off })).vsysLoss :=
  if_neg (by simp [hon]; omega)

/-! ### The hot-swap switch -/

/-- The switch after a fault: latched where it does not retry, else open for 1 s. -/
def Chip.hswOpened (latch : Bool) (c : Chip) : Chip := c.setPower (fun p => { p with
  hsw := if latch then .latched else .retry, hswRow := min 4 (c.power.hswRow + 1)
  hswRetry := if latch then none else some (c.clk.now + sec 1) })

/-- Does a fault latch the switch? -/
def Chip.hswLatches (c : Chip) : Bool := !c.power.hswAuto || decide (3 ≤ c.power.hswRow)

theorem hswFault_eq (kind peak : Nat) (c : Chip) : c.hswFault kind peak =
    (if c.power.hsw == .on then (c.hswOpened c.hswLatches).vsysLoss else c.hswOpened c.hswLatches).fire 127
      ((if c.hswLatches then 3 else kind) + 4 * min 3 (min 4 (c.power.hswRow + 1)) + 65536 * min 65535 peak) := rfl

/-- A fault of the switch while it charges. -/
theorem hswFault_charging {c : Chip} (kind peak : Nat) (h : c.power.hsw = .charging) : c.hswFault kind peak =
    (c.hswOpened c.hswLatches).fire 127
      ((if c.hswLatches then 3 else kind) + 4 * min 3 (c.power.hswRow + 1) + 65536 * min 65535 peak) := by
  rw [hswFault_eq, if_neg (show ¬(c.power.hsw == .on) = true by simp [h]),
    show min 3 (min 4 (c.power.hswRow + 1)) = min 3 (c.power.hswRow + 1) by omega]

/-- A fault of the switch that is on takes the main side down. -/
theorem hswFault_on {c : Chip} (kind peak : Nat) (h : c.power.hsw = .on) : c.hswFault kind peak =
    (c.hswOpened c.hswLatches).vsysLoss.fire 127
      ((if c.hswLatches then 3 else kind) + 4 * min 3 (c.power.hswRow + 1) + 65536 * min 65535 peak) := by
  rw [hswFault_eq, if_pos (show (c.power.hsw == .on) = true by simp [h]),
    show min 3 (min 4 (c.power.hswRow + 1)) = min 3 (c.power.hswRow + 1) by omega]

theorem hswLimit_charging {c : Chip} (peak : Nat) (hao : c.power.aoOn = true) (h : c.power.hsw = .charging) :
    c.hswLimit peak = c.hswFault 0 peak := by
  unfold Chip.hswLimit
  rw [if_neg (by simp [hao]), if_pos (by simp [h])]

theorem hswLimit_on {c : Chip} (peak : Nat) (hao : c.power.aoOn = true) (h : c.power.hsw = .on) :
    c.hswLimit peak = c.hswFault 1 peak := by
  unfold Chip.hswLimit
  rw [if_neg (by simp [hao]), if_neg (by simp [h]), if_pos (by simp [h])]

theorem hswFast_closed {c : Chip} (peak : Nat) (hao : c.power.aoOn = true) (h : c.power.hsw = .charging ∨ c.power.hsw = .on) :
    c.hswFast peak = c.hswFault 2 peak :=
  if_pos (by rcases h with h | h <;> simp [hao, h])

/-- What a fault of the switch leaves. -/
theorem hswFault_leaves {s : State} {i : Instr} (kind peak : Nat)
    (hrow : Leads i s (s.chip.hswFault kind peak)) (hsw : s.chip.power.hsw = .charging ∨ s.chip.power.hsw = .on) :
    ∃ (latch : Bool) (c : Chip), latch = (!s.chip.power.hswAuto || decide (3 ≤ s.chip.power.hswRow)) ∧
      Leads i s (c.fire 127 ((if latch then 3 else kind) + 4 * min 3 (s.chip.power.hswRow + 1) + 65536 * min 65535 peak)) ∧
      c.power.hsw = (if latch then .latched else .retry) ∧ c.power.hswRetry = (if latch then none else some (s.chip.clk.now + sec 1)) ∧
      c.power.hswRow = min 4 (s.chip.power.hswRow + 1) ∧
      (s.chip.power.hsw = .on → c.clk.refRun = false ∧
        (s.chip.mainRuns = true → c.power.main = .reset ∧ bit c.power.resetCause.toNat 1 = true)) ∧
      (s.chip.power.hsw = .charging → c.power.main = s.chip.power.main ∧ SamePlant s.chip c) ∧ c.flash = s.chip.flash := by
  refine ⟨s.chip.hswLatches, ?_⟩
  rcases hsw with h | h
  · rw [hswFault_charging kind peak h] at hrow
    exact ⟨_, rfl, hrow, rfl, rfl, rfl, fun hon => by simp [h] at hon, fun _ => ⟨rfl, SamePlant.refl _⟩, rfl⟩
  · rw [hswFault_on kind peak h] at hrow
    obtain ⟨-, -, hhsw, hretry, hrow'⟩ := vsysLoss_supply (s.chip.hswOpened s.chip.hswLatches)
    refine ⟨_, rfl, hrow, hhsw, hretry, hrow', fun _ => ⟨rfl, fun hruns => ?_⟩, fun hc => by simp [h] at hc, vsysLoss_flash _⟩
    obtain ⟨hmain, hcause, -⟩ := vsysLoss_resets (c := s.chip.hswOpened s.chip.hswLatches) hruns
    exact ⟨hmain, hcause⟩

theorem hswAgain_retries {c : Chip} {d : Nat} (hao : c.power.aoOn = true) (h : c.power.hsw = .retry) (hd : c.power.hswRetry = some d) :
    c.hswAgain = (c.waitUntil d).startCharging := by
  unfold Chip.hswAgain
  rw [h, hd]
  exact if_pos hao

/-! ### Shedding -/

/-- Shedding a port sheds it, and leaves the others shed or not as they were. -/
theorem shedPort_shed (n : Nat) (c : Chip) (j : Nat) : ((c.shedPort n).port j).shed = (decide (j = n) || (c.port j).shed) := by
  have hrest : ∀ d : Chip, (((d.portCause n 0x10).motorPause n).stopFloat n).port j = (d.portCause n 0x10).port j := fun d =>
    (stopFloat_keeps (fs := Field.routed ||| Field.motors ||| Field.valves ||| Field.mgt) (.of rfl) n _
      (motorPause_keeps (.of rfl) n (d.portCause n 0x10) (.refl _))).port_eq rfl j
  have hcause : ∀ d : Chip, ((d.portCause n 0x10).port j).shed = (d.port j).shed := fun d => by
    unfold Chip.portCause
    dsimp only
    rw [Chip.fire_port]
    by_cases hj : j = n
    · subst hj
      rw [Chip.setPort_same]
    · rw [Chip.setPort_other _ _ _ _ hj]
  unfold Chip.shedPort
  rw [hrest, hcause]
  by_cases hj : j = n
  · subst hj
    simp
  · rw [Chip.setPort_other _ _ _ _ hj]
    simp [hj]

theorem shedPort_usesVact (n : Nat) (c : Chip) (j : Nat) : (c.shedPort n).usesVact j = c.usesVact j := by
  have hattr := fun i => (shedPort_keeps (.refl _) n c (.refl c)).attr_eq rfl tyPort j i
  simp only [Chip.usesVact, Chip.portMode, Chip.portCfg, Chip.attrN, hattr]

/-- Shed the ports of a list that draw VACT current and are not shed yet. -/
def Chip.shedThese (l : List Nat) (c : Chip) : Chip :=
  l.foldl (fun c n => if c.usesVact n && !(c.port n).shed then c.shedPort n else c) c

theorem shedThese_shed (l : List Nat) (c : Chip) : (∀ j, (c.port j).shed = true → ((c.shedThese l).port j).shed = true) ∧
    ∀ n ∈ l, c.usesVact n = true → ((c.shedThese l).port n).shed = true := by
  induction l generalizing c with
  | nil => exact ⟨fun _ h => h, fun n hn => absurd hn List.not_mem_nil⟩
  | cons m l ih =>
    have hstep : ∀ d : Chip, d = (if c.usesVact m && !(c.port m).shed then c.shedPort m else c) →
        (∀ j, (c.port j).shed = true → (d.port j).shed = true) ∧ (∀ j, d.usesVact j = c.usesVact j) ∧
          (c.usesVact m = true → (d.port m).shed = true) := by
      rintro d rfl
      split
      · refine ⟨fun j h => ?_, fun j => shedPort_usesVact m c j, fun _ => ?_⟩
        · rw [shedPort_shed, h, Bool.or_true]
        · rw [shedPort_shed, decide_eq_true rfl, Bool.true_or]
      · next h => exact ⟨fun _ h => h, fun _ => rfl, fun hu => by simpa [hu] using h⟩
    obtain ⟨hkeep, huses, hshed⟩ := hstep _ rfl
    obtain ⟨ihkeep, ihshed⟩ := ih (if c.usesVact m && !(c.port m).shed then c.shedPort m else c)
    refine ⟨fun j h => ihkeep j (hkeep j h), fun n hn hu => ?_⟩
    rcases List.mem_cons.mp hn with rfl | hn
    · exact ihkeep n (hshed hu)
    · exact ihshed n hn ((huses n).trans hu)

theorem shedAll_shed (c : Chip) {n : Nat} (hn : n < 32) (hu : c.usesVact n = true) : (c.shedAll.port n).shed = true := by
  have hport : c.shedAll.port n = (c.shedThese (List.range 32)).port n :=
    (checkCaptures_keeps (.refl _) (c.shedThese (List.range 32)) (.refl _)).port_eq rfl n
  rw [hport]
  exact (shedThese_shed _ c).2 n (List.mem_range.mpr hn) hu

/-! ### The return of VACT -/

theorem restorePort_shed (n : Nat) (c : Chip) (j : Nat) : ((c.restorePort n).port j).shed = (decide (j ≠ n) && (c.port j).shed) := by
  unfold Chip.restorePort Chip.settle
  by_cases hj : j = n
  · subst hj
    rw [Chip.setPort_same, Chip.setPort_same]
    simp
  · rw [Chip.setPort_other _ _ _ _ hj, Chip.setPort_other _ _ _ _ hj]
    simp [hj]

/-- How many ports are shed. -/
def Chip.shedCount (c : Chip) : Nat := (List.range 32).countP (fun n => (c.port n).shed)

theorem shedCount_restorePort {c : Chip} {n : Nat} (hn : n < 32) (h : (c.port n).shed = true) :
    (c.restorePort n).shedCount < c.shedCount := by
  unfold Chip.shedCount
  have hle : ∀ l : List Nat, l.countP (fun j => ((c.restorePort n).port j).shed) ≤ l.countP (fun j => (c.port j).shed) := fun l =>
    List.countP_mono_left (fun j _ hj => by
      rw [restorePort_shed] at hj
      exact (Bool.and_eq_true _ _ ▸ hj).2)
  obtain ⟨l1, l2, hl⟩ := List.append_of_mem (List.mem_range.mpr hn)
  have h1 := hle l1
  have h2 := hle l2
  rw [hl]
  simp only [List.countP_append, List.countP_cons, h, restorePort_shed n c n, decide_false, ne_eq, not_true_eq_false, Bool.false_and,
    if_true, Bool.false_eq_true, if_false]
  omega

/-- The port that is restored next is one that is shed. -/
theorem nextRestore_shed {c : Chip} {n : Nat} (h : c.nextRestore = some n) : n < 32 ∧ (c.port n).shed = true := by
  unfold Chip.nextRestore at h
  have hmem := List.mem_of_head? h
  rw [List.mem_filterMap] at hmem
  obtain ⟨p, -, hp⟩ := hmem
  have hfound := List.find?_some hp
  have hrange := List.mem_range.mp (List.mem_of_find?_eq_some hp)
  exact ⟨hrange, (Bool.and_eq_true _ _ ▸ hfound).1⟩

/-- A restore goes on until the next port no longer fits the limit. -/
theorem restoreLoop_stops (fuel : Nat) (c : Chip) (hfuel : c.shedCount ≤ fuel) {n : Nat}
    (h : (Chip.restoreLoop fuel c).nextRestore = some n) :
    vactLimit c.thermal.step < (Chip.restoreLoop fuel c).vactTotal + (Chip.restoreLoop fuel c).vactDraw n := by
  induction fuel generalizing c with
  | zero =>
    obtain ⟨hn, hshed⟩ := nextRestore_shed (c := c) h
    have := shedCount_restorePort hn hshed
    omega
  | succ fuel ih =>
    unfold Chip.restoreLoop at h ⊢
    split at h
    · next hnone => rw [hnone] at h; cases h
    · next m hm =>
      split at h
      · next hfits =>
        obtain ⟨hmlt, hmshed⟩ := nextRestore_shed hm
        have hless := shedCount_restorePort hmlt hmshed
        simp only [hfits, if_true]
        exact (restorePort_keeps (.refl _) m c (.refl c)).thermal ▸ ih (c.restorePort m) (by omega) h
      · next hfits =>
        obtain rfl : m = n := by rw [hm] at h; exact Option.some.inj h
        simp only [hfits, if_false]
        omega

theorem shedCount_le (c : Chip) : c.shedCount ≤ 32 := by
  unfold Chip.shedCount
  exact (List.countP_le_length).trans (by simp)

/-- The state in which the restore begins: the switch closed, every port that draws VACT current shed. -/
def Chip.vactClosed (c : Chip) : Chip :=
  { c with
    ports := (List.range 32).foldl (fun t n =>
      if c.usesVact n then Tbl.modify dPort t n (fun s => { s with shed := true }) else t) c.ports
    power := { c.power with vactShed := false, vactOpen := false, vactRetry := none } }

theorem vactBack_power (c : Chip) : c.vactBack.power = { c.power with vactShed := false, vactOpen := false, vactRetry := none } :=
  (restoreLoop_keeps (.refl _) 32 c.vactClosed (.refl _)).power

end Sys2Proof.Machine

namespace Sys2Proof
open Machine

/-- Settles O39: the rows by their conditions; the restore ends because each of its steps lowers the number of shed ports. -/
theorem suppliesAndShedding : Obligations.SuppliesAndShedding := by
  refine ⟨fun s v a peak ft ac => ⟨?porExit, ?porEntry, ?vsysLow, ?powerFail, ?vsysReturn, ?charged, ?fault, ?retry, ?unlatch,
    ?vactLow, ?vactShed, ?vactRestore, ?vactRestoreOpen, ?vactTrip, ?vactAgain, ?vsysMeasured, ?vactMeasured, ?idle⟩, fun c => ?_⟩
  case porExit =>
    intro hoff h
    obtain ⟨hpower, hmgt, hcmds⟩ := porExit_starts ft hoff h
    have hframe := porExit_keeps (.refl _) v a ft s.chip (.refl s.chip)
    refine ⟨_, Leads.of_eq rfl rfl, ?_, ?_, ?_, ?_, ?_, fun hv => ?_, fun hv => ?_, ?_, hmgt, hcmds, hframe.rtc, hframe.flash⟩
    · rw [hpower]; rfl
    · rw [hpower]
    · rw [hpower]
    · rw [hpower]
    · rw [hpower]; rfl
    · rw [hpower]; exact if_pos hv
    · rw [hpower]; exact if_neg (by omega)
    · rw [hpower]
  case porEntry =>
    intro hon hv ha
    obtain ⟨hpower, href, hcmds⟩ := porEntry_ends hon hv ha
    have hframe := porEntry_keeps (.refl _) v a s.chip (.refl s.chip)
    refine ⟨_, Leads.of_eq rfl rfl, ?_, ?_, ?_, ?_, ?_, ?_, href, hcmds, hframe.rtc, hframe.flash⟩
    · rw [hpower]
    · rw [hpower]
    · rw [hpower]
    · rw [hpower]
    · rw [hpower]
    · rw [hpower]
  case vsysLow => exact fun hon hv => Leads.of_eq rfl (if_neg (by simp [hon]; omega))
  case powerFail =>
    intro hon hv
    obtain ⟨hvsys, hinput, hhsw, -, -⟩ := vsysLoss_supply (s.chip.setPower (fun p => { p with
      vsysR := v, input := 0, hswRetry := none, hsw := if p.hsw == .latched then .latched else .off }))
    exact ⟨_, Leads.of_eq rfl (powerFail_loses hon hv), hvsys, hinput, rfl, rfl, fun h => hhsw.trans (if_neg (by simpa using h)),
      fun h => hhsw.trans (if_pos (by simp [h])), fun hruns => vsysLoss_resets hruns, vsysLoss_flash _⟩
  case vsysReturn =>
    intro hon hv hoff
    refine ⟨(s.chip.setPower (fun p => { p with vsysR := v })).startCharging,
      Leads.of_eq rfl ((if_neg (by simp [hon]; omega)).trans (if_pos (by simp [hoff]))), rfl, ?_, rfl, SamePlant.refl _⟩
    exact if_pos (show 6000 ≤ v by omega)
  case charged =>
    intro hon hcharging hv
    refine ⟨_, Leads.of_eq rfl (if_neg (by simp [hon, hcharging]; omega)), rfl, rfl, rfl, ?_, rfl, rfl, rfl, SamePlant.refl _⟩
    rcases ac with _ | _ | _
    · rfl
    · rfl
    · rfl
  case fault =>
    intro i kind hao h
    simp only [List.mem_cons, Prod.mk.injEq, List.not_mem_nil, or_false] at h
    obtain ⟨rfl, rfl, hsw⟩ | ⟨rfl, rfl, hsw⟩ | ⟨rfl, rfl, hsw⟩ | ⟨rfl, rfl, hsw⟩ := h
    · exact hswFault_leaves 0 peak (Leads.of_eq rfl (hswLimit_charging peak hao hsw)) (.inl hsw)
    · exact hswFault_leaves 1 peak (Leads.of_eq rfl (hswLimit_on peak hao hsw)) (.inr hsw)
    · exact hswFault_leaves 2 peak (Leads.of_eq rfl (hswFast_closed peak hao (.inl hsw))) (.inl hsw)
    · exact hswFault_leaves 2 peak (Leads.of_eq rfl (hswFast_closed peak hao (.inr hsw))) (.inr hsw)
  case retry =>
    intro d hao hretry hd
    have hwait := Chip.waitUntil_frame d s.chip
    have hpower := hwait.power
    have hrow := congrArg PowerSt.hswRow hpower
    have hplant := SamePlant.of_keeps hwait
    refine ⟨_, Leads.of_eq rfl (hswAgain_retries hao hretry hd), Chip.le_waitUntil _ d, fun hv => ?_, rfl, hrow, hplant⟩
    exact if_pos (by rw [hpower]; exact hv)
  case unlatch =>
    intro hao hlatched
    refine ⟨_, Leads.of_eq rfl (if_pos (by simp [hao, hlatched])), rfl, rfl, ?_, SamePlant.refl _⟩
    exact Nat.lt_succ_of_le (Nat.min_le_right _ 5999)
  case vactLow => exact fun hon ha => Leads.of_eq rfl (if_neg (by simp [hon]; omega))
  case vactShed => exact fun hon ha => Leads.of_eq rfl (if_neg (by simp [hon]; omega))
  case vactRestore =>
    exact fun hon ha hshed hopen => Leads.of_eq rfl ((if_neg (by simp [hon]; omega)).trans
      ((if_neg (by simp [hshed])).trans (if_neg (by simp [hopen]))))
  case vactRestoreOpen =>
    exact fun hon ha hshed hopen => Leads.of_eq rfl ((if_neg (by simp [hon]; omega)).trans
      ((if_neg (by simp [hshed])).trans (if_pos hopen)))
  case vactTrip => exact fun hon hopen => Leads.of_eq rfl (if_neg (by simp [hon, hopen]))
  case vactAgain =>
    intro d hon hd
    have hshed : (s.chip.waitUntil d).power.vactShed = s.chip.power.vactShed :=
      congrArg PowerSt.vactShed (Chip.waitUntil_frame d s.chip).power
    have hrow : s.chip.vactAgain = if (s.chip.waitUntil d).power.vactShed then
        (s.chip.waitUntil d).setPower (fun p => { p with vactOpen := false, vactRetry := none })
        else (s.chip.waitUntil d).vactBack := by
      unfold Chip.vactAgain
      rw [hd]
      exact if_neg (by simp [hon])
    exact ⟨fun h => Leads.of_eq rfl (hrow.trans (if_pos (hshed.trans h))),
      fun h => Leads.of_eq rfl (hrow.trans (if_neg (by rw [hshed, h]; exact Bool.false_ne_true)))⟩
  case vsysMeasured =>
    exact fun hon hv hhsw => Leads.of_eq rfl ((if_neg (by simp [hon]; omega)).trans (if_neg (by simpa using hhsw)))
  case vactMeasured =>
    exact fun hon ha hshed => Leads.of_eq rfl ((if_neg (by simp [hon]; omega)).trans (if_pos (by simp [hshed])))
  case idle =>
    intro i h
    rcases h with ⟨rfl, h⟩ | ⟨hoff, hi⟩ | ⟨rfl, h⟩ | ⟨rfl, h⟩ | ⟨rfl, h⟩ | ⟨rfl, h⟩ | ⟨rfl, h⟩ | ⟨rfl | rfl, h⟩ | ⟨rfl, h⟩ |
      ⟨rfl, h⟩ | ⟨rfl, h⟩ | ⟨rfl, h⟩ | ⟨rfl, h⟩ | ⟨rfl, h⟩ | ⟨rfl, h⟩
    · exact Leads.of_eq rfl (porExit_idle h)
    · simp only [List.mem_cons, List.not_mem_nil, or_false] at hi
      rcases hi with rfl | rfl | rfl | rfl | rfl | rfl | rfl | rfl | rfl | rfl | rfl | rfl | rfl | rfl
      · exact Leads.of_eq rfl (porEntry_idle (.inl hoff))
      · exact Leads.of_eq rfl (vsysLow_idle (.inl hoff))
      · exact Leads.of_eq rfl (powerFail_idle (.inl hoff))
      · exact Leads.of_eq rfl (vsysReturn_idle (.inl hoff))
      · exact Leads.of_eq rfl (charged_idle (.inl hoff))
      · exact Leads.of_eq rfl (hswLimit_idle (.inl hoff))
      · exact Leads.of_eq rfl (hswFast_idle (.inl hoff))
      · exact Leads.of_eq rfl (hswAgain_idle (.inl hoff))
      · exact Leads.of_eq rfl (hswUnlatch_idle (.inl hoff))
      · exact Leads.of_eq rfl (vactLow_idle (.inl hoff))
      · exact Leads.of_eq rfl (vactGone_idle (.inl hoff))
      · exact Leads.of_eq rfl (vactRestored_idle (.inl hoff))
      · exact Leads.of_eq rfl (vactTrip_idle (.inl hoff))
      · exact Leads.of_eq rfl (vactAgain_idle (.inl hoff))
    · exact Leads.of_eq rfl (porEntry_idle (.inr h))
    · exact Leads.of_eq rfl (vsysLow_idle (.inr h))
    · exact Leads.of_eq rfl (powerFail_idle (.inr h))
    · exact Leads.of_eq rfl (vsysReturn_idle (.inr h))
    · exact Leads.of_eq rfl (charged_idle (.inr h))
    · exact Leads.of_eq rfl (hswLimit_idle (.inr h))
    · exact Leads.of_eq rfl (hswFast_idle (.inr h))
    · exact Leads.of_eq rfl (hswAgain_idle (.inr h))
    · exact Leads.of_eq rfl (hswUnlatch_idle (.inr h))
    · exact Leads.of_eq rfl (vactLow_idle (.inr h))
    · exact Leads.of_eq rfl (vactGone_idle (.inr h))
    · exact Leads.of_eq rfl (vactRestored_idle (.inr h))
    · exact Leads.of_eq rfl (vactTrip_idle (.inr h))
    · exact Leads.of_eq rfl (vactAgain_idle (.inr h))
  have hshed := shedAll_keeps (.refl _) c (.refl c)
  have hback := vactBack_keeps (.refl _) c (.refl c)
  refine ⟨fun n hn hu => shedAll_shed c hn hu, hshed.slots, hshed.attrs, hshed.groups, hshed.flash, ?_, ?_, ?_, hback.slots,
    hback.attrs, hback.motors, hback.groups, fun n hn => ?_⟩
  · rw [vactBack_power]
  · rw [vactBack_power]
  · rw [vactBack_power]
  · exact restoreLoop_stops 32 c.vactClosed (shedCount_le _) hn

end Sys2Proof
end

section
-- One proof after another: side by side, the stacks of their threads reach the check's limit of memory.
set_option Elab.async false
/-! The reset sources, the halts of the timed islands and the reference monitor (spec/01, spec/06, spec/15). -/

namespace Sys2Proof.Machine

/-! ### What a reply leaves of the CAN controllers -/

/-- Of the controllers nothing but the frames of their queues has changed. -/
def QueuedOnly (c d : Chip) : Prop := ∀ m, d.canOf m = { c.canOf m with queued := (d.canOf m).queued }

theorem QueuedOnly.of_eq {c d : Chip} (h : d.can = c.can) : QueuedOnly c d := fun m => by
  unfold Chip.canOf
  rw [h]

theorem QueuedOnly.refl (c : Chip) : QueuedOnly c c := .of_eq rfl

theorem QueuedOnly.trans {a b c : Chip} (h : QueuedOnly a b) (h' : QueuedOnly b c) : QueuedOnly a c := fun m => by
  rw [h' m, h m]

theorem QueuedOnly.foldl {α : Type} {f : Chip → α → Chip} (hf : ∀ c a, QueuedOnly c (f c a)) (l : List α) (c : Chip) :
    QueuedOnly c (l.foldl f c) := by
  induction l generalizing c with
  | nil => exact .refl c
  | cons a l ih => exact (hf c a).trans (ih _)

theorem QueuedOnly.flight {c d : Chip} (h : QueuedOnly c d) (m : Nat) :
    (d.canOf m).flight = (c.canOf m).flight ∧ (d.canOf m).started = (c.canOf m).started := by
  rw [h m]
  exact ⟨rfl, rfl⟩

theorem forgetSends_queuedOnly (x t : Nat) (c : Chip) : QueuedOnly c (c.forgetSends x t) := fun m =>
  Tbl.get_map (fun a b : CanSt => b = { a with queued := b.queued }) dCan
    (fun e => (e.1, { e.2 with queued := e.2.queued.map (CanPend.forget x t) })) (fun _ => rfl) (fun _ => ⟨rfl, rfl⟩) c.can m

theorem finalReply_queuedOnly (k : Cmd) (st o : Nat) (data : List Byte) (c : Chip) : QueuedOnly c (c.finalReply k st o data) := by
  have hforget := (QueuedOnly.of_eq (c := c) (d := c.dropCmd k.ctx k.tag) rfl).trans (forgetSends_queuedOnly k.ctx k.tag _)
  unfold Chip.finalReply
  dsimp only
  split
  · exact hforget
  · exact hforget.trans (.of_eq (sendPacket_keeps (.refl _) _ _ _ (.refl _)).can)

theorem closeHostStreams_queuedOnly (x : Nat) (c : Chip) : QueuedOnly c (c.closeHostStreams x) := by
  unfold Chip.closeHostStreams
  dsimp only
  refine (QueuedOnly.of_eq (d := { c with streams := _ }) rfl).trans (QueuedOnly.foldl (fun d t => ?_) _ _)
  split
  · split
    · exact .refl _
    · exact finalReply_queuedOnly _ _ _ _ _
  · exact .refl _

theorem completeClosing_queuedOnly (x : Nat) (c : Chip) : QueuedOnly c (c.completeClosing x) := by
  have hend : QueuedOnly c (c.endSession x) := (closeHostStreams_queuedOnly x c).trans (.of_eq rfl)
  have hopen : ∀ (d : Chip) (k : Cmd), QueuedOnly d (d.openSession k).1 := fun d k => by
    unfold Chip.openSession
    dsimp only
    split
    · exact .refl d
    · exact .of_eq rfl
  unfold Chip.completeClosing
  split
  · exact .refl c
  · dsimp only
    split
    · exact hend.trans (finalReply_queuedOnly _ _ _ _ _)
    · exact (hend.trans (hopen _ _)).trans (finalReply_queuedOnly _ _ _ _ _)

theorem finish_queuedOnly (k : Cmd) (st o : Nat) (data : List Byte) (c : Chip) : QueuedOnly c (c.finish k st o data) :=
  (finalReply_queuedOnly k st o data c).trans (completeClosing_queuedOnly _ _)

theorem finishTag_queuedOnly (x t st o : Nat) (data : List Byte) (c : Chip) : QueuedOnly c (c.finishTag x t st o data) := by
  unfold Chip.finishTag
  split
  · exact finish_queuedOnly _ _ _ _ _
  · exact .refl c

/-! ### What a halted panel leaves of the CAN controllers -/

theorem fire_queuedOnly (e x : Nat) (c : Chip) : QueuedOnly c (c.fire e x) := .of_eq (Chip.fire_can _ _ _)

theorem modPanel_queuedOnly (d : Nat) (f : PanelSt → PanelSt) (c : Chip) : QueuedOnly c (c.modPanel d f) := .of_eq rfl

theorem endUpdate_queuedOnly (d o : Nat) (u : PlateUpdate) (c : Chip) : QueuedOnly c (c.endUpdate d o u) := by
  have hfire := (modPanel_queuedOnly d (fun s => { s with updates := s.updates.filter (fun x => x.num != u.num) }) c).trans
    (fire_queuedOnly (96 + 2 * d) (updateCause o u) _)
  unfold Chip.endUpdate
  dsimp only
  split
  · exact hfire.trans (finishTag_queuedOnly _ _ _ _ _ _)
  · exact hfire

theorem panelHalt_queuedOnly (d o : Nat) (r : Option Nat) (c : Chip) : QueuedOnly c (c.panelHalt d o r) := by
  have hrails : QueuedOnly c (c.railsFall d) := .of_eq (railsFall_keeps (.refl _) d c (.refl c)).can
  have hinterrupt : ∀ p : Chip, QueuedOnly p (p.interrupt d o) := fun p => by
    unfold Chip.interrupt
    exact (modPanel_queuedOnly _ _ _).trans (QueuedOnly.foldl (fun _ _ => endUpdate_queuedOnly _ _ _ _) _ _)
  have hpower : ∀ (p : Chip) (u : Bool) (st : Nat), QueuedOnly p (p.endPower d u st) := fun p u st => by
    unfold Chip.endPower
    split
    · split
      · exact (modPanel_queuedOnly _ _ _).trans (finishTag_queuedOnly _ _ _ _ _ _)
      · exact .refl p
    · exact .refl p
  have hall := (hrails.trans (hinterrupt _)).trans (hpower _ true (if o == 2 then stThermalLimit else stBusy))
  unfold Chip.panelHalt
  cases r with
  | some r => exact hall.trans (fire_queuedOnly _ _ _)
  | none => exact hall

/-! ### Halts of the groups -/

/-- A group runs as before, with the same settings in force, and no halt has come or gone. -/
def GroupSt.SameRun (g g' : GroupSt) : Prop := g'.state = g.state ∧ g'.active = g.active ∧ g'.haltKind = g.haltKind

theorem GroupSt.SameRun.of_eq {g g' : GroupSt} (h : g' = g) : g.SameRun g' := h ▸ ⟨rfl, rfl, rfl⟩

theorem GroupSt.SameRun.trans {a b c : GroupSt} (h : a.SameRun b) (h' : b.SameRun c) : a.SameRun c :=
  ⟨h'.1.trans h.1, h'.2.1.trans h.2.1, h'.2.2.trans h.2.2⟩

theorem orphan_sameRun (c : Chip) (k j : Nat) : (c.group j).SameRun ((c.orphan k).group j) := by
  by_cases hj : j = k
  · subst hj
    unfold Chip.orphan
    dsimp only
    split
    · rw [Chip.setGroup_same]
      exact ⟨rfl, rfl, rfl⟩
    · exact .of_eq rfl
  · exact .of_eq (orphan_group_other c hj)

theorem stopGroup_sameRun_other (c : Chip) (k codeBit : Nat) (st : GroupState) {j : Nat} (hj : j ≠ k) :
    (c.group j).SameRun ((c.stopGroup k codeBit st).group j) := by
  have hset : ∀ g : GroupSt, ((c.setGroup k g).group j) = c.group j := fun g => Chip.setGroup_other _ _ _ _ hj
  have horphan : ∀ g : GroupSt, (c.group j).SameRun (((c.setGroup k g).orphan (k + 1)).group j) := fun g =>
    hset g ▸ orphan_sameRun (c.setGroup k g) (k + 1) j
  unfold Chip.stopGroup
  dsimp only
  split
  · rw [stopMotors_group]
    split
    · exact horphan _
    · exact .of_eq (hset _)
  · split
    · exact horphan _
    · exact .of_eq (hset _)

/-- A halt of cause `n`: a group in RUN is halted as its HALT says; any other is as it was. -/
def GroupSt.Halted (n : Nat) (g g' : GroupSt) : Prop :=
  (g.state = .run → g'.haltKind = n ∧ g'.state = if g.active.halt = 1 then .safe else .frozen) ∧
    (g.state ≠ .run → g'.state = g.state)

theorem haltGroup_idle {c : Chip} {k : Nat} (n : Nat) (h : (c.group k).state ≠ .run) : c.haltGroup k n = c := by
  unfold Chip.haltGroup
  exact if_pos (by simpa using h)

theorem haltGroup_same (c : Chip) (k n : Nat) : (c.group k).Halted n ((c.haltGroup k n).group k) := by
  by_cases hrun : (c.group k).state = .run
  · refine ⟨fun _ => ?_, fun h => absurd hrun h⟩
    unfold Chip.haltGroup
    dsimp only
    rw [if_neg (by simp [hrun])]
    by_cases hsafe : (c.group k).active.halt = 1
    · rw [if_pos (by simp [hsafe]), Chip.setGroup_same, if_pos hsafe]
      exact ⟨rfl, (stopGroup_group c k 11 .safe).1⟩
    · rw [if_neg (by simp [hsafe]), orphan_group_other _ (by omega), Chip.setGroup_same, if_neg hsafe]
      exact ⟨rfl, rfl⟩
  · rw [haltGroup_idle n hrun]
    exact ⟨fun h => absurd h hrun, fun _ => rfl⟩

theorem haltGroup_other (c : Chip) (k n : Nat) {j : Nat} (hj : j ≠ k) : (c.group j).SameRun ((c.haltGroup k n).group j) := by
  unfold Chip.haltGroup
  dsimp only
  split
  · exact .of_eq rfl
  · split
    · rw [Chip.setGroup_other _ _ _ _ hj]
      exact stopGroup_sameRun_other c k 11 .safe hj
    · have hset : ∀ g : GroupSt, ((c.setGroup k g).group j) = c.group j := fun g => Chip.setGroup_other _ _ _ _ hj
      exact (GroupSt.SameRun.of_eq (hset _)).trans (orphan_sameRun _ (k + 1) j)

theorem GroupSt.Halted.of_sameRun {n : Nat} {g g' g'' : GroupSt} (h : g.SameRun g') (h' : g'.Halted n g'') : g.Halted n g'' := by
  obtain ⟨hstate, hactive, -⟩ := h
  unfold GroupSt.Halted at h' ⊢
  rwa [hstate, hactive] at h'

theorem GroupSt.Halted.sameRun {n : Nat} {g g' g'' : GroupSt} (h : g.Halted n g') (h' : g'.SameRun g'') : g.Halted n g'' :=
  ⟨fun hr => ⟨h'.2.2.trans (h.1 hr).1, h'.1.trans (h.1 hr).2⟩, fun hr => h'.1.trans (h.2 hr)⟩

theorem foldl_haltGroup (n : Nat) (l : List Nat) (hl : l.Nodup) (c : Chip) (j : Nat) :
    (j ∈ l → (c.group j).Halted n ((l.foldl (fun x k => x.haltGroup k n) c).group j)) ∧
      (j ∉ l → (c.group j).SameRun ((l.foldl (fun x k => x.haltGroup k n) c).group j)) := by
  induction l generalizing c with
  | nil => exact ⟨fun h => absurd h List.not_mem_nil, fun _ => .of_eq rfl⟩
  | cons k l ih =>
    obtain ⟨hk, hl⟩ := List.nodup_cons.mp hl
    obtain ⟨hin, hout⟩ := ih hl (c.haltGroup k n)
    refine ⟨fun h => ?_, fun h => ?_⟩
    · by_cases hj : j = k
      · subst hj
        exact (haltGroup_same c j n).sameRun (hout hk)
      · exact .of_sameRun (haltGroup_other c k n hj) (hin ((List.mem_cons.mp h).resolve_left hj))
    · rw [List.mem_cons, not_or] at h
      exact (haltGroup_other c k n h.1).trans (hout h.2)

theorem haltGroups_group (c : Chip) (n k : Nat) :
    (k < 8 → (c.group k).Halted n ((c.haltGroups n).group k)) ∧ (8 ≤ k → (c.group k).SameRun ((c.haltGroups n).group k)) := by
  obtain ⟨hin, hout⟩ := foldl_haltGroup n (List.range 8) List.nodup_range c k
  exact ⟨fun h => hin (List.mem_range.mpr h), fun h => hout (by rw [List.mem_range]; omega)⟩

/-- No group that does not run changes its state under a halt. -/
theorem haltGroups_state {c : Chip} {k : Nat} (n : Nat) (h : (c.group k).state ≠ .run) :
    ((c.haltGroups n).group k).state = (c.group k).state := by
  obtain ⟨hlow, hhigh⟩ := haltGroups_group c n k
  by_cases hk : k < 8
  · exact (hlow hk).2 h
  · exact (hhigh (by omega)).1

/-- The end of a debug halt: a group that it halted is disabled, any other stays. -/
theorem foldl_release (l : List Nat) (hl : l.Nodup) (c : Chip) (j : Nat) :
    (j ∈ l → (c.group j).haltKind = 1 →
      ((l.foldl (fun x k => if (x.group k).haltKind == 1 then x.stopGroup k 10 .disabled else x) c).group j).state = .disabled) ∧
    (j ∉ l ∨ (c.group j).haltKind ≠ 1 →
      ((l.foldl (fun x k => if (x.group k).haltKind == 1 then x.stopGroup k 10 .disabled else x) c).group j).state =
        (c.group j).state) := by
  induction l generalizing c with
  | nil => exact ⟨fun h => absurd h List.not_mem_nil, fun _ => rfl⟩
  | cons k l ih =>
    obtain ⟨hk, hl⟩ := List.nodup_cons.mp hl
    obtain ⟨hin, hout⟩ := ih hl (if (c.group k).haltKind == 1 then c.stopGroup k 10 .disabled else c)
    have hother : ∀ i, i ≠ k → (c.group i).SameRun
        ((if (c.group k).haltKind == 1 then c.stopGroup k 10 .disabled else c).group i) := fun i hi => by
      split
      · exact stopGroup_sameRun_other c k 10 .disabled hi
      · exact .of_eq rfl
    refine ⟨fun h hkind => ?_, fun h => ?_⟩
    · by_cases hj : j = k
      · subst hj
        refine (hout (.inl hk)).trans ?_
        rw [if_pos (by simp [hkind])]
        exact (stopGroup_group c j 10 .disabled).1
      · exact hin ((List.mem_cons.mp h).resolve_left hj) ((hother j hj).2.2.trans hkind)
    · by_cases hj : j = k
      · subst hj
        have hkind : (c.group j).haltKind ≠ 1 := h.resolve_left (by simp)
        refine (hout (.inl hk)).trans ?_
        rw [if_neg (by simpa using hkind)]
      · refine (hout ?_).trans (hother j hj).1
        rcases h with h | h
        · exact .inl (fun hmem => h (List.mem_cons_of_mem _ hmem))
        · exact .inr (by rwa [(hother j hj).2.2])

theorem releaseGroups_state (c : Chip) (k : Nat) :
    (k < 8 → (c.group k).haltKind = 1 → (c.releaseGroups.group k).state = .disabled) ∧
      ((c.group k).haltKind ≠ 1 → (c.releaseGroups.group k).state = (c.group k).state) := by
  obtain ⟨hin, hout⟩ := foldl_release (List.range 8) List.nodup_range c k
  exact ⟨fun h => hin (List.mem_range.mpr h), fun h => hout (.inr h)⟩

/-! ### The debugger -/

theorem haltIslands_idle {c : Chip} (h : c.power.main.up = false ∨ c.power.debugHalt = true) : c.haltIslands = c :=
  if_pos (by simpa using h)

/-- Each panel of a list is halted where a condition holds. -/
def Chip.haltPanels (o : Nat) (r : Option Nat) (skip : Chip → Nat → Bool) (l : List Nat) (c : Chip) : Chip :=
  l.foldl (fun c d => if skip c d then c else c.panelHalt d o r) c

theorem haltPanels_group (o : Nat) (r : Option Nat) (skip : Chip → Nat → Bool) (l : List Nat) (c : Chip) (k : Nat) :
    (c.haltPanels o r skip l).group k = c.group k := by
  unfold Chip.haltPanels
  induction l generalizing c with
  | nil => rfl
  | cons d l ih =>
    refine (ih _).trans ?_
    dsimp only
    split
    · rfl
    · exact (panelHalt_keeps (.refl _) d o r c (.refl c)).group_eq rfl k

theorem haltPanels_queuedOnly (o : Nat) (r : Option Nat) (skip : Chip → Nat → Bool) (l : List Nat) (c : Chip) :
    QueuedOnly c (c.haltPanels o r skip l) := by
  refine QueuedOnly.foldl (fun d n => ?_) l c
  split
  · exact .refl d
  · exact panelHalt_queuedOnly _ _ _ _

theorem haltPanels_refRun (o : Nat) (r : Option Nat) (skip : Chip → Nat → Bool) (l : List Nat) (c : Chip) :
    (c.haltPanels o r skip l).clk = c.clk := by
  unfold Chip.haltPanels
  induction l generalizing c with
  | nil => rfl
  | cons d l ih =>
    refine (ih _).trans ?_
    dsimp only
    split
    · rfl
    · exact (panelHalt_keeps (.refl _) d o r c (.refl c)).clk

theorem haltIslands_group {c : Chip} (hup : c.power.main.up = true) (hrun : c.power.debugHalt = false) (k : Nat) :
    c.haltIslands.group k = ((c.setPower (fun p => { p with debugHalt := true })).haltGroups 1).group k := by
  unfold Chip.haltIslands
  rw [if_neg (by simp [hup, hrun])]
  exact haltPanels_group 3 none (fun _ _ => false) _ _ k

/-- A debugger's reset of a main side that does not run changes at most the cause. -/
theorem mainReset_noted {c : Chip} (b dog : Nat) (h : c.mainRuns = false) :
    ∃ x, c.mainReset b dog = c.setPower (fun p => { p with resetCause := x }) := by
  unfold Chip.mainReset
  rw [if_neg (by simp [h])]
  split
  · refine ⟨BitVec.ofNat 32 (causeAfter c.power.resetCause.toNat b dog true), ?_⟩
    dsimp only [Chip.noteCause, Chip.setPower]
  · exact ⟨c.power.resetCause, rfl⟩

/-! ### The reference monitor -/

/-- The frames in flight of the controllers of a list end. -/
def Chip.dropFlights (l : List Nat) (c : Chip) : Chip :=
  l.foldl (fun c m => if (c.canOf m).started then c.modCan m (fun s => { s with flight := none }) else c) c

theorem dropFlights_frame (l : List Nat) (c : Chip) : Keeps Field.can c (c.dropFlights l) := by
  unfold Chip.dropFlights
  refine foldl_keeps (fun d m => ?_) (.refl c)
  split
  · exact modCan_keeps (.refl _) m _ d (.refl d)
  · exact .refl d

theorem dropFlights_flight (l : List Nat) (c : Chip) (j : Nat) : ((c.dropFlights l).canOf j).started = (c.canOf j).started ∧
    (j ∈ l ∨ (c.canOf j).flight = none → ((c.dropFlights l).canOf j).started = true →
      ((c.dropFlights l).canOf j).flight = none) := by
  induction l generalizing c with
  | nil => exact ⟨rfl, fun h _ => h.resolve_left List.not_mem_nil⟩
  | cons m l ih =>
    obtain ⟨ihstarted, ihflight⟩ := ih (if (c.canOf m).started then c.modCan m (fun s => { s with flight := none }) else c)
    have hstep : ∀ d : Chip, d = (if (c.canOf m).started then c.modCan m (fun s => { s with flight := none }) else c) →
        (d.canOf j).started = (c.canOf j).started ∧ ((d.canOf j).started = true → j = m ∨ (c.canOf j).flight = none →
          (d.canOf j).flight = none) := by
      rintro d rfl
      split
      · by_cases hj : j = m
        · subst hj
          rw [Chip.modCan_same]
          exact ⟨rfl, fun _ _ => rfl⟩
        · rw [Chip.modCan_other _ _ hj]
          exact ⟨rfl, fun _ h => h.resolve_left hj⟩
      · next hoff =>
        refine ⟨rfl, fun hs h => h.resolve_left ?_⟩
        rintro rfl
        exact hoff hs
    obtain ⟨hstarted, hflight⟩ := hstep _ rfl
    refine ⟨ihstarted.trans hstarted, fun h hs => ?_⟩
    by_cases hl : j ∈ l
    · exact ihflight (.inl hl) hs
    · refine ihflight (.inr (hflight (ihstarted ▸ hs) ?_)) hs
      rcases h with h | h
      · exact .inl ((List.mem_cons.mp h).resolve_right hl)
      · exact .inr h

/-- The reference is stopped, its groups are halted, and every frame in flight ends. -/
def Chip.refHalted (c : Chip) : Chip :=
  (({ c with clk := { c.clk with refRun := false }, power := { c.power with refHeld := true } } : Chip).haltGroups 2).dropFlights
    (List.range (canCount c.fuses.variant))

/-- The links go down, the panels halt, and the reference's dog bites. -/
def Chip.refStopped (c : Chip) : Chip :=
  (c.refHalted.linksDown.haltPanels 3 (some 3) (fun c d => (c.panel d).rails == .off && (c.panel d).updates.isEmpty)
    (List.range (panelCount c.fuses.variant))).bite 21

theorem refStop_stops {c : Chip} (hao : c.power.aoOn = true) (hrun : c.clk.refRun = true) :
    c.refStop = c.refStopped.fire 116 c.runningGroups := by
  unfold Chip.refStop
  exact if_neg (by simp [hao, hrun])

theorem refStop_idle {c : Chip} (h : c.power.aoOn = false ∨ c.clk.refRun = false) : c.refStop = c := if_pos (by simpa using h)

theorem refAgain_idle {c : Chip} (h : c.power.aoOn = false ∨ c.clk.refRun = true ∨ c.power.hsw ≠ .on) : c.refAgain = c :=
  if_pos (by simpa [or_assoc] using h)

theorem refStopped_group (c : Chip) (k : Nat) : c.refStopped.group k = c.refHalted.group k :=
  (haltPanels_group _ _ _ _ _ k).trans ((linksDown_keeps (.refl _) c.refHalted (.refl _)).group_eq rfl k)

theorem refHalted_refRun (c : Chip) : c.refHalted.clk.refRun = false := by
  have hdrop := (dropFlights_frame (List.range (canCount c.fuses.variant))
    (({ c with clk := { c.clk with refRun := false }, power := { c.power with refHeld := true } } : Chip).haltGroups 2)).clk
  have hhalt := (haltGroups_keeps (.refl _) 2
    { c with clk := { c.clk with refRun := false }, power := { c.power with refHeld := true } } (.refl _)).clk
  exact congrArg Clocks.refRun (hdrop.trans hhalt)

theorem refStopped_refRun (c : Chip) : c.refStopped.clk.refRun = false := by
  have hlinks := (linksDown_keeps (.refl _) c.refHalted (.refl _)).clk
  exact (congrArg Clocks.refRun ((haltPanels_refRun _ _ _ _ _).trans hlinks)).trans (refHalted_refRun c)

theorem refStopped_flight {c : Chip} {m : Nat} (hm : m < canCount c.fuses.variant) (hs : (c.refStopped.canOf m).started = true) :
    (c.refStopped.canOf m).flight = none := by
  have hafter : QueuedOnly c.refHalted c.refStopped :=
    (QueuedOnly.of_eq (linksDown_keeps (.refl _) c.refHalted (.refl _)).can).trans
      ((haltPanels_queuedOnly _ _ _ _ _).trans (.of_eq rfl))
  obtain ⟨hflight, hstarted⟩ := hafter.flight m
  rw [hflight]
  exact (dropFlights_flight _ _ m).2 (.inl (List.mem_range.mpr hm)) (hstarted ▸ hs)

theorem refHalted_group (c : Chip) (k : Nat) : c.refHalted.group k =
    (({ c with clk := { c.clk with refRun := false }, power := { c.power with refHeld := true } } : Chip).haltGroups 2).group k :=
  (dropFlights_frame _ _).group_eq rfl k

end Sys2Proof.Machine

namespace Sys2Proof
open Machine

/-- Settles O40. -/
theorem resetsAndHaltsAct : Obligations.ResetsAndHaltsAct := by
  intro s
  refine ⟨Leads.of_eq rfl rfl, ?hreset, ?hresetRelease, ?off, ?debugReset, ?debugCause, ?haltIdle, ?releaseIdle, ?stopIdle, ?restartIdle,
    ?halt, ?release, ?stop, ?restart⟩
  case hreset =>
    intro hao
    refine ⟨_, Leads.of_eq rfl (if_neg (by simp [hao])), ?_, mainReset_flash 2 0, mainReset_slots 2 0, fun hruns => ?_⟩
    · by_cases hruns : (s.chip.setPower (fun p => { p with hresetLow := true })).mainRuns = true
      · rw [mainReset_power 2 0 hruns]
        rfl
      · obtain ⟨x, hx⟩ := mainReset_noted 2 0 (Bool.eq_false_iff.mpr hruns)
        rw [hx]
        rfl
    · have hruns' : (s.chip.setPower (fun p => { p with hresetLow := true })).mainRuns = true := hruns
      obtain ⟨hmain, hcause, -⟩ := mainReset_source 2 0 hruns' (by decide)
      refine ⟨hmain, hcause, mainReset_cmds 2 0 hruns', mainReset_ring 2 0 hruns', ?_⟩
      rw [mainReset_power 2 0 hruns']
      rfl
  case hresetRelease => exact fun hao => Leads.of_eq rfl (if_neg (by simp [hao]))
  case off =>
    exact fun hao => ⟨Leads.of_eq rfl (if_pos (by simp [hao])), Leads.of_eq rfl (if_pos (by simp [hao])),
      Leads.of_eq rfl (refStop_idle (.inl hao)), Leads.of_eq rfl (refAgain_idle (.inl hao))⟩
  case debugReset =>
    intro hruns
    obtain ⟨hmain, hcause, -⟩ := mainReset_source 7 0 hruns (by decide)
    exact ⟨_, Leads.of_eq rfl rfl, hmain, hcause, mainReset_cmds 7 0 hruns, mainReset_ring 7 0 hruns, mainReset_hold hruns 7 0,
      mainReset_slots 7 0, mainReset_flash 7 0⟩
  case debugCause =>
    intro hruns
    obtain ⟨x, hx⟩ := mainReset_noted 7 0 hruns
    exact ⟨x, Leads.of_eq rfl hx⟩
  case haltIdle => exact fun h => Leads.of_eq rfl (haltIslands_idle h)
  case releaseIdle => exact fun h => Leads.of_eq rfl (if_neg (by simp [h]))
  case stopIdle => exact fun h => Leads.of_eq rfl (refStop_idle (.inr h))
  case restartIdle => exact fun h => Leads.of_eq rfl (refAgain_idle (.inr h))
  case halt =>
    intro hup hrun
    have hframe := haltIslands_keeps (.refl _) s.chip (.refl s.chip)
    refine ⟨_, Leads.of_eq rfl rfl, fun k hk hstate => ?_, fun k hstate => ?_, hframe.attrs, hframe.flash⟩
    · rw [haltIslands_group hup hrun]
      exact ((haltGroups_group (s.chip.setPower (fun p => { p with debugHalt := true })) 1 k).1 hk).1 hstate
    · rw [haltIslands_group hup hrun]
      exact haltGroups_state (c := s.chip.setPower (fun p => { p with debugHalt := true })) 1 hstate
  case release =>
    intro hhalt
    have hframe := unhaltIslands_keeps (.refl _) s.chip (.refl s.chip)
    have hrow : s.chip.unhaltIslands = (s.chip.setPower (fun p => { p with debugHalt := false })).releaseGroups := if_pos hhalt
    obtain hgroups := releaseGroups_state (s.chip.setPower (fun p => { p with debugHalt := false }))
    rw [hrow] at hframe
    exact ⟨_, Leads.of_eq rfl hrow, fun k hk hkind => (hgroups k).1 hk hkind, fun k hkind => (hgroups k).2 hkind, hframe.attrs⟩
  case stop =>
    intro hao hrun
    have hframe := refStop_keeps (.refl _) s.chip (.refl s.chip)
    rw [refStop_stops hao hrun] at hframe
    refine ⟨_, Leads.of_eq rfl (refStop_stops hao hrun), refStopped_refRun s.chip, fun k hk hstate => ?_,
      fun m hm hs => refStopped_flight hm hs, (Chip.fire_attrs ..).symm.trans hframe.attrs⟩
    rw [refStopped_group, refHalted_group]
    exact ((haltGroups_group { s.chip with
      clk := { s.chip.clk with refRun := false }, power := { s.chip.power with refHeld := true } } 2 k).1 hk).1 hstate
  case restart => exact fun hao hrun hsw => Leads.of_eq rfl (if_neg (by simp [hao, hrun, hsw]))

end Sys2Proof
end

section
-- One proof after another: side by side, the stacks of their threads reach the check's limit of memory.
set_option Elab.async false
/-! The boot and its choice of a bank (spec/15, spec/17). -/

namespace Sys2Proof.Machine

/-! ### The choice of a bank -/

/-- The bank that MGT_BOOT or the straps name. -/
def Chip.forcedBank (c : Chip) : Option Bool :=
  if c.mgt.bootOvr then some c.mgt.bootBank else if c.power.boot1 then some c.power.boot0 else none

/-- Has the bank on trial used up its tries? -/
def Chip.rollsBack (c : Chip) : Bool := c.forcedBank.isNone && c.firmware.ptr.trial && c.firmware.ptr.tries == 0

theorem forcedBank_of_named {c : Chip} {w : Bool} (h : (c.mgt.bootOvr = true ∧ w = c.mgt.bootBank) ∨
    (c.mgt.bootOvr = false ∧ c.power.boot1 = true ∧ w = c.power.boot0)) : c.forcedBank = some w := by
  rcases h with ⟨hovr, rfl⟩ | ⟨hovr, hstrap, rfl⟩
  · exact if_pos hovr
  · exact (if_neg (by simp [hovr])).trans (if_pos hstrap)

theorem forcedBank_none {c : Chip} (hovr : c.mgt.bootOvr = false) (hstrap : c.power.boot1 = false) : c.forcedBank = none :=
  (if_neg (by simp [hovr])).trans (if_neg (by simp [hstrap]))

theorem chooseBank_eq (c : Chip) : c.chooseBank =
    let f := c.firmware
    let ptr := if c.rollsBack then { f.ptr with bank := !f.ptr.bank, trial := false, tries := 0 } else f.ptr
    let want := c.forcedBank.getD ptr.bank
    let rollLog := if c.rollsBack then [(5, b2n f.ptr.bank)] else []
    if c.bankOk want then
      ⟨some want, if c.forcedBank.isNone && ptr.trial then { ptr with tries := ptr.tries - 1 } else ptr, c.rollsBack,
        if c.rollsBack then some 2 else none, rollLog⟩
    else if c.bankOk (!want) then
      ⟨some (!want), ptr, true, some (if f.ptr.incomplete want then 3 else 1), rollLog ++ [(4, b2n (!want))]⟩
    else ⟨none, ptr, false, none, rollLog⟩ := rfl

/-- A bank that is named boots where it verifies, and the other where it does not; the pointer stays. -/
theorem chooseBank_named {c : Chip} {w : Bool} (h : c.forcedBank = some w) :
    (c.bankOk w = true → c.chooseBank = ⟨some w, c.firmware.ptr, false, none, []⟩) ∧
      (c.bankOk w = false → c.bankOk (!w) = true → c.chooseBank.bank = some (!w) ∧ c.chooseBank.fallback = true ∧
        c.chooseBank.ptr = c.firmware.ptr) := by
  have hroll : c.rollsBack = false := by simp [Chip.rollsBack, h]
  rw [chooseBank_eq]
  simp only [hroll, h, Bool.false_eq_true, if_false, Option.getD_some, Option.isNone_some, Bool.false_and]
  refine ⟨fun hok => if_pos hok, fun hbad hok => ?_⟩
  rw [if_neg (by simp [hbad]), if_pos hok]
  exact ⟨rfl, rfl, rfl⟩

/-- The bank of the pointer, not on trial or with a try left. -/
theorem chooseBank_pointer {c : Chip} (h : c.forcedBank = none) (hok : c.bankOk c.firmware.ptr.bank = true) :
    (c.firmware.ptr.trial = false → c.chooseBank = ⟨some c.firmware.ptr.bank, c.firmware.ptr, false, none, []⟩) ∧
      (c.firmware.ptr.trial = true → 0 < c.firmware.ptr.tries →
        c.chooseBank = ⟨some c.firmware.ptr.bank, { c.firmware.ptr with tries := c.firmware.ptr.tries - 1 }, false, none, []⟩) := by
  have hkeep : ∀ hroll : c.rollsBack = false, c.chooseBank = ⟨some c.firmware.ptr.bank,
      if c.firmware.ptr.trial then { c.firmware.ptr with tries := c.firmware.ptr.tries - 1 } else c.firmware.ptr, false, none, []⟩ := by
    intro hroll
    rw [chooseBank_eq]
    simp only [hroll, h, Bool.false_eq_true, if_false, Option.getD_none, Option.isNone_none, Bool.true_and]
    exact if_pos hok
  refine ⟨fun htrial => ?_, fun htrial htries => ?_⟩
  · rw [hkeep (by simp [Chip.rollsBack, htrial]), if_neg (by simp [htrial])]
  · rw [hkeep (by simp [Chip.rollsBack, Nat.pos_iff_ne_zero.mp htries]), if_pos htrial]

/-- A trial bank without tries gives way to the other. -/
theorem chooseBank_rolled {c : Chip} (h : c.forcedBank = none) (htrial : c.firmware.ptr.trial = true)
    (htries : c.firmware.ptr.tries = 0) (hok : c.bankOk (!c.firmware.ptr.bank) = true) :
    c.chooseBank.bank = some (!c.firmware.ptr.bank) ∧ c.chooseBank.ptr.bank = (!c.firmware.ptr.bank) ∧
      c.chooseBank.ptr.trial = false ∧ c.chooseBank.reason = some 2 := by
  have hroll : c.rollsBack = true := by simp [Chip.rollsBack, h, htrial, htries]
  rw [chooseBank_eq]
  simp [hroll, h, hok]

theorem chooseBank_none {c : Chip} (ha : c.bankOk false = false) (hb : c.bankOk true = false) : c.chooseBank.bank = none := by
  have hbad : ∀ w, ¬c.bankOk w = true := fun w => by cases w <;> simp [ha, hb]
  rw [chooseBank_eq]
  dsimp only
  rw [if_neg (hbad _), if_neg (hbad _)]

/-- The choice sees the release of the main side only in the straps. -/
theorem chooseBank_congr {c d : Chip} (hfirmware : d.firmware = c.firmware) (himage : d.image = c.image) (hmgt : d.mgt = c.mgt)
    (hboot0 : d.power.boot0 = c.power.boot0) (hboot1 : d.power.boot1 = c.power.boot1) : d.chooseBank = c.chooseBank := by
  have hok : ∀ w, d.bankOk w = c.bankOk w := fun w => by
    unfold Chip.bankOk Chip.flashBad
    rw [hfirmware, himage]
  have hforced : d.forcedBank = c.forcedBank := by
    unfold Chip.forcedBank
    rw [hmgt, hboot0, hboot1]
  have hroll : d.rollsBack = c.rollsBack := by
    unfold Chip.rollsBack
    rw [hforced, hfirmware]
  rw [chooseBank_eq, chooseBank_eq]
  simp only [hok, hforced, hroll, hfirmware]

/-! ### BOOT_DONE -/

/-- The fields of E124's CAUSE that do not overlap. -/
theorem bootCause_bits (bank a fallback noImage p q r l : Bool) (w t : Nat) (x : Nat)
    (hx : x = b2n bank + 2 * b2n a + 4 * b2n fallback + 8 * b2n noImage + 16 * b2n p + 32 * b2n q + 64 * b2n r + 128 * b2n l
      + 256 * bits w 8 4 + 65536 * min 65535 t) :
    bit x 0 = bank ∧ bit x 2 = fallback ∧ bit x 3 = noImage ∧ x / 65536 = min 65535 t := by
  have hle : ∀ b, b2n b ≤ 1 := fun b => by cases b <;> decide
  have hw : bits w 8 4 < 16 := Nat.mod_lt _ (by decide)
  have hbit : ∀ n b, n % 2 = b2n b → (n % 2 == 1) = b := fun n b h => by rw [h]; cases b <;> rfl
  have := hle bank; have := hle a; have := hle fallback; have := hle noImage
  have := hle p; have := hle q; have := hle r; have := hle l
  refine ⟨hbit _ _ ?_, hbit _ _ ?_, hbit _ _ ?_, ?_⟩
  · omega
  · omega
  · omega
  · omega

theorem bootDone_fires (b : BankChoice) (noImage imageFail imageFallback : Bool) (time : Nat) (c : Chip) : ∃ (d : Chip) (x : Nat),
    c.bootDone b noImage imageFail imageFallback time = d.fire 124 x ∧ bit x 0 = b.bank.getD b.ptr.bank ∧ bit x 2 = b.fallback ∧
      bit x 3 = noImage ∧ x / 65536 = min 65535 time :=
  ⟨_, _, rfl, bootCause_bits _ _ _ _ _ _ _ _ _ _ _ rfl⟩

/-- Every boot ends with BOOT_DONE. -/
theorem boot_ends (vbat time : Nat) (boot0 boot1 : Bool) (c : Chip) : ∃ (d : Chip) (imageFail imageFallback : Bool),
    c.boot vbat time boot0 boot1 = d.bootDone (c.setPower (fun p => { p with boot0 := boot0, boot1 := boot1 })).chooseBank
      (c.mgt.bootNoImage || (boot0 && !boot1)) imageFail imageFallback time := by
  have hframe : Keeps (Field.clk ||| Field.power ||| Field.dogs ||| Field.rtc) c
      (c.released.waitUntil (c.released.dogs.release.getD 0 + ms time)) :=
    waitUntil_keeps (.of rfl) _ _ (released_keeps (.refl _) c (.refl c))
  have hchoice : ((c.released.waitUntil (c.released.dogs.release.getD 0 + ms time)).setPower
      (fun p => { p with boot0 := boot0, boot1 := boot1 })).chooseBank =
      (c.setPower (fun p => { p with boot0 := boot0, boot1 := boot1 })).chooseBank :=
    chooseBank_congr hframe.firmware hframe.image hframe.mgt rfl rfl
  have hno : (c.released.waitUntil (c.released.dogs.release.getD 0 + ms time)).mgt.bootNoImage = c.mgt.bootNoImage := by
    rw [hframe.mgt]
  unfold Chip.boot
  extract_lets rel c0 noImage b cb c1 c2 done c3 r c4
  have hb : b = (c.setPower (fun p => { p with boot0 := boot0, boot1 := boot1 })).chooseBank := hchoice
  have hnoImage : noImage = (c.mgt.bootNoImage || (boot0 && !boot1)) := congrArg (· || (boot0 && !boot1)) hno
  rw [← hb, ← hnoImage]
  split
  · exact ⟨_, _, _, rfl⟩
  · split
    · exact ⟨_, _, _, rfl⟩
    · split
      · exact ⟨_, _, _, rfl⟩
      · exact ⟨_, _, _, rfl⟩

end Sys2Proof.Machine

namespace Sys2Proof
open Machine

/-- Settles O41. -/
theorem bootChoosesABank : Obligations.BootChoosesABank := by
  intro s vbat time boot0 boot1
  refine ⟨fun h => ?boots, fun hmain hrelease => ?idle, fun c w h => chooseBank_named (forcedBank_of_named h),
    fun c hovr hstrap => ?pointer, fun c => chooseBank_none⟩
  case boots =>
    have hrow : s.chip.bootRow vbat time boot0 boot1 = s.chip.boot vbat time boot0 boot1 :=
      if_pos (by rcases h with h | h <;> simp [h])
    obtain ⟨d, imageFail, imageFallback, hboot⟩ := boot_ends vbat time boot0 boot1 s.chip
    obtain ⟨c, x, hfire, hbank, hfallback, hno, htime⟩ := bootDone_fires
      (s.chip.setPower (fun p => { p with boot0 := boot0, boot1 := boot1 })).chooseBank
      (s.chip.mgt.bootNoImage || (boot0 && !boot1)) imageFail imageFallback time d
    exact ⟨_, c, x, rfl, Leads.of_eq rfl (hrow.trans (hboot.trans hfire)), hbank, hfallback, hno, htime⟩
  case idle => exact Leads.of_eq rfl (if_neg (by simp [hmain, hrelease]))
  case pointer =>
    have hforced := forcedBank_none hovr hstrap
    exact ⟨fun htrial hok => (chooseBank_pointer hforced hok).1 htrial,
      fun htrial htries hok => (chooseBank_pointer hforced hok).2 htrial htries,
      fun htrial htries hok => chooseBank_rolled hforced htrial htries hok⟩

end Sys2Proof
end

section
-- One proof after another: side by side, the stacks of their threads reach the check's limit of memory.
set_option Elab.async false
/-! The PWM groups and trips in time (spec/06): boundaries, synchronisation, delay lines, holds and over-current trips. -/

namespace Sys2Proof.Machine

/-! ### Boundaries -/

theorem checkLatch_group (n : Nat) (c : Chip) (j : Nat) : (c.checkLatch n).group j = c.group j :=
  (checkLatch_keeps (.refl _) n c (.refl c)).group_eq rfl j

theorem foldl_checkLatch_group (l : List Nat) (c : Chip) (j : Nat) :
    (l.foldl (fun x p => x.checkLatch p) c).group j = c.group j := by
  induction l generalizing c with
  | nil => rfl
  | cons n l ih => exact (ih _).trans (checkLatch_group n c j)

theorem groupTrigger_group (k t : Nat) (c : Chip) (j : Nat) : (c.groupTrigger k t).group j = c.group j := rfl

theorem pulseTo_group_other {k j : Nat} (t : Nat) (c : Chip) (hj : j ≠ k) : (c.pulseTo k t).group j = c.group j := by
  unfold Chip.pulseTo
  dsimp only
  split
  · exact Chip.setGroup_other _ _ _ _ hj
  · rfl

theorem ite_fire_group (p : Prop) [Decidable p] (e x : Nat) (c : Chip) (j : Nat) : (if p then c.fire e x else c).group j = c.group j := by
  split
  · exact Chip.fire_group _ _ _ _
  · rfl

theorem advanceSync_state (g : GroupSt) (k : Nat) : (g.advanceSync k).state = g.state := by
  unfold GroupSt.advanceSync
  split
  · dsimp only
    generalize (if g.pulseSeen = true then 0 else g.missed + 1) = missed
    split
    · rfl
    · rfl
  · rfl

/-- A group at its boundary, with the settings that its transfer brings (R191, R199, R205). -/
def GroupSt.placed (g : GroupSt) (k t : Nat) : GroupSt :=
  let a := g.advanceSync k
  { a with following := a.placing (a.transfer t).1, staleCh := a.staleAfter (a.transfer t).1 }

/-- What a boundary at `t` writes into its group. -/
theorem boundaryAt_group (c : Chip) (k t : Nat) :
    ((c.boundaryAt k t).group k).active = (((c.group k).advanceSync k).transfer t).1 ∧
    ((c.boundaryAt k t).group k).queued = (((c.group k).advanceSync k).transfer t).2.2 ∧
    ((c.boundaryAt k t).group k).duty = [0, 1, 2, 3].map
      (fun i => ((c.setGroup k ((c.group k).placed k t)).channelDuty k i t (((c.group k).advanceSync k).transfer t).1).1) ∧
    ((c.boundaryAt k t).group k).boundaries = ((c.group k).advanceSync k).boundaries + 1 ∧
    ((c.boundaryAt k t).group k).last = some t ∧
    ((c.boundaryAt k t).group k).next = some ((t + (((c.group k).advanceSync k).transfer t).1.period : Nat) +
      ((c.group k).advanceSync k).adjust).toNat ∧
    ((c.boundaryAt k t).group k).state = (c.group k).state ∧
    ((c.boundaryAt k t).group k).following = ((c.group k).advanceSync k).placing (((c.group k).advanceSync k).transfer t).1 := by
  unfold Chip.boundaryAt
  dsimp only
  rw [foldl_checkLatch_group, groupTrigger_group, pulseTo_group_other _ _ (by omega), ite_fire_group, Chip.setGroup_same]
  exact ⟨rfl, rfl, rfl, rfl, rfl, rfl, advanceSync_state _ _, rfl⟩

theorem boundaryAt_group_other (c : Chip) {k j : Nat} (t : Nat) (hj : j ≠ k) (hj' : j ≠ k + 1) :
    (c.boundaryAt k t).group j = c.group j := by
  unfold Chip.boundaryAt
  dsimp only
  rw [foldl_checkLatch_group, groupTrigger_group, pulseTo_group_other _ _ hj', ite_fire_group, Chip.setGroup_other _ _ _ _ hj]

theorem waitUntil_group (c : Chip) (t j : Nat) : (c.waitUntil t).group j = c.group j :=
  (Chip.waitUntil_frame t c).group_eq rfl j

theorem boundary_of_run {c : Chip} {k t : Nat} (hrun : (c.group k).state = .run) (hnext : (c.group k).next = some t) :
    c.boundary k = (c.waitUntil t).boundaryAt k t := by
  unfold Chip.boundary
  rw [hrun, hnext]

theorem boundary_of_stopped {c : Chip} {k t : Nat} (hrun : (c.group k).state ≠ .run) (hnext : (c.group k).next = some t) :
    c.boundary k = (c.waitUntil t).setGroup k { c.group k with next := none } := by
  unfold Chip.boundary
  rw [hnext]
  split
  · exact absurd ‹_› hrun
  · rename_i heq _
    rw [Option.some.inj heq]
  · rename_i heq
    cases heq

theorem boundary_of_none {c : Chip} {k : Nat} (hnext : (c.group k).next = none) : c.boundary k = c := by
  unfold Chip.boundary
  rw [hnext]
  cases (c.group k).state <;> rfl

/-! ### Synchronisation -/

theorem syncIn_of_stopped {c : Chip} (h : (c.group 0).state ≠ .run ∨ (c.group 0).following = false) : c.syncIn = c :=
  if_pos (by
    rcases h with h | h
    · simp [h]
    · simp [h])

theorem syncIn_of_waiting {c : Chip} {d : Nat} (hrun : (c.group 0).state = .run) (hf : (c.group 0).following = true)
    (hw : (c.group 0).wait = some d) :
    c.syncIn = if d ≤ c.clk.now + 4 * (c.group 0).active.period then
      c.setGroup 0 { c.group 0 with wait := none, next := some (c.clk.now + (c.group 0).active.offset), pulseSeen := true } else c := by
  have hawake : (c.group 0).awake c.clk.now = decide (d ≤ c.clk.now + 4 * (c.group 0).active.period) := by
    unfold GroupSt.awake
    rw [hw]
  unfold Chip.syncIn
  dsimp only
  rw [if_neg (by simp [hrun, hf]), if_pos (by simp [hw]), hawake]
  simp only [decide_eq_true_eq]

theorem syncIn_of_following {c : Chip} (hrun : (c.group 0).state = .run) (hf : (c.group 0).following = true)
    (hw : (c.group 0).wait = none) {e f : Int}
    (he : e = (c.clk.now : Int) - (((c.group 0).next.getD 0 : Nat) - (c.group 0).active.offset : Int))
    (hl : f = (c.clk.now : Int) - (((c.group 0).last.getD 0 : Nat) - (c.group 0).active.offset : Int)) :
    c.syncIn = if e.natAbs ≤ (c.group 0).active.period / 256 then c.setGroup 0 { c.group 0 with adjust := e, pulseSeen := true }
      else if f.natAbs ≤ (c.group 0).active.period / 256 then c.setGroup 0 { c.group 0 with adjust := f, pulseSeen := true }
      else c := by
  subst he hl
  unfold Chip.syncIn
  dsimp only
  rw [if_neg (by simp [hrun, hf]), if_neg (by simp [hw]), Int.natAbs_natCast]

theorem followTimeout_of_waiting {c : Chip} {k d : Nat} (hrun : (c.group k).state = .run) (hw : (c.group k).wait = some d) :
    c.followTimeout k = (c.waitUntil d).setGroup k { c.group k with
      wait := none, following := false, syncLost := true, syncNew := true, next := some d } := by
  unfold Chip.followTimeout
  dsimp only
  rw [hrun, hw]

theorem followTimeout_idle {c : Chip} {k : Nat} (h : (c.group k).state ≠ .run ∨ (c.group k).wait = none) : c.followTimeout k = c := by
  unfold Chip.followTimeout
  dsimp only
  split
  · rename_i hrun hw
    rcases h with h | h
    · exact absurd hrun h
    · rw [h] at hw
      cases hw
  · rfl

/-! ### Delay lines -/

/-- What a calibration leaves of a group. -/
def GroupSt.SamePulses (g g' : GroupSt) : Prop := g'.state = g.state ∧ g'.duty = g.duty ∧ g'.next = g.next

/-- A group whose lines were calibrated: the lines that could not be trimmed, and the next calibration. -/
def GroupSt.Calibrated (g : GroupSt) (mask due : Nat) : Prop := g.badLines = mask ∧ g.dlyFail = (mask != 0) ∧ g.lineDue = due

/-- The calibration of the lines of group `k`. -/
def Chip.calibrateGroup (failed : List Nat) (due k : Nat) (x : Chip) : Chip :=
  let g := x.group k
  let m := lineMask k failed
  let x1 := x.setGroup k { g with
    dlyFail := m != 0, badLines := m, lineDue := due + ms 10
    chans := g.chans.zipIdx.map (fun e => if 64 * x.clk.now < e.1.start then { e.1 with coarse := bit m e.2 } else e.1) }
  if m != 0 && !g.dlyFail then x1.fire (40 + k) (g.boundaries % 65536 + 2 ^ 22) else x1

theorem calibrateLines_of_free {c : Chip} (failed : List Nat) (h : c.islandHeld = false) :
    c.calibrateLines failed = (List.range (groupCount c.fuses.variant)).foldl
      (fun x k => x.calibrateGroup failed (c.group 0).lineDue k) (c.waitUntil (c.group 0).lineDue) :=
  if_neg (by simp [h])

theorem calibrateGroup_frame (failed : List Nat) (due k : Nat) (x : Chip) :
    Keeps (Field.routed ||| Field.groups) x (x.calibrateGroup failed due k) := by
  have hset : ∀ g, Keeps (Field.routed ||| Field.groups) x (x.setGroup k g) := fun g => setGroup_keeps (.of rfl) k g x (.refl x)
  unfold Chip.calibrateGroup
  dsimp only
  split
  · exact fire_keeps (.of rfl) _ _ _ (hset _)
  · exact hset _

theorem calibrateGroup_other (failed : List Nat) (due : Nat) (x : Chip) {k j : Nat} (hj : j ≠ k) :
    (x.calibrateGroup failed due k).group j = x.group j := by
  unfold Chip.calibrateGroup
  dsimp only
  rw [ite_fire_group, Chip.setGroup_other _ _ _ _ hj]

theorem calibrateGroup_same (failed : List Nat) (due : Nat) (x : Chip) (k : Nat) :
    ((x.calibrateGroup failed due k).group k).Calibrated (lineMask k failed) (due + ms 10) ∧
      (x.group k).SamePulses ((x.calibrateGroup failed due k).group k) := by
  unfold Chip.calibrateGroup
  dsimp only
  rw [ite_fire_group, Chip.setGroup_same]
  exact ⟨⟨rfl, rfl, rfl⟩, rfl, rfl, rfl⟩

theorem foldl_calibrateGroup (failed : List Nat) (due : Nat) (l : List Nat) (hl : l.Nodup) (x : Chip) (j : Nat) :
    (j ∈ l → ((l.foldl (fun x k => x.calibrateGroup failed due k) x).group j).Calibrated (lineMask j failed) (due + ms 10)) ∧
      (j ∉ l → (l.foldl (fun x k => x.calibrateGroup failed due k) x).group j = x.group j) ∧
      (x.group j).SamePulses ((l.foldl (fun x k => x.calibrateGroup failed due k) x).group j) := by
  induction l generalizing x with
  | nil => exact ⟨fun h => absurd h List.not_mem_nil, fun _ => rfl, rfl, rfl, rfl⟩
  | cons k l ih =>
    obtain ⟨hk, hl⟩ := List.nodup_cons.mp hl
    obtain ⟨hin, hout, hstate, hduty, hnext⟩ := ih hl (x.calibrateGroup failed due k)
    simp only [List.foldl_cons]
    by_cases hj : j = k
    · subst hj
      obtain ⟨hcal, hstate', hduty', hnext'⟩ := calibrateGroup_same failed due x j
      exact ⟨fun _ => (hout hk).symm ▸ hcal, fun h => absurd (List.mem_cons_self ..) h,
        hstate.trans hstate', hduty.trans hduty', hnext.trans hnext'⟩
    · rw [calibrateGroup_other failed due x hj] at hout hstate hduty hnext
      exact ⟨fun h => hin ((List.mem_cons.mp h).resolve_left hj), fun h => hout fun h' => h (List.mem_cons_of_mem _ h'),
        hstate, hduty, hnext⟩

/-! ### Holds -/

theorem holdExpires_of_frozen {c : Chip} {k d : Nat} (hst : (c.group k).state = .frozen) (hd : (c.group k).holdDue = some d) :
    c.holdExpires k = ((c.waitUntil d).stopGroup k 11 .safe).setGroup k
      { ((c.waitUntil d).stopGroup k 11 .safe).group k with haltKind := (c.group k).haltKind } := by
  unfold Chip.holdExpires
  dsimp only
  rw [hst, hd]

theorem holdExpires_idle {c : Chip} {k : Nat} (h : (c.group k).state ≠ .frozen ∨ (c.group k).holdDue = none) : c.holdExpires k = c := by
  unfold Chip.holdExpires
  dsimp only
  split
  · rename_i hst hd
    rcases h with h | h
    · exact absurd hst h
    · rw [h] at hd
      cases hd
  · rfl

/-! ### Trips -/

theorem noteLatching_bridge (n : Nat) (c : Chip) :
    ((c.noteLatching n).bridge n).trips = (c.bridge n).trips ∧ ((c.noteLatching n).bridge n).total = (c.bridge n).total := by
  unfold Chip.noteLatching
  split
  · rw [Chip.setBridge_same]
    exact ⟨rfl, rfl⟩
  · exact ⟨rfl, rfl⟩

theorem noteLatching_bridge_other (c : Chip) {n j : Nat} (hj : j ≠ n) : (c.noteLatching n).bridge j = c.bridge j := by
  unfold Chip.noteLatching
  split
  · exact Chip.setBridge_other _ _ _ _ hj
  · rfl

theorem meetClear_of_none {c : Chip} {n : Nat} (i : Nat) (h : (c.bridge n).cleared = none) : c.meetClear n i = c := by
  unfold Chip.meetClear
  dsimp only
  rw [h]

theorem meetClear_bridge_other (c : Chip) {n j : Nat} (i : Nat) (hj : j ≠ n) : (c.meetClear n i).bridge j = c.bridge j := by
  unfold Chip.meetClear
  dsimp only
  cases (c.bridge n).cleared with
  | none => rfl
  | some e =>
    simp only [apply_ite (fun x : Chip => x.bridge j), Chip.setBridge_other _ _ _ _ hj, ite_self]

theorem BridgeSt.tripped_of_new {b : BridgeSt} {i : Nat} (now : Nat) (h : b.trips.head? ≠ some i) :
    b.tripped i now = { b with trips := (i :: b.trips).take 255, total := b.total + 1, cutAt := some (i, now) } :=
  if_neg (by simpa using h)

theorem BridgeSt.tripped_of_counted {b : BridgeSt} {i : Nat} (now : Nat) (h : b.trips.head? = some i) : b.tripped i now = b :=
  if_pos (by simp [h])

/-- A trip counted at bridge `n`, before its port tells of it. -/
def Chip.countTrip (n : Nat) (c : Chip) : Chip :=
  let c0 := c.meetClear n (c.channelPeriod n)
  (c0.setBridge n ((c0.bridge n).tripped (c.channelPeriod n) c.clk.now)).noteLatching n

theorem countTrip_frame (n : Nat) (c : Chip) : Keeps (Field.routed ||| Field.ports ||| Field.bridges) c (c.countTrip n) :=
  noteLatching_keeps (.of rfl) n _ (setBridge_keeps (.of rfl) n _ _ (meetClear_keeps (.of rfl) n _ c (.refl c)))

theorem countTrip_bridge (n : Nat) (c : Chip) :
    ((c.countTrip n).bridge n).trips =
        (((c.meetClear n (c.channelPeriod n)).bridge n).tripped (c.channelPeriod n) c.clk.now).trips ∧
      ((c.countTrip n).bridge n).total =
        (((c.meetClear n (c.channelPeriod n)).bridge n).tripped (c.channelPeriod n) c.clk.now).total := by
  unfold Chip.countTrip
  dsimp only
  obtain ⟨htrips, htotal⟩ := noteLatching_bridge n ((c.meetClear n (c.channelPeriod n)).setBridge n
    (((c.meetClear n (c.channelPeriod n)).bridge n).tripped (c.channelPeriod n) c.clk.now))
  rw [htrips, htotal, Chip.setBridge_same]
  exact ⟨rfl, rfl⟩

theorem countTrip_bridge_other (c : Chip) {n j : Nat} (hj : j ≠ n) : (c.countTrip n).bridge j = c.bridge j := by
  unfold Chip.countTrip
  dsimp only
  rw [noteLatching_bridge_other _ hj, Chip.setBridge_other _ _ _ _ hj, meetClear_bridge_other _ _ hj]

theorem trip_of_outside {c : Chip} {n : Nat} (h : c.portActive n = false ∨ c.portMode n ≠ mHbridge) : c.trip n = c :=
  if_pos (by
    rcases h with h | h
    · simp [h]
    · simp [h])

theorem trip_of_counting {c : Chip} {n : Nat} (hact : c.portActive n = true) (hmode : c.portMode n = mHbridge)
    (h : (c.group (groupOf n)).state = .run ∨ (c.group (groupOf n)).state = .frozen) :
    c.trip n = ((c.countTrip n).portCause n 4).checkLatch n := by
  unfold Chip.trip
  dsimp only
  rw [if_neg (by simp [hact, hmode]), if_pos (by simpa using h)]
  rfl

theorem trip_of_uncounted {c : Chip} {n : Nat} (hact : c.portActive n = true) (hmode : c.portMode n = mHbridge)
    (h : ¬ ((c.group (groupOf n)).state = .run ∨ (c.group (groupOf n)).state = .frozen)) :
    c.trip n = (c.portCause n 4).checkLatch n := by
  unfold Chip.trip
  dsimp only
  rw [if_neg (by simp [hact, hmode]), if_neg (by simpa using h)]

theorem portCause_frame (n b : Nat) (c : Chip) : Keeps (Field.routed ||| Field.ports) c (c.portCause n b) :=
  portCause_keeps (.refl _) n b c (.refl c)

theorem checkLatch_of_reached {c : Chip} {n : Nat} (hl : (c.bridge n).latched = false) (hw : 0 < c.wcount n)
    (hn : c.tripN n ≤ c.wcount n) : c.checkLatch n = c.latchBridge n :=
  if_pos (by simp [hl, hw, hn])

theorem checkLatch_idle {c : Chip} {n : Nat} (h : c.wcount n < c.tripN n ∨ (c.bridge n).latched = true) : c.checkLatch n = c :=
  if_neg (by
    rcases h with h | h
    · simp only [Bool.and_eq_true, decide_eq_true_eq]
      omega
    · simp [h])

end Sys2Proof.Machine

namespace Sys2Proof
open Machine

/-- Settles O42: a boundary's writes into its group survive what it tells the next group, the sampler and the bridges; each other row
is one case of its definition. -/
theorem pulsesBoundariesAndTrips : Obligations.PulsesBoundariesAndTrips := by
  unfold Obligations.PulsesBoundariesAndTrips
  intro s k n
  refine ⟨?run, ?stopped, ?noNext, ?waiting, ?following, ?syncIdle, ?timeout, ?timeoutIdle, ?lines, ?hold, ?holdIdle, ?source, ?noSource,
    ?tripIdle, ?trip⟩
  case run =>
    intro t hrun hnext
    have hframe := boundary_keeps (.refl _) k s.chip (.refl s.chip)
    rw [boundary_of_run hrun hnext] at hframe
    obtain ⟨hactive, hqueued, hduty, hcount, hlast, hnext', hstate, hplacing⟩ := boundaryAt_group (s.chip.waitUntil t) k t
    have hother := fun j => boundaryAt_group_other (s.chip.waitUntil t) (k := k) (j := j) t
    have hclk := (boundaryAt_keeps (.refl _) k t (s.chip.waitUntil t) (.refl _)).clk
    rw [waitUntil_group] at hactive hqueued hduty hcount hnext' hstate hplacing
    simp only [waitUntil_group] at hother
    refine ⟨_, (s.chip.group k).placed k t, _, _, _, Leads.of_eq rfl (boundary_of_run hrun hnext), rfl, rfl, rfl, rfl, ?_, hactive, hqueued,
      hduty, hcount, hlast, hnext', hstate.trans hrun, hplacing, fun j hj hj' => hother j hj hj', hframe.attrs, hframe.ports⟩
    rw [hclk]
    exact Chip.le_waitUntil _ t
  case stopped => exact fun t hrun hnext => Leads.of_eq rfl (boundary_of_stopped hrun hnext)
  case noNext => exact fun h => Leads.of_eq rfl (boundary_of_none h)
  case waiting =>
    exact fun hrun hf d hw => ⟨fun h => Leads.of_eq rfl ((syncIn_of_waiting hrun hf hw).trans (if_pos h)),
      fun h => Leads.of_eq rfl ((syncIn_of_waiting hrun hf hw).trans (if_neg (by omega)))⟩
  case following =>
    intro hrun hf hw e f he hl
    have hsync := syncIn_of_following hrun hf hw he hl
    exact ⟨fun h => Leads.of_eq rfl (hsync.trans (if_pos h)),
      fun h h' => Leads.of_eq rfl (hsync.trans ((if_neg (by omega)).trans (if_pos h'))),
      fun h h' => Leads.of_eq rfl (hsync.trans ((if_neg (by omega)).trans (if_neg (by omega))))⟩
  case syncIdle => exact fun h => Leads.of_eq rfl (syncIn_of_stopped h)
  case timeout =>
    intro d hrun hw
    refine ⟨_, Leads.of_eq rfl (followTimeout_of_waiting hrun hw), Chip.le_waitUntil _ d, ?_⟩
    rw [Chip.setGroup_same]
    refine ⟨rfl, rfl, rfl, rfl, hrun, fun j hj => ?_, ?_, ?_⟩
    · rw [Chip.setGroup_other _ _ _ _ hj, waitUntil_group]
    · exact (Chip.waitUntil_frame d s.chip).slots
    · exact (Chip.waitUntil_frame d s.chip).attrs
  case timeoutIdle => exact fun h => Leads.of_eq rfl (followTimeout_idle h)
  case lines =>
    refine fun failed => ⟨fun h => Leads.of_eq rfl (if_pos h), fun h => ?_⟩
    have hframe := calibrateLines_keeps (.refl _) failed s.chip (.refl s.chip)
    have hclk : Keeps (Field.routed ||| Field.groups) (s.chip.waitUntil (s.chip.group 0).lineDue) (s.chip.calibrateLines failed) := by
      rw [calibrateLines_of_free failed h]
      exact foldl_keeps (fun x k => calibrateGroup_frame failed _ k x) (.refl _)
    have hgroups := foldl_calibrateGroup failed (s.chip.group 0).lineDue (List.range (groupCount s.chip.fuses.variant)) List.nodup_range
      (s.chip.waitUntil (s.chip.group 0).lineDue)
    rw [← calibrateLines_of_free failed h] at hgroups
    refine ⟨_, Leads.of_eq rfl rfl, ?_, fun j hj => (hgroups j).1 (List.mem_range.mpr hj), fun j => ?_, hframe.slots, hframe.attrs,
      hframe.ports⟩
    · rw [hclk.clk]
      exact Chip.le_waitUntil _ _
    · have hsame := (hgroups j).2.2
      rwa [waitUntil_group] at hsame
  case hold =>
    intro d hst hd
    have hframe := stopGroup_keeps (.refl _) k 11 .safe (s.chip.waitUntil d) (.refl _)
    have hrow := holdExpires_keeps (.refl _) k s.chip (.refl s.chip)
    rw [holdExpires_of_frozen hst hd] at hrow
    refine ⟨_, Leads.of_eq rfl (holdExpires_of_frozen hst hd), ?_, ?_, ?_, fun j hj => ?_, hrow.attrs, hrow.ports⟩
    · exact hframe.clk ▸ Chip.le_waitUntil _ d
    · rw [Chip.setGroup_same]
      exact (stopGroup_group _ k 11 .safe).1
    · rw [Chip.setGroup_same]
    · rw [Chip.setGroup_other _ _ _ _ hj, (stopGroup_sameRun_other _ k 11 .safe hj).1, waitUntil_group]
  case holdIdle => exact fun h => Leads.of_eq rfl (holdExpires_idle h)
  case source => exact fun h => Leads.of_eq rfl (if_pos (by simpa using h))
  case noSource => exact fun h => Leads.of_eq rfl (if_neg (by simpa using h))
  case tripIdle => exact fun h => Leads.of_eq rfl (trip_of_outside h)
  case trip =>
    intro hact hmode
    have hnone : (s.chip.bridge n).cleared = none → (s.chip.meetClear n (s.chip.channelPeriod n)).bridge n = s.chip.bridge n :=
      fun h => by rw [meetClear_of_none _ h]
    by_cases hst : (s.chip.group (groupOf n)).state = .run ∨ (s.chip.group (groupOf n)).state = .frozen
    · have hcause := portCause_frame n 4 (s.chip.countTrip n)
      have hframe := portCause_keeps (fs := Field.routed ||| Field.ports ||| Field.bridges) (.of rfl) n 4 _
        (countTrip_frame n s.chip)
      obtain ⟨htrips, htotal⟩ := countTrip_bridge n s.chip
      refine ⟨_, _, Leads.of_eq rfl (trip_of_counting hact hmode hst), rfl, hnone, fun _ => ?_, fun h h' => absurd hst (by simp [h, h']),
        checkLatch_of_reached, checkLatch_idle, fun j hj => ?_, hframe.groups, hframe.slots, hframe.attrs, hframe.motors⟩
      · rw [hcause.bridge_eq rfl, htrips, htotal]
        exact ⟨fun h => by rw [BridgeSt.tripped_of_new _ h]; exact ⟨rfl, rfl⟩,
          fun h => by rw [BridgeSt.tripped_of_counted _ h]; exact ⟨rfl, rfl⟩⟩
      · rw [hcause.bridge_eq rfl, countTrip_bridge_other _ hj]
    · have hframe := portCause_frame n 4 s.chip
      refine ⟨_, _, Leads.of_eq rfl (trip_of_uncounted hact hmode hst), rfl, hnone, fun h => absurd h hst,
        fun _ _ => hframe.bridge_eq rfl n, checkLatch_of_reached, checkLatch_idle, fun j _ => hframe.bridge_eq rfl j, hframe.groups,
        hframe.slots, hframe.attrs, hframe.motors⟩

end Sys2Proof
end

section
-- One proof after another: side by side, the stacks of their threads reach the check's limit of memory.
set_option Elab.async false
/-! The ports in time (spec/04): protection, retry faults, digital inputs, the sensor bus and outputs that follow a signal. -/

namespace Sys2Proof.Machine

/-! ### A port's cause and its retry fault -/

theorem portCause_port_same (n b : Nat) (c : Chip) :
    (c.portCause n b).port n = { c.port n with fault := (c.port n).fault ||| (BitVec.ofNat 32 b &&& keptFaults) } := by
  unfold Chip.portCause
  dsimp only
  rw [Chip.fire_port, Chip.setPort_same]

theorem portCause_port_other (c : Chip) {n j : Nat} (b : Nat) (hj : j ≠ n) : (c.portCause n b).port j = c.port j := by
  unfold Chip.portCause
  dsimp only
  rw [Chip.fire_port, Chip.setPort_other _ _ _ _ hj]

/-- The port after a retry fault, without its fault bits (R148). -/
def Chip.retried (c : Chip) (n : Nat) : PortSt :=
  let s := c.port n
  let times := (s.faultTimes.filter (fun t => decide (c.clk.now ≤ t + sec 60))) ++ [c.clk.now]
  let held := s.latched || s.outside
  let latch := !held && decide (3 ≤ times.length)
  { s with
    offAt := if s.fit then c.clk.now else s.offAt, faultTimes := times, latched := s.latched || latch
    retry := if held then s.retry else if latch then none else some (c.clk.now + sec 1) }

theorem retryFault_port_same (n b : Nat) (c : Chip) :
    ((c.retryFault n b).port n).faultTimes = (c.retried n).faultTimes ∧ ((c.retryFault n b).port n).retry = (c.retried n).retry ∧
      ((c.retryFault n b).port n).latched = (c.retried n).latched := by
  unfold Chip.retryFault
  dsimp only
  rw [portCause_port_same, Chip.setPort_same]
  exact ⟨rfl, rfl, rfl⟩

theorem retryFault_port_other (c : Chip) {n j : Nat} (b : Nat) (hj : j ≠ n) : (c.retryFault n b).port j = c.port j := by
  unfold Chip.retryFault
  dsimp only
  rw [portCause_port_other _ _ hj, Chip.setPort_other _ _ _ _ hj]

theorem retried_of_held {c : Chip} {n : Nat} (h : ((c.port n).latched || (c.port n).outside) = true) :
    (c.retried n).retry = (c.port n).retry ∧ (c.retried n).latched = (c.port n).latched := by
  unfold Chip.retried
  dsimp only
  rw [h]
  exact ⟨rfl, Bool.or_false _⟩

theorem retried_of_free {c : Chip} {n : Nat} (h : ((c.port n).latched || (c.port n).outside) = false) :
    ((c.retried n).faultTimes.length < 3 → (c.retried n).retry = some (c.clk.now + sec 1) ∧ (c.retried n).latched = false) ∧
      (3 ≤ (c.retried n).faultTimes.length → (c.retried n).retry = none ∧ (c.retried n).latched = true) := by
  have hl : (c.port n).latched = false := (Bool.or_eq_false_iff.mp h).1
  unfold Chip.retried
  dsimp only
  rw [h, hl]
  refine ⟨fun hlt => ?_, fun hle => ?_⟩
  · rw [decide_eq_false (by omega)]
    exact ⟨rfl, rfl⟩
  · rw [decide_eq_true hle]
    exact ⟨rfl, rfl⟩

/-! ### Protection and retry faults -/

theorem protectEntry_of_window {c : Chip} {n : Nat} {high low : Bool} (hup : c.power.main.up = true)
    (hp : objPresent c.fuses.variant tyPort n = true) (hh : (high || low) = true) (hm : c.portMode n ≠ mIin) (hw : c.hasWindow n = true) :
    c.protectEntry n high low = ((c.setPort n { c.port n with
      outside := true, offAt := if (c.port n).fit then c.clk.now else (c.port n).offAt }).portCause n (b2n high + 2 * b2n low)).portCut n := by
  unfold Chip.protectEntry
  rw [if_neg (by simp [hup, hp, hh]), if_neg (by simpa using hm), if_neg (by simp [hw])]

theorem protectEntry_of_loop {c : Chip} {n : Nat} {high low : Bool} (hup : c.power.main.up = true)
    (hp : objPresent c.fuses.variant tyPort n = true) (hh : (high || low) = true) (hm : c.portMode n = mIin) :
    c.protectEntry n high low = if high then c.retryWith n 0x40 else c := by
  unfold Chip.protectEntry
  rw [if_neg (by simp [hup, hp, hh]), if_pos (by simpa using hm)]
  rfl

theorem protectEntry_idle {c : Chip} {n : Nat} {high low : Bool}
    (h : c.power.main.up = false ∨ objPresent c.fuses.variant tyPort n = false ∨ (high || low) = false ∨
      (c.portMode n = mIin ∧ high = false) ∨ (c.portMode n ≠ mIin ∧ c.hasWindow n = false)) : c.protectEntry n high low = c := by
  unfold Chip.protectEntry
  split
  · rfl
  · rename_i hsome
    split
    · rename_i hm
      rcases h with h | h | h | ⟨-, h⟩ | ⟨hm', -⟩
      · simp [h] at hsome
      · simp [h] at hsome
      · simp [h] at hsome
      · simp [h]
      · exact absurd (by simpa using hm) hm'
    · rename_i hm
      rcases h with h | h | h | ⟨hm', -⟩ | ⟨-, h⟩
      · simp [h] at hsome
      · simp [h] at hsome
      · simp [h] at hsome
      · exact absurd (by simpa using hm') hm
      · exact if_pos (by simp [h])

theorem retryRow_of_fault {c : Chip} {n : Nat} {k : RetryKind} (hup : c.power.main.up = true)
    (hp : objPresent c.fuses.variant tyPort n = true) (ha : c.retryApplies n k = true)
    (hs : c.portActive n = true ∨ (c.port n).latched = true ∨ (c.port n).outside = true) :
    c.retryRow n k = c.retryWith n (retryBit k) := by
  unfold Chip.retryRow
  rw [if_neg (by simp [hup, hp, ha]), if_pos (by simpa [or_assoc] using hs)]

theorem retryRow_idle {c : Chip} {n : Nat} {k : RetryKind}
    (h : c.power.main.up = false ∨ objPresent c.fuses.variant tyPort n = false ∨ c.retryApplies n k = false ∨
      (c.portActive n = false ∧ (c.port n).latched = false ∧ (c.port n).outside = false)) : c.retryRow n k = c := by
  unfold Chip.retryRow
  split
  · rfl
  · rename_i hsome
    rcases h with h | h | h | ⟨ha, hl, ho⟩
    · simp [h] at hsome
    · simp [h] at hsome
    · simp [h] at hsome
    · exact if_neg (by simp [ha, hl, ho])

theorem overloadMean_of_bridge {c : Chip} {n current : Nat} (hup : c.power.main.up = true) (hm : c.portMode n = mHbridge) {all : List Nat}
    {wide : Bool} (hall : all = (c.port n).samples ++ [if c.portActive n then current else 0])
    (hwide : wide = decide (11 * c.attrN tyPort n 5 * 1000 < 10 * (all.drop (all.length - 1000)).sum)) :
    c.overloadMean n current = if (wide && !(c.port n).meanOver) = true
      then (c.setPort n { c.port n with samples := all.drop (all.length - 1000), meanOver := wide }).retryWith n 0x8
      else c.setPort n { c.port n with samples := all.drop (all.length - 1000), meanOver := wide } := by
  unfold Chip.overloadMean
  rw [if_neg (by simp [hup, hm])]
  extract_lets s samples kept over_ c1
  have hover : over_ = wide := by
    rw [hwide, hall]
  clear_value over_
  subst hover hall
  rfl

theorem overloadMean_idle {c : Chip} {n : Nat} (current : Nat) (h : c.power.main.up = false ∨ c.portMode n ≠ mHbridge) :
    c.overloadMean n current = c :=
  if_pos (by
    rcases h with h | h
    · simp [h]
    · simp [h])

theorem retryOver_of_retry {c : Chip} {n d : Nat} (h : (c.port n).retry = some d) :
    c.retryOver n = ((c.waitUntil d).setPort n { (c.waitUntil d).port n with retry := none }).settle n (ms 2) := by
  unfold Chip.retryOver
  rw [h]

theorem retryOver_idle {c : Chip} {n : Nat} (h : (c.port n).retry = none) : c.retryOver n = c := by
  unfold Chip.retryOver
  rw [h]

theorem settle_port_same (n d : Nat) (c : Chip) : (c.settle n d).port n = { c.port n with settling := some (c.clk.now + d) } :=
  Chip.setPort_same ..

theorem settle_port_other (c : Chip) {n j : Nat} (d : Nat) (hj : j ≠ n) : (c.settle n d).port j = c.port j :=
  Chip.setPort_other _ _ _ _ hj

theorem waitUntil_port (c : Chip) (t j : Nat) : (c.waitUntil t).port j = c.port j := (Chip.waitUntil_frame t c).port_eq rfl j

/-! ### The end of settling -/

/-- The port at the end of its settling, before it is driven again. -/
def Chip.settleEnded (n d : Nat) (c : Chip) : Chip :=
  (c.waitUntil d).setPort n { (c.waitUntil d).port n with settling := none, onAt := (c.waitUntil d).clk.now }

theorem settled_of_settling {c : Chip} {n d : Nat} (h : (c.port n).settling = some d) :
    c.settled n = if (c.settleEnded n d).portActive n then (c.settleEnded n d).portOn n else c.settleEnded n d := by
  unfold Chip.settled
  rw [h]
  rfl

theorem settled_idle {c : Chip} {n : Nat} (h : (c.port n).settling = none) : c.settled n = c := by
  unfold Chip.settled
  rw [h]

theorem settled_port_same {c : Chip} {n d : Nat} (h : (c.port n).settling = some d) :
    ((c.settled n).port n).settling = none ∧ d ≤ (c.settled n).clk.now ∧
      ((c.settled n).portActive n = true → (c.settled n).portMode n = mSbus → ((c.settled n).port n).sbusDue = some (c.settled n).clk.now) := by
  have hport : (c.settleEnded n d).port n = { (c.waitUntil d).port n with settling := none, onAt := (c.waitUntil d).clk.now } :=
    Chip.setPort_same ..
  rw [settled_of_settling h]
  split
  · unfold Chip.portOn
    dsimp only
    rw [Chip.setPort_same, hport]
    refine ⟨rfl, Chip.le_waitUntil _ d, fun _ hmode => if_pos ?_⟩
    exact beq_iff_eq.mpr hmode
  · rename_i hact
    rw [hport]
    exact ⟨rfl, Chip.le_waitUntil _ d, fun h => absurd h hact⟩

theorem settled_port_other {c : Chip} {n d j : Nat} (h : (c.port n).settling = some d) (hj : j ≠ n) : (c.settled n).port j = c.port j := by
  have hport : (c.settleEnded n d).port j = c.port j := (Chip.setPort_other _ _ _ _ hj).trans (waitUntil_port c d j)
  rw [settled_of_settling h]
  split
  · exact (Chip.setPort_other _ _ _ _ hj).trans hport
  · exact hport

/-! ### Digital inputs -/

theorem InputSt.see_of_same {s : InputSt} {raw : Bool} (mv : Int) (counted : Bool) (now : Nat) (h : raw = s.raw) :
    s.see mv raw counted now = { s with mv := mv } :=
  if_pos (by simp [h])

theorem InputSt.see_of_edge {s : InputSt} {raw : Bool} (mv : Int) (counted : Bool) (now : Nat) (h : raw ≠ s.raw) :
    s.see mv raw counted now = { s with mv := mv, raw := raw, since := now, edges := if counted then s.edges + 1 else s.edges } :=
  if_neg (by simpa using h.symm)

theorem dinEdge_inB (c : Chip) (n : Nat) (mv : Int) :
    (c.dinEdge n true mv).port n = { c.port n with
      inB := (c.port n).inB.see mv (compare (c.threshOf n) mv (c.port n).inB.raw) (c.isInput n true) c.clk.now } :=
  Chip.setPort_same ..

theorem dinEdge_inA (c : Chip) (n : Nat) (mv : Int) :
    ((c.dinEdge n false mv).port n).inA =
      (c.port n).inA.see mv (compare (c.threshOf n) mv (c.port n).inA.raw) (c.isInput n false) c.clk.now := by
  unfold Chip.dinEdge
  simp only [Bool.false_eq_true, if_false, Chip.setPort_same]
  split
  · rfl
  · rfl

/-- A rising edge on an input A: its instant, and the period since the one before. -/
theorem dinEdge_rise {c : Chip} {n : Nat} {mv : Int} (hin : c.isInput n false = true)
    (hraw : compare (c.threshOf n) mv (c.port n).inA.raw = true) (hold : (c.port n).inA.raw = false) :
    ((c.dinEdge n false mv).port n).lastRise = some c.clk.now ∧
      ∀ t, (c.port n).lastRise = some t → ((c.dinEdge n false mv).port n).periodA = BitVec.ofNat 32 (min 0xFFFFFFFF (c.clk.now - t)) := by
  unfold Chip.dinEdge
  simp only [Bool.false_eq_true, if_false, Chip.setPort_same, hin, hraw]
  rw [if_pos (by simp [hold])]
  exact ⟨rfl, fun t ht => by rw [ht]⟩

theorem dinEdge_noRise {c : Chip} {n : Nat} {mv : Int} (h : c.isInput n false = false ∨
      compare (c.threshOf n) mv (c.port n).inA.raw = false ∨ (c.port n).inA.raw = true) :
    ((c.dinEdge n false mv).port n).periodA = (c.port n).periodA ∧ ((c.dinEdge n false mv).port n).lastRise = (c.port n).lastRise := by
  have hcond : ¬ (c.isInput n false && compare (c.threshOf n) mv (c.port n).inA.raw && !(c.port n).inA.raw) = true := by
    rcases h with h | h | h
    · simp [h]
    · simp [h]
    · rw [h]
      simp
  unfold Chip.dinEdge
  simp only [Bool.false_eq_true, if_false, Chip.setPort_same]
  rw [if_neg hcond]
  exact ⟨rfl, rfl⟩

theorem dinEdge_port_other (c : Chip) {n j : Nat} (termB : Bool) (mv : Int) (hj : j ≠ n) : (c.dinEdge n termB mv).port j = c.port j := by
  unfold Chip.dinEdge
  dsimp only
  split
  · exact Chip.setPort_other _ _ _ _ hj
  · exact Chip.setPort_other _ _ _ _ hj

/-- A row DIN_EDGE: what it leaves in the input of the terminal. -/
theorem dinEdge_seen (c : Chip) (n : Nat) (termB : Bool) (mv : Int) (i : InputSt) (hi : i = if termB then (c.port n).inB else (c.port n).inA) :
    (if termB then ((c.dinEdge n termB mv).port n).inB else ((c.dinEdge n termB mv).port n).inA) =
      i.see mv (compare (c.threshOf n) mv i.raw) (c.isInput n termB) c.clk.now := by
  subst hi
  cases termB with
  | true => exact congrArg PortSt.inB (dinEdge_inB c n mv)
  | false => exact dinEdge_inA c n mv

/-- The input of a terminal after its level was taken over. -/
def PortSt.takeLevel (s : PortSt) (termB : Bool) (i : InputSt) : PortSt :=
  if termB then { s with inB := { i with level := some i.raw } } else { s with inA := { i with level := some i.raw } }

theorem takeLevel_level (s : PortSt) (termB : Bool) (i : InputSt) :
    (if termB then (s.takeLevel termB i).inB else (s.takeLevel termB i).inA).level = some i.raw := by
  cases termB with
  | true => rfl
  | false => rfl

theorem debounced_idle {c : Chip} {n : Nat} {termB : Bool} {i : InputSt} (hi : i = if termB then (c.port n).inB else (c.port n).inA)
    (h : c.isInput n termB = false ∨ i.level = some i.raw) : c.debounced n termB = c := by
  subst hi
  unfold Chip.debounced
  dsimp only
  split
  · rfl
  · rename_i hin
    rcases h with h | h
    · simp [h] at hin
    · exact if_pos (by simp [h])

/-- DEBOUNCE is over for an input: its level is taken over. -/
def Chip.tookLevel (n : Nat) (termB : Bool) (i : InputSt) (c : Chip) : Chip :=
  (c.waitUntil (i.since + ms (c.attrN tyPort n 3))).setPort n
    (((c.waitUntil (i.since + ms (c.attrN tyPort n 3))).port n).takeLevel termB i)

theorem debounced_of_stayed {c : Chip} {n : Nat} {termB : Bool} {i : InputSt} (hin : c.isInput n termB = true)
    (hi : i = if termB then (c.port n).inB else (c.port n).inA) (h : i.level ≠ some i.raw) :
    c.debounced n termB = if (i.level.isSome && bit (c.attrN tyPort n 4) (2 * b2n termB + b2n (!i.raw))) = true
      then ((c.tookLevel n termB i).writeLevel n termB i.raw).portCause n (if termB then 0x8000 else 0x4000)
      else (c.tookLevel n termB i).writeLevel n termB i.raw := by
  subst hi
  unfold Chip.debounced
  dsimp only
  rw [if_neg (by simp [hin]), if_neg (by simpa using h)]
  rfl

/-! ### The sensor bus -/

theorem sbusPoll_idle {c : Chip} {n : Nat} (reads : List (Option (List Byte)))
    (h : (c.port n).sbusDue = none ∨ c.portActive n = false ∨ c.portMode n ≠ mSbus) : c.sbusPoll n reads = c := by
  unfold Chip.sbusPoll
  cases hd : (c.port n).sbusDue with
  | none => rfl
  | some d =>
    refine if_pos ?_
    rcases h with h | h | h
    · rw [h] at hd
      cases hd
    · simp [h]
    · simp [h]

/-- A pass of the sensor bus that begins at `d`. -/
def Chip.passBegun (n d : Nat) (c : Chip) : Chip :=
  (c.waitUntil d).setPort n { (c.waitUntil d).port n with sbusAt := some 0, sbusWire := [] }

/-- The end of a poll of `reads` entries from entry `i` on. -/
def Chip.polled (n i len : Nat) (reads : List (Option (List Byte))) (c : Chip) : Chip :=
  if len ≤ 16 * (i + reads.length) then c.sbusEnd n else c.setPort n { c.port n with sbusAt := some (i + reads.length) }

theorem sbusPoll_of_new {c : Chip} {n d : Nat} (reads : List (Option (List Byte))) (hd : (c.port n).sbusDue = some d)
    (ha : c.portActive n = true) (hm : c.portMode n = mSbus) (hat : (c.port n).sbusAt = none) :
    c.sbusPoll n reads = (Chip.sbusRun n 0 ((c.attr tyPort n 17).drop (16 * 0)) reads (c.passBegun n d)).polled n 0
      (c.attr tyPort n 17).length reads := by
  have hi : ((c.passBegun n d).port n).sbusAt = some 0 := congrArg PortSt.sbusAt (Chip.setPort_same ..)
  unfold Chip.sbusPoll
  rw [hd]
  dsimp only
  rw [if_neg (by simp [ha, hm]), hat]
  dsimp only
  unfold Chip.passBegun at hi ⊢
  rw [hi]
  rfl

theorem sbusPoll_of_running {c : Chip} {n d i : Nat} (reads : List (Option (List Byte))) (hd : (c.port n).sbusDue = some d)
    (ha : c.portActive n = true) (hm : c.portMode n = mSbus) (hat : (c.port n).sbusAt = some i) :
    c.sbusPoll n reads = (Chip.sbusRun n i ((c.attr tyPort n 17).drop (16 * i)) reads c).polled n i (c.attr tyPort n 17).length reads := by
  unfold Chip.sbusPoll
  rw [hd]
  dsimp only
  rw [if_neg (by simp [ha, hm]), hat]
  dsimp only
  rw [hat]
  rfl

theorem polled_leads {s : State} {n i : Nat} {reads : List (Option (List Byte))} {c : Chip}
    (h : s.chip.sbusPoll n reads = c.polled n i (s.chip.attr tyPort n 17).length reads) :
    ((s.chip.attr tyPort n 17).length ≤ 16 * (i + reads.length) → Leads (.sbusPoll n reads) s (c.sbusEnd n)) ∧
      (16 * (i + reads.length) < (s.chip.attr tyPort n 17).length →
        Leads (.sbusPoll n reads) s (c.setPort n { c.port n with sbusAt := some (i + reads.length) })) :=
  ⟨fun hle => Leads.of_eq rfl (h.trans (if_pos hle)), fun hlt => Leads.of_eq rfl (h.trans (if_neg (by omega)))⟩

theorem sbusStuck_of_active {c : Chip} {n : Nat} (ha : c.portActive n = true) (hm : c.portMode n = mSbus) :
    c.sbusStuck n = if (((c.sbusSend n [.ninePulses, .stop]).portCause n 0x40000).port n).sbusAt.isSome = true
      then ((c.sbusSend n [.ninePulses, .stop]).portCause n 0x40000).sbusEnd n
      else (c.sbusSend n [.ninePulses, .stop]).portCause n 0x40000 :=
  if_pos (by simp [ha, hm])

theorem sbusStuck_port (c : Chip) (n : Nat) :
    (((c.sbusSend n [.ninePulses, .stop]).portCause n 0x40000).port n).sbusAt = (c.port n).sbusAt := by
  unfold Chip.sbusSend
  rw [portCause_port_same, Chip.setPort_same]

theorem pyroSettled_of_due {c : Chip} {n d : Nat} (h : (c.port n).pyroUntil = some d) :
    c.pyroSettled n = (c.waitUntil d).setPort n { (c.waitUntil d).port n with pyroUntil := none } := by
  unfold Chip.pyroSettled
  rw [h]

theorem pyroSettled_idle {c : Chip} {n : Nat} (h : (c.port n).pyroUntil = none) : c.pyroSettled n = c := by
  unfold Chip.pyroSettled
  rw [h]

theorem checkOutputs_of_output {c : Chip} {n : Nat} (h : c.portMode n = mVout ∨ c.portMode n = mOdout) :
    c.checkOutputs n = c.setPort n { c.port n with
      staleA := (sidOf (c.attrN tyPort n 12)).bind c.noteStale, staleB := (sidOf (c.attrN tyPort n 13)).bind c.noteStale } := by
  unfold Chip.checkOutputs
  dsimp only
  rw [if_pos (by simpa using h)]
  cases sidOf (c.attrN tyPort n 12) <;> cases sidOf (c.attrN tyPort n 13) <;> rfl

theorem checkOutputs_idle {c : Chip} {n : Nat} (h : c.portMode n ≠ mVout) (h' : c.portMode n ≠ mOdout) : c.checkOutputs n = c :=
  if_neg (by simp [h, h'])

theorem openLoop_idle {c : Chip} {n : Nat} (h : c.portActive n = false ∨ c.portMode n ≠ mIin) : c.openLoop n = c :=
  if_neg (by
    rcases h with h | h
    · simp [h]
    · simp [h])

theorem sbusStuck_idle {c : Chip} {n : Nat} (h : c.portActive n = false ∨ c.portMode n ≠ mSbus) : c.sbusStuck n = c :=
  if_neg (by
    rcases h with h | h
    · simp [h]
    · simp [h])

end Sys2Proof.Machine

namespace Sys2Proof
open Machine

/-- Settles O43: each row is one case of its definition; what a cause and a retry fault leave in the ports comes from one equation of
the port each. -/
theorem portsInTime : Obligations.PortsInTime := by
  unfold Obligations.PortsInTime
  refine ⟨fun s n => ⟨?entry, ?entryIdle, ?exitIdle, ?exit, ?retry, ?retryIdle, ?meanIdle, ?overIdle, ?settleIdle, ?mean, ?retryOver, ?settled,
    ?edge, ?levelIdle, ?level, ?poll, ?pollIdle, ?stuck, ?stuckIdle, ?ends, ?pyro, ?pyroIdle, ?outIdle, ?loopIdle, ?out, ?loop⟩,
    fun c n b => ⟨?cause, ?fault⟩⟩
  case entry =>
    exact fun high low hup hp hh => ⟨fun hm hw => Leads.of_eq rfl (protectEntry_of_window hup hp hh hm hw),
      fun hm hhigh => Leads.of_eq rfl ((protectEntry_of_loop hup hp hh hm).trans (if_pos hhigh))⟩
  case entryIdle => exact fun high low h => Leads.of_eq rfl (protectEntry_idle h)
  case exitIdle => exact fun h => Leads.of_eq rfl (if_neg (by simp [h]))
  case exit =>
    intro h
    refine ⟨_, Leads.of_eq rfl (if_pos h), ?_⟩
    rw [settle_port_same, Chip.setPort_same]
    exact ⟨rfl, rfl, rfl, fun j hj => (settle_port_other _ _ hj).trans (Chip.setPort_other _ _ _ _ hj), rfl, rfl⟩
  case retry => exact fun k hup hp ha hs => Leads.of_eq rfl (retryRow_of_fault hup hp ha hs)
  case retryIdle => exact fun k h => Leads.of_eq rfl (retryRow_idle h)
  case meanIdle => exact fun current h => Leads.of_eq rfl (overloadMean_idle current h)
  case overIdle => exact fun h => Leads.of_eq rfl (retryOver_idle h)
  case settleIdle => exact fun h => Leads.of_eq rfl (congrArg (Chip.portBack n) (settled_idle h))
  case mean =>
    intro current all wide hup hm hall hwide
    have hmean := overloadMean_of_bridge hup hm hall hwide
    exact ⟨fun h => Leads.of_eq rfl (hmean.trans (if_neg (by simp [h]))), fun h => Leads.of_eq rfl (hmean.trans (if_pos h))⟩
  case retryOver =>
    intro d h
    have hframe := retryOver_keeps (.refl _) n s.chip (.refl s.chip)
    rw [retryOver_of_retry h] at hframe
    refine ⟨_, Leads.of_eq rfl (retryOver_of_retry h), Chip.le_waitUntil _ d, ?_⟩
    rw [settle_port_same, Chip.setPort_same]
    refine ⟨rfl, rfl, fun j hj => ?_, hframe.slots, hframe.attrs, hframe.groups⟩
    rw [settle_port_other _ _ hj, Chip.setPort_other _ _ _ _ hj, waitUntil_port]
  case settled =>
    intro d h
    obtain ⟨hnone, hnow, hbus⟩ := settled_port_same h
    have hframe := settled_keeps (.refl _) n s.chip (.refl s.chip)
    exact ⟨_, Leads.of_eq rfl rfl, hnow, hnone, hbus, fun j hj => settled_port_other h hj, hframe.slots, hframe.attrs, hframe.groups⟩
  case edge =>
    intro termB mv i raw hi hraw
    have hframe := dinEdge_keeps (.refl _) n termB mv s.chip (.refl s.chip)
    have hsee := dinEdge_seen s.chip n termB mv i hi
    rw [← hraw] at hsee
    refine ⟨_, Leads.of_eq rfl rfl, fun h => hsee.trans (InputSt.see_of_same _ _ _ h), fun h => hsee.trans (InputSt.see_of_edge _ _ _ h),
      fun t hb hin hr ho ht => ?_, fun hb hin hr ho => ?_, fun h => ?_, fun j hj => dinEdge_port_other _ _ _ hj, hframe.slots,
      hframe.events⟩
    · subst hb hi
      exact (dinEdge_rise hin (hraw.symm.trans hr) ho).2 t ht
    · subst hb hi
      exact (dinEdge_rise hin (hraw.symm.trans hr) ho).1
    · cases termB with
      | true =>
        rw [dinEdge_inB]
        exact ⟨rfl, rfl⟩
      | false =>
        subst hi
        exact dinEdge_noRise ((h.resolve_left (by decide)).imp_right (Or.imp_left hraw.symm.trans))
  case levelIdle => exact fun termB i hi h => Leads.of_eq rfl (debounced_idle hi h)
  case level =>
    intro termB i hin hi h
    have hrow := debounced_of_stayed hin hi h
    have hwait := Chip.waitUntil_frame (i.since + ms (s.chip.attrN tyPort n 3)) s.chip
    refine ⟨s.chip.tookLevel n termB i, Chip.le_waitUntil _ _, ?_, fun j hj => ?_, hwait.slots, fun hl hb => ?_, fun hno => ?_⟩
    · unfold Chip.tookLevel
      rw [Chip.setPort_same]
      exact takeLevel_level _ _ _
    · exact (Chip.setPort_other _ _ _ _ hj).trans (waitUntil_port _ _ j)
    · exact Leads.of_eq rfl (hrow.trans (if_pos (by simp [hl, hb])))
    · refine Leads.of_eq rfl (hrow.trans (if_neg ?_))
      rcases hno with hno | hno
      · simp [hno]
      · simp [hno]
  case poll =>
    intro d reads hd ha hm
    cases hat : (s.chip.port n).sbusAt with
    | none =>
      have hbegun : Keeps (Field.routed ||| Field.clk ||| Field.slots ||| Field.produced ||| Field.slotWrites ||| Field.rtc ||| Field.ports |||
          Field.zones ||| Field.staleWrites) s.chip (s.chip.passBegun n d) :=
        setPort_keeps (.of rfl) _ _ _ (waitUntil_keeps (.of rfl) d s.chip (.refl s.chip))
      have hrun := sbusRun_keeps (.refl _) n 0 ((s.chip.attr tyPort n 17).drop (16 * 0)) reads _ hbegun
      exact ⟨0, s.chip.passBegun n d, _, fun _ => ⟨rfl, Chip.le_waitUntil _ d, rfl⟩, fun m h => (nomatch h), rfl, hrun.attrs, hrun.groups,
        polled_leads (sbusPoll_of_new reads hd ha hm hat)⟩
    | some i =>
      have hrun := sbusRun_keeps (.refl _) n i ((s.chip.attr tyPort n 17).drop (16 * i)) reads s.chip (.refl s.chip)
      exact ⟨i, s.chip, _, fun h => (nomatch h), fun m h => ⟨Option.some.inj h, rfl⟩, rfl, hrun.attrs, hrun.groups,
        polled_leads (sbusPoll_of_running reads hd ha hm hat)⟩
  case pollIdle => exact fun reads h => Leads.of_eq rfl (sbusPoll_idle reads h)
  case stuck =>
    intro ha hm
    have hrow := sbusStuck_of_active ha hm
    rw [sbusStuck_port] at hrow
    exact ⟨_, rfl, sbusStuck_port _ _, fun h => Leads.of_eq rfl (hrow.trans (if_pos h)),
      fun h => Leads.of_eq rfl (hrow.trans (if_neg (by simp [h])))⟩
  case stuckIdle => exact fun h => Leads.of_eq rfl (sbusStuck_idle h)
  case ends =>
    intro c
    unfold Chip.sbusEnd
    dsimp only
    rw [Chip.setPort_same]
    exact ⟨rfl, rfl⟩
  case pyro =>
    intro d h
    have hframe := Chip.waitUntil_frame d s.chip
    refine ⟨_, Leads.of_eq rfl (pyroSettled_of_due h), Chip.le_waitUntil _ d, ?_,
      fun j hj => (Chip.setPort_other _ _ _ _ hj).trans (waitUntil_port _ _ j), hframe.slots, hframe.attrs⟩
    rw [Chip.setPort_same]
  case pyroIdle => exact fun h => Leads.of_eq rfl (pyroSettled_idle h)
  case outIdle => exact fun h h' => Leads.of_eq rfl (checkOutputs_idle h h')
  case loopIdle => exact fun h => Leads.of_eq rfl (openLoop_idle h)
  case out => exact fun h => Leads.of_eq rfl (checkOutputs_of_output h)
  case loop => exact fun ha hm => Leads.of_eq rfl (if_pos (by simp [ha, hm]))
  case cause =>
    have hframe := portCause_frame n b c
    refine ⟨?_, fun j hj => portCause_port_other c b hj, hframe.slots, hframe.attrs, hframe.groups, hframe.motors⟩
    rw [portCause_port_same]
  case fault =>
    intro times htimes
    obtain ⟨hfaults, hretry, hlatched⟩ := retryFault_port_same n b c
    have hlength : (c.retried n).faultTimes = times := htimes.symm
    rw [hretry, hlatched]
    refine ⟨hfaults.trans hlength, retried_of_held, fun h => ?_, fun h => ?_, fun j hj => retryFault_port_other c b hj⟩
    · exact hlength ▸ (retried_of_free h).1
    · exact hlength ▸ (retried_of_free h).2

end Sys2Proof
end

section
-- One proof after another: side by side, the stacks of their threads reach the check's limit of memory.
set_option Elab.async false
/-! The sampler in time (spec/05): passes, results, equalisation, housekeeping, and a motor's lost ripple. -/

namespace Sys2Proof.Machine

/-! ### Passes -/

theorem passDue_of_due {c : Chip} {h d : Nat} {left : List Nat} {n : Half} (hne : (c.seq h).dues ≠ []) (hd : some d = (c.seq h).dues.min?)
    (hleft : left = (c.seq h).dues.erase d ++
      (if seTrig (c.seq h).live.ctl = 0 ∧ (c.seq h).armed = true then [d + (c.seq h).live.period] else []))
    (hn : n = if (c.seq h).overruns = 0xFFFF then (c.seq h).overruns else (c.seq h).overruns + 1) :
    c.passDue h = if (c.passRuns h d || (c.seq h).waiting.isSome) = true
      then ((c.waitUntil d).setSeq h { c.seq h with dues := left, overruns := n }).fire 33
        (h + 256 * b2n (c.seq h).waiting.isSome + 65536 * n.toNat)
      else (c.waitUntil d).setSeq h { c.seq h with dues := left, waiting := some d } := by
  have hleft' : left = (c.seq h).dues.erase d ++
      (if (seTrig (c.seq h).live.ctl == 0 && (c.seq h).armed) = true then [d + (c.seq h).live.period] else []) := by
    simpa using hleft
  unfold Chip.passDue
  dsimp only
  cases hdues : (c.seq h).dues with
  | nil => exact absurd hdues hne
  | cons d0 rest =>
    rw [hdues] at hd hleft'
    have hmin : d = rest.foldl min d0 := Option.some.inj hd
    dsimp only
    rw [← hmin, ← hleft', hn]

theorem passDue_idle {c : Chip} {h : Nat} (hdues : (c.seq h).dues = []) : c.passDue h = c := by
  unfold Chip.passDue
  dsimp only
  rw [hdues]

/-- A pass of the sequence headed by `h` that waited since `d` starts at `start` with the settings `set`. -/
def Chip.startedPass (h d first start : Nat) (set : SeqSet) (c : Chip) : Chip :=
  ((c.waitUntil start).setSeq h { c.seq h with
    waiting := none, armed := (c.seq h).armed && seTrig set.ctl != 2, live := set, changes := (c.seq h).later first
    dues := (c.seq h).live.duesAfter set d (c.seq h).dues }).setSampler (fun m => { m with
      passes := m.passes ++
        [⟨h, set.ctl, start, start + (set.entries.map (fun e => entryTime set.ctl e.2)).sum, seSlices set.ctl⟩]
      dues := m.dues ++ resultsFrom h set.ctl set.entries start
      busySince := (List.range 4).map (fun i =>
        if (seSlices set.ctl).contains i && m.busyUntil.getD i 0 + 40 ≤ start then start else m.busySince.getD i 0)
      busyUntil := (List.range 4).map (fun i => if (seSlices set.ctl).contains i
        then start + (set.entries.map (fun e => entryTime set.ctl e.2)).sum else m.busyUntil.getD i 0) })

theorem passStart_of_waiting {c : Chip} {h d first : Nat} {set : SeqSet} (hw : (c.seq h).waiting = some d)
    (hfirst : first = c.slicesFree (seSlices ((c.seq h).settings (max d c.clk.now)).ctl) (max d c.clk.now))
    (hset : set = (c.seq h).settings first) :
    c.passStart h = if (c.outranked h d (seSlices set.ctl) || c.islandHeld) = true then c
      else if (!seHead set.ctl) = true
        then c.setSeq h { c.seq h with armed := false, dues := [], waiting := none, live := set, changes := [] }
        else c.startedPass h d first (c.slicesFree (seSlices set.ctl) first) set := by
  unfold Chip.passStart
  dsimp only
  rw [hw]
  dsimp only
  rw [← hfirst, ← hset]
  rfl

theorem passStart_idle {c : Chip} {h : Nat} (hw : (c.seq h).waiting = none) : c.passStart h = c := by
  unfold Chip.passStart
  dsimp only
  rw [hw]

theorem waitUntil_sampler (c : Chip) (t : Nat) : (c.waitUntil t).sampler = c.sampler := (Chip.waitUntil_frame t c).sampler

theorem waitUntil_seq (c : Chip) (t h : Nat) : (c.waitUntil t).seq h = c.seq h :=
  congrArg (fun m : SamplerSt => Tbl.get dSeq m.seqs h) (waitUntil_sampler c t)

theorem startedPass_frame (h d first start : Nat) (set : SeqSet) (c : Chip) :
    Keeps (Field.clk ||| Field.rtc ||| Field.sampler) c (c.startedPass h d first start set) :=
  setSampler_keeps (.of rfl) _ _ (setSeq_keeps (.of rfl) _ _ _ (waitUntil_keeps (.of rfl) start c (.refl c)))

theorem startedPass_seq (h d first start : Nat) (set : SeqSet) (c : Chip) :
    (c.startedPass h d first start set).seq h = { c.seq h with
      waiting := none, armed := (c.seq h).armed && seTrig set.ctl != 2, live := set, changes := (c.seq h).later first
      dues := (c.seq h).live.duesAfter set d (c.seq h).dues } :=
  Chip.setSeq_same ..

theorem startedPass_sampler (h d first start : Nat) (set : SeqSet) (c : Chip) :
    (c.startedPass h d first start set).sampler.passes = c.sampler.passes ++
        [⟨h, set.ctl, start, start + (set.entries.map (fun e => entryTime set.ctl e.2)).sum, seSlices set.ctl⟩] ∧
      (c.startedPass h d first start set).sampler.dues = c.sampler.dues ++ resultsFrom h set.ctl set.entries start ∧
      (c.startedPass h d first start set).sampler.results = c.sampler.results := by
  rw [← waitUntil_sampler c start]
  exact ⟨rfl, rfl, rfl⟩

/-- The pass `p` of head `h` has ended. -/
def Chip.passOver (h : Nat) (p : PassSt) (c : Chip) : Chip :=
  let s := (c.waitUntil p.ends).seq h
  ((c.waitUntil p.ends).setSampler (fun m => { m with passes := m.passes.filter (fun q => q.head != h) })).setSeq h { s with
    passes := s.passes + 1, lastPass := BitVec.ofNat 32 (p.ends - p.start + 10)
    dues := if s.armed && seTrig s.live.ctl == 3 then s.dues ++ [p.ends] else s.dues, stopCmd := none }

theorem passOver_seq (h : Nat) (p : PassSt) (c : Chip) :
    ((c.passOver h p).seq h).passes = (c.seq h).passes + 1 ∧ ((c.passOver h p).seq h).lastPass = BitVec.ofNat 32 (p.ends - p.start + 10) ∧
      ((c.passOver h p).seq h).stopCmd = none := by
  unfold Chip.passOver
  dsimp only
  rw [Chip.setSeq_same, waitUntil_seq]
  exact ⟨rfl, rfl, rfl⟩

theorem passOver_frame (h : Nat) (p : PassSt) (c : Chip) : Keeps (Field.clk ||| Field.rtc ||| Field.sampler) c (c.passOver h p) :=
  setSeq_keeps (.of rfl) _ _ _ (setSampler_keeps (.of rfl) _ _ (waitUntil_keeps (.of rfl) p.ends c (.refl c)))

theorem passOver_sampler (h : Nat) (p : PassSt) (c : Chip) :
    (c.passOver h p).sampler.passes = c.sampler.passes.filter (fun q => q.head != h) ∧
      (c.passOver h p).sampler.results = c.sampler.results := by
  rw [← waitUntil_sampler c p.ends]
  exact ⟨rfl, rfl⟩

/-- A pass's end told by E32, where its settings ask. -/
def Chip.passTold (h : Nat) (p : PassSt) (c : Chip) : Chip :=
  if bit p.ctl 11 then (c.passOver h p).fire 32 (h + 65536 * (((c.seq h).passes + 1).toNat % 65536)) else c.passOver h p

theorem passEnd_of_pass {c : Chip} {h : Nat} {p : PassSt} (hp : c.sampler.passes.find? (fun p => p.head == h) = some p) :
    ((c.seq h).stopCmd = none → c.passEnd h = c.passTold h p) ∧
      ∀ x t, (c.seq h).stopCmd = some (x, t) → c.passEnd h = (c.passTold h p).finishTag x t stOK noOfs [] := by
  refine ⟨fun hstop => ?_, fun x t hstop => ?_⟩
  · unfold Chip.passEnd
    rw [hp]
    dsimp only
    rw [waitUntil_seq, hstop]
    unfold Chip.passTold Chip.passOver
    rw [waitUntil_seq]
  · unfold Chip.passEnd
    rw [hp]
    dsimp only
    rw [waitUntil_seq, hstop]
    unfold Chip.passTold Chip.passOver
    rw [waitUntil_seq]

theorem passEnd_idle {c : Chip} {h : Nat} (hp : c.sampler.passes.find? (fun p => p.head == h) = none) : c.passEnd h = c := by
  unfold Chip.passEnd
  rw [hp]

/-! ### Results -/

theorem conversion_idle {c : Chip} {e : Nat} (codes : List Nat) (high low : Bool) (band cur : Int) (skew : List (Nat × Int))
    (h : c.sampler.dues.find? (fun r => r.entry == e) = none) : c.conversion e codes high low band cur skew = c := by
  unfold Chip.conversion
  rw [h]

/-- The result `r` is taken from those due, and the skews that came with it are taken. -/
def Chip.arrived (r : ResultDue) (skew : List (Nat × Int)) (c : Chip) : Chip :=
  ((c.waitUntil r.arrive).setSampler (fun m => { m with dues := m.dues.erase r })).trimSkew r.ctl skew

theorem arrived_frame (r : ResultDue) (skew : List (Nat × Int)) (c : Chip) :
    Keeps (Field.routed ||| Field.clk ||| Field.rtc ||| Field.sampler) c (c.arrived r skew) :=
  trimSkew_keeps (.of rfl) _ _ _ (setSampler_keeps (.of rfl) _ _ (waitUntil_keeps (.of rfl) r.arrive c (.refl c)))

theorem arrived_now (r : ResultDue) (skew : List (Nat × Int)) (c : Chip) : r.arrive ≤ (c.arrived r skew).clk.now := by
  have hclk := (trimSkew_keeps (.refl _) r.ctl skew ((c.waitUntil r.arrive).setSampler (fun m => { m with dues := m.dues.erase r }))
    (.refl _)).clk
  unfold Chip.arrived
  rw [hclk]
  exact Chip.le_waitUntil c r.arrive

theorem arrived_channelAbsent (r : ResultDue) (skew : List (Nat × Int)) (c : Chip) (ch : Nat) :
    (c.arrived r skew).channelAbsent ch = c.channelAbsent ch := by
  unfold Chip.channelAbsent
  rw [(arrived_frame r skew c).fuses]

theorem goodResult_frame (r : ResultDue) (codes : List Nat) (high low : Bool) (c : Chip) :
    Keeps (Field.routed ||| Field.clk ||| Field.slots ||| Field.produced ||| Field.slotWrites ||| Field.rtc ||| Field.ports |||
      Field.sampler ||| Field.zones ||| Field.staleWrites ||| Field.freeCount) c (c.goodResult r codes high low) :=
  goodResult_keeps (.refl _) r codes high low c (.refl c)

theorem Keeps.portMode_eq {fs : Nat} {c d : Chip} (h : Keeps fs c d) (hn : fs.testBit 5 = false) (n : Nat) : d.portMode n = c.portMode n := by
  have hcfg : d.attrN tyPort n 1 = c.attrN tyPort n 1 := congrArg leNat (h.attr_eq hn tyPort n 1)
  unfold Chip.portMode Chip.portCfg
  rw [hcfg]

theorem arrived_goodResult_portMode (r : ResultDue) (skew : List (Nat × Int)) (codes : List Nat) (high low : Bool) (c : Chip) (n : Nat) :
    ((c.arrived r skew).goodResult r codes high low).portMode n = c.portMode n :=
  ((goodResult_frame r codes high low _).portMode_eq rfl n).trans ((arrived_frame r skew c).portMode_eq rfl n)

theorem conversion_of_due {c : Chip} {e : Nat} {codes : List Nat} {high low : Bool} {band cur : Int} {skew : List (Nat × Int)} {r : ResultDue}
    (h : c.sampler.dues.find? (fun r => r.entry == e) = some r) :
    c.conversion e codes high low band cur skew = if (codes.length != 2 ^ seAvg r.word) = true then c
      else if c.channelAbsent (seCh r.word) = true then (c.arrived r skew).absentResult r
      else if (decide (seCh r.word < 64) && seCh r.word % 2 == 0 && c.portMode (seCh r.word / 2) == mHbridge &&
          ((c.arrived r skew).goodResult r codes high low).motorBound (seCh r.word / 2)) = true
        then (((c.arrived r skew).goodResult r codes high low).countRipple (seCh r.word / 2) band cur).checkLead (seCh r.word / 2)
        else (c.arrived r skew).goodResult r codes high low := by
  rw [← arrived_channelAbsent r skew c, ← arrived_goodResult_portMode r skew codes high low c]
  unfold Chip.conversion
  rw [h]
  rfl

theorem produce_sampler (sid : Nat) (v st : Word) (q p : Half) (c : Chip) : (c.produce sid v st q p).sampler = c.sampler :=
  (produce_keeps (.refl _) sid v st q p c (.refl c)).sampler

theorem rangeEvent_sampler (e ch : Nat) (ovr unr : Bool) (c : Chip) : (c.rangeEvent e ch ovr unr).sampler = c.sampler :=
  (rangeEvent_keeps (.refl _) e ch ovr unr c (.refl c)).sampler

theorem resultCauses_sampler (ch : Nat) (o s : Bool) (v : Int) (c : Chip) : (c.resultCauses ch o s v).sampler = c.sampler :=
  (resultCauses_keeps (.refl _) ch o s v c (.refl c)).sampler

/-- What a present channel's result leaves in the sampler: its value with its marks. -/
theorem goodResult_sampler (r : ResultDue) (codes : List Nat) (high low : Bool) (c : Chip) :
    ∃ ovr unr calx fresh : Bool, (high = true → ovr = true) ∧ (low = true → unr = true) ∧
      (c.goodResult r codes high low).sampler = (c.putResult r.entry
        (c.codeOf (averageOf 1 (codes.map (fun x => min x 4095)).sum codes.length) ovr unr) ovr unr calx fresh r.stamp).sampler := by
  unfold Chip.goodResult
  extract_lets ch sc range sum c16 val f ok ovr unr calx c1 v q c2 c3
  refine ⟨ovr, unr, calx, ok && !(ovr && unr), fun h => ?_, fun h => ?_, ?_⟩
  · simp [ovr, h]
  · simp [unr, h]
  · have h1 : c1.sampler = (c.putResult r.entry (c.codeOf (averageOf 1 sum codes.length) ovr unr) ovr unr calx (ok && !(ovr && unr))
        r.stamp).sampler := rfl
    have h2 : c2.sampler = c1.sampler := by
      unfold c2
      split
      · exact produce_sampler _ _ _ _ _ _
      · rfl
    have h3 : c3.sampler = c1.sampler := (rangeEvent_sampler _ _ _ _ _).trans h2
    split
    · exact (resultCauses_sampler _ _ _ _ _).trans (h3.trans h1)
    · exact h3.trans h1

/-! ### Equalisation and housekeeping -/

theorem takeSlots_sampler {c c1 : Chip} {slice t periods : Nat} (h : c.takeSlots slice t periods = some c1) :
    c1.sampler.results = c.sampler.results ∧ c1.sampler.codes = c.sampler.codes := by
  unfold Chip.takeSlots at h
  split at h
  · rw [← Option.some.inj h]
    exact ⟨rfl, rfl⟩
  · split at h
    · rw [← Option.some.inj h]
      exact ⟨rfl, rfl⟩
    · cases h

theorem trimTo_sampler (q slice lim : Nat) (old want : Int) (c : Chip) : (c.trimTo q slice lim old want).2.sampler = c.sampler :=
  (trimTo_keeps (.refl _) q slice lim old want c (.refl c)).sampler

/-- The gain that an equalisation gives a slice (R183; its formula: log entry 80). -/
def equalGain (aim : Nat × Nat) (ref base : Nat) : Int :=
  if (ref : Int) - base == 0 then 0 else divr ((((aim.1 : Int) - aim.2) - ((ref : Int) - base)) * 1000000) ((ref : Int) - base)

theorem equaliseSlice_sampler {slice : Nat} (ref base : Nat) (c : Chip) (h : slice ≠ 0) :
    (c.equaliseSlice slice ref base).sampler = { c.sampler with
      offsets := c.sampler.offsets.set (slice - 1) (clampI (-512) 512 (16 * ((c.sampler.eqRef.2 : Int) - base)))
      gains := c.sampler.gains.set (slice - 1) (clampI (-20000) 20000 (equalGain c.sampler.eqRef ref base)) } := by
  unfold Chip.equaliseSlice
  rw [if_neg (by simpa using h)]
  unfold Chip.setSampler
  dsimp only
  rw [trimTo_sampler, trimTo_sampler]
  rfl

theorem equaliseSlice_reference (ref base : Nat) (c : Chip) :
    (c.equaliseSlice 0 ref base).sampler = { c.sampler with eqRef := (ref, base) } := rfl

/-- Whatever slice is equalised, its trims and the reference alone change in the sampler. -/
theorem equaliseSlice_rest (slice ref base : Nat) (c : Chip) :
    (c.equaliseSlice slice ref base).sampler.results = c.sampler.results ∧ (c.equaliseSlice slice ref base).sampler.codes = c.sampler.codes ∧
      (c.equaliseSlice slice ref base).sampler.eqDue = c.sampler.eqDue ∧ (c.equaliseSlice slice ref base).sampler.hkDue = c.sampler.hkDue := by
  by_cases hs : slice = 0
  · subst hs
    exact ⟨rfl, rfl, rfl, rfl⟩
  · rw [equaliseSlice_sampler ref base c hs]
    exact ⟨rfl, rfl, rfl, rfl⟩

/-- A slot of `slice` was taken for its equalisation, which is next due 10 ms later. -/
def Chip.equaliseDue (slice due : Nat) (c : Chip) : Chip :=
  c.setSampler (fun m => { m with eqDue := Tbl.set dZero m.eqDue slice (due + ms 10) })

theorem equalise_of_slots {c c1 : Chip} {slice : Nat} (ref base : Nat) (hs : slice < 3) (hh : c.islandHeld = false)
    (ht : (c.waitUntil (Tbl.get dZero c.sampler.eqDue slice)).takeSlots slice (ms 10) 80 = some c1) :
    c.equalise slice ref base =
      (c1.equaliseDue slice (Tbl.get dZero c.sampler.eqDue slice)).equaliseSlice slice (min ref 4095) (min base 4095) := by
  unfold Chip.equalise
  rw [if_neg (by simp [hh]; omega)]
  dsimp only
  rw [ht]
  rfl

theorem equalise_idle {c : Chip} {slice : Nat} (ref base : Nat) (h : 3 ≤ slice ∨ c.islandHeld = true ∨
      (c.waitUntil (Tbl.get dZero c.sampler.eqDue slice)).takeSlots slice (ms 10) 80 = none) : c.equalise slice ref base = c := by
  unfold Chip.equalise
  split
  · rfl
  · rename_i hno
    rcases h with h | h | h
    · simp [h] at hno
    · simp [h] at hno
    · dsimp only
      rw [h]

theorem monitor_sampler (ch code : Nat) (c : Chip) : (c.monitor ch code).sampler = c.sampler :=
  (monitor_keeps (.refl _) ch code c (.refl c)).sampler

/-- A slot of ADC3 was taken for channel `ch`, which is next due one of its periods later. -/
def Chip.housekept (ch code due : Nat) (c : Chip) : Chip :=
  (c.setSampler (fun m => { m with
    hkDue := Tbl.set dZero m.hkDue ch (due + hkPeriod ch), codes := Tbl.set dZero m.codes ch (min code 4095) })).monitor ch (min code 4095)

theorem housekeeping_of_slots {c c1 : Chip} {ch : Nat} (code : Nat) (hch : 64 ≤ ch) (ha : c.channelAbsent ch = false)
    (hh : c.islandHeld = false) (ht : (c.waitUntil (Tbl.get dZero c.sampler.hkDue ch)).takeSlots 3 (ms 1) 40 = some c1) :
    c.housekeeping ch code = if (ch == 78) = true
      then (c1.housekept ch code (Tbl.get dZero c.sampler.hkDue ch)).equaliseSlice 3
        (Tbl.get dZero (c1.housekept ch code (Tbl.get dZero c.sampler.hkDue ch)).sampler.codes 77) (min code 4095)
      else c1.housekept ch code (Tbl.get dZero c.sampler.hkDue ch) := by
  unfold Chip.housekeeping
  rw [if_neg (by simp only [ha, hh, Bool.or_false, decide_eq_true_eq]; omega)]
  dsimp only
  rw [ht]
  rfl

theorem housekeeping_idle {c : Chip} {ch : Nat} (code : Nat) (h : ch < 64 ∨ c.channelAbsent ch = true ∨ c.islandHeld = true ∨
      (c.waitUntil (Tbl.get dZero c.sampler.hkDue ch)).takeSlots 3 (ms 1) 40 = none) : c.housekeeping ch code = c := by
  unfold Chip.housekeeping
  split
  · rfl
  · rename_i hno
    rcases h with h | h | h | h
    · simp [h] at hno
    · simp [h] at hno
    · simp [h] at hno
    · dsimp only
      rw [h]

theorem housekept_sampler (ch code due : Nat) (c : Chip) : (c.housekept ch code due).sampler = { c.sampler with
    hkDue := Tbl.set dZero c.sampler.hkDue ch (due + hkPeriod ch), codes := Tbl.set dZero c.sampler.codes ch (min code 4095) } :=
  monitor_sampler _ _ _

/-- What housekeeping leaves in the sampler, slice 3 equalised or not. -/
theorem housekeeping_sampler {c c1 : Chip} {ch : Nat} (code : Nat) (hch : 64 ≤ ch) (ha : c.channelAbsent ch = false)
    (hh : c.islandHeld = false) (ht : (c.waitUntil (Tbl.get dZero c.sampler.hkDue ch)).takeSlots 3 (ms 1) 40 = some c1) :
    (c.housekeeping ch code).sampler.codes = Tbl.set dZero c1.sampler.codes ch (min code 4095) ∧
      (c.housekeeping ch code).sampler.hkDue = Tbl.set dZero c1.sampler.hkDue ch (Tbl.get dZero c.sampler.hkDue ch + hkPeriod ch) ∧
      (c.housekeeping ch code).sampler.results = c1.sampler.results := by
  have hkept := housekept_sampler ch code (Tbl.get dZero c.sampler.hkDue ch) c1
  rw [housekeeping_of_slots code hch ha hh ht]
  split
  · obtain ⟨hresults, hcodes, -, hdue⟩ := equaliseSlice_rest 3
      (Tbl.get dZero (c1.housekept ch code (Tbl.get dZero c.sampler.hkDue ch)).sampler.codes 77) (min code 4095)
      (c1.housekept ch code (Tbl.get dZero c.sampler.hkDue ch))
    rw [hresults, hcodes, hdue, hkept]
    exact ⟨rfl, rfl, rfl⟩
  · rw [hkept]
    exact ⟨rfl, rfl, rfl⟩

/-! ### A motor's lost ripple -/

theorem rippleLost_of_motion {c : Chip} {n : Nat} {mv : Move} (hmv : (c.motor n).move = some mv) (hp : mv.phase = .drive)
    (hin : c.inMotion n = true) :
    c.rippleLost n = ((c.waitUntil (c.quietSince n (c.motor n).crossedAt mv + max (ms 100) (10 * sec 1 / (c.motorCfg n).fMin))).losePosition n 2
      2).valveFault n 4 false := by
  unfold Chip.rippleLost
  dsimp only
  rw [hmv]
  exact if_pos (by simp [hp, hin])

theorem rippleLost_idle {c : Chip} {n : Nat} (h : (∀ mv, (c.motor n).move = some mv → mv.phase ≠ .drive) ∨ c.inMotion n = false) :
    c.rippleLost n = c := by
  unfold Chip.rippleLost
  dsimp only
  cases hmv : (c.motor n).move with
  | none => rfl
  | some mv =>
    refine if_neg ?_
    rcases h with h | h
    · simp [h mv hmv]
    · simp [h]

end Sys2Proof.Machine

namespace Sys2Proof
open Machine

/-- Settles O44: one equation per row; in the sampler a result, an equalisation and a housekeeping conversion change what they name. -/
theorem passesRunAndConvert : Obligations.PassesRunAndConvert := by
  unfold Obligations.PassesRunAndConvert
  intro s h
  refine ⟨?due, ?dueIdle, ?start, ?startIdle, ?result, ?resultIdle, ?good, ?ends, ?endIdle, ?eqIdle, ?eq, ?hkIdle, ?hk, ?ripple, ?rippleIdle⟩
  case due =>
    intro d left n hne hd hleft hn
    have hrow := passDue_of_due hne hd hleft hn
    exact ⟨fun h => Leads.of_eq rfl (hrow.trans (if_neg (by simp [h]))), fun h => Leads.of_eq rfl (hrow.trans (if_pos h))⟩
  case dueIdle => exact fun h => Leads.of_eq rfl (passDue_idle h)
  case start =>
    intro d first set hw hfirst hset
    have hrow := passStart_of_waiting hw hfirst hset
    refine ⟨fun h => ?_, fun hout hheld hhead => ?_, fun start hout hheld hhead hstart => ?_⟩
    · exact Leads.of_eq rfl (hrow.trans (if_pos (by simpa using h)))
    · exact Leads.of_eq rfl (hrow.trans ((if_neg (by simp [hout, hheld])).trans (if_pos (by simp [hhead]))))
    · rw [← hstart] at hrow
      obtain ⟨hpasses, hdues, hresults⟩ := startedPass_sampler h d first start set s.chip
      refine ⟨_, Leads.of_eq rfl (hrow.trans ((if_neg (by simp [hout, hheld])).trans (if_neg (by simp [hhead])))),
        Chip.le_waitUntil _ start, ?_, ?_, ?_, hpasses, hdues, hresults, .of_keeps (startedPass_frame h d first start set s.chip)⟩
      · rw [startedPass_seq]
      · rw [startedPass_seq]
      · rw [startedPass_seq]
  case startIdle => exact fun h => Leads.of_eq rfl (passStart_idle h)
  case result =>
    intro e codes high low band cur skew r hr
    have hrow := conversion_of_due (codes := codes) (high := high) (low := low) (band := band) (cur := cur) (skew := skew) hr
    refine ⟨fun hlen => Leads.of_eq rfl (hrow.trans (if_pos (by simpa using hlen))), fun hlen => ?_⟩
    have hgood := hrow.trans (if_neg (by simp [hlen]))
    refine ⟨_, rfl, arrived_now r skew s.chip, .of_keeps (arrived_frame r skew s.chip), fun ha => ?_, fun ha hno => ?_,
      fun ha hlt heven hmode hmotor => ?_⟩
    · exact Leads.of_eq rfl (hgood.trans (if_pos ha))
    · refine Leads.of_eq rfl (hgood.trans ((if_neg (by simp [ha])).trans (if_neg ?_)))
      simp only [Bool.and_eq_true, decide_eq_true_eq, beq_iff_eq, and_assoc]
      exact hno
    · refine Leads.of_eq rfl (hgood.trans ((if_neg (by simp [ha])).trans (if_pos ?_)))
      simp only [Bool.and_eq_true, decide_eq_true_eq, beq_iff_eq, and_assoc]
      exact ⟨hlt, heven, hmode, hmotor⟩
  case resultIdle => exact fun e codes high low band cur skew h => Leads.of_eq rfl (conversion_idle _ _ _ _ _ _ h)
  case good =>
    intro c r codes high low
    obtain ⟨ovr, unr, calx, fresh, hhigh, hlow, hsampler⟩ := goodResult_sampler r codes high low c
    refine ⟨ovr, unr, calx, fresh, hhigh, hlow, hsampler, fun ho hu => ?_, fun ho hu => ?_⟩
    · subst ho hu
      rfl
    · subst ho hu
      rfl
  case ends =>
    intro p hp
    obtain ⟨hnone, hsome⟩ := passEnd_of_pass hp
    obtain ⟨hpasses, hlast, hstop⟩ := passOver_seq h p s.chip
    obtain ⟨hleft, hresults⟩ := passOver_sampler h p s.chip
    exact ⟨s.chip.passOver h p, s.chip.passTold h p, Chip.le_waitUntil _ p.ends, hpasses, hlast, hstop, hleft, hresults,
      .of_keeps (passOver_frame h p s.chip), fun hb => if_pos hb, fun hb => if_neg (by simp [hb]),
      fun h => Leads.of_eq rfl (hnone h), fun x t h => Leads.of_eq rfl (hsome x t h)⟩
  case endIdle => exact fun h => Leads.of_eq rfl (passEnd_idle h)
  case eqIdle => exact fun slice ref base h => Leads.of_eq rfl (equalise_idle ref base h)
  case eq =>
    intro slice ref base c hslice hheld ht
    have hframe := equalise_keeps (.refl _) slice ref base s.chip (.refl s.chip)
    obtain ⟨hresults, -, hdue, -⟩ := equaliseSlice_rest slice (min ref 4095) (min base 4095)
      (c.equaliseDue slice (Tbl.get dZero s.chip.sampler.eqDue slice))
    have hkept : c.sampler.results = s.chip.sampler.results := (takeSlots_sampler ht).1.trans (congrArg _ (waitUntil_sampler _ _))
    rw [equalise_of_slots ref base hslice hheld ht] at hframe
    refine ⟨_, Leads.of_eq rfl (equalise_of_slots ref base hslice hheld ht), .of_keeps hframe, hresults.trans hkept, ?_, fun hz => ?_,
      fun gain hz hgain => ?_⟩
    · rw [hdue]
      exact Tbl.get_set_same dZero c.sampler.eqDue slice (Tbl.get dZero s.chip.sampler.eqDue slice + ms 10)
    · subst hz
      rw [equaliseSlice_reference]
      exact ⟨rfl, rfl, rfl⟩
    · have hsame : gain = equalGain c.sampler.eqRef (min ref 4095) (min base 4095) := by
        rw [hgain]
        unfold equalGain
        by_cases hspan : min ref 4095 = min base 4095
        · rw [if_pos hspan, if_pos (beq_iff_eq.mpr (by omega))]
        · rw [if_neg hspan, if_neg (by rw [beq_iff_eq]; omega)]
      rw [equaliseSlice_sampler _ _ _ hz, hsame]
      exact ⟨rfl, rfl, rfl⟩
  case hkIdle => exact fun ch code h => Leads.of_eq rfl (housekeeping_idle code h)
  case hk =>
    intro ch code c hch ha hheld ht
    have hframe := housekeeping_keeps (.refl _) ch code s.chip (.refl s.chip)
    obtain ⟨hcodes, hdue, hresults⟩ := housekeeping_sampler code hch ha hheld ht
    obtain ⟨hresults', hcodes'⟩ := takeSlots_sampler ht
    rw [waitUntil_sampler] at hresults' hcodes'
    refine ⟨_, Leads.of_eq rfl rfl, ?_, fun j hj => ?_, ?_, hresults.trans hresults', .of_keeps hframe⟩
    · rw [hcodes, Tbl.get_set_same]
    · rw [hcodes, Tbl.get_set_other _ _ _ _ _ hj, hcodes']
    · rw [hdue, Tbl.get_set_same]
      unfold hkPeriod
      simp only [Bool.and_eq_true, decide_eq_true_eq]
  case ripple => exact fun mv hmv hp hin => Leads.of_eq rfl (rippleLost_of_motion hmv hp hin)
  case rippleIdle => exact fun h => Leads.of_eq rfl (rippleLost_idle h)

end Sys2Proof
end

section
-- One proof after another: side by side, the stacks of their threads reach the check's limit of memory.
set_option Elab.async false
/-! Dampers and valves in time (spec/07): touches, stops, dwells, re-homing, targets and ends of drive. -/

namespace Sys2Proof.Machine

theorem waitUntil_motor (c : Chip) (t n : Nat) : (c.waitUntil t).motor n = c.motor n := (Chip.waitUntil_frame t c).motor_eq rfl n

theorem waitUntil_valve (c : Chip) (t n : Nat) : (c.waitUntil t).valve n = c.valve n := (Chip.waitUntil_frame t c).valve_eq rfl n

theorem waitUntil_attrN (c : Chip) (t ty i a : Nat) : (c.waitUntil t).attrN ty i a = c.attrN ty i a :=
  congrArg leNat ((Chip.waitUntil_frame t c).attr_eq rfl ty i a)

/-! ### A leg that drives -/

theorem touch_below {c : Chip} {n : Nat} {mv : Move} (hmv : (c.motor n).move = some mv)
    (h : (c.motor n).current.natAbs < (c.motorCfg n).stopI) : c.touch n = c := by
  unfold Chip.touch
  dsimp only
  rw [hmv]
  exact if_pos (by simp [h])

theorem touch_of_drive {c : Chip} {n : Nat} {mv : Move} (hmv : (c.motor n).move = some mv) (hp : mv.phase = .drive)
    (h : (c.motorCfg n).stopI ≤ (c.motor n).current.natAbs) {w : Chip}
    (hw : w = c.waitUntil (c.quietSince n (c.motor n).stallAt mv + ms (c.motorCfg n).stopMs)) :
    c.touch n = if w.touchAccepted n mv.opening = true
      then (w.acceptTouch n mv.opening).2.afterTouch n mv (w.acceptTouch n mv.opening).1
      else ((w.latchMotor n true).endMove n 1).valveFault n 3 true := by
  unfold Chip.touch
  dsimp only
  rw [hmv]
  dsimp only
  rw [if_neg (by simp only [hp, Bool.or_eq_true, decide_eq_true_eq]; simpa using h), ← hw]

theorem touch_idle {c : Chip} {n : Nat} (h : ∀ mv, (c.motor n).move = some mv → mv.phase ≠ .drive) : c.touch n = c := by
  unfold Chip.touch
  dsimp only
  cases hmv : (c.motor n).move with
  | none => rfl
  | some mv => exact if_pos (by simp [h mv hmv])

/-- An accepted touch: the position is known, and it is that of the stop. -/
theorem acceptTouch_motor (c : Chip) (n : Nat) (opening : Bool) : ((c.acceptTouch n opening).2.motor n).known = true ∧
    ((c.acceptTouch n opening).2.motor n).count = if opening then (((c.acceptTouch n opening).2.motor n).cps : Int) else 0 := by
  unfold Chip.acceptTouch
  dsimp only
  rw [Chip.fire_motor, Chip.setMotor_same]
  exact ⟨rfl, rfl⟩

theorem latchMotor_jam (c : Chip) (n : Nat) :
    (c.latchMotor n true).motor n = { c.motor n with jam := true, faultAt := some c.clk.now } := by
  unfold Chip.latchMotor
  dsimp only
  rw [Chip.setMotor_same, Bool.or_true, Bool.not_true, Bool.or_false]

theorem latchMotor_openLoad (c : Chip) (n : Nat) :
    (c.latchMotor n false).motor n = { c.motor n with openLoad := true, faultAt := some c.clk.now } := by
  unfold Chip.latchMotor
  dsimp only
  rw [Chip.setMotor_same, Bool.not_false, Bool.or_true, Bool.or_false]

theorem motorOpenLoad_of_rest {c : Chip} {n : Nat} {mv : Move} (hmv : (c.motor n).move = some mv) (hp : mv.phase = .drive)
    (h : c.inMotion n = false) {w : Chip} (hw : w = c.waitUntil (max (c.motor n).crossedAt mv.legStart + ms 500)) :
    c.motorOpenLoad n = ((w.latchMotor n false).endMove n 4).valveFault n 0 true := by
  unfold Chip.motorOpenLoad
  rw [hmv]
  dsimp only
  rw [if_pos (by simp [hp, h]), ← hw]

theorem motorOpenLoad_idle {c : Chip} {n : Nat} (h : (∀ mv, (c.motor n).move = some mv → mv.phase ≠ .drive) ∨ c.inMotion n = true) :
    c.motorOpenLoad n = c := by
  unfold Chip.motorOpenLoad
  cases hmv : (c.motor n).move with
  | none => rfl
  | some mv =>
    refine if_neg ?_
    rcases h with h | h
    · simp [h mv hmv]
    · simp [h]

theorem legTimeout_of_homing {c : Chip} {n : Nat} {mv : Move} (hmv : (c.motor n).move = some mv) (hp : mv.phase = .drive)
    (hk : mv.kind ≠ .move) : c.legTimeout n = (c.waitUntil (mv.legStart + sec (c.motorCfg n).maxRun)).losePosition n 3 3 := by
  unfold Chip.legTimeout
  rw [hmv]
  exact if_pos (by simp [hp, hk])

theorem legTimeout_idle {c : Chip} {n : Nat} (h : ∀ mv, (c.motor n).move = some mv → mv.kind = .move ∨ mv.phase ≠ .drive) :
    c.legTimeout n = c := by
  unfold Chip.legTimeout
  cases hmv : (c.motor n).move with
  | none => rfl
  | some mv =>
    refine if_neg ?_
    rcases h mv hmv with h | h
    · simp [h]
    · simp [h]

/-! ### Stops and dwells -/

theorem moveStops_of_brake {c : Chip} {n : Nat} {mv : Move} {b : Int} (hmv : (c.motor n).move = some mv) (hp : mv.phase = .brake)
    (hb : mv.brakeAt = some b) :
    c.moveStops n = if (c.motorCfg n).iMin ≤ (c.motor n).current.natAbs then c
      else ((c.waitUntil ((c.motor n).crossedAt + ms 20)).setMotor n { c.motor n with
        lead := nextLead (c.motor n).lead (c.motorCps n) ((c.motor n).count - b).natAbs }).judgeStop n mv := by
  unfold Chip.moveStops
  dsimp only
  rw [hmv]
  dsimp only
  rw [hp, hb]

theorem moveStops_idle {c : Chip} {n : Nat} (h : ∀ mv, (c.motor n).move = some mv → mv.phase ≠ .brake ∨ mv.brakeAt = none) :
    c.moveStops n = c := by
  unfold Chip.moveStops
  dsimp only
  cases hmv : (c.motor n).move with
  | none => rfl
  | some mv =>
    dsimp only
    split
    · rename_i hp hb
      rcases h mv hmv with h | h
      · exact absurd hp h
      · rw [h] at hb
        cases hb
    · rfl

theorem judgeStop_corrects {c : Chip} {n : Nat} {mv : Move} (hd : c.beyondDeadband n mv.target = true) (hc : mv.corrections < 2) :
    c.judgeStop n mv = (c.writePosition n).startLeg n
      { mv with kind := .move, opening := c.opensTo n mv.target, corrections := mv.corrections + 1 } false := by
  unfold Chip.judgeStop
  rw [if_neg (by simp [hd]), if_pos hc]

theorem judgeStop_gives_up {c : Chip} {n : Nat} {mv : Move} (hd : c.beyondDeadband n mv.target = true) (hc : 2 ≤ mv.corrections) :
    c.judgeStop n mv = c.nextFree.endMove n ((Config.freeWord c.freeCount).toNat % 9) := by
  unfold Chip.judgeStop
  rw [if_neg (by simp [hd]), if_neg (by omega)]

theorem judgeStop_inside {c : Chip} {n : Nat} {mv : Move} (hd : c.beyondDeadband n mv.target = false) :
    c.judgeStop n mv = c.endMove n (if mv.cpsReject then 7 else 0) :=
  if_pos (by simp [hd])

theorem dwellEnds_of_dwell {c : Chip} {n d : Nat} {mv : Move} (hmv : (c.motor n).move = some mv) (hp : mv.phase = .dwell)
    (hd : mv.ends = some d) : c.dwellEnds n = (c.waitUntil d).driveLeg n mv := by
  unfold Chip.dwellEnds
  rw [hmv]
  dsimp only
  rw [hp, hd]

theorem dwellEnds_of_moving {c : Chip} {n : Nat} {mv : Move} (hmv : (c.motor n).move = some mv) (h : mv.phase ≠ .dwell ∨ mv.ends = none) :
    c.dwellEnds n = c := by
  unfold Chip.dwellEnds
  rw [hmv]
  dsimp only
  split
  · rename_i hp hd
    rcases h with h | h
    · exact absurd hp h
    · rw [h] at hd
      cases hd
  · rfl

theorem dwellEnds_of_valve {c : Chip} {n d : Nat} {o sync : Bool} (hmv : (c.motor n).move = none)
    (hw : (c.valve n).waitDrive = some (o, d)) (hsync : sync = ((c.valve n).est.isNone && bit (c.attrN tyValve n 1) 6)) :
    c.dwellEnds n = ((c.waitUntil d).setValve n { c.valve n with lastOpening := some o }).startFloat n o
      (if sync then sec (c.travel n) * 6 / 5 else c.floatTime n (c.valve n).applied)
      (sync || (c.valve n).applied == 0 || (c.valve n).applied == 65536) := by
  have htravel : (c.waitUntil d).travel n = c.travel n := waitUntil_attrN c d tyValve n 7
  have htime : (c.waitUntil d).floatTime n (c.valve n).applied = c.floatTime n (c.valve n).applied := by
    unfold Chip.floatTime
    rw [waitUntil_valve, htravel]
  unfold Chip.dwellEnds
  rw [hmv]
  dsimp only
  rw [hw]
  dsimp only
  rw [waitUntil_valve, waitUntil_attrN, htravel, htime, ← hsync, hw]

theorem dwellEnds_idle {c : Chip} {n : Nat} (hmv : (c.motor n).move = none) (hw : (c.valve n).waitDrive = none) : c.dwellEnds n = c := by
  unfold Chip.dwellEnds
  rw [hmv]
  dsimp only
  rw [hw]

/-- A drive in the direction that the valve drove last starts at once. -/
theorem startFloat_same {c : Chip} {n dt : Nat} {opening toEnd : Bool} (h : (c.valve n).lastOpening = some opening) :
    c.startFloat n opening dt toEnd =
      c.setValve n { c.valve n with waitDrive := none, drive := some (opening, c.clk.now, c.clk.now + dt, toEnd) } := by
  unfold Chip.startFloat
  dsimp only
  rw [h]
  exact if_neg (by simp)

/-! ### Intervals, targets and positions -/

theorem rehomeDue_of_touched {c : Chip} {n : Nat} (hb : c.motorBound n = true) (hi : (c.motorCfg n).rehomeInt ≠ 0)
    (ht : (c.motor n).touchStop.isSome = true) :
    c.rehomeDue n = (c.waitUntil ((c.motor n).touchTime + sec (3600 * (c.motorCfg n).rehomeInt))).setMotor n
      { c.motor n with intervalDue := true } := by
  unfold Chip.rehomeDue
  dsimp only
  rw [if_neg (by simp [hb, hi, Option.isSome_iff_ne_none.mp ht]), waitUntil_motor]

theorem rehomeDue_idle {c : Chip} {n : Nat} (h : c.motorBound n = false ∨ (c.motorCfg n).rehomeInt = 0 ∨ (c.motor n).touchStop = none) :
    c.rehomeDue n = c :=
  if_pos (by
    rcases h with h | h | h
    · simp [h]
    · simp [h]
    · simp [h])

theorem followTarget_starts {c : Chip} {n t : Nat} (hmv : (c.motor n).move = none) (ht : c.motorTarget n = some t)
    (hk : (c.motor n).known = true) (hd : c.beyondDeadband n t = true) : c.followTarget n = c.beginMove n .move t none false := by
  unfold Chip.followTarget
  dsimp only
  rw [hmv, ht]
  exact if_pos (by simp [hk, hd])

theorem followTarget_idle {c : Chip} {n : Nat} (h : (c.motor n).move.isSome = true ∨ (c.motor n).known = false ∨
      ∀ t, c.motorTarget n = some t → c.beyondDeadband n t = false) : c.followTarget n = c := by
  unfold Chip.followTarget
  dsimp only
  split
  · rename_i hmv ht
    refine if_neg ?_
    rcases h with h | h | h
    · simp [hmv] at h
    · simp [h]
    · simp [h _ ht]
  · rfl

theorem checkActuator_of_damper {c : Chip} {n : Nat} (h : c.damperBound n = true) : c.checkActuator n = c.followTarget n := if_pos h

theorem positionRow_of_known {c : Chip} {n : Nat} (hb : c.motorBound n = true) (hk : (c.motor n).known = true) :
    c.positionRow n = (c.waitUntil ((c.motor n).posWritten + (if (c.motor n).move.isSome then ms 100 else sec 1))).writePosition n :=
  if_neg (by simp [hb, hk])

theorem positionRow_idle {c : Chip} {n : Nat} (h : c.motorBound n = false ∨ (c.motor n).known = false) : c.positionRow n = c :=
  if_pos (by simpa using h)

theorem writePosition_posWritten {c : Chip} {n : Nat} (hb : c.motorBound n = true) (hk : (c.motor n).known = true) :
    ((c.writePosition n).motor n).posWritten = c.clk.now := by
  unfold Chip.writePosition
  rw [if_pos hb, if_pos hk, produceOpt_motor, Chip.setMotor_same]

theorem Keeps.motorBound_eq {fs : Nat} {c d : Chip} (h : Keeps fs c d) (hn : fs.testBit 5 = false) (n : Nat) :
    d.motorBound n = c.motorBound n := by
  have hattr : ∀ ty i a, d.attrN ty i a = c.attrN ty i a := fun ty i a => congrArg leNat (h.attr_eq hn ty i a)
  unfold Chip.motorBound Chip.damperBound Chip.rippleValve Chip.valveBound Chip.valveKind
  simp only [hattr]

/-! ### Valves -/

theorem boostEnds_of_boost {c : Chip} {n d : Nat} (h : (c.valve n).boostEnd = some d) :
    c.boostEnds n = ((c.waitUntil d).setValve n { c.valve n with boostEnd := none }).writeEstimate n := by
  unfold Chip.boostEnds
  rw [h]
  dsimp only
  rw [waitUntil_valve]

theorem boostEnds_idle {c : Chip} {n : Nat} (h : (c.valve n).boostEnd = none) : c.boostEnds n = c := by
  unfold Chip.boostEnds
  rw [h]

theorem valveOpen_of_applied {c : Chip} {n : Nat} (hb : c.valveBound n = true) (hk : c.valveKind n = 0) (ha : 0 < (c.valve n).applied) :
    c.valveOpen n = (c.setValve n { c.valve n with fault := true, lastFault := 0, faultAt := some c.clk.now }).fire 63 n := by
  unfold Chip.valveOpen
  rw [if_pos (by simp [hb, hk, ha])]
  unfold Chip.valveFault
  rw [if_neg (by simp [hb])]
  dsimp only
  rw [hk, Bool.or_true]
  rfl

theorem valveOpen_idle {c : Chip} {n : Nat} (h : c.valveBound n = false ∨ c.valveKind n ≠ 0 ∨ (c.valve n).applied = 0) :
    c.valveOpen n = c :=
  if_neg (by
    rcases h with h | h | h
    · simp [h]
    · simp [h]
    · simp [h])

/-- The estimate at the end of a drive of a floating valve (R234). -/
def driveEndEst (est : Option Nat) (travel : Nat) (o : Bool) (dt : Nat) (toEnd : Bool) : Nat :=
  if toEnd then (if o then 65536 else 0)
  else match est with
    | some x => driveEst x travel o dt
    | none => if o then 65536 else 0

theorem driveEndEst_of_end {est : Option Nat} {travel dt : Nat} {o toEnd : Bool} (h : toEnd = true ∨ est = none) :
    driveEndEst est travel o dt toEnd = if o then 65536 else 0 := by
  unfold driveEndEst
  rcases h with h | h
  · exact if_pos h
  · rw [h]
    dsimp only
    rw [ite_self]

/-- A floating valve whose drive has ended. -/
def Chip.driveEnded (n t1 e : Nat) (c : Chip) : Chip := (c.waitUntil t1).setValve n { c.valve n with est := some e, drive := none }

theorem floatEnds_of_drive {c : Chip} {n t0 t1 : Nat} {o toEnd : Bool} (h : (c.valve n).drive = some (o, t0, t1, toEnd)) :
    c.floatEnds n = ((c.driveEnded n t1 (driveEndEst (c.valve n).est (c.travel n) o (t1 - t0) toEnd)).writeEstimate n).followFloat n := by
  have htravel : (c.waitUntil t1).travel n = c.travel n := waitUntil_attrN c t1 tyValve n 7
  unfold Chip.floatEnds
  rw [h]
  dsimp only
  rw [waitUntil_valve, htravel]
  unfold driveEndEst
  cases (c.valve n).est <;> rfl

theorem floatEnds_idle {c : Chip} {n : Nat} (h : (c.valve n).drive = none) : c.floatEnds n = c := by
  unfold Chip.floatEnds
  rw [h]

theorem driveEnded_valve (n t1 e : Nat) (c : Chip) : (c.driveEnded n t1 e).valve n = { c.valve n with est := some e, drive := none } :=
  Chip.setValve_same ..

theorem driveEnded_valve_other (t1 e : Nat) (c : Chip) {n j : Nat} (hj : j ≠ n) : (c.driveEnded n t1 e).valve j = c.valve j :=
  (Chip.setValve_other _ _ _ _ hj).trans (waitUntil_valve c t1 j)

end Sys2Proof.Machine

namespace Sys2Proof
open Machine

/-- Settles O45: each row is one case of its definition, and a touch, a latch, a drive and an estimate write one motor or valve. -/
theorem dampersAndValvesMove : Obligations.DampersAndValvesMove := by
  unfold Obligations.DampersAndValvesMove
  intro s n
  refine ⟨?drive, ?driveIdle, ?brake, ?brakeIdle, fun c mv => judgeStop_corrects, fun c mv hd hc => ?givesUp, fun c mv => judgeStop_inside,
    ?dwell, ?dwellMoving, ?floating, ?dwellIdle, ?interval, ?intervalIdle, ?target, ?targetIdle, ?position, ?positionIdle, ?boost,
    ?boostIdle, ?coil, ?coilIdle, ?toEnd, ?partWay, ?floatIdle⟩
  case drive =>
    intro mv hmv hp
    refine ⟨fun h => Leads.of_eq rfl (touch_below hmv h), fun c h hw => ⟨fun ha => ?_, fun ha => ?_⟩,
      fun h => Leads.of_eq rfl (motorOpenLoad_idle (.inr h)), fun c h hw => ?_, fun hk => Leads.of_eq rfl (legTimeout_idle fun mv' hmv' => ?_),
      fun hk => Leads.of_eq rfl (legTimeout_of_homing hmv hp hk)⟩
    · obtain ⟨hknown, hcount⟩ := acceptTouch_motor c n mv.opening
      exact ⟨_, _, rfl, Leads.of_eq rfl ((touch_of_drive hmv hp h hw).trans (if_pos ha)), hknown, hcount⟩
    · exact ⟨_, Leads.of_eq rfl ((touch_of_drive hmv hp h hw).trans (if_neg (by simp [ha]))), latchMotor_jam c n⟩
    · exact ⟨_, Leads.of_eq rfl (motorOpenLoad_of_rest hmv hp h hw), latchMotor_openLoad c n⟩
    · rw [hmv] at hmv'
      exact .inl (Option.some.inj hmv' ▸ hk)
  case driveIdle =>
    exact fun h => ⟨Leads.of_eq rfl (touch_idle h), Leads.of_eq rfl (motorOpenLoad_idle (.inl h)),
      Leads.of_eq rfl (legTimeout_idle fun mv hmv => .inr (h mv hmv))⟩
  case brake =>
    intro mv b hmv hp hb
    have hrow := moveStops_of_brake hmv hp hb
    exact ⟨fun h => Leads.of_eq rfl (hrow.trans (if_neg (by omega))), fun h => Leads.of_eq rfl (hrow.trans (if_pos h))⟩
  case brakeIdle => exact fun h => Leads.of_eq rfl (moveStops_idle h)
  case givesUp => exact ⟨_, Nat.mod_lt _ (by decide), judgeStop_gives_up hd hc⟩
  case dwell =>
    intro mv d hmv hp hd
    have hframe := driveLeg_keeps (fs := Field.clk ||| Field.rtc ||| Field.mgt ||| Field.motors) (.of rfl) n mv _
      (waitUntil_keeps (.of rfl) d s.chip (.refl s.chip))
    refine ⟨_, Leads.of_eq rfl (dwellEnds_of_dwell hmv hp hd), Chip.le_waitUntil _ d, ?_, ?_, fun j hj => ?_, hframe.slots, hframe.attrs,
      hframe.valves⟩
    · exact congrArg MotorSt.move (Chip.setMotor_same ..)
    · exact congrArg MotorSt.lastOpening (Chip.setMotor_same ..)
    · exact (Chip.setMotor_other _ _ _ _ hj).trans (waitUntil_motor _ d j)
  case dwellMoving => exact fun mv hmv h => Leads.of_eq rfl (dwellEnds_of_moving hmv h)
  case floating =>
    intro o d sync hmv hw hsync
    have hrow := dwellEnds_of_valve hmv hw hsync
    have hlast : (((s.chip.waitUntil d).setValve n { s.chip.valve n with lastOpening := some o }).valve n).lastOpening = some o :=
      congrArg ValveSt.lastOpening (Chip.setValve_same ..)
    have hframe := Chip.waitUntil_frame d s.chip
    rw [startFloat_same hlast, Chip.setValve_same] at hrow
    refine ⟨_, Leads.of_eq rfl hrow, Chip.le_waitUntil _ d, ?_⟩
    rw [Chip.setValve_same]
    refine ⟨rfl, rfl, rfl, fun j hj => ?_, hframe.motors, hframe.slots⟩
    rw [Chip.setValve_other _ _ _ _ hj, Chip.setValve_other _ _ _ _ hj, waitUntil_valve]
  case dwellIdle => exact fun hmv hw => Leads.of_eq rfl (dwellEnds_idle hmv hw)
  case interval =>
    intro hb hi ht
    have hrow := rehomeDue_of_touched hb hi ht
    obtain ⟨due, hdue⟩ : ∃ due, (s.chip.motor n).touchTime + sec (3600 * (s.chip.motorCfg n).rehomeInt) = due := ⟨_, rfl⟩
    rw [hdue] at hrow ⊢
    exact ⟨_, Leads.of_eq rfl hrow, Chip.le_waitUntil _ due, Chip.setMotor_same ..,
      fun j hj => (Chip.setMotor_other _ _ _ _ hj).trans (waitUntil_motor _ due j), (Chip.waitUntil_frame due s.chip).slots⟩
  case intervalIdle => exact fun h => Leads.of_eq rfl (rehomeDue_idle h)
  case target =>
    intro t hmv ht hk hd
    have hstart := followTarget_starts hmv ht hk hd
    exact ⟨Leads.of_eq rfl hstart, fun hb => Leads.of_eq rfl ((checkActuator_of_damper hb).trans hstart)⟩
  case targetIdle =>
    exact fun h => ⟨Leads.of_eq rfl (followTarget_idle h), fun hb => Leads.of_eq rfl ((checkActuator_of_damper hb).trans (followTarget_idle h))⟩
  case position =>
    intro hb hk
    have hframe := Chip.waitUntil_frame ((s.chip.motor n).posWritten + (if (s.chip.motor n).move.isSome then ms 100 else sec 1)) s.chip
    exact ⟨_, Leads.of_eq rfl (positionRow_of_known hb hk), Chip.le_waitUntil _ _, hframe.motors, hframe.slots,
      writePosition_posWritten ((hframe.motorBound_eq rfl n).trans hb) ((congrArg MotorSt.known (waitUntil_motor _ _ n)).trans hk)⟩
  case positionIdle => exact fun h => Leads.of_eq rfl (positionRow_idle h)
  case boost =>
    exact fun d h => ⟨_, Leads.of_eq rfl (boostEnds_of_boost h), Chip.le_waitUntil _ d, Chip.setValve_same ..,
      fun j hj => (Chip.setValve_other _ _ _ _ hj).trans (waitUntil_valve _ d j), (Chip.waitUntil_frame d s.chip).slots⟩
  case boostIdle => exact fun h => Leads.of_eq rfl (boostEnds_idle h)
  case coil =>
    intro hb hk ha
    refine ⟨_, Leads.of_eq rfl (valveOpen_of_applied hb hk ha), ?_, ?_, fun j hj => Chip.setValve_other _ _ _ _ hj, rfl, rfl⟩
    · exact congrArg ValveSt.fault (Chip.setValve_same ..)
    · exact congrArg ValveSt.lastFault (Chip.setValve_same ..)
  case coilIdle => exact fun h => Leads.of_eq rfl (valveOpen_idle h)
  case toEnd =>
    intro o t0 t1 toEnd hdrive h
    refine ⟨_, Leads.of_eq rfl (floatEnds_of_drive hdrive), Chip.le_waitUntil _ t1, ?_, ?_, fun j hj => driveEnded_valve_other _ _ _ hj,
      (Chip.waitUntil_frame t1 s.chip).slots⟩
    · rw [driveEnded_valve, driveEndEst_of_end h]
    · rw [driveEnded_valve]
  case partWay =>
    intro o t0 t1 e hdrive hest
    refine ⟨_, Leads.of_eq rfl (floatEnds_of_drive hdrive), Chip.le_waitUntil _ t1, ?_, ?_⟩
    · rw [driveEnded_valve, hest]
      rfl
    · rw [driveEnded_valve]
  case floatIdle => exact fun h => Leads.of_eq rfl (floatEnds_idle h)

end Sys2Proof
end

section
-- One proof after another: side by side, the stacks of their threads reach the check's limit of memory.
set_option Elab.async false
/-! Fans in time (spec/07): spin-up, tachometer and watchdog. -/

namespace Sys2Proof.Machine

theorem waitUntil_fan (c : Chip) (t n : Nat) : (c.waitUntil t).fan n = c.fan n := (Chip.waitUntil_frame t c).fan_eq rfl n

theorem waitUntil_slots (c : Chip) (t : Nat) : (c.waitUntil t).slots = c.slots := (Chip.waitUntil_frame t c).slots

/-! ### Spin-up -/

theorem spinupEnds_of_window {c : Chip} {n d : Nat} (hst : (c.fan n).state = .spinup) (hd : (c.fan n).ends = some d)
    (hr : c.groupRuns n = true) :
    c.spinupEnds n = if c.attrN tyFan n 4 ≤ (c.fan n).edges then
        ((c.waitUntil d).setFan n { c.fan n with
          state := .run, ends := none, attempt := 0, runRpm := (c.fan n).rpm
          lastEdge := some ((c.fan n).lastEdge.getD d) }).noteLowered n 65536
      else if (c.fan n).attempt < 3 then
        ((c.waitUntil d).setFan n { c.fan n with state := .gap, ends := some (d + sec 5) }).noteLowered n 65536
      else ((c.waitUntil d).setFan n { c.fan n with state := .stall, ends := none, faultAt := some (c.waitUntil d).clk.now }).fire 56
        (n + 256 * min 255 (c.fan n).edges) := by
  unfold Chip.spinupEnds
  dsimp only
  rw [hst, hd]
  exact if_neg (by simp [hr])

theorem spinupEnds_idle {c : Chip} {n : Nat} (h : (c.fan n).state ≠ .spinup ∨ (c.fan n).ends = none ∨ c.groupRuns n = false) :
    c.spinupEnds n = c := by
  unfold Chip.spinupEnds
  dsimp only
  split
  · rename_i hst hd
    rcases h with h | h | h
    · exact absurd hst h
    · rw [h] at hd
      cases hd
    · exact if_pos (by simp [h])
  · rfl

theorem gapEnds_of_gap {c : Chip} {n d : Nat} (hst : (c.fan n).state = .gap) (hd : (c.fan n).ends = some d) (hr : c.groupRuns n = true) :
    c.gapEnds n = (c.waitUntil d).setFan n { c.fan n with
      state := .spinup, attempt := (c.fan n).attempt + 1, edges := 0, ends := some (d + ms (c.attrN tyFan n 3)) } := by
  unfold Chip.gapEnds
  dsimp only
  rw [hst, hd]
  exact if_neg (by simp [hr])

theorem gapEnds_idle {c : Chip} {n : Nat} (h : (c.fan n).state ≠ .gap ∨ (c.fan n).ends = none ∨ c.groupRuns n = false) :
    c.gapEnds n = c := by
  unfold Chip.gapEnds
  dsimp only
  split
  · rename_i hst hd
    rcases h with h | h | h
    · exact absurd hst h
    · rw [h] at hd
      cases hd
    · exact if_pos (by simp [h])
  · rfl

/-! ### The tachometer -/

theorem tachEdge_idle {c : Chip} {n : Nat} (h : c.fanBound n = false ∨ c.portActive n = false ∨ (c.fan n).lastEdge = some c.clk.now) :
    c.tachEdge n = c := by
  unfold Chip.tachEdge
  split
  · rfl
  · rename_i hno
    rcases h with h | h | h
    · simp [h] at hno
    · simp [h] at hno
    · dsimp only
      rw [h]
      exact if_pos (by simp)

theorem tachEdge_first {c : Chip} {n : Nat} (hb : c.fanBound n = true) (ha : c.portActive n = true) (hl : (c.fan n).lastEdge = none) :
    c.tachEdge n = c.setFan n { c.fan n with
      lastEdge := some c.clk.now, edges := if (c.fan n).state == .spinup then (c.fan n).edges + 1 else (c.fan n).edges } := by
  unfold Chip.tachEdge
  rw [if_neg (by simp [hb, ha])]
  dsimp only
  rw [hl]

theorem produceOpt_fan (c : Chip) (sid : Option Nat) (v : Int) (q : Half) (t i j : Nat) : (c.produceOpt sid v q t i).fan j = c.fan j :=
  (produceOpt_keeps (.refl _) sid v q t i c (.refl c)).fan_eq rfl j

theorem produceOpt_attrs (c : Chip) (sid : Option Nat) (v : Int) (q : Half) (t i : Nat) : (c.produceOpt sid v q t i).attrs = c.attrs :=
  (produceOpt_keeps (.refl _) sid v q t i c (.refl c)).attrs

/-- A fan whose edge comes `dt` after the one before. -/
def Chip.fanMeasured (c : Chip) (n dt : Nat) : FanSt :=
  let s := c.fan n
  let rpm := min 65535 (divr (60 * 40000000) (dt * c.fanPpr n : Nat)).toNat
  { s with
    lastEdge := some c.clk.now, edges := if s.state == .spinup then s.edges + 1 else s.edges, interval := dt, rpm := rpm
    runRpm := if s.state == .run then rpm else s.runRpm }

theorem tachEdge_next {c : Chip} {n t dt : Nat} (hb : c.fanBound n = true) (ha : c.portActive n = true)
    (hl : (c.fan n).lastEdge = some t) (hdt : dt = c.clk.now - t) (hne : dt ≠ 0) :
    c.tachEdge n = if c.clk.now < (c.fan n).speedAt + ms 100 then c.setFan n (c.fanMeasured n dt)
      else ((c.setFan n (c.fanMeasured n dt)).setFan n { (c.setFan n (c.fanMeasured n dt)).fan n with speedAt := c.clk.now }).produceOpt
        (sidOf (c.attrN tyFan n 11)) (sat32 (divr (60 * 40000000 * 65536) (dt * c.fanPpr n * c.attrN tyFan n 2 : Nat)))
        (c.fanQuality n) actuatorType n := by
  subst hdt
  unfold Chip.tachEdge
  rw [if_neg (by simp [hb, ha])]
  dsimp only
  rw [hl]
  dsimp only
  rw [if_neg (by simpa using hne)]
  unfold Chip.fanMeasured
  dsimp only

theorem tachEdge_next_fan {c : Chip} {n t dt : Nat} (hb : c.fanBound n = true) (ha : c.portActive n = true)
    (hl : (c.fan n).lastEdge = some t) (hdt : dt = c.clk.now - t) (hne : dt ≠ 0) :
    ((c.tachEdge n).fan n).lastEdge = some c.clk.now ∧ ((c.tachEdge n).fan n).interval = dt ∧
      ((c.tachEdge n).fan n).rpm = (c.fanMeasured n dt).rpm ∧ (∀ j, j ≠ n → (c.tachEdge n).fan j = c.fan j) ∧
      (c.tachEdge n).attrs = c.attrs := by
  rw [tachEdge_next hb ha hl hdt hne]
  split
  · rw [Chip.setFan_same]
    exact ⟨rfl, rfl, rfl, fun j hj => Chip.setFan_other _ _ _ _ hj, rfl⟩
  · rw [produceOpt_fan, produceOpt_attrs, Chip.setFan_same, Chip.setFan_same]
    refine ⟨rfl, rfl, rfl, fun j hj => ?_, rfl⟩
    rw [produceOpt_fan, Chip.setFan_other _ _ _ _ hj, Chip.setFan_other _ _ _ _ hj]

theorem tachLost_of_running {c : Chip} {n : Nat} (hst : (c.fan n).state = .run) (hf : c.fanF n ≠ 0) (hr : c.groupRuns n = true)
    {w : Chip} (hw : w = c.waitUntil ((c.fan n).lastEdge.getD c.clk.now + c.tachTimeout n)) :
    c.tachLost n = (w.setFan n { c.fan n with state := .tachLost, faultAt := some w.clk.now }).fire 57 (n + 65536 * (c.fan n).runRpm) := by
  subst hw
  exact if_neg (by simp [hst, hf, hr])

theorem tachLost_idle {c : Chip} {n : Nat} (h : (c.fan n).state ≠ .run ∨ c.fanF n = 0 ∨ c.groupRuns n = false) : c.tachLost n = c :=
  if_pos (by
    rcases h with h | h | h
    · simp [h]
    · simp [h]
    · simp [h])

theorem speedZero_of_bound {c : Chip} {n : Nat} (hb : c.fanBound n = true) (ha : c.portActive n = true) {w : Chip}
    (hw : w = c.waitUntil ((c.fan n).lastEdge.getD (c.port n).onAt + sec 1)) :
    c.speedZero n = (w.setFan n { c.fan n with speedAt := w.clk.now }).produceOpt (sidOf (c.attrN tyFan n 11)) 0 (c.fanQuality n)
      actuatorType n := by
  subst hw
  exact if_neg (by simp [hb, ha])

theorem speedZero_idle {c : Chip} {n : Nat} (h : c.fanBound n = false ∨ c.portActive n = false) : c.speedZero n = c :=
  if_pos (by simpa [Bool.and_eq_false_iff] using h)

/-! ### The watchdog -/

theorem waitUntil_boundFans (c : Chip) (t : Nat) : (c.waitUntil t).boundFans = c.boundFans := by
  unfold Chip.boundFans Chip.fanBound
  simp only [waitUntil_attrN]

/-- The host's fan watchdog has run out: its bite is counted, and every fan is forced. -/
def Chip.fansForced (c : Chip) : Chip := { c with dogs := { c.dogs with fanForced := true } }.bite 19

theorem fanWatchdog_of_silent {c : Chip} (he : c.attrN tyDevice 0 0x701 = 1) (ha : c.dogs.fanArmed = true) (hf : c.dogs.fanForced = false) :
    c.fanWatchdog = (c.waitUntil (c.dogs.fanBeat + sec (c.attrN tyDevice 0 0x700))).fansForced.fire 58
      (c.attrN tyDevice 0 0x700 + 256 * c.boundFans.length) := by
  unfold Chip.fanWatchdog
  dsimp only
  rw [if_neg (by simp [he, ha, hf]), waitUntil_boundFans]
  rfl

theorem fanWatchdog_idle {c : Chip} (h : c.attrN tyDevice 0 0x701 ≠ 1 ∨ c.dogs.fanArmed = false ∨ c.dogs.fanForced = true) :
    c.fanWatchdog = c :=
  if_pos (by
    rcases h with h | h | h
    · simp [h]
    · simp [h]
    · simp [h])

end Sys2Proof.Machine

namespace Sys2Proof
open Machine

/-- Settles O46: each row is one case of its definition and writes its fan alone. -/
theorem fansSpinUpAndAreWatched : Obligations.FansSpinUpAndAreWatched := by
  unfold Obligations.FansSpinUpAndAreWatched
  intro s n
  refine ⟨?spinup, ?spinupIdle, ?gapIdle, ?edgeIdle, ?lostIdle, ?zeroIdle, ?dogIdle, ?gap, ?first, ?next, ?lost, ?still, ?dog, ?fan, ?valve⟩
  case spinup =>
    intro d hst hd hr
    have hrow := spinupEnds_of_window hst hd hr
    have hother : ∀ (f : FanSt) (j : Nat), j ≠ n → ((s.chip.waitUntil d).setFan n f).fan j = s.chip.fan j :=
      fun f j hj => (Chip.setFan_other _ _ _ _ hj).trans (waitUntil_fan _ d j)
    by_cases hedges : s.chip.attrN tyFan n 4 ≤ (s.chip.fan n).edges
    · refine ⟨(s.chip.waitUntil d).setFan n _, Chip.le_waitUntil _ d, hother _, waitUntil_slots _ d, fun _ => ⟨Leads.of_eq rfl (hrow.trans (if_pos hedges)), ?_⟩,
        fun h => absurd hedges (by omega), fun h => absurd hedges (by omega)⟩
      rw [Chip.setFan_same]
      exact ⟨rfl, rfl⟩
    · by_cases hatt : (s.chip.fan n).attempt < 3
      · refine ⟨(s.chip.waitUntil d).setFan n _, Chip.le_waitUntil _ d, hother _, waitUntil_slots _ d, fun h => absurd h hedges,
          fun _ _ => ⟨Leads.of_eq rfl (hrow.trans ((if_neg hedges).trans (if_pos hatt))), ?_⟩, fun _ h => absurd hatt (by omega)⟩
        rw [Chip.setFan_same]
        exact ⟨rfl, rfl⟩
      · refine ⟨(s.chip.waitUntil d).setFan n _, Chip.le_waitUntil _ d, hother _, waitUntil_slots _ d, fun h => absurd h hedges, fun _ h => absurd h hatt,
          fun _ _ => ⟨Leads.of_eq rfl (hrow.trans ((if_neg hedges).trans (if_neg hatt))), ?_⟩⟩
        rw [Chip.setFan_same]
  case spinupIdle => exact fun h => Leads.of_eq rfl (spinupEnds_idle h)
  case gapIdle => exact fun h => Leads.of_eq rfl (gapEnds_idle h)
  case edgeIdle => exact fun h => Leads.of_eq rfl (tachEdge_idle h)
  case lostIdle => exact fun h => Leads.of_eq rfl (tachLost_idle h)
  case zeroIdle => exact fun h => Leads.of_eq rfl (speedZero_idle h)
  case dogIdle => exact fun h => Leads.of_eq rfl (fanWatchdog_idle h)
  case gap =>
    intro d hst hd hr
    refine ⟨_, Leads.of_eq rfl (gapEnds_of_gap hst hd hr), Chip.le_waitUntil _ d, ?_⟩
    rw [Chip.setFan_same]
    exact ⟨rfl, rfl, rfl, rfl, fun j hj => (Chip.setFan_other _ _ _ _ hj).trans (waitUntil_fan _ d j), waitUntil_slots _ d⟩
  case first =>
    intro hb ha hl
    refine ⟨_, Leads.of_eq rfl (tachEdge_first hb ha hl), ?_⟩
    rw [Chip.setFan_same]
    refine ⟨rfl, ?_, fun j hj => Chip.setFan_other _ _ _ _ hj, rfl⟩
    simp only [beq_iff_eq]
  case next =>
    intro t dt hb ha hl hdt hne
    obtain ⟨hedge, hint, hrpm, hother, hattrs⟩ := tachEdge_next_fan hb ha hl hdt hne
    exact ⟨_, Leads.of_eq rfl rfl, hedge, hint, hrpm, hother, hattrs⟩
  case lost =>
    intro hst hf hr
    have hrow := tachLost_of_running hst hf hr rfl
    obtain ⟨due, hdue⟩ : ∃ due, (s.chip.fan n).lastEdge.getD s.chip.clk.now + s.chip.tachTimeout n = due := ⟨_, rfl⟩
    rw [hdue] at hrow ⊢
    refine ⟨_, Leads.of_eq rfl hrow, ?_, Chip.le_waitUntil _ due,
      fun j hj => (Chip.setFan_other _ _ _ _ hj).trans (waitUntil_fan _ due j), waitUntil_slots _ due⟩
    rw [Chip.setFan_same]
  case still =>
    intro hb ha
    have hrow := speedZero_of_bound hb ha rfl
    obtain ⟨due, hdue⟩ : ∃ due, (s.chip.fan n).lastEdge.getD (s.chip.port n).onAt + sec 1 = due := ⟨_, rfl⟩
    rw [hdue] at hrow ⊢
    refine ⟨(s.chip.waitUntil due).setFan n _, Chip.le_waitUntil _ due, ?_, waitUntil_slots _ due, (Chip.waitUntil_frame due s.chip).attrs, Leads.of_eq rfl hrow⟩
    rw [Chip.setFan_same]
    rfl
  case dog =>
    intro he ha hf
    have hrow := fanWatchdog_of_silent he ha hf
    obtain ⟨due, hdue⟩ : ∃ due, s.chip.dogs.fanBeat + sec (s.chip.attrN tyDevice 0 0x700) = due := ⟨_, rfl⟩
    rw [hdue] at hrow ⊢
    exact ⟨_, Leads.of_eq rfl hrow, rfl, Chip.le_waitUntil _ due, (Chip.waitUntil_frame due s.chip).fans, waitUntil_slots _ due⟩
  case fan => exact fun hd hb => Leads.of_eq rfl ((if_neg (by simp [hd])).trans (if_pos hb))
  case valve => exact fun hd hb => Leads.of_eq rfl ((if_neg (by simp [hd])).trans (if_neg (by simp [hb])))

end Sys2Proof
end

section
-- One proof after another: side by side, the stacks of their threads reach the check's limit of memory.
set_option Elab.async false
/-! The loop engine in time (spec/08): triggers, lanes, ageing and saturation. -/

namespace Sys2Proof.Machine

/-! ### What firings and slot writes do to the loops -/

/-- Of the loops nothing but their waiting triggers has changed. -/
def TriggersOnly (c d : Chip) : Prop := ∀ j, d.loop j = { c.loop j with trigs := (d.loop j).trigs }

theorem TriggersOnly.of_eq {c d : Chip} (h : d.loops = c.loops) : TriggersOnly c d := fun j => by
  unfold Chip.loop
  rw [h]

theorem TriggersOnly.refl (c : Chip) : TriggersOnly c c := .of_eq rfl

theorem TriggersOnly.trans {a b c : Chip} (h : TriggersOnly a b) (h' : TriggersOnly b c) : TriggersOnly a c := fun j => by
  rw [h' j, h j]

theorem mgtRecord_loops (q cls : Nat) (b : List Byte) (c : Chip) : (c.mgtRecord q cls b).loops = c.loops := by
  unfold Chip.mgtRecord
  split
  · rfl
  · split
    · dsimp only
      split
      · rfl
      · rfl
    · rfl

theorem alertEvent_loops (e : Nat) (s : EventSt) (c : Chip) : (c.alertEvent e s).loops = c.loops := by
  unfold Chip.alertEvent
  dsimp only
  rw [mgtRecord_loops]

theorem eventTrigger_triggersOnly (l : Nat) (c : Chip) : TriggersOnly c (c.eventTrigger l) := fun j => by
  unfold Chip.eventTrigger
  split
  · by_cases hj : j = l
    · subst hj
      have hmod := Tbl.get_modify_same dLoop c.loops j (fun s => { s with trigs := s.trigs ++ [⟨c.clk.now, c.stamp⟩] })
      unfold Chip.loop
      dsimp only
      rw [hmod]
    · have hmod := Tbl.get_modify_other dLoop c.loops l j (fun s => { s with trigs := s.trigs ++ [⟨c.clk.now, c.stamp⟩] }) hj
      unfold Chip.loop
      dsimp only
      rw [hmod]
  · rfl

theorem fireUp_triggersOnly (e : Nat) (x st : Word) (c : Chip) : TriggersOnly c (c.fireUp e x st) := by
  have hset : ∀ s : EventSt, TriggersOnly c (c.setEvent e s) := fun s => .of_eq rfl
  unfold Chip.fireUp
  dsimp only
  split
  · refine TriggersOnly.trans ?_ (eventTrigger_triggersOnly _ _)
    split
    · exact (hset _).trans (.of_eq (alertEvent_loops _ _ _))
    · exact hset _
  · split
    · exact (hset _).trans (.of_eq (alertEvent_loops _ _ _))
    · exact hset _

theorem fireBare_triggersOnly (e : Nat) (x : Word) (c : Chip) : TriggersOnly c (c.fireBare e x) := by
  unfold Chip.fireBare
  split
  · exact .refl c
  · split
    · exact fireUp_triggersOnly _ _ _ _
    · exact .of_eq (alertEvent_loops _ _ _)

theorem logEntry_triggersOnly (src code : Nat) (x d p : Word) (c : Chip) : TriggersOnly c (c.logEntry src code x d p) := by
  have hlog : ∀ (m : LogSt) (n : CounterSt), TriggersOnly c { c with log := m, counters := n } := fun _ _ => .of_eq rfl
  have hrecord : ∀ (a : Chip) (b : List Byte), TriggersOnly a (a.mgtRecord 63 1 b) := fun a b => .of_eq (mgtRecord_loops _ _ _ _)
  simp only [Chip.logEntry]
  exact ((hlog _ _).trans (hrecord _ _)).trans (fireBare_triggersOnly _ _ _)

theorem logEvent_triggersOnly (e : Nat) (x d : Word) (c : Chip) : TriggersOnly c (c.logEvent e x d) := by
  have hlog : ∀ m : LogSt, TriggersOnly c { c with log := m } := fun _ => .of_eq rfl
  simp only [Chip.logEvent]
  refine iteInduction (motive := TriggersOnly c) (fun _ => hlog _) (fun _ => ?_)
  exact (hlog _).trans (logEntry_triggersOnly _ _ _ _ _ _)

theorem fireLogged_triggersOnly (e : Nat) (x d : Word) (c : Chip) : TriggersOnly c (c.fireLogged e x d) := by
  unfold Chip.fireLogged
  split
  · exact .refl c
  · dsimp only
    split
    · exact (fireBare_triggersOnly _ _ _).trans (logEvent_triggersOnly _ _ _ _)
    · exact fireBare_triggersOnly _ _ _

theorem fire_triggersOnly (e x : Nat) (c : Chip) : TriggersOnly c (c.fire e x) := by
  have htold : ∀ d : Chip, TriggersOnly d (Chip.tellLost c 62 d) := fun d => by
    unfold Chip.tellLost
    split
    · exact fireLogged_triggersOnly _ _ _ _
    · exact .refl d
  have hfired := (fireLogged_triggersOnly e (BitVec.ofNat 32 x) 0 c).trans (htold _)
  unfold Chip.fire Chip.fireWith
  dsimp only
  split
  · exact hfired.trans (fireLogged_triggersOnly _ _ _ _)
  · exact hfired

theorem slotTriggers_triggersOnly (sid : Nat) (st : Word) (q : Half) (c : Chip) : TriggersOnly c (c.slotTriggers sid st q) := fun j =>
  Tbl.get_map (fun a b : LoopSt => b = { a with trigs := b.trigs }) dLoop _ (fun _ => rfl) (fun e => by
    split
    · exact ⟨rfl, rfl⟩
    · exact ⟨rfl, rfl⟩) c.loops j

theorem produce_triggersOnly (sid : Nat) (v st : Word) (q p : Half) (c : Chip) : TriggersOnly c (c.produce sid v st q p) := by
  have hsee : ∀ d : Chip, d.loops = c.loops → TriggersOnly c (Chip.zonesSee sid d) := fun d hd =>
    .of_eq ((zonesSee_keeps (.refl _) sid d (.refl d)).loops.trans hd)
  unfold Chip.produce
  dsimp only
  split
  · exact hsee _ rfl
  · refine (hsee _ rfl).trans ?_
    unfold Chip.writeSlot
    exact TriggersOnly.trans (.of_eq rfl) (slotTriggers_triggersOnly _ _ _ _)

/-! ### Triggers -/

theorem triggerRow_of_periodic {c : Chip} {l d : Nat} (he : (c.loop l).enabled = true) (hp : bits (c.loopCfg l) 2 2 = 0)
    (hd : (c.loop l).nextDue = some d) :
    c.triggerRow l = if (!c.transitComes d) = true then c
      else ((c.waitTransit d).setLoop l { c.loop l with nextDue := some (d + c.loopPeriod l) }).issueTrig l
        ⟨(c.waitTransit d).clk.now - ((c.waitTransit d).clk.transit - d),
          (c.waitTransit d).stampAt ((c.waitTransit d).clk.now - ((c.waitTransit d).clk.transit - d))⟩ := by
  unfold Chip.triggerRow
  dsimp only
  rw [if_neg (by simp [he]), if_pos (by simp [hp]), hd]

theorem waitTransit_of_comes {c : Chip} {d : Nat} (h : c.transitComes d = true) : d ≤ (c.waitTransit d).clk.transit := by
  by_cases hrun : c.clk.refRun = true
  · exact waitTransit_comes hrun
  · unfold Chip.waitTransit
    rw [if_neg hrun]
    simpa [Chip.transitComes, hrun] using h

theorem triggerRow_of_left {c : Chip} {l : Nat} {t : Trig} {rest : List Trig} (he : (c.loop l).enabled = true)
    (hp : bits (c.loopCfg l) 2 2 ≠ 0) (ht : (c.loop l).trigs = t :: rest) :
    c.triggerRow l = ((c.waitUntil t.due).setLoop l { c.loop l with trigs := rest }).issueTrig l t := by
  unfold Chip.triggerRow
  dsimp only
  rw [if_neg (by simp [he]), if_neg (by simpa using hp), ht]

theorem triggerRow_idle {c : Chip} {l : Nat} (h : (c.loop l).enabled = false ∨
      (bits (c.loopCfg l) 2 2 = 0 ∧ ∀ d, (c.loop l).nextDue = some d → c.transitComes d = false) ∨
      (bits (c.loopCfg l) 2 2 ≠ 0 ∧ (c.loop l).trigs = [])) : c.triggerRow l = c := by
  by_cases he : (c.loop l).enabled = true
  · rcases h with h | ⟨hp, h⟩ | ⟨hp, h⟩
    · simp [h] at he
    · cases hd : (c.loop l).nextDue with
      | none =>
        unfold Chip.triggerRow
        dsimp only
        rw [if_neg (by simp [he]), if_pos (by simp [hp]), hd]
      | some d => exact (triggerRow_of_periodic he hp hd).trans (if_pos (by simp [h d hd]))
    · unfold Chip.triggerRow
      dsimp only
      rw [if_neg (by simp [he]), if_neg (by simpa using hp), h]
  · exact if_pos (by simpa using he)

theorem issueTrig_skips {c : Chip} {l : Nat} {t : Trig}
    (h : (∃ d, (c.loop l).lastAccepted = some d ∧ t.due < d + c.loopPeriod l) ∨ (c.loop l).pending.isSome = true) :
    c.issueTrig l t = c.setLoop l { c.loop l with
      skipped := if (c.loop l).skipped = 0xFFFF then (c.loop l).skipped else (c.loop l).skipped + 1 } := by
  refine if_pos ?_
  rcases h with ⟨d, hlast, hlt⟩ | h
  · simp [hlast, hlt]
  · simp [h]

theorem issueTrig_accepts {c : Chip} {l : Nat} {t : Trig} (h : ∀ d, (c.loop l).lastAccepted = some d → d + c.loopPeriod l ≤ t.due)
    (hp : (c.loop l).pending = none) : c.issueTrig l t = c.acceptTrig l t := by
  refine if_neg ?_
  rw [hp]
  cases hlast : (c.loop l).lastAccepted with
  | none => simp
  | some d =>
    have := h d hlast
    simp only [Option.isSome_none, Bool.or_false, decide_eq_true_eq]
    omega

/-- The evaluation that an accepted trigger asks for (R265, R266). -/
def Chip.acceptedEval (c : Chip) (l : Nat) (t : Trig) : Eval where
  due := t.due
  deadline := t.due + (if c.loopClass l == 0 then ms 1 else if c.loopClass l == 1 then min (c.loopPeriod l) (ms 5) else c.loopPeriod l)
  ref := t.ref
  cls := c.loopClass l
  aged := false
  bank := (c.loop l).swap.getD (c.loop l).bank
  nodes := c.loopNodes l
  coefs := c.loopCoefs l ((c.loop l).swap.getD (c.loop l).bank)

/-- A loop whose trigger was accepted. -/
def Chip.evalAsked (l : Nat) (t : Trig) (c : Chip) : Chip :=
  c.setLoop l { c.loop l with
    lastAccepted := some t.due, pending := some (c.acceptedEval l t), bank := (c.loop l).swap.getD (c.loop l).bank, swap := none }

theorem acceptTrig_eq (c : Chip) (l : Nat) (t : Trig) :
    c.acceptTrig l t = if ((c.acceptedEval l t).bank != (c.loop l).bank) = true
      then (c.evalAsked l t).fire 68 (l + 512 * b2n (c.acceptedEval l t).bank) else c.evalAsked l t := rfl

/-! ### Lanes -/

theorem laneRow_of_off {c : Chip} {lane : Nat} (words : Nat) (h : c.power.main.up = false ∨ 4 ≤ lane) : c.laneRow lane words = c :=
  if_pos (by
    rcases h with h | h
    · simp [h]
    · simp [h])

theorem laneRow_of_free {c : Chip} {lane : Nat} (words : Nat) (hup : c.power.main.up = true) (hl : lane < 4)
    (hr : c.runningOn lane = none) :
    (c.nextEval = none → c.laneRow lane words = c) ∧
      ∀ m e, c.nextEval = some (m, e) → c.laneRow lane words = (c.takeEval m lane e).runWords m words := by
  have hon : ¬ (!c.power.main.up || decide (4 ≤ lane)) = true := by
    simp only [hup, Bool.not_true, Bool.false_or, decide_eq_true_eq]
    omega
  refine ⟨fun h => ?_, fun m e h => ?_⟩
  · unfold Chip.laneRow
    rw [if_neg hon, hr]
    dsimp only
    rw [h]
  · unfold Chip.laneRow
    rw [if_neg hon, hr]
    dsimp only
    rw [h]

theorem laneRow_of_busy {c : Chip} {lane k : Nat} (words : Nat) (hup : c.power.main.up = true) (hl : lane < 4)
    (hr : c.runningOn lane = some k) :
    ((∀ m e r, c.nextPending = some (m, e) → (c.loop k).running = some r → c.preempts e r.eval.cls = false) →
      c.laneRow lane words = c.runWords k words) ∧
    (∀ m e r, c.nextPending = some (m, e) → (c.loop k).running = some r → c.preempts e r.eval.cls = true →
      c.laneRow lane words = ((c.moveLane k none).takeEval m lane e).runWords m words) := by
  have hon : ¬ (!c.power.main.up || decide (4 ≤ lane)) = true := by
    simp only [hup, Bool.not_true, Bool.false_or, decide_eq_true_eq]
    omega
  refine ⟨fun h => ?_, fun m e r hn hk hpre => ?_⟩
  · unfold Chip.laneRow
    rw [if_neg hon, hr]
    dsimp only
    cases hn : c.nextPending with
    | none => rfl
    | some x =>
      cases hk : (c.loop k).running with
      | none => rfl
      | some r => exact if_neg (by simp [h x.1 x.2 r hn hk])
  · unfold Chip.laneRow
    rw [if_neg hon, hr]
    dsimp only
    rw [hn, hk]
    exact if_pos hpre

theorem takeEval_of_idle {c : Chip} {l : Nat} (lane : Nat) (e : Eval) (h : (c.loop l).running = none) :
    c.takeEval l lane e = c.startEval l lane e :=
  if_neg (by simp [h])

theorem startEval_loop (c : Chip) (l lane : Nat) (e : Eval) :
    (∃ r, ((c.startEval l lane e).loop l).running = some r ∧ r.eval = e ∧ r.lane = some lane ∧ r.done = [] ∧ r.orphan = false) ∧
      ((c.startEval l lane e).loop l).pending = none := by
  unfold Chip.startEval
  dsimp only
  rw [Chip.setLoop_same]
  exact ⟨⟨_, rfl, rfl, rfl, rfl, rfl⟩, rfl⟩

theorem startEval_loop_other (c : Chip) {l j : Nat} (lane : Nat) (e : Eval) (hj : j ≠ l) : (c.startEval l lane e).loop j = c.loop j :=
  Chip.setLoop_other _ _ _ _ hj

/-! ### Node words -/

/-- No loop has begun or dropped an evaluation that waits. -/
def PendingKept (c d : Chip) : Prop := ∀ j, (d.loop j).pending = (c.loop j).pending

theorem PendingKept.refl (c : Chip) : PendingKept c c := fun _ => rfl

theorem PendingKept.trans {a b c : Chip} (h : PendingKept a b) (h' : PendingKept b c) : PendingKept a c := fun j => (h' j).trans (h j)

theorem TriggersOnly.pendingKept {c d : Chip} (h : TriggersOnly c d) : PendingKept c d := fun j => by rw [h j]

theorem setLoop_pendingKept {c : Chip} {l : Nat} {s : LoopSt} (h : s.pending = (c.loop l).pending) : PendingKept c (c.setLoop l s) := fun j => by
  by_cases hj : j = l
  · subst hj
    rw [Chip.setLoop_same, h]
  · rw [Chip.setLoop_other _ _ _ _ hj]

theorem noteSat_pendingKept (l node : Nat) (sat : Bool) (c : Chip) : PendingKept c (c.noteSat l node sat) := by
  unfold Chip.noteSat
  dsimp only
  split
  · refine PendingKept.trans (setLoop_pendingKept ?_) (fire_triggersOnly _ _ _).pendingKept
    rfl
  · exact setLoop_pendingKept rfl
  · exact .refl c

theorem noteLatency_pendingKept (l : Nat) (e : Eval) (c : Chip) : PendingKept c (c.noteLatency l e) := by
  have hset : ∀ a b : Word, PendingKept c (c.setLoop l { c.loop l with lastLat := a, maxLat := b }) := fun a b => setLoop_pendingKept rfl
  unfold Chip.noteLatency
  dsimp only
  generalize (if c.loopClass l == 0 then 1000 else if c.loopClass l == 1 then 5000 else c.attrN tyLoop l 2) = limit
  refine iteInduction (motive := PendingKept c) (fun _ => ?_) (fun _ => hset _ _)
  exact (hset _ _).trans (fire_triggersOnly _ _ _).pendingKept

theorem putCandidate_pendingKept (l g : Nat) (k : Candidate) (c : Chip) : PendingKept c (c.putCandidate l g k) := by
  have hset : PendingKept c (c.setLoop l { c.loop l with candidate := some k }) := setLoop_pendingKept rfl
  unfold Chip.putCandidate
  dsimp only
  split
  · refine hset.trans (TriggersOnly.pendingKept (.trans (.of_eq ?_) (produce_triggersOnly _ _ _ _ _ _)))
    rfl
  · exact hset

theorem outNode_pendingKept (l node w : Nat) (e : Eval) (v : NodeVal) (c : Chip) : PendingKept c (c.outNode l node w e v) := by
  unfold Chip.outNode
  dsimp only
  split
  · exact .refl c
  · refine ((PendingKept.trans ?_ (noteSat_pendingKept _ _ _ _)).trans (noteLatency_pendingKept _ _ _))
    split
    · exact putCandidate_pendingKept _ _ _ _
    · exact (produce_triggersOnly _ _ _ _ _ _).pendingKept

/-- One node word has run: its value stands last among those done, and the evaluation is the same. -/
def WordRun (s s' : Running × Chip) : Prop :=
  s'.1.eval = s.1.eval ∧ s'.1.orphan = s.1.orphan ∧ s'.1.done.length = s.1.done.length + 1 ∧ PendingKept s.2 s'.2

theorem WordRun.of_done {s : Running × Chip} {r : Running} {c : Chip} {v : NodeVal} (he : r.eval = s.1.eval) (ho : r.orphan = s.1.orphan)
    (hd : r.done = s.1.done ++ [v]) (hc : PendingKept s.2 c) : WordRun s (r, c) :=
  ⟨he, ho, by rw [hd, List.length_append]; rfl, hc⟩

theorem nodeStep_wordRun (l : Nat) (s : Running × Chip) (w : Nat) : WordRun s (nodeStep l s w) := by
  unfold nodeStep
  dsimp only
  refine iteInduction (motive := WordRun s) (fun _ => .of_done rfl rfl rfl ?_) (fun _ => ?_)
  · split
    · exact (fire_triggersOnly _ _ _).pendingKept
    · exact .refl _
  refine iteInduction (motive := WordRun s) (fun _ => .of_done rfl rfl rfl (.refl _)) (fun _ => ?_)
  refine iteInduction (motive := WordRun s) (fun _ => .of_done rfl rfl rfl (.refl _)) (fun _ => ?_)
  refine iteInduction (motive := WordRun s) (fun _ => .of_done rfl rfl rfl (.refl _)) (fun _ => ?_)
  refine iteInduction (motive := WordRun s) (fun _ => .of_done rfl rfl rfl (outNode_pendingKept _ _ _ _ _ _)) (fun _ => ?_)
  exact .of_done rfl rfl rfl (.refl _)

/-- `n` node words have run. -/
def WordsRun (n : Nat) (s s' : Running × Chip) : Prop :=
  s'.1.eval = s.1.eval ∧ s'.1.orphan = s.1.orphan ∧ s'.1.done.length = s.1.done.length + n ∧ PendingKept s.2 s'.2

theorem foldl_nodeStep (l : Nat) (ws : List Nat) (s : Running × Chip) : WordsRun ws.length s (ws.foldl (nodeStep l) s) := by
  induction ws generalizing s with
  | nil => exact ⟨rfl, rfl, rfl, .refl _⟩
  | cons w ws ih =>
    obtain ⟨heval, horphan, hdone, hpending⟩ := nodeStep_wordRun l s w
    obtain ⟨heval', horphan', hdone', hpending'⟩ := ih (nodeStep l s w)
    refine ⟨heval'.trans heval, horphan'.trans horphan, ?_, hpending.trans hpending'⟩
    rw [List.foldl_cons, hdone', hdone, List.length_cons]
    omega

theorem foldl_nodeStep_groups (l : Nat) (ws : List Nat) (s : Running × Chip) : (ws.foldl (nodeStep l) s).2.groups = s.2.groups := by
  induction ws generalizing s with
  | nil => rfl
  | cons w ws ih => exact (ih (nodeStep l s w)).trans (nodeStep_keeps (.refl _) l s w (.refl _)).groups

/-- An evaluation that ends leaves what runs and, unless its loop was restarted, its bank. -/
def Chip.evalEnded (l : Nat) (r : Running) (c : Chip) : Chip :=
  let t := c.loop l
  c.setLoop l (if r.orphan then { t with running := none } else { t with
    running := none, words := r.words, graph := r.eval.nodes, evalBank := r.eval.bank, bumps := r.bumps
    noval := r.noval.isSome, presets := t.presets.filter (fun x => !(r.used.contains x.1 && r.presets.contains x)) })

theorem endEval_triggersOnly (l : Nat) (r : Running) (c : Chip) : TriggersOnly (c.evalEnded l r) (c.endEval l r) := by
  unfold Chip.endEval
  dsimp only
  split
  · refine iteInduction (motive := TriggersOnly (c.evalEnded l r)) (fun _ => .refl _) (fun _ => ?_)
    exact fire_triggersOnly _ _ _
  · exact .refl _

theorem endEval_groups (l : Nat) (r : Running) (c : Chip) : (c.endEval l r).groups = c.groups := by
  unfold Chip.endEval
  dsimp only
  split
  · split
    · rfl
    · exact Chip.fire_groups _ _ _
  · rfl

theorem evalEnded_loop (l : Nat) (r : Running) (c : Chip) : ((c.evalEnded l r).loop l).running = none ∧
    (r.orphan = false → ((c.evalEnded l r).loop l).evalBank = r.eval.bank) := by
  unfold Chip.evalEnded
  dsimp only
  rw [Chip.setLoop_same]
  cases r.orphan with
  | true => exact ⟨rfl, fun h => (nomatch h)⟩
  | false => exact ⟨rfl, fun _ => rfl⟩

theorem evalEnded_pendingKept (l : Nat) (r : Running) (c : Chip) : PendingKept c (c.evalEnded l r) := by
  unfold Chip.evalEnded
  dsimp only
  refine setLoop_pendingKept ?_
  split
  · rfl
  · rfl

/-- The node words that a row of `n` words runs of an evaluation, and where they leave it. -/
def Chip.wordsDone (c : Chip) (l n : Nat) (r : Running) : Running × Chip :=
  ((r.eval.nodes.drop r.done.length).take n).foldl (nodeStep l) (r, c)

theorem runWords_of_running {c : Chip} {l : Nat} {r : Running} (n : Nat) (h : (c.loop l).running = some r) :
    c.runWords l n = if (c.wordsDone l n r).1.done.length < (c.wordsDone l n r).1.eval.nodes.length
      then (c.wordsDone l n r).2.setLoop l { (c.wordsDone l n r).2.loop l with running := some (c.wordsDone l n r).1 }
      else (c.wordsDone l n r).2.endEval l (c.wordsDone l n r).1 := by
  unfold Chip.runWords
  rw [h]
  rfl

theorem wordsDone_run (c : Chip) (l n : Nat) (r : Running) :
    WordsRun (min n (r.eval.nodes.length - r.done.length)) (r, c) (c.wordsDone l n r) := by
  have h := foldl_nodeStep l ((r.eval.nodes.drop r.done.length).take n) (r, c)
  rwa [List.length_take, List.length_drop] at h

theorem runWords_ends {c : Chip} {l n : Nat} {r : Running} (h : (c.loop l).running = some r)
    (hn : r.eval.nodes.length ≤ r.done.length + n) :
    c.runWords l n = (c.wordsDone l n r).2.endEval l (c.wordsDone l n r).1 := by
  obtain ⟨heval, -, hdone, -⟩ := wordsDone_run c l n r
  refine (runWords_of_running n h).trans (if_neg ?_)
  rw [heval, hdone]
  dsimp only
  omega

theorem runWords_goes_on {c : Chip} {l n : Nat} {r : Running} (h : (c.loop l).running = some r)
    (hn : r.done.length + n < r.eval.nodes.length) :
    c.runWords l n = (c.wordsDone l n r).2.setLoop l { (c.wordsDone l n r).2.loop l with running := some (c.wordsDone l n r).1 } := by
  obtain ⟨heval, -, hdone, -⟩ := wordsDone_run c l n r
  refine (runWords_of_running n h).trans (if_pos ?_)
  rw [heval, hdone]
  dsimp only
  omega

/-! ### Ageing and saturation -/

theorem starvedRow_of_waiting {c : Chip} {l : Nat} {e : Eval} (he : (c.loop l).pending = some e) (hc : 2 ≤ e.cls) :
    c.starvedRow l = ((c.waitUntil (e.due + 4 * c.loopPeriod l)).setLoop l { c.loop l with
      pending := some { e with cls := 1, aged := true }, aged := true, starved := (c.loop l).starved + 1 }).fire 67
        (l + 512 * e.cls + 65536 * (((c.loop l).starved + 1).toNat % 65536)) := by
  unfold Chip.starvedRow
  dsimp only
  rw [he]
  exact if_neg (by omega)

theorem starvedRow_idle {c : Chip} {l : Nat} (h : ∀ e, (c.loop l).pending = some e → e.cls < 2) : c.starvedRow l = c := by
  unfold Chip.starvedRow
  dsimp only
  cases he : (c.loop l).pending with
  | none => rfl
  | some e => exact if_pos (h e he)

/-- A saturation has lasted as long as its loop's alarm says. -/
def Chip.alarmed (l : Nat) (c : Chip) : Chip :=
  c.setLoop l { c.loop l with alarm := true, alarmTold := true, alarmAt := some c.clk.now }

theorem satAlarm_of_saturated {c : Chip} {l t : Nat} (hs : (c.loop l).satSince = some t) (hlim : c.attrN tyLoop l 8 ≠ 0)
    (ht : (c.loop l).alarmTold = false) (hr : c.clk.refRun = true) :
    c.satAlarm l = ((c.advance (c.fabricWait (t + c.attrN tyLoop l 8 * 1000000))).alarmed l).fire 66 (l + 65536 * c.attrN tyLoop l 8) := by
  unfold Chip.satAlarm
  dsimp only
  rw [hs]
  dsimp only
  rw [if_neg (by simp [hlim, ht, hr]), ← hs]
  rfl

theorem satAlarm_idle {c : Chip} {l : Nat} (h : (c.loop l).satSince = none ∨ c.attrN tyLoop l 8 = 0 ∨ (c.loop l).alarmTold = true ∨
      c.clk.refRun = false) : c.satAlarm l = c := by
  unfold Chip.satAlarm
  dsimp only
  cases hs : (c.loop l).satSince with
  | none => rfl
  | some t =>
    refine if_pos ?_
    rcases h with h | h | h | h
    · rw [h] at hs
      cases hs
    · simp [h]
    · simp [h]
    · simp [h]

theorem alarmed_frame (l : Nat) (c : Chip) : SamePlant c (c.alarmed l) := ⟨rfl, rfl, rfl, rfl, rfl, rfl, rfl, rfl, rfl, rfl, rfl⟩

theorem advance_samePlant (t : Nat) (c : Chip) : SamePlant c (c.advance t) := ⟨rfl, rfl, rfl, rfl, rfl, rfl, rfl, rfl, rfl, rfl, rfl⟩

theorem waitUntil_loop (c : Chip) (t j : Nat) : (c.waitUntil t).loop j = c.loop j :=
  congrArg (fun x => Tbl.get dLoop x j) (Chip.waitUntil_loops c t)

end Sys2Proof.Machine

namespace Sys2Proof
open Machine

/-- Settles O47: a trigger and an evaluation that starts are single writes of their loop; node words are followed by induction, and what
they fire and write adds triggers only. -/
theorem loopsAreTriggeredAndRun : Obligations.LoopsAreTriggeredAndRun := by
  unfold Obligations.LoopsAreTriggeredAndRun
  intro s l
  refine ⟨?periodic, ?left, ?idle, fun c t => issueTrig_skips, ?accepts, fun lane words h => Leads.of_eq rfl (laneRow_of_off words h),
    ?laneIdle, ?laneTakes, ?laneBusy, ?starts, ?words, ?starved, ?starvedIdle, ?alarm, ?alarmIdle⟩
  case periodic =>
    intro d he hp hd hcomes
    exact ⟨_, _, rfl, rfl, waitTransit_of_comes hcomes, Leads.of_eq rfl ((triggerRow_of_periodic he hp hd).trans (if_neg (by simp [hcomes])))⟩
  case left =>
    exact fun t rest he hp ht => ⟨_, rfl, Chip.le_waitUntil _ t.due, Leads.of_eq rfl (triggerRow_of_left he hp ht)⟩
  case idle => exact fun h => Leads.of_eq rfl (triggerRow_idle h)
  case accepts =>
    intro c t h hp
    have hrow := (issueTrig_accepts h hp).trans (acceptTrig_eq c l t)
    have hloop : (c.evalAsked l t).loop l = { c.loop l with
        lastAccepted := some t.due, pending := some (c.acceptedEval l t), bank := (c.loop l).swap.getD (c.loop l).bank, swap := none } :=
      Chip.setLoop_same ..
    refine ⟨c.evalAsked l t, c.acceptedEval l t, ?_⟩
    rw [hloop]
    refine ⟨rfl, rfl, rfl, rfl, rfl, rfl, rfl, rfl, ?_, fun j hj => Chip.setLoop_other _ _ _ _ hj, setLoop_samePlant _ _ _,
      fun hb => hrow.trans (if_neg (by simp [hb])), fun hb => hrow.trans (if_pos (by simpa using hb))⟩
    unfold Chip.acceptedEval
    simp only [beq_iff_eq]
  case laneIdle => exact fun lane words hup hl hr hn => Leads.of_eq rfl ((laneRow_of_free words hup hl hr).1 hn)
  case laneTakes => exact fun lane words m e hup hl hr hn => Leads.of_eq rfl ((laneRow_of_free words hup hl hr).2 m e hn)
  case laneBusy =>
    intro lane words k hup hl hr
    obtain ⟨hon, hpre⟩ := laneRow_of_busy words hup hl hr
    exact ⟨fun h => Leads.of_eq rfl (hon h), fun m e r hn hk h => Leads.of_eq rfl (hpre m e r hn hk h)⟩
  case starts =>
    intro c lane e h
    rw [takeEval_of_idle lane e h]
    obtain ⟨⟨r, hr, heval, hlane, hdone, horphan⟩, hpending⟩ := startEval_loop c l lane e
    exact ⟨r, hr, heval, hlane, hdone, horphan, hpending, fun j hj => startEval_loop_other c lane e hj, setLoop_samePlant _ _ _⟩
  case words =>
    intro c n r hr
    obtain ⟨heval, horphan, hdone, hpending⟩ := wordsDone_run c l n r
    have hgroups := foldl_nodeStep_groups l ((r.eval.nodes.drop r.done.length).take n) (r, c)
    have hattrs := (runWords_keeps (.refl _) l n c (.refl c)).attrs
    by_cases hn : r.eval.nodes.length ≤ r.done.length + n
    · have htrig := endEval_triggersOnly l (c.wordsDone l n r).1 (c.wordsDone l n r).2
      obtain ⟨hrunning, hbank⟩ := evalEnded_loop l (c.wordsDone l n r).1 (c.wordsDone l n r).2
      refine ⟨fun _ => ?_, fun h => absurd hn (by omega), ?_, hattrs, ?_⟩
      · rw [runWords_ends hr hn, htrig l]
        exact ⟨hrunning, fun ho => (hbank (horphan.trans ho)).trans (congrArg Eval.bank heval)⟩
      · rw [runWords_ends hr hn]
        exact (hpending.trans (evalEnded_pendingKept _ _ _)).trans htrig.pendingKept
      · rw [runWords_ends hr hn, endEval_groups]
        exact hgroups
    · have hlt : r.done.length + n < r.eval.nodes.length := by omega
      refine ⟨fun h => absurd h hn, fun _ => ⟨(c.wordsDone l n r).1, ?_, ?_, heval⟩, ?_, hattrs, ?_⟩
      · rw [runWords_goes_on hr hlt, Chip.setLoop_same]
      · rw [hdone]
        dsimp only
        omega
      · rw [runWords_goes_on hr hlt]
        exact hpending.trans (setLoop_pendingKept rfl)
      · rw [runWords_goes_on hr hlt]
        exact hgroups
  case starved =>
    intro e he hc
    have hrow := starvedRow_of_waiting he hc
    obtain ⟨due, hdue⟩ : ∃ due, e.due + 4 * s.chip.loopPeriod l = due := ⟨_, rfl⟩
    rw [hdue] at hrow ⊢
    refine ⟨_, Leads.of_eq rfl hrow, Chip.le_waitUntil _ due, ?_⟩
    rw [Chip.setLoop_same]
    exact ⟨rfl, rfl, fun j hj => (Chip.setLoop_other _ _ _ _ hj).trans (waitUntil_loop _ due j),
      (waitUntil_samePlant ..).trans (setLoop_samePlant _ _ _)⟩
  case starvedIdle => exact fun h => Leads.of_eq rfl (starvedRow_idle h)
  case alarm =>
    intro t hs hlim ht hr
    have hsame := (advance_samePlant (s.chip.fabricWait (t + s.chip.attrN tyLoop l 8 * 1000000)) s.chip).trans (alarmed_frame l _)
    refine ⟨_, Leads.of_eq rfl (satAlarm_of_saturated hs hlim ht hr), ?_, ?_, fun j hj => Chip.setLoop_other _ _ _ _ hj, hsame⟩
    · exact congrArg LoopSt.alarm (Chip.setLoop_same ..)
    · exact congrArg LoopSt.alarmTold (Chip.setLoop_same ..)
  case alarmIdle => exact fun h => Leads.of_eq rfl (satAlarm_idle h)

end Sys2Proof
end

section
-- One proof after another: side by side, the stacks of their threads reach the check's limit of memory.
set_option Elab.async false
/-! The arithmetic of PID and SELQ nodes (spec/08). -/

namespace Sys2Proof.Machine

theorem le_clampI {lo hi : Int} (x : Int) (h : lo ≤ hi) : lo ≤ clampI lo hi x := by
  unfold clampI
  omega

theorem clampI_le (lo hi x : Int) : clampI lo hi x ≤ hi := Int.min_le_left _ _

theorem clampI_of_mem {lo hi x : Int} (h : lo ≤ x) (h' : x ≤ hi) : clampI lo hi x = x := by
  unfold clampI
  omega

/-- The four words that a PID keeps: I and the result lie between its limits. -/
theorem pidStep_limits (cs : List Nat) (x mode : Nat) (env : PidEnv) (a b : Int) (old : List Int) :
    ∃ i f j : Int, (pidStep cs x mode env a b old).1 =
        [clampI (coefVal cs (x + 4)) (coefVal cs (x + 5)) i, b, f, clampI (coefVal cs (x + 4)) (coefVal cs (x + 5)) j] ∧
      (pidStep cs x mode env a b old).2.1 = clampI (coefVal cs (x + 4)) (coefVal cs (x + 5)) j :=
  ⟨_, _, _, rfl, rfl⟩

/-- With the sum at the upper limit and I about to grow, I stays (anti-windup). -/
theorem pidStep_saturated {cs : List Nat} {x mode : Nat} {a b i m f u e dm p g inc : Int} (he : e = if bit mode 0 then b - a else a - b)
    (hdm : dm = if bit mode 0 then b - m else m - b) (hp : p = gainOf cs x e)
    (hg : g = f + gainOf cs (x + 3) (gainOf cs (x + 2) dm - f)) (hinc : inc = gainOf cs (x + 1) e)
    (hlo : coefVal cs (x + 4) ≤ i) (hhi : i ≤ coefVal cs (x + 5)) (hsum : coefVal cs (x + 5) ≤ p + i + g) (hgrow : 0 < inc) :
    (pidStep cs x mode ⟨none, false, none⟩ a b [i, m, f, u]).1 =
      [i, b, g, clampI (coefVal cs (x + 4)) (coefVal cs (x + 5)) (p + i + g)] := by
  have hstay : (if (decide (p + i + g ≥ coefVal cs (x + 5)) && decide (inc > 0) ||
      decide (p + i + g ≤ coefVal cs (x + 4)) && decide (inc < 0)) = true then i else i + inc) = i :=
    if_pos (by simp [hsum, hgrow])
  subst he hdm hp hg hinc
  unfold pidStep
  simp only [Bool.false_and, Bool.false_eq_true, if_false, List.getD_cons_zero, List.getD_cons_succ, List.isEmpty_cons]
  rw [hstay, clampI_of_mem hlo hhi]

/-- The first input is selected where it is usable and selected already. -/
theorem selqPick_keeps_first {usable : List Bool} (run : List Int) (returnN : Int) (h : usable.getD 0 false = true) :
    selqPick usable run 0 returnN = 0 := by
  have hfind : ∀ q : Nat → Bool, q 0 = true → [0, 1, 2].find? q = some 0 := fun q hq => by simp [hq]
  unfold selqPick
  dsimp only
  rw [hfind _ (by rw [h]; rfl)]

/-- No input is selected where none is usable. -/
theorem selqPick_of_none {usable : List Bool} (run : List Int) (cur : Nat) (returnN : Int) (h : ∀ j, usable.getD j false = false) :
    selqPick usable run cur returnN = 3 := by
  unfold selqPick
  simp only [h, Bool.false_and]
  rfl

theorem getD_map_selqUsable (reject : Nat) (ins : List (Option NodeVal)) (j : Nat) :
    (ins.map (selqUsable reject)).getD j false = selqUsable reject (ins.getD j none) := by
  rw [List.getD_eq_getElem?_getD, List.getD_eq_getElem?_getD, List.getElem?_map]
  cases ins[j]? <;> rfl

theorem selqUsable_getD_of_all {reject : Nat} {ins : List (Option NodeVal)} (h : ∀ v, v ∈ ins → selqUsable reject v = false) (j : Nat) :
    selqUsable reject (ins.getD j none) = false := by
  rw [List.getD_eq_getElem?_getD]
  cases hj : ins[j]? with
  | none => rfl
  | some v => exact h v (List.mem_of_getElem? hj)

theorem selqStep_keeps_first {cs : List Nat} {x : Nat} {ins : List (Option NodeVal)} {old : List Int} {v : NodeVal}
    (hv : ins.getD 0 none = some v) (hu : selqUsable (coefVal cs x).toNat (some v) = true) (hold : old.getD 0 0 = 0) :
    (selqStep cs x ins old).2.2 = 0 ∧ (selqStep cs x ins old).2.1.value = v.value := by
  have hfirst : (ins.map (selqUsable (coefVal cs x).toNat)).getD 0 false = true := by
    rw [getD_map_selqUsable, hv]
    exact hu
  unfold selqStep
  dsimp only
  rw [hold, Int.toNat_zero, selqPick_keeps_first _ _ hfirst, hv]
  exact ⟨rfl, rfl⟩

theorem selqStep_holds {cs : List Nat} {x : Nat} {ins : List (Option NodeVal)} {old : List Int} (hlen : ins.length = 3) (hold : old ≠ [])
    (hu : ∀ v, v ∈ ins → selqUsable (coefVal cs x).toNat v = false) :
    (selqStep cs x ins old).2.2 = 3 ∧ (selqStep cs x ins old).2.1.value = old.getD 4 0 := by
  have hnone : ∀ j, (ins.map (selqUsable (coefVal cs x).toNat)).getD j false = false := fun j => by
    rw [getD_map_selqUsable, selqUsable_getD_of_all hu]
  have hout : ins.getD 3 none = none := List.getD_eq_default _ _ (by omega)
  unfold selqStep
  dsimp only
  rw [selqPick_of_none _ _ _ hnone, hout]
  dsimp only
  rw [if_neg (by simpa using hold)]
  exact ⟨rfl, rfl⟩

end Sys2Proof.Machine

namespace Sys2Proof
open Machine

/-- Settles O48: both limits of a PID come from its clamp, the anti-windup from its test of the sum; SELQ's pick is settled by its first
search. -/
theorem nodesComputeWithinLimits : Obligations.NodesComputeWithinLimits := by
  unfold Obligations.NodesComputeWithinLimits
  refine ⟨fun cs x mode env a b old hle => ?_, fun cs x mode a b i m f u e dm p g inc => pidStep_saturated,
    fun cs x ins old v _ => selqStep_keeps_first, fun cs x ins old => selqStep_holds⟩
  obtain ⟨i, f, j, hwords, hresult⟩ := pidStep_limits cs x mode env a b old
  exact ⟨_, _, _, _, hwords, rfl, hresult, le_clampI i hle, clampI_le _ _ i, le_clampI j hle, clampI_le _ _ j⟩

end Sys2Proof
end

section
-- One proof after another: side by side, the stacks of their threads reach the check's limit of memory.
set_option Elab.async false
/-! The zones in time (spec/09): updates, first measurements, predictions and presence. -/

namespace Sys2Proof.Machine

/-! ### A zone's own writes -/

/-- Zone `z` keeps the time of its next update; of the others nothing has changed but a first measurement. -/
def ZoneStep (z : Nat) (c d : Chip) : Prop :=
  (d.zone z).due = (c.zone z).due ∧ ∀ j, j ≠ z → (c.zone j).Measured (d.zone j)

theorem ZoneStep.refl (z : Nat) (c : Chip) : ZoneStep z c c := ⟨rfl, fun _ _ => .refl _⟩

theorem ZoneStep.trans {z : Nat} {a b c : Chip} (h : ZoneStep z a b) (h' : ZoneStep z b c) : ZoneStep z a c :=
  ⟨h'.1.trans h.1, fun j hj => (h.2 j hj).trans (h'.2 j hj)⟩

theorem ZonesMeasured.zoneStep {c d : Chip} (h : ZonesMeasured c d) (z : Nat) : ZoneStep z c d :=
  ⟨by rw [h z], fun j _ => h j⟩

theorem setZone_zoneStep {z : Nat} {c : Chip} {s : ZoneSt} (h : s.due = (c.zone z).due) : ZoneStep z c (c.setZone z s) :=
  ⟨by rw [Chip.setZone_same, h], fun j hj => .of_eq (Chip.setZone_other _ _ _ _ hj)⟩

theorem fire_zonesMeasured (e x : Nat) (c : Chip) : ZonesMeasured c (c.fire e x) := .of_eq (Chip.fire_zones _ _ _)

theorem substitute_zones (z : Nat) (on : Bool) (c : Chip) : (c.substitute z on).zones = c.zones :=
  (substitute_keeps (.refl _) z on c (.refl c)).zones

theorem closeWindow_zoneStep (z : Nat) (f : FitSt) (c : Chip) : ZoneStep z c (c.closeWindow z f) := by
  have hform : ∀ d : Chip, ZoneStep z d (d.formTransition z) := fun d => setZone_zoneStep rfl
  unfold Chip.closeWindow
  dsimp only
  split
  · refine ZoneStep.trans (setZone_zoneStep ?_) (hform _)
    rfl
  · exact setZone_zoneStep rfl

theorem fitUpdate_zoneStep (z : Nat) (x u : List Int) (y r : Int) (c : Chip) : ZoneStep z c (c.fitUpdate z x u y r) := by
  unfold Chip.fitUpdate
  split
  · exact .refl z c
  · extract_lets phi f1 src c1
    clear_value f1
    have hset : ZoneStep z c c1 := setZone_zoneStep rfl
    split
    · refine (hset.trans ?_).trans ((fire_zonesMeasured _ _ _).zoneStep z)
      exact setZone_zoneStep rfl
    · split
      · exact hset.trans (closeWindow_zoneStep _ _ _)
      · exact hset

theorem endSuspect_zoneStep (z reason : Nat) (takeY : Bool) (c : Chip) : ZoneStep z c (c.endSuspect z reason takeY) := by
  unfold Chip.endSuspect
  extract_lets s x
  split
  · exact .refl z c
  · have hset : ZoneStep z c (c.setZone z { c.zone z with
        model := .tracking, x := x, goodSince := none, runStart := none, runLen := 0 }) := setZone_zoneStep rfl
    exact (hset.trans (ZonesMeasured.zoneStep (.of_eq (substitute_zones _ _ _)) z)).trans ((fire_zonesMeasured _ _ _).zoneStep z)

theorem judge_zoneStep (z t : Nat) (r : Option Int) (c : Chip) : ZoneStep z c (c.judge z t r) := by
  unfold Chip.judge
  extract_lets s thr persist exceeds run good since c1 src c2
  clear_value run since
  have hset : ZoneStep z c c1 := setZone_zoneStep rfl
  refine iteInduction (motive := ZoneStep z c) (fun _ => ?_) (fun _ => iteInduction (motive := ZoneStep z c) (fun _ => ?_) (fun _ => hset))
  · split
    · split
      · exact hset.trans (endSuspect_zoneStep _ _ _ _)
      · exact hset
    · exact hset
  · refine ZoneStep.trans ?_ ((fire_zonesMeasured _ _ _).zoneStep z)
    have hsuspect : ZoneStep z c c2 := hset.trans (setZone_zoneStep rfl)
    split
    · exact hsuspect.trans (ZonesMeasured.zoneStep (.of_eq (substitute_zones _ _ _)) z)
    · exact hsuspect

theorem writeSlot_zones (sid : Nat) (v t : Word) (q p : Half) (c : Chip) : (c.writeSlot sid v t q p).zones = c.zones := rfl

theorem writeZone_measured (z t : Nat) (remote : Bool) (c : Chip) : ZonesMeasured c (c.writeZone z t remote) := by
  unfold Chip.writeZone
  extract_lets s q v c1
  have hproduce : ZonesMeasured c c1 := by
    unfold c1
    split
    · exact produce_measured _ _ _ _ _ _
    · exact .refl c
  split
  · split
    · split
      · exact hproduce.trans (.of_eq (substitute_zones _ _ _))
      · exact hproduce.trans (.of_eq ((writeSlot_zones _ _ _ _ _ _).trans (substitute_zones _ _ _)))
    · exact hproduce
  · exact hproduce

/-! ### Updates -/

/-- A zone without a measurement since its start does nothing at its update but to await the next. -/
theorem updateZone_unmeasured {c : Chip} {z : Nat} (d t : Nat) (hi : (c.zone z).initUntil.isSome = true) (hy : c.zoneYValue z = none) :
    c.updateZone z d t = c.setZone z { c.zone z with due := some (d + sec (c.zonePeriod z)) } := by
  obtain ⟨x, hx⟩ := Option.isSome_iff_exists.mp hi
  unfold Chip.updateZone
  dsimp only
  rw [hx, hy]

/-- An update writes its own zone, and sets when the next one is due. -/
theorem updateZone_zoneStep (z d t : Nat) (c : Chip) :
    ZoneStep z (c.setZone z { c.zone z with due := some (d + sec (c.zonePeriod z)) }) (c.updateZone z d t) := by
  unfold Chip.updateZone
  extract_lets s0 y c0 src ready
  change ZoneStep z c0 _
  have hready : ∀ c1, ready = some c1 → ZoneStep z c0 c1 := fun c1 h => by
    unfold ready at h
    split at h
    · exact Option.some.inj h ▸ .refl z c0
    · exact Option.some.inj h ▸ setZone_zoneStep rfl
    · cases h
  cases hr : ready with
  | none => exact .refl z c0
  | some c1 =>
    dsimp only
    refine (hready c1 hr).trans ?_
    refine ZoneStep.trans (ZoneStep.trans ?_ (judge_zoneStep _ _ _ _)) ((writeZone_measured _ _ _ _).zoneStep z)
    split
    · refine iteInduction (motive := ZoneStep z c1) (fun _ => ?_) (fun _ => setZone_zoneStep rfl)
      refine ZoneStep.trans (setZone_zoneStep ?_) (fitUpdate_zoneStep _ _ _ _ _ _)
      rfl
    · exact setZone_zoneStep rfl

theorem zoneRow_of_due {c : Chip} {z d : Nat} (hd : (c.zone z).due = some d) (hn : c.nextZone = some z) (ht : c.transitComes d = true) :
    c.zoneRow z = (c.waitTransit d).updateZone z d ((c.waitTransit d).clk.now - ((c.waitTransit d).clk.transit - d)) := by
  unfold Chip.zoneRow
  rw [hd]
  exact if_pos (by simp [hn, ht])

theorem zoneRow_idle {c : Chip} {z : Nat} (h : (c.zone z).due = none ∨ c.nextZone ≠ some z ∨
      ∀ d, (c.zone z).due = some d → c.transitComes d = false) : c.zoneRow z = c := by
  unfold Chip.zoneRow
  cases hd : (c.zone z).due with
  | none => rfl
  | some d =>
    refine if_neg ?_
    rcases h with h | h | h
    · rw [h] at hd
      cases hd
    · simp [h]
    · simp [h d hd]

theorem waitTransit_frame (d : Nat) (c : Chip) : Keeps (Field.clk ||| Field.rtc) c (c.waitTransit d) :=
  waitTransit_keeps (.refl _) d c (.refl c)

theorem waitUntil_zone (c : Chip) (t j : Nat) : (c.waitUntil t).zone j = c.zone j := (Chip.waitUntil_frame t c).zone_eq rfl j

/-! ### First measurements and suspensions -/

/-- A zone after its time for a first measurement. -/
def Chip.reinited (c : Chip) (z : Nat) : ZoneSt :=
  let s := c.takeY z (c.zone z)
  if s.initUntil.isSome then { s with model := .open, initUntil := none, x := List.replicate (c.zoneNodes z) (20 * 65536) } else s

theorem reinitTimeout_of_waiting {c : Chip} {z d : Nat} (h : (c.zone z).initUntil = some d) :
    c.reinitTimeout z = (c.waitUntil d).setZone z ((c.waitUntil d).reinited z) := by
  unfold Chip.reinitTimeout
  rw [h]
  rfl

theorem reinitTimeout_idle {c : Chip} {z : Nat} (h : (c.zone z).initUntil = none) : c.reinitTimeout z = c := by
  unfold Chip.reinitTimeout
  rw [h]

theorem reinited_of_none {c : Chip} {z d : Nat} (h : (c.zone z).initUntil = some d) (hy : c.zoneYValue z = none ∨ d < c.clk.now) :
    (c.reinited z).model = .open ∧ (c.reinited z).x = List.replicate (c.zoneNodes z) (20 * 65536) ∧ (c.reinited z).initUntil = none := by
  have hkept : c.takeY z (c.zone z) = c.zone z := by
    unfold Chip.takeY
    rw [h]
    cases hv : c.zoneYValue z with
    | none => rfl
    | some y =>
      rcases hy with hy | hy
      · rw [hy] at hv
        cases hv
      · exact if_neg (by omega)
  unfold Chip.reinited
  dsimp only
  rw [hkept, if_pos (by simp [h])]
  exact ⟨rfl, rfl, rfl⟩

theorem reinited_of_some {c : Chip} {z d : Nat} {y : Int} (h : (c.zone z).initUntil = some d) (hy : c.zoneYValue z = some y)
    (hd : c.clk.now ≤ d) :
    (c.reinited z).model = .tracking ∧ (c.reinited z).x = List.replicate (c.zoneNodes z) y ∧ (c.reinited z).initUntil = none := by
  have htaken : c.takeY z (c.zone z) = { c.zone z with model := .tracking, initUntil := none, x := List.replicate (c.zoneNodes z) y } := by
    unfold Chip.takeY
    rw [h, hy]
    exact if_pos hd
  unfold Chip.reinited
  dsimp only
  rw [htaken]
  exact ⟨rfl, rfl, rfl⟩

theorem reinited_initUntil {c : Chip} {z d : Nat} (h : (c.zone z).initUntil = some d) : (c.reinited z).initUntil = none := by
  by_cases hd : c.clk.now ≤ d
  · cases hy : c.zoneYValue z with
    | none => exact (reinited_of_none h (.inl hy)).2.2
    | some y => exact (reinited_of_some h hy hd).2.2
  · exact (reinited_of_none h (.inr (by omega))).2.2

theorem zoneYValue_setZone (c : Chip) (z j : Nat) (s : ZoneSt) : (c.setZone j s).zoneYValue z = c.zoneYValue z := rfl

theorem waitUntil_zoneNodes (c : Chip) (t z : Nat) : (c.waitUntil t).zoneNodes z = c.zoneNodes z := by
  unfold Chip.zoneNodes Chip.zoneCfg
  rw [waitUntil_attrN]

theorem suspendOver_of_suspended {c : Chip} {z d : Nat} (h : (c.zone z).suspend = some d) :
    c.suspendOver z = (c.waitUntil d).setZone z { c.zone z with suspend := none } := by
  unfold Chip.suspendOver
  rw [h]
  dsimp only
  rw [waitUntil_zone]

theorem suspendOver_idle {c : Chip} {z : Nat} (h : (c.zone z).suspend = none) : c.suspendOver z = c := by
  unfold Chip.suspendOver
  rw [h]

/-! ### Predictions -/

theorem predictionRow_of_command {c : Chip} {q : Predict} {rest : List Predict} {x t : Nat} (h : c.predictions = q :: rest)
    (hq : q.cmd = some (x, t)) :
    c.predictionRow = if (!c.zoneEn q.zone) = true then { c with predictions := rest }.finishTag x t stBusy noOfs []
      else { c with predictions := rest }.finishTag x t stOK noOfs
        (leBytes 4 ((c.runPredict q).1.getD 0xFFFFFFFF) ++ leBytes 4 (unsigned 32 (c.runPredict q).2.1) ++ leBytes 2 (c.runPredict q).2.2
          ++ [0, 0]) := by
  unfold Chip.predictionRow
  rw [h]
  dsimp only
  rw [hq]

theorem predictionRow_of_schedule {c : Chip} {q : Predict} {rest : List Predict} (h : c.predictions = q :: rest) (hq : q.cmd = none) :
    c.predictionRow = if c.zoneEn q.zone = true
      then ({ c with predictions := rest } : Chip).setZone q.zone { c.zone q.zone with
        leadReplies := (c.zone q.zone).leadReplies ++ [(q.check, (c.runPredict q).1)] }
      else { c with predictions := rest } := by
  unfold Chip.predictionRow
  rw [h]
  dsimp only
  rw [hq]
  rfl

theorem predictionRow_idle {c : Chip} (h : c.predictions = []) : c.predictionRow = c := by
  unfold Chip.predictionRow
  rw [h]

/-! ### Presence -/

theorem presenceRow_off {c : Chip} {z i : Nat} (h : c.zonePres z = false ∨ 8 ≤ i) : c.presenceRow z i = c ∧ c.sourceLost z i = c := by
  have hoff : (!c.zonePres z || decide (8 ≤ i)) = true := by
    rcases h with h | h
    · simp [h]
    · simp [h]
  exact ⟨if_pos hoff, if_pos (by rw [hoff]; rfl)⟩

/-- What a source's evidence does to its zone, by the kind of the source (Table 9.4). -/
theorem presenceRow_of_on {c : Chip} {z i : Nat} (hp : c.zonePres z = true) (hi : i < 8) {src : List Byte} (hs : src = c.presSource z i) :
    (fld src 0 1 = 1 → c.presenceRow z i = if (c.zone z).pirDue.contains i
      then (c.setZone z { c.zone z with pirDue := (c.zone z).pirDue.erase i }).evidence z i 1 else c) ∧
    (fld src 0 1 = 2 → (c.presHigh src = none → c.presenceRow z i = c) ∧
      ∀ b, c.presHigh src = some b → c.presenceRow z i = c.setContact z i b) ∧
    (fld src 0 1 = 3 → c.presenceRow z i = c.setAsserted z i 3 (c.presHigh src == some true)) ∧
    (fld src 0 1 = 4 → c.presenceRow z i = c.setAsserted z i 4 ((c.zone (fld src 2 2)).presence != .vacant)) ∧
    (fld src 0 1 = 0 ∨ 4 < fld src 0 1 → c.presenceRow z i = c) := by
  subst hs
  have hon : ¬ (!c.zonePres z || decide (8 ≤ i)) = true := by
    simp only [hp, Bool.not_true, Bool.false_or, decide_eq_true_eq]
    omega
  unfold Chip.presenceRow
  dsimp only
  rw [if_neg hon]
  refine ⟨fun hk => ?_, fun hk => ⟨fun h => ?_, fun b h => ?_⟩, fun hk => ?_, fun hk => ?_, fun hk => ?_⟩
  · rw [if_pos (by simp [hk])]
  · rw [if_neg (by simp [hk]), if_pos (by simp [hk]), h]
  · rw [if_neg (by simp [hk]), if_pos (by simp [hk]), h]
  · rw [if_neg (by simp [hk]), if_neg (by simp [hk]), if_pos (by simp [hk])]
  · rw [if_neg (by simp [hk]), if_neg (by simp [hk]), if_neg (by simp [hk]), if_pos (by simp [hk])]
  · rw [if_neg (by simp only [beq_iff_eq]; omega), if_neg (by simp only [beq_iff_eq]; omega), if_neg (by simp only [beq_iff_eq]; omega),
      if_neg (by simp only [beq_iff_eq]; omega)]

theorem presenceRow_idle {c : Chip} {z i : Nat} {src : List Byte} (hs : src = c.presSource z i)
    (h : (fld src 0 1 = 1 ∧ (c.zone z).pirDue.contains i = false) ∨ (fld src 0 1 = 2 ∧ c.presHigh src = none) ∨
      fld src 0 1 = 0 ∨ 4 < fld src 0 1) : c.presenceRow z i = c := by
  by_cases hon : c.zonePres z = true ∧ i < 8
  · obtain ⟨hpir, hcontact, -, -, hother⟩ := presenceRow_of_on hon.1 hon.2 hs
    rcases h with ⟨hk, hno⟩ | ⟨hk, hno⟩ | hk
    · exact (hpir hk).trans (if_neg (Bool.eq_false_iff.mp hno))
    · exact (hcontact hk).1 hno
    · exact hother hk
  · rw [not_and_or, Bool.not_eq_true, not_lt] at hon
    exact (presenceRow_off hon).1

theorem sourceLost_idle {c : Chip} {z i : Nat} {src : List Byte} (hs : src = c.presSource z i)
    (h : (c.presHigh src).isSome = true ∨ (fld src 0 1 ≠ 2 ∧ fld src 0 1 ≠ 3)) : c.sourceLost z i = c := by
  subst hs
  unfold Chip.sourceLost
  dsimp only
  split
  · rfl
  · rename_i hon
    rcases h with h | ⟨h2, h3⟩
    · simp [h] at hon
    · rw [if_neg (by simpa using h2), if_neg (by simpa using h3)]

/-- What the loss of a source does to its zone, by the kind of the source. -/
theorem sourceLost_of_lost {c : Chip} {z i : Nat} (hp : c.zonePres z = true) (hi : i < 8) {src : List Byte} (hs : src = c.presSource z i)
    (hnone : c.presHigh src = none) :
    (fld src 0 1 = 3 → c.sourceLost z i = c.setAsserted z i 3 false) ∧
    (fld src 0 1 = 2 → c.sourceLost z i = if ((c.zone z).presence == .latched && (c.zone z).latchOn == some i) = true
      then (c.setZone z { c.zone z with contacts := (c.zone z).contacts.set i none }).unlatch z
      else c.setZone z { c.zone z with contacts := (c.zone z).contacts.set i none }) := by
  subst hs
  have hon : ¬ (!c.zonePres z || decide (8 ≤ i) || (c.presHigh (c.presSource z i)).isSome) = true := by
    simp only [hp, hnone, Bool.not_true, Bool.false_or, Option.isSome_none, Bool.or_false, decide_eq_true_eq]
    omega
  unfold Chip.sourceLost
  dsimp only
  rw [if_neg hon]
  refine ⟨fun hk => ?_, fun hk => ?_⟩
  · rw [if_neg (by simp [hk]), if_pos (by simp [hk])]
  · rw [if_pos (by simp [hk])]

/-- The zone that `presenceTo` makes, with its slot written; E74 tells of it. -/
def Chip.presenceSet (z : Nat) (p : Presence) (reason : Nat) (hold : Option Nat) (c : Chip) : Chip :=
  (c.setZone z { c.zone z with presence := p, reason := reason, hold := hold, confirm := [] }).writePresence z

theorem presenceTo_eq (c : Chip) (z : Nat) (p : Presence) (reason : Nat) (hold : Option Nat) :
    c.presenceTo z p reason hold = (c.presenceSet z p reason hold).fire 74 (z + 256 * p.code + 4096 * reason) := rfl

theorem writePresence_measured (z : Nat) (c : Chip) :
    ZonesMeasured (c.setZone z { c.zone z with presWritten := c.clk.now }) (c.writePresence z) := by
  unfold Chip.writePresence
  exact produceOpt_measured _ _ _ _ _ _

theorem writePresence_presWritten (z : Nat) (c : Chip) : ((c.writePresence z).zone z).presWritten = c.clk.now := by
  rw [writePresence_measured z c z, Chip.setZone_same]

theorem presenceSet_zone (c : Chip) (z : Nat) (p : Presence) (reason : Nat) (hold : Option Nat) :
    ((c.presenceSet z p reason hold).zone z).presence = p ∧ ((c.presenceSet z p reason hold).zone z).reason = reason ∧
      ((c.presenceSet z p reason hold).zone z).hold = hold ∧
      ((c.presenceSet z p reason hold).zone z).lastEvidence = (c.zone z).lastEvidence := by
  have h := writePresence_measured z (c.setZone z { c.zone z with presence := p, reason := reason, hold := hold, confirm := [] }) z
  rw [Chip.setZone_same, Chip.setZone_same] at h
  unfold Chip.presenceSet
  rw [h]
  exact ⟨rfl, rfl, rfl, rfl⟩

theorem presenceSet_zone_other (c : Chip) {z j : Nat} (p : Presence) (reason : Nat) (hold : Option Nat) (hj : j ≠ z) :
    (c.zone j).Measured ((c.presenceSet z p reason hold).zone j) := by
  have h := writePresence_measured z (c.setZone z { c.zone z with presence := p, reason := reason, hold := hold, confirm := [] }) j
  rwa [Chip.setZone_other _ _ _ _ hj, Chip.setZone_other _ _ _ _ hj] at h

/-- Evidence of presence has come: its time is noted. -/
def Chip.evident (z : Nat) (c : Chip) : Chip := c.setZone z { c.zone z with lastEvidence := c.clk.now }

theorem evident_zone (z : Nat) (c : Chip) : (c.evident z).zone z = { c.zone z with lastEvidence := c.clk.now } := Chip.setZone_same ..

theorem evident_zone_other (c : Chip) {z j : Nat} (hj : j ≠ z) : (c.evident z).zone j = c.zone j := Chip.setZone_other _ _ _ _ hj

theorem evident_holdFrom (z : Nat) (c : Chip) : (c.evident z).holdFrom z = c.holdFrom z := by
  unfold Chip.holdFrom
  rw [evident_zone]
  rfl

theorem evidence_of_vacant {c : Chip} {z i kind : Nat} {ev : List Nat} (hv : (c.zone z).presence = .vacant)
    (hev : ev = (c.zone z).confirm.filter (fun t => decide (c.clk.now ≤ t + sec (bits (c.attrN tyZone z 14) 20 12))) ++ [c.clk.now]) :
    c.evidence z i kind = if (kind == 3 || kind == 4 || decide (bits (c.attrN tyZone z 14) 16 4 ≤ ev.length)) = true
      then (c.evident z).presenceTo z .occupied i ((c.evident z).holdFrom z)
      else (c.evident z).setZone z { c.zone z with lastEvidence := c.clk.now, confirm := ev } := by
  subst hev
  unfold Chip.evidence
  dsimp only
  rw [Chip.setZone_same]
  dsimp only
  rw [hv]
  dsimp only
  rw [← hv]
  rfl

theorem evidence_of_occupied {c : Chip} {z i kind : Nat} (ho : (c.zone z).presence = .occupied) (hk : kind ≠ 1) :
    c.evidence z i kind = (c.evident z).setZone z { c.zone z with lastEvidence := c.clk.now, hold := c.holdFrom z } := by
  rw [← evident_holdFrom]
  unfold Chip.evidence
  dsimp only
  rw [Chip.setZone_same]
  dsimp only
  rw [ho]
  dsimp only
  split
  · exact absurd rfl hk
  · rw [← ho]
    rfl

theorem evidence_of_latched {c : Chip} {z : Nat} (i kind : Nat) (hl : (c.zone z).presence = .latched) :
    c.evidence z i kind = c.setZone z { c.zone z with lastEvidence := c.clk.now } := by
  unfold Chip.evidence
  dsimp only
  rw [Chip.setZone_same]
  dsimp only
  rw [hl]

theorem holdExpiry_of_occupied {c : Chip} {z d : Nat} (ho : (c.zone z).presence = .occupied) (hh : (c.zone z).hold = some d)
    (hp : c.zonePres z = true) (ht : c.transitComes d = true) :
    c.holdExpiry z = if (c.waitTransit d).evidenceWaits z = true then c.waitTransit d else (c.waitTransit d).presenceTo z .vacant 8 none := by
  unfold Chip.holdExpiry
  rw [ho, hh]
  exact if_pos (by simp [hp, ht])

theorem holdExpiry_idle {c : Chip} {z : Nat} (h : (c.zone z).presence ≠ .occupied ∨ c.zonePres z = false ∨
      ∀ d, (c.zone z).hold = some d → c.transitComes d = false) : c.holdExpiry z = c := by
  unfold Chip.holdExpiry
  split
  · rename_i ho hd
    refine if_neg ?_
    rcases h with h | h | h
    · exact absurd ho h
    · simp [h]
    · simp [h _ hd]
  · rfl

end Sys2Proof.Machine

namespace Sys2Proof
open Machine

/-- Settles O49: what an update and presence write reaches other zones only as a first measurement; the other rows are cases of their
definitions. -/
theorem zonesEvolve : Obligations.ZonesEvolve := by
  unfold Obligations.ZonesEvolve
  intro s z
  refine ⟨?update, fun h => Leads.of_eq rfl (zoneRow_idle h), ?start, fun h => Leads.of_eq rfl (reinitTimeout_idle h), ?suspend,
    fun h => Leads.of_eq rfl (suspendOver_idle h), ?command, ?schedule, fun h => Leads.of_eq rfl (predictionRow_idle h), ?sourceIdle,
    ?source, ?contactLost, ?vacant, ?occupied, fun c i kind hl => evidence_of_latched i kind hl, ?hold,
    fun h => Leads.of_eq rfl (holdExpiry_idle h), ?refresh, fun h => Leads.of_eq rfl (if_neg (by simp [h]))⟩
  case update =>
    intro d hd hn ht
    have hframe := waitTransit_frame d s.chip
    obtain ⟨hdue, hother⟩ := updateZone_zoneStep z d
      ((s.chip.waitTransit d).clk.now - ((s.chip.waitTransit d).clk.transit - d)) (s.chip.waitTransit d)
    refine ⟨_, _, rfl, rfl, waitTransit_of_comes ht, Leads.of_eq rfl (zoneRow_of_due hd hn ht), hframe.zones, hframe.slots,
      fun hi hy => updateZone_unmeasured _ _ hi hy, fun j hj => ?_, ?_⟩
    · have hmeasured := hother j hj
      rwa [Chip.setZone_other _ _ _ _ hj, hframe.zone_eq rfl] at hmeasured
    · rw [hdue, Chip.setZone_same]
  case start =>
    intro d h
    have h' : ((s.chip.waitUntil d).zone z).initUntil = some d := (congrArg ZoneSt.initUntil (waitUntil_zone _ d z)).trans h
    have hframe := Chip.waitUntil_frame d s.chip
    refine ⟨_, Leads.of_eq rfl (reinitTimeout_of_waiting h), Chip.le_waitUntil _ d, ?_⟩
    rw [Chip.setZone_same, zoneYValue_setZone, ← waitUntil_zoneNodes s.chip d]
    refine ⟨reinited_initUntil h', fun hy => ?_, fun y hy hd => ?_, fun j hj => (Chip.setZone_other _ _ _ _ hj).trans (waitUntil_zone _ d j),
      hframe.slots, hframe.attrs⟩
    · obtain ⟨hmodel, hx, -⟩ := reinited_of_none h' hy
      exact ⟨hmodel, hx⟩
    · obtain ⟨hmodel, hx, -⟩ := reinited_of_some h' hy hd
      exact ⟨hmodel, hx⟩
  case suspend =>
    exact fun d h => ⟨_, Leads.of_eq rfl (suspendOver_of_suspended h), Chip.le_waitUntil _ d, Chip.setZone_same ..,
      fun j hj => (Chip.setZone_other _ _ _ _ hj).trans (waitUntil_zone _ d j), waitUntil_slots _ d⟩
  case command =>
    intro q rest x t h hq
    have hrow := predictionRow_of_command h hq
    exact ⟨fun hen => Leads.of_eq rfl (hrow.trans (if_neg (by simp [hen]))), fun hen => Leads.of_eq rfl (hrow.trans (if_pos (by simp [hen])))⟩
  case schedule =>
    intro q rest h hq
    have hrow := predictionRow_of_schedule h hq
    by_cases hen : s.chip.zoneEn q.zone = true
    · refine ⟨_, Leads.of_eq rfl (hrow.trans (if_pos hen)), rfl, fun _ => ?_, fun hno => absurd hen (by simp [hno]),
        fun j hj => Chip.setZone_other _ _ _ _ hj⟩
      rw [Chip.setZone_same]
    · exact ⟨_, Leads.of_eq rfl (hrow.trans (if_neg hen)), rfl, fun h => absurd h hen, fun _ => rfl, fun _ _ => rfl⟩
  case sourceIdle =>
    intro i src hs
    refine ⟨fun h => ⟨Leads.of_eq rfl (presenceRow_off h).1, Leads.of_eq rfl (presenceRow_off h).2⟩, fun hk hno => ?_, fun hk hno => ?_,
      fun hk => ?_, fun h => Leads.of_eq rfl (sourceLost_idle hs h)⟩
    · exact Leads.of_eq rfl (presenceRow_idle hs (.inl ⟨hk, hno⟩))
    · exact Leads.of_eq rfl (presenceRow_idle hs (.inr (.inl ⟨hk, hno⟩)))
    · exact Leads.of_eq rfl (presenceRow_idle hs (.inr (.inr hk)))
  case source =>
    intro i src hp hi hs
    obtain ⟨hpir, hcontact, hlevel, hzone, -⟩ := presenceRow_of_on hp hi hs
    refine ⟨fun hk hdue => Leads.of_eq rfl ((hpir hk).trans (if_pos hdue)), fun hk b hb => Leads.of_eq rfl ((hcontact hk).2 b hb),
      fun hk => Leads.of_eq rfl (hlevel hk), fun hk => Leads.of_eq rfl (hzone hk),
      fun hk hno => Leads.of_eq rfl ((sourceLost_of_lost hp hi hs hno).1 hk), fun hk hno hl => ?_, fun hk hno hl hon => ?_⟩
    · exact Leads.of_eq rfl (((sourceLost_of_lost hp hi hs hno).2 hk).trans (if_neg (by simp [hl])))
    · exact Leads.of_eq rfl (((sourceLost_of_lost hp hi hs hno).2 hk).trans (if_pos (by simp [hl, hon])))
  case contactLost =>
    exact fun i src hp hi hs hk hno hl hon =>
      Leads.of_eq rfl (((sourceLost_of_lost hp hi hs hno).2 hk).trans (if_neg (by simp [hl, hon])))
  case vacant =>
    intro c i kind ev hv hev
    have hrow := evidence_of_vacant (i := i) (kind := kind) hv hev
    refine ⟨fun h => ?_, fun h3 h4 hlt => ?_⟩
    · obtain ⟨hpresence, hreason, -, hlast⟩ := presenceSet_zone (c.evident z) z .occupied i ((c.evident z).holdFrom z)
      refine ⟨_, (hrow.trans (if_pos ?_)).trans (presenceTo_eq _ _ _ _ _), hpresence, hreason, ?_, fun j hj => ?_⟩
      · simpa [or_assoc] using h
      · rw [hlast, evident_zone]
      · have hmeasured := presenceSet_zone_other (c.evident z) .occupied i ((c.evident z).holdFrom z) hj
        rwa [evident_zone_other _ hj] at hmeasured
    · rw [hrow, if_neg (by simp only [Bool.or_eq_true, beq_iff_eq, decide_eq_true_eq]; omega)]
      exact ⟨Chip.setZone_same .., fun j hj => (Chip.setZone_other _ _ _ _ hj).trans (evident_zone_other c hj), rfl⟩
  case occupied =>
    intro c i kind ho hk
    rw [evidence_of_occupied ho hk]
    exact ⟨Chip.setZone_same .., fun j hj => (Chip.setZone_other _ _ _ _ hj).trans (evident_zone_other c hj), rfl⟩
  case hold =>
    intro d c ho hh hp ht hc
    subst hc
    have hrow := holdExpiry_of_occupied ho hh hp ht
    have hframe := waitTransit_frame d s.chip
    refine ⟨waitTransit_of_comes ht, fun hw => Leads.of_eq rfl (hrow.trans (if_pos hw)), fun hw => ?_⟩
    obtain ⟨hpresence, hreason, hhold, -⟩ := presenceSet_zone (s.chip.waitTransit d) z .vacant 8 none
    refine ⟨_, Leads.of_eq rfl ((hrow.trans (if_neg (by simp [hw]))).trans (presenceTo_eq _ _ _ _ _)), hpresence, hreason, hhold,
      fun j hj => ?_⟩
    have hmeasured := presenceSet_zone_other (s.chip.waitTransit d) .vacant 8 none hj
    rwa [hframe.zone_eq rfl] at hmeasured
  case refresh =>
    intro hp
    obtain ⟨due, hdue⟩ : ∃ due, (s.chip.zone z).presWritten + sec 10 = due := ⟨_, rfl⟩
    have hrow : s.chip.presRefresh z = (s.chip.waitUntil ((s.chip.zone z).presWritten + sec 10)).writePresence z := if_pos hp
    rw [hdue] at hrow ⊢
    exact ⟨_, Leads.of_eq rfl hrow, Chip.le_waitUntil _ due, (Chip.waitUntil_frame due s.chip).zones, waitUntil_slots _ due,
      writePresence_presWritten z _⟩

end Sys2Proof
end

section
-- One proof after another: side by side, the stacks of their threads reach the check's limit of memory.
set_option Elab.async false
/-! How a link comes up (spec/11; R334–R338). What goes out on the links changes their lines and counters only; what a link
knows of its neighbour changes with its phase. -/

namespace Sys2Proof.Machine

/-! ### What is sent changes of a link only its line and its counters -/

/-- A link that has sent, demoted or discarded frames, and is otherwise as it was. -/
def LinkSt.Sent (s t : LinkSt) : Prop :=
  t = { s with
    wire := t.wire, line := t.line, sent := t.sent, bucket := t.bucket, bucketAt := t.bucketAt, c0Sent := t.c0Sent,
    demoted := t.demoted, c0Demoted := t.c0Demoted, errors := t.errors, discarded := t.discarded }

theorem LinkSt.Sent.trans {s t u : LinkSt} (h1 : s.Sent t) (h2 : t.Sent u) : s.Sent u := by
  unfold LinkSt.Sent at *
  calc u = { t with
          wire := u.wire, line := u.line, sent := u.sent, bucket := u.bucket, bucketAt := u.bucketAt, c0Sent := u.c0Sent,
          demoted := u.demoted, c0Demoted := u.c0Demoted, errors := u.errors, discarded := u.discarded } := h2
    _ = _ := by rw [h1]

theorem LinkSt.Sent.phase {s t : LinkSt} (h : s.Sent t) : t.phase = s.phase := by
  have h := congrArg LinkSt.phase h
  exact h

/-- Two states whose links differ by frames sent, demoted or discarded alone. -/
structure LinksSent (c d : Chip) : Prop where
  link : ∀ j, (c.link j).Sent (d.link j)

theorem LinksSent.of_eq {c d : Chip} (h : ∀ j, d.link j = c.link j) : LinksSent c d where
  link j := by
    rw [h j]
    rfl

theorem LinksSent.refl (c : Chip) : LinksSent c c := .of_eq fun _ => rfl

theorem LinksSent.trans {c d e : Chip} (h1 : LinksSent c d) (h2 : LinksSent d e) : LinksSent c e :=
  ⟨fun j => (h1.link j).trans (h2.link j)⟩

theorem LinksSent.foldl {α : Type} {f : Chip → α → Chip} (hf : ∀ c a, LinksSent c (f c a)) :
    ∀ (l : List α) (c : Chip), LinksSent c (l.foldl f c)
  | [], c => .refl c
  | a :: l, c => (hf c a).trans (LinksSent.foldl hf l (f c a))

theorem setLink_linksSent {c : Chip} {n : Nat} {s : LinkSt} (h : (c.link n).Sent s) : LinksSent c (c.setLink n s) where
  link j := by
    by_cases hj : j = n
    · subst hj
      rw [Chip.setLink_same]
      exact h
    · rw [Chip.setLink_other _ _ _ _ hj]
      rfl

theorem fire_linksSent (c : Chip) (e x : Nat) : LinksSent c (c.fire e x) := .of_eq fun j => Chip.fire_link c e x j

theorem setFabric_linksSent (c : Chip) (f : FabricSt → FabricSt) : LinksSent c (c.setFabric f) := .of_eq fun _ => rfl

theorem sendMsg_linksSent (c : Chip) (n : Nat) (m : LinkMsg) : LinksSent c (c.sendMsg n m) := setLink_linksSent rfl

theorem discard_linksSent (c : Chip) (n : Nat) : LinksSent c (c.discard n) := setLink_linksSent rfl

theorem noteError_linksSent (c : Chip) (n kind : Nat) : LinksSent c (c.noteError n kind) := setLink_linksSent rfl

theorem egress_linksSent (c : Chip) (n : Nat) (f : List Byte) (aborted : Bool) : LinksSent c (c.egress n f aborted) := by
  unfold Chip.egress
  dsimp only
  refine iteInduction (motive := LinksSent c) (fun _ => sendMsg_linksSent ..) fun _ =>
    iteInduction (motive := LinksSent c) (fun _ => ?token) fun _ => ?demoted
  case token => exact (setLink_linksSent (by rfl)).trans (sendMsg_linksSent ..)
  case demoted =>
    exact (((setLink_linksSent (by rfl)).trans (sendMsg_linksSent ..)).trans (noteError_linksSent ..)).trans (fire_linksSent ..)

theorem sendLsa_linksSent (c : Chip) (b : LsaBody) (n : Nat) : LinksSent c (c.sendLsa b n) :=
  (sendMsg_linksSent ..).trans (setFabric_linksSent ..)

theorem flood_linksSent (c : Chip) (except : Option Nat) (m : LinkMsg) : LinksSent c (c.flood except m) :=
  .foldl (fun c n => sendMsg_linksSent c n m) _ c

theorem floodOwn_linksSent (c : Chip) : LinksSent c c.floodOwn :=
  (setFabric_linksSent ..).trans (.foldl (fun c n => sendLsa_linksSent c c.ownLsa n) _ _)

theorem logFault_linksSent (c : Chip) (code detail : Nat) : LinksSent c (c.logFault code detail) :=
  .of_eq fun j => (logFault_keeps (.refl _) code detail c (.refl c)).link_eq rfl j

theorem passTx_linksSent (c : Chip) (q : Nat) (body : List Byte) : LinksSent c (c.passTx q body) :=
  .of_eq fun j => (passTx_keeps (.refl _) q body c (.refl c)).link_eq rfl j

theorem sendPhiveox_linksSent (c : Chip) (node cls : Nat) (payload : List Byte) : LinksSent c (c.sendPhiveox node cls payload) := by
  unfold Chip.sendPhiveox
  dsimp only
  split
  · exact iteInduction (motive := LinksSent c) (fun _ => (passTx_linksSent ..).trans (egress_linksSent ..))
      fun _ => setFabric_linksSent ..
  · exact setFabric_linksSent ..

theorem takeAddr_linksSent (c : Chip) (a : Nat) : LinksSent c (c.takeAddr a) := by
  unfold Chip.takeAddr
  extract_lets lost old changed c1 c2
  have h1 : LinksSent c c1 := setFabric_linksSent ..
  have h2 : LinksSent c c2 := iteInduction (motive := LinksSent c) (fun _ => h1.trans (logFault_linksSent ..)) fun _ => h1
  exact iteInduction (motive := LinksSent c) (fun _ => h2.trans (floodOwn_linksSent c2)) fun _ => h2

theorem grantTo_linksSent (c : Chip) (uid : Nat) (requested persisted : Option Nat) :
    LinksSent c (c.grantTo uid requested persisted) := by
  unfold Chip.grantTo
  split
  · exact .refl c
  · exact (setFabric_linksSent ..).trans (iteInduction (motive := LinksSent _) (fun _ => takeAddr_linksSent ..)
      fun _ => flood_linksSent ..)

theorem settleConflicts_linksSent (c : Chip) : LinksSent c c.settleConflicts :=
  iteInduction (motive := LinksSent c) (fun _ => .refl c) fun _ => .foldl (fun c _ => grantTo_linksSent c _ _ _) _ c

theorem seekAddr_linksSent (c : Chip) : LinksSent c c.seekAddr :=
  iteInduction (motive := LinksSent c) (fun _ => .refl c) fun _ =>
    iteInduction (motive := LinksSent c) (fun _ => grantTo_linksSent ..) fun _ => flood_linksSent ..

theorem updateRoute_linksSent (c : Chip) (r : Nat) : LinksSent c (c.updateRoute r) :=
  iteInduction (motive := LinksSent c) (fun _ => .refl c) fun _ =>
    iteInduction (motive := LinksSent c) (fun _ => .refl c) fun _ =>
      (setFabric_linksSent ..).trans (.foldl (fun c n => fire_linksSent c (80 + 2 * n) (c.linkCause n 5)) _ _)

theorem notePath_linksSent (c : Chip) (node : Nat) : LinksSent c (c.notePath node) :=
  iteInduction (motive := LinksSent c) (fun _ => setFabric_linksSent ..) fun _ =>
    iteInduction (motive := LinksSent c) (fun _ => .refl c) fun _ => setFabric_linksSent ..

theorem flushWaiting_linksSent (c : Chip) : LinksSent c c.flushWaiting :=
  (setFabric_linksSent ..).trans (.foldl (fun c (e : Nat × Nat × List Byte) => sendPhiveox_linksSent c e.1 e.2.1 e.2.2) _ _)

theorem converge_linksSent (c : Chip) : LinksSent c c.converge := by
  unfold Chip.converge
  extract_lets bw c1 c2 c3 c4
  have h1 : LinksSent c c1 := iteInduction (motive := LinksSent c) (fun _ => .refl c) fun _ =>
    iteInduction (motive := LinksSent c) (fun _ => setFabric_linksSent ..) fun _ => setFabric_linksSent ..
  have h2 : LinksSent c c2 := (h1.trans (settleConflicts_linksSent c1)).trans (seekAddr_linksSent _)
  have h3 : LinksSent c c3 := h2.trans (.foldl (fun c r => updateRoute_linksSent c r) _ c2)
  have h4 : LinksSent c c4 := h3.trans (.foldl (fun c node => notePath_linksSent c node) _ c3)
  exact h4.trans (flushWaiting_linksSent c4)

theorem linksChanged_linksSent (c : Chip) : LinksSent c c.linksChanged :=
  (floodOwn_linksSent c).trans (converge_linksSent _)

theorem rerouteMsg_linksSent (c : Chip) (n : Nat) (m : LinkMsg) : LinksSent c (c.rerouteMsg n m) := by
  unfold Chip.rerouteMsg
  split
  · refine iteInduction (motive := LinksSent c) (fun _ => discard_linksSent c n) fun _ => ?_
    split
    · exact egress_linksSent ..
    · exact discard_linksSent c n
  · split
    · exact .refl c
    · split
      · exact sendMsg_linksSent ..
      · exact discard_linksSent c n

theorem leftUp_linksSent (c : Chip) (n : Nat) : LinksSent c (c.leftUp n) :=
  ((setLink_linksSent (by rfl)).trans (linksChanged_linksSent _)).trans (.foldl (fun c m => rerouteMsg_linksSent c n m) _ _)

/-! ### A link's phase -/

theorem sendMsg_link (c : Chip) (n : Nat) (m : LinkMsg) :
    (c.sendMsg n m).link n = { (c.link n).enqueue n c.clk.now m with sent := (c.link n).sent + 1 } := Chip.setLink_same ..

theorem sendMsg_link_other (c : Chip) {n j : Nat} (m : LinkMsg) (hj : j ≠ n) : (c.sendMsg n m).link j = c.link j :=
  c.setLink_other _ _ _ hj

theorem rxCount_link (c : Chip) (n : Nat) :
    (c.rxCount n).link n = { c.link n with received := (c.link n).received + 1 } := Chip.setLink_same ..

theorem rxCount_link_other (c : Chip) {n j : Nat} (hj : j ≠ n) : (c.rxCount n).link j = c.link j := c.setLink_other _ _ _ hj

theorem notePeer_link (c : Chip) (n : Nat) (b : IdentBody) :
    (c.notePeer n b).link n = { c.link n with peerUid := b.uid, peerNode := b.node, peerPrio := b.bwPrio } := Chip.setLink_same ..

theorem notePeer_link_other (c : Chip) {n j : Nat} (b : IdentBody) (hj : j ≠ n) : (c.notePeer n b).link j = c.link j :=
  c.setLink_other _ _ _ hj

/-- A link that has moved to another phase. -/
def LinkSt.moved (p : LinkPhase) (now : Nat) (s : LinkSt) : LinkSt :=
  { s with
    phase := p, upBefore := if s.phase == LinkPhase.up then s.upBefore + (now - s.upAt) else s.upBefore
    downs := if p == LinkPhase.down && s.phase != LinkPhase.down then s.downs + 1 else s.downs
    stepDue := none, resendAt := none, renegAt := none, peerTime := none }

theorem linkMove_link (c : Chip) (n : Nat) (p : LinkPhase) (reason : Option Nat) :
    (c.linkMove n p reason).link n = (c.link n).moved p c.clk.now := by
  cases reason with
  | none => exact Chip.setLink_same ..
  | some r => exact (Chip.fire_link ..).trans (Chip.setLink_same ..)

theorem linkMove_link_other (c : Chip) {n j : Nat} (p : LinkPhase) (reason : Option Nat) (hj : j ≠ n) :
    (c.linkMove n p reason).link j = c.link j := by
  cases reason with
  | none => exact c.setLink_other _ _ _ hj
  | some r => exact (Chip.fire_link ..).trans (c.setLink_other _ _ _ hj)

/-- A link that has forgotten its neighbour. -/
def LinkSt.forgotten (s : LinkSt) : LinkSt :=
  { s with ver := 0, lvl := 0, iso := 0, peerUid := 0, peerNode := none, peerPrio := 0 }

theorem forgetPeer_link (c : Chip) (n : Nat) : (c.forgetPeer n).link n = (c.link n).forgotten := Chip.setLink_same ..

theorem forgetPeer_link_other (c : Chip) {n j : Nat} (hj : j ≠ n) : (c.forgetPeer n).link j = c.link j :=
  c.setLink_other _ _ _ hj

theorem train_link (c : Chip) (n : Nat) : (c.train n).link n = { ((c.link n).moved .training c.clk.now).forgotten with
    stepDue := some (c.clk.now + (if isT1L n then sec 4 else ms 10)) } := by
  unfold Chip.train
  simp only [Chip.setLink_same, forgetPeer_link, linkMove_link]

theorem train_link_other (c : Chip) {n j : Nat} (hj : j ≠ n) : (c.train n).link j = c.link j :=
  ((Chip.setLink_other _ _ _ _ hj).trans (forgetPeer_link_other _ hj)).trans (linkMove_link_other c .training none hj)

theorem train_samePlant (c : Chip) (n : Nat) : SamePlant c (c.train n) := .of_keeps (train_keeps (.refl _) n c (.refl c))

/-- A link that is isolated. -/
def LinkSt.isolated (iso now : Nat) (s : LinkSt) : LinkSt :=
  { ({ s with iso := iso } : LinkSt).moved .isolated now with renegAt := some (now + sec 10) }

/-- The module with a link isolated, before what the fabric makes of it. -/
def Chip.isolating (n iso : Nat) (c : Chip) : Chip :=
  let again := (c.link n).phase == LinkPhase.isolated && (c.link n).iso == iso
  let c1 := (c.setLink n { c.link n with iso := iso }).linkMove n .isolated (if again then none else some 3)
  c1.setLink n { c1.link n with renegAt := some (c.clk.now + sec 10) }

theorem isolate_eq (c : Chip) (n iso : Nat) :
    c.isolate n iso = if (c.link n).phase == LinkPhase.up then (c.isolating n iso).leftUp n else c.isolating n iso := rfl

theorem isolating_link (c : Chip) (n iso : Nat) : (c.isolating n iso).link n = (c.link n).isolated iso c.clk.now := by
  unfold Chip.isolating
  dsimp only
  rw [Chip.setLink_same, linkMove_link, Chip.setLink_same]
  rfl

theorem isolating_link_other (c : Chip) {n j : Nat} (iso : Nat) (hj : j ≠ n) : (c.isolating n iso).link j = c.link j :=
  ((Chip.setLink_other _ _ _ _ hj).trans (linkMove_link_other _ .isolated _ hj)).trans (c.setLink_other _ _ _ hj)

theorem isolate_of_not_up {c : Chip} {n : Nat} (iso : Nat) (h : (c.link n).phase ≠ .up) : c.isolate n iso = c.isolating n iso := by
  rw [isolate_eq, if_neg (by simp [h])]

theorem isolate_of_up {c : Chip} {n : Nat} (iso : Nat) (h : (c.link n).phase = .up) :
    c.isolate n iso = (c.isolating n iso).leftUp n := by
  rw [isolate_eq, if_pos (by simp [h])]

theorem isolate_samePlant (c : Chip) (n iso : Nat) : SamePlant c (c.isolate n iso) :=
  .of_keeps (isolate_keeps (.refl _) n iso c (.refl c))

/-- A link that has just come UP. -/
def LinkSt.cameUp (now : Nat) (s : LinkSt) : LinkSt :=
  { s.moved .up now with iso := 0, upAt := now, helloRx := now, helloTx := now, timeTx := now }

/-- The module with a link that has come UP, before the fabric hears of it. -/
def Chip.broughtUp (n : Nat) (c : Chip) : Chip :=
  let c1 := c.linkMove n .up none
  c1.setLink n { c1.link n with iso := 0, upAt := c.clk.now, helloRx := c.clk.now, helloTx := c.clk.now, timeTx := c.clk.now }

theorem broughtUp_link (c : Chip) (n : Nat) : (c.broughtUp n).link n = (c.link n).cameUp c.clk.now := by
  unfold Chip.broughtUp
  dsimp only
  rw [Chip.setLink_same, linkMove_link]
  rfl

theorem broughtUp_link_other (c : Chip) {n j : Nat} (hj : j ≠ n) : (c.broughtUp n).link j = c.link j :=
  (Chip.setLink_other _ _ _ _ hj).trans (linkMove_link_other c .up none hj)

theorem linkComesUp_linksSent (c : Chip) (n : Nat) : LinksSent (c.broughtUp n) (c.linkComesUp n) := by
  unfold Chip.linkComesUp
  extract_lets c1 src s c2 c3
  have h3 : LinksSent (c.broughtUp n) c3 := fire_linksSent c2 (80 + 2 * n) (c2.linkCause n 0)
  clear_value c3
  exact (h3.trans (.foldl (fun c (e : Nat × HeldLsa) => sendLsa_linksSent c e.2.body n) _ _)).trans (linksChanged_linksSent _)

theorem linkComesUp_samePlant (c : Chip) (n : Nat) : SamePlant c (c.linkComesUp n) :=
  .of_keeps (linkComesUp_keeps (.refl _) n c (.refl c))

end Sys2Proof.Machine
end

section
-- One proof after another: side by side, the stacks of their threads reach the check's limit of memory.
set_option Elab.async false
/-! The rows of a link's bring-up (spec/11; R334–R338). -/

namespace Sys2Proof.Machine

/-! ### Out of their conditions -/

theorem signalDetected_of_off {c : Chip} {n : Nat} (h : c.linkRuns n = false) : c.signalDetected n = c := by
  unfold Chip.signalDetected
  rw [if_pos (by simp [h])]

theorem phyUp_of_off {c : Chip} {n : Nat} (level : Nat) (h : c.linkRuns n = false) : c.phyUp n level = c := by
  unfold Chip.phyUp
  dsimp only
  rw [if_pos (by simp [h])]

theorem phyUp_of_not_training {c : Chip} {n : Nat} (level : Nat) (h : (c.link n).phase ≠ .training) : c.phyUp n level = c := by
  unfold Chip.phyUp
  dsimp only
  rw [if_pos (by simp [h])]

theorem phyUp_of_level {c : Chip} {n level : Nat} (ht : isT1L n = true)
    (h : ¬((level = 1 ∨ level = 2) ∧ (bits (c.linkCfg n) 1 2 = 0 ∨ bits (c.linkCfg n) 1 2 = level))) : c.phyUp n level = c := by
  unfold Chip.phyUp
  dsimp only
  rw [if_pos]
  have hok : ((level == 1 || level == 2) && (bits (c.linkCfg n) 1 2 == 0 || bits (c.linkCfg n) 1 2 == level)) = false := by
    simpa [← Bool.not_eq_true] using h
  simp [ht, hok]

theorem trainingTimeout_of_none {c : Chip} {n : Nat} (h : (c.link n).stepDue = none) : c.trainingTimeout n = c := by
  unfold Chip.trainingTimeout
  rw [h]

theorem trainingTimeout_of_off {c : Chip} {n : Nat} (h : c.linkRuns n = false) : c.trainingTimeout n = c := by
  unfold Chip.trainingTimeout
  split
  · exact if_neg (by simp [h])
  · rfl

theorem versionRow_of_off {c : Chip} {n : Nat} (minV maxV : Nat) (h : c.linkRuns n = false) : c.versionRow n minV maxV = c := by
  unfold Chip.versionRow
  dsimp only
  rw [if_pos (by simp [h])]

theorem versionRow_of_phase {c : Chip} {n : Nat} (minV maxV : Nat) (hn : (c.link n).phase ≠ .negotiating)
    (hi : (c.link n).phase ≠ .isolated) : c.versionRow n minV maxV = c := by
  unfold Chip.versionRow
  dsimp only
  rw [if_pos (by simp [hn, hi])]

theorem identRow_of_off {c : Chip} {n : Nat} (b : IdentBody) (h : c.linkRuns n = false) : c.identRow n b = c := by
  unfold Chip.identRow
  dsimp only
  rw [if_pos (by simp [h])]

theorem identRow_of_phase {c : Chip} {n : Nat} (b : IdentBody) (hi : (c.link n).phase ≠ .identifying)
    (hu : (c.link n).phase ≠ .up) : c.identRow n b = c := by
  unfold Chip.identRow
  dsimp only
  split
  · rfl
  · split
    · exact absurd ‹_› hi
    · exact absurd ‹_› hu
    · rfl

theorem resendLink_of_none {c : Chip} {n : Nat} (h : (c.link n).resendAt = none) : c.resendLink n = c := by
  unfold Chip.resendLink
  rw [h]

theorem resendLink_of_off {c : Chip} {n : Nat} (h : c.linkRuns n = false) : c.resendLink n = c := by
  unfold Chip.resendLink
  split
  · rfl
  · exact if_pos (by simp [h])

theorem isolatedRow_of_none {c : Chip} {n : Nat} (h : (c.link n).renegAt = none) : c.isolatedRow n = c := by
  unfold Chip.isolatedRow
  rw [h]

theorem isolatedRow_of_off {c : Chip} {n : Nat} (h : c.linkRuns n = false) : c.isolatedRow n = c := by
  unfold Chip.isolatedRow
  split
  · exact if_neg (by simp [h])
  · rfl

/-! ### Signal and training -/

theorem signalDetected_of_not_down {c : Chip} {n : Nat} (hruns : c.linkRuns n = true) (h : (c.link n).phase ≠ .down) :
    c.signalDetected n = c.setLink n { c.link n with signal := true } := by
  unfold Chip.signalDetected
  dsimp only
  rw [if_neg (by simp [hruns]), Chip.setLink_same, if_neg (by simp [h])]

theorem signalDetected_of_down {c : Chip} {n : Nat} (hruns : c.linkRuns n = true) (h : (c.link n).phase = .down) :
    c.signalDetected n = (c.setLink n { c.link n with signal := true }).train n := by
  unfold Chip.signalDetected
  dsimp only
  rw [if_neg (by simp [hruns]), Chip.setLink_same, if_pos (by simp [h])]

/-- The module with a link whose line is established. -/
def Chip.established (n level : Nat) (c : Chip) : Chip :=
  let c1 := c.linkMove n .negotiating none
  c1.setLink n { c1.link n with
    lvl := if isT1L n then level else 3, stepDue := some (c.clk.now + ms 100), resendAt := some (c.clk.now + ms 10) }

theorem established_link (c : Chip) (n level : Nat) : (c.established n level).link n =
    { (c.link n).moved .negotiating c.clk.now with
      lvl := if isT1L n then level else 3, stepDue := some (c.clk.now + ms 100), resendAt := some (c.clk.now + ms 10) } := by
  unfold Chip.established
  simp only [Chip.setLink_same, linkMove_link]

theorem established_link_other (c : Chip) {n j : Nat} (level : Nat) (hj : j ≠ n) : (c.established n level).link j = c.link j :=
  (Chip.setLink_other _ _ _ _ hj).trans (linkMove_link_other c .negotiating none hj)

theorem established_samePlant (c : Chip) (n level : Nat) : SamePlant c (c.established n level) :=
  .of_keeps (fs := Field.routed ||| Field.links ||| Field.fabric)
    (setLink_keeps (.of rfl) n _ _ (linkMove_keeps (.refl _) n .negotiating none c (.refl c)))

theorem phyUp_established {c : Chip} {n level : Nat} (hruns : c.linkRuns n = true) (hp : (c.link n).phase = .training)
    (h : isT1L n = true → (level = 1 ∨ level = 2) ∧ (bits (c.linkCfg n) 1 2 = 0 ∨ bits (c.linkCfg n) 1 2 = level)) :
    c.phyUp n level = (c.established n level).sendMsg n (.version (c.minVer n) 2) := by
  unfold Chip.phyUp
  dsimp only
  have hok : (!isT1L n || (level == 1 || level == 2) && (bits (c.linkCfg n) 1 2 == 0 || bits (c.linkCfg n) 1 2 == level)) = true := by
    cases ht : isT1L n with
    | false => rfl
    | true => simpa using h ht
  rw [if_neg (by simp [hruns, hp, hok])]
  rfl

theorem trainingTimeout_of_some {c : Chip} {n d : Nat} (hruns : c.linkRuns n = true) (h : (c.link n).stepDue = some d) :
    c.trainingTimeout n = (c.waitUntil d).train n := by
  unfold Chip.trainingTimeout
  rw [h]
  exact if_pos hruns

/-! ### The exchange of versions -/

/-- The module with a link that has agreed on a version, before it sends its identity. -/
def Chip.agreedOn (n ver : Nat) (c : Chip) : Chip :=
  let c1 := if (c.link n).phase == LinkPhase.isolated then (c.rxCount n).sendMsg n (.version (c.minVer n) 2) else c.rxCount n
  let c2 := c1.linkMove n .identifying none
  c2.setLink n { c2.link n with
    ver := ver, iso := 0, stepDue := some (c.clk.now + ms 100), resendAt := some (c.clk.now + ms 10) }

theorem agreedOn_link (c : Chip) (n ver : Nat) : ∃ t : LinkSt, (c.agreedOn n ver).link n = { t with
      phase := .identifying, ver := ver, iso := 0, stepDue := some (c.clk.now + ms 100), resendAt := some (c.clk.now + ms 10) } ∧
    t.wire = (c.link n).wire ++ (if (c.link n).phase = .isolated then [.version (c.minVer n) 2] else []) := by
  unfold Chip.agreedOn
  dsimp only
  by_cases hiso : (c.link n).phase = .isolated
  · rw [if_pos (by simp [hiso]), if_pos hiso]
    refine ⟨(((c.rxCount n).sendMsg n (.version (c.minVer n) 2)).link n).moved .identifying c.clk.now, ?_, ?_⟩
    · rw [Chip.setLink_same, linkMove_link]
      rfl
    · rw [sendMsg_link, rxCount_link]
      rfl
  · rw [if_neg (by simp [hiso]), if_neg hiso, List.append_nil]
    refine ⟨((c.rxCount n).link n).moved .identifying c.clk.now, ?_, ?_⟩
    · rw [Chip.setLink_same, linkMove_link]
      rfl
    · rw [rxCount_link]
      rfl

theorem agreedOn_link_other (c : Chip) {n j : Nat} (ver : Nat) (hj : j ≠ n) : (c.agreedOn n ver).link j = c.link j := by
  unfold Chip.agreedOn
  dsimp only
  rw [Chip.setLink_other _ _ _ _ hj, linkMove_link_other _ _ _ hj]
  split
  · rw [sendMsg_link_other _ _ hj, rxCount_link_other c hj]
  · rw [rxCount_link_other c hj]

theorem agreedOn_keeps (c : Chip) (n ver : Nat) :
    Keeps (Field.routed ||| Field.links ||| Field.fabric) c (c.agreedOn n ver) :=
  setLink_keeps (.of rfl) n _ _ (linkMove_keeps (.refl _) n .identifying none _
    (iteInduction (motive := Keeps _ c)
      (fun _ => sendMsg_keeps (.of rfl) n _ _ (rxCount_keeps (.of rfl) n c (.refl c)))
      fun _ => rxCount_keeps (.of rfl) n c (.refl c)))

theorem linkMove_ownIdent (c : Chip) (n : Nat) (p : LinkPhase) (refuses : Bool) :
    (c.linkMove n p none).ownIdent refuses = c.ownIdent refuses := rfl

theorem sendVersion_rxCount (c : Chip) (n : Nat) :
    (c.rxCount n).sendVersion n = (c.rxCount n).sendMsg n (.version (c.minVer n) 2) := rfl

theorem sendMsg_ownIdent (c : Chip) (n : Nat) (m : LinkMsg) (refuses : Bool) :
    (c.sendMsg n m).ownIdent refuses = c.ownIdent refuses := rfl

theorem rxCount_ownIdent (c : Chip) (n : Nat) (refuses : Bool) : (c.rxCount n).ownIdent refuses = c.ownIdent refuses := rfl

theorem versionRow_agreed {c : Chip} {n minV maxV : Nat} (hruns : c.linkRuns n = true)
    (hp : (c.link n).phase = .negotiating ∨ (c.link n).phase = .isolated) (h : max minV (c.minVer n) ≤ min maxV 2) :
    c.versionRow n minV maxV = (c.agreedOn n (min maxV 2)).sendMsg n (.ident (c.ownIdent false)) := by
  unfold Chip.versionRow
  dsimp only
  rw [if_neg (by simpa [hruns] using Or.resolve_left hp), if_pos h]
  rw [linkMove_ownIdent, sendVersion_rxCount]
  unfold Chip.agreedOn
  dsimp only
  by_cases hiso : (c.link n).phase = .isolated
  · rw [if_pos (by simp [hiso]), sendMsg_ownIdent, rxCount_ownIdent]
  · rw [if_neg (by simp [hiso]), rxCount_ownIdent]

theorem versionRow_apart {c : Chip} {n minV maxV : Nat} (hruns : c.linkRuns n = true)
    (hp : (c.link n).phase = .negotiating ∨ (c.link n).phase = .isolated) (h : min maxV 2 < max minV (c.minVer n)) :
    c.versionRow n minV maxV = (c.rxCount n).isolating n (if min maxV 2 = 1 ∧ c.minVer n = 2 then 2 else 1) := by
  have hup : ((c.rxCount n).link n).phase ≠ .up := by
    rw [rxCount_link]
    intro hup
    rcases hp with hp | hp <;> exact LinkPhase.noConfusion (hp.symm.trans hup)
  rw [← isolate_of_not_up _ hup]
  unfold Chip.versionRow
  dsimp only
  rw [if_neg (by simpa [hruns] using Or.resolve_left hp), if_neg (Nat.not_le.mpr h)]
  simp only [Bool.and_eq_true, beq_iff_eq]

theorem isolating_samePlant (c : Chip) (n iso : Nat) : SamePlant c (c.isolating n iso) :=
  .of_keeps (fs := Field.routed ||| Field.links ||| Field.fabric) (setLink_keeps (.of rfl) n _ _
    (linkMove_keeps (.refl _) n .isolated _ _ (setLink_keeps (.of rfl) n _ c (.refl c))))

/-! ### The exchange of identities -/

/-- The module that has noted what an IDENT frame says of the neighbour. -/
def Chip.metPeer (n : Nat) (b : IdentBody) (c : Chip) : Chip := (c.rxCount n).notePeer n b

theorem metPeer_link (c : Chip) (n : Nat) (b : IdentBody) : (c.metPeer n b).link n = { c.link n with
    received := (c.link n).received + 1, peerUid := b.uid, peerNode := b.node, peerPrio := b.bwPrio } := by
  unfold Chip.metPeer
  rw [notePeer_link, rxCount_link]

theorem metPeer_link_other (c : Chip) {n j : Nat} (b : IdentBody) (hj : j ≠ n) : (c.metPeer n b).link j = c.link j :=
  (notePeer_link_other _ b hj).trans (rxCount_link_other c hj)

theorem metPeer_keeps (c : Chip) (n : Nat) (b : IdentBody) :
    Keeps (Field.routed ||| Field.links ||| Field.fabric) c (c.metPeer n b) :=
  notePeer_keeps (.of rfl) n b _ (rxCount_keeps (.of rfl) n c (.refl c))

theorem notePeer_ownIdent (c : Chip) (n : Nat) (b : IdentBody) (refuses : Bool) :
    (c.notePeer n b).ownIdent refuses = c.ownIdent refuses := by
  unfold Chip.ownIdent Chip.notePeer
  rfl

theorem metPeer_ownIdent (c : Chip) (n : Nat) (b : IdentBody) (refuses : Bool) :
    (c.metPeer n b).ownIdent refuses = c.ownIdent refuses := notePeer_ownIdent (c.rxCount n) n b refuses

theorem rxCount_samePlant (c : Chip) (n : Nat) : SamePlant c (c.rxCount n) := setLink_samePlant ..

theorem sendMsg_samePlant (c : Chip) (n : Nat) (m : LinkMsg) : SamePlant c (c.sendMsg n m) := setLink_samePlant ..

theorem metPeer_samePlant (c : Chip) (n : Nat) (b : IdentBody) : SamePlant c (c.metPeer n b) := .of_keeps (metPeer_keeps c n b)

theorem identRow_refused {c : Chip} {n r : Nat} {b : IdentBody} (hruns : c.linkRuns n = true)
    (hp : (c.link n).phase = .identifying) (h : c.identRefused n b = some r) :
    c.identRow n b = ((c.metPeer n b).sendMsg n (.ident (c.ownIdent true))).isolate n r := by
  rw [← metPeer_ownIdent c n b]
  unfold Chip.identRow
  dsimp only
  rw [if_neg (by simp [hruns]), hp, h]
  rfl

theorem identRow_identifying {c : Chip} {n : Nat} {b : IdentBody} (hruns : c.linkRuns n = true)
    (hp : (c.link n).phase = .identifying) (h : c.identRefused n b = none) :
    c.identRow n b = if b.refusesUs then (c.metPeer n b).isolate n 5 else (c.metPeer n b).linkComesUp n := by
  unfold Chip.identRow
  dsimp only
  rw [if_neg (by simp [hruns]), hp, h]
  rfl

theorem identRow_up {c : Chip} {n : Nat} (b : IdentBody) (hruns : c.linkRuns n = true) (hp : (c.link n).phase = .up) :
    c.identRow n b = if b.uid != (c.link n).peerUid then ((c.rxCount n).linkLeave n .down (some 6)).train n
      else if b.refusesUs then (c.rxCount n).isolate n 5 else c.metPeer n b := by
  unfold Chip.identRow
  dsimp only
  rw [if_neg (by simp [hruns]), hp]
  rfl

/-! ### Frames sent again -/

theorem waitUntil_link (c : Chip) (t j : Nat) : (c.waitUntil t).link j = c.link j := (Chip.waitUntil_frame t c).link_eq rfl j

theorem waitUntil_ownIdent (c : Chip) (t : Nat) (refuses : Bool) : (c.waitUntil t).ownIdent refuses = c.ownIdent refuses := by
  unfold Chip.ownIdent
  rw [waitUntil_attrN, (Chip.waitUntil_frame t c).fuses, (Chip.waitUntil_frame t c).fabric]

theorem waitUntil_minVer (c : Chip) (t n : Nat) : (c.waitUntil t).minVer n = c.minVer n := by
  unfold Chip.minVer Chip.linkCfg
  rw [waitUntil_attrN]

theorem resendLink_of_some {c : Chip} {n d : Nat} (hruns : c.linkRuns n = true) (h : (c.link n).resendAt = some d) :
    c.resendLink n = ((c.waitUntil d).setLink n { c.link n with resendAt := some ((c.waitUntil d).clk.now + ms 10) }).sendMsg n
      (if (c.link n).phase = .identifying then .ident (c.ownIdent false) else .version (c.minVer n) 2) := by
  unfold Chip.resendLink
  rw [h]
  dsimp only
  rw [if_neg (by simp [hruns]), Chip.setLink_same, waitUntil_link]
  by_cases hp : (c.link n).phase = .identifying
  · rw [if_pos (by simp [hp]), if_pos hp, ← waitUntil_ownIdent c d]
    rfl
  · rw [if_neg (by simp [hp]), if_neg hp, ← waitUntil_minVer c d]
    rfl

theorem isolatedRow_of_other {c : Chip} {n d : Nat} (hruns : c.linkRuns n = true) (h : (c.link n).renegAt = some d)
    (hp : (c.link n).phase ≠ .isolated) : c.isolatedRow n = c.waitUntil d := by
  unfold Chip.isolatedRow Chip.renegotiate
  rw [h]
  dsimp only
  rw [if_pos hruns, waitUntil_link, if_neg (by simp [hp])]

theorem isolatedRow_of_isolated {c : Chip} {n d : Nat} (hruns : c.linkRuns n = true) (h : (c.link n).renegAt = some d)
    (hp : (c.link n).phase = .isolated) : c.isolatedRow n =
      ((c.waitUntil d).setLink n { c.link n with renegAt := some ((c.waitUntil d).clk.now + sec 10) }).sendMsg n
        (.version (c.minVer n) 2) := by
  unfold Chip.isolatedRow Chip.renegotiate
  rw [h]
  dsimp only
  rw [if_pos hruns, waitUntil_link, if_pos (by simp [hp]), ← waitUntil_minVer c d]
  rfl

theorem waitUntil_setLink_samePlant (c : Chip) (t n : Nat) (s : LinkSt) : SamePlant c ((c.waitUntil t).setLink n s) :=
  (waitUntil_samePlant c t).trans (setLink_samePlant ..)

/-! ### A link that leaves UP -/

/-- The module with a link that has left a phase and forgotten its neighbour, before what is made of its line. -/
def Chip.parted (n : Nat) (p : LinkPhase) (reason : Option Nat) (c : Chip) : Chip := (c.linkMove n p reason).forgetPeer n

theorem parted_link (c : Chip) (n : Nat) (p : LinkPhase) (reason : Option Nat) :
    (c.parted n p reason).link n = ((c.link n).moved p c.clk.now).forgotten := by
  unfold Chip.parted
  rw [forgetPeer_link, linkMove_link]

theorem parted_link_other (c : Chip) {n j : Nat} (p : LinkPhase) (reason : Option Nat) (hj : j ≠ n) :
    (c.parted n p reason).link j = c.link j :=
  (forgetPeer_link_other _ hj).trans (linkMove_link_other c p reason hj)

theorem linkLeave_linksSent (c : Chip) (n : Nat) (p : LinkPhase) (reason : Option Nat) :
    LinksSent (c.parted n p reason) (c.linkLeave n p reason) :=
  iteInduction (motive := LinksSent (c.parted n p reason)) (fun _ => leftUp_linksSent _ n) fun _ => setLink_linksSent rfl

theorem linkLeave_link (c : Chip) (n : Nat) (p : LinkPhase) (reason : Option Nat) :
    (((c.link n).moved p c.clk.now).forgotten).Sent ((c.linkLeave n p reason).link n) := by
  rw [← parted_link c n p reason]
  exact (linkLeave_linksSent c n p reason).link n

theorem linkLeave_phase_other (c : Chip) {n j : Nat} (p : LinkPhase) (reason : Option Nat) (hj : j ≠ n) :
    ((c.linkLeave n p reason).link j).phase = (c.link j).phase := by
  rw [((linkLeave_linksSent c n p reason).link j).phase, parted_link_other c p reason hj]

theorem linkLeave_samePlant (c : Chip) (n : Nat) (p : LinkPhase) (reason : Option Nat) : SamePlant c (c.linkLeave n p reason) :=
  .of_keeps (linkLeave_keeps (.refl _) n p reason c (.refl c))

theorem isolating_leftUp_link (c : Chip) (n iso : Nat) :
    ((c.link n).isolated iso c.clk.now).Sent (((c.isolating n iso).leftUp n).link n) := by
  rw [← isolating_link]
  exact (leftUp_linksSent _ n).link n

theorem isolating_leftUp_phase_other (c : Chip) {n j : Nat} (iso : Nat) (hj : j ≠ n) :
    (((c.isolating n iso).leftUp n).link j).phase = (c.link j).phase := by
  rw [((leftUp_linksSent _ n).link j).phase, isolating_link_other c iso hj]

theorem linkComesUp_link (c : Chip) (n : Nat) : ((c.link n).cameUp c.clk.now).Sent ((c.linkComesUp n).link n) := by
  rw [← broughtUp_link]
  exact (linkComesUp_linksSent c n).link n

theorem linkComesUp_phase_other (c : Chip) {n j : Nat} (hj : j ≠ n) :
    ((c.linkComesUp n).link j).phase = (c.link j).phase := by
  rw [((linkComesUp_linksSent c n).link j).phase, broughtUp_link_other c hj]

end Sys2Proof.Machine

namespace Sys2Proof
open Machine

/-- Settles O50: each row by the phase of the link; what the fabric makes of a link that comes UP or leaves UP changes the lines
and counters of the links only. -/
theorem linksComeUp : Obligations.LinksComeUp := by
  refine ⟨fun s n => ⟨?off, ?notTraining, ?level, ?noStep, ?notNegotiating, ?notIdentifying, ?noResend, ?noReneg⟩,
    fun s n hruns => ⟨?signal, ?renegGone, ?sameIdent, ?begins, ?established, ?timeout, ?version, ?ident, ?otherIdent, ?resend, ?reneg⟩⟩
  case off =>
    intro h
    exact ⟨Leads.of_eq rfl (signalDetected_of_off h), fun _ => Leads.of_eq rfl (phyUp_of_off _ h),
      Leads.of_eq rfl (trainingTimeout_of_off h), fun _ _ => Leads.of_eq rfl (versionRow_of_off _ _ h),
      fun _ => Leads.of_eq rfl (identRow_of_off _ h), Leads.of_eq rfl (resendLink_of_off h),
      Leads.of_eq rfl (isolatedRow_of_off h)⟩
  case notTraining => exact fun h _ => Leads.of_eq rfl (phyUp_of_not_training _ h)
  case level => exact fun _ ht h => Leads.of_eq rfl (phyUp_of_level ht h)
  case noStep => exact fun h => Leads.of_eq rfl (trainingTimeout_of_none h)
  case notNegotiating => exact fun hn hi _ _ => Leads.of_eq rfl (versionRow_of_phase _ _ hn hi)
  case notIdentifying => exact fun hi hu _ => Leads.of_eq rfl (identRow_of_phase _ hi hu)
  case noResend => exact fun h => Leads.of_eq rfl (resendLink_of_none h)
  case noReneg => exact fun h => Leads.of_eq rfl (isolatedRow_of_none h)
  case signal => exact fun h => Leads.of_eq rfl (signalDetected_of_not_down hruns h)
  case renegGone =>
    exact fun d h hp => ⟨_, Leads.of_eq rfl (isolatedRow_of_other hruns h hp), s.chip.le_waitUntil d, waitUntil_link s.chip d,
      waitUntil_samePlant s.chip d⟩
  case sameIdent =>
    intro b hp huid
    have hrow := (identRow_up b hruns hp).trans (if_neg (by simp [huid]))
    refine ⟨fun hb => ⟨_, Leads.of_eq rfl (hrow.trans (if_neg (by simp [hb]))), metPeer_link .., fun j hj => metPeer_link_other _ b hj,
      metPeer_samePlant ..⟩, fun hb => ?_⟩
    have hup : ((s.chip.rxCount n).link n).phase = .up := by rw [rxCount_link, hp]
    have hlink := isolating_leftUp_link (s.chip.rxCount n) n 5
    refine ⟨_, Leads.of_eq rfl ((hrow.trans (if_pos hb)).trans (isolate_of_up 5 hup)), hlink.phase, congrArg LinkSt.iso hlink,
      fun j hj => ?_, (rxCount_samePlant s.chip n).trans ?_⟩
    · rw [isolating_leftUp_phase_other _ 5 hj, rxCount_link_other _ hj]
    · rw [← isolate_of_up 5 hup]
      exact isolate_samePlant ..
  case begins =>
    intro hp
    refine ⟨_, Leads.of_eq rfl (signalDetected_of_down hruns hp), ?_, ?_, ?_, ?_, fun j hj => ?_,
      (setLink_samePlant ..).trans (train_samePlant ..)⟩
    · rw [train_link]
      rfl
    · rw [train_link, Chip.setLink_same]
      rfl
    · rw [train_link]
      rfl
    · rw [train_link]
      rfl
    · rw [train_link_other _ hj, Chip.setLink_other _ _ _ _ hj]
  case established =>
    intro level hp hlevel
    refine ⟨_, Leads.of_eq rfl (phyUp_established hruns hp hlevel), ?_, ?_, ?_, ?_, ?_, fun j hj => ?_,
      (established_samePlant ..).trans (sendMsg_samePlant ..)⟩
    · rw [sendMsg_link, established_link]
      rfl
    · rw [sendMsg_link, established_link]
      rfl
    · rw [sendMsg_link, established_link]
      rfl
    · rw [sendMsg_link, established_link]
      rfl
    · rw [sendMsg_link, established_link]
      rfl
    · rw [sendMsg_link_other _ _ hj, established_link_other _ _ hj]
  case timeout =>
    intro d h
    refine ⟨_, Leads.of_eq rfl (trainingTimeout_of_some hruns h), s.chip.le_waitUntil d, ?_, ?_, fun j hj => ?_,
      (waitUntil_samePlant ..).trans (train_samePlant ..)⟩
    · exact train_phase ..
    · rw [train_link]
      rfl
    · rw [train_link_other _ hj, waitUntil_link]
  case version =>
    intro minV maxV hp
    refine ⟨fun h => ?_, fun h => ?_⟩
    · obtain ⟨t, hlink, hwire⟩ := agreedOn_link s.chip n (min maxV 2)
      refine ⟨_, Leads.of_eq rfl (versionRow_agreed hruns hp h), ?_, ?_, ?_, ?_, ?_, fun j hj => ?_,
        (SamePlant.of_keeps (agreedOn_keeps ..)).trans (sendMsg_samePlant ..)⟩
      · rw [sendMsg_link, hlink]
        rfl
      · rw [sendMsg_link, hlink]
        rfl
      · rw [sendMsg_link, hlink]
        rfl
      · rw [sendMsg_link, hlink]
        rfl
      · rw [sendMsg_link, hlink, ← hwire]
        rfl
      · rw [sendMsg_link_other _ _ hj, agreedOn_link_other _ _ hj]
    · refine ⟨_, Leads.of_eq rfl (versionRow_apart hruns hp h), ?_, ?_, ?_, fun j hj => ?_, ?_⟩
      · rw [isolating_link]
        rfl
      · rw [isolating_link]
        rfl
      · rw [isolating_link]
        rfl
      · rw [isolating_link_other _ _ hj, rxCount_link_other _ hj]
      · exact (rxCount_samePlant s.chip n).trans (isolating_samePlant ..)
  case ident =>
    intro b hp
    have hmet : ((s.chip.metPeer n b).link n).phase ≠ .up := by
      rw [metPeer_link]
      exact fun hup => LinkPhase.noConfusion (hp.symm.trans hup)
    refine ⟨fun h hb => ?_, fun r h => ?_, fun h hb => ?_⟩
    · have hlink := linkComesUp_link (s.chip.metPeer n b) n
      rw [metPeer_link] at hlink
      refine ⟨_, Leads.of_eq rfl ((identRow_identifying hruns hp h).trans (if_neg (by simp [hb]))), hlink.phase,
        congrArg LinkSt.iso hlink, congrArg LinkSt.peerUid hlink, congrArg LinkSt.upAt hlink, congrArg LinkSt.helloRx hlink,
        fun j hj => ?_, (metPeer_samePlant ..).trans (linkComesUp_samePlant ..)⟩
      rw [linkComesUp_phase_other _ hj, metPeer_link_other _ _ hj]
    · have hsent : (((s.chip.metPeer n b).sendMsg n (.ident (s.chip.ownIdent true))).link n).phase ≠ .up := by
        rw [sendMsg_link]
        exact hmet
      refine ⟨_, Leads.of_eq rfl ((identRow_refused hruns hp h).trans (isolate_of_not_up r hsent)), ?_, ?_, ?_, fun j hj => ?_,
        ((metPeer_samePlant ..).trans (sendMsg_samePlant ..)).trans (isolating_samePlant ..)⟩
      · rw [isolating_link]
        rfl
      · rw [isolating_link]
        rfl
      · rw [isolating_link, sendMsg_link, metPeer_link]
        rfl
      · rw [isolating_link_other _ _ hj, sendMsg_link_other _ _ hj, metPeer_link_other _ _ hj]
    · refine ⟨_, Leads.of_eq rfl (((identRow_identifying hruns hp h).trans (if_pos hb)).trans (isolate_of_not_up 5 hmet)), ?_, ?_,
        fun j hj => ?_, (metPeer_samePlant ..).trans (isolating_samePlant ..)⟩
      · rw [isolating_link]
        rfl
      · rw [isolating_link]
        rfl
      · rw [isolating_link_other _ _ hj, metPeer_link_other _ _ hj]
  case otherIdent =>
    intro b hp huid
    refine ⟨_, s.chip.rxCount n, Leads.of_eq rfl ((identRow_up b hruns hp).trans (if_pos (by simp [huid]))), train_phase .., ?_,
      fun j hj => ?_, ((rxCount_samePlant ..).trans (linkLeave_samePlant ..)).trans (train_samePlant ..), rfl, rxCount_link ..⟩
    · rw [train_link]
      rfl
    · rw [train_link_other _ hj, linkLeave_phase_other _ _ _ hj, rxCount_link_other _ hj]
  case resend =>
    intro d h
    refine ⟨_, Leads.of_eq rfl (resendLink_of_some hruns h), s.chip.le_waitUntil d, ?_, ?_, fun hp => ?_, fun hp => ?_,
      fun j hj => ?_, (waitUntil_setLink_samePlant ..).trans (sendMsg_samePlant ..)⟩
    · rw [sendMsg_link, Chip.setLink_same]
      rfl
    · rw [sendMsg_link, Chip.setLink_same]
      rfl
    · rw [sendMsg_link, Chip.setLink_same, if_pos hp]
      rfl
    · rw [sendMsg_link, Chip.setLink_same, if_neg hp]
      rfl
    · rw [sendMsg_link_other _ _ hj, Chip.setLink_other _ _ _ _ hj, waitUntil_link]
  case reneg =>
    intro d h hp
    refine ⟨_, Leads.of_eq rfl (isolatedRow_of_isolated hruns h hp), s.chip.le_waitUntil d, ?_, ?_, ?_, fun j hj => ?_,
      (waitUntil_setLink_samePlant ..).trans (sendMsg_samePlant ..)⟩
    · rw [sendMsg_link, Chip.setLink_same]
      rfl
    · rw [sendMsg_link, Chip.setLink_same]
      exact hp
    · rw [sendMsg_link, Chip.setLink_same]
      rfl
    · rw [sendMsg_link_other _ _ hj, Chip.setLink_other _ _ _ _ hj, waitUntil_link]

end Sys2Proof
end

section
-- One proof after another: side by side, the stacks of their threads reach the check's limit of memory.
set_option Elab.async false
/-! A link in service: its HELLO frames, its loss, and corrupt frames (spec/11; R333, R338, R340). -/

namespace Sys2Proof.Machine

/-! ### Out of their conditions -/

theorem helloRow_of_not_up {c : Chip} {n : Nat} (h : c.linkRuns n = false ∨ c.linkUp n = false) : c.helloRow n = c :=
  if_neg (by rcases h with h | h <;> simp [h])

theorem helloSendRow_of_not_up {c : Chip} {n : Nat} (h : c.linkRuns n = false ∨ c.linkUp n = false) : c.helloSendRow n = c :=
  if_neg (by rcases h with h | h <;> simp [h])

theorem helloTimeoutRow_of_not_up {c : Chip} {n : Nat} (h : c.linkRuns n = false ∨ c.linkUp n = false) :
    c.helloTimeoutRow n = c :=
  if_neg (by rcases h with h | h <;> simp [h])

theorem phyLoss_of_off {c : Chip} {n : Nat} (h : c.linkRuns n = false) : c.phyLoss n = c := if_pos (by simp [h])

theorem phyLoss_of_down {c : Chip} {n : Nat} (hruns : c.linkRuns n = true)
    (h : (c.link n).phase = .disabled ∨ (c.link n).phase = .down) : c.phyLoss n = c.setLink n { c.link n with signal := false } := by
  unfold Chip.phyLoss
  dsimp only
  rw [if_neg (by simp [hruns]), if_pos (by simpa using h)]

theorem corruptRow_of_off {c : Chip} {n : Nat} (kind : CorruptKind) (h : c.linkRuns n = false) : c.corruptRow n kind = c := by
  unfold Chip.corruptRow
  dsimp only
  rw [if_pos (by simp [h])]

theorem corruptRow_of_phase {c : Chip} {n : Nat} (kind : CorruptKind)
    (h : (c.link n).phase = .disabled ∨ (c.link n).phase = .down ∨ (c.link n).phase = .training) : c.corruptRow n kind = c := by
  unfold Chip.corruptRow
  dsimp only
  rw [if_pos (by rcases h with h | h | h <;> simp [h])]

/-! ### HELLO and the loss of a link -/

theorem helloRow_of_up {c : Chip} {n : Nat} (hruns : c.linkRuns n = true) (hup : c.linkUp n = true) :
    c.helloRow n = (c.rxCount n).setLink n { (c.rxCount n).link n with helloRx := c.clk.now } :=
  if_pos (by simp [hruns, hup])

theorem helloSendRow_of_up {c : Chip} {n : Nat} (hruns : c.linkRuns n = true) (hup : c.linkUp n = true) :
    c.helloSendRow n = ((c.waitUntil (c.link n).helloTx).setLink n
      { c.link n with helloTx := (c.waitUntil (c.link n).helloTx).clk.now + ms 10 }).sendMsg n .hello := by
  unfold Chip.helloSendRow
  dsimp only
  rw [if_pos (by simp [hruns, hup]), waitUntil_link]

theorem helloTimeoutRow_of_up {c : Chip} {n : Nat} (hruns : c.linkRuns n = true) (hup : c.linkUp n = true) :
    c.helloTimeoutRow n = (c.waitUntil ((c.link n).helloRx + ms 30)).linkLeave n .down (some 2) :=
  if_pos (by simp [hruns, hup])

theorem phyLoss_of_other {c : Chip} {n : Nat} (hruns : c.linkRuns n = true) (hoff : (c.link n).phase ≠ .disabled)
    (hdown : (c.link n).phase ≠ .down) :
    c.phyLoss n = (c.setLink n { c.link n with signal := false }).linkLeave n .down (some 1) := by
  unfold Chip.phyLoss
  dsimp only
  rw [if_neg (by simp [hruns]), if_neg (by simp [hoff, hdown])]

/-! ### Corrupt frames -/

theorem discard_link (c : Chip) (n : Nat) :
    (c.discard n).link n = { c.link n with discarded := (c.link n).discarded + 1 } := Chip.setLink_same ..

/-- An error that is counted changes of its link the noted errors alone. -/
theorem crcError_link (c : Chip) (n kind : Nat) :
    (c.crcError n kind).link n = { c.link n with errors := ((c.crcError n kind).link n).errors } := by
  unfold Chip.crcError
  dsimp only
  split
  · rw [Chip.setLink_same]
    unfold Chip.fireLinkError
    rw [Chip.fire_link, show (c.noteError n kind).link n = _ from Chip.setLink_same ..]
  · rw [show (c.noteError n kind).link n = _ from Chip.setLink_same ..]

theorem crcError_link_other (c : Chip) {n j : Nat} (kind : Nat) (hj : j ≠ n) : (c.crcError n kind).link j = c.link j := by
  have hnote : (c.noteError n kind).link j = c.link j := c.setLink_other _ _ _ hj
  unfold Chip.crcError
  dsimp only
  split
  · rw [Chip.setLink_other _ _ _ _ hj]
    exact (Chip.fire_link ..).trans hnote
  · exact hnote

theorem crcError_samePlant (c : Chip) (n kind : Nat) : SamePlant c (c.crcError n kind) :=
  .of_keeps (crcError_keeps (.refl _) n kind c (.refl c))

/-- A link at which a corrupt frame of a kind has been counted. -/
def LinkSt.corrupted (kind : CorruptKind) (s : LinkSt) : LinkSt :=
  { s with
    discarded := s.discarded + 1, hcrcErr := s.hcrcErr + (if kind = .hcrc then 1 else 0)
    fcsErr := s.fcsErr + (if kind = .fcs then 1 else 0) }

/-- The module at which a corrupt frame of a kind has been counted, before its threshold is looked at. -/
def Chip.corrupted (n : Nat) (kind : CorruptKind) (c : Chip) : Chip := c.setLink n ((c.link n).corrupted kind)

theorem corruptRow_of_phases {c : Chip} {n : Nat} (kind : CorruptKind) (hruns : c.linkRuns n = true)
    (hoff : (c.link n).phase ≠ .disabled) (hdown : (c.link n).phase ≠ .down) (htrain : (c.link n).phase ≠ .training) :
    c.corruptRow n kind = match kind with
      | .hcrc => (c.corrupted n .hcrc).crcError n 1
      | .reservedType => c.corrupted n .reservedType
      | .fcs => (c.corrupted n .fcs).crcError n 0 := by
  unfold Chip.corruptRow Chip.corrupted LinkSt.corrupted
  dsimp only
  rw [if_neg (by simp [hruns, hoff, hdown, htrain]), discard_link]
  cases kind <;> simp

/-- A corrupt frame changes of its link the counters of its kind and the noted errors. -/
theorem corruptRow_link {c : Chip} {n : Nat} (kind : CorruptKind) (hruns : c.linkRuns n = true)
    (hoff : (c.link n).phase ≠ .disabled) (hdown : (c.link n).phase ≠ .down) (htrain : (c.link n).phase ≠ .training) :
    (c.corruptRow n kind).link n =
      { (c.link n).corrupted kind with errors := ((c.corruptRow n kind).link n).errors } ∧
    (∀ j, j ≠ n → (c.corruptRow n kind).link j = c.link j) ∧ SamePlant c (c.corruptRow n kind) := by
  rw [corruptRow_of_phases kind hruns hoff hdown htrain]
  have hlink : (c.corrupted n kind).link n = (c.link n).corrupted kind := Chip.setLink_same ..
  have hother : ∀ j, j ≠ n → (c.corrupted n kind).link j = c.link j := fun j hj => c.setLink_other _ _ _ hj
  have hplant : SamePlant c (c.corrupted n kind) := setLink_samePlant ..
  cases kind with
  | hcrc =>
    refine ⟨?_, fun j hj => (crcError_link_other _ 1 hj).trans (hother j hj), hplant.trans (crcError_samePlant ..)⟩
    rw [← hlink]
    exact crcError_link ..
  | reservedType => exact ⟨by rw [hlink], hother, hplant⟩
  | fcs =>
    refine ⟨?_, fun j hj => (crcError_link_other _ 0 hj).trans (hother j hj), hplant.trans (crcError_samePlant ..)⟩
    rw [← hlink]
    exact crcError_link ..

end Sys2Proof.Machine

namespace Sys2Proof
open Machine

/-- Settles O51: HELLO frames and losses by the phase of the link; an error changes the noted errors of its link alone. -/
theorem linksStayUpAndGoDown : Obligations.LinksStayUpAndGoDown := by
  refine ⟨fun _ _ _ _ => rfl, fun s n => ⟨?notUp, ?off, ?lost, ?quiet⟩, fun s n hruns => ⟨fun hup => ⟨?hello, ?send, ?missed⟩,
    ?loss, ?corrupt, ?threshold⟩⟩
  case notUp =>
    exact fun h => ⟨Leads.of_eq rfl (helloRow_of_not_up h), Leads.of_eq rfl (helloSendRow_of_not_up h),
      Leads.of_eq rfl (helloTimeoutRow_of_not_up h)⟩
  case off => exact fun h => ⟨Leads.of_eq rfl (phyLoss_of_off h), fun _ => Leads.of_eq rfl (corruptRow_of_off _ h)⟩
  case lost => exact fun hruns h => Leads.of_eq rfl (phyLoss_of_down hruns h)
  case quiet => exact fun h _ => Leads.of_eq rfl (corruptRow_of_phase _ h)
  case hello =>
    refine ⟨_, Leads.of_eq rfl (helloRow_of_up hruns hup), ?_, fun j hj => ?_, (rxCount_samePlant ..).trans (setLink_samePlant ..)⟩
    · rw [Chip.setLink_same, rxCount_link]
    · rw [Chip.setLink_other _ _ _ _ hj, rxCount_link_other _ hj]
  case send =>
    refine ⟨_, Leads.of_eq rfl (helloSendRow_of_up hruns hup), s.chip.le_waitUntil _, ?_, ?_, ?_, fun j hj => ?_,
      (waitUntil_setLink_samePlant ..).trans (sendMsg_samePlant ..)⟩
    · rw [sendMsg_link, Chip.setLink_same]
      rfl
    · rw [sendMsg_link, Chip.setLink_same]
      rfl
    · rw [sendMsg_link, Chip.setLink_same]
    · rw [sendMsg_link_other _ _ hj, Chip.setLink_other _ _ _ _ hj, waitUntil_link]
  case missed =>
    have hrow := helloTimeoutRow_of_up hruns hup
    obtain ⟨due, hdue⟩ : ∃ due, (s.chip.link n).helloRx + ms 30 = due := ⟨_, rfl⟩
    rw [hdue] at hrow ⊢
    have hlink := linkLeave_link (s.chip.waitUntil due) n .down (some 2)
    have hphase : (s.chip.link n).phase = .up := by
      have h := (Bool.and_eq_true_iff.mp hup).2
      exact eq_of_beq h
    rw [waitUntil_link] at hlink
    refine ⟨_, s.chip.waitUntil due, Leads.of_eq rfl hrow, rfl, waitUntil_link .., s.chip.le_waitUntil due, hlink.phase,
      congrArg LinkSt.peerUid hlink, (congrArg LinkSt.downs hlink).trans ?_, fun j hj => ?_,
      (waitUntil_samePlant ..).trans (linkLeave_samePlant ..)⟩
    · exact if_pos (by rw [hphase]; rfl)
    · rw [linkLeave_phase_other _ _ _ hj, waitUntil_link]
  case loss =>
    intro hoff hdown
    have hlink := linkLeave_link (s.chip.setLink n { s.chip.link n with signal := false }) n .down (some 1)
    rw [Chip.setLink_same] at hlink
    refine ⟨_, _, Leads.of_eq rfl (phyLoss_of_other hruns hoff hdown), rfl, Chip.setLink_same .., hlink.phase,
      congrArg LinkSt.signal hlink, congrArg LinkSt.peerUid hlink, fun j hj => ?_,
      (setLink_samePlant ..).trans (linkLeave_samePlant ..)⟩
    rw [linkLeave_phase_other _ _ _ hj, Chip.setLink_other _ _ _ _ hj]
  case corrupt =>
    intro kind hoff hdown htrain
    obtain ⟨hlink, hother, hplant⟩ := corruptRow_link kind hruns hoff hdown htrain
    refine ⟨_, Leads.of_eq rfl rfl, congrArg LinkSt.discarded hlink, ?_, ?_, congrArg LinkSt.hcrcErr hlink,
      congrArg LinkSt.fcsErr hlink, ?_, hother, hplant⟩ <;> rw [hlink] <;> rfl
  case threshold => exact fun c kind h => ⟨_, rfl, if_pos h⟩

end Sys2Proof
end

section
-- One proof after another: side by side, the stacks of their threads reach the check's limit of memory.
set_option Elab.async false
/-! The fabric's topology and addresses, and the forwarding of frames (spec/11; R339–R349). -/

namespace Sys2Proof.Machine

/-! ### Frames that are received -/

theorem onFrame_of_not_up {c : Chip} {n : Nat} (cls : Nat) (body : List Byte) (f : Chip → Chip)
    (h : c.linkRuns n = false ∨ c.linkUp n = false) : c.onFrame n cls body f = c :=
  if_neg (by rcases h with h | h <;> simp [h])

theorem onFrame_of_full {c d : Chip} {n cls : Nat} {body : List Byte} (f : Chip → Chip) (hruns : c.linkRuns n = true)
    (hup : c.linkUp n = true) (h : (c.rxCount n).rxPass n cls body = (false, d)) : c.onFrame n cls body f = d := by
  unfold Chip.onFrame
  dsimp only
  rw [if_pos (by simp [hruns, hup]), h]
  rfl

theorem onFrame_of_room {c d : Chip} {n cls : Nat} {body : List Byte} (f : Chip → Chip) (hruns : c.linkRuns n = true)
    (hup : c.linkUp n = true) (h : (c.rxCount n).rxPass n cls body = (true, d)) : c.onFrame n cls body f = f d := by
  unfold Chip.onFrame
  dsimp only
  rw [if_pos (by simp [hruns, hup]), h]
  rfl

theorem rxPass_samePlant {c d : Chip} {n cls : Nat} {body : List Byte} {room : Bool}
    (h : (c.rxCount n).rxPass n cls body = (room, d)) : SamePlant c d := by
  have hkeeps := rxPass_keeps (.refl _) n cls body (c.rxCount n) (.refl _)
  rw [h] at hkeeps
  exact (rxCount_samePlant c n).trans (.of_keeps hkeeps)

/-! ### LSAs -/

theorem takeLsa_own_newer {c : Chip} (n : Nat) {b : LsaBody} (hu : b.uid = c.fuses.uid) (hs : c.fabric.ownSeq < b.seq) :
    c.takeLsa n b = (c.setFabric (fun f => { f with ownSeq := b.seq })).floodOwn := by
  unfold Chip.takeLsa
  dsimp only
  rw [if_pos (by simp [hu]), if_pos hs]

theorem takeLsa_own_older {c : Chip} (n : Nat) {b : LsaBody} (hu : b.uid = c.fuses.uid) (hs : b.seq ≤ c.fabric.ownSeq) :
    c.takeLsa n b = c := by
  unfold Chip.takeLsa
  dsimp only
  rw [if_pos (by simp [hu]), if_neg (by omega)]

/-- The sequence number of the LSA that is held of a UID. -/
def Chip.heldSeq (c : Chip) (uid : Nat) : Option Nat :=
  Tbl.get dNone (c.fabric.lsas.map (fun e => (e.1, some e.2.body.seq))) uid

theorem takeLsa_other {c : Chip} (n : Nat) {b : LsaBody} (hu : b.uid ≠ c.fuses.uid) : c.takeLsa n b =
    if (match c.heldSeq b.uid with | some s => decide (b.seq ≤ s) | none => false) then c
    else if (c.heldSeq b.uid).isNone && 1023 ≤ c.fabric.lsas.length then c.logFault 1 (b.uid % 4294967296)
    else (((c.setFabric (fun f => { f with lsas := Tbl.insert f.lsas b.uid ⟨b, c.clk.now + sec 90⟩ })).upLinks.filter (· != n)).foldl
      (fun c m => c.sendLsa b m)
      (c.setFabric (fun f => { f with lsas := Tbl.insert f.lsas b.uid ⟨b, c.clk.now + sec 90⟩ }))).converge := by
  unfold Chip.takeLsa
  dsimp only
  rw [if_neg (by simp [hu])]
  rfl

theorem sendLsa_fabric (c : Chip) (b : LsaBody) (n : Nat) : (c.sendLsa b n).fabric = { c.fabric with
    acks := c.fabric.acks.filter (fun e => !(e.1 == n && e.2.1 == b.uid)) ++ [(n, b.uid, c.clk.now + ms 20)] } := rfl

theorem foldl_sendLsa_fabric (body : Chip → LsaBody) : ∀ (l : List Nat) (c : Chip), ∃ acks,
    (l.foldl (fun c n => c.sendLsa (body c) n) c).fabric = { c.fabric with acks := acks }
  | [], c => ⟨c.fabric.acks, rfl⟩
  | n :: l, c => by
    obtain ⟨acks, h⟩ := foldl_sendLsa_fabric body l (c.sendLsa (body c) n)
    exact ⟨acks, h⟩

theorem floodOwn_fabric (c : Chip) : ∃ acks, c.floodOwn.fabric =
    { c.fabric with ownSeq := c.fabric.ownSeq + 1, lsaDue := c.clk.now + sec 30, acks := acks } :=
  foldl_sendLsa_fabric Chip.ownLsa _ _

theorem floodOwn_clk (c : Chip) : c.floodOwn.clk = c.clk := (floodOwn_keeps (.refl _) c (.refl c)).clk rfl

theorem floodOwn_samePlant (c : Chip) : SamePlant c c.floodOwn := .of_keeps (floodOwn_keeps (.refl _) c (.refl c))

theorem lsaRefreshRow_of_on {c : Chip} (hmain : c.power.main.up = true) (href : c.clk.refRun = true)
    (hflock : hasFlock c.fuses.variant = true) : c.lsaRefreshRow = (c.waitUntil c.fabric.lsaDue).floodOwn :=
  if_pos (by simp [hmain, href, hflock])

theorem lsaRefreshRow_of_off {c : Chip}
    (h : c.power.main.up = false ∨ c.clk.refRun = false ∨ hasFlock c.fuses.variant = false) : c.lsaRefreshRow = c :=
  if_neg (by rcases h with h | h | h <;> simp [h])

theorem lsaResendRow_of_none {c : Chip} {n uid : Nat} (h : c.fabric.acks.find? (fun e => e.1 == n && e.2.1 == uid) = none) :
    c.lsaResendRow n uid = c := by
  unfold Chip.lsaResendRow
  rw [h]

theorem lsaResendRow_of_not_up {c : Chip} {n : Nat} (uid : Nat) (h : c.linkRuns n = false ∨ c.linkUp n = false) :
    c.lsaResendRow n uid = c := by
  unfold Chip.lsaResendRow
  split
  · rfl
  · exact if_pos (by rcases h with h | h <;> simp [h])

theorem waitUntil_topology (c : Chip) (t : Nat) : (c.waitUntil t).topology = c.topology :=
  (Chip.waitUntil_frame t c).topology_eq rfl rfl rfl

theorem waitUntil_fabric (c : Chip) (t : Nat) : (c.waitUntil t).fabric = c.fabric := (Chip.waitUntil_frame t c).fabric rfl

theorem lsaResendRow_of_gone {c : Chip} {n uid d : Nat} (hruns : c.linkRuns n = true) (hup : c.linkUp n = true)
    (h : c.fabric.acks.find? (fun e => e.1 == n && e.2.1 == uid) = some (n, uid, d)) (hb : lsaOf c.topology uid = none) :
    c.lsaResendRow n uid =
      (c.waitUntil d).setFabric (fun f => { f with acks := f.acks.filter (fun e => !(e.1 == n && e.2.1 == uid)) }) := by
  unfold Chip.lsaResendRow
  rw [h]
  dsimp only
  rw [if_neg (by simp [hruns, hup]), waitUntil_topology, hb]

theorem lsaResendRow_of_held {c : Chip} {n uid d : Nat} {b : LsaBody} (hruns : c.linkRuns n = true) (hup : c.linkUp n = true)
    (h : c.fabric.acks.find? (fun e => e.1 == n && e.2.1 == uid) = some (n, uid, d)) (hb : lsaOf c.topology uid = some b) :
    c.lsaResendRow n uid = (c.waitUntil d).sendLsa b n := by
  unfold Chip.lsaResendRow
  rw [h]
  dsimp only
  rw [if_neg (by simp [hruns, hup]), waitUntil_topology, hb]

theorem lsaAgeoutRow_of_off {c : Chip} {uid : Nat}
    (h : c.power.main.up = false ∨ c.fabric.lsas.find? (fun e => e.1 == uid) = none) : c.lsaAgeoutRow uid = c := by
  unfold Chip.lsaAgeoutRow
  rcases h with h | h
  · split
    · rfl
    · exact if_pos (by simp [h])
  · rw [h]

theorem lsaAgeoutRow_of_held {c : Chip} {uid : Nat} {held : HeldLsa} (hmain : c.power.main.up = true)
    (h : c.fabric.lsas.find? (fun e => e.1 == uid) = some (uid, held)) :
    c.lsaAgeoutRow uid = ((c.waitUntil held.ages).setFabric (fun f => { f with lsas := Tbl.erase f.lsas uid })).converge := by
  unfold Chip.lsaAgeoutRow
  rw [h]
  exact if_neg (by simp [hmain])

theorem converge_samePlant (c : Chip) : SamePlant c c.converge := .of_keeps (converge_keeps (.refl _) c (.refl c))

theorem setFabric_samePlant (c : Chip) (f : FabricSt → FabricSt) : SamePlant c (c.setFabric f) :=
  .of_keeps (setFabric_keeps (.refl _) f c (.refl c))

/-! ### Addresses -/

/-- An address that is taken is confirmed, and is due to be persisted where it is not the persisted one. -/
theorem takeAddr_fabric (c : Chip) (a : Nat) : (c.takeAddr a).fabric.addr = some a ∧ (c.takeAddr a).fabric.confirmed = true ∧
    (c.takeAddr a).fabric.persistDue = (c.fabric.persistDue || c.fabric.persisted != some a) := by
  unfold Chip.takeAddr
  extract_lets lost old changed c1 c2
  have h2 : c2.fabric = c1.fabric := iteInduction (motive := fun d : Chip => d.fabric = c1.fabric)
    (fun _ => (logFault_keeps (.refl _) 2 old c1 (.refl c1)).fabric rfl) fun _ => rfl
  obtain ⟨acks, hflood⟩ := floodOwn_fabric c2
  split
  · rw [hflood, h2]
    exact ⟨rfl, rfl, rfl⟩
  · rw [h2]
    exact ⟨rfl, rfl, rfl⟩

theorem persistRow_of_off {c : Chip} (h : c.fabric.persistDue = false ∨ c.power.main.up = false) : c.persistRow = c :=
  if_neg (by rcases h with h | h <;> simp [h])

theorem persistRow_of_due {c : Chip} (h : c.fabric.persistDue = true) (hmain : c.power.main.up = true) :
    c.persistRow = { c with fabric := { c.fabric with
      persisted := c.fabric.addr, persistDue := false, persistedOld := c.fabric.persisted
      persistSeq := c.fabric.persistSeq + 1 } } :=
  if_pos (by simp [h, hmain])

/-! ### Frames for another node -/

/-- A count of a received frame leaves what the topology says of each link. -/
theorem rxCount_link_eq (c : Chip) (n j : Nat) :
    (c.rxCount n).link j = { c.link j with received := ((c.rxCount n).link j).received } := by
  by_cases hj : j = n
  · subst hj
    rw [rxCount_link]
  · rw [rxCount_link_other c hj]

theorem rxCount_upLinks (c : Chip) (n : Nat) : (c.rxCount n).upLinks = c.upLinks := by
  unfold Chip.upLinks
  congr 1
  funext j
  unfold Chip.linkUp
  rw [rxCount_link_eq c n j]
  rfl

theorem rxCount_ownLinks (c : Chip) (n : Nat) : (c.rxCount n).ownLinks = c.ownLinks := by
  unfold Chip.ownLinks
  rw [rxCount_upLinks]
  congr 1
  funext j
  rw [rxCount_link_eq c n j]
  rfl

theorem rxCount_topology (c : Chip) (n : Nat) : (c.rxCount n).topology = c.topology := by
  unfold Chip.topology Chip.ownLsa
  rw [rxCount_ownLinks]
  rfl

theorem rxCount_nextHop (c : Chip) (n node : Nat) : (c.rxCount n).nextHop node = c.nextHop node := by
  have haddr : (c.rxCount n).uidAt node = c.uidAt node := rfl
  have hfuses : (c.rxCount n).fuses = c.fuses := rfl
  unfold Chip.nextHop Chip.paths
  rw [rxCount_topology, rxCount_upLinks, haddr, hfuses]

theorem rxCount_transitHop (c : Chip) (n : Nat) (f : List Byte) : (c.rxCount n).transitHop f = c.transitHop f := by
  unfold Chip.transitHop
  rw [rxCount_nextHop]

theorem forwardRow_of_not_up {c : Chip} {n : Nat} (f : List Byte) (ok : Bool) (h : c.linkRuns n = false ∨ c.linkUp n = false) :
    c.forwardRow n f ok = c :=
  if_pos (by rcases h with h | h <;> simp [h])

theorem forwardRow_of_short {c : Chip} {n : Nat} {f : List Byte} (ok : Bool) (h : f.length < 12) : c.forwardRow n f ok = c :=
  if_pos (by simp [h])

theorem forwardRow_of_header {c : Chip} {n : Nat} {f : List Byte} (ok : Bool) (hruns : c.linkRuns n = true)
    (hup : c.linkUp n = true) (hlen : 12 ≤ f.length) (h : headerOk f = false) :
    c.forwardRow n f ok = c.corruptRow n (if crc8 (f.take 7) == fld f 7 1 then .reservedType else .hcrc) :=
  (if_neg (by simp [hruns, hup, hlen])).trans (if_pos (by simp [h]))

theorem forwardRow_of_here {c : Chip} {n : Nat} {f : List Byte} (ok : Bool) (hruns : c.linkRuns n = true)
    (hup : c.linkUp n = true) (hlen : 12 ≤ f.length) (hok : headerOk f = true)
    (h : c.fabric.addr = some (frameDst f) ∨ bit (fld f 0 8) 43 = true) : c.forwardRow n f ok = c :=
  (if_neg (by simp [hruns, hup, hlen])).trans ((if_neg (by simp [hok])).trans (if_pos (by simpa using h)))

theorem forwardRow_of_transit {c : Chip} {n : Nat} {f : List Byte} (ok : Bool) (hruns : c.linkRuns n = true)
    (hup : c.linkUp n = true) (hlen : 12 ≤ f.length) (hok : headerOk f = true) (haddr : c.fabric.addr ≠ some (frameDst f))
    (hb : bit (fld f 0 8) 43 = false) :
    c.forwardRow n f ok = ((c.rxCount n).forwardTo n f ok (c.transitHop f)).checkFcs n ok := by
  rw [← rxCount_transitHop c n f]
  exact (if_neg (by simp [hruns, hup, hlen])).trans ((if_neg (by simp [hok])).trans (if_neg (by simp [haddr, hb])))

theorem transitHop_none {c : Chip} {f : List Byte}
    (h : frameTtl f = 0 ∨ frameType f = 2 ∨ frameType f = 4 ∨ c.nextHop (frameDst f) = none) : c.transitHop f = none := by
  unfold Chip.transitHop
  rcases h with h | h | h | h <;> simp [h]

theorem transitHop_some {c : Chip} {f : List Byte} {m : Nat} (h0 : frameTtl f ≠ 0) (h2 : frameType f ≠ 2) (h4 : frameType f ≠ 4)
    (h : c.nextHop (frameDst f) = some m) : c.transitHop f = some m :=
  (if_neg (by simp [h0, h2, h4])).trans h

theorem rxCount_cutThrough (c : Chip) (n m : Nat) : (c.rxCount n).cutThrough n m = c.cutThrough n m := by
  unfold Chip.cutThrough
  rw [rxCount_link_eq c n n, rxCount_link_eq c n m]

end Sys2Proof.Machine

namespace Sys2Proof
open Machine

/-- Settles O52: the rows of received frames by the room of their RX queue, the others by their conditions. -/
theorem fabricKeepsItsTopology : Obligations.FabricKeepsItsTopology := by
  refine fun s => ⟨?notUp, ?full, ?room, ?take, ?addr, ?refresh, ?noRefresh, ?noAck, ?gone, ?noLsa, ?noPersist, ?resend, ?ageout,
    ?persist, ?here, ?transit⟩
  case notUp =>
    exact fun n h => ⟨fun _ _ => Leads.of_eq rfl (onFrame_of_not_up _ _ _ h), fun _ _ _ => Leads.of_eq rfl (onFrame_of_not_up _ _ _ h),
      fun _ _ => Leads.of_eq rfl (onFrame_of_not_up _ _ _ h), fun _ => Leads.of_eq rfl (lsaResendRow_of_not_up _ h),
      fun _ _ => Leads.of_eq rfl (forwardRow_of_not_up _ _ h)⟩
  case full =>
    exact fun n d hruns hup h => ⟨fun _ _ => Leads.of_eq rfl (onFrame_of_full _ hruns hup h),
      fun _ _ _ => Leads.of_eq rfl (onFrame_of_full _ hruns hup h), fun _ _ => Leads.of_eq rfl (onFrame_of_full _ hruns hup h),
      rxPass_samePlant h⟩
  case room =>
    intro n d hruns hup h
    refine ⟨fun b => ⟨Leads.of_eq rfl (onFrame_of_room _ hruns hup h), Leads.of_eq rfl (onFrame_of_room _ hruns hup h)⟩,
      fun uid rq ps => ⟨fun hbw => ?_, fun hbw => ?_⟩, fun uid a => ⟨fun hu => ?_, fun hu => ?_⟩, rxPass_samePlant h⟩
    · exact Leads.of_eq rfl ((onFrame_of_room _ hruns hup h).trans (if_pos (by simp [hbw])))
    · exact Leads.of_eq rfl ((onFrame_of_room _ hruns hup h).trans (if_neg (by simp [hbw])))
    · exact Leads.of_eq rfl ((onFrame_of_room _ hruns hup h).trans (if_pos (by simp [hu])))
    · exact Leads.of_eq rfl ((onFrame_of_room _ hruns hup h).trans (if_neg (by simp [hu])))
  case take =>
    refine fun c n b => ⟨takeLsa_own_newer n, takeLsa_own_older n, fun h hu hheld hseq => ?_, fun hu hheld hfull => ?_,
      fun hu hnew => ⟨_, _, rfl, rfl, ?_⟩⟩
    · rw [takeLsa_other n hu, show c.heldSeq b.uid = some h from hheld, if_pos (decide_eq_true hseq)]
    · rw [takeLsa_other n hu, show c.heldSeq b.uid = none from hheld, if_neg Bool.false_ne_true, if_pos (by simp [hfull])]
    · rw [takeLsa_other n hu]
      rcases hnew with ⟨hheld, hlen⟩ | ⟨h, hheld, hseq⟩
      · rw [show c.heldSeq b.uid = none from hheld, if_neg Bool.false_ne_true, if_neg (by simp [hlen])]
      · rw [show c.heldSeq b.uid = some h from hheld, if_neg (by simp [hseq]), if_neg (by simp)]
  case addr =>
    intro c a
    obtain ⟨haddr, hconf, hdue⟩ := takeAddr_fabric c a
    exact ⟨haddr, hconf, fun h => by rw [hdue]; simp [h]⟩
  case refresh =>
    intro hmain href hflock
    obtain ⟨acks, hflood⟩ := floodOwn_fabric (s.chip.waitUntil s.chip.fabric.lsaDue)
    refine ⟨_, Leads.of_eq rfl (lsaRefreshRow_of_on hmain href hflock), ?_, ?_, ?_, (waitUntil_samePlant ..).trans
      (floodOwn_samePlant _)⟩
    · rw [floodOwn_clk]
      exact s.chip.le_waitUntil _
    · rw [hflood, waitUntil_fabric]
    · rw [hflood, floodOwn_clk]
  case noRefresh => exact fun h => Leads.of_eq rfl (lsaRefreshRow_of_off h)
  case noAck => exact fun n uid h => Leads.of_eq rfl (lsaResendRow_of_none h)
  case gone =>
    intro n uid d hruns hup h hb
    refine ⟨_, Leads.of_eq rfl (lsaResendRow_of_gone hruns hup h hb), s.chip.le_waitUntil d, ?_,
      (waitUntil_samePlant ..).trans (setFabric_samePlant ..)⟩
    rw [Chip.setFabric_fabric, waitUntil_fabric]
  case noLsa => exact fun uid h => Leads.of_eq rfl (lsaAgeoutRow_of_off h)
  case noPersist => exact fun h => Leads.of_eq rfl (persistRow_of_off h)
  case resend =>
    intro n uid d b hruns hup h hb
    refine ⟨_, Leads.of_eq rfl (lsaResendRow_of_held hruns hup h hb), s.chip.le_waitUntil d, ?_, ?_, (waitUntil_samePlant ..).trans
      ((sendMsg_samePlant ..).trans (setFabric_samePlant ..))⟩
    · have hlink := sendMsg_link (s.chip.waitUntil d) n (.lsa false b)
      rw [waitUntil_link] at hlink
      exact congrArg LinkSt.wire hlink
    · rw [sendLsa_fabric, waitUntil_fabric]
      rfl
  case ageout =>
    intro uid held hmain h
    refine ⟨_, Leads.of_eq rfl (lsaAgeoutRow_of_held hmain h), s.chip.le_waitUntil _, ?_,
      ((waitUntil_samePlant ..).trans (setFabric_samePlant ..)).trans (converge_samePlant _)⟩
    rw [Chip.setFabric_fabric, waitUntil_fabric]
  case persist => exact fun h hmain => Leads.of_eq rfl (persistRow_of_due h hmain)
  case here =>
    exact fun n f ok hruns hup => ⟨fun hlen => Leads.of_eq rfl (forwardRow_of_short _ hlen),
      fun hlen h => Leads.of_eq rfl (forwardRow_of_header _ hruns hup hlen h),
      fun hlen hok h => Leads.of_eq rfl (forwardRow_of_here _ hruns hup hlen hok h)⟩
  case transit =>
    intro n f hruns hup hlen hok haddr hb
    have hrow := fun ok => forwardRow_of_transit ok hruns hup hlen hok haddr hb
    refine ⟨fun h => ?_, fun m h0 h2 h4 h => ⟨?_, fun hcls hn hm => ?_, fun hcut => ?_⟩⟩
    · rw [transitHop_none h] at hrow
      exact ⟨Leads.of_eq rfl (hrow true), Leads.of_eq rfl (hrow false)⟩
    · rw [transitHop_some h0 h2 h4 h] at hrow
      exact Leads.of_eq rfl (hrow true)
    · rw [transitHop_some h0 h2 h4 h] at hrow
      refine Leads.of_eq rfl ((hrow false).trans (congrArg (Chip.fcsError n) (if_pos ?_)))
      rw [rxCount_cutThrough]
      simp [Chip.cutThrough, hcls, hn, hm]
    · rw [transitHop_some h0 h2 h4 h] at hrow
      refine Leads.of_eq rfl ((hrow false).trans (congrArg (Chip.fcsError n) (if_neg ?_)))
      rw [rxCount_cutThrough]
      rcases hcut with hcut | hcut | hcut <;> simp [Chip.cutThrough, hcut]

end Sys2Proof
end

section
-- One proof after another: side by side, the stacks of their threads reach the check's limit of memory.
set_option Elab.async false
/-! Fabric time (spec/11; R354–R362). -/

namespace Sys2Proof.Machine

/-! ### Following an upstream -/

theorem followTime_rate {c : Chip} (n : Nat) {b : TimeBody} {e : Int} (he : e = (b.origin : Int) + (c.link n).delay - c.fabricNs)
    (hsmall : e.natAbs ≤ 1000000) (hkey : c.fabric.followed = some (b.steps, b.generation)) :
    (c.followTime n b).clk = { c.clk with fabRate := clampI (-200000) 200000 (e * 8) } := by
  subst he
  unfold Chip.followTime
  dsimp only
  rw [if_neg (by simp [hkey]; omega)]
  rfl

theorem followTime_step {c : Chip} (n : Nat) {b : TimeBody} {e : Int} (he : e = (b.origin : Int) + (c.link n).delay - c.fabricNs)
    (h : 1000000 < e.natAbs ∨ c.fabric.followed ≠ some (b.steps, b.generation)) :
    (c.followTime n b).clk = (c.stepFabric e).clk := by
  subst he
  unfold Chip.followTime
  dsimp only
  rw [if_pos (by simpa using h)]
  rfl

theorem followTime_fabric (c : Chip) (n : Nat) (b : TimeBody) : (c.followTime n b).fabric.upstream = some n ∧
    (c.followTime n b).fabric.dist = some (b.dist + 1) ∧ (c.followTime n b).fabric.lastTime = c.clk.now ∧
    (c.followTime n b).fabric.holdover = false := by
  unfold Chip.followTime
  dsimp only
  exact ⟨rfl, rfl, rfl, rfl⟩

/-! ### TIME and PDELAY frames -/

/-- What a TIME frame of this module says. -/
def Chip.timeBody (c : Chip) : TimeBody :=
  ⟨c.fabric.bwUid, c.fabric.generation, c.fabric.steps, c.fabric.timeSeq, if !c.follower then 0 else c.fabric.dist.getD 17,
    if !c.follower then !c.rtc.valid else c.fabric.unset, c.fabric.holdover, c.fabricNs.toNat⟩

/-- The module that has sent a TIME frame on a link. -/
def Chip.timeSent (n : Nat) (c : Chip) : Chip :=
  ((c.setLink n { c.link n with timeTx := c.clk.now + ms 125 }).sendMsg n (.time c.timeBody)).setFabric
    (fun f => { f with timeSeq := f.timeSeq + 1 })

theorem timeSent_link (c : Chip) (n : Nat) : ((c.timeSent n).link n).wire = (c.link n).wire ++ [.time c.timeBody] ∧
    ((c.timeSent n).link n).timeTx = c.clk.now + ms 125 := by
  have hlink : (c.timeSent n).link n = _ := sendMsg_link (c.setLink n { c.link n with timeTx := c.clk.now + ms 125 }) n _
  rw [hlink, Chip.setLink_same]
  exact ⟨rfl, rfl⟩

theorem timeSent_link_other (c : Chip) {n j : Nat} (hj : j ≠ n) : (c.timeSent n).link j = c.link j :=
  (sendMsg_link_other (c.setLink n _) _ hj).trans (c.setLink_other _ _ _ hj)

theorem timeSent_samePlant (c : Chip) (n : Nat) : SamePlant c (c.timeSent n) :=
  ((setLink_samePlant ..).trans (sendMsg_samePlant ..)).trans (setFabric_samePlant ..)

theorem waitUntil_follower (c : Chip) (t : Nat) : (c.waitUntil t).follower = c.follower := by
  unfold Chip.follower
  rw [waitUntil_fabric, (Chip.waitUntil_frame t c).fuses]

theorem timeSendRow_of_not_up {c : Chip} {n : Nat} (h : c.linkRuns n = false ∨ c.linkUp n = false) : c.timeSendRow n = c :=
  if_pos (by rcases h with h | h <;> simp [h])

theorem timeSendRow_of_up {c : Chip} {n : Nat} (hruns : c.linkRuns n = true) (hup : c.linkUp n = true) :
    c.timeSendRow n = if c.follower then (c.waitUntil (c.link n).timeTx).timeSent n
      else ((c.waitUntil (c.link n).timeTx).timeSent n).fanBeat := by
  have hrow : c.timeSendRow n = if !(c.waitUntil (c.link n).timeTx).follower
      then ((c.waitUntil (c.link n).timeTx).timeSent n).fanBeat else (c.waitUntil (c.link n).timeTx).timeSent n :=
    if_neg (by simp [hruns, hup])
  rw [hrow, waitUntil_follower]
  cases c.follower <;> rfl

/-- The module that has noted what a TIME frame says. -/
def Chip.timeNoted (n : Nat) (b : TimeBody) (c : Chip) : Chip :=
  ((c.rxCount n).setLink n { (c.rxCount n).link n with peerTime := some (b, c.clk.now) }).setFabric (fun f =>
    { f with highest := max f.highest b.generation })

theorem timeNoted_link (c : Chip) (n : Nat) (b : TimeBody) : (c.timeNoted n b).link n =
    { (c.rxCount n).link n with peerTime := some (b, c.clk.now) } := Chip.setLink_same ..

theorem timeNoted_link_other (c : Chip) {n j : Nat} (b : TimeBody) (hj : j ≠ n) : (c.timeNoted n b).link j = c.link j :=
  ((c.rxCount n).setLink_other _ _ _ hj).trans (rxCount_link_other c hj)

theorem timeNoted_samePlant (c : Chip) (n : Nat) (b : TimeBody) : SamePlant c (c.timeNoted n b) :=
  ((rxCount_samePlant ..).trans (setLink_samePlant ..)).trans (setFabric_samePlant ..)

theorem timeRow_of_not_up {c : Chip} {n : Nat} (b : TimeBody) (h : c.linkRuns n = false ∨ c.linkUp n = false) :
    c.timeRow n b = c :=
  if_pos (by rcases h with h | h <;> simp [h])

theorem timeRow_of_up {c : Chip} {n : Nat} (b : TimeBody) (hruns : c.linkRuns n = true) (hup : c.linkUp n = true) :
    c.timeRow n b = (if (c.timeNoted n b).follower && ((c.timeNoted n b).pickUpstream).map (·.1) == some n
      then (c.timeNoted n b).followTime n b else c.timeNoted n b).countFan b :=
  if_neg (by simp [hruns, hup])

theorem pdelayRow_of_not_up {c : Chip} {n : Nat} (ns : Nat) (h : c.linkRuns n = false ∨ c.linkUp n = false) :
    c.pdelayRow n ns = c :=
  if_neg (by rcases h with h | h <;> simp [h])

theorem pdelayRow_of_up {c : Chip} {n : Nat} (ns : Nat) (hruns : c.linkRuns n = true) (hup : c.linkUp n = true) :
    c.pdelayRow n ns = ((c.rxCount n).sendMsg n .pdelay).setLink n
      { ((c.rxCount n).sendMsg n .pdelay).link n with delay := ns } :=
  if_pos (by simp [hruns, hup])

/-! ### Holdover, the bellwether's steering and the follower's calendar -/

theorem upstreamRow_of_off {c : Chip} (h : c.power.main.up = false ∨ c.follower = false ∨ c.fabric.upstream = none) :
    c.upstreamRow = c :=
  if_pos (by rcases h with h | h | h <;> simp [h])

theorem upstreamRow_of_upstream {c : Chip} (hmain : c.power.main.up = true) (hf : c.follower = true)
    (hu : c.fabric.upstream.isSome = true) : c.upstreamRow = match (c.waitUntil (c.fabric.lastTime + sec 1)).pickUpstream with
      | some (n, d) => (c.waitUntil (c.fabric.lastTime + sec 1)).setFabric (fun f => { f with
          upstream := some n, dist := some (d + 1), lastTime := (c.waitUntil (c.fabric.lastTime + sec 1)).clk.now })
      | none => (c.waitUntil (c.fabric.lastTime + sec 1)).setFabric (fun f => { f with upstream := none, holdover := true }) :=
  if_neg (by simp [hmain, hf, Option.isSome_iff_ne_none.mp hu])

theorem steerRow_of_off {c : Chip} (h : c.power.main.up = false ∨ c.follower = true) : c.steerRow = c :=
  if_pos (by rcases h with h | h <;> simp [h])

/-- The module at the next RTC tick to a whole second, where it is not there. -/
def Chip.steerTick (c : Chip) : Chip := if c.rtc.presc = 0 then c else c.waitTotal ((c.rtc.count.toNat + 1) * 32768)

/-- How far the calendar is before fabric time, in ns. -/
def Chip.calendarAhead (c : Chip) : Int :=
  ((c.rtc.count.toNat * 1000000000 + c.rtc.presc * 1000000000 / 32768 : Nat) : Int) - c.fabricNs

theorem steerRow_of_bellwether {c : Chip} (hmain : c.power.main.up = true) (hf : c.follower = false) :
    c.steerRow = if c.steerTick.calendarAhead.natAbs ≤ 1000000
      then c.steerTick.setRate (clampI (-100000) 100000 c.steerTick.calendarAhead)
      else (c.steerTick.stepFabric c.steerTick.calendarAhead).setFabric (fun f => { f with steps := f.steps + 1 }) := by
  unfold Chip.steerRow Chip.steerTick
  simp only [beq_iff_eq]
  exact if_neg (by simp [hmain, hf])

theorem followerRow_of_off {c : Chip}
    (h : c.power.main.up = false ∨ c.follower = false ∨ c.fabric.locked = false ∨ c.fabric.unset = true) : c.followerRow = c :=
  if_pos (by rcases h with h | h | h | h <;> simp [h])

theorem followerRow_of_follower {c : Chip} (hmain : c.power.main.up = true) (hf : c.follower = true)
    (hl : c.fabric.locked = true) (hu : c.fabric.unset = false) :
    c.followerRow = if !c.fabric.firstLock || 2000000 < c.calendarAhead.natAbs then
      ((c.waitUntil (c.clk.now + c.fabricWait ((c.clk.fabUs + 999999) / 1000000 * 1000000))).commitTime
        ((c.clk.fabUs + 999999) / 1000000)).setFabric (fun f => { f with firstLock := true })
      else c :=
  if_neg (by simp [hmain, hf, hl, hu])

end Sys2Proof.Machine

namespace Sys2Proof
open Machine

/-- Settles O53: the frames of time on an UP link, and the steering by the node's part in the fabric. -/
theorem fabricKeepsTime : Obligations.FabricKeepsTime := by
  refine ⟨fun c n b e he => ⟨followTime_rate n he, followTime_step n he, ?follow⟩,
    fun s => ⟨?notUp, ?noUpstream, ?noSteer, ?noCheck, fun n hruns hup => ⟨?send, ?time, ?pdelay⟩, ?upstream, ?steer, ?calendar⟩⟩
  case follow => exact followTime_fabric c n b
  case notUp =>
    exact fun n h => ⟨Leads.of_eq rfl (timeSendRow_of_not_up h), fun b => Leads.of_eq rfl (timeRow_of_not_up b h),
      fun ns => Leads.of_eq rfl (pdelayRow_of_not_up ns h)⟩
  case noUpstream => exact fun h => Leads.of_eq rfl (upstreamRow_of_off h)
  case noSteer => exact fun h => Leads.of_eq rfl (steerRow_of_off h)
  case noCheck => exact fun h => Leads.of_eq rfl (followerRow_of_off h)
  case send =>
    obtain ⟨hwire, htx⟩ := timeSent_link (s.chip.waitUntil (s.chip.link n).timeTx) n
    rw [waitUntil_link] at hwire
    refine ⟨_, (s.chip.waitUntil (s.chip.link n).timeTx).timeSent n, _, Leads.of_eq rfl (timeSendRow_of_up hruns hup), rfl,
      s.chip.le_waitUntil _, hwire, htx, ?_, ?_, ?_, ?_, rfl, fun hf => ?_, fun hf => ?_, fun j hj => ?_,
      (waitUntil_samePlant ..).trans (timeSent_samePlant ..)⟩
    · exact congrArg (fun f => f.timeSeq + 1) (waitUntil_fabric s.chip _)
    · exact congrArg FabricSt.timeSeq (waitUntil_fabric s.chip _)
    · exact congrArg FabricSt.bwUid (waitUntil_fabric s.chip _)
    · exact congrArg FabricSt.generation (waitUntil_fabric s.chip _)
    · exact if_pos (by rw [waitUntil_follower, hf]; rfl)
    · rw [← waitUntil_fabric s.chip (s.chip.link n).timeTx]
      exact if_neg (by rw [waitUntil_follower, hf]; simp)
    · rw [timeSent_link_other _ hj, waitUntil_link]
  case time =>
    intro b
    have hrow := timeRow_of_up b hruns hup
    refine ⟨s.chip.timeNoted n b, ?_, rfl, fun hf hpick => ?_, fun h => ?_, fun j hj => timeNoted_link_other _ b hj,
      timeNoted_samePlant ..⟩
    · rw [timeNoted_link]
    · rw [if_pos (by simp [hf, hpick])] at hrow
      exact Leads.of_eq rfl hrow
    · rw [if_neg (by simpa using h)] at hrow
      exact Leads.of_eq rfl hrow
  case pdelay =>
    intro ns
    refine ⟨_, Leads.of_eq rfl (pdelayRow_of_up ns hruns hup), ?_, ?_, ?_, ?_, ?_, fun j hj => ?_,
      ((rxCount_samePlant ..).trans (sendMsg_samePlant ..)).trans (setLink_samePlant ..)⟩
    · rw [Chip.setLink_same]
    · rw [Chip.setLink_same, sendMsg_link, rxCount_link]
      rfl
    · rw [Chip.setLink_same, sendMsg_link, rxCount_link]
    · rw [Chip.setLink_same, sendMsg_link, rxCount_link]
      rfl
    · rw [Chip.setLink_same, sendMsg_link, rxCount_link]
      rfl
    · rw [Chip.setLink_other _ _ _ _ hj, sendMsg_link_other _ _ hj, rxCount_link_other _ hj]
  case upstream =>
    intro hmain hf hu
    have hrow := upstreamRow_of_upstream hmain hf hu
    obtain ⟨due, hdue⟩ : ∃ due, s.chip.fabric.lastTime + sec 1 = due := ⟨_, rfl⟩
    rw [hdue] at hrow ⊢
    refine ⟨s.chip.waitUntil due, s.chip.le_waitUntil due, waitUntil_fabric .., waitUntil_samePlant .., fun n d h => ?_, fun h => ?_⟩
    · rw [h] at hrow
      exact Leads.of_eq rfl hrow
    · rw [h] at hrow
      exact Leads.of_eq rfl hrow
  case steer =>
    intro hmain hf
    have hrow := steerRow_of_bellwether hmain hf
    refine ⟨s.chip.steerTick, s.chip.steerTick.calendarAhead, rfl, rfl, fun h => ?_, fun h => ?_⟩
    · exact Leads.of_eq rfl (hrow.trans (if_pos h))
    · exact Leads.of_eq rfl (hrow.trans (if_neg (by omega)))
  case calendar =>
    intro hmain hf hl hu
    have hrow := followerRow_of_follower hmain hf hl hu
    refine ⟨s.chip.calendarAhead, rfl, fun h => ?_, fun hfirst h => ?_⟩
    · refine ⟨_, ?_, ?_, Leads.of_eq rfl (hrow.trans (if_pos (by simpa using h)))⟩
      · exact Nat.le_trans (Nat.le_add_right _ _) (s.chip.le_waitUntil _)
      · exact waitUntil_samePlant ..
    · exact Leads.of_eq rfl (hrow.trans (if_neg (by simp [hfirst]; omega)))

end Sys2Proof
end

section
-- One proof after another: side by side, the stacks of their threads reach the check's limit of memory.
set_option Elab.async false
/-! Streams and PHIVEOX packets over the fabric (spec/11; R363–R371). -/

namespace Sys2Proof.Machine

/-! ### SIGNAL frames -/

/-- The records of a SIGNAL frame's payload. -/
def signalRecords (p : List Byte) : List (List Byte) := (List.range ((p.length - 4) / 12)).map (fun k => slice p (4 + 12 * k) 12)

/-- The module that has counted a SIGNAL frame at its link, as one of class 0 that came demoted where it did. -/
def Chip.arrivalCounted (n i cls : Nat) (c : Chip) : Chip :=
  if bits (c.strCfg i) 2 2 == 0 && cls != 0 then
    (c.rxCount n).setLink n { (c.rxCount n).link n with c0Arrived := ((c.rxCount n).link n).c0Arrived + 1 }
  else c.rxCount n

theorem arrivalCounted_link (c : Chip) (n i cls : Nat) : (c.arrivalCounted n i cls).link n = { c.link n with
    received := (c.link n).received + 1
    c0Arrived := (c.link n).c0Arrived + (if bits (c.strCfg i) 2 2 = 0 ∧ cls ≠ 0 then 1 else 0) } := by
  unfold Chip.arrivalCounted
  by_cases h : bits (c.strCfg i) 2 2 = 0 ∧ cls ≠ 0
  · rw [if_pos (by simpa using h), if_pos h, Chip.setLink_same, rxCount_link]
  · rw [if_neg (by simpa using h), if_neg h, rxCount_link,
      show (c.link n).c0Arrived + 0 = (c.link n).c0Arrived from BitVec.add_zero _]

theorem arrivalCounted_frame (c : Chip) (n i cls : Nat) : Keeps Field.links c (c.arrivalCounted n i cls) :=
  iteInduction (motive := Keeps Field.links c)
    (fun _ => setLink_keeps (.refl _) n _ _ (rxCount_keeps (.refl _) n c (.refl c)))
    fun _ => rxCount_keeps (.refl _) n c (.refl c)

/-- The module that has counted a SIGNAL frame of a stream's own source. -/
def Chip.signalCounted (n i cls : Nat) (p : List Byte) (c : Chip) : Chip :=
  (c.arrivalCounted n i cls).setStream i { c.stream i with
    lost := (c.stream i).lost + missedFrames (c.stream i).lastSeq (BitVec.ofNat 16 (fld p 2 2))
    lastSeq := some (BitVec.ofNat 16 (fld p 2 2)) }

theorem signalCounted_stream (c : Chip) (n i cls : Nat) (p : List Byte) : (c.signalCounted n i cls p).stream i =
    { c.stream i with
      lost := (c.stream i).lost + missedFrames (c.stream i).lastSeq (BitVec.ofNat 16 (fld p 2 2))
      lastSeq := some (BitVec.ofNat 16 (fld p 2 2)) } := Chip.setStream_same ..

theorem signalCounted_stream_other (c : Chip) (n cls : Nat) (p : List Byte) {i j : Nat} (hj : j ≠ i) :
    (c.signalCounted n i cls p).stream j = c.stream j :=
  (Chip.setStream_other _ _ _ _ hj).trans ((arrivalCounted_frame c n i cls).stream_eq rfl j)

theorem signalCounted_link (c : Chip) (n i cls : Nat) (p : List Byte) :
    (c.signalCounted n i cls p).link n = (c.arrivalCounted n i cls).link n := rfl

theorem signalCounted_samePlant (c : Chip) (n i cls : Nat) (p : List Byte) : SamePlant c (c.signalCounted n i cls p) :=
  (SamePlant.of_keeps (arrivalCounted_frame c n i cls)).trans (.of_keeps (setStream_frame _ i _))

theorem signalRow_of_not_up {c : Chip} {n : Nat} (src cls : Nat) (p : List Byte) (h : c.linkRuns n = false ∨ c.linkUp n = false) :
    c.signalRow n src cls p = c :=
  if_pos (by rcases h with h | h <;> simp [h])

theorem signalRow_of_other {c : Chip} {n src : Nat} (cls : Nat) {p : List Byte} (hruns : c.linkRuns n = true) (hup : c.linkUp n = true)
    (h : 256 ≤ fld p 0 2 ∨ (c.stream (fld p 0 2)).state = 0 ∨ c.isHostStream (fld p 0 2) = true ∨ c.srcNode (fld p 0 2) ≠ src) :
    c.signalRow n src cls p = (signalRecords p).foldl (fun c _ => c.discard n) (c.rxCount n) := by
  have hstream : (c.rxCount n).stream (fld p 0 2) = c.stream (fld p 0 2) := rfl
  have hhost : (c.rxCount n).isHostStream (fld p 0 2) = c.isHostStream (fld p 0 2) := rfl
  have hsrc : (c.rxCount n).srcNode (fld p 0 2) = c.srcNode (fld p 0 2) := rfl
  unfold Chip.signalRow
  dsimp only
  rw [if_neg (by simp [hruns, hup]), hstream, hhost, hsrc, if_pos]
  · rfl
  · rcases h with h | h | h | h <;> simp [h]

theorem signalRow_of_own {c : Chip} {n src i : Nat} (cls : Nat) {p : List Byte} (hruns : c.linkRuns n = true) (hup : c.linkUp n = true)
    (hi : fld p 0 2 = i) (h256 : i < 256) (hstate : (c.stream i).state ≠ 0) (hhost : c.isHostStream i = false) (hsrc : c.srcNode i = src) :
    c.signalRow n src cls p = (signalRecords p).foldl (fun c r => c.takeRecord n i r) (c.signalCounted n i cls p) := by
  subst hi
  have hstream : (c.rxCount n).stream (fld p 0 2) = c.stream (fld p 0 2) := rfl
  have hhost' : (c.rxCount n).isHostStream (fld p 0 2) = c.isHostStream (fld p 0 2) := rfl
  have hsrc' : (c.rxCount n).srcNode (fld p 0 2) = c.srcNode (fld p 0 2) := rfl
  unfold Chip.signalRow
  dsimp only
  rw [if_neg (by simp [hruns, hup]), hstream, hhost', hsrc', if_neg (by simp [h256, hstate, hhost, hsrc])]
  rfl

theorem takeRecord_of_none {c : Chip} (n : Nat) {i : Nat} {r : List Byte}
    (h : (c.streamMap i).find? (fun e => e.1 == fld r 0 2 % 4096) = none) : c.takeRecord n i r = c.discard n := by
  unfold Chip.takeRecord
  rw [h]

theorem takeRecord_of_older {c : Chip} (n : Nat) {i a dst : Nat} {r : List Byte}
    (h : (c.streamMap i).find? (fun e => e.1 == fld r 0 2 % 4096) = some (a, dst))
    (hold : olderThan (c.slot dst) (BitVec.ofNat 32 (fld r 8 4)) = true) : c.takeRecord n i r = c := by
  unfold Chip.takeRecord
  rw [h]
  exact if_pos hold

theorem produce_streams (c : Chip) (sid : Nat) (v t : Word) (q p : Half) : (c.produce sid v t q p).streams = c.streams :=
  (produce_keeps (.refl _) sid v t q p c (.refl c)).streams rfl

theorem takeRecord_of_newer {c : Chip} (n : Nat) {i a dst : Nat} {r : List Byte}
    (h : (c.streamMap i).find? (fun e => e.1 == fld r 0 2 % 4096) = some (a, dst))
    (hnew : olderThan (c.slot dst) (BitVec.ofNat 32 (fld r 8 4)) = false) : c.takeRecord n i r =
      (c.produce dst (BitVec.ofNat 32 (fld r 4 4)) (BitVec.ofNat 32 (fld r 8 4))
        ((BitVec.ofNat 16 (fld r 2 2) &&& 0x3FD) ||| qREMOTE) (producerOf 6 i)).setStream i
        { c.stream i with count := (c.stream i).count + 1 } := by
  unfold Chip.takeRecord
  rw [h]
  dsimp only
  rw [if_neg (by simp [hnew]), show Chip.stream (c.produce ..) i = c.stream i from
    congrArg (fun t => Tbl.get dStream t i) (produce_streams c _ _ _ _ _)]

/-! ### Subscriptions of this module -/

theorem acceptRow_of_off {c : Chip} {src i : Nat}
    (h : c.power.main.up = false ∨ c.isHostStream i = true ∨ (c.stream i).state = 0 ∨ c.srcNode i ≠ src) : c.acceptRow src i = c :=
  if_pos (by rcases h with h | h | h | h <;> simp [h])

theorem refuseRow_of_off {c : Chip} {src i : Nat} (reason : Nat)
    (h : c.power.main.up = false ∨ c.isHostStream i = true ∨ (c.stream i).state = 0 ∨ c.srcNode i ≠ src) :
    c.refuseRow src i reason = c :=
  if_pos (by rcases h with h | h | h | h <;> simp [h])

theorem acceptRow_of_source {c : Chip} {src i : Nat} (hmain : c.power.main.up = true) (hhost : c.isHostStream i = false)
    (hstate : (c.stream i).state ≠ 0) (hsrc : c.srcNode i = src) :
    c.acceptRow src i = c.setStream i { c.stream i with state := 2, reason := 0, timer := some (c.clk.now + sec 1) } :=
  if_neg (by simp [hmain, hhost, hstate, hsrc])

theorem refuseRow_of_source {c : Chip} {src i : Nat} (reason : Nat) (hmain : c.power.main.up = true) (hhost : c.isHostStream i = false)
    (hstate : (c.stream i).state ≠ 0) (hsrc : c.srcNode i = src) :
    c.refuseRow src i reason =
      c.setStream i { c.stream i with state := 3, reason := reason, timer := some (c.clk.now + sec 10) } :=
  if_neg (by simp [hmain, hhost, hstate, hsrc])

theorem subscribeRetryRow_of_off {c : Chip} {i : Nat}
    (h : c.power.main.up = false ∨ (c.stream i).timer = none ∨ c.isHostStream i = true ∨ (c.stream i).state = 0) :
    c.subscribeRetryRow i = c := by
  unfold Chip.subscribeRetryRow
  dsimp only
  cases ht : (c.stream i).timer with
  | none => rfl
  | some d =>
    rw [ht] at h
    exact if_pos (by rcases h with h | h | h | h <;> simp_all)

theorem subscribeRetryRow_of_timer {c : Chip} {i d : Nat} (hmain : c.power.main.up = true) (h : (c.stream i).timer = some d)
    (hhost : c.isHostStream i = false) (hstate : (c.stream i).state ≠ 0) :
    c.subscribeRetryRow i = (c.waitUntil d).subscribeTry i := by
  unfold Chip.subscribeRetryRow
  dsimp only
  rw [h]
  exact if_neg (by simp [hmain, hhost, hstate])

theorem subscribeTry_of_no_path {c : Chip} {i : Nat} (h : c.reaches (c.srcNode i) = false) :
    c.subscribeTry i = c.setStream i { c.stream i with state := 4, timer := some (c.clk.now + sec 1) } :=
  if_neg (by simp [h])

theorem subscribeTry_stream {c : Chip} {i : Nat} (h : c.reaches (c.srcNode i) = true) : (c.subscribeTry i).stream i =
    { c.stream i with state := if (c.stream i).state = 2 then 2 else 1, timer := some (c.clk.now + sec 1) } := by
  unfold Chip.subscribeTry
  dsimp only
  rw [if_pos h, sendCtrl_stream, Chip.setStream_same]
  simp only [beq_iff_eq]

theorem waitUntil_streams (c : Chip) (t : Nat) : (c.waitUntil t).streams = c.streams := (Chip.waitUntil_frame t c).streams rfl

/-! ### Subscriptions of other nodes -/

theorem subDropRow_of_off {c : Chip} {node i : Nat} (h : c.power.main.up = false ∨ c.findSub node i = none) :
    c.subDropRow node i = c := by
  unfold Chip.subDropRow
  rcases h with h | h
  · split
    · exact if_neg (by simp [h])
    · rfl
  · rw [h]

theorem subDropRow_of_found {c : Chip} {node i : Nat} {x : Subscription} (hmain : c.power.main.up = true)
    (h : c.findSub node i = some x) : c.subDropRow node i = (c.waitUntil (x.renewed + sec 3)).dropSub node i := by
  unfold Chip.subDropRow
  rw [h]
  exact if_pos hmain

/-- What a module makes of a SUBSCRIBE frame that it has received. -/
def Chip.takeSubscribe (b : SubscribeBody) (c : Chip) : Chip :=
  let same := match c.findSub b.src b.stream with
    | some s => s.cls == b.cls && s.interval == b.interval && s.sids == b.sids && s.rate == b.rate
    | none => false
  if same then
    match c.findSub b.src b.stream with
    | some s => (c.setSub { s with renewed := c.clk.now }).sendCtrl b.src (.accept b.src b.stream)
    | none => c
  else match c.subRefused b with
    | some r => (c.dropSub b.src b.stream).sendCtrl b.src (.refuse b.src b.stream r)
    | none =>
      let s : Subscription :=
        { node := b.src, stream := b.stream, cls := b.cls, interval := b.interval, rate := b.rate, sids := b.sids,
          seen := b.sids.map c.exportedAlready, seq := 0, renewed := c.clk.now, bucket := 120000000, bucketAt := c.clk.now,
          lastSent := none }
      ((c.dropSub b.src b.stream).setFabric (fun f => { f with subs := f.subs ++ [s] })).sendCtrl b.src
        (.accept b.src b.stream)

theorem takeSubscribe_renewed {c : Chip} {b : SubscribeBody} {x : Subscription} (h : c.findSub b.src b.stream = some x)
    (hcls : x.cls = b.cls) (hint : x.interval = b.interval) (hsids : x.sids = b.sids) (hrate : x.rate = b.rate) :
    c.takeSubscribe b = (c.setSub { x with renewed := c.clk.now }).sendCtrl b.src (.accept b.src b.stream) := by
  unfold Chip.takeSubscribe
  rw [h]
  exact if_pos (by simp [hcls, hint, hsids, hrate])

/-- The subscription that a SUBSCRIBE frame asks for. -/
def Chip.newSub (c : Chip) (b : SubscribeBody) : Subscription :=
  { node := b.src, stream := b.stream, cls := b.cls, interval := b.interval, rate := b.rate, sids := b.sids,
    seen := b.sids.map c.exportedAlready, seq := 0, renewed := c.clk.now, bucket := 120000000, bucketAt := c.clk.now, lastSent := none }

theorem takeSubscribe_changed {c : Chip} {b : SubscribeBody} (h : ∀ x : Subscription, c.findSub b.src b.stream = some x →
      ¬(x.cls = b.cls ∧ x.interval = b.interval ∧ x.sids = b.sids ∧ x.rate = b.rate)) :
    c.takeSubscribe b = match c.subRefused b with
      | some r => (c.dropSub b.src b.stream).sendCtrl b.src (.refuse b.src b.stream r)
      | none => ((c.dropSub b.src b.stream).setFabric (fun f => { f with subs := f.subs ++ [c.newSub b] })).sendCtrl b.src
          (.accept b.src b.stream) := by
  unfold Chip.takeSubscribe
  extract_lets same
  refine if_neg ?_
  cases hx : c.findSub b.src b.stream with
  | none => simp [same, hx]
  | some x => simpa [same, hx, and_assoc] using h x hx

/-! ### Exported frames -/

theorem exportRow_of_off {c : Chip} {node i : Nat} (h : c.power.main.up = false ∨ c.findSub node i = none) :
    c.exportRow node i = c := by
  unfold Chip.exportRow
  rcases h with h | h
  · split
    · rfl
    · exact if_pos (by simp [h])
  · rw [h]

theorem exportRow_of_idle {c : Chip} {node i : Nat} {x : Subscription} (h : c.findSub node i = some x)
    (hidle : (c.pendingImages x).isEmpty = true ∨ c.reaches node = false) : c.exportRow node i = c := by
  unfold Chip.exportRow
  rw [h]
  exact if_pos (by rcases hidle with hidle | hidle <;> simp [hidle])

/-- The images that a frame of a subscription carries. -/
def Chip.exported (c : Chip) (x : Subscription) : List Nat := (c.pendingImages x).take (if x.cls = 0 then 4 else 32)

/-- A subscription whose frame has gone out. -/
def Chip.exportedSub (c : Chip) (x : Subscription) : Subscription :=
  { x with
    seq := x.seq + 1, lastSent := some c.clk.now
    bucket := if x.cls == 0 then bucketLevel x.bucket x.bucketAt x.rate c.clk.now - 40000000
      else bucketLevel x.bucket x.bucketAt x.rate c.clk.now
    bucketAt := c.clk.now
    seen := (List.range x.sids.length).map (fun j =>
      if (c.exported x).contains j then some (Tbl.get dZero c.slotWrites (x.sids.getD j 0)) else x.seen.getD j none) }

theorem exportedSub_seen (c : Chip) (x : Subscription) {j : Nat} (hj : j ∈ c.exported x) (hlen : j < x.sids.length) :
    (c.exportedSub x).seen.getD j none = some (Tbl.get dZero c.slotWrites (x.sids.getD j 0)) := by
  unfold Chip.exportedSub
  simp [List.getD_eq_getElem?_getD, hj, hlen]

theorem exportRow_waits {c : Chip} {node i : Nat} {x : Subscription} (hmain : c.power.main.up = true) (h : c.findSub node i = some x)
    (hpend : (c.pendingImages x).isEmpty = false) (hreach : c.reaches node = true)
    (hpath : (c.waitUntil (c.exportAt x)).nextHop node = none ∨ (c.waitUntil (c.exportAt x)).fabric.addr = none) :
    c.exportRow node i = c.waitUntil (c.exportAt x) := by
  unfold Chip.exportRow
  rw [h]
  dsimp only
  rw [if_neg (by simp [hmain, hpend, hreach])]
  split
  · rename_i hn ha
    rcases hpath with hpath | hpath
    · exact absurd (hpath.symm.trans hn) nofun
    · exact absurd (hpath.symm.trans ha) nofun
  · rfl

theorem exportRow_sends {c : Chip} {node i n a : Nat} {x : Subscription} (hmain : c.power.main.up = true)
    (h : c.findSub node i = some x) (hpend : (c.pendingImages x).isEmpty = false) (hreach : c.reaches node = true)
    (hn : (c.waitUntil (c.exportAt x)).nextHop node = some n) (ha : (c.waitUntil (c.exportAt x)).fabric.addr = some a) :
    c.exportRow node i = ((c.waitUntil (c.exportAt x)).setSub ((c.waitUntil (c.exportAt x)).exportedSub x)).egress n
      (flockFrame 0 x.cls 16 node a (leBytes 2 i ++ leBytes 2 x.seq.toNat ++
        (((c.waitUntil (c.exportAt x)).exported x).map (fun j =>
          (c.waitUntil (c.exportAt x)).signalRecord (x.sids.getD j 0))).flatten)) false := by
  unfold Chip.exportRow
  rw [h]
  dsimp only
  rw [if_neg (by simp [hmain, hpend, hreach]), hn, ha]
  unfold Chip.exportedSub Chip.exported
  simp only [beq_iff_eq]

/-! ### Streams to the host -/

theorem hostStreamRow_of_off {c : Chip} {i : Nat} (h : c.power.main.up = false ∨ c.isHostStream i = false ∨ (c.stream i).state ≠ 2 ∨
    (c.changedImages i).isEmpty = true) : c.hostStreamRow i = c := by
  unfold Chip.hostStreamRow
  dsimp only
  exact if_pos (by rcases h with h | h | h | h <;> simp [h])

/-- The module when a HOST stream's interval is over. -/
def Chip.hostStreamDue (i : Nat) (c : Chip) : Chip :=
  match (c.stream i).timer with
  | some d => c.waitUntil d
  | none => c

theorem hostStreamDue_frame (c : Chip) (i : Nat) : Keeps (Field.clk ||| Field.rtc) c (c.hostStreamDue i) := by
  unfold Chip.hostStreamDue
  split
  · exact Chip.waitUntil_frame _ c
  · exact .refl c

theorem le_hostStreamDue {c : Chip} {i t : Nat} (h : (c.stream i).timer = some t) : t ≤ (c.hostStreamDue i).clk.now := by
  unfold Chip.hostStreamDue
  rw [h]
  exact c.le_waitUntil t

theorem hostStreamRow_of_changed {c : Chip} {i : Nat} (hmain : c.power.main.up = true) (hhost : c.isHostStream i = true)
    (hstate : (c.stream i).state = 2) (hch : (c.changedImages i).isEmpty = false) :
    c.hostStreamRow i = if !(c.stream i).closing.isEmpty && (((c.hostStreamDue i).writeHostRecord i).changedImages i).isEmpty
      then ((c.hostStreamDue i).writeHostRecord i).closeStream i else (c.hostStreamDue i).writeHostRecord i :=
  if_neg (by simp [hmain, hhost, hstate, hch])

/-! ### Remote sessions -/

theorem commandArrives_mapped {c : Chip} {src token ctx : Nat} (p : List Byte) (h : c.remoteCtx src token = some ctx) :
    c.commandArrives src token p = c.pushRemote ctx p := by
  unfold Chip.commandArrives
  rw [h]

theorem commandArrives_opens {c : Chip} {src token ctx : Nat} (p : List Byte) (h : c.remoteCtx src token = none)
    (hfree : c.freeRemote = some ctx) : c.commandArrives src token p =
      (c.mapRemote ctx src token (protoVer (fld p 0 1) (fld p 1 1))).pushRemote ctx p := by
  unfold Chip.commandArrives
  rw [h]
  dsimp only
  rw [hfree]

theorem commandArrives_refused {c : Chip} {src token : Nat} (p : List Byte) (h : c.remoteCtx src token = none)
    (hfree : c.freeRemote = none) : c.commandArrives src token p =
      c.sendPhiveox src (fld p 12 1 % 4) (phiveoxPayload token
        (refusalPacket p (if fld p 2 2 = 0 then stNoResource else stBadOpcode) (if fld p 2 2 = 0 then noOfs else 2))) := by
  unfold Chip.commandArrives
  rw [h]
  dsimp only
  rw [hfree]
  simp only [beq_iff_eq]

theorem replyArrives_relayed {c : Chip} (src : Nat) {token : Nat} (p : List Byte) (h : 0xFF00 ≤ token) :
    c.replyArrives src token p = c.finishTag (token - 0xFF00) (fld p 4 2) (fld p 16 1) (fld p 18 2) (p.drop 20) := if_pos h

theorem replyArrives_of_other {c : Chip} {src token : Nat} (p : List Byte) (h : token < 0xFF00) (hb : c.boundNode token ≠ some src) :
    c.replyArrives src token p = c :=
  (if_neg (Nat.not_le.mpr h)).trans (if_pos (by simp [hb]))

/-- The module after the reply to a command has gone to its completion queue: an interim reply leaves the command outstanding. -/
def Chip.replied (k : Cmd) (token : Nat) (p : List Byte) (c : Chip) : Chip :=
  (if fld p 16 1 = stAccepted then
    c.setCmd { k with reserved := k.reserved - entriesFor (c.queue (completionQueue token)).eshift 20 }
  else c.dropCmd token (fld p 4 2)).deliver (completionQueue token) (fld p 12 1 % 4) p 0

theorem replyArrives_of_cmd {c : Chip} {src token : Nat} {p : List Byte} {k : Cmd} (h : token < 0xFF00)
    (hb : c.boundNode token = some src) (hk : c.findCmd token (fld p 4 2) = some k) :
    c.replyArrives src token p =
      if k.family = 0 ∧ k.opcode = 0 ∧ fld p 16 1 = stOK then { c.replied k token p with
        sessions := Tbl.set dSession (c.replied k token p).sessions token
          ⟨true, protoVer (fld p 20 1) (fld p 21 1), min (fld p 28 2) ((c.replied k token p).queue token).depth⟩ }
      else if k.family = 0 ∧ k.opcode ≤ 1 ∧ fld p 16 1 ≠ stAccepted then (c.replied k token p).endSession token
      else c.replied k token p := by
  unfold Chip.replyArrives Chip.replied
  dsimp only
  rw [if_neg (Nat.not_le.mpr h), if_neg (by simp [hb]), hk]
  simp only [Bool.and_eq_true, beq_iff_eq, bne_iff_ne, ne_eq, decide_eq_true_eq, and_assoc]

theorem replyArrives_of_none {c : Chip} {src token : Nat} {p : List Byte} (h : token < 0xFF00) (hb : c.boundNode token = some src)
    (hk : c.findCmd token (fld p 4 2) = none) :
    c.replyArrives src token p =
      if c.canReserve token (entriesFor (c.queue (completionQueue token)).eshift p.length) then
        c.deliver (completionQueue token) (fld p 12 1 % 4) p 0
      else c.setQueue (completionQueue token) { c.queue (completionQueue token) with loss := true } := by
  unfold Chip.replyArrives
  dsimp only
  rw [if_neg (Nat.not_le.mpr h), if_neg (by simp [hb]), hk]

end Sys2Proof.Machine

namespace Sys2Proof
open Machine

/-- Settles O54: each row by its condition; a packet by its direction, its token and the command that it answers. -/
theorem streamsAndPhiveoxAreCarried : Obligations.StreamsAndPhiveoxAreCarried := by
  refine ⟨⟨fun s i => ⟨?notUp, ?notOurs, ?mainDown, ?noRetry, ?noSub, ?idle, ?noHost⟩,
    fun s i hmain => ⟨?foreign, ?signal, ?record, ?answer, ?unsubscribe, ?full, ?subscribe, ?retry, ?drop, ?carry, ?host⟩⟩,
    ?linkDown, ?noRoom, ?room, fun c src token p => ⟨?mapped, ?opens, ?refused, ?relayed, ?otherNode, ?reply⟩⟩
  case notUp =>
    exact fun n h => ⟨fun _ _ _ => Leads.of_eq rfl (signalRow_of_not_up _ _ _ h), fun b => Leads.of_eq rfl (onFrame_of_not_up _ _ _ h)⟩
  case notOurs => exact fun src h => ⟨Leads.of_eq rfl (acceptRow_of_off h), fun reason => Leads.of_eq rfl (refuseRow_of_off reason h)⟩
  case mainDown => exact fun h src => Leads.of_eq rfl (if_neg (by simp [h]))
  case noRetry => exact fun h => Leads.of_eq rfl (subscribeRetryRow_of_off h)
  case noSub => exact fun node h => ⟨Leads.of_eq rfl (subDropRow_of_off h), Leads.of_eq rfl (exportRow_of_off h)⟩
  case idle => exact fun node x h hidle => Leads.of_eq rfl (exportRow_of_idle h hidle)
  case noHost => exact fun h => Leads.of_eq rfl (hostStreamRow_of_off h)
  case foreign => exact fun n src cls p hruns hup h => Leads.of_eq rfl (signalRow_of_other cls hruns hup (.inl h))
  case signal =>
    intro n src cls p hruns hup hi h256
    refine ⟨fun hstate hhost hsrc => ?_, fun h => ?_⟩
    · have hlink := (signalCounted_link s.chip n i cls p).trans (arrivalCounted_link s.chip n i cls)
      exact ⟨s.chip.signalCounted n i cls p, Leads.of_eq rfl (signalRow_of_own cls hruns hup hi h256 hstate hhost hsrc),
        signalCounted_stream .., congrArg LinkSt.received hlink, congrArg LinkSt.c0Arrived hlink,
        fun j hj => signalCounted_stream_other _ n cls p hj, signalCounted_samePlant ..⟩
    · subst hi
      exact Leads.of_eq rfl (signalRow_of_other cls hruns hup (.inr h))
  case record =>
    exact fun c n r => ⟨takeRecord_of_none n, fun a dst h =>
      ⟨takeRecord_of_older n h, fun hnew => ⟨_, rfl, takeRecord_of_newer n h hnew⟩⟩⟩
  case answer =>
    exact fun src hhost hstate hsrc => ⟨Leads.of_eq rfl (acceptRow_of_source hmain hhost hstate hsrc),
      fun reason => Leads.of_eq rfl (refuseRow_of_source reason hmain hhost hstate hsrc)⟩
  case unsubscribe => exact fun src => Leads.of_eq rfl (if_pos hmain)
  case full => exact fun n d b hruns hup h => ⟨Leads.of_eq rfl (onFrame_of_full _ hruns hup h), rxPass_samePlant h⟩
  case subscribe =>
    intro n d b hruns hup h
    have hrow : s.chip.subscribeRow n b = d.takeSubscribe b := onFrame_of_room _ hruns hup h
    refine ⟨fun x hx hcls hint hsids hrate => ?_, fun hch => ⟨fun r hr => ?_, fun hr => ?_⟩⟩
    · exact Leads.of_eq rfl (hrow.trans (takeSubscribe_renewed hx hcls hint hsids hrate))
    · rw [takeSubscribe_changed hch, hr] at hrow
      exact Leads.of_eq rfl hrow
    · rw [takeSubscribe_changed hch, hr] at hrow
      exact ⟨d.newSub b, _, Leads.of_eq rfl hrow, rfl, rfl, rfl, rfl, rfl, rfl, rfl, rfl, rfl, rfl,
        (rxPass_samePlant h).trans ((setFabric_samePlant ..).trans (setFabric_samePlant ..))⟩
  case retry =>
    intro d ht hhost hstate
    have hstream : (s.chip.waitUntil d).stream i = s.chip.stream i := congrArg (fun t => Tbl.get dStream t i) (waitUntil_streams ..)
    refine ⟨s.chip.waitUntil d, s.chip.le_waitUntil d, waitUntil_streams .., waitUntil_samePlant ..,
      Leads.of_eq rfl (subscribeRetryRow_of_timer hmain ht hhost hstate), subscribeTry_of_no_path, fun h => ⟨?_, ?_, fun j hj => ?_⟩⟩
    · rw [subscribeTry_stream h, hstream]
    · rw [subscribeTry_stream h]
    · rw [subscribeTry_other _ _ hj]
      exact congrArg (fun t => Tbl.get dStream t j) (waitUntil_streams ..)
  case drop =>
    exact fun node x h => ⟨s.chip.waitUntil (x.renewed + sec 3), Leads.of_eq rfl (subDropRow_of_found hmain h), s.chip.le_waitUntil _,
      waitUntil_fabric .., waitUntil_samePlant ..⟩
  case carry =>
    intro node x h hpend hreach
    refine ⟨_, rfl, fun hpath => Leads.of_eq rfl (exportRow_waits hmain h hpend hreach hpath), fun n a hn ha => ?_⟩
    exact ⟨_, (s.chip.waitUntil (s.chip.exportAt x)).exportedSub x, rfl, Leads.of_eq rfl (exportRow_sends hmain h hpend hreach hn ha),
      rfl, rfl, rfl, rfl, rfl, rfl, fun j hj hlen => exportedSub_seen _ x hj hlen⟩
  case host =>
    intro hhost hstate hch
    have hrow := hostStreamRow_of_changed hmain hhost hstate hch
    have hframe := hostStreamDue_frame s.chip i
    refine ⟨s.chip.hostStreamDue i, _, hframe.streams rfl, .of_keeps hframe, fun t ht => le_hostStreamDue ht, rfl,
      fun h => ?_, fun hc hd => ?_⟩
    · exact Leads.of_eq rfl (hrow.trans (if_neg (by rcases h with h | h <;> simp [h])))
    · exact Leads.of_eq rfl (hrow.trans (if_pos (by simp [hc, hd])))
  case linkDown => exact fun s n src token cls p h => Leads.of_eq rfl (onFrame_of_not_up _ _ _ h)
  case noRoom => exact fun s n src token cls p d hruns hup h => ⟨rxPass_samePlant h, Leads.of_eq rfl (onFrame_of_full _ hruns hup h)⟩
  case room =>
    exact fun s n src token cls p d hruns hup h => ⟨rxPass_samePlant h,
      fun hb => Leads.of_eq rfl ((onFrame_of_room _ hruns hup h).trans (if_pos hb)),
      fun hb => Leads.of_eq rfl ((onFrame_of_room _ hruns hup h).trans (if_neg (by simp [hb])))⟩
  case mapped => exact fun ctx h => commandArrives_mapped p h
  case opens => exact fun ctx h hfree => commandArrives_opens p h hfree
  case refused => exact commandArrives_refused p
  case relayed => exact replyArrives_relayed src p
  case otherNode => exact replyArrives_of_other p
  case reply =>
    intro ht hb
    refine ⟨fun k hk => ?_, fun hk => ?_⟩
    · have hrow := replyArrives_of_cmd ht hb hk
      refine ⟨fun hacc => ?_, fun hacc => ⟨c.replied k token p, by rw [Chip.replied, if_neg hacc], fun hk0 => ?_, fun hf ho hok => ?_,
        fun hf ho hbad => ?_⟩⟩
      · rw [if_neg (by rw [hacc]; exact fun h => absurd h.2.2 (by decide)), if_neg (by simp [hacc]), Chip.replied, if_pos hacc] at hrow
        exact hrow
      · rw [if_neg (by omega), if_neg (by omega)] at hrow
        exact hrow
      · rw [if_pos ⟨hf, ho, hok⟩] at hrow
        exact hrow
      · rw [if_neg (by rintro ⟨-, h0, hok⟩; rcases hbad with h1 | h1 <;> omega), if_pos ⟨hf, ho, hacc⟩] at hrow
        exact hrow
    · have hrow := replyArrives_of_none ht hb hk
      exact ⟨fun h => hrow.trans (if_pos h), fun h => hrow.trans (if_neg (by simp [h]))⟩

end Sys2Proof
end

section
-- One proof after another: side by side, the stacks of their threads reach the check's limit of memory.
set_option Elab.async false
/-! A CAN controller sends and receives (spec/12; R392–R404). -/

namespace Sys2Proof.Machine

/-! ### The frame of the least rank -/

/-- One step of a choice of the least of those that are not passed over. -/
def leastStep {α : Type} (passed : α → Bool) (rank : α → Nat) (best : Option α) (a : α) : Option α :=
  if passed a then best
  else match best with
    | some b => if rank a < rank b then some a else best
    | none => some a

theorem foldl_leastStep {α : Type} (passed : α → Bool) (rank : α → Nat) : ∀ (l : List α) (best : Option α) (p : α),
    l.foldl (leastStep passed rank) best = some p →
      (best = some p ∨ p ∈ l ∧ passed p = false) ∧ (∀ b, best = some b → rank p ≤ rank b) ∧
        ∀ q, q ∈ l → passed q = false → rank p ≤ rank q
  | [], best, p, h => ⟨.inl h, fun b hb => by rw [Option.some.inj (h.symm.trans hb)], nofun⟩
  | a :: l, best, p, h => by
    obtain ⟨hfrom, hle, hleast⟩ := foldl_leastStep passed rank l (leastStep passed rank best a) p h
    unfold leastStep at hfrom hle
    split at hfrom <;> rename_i hpass
    · rw [if_pos hpass] at hle
      refine ⟨hfrom.imp_right fun hp => ⟨List.mem_cons_of_mem a hp.1, hp.2⟩, hle, fun q hq hok => ?_⟩
      rcases List.mem_cons.mp hq with rfl | hq
      · exact absurd hpass (by simp [hok])
      · exact hleast q hq hok
    · rw [if_neg hpass] at hle
      have hkeep : p ∈ l ∧ passed p = false → p ∈ a :: l ∧ passed p = false := fun hp => ⟨List.mem_cons_of_mem a hp.1, hp.2⟩
      have ha : p = a → p ∈ a :: l ∧ passed p = false := by
        rintro rfl
        exact ⟨List.mem_cons_self, by simpa using hpass⟩
      cases best with
      | none =>
        refine ⟨.inr (hfrom.elim (fun h => ha (Option.some.inj h).symm) hkeep), nofun, fun q hq hok => ?_⟩
        rcases List.mem_cons.mp hq with rfl | hq
        · exact hle q rfl
        · exact hleast q hq hok
      | some b =>
        dsimp only at hfrom hle
        split at hfrom <;> rename_i hlt
        · rw [if_pos hlt] at hle
          have hpa := hle a rfl
          refine ⟨.inr (hfrom.elim (fun h => ha (Option.some.inj h).symm) hkeep), fun b' hb' => ?_, fun q hq hok => ?_⟩
          · cases hb'
            omega
          · rcases List.mem_cons.mp hq with rfl | hq
            · exact hpa
            · exact hleast q hq hok
        · rw [if_neg hlt] at hle
          have hpb := hle b rfl
          refine ⟨hfrom.imp_right hkeep, hle, fun q hq hok => ?_⟩
          rcases List.mem_cons.mp hq with rfl | hq
          · omega
          · exact hleast q hq hok

theorem pickFrame_least {c : Chip} {m : Nat} {p : CanPend} (htt : c.canTT m = false) (h : c.pickFrame m = some p) :
    p ∈ (c.canOf m).pend ∧ p.excl = false ∧ p.since + 2 ≤ c.clk.now ∧
      ∀ q, q ∈ (c.canOf m).pend → q.excl = false → q.since + 2 ≤ c.clk.now → arbRank (c.pendFrame m p) ≤ arbRank (c.pendFrame m q) := by
  have hfold : c.pickFrame m = (c.canOf m).pend.foldl
      (leastStep (fun p => p.excl || !c.crossed p) (fun p => arbRank (c.pendFrame m p))) none := by
    unfold Chip.pickFrame leastStep
    simp only [htt, Bool.not_false, Bool.true_or, Bool.not_true, Bool.or_false]
    congr 1
    funext best q
    cases best <;> rfl
  obtain ⟨hfrom, -, hleast⟩ := foldl_leastStep _ _ _ none p (hfold.symm.trans h)
  obtain ⟨hmem, hpass⟩ := hfrom.resolve_left nofun
  simp only [Chip.crossed, Bool.or_eq_false_iff, Bool.not_eq_false', decide_eq_true_eq] at hpass hleast
  exact ⟨hmem, hpass.1, hpass.2, fun q hq hex hsince => hleast q hq ⟨hex, hsince⟩⟩

/-! ### The error counters -/

theorem canErr_canOf (c : Chip) (m reason j : Nat) : (c.canErr m reason).canOf j = c.canOf j := Chip.fire_canOf ..

theorem setLevel_same (c : Chip) (m level : Nat) : (c.setLevel m level).canOf m = { c.canOf m with level := level } := by
  unfold Chip.setLevel
  dsimp only
  split
  · rename_i h
    rw [← eq_of_beq h]
  · rw [canErr_canOf, Chip.modCan_same]

theorem setLevel_other (c : Chip) {m j : Nat} (level : Nat) (hj : j ≠ m) : (c.setLevel m level).canOf j = c.canOf j := by
  unfold Chip.setLevel
  dsimp only
  split
  · rfl
  · rw [canErr_canOf, Chip.modCan_other _ _ hj]

/-- Setting the counters gives them and the error state; else only the count of bus-offs and the schedule level may change. -/
theorem setCounts_same (c : Chip) (m tec recv : Nat) : ∃ busOffs level, (c.setCounts m tec recv).canOf m = { c.canOf m with
    tec := tec, recv := recv, err := if (c.canOf m).err = 2 then 2 else errStateOf tec recv, busOffs := busOffs, level := level } := by
  unfold Chip.setCounts
  extract_lets s e c1 c2
  have he : e = if (c.canOf m).err = 2 then 2 else errStateOf tec recv := by simp only [e, s, beq_iff_eq]
  have h1 : ∃ busOffs, c1.canOf m = { c.canOf m with tec := tec, recv := recv, err := e, busOffs := busOffs } :=
    ⟨_, Chip.setCan_same ..⟩
  obtain ⟨busOffs, h1⟩ := h1
  have h2 : c2.canOf m = c1.canOf m := iteInduction (motive := fun d : Chip => d.canOf m = c1.canOf m)
    (fun _ => canErr_canOf c1 m 0 m) fun _ => rfl
  rw [← he]
  split
  · exact ⟨busOffs, 3, by rw [setLevel_same, h2, h1]⟩
  · exact ⟨busOffs, (c.canOf m).level, by rw [h2, h1]⟩

theorem setCounts_other (c : Chip) {m j : Nat} (tec recv : Nat) (hj : j ≠ m) : (c.setCounts m tec recv).canOf j = c.canOf j := by
  unfold Chip.setCounts
  extract_lets s e c1 c2
  have h1 : c1.canOf j = c.canOf j := Chip.setCan_other _ _ _ _ hj
  have h2 : c2.canOf j = c.canOf j := iteInduction (motive := fun d : Chip => d.canOf j = c.canOf j)
    (fun _ => (canErr_canOf c1 m 0 j).trans h1) fun _ => h1
  split
  · rw [setLevel_other _ _ hj, h2]
  · exact h2

theorem setCounts_samePlant (c : Chip) (m tec recv : Nat) : SamePlant c (c.setCounts m tec recv) :=
  .of_keeps (setCounts_keeps (.refl _) m tec recv c (.refl c))

/-! ### Arbitration -/

theorem arbitrate_of_none {c : Chip} {m : Nat} (won : Bool)
    (h : c.canDrives m = false ∨ (c.canOf m).flight ≠ none ∨ c.pickFrame m = none) : c.arbitrate m won = c := by
  unfold Chip.arbitrate
  split
  · rfl
  · rename_i hoff
    rcases h with h | h | h
    · exact absurd h (by simp_all)
    · exact absurd h (by simp_all)
    · rw [h]

/-- A frame that has been offered to the bus. -/
def Chip.offered (c : Chip) (m : Nat) (p : CanPend) : CanPend :=
  { p with attempts := p.attempts + 1, stamp := c.stamp, frame := c.pendFrame m p }

theorem arbitrate_of_some {c : Chip} {m : Nat} {p : CanPend} (won : Bool) (hd : c.canDrives m = true)
    (hf : (c.canOf m).flight = none) (h : c.pickFrame m = some p) : c.arbitrate m won =
      if won then (c.dropPend m p.num).modCan m (fun s => { s with flight := some ⟨c.offered m p, false, []⟩ })
      else c.modCan m (fun s => { s with pend := s.pend.map (fun x => if x.num == p.num then c.offered m p else x) }) := by
  unfold Chip.arbitrate
  rw [if_neg (by simp [hd, hf]), h]
  rfl

/-! ### Sending -/

theorem txDone_of_none {c : Chip} {m : Nat}
    (h : (c.canOf m).flight = none ∨ c.power.main.up = false ∨ c.islandHeld = true) : c.txDone m = c := by
  unfold Chip.txDone
  dsimp only
  split
  · rfl
  · rename_i f hf
    refine if_pos ?_
    rcases h with h | h | h
    · exact absurd (h.symm.trans hf) nofun
    · simp [h]
    · simp [h]

/-- A controller whose frame has gone out. -/
def CanSt.sentFrame (f : CanFlight) (tdcMeas : Nat) (s : CanSt) : CanSt :=
  { s with flight := none, sent := s.sent + 1, tdcMeas := tdcMeas, wire := s.wire ++ [f.pend.frame] }

/-- The module whose controller has sent a frame, its counters set. -/
def Chip.frameSent (m : Nat) (f : CanFlight) (c : Chip) : Chip :=
  let brs := f.pend.frame.fdf && f.pend.frame.brs && bit (c.attrN tyCan m 4) 7
  ((if brs then c.nextFree else c).setCan m ((c.canOf m).sentFrame f
    (if brs then (Config.freeWord c.freeCount).toNat % 128 else (c.canOf m).tdcMeas))).setCounts m ((c.canOf m).tec - 1) (c.canOf m).recv

/-- The module whose controller has sent a frame, the sequence number of its transmit object moved on. -/
def Chip.objSent (m : Nat) (f : CanFlight) (c : Chip) : Chip :=
  if f.pend.cmd.isSome then c.frameSent m f
  else (c.frameSent m f).setCanObj m f.pend.obj { (c.frameSent m f).canObj m f.pend.obj with
    seq := (((c.frameSent m f).canObj m f.pend.obj).seq + 1) % 256 }

theorem nextFree_canOf (c : Chip) (b : Bool) (j : Nat) : (if b then c.nextFree else c).canOf j = c.canOf j := by
  cases b <;> rfl

theorem frameSent_same (c : Chip) (m : Nat) (f : CanFlight) : ∃ meas err busOffs level, (c.frameSent m f).canOf m =
    { (c.canOf m).sentFrame f meas with tec := (c.canOf m).tec - 1, err := err, busOffs := busOffs, level := level } := by
  unfold Chip.frameSent
  extract_lets brs
  obtain ⟨busOffs, level, h⟩ := setCounts_same ((if brs then c.nextFree else c).setCan m ((c.canOf m).sentFrame f
    (if brs then (Config.freeWord c.freeCount).toNat % 128 else (c.canOf m).tdcMeas))) m ((c.canOf m).tec - 1) (c.canOf m).recv
  rw [Chip.setCan_same] at h
  exact ⟨_, _, busOffs, level, h⟩

theorem frameSent_other (c : Chip) {m j : Nat} (f : CanFlight) (hj : j ≠ m) : (c.frameSent m f).canOf j = c.canOf j := by
  unfold Chip.frameSent
  rw [setCounts_other _ _ _ hj, Chip.setCan_other _ _ _ _ hj, nextFree_canOf]

theorem nextFree_samePlant (c : Chip) (b : Bool) : SamePlant c (if b then c.nextFree else c) := by
  cases b
  · exact .refl c
  · exact .of_keeps (nextFree_keeps (.refl _) c (.refl c))

theorem frameSent_samePlant (c : Chip) (m : Nat) (f : CanFlight) : SamePlant c (c.frameSent m f) :=
  ((nextFree_samePlant c _).trans (setCan_samePlant ..)).trans (setCounts_samePlant ..)

/-- The objects' state is all that the object's sequence number adds to what the controller has sent. -/
theorem objSent_same (c : Chip) (m : Nat) (f : CanFlight) :
    ∃ objs, (c.objSent m f).canOf m = { (c.frameSent m f).canOf m with objs := objs } := by
  unfold Chip.objSent
  split
  · exact ⟨_, rfl⟩
  · exact ⟨_, Chip.modCan_same ..⟩

theorem objSent_other (c : Chip) {m j : Nat} (f : CanFlight) (hj : j ≠ m) : (c.objSent m f).canOf j = c.canOf j := by
  unfold Chip.objSent
  split
  · exact frameSent_other c f hj
  · exact (Chip.modCan_other _ _ hj).trans (frameSent_other c f hj)

theorem objSent_seq {c : Chip} {m : Nat} {f : CanFlight} (h : f.pend.cmd = none) :
    ((c.objSent m f).canObj m f.pend.obj).seq = ((c.canObj m f.pend.obj).seq + 1) % 256 := by
  obtain ⟨meas, err, busOffs, level, hsame⟩ := frameSent_same c m f
  have hobj : (c.frameSent m f).canObj m f.pend.obj = c.canObj m f.pend.obj := by
    unfold Chip.canObj
    rw [hsame]
    rfl
  unfold Chip.objSent
  rw [if_neg (by simp [h]), hobj]
  unfold Chip.canObj Chip.setCanObj
  rw [Chip.modCan_same]
  exact congrArg CanObjSt.seq (Tbl.get_set_same ..)

theorem objSent_samePlant (c : Chip) (m : Nat) (f : CanFlight) : SamePlant c (c.objSent m f) := by
  unfold Chip.objSent
  split
  · exact frameSent_samePlant c m f
  · exact (frameSent_samePlant c m f).trans (setCan_samePlant ..)

theorem txDone_of_flight {c : Chip} {m : Nat} {f : CanFlight} (hf : (c.canOf m).flight = some f) (hmain : c.power.main.up = true)
    (hheld : c.islandHeld = false) : c.txDone m =
      ((((c.objSent m f).canMsg m 0 f.pend.tag).endSend f.pend 0).answerCancels f stTooLate).afterFlight m := by
  unfold Chip.txDone
  dsimp only
  rw [hf]
  exact if_neg (by simp [hmain, hheld])

/-! ### Reception -/

theorem canReceive_of_off {c : Chip} {m : Nat} {f : CanFrame} (h : c.power.main.up = false ∨ (c.canOf m).started = false ∨
    (c.canOf m).err = 2 ∨ c.islandHeld = true ∨ (f.fdf = true ∧ c.canFd m = false)) : c.canReceive m f = c :=
  if_pos (by rcases h with h | h | h | h | h <;> simp [h])

/-- The module whose controller has counted a frame received. -/
def Chip.frameReceived (m : Nat) (c : Chip) : Chip :=
  ((if 127 < (c.canOf m).recv then c.nextFree else c).setCan m { c.canOf m with received := (c.canOf m).received + 1 }).setCounts m
    (c.canOf m).tec (rxRelief (c.canOf m).recv (Config.freeWord c.freeCount).toNat)

theorem frameReceived_same (c : Chip) (m : Nat) : ((c.frameReceived m).canOf m).received = (c.canOf m).received + 1 ∧
    ((c.frameReceived m).canOf m).recv = rxRelief (c.canOf m).recv (Config.freeWord c.freeCount).toNat := by
  obtain ⟨busOffs, level, h⟩ := setCounts_same ((if 127 < (c.canOf m).recv then c.nextFree else c).setCan m
    { c.canOf m with received := (c.canOf m).received + 1 }) m (c.canOf m).tec
    (rxRelief (c.canOf m).recv (Config.freeWord c.freeCount).toNat)
  unfold Chip.frameReceived
  rw [h, Chip.setCan_same]
  exact ⟨rfl, rfl⟩

theorem frameReceived_other (c : Chip) {m j : Nat} (hj : j ≠ m) : (c.frameReceived m).canOf j = c.canOf j := by
  unfold Chip.frameReceived
  rw [setCounts_other _ _ _ hj, Chip.setCan_other _ _ _ _ hj]
  split <;> rfl

theorem frameReceived_samePlant (c : Chip) (m : Nat) : SamePlant c (c.frameReceived m) := by
  refine SamePlant.trans ?_ ((setCan_samePlant ..).trans (setCounts_samePlant ..))
  split
  · exact nextFree_samePlant c true
  · exact .refl c

theorem rxRelief_of_le {recv : Nat} (free : Nat) (h : recv ≤ 127) : rxRelief recv free = recv - 1 := if_neg (by omega)

theorem rxRelief_of_lt {recv : Nat} (free : Nat) (h : 127 < recv) : 119 ≤ rxRelief recv free ∧ rxRelief recv free ≤ 127 := by
  rw [rxRelief, if_pos h]
  omega

theorem canReceive_of_on {c : Chip} {m : Nat} {f : CanFrame} (hmain : c.power.main.up = true) (hst : (c.canOf m).started = true)
    (hheld : c.islandHeld = false) (herr : (c.canOf m).err ≠ 2) (hfd : f.fdf = true → c.canFd m = true) :
    c.canReceive m f = match ((c.frameReceived m).filters m).find? (fun e => filterMatches e.2 f) with
      | some (i, e) => (c.frameReceived m).filterFrame m i e f
      | none =>
        if bit ((c.frameReceived m).canCfg m) 7 then (c.frameReceived m).arrive (42 + 4 * m) 1 ((c.frameReceived m).rxRecord m 0xFF f)
          (BitVec.ofNat 32 (canNote 1 0x3F))
        else (c.frameReceived m).modCan m (fun s => { s with filtered := s.filtered + 1 }) := by
  unfold Chip.canReceive
  dsimp only
  rw [if_neg]
  · rfl
  · simp only [hmain, hst, hheld, Bool.not_true, Bool.false_or, Bool.or_false, Bool.or_eq_true, beq_iff_eq, Bool.and_eq_true,
      Bool.not_eq_true', not_or, herr, not_false_eq_true, true_and, not_and, Bool.not_eq_false]
    exact hfd

/-! ### Errors -/

theorem canErrorFrame_of_off {c : Chip} {m : Nat} (ty : Nat) (phase : Bool) (id tec recv : Nat)
    (h : c.power.main.up = false ∨ (c.canOf m).started = false ∨ (c.canOf m).err = 2 ∨ c.islandHeld = true ∨ 5 < ty) :
    c.canErrorFrame m ty phase id tec recv = c :=
  if_pos (by rcases h with h | h | h | h | h <;> simp [h])

/-- The module whose controller has counted an error, its counters set. -/
def Chip.errorCounted (m tec recv : Nat) (c : Chip) : Chip :=
  (c.setCan m { c.canOf m with errors := (c.canOf m).errors + 1 }).setCounts m tec recv

theorem errorCounted_same (c : Chip) (m tec recv : Nat) : ∃ err busOffs level, (c.errorCounted m tec recv).canOf m = { c.canOf m with
    errors := (c.canOf m).errors + 1, tec := tec, recv := recv, err := err, busOffs := busOffs, level := level } := by
  obtain ⟨busOffs, level, h⟩ := setCounts_same (c.setCan m { c.canOf m with errors := (c.canOf m).errors + 1 }) m tec recv
  rw [Chip.setCan_same] at h
  exact ⟨_, busOffs, level, h⟩

section ErrorFrame

variable {c : Chip} {m : Nat} (hmain : c.power.main.up = true) (hst : (c.canOf m).started = true) (hheld : c.islandHeld = false)
  (herr : (c.canOf m).err ≠ 2)

include hmain hst hheld herr

theorem canErrorFrame_of_on {ty : Nat} (phase : Bool) (id tec recv : Nat) (hty : ty < 5) : c.canErrorFrame m ty phase id tec recv =
    ((c.errorCounted m tec recv).errorRecord m ty (b2n phase) id).flightFails m := by
  unfold Chip.canErrorFrame
  dsimp only
  rw [if_neg (by simp [hmain, hst, hheld, herr]; omega), if_neg (by simp; omega)]
  rfl

theorem canErrorFrame_of_overload (phase : Bool) (id tec recv : Nat) :
    c.canErrorFrame m 5 phase id tec recv = c.errorRecord m 5 (b2n phase) id := by
  unfold Chip.canErrorFrame
  dsimp only
  rw [if_neg (by simp [hmain, hst, hheld, herr]), if_pos (by rfl)]

end ErrorFrame

theorem domTimeout_of_off {c : Chip} {m : Nat}
    (h : c.power.main.up = false ∨ (c.canOf m).started = false ∨ canCount c.fuses.variant ≤ m) : c.domTimeout m = c :=
  if_neg (by rcases h with h | h | h <;> simp [h])

theorem busRecovered_of_off {c : Chip} {m : Nat} (h : c.power.main.up = false ∨ (c.canOf m).started = false ∨ c.islandHeld = true ∨
    (c.canOf m).err ≠ 2 ∨ bit (c.canCfg m) 5 = false) : c.busRecovered m = c :=
  if_neg (by rcases h with h | h | h | h | h <;> simp [h])

theorem wakeUp_of_off {c : Chip} {m : Nat} (h : c.power.main.up = false ∨ (c.canOf m).started = true ∨
    canCount c.fuses.variant ≤ m ∨ bit (c.canCfg m) 8 = false) : c.wakeUp m = c :=
  if_neg (by rcases h with h | h | h | h <;> simp [h])

end Sys2Proof.Machine

namespace Sys2Proof
open Machine

/-- Settles O55: each row by its condition; the choice of the frame by an induction along those that wait. -/
theorem canSendsAndReceives : Obligations.CanSendsAndReceives := by
  refine ⟨fun s m => ⟨?noArb, ?noTx, ?noRx, ?noErr, ?noDom, ?noRecovery, ?noWake⟩, fun c m p => pickFrame_least, ?counts,
    fun s m => ⟨?arbitrate, ?txDone, ?running, ?recovered, ?wake⟩⟩
  case noArb => exact fun h won => Leads.of_eq rfl (arbitrate_of_none won h)
  case noTx => exact fun h => Leads.of_eq rfl (txDone_of_none h)
  case noRx => exact fun f h => Leads.of_eq rfl (canReceive_of_off h)
  case noErr => exact fun ty phase id tec recv h => Leads.of_eq rfl (canErrorFrame_of_off ty phase id tec recv h)
  case noDom => exact fun h => Leads.of_eq rfl (domTimeout_of_off h)
  case noRecovery => exact fun h => Leads.of_eq rfl (busRecovered_of_off h)
  case noWake => exact fun h => Leads.of_eq rfl (wakeUp_of_off h)
  case counts =>
    intro c m tec recv
    obtain ⟨busOffs, level, h⟩ := setCounts_same c m tec recv
    rw [h]
    exact ⟨rfl, rfl, rfl, fun j hj => setCounts_other c tec recv hj⟩
  case arbitrate =>
    intro p hd hf hp
    refine ⟨s.chip.offered m p, rfl, rfl, rfl, rfl, rfl, rfl, ⟨_, Leads.of_eq rfl ((arbitrate_of_some true hd hf hp).trans (if_pos rfl)), ?_, fun j hj => ?_,
      (setCan_samePlant ..).trans (setCan_samePlant ..)⟩, ⟨_, Leads.of_eq rfl ((arbitrate_of_some false hd hf hp).trans (if_neg Bool.false_ne_true)), Chip.modCan_same ..,
      fun j hj => Chip.modCan_other _ _ hj, setCan_samePlant ..⟩⟩
    · rw [Chip.modCan_same, Chip.dropPend, Chip.modCan_same]
    · rw [Chip.modCan_other _ _ hj, Chip.dropPend, Chip.modCan_other _ _ hj]
  case txDone =>
    intro f hf hmain hheld
    obtain ⟨objs, hobj⟩ := objSent_same s.chip m f
    obtain ⟨meas, err, busOffs, level, hsent⟩ := frameSent_same s.chip m f
    rw [hsent] at hobj
    refine ⟨_, Leads.of_eq rfl (txDone_of_flight hf hmain hheld), ?_, ?_, ?_, ?_, objSent_seq, fun j hj => objSent_other _ f hj,
      objSent_samePlant ..⟩ <;> rw [hobj] <;> rfl
  case running =>
    intro hmain hst hheld herr
    refine ⟨fun f hfd => ?_, fun ty phase id tec recv hty => ?_, fun phase id tec recv => ?_, fun hm => ?_⟩
    · have hrow := canReceive_of_on hmain hst hheld herr hfd
      obtain ⟨hcount, hrecv⟩ := frameReceived_same s.chip m
      refine ⟨s.chip.frameReceived m, hcount, fun h => hrecv.trans (rxRelief_of_le _ h), fun h => ?_, fun i e he => ?_,
        fun he => ⟨fun hb => ?_, fun hb => ?_⟩, fun j hj => frameReceived_other _ hj, frameReceived_samePlant ..⟩
      · rw [hrecv]
        exact rxRelief_of_lt _ h
      · rw [he] at hrow
        exact Leads.of_eq rfl hrow
      · rw [he] at hrow
        exact Leads.of_eq rfl (hrow.trans (if_pos hb))
      · rw [he] at hrow
        exact Leads.of_eq rfl (hrow.trans (if_neg (by simp [hb])))
    · obtain ⟨err, busOffs, level, hsame⟩ := errorCounted_same s.chip m tec recv
      refine ⟨s.chip.errorCounted m tec recv, ?_, ?_, ?_, ?_,
        Leads.of_eq rfl (canErrorFrame_of_on hmain hst hheld herr phase id tec recv hty),
        (setCan_samePlant ..).trans (setCounts_samePlant ..)⟩ <;> rw [hsame]
    · exact Leads.of_eq rfl (canErrorFrame_of_overload hmain hst hheld herr phase id tec recv)
    · exact Leads.of_eq rfl (if_pos (by simp [hmain, hst, hm]))
  case recovered =>
    intro hmain hst hheld herr hb
    exact ⟨_, Leads.of_eq rfl (if_pos (by simp [hmain, hst, hheld, herr, hb])), Chip.setCan_same .., setCan_samePlant ..⟩
  case wake => exact fun hmain hst hm hb => Leads.of_eq rfl (if_pos (by simp [hmain, hst, hm, hb]))

end Sys2Proof
end

section
-- One proof after another: side by side, the stacks of their threads reach the check's limit of memory.
set_option Elab.async false
/-! The schedule of a time-triggered CAN controller, and its transmit objects (spec/12; R405–R415). -/

namespace Sys2Proof.Machine

theorem waitUntil_can (c : Chip) (t : Nat) : (c.waitUntil t).can = c.can := (Chip.waitUntil_frame t c).can rfl

theorem waitUntil_canOf (c : Chip) (t m : Nat) : (c.waitUntil t).canOf m = c.canOf m := (Chip.waitUntil_frame t c).canOf_eq rfl m

/-! ### Reference messages -/

theorem referenceRow_of_off {c : Chip} {m : Nat} (prio cycle : Nat) (h : c.ttRuns m = false ∨ 7 < prio) :
    c.referenceRow m prio cycle = c :=
  if_pos (by rcases h with h | h <;> simp [h])

theorem referenceDue_of_off {c : Chip} {m : Nat} (won : Bool)
    (h : c.ttRuns m = false ∨ bit (c.ttCfg m) 22 = false ∨ c.canSilent m = true) : c.referenceDue m won = c :=
  if_pos (by rcases h with h | h | h <;> simp [h])

section ReferenceDue

variable {c : Chip} {m : Nat} (hruns : c.ttRuns m = true) (hmaster : bit (c.ttCfg m) 22 = true) (hloud : c.canSilent m = false)

include hruns hmaster hloud

theorem referenceDue_of_free (hal : c.aligned m = false) (won : Bool) : c.referenceDue m won =
    if won then (c.waitUntil ((c.canOf m).refAt + c.refPeriod m)).sendReference m
        (if (c.canOf m).synced then ((c.canOf m).cycle + 1) % c.cycles m else 0)
    else (c.waitUntil ((c.canOf m).refAt + c.refPeriod m)).modCan m (fun s => { s with master := false }) :=
  (if_neg (by simp [hruns, hmaster, hloud])).trans (if_neg (by simp [hal]))

/-- The module at the instant that an aligned reference message is due. -/
def Chip.alignDue (m : Nat) (c : Chip) : Chip :=
  let c1 := c.waitUntil (c.clk.now + c.fabricWait (c.alignTarget m).1)
  if (c.alignTarget m).2 then c1.canErr m 5 else c1

theorem referenceDue_of_aligned (hal : c.aligned m = true) (won : Bool) : c.referenceDue m won =
    if won then ((c.alignDue m).modCan m (fun s => { s with
          alignAt := some (c.alignTarget m).1, alignSteps := c.fabric.steps })).sendReference m
        (((c.alignTarget m).1 - bits (c.attrN tyCan m 6) 16 16) / max 1 (c.alignP m) % c.cycles m)
    else (c.alignDue m).modCan m (fun s => { s with master := false, alignAt := none }) :=
  (if_neg (by simp [hruns, hmaster, hloud])).trans (if_pos hal)

end ReferenceDue

theorem alignDue_canOf (c : Chip) (m : Nat) : (c.alignDue m).canOf m = c.canOf m := by
  unfold Chip.alignDue
  dsimp only
  split
  · rw [canErr_canOf, waitUntil_canOf]
  · rw [waitUntil_canOf]

theorem alignDue_frame (c : Chip) (m : Nat) : Keeps (Field.routed ||| Field.clk ||| Field.rtc) c (c.alignDue m) := by
  have hwait := waitUntil_keeps (fs := Field.routed ||| Field.clk ||| Field.rtc) (.of rfl)
    (c.clk.now + c.fabricWait (c.alignTarget m).1) c (.refl c)
  exact iteInduction (motive := Keeps _ c) (fun _ => canErr_keeps (.of rfl) m 5 _ hwait) fun _ => hwait

theorem le_alignDue (c : Chip) (m : Nat) : c.clk.now ≤ (c.alignDue m).clk.now := by
  have hclk : (c.alignDue m).clk = (c.waitUntil (c.clk.now + c.fabricWait (c.alignTarget m).1)).clk := by
    unfold Chip.alignDue
    dsimp only
    split
    · exact (canErr_keeps (.refl _) m 5 _ (.refl _)).clk rfl
    · rfl
  rw [hclk]
  exact Nat.le_trans (Nat.le_add_right _ _) (c.le_waitUntil _)

/-- A controller whose cycle has begun with a reference message that it received. -/
def CanSt.cycleBegun (now cycle : Nat) (s : CanSt) : CanSt :=
  { s with
    received := s.received + 1, alignAt := none, refAt := now, cycle := cycle % 64, synced := true, master := false
    winTime := none, winEnd := none }

/-- The module whose controller has received a reference message, before an S1 that is over ends. -/
def Chip.cycleBegun (m cycle : Nat) (c : Chip) : Chip :=
  let c1 := (c.modCan m (fun s => { s with received := s.received + 1, alignAt := none })).modCan m (fun s => { s with
    refAt := c.clk.now, cycle := cycle % 64, synced := true, master := false, winTime := none, winEnd := none })
  if (c1.canOf m).level == 2 then c1.setLevel m 0 else c1

theorem cycleBegun_same (c : Chip) (m cycle : Nat) : (c.cycleBegun m cycle).canOf m =
    { (c.canOf m).cycleBegun c.clk.now cycle with level := if (c.canOf m).level = 2 then 0 else (c.canOf m).level } := by
  unfold Chip.cycleBegun
  simp only [Chip.modCan_same]
  by_cases h : (c.canOf m).level = 2
  · rw [if_pos (by simp [h]), if_pos h, setLevel_same, Chip.modCan_same, Chip.modCan_same]
    rfl
  · rw [if_neg (by simp [h]), if_neg h, Chip.modCan_same, Chip.modCan_same]
    rfl

theorem cycleBegun_other (c : Chip) {m j : Nat} (cycle : Nat) (hj : j ≠ m) : (c.cycleBegun m cycle).canOf j = c.canOf j := by
  unfold Chip.cycleBegun
  dsimp only
  split
  · rw [setLevel_other _ _ hj, Chip.modCan_other _ _ hj, Chip.modCan_other _ _ hj]
  · rw [Chip.modCan_other _ _ hj, Chip.modCan_other _ _ hj]

theorem cycleBegun_samePlant (c : Chip) (m cycle : Nat) : SamePlant c (c.cycleBegun m cycle) := by
  unfold Chip.cycleBegun
  extract_lets c1
  have h1 : SamePlant c c1 := (setCan_samePlant ..).trans (setCan_samePlant ..)
  exact iteInduction (motive := SamePlant c) (fun _ => h1.trans (.of_keeps (setLevel_keeps (.refl _) m 0 c1 (.refl c1)))) fun _ => h1

theorem referenceRow_of_runs {c : Chip} {m prio : Nat} (cycle : Nat) (hruns : c.ttRuns m = true) (hp : prio ≤ 7) :
    c.referenceRow m prio cycle = (c.cycleBegun m cycle).s1Expire m :=
  if_neg (by simp [hruns, hp])

/-! ### The reference that stays away, and the windows -/

theorem s2Row_of_off {c : Chip} {m : Nat} (h : c.ttRuns m = false ∨ (c.canOf m).level = 2) : c.s2Row m = c :=
  if_pos (by rcases h with h | h <;> simp [h])

theorem s2Row_of_runs {c : Chip} {m : Nat} (hruns : c.ttRuns m = true) (h : (c.canOf m).level ≠ 2) : c.s2Row m =
    (((c.waitUntil ((c.canOf m).refAt + c.refPeriod m * 3 / 2)).modCan m (fun s => { s with
      winTime := none, winEnd := none })).errorRecord m 6 0 0).setLevel m 2 :=
  if_neg (by simp [hruns, h])

theorem windowRow_of_off {c : Chip} {m : Nat} (idle : Bool)
    (h : c.ttRuns m = false ∨ (c.canOf m).synced = false ∨ (c.canOf m).level = 2 ∨ c.nextWindow m = none) :
    c.windowRow m idle = c := by
  unfold Chip.windowRow
  dsimp only
  rcases h with h | h | h | h
  · exact if_pos (by simp [h])
  · exact if_pos (by simp [h])
  · exact if_pos (by simp [h])
  · rw [h]
    exact ite_self _

theorem waitUntil_windows (c : Chip) (t m : Nat) : (c.waitUntil t).windows m = c.windows m := by
  unfold Chip.windows
  rw [(Chip.waitUntil_frame t c).attr_eq rfl]

section Windows

variable {c : Chip} {m t : Nat} (hruns : c.ttRuns m = true) (hs : (c.canOf m).synced = true) (hl : (c.canOf m).level ≠ 2)
  (hn : c.nextWindow m = some t)

include hruns hs hl hn

theorem windowRow_of_gap (idle : Bool)
    (h : (c.windows m).find? (fun w => winTime w == t && winIn w (c.canOf m).cycle) = none) : c.windowRow m idle =
      (c.waitUntil ((c.canOf m).refAt + t * c.bitTime m)).modCan m (fun s => { s with winTime := some t, winEnd := none }) := by
  unfold Chip.windowRow
  dsimp only
  rw [if_neg (by simp [hruns, hs, hl]), hn]
  dsimp only
  rw [waitUntil_windows, h]

theorem windowRow_of_window (idle : Bool) {w : List Byte}
    (h : (c.windows m).find? (fun w => winTime w == t && winIn w (c.canOf m).cycle) = some w) : c.windowRow m idle =
      let c1 := c.waitUntil ((c.canOf m).refAt + t * c.bitTime m)
      let c2 := c1.modCan m (fun s => { s with
        winTime := some t
        winEnd := if winType w == 2 then some ((c.canOf m).refAt + c1.windowEnd m (c.canOf m).cycle 128 t * c1.bitTime m)
          else if winType w == 3 then (c.canOf m).winEnd else none })
      if winType w == 1 then c2.exclusiveWindow m (winTxo w) idle else c2 := by
  unfold Chip.windowRow
  dsimp only
  rw [if_neg (by simp [hruns, hs, hl]), hn]
  dsimp only
  rw [waitUntil_windows, h]

end Windows

section ExclusiveWindow

variable {c : Chip} {m o : Nat} (hloud : c.canSilent m = false)

include hloud

theorem exclusiveWindow_of_object (hf : (c.canOf m).flight = none) (hk : c.txKind m o = 1 ∨ c.txKind m o = 2) :
    c.exclusiveWindow m o true = c.modCan m (fun s => { s with
      flight := some ⟨⟨s.nextNum, none, o, true, c.buildFrame m o, 1, c.stamp, c.clk.now⟩, true, []⟩ }) := by
  unfold Chip.exclusiveWindow
  dsimp only
  rcases hk with hk | hk <;> rw [if_neg (by simp [hk, hloud]), if_neg (by simp [hf]), hk] <;> rfl

theorem exclusiveWindow_of_oldest {p : CanPend} (hf : (c.canOf m).flight = none) (hk : c.txKind m o = 3)
    (hp : (c.canOf m).pend.find? (fun p => p.excl && p.obj == o && c.crossed p) = some p) :
    c.exclusiveWindow m o true = (c.dropPend m p.num).modCan m (fun s => { s with
      flight := some ⟨{ p with attempts := p.attempts + 1, stamp := c.stamp }, true, []⟩ }) := by
  unfold Chip.exclusiveWindow
  dsimp only
  rw [hp, if_neg (by simp [hk, hloud]), if_neg (by simp [hf]), hk]
  rfl

theorem exclusiveWindow_missed {idle : Bool} (hf : idle = false ∨ (c.canOf m).flight ≠ none)
    (hk : c.txKind m o = 1 ∨ c.txKind m o = 2) : c.exclusiveWindow m o idle = c.s1Cause m := by
  unfold Chip.exclusiveWindow
  dsimp only
  have hbusy : (!idle || (c.canOf m).flight.isSome) = true := by
    rcases hf with hf | hf
    · simp [hf]
    · simp [Option.isSome_iff_ne_none.mpr hf]
  rcases hk with hk | hk <;> rw [if_neg (by simp [hk, hloud]), if_pos hbusy, hk] <;> rfl

theorem exclusiveWindow_missed_oldest {idle : Bool} {p : CanPend} (hf : idle = false ∨ (c.canOf m).flight ≠ none)
    (hk : c.txKind m o = 3) (hp : (c.canOf m).pend.find? (fun p => p.excl && p.obj == o && c.crossed p) = some p) :
    c.exclusiveWindow m o idle = (((c.s1Cause m).dropPend m p.num).endSend p 2).refillCan m := by
  unfold Chip.exclusiveWindow
  dsimp only
  have hbusy : (!idle || (c.canOf m).flight.isSome) = true := by
    rcases hf with hf | hf
    · simp [hf]
    · simp [Option.isSome_iff_ne_none.mpr hf]
  rw [hp, if_neg (by simp [hk, hloud]), if_pos hbusy, hk]
  rfl

end ExclusiveWindow

/-! ### A frame whose window does not exist -/

theorem noWindowRow_of_none {c : Chip} {m ctx tag : Nat}
    (h : (c.canOf m).pend.find? (fun p => p.excl && p.cmd == some (ctx, tag)) = none) : c.noWindowRow m ctx tag = c := by
  unfold Chip.noWindowRow
  rw [h]

theorem noWindowRow_of_window {c : Chip} {m ctx tag : Nat} {p : CanPend}
    (h : (c.canOf m).pend.find? (fun p => p.excl && p.cmd == some (ctx, tag)) = some p)
    (hw : (c.windows m).any (fun w => winType w == 1 && winTxo w == p.obj) = true) : c.noWindowRow m ctx tag = c := by
  unfold Chip.noWindowRow
  rw [h]
  exact if_pos hw

theorem noWindowRow_of_no_window {c : Chip} {m ctx tag : Nat} {p : CanPend}
    (h : (c.canOf m).pend.find? (fun p => p.excl && p.cmd == some (ctx, tag)) = some p)
    (hw : (c.windows m).any (fun w => winType w == 1 && winTxo w == p.obj) = false) : c.noWindowRow m ctx tag =
      (((c.waitUntil (p.since + c.cycles m * c.refPeriod m)).dropPend m p.num).endSend p 4).refillCan m := by
  unfold Chip.noWindowRow
  rw [h]
  exact if_neg (by simp only [hw, Bool.false_eq_true, not_false_eq_true])

/-! ### Transmit objects -/

theorem objPending_samePlant (c : Chip) (m o : Nat) : SamePlant c (c.objPending m o) :=
  .of_keeps (objPending_keeps (.refl _) m o c (.refl c))

theorem objRoom_iff (c : Chip) (m o : Nat) : c.objRoom m o = true ↔
    (c.canOf m).pend.any (fun p => p.cmd.isNone && p.obj == o) = true ∨ (c.canOf m).pendCount < 32 := by
  unfold Chip.objRoom
  rw [Bool.or_eq_true, decide_eq_true_eq]

theorem objPending_of_full {c : Chip} {m o : Nat} (hp : (c.canOf m).pend.any (fun p => p.cmd.isNone && p.obj == o) = false)
    (h : 32 ≤ (c.canOf m).pendCount) : c.objPending m o = c := by
  have hroom : c.objRoom m o ≠ true := fun hr => by
    rcases (objRoom_iff c m o).mp hr with hr | hr
    · exact Bool.noConfusion (hp.symm.trans hr)
    · omega
  exact (if_neg (by rw [hp]; exact Bool.false_ne_true)).trans (if_pos (by simp [hroom]))

theorem objPending_of_room {c : Chip} {m o : Nat} (hp : (c.canOf m).pend.any (fun p => p.cmd.isNone && p.obj == o) = false)
    (h : (c.canOf m).pendCount < 32) : c.objPending m o =
      (c.setCanObj m o { c.canObj m o with lastPend := some c.clk.now, seen := c.objWrites m o }).modCan m (fun s => { s with
        nextNum := s.nextNum + 1
        pend := s.pend ++ [⟨s.nextNum, none, o, false, c.buildFrame m o, 0, 0, c.clk.now⟩] }) := by
  have hroom : c.objRoom m o = true := (objRoom_iff c m o).mpr (.inr h)
  exact (if_neg (by rw [hp]; exact Bool.false_ne_true)).trans (if_neg (by simp [hroom]))

theorem objPending_of_pending {c : Chip} {m o : Nat} (hp : (c.canOf m).pend.any (fun p => p.cmd.isNone && p.obj == o) = true) :
    c.objPending m o = c.setCanObj m o { c.canObj m o with lastPend := some c.clk.now, seen := c.objWrites m o } := if_pos hp

theorem setCanObj_same (c : Chip) (m o : Nat) (x : CanObjSt) : (c.setCanObj m o x).canObj m o = x := by
  unfold Chip.canObj Chip.setCanObj
  rw [Chip.modCan_same]
  exact Tbl.get_set_same ..

/-- Where there is room for it, an object that becomes pending notes when it did. -/
theorem objPending_lastPend {c : Chip} {m o : Nat} (h : c.objRoom m o = true) :
    ((c.objPending m o).canObj m o).lastPend = some c.clk.now := by
  cases hp : (c.canOf m).pend.any (fun p => p.cmd.isNone && p.obj == o) with
  | true => rw [objPending_of_pending hp, setCanObj_same]
  | false =>
    have hcount := ((objRoom_iff c m o).mp h).resolve_left (by simp [hp])
    have hobj := setCanObj_same c m o { c.canObj m o with lastPend := some c.clk.now, seen := c.objWrites m o }
    rw [objPending_of_room hp hcount]
    unfold Chip.canObj at hobj ⊢
    rw [Chip.modCan_same]
    exact congrArg CanObjSt.lastPend hobj

theorem txPeriodRow_of_off {c : Chip} {m o : Nat}
    (h : c.eventObj m o = false ∨ (c.canObj m o).periodDue = none ∨ fld (c.txObj m o) 10 2 = 0) : c.txPeriodRow m o = c := by
  unfold Chip.txPeriodRow
  dsimp only
  rcases h with h | h | h
  · split
    · exact if_pos (by simp [h])
    · rfl
  · rw [h]
  · split
    · exact if_pos (by simp [h])
    · rfl

theorem waitUntil_objRoom (c : Chip) (t m o : Nat) : (c.waitUntil t).objRoom m o = c.objRoom m o := by
  unfold Chip.objRoom
  rw [waitUntil_canOf]

theorem txPeriodRow_of_due {c : Chip} {m o d : Nat} (hobj : c.eventObj m o = true) (h : (c.canObj m o).periodDue = some d)
    (hp : fld (c.txObj m o) 10 2 ≠ 0) : c.txPeriodRow m o = if c.objRoom m o then
      ((c.waitUntil d).objPending m o).setCanObj m o
        { ((c.waitUntil d).objPending m o).canObj m o with periodDue := some (d + ms (fld (c.txObj m o) 10 2)) }
      else c.waitUntil d := by
  unfold Chip.txPeriodRow
  dsimp only
  rw [h]
  dsimp only
  rw [if_neg (by simp [hobj, hp]), waitUntil_objRoom]
  cases c.objRoom m o <;> rfl

theorem txChangeRow_of_off {c : Chip} {m o : Nat} (h : c.eventObj m o = false ∨ c.objWrites m o = (c.canObj m o).seen) :
    c.txChangeRow m o = c :=
  if_pos (by rcases h with h | h <;> simp [h])

/-- The module when the shortest interval of a transmit object is over. -/
def Chip.changeDue (m o : Nat) (c : Chip) : Chip :=
  match (c.canObj m o).lastPend with
  | some t => c.waitUntil (t + ms (fld (c.txObj m o) 8 2))
  | none => c

theorem changeDue_frame (c : Chip) (m o : Nat) : Keeps (Field.clk ||| Field.rtc) c (c.changeDue m o) := by
  unfold Chip.changeDue
  split
  · exact Chip.waitUntil_frame _ c
  · exact .refl c

theorem le_changeDue {c : Chip} {m o t : Nat} (h : (c.canObj m o).lastPend = some t) :
    t + ms (fld (c.txObj m o) 8 2) ≤ (c.changeDue m o).clk.now := by
  unfold Chip.changeDue
  rw [h]
  exact c.le_waitUntil _

theorem txChangeRow_of_changed {c : Chip} {m o : Nat} (hobj : c.eventObj m o = true)
    (h : c.objWrites m o ≠ (c.canObj m o).seen) : c.txChangeRow m o = (c.changeDue m o).objPending m o :=
  if_neg (by simp [hobj, h])

end Sys2Proof.Machine

namespace Sys2Proof
open Machine

/-- Settles O56: each row by its condition; an object that becomes pending by the room that there is. -/
theorem canKeepsItsSchedule : Obligations.CanKeepsItsSchedule := by
  refine ⟨fun s m => ⟨?off, ?prio, ?noMaster, ?silent, ?noWindow, ?noFrame, ?frameWindow, ?noPeriod, ?noChange⟩,
    fun c m o hloud => ⟨exclusiveWindow_of_object hloud, fun p => exclusiveWindow_of_oldest hloud,
      fun idle => exclusiveWindow_missed hloud, fun idle p => exclusiveWindow_missed_oldest hloud⟩,
    fun s m => ⟨fun hruns => ⟨?message, ?free, ?aligned, ?away, ?window⟩, ?frame, ?object⟩⟩
  case off =>
    exact fun h => ⟨fun prio cycle => Leads.of_eq rfl (referenceRow_of_off prio cycle (.inl h)),
      fun won => Leads.of_eq rfl (referenceDue_of_off won (.inl h)), Leads.of_eq rfl (s2Row_of_off (.inl h)),
      fun idle => Leads.of_eq rfl (windowRow_of_off idle (.inl h))⟩
  case prio => exact fun prio cycle h => Leads.of_eq rfl (referenceRow_of_off prio cycle (.inr h))
  case noMaster => exact fun h won => Leads.of_eq rfl (referenceDue_of_off won (.inr h))
  case silent => exact fun h => Leads.of_eq rfl (s2Row_of_off (.inr h))
  case noWindow => exact fun h idle => Leads.of_eq rfl (windowRow_of_off idle (.inr h))
  case noFrame => exact fun ctx tag h => Leads.of_eq rfl (noWindowRow_of_none h)
  case frameWindow => exact fun ctx tag p h hw => Leads.of_eq rfl (noWindowRow_of_window h hw)
  case noPeriod => exact fun o h => Leads.of_eq rfl (txPeriodRow_of_off h)
  case noChange => exact fun o h => Leads.of_eq rfl (txChangeRow_of_off h)
  case message =>
    intro prio cycle hp
    have hsame := cycleBegun_same s.chip m cycle
    refine ⟨s.chip.cycleBegun m cycle, Leads.of_eq rfl (referenceRow_of_runs cycle hruns hp), ?_, ?_, ?_, ?_, ?_, ?_, fun hl => ?_,
      fun hl => ?_, fun j hj => cycleBegun_other _ cycle hj, cycleBegun_samePlant ..⟩ <;> rw [hsame]
    · rfl
    · rfl
    · rfl
    · rfl
    · rfl
    · rfl
    · exact if_pos hl
    · exact if_neg hl
  case free =>
    intro hmaster hloud hal
    have hrow := referenceDue_of_free hruns hmaster hloud hal
    obtain ⟨due, hdue⟩ : ∃ due, (s.chip.canOf m).refAt + s.chip.refPeriod m = due := ⟨_, rfl⟩
    rw [hdue] at hrow ⊢
    exact ⟨s.chip.waitUntil due, s.chip.le_waitUntil due, waitUntil_can .., waitUntil_samePlant ..,
      Leads.of_eq rfl ((hrow true).trans (if_pos rfl)), Leads.of_eq rfl ((hrow false).trans (if_neg Bool.false_ne_true))⟩
  case aligned =>
    intro hmaster hloud hal
    have hrow := referenceDue_of_aligned hruns hmaster hloud hal
    exact ⟨s.chip.alignDue m, _, rfl, .of_keeps (alignDue_frame ..), le_alignDue .., alignDue_canOf ..,
      Leads.of_eq rfl ((hrow true).trans (if_pos rfl)), Leads.of_eq rfl ((hrow false).trans (if_neg Bool.false_ne_true))⟩
  case away =>
    exact fun hl => ⟨_, s.chip.le_waitUntil _, waitUntil_can .., Leads.of_eq rfl (s2Row_of_runs hruns hl), waitUntil_samePlant ..⟩
  case window =>
    intro t idle hs hl hn
    refine ⟨_, s.chip.le_waitUntil _, waitUntil_can .., waitUntil_samePlant .., fun h => ?_, fun w h => ?_⟩
    · exact Leads.of_eq rfl (windowRow_of_gap hruns hs hl hn idle h)
    · have hrow := windowRow_of_window hruns hs hl hn idle h
      refine ⟨fun hw => ?_, fun hw => ?_, fun hw => ?_, fun hw => ?_⟩
      · rw [hw] at hrow
        exact Leads.of_eq rfl hrow
      · rw [hw] at hrow
        exact Leads.of_eq rfl hrow
      · dsimp only at hrow
        rw [if_neg (by simp; omega), if_neg (by simp; omega), if_neg (by simp; omega)] at hrow
        exact Leads.of_eq rfl hrow
      · rw [hw] at hrow
        exact Leads.of_eq rfl hrow
  case frame =>
    exact fun ctx tag p h hw => ⟨_, Leads.of_eq rfl (noWindowRow_of_no_window h hw), s.chip.le_waitUntil _, waitUntil_can ..,
      waitUntil_samePlant ..⟩
  case object =>
    refine fun o hobj => ⟨fun d hd hp => ⟨fun hroom => ?_, fun hroom => ?_⟩, fun hch => ?_, fun c => ⟨fun hp hn => ?_, ?_⟩⟩
    · have hlast := objPending_lastPend ((waitUntil_objRoom s.chip d m o).trans hroom)
      refine ⟨_, Leads.of_eq rfl ((txPeriodRow_of_due hobj hd hp).trans (if_pos hroom)), ?_, ?_, ?_,
        ((waitUntil_samePlant ..).trans (objPending_samePlant ..)).trans (setCan_samePlant ..)⟩
      · rw [show Chip.clk (Chip.setCanObj ..) = _ from (objPending_keeps (.refl _) m o _ (.refl (s.chip.waitUntil d))).clk rfl]
        exact s.chip.le_waitUntil d
      · rw [setCanObj_same]
      · rw [setCanObj_same]
        exact hlast.trans (congrArg (fun k : Clocks => some k.now)
          ((objPending_keeps (.refl _) m o _ (.refl (s.chip.waitUntil d))).clk rfl).symm)
    · exact ⟨_, Leads.of_eq rfl ((txPeriodRow_of_due hobj hd hp).trans (if_neg (by simp [hroom]))), s.chip.le_waitUntil d,
        waitUntil_can .., waitUntil_samePlant ..⟩
    · exact ⟨s.chip.changeDue m o, Leads.of_eq rfl (txChangeRow_of_changed hobj hch), (changeDue_frame ..).can rfl,
        .of_keeps (changeDue_frame ..), fun t ht => le_changeDue ht⟩
    · rw [objPending_of_room hp hn, Chip.modCan_same, Chip.setCanObj, Chip.modCan_same]
    · exact objPending_of_full

end Sys2Proof
end

section
-- One proof after another: side by side, the stacks of their threads reach the check's limit of memory.
set_option Elab.async false
/-! Frame boundaries and rails of a panel (spec/13; R416–R425). -/

namespace Sys2Proof.Machine

theorem panelFault_panel (c : Chip) (d reason rails j : Nat) : (c.panelFault d reason rails).panel j = c.panel j := Chip.fire_panel ..

theorem waitUntil_panel (c : Chip) (t j : Nat) : (c.waitUntil t).panel j = c.panel j := (Chip.waitUntil_frame t c).panel_eq rfl j

/-! ### Frames -/

theorem foldl_panelFault_panel {α : Type} (d reason rails j : Nat) : ∀ (l : List α) (c : Chip),
    (l.foldl (fun c _ => c.panelFault d reason rails) c).panel j = c.panel j
  | [], _ => rfl
  | _ :: l, c => (foldl_panelFault_panel d reason rails j l _).trans (panelFault_panel c d reason rails j)

theorem driveFrame_pixels (c : Chip) (d : Nat) : ((c.driveFrame d).panel d).pixels =
    ((c.panel d).pixels.map (fun e => (e.1, (advancePixel c.clk.now (c.wave d) e.2).1))).filter (fun e => e.2 != dPixel e.1) := by
  unfold Chip.driveFrame
  dsimp only
  rw [foldl_panelFault_panel, Chip.setPanel_same]
  dsimp only
  rw [List.map_map]
  rfl

theorem advancePixel_fresh {now at_ : Nat} {t : List Byte} {p : Pixel} {x : Transition} (hp : p.trans = some x)
    (hx : x.fresh = some at_) :
    advancePixel now t p = ({ p with trans := some { x with fresh := if at_ + 2 ≤ now then none else some at_ } }, false) := by
  unfold advancePixel
  rw [hp]
  dsimp only
  rw [hx]

theorem frameBoundary_of_off {c : Chip} {d : Nat} (late : Bool)
    (h : c.power.main.up = false ∨ (c.panel d).rails ≠ .up ∨ c.islandHeld = true) : c.frameBoundary d late = c :=
  if_pos (by rcases h with h | h | h <;> simp [h])

/-- The module at a panel's frame boundary, the next one set. -/
def Chip.frameDue (d : Nat) (c : Chip) : Chip :=
  let c1 := c.waitUntil (c.panel d).frameAt
  c1.modPanel d (fun s => { s with frameAt := c1.clk.now + c.framePeriod d })

theorem frameDue_panel (c : Chip) (d : Nat) :
    (c.frameDue d).panel d = { c.panel d with frameAt := (c.frameDue d).clk.now + c.framePeriod d } := by
  unfold Chip.frameDue
  dsimp only
  rw [Chip.modPanel_same, waitUntil_panel]
  rfl

theorem frameDue_panel_other (c : Chip) {d j : Nat} (hj : j ≠ d) : (c.frameDue d).panel j = c.panel j := by
  unfold Chip.frameDue
  dsimp only
  rw [Chip.modPanel_other _ _ hj, waitUntil_panel]

theorem frameDue_slots (c : Chip) (d : Nat) : (c.frameDue d).slots = c.slots := (Chip.waitUntil_frame _ c).slots rfl

theorem le_frameDue (c : Chip) (d : Nat) : (c.panel d).frameAt ≤ (c.frameDue d).clk.now := c.le_waitUntil _

/-- The module whose panel has driven a frame, or was late for it. -/
def Chip.frameDriven (d : Nat) (late : Bool) (c : Chip) : Chip :=
  if late = true then (c.frameDue d).panelFault d 7 0 else (c.frameDue d).driveFrame d

/-- The module at the end of a frame boundary that takes nothing down: VCOM in force, and what waits begun. -/
def Chip.frameEnd (d : Nat) (c : Chip) : Chip :=
  let e := if c.anyTransition d = true then c else c.modPanel d (fun x => { x with vcom := c.attrN tyPanel d 4 })
  if e.loadHolds d then e else ((e.judgePending d).startUpdates d).endUpdates d

theorem frameBoundary_of_up {c : Chip} {d : Nat} (late : Bool) (hmain : c.power.main.up = true) (hup : (c.panel d).rails = .up)
    (hheld : c.islandHeld = false) : c.frameBoundary d late = match (c.panel d).down with
      | some force => if force then ((c.frameDriven d late).interrupt d 4).railsFall d else (c.frameDriven d late).railsFall d
      | none => (c.frameDriven d late).frameEnd d :=
  if_neg (by simp [hmain, hup, hheld])

/-! ### Rails -/

theorem railStep_of_rest {c : Chip} {d : Nat} (h : (c.panel d).rails = .off ∨ (c.panel d).rails = .up) : c.railStep d = c := by
  unfold Chip.railStep
  dsimp only
  rcases h with h | h <;> rw [h]

theorem advance_panel (c : Chip) (t j : Nat) : (c.advance t).panel j = c.panel j := rfl

theorem railStep_of_rising {c : Chip} {d : Nat} (hr : (c.panel d).rails = .rising) (h : (c.panel d).step < 4) :
    c.railStep d = (c.advance (c.railDelay d (c.panel d).step)).modPanel d (fun s => { s with
      step := s.step + 1, on := max s.on (s.step + 2) }) := by
  unfold Chip.railStep
  dsimp only
  rw [hr]
  exact if_pos h

theorem railStep_of_falling {c : Chip} {d : Nat} (hr : (c.panel d).rails = .falling) (h : (c.panel d).step < 4) :
    c.railStep d = (c.advance (c.railDelay d (c.panel d).step)).modPanel d (fun s => { s with
      step := s.step + 1, on := min s.on (3 - s.step) }) := by
  unfold Chip.railStep
  dsimp only
  rw [hr]
  exact if_pos h

theorem railStep_of_risen {c : Chip} {d : Nat} (hr : (c.panel d).rails = .rising) (h : 4 ≤ (c.panel d).step) :
    c.railStep d = ((c.setPanel d { c.panel d with
      rails := .up, fault := false, step := 0, frameAt := c.clk.now, idleFrom := c.clk.now }).fire (96 + 2 * d)
        (2 + 65536 * c.powerTag d)).endPower d true stOK := by
  unfold Chip.railStep
  dsimp only
  rw [hr]
  exact if_neg (Nat.not_lt.mpr h)

theorem railStep_of_fallen {c : Chip} {d : Nat} (hr : (c.panel d).rails = .falling) (h : 4 ≤ (c.panel d).step) :
    c.railStep d = (if (c.panel d).fault || !c.power.main.up then c.setPanel d { c.panel d with rails := .off, step := 0, on := 0 }
      else (c.setPanel d { c.panel d with rails := .off, step := 0, on := 0 }).fire (96 + 2 * d)
        (3 + 65536 * c.powerTag d)).endPower d false stOK := by
  unfold Chip.railStep
  dsimp only
  rw [hr]
  exact if_neg (Nat.not_lt.mpr h)

theorem railFault_of_other {c : Chip} {d : Nat} (notGood : Nat) {rise : Bool}
    (h : (c.panel d).rails ≠ if rise then .rising else .up) : c.railFault d notGood rise = c := by
  unfold Chip.railFault
  dsimp only
  refine if_pos ?_
  cases rise <;> simpa using h

/-- The module with the rails of a faulted panel taken down. -/
def Chip.faultFall (d : Nat) (c : Chip) : Chip := (c.setPanel d { c.panel d with fault := true }).railsFall d

/-- A panel whose rails were on or rising falls from the first step. -/
theorem faultFall_panel {c : Chip} {d : Nat} (hoff : (c.panel d).rails ≠ .off) (hfall : (c.panel d).rails ≠ .falling) :
    (c.faultFall d).panel d = { c.panel d with
      fault := true, rails := .falling, step := 0, on := min (c.panel d).on 4, down := none } := by
  unfold Chip.faultFall Chip.railsFall
  simp only [Chip.setPanel_same]
  rw [if_neg (by simp [hoff]), if_neg (by simp [hfall]), Chip.setPanel_same]

theorem faultFall_panel_other (c : Chip) {d j : Nat} (hj : j ≠ d) : (c.faultFall d).panel j = c.panel j := by
  unfold Chip.faultFall Chip.railsFall
  dsimp only
  split <;> rw [Chip.setPanel_other _ _ _ _ hj, Chip.setPanel_other _ _ _ _ hj]

theorem railFault_of_rails {c : Chip} {d : Nat} (notGood : Nat) {rise : Bool}
    (h : (c.panel d).rails = if rise then .rising else .up) : c.railFault d notGood rise =
      (((c.faultFall d).interrupt d 1).panelFault d (if rise then 1 else 0) (notGood % 32)).endPower d true stPowerLimit := by
  unfold Chip.railFault
  dsimp only
  refine if_neg ?_
  cases rise <;> simpa using h

theorem railIdle_of_off {c : Chip} {d : Nat} (h : c.power.main.up = false ∨ (c.panel d).rails ≠ .up ∨ bit (c.panelCfg d) 1 = false ∨
    c.attrN tyPanel d 6 = 0 ∨ c.anyTransition d = true ∨ (c.panel d).updates ≠ [] ∨ (c.panel d).down ≠ none) : c.railIdle d = c := by
  unfold Chip.railIdle
  dsimp only
  refine if_pos ?_
  rcases h with h | h | h | h | h | h | h
  · simp [h]
  · simp [h]
  · simp [h]
  · simp [h]
  · simp [h]
  · simp [h]
  · simp [Option.isSome_iff_ne_none.mpr h]

theorem railIdle_of_idle {c : Chip} {d : Nat} (hmain : c.power.main.up = true) (hup : (c.panel d).rails = .up)
    (hcfg : bit (c.panelCfg d) 1 = true) (ht : c.attrN tyPanel d 6 ≠ 0) (htr : c.anyTransition d = false)
    (hu : (c.panel d).updates = []) (hdown : (c.panel d).down = none) : c.railIdle d =
      (c.waitUntil ((c.panel d).idleFrom + ms (c.attrN tyPanel d 6))).modPanel d (fun s => { s with down := some false }) :=
  if_neg (by simp [hmain, hup, hcfg, ht, htr, hu, hdown])

end Sys2Proof.Machine

namespace Sys2Proof
open Machine

/-- Settles O57: the frame boundary by what waits at it, and the rails by their phase and step. -/
theorem panelsDriveAndPower : Obligations.PanelsDriveAndPower := by
  refine ⟨driveFrame_pixels, fun now t p x at_ => advancePixel_fresh, fun s d => ⟨?noFrame, ?rest, ?noFault, ?noRise, ?noIdle⟩,
    fun s d => ⟨?frame, ?step, fun hstep => ⟨?risen, ?fallen⟩, ?fault, ?idle⟩⟩
  case noFrame => exact fun late h => Leads.of_eq rfl (frameBoundary_of_off late h)
  case rest => exact fun h => Leads.of_eq rfl (railStep_of_rest h)
  case noFault => exact fun notGood h => Leads.of_eq rfl (railFault_of_other notGood h)
  case noRise => exact fun notGood h => Leads.of_eq rfl (railFault_of_other notGood h)
  case noIdle => exact fun h => Leads.of_eq rfl (railIdle_of_off h)
  case frame =>
    intro late hmain hup hheld
    have hrow := frameBoundary_of_up late hmain hup hheld
    refine ⟨s.chip.frameDue d, s.chip.frameDriven d late, le_frameDue .., frameDue_panel .., fun j hj => frameDue_panel_other _ hj,
      frameDue_slots .., rfl, fun h => ?_, fun h => ?_, fun h => ?_⟩
    · rw [h] at hrow
      exact Leads.of_eq rfl hrow
    · rw [h] at hrow
      exact Leads.of_eq rfl hrow
    · rw [h] at hrow
      exact ⟨_, rfl, fun hl => Leads.of_eq rfl (hrow.trans (if_pos hl)),
        fun hl => Leads.of_eq rfl (hrow.trans (if_neg (by simp only [hl, Bool.false_eq_true, not_false_eq_true])))⟩
  case step =>
    intro hstep hr
    rcases hr with hr | hr
    · refine ⟨_, Leads.of_eq rfl (railStep_of_rising hr hstep), clkAdvance_now .., ?_, fun j hj => Chip.modPanel_other _ _ hj, rfl⟩
      rw [Chip.modPanel_same, advance_panel, if_pos hr]
    · refine ⟨_, Leads.of_eq rfl (railStep_of_falling hr hstep), clkAdvance_now .., ?_, fun j hj => Chip.modPanel_other _ _ hj, rfl⟩
      rw [Chip.modPanel_same, advance_panel, if_neg (by simp [hr])]
  case risen =>
    intro hr
    refine ⟨_, Leads.of_eq rfl (railStep_of_risen hr hstep), ?_, ?_, ?_, fun j hj => Chip.setPanel_other _ _ _ _ hj⟩ <;>
      rw [Chip.setPanel_same]
  case fallen =>
    intro hr
    have hrow := railStep_of_fallen hr hstep
    refine ⟨s.chip.setPanel d { s.chip.panel d with rails := .off, step := 0, on := 0 }, ?_, ?_,
      fun j hj => Chip.setPanel_other _ _ _ _ hj, fun h => ?_, fun hf hmain => ?_⟩
    · rw [Chip.setPanel_same]
    · rw [Chip.setPanel_same]
    · rw [if_pos (by rcases h with h | h <;> simp [h])] at hrow
      exact Leads.of_eq rfl hrow
    · rw [if_neg (by simp [hf, hmain])] at hrow
      exact Leads.of_eq rfl hrow
  case fault =>
    intro notGood
    by_cases hr : (s.chip.panel d).rails = .up ∨ (s.chip.panel d).rails = .rising
    · have hpanel : (s.chip.faultFall d).panel d = _ :=
        faultFall_panel (by rcases hr with hr | hr <;> simp [hr]) (by rcases hr with hr | hr <;> simp [hr])
      refine ⟨s.chip.faultFall d, ?_, ?_, ?_, ?_, ?_, fun j hj => faultFall_panel_other _ hj,
        fun hr => Leads.of_eq rfl (railFault_of_rails notGood hr), fun hr => Leads.of_eq rfl (railFault_of_rails notGood hr)⟩ <;>
        rw [hpanel]
      exact Nat.min_le_right ..
    · obtain ⟨hup, hrise⟩ := not_or.mp hr
      refine ⟨s.chip.setPanel d { s.chip.panel d with fault := true, rails := .falling, step := 0, on := 0, down := none },
        ?_, ?_, ?_, ?_, ?_, fun j hj => Chip.setPanel_other _ _ _ _ hj, fun h => absurd h hup, fun h => absurd h hrise⟩ <;>
        rw [Chip.setPanel_same]
      exact Nat.zero_le _
  case idle =>
    intro hmain hup hcfg ht htr hu hdown
    refine ⟨_, Leads.of_eq rfl (railIdle_of_idle hmain hup hcfg ht htr hu hdown), s.chip.le_waitUntil _, ?_, fun j hj => ?_,
      (Chip.waitUntil_frame _ s.chip).slots rfl⟩
    · rw [Chip.modPanel_same, waitUntil_panel]
    · rw [Chip.modPanel_other _ _ hj, waitUntil_panel]

end Sys2Proof
end

section
-- One proof after another: side by side, the stacks of their threads reach the check's limit of memory.
set_option Elab.async false
/-! What a panel shows: snapshots, bands, sweeps and the compositor (spec/13; R426–R440). -/

namespace Sys2Proof.Machine

/-! ### The temperature band -/

/-- The module whose panel's band has been judged, before a loss of it is told. -/
def Chip.bandJudged (d : Nat) (c : Chip) : Chip :=
  c.setPanel d { c.panel d with band := bandOf (c.wave d) (c.panelTemp d).1 (c.panel d).band, tempFb := (c.panelTemp d).2 }

theorem evalBand_eq (c : Chip) (d : Nat) : c.evalBand d =
    if (c.panel d).band.isSome && (bandOf (c.wave d) (c.panelTemp d).1 (c.panel d).band).isNone
    then (c.bandJudged d).panelFault d 4 0 else c.bandJudged d := rfl

theorem evalBand_panel (c : Chip) (d : Nat) : (c.evalBand d).panel d =
    { c.panel d with band := bandOf (c.wave d) (c.panelTemp d).1 (c.panel d).band, tempFb := (c.panelTemp d).2 } := by
  rw [evalBand_eq]
  split
  · exact (panelFault_panel ..).trans (Chip.setPanel_same ..)
  · exact Chip.setPanel_same ..

theorem bandRow_of_off {c : Chip} {d : Nat} (h : c.power.main.up = false ∨ panelCount c.fuses.variant ≤ d) : c.bandRow d = c :=
  if_pos (by rcases h with h | h <;> simp [h])

/-- The module when a panel's band is due to be judged. -/
def Chip.bandDue (d : Nat) (c : Chip) : Chip :=
  (c.waitUntil (c.panel d).bandAt).modPanel d (fun s => { s with bandAt := (c.waitUntil (c.panel d).bandAt).clk.now + sec 1 })

theorem bandDue_panel (c : Chip) (d : Nat) :
    (c.bandDue d).panel d = { c.panel d with bandAt := (c.waitUntil (c.panel d).bandAt).clk.now + sec 1 } := by
  unfold Chip.bandDue
  rw [Chip.modPanel_same, waitUntil_panel]

theorem bandDue_panel_other (c : Chip) {d j : Nat} (hj : j ≠ d) : (c.bandDue d).panel j = c.panel j := by
  unfold Chip.bandDue
  rw [Chip.modPanel_other _ _ hj, waitUntil_panel]

theorem bandRow_of_panel {c : Chip} {d : Nat} (hmain : c.power.main.up = true) (hd : d < panelCount c.fuses.variant) :
    c.bandRow d = (c.bandDue d).evalBand d :=
  if_neg (by simp [hmain, hd])

/-! ### Snapshots -/

theorem snapshot_of_off {c : Chip} {d : Nat} (h : c.power.main.up = false ∨ panelCount c.fuses.variant ≤ d) : c.snapshot d = c :=
  if_pos (by rcases h with h | h <;> simp [h])

theorem snapshot_of_none {c : Chip} {d : Nat} (hmain : c.power.main.up = true) (hd : d < panelCount c.fuses.variant)
    (h : (c.panel d).updates.find? (fun u => !u.taken) = none) :
    c.snapshot d = c.takeImages d (c.queue (56 + 2 * d)).tail (c.queue (56 + 2 * d)).depth := by
  unfold Chip.snapshot
  rw [if_neg (by simp [hmain, hd]), h]

/-- The module whose panel has the targets of an update: those of the images, or the one it clears to. -/
def Chip.targetsTaken (d : Nat) (u : PlateUpdate) (c : Chip) : Chip :=
  match u.clear with
  | some l => (c.takeImages d u.tail (c.queue (56 + 2 * d)).depth).modPanel d (fun s =>
      (rectKeys u.x u.y u.w u.h).foldl (fun s k => s.setTarget k l) s)
  | none => c.takeImages d u.tail (c.queue (56 + 2 * d)).depth

/-- The module whose panel has taken the snapshot of an update. -/
def Chip.snapshotTaken (d : Nat) (u : PlateUpdate) (c : Chip) : Chip :=
  c.setPanel d ((c.panel d).modUpdate u.num (fun x =>
    { x with taken := true, takenAt := c.clk.now, todo := (rectKeys u.x u.y u.w u.h).map (fun k => (k, (c.panel d).target k)) }))

theorem snapshot_of_update {c : Chip} {d : Nat} {u : PlateUpdate} (hmain : c.power.main.up = true) (hd : d < panelCount c.fuses.variant)
    (h : (c.panel d).updates.find? (fun u => !u.taken) = some u) : c.snapshot d = match u.source with
      | .host ctx tag => match ((c.targetsTaken d u).snapshotTaken d u).findCmd ctx tag with
        | some k => ((c.targetsTaken d u).snapshotTaken d u).accept k
        | none => (c.targetsTaken d u).snapshotTaken d u
      | _ => (c.targetsTaken d u).snapshotTaken d u := by
  unfold Chip.snapshot
  rw [if_neg (by simp [hmain, hd]), h]
  rfl

/-! ### The sweep -/

theorem sweepTile_of_off {c : Chip} {d : Nat} (h : c.power.main.up = false ∨ (c.panel d).rails ≠ .up ∨
    bits (c.attrN tyPanel d 10) 0 8 = 0 ∨ c.hostUpdates d ≠ 0 ∨ c.islandHeld = true ∨ c.loadHolds d = true ∨ (c.panel d).band = none) :
    c.sweepTile d = c := by
  unfold Chip.sweepTile
  dsimp only
  rcases h with h | h | h | h | h | h | h
  · exact if_pos (by simp [h])
  · exact if_pos (by simp [h])
  · exact if_pos (by simp [h])
  · exact if_pos (by simp [h])
  · exact if_pos (by simp [h])
  · exact if_pos (by simp [h])
  · rw [h]
    exact ite_self _

/-- What the sweep does to one pixel. -/
def sweepPixel (d sw band : Nat) (c : Chip) (k : Nat) : Chip :=
  let p := (c.panel d).pixel k
  if p.busy || p.pending.isSome || p.ledger.natAbs < bits sw 8 7 then c
  else match sweepPick (c.wave d) (bits sw 16 2) band p with
    | some (seq, l) => c.startPixel d k seq l true (some c.clk.now)
    | none => c

section SweepPixel

variable {d sw band : Nat} {c : Chip} {k : Nat}

theorem sweepPixel_of_busy (h : ((c.panel d).pixel k).busy = true ∨ ((c.panel d).pixel k).pending.isSome = true) :
    sweepPixel d sw band c k = c :=
  if_pos (by rcases h with h | h <;> simp [h])

theorem sweepPixel_of_low (h : ((c.panel d).pixel k).ledger.natAbs < bits sw 8 7) : sweepPixel d sw band c k = c :=
  if_pos (by simp [h])

theorem sweepPixel_of_pick {seq l : Nat} (hbusy : ((c.panel d).pixel k).busy = false) (hpend : ((c.panel d).pixel k).pending = none)
    (hled : bits sw 8 7 ≤ ((c.panel d).pixel k).ledger.natAbs)
    (h : sweepPick (c.wave d) (bits sw 16 2) band ((c.panel d).pixel k) = some (seq, l)) :
    sweepPixel d sw band c k = c.startPixel d k seq l true (some c.clk.now) := by
  unfold sweepPixel
  dsimp only
  rw [if_neg (by simp [hbusy, hpend, hled]), h]

theorem sweepPixel_of_no_pick (h : sweepPick (c.wave d) (bits sw 16 2) band ((c.panel d).pixel k) = none) :
    sweepPixel d sw band c k = c := by
  unfold sweepPixel
  dsimp only
  rw [h]
  exact ite_self _

end SweepPixel

/-- The module at the sweep's next tile, the one after it set. -/
def Chip.tileDue (d : Nat) (c : Chip) : Chip :=
  (c.waitUntil (c.panel d).tileAt).setPanel d { c.panel d with
    tile := ((c.panel d).tile + 1) % ((c.hActive d + 15) / 16 * ((c.vActive d + 15) / 16))
    tileAt := (c.waitUntil (c.panel d).tileAt).clk.now + sec 60 / bits (c.attrN tyPanel d 10) 0 8 }

theorem tileDue_panel (c : Chip) (d : Nat) : (c.tileDue d).panel d = { c.panel d with
    tile := ((c.panel d).tile + 1) % ((c.hActive d + 15) / 16 * ((c.vActive d + 15) / 16))
    tileAt := (c.waitUntil (c.panel d).tileAt).clk.now + sec 60 / bits (c.attrN tyPanel d 10) 0 8 } := Chip.setPanel_same ..

theorem tileDue_panel_other (c : Chip) {d j : Nat} (hj : j ≠ d) : (c.tileDue d).panel j = c.panel j :=
  (Chip.setPanel_other _ _ _ _ hj).trans (waitUntil_panel ..)

/-- The module whose sweep has run over the tile at a place, where the governor lets it. -/
def Chip.sweepRun (d band x y : Nat) (c : Chip) : Chip :=
  if !(c.tileDue d).admits d x y (min 16 (c.hActive d - x)) (min 16 (c.vActive d - y)) then c.tileDue d
  else (rectKeys x y (min 16 (c.hActive d - x)) (min 16 (c.vActive d - y))).foldl (sweepPixel d (c.attrN tyPanel d 10) band)
    (c.tileDue d)

theorem sweepTile_of_due {c : Chip} {d band x y : Nat} (hmain : c.power.main.up = true) (hup : (c.panel d).rails = .up)
    (hrate : bits (c.attrN tyPanel d 10) 0 8 ≠ 0) (hhost : c.hostUpdates d = 0) (hheld : c.islandHeld = false)
    (hload : c.loadHolds d = false) (hband : (c.panel d).band = some band)
    (hx : x = 16 * ((c.panel d).tile % ((c.hActive d + 15) / 16)))
    (hy : y = 16 * ((c.panel d).tile / ((c.hActive d + 15) / 16) % ((c.vActive d + 15) / 16))) :
    c.sweepTile d = c.sweepRun d band x y := by
  subst hx hy
  have hrow : c.sweepTile d = match (c.panel d).band with
      | none => c
      | some band => c.sweepRun d band (16 * ((c.panel d).tile % ((c.hActive d + 15) / 16)))
          (16 * ((c.panel d).tile / ((c.hActive d + 15) / 16) % ((c.vActive d + 15) / 16))) :=
    if_neg (by simp [hmain, hup, hrate, hhost, hheld, hload])
  rw [hrow, hband]

/-! ### The compositor -/

theorem compositorRow_of_off {c : Chip} (h : c.power.main.up = false ∨ panelCount c.fuses.variant = 0) : c.compositorRow = c :=
  if_pos (by rcases h with h | h <;> simp [h])

/-- The module when the compositor reads its fields, the next reading set. -/
def Chip.readDue (c : Chip) : Chip :=
  { c.waitUntil c.plate.readAt with
    plate := { (c.waitUntil c.plate.readAt).plate with readAt := (c.waitUntil c.plate.readAt).clk.now + sec 1 } }

theorem compositorRow_of_panels {c : Chip} (hmain : c.power.main.up = true) (h : panelCount c.fuses.variant ≠ 0) :
    c.compositorRow = (List.range 64).foldl (fun c j => c.readField j) c.readDue :=
  if_neg (by simp [hmain, h])

theorem renderDueRow_of_off {c : Chip} {j : Nat} (h : c.power.main.up = false ∨ (c.field j).due = false ∨ c.fieldOn j = false ∨
    (c.panel (fieldPanel (c.fieldRec j))).fault = true) : c.renderDueRow j = c :=
  if_pos (by rcases h with h | h | h | h <;> simp [h])

theorem renderDueRow_of_due {c : Chip} {j : Nat} (hmain : c.power.main.up = true) (hdue : (c.field j).due = true)
    (hon : c.fieldOn j = true) (hf : (c.panel (fieldPanel (c.fieldRec j))).fault = false) : c.renderDueRow j =
      if ((c.waitUntil (c.renderFrom j)).field j).drawn == some ((c.waitUntil (c.renderFrom j)).fieldText j)
      then (c.waitUntil (c.renderFrom j)).setField j { (c.waitUntil (c.renderFrom j)).field j with due := false }
      else (c.waitUntil (c.renderFrom j)).renderOrHold j :=
  if_neg (by simp [hmain, hdue, hon, hf])

end Sys2Proof.Machine

namespace Sys2Proof
open Machine

/-- Settles O58: each row by its condition; the sweep pixel by pixel. -/
theorem panelsShowTheirUpdates : Obligations.PanelsShowTheirUpdates := by
  refine ⟨fun c d => ⟨?band, ?fallback, fun hsome hnone => ?lost, fun h => ?kept⟩, fun s d => ⟨?off, ?noSweep, ?noRead, ?noRender⟩,
    fun s hmain => ⟨fun d hd => ⟨?noUpdate, ?update, ?bandRow⟩, ?sweep, ?read, ?render⟩⟩
  case band => rw [evalBand_panel]
  case fallback => rw [evalBand_panel]
  case lost => exact ⟨c.bandJudged d, by rw [evalBand_eq, if_pos (by simp [hsome, hnone])], rfl⟩
  case kept =>
    rw [evalBand_eq, if_neg]
    · rfl
    · rcases h with h | h
      · simp [h]
      · simp [Option.isSome_iff_ne_none.mp h]
  case off => exact fun h => ⟨Leads.of_eq rfl (snapshot_of_off h), Leads.of_eq rfl (bandRow_of_off h)⟩
  case noSweep => exact fun h => Leads.of_eq rfl (sweepTile_of_off h)
  case noRead => exact fun h => Leads.of_eq rfl (compositorRow_of_off h)
  case noRender => exact fun j h => Leads.of_eq rfl (renderDueRow_of_off h)
  case noUpdate => exact fun h => Leads.of_eq rfl (snapshot_of_none hmain hd h)
  case update =>
    intro u h
    have hrow := snapshot_of_update hmain hd h
    refine ⟨_, s.chip.targetsTaken d u, _, rfl, fun hc => ?_, fun l hl => ?_, rfl, fun ctx tag k hsrc hk => ?_, fun hsrc => ?_⟩
    · unfold Chip.targetsTaken
      rw [hc]
    · unfold Chip.targetsTaken
      rw [hl]
    · rw [hsrc] at hrow
      dsimp only at hrow
      rw [show ((s.chip.targetsTaken d u).snapshotTaken d u).findCmd ctx tag = some k from hk] at hrow
      exact Leads.of_eq rfl hrow
    · refine Leads.of_eq rfl (hrow.trans ?_)
      split
      · exact absurd ‹_› (hsrc _ _)
      · rfl
  case bandRow =>
    refine ⟨s.chip.bandDue d, Leads.of_eq rfl (bandRow_of_panel hmain hd), s.chip.le_waitUntil _, bandDue_panel ..,
      fun j hj => bandDue_panel_other _ hj, (Chip.waitUntil_frame _ s.chip).slots rfl⟩
  case sweep =>
    intro d band hup hrate hhost hheld hload hband
    have hrow := sweepTile_of_due hmain hup hrate hhost hheld hload hband rfl rfl
    refine ⟨s.chip.tileDue d, _, _, _, _, _, _, rfl, rfl, rfl, rfl, rfl, rfl, s.chip.le_waitUntil _, tileDue_panel ..,
      fun j hj => tileDue_panel_other _ hj, (Chip.waitUntil_frame _ s.chip).slots rfl, fun h => ?_,
      fun h => ⟨sweepPixel d (s.chip.attrN tyPanel d 10) band, ?_, fun e k => sweepPixel_of_busy, fun e k => sweepPixel_of_low,
        fun e k seq l => sweepPixel_of_pick, fun e k => sweepPixel_of_no_pick⟩⟩
    · exact Leads.of_eq rfl (hrow.trans (if_pos (by simp only [h, Bool.not_false])))
    · exact Leads.of_eq rfl (hrow.trans (if_neg (by simp only [h, Bool.not_true, Bool.false_eq_true, not_false_eq_true])))
  case read =>
    intro h
    exact ⟨s.chip.readDue, Leads.of_eq rfl (compositorRow_of_panels hmain h), s.chip.le_waitUntil _,
      congrArg (fun p : PlateSt => { p with readAt := s.chip.readDue.clk.now + sec 1 }) ((Chip.waitUntil_frame _ s.chip).plate rfl),
      (Chip.waitUntil_frame _ s.chip).panels rfl, (Chip.waitUntil_frame _ s.chip).slots rfl⟩
  case render =>
    intro j hdue hon hf
    have hrow := renderDueRow_of_due hmain hdue hon hf
    refine ⟨s.chip.waitUntil (s.chip.renderFrom j), s.chip.le_waitUntil _, (Chip.waitUntil_frame _ s.chip).plate rfl,
      (Chip.waitUntil_frame _ s.chip).panels rfl, (Chip.waitUntil_frame _ s.chip).slots rfl, fun h => ?_, fun h => ?_⟩
    · exact Leads.of_eq rfl (hrow.trans (if_pos (beq_iff_eq.mpr h)))
    · exact Leads.of_eq rfl (hrow.trans (if_neg (fun hb => h (beq_iff_eq.mp hb))))

end Sys2Proof
end

section
-- One proof after another: side by side, the stacks of their threads reach the check's limit of memory.
set_option Elab.async false
/-! The thermal governor (spec/16; R489–R502). -/

namespace Sys2Proof.Machine

/-! ### The estimate -/

/-- Two states whose governors differ in the sites alone. -/
structure SitesOnly (c d : Chip) : Prop where
  thermal : d.thermal = { c.thermal with sites := d.thermal.sites }

theorem SitesOnly.refl (c : Chip) : SitesOnly c c := ⟨rfl⟩

theorem SitesOnly.trans {c d e : Chip} (h1 : SitesOnly c d) (h2 : SitesOnly d e) : SitesOnly c e := ⟨by
  calc e.thermal = { d.thermal with sites := e.thermal.sites } := h2.thermal
    _ = _ := by rw [h1.thermal]⟩

theorem SitesOnly.foldl {α : Type} {f : Chip → α → Chip} (hf : ∀ c a, SitesOnly c (f c a)) :
    ∀ (l : List α) (c : Chip), SitesOnly c (l.foldl f c)
  | [], c => .refl c
  | a :: l, c => (hf c a).trans (SitesOnly.foldl hf l (f c a))

theorem fire_thermal (c : Chip) (e x : Nat) : (c.fire e x).thermal = c.thermal := (fire_keeps (.refl _) e x c (.refl c)).thermal rfl

theorem excludeSite_sitesOnly (c : Chip) (i reason : Nat) : SitesOnly c (c.excludeSite i reason) := by
  constructor
  unfold Chip.excludeSite
  dsimp only
  rw [fire_thermal]
  rfl

theorem judgeSites_sitesOnly (c : Chip) (k : Nat) : SitesOnly c (c.judgeSites k) :=
  .foldl (fun c i => by
    split
    · exact excludeSite_sitesOnly ..
    · exact .refl c) _ c

/-- The filtered powers of the sources, those of the main side 0 while it is down. -/
def Chip.powersSeen (c : Chip) (power : List Int) : List Rat :=
  filterPowers ((List.range 5).map (fun d => if d < 4 && !c.power.main.up then 0 else (power.getD d 0 : Rat) / 1000)) c.thermal.q

/-- What the governor makes of the powers and of the sites. -/
def ThermalSt.estimated (q : List Rat) (ss : List SiteSt) (t : ThermalSt) : ThermalSt :=
  let base := nextBase q t.base ss
  let est := q16 (base + modelledRise q 4 + (if ({ t with q := q, sites := ss } : ThermalSt).noSite then 10 else 0))
  { t with q := q, sites := ss, base := base, est := est, peak := max t.peak est, updates := t.updates + 1 }

theorem estimate_estimated (c : Chip) (power sites : List Int) :
    ∃ ss, (c.estimate power sites).thermal = c.thermal.estimated (c.powersSeen power) ss := by
  unfold Chip.estimate
  extract_lets k p q c1 c2 c3
  have h1 : SitesOnly c c1 := iteInduction (motive := SitesOnly c) (fun _ => .refl c) fun _ => .foldl (fun c i => by
    split
    · exact ⟨rfl⟩
    · exact .refl c) _ c
  have h2 : c2.thermal = { c.thermal with q := q, sites := c2.thermal.sites } := by
    rw [show c2.thermal = { c1.thermal with q := q, sites := c2.thermal.sites } from rfl, h1.thermal]
  have h3 : c3.thermal = { c.thermal with q := q, sites := c3.thermal.sites } := by
    rw [(judgeSites_sitesOnly c2 k).thermal, h2]
  refine ⟨c3.thermal.sites, ?_⟩
  clear_value c3
  obtain ⟨ss, hss⟩ : ∃ ss, c3.thermal.sites = ss := ⟨_, rfl⟩
  rw [hss] at h3 ⊢
  rw [Chip.setThermal]
  dsimp only
  rw [h3]
  rfl

theorem estimate_thermal (c : Chip) (power sites : List Int) : ∃ ss : List SiteSt,
    (c.estimate power sites).thermal.q = c.powersSeen power ∧ (c.estimate power sites).thermal.sites = ss ∧
    (c.estimate power sites).thermal.base = nextBase (c.powersSeen power) c.thermal.base ss ∧
    (c.estimate power sites).thermal.est = q16 ((c.estimate power sites).thermal.base + modelledRise (c.powersSeen power) 4
      + (if (c.estimate power sites).thermal.noSite then 10 else 0)) ∧
    (c.estimate power sites).thermal.updates = c.thermal.updates + 1 ∧
    (c.estimate power sites).thermal.peak = max c.thermal.peak (c.estimate power sites).thermal.est ∧
    (c.estimate power sites).thermal.step = c.thermal.step := by
  obtain ⟨ss, h⟩ := estimate_estimated c power sites
  rw [h]
  exact ⟨ss, rfl, rfl, rfl, rfl, rfl, rfl, rfl⟩

/-! ### Warning and shutdown -/

theorem judgeWarn_warns {c : Chip} (h : degC 110 ≤ c.thermal.est) (hw : c.thermal.warn = false) :
    c.judgeWarn = (c.setThermal (fun t => { t with warn := true })).fire 100 (c.thermalCause 0) :=
  if_pos (by simp [h, hw])

theorem judgeWarn_ends {c : Chip} (h : c.thermal.est < degC 105) : c.judgeWarn = c.setThermal (fun t => { t with warn := false }) := by
  have h110 : ¬ degC 110 ≤ c.thermal.est := by
    unfold degC at *
    omega
  exact (if_neg (by simp [h110])).trans (if_pos h)

theorem judgeWarn_keeps_warning {c : Chip} (h : degC 105 ≤ c.thermal.est) (hw : c.thermal.est < degC 110 ∨ c.thermal.warn = true) :
    c.judgeWarn = c := by
  refine (if_neg ?_).trans (if_neg (by omega))
  rcases hw with hw | hw
  · simp [hw]
  · simp [hw]

section Shutdown

variable {c : Chip}

theorem judgeShutdown_full (h : c.thermal.full = true) : c.judgeShutdown =
    (false, c.setThermal (fun t => { t with okCount := if c.coolEnough then t.okCount + 1 else 0 })) := if_pos h

theorem judgeShutdown_begins (h : c.thermal.full = false) (hhot : degC 140 ≤ c.thermal.est) :
    c.judgeShutdown = (true, c.fullShutdown.fire 102 (c.thermalCause 1)) :=
  (if_neg (by simp [h])).trans (if_pos hhot)

theorem judgeShutdown_partial (h : c.thermal.full = false) (hs : c.thermal.shutdown = false) (hhot : degC 135 ≤ c.thermal.est)
    (hlt : c.thermal.est < degC 140) : c.judgeShutdown = (true, c.partialShutdown.fire 102 (c.thermalCause 0)) :=
  (if_neg (by simp [h])).trans ((if_neg (by omega)).trans (if_pos (by simp [hhot, hs])))

theorem judgeShutdown_ends (h : c.thermal.full = false) (hs : c.thermal.shutdown = true) (hlt : c.thermal.est < degC 130) :
    c.judgeShutdown = (false, c.endShutdown) := by
  have h140 : ¬ degC 140 ≤ c.thermal.est := by
    unfold degC at *
    omega
  exact (if_neg (by simp [h])).trans ((if_neg h140).trans ((if_neg (by simp [hs])).trans (if_pos (by simp [hlt, hs]))))

theorem judgeShutdown_rests (h : c.thermal.full = false) (hlt : c.thermal.est < degC 135)
    (hs : c.thermal.shutdown = false ∨ degC 130 ≤ c.thermal.est) : c.judgeShutdown = (false, c) := by
  have h140 : ¬ degC 140 ≤ c.thermal.est := by
    unfold degC at *
    omega
  refine (if_neg (by simp [h])).trans ((if_neg h140).trans ((if_neg (by simp [hlt])).trans (if_neg ?_)))
  rcases hs with hs | hs
  · simp [hs]
  · simp [hs]

end Shutdown

/-! ### Throttle steps -/

theorem applyStep_of_same {c : Chip} (h : max c.thermal.stepT c.floorNow = c.thermal.step) (b : Bool) : c.applyStep b = c :=
  if_pos (beq_iff_eq.mpr h)

/-- The module with a new throttle step in force, before it is told. -/
def Chip.stepped (c : Chip) : Chip :=
  c.setThermal (fun t => { t with
    step := max c.thermal.stepT c.floorNow
    steps := if decide (c.thermal.step < max c.thermal.stepT c.floorNow) then t.steps + 1 else t.steps })

theorem applyStep_of_new {c : Chip} (h : max c.thermal.stepT c.floorNow ≠ c.thermal.step) (b : Bool) : c.applyStep b =
    (let e := c.stepped.fire 101 (c.stepped.thermalCause (max c.thermal.stepT c.floorNow +
        16 * b2n (decide (c.thermal.step < max c.thermal.stepT c.floorNow)) + 32 * b2n b))
     (if b then e.powerLimit 1 c.thermal.budget else e).fitVact !(decide (c.thermal.step < max c.thermal.stepT c.floorNow))) :=
  if_neg (fun hb => h (beq_iff_eq.mp hb))

section JudgeStep

variable {t : ThermalSt}

theorem judgeStep_up (h : degC 120 ≤ t.est) (hr : t.risen = false ∨ 199 ≤ t.hot) : t.judgeStep = { t with
    stepsUp := t.stepsUp + b2n (decide (t.stepT + t.stepsUp < 8 + t.stepsDown)), risen := true, hot := 0, cool := 0 } := by
  have h115 : degC 115 ≤ t.est := by
    unfold degC at *
    omega
  refine (if_pos h115).trans ((if_pos ?_).trans ?_)
  · rcases hr with hr | hr
    · simp [h, hr]
    · simp [h, hr]
  · by_cases hs : t.stepT + t.stepsUp < 8 + t.stepsDown
    · rw [if_pos hs, decide_eq_true hs]
      rfl
    · rw [if_neg hs, decide_eq_false hs]
      rfl

theorem judgeStep_hot (h : degC 115 ≤ t.est) (hr : t.est < degC 120 ∨ (t.risen = true ∧ t.hot < 199)) :
    t.judgeStep = { t with hot := t.hot + 1, cool := 0 } := by
  refine (if_pos h).trans (if_neg ?_)
  rcases hr with hr | ⟨hr, hh⟩
  · simp [hr]
  · simp only [hr, Bool.not_true, Bool.false_or, Bool.and_eq_true, decide_eq_true_eq, not_and]
    omega

theorem judgeStep_cool (h : t.est < degC 115) (hc : t.cool < 999) :
    t.judgeStep = { t with risen := false, hot := 0, cool := t.cool + 1 } :=
  (if_neg (by omega)).trans (if_neg (by omega))

theorem judgeStep_down (h : t.est < degC 115) (hc : 999 ≤ t.cool) : t.judgeStep = { t with
    stepsDown := t.stepsDown + b2n (decide (t.stepsDown < t.stepT + t.stepsUp)), risen := false, hot := 0, cool := 0 } := by
  refine (if_neg (by omega)).trans ((if_pos (by omega)).trans ?_)
  by_cases hs : t.stepsDown < t.stepT + t.stepsUp
  · rw [if_pos hs, decide_eq_true hs]
    rfl
  · rw [if_neg hs, decide_eq_false hs]
    rfl

end JudgeStep

theorem takeStep_of_none {c : Chip} (h : c.thermal.stepsUp = 0) : c.takeStep = c := if_pos (beq_iff_eq.mpr h)

theorem takeStep_of_some {c : Chip} (h : c.thermal.stepsUp ≠ 0) : c.takeStep =
    (c.setThermal (fun t => { t with stepsUp := t.stepsUp - 1, stepT := min 8 (t.stepT + 1) })).applyStep false :=
  if_neg (fun hb => h (beq_iff_eq.mp hb))

theorem undoStep_of_none {c : Chip} (h : c.thermal.stepsDown = 0) : c.undoStep = c := if_pos (beq_iff_eq.mpr h)

theorem undoStep_of_some {c : Chip} (h : c.thermal.stepsDown ≠ 0) : c.undoStep =
    (c.setThermal (fun t => { t with stepsDown := t.stepsDown - 1, stepT := t.stepT - 1 })).applyStep false :=
  if_neg (fun hb => h (beq_iff_eq.mp hb))

/-! ### The rows -/

theorem shutdownRelease_of_rest {c : Chip} (h : c.thermal.full = false ∨ c.thermal.okCount < 1000) : c.shutdownRelease = c :=
  if_neg (by rcases h with h | h <;> simp [h])

theorem shutdownRelease_of_cool {c : Chip} (h : c.thermal.full = true) (hok : 1000 ≤ c.thermal.okCount) : c.shutdownRelease =
    (c.setThermal (fun t => { t with full := false, shutdown := false, okCount := 0 })).setPower
      (fun p => { p with thermalHold := false, main := if p.main == .shutdown then .reset else p.main }) :=
  if_pos (by simp [h, hok])

theorem thermalUpdate_of_off {c : Chip} (power sites : List Int) (h : c.power.aoOn = false) : c.thermalUpdate power sites = c :=
  if_pos (by simp [h])

/-- The module whose governor has estimated the die's temperature, and given it to the sampler where that is due. -/
def Chip.estimated (power sites : List Int) (c : Chip) : Chip :=
  if (c.estimate power sites).thermal.updates % 10 == 0 then (c.estimate power sites).setSampler (fun m => { m with
    temp := divr (c.estimate power sites).thermal.est 65536, tempAt := (c.estimate power sites).clk.now })
  else c.estimate power sites

theorem estimated_frame (c : Chip) (power sites : List Int) :
    Keeps Field.sampler (c.estimate power sites) (c.estimated power sites) :=
  iteInduction (motive := Keeps Field.sampler (c.estimate power sites)) (fun _ => setSampler_keeps (.refl _) _ _ (.refl _))
    fun _ => .refl _

theorem estimated_clk (c : Chip) (power sites : List Int) : (c.estimated power sites).clk = c.clk :=
  ((estimated_frame c power sites).clk rfl).trans ((estimate_keeps (.refl _) power sites c (.refl c)).clk rfl)

theorem thermalUpdate_of_on {c : Chip} (power sites : List Int) (h : c.power.aoOn = true) : c.thermalUpdate power sites =
    if ((c.waitUntil c.thermalDue).estimated power sites).judgeWarn.judgeShutdown.1
    then ((c.waitUntil c.thermalDue).estimated power sites).judgeWarn.judgeShutdown.2
    else ((c.waitUntil c.thermalDue).estimated power sites).judgeWarn.judgeShutdown.2.setThermal ThermalSt.judgeStep :=
  if_neg (by simp [h])

end Sys2Proof.Machine

namespace Sys2Proof
open Machine

/-- Settles O59: the estimate through its sites, and each threshold and step by its own condition. -/
theorem thermalGovernorActs : Obligations.ThermalGovernorActs := by
  refine ⟨estimate_thermal, fun c => ⟨?warns, judgeWarn_ends, judgeWarn_keeps_warning, judgeShutdown_full, judgeShutdown_begins,
      judgeShutdown_partial, judgeShutdown_ends, judgeShutdown_rests, applyStep_of_same, ?steps⟩,
    fun t => ⟨judgeStep_up, judgeStep_hot, judgeStep_cool, judgeStep_down⟩,
    fun s => ⟨?update, ?taken, ?undone, ?released, ?off, ?noStep, ?noUndo, ?held⟩⟩
  case warns => exact fun h hw => ⟨c.setThermal (fun t => { t with warn := true }), judgeWarn_warns h hw, rfl⟩
  case steps =>
    exact fun h => ⟨c.stepped, rfl, .of_keeps (setThermal_keeps (.refl _) _ c (.refl c)), applyStep_of_new h⟩
  case update =>
    intro power sites hon
    have hrow := thermalUpdate_of_on power sites hon
    refine ⟨s.chip.waitUntil s.chip.thermalDue, (s.chip.waitUntil s.chip.thermalDue).estimated power sites, s.chip.le_waitUntil _,
      (Chip.waitUntil_frame _ s.chip).thermal rfl, waitUntil_samePlant .., (estimated_frame ..).thermal rfl, estimated_clk ..,
      fun h => ?_, fun h => ?_⟩
    · rw [if_pos h] at hrow
      exact Leads.of_eq rfl hrow
    · rw [if_neg (by simp [h])] at hrow
      exact Leads.of_eq rfl hrow
  case taken => exact fun h => Leads.of_eq rfl (takeStep_of_some h)
  case undone => exact fun h => Leads.of_eq rfl (undoStep_of_some h)
  case released =>
    intro h hok
    refine ⟨_, Leads.of_eq rfl (shutdownRelease_of_cool h hok), rfl, rfl, ?_, ?_⟩
    · show (if _ then _ else _) = _
      simp only [beq_iff_eq]
      rfl
    · exact (SamePlant.of_keeps (setThermal_keeps (.refl _) _ _ (.refl _))).trans (.of_keeps (setPower_keeps (.refl _) _ _ (.refl _)))
  case off => exact fun h power sites => Leads.of_eq rfl (thermalUpdate_of_off power sites h)
  case noStep => exact fun h => Leads.of_eq rfl (takeStep_of_none h)
  case noUndo => exact fun h => Leads.of_eq rfl (undoStep_of_none h)
  case held => exact fun h => Leads.of_eq rfl (shutdownRelease_of_rest h)

end Sys2Proof
end

section
-- One proof after another: side by side, the stacks of their threads reach the check's limit of memory.
set_option Elab.async false
/-! The sheepdogs, memory errors and the lost heartbeat (spec/17, spec/14; R455, R504–R519). -/

namespace Sys2Proof.Machine

/-! ### Bites -/

theorem bite_bites (c : Chip) (dog : Nat) : Tbl.get (fun _ => (0 : Half)) (c.bite dog).dogs.bites dog =
    if Tbl.get (fun _ => (0 : Half)) c.dogs.bites dog = 0xFFFF then 0xFFFF else Tbl.get (fun _ => (0 : Half)) c.dogs.bites dog + 1 := by
  unfold Chip.bite
  rw [Tbl.get_modify_same]
  split
  · assumption
  · rfl

theorem bite_samePlant (c : Chip) (dog : Nat) : SamePlant c (c.bite dog) := .of_keeps (bite_keeps (.refl _) dog c (.refl c))

/-- The module whose groups of SAFE_MASK a lost heartbeat has forced safe. -/
def Chip.heartbeatSafe (c : Chip) : Chip :=
  c.safeMask.foldl (fun c g => c.forceSafe g 3) { c with dogs := { c.dogs with hbLost := true } }

theorem loseHeartbeat_eq (c : Chip) : c.loseHeartbeat = (c.heartbeatSafe.bite 20).fire 115
    (bits (c.attrN tyDevice 0 0x702) 0 8 + 256 * (c.safeMask.map (2 ^ ·)).sum) := rfl

theorem heartbeatSafe_kept (c : Chip) : c.heartbeatSafe.dogs.hbLost = true ∧ c.heartbeatSafe.attrs = c.attrs ∧
    c.heartbeatSafe.flash = c.flash := by
  have h := foldl_keeps (f := fun (c : Chip) g => c.forceSafe g 3) (l := c.safeMask)
    (fun c g => forceSafe_keeps (.refl _) g 3 c (.refl c))
    (.refl { c with dogs := { c.dogs with hbLost := true } })
  exact ⟨congrArg DogSt.hbLost (h.dogs rfl), h.attrs rfl, h.flash⟩

/-! ### What the Orrery loses -/

theorem orreryLoses_zone {c : Chip} {z : Nat} (h : c.dueZone = some z) : c.orreryLoses = (some z,
    if (c.zone z).fit.isSome then (c.setZone z { c.zone z with due := (c.zone z).due.map (· + sec (c.zonePeriod z)) }).startFit z
    else c.setZone z { c.zone z with due := (c.zone z).due.map (· + sec (c.zonePeriod z)) }) := by
  unfold Chip.orreryLoses
  rw [h]

theorem orreryLoses_none {c : Chip} (h : c.dueZone = none) (hp : c.predictions = []) : c.orreryLoses = (none, c) := by
  unfold Chip.orreryLoses
  rw [h]
  dsimp only
  rw [hp]

theorem orreryLoses_commanded {c : Chip} {p : Predict} {rest : List Predict} {x t : Nat} (h : c.dueZone = none)
    (hp : c.predictions = p :: rest) (hc : p.cmd = some (x, t)) :
    c.orreryLoses = (some p.zone, ({ c with predictions := rest } : Chip).finishTag x t stBusy noOfs []) := by
  simp only [Chip.orreryLoses, h, hp, hc]

theorem orreryLoses_scheduled {c : Chip} {p : Predict} {rest : List Predict} (h : c.dueZone = none)
    (hp : c.predictions = p :: rest) (hc : p.cmd = none) :
    c.orreryLoses = (some p.zone, { c with predictions := rest }) := by
  simp only [Chip.orreryLoses, h, hp, hc]

theorem orreryLoses_first {c : Chip} {p : Predict} {rest : List Predict} (h : c.dueZone = none)
    (hp : c.predictions = p :: rest) : c.orreryLoses.1 = some p.zone := by
  cases hc : p.cmd with
  | none => exact congrArg Prod.fst (orreryLoses_scheduled h hp hc)
  | some k => exact congrArg Prod.fst (orreryLoses_commanded h hp hc)

/-! ### The engine of a fold port, and a line of DRAM -/

theorem portBitten_core {c : Chip} {port : Nat} (hand : Option (Nat × Nat)) (h : port < 8) :
    c.portBitten port hand = c.coreBite port hand := if_pos h

theorem portBitten_lane {c : Chip} {port : Nat} (hand : Option (Nat × Nat)) (h8 : 8 ≤ port) (h12 : port < 12) :
    c.portBitten port hand = c.laneBite (port + 1) :=
  (if_neg (by omega)).trans (if_pos h12)

theorem lineLost_of_spare {c : Chip} {line : Nat} (h : (Config.dramLine line).1 % 4 = 0) : c.lineLost line = c := by
  unfold Chip.lineLost
  dsimp only
  rw [h]
  rfl

theorem lineLost_of_panel {c : Chip} {line d : Nat} (h : (Config.dramLine line).1 % 4 = 1) (hd : (Config.dramLine line).2 % 2 = d) :
    c.lineLost line = if panelCount c.fuses.variant ≤ d then c else c.modPanel d (fun s =>
      ((rectKeys 0 0 (c.hActive d) (c.vActive d)).filter (Config.dramPixel line)).foldl
        (fun s k => s.setPixel k { s.pixel k with level := none, trans := none }) s) := by
  unfold Chip.lineLost
  dsimp only
  rw [h, hd]
  rfl

theorem lineLost_of_log {c : Chip} {line : Nat} (h : (Config.dramLine line).1 % 4 = 2) :
    c.lineLost line = { c with log := { c.log with ring := c.log.ring.eraseIdx (Config.dramLine line).2 } } := by
  unfold Chip.lineLost
  dsimp only
  rw [h]
  rfl

theorem lineLost_of_queue {c : Chip} {line : Nat} (h : (Config.dramLine line).1 % 4 = 3) :
    c.lineLost line = c.loseRecord ((Config.dramLine line).2 % 64) := by
  unfold Chip.lineLost
  dsimp only
  rw [h]
  rfl

/-! ### Cores and lanes -/

theorem coreDog_of_off {c : Chip} {core : Nat} (cmd : Option (Nat × Nat)) (h : c.power.main.up = false ∨ 8 ≤ core) :
    c.coreDog core cmd = c :=
  if_pos (by rcases h with h | h <;> simp [h])

theorem coreDog_of_up {c : Chip} {core : Nat} (cmd : Option (Nat × Nat)) (hmain : c.power.main.up = true) (h : core < 8) :
    c.coreDog core cmd = c.coreBite core cmd :=
  if_neg (by simp [hmain, h])

/-- The module that has counted the bite of a core's dog and the core's reset. -/
def Chip.coreBitten (core : Nat) (c : Chip) : Chip :=
  { c.bite (core + 1) with counters := { (c.bite (core + 1)).counters with coreResets := (c.bite (core + 1)).counters.coreResets + 1 } }

theorem coreBitten_reruns (c : Chip) (core : Nat) : (c.coreBitten core).counters.reruns = c.counters.reruns := rfl

theorem coreBitten_cmds (c : Chip) (core : Nat) : (c.coreBitten core).cmds = c.cmds := rfl

theorem coreBite_idle {c : Chip} {cmd : Option (Nat × Nat)} (core : Nat) (h : cmd.bind (fun k => c.findCmd k.1 k.2) = none) :
    c.coreBite core cmd = (c.coreBitten core).fire 112 (dogCause (core + 1)) := by
  unfold Chip.coreBite
  dsimp only
  rw [h]
  rfl

/-- The module that has counted a command run once more. -/
def Chip.rerunCounted (c : Chip) : Chip := { c with counters := { c.counters with reruns := c.counters.reruns + 1 } }

theorem coreBite_reruns {c : Chip} {x t : Nat} {k : Cmd} (core : Nat) (h : c.findCmd x t = some k) (hr : k.rerun = false) :
    c.coreBite core (some (x, t)) =
      ((c.coreBitten core).rerunCounted.setCmd { k with rerun := true }).fire 112 (core + 1 + 65536 * k.tag) := by
  unfold Chip.coreBite
  dsimp only [Option.bind_some]
  rw [h]
  exact if_neg (by simp [hr])

theorem coreBite_resets {c : Chip} {x t : Nat} {k : Cmd} (core : Nat) (h : c.findCmd x t = some k) (hr : k.rerun = true) :
    c.coreBite core (some (x, t)) =
      (((c.coreBitten core).mainReset 4 (core + 1)).fire 112 (core + 1 + 256 + 65536 * k.tag)).logFault 7 core := by
  unfold Chip.coreBite
  dsimp only [Option.bind_some]
  rw [h]
  exact if_pos hr

theorem engineDog_of_off {c : Chip} {dog : Nat} (h : c.power.main.up = false ∨ dog < 9 ∨ 13 < dog) : c.engineDog dog = c := by
  unfold Chip.engineDog
  rcases h with h | h
  · exact if_pos (by simp [h])
  · exact (ite_congr rfl (fun _ => rfl) fun _ => (if_neg (by simp; omega)).trans (if_neg (by simp; omega))).trans (ite_self c)

theorem engineDog_of_lane {c : Chip} {dog : Nat} (hmain : c.power.main.up = true) (h9 : 9 ≤ dog) (h12 : dog ≤ 12) :
    c.engineDog dog = c.laneBite dog :=
  (if_neg (by simp [hmain])).trans (if_pos (by simp [h9, h12]))

/-- The evaluation that a lane's engine loses. -/
def Chip.laneLoses (dog : Nat) (c : Chip) : Option Nat := (c.runningOn (dog - 9)).or (c.nextEval.map Prod.fst)

/-- A loop whose evaluation is abandoned: the one that runs, else the one that waits. -/
def LoopSt.abandoned (s : LoopSt) : LoopSt :=
  if s.running.isSome then { s with running := none } else { s with pending := none }

/-- The module that has abandoned the evaluation of a loop. -/
def Chip.abandoned (dog l : Nat) (c : Chip) : Chip :=
  let c1 := (c.setLoop l (c.loop l).abandoned).bite dog
  { c1 with counters := { c1.counters with abandoned := c1.counters.abandoned + 1 } }

theorem laneBite_eq (c : Chip) (dog : Nat) : c.laneBite dog = match c.laneLoses dog with
    | none => c
    | some l => (c.abandoned dog l).fire 113 (dog + 65536 * l) := by
  unfold Chip.laneBite Chip.laneLoses
  cases c.runningOn (dog - 9) <;> rfl

theorem abandoned_loop (c : Chip) (dog l : Nat) : (c.abandoned dog l).loop l = (c.loop l).abandoned := c.setLoop_same l _

theorem abandoned_loop_other (c : Chip) {dog l j : Nat} (hj : j ≠ l) : (c.abandoned dog l).loop j = c.loop j :=
  c.setLoop_other _ _ _ hj

theorem abandoned_samePlant (c : Chip) (dog l : Nat) : SamePlant c (c.abandoned dog l) := by
  have hbite : SamePlant ((c.setLoop l (c.loop l).abandoned).bite dog) (c.abandoned dog l) :=
    ⟨rfl, rfl, rfl, rfl, rfl, rfl, rfl, rfl, rfl, rfl, rfl⟩
  exact ((setLoop_samePlant c l _).trans (bite_samePlant _ dog)).trans hbite

theorem engineDog_orrery {c d : Chip} {z : Nat} (hmain : c.power.main.up = true) (h : c.orreryLoses = (some z, d)) :
    c.engineDog 13 = (d.bite 13).fire 113 (13 + 65536 * z) := by
  unfold Chip.engineDog
  rw [if_neg (by simp [hmain]), h]
  rfl

theorem engineDog_orrery_idle {c : Chip} (hmain : c.power.main.up = true) (h : c.orreryLoses.1 = none) : c.engineDog 13 = c := by
  unfold Chip.engineDog
  rw [if_neg (by simp [hmain]), show c.orreryLoses = (none, c.orreryLoses.2) from Prod.ext h rfl]
  rfl

/-! ### Fold ports -/

/-- The module that has counted the bite of a fold port's dog. -/
def Chip.foldBitten (dram : Bool) (port : Nat) (c : Chip) : Chip :=
  Chip.bite (if dram then 15 else 14)
    (if dram then { c with foldD := c.foldD.bite port } else { c with foldS := c.foldS.bite port })

theorem foldBitten_fold (c : Chip) (dram : Bool) (port : Nat) :
    (dram = true → (c.foldBitten dram port).foldD = c.foldD.bite port ∧ (c.foldBitten dram port).foldS = c.foldS) ∧
    (dram = false → (c.foldBitten dram port).foldS = c.foldS.bite port ∧ (c.foldBitten dram port).foldD = c.foldD) ∧
    (c.foldBitten dram port).dogs = (c.bite (if dram then 15 else 14)).dogs ∧ SamePlant c (c.foldBitten dram port) := by
  cases dram
  · exact ⟨nofun, fun _ => ⟨rfl, rfl⟩, rfl, ⟨rfl, rfl, rfl, rfl, rfl, rfl, rfl, rfl, rfl, rfl, rfl⟩⟩
  · exact ⟨fun _ => ⟨rfl, rfl⟩, nofun, rfl, ⟨rfl, rfl, rfl, rfl, rfl, rfl, rfl, rfl, rfl, rfl, rfl⟩⟩

theorem foldDog_of_off {c : Chip} {dram : Bool} {port : Nat} (hand : Option (Nat × Nat))
    (h : c.power.main.up = false ∨ foldPort dram port = false) : c.foldDog dram port hand = c :=
  if_pos (by rcases h with h | h <;> simp [h])

theorem foldDog_of_up {c : Chip} {dram : Bool} {port : Nat} (hand : Option (Nat × Nat)) (hmain : c.power.main.up = true)
    (h : foldPort dram port = true) : c.foldDog dram port hand = ((c.foldBitten dram port).portBitten port hand).fireWith 114
      (BitVec.ofNat 32 (port + 256 * b2n dram)) (BitVec.ofNat 32 port) :=
  if_neg (by simp [hmain, h])

/-! ### The main, boot and shepherd dogs -/

theorem mainDog_of_core {c : Chip} {core : Nat} (h : 8 ≤ core) : c.mainDog core = c := if_pos h

theorem mainDog_of_up {c : Chip} {core : Nat} (h : core < 8) (hmain : c.power.main.up = true) :
    c.mainDog core = if c.firmware.running.isSome then c.dogReset 16 else c :=
  (if_neg (by omega)).trans (if_pos hmain)

theorem mainDog_of_boot {c : Chip} {core : Nat} (h : core < 8) (hmain : c.power.main.up = false)
    (hb : c.power.main = .booting ∨ c.mayRelease = true) : c.mainDog core = c.bootBitten 16 (sec 1) :=
  (if_neg (by omega)).trans ((if_neg (by simp [hmain])).trans (if_pos (by simpa using hb)))

theorem mainDog_of_rest {c : Chip} (core : Nat) (hmain : c.power.main.up = false) (hb : c.power.main ≠ .booting)
    (hr : c.mayRelease = false) : c.mainDog core = c := by
  unfold Chip.mainDog
  exact (ite_congr rfl (fun _ => rfl) fun _ => (if_neg (by simp [hmain])).trans (if_neg (by simp [hb, hr]))).trans (ite_self c)

theorem bootDog_of_boot {c : Chip} (hb : c.power.main = .booting ∨ c.mayRelease = true) : c.bootDog = c.bootBitten 17 (sec 15) :=
  if_pos (by simpa using hb)

theorem bootDog_of_rest {c : Chip} (hb : c.power.main ≠ .booting) (hr : c.mayRelease = false) : c.bootDog = c :=
  if_neg (by simp [hb, hr])

/-- The module when a dog of the boot bites: the main side released, and the dog's time over. -/
def Chip.bootLate (after : Nat) (c : Chip) : Chip := c.released.waitUntil (c.released.dogs.release.getD 0 + after)

theorem bootBitten_resets {c : Chip} {dog after : Nat} (h : (c.bootLate after).chooseBank.bank.isSome = true ∨ dog ≠ 16) :
    c.bootBitten dog after = (((c.bootLate after).bankVerified (c.bootLate after).chooseBank).logBanks
      (c.bootLate after).chooseBank).dogReset dog := by
  refine if_neg ?_
  rcases h with h | h
  · have hb : (c.bootLate after).chooseBank.bank.isNone = false := by
      rw [← Option.not_isSome, h]
      rfl
    exact fun hc => Bool.noConfusion (hb.symm.trans (Bool.and_eq_true_iff.mp hc).1)
  · exact fun hc => h (beq_iff_eq.mp (Bool.and_eq_true_iff.mp hc).2)

theorem bootBitten_waits {c : Chip} {after : Nat} (h : (c.bootLate after).chooseBank.bank.isSome = false) :
    c.bootBitten 16 after = c.bootLate after := by
  have hb : (c.bootLate after).chooseBank.bank.isNone = true := by
    rw [← Option.not_isSome, h]
    rfl
  exact if_pos (Bool.and_eq_true_iff.mpr ⟨hb, rfl⟩)

/-- The reset that a dog of the running main side makes. -/
theorem dogReset_resets {c : Chip} (dog : Nat) (hmain : c.power.main.up = true) :
    ((c.bite dog).mainReset 4 dog).power.main = .reset ∧ ((c.bite dog).mainReset 4 dog).cmds = [] ∧
    ((c.bite dog).mainReset 4 dog).ring = [] ∧ ((c.bite dog).mainReset 4 dog).power.lastReset = some c.clk.now ∧
    ((c.bite dog).mainReset 4 dog).slots = c.slots ∧ ((c.bite dog).mainReset 4 dog).flash = c.flash := by
  have hruns : (c.bite dog).mainRuns = true := mainRuns_of_up hmain
  have hpower := mainReset_power 4 dog hruns
  exact ⟨congrArg PowerSt.main hpower, mainReset_cmds 4 dog hruns, mainReset_ring 4 dog hruns, congrArg PowerSt.lastReset hpower,
    mainReset_slots 4 dog, mainReset_flash 4 dog⟩

/-! ### The heartbeat -/

theorem heartbeatRow_of_off {c : Chip} (h : c.power.main.up = false ∨ bits (c.attrN tyDevice 0 0x702) 0 8 = 0 ∨
    c.dogs.hbArmed = false ∨ c.dogs.hbLost = true) : c.heartbeatRow = c :=
  if_pos (by rcases h with h | h | h | h <;> simp [h])

theorem heartbeatRow_of_armed {c : Chip} (hmain : c.power.main.up = true) (hp : bits (c.attrN tyDevice 0 0x702) 0 8 ≠ 0)
    (ha : c.dogs.hbArmed = true) (hl : c.dogs.hbLost = false) : c.heartbeatRow =
      (c.waitUntil (c.dogs.lastBeat + sec (bits (c.attrN tyDevice 0 0x702) 0 8))).loseHeartbeat :=
  if_neg (by simp [hmain, hp, ha, hl])

/-! ### Memory errors -/

theorem memoryEcc_next {mem addr : Nat} (single : Bool) (s : State) (h : addr < memSize mem) :
    exec (.memoryEcc mem addr single) s = .next { s with chip := s.chip.memoryError mem addr single } := if_pos h

theorem memoryError_of_off {c : Chip} (mem addr : Nat) (single : Bool) (h : c.mainRuns = false) :
    c.memoryError mem addr single = c :=
  if_pos (by simp [h])

/-- The counters after an error that was corrected. -/
def CounterSt.corrected (mem : Nat) (k : CounterSt) : CounterSt :=
  if mem == 0 then { k with sramEcc := k.sramEcc + 1 }
  else if mem == 1 then { k with dramEcc := k.dramEcc + 1 }
  else { k with flashEcc := k.flashEcc + 1 }

theorem memoryError_single {c : Chip} (mem addr : Nat) (h : c.mainRuns = true) :
    c.memoryError mem addr true = { c with counters := c.counters.corrected mem } :=
  (if_neg (by simp [h])).trans (if_pos rfl)

/-- The module that has counted an error that could not be corrected. -/
def Chip.errorUncorrected (c : Chip) : Chip :=
  { c with counters := { c.counters with uncorrectable := c.counters.uncorrectable + 1 } }

theorem memoryError_sram {c : Chip} (addr : Nat) (h : c.mainRuns = true) :
    c.memoryError 0 addr false = ((c.errorUncorrected.bite 18).mainReset 4 18).fire 117 (256 * (addr / 256)) := by
  rw [← Nat.zero_add (256 * (addr / 256))]
  exact (if_neg (by simp [h])).trans ((if_neg Bool.false_ne_true).trans (if_pos rfl))

theorem memoryError_dram {c : Chip} (addr : Nat) (h : c.mainRuns = true) :
    c.memoryError 1 addr false = (c.errorUncorrected.fire 117 (1 + 256 * (addr / 256))).lineLost (addr / 16) :=
  (if_neg (by simp [h])).trans ((if_neg Bool.false_ne_true).trans ((if_neg (by decide)).trans (if_pos rfl)))

/-- The module that has noted an address of flash at which a read failed. -/
def Chip.badFlashNoted (addr : Nat) (c : Chip) : Chip :=
  { c with image := { c.image with badFlash := c.image.badFlash ++ [addr] } }

theorem memoryError_flash {c : Chip} (addr : Nat) (h : c.mainRuns = true) : c.memoryError 2 addr false =
    if c.power.main == .booting || c.image.loading.isSome then
      (c.errorUncorrected.fire 117 (2 + 256 * (addr / 256))).badFlashNoted addr
    else c.errorUncorrected.fire 117 (2 + 256 * (addr / 256)) :=
  (if_neg (by simp [h])).trans ((if_neg Bool.false_ne_true).trans ((if_neg (by decide)).trans (if_neg (by decide))))

end Sys2Proof.Machine

namespace Sys2Proof
open Machine

/-- Settles O60: each dog's row by what its engine has in hand, a memory error by its memory. -/
theorem dogsBite : Obligations.DogsBite := by
  refine ⟨fun c dog => ⟨bite_bites c dog, bite_samePlant c dog⟩, ?lost, fun c => ⟨?zone, orreryLoses_none, ?prediction⟩,
    fun c hand => ⟨fun port h => portBitten_core hand h, fun port h8 h12 => portBitten_lane hand h8 h12, rfl, rfl, rfl, rfl, rfl, rfl,
      rfl, rfl, ?hand, ?noHand⟩,
    fun c line => ⟨lineLost_of_spare, fun d => lineLost_of_panel, lineLost_of_log, lineLost_of_queue⟩, ?noAddress,
    fun s => ⟨fun hmain => ⟨?core, ?lane, ?laneIdle, ?orrery, ?orreryIdle, ?fold, ?main, ?mainIdle, ?heartbeat⟩, ?boot, ?shepherd,
      ?memory, ?down, ?noCore, ?noDog, ?noPort, ?noBoot, ?noHeartbeat, ?noShepherd, ?noMemory⟩⟩
  case lost =>
    intro c
    obtain ⟨hl, ha, hf⟩ := heartbeatSafe_kept c
    exact ⟨c.heartbeatSafe, loseHeartbeat_eq c, hl, ha, hf⟩
  case zone =>
    intro z h
    rw [orreryLoses_zone h]
    exact ⟨rfl, fun hf => if_neg (by simp [hf]), fun hf => if_pos hf⟩
  case prediction =>
    intro p rest h hp
    exact ⟨orreryLoses_first h hp, fun x t hc => congrArg Prod.snd (orreryLoses_commanded h hp hc),
      fun hc => congrArg Prod.snd (orreryLoses_scheduled h hp hc)⟩
  case hand =>
    rintro n k rfl
    exact ⟨rfl, fun hn => if_pos hn⟩
  case noHand =>
    rintro rfl
    exact ⟨rfl, rfl⟩
  case noAddress => exact fun s mem addr single h => if_neg (Nat.not_lt.mpr h)
  case core =>
    intro core hcore
    refine ⟨s.chip.coreBitten core, rfl, rfl, bite_samePlant s.chip (core + 1), fun cmd h => ?_, fun x t k h hr => ?_, fun x t k h hr => ?_⟩
    · exact Leads.of_eq rfl ((coreDog_of_up cmd hmain hcore).trans (coreBite_idle core h))
    · have hrow := (coreDog_of_up (some (x, t)) hmain hcore).trans (coreBite_reruns core h hr)
      exact ⟨(s.chip.coreBitten core).rerunCounted, congrArg (· + 1) (coreBitten_reruns s.chip core),
        coreBitten_cmds s.chip core, Leads.of_eq rfl hrow⟩
    · have hrow := (coreDog_of_up (some (x, t)) hmain hcore).trans (coreBite_resets core h hr)
      exact Leads.of_eq rfl hrow
  case lane =>
    intro dog l h9 h12 h
    have hrow := (engineDog_of_lane hmain h9 h12).trans (laneBite_eq s.chip dog)
    rw [show s.chip.laneLoses dog = some l from h] at hrow
    refine ⟨s.chip.abandoned dog l, Leads.of_eq rfl hrow, fun hr => ?_, fun hr => ?_, fun j hj => abandoned_loop_other _ hj, rfl,
      abandoned_samePlant ..⟩
    · rw [abandoned_loop, LoopSt.abandoned, if_pos hr]
    · rw [abandoned_loop, LoopSt.abandoned, if_neg (by simp [hr])]
  case laneIdle =>
    intro dog h9 h12 hr hn
    have hrow := (engineDog_of_lane hmain h9 h12).trans (laneBite_eq s.chip dog)
    rw [show s.chip.laneLoses dog = none by rw [Chip.laneLoses, hr, hn]; rfl] at hrow
    exact Leads.of_eq rfl hrow
  case orrery => exact fun z d h => Leads.of_eq rfl (engineDog_orrery hmain h)
  case orreryIdle => exact fun h => Leads.of_eq rfl (engineDog_orrery_idle hmain h)
  case fold =>
    intro dram port hand h
    obtain ⟨hd, hs, hdogs, hplant⟩ := foldBitten_fold s.chip dram port
    exact ⟨s.chip.foldBitten dram port, hd, hs, hdogs, hplant, Leads.of_eq rfl (foldDog_of_up hand hmain h)⟩
  case main =>
    intro core hcore hrun
    exact ⟨_, Leads.of_eq rfl ((mainDog_of_up hcore hmain).trans (if_pos hrun)), dogReset_resets 16 hmain⟩
  case mainIdle => exact fun core hcore hrun => Leads.of_eq rfl ((mainDog_of_up hcore hmain).trans (if_neg (by simp [hrun])))
  case heartbeat =>
    intro hp ha hl
    exact ⟨_, Leads.of_eq rfl (heartbeatRow_of_armed hmain hp ha hl), s.chip.le_waitUntil _, (Chip.waitUntil_frame _ s.chip).dogs rfl,
      waitUntil_samePlant ..⟩
  case boot =>
    intro hb
    refine ⟨⟨s.chip.bootLate (sec 15), s.chip.released.le_waitUntil _,
      Leads.of_eq rfl ((bootDog_of_boot hb).trans (bootBitten_resets (.inr (by decide))))⟩, fun hmain core hcore =>
      ⟨s.chip.bootLate (sec 1), s.chip.released.le_waitUntil _, fun h => ?_, fun h => ?_⟩⟩
    · exact Leads.of_eq rfl ((mainDog_of_boot hcore hmain hb).trans (bootBitten_resets (.inl h)))
    · exact Leads.of_eq rfl ((mainDog_of_boot hcore hmain hb).trans (bootBitten_waits h))
  case shepherd => exact fun h => Leads.of_eq rfl (if_pos h)
  case memory =>
    intro mem addr hruns haddr
    refine ⟨⟨_, Leads.of_eq (memoryEcc_next true s haddr) (memoryError_single mem addr hruns),
      ⟨rfl, rfl, rfl, rfl, rfl, rfl, rfl, rfl, rfl, rfl, rfl⟩, rfl, ?_, ?_, ?_⟩, s.chip.errorUncorrected, rfl,
      ⟨rfl, rfl, rfl, rfl, rfl, rfl, rfl, rfl, rfl, rfl, rfl⟩, ?_, ?_, ?_⟩
    · rintro rfl
      rfl
    · rintro rfl
      rfl
    · rintro rfl
      rfl
    · rintro rfl
      exact Leads.of_eq (memoryEcc_next false s haddr) (memoryError_sram addr hruns)
    · rintro rfl
      exact Leads.of_eq (memoryEcc_next false s haddr) (memoryError_dram addr hruns)
    · rintro rfl
      have hflash := memoryError_flash addr hruns
      refine ⟨_, rfl, fun h => ?_, fun hb hi => ?_⟩
      · exact Leads.of_eq (memoryEcc_next false s haddr) (hflash.trans (if_pos (by simpa using h)))
      · exact Leads.of_eq (memoryEcc_next false s haddr) (hflash.trans (if_neg (by simp [hb, hi])))
  case down =>
    exact fun h => ⟨fun core cmd => Leads.of_eq rfl (coreDog_of_off cmd (.inl h)), fun dog => Leads.of_eq rfl (engineDog_of_off (.inl h)),
      fun dram port hand => Leads.of_eq rfl (foldDog_of_off hand (.inl h)), Leads.of_eq rfl (heartbeatRow_of_off (.inl h))⟩
  case noCore =>
    exact fun core h => ⟨fun cmd => Leads.of_eq rfl (coreDog_of_off cmd (.inr h)), Leads.of_eq rfl (mainDog_of_core h)⟩
  case noDog => exact fun dog h => Leads.of_eq rfl (engineDog_of_off (.inr h))
  case noPort => exact fun dram port hand h => Leads.of_eq rfl (foldDog_of_off hand (.inr h))
  case noBoot =>
    exact fun hb hr => ⟨Leads.of_eq rfl (bootDog_of_rest hb hr), fun hmain core => Leads.of_eq rfl (mainDog_of_rest core hmain hb hr)⟩
  case noHeartbeat => exact fun h => Leads.of_eq rfl (heartbeatRow_of_off (.inr h))
  case noShepherd => exact fun h => Leads.of_eq rfl (if_neg (by simp [h]))
  case noMemory =>
    exact fun h mem addr single haddr => Leads.of_eq (memoryEcc_next single s haddr) (memoryError_of_off mem addr single h)

end Sys2Proof
end
